-- ==== Sys2Proof/Word.lean ====
section
/-! DEFINITION. The word types of the module: bytes, register words and sparse tables by number. -/

namespace Sys2Proof

/-- One byte, the unit of every memory structure (R3). -/
abbrev Byte := BitVec 8

/-- A 64-bit register or structure word (R67, R496). -/
abbrev Word64 := BitVec 64

/-- A sparse table by number: key and content, keys strictly rising. -/
abbrev Table (α : Type) := List (Nat × α)

end Sys2Proof
end

