-- ==== Sys2Proof/Syntax.lean ====
section
/-! DEFINITION. The commands of the block: one constructor of `Instr` for each row of the operation table, with the
operands the row's event carries. An operand named `c` is the number of a command held in the queue store; `h` is a
collection handle. Where the module makes a choice that no rule fixes (the home cluster, the tier address a structure
was put at), the choice is an operand, so that a statement about the row covers every choice. -/

namespace Sys2Proof

/-- A ring in host memory: completion ring 0 to 4,095 or event ring 0 to 7 (R77, R84). -/
inductive RingId where
  | cq (n : Nat)
  | ev (e : Nat)
deriving DecidableEq, Repr

/-- A unit that is retired, slept, woken or tested: kind code of Table 17.6 and logical number. -/
structure UnitId where
  kind    : Nat
  logical : Nat
deriving DecidableEq, Repr

/-- What an ATS Translation Completion carries (R362). -/
inductive AtsAnswer where
  /-- a translation: page size in bytes, bus address of its start, R, W and U -/
  | page (size bus : Nat) (r w u : Bool)
  /-- Unsupported Request, Completer Abort or a malformed completion, with its PCIe status -/
  | failed (pcieStatus : Nat)
deriving DecidableEq, Repr

/-- A PRI page-request response (R363). -/
inductive PriAnswer where
  | success | invalidRequest | responseFailure
deriving DecidableEq, Repr

/-- The answer to a read of a region-table granule (R364). -/
inductive TableAnswer where
  | entries (es : List Word64)
  | refused (pcieStatus : Nat)
  | poisoned
deriving DecidableEq, Repr

/-- A word of collection data, as a row of Table 17.2 names it; a node's neighbour list and its sketches share a row. -/
inductive DataWord where
  | code | record | tomb | seq | tombLog | links | sketch
deriving DecidableEq, Repr

/-- The transport header of a Consort packet (Table 15.1), with what its check found (R384). -/
structure PktHdr where
  ver    : Nat
  ptype  : Nat
  pflags : BitVec 16
  conn   : Nat
  psn    : Nat
  ackPsn : Nat
  msgId  : Nat
  msgOff : Nat
  msgLen : Nat
  /-- the CRC-32C or the AES-256-GCM tag matched -/
  checkOk : Bool
deriving DecidableEq, Repr

/-- One entry of a shard's result list on the wire: a result entry of Table 2.10 and its own flags (Table 15.5). -/
structure WireEntry where
  vid    : Nat
  dist   : Nat
  score  : BitVec 32
  shard  : Nat
  eflags : BitVec 16
  arith  : BitVec 7
deriving DecidableEq, Repr

/-- A shard's report entry (R394) with the tail count and stamp of its list (R392) and its counts. -/
structure ShardReport where
  viewEpoch : Nat
  horizon   : Nat
  status    : Nat
  shardId   : Nat
  returned  : Nat
  hflags    : BitVec 16
  tail      : Nat
  stamp     : BitVec 32
  examined  : Nat
  passed    : Nat
deriving DecidableEq, Repr

/-- A mirrored journal record: what the partner's duties rest on, and its bytes (R400). -/
structure MirrorRec where
  seq    : Nat
  /-- an INSERT or UPSERT record, which holds a source -/
  source : Bool
  image  : List Byte
deriving DecidableEq, Repr

/-- What a lost stripe of the image or dump area held (Table 12.10): entries by collection and slot, program images, tables,
and the journal numbers of a dump's records. -/
structure Gone where
  entries : List (Nat × Nat)
  progs   : List Nat
  tables  : List Nat
  dump    : List Nat
deriving DecidableEq, Repr

/-- What a cold start finds wrong (Table 19.4): the signature of the factory calibration, the training of a tier or flash
interface, unreadable banks of the user calibration, the repair map and the root, and the units that fail self-test. -/
structure StartFaults where
  calibration : Bool
  training    : Bool
  ucalA       : Bool
  ucalB       : Bool
  mapA        : Bool
  mapB        : Bool
  rootA       : Bool
  rootB       : Bool
  selfTest    : List UnitId
deriving DecidableEq, Repr

/-- One command of the block: the rows of the operation table, in the table's order. -/
inductive Instr where
  -- host port
  | commit (off : Nat) (data : List Byte)
  | cqHeadWrite (q : Nat) (v : BitVec 32)
  | evrHeadWrite (e : Nat) (v : Word64)
  | ringContextWord0Write (r : RingId) (v : Word64)
  | ringContextWord1Write (r : RingId) (v : Word64)
  | ringZeroingDone (r : RingId)
  | portEnableWrite (v : Word64)
  | blkErrClear (page : Nat) (v : Word64)
  | boreDebugWrite (cluster : Nat) (v : Word64)
  | crkBootLenWrite (v : Word64)
  | wwyLedgerSelWrite (v : Word64)
  | blwCalSelWrite (v : Word64)
  | blwOfsTrimWrite (v : Word64)
  | blwOfsTapWrite (v : Word64)
  | registerWrite (bar off : Nat) (data : List Byte)
  -- Windway and completions
  | startDecision (home : Nat)
  | refusalScan
  | completionPost (c : Nat)
  | coalesceTimerExpiry (r : RingId)
  | msixUnmask (vector : Nat)
  -- the command set
  | nop (c : Nat)
  | flush (c : Nat)
  | barrier (c : Nat)
  | collCreate (c : Nat)
  | collDrop (c : Nat)
  | collQuery (c : Nat)
  | collConfigPlacement (c : Nat)
  | collConfigIndexKind (c : Nat)
  | collConfigGrant (c : Nat)
  | collConfigRevoke (c : Nat)
  | insert (c : Nat)
  | insertBatch (c : Nat)
  | delete (c : Nat)
  | upsert (c : Nat)
  | lookup (c : Nat)
  | setAttr (c : Nat)
  | journalWrite (c : Nat)
  | searchFlat (c : Nat)
  | searchGraph (c : Nat)
  | searchFanout (c : Nat)
  | searchBatch (c : Nat)
  | rerank (c : Nat)
  | encode (c : Nat)
  | progLoadLoad (c : Nat)
  | progLoadRetire (c : Nat)
  | tableLoad (c : Nat)
  | tableSwap (c : Nat)
  | consolidateFold (c : Nat)
  | consolidateCompact (c : Nat)
  | consolidateSet (c : Nat)
  | consolidateReport (c : Nat)
  | reencode (c : Nat)
  | checkpointNow (c : Nat)
  | checkpointSetInterval (c : Nat)
  | exportCmd (c : Nat)
  | importCmd (c : Nat)
  | xlatInvalidate (c : Nat)
  | regionRegister (c : Nat)
  | regionRelease (c : Nat)
  | readDeferred (c : Nat)
  | readLog (c : Nat)
  | domainCreate (c : Nat)
  | domainDestroy (c : Nat)
  | queueCreate (c : Nat)
  | queueDestroy (c : Nat)
  | cqCreate (c : Nat)
  | cqDestroy (c : Nat)
  | cqEnable (c : Nat)
  | classConfig (c : Nat)
  | abort (c : Nat)
  | adminSetTime (c : Nat)
  | queryLimits (c : Nat)
  | keyLoad (c : Nat)
  | keyClear (c : Nat)
  | fabricKey (c : Nat)
  | accountRead (c : Nat)
  | securityState (c : Nat)
  -- Slide
  | slideIssue (engine port addr bytes : Nat)
  | transferLanded (engine ring slot bytes : Nat) (poison : Bool)
  | blockListPieceArrival (c : Nat)
  | streamDeadlock (rings : List (Nat × Nat))
  | resourceWaitTimeout (c : Nat)
  -- searches and arithmetic
  | scanBlockScored (c block : Nat)
  | localListHandover (c group reed : Nat)
  | valveMerge (c : Nat) (tower : Option Nat)
  | spillReduction (c tower : Nat)
  | walkRoundCommit (c : Nat)
  | deadlineCut (c : Nat)
  | contextMoved (fromCore toCore : Nat)
  | boreRegionDrained (c : Nat)
  | splitCombine (c : Nat)
  | accParityError (cluster row col : Nat)
  | columnSpared (cluster tile col cause : Nat)
  | barrierAcknowledged (b : Nat)
  -- Drone
  | foldStart (h : Nat)
  | foldAgeExpiry (h : Nat)
  | foldCommit (h : Nat)
  | slotRelease (h : Nat)
  | patchApply (h : Nat)
  | compactionTrigger (h key : Nat)
  | tombstoneSettlement (h : Nat)
  | reencodeStep (h : Nat)
  | reencodeDone (h : Nat)
  | repartition (h : Nat)
  | indexBuild (h : Nat)
  | autoEvaluation
  | dataRepaired (h slot : Nat) (w : DataWord) (tierAddr media : Nat) (copyOk : Bool)
  -- shared tables, tiers and units
  | tablePaused (t : Nat) (cluster bankByte : Nat)
  | tableResumed (t : Nat) (fromBag : Bool) (unreadable : Option Nat)
  | tierUe (tier chan addr : Nat) (byScrub : Bool) (c : Option Nat)
  | tierScrub (tier chan row corrected pct : Nat) (uncorrectable : Bool)
  | rowRepaired (tier chan addr : Nat)
  | unitSelfTest (u : UnitId) (pass : Bool)
  | unitRetired (u : UnitId) (cause : Nat)
  | unitHang (u : UnitId)
  | unitReturn (u : UnitId)
  | unitSleep (u : UnitId)
  | unitWake (u : UnitId)
  -- Bellows
  | monitorSample (rail slowest tempTenths : Nat) (ofsHundredths : Int)
  | floorWindow (counts : List Nat)
  | floorLost (rail best : Nat)
  | floorRestored (rail : Nat)
  | paceWear (u : UnitId) (slowdown : Nat)
  | phaseSpared (phase : Nat)
  | powerSample (inputW inputMv : Nat)
  | powerPeak (watts milliamps : Nat)
  | temperatureSample (die : Nat) (dieT : Int) (stack : Nat) (stackT : Int) (heldUs : Nat)
  | coolantValveUpdate (position : Nat)
  | blwFloorWrite (v : Word64)
  | blwCapWrite (v : Word64)
  | blwVtargetWrite (v : Word64)
  | blwGuardWrite (v : Word64)
  | ucalSave
  | ucalSaveDone (ok : Bool)
  | ucalFactory
  -- Bag
  | stripeProgrammed
  | drainTimeout
  | journalPoison (seq : Nat) (headerOk : Bool)
  | checkpointTimer
  | checkpointDone
  | logCleaning (stripe : Nat)
  | flashScrub (stripe unit : Nat) (refresh unreadable : Bool)
  | memberFailed (whole channel die : Nat) (media : Nat)
  | rebuildDone (channel stripes : Nat)
  | stripeLost (stripe member : Nat) (refilled unread : List Nat) (gone : Gone)
  | holdupMeasurement (fullMj nowMj : Nat)
  | holdupChargeTimeout
  | holdupThresholdReached (nowMj : Nat)
  | powerLoss
  | dumpSealed
  | pwrfailAssert (ns : Nat)
  -- module hardware, start and reset
  | overvoltage
  | mateBreak
  | inputSwitchClose
  | coldStart (f : StartFaults)
  | restartAfterSeal
  | warmReset (recordOk : Bool)
  | perstBeforeReady
  | functionLevelReset
  | resetReportPost
  | linkChanged (rate width : Nat) (l0p flit : Bool)
  | fatalError (block number addr : Nat)
  -- Crook
  | atsTranslationCompletion (dom va : Nat) (a : AtsAnswer) (ns : Nat)
  | pageRequestResponse (dom va : Nat) (a : PriAnswer)
  | pageRequestTimeout (dom va : Nat)
  | regionTableReadDone (dom va : Nat) (a : TableAnswer)
  | atsInvalidateRequest (pasid : Option Nat) (base len : Nat)
  | invalidationDrained (n ns : Nat)
  | atsEnableCleared
  -- Consort
  | laneSpared (port lane : Nat) (loopbackFails : Bool)
  | cablePresenceChange (port : Nat) (present memAnswers : Bool)
  | portState (port : Nat) (up : Bool)
  | hello (peer conn shard portsUp : Nat)
  | helloAck (peer conn shard portsUp : Nat)
  | close (peer : Nat)
  | ack (peer ackPsn : Nat) (bitmap : Word64) (ce : Nat)
  | resendTimeout (peer : Nat)
  | connectionDown (peer : Nat)
  | helloRetry (peer : Nat)
  | rateIncrease (peer : Nat)
  | subq (peer request : Nat) (subKind coll shardId : Nat) (bnd cut : Bool) (deadlineUs codeBits encVersion encNext : Nat)
      (params : List Byte) (codes : List Byte) (rq : List Byte) (filter : List Byte) (tset : List Nat)
  | subres (peer request : Nat) (rep : ShardReport) (es : List WireEntry)
  | rcmd (peer q : Nat) (cmd : List Byte) (data : List Byte)
  | rcpl (peer q : Nat)
  | reject (peer q reason nextSeq : Nat)
  | event (peer : Nat)
  | mrec (peer : Nat) (recs : List MirrorRec)
  | mack (peer seq : Nat)
  | mfetch (peer first last : Nat)
  | mtrim (peer ckptSeq : Nat) (dead : List (Nat × Nat))
  | mirrorTimeout
  | cstPeerCtlWrite (v : Word64)
  | cstMirrorWrite (v : Word64)
  | cstShardWrite (v : Word64)
  -- management
  | getState (transport : Nat)
  | off (transport : Nat)
  | coldReset (transport : Nat)
  | mgmtWarmReset (transport : Nat)
  | holdSet (transport : Nat)
  | holdClear (transport : Nat)
  | format (transport : Nat)
  | mgmtSetTime (transport seconds : Nat)
  | kekSet (transport generation : Nat) (key : BitVec 256)
  | debugEnable (transport serial : Nat) (tokenOk : Bool)
  | firmwareUpdate (component svn release : Nat) (signatureOk : Bool)
  | activateFirmware (component : Nat)
  | spdmRequest (transport code : Nat) (data : List Byte)
  | spdmSessionTimeout (transport : Nat)
  -- rows listed after these
  | registerRead (bar off size : Nat)
  | urgTokenBucketFill (dom : Nat)
  | slideBucketFill (engine : Nat) (maintenance : Bool) (ns : Nat)
  | checkpointWaitExpiry (c : Nat)
  | nodeReadArrival (c node : Nat)
  | perstDeassert
  | managementControllerPowerUp (straps : Nat)
  | priEnableSet
  | mctpControl (transport eid : Nat)
  | pldmSetEventReceiver (transport eid : Nat)
  | addressResolutionRequest (port : Nat) (ipHi ipLo : Nat)
  | dataPacket (peer : Nat) (known : Bool) (port : Nat) (hdr : PktHdr) (payload : List Byte) (ce : Bool)
  | ackDelayTimer (peer : Nat)
  | mapSaveDone (ok : Bool)
deriving DecidableEq, Repr

end Sys2Proof
end

