-- ==== Sys2Proof/Decode.lean ====
section
/-! DEFINITION. The operation table gives none of its rows a bit (every row's "fields" is empty and no row has a
"fixed"), so no word spells a command. -/

namespace Sys2Proof

/-- The command that the low `nbits` of `w` spell by the table's bits: none, since no row of the table gives bits. -/
def decodeTableWord (_nbits _w : Nat) : Option Instr := none

end Sys2Proof
end

