-- ==== Sys2Proof/Config.lean ====
section
/-! DEFINITION. What an implementation fixes and the spec leaves open: free values without a body, so that no
proof can rest on one. -/

namespace Sys2Proof

/-- Where Bag put member `m` of stripe `s` on its channel: die, block and page as bits [50:14] of a form 1 media
address. Bag chooses it by no rule the host can know (R311). Log entry 12. -/
opaque Config.stripePlace : Nat → Nat → BitVec 37

/-- The media key that the `n`-th format generates from the module's random source (R488). Log entry 13. -/
opaque Config.mediaKey : Nat → BitVec 256

/-- The block cipher of a keyed region (R490): for a key and the tweak of a 16-byte unit, a permutation of the unit's
128 bits. The rule names AES-256-XTS and does not say how one 256-bit slot gives the cipher's two keys, so the model
keeps only that deciphering undoes enciphering. Log entry 16. -/
opaque Config.xts : BitVec 256 → BitVec 128 → Equiv.Perm (BitVec 128)

/-- The key that unwrapping a 40-byte block under the KEK gives, none when the integrity check fails (R489; RFC 3394 is
named and not restated). Log entry 17. -/
opaque Config.unwrap : BitVec 256 → List Byte → Option (BitVec 256)

/-- When a stage of Table 10.9 was to end by the plan that admission charged, in ns from the commit: for an opcode, a stage
code and the plan's fixed floor in ns (R269; no rule divides the plan among its stages). Log entry 18. -/
opaque Config.stagePlan : Nat → Nat → Nat → Nat

/-- The max payload size that the host has set, as a code: 0 128 B, 1 256 B, 2 512 B, taken modulo 3 (Table 3.1). Log entry
93. -/
opaque Config.payloadCode : BitVec 2

/-- What the device key signs or derives for an SPDM exchange (R486): the answer to request `code` carrying `data`.
Log entry 14. -/
opaque Config.spdmAnswer : Nat → List Byte → List Byte

/-- What GET_STATE shows of the time of day before it has been set (Table 20.2 gives no value). Log entry 86. -/
opaque Config.unsetTime : BitVec 64

/-- The sign and payload of a NaN that an IEEE 754 addition leaves unfixed (R345, ADD.F32). Log entry 15. -/
opaque Config.nanPayload : Word64 → Word64 → BitVec 32

/-- The word of collection data that the module has put at a tier address: handle, slot, and the word by its place in
`DataWord`. For a tier (0 fast, 1 bulk), a stack or channel and a byte address; the spec fixes the stack or tower of a
structure and no byte address. Log entry 40. -/
opaque Config.wordAt : Nat → Nat → Nat → Nat × Nat × Nat

/-- The first byte of a collection's graph area on a stack: for a handle and a stack (R143; no rule fixes where the area lies).
Log entry 40. -/
opaque Config.graphBase : Nat → Nat → Nat

/-- The operation code that FOLD_COMMITTED carries for a tombstone settlement, which Table 11.6 does not list. Log entry
48. -/
opaque Config.settlementOp : BitVec 4

/-- The operation code that FOLD_COMMITTED carries for the commit of a node that is linked again after a repair, which Table
11.6 does not list either. Log entry 48. -/
opaque Config.relinkOp : BitVec 4

/-- Bytes of changed extents that the checkpoint of a root number writes (R323; the granularity of extents is the
module's own). Log entry 56. -/
opaque Config.ckptBytes : Nat → Nat

/-- Free spare blocks of a die (channel × 32 + die) of which so many pages have failed, and the blocks of a die (R327, R332;
when a block's health criteria retire it is the module's own). Log entry 57. -/
opaque Config.spareBlocks : Nat → Nat → Nat
opaque Config.dieBlocks : Nat

/-- Wear of a channel in per cent of its rated cycles, once so many user bytes have been written (R332; how Bag spreads its
writes is its own). Log entry 58. -/
opaque Config.channelWear : Nat → Nat → Nat

/-- The tier address at which the row of a DRAM address begins: for a tier (0 fast, 1 bulk) and a byte address (R351; the size
and layout of rows are the devices' own). Log entry 60. -/
opaque Config.rowStart : Nat → Nat → Nat

/-- What a traffic counter of a tier or tower network shows: for its BAR0 offset and the reference time (FTC_READ, FTC_WRITE,
FTC_ADDS, their BKC counterparts and WCH_LINKS; the bytes that each channel and link carries follow placements that the spec
leaves to the module). Log entry 61. -/
opaque Config.traffic : Nat → Nat → Word64

/-- The 64 bytes of the security state block for its values: c, the SVN of each bank, fw_fallback, debug enabled and key 0
revoked (Table 20.5, R488; no rule gives the block's layout). Log entry 63. -/
opaque Config.securityBlock : List Nat → BitVec 512

/-- The MAC address of a fabric port, set at manufacture (CST_PORT_MAC). Log entry 76. -/
opaque Config.portMac : Nat → BitVec 48

/-- The input power in W with no command work running, for the rails' voltages, their temperatures and the units asleep (R416,
factory calibration). Log entry 80. -/
opaque Config.pBase : List Nat → List Int → Nat → Nat

/-- A rail's part of P_base + P_res, in millionths (R413; no rule gives the division). Log entry 81. -/
opaque Config.railPart : Nat → Nat

/-- A byte of the payload of a journal record whose layout no rule gives (COLL, REENCODE, COMMIT, PROGRAM, TABLE, ADMIN), as it
is shipped to a mirror: for the record's type, collection and number, and the byte's place (Table 12.2). Log entry 113. -/
opaque Config.recordByte : Nat → Nat → Nat → Nat → BitVec 8

/-- The Slide engine whose MNT bucket a data unit is charged to: for the number of the stripe and of the unit (R315; no rule
names the engine). Log entry 114. -/
opaque Config.unitEngine : Nat → Nat → Nat

/-- Factory value of a calibrated item and the factory limits that its effective value keeps to, by kind and index (R421, R423,
R505), and the pace monitors of a die. Log entry 82. -/
opaque Config.calFactory : Nat → Nat → Int
opaque Config.calLimits : Nat → Nat → Int × Int
opaque Config.monitors : Nat → Nat

end Sys2Proof
end

