-- ==== Sys2Proof/Machine/Regs.lean ====
section
/-! DEFINITION. The register pages of BAR0 (chapter 21 and the register tables of the other chapters): page map,
access masks and reset values. Each register is one `RegDef`; bits in none of its masks are RO or reserved. -/

namespace Sys2Proof.Machine

/-- The blocks of Table 21.1. -/
inductive Blk where
  | mpc | wwy | crk | chn | blw | bag | drn | sec | wch | ftc | bkc | reed | kwk | cst | sld | bore | bell | vlv
deriving DecidableEq, Repr

/-- A register: offset in its page, reset value, and the bits of each access type of Table 0.1. -/
structure RegDef where
  off   : Nat
  reset : Nat := 0
  rw    : Nat := 0
  rwl   : Nat := 0
  w1c   : Nat := 0
  rc    : Nat := 0
  wo    : Nat := 0
  bits32 : Bool := false
deriving DecidableEq, Repr

/-- Pages of Table 21.1 (R494): block and number of page `p`. -/
def pageBlk (p : Nat) : Option (Blk × Nat) :=
  if p = 0 then some (.mpc, 0) else if p = 1 then some (.wwy, 0) else if p = 2 then some (.crk, 0)
  else if p = 3 then some (.chn, 0) else if p = 4 then some (.blw, 0) else if p = 5 then some (.bag, 0)
  else if p = 6 then some (.drn, 0) else if p = 7 then some (.sec, 0)
  else if 0x010 ≤ p ∧ p < 0x014 then some (.wch, p - 0x010)
  else if 0x020 ≤ p ∧ p < 0x02C then some (.ftc, p - 0x020)
  else if 0x040 ≤ p ∧ p < 0x080 then some (.bkc, p - 0x040)
  else if 0x080 ≤ p ∧ p < 0x090 then some (.reed, p - 0x080)
  else if 0x090 ≤ p ∧ p < 0x094 then some (.kwk, p - 0x090)
  else if 0x0A0 ≤ p ∧ p < 0x0AD then some (.cst, p - 0x0A0)
  else if 0x100 ≤ p ∧ p < 0x120 then some (.sld, p - 0x100)
  else if 0x120 ≤ p ∧ p < 0x140 then some (.bore, p - 0x120)
  else if 0x140 ≤ p ∧ p < 0x160 then some (.bell, p - 0x140)
  else if 0x160 ≤ p ∧ p < 0x180 then some (.vlv, p - 0x160)
  else none

/-- First page of a block. -/
def blkPage0 : Blk → Nat
  | .mpc => 0 | .wwy => 1 | .crk => 2 | .chn => 3 | .blw => 4 | .bag => 5 | .drn => 6 | .sec => 7 | .wch => 0x010
  | .ftc => 0x020 | .bkc => 0x040 | .reed => 0x080 | .kwk => 0x090 | .cst => 0x0A0 | .sld => 0x100 | .bore => 0x120
  | .bell => 0x140 | .vlv => 0x160

/-- Page of number `i` of block `b`. -/
def blkPage (b : Blk) (i : Nat) : Nat := blkPage0 b + i

/-- BAR0 offset of the register at `off` of page `p`. -/
def pageReg (p off : Nat) : Nat := p * 4096 + off

/-- Block type codes (Table 21.1). -/
def blkType : Blk → Nat
  | .mpc => 1 | .wwy => 2 | .crk => 3 | .chn => 4 | .blw => 5 | .bag => 0x0A | .drn => 0x11 | .sec => 0x12 | .wch => 6
  | .ftc => 8 | .bkc => 9 | .reed => 0x0B | .kwk => 0x0C | .cst => 0x10 | .sld => 7 | .bore => 0x0D | .bell => 0x0E
  | .vlv => 0x0F

/-- Pages of each block type (Table 21.1; BLK_CAP count). -/
def blkCount : Blk → Nat
  | .wch => 4 | .ftc => 12 | .bkc => 64 | .reed => 16 | .kwk => 4 | .cst => 13 | .sld => 32 | .bore => 32
  | .bell => 32 | .vlv => 32 | _ => 1

/-- BLK_CAP map_end (R506 and §21.3 to §21.7). -/
def blkMapEnd (b : Blk) (i : Nat) : Nat :=
  match b with
  | .mpc => 0x2D8 | .wwy => 0x158 | .crk => 0x140 | .chn => 0x140 | .blw => 0x1B0 | .bag => 0x158 | .drn => 0x138
  | .sec => 0x120 | .wch => 0x118 | .ftc => 0x138 | .bkc => 0x138 | .reed => 0x120 | .kwk => 0x160
  | .cst => if i = 12 then 0x160 else 0x120
  | .sld => 0x150 | .bore => 0x158 | .bell => 0x120 | .vlv => 0x120

/-- Spare kind shown in BLK_SPARE (Table 21.1). -/
def blkSpareKind (b : Blk) (i : Nat) : Nat :=
  match b with
  | .wwy => 10 | .crk => 10 | .chn => 6 | .blw => 7 | .bag => 13 | .wch => 3 | .ftc => 11 | .bkc => 11 | .reed => 5
  | .kwk => 4 | .cst => if i = 12 then 0 else 8
  | .sld => 2 | .bore => 1 | .bell => 2 | .vlv => 2 | _ => 0

/-- Spares left at manufacture (Table 21.1; log entry 20 for the pages whose count differs from part to part). -/
def blkSpares (b : Blk) (i : Nat) : Nat :=
  match b with
  | .wwy => 512 | .crk => 128 | .chn => 2 | .blw => 16 | .bag => 18 | .wch => 1 | .ftc => 64 | .bkc => 32
  | .kwk => 2 | .cst => if i = 12 then 0 else 4
  | .sld => 1 | .bore => 16 | .bell => 1 | .vlv => 1 | _ => 0

/-- Lowest event code of a block (R498, Table 17.12). -/
def blkEvtBase : Blk → Nat
  | .mpc => 0x10 | .wwy => 0x20 | .reed => 0x50 | .kwk => 0x60 | .vlv => 0x70 | .bore => 0x80 | .bell => 0x90
  | .sld => 0xA0 | .drn => 0xB0 | .bag => 0xC0 | .ftc => 0xD0 | .bkc => 0xD0 | .wch => 0xD0 | .crk => 0xE0
  | .cst => 0xF0 | .blw => 0x100 | .chn => 0x110 | .sec => 0x120

def ones64 : Nat := 0xFFFF_FFFF_FFFF_FFFF

/-- The common header (R496). BLK_CTL is 1 outside MPC. -/
def headerRegs (b : Blk) (i : Nat) : List RegDef :=
  [ { off := 0x000, reset := 0x0100_0000 + i * 65536 + blkType b, bits32 := true },
    { off := 0x004, reset := 0x0000_0100, bits32 := true },
    { off := 0x008, reset := blkMapEnd b i * 65536 + blkCount b },
    { off := 0x010, reset := if b = .mpc then 0 else 1, rw := if b = .mpc then 1 else 0 },
    { off := 0x018 },
    { off := 0x020, w1c := ones64 },
    { off := 0x028 },
    { off := 0x030 },
    { off := 0x038, rw := ones64 },
    { off := 0x040, reset := 0xFFFF, rw := 0xFFFF },
    { off := 0x048 },
    { off := 0x050, reset := 1 } ]

/-- The identity that the host reads from the endpoint's configuration space (Table 3.1): vendor, device and class code. -/
def pcieIdentity : Nat × Nat × Nat := (0x1E7D, 0x0109, 0x12_0000)

/-- The rates in GT/s (2.5 as 2) and widths at which the link trains (R63, Table 3.1). -/
def linkSupports (rate width : Nat) : Bool := rate ∈ [64, 32, 16, 8, 5, 2] && width ∈ [16, 8, 4, 2, 1]

/-- Contexts of completion ring 0 and event rings, 32 bytes apart (R501). Words 2 and 3 are reserved: they read as zero, and a
write of anything else makes the context invalid (R4, R77). -/
def ctxRegs (base : Nat) : List RegDef :=
  [ { off := base, rw := ones64 }, { off := base + 8, rw := ones64 }, { off := base + 16, wo := ones64 }, { off := base + 24, wo := ones64 } ]

def mpcRegs : List RegDef :=
  ctxRegs 0x100 ++ [ { off := 0x120, rc := 0xFFFF_FFFF_0000_0000 } ]
  ++ (List.range 8).flatMap (fun e => ctxRegs (0x140 + 0x20 * e))
  ++ (List.range 8).map (fun e => ({ off := 0x240 + 8 * e, rw := 0xFFFF } : RegDef))
  ++ (List.range 8).map (fun e => ({ off := 0x280 + 8 * e, rc := 0xFFFF_FFFF_0000_0000 } : RegDef))
  ++ [ { off := 0x2C0 }, { off := 0x2C8 }, { off := 0x2D0, rc := 0xFFFF_FFFF_0000_0000 } ]

def wwyRegs : List RegDef :=
  [ { off := 0x100, reset := 0x3FFC0 * 2 ^ 32 },
    { off := 0x108, reset := 0x190 * 2 ^ 32 + 1 }, { off := 0x110, reset := 0x800 }, { off := 0x118, reset := 0x400 },
    { off := 0x120, reset := 0x200 }, { off := 0x128, reset := 0x100 },
    { off := 0x130, reset := 0x384 * 2 ^ 32 }, { off := 0x138, rc := ones64 }, { off := 0x140, rw := 0x3F07 },
    { off := 0x148 }, { off := 0x150 } ]

def crkRegs : List RegDef :=
  [ { off := 0x100, rwl := 0xFFFF_FFE0_0000 }, { off := 0x108, rwl := 0x1FF_FFE0_0000 }, { off := 0x110 },
    { off := 0x118 }, { off := 0x120, rc := ones64 }, { off := 0x128, rc := 0xFFFF_FFFF_0000_0000 },
    { off := 0x130, rc := 0xFFFF_FFFF_0000_0000 }, { off := 0x138, rc := ones64 } ]

def chnRegs : List RegDef :=
  [ { off := 0x100 }, { off := 0x108, reset := 1 }, { off := 0x110, reset := 0x02_7654_3210 }, { off := 0x118 },
    { off := 0x120, rc := ones64 }, { off := 0x128 }, { off := 0x130 }, { off := 0x138 } ]

def blwRegs : List RegDef :=
  [ { off := 0x100, reset := 0x8C, rw := 0xFF }, { off := 0x108, reset := 0x5AA_0000_05AA, rw := 0x7FF },
    { off := 0x110, reset := 0x2BC, rw := 0x3FF },
    { off := 0x118 }, { off := 0x120 }, { off := 0x128 }, { off := 0x130 }, { off := 0x138 },
    { off := 0x140, rc := 0xFFFF_FFFE }, { off := 0x148 }, { off := 0x150 },
    { off := 0x158, reset := 0x01F4_0201, rw := 0x3FFF_0F01, rc := 0xFFFF_0000_0000_0000 },
    { off := 0x160, reset := 0xB8_0010 }, { off := 0x168 }, { off := 0x170, rw := 0xFF_FFFF_FFFF },
    { off := 0x178, rw := 0xFFFF }, { off := 0x180, rw := 0xFFFF_FFFF }, { off := 0x188, reset := 0x1_0000_0000 },
    { off := 0x190, reset := 0x1_0000_0000 }, { off := 0x198, wo := 3 }, { off := 0x1A0, reset := 0x14, rw := 0xFF },
    { off := 0x1A8, rw := 0x1FF } ]

def bagRegs : List RegDef :=
  [ { off := 0x100 }, { off := 0x108, reset := 0x01F4_003C, rw := 0xFFFF_FFFF }, { off := 0x110, reset := 2 },
    { off := 0x118 }, { off := 0x120 }, { off := 0x128, rc := 1 }, { off := 0x130 }, { off := 0x138, rw := 0x1F },
    { off := 0x140, rc := 0xFFFF }, { off := 0x148 }, { off := 0x150 } ]

def drnRegs : List RegDef :=
  [ { off := 0x100, reset := 0x32, rw := 0xFF }, { off := 0x108, reset := 0x0010_0000_0064_1388, rw := ones64 },
    { off := 0x110 }, { off := 0x118 }, { off := 0x120 }, { off := 0x128, rc := ones64 },
    { off := 0x130, reset := 0x1000_0C08_0000_03E8, rw := 0xFFFF_FFFF_0000_FFFF } ]

def secRegs : List RegDef :=
  [ { off := 0x100 }, { off := 0x108 }, { off := 0x110 }, { off := 0x118, rc := 0xFFFF_FFFF_FFFF } ]

def wchRegs : List RegDef :=
  [ { off := 0x100, reset := 0x8_7654_3210 }, { off := 0x108, rc := ones64 }, { off := 0x110 } ]

/-- FTC pages, and BKC pages with `bulk` set: the second reset values, and no adders (§13.6). -/
def tierRegs (bulk : Bool) : List RegDef :=
  [ { off := 0x100, reset := (if bulk then 0x1_0000 else 0xBE00) * 2 ^ 32 }, { off := 0x108 }, { off := 0x110 } ]
  ++ (if bulk then [] else [ { off := 0x118 } ])
  ++ [ { off := 0x120, rc := ones64 }, { off := 0x128, reset := (if bulk then 32 else 64) * 65536 },
       { off := 0x130, reset := if bulk then 0x18 else 0x0C, rw := 0xFF } ]

/-- REED pages: groups 0 to 11 are the stack groups, 12 to 15 the bulk groups (R117). -/
def reedRegs (g : Nat) : List RegDef :=
  [ { off := 0x100, reset := if g < 12 then 0xFFFF_FFFF else 0xFFFF }, { off := 0x108 }, { off := 0x110 },
    { off := 0x118, rc := ones64 } ]

/-- Byte i of a map register holds `base + i`. -/
def byteMap (base : Nat) : Nat := (List.range 8).foldl (fun a i => a + (base + i) * 256 ^ i) 0

def kwkRegs : List RegDef :=
  [ { off := 0x100, reset := 0xFFFF_FFFF }, { off := 0x108, reset := 0x0400_3C00 },
    { off := 0x110, reset := 0x0001_0000_0001_0000 }, { off := 0x118 }, { off := 0x120, rc := ones64 },
    { off := 0x128, rc := ones64 }, { off := 0x140, reset := byteMap 0 }, { off := 0x148, reset := byteMap 8 },
    { off := 0x150, reset := byteMap 16 }, { off := 0x158, reset := byteMap 24 } ]

def cstPortRegs (n : Nat) : List RegDef :=
  [ { off := 0x100 }, { off := 0x108, reset := byteMap (8 * n) }, { off := 0x110, rc := ones64 }, { off := 0x118 } ]

def cstRegs : List RegDef :=
  [ { off := 0x100, rw := ones64 }, { off := 0x108, rw := ones64 },
    { off := 0x110, reset := 0xB920_B8A0_0000, rw := 0xFFFF_FFFF_FF0F }, { off := 0x118, rw := 0x1FFF },
    { off := 0x120, rw := 0x3FF }, { off := 0x128, rw := ones64 }, { off := 0x130, rw := ones64 },
    { off := 0x138, rw := 0x1_FF0F_0000 }, { off := 0x140, reset := 0x07D0_0000_0000, rw := 0x1_FFFF_0001_03FF },
    { off := 0x148 }, { off := 0x150, reset := 0xA_0001, rw := 0x3FF_00FF }, { off := 0x158, rc := ones64 } ]

def sldRegs : List RegDef :=
  [ { off := 0x100, reset := 0x3400, rc := 0xFF_0000 }, { off := 0x108, reset := 0x2000_0000_2000 },
    { off := 0x110, reset := 0x1000, rc := 0xFFFF_0000_0000 },
    { off := 0x118, reset := 0x0100_0000_FFFF, rw := 0xFFFF_0000_FFFF }, { off := 0x120, reset := 0x0100_0000_0000 },
    { off := 0x128 }, { off := 0x130 }, { off := 0x138, rc := ones64 }, { off := 0x140, rc := 0xFFFF_FFFF },
    { off := 0x148, rc := ones64 } ]

def boreRegs (n : Nat) : List RegDef :=
  [ { off := 0x100, reset := n / 8 * 256 + n % 8 }, { off := 0x108, reset := 0xFFFF_0000 },
    { off := 0x110, reset := ones64 }, { off := 0x118, reset := ones64 }, { off := 0x120 }, { off := 0x128 },
    { off := 0x130, rc := ones64 }, { off := 0x138, rw := 1 }, { off := 0x140, rw := 0x3_FFFF }, { off := 0x148 },
    { off := 0x150 } ]

def bellRegs : List RegDef :=
  [ { off := 0x100 }, { off := 0x108, rc := 0xFFFF_FFFF_0000_0000 }, { off := 0x110, reset := 0x8000 },
    { off := 0x118, rc := 0x7F_FFFF_FFFF } ]

def vlvRegs : List RegDef :=
  [ { off := 0x100 }, { off := 0x108 }, { off := 0x110, reset := 0x10, rc := 0xFFFF_FFFF_0000_0000 },
    { off := 0x118, rc := 0xFFFF_FFFF } ]

/-- All registers of a page. -/
def pageRegs (b : Blk) (i : Nat) : List RegDef :=
  headerRegs b i ++
  match b with
  | .mpc => mpcRegs | .wwy => wwyRegs | .crk => crkRegs | .chn => chnRegs | .blw => blwRegs | .bag => bagRegs
  | .drn => drnRegs | .sec => secRegs | .wch => wchRegs | .ftc => tierRegs false | .bkc => tierRegs true
  | .reed => reedRegs i | .kwk => kwkRegs | .cst => if i = 12 then cstRegs else cstPortRegs i
  | .sld => sldRegs | .bore => boreRegs i | .bell => bellRegs | .vlv => vlvRegs

/-- The register at offset `off` of a page. -/
def regDef (b : Blk) (i off : Nat) : Option RegDef := (pageRegs b i).find? (fun r => r.off = off)

/-- The register at a BAR0 offset, with its block. -/
def regAt (o : Nat) : Option (Blk × Nat × RegDef) :=
  match pageBlk (o / 4096) with
  | some (b, i) => (regDef b i (o % 4096)).map (fun r => (b, i, r))
  | none => none

/-- Reset value at a BAR0 offset; zero where there is no register. -/
def regReset (o : Nat) : Word64 :=
  match regAt o with
  | some (_, _, r) => BitVec.ofNat 64 r.reset
  | none => 0

/-- Event codes whose enable bit reads 1 and ignores writes of 0 (R498): those that can have severity 3 (HOLDUP,
PORT_STATE, THERMAL, PHASE_SPARED, MODE_CHANGED, FATAL_ERROR) and those that report a command's outcome. The REED row
of Table 17.12 has one code, SCAN_POISON. -/
def evtAlways : List Nat :=
  [0x00C3, 0x00F1, 0x0104, 0x0105, 0x0110, 0x0116, 0x0020, 0x0050, 0x0060, 0x0070, 0x0081, 0x0091, 0x00A0, 0x00A1]

/-- Bits of BLK_EVT_EN that always read 1. -/
def evtAlwaysMask (b : Blk) : Nat :=
  (List.range 16).foldl (fun a i => if (blkEvtBase b + i) ∈ evtAlways then a + 2 ^ i else a) 0

end Sys2Proof.Machine
end

