-- ==== Sys2Proof/Machine/State.lean ====
section
/-! DEFINITION. Everything the spec gives the module to hold, as plain data, and the state right after reset.
The register file is one table keyed by BAR0 offset; an unlisted register reads its reset value (Machine/Regs.lean).
Tables by number are sorted lists. Every field that is the model's own and not the spec's says so. -/

namespace Sys2Proof.Machine

/-! ## Records and collections -/

/-- A 32-byte record (Table 2.4). `flags` holds user_flags only; side and enc_next are kept with the entry (R40). -/
structure Rec where
  vid    : Nat
  tenant : Nat
  flags  : BitVec 16
  a0     : Nat
  a1     : Nat
  a2     : Nat
  a3     : Nat
  labels : Word64
  ts     : Nat
deriving DecidableEq, Repr

/-- An entry's source vector: held, or lost beyond repair (Table 12.10), or absent since import (R331). -/
inductive Src where
  | held (bytes : List Byte)
  | lost
deriving DecidableEq, Repr

/-- One stored entry of a collection, by slot (R37, R280). A code is a number whose bit i is code bit i (R120). -/
structure Entry where
  slot    : Nat
  record  : Rec
  code    : Nat
  encNext : Bool
  version : Nat
  src     : Src
  /-- journal sequence number of the mutation that wrote the slot -/
  seq     : Nat
  queue   : Nat
  tag     : Nat
  /-- reference time of the journal write (R286, age_ms) -/
  at_     : Nat
deriving DecidableEq, Repr

/-- A partition: its slots in ascending order, where it lies (R118, R338) and its heat (R341). -/
structure Part where
  slots : List Nat
  bulk  : Bool
  place : Nat
  scans : Nat
  heat  : Nat
deriving DecidableEq, Repr

/-- The arrangement of a collection at one view epoch (R49): partitions by key, graph nodes by slot with their
neighbour lists, the entry set, the side list in append order and the tombstone log. -/
structure Arr where
  epoch    : Nat
  parts    : Table Part
  nodes    : Table (List Nat)
  entrySet : List Nat
  side     : List Nat
  tombLog  : Table Nat
deriving DecidableEq, Repr

/-- Drone's operations (Table 11.6, R285). -/
inductive DroneOp where
  | fold | compaction | reencodeStep | repartition | apply | build
deriving DecidableEq, Repr

/-- A placement move queued by AUTO evaluation or a change of policy (R341, R343). -/
structure Move where
  key    : Nat
  toBulk : Bool
deriving DecidableEq, Repr

/-- An operation in progress on a collection: its kind, its cut, the partition it is limited to (compaction of one
partition), the placement move it carries out, the command that asked for it and when it started. -/
structure DroneRun where
  op    : DroneOp
  cut   : Nat
  key   : Option Nat
  move  : Option Move
  by_   : Option Nat
  since : Nat
deriving DecidableEq, Repr

/-- A commit whose slots wait for the last search of an earlier epoch (R283). -/
structure Release where
  commitSeq : Nat
  epoch     : Nat
  slots     : List Nat
deriving DecidableEq, Repr

/-- A collection (Table 2.1, Table 2.3) and all it holds. -/
structure Coll where
  codeBits   : Nat
  srcDim     : Nat
  srcFormat  : Nat
  placement  : Nat
  indexKind  : Nat
  partMode   : Nat
  degree     : Nat
  encVersion : Nat
  /-- 0xFFFF when none (Table 2.3) -/
  encNext    : Nat
  epochBase  : Nat
  centroid   : Nat
  /-- handle of the shared table that holds the entry set; 0xFFFF for FLAT (R156, Table 11.6) -/
  entryTbl   : Nat
  /-- generation of the centroid table that the partitions follow (R302) -/
  centroidGen : Nat
  /-- centroid codes in force for the partitions (R302) -/
  centroids  : List Nat
  owner      : Nat
  incomplete : Bool
  migrating  : Bool
  building   : Bool
  /-- which structure a build lacks: true when the graph is missing -/
  buildGraph : Bool
  viewEpoch  : Nat
  lastCut    : Nat
  sideHw     : Nat
  ageMs      : Nat
  tombPm     : Nat
  grants     : Table Nat
  entries    : Table Entry
  /-- slots whose tombstone bit is set, each with the sequence number that set it (R48, R53) -/
  tombs      : Table Nat
  arr        : Arr
  releases   : List Release
  run        : Option DroneRun
  moves      : List Move
  patches    : List Nat
  /-- highest journal sequence number of the collection whose completion record has been written (R51) -/
  posted     : Nat
  /-- highest journal sequence number journaled for the collection (R52) -/
  journaled  : Nat
  recoded    : Nat
  recodeLost : Nat
  sideHigh   : Bool
  dropping   : Bool
deriving DecidableEq, Repr

/-! ## Domains, regions, translation -/

/-- A registered region (R357). -/
structure Region where
  base      : Nat
  length    : Nat
  read      : Bool
  write     : Bool
  mirror    : Bool
  key       : Nat
  tableAddr : Nat
deriving DecidableEq, Repr

/-- A deferred-store entry (Table 4.12). -/
structure Deferred where
  seq    : Nat
  vid    : Nat
  coll   : Nat
  status : Nat
  queue  : Nat
  tag    : Nat
  dflags : BitVec 16
  media  : Word64
  /-- its number in the domain's store, the model's own: entries keep the order in which they were added (R115) -/
  no     : Nat
deriving DecidableEq, Repr

/-- An X128 accounting slot (Table 13.4). -/
structure X128 where
  nan   : Bool
  whNeg : Bool
  whPos : Bool
  wl    : Bool
  value : BitVec 120
deriving DecidableEq, Repr

/-- A tenancy domain (Table 4.5, Table 14.3, R114, R493). -/
structure Domain where
  pasid      : Nat
  evRing     : Nat
  urgRate    : Nat
  urgBurst   : Nat
  quota      : Nat
  atsOk      : Bool
  mirrorOk   : Bool
  priOk      : Bool
  maxRegions : Nat
  keyMask    : Word64
  regions    : List Region
  tokens     : Nat
  deferred   : List Deferred
  /-- number of the next entry of the deferred store -/
  nextDef    : Nat
  lost       : Nat
  scanned    : Nat
  expansions : Nat
  macs       : Nat
  energy     : X128
deriving DecidableEq, Repr

/-- One entry of the translation cache (R361, R366, R373). -/
structure CacheEntry where
  dom        : Nat
  va         : Nat
  size       : Nat
  bus        : Nat
  read       : Bool
  write      : Bool
  untranslated : Bool
  ats        : Bool
  withdrawn  : Bool
  holds      : Nat
deriving DecidableEq, Repr

/-- A Translation Request, page request or region-table read outstanding (R362-R364). -/
structure XlatReq where
  dom   : Nat
  va    : Nat
  write : Bool
  /-- 0 Translation Request, 1 page request, 2 region-table read -/
  kind  : Nat
  /-- the range was invalidated after the request was sent, so its answer is discarded (R373) -/
  stale : Bool
deriving DecidableEq, Repr

/-- An invalidation waiting for its drain (R373-R375). -/
structure Inval where
  n      : Nat
  dom    : Nat
  base   : Nat
  len    : Nat
  /-- completes: the host's Invalidate Request (none) or a command -/
  cmd    : Option Nat
deriving DecidableEq, Repr

/-- Crook besides its registers (R359-R376). -/
structure Crook where
  cache      : List CacheEntry
  reqs       : List XlatReq
  /-- faults that requests ended in and that no access has reported yet: domain, page, status (R362-R364) -/
  failed     : List (Nat × Nat × Nat)
  invals     : List Inval
  nextInval  : Nat
  atsEnable  : Bool
  priEnable  : Bool
  priStopped : Bool
  bootLocked : Bool
deriving DecidableEq, Repr

/-! ## Rings, queues and commands -/

/-- An event record before its ring is chosen (Table 3.9). -/
structure Ev where
  code  : Nat
  sev   : Nat
  block : Nat
  unit  : Nat
  dom   : Nat
  coll  : Nat
  queue : Nat
  tag   : Nat
  seq   : Nat
  time  : Nat
  addr  : Word64
  i0    : Word64
  i1    : Word64
  i2    : Word64
deriving DecidableEq, Repr

/-- A completion or event ring (R77-R85). -/
structure Ring where
  base      : Nat
  sizeLog2  : Nat
  intEn     : Bool
  vector    : Nat
  coalCount : Nat
  coalTime  : Nat
  domain    : Nat
  enabled   : Bool
  faulted   : Bool
  zeroing   : Bool
  tail      : Nat
  phase     : Bool
  head      : Nat
  /-- records written since the last interrupt message (R83) -/
  since     : Nat
  /-- the next event record carries LOST_BEFORE (R85) -/
  lostDebt  : Bool
  /-- event rings: events due and not yet written, oldest first, while the ring is zeroed or a page is translated -/
  waiting   : List Ev
deriving DecidableEq, Repr

/-- A queue (Table 4.1, Table 3.5). -/
structure Queue where
  domain     : Nat
  ring       : Nat
  depth      : Nat
  cls        : Nat
  fabric     : Bool
  nextSeq    : Nat
  rejects    : Nat
  lastReason : Nat
  /-- QUEUE_DESTROY has begun: commits are refused with QUEUE_DISABLED (R90) -/
  closing    : Bool
  /-- the peer that a fabric-facing queue last took a command from (R397, R399) -/
  peer       : Nat
deriving DecidableEq, Repr

/-- A class of queues: 0 URG, 1 A, 2 B, 3 C, 4 D (R98, Table 4.5). -/
structure Cls where
  bounded    : Bool
  weight     : Nat
  deadlineUs : Nat
  credit     : Int
  lastServed : Nat
deriving DecidableEq, Repr

/-- Where a command's phases stand (R87, R92). -/
inductive Phase where
  | waiting | executing | finished
deriving DecidableEq, Repr

/-! ### Work of a command in execution -/

/-- A block-list entry that carries data (Table 10.3). -/
structure BlkData where
  addr : Nat
  len  : Nat
  zero : Bool
deriving DecidableEq, Repr

/-- A walk over a block list (R250-R252). -/
structure ListWalk where
  next   : Nat
  /-- entries left in the current segment; none in the first segment, whose size the list does not state -/
  left   : Option Nat
  datas  : List BlkData
  links  : Nat
  total  : Nat
  want   : Nat
  done   : Bool
deriving DecidableEq, Repr

/-- A Bore accumulator (R192). -/
structure Acc where
  value  : Int
  flags  : BitVec 7
  /-- PINNED, with true for + -/
  pinned : Option Bool
  nan    : Bool
  poison : Bool
  /-- in lane mode the value is the lower lane's and this the upper lane's, both in whole units (R204) -/
  lane   : Option Int
deriving DecidableEq, Repr

/-- A buffer of an encoder program (R229). -/
inductive Buf where
  | fp32 (xs : List (BitVec 32))
  | half (bf16 : Bool) (xs : List (BitVec 16))
  | int8 (xs : List Byte)
  /-- QUANT output or packed sign bits: format, scale mode, element codes, scale codes -/
  | quant (fmt mode : Nat) (codes : List Nat) (scales : List Nat)
deriving DecidableEq, Repr

/-- One vector on its way through a program: its buffers, flag union, flagged elements and first flagged part (R201,
R227, R242). -/
structure EncVec where
  bufs      : Table Buf
  flags     : BitVec 7
  flagged   : Nat
  firstPart : Nat
  /-- the parts of a split step, computed and not combined: accumulators per part, per output row (R206) -/
  parts     : List (List Acc)
  /-- device-virtual address of a source word that arrived with poison: everything computed from the vector is poison (R211) -/
  poison    : Option Nat
deriving DecidableEq, Repr

/-- A batch of vectors on its way through a program (R240, R510): the program's version and its image as it stood when the
command was admitted, the batch's number, the tower that a chain-mode program runs on (R241), the steps still to run (R232)
and the vectors. -/
structure Enc where
  version : Nat
  img     : List Byte
  batch   : Nat
  tower   : Nat
  steps   : List Nat
  vecs    : List EncVec
deriving DecidableEq, Repr

/-- A drained output region that stands in one of a Bell's tile buffers: the command, its rows and its tile status word (R201,
R217). -/
structure TileBuf where
  cmd    : Nat
  rows   : Nat
  status : Word64
deriving DecidableEq, Repr

/-- A Bell's vector registers by number, each of up to 1,024 elements and clear where it is not listed, and its occupied tile
buffers, the oldest first (R216, R217). -/
structure BellUnit where
  vregs : Table (List (BitVec 32))
  tiles : List TileBuf
  /-- commands whose drain waits for a tile buffer -/
  waits : List Nat
deriving DecidableEq, Repr

/-- A candidate on its way through Valve (R166). -/
structure Cand where
  vid     : Nat
  dist    : Nat
  slot    : Nat
  side    : Bool
  encNext : Bool
  shard   : Nat
  score   : BitVec 32
  arith   : BitVec 7
deriving DecidableEq, Repr

/-- A sorted list with its tail count and stamp (R169). -/
structure CList where
  entries : List Cand
  tail    : Nat
  stamp   : BitVec 32
deriving DecidableEq, Repr

/-- A spill buffer of a tower Valve (R173-R175). -/
structure Spill where
  buf      : List Cand
  boundary : Option Cand
  tail     : Nat
  stamp    : BitVec 32
deriving DecidableEq, Repr

/-- A scan block dealt to a Reed of a group (R118, R119). -/
structure Block where
  group  : Nat
  reed   : Nat
  slots  : List Nat
  scored : Bool
deriving DecidableEq, Repr

/-- A rerank query block: scale code and INT4 elements (R131). -/
structure RQuery where
  e     : Nat
  elems : List Nat
deriving DecidableEq, Repr

/-- One query of a search: its codes, rerank queries and lists (R123, R125). -/
structure Query where
  qCur   : Nat
  qNext  : Nat
  rqCur  : Option RQuery
  rqNext : Option RQuery
  /-- local lists keyed by group × 64 + Reed -/
  reeds  : Table CList
  /-- groups and Reeds whose list has been handed over -/
  handed : Table CList
  towers : Table CList
  spills : Table Spill
  merged : Option CList
  scored : Bool
  final  : Option CList
  arith  : BitVec 7
deriving DecidableEq, Repr

/-- A filter block (Table 2.6) with its tenant set. -/
structure Filter where
  ctl     : BitVec 16
  tset    : List Nat
  attrSel : Nat
  tenant  : Nat
  anyMask : Word64
  allMask : Word64
  noneMask : Word64
  terms   : List (Nat × Nat)
  timeLo  : Nat
  timeHi  : Nat
deriving DecidableEq, Repr

/-- A beam entry of a walk (R150). -/
structure Beam where
  cand     : Cand
  expanded : Bool
deriving DecidableEq, Repr

/-- A graph walk (R148, R150): committed state, and the round in progress. -/
structure Walk where
  beam     : List Beam
  cand     : CList
  visited  : List Nat
  rounds   : Nat
  expansions : Nat
  /-- nodes expanded by the round in progress -/
  front    : List Nat
  /-- reads of the round not yet returned -/
  waiting  : List Nat
  /-- neighbour lists returned: true once phase A has formed C -/
  listed   : Bool
  /-- nodes to score at the commit -/
  cset     : List Nat
  /-- nodes of the round whose heads are read and stay so, while a moved context reads its neighbour list again (R163) -/
  headsRead : List Nat
  seeding  : Bool
  ended    : Bool
  contexts : List Nat
  lead     : Nat
  beamSize : Nat
  width    : Nat
  maxExp   : Nat
  maxRounds : Nat
  slack    : Nat
  strict   : Bool
deriving DecidableEq, Repr

/-- A search in execution (R120-R135, R150-R160, R172). -/
structure Search where
  h        : Nat
  /-- the collection as it stood when the search was admitted: its view epoch's structures (R49, R55) -/
  coll     : Coll
  horizon  : Nat
  k        : Nat
  kSel     : Nat
  rerankN  : Nat
  key      : Nat
  maxDist  : Nat
  filter   : Option Filter
  queries  : List Query
  blocks   : List Block
  examined : Nat
  passed   : Nat
  seenCur  : Bool
  seenNext : Bool
  walk     : Option Walk
  enc      : List Enc
  cut      : Bool
  /-- the rerank had begun at the cut, and completes (R139) -/
  begun    : Bool
  incomplete : Bool
  stride   : Nat
deriving DecidableEq, Repr

/-- One shard of a fan-out (Table 15.3, R394). -/
structure Shard where
  peer    : Nat
  coll    : Nat
  shardId : Nat
  request : Nat
  report  : Option ShardReport
  entries : List WireEntry
  answered : Bool
deriving DecidableEq, Repr

/-- A fan-out search at its coordinator (R390-R396). -/
structure Fan where
  shards  : List Shard
  k       : Nat
  kSel    : Nat
  rerankN : Nat
  key     : Nat
  h       : Nat
  cut     : Bool
  enc     : List Enc
  sent    : Bool
  /-- when the sub-queries were sent, and the deadline in µs that they carry; 0 for none (R396) -/
  sentAt  : Nat
  subUs   : Nat
  params  : List Byte
  /-- what each sub-query carries: codes, rerank blocks, filter block and tenant set -/
  codes   : List Byte
  rq      : List Byte
  filter  : List Byte
  tset    : List Nat
deriving DecidableEq, Repr

/-- A fault that a command's COMMAND_FAULT reports (R93): the page and bit that found it and the address. -/
structure CmdFault where
  page  : Nat
  bit   : Nat
  addr  : Word64
  info  : Word64
deriving DecidableEq, Repr

/-- One entry of a mutation on its way to its journal write. -/
structure MutEntry where
  record  : Rec
  code    : Option Nat
  src     : Src
  codeOnly : Bool
  /-- the entry's own failure, found when its source was read (R279) -/
  bad     : Option (Nat × CmdFault)
  /-- journal sequence number and status once it has been decided -/
  done    : Option (Nat × Nat)
deriving DecidableEq, Repr

/-- An entry mutation in execution: what it will journal, entry by entry (R274, R278). -/
structure Mut where
  entries : List MutEntry
  mask    : Nat
  version : Nat
  encNext : Bool
  /-- the batches still being encoded, with the index of the entry each vector in turn belongs to -/
  enc     : List Enc
  order   : List Nat
  /-- all records have been read, so the IDs are known (R104) -/
  read    : Bool
deriving DecidableEq, Repr

/-- What a command in execution is doing. -/
inductive Work where
  | none
  | list (w : ListWalk)
  | search (s : Search)
  | fan (f : Fan)
  | mutate (m : Mut)
  | encode (es : List Enc)
  | rerank (s : Search)
  | exporting (done : Nat)
  /-- a CHECKPOINT: the number of the root that completes it, and when it started -/
  | checkpoint (root since : Nat)
  /-- waits: 1 barrier number, 2 invalidation, 3 flush to a sequence number, 4 Drone on a collection, 5 checkpoint,
  6 queue to drain, 7 scope of a BARRIER -/
  | wait (kind n : Nat)
deriving DecidableEq, Repr

/-- A command in the queue store, or a sub-query run for a peer (R74, R392). -/
structure Cmd where
  id       : Nat
  queue    : Nat
  bytes    : List Byte
  arrival  : Nat
  phase    : Phase
  xfault   : Option (Nat × Nat)
  held     : List (Nat × Nat)
  home     : Nat
  bounded  : Bool
  baseHorizon : Nat
  horizon  : Nat
  charges  : List (Nat × Rat)
  pres     : Rat
  status   : Nat
  result   : Nat
  epoch    : Nat
  jseq     : Nat
  isPartial : Bool
  tie      : Bool
  arith    : Bool
  journaled : Bool
  fault    : Option CmdFault
  after    : List Ev
  lateXlat : Bool
  tableWait : Bool
  ringWait : Bool
  floorMiss : Bool
  /-- a fan-out round trip exceeded rtt_budget (R396) -/
  fabricLate : Bool
  /-- holds an execution slot (R89, R92) -/
  slot     : Bool
  /-- ORDERED search with earlier mutating commands of its queue and collection uncompleted at its arrival (R52) -/
  raiseHz  : Bool
  /-- its place in posting order once its record has fallen due and could not be written; 0 for none (R81, R82, R90) -/
  turn     : Nat
  /-- effective deadline in µs, set at the start; 0 for none (R109) -/
  deadlineUs : Nat
  /-- the end of each of its stages, by the codes of Table 10.9, and the fixed floor in ns that admission planned (R269) -/
  ends     : Table Nat
  planned  : Nat
  list     : Option ListWalk
  list2    : Option ListWalk
  work     : Work
  /-- the collection a search, LOOKUP, RERANK or EXPORT reads, as it stood when the command was admitted (R49, R55) -/
  view     : Option Coll
  /-- images of the programs that its collection's queries or sources run, as they stood at admission (R177) -/
  images   : Table (List Byte)
  /-- barriers numbered below this began before the command was admitted (R265) -/
  afterBarrier : Nat
  /-- lead tower of a graph search (R147) and its visited space in the walker pool, bytes; zero when none is held -/
  lead     : Nat
  pool     : Nat
  /-- towers whose selection pool lends the command a spill buffer (R173) -/
  spill    : List Nat
  /-- a READ_DEFERRED returns entries numbered below this, those held when it started (R115); a FLUSH covers journal records
  numbered below it, those written before it started (R107) -/
  defBound : Nat
  /-- a word of its lists or spill buffers that reads with poison: Windchest address, true in a spill buffer (R182) -/
  vpoison  : Option (Nat × Bool)
  /-- a sub-query's peer and request number (R392), 0x10000 plus its domain in place of a peer for the module's own; none for
  a queue's command -/
  sub      : Option (Nat × Nat)
  /-- peer that a remote command came from, its request data area (R398) and the response written so far -/
  remote   : Option Nat
  dataIn   : List Byte
  dataOut  : List (Nat × Byte)
deriving DecidableEq, Repr

/-! ## Programs and tables -/

/-- A loaded encoder program (R228, R233). -/
structure Prog where
  domain : Nat
  image  : List Byte
  /-- number of the next batch of vectors (R240) -/
  batch  : Nat
  /-- media address of the lost image, which the host must load again (Table 12.10) -/
  lost   : Option Nat
deriving DecidableEq, Repr

/-- One version of a shared table's data (R236). -/
structure TblData where
  kind   : Nat
  fmt    : Nat
  rows   : Nat
  cols   : Nat
  scale  : Nat
  tscale : Nat
  bytes  : List Byte
deriving DecidableEq, Repr

/-- An earlier version of a shared table, kept until the last of the commands admitted before its swap's barrier has completed
(R237). -/
structure Earlier where
  data  : TblData
  users : List Nat
deriving DecidableEq, Repr

/-- A shared table (R236-R239, R429-R432). -/
structure Tbl where
  domain  : Nat
  current : Option TblData
  pending : Option TblData
  /-- earlier versions still in use, the oldest first -/
  earlier : List Earlier
  gen     : Nat
  paused  : Bool
  /-- commands failed by the pause in progress -/
  failed  : Nat
  /-- the cluster whose slice is poisoned, while paused -/
  cluster : Nat
  /-- media address of the lost data: no copy is readable (R432, Table 12.10) -/
  lost    : Option Nat
deriving DecidableEq, Repr

/-! ## Journal records -/

/-- What a journal record carries beyond its header, enough for replay to run it again (Table 12.2, R325). -/
inductive JBody where
  | entry                                             -- INSERT, UPSERT, SET_ATTR: the entry is in the record
  | delete
  | collNew (c : Coll)
  | collDrop
  | collSet (c : Coll)                                -- COLL_CONFIG, CONSOLIDATE op 2: the properties that result
  | reencode (version : Nat) (ended : Bool)
  | commit (op cut epoch : Nat) (key : Option Nat) (move : Option Move)
  | release (commitSeq : Nat)
  | program (version : Nat) (p : Option Prog)           -- loaded or retired
  | table (handle : Nat) (t : Option Tbl)               -- the table as the load or swap leaves it
  | domain (d : Nat) (k : Option Domain)                -- created or destroyed
  | deferred (d : Nat) (es : List Deferred) (next lost : Nat)
  | pad
deriving DecidableEq, Repr

/-- A journal record (Table 12.1) with where it stands: in journal SRAM, in a programmed stripe, mirrored. -/
structure JRec where
  seq      : Nat
  type     : Nat
  encNext  : Bool
  srcRef   : Bool
  codeOnly : Bool
  lost     : Bool
  /-- lost with a header that cannot be read (R329) -/
  headerLost : Bool
  coll     : Nat
  slot     : Option Nat
  oldSlot  : Option Nat
  version  : Nat
  entry    : Option Entry
  body     : JBody
  bytes    : Nat
  domain   : Nat
  queue    : Nat
  tag      : Nat
  at_      : Nat
  /-- byte offset in journal SRAM (R304) -/
  off      : Nat
  /-- stripe that holds it once programmed; none while in journal SRAM (R304) -/
  stripe   : Option Nat
  poisoned : Bool
  mirrored : Bool
  mirrorLost : Bool
  /-- a source that Bag has counted dead (R317) -/
  dead     : Bool
deriving DecidableEq, Repr

/-! ## Slide -/

/-- A slot ring of an engine (R246-R258). -/
structure SRing where
  engine  : Nat
  no      : Nat
  /-- 0 BND, 1 UNB, 2 MNT -/
  cls     : Nat
  port    : Nat
  cmd     : Option Nat
  /-- the collection whose Drone operation the stream carries; none for a command's stream and for Bag's -/
  step    : Option Nat
  slots   : Nat
  slotLog2 : Nat
  head    : Nat
  tail    : Nat
  /-- slots that the consumer has taken in all -/
  passed  : Nat
  /-- bytes landed in each slot ahead of head -/
  landed  : Table Nat
  /-- bytes and address of each transfer in flight; each holds one tag -/
  flight  : List (Nat × Nat)
  /-- bytes still to ask for, or produced and not yet in a filled slot of a write ring -/
  toAsk   : Nat
  isWrite : Bool
  /-- consumer's or producer's declared rate, bytes per event -/
  rate    : Nat
  /-- slots marked as poisoned, each with the stream offset at which its bytes begin (R271) -/
  poisoned : List (Nat × Nat)
  accepted : Nat
  /-- reference time of the last move of head or tail (R267) -/
  moved   : Nat
deriving DecidableEq, Repr

/-- Bytes that an engine has charged: when, on which port, whether for MNT, and how many (R259). -/
structure Charge where
  time  : Nat
  port  : Nat
  mnt   : Bool
  bytes : Nat
deriving DecidableEq, Repr

/-- A Slide engine besides its registers. Bucket levels are in tenths of a byte and may go below zero (R257); each bucket's
last fill; the charges of the last 100 µs. -/
structure Engine where
  unbTokens : Int
  mntTokens : Int
  unbAt     : Nat
  mntAt     : Nat
  charges   : List Charge
deriving DecidableEq, Repr

/-! ## Bag -/

/-- A programmed stripe (R311, R317). -/
structure Stripe where
  no      : Nat
  seqs    : List Nat
  lostMembers : List Nat
  lost    : Bool
deriving DecidableEq, Repr

/-- The durable state as a checkpoint's image holds it (R323). -/
structure Image where
  colls   : Table Coll
  domains : Table Domain
  progs   : Table Prog
  tables  : Table Tbl
deriving DecidableEq, Repr

/-- A checkpoint root (Table 12.9). -/
structure Root where
  rootSeq : Nat
  ckptSeq : Nat
  dumpSeq : Nat
  mapSeq  : Nat
  eventSeq : Nat
  bankB   : Bool
deriving DecidableEq, Repr

/-- The state of Bag besides its registers (chapter 12). -/
structure Bag where
  nextSeq    : Nat
  /-- highest number whose completion record has been written (R326) -/
  postedSeq  : Nat
  /-- where the next record goes in journal SRAM (R304) -/
  sramHead   : Nat
  /-- records at or below this number are in stripes that have been closed with PAD (R310, R316, R320) -/
  closeTo    : Nat
  /-- pages read uncorrectable, per channel (BAG_CH_STAT) -/
  chUncorr   : Table Nat
  recs       : List JRec
  stripes    : List Stripe
  nextStripe : Nat
  root       : Root
  image      : Image
  /-- the root of the other bank, and the image it names -/
  oldRoot    : Option (Root × Image)
  rootsErased : Bool
  rootsValid : Bool
  /-- a checkpoint being written: its cut and its image -/
  ckpt       : Option (Nat × Image)
  ckptDue    : Bool
  /-- reference time at which the current root was written -/
  ckptAt     : Nat
  dumpSeq    : Nat
  /-- records of the sealed dump; none when there is none -/
  dump       : Option (List JRec)
  writeThrough : Bool
  bankFailed : Bool
  fullMj     : Nat
  nowMj      : Nat
  redundancyLost : Bool
  /-- failed dies of a channel -/
  diesFailed : Table (List Nat)
  spareUsed  : List Nat
  /-- rebuilds running: channel and die, the oldest first -/
  rebuilding : List (Nat × Nat)
  mediaKeyNo : Nat
  /-- ranges of records whose sources Bag has counted dead since the last MTRIM (R317, R400) -/
  deadRanges : List (Nat × Nat)
  /-- channels that have failed whole -/
  wholeChannels : List Nat
  /-- pages that failed on a die: channel × 32 + die (R327, R332) -/
  pagesFailed : Table Nat
  /-- the last start replayed a dump (BAG_STATE) -/
  replayed   : Bool
  /-- what lost stripes of the image and dump areas held and no checkpoint has rewritten (Table 12.10), and the media
  address of the last of them -/
  gone       : Gone
  goneMedia  : Nat
deriving DecidableEq, Repr

/-! ## Fabric -/

/-- A fabric port (R379, R380, R454). -/
structure Port where
  up      : Bool
  present : Bool
  kr8     : Bool
  noSpare : Bool
deriving DecidableEq, Repr

/-- A message being put together from packets (R385). -/
structure Msg where
  id    : Nat
  len   : Nat
  parts : List (Nat × List Byte)
deriving DecidableEq, Repr

/-- A message to a peer, until its packets are acknowledged or while it waits to be sent (R385, R386). -/
structure OutMsg where
  id   : Nat
  kind : Nat
  /-- pflags BND (R387) -/
  bnd  : Bool
  hdr  : Word64
  body : List Byte
  /-- sequence numbers of its packets that have not been acknowledged -/
  psns : List Nat
deriving DecidableEq, Repr

/-- A peer-table entry and its connection (R385-R388). -/
structure Peer where
  addrHi  : Word64
  addrLo  : Word64
  domain  : Nat
  roles   : Nat
  enable  : Bool
  /-- 0 disabled, 1 connecting, 2 up, 3 down -/
  state   : Nat
  portsUp : Nat
  ownConn : Nat
  conn    : Nat
  shardId : Nat
  nextPsn : Nat
  /-- unacknowledged DATA packets: psn -/
  unacked : List Nat
  nextMsg : Nat
  /-- messages not wholly acknowledged -/
  outMsgs : List OutMsg
  /-- messages that wait for room among the unacknowledged packets, and event records to be sent -/
  queued  : List OutMsg
  events  : List Ev
  recvPsn : Nat
  recvAhead : List Nat
  sinceAck : Nat
  ceSince : Nat
  msgs    : List Msg
  nextRecvMsg : Nat
  /-- sending rate in Mb/s -/
  rate    : Rat
  /-- resend timeout in µs -/
  timeoutUs : Nat
  /-- when an ACK with CE marks last cut the rate (R387) -/
  lastCut : Option Nat
  lostBefore : Bool
  /-- records held for this owner in journal SRAM and in the mirror log, and records delivered that have no room yet (R400) -/
  mirror  : List MirrorRec
  mirrorLog : List MirrorRec
  mirrorWait : List MirrorRec
deriving DecidableEq, Repr

/-- Consort besides its registers. -/
structure Consort where
  ports    : List Port
  peers    : Table Peer
  nextConn : Nat
  nextRequest : Nat
  mirrorAck : Nat
  /-- shipping rests after a record was given up, until the partner answers again (R309) -/
  mirrorPaused : Bool
  /-- first record that the present partner is to have, and the last that has been shipped to it -/
  mirrorFrom : Nat
  mirrorSent : Nat
  /-- the partner before a cold reset: shipping to it resumes from the next unacknowledged record (Table 19.2) -/
  mirrorLast : Option Nat
  /-- MFETCHes not yet answered: peer, first and last number (R401) -/
  fetches  : List (Nat × Nat × Nat)
deriving DecidableEq, Repr

/-! ## Bellows, Chanter, security, pins -/

/-- User calibration values (Table 16.5). Offsets and trims are signed. -/
structure UCal where
  seq      : Nat
  floor    : Nat
  cap      : Nat
  vtarget  : Nat
  guard    : Nat
  sleepEn  : Bool
  railOfs  : List Int
  idleUs   : Nat
  minAwake : Nat
  trims    : List Int
  serdes   : List (Int × Int × Int × Bool)
deriving DecidableEq, Repr

/-- Bellows besides its registers (chapter 16). -/
structure Bellows where
  /-- rail voltages in steps of 2.5 mV (R405) -/
  rails     : List Nat
  /-- slowest in-service monitor of each rail, M events/s, and its sensed temperature in 0.1 °C and factory offset in 0.01 % -/
  slowest   : List Nat
  sense     : List (Int × Int)
  floorReg  : Nat
  /-- floors and guard bands that regulation keeps after a lowering, with the bounded commands admitted before it (R413, R424) -/
  oldFloors : List (Nat × List Nat)
  oldGuards : List (Nat × List Nat)
  /-- sensor trims and SerDes taps in force; the other runtime values stand in their registers -/
  run       : UCal
  saved     : UCal
  bankB     : Bool
  savedValid : Bool
  /-- the record of the other calibration bank -/
  other     : Option UCal
  saving    : Option UCal
  floorLost : List Nat
  worn      : List (UnitId × Nat)
  thermalCut : Nat
  inputCap  : Nat
  tripped   : Bool
  borePaused : Bool
  asleep    : List UnitId
  valve     : Nat
  /-- windows not held since the floor was lost (FLOOR_RESTORED) -/
  notHeld   : Nat
  /-- the cap lowers the rails, and throttles unbounded and maintenance work (R415) -/
  lowering  : Bool
  throttle  : Bool
  /-- when POWER_CAPPED was last raised (R417) -/
  cappedAt  : Option Nat
deriving DecidableEq, Repr

/-- One entry of the spare and repair map (Table 17.7). -/
structure MapEntry where
  kind     : Nat
  cause    : Nat
  tower    : Nat
  physical : Nat
  replacement : Nat
  logical  : Nat
  timeS    : Nat
deriving DecidableEq, Repr

/-- What a bank of the spare and repair map holds (R440): its sequence number, its entries, and the HOLD causes. -/
structure MapRec where
  seq      : Nat
  entries  : List MapEntry
  causes   : BitVec 5
  holdKind : Nat
deriving DecidableEq, Repr

/-- Modes of Table 17.9. -/
inductive Mode where
  | full | spared | hold | off
deriving DecidableEq, Repr

/-- A barrier that stands: its number, what it is for (a shared table, or a collection's view epoch) and when it began
(R265). -/
structure Barrier where
  no    : Nat
  table : Bool
  on    : Nat
  began : Nat
deriving DecidableEq, Repr

/-- Chanter besides its registers (chapters 17 and 19). -/
structure Chanter where
  mode     : Mode
  prev     : Mode
  causes   : BitVec 5
  holdKind : Nat
  epoch    : Nat
  map      : List MapEntry
  mapSeq   : Nat
  mapBankB : Bool
  mapPending : Bool
  /-- the record of the bank in force, and that of the other bank -/
  mapSaved : Option MapRec
  mapOther : Option MapRec
  /-- units woken or passed by self-test that are not yet admitted (R442) -/
  returning : List UnitId
  /-- walker cores replaced by a spare whose contexts have not moved yet (R163) -/
  coresMoving : List Nat
  /-- the global epoch at which a walker core left service (R164, R441) -/
  coreEpoch : Table Nat
  /-- contexts that a core still holds though they have moved: core, command and epoch (R164) -/
  stale    : List (Nat × Nat × Nat)
  eventSeq : Nat
  recent   : List Ev
  persistent : List Ev
  /-- events raised after a reset and not posted while ring 0 has not been enabled (R85) -/
  heldEvents : List Ev
  holding  : Bool
  stage    : Nat
  lastReset : Nat
  failCode : Nat
  formatted : Bool
  warmFast : Bool
  /-- the management command has triggered a warm reset that has not run yet -/
  warmPending : Bool
  /-- a reset is in progress: no commit is taken (R471) -/
  quiesced : Bool
  /-- the power-loss sequence runs until the seal (R459) -/
  losing   : Bool
  sealed   : Bool
  barriers : List Barrier
  nextBarrier : Nat
deriving DecidableEq, Repr

/-- A firmware bank of a component (R484, R485). -/
structure FwBank where
  valid   : Bool
  svn     : Nat
  release : Nat
deriving DecidableEq, Repr

/-- The security function (chapter 20). -/
structure Security where
  keys     : Table (BitVec 256)
  fabricKey : Option (BitVec 256)
  kek      : Option (Nat × BitVec 256)
  mediaKey : Bool
  debug    : Bool
  fuse     : Nat
  key0Revoked : Bool
  pkgA     : FwBank
  pkgB     : FwBank
  mcA      : FwBank
  mcB      : FwBank
  /-- bank running: package and management controller, true for B -/
  pkgRunB  : Bool
  mcRunB   : Bool
  /-- at the last start the other package firmware bank was not valid (CHN_BOOT fw_fallback) -/
  fwFallback : Bool
  staged   : List Nat
  sessions : List Nat
  /-- a request that started a reset, OFF or format is still running (R480) -/
  busy     : Bool
  eids     : Table Nat
  eventReceiver : Option (Nat × Nat)
deriving DecidableEq, Repr

/-- Pins and module hardware (chapter 18). -/
structure Pins where
  mate      : Bool
  inputGood : Bool
  switchOn  : Bool
  perst     : Bool
  pwrfail   : Bool
  straps    : Nat
  coldPending : Option Nat
deriving DecidableEq, Repr

/-! ## Outside -/

/-- What the module sends out, in order (the model's own record of its outputs). -/
inductive Out where
  | msix (vector : Nat)
  | readData (bytes : List Byte)
  | readUR
  | aerUR
  | atsRequest (dom va : Nat) (write : Bool)
  | pageRequest (dom va : Nat) (write : Bool)
  | tableRead (bus : Nat)
  | invalidateDone (n : Nat)
  | fabricMsg (peer kind : Nat) (bnd : Bool) (hdr : Word64) (body : List Byte)
  | fabricAck (peer ackPsn : Nat) (bitmap : Word64) (ce : Nat)
  | fabricHello (peer conn shard portsUp : Nat) (isAck : Bool)
  | fabricClose (peer : Nat)
  | resent (peer psn : Nat)
  | arpAnswer (port : Nat) (hi lo : Word64) (mac : BitVec 48)
  | mgmt (transport completion : Nat) (body : List Byte)
  | mctp (transport eid : Nat)
  | pldmReply (transport : Nat)
  | pldmVerify (component : Nat) (ok : Bool)
  | pldmEvent (receiver : Nat) (code : Nat)
  | spdm (transport : Nat) (body : List Byte)
deriving DecidableEq, Repr

/-- A word of collection data that reads with poison, and its tier address (R349, §5.9); `node` for a word of a graph node, which
holds copies of an entry's code and record of its own (R143, R145). -/
structure Poison where
  coll : Nat
  slot : Nat
  word : DataWord
  node : Bool
  bulk : Bool
  chan : Nat
  addr : Nat
deriving DecidableEq, Repr

/-- The state of the module. -/
structure State where
  /-- commands waiting, first in first out (the block's form) -/
  pending  : List Instr
  /-- reference time in ns since cold reset (R404); the tick is the model's own -/
  now      : Nat
  /-- the time of day: seconds since 1970 and the reference time it was set at (R482) -/
  tod      : Option (Nat × Nat)
  /-- the model's own: what the module has sent -/
  outbox   : List Out
  /-- the model's own: memory outside the host port, and ranges of it that read with poison -/
  hostMem  : List Host.Cell
  hostPoison : List (Nat × Nat)
  /-- the register file by BAR0 offset; unlisted registers read their reset values -/
  regs     : Table Word64
  /-- pages whose latch holds a fault, with the unmasked BLK_ERR bits set when it latched (R433) -/
  latches  : Table Word64
  /-- unit behind a page: 1 asleep, 2 in self-test, 3 out of service (BLK_STAT service) -/
  service  : Table Nat
  /-- MSI-X table words by byte offset in BAR4, and vectors whose pending bit is set -/
  msixTable : Table (BitVec 32)
  msixPending : List Nat
  /-- command areas of the task windows by BAR2 offset; unlisted bytes are zero (R72) -/
  windows  : List Host.Cell
  queues   : Table Queue
  cmds     : List Cmd
  nextCmd  : Nat
  /-- settled and abandoned commands awaiting the reset report (R472), each with its domain -/
  reports  : List (Nat × Cmd)
  rings    : Table Ring
  evRings  : Table Ring
  classes  : List Cls
  lastUrg  : Nat
  /-- admission ledgers by resource number × 64 + unit, floor ns (R100) -/
  ledgers  : Table Rat
  domains  : Table Domain
  crook    : Crook
  colls    : Table Coll
  progs    : Table Prog
  tables   : Table Tbl
  srings   : List SRing
  engines  : Table Engine
  bag      : Bag
  cst      : Consort
  blw      : Bellows
  chn      : Chanter
  sec      : Security
  pins     : Pins
  /-- poisoned words of collection data (R349, R427) -/
  poison   : List Poison
  /-- rows marked for repair: tier, stack or channel, address at which the row begins (R351) -/
  rowsMarked : List (Nat × Nat × Nat)
  /-- times of the corrected reads of a row in the last 24 h, by (tier × 256 + channel) × 2^40 + the row's address (R351) -/
  rowCorrected : Table (List Nat)
  /-- times of the corrected errors of units in the last 24 h: kind × 2^24 + number (R437, R438) -/
  unitCorrected : Table (List Nat)
  /-- tiers for which TIER_LOW has been raised and not re-armed (R344) -/
  tierLow  : List Nat
  /-- Bore cells with a parity error in the region in progress: cluster × 65,536 + row × 256 + column (R214) -/
  parityCells : List Nat
  /-- Bore accumulators that are not clear: cluster × 2^17 + set × 2^16 + row × 256 + column (R192) -/
  accs     : Table Acc
  /-- the set that each cluster's last region accumulated in (R203); the first when not listed -/
  accSet   : Table Nat
  /-- what each Bell holds by cluster (R216); clear registers and free tile buffers when not listed -/
  bells    : Table BellUnit
  /-- walker contexts held: core and command (R147) -/
  contexts : List (Nat × Nat)
  /-- lead tower of the next graph search (R147) -/
  nextLead : Nat
deriving DecidableEq, Repr

/-! ## Why a step can stop -/

/-- Faults. The spec gives the module no fault that stops it: a violation is dropped and reported, a failing command
completes with its status, and an uncontained error takes the module to OFF, all of them next states. No meaning of
this model raises a fault; the type is inhabited so that it can be named. -/
inductive Fault where
  /-- raised by nobody; safe, since a run it ended would prove nothing -/
  | none
deriving DecidableEq, Repr

/-- Refusals. -/
inductive Refusal where
  /-- a command whose meaning has not been written; raised by Dispatch.exec alone; safe -/
  | notModelled (mnemonic : String)
deriving DecidableEq, Repr

/-! ## Reset -/

/-- A ring that no context has been given. -/
def ringReset : Ring :=
  { base := 0, sizeLog2 := 0, intEn := false, vector := 0, coalCount := 0, coalTime := 0, domain := 0,
    enabled := false, faulted := false, zeroing := false, tail := 0, phase := false, head := 0, since := 0,
    lostDebt := false, waiting := [] }

/-- D0 as it stands at READY (R87, R370). -/
def domainZero : Domain :=
  { pasid := 0, evRing := 0, urgRate := 1000000, urgBurst := 1024, quota := 65536, atsOk := true, mirrorOk := true,
    priOk := false, maxRegions := 4096, keyMask := BitVec.allOnes 64, regions := [], tokens := 1024, deferred := [],
    nextDef := 0,
    lost := 0, scanned := 0, expansions := 0, macs := 0,
    energy := { nan := false, whNeg := false, whPos := false, wl := false, value := 0 } }

/-- Q0 as it stands at READY (R87). -/
def queueZero : Queue :=
  { domain := 0, ring := 0, depth := 64, cls := 1, fabric := false, nextSeq := 0, rejects := 0, lastReason := 0,
    closing := false, peer := 0 }

/-- The classes at READY (Table 4.5's note). DESIGN CHOICE (log entry 104): credits and the pointers of R98 start at 0. -/
def classesReset : List Cls :=
  [ { bounded := true,  weight := 0, deadlineUs := 400, credit := 0, lastServed := 0 },
    { bounded := false, weight := 8, deadlineUs := 0,   credit := 0, lastServed := 0 },
    { bounded := false, weight := 4, deadlineUs := 0,   credit := 0, lastServed := 0 },
    { bounded := false, weight := 2, deadlineUs := 0,   credit := 0, lastServed := 0 },
    { bounded := false, weight := 1, deadlineUs := 0,   credit := 0, lastServed := 0 } ]

/-- The defaults of Table 16.5. -/
def ucalDefault : UCal :=
  { seq := 0, floor := 140, cap := 1450, vtarget := 700, guard := 20, sleepEn := true,
    railOfs := [0, 0, 0, 0, 0], idleUs := 500, minAwake := 2, trims := [0, 0, 0, 0, 0, 0, 0, 0, 0],
    serdes := List.replicate 12 (0, 0, 0, false) }

def imageEmpty : Image := { colls := [], domains := [(0, domainZero)], progs := [], tables := [] }

def bankReset : FwBank := { valid := true, svn := 0, release := 0 }

/-- The state right after reset: powered, boot stage POWER, nothing durable, root blocks erased as at manufacture
(Table 19.4). COLD_START takes it to READY. Values the spec does not give are those of the log entries. -/
def State.reset : State :=
  { pending := [], now := 0, tod := none, outbox := [], hostMem := [], hostPoison := [], regs := [], latches := [],
    service := [], msixTable := [], msixPending := [], windows := [],
    queues := [(0, queueZero)], cmds := [], nextCmd := 1, reports := [],
    rings := [(0, ringReset)], evRings := [],
    classes := classesReset, lastUrg := 0, ledgers := [], domains := [(0, domainZero)],
    crook := { cache := [], reqs := [], failed := [], invals := [], nextInval := 0, atsEnable := false, priEnable := false,
               priStopped := false, bootLocked := false },
    colls := [], progs := [], tables := [], srings := [], engines := [],
    bag := { nextSeq := 1, postedSeq := 0, sramHead := 0, closeTo := 0, chUncorr := [], recs := [], stripes := [], nextStripe := 0,
             root := { rootSeq := 0, ckptSeq := 0, dumpSeq := 0, mapSeq := 0, eventSeq := 0, bankB := false },
             image := imageEmpty, oldRoot := none, rootsErased := true, rootsValid := false, ckpt := none, ckptDue := false, ckptAt := 0,
             dumpSeq := 0, dump := none, writeThrough := false, bankFailed := false, fullMj := 8100, nowMj := 0,
             redundancyLost := false, diesFailed := [], spareUsed := [], rebuilding := [], mediaKeyNo := 0,
             deadRanges := [], wholeChannels := [], pagesFailed := [], replayed := false,
             gone := { entries := [], progs := [], tables := [], dump := [] }, goneMedia := 0 },
    cst := { ports := List.replicate 12 { up := false, present := false, kr8 := false, noSpare := false }, peers := [],
             nextConn := 1, nextRequest := 0, mirrorAck := 0, mirrorPaused := false, mirrorFrom := 0, mirrorSent := 0, mirrorLast := none,
             fetches := [] },
    blw := { rails := [0, 0, 0, 0, 0], slowest := [0, 0, 0, 0, 0], sense := List.replicate 5 (800, 0), floorReg := 140,
             oldFloors := [], oldGuards := [], run := ucalDefault, saved := ucalDefault, bankB := false, savedValid := true,
             other := none, saving := none, floorLost := [], worn := [], thermalCut := 0, inputCap := 1450,
             tripped := false, borePaused := false, asleep := [], valve := 0, notHeld := 0, lowering := false,
             throttle := false, cappedAt := none },
    chn := { mode := .full, prev := .full, causes := 0, holdKind := 0, epoch := 1, map := [], mapSeq := 0,
             mapBankB := false, mapPending := false, mapSaved := some { seq := 0, entries := [], causes := 0, holdKind := 0 }, mapOther := none,
             returning := [], coresMoving := [], coreEpoch := [], stale := [], eventSeq := 0, recent := [], persistent := [], heldEvents := [],
             holding := true, stage := 0, lastReset := 0, failCode := 0, formatted := false, warmFast := false, warmPending := false,
             quiesced := false, losing := false, sealed := false, barriers := [],
             nextBarrier := 0 },
    sec := { keys := [], fabricKey := none, kek := none, mediaKey := false, debug := false, fuse := 0,
             key0Revoked := false, pkgA := bankReset, pkgB := bankReset, mcA := bankReset, mcB := bankReset,
             pkgRunB := false, mcRunB := false, fwFallback := false, staged := [], sessions := [], busy := false, eids := [],
             eventReceiver := none },
    pins := { mate := true, inputGood := true, switchOn := true, perst := true, pwrfail := false, straps := 0,
              coldPending := some 0 },
    poison := [], rowsMarked := [], rowCorrected := [], unitCorrected := [], tierLow := [], parityCells := [],
    accs := [], accSet := [], bells := [],
    contexts := [], nextLead := 0 }

end Sys2Proof.Machine
end

