-- ==== Sys2Proof/Machine/Ops.lean ====
section
/-! DEFINITION. The named operations over tables, bit fields, host memory, registers, events and violations that every
meaning is written from. -/

namespace Sys2Proof.Machine

/-! ## Tables by number -/

/-- The content of number `n`, none when the table does not list it. -/
def tget {α : Type} : Table α → Nat → Option α
  | [], _ => none
  | (k, a) :: t, n => if k = n then some a else tget t n

/-- Put `a` at number `n`, keeping the numbers rising. -/
def tset {α : Type} : Table α → Nat → α → Table α
  | [], n, a => [(n, a)]
  | (k, b) :: t, n, a => if n < k then (n, a) :: (k, b) :: t else if n = k then (n, a) :: t else (k, b) :: tset t n a

/-- Remove number `n`. -/
def tdel {α : Type} (t : Table α) (n : Nat) : Table α := t.filter (fun p => p.1 ≠ n)

/-- Change the content of number `n` where it is listed. -/
def tmod {α : Type} (t : Table α) (n : Nat) (f : α → α) : Table α := t.map (fun p => if p.1 = n then (p.1, f p.2) else p)

/-- The least number from `lo` on that the list does not hold, searching at most `fuel` numbers. -/
def leastFree (held : List Nat) : Nat → Nat → Nat
  | 0, n => n
  | fuel + 1, n => if n ∈ held then leastFree held fuel (n + 1) else n

/-- Cut a list into pieces of `n`. -/
def chunks {α : Type} (n : Nat) : Nat → List α → List (List α)
  | 0, _ => []
  | fuel + 1, xs => if xs.isEmpty then [] else xs.take n :: chunks n fuel (xs.drop n)

/-- Insert `x` into an ascending list without repeats. -/
def insertNat (x : Nat) : List Nat → List Nat
  | [] => [x]
  | y :: t => if x < y then x :: y :: t else if x = y then y :: t else y :: insertNat x t

/-- Insert by a strict order `lt`, after every element that is not greater. -/
def insertBy {α : Type} (lt : α → α → Bool) (x : α) : List α → List α
  | [] => [x]
  | y :: t => if lt x y then x :: y :: t else y :: insertBy lt x t

/-- Insertion sort by `lt`. -/
def sortBy {α : Type} (lt : α → α → Bool) (xs : List α) : List α := xs.foldl (fun acc x => insertBy lt x acc) []

/-! ## Bits and bytes -/

/-- Bits [hi:lo] of a number. -/
def bits (n hi lo : Nat) : Nat := n / 2 ^ lo % 2 ^ (hi - lo + 1)

/-- Bit `i` of a number. -/
def bit (n i : Nat) : Bool := n / 2 ^ i % 2 = 1

def b2n (b : Bool) : Nat := if b then 1 else 0

/-- `w` with bits [hi:lo] replaced by `v`. -/
def setBits (w : Word64) (hi lo v : Nat) : Word64 :=
  let m : Word64 := BitVec.ofNat 64 ((2 ^ (hi - lo + 1) - 1) * 2 ^ lo)
  (w &&& ~~~m) ||| (BitVec.ofNat 64 (v * 2 ^ lo) &&& m)

/-- The `n` little-endian bytes of `v` (R3). -/
def leBytes : Nat → Nat → List Byte
  | 0, _ => []
  | n + 1, v => BitVec.ofNat 8 v :: leBytes n (v / 256)

/-- The number that little-endian bytes hold (R3). -/
def leNat : List Byte → Nat
  | [] => 0
  | b :: t => b.toNat + 256 * leNat t

/-- The `n` bytes at offset `off` of a structure; bytes past its end read zero. -/
def slice (bs : List Byte) (off n : Nat) : List Byte := (List.range n).map (fun i => bs.getD (off + i) 0)

/-- The `n`-byte field at offset `off` of a structure. -/
def fld (bs : List Byte) (off n : Nat) : Nat := leNat (slice bs off n)

/-- All bytes from `off` to `last` are zero. -/
def zeros (bs : List Byte) (off last : Nat) : Bool := fld bs off (last + 1 - off) = 0

/-- First offset from `off` to `last` whose byte is not zero. -/
def firstNonzero (bs : List Byte) (off last : Nat) : Option Nat :=
  ((List.range (last + 1 - off)).map (off + ·)).find? (fun i => bs.getD i 0 ≠ 0)

/-- The signed value of a `w`-bit field. -/
def signed (w n : Nat) : Int := if bit n (w - 1) then (n : Int) - 2 ^ w else n

/-- A signed value as a `w`-bit field. -/
def unsigned (w : Nat) (i : Int) : Nat := (i % (2 ^ w : Int)).toNat

def clampNat (lo hi n : Nat) : Nat := if n < lo then lo else if n > hi then hi else n
def clampInt (lo hi n : Int) : Int := if n < lo then lo else if n > hi then hi else n

/-- The reflected CRC-32C of bytes (polynomial 0x1EDC6F41), bit by bit. -/
def crcStep (c : BitVec 32) : Nat → BitVec 32
  | 0 => c
  | k + 1 => crcStep (if c.getLsbD 0 then (c >>> 1) ^^^ 0x82F63B78#32 else c >>> 1) k

/-- CRC-32C over bytes. -/
def crc32c (bs : List Byte) : Nat :=
  (~~~ (bs.foldl (fun c b => crcStep (c ^^^ b.zeroExtend 32) 8) (0xFFFF_FFFF#32))).toNat

/-! ## Host memory -/

/-- The canonical form of a memory: addresses strictly rising, no cell equal to what an unlisted address reads as. -/
def memWf : List Host.Cell → Bool
  | [] => true
  | [c] => c.2 ≠ 0
  | c :: d :: t => c.2 ≠ 0 && c.1 < d.1 && memWf (d :: t)

/-- One byte of memory; an unlisted byte reads 0x00 (log entry 3). -/
def memGet : List Host.Cell → Nat → Byte
  | [], _ => 0
  | c :: t, a => if c.1 = a then c.2 else memGet t a

/-- Write one byte, keeping the canonical form. -/
def memSet : List Host.Cell → Nat → Byte → List Host.Cell
  | [], a, b => if b = 0 then [] else [(a, b)]
  | c :: t, a, b =>
    if a < c.1 then (if b = 0 then c :: t else (a, b) :: c :: t)
    else if a = c.1 then (if b = 0 then t else (a, b) :: t)
    else c :: memSet t a b

/-- `n` bytes from address `a`. -/
def memRead (m : List Host.Cell) (a n : Nat) : List Byte := (List.range n).map (fun i => memGet m (a + i))

/-- Write bytes at ascending addresses from `a`. -/
def memWrite (m : List Host.Cell) (a : Nat) : List Byte → List Host.Cell
  | [] => m
  | b :: t => memWrite (memSet m a b) (a + 1) t

/-- First address from `a`, of `n`, that reads with poison. -/
def memPoison (p : List (Nat × Nat)) (a n : Nat) : Option Nat :=
  let hits := p.filterMap (fun r => if r.1 < a + n ∧ a < r.1 + r.2 then some (max a r.1) else none)
  hits.foldl (fun acc x => match acc with | none => some x | some y => some (min x y)) none

/-! ## Registers -/

/-- The stored value of the register at BAR0 offset `o`: what was last put there, its reset value otherwise. -/
def regGet (s : State) (o : Nat) : Word64 := (tget s.regs o).getD (regReset o)

/-- Put a value into the register at BAR0 offset `o`. -/
def regSet (o : Nat) (v : Word64) (s : State) : State := { s with regs := tset s.regs o v }

/-- Raise the counter field of `w` bits at bit `lo` of register `o` by `n`, staying at its highest value. -/
def bumpSat (o lo w n : Nat) (s : State) : State :=
  let v := bits (regGet s o).toNat (lo + w - 1) lo + n
  regSet o (setBits (regGet s o) (lo + w - 1) lo (if v < 2 ^ w then v else 2 ^ w - 1)) s

/-- Raise the counter field of `w` bits at bit `lo` of register `o` by `n`, wrapping. -/
def bumpWrap (o lo w n : Nat) (s : State) : State :=
  regSet o (setBits (regGet s o) (lo + w - 1) lo ((bits (regGet s o).toNat (lo + w - 1) lo + n) % 2 ^ w)) s

/-- Set the field at bits [hi:lo] of register `o`. -/
def regField (o hi lo v : Nat) (s : State) : State := regSet o (setBits (regGet s o) hi lo v) s

/-- Offset of register `off` of page (b, i). -/
def reg (b : Blk) (i off : Nat) : Nat := pageReg (blkPage b i) off

/-! ## The first-fault latch (R433, R497) -/

/-- A fault at page `p` sets BLK_ERR bit `bitNo`; when no unreported fault is latched and the bit is not masked, the
address and detail are latched, and the unmasked bits then set must all be cleared before the latch is armed again. -/
def blkFault (p bitNo : Nat) (addr info : Word64) (s : State) : State :=
  let eo := pageReg p 0x020
  let err := regGet s eo ||| BitVec.ofNat 64 (2 ^ bitNo)
  let mask := regGet s (pageReg p 0x038)
  let s := regSet eo err s
  if (tget s.latches p).isSome || mask.getLsbD bitNo then s
  else
    let s := regSet (pageReg p 0x028) addr s
    let s := regSet (pageReg p 0x030) info s
    { s with latches := tset s.latches p (err &&& ~~~mask) }

/-- A W1C write to BLK_ERR of page `p` (R433): the latch is armed again once every bit that was set when it latched has
been written with 1. What the address registers read while no fault is latched is zero (log entry 21). -/
def blkErrClear (p : Nat) (v : Word64) (s : State) : State :=
  let eo := pageReg p 0x020
  let s := regSet eo (regGet s eo &&& ~~~v) s
  match tget s.latches p with
  | none => s
  | some w =>
    let w := w &&& ~~~v
    if w = 0 then
      { (regSet (pageReg p 0x030) 0 (regSet (pageReg p 0x028) 0 s)) with latches := tdel s.latches p }
    else { s with latches := tset s.latches p w }

/-! ## Addresses as they are logged (R86, R93) -/

/-- A BAR address: BAR number (0 BAR0, 1 BAR2, 2 BAR4) and byte offset. -/
def barAddr (bar off : Nat) : Word64 := BitVec.ofNat 64 (bar * 2 ^ 62 + off)

/-- A device-virtual address, with [63:62] = 3. -/
def dvAddr (va : Nat) : Word64 := BitVec.ofNat 64 (3 * 2 ^ 62 + va % 2 ^ 62)

/-- The BAR2 address of byte `off` of queue `q`'s window. -/
def winAddr (q off : Nat) : Word64 := barAddr 1 (q * 256 + off)

/-! ## Messages to the outside -/

def emit (o : Out) (s : State) : State := { s with outbox := s.outbox ++ [o] }

/-- The mask bit of an MSI-X vector; it is set at reset (PCIe, log entry 22). -/
def vectorMasked (s : State) (v : Nat) : Bool := ((tget s.msixTable (16 * v + 12)).getD 1#32).getLsbD 0

/-- Send an MSI-X message, or set its pending bit while the vector is masked (R83). -/
def sendMsix (v : Nat) (s : State) : State :=
  if vectorMasked s v then { s with msixPending := insertNat v s.msixPending } else emit (.msix v) s

/-- Bytes of a Consort packet's payload (R384). -/
def packetBytes (s : State) : Nat := if (regGet s (reg .cst 12 0x110)).getLsbD 1 then 1024 else 4096

/-- What the packets of a message carry (R383): the destination UDP port, the DSCP of bounded traffic and mirror records or of
other traffic, and the VLAN ID when a tag is added. -/
def packetPort (s : State) : Nat := bits (regGet s (reg .cst 12 0x110)).toNat 47 32
def packetDscp (s : State) (kind : Nat) (bnd : Bool) : Nat :=
  let w := (regGet s (reg .cst 12 0x110)).toNat
  if bnd || kind = 0x10 then bits w 31 26 else bits w 25 20
def packetVlan (s : State) : Option Nat :=
  let w := regGet s (reg .cst 12 0x110)
  if w.getLsbD 3 then some (bits w.toNat 19 8) else none

/-- A message joins those that wait, bounded-class ones ahead of the rest (R387). -/
def queueMsg (m : OutMsg) (q : List OutMsg) : List OutMsg := insertBy (fun a b => a.bnd && !b.bnd) m q

/-- A message goes out: its packets take the next sequence numbers and wait for acknowledgement (R385). -/
def sendOut (peer : Nat) (m : OutMsg) (s : State) : State :=
  match tget s.cst.peers peer with
  | none => s
  | some p =>
    let n := (m.body.length + 15 + packetBytes s) / packetBytes s
    let psns := (List.range n).map (fun i => (p.nextPsn + i) % 2 ^ 32)
    let p := { p with nextPsn := (p.nextPsn + n) % 2 ^ 32, unacked := p.unacked ++ psns,
                      outMsgs := p.outMsgs ++ [{ m with id := p.nextMsg, psns := psns }], nextMsg := p.nextMsg + 1 }
    emit (.fabricMsg peer m.kind m.bnd m.hdr m.body) { s with cst := { s.cst with peers := tset s.cst.peers peer p } }

/-- Send waiting messages of a peer while they fit. -/
def flushMsgs (peer : Nat) : Nat → State → State
  | 0, s => s
  | fuel + 1, s =>
    match tget s.cst.peers peer with
    | none => s
    | some p =>
      match p.queued with
      | [] => s
      | m :: t =>
        if p.state ≠ 2 ∨ p.unacked.length + (m.body.length + 15 + packetBytes s) / packetBytes s > 4096 then s
        else flushMsgs peer fuel (sendOut peer m { s with cst := { s.cst with peers := tset s.cst.peers peer { p with queued := t } } })

/-- Send a message to a peer; it waits while the connection is not up or its packets would pass 4,096
unacknowledged (R386). -/
def sendMsg (peer kind : Nat) (bnd : Bool) (hdr : Word64) (body : List Byte) (s : State) : State :=
  match tget s.cst.peers peer with
  | none => s
  | some p =>
    let m : OutMsg := { id := 0, kind := kind, bnd := bnd, hdr := hdr, body := body, psns := [] }
    let q := queueMsg m p.queued
    flushMsgs peer q.length { s with cst := { s.cst with peers := tset s.cst.peers peer { p with queued := q } } }

/-! ## Event records (R84, R85, R434) -/

/-- The 64 bytes of an event record (Table 3.9). -/
def evBytes (ev : Ev) (phase lost : Bool) : List Byte :=
  leBytes 2 ev.code ++ leBytes 1 ev.sev ++ leBytes 1 (b2n lost + 128 * b2n phase) ++ leBytes 2 ev.block
  ++ leBytes 1 ev.unit ++ leBytes 1 0 ++ leBytes 2 ev.dom ++ leBytes 2 ev.coll ++ leBytes 2 ev.queue ++ leBytes 2 ev.tag
  ++ leBytes 8 ev.seq ++ leBytes 8 ev.time ++ leBytes 8 ev.addr.toNat ++ leBytes 8 ev.i0.toNat ++ leBytes 8 ev.i1.toNat
  ++ leBytes 8 ev.i2.toNat

/-- An event of a page that names no collection, queue or tag; `dom` is 0xFFFF for the whole module. -/
def mkEv (code sev : Nat) (b : Blk) (unit dom : Nat) (addr i0 i1 i2 : Nat) : Ev :=
  { code := code, sev := sev, block := blkType b, unit := unit, dom := dom, coll := 0xFFFF, queue := 0xFFFF,
    tag := 0xFFFF, seq := 0, time := 0, addr := BitVec.ofNat 64 addr, i0 := BitVec.ofNat 64 i0,
    i1 := BitVec.ofNat 64 i1, i2 := BitVec.ofNat 64 i2 }

/-- Event ring `e`. -/
def evRing (s : State) (e : Nat) : Ring := (tget s.evRings e).getD ringReset

def setEvRing (e : Nat) (r : Ring) (s : State) : State := { s with evRings := tset s.evRings e r }

/-- Records a ring holds that the host has not returned. -/
def ringUnread (r : Ring) : Nat := (r.tail + 2 ^ r.sizeLog2 - r.head) % 2 ^ r.sizeLog2

/-- An event for ring `e` is lost: the ring's lost count in the MPC page rises and the next record carries LOST_BEFORE. -/
def loseEvent (e : Nat) (s : State) : State :=
  setEvRing e { evRing s e with lostDebt := true } (bumpSat (reg .mpc 0 (0x280 + 8 * e)) 32 32 1 s)

/-- An event falls due for ring `e`: it waits its turn to be written, or is lost when the ring is full or not enabled. -/
def dueEvent (ev : Ev) (e : Nat) (s : State) : State :=
  let r := evRing s e
  if !r.enabled || ringUnread r + r.waiting.length + 1 ≥ 2 ^ r.sizeLog2 then loseEvent e s
  else setEvRing e { r with waiting := r.waiting ++ [ev] } s

/-- The rings an event goes to: its domain's ring; ring 0 alone for a commit rejected without a domain; otherwise ring 0
and every other enabled ring (§3.6, R73). -/
def evRingsFor (ev : Ev) (s : State) : List Nat :=
  if ev.dom ≠ 0xFFFF then [((tget s.domains ev.dom).map (·.evRing)).getD 0]
  else if ev.code = 0x0011 then [0]
  else 0 :: (List.range 8).filter (fun e => e ≠ 0 ∧ (evRing s e).enabled)

/-- An event falls due for a peer: it waits to be sent as an EVENT message, or is discarded and LOST_BEFORE owed when the
connection is down (R399). -/
def evToPeer (ev : Ev) (peer : Nat) (s : State) : State :=
  let give := fun (p : Peer) =>
    if p.state = 3 then { p with lostBefore := true } else if p.state = 0 then p else { p with events := p.events ++ [ev] }
  { s with cst := { s.cst with peers := tmod s.cst.peers peer give } }

/-- The peers an event goes to (R399, R444): that of a fabric-facing queue, those with EVENTS granted for its domain,
and on entering HOLD every peer with EVENTS granted. -/
def evPeersFor (ev : Ev) (s : State) : List Nat :=
  let byQueue := match tget s.queues ev.queue with
    | some q => if q.fabric then [q.peer] else []
    | none => []
  let hold := ev.code = 0x0110 ∧ bits ev.i0.toNat 1 0 = 2
  let byDom := s.cst.peers.filterMap (fun p =>
    if p.2.enable ∧ bit p.2.roles 2 ∧ (p.2.domain = ev.dom ∨ hold) ∧ p.1 ∉ byQueue then some p.1 else none)
  byQueue ++ byDom

/-- Post an event that has been raised to its rings and peers. -/
def postEvent (ev : Ev) (s : State) : State :=
  let s := (evRingsFor ev s).foldl (fun s e => dueEvent ev e s) s
  (evPeersFor ev s).foldl (fun s p => evToPeer ev p s) s

/-- The event is kept in the persistent log (R434). -/
def persists (ev : Ev) : Bool := ev.sev ≥ 2 || ev.code = 0x0110 || ev.code = 0x0111 || ev.code = 0x00A1

def keepLast {α : Type} (n : Nat) (xs : List α) : List α := xs.drop (xs.length - n)

/-- Enter an event in both logs (R434). -/
def logEvent (ev : Ev) (s : State) : State :=
  { s with chn := { s.chn with
      recent := keepLast 65536 (s.chn.recent ++ [ev]),
      persistent := if persists ev then keepLast 262144 (s.chn.persistent ++ [ev]) else s.chn.persistent } }

/-- Events of severity 3 and MODE_CHANGED are latched in the MPC and CHN pages (R85). -/
def latchEvent (ev : Ev) (s : State) : State :=
  let v : Word64 := BitVec.ofNat 64 (ev.seq % 2 ^ 48 * 65536 + ev.code)
  let s := if ev.sev = 3 ∨ ev.code = 0x0110 then regSet (reg .mpc 0 0x2C8) v s else s
  if ev.sev = 3 then regSet (reg .chn 0 0x128) v s else s

/-- The event's enable bit is set (R498). -/
def evEnabled (b : Blk) (i code : Nat) (s : State) : Bool :=
  code ∈ evtAlways || (regGet s (reg b i 0x040)).getLsbD (code - blkEvtBase b)

/-- MODE_CHANGED and THERMAL also go to the PLDM receiver that the host has set (R483). -/
def tellPldm (ev : Ev) (s : State) : State :=
  match s.sec.eventReceiver with
  | some (_, eid) => if ev.code = 0x0110 ∨ ev.code = 0x0104 then emit (.pldmEvent eid ev.code) s else s
  | none => s

/-- Raise an event of block `b`: it takes the next sequence number (the first is 1, log entry 23) and the reference
time, is logged as `logged` and latched, and is posted unless its enable bit is clear. Events raised after a reset are
held until event ring 0 is enabled; what the recent log's capacity does not hold is lost for its rings (R85). -/
def raiseAs (b : Blk) (ev : Ev) (logged : Ev → Ev) (s : State) : State :=
  let seq := s.chn.eventSeq + 1
  let ev := { ev with seq := seq, time := s.now }
  let s := { s with chn := { s.chn with eventSeq := seq } }
  let s := tellPldm ev (latchEvent ev (logEvent (logged ev) s))
  if !evEnabled b ev.unit ev.code s then s
  else if s.chn.holding then
    if s.chn.heldEvents.length < 65536 then { s with chn := { s.chn with heldEvents := s.chn.heldEvents ++ [ev] } }
    else (evRingsFor ev s).foldl (fun s e => loseEvent e s) s
  else postEvent ev s

def raise (b : Blk) (ev : Ev) (s : State) : State := raiseAs b ev id s

/-- A fault that raises an event: the page latches the event's address and info0 where no chapter sets out its latch (R496). -/
def raiseFault (b : Blk) (page bitNo : Nat) (ev : Ev) (s : State) : State := raise b ev (blkFault page bitNo ev.addr ev.i0 s)

/-! ## Host-port violations (R86, Table 3.11) -/

/-- MPC_BLK_ERR_INFO of a violation; its size field is [15:8]. -/
def violInfo (kind size : Nat) (read : Bool) (reason ring : Nat) (evr : Bool) : Word64 :=
  BitVec.ofNat 64 (kind + size % 256 * 2 ^ 8 + b2n read * 2 ^ 16 + reason * 2 ^ 24 + ring * 2 ^ 32 + b2n evr * 2 ^ 44)

/-- A violation of kinds 0x01 to 0x05 and 0x08: bit, latch and MMIO_VIOLATION. A write of kinds 0x01, 0x02 and 0x04
sends an AER Unsupported Request message, a read is answered with Unsupported Request. DESIGN CHOICE (log entry 103): the event
concerns the whole module, even when the address lies in the window of a queue. -/
def violation (kind : Nat) (addr : Word64) (size : Nat) (read : Bool) (ring : Nat) (evr : Bool) (s : State) : State :=
  let s := blkFault 0 (kind - 1) addr (violInfo kind size read 0 ring evr) s
  let s := if read then emit .readUR s
    else if kind = 1 ∨ kind = 2 ∨ kind = 4 then emit .aerUR s else s
  raise .mpc (mkEv 0x0010 2 .mpc 0 0xFFFF addr.toNat (kind + size % 256 * 256 + b2n read * 65536) 0 0) s

/-! ## Modes and the global epoch (R441, R443) -/

def modeCode : Mode → Nat
  | .full => 0 | .spared => 1 | .hold => 2 | .off => 3

/-- The global epoch advances by one; units in service follow (R441). -/
def advanceEpoch (s : State) : State := { s with chn := { s.chn with epoch := s.chn.epoch + 1 } }

/-- The module changes mode: the global epoch advances and MODE_CHANGED is raised (R443). -/
def setMode (m : Mode) (s : State) : State :=
  if s.chn.mode = m then s
  else
    let old := s.chn.mode
    let s := advanceEpoch { s with chn := { s.chn with prev := old, mode := m } }
    let sev := if m = .hold ∨ m = .off then 3 else 0
    raise .chn (mkEv 0x0110 sev .chn 0 0xFFFF 0
      (modeCode m + modeCode old * 4 + s.chn.causes.toNat * 256 + s.chn.holdKind * 65536) s.chn.mapSeq 0) s

/-! ## Commands in the queue store -/

/-- The command of number `c`. -/
def cmdGet (s : State) (c : Nat) : Option Cmd := s.cmds.find? (fun x => x.id = c)

/-- Change the command of number `c`. -/
def cmdMod (c : Nat) (f : Cmd → Cmd) (s : State) : State :=
  { s with cmds := s.cmds.map (fun x => if x.id = c then f x else x) }

/-- Put back a command that has been changed. -/
def cmdPut (x : Cmd) (s : State) : State := cmdMod x.id (fun _ => x) s

def setWork (c : Nat) (w : Work) (s : State) : State := cmdMod c (fun x => { x with work := w }) s

/-- Stage `n` of Table 10.9 of a command ends now; the last end counts (R269). -/
def noteStage (c n : Nat) (s : State) : State := cmdMod c (fun x => { x with ends := tset x.ends n s.now }) s

/-! ## Tile buffers (R216, R217) -/

/-- What Bell `c` holds. -/
def bellOf (s : State) (c : Nat) : BellUnit := (tget s.bells c).getD { vregs := [], tiles := [], waits := [] }

def setBell (c : Nat) (b : BellUnit) (s : State) : State := { s with bells := tset s.bells c b }

/-- The results of a command's regions have left Bell: its tile buffers are free (R217; log entry 91). -/
def freeTiles (x : Nat) (s : State) : State :=
  { s with bells := s.bells.map (fun p =>
      (p.1, { p.2 with tiles := p.2.tiles.filter (fun t => t.cmd ≠ x), waits := p.2.waits.filter (· ≠ x) })) }

/-- Bell `c` returns: its vector registers and tile buffers are clear (R218). -/
def clearBell (c : Nat) (s : State) : State := { s with bells := tdel s.bells c }

/-! ## Collections, domains and the other tables -/

def collMod (h : Nat) (f : Coll → Coll) (s : State) : State := { s with colls := tmod s.colls h f }
def domMod (d : Nat) (f : Domain → Domain) (s : State) : State := { s with domains := tmod s.domains d f }
def peerMod (p : Nat) (f : Peer → Peer) (s : State) : State :=
  { s with cst := { s.cst with peers := tmod s.cst.peers p f } }

/-- A peer-table entry that has never been written. -/
def peerZero : Peer :=
  { addrHi := 0, addrLo := 0, domain := 0, roles := 0, enable := false, state := 0, portsUp := 0, ownConn := 0, conn := 0, shardId := 0,
    nextPsn := 0, unacked := [], nextMsg := 1, outMsgs := [], queued := [], events := [], recvPsn := 0, recvAhead := [], sinceAck := 0,
    ceSince := 0, msgs := [], nextRecvMsg := 1, rate := 0, timeoutUs := 20, lastCut := none, lostBefore := false, mirror := [],
    mirrorLog := [], mirrorWait := [] }

def peerOf (s : State) (i : Nat) : Peer := (tget s.cst.peers i).getD peerZero

/-- Nothing is asked of the module: a nanosecond passes (the tick is the model's own, log entry 2). -/
def idle (s : State) : State := { s with now := s.now + 1 }

end Sys2Proof.Machine
end

