-- ==== Sys2Proof/Machine/Flags.lean ====
section
/-! DEFINITION. The arithmetic of Bore and Bell and every flag it raises (chapter 8, §9.2 to §9.4): element formats,
exact accumulators, conversion to floating point and integer formats, quantisation and FP32 operations. Values are
exact: a finite floating-point value is a sign and a dyadic number, so nothing is rounded but where a rule says so. -/

namespace Sys2Proof.Machine

/-! ## Flags (Table 8.7) -/

def fIX : BitVec 7 := 0x01
def fUF : BitVec 7 := 0x02
def fOF : BitVec 7 := 0x04
def fNV : BitVec 7 := 0x08
def fWL : BitVec 7 := 0x10
def fWH : BitVec 7 := 0x20
def fSAT : BitVec 7 := 0x40

/-- WL, WH or SAT is among the flags. -/
def windowFlags (f : BitVec 7) : Bool := f &&& 0x70#7 ≠ 0

/-! ## Floating-point values -/

/-- A value: NaN, an infinity, or `n`·2^`e` with a sign. -/
inductive Fl where
  | nan
  | inf (neg : Bool)
  | fin (neg : Bool) (n : Nat) (e : Int)
deriving DecidableEq, Repr

/-- A result with the flags its making raised; `poison` marks a poisoned word, whose value means nothing (R196, R211). -/
structure Flagged (α : Type) where
  val    : α
  flags  : BitVec 7
  poison : Bool := false

/-- The value of a binary format of `eb` exponent bits and `mb` fraction bits. -/
def flOf (eb mb : Nat) (c : Nat) : Fl :=
  let neg := bit c (eb + mb)
  let ex := bits c (eb + mb - 1) mb
  let fr := c % 2 ^ mb
  let bias : Int := 2 ^ (eb - 1) - 1
  if ex = 2 ^ eb - 1 then (if fr = 0 then .inf neg else .nan)
  else if ex = 0 then .fin neg fr (1 - bias - mb)
  else .fin neg (2 ^ mb + fr) (ex - bias - mb)

def flOf32 (b : BitVec 32) : Fl := flOf 8 23 b.toNat
def flOfBf16 (b : BitVec 16) : Fl := flOf 8 7 b.toNat
def flOfFp16 (b : BitVec 16) : Fl := flOf 5 10 b.toNat

/-- n·2^e as a fraction. -/
def dyNum (n : Nat) (e : Int) : Nat := if e ≥ 0 then n * 2 ^ e.toNat else n
def dyDen (e : Int) : Nat := if e ≥ 0 then 1 else 2 ^ (-e).toNat

/-- The nearest integer to n / d, ties to even, with true when n / d is no integer. -/
def nearestEven (n d : Nat) : Nat × Bool :=
  let q := n / d
  let r := n % d
  (if 2 * r < d then q else if 2 * r > d then q + 1 else q + q % 2, r ≠ 0)

/-- The exponent of the leading bit of n / d, for n and d above zero. -/
def leadExp (n d : Nat) : Int :=
  let g : Int := (Nat.log2 n : Int) - Nat.log2 d
  if n * dyDen g < d * dyNum 1 g then g - 1 else g

/-- The positive fraction n / d rounded once to a format of `eb` exponent bits and `mb` fraction bits, ties to even:
its bits without the sign, and its flags. UF is raised below 2^−126 whatever the format (R198, R200). -/
def roundMag (eb mb n d : Nat) : Nat × BitVec 7 :=
  if n = 0 then (0, 0)
  else
    let bias : Int := 2 ^ (eb - 1) - 1
    let qmin : Int := 1 - bias - mb
    let q : Int := max (leadExp n d - mb) qmin
    let (r, inexact) := nearestEven (n * dyDen q) (d * dyNum 1 q)
    let c := (q - qmin).toNat * 2 ^ mb + r
    if c ≥ (2 ^ eb - 1) * 2 ^ mb then ((2 ^ eb - 1) * 2 ^ mb, fOF)
    else if !inexact then (c, 0)
    else (c, fIX ||| (if n * 2 ^ 126 < d then fUF else 0))

/-- A signed fraction converted to FP32 (R198). -/
def toFp32Q (neg : Bool) (n d : Nat) : Flagged (BitVec 32) :=
  let (c, f) := roundMag 8 23 n d
  { val := BitVec.ofNat 32 (c + b2n neg * 2 ^ 31), flags := f }

def nan32 : BitVec 32 := 0x7FC0_0000#32
def inf32 (neg : Bool) : BitVec 32 := if neg then 0xFF80_0000#32 else 0x7F80_0000#32

/-- A value converted to FP32 (R198): a zero keeps its sign. -/
def toFp32 (v : Fl) : Flagged (BitVec 32) :=
  match v with
  | .nan => { val := nan32, flags := 0 }
  | .inf neg => { val := inf32 neg, flags := 0 }
  | .fin neg n e => toFp32Q neg (dyNum n e) (dyDen e)

/-- An exact zero converts as +0.0, whatever signs its terms had (R198). -/
def posZero (v : Fl) : Fl :=
  match v with
  | .fin _ 0 e => .fin false 0 e
  | _ => v

/-- Conversion to BF16 (R199). -/
def toBf16 (v : Fl) : Flagged (BitVec 16) :=
  match v with
  | .nan => { val := 0x7FC0#16, flags := 0 }
  | .inf neg => { val := if neg then 0xFF80#16 else 0x7F80#16, flags := 0 }
  | .fin neg n e =>
    let (c, f) := roundMag 8 7 (dyNum n e) (dyDen e)
    { val := BitVec.ofNat 16 (c + b2n neg * 2 ^ 15), flags := f }

/-- Conversion to FP16 (R199). -/
def toFp16 (v : Fl) : Flagged (BitVec 16) :=
  match v with
  | .nan => { val := 0x7E00#16, flags := 0 }
  | .inf neg => { val := if neg then 0xFC00#16 else 0x7C00#16, flags := 0 }
  | .fin neg n e =>
    let (c, f) := roundMag 5 10 (dyNum n e) (dyDen e)
    { val := BitVec.ofNat 16 (c + b2n neg * 2 ^ 15), flags := f }

/-- A value rounded to an integer within lo to hi: beyond them the nearer limit with OF, NaN gives 0 with NV, an infinity
the limit with `infFlag`. -/
def toInt (lo hi : Int) (infFlag : BitVec 7) (v : Fl) : Flagged Int :=
  match v with
  | .nan => { val := 0, flags := fNV }
  | .inf neg => { val := if neg then lo else hi, flags := infFlag }
  | .fin neg n e =>
    let (r, inexact) := nearestEven (dyNum n e) (dyDen e)
    let i : Int := if neg then -(r : Int) else r
    if i < lo then { val := lo, flags := fOF }
    else if i > hi then { val := hi, flags := fOF }
    else { val := i, flags := if inexact then fIX else 0 }

/-- Conversion to INT8 (R199). -/
def toInt8 (v : Fl) : Flagged Byte :=
  let r := toInt (-128) 127 fNV v
  { val := BitVec.ofInt 8 r.val, flags := r.flags }

/-- The value is below zero. -/
def flNeg (v : Fl) : Bool :=
  match v with
  | .nan => false
  | .inf neg => neg
  | .fin neg n _ => neg && n ≠ 0

/-- Conversion to BIN1 (R199, R223): NaN and the infinities raise NV (Table 8.7). -/
def toBin1 (v : Fl) : Flagged Nat :=
  { val := b2n (flNeg v), flags := match v with | .fin _ _ _ => 0 | _ => fNV }

/-! ## Exact operations -/

/-- The signed mantissa at exponent `e0`, at or below `e`. -/
def atExp (neg : Bool) (n : Nat) (e e0 : Int) : Int :=
  let m : Int := n * 2 ^ (e - e0).toNat
  if neg then -m else m

/-- The exact sum; a zero sum is +0 unless both terms are −0. NV for ∞ − ∞ (R226). -/
def flAdd (a b : Fl) : Flagged Fl :=
  match a, b with
  | .nan, _ => { val := .nan, flags := 0 }
  | _, .nan => { val := .nan, flags := 0 }
  | .inf p, .inf q => if p = q then { val := .inf p, flags := 0 } else { val := .nan, flags := fNV }
  | .inf p, _ => { val := .inf p, flags := 0 }
  | _, .inf q => { val := .inf q, flags := 0 }
  | .fin p n e, .fin q m f =>
    let e0 := min e f
    let i := atExp p n e e0 + atExp q m f e0
    { val := .fin (if i = 0 then p && q && n = 0 && m = 0 else i < 0) i.natAbs e0, flags := 0 }

/-- The exact product. NV for ∞ × 0 (R226). -/
def flMul (a b : Fl) : Flagged Fl :=
  match a, b with
  | .nan, _ => { val := .nan, flags := 0 }
  | _, .nan => { val := .nan, flags := 0 }
  | .inf p, .inf q => { val := .inf (p ≠ q), flags := 0 }
  | .inf p, .fin q m _ => if m = 0 then { val := .nan, flags := fNV } else { val := .inf (p ≠ q), flags := 0 }
  | .fin p n _, .inf q => if n = 0 then { val := .nan, flags := fNV } else { val := .inf (p ≠ q), flags := 0 }
  | .fin p n e, .fin q m f => { val := .fin (p ≠ q) (n * m) (e + f), flags := 0 }

def flNegate (a : Fl) : Fl :=
  match a with
  | .nan => .nan
  | .inf p => .inf (!p)
  | .fin p n e => .fin (!p) n e

/-- |a| < |b|; false with a NaN. -/
def flAbsLt (a b : Fl) : Bool :=
  match a, b with
  | .nan, _ => false
  | _, .nan => false
  | .inf _, _ => false
  | .fin _ _ _, .inf _ => true
  | .fin _ n e, .fin _ m f => let e0 := min e f; n * 2 ^ (e - e0).toNat < m * 2 ^ (f - e0).toNat

/-- a < b; false with a NaN. -/
def flLt (a b : Fl) : Bool :=
  match a, b with
  | .nan, _ => false
  | _, .nan => false
  | .inf p, .inf q => p && !q
  | .inf p, _ => p
  | _, .inf q => !q
  | .fin p n e, .fin q m f => let e0 := min e f; atExp p n e e0 < atExp q m f e0

/-! ## FP32 operations (R219, R226): one rounding each -/

/-- An FP32 addition. -/
def add32 (a b : BitVec 32) : Flagged (BitVec 32) :=
  let s := flAdd (flOf32 a) (flOf32 b)
  let r := toFp32 s.val
  { val := r.val, flags := s.flags ||| r.flags }

def neg32 (a : BitVec 32) : BitVec 32 := if flOf32 a = .nan then a else a ^^^ 0x8000_0000#32

/-- An FP32 multiplication. -/
def mul32 (a b : BitVec 32) : Flagged (BitVec 32) :=
  let s := flMul (flOf32 a) (flOf32 b)
  let r := toFp32 s.val
  { val := r.val, flags := s.flags ||| r.flags }

/-- x / y rounded once; y is no zero in any use. -/
def div32 (x y : BitVec 32) : Flagged (BitVec 32) :=
  match flOf32 x, flOf32 y with
  | .nan, _ => { val := nan32, flags := 0 }
  | _, .nan => { val := nan32, flags := 0 }
  | .inf _, .inf _ => { val := nan32, flags := fNV }
  | .inf p, .fin q _ _ => { val := inf32 (p ≠ q), flags := 0 }
  | .fin p _ _, .inf q => { val := BitVec.ofNat 32 (b2n (p ≠ q) * 2 ^ 31), flags := 0 }
  | .fin p n e, .fin q m f =>
    if m = 0 then (if n = 0 then { val := nan32, flags := fNV } else { val := inf32 (p ≠ q), flags := 0 })
    else toFp32Q (p ≠ q) (dyNum n e * dyDen f) (dyDen e * dyNum m f)

/-- The square root rounded once: the root of a number scaled by 2^(2k) with a sticky bit below it. -/
def sqrt32 (x : BitVec 32) : Flagged (BitVec 32) :=
  match flOf32 x with
  | .nan => { val := nan32, flags := 0 }
  | .inf neg => if neg then { val := nan32, flags := fNV } else { val := x, flags := 0 }
  | .fin neg n e =>
    if n = 0 then { val := x, flags := 0 }
    else if neg then { val := nan32, flags := fNV }
    else
      -- n·2^e = w·2^(2h − 80), with w large enough that its integer root carries more bits than FP32
      let w := if e % 2 = 0 then n * 2 ^ 80 else 2 * n * 2 ^ 80
      let h := e / 2
      let r := Nat.sqrt w
      let k := if r * r = w then 2 * r else 2 * r + 1
      toFp32Q false (dyNum k (h - 41)) (dyDen (h - 41))

/-- One compensated addition into (s, c) (R220). -/
def compAdd (p : BitVec 32 × BitVec 32 × BitVec 7) (x : BitVec 32) : BitVec 32 × BitVec 32 × BitVec 7 :=
  let (s, c, f) := p
  let t := add32 s x
  let (a, b) := if flAbsLt (flOf32 s) (flOf32 x) then (x, s) else (s, x)
  let d := add32 a (neg32 t.val)
  let g := add32 d.val b
  let c := add32 c g.val
  (t.val, c.val, f ||| t.flags ||| d.flags ||| g.flags ||| c.flags)

/-- A tree level of a lane reduction at width `w` (R220). -/
def treeLevel (w : Nat) (ls : List (BitVec 32 × BitVec 32 × BitVec 7)) : List (BitVec 32 × BitVec 32 × BitVec 7) :=
  (List.range w).map (fun j =>
    let a := ls.getD j (0, 0, 0)
    let b := ls.getD (j + w) (0, 0, 0)
    let r := compAdd a b.1
    let c := add32 r.2.1 b.2.1
    (r.1, c.val, r.2.2 ||| b.2.2 ||| c.flags))

/-- The FP32 sum of a vector: fold into 256 lanes, eight tree levels, one final rounding (R220). -/
def sum32 (xs : List (BitVec 32)) : Flagged (BitVec 32) :=
  let lanes := (List.range 256).map (fun j =>
    ((List.range ((xs.length + 255 - j) / 256)).map (fun i => xs.getD (256 * i + j) 0)).foldl compAdd (0, 0, 0))
  let top := ([128, 64, 32, 16, 8, 4, 2, 1].foldl (fun ls w => treeLevel w ls) lanes).getD 0 (0, 0, 0)
  let r := add32 top.1 top.2.1
  { val := r.val, flags := top.2.2 ||| r.flags }

/-- FP32 minimum and maximum: exact, NaN when either input is NaN (R219). -/
def min32 (a b : BitVec 32) : BitVec 32 :=
  if flOf32 a = .nan ∨ flOf32 b = .nan then nan32 else if flLt (flOf32 b) (flOf32 a) then b else a
def max32 (a b : BitVec 32) : BitVec 32 :=
  if flOf32 a = .nan ∨ flOf32 b = .nan then nan32 else if flLt (flOf32 a) (flOf32 b) then b else a

/-- A lane reduction by an operation that needs no error term (min, max, OR, AND; R220): element i folds into lane i mod 256,
then the tree of eight levels pairs lane j with lane j + w. `one` is what an empty lane holds. -/
def laneReduce {α : Type} (f : α → α → α) (one : α) (xs : List α) : α :=
  let lanes := (List.range 256).map (fun j =>
    ((List.range ((xs.length + 255 - j) / 256)).map (fun i => xs.getD (256 * i + j) one)).foldl f one)
  let level := fun (ls : List α) (w : Nat) => (List.range w).map (fun j => f (ls.getD j one) (ls.getD (j + w) one))
  ([128, 64, 32, 16, 8, 4, 2, 1].foldl level lanes).getD 0 one

/-- Lane reductions of Table 9.2 over FP32 values and over bits. -/
def laneMin (xs : List (BitVec 32)) : BitVec 32 := laneReduce min32 (inf32 false) xs
def laneMax (xs : List (BitVec 32)) : BitVec 32 := laneReduce max32 (inf32 true) xs
def laneOr (xs : List (BitVec 32)) : BitVec 32 := laneReduce (· ||| ·) 0 xs
def laneAnd (xs : List (BitVec 32)) : BitVec 32 := laneReduce (· &&& ·) (BitVec.allOnes 32) xs

/-- Integer running sum, 64-bit and exact (R221): y[i] is the sum of the elements up to i. -/
def runningSum : BitVec 64 → List (BitVec 64) → List (BitVec 64)
  | _, [] => []
  | a, x :: t => (a + x) :: runningSum (a + x) t

/-- An FP32 scan of one segment (R220): y[i] = s + c after each addition, from (+0.0, +0.0) at the segment's first element. -/
def scanFrom : BitVec 32 × BitVec 32 × BitVec 7 → List (BitVec 32) → List (Flagged (BitVec 32))
  | _, [] => []
  | p, x :: t =>
    let q := compAdd p x
    let y := add32 q.1 q.2.1
    { val := y.val, flags := q.2.2 ||| y.flags } :: scanFrom q t

/-- The FP32 segmented scan: every segment starts anew. -/
def segScan (segs : List (List (BitVec 32))) : List (Flagged (BitVec 32)) := segs.flatMap (scanFrom (0, 0, 0))

/-- A vector divided by its length (NORM, R230): the values, each with its own flags, and the flags that the sum and the
root share. -/
def norm32 (xs : List (BitVec 32)) : List (Flagged (BitVec 32)) × BitVec 7 :=
  let sq := xs.map (fun x => mul32 x x)
  let sum := sum32 (sq.map Flagged.val)
  let fs := (sq.map Flagged.flags).foldl (· ||| ·) sum.flags
  match flOf32 sum.val with
  | .fin _ 0 _ => (xs.map (fun x => { val := x, flags := 0 }), fs)
  | _ =>
    let r := sqrt32 sum.val
    (xs.map (fun x => div32 x r.val), fs ||| r.flags)

/-! ## Element formats (R185, R186) -/

/-- Bits of an element: BIN1, INT2, INT4, FP4. -/
def fmtBits (fmt : Nat) : Nat := match fmt with | 0 => 1 | 1 => 2 | _ => 4

/-- Twice the value of an FP4 magnitude code. -/
def fp4Mag (c : Nat) : Nat := [0, 1, 2, 3, 4, 6, 8, 12].getD c 0

/-- Twice the value of an element code (Tables 8.1 and 8.2). -/
def elemTwice (fmt c : Nat) : Int :=
  match fmt with
  | 0 => if c % 2 = 0 then 2 else -2
  | 1 => 2 * signed 2 (c % 4)
  | 2 => 2 * signed 4 (c % 16)
  | _ => if bit c 3 then -(fp4Mag (c % 8) : Int) else fp4Mag (c % 8)

/-- Element `k` of packed bytes (R186). -/
def elemCode (fmt : Nat) (bs : List Byte) (k : Nat) : Nat :=
  let w := fmtBits fmt
  (bs.getD (k * w / 8) 0).toNat / 2 ^ (k * w % 8) % 2 ^ w

/-- Pack element codes into bytes (R186). -/
def packElems (fmt : Nat) (cs : List Nat) : List Byte :=
  let per := 8 / fmtBits fmt
  (List.range ((cs.length + per - 1) / per)).map (fun i =>
    BitVec.ofNat 8 ((List.range per).foldl (fun a j => a + cs.getD (per * i + j) 0 * 2 ^ (fmtBits fmt * j)) 0))

/-! ## Quantisation (R222, R223) -/

def qmaxTwice (fmt : Nat) : Nat := match fmt with | 0 => 2 | 1 => 2 | 2 => 14 | _ => 12

/-- The largest magnitude of a group; a NaN counts for nothing. -/
def amax (xs : List Fl) : Fl := xs.foldl (fun a x => if flAbsLt a x then x else a) (.fin false 0 0)

/-- amax ≤ qmax × 2^(e − 127). -/
def codeFits (fmt : Nat) (a : Fl) (e : Nat) : Bool := !flAbsLt (.fin false (qmaxTwice fmt) ((e : Int) - 128)) a

/-- The scale code of a group: the smallest that fits, 0x7F for an all-zero group, 0xFE when none fits. -/
def scaleCode (fmt : Nat) (xs : List Fl) : Nat :=
  let a := amax xs
  match a with
  | .fin _ 0 _ => 0x7F
  | _ => ((List.range 255).find? (codeFits fmt a)).getD 0xFE

/-- The FP4 code nearest to twice a magnitude, ties to the code whose mantissa bit is 0, with its flags. -/
def fp4Nearest (neg : Bool) (n : Nat) (e : Int) : Nat × BitVec 7 :=
  -- n·2^e compared in units of 1/4, in which the codes are 0, 2, 4, 6, 8, 12, 16, 24
  let num := dyNum n (e + 2)
  let den := dyDen (e + 2)
  let exact := (List.range 8).find? (fun c => num = 2 * fp4Mag c * den)
  match exact with
  | some c => (if c = 0 then 0 else c + b2n neg * 8, 0)
  | none =>
    if num > 24 * den then (7 + b2n neg * 8, fOF)
    else
      let lo := (List.range 7).foldl (fun a c => if 2 * fp4Mag c * den < num then c else a) 0
      let mid := (fp4Mag lo + fp4Mag (lo + 1)) * den
      let c := if num < mid then lo else if num > mid then lo + 1 else if lo % 2 = 0 then lo else lo + 1
      (if c = 0 then 0 else c + b2n neg * 8, fIX)

/-- n·2^x lies beyond an integer format's range, −`hi` − 1 to `hi`, before it is rounded. -/
def beyondInt (hi : Nat) (neg : Bool) (n : Nat) (x : Int) : Bool := dyNum n x > (if neg then hi + 1 else hi) * dyDen x

/-- One element quantised to `fmt` at scale code `e` (step 3 of R222): a value beyond the format's range becomes the
nearer limit and raises OF. An infinity is such a value, and its conversion to INT2 or INT4 raises NV too (Table 8.7; log
entry 88). -/
def quantElem (fmt e : Nat) (v : Fl) : Flagged Nat :=
  match fmt with
  | 0 => toBin1 v
  | _ =>
    match v with
    | .nan => { val := 0, flags := fNV }
    | .inf neg =>
      { val := if fmt = 1 then (if neg then 2 else 1) else if fmt = 2 then (if neg then 8 else 7) else 7 + b2n neg * 8,
        flags := if fmt = 3 then fOF else fOF ||| fNV }
    | .fin neg n x =>
      if fmt = 3 then
        let (c, f) := fp4Nearest neg n (x + 127 - e)
        { val := c, flags := f }
      else
        let hi := if fmt = 1 then 1 else 7
        if beyondInt hi neg n (x + 127 - e) then { val := if neg then hi + 1 else hi, flags := fOF }
        else
          let r := toInt (-hi - 1) hi fOF (.fin neg n (x + 127 - e))
          { val := unsigned (fmtBits fmt) r.val, flags := r.flags }

/-- A quantised operand: element codes, scale codes and each element's flags. -/
structure Quant where
  codes  : List Nat
  scales : List Nat
  flags  : List (BitVec 7)

/-- Blocks of 32 elements. -/
def blocks32 {α : Type} : Nat → List α → List (List α)
  | 0, _ => []
  | fuel + 1, xs => if xs.isEmpty then [] else xs.take 32 :: blocks32 fuel (xs.drop 32)

/-- Quantise a vector to format `fmt` under scale mode `mode` (R222, R223). -/
def quantise (fmt mode : Nat) (xs : List Fl) : Quant :=
  let group := fun (e : Nat) (g : List Fl) => g.map (quantElem fmt e)
  match mode with
  | 0 => let r := group 0x7F xs; { codes := r.map Flagged.val, scales := [], flags := r.map Flagged.flags }
  | 1 =>
    let e := scaleCode fmt xs
    let r := group e xs
    { codes := r.map Flagged.val, scales := [e], flags := r.map Flagged.flags }
  | _ =>
    let gs := (blocks32 (xs.length / 32 + 1) xs).map (fun g => (scaleCode fmt g, g))
    let r := gs.flatMap (fun p => group p.1 p.2)
    { codes := r.map Flagged.val, scales := gs.map Prod.fst, flags := r.map Flagged.flags }

/-! ## Operands and accumulators (R187, R192 to R195) -/

/-- A block of 32 elements of an operand: its scale code, twice each element's value, and whether a word of it carries
poison. -/
structure OpBlock where
  code  : Nat
  elems : List Int
  bad   : Bool := false

/-- A vector of an operand in blocks of 32; `bad` marks one that carries poison. Elements beyond the vector are zero with
scale code 0x7F. -/
def opBlocks (fmt mode : Nat) (codes scales : List Nat) (klen : Nat) (bad : Bool := false) : List OpBlock :=
  (List.range (klen / 32)).map (fun b =>
    { code := match mode with
        | 0 => 0x7F
        | 1 => if 32 * b < codes.length then scales.getD 0 0x7F else 0x7F
        | _ => if 32 * b < codes.length then scales.getD b 0x7F else 0x7F
      elems := ((codes.drop (32 * b)).take 32).map (elemTwice fmt)
      bad := bad })

def accClear : Acc := { value := 0, flags := 0, pinned := none, nan := false, poison := false, lane := none }

/-- If not already pinned, set PINNED with the sign. -/
def accPin (pos : Bool) (a : Acc) : Acc := { a with pinned := match a.pinned with | some g => some g | none => some pos }

/-- Add an exact amount to the value; leaving the 96-bit range raises SAT and pins. -/
def accAdd (v : Int) (a : Acc) : Acc :=
  let t := a.value + v
  if t < -(2 ^ 95) ∨ t > 2 ^ 95 - 1 then accPin (t ≥ 0) { a with flags := a.flags ||| fSAT }
  else { a with value := t }

/-- One product block (R195): a poisoned operand block marks the accumulator, whatever its values. -/
def accBlock (base : Nat) (a : Acc) (x y : OpBlock) : Acc :=
  let a := { a with poison := a.poison || x.bad || y.bad }
  if x.code = 0xFF ∨ y.code = 0xFF then { a with nan := true, flags := a.flags ||| fNV }
  else
    let o : Int := (x.code : Int) + y.code - base - 127
    let ps := List.zipWith (· * ·) x.elems y.elems
    let s4 := ps.foldl (· + ·) 0
    let nz := ps.any (· ≠ 0)
    if o < -24 then (if nz then { a with flags := a.flags ||| fWL } else a)
    else if o > 23 then (if nz then accPin (s4 ≥ 0) { a with flags := a.flags ||| fWH } else a)
    else if a.pinned.isSome then a
    else accAdd (s4 * 2 ^ (o + 24).toNat) a

/-- One accumulator over one part (R195). -/
def accPart (base : Nat) (a : Acc) (xs ys : List OpBlock) : Acc :=
  (List.zip xs ys).foldl (fun a p => accBlock base a p.1 p.2) a

/-- The parts of a split reduction: `s` accumulators of equal length (R206). -/
def accParts (base s : Nat) (xs ys : List OpBlock) : List Acc :=
  let n := xs.length / s
  (List.range s).map (fun p => accPart base accClear ((xs.drop (p * n)).take n) ((ys.drop (p * n)).take n))

/-- Add a part to the combining accumulator (R207). -/
def accCombine (a b : Acc) : Acc :=
  let m := { a with flags := a.flags ||| b.flags, nan := a.nan || b.nan, poison := a.poison || b.poison }
  match a.pinned, b.pinned with
  | some _, _ => m
  | none, some g => accPin g m
  | none, none => accAdd b.value m

/-- Combine the parts in ascending order. -/
def accCombineAll : List Acc → Acc
  | [] => accClear
  | a :: t => t.foldl accCombine a

/-- The lowest part that raised WL, WH or SAT; 0xFF when none (R207). -/
def firstPartOf (ps : List Acc) : Nat :=
  ((List.range ps.length).find? (fun i => windowFlags ((ps.map Acc.flags).getD i 0))).getD 0xFF

/-! ## Drain (R196, R197) -/

/-- The exact value that drains from an accumulator without POISON: NaN, the largest finite value with the pin's sign, or
value × 2^(base_code − 153). -/
def accValue (base : Nat) (a : Acc) : Fl :=
  if a.nan then .nan
  else match a.pinned with
    | some pos => .fin (!pos) (2 ^ 24 - 1) 104
    | none => .fin (a.value < 0) a.value.natAbs ((base : Int) - 153)

/-- Drain to FP32: the flags of the reduction with those of the conversion. POISON goes before every other marker: the word
that leaves is poisoned (R196). -/
def drainFp32 (base : Nat) (a : Acc) : Flagged (BitVec 32) :=
  let r := toFp32 (accValue base a)
  { val := r.val, flags := a.flags ||| r.flags, poison := a.poison }

/-- Drain to INT32: V is a whole number at base_code 0x7F and scale NONE (R197). A pinned accumulator gives the largest value
with the pin's sign and raises nothing more (R196). -/
def drainInt32 (base : Nat) (a : Acc) : Flagged (BitVec 32) :=
  match a.nan, a.pinned with
  | false, some pos => { val := if pos then 0x7FFF_FFFF#32 else 0x8000_0001#32, flags := a.flags, poison := a.poison }
  | _, _ =>
    let r := toInt (-(2 ^ 31)) (2 ^ 31 - 1) fOF (accValue base a)
    { val := BitVec.ofInt 32 r.val, flags := a.flags ||| r.flags, poison := a.poison }

/-- Drain to HAMMING16: d = (k_len − dot) / 2 (R191), with the value in units of 2^−26. -/
def drainHamming (klen : Nat) (a : Acc) : Nat := ((klen : Int) - a.value / 2 ^ 26).toNat / 2

/-- Two 48-bit lanes of a set, each the sum of an output element's products in whole units (R204). -/
def accLanes (lo hi : Acc) : Acc := { lo with value := lo.value / 2 ^ 26, lane := some (hi.value / 2 ^ 26) }

/-! ## Epilogues (R225, R226) -/

/-- The epilogue block of a MATMUL step (Table 9.3). -/
structure Epilogue where
  act  : Nat
  conv : Nat
  lo   : BitVec 32
  hi   : BitVec 32

/-- An output element after its epilogue: the bits in the conv format and its flags. -/
def applyEpilogue (p : Epilogue) (scale bias : BitVec 32) (base : Nat) (a : Acc) : Flagged Nat :=
  let m := flMul (accValue base a) (flOf32 scale)
  let y := flAdd m.val (flOf32 bias)
  let f0 := a.flags ||| m.flags ||| y.flags
  if p.act = 2 then
    let r := toBin1 y.val
    { val := r.val, flags := f0 ||| r.flags, poison := a.poison }
  else
    let r := toFp32 (posZero y.val)
    let v := flOf32 r.val
    let f := f0 ||| r.flags
    let z : BitVec 32 :=
      if v = .nan then r.val
      else if p.act = 1 then (if r.val.getLsbD 31 then 0 else r.val)
      else if p.act = 3 then (if flLt v (flOf32 p.lo) then p.lo else if flLt (flOf32 p.hi) v then p.hi else r.val)
      else r.val
    let c : Flagged Nat := match p.conv with
      | 0 => { val := z.toNat, flags := 0 }
      | 1 => let c := toBf16 (flOf32 z); { val := c.val.toNat, flags := c.flags }
      | 2 => let c := toFp16 (flOf32 z); { val := c.val.toNat, flags := c.flags }
      | _ => let c := toInt8 (flOf32 z); { val := c.val.toNat, flags := c.flags }
    { val := c.val, flags := f ||| c.flags, poison := a.poison }

/-- The term epilogue of a RERANK (R226): 0 none, 1 ADD, 2 MUL. The exact result is rounded once by R198, so that an exact
zero is +0.0. -/
def termOp (op : Nat) (score term : BitVec 32) : Flagged (BitVec 32) :=
  if op = 0 then { val := score, flags := 0 }
  else
    let v := (if op = 1 then flAdd else flMul) (flOf32 score) (flOf32 term)
    let r := toFp32 (posZero v.val)
    { val := r.val, flags := v.flags ||| r.flags }

/-! ## Distances and rerank scores (R120, R131, R132) -/

/-- The number of the low `n` bits of `x` that are set. -/
def popcount : Nat → Nat → Nat
  | 0, _ => 0
  | n + 1, x => x % 2 + popcount n (x / 2)

/-- The Hamming distance of two codes of `l` bits. -/
def hamming (l a b : Nat) : Nat := popcount l (Nat.xor a b)

/-- Bit codes as a BIN1 operand with scale NONE (R120, R189). -/
def codeBlocks (l code : Nat) : List OpBlock := opBlocks 0 0 ((List.range l).map (fun i => b2n (bit code i))) [] l

/-- The accumulator of a centroid probe (R129, R189): BIN1 × BIN1 with scale NONE at base_code 0x7F. -/
def probeAcc (l a b : Nat) : Acc := accPart 0x7F accClear (codeBlocks l a) (codeBlocks l b)

/-- The distance that a centroid probe drains by HAMMING16 (R189, R191). -/
def probeDist (l a b : Nat) : Nat := drainHamming l (probeAcc l a b)

/-- The rerank score of a code: the INT4 query at TENSOR scale `e` against the code as BIN1, drained to FP32 (R189). -/
def rerankScore (l e : Nat) (elems : List Nat) (code : Nat) : Flagged (BitVec 32) :=
  let base := if e = 0xFF then 0x7F else e
  let xs := opBlocks 2 1 elems [e] l
  let ys := codeBlocks l code
  drainFp32 base (accPart base accClear xs ys)

end Sys2Proof.Machine
end

