-- ==== Sys2Proof/Machine/Operands.lean ====
section
/-! DEFINITION. The operand forms: the fields of a command (chapter 4) and the checks of its header and body that need
nothing but the command itself (check 2 of Table 4.3). A check answers the byte offset of the first field that breaks
its rule, in ascending order (log entry 24). -/

namespace Sys2Proof.Machine

/-! ## Header (Table 4.2) -/

/-- The `n`-byte field at offset `off` of a command. -/
def cf (x : Cmd) (off n : Nat) : Nat := fld x.bytes off n

def cOp (x : Cmd) : Nat := cf x 0 1
def cSub (x : Cmd) : Nat := cf x 1 1
def cTag (x : Cmd) : Nat := cf x 2 2
def cOrdered (x : Cmd) : Bool := bit (cf x 4 2) 0
def cCut (x : Cmd) : Bool := bit (cf x 4 2) 1
def cColl (x : Cmd) : Nat := cf x 6 2 % 4096
def cDeadline (x : Cmd) : Nat := cf x 8 4

/-! ## Opcode classes (Table 4.4) -/

/-- The opcodes of Table 4.4. -/
def opcodes : List Nat :=
  [0x01, 0x02, 0x03, 0x10, 0x11, 0x12, 0x13, 0x20, 0x21, 0x22, 0x23, 0x24, 0x25, 0x30, 0x31, 0x32, 0x33, 0x34, 0x40,
   0x41, 0x42, 0x43, 0x50, 0x51, 0x52, 0x53, 0x54, 0x60, 0x61, 0x62, 0x70, 0x71, 0x7F]

/-- The ADMIN sub-opcodes of Tables 4.5 and 20.6. -/
def subops : List Nat :=
  [0x01, 0x02, 0x03, 0x04, 0x05, 0x06, 0x07, 0x08, 0x09, 0x0A, 0x0B, 0x20, 0x21, 0x22, 0x23, 0x24]

/-- Check 1 of Table 4.3: the offset of the opcode or sub-opcode that is not in the tables. -/
def badOpcode (x : Cmd) : Option Nat :=
  if cOp x ∉ opcodes then some 0
  else if cOp x = 0x7F then (if cSub x ∈ subops then none else some 1)
  else if cSub x = 0 then none else some 1

/-- The command names a collection in its header: the Collection column of Table 4.4, with FLUSH of scope 0 and
SEARCH_FANOUT, which names its reference collection (R390). -/
def namesColl (x : Cmd) : Bool :=
  cOp x ∈ [0x11, 0x12, 0x13, 0x20, 0x21, 0x22, 0x23, 0x24, 0x25, 0x30, 0x31, 0x32, 0x33, 0x34, 0x40, 0x50, 0x51, 0x53, 0x54]
    || (cOp x = 0x02 && cf x 16 1 = 0)

/-- The command is mutating (Table 4.4). CONSOLIDATE is so for op 2 alone, the op that writes a record on its own behalf
(R94, log entry 25); ADMIN for DOMAIN_CREATE and DOMAIN_DESTROY. -/
def mutating (x : Cmd) : Bool :=
  cOp x ∈ [0x10, 0x11, 0x13, 0x20, 0x21, 0x22, 0x23, 0x25, 0x41, 0x42, 0x43, 0x51, 0x54, 0x70]
    || (cOp x = 0x50 && cf x 16 1 = 2) || (cOp x = 0x7F && (cSub x = 1 || cSub x = 2))

/-- INSERT, INSERT_BATCH, DELETE, UPSERT, SET_ATTR and IMPORT (R50). -/
def entryMutation (x : Cmd) : Bool := cOp x ∈ [0x20, 0x21, 0x22, 0x23, 0x25, 0x54]

/-- SEARCH_FLAT, SEARCH_GRAPH, SEARCH_FANOUT and SEARCH_BATCH. -/
def isSearch (x : Cmd) : Bool := cOp x ∈ [0x30, 0x31, 0x32, 0x33]

/-- The commands that start without admission (R106, R509). -/
def noAdmission (x : Cmd) : Bool :=
  cOp x ∈ [0x02, 0x03, 0x53, 0x41, 0x42, 0x60, 0x62]
    || (cOp x = 0x50 && cf x 16 1 ≤ 1) || (cOp x = 0x52 && cf x 16 1 = 0) || (cOp x = 0x7F && cSub x = 4)

/-- Check 6 of Table 4.3: the command is served in HOLD (Table 4.4, R94). -/
def holdAllows (x : Cmd) (boundedClass : Bool) : Bool :=
  if cOp x = 0x03 then true
  else !boundedClass && cOp x ∈ [0x01, 0x02, 0x11, 0x12, 0x22, 0x24, 0x30, 0x33, 0x52, 0x53, 0x60, 0x61, 0x62, 0x70,
                                  0x71, 0x7F]

/-! ## Field checks -/

/-- The first rule that is broken, as the offset of its field. -/
def firstBad : List (Bool × Nat) → Option Nat
  | [] => none
  | (bad, off) :: t => if bad then some off else firstBad t

/-- A reserved range of the body: the offset of its first byte that is not zero (log entry 24). -/
def resv (x : Cmd) (off last : Nat) : Bool × Nat :=
  match firstNonzero x.bytes off last with
  | some i => (true, i)
  | none => (false, off)

/-- A field outside lo to hi. -/
def out (x : Cmd) (off n lo hi : Nat) : Bool × Nat := (!(lo ≤ cf x off n && cf x off n ≤ hi), off)

/-- An address that is not aligned to `a` bytes. -/
def misaligned (x : Cmd) (off a : Nat) : Bool × Nat := (cf x off 8 % a ≠ 0, off)

/-- The header fields (R91). -/
def badHeader (x : Cmd) : Option Nat :=
  firstBad [(cf x 4 2 ≥ 4, 4), (if namesColl x then cf x 6 2 ≥ 4096 else cf x 6 2 ≠ 0, 6), (cf x 12 4 ≠ 0, 12)]

/-- The fields of SEARCH_FLAT and SEARCH_BATCH that need no collection (Table 5.1, Table 5.3, R130). -/
def badFlat (x : Cmd) (batch : Bool) : Option Nat :=
  let k := cf x 56 4
  let mode := cf x 62 1
  let rn := cf x 64 2
  let key := cf x 66 1
  firstBad (
    [ misaligned x 16 64, misaligned x 24 64, misaligned x 32 64,
      (cf x 40 8 % 64 ≠ 0 || (if mode = 1 then cf x 40 8 = 0 else cf x 40 8 ≠ 0), 40),
      (cf x 48 8 % 64 ≠ 0 || (if rn ≠ 0 && cf x 63 1 = 0 then cf x 48 8 = 0 else cf x 48 8 ≠ 0), 48),
      out x 56 4 1 16384,
      (match mode with
        | 0 => cf x 60 2 ≠ 0
        | 1 => cf x 60 2 < 1 || cf x 60 2 > 4096
        | 2 => cf x 60 2 < 1 || cf x 60 2 > 256
        | _ => false, 60),
      (mode > 2 || (batch && mode = 2), 62), out x 63 1 0 1,
      ((rn ≠ 0 && (rn < k || rn > 16384)) || (rn ≠ 0 && key = 0), 64),
      (key > 2 || (rn = 0 && key ≠ 0), 66), resv x 67 67,
      (cf x 68 2 > 4096 && cf x 68 2 ≠ 0xFFFF, 68), (cf x 63 1 = 1 && cf x 70 2 ≠ 0, 70) ]
    ++ (if batch then
          [ out x 72 2 1 16, resv x 74 75, (cf x 76 4 % 64 ≠ 0, 76),
            (if rn = 0 then cf x 80 4 ≠ 0 else cf x 80 4 % 64 ≠ 0 || cf x 80 4 < 2112, 80), resv x 84 119 ]
        else [ resv x 72 119 ]))

/-- The fields of SEARCH_GRAPH that need no collection (Table 6.4, R159). -/
def badGraph (x : Cmd) : Option Nat :=
  let k := cf x 48 4
  let rn := cf x 52 2
  let key := cf x 54 1
  firstBad
    [ misaligned x 16 64, misaligned x 24 64, misaligned x 32 64,
      (cf x 40 8 % 64 ≠ 0 || (if rn ≠ 0 && cf x 55 1 = 0 then cf x 40 8 = 0 else cf x 40 8 ≠ 0), 40),
      out x 48 4 1 1024, ((rn ≠ 0 && (rn < k || rn > 1024)) || (rn ≠ 0 && key = 0), 52),
      (key > 2 || (rn = 0 && key ≠ 0), 54), out x 55 1 0 1, out x 56 2 16 1024,
      (cf x 58 1 > 64 || cf x 58 1 > cf x 56 2, 58), out x 59 1 0 1,
      (cf x 60 2 > 4096 && cf x 60 2 ≠ 0xFFFF, 60), (cf x 55 1 = 1 && cf x 62 2 ≠ 0, 62), out x 64 4 0 65536,
      out x 68 2 0 4096, (cf x 70 2 > 4096 && cf x 70 2 ≠ 0xFFFF, 70), resv x 72 119 ]

/-- COLL_CONFIG (Table 4.6): value for ops 0 and 1, domain and rights for ops 2 and 3; op 1 changes to BOTH alone. -/
def badCollConfig (x : Cmd) : Option Nat :=
  let op := cf x 16 1
  firstBad (
    [ out x 16 1 0 3 ] ++
    (if op ≤ 1 then [ (cf x 17 1 > 2 || (op = 1 && cf x 17 1 ≠ 2), 17), resv x 18 21, resv x 22 119 ]
     else [ resv x 17 17, out x 18 2 0 255, (cf x 20 2 ≥ 8, 20), resv x 22 119 ]))

/-- ADMIN bodies (Tables 4.5, 14.3 and 20.6). -/
def badAdmin (x : Cmd) : Option Nat :=
  match cSub x with
  | 0x01 => firstBad [ out x 16 2 1 255, out x 18 4 0 0xFFFFF, out x 22 1 0 7, resv x 23 23, out x 28 2 1 65535,
                       out x 30 4 1 65536, (cf x 34 2 ≥ 8, 34), out x 36 2 1 4096, resv x 38 39, resv x 48 63,
                       resv x 64 119 ]
  | 0x02 => firstBad [ out x 16 2 1 255, resv x 18 119 ]
  | 0x03 => firstBad [ out x 16 2 0 32767, out x 18 2 0 255, out x 20 2 0 4095, out x 22 2 4 256, out x 24 1 0 4,
                       out x 25 1 0 1, resv x 26 119 ]
  | 0x04 => firstBad [ (cf x 16 2 > 32767 || cf x 16 2 = x.queue, 16), resv x 18 119 ]
  | 0x05 => firstBad [ out x 16 2 1 4095, resv x 18 23, resv x 56 119 ]
  | 0x06 => firstBad [ out x 16 2 1 4095, resv x 18 119 ]
  | 0x07 => firstBad [ out x 16 2 0 4095, resv x 18 119 ]
  | 0x08 => firstBad [ out x 16 1 0 4, (cf x 17 1 > 1 || (cf x 16 1 = 0 && cf x 17 1 ≠ 1), 17),
                       (cf x 16 1 ≠ 0 && cf x 18 1 = 0, 18), resv x 19 19, (cf x 17 1 = 1 && cf x 20 4 = 0, 20),
                       (cf x 24 2 ≠ 0 && (cf x 24 2 < 500 || cf x 24 2 > 950), 24), resv x 26 119 ]
  | 0x09 => firstBad [ out x 16 2 0 32767, resv x 20 119 ]
  | 0x0A => firstBad [ resv x 24 119 ]
  | 0x0B => firstBad [ misaligned x 16 64, out x 24 2 0 255, resv x 26 119 ]
  | 0x20 => firstBad [ out x 16 1 0 63, resv x 17 19, resv x 64 119 ]
  | 0x21 => firstBad [ out x 16 1 0 63, resv x 17 119 ]
  | 0x22 => firstBad [ resv x 16 19, resv x 64 119 ]
  | 0x23 => firstBad [ (cf x 16 2 > 255 && cf x 16 2 ≠ 0xFFFF, 16), resv x 18 23,
                       misaligned x 24 64, resv x 32 119 ]
  | _    => firstBad [ resv x 16 23, misaligned x 24 64, resv x 32 119 ]

/-- REGION_REGISTER (Table 14.1). -/
def badRegion (x : Cmd) : Option Nat :=
  firstBad [ (cf x 16 8 % 2 ^ 21 ≠ 0 || cf x 16 8 ≥ 2 ^ 48, 16),
             (cf x 24 8 % 2 ^ 21 ≠ 0 || cf x 24 8 = 0 || cf x 24 8 > 2 ^ 40 || cf x 16 8 + cf x 24 8 > 2 ^ 48, 24),
             (cf x 32 1 ≥ 4 || cf x 32 1 = 0, 32), out x 33 1 0 1, (cf x 34 2 > 63 && cf x 34 2 ≠ 0xFFFF, 34),
             resv x 36 39, (if cf x 33 1 = 1 then cf x 40 8 % 4096 ≠ 0 else cf x 40 8 ≠ 0, 40), resv x 48 119 ]

/-- INSERT and UPSERT (Table 11.1), and the record they carry (R36, R272). -/
def badInsert (x : Cmd) : Option Nat :=
  firstBad [ misaligned x 16 64, (cf x 24 1 > 1, 24), resv x 25 31,
             (cf x 32 6 = 0xFFFF_FFFF_FFFF, 32), (cf x 42 1 ≠ 0, 42), resv x 64 119 ]

/-- INSERT_BATCH (Table 11.2). -/
def badBatch (x : Cmd) : Option Nat :=
  firstBad [ misaligned x 16 64, misaligned x 24 64, misaligned x 32 64, out x 40 4 1 4096, resv x 44 119 ]

/-- DELETE (R275). -/
def badDelete (x : Cmd) : Option Nat :=
  firstBad [ resv x 16 31, (cf x 32 6 = 0xFFFF_FFFF_FFFF, 32), resv x 38 119 ]

/-- SET_ATTR (R276): fields of the record that the mask leaves out are ignored. -/
def badSetAttr (x : Cmd) : Option Nat :=
  firstBad [ (cf x 16 2 = 0 || cf x 16 2 > 255, 16), resv x 18 31, (cf x 32 6 = 0xFFFF_FFFF_FFFF, 32), resv x 64 119 ]

/-- LOOKUP (R277). The padding ID names no entry. -/
def badLookup (x : Cmd) : Option Nat :=
  firstBad [ misaligned x 16 64, out x 24 1 1 7, resv x 25 31, resv x 38 119 ]

/-- SEARCH_FANOUT (Table 15.2). -/
def badFanout (x : Cmd) : Option Nat :=
  firstBad [ misaligned x 16 64, misaligned x 24 64, misaligned x 32 64, misaligned x 40 64, misaligned x 48 64,
             misaligned x 56 64, misaligned x 64 64, out x 72 2 1 256, out x 74 1 0 1, resv x 75 119 ]

/-- RERANK (Table 9.8). -/
def badRerank (x : Cmd) : Option Nat :=
  firstBad [ misaligned x 24 64, ((cf x 40 8 = 0) ≠ (cf x 57 1 = 0), 40), out x 48 4 1 16384, out x 52 4 1 16384,
             out x 56 1 1 2, out x 57 1 0 2, resv x 60 119 ]

/-- ENCODE (Table 9.7). -/
def badEncode (x : Cmd) : Option Nat :=
  firstBad [ misaligned x 16 64, misaligned x 24 64, out x 40 4 1 4096, (cf x 44 4 % 64 ≠ 0, 44),
             (cf x 48 4 % 64 ≠ 0, 48), out x 52 1 0 1, out x 53 1 1 3, resv x 54 119 ]

/-- PROG_LOAD (R233). Body bytes that the rule does not list are reserved (log entry 35). -/
def badProgLoad (x : Cmd) : Option Nat :=
  if cf x 28 1 = 1 then firstBad [ resv x 29 29, (cf x 30 2 = 0xFFFF, 30), resv x 32 119 ]
  else
    firstBad [ misaligned x 16 64, (cf x 24 4 % 64 ≠ 0 || cf x 24 4 < 128 || cf x 24 4 > 4160, 24), (cf x 28 1 > 1, 28),
               resv x 29 29, resv x 32 119 ]

/-- The length that the fields of a TABLE_LOAD imply (R236). -/
def tableBytes (kind fmt rows cols scale : Nat) : Nat :=
  match kind with
  | 0 => rows * (((cols * (if fmt = 0 then 1 else if fmt = 1 then 2 else 4) + 7) / 8 + 63) / 64 * 64)
      + (if scale = 2 then rows * ((cols + 31) / 32) else 0)
  | 2 => rows * (cols / 8)
  | _ => rows * 4

/-- TABLE_LOAD (Table 9.6). -/
def badTableLoad (x : Cmd) : Option Nat :=
  let kind := cf x 30 1
  let fmt := cf x 31 1
  let rows := cf x 32 4
  let cols := cf x 36 4
  let scale := cf x 40 1
  firstBad [ misaligned x 16 64, (cf x 24 4 ≠ tableBytes kind fmt rows cols scale, 24),
             (cf x 28 2 > 4095 && cf x 28 2 ≠ 0xFFFF, 28), (kind > 3, 30), (if kind = 0 then fmt > 3 else fmt ≠ 0, 31),
             (rows = 0 || (kind = 3 && rows > 256), 32),
             ((match kind with
               | 0 => cols = 0
               | 2 => cols % 64 ≠ 0 || cols < 64 || cols > 4096
               | _ => cols ≠ 1), 36),
             (if kind = 0 then scale > 2 || (fmt = 3 && scale ≠ 2) || (fmt = 0 && scale = 2) else scale ≠ 0, 40),
             resv x 42 43, resv x 48 119 ]

/-- CONSOLIDATE (Table 11.5). -/
def badConsolidate (x : Cmd) : Option Nat :=
  let op := cf x 16 1
  let rng := fun (off n lo hi : Nat) => ((cf x off n ≠ 0 && !(lo ≤ cf x off n && cf x off n ≤ hi), off) : Bool × Nat)
  firstBad [ out x 16 1 0 3, resv x 17 19, rng 20 4 4096 15728640, rng 24 4 1 60000, rng 28 2 10 500, resv x 30 31,
             (if op = 3 then cf x 32 8 % 64 ≠ 0 else cf x 32 8 ≠ 0, 32), resv x 40 119 ]

/-- CHECKPOINT (R326). -/
def badCheckpoint (x : Cmd) : Option Nat :=
  firstBad [ out x 16 1 0 1, resv x 17 19, (cf x 16 1 = 1 && (cf x 20 2 < 10 || cf x 20 2 > 3600), 20), resv x 22 119 ]

/-- EXPORT (Table 12.11). -/
def badExport (x : Cmd) : Option Nat :=
  firstBad [ misaligned x 16 64, (cf x 24 8 % 64 ≠ 0 || cf x 24 8 < 4096, 24), (cf x 32 8 ≥ 2 ^ 35, 32), out x 40 1 0 3,
             resv x 41 119 ]

/-- IMPORT (Table 12.11). -/
def badImport (x : Cmd) : Option Nat :=
  firstBad [ misaligned x 16 64, misaligned x 32 64, resv x 40 119 ]

/-- XLAT_INVALIDATE (R375). -/
def badInvalidate (x : Cmd) : Option Nat :=
  firstBad [ (cf x 16 8 % 2 ^ 21 ≠ 0, 16), (cf x 24 8 % 2 ^ 21 ≠ 0, 24), out x 32 2 0 255, resv x 34 119 ]

/-- READ_DEFERRED (R115). -/
def badReadDeferred (x : Cmd) : Option Nat :=
  firstBad [ misaligned x 16 64, out x 24 4 1 4096, (cf x 28 2 > 32767 && cf x 28 2 ≠ 0xFFFF, 28), resv x 30 119 ]

/-- READ_LOG (Table 17.4). -/
def badReadLog (x : Cmd) : Option Nat :=
  firstBad [ misaligned x 16 64, out x 24 4 1 4096, out x 36 1 0 3, out x 37 1 0 1, resv x 38 119 ]

/-- The body fields held in a command (check 2 of Table 4.3). -/
def badBody (x : Cmd) : Option Nat :=
  match cOp x with
  | 0x01 | 0x11 => firstBad [ resv x 16 119 ]
  | 0x02 | 0x03 => firstBad [ out x 16 1 0 1, resv x 17 119 ]
  | 0x10 | 0x12 => firstBad [ resv x 24 119 ]
  | 0x13 => badCollConfig x
  | 0x20 | 0x23 => badInsert x
  | 0x21 => badBatch x
  | 0x22 => badDelete x
  | 0x24 => badLookup x
  | 0x25 => badSetAttr x
  | 0x30 => badFlat x false
  | 0x33 => badFlat x true
  | 0x31 => badGraph x
  | 0x32 => badFanout x
  | 0x34 => badRerank x
  | 0x40 => badEncode x
  | 0x41 => badProgLoad x
  | 0x42 => badTableLoad x
  | 0x43 => firstBad [ out x 16 2 0 4095, resv x 18 119 ]
  | 0x50 => badConsolidate x
  | 0x51 => firstBad [ (cf x 16 2 = 0xFFFF, 16), resv x 18 119 ]
  | 0x52 => badCheckpoint x
  | 0x53 => badExport x
  | 0x54 => badImport x
  | 0x60 => badInvalidate x
  | 0x61 => badRegion x
  | 0x62 => firstBad [ resv x 24 119 ]
  | 0x70 => badReadDeferred x
  | 0x71 => badReadLog x
  | _ => badAdmin x

/-- A bound on a size that holds in bounded classes alone: k_sel of SEARCH_FLAT and SEARCH_BATCH (R124), n of RERANK
(R243). -/
def badBounded (x : Cmd) : Option Nat :=
  match cOp x with
  | 0x30 | 0x33 => firstBad [ (cf x 56 4 > 1024, 56), (cf x 64 2 > 1024, 64) ]
  | 0x34 => firstBad [ (cf x 52 4 > 1024, 52) ]
  | _ => none

/-- Checks 1 and 2 of Table 4.3: status and offset. -/
def badCommand (x : Cmd) (bounded : Bool) : Option (Nat × Nat) :=
  match badOpcode x with
  | some o => some (0x0101, o)
  | none =>
    match badHeader x with
    | some o => some (0x0102, o)
    | none =>
      match badBody x, if bounded then badBounded x else none with
      | some a, some b => some (0x0102, min a b)
      | some a, none => some (0x0102, a)
      | none, some b => some (0x0102, b)
      | none, none => none

end Sys2Proof.Machine
end

