-- ==== Sys2Proof/Machine/Xlat.lean ====
section
/-! DEFINITION. Crook: finding a translation (R361 to R365), reads and writes of host buffers through it, and the
results in which a command's work ends. -/

namespace Sys2Proof.Machine

/-- Who makes an access: the domain, and the queue and tag its faults are logged with (R377); `pri` when a page request
may be made for it (R362); `remote` is the number of a command of a fabric-facing queue, whose addresses name places in
its message (R398). -/
structure Who where
  dom   : Nat
  queue : Nat
  tag   : Nat
  pri   : Bool
  remote : Option Nat := none
deriving DecidableEq, Repr

/-- What a piece of a command's work ends in: a result; a failure with its status and fault; or a wait for something
that has been asked for, after which the row is issued again. -/
inductive Res (α : Type) where
  | ok (a : α) (s : State)
  | fail (status : Nat) (f : Option CmdFault) (s : State)
  | wait (s : State)

/-- Go on with the result. -/
def andThen {α β : Type} (r : Res α) (f : α → State → Res β) : Res β :=
  match r with
  | .ok a s => f a s
  | .fail st x s => .fail st x s
  | .wait s => .wait s

/-! ## Status codes (Table 4.10, Table 14.5) -/

def stOK : Nat := 0x0000
def stNotFound : Nat := 0x0001
def stBadOpcode : Nat := 0x0101
def stBadField : Nat := 0x0102
def stNoContext : Nat := 0x0201
def stSideFull : Nat := 0x0202
def stCollLimit : Nat := 0x0203
def stTierFull : Nat := 0x0204
def stStoreFull : Nat := 0x0205
def stRefused : Nat := 0x0206
def stVersionLimit : Nat := 0x0207
def stXlat : Nat := 0x0301
def stRights : Nat := 0x0302
def stDomain : Nat := 0x0303
def stPoisoned : Nat := 0x0401
def stTablePoison : Nat := 0x0402
def stMediaLost : Nat := 0x0403
def stIdExists : Nat := 0x0404
def stMirrorLost : Nat := 0x0405
def stHold : Nat := 0x0501
def stAbortedReset : Nat := 0x0502
def stDeadlock : Nat := 0x0503
def stAborted : Nat := 0x0504

/-- A table granule that was read with poison, as the model's own translation status: 0x100 plus the granule's bus address
(R364). -/
def xlatPoison (bus : Nat) : Nat := 0x100 + bus

/-- The command status of a translation status (R364, R371, Table 14.5). -/
def xlatStatus (x : Nat) : Nat := if x ≥ 0x100 then stPoisoned else if x ≥ 0x10 then stRights else stXlat

/-! ## Finding a translation -/

def pageSize : Nat := 2 ^ 21

/-- What translating one address gives. -/
inductive XRes where
  | bus (a : Nat)
  | fault (status : Nat)
  | miss

/-- The boot region of D0 (R359). -/
def bootRegion (s : State) : Region :=
  { base := (regGet s (reg .crk 0 0x100)).toNat, length := (regGet s (reg .crk 0 0x108)).toNat, read := true,
    write := true, mirror := false, key := 0xFFFF, tableAddr := 0 }

def inRegion (r : Region) (va : Nat) : Bool := r.base ≤ va && va < r.base + r.length

/-- The region of domain `d` that holds `va`; true with it for the boot region. -/
def regionOf (s : State) (d va : Nat) : Option (Region × Bool) :=
  match ((tget s.domains d).map (·.regions)).getD [] |>.find? (fun r => inRegion r va) with
  | some r => some (r, false)
  | none => if d = 0 && inRegion (bootRegion s) va then some (bootRegion s, true) else none

/-- The key slot holds a key. -/
def keyLoaded (s : State) (k : Nat) : Bool := (tget s.sec.keys k).isSome

/-- The cache entry for `va`: 1 GiB entries, then 2 MiB (R361). -/
def cacheFind (s : State) (d va : Nat) : Option CacheEntry :=
  let hit := fun (sz : Nat) => s.crook.cache.find? (fun e => e.dom = d ∧ e.size = sz ∧ e.va = va / sz * sz ∧ !e.withdrawn)
  match hit (2 ^ 30) with
  | some e => some e
  | none => hit (2 ^ 21)

/-- Where an entry sends `va`. A page cached as untranslated is issued at the device-virtual address with the domain's
PASID, which the model keeps apart from bus addresses by adding (PASID + 1)·2^64; D0 carries no PASID (R362, log
entry 5). -/
def entryBus (s : State) (e : CacheEntry) (va : Nat) : Nat :=
  if e.untranslated then
    (if e.dom = 0 then va else (((tget s.domains e.dom).map (·.pasid)).getD 0 + 1) * 2 ^ 64 + va)
  else e.bus + (va - e.va)

/-- Move an entry to the front of the cache, which is kept in order of use (R378). -/
def cacheTouch (e : CacheEntry) (s : State) : State :=
  { s with crook := { s.crook with cache := e :: s.crook.cache.filter (fun x => !(x.dom = e.dom ∧ x.va = e.va ∧ x.size = e.size)) } }

def crookMod (f : Crook → Crook) (s : State) : State := { s with crook := f s.crook }

/-- An invalidation that has not completed covers the page (R373). -/
def invalidating (s : State) (d page : Nat) : Bool :=
  s.crook.invals.any (fun i => i.dom = d && i.base < page + pageSize && page < i.base + i.len)

/-- A request of that kind is outstanding for the page. -/
def requested (s : State) (d page kind : Nat) : Bool :=
  s.crook.reqs.any (fun r => r.dom = d ∧ r.va = page ∧ r.kind = kind)

/-- A further page request may be outstanding (R363). -/
def pageRoom (s : State) : Bool := (s.crook.reqs.filter (fun q => q.kind = 1)).length < 512

/-- Make a page request (R363). -/
def askPage (d page : Nat) (write : Bool) (s : State) : State :=
  emit (.pageRequest d page write) (bumpWrap (reg .crk 0 0x130) 0 32 1
    (crookMod (fun c => { c with reqs := c.reqs ++ [{ dom := d, va := page, write := write, kind := 1, stale := false }] }) s))

/-- Ask for the translation of a page that is not cached: an ATS Translation Request, a page request after NOT_PRESENT,
or a read of the region table's granule, unless one is outstanding, its number is at its limit or the page is being
invalidated (R362 to R364, R373). A fault that an earlier request ended in is reported once. -/
def fill (w : Who) (r : Region) (boot : Bool) (va : Nat) (write : Bool) (s : State) : XRes × State :=
  let page := va / pageSize * pageSize
  match s.crook.failed.find? (fun f => f.1 = w.dom ∧ f.2.1 = page) with
  | some f =>
    let drop := crookMod (fun c => { c with failed := c.failed.filter (fun g => !(g.1 = w.dom ∧ g.2.1 = page)) }) s
    if f.2.2 = 0x03 ∧ w.pri ∧ s.crook.priEnable ∧ !s.crook.priStopped then
      if requested s w.dom page 1 then (.miss, drop)
      else if pageRoom s then (.miss, askPage w.dom page write drop)
      else (.miss, s)
    else (.fault f.2.2, drop)
  | none =>
    if r.mirror then
      if requested s w.dom page 2 || invalidating s w.dom page then (.miss, s)
      else
        (.miss, emit (.tableRead ((r.tableAddr + (page - r.base) / pageSize * 8) / 64 * 64))
          (crookMod (fun c => { c with reqs := c.reqs ++ [{ dom := w.dom, va := page, write := r.write, kind := 2, stale := false }] }) s))
    else if !s.crook.atsEnable then (if boot then (.bus va, s) else (.fault 0x07, s))
    else if requested s w.dom page 0 || requested s w.dom page 1 || invalidating s w.dom page
        || (s.crook.reqs.filter (fun q => q.kind = 0)).length ≥ 1024 then (.miss, s)
    else
      (.miss, emit (.atsRequest w.dom page r.write) (bumpWrap (reg .crk 0 0x118) 0 32 1
        (crookMod (fun c => { c with reqs := c.reqs ++ [{ dom := w.dom, va := page, write := r.write, kind := 0, stale := false }] }) s)))

/-- Translate `va` for an access of domain `w.dom` (R361). -/
def translate (w : Who) (va : Nat) (write : Bool) (s : State) : XRes × State :=
  if va ≥ 2 ^ 48 then (.fault 0x01, s)
  else
    match regionOf s w.dom va with
    | none => (.fault 0x01, s)
    | some (r, boot) =>
      let noRight := if write then 0x11 else 0x10
      if !(if write then r.write else r.read) then (.fault noRight, s)
      else if r.key ≠ 0xFFFF &&
          (!(((tget s.domains w.dom).map Domain.keyMask).getD (0 : Word64)).getLsbD r.key || !keyLoaded s r.key) then (.fault 0x12, s)
      else
        match cacheFind s w.dom va with
        | some e =>
          if !(if write then e.write else e.read) then (.fault noRight, s)
          else (.bus (entryBus s e va), cacheTouch e s)
        | none => fill w r boot va write (bumpWrap (reg .crk 0 0x118) 32 32 1 s)

/-- The CRK fault of an access (R364, R371, R377). A poisoned granule has no status of Table 14.5 and logs its bus address. -/
def crkFault (w : Who) (va status : Nat) : CmdFault :=
  let poison := decide (status ≥ 0x100)
  { page := blkPage .crk 0, bit := if poison then 4 else if status ≥ 0x10 then 1 else 0,
    addr := if poison then BitVec.ofNat 64 (status - 0x100) else dvAddr va,
    info := BitVec.ofNat 64 ((if poison then 0 else status) + w.dom * 2 ^ 8 + w.queue % 2 ^ 15 * 2 ^ 16 + w.tag * 2 ^ 32) }

/-- Translate the pages of a range from `va`, at most `fuel` of them, as pieces of bus address and length. A fault is
counted as reported and carries the first byte it needed. -/
def xlatRange (w : Who) (write : Bool) : Nat → Nat → Nat → State → Res (List (Nat × Nat))
  | 0, _, _, s => .ok [] s
  | fuel + 1, va, n, s =>
    if n = 0 then .ok [] s
    else
      let m := min n (pageSize - va % pageSize)
      match translate w va write s with
      | (.fault st, s) => .fail (xlatStatus st) (some (crkFault w va st)) (bumpSat (reg .crk 0 0x138) 0 32 1 s)
      | (.miss, s) => .wait s
      | (.bus a, s) =>
        match xlatRange w write fuel (va + m) (n - m) s with
        | .ok ps s => .ok ((a, m) :: ps) s
        | .fail a b s => .fail a b s
        | .wait s => .wait s

def rangePages (va n : Nat) : Nat := (va % pageSize + n) / pageSize + 1

/-! ## Keyed regions (R372, R490) -/

/-- The tweak of the 16-byte unit at `va` (R490). -/
def unitTweak (d va : Nat) : BitVec 128 := BitVec.ofNat 128 (d * 2 ^ 120 + va / 16 % 2 ^ 44)

/-- Apply the cipher of a key to whole 16-byte units from `va`. -/
def cipherUnits (enc : Bool) (key : BitVec 256) (d : Nat) : Nat → Nat → List Byte → List Byte
  | 0, _, _ => []
  | fuel + 1, va, bs =>
    if bs.isEmpty then []
    else
      let u : BitVec 128 := BitVec.ofNat 128 (leNat (bs.take 16))
      let p := Config.xts key (unitTweak d va)
      leBytes 16 (if enc then (p u).toNat else (p.symm u).toNat) ++ cipherUnits enc key d fuel (va + 16) (bs.drop 16)

/-- Decipher (or encipher) bytes read from (or bound for) `va` when its region has a key. -/
def keyed (enc : Bool) (d va : Nat) (bs : List Byte) (s : State) : List Byte :=
  match regionOf s d va with
  | some (r, _) =>
    match tget s.sec.keys r.key with
    | some k => if r.key = 0xFFFF then bs else cipherUnits enc k d (bs.length / 16 + 1) va bs
    | none => bs
  | none => bs

/-- The access touches part of a 16-byte unit of a keyed region (R490). -/
def partUnit (d va n : Nat) (s : State) : Bool :=
  match regionOf s d va with
  | some (r, _) => r.key ≠ 0xFFFF && (va % 16 ≠ 0 || n % 16 ≠ 0)
  | none => false

/-! ## Reads and writes of host buffers -/

/-- What a read of a host buffer gives: its bytes, and the device-virtual address of the first poisoned byte. -/
structure Rd where
  bytes  : List Byte
  poison : Option Nat

/-- Read pieces of host memory. -/
def readPieces (s : State) : List (Nat × Nat) → List Byte
  | [] => []
  | (a, n) :: t => memRead s.hostMem a n ++ readPieces s t

/-- The device-virtual address of the first poisoned byte of the pieces from `va`. -/
def poisonPieces (s : State) : Nat → List (Nat × Nat) → Option Nat
  | _, [] => none
  | va, (a, n) :: t =>
    match memPoison s.hostPoison a n with
    | some p => some (va + (p - a))
    | none => poisonPieces s (va + n) t

/-- BAD_FIELD at a device-virtual address, reported by page `p` with BLK_ERR bit `bitNo`. -/
def devFault (p bitNo va info : Nat) : CmdFault := { page := p, bit := bitNo, addr := dvAddr va, info := BitVec.ofNat 64 info }

/-- BAD_FIELD for an access that touches part of a unit of a keyed region; the Crook page reports it (R490, log
entry 26). -/
def partUnitFault (w : Who) (va : Nat) : CmdFault := crkFault w va 0

/-- An address that does not name a place in its message, or a range beyond its area: BAD_FIELD with the address as it was
given (R398, log entry 26). -/
def remoteFault (va : Nat) : CmdFault :=
  { page := blkPage .wwy 0, bit := 1, addr := BitVec.ofNat 64 va, info := 0 }

/-- The offset that an address of a remote command names, when `n` bytes from it lie in an area of `len` bytes. -/
def remoteOff (va n len : Nat) : Option Nat :=
  if va / 2 ^ 62 = 2 ∧ va % 2 ^ 62 < 2 ^ 32 ∧ va % 2 ^ 62 + n ≤ len then some (va % 2 ^ 62) else none

/-- Read the request data area of a remote command. -/
def readRemote (c va n : Nat) (s : State) : Res Rd :=
  let area := ((cmdGet s c).map Cmd.dataIn).getD []
  match remoteOff va n area.length with
  | some o => .ok { bytes := slice area o n, poison := none } s
  | none => .fail stBadField (some (remoteFault va)) s

/-- Write the response data area of a remote command, at most 1 MiB. -/
def writeRemote (c va : Nat) (bs : List Byte) (s : State) : Res Unit :=
  match remoteOff va bs.length (2 ^ 20) with
  | some o => .ok () (cmdMod c (fun x => { x with dataOut := x.dataOut ++ (List.range bs.length).map (fun i => (o + i, bs.getD i 0)) }) s)
  | none => .fail stBadField (some (remoteFault va)) s

/-- Read `n` bytes at device-virtual address `va`. -/
def readDev (w : Who) (va n : Nat) (s : State) : Res Rd :=
  match w.remote with
  | some c => readRemote c va n s
  | none =>
  if partUnit w.dom va n s then .fail stBadField (some (partUnitFault w va)) s
  else
    andThen (xlatRange w false (rangePages va n) va n s) (fun ps s =>
      .ok { bytes := keyed false w.dom va (readPieces s ps) s, poison := poisonPieces s va ps } s)

/-- Write pieces of host memory. -/
def writePieces : List (Nat × Nat) → List Byte → State → State
  | [], _, s => s
  | (a, n) :: t, bs, s => writePieces t (bs.drop n) { s with hostMem := memWrite s.hostMem a (bs.take n) }

/-- Write bytes at device-virtual address `va`: every page is translated and checked first. -/
def writeDev (w : Who) (va : Nat) (bs : List Byte) (s : State) : Res Unit :=
  match w.remote with
  | some c => writeRemote c va bs s
  | none =>
  if partUnit w.dom va bs.length s then .fail stBadField (some (partUnitFault w va)) s
  else
    andThen (xlatRange w true (rangePages va bs.length) va bs.length s) (fun ps s =>
      .ok () (writePieces ps (keyed true w.dom va bs s) s))

/-- Check that a buffer can be written, writing nothing. -/
def checkWrite (w : Who) (va n : Nat) (s : State) : Res Unit :=
  match w.remote with
  | some _ =>
    if (remoteOff va n (2 ^ 20)).isSome then .ok () s else .fail stBadField (some (remoteFault va)) s
  | none =>
  if partUnit w.dom va n s then .fail stBadField (some (partUnitFault w va)) s
  else andThen (xlatRange w true (rangePages va n) va n s) (fun _ s => .ok () s)

/-- Read a buffer whose poison fails the command with POISONED_INPUT, reported by page `p` with bit `bitNo`. -/
def readClean (w : Who) (p bitNo va n : Nat) (s : State) : Res (List Byte) :=
  andThen (readDev w va n s) (fun r s =>
    match r.poison with
    | some a => .fail stPoisoned (some (devFault p bitNo a 0)) s
    | none => .ok r.bytes s)

/-- Translate a page ahead of its use: a fault found is counted (CRK_FAULTS prefetch) and reported by nothing, and is found
again when an access needs the page (R368). -/
def prefetch (w : Who) (va : Nat) (write : Bool) (s : State) : State :=
  match translate { w with pri := false } va write s with
  | (.fault _, _) => bumpSat (reg .crk 0 0x138) 32 32 1 s
  | (.miss, t) => t
  | (.bus _, t) => t

/-- Translate ahead the pages of a range of `n` bytes, at most `fuel` of them. -/
def prefetchRange (w : Who) (write : Bool) : Nat → Nat → Nat → State → State
  | 0, _, _, s => s
  | fuel + 1, va, n, s =>
    if n = 0 then s
    else
      let m := min n (pageSize - va % pageSize)
      prefetchRange w write fuel (va + m) (n - m) (prefetch w va write s)

/-- The bytes at `va` as admission sees them, through cached translations and without any effect; none where a page is
not cached. -/
def peekDev (d va n : Nat) (s : State) : Option (List Byte) :=
  match xlatRange { dom := d, queue := 0x7FFF, tag := 0, pri := false } false (rangePages va n) va n s with
  | .ok ps _ => some (keyed false d va (readPieces s ps) s)
  | _ => none

/-- The accessor of a command: its queue's domain, or its peer's domain for a sub-query. A sub-query that the
module runs for its own fan-out names 0x10000 plus the domain in place of a peer. -/
def whoOf (s : State) (x : Cmd) : Who :=
  let d := match x.sub with
    | some (p, _) => if p ≥ 0x10000 then p - 0x10000 else ((tget s.cst.peers p).map (·.domain)).getD 0
    | none => ((tget s.queues x.queue).map (·.domain)).getD 0
  { dom := d, queue := x.queue, tag := cTag x,
    pri := !x.bounded && ((tget s.domains d).map (·.priOk)).getD false,
    remote := if ((tget s.queues x.queue).map (·.fabric)).getD false && x.sub.isNone then some x.id else none }

end Sys2Proof.Machine
end

