-- ==== Sys2Proof/Machine/Rings.lean ====
section
/-! DEFINITION. Completion and event rings: contexts, zeroing, record writes, heads and interrupts (R77 to R85, R501). -/

namespace Sys2Proof.Machine

/-! ## Ring access -/

def ringGet (s : State) : RingId → Option Ring
  | .cq n => tget s.rings n
  | .ev e => if e < 8 then some (evRing s e) else none

def ringPut (i : RingId) (r : Ring) (s : State) : State :=
  match i with
  | .cq n => { s with rings := tset s.rings n r }
  | .ev e => setEvRing e r s

def ringIsEv : RingId → Bool
  | .cq _ => false
  | .ev _ => true

def ringNo : RingId → Nat
  | .cq n => n
  | .ev e => e

def recordBytes (i : RingId) : Nat := if ringIsEv i then 64 else 32
def ringBytes (i : RingId) (r : Ring) : Nat := recordBytes i * 2 ^ r.sizeLog2

/-- Domain whose PASID a ring's writes carry: D0 for event rings (R78). -/
def ringDom (i : RingId) (r : Ring) : Nat := if ringIsEv i then 0 else r.domain

def ringWho (i : RingId) (r : Ring) : Who := { dom := ringDom i r, queue := 0x7FFF, tag := 0, pri := false }

/-- The whole ring lies in one region of its domain (R78). -/
def ringInRegion (s : State) (i : RingId) (r : Ring) : Bool :=
  match regionOf s (ringDom i r) r.base with
  | some (g, _) => r.base + ringBytes i r ≤ g.base + g.length
  | none => false

/-- The context obeys Table 3.7; `resZero` says that its reserved bits are zero. Ring 0 serves queue Q0, so its domain is
that of the queues bound to it (log entry 27). -/
def ctxValid (s : State) (i : RingId) (r : Ring) (resZero : Bool) : Bool :=
  let lo := if ringIsEv i then 6 else 7
  let hi := if ringIsEv i then 12 else 16
  resZero && lo ≤ r.sizeLog2 && r.sizeLog2 ≤ hi && r.base % max 4096 (ringBytes i r) = 0
    && (if ringIsEv i then r.domain = 0
        else (tget s.domains r.domain).isSome && s.queues.all (fun q => q.2.ring ≠ ringNo i || q.2.domain = r.domain))
    && ringInRegion s i r

/-- A ring context from its words 0 and 1 (R501); the ring is left as it is otherwise. -/
def ctxWord1 (v : Word64) (r : Ring) : Ring :=
  let n := v.toNat
  { r with sizeLog2 := bits n 7 0, intEn := bit n 9, vector := bits n 26 16, coalCount := bits n 39 32,
           coalTime := bits n 47 40, domain := bits n 63 48 }

/-- Reserved bits of word 1: [15:10] of ctl and [31:27] of vector. -/
def ctxRes1 (v : Word64) : Bool := bits v.toNat 15 10 = 0 && bits v.toNat 31 27 = 0

/-- Word 1 as it reads back. -/
def ctxRead1 (r : Ring) : Nat :=
  r.sizeLog2 % 256 + b2n r.enabled * 2 ^ 8 + b2n r.intEn * 2 ^ 9 + r.vector * 2 ^ 16 + r.coalCount * 2 ^ 32
    + r.coalTime * 2 ^ 40 + r.domain * 2 ^ 48

/-- A ring at enable: tail and phase zero, its memory to be zeroed (R79). Events lost while it was not enabled still make its next
record carry LOST_BEFORE (R85). -/
def ringEnable (r : Ring) : Ring :=
  { r with enabled := true, faulted := false, zeroing := true, tail := 0, phase := false, head := 0, since := 0, waiting := [] }

/-! ## Interrupts (R83) -/

/-- A record has been written: the ring's vector is sent once coal_count records have been written since the last. -/
def signalRecord (i : RingId) (s : State) : State :=
  match ringGet s i with
  | none => s
  | some r =>
    let n := r.since + 1
    if r.intEn && n ≥ max 1 r.coalCount then sendMsix r.vector (ringPut i { r with since := 0 } s)
    else ringPut i { r with since := n } s

/-- The head has moved: records beyond it that have not been signalled are signalled now. -/
def signalHead (i : RingId) (s : State) : State :=
  match ringGet s i with
  | none => s
  | some r =>
    if r.intEn && min r.since (ringUnread r) > 0 then sendMsix r.vector (ringPut i { r with since := 0 } s) else s

/-! ## Writing records -/

/-- What a record write ends in. -/
inductive RecRes where
  | done (s : State)
  | fault (status va : Nat) (s : State)
  | wait (s : State)

/-- Write a record at the ring's tail with PHASE the inverse of the ring's phase, and advance the tail (R79). `mk` gives
the record's bytes for a PHASE. -/
def writeRecord (i : RingId) (r : Ring) (mk : Bool → List Byte) (s : State) : RecRes :=
  let va := r.base + recordBytes i * r.tail
  match translate (ringWho i r) va true s with
  | (.fault st, s) => .fault st va s
  | (.miss, s) => .wait s
  | (.bus a, s) =>
    let bs := keyed true (ringDom i r) va (mk (!r.phase)) s
    let wraps := r.tail + 1 = 2 ^ r.sizeLog2
    let r := { r with tail := if wraps then 0 else r.tail + 1, phase := if wraps then !r.phase else r.phase }
    .done (signalRecord i (ringPut i r { s with hostMem := memWrite s.hostMem a bs }))

/-- A ring write faulted (kind 0x07): the record's address is latched; a completion ring becomes FAULTED and
CQ_WRITE_FAULT is raised on its domain's event ring (R82, R85). DESIGN CHOICE (log entry 102): the event's addr has the form of
R86, with [63:62] = 3. -/
def ringFault (i : RingId) (r : Ring) (status va : Nat) (s : State) : State :=
  -- a poisoned table granule is reported as an entry that is not mapped (log entry 71)
  let status := if status ≥ 0x100 then 0x06 else status
  let s := blkFault 0 6 (dvAddr va) (violInfo 7 0 false 0 (ringNo i) (ringIsEv i)) s
  if ringIsEv i then s
  else
    raise .mpc (mkEv 0x0012 2 .mpc 0 r.domain (dvAddr va).toNat (ringNo i) status 0)
      (ringPut i { r with faulted := true } s)

/-- Write the events that wait for ring `e`, oldest first, until none waits or a page must be translated. -/
def drainEvents (e : Nat) : Nat → State → State
  | 0, s => s
  | fuel + 1, s =>
    let r := evRing s e
    match r.waiting with
    | [] => s
    | ev :: rest =>
      if r.zeroing || !r.enabled || s.chn.losing then s
      else
        match writeRecord (.ev e) { r with waiting := rest, lostDebt := false } (fun ph => evBytes ev ph r.lostDebt) s with
        | .wait s => s
        | .fault st va s => drainEvents e fuel (loseEvent e (setEvRing e { evRing s e with waiting := rest } (ringFault (.ev e) r st va s)))
        | .done s => drainEvents e fuel s

/-- Write every event that waits for any ring. -/
def drainAll (s : State) : State :=
  (List.range 8).foldl (fun s e => drainEvents e (evRing s e).waiting.length s) s

/-- Raise an event and write what can be written. -/
def raiseNow (b : Blk) (ev : Ev) (s : State) : State := drainAll (raise b ev s)

/-! ## Ring contexts in the MPC page (R501) -/

/-- The rings whose contexts lie in the MPC page. -/
def mpcRing : RingId → Bool
  | .cq n => n = 0
  | .ev e => e < 8

/-- BAR0 offset of word `k` of a context in the MPC page. -/
def ctxOff (i : RingId) (k : Nat) : Nat :=
  match i with
  | .cq _ => 0x100 + 8 * k
  | .ev e => 0x140 + 0x20 * e + 8 * k

/-- An invalid context written through the MPC page: a violation of kind 0x08, and the write is dropped. -/
def ctxViolation (i : RingId) (k : Nat) (s : State) : State :=
  drainAll (violation 8 (barAddr 0 (ctxOff i k)) 8 false (ringNo i) (ringIsEv i) s)

/-- Event ring 0 is enabled for the first time after a reset: the events held so far are posted (R85). -/
def releaseHeld (s : State) : State :=
  if s.chn.holding then
    let evs := s.chn.heldEvents
    evs.foldl (fun s ev => postEvent ev s) { s with chn := { s.chn with holding := false, heldEvents := [] } }
  else s

/-- A write of word 0. -/
def ctxWriteWord0 (i : RingId) (v : Word64) (s : State) : State :=
  match ringGet s i with
  | none => s
  | some r => if r.enabled then ctxViolation i 0 s else ringPut i { r with base := v.toNat } s

/-- Events that waited for a ring that is disabled are lost (R85). -/
def loseWaiting (i : RingId) (r : Ring) (s : State) : State :=
  match i with
  | .cq _ => s
  | .ev e => r.waiting.foldl (fun s _ => loseEvent e s) s

/-- A write of word 1. -/
def ctxWriteWord1 (i : RingId) (v : Word64) (s : State) : State :=
  match ringGet s i with
  | none => s
  | some r =>
    if bit v.toNat 8 then
      if !r.enabled then
        let n := ctxWord1 v r
        if ctxValid s i n (ctxRes1 v) then
          let s := ringPut i (ringEnable n) s
          if i = .ev 0 then drainAll (releaseHeld s) else s
        else ctxViolation i 1 s
      else if !ctxRes1 v then ctxViolation i 1 s
      else if r.faulted then ringPut i { r with faulted := false } s
      else if bits v.toNat 7 0 ≠ r.sizeLog2 || bits v.toNat 63 48 ≠ r.domain then ctxViolation i 1 s
      else ringPut i (ctxWord1 v r) s
    else loseWaiting i r (ringPut i { ctxWord1 v r with enabled := false, faulted := false, zeroing := false, waiting := [] } s)

/-- A write of word 2 or 3, which are reserved: anything but zero is an invalid context (R4, R77). -/
def ctxWriteReserved (i : RingId) (k : Nat) (v : Word64) (s : State) : State := if v = 0 then s else ctxViolation i k s

/-- Zero the memory cells of pieces. -/
def zeroPieces (ps : List (Nat × Nat)) (s : State) : State :=
  { s with hostMem := s.hostMem.filter (fun c => !ps.any (fun p => p.1 ≤ c.1 && c.1 < p.1 + p.2)) }

/-- The zeroing of a newly enabled ring ends (R79): every slot reads zero, and records held back may be written. A
zeroing write that faults is handled as a record write (R82, R85). DESIGN CHOICE (log entry 102): an event ring whose zeroing
faulted counts as zeroed, since it stays enabled and goes on taking events. -/
def ringZeroed (i : RingId) (s : State) : State :=
  match ringGet s i with
  | none => s
  | some r =>
    if !r.enabled || !r.zeroing || r.faulted then s
    else
      match xlatRange (ringWho i r) true (rangePages r.base (ringBytes i r)) r.base (ringBytes i r) s with
      | .ok ps s =>
        let s := match regionOf s (ringDom i r) r.base with
          | some (g, _) =>
            if g.key = 0xFFFF then zeroPieces ps s
            else writePieces ps (keyed true (ringDom i r) r.base (List.replicate (ringBytes i r) 0) s) s
          | none => zeroPieces ps s
        drainAll (ringPut i { r with zeroing := false } s)
      | .fail st f s =>
        let va := match f with
          | some x => x.addr.toNat % 2 ^ 62
          | none => r.base
        let code := match f with
          | some x => x.info.toNat % 256
          | none => st
        let s := ringFault i r code va s
        if ringIsEv i then drainAll (ringPut i { r with zeroing := false } s) else drainAll s
      | .wait s => s

/-! ## Heads (R79) -/

/-- A head value lies in the ring and moves the head no further than the tail. -/
def headOk (r : Ring) (v : Nat) : Bool :=
  v < 2 ^ r.sizeLog2 && (v + 2 ^ r.sizeLog2 - r.head) % 2 ^ r.sizeLog2 ≤ ringUnread r

/-- A head write to ring `i` at BAR address `addr` of `size` bytes: it moves the head or is a violation of kind 0x05. -/
def headWrite (i : RingId) (v : Nat) (addr : Word64) (size : Nat) (s : State) : State :=
  match ringGet s i with
  | none => drainAll (violation 5 addr size false (ringNo i) (ringIsEv i) s)
  | some r =>
    if !r.enabled || !headOk r v then drainAll (violation 5 addr size false (ringNo i) (ringIsEv i) s)
    else signalHead i (ringPut i { r with head := v } s)

end Sys2Proof.Machine
end

