-- ==== Sys2Proof/Machine/Port.lean ====
section
/-! DEFINITION. The host port's rows: commits (R68 to R76, R367), heads, ring contexts, zeroing, port enable, error
clearing, interrupts, and the register writes of chapter 21 that have a row of their own. -/

namespace Sys2Proof.Machine

/-- A page answers (R446, R475): every page at READY, the MPC, CHN, BLW and BAG pages otherwise. -/
def pageOpen (s : State) (b : Blk) : Bool :=
  (s.chn.stage = 6 && s.chn.mode ≠ .off) || b = .mpc || b = .chn || b = .blw || b = .bag

/-- A write of an 8-byte register of BAR0 takes `f`, or is a violation of kind 0x01 where its page does not answer. -/
def regRow (b : Blk) (i off : Nat) (f : State → State) (s : State) : State :=
  if pageOpen s b then f s else drainAll (violation 1 (barAddr 0 (reg b i off)) 8 false 0 false s)

/-- A violation of kind 0x03 by an 8-byte write to a register. -/
def regViolation3 (b : Blk) (i off : Nat) (s : State) : State :=
  drainAll (violation 3 (barAddr 0 (reg b i off)) 8 false 0 false s)

/-! ## Addresses held in a command (R367) -/

/-- The device-virtual addresses in a command's body, with true where the module writes there. -/
def cmdAddrs (x : Cmd) : List (Nat × Bool) :=
  -- the fields that name a buffer always, and those in which zero marks an absent buffer
  let (must, may) : List (Nat × Bool) × List (Nat × Bool) :=
    match cOp x with
    | 0x10 => ([(16, false)], [])
    | 0x12 | 0x24 => ([(16, true)], [])
    | 0x20 | 0x23 => ([(16, false)], [])
    | 0x21 => ([(16, false), (24, false)], [(32, true)])
    | 0x30 | 0x33 => ([(16, false), (24, true)], [(32, false), (40, false), (48, false)])
    | 0x31 => ([(16, false), (24, true)], [(32, false), (40, false)])
    | 0x32 => ([(16, false), (24, true), (48, false), (64, false)], [(32, false), (40, false), (56, true)])
    | 0x34 => ([(16, false), (24, true), (32, false)], [(40, false)])
    | 0x40 => ([(16, false), (24, true)], [(32, true)])
    | 0x41 => (if cf x 28 1 = 0 then [(16, false)] else [], [])
    | 0x42 => ([(16, false)], [])
    | 0x50 => (if cf x 16 1 = 3 then [(32, true)] else [], [])
    | 0x53 => ([(16, false)], [])
    | 0x54 => ([(16, false)], [(32, true)])
    | 0x70 | 0x71 => ([(16, true)], [])
    | 0x7F => (if cSub x = 0x0B then [(16, true)] else if cSub x = 0x23 ∨ cSub x = 0x24 then [(24, true)] else [], [])
    | _ => ([], [])
  must.map (fun p => (cf x p.1 8, p.2)) ++ may.filterMap (fun p => if cf x p.1 8 = 0 then none else some (cf x p.1 8, p.2))

/-- Entries held (R366). -/
def heldEntries (s : State) : Nat := (s.crook.cache.filter (fun e => e.holds > 0)).length

/-- Translate the addresses of a command at queueing and hold their entries; a fault found is recorded with the command
and latched at once. -/
def translateAhead (w : Who) : List (Nat × Bool) → Cmd → State → Cmd × State
  | [], x, s => (x, s)
  | (va, wr) :: t, x, s =>
    match translate w va wr s with
    | (.bus _, s) =>
      match cacheFind s w.dom va with
      | some e =>
        if heldEntries s < 49152 then
          translateAhead w t { x with held := x.held ++ [(w.dom, va)] }
            (crookMod (fun c => { c with cache := c.cache.map (fun y => if y = e then { y with holds := y.holds + 1 } else y) }) s)
        else translateAhead w t x s
      | none => translateAhead w t x s
    | (.miss, s) => translateAhead w t x s
    | (.fault st, s) =>
      let f := crkFault w va st
      let s := blkFault f.page f.bit f.addr f.info (bumpSat (reg .crk 0 0x138) 0 32 1 s)
      translateAhead w t { x with xfault := match x.xfault with
        | some y => some y
        | none => some (st, va) } s

/-- Release the holds of a command (R367). -/
def releaseHolds (x : Cmd) (s : State) : State :=
  x.held.foldl (fun s p =>
    match cacheFind s p.1 p.2 with
    | some e => crookMod (fun c => { c with cache := c.cache.map (fun y => if y = e then { y with holds := y.holds - 1 } else y) }) s
    | none => s) s

/-! ## Commits -/

/-- The check value of a command area (R70). -/
def chkValue (area : List Byte) : Nat :=
  let x := (List.range 15).foldl (fun (a : Word64) i => a ^^^ BitVec.ofNat 64 (fld area (8 * i) 8)) 0
  (((x ^^^ (x >>> 16)) ^^^ (x >>> 32)) ^^^ (x >>> 48)).toNat % 2 ^ 16

/-- Queue-store slots of a queue that hold a command (R74). -/
def slotsUsed (s : State) (q : Nat) : Nat := (s.cmds.filter (fun x => x.queue = q ∧ x.sub.isNone)).length

/-- The port takes commits: enabled, not quiesced by a reset or a power loss, READY and not OFF. -/
def portTakes (s : State) : Bool :=
  (regGet s (reg .mpc 0 0x010)).getLsbD 0 && !s.chn.quiesced && !s.chn.losing && s.chn.stage = 6 && s.chn.mode ≠ .off

/-- The first check of Table 3.6 that fails, from check 2 on: `area` is the command area and `cw` the commit word. -/
def commitReason (s : State) (q : Nat) (area : List Byte) (cw : Nat) : Nat :=
  if !portTakes s then 0x06
  else
    match tget s.queues q with
    | none => 0x04
    | some r =>
      if r.closing then 0x04
      else if bits cw 63 32 ≠ 0 then 0x07
      else if bits cw 15 0 ≠ r.nextSeq then 0x02
      else if bits cw 31 16 ≠ chkValue area then 0x01
      else if slotsUsed s q ≥ r.depth then 0x03
      else 0

/-- A commit is rejected (R73): the queue's count and reason, the latch, and COMMIT_REJECTED on the domain's event ring. DESIGN
CHOICE (log entry 101): next_seq reads 0 for a queue that does not exist. -/
def rejectCommit (q reason seq : Nat) (s : State) : State :=
  let addr := winAddr q 0x78
  let (next, dom) := match tget s.queues q with
    | some r => (r.nextSeq, r.domain)
    | none => (0, 0xFFFF)
  let s := { s with queues := tmod s.queues q (fun r => { r with rejects := min (r.rejects + 1) 0xFFFF, lastReason := reason }) }
  let s := bumpSat (reg .mpc 0 0x2D0) 32 32 1 s
  let s := blkFault 0 5 addr (violInfo 6 0 false reason 0 false) s
  raise .mpc { mkEv 0x0011 2 .mpc 0 dom addr.toNat (reason + next * 2 ^ 16 + seq * 2 ^ 32) 0 0 with queue := q } s

/-- A new command in the queue store. `base` is its visibility horizon at arrival (R51). -/
def newCmd (id q : Nat) (bytes : List Byte) (now base : Nat) : Cmd :=
  { id := id, queue := q, bytes := bytes, arrival := now, phase := .waiting, xfault := none, held := [], home := 0,
    bounded := false, baseHorizon := base, horizon := base, charges := [], pres := 0, status := 0, result := 0,
    epoch := 0, jseq := 0, isPartial := false, tie := false, arith := false, journaled := false, fault := none, after := [],
    lateXlat := false, tableWait := false, ringWait := false, floorMiss := false, fabricLate := false,
    slot := false, raiseHz := false, turn := 0, deadlineUs := 0, ends := [], planned := 0, list := none, list2 := none,
    work := .none, view := none, images := [], afterBarrier := 0, lead := 0, pool := 0, spill := [], defBound := 0, vpoison := none, sub := none, remote := none, dataIn := [], dataOut := [] }

/-- The command has reached its point of Table 4.9: its records are written. -/
def recordsWritten (x : Cmd) : Bool :=
  x.jseq ≠ 0 && (match x.work with
    | .mutate m => m.entries.all (fun e => e.done.isSome)
    | _ => true)

/-- The address that the record of a command of queue `q` goes to, with a write, when its ring is enabled (R367). -/
def ringPage (s : State) (q : Nat) : List (Nat × Bool) :=
  match (tget s.queues q).bind (fun r => tget s.rings r.ring) with
  | some r => if r.enabled then [(r.base + 32 * r.tail, true)] else []
  | none => []

/-- A commit is accepted: the command goes into the queue store, next_seq rises and its addresses are translated ahead
with the page of the ring that will take its record (R71, R73, R367). -/
def acceptCommit (q : Nat) (bytes : List Byte) (peer : Option Nat) (dataIn : List Byte) (s : State) : State :=
  let base := ((tget s.colls (fld bytes 6 2 % 4096)).map Coll.posted).getD 0
  let x0 := newCmd s.nextCmd q bytes s.now base
  let before := s.cmds.filter (fun y => y.queue = q && mutating y && namesColl y && cColl y = cColl x0)
  let x := { x0 with remote := peer, dataIn := dataIn, raiseHz := cOrdered x0 && before ≠ [] && !before.all recordsWritten,
                     horizon := if cOrdered x0 && before ≠ [] && before.all recordsWritten then
                       max base (((tget s.colls (cColl x0)).map Coll.journaled).getD 0) else base }
  let s := { s with nextCmd := s.nextCmd + 1,
                    queues := tmod s.queues q (fun r => { r with nextSeq := (r.nextSeq + 1) % 65536 }) }
  let s := bumpWrap (reg .mpc 0 0x2D0) 0 32 1 s
  let s := { s with cmds := s.cmds ++ [x] }
  let w := whoOf s x
  if w.remote.isSome then s
  else
    let (x, s) := translateAhead w (cmdAddrs x ++ ringPage s q) x s
    cmdPut x s

/-- Bytes of the command area of a window. -/
def windowArea (s : State) (q : Nat) : List Byte := memRead s.windows (q * 256) 0x78

/-- The command area is cleared after every commit (R72). -/
def clearWindow (q : Nat) (s : State) : State :=
  { s with windows := s.windows.filter (fun c => !(q * 256 ≤ c.1 && c.1 < q * 256 + 0x78)) }

/-- The write of a commit word, whole or in part. DESIGN CHOICE (log entry 101): the received seq of a partial one reads 0. -/
def commitWord (q : Nat) (whole : Bool) (cw : Nat) (s : State) : State :=
  let area := windowArea s q
  let reason := if whole then commitReason s q area cw else 0x05
  let s := if reason = 0 then acceptCommit q (area ++ leBytes 8 cw) none [] s
    else rejectCommit q reason (if whole then bits cw 15 0 else 0) s
  clearWindow q s

/-- A CQ_HEAD write in the window of queue `q` (R79). DESIGN CHOICE (log entry 101): it is taken while QUEUE_DESTROY runs, until
the queue is gone. -/
def cqHead (q v size : Nat) (s : State) : State :=
  match tget s.queues q with
  | none => drainAll (violation 5 (winAddr q 0x88) size false 0 false s)
  | some r => headWrite (.cq r.ring) (v % 65536) (winAddr q 0x88) size s

/-- One write TLP's bytes from offset `o` of window `q`, applied in ascending address order (R68). DESIGN CHOICE (log entry 101):
a write of a part of CQ_HEAD is dropped without a violation, and parts are not joined; a write that holds the whole commit word and
goes on past it is a commit, with a violation of kind 0x04 for the rest. -/
def windowPart (q o : Nat) (data : List Byte) (s : State) : State :=
  let e := o + data.length
  let area := data.take (0x78 - o)
  let s := if o < 0x78 then { s with windows := memWrite s.windows (q * 256 + o) area } else s
  let s := if o < 0x80 ∧ e > 0x78 then
      commitWord q (o ≤ 0x78 && e ≥ 0x80) (fld data (0x78 - o) 8) s
    else s
  let s := if o < 0x88 ∧ e > 0x80 then violation 4 (winAddr q (max o 0x80)) data.length false 0 false s else s
  let s := if o ≤ 0x88 ∧ e ≥ 0x8C then cqHead q (fld data (0x88 - o) 4) 4 s else s
  let s := if e > 0x8C then violation 4 (winAddr q (max o 0x8C)) data.length false 0 false s else s
  drainAll s

/-- A write TLP at BAR2 offset `off`, window by window. -/
def windowWrite : Nat → Nat → List Byte → State → State
  | 0, _, _, s => s
  | fuel + 1, off, data, s =>
    if data.isEmpty then s
    else
      let n := min data.length (256 - off % 256)
      windowWrite fuel (off + n) (data.drop n) (windowPart (off / 256) (off % 256) (data.take n) s)

/-! ## Rows -/

/-- COMMIT (R68). -/
def execCommit (off : Nat) (data : List Byte) (s : State) : Host.Outcome State Fault Refusal :=
  .next (windowWrite (data.length / 256 + 2) (off % 2 ^ 23) data s)

/-- CQ_HEAD_WRITE (R79). -/
def execCqHeadWrite (q : Nat) (v : BitVec 32) (s : State) : Host.Outcome State Fault Refusal :=
  .next (cqHead q v.toNat 4 s)

/-- EVR_HEAD_WRITE (R79). -/
def execEvrHeadWrite (e : Nat) (v : Word64) (s : State) : Host.Outcome State Fault Refusal :=
  .next (regRow .mpc 0 (0x240 + 8 * (e % 8)) (headWrite (.ev (e % 8)) (v.toNat % 65536) (barAddr 0 (0x240 + 8 * (e % 8))) 8) s)

/-- RING_CONTEXT_WORD0_WRITE (R501). -/
def execRingContextWord0Write (r : RingId) (v : Word64) (s : State) : Host.Outcome State Fault Refusal :=
  .next (if mpcRing r then ctxWriteWord0 r v s else s)

/-- RING_CONTEXT_WORD1_WRITE (R501). -/
def execRingContextWord1Write (r : RingId) (v : Word64) (s : State) : Host.Outcome State Fault Refusal :=
  .next (if mpcRing r then ctxWriteWord1 r v s else s)

/-- RING_ZEROING_DONE (R79). -/
def execRingZeroingDone (r : RingId) (s : State) : Host.Outcome State Fault Refusal := .next (ringZeroed r s)

/-- A write of MPC_BLK_CTL (R502, R359): setting enable opens the port and locks the boot region. -/
def portEnable (v : Word64) (s : State) : State :=
  let s := regSet (reg .mpc 0 0x010) (v &&& 1) s
  if v.getLsbD 0 then crookMod (fun c => { c with bootLocked := true }) s else s

/-- PORT_ENABLE_WRITE (R502). -/
def execPortEnableWrite (v : Word64) (s : State) : Host.Outcome State Fault Refusal := .next (portEnable v s)

/-- BLK_ERR_CLEAR (R433); a page that holds no block is a violation. -/
def execBlkErrClear (page : Nat) (v : Word64) (s : State) : Host.Outcome State Fault Refusal :=
  .next (match pageBlk page with
    | some (b, _) => if pageOpen s b then blkErrClear page v s
        else drainAll (violation 1 (barAddr 0 (pageReg page 0x020)) 8 false 0 false s)
    | none => drainAll (violation 1 (barAddr 0 (pageReg page 0x020)) 8 false 0 false s))

/-- A write of BORE_DEBUG (R215): under debug authorisation the array halts at the next region boundary. -/
def boreDebug (cluster : Nat) (v : Word64) (s : State) : State :=
  if s.sec.debug then regSet (reg .bore cluster 0x138) (BitVec.ofNat 64 (b2n (v.getLsbD 0) * 3)) s
  else regViolation3 .bore cluster 0x138 s

/-- BORE_DEBUG_WRITE (R215). -/
def execBoreDebugWrite (cluster : Nat) (v : Word64) (s : State) : Host.Outcome State Fault Refusal :=
  .next (regRow .bore (cluster % 32) 0x138 (boreDebug (cluster % 32) v) s)

/-- A ring whose context lies in the old boot region lies outside the new one (R504). -/
def bootLeaves (s : State) (old new : Region) : Bool :=
  let lies := fun (g : Region) (i : RingId) (r : Ring) => g.base ≤ r.base && r.base + ringBytes i r ≤ g.base + g.length
  s.rings.any (fun p => p.2.enabled && p.2.domain = 0 && lies old (.cq p.1) p.2 && !lies new (.cq p.1) p.2)
    || s.evRings.any (fun p => p.2.enabled && lies old (.ev p.1) p.2 && !lies new (.ev p.1) p.2)

/-- A write of the boot region's base or length (R359, R504). -/
def bootWrite (off : Nat) (base len : Nat) (s : State) : State :=
  let old := bootRegion s
  let new := { old with base := base, length := len }
  let overlap := (((tget s.domains 0).map Domain.regions).getD []).any
    (fun r => len ≠ 0 && base < r.base + r.length && r.base < base + len)
  if s.crook.bootLocked then regViolation3 .crk 0 off s
  else if len > 2 ^ 40 ∨ base + len > 2 ^ 48 ∨ overlap = true ∨ bootLeaves s old new = true then regViolation3 .crk 0 off s
  else regSet (reg .crk 0 0x108) (BitVec.ofNat 64 len) (regSet (reg .crk 0 0x100) (BitVec.ofNat 64 base) s)

/-- CRK_BOOT_LEN_WRITE (R504). -/
def execCrkBootLenWrite (v : Word64) (s : State) : Host.Outcome State Fault Refusal :=
  .next (regRow .crk 0 0x108 (fun s => bootWrite 0x108 (bootRegion s).base (bits v.toNat 40 21 * 2 ^ 21) s) s)

/-- The admission resource has a ledger of that number (WWY_LEDGER_SEL). -/
def ledgerExists (resource no : Nat) : Bool :=
  match resource with
  | 0 => no < 12
  | 1 => no < 64
  | 2 => no < 4
  | _ => no = 0

/-- A write of WWY_LEDGER_SEL (R503). -/
def ledgerSel (v : Word64) (s : State) : State :=
  if ledgerExists (bits v.toNat 2 0) (bits v.toNat 13 8) then regSet (reg .wwy 0 0x140) (v &&& 0x3F07) s
  else regViolation3 .wwy 0 0x140 s

/-- WWY_LEDGER_SEL_WRITE (R503). -/
def execWwyLedgerSelWrite (v : Word64) (s : State) : Host.Outcome State Fault Refusal :=
  .next (regRow .wwy 0 0x140 (ledgerSel v) s)

/-- BLW_CAL_SEL_WRITE (R505). -/
def execBlwCalSelWrite (v : Word64) (s : State) : Host.Outcome State Fault Refusal :=
  .next (regSet (reg .blw 0 0x180) (v &&& 0xFFFF_FFFF) s)

def calKind (s : State) : Nat := bits (regGet s (reg .blw 0 0x180)).toNat 31 24
def calIndex (s : State) : Nat := bits (regGet s (reg .blw 0 0x180)).toNat 23 0

def ucalRun (f : UCal → UCal) (s : State) : State := { s with blw := { s.blw with run := f s.blw.run } }

/-- A write of BLW_OFS_TRIM (R505): the trim of the selected sensor die, within −20 to +20 tenths of a degree. -/
def ofsTrim (v : Word64) (s : State) : State :=
  if calKind s = 2 ∧ calIndex s < 9 then
    ucalRun (fun u => { u with trims := u.trims.set (calIndex s) (clampInt (-20) 20 (signed 16 (bits v.toNat 15 0))) }) s
  else regViolation3 .blw 0 0x178 s

/-- BLW_OFS_TRIM_WRITE (R505). -/
def execBlwOfsTrimWrite (v : Word64) (s : State) : Host.Outcome State Fault Refusal := .next (ofsTrim v s)

/-- A write of BLW_OFS_TAP (R505): the offset of the selected tap, within −8 to +8, and the port's enable. -/
def ofsTap (v : Word64) (s : State) : State :=
  let port := calIndex s % 16
  let tap := calIndex s / 16
  if calKind s = 4 ∧ port < 12 ∧ tap < 3 then
    let o := clampInt (-8) 8 (signed 8 (bits v.toNat 7 0))
    let p := s.blw.run.serdes.getD port (0, 0, 0, false)
    let p := (if tap = 0 then o else p.1, if tap = 1 then o else p.2.1, if tap = 2 then o else p.2.2.1, v.getLsbD 8)
    ucalRun (fun u => { u with serdes := u.serdes.set port p }) s
  else regViolation3 .blw 0 0x1A8 s

/-- BLW_OFS_TAP_WRITE (R505). -/
def execBlwOfsTapWrite (v : Word64) (s : State) : Host.Outcome State Fault Refusal := .next (ofsTap v s)

/-- coal_time has passed since the first record written after the last message (R83). -/
def coalesceExpiry (r : RingId) (s : State) : State :=
  match ringGet s r with
  | none => s
  | some x => if x.intEn && x.coalTime ≠ 0 && x.since > 0 then sendMsix x.vector (ringPut r { x with since := 0 } s) else s

/-- COALESCE_TIMER_EXPIRY (R83). -/
def execCoalesceTimerExpiry (r : RingId) (s : State) : Host.Outcome State Fault Refusal := .next (coalesceExpiry r s)

/-- A word of the MSI-X table is written; a vector unmasked with its pending bit set sends its message (R83). -/
def msixWrite (off : Nat) (v : BitVec 32) (s : State) : State :=
  let s := { s with msixTable := tset s.msixTable off v }
  let vec := off / 16
  if off % 16 = 12 ∧ v.getLsbD 0 = false ∧ vec ∈ s.msixPending then
    emit (.msix vec) { s with msixPending := s.msixPending.filter (· ≠ vec) }
  else s

/-- MSIX_UNMASK (R83). -/
def execMsixUnmask (vector : Nat) (s : State) : Host.Outcome State Fault Refusal :=
  .next (if vector < 2048 then msixWrite (16 * vector + 12) 0 s else s)

end Sys2Proof.Machine
end

