-- ==== Sys2Proof/Machine/Post.lean ====
section
/-! DEFINITION. How a command ends (R92, R93, R95) and how its completion record is posted (R80, R81, R109, R113,
R269). -/

namespace Sys2Proof.Machine

/-! ## Classes and order -/

def clsReset : Cls := { bounded := false, weight := 0, deadlineUs := 0, credit := 0, lastServed := 0 }

/-- Class of a queue. Sub-queries of class c, which take no queue, stand under the model's own number 32,768 + c (log
entry 46). -/
def clsOf (s : State) (q : Nat) : Nat := if q ≥ 32768 then q - 32768 else ((tget s.queues q).map Queue.cls).getD 1
def clsData (s : State) (c : Nat) : Cls := s.classes.getD c clsReset
def boundedCls (s : State) (q : Nat) : Bool := (clsData s (clsOf s q)).bounded

/-- An ORDERED rule holds the command (Table 4.9, R105). -/
def orderedHolds (s : State) (x : Cmd) : Bool :=
  cOrdered x && s.cmds.any (fun y => y.queue = x.queue && y.sub.isNone && y.id < x.id &&
    (if isSearch x || cOp x ∈ [0x34, 0x24, 0x53] then
        mutating y && namesColl y && cColl y = cColl x && !recordsWritten y
     else if mutating x || cOp x = 0x02 then mutating y && !recordsWritten y
     else true))

/-- A command that sees one view of its collection (R49, R55). -/
def takesView (x : Cmd) : Bool := isSearch x || cOp x ∈ [0x34, 0x24, 0x53]

/-- The earlier mutating commands of an ORDERED search's queue and collection have all written their records or completed:
the horizon of such a waiting search becomes the highest number journaled (R52). -/
def raiseHorizons (s : State) : State :=
  { s with cmds := s.cmds.map (fun x =>
      if x.phase = .waiting ∧ x.raiseHz ∧ takesView x ∧ !orderedHolds s x then
        { x with raiseHz := false, horizon := max x.horizon (((tget s.colls (cColl x)).map Coll.journaled).getD 0) }
      else x) }

/-! ### The order of mutations that name one ID (R104) -/

/-- The failure that stopped the batch. -/
def batchFailure (m : Mut) : Option Nat := m.entries.findSome? (fun e => match e.done with
  | some (_, st) => if st ≥ 0x100 then some st else none
  | none => none)

/-- The next entry of a mutation to be journaled; none when all are or when one has failed. -/
def nextEntry (m : Mut) : Option (Nat × MutEntry) :=
  if (batchFailure m).isSome then none
  else ((List.range m.entries.length).find? (fun i => (m.entries[i]?).any (fun e => e.done.isNone))).bind
    (fun i => (m.entries[i]?).map (fun e => (i, e)))

def isBatch (x : Cmd) : Bool := cOp x = 0x21 || cOp x = 0x54

/-- A mutation's entries that are still to be journaled name the ID. -/
def namesStill (y : Cmd) (vid : Nat) : Bool :=
  match y.work with
  | .mutate m => m.entries.any (fun e => e.record.vid = vid && e.done.isNone)
  | _ => false

/-- A batch or import has not read its records yet. -/
def idsUnknown (y : Cmd) : Bool :=
  match y.work with
  | .mutate m => !m.read
  | _ => true

/-- The earlier-accepted mutation `y` of the collection holds the journal write that `x` makes for an ID (R104). -/
def holdsEntry (x : Cmd) (vid : Nat) (y : Cmd) : Bool :=
  y.id < x.id && y.sub.isNone && entryMutation y && cColl y = cColl x && y.phase ≠ .finished && y.jseq = 0
    && (if isBatch y then idsUnknown y || namesStill y vid else cf y 32 6 = vid)

def earlierHolds (s : State) (x : Cmd) (vid : Nat) : Bool := s.cmds.any (holdsEntry x vid)

/-- A later command of a bounded class that ranks higher waits for the journal write of `y`, so that `y` runs at that class for its
remaining stages (R104). -/
def lifted (s : State) (y : Cmd) : Bool :=
  !y.bounded && entryMutation y && s.cmds.any (fun x => x.bounded && clsOf s x.queue < clsOf s y.queue &&
    (match x.work with
      | .mutate m => (nextEntry m).any (fun e => holdsEntry x e.2.record.vid y)
      | _ => false))

/-- The command runs at a bounded class: its own, or that of a command that waits for it. -/
def runsBounded (s : State) (x : Cmd) : Bool := x.bounded || lifted s x

/-! ## Ends -/

/-- The block of a type code, for raising events kept with a command. -/
def blkOfType (t : Nat) : Blk :=
  match t with
  | 1 => .mpc | 2 => .wwy | 3 => .crk | 4 => .chn | 5 => .blw | 6 => .wch | 7 => .sld | 8 => .ftc | 9 => .bkc | 0x0A => .bag
  | 0x0B => .reed | 0x0C => .kwk | 0x0D => .bore | 0x0E => .bell | 0x0F => .vlv | 0x10 => .cst | 0x11 => .drn | _ => .sec

/-- The domain a command runs under. -/
def domOf (s : State) (x : Cmd) : Nat := (whoOf s x).dom

/-- Free a command's walker contexts (R147). A core that holds none has none left to move (R163). -/
def freeContexts (c : Nat) (s : State) : State :=
  let left := s.contexts.filter (fun p => p.2 ≠ c)
  { s with contexts := left,
           chn := { s.chn with coresMoving := s.chn.coresMoving.filter (fun k => left.any (fun p => p.1 = k)) } }

/-- Free what a command holds in the engines: walker contexts (R147) and slot rings (R268). -/
def freeUnits (c : Nat) (s : State) : State :=
  let s := freeContexts c s
  freeTiles c <| cmdMod c (fun x => { x with pool := 0, spill := [] })
    { s with srings := s.srings.filter (fun r => r.cmd ≠ some c) }

/-- The WWY fault of a field held in the command (R93, WWY_BLK_ERR_INFO). -/
def wwyFault (x : Cmd) (status off : Nat) : CmdFault :=
  { page := blkPage .wwy 0, bit := if status = stBadOpcode then 0 else if status = stDomain then 2 else 1,
    addr := winAddr x.queue off,
    info := BitVec.ofNat 64 (status + cOp x * 2 ^ 16 + cSub x * 2 ^ 24 + x.queue * 2 ^ 32 + cTag x * 2 ^ 48) }

/-- info0 of COMMAND_FAULT (Table 4.11). -/
def commandInfo (x : Cmd) (status : Nat) : Nat := status + cOp x * 2 ^ 16 + cSub x * 2 ^ 24

/-- COMMAND_FAULT of a failed command (Table 4.11): block and number name the page that found the fault. -/
def faultEvent (s : State) (x : Cmd) (status : Nat) (f : CmdFault) : Ev :=
  let (b, i) := (pageBlk f.page).getD (.wwy, 0)
  { mkEv 0x0020 2 b i (domOf s x) f.addr.toNat (commandInfo x status) 0 0
    with queue := x.queue, tag := cTag x, coll := if namesColl x then cColl x else 0xFFFF }

/-- What the fault's page latches as BLK_ERR_INFO: what the block's chapter sets out, or info0 of the event that reports it
(R496). -/
def latchInfo (x : Cmd) (status : Nat) (g : CmdFault) : Word64 :=
  if g.info = 0 ∧ (status / 256 = 1 ∨ status / 256 = 3) then BitVec.ofNat 64 (commandInfo x status) else g.info

/-- The command is finished with success; its record falls due. -/
def finish (c : Nat) (f : Cmd → Cmd) (s : State) : State :=
  cmdMod c (fun x => { f x with phase := .finished, work := .none }) (freeUnits c s)

/-- The command fails: the block that found the fault sets its bit and latches, and for statuses of class 0x01xx and
0x03xx COMMAND_FAULT follows the completion record (R93). The command has changed nothing (R95). -/
def failCmd (c status : Nat) (f : Option CmdFault) (s : State) : State :=
  match cmdGet s c with
  | none => s
  | some x =>
    let s := match f with
      | some g => blkFault g.page g.bit g.addr (latchInfo x status g) s
      | none => s
    let evs := match f with
      | some g => if status / 256 = 1 ∨ status / 256 = 3 then [faultEvent s x status g] else []
      | none => []
    finish c (fun x => { x with status := status, result := 0, epoch := 0, fault := f, after := x.after ++ evs, dataOut := [] }) s

/-- BAD_FIELD (or another status) at byte `off` of the command. -/
def failField (x : Cmd) (status off : Nat) (s : State) : State := failCmd x.id status (some (wwyFault x status off)) s

/-- A command's work as a state: its result, its failure, or the wait. -/
def settle (c : Nat) (r : Res State) : State :=
  match r with
  | .ok t _ => t
  | .fail st f s => failCmd c st f s
  | .wait s => s

/-- Success with a result in `f`. -/
def done (c : Nat) (f : Cmd → Cmd) (s : State) : Res State := .ok (finish c f s) s

/-! ## The completion record (Table 3.8) -/

/-- The domain's deferred store holds an unread entry of this queue, or of a queue no longer enabled (R113). -/
def deferredPending (s : State) (x : Cmd) : Bool :=
  match tget s.domains (domOf s x) with
  | none => false
  | some d => d.deferred.any (fun e => e.queue = x.queue || (tget s.queues e.queue).isNone)

/-- The record is later than the effective deadline (R109). -/
def isLate (s : State) (x : Cmd) : Bool := x.deadlineUs ≠ 0 && s.now > x.arrival + x.deadlineUs * 1000

def succeeded (x : Cmd) : Bool := x.status < 0x100

/-- The flags of the record (R113), without PHASE. A failed command carries DEFERRED_PENDING alone, and PARTIAL for an
INSERT_BATCH that failed part way. -/
def cflags (s : State) (x : Cmd) : Nat :=
  b2n (deferredPending s x) + b2n x.isPartial * 2
    + (if succeeded x then b2n (isLate s x) * 4 + b2n x.tie * 8 + b2n x.arith * 16 else 0)

def residency (s : State) (x : Cmd) : Nat := min (s.now - x.arrival) 0xFFFF_FFFF

/-- The 32 bytes of the completion record. -/
def cplBytes (s : State) (x : Cmd) (phase : Bool) : List Byte :=
  leBytes 2 (cTag x) ++ leBytes 2 x.status ++ leBytes 2 x.queue ++ leBytes 2 (cflags s x + b2n phase * 2 ^ 15)
    ++ leBytes 4 x.result ++ leBytes 4 (residency s x) ++ leBytes 8 x.epoch ++ leBytes 8 x.jseq

/-- The completion ring of a command's queue. -/
def ringOf (s : State) (x : Cmd) : Nat := ((tget s.queues x.queue).map Queue.ring).getD 0

/-- The collection that a mutating command's journal record is of: that of its header, or the one that COLL_CREATE has made
(log entry 65). -/
def journalColl (x : Cmd) : Option Nat :=
  if namesColl x then some (cColl x) else if cOp x = 0x10 ∧ x.journaled then some x.result else none

/-- Completions of mutating commands on one collection are posted in journal order (R50): no other command of the
collection holds an earlier number. A batch, whose numbers
are consecutive, stands by its last. -/
def journalTurn (s : State) (x : Cmd) : Bool :=
  !x.journaled || (journalColl x).isNone || s.cmds.all (fun y => !(y.id ≠ x.id && mutating y && y.sub.isNone
    && journalColl y = journalColl x && y.jseq < x.jseq && y.jseq ≠ 0))

/-- The response data area of a remote command (R398). -/
def responseArea (x : Cmd) : List Byte :=
  let n := x.dataOut.foldl (fun m p => max m (p.1 + 1)) 0
  let m := x.dataOut.foldl (fun m p => memSet m p.1 p.2) ([] : List Host.Cell)
  memRead m 0 n

/-- What takes effect at the completion of a command. COLL_DROP removes the collection (R62), REGION_REGISTER adds its
region (R357), KEY_CLEAR empties its slot (R489), CLASS_CONFIG holds for commands that start later. -/
def postEffect (x : Cmd) (s : State) : State :=
  if !succeeded x then s
  else
    match cOp x with
    | 0x11 =>
      let entryTbl := ((tget s.colls (cColl x)).map Coll.entryTbl).getD 0xFFFF
      { s with colls := tdel s.colls (cColl x), tables := tdel s.tables entryTbl,
               poison := s.poison.filter (fun p => p.coll ≠ cColl x) }
    | 0x61 =>
      let r : Region := { base := cf x 16 8, length := cf x 24 8, read := bit (cf x 32 1) 0, write := bit (cf x 32 1) 1,
                          mirror := cf x 33 1 = 1, key := cf x 34 2, tableAddr := cf x 40 8 }
      domMod (domOf s x) (fun d => { d with regions := insertBy (fun a b => a.base < b.base) r d.regions }) s
    | 0x7F =>
      if cSub x = 0x21 then
        raise .sec (mkEv 0x0120 0 .sec 0 0xFFFF 0 (cf x 16 1 + 256) 0 0)
          { s with sec := { s.sec with keys := tdel s.sec.keys (cf x 16 1) } }
      else if cSub x = 0x08 then
        let cl := cf x 16 1
        let k := s.classes.getD cl { bounded := false, weight := 0, deadlineUs := 0, credit := 0, lastServed := 0 }
        let k := { k with bounded := cf x 17 1 = 1, weight := if cl = 0 then k.weight else cf x 18 1,
                          deadlineUs := cf x 20 4 }
        let s := { s with classes := s.classes.set cl k }
        if cf x 24 2 = 0 then s else regField (reg .wwy 0 0x130) 41 32 (cf x 24 2) s
      else s
    | _ => s

/-- What charges come to on one ledger. -/
def chargeOn (cs : List (Nat × Rat)) (key : Nat) : Rat := (cs.filter (fun c => c.1 = key)).foldl (fun a c => a + c.2) 0

def takeCharges (cs : List (Nat × Rat)) (s : State) : State :=
  { s with ledgers := s.ledgers.map (fun l => (l.1, l.2 - chargeOn cs l.1)) }

/-- Take what is left of a command's charges off the ledgers (R100). -/
def releaseCharges (x : Cmd) (s : State) : State := takeCharges x.charges s

/-- Work of a command on the resources that `f` picks completes: a share of what is left of its charges there comes off the
ledgers, and a like part off P_res (R100, R416; log entry 108). -/
def workDone (c : Nat) (f : Nat → Bool) (share : Rat) (s : State) : State :=
  match cmdGet s c with
  | none => s
  | some x =>
    let sum := fun (cs : List (Nat × Rat)) => cs.foldl (fun a p => a + p.2) 0
    let off := (x.charges.filter (fun p => f p.1)).map (fun p => (p.1, p.2 * share))
    let left := x.charges.map (fun p => if f p.1 then (p.1, p.2 - p.2 * share) else p)
    if sum x.charges ≤ 0 then s
    else cmdMod c (fun y => { y with charges := left, pres := y.pres * (sum left / sum x.charges) }) (takeCharges off s)

/-- Resource of a ledger key (Table 4.7; `ledgerKey`). -/
def keyRes (k : Nat) : Nat := k / 64

/-- A search that ends in a rerank. -/
def reranks (x : Cmd) : Bool :=
  if cOp x = 0x31 then cf x 52 2 ≠ 0 else if cOp x = 0x30 || cOp x = 0x33 then cf x 64 2 ≠ 0 else false

/-- The resources whose work is over when a stage of Table 10.9 ends. -/
def stageRes (x : Cmd) (n : Nat) : List Nat :=
  match n with
  | 2 => [5]
  | 3 => if reranks x then [] else [3]
  | 4 => [1, 2]
  | 5 => [0, 1, 3, 7]
  | 6 => [0, 4]
  | 7 => [6]
  | _ => []

/-- A stage of a command ends: its end is noted, and the work that it ends comes off the ledgers (R100, R269). -/
def endStage (c n : Nat) (s : State) : State :=
  let rs := ((cmdGet s c).map (fun x => stageRes x n)).getD []
  workDone c (fun k => keyRes k ∈ rs) 1 (noteStage c n s)

/-- Cause of a bounded miss (Table 17.5), from 5 down to 0. -/
def missCause (x : Cmd) : Nat :=
  if x.ringWait then 5 else if x.floorMiss then 4 else if x.tableWait then 3 else if x.fabricLate then 2
  else if x.lateXlat then 1 else 0

/-- Count a miss of cause `n` in CHN_MISS. -/
def countMiss (n : Nat) (s : State) : State :=
  match n with
  | 0 => bumpSat (reg .chn 0 0x120) 48 16 1 s
  | 1 => bumpSat (reg .chn 0 0x120) 32 16 1 s
  | 2 => bumpSat (reg .chn 0 0x120) 24 8 1 s
  | 3 => bumpSat (reg .chn 0 0x120) 16 8 1 s
  | 4 => bumpSat (reg .chn 0 0x120) 8 8 1 s
  | _ => bumpSat (reg .chn 0 0x120) 0 8 1 s

/-- The first stage whose end exceeded the plan, by the codes of Table 10.9 (R269); the last when none did before it. -/
def missStage (x : Cmd) : Nat :=
  (([1, 2, 3, 4, 5, 6, 7].find? (fun n => (tget x.ends n).any (fun t => t > x.arrival + Config.stagePlan (cOp x) n x.planned)))).getD 7

/-- A late completion: BOUND_MISSED and its cause for a bounded command, the unbounded count otherwise (R269, R436). -/
def reportMiss (x : Cmd) (s : State) : State :=
  if !isLate s x then s
  else if !x.bounded || noAdmission x then bumpSat (reg .sld x.home 0x148) 0 32 1 s
  else
    let cause := missCause x
    let s := countMiss cause (bumpSat (reg .sld x.home 0x148) 32 32 1 s)
    let stage := missStage x
    let i0 := x.queue + cTag x * 2 ^ 16
    let i2 := stage + b2n x.floorMiss * 2 ^ 8 + b2n x.ringWait * 2 ^ 9
    let s := blkFault (blkPage .sld x.home) 4 0 (BitVec.ofNat 64 i0) s
    let ev := { mkEv 0x00A1 1 .sld x.home (domOf s x) 0 i0 (x.deadlineUs + (residency s x / 1000) * 2 ^ 32) i2
                with queue := x.queue, tag := cTag x }
    raiseAs .sld ev (fun e => { e with sev := if cause = 0 then 2 else e.sev, i2 := BitVec.ofNat 64 (i2 + cause * 2 ^ 12) }) s

/-- A command has completed: versions of tables that a swap replaced are freed once the last command that runs under them has
(R237). -/
def releaseVersions (c : Nat) (s : State) : State :=
  let rest := fun (t : Tbl) =>
    { t with earlier := (t.earlier.map (fun e => { e with users := e.users.filter (· ≠ c) })).filter (fun e => e.users ≠ []) }
  { s with tables := s.tables.map (fun p => if p.2.earlier = [] then p else (p.1, rest p.2)) }

/-- What follows a completion record: horizon, effects, holds, charges and slot, then the events that report the
command's outcome (R51, R74, R80, R93). -/
def afterRecord (x : Cmd) (s : State) : State :=
  let s := if x.journaled then { s with bag := { s.bag with postedSeq := max s.bag.postedSeq x.jseq } } else s
  let s := match journalColl x with
    | some h => if x.journaled then collMod h (fun c => { c with posted := max c.posted x.jseq }) s else s
    | none => s
  let s := reportMiss x s
  let s := postEffect x s
  let s := releaseVersions x.id (releaseCharges x (releaseHolds x s))
  let s := raiseHorizons { s with cmds := s.cmds.filter (fun y => y.id ≠ x.id) }
  drainAll (x.after.foldl (fun s ev => raise (blkOfType ev.block) ev s) s)

/-- Addresses of a search's result headers. -/
def headerAddrs (x : Cmd) : List Nat :=
  match cOp x with
  | 0x33 => (List.range (cf x 72 2)).map (fun b => cf x 24 8 + b * ((64 + 16 * cf x 56 4 + 63) / 64 * 64))
  | _ => [cf x 24 8]

/-- DEADLINE_MISSED in the result headers of a search whose record is late (R109). -/
def markLate (x : Cmd) (s : State) : Res Unit :=
  if isSearch x && succeeded x && isLate s x then
    (headerAddrs x).foldl (fun r a => andThen r (fun _ s =>
      andThen (readDev (whoOf s x) (a + 16) 16 s) (fun h s =>
        writeDev (whoOf s x) (a + 16)
          (h.bytes.set 14 (BitVec.ofNat 8 ((h.bytes.getD 14 0).toNat ||| 4))) s))) (.ok () s)
  else .ok () s

/-- The same in the response data area of a remote command: byte 30 of its header. -/
def markRemote (s : State) (x : Cmd) : Cmd :=
  if isSearch x && succeeded x && isLate s x then
    (headerAddrs x).foldl (fun y a =>
      match remoteOff a 64 (2 ^ 20) with
      | none => y
      | some o =>
        let old := ((y.dataOut.reverse.find? (fun p => p.1 = o + 30)).map Prod.snd).getD 0
        { y with dataOut := y.dataOut ++ [(o + 30, old ||| 4)] }) x
  else x

/-- Another finished command of the ring stands before `x` in posting order. -/
def standsBehind (s : State) (x : Cmd) : Bool :=
  s.cmds.any (fun y => y.id ≠ x.id && y.turn ≠ 0 && y.phase = .finished && y.sub.isNone && ringOf s y = ringOf s x
    && (x.turn = 0 || y.turn < x.turn))

/-- The record of `x` has fallen due and cannot be written: it keeps its place in posting order (R81, R82). -/
def takeTurn (x : Cmd) (s : State) : State :=
  if x.turn ≠ 0 then s
  else cmdMod x.id (fun y => { y with turn := 1 + s.cmds.foldl (fun m z => max m z.turn) 0 }) s

/-- Post the record of finished command `x`: on its ring once the ring has room and earlier journal numbers have posted, in
posting order, or to the requester of a fabric-facing queue (R80, R81, R397, R399). -/
def postRecord (x : Cmd) (s : State) : State :=
  if x.phase ≠ .finished || x.sub.isSome || !journalTurn s x then s
  else
    let q := tget s.queues x.queue
    if (q.map Queue.fabric).getD false then
      let peer := x.remote.getD 0
      if (tget s.cst.peers peer).any (fun p => p.state = 2) then
        afterRecord x (sendMsg peer 4 x.bounded (BitVec.ofNat 64 x.queue) (cplBytes s x false ++ responseArea (markRemote s x)) s)
      else s
    else
      let n := ringOf s x
      match tget s.rings n with
      | none => s
      | some r =>
        if !r.enabled || r.faulted || r.zeroing || (n = 0 && !s.reports.isEmpty) || standsBehind s x then takeTurn x s
        else if ringUnread r + 1 ≥ 2 ^ r.sizeLog2 then takeTurn x (cmdMod x.id (fun y => { y with ringWait := true }) s)
        else
          match markLate x s with
          | .wait s => takeTurn x s
          | .fail _ _ s | .ok _ s =>
            match writeRecord (.cq n) r (cplBytes s x) s with
            | .wait s => takeTurn x s
            | .fault st va s => drainAll (ringFault (.cq n) r st va (takeTurn x s))
            | .done s => afterRecord x s

end Sys2Proof.Machine
end

