-- ==== Sys2Proof/Machine/Slide.lean ====
section
/-! DEFINITION. Slide: slot rings and their reservation (R246 to R262), transfers (R247 to R259), block lists (R250 to
R252) and the stream watchdog (R266 to R268). The bytes a command consumes are read by the command's own rows; rings,
tags and buckets decide only when they move, which changes no result (R20, R259). -/

namespace Sys2Proof.Machine

def sldPage (n : Nat) : Nat := blkPage .sld n

/-! ## Ports, charges and direct transfers (R248, R254, R260) -/

/-- Target ports of an engine: host 0, stack n 1 + n, bulk channel n 13 + n, Windchest 77, Bag 78 (the model's own
numbers, log entry 30). -/
def portHost : Nat := 0
def portStack (n : Nat) : Nat := 1 + n
def portChest : Nat := 77
def portBag : Nat := 78

/-- 64-byte granules touched by `n` bytes at `a`. -/
def granules (a n : Nat) : Nat := if n = 0 then 0 else (a + n - 1) / 64 - a / 64 + 1

/-- Charged bytes of a transfer (Table 10.4). -/
def charge (port a n : Nat) (write : Bool) : Nat :=
  if port = portHost then max 256 (64 * granules a n)
  else if port = portBag then 16384 * ((a + n - 1) / 16384 - a / 16384 + 1)
  else
    let inPart := if write ∧ port ≠ portChest then
        (if a % 64 ≠ 0 then 1 else 0) + (if (a + n) % 64 ≠ 0 ∧ (a / 64 ≠ (a + n) / 64 ∨ a % 64 = 0) then 1 else 0) else 0
    64 * granules a n + 64 * inPart

/-- The max payload size that the host has set (Table 3.1; log entry 93). -/
def maxPayload : Nat := 128 * 2 ^ (Config.payloadCode.toNat % 3)

/-- The largest transfer from `a` on a port: Table 10.2, and no host transfer across a 4 KiB boundary (R248). -/
def largest (port a : Nat) (write : Bool) : Nat :=
  if port = portHost then (if write then min maxPayload (4096 - a % 4096) else 4096 - a % 4096) else if port = portBag then 16384 else if port = portChest then 4096 else 2048

/-- Charged bytes of a range of host memory read or written: each 4 KiB piece is a transfer (R254). -/
def hostCharge (write : Bool) : Nat → Nat → Nat → Nat
  | 0, _, _ => 0
  | fuel + 1, a, n =>
    if n = 0 then 0
    else
      let m := min n (largest portHost a write)
      charge portHost a m write + hostCharge write fuel (a + m) (n - m)

/-- Charged bytes of `n` bytes read from host address `a`. -/
def readCharge (a n : Nat) : Nat := hostCharge false (n / 4096 + 2) a n

/-- Charged bytes of `n` bytes written to host address `a`. -/
def writeCharge (a n : Nat) : Nat := hostCharge true (n / maxPayload + 2) a n

/-- An engine's buckets; full at reset. -/
def engineOf (s : State) (e : Nat) : Engine :=
  (tget s.engines e).getD { unbTokens := 256 * 10240, mntTokens := 256 * 10240, unbAt := 0, mntAt := 0, charges := [] }

def setEngine (e : Nat) (g : Engine) (s : State) : State := { s with engines := tset s.engines e g }

/-- SLD_REG_UNB's rate is unlimited (R257). -/
def unbFree (s : State) (e : Nat) : Bool := bits (regGet s (reg .sld e 0x118)).toNat 15 0 = 0xFFFF

/-- Engine `e` charges `ch` bytes of a transfer of `n` bytes on a port to a stream class: 0 BND, 1 UNB, 2 MNT (R254, R257).
An unlimited bucket stays as it is. Only the charges of the last 100 µs are kept (R259). -/
def chargeEngine (e port cls n ch : Nat) (s : State) : State :=
  let g := engineOf s e
  let g := { g with
    unbTokens := if cls = 1 && !unbFree s e then g.unbTokens - 10 * ch else g.unbTokens
    mntTokens := if cls = 2 then g.mntTokens - 10 * ch else g.mntTokens
    charges := g.charges.filter (fun c => s.now < c.time + 100000) ++ [{ time := s.now, port := port, mnt := cls = 2, bytes := ch }] }
  bumpWrap (reg .sld e 0x128) 0 64 n (bumpWrap (reg .sld e 0x130) 0 64 ch (setEngine e g s))

/-- A direct transfer of `n` bytes from host address `va` for a command, charged on its home engine (R254, R260). -/
def chargeDirect (x : Cmd) (va n : Nat) (s : State) : State :=
  if n = 0 then s else chargeEngine x.home portHost (if x.bounded then 0 else 1) n (readCharge va n) s

/-- A direct transfer to host address `va`. -/
def chargeOut (x : Cmd) (va n : Nat) (s : State) : State :=
  if n = 0 then s else chargeEngine x.home portHost (if x.bounded then 0 else 1) n (writeCharge va n) s

/-- Read a direct input of a command: poison fails it with POISONED_INPUT in the SLD page of its home cluster (R271). -/
def readBuf (x : Cmd) (va n : Nat) (s : State) : Res (List Byte) :=
  andThen (readClean (whoOf s x) (sldPage x.home) 2 va n s) (fun bs s => .ok bs (chargeDirect x va n s))

/-- Write a direct output of a command. -/
def writeBuf (x : Cmd) (va : Nat) (bs : List Byte) (s : State) : Res Unit :=
  andThen (writeDev (whoOf s x) va bs s) (fun _ s => .ok () (chargeOut x va bs.length s))

/-! ## Block lists -/

/-- An entry of a block list (Table 10.3). -/
structure BlkEntry where
  addr  : Nat
  len   : Nat
  last  : Bool
  link  : Bool
  zero  : Bool
  resOk : Bool

def blkEntry (bs : List Byte) (i : Nat) : BlkEntry :=
  let f := fld bs (16 * i + 9) 1
  { addr := fld bs (16 * i) 6, len := fld bs (16 * i + 6) 3, last := bit f 0, link := bit f 1, zero := bit f 2,
    resOk := f < 8 && fld bs (16 * i + 10) 6 = 0 }

/-- The entry is valid where it stands in walk `w`; `endsSegment` says that it is the last of a LINK segment (R251). -/
def blkEntryOk (w : ListWalk) (e : BlkEntry) (endsSegment : Bool) : Bool :=
  e.len ≠ 0 && !(e.link && (e.last || e.zero)) && !(e.zero && e.addr ≠ 0)
    && !(e.link && (e.addr % 16 ≠ 0 || e.len % 16 ≠ 0 || e.len > 65536))
    && e.addr + e.len ≤ 2 ^ 48 && e.resOk
    && (if e.link then w.links < 64
        else w.datas.length < 65536 && w.total + e.len ≤ w.want && (!e.last || w.total + e.len = w.want))
    && (!endsSegment || e.last || e.link)

/-- Walk the entries of a piece; the address of the first offending entry otherwise. -/
def listPiece (bs : List Byte) : Nat → Nat → ListWalk → Nat ⊕ ListWalk
  | 0, _, w => .inr w
  | fuel + 1, i, w =>
    if w.done || w.left = some 0 then .inr w
    else
      let e := blkEntry bs i
      if !blkEntryOk w e (w.left = some 1) then .inl w.next
      else if e.link then .inr { w with next := e.addr, left := some (e.len / 16), links := w.links + 1 }
      else
        listPiece bs fuel (i + 1)
          { w with next := w.next + 16, left := w.left.map (· - 1), total := w.total + e.len, done := e.last,
                   datas := w.datas ++ [{ addr := e.addr, len := e.len, zero := e.zero }] }

/-- A walk that starts at the list's address and expects `want` bytes. -/
def listStart (addr want : Nat) : ListWalk :=
  { next := addr, left := none, datas := [], links := 0, total := 0, want := want, done := false }

/-- The next piece: at most 16 entries, and no entry beyond the segment's stated size. -/
def pieceEntries (w : ListWalk) : Nat :=
  match w.left with
  | none => 16
  | some n => min 16 n

/-- A piece of a block list arrives; it is charged as a host read of the command's class (R252, R254). -/
def listArrive (x : Cmd) (w : ListWalk) (s : State) : Res ListWalk :=
  andThen (readDev (whoOf s x) w.next (16 * pieceEntries w) s) (fun r s =>
    let s := chargeDirect x w.next (16 * pieceEntries w) s
    match r.poison with
    | some a => .fail stPoisoned (some (devFault (sldPage x.home) 2 a 0)) s
    | none =>
      match listPiece r.bytes (pieceEntries w) 0 w with
      | .inl a => .fail stBadField (some (devFault (sldPage x.home) 0 a 0)) s
      | .inr w => .ok w s)

/-- The pages that a piece's new entries touch are translated ahead, at most 64 of them (R368). -/
def prefetchPiece (x : Cmd) (write : Bool) (old new : ListWalk) (s : State) : State :=
  ((new.datas.drop old.datas.length).take 64).foldl (fun s d => if d.zero then s else prefetchRange (whoOf s x) write 64 d.addr d.len s) s

/-- The data of a command's first list is written by EXPORT alone. -/
def listWritten (x : Cmd) : Bool := cOp x = 0x53

/-- BLOCK_LIST_PIECE_ARRIVAL (R250 to R252): the next piece of the first list of the command that is not wholly read. Its
entries go to Crook for translation ahead. -/
def listPieceRow (c : Nat) (s : State) : State :=
  match cmdGet s c with
  | none => s
  | some x =>
    if x.phase ≠ .executing then s
    else
      match x.list, x.list2 with
      | some w, l2 =>
        if !w.done then
          settle c (andThen (listArrive x w s) (fun n s => .ok (prefetchPiece x (listWritten x) w n (cmdMod c (fun x => { x with list := some n }) s)) s))
        else
          match l2 with
          | some v =>
            if v.done then s
            else settle c (andThen (listArrive x v s) (fun n s => .ok (prefetchPiece x true v n (cmdMod c (fun x => { x with list2 := some n }) s)) s))
          | none => s
      | none, _ => s

def execBlockListPieceArrival (c : Nat) (s : State) : Host.Outcome State Fault Refusal :=
  .next (drainAll (listPieceRow c s))

/-- The pieces of list data from byte `off`, `n` bytes: address, length and ZERO of each. -/
def listSpan : List BlkData → Nat → Nat → List BlkData
  | [], _, _ => []
  | d :: t, off, n =>
    if n = 0 then []
    else if off ≥ d.len then listSpan t (off - d.len) n
    else
      let m := min n (d.len - off)
      { d with addr := if d.zero then 0 else d.addr + off, len := m } :: listSpan t 0 (n - m)

/-- Read the spans of a block list. -/
def readSpans (w : Who) : List BlkData → State → Res Rd
  | [], s => .ok { bytes := [], poison := none } s
  | d :: t, s =>
    if d.zero then andThen (readSpans w t s) (fun r s => .ok { r with bytes := List.replicate d.len 0 ++ r.bytes } s)
    else
      andThen (readDev w d.addr d.len s) (fun a s =>
        andThen (readSpans w t s) (fun r s =>
          .ok { bytes := a.bytes ++ r.bytes, poison := match a.poison with
            | some p => some p
            | none => r.poison } s))

/-- Write bytes to the spans of a block list; the bytes of a ZERO entry are discarded. -/
def writeSpans (w : Who) : List BlkData → List Byte → State → Res Unit
  | [], _, s => .ok () s
  | d :: t, bs, s =>
    if d.zero then writeSpans w t (bs.drop d.len) s
    else andThen (writeDev w d.addr (bs.take d.len) s) (fun _ s => writeSpans w t (bs.drop d.len) s)

/-- Check that the spans of a block list can be written. -/
def checkSpans (w : Who) : List BlkData → State → Res Unit
  | [], s => .ok () s
  | d :: t, s =>
    if d.zero then checkSpans w t s else andThen (checkWrite w d.addr d.len s) (fun _ s => checkSpans w t s)

/-- The address of byte `off` of a list's data: within the entry that supplied it (R229). -/
def listAddr (ds : List BlkData) (off : Nat) : Nat :=
  match listSpan ds off 1 with
  | d :: _ => d.addr
  | [] => 0

/-! ## Rings (R246, R255, R261) -/

/-- A ring a command needs: engine, slot unit in bytes, latency of the source in ns, write ring, target port, bytes the
stream will ask for. -/
structure RingNeed where
  engine  : Nat
  unit    : Nat
  latency : Nat
  isWrite : Bool
  port    : Nat
  bytes   : Nat
  /-- the consumer's or producer's declared rate in bytes per event, fixed by the stage's path (R258) -/
  rate    : Nat

/-- The least k with 2^k ≥ n, within 8 to 16. -/
def slotLog2 (n : Nat) : Nat := ((List.range 9).map (· + 8)).find? (fun k => n ≤ 2 ^ k) |>.getD 16

/-- R of R255 in bytes per ns: the lower of 96 GB/s and the consumer's declared rate, at the floor rate of `floor` hundredths
of a G event/s; Bag takes a journal stream at 28 GB/s (Table 4.7; log entry 31). -/
def ringRate (rate floor : Nat) (bag : Bool) : Nat := min (if bag then 28 else 96) (max 1 (rate * floor / 100))

/-- Slots of a ring: ceil(R × Ld / z) + 1 within 3 to 16 (R255). -/
def slotCount (unit latency r : Nat) : Nat :=
  let z := 2 ^ slotLog2 unit
  clampNat 3 16 ((r * latency + z - 1) / z + 1)

/-- KiB of staging in use on an engine. -/
def stagingUsed (s : State) (e : Nat) : Nat :=
  ((s.srings.filter (fun r => r.engine = e)).map (fun r => r.slots * 2 ^ r.slotLog2)).foldl (· + ·) 0

/-- A ring of engine `n.engine` for a command, or for Drone's operation on a collection, or for Bag: the lowest free of `span`
numbers from `lo` on, with fewer slots down to 3 when the staging area is short. -/
def reserveRing (c step : Option Nat) (lo span cls accepted : Nat) (n : RingNeed) (s : State) : Option State :=
  let used := (s.srings.filter (fun r => r.engine = n.engine)).map (·.no)
  let no := leastFree used span lo
  let z := 2 ^ slotLog2 n.unit
  let want := slotCount n.unit n.latency (ringRate n.rate s.blw.floorReg (n.isWrite && n.port = portBag))
  let fit := min want ((8 * 2 ^ 20 - stagingUsed s n.engine) / z)
  if no ≥ lo + span ∨ fit < 3 then none
  else
    let r : SRing :=
      { engine := n.engine, no := no, cls := cls, port := n.port, cmd := c, step := step, slots := fit, slotLog2 := slotLog2 n.unit,
        head := 0, tail := 0, passed := 0, landed := [], flight := [], toAsk := if n.isWrite then 0 else n.bytes, isWrite := n.isWrite,
        rate := n.rate, poisoned := [], accepted := accepted, moved := s.now }
    some { s with srings := s.srings ++ [r] }

/-- Reserve one ring of a command, from 12 to 63 (Table 10.1). -/
def reserveOne (c : Nat) (bounded : Bool) (accepted : Nat) (n : RingNeed) (s : State) : Option State :=
  reserveRing (some c) none 12 52 (if bounded then 0 else 1) accepted n s

/-- Reserve all the rings of a fused command together, or none (R261). -/
def reserveAll (c : Nat) (bounded : Bool) (accepted : Nat) : List RingNeed → State → Option State
  | [], s => some s
  | n :: t, s =>
    match reserveOne c bounded accepted n s with
    | some s => reserveAll c bounded accepted t s
    | none => none

/-- The engine that carries the streams of Drone's operation on a collection, and Bag's rebuilds (log entry 94). -/
def stepEngine (h : Nat) : Nat := h % 32

/-- Drone's operation on collection `h` takes a ring of 4 to 11 in class MNT for its tier-to-tier copies (R246, R256); an engine
with none free leaves it without one. -/
def droneRing (h : Nat) (s : State) : State :=
  match reserveRing none (some h) 4 8 2 s.now
    { engine := stepEngine h, unit := 65536, latency := 500, isWrite := false, port := portStack (h % 12), bytes := 2 ^ 30, rate := 64 } s with
  | some t => t
  | none => s

/-- A rebuild of Bag takes a ring of 0 to 3. -/
def bagRing (ch : Nat) (s : State) : State :=
  match reserveRing none none 0 4 2 s.now
    { engine := stepEngine ch, unit := 16384, latency := 100000, isWrite := false, port := portBag, bytes := 2 ^ 30, rate := 64 } s with
  | some t => t
  | none => s

/-- Drone's operation on collection `h` has ended: its rings are free. -/
def freeStep (h : Nat) (s : State) : State := { s with srings := s.srings.filter (fun r => r.step ≠ some h) }

/-- Drone's operation on a collection ends with no commit. -/
def endRun (h : Nat) (s : State) : State := freeStep h (collMod h (fun c => { c with run := none }) s)

/-- A rebuild of Bag has ended: a ring of the engine that carried it is free. -/
def freeBagRing (ch : Nat) (s : State) : State :=
  { s with srings := s.srings.filter (fun r => !(r.engine = stepEngine ch && r.cmd.isNone && r.step.isNone)) }

/-- Rings in use on an engine: the four of Bag and the eight of Drone do not count until they carry work. -/
def ringsInUse (s : State) (e : Nat) : Nat := (s.srings.filter (fun r => r.engine = e)).length

/-- Note the most rings an engine has had in use (SLD_RINGS peak_used). -/
def notePeak (e : Nat) (s : State) : State :=
  let o := reg .sld e 0x100
  if ringsInUse s e > bits (regGet s o).toNat 23 16 then regField o 23 16 (ringsInUse s e) s else s

/-! ## Transfers (R247 to R249, R254, R257 to R259) -/

def tagsHeld (s : State) (e : Nat) : Nat :=
  ((s.srings.filter (fun r => r.engine = e)).map (fun r => r.flight.length)).foldl (· + ·) 0

/-- Tags held by the classes UNB and MNT together, at most 3,584 of an engine (R249). -/
def tagsUnbounded (s : State) (e : Nat) : Nat :=
  ((s.srings.filter (fun r => r.engine = e ∧ r.cls ≠ 0)).map (fun r => r.flight.length)).foldl (· + ·) 0

/-- Filled slots of a ring that its consumer has not taken. -/
def ringFilled (r : SRing) : Nat := (r.tail + 2 * r.slots - r.head) % (2 * r.slots)

/-- Bytes filled, landing or in flight. -/
def ringAhead (r : SRing) : Nat :=
  ringFilled r * 2 ^ r.slotLog2 + (r.landed.map Prod.snd).foldl (· + ·) 0 + (r.flight.map Prod.fst).foldl (· + ·) 0

/-- Space for further bytes in a read ring. -/
def ringSpace (r : SRing) : Nat := r.slots * 2 ^ r.slotLog2 - ringAhead r

/-- Bytes in filled slots of a write ring that no transfer carries yet. -/
def ringDue (r : SRing) : Nat :=
  ringFilled r * 2 ^ r.slotLog2 - ((r.landed.map Prod.snd).foldl (· + ·) 0 + (r.flight.map Prod.fst).foldl (· + ·) 0)

/-- Bytes of a write ring's free slots. -/
def ringFree (r : SRing) : Nat := (r.slots - ringFilled r) * 2 ^ r.slotLog2

/-- Urgency of a ring in events (R258). -/
def urgency (r : SRing) : Nat := (if r.isWrite then ringFree r else ringAhead r) / max 1 r.rate

/-- A command's block list is not wholly read: its streams on the host wait for a piece (R252, R259). -/
def waitsPiece (s : State) (r : SRing) : Bool :=
  r.port = portHost && (r.cmd.bind (cmdGet s)).any (fun x =>
    let w := if listWritten x = r.isWrite then x.list else if r.isWrite then x.list2 else none
    w.any (fun w => !w.done))

/-- A bucket holds more than zero tokens (R257). -/
def hasTokens (s : State) (e cls : Nat) : Bool :=
  cls = 0 || (if cls = 1 then unbFree s e || (engineOf s e).unbTokens > 0 else (engineOf s e).mntTokens > 0)

/-- The ring may issue now on the port: it has a range to fill or a filled slot to empty, waits for no piece, and its
class has tokens and tags; Bellows throttles the classes UNB and MNT while the cap asks for it (R415). -/
def canIssue (s : State) (e port : Nat) (r : SRing) : Bool :=
  r.engine = e && r.port = port && !waitsPiece s r
    && (if r.isWrite then ringDue r > 0 else r.toAsk > 0 && ringSpace r > 0)
    && (r.cls = 0 || (hasTokens s e r.cls && tagsUnbounded s e < 3584 && !s.blw.throttle))

/-- Stride of a graph node (R143). -/
def nodeStride (c : Coll) : Nat := (32 + c.codeBits / 8 + 12 * c.degree + 31) / 32 * 32

/-! ### Tags of a target (Table 10.2, R249, R334) -/

/-- Transfers in flight on a port, with their classes. -/
def portFlights (s : State) (port : Nat) : List (Nat × Nat × Nat) :=
  s.srings.flatMap (fun r => if r.port = port then r.flight.map (fun f => (r.cls, f.1, f.2)) else [])

/-- The node reads that walks wait for on stack `n`: bytes and address of each, with 0 for a bounded search (R143, R249). -/
def walkFlights (s : State) (n : Nat) : List (Nat × Nat × Nat) :=
  s.cmds.flatMap (fun x =>
    match x.work with
    | .search sr =>
      match sr.walk with
      | some w =>
        (w.waiting.filter (fun v => v % 12 = n)).map (fun v =>
          (if x.bounded then 0 else 1, nodeStride sr.coll, v / 12 * nodeStride sr.coll))
      | none => []
    | _ => [])

/-- All reads and writes under way at a stack's port. -/
def stackFlights (s : State) (n : Nat) : List (Nat × Nat × Nat) := portFlights s (portStack n) ++ walkFlights s n

/-- 64-byte bursts of transfers; with `unb`, of the classes other than BND alone. -/
def burstsOf (unb : Bool) (fs : List (Nat × Nat × Nat)) : Nat :=
  ((fs.filter (fun f => !unb || f.1 ≠ 0)).map (fun f => granules f.2.2 f.2.1)).foldl (· + ·) 0

/-- Pseudo-channel of byte `a` of a stack (R334). -/
def pseudoChannel (a : Nat) : Nat := a / 256 % 64

/-- Bursts of a transfer of `n` bytes at `a` on pseudo-channel `p`. -/
def burstsOn (p a n : Nat) : Nat :=
  ((List.range (granules a n)).filter (fun i => pseudoChannel ((a / 64 + i) * 64) = p)).length

/-- Every pseudo-channel that a transfer touches has read tags for it, 256 each (R334). -/
def pseudoRoom (fs : List (Nat × Nat × Nat)) (a n : Nat) : Bool :=
  (List.range 64).all (fun p => burstsOn p a n = 0 ||
    (fs.map (fun f => burstsOn p f.2.2 f.2.1)).foldl (· + ·) 0 + burstsOn p a n ≤ 256)

/-- The target has tags for a further transfer of `n` bytes at `a` of a class: 4,096 of the host port, 16,384 of a stack port
and 256 of each pseudo-channel, 1,024 of a bulk channel; the classes other than BND hold at most 12,288 and 768 of them. -/
def targetRoom (s : State) (port cls a n : Nat) : Bool :=
  let g := granules a n
  if port = portHost then (portFlights s port).length < 4096
  else if port < portStack 12 then
    let fs := stackFlights s (port - portStack 0)
    burstsOf false fs + g ≤ 16384 && (cls = 0 || burstsOf true fs + g ≤ 12288) && pseudoRoom fs a n
  else if port < portChest then
    let fs := portFlights s port
    burstsOf false fs + g ≤ 1024 && (cls = 0 || burstsOf true fs + g ≤ 768)
  else true

/-! ### The choice of a ring (R259) -/

/-- A ring with the class that its command runs at now (R104). -/
def ringNow (s : State) (r : SRing) : SRing :=
  if r.cls = 1 && (r.cmd.bind (cmdGet s)).any (lifted s) then { r with cls := 0 } else r

/-- The bytes that an engine has charged on a port over the last 100 µs, all or of MNT alone. -/
def chargedOn (s : State) (e port : Nat) (mnt : Bool) : Nat :=
  (((engineOf s e).charges.filter (fun c => c.port = port && s.now < c.time + 100000 && (!mnt || c.mnt))).map Charge.bytes).foldl (· + ·) 0

/-- MNT is behind its share on the port (R259, DRN_SHARE min_pm). -/
def mntBehind (s : State) (e port : Nat) : Bool :=
  s.srings.any (fun r => r.engine = e && r.port = port && r.cls = 2)
    && chargedOn s e port true * 1000 < bits (regGet s (reg .drn 0 0x100)).toNat 7 0 * chargedOn s e port false

/-- The ring carries Drone's work on a collection whose side list has reached 15,728,640 places: it goes ahead of unbounded
work (R286). -/
def stepHigh (s : State) (r : SRing) : Bool := (r.step.bind (tget s.colls)).any Coll.sideHigh

/-- Rank of a ring's class for a port: bounded work, then MNT while it is behind, then unbounded work, then MNT. -/
def clsRank (behind : Bool) (cls : Nat) : Nat :=
  if cls = 0 then 0 else if cls = 2 then (if behind then 1 else 3) else 2

/-- `a` is picked before `b`: class, urgency, commit acceptance, ring number. -/
def pickBefore (ahead : SRing → Bool) (a b : SRing) : Bool :=
  let ka := (clsRank (ahead a) a.cls, urgency a, a.accepted, a.no)
  let kb := (clsRank (ahead b) b.cls, urgency b, b.accepted, b.no)
  ka.1 < kb.1 || (ka.1 = kb.1 && (ka.2.1 < kb.2.1 || (ka.2.1 = kb.2.1 && (ka.2.2.1 < kb.2.2.1
    || (ka.2.2.1 = kb.2.2.1 && ka.2.2.2 < kb.2.2.2)))))

/-- Change ring `no` of engine `e`. -/
def sringMod (e no : Nat) (f : SRing → SRing) (s : State) : State :=
  { s with srings := s.srings.map (fun r => if r.engine = e ∧ r.no = no then f r else r) }

/-- A stream passes the middle of the page it stands in: the next page of its buffer is translated ahead (R368). -/
def prefetchNext (s0 : State) (r : SRing) (addr b : Nat) (s : State) : State :=
  let mid := addr / pageSize * pageSize + pageSize / 2
  match r.port = portHost && addr < mid && mid ≤ addr + b && (if r.isWrite then true else r.toAsk > b), r.cmd.bind (cmdGet s0) with
  | true, some x => prefetch (whoOf s x) (addr / pageSize * pageSize + pageSize) r.isWrite s
  | _, _ => s

/-- SLIDE_ISSUE (R259): one issue decision of engine `e` for a port; `addr` is where the picked ring's stream stands and
`n` the bytes it asks for next. -/
def slideIssue (e port addr n : Nat) (s : State) : State :=
  let e := e % 32
  if tagsHeld s e ≥ 4096 then s
  else
    let behind := mntBehind s e port
    match sortBy (pickBefore (fun r => behind || stepHigh s r)) ((s.srings.map (ringNow s)).filter (canIssue s e port)) with
    | [] => s
    | r :: _ =>
      let most := if r.isWrite then ringDue r else min r.toAsk (ringSpace r)
      let b := min (min n most) (largest port addr r.isWrite)
      if b = 0 || !targetRoom s port r.cls addr b then s
      else
        let t := chargeEngine e port r.cls b (charge port addr b r.isWrite)
          (sringMod e r.no (fun r => { r with flight := r.flight ++ [(b, addr)], toAsk := if r.isWrite then r.toAsk else r.toAsk - b }) s)
        let held := tagsHeld t e
        let o := reg .sld e 0x110
        prefetchNext s r addr b (if held > bits (regGet t o).toNat 47 32 then regField o 47 32 held t else t)

def execSlideIssue (engine port addr bytes : Nat) (s : State) : Host.Outcome State Fault Refusal :=
  .next (slideIssue engine port addr bytes s)

/-- Tail advances over filled slots in slot order (R247). -/
def advanceTail : Nat → SRing → SRing
  | 0, r => r
  | fuel + 1, r =>
    let slot := r.tail % r.slots
    let have_ := (tget r.landed slot).getD 0
    if have_ ≥ 2 ^ r.slotLog2 ∨ (have_ > 0 ∧ r.toAsk = 0 ∧ r.flight = []) then
      advanceTail fuel { r with tail := (r.tail + 1) % (2 * r.slots), landed := tdel r.landed slot }
    else r

/-- Stream offset at which the bytes of slot `k` begin: it is the next such slot from head on. -/
def slotOffset (r : SRing) (k : Nat) : Nat := (r.passed + (k + r.slots - r.head % r.slots) % r.slots) * 2 ^ r.slotLog2

/-- `n` bytes of a transfer land in slot `k`; what the slot cannot hold lands in the next one (R248). -/
def landIn (k n : Nat) (poison : Bool) (r : SRing) : SRing :=
  let z := 2 ^ r.slotLog2
  let put := fun (k n : Nat) (r : SRing) =>
    if n = 0 then r
    else { r with landed := tset r.landed k ((tget r.landed k).getD 0 + n),
                  poisoned := if poison && r.poisoned.all (fun p => p.1 ≠ k) then r.poisoned ++ [(k, slotOffset r k)] else r.poisoned }
  let here := min n (z - (tget r.landed k).getD 0)
  put ((k + 1) % r.slots) (n - here) (put k here r)

/-- Head of a write ring advances over the slots that the target has accepted in full; the bytes accepted from the slot at head
on stand under number 0 of `landed`. -/
def emptySlots (now : Nat) : Nat → SRing → SRing
  | 0, r => r
  | fuel + 1, r =>
    let z := 2 ^ r.slotLog2
    let got := (tget r.landed 0).getD 0
    if got ≥ z ∧ ringFilled r > 0 then
      emptySlots now fuel { r with head := (r.head + 1) % (2 * r.slots), passed := r.passed + 1, landed := tset r.landed 0 (got - z), moved := now }
    else r

/-- TRANSFER_LANDED (R247, R271): the data of a transfer of ring `no` has landed in a slot, poison and all, or the target
has accepted a write, which empties the slot at head; its tag is free. -/
def transferLanded (e no slot n : Nat) (poison : Bool) (s : State) : State :=
  sringMod (e % 32) no (fun r =>
    match r.flight.find? (fun f => f.1 = n), r.slots with
    | none, _ | _, 0 => r
    | some f, _ =>
      let r := { r with flight := r.flight.erase f }
      if r.isWrite then emptySlots s.now r.slots { r with landed := tset r.landed 0 ((tget r.landed 0).getD 0 + n) }
      else
        let q := advanceTail r.slots (landIn (slot % r.slots) n poison r)
        { q with moved := if q.tail = r.tail then r.moved else s.now }) s

def execTransferLanded (engine ring slot bytes : Nat) (poison : Bool) (s : State) : Host.Outcome State Fault Refusal :=
  .next (transferLanded engine ring slot bytes poison s)

/-- A read ring's consumer takes every filled slot; their poison marks go with them. -/
def takeSlots (now : Nat) (r : SRing) : SRing :=
  if r.isWrite || r.head = r.tail then r
  else
    let n := ringFilled r
    let taken := (List.range n).map (fun i => (r.head + i) % r.slots)
    { r with head := r.tail, passed := r.passed + n, poisoned := r.poisoned.filter (fun p => p.1 ∉ taken), moved := now }

/-- The consumers of a command's rings take every filled slot; each that finds its ring empty counts a wait (SLD_STALLS). -/
def consumeRings (c : Nat) (s : State) : State :=
  let dry := s.srings.filter (fun r => r.cmd = some c && !r.isWrite && r.head = r.tail && (r.toAsk ≠ 0 || r.flight ≠ []))
  let t := dry.foldl (fun s r => bumpSat (reg .sld r.engine 0x138) 32 32 1 s) s
  { t with srings := t.srings.map (fun r => if r.cmd = some c then takeSlots s.now r else r) }

/-- `n` bytes join a write ring: tail advances over the slots they fill, as far as slots are free. -/
def fillSlots (now n : Nat) (r : SRing) : SRing :=
  let z := 2 ^ r.slotLog2
  let k := min (r.slots - ringFilled r) ((r.toAsk + n) / z)
  { r with tail := (r.tail + k) % (2 * max 1 r.slots), toAsk := r.toAsk + n - k * z, moved := if k = 0 then r.moved else now }

/-- A command's stage produces `n` bytes into its write rings on a port (R260); a ring that cannot take them all counts a wait of
its producer (SLD_STALLS). -/
def produce (c port n : Nat) (s : State) : State :=
  let mine := fun (r : SRing) => r.cmd = some c && r.isWrite && r.port = port
  let tight := s.srings.filter (fun r => mine r && (r.slots - ringFilled r) * 2 ^ r.slotLog2 < r.toAsk + n)
  let t := tight.foldl (fun s r => bumpSat (reg .sld r.engine 0x138) 0 32 1 s) s
  { t with srings := t.srings.map (fun r => if mine r then fillSlots s.now n r else r) }

/-- The transfers of a ring in flight are issued again by the engine that takes it over (R270). -/
def ringReissue (r : SRing) : SRing :=
  { r with flight := [], toAsk := if r.isWrite then r.toAsk else r.toAsk + (r.flight.map Prod.fst).foldl (· + ·) 0 }

/-- A read ring restarts from its head slot: what has been consumed stays so, and every later slot is fetched again, each counted
whole (R270). -/
def ringRestart (r : SRing) : SRing :=
  if r.isWrite then ringReissue r
  else
    { r with tail := r.head, landed := [], flight := [], poisoned := [],
             toAsk := r.toAsk + ringFilled r * 2 ^ r.slotLog2 + (r.landed.map Prod.snd).foldl (· + ·) 0
               + (r.flight.map Prod.fst).foldl (· + ·) 0 }

/-- Change the rings that `f` picks. -/
def ringsMod (f : SRing → Bool) (g : SRing → SRing) (s : State) : State :=
  { s with srings := s.srings.map (fun r => if f r then g r else r) }

/-- The last drain of a command's encode: the rings of its program steps, and its source ring, are free (R261). -/
def freeStage (c : Nat) (s : State) : State :=
  { s with srings := s.srings.filter (fun r => !(r.cmd = some c && (r.port = portChest || (!r.isWrite && r.port = portHost)))) }

/-! ## Buckets (R257, R284) -/

/-- Tokens of a bucket after a fill: rate × elapsed time, in tenths of a byte, up to its burst. -/
def bucketGain (rate elapsed : Nat) (burst tokens : Int) : Int := min burst (tokens + (rate * elapsed : Nat))

/-- SLIDE_BUCKET_FILL (R257): the bucket gains rate × the time since its last fill, up to its burst: the ticks since then and the
`ns` that have passed without one (log entry 158). An unlimited rate keeps the UNB bucket full; a rate of 0 is taken as 1 there; the
MNT bucket follows the rate that Drone set. -/
def slideBucketFill (e : Nat) (mnt : Bool) (ns : Nat) (s : State) : State :=
  let e := e % 32
  let r := (regGet s (reg .sld e (if mnt then 0x120 else 0x118))).toNat
  let burst : Int := (max 16 (bits r 47 32) * 10240 : Nat)
  let g := engineOf s e
  setEngine e (if mnt then { g with mntTokens := bucketGain (bits r 15 0) (s.now - g.mntAt + ns) burst g.mntTokens, mntAt := s.now }
    else { g with unbTokens := if unbFree s e then burst else bucketGain (max 1 (bits r 15 0)) (s.now - g.unbAt + ns) burst g.unbTokens,
                  unbAt := s.now }) s

def execSlideBucketFill (engine : Nat) (maintenance : Bool) (ns : Nat) (s : State) : Host.Outcome State Fault Refusal :=
  .next (slideBucketFill engine maintenance ns s)

/-- Drone sets each engine's MNT bucket to its share of 96 GB/s with a burst of 256 KiB (R284); `pm` is per mille. -/
def setMntRates (pm : Nat) (s : State) : State :=
  (List.range 32).foldl (fun s e => regField (reg .sld e 0x120) 47 32 256 (regField (reg .sld e 0x120) 15 0 (960 * pm / 1000) s)) s

/-! ## Stream watchdog (R266 to R268) -/

/-- The ring of engine and number. -/
def sringOf (s : State) (p : Nat × Nat) : Option SRing := s.srings.find? (fun r => r.engine = p.1 ∧ r.no = p.2)

/-- A command that the watchdog may choose: no single-entry mutating command that has written its journal record. -/
def mayChoose (x : Cmd) : Bool := !(x.jseq ≠ 0 && (cOp x = 0x20 || cOp x = 0x22 || cOp x = 0x23 || cOp x = 0x25))

/-- The program versions that a command's encodes run in chain mode. -/
def chainsOf (s : State) (x : Cmd) : List Nat :=
  (tget s.colls (cColl x)).elim [] (fun c =>
    [c.encVersion, c.encNext].filter (fun v => (tget s.progs v).any (fun p => bit (fld p.image 5 1) 0)))

/-- Stream `r` of one unit of work waits by a declared dependency on a ring position of stream `t` of another (R266): a batch in
chain mode on an earlier one's slice ring; Drone on the journal and side-list rings of the mutations of its collection; and
IMPORT, EXPORT and re-encoding on Bag page reads of other work. -/
def waitsOn (s : State) (r t : SRing) : Bool :=
  let x := r.cmd.bind (cmdGet s)
  let y := t.cmd.bind (cmdGet s)
  !(r.cmd = t.cmd && r.step = t.step) && x.all mayChoose
    && ((match x, y with
          | some x, some y => r.engine = t.engine && r.port = portChest && t.port = portChest && t.accepted < r.accepted
              && (chainsOf s x).any (fun v => v ∈ chainsOf s y)
          | _, _ => false)
        || (r.step.isSome && t.isWrite && y.any (fun y => entryMutation y && some (cColl y) = r.step))
        || (r.port = portBag && t.port = portBag && !t.isWrite
            && (x.any (fun x => cOp x = 0x53 || cOp x = 0x54)
                || (r.step.bind (tget s.colls)).any (fun c => c.run.any (fun o => o.op = .reencodeStep)))))

/-- The named rings form a cycle of wait-for edges in which nothing has moved for 50 µs (R267). -/
def isDeadlock (s : State) (ps : List (Nat × Nat)) : Bool :=
  ps ≠ [] && (List.range ps.length).all (fun i =>
    match sringOf s (ps.getD i (0, 0)), sringOf s (ps.getD ((i + 1) % ps.length) (0, 0)) with
    | some r, some t => waitsOn s r t && s.now ≥ r.moved + 50000
    | _, _ => false)

/-- The youngest member command, the one accepted last. -/
def youngest (s : State) (rs : List SRing) : Option Cmd :=
  (rs.filterMap (fun r => r.cmd.bind (cmdGet s))).foldl (fun b x =>
    if !mayChoose x then b
    else match b with
      | none => some x
      | some y => if x.id > y.id then some x else b) none

/-- The Windchest address of a ring's head slot in the form of R182; where in its bank a ring's slots lie is the module's
own (log entry 32). -/
def ringSlotAddr (r : SRing) (k : Nat) : Nat :=
  r.engine / 8 * 2 ^ 30 + r.engine % 8 * 2 ^ 26 + r.no * 2 ^ 20 + k % r.slots * 2 ^ r.slotLog2

def ringHeadAddr (r : SRing) : Nat := ringSlotAddr r r.head

/-! ## Poison that travelled with a stream (R211, R271) -/

/-- Windchest address of a poisoned slot in a read ring of a command on a tier, Windchest or Bag. -/
def streamPoison (c : Nat) (s : State) : Option Nat :=
  s.srings.findSome? (fun r =>
    if r.cmd = some c ∧ !r.isWrite ∧ r.port ≠ portHost then r.poisoned.head?.map (fun p => ringSlotAddr r p.1) else none)

/-- Stream offsets from which host data of a command has landed with poison (R271). -/
def hostMarks (c : Nat) (s : State) : List Nat :=
  s.srings.flatMap (fun r => if r.cmd = some c ∧ !r.isWrite ∧ r.port = portHost then r.poisoned.map Prod.snd else [])

/-- Offset, within the `n` bytes of a stream from `off` on, of the first that has landed with poison. -/
def markedIn (c off n : Nat) (s : State) : Option Nat :=
  ((hostMarks c s).find? (fun m => off ≤ m && m < off + n)).map (· - off)

/-- The Windchest address of the head slot of a command's first read ring. -/
def headSlot (c : Nat) (s : State) : Nat :=
  ((s.srings.find? (fun r => r.cmd = some c && !r.isWrite)).map ringHeadAddr).getD 0

/-- BORE_POISON of an operand that came from host or tier data (Table 8.13). -/
def boreEvent (s : State) (x : Cmd) (cl : Nat) (addr : Word64) : Ev :=
  { mkEv 0x0081 2 .bore cl (domOf s x) addr.toNat (cColl x * 256) (x.queue + cTag x * 65536) 0 with
    queue := x.queue, tag := cTag x, coll := cColl x }

/-- An operand read as host or tier data reached Bore on cluster `cl` with poison: the command fails with POISONED_INPUT, and
BORE_POISON follows its record (R211). -/
def borePoison (x : Cmd) (cl : Nat) (addr : Word64) (s : State) : State :=
  let f : CmdFault := { page := blkPage .bore cl, bit := 0, addr := addr, info := BitVec.ofNat 64 (cColl x * 256) }
  cmdMod x.id (fun y => { y with after := y.after ++ [boreEvent s x cl addr] }) (failCmd x.id stPoisoned (some f) s)

/-- The command's Bell reads a poisoned slot: the command fails, and BELL_POISON follows its record (Table 9.11). -/
def bellPoison (x : Cmd) (addr : Nat) (s : State) : State :=
  let f : CmdFault := { page := blkPage .bell x.home, bit := 0, addr := BitVec.ofNat 64 addr, info := BitVec.ofNat 64 (cColl x) }
  let ev := { mkEv 0x0091 2 .bell x.home (domOf s x) addr (cColl x) (x.queue + cTag x * 65536) 0
              with queue := x.queue, tag := cTag x, coll := cColl x }
  cmdMod x.id (fun y => { y with after := y.after ++ [ev] }) (failCmd x.id stPoisoned (some f) s)

/-- A row that reads what the command's streams brought, or its failure when a slot is poisoned. -/
def unlessPoison (x : Cmd) (s : State) (f : State) : State :=
  match streamPoison x.id s with
  | some a => bellPoison x a s
  | none => f

/-- Leading entries of a batch that have taken effect (R95). -/
def leading (x : Cmd) : Nat :=
  match x.work with
  | .mutate m => if cOp x = 0x21 || cOp x = 0x54 then (m.entries.filter (fun e => e.done.any (fun d => d.2 < 0x100))).length else 0
  | _ => 0

/-- STREAM_DEADLOCK (R268): the youngest member command fails, or the youngest step is abandoned. -/
def streamDeadlock (ps : List (Nat × Nat)) (s : State) : State :=
  if !isDeadlock s ps then s
  else
    let rs := ps.filterMap (sringOf s)
    let ev := fun (r : SRing) (q t : Nat) =>
      mkEv 0x00A0 2 .sld r.engine 0xFFFF (ringHeadAddr r) (r.engine + r.no * 256) (q + t * 65536) rs.length
    match youngest s rs with
    | some x =>
      match rs.find? (fun r => r.cmd = some x.id) with
      | none => s
      | some r =>
        let s := bumpSat (reg .sld r.engine 0x140) 0 16 1 s
        let s := blkFault (sldPage r.engine) 3 (BitVec.ofNat 64 (ringHeadAddr r)) (BitVec.ofNat 64 (r.engine + r.no * 256)) s
        let e := { ev r x.queue (cTag x) with dom := domOf s x, queue := x.queue, tag := cTag x }
        let n := leading x
        finish x.id (fun y => { y with status := stDeadlock, isPartial := n ≠ 0, result := n, after := y.after ++ [e] }) s
    | none =>
      match sortBy (fun a b => a.accepted > b.accepted) (rs.filter (fun r => r.cmd.isNone)) with
      | [] => s
      | r :: _ =>
        let s := bumpSat (reg .sld r.engine 0x140) 16 16 1 s
        let s := blkFault (sldPage r.engine) 3 (BitVec.ofNat 64 (ringHeadAddr r)) (BitVec.ofNat 64 (r.engine + r.no * 256)) s
        let s := { s with srings := s.srings.filter (fun t => !(t.engine = r.engine ∧ t.no = r.no)),
                          colls := s.colls.map (fun p => if r.step = some p.1 then (p.1, { p.2 with run := none }) else p) }
        raise .sld (ev r 0xFFFF 0xFFFF) s

def execStreamDeadlock (rings : List (Nat × Nat)) (s : State) : Host.Outcome State Fault Refusal :=
  .next (drainAll (streamDeadlock rings s))

/-- RESOURCE_WAIT_TIMEOUT (R161, R173, R262): an unbounded command that has waited 1 ms for rings, staging, contexts,
walker-pool space or spill buffers fails with NO_CONTEXT. -/
def resourceTimeout (c : Nat) (s : State) : State :=
  match cmdGet s c with
  | some x =>
    match x.work with
    | .wait 8 since =>
      if x.phase = .waiting ∧ !x.bounded ∧ s.now ≥ since + 1000000 then
        failCmd c stNoContext none (if cOp x = 0x31 then bumpSat (reg .kwk s.nextLead 0x120) 32 32 1 s else s)
      else s
    | _ => s
  | none => s

def execResourceWaitTimeout (c : Nat) (s : State) : Host.Outcome State Fault Refusal :=
  .next (resourceTimeout c s)

end Sys2Proof.Machine
end

