-- ==== Sys2Proof/Machine/Journal.lean ====
section
/-! DEFINITION. Records and entries (R36 to R42), tier space (R335 to R340), the journal and its records (R50, R304 to
R306), mirror shipping (R309), deferred errors (R114) and completions that wait for flash (R307, R320). -/

namespace Sys2Proof.Machine

/-! ## Records (Tables 2.4 and 2.5) -/

/-- The record that 32 bytes hold; its flags keep user_flags alone (R40). -/
def recOf (bs : List Byte) : Rec :=
  { vid := fld bs 0 6, tenant := fld bs 6 4, flags := BitVec.ofNat 16 (fld bs 10 2 / 256 * 256), a0 := fld bs 12 2,
    a1 := fld bs 14 2, a2 := fld bs 16 2, a3 := fld bs 18 2, labels := BitVec.ofNat 64 (fld bs 20 8), ts := fld bs 28 4 }

/-- The 32 bytes of a record with its side and enc_next flags. -/
def recBytes (r : Rec) (side encNext : Bool) : List Byte :=
  leBytes 6 r.vid ++ leBytes 4 r.tenant ++ leBytes 2 (r.flags.toNat / 256 * 256 + b2n side + 2 * b2n encNext)
    ++ leBytes 2 r.a0 ++ leBytes 2 r.a1 ++ leBytes 2 r.a2 ++ leBytes 2 r.a3 ++ leBytes 8 r.labels.toNat ++ leBytes 4 r.ts

def recZero : Rec :=
  { vid := 0, tenant := 0, flags := 0, a0 := 0, a1 := 0, a2 := 0, a3 := 0, labels := 0, ts := 0 }

/-- The field of a host-supplied record that is out of range, as an offset in the record: the padding ID, or flags [7:0]
not zero (R36, R272). -/
def badRec (bs : List Byte) (off : Nat) : Option Nat :=
  if fld bs off 6 = 0xFFFF_FFFF_FFFF then some 0 else if fld bs (off + 10) 1 ≠ 0 then some 10 else none

/-! ## Entries of a collection -/

/-- Bytes of a source vector (R272). -/
def srcLen (c : Coll) : Nat := c.srcDim * (if c.srcFormat ≤ 1 then 2 else 1)

/-- The live entry of an ID in the present state (R36, R274). -/
def liveNow (c : Coll) (vid : Nat) : Option (Nat × Entry) :=
  c.entries.find? (fun p => p.2.record.vid = vid && (tget c.tombs p.1).isNone)

/-- An entry is present for a horizon and its tombstone does not count for it (R51, R53). -/
def liveAt (c : Coll) (hz : Nat) (p : Nat × Entry) : Bool :=
  p.2.seq ≤ hz && (match tget c.tombs p.1 with
    | none => true
    | some q => q > hz)

/-- The live entry of an ID under a horizon. -/
def liveEntry (c : Coll) (hz vid : Nat) : Option (Nat × Entry) :=
  c.entries.find? (fun p => p.2.record.vid = vid && liveAt c hz p)

/-- Side-list places in use: appended entries and logged tombstones (R282). An upsert's or set's tombstone takes the place
of its entry, so a tombstone counts when no side entry carries its sequence number. -/
def placesUsed (c : Coll) : Nat :=
  c.arr.side.length + (c.arr.tombLog.filter (fun t => !c.arr.side.any (fun sl => (tget c.entries sl).any (fun e => e.seq = t.2)))).length

/-- The lowest number that a rising list does not hold, from `n` (R283). -/
def lowestGap : List Nat → Nat → Nat
  | [], n => n
  | k :: t, n => if k = n then lowestGap t (n + 1) else n

/-- The lowest free slot of the collection; none when none is left (R37, R142). -/
def freeSlot (c : Coll) : Option Nat :=
  let n := lowestGap (c.entries.map Prod.fst) 0
  if n < (if c.indexKind = 0 then 2 ^ 35 else 0xFFFF_FFFF) then some n else none

/-! ## Tier space (R335, R338 to R340) -/

/-- The bytes of an entry that a scan or a rerank reads (R136, R244). -/
def entryBytes (c : Coll) : Nat := c.codeBits / 8 + 32

def round64 (n : Nat) : Nat := (n + 63) / 64 * 64

/-- Distance of two codes of a partition: L/8 bytes, and a 64-byte boundary for each from 64 bytes on (R46). -/
def codeStride (c : Coll) : Nat := if c.codeBits / 8 ≥ 64 then round64 (c.codeBits / 8) else c.codeBits / 8

/-- Bytes of the code and record arrays of `n` entries (R46). -/
def arrayBytes (c : Coll) (n : Nat) : Nat := round64 (n * codeStride c) + 32 * n

def partBytes (c : Coll) (p : Part) : Nat := arrayBytes c p.slots.length

/-- Graph area of one stack: pieces of 1 GiB (Table 13.2). -/
def graphArea (c : Coll) : Nat :=
  let top := c.arr.nodes.foldl (fun m p => max m (p.1 + 1)) 0
  ((top + 11) / 12 * nodeStride c + 2 ^ 30 - 1) / 2 ^ 30 * 2 ^ 30

/-- Patch area of one stack: 1/16 of the graph area and at least 64 MiB over the twelve stacks (R291). -/
def patchArea (c : Coll) : Nat := if c.arr.nodes = [] then 0 else max (graphArea c / 16) (64 * 2 ^ 20 / 12)

def sideBlockBytes (c : Coll) : Nat := 8 * c.codeBits + 3072

/-- Numbers below `n` that are `r` modulo 12. -/
def countMod12 (n r : Nat) : Nat := (n + 11 - r % 12) / 12

/-- Bytes of stack `n` that collection `h` holds (Table 13.2). -/
def collStackBytes (h : Nat) (c : Coll) (n : Nat) : Nat :=
  let mine := (n + 12 - h % 12) % 12
  let parts := (c.arr.parts.filter (fun p => !p.2.bulk ∧ p.2.place = n)).foldl (fun a p => a + partBytes c p.2) 0
  let pages := c.entries.foldl (fun m p => max m (p.1 / 32768 + 1)) 0
  parts + graphArea c + patchArea c + countMod12 ((c.arr.side.length + 63) / 64) mine * sideBlockBytes c
    + countMod12 pages mine * 4096 + countMod12 ((c.arr.tombLog.length + 4095) / 4096) mine * 65536

/-- The collections as commands in execution see them: handle and view. -/
def heldViews (s : State) : List (Nat × Coll) :=
  s.cmds.filterMap (fun x => if x.phase = .executing then x.view.map (fun c => (cColl x, c)) else none)

/-- Partitions that a commit has replaced and that searches of an earlier view epoch may still read: they keep their space until
the last such search completes (R53, R287). -/
def oldParts (s : State) : List (Nat × Part) :=
  ((heldViews s).flatMap (fun v => match tget s.colls v.1 with
    | none => []
    | some c =>
      if v.2.viewEpoch < c.viewEpoch then
        (v.2.arr.parts.filter (fun p => !((tget c.arr.parts p.1).any (fun q => q.slots = p.2.slots && q.bulk = p.2.bulk && q.place = p.2.place)))).map
          (fun p => (partBytes v.2 p.2, p.2.slots, p.2.bulk, p.2.place, v.1))
      else [])).eraseDups.map (fun e => (e.1, { slots := e.2.1, bulk := e.2.2.1, place := e.2.2.2.1, scans := 0, heat := 0 }))

/-- Side blocks that a fold has emptied and that such searches may still read: the stack of each, and its bytes. -/
def oldSide (s : State) : List (Nat × Nat) :=
  ((heldViews s).flatMap (fun v => match tget s.colls v.1 with
    | none => []
    | some c =>
      if v.2.viewEpoch < c.viewEpoch then
        let bs := chunks 64 (v.2.arr.side.length / 64 + 1) v.2.arr.side
        ((List.range bs.length).filter (fun b => (bs.getD b []).all (· ∉ c.arr.side))).map (fun b =>
          ((v.1 + b) % 12, sideBlockBytes c, bs.getD b [], v.1))
      else [])).eraseDups.map (fun e => (e.1, e.2.1))

/-- Bytes of a stack, or of a tower's bulk channels, that superseded copies hold. -/
def oldBytes (s : State) (bulk : Bool) (n : Nat) : Nat :=
  ((oldParts s).filter (fun p => p.2.bulk = bulk && p.2.place = n)).foldl (fun a p => a + p.1) 0
    + (if bulk then 0 else ((oldSide s).filter (fun p => p.1 = n)).foldl (fun a p => a + p.2) 0)

/-- Collection space of a stack, and of the sixteen channels of a tower (R335, R337). -/
def stackSpace : Nat := 47 * 2 ^ 30 + 2 ^ 29
def towerSpace : Nat := 2 ^ 40

def stackFree (s : State) (n : Nat) : Nat := stackSpace - s.colls.foldl (fun a p => a + collStackBytes p.1 p.2 n) (oldBytes s false n)

def towerFree (s : State) (t : Nat) : Nat :=
  towerSpace - s.colls.foldl (fun a p => a + (p.2.arr.parts.filter (fun q => q.2.bulk ∧ q.2.place = t)).foldl
    (fun a q => a + partBytes p.2 q.2) 0) (oldBytes s true t)

/-- A further side entry fits: a new side block has room on its stack, or under AUTO, whose partitions move to the other tier,
in the bulk tier (Table 2.12; log entry 95). -/
def sideFits (s : State) (h : Nat) (c : Coll) : Bool :=
  c.arr.side.length % 64 ≠ 0 || sideBlockBytes c ≤ stackFree s ((h + c.arr.side.length / 64) % 12)
    || (c.placement = 2 && (List.range 4).any (fun t => sideBlockBytes c ≤ towerFree s t))

/-! ## The journal -/

/-- Journal SRAM held by records (R304). -/
def sramUsed (s : State) : Nat := (s.bag.recs.filter (fun r => r.stripe.isNone)).foldl (fun a r => a + r.bytes) 0

/-- Journal space allows a record of `n` bytes: an unbounded command leaves 8 MiB to bounded ones (R306). -/
def journalFits (s : State) (bounded : Bool) (n : Nat) : Bool :=
  sramUsed s + n ≤ (if bounded then 64 else 56) * 2 ^ 20

/-- Journal SRAM may be written: the hold-up bank has its usable threshold, or the journal is written through (R30, R319). -/
def journalOpen (s : State) : Bool := s.bag.nowMj ≥ 2000 || s.bag.writeThrough

/-- A record of `n` bytes of the module's own may be written now. -/
def ownFits (s : State) (n : Nat) : Bool := journalOpen s && journalFits s false n

/-- Bytes of a record with its payload (R304). -/
def recordSize (payload : Nat) : Nat := 64 + (payload + 63) / 64 * 64

/-- A record about to be written; number, time and place are given by `journalPut`. -/
def jrecNew (type coll : Nat) (body : JBody) (bytes dom queue tag : Nat) : JRec :=
  { seq := 0, type := type, encNext := false, srcRef := false, codeOnly := false, lost := false, headerLost := false, coll := coll, slot := none,
    oldSlot := none, version := 0, entry := none, body := body, bytes := bytes, domain := dom, queue := queue, tag := tag,
    at_ := 0, off := 0, stripe := none, poisoned := false, mirrored := false, mirrorLost := false, dead := false }

/-- The payload of a record as it is shipped; that of a COLL, REENCODE, COMMIT, PROGRAM, TABLE or ADMIN record has no layout in
the spec (log entry 113). -/
def recPayload (r : JRec) (l : Nat) : List Byte :=
  match r.entry, r.type with
  | some e, 0x01 | some e, 0x02 =>
    if r.codeOnly then leBytes (l / 8) e.code
    else match e.src with
      | .held bs => bs
      | .lost => []
  | _, t =>
    if t = 0x03 ∨ t = 0x04 ∨ t = 0x7F then List.replicate (r.bytes - 64) 0
    else (List.range (r.bytes - 64)).map (Config.recordByte t r.coll r.seq)

/-- A record as bytes: header (Table 12.1) and payload, padded. -/
def recImage (s : State) (r : JRec) : List Byte :=
  let pl := recPayload r (((tget s.colls r.coll).map Coll.codeBits).getD 64)
  let img := match r.entry with
    | some e => recBytes e.record (r.type ≠ 0x03) e.encNext
    | none => List.replicate 32 0
  let slot := fun (o : Option Nat) => leBytes 5 (o.getD (2 ^ 40 - 1))
  let head := leBytes 8 r.seq ++ leBytes 1 r.type
    ++ leBytes 1 (b2n r.encNext + 2 * b2n r.srcRef + 4 * b2n r.codeOnly + 8 * b2n r.lost) ++ leBytes 2 r.coll
    ++ leBytes 4 pl.length ++ slot r.slot ++ slot r.oldSlot ++ leBytes 2 r.version ++ img
  let all := head ++ leBytes 4 (crc32c (head ++ pl)) ++ pl
  all ++ List.replicate ((64 - all.length % 64) % 64) 0

/-- CST_MIRROR: shipping is enabled; the partner's index. -/
def mirrorOn (s : State) : Bool := (regGet s (reg .cst 12 0x140)).getLsbD 16
def mirrorPeer (s : State) : Nat := bits (regGet s (reg .cst 12 0x140)).toNat 9 0

def peerUp (s : State) (p : Nat) : Bool := (tget s.cst.peers p).any (fun x => x.state = 2)

/-- Records are shipped: a partner is configured, its connection is up and shipping does not rest. -/
def shipping (s : State) : Bool := mirrorOn s && peerUp s (mirrorPeer s) && !s.cst.mirrorPaused

/-- Ship a record to the partner (R309, R400). -/
def shipRecord (r : JRec) (s : State) : State :=
  if shipping s && r.seq ≥ s.cst.mirrorFrom && r.seq > s.cst.mirrorSent then
    sendMsg (mirrorPeer s) 0x10 false (BitVec.ofNat 64 r.seq) (recImage s r)
      { s with cst := { s.cst with mirrorSent := r.seq } }
  else s

/-- Shipping resumes from the next record that has not been shipped (R309). -/
def shipRest (s : State) : State := s.bag.recs.foldl (fun s r => shipRecord r s) s

/-- Write a journal record in one piece: it takes the next number, the time and the next place in journal SRAM (R50,
R304). -/
def journalPut (r : JRec) (s : State) : Nat × State :=
  let n := s.bag.nextSeq
  let r := { r with seq := n, at_ := s.now, off := s.bag.sramHead }
  let s := { s with bag := { s.bag with nextSeq := n + 1, sramHead := (s.bag.sramHead + r.bytes) % 2 ^ 26,
                                        recs := s.bag.recs ++ [r] } }
  let s := collMod r.coll (fun c => { c with journaled := n }) s
  (n, shipRecord r s)

/-- A record that the module writes for its own work. -/
def journalOwn (type coll : Nat) (body : JBody) (bytes dom : Nat) (s : State) : Nat × State :=
  journalPut (jrecNew type coll body bytes dom 0xFFFF 0xFFFF) s

/-! ## Media addresses (R313) -/

def mediaSram (off : Nat) : Nat := 2 * 2 ^ 60 + off % 2 ^ 26

/-- Channel of member `m` of stripe `n`: P is member 16, Q member 17, data unit i member i (R311). -/
def memberChannel (n m : Nat) : Nat := (n + (if m = 16 then 0 else if m = 17 then 1 else 2 + m)) % 18

/-- Media address of a member of a stripe. -/
def mediaFlash (n m : Nat) : Nat :=
  2 ^ 60 + memberChannel n m * 2 ^ 51 + (Config.stripePlace n m).toNat * 2 ^ 14

/-! ## Deferred errors (R114) -/

/-- An ADMIN record for a change to a deferred store, holding what the store holds after it (Table 12.2). -/
def journalDeferred (d : Nat) (s : State) : State :=
  match tget s.domains d with
  | some k => (journalOwn 0x40 0xFFFF (.deferred d k.deferred k.nextDef k.lost) 128 d s).2
  | none => s

/-- New entries take the store's next numbers. -/
def numbered : Nat → List Deferred → List Deferred
  | _, [] => []
  | n, e :: t => { e with no := n } :: numbered (n + 1) t

/-- Add entries to a domain's deferred store and raise DEFERRED_ERROR; what a full store cannot hold is counted. -/
def deferAll (d : Nat) (es : List Deferred) (s : State) : State :=
  match tget s.domains d, es with
  | some dom, e :: _ =>
    let room := 4096 - dom.deferred.length
    let took := numbered dom.nextDef (es.take room)
    let lost := es.length - took.length
    let s := journalDeferred d (domMod d (fun x => { x with deferred := x.deferred ++ took, nextDef := x.nextDef + took.length, lost := x.lost + lost }) s)
    raise .wwy (mkEv 0x0021 2 .wwy 0 d e.media.toNat took.length (dom.deferred.length + took.length) (dom.lost + lost)) s
  | _, _ => s

/-- Entries lost or source-lost are counted (BAG_LOST). -/
def countLost (n : Nat) (s : State) : State := bumpSat (reg .bag 0 0x150) 0 32 n s

/-- The deferred entry of a journal record: status, dflags and media address. -/
def deferredOf (r : JRec) (vid status flags media : Nat) : Deferred :=
  { seq := r.seq, vid := vid, coll := r.coll, status := status, queue := r.queue, tag := r.tag,
    dflags := BitVec.ofNat 16 flags, media := BitVec.ofNat 64 media, no := 0 }

/-- The domain a loss in collection `h` is reported to: its owner; D0 when there is none. -/
def ownerOf (s : State) (h : Nat) : Nat := ((tget s.colls h).map Coll.owner).getD 0

/-! ## Completion of journaled commands -/

/-- Every record up to `n` is in a programmed stripe. -/
def onFlash (s : State) (n : Nat) : Bool := s.bag.recs.all (fun r => r.seq > n || r.stripe.isSome)

/-- Records up to `n` must not wait for a full stripe: their stripe is closed with PAD. -/
def closeStripe (n : Nat) (s : State) : State := { s with bag := { s.bag with closeTo := max s.bag.closeTo n } }

/-- A command has written its record: its completion's fields are set, and it is finished at once or, when its record must
be on flash first, once its stripe is programmed (R307, R320). Searches that waited for its record have their horizon (R52). -/
def finishJournaled (c n : Nat) (needFlash : Bool) (f : Cmd → Cmd) (s : State) : State :=
  let g := fun (x : Cmd) => { f x with jseq := n, journaled := true }
  raiseHorizons <|
  if (needFlash || s.bag.writeThrough) && !onFlash s n then
    cmdMod c (fun x => { g x with work := .wait 3 n }) (closeStripe n (freeUnits c s))
  else finish c g s

/-- Commands that waited for flash alone are finished. -/
def wakeFlash (s : State) : State :=
  { s with cmds := s.cmds.map (fun x =>
      match x.work with
      | .wait 3 n => if onFlash s n then { x with phase := .finished, work := .none } else x
      | _ => x) }

/-- Write the record of a command other than an entry mutation and go on with its number; wait while the journal has no
space (R306). -/
def journalCmd (x : Cmd) (type coll : Nat) (body : JBody) (payload : Nat) (s : State) : Res Nat :=
  if journalFits s (runsBounded s x) (recordSize payload) then
    let (n, s) := journalPut (jrecNew type coll body (recordSize payload) (domOf s x) x.queue (cTag x)) s
    .ok n s
  else .wait s

/-! ## Accounts (R345 to R347, R493) -/

/-- An FP32 addend as a slot of an X128 region whose base has E8M0 code `base` (R346): it counts in units of 2^−56 of the base. -/
def x128Conv (base : Nat) (v : Fl) : X128 :=
  let z : X128 := { nan := false, whNeg := false, whPos := false, wl := false, value := 0 }
  match v with
  | .nan => { z with nan := true }
  | .inf neg => if neg then { z with whNeg := true } else { z with whPos := true }
  | .fin neg n e0 =>
    let e := e0 - ((base : Int) - 127)
    if n ≠ 0 ∧ dyNum n e ≥ 2 ^ 31 * dyDen e then (if neg then { z with whNeg := true } else { z with whPos := true })
    else
      let num := dyNum n (e + 56)
      let den := dyDen (e + 56)
      let q : Int := num / den
      { z with wl := num % den ≠ 0, value := BitVec.ofInt 120 (if neg then -q else q) }

/-- Two slots added: the values modulo 2^120, the markers ORed (Table 13.3). -/
def x128Join (a b : X128) : X128 :=
  { nan := a.nan || b.nan, whNeg := a.whNeg || b.whNeg, whPos := a.whPos || b.whPos, wl := a.wl || b.wl, value := a.value + b.value }

def x128Add (base : Nat) (a : X128) (v : Fl) : X128 := x128Join a (x128Conv base v)

/-- Account work to a domain: bytes scanned, expansions, MACs, and its energy in femtojoules as an FP32 addend in joules
(R493). -/
def account (d scanned expansions macs femto : Nat) (s : State) : State :=
  let j := flOf32 (toFp32Q false femto (10 ^ 15)).val
  domMod d (fun x => { x with scanned := (x.scanned + scanned) % 2 ^ 64, expansions := (x.expansions + expansions) % 2 ^ 64,
                              macs := (x.macs + macs) % 2 ^ 64, energy := if femto = 0 then x.energy else x128Add 0x7F x.energy j }) s

end Sys2Proof.Machine
end

