-- ==== Sys2Proof/Machine/Bell.lean ====
section
/-! DEFINITION. Encoder programs and shared tables (chapter 9): what a program image says, whether it is valid, and how its
steps run on Bell and Bore. -/

namespace Sys2Proof.Machine

/-! ## Programs (Tables 9.4 and 9.5) -/

def progSteps (img : List Byte) : Nat := fld img 0 2
def stepFld (img : List Byte) (i off n : Nat) : Nat := fld img (64 + 64 * i + off) n
def progDim (img : List Byte) : Nat := fld img 2 2
def progFormat (img : List Byte) : Nat := fld img 4 1
def progChain (img : List Byte) : Bool := bit (fld img 5 1) 0
def progRerankOut (img : List Byte) : Bool := bit (fld img 5 1) 1
def progBits (img : List Byte) : Nat := fld img 6 2
def progCodeBuf (img : List Byte) : Nat := fld img 8 1
def progRerankBuf (img : List Byte) : Nat := fld img 9 1

/-- What a step writes. -/
inductive BufKind where
  | fp32 | bf16 | fp16 | int8
  | bin
  | quant (fmt mode : Nat)
deriving DecidableEq, Repr

/-- Kind and length of each buffer written by the first steps (R229). -/
def bufKinds (img : List Byte) : Nat → Table (BufKind × Nat)
  | 0 => [(0, (.fp32, progDim img))]
  | i + 1 =>
    let t := bufKinds img i
    let dst := stepFld img i 2 1
    let src := tget t (stepFld img i 1 1)
    match stepFld img i 0 1, src with
    | 1, some (_, n) => tset t dst (.quant (stepFld img i 16 1) (stepFld img i 17 1), n)
    | 2, some _ =>
      let k := match stepFld img i 33 1 with | 0 => BufKind.fp32 | 1 => .bf16 | 2 => .fp16 | 3 => .int8 | _ => .bin
      tset t dst (k, stepFld img i 4 4)
    | 3, some (_, n) => tset t dst (.fp32, n)
    | _, _ => t

/-- Tables that a step names: handle, offset of the field in the step. -/
def stepTables (img : List Byte) (i : Nat) : List (Nat × Nat) :=
  if stepFld img i 0 1 = 2 then
    (stepFld img i 8 2, 8) :: ((if stepFld img i 34 2 = 0xFFFF then [] else [(stepFld img i 34 2, 34)])
      ++ (if stepFld img i 36 2 = 0xFFFF then [] else [(stepFld img i 36 2, 36)]))
  else []

/-- Tables that a program names. -/
def progTables (img : List Byte) : List Nat :=
  (List.range (progSteps img)).flatMap (fun i => (stepTables img i).map Prod.fst)

/-- A range of step bytes is zero, as a check. -/
def stepZero (img : List Byte) (i off last : Nat) : Bool × Nat :=
  match firstNonzero img (64 + 64 * i + off) (64 + 64 * i + last) with
  | some a => (true, a)
  | none => (false, 64 + 64 * i + off)

/-- A format and a scale mode go together (R187). -/
def scaleOk (fmt mode : Nat) : Bool :=
  mode ≤ 2 && (if fmt = 3 then mode = 2 else if fmt = 0 then mode ≤ 1 else true)

/-- The rules of Table 8.3 on the mx_ctl at offset `o` of the image. -/
def badMx (img : List Byte) (o : Nat) : Option Nat :=
  let f := fun (off n : Nat) => fld img (o + off) n
  let a := f 0 1
  let b := f 1 1
  let s := 2 ^ (f 5 1 % 4)
  let cont := bit (f 6 1) 1
  let lanes := bit (f 6 1) 2
  let drain := f 12 1
  let k := f 8 4
  let unit := if a = 0 ∨ b = 0 then 64 * s else 32 * s
  firstBad
    [ (a > 3, o), (b > 3, o + 1), (!scaleOk a (f 2 1), o + 2), (!scaleOk b (f 3 1), o + 3), (f 4 1 = 0xFF, o + 4),
      (f 5 1 > 3, o + 5),
      (f 6 1 > 7 || (cont && (bit (f 6 1) 0 || f 5 1 ≠ 0))
        || (lanes && (a > 1 || b > 1 || f 2 1 ≠ 0 || f 3 1 ≠ 0 || drain = 0 || cont)), o + 6),
      (f 7 1 > 6, o + 7), (k < 32 || k > 16777216 || k % unit ≠ 0, o + 8),
      (drain > 2 || (drain = 1 && (a = 3 || b = 3 || f 2 1 ≠ 0 || f 3 1 ≠ 0))
        || (drain = 2 && (a ≠ 0 || b ≠ 0 || f 2 1 ≠ 0 || f 3 1 ≠ 0 || f 4 1 ≠ 0x7F || k > 4096 || f 5 1 ≠ 0 || cont)), o + 12),
      ((firstNonzero img (o + 13) (o + 15)).isSome, (firstNonzero img (o + 13) (o + 15)).getD (o + 13)) ]

/-- A VECTOR table of `m` entries. -/
def vectorTable (s : State) (h m : Nat) : Bool :=
  match (tget s.tables h).bind Tbl.current with
  | some d => d.kind = 1 && d.rows = m
  | none => false

/-- The rules of R230 on step `i`, given the buffers of the steps before it. -/
def badStep (s : State) (img : List Byte) (i : Nat) : Option Nat :=
  let o := 64 + 64 * i
  let f := fun (off n : Nat) => stepFld img i off n
  let bufs := bufKinds img i
  let src := tget bufs (f 1 1)
  let type := f 0 1
  let head := [ (type < 1 || type > 3, o),
                (f 1 1 > 15 || src.isNone
                  || (match type, src with
                      | 1, some (k, _) => !(k = .fp32 || k = .bf16 || k = .fp16 || k = .int8)
                      | 3, some (k, _) => k ≠ .fp32
                      | 2, some (.quant _ _, _) => false
                      | 2, some _ => true
                      | _, _ => false), o + 1),
                (f 2 1 < 1 || f 2 1 > 15 || (tget bufs (f 2 1)).isSome, o + 2), (f 3 1 ≠ 0, o + 3) ]
  let n := (src.map Prod.snd).getD 0
  match type with
  | 1 => firstBad (head ++ ([ (f 4 4 ≠ 0, o + 4), (f 8 2 ≠ 0xFFFF, o + 8), stepZero img i 10 15, (f 16 1 > 3, o + 16),
                             (!scaleOk (f 16 1) (f 17 1), o + 17), stepZero img i 18 63 ] : List (Bool × Nat)))
  | 3 => firstBad (head ++ ([ (f 4 4 ≠ 0, o + 4), (f 8 2 ≠ 0xFFFF, o + 8), stepZero img i 10 63 ] : List (Bool × Nat)))
  | 2 =>
    let before := (List.range i).filter (fun j => stepFld img j 0 1 = 2)
    let a := f 16 1
    let b := f 17 1
    let unit := (if a = 0 ∨ b = 0 then 64 else 32) * 2 ^ (f 21 1 % 4)
    let tbl := (tget s.tables (f 8 2)).bind Tbl.current
    let tblOk := match tbl with
      | some d => d.kind = 0 && d.rows = f 4 4 && d.cols = n && d.fmt = a && d.scale = f 18 1
      | none => false
    let nan := fun (off : Nat) => flOf32 (BitVec.ofNat 32 (f off 4)) = .nan
    let clamp := f 32 1 = 3
    firstBad (
      ((decide (before.length ≥ 16), o) : Bool × Nat) :: head
      ++ ([ (f 4 4 < 1 || f 4 4 > 16384, o + 4), (!tblOk, o + 8), stepZero img i 10 15 ] : List (Bool × Nat))
      ++ (match badMx img (o + 16) with
          | some x => [(true, x)]
          | none => [])
      ++ ([ ((match src with
            | some (.quant q _, _) => q ≠ b
            | _ => true), o + 17),
           ((match src with
            | some (.quant _ m, _) => m ≠ f 19 1
            | _ => false), o + 19),
           (bit (f 22 1) 1 || bit (f 22 1) 2, o + 22), (f 24 4 ≠ (n + unit - 1) / unit * unit, o + 24), (f 28 1 ≠ 0, o + 28),
           (f 32 1 > 3, o + 32), (f 33 1 > 4 || (f 32 1 = 2) ≠ (f 33 1 = 4), o + 33),
           (f 34 2 ≠ 0xFFFF && !vectorTable s (f 34 2) (f 4 4), o + 34),
           (f 36 2 ≠ 0xFFFF && !vectorTable s (f 36 2) (f 4 4), o + 36), stepZero img i 38 39,
           (clamp && nan 40, o + 40),
           (clamp && (nan 44 || flLt (flOf32 (BitVec.ofNat 32 (f 44 4))) (flOf32 (BitVec.ofNat 32 (f 40 4)))), o + 44),
           stepZero img i 48 63 ] : List (Bool × Nat)))
  | _ => firstBad head

/-- The header's own rules (Table 9.4). -/
def badProgHead (img : List Byte) : Option Nat :=
  firstBad [ (progSteps img < 1 || progSteps img > 64, 0), (progDim img < 1 || progDim img > 4096, 2),
             (progFormat img > 4, 4), (fld img 5 1 > 3, 5),
             (progBits img % 64 ≠ 0 || progBits img < 64 || progBits img > 4096, 6),
             (progCodeBuf img < 1 || progCodeBuf img > 15, 8),
             (if progRerankOut img then progRerankBuf img < 1 || progRerankBuf img > 15 else progRerankBuf img ≠ 0, 9),
             ((firstNonzero img 10 63).isSome, (firstNonzero img 10 63).getD 10) ]

/-- The buffers that hold the outputs (R230): the code is BIN1 of L elements, the rerank query INT4 TENSOR of L. -/
def badProgOut (img : List Byte) : Option Nat :=
  let t := bufKinds img (progSteps img)
  let l := progBits img
  let codeOk := match tget t (progCodeBuf img) with
    | some (.bin, n) => n = l
    | some (.quant 0 _, n) => n = l
    | _ => false
  firstBad [ (!codeOk, 8), (progRerankOut img && tget t (progRerankBuf img) ≠ some (.quant 2 1, l), 9) ]

/-- The first breach of an image: its offset, and whether it is a table of another domain (R230, R234). -/
def badProg (s : State) (dom : Nat) (img : List Byte) : Option (Nat × Bool) :=
  match badProgHead img with
  | some a => some (a, false)
  | none =>
    let steps := (List.range (progSteps img)).filterMap (fun i =>
      let foreign := (stepTables img i).find? (fun p =>
        (tget s.tables p.1).any (fun t => t.domain ≠ dom ∧ t.domain ≠ 0))
      match badStep s img i, foreign with
      | some a, some (_, off) => if a < 64 + 64 * i + off then some (a, false) else some (64 + 64 * i + off, true)
      | some a, none => some (a, false)
      | none, some (_, off) => some (64 + 64 * i + off, true)
      | none, none => none)
    match steps with
    | x :: _ => some x
    | [] => (badProgOut img).map (fun a => (a, false))

/-! ## Which steps run (R232) -/

/-- Add to the wanted buffers the sources of the steps that write them, from the last step back. -/
def neededFrom (img : List Byte) : Nat → List Nat → List Nat → List Nat
  | 0, _, acc => acc
  | i + 1, bufs, acc =>
    if stepFld img i 2 1 ∈ bufs then neededFrom img i (stepFld img i 1 1 :: bufs) (i :: acc) else neededFrom img i bufs acc

/-- The steps on which the wanted buffers depend, in order. -/
def neededSteps (img : List Byte) (bufs : List Nat) : List Nat := neededFrom img (progSteps img) bufs []

/-! ## Running steps -/

/-- The value of element `i` of a source vector, exact (R229). -/
def srcElem (fmt : Nat) (bs : List Byte) (i : Nat) : Fl :=
  match fmt with
  | 0 => flOfBf16 (BitVec.ofNat 16 (fld bs (2 * i) 2))
  | 1 => flOfFp16 (BitVec.ofNat 16 (fld bs (2 * i) 2))
  | 2 =>
    -- E4M3: bias 7, no infinity, NaN at all ones
    let c := fld bs i 1
    if c % 128 = 127 then .nan
    else if bits c 6 3 = 0 then .fin (bit c 7) (c % 8) (-9) else .fin (bit c 7) (8 + c % 8) ((bits c 6 3 : Int) - 10)
  | 3 => flOf 5 2 (fld bs i 1)
  | _ => let v := signed 8 (fld bs i 1); .fin (v < 0) v.natAbs 0

/-- First element of a source that is NaN or infinite. -/
def badElem (fmt dim : Nat) (bs : List Byte) : Option Nat :=
  (List.range dim).find? (fun i => match srcElem fmt bs i with
    | .fin _ _ _ => false
    | _ => true)

/-- A vector as it enters a program; `poison` is the address of a source word that arrived with poison. -/
def encVec (fmt dim : Nat) (bs : List Byte) (poison : Option Nat := none) : EncVec :=
  { bufs := [(0, .fp32 ((List.range dim).map (fun i => (toFp32 (srcElem fmt bs i)).val)))], flags := 0, flagged := 0,
    firstPart := 0xFF, parts := [], poison := poison }

/-- The values a buffer holds for QUANT. -/
def bufValues : Buf → List Fl
  | .fp32 xs => xs.map flOf32
  | .half true xs => xs.map flOfBf16
  | .half false xs => xs.map flOfFp16
  | .int8 xs => xs.map (fun b => .fin (b.toInt < 0) b.toInt.natAbs 0)
  | .quant _ _ _ _ => []

/-- Note the flags of a buffer's elements with the vector (R227, R242). -/
def noteFlags (v : EncVec) (fs : List (BitVec 7)) : EncVec :=
  { v with flags := fs.foldl (· ||| ·) v.flags, flagged := min 0xFFFF (v.flagged + (fs.filter (· ≠ 0)).length) }

/-- A QUANT or NORM step on one vector. -/
def bellStep (img : List Byte) (i : Nat) (v : EncVec) : EncVec :=
  match tget v.bufs (stepFld img i 1 1) with
  | none => v
  | some b =>
    let dst := stepFld img i 2 1
    if stepFld img i 0 1 = 1 then
      let q := quantise (stepFld img i 16 1) (stepFld img i 17 1) (bufValues b)
      noteFlags { v with bufs := tset v.bufs dst (.quant (stepFld img i 16 1) (stepFld img i 17 1) q.codes q.scales) } q.flags
    else
      match b with
      | .fp32 xs =>
        let (ys, shared) := norm32 xs
        noteFlags { v with bufs := tset v.bufs dst (.fp32 (ys.map Flagged.val)) } (ys.map (fun y => y.flags ||| shared))
      | _ => v

/-- Row `i` of a WEIGHTS table as an operand: element codes and scale codes (R186, R236). -/
def tableRow (d : TblData) (i : Nat) : List Nat × List Nat :=
  let rowBytes := (d.cols * fmtBits d.fmt + 7) / 8
  let stride := (rowBytes + 63) / 64 * 64
  let row := slice d.bytes (i * stride) rowBytes
  let nb := (d.cols + 31) / 32
  ((List.range d.cols).map (elemCode d.fmt row),
   match d.scale with
   | 0 => []
   | 1 => [d.tscale]
   | _ => (slice d.bytes (d.rows * stride + i * nb) nb).map (·.toNat))

/-- Parts of a MATMUL step's reduction (R206). -/
def stepParts (img : List Byte) (i : Nat) : Nat := 2 ^ (stepFld img i 21 1 % 4)

/-- The parts of every output of a MATMUL step on one vector; a vector that carries poison marks them all (R211). -/
def matmulParts (img : List Byte) (i : Nat) (d : TblData) (v : EncVec) : List (List Acc) :=
  match tget v.bufs (stepFld img i 1 1) with
  | some (.quant fmt mode codes scales) =>
    let k := stepFld img i 24 4
    let ys := opBlocks fmt mode codes scales k v.poison.isSome
    (List.range d.rows).map (fun r =>
      let (cs, ss) := tableRow d r
      accParts (stepFld img i 20 1) (stepParts img i) (opBlocks d.fmt d.scale cs ss k) ys)
  | _ => []

/-- The version of table `h` that command `c` runs under: an earlier one while the command is among its users (R237). -/
def tableAt (s : State) (c h : Nat) : Option TblData :=
  (tget s.tables h).bind (fun t =>
    match t.earlier.find? (fun e => c ∈ e.users) with
    | some e => some e.data
    | none => t.current)

/-- Entry `i` of a VECTOR table, or what stands for it when no table is named. -/
def vecEntry (tb : Nat → Option TblData) (h i : Nat) (none_ : BitVec 32) : BitVec 32 :=
  if h = 0xFFFF then none_
  else match tb h with
    | some d => BitVec.ofNat 32 (fld d.bytes (4 * i) 4)
    | none => none_

/-- The outputs of a MATMUL step on one vector: its parts combined and drained through the epilogue (R207, R225). -/
def drainOuts (tb : Nat → Option TblData) (img : List Byte) (i : Nat) (v : EncVec) : List (Flagged Nat) :=
  let ep : Epilogue := { act := stepFld img i 32 1, conv := stepFld img i 33 1, lo := BitVec.ofNat 32 (stepFld img i 40 4),
                         hi := BitVec.ofNat 32 (stepFld img i 44 4) }
  (List.range v.parts.length).map (fun r =>
    applyEpilogue ep (vecEntry tb (stepFld img i 34 2) r 0x3F80_0000#32) (vecEntry tb (stepFld img i 36 2) r 0)
      (stepFld img i 20 1) (accCombineAll (v.parts.getD r [])))

/-- The outputs of a MATMUL step go into its buffer. -/
def drainInto (img : List Byte) (i : Nat) (v : EncVec) (outs : List (Flagged Nat)) : EncVec :=
  let vals := outs.map Flagged.val
  let b : Buf := match stepFld img i 33 1 with
    | 0 => .fp32 (vals.map (BitVec.ofNat 32))
    | 1 => .half true (vals.map (BitVec.ofNat 16))
    | 2 => .half false (vals.map (BitVec.ofNat 16))
    | 3 => .int8 (vals.map (BitVec.ofNat 8))
    | _ => .quant 0 0 vals []
  noteFlags { v with bufs := tset v.bufs (stepFld img i 2 1) b, parts := [],
                     firstPart := (v.parts.map firstPartOf).foldl min v.firstPart } (outs.map Flagged.flags)

/-- Combine the parts of a MATMUL step, drain its outputs and write its buffer. -/
def drainStep (tb : Nat → Option TblData) (img : List Byte) (i : Nat) (v : EncVec) : EncVec :=
  drainInto img i v (drainOuts tb img i v)

/-- Run QUANT and NORM steps until a MATMUL step is next or none is left. -/
def runBell (img : List Byte) : List Nat → List EncVec → List Nat × List EncVec
  | [], vs => ([], vs)
  | i :: t, vs => if stepFld img i 0 1 = 2 then (i :: t, vs) else runBell img t (vs.map (bellStep img i))

/-- The logical clusters that hold the slices of MATMUL step `i` for batch `n`, slice by slice: those of the copy that serves
it (R239, R240), or in chain mode the cluster of tower `t` whose turn the batch has (R241, log entry 89). -/
def stepClusters (img : List Byte) (i n t : Nat) : List Nat :=
  let m := stepFld img i 4 4
  let slices := (m + 255) / 256
  let copies := if slices ≤ 32 then 32 / slices else 1
  (List.range slices).map (fun sl => if progChain img then 8 * t + n % 8 else (((n + i) % copies) * slices + sl + 8 * i) % 32)

/-- Cluster `n` neither sleeps nor is out of service or in self-test. -/
def clusterUp (s : State) (n : Nat) : Bool := (tget s.service (blkPage .sld n)).isNone

/-- The cluster that does the work of cluster `n`: itself, or the lowest of its tower that is awake and in service (R181, R213;
log entry 90). -/
def serve (s : State) (n : Nat) : Nat :=
  if clusterUp s n then n else (((List.range 8).map (fun j => n / 8 * 8 + j)).find? (clusterUp s)).getD n

/-- Tile columns of a MATMUL step: output regions along the output rows, which one array drains for a batch. -/
def stepSlices (img : List Byte) (i : Nat) : Nat := (stepFld img i 4 4 + 255) / 256

/-! ## Encodes in progress -/

/-- The image of a program version. -/
def progImage (s : State) (v : Nat) : List Byte := ((tget s.progs v).map Prog.image).getD []

/-- The image of a program version for a command: as it stood when the command was admitted (R177). -/
def imageOf (s : State) (x : Cmd) (v : Nat) : List Byte := (tget x.images v).getD (progImage s v)

/-- Start the encode of a batch: the source vectors in buffer 0, and the steps before the first MATMUL run. -/
def encStart (version : Nat) (img : List Byte) (batch tower : Nat) (bufs : List Nat) (vs : List EncVec) : Enc :=
  let (steps, vs) := runBell img (neededSteps img bufs) vs
  { version := version, img := img, batch := batch, tower := tower, steps := steps, vecs := vs }

/-- The clusters on which an encode's next MATMUL step runs, slice by slice. -/
def encClusters (s : State) (e : Enc) : List Nat :=
  match e.steps with
  | [] => []
  | i :: _ => (stepClusters e.img i e.batch e.tower).map (serve s)

/-- Parts of the step in progress are computed and wait to be combined. -/
def encWaitsCombine (e : Enc) : Bool := e.vecs.any (fun v => v.parts ≠ [])

def encDone (e : Enc) : Bool := e.steps = []

/-- After a MATMUL step has drained: the QUANT and NORM steps that follow it run. -/
def encNext (img : List Byte) (e : Enc) : Enc :=
  let (steps, vs) := runBell img (e.steps.drop 1) e.vecs
  { e with steps := steps, vecs := vs }

/-- MACs of a step for one vector. -/
def stepMacs (d : TblData) : Nat := d.rows * d.cols

/-- Femtojoules of a MAC, times ten, by its widest operand (Table 16.4). -/
def macTenthFj (a b : Nat) : Nat := if a ≥ 2 ∨ b ≥ 2 then 825 else if a = 0 ∧ b = 0 then 52 else 206

/-- Rows and columns of an output region of a step's shape (Table 8.3). -/
def shapeDims (shape : Nat) : Nat × Nat :=
  match shape with
  | 0 => (256, 256) | 1 => (256, 128) | 2 => (128, 256) | 3 => (128, 128) | 4 => (256, 64) | 5 => (64, 256) | _ => (64, 64)

def stepShape (img : List Byte) (i : Nat) : Nat × Nat := shapeDims (stepFld img i 23 1)

/-- Rows of slice `sl` of a step. -/
def sliceRows (img : List Byte) (i sl : Nat) : Nat := min 256 (stepFld img i 4 4 - 256 * sl)

/-- The output regions that a slice of a step and `n` vectors make: row and column numbers of each in the step's shape (R231). -/
def sliceRegions (img : List Byte) (i sl n : Nat) : List (Nat × Nat) :=
  let (r, c) := stepShape img i
  (List.range ((sliceRows img i sl + r - 1) / r)).flatMap (fun p => (List.range ((n + c - 1) / c)).map (fun q => (p, q)))

/-- Flags of a region and the number of its elements that have any: of the outputs of `n` rows from row `at_` on. -/
def regionFlags (at_ n : Nat) (outs : List (List (Flagged Nat))) : BitVec 7 × Nat :=
  let fs := outs.flatMap (fun o => ((o.drop at_).take n).map Flagged.flags)
  (fs.foldl (· ||| ·) 0, min 0xFFFF (fs.filter (· ≠ 0)).length)

/-- A tile status word (Table 8.8). -/
def tileStatus (row col part flagged : Nat) (flags : BitVec 7) : Word64 :=
  BitVec.ofNat 64 (flags.toNat + flagged * 2 ^ 8 + part % 256 * 2 ^ 24 + row * 2 ^ 32 + col * 2 ^ 48)

/-- Note element flags in BELL_FLAGS of a cluster (R245). -/
def noteBell (c : Nat) (fs : BitVec 7) (n : Nat) (s : State) : State :=
  let o := reg .bell c 0x118
  bumpSat o 0 32 n (regField o 38 32 ((bits (regGet s o).toNat 38 32) ||| fs.toNat) s)

/-- Count a region's flags in BORE_FLAGS of a cluster. -/
def noteBore (c : Nat) (fs : BitVec 7) (n : Nat) (s : State) : State :=
  let s := if fs &&& fSAT = 0 then s else bumpSat (reg .bore c 0x130) 48 16 n s
  let s := if fs &&& fWH = 0 then s else bumpSat (reg .bore c 0x130) 32 16 n s
  let s := if fs &&& fWL = 0 then s else bumpSat (reg .bore c 0x130) 16 16 n s
  if fs &&& fNV = 0 then s else bumpSat (reg .bore c 0x130) 8 8 n s

/-- A region of `rows` rows drains into the oldest free tile buffer of cluster `c`, with its status word (R201, R217); results of
the command's earlier regions have left by then. -/
def takeTile (x c rows : Nat) (status : Word64) (s : State) : State :=
  let b := bellOf s c
  setBell c { b with tiles := keepLast 4 (b.tiles ++ [{ cmd := x, rows := rows, status := status }]),
                     waits := b.waits.filter (· ≠ x) } s

/-- Clusters whose four tile buffers are taken by other commands. -/
def tilesFull (s : State) (x : Nat) (cs : List Nat) : List Nat :=
  cs.filter (fun c => ((bellOf s c).tiles.filter (fun t => t.cmd ≠ x)).length ≥ 4)

/-- The drain of a command's regions waits for a tile buffer: each such wait counts once in BELL_TBUF (R217). -/
def countDrainWait (x : Nat) (cs : List Nat) (s : State) : State :=
  cs.foldl (fun s c =>
    let b := bellOf s c
    if x ∈ b.waits then s else bumpSat (reg .bell c 0x108) 32 32 1 (setBell c { b with waits := b.waits ++ [x] } s)) s

/-- The vectors that pass through Bell `c` by a QUANT or NORM stand in its vector registers from number 0 on; which registers
a step uses is the module's own (log entry 92). -/
def loadVregs (c : Nat) (vs : List EncVec) (s : State) : State :=
  let words := fun (v : EncVec) => match v.bufs.getLast? with
    | some (_, .fp32 xs) => xs.take 1024
    | _ => []
  let b := bellOf s c
  setBell c { b with vregs := ((List.range (min 32 vs.length)).map (fun j => (j, ((vs[j]?).map words).getD []))).filter (fun p => p.2 ≠ []) } s

/-- Count a drained step of vectors `vs` on the clusters that computed its slices: regions, rows and each region's own flags
(BORE_TILES, BORE_FLAGS, BELL_ROWS, BELL_FLAGS); each region has taken a tile buffer of its cluster (R201, R203). -/
def countRegions (x : Nat) (img : List Byte) (i : Nat) (cl : List Nat) (vs : List EncVec) (outs : List (List (Flagged Nat)))
    (s : State) : State :=
  let (r, n) := stepShape img i
  let one := fun (sl : Nat) (s : State) (pq : Nat × Nat) =>
    let c := cl.getD sl 0
    let rows := min r (sliceRows img i sl - pq.1 * r)
    let w := regionFlags (256 * sl + pq.1 * r) rows ((outs.drop (pq.2 * n)).take n)
    let part := (((vs.drop (pq.2 * n)).take n).flatMap (fun v => ((v.parts.drop (256 * sl + pq.1 * r)).take rows).map firstPartOf)).foldl min 0xFF
    let s := bumpWrap (reg .bore c 0x128) 0 32 1 (bumpWrap (reg .bell c 0x100) 0 64 rows s)
    takeTile x c rows (tileStatus (256 / r * sl + pq.1) pq.2 part w.2 w.1) (noteBell c w.1 w.2 (noteBore c w.1 1 s))
  (List.range cl.length).foldl (fun s sl => (sliceRegions img i sl outs.length).foldl (one sl) s) s

/-- Count the flags that Bell's own QUANT and NORM steps gave vectors, on cluster `c`. -/
def countBell (c : Nat) (before after : List EncVec) (s : State) : State :=
  let sum := fun (vs : List EncVec) => (vs.map EncVec.flagged).foldl (· + ·) 0
  let n := sum after - sum before
  if n = 0 then s else noteBell c ((after.map EncVec.flags).foldl (· ||| ·) (0 : BitVec 7)) n s

/-- What the regions of a step end in. -/
inductive EncRes where
  | ok (e : Enc) (s : State)
  | paused
  | lost (table : Nat)
  /-- the operands carry poison: the address of the word that brought it (R211) -/
  | poisoned (va : Nat)
  /-- every tile buffer of these clusters is taken -/
  | full (cs : List Nat)

/-- A drained step: its outputs enter the buffers and are counted, and the QUANT and NORM steps after it run on the command's
home Bell. -/
def encDrain (x : Cmd) (e : Enc) (i : Nat) (vs : List EncVec) (s : State) : EncRes :=
  let cl := encClusters s e
  match tilesFull s x.id cl with
  | [] =>
    let outs := vs.map (drainOuts (tableAt s x.id) e.img i)
    let ws := List.zipWith (drainInto e.img i) vs outs
    let e2 := encNext e.img { e with vecs := ws }
    let s := countRegions x.id e.img i cl vs outs (freeTiles x.id s)
    .ok e2 (loadVregs x.home e2.vecs (countBell x.home ws e2.vecs s))
  | cs => .full cs

/-- The regions of the MATMUL step in progress drain: its parts are computed, and combined and drained at once when the
step is not split. A paused table holds the step (R429). -/
def encRegion (x : Cmd) (dom : Nat) (e : Enc) (s : State) : EncRes :=
  match e.steps with
  | [] => .ok e s
  | i :: _ =>
    let h := stepFld e.img i 8 2
    match tget s.tables h with
    | none => .lost h
    | some t =>
      if t.lost.isSome then .lost h
      else if t.paused then .paused
      else
        match tableAt s x.id h, e.vecs.findSome? EncVec.poison with
        | none, _ => .lost h
        | some _, some va => .poisoned va
        | some d, none =>
          if encWaitsCombine e then .ok e s
          else
            let vs := e.vecs.map (fun v => { v with parts := matmulParts e.img i d v })
            let macs := stepMacs d * e.vecs.length
            let s := account dom 0 0 macs (macs * macTenthFj d.fmt (stepFld e.img i 17 1) / 10) s
            if stepParts e.img i > 1 then .ok { e with vecs := vs } s else encDrain x e i vs s

/-- The parts of the step in progress are combined and drained (SPLIT_COMBINE, R207). -/
def encCombine (x : Cmd) (e : Enc) (s : State) : EncRes :=
  match e.steps with
  | [] => .ok e s
  | i :: _ => if encWaitsCombine e then encDrain x e i e.vecs s else .ok e s

/-- A batch number is taken for each 256 vectors of a command (R240, R510). -/
def takeBatch (version n : Nat) (s : State) : State :=
  { s with progs := tmod s.progs version (fun p => { p with batch := p.batch + (n + 255) / 256 }) }

/-- The code that an encoded vector holds, as a number (R120, R223). -/
def vecCode (img : List Byte) (v : EncVec) : Nat :=
  match tget v.bufs (progCodeBuf img) with
  | some (.quant _ _ codes _) => (List.range codes.length).foldl (fun a i => a + codes.getD i 0 * 2 ^ i) 0
  | _ => 0

/-- The rerank query that an encoded vector holds. -/
def vecRerank (img : List Byte) (v : EncVec) : RQuery :=
  match tget v.bufs (progRerankBuf img) with
  | some (.quant _ _ codes scales) => { e := scales.getD 0 0x7F, elems := codes }
  | _ => { e := 0x7F, elems := [] }

/-- The 64 + L/2 bytes of a rerank query block in its 2,112 (R131, R224). -/
def rerankBlock (q : RQuery) : List Byte :=
  let bs := leBytes 1 q.e ++ List.replicate 63 0 ++ packElems 2 q.elems
  bs ++ List.replicate (2112 - bs.length) 0

/-- The first byte of a rerank query block's reserved bytes 1 to 63 that is not zero (R4, R131). -/
def badRq (bs : List Byte) : Option Nat := firstNonzero bs 1 63

/-- A rerank query block read from a host buffer. -/
def rqueryOf (l : Nat) (bs : List Byte) : RQuery :=
  { e := fld bs 0 1, elems := (List.range l).map (fun i => bits (fld bs (64 + i / 2) 1) (4 * (i % 2) + 3) (4 * (i % 2))) }

end Sys2Proof.Machine
end

