-- ==== Sys2Proof/Machine/Encode.lean ====
section
/-! DEFINITION. Loading and retiring programs, loading and swapping tables, and ENCODE (R233 to R242). -/

namespace Sys2Proof.Machine

/-! ## Use of tables and programs -/

/-- A loaded program names the table (R234). -/
def tableLocked (s : State) (h : Nat) : Bool := s.progs.any (fun p => h ∈ progTables p.2.image)

/-- A collection uses the table: its centroid table, its entry set, or a table of its programs. -/
def collUses (s : State) (h : Nat) (c : Coll) : Bool :=
  (c.partMode = 1 && c.centroid = h) || c.entryTbl = h || h ∈ progTables (progImage s c.encVersion)
    || (c.encNext ≠ 0xFFFF && h ∈ progTables (progImage s c.encNext))

/-- The domains whose collections or programs use the table, ascending (R237, R429). -/
def tableDomains (s : State) (h : Nat) : List Nat :=
  ((s.colls.filter (fun p => collUses s h p.2)).map (fun p => p.2.owner)
    ++ (s.progs.filter (fun p => h ∈ progTables p.2.image)).map (fun p => p.2.domain)).foldl (fun a d => insertNat d a) []

/-- Raise an event to every domain that uses the table. -/
def raiseTable (b : Blk) (ev : Nat → Ev) (h : Nat) (s : State) : State :=
  (tableDomains s h).foldl (fun s d => raise b (ev d) s) s

/-! ## Resident slices and the pool (R238, R239) -/

/-- Bytes of a table row as its slices hold it. -/
def rowBytes (d : TblData) : Nat :=
  match d.kind with
  | 0 => ((d.cols * fmtBits d.fmt + 7) / 8 + 63) / 64 * 64 + (if d.scale = 2 then (d.cols + 31) / 32 else 0)
  | 2 => d.cols / 8
  | _ => 4

/-- Slices of a table: 256 rows each, the last holding what remains (R239). -/
def sliceCount (d : TblData) : Nat := (d.rows + 255) / 256

/-- Bytes of slice `sl`. -/
def sliceBytes (d : TblData) (sl : Nat) : Nat := min 256 (d.rows - 256 * sl) * rowBytes d

/-- The steps of loaded programs that name a table: the step, and its program's image. -/
def tableSteps (s : State) (h : Nat) : List (Nat × List Byte) :=
  s.progs.flatMap (fun p => (List.range (progSteps p.2.image)).filterMap (fun i =>
    if h ∈ (stepTables p.2.image i).map Prod.fst then some (i, p.2.image) else none))

/-- Copies in which `n` slices are held. -/
def copiesOf (n : Nat) : Nat := if n ≤ 32 then 32 / max 1 n else 1

/-- The slices that step `i` places on a cluster by the formula of R239, of a table of `n` slices. -/
def slicesBy (n i cl : Nat) : List Nat :=
  ((List.range (copiesOf n * n)).filter (fun k => (k + 8 * i) % 32 = cl)).map (· % max 1 n)

/-- Slices of data `d` of table `h` on a cluster (R239). Weights lie where the resident steps that use them place them, and
where step 0 would before any program uses them (log entry 34); a VECTOR table on every cluster that holds a slice of a step
that names it; an entry set, and a centroid table of up to 32 slices, on every cluster, since any may be the home of a path
that uses them; a larger centroid table where step 0 would place it. A table that only chain-mode programs use holds none
(R238). -/
def slicesOn (s : State) (h : Nat) (d : TblData) (cl : Nat) : List Nat :=
  let n := sliceCount d
  let all := tableSteps s h
  let steps := all.filter (fun p => !progChain p.2)
  match d.kind with
  | 0 =>
    let at_ := if all = [] then [0] else steps.map Prod.fst
    at_.foldl (fun a i => (slicesBy n i cl).foldl (fun a sl => insertNat sl a) a) []
  | 1 => if steps.any (fun p => slicesBy (stepSlices p.2 p.1) p.1 cl ≠ []) then List.range n else []
  | 2 => if n ≤ 32 then List.range n else slicesBy n 0 cl
  | _ => List.range n

/-- Bytes of the slices of data `d` on a cluster. -/
def bytesOn (s : State) (h : Nat) (d : TblData) (cl : Nat) : Nat :=
  ((slicesOn s h d cl).map (sliceBytes d)).foldl (· + ·) 0

/-- The versions of a table that hold resident slices: the current one and those still in use (R238). -/
def residents (t : Tbl) : List TblData := t.earlier.map Earlier.data ++ t.current.toList

/-- Slices and bytes of the shared-table pool that a cluster holds. -/
def poolUsed (s : State) (cl : Nat) : Nat × Nat :=
  s.tables.foldl (fun a p => (residents p.2).foldl (fun a d => (a.1 + (slicesOn s p.1 d cl).length, a.2 + bytesOn s p.1 d cl)) a) (0, 0)

/-- The new version's slices fit every cluster that is to hold them (R238). -/
def poolFits (s : State) (h : Nat) (d : TblData) : Bool :=
  (List.range 32).all (fun cl => slicesOn s h d cl = [] || (poolUsed s cl).2 + bytesOn s h d cl ≤ 32 * 2 ^ 20)

/-- Bytes of the fast tier's module area that tables hold, of its 6 GiB: every version in use and the pending ones (R335). -/
def moduleArea (s : State) : Nat :=
  s.tables.foldl (fun a p => a + (((residents p.2 ++ p.2.pending.toList).map (fun d => d.bytes.length)).foldl (· + ·) 0)) 0

/-- The current version of a table, which work of the module's own runs under. -/
def tableNow (s : State) (h : Nat) : Option TblData := (tget s.tables h).bind Tbl.current

/-! ## PROG_LOAD (R233, R234) -/

/-- An image fault: the BELL page of the home cluster (log entry 33). -/
def imageFault (x : Cmd) (va : Nat) : CmdFault := devFault (blkPage .bell x.home) 1 va 0

/-- A command in execution whose own row has not been given its effect. -/
def running (s : State) (c op : Nat) : Option Cmd :=
  match cmdGet s c with
  | some x => if x.phase = .executing ∧ cOp x = op then some x else none
  | none => none

/-- A command fails with a status and no logged address. -/
def failPlain (status : Nat) (s : State) : Res State := .fail status none s

/-- A command fails at one of its own fields. -/
def failAt (x : Cmd) (status off : Nat) (s : State) : Res State := .fail status (some (wwyFault x status off)) s

/-- Versions whose retire has not completed: they are not free yet (R233). -/
def retiring (s : State) : List Nat :=
  (s.cmds.filter (fun y => cOp y = 0x41 && cf y 28 1 = 1 && y.journaled)).map (fun y => cf y 30 2)

/-- PROG_LOAD op 0: version limit, then the image, then the PROGRAM record; the program is on flash at completion. -/
def progLoad (x : Cmd) (s : State) : Res State :=
  if s.progs.length ≥ 256 then failPlain stVersionLimit s
  else
    let n := cf x 24 4
    andThen (readBuf x (cf x 16 8) n s) (fun img s =>
      if n ≠ 64 + 64 * progSteps img then failAt x stBadField 24 s
      else
        match badProg s (domOf s x) img with
        | some (off, foreign) => .fail (if foreign then stDomain else stBadField) (some (imageFault x (cf x 16 8 + off))) s
        | none =>
          let held := s.progs.map Prod.fst ++ retiring s
          let v := leastFree held (held.length + 1) 0
          let p : Prog := { domain := domOf s x, image := img, batch := 0, lost := none }
          andThen (journalCmd x 0x30 0xFFFF (.program v (some p)) 64 s) (fun seq s =>
            let s := { s with progs := tset s.progs v p }
            .ok (finishJournaled x.id seq true (fun y => { y with result := v }) s) s))

/-- PROG_LOAD_LOAD. -/
def execProgLoadLoad (c : Nat) (s : State) : Host.Outcome State Fault Refusal :=
  .next (drainAll (match running s c 0x41 with
    | some x => if cf x 28 1 = 0 ∧ x.work = .none then settle c (progLoad x s) else s
    | none => s))

/-- PROG_LOAD op 1: the version exists, belongs to the domain unless D0 asks, and no collection holds it. -/
def progRetire (x : Cmd) (s : State) : Res State :=
  let v := cf x 30 2
  match tget s.progs v with
  | none => failAt x stBadField 30 s
  | some p =>
    if domOf s x ≠ 0 ∧ p.domain ≠ domOf s x then failAt x stDomain 30 s
    else if s.colls.any (fun k => k.2.encVersion = v || k.2.encNext = v) then failAt x stBadField 30 s
    else
      andThen (journalCmd x 0x30 0xFFFF (.program v none) 64 s) (fun seq s =>
        .ok (finishJournaled x.id seq false id { s with progs := tdel s.progs v }) s)

/-- PROG_LOAD_RETIRE. -/
def execProgLoadRetire (c : Nat) (s : State) : Host.Outcome State Fault Refusal :=
  .next (drainAll (match running s c 0x41 with
    | some x => if cf x 28 1 = 1 ∧ x.work = .none then settle c (progRetire x s) else s
    | none => s))

/-! ## TABLE_LOAD (R236, R238) -/

def tableLoad (x : Cmd) (s : State) : Res State :=
  let h := cf x 28 2
  let n := cf x 24 4
  let old := tget s.tables h
  if h ≠ 0xFFFF ∧ old.isNone then failAt x stBadField 28 s
  else if h ≠ 0xFFFF ∧ old.any (fun t => t.domain ≠ domOf s x) then failAt x stDomain 28 s
  else if h = 0xFFFF ∧ s.tables.length ≥ 4096 then failPlain stVersionLimit s
  else
    let freed := (old.bind Tbl.pending).map (fun d => d.bytes.length)
    if moduleArea s - freed.getD 0 + n > 6 * 2 ^ 30 then failPlain stTierFull s
    else
      andThen (readBuf x (cf x 16 8) n s) (fun bs s =>
        if crc32c bs ≠ cf x 44 4 then failAt x stBadField 44 s
        else
          let k := if h = 0xFFFF then leastFree (s.tables.map Prod.fst) 4097 0 else h
          let d : TblData := { kind := cf x 30 1, fmt := cf x 31 1, rows := cf x 32 4, cols := cf x 36 4, scale := cf x 40 1,
                               tscale := cf x 41 1, bytes := bs }
          let t : Tbl := old.getD { domain := domOf s x, current := none, pending := none, earlier := [], gen := 0, paused := false,
                                    failed := 0, cluster := 0, lost := none }
          let t := { t with pending := some d }
          andThen (journalCmd x 0x31 0xFFFF (.table k (some { t with earlier := [] })) 64 s) (fun seq s =>
            let s := { s with tables := tset s.tables k t }
            .ok (finishJournaled x.id seq true (fun y => { y with result := k }) s) s))

/-- TABLE_LOAD (R236). -/
def execTableLoad (c : Nat) (s : State) : Host.Outcome State Fault Refusal :=
  .next (drainAll (match running s c 0x42 with
    | some x => if x.work = .none then settle c (tableLoad x s) else s
    | none => s))

/-! ## TABLE_SWAP (R237, R265) -/

/-- Begin a barrier; its number. -/
def beginBarrier (table : Bool) (on : Nat) (s : State) : Nat × State :=
  let n := s.chn.nextBarrier
  (n, { s with chn := { s.chn with nextBarrier := n + 1,
                                   barriers := s.chn.barriers ++ [{ no := n, table := table, on := on, began := s.now }] } })

/-- Node numbers of an ENTRY_SET table. -/
def entryNodes (d : TblData) : List Nat := (List.range d.rows).map (fun i => fld d.bytes (4 * i) 4)

/-- A table whose pending version `d` becomes current. -/
def swapped (d : TblData) (t : Tbl) : Tbl :=
  { t with current := some d, pending := none, gen := (t.gen + 1) % 2 ^ 32, paused := false, lost := none }

/-- The commands that run under a table's current version: those in execution on a collection that uses it, or with a program
that names it (R237). -/
def tableUsers (s : State) (h : Nat) : List Nat :=
  (s.cmds.filter (fun x => x.phase = .executing
    && ((namesColl x && ((tget s.colls (cColl x)).any (collUses s h) || x.view.any (collUses s h)))
        || x.images.any (fun p => h ∈ progTables p.2)))).map (·.id)

/-- The version that a swap replaces is kept for the commands that run under it (R237). -/
def keepVersion (users : List Nat) (old new : Tbl) : Tbl :=
  match old.current, users with
  | some d, _ :: _ => { new with earlier := old.earlier ++ [{ data := d, users := users }] }
  | _, _ => { new with earlier := old.earlier }

/-- The pending version becomes current; the generation rises, an entry set takes effect for its collection, and a paused
or lost version is replaced (R156, R237, R432). -/
def swapTable (h : Nat) (d : TblData) (s : State) : State :=
  let s := { s with tables := tmod s.tables h (fun t => keepVersion (tableUsers s h) t (swapped d t)) }
  { s with colls := s.colls.map (fun p =>
      if p.2.entryTbl = h then (p.1, { p.2 with arr := { p.2.arr with entrySet := entryNodes d } }) else p) }

def tableSwap (x : Cmd) (s : State) : Res State :=
  let h := cf x 16 2
  match tget s.tables h with
  | none => failAt x stBadField 16 s
  | some t =>
    if t.domain ≠ domOf s x then failAt x stDomain 16 s
    else
      match t.pending with
      | none => failAt x stBadField 16 s
      | some d =>
        if tableLocked s h then failAt x stBadField 16 s
        else if !poolFits s h d then failPlain stTierFull s
        else
          andThen (journalCmd x 0x31 0xFFFF (.table h (some { swapped d t with earlier := [] })) 64 s) (fun seq s =>
            let (b, s) := beginBarrier true h s
            let s := advanceEpoch (swapTable h d s)
            let g := ((tget s.tables h).map Tbl.gen).getD 0
            let s := raiseTable .bell (fun dom => mkEv 0x0090 0 .bell x.home dom 0 h g 0) h s
            .ok (cmdMod x.id (fun y => { y with result := g, jseq := seq, journaled := true, work := .wait 1 b }) s) s)

/-- TABLE_SWAP (R237). -/
def execTableSwap (c : Nat) (s : State) : Host.Outcome State Fault Refusal :=
  .next (drainAll (match running s c 0x43 with
    | some x => if x.work = .none then settle c (tableSwap x s) else s
    | none => s))

/-- BARRIER_ACKNOWLEDGED (R265): all 32 engines have acknowledged; held prologues may issue, and the swap or commit that
took the barrier completes. -/
def barrierAcked (b : Nat) (s : State) : State :=
  if s.chn.barriers.any (fun x => x.no = b) then
    let s := { s with chn := { s.chn with barriers := s.chn.barriers.filter (fun x => x.no ≠ b) } }
    { s with cmds := s.cmds.map (fun x =>
        if x.work = .wait 1 b then
          (if s.bag.writeThrough && x.journaled && !onFlash s x.jseq then { x with work := .wait 3 x.jseq }
           else { x with phase := .finished, work := .none })
        else x) }
  else s

def execBarrierAcknowledged (b : Nat) (s : State) : Host.Outcome State Fault Refusal :=
  .next (drainAll (barrierAcked b s))

/-- A barrier that began before the command was admitted stands on its collection or on one of its tables (R265). -/
def barred (s : State) (x : Cmd) : Bool :=
  s.chn.barriers.any (fun b => b.no < x.afterBarrier &&
    (if b.table then (tget s.colls (cColl x)).any (collUses s b.on) && namesColl x else namesColl x && b.on = cColl x))

/-! ## ENCODE (R242) -/

/-- The collection as it stood when the command was admitted. -/
def viewOf (s : State) (x : Cmd) : Option Coll :=
  match x.view with
  | some c => some c
  | none => tget s.colls (cColl x)

/-- Buffers that a choice of outputs asks for: bit 0 CODE, bit 1 RERANK. -/
def outBufs (img : List Byte) (outputs : Nat) : List Nat :=
  (if bit outputs 0 then [progCodeBuf img] else []) ++ (if bit outputs 1 then [progRerankBuf img] else [])

/-- Read a source vector that stands at an address, and at byte `off` of its command's source stream. One that arrives with
poison goes on to its consumers with the address of the word (R211, R271); a NaN or infinite element fails the command (R229). -/
def readSource (x : Cmd) (fmt dim va off : Nat) (s : State) : Res EncVec :=
  let n := dim * (if fmt ≤ 1 then 2 else 1)
  andThen (readDev (whoOf s x) va n s) (fun r s =>
    match (match r.poison with
        | some a => some a
        | none => (markedIn x.id off n s).map (va + ·)) with
    | some a => .ok (encVec fmt dim r.bytes (some a)) s
    | none =>
      match badElem fmt dim r.bytes with
      | some i => .fail stBadField (some (devFault (blkPage .bell x.home) 1 (va + i * (if fmt ≤ 1 then 2 else 1)) 0)) s
      | none => .ok (encVec fmt dim r.bytes) s)

/-- Read `n` sources `stride` bytes apart; `off` is where the first stands in the source stream. -/
def readSources (x : Cmd) (fmt dim stride : Nat) : Nat → Nat → Nat → State → Res (List EncVec)
  | 0, _, _, s => .ok [] s
  | n + 1, va, off, s =>
    andThen (readSource x fmt dim va off s) (fun v s =>
      andThen (readSources x fmt dim stride n (va + stride) (off + dim * (if fmt ≤ 1 then 2 else 1)) s) (fun vs s => .ok (v :: vs) s))

/-- The vectors of a command in batches of up to 256, each of which takes the next batch number of the program version (R240,
R510). -/
def encBatches (x : Cmd) (version : Nat) (bufs : List Nat) (vs : List EncVec) (s : State) : List Enc × State :=
  let img := imageOf s x version
  let n := ((tget s.progs version).map Prog.batch).getD 0
  let bs := chunks 256 (vs.length / 256 + 1) vs
  let es := (List.range bs.length).map (fun k => encStart version img (n + k) (x.home / 8) bufs (bs.getD k []))
  (es, takeBatch version vs.length (countBell x.home vs (es.flatMap Enc.vecs) s))

/-- Vectors whose program has no MATMUL and so carry their poison to Bell's own steps: the address of the first. -/
def bellMarked (es : List Enc) : Option Nat :=
  es.findSome? (fun e => if encDone e then e.vecs.findSome? EncVec.poison else none)

/-- A status word (Table 8.8) of vector `j`. -/
def statusWord (j : Nat) (v : EncVec) : List Byte :=
  leBytes 1 v.flags.toNat ++ leBytes 2 v.flagged ++ leBytes 1 v.firstPart ++ leBytes 2 0 ++ leBytes 2 j

/-- Offset of a rerank block in an output (R242). -/
def rerankOff (l outputs : Nat) : Nat := if bit outputs 0 then (l / 8 + 63) / 64 * 64 else 0

/-- Write the outputs of vector `j` on. -/
def writeEncoded (x : Cmd) (img : List Byte) : Nat → List EncVec → State → Res Unit
  | _, [], s => .ok () s
  | j, v :: t, s =>
    let w := whoOf s x
    let s := produce x.id portHost (cf x 48 4) s
    let out := cf x 24 8 + j * cf x 48 4
    let o := cf x 53 1
    let l := progBits img
    andThen (if bit o 0 then writeDev w out (leBytes (l / 8) (vecCode img v)) s else .ok () s) (fun _ s =>
    andThen (if bit o 1 then writeDev w (out + rerankOff l o) (rerankBlock (vecRerank img v)) s else .ok () s) (fun _ s =>
    andThen (if cf x 32 8 ≠ 0 then writeDev w (cf x 32 8 + 8 * j) (statusWord j v) s else .ok () s) (fun _ s =>
      writeEncoded x img (j + 1) t s)))

/-- An encode is complete: the outputs are written and the command finished. -/
def encodeEnd (x : Cmd) (es : List Enc) (s : State) : Res State :=
  let vs := es.flatMap Enc.vecs
  andThen (writeEncoded x ((es.head?.map Enc.img).getD []) 0 vs s) (fun _ s =>
    done x.id (fun y => { y with result := cf x 40 4, arith := vs.any (fun v => v.flags ≠ 0) }) (endStage x.id 7 s))

/-- The version that an ENCODE runs under. -/
def encodeVersion (x : Cmd) (c : Coll) : Nat := if cf x 52 1 = 1 then c.encNext else c.encVersion

/-- A command needs a program whose image is lost: MEDIA_LOST with the media address, reported by Bag. -/
def mediaLost (media : Nat) (s : State) : Res State :=
  .fail stMediaLost (some { page := blkPage .bag 0, bit := 2, addr := BitVec.ofNat 64 media, info := 0 }) s

/-- Lost image or table of a program version. -/
def progLost (s : State) (v : Nat) : Option Nat :=
  match tget s.progs v with
  | none => none
  | some p => match p.lost with
    | some a => some a
    | none => (progTables p.image).findSome? (fun h => (tget s.tables h).bind Tbl.lost)

def encodeStart (x : Cmd) (c : Coll) (s : State) : Res State :=
  let v := encodeVersion x c
  match progLost s v with
  | some a => mediaLost a s
  | none =>
    andThen (readSources x c.srcFormat c.srcDim (cf x 44 4) (cf x 40 4) (cf x 16 8) 0 s) (fun vs s =>
      let (es, s) := encBatches x v (outBufs (imageOf s x v) (cf x 53 1)) vs (endStage x.id 2 (consumeRings x.id s))
      let s := setWork x.id (.encode es) s
      match bellMarked es with
      | some _ => .ok (bellPoison x (headSlot x.id s) s) s
      | none => .ok (if es.all encDone then settle x.id (encodeEnd x es s) else s) s)

/-- ENCODE (R242). -/
def execEncode (c : Nat) (s : State) : Host.Outcome State Fault Refusal :=
  .next (drainAll (match running s c 0x40 with
    | some x =>
      match x.work, viewOf s x with
      | .none, some k => if barred s x then s else unlessPoison x s (settle c (encodeStart x k s))
      | .encode es, _ => if es.all encDone then settle c (encodeEnd x es s) else s
      | _, _ => s
    | none => s))

end Sys2Proof.Machine
end

