-- ==== Sys2Proof/Machine/Arrays.lean ====
section
/-! DEFINITION. What Bore's arrays hold and count: accumulators, their sets and lanes (R203, R204), the events of a region (R210)
and the centroid probes (R129, R189). -/

namespace Sys2Proof.Machine

/-- MACs of a cell per event (Table 8.4). -/
def macsPerEvent (a b : Nat) : Nat := if a ≥ 2 ∨ b ≥ 2 then 1 else if a = 0 ∧ b = 0 then 16 else 4

/-- Output regions of a shape in progress on one array, computing and draining (Table 8.10). -/
def regionsInProgress (shape : Nat) (double lanes : Bool) : Nat × Nat :=
  let (r, c) := shapeDims shape
  let n := 256 / r * (256 / c) * (if lanes then 2 else 1)
  if double then (2 * n, 0) else (n, n)

/-- Key of a cell in `State.accs`: cluster, set, row and column. -/
def cellKey (cl k row col : Nat) : Nat := cl * 2 ^ 17 + k * 2 ^ 16 + row * 256 + col

/-- Set `k` of cluster `cl` holds `cells` (row, column, accumulator) and no others. -/
def putAccs (cl k : Nat) (cells : List (Nat × Nat × Acc)) (s : State) : State :=
  let base := cellKey cl k 0 0
  let rest := s.accs.filter (fun p => !(base ≤ p.1 && p.1 < base + 2 ^ 16))
  { s with accs := cells.foldl (fun t c => if c.2.2 = accClear then t else tset t (cellKey cl k c.1 c.2.1) c.2.2) rest,
           accSet := tset s.accSet cl k }

/-- The accumulators of slice `sl`: rows of the slice by vectors of the batch. -/
def sliceCells (sl : Nat) (f : List Acc → Acc) (vs : List EncVec) : List (Nat × Nat × Acc) :=
  (List.range (min 256 vs.length)).flatMap (fun j =>
    let ps := ((vs[j]?).map EncVec.parts).getD []
    (List.range (min 256 (ps.length - 256 * sl))).map (fun r => (r, j, f (ps.getD (256 * sl + r) []))))

/-- A step's regions use both sets (acc_use bit 0, Table 8.3). -/
def usesDouble (img : List Byte) (i : Nat) : Bool := bit (stepFld img i 22 1) 0

/-- Under DOUBLE the column regions of a slice, which share the row operand, take the two sets by turns: region q is in set
q mod 2 and in the columns of region q div 2. -/
def doubleCells (c k : Nat) (cells : List (Nat × Nat × Acc)) : List (Nat × Nat × Acc) :=
  (cells.filter (fun a => a.2.1 / c % 2 = k)).map (fun a => (a.1, a.2.1 / c / 2 * c + a.2.1 % c, a.2.2))

/-- What the arrays of clusters `cl` hold once the regions of step `i` have been computed, or, with `combined`, once their parts
have been added on the clusters of part 0. Under OVERLAP a new region uses the other set (R203). -/
def noteAccs (img : List Byte) (i : Nat) (cl : List Nat) (combined : Bool) (vs : List EncVec) (s : State) : State :=
  (List.range cl.length).foldl (fun s sl =>
    let c := cl.getD sl 0
    let s := { s with parityCells := s.parityCells.filter (fun p => p / 65536 ≠ c) }
    let cells := sliceCells sl (if combined then accCombineAll else fun ps => ps.headD accClear) vs
    if usesDouble img i then
      let w := (stepShape img i).2
      putAccs c 0 (doubleCells w 0 cells) (putAccs c 1 (doubleCells w 1 cells) s)
    else
      let k := (tget s.accSet c).getD 1
      putAccs c (if combined then k else 1 - k) cells s) s

/-- Events of a region of `r` rows and `c` columns: it fills, then computes for K / m events, at the cells' whole rate or, where
`share` regions compute on the same cells, at a part of it (R204, R210). -/
def regionEvents (r c k m share : Nat) : Nat := r + c - 2 + k / max 1 m * share

/-- Array events with a region computing (BORE_EVENTS): the regions of a slice run side by side on different cells, or by turns
on the same cells under DOUBLE; each part of a split step is a region of its own. -/
def countEvents (img : List Byte) (i : Nat) (cl : List Nat) (vecs : Nat) (s : State) : State :=
  let (r, c) := stepShape img i
  let k := stepFld img i 24 4 / stepParts img i
  let share := if usesDouble img i && vecs > c then 2 else 1
  (List.range cl.length).foldl (fun s sl =>
    bumpWrap (reg .bore (cl.getD sl 0) 0x120) 0 64
      (regionEvents (min r (sliceRows img i sl)) (min c vecs) k (macsPerEvent (stepFld img i 16 1) (stepFld img i 17 1)) share) s) s

/-! ## Centroid probes (R129, R189) -/

/-- The accumulators of a probe: centroid rows by queries. Output regions of 256 rows go in pairs into the two lanes of the same
cells (R204). -/
def probeCells (l : Nat) (cents qs : List Nat) : List (Nat × Nat × Acc) :=
  (List.range (min 256 cents.length)).flatMap (fun r => (List.range (min 256 qs.length)).map (fun j =>
    let at_ := fun (i : Nat) => match cents[i]? with
      | some c => probeAcc l c (qs.getD j 0)
      | none => accClear
    (r, j, accLanes (at_ r) (at_ (r + 256)))))

/-- Bore scores queries against a centroid table on cluster `cl`: regions, rows and events, and the accumulators of the last
pair of regions. -/
def countProbe (cl l : Nat) (cents qs : List Nat) (s : State) : State :=
  let n := (cents.length + 255) / 256
  let s := bumpWrap (reg .bore cl 0x128) 0 32 n (bumpWrap (reg .bell cl 0x100) 0 64 cents.length s)
  let s := bumpWrap (reg .bore cl 0x120) 0 64 ((n + 1) / 2 * regionEvents (min 256 cents.length) (min 256 qs.length) l 16 2) s
  putAccs cl (1 - (tget s.accSet cl).getD 1) (probeCells l (cents.drop ((n - 1) / 2 * 512)) qs) s

end Sys2Proof.Machine
end

