-- ==== Sys2Proof/Machine/Plan.lean ====
section
/-! DEFINITION. What admission computes (R100): the work a command puts on each ledger resource, its fixed floor, its
energy (R416), and the rings, contexts and spill buffers it needs (R147, R173, R261). -/

namespace Sys2Proof.Machine

/-! ## Body fields of a search -/

/-- The fields of a search body, by whatever opcode. -/
structure SParams where
  query   : Nat
  result  : Nat
  filter  : Nat
  rq      : Nat
  k       : Nat
  rerankN : Nat
  key     : Nat
  source  : Bool
  maxDist : Nat
  count   : Nat
  qStride : Nat
  rStride : Nat

def sparams (x : Cmd) : SParams :=
  if cOp x = 0x31 then
    { query := cf x 16 8, result := cf x 24 8, filter := cf x 32 8, rq := cf x 40 8, k := cf x 48 4, rerankN := cf x 52 2,
      key := cf x 54 1, source := cf x 55 1 = 1, maxDist := cf x 60 2, count := 1, qStride := 0, rStride := 0 }
  else
    let batch := cOp x = 0x33
    { query := cf x 16 8, result := cf x 24 8, filter := cf x 32 8, rq := cf x 48 8, k := cf x 56 4, rerankN := cf x 64 2,
      key := cf x 66 1, source := cf x 63 1 = 1, maxDist := cf x 68 2, count := if batch then cf x 72 2 else 1,
      qStride := if batch then cf x 76 4 else 0, rStride := if batch then cf x 80 4 else 0 }

/-! ## The floor, the cap and the link -/

/-- P_base in W (R416). -/
def pBase (s : State) : Nat := Config.pBase s.blw.rails (s.blw.sense.map Prod.fst) s.blw.asleep.length

/-- The floor in force for admission, in G events/s. -/
def floorRate (s : State) : Rat := (s.blw.floorReg : Rat) / 100

/-- BLW_CAP as it was last written. -/
def capReg (s : State) : Nat := bits (regGet s (reg .blw 0 0x108)).toNat 10 0

/-- The effective cap (R418, R456): the lowest of BLW_CAP less the thermal reduction and the input term. -/
def effCap (s : State) : Nat := min (capReg s - s.blw.thermalCut) s.blw.inputCap

/-- The reservation of admitted bounded commands, W (R416). -/
def pRes (s : State) : Rat := s.cmds.foldl (fun a x => a + x.pres) 0

/-- The link permits bounded admission: x16 at 32 GT/s or more (R64). -/
def linkFull (s : State) : Bool := (regGet s (reg .mpc 0 0x2C0)).getLsbD 18

/-- Voltage of a core rail in mV. -/
def railMv (s : State) (r : Nat) : Rat := (s.blw.rails.getD r 280 : Rat) * 5 / 2

/-- Energy per operation relative to 0.70 V: the square of the highest core rail's ratio (R416; log entry 36). -/
def energyScale (s : State) : Rat :=
  let mv := (List.range 5).foldl (fun m r => max m (railMv s r)) 0
  mv * mv / 490000

/-! ## Work of a command -/

/-- Bytes, events and MACs that a command puts on the resources of Table 4.7. -/
structure Load where
  stack : Table Nat := []
  bulk  : Table Nat := []
  /-- bytes of graph nodes that a walk reads from each stack (R161) -/
  node  : Rat := 0
  /-- walker events on each tower -/
  walk  : Nat := 0
  mac4  : Nat := 0
  mac2  : Nat := 0
  mac1  : Nat := 0
  /-- Bore's charge in sixteenths of a 4-bit MAC: an encode's whole count at the rate of its widest pair (R244) -/
  bore  : Nat := 0
  jrn   : Nat := 0
  hostR : Nat := 0
  hostW : Nat := 0
  fab   : Nat := 0
  reedEv : Nat := 0

def addAt (t : Table Nat) (k n : Nat) : Table Nat := if n = 0 then t else tset t k ((tget t k).getD 0 + n)

/-- Set bits of a 32-bit register field. -/
def unitsIn (s : State) (o : Nat) : Nat := popcount 64 (regGet s o).toNat

/-- Reeds of a group in service. -/
def reedsIn (s : State) (g : Nat) : Nat := unitsIn s (reg .reed g 0x100)

/-- Ports that are up. -/
def portsUp (s : State) : Nat := (s.cst.ports.filter (fun p => p.up)).length

/-- Number of a resource and its unit in the ledgers (WWY_LEDGER_SEL). -/
def ledgerKey (resource unit : Nat) : Nat := resource * 64 + unit

/-- cost_floor of a load on each resource, in floor ns (R100, R137, R161, R244, Table 4.7, R381); bytes are the charged bytes
of Table 10.4 (R254). -/
def loadCosts (s : State) (l : Load) : List (Nat × Rat) :=
  let f := floorRate s
  let cells : Rat := 2097152
  let one := fun (res : Nat) (n : Nat) (rate : Rat) => if n = 0 then [] else [(ledgerKey res 0, (n : Rat) / rate)]
  let scan := fun (n : Nat) => (((tget l.stack n).getD 0 : Nat) : Rat) / min 2000 ((reedsIn s n : Rat) * 64 * f) + l.node / 2000
  ((List.range 12).filter (fun n => (tget l.stack n).isSome || l.node ≠ 0)).map (fun n => (ledgerKey 0 n, scan n))
  ++ l.bulk.map (fun p => (ledgerKey 1 p.1, (p.2 : Rat) / min (768 / 10) ((reedsIn s (12 + p.1 / 16) : Rat) * 64 * f / 16)))
  ++ (if l.walk = 0 then [] else (List.range 4).map (fun t => (ledgerKey 2 t, (l.walk : Rat) / (32 * f))))
  ++ (if l.bore = 0 then [] else [(ledgerKey 3 0, (l.bore : Rat) / (16 * cells * f))])
  ++ one 4 l.jrn 28 ++ one 5 l.hostR 121 ++ one 6 l.hostW 121 ++ one 7 l.fab (100 * portsUp s)

/-- Energy of a load in femtojoules at 0.70 V (Table 16.4). -/
def loadFj (l : Load) : Rat :=
  let sum := fun (t : Table Nat) => (t.foldl (fun a p => a + p.2) 0 : Nat)
  (l.mac4 : Rat) * 825 / 10 + (l.mac2 : Rat) * 206 / 10 + (l.mac1 : Rat) * 52 / 10 + ((sum l.stack : Rat) + 12 * l.node) * 12500
    + (sum l.bulk : Rat) * 34600 + (l.walk : Rat) * 4 * 300000 + (l.reedEv : Rat) * 150000
    + ((l.hostR + l.hostW : Nat) : Rat) * 100000 + (l.jrn : Rat) * 3200000 + (l.fab : Rat) * 120000

/-- What admission needs to know of a command: its load and its fixed_floor in floor ns, the one figure that the path chapters
give for every resource (log entry 98). -/
structure Plan where
  load  : Load
  fixed : Rat

/-! ## Encoding (R244, Table 9.2, Table 9.10) -/

def ceilDiv (n d : Nat) : Nat := (n + d - 1) / d

/-- MACs of the MATMUL steps of a program: 4-bit, 2-bit and binary. -/
def encMacs (s : State) (img : List Byte) (steps : List Nat) : Nat × Nat × Nat :=
  steps.foldl (fun a i =>
    if stepFld img i 0 1 ≠ 2 then a
    else
      let n := stepFld img i 4 4 * ((tget s.tables (stepFld img i 8 2)).bind Tbl.current |>.map TblData.cols).getD 0
      let p := stepFld img i 16 1
      let q := stepFld img i 17 1
      if p ≥ 2 ∨ q ≥ 2 then (a.1 + n, a.2.1, a.2.2) else if p = 0 ∧ q = 0 then (a.1, a.2.1, a.2.2 + n)
      else (a.1, a.2.1 + n, a.2.2)) (0, 0, 0)

/-- Length of the buffer that a step reads. -/
def stepLen (img : List Byte) (i : Nat) : Nat := ((tget (bufKinds img i) (stepFld img i 1 1)).map Prod.snd).getD 0

/-- Bytes broadcast and gathered by the MATMUL steps for one vector. -/
def encWire (img : List Byte) (steps : List Nat) : Nat :=
  steps.foldl (fun a i =>
    if stepFld img i 0 1 ≠ 2 then a
    else a + ceilDiv (stepLen img i * fmtBits (stepFld img i 17 1)) 8 + ceilDiv (stepLen img i) 32 + 4 * stepFld img i 4 4) 0

/-- Floor ns of the steps of a program for one vector, less the Bore terms. -/
def encFloor (s : State) (img : List Byte) (steps : List Nat) : Rat :=
  steps.foldl (fun a i =>
    let n := stepLen img i
    match stepFld img i 0 1 with
    | 1 => a + ((2 * ceilDiv n 256 + 16 : Nat) : Rat) / floorRate s
    | 3 => a + ((2 * ceilDiv n 256 + 48 : Nat) : Rat) / floorRate s
    | _ => a + 500) ((encWire img steps : Rat) * 10 / 896)

/-- Encoding of `count` vectors under a program: MACs and floor ns (R510). -/
def encPlan (s : State) (version : Nat) (bufs : List Nat) (count : Nat) : (Nat × Nat × Nat) × Rat :=
  let img := progImage s version
  let steps := neededSteps img bufs
  let m := encMacs s img steps
  ((m.1 * count, m.2.1 * count, m.2.2 * count),
   encFloor s img steps + ((count - 1 : Nat) : Rat) * ((encWire img steps : Rat) * 10 / 896 + 50))

/-- Add an encode's MACs: the widest of its operand pairs sets the rate at which Bore is charged for all of them (R244). -/
def withMacs (l : Load) (m : Nat × Nat × Nat) : Load :=
  let all := m.1 + m.2.1 + m.2.2
  { l with mac4 := l.mac4 + m.1, mac2 := l.mac2 + m.2.1, mac1 := l.mac1 + m.2.2,
           bore := l.bore + all * (if m.1 ≠ 0 then 16 else if m.2.1 ≠ 0 then 4 else 1) }

/-! ## Partitions (R33) -/

/-- The structures that the collection has: partitions, and a graph. -/
def hasParts (c : Coll) : Bool := c.indexKind ≠ 1 && !(c.building && !c.buildGraph)
def hasGraph (c : Coll) : Bool := c.indexKind ≠ 0 && !(c.building && c.buildGraph)

/-- The lowest index of a code nearest to `code`. -/
def nearestIndex (l code : Nat) (cs : List Nat) : Nat :=
  ((List.range cs.length).foldl (fun (b : Nat × Nat) i =>
    let d := hamming l (cs.getD i 0) code
    if d < b.2 then (i, d) else b) (0, l + 1)).1

/-- The key of the partition an entry is consolidated into (R33). -/
def partKey (c : Coll) (e : Entry) : Nat :=
  match c.partMode with
  | 0 => e.record.tenant
  | 1 => nearestIndex c.codeBits e.code c.centroids
  | _ => 0

/-! ## Searches (R137, R161, R396) -/

/-- Charged bytes of the arrays of `n` entries that a scan reads (R46, R254). -/
def scanCharge (c : Coll) (n : Nat) : Nat := round64 (n * codeStride c) + round64 (32 * n)

/-- Bytes of one granule for each of the slots' tombstones that the log holds: a scan looks them up (R281). -/
def logCharge (c : Coll) (slots : List Nat) : Nat := 64 * (slots.filter (fun sl => (tget c.arr.tombLog sl).isSome)).length

/-- Charged bytes that a search of the side list reads from each stack: the entries of each block with their sequence and slot
numbers, its tombstone word and the log (R136, R280, R281). -/
def sideLoad (h : Nat) (c : Coll) (t : Table Nat) : Table Nat :=
  let bs := chunks 64 (c.arr.side.length / 64 + 1) c.arr.side
  (List.range bs.length).foldl (fun t b =>
    let sl := bs.getD b []
    addAt t ((h + b) % 12) (scanCharge c sl.length + round64 (16 * sl.length) + 64 + logCharge c sl)) t

/-- The pages of the tombstone bitmap that slots lie in, ascending. -/
def bitmapPages (slots : List Nat) : List Nat := slots.foldl (fun a sl => insertNat (sl / 32768) a) []

/-- Charged bytes that a scan of partitions reads: codes and records where they lie, tombstone bits from the fast tier: the
partition's own stack, or for a bulk partition the stack that holds the bitmap page (R119, R136). -/
def partLoad (h : Nat) (c : Coll) (ps : List Part) (l : Load) : Load :=
  ps.foldl (fun l p =>
    let n := p.slots.length
    if p.bulk then
      let per := ceilDiv (scanCharge c n) 16
      { l with bulk := (List.range 16).foldl (fun t i => addAt t (16 * p.place + i) per) l.bulk,
               stack := (bitmapPages p.slots).foldl (fun t q =>
                 let on := p.slots.filter (fun sl => sl / 32768 = q)
                 addAt t ((h + q) % 12) (round64 (ceilDiv on.length 8) + logCharge c on)) l.stack }
    else { l with stack := addAt l.stack p.place (scanCharge c n + round64 (ceilDiv n 8) + logCharge c p.slots) }) l

/-- The partitions with the `n` nearest centroids, ascending by key; the lower index wins a tie (R129, log entry 44). -/
def nearestKeys (c : Coll) (n q : Nat) : List Nat :=
  let ds := (c.arr.parts.map Prod.fst).map (fun i => (hamming c.codeBits (c.centroids.getD i 0) q, i))
  let near := (sortBy (fun (a b : Nat × Nat) => a.1 < b.1 || (a.1 = b.1 && a.2 < b.2)) ds).take n
  near.foldl (fun ks p => insertNat p.2 ks) []

/-- The `n` partitions with the most entries, for a search whose keys admission cannot know (log entry 99). -/
def largestParts (c : Coll) (n : Nat) : List Part :=
  (sortBy (fun (a b : Part) => a.slots.length > b.slots.length) (c.arr.parts.map Prod.snd)).take n

/-- The partitions a flat search will read: all of them, the listed ones, or the nearest to a query code (R127, R137). A host
buffer whose translation Crook does not hold yet, and the code of a SOURCE query, are not known at admission. -/
def plannedParts (s : State) (x : Cmd) (c : Coll) : List Part :=
  let n := cf x 60 2
  let known := fun (va len : Nat) => if x.sub.isSome then none else peekDev (domOf s x) va len s
  match cf x 62 1 with
  | 0 => c.arr.parts.map Prod.snd
  | 1 =>
    match known (cf x 40 8) (4 * n) with
    | some bs => (List.range n).filterMap (fun i => tget c.arr.parts (fld bs (4 * i) 4))
    | none => largestParts c n
  | _ =>
    match (if cf x 63 1 = 1 then none
           else if x.sub.isSome then some (slice x.dataIn 0 (c.codeBits / 8)) else known (cf x 16 8) (c.codeBits / 8)) with
    | some bs => (nearestKeys c n (leNat bs)).filterMap (tget c.arr.parts)
    | none => largestParts c n

/-- Bytes of a query's code block or source, the stride that a batch needs (R44, R134). -/
def queryBytes (c : Coll) (source : Bool) : Nat :=
  if source then srcLen c else if c.encNext = 0xFFFF then c.codeBits / 8 else 512 + c.codeBits / 8

/-- Bytes of a query's rerank blocks (R131). -/
def rqBytes (c : Coll) (source : Bool) : Nat := if source then 0 else if c.encNext = 0xFFFF then 2112 else 4224

/-- Charged bytes of a search's host inputs: queries, rerank blocks, filter and tenant set, probe list (R254). A sub-query
carries its own. -/
def inputCharge (x : Cmd) (c : Coll) (p : SParams) (probes : Nat) : Nat :=
  if x.sub.isSome then 0
  else
    ((List.range p.count).map (fun j => readCharge (p.query + j * p.qStride) (queryBytes c p.source)
      + (if p.rerankN = 0 then 0 else readCharge (p.rq + j * p.rStride) (rqBytes c p.source)))).foldl (· + ·) 0
    + (if p.filter = 0 then 0 else readCharge p.filter 64) + readCharge (cf x 40 8) probes

/-- Charged bytes of a command's result blocks and completion record. -/
def resultCharge (x : Cmd) (p : SParams) (n : Nat) : Nat :=
  (if x.sub.isSome then 0 else ((List.range p.count).map (fun j => writeCharge (p.result + j * n) n)).foldl (· + ·) 0) + 256

def resultBytes (k : Nat) : Nat := (64 + 16 * k + 63) / 64 * 64

/-- Encoding of a search's SOURCE queries under the live versions. -/
def queryEnc (s : State) (c : Coll) (source rerank : Bool) (count : Nat) : (Nat × Nat × Nat) × Rat :=
  if source then
    let one := fun v => encPlan s v (outBufs (progImage s v) (if rerank then 3 else 1)) count
    let a := one c.encVersion
    if c.encNext = 0xFFFF then a
    else
      let b := one c.encNext
      ((a.1.1 + b.1.1, a.1.2.1 + b.1.2.1, a.1.2.2 + b.1.2.2), a.2 + b.2)
  else ((0, 0, 0), 0)

/-- SEARCH_FLAT and SEARCH_BATCH (R137). -/
def planFlat (s : State) (x : Cmd) (c : Coll) : Plan :=
  let p := sparams x
  let ps := plannedParts s x c
  let rn := p.rerankN
  let e := queryEnc s c p.source (rn ≠ 0) p.count
  let n := ps.foldl (fun a p => a + p.slots.length) c.arr.side.length
  let probe := if cf x 62 1 = 2 then c.centroids.length * c.codeBits else 0
  let l : Load := partLoad (cColl x) c ps
    { stack := sideLoad (cColl x) c [], hostR := inputCharge x c p (if cf x 62 1 = 1 then 4 * cf x 60 2 else 0),
      hostW := resultCharge x p (resultBytes p.k), mac4 := p.count * rn * c.codeBits, mac1 := probe,
      bore := 16 * (p.count * rn * c.codeBits) + probe, reedEv := n * (256 + p.count * c.codeBits) / 512 }
  { load := withMacs l e.1,
    fixed := 6000 + (if rn = 0 then 0 else 2500) + (if ps.any (·.bulk) then 700 else 0) + e.2 }

/-- The width, expansions and rounds of a SEARCH_GRAPH with its defaults (Table 6.4). -/
def graphWidth (x : Cmd) : Nat := if cf x 58 1 = 0 then min 32 (cf x 56 2) else cf x 58 1
def graphExp (x : Cmd) : Nat := if cf x 64 4 = 0 then 20 * cf x 56 2 else cf x 64 4

/-- SEARCH_GRAPH (R161); each round reads the patch directory while the collection has patches (R291). -/
def planGraph (s : State) (x : Cmd) (c : Coll) : Plan :=
  let p := sparams x
  let rn := p.rerankN
  let g := c.degree
  let me := graphExp x
  let e := queryEnc s c p.source (rn ≠ 0) 1
  let r := ceilDiv me (graphWidth x)
  let round : Rat := (if c.patches = [] then 1000 else 1600) + ((125 * g : Nat) : Rat) / floorRate s
  let l : Load :=
    { stack := sideLoad (cColl x) c [], node := ((me * (nodeStride c + 32 + c.codeBits / 8) : Nat) : Rat) / 12, walk := me * 125 * g / 4,
      hostR := inputCharge x c p 0, hostW := resultCharge x p (resultBytes p.k), mac4 := rn * c.codeBits,
      bore := 16 * (rn * c.codeBits), reedEv := c.arr.side.length * (256 + c.codeBits) / 512 }
  { load := withMacs l e.1,
    fixed := 8000 + (if rn = 0 then 0 else 2500) + e.2 + ((r + 1 : Nat) : Rat) * round }

/-- rtt_budget of CST_FANOUT in ns (R396). -/
def rttBudget (s : State) : Nat := bits (regGet s (reg .cst 12 0x150)).toNat 25 16 * 1000

/-- Shards of a list that lie behind the fabric; this module's own takes no part of it (Table 15.3). -/
def remoteShards (bs : List Byte) (n : Nat) : Nat := ((List.range n).filter (fun i => fld bs (16 * i) 2 ≠ 0xFFFF)).length

/-- SEARCH_FANOUT (R396): the sub-queries and results on the fabric; sizes as the wire has them (log entry 38). -/
def planFanout (s : State) (x : Cmd) (c : Coll) : Plan :=
  let n := cf x 72 2
  let far := match peekDev (domOf s x) (cf x 48 8) (16 * n) s with
    | some bs => remoteShards bs n
    | none => n
  let ps := peekDev (domOf s x) (cf x 64 8) 128 s
  let flat := cf x 74 1 = 0
  let k := match ps with
    | some bs => if flat then max (fld bs 8 4) (fld bs 16 2) else max (fld bs 0 4) (fld bs 4 2)
    | none => 1024
  let source := ps.any (fun bs => (if flat then fld bs 15 1 else fld bs 7 1) = 1)
  let rerank := ps.all (fun bs => (if flat then fld bs 16 2 else fld bs 4 2) ≠ 0)
  let e := queryEnc s c source rerank 1
  let q := queryBytes c source
  let l : Load :=
    { fab := far * (512 + q + (if rerank then rqBytes c false else 0) + 64 + 32 * min k 1024),
      hostR := readCharge (cf x 16 8) q + (if rerank && !source then readCharge (cf x 40 8) (rqBytes c false) else 0)
        + (if cf x 32 8 = 0 then 0 else readCharge (cf x 32 8) 64) + readCharge (cf x 48 8) (16 * n) + readCharge (cf x 64 8) 128,
      hostW := writeCharge (cf x 24 8) (resultBytes (min k 1024)) + (if cf x 56 8 = 0 then 0 else writeCharge (cf x 56 8) (16 * n)) + 256 }
  { load := withMacs l e.1, fixed := (rttBudget s : Rat) + 3000 + e.2 }

/-! ## Other commands (R244, R508, Table 4.12) -/

/-- Entries that READ_DEFERRED would write now. -/
def deferredDue (s : State) (x : Cmd) : Nat :=
  let q := cf x 28 2
  min (cf x 24 4) ((((tget s.domains (domOf s x)).map Domain.deferred).getD []).filter (fun e => q = 0xFFFF || e.queue = q)).length

/-- Log records that a READ_LOG of a domain takes from a log. -/
def logDue (x : Cmd) (d : Nat) (log : List Ev) : List Ev :=
  log.filter (fun e => e.seq ≥ cf x 28 8 && e.sev ≥ cf x 36 1 && (d = 0 || e.dom = d || e.dom = 0xFFFF))

/-- The log that a READ_LOG reads. -/
def logRead (s : State) (x : Cmd) : List Ev := if cf x 37 1 = 0 then s.chn.recent else s.chn.persistent

/-- Where and how many bytes a command of Table 4.12 writes to the host. -/
def hostOut (s : State) (x : Cmd) : Nat × Nat :=
  match cOp x with
  | 0x10 => (cf x 16 8, 2)
  | 0x12 => (cf x 16 8, 128)
  | 0x50 => if cf x 16 1 = 3 then (cf x 32 8, 64) else (0, 0)
  | 0x70 => (cf x 16 8, 32 + 32 * deferredDue s x)
  | 0x71 => (cf x 16 8, 64 + 64 * min (cf x 24 4) (logDue x (domOf s x) (logRead s x)).length)
  | 0x7F =>
    match cSub x with
    | 0x0B => (cf x 16 8, 64)
    | 0x23 => (cf x 24 8, 64 * (if cf x 16 2 = 0xFFFF then s.domains.length else 1))
    | 0x24 => (cf x 24 8, 64)
    | _ => (0, 0)
  | _ => (0, 0)

/-- Bytes of the journal record that a command of Table 4.12 writes. -/
def journalOut (x : Cmd) : Nat :=
  match cOp x with
  | 0x10 => recordSize 128
  | 0x22 | 0x25 => 64
  | 0x11 | 0x13 | 0x43 | 0x51 | 0x70 => 128
  | 0x50 => if cf x 16 1 = 2 then 128 else 0
  | 0x7F => if 1 ≤ cSub x && cSub x ≤ 2 then 128 else 0
  | _ => 0

/-- fixed_floor of Table 4.12 in ns; NOP, COLL_QUERY, the ADMIN sub-opcodes it does not name, READ_DEFERRED and READ_LOG add
the bytes they write to the host. -/
def fixedOther (s : State) (x : Cmd) : Rat :=
  let out : Rat := ((hostOut s x).2 : Rat) / 121
  match cOp x with
  | 0x70 | 0x71 => 1000 + out
  | 0x61 => 1000
  | 0x22 | 0x11 | 0x13 | 0x50 | 0x51 | 0x52 => 3000
  | 0x25 => 3500
  | 0x24 => if bit (cf x 24 1) 2 then 153000 else 3000
  | 0x10 => 4000
  | 0x43 => 4500
  | 0x7F => if cSub x ≤ 2 then 3000 else 450 + out
  | _ => 450 + out

/-- Charged bytes of the appended entries on each stack: code, record, sequence and slot numbers of each place (R254, R280). -/
def appendCharge (h n : Nat) (c : Coll) : Table Nat :=
  (List.range n).foldl (fun t j =>
    let i := c.arr.side.length + j
    let b := c.codeBits / 8
    addAt t ((h + i / 64) % 12) (charge (portStack 0) (i % 64 * b) b true + charge (portStack 0) (32 * (i % 64)) 32 true
      + charge (portStack 0) (16 * (i % 64)) 16 true)) []

/-- Charged bytes of a tombstone: its word of the bitmap and its entry of the log, each a part of a granule (R48, R281). -/
def tombCharge : Nat := 256

/-- INSERT, UPSERT, INSERT_BATCH, IMPORT: the path of Table 9.10 less the Bore terms (R244). -/
def planInsert (s : State) (x : Cmd) (c : Coll) (count : Nat) : Plan :=
  let v := if c.migrating then c.encNext else c.encVersion
  let e := encPlan s v (outBufs (progImage s v) 1) count
  let b := srcLen c
  let h := cColl x
  let list := cOp x ≠ 0x20 && cOp x ≠ 0x23 || bit (cf x 24 1) 0
  let own := addAt (appendCharge h count c) (h % 12) (if cOp x = 0x23 then tombCharge else 0)
  let l : Load :=
    { jrn := count * recordSize b, stack := own,
      hostR := (if list then readCharge 0 (if cOp x = 0x54 then cf x 24 8 else count * b) else readCharge (cf x 16 8) b)
        + (if cOp x = 0x21 then readCharge (cf x 24 8) (32 * count) else 0),
      hostW := 256 + (if (cOp x = 0x21 || cOp x = 0x54) && cf x 32 8 ≠ 0 then writeCharge (cf x 32 8) (16 * count) else 0) }
  { load := withMacs l e.1, fixed := 250 + 1680 + (b : Rat) / 121 + e.2 + 900 }

/-- ENCODE (R244). -/
def planEncode (s : State) (x : Cmd) (c : Coll) : Plan :=
  let v := encodeVersion x c
  let n := cf x 40 4
  let e := encPlan s v (outBufs (progImage s v) (cf x 53 1)) n
  let each := fun (f : Nat → Nat) => ((List.range n).map f).foldl (· + ·) 0
  let l : Load :=
    { hostR := each (fun j => readCharge (cf x 16 8 + j * cf x 44 4) (srcLen c)),
      hostW := each (fun j => writeCharge (cf x 24 8 + j * cf x 48 4) (cf x 48 4)) + 256
        + (if cf x 32 8 = 0 then 0 else writeCharge (cf x 32 8) (8 * n)) }
  { load := withMacs l e.1, fixed := 250 + 1680 + (srcLen c : Rat) / 121 + e.2 + 450 }

/-- RERANK: n × L MACs and n × (L/8 + 32) bytes of the stacks (R244). -/
def planRerank (x : Cmd) (c : Coll) : Plan :=
  let n := cf x 52 4
  let per : Rat := ((n * entryBytes c : Nat) : Rat) / 12
  { load := { mac4 := n * c.codeBits, bore := 16 * (n * c.codeBits), node := per,
              hostR := readCharge (cf x 16 8) (rqBytes c false) + readCharge (cf x 32 8) (8 * n)
                + (if cf x 40 8 = 0 then 0 else readCharge (cf x 40 8) (4 * n)),
              hostW := writeCharge (cf x 24 8) (resultBytes (cf x 48 4)) + 256 },
    fixed := 250 + 1680 + 2500 + 1200 + 600 }

/-- LOOKUP: the entry's record and code, and what is asked for of it (R277). -/
def planLookup (s : State) (x : Cmd) (c : Coll) : Plan :=
  let parts := cf x 24 1
  let src := 64 + round64 (c.codeBits / 8)
  { load := { stack := addAt [] (cColl x % 12) (64 + round64 (c.codeBits / 8)),
              hostW := (if bit parts 0 then writeCharge (cf x 16 8) 64 else 0)
                + (if bit parts 1 then writeCharge (cf x 16 8 + 64) (c.codeBits / 8) else 0)
                + (if bit parts 2 then writeCharge (cf x 16 8 + src) (srcLen c) else 0) },
    fixed := fixedOther s x }

/-- A command of Table 4.12: what it writes to the host and the journal, and the fast tier that a mutation of one entry
touches (R508). -/
def planOther (s : State) (x : Cmd) (c : Option Coll) : Plan :=
  let out := hostOut s x
  let h := cColl x
  let tier : Table Nat := match cOp x, c with
    | 0x22, _ => addAt [] (h % 12) tombCharge
    | 0x25, some c => addAt (appendCharge h 1 c) (h % 12) (tombCharge + 64 + round64 (c.codeBits / 8))
    | _, _ => []
  { load := { stack := tier, jrn := journalOut x, hostR := if cOp x = 0x10 then readCharge (cf x 16 8) 128 else 0,
              hostW := writeCharge out.1 out.2 },
    fixed := fixedOther s x }

/-- What a bounded command is planned to do. -/
def planOf (s : State) (x : Cmd) : Plan :=
  match (if namesColl x then tget s.colls (cColl x) else none) with
  | none => planOther s x none
  | some c =>
    match cOp x with
    | 0x30 | 0x33 => planFlat s x c
    | 0x31 => planGraph s x c
    | 0x32 => planFanout s x c
    | 0x20 | 0x23 => planInsert s x c 1
    | 0x21 => planInsert s x c (cf x 40 4)
    | 0x54 => planInsert s x c (max 1 (cf x 24 8 / (64 + round64 (srcLen c))))
    | 0x40 => planEncode s x c
    | 0x34 => planRerank x c
    | 0x24 => planLookup s x c
    | _ => planOther s x (some c)

/-! ## Rings, contexts and buffers -/

/-- Rings of the program steps: two on every cluster other than the home that holds a slice of a step (Table 10.8). An operand
block is 256 rows of the step's input; Bore takes 128 bytes of it in an event and drains 256 FP32 values (R258). -/
def stepRings (s : State) (version home : Nat) (bufs : List Nat) : List RingNeed :=
  let img := progImage s version
  let n := ((tget s.progs version).map Prog.batch).getD 0
  (neededSteps img bufs).flatMap (fun i =>
    if stepFld img i 0 1 ≠ 2 then []
    else
      let row := ceilDiv (stepLen img i * fmtBits (stepFld img i 17 1)) 8
      ((stepClusters img i n (home / 8)).filter (· ≠ home)).flatMap (fun cl =>
        [ { engine := cl, unit := 256 * row, latency := 100, isWrite := false, port := portChest, bytes := 256 * row, rate := 128 },
          { engine := cl, unit := 65536, latency := 100, isWrite := true, port := portChest, bytes := 4 * stepFld img i 4 4, rate := 1024 } ]))

/-- Where a stream of the collection's records comes from: a stack, or a bulk channel when partitions lie there; its design
latency in ns (R255). -/
def tierSource (h : Nat) (c : Coll) : Nat × Nat :=
  match (c.arr.parts.map Prod.snd).find? (·.bulk) with
  | some p => (13 + 16 * p.place, 700)
  | none => (portStack (h % 12), 500)

/-- The rings a fused command needs (Table 10.8). -/
def ringNeeds (s : State) (x : Cmd) (home : Nat) : List RingNeed :=
  let inp := fun (p u lat n : Nat) => ({ engine := home, unit := u, latency := lat, isWrite := false, port := p, bytes := n, rate := 64 } : RingNeed)
  let outp := fun (p u n : Nat) => ({ engine := home, unit := u, latency := 1500, isWrite := true, port := p, bytes := n, rate := 64 } : RingNeed)
  if cOp x = 0x42 ∨ (cOp x = 0x41 ∧ cf x 28 1 = 0) then
    [ inp portHost 16384 1500 (cf x 24 4), { outp portBag 16384 (cf x 24 4) with latency := 100000 } ]
  else
  match (if namesColl x then tget s.colls (cColl x) else none) with
  | none => []
  | some c =>
    let b := srcLen c
    let host := fun (n : Nat) => ({ engine := home, unit := b, latency := 1500, isWrite := false, port := portHost, bytes := n,
                                    rate := 128 * (if c.srcFormat ≤ 1 then 2 else 1) } : RingNeed)
    let steps := fun (v : Nat) (bufs : List Byte → List Nat) => stepRings s v home (bufs (progImage s v))
    let live := if c.migrating then c.encNext else c.encVersion
    let insertRings := fun (n : Nat) =>
      [ host (n * b), outp portBag b (n * recordSize b), outp (portStack ((cColl x) % 12)) 4096 (n * entryBytes c) ]
    let search := fun (source rerank : Bool) =>
      let bufs := fun (img : List Byte) => outBufs img (if rerank then 3 else 1)
      if source then host b :: (steps c.encVersion bufs ++ (if c.encNext = 0xFFFF then [] else steps c.encNext bufs)) else []
    let (tier, wait) := tierSource (cColl x) c
    match cOp x with
    | 0x20 | 0x23 => insertRings 1 ++ steps live (fun img => outBufs img 1)
    | 0x21 => insertRings (cf x 40 4) ++ outp portHost 4096 (16 * cf x 40 4) :: steps live (fun img => outBufs img 1)
    | 0x54 => insertRings 1 ++ outp portHost 4096 4096 :: steps live (fun img => outBufs img 1)
    | 0x40 =>
      [ host (cf x 40 4 * b), outp portHost 4096 (cf x 40 4 * cf x 48 4), outp portHost 4096 (8 * cf x 40 4) ]
        ++ steps (encodeVersion x c) (fun img => outBufs img (cf x 53 1))
    | 0x30 | 0x33 => search (cf x 63 1 = 1) (cf x 64 2 ≠ 0)
    | 0x31 => search (cf x 55 1 = 1) (cf x 52 2 ≠ 0)
    | 0x34 => [ inp portHost 4096 1500 (8 * cf x 52 4), inp tier 4096 wait (cf x 52 4 * entryBytes c), outp portHost 4096 (16 * cf x 48 4) ]
    | 0x53 => [ inp portBag 16384 100000 (cf x 24 8), inp tier 4096 wait (cf x 24 8), outp portHost 4096 (cf x 24 8) ]
    | _ => []

/-- Walker contexts held on a core by searches. -/
def coreHeld (s : State) (k : Nat) : Nat := (s.contexts.filter (fun p => p.1 = k)).length

/-- A walker core is in service: its bit of KWK_CORES (R147). -/
def coreIn (s : State) (k : Nat) : Bool := (regGet s (reg .kwk (k / 32) 0x100)).getLsbD (k % 32)

/-- A core takes new contexts: it neither sleeps nor waits for admission, and its former contexts have moved (R163, R442). -/
def coreTakes (s : State) (k : Nat) : Bool :=
  let u : UnitId := { kind := 4, logical := k }
  u ∉ s.blw.asleep && u ∉ s.chn.returning && (k ∉ s.chn.coresMoving || coreHeld s k = 0)

/-- The first `n` cores of tower `t` with a context free for searches (480 of 512, R146), least loaded first is left open by
the spec and lowest-numbered first is taken (log entry 39). -/
def coresOf (s : State) (t n : Nat) : List Nat :=
  (((List.range 32).map (· + 32 * t)).filter (fun k => coreIn s k && coreHeld s k < 480 && coreTakes s k)).take n

/-- Contexts on each tower: width / 4, rounded up for towers T0 upwards until width is reached. -/
def towerShare (width t : Nat) : Nat := width / 4 + (if t < width % 4 then 1 else 0)

/-- Bytes of walker pool that searches hold on a tower, by their visited space (R147). -/
def poolHeld (s : State) (t : Nat) : Nat := (s.cmds.filter (fun x => x.lead = t)).foldl (fun a x => a + x.pool) 0

/-- The cores of a SEARCH_GRAPH's contexts, or none when a context or walker-pool space is missing. -/
def takeContexts (s : State) (width maxExp degree : Nat) : Option (List Nat) :=
  let ks := (List.range 4).flatMap (fun t => coresOf s t (towerShare width t))
  if ks.length < width || poolHeld s s.nextLead + maxExp * degree * 4 > 64 * 2 ^ 20 then none else some ks

/-- Spill buffers in use on a tower (R173). -/
def spillsHeld (s : State) (t : Nat) : Nat := (s.cmds.map (fun x => (x.spill.filter (· = t)).length)).foldl (· + ·) 0

/-- Tower of a stack and of a bulk place. -/
def towerOfStack (n : Nat) : Nat := n / 3

/-- The towers that hold data of a flat search. -/
def dataTowers (h : Nat) (c : Coll) (ps : List Part) : List Nat :=
  let side := (List.range (min 12 ((c.arr.side.length + 63) / 64))).map (fun b => towerOfStack ((h + b) % 12))
  (ps.map (fun p => if p.bulk then p.place else towerOfStack p.place) ++ side).foldl (fun a t => insertNat t a) []

/-- k_sel of a flat search (R123): rerank_n with rerank, k without. -/
def kSelOf (k rn : Nat) : Nat := if rn = 0 then k else rn

/-- The towers on which a wide search takes spill buffers: those that hold its data, one buffer for each query of a batch on
each (R173; log entry 100). -/
def spillTowers (s : State) (x : Cmd) (c : Coll) : List Nat :=
  let p := sparams x
  if kSelOf p.k p.rerankN ≤ 1024 then []
  else (dataTowers (cColl x) c (plannedParts s x c)).flatMap (List.replicate p.count)

/-- What the command must find free besides rings: contexts of a graph search, spill buffers of a wide flat search. -/
def resourcesFree (s : State) (x : Cmd) : Bool :=
  match tget s.colls (cColl x) with
  | none => true
  | some c =>
    match cOp x with
    | 0x31 => (takeContexts s (graphWidth x) (graphExp x) c.degree).isSome
    | 0x30 | 0x33 =>
      let want := spillTowers s x c
      (List.range 4).all (fun t => (want.filter (· = t)).length = 0 || spillsHeld s t + (want.filter (· = t)).length ≤ 16)
    | _ => true

end Sys2Proof.Machine
end

