-- ==== Sys2Proof/Machine/Start.lean ====
section
/-! DEFINITION. Windway: which queue is eligible (R96), arbitration (R98), the start checks (Table 4.3), admission (R100)
and the scan of waiting commands (R101). -/

namespace Sys2Proof.Machine

/-! ## Eligibility -/

/-- The oldest command of a queue that has not started. -/
def headOf (s : State) (q : Nat) : Option Cmd :=
  s.cmds.find? (fun x => x.queue = q ∧ x.sub.isSome = (q ≥ 32768) ∧ x.phase = .waiting)

/-- An earlier BARRIER of the queue has not completed (R106). -/
def barrierHolds (s : State) (x : Cmd) : Bool :=
  s.cmds.any (fun y => y.queue = x.queue && y.sub.isNone && y.id < x.id && cOp y = 0x03)

/-- A drop of the collection has started and not completed (R108). -/
def dropHolds (s : State) (x : Cmd) : Bool :=
  namesColl x && s.cmds.any (fun y => y.id ≠ x.id && cOp y = 0x11 && cColl y = cColl x && y.phase ≠ .waiting && succeeded y)

/-- The command needs a table version that is paused (R429). -/
def pausedFor (s : State) (x : Cmd) : Bool :=
  namesColl x && cOp x ∈ [0x20, 0x21, 0x23, 0x30, 0x31, 0x32, 0x33, 0x40, 0x54] &&
    (tget s.colls (cColl x)).any (fun c => s.tables.any (fun t => t.2.paused && t.2.lost.isNone && collUses s t.1 c))

/-- The bank holds less than the usable threshold and the journal is not written through: commands that write journal SRAM
do not start (R30, R319), nor do the CONSOLIDATE ops whose commit writes it (R289). -/
def bankHolds (s : State) (x : Cmd) : Bool :=
  (mutating x || (cOp x = 0x50 && cf x 16 1 ≤ 1)) && s.bag.nowMj < 2000 && !s.bag.writeThrough

/-- Commands that hold an execution slot, in all and of a domain (R89). -/
def inExec (s : State) : Nat := (s.cmds.filter (fun x => x.slot)).length
def inExecOf (s : State) (d : Nat) : Nat := (s.cmds.filter (fun x => x.slot ∧ domOf s x = d)).length

/-- The command may start now (R96, R97, R161, R173, R262, R319, R429). -/
def mayStart (s : State) (x : Cmd) : Bool :=
  let d := domOf s x
  !barrierHolds s x && !orderedHolds s x && !dropHolds s x && !pausedFor s x && !bankHolds s x
    && inExecOf s d < ((tget s.domains d).map Domain.quota).getD 0
    && (clsOf s x.queue ≠ 0 || ((tget s.domains d).map Domain.tokens).getD 0 > 0)
    && (match x.work with
        | .wait 8 _ => resourcesFree s x && (reserveAll x.id x.bounded x.id (ringNeeds s x x.home) s).isSome
        | _ => true)

/-- Eligible queues of class `c`, ascending. -/
def eligible (s : State) (c : Nat) : List Nat :=
  if inExec s ≥ 65536 then []
  else (s.queues.filter (fun q => q.2.cls = c ∧ (headOf s q.1).any (mayStart s))).map Prod.fst
    ++ (if (headOf s (32768 + c)).any (mayStart s) then [32768 + c] else [])

/-- The next of an ascending list after `last`, wrapping. -/
def nextAfter (last : Nat) (qs : List Nat) : Option Nat :=
  match qs.find? (fun q => q > last) with
  | some q => some q
  | none => qs.head?

/-! ## Arbitration (R98) -/

def setCls (c : Nat) (f : Cls → Cls) (s : State) : State := { s with classes := s.classes.set c (f (clsData s c)) }

/-- Classes A to D that have an eligible queue. -/
def activeClasses (s : State) : List Nat := [1, 2, 3, 4].filter (fun c => eligible s c ≠ [])

/-- The class with the highest credit, the earlier of a tie. -/
def bestClass (s : State) : List Nat → Option Nat
  | [] => none
  | c :: t => match bestClass s t with
    | none => some c
    | some b => if (clsData s b).credit > (clsData s c).credit then some b else some c

/-- One start decision: the queue picked, and the state with credits and pointers moved. -/
def pickQueue (s : State) : Option (Nat × State) :=
  match nextAfter s.lastUrg (eligible s 0) with
  | some q => some (q, { s with lastUrg := q })
  | none =>
    let act := activeClasses s
    let total : Int := act.foldl (fun a c => a + (clsData s c).weight) 0
    let t := act.foldl (fun t c => setCls c (fun k => { k with credit := k.credit + k.weight }) t) s
    match bestClass t act with
    | none => none
    | some c =>
      match nextAfter (clsData s c).lastServed (eligible s c) with
      | none => none
      | some q => some (q, setCls c (fun k => { k with credit := k.credit - total, lastServed := q }) t)

/-! ## Rights (R34) -/

/-- The right that an opcode needs on a collection: 0 search, 1 LOOKUP, 2 EXPORT; 3 any of the three; 4 ownership. -/
def rightOf (x : Cmd) : Nat :=
  match cOp x with
  | 0x30 | 0x31 | 0x32 | 0x33 | 0x34 | 0x40 => 0
  | 0x24 => 1
  | 0x53 => 2
  | 0x12 => 3
  | _ => 4

/-- The domain holds the right for the command on the collection. The owner holds all. -/
def hasRight (d : Nat) (c : Coll) (x : Cmd) : Bool :=
  let g := (tget c.grants d).getD 0
  d = c.owner || (match rightOf x with
    | 3 => g % 8 ≠ 0
    | 4 => false
    | r => bit g r)

/-! ## Body fields that depend on the collection -/

/-- A program version declares a rerank output; without enc_next only the one in force counts. -/
def rerankOut (s : State) (c : Coll) : Bool :=
  progRerankOut (progImage s c.encVersion) && (c.encNext = 0xFFFF || progRerankOut (progImage s c.encNext))

/-- The first field that breaks a rule of R130, R134, R159, R242 or R243 for the collection (log entry 24). -/
def badForColl (s : State) (x : Cmd) (c : Coll) : Option Nat :=
  let l := c.codeBits
  match cOp x with
  | 0x30 | 0x33 =>
    let mode := cf x 62 1
    let source := cf x 63 1 = 1
    firstBad
      [ (c.indexKind = 1 || (c.indexKind = 2 && c.building && !c.buildGraph), 6),
        ((c.partMode = 2 && mode ≠ 0) || (c.partMode = 0 && mode = 2), 62),
        (source && cf x 64 2 ≠ 0 && !rerankOut s c, 64), (cf x 68 2 ≠ 0xFFFF && cf x 68 2 > l, 68),
        (!source && cf x 70 2 ≠ c.encVersion, 70), (cOp x = 0x33 && cf x 76 4 < queryBytes c source, 76),
        (cOp x = 0x33 && cf x 64 2 ≠ 0 && c.encNext ≠ 0xFFFF && cf x 80 4 < 4224, 80) ]
  | 0x31 =>
    let source := cf x 55 1 = 1
    firstBad
      [ (c.indexKind = 0 || (c.indexKind = 2 && c.building && c.buildGraph), 6),
        (source && cf x 52 2 ≠ 0 && !rerankOut s c, 52), (cf x 60 2 ≠ 0xFFFF && cf x 60 2 > l, 60),
        (!source && cf x 62 2 ≠ c.encVersion, 62), (cf x 70 2 ≠ 0xFFFF && cf x 70 2 > l, 70) ]
  | 0x34 => firstBad [ (cf x 58 2 ≠ c.encVersion, 58) ]
  | 0x40 =>
    let img := progImage s (encodeVersion x c)
    let o := cf x 53 1
    let size := rerankOff l o + (if bit o 1 then 2112 else if bit o 0 then l / 8 else 0)
    firstBad [ (cf x 44 4 < srcLen c, 44), (cf x 48 4 < size, 48), (cf x 52 1 = 1 && !c.migrating, 52),
               (bit o 1 && !progRerankOut img, 53) ]
  | _ => none

/-! ## Start checks and admission -/

/-- What the start checks end in. -/
inductive Start where
  | go
  | fail (status off : Nat)
  | refuse (reason : Nat)
  | hold
deriving DecidableEq, Repr

/-- The opcodes accepted on a fabric-facing queue (R398). -/
def fabricOpcodes : List Nat :=
  [0x01, 0x02, 0x03, 0x12, 0x20, 0x21, 0x22, 0x23, 0x24, 0x25, 0x30, 0x31, 0x33, 0x34, 0x40, 0x70]

/-- Checks 1 to 6 of Table 4.3, with the limit of a fabric-facing queue's opcodes (R398) as the first field check. A
sub-query's fields are checked when it arrives (R391). -/
def startChecks (s : State) (x : Cmd) (bounded : Bool) : Start :=
  let d := domOf s x
  let remote := x.sub.isNone && (tget s.queues x.queue).any Queue.fabric && (badOpcode x).isNone && cOp x ∉ fabricOpcodes
  match (if x.sub.isSome then none else if remote then some (stBadField, 0) else badCommand x bounded) with
  | some (st, o) => .fail st o
  | none =>
    if cOp x = 0x7F ∧ d ≠ 0 then .fail stDomain 0
    else
      let c := tget s.colls (cColl x)
      if namesColl x && c.isNone then .fail stBadField 6
      else if namesColl x && !c.any (fun c => hasRight d c x) then .fail stDomain 6
      else
        match (if namesColl x && x.sub.isNone then c.bind (badForColl s x) else none) with
        | some o => .fail stBadField o
        | none => if s.chn.mode = .hold ∧ !holdAllows x bounded then .hold else .go

/-- Effective deadline in µs, 0 for none (R109, §4.5). -/
def deadlineOf (s : State) (x : Cmd) : Nat :=
  if cDeadline x ≠ 0 ∨ x.sub.isSome then cDeadline x else (clsData s (clsOf s x.queue)).deadlineUs

/-- bounded_share, per mille. -/
def boundedShare (s : State) : Nat := bits (regGet s (reg .wwy 0 0x130)).toNat 41 32

/-- Watts of energy `fj` spent over `ns`. -/
def wattsOf (s : State) (fj ns : Rat) : Rat := fj * energyScale s / ns / 1000000

/-- A unit of the plan sleeps: 5 µs are added to fixed_floor (R420). -/
def sleepFloor (s : State) (home : Nat) : Rat := if tget s.service (sldPage home) = some 1 then 5000 else 0

/-- The time that standing barriers on its table or collection still take is added to fixed_floor: 1.5 µs each from its beginning
(R265). -/
def barrierFloor (s : State) (x : Cmd) : Rat :=
  (s.chn.barriers.filter (fun b => namesColl x &&
    (if b.table then (tget s.colls (cColl x)).any (collUses s b.on) else b.on = cColl x))).foldl
      (fun m b => max m (((b.began + 1500 : Nat) : Rat) - s.now)) 0

/-- The admission checks of R100: the reason of a refusal, or the charges and the part of P_res. -/
def admission (s : State) (p : Plan) (remNs : Int) : Nat ⊕ (List (Nat × Rat) × Rat) :=
  if !linkFull s then .inl 3
  else
    let slack : Rat := (remNs : Rat) - p.fixed
    if slack ≤ 0 then .inl 4
    else
      let costs := loadCosts s p.load
      let ledger := fun (k : Nat) => (tget s.ledgers k).getD 0
      if costs.any (fun c => ledger c.1 + c.2 > (boundedShare s : Rat) / 1000 * slack) then .inl 1
      else
        let w := wattsOf s (loadFj p.load) slack
        if s.blw.floorLost ≠ [] || (pBase s : Rat) + pRes s + w > (effCap s : Rat) then .inl 2
        else .inr (costs, w)

/-- Count a refusal (WWY_REFUSED). -/
def countRefusal (reason : Nat) (s : State) : State :=
  let o := reg .wwy 0 0x138
  match reason with
  | 1 => bumpSat o 0 16 1 s
  | 2 => bumpSat o 16 16 1 s
  | 3 => bumpSat o 32 16 1 s
  | 4 => bumpSat o 48 16 1 s
  | _ => s

/-- A bounded command is refused with a reason (R101). -/
def refuse (c reason : Nat) (s : State) : State :=
  finish c (fun x => { x with status := stRefused, result := reason }) (countRefusal reason s)

/-- Charge the ledgers. -/
def chargeLedgers (cs : List (Nat × Rat)) (s : State) : State :=
  { s with ledgers := cs.foldl (fun t c => tset t c.1 ((tget t c.1).getD 0 + c.2)) s.ledgers }

/-- Commands whose collection is kept as it stood at admission: those with a view, and those that encode under the versions
live at admission (R273). -/
def keepsView (x : Cmd) : Bool := takesView x || cOp x ∈ [0x20, 0x21, 0x23, 0x54, 0x40]

/-- The entries whose slots an earlier commit has dropped although a horizon still sees them: their tombstones lie above it
(R51, R53, R54). -/
def stillSeen (hz : Nat) (c : Coll) : List Entry :=
  ((c.releases.flatMap Release.slots).filterMap (tget c.entries)).filter (fun e =>
    e.seq ≤ hz && (tget c.tombs e.slot).any (fun q => q > hz) && e.slot ∉ c.arr.side && c.arr.parts.all (fun p => e.slot ∉ p.2.slots))

/-- A partition gains a slot. -/
def withSlot (c : Coll) (ps : Table Part) (e : Entry) : Table Part :=
  let k := partKey c e
  let p := (tget ps k).getD { slots := [], bulk := false, place := k % 12, scans := 0, heat := 0 }
  tset ps k { p with slots := insertNat e.slot p.slots }

/-- The view of a command with a horizon: the module keeps what a commit has superseded until every search that can still see it
has completed, so the entries of `stillSeen` stand in their partitions again, or beside the side list where a graph is read
(log entry 109). -/
def viewAt (hz : Nat) (graph : Bool) (c : Coll) : Coll :=
  match stillSeen hz c with
  | [] => c
  | es =>
    if hasParts c && !graph then { c with arr := { c.arr with parts := es.foldl (withSlot c) c.arr.parts } }
    else { c with arr := { c.arr with side := c.arr.side ++ es.map Entry.slot } }

/-- Images of the program versions that a collection names, kept for the commands that encode under them (R177, R273). -/
def liveImages (s : State) (c : Coll) : Table (List Byte) :=
  [c.encVersion, c.encNext].foldl (fun t v => match tget s.progs v with
    | some p => tset t v p.image
    | none => t) []

/-- The records, or deferred entries, that a command covers: those numbered before its start (R107, R115). -/
def startBound (s : State) (x : Cmd) : Nat :=
  if cOp x = 0x02 then s.bag.nextSeq else ((tget s.domains (domOf s x)).map Domain.nextDef).getD 0

/-- The command starts: its view, its horizon and its class's treatment are fixed (R55, R109, R265). -/
def begin_ (x : Cmd) (home : Nat) (bounded : Bool) (charges : List (Nat × Rat)) (pres : Rat) (planned : Nat) (s : State) : State :=
  let c := if namesColl x then tget s.colls (cColl x) else none
  let raised := ((tget s.colls (cColl x)).map Coll.journaled).getD 0
  noteStage x.id 1 <|
  cmdMod x.id (fun y =>
    let hz := if y.raiseHz then max y.horizon raised else y.horizon
    { y with phase := .executing, slot := true, home := home, bounded := bounded, charges := charges,
             pres := pres, planned := planned, deadlineUs := deadlineOf s x, afterBarrier := s.chn.nextBarrier,
             view := if takesView x then c.map (viewAt hz (cOp x = 0x31)) else if keepsView x then c else none,
             images := if keepsView x then (c.map (liveImages s)).getD [] else [],
             epoch := if cOp x ≠ 0x32 then (c.map Coll.viewEpoch).getD 0 else 0,
             horizon := hz, defBound := startBound s x, work := .none }) (chargeLedgers charges s)

/-- The command must wait for rings, staging, contexts or spill buffers (R161, R173, R262). -/
def waitResources (x : Cmd) (home : Nat) (bounded : Bool) (s : State) : State :=
  cmdMod x.id (fun y => { y with home := home, bounded := bounded, deadlineUs := deadlineOf s x,
                                 work := match y.work with | .wait 8 n => .wait 8 n | _ => .wait 8 s.now }) s

/-- Take the walker contexts of a graph search, or the spill buffers of a wide flat search. -/
def takeUnits (x : Cmd) (s : State) : State :=
  match tget s.colls (cColl x) with
  | none => s
  | some c =>
    match cOp x with
    | 0x31 =>
      match takeContexts s (graphWidth x) (graphExp x) c.degree with
      | none => s
      | some ks =>
        let t := cmdMod x.id (fun y => { y with lead := s.nextLead, pool := graphExp x * c.degree * 4 }) s
        { t with contexts := t.contexts ++ ks.map (fun k => (k, x.id)), nextLead := (s.nextLead + 1) % 4 }
    | 0x30 | 0x33 =>
      match spillTowers s x c with
      | [] => s
      | ts => cmdMod x.id (fun y => { y with spill := ts }) s
    | _ => s

/-- Count searches that wait for a spill buffer of a tower (VLV_SPILL waits). -/
def countSpillWait (x : Cmd) (s : State) : State :=
  match tget s.colls (cColl x) with
  | some c =>
    if cOp x = 0x30 ∨ cOp x = 0x33 then
      let want := spillTowers s x c
      ((List.range 4).filter (fun t => t ∈ want && spillsHeld s t + (want.filter (· = t)).length > 16)).foldl (fun s t =>
        (List.range 8).foldl (fun s i => bumpSat (reg .vlv (8 * t + i) 0x110) 32 32 1 s) s) s
    else s
  | none => s

/-- A row repair is pending on a stack or bulk channel that the plan reads: 25 µs are added to fixed_floor (R352). -/
def repairFloor (s : State) (p : Plan) : Rat :=
  let costs := loadCosts s p.load
  if s.rowsMarked.any (fun r => costs.any (fun c => c.1 = r.1 * 64 + r.2.1 && c.2 > 0)) then 25000 else 0

/-- A command that has passed checks 1 to 6 is admitted when its class is bounded, takes its rings and units, and starts;
or it is refused, or it waits. -/
def startGo (x : Cmd) (home : Nat) (bounded : Bool) (s : State) : State :=
  let adm := bounded && !noAdmission x
  let p := planOf s x
  let p := { p with fixed := p.fixed + sleepFloor s home + barrierFloor s x + repairFloor s p }
  let rem : Int := (deadlineOf s x * 1000 : Nat) - ((s.now - x.arrival : Nat) : Int)
  match (if adm then admission s p rem else .inr ([], 0)) with
  | .inl reason => refuse x.id reason s
  | .inr (cs, w) =>
    if !resourcesFree s x then
      if adm && cOp x = 0x31 then
        failCmd x.id stNoContext none (bumpSat (reg .kwk s.nextLead 0x120) 32 32 1 s)
      else waitResources x home adm (countSpillWait x s)
    else
      match reserveAll x.id adm x.id (ringNeeds s x home) s with
      | none => waitResources x home adm s
      | some t =>
        let t := ((ringNeeds s x home).map RingNeed.engine).foldl (fun t e => notePeak e t) t
        let t := if adm then bumpWrap (reg .wwy 0 0x130) 0 32 1 t else t
        begin_ x home adm cs w p.fixed.ceil.toNat (takeUnits x t)

/-- The start of the head of a queue: the checks in order, a translation fault found at queueing after check 6 (R367), then
admission. -/
def startCmd (x : Cmd) (home : Nat) (s : State) : State :=
  let bounded := boundedCls s x.queue
  let x := { x with home := home, bounded := bounded, deadlineUs := deadlineOf s x }
  let s := cmdPut x s
  match startChecks s x bounded with
  | .fail st o => failField x st o s
  | .hold => failCmd x.id stHold none s
  | .refuse r => refuse x.id r s
  | .go =>
    match x.xfault with
    | some (st, va) =>
      -- the fault was latched when it was found
      let f := crkFault (whoOf s x) va st
      finish x.id (fun y => { y with status := xlatStatus st, result := 0, fault := some f,
                                     after := y.after ++ (if st ≥ 0x100 then [] else [faultEvent s x (xlatStatus st) f]) }) s
    | none => startGo x home bounded s

/-- Cluster `n` can be a home: its units are not out of service or in self-test, and its array is not in debug mode (R215). -/
def homeOk (s : State) (n : Nat) : Bool :=
  (match tget s.service (sldPage n) with
   | none => true
   | some k => k ≤ 1) && !(regGet s (reg .bore n 0x138)).getLsbD 0

/-- The units of a cluster hold an epoch below the global one: no bounded command is planned on them (R420). -/
def staleHome (s : State) (n : Nat) : Bool :=
  (tget s.service (sldPage n)).isSome && (regGet s (reg .sld n 0x050)).toNat ≠ s.chn.epoch

/-- START_DECISION (R98): one decision; `home` is the home cluster that Windway chooses (R19). -/
def startDecision (home : Nat) (s : State) : State :=
  let home := home % 32
  if s.chn.quiesced || s.chn.losing || !homeOk s home then s
  else
    match pickQueue s with
    | none => s
    | some (q, t) =>
      match headOf t q with
      | none => s
      | some x =>
        if boundedCls s q && staleHome s home then s
        else
        let u := startCmd x home t
        if (cmdGet u x.id).any (fun y => y.phase = .waiting) then u
        else
          let u := if clsOf t q = 0 then domMod (domOf t x) (fun d => { d with tokens := d.tokens - 1 }) u else u
          bumpWrap (reg .wwy 0 0x150) 0 64 1 u

def execStartDecision (home : Nat) (s : State) : Host.Outcome State Fault Refusal :=
  .next (drainAll (startDecision home s))

/-- URG_TOKEN_BUCKET_FILL (R97): one token, up to urg_burst. -/
def tokenFill (d : Nat) (s : State) : State :=
  domMod d (fun x => { x with tokens := if x.urgRate = 0 then x.tokens else min x.urgBurst (x.tokens + 1) }) s

def execUrgTokenBucketFill (dom : Nat) (s : State) : Host.Outcome State Fault Refusal := .next (tokenFill dom s)

/-- A waiting bounded command whose remaining time is below its smallest fixed_floor (R101). DESIGN CHOICE (log entry 105): a
sub-query, which is admitted as it arrives, and a malformed command, which fails its start checks, are left to their start. -/
def scanRefuses (s : State) (x : Cmd) : Bool :=
  x.phase = .waiting && x.sub.isNone && boundedCls s x.queue && !noAdmission x && (badCommand x true).isNone
    && deadlineOf s x ≠ 0 && (x.arrival + deadlineOf s x * 1000 : Rat) - s.now < (planOf s x).fixed

/-- REFUSAL_SCAN (R101): every such command is refused with reason 4 at once. -/
def refusalScan (s : State) : State :=
  (s.cmds.filter (scanRefuses s)).foldl (fun s x => refuse x.id 4 s) s

def execRefusalScan (s : State) : Host.Outcome State Fault Refusal := .next (refusalScan s)

end Sys2Proof.Machine
end

