-- ==== Sys2Proof/Machine/Mutate.lean ====
section
/-! DEFINITION. Entry mutations (R272 to R283): reading what they carry, their journal writes, and LOOKUP (R277). -/

namespace Sys2Proof.Machine

/-! ## Poisoned words of collection data -/

/-- Item `j` of an array of `len`-byte items, `stride` bytes apart, has bytes in the 64-byte granule in which item `i` begins. -/
def sameGranule (stride len i j : Nat) : Bool :=
  let g := i * stride / 64
  j * stride / 64 ≤ g && 64 * g < j * stride + len

/-- The scan block that holds a slot: whether it is one of the side list, and its slots (R118, R280). -/
def scanBlockOf (c : Coll) (slot : Nat) : Option (Bool × List Nat) :=
  let find := fun (l : List Nat) => (chunks 64 (l.length / 64 + 1) l).find? (fun b => slot ∈ b)
  match find c.arr.side with
  | some b => some (true, b)
  | none => (c.arr.parts.findSome? (fun p => find p.2.slots)).map (fun b => (false, b))

/-- Slot `n`'s word of a kind lies in the same granule, or for a tombstone in the same word of 64 slots, as slot `m`'s, in the
partitions and the side list (R46, R119, R280, R349). -/
def wordShared (c : Coll) (w : DataWord) (m n : Nat) : Bool :=
  m = n || (match w with
    | .tomb | .tombLog => m / 64 = n / 64
    | _ =>
      match scanBlockOf c m with
      | none => false
      | some (side, b) =>
        n ∈ b && (match w with
          | .code => sameGranule (if side then c.codeBits / 8 else codeStride c) (c.codeBits / 8) (b.idxOf m) (b.idxOf n)
          | .record => sameGranule 32 32 (b.idxOf m) (b.idxOf n)
          | .seq => sameGranule 8 8 (b.idxOf m) (b.idxOf n)
          | _ => false))

/-- The field of a node at a byte of it (Table 6.1). -/
def nodeField (c : Coll) (o : Nat) : DataWord :=
  if o < 32 then .record else if o < 32 + c.codeBits / 8 then .code else if o < 32 + c.codeBits / 8 + 4 * c.degree then .links
  else .sketch

/-- The fields of nodes in the granule that holds a byte of a collection's graph area on a stack: node number and field. Node n
lies on stack n mod 12, at byte (n div 12) × S of the area (R143). -/
def granuleFields (c : Coll) (stack byte : Nat) : List (Nat × DataWord) :=
  (List.range 8).map (fun k =>
    let o := byte / 64 * 64 + 8 * k
    (o / nodeStride c * 12 + stack, nodeField c (o % nodeStride c)))

/-- The word of node `n` among `ws` that lies in a poisoned granule. -/
def nodeHit (c : Coll) (p : Poison) (n : Nat) (ws : List DataWord) : Option DataWord :=
  ((granuleFields c p.chan (p.addr - Config.graphBase p.coll p.chan)).find? (fun f => f.1 = n && f.2 ∈ ws)).map Prod.snd

/-- A poisoned granule of the partitions, the side list or the tombstones holds a word among `ws` of a slot. -/
def scanHit (c : Coll) (p : Poison) (slot : Nat) (ws : List DataWord) : Bool := !p.node && p.word ∈ ws && wordShared c p.word p.slot slot

/-- A poisoned word among `ws` of a slot of collection `h`, in the copy that is read: the one in a partition or side block, or the
node head of an entry that is in none. -/
def poisonAt (s : State) (c : Coll) (h slot : Nat) (ws : List DataWord) : Option Poison :=
  let scan := (scanBlockOf c slot).isSome
  s.poison.find? (fun p => p.coll = h && (scanHit c p slot ws || (!scan && p.node && (nodeHit c p slot ws).isSome)))

/-- A poisoned word among `ws` that a walker meets at node `n`, and which it is (R165); tombstones lie in the collection's
bitmap. -/
def nodePoisonAt (s : State) (c : Coll) (h n : Nat) (ws : List DataWord) : Option (Poison × DataWord) :=
  s.poison.findSome? (fun p =>
    if p.coll ≠ h then none
    else if p.node then (nodeHit c p n ws).map (fun w => (p, w))
    else if p.word = .tomb && DataWord.tomb ∈ ws && wordShared c .tomb p.slot n then some (p, .tomb)
    else none)

/-- A poisoned code of candidates that Bore reads for a rerank: each candidate's slot, with true for a node head (R133, R426). -/
def codePoison (s : State) (c : Coll) (h : Nat) (reads : List (Nat × Bool)) : Option Poison :=
  s.poison.find? (fun p => p.coll = h && reads.any (fun r =>
    if r.2 then p.node && (nodeHit c p r.1 [.code]).isSome else scanHit c p r.1 [.code]))

/-- The latch and event detail of a poisoned word (§5.9). -/
def poisonInfo (p : Poison) : Nat := b2n p.bulk + p.chan * 2 ^ 8 + p.coll * 2 ^ 16

/-- The fault of a tier word read with poison by a unit other than a Reed or walker (R426). -/
def tierFault (p : Poison) : CmdFault :=
  { page := if p.bulk then blkPage .bkc p.chan else blkPage .ftc p.chan, bit := 0, addr := BitVec.ofNat 64 (p.addr % 2 ^ 38),
    info := BitVec.ofNat 64 (poisonInfo p) }

/-- A command fails with POISONED_INPUT on such a word; its COMMAND_FAULT carries the tier address (R426, log entry 41). -/
def failPoison (x : Cmd) (p : Poison) (s : State) : State :=
  let s := failCmd x.id stPoisoned (some (tierFault p)) s
  cmdMod x.id (fun y => { y with after := y.after ++ [faultEvent s x stPoisoned (tierFault p)] }) s

/-! ## Encoding a source in one piece (R205, R222) -/

/-- Run steps of a program on one vector. -/
def encRun (tb : Nat → Option TblData) (img : List Byte) : List Nat → EncVec → EncVec
  | [], v => v
  | i :: t, v =>
    if stepFld img i 0 1 = 2 then
      match tb (stepFld img i 8 2) with
      | some d => encRun tb img t (drainStep tb img i { v with parts := matmulParts img i d v })
      | none => v
    else encRun tb img t (bellStep img i v)

/-- The code of a source under a program image: a function of the source and the program alone (R205). -/
def encodeCode (tb : Nat → Option TblData) (img : List Byte) (fmt dim : Nat) (src : List Byte) : Nat :=
  vecCode img (encRun tb img (neededSteps img (outBufs img 1)) (encVec fmt dim src))

/-! ## Reading sources -/

/-- The spans that supply a command's source data: one run of bytes, or a block list once it has been read whole. -/
def dataSpans (x : Cmd) (isList : Bool) (addr want : Nat) : Option (List BlkData) :=
  if !isList then some [{ addr := addr, len := want, zero := false }]
  else match x.list with
    | some w => if w.done then some w.datas else none
    | none => none

/-- Ask for the pieces of a command's block list. -/
def beginList (x : Cmd) (addr want : Nat) (s : State) : State :=
  if x.list.isNone then cmdMod x.id (fun y => { y with list := some (listStart addr want) }) s else s

/-- Bytes of a source element. -/
def elemBytes (fmt : Nat) : Nat := if fmt ≤ 1 then 2 else 1

/-- Read the source vector at byte `off` of the data: poison, then NaN or infinite elements (R229). -/
def readVec (x : Cmd) (c : Coll) (ds : List BlkData) (off : Nat) (s : State) : Res (List Byte) :=
  andThen (readSpans (whoOf s x) (listSpan ds off (srcLen c)) s) (fun r s =>
    match (match r.poison with
        | some a => some a
        | none => (markedIn x.id off (srcLen c) s).map (fun m => listAddr ds (off + m))) with
    | some a => .fail stPoisoned (some (devFault (sldPage x.home) 2 a 0)) s
    | none =>
      match badElem c.srcFormat c.srcDim r.bytes with
      | some i => .fail stBadField (some (devFault (blkPage .bell x.home) 1 (listAddr ds (off + i * elemBytes c.srcFormat)) 0)) s
      | none => .ok r.bytes s)

/-- A mutation's entry. -/
def mutEntry (r : Rec) (src : Src) : MutEntry :=
  { record := r, code := none, src := src, codeOnly := false, bad := none, done := none }

/-- Read the sources of a batch's entries in order, each at its own offset; the first that fails is marked and the rest are
not read (R279). An entry that has its code already needs none. -/
def readBatch (x : Cmd) (c : Coll) (ds : List BlkData) : List (Nat × MutEntry) → State → Res (List MutEntry)
  | [], s => .ok [] s
  | (off, e) :: t, s =>
    if e.bad.isSome then .ok (e :: t.map Prod.snd) s
    else if e.codeOnly then andThen (readBatch x c ds t s) (fun es s => .ok (e :: es) s)
    else
      match readVec x c ds off s with
      | .ok bs s => andThen (readBatch x c ds t s) (fun es s => .ok ({ e with src := .held bs } :: es) s)
      | .fail st (some f) s => .ok ({ e with bad := some (st, f) } :: t.map Prod.snd) s
      | .fail st none s => .fail st none s
      | .wait s => .wait s

/-- Entries that are encoded: those before the first failure that hold a source. -/
def toEncode (es : List MutEntry) : List Nat :=
  let n := ((List.range es.length).find? (fun i => (es[i]?).any (fun e => e.bad.isSome))).getD es.length
  (List.range n).filter (fun i => (es[i]?).any (fun e => e.code.isNone))

/-- The codes of a finished encode go to their entries. -/
def mutEncoded (m : Mut) : Mut :=
  let codes := m.enc.flatMap (fun e => e.vecs.map (vecCode e.img))
  let es := (List.range m.order.length).foldl (fun (es : List MutEntry) k =>
    match m.order[k]?, codes[k]? with
    | some i, some v => es.modify i (fun y => { y with code := some v })
    | _, _ => es) m.entries
  { m with entries := es, enc := [] }

/-- Some status word of a mutation's encode has a flag: its completion carries ARITH (R113, R201). -/
def mutArith (m : Mut) : Bool := m.enc.any (fun e => e.vecs.any (fun v => v.flags ≠ 0))

/-- A mutation's encode has ended: its codes are known, and its flags are noted with the command. -/
def encodeEnds (x : Cmd) (m : Mut) (s : State) : Mut × State :=
  let s := if mutArith m then cmdMod x.id (fun y => { y with arith := true }) s else s
  (mutEncoded m, freeStage x.id (endStage x.id 3 s))

/-- Begin the encode of a mutation's entries under the version that it was admitted with (R232, R240, R273). -/
def beginEncode (x : Cmd) (c : Coll) (es : List MutEntry) (s : State) : Res State :=
  let v := if c.migrating then c.encNext else c.encVersion
  match progLost s v with
  | some a => mediaLost a s
  | none =>
    let ord := toEncode es
    let vs := ord.map (fun i => match (es[i]?).map MutEntry.src with
      | some (.held bs) => encVec c.srcFormat c.srcDim bs
      | _ => encVec c.srcFormat c.srcDim [])
    let (bs, s) := encBatches x v (outBufs (imageOf s x v) 1) vs (endStage x.id 2 (consumeRings x.id s))
    let m : Mut := { entries := es, mask := cf x 16 2, version := v, encNext := c.migrating, enc := bs, order := ord, read := true }
    let (m, s) := if bs.all encDone then encodeEnds x m s else (m, s)
    .ok (setWork x.id (.mutate m) s) s

/-! ## INSERT and UPSERT -/

def insertStart (x : Cmd) (c : Coll) (s : State) : Res State :=
  let isList := bit (cf x 24 1) 0
  match dataSpans x isList (cf x 16 8) (srcLen c) with
  | none => .ok (beginList x (cf x 16 8) (srcLen c) s) s
  | some ds =>
    andThen (readVec x c ds 0 s) (fun bs s => beginEncode x c [mutEntry (recOf (slice x.bytes 32 32)) (.held bs)] s)

/-- The row of a mutation that encodes: while it has done nothing yet, its start. -/
def mutRow (c op : Nat) (f : Cmd → Coll → State → Res State) (s : State) : State :=
  match running s c op with
  | some x =>
    match x.work, viewOf s x with
    | .none, some k => if barred s x then s else unlessPoison x s (settle c (f x k s))
    | _, _ => s
  | none => s

/-- INSERT (R272). -/
def execInsert (c : Nat) (s : State) : Host.Outcome State Fault Refusal := .next (drainAll (mutRow c 0x20 insertStart s))

/-- UPSERT (R272). -/
def execUpsert (c : Nat) (s : State) : Host.Outcome State Fault Refusal := .next (drainAll (mutRow c 0x23 insertStart s))

/-! ## DELETE and SET_ATTR -/

/-- A mutation that encodes nothing. -/
def plainMut (x : Cmd) (r : Rec) : Mut :=
  { entries := [mutEntry r .lost], mask := cf x 16 2, version := 0, encNext := false, enc := [], order := [], read := true }

def deleteStart (x : Cmd) (_ : Coll) (s : State) : Res State :=
  .ok (setWork x.id (.mutate (plainMut x { recZero with vid := cf x 32 6 })) s) s

/-- DELETE (R275). -/
def execDelete (c : Nat) (s : State) : Host.Outcome State Fault Refusal := .next (drainAll (mutRow c 0x22 deleteStart s))

def setAttrStart (x : Cmd) (_ : Coll) (s : State) : Res State :=
  .ok (setWork x.id (.mutate (plainMut x (recOf (slice x.bytes 32 32)))) s) s

/-- SET_ATTR (R276). -/
def execSetAttr (c : Nat) (s : State) : Host.Outcome State Fault Refusal := .next (drainAll (mutRow c 0x25 setAttrStart s))

/-! ## INSERT_BATCH and IMPORT -/

/-- The first invalid record of a batch, as the address of its field. -/
def badRecs (bs : List Byte) (addr : Nat) : Nat → Nat → Option Nat
  | 0, _ => none
  | n + 1, j =>
    match badRec bs (32 * j) with
    | some o => some (addr + 32 * j + o)
    | none => badRecs bs addr n (j + 1)

/-- Check that the status entries can be written. -/
def checkStatus (x : Cmd) (count : Nat) (s : State) : Res Unit :=
  if cf x 32 8 = 0 then .ok () s else checkWrite (whoOf s x) (cf x 32 8) (16 * count) s

def batchStart (x : Cmd) (c : Coll) (s : State) : Res State :=
  let n := cf x 40 4
  match dataSpans x true (cf x 16 8) (n * srcLen c) with
  | none => .ok (beginList x (cf x 16 8) (n * srcLen c) s) s
  | some ds =>
    andThen (checkStatus x n s) (fun _ s =>
    andThen (readBuf x (cf x 24 8) (32 * n) s) (fun rs s =>
      match badRecs rs (cf x 24 8) n 0 with
      | some a => .fail stBadField (some (devFault (sldPage x.home) 1 a 0)) s
      | none =>
        let es := (List.range n).map (fun j => (j * srcLen c, mutEntry (recOf (slice rs (32 * j) 32)) .lost))
        andThen (readBatch x c ds es s) (fun es s => beginEncode x c es s)))

/-- INSERT_BATCH (R278). -/
def execInsertBatch (c : Nat) (s : State) : Host.Outcome State Fault Refusal := .next (drainAll (mutRow c 0x21 batchStart s))

/-- Stride of an EXPORT stream's entries (Table 12.12). -/
def streamStride (c : Coll) (parts : Nat) : Nat :=
  64 + (if bit parts 0 then (c.codeBits / 8 + 63) / 64 * 64 else 0) + (if bit parts 1 then (srcLen c + 63) / 64 * 64 else 0)

/-- The first field of a stream's header that does not suit the collection (R331). -/
def badStream (c : Coll) (h : List Byte) (bytes : Nat) : Option Nat :=
  let parts := fld h 7 1
  firstBad [ (fld h 0 2 ≠ 1, 0), (fld h 2 2 ≠ c.codeBits, 2), (fld h 4 2 ≠ c.srcDim, 4), (fld h 6 1 ≠ c.srcFormat, 6),
             (parts > 3 || !bit parts 1, 7), (fld h 8 4 > 4096 || 64 + fld h 8 4 * fld h 12 4 ≠ bytes, 8),
             (fld h 12 4 ≠ streamStride c parts, 12),
             ((firstNonzero h 44 63).isSome, (firstNonzero h 44 63).getD 44) ]

/-- Entry `j` of a stream: the offset of its source and the entry, or the offset of the field that fails the command. -/
def streamEntry (x : Cmd) (c : Coll) (ds : List BlkData) (h bs : List Byte) (j : Nat) : Nat ⊕ (Nat × MutEntry) :=
  let parts := fld h 7 1
  let o := 64 + j * fld h 12 4
  match badRec bs o with
  | some a => .inl (o + a)
  | none =>
    if fld bs (o + 32) 1 > 1 then .inl (o + 32)
    else match firstNonzero bs (o + 33) (o + 63) with
      | some a => .inl a
      | none =>
        let e := mutEntry (recOf (slice bs o 32)) .lost
        let code := (c.codeBits / 8 + 63) / 64 * 64
        if fld bs (o + 32) 1 = 0 then .inr (o + 64 + (if bit parts 0 then code else 0), e)
        else if bit parts 0 && fld h 40 2 = c.encVersion then
          .inr (0, { e with code := some (leNat (slice bs (o + 64) (c.codeBits / 8))), codeOnly := true })
        else .inr (0, { e with bad := some (stBadField, devFault (sldPage x.home) 1 (listAddr ds (o + 32)) 0) })

def streamEntries (x : Cmd) (c : Coll) (ds : List BlkData) (h bs : List Byte) : Nat → Nat → Nat ⊕ List (Nat × MutEntry)
  | 0, _ => .inr []
  | n + 1, j =>
    match streamEntry x c ds h bs j, streamEntries x c ds h bs n (j + 1) with
    | .inl a, _ => .inl a
    | _, .inl a => .inl a
    | .inr e, .inr es => .inr (e :: es)

def importStart (x : Cmd) (c : Coll) (s : State) : Res State :=
  let n := cf x 24 8
  if n < 64 then failAt x stBadField 24 s
  else
  match dataSpans x true (cf x 16 8) n with
  | none => .ok (beginList x (cf x 16 8) n s) s
  | some ds =>
    let at_ := fun (a : Nat) (s : State) => (.fail stBadField (some (devFault (sldPage x.home) 1 (listAddr ds a) 0)) s : Res State)
    andThen (readSpans (whoOf s x) ds s) (fun r s =>
      match r.poison with
      | some a => .fail stPoisoned (some (devFault (sldPage x.home) 2 a 0)) s
      | none =>
        let h := slice r.bytes 0 64
        match badStream c h n with
        | some o => at_ o s
        | none =>
          match streamEntries x c ds h r.bytes (fld h 8 4) 0 with
          | .inl a => at_ a s
          | .inr es =>
            andThen (checkStatus x es.length s) (fun _ s =>
              andThen (readBatch x c ds es s) (fun es s => beginEncode x c es s)))

/-- IMPORT (R331). -/
def execImportCmd (c : Nat) (s : State) : Host.Outcome State Fault Refusal := .next (drainAll (mutRow c 0x54 importStart s))

/-! ## Effects of mutations on a collection -/

/-- Append an entry to the side list (R280). -/
def appendEntry (e : Entry) (c : Coll) : Coll :=
  { c with entries := tset c.entries e.slot e, arr := { c.arr with side := c.arr.side ++ [e.slot] } }

/-- Set a slot's tombstone and log it (R48, R281). -/
def setTomb (slot seq : Nat) (c : Coll) : Coll :=
  { c with tombs := tset c.tombs slot seq, arr := { c.arr with tombLog := tset c.arr.tombLog slot seq } }

/-- The record that SET_ATTR leaves: the fields its mask selects replaced (R42, R276). -/
def mergeRec (mask : Nat) (old new : Rec) : Rec :=
  { vid := old.vid, tenant := if bit mask 0 then new.tenant else old.tenant, flags := if bit mask 1 then new.flags else old.flags,
    a0 := if bit mask 2 then new.a0 else old.a0, a1 := if bit mask 3 then new.a1 else old.a1,
    a2 := if bit mask 4 then new.a2 else old.a2, a3 := if bit mask 5 then new.a3 else old.a3,
    labels := if bit mask 6 then new.labels else old.labels, ts := if bit mask 7 then new.ts else old.ts }

/-- Tags that have a partition or will have one (R33). DESIGN CHOICE (log entry 96): a side entry's tag counts before its fold,
even when the entry is tombstoned, and so do the tags of the nodes that a build turns into partitions. -/
def tagsOpen (c : Coll) : List Nat :=
  let slots := c.arr.side ++ (if c.building && !c.buildGraph then c.arr.nodes.map Prod.fst else [])
  slots.foldl (fun ts sl => match tget c.entries sl with
    | some e => insertNat e.record.tenant ts
    | none => ts) (c.arr.parts.map Prod.fst)

/-- The entry would open a 65,537th partition (R33). -/
def needsPartition (c : Coll) (tag : Nat) : Bool :=
  c.partMode = 0 && c.indexKind ≠ 1 && tag ∉ tagsOpen c && (tagsOpen c).length ≥ 65536

/-- The time of day as seconds of a collection's epoch; none when none is set or it is out of range (R41). -/
def stampNow (s : State) (c : Coll) : Option Nat :=
  match s.tod with
  | none => none
  | some (secs, at_) =>
    let t : Int := (secs + (s.now - at_) / 1000000000 : Nat) - (c.epochBase : Int)
    if 0 ≤ t ∧ t ≤ 0xFFFF_FFFE then some t.toNat else none

/-! ## The journal write (R274) -/

/-- What one journal write ends in. -/
inductive JWrite where
  | wait
  | fail (status : Nat) (f : Option CmdFault)
  | done (seq status : Nat) (s : State)

/-- The field of a timestamp that cannot be computed: in the command, or in its host buffer. -/
def stampFault (x : Cmd) (j : Nat) : CmdFault :=
  if cOp x = 0x21 then devFault (sldPage x.home) 1 (cf x 24 8 + 32 * j + 28) 0 else wwyFault x stBadField 60

/-- A record of the mutation with its header fields. -/
def mutRec (x : Cmd) (s : State) (type : Nat) (body : JBody) (bytes : Nat) : JRec :=
  jrecNew type (cColl x) body bytes (domOf s x) x.queue (cTag x)

/-- SIDE_LIST_HIGH at 15,728,640 places (R286). -/
def sideHighCheck (h : Nat) (s : State) : State :=
  match tget s.colls h with
  | some c =>
    if placesUsed c ≥ 15728640 ∧ !c.sideHigh then
      raise .drn { mkEv 0x00B1 1 .drn 0 c.owner 0 h (placesUsed c) 0 with coll := h } (collMod h (fun c => { c with sideHigh := true }) s)
    else s
  | none => s

/-- The code that an entry is written with: its own, or that which its encode gives, which is fixed by the source and the
program whether or not the encode has ended (R205, R430). -/
def codeOfEntry (s : State) (x : Cmd) (m : Mut) (c : Coll) (e : MutEntry) : Nat :=
  match e.code, e.src with
  | some k, _ => k
  | none, .held bs => encodeCode (tableAt s x.id) (imageOf s x m.version) c.srcFormat c.srcDim bs
  | none, .lost => 0

/-- Bytes of source or code that an entry's record carries. -/
def payloadOf (x : Cmd) (c : Coll) (e : MutEntry) : Nat :=
  if cOp x = 0x22 ∨ cOp x = 0x25 then 0 else if e.codeOnly then c.codeBits / 8 else srcLen c

/-- The journal write of one entry: the checks of R274 in order, then its slot, its record and its effect. -/
def journalEntry (x : Cmd) (m : Mut) (e : MutEntry) (c : Coll) (s : State) : JWrite :=
  let h := cColl x
  let op := cOp x
  let isSet : Bool := decide (op = 0x25)
  let vid := e.record.vid
  let live := liveNow c vid
  let stamped := e.record.ts = 0xFFFF_FFFF && op ≠ 0x22 && (!isSet || bit m.mask 7)
  let srcBytes := payloadOf x c e
  if e.bad.isSome then
    match e.bad with
    | some (st, f) => .fail st (some f)
    | none => .wait
  else if !journalFits s (runsBounded s x) (recordSize srcBytes) then .wait
  else if stamped && (stampNow s c).isNone then .fail stBadField (some (stampFault x (((nextEntry m).map Prod.fst).getD 0)))
  else if live.isSome && (op = 0x20 || op = 0x21 || op = 0x54) then .fail stIdExists none
  else if live.isNone && (op = 0x22 || isSet) then
    let (q, s) := journalPut (mutRec x s (if isSet then 0x04 else 0x03) (if isSet then .entry else .delete) 64) s
    .done q stNotFound s
  else if placesUsed c ≥ 16777216 then .fail stSideFull none
  else
    match op, live with
    | 0x22, some (slot, old) =>
      let r := { mutRec x s 0x03 .delete 64 with oldSlot := some slot, entry := some old }
      let (q, s) := journalPut r s
      .done q stOK (sideHighCheck h (collMod h (setTomb slot q) s))
    | _, _ =>
      let base : Rec := match live with
        | some (_, old) => if isSet then mergeRec m.mask old.record e.record else e.record
        | none => e.record
      let rec_ : Rec := if stamped then { base with ts := (stampNow s c).getD 0 } else base
      if needsPartition c rec_.tenant then .fail stCollLimit none
      else
        match freeSlot c with
        | none => .fail stCollLimit none
        | some slot =>
          if !sideFits s h c then .fail stTierFull none
          else
            let q := s.bag.nextSeq
            let new : Entry := match live, isSet with
              | some (_, old), true => { old with slot := slot, record := rec_, seq := q, queue := x.queue, tag := cTag x, at_ := s.now }
              | _, _ => { slot := slot, record := rec_, code := codeOfEntry s x m c e, encNext := m.encNext && !e.codeOnly,
                          version := if e.codeOnly then c.encVersion else m.version, src := e.src, seq := q, queue := x.queue,
                          tag := cTag x, at_ := s.now }
            let r := { mutRec x s (if isSet then 0x04 else if op = 0x23 then 0x02 else 0x01) .entry (recordSize srcBytes) with
                       encNext := new.encNext, srcRef := isSet, codeOnly := e.codeOnly, slot := some slot,
                       oldSlot := live.map Prod.fst, version := new.version, entry := some new }
            let (q, s) := journalPut r s
            let s := collMod h (fun c =>
              let c := appendEntry new c
              match live with
              | some (old, _) => setTomb old q c
              | none => c) s
            .done q stOK (sideHighCheck h s)

/-! ### Ends of batches -/

/-- The status entries (Table 11.2, R279). -/
def statusBytes (m : Mut) : List Byte :=
  m.entries.flatMap (fun e => match e.done with
    | some (q, st) => leBytes 8 q ++ leBytes 2 st ++ leBytes 6 0
    | none => leBytes 8 0 ++ leBytes 2 0xFFFF ++ leBytes 6 0)

/-- Entries that took effect, and the number of the last. -/
def tookEffect (m : Mut) : Nat × Nat :=
  m.entries.foldl (fun a e => match e.done with
    | some (q, st) => if st < 0x100 then (a.1 + 1, q) else a
    | none => a) (0, 0)

/-- A batch completes: its status entries are written, then it is finished. -/
def batchEnd (x : Cmd) (m : Mut) (s : State) : Res State :=
  let (n, q) := tookEffect m
  andThen (if cf x 32 8 = 0 then .ok () s else writeDev (whoOf s x) (cf x 32 8) (statusBytes m) s) (fun _ s =>
    match batchFailure m with
    | none => .ok (finishJournaled x.id q false (fun y => { y with result := n, journaled := n ≠ 0 }) s) s
    | some st =>
      let j := m.entries.findIdx (fun e => e.done.any (fun d => d.2 ≥ 0x100))
      let f := (m.entries[j]?).bind (fun e => match e.bad with
        | some (_, f) => some f
        | none => if st = stBadField then some (stampFault x j) else none)
      .ok (cmdMod x.id (fun y => { y with result := n, isPartial := n ≠ 0, jseq := q, journaled := n ≠ 0, epoch := x.epoch })
        (failCmd x.id st f s)) s)

/-- A batch ends although its status entries cannot be written: the leading entries took effect. -/
def batchRow (x : Cmd) (m : Mut) (s : State) : State :=
  match batchEnd x m s with
  | .ok t _ => t
  | .wait t => t
  | .fail st f t =>
    let (n, q) := tookEffect m
    cmdMod x.id (fun y => { y with result := n, isPartial := n ≠ 0, jseq := q, journaled := n ≠ 0, epoch := x.epoch })
      (failCmd x.id st f t)

/-- A mutation's entries are all journaled, or one has failed, and its codes are ready: it completes (R23). -/
def mutEnd (x : Cmd) (m : Mut) (s : State) : State :=
  if isBatch x then batchRow x m s
  else
    match m.entries.head?.bind MutEntry.done with
    | some (q, st) => finishJournaled x.id q false (fun y => { y with status := st }) s
    | none => s

/-- Go on with a mutation: it ends once nothing is left to journal or to encode. -/
def mutGoOn (x : Cmd) (m : Mut) (s : State) : State :=
  if m.enc = [] && (nextEntry m).isNone then mutEnd x m s else setWork x.id (.mutate m) s

/-- The entries of a batch, one after another until one fails, so that their numbers are consecutive (R278, R279; log entry 107); at
most `n` of them. -/
def journalRest (x : Cmd) : Nat → Mut → State → Mut × State
  | 0, m, s => (m, s)
  | n + 1, m, s =>
    match nextEntry m, tget s.colls (cColl x) with
    | some (i, e), some k =>
      match journalEntry x m e k s with
      | .wait => (m, s)
      | .fail st _ => ({ m with entries := m.entries.modify i (fun e => { e with done := some (0, st) }) }, s)
      | .done q st t =>
        journalRest x n { m with entries := m.entries.modify i (fun e => { e with done := some (q, st) }) }
          (cmdMod x.id (fun y => { y with jseq := q }) t)
    | _, _ => (m, s)

/-- Bytes of the records that a batch is still to write. -/
def batchBytes (x : Cmd) (m : Mut) (c : Coll) : Nat :=
  (m.entries.filter (fun e => e.done.isNone)).foldl (fun a e => a + recordSize (payloadOf x c e)) 0

/-- The journal write of a batch: once no earlier mutation holds one of its entries and the journal has space for all of them. -/
def journalBatch (x : Cmd) (m : Mut) (c : Coll) (s : State) : State :=
  if (nextEntry m).isNone then mutGoOn x m s
  else if m.entries.any (fun e => e.done.isNone && earlierHolds s x e.record.vid)
    || !journalFits s (runsBounded s x) (batchBytes x m c) then s
  else
    let (m, t) := journalRest x m.entries.length m s
    let t := workDone x.id (fun k => keyRes k = 4) 1 t
    raiseHorizons (mutGoOn { x with jseq := (tookEffect m).2 } m (setWork x.id (.mutate m) t))

/-- JOURNAL_WRITE (R274): a mutation's entries are journaled once earlier mutations and journal space allow, beside its encode
(R23); when nothing is left the command completes. -/
def journalWrite (c : Nat) (s : State) : State :=
  match cmdGet s c with
  | none => s
  | some x =>
    match x.phase, x.work, tget s.colls (cColl x) with
    | .executing, .mutate m, some k =>
      if s.chn.losing then s
      else if isBatch x then journalBatch x m k s
      else
        match nextEntry m with
        | none => s
        | some (i, e) =>
          if earlierHolds s x e.record.vid then s
          else
            match journalEntry x m e k s with
            | .wait => s
            | .fail st f => failCmd c st f s
            | .done q st t =>
              let m := { m with entries := m.entries.modify i (fun e => { e with done := some (q, st) }) }
              let t := endStage c 6 (cmdMod c (fun y => { y with jseq := q }) t)
              raiseHorizons (mutGoOn { x with jseq := q } m (setWork c (.mutate m) t))
    | _, _, _ => s

def execJournalWrite (c : Nat) (s : State) : Host.Outcome State Fault Refusal := .next (drainAll (journalWrite c s))

/-! ## LOOKUP (R277) -/

/-- Follow a record with SRC_REF to the record of its old slot, at most `n` times (Table 12.1). -/
def followSource (s : State) : Nat → JRec → Option JRec
  | 0, r => some r
  | n + 1, r =>
    if r.srcRef then
      ((s.bag.recs.filter (fun q => q.coll = r.coll && q.seq < r.seq && q.slot.isSome && q.slot = r.oldSlot)).getLast?).bind (followSource s n)
    else some r

/-- The record of the journal that holds an entry's source: its own, or that of the slot it replaced. -/
def sourceRec (s : State) (e : Entry) : Option JRec :=
  (s.bag.recs.find? (fun r => r.seq = e.seq)).bind (followSource s s.bag.recs.length)

/-- The media address of an entry's source: in journal SRAM, or the first member of its stripe (R313). -/
def sourceMedia (s : State) (e : Entry) : Nat :=
  match sourceRec s e with
  | some r =>
    match r.stripe with
    | some n => mediaFlash n 0
    | none => mediaSram r.off
  | none => 2 ^ 60

def lookupRow (x : Cmd) (c : Coll) (s : State) : Res State :=
  let parts := cf x 24 1
  let out := cf x 16 8
  let w := whoOf s x
  let src := 64 + (c.codeBits / 8 + 63) / 64 * 64
  match liveEntry c x.horizon (cf x 32 6) with
  | none => done x.id (fun y => { y with status := stNotFound }) s
  | some (slot, e) =>
    match poisonAt s c (cColl x) slot ((if bit parts 0 then [.record] else []) ++ (if bit parts 1 then [.code] else [])) with
    | some p => .ok (failPoison x p s) s
    | none =>
      let side := slot ∈ c.arr.side
      let srcNow := ((tget s.colls (cColl x)).bind (fun k => tget k.entries slot)).map Entry.src
      match bit parts 2, srcNow.getD e.src with
      | true, .lost => mediaLost (sourceMedia s e) s
      | want, sv =>
        andThen (if bit parts 0 then writeDev w out (recBytes e.record side e.encNext ++ List.replicate 32 0) s else .ok () s) (fun _ s =>
        andThen (if bit parts 1 then writeDev w (out + 64) (leBytes (c.codeBits / 8) e.code) s else .ok () s) (fun _ s =>
        andThen (match want, sv with
          | true, .held bs => writeDev w (out + src) bs s
          | _, _ => .ok () s) (fun _ s => done x.id id s)))

/-- LOOKUP (R277). -/
def execLookup (c : Nat) (s : State) : Host.Outcome State Fault Refusal :=
  .next (drainAll (match running s c 0x24 with
    | some x =>
      match viewOf s x with
      | some k => if barred s x then s else settle c (lookupRow x k s)
      | none => s
    | none => s))

end Sys2Proof.Machine
end

