-- ==== Sys2Proof/Machine/Select.lean ====
section
/-! DEFINITION. Valve: rank keys (R166, R167), lists with tail counts (R123, R169), the merge (R170), threshold compaction
(R174, R175) and the result block (R56, R57). -/

namespace Sys2Proof.Machine

/-! ## Rank keys -/

/-- An FP32 pattern is a NaN. -/
def isNan32 (b : BitVec 32) : Bool := bits b.toNat 30 23 = 255 && b.toNat % 2 ^ 23 ≠ 0

/-- ord(x) of Table 7.2: −0.0 counts as +0.0. -/
def ord32 (b : BitVec 32) : Nat :=
  let b : BitVec 32 := if b = 0x8000_0000#32 then 0 else b
  if b.getLsbD 31 then (~~~b).toNat else (b ^^^ 0x8000_0000#32).toNat

/-- Primary key of a candidate (Table 7.2); key 0 DISTANCE, 1 SCORE_LARGEST, 2 SCORE_SMALLEST. -/
def primary (key : Nat) (c : Cand) : Nat :=
  match key with
  | 0 => c.dist
  | 1 => if isNan32 c.score then 0 else 2 ^ 32 - 1 - ord32 c.score
  | _ => if isNan32 c.score then 2 ^ 32 - 1 else ord32 c.score

/-- The 96-bit rank key (Table 7.1). -/
def rankKey (key : Nat) (c : Cand) : Nat := primary key c * 2 ^ 64 + c.vid * 2 ^ 16 + c.shard * 2 ^ 4

def rankLt (key : Nat) (a b : Cand) : Bool := rankKey key a < rankKey key b

/-! ## Lists -/

def listEmpty : CList := { entries := [], tail := 0, stamp := 0 }

/-- offer() of R123: a candidate is offered to a list of capacity `cap`. The stamp is the primary key of the last entry. -/
def offer (key cap : Nat) (l : CList) (c : Cand) : CList :=
  let put := insertBy (rankLt key) c l.entries
  let stampOf := fun (es : List Cand) => BitVec.ofNat 32 ((es.getLast?.map (primary key)).getD 0)
  if l.entries.length < cap then { entries := put, tail := 0, stamp := stampOf put }
  else
    match l.entries.getLast? with
    | none => l
    | some last =>
      if rankLt key last c then { l with tail := if primary key c = primary key last then l.tail + 1 else l.tail }
      else
        let es := put.take cap
        let same := (es.getLast?.map (primary key)) = some (primary key last)
        { entries := es, tail := if same then l.tail + 1 else 0, stamp := stampOf es }

/-- Drop entries of equal rank keys that come later in input order (R168): what is kept, and what is dropped. `prev` is
the key of the entry before. -/
def dropEqual (key : Nat) : Option Nat → List Cand → List Cand × List Cand
  | _, [] => ([], [])
  | prev, c :: t =>
    let r := dropEqual key (some (rankKey key c)) t
    if prev = some (rankKey key c) then (r.1, c :: r.2) else (c :: r.1, r.2)

/-- The merge of R170 into a list of capacity `cap`, with the entries dropped for equal keys. -/
def mergeLists (key cap : Nat) (ins : List CList) : CList × List Cand :=
  let (all, dropped) := dropEqual key none (sortBy (rankLt key) (ins.flatMap CList.entries))
  let es := all.take cap
  if es.length < cap then ({ entries := es, tail := 0, stamp := 0 }, dropped)
  else
    match es.getLast? with
    | none => ({ entries := es, tail := 0, stamp := 0 }, dropped)
    | some last =>
      let p := primary key last
      let tails := ins.foldl (fun a l => if l.stamp.toNat = p then a + l.tail else a) 0
      let more := ((all.drop cap).filter (fun c => primary key c = p)).length
      ({ entries := es, tail := min (tails + more) 0xFFFF_FFFF, stamp := BitVec.ofNat 32 p }, dropped)

/-! ## Threshold compaction (R174, R175) -/

def spillEmpty : Spill := { buf := [], boundary := none, tail := 0, stamp := 0 }

/-- A candidate arrives at a tower Valve in pass-through. -/
def spillOffer (key : Nat) (b : Spill) (c : Cand) : Spill :=
  match b.boundary with
  | none => { b with buf := b.buf ++ [c] }
  | some k =>
    if rankLt key c k then { b with buf := b.buf ++ [c] }
    else if primary key c = primary key k then { b with tail := b.tail + 1 }
    else b

/-- A reduction to the `cap` best: the boundary is the key of rank `cap`. -/
def spillReduce (key cap : Nat) (b : Spill) : Spill :=
  let all := sortBy (rankLt key) b.buf
  if all.length ≤ cap then b
  else
    match (all.take cap).getLast? with
    | none => b
    | some kb =>
      let p := primary key kb
      let t := ((all.drop cap).filter (fun c => primary key c = p)).length
      { buf := all.take cap, boundary := some kb, tail := if b.stamp.toNat = p ∧ b.boundary.isSome then b.tail + t else t,
        stamp := BitVec.ofNat 32 p }

/-- The tower list of a buffer that holds at most `cap` candidates. A buffer that was never reduced has discarded nothing. -/
def spillList (key : Nat) (b : Spill) : CList :=
  { entries := sortBy (rankLt key) b.buf, tail := b.tail, stamp := b.stamp }

/-! ## The result block (Tables 2.8 to 2.10) -/

/-- A valid entry. -/
def entryResult (reranked : Bool) (c : Cand) : List Byte :=
  leBytes 6 c.vid ++ leBytes 2 c.dist ++ leBytes 4 (if isNan32 c.score then 0x7FC0_0000 else c.score.toNat)
    ++ leBytes 2 (c.shard % 4096)
    ++ leBytes 2 (1 + 2 * b2n c.side + 4 * b2n reranked + 8 * b2n c.encNext + 16 * b2n (c.arith ≠ 0))

/-- A padding entry (R57). -/
def entryPad : List Byte :=
  leBytes 6 0xFFFF_FFFF_FFFF ++ leBytes 2 0xFFFF ++ leBytes 4 0x7F80_0000 ++ leBytes 2 0xFFFF ++ leBytes 2 0

/-- What a result header says besides its list. -/
structure Header where
  epoch    : Nat
  horizon  : Nat
  coll     : Nat
  enc      : Nat
  k        : Nat
  hflags   : Nat
  examined : Nat
  passed   : Nat
  arith    : Nat

/-- tied_beyond of a final list (R60, R172). -/
def tiedBeyond (k : Nat) (l : CList) : Nat := if l.entries.length = k then min l.tail 0xFFFF else 0

/-- hflags with TIE_AT_K and ARITH. -/
def hflagsOf (h : Header) (l : CList) : Nat := h.hflags + b2n (tiedBeyond h.k l ≠ 0) + 8 * b2n (h.arith ≠ 0)

/-- A result block. -/
def resultBlock (h : Header) (reranked : Bool) (l : CList) : List Byte :=
  leBytes 8 h.epoch ++ leBytes 8 h.horizon ++ leBytes 2 h.coll ++ leBytes 2 h.enc ++ leBytes 4 h.k
    ++ leBytes 4 l.entries.length ++ leBytes 2 (tiedBeyond h.k l) ++ leBytes 2 (hflagsOf h l) ++ leBytes 8 h.examined
    ++ leBytes 8 h.passed ++ leBytes 2 h.arith ++ leBytes 14 0
    ++ l.entries.flatMap (entryResult reranked)
    ++ (List.replicate (h.k - l.entries.length) entryPad).flatten

/-! ## Counters and faults of Valve -/

/-- Count a merge on a cluster's Valve. -/
def countMerge (cl : Nat) (s : State) : State := bumpWrap (reg .vlv cl 0x100) 0 64 1 s

/-- Entries dropped under R168: DUP_KEY, VLV_DUP and an event each. -/
def dupKeys (x : Cmd) (cl : Nat) (ds : List Cand) (s : State) : State :=
  ds.foldl (fun s c =>
    let q := x.queue + cTag x * 65536
    let s := blkFault (blkPage .vlv cl) 2 0 (BitVec.ofNat 64 c.vid) (bumpSat (reg .vlv cl 0x118) 0 32 1 s)
    raise .vlv { mkEv 0x0071 1 .vlv cl (domOf s x) 0 c.vid c.shard q with queue := x.queue, tag := cTag x } s) s

/-- A list or spill buffer word that the result depends on carries poison: the command fails and VALVE_POISON follows its
record. The page is that of the cluster whose Valve merges or reduces (R182). -/
def valvePoison (x : Cmd) (cl addr : Nat) (spill : Bool) (s : State) : State :=
  let i0 := cColl x + b2n spill * 65536
  let f : CmdFault := { page := blkPage .vlv cl, bit := b2n spill, addr := BitVec.ofNat 64 addr, info := BitVec.ofNat 64 i0 }
  let ev := { mkEv 0x0070 2 .vlv cl (domOf s x) addr i0 (x.queue + cTag x * 65536) 0
              with queue := x.queue, tag := cTag x, coll := cColl x }
  cmdMod x.id (fun y => { y with after := y.after ++ [ev] }) (failCmd x.id stPoisoned (some f) s)

/-- The module's shard ID (R389). -/
def shardId (s : State) : Nat :=
  let v := (regGet s (reg .cst 12 0x118)).toNat
  if bit v 12 then v % 4096 else 0

end Sys2Proof.Machine
end

