-- ==== Sys2Proof/Machine/Search.lean ====
section
/-! DEFINITION. What every search shares: its inputs (R44, R45, R128, R131), the scan of blocks by Reeds (R117 to R123),
the merges of Valve (R125, R170, R172), the rerank by Bore (R131 to R133) and its end (R56, R112). -/

namespace Sys2Proof.Machine

/-! ## The input area of a sub-query (Table 15.5)

A sub-query carries its codes, rerank blocks, filter block and tenant set in its message. They are kept at these offsets. -/

def subCodes : Nat := 0
def subRq : Nat := 1024
def subFilter : Nat := 5248
def subTset : Nat := 5312

/-- Read an input of a search: from its buffer, or from its message for a sub-query. -/
def readInput (x : Cmd) (va sub n : Nat) (s : State) : Res (List Byte) :=
  if x.sub.isSome then .ok (slice x.dataIn sub n) s else readBuf x va n s

/-- BAD_FIELD at a place of a host input (Table 5.7). -/
def inputBad {α : Type} (x : Cmd) (va : Nat) (s : State) : Res α :=
  .fail stBadField (some (devFault (sldPage x.home) 1 va 0)) s

/-! ## Filters (R43 to R45) -/

def filterOf (bs : List Byte) (tset : List Nat) : Filter :=
  { ctl := BitVec.ofNat 16 (fld bs 0 2), tset := tset, attrSel := fld bs 3 1, tenant := fld bs 4 4,
    anyMask := BitVec.ofNat 64 (fld bs 8 8), allMask := BitVec.ofNat 64 (fld bs 16 8), noneMask := BitVec.ofNat 64 (fld bs 24 8),
    terms := (List.range 4).map (fun i => (fld bs (32 + 4 * i) 2, fld bs (34 + 4 * i) 2)),
    timeLo := fld bs 48 4, timeHi := fld bs 52 4 }

/-- First place where a list does not rise. -/
def notRising : List Nat → Nat → Option Nat
  | a :: b :: t, i => if b ≤ a then some (i + 1) else notRising (b :: t) (i + 1)
  | _, _ => none

/-- The checks of R45 that need the block alone, those before the tenant set and those after: the offset of the field. -/
def badFilter1 (bs : List Byte) : Option Nat :=
  let ctl := fld bs 0 2
  firstBad [ (bit ctl 0 && bit ctl 1, 0), (bit ctl 1 && (fld bs 2 1 = 0 || fld bs 2 1 > 64), 2) ]

def badFilter2 (bs : List Byte) : Option Nat :=
  let ctl := fld bs 0 2
  firstBad ([ ((bit ctl 2 && fld bs 8 8 = 0, 8) : Bool × Nat) ]
    ++ (List.range 4).map (fun i => (bit ctl (5 + i) && fld bs (32 + 4 * i) 2 > fld bs (34 + 4 * i) 2, 32 + 4 * i))
    ++ [ (bit ctl 9 && fld bs 48 4 > fld bs 52 4, 48), (bits ctl 15 10 ≠ 0, 0) ])

/-- Read and check a command's filter block and its tenant set. -/
def readFilter (x : Cmd) (va : Nat) (s : State) : Res (Option Filter) :=
  if va = 0 ∧ x.sub.isNone then .ok none s
  else
    andThen (readInput x va subFilter 64 s) (fun bs s =>
      match badFilter1 bs with
      | some o => inputBad x (va + o) s
      | none =>
        let n := fld bs 2 1
        let at_ := fld bs 56 8
        andThen (if bit (fld bs 0 2) 1 then readInput x at_ subTset (4 * n) s else .ok [] s) (fun ts s =>
          let tags := (List.range (ts.length / 4)).map (fun i => fld ts (4 * i) 4)
          match notRising tags 0 with
          | some i => inputBad x (at_ + 4 * i) s
          | none =>
            match badFilter2 bs with
            | some o => inputBad x (va + o) s
            | none => .ok (some (filterOf bs tags)) s))

/-- Attribute slot `n` of a record. -/
def recAttr (r : Rec) (n : Nat) : Nat := match n with | 0 => r.a0 | 1 => r.a1 | 2 => r.a2 | _ => r.a3

/-- A record passes a filter: every enabled term passes (Table 2.7). -/
def filterPass (f : Filter) (r : Rec) : Bool :=
  let on := fun (i : Nat) => f.ctl.getLsbD i
  (!on 0 || r.tenant = f.tenant) && (!on 1 || r.tenant ∈ f.tset) && (!on 2 || r.labels &&& f.anyMask ≠ 0)
    && (!on 3 || r.labels &&& f.allMask = f.allMask) && (!on 4 || r.labels &&& f.noneMask = 0)
    && (List.range 4).all (fun i =>
      let a := recAttr r (bits f.attrSel (2 * i + 1) (2 * i))
      let t := f.terms.getD i (0, 0)
      !on (5 + i) || (t.1 ≤ a && a ≤ t.2))
    && (!on 9 || (f.timeLo ≤ r.ts && r.ts ≤ f.timeHi))

/-! ## Queries (R128, R131) -/

def queryEmpty : Query :=
  { qCur := 0, qNext := 0, rqCur := none, rqNext := none, reeds := [], handed := [], towers := [], spills := [], merged := none,
    scored := false, final := none, arith := 0 }

/-- The code blocks of query `j` of a CODE search. -/
def readCodes (x : Cmd) (p : SParams) (c : Coll) (j : Nat) (s : State) : Res Query :=
  let va := p.query + j * p.qStride
  andThen (readInput x va subCodes (c.codeBits / 8) s) (fun a s =>
    if c.encNext = 0xFFFF then .ok { queryEmpty with qCur := leNat a } s
    else
      andThen (readInput x (va + 512) (subCodes + 512) (c.codeBits / 8) s) (fun b s =>
        .ok { queryEmpty with qCur := leNat a, qNext := leNat b } s))

/-- A rerank query block at an address; its reserved bytes are zero (R4, R131). -/
def readBlock (x : Cmd) (c : Coll) (va sub : Nat) (s : State) : Res RQuery :=
  andThen (readInput x va sub 2112 s) (fun bs s =>
    match badRq bs with
    | some o => inputBad x (va + o) s
    | none => .ok (rqueryOf c.codeBits bs) s)

/-- The rerank blocks of a query. -/
def readRq (x : Cmd) (p : SParams) (c : Coll) (j : Nat) (q : Query) (s : State) : Res Query :=
  let va := p.rq + j * p.rStride
  andThen (readBlock x c va subRq s) (fun a s =>
    if c.encNext = 0xFFFF then .ok { q with rqCur := some a } s
    else andThen (readBlock x c (va + 2112) (subRq + 2112) s) (fun b s => .ok { q with rqCur := some a, rqNext := some b } s))

/-- The first `n` results of a numbered reading. -/
def readEach {α : Type} (f : Nat → State → Res α) : Nat → Nat → State → Res (List α)
  | 0, _, s => .ok [] s
  | n + 1, j, s => andThen (f j s) (fun a s => andThen (readEach f n (j + 1) s) (fun as s => .ok (a :: as) s))

/-- A search before it has read anything. -/
def searchInit (x : Cmd) (c : Coll) : Search :=
  let p := sparams x
  { h := cColl x, coll := c, horizon := x.horizon, k := p.k, kSel := kSelOf p.k p.rerankN, rerankN := p.rerankN, key := p.key,
    maxDist := p.maxDist, filter := none, queries := List.replicate p.count queryEmpty, blocks := [], examined := 0, passed := 0,
    seenCur := false, seenNext := false, walk := none, enc := [], cut := false, begun := false, incomplete := c.incomplete, stride := resultBytes p.k }

/-! ## Scan blocks (R117 to R119) -/

/-- Blocks of the side list and of partitions as group and slots, side list first. -/
def rawBlocks (h : Nat) (c : Coll) (ps : List Part) : List (Nat × List Nat) :=
  let side := chunks 64 (c.arr.side.length / 64 + 1) c.arr.side
  (List.range side.length).map (fun b => ((h + b) % 12, side.getD b []))
    ++ ps.flatMap (fun p => (chunks 64 (p.slots.length / 64 + 1) p.slots).map (fun sl => (if p.bulk then 12 + p.place else p.place, sl)))

/-- Reeds of a group in service, ascending. -/
def reedsOf (s : State) (g : Nat) : List Nat := (List.range 32).filter (fun r => (regGet s (reg .reed g 0x100)).getLsbD r)

/-- Deal blocks to the Reeds of their groups round-robin. -/
def dealBlocks (s : State) (bs : List (Nat × List Nat)) : List Block :=
  (bs.foldl (fun (acc : List Block × Table Nat) b =>
    let n := (tget acc.2 b.1).getD 0
    let rs := reedsOf s b.1
    (acc.1 ++ [{ group := b.1, reed := rs.getD (n % max 1 rs.length) 0, slots := b.2, scored := false }], tset acc.2 b.1 (n + 1)))
    ([], [])).1

/-- Every search that scans a partition adds one to its scan counter (R341). -/
def countScans (h : Nat) (keys : List Nat) (s : State) : State :=
  collMod h (fun c => { c with arr := { c.arr with parts := c.arr.parts.map (fun p =>
    if p.1 ∈ keys then (p.1, { p.2 with scans := (p.2.scans + 1) % 2 ^ 64 }) else p) } }) s

/-! ## Scoring (R120 to R123) -/

/-- Tower of a Reed group. -/
def groupTower (g : Nat) : Nat := if g < 12 then towerOfStack g else g - 12

/-- Reeds run in pass-through. -/
def passThrough (sr : Search) : Bool := sr.kSel > 1024

/-- Candidate of an entry for one query, and whether it lies within max_distance. -/
def candOf (sr : Search) (shard : Nat) (side : Bool) (q : Query) (e : Entry) : Cand :=
  { vid := e.record.vid, dist := hamming sr.coll.codeBits e.code (if e.encNext then q.qNext else q.qCur), slot := e.slot,
    side := side, encNext := e.encNext, shard := shard, score := 0, arith := 0 }

/-- The entry is present, and its tombstone does not count, and the filter passes (R120). -/
def presentAt (sr : Search) (e : Entry) : Bool := e.seq ≤ sr.horizon
def tombedAt (sr : Search) (slot : Nat) : Bool := (tget sr.coll.tombs slot).any (fun q => q ≤ sr.horizon)
def passesAt (sr : Search) (e : Entry) : Bool :=
  presentAt sr e && !tombedAt sr e.slot && (match sr.filter with
    | some f => filterPass f e.record
    | none => true)

/-- Offer an entry to one query's list at group and Reed, or to its tower's buffer. -/
def offerEntry (sr : Search) (shard g r : Nat) (e : Entry) (q : Query) : Query :=
  let c := candOf sr shard (e.slot ∈ sr.coll.arr.side) q e
  if c.dist > sr.maxDist then q
  else if passThrough sr then
    let t := groupTower g
    { q with spills := tset q.spills t (spillOffer 0 ((tget q.spills t).getD spillEmpty) c) }
  else
    let n := g * 64 + r
    { q with reeds := tset q.reeds n (offer 0 sr.kSel ((tget q.reeds n).getD listEmpty) c) }

/-- Score one slot. -/
def scoreSlot (shard g r : Nat) (sr : Search) (slot : Nat) : Search :=
  match tget sr.coll.entries slot with
  | none => sr
  | some e =>
    if !presentAt sr e then sr
    else
      let sr := { sr with examined := sr.examined + 1, seenCur := sr.seenCur || !e.encNext, seenNext := sr.seenNext || e.encNext }
      if !passesAt sr e then sr
      else { sr with passed := sr.passed + 1, queries := sr.queries.map (offerEntry sr shard g r e) }

/-- BLK_ERR bit of a poisoned word in the REED page. -/
def reedBit (w : DataWord) : Option Nat :=
  match w with
  | .code => some 0 | .record => some 1 | .tomb => some 2 | .seq => some 3 | _ => none

/-- The search depends on a word of its kind for slot `n` (R122). -/
def dependsAt (sr : Search) (w : DataWord) (n : Nat) : Bool :=
  match tget sr.coll.entries n with
  | none => false
  | some e =>
    match w with
    | .seq => true
    | .record | .tomb => presentAt sr e
    | .code => passesAt sr e
    | _ => false

/-- The search depends on a poisoned granule for one of a block's slots (R122, R349). -/
def dependsOn (sr : Search) (slots : List Nat) (p : Poison) : Bool :=
  slots.any (fun n => scanHit sr.coll p n [p.word] && dependsAt sr p.word n)

/-- Poisoned granules that a Reed meets in a block. -/
def blockPoison (s : State) (sr : Search) (slots : List Nat) : List Poison :=
  s.poison.filter (fun p => p.coll = sr.h ∧ (reedBit p.word).isSome ∧ slots.any (fun n => scanHit sr.coll p n [p.word]))

/-- Report a poisoned word read by group `g`: count, latch and SCAN_POISON; the event of a word that fails a search follows
its completion record. -/
def reportPoison (x : Cmd) (g : Nat) (failed : Bool) (p : Poison) (s : State) : State :=
  let b := (reedBit p.word).getD 0
  let s := bumpSat (reg .reed g 0x118) 0 32 1 s
  let s := if failed then bumpSat (reg .reed g 0x118) 32 32 1 s else s
  let s := blkFault (blkPage .reed g) b (BitVec.ofNat 64 (p.addr % 2 ^ 38)) (BitVec.ofNat 64 (poisonInfo p)) s
  let ev := { mkEv 0x0050 2 .reed g (ownerOf s p.coll) (p.addr % 2 ^ 38) (poisonInfo p) p.slot (b2n failed) with coll := p.coll }
  if failed then cmdMod x.id (fun y => { y with after := y.after ++ [ev] }) s else raise .reed ev s

/-- Femtojoules of a block's scoring: tier bytes and Reed events (Table 16.4). -/
def blockFj (bulk : Bool) (bytes n batch l : Nat) : Nat :=
  bytes * (if bulk then 34600 else 12500) + n * (256 + batch * l) / 512 * 150000

/-- Bytes read for a block: codes at their stride in a partition (R46) and close together in a side block, which holds sequence
and slot numbers too (Table 11.3); records, and one tombstone word. -/
def blockBytes (c : Coll) (sl : List Nat) : Nat :=
  let side := sl.any (· ∈ c.arr.side)
  sl.length * ((if side then c.codeBits / 8 + 16 else codeStride c) + 32) + 8

/-- A spill buffer has no room for a block's candidates: they wait for a reduction (R175). -/
def spillFull (sr : Search) (b : Block) : Bool :=
  passThrough sr && sr.queries.any (fun q => ((tget q.spills (groupTower b.group)).map (fun z => z.buf.length)).getD 0 + b.slots.length > 65536)

/-- A bounded search has a block to score on the same Reed: it goes first (R99). -/
def reedTaken (s : State) (x : Cmd) (b : Block) : Bool :=
  !x.bounded && s.cmds.any (fun y => y.bounded && y.phase = .executing && (match y.work with
    | .search sr => sr.enc = [] && sr.blocks.any (fun d => d.group = b.group && d.reed = b.reed && !d.scored && !spillFull sr d)
    | _ => false))

/-- The ledgers of the stack or of the tower's bulk channels that a Reed group reads. -/
def groupKey (g k : Nat) : Bool := if g < 12 then k = ledgerKey 0 g else keyRes k = 1 && k % 64 / 16 = g - 12

/-- A block of a flat search has been read: its share of the search's reads there comes off the ledgers; the last ends the scan
(R100, R269). -/
def blockDone (x : Cmd) (sr : Search) (g : Nat) (s : State) : State :=
  if sr.walk.isSome then s
  else
    let left := (sr.blocks.filter (fun b => b.group = g && !b.scored)).length
    let s := workDone x.id (groupKey g) (1 / max 1 left) s
    if (sr.blocks.filter (fun b => !b.scored)).length ≤ 1 then endStage x.id 4 s else s

/-- SCAN_BLOCK_SCORED (R120): block number `n` of the search is scored by its Reed. -/
def scanBlock (c n : Nat) (s : State) : State :=
  match cmdGet s c with
  | none => s
  | some x =>
    match x.phase, x.work with
    | .executing, .search sr =>
      match sr.blocks[n]? with
      | none => s
      | some b =>
        if b.scored || sr.enc ≠ [] || spillFull sr b || reedTaken s x b then s
        else
          let bad := blockPoison s sr b.slots
          let dep := bad.filter (dependsOn sr b.slots)
          let sr2 := b.slots.foldl (scoreSlot (shardId s) b.group b.reed) { sr with blocks := sr.blocks.set n { b with scored := true } }
          let bytes := blockBytes sr.coll b.slots
          let s := bumpWrap (reg .reed b.group 0x108) 0 64 bytes s
          let s := bumpWrap (reg .reed b.group 0x110) 0 64 (sr2.examined - sr.examined) s
          let s := account (domOf s x) bytes 0 0 (blockFj (b.group ≥ 12) bytes b.slots.length sr.queries.length sr.coll.codeBits) s
          let s := bad.foldl (fun s p => reportPoison x b.group (dependsOn sr b.slots p) p s) s
          match dep with
          | p :: _ =>
            failCmd c stPoisoned (some { page := blkPage .reed b.group, bit := (reedBit p.word).getD 0,
                                         addr := BitVec.ofNat 64 (p.addr % 2 ^ 38), info := BitVec.ofNat 64 (poisonInfo p) }) s
          | [] => blockDone x sr b.group (setWork c (.search sr2) s)
    | _, _ => s

/-- A Reed has left service: the blocks of a search that it has not scored are dealt to the group's other Reeds in ascending
order, round-robin (R119). A Reed that had handed its list over takes it up again for them. -/
def redeal (rs : List Nat) (g r : Nat) (sr : Search) : Search :=
  let step := fun (acc : List Block × Nat) (b : Block) =>
    if b.group = g && b.reed = r && !b.scored then
      (acc.1 ++ [{ b with reed := rs.getD (acc.2 % max 1 rs.length) r }], acc.2 + 1) else (acc.1 ++ [b], acc.2)
  let p := sr.blocks.foldl step ([], 0)
  let took := (rs.take p.2).map (fun k => g * 64 + k)
  let back := fun (q : Query) => took.foldl (fun q n => match tget q.handed n with
    | some l => { q with reeds := tset q.reeds n l, handed := tdel q.handed n }
    | none => q) q
  { sr with blocks := p.1, queries := sr.queries.map back }

def execScanBlockScored (c block : Nat) (s : State) : Host.Outcome State Fault Refusal := .next (drainAll (scanBlock c block s))

/-! ## Hand-over (R125) -/

/-- Groups and Reeds that hold blocks of a search. -/
def blockReeds (sr : Search) : List (Nat × Nat) := sr.blocks.map (fun b => (b.group, b.reed))

/-- Towers that hold blocks of a search, ascending. -/
def blockTowers (sr : Search) : List Nat := sr.blocks.foldl (fun ts b => insertNat (groupTower b.group) ts) []

/-- Every block of a Reed has been scored. -/
def reedDone (sr : Search) (g r : Nat) : Bool := sr.blocks.all (fun b => !(b.group = g && b.reed = r) || b.scored)

/-- LOCAL_LIST_HANDOVER (R125): a Reed that has scored its last block hands its list to a Valve of its tower. -/
def handOver (c g r : Nat) (s : State) : State :=
  match cmdGet s c with
  | none => s
  | some x =>
    match x.phase, x.work with
    | .executing, .search sr =>
      let n := g * 64 + r
      if (g, r) ∉ blockReeds sr || !reedDone sr g r || sr.queries.any (fun q => (tget q.handed n).isSome) then s
      else
        setWork c (.search { sr with queries := sr.queries.map (fun q =>
          { q with handed := tset q.handed n ((tget q.reeds n).getD listEmpty), reeds := tdel q.reeds n }) }) s
    | _, _ => s

def execLocalListHandover (c group reed : Nat) (s : State) : Host.Outcome State Fault Refusal := .next (handOver c group reed s)

/-- Every Reed of a tower has handed over. -/
def towerHanded (sr : Search) (t : Nat) : Bool :=
  (blockReeds sr).all (fun p => groupTower p.1 ≠ t || sr.queries.all (fun q => (tget q.handed (p.1 * 64 + p.2)).isSome))

/-! ## Reductions (R174, R175) -/

/-- The cluster of a tower whose Valve works for a command (log entry 42), or another of the tower while that one sleeps or is out
of service (R181). -/
def towerCluster (s : State) (x : Cmd) (t : Nat) : Nat := serve s (if x.home / 8 = t then x.home else 8 * t)

/-- A reduction (R175): each buffer of the tower that holds more than k_sel candidates is reduced. -/
def reduceSpills (c t : Nat) (s : State) : State :=
  match cmdGet s c with
  | none => s
  | some x =>
    match x.phase, x.work with
    | .executing, .search sr =>
      let wide := fun (q : Query) => (tget q.spills t).any (fun b => b.buf.length > sr.kSel)
      let n := (sr.queries.filter wide).length
      if n = 0 then s
      else
        let cl := towerCluster s x t
        let s := bumpWrap (reg .vlv cl 0x108) 32 32 (7 * n) (bumpWrap (reg .vlv cl 0x108) 0 32 n s)
        setWork c (.search { sr with queries := sr.queries.map (fun q => { q with spills := tmod q.spills t (spillReduce 0 sr.kSel) }) }) s
    | _, _ => s

/-! ## The end of a search -/

/-- Union of the flags of a list's entries. -/
def listArith (l : CList) : BitVec 7 := (l.entries.map Cand.arith).foldl (· ||| ·) 0

/-- The rerank of the search took place. -/
def reranked (sr : Search) : Bool := sr.rerankN ≠ 0 && sr.queries.all Query.scored

/-- The header of a query's result. -/
def headerOf (s : State) (sr : Search) (q : Query) : Header :=
  { epoch := sr.coll.viewEpoch, horizon := sr.horizon, coll := sr.h, enc := sr.coll.encVersion, k := sr.k,
    hflags := 2 * b2n sr.cut + 16 * b2n (reranked sr) + 32 * b2n (reranked sr && sr.key = 1) + 64 * b2n (sr.seenCur && sr.seenNext)
      + 128 * b2n (sr.incomplete || ((tget s.colls sr.h).map Coll.incomplete).getD false),
    examined := sr.examined, passed := sr.passed, arith := q.arith.toNat }

/-- The report entry of a shard (R394). -/
def reportEntry (epoch horizon status shard returned hflags : Nat) : List Byte :=
  leBytes 8 epoch ++ leBytes 8 horizon ++ leBytes 2 status ++ leBytes 2 shard ++ leBytes 4 returned ++ leBytes 2 hflags ++ leBytes 6 0

/-- What a shard answers: report entry, tail, stamp, counts, then entries of 24 bytes (Table 15.5, log entry 43). -/
def subresBody (s : State) (sr : Search) (q : Query) (l : CList) : List Byte :=
  reportEntry sr.coll.viewEpoch sr.horizon 0 (shardId s) l.entries.length (headerOf s sr q).hflags
    ++ leBytes 4 l.tail ++ leBytes 4 l.stamp.toNat ++ leBytes 8 sr.examined ++ leBytes 8 sr.passed
    ++ l.entries.flatMap (fun c => entryResult (reranked sr) c ++ leBytes 1 c.arith.toNat ++ leBytes 7 0)

/-- Write the result blocks of the queries from number `j`. -/
def writeResults (x : Cmd) (sr : Search) (addr : Nat) : Nat → List Query → State → Res Unit
  | _, [], s => .ok () s
  | j, q :: t, s =>
    andThen (writeBuf x (addr + j * sr.stride) (resultBlock (headerOf s sr q) (reranked sr) (q.final.getD listEmpty)) s)
      (fun _ s => writeResults x sr addr (j + 1) t s)

/-- A search has its final lists: its result is written, or sent to the coordinator that asked, and it completes. -/
def endSearch (x : Cmd) (sr : Search) (s : State) : Res State :=
  let lists := sr.queries.map (fun q => (q, q.final.getD listEmpty))
  let tie := lists.any (fun p => tiedBeyond sr.k p.2 ≠ 0)
  let n := if cOp x = 0x33 then sr.queries.length else (lists.map (fun p => p.2.entries.length)).foldl (· + ·) 0
  let f := fun (y : Cmd) => { y with result := n, isPartial := sr.cut, tie := tie, arith := sr.queries.any (fun q => q.arith ≠ 0) }
  match x.sub, lists with
  | some _, (q, l) :: _ =>
    let body := subresBody s sr q l
    done x.id (fun y => { f y with dataOut := (List.range body.length).map (fun i => (i, body.getD i 0)) }) s
  | _, _ => andThen (writeResults x sr (sparams x).result 0 sr.queries s) (fun _ s => done x.id f (endStage x.id 7 s))

/-! ## Merges (R125, R172) -/

/-- A tower's Valve forms its list for every query. -/
def towerMerge (x : Cmd) (sr : Search) (t : Nat) (s : State) : State :=
  if t ∉ blockTowers sr || !towerHanded sr t || sr.queries.any (fun q => (tget q.towers t).isSome)
      || sr.queries.any (fun q => (tget q.spills t).any (fun b => b.buf.length > sr.kSel)) then s
  else
    let mine := fun (q : Query) => (q.handed.filter (fun p => groupTower (p.1 / 64) = t)).map Prod.snd
    let form := fun (q : Query) =>
      let l := if passThrough sr then spillList 0 ((tget q.spills t).getD spillEmpty) else (mergeLists 0 sr.kSel (mine q)).1
      { q with towers := tset q.towers t l, spills := tdel q.spills t }
    let s := countMerge (towerCluster s x t) (cmdMod x.id (fun y => { y with spill := y.spill.filter (· ≠ t) }) s)
    setWork x.id (.search { sr with queries := sr.queries.map form }) s

/-- The walk of a graph search has ended; true for a flat search. -/
def walkDone (sr : Search) : Bool := match sr.walk with | some w => w.ended | none => true

/-- The home cluster's inputs are all present. -/
def homeReady (sr : Search) : Bool :=
  sr.enc = [] && walkDone sr && (blockTowers sr).all (fun t => sr.queries.all (fun q => (tget q.towers t).isSome))

/-- Inputs of the home merge: the walk's candidates, then the towers in ascending order. -/
def homeInputs (sr : Search) (q : Query) : List CList :=
  (match sr.walk with | some w => [w.cand] | none => []) ++ q.towers.map Prod.snd

/-- The final list of a query (R172): the k best by score after a rerank, by distance otherwise. A sub-query returns its
whole list, scored and not selected by score (R392). -/
def finalOf (x : Cmd) (sr : Search) (q : Query) : CList :=
  let l := q.merged.getD listEmpty
  if x.sub.isSome then l
  else if sr.rerankN ≠ 0 && q.scored then (mergeLists sr.key sr.k [{ l with tail := 0 }]).1
  else (mergeLists 0 sr.k [l]).1

/-- The rerank stage is over or is not to be: final lists may be formed. A rerank that had begun at the cut completes (R139). -/
def mayFinish (sr : Search) : Bool := sr.rerankN = 0 || (sr.cut && !sr.begun) || sr.queries.all Query.scored

/-- Form the final lists and end. -/
def finishSearch (x : Cmd) (sr : Search) (s : State) : State :=
  let qs := sr.queries.map (fun q => { q with final := some (finalOf x sr q) })
  let sr := { sr with queries := qs }
  match endSearch x sr (endStage x.id 5 s) with
  | .ok t _ => t
  | .fail st f t => failCmd x.id st f t
  | .wait t => setWork x.id (.search sr) t

/-- The home cluster's Valve merges, and finishes when nothing is to be reranked. -/
def homeMerge (x : Cmd) (sr : Search) (s : State) : State :=
  if sr.queries.all (fun q => q.merged.isSome) then
    if mayFinish sr then finishSearch x sr (if reranked sr && sr.queries.all (fun q => q.final.isNone) then countMerge (serve s x.home) s else s) else s
  else if !homeReady sr then s
  else
    let s := countMerge (serve s x.home) s
    let sr := { sr with queries := sr.queries.map (fun q => { q with merged := some (mergeLists 0 sr.kSel (homeInputs sr q)).1 }) }
    if mayFinish sr then finishSearch x sr s else setWork x.id (.search sr) s

/-! ## Rerank (R131 to R133) -/

/-- The code of a survivor, by slot, under the search's view. -/
def codeAt (c : Coll) (slot : Nat) : Nat := ((tget c.entries slot).map Entry.code).getD 0

/-- Score a candidate against the rerank query of its version. -/
def scoreCand (c : Coll) (q : Query) (k : Cand) : Cand :=
  let rq := (if k.encNext then q.rqNext else q.rqCur).getD { e := 0x7F, elems := [] }
  let r := rerankScore c.codeBits rq.e rq.elems (codeAt c k.slot)
  { k with score := r.val, arith := r.flags }

def scoreQuery (c : Coll) (q : Query) : Query :=
  match q.merged with
  | none => q
  | some l =>
    let es := l.entries.map (scoreCand c q)
    { q with merged := some { l with entries := es }, scored := true, arith := (es.map Cand.arith).foldl (· ||| ·) 0 }

/-- Regions of 256 candidates drained on a cluster, with their flags. -/
def countScored (cl n : Nat) (fs : BitVec 7) (s : State) : State :=
  let s := bumpWrap (reg .bore cl 0x128) 0 32 ((n + 255) / 256) (bumpWrap (reg .bell cl 0x100) 0 64 n s)
  if fs &&& fNV = 0 then s else bumpSat (reg .bore cl 0x130) 8 8 ((n + 255) / 256) s

/-- The codes that a rerank reads: each candidate's slot, with true for one that the walk found, or that no partition and no side
block holds, and so is read from its node head (R133). -/
def rerankReads (sr : Search) : List (Nat × Bool) :=
  sr.queries.flatMap (fun q => ((q.merged.map CList.entries).getD []).map (fun k =>
    (k.slot, if sr.walk.isSome then !k.side else (scanBlockOf sr.coll k.slot).isNone)))

/-- A rerank meets a poisoned code: the command fails with the word's tier address, and BORE sets OPERAND_POISON and raises
BORE_POISON for the cluster that read it (R211, R426). -/
def rerankPoison (x : Cmd) (cl : Nat) (p : Poison) (s : State) : State :=
  let a := BitVec.ofNat 64 (p.addr % 2 ^ 38)
  cmdMod x.id (fun y => { y with after := y.after ++ [boreEvent s x cl a] })
    (failPoison x p (blkFault (blkPage .bore cl) 0 a (BitVec.ofNat 64 (cColl x * 256)) s))

/-- Bore scores the survivors of every query; a poisoned code fails the search (R426). -/
def rerankRegion (x : Cmd) (sr : Search) (s : State) : State :=
  let cl := serve s x.home
  match codePoison s sr.coll sr.h (rerankReads sr) with
  | some p => rerankPoison x cl p s
  | none =>
    let qs := sr.queries.map (scoreQuery sr.coll)
    let n := (rerankReads sr).length
    let macs := n * sr.coll.codeBits
    let fs := (qs.map Query.arith).foldl (· ||| ·) (0 : BitVec 7)
    let s := account (domOf s x) 0 0 macs (macs * 825 / 10) (countScored cl n fs s)
    setWork x.id (.search { sr with queries := qs }) (workDone x.id (fun k => keyRes k = 3) 1 s)

/-- The rerank of a search may run now. -/
def rerankDue (sr : Search) : Bool :=
  sr.rerankN ≠ 0 && (!sr.cut || sr.begun) && sr.queries.all (fun q => q.merged.isSome) && sr.queries.any (fun q => !q.scored)

/-! ## SOURCE queries (R128, R232) -/

/-- Codes and rerank queries of query `j`: of the encode under the version in force, and of that under the one in migration. -/
def codesOf (vs ws : List (List Byte × EncVec)) (j : Nat) (q : Query) : Query :=
  let q := match vs[j]? with
    | some (img, v) => { q with qCur := vecCode img v, rqCur := some (vecRerank img v) }
    | none => q
  match ws[j]? with
  | some (img, v) => { q with qNext := vecCode img v, rqNext := some (vecRerank img v) }
  | none => q

/-- The queries of a search take what its encodes gave. -/
def withCodes (sr : Search) : Search :=
  let of := fun (v : Nat) => (sr.enc.filter (fun e => e.version = v)).flatMap (fun e => e.vecs.map (fun w => (e.img, w)))
  let next := if sr.coll.encNext = 0xFFFF then [] else of sr.coll.encNext
  { sr with queries := (List.range sr.queries.length).map (fun j =>
      codesOf (of sr.coll.encVersion) next j (sr.queries.getD j queryEmpty)), enc := [] }

/-- Start the encodes of a SOURCE search: one for each live version. -/
def startEncodes (x : Cmd) (c : Coll) (vs : List EncVec) (rerank : Bool) (s : State) : List Enc × State :=
  let one := fun (v : Nat) (s : State) => encBatches x v (outBufs (imageOf s x v) (if rerank then 3 else 1)) vs s
  let (a, s) := one c.encVersion s
  if c.encNext = 0xFFFF then (a, s)
  else
    let (b, s) := one c.encNext s
    (a ++ b, s)

/-- Read the queries of a search: codes and rerank blocks, or sources whose encode begins. -/
def readQueries (x : Cmd) (c : Coll) (sr : Search) (s : State) : Res Search :=
  let p := sparams x
  if p.source && x.sub.isNone then
    match progLost s c.encVersion, (if c.encNext = 0xFFFF then none else progLost s c.encNext) with
    | some a, _ | none, some a => .fail stMediaLost (some { page := blkPage .bag 0, bit := 2, addr := BitVec.ofNat 64 a, info := 0 }) s
    | none, none =>
      andThen (readEach (fun j s => readSource x c.srcFormat c.srcDim (p.query + j * p.qStride) (j * srcLen c) s) p.count 0 s) (fun vs s =>
        let (es, s) := startEncodes x c vs (p.rerankN ≠ 0) s
        .ok { sr with enc := es } s)
  else
    andThen (readEach (fun j s => readCodes x p c j s) p.count 0 s) (fun qs s =>
      if p.rerankN = 0 then .ok { sr with queries := qs } s
      else
        andThen (readEach (fun j s => readRq x p c j (qs.getD j queryEmpty) s) p.count 0 s) (fun qs s =>
          .ok { sr with queries := qs } s))

/-- A search row begins: while the command has done nothing, its start. -/
def searchRow (c op : Nat) (f : Cmd → Coll → State → Res State) (s : State) : State :=
  match running s c op with
  | some x =>
    match x.work, viewOf s x with
    | .none, some k => if barred s x then s else unlessPoison x s (settle c (f x k s))
    | _, _ => s
  | none => s

end Sys2Proof.Machine
end

