-- ==== Sys2Proof/Machine/Flat.lean ====
section
/-! DEFINITION. SEARCH_FLAT and SEARCH_BATCH (R127 to R135): which partitions they scan, and their start. -/

namespace Sys2Proof.Machine

/-- The listed probe keys (R129, R130). -/
def readProbes (x : Cmd) (s : State) : Res (List Nat) :=
  let n := cf x 60 2
  andThen (readBuf x (cf x 40 8) (4 * n) s) (fun bs s =>
    let keys := (List.range n).map (fun i => fld bs (4 * i) 4)
    match notRising keys 0 with
    | some i => inputBad x (cf x 40 8 + 4 * i) s
    | none => .ok keys s)

/-- Deal the blocks of the side list and of the partitions with the given keys. -/
def withBlocks (s : State) (sr : Search) (keys : List Nat) : Search :=
  let ps := sr.coll.arr.parts.filterMap (fun p => if p.1 ∈ keys then some p.2 else none)
  { sr with blocks := dealBlocks s (rawBlocks sr.h sr.coll ps) }

/-- The keys a search scans, once its codes are known; `listed` is the probe list. -/
def scanKeys (x : Cmd) (sr : Search) (listed : List Nat) : List Nat :=
  match cf x 62 1 with
  | 0 => sr.coll.arr.parts.map Prod.fst
  | 1 => listed
  | _ => nearestKeys sr.coll (cf x 60 2) ((sr.queries.head?.map Query.qCur).getD 0)

/-- Bore probes the centroid table for a NEAREST search on the home cluster (R129, R189). -/
def noteProbe (x : Cmd) (sr : Search) (s : State) : State :=
  if cf x 62 1 = 2 then
    countProbe (serve s x.home) sr.coll.codeBits ((sr.coll.arr.parts.map Prod.fst).map (fun i => sr.coll.centroids.getD i 0))
      (sr.queries.map Query.qCur) s
  else s

/-- Set the blocks of a search whose codes are known. -/
def planBlocks (x : Cmd) (sr : Search) (listed : List Nat) (s : State) : State :=
  let keys := scanKeys x sr listed
  setWork x.id (.search (withBlocks s sr keys)) (countScans sr.h keys (noteProbe x sr s))

/-- The centroid table of a NEAREST search is lost (R432). -/
def probeLost (s : State) (x : Cmd) (c : Coll) : Option Nat :=
  if cf x 62 1 = 2 then (tget s.tables c.centroid).bind Tbl.lost else none

/-- The centroid table of a NEAREST search is paused: its probe waits (R429). -/
def probePaused (s : State) (x : Cmd) (c : Coll) : Bool := cf x 62 1 = 2 && (tget s.tables c.centroid).any Tbl.paused

/-- The start of a flat search: its inputs are read and checked, and its blocks are dealt. -/
def flatStart (x : Cmd) (c : Coll) (s : State) : Res State :=
  match probeLost s x c with
  | some a => mediaLost a s
  | none =>
    if probePaused s x c then .wait (cmdMod x.id (fun y => { y with tableWait := true }) s)
    else
      andThen (readQueries x c (searchInit x c) s) (fun sr s =>
      andThen (readFilter x (cf x 32 8) s) (fun f s =>
      andThen (if cf x 62 1 = 1 then readProbes x s else .ok [] s) (fun listed s =>
        let sr := { sr with filter := f }
        let s := endStage x.id 2 (consumeRings x.id s)
        if (bellMarked sr.enc).isSome then .ok (bellPoison x (headSlot x.id s) s) s
        else if sr.enc.all encDone then .ok (planBlocks x (withCodes sr) listed s) s
        else if cf x 62 1 = 2 then .ok (setWork x.id (.search sr) s) s
        else .ok (planBlocks x sr listed s) s)))

/-- SEARCH_FLAT (R127). -/
def execSearchFlat (c : Nat) (s : State) : Host.Outcome State Fault Refusal := .next (drainAll (searchRow c 0x30 flatStart s))

def batchSearchStart (x : Cmd) (c : Coll) (s : State) : Res State := flatStart x c s

/-- SEARCH_BATCH (R134). -/
def execSearchBatch (c : Nat) (s : State) : Host.Outcome State Fault Refusal := .next (drainAll (searchRow c 0x33 batchSearchStart s))

/-- The codes of a SOURCE search are ready: its encode's rings are free, and blocks that waited for them are dealt (R129, R261). -/
def codesReady (x : Cmd) (sr : Search) (s : State) : State :=
  let sr := withCodes sr
  let s := freeStage x.id (endStage x.id 3 s)
  if cOp x ≠ 0x31 ∧ cf x 62 1 = 2 then planBlocks x sr [] s else setWork x.id (.search sr) s

end Sys2Proof.Machine
end

