-- ==== Sys2Proof/Machine/Graph.lean ====
section
/-! DEFINITION. SEARCH_GRAPH and the beam walk of Keywork (R142 to R165). -/

namespace Sys2Proof.Machine

/-! ## Sketches (R144) -/

/-- Bit j of a sketch is bit j × (L / 64) of the code. -/
def sketchOf (l code : Nat) : Nat := (List.range 64).foldl (fun a j => a + b2n (bit code (j * (l / 64))) * 2 ^ j) 0

/-! ## The walk (R150) -/

/-- The frontier of the next round: the first unexpanded entries of the beam, as far as width and expansions allow. -/
def nextFront (w : Walk) : List Nat :=
  ((w.beam.filter (fun b => !b.expanded)).take (min w.width (w.maxExp - w.expansions))).map (fun b => b.cand.slot)

/-- Start the next round, or end the walk (R153). -/
def nextRound (w : Walk) : Walk :=
  let f := nextFront w
  let w := { w with headsRead := [] }
  if f = [] || (w.maxRounds ≠ 0 && w.rounds = w.maxRounds) then
    { w with front := [], waiting := [], listed := true, cset := [], ended := true }
  else { w with front := f, waiting := f, listed := false, cset := [] }

/-- The walk of a search before round 0: it seeds from the entry-set nodes that the graph holds (R154, R156, log entry 45). -/
def walkInit (s : State) (x : Cmd) (c : Coll) : Walk :=
  let seeds := (c.arr.entrySet.filter (fun n => (tget c.arr.nodes n).isSome)).foldl (fun a n => insertNat n a) []
  { beam := [], cand := listEmpty, visited := [], rounds := 0, expansions := 0, front := [], waiting := seeds, listed := true,
    cset := seeds, headsRead := [], seeding := true, ended := seeds = [], contexts := (s.contexts.filter (fun p => p.2 = x.id)).map Prod.fst,
    lead := x.lead, beamSize := cf x 56 2, width := graphWidth x, maxExp := graphExp x, maxRounds := cf x 68 2,
    slack := cf x 70 2, strict := cf x 59 1 = 1 }

/-- The screening threshold of a round; none for unlimited. -/
def threshold (w : Walk) : Option Nat :=
  if w.beam.length = w.beamSize && w.slack ≠ 0xFFFF then (w.beam.getLast?.map (fun b => b.cand.dist + w.slack)) else none

/-- The nodes that a round scores: neighbours of the frontier, not visited, that pass the screen (R151, R152). -/
def screen (sr : Search) (q : Query) (w : Walk) : List Nat :=
  let l := sr.coll.codeBits
  let ns := (w.front.flatMap (fun f => (tget sr.coll.arr.nodes f).getD [])).foldl (fun a n => insertNat n a) []
  ns.filter (fun n => n ≠ 0xFFFF_FFFF && n ∉ w.visited && (tget sr.coll.arr.nodes n).isSome &&
    (match tget sr.coll.entries n, threshold w with
      | some e, some t => hamming 64 (sketchOf l e.code) (sketchOf l (if e.encNext then q.qNext else q.qCur)) * (l / 64) ≤ t
      | some _, none => true
      | none, _ => false))

/-- Insert into the beam, which keeps its best entries. -/
def beamInsert (size : Nat) (b : Beam) (bs : List Beam) : List Beam :=
  (insertBy (fun a b => rankLt 0 a.cand b.cand) b bs).take size

/-- Commit one node (R150, R157). -/
def commitNode (shard : Nat) (q : Query) (p : Search × Walk) (n : Nat) : Search × Walk :=
  let (sr, w) := p
  let w := { w with visited := insertNat n w.visited }
  match tget sr.coll.entries n with
  | none => (sr, w)
  | some e =>
    let present := presentAt sr e
    let ok := passesAt sr e
    let k := candOf sr shard false q e
    let sr := { sr with examined := sr.examined + b2n present, passed := sr.passed + b2n ok,
                        seenCur := sr.seenCur || (present && !e.encNext), seenNext := sr.seenNext || (present && e.encNext) }
    let w := if ok && k.dist ≤ sr.maxDist then { w with cand := offer 0 sr.kSel w.cand k } else w
    (sr, if ok || !w.strict || w.seeding then { w with beam := beamInsert w.beamSize { cand := k, expanded := false } w.beam } else w)

/-- Commit a round: its nodes in ascending order, then the frontier is marked and the next round begins. -/
def commitRound (shard : Nat) (sr : Search) (q : Query) (w : Walk) : Search × Walk :=
  let (sr, w2) := (sortBy (fun (a b : Nat) => a < b) w.cset).foldl (commitNode shard q) (sr, w)
  let beam := w2.beam.map (fun b => if b.cand.slot ∈ w.front then { b with expanded := true } else b)
  let w3 := { w2 with beam := beam, expansions := w2.expansions + w.front.length, seeding := false,
                      rounds := if w.seeding then w2.rounds else w2.rounds + 1 }
  (sr, nextRound w3)

/-! ## Rows -/

/-- The walk has ended: contexts and walker pool are free, and the search's charges leave the ledgers (R161). -/
def endWalk (c : Nat) (s : State) : State :=
  match cmdGet s c with
  | none => s
  | some x =>
    cmdMod c (fun y => { y with pool := 0, charges := [] }) (releaseCharges x (freeContexts c s))

/-- The start of a graph search: its inputs, its walk and the scan of the side list (R154). -/
def graphStart (x : Cmd) (c : Coll) (s : State) : Res State :=
  andThen (readQueries x c (searchInit x c) s) (fun sr s =>
  andThen (readFilter x (cf x 32 8) s) (fun f s =>
    let w := walkInit s x c
    let marked := (bellMarked sr.enc).isSome
    let sr := { sr with filter := f, walk := some w, blocks := dealBlocks s (rawBlocks sr.h c []) }
    let sr := if sr.enc.all encDone then withCodes sr else sr
    let s := setWork x.id (.search sr) (endStage x.id 2 (consumeRings x.id s))
    .ok (if marked then bellPoison x (headSlot x.id s) s else if w.ended then endWalk x.id s else s) s))

/-- SEARCH_GRAPH (R158). -/
def execSearchGraph (c : Nat) (s : State) : Host.Outcome State Fault Refusal := .next (drainAll (searchRow c 0x31 graphStart s))

/-- BLK_ERR bit of a poisoned node word in the KWK page: HEAD, NBR or SKETCH_POISON. -/
def nodeBit (w : DataWord) : Nat := match w with | .links => 1 | .sketch => 2 | _ => 0

/-- A walker reads a poisoned word `w` of node `n`: the search fails (R165). -/
def nodePoison (x : Cmd) (tower n : Nat) (p : Poison) (w : DataWord) (s : State) : State :=
  let o := reg .kwk tower 0x128
  let s := bumpSat o 0 32 1 (bumpSat o 32 32 1 s)
  let f : CmdFault := { page := blkPage .kwk tower, bit := nodeBit w, addr := BitVec.ofNat 64 (p.addr % 2 ^ 38),
                        info := BitVec.ofNat 64 (poisonInfo p) }
  let ev := { mkEv 0x0060 2 .kwk tower (ownerOf s p.coll) (p.addr % 2 ^ 38) (poisonInfo p) n 1 with coll := p.coll }
  cmdMod x.id (fun y => { y with after := y.after ++ [ev] }) (failCmd x.id stPoisoned (some f) s)

/-- Words that a read of a node brings: its neighbour list and sketches in phase A, its head when it is scored. -/
def nodeWords (listed : Bool) : List DataWord := if listed then [.record, .code, .tomb] else [.links, .sketch]

/-- NODE_READ_ARRIVAL (R146): a read of the round in progress returns. Once every neighbour list of the frontier is there,
the round's set is fixed and the heads are read. -/
def nodeArrives (c n : Nat) (s : State) : State :=
  match cmdGet s c with
  | none => s
  | some x =>
    match x.phase, x.work with
    | .executing, .search sr =>
      match sr.walk, sr.queries with
      | some w, q :: _ =>
        if w.ended || sr.enc ≠ [] || n ∉ w.waiting then s
        else
          match nodePoisonAt s sr.coll sr.h n (nodeWords w.listed) with
          | some (p, d) => nodePoison x w.lead n p d s
          | none =>
            let w := { w with waiting := w.waiting.filter (· ≠ n) }
            let w := if w.waiting = [] && !w.listed then
                let cs := screen sr q w
                { w with listed := true, cset := cs, waiting := cs.filter (· ∉ w.headsRead) }
              else w
            setWork c (.search { sr with walk := some w }) s
      | _, _ => s
    | _, _ => s

def execNodeReadArrival (c node : Nat) (s : State) : Host.Outcome State Fault Refusal := .next (drainAll (nodeArrives c node s))

/-- A walk has its round ready to commit. -/
def roundReady (sr : Search) (w : Walk) : Bool := !w.ended && sr.enc = [] && w.listed && w.waiting = []

/-- A bounded search has a round ready to commit and shares a walker core with the command: it goes first (R99). -/
def coreTaken (s : State) (x : Cmd) : Bool :=
  !x.bounded && s.cmds.any (fun y => y.bounded && y.phase = .executing
    && (match y.work with
      | .search sr => sr.walk.any (roundReady sr)
      | _ => false)
    && s.contexts.any (fun p => p.2 = x.id && (p.1, y.id) ∈ s.contexts))

/-- WALK_ROUND_COMMIT (R150): every read of the round has returned; phase B runs. -/
def walkCommit (c : Nat) (s : State) : State :=
  match cmdGet s c with
  | none => s
  | some x =>
    match x.phase, x.work with
    | .executing, .search sr =>
      match sr.walk, sr.queries with
      | some w, q :: _ =>
        if !roundReady sr w || coreTaken s x then s
        else
          let n := w.front.length
          let (sr, w2) := commitRound (shardId s) sr q w
          let g := sr.coll.degree
          let fj := n * (125 * g * 300000 + nodeStride sr.coll * 12500) + w.cset.length * entryBytes sr.coll * 12500
          let s := account (domOf s x) 0 n 0 fj (bumpWrap (reg .kwk w.lead 0x118) 0 64 n s)
          -- its part of the walk's expansions comes off the walker cores and the stacks (R100)
          let s := workDone c (fun k => keyRes k = 0 || keyRes k = 2) ((n : Rat) / max 1 (w.maxExp - w.expansions)) s
          let s := setWork c (.search { sr with walk := some w2 }) s
          if w2.ended then endWalk c s else s
      | _, _ => s
    | _, _ => s

def execWalkRoundCommit (c : Nat) (s : State) : Host.Outcome State Fault Refusal := .next (drainAll (walkCommit c s))

/-! ## Moved contexts (R163) -/

/-- The nodes whose heads context `i` of a round reads: those of its frontier node's list that no earlier context's list holds. -/
def contextHeads (sr : Search) (w : Walk) (i : Nat) : List Nat :=
  let ns := fun (f : Nat) => (tget sr.coll.arr.nodes f).getD []
  let before := (w.front.take i).flatMap ns
  w.cset.filter (fun n => ((w.front[i]?).map ns).any (n ∈ ·) && n ∉ before)

/-- The work of a round on context `i` of a walk, which reads frontier node `i`, is discarded and its phase A read is issued
again; what the other contexts have read stays (R163). The entry nodes of round 0 are dealt to the contexts in turn. -/
def reissue (sr : Search) (i : Nat) (w : Walk) : Walk :=
  if w.ended then w
  else if w.seeding then
    let mine := ((List.range w.cset.length).filter (fun k => k % max 1 w.contexts.length = i)).map (fun k => w.cset.getD k 0)
    { w with waiting := mine.foldl (fun a n => insertNat n a) w.waiting }
  else
    match w.front[i]? with
    | none => w
    | some f =>
      if !w.listed then { w with waiting := insertNat f w.waiting }
      else
        let mine := contextHeads sr w i
        { w with waiting := [f], listed := false, cset := [],
                 headsRead := w.cset.filter (fun n => n ∉ w.waiting && n ∉ mine) }

/-- A search's context on core `a` moves to core `b`. -/
def moveCmd (a b : Nat) (x : Cmd) : Cmd :=
  match x.work with
  | .search sr =>
    match sr.walk with
    | some w =>
      let w2 := reissue sr (w.contexts.idxOf a) w
      { x with work := .search { sr with walk := some { w2 with contexts := w.contexts.set (w.contexts.idxOf a) b } } }
    | none => x
  | _ => x

/-- The contexts of a walker core must move: it is retired, replaced, asleep or out for a self-test. -/
def coreAway (s : State) (k : Nat) : Bool :=
  let u : UnitId := { kind := 4, logical := k }
  !coreIn s k || u ∈ s.blw.asleep || u ∈ s.chn.returning || k ∈ s.chn.coresMoving

/-- CONTEXT_MOVED (R163): search contexts of a core that has been retired or sleeps move to a core of its tower, as many as it has
room for. A core that comes back later still holds what has moved, under the epoch of the move (R164). -/
def contextMoved (a b : Nat) (s : State) : State :=
  let a := a % 128
  let b := b % 128
  let moved := ((s.contexts.filter (fun p => p.1 = a)).map Prod.snd).take (480 - coreHeld s b)
  if moved = [] || a = b || a / 32 ≠ b / 32 || !coreAway s a || coreAway s b then s
  else
    let ctx := s.contexts.map (fun p => if p.1 = a && p.2 ∈ moved then (b, p.2) else p)
    let s := { s with contexts := ctx,
                      cmds := s.cmds.map (fun x => if x.id ∈ moved then moveCmd a b x else x),
                      chn := { s.chn with coresMoving := s.chn.coresMoving.filter (fun k => ctx.any (fun p => p.1 = k)),
                                          stale := if a ∈ s.chn.coresMoving then s.chn.stale
                                                   else s.chn.stale ++ moved.map (fun x => (a, x, s.chn.epoch)) } }
    let t := a / 32
    raise .kwk (mkEv 0x0061 0 .kwk t 0xFFFF 0 (a + b * 256) moved.length 0) (bumpSat (reg .kwk t 0x120) 0 32 moved.length s)

def execContextMoved (fromCore toCore : Nat) (s : State) : Host.Outcome State Fault Refusal :=
  .next (drainAll (contextMoved fromCore toCore s))

end Sys2Proof.Machine
end

