-- ==== Sys2Proof/Machine/Fanout.lean ====
section
/-! DEFINITION. SEARCH_FANOUT at its coordinator, and sub-queries at a shard (R389 to R396). -/

namespace Sys2Proof.Machine

/-! ## The params block (Table 15.2, R391) -/

/-- A search body made of bytes 48 to 119, with the command's header. -/
def bodyOf (op : Nat) (x : Cmd) (params : List Byte) : List Byte :=
  leBytes 1 op ++ leBytes 1 0 ++ slice x.bytes 2 14 ++ List.replicate 32 0 ++ slice params 0 72

def fanOp (x : Cmd) : Nat := if cf x 74 1 = 1 then 0x31 else 0x30

/-- The command whose fields the params block stands for. -/
def fanCmd (x : Cmd) (params : List Byte) : Cmd := { x with bytes := bodyOf (fanOp x) x params }

/-- Put a non-zero address where a CODE query with rerank needs one, so that the checks of Table 5.1 and Table 6.4 apply to
the other fields alone. -/
def fillRq (y : Cmd) : Cmd :=
  let p := sparams y
  let at_ := if cOp y = 0x31 then 40 else 48
  if p.rerankN ≠ 0 && !p.source then { y with bytes := y.bytes.take at_ ++ leBytes 8 64 ++ y.bytes.drop (at_ + 8) } else y

/-- The offset, in the params block, of the first field that breaks a rule (R391). -/
def badParams (s : State) (x : Cmd) (c : Coll) (params : List Byte) : Option Nat :=
  let y := fanCmd x params
  let z := fillRq y
  let p := sparams y
  let body := if cOp y = 0x31 then badGraph z else badFlat z false
  let open_ : Coll := { c with indexKind := 2, building := false, partMode := 1 }
  let kOff := if cOp y = 0x31 then (if p.rerankN = 0 then 48 else 52) else (if p.rerankN = 0 then 56 else 64)
  let addr := cOp y ≠ 0x31 && fld params 0 8 ≠ 0
  let offs := (if addr then [48] else []) ++ (if cOp y ≠ 0x31 && cf y 62 1 = 1 then [62] else []) ++
    (match body with | some o => [max o 48] | none => []) ++ (match badForColl s y open_ with | some o => [max o 48] | none => []) ++
    (if kSelOf p.k p.rerankN > 1024 then [kOff] else [])
  match offs with
  | [] => firstNonzero params 72 127
  | o :: t => some ((t.foldl min o) - 48)

/-! ## The shard list (Table 15.3) -/

def shardOf (bs : List Byte) (i : Nat) : Shard :=
  { peer := fld bs (16 * i) 2, coll := fld bs (16 * i + 2) 2, shardId := fld bs (16 * i + 4) 2, request := 0, report := none,
    entries := [], answered := false }

/-- First entry of a shard list that breaks a rule, as an offset. -/
def badShards (s : State) (bs : List Byte) : Nat → Nat → Option Nat
  | 0, _ => none
  | n + 1, i =>
    let p := fld bs (16 * i) 2
    let known := p = 0xFFFF || (tget s.cst.peers p).any (fun x => x.enable)
    match firstBad [ (!known, 16 * i), (fld bs (16 * i + 2) 2 ≥ 4096, 16 * i + 2), (fld bs (16 * i + 4) 2 ≥ 4096, 16 * i + 4),
                     ((firstNonzero bs (16 * i + 6) (16 * i + 15)).isSome, (firstNonzero bs (16 * i + 6) (16 * i + 15)).getD 0) ] with
    | some o => some o
    | none => badShards s bs n (i + 1)

/-- A peer of the list is down. -/
def shardsDown (s : State) (f : Fan) : Bool :=
  f.shards.any (fun h => !h.answered && h.peer ≠ 0xFFFF && !(tget s.cst.peers h.peer).any (fun p => p.state = 2))

/-! ## Sub-queries at a shard (R391, R392) -/

/-- Class of sub-queries of a bounded or an unbounded coordinator (CST_FANOUT). -/
def subClass (s : State) (bnd : Bool) : Nat :=
  let v := (regGet s (reg .cst 12 0x150)).toNat
  min 4 (if bnd then bits v 7 4 else bits v 3 0)

/-- What a sub-query asks (SUBQ). -/
structure SubQ where
  peer      : Nat
  request   : Nat
  kind      : Nat
  coll      : Nat
  shard     : Nat
  bnd       : Bool
  cut       : Bool
  deadline  : Nat
  codeBits  : Nat
  version   : Nat
  next      : Nat
  params    : List Byte
  codes     : List Byte
  rq        : List Byte
  filter    : List Byte
  tset      : List Nat

/-- The input area of a sub-query. -/
def subArea (q : SubQ) : List Byte :=
  slice q.codes 0 1024 ++ slice q.rq 0 4224 ++ slice q.filter 0 64 ++ q.tset.flatMap (leBytes 4)

/-- The body that a sub-query runs: a CODE query, with its header. -/
def subBytes (q : SubQ) : List Byte :=
  let op := if q.kind = 1 then 0x31 else 0x30
  let at_ := if q.kind = 1 then 7 else 15
  leBytes 1 op ++ leBytes 1 0 ++ leBytes 2 0xFFFF ++ leBytes 2 (2 * b2n q.cut) ++ leBytes 2 q.coll ++ leBytes 4 q.deadline
    ++ leBytes 4 0 ++ List.replicate 32 0 ++ (slice q.params 0 72).set at_ 0

/-- A sub-query that fits its collection. -/
def subFits (s : State) (q : SubQ) : Bool :=
  shardId s = q.shard && (tget s.colls q.coll).any (fun c => c.codeBits = q.codeBits && c.encVersion = q.version && c.encNext = q.next)

/-- A sub-query's fields suit the collection as it stands at the shard: its index kind and partition mode (R129, R130). -/
def subSuits (s : State) (q : SubQ) : Bool :=
  (tget s.colls q.coll).any (fun c =>
    if q.kind = 1 then !(c.indexKind = 0 || (c.indexKind = 2 && c.building && c.buildGraph))
    else !(c.indexKind = 1 || (c.indexKind = 2 && c.building && !c.buildGraph)) && !(fld q.params 14 1 = 2 && c.partMode ≠ 1))

/-- A sub-query arrives: its horizon is formed and it waits for a start decision, or it fails at once (R391, R392). -/
def subArrive (q : SubQ) (s : State) : State :=
  let cls := subClass s q.bnd
  let base := ((tget s.colls q.coll).map Coll.posted).getD 0
  let x := { newCmd s.nextCmd (32768 + cls) (subBytes q) s.now base with sub := some (q.peer, q.request), dataIn := subArea q }
  let s := { s with nextCmd := s.nextCmd + 1, cmds := s.cmds ++ [x] }
  if subFits s q && subSuits s q then s
  else cmdMod x.id (fun y => { y with phase := .finished, status := stBadField }) s

/-! ## Sending (R391, R396) -/

/-- The sub-query for a shard; deadline in µs. -/
def subqOf (x : Cmd) (c : Coll) (f : Fan) (deadline request : Nat) (h : Shard) (local_ : Nat) : SubQ :=
  { peer := if h.peer = 0xFFFF then local_ else h.peer, request := request, kind := cf x 74 1, coll := h.coll, shard := h.shardId,
    bnd := x.bounded, cut := cCut x, deadline := deadline, codeBits := c.codeBits, version := c.encVersion, next := c.encNext,
    params := f.params, codes := f.codes, rq := f.rq, filter := f.filter, tset := f.tset }

/-- A sub-query as its message carries it; the layout behind the message header is the model's own (log entry 43). -/
def subqBytes (q : SubQ) : List Byte :=
  leBytes 1 q.kind ++ leBytes 1 (b2n q.bnd + 2 * b2n q.cut) ++ leBytes 2 q.coll ++ leBytes 2 q.shard ++ leBytes 4 q.deadline
    ++ leBytes 2 q.codeBits ++ leBytes 2 q.version ++ leBytes 2 q.next ++ slice q.params 0 72 ++ subArea q

/-- Send the sub-queries of the shards from the list on; each takes the next request number. -/
def sendSubs (x : Cmd) (c : Coll) (f : Fan) (deadline : Nat) : List Shard → State → List Shard × State
  | [], s => ([], s)
  | h :: t, s =>
    let r := s.cst.nextRequest
    let s := { s with cst := { s.cst with nextRequest := (r + 1) % 65536 } }
    let q := subqOf x c f deadline r h (0x10000 + domOf s x)
    let s := if h.peer = 0xFFFF then subArrive q s else sendMsg h.peer 1 x.bounded (BitVec.ofNat 64 r) (subqBytes q) s
    let (hs, s) := sendSubs x c f deadline t s
    ({ h with request := r } :: hs, s)

/-- Time left to the deadline for a sub-query, in µs, less rtt_budget and 2.0 µs for the coordinator (R396). -/
def subDeadline (s : State) (x : Cmd) : Int :=
  ((x.arrival + x.deadlineUs * 1000 : Nat) - (s.now : Int) - rttBudget s - 2000) / 1000

/-- The codes of a fan-out are ready: its sub-queries are sent, or it is refused. -/
def fanSend (x : Cmd) (c : Coll) (f : Fan) (s : State) : State :=
  if shardsDown s f then refuse x.id 5 s
  else if x.deadlineUs ≠ 0 ∧ subDeadline s x ≤ 0 ∧ x.bounded then refuse x.id 4 s
  else
    let d := if x.deadlineUs = 0 then 0 else max 1 (subDeadline s x).toNat
    let (hs, s) := sendSubs x c f d f.shards s
    setWork x.id (.fan { f with shards := hs, sent := true, sentAt := s.now, subUs := d, enc := [] }) s

/-- Codes and rerank blocks of an encoded query, as a sub-query carries them. -/
def fanCodes (c : Coll) (f : Fan) : Fan :=
  if f.enc = [] then f
  else
    let sr := withCodes { searchInit (newCmd 0 0 [] 0 0) c with queries := [queryEmpty], enc := f.enc }
    let q := sr.queries.getD 0 queryEmpty
    let rq := fun (o : Option RQuery) => (o.map rerankBlock).getD (List.replicate 2112 0)
    { f with codes := leBytes 512 q.qCur ++ leBytes 512 q.qNext,
             rq := if f.rerankN = 0 then [] else rq q.rqCur ++ rq q.rqNext, enc := [] }

/-- The rerank blocks of a fan-out's query; the reserved bytes of each are zero (R4, R131). -/
def fanRq (x : Cmd) (c : Coll) (s : State) : Res (List Byte) :=
  let va := cf x 40 8
  andThen (readBuf x va (rqBytes c false) s) (fun rq s =>
    match badRq rq, (if rq.length ≤ 2112 then none else badRq (rq.drop 2112)) with
    | some o, _ => inputBad x (va + o) s
    | none, some o => inputBad x (va + 2112 + o) s
    | none, none => .ok rq s)

/-- The query of a fan-out: codes and rerank blocks, or a source whose encode begins. -/
def fanQuery (x : Cmd) (c : Coll) (p : SParams) (f : Fan) (s : State) : Res Fan :=
  if p.source then
    match progLost s c.encVersion, (if c.encNext = 0xFFFF then none else progLost s c.encNext) with
    | some a, _ | none, some a => .fail stMediaLost (some { page := blkPage .bag 0, bit := 2, addr := BitVec.ofNat 64 a, info := 0 }) s
    | none, none =>
      andThen (readSource x c.srcFormat c.srcDim (cf x 16 8) 0 s) (fun v s =>
        let (es, s) := startEncodes x c [v] (p.rerankN ≠ 0) s
        .ok { f with enc := es } s)
  else
    andThen (readBuf x (cf x 16 8) (queryBytes c false) s) (fun bs s =>
    andThen (if p.rerankN = 0 then .ok [] s else fanRq x c s) (fun rq s =>
      .ok { f with codes := slice bs 0 512 ++ slice bs 512 512, rq := rq } s))

/-- The filter of a fan-out: checked here, carried as it stands. -/
def fanFilter (x : Cmd) (s : State) : Res (List Byte × List Nat) :=
  if cf x 32 8 = 0 then .ok (List.replicate 64 0, []) s
  else
    andThen (readFilter x (cf x 32 8) s) (fun f s =>
    andThen (readBuf x (cf x 32 8) 64 s) (fun bs s => .ok (bs, (f.map Filter.tset).getD []) s))

/-- What a fan-out reads and checks before it sends: its params block, shard list, filter and query (R390, R391). -/
def fanInputs (x : Cmd) (c : Coll) (s : State) : Res Fan :=
  andThen (readBuf x (cf x 64 8) 128 s) (fun params s =>
    match badParams s x c params with
    | some o => inputBad x (cf x 64 8 + o) s
    | none =>
      let p := sparams (fanCmd x params)
      let needRq := p.rerankN ≠ 0 && !p.source
      if (cf x 40 8 ≠ 0) ≠ needRq then .fail stBadField (some (wwyFault x stBadField 40)) s
      else
        let n := cf x 72 2
        andThen (readBuf x (cf x 48 8) (16 * n) s) (fun ls s =>
          match badShards s ls n 0 with
          | some o => inputBad x (cf x 48 8 + o) s
          | none =>
            andThen (fanFilter x s) (fun (fb, ts) s =>
              let f : Fan := { shards := (List.range n).map (shardOf ls), k := p.k, kSel := kSelOf p.k p.rerankN, rerankN := p.rerankN,
                               key := p.key, h := cColl x, cut := false, enc := [], sent := false, sentAt := 0, subUs := 0, params := params, codes := [],
                               rq := [], filter := fb, tset := ts }
              fanQuery x c p f s)))

/-- The codes of a fan-out are ready: its encode's rings are free, and it sends (R261). -/
def fanReady (x : Cmd) (c : Coll) (f : Fan) (s : State) : State := fanSend x c (fanCodes c f) (freeStage x.id (endStage x.id 3 s))

/-- The start of a fan-out (R390, R391). -/
def fanStart (x : Cmd) (c : Coll) (s : State) : Res State :=
  andThen (fanInputs x c s) (fun f s =>
    let s := endStage x.id 2 (consumeRings x.id s)
    match bellMarked f.enc with
    | some _ => .ok (bellPoison x (headSlot x.id s) s) s
    | none => .ok (if f.enc.all encDone then fanReady x c f s else setWork x.id (.fan f) s) s)

/-- SEARCH_FANOUT (R390). -/
def execSearchFanout (c : Nat) (s : State) : Host.Outcome State Fault Refusal := .next (drainAll (searchRow c 0x32 fanStart s))

/-- SUBQ (R391, R392): a sub-query arrives from a peer that has SHARD granted; any other is refused (R388). -/
def subqRow (q : SubQ) (s : State) : State :=
  match tget s.cst.peers q.peer with
  | none => s
  | some p =>
    if !p.enable || p.state ≠ 2 then s
    else if bit p.roles 0 then subArrive q s
    else sendMsg q.peer 5 false (BitVec.ofNat 64 (8 * 2 ^ 16)) [] (bumpSat (reg .cst 12 0x158) 32 32 1 s)

def execSubq (peer request subKind coll shardId : Nat) (bnd cut : Bool) (deadlineUs codeBits encVersion encNext : Nat)
    (params codes rq filter : List Byte) (tset : List Nat) (s : State) : Host.Outcome State Fault Refusal :=
  .next (drainAll (subqRow
    { peer := peer % 1024, request := request % 65536, kind := subKind % 2, coll := coll % 4096, shard := shardId % 4096, bnd := bnd,
      cut := cut, deadline := deadlineUs, codeBits := codeBits, version := encVersion, next := encNext, params := params,
      codes := codes, rq := rq, filter := filter, tset := tset } s))

/-! ## Answers (R393 to R395) -/

/-- The round trip exceeded rtt_budget: the answer is later than the sub-query's deadline with the budget, and the shard was
not late itself (R396). -/
def tripLate (s : State) (x : Cmd) (f : Fan) (rep : ShardReport) : Bool :=
  x.bounded && f.subUs ≠ 0 && !rep.hflags.getLsbD 2 && s.now > f.sentAt + f.subUs * 1000 + rttBudget s

/-- A shard's answer reaches the fan-out that asked; its share of the fan-out's fabric work is done (R100). -/
def shardAnswer (peer request : Nat) (rep : ShardReport) (es : List WireEntry) (s : State) : State :=
  let mine := fun (h : Shard) => h.peer = peer && h.request = request && !h.answered
  let one := fun (h : Shard) => if mine h then { h with report := some rep, entries := es, answered := true } else h
  s.cmds.foldl (fun s x =>
    match x.phase, x.work with
    | .executing, .fan f =>
      if f.sent && f.shards.any mine then
        let late := peer < 1024 && tripLate s x f rep
        workDone x.id (fun k => keyRes k = 7) (1 / max 1 (f.shards.filter (fun h => !h.answered)).length)
          (cmdMod x.id (fun y => { y with work := .fan { f with shards := f.shards.map one }, fabricLate := y.fabricLate || late }) s)
      else s
    | _, _ => s) s

/-- SUBRES (R393): a shard's list arrives from a connected peer. -/
def execSubres (peer request : Nat) (rep : ShardReport) (es : List WireEntry) (s : State) : Host.Outcome State Fault Refusal :=
  .next (if (tget s.cst.peers peer).any (fun p => p.state = 2) ∧ peer < 1024 then shardAnswer peer request rep es s else s)

/-- An entry of a shard's list as a candidate. -/
def candOfWire (e : WireEntry) : Cand :=
  { vid := e.vid, dist := e.dist, slot := 0, side := e.eflags.getLsbD 1, encNext := e.eflags.getLsbD 3, shard := e.shard,
    score := e.score, arith := e.arith }

/-- Shards that answered with success. -/
def goodShards (f : Fan) : List (Shard × ShardReport) :=
  f.shards.filterMap (fun h => h.report.bind (fun r => if r.status < 0x100 then some (h, r) else none))

/-- The first failure in list order: place in the list, and status. A shard left out at a cut is none. -/
def firstFailure (f : Fan) : Option (Nat × Nat) :=
  (List.range f.shards.length).findSome? (fun i => (f.shards[i]?).bind (fun h => h.report.bind (fun r =>
    if r.status ≥ 0x100 ∧ ¬ (f.cut ∧ r.status = stAborted) then some (i, r.status) else none)))

/-- The lists of the shards, in list order. -/
def fanLists (f : Fan) : List CList :=
  (goodShards f).map (fun p => { entries := p.1.entries.map candOfWire, tail := p.2.tail, stamp := p.2.stamp })

/-- The fan-out ranks by score: a rerank was asked for and every shard that answered has scored (R139, R393). -/
def fanScored (f : Fan) : Bool := f.rerankN ≠ 0 && (goodShards f).all (fun p => p.2.hflags.getLsbD 4)

/-- PARTIAL: a shard was left out or answered with PARTIAL (R395). -/
def fanPartial (f : Fan) : Bool := (f.shards.any (fun h => h.report.all (fun r => r.status = stAborted))) || (goodShards f).any (fun p => p.2.hflags.getLsbD 1)

def fanHeader (c : Coll) (f : Fan) (merged : CList) : Header :=
  let or_ := fun (i : Nat) => (goodShards f).any (fun p => p.2.hflags.getLsbD i)
  { epoch := 0, horizon := 0, coll := f.h, enc := c.encVersion, k := f.k,
    hflags := 2 * b2n (fanPartial f) + 16 * b2n (fanScored f) + 32 * b2n (fanScored f && f.key = 1) + 64 * b2n (or_ 6) + 128 * b2n (or_ 7),
    examined := (goodShards f).foldl (fun a p => a + p.2.examined) 0, passed := (goodShards f).foldl (fun a p => a + p.2.passed) 0,
    arith := (listArith merged).toNat }

/-- The shard report (R394). -/
def fanReport (f : Fan) : List Byte :=
  f.shards.flatMap (fun h => match h.report with
    | some r => reportEntry r.viewEpoch r.horizon r.status r.shardId h.entries.length r.hflags.toNat
    | none => reportEntry 0 0 stAborted h.shardId 0 0)

/-- The coordinator's merge, its writes and its end (R393, R395). -/
def fanMerge (x : Cmd) (c : Coll) (f : Fan) (s : State) : State :=
  if !f.sent && !f.cut then s
  else if f.shards.any (fun h => !h.answered) then s
  else
    match firstFailure f with
    | some (i, st) =>
      failCmd x.id st (if st = stBadField then some (devFault (sldPage x.home) 1 (cf x 48 8 + 16 * i) 0) else none) s
    | none =>
      let (merged, dropped) := mergeLists 0 f.kSel (fanLists f)
      let final := if fanScored f then (mergeLists f.key f.k [{ merged with tail := 0 }]).1 else (mergeLists 0 f.k [merged]).1
      let hd := fanHeader c f merged
      let note := fun (t : State) => dupKeys x (serve t x.home) dropped (countMerge (serve t x.home) (endStage x.id 5 t))
      match andThen (if cf x 56 8 = 0 then .ok () s else writeBuf x (cf x 56 8) (fanReport f) s) (fun _ s =>
              writeBuf x (cf x 24 8) (resultBlock hd (fanScored f) final) s) with
      | .wait t => t
      | .fail st g t => failCmd x.id st g (note t)
      | .ok _ t =>
        finish x.id (fun y => { y with result := final.entries.length, isPartial := fanPartial f, tie := tiedBeyond f.k final ≠ 0,
                                       arith := hd.arith ≠ 0 }) (endStage x.id 7 (note t))

/-- Shards that have not answered are left out at the coordinator's cut (R395). -/
def fanCut (f : Fan) : Fan :=
  { f with cut := true, enc := [], shards := f.shards.map (fun h =>
      if h.answered then h
      else { h with answered := true, report := some { viewEpoch := 0, horizon := 0, status := stAborted, shardId := h.shardId,
                                                       returned := 0, hflags := 0, tail := 0, stamp := 0, examined := 0, passed := 0 } }) }

/-- A peer has gone down: every fan-out that waits for it is refused with reason 5 (R395). -/
def fansDown (peer : Nat) (s : State) : State :=
  let hit := s.cmds.filter (fun x => match x.phase, x.work with
    | .executing, .fan f => f.shards.any (fun h => h.peer = peer ∧ !h.answered)
    | _, _ => false)
  hit.foldl (fun s x => refuse x.id 5 s) s

/-- A peer refuses sub-queries: a fan-out that waits for it fails at that entry of its shard list (R391). -/
def fansRejected (peer : Nat) (s : State) : State :=
  s.cmds.foldl (fun s x => match x.phase, x.work with
    | .executing, .fan f =>
      match (List.range f.shards.length).find? (fun i => (f.shards[i]?).any (fun h => h.peer = peer ∧ !h.answered)) with
      | some i => failCmd x.id stBadField (some (devFault (sldPage x.home) 1 (cf x 48 8 + 16 * i) 0)) s
      | none => s
    | _, _ => s) s

end Sys2Proof.Machine
end

