-- ==== Sys2Proof/Machine/Bore.lean ====
section
/-! DEFINITION. The rows of Bore and of the home Valve: regions and their combination (R203, R206, R207), RERANK (R243), the
merges (R170) and the deadline cut (R110, R111). -/

namespace Sys2Proof.Machine

/-! ## Encodes -/

/-- An array is stopped in debug mode (R215). -/
def debugOn (s : State) (cl : Nat) : Bool := (regGet s (reg .bore cl 0x138)).getLsbD 0

/-- The encodes that a command has under way. -/
def encsOf (x : Cmd) : List Enc :=
  match x.work with
  | .encode es => es
  | .mutate m => m.enc
  | .search sr => sr.enc
  | .fan f => f.enc
  | _ => []

/-- Batches of a program that may run at once: one on each copy of its tables (R240, R510), or on each cluster of the tower in
chain mode (R241). -/
def batchesAtOnce (e : Enc) : Nat := if progChain e.img then 8 else copiesOf (stepSlices e.img (e.steps.headD 0))

/-- The batch that goes on next, by place: among those that run at once and suit `f`, the one with the most steps left. -/
def nextEnc (f : Enc → Bool) (es : List Enc) : Option (Nat × Enc) :=
  let open_ := ((List.range es.length).filterMap (fun i => (es[i]?).map (fun e => (i, e)))).filter (fun p => !encDone p.2)
  let now := (open_.take (max 1 ((open_.head?.map (fun p => batchesAtOnce p.2)).getD 1))).filter (fun p => f p.2)
  now.foldl (fun b p => match b with
    | none => some p
    | some q => if p.2.steps.length > q.2.steps.length then some p else b) none

/-- The batch whose next step a command's arrays may compute. -/
def nextRegion (x : Cmd) : Option (Nat × Enc) := nextEnc (fun e => !encWaitsCombine e) (encsOf x)

/-- Clusters on which a command has a region ready to compute. -/
def boreReady (s : State) (x : Cmd) : List Nat :=
  if x.phase ≠ .executing then []
  else
    match x.work with
    | .rerank _ => [serve s x.home]
    | .search sr => if sr.enc = [] then (if rerankDue sr then [serve s x.home] else []) else
        ((nextRegion x).map (fun p => encClusters s p.2)).getD []
    | _ =>
      match nextRegion x with
      | some p => if (tget s.tables (stepFld p.2.img (p.2.steps.headD 0) 8 2)).any Tbl.paused then [] else encClusters s p.2
      | none => []

/-- No new region of the command starts on these clusters: an array is in debug mode (R215), power is beyond its limit, the cap
throttles unbounded work (R415), or a bounded command has a region ready there (R99). -/
def boreHeld (s : State) (x : Cmd) (cl : List Nat) : Bool :=
  cl.any (debugOn s) || s.blw.borePaused
    || (!x.bounded && (s.blw.throttle || s.cmds.any (fun y => y.bounded && (boreReady s y).any (· ∈ cl))))

/-- Split steps whose regions wait on a cluster's array to be combined. -/
def stepsWaiting (s : State) (cl : Nat) : Nat :=
  (s.cmds.map (fun x => (if x.phase = .executing then encsOf x else []).countP (fun e => encWaitsCombine e && cl ∈ encClusters s e))).foldl (· + ·) 0

/-- An array has no room for the regions of one more step (Table 8.10). -/
def arrayFull (s : State) (e : Enc) : Bool :=
  let i := e.steps.headD 0
  let p := regionsInProgress (stepFld e.img i 23 1) (usesDouble e.img i) false
  let (r, c) := stepShape e.img i
  (encClusters s e).any (fun cl => (stepsWaiting s cl + 1) * (256 / r * (256 / c)) > p.1 + p.2)

/-- The command goes on with its encodes as they now stand. -/
def putEncs (x : Cmd) (es : List Enc) (s : State) : State :=
  let ends := es.all encDone
  match x.work with
  | .encode _ =>
    let s := setWork x.id (.encode es) s
    if ends then settle x.id (encodeEnd x es (freeStage x.id (endStage x.id 3 s))) else s
  | .mutate m =>
    let m := { m with enc := es }
    if ends then
      let (m, s) := encodeEnds x m s
      mutGoOn x m s
    else setWork x.id (.mutate m) s
  | .search sr =>
    let sr := { sr with enc := es }
    if ends then codesReady x sr s else setWork x.id (.search sr) s
  | .fan f =>
    let f := { f with enc := es }
    match ends, viewOf s x with
    | true, some c => fanReady x c f s
    | _, _ => setWork x.id (.fan f) s
  | _ => s

/-- MATMUL steps that the encodes still have to run. -/
def stepsLeft (es : List Enc) : Nat := (es.map (fun e => e.steps.countP (fun i => stepFld e.img i 0 1 = 2))).foldl (· + ·) 0

/-- What follows a region or a combination of batch `k`: the encode goes on with `note` of the arrays, or waits, or its command
fails. -/
def takeRes (x : Cmd) (k : Nat) (e : Enc) (r : EncRes) (note : State → State) (s : State) : State :=
  match r with
  | .paused => cmdMod x.id (fun y => { y with tableWait := true }) s
  | .lost h =>
    if x.jseq ≠ 0 then cmdMod x.id (fun y => { y with tableWait := true }) s
    else settle x.id (mediaLost (((tget s.tables h).bind Tbl.lost).getD 0) s)
  | .poisoned va => borePoison x ((encClusters s e).headD x.home) (dvAddr va) s
  | .full cs => countDrainWait x.id cs s
  | .ok e2 t =>
    let es := encsOf x
    let t := if encWaitsCombine e2 then t else workDone x.id (fun q => keyRes q = 3) (1 / max 1 (stepsLeft es + b2n (reranks x))) t
    putEncs x (es.set k e2) (note t)

/-- The regions of a command's next MATMUL step are computed. -/
def encStep (x : Cmd) (s : State) : State :=
  match nextRegion x with
  | none => s
  | some (k, e) =>
    let cl := encClusters s e
    if boreHeld s x cl || arrayFull s e then s
    else
      let i := e.steps.headD 0
      let note := fun (t : State) =>
        match tableAt s x.id (stepFld e.img i 8 2) with
        | some d =>
          countEvents e.img i cl e.vecs.length
            (noteAccs e.img i cl false (e.vecs.map (fun v => { v with parts := matmulParts e.img i d v })) t)
        | none => t
      takeRes x k e (encRegion x (domOf s x) e s) note s

/-- SPLIT_COMBINE (R207): the parts of a split step are combined and drained. -/
def splitCombine (c : Nat) (s : State) : State :=
  match cmdGet s c with
  | none => s
  | some x =>
    if x.phase ≠ .executing then s
    else
      match nextEnc encWaitsCombine (encsOf x) with
      | none => s
      | some (k, e) =>
        let cl := encClusters s e
        if cl.any (debugOn s) then s
        else takeRes x k e (encCombine x e s) (noteAccs e.img (e.steps.headD 0) cl true e.vecs) s

def execSplitCombine (c : Nat) (s : State) : Host.Outcome State Fault Refusal := .next (drainAll (splitCombine c s))

/-! ## RERANK (R243) -/

/-- The sign code of a rerank query: bit i is 1 when element i is negative. -/
def signCode (q : RQuery) : Nat := (List.range q.elems.length).foldl (fun a i => a + b2n (q.elems.getD i 0 ≥ 8) * 2 ^ i) 0

/-- The first identifier of a list that breaks a rule, by place (Table 9.8). -/
def badIds (bs : List Byte) (n : Nat) : Option Nat :=
  (List.range n).find? (fun i =>
    fld bs (8 * i + 6) 2 ≠ 0 || (i ≠ 0 && fld bs (8 * i) 6 ≤ fld bs (8 * (i - 1)) 6))

/-- The rerank query blocks of a RERANK. -/
def rerankQueries (x : Cmd) (c : Coll) (s : State) : Res Query :=
  andThen (readBlock x c (cf x 16 8) subRq s) (fun a s =>
    if c.encNext = 0xFFFF then .ok { queryEmpty with rqCur := some a } s
    else andThen (readBlock x c (cf x 16 8 + 2112) (subRq + 2112) s) (fun b s => .ok { queryEmpty with rqCur := some a, rqNext := some b } s))

/-- The live entries among the given identifiers, each with its distance to its version's sign code; the term waits in the
candidate's score. -/
def rerankCands (s : State) (x : Cmd) (c : Coll) (q : Query) (ids terms : List Byte) (n : Nat) : List Cand :=
  (List.range n).filterMap (fun i => (liveEntry c x.horizon (fld ids (8 * i) 6)).map (fun p =>
    let e := p.2
    let rq := (if e.encNext then q.rqNext else q.rqCur).getD { e := 0x7F, elems := [] }
    { vid := e.record.vid, dist := hamming c.codeBits e.code (signCode rq), slot := p.1, side := p.1 ∈ c.arr.side,
      encNext := e.encNext, shard := shardId s, score := BitVec.ofNat 32 (fld terms (4 * i) 4), arith := 0 }))

def rerankStart (x : Cmd) (c : Coll) (s : State) : Res State :=
  let n := cf x 52 4
  andThen (rerankQueries x c s) (fun q s =>
  andThen (readBuf x (cf x 32 8) (8 * n) s) (fun ids s =>
    match badIds ids n with
    | some i => inputBad x (cf x 32 8 + 8 * i) s
    | none =>
      andThen (if cf x 57 1 = 0 then .ok [] s else readBuf x (cf x 40 8) (4 * n) s) (fun terms s =>
        let es := rerankCands s x c q ids terms n
        let sr := { searchInit x c with k := cf x 48 4, kSel := n, rerankN := n, key := cf x 56 1,
                                        queries := [{ q with merged := some { entries := es, tail := 0, stamp := 0 } }],
                                        examined := n, passed := es.length, seenCur := es.any (fun k => !k.encNext),
                                        seenNext := es.any (fun k => k.encNext), stride := resultBytes (cf x 48 4) }
        .ok (setWork x.id (.rerank sr) (endStage x.id 2 (consumeRings x.id s))) s)))

/-- RERANK (R243). -/
def execRerank (c : Nat) (s : State) : Host.Outcome State Fault Refusal := .next (drainAll (searchRow c 0x34 rerankStart s))

/-- A candidate is scored and takes the term epilogue (R132, R226). -/
def scoreTerm (c : Coll) (q : Query) (op : Nat) (k : Cand) : Cand :=
  let r := scoreCand c q k
  if op = 0 then r
  else
    let t := termOp op r.score k.score
    { r with score := t.val, arith := r.arith ||| t.flags }

/-- Bore scores the candidates of a RERANK; a poisoned code fails it (R426). -/
def rerankScored (x : Cmd) (sr : Search) (s : State) : State :=
  let cl := serve s x.home
  match codePoison s sr.coll sr.h (rerankReads sr) with
  | some p => rerankPoison x cl p s
  | none =>
    let qs := sr.queries.map (fun q => match q.merged with
      | none => { q with scored := true }
      | some l =>
        let es := l.entries.map (scoreTerm sr.coll q (cf x 57 1))
        { q with merged := some { l with entries := es }, scored := true, arith := (es.map Cand.arith).foldl (· ||| ·) 0 })
    let n := (rerankReads sr).length
    let macs := n * sr.coll.codeBits
    let fs := (qs.map Query.arith).foldl (· ||| ·) (0 : BitVec 7)
    let s := account (domOf s x) (n * entryBytes sr.coll) 0 macs (macs * 825 / 10 + n * entryBytes sr.coll * 12500) (countScored cl n fs s)
    setWork x.id (.search { sr with queries := qs }) (workDone x.id (fun k => keyRes k = 0 || keyRes k = 3) 1 s)

/-- BORE_REGION_DRAINED (R203): what a command's arrays have computed drains into Bell. -/
def regionDrained (c : Nat) (s : State) : State :=
  match cmdGet s c with
  | none => s
  | some x =>
    if x.phase ≠ .executing then s
    else
      match x.work with
      | .rerank sr => if boreHeld s x [serve s x.home] then s else rerankScored x sr s
      | .search sr =>
        if sr.enc ≠ [] then encStep x s else if rerankDue sr && !boreHeld s x [serve s x.home] then rerankRegion x sr s else s
      | _ => encStep x s

def execBoreRegionDrained (c : Nat) (s : State) : Host.Outcome State Fault Refusal := .next (drainAll (regionDrained c s))

/-! ## VALVE_MERGE (R170) -/

/-- VALVE_MERGE: a tower's Valve, or the home cluster's, merges the lists that have reached it. -/
def valveMerge (c : Nat) (tower : Option Nat) (s : State) : State :=
  match cmdGet s c with
  | none => s
  | some x =>
    if x.phase ≠ .executing then s
    else
      -- the Valve that merges: a tower's, or the home cluster's
      let cl := (tower.map (towerCluster s x)).getD (serve s x.home)
      match x.vpoison, x.work, tower with
      | some (a, b), .search _, _ => valvePoison x cl a b s
      | some (a, b), .fan _, _ => valvePoison x cl a b s
      | _, .search sr, some t => towerMerge x sr t s
      | _, .search sr, none => homeMerge x sr s
      | _, .fan f, none =>
        match viewOf s x with
        | some k => fanMerge x k f s
        | none => s
      | _, _, _ => s

def execValveMerge (c : Nat) (tower : Option Nat) (s : State) : Host.Outcome State Fault Refusal :=
  .next (drainAll (valveMerge c tower s))

/-- SPILL_REDUCTION (R175): a reduction over a poisoned spill buffer fails the search (R182). -/
def spillRow (c tower : Nat) (s : State) : State :=
  match cmdGet s c with
  | some x =>
    match x.vpoison, x.phase, x.work with
    | some (a, true), .executing, .search _ => valvePoison x (towerCluster s x tower) a true s
    | _, _, _ => reduceSpills c tower s
  | none => s

def execSpillReduction (c tower : Nat) (s : State) : Host.Outcome State Fault Refusal := .next (drainAll (spillRow c tower s))

/-! ## DEADLINE_CUT (R111, R139, R160) -/

/-- How long before its deadline a search is cut, in ns: the floor time of its final merge and result write. A graph search takes
R160's figures; a flat search those of Table 5.6, with its further merged entries and result bytes, and a fan-out R396's (log
entry 110). -/
def cutLead (s : State) (x : Cmd) (k kSel rerankN count : Nat) : Nat :=
  if cOp x = 0x31 then (if rerankN = 0 then 2500 else 5000)
  else if cOp x = 0x32 then 2000
  else 3400 + (4 * kSel * count * 100 / max 1 s.blw.floorReg) + resultBytes k * count / 121

/-- The cut of a search is due (R111). -/
def cutDue (s : State) (x : Cmd) (lead : Nat) : Bool := s.now + lead ≥ x.arrival + x.deadlineUs * 1000

/-- A search stops reading, expanding and encoding; what has been scored stays, and a rerank that has begun goes on (R139). -/
def cutSearch (sr : Search) : Search :=
  { sr with cut := true, begun := sr.rerankN ≠ 0 && sr.queries.all (fun q => q.merged.isSome), enc := [],
            blocks := sr.blocks.filter (fun b => b.scored),
            walk := sr.walk.map (fun w => { w with ended := true, front := [], waiting := [], listed := true, cset := [] }) }

/-- A cut before the row of the command has begun: nothing has been scored, and a fan-out has sent nothing. -/
def cutUnread (x : Cmd) (k : Coll) (s : State) : State :=
  let p := sparams x
  if cOp x = 0x32 then
    if cutDue s x (cutLead s x 0 0 0 1) then settle x.id (andThen (fanInputs x k s) (fun f s => .ok (setWork x.id (.fan (fanCut f)) s) s)) else s
  else if !cutDue s x (cutLead s x p.k (kSelOf p.k p.rerankN) p.rerankN p.count) then s
  else
    let t := setWork x.id (.search { searchInit x k with cut := true }) s
    if cOp x = 0x31 then endWalk x.id t else t

/-- DEADLINE_CUT. -/
def deadlineCut (c : Nat) (s : State) : State :=
  match cmdGet s c with
  | none => s
  | some x =>
    if x.phase ≠ .executing || !isSearch x || !cCut x || x.deadlineUs = 0 then s
    else
      match x.work, viewOf s x with
      | .search sr, _ =>
        if sr.cut || !cutDue s x (cutLead s x sr.k sr.kSel sr.rerankN sr.queries.length) then s
        else
          let t := setWork c (.search (cutSearch sr)) s
          if sr.walk.isSome then endWalk c t else t
      | .fan f, _ => if f.cut || !cutDue s x (cutLead s x f.k f.kSel f.rerankN 1) then s else setWork c (.fan (fanCut f)) s
      | .none, some k => cutUnread x k s
      | _, _ => s

def execDeadlineCut (c : Nat) (s : State) : Host.Outcome State Fault Refusal := .next (drainAll (deadlineCut c s))

end Sys2Proof.Machine
end

