-- ==== Sys2Proof/Machine/Answer.lean ====
section
/-! DEFINITION. COMPLETION_POST (R80), and the answers of sub-queries, which post no record (R392). -/

namespace Sys2Proof.Machine

/-- A shard's report entry and counts as the answer carries them (R394, log entry 43). -/
def reportOf (bs : List Byte) : ShardReport :=
  { viewEpoch := fld bs 0 8, horizon := fld bs 8 8, status := fld bs 16 2, shardId := fld bs 18 2, returned := fld bs 20 4,
    hflags := BitVec.ofNat 16 (fld bs 24 2), tail := fld bs 32 4, stamp := BitVec.ofNat 32 (fld bs 36 4), examined := fld bs 40 8,
    passed := fld bs 48 8 }

/-- Entry `i` of an answer. -/
def wireEntryOf (bs : List Byte) (i : Nat) : WireEntry :=
  let o := 56 + 24 * i
  { vid := fld bs o 6, dist := fld bs (o + 6) 2, score := BitVec.ofNat 32 (fld bs (o + 8) 4), shard := fld bs (o + 12) 2,
    eflags := BitVec.ofNat 16 (fld bs (o + 14) 2), arith := BitVec.ofNat 7 (fld bs (o + 16) 1) }

/-- What a finished sub-query answers. -/
def answerBytes (s : State) (x : Cmd) : List Byte :=
  if succeeded x then responseArea x else reportEntry 0 0 x.status (shardId s) 0 0 ++ List.replicate 24 0

/-- The answer reaches the module's own fan-out, or goes to the coordinator while its connection is up. -/
def sendAnswer (peer request : Nat) (bnd : Bool) (body : List Byte) (s : State) : State :=
  if peer ≥ 0x10000 then
    let rep := reportOf body
    shardAnswer 0xFFFF request rep ((List.range rep.returned).map (wireEntryOf body)) s
  else if (tget s.cst.peers peer).any (fun p => p.state = 2) then sendMsg peer 2 bnd (BitVec.ofNat 64 request) body s
  else s

/-- A finished sub-query answers and leaves; its events name no queue. -/
def postAnswer (x : Cmd) (peer request : Nat) (s : State) : State :=
  let body := answerBytes s x
  let s := sendAnswer peer request x.bounded body s
  let s := releaseVersions x.id (releaseCharges x (releaseHolds x s))
  let s := { s with cmds := s.cmds.filter (fun y => y.id ≠ x.id) }
  x.after.foldl (fun s ev => raise (blkOfType ev.block)
    (if ev.queue = x.queue then { ev with queue := 0xFFFF, tag := 0xFFFF } else ev) s) s

/-- COMPLETION_POST (R80): a finished command's record is posted, or a finished sub-query answers. -/
def completionPost (c : Nat) (s : State) : State :=
  if s.chn.losing then s
  else
  match cmdGet s c with
  | none => s
  | some x =>
    match x.sub with
    | some (peer, request) => if x.phase = .finished then drainAll (postAnswer x peer request s) else s
    | none => postRecord x s

def execCompletionPost (c : Nat) (s : State) : Host.Outcome State Fault Refusal := .next (completionPost c s)

end Sys2Proof.Machine
end

