-- ==== Sys2Proof/Machine/Units.lean ====
section
/-! DEFINITION. Spares, retirement and the repair map (R437 to R440), the entry to HOLD (R444, R445), and units that sleep,
wake, are tested and return (R419, R420, R438, R442). -/

namespace Sys2Proof.Machine

/-! ## HOLD (R444, R445) -/

/-- A command in execution that HOLD stops: mutating, of an opcode not allowed there, with no journal record; or a CONSOLIDATE
that waits for Drone, which commits nothing but settlements there (log entry 55). -/
def holdStops (x : Cmd) : Bool :=
  x.phase = .executing && x.sub.isNone && !holdAllows x false && x.jseq = 0
    && (mutating x || (match x.work with | .wait 4 _ => true | _ => false))

/-- Drone's operations stop at the entry to HOLD: MAINT_STALLED with reason 3 (R285). -/
def stopDrone (s : State) : State :=
  let running := s.colls.filter (fun p => p.2.run.isSome)
  running.foldl (fun s p =>
    raise .drn { mkEv 0x00B3 1 .drn 0 p.2.owner 0 (p.1 + 3 * 2 ^ 16) 0 0 with coll := p.1 }
      (endRun p.1 s)) s

/-- A HOLD cause arises: hold_causes bit `cause`, and the kind of the part for cause 0. -/
def enterHold (cause kind : Nat) (s : State) : State :=
  let first := cause = 0 ∧ !s.chn.causes.getLsbD 0
  let s := { s with chn := { s.chn with causes := s.chn.causes ||| BitVec.ofNat 5 (2 ^ cause),
                                        holdKind := if first then kind else s.chn.holdKind, mapPending := true } }
  if s.chn.mode = .full ∨ s.chn.mode = .spared then
    let s := stopDrone (setMode .hold s)
    (s.cmds.filter holdStops).foldl (fun s x => failCmd x.id stHold none s) s
  else s

/-! ## Spares (Table 17.6) -/

/-- Fabric lane of a port's logical lane when nothing is steered. -/
def laneOf (port lane : Nat) : Nat := 8 * port + lane

/-- A tile column is named by (cluster × 16 + tile) × 128 + physical column, a Reed by group × 32 + Reed, a fabric lane by
port × 8 + lane, a tower link lane by link × 64 + lane, an SRAM macro by 0 for the queue store, 1 for the translation cache
and 2 for journal SRAM (the model's own numbers, log entry 47). -/
def mapLogical (u : UnitId) : Nat := if u.kind = 1 then u.logical / 128 else u.logical

/-- Tower of a unit; 0xFF for I/O die parts. -/
def unitTower (u : UnitId) : Nat :=
  match u.kind with
  | 1 => u.logical / 128 / 128
  | 2 | 3 => u.logical / 8
  | 4 => u.logical / 32
  | 5 => if u.logical / 32 < 12 then u.logical / 32 / 3 else u.logical / 32 - 12
  | _ => 0xFF

/-- Spares of a kind in the scope of a unit. -/
def sparesTotal (kind : Nat) : Nat :=
  match kind with
  | 1 | 2 | 3 => 1
  | 4 | 6 | 9 => 2
  | 7 => 16
  | 8 => 4
  | _ => 0

/-- The scope within which spares serve: the tile, the tower, the connector, the link or the module. -/
def spareScope (kind logical : Nat) : Nat :=
  match kind with
  | 1 => logical
  | 2 | 3 => logical / 8
  | 4 => logical / 32
  | 8 => logical / 48
  | 9 => logical / 64
  | _ => 0

/-- The map entries made since a spare last took the place of a cluster: those of its columns concern the hardware that now stands
behind its number (R212). -/
def columnEntries (s : State) (cl : Nat) : List MapEntry :=
  s.chn.map.foldl (fun es e => if e.kind = 2 && e.logical = cl && e.replacement ≠ 0xFFFF then [] else es ++ [e]) []

/-- Spares of a kind that serve in a scope. -/
def sparesUsed (s : State) (kind logical : Nat) : Nat :=
  ((if kind = 1 then columnEntries s (logical / 16) else s.chn.map).filter (fun e =>
    e.kind = kind && e.replacement ≠ 0xFFFF && spareScope kind e.logical = spareScope kind logical)).length

def sparesLeft (s : State) (kind logical : Nat) : Nat := sparesTotal kind - sparesUsed s kind logical

/-- Physical number of a unit on which no spare serves. -/
def nominalUnit (kind logical : Nat) : Nat :=
  match kind with
  | 2 | 3 => logical % 8
  | 4 | 5 => logical % 32
  | 9 => logical % 64
  | _ => logical

/-- Number of the next spare of a unit's scope. -/
def nextSpare (s : State) (kind logical : Nat) : Nat :=
  let used := sparesUsed s kind logical
  match kind with
  | 1 => 64
  | 2 | 3 => 8
  | 4 => 32 + used
  | 6 => 8 + used
  | 7 => 184 + used
  | 8 => 96 + 4 * (logical / 48) + used
  | _ => 62 + used

/-- The physical unit that now serves a logical one. -/
def physicalOf (s : State) (kind logical : Nat) : Nat :=
  match (s.chn.map.filter (fun e => e.kind = kind && e.logical = logical && e.replacement ≠ 0xFFFF)).getLast? with
  | some e => e.replacement
  | none => nominalUnit kind logical

/-! ## The map in the registers -/

/-- The pages of a cluster's units. -/
def clusterPages (n : Nat) : List Nat := [sldPage n, blkPage .bore n, blkPage .bell n, blkPage .vlv n]

/-- A cluster's units leave service; their pages keep the epoch they had (R441). -/
def clusterOut (n code : Nat) (s : State) : State :=
  (clusterPages n).foldl (fun s p =>
    regSet (pageReg p 0x050) (BitVec.ofNat 64 s.chn.epoch) { s with service := tset s.service p code }) s

/-- What the registers show of a map entry. -/
def applyMapEntry (e : MapEntry) (s : State) : State :=
  let spare := e.replacement ≠ 0xFFFF
  let l := e.logical
  match e.kind with
  | 1 =>
    let o := reg .bore (l / 16 % 32) 0x108
    let t := l % 16
    if spare then
      regField (reg .bore (l / 16 % 32) (if t < 8 then 0x110 else 0x118)) (8 * (t % 8) + 7) (8 * (t % 8)) e.physical
        (regField o (16 + t) (16 + t) 0 (regField o t t 1 s))
    else s
  | 2 =>
    -- the spare cluster has its own spare columns
    if spare then
      regField (reg .bore (l % 32) 0x100) 7 0 e.replacement
        { s with regs := tdel (tdel (tdel s.regs (reg .bore (l % 32) 0x108)) (reg .bore (l % 32) 0x110)) (reg .bore (l % 32) 0x118) }
    else clusterOut (l % 32) 3 s
  | 3 =>
    let o := reg .wch (l / 8 % 4) 0x100
    if spare then regField o 35 32 0xF (regField o (4 * (l % 8) + 3) (4 * (l % 8)) e.replacement s) else s
  | 4 =>
    let t := l / 32 % 4
    let k := l % 32
    if spare then regField (reg .kwk t (0x140 + 8 * (k / 8))) (8 * (k % 8) + 7) (8 * (k % 8)) e.replacement s
    else regField (reg .kwk t 0x100) k k 0 s
  | 5 => regField (reg .reed (l / 32 % 16) 0x100) (l % 32) (l % 32) 0 s
  | 6 =>
    let o := reg .chn 0 0x110
    if spare then regField o 39 32 (bits (regGet s o).toNat 39 32 - 1) (regField o (4 * (l % 8) + 3) (4 * (l % 8)) e.replacement s) else s
  | 7 =>
    let o := reg .blw 0 0x160
    if spare then regField o 7 0 (bits (regGet s o).toNat 7 0 - 1) s else s
  | 8 =>
    if spare then regField (reg .cst (l / 8 % 12) 0x108) (8 * (l % 8) + 7) (8 * (l % 8)) e.replacement s else s
  | _ => s

/-! ## Retirement (R437) -/

/-- info0 of UNIT_RETIRED and UNIT_HANG. -/
def unitInfo (u : UnitId) (phys cause : Nat) : Nat :=
  u.kind + unitTower u * 2 ^ 8 + mapLogical u * 2 ^ 16 + phys * 2 ^ 32 + cause * 2 ^ 48

/-- The unit exists, and its kind is recorded in the map. -/
def unitKnown (u : UnitId) : Bool :=
  match u.kind with
  | 1 => u.logical < 65536 && u.logical % 128 ≤ 64
  | 2 | 3 => u.logical < 32
  | 4 => u.logical < 128
  | 5 => u.logical < (if u.logical / 32 < 12 then 384 else 512) && u.logical % 32 < (if u.logical / 32 < 12 then 32 else 16)
  | 6 => u.logical < 8
  | 7 => u.logical < 184
  | 8 => u.logical < 96
  | 9 => u.logical < 4096
  | _ => false

/-- The unit has been retired with no spare to follow it. -/
def unitGone (s : State) (u : UnitId) : Bool :=
  s.chn.map.any (fun e => e.kind = u.kind && e.logical = mapLogical u && e.replacement = 0xFFFF)

/-- Commands with a region in progress on a cluster: a batch of an encode whose step uses it, or a rerank there. -/
def regionsOn (s : State) (cl : Nat) : List Nat :=
  (s.cmds.filter (fun x => x.phase = .executing &&
    ((encsOf x).any (fun e => !encDone e && cl ∈ encClusters s e) || cl ∈ boreReady s x))).map (·.id)

/-- The operand streams of the regions of commands are reissued. -/
def streamAgain (on : List Nat) (s : State) : State := ringsMod (fun r => !r.isWrite && r.cmd.any (· ∈ on)) ringRestart s

/-- Regions in progress on a cluster are recomputed from their start, on another cluster of the tower while it is away: its
accumulators are clear, and the operand streams of the regions' commands are issued again (R213, R270). -/
def recompute (cl : Nat) (s : State) : State :=
  let base := cl * 2 ^ 17
  let on := regionsOn s cl
  let s := streamAgain on s
  bumpWrap (reg .bore cl 0x128) 32 32 on.length { s with accs := s.accs.filter (fun p => !(base ≤ p.1 && p.1 < base + 2 ^ 17)) }

/-- The blocks that searches have dealt to a Reed go to the others of its group (R119). -/
def moveBlocks (g r : Nat) (s : State) : State :=
  let rs := reedsOf s g
  { s with cmds := s.cmds.map (fun x =>
      match x.phase, x.work with
      | .executing, .search sr => { x with work := .search (redeal rs g r sr) }
      | _, _ => x) }

/-- What happens to the work of a retired unit; `info` is info0 of its UNIT_RETIRED, which a spared bank's page latches (R496). -/
def moveWork (u : UnitId) (info : Nat) (s : State) : State :=
  match u.kind with
  | 2 => recompute (u.logical % 32) (ringsMod (fun r => r.engine = u.logical % 32) ringReissue s)
  | 3 => blkFault (blkPage .wch (u.logical / 8)) 1 0 (BitVec.ofNat 64 info) (ringsMod (fun r => r.engine = u.logical) ringRestart s)
  | 4 =>
    if coreHeld s u.logical = 0 then s
    else { s with chn := { s.chn with coresMoving := insertNat u.logical s.chn.coresMoving } }
  | 5 => moveBlocks (u.logical / 32) (u.logical % 32) s
  | _ => s

/-- What follows when no spare is left. -/
def noSpare (u : UnitId) (s : State) : State :=
  match u.kind with
  | 5 => if regGet s (reg .reed (u.logical / 32) 0x100) = 0 then enterHold 0 5 s else s
  | k => enterHold 0 k s

/-- A unit is retired: its spare takes over, the map records it, the global epoch advances and UNIT_RETIRED is raised; with
no spare left the module enters HOLD. A unit that has gone already is left as it is. -/
def retireUnit (u : UnitId) (phys cause : Nat) (s : State) : State :=
  if !unitKnown u || unitGone s u then s
  else
    let l := mapLogical u
    let left := sparesLeft s u.kind l
    let e : MapEntry := { kind := u.kind, cause := cause, tower := unitTower u, physical := phys,
                          replacement := if left = 0 then 0xFFFF else nextSpare s u.kind l, logical := l, timeS := s.now / 1000000000 }
    let s := { s with chn := { s.chn with map := (s.chn.map ++ [e]).take 1019, mapPending := true,
                                          returning := s.chn.returning.filter (· ≠ u) },
                      blw := { s.blw with asleep := s.blw.asleep.filter (· ≠ u), worn := s.blw.worn.filter (fun p => p.1 ≠ u) } }
    let s := advanceEpoch (moveWork u (unitInfo u phys cause) (applyMapEntry e s))
    let s := raise .chn (mkEv 0x0111 (if left ≤ 1 then 1 else 0) .chn 0 0xFFFF 0 (unitInfo u phys cause) (left - 1) 0) s
    if left = 0 then noSpare u s
    else if s.chn.mode = .full then setMode .spared s
    else s

/-- The column of a tile that is retired has physical number `col`; a second column of a tile retires its cluster (R212). -/
def retireColumn (cl tile col cause : Nat) (s : State) : State :=
  let cl := cl % 32
  let tile := tile % 16
  let u : UnitId := { kind := 1, logical := (cl * 16 + tile) * 128 + col % 65 }
  if unitGone s { kind := 2, logical := cl } then s
  else if sparesLeft s 1 (cl * 16 + tile) = 0 then
    retireUnit { kind := 2, logical := cl } (physicalOf s 2 cl) 10 s
  else
    let s := retireUnit u (col % 65) cause (recompute cl s)
    raise .bore (mkEv 0x0080 0 .bore cl 0xFFFF 0 (tile + col % 65 * 256) cl 0) s

/-- Retirement of an SRAM macro's row with no spare row left: HOLD for the queue store and journal SRAM; the other macros' own
unit is named by its own kind (Table 17.6). -/
def retireMacro (n : Nat) (s : State) : State := if n = 1 then s else enterHold 0 10 s

/-- Retire a unit of any kind for a cause. -/
def retireAny (u : UnitId) (cause : Nat) (s : State) : State :=
  match u.kind with
  | 1 => if unitKnown u then retireColumn (u.logical / 128 / 16) (u.logical / 128 % 16) (u.logical % 128) cause s else s
  | 10 => retireMacro u.logical s
  | 11 | 12 | 13 | 14 => s
  | k => retireUnit u (physicalOf s k u.logical) cause s

/-- UNIT_RETIRED (R437). -/
def execUnitRetired (u : UnitId) (cause : Nat) (s : State) : Host.Outcome State Fault Refusal := .next (drainAll (retireAny u cause s))

/-- COLUMN_SPARED (R212). -/
def execColumnSpared (cluster tile col cause : Nat) (s : State) : Host.Outcome State Fault Refusal :=
  .next (drainAll (retireColumn cluster tile col cause s))

/-- UNIT_HANG (R404): the event, and the unit is retired as hung. -/
def unitHang (u : UnitId) (s : State) : State :=
  if !unitKnown u || unitGone s u then s
  else retireAny u 3 (raise .chn (mkEv 0x0115 1 .chn 0 0xFFFF 0 (unitInfo u (physicalOf s u.kind (mapLogical u)) 3)
    (sparesLeft s u.kind (mapLogical u)) 0) s)

def execUnitHang (u : UnitId) (s : State) : Host.Outcome State Fault Refusal := .next (drainAll (unitHang u s))

/-! ## Errors counted within 24 h -/

def dayNs : Nat := 86400 * 1000000000

/-- A corrected error of a unit: how many it has had in the last 24 h, this one included. -/
def noteCorrected (key : Nat) (s : State) : Nat × State :=
  let ts := ((tget s.unitCorrected key).getD []).filter (fun t => s.now < t + dayNs) ++ [s.now]
  (ts.length, { s with unitCorrected := tset s.unitCorrected key ts })

/-- Physical column of a logical one: the spare, number 64, in place of a retired column. -/
def physicalCol (s : State) (cl tile col : Nat) : Nat :=
  let v := (regGet s (reg .bore cl (if tile < 8 then 0x110 else 0x118))).toNat
  if bits v (8 * (tile % 8) + 7) (8 * (tile % 8)) = col then 64 else col

/-- ACC_PARITY_ERROR (R214): the region is recomputed; a second error of a cell in one region, or the eighth of a column in
24 h, retires the column. -/
def accParity (cl row col : Nat) (s : State) : State :=
  let cl := cl % 32
  let row := row % 256
  let col := col % 256
  let tile := row / 64 * 4 + col / 64
  let cell := cl * 65536 + row * 256 + col
  let phys := physicalCol s cl tile (col % 64)
  let s := bumpSat (reg .bore cl 0x130) 0 8 1 (blkFault (blkPage .bore cl) 2 0 0 s)
  let (n, s) := noteCorrected (2 ^ 24 + (cl * 16 + tile) * 128 + phys) s
  if cell ∈ s.parityCells ∨ n ≥ 8 then
    retireColumn cl tile phys 6 { s with parityCells := s.parityCells.filter (· ≠ cell) }
  else bumpWrap (reg .bore cl 0x128) 32 32 1 { streamAgain (regionsOn s cl) s with parityCells := insertNat cell s.parityCells }

def execAccParityError (cluster row col : Nat) (s : State) : Host.Outcome State Fault Refusal :=
  .next (drainAll (accParity cluster row col s))

/-! ## Sleep, wake, self-test and return -/

/-- Clusters of a tower that are awake and in service. -/
def awakeClusters (s : State) (t : Nat) : List Nat := ((List.range 8).map (· + 8 * t)).filter (fun n => (tget s.service (sldPage n)).isNone)

/-- Cores of a tower that are awake and in service. -/
def awakeCores (s : State) (t : Nat) : List Nat := ((List.range 32).map (· + 32 * t)).filter (fun k => coreIn s k && coreTakes s k)

/-- Every slice that a cluster holds has a copy on another awake cluster (R419). -/
def slicesElsewhere (s : State) (n : Nat) : Bool :=
  s.tables.all (fun p => (residents p.2).all (fun d => (slicesOn s p.1 d n).all (fun sl =>
    (List.range 32).any (fun m => m ≠ n && clusterUp s m && sl ∈ slicesOn s p.1 d m))))

/-- A cluster has no work: no command has it as home, and no stream runs on its engine. -/
def clusterIdle (s : State) (n : Nat) : Bool :=
  s.cmds.all (fun x => x.home ≠ n || (x.phase = .waiting && (match x.work with | .wait 8 _ => false | _ => true)))
    && s.srings.all (fun r => r.engine ≠ n) && regionsOn s n = []

/-- BLW_SLEEP: sleeping is enabled, and the clusters of a tower that stay awake. -/
def sleepOn (s : State) : Bool := (regGet s (reg .blw 0 0x158)).getLsbD 0
def minAwake (s : State) : Nat := max 1 (bits (regGet s (reg .blw 0 0x158)).toNat 11 8)

/-- A walker core leaves service; it keeps the epoch it has (R441). -/
def coreLeaves (k : Nat) (s : State) : State := { s with chn := { s.chn with coreEpoch := tset s.chn.coreEpoch k s.chn.epoch } }

/-- A walker core returns: contexts that it still holds are discarded, and STALE_CONTEXT says so when its epoch is behind and theirs
with it (R164, R442; log entry 111). -/
def coreReturns (k : Nat) (s : State) : State :=
  let mine := s.chn.stale.filter (fun p => p.1 = k)
  let behind := (tget s.chn.coreEpoch k).any (· ≠ s.chn.epoch) && mine.any (fun p => p.2.2 < s.chn.epoch)
  let s := if behind then blkFault (blkPage .kwk (k / 32)) 3 0 0 s else s
  { s with chn := { s.chn with stale := s.chn.stale.filter (fun p => p.1 ≠ k), coreEpoch := tdel s.chn.coreEpoch k } }

/-- UNIT_SLEEP (R419): a cluster with no work or a core with no context goes to sleep. -/
def unitSleep (u : UnitId) (s : State) : State :=
  if !sleepOn s || unitGone s u || u ∈ s.blw.asleep || u ∈ s.chn.returning then s
  else
    match u.kind with
    | 2 =>
      let n := u.logical
      if n ≥ 32 || (tget s.service (sldPage n)).isSome || !clusterIdle s n || (awakeClusters s (n / 8)).length ≤ minAwake s
          || !slicesElsewhere s n then s
      else recompute n (clusterOut n 1 { s with blw := { s.blw with asleep := s.blw.asleep ++ [u] } })
    | 4 =>
      let k := u.logical
      if k ≥ 128 || coreHeld s k > 0 || !coreIn s k || (awakeCores s (k / 32)).length ≤ 8 then s
      else coreLeaves k { s with blw := { s.blw with asleep := s.blw.asleep ++ [u] } }
    | _ => s

def execUnitSleep (u : UnitId) (s : State) : Host.Outcome State Fault Refusal := .next (unitSleep u s)

/-- Work waits for the unit: a command has the cluster as home; any graph search waits for a core. -/
def workWaits (s : State) (u : UnitId) : Bool :=
  match u.kind with
  | 2 => s.cmds.any (fun x => x.home = u.logical && x.phase ≠ .finished)
  | _ => s.cmds.any (fun x => x.phase = .waiting && cOp x = 0x31)

/-- UNIT_WAKE (R420): the unit wakes and waits for admission. -/
def unitWake (u : UnitId) (s : State) : State :=
  if u ∈ s.blw.asleep then
    let t := { s with blw := { s.blw with asleep := s.blw.asleep.filter (· ≠ u) }, chn := { s.chn with returning := s.chn.returning ++ [u] } }
    if workWaits s u then t else bumpSat (reg .blw 0 0x158) 48 16 1 t
  else s

def execUnitWake (u : UnitId) (s : State) : Host.Outcome State Fault Refusal := .next (unitWake u s)

/-- UNIT_RETURN (R442): the unit is cleared, its epoch is brought up to the global one, and it is admitted. -/
def unitReturn (u : UnitId) (s : State) : State :=
  if u ∉ s.chn.returning then s
  else
    let s := { s with chn := { s.chn with returning := s.chn.returning.filter (· ≠ u) } }
    match u.kind with
    | 2 =>
      -- the accumulators, Bell's registers and its tile buffers are clear (R213, R218)
      (clusterPages u.logical).foldl (fun s p => { s with service := tdel s.service p, regs := tdel s.regs (pageReg p 0x050) })
        (clearBell u.logical (recompute u.logical s))
    | 4 => coreReturns u.logical s
    | _ => s

def execUnitReturn (u : UnitId) (s : State) : Host.Outcome State Fault Refusal := .next (unitReturn u s)

/-- UNIT_SELF_TEST (R438): the unit leaves service; it passes and waits for admission, or is retired. -/
def unitSelfTest (u : UnitId) (pass : Bool) (s : State) : State :=
  if !(u.kind = 2 || u.kind = 3 || u.kind = 4) || !unitKnown u || unitGone s u || u ∈ s.chn.returning then s
  else
    let s := { s with unitCorrected := tdel s.unitCorrected (u.kind * 2 ^ 24 + u.logical) }
    if !pass then retireAny u 9 s
    else
      let s := { s with chn := { s.chn with returning := s.chn.returning ++ [u] },
                        blw := { s.blw with asleep := s.blw.asleep.filter (· ≠ u) } }
      match u.kind with
      | 2 => clusterOut u.logical 2 (recompute u.logical (ringsMod (fun r => r.engine = u.logical) ringReissue s))
      | 4 => coreLeaves u.logical s
      | _ => s

def execUnitSelfTest (u : UnitId) (pass : Bool) (s : State) : Host.Outcome State Fault Refusal :=
  .next (drainAll (unitSelfTest u pass s))

/-- MAP_SAVE_DONE (R440): the save of the map has ended. A save whose read-back fails leaves the bank in force, sets MAP_BANK
and stays pending. -/
def mapSaved (ok : Bool) (s : State) : State :=
  if !s.chn.mapPending then s
  else if ok then
    let r : MapRec := { seq := s.chn.mapSeq + 1, entries := s.chn.map, causes := s.chn.causes, holdKind := s.chn.holdKind }
    { s with chn := { s.chn with mapPending := false, mapSeq := r.seq, mapBankB := !s.chn.mapBankB, mapSaved := some r,
                                 mapOther := s.chn.mapSaved } }
  else blkFault (blkPage .chn 0) 1 0 0 s

def execMapSaveDone (ok : Bool) (s : State) : Host.Outcome State Fault Refusal := .next (mapSaved ok s)

end Sys2Proof.Machine
end

