-- ==== Sys2Proof/Machine/Fold.lean ====
section
/-! DEFINITION. What Drone's operations make of a collection (R287 to R302): partitions and their places, the graph's
links, re-encoding and the build. Each is a function of the collection's contents and of the operation's cut, so that
replay runs it again (R287, R325). -/

namespace Sys2Proof.Machine

/-- What an operation leaves: the collection, the counts it adds, and the slots that its RELEASE frees. -/
structure Arranged where
  coll    : Coll
  folded  : Nat := 0
  linked  : Nat := 0
  removed : Nat := 0
  freed   : List Nat := []
  patched : List Nat := []

/-! ## Which slots an operation concerns -/

/-- The numbers of a list, ascending and once each. -/
def ascending (xs : List Nat) : List Nat := xs.foldl (fun a x => insertNat x a) []

/-- E of a fold: the side entries at or below the cut, ascending by sequence number. -/
def foldSide (cut : Nat) (c : Coll) : List Entry :=
  (c.arr.side.filterMap (tget c.entries)).filter (fun e => e.seq ≤ cut)

/-- X of a fold: the logged tombstones at or below the cut. -/
def foldTombs (cut : Nat) (c : Coll) : List Nat := (c.arr.tombLog.filter (fun t => t.2 ≤ cut)).map Prod.fst

/-- Slots of a partition, of all partitions, and nodes. -/
def partSlots (c : Coll) (key : Nat) : List Nat := ((tget c.arr.parts key).map Part.slots).getD []
def allPartSlots (c : Coll) : List Nat := c.arr.parts.flatMap (fun p => p.2.slots)

/-- X of a compaction: the tombstones at or below the cut of the partition, or of the whole collection (R295). -/
def compactTombs (cut : Nat) (key : Option Nat) (c : Coll) : List Nat :=
  let scope := match key with
    | some k => partSlots c k
    | none => ascending (allPartSlots c ++ c.arr.nodes.map Prod.fst)
  scope.filter (fun sl => (tget c.tombs sl).any (fun q => q ≤ cut))

/-! ## Partitions (R33, R287, R338, R339) -/

/-- Bytes that an operation's new copies have taken, by stack and by tower. -/
structure Taken where
  inStack : Table Nat := []
  inTower : Table Nat := []

def freeIn (s : State) (tk : Taken) (bulk : Bool) (n : Nat) : Nat :=
  if bulk then towerFree s n - (tget tk.inTower n).getD 0 else stackFree s n - (tget tk.inStack n).getD 0

/-- The most free stack or tower, the lower number winning a tie. -/
def mostFree (s : State) (tk : Taken) (bulk : Bool) : Nat :=
  (List.range (if bulk then 4 else 12)).foldl (fun b n => if freeIn s tk bulk n > freeIn s tk bulk b then n else b) 0

/-- A place on one tier for a copy of `bytes`: that of the previous copy when the new one fits there, the most free
otherwise; none when it fits nowhere or passes the tier's limit on a partition. -/
def placeOn (s : State) (tk : Taken) (bulk : Bool) (old : Option Part) (bytes : Nat) : Option Nat :=
  let prev := (old.filter (fun p => p.bulk = bulk && bytes ≤ freeIn s tk bulk p.place)).map Part.place
  let n := prev.getD (mostFree s tk bulk)
  if bytes ≤ (if bulk then 256 else 16) * 2 ^ 30 && bytes ≤ freeIn s tk bulk n then some n else none

/-- The tiers that a placement policy allows, in the order they are tried: under AUTO the tier that holds the previous copy,
and the fast tier for a new partition, then the other (Table 2.2, Table 2.12; log entry 49). -/
def tierOrder (placement : Nat) (old : Option Part) : List Bool :=
  match placement with
  | 0 => [false]
  | 1 => [true]
  | _ => match old with
    | some p => [p.bulk, !p.bulk]
    | none => [false, true]

/-- Place a partition's new copy. -/
def placePart (s : State) (tk : Taken) (tiers : List Bool) (old : Option Part) (bytes : Nat) : Option (Bool × Nat × Taken) :=
  tiers.findSome? (fun b => (placeOn s tk b old bytes).map (fun n =>
    (b, n, if b then { tk with inTower := addAt tk.inTower n bytes } else { tk with inStack := addAt tk.inStack n bytes })))

/-- Write one partition anew with the given slots; a partition without slots is removed. -/
def writePart (s : State) (tiers : Option Part → List Bool) (size : Nat → Nat) (p : Table Part × Taken) (key : Nat)
    (slots : List Nat) : Option (Table Part × Taken) :=
  let old := tget p.1 key
  if slots = [] then some (tdel p.1 key, p.2)
  else
    (placePart s p.2 (tiers old) old (size slots.length)).map (fun r =>
      (tset p.1 key { slots := slots, bulk := r.1, place := r.2.1, scans := (old.map Part.scans).getD 0,
                      heat := (old.map Part.heat).getD 0 }, r.2.2))

/-- Write partitions one after another; none as soon as one finds no place. -/
def writeParts (s : State) (tiers : Option Part → List Bool) (size : Nat → Nat) :
    List (Nat × List Nat) → Table Part × Taken → Option (Table Part × Taken)
  | [], p => some p
  | (key, slots) :: t, p => (writePart s tiers size p key slots).bind (writeParts s tiers size t)

/-- The partitions that gain entries or lose slots, each with its new slots in ascending order (R287). -/
def foldPlan (c : Coll) (adds : List Entry) (drops : List Nat) : List (Nat × List Nat) :=
  let gain := adds.map (fun e => (partKey c e, e.slot))
  let keys := ascending (gain.map Prod.fst ++ (c.arr.parts.filter (fun p => p.2.slots.any (· ∈ drops))).map Prod.fst)
  keys.map (fun k => (k, ascending ((partSlots c k).filter (· ∉ drops) ++ (gain.filter (fun g => g.1 = k)).map Prod.snd)))

def withParts (ps : Table Part) (c : Coll) : Coll := { c with arr := { c.arr with parts := ps } }
def withNodes (ns : Table (List Nat)) (c : Coll) : Coll := { c with arr := { c.arr with nodes := ns } }
def withEntrySet (es : List Nat) (c : Coll) : Coll := { c with arr := { c.arr with entrySet := es } }

/-! ## Linking (R290, R293, R300) -/

/-- The code that linking measures an entry by: its own, or its source's under enc_next while the collection migrates
(R300); an entry whose source is lost keeps its own. -/
def linkCode (s : State) (c : Coll) (e : Entry) : Nat :=
  if c.encNext = 0xFFFF || e.encNext then e.code
  else match e.src with
    | .held bs => encodeCode (tableNow s) (progImage s c.encNext) c.srcFormat c.srcDim bs
    | .lost => e.code

/-- The collection as linking sees it: every entry present, by its linking code. -/
def linkView (s : State) (c : Coll) : Coll :=
  { c with entries := c.entries.map (fun p => (p.1, { p.2 with code := linkCode s c p.2, encNext := false })), tombs := [] }

def codeDist (c : Coll) (a b : Nat) : Nat := hamming c.codeBits (codeAt c a) (codeAt c b)

/-- Rank order by d(., e): distance, then vector_id; `e` itself and repeats are left out. -/
def rankAround (c : Coll) (e : Nat) (xs : List Nat) : List Nat :=
  let vid := fun (n : Nat) => ((tget c.entries n).map (fun y => y.record.vid)).getD 0
  let key := fun (n : Nat) => codeDist c n e * 2 ^ 48 + vid n
  sortBy (fun a b => key a < key b) ((ascending xs).filter (· ≠ e))

/-- prune(e, cand) of R290. -/
def prune (c : Coll) (e : Nat) (cand : List Nat) : List Nat :=
  cand.foldl (fun keep x =>
    if keep.length ≥ c.degree then keep
    else if keep.all (fun a => codeDist c x a > codeDist c x e) then keep ++ [x] else keep) []

def nbrs (c : Coll) (n : Nat) : List Nat := (tget c.arr.nodes n).getD []
def setNbrs (n : Nat) (l : List Nat) (c : Coll) : Coll := withNodes (tset c.arr.nodes n l) c

/-- add_reverse(a, e) of R290. -/
def addReverse (e : Nat) (c : Coll) (a : Nat) : Coll :=
  let l := nbrs c a
  if e ∈ l then c
  else if l.length < c.degree then setNbrs a (l ++ [e]) c
  else setNbrs a (prune c a (rankAround c a (l ++ [e]))) c

/-- Rounds of a walk until it ends. -/
def walkOut (q : Query) : Nat → Search × Walk → Search × Walk
  | 0, p => p
  | n + 1, (sr, w) =>
    if w.ended then (sr, w)
    else walkOut q n (commitRound 0 sr q (if w.seeding then w else { w with listed := true, cset := screen sr q w, waiting := [] }))

/-- W[e] of R290: the final beam of a walk of beam 64, width 8, max_expansions 128 and no screen, in which every node is
present (log entry 50). -/
def linkWalk (c : Coll) (code : Nat) : List Nat :=
  let q := { queryEmpty with qCur := code }
  let sr : Search :=
    { h := 0, coll := c, horizon := 2 ^ 64, k := 64, kSel := 64, rerankN := 0, key := 0, maxDist := 0xFFFF, filter := none,
      queries := [q], blocks := [], examined := 0, passed := 0, seenCur := false, seenNext := false, walk := none, enc := [],
      cut := false, begun := false, incomplete := false, stride := 0 }
  let seeds := ascending (c.arr.entrySet.filter (fun n => (tget c.arr.nodes n).isSome))
  let w : Walk :=
    { beam := [], cand := listEmpty, visited := [], rounds := 0, expansions := 0, front := [], waiting := [], listed := true,
      cset := seeds, headsRead := [], seeding := true, ended := seeds = [], contexts := [], lead := 0, beamSize := 64, width := 8, maxExp := 128,
      maxRounds := 0, slack := 0xFFFF, strict := false }
  (walkOut q 130 (sr, w)).2.beam.map (fun b => b.cand.slot)

/-- Link one entry of a group whose walk found `found`; `before` are the members linked before it. -/
def linkOne (c : Coll) (e : Nat) (found before : List Nat) : Coll :=
  let l := prune c e (rankAround c e (found ++ before))
  l.foldl (addReverse e) (setNbrs e l c)

/-- Link a group: every walk runs on the graph as the previous group left it. -/
def linkGroup (c : Coll) (g : List Nat) : Coll :=
  let found := g.map (fun e => linkWalk c (codeAt c e))
  (List.range g.length).foldl (fun c i => linkOne c (g.getD i 0) (found.getD i []) (g.take i)) c

/-- Link slots in groups of 256; an empty entry set takes the node linked first as soon as its group is linked (R293, log
entry 51). -/
def linkAll (c : Coll) (slots : List Nat) : Coll :=
  (chunks 256 (slots.length / 256 + 1) slots).foldl (fun c g =>
    let c := linkGroup c g
    if c.arr.entrySet = [] then withEntrySet (g.take 1) c else c) c

/-! ## Removal (R290, R293) -/

/-- Nodes of a graph whose entry a tombstone at or below the cut has killed. -/
def deadNodes (cut : Nat) (c : Coll) : List Nat :=
  (c.arr.nodes.map Prod.fst).filter (fun n => (tget c.tombs n).any (fun q => q ≤ cut))

/-- Repair one node's list after nodes have been removed: the live neighbours of a removed node join it. -/
def relink (gone dead : List Nat) (old : Table (List Nat)) (c : Coll) (a : Nat) : Coll :=
  let l := nbrs c a
  let more := (l.filter (· ∈ gone)).flatMap (fun x => ((tget old x).getD []).filter (· ∉ dead))
  setNbrs a (prune c a (rankAround c a ((l ++ more).filter (fun n => n ∉ gone && (tget c.arr.nodes n).isSome)))) c

/-- The node that takes the place of a removed entry node: its nearest live neighbour, the lower number of a tie. -/
def entryHeir (c : Coll) (dead : List Nat) (old : Table (List Nat)) (x : Nat) : Option Nat :=
  let ns := ascending (((tget old x).getD []).filter (fun n => n ∉ dead && (tget c.arr.nodes n).isSome))
  (sortBy (fun a b => codeDist c a x < codeDist c b x) ns).head?

/-- Remove nodes from the graph, of whose neighbours those of `dead` are not live; the nodes whose lists changed. -/
def removeNodes (c : Coll) (xs dead : List Nat) : Coll × List Nat :=
  let gone := xs.filter (fun x => (tget c.arr.nodes x).isSome)
  let old := c.arr.nodes
  let touched := ((old.filter (fun p => p.1 ∉ gone && p.2.any (· ∈ gone))).map Prod.fst)
  let c1 := withNodes (old.filter (fun p => p.1 ∉ gone)) c
  let c2 := touched.foldl (relink gone dead old) c1
  let es := c.arr.entrySet.filterMap (fun x => if x ∈ gone then entryHeir c2 (gone ++ dead) old x else some x)
  (withEntrySet (es.foldl (fun a x => if x ∈ a then a else a ++ [x]) []) c2, touched)

/-- Nodes of both graphs whose lists differ (R291). -/
def changedNodes (a b : Coll) : List Nat :=
  (b.arr.nodes.filter (fun p => (tget a.arr.nodes p.1).any (fun l => l ≠ p.2))).map Prod.fst

/-- A graph whose entry set is empty takes the node folded first: that of the lowest sequence number (R293). -/
def seedEntrySet (c : Coll) : Coll :=
  if c.arr.entrySet ≠ [] then c
  else
    match sortBy (fun (a b : Entry) => a.seq < b.seq) (c.arr.nodes.filterMap (fun p => tget c.entries p.1)) with
    | e :: _ => withEntrySet [e.slot] c
    | [] => c

/-- Take nodes out of the graph and link entries into it. -/
def graphFold (s : State) (cut : Nat) (c : Coll) (adds : List Entry) (drops : List Nat) : Coll × Nat :=
  let v := linkView s c
  let (r, _) := removeNodes v drops (deadNodes cut c)
  let l := seedEntrySet (linkAll r (adds.map Entry.slot))
  ({ c with arr := { c.arr with nodes := l.arr.nodes, entrySet := l.arr.entrySet } },
   (drops.filter (fun x => (tget c.arr.nodes x).isSome)).length)

/-- The graph and patch areas of a collection grow on all twelve stacks at once, or not at all (R340). -/
def graphFits (s : State) (tk : Taken) (old new : Coll) : Bool :=
  let more := (graphArea new + patchArea new) - (graphArea old + patchArea old)
  (List.range 12).all (fun n => more ≤ freeIn s tk false n)

/-! ## The operations -/

/-- The slots leave the side list and their tombstones the log. -/
def dropSide (adds : List Nat) (drops : List Nat) (c : Coll) : Coll :=
  { c with arr := { c.arr with side := c.arr.side.filter (fun sl => sl ∉ adds && sl ∉ drops),
                               tombLog := c.arr.tombLog.filter (fun t => t.1 ∉ drops) } }

/-- A fold of the entries `es` and the dead slots `xs`, or the compaction of `xs` alone (R287, R295). An entry that has died
by the cut is placed nowhere (log entry 52). -/
def foldTo (s : State) (cut : Nat) (c : Coll) (es : List Entry) (xs : List Nat) : Option Arranged :=
  let adds := es.filter (fun e => e.slot ∉ xs)
  match (if hasParts c then writeParts s (tierOrder c.placement) (arrayBytes c) (foldPlan c adds xs) (c.arr.parts, {})
         else some (c.arr.parts, {})) with
  | none => none
  | some (ps, tk) =>
    let c1 := withParts ps c
    let (c2, gone) := if hasGraph c then graphFold s cut c1 adds xs else (c1, 0)
    if !graphFits s tk c c2 then none
    else
      some { coll := dropSide (es.map Entry.slot) xs c2, folded := es.length,
             linked := if hasGraph c then adds.length else 0, removed := gone, freed := xs,
             patched := if hasGraph c then changedNodes c c2 else [] }

/-- Entries that a re-encode step takes: those in the earlier version whose source is held, side list first, then partitions,
then graph nodes, ascending by slot, at most 65,536 (R299). -/
def recodeSlots (cut : Nat) (c : Coll) : List Nat :=
  let old := fun (sl : Nat) => (tget c.entries sl).any (fun e => !e.encNext && e.seq ≤ cut && e.src ≠ .lost)
  let side := ascending (c.arr.side.filter old)
  let parts := (ascending (allPartSlots c)).filter (fun sl => old sl && sl ∉ side)
  let nodes := (c.arr.nodes.map Prod.fst).filter (fun sl => old sl && sl ∉ side && sl ∉ parts)
  (side ++ parts ++ nodes).take 65536

/-- A re-encode step (R299). -/
def recodeTo (s : State) (cut : Nat) (c : Coll) : Option Arranged :=
  let ss := recodeSlots cut c
  let es := c.entries.map (fun p => if p.1 ∈ ss then
    (p.1, { p.2 with code := linkCode s c p.2, encNext := true, version := c.encNext }) else p)
  let keys := (c.arr.parts.filter (fun p => p.2.slots.any (· ∈ ss))).map Prod.fst
  (writeParts s (tierOrder c.placement) (arrayBytes c) (keys.map (fun k => (k, partSlots c k))) (c.arr.parts, {})).map (fun r =>
    { coll := { withParts r.1 c with entries := es, recoded := c.recoded + ss.length },
      patched := (c.arr.nodes.filter (fun p => p.1 ∈ ss || p.2.any (· ∈ ss))).map Prod.fst })

/-- Codes of a centroid table. -/
def centroidCodes (d : TblData) : List Nat :=
  (List.range d.rows).map (fun i => leNat (slice d.bytes (i * (d.cols / 8)) (d.cols / 8)))

/-- The centroid table that is current, and its generation. -/
def currentCentroids (s : State) (c : Coll) : List Nat × Nat :=
  match tget s.tables c.centroid with
  | some t => (((t.current.map centroidCodes).getD []), t.gen)
  | none => ([], 0)

/-- Slots grouped into the partitions of R33. -/
def groupSlots (c : Coll) (slots : List Nat) : List (Nat × List Nat) :=
  let keyed := slots.filterMap (fun sl => (tget c.entries sl).map (fun e => (partKey c e, sl)))
  (ascending (keyed.map Prod.fst)).map (fun k => (k, ascending ((keyed.filter (fun p => p.1 = k)).map Prod.snd)))

/-- A re-partition after a swap of the centroid table (R302): every partition is written anew. -/
def repartTo (s : State) (c : Coll) : Option Arranged :=
  let (cs, gen) := currentCentroids s c
  let c1 := { c with centroids := cs, centroidGen := gen }
  (writeParts s (tierOrder c.placement) (arrayBytes c) (groupSlots c1 (ascending (allPartSlots c))) ([], {})).map (fun r =>
    { coll := withParts r.1 c1 })

/-- A placement move: the partition is rewritten unchanged on the other tier (§13.4). -/
def moveTo (s : State) (c : Coll) (m : Move) : Option Arranged :=
  (writeParts s (fun _ => [m.toBulk]) (arrayBytes c) [(m.key, partSlots c m.key)] (c.arr.parts, {})).map (fun r =>
    { coll := withParts r.1 c })

/-- The build of the structure that a collection changed to BOTH lacks (R294). -/
def buildTo (s : State) (cut : Nat) (c : Coll) : Option Arranged :=
  let held := fun (sl : Nat) => (tget c.entries sl).any (fun e => e.seq ≤ cut)
  if c.buildGraph then
    let slots := (ascending (allPartSlots c)).filter held
    let l := linkAll (withEntrySet [] (withNodes [] (linkView s c))) slots
    let c2 := { c with building := false, arr := { c.arr with nodes := l.arr.nodes, entrySet := l.arr.entrySet } }
    if graphFits s {} c c2 then some { coll := c2, linked := slots.length } else none
  else
    let slots := (c.arr.nodes.map Prod.fst).filter held
    let groups := groupSlots c slots
    if groups.length > 65536 then none
    else
      (writeParts s (tierOrder c.placement) (arrayBytes c) groups ([], {})).map (fun r =>
        { coll := { withParts r.1 c with building := false } })

/-- The view epoch rises by one, and the cut is that of the last commit (R49, Table 11.6). -/
def atEpoch (cut : Nat) (c : Coll) : Coll :=
  { c with viewEpoch := c.viewEpoch + 1, lastCut := cut, arr := { c.arr with epoch := c.viewEpoch + 1 } }

/-- Tombstone settlement (R296): the tombstones up to the cut leave the log; their bits stay set. -/
def settleTo (cut : Nat) (c : Coll) : Coll := { c with arr := { c.arr with tombLog := c.arr.tombLog.filter (fun t => t.2 > cut) } }

/-- A node whose lists no extent can give back is linked again by the procedure for new nodes (Table 17.2). -/
def relinkTo (s : State) (c : Coll) (e : Nat) : Arranged :=
  let v := setNbrs e [] (linkView s c)
  let l := linkOne v e ((linkWalk v (codeAt v e)).filter (· ≠ e)) []
  let c2 := { c with arr := { c.arr with nodes := l.arr.nodes } }
  { coll := c2, linked := 1, patched := changedNodes c c2 }

/-- What operation `op` (Table 11.6; 7 settlement, 8 a node linked again) makes of a collection; none when it finds no space. -/
def arrange (s : State) (op cut : Nat) (key : Option Nat) (move : Option Move) (c : Coll) : Option Arranged :=
  match op with
  | 1 => foldTo s cut c (foldSide cut c) (foldTombs cut c)
  | 2 => foldTo s cut c [] (compactTombs cut key c)
  | 3 => recodeTo s cut c
  | 4 => match move with
    | some m => moveTo s c m
    | none => repartTo s c
  | 6 => buildTo s cut c
  | 8 => some (relinkTo s c (key.getD 0))
  | _ => some { coll := settleTo cut c }

end Sys2Proof.Machine
end

