-- ==== Sys2Proof/Machine/Drone.lean ====
section
/-! DEFINITION. Drone's rows: the start of its operations (R285, R286), their commits (R287 to R303), the release of slots
(R283), the patch area (R292), AUTO residency (R341 to R344), and the image that a checkpoint takes at a commit (R323). -/

namespace Sys2Proof.Machine

/-! ## Entries lost (R428) -/

/-- An entry is lost: its tombstone is set under a DELETE record of the module's own, the owner's deferred store gets an
entry, and the collection is INCOMPLETE. -/
def loseEntry (h slot media : Nat) (s : State) : State :=
  match (tget s.colls h).bind (fun c => tget c.entries slot) with
  | none => s
  | some e =>
    let d := ownerOf s h
    let r := { jrecNew 0x03 h .delete 64 d 0xFFFF 0xFFFF with oldSlot := some slot, entry := some e }
    let (q, s) := journalPut r s
    let s := collMod h (fun c => { setTomb slot q c with incomplete := true }) s
    deferAll d [{ seq := e.seq, vid := e.record.vid, coll := h, status := stMediaLost, queue := 0xFFFF, tag := 0xFFFF,
                  dflags := 2, media := BitVec.ofNat 64 media, no := 0 }] (countLost 1 s)

/-- The journal copy of an entry's record is readable. -/
def recordReadable (s : State) (e : Entry) : Bool := (sourceRec s e).any (fun r => !r.lost && !r.poisoned)

/-- A poisoned word that an operation reads (R303): rebuilt from the source or the journal copy, or its entry is lost. -/
def repairFound (p : Poison) (s : State) : State :=
  match (tget s.colls p.coll).bind (fun c => tget c.entries p.slot) with
  | none => s
  | some e =>
    let s := blkFault (blkPage .drn 0) 0 (BitVec.ofNat 64 (p.addr % 2 ^ 38)) (BitVec.ofNat 64 (poisonInfo p)) s
    let ok : Bool := match p.word with
      | .code => decide (e.src ≠ .lost)
      | _ => recordReadable s e
    if ok then { s with poison := s.poison.filter (· ≠ p) }
    else if ((tget s.colls p.coll).bind (fun c => tget c.tombs p.slot)).isSome then s
    else loseEntry p.coll p.slot (sourceMedia s e) s

/-- The slots whose words an operation reads. -/
def readSlots (op cut : Nat) (key : Option Nat) (move : Option Move) (c : Coll) : List Nat :=
  let rewritten := fun (xs : List Nat) => (c.arr.parts.filter (fun p => p.2.slots.any (· ∈ xs))).flatMap (fun p => p.2.slots)
  match op with
  | 1 =>
    let es := foldSide cut c
    es.map Entry.slot ++ (foldPlan c es (foldTombs cut c)).flatMap (fun p => partSlots c p.1)
  | 2 => rewritten (compactTombs cut key c)
  | 3 => recodeSlots cut c ++ rewritten (recodeSlots cut c)
  | 4 => match move with
    | some m => partSlots c m.key
    | none => allPartSlots c
  | 6 => if c.buildGraph then allPartSlots c else c.arr.nodes.map Prod.fst
  | _ => []

/-- Repair what an operation finds poisoned before it goes on. -/
def repairAll (h op cut : Nat) (key : Option Nat) (move : Option Move) (s : State) : State :=
  match tget s.colls h with
  | none => s
  | some c =>
    let sl := readSlots op cut key move c
    (s.poison.filter (fun p => p.coll = h ∧ p.slot ∈ sl ∧ (p.word = .code ∨ p.word = .record))).foldl (fun s p => repairFound p s) s

/-! ## Stalls, space and events -/

/-- An event of Drone to the collection's owner. -/
def raiseDrone (code sev h i0 i1 i2 : Nat) (s : State) : State :=
  raise .drn { mkEv code sev .drn 0 (ownerOf s h) 0 i0 i1 i2 with coll := h } s

/-- MAINT_STALLED with its reason: 1 TIER_FULL, 2 MEDIA_LOST, 3 HOLD. -/
def maintStalled (h reason : Nat) (s : State) : State :=
  let info := h + reason * 2 ^ 16
  let s := if reason = 1 then bumpSat (reg .drn 0 0x128) 32 32 1 (blkFault (blkPage .drn 0) 1 0 (BitVec.ofNat 64 info) s) else s
  raiseDrone 0x00B3 1 h info 0 0 s

/-- Collection space and free space of a tier. -/
def tierTotal (bulk : Bool) : Nat := if bulk then 4 * towerSpace else 12 * stackSpace
def tierFree (s : State) (bulk : Bool) : Nat :=
  if bulk then (List.range 4).foldl (fun a t => a + towerFree s t) 0 else (List.range 12).foldl (fun a n => a + stackFree s n) 0

def freeLo (s : State) : Nat := bits (regGet s (reg .drn 0 0x130)).toNat 39 32
def freeHi (s : State) : Nat := bits (regGet s (reg .drn 0 0x130)).toNat 47 40

/-- TIER_LOW for a tier, naming a collection whose move waits. -/
def raiseTierLow (bulk : Bool) (coll : Nat) (s : State) : State :=
  let b : Blk := if bulk then .bkc else .ftc
  raise b { mkEv 0x00D2 1 b 0 0xFFFF 0 (b2n bulk) (tierFree s bulk / 2 ^ 20) 0 with coll := coll } s

/-- TIER_LOW is raised once below free_lo, and armed again above free_hi (R344). -/
def tierLowCheck (s : State) : State :=
  [false, true].foldl (fun s b =>
    let n := b2n b
    let free := 100 * tierFree s b
    if n ∈ s.tierLow then (if free > freeHi s * tierTotal b then { s with tierLow := s.tierLow.filter (· ≠ n) } else s)
    else if free < freeLo s * tierTotal b then raiseTierLow b 0xFFFF { s with tierLow := insertNat n s.tierLow }
    else s) s

/-! ## The image of a checkpoint (R323) -/

/-- The journal number up to which a collection's image reaches: the checkpoint's cut, and the last record of the collection
that is no entry's, whose effect its structures already hold (log entry 53). -/
def imageMark (s : State) (cut h : Nat) : Nat :=
  s.bag.recs.foldl (fun m r => if r.coll = h && r.type ≥ 0x10 && r.seq > m then r.seq else m) cut

/-- A collection as its image holds it: side entries and tombstones up to its mark. -/
def imageColl (s : State) (cut h : Nat) (c : Coll) : Coll :=
  let m := imageMark s cut h
  let es := c.entries.filter (fun p => p.2.seq ≤ m)
  { c with entries := es, tombs := c.tombs.filter (fun t => t.2 ≤ m),
           arr := { c.arr with side := c.arr.side.filter (fun sl => (tget es sl).isSome),
                               tombLog := c.arr.tombLog.filter (fun t => t.2 ≤ m) },
           run := none, moves := [], patches := [], journaled := m, posted := m }

def imageAt (cut : Nat) (s : State) : Image :=
  { colls := s.colls.map (fun p => (p.1, imageColl s cut p.1 p.2)), domains := s.domains, progs := s.progs, tables := s.tables }

/-- Begin the checkpoint that is due, at a cut; one that is being written runs on. -/
def beginCheckpoint (cut : Nat) (s : State) : State :=
  if s.bag.ckptDue && s.bag.ckpt.isNone then
    { s with bag := { s.bag with ckpt := some (cut, imageAt cut s), ckptDue := false } }
  else s

/-! ## Commits (R287, R289) -/

/-- The entry set that Drone keeps is the table's current version (R156, R293). -/
def syncEntrySet (h : Nat) (s : State) : State :=
  match tget s.colls h with
  | none => s
  | some c =>
    { s with tables := tmod s.tables c.entryTbl (fun t =>
        { t with current := some { kind := 3, fmt := 0, rows := c.arr.entrySet.length, cols := 1, scale := 0, tscale := 0,
                                   bytes := c.arr.entrySet.flatMap (leBytes 4) } }) }

/-- The arrangement takes effect at a COMMIT record of number `seq`. -/
def takeEffect (h op cut seq : Nat) (r : Arranged) (s : State) : State :=
  let c := atEpoch cut r.coll
  let rel : List Release := if op = 1 ∨ op = 2 then [{ commitSeq := seq, epoch := c.viewEpoch, slots := r.freed }] else []
  syncEntrySet h <| freeStep h (collMod h (fun now =>
    { c with journaled := now.journaled, posted := now.posted, releases := now.releases ++ rel,
             patches := r.patched.foldl (fun a n => insertNat n a) now.patches, run := none,
             sideHigh := now.sideHigh && placesUsed c ≥ 15728640 }) s)

/-- The patches of an operation do not fit the patch area beside those that wait for the apply phase (R292). -/
def patchOverflow (c : Coll) (r : Arranged) : Bool :=
  c.patches ≠ [] && r.patched ≠ [] && (ascending (c.patches ++ r.patched)).length * nodeStride c > 12 * patchArea c

/-- Operation codes of Table 11.6. -/
def opCode : DroneOp → Nat
  | .fold => 1 | .compaction => 2 | .reencodeStep => 3 | .repartition => 4 | .apply => 5 | .build => 6

/-- An operation that finds no space stalls: its command fails with TIER_FULL; a placement move is dropped (R302, R339,
R340, R342, R343). -/
def stallOp (h : Nat) (move : Option Move) (by_ : Option Nat) (s : State) : State :=
  let auto := (tget s.colls h).any (fun c => c.placement ≥ 2)
  let s := endRun h s
  let s := match move with
    | some m => if auto then raiseTierLow m.toBulk h s else maintStalled h 1 s
    | none => maintStalled h 1 s
  match by_ with
  | some x => failCmd x stTierFull none s
  | none => s

/-- The COMMIT record of an operation, in the name of the command that asked for it. -/
def commitRec (h : Nat) (body : JBody) (by_ : Option Cmd) (s : State) : JRec :=
  match by_ with
  | some x => jrecNew 0x20 h body 128 (domOf s x) x.queue (cTag x)
  | none => jrecNew 0x20 h body 128 (ownerOf s h) 0xFFFF 0xFFFF

/-- A commit: its record, the barrier, its effect, FOLD_COMMITTED, and the checkpoint that waits for one; the CONSOLIDATE
that asked completes once the barrier has been acknowledged. -/
def commitOp (h op cut : Nat) (key : Option Nat) (move : Option Move) (by_ : Option Cmd) (r : Arranged) (s : State) : State :=
  let e := r.coll.viewEpoch + 1
  let (seq, s) := journalPut (commitRec h (.commit op cut e key move) by_ s) s
  let (b, s) := beginBarrier false h s
  let s := takeEffect h op cut seq r s
  let s := bumpWrap (reg .drn 0 0x118) 0 64 r.folded s
  let s := bumpWrap (reg .drn 0 0x120) 32 32 r.linked (bumpWrap (reg .drn 0 0x120) 0 32 r.removed s)
  let s := bumpSat (reg .drn 0 0x128) 0 32 1 s
  let code := if op = 7 then Config.settlementOp.toNat else if op = 8 then Config.relinkOp.toNat else op
  let s := raiseDrone 0x00B0 0 h (h + code * 2 ^ 12) e cut s
  let s := match by_ with
    | some x => cmdMod x.id (fun y => { y with epoch := e, jseq := seq, journaled := true, work := .wait 1 b }) s
    | none => s
  beginCheckpoint cut (tierLowCheck s)

/-- Run an operation and commit it; while the journal may not be written (R30) or has no space, or the patch area none, nothing
happens yet. -/
def runOp (h op cut : Nat) (key : Option Nat) (move : Option Move) (by_ : Option Nat) (s : State) : State :=
  let x := by_.bind (cmdGet s)
  if !journalOpen s || !journalFits s (x.any Cmd.bounded) 128 then s
  else
    let s := repairAll h op cut key move s
    match tget s.colls h with
    | none => s
    | some c =>
      match arrange s op cut key move c with
      | none => stallOp h move by_ s
      | some r => if patchOverflow c r then s else commitOp h op cut key move x r s

/-- Drone works: the module is READY in FULL or SPARED, and neither a reset nor a power loss is in progress. -/
def droneWorks (s : State) : Bool :=
  s.chn.stage = 6 && !s.chn.quiesced && !s.chn.losing && (s.chn.mode = .full || s.chn.mode = .spared)

/-- FOLD_COMMIT (R287, R289): the operation in progress on a collection commits. -/
def foldCommit (h : Nat) (s : State) : State :=
  match tget s.colls h with
  | none => s
  | some c =>
    match c.run with
    | none => s
    | some r => if droneWorks s then runOp h (opCode r.op) r.cut r.key r.move r.by_ s else s

def execFoldCommit (h : Nat) (s : State) : Host.Outcome State Fault Refusal := .next (drainAll (foldCommit h s))

/-! ## Starts -/

/-- An operation may start on the collection (R285). -/
def mayRun (s : State) (c : Coll) : Bool := droneWorks s && c.run.isNone && !c.dropping

/-- An operation begins: it is in progress, and its streams take a ring in class MNT (R246, R285). -/
def startRun (h : Nat) (op : DroneOp) (key : Option Nat) (move : Option Move) (by_ : Option Nat) (s : State) : State :=
  droneRing h (collMod h (fun c => { c with run := some { op := op, cut := c.posted, key := key, move := move, by_ := by_, since := s.now } }) s)

/-- The oldest CONSOLIDATE of an op that waits for Drone on a collection. -/
def consolidating (s : State) (h op : Nat) : Option Cmd :=
  s.cmds.find? (fun x => x.work = .wait 4 h && cOp x = 0x50 && cf x 16 1 = op)

/-- CONSOLIDATE completes with the epoch unchanged when there is nothing to do (R297). -/
def nothingToDo (x : Cmd) (c : Coll) (s : State) : State := finish x.id (fun y => { y with epoch := c.viewEpoch }) s

def somethingToFold (c : Coll) : Bool := foldSide c.posted c ≠ [] || foldTombs c.posted c ≠ []

/-- A fold that its thresholds ask for: it starts, and placement moves that wait are dropped (R342). -/
def startFold (h : Nat) (c : Coll) (s : State) : State :=
  if somethingToFold c then startRun h .fold none none none (tierLowCheck (collMod h (fun c => { c with moves := [] }) s)) else s

/-- FOLD_START (R286): for a CONSOLIDATE that waits, or at side_hw. -/
def foldStart (h : Nat) (s : State) : State :=
  match tget s.colls h with
  | none => s
  | some c =>
    if !mayRun s c || c.building then s
    else
      match consolidating s h 0 with
      | some x => if somethingToFold c then startRun h .fold none none (some x.id) s else nothingToDo x c s
      | none => if placesUsed c ≥ c.sideHw then startFold h c s else s

def execFoldStart (h : Nat) (s : State) : Host.Outcome State Fault Refusal := .next (drainAll (foldStart h s))

/-- The reference time at which the record of a number was written. -/
def timeOfSeq (s : State) (n : Nat) : Nat := ((s.bag.recs.find? (fun r => r.seq = n)).map JRec.at_).getD 0

/-- The oldest side entry or logged tombstone is older than age_ms. -/
def aged (s : State) (c : Coll) : Bool :=
  let old := fun (t : Nat) => s.now > t + c.ageMs * 1000000
  c.arr.side.any (fun sl => (tget c.entries sl).any (fun e => old e.at_)) || c.arr.tombLog.any (fun t => old (timeOfSeq s t.2))

/-- FOLD_AGE_EXPIRY (R286). -/
def foldAge (h : Nat) (s : State) : State :=
  match tget s.colls h with
  | none => s
  | some c => if mayRun s c && !c.building && aged s c then startFold h c s else s

def execFoldAgeExpiry (h : Nat) (s : State) : Host.Outcome State Fault Refusal := .next (drainAll (foldAge h s))

/-- COMPACTION_TRIGGER (R295): for a CONSOLIDATE that waits, of the whole collection; otherwise of a partition whose
tombstoned share has reached tomb_pm. -/
def compactionTrigger (h key : Nat) (s : State) : State :=
  match tget s.colls h with
  | none => s
  | some c =>
    if !mayRun s c || c.building then s
    else
      match consolidating s h 1 with
      | some x => if compactTombs c.posted none c = [] then nothingToDo x c s else startRun h .compaction none none (some x.id) s
      | none =>
        let dead := compactTombs c.posted (some key) c
        if dead ≠ [] && dead.length * 1000 ≥ c.tombPm * (partSlots c key).length then startRun h .compaction (some key) none none s
        else s

def execCompactionTrigger (h key : Nat) (s : State) : Host.Outcome State Fault Refusal := .next (drainAll (compactionTrigger h key s))

/-- TOMBSTONE_SETTLEMENT (R296): a commit with no rewrite; in HOLD the only maintenance. -/
def settlement (h : Nat) (s : State) : State :=
  match tget s.colls h with
  | none => s
  | some c =>
    if s.chn.stage ≠ 6 || s.chn.quiesced || s.chn.losing || s.chn.mode = .off || c.run.isSome || c.dropping || foldTombs c.posted c = []
    then s
    else runOp h 7 c.posted none none none s

def execTombstoneSettlement (h : Nat) (s : State) : Host.Outcome State Fault Refusal := .next (drainAll (settlement h s))

/-- REENCODE_STEP (R299): a step starts while an entry of the earlier version has its source. -/
def reencodeStep (h : Nat) (s : State) : State :=
  match tget s.colls h with
  | none => s
  | some c => if mayRun s c && c.migrating && recodeSlots c.posted c ≠ [] then startRun h .reencodeStep none none none s else s

def execReencodeStep (h : Nat) (s : State) : Host.Outcome State Fault Refusal := .next (drainAll (reencodeStep h s))

/-- REPARTITION (R302, R342): after a swap of the centroid table; otherwise the placement move that waits longest. -/
def repartition (h : Nat) (s : State) : State :=
  match tget s.colls h with
  | none => s
  | some c =>
    if !mayRun s c || c.building || !hasParts c then s
    else if c.partMode = 1 && (currentCentroids s c).2 ≠ c.centroidGen then startRun h .repartition none none none s
    else
      match c.moves with
      | [] => s
      | m :: t =>
        let s := collMod h (fun c => { c with moves := t }) s
        if (tget c.arr.parts m.key).any (fun p => p.bulk ≠ m.toBulk) then startRun h .repartition none (some m) none s else s

def execRepartition (h : Nat) (s : State) : Host.Outcome State Fault Refusal := .next (drainAll (repartition h s))

/-- INDEX_BUILD (R294). -/
def indexBuild (h : Nat) (s : State) : State :=
  match tget s.colls h with
  | none => s
  | some c => if mayRun s c && c.building then startRun h .build none none none s else s

def execIndexBuild (h : Nat) (s : State) : Host.Outcome State Fault Refusal := .next (drainAll (indexBuild h s))

/-! ## The end of a migration (R301) -/

/-- A command in execution may still write an entry of the earlier version. -/
def writesOld (s : State) (h : Nat) : Bool :=
  s.cmds.any (fun x => x.phase = .executing && entryMutation x && cColl x = h && x.view.any (fun c => !c.migrating))

/-- Entries of the earlier version, those that a RELEASE will free left out. -/
def oldEntries (c : Coll) : List Entry :=
  (c.entries.filter (fun p => !p.2.encNext && c.releases.all (fun r => p.1 ∉ r.slots))).map Prod.snd

/-- The collection after the end of its migration. -/
def migrated (c : Coll) : Coll :=
  { atEpoch c.lastCut c with encVersion := c.encNext, encNext := 0xFFFF, migrating := false, recoded := 0,
                             recodeLost := 0, entries := c.entries.map (fun p => (p.1, { p.2 with encNext := false })) }

/-- REENCODE_DONE (R301): no entry of the earlier version is left but those whose source is lost, which are lost. -/
def reencodeDone (h : Nat) (s : State) : State :=
  match tget s.colls h with
  | none => s
  | some c =>
    let old := oldEntries c
    if !mayRun s c || !c.migrating || old.any (fun e => e.src ≠ .lost) || writesOld s h || !ownFits s 128 then s
    else
      let gone := old.filter (fun e => (tget c.tombs e.slot).isNone)
      let s := gone.foldl (fun s e => loseEntry h e.slot (sourceMedia s e) s) s
      let (_, s) := journalOwn 0x11 h (.reencode c.encNext true) 128 c.owner s
      let (_, s) := beginBarrier false h s
      let s := bumpSat (reg .drn 0 0x128) 0 32 1 (collMod h migrated s)
      raiseDrone 0x00B2 0 h (h + c.encNext * 2 ^ 16) (c.viewEpoch + 1) gone.length s

def execReencodeDone (h : Nat) (s : State) : Host.Outcome State Fault Refusal := .next (drainAll (reencodeDone h s))

/-! ## Release and apply -/

/-- A search in execution reads the collection under a view epoch below `e`. -/
def searchedBelow (s : State) (h e : Nat) : Bool :=
  s.cmds.any (fun x => x.phase = .executing && takesView x && cColl x = h && x.view.any (fun c => c.viewEpoch < e))

/-- A search that has not started can still see an entry whose slot the commit dropped (R53). -/
def seenWaiting (s : State) (h : Nat) (c : Coll) (slots : List Nat) : Bool :=
  s.cmds.any (fun x => x.phase = .waiting && takesView x && cColl x = h &&
    slots.any (fun sl => (tget c.tombs sl).any (fun q => q > x.horizon) && (tget c.entries sl).any (fun e => e.seq ≤ x.horizon)))

/-- The slots of a commit become free (R283). -/
def freeSlots (seq : Nat) (slots : List Nat) (c : Coll) : Coll :=
  { c with entries := c.entries.filter (fun p => p.1 ∉ slots), tombs := c.tombs.filter (fun p => p.1 ∉ slots),
           releases := c.releases.filter (fun r => r.commitSeq ≠ seq) }

/-- SLOT_RELEASE (R283): the oldest commit whose slots wait, once no search of an earlier epoch runs. -/
def slotRelease (h : Nat) (s : State) : State :=
  match tget s.colls h with
  | none => s
  | some c =>
    match c.releases with
    | [] => s
    | r :: _ =>
      if searchedBelow s h r.epoch || seenWaiting s h c r.slots || s.chn.stage ≠ 6 || s.chn.losing || !ownFits s 128 then s
      else
        let (_, s) := journalOwn 0x20 h (.release r.commitSeq) 128 c.owner s
        let s := { s with poison := s.poison.filter (fun p => !(p.coll = h && p.slot ∈ r.slots)) }
        collMod h (freeSlots r.commitSeq r.slots) s

def execSlotRelease (h : Nat) (s : State) : Host.Outcome State Fault Refusal := .next (drainAll (slotRelease h s))

/-- PATCH_APPLY (R292): an operation of the collection like the others, it runs beside none (R285). -/
def patchApply (h : Nat) (s : State) : State :=
  match tget s.colls h with
  | none => s
  | some c => if !mayRun s c || searchedBelow s h c.viewEpoch then s else collMod h (fun c => { c with patches := [] }) s

def execPatchApply (h : Nat) (s : State) : Host.Outcome State Fault Refusal := .next (patchApply h s)

/-! ## AUTO residency (R341 to R343) -/

/-- A partition as the evaluation sees it: collection, key, tier, bytes and heat. -/
structure Held where
  h    : Nat
  key  : Nat
  bulk : Bool
  size : Nat
  heat : Nat

/-- Size in MiB, a part of one counted whole (log entry 54). -/
def mib (p : Held) : Nat := ceilDiv p.size (2 ^ 20)

/-- Order by heat, then collection, then key. -/
def colder (a b : Held) : Bool :=
  a.heat < b.heat || (a.heat = b.heat && (a.h < b.h || (a.h = b.h && a.key < b.key)))

def sameHeld (a b : Held) : Bool := a.h = b.h && a.key = b.key

/-- Partitions of the collections with a placement policy that `f` accepts. -/
def heldParts (s : State) (f : Nat → Bool) : List Held :=
  s.colls.flatMap (fun p => if f p.2.placement then p.2.arr.parts.map (fun q =>
    { h := p.1, key := q.1, bulk := q.2.bulk, size := partBytes p.2 q.2, heat := q.2.heat }) else [])

/-- An evaluation in progress: partitions coldest first, free bytes of the fast tier, budget in MiB, and the moves made. -/
structure Eval where
  parts  : List Held
  free   : Int
  budget : Int
  moves  : List (Nat × Move)

/-- Move a partition to the other tier. -/
def evalMove (p : Held) (toBulk : Bool) (v : Eval) : Eval :=
  { parts := v.parts.map (fun q => if sameHeld p q then { q with bulk := toBulk } else q),
    free := if toBulk then v.free + p.size else v.free - p.size, budget := v.budget - mib p,
    moves := v.moves ++ [(p.h, { key := p.key, toBulk := toBulk })] }

/-- The demotions that make room. -/
def evalRoom (lo total : Nat) : Nat → Eval → Eval
  | 0, v => v
  | n + 1, v =>
    if 100 * v.free < (lo * total : Nat) ∧ v.budget > 0 then
      match v.parts.find? (fun p => !p.bulk) with
      | some c => evalRoom lo total n (evalMove c true v)
      | none => v
    else v

/-- The promotions and the swaps. -/
def evalPromote (hi total : Nat) : Nat → Eval → Eval
  | 0, v => v
  | n + 1, v =>
    if v.budget ≤ 0 then v
    else
      match (v.parts.filter (fun p => p.bulk)).getLast? with
      | none => v
      | some h =>
        if 100 * (v.free - h.size) ≥ (hi * total : Nat) then evalPromote hi total n (evalMove h false v)
        else
          match v.parts.find? (fun p => !p.bulk) with
          | some c =>
            if h.heat > 2 * c.heat ∧ 100 * (v.free - h.size + c.size) ≥ (hi * total : Nat) then
              evalPromote hi total n (evalMove h false (evalMove c true v))
            else v
          | none => v

/-- Partitions of pinned collections that lie on the other tier, coldest first, as the budget allows (R343). -/
def evalPinned (s : State) (v : Eval) : Eval :=
  let off := sortBy colder ((heldParts s (fun p => p = 0)).filter (fun p => p.bulk) ++ (heldParts s (fun p => p = 1)).filter (fun p => !p.bulk))
  off.foldl (fun v p => if v.budget > 0 then evalMove p (!p.bulk) v else v) v

/-- AUTO_EVALUATION (R341, R343): heat decays, and the moves of the interval are queued. -/
def autoEvaluation (s : State) : State :=
  if !droneWorks s then s
  else
    let s := { s with colls := s.colls.map (fun p => if p.2.placement = 2 then
      (p.1, withParts (p.2.arr.parts.map (fun q => (q.1, { q.2 with heat := q.2.heat / 2 + q.2.scans, scans := 0 }))) p.2) else p) }
    let ps := sortBy colder (heldParts s (fun p => p = 2))
    let total := tierTotal false
    let budget := max 64 (bits (regGet s (reg .drn 0 0x130)).toNat 63 48)
    let v : Eval := { parts := ps, free := tierFree s false, budget := budget, moves := [] }
    let v := evalPinned s (evalPromote (freeHi s) total (2 * ps.length + 1) (evalRoom (freeLo s) total (ps.length + 1) v))
    tierLowCheck { s with colls := s.colls.map (fun p =>
      (p.1, { p.2 with moves := (v.moves.filter (fun m => m.1 = p.1)).map Prod.snd })) }

def execAutoEvaluation (s : State) : Host.Outcome State Fault Refusal := .next (drainAll (autoEvaluation s))

end Sys2Proof.Machine
end

