-- ==== Sys2Proof/Machine/Bag.lean ====
section
/-! DEFINITION. Bag's rows: stripes and drain (R316), FLUSH and BARRIER (R106, R107, R310), checkpoints (R323, R326), poisoned
records (R511), log cleaning and scrub (R317, R318), failed members, rebuild and lost stripes (R327 to R329), the hold-up bank
(R319, R320) and the power-loss sequence (R321). -/

namespace Sys2Proof.Machine

def bagMod (f : Bag → Bag) (s : State) : State := { s with bag := f s.bag }

/-- Bag works: the start has brought the flash up and neither a power loss nor OFF has taken it away. -/
def bagWorks (s : State) : Bool := s.chn.stage = 6 && !s.chn.losing && s.chn.mode ≠ .off

def bagPage : Nat := blkPage .bag 0

/-! ## Bytes written and wear (R332) -/

/-- Wear of a channel as it stands. -/
def wearPct (s : State) (ch : Nat) : Nat := Config.channelWear ch (regGet s (reg .bag 0 0x148)).toNat

/-- WEAR_HIGH for a channel. -/
def raiseWear (ch pct : Nat) (s : State) : State :=
  raiseFault .bag bagPage 5 (mkEv 0x00C6 1 .bag 0 0xFFFF 0 (ch + pct * 256) 0 0) s

/-- Count user bytes written; a channel's wear that reaches 80 % or 95 % is reported. -/
def countWritten (n : Nat) (s : State) : State :=
  let t := bumpWrap (reg .bag 0 0x148) 0 64 n s
  (List.range 18).foldl (fun u ch =>
    let before := wearPct s ch
    let now := wearPct t ch
    if [80, 95].any (fun l => before < l && l ≤ now) then raiseWear ch now u else u) t

/-! ## Stripes and drain (R304, R316) -/

/-- Records that are not in a programmed stripe, in journal order. -/
def undrained (s : State) : List JRec := s.bag.recs.filter (fun r => r.stripe.isNone)

def stripeBytes : Nat := 2 ^ 18

/-- The leading records that a stripe takes. -/
def fillStripe : Nat → List JRec → List JRec
  | _, [] => []
  | room, r :: t => if r.bytes ≤ room then r :: fillStripe (room - r.bytes) t else []

def sumBytes (rs : List JRec) : Nat := rs.foldl (fun a r => a + r.bytes) 0

/-- Data units of 16 KiB that records of so many bytes fill: Bag writes only whole units (R315). -/
def dataUnits (n : Nat) : Nat := (n + 16383) / 16384

/-- Each data unit of a new stripe is charged to the MNT bucket of an engine (R315, log entry 114). -/
def chargeUnits (stripe n : Nat) (s : State) : State :=
  (List.range n).foldl (fun s u =>
    let e := Config.unitEngine stripe u % 32
    let g := engineOf s e
    setEngine e { g with mntTokens := g.mntTokens - 10 * 16384 } s) s

/-- Records move to a new stripe, all of whose pages have been programmed. -/
def putStripe (seqs : List Nat) (s : State) : State :=
  let n := dataUnits (sumBytes (s.bag.recs.filter (fun r => r.seq ∈ seqs)))
  chargeUnits s.bag.nextStripe n (bagMod (fun b =>
    { b with nextStripe := b.nextStripe + 1,
             stripes := b.stripes ++ [{ no := b.nextStripe, seqs := seqs, lostMembers := [], lost := false }],
             recs := b.recs.map (fun r => if r.seq ∈ seqs then { r with stripe := some b.nextStripe } else r) }) s)

/-- Twice an element of GF(2^8) with polynomial 0x11D (R312). -/
def gfDouble (b : Byte) : Byte := if b.getLsbD 7 then b <<< 1 ^^^ 0x1D#8 else b <<< 1

/-- Byte `j` of P: the XOR of that byte of the data units, a unit that is not listed counting as zeros (R312). -/
def parityP (units : List (List Byte)) (j : Nat) : Byte := units.foldl (fun a d => a ^^^ d.getD j 0) 0

/-- Byte `j` of Q: the sum of 2^i × D_i, by Horner's rule from the last unit (R312). -/
def parityQ (units : List (List Byte)) (j : Nat) : Byte := units.foldr (fun d a => gfDouble a ^^^ d.getD j 0) 0

/-- A data unit at rest (R491), enciphered under the media key in blocks of 16 bytes: a tier granule of 64 bytes with its tier
address as tweak, a flash page of 16 KiB with its media address. The place of the block in the unit goes beside the tweak, since
the cipher is a free value (log entry 16). -/
def atRest (keyNo tweak : Nat) (bytes : List Byte) : List Byte :=
  let bs := chunks 16 (bytes.length / 16 + 1) bytes
  (List.range bs.length).flatMap (fun j =>
    leBytes 16 (Config.xts (Config.mediaKey keyNo) (BitVec.ofNat 128 (tweak + j * 2 ^ 64)) (BitVec.ofNat 128 (leNat (bs.getD j [])))).toNat)

/-! ## FLUSH (R107, R310) -/

/-- A mutation's record that a FLUSH covers: of its collection, or of any collection that its domain owns. A LOST PAD stands
for the record that it replaces. -/
def flushCovers (s : State) (x : Cmd) (r : JRec) : Bool :=
  (r.type ≤ 0x11 || (r.type = 0x7F && r.lost)) && r.coll ≠ 0xFFFF
    && (if cf x 16 1 = 0 then r.coll = cColl x
        else match tget s.colls r.coll with
          | some c => c.owner = domOf s x
          | none => r.domain = domOf s x)

/-- The covered records up to number `n`. -/
def covered (s : State) (x : Cmd) (n : Nat) : List JRec := s.bag.recs.filter (fun r => r.seq ≤ n && flushCovers s x r)

/-- Media address of a record: in journal SRAM, or the first member of its stripe (R313). -/
def recMedia (r : JRec) : Nat :=
  match r.stripe with
  | some n => mediaFlash n 0
  | none => mediaSram r.off

/-- A loss is reported by the BAG page: bit 0 for a record found poisoned, bit 2 for a lost stripe. -/
def lossFault (r : JRec) : CmdFault :=
  { page := bagPage, bit := if r.poisoned then 0 else 2, addr := BitVec.ofNat 64 (recMedia r), info := 0 }

/-- A FLUSH goes on: it ends once every covered record is on flash and the last mirrored one is acknowledged or given up. -/
def flushGoOn (x : Cmd) (n : Nat) (s : State) : State :=
  let cov := covered s x n
  let shipped := if mirrorOn s then (cov.filter (fun r => r.seq ≥ s.cst.mirrorFrom)).getLast? else none
  let hold := setWork x.id (.wait 9 n) s
  if cov.any (fun r => r.stripe.isNone) || shipped.any (fun r => !r.mirrored && !r.mirrorLost) then hold
  else
    let s := cmdMod x.id (fun y => { y with jseq := n }) s
    match cov.find? JRec.lost with
    | some r => failCmd x.id stMediaLost (some (lossFault r)) s
    | none => if shipped.any JRec.mirrorLost then failCmd x.id stMirrorLost none s else finish x.id id s

/-- Go on with every FLUSH that waits. -/
def wakeFlush (s : State) : State :=
  s.cmds.foldl (fun s x => match x.work with
    | .wait 9 n => flushGoOn x n s
    | _ => s) s

/-- FLUSH (R107): the covered set is fixed at the start, and its open stripe is closed. -/
def flush (c : Nat) (s : State) : State :=
  match running s c 0x02 with
  | none => s
  | some x =>
    match x.work with
    | .none =>
      let n := (s.bag.recs.filter (fun r => r.seq < x.defBound && flushCovers s x r)).foldl (fun m r => max m r.seq) 0
      flushGoOn x n (closeStripe n s)
    | .wait 9 n => flushGoOn x n s
    | _ => s

def execFlush (c : Nat) (s : State) : Host.Outcome State Fault Refusal := .next (drainAll (flush c s))

/-! ## BARRIER (R106) -/

/-- A command that was earlier in the scope of a BARRIER has not completed. -/
def barrierWaits (s : State) (x : Cmd) : Bool :=
  s.cmds.any (fun y => y.id < x.id && y.sub.isNone && (if cf x 16 1 = 0 then y.queue = x.queue else domOf s y = domOf s x))

def barrier (c : Nat) (s : State) : State :=
  match running s c 0x03 with
  | none => s
  | some x => if barrierWaits s x then setWork c (.wait 7 (cf x 16 1)) s else finish c id s

/-- BARRIER (R106): it completes once no earlier command of its scope is left; until then the row is issued again. -/
def execBarrier (c : Nat) (s : State) : Host.Outcome State Fault Refusal := .next (barrier c s)

/-! ## The rows of drain -/

/-- What follows the programming of a stripe: commands that waited for flash and FLUSHes go on. -/
def wakeDrained (s : State) : State := wakeFlush (wakeFlash s)

/-! ### The partner's side of mirroring (R400) -/

def imageBytes (rs : List MirrorRec) : Nat := rs.foldl (fun a r => a + r.image.length) 0

/-- Journal SRAM that mirrors hold, of 16 MiB. -/
def mirrorUsed (s : State) : Nat := s.cst.peers.foldl (fun a p => a + imageBytes p.2.mirror) 0

def mirrors (p : Peer) : Bool := p.mirror ≠ [] || p.mirrorLog ≠ [] || p.mirrorWait ≠ []

/-- The leading records that fit in `room` bytes, and the rest. -/
def fitting : Nat → List MirrorRec → List MirrorRec × List MirrorRec
  | _, [] => ([], [])
  | room, r :: t =>
    if r.image.length ≤ room then let (a, b) := fitting (room - r.image.length) t; (r :: a, b) else ([], r :: t)

/-- Records that wait move into journal SRAM as far as they fit, and MACK acknowledges the last of them. -/
def mirrorTake (i : Nat) (s : State) : State :=
  let p := peerOf s i
  let (a, b) := fitting (2 ^ 24 - mirrorUsed s) p.mirrorWait
  match a.getLast? with
  | none => s
  | some r => sendMsg i 0x11 false (BitVec.ofNat 64 r.seq) [] (peerMod i (fun p => { p with mirror := p.mirror ++ a, mirrorWait := b }) s)

/-- Mirrored records drain into the mirror log, which frees their room (R400, log entry 74). -/
def mirrorDrain (s : State) : State :=
  let move := fun (a : Nat × State) (q : Nat × Peer) =>
    let (go, stay) := fitting a.1 q.2.mirror
    (a.1 - imageBytes go, peerMod q.1 (fun p => { p with mirror := stay, mirrorLog := p.mirrorLog ++ go }) a.2)
  let s := (s.cst.peers.foldl move (2 ^ 18, s)).2
  s.cst.peers.foldl (fun s q => mirrorTake q.1 s) s

/-- A stripe may be programmed: its data is pending, or it has been closed. -/
def stripeDue (s : State) : Bool :=
  let rs := undrained s
  rs.foldl (fun a r => a + r.bytes) 0 ≥ stripeBytes || (rs.head?).any (fun r => r.seq ≤ s.bag.closeTo)

/-- STRIPE_PROGRAMMED (R316): the next stripe's pages have reported success, and its records leave journal SRAM.
With no stripe of its own due, Bag drains what it mirrors (log entry 74). -/
def stripeProgrammed (s : State) : State :=
  if !bagWorks s then s
  else if !stripeDue s then mirrorDrain s
  else
    let rs := fillStripe stripeBytes (undrained s)
    wakeDrained (countWritten (sumBytes rs) (putStripe (rs.map JRec.seq) s))

def execStripeProgrammed (s : State) : Host.Outcome State Fault Refusal := .next (drainAll (stripeProgrammed s))

/-- BAG_DRAIN: drain_us and ckpt_s. -/
def drainUs (s : State) : Nat := bits (regGet s (reg .bag 0 0x108)).toNat 31 16
def ckptSecs (s : State) : Nat := bits (regGet s (reg .bag 0 0x108)).toNat 15 0

/-- DRAIN_TIMEOUT (R316): the oldest undrained record is drain_us old, and its stripe is closed with PAD. -/
def drainTimeout (s : State) : State :=
  match undrained s with
  | [] => s
  | r :: t => if s.now ≥ r.at_ + drainUs s * 1000 then closeStripe (((r :: t).map JRec.seq).foldl max 0) s else s

def execDrainTimeout (s : State) : Host.Outcome State Fault Refusal := .next (drainTimeout s)

/-! ## Checkpoints (R323, R326) -/

/-- A checkpoint that is due is taken at once: with a settlement commit of the live collection with the lowest handle, or
without a commit where there is none. While an operation runs on that collection, its commit serves. -/
def takeCheckpoint (s : State) : State :=
  if s.bag.ckpt.isSome then s
  else
    match s.colls.find? (fun p => !p.2.dropping) with
    | none => beginCheckpoint s.bag.postedSeq s
    | some (h, c) => if c.run.isSome then s else runOp h 7 s.bag.postedSeq none none none s

/-- CHECKPOINT op 0: a checkpoint falls due, and the root that completes the command is the next one that begins from now. -/
def checkpointNow (c : Nat) (s : State) : State :=
  match running s c 0x52 with
  | none => s
  | some x =>
    match cf x 16 1, x.work with
    | 0, .none =>
      let root := s.bag.root.rootSeq + (if s.bag.ckpt.isSome then 2 else 1)
      setWork c (.checkpoint root s.now) (bagMod (fun b => { b with ckptDue := true }) s)
    | _, _ => s

/-- CHECKPOINT_NOW (R326). -/
def execCheckpointNow (c : Nat) (s : State) : Host.Outcome State Fault Refusal := .next (checkpointNow c s)

/-- CHECKPOINT op 1 sets ckpt_s. -/
def checkpointSet (c : Nat) (s : State) : State :=
  match running s c 0x52 with
  | some x => if cf x 16 1 = 1 then finish c id (regField (reg .bag 0 0x108) 15 0 (cf x 20 2) s) else s
  | none => s

/-- CHECKPOINT_SET_INTERVAL (R326). -/
def execCheckpointSetInterval (c : Nat) (s : State) : Host.Outcome State Fault Refusal := .next (checkpointSet c s)

/-- CHECKPOINT_WAIT_EXPIRY (R326): no commit has come 1 ms after the start. -/
def checkpointWait (c : Nat) (s : State) : State :=
  match running s c 0x52 with
  | none => s
  | some x =>
    match x.work with
    | .checkpoint _ since =>
      if s.now ≥ since + 1000000 && s.bag.ckptDue && !s.chn.quiesced && bagWorks s then takeCheckpoint s else s
    | _ => s

def execCheckpointWaitExpiry (c : Nat) (s : State) : Host.Outcome State Fault Refusal := .next (drainAll (checkpointWait c s))

/-- Bytes of the log beyond the current root's cut. -/
def logBeyond (s : State) : Nat := (s.bag.recs.filter (fun r => r.seq > s.bag.root.ckptSeq)).foldl (fun a r => a + r.bytes) 0

/-- CHECKPOINT_TIMER (R323): a checkpoint falls due. -/
def checkpointTimer (s : State) : State :=
  if s.now ≥ s.bag.ckptAt + ckptSecs s * 1000000000 || logBeyond s > 2 ^ 36 then bagMod (fun b => { b with ckptDue := true }) s else s

def execCheckpointTimer (s : State) : Host.Outcome State Fault Refusal := .next (checkpointTimer s)

/-! ### Dead sources (R317) -/

/-- An entry of a collection's arrangement is live beyond `cut` and its source is that of record `r`. -/
def collHolds (s : State) (cut : Nat) (r : JRec) (c : Coll) : Bool :=
  c.entries.any (fun p => (match tget c.tombs p.1 with
    | none => true
    | some q => q > cut) && (sourceRec s p.2).any (fun q => q.seq = r.seq))

/-- A record's source is dead: a checkpoint covers it, and its entry is live neither now nor at a view that a command keeps. -/
def sourceDead (s : State) (r : JRec) : Bool :=
  let cut := s.bag.root.ckptSeq
  r.seq ≤ cut && !(tget s.colls r.coll).any (collHolds s cut r)
    && !s.cmds.any (fun x => cColl x = r.coll && x.view.any (collHolds s cut r))

/-- Consecutive numbers as ranges. -/
def rangesOf : List Nat → List (Nat × Nat)
  | [] => []
  | n :: t => match rangesOf t with
    | (a, b) :: u => if a = n + 1 then (n, b) :: u else (n, n) :: (a, b) :: u
    | [] => [(n, n)]

def isSource (r : JRec) : Bool := r.type = 0x01 || r.type = 0x02

/-- Count the sources that have died. -/
def countDead (s : State) : State :=
  let dead := (s.bag.recs.filter (fun r => isSource r && !r.dead && sourceDead s r)).map JRec.seq
  bagMod (fun b => { b with recs := b.recs.map (fun r => if r.seq ∈ dead then { r with dead := true } else r),
                            deadRanges := b.deadRanges ++ rangesOf dead }) s

/-- MTRIM to the partner: the root's cut and up to 65,536 ranges (R400). -/
def sendTrim (s : State) : State :=
  if mirrorOn s && peerUp s (mirrorPeer s) then
    sendMsg (mirrorPeer s) 0x13 false (BitVec.ofNat 64 s.bag.root.ckptSeq)
      ((s.bag.deadRanges.take 65536).flatMap (fun p => leBytes 8 p.1 ++ leBytes 8 p.2))
      (bagMod (fun b => { b with deadRanges := b.deadRanges.drop 65536 }) s)
  else s

/-- The next root (Table 12.9). -/
def nextRoot (s : State) (cut : Nat) : Root :=
  { rootSeq := s.bag.root.rootSeq + 1, ckptSeq := cut, dumpSeq := s.bag.root.dumpSeq, mapSeq := s.chn.mapSeq,
    eventSeq := s.chn.eventSeq, bankB := !s.bag.root.bankB }

/-- A root is written into the bank that does not hold the current one. -/
def writeRoot (cut : Nat) (img : Image) (s : State) : State :=
  let r := nextRoot s cut
  bagMod (fun b => { b with root := r, image := img, oldRoot := if b.rootsValid then some (b.root, b.image) else none, rootsErased := false, rootsValid := true, ckptAt := s.now,
                            gone := { entries := [], progs := [], tables := [], dump := [] } }) s

/-- CHECKPOINTs whose root has been written complete with the cut. -/
def wakeCheckpoints (s : State) : State :=
  s.cmds.foldl (fun s x => match x.work with
    | .checkpoint n _ => if n ≤ s.bag.root.rootSeq then finish x.id (fun y => { y with jseq := s.bag.root.ckptSeq }) s else s
    | _ => s) s

/-- CHECKPOINT_DONE (R323): the extents and the new root have been written. -/
def checkpointDone (s : State) : State :=
  match s.bag.ckpt with
  | none => s
  | some (cut, img) =>
    if !bagWorks s then s
    else
      let s := bagMod (fun b => { b with ckpt := none }) (writeRoot cut img s)
      let n := s.bag.root.rootSeq
      let bytes := Config.ckptBytes n
      let s := raise .bag (mkEv 0x00C5 0 .bag 0 0xFFFF 0 cut n bytes) (countWritten bytes s)
      wakeCheckpoints (sendTrim (countDead s))

def execCheckpointDone (s : State) : Host.Outcome State Fault Refusal := .next (drainAll (checkpointDone s))

/-! ## Source losses -/

/-- Entries of collection `h` whose source is that of record `r`. -/
def entriesOf (s : State) (h : Nat) (r : JRec) : List Entry :=
  match tget s.colls h with
  | none => []
  | some c => (c.entries.filter (fun p => (tget c.tombs p.1).isNone && (sourceRec s p.2).any (fun q => q.seq = r.seq))).map Prod.snd

/-- The sources of slots are lost. -/
def loseSources (h : Nat) (slots : List Nat) (s : State) : State :=
  collMod h (fun c => { c with entries := c.entries.map (fun p => if p.1 ∈ slots then (p.1, { p.2 with src := .lost }) else p) }) s

/-- Put back a record. -/
def recMod (seq : Nat) (f : JRec → JRec) (s : State) : State :=
  bagMod (fun b => { b with recs := b.recs.map (fun r => if r.seq = seq then f r else r) }) s

/-! ## Poisoned records (R511) -/

/-- An INSERT or UPSERT whose payload is lost: drained with its entry's code. -/
def poisonSource (r : JRec) (s : State) : State :=
  let l := ((tget s.colls r.coll).map Coll.codeBits).getD 64
  let es := entriesOf s r.coll r
  let media := mediaSram r.off
  let s := countLost es.length (loseSources r.coll (es.map Entry.slot) s)
  let s := recMod r.seq (fun q => { q with codeOnly := true, poisoned := true, bytes := recordSize (l / 8),
                                           entry := q.entry.map (fun e => { e with src := .lost }) }) s
  let vid := (r.entry.map (fun e => e.record.vid)).getD 0xFFFF_FFFF_FFFF
  deferAll (ownerOf s r.coll) [deferredOf r vid stMediaLost 1 media] s

/-- Any other poisoned record: a LOST PAD drains in its place, and a checkpoint is taken at once. -/
def poisonRecord (r : JRec) (headerOk : Bool) (s : State) : State :=
  let media := mediaSram r.off
  let es := if isSource r then entriesOf s r.coll r else []
  let s := countLost es.length (loseSources r.coll (es.map Entry.slot) s)
  let coll := if headerOk then r.coll else 0xFFFF
  let pad := fun (q : JRec) => { q with type := 0x7F, lost := true, poisoned := true, coll := coll, slot := none, oldSlot := none,
                                        entry := none, body := .pad, bytes := 64 }
  let vid := if headerOk then (r.entry.map (fun e => e.record.vid)).getD 0xFFFF_FFFF_FFFF else 0xFFFF_FFFF_FFFF
  let dom := if !headerOk then 0 else if (tget s.colls r.coll).isSome then ownerOf s r.coll else r.domain
  let s := deferAll dom [deferredOf { r with coll := coll } vid stMediaLost 2 media] (recMod r.seq pad s)
  takeCheckpoint (bagMod (fun b => { b with ckptDue := true }) s)

/-- JOURNAL_POISON (R511): the record of a number is found poisoned before its stripe is programmed. -/
def journalPoison (seq : Nat) (headerOk : Bool) (s : State) : State :=
  match s.bag.recs.find? (fun r => r.seq = seq) with
  | none => s
  | some r =>
    if r.stripe.isSome || r.poisoned || !bagWorks s then s
    else
      let s := blkFault bagPage 0 (BitVec.ofNat 64 (mediaSram r.off)) 0 s
      if isSource r && headerOk then poisonSource r s else poisonRecord r headerOk s

def execJournalPoison (seq : Nat) (headerOk : Bool) (s : State) : Host.Outcome State Fault Refusal :=
  .next (drainAll (journalPoison seq headerOk s))

/-! ## Log cleaning (R317) -/

/-- LOG_CLEANING: a stripe below the root's cut whose dead share has reached 75 %: its live sources are copied to a new
stripe, its dead ones dropped, and it is freed. -/
def logCleaning (n : Nat) (s : State) : State :=
  let s := countDead s
  match s.bag.stripes.find? (fun st => st.no = n) with
  | none => s
  | some st =>
    let rs := s.bag.recs.filter (fun r => r.stripe = some n)
    let live := rs.filter (fun r => isSource r && !r.dead && !r.lost)
    if st.lost || !droneWorks s || rs.any (fun r => r.seq > s.bag.root.ckptSeq) || 4 * sumBytes live > sumBytes rs then s
    else
      let s := bagMod (fun b => { b with stripes := b.stripes.filter (fun t => t.no ≠ n),
                                         recs := b.recs.filter (fun r => !(r.stripe = some n && r.dead)) }) s
      if live = [] then s else countWritten (sumBytes live) (putStripe (live.map JRec.seq) s)

def execLogCleaning (stripe : Nat) (s : State) : Host.Outcome State Fault Refusal := .next (drainAll (logCleaning stripe s))

/-! ## Failed members (R327, R332) -/

/-- Die of a member. -/
def memberDie (n m : Nat) : Nat := (Config.stripePlace n m).toNat / 2 ^ 32

/-- A stripe is rewritten into blocks of Bag's choice. -/
def rewriteStripe (n : Nat) (s : State) : State :=
  match s.bag.stripes.find? (fun st => st.no = n) with
  | none => s
  | some st =>
    if st.lost then s
    else
      countWritten stripeBytes (putStripe st.seqs (bagMod (fun b => { b with stripes := b.stripes.filter (fun t => t.no ≠ n) }) s))

/-- HOLD once a die's free spare blocks have fallen to 2 % of its blocks. -/
def spareCheck (ch die : Nat) (s : State) : State :=
  let k := ch * 32 + die
  if 50 * Config.spareBlocks k ((tget s.bag.pagesFailed k).getD 0) ≤ Config.dieBlocks then enterHold 3 0 s else s

/-- A page of a die could not be corrected: it is counted. -/
def pageFailed (ch die : Nat) (s : State) : State :=
  let k := ch * 32 + die
  spareCheck ch die (bagMod (fun b =>
    { b with pagesFailed := tset b.pagesFailed k ((tget b.pagesFailed k).getD 0 + 1),
             chUncorr := tset b.chUncorr ch (min 0xFFFF ((tget b.chUncorr ch).getD 0 + 1)) }) s)

/-- The stripe and member that lie at a media address. -/
def memberAt (s : State) (media : Nat) : Option Nat :=
  (s.bag.stripes.find? (fun st => (List.range 18).any (fun m => mediaFlash st.no m / 2 ^ 14 = media / 2 ^ 14))).map Stripe.no

/-- Members of stripes that lie on a die, or with `whole` on a channel, are lost until a rebuild. -/
def loseMembers (ch die : Nat) (whole : Bool) (s : State) : State :=
  bagMod (fun b => { b with stripes := b.stripes.map (fun st =>
    { st with lostMembers := (List.range 18).filter (fun m => m ∈ st.lostMembers ||
        (memberChannel st.no m = ch && (whole || memberDie st.no m = die))) }) }) s

/-- MEMBER_FAILED. -/
def raiseMember (ch die : Nat) (spare hold : Bool) (media : Nat) (s : State) : State :=
  raiseFault .bag bagPage 1 (mkEv 0x00C0 1 .bag 0 0xFFFF media (ch + die * 256 + b2n spare * 2 ^ 16 + b2n hold * 2 ^ 17) 0 0) s

/-- A die fails on a channel whose spare die is in use, or a whole channel fails: redundancy is lost and the module enters
HOLD. -/
def redundancyGone (ch die media : Nat) (s : State) : State :=
  enterHold 1 0 (raiseMember ch die false true media (bagMod (fun b => { b with redundancyLost := true }) s))

/-- A die fails: the spare die comes in and a rebuild begins; with the spare die in use, or failed itself, redundancy is lost. A
spare die that fails unused is recorded. -/
def dieFailed (ch die media : Nat) (s : State) : State :=
  let failed := (tget s.bag.diesFailed ch).getD []
  if die ∈ failed || ch ∈ s.bag.wholeChannels then s
  else
    let s := loseMembers ch die false (bagMod (fun b => { b with diesFailed := tset b.diesFailed ch (insertNat die failed) }) s)
    if ch ∈ s.bag.spareUsed || 16 ∈ failed then redundancyGone ch die media s
    else if die = 16 then raiseMember ch die false false media s
    else
      let s := bagMod (fun b => { b with spareUsed := insertNat ch b.spareUsed, rebuilding := b.rebuilding ++ [(ch, die)] }) s
      raiseMember ch die true false media (bagRing ch s)

/-- MEMBER_FAILED (R327): 0 a page, 1 a die, 2 a whole channel. -/
def memberFailed (whole ch die media : Nat) (s : State) : State :=
  if ch ≥ 18 ∨ die > 16 then s
  else
    match whole with
    | 0 =>
      let s := pageFailed ch die s
      match memberAt s media with
      | some n => if bagWorks s then rewriteStripe n s else s
      | none => s
    | 1 => dieFailed ch die media s
    | _ =>
      if ch ∈ s.bag.wholeChannels then s
      else redundancyGone ch die media (loseMembers ch die true (bagMod (fun b => { b with wholeChannels := insertNat ch b.wholeChannels }) s))

def execMemberFailed (whole channel die media : Nat) (s : State) : Host.Outcome State Fault Refusal :=
  .next (drainAll (memberFailed whole channel die media s))

/-- REBUILD_DONE (R327). -/
def rebuildDone (ch stripes : Nat) (s : State) : State :=
  match s.bag.rebuilding.find? (fun p => p.1 = ch) with
  | none => s
  | some (_, die) =>
    let s := bagMod (fun b => { b with rebuilding := b.rebuilding.filter (fun p => p.1 ≠ ch),
                                       stripes := b.stripes.map (fun st =>
                                         { st with lostMembers := st.lostMembers.filter (fun m => memberChannel st.no m ≠ ch) }) }) s
    raise .bag (mkEv 0x00C1 0 .bag 0 0xFFFF 0 (ch + die * 256) stripes 0) (countWritten (stripes * 16384) (freeBagRing ch s))

def execRebuildDone (channel stripes : Nat) (s : State) : Host.Outcome State Fault Refusal :=
  .next (drainAll (rebuildDone channel stripes s))

/-- FLASH_SCRUB (R318): a page read correctably above the refresh level has its stripe rewritten; one that cannot be corrected
is a failed page. -/
def flashScrub (n unit : Nat) (refresh unreadable : Bool) (s : State) : State :=
  if !bagWorks s || !(s.bag.stripes.any (fun st => st.no = n && !st.lost)) || unit ≥ 18 then s
  else if unreadable then rewriteStripe n (pageFailed (memberChannel n unit) (memberDie n unit) s)
  else if refresh then rewriteStripe n s
  else s

def execFlashScrub (stripe unit : Nat) (refresh unreadable : Bool) (s : State) : Host.Outcome State Fault Refusal :=
  .next (drainAll (flashScrub stripe unit refresh unreadable s))

/-! ## Lost stripes (R328, R329, Table 12.10) -/

/-- The source losses of a lost record while the module runs. -/
def loseRecord (media : Nat) (r : JRec) (s : State) : Nat × State :=
  let t := recMod r.seq (fun q => { q with lost := true }) s
  if !isSource r || r.codeOnly then (0, t)
  else
    let es := (entriesOf s r.coll r).filter (fun e => e.src ≠ .lost)
    let t := loseSources r.coll (es.map Entry.slot) t
    (es.length, deferAll (ownerOf t r.coll) (es.map (fun e => deferredOf r e.record.vid stMediaLost 1 media)) t)

/-- Ask the partner for records (R401). -/
def fetchRecords (rs : List JRec) (s : State) : State :=
  match rs.head?, rs.getLast? with
  | some a, some b =>
    if mirrorOn s && peerUp s (mirrorPeer s) then
      sendMsg (mirrorPeer s) 0x12 false (BitVec.ofNat 64 a.seq) (leBytes 8 b.seq)
        { s with cst := { s.cst with fetches := s.cst.fetches ++ [(mirrorPeer s, a.seq, b.seq)] } }
    else s
  | _, _ => s

/-- STRIPE_LOST as it is counted and raised. -/
def raiseStripe (n media entries refilled : Nat) (s : State) : State :=
  let s := countLost entries (bumpSat (reg .bag 0 0x150) 32 32 1 s)
  raiseFault .bag bagPage 2 (mkEv 0x00C2 2 .bag 0 0xFFFF media n entries refilled) s

/-- A lost stripe of the log: records that the partner returns are rewritten, the others are lost. -/
def logStripeLost (st : Stripe) (media : Nat) (refilled unread : List Nat) (s : State) : State :=
  let rs := s.bag.recs.filter (fun r => r.stripe = some st.no)
  let s := fetchRecords rs s
  let back := if mirrorOn s then (rs.filter (fun r => r.seq ∈ refilled)).map JRec.seq else []
  let gone := rs.filter (fun r => r.seq ∉ back)
  let s := gone.foldl (fun s r => if r.seq ∈ unread then recMod r.seq (fun q => { q with headerLost := true }) s else s) s
  let s := bagMod (fun b => { b with stripes := b.stripes.map (fun t => if t.no = st.no then { t with lost := true } else t) }) s
  let s := if back = [] then s else putStripe back s
  if bagWorks s then
    let lose := fun (a : Nat × State) (r : JRec) => let (k, t) := loseRecord media r a.2; (a.1 + k, t)
    let (entries, s) := gone.foldl lose (0, s)
    wakeFlush (raiseStripe st.no media entries back.length s)
  else
    raiseStripe st.no media 0 back.length (gone.foldl (fun s r => recMod r.seq (fun q => { q with lost := true }) s) s)

/-- A lost stripe of the image or dump area, rewritten by the next checkpoint; recovery before it misses what it held. -/
def areaStripeLost (n media : Nat) (g : Gone) (s : State) : State :=
  let add := fun (b : Bag) => { b with
    gone := { entries := b.gone.entries ++ g.entries, progs := b.gone.progs ++ g.progs, tables := b.gone.tables ++ g.tables,
              dump := b.gone.dump ++ g.dump },
    goneMedia := media }
  raiseStripe n media 0 0 (bagMod add s)

/-- STRIPE_LOST (R328): a third member of a stripe is lost; `member` is its first lost one. -/
def stripeLost (n member : Nat) (refilled unread : List Nat) (g : Gone) (s : State) : State :=
  let media := mediaFlash n (member % 18)
  match s.bag.stripes.find? (fun st => st.no = n) with
  | some st => if st.lost then s else logStripeLost st media refilled unread s
  | none => areaStripeLost n media g s

def execStripeLost (stripe member : Nat) (refilled unread : List Nat) (gone : Gone) (s : State) : Host.Outcome State Fault Refusal :=
  .next (drainAll (stripeLost stripe member refilled unread gone s))

/-! ## The hold-up bank (R319, R320) -/

/-- HOLDUP. -/
def raiseHoldup (sev full : Nat) (s : State) : State :=
  raiseFault .bag bagPage 3 (mkEv 0x00C3 sev .bag 0 0xFFFF 0 (full % 65536 + b2n (sev = 3) * 2 ^ 16) 0 0) s

/-- The bank has failed: it is recorded in the map as kind 14 (R440, log entry 59), and HOLD begins, in which the journal is
written through to flash. -/
def bankFails (s : State) : State :=
  if s.bag.bankFailed then s
  else
    let s := bagMod (fun b => { b with bankFailed := true }) s
    let e : MapEntry := { kind := 14, cause := 0, tower := 0xFF, physical := 0, replacement := 0xFFFF, logical := 0, timeS := s.now / 1000000000 }
    let s := { s with chn := { s.chn with map := (s.chn.map ++ [e]).take 1019, mapPending := true } }
    let s := enterHold 2 0 (raiseHoldup 3 s.bag.fullMj s)
    bagMod (fun b => { b with writeThrough := s.chn.mode = .hold }) s

/-- HOLDUP_MEASUREMENT (R320): a report at the fall below 4.0 J, failure below 2.0 J. -/
def holdupMeasurement (full now_ : Nat) (s : State) : State :=
  let before := s.bag.fullMj
  let s := bagMod (fun b => { b with fullMj := min full 65535, nowMj := min now_ 65535 }) s
  if full < 2000 then bankFails s
  else if full < 4000 ∧ before ≥ 4000 then raiseHoldup 1 full s
  else s

def execHoldupMeasurement (fullMj nowMj : Nat) (s : State) : Host.Outcome State Fault Refusal :=
  .next (drainAll (holdupMeasurement fullMj nowMj s))

/-- HOLDUP_CHARGE_TIMEOUT (R320). -/
def execHoldupChargeTimeout (s : State) : Host.Outcome State Fault Refusal :=
  .next (drainAll (if s.bag.nowMj < 2000 then bankFails s else s))

/-- HOLDUP_THRESHOLD_REACHED (R319): commands that write journal SRAM may start again. -/
def execHoldupThresholdReached (nowMj : Nat) (s : State) : Host.Outcome State Fault Refusal :=
  .next (if nowMj < 2000 then s else bagMod (fun b => { b with nowMj := min nowMj 65535 }) s)

/-! ## Power loss (R321, R459) -/

/-- The power-loss sequence begins: no commit, no completion or event record, no further journal record; the towers, stacks
and bulk DRAM go off. -/
def beginLoss (s : State) : State :=
  { s with chn := { s.chn with losing := true, sealed := false } }

/-- POWER_LOSS (R321). A start that has stopped with FAILED has nothing to dump. -/
def powerLoss (s : State) : State :=
  if s.chn.stage = 7 then { s with chn := { s.chn with stage := 0 } }
  else if s.chn.stage ≠ 6 || s.chn.losing || s.chn.sealed then s
  else beginLoss s

def execPowerLoss (s : State) : Host.Outcome State Fault Refusal := .next (powerLoss s)

/-- The hold-up bank bleeds below 20 V (R462), where none of its energy is usable (R461). -/
def bleedBank (s : State) : State := bagMod (fun b => { b with nowMj := 0 }) s

/-- DUMP_SEALED (R321): the undrained journal has been dumped and sealed, and the flash is switched off. A module that goes to
OFF stays powered while its input switch is closed, and the request that started OFF has ended. The bank bleeds at once (log
entry 112). -/
def dumpSealed (s : State) : State :=
  if !s.chn.losing then s
  else
    let s := bleedBank (bagMod (fun b => { b with dump := some (b.recs.filter (fun r => r.stripe.isNone)), dumpSeq := b.dumpSeq + 1 }) s)
    { s with chn := { s.chn with losing := false, sealed := true, stage := if s.chn.mode = .off ∧ s.pins.switchOn then s.chn.stage else 0 },
             sec := { s.sec with busy := s.sec.busy && s.pins.coldPending.isSome } }

def execDumpSealed (s : State) : Host.Outcome State Fault Refusal := .next (dumpSealed s)

/-- PWRFAIL_ASSERT (R460): the pin held low for 1 µs or more starts the sequence even with good input. -/
def pwrfailAssert (ns : Nat) (s : State) : State :=
  let s := { s with pins := { s.pins with pwrfail := true } }
  if ns ≥ 1000 then powerLoss s else s

def execPwrfailAssert (ns : Nat) (s : State) : Host.Outcome State Fault Refusal := .next (pwrfailAssert ns s)

end Sys2Proof.Machine
end

