-- ==== Sys2Proof/Machine/Tier.lean ====
section
/-! DEFINITION. Poisoned shared tables (R429 to R432), errors of the tiers and Windchest (R349 to R352, R426), and the repair of
collection data (R427, R428). -/

namespace Sys2Proof.Machine

/-! ## Memory-side adders (R345 to R348) -/

/-- An operation of a fast-tier pseudo-channel's adder (Table 13.3); an X128 region has a base code. -/
inductive AddOp where
  | addF32
  | addI64
  | addX128 (base : Nat)
deriving DecidableEq, Repr

/-- The IEEE 754 sum of ADD.F32. The sign and payload of a NaN result are open (log entry 15). -/
def addF32 (x y : BitVec 32) : BitVec 32 :=
  match flOf32 (add32 x y).val with
  | .nan => Config.nanPayload (x.zeroExtend 64) (y.zeroExtend 64) &&& 0x807F_FFFF#32 ||| nan32
  | _ => (add32 x y).val

/-- An X128 slot as it lies in memory (Table 13.4). -/
def x128Of (n : Nat) : X128 :=
  { nan := bit n 127, whNeg := bit n 126, whPos := bit n 125, wl := bit n 124, value := BitVec.ofNat 120 n }

def x128Word (a : X128) : Nat :=
  a.value.toNat + b2n a.wl * 2 ^ 124 + b2n a.whPos * 2 ^ 125 + b2n a.whNeg * 2 ^ 126 + b2n a.nan * 2 ^ 127

/-- The 64 bytes that an adder leaves at its target: slot by slot, the granule `old` with the addends of `new` (R345). An X128
region's addends are FP32 values (R346), one in the first four bytes of each slot (DEDUCED, log entry 15). -/
def addGranule (op : AddOp) (old new : List Byte) : List Byte :=
  match op with
  | .addF32 => (List.range 16).flatMap (fun i =>
      leBytes 4 (addF32 (BitVec.ofNat 32 (fld old (4 * i) 4)) (BitVec.ofNat 32 (fld new (4 * i) 4))).toNat)
  | .addI64 => (List.range 8).flatMap (fun i => leBytes 8 (fld old (8 * i) 8 + fld new (8 * i) 8))
  | .addX128 base => (List.range 4).flatMap (fun i =>
      leBytes 16 (x128Word (x128Add base (x128Of (fld old (16 * i) 16)) (flOf32 (BitVec.ofNat 32 (fld new (16 * i) 4))))))

/-- Adder operations on one granule, whole and in their order of arrival; none stands for poison, which stays (R348). -/
def addersRun (old : Option (List Byte)) (ops : List (AddOp × Option (List Byte))) : Option (List Byte) :=
  ops.foldl (fun g o => g.bind (fun a => o.2.map (addGranule o.1 a))) old

/-! ## Poisoned shared tables -/

/-- Windchest byte address in the form of R182: tower, bank and byte of the cluster's bank. -/
def bankAddr (cluster byte : Nat) : Nat := cluster / 8 * 2 ^ 30 + cluster % 8 * 2 ^ 26 + byte % 2 ^ 26

/-- The stage that a command is in reads the table's slice on a cluster: a step of an encode, the seeding of a walk, or the centroid
probe of a NEAREST search, on its home cluster (R129, R141). -/
def readsSlice (s : State) (t cluster : Nat) (x : Cmd) : Bool :=
  let probes := (cOp x = 0x30 || cOp x = 0x33) && cf x 62 1 = 2 && serve s x.home = cluster
  x.phase = .executing &&
    ((encsOf x).any (fun e => match e.steps with
      | i :: _ => ((stepTables e.img i).map Prod.fst).contains t && (encClusters s e).contains cluster
      | [] => false)
    || (match x.work, viewOf s x with
      | .search sr, _ =>
        (sr.walk.any (fun w => w.seeding && !w.ended && w.lead = cluster / 8) && sr.coll.entryTbl = t)
          || (probes && sr.enc ≠ [] && sr.coll.centroid = t)
      | .none, some c => probes && c.centroid = t
      | _, _ => false))

/-- A command whose result depends on the poisoned word fails, unless it has written a journal record, and BORE_POISON follows
its record (R211, R429, R430). -/
def failTable (t cluster addr : Nat) (x : Cmd) (s : State) : State :=
  if x.jseq ≠ 0 then cmdMod x.id (fun y => { y with tableWait := true }) s
  else
    let i0 := 1 + t * 256
    let f : CmdFault := { page := blkPage .bore cluster, bit := 1, addr := BitVec.ofNat 64 addr, info := BitVec.ofNat 64 i0 }
    let ev := { mkEv 0x0081 2 .bore cluster (domOf s x) addr i0 (x.queue + cTag x * 65536) 0 with
                queue := x.queue, tag := cTag x, coll := if namesColl x then cColl x else 0xFFFF }
    cmdMod x.id (fun y => { y with after := y.after ++ [ev] }) (failCmd x.id stTablePoison (some f) s)

/-- TABLE_PAUSED (R429): the version is paused, its readers fail, and the event goes once to every domain that uses it. -/
def tablePaused (t cluster byte : Nat) (s : State) : State :=
  let cluster := cluster % 32
  match tget s.tables t with
  | none => s
  | some b =>
    if b.current.isNone then s
    else
      let addr := bankAddr cluster byte
      let readers := s.cmds.filter (readsSlice s t cluster)
      let n := (readers.filter (fun x => x.jseq = 0)).length
      let s := readers.foldl (fun s x => failTable t cluster addr x s) s
      let s := blkFault (blkPage .bore cluster) 1 (BitVec.ofNat 64 addr) (BitVec.ofNat 64 (1 + t * 256)) s
      if b.paused then { s with tables := tmod s.tables t (fun b => { b with failed := b.failed + n }) }
      else
        let s := { s with tables := tmod s.tables t (fun b => { b with paused := true, failed := n, cluster := cluster }) }
        raiseTable .chn (fun d => mkEv 0x0112 2 .chn 0 d addr t b.gen n) t s

def execTablePaused (t cluster bankByte : Nat) (s : State) : Host.Outcome State Fault Refusal :=
  .next (drainAll (tablePaused t cluster bankByte s))

/-- TABLE_RESUMED (R429, R432): the slice is in place again; when no copy is readable the version stays paused and its data is
lost at media address `unreadable`. -/
def tableResumed (t : Nat) (fromBag : Bool) (unreadable : Option Nat) (s : State) : State :=
  match tget s.tables t with
  | none => s
  | some b =>
    if !b.paused || b.lost.isSome then s
    else
      match unreadable with
      | some a => { s with tables := tmod s.tables t (fun b => { b with lost := some a }) }
      | none =>
        let s := { s with tables := tmod s.tables t (fun b => { b with paused := false, failed := 0 }) }
        raiseTable .chn (fun d => mkEv 0x0113 0 .chn 0 d 0 (t + b2n fromBag * 2 ^ 16) b.gen b.failed) t (advanceEpoch s)

def execTableResumed (t : Nat) (fromBag : Bool) (unreadable : Option Nat) (s : State) : Host.Outcome State Fault Refusal :=
  .next (drainAll (tableResumed t fromBag unreadable s))

/-! ## Uncorrectable reads (R349, R426) -/

/-- The controller's page of a tier: FTC, BKC, or WCH of a tower. -/
def tierBlk (tier : Nat) : Blk := match tier with | 0 => .ftc | 1 => .bkc | _ => .wch
def tierUnits (tier : Nat) : Nat := match tier with | 0 => 12 | 1 => 64 | _ => 4

/-- Offset of a controller's ECC register. -/
def eccOff (tier : Nat) : Nat := if tier ≤ 1 then 0x120 else 0x108

def wordOf (n : Nat) : DataWord :=
  match n with | 0 => .code | 1 => .record | 2 => .tomb | 3 => .seq | _ => .tombLog

/-- The node word at a byte of a stack, when a collection's graph area holds a node there (R143). -/
def nodeWordAt (s : State) (stack addr : Nat) : Option Poison :=
  s.colls.findSome? (fun p =>
    let o := addr - Config.graphBase p.1 stack
    let n := o / nodeStride p.2 * 12 + stack
    if Config.graphBase p.1 stack ≤ addr && (tget p.2.arr.nodes n).isSome then
      some { coll := p.1, slot := n, word := nodeField p.2 (o % nodeStride p.2), node := true, bulk := false, chan := stack, addr := addr }
    else none)

/-- The word of a collection at a tier address, when a collection has put one there. -/
def collWord (s : State) (tier chan addr : Nat) : Option Poison :=
  match (if tier = 0 then nodeWordAt s chan addr else none) with
  | some p => some p
  | none =>
    let w := Config.wordAt tier chan addr
    if (tget s.colls w.1).any (fun c => (tget c.entries w.2.1).isSome) then
      some { coll := w.1, slot := w.2.1, word := wordOf w.2.2, node := false, bulk := tier = 1, chan := chan, addr := addr }
    else none

/-- Rows left for repair (FTC_REPAIR). -/
def rowsLeft (s : State) (tier chan : Nat) : Nat := bits (regGet s (reg (tierBlk tier) chan 0x128)).toNat 31 16

/-- A row is marked for repair; with no repair left the module enters HOLD (Table 17.6). -/
def markRow (tier chan addr : Nat) (s : State) : State :=
  let row := (tier, chan, Config.rowStart tier addr)
  if tier > 1 ∨ row ∈ s.rowsMarked then s
  else
    let s := { s with rowsMarked := s.rowsMarked ++ [row] }
    if rowsLeft s tier chan = 0 then enterHold 0 11 (blkFault (blkPage (tierBlk tier) chan) 1 (BitVec.ofNat 64 addr) 0 s) else s

/-- What a Windchest word that reads with poison is part of (Table 13.6): a list or spill buffer that the command's result
depends on, or a tile buffer. -/
def chestPoison (x : Cmd) (tower addr : Nat) (s : State) : State :=
  let a := tower * 2 ^ 30 + addr % 2 ^ 30
  let mib := addr % 2 ^ 26 / 2 ^ 20
  if mib = 40 then bellPoison x a s
  else if (isSearch x || cOp x = 0x34) && mib ≥ 49 then cmdMod x.id (fun y => { y with vpoison := some (a, decide (mib < 53)) }) s
  else s

/-- A command that read the word: LOOKUP, EXPORT and RERANK fail at once; a search meets the word in its own rows. -/
def readerFails (x : Cmd) (tier chan addr : Nat) (p : Option Poison) (s : State) : State :=
  if x.phase ≠ .executing then s
  else if tier > 1 then chestPoison x chan addr s
  else
    match p with
    | some p => if cOp x = 0x34 then rerankPoison x (serve s x.home) p s else if cOp x ∈ [0x24, 0x53] then failPoison x p s else s
    | none => s

/-- TIER_UE (R349): the read is counted and latched, the event raised, the row marked; the data stays poisoned. -/
def tierUe (tier chan addr : Nat) (byScrub : Bool) (c : Option Nat) (s : State) : State :=
  if tier > 2 ∨ chan ≥ tierUnits tier then s
  else
    let b := tierBlk tier
    let p := if tier ≤ 1 then collWord s tier chan addr else none
    let a := if tier ≤ 1 then addr % 2 ^ 38 else chan * 2 ^ 30 + addr % 2 ^ 30
    let info := tier + chan * 256 + ((p.map Poison.coll).getD 0xFFF) * 65536
    let s := bumpSat (reg b chan (eccOff tier)) 0 32 1 s
    let s := blkFault (blkPage b chan) 0 (BitVec.ofNat 64 a) (BitVec.ofNat 64 info) s
    let s := raise b (mkEv 0x00D0 2 b chan 0xFFFF a info (b2n byScrub) 0) s
    let s := match p with
      | some p => if p ∈ s.poison then s else { s with poison := s.poison ++ [p] }
      | none => s
    let s := markRow tier chan addr s
    match c.bind (cmdGet s) with
    | some x => readerFails x tier chan addr p s
    | none => s

def execTierUe (tier chan addr : Nat) (byScrub : Bool) (c : Option Nat) (s : State) : Host.Outcome State Fault Refusal :=
  .next (drainAll (tierUe tier chan addr byScrub c s))

/-! ## Scrub and row repair (R351, R352) -/

/-- Corrected reads of a row are counted within 24 h; the fourth marks it. -/
def noteRow (tier chan addr n : Nat) (s : State) : State :=
  let k := (tier * 256 + chan) * 2 ^ 40 + Config.rowStart tier addr
  let ts := ((tget s.rowCorrected k).getD []).filter (fun t => s.now < t + dayNs) ++ List.replicate n s.now
  let s := { s with rowCorrected := tset s.rowCorrected k ts }
  if ts.length ≥ 4 then markRow tier chan addr s else s

/-- TIER_SCRUB (R351): corrected granules are written back and counted; a row is marked when its reads ask for it. -/
def tierScrub (tier chan row corrected pct : Nat) (uncorrectable : Bool) (s : State) : State :=
  if tier > 2 ∨ chan ≥ tierUnits tier then s
  else
    let s := bumpSat (reg (tierBlk tier) chan (eccOff tier)) 32 32 corrected s
    if tier > 1 then (List.range (min corrected 16)).foldl (fun s _ => (noteCorrected (3 * 2 ^ 24 + chan * 8 + row % 8) s).2) s
    else
      let s := regField (reg (tierBlk tier) chan 0x130) 15 8 (min pct 100) s
      let s := if corrected = 0 then s else noteRow tier chan row (min corrected 4) s
      if uncorrectable then markRow tier chan row s else s

def execTierScrub (tier chan row corrected pct : Nat) (uncorrectable : Bool) (s : State) : Host.Outcome State Fault Refusal :=
  .next (drainAll (tierScrub tier chan row corrected pct uncorrectable s))

/-- ROW_REPAIRED (R352): a marked row has been repaired; its data is as before. -/
def rowRepaired (tier chan addr : Nat) (s : State) : State :=
  let row := (tier, chan, addr)
  let left := rowsLeft s tier chan
  if row ∉ s.rowsMarked ∨ left = 0 then s
  else
    let b := tierBlk tier
    let s := { s with rowsMarked := s.rowsMarked.filter (· ≠ row),
                      rowCorrected := tdel s.rowCorrected ((tier * 256 + chan) * 2 ^ 40 + addr) }
    let s := bumpSat (reg b chan 0x128) 0 16 1 (regField (reg b chan 0x128) 31 16 (left - 1) s)
    raise b (mkEv 0x00D1 0 b chan 0xFFFF (addr % 2 ^ 38) (tier + chan * 256) (left - 1) 0) s

def execRowRepaired (tier chan addr : Nat) (s : State) : Host.Outcome State Fault Refusal :=
  .next (drainAll (rowRepaired tier chan addr s))

/-! ## Repair of collection data (R427, R428) -/

/-- Row of Table 17.2, from 1. -/
def repairRow : DataWord → Nat
  | .code => 1 | .record => 2 | .tomb => 3 | .seq => 4 | .tombLog => 5 | .links | .sketch => 6

/-- The slots of a lost tombstone word are counted as tombstoned for every search, and the collection is INCOMPLETE. -/
def loseTombs (h slot : Nat) (s : State) : State :=
  collMod h (fun c =>
    let mine := (c.entries.map Prod.fst).filter (fun n => n / 64 = slot / 64 && (tget c.tombs n).isNone)
    { c with incomplete := true, tombs := mine.foldl (fun t n => tset t n 0) c.tombs }) s

/-- Live entries of the side block that holds a slot. -/
def sideBlock (c : Coll) (slot : Nat) : List Nat :=
  match (List.range c.arr.side.length).find? (fun i => c.arr.side[i]? = some slot) with
  | some i => ((c.arr.side.drop (i / 64 * 64)).take 64).filter (fun n => (tget c.tombs n).isNone)
  | none => []

/-- What is lost when no copy of a word is readable. -/
def loseWord (p : Poison) (media : Nat) (c : Coll) (s : State) : State :=
  match p.word with
  | .code | .record => loseEntry p.coll p.slot media s
  | .tomb | .tombLog => loseTombs p.coll p.slot s
  | .seq => (sideBlock c p.slot).foldl (fun s n => loseEntry p.coll n media s) s
  | .links | .sketch => s

/-- DATA_REPAIRED. -/
def raiseRepaired (p : Poison) (lost : Bool) (s : State) : State :=
  raise .chn { mkEv 0x0114 (if lost then 2 else 0) .chn 0 (ownerOf s p.coll) (p.addr % 2 ^ 38) (p.coll + repairRow p.word * 65536)
    p.slot (b2n lost) with coll := p.coll } s

/-- A word is rewritten whole and reads clean. -/
def clearPoison (p : Poison) (s : State) : State := { s with poison := s.poison.filter (· ≠ p) }

/-- A node that no extent gives back is linked again, at a view-epoch commit of its own; while an operation runs on its
collection it waits. -/
def relinkNode (p : Poison) (s : State) : State :=
  match tget s.colls p.coll with
  | none => s
  | some c =>
    if !mayRun s c then s
    else
      let t := runOp p.coll 8 c.posted (some p.slot) none none s
      if (tget t.colls p.coll).any (fun k => k.viewEpoch ≠ c.viewEpoch) then raiseRepaired p false (clearPoison p t) else t

/-- DATA_REPAIRED (R427): a poisoned word is rebuilt from a copy, or what it held is lost. An entry that is lost keeps its
poisoned word, which searches below its DELETE may still read (R428). -/
def dataRepaired (h slot : Nat) (w : DataWord) (addr media : Nat) (copyOk : Bool) (s : State) : State :=
  match s.poison.find? (fun p => p.coll = h ∧ p.slot = slot ∧ p.word = w ∧ p.addr = addr), tget s.colls h with
  | some p, some c =>
    if !bagWorks s || !ownFits s 4096 then s
    else if copyOk then raiseRepaired p false (clearPoison p s)
    else
      match w with
      | .links | .sketch => relinkNode p s
      | .code | .record => if (tget c.tombs slot).isSome then s else raiseRepaired p true (loseWord p media c s)
      | .seq => raiseRepaired p true (clearPoison p (loseWord p media c s))
      | _ => raiseRepaired p false (clearPoison p (loseWord p media c s))
  | _, _ => s

def execDataRepaired (h slot : Nat) (w : DataWord) (tierAddr media : Nat) (copyOk : Bool) (s : State) :
    Host.Outcome State Fault Refusal := .next (drainAll (dataRepaired h slot w tierAddr media copyOk s))

end Sys2Proof.Machine
end

