-- ==== Sys2Proof/Machine/Colls.lean ====
section
/-! DEFINITION. The commands that make, describe, change and drop collections (R31 to R35, R62, R294, R343), CONSOLIDATE (R297),
REENCODE (R298), EXPORT (R330), and NOP. -/

namespace Sys2Proof.Machine

/-- The page that reads a host buffer for a command. -/
def inputPage (x : Cmd) : Nat := sldPage x.home

/-- A command row whose command has done nothing yet: its work, or its failure. -/
def freshRow (c op : Nat) (ok : Cmd → Bool) (f : Cmd → State → Res State) (s : State) : State :=
  match running s c op with
  | some x => if x.work = .none && ok x then settle c (f x s) else s
  | none => s

/-- The same, with the collection that the command names. -/
def collRow (c op : Nat) (ok : Cmd → Bool) (f : Cmd → Coll → State → Res State) (s : State) : State :=
  freshRow c op ok (fun x s => match tget s.colls (cColl x) with
    | some k => f x k s
    | none => .wait s) s

def always (_ : Cmd) : Bool := true

/-- The command's op, body byte 16. -/
def opIs (n : Nat) (x : Cmd) : Bool := cf x 16 1 = n

/-- NOP. -/
def execNop (c : Nat) (s : State) : Host.Outcome State Fault Refusal :=
  .next (freshRow c 0x01 always (fun x s => done x.id id s) s)

/-! ## The descriptor (Table 2.3) -/

/-- A centroid table must hold codes of the collection's length. -/
def centroidOk (s : State) (h l : Nat) : Bool := (tableNow s h).any (fun d => d.kind = 2 && d.cols = l)

/-- A program version is loaded and suits a collection (R235). -/
def progSuits (s : State) (v l dim fmt : Nat) : Bool :=
  (tget s.progs v).any (fun p => progBits p.image = l && progDim p.image = dim && progFormat p.image = fmt)

/-- The first field of a descriptor that breaks its rule; the fields that the module returns are ignored (R35, R235). -/
def badDesc (s : State) (d : List Byte) : Option Nat :=
  let l := fld d 2 2
  let kind := fld d 8 1
  let g := fld d 10 1
  firstBad
    [ (l % 64 ≠ 0 || l < 64 || l > 4096, 2), (fld d 4 2 < 1 || fld d 4 2 > 4096, 4), (fld d 6 1 > 4, 6), (fld d 7 1 > 2, 7),
      (kind > 2 || (kind ≠ 0 && fld d 7 1 = 1), 8), (fld d 9 1 > 2, 9),
      (kind ≠ 0 && g ≠ 0 && (g % 8 ≠ 0 || g < 16 || g > 64), 10), (fld d 11 1 ≠ 0, 11),
      (!progSuits s (fld d 12 2) l (fld d 4 2) (fld d 6 1), 12),
      (if fld d 9 1 = 1 then !centroidOk s (fld d 60 4) l else fld d 60 4 ≠ 0, 60),
      ((firstNonzero d 64 127).isSome, (firstNonzero d 64 127).getD 64) ]

/-- A field that names an object of a domain other than the command's and D0 (R234; log entry 66). -/
def foreignDesc (s : State) (dom : Nat) (d : List Byte) : Option Nat :=
  let other := fun (n : Option Nat) => n.any (fun k => k ≠ 0 && k ≠ dom)
  firstBad [ (other ((tget s.progs (fld d 12 2)).map Prog.domain), 12),
             (fld d 9 1 = 1 && other ((tget s.tables (fld d 60 4)).map Tbl.domain), 60) ]

def arrEmpty : Arr := { epoch := 1, parts := [], nodes := [], entrySet := [], side := [], tombLog := [] }

/-- Thresholds of new collections (DRN_DEFAULTS). -/
def drnDefault (s : State) (hi lo : Nat) : Nat := bits (regGet s (reg .drn 0 0x108)).toNat hi lo

/-- The collection that a descriptor describes, at its creation; `tbl` is the handle of its entry set. -/
def collOf (s : State) (d : List Byte) (owner tbl : Nat) : Coll :=
  let kind := fld d 8 1
  let c : Coll :=
    { codeBits := fld d 2 2, srcDim := fld d 4 2, srcFormat := fld d 6 1, placement := fld d 7 1, indexKind := kind,
      partMode := fld d 9 1, degree := if kind = 0 || fld d 10 1 = 0 then 32 else fld d 10 1, encVersion := fld d 12 2,
      encNext := 0xFFFF, epochBase := fld d 16 8, centroid := fld d 60 4, entryTbl := tbl, centroidGen := 0,
      centroids := [], owner := owner, incomplete := false, migrating := false, building := false, buildGraph := false,
      viewEpoch := 1, lastCut := 0, sideHw := drnDefault s 63 32, ageMs := drnDefault s 15 0, tombPm := drnDefault s 31 16,
      grants := [], entries := [], tombs := [], arr := arrEmpty, releases := [], run := none, moves := [], patches := [],
      posted := 0, journaled := 0, recoded := 0, recodeLost := 0, sideHigh := false, dropping := false }
  if c.partMode = 1 then
    let k := currentCentroids s c
    { c with centroids := k.1, centroidGen := k.2 }
  else c

/-- An entry-set table without a version: the graph has no node yet (R156). -/
def entryTable (owner : Nat) : Tbl :=
  { domain := owner, current := none, pending := none, earlier := [], gen := 0, paused := false, failed := 0, cluster := 0, lost := none }

/-- The lowest handle that holds no shared table. -/
def freeTable (s : State) : Option Nat :=
  let n := leastFree (s.tables.map Prod.fst) 4097 0
  if n < 4096 then some n else none

/-- COLL_CREATE: the checks of its descriptor, the lowest free handle, the COLL record; the handle goes into the descriptor
and into result_count. DESIGN CHOICE (log entry 97): VERSION_LIMIT when no shared-table handle is free for the entry set. -/
def collCreate (x : Cmd) (s : State) : Res State :=
  let va := cf x 16 8
  let w := whoOf s x
  let at_ := fun (st o : Nat) (s : State) => (.fail st (some (devFault (inputPage x) 1 (va + o) 0)) s : Res State)
  andThen (readClean w (inputPage x) 2 va 128 s) (fun d s =>
    match badDesc s d, foreignDesc s w.dom d with
    | some o, _ => at_ stBadField o s
    | none, some o => at_ stDomain o s
    | none, none =>
      let h := leastFree (s.colls.map Prod.fst) 4097 0
      if h ≥ 4096 then failPlain stCollLimit s
      else
        match (if fld d 8 1 = 0 then some 0xFFFF else freeTable s) with
        | none => failPlain stVersionLimit s
        | some t =>
          let k := collOf s d w.dom t
          andThen (writeDev w va (leBytes 2 h) s) (fun _ s =>
            andThen (journalCmd x 0x10 h (.collNew k) 128 s) (fun n s =>
              let s := { s with colls := tset s.colls h { k with journaled := n } }
              let s := if t = 0xFFFF then s else { s with tables := tset s.tables t (entryTable w.dom) }
              .ok (finishJournaled x.id n false (fun y => { y with result := h }) s) s)))

/-- COLL_CREATE (R35). -/
def execCollCreate (c : Nat) (s : State) : Host.Outcome State Fault Refusal := .next (drainAll (freshRow c 0x10 always collCreate s))

/-! ## COLL_DROP (R62) -/

/-- Another command of the collection is in execution. -/
def collInUse (s : State) (x : Cmd) : Bool :=
  s.cmds.any (fun y => y.id ≠ x.id && y.slot && namesColl y && cColl y = cColl x)

/-- COLL_DROP: refused while another command of the collection is in execution; Drone's operation is abandoned (R285). The
collection goes at the drop's completion. -/
def collDrop (x : Cmd) (_ : Coll) (s : State) : Res State :=
  if collInUse s x then failAt x stBadField 6 s
  else
    andThen (journalCmd x 0x10 (cColl x) .collDrop 64 s) (fun n s =>
      .ok (finishJournaled x.id n false id (freeStep (cColl x) (collMod (cColl x) (fun k => { k with dropping := true, run := none, moves := [] }) s))) s)

def execCollDrop (c : Nat) (s : State) : Host.Outcome State Fault Refusal := .next (drainAll (collRow c 0x11 always collDrop s))

/-! ## COLL_QUERY -/

/-- A shared table of the collection is being reloaded after poison. -/
def tablePausedFor (s : State) (c : Coll) : Bool := s.tables.any (fun t => t.2.paused && collUses s t.1 c)

/-- coll_state of Table 2.3. -/
def collState (s : State) (c : Coll) : Nat :=
  b2n c.incomplete + 2 * b2n c.migrating + 4 * b2n (tablePausedFor s c) + 8 * b2n c.building

/-- The descriptor as COLL_QUERY writes it. -/
def descBytes (s : State) (h : Nat) (c : Coll) : List Byte :=
  leBytes 2 h ++ leBytes 2 c.codeBits ++ leBytes 2 c.srcDim ++ leBytes 1 c.srcFormat ++ leBytes 1 c.placement
    ++ leBytes 1 c.indexKind ++ leBytes 1 c.partMode ++ leBytes 1 c.degree ++ leBytes 1 0 ++ leBytes 2 c.encVersion
    ++ leBytes 2 c.encNext ++ leBytes 8 c.epochBase ++ leBytes 8 c.viewEpoch
    ++ leBytes 8 (c.entries.filter (liveAt c c.posted)).length ++ leBytes 4 c.arr.side.length ++ leBytes 4 c.arr.parts.length
    ++ leBytes 8 c.posted ++ leBytes 2 c.owner ++ leBytes 2 (collState s c) ++ leBytes 4 c.centroid ++ leBytes 64 0

def collQuery (x : Cmd) (k : Coll) (s : State) : Res State :=
  andThen (writeDev (whoOf s x) (cf x 16 8) (descBytes s (cColl x) k) s) (fun _ s => done x.id id s)

/-- COLL_QUERY (R31). -/
def execCollQuery (c : Nat) (s : State) : Host.Outcome State Fault Refusal := .next (drainAll (collRow c 0x12 always collQuery s))

/-! ## COLL_CONFIG (Table 4.6) -/

/-- The properties that result are journaled and take effect with the record. -/
def configure (x : Cmd) (k : Coll) (s : State) : Res State :=
  andThen (journalCmd x 0x10 (cColl x) (.collSet k) 64 s) (fun n s =>
    .ok (finishJournaled x.id n false id (collMod (cColl x) (fun now => { k with journaled := now.journaled }) s)) s)

/-- Op 0 changes the placement policy (R32, R343). -/
def configPlacement (x : Cmd) (k : Coll) (s : State) : Res State :=
  let v := cf x 17 1
  if v = 1 ∧ k.indexKind ≠ 0 then failAt x stBadField 17 s else configure x { k with placement := v } s

/-- COLL_CONFIG op 0 (R343). -/
def execCollConfigPlacement (c : Nat) (s : State) : Host.Outcome State Fault Refusal :=
  .next (drainAll (collRow c 0x13 (opIs 0) configPlacement s))

/-- Op 1 changes the index kind to BOTH and sets BUILDING; a collection that was FLAT gets an entry set (R294). DESIGN CHOICE:
VERSION_LIMIT when no shared-table handle is free for it (log entry 97), and COLLECTION_LIMIT when the build would open more
than 65,536 partitions (log entry 96). -/
def configKind (x : Cmd) (k : Coll) (s : State) : Res State :=
  if k.indexKind = 2 ∨ (k.indexKind = 0 ∧ k.placement = 1) then failAt x stBadField 17 s
  else if k.indexKind = 0 ∧ k.entries.any (fun p => p.1 ≥ 0xFFFF_FFFF) then failPlain stCollLimit s
  else if k.indexKind = 1 ∧ k.partMode = 0 ∧ (tagsOpen { k with building := true, buildGraph := false }).length > 65536 then
    failPlain stCollLimit s
  else
    match (if k.indexKind = 0 then freeTable s else some k.entryTbl) with
    | none => failPlain stVersionLimit s
    | some t =>
      let flat := k.indexKind = 0
      andThen (configure x { k with indexKind := 2, building := true, buildGraph := flat, entryTbl := t } s) (fun u s =>
        .ok (if flat then { u with tables := tset u.tables t (entryTable k.owner) } else u) s)

/-- COLL_CONFIG op 1 (R294). -/
def execCollConfigIndexKind (c : Nat) (s : State) : Host.Outcome State Fault Refusal :=
  .next (drainAll (collRow c 0x13 (opIs 1) configKind s))

/-- Put the rights of a domain; a domain without rights is not listed. -/
def withRights (d r : Nat) (k : Coll) : Coll := { k with grants := if r = 0 then tdel k.grants d else tset k.grants d r }

/-- Ops 2 and 3: the domain must exist (log entry 67). -/
def configRights (x : Cmd) (f : Nat → Nat → Nat) (k : Coll) (s : State) : Res State :=
  let d := cf x 18 2
  if (tget s.domains d).isNone then failAt x stBadField 18 s
  else configure x (withRights d (f ((tget k.grants d).getD 0) (cf x 20 2 % 8)) k) s

/-- COLL_CONFIG op 2 (R34). -/
def execCollConfigGrant (c : Nat) (s : State) : Host.Outcome State Fault Refusal :=
  .next (drainAll (collRow c 0x13 (opIs 2) (fun x => configRights x (fun now r => now ||| r)) s))

/-- COLL_CONFIG op 3 (R34). -/
def execCollConfigRevoke (c : Nat) (s : State) : Host.Outcome State Fault Refusal :=
  .next (drainAll (collRow c 0x13 (opIs 3) (fun x => configRights x (fun now r => now &&& (7 - r))) s))

/-! ## CONSOLIDATE (R297) -/

/-- CONSOLIDATE op 0: it waits for Drone, which folds at once when it is free. -/
def consolidateFold (x : Cmd) (_ : Coll) (s : State) : Res State :=
  .ok (foldStart (cColl x) (setWork x.id (.wait 4 (cColl x)) s)) s

def execConsolidateFold (c : Nat) (s : State) : Host.Outcome State Fault Refusal :=
  .next (drainAll (collRow c 0x50 (opIs 0) consolidateFold s))

/-- CONSOLIDATE op 1 (R295). -/
def consolidateCompact (x : Cmd) (_ : Coll) (s : State) : Res State :=
  .ok (compactionTrigger (cColl x) 0 (setWork x.id (.wait 4 (cColl x)) s)) s

def execConsolidateCompact (c : Nat) (s : State) : Host.Outcome State Fault Refusal :=
  .next (drainAll (collRow c 0x50 (opIs 1) consolidateCompact s))

/-- CONSOLIDATE op 2: thresholds that are not zero are set. -/
def consolidateSet (x : Cmd) (k : Coll) (s : State) : Res State :=
  let pick := fun (v old : Nat) => if v = 0 then old else v
  configure x { k with sideHw := pick (cf x 20 4) k.sideHw, ageMs := pick (cf x 24 4) k.ageMs, tombPm := pick (cf x 28 2) k.tombPm } s

def execConsolidateSet (c : Nat) (s : State) : Host.Outcome State Fault Refusal :=
  .next (drainAll (collRow c 0x50 (opIs 2) consolidateSet s))

/-- Entries that a migration still has to re-encode: live ones of the earlier version. -/
def toRecode (c : Coll) : Nat :=
  if c.migrating then (c.entries.filter (fun p => !p.2.encNext && (tget c.tombs p.1).isNone)).length else 0

/-- The maintenance report (Table 11.6). -/
def reportBytes (c : Coll) : List Byte :=
  leBytes 8 c.viewEpoch ++ leBytes 8 c.lastCut ++ leBytes 4 (placesUsed c) ++ leBytes 4 c.sideHw ++ leBytes 2 c.tombPm
    ++ leBytes 2 c.entryTbl ++ leBytes 4 c.ageMs ++ leBytes 8 (toRecode c) ++ leBytes 8 c.recoded
    ++ leBytes 4 (ceilDiv (c.patches.length * nodeStride c) 1024) ++ leBytes 4 ((c.run.map (fun r => opCode r.op)).getD 0)
    ++ leBytes 8 0

def consolidateReport (x : Cmd) (k : Coll) (s : State) : Res State :=
  andThen (writeDev (whoOf s x) (cf x 32 8) (reportBytes k) s) (fun _ s => done x.id id s)

/-- CONSOLIDATE op 3 (R297). -/
def execConsolidateReport (c : Nat) (s : State) : Host.Outcome State Fault Refusal :=
  .next (drainAll (collRow c 0x50 (opIs 3) consolidateReport s))

/-! ## REENCODE (R298) -/

def reencode (x : Cmd) (k : Coll) (s : State) : Res State :=
  let v := cf x 16 2
  if k.migrating || !progSuits s v k.codeBits k.srcDim k.srcFormat then failAt x stBadField 16 s
  else if (tget s.progs v).any (fun p => p.domain ≠ 0 && p.domain ≠ k.owner) then failAt x stDomain 16 s
  else
    andThen (journalCmd x 0x11 (cColl x) (.reencode v false) 64 s) (fun n s =>
      .ok (finishJournaled x.id n false id
        (collMod (cColl x) (fun k => { k with encNext := v, migrating := true, recoded := 0, recodeLost := 0 }) s)) s)

def execReencode (c : Nat) (s : State) : Host.Outcome State Fault Refusal := .next (drainAll (collRow c 0x51 always reencode s))

/-! ## EXPORT (R330) -/

/-- A source is written when the command asks for it and no loss has taken it. -/
def exportSource (s : State) (h slot : Nat) (e : Entry) : Src :=
  (((tget s.colls h).bind (fun k => tget k.entries slot)).map Entry.src).getD e.src

/-- Pad with zero to a multiple of 64 bytes. -/
def pad64 (bs : List Byte) : List Byte := bs ++ List.replicate ((64 - bs.length % 64) % 64) 0

/-- An entry of an EXPORT stream (Table 12.12). -/
def exportEntry (s : State) (h parts : Nat) (c : Coll) (p : Nat × Entry) : List Byte :=
  let src := exportSource s h p.1 p.2
  let gone : Bool := match src with
    | .held _ => false
    | .lost => true
  recBytes p.2.record (p.1 ∈ c.arr.side) p.2.encNext ++ leBytes 1 (b2n gone) ++ List.replicate 31 0
    ++ (if bit parts 0 then pad64 (leBytes (c.codeBits / 8) p.2.code) else [])
    ++ (if bit parts 1 then (match src with
        | .held bs => pad64 bs
        | .lost => pad64 (List.replicate (srcLen c) 0)) else [])

/-- The header of an EXPORT stream (Table 12.12). -/
def exportHeader (h horizon parts count next : Nat) (c : Coll) : List Byte :=
  leBytes 2 1 ++ leBytes 2 c.codeBits ++ leBytes 2 c.srcDim ++ leBytes 1 c.srcFormat ++ leBytes 1 parts ++ leBytes 4 count
    ++ leBytes 4 (streamStride c parts) ++ leBytes 8 next ++ leBytes 8 c.viewEpoch ++ leBytes 8 horizon
    ++ leBytes 2 c.encVersion ++ leBytes 2 h ++ leBytes 20 0

/-- EXPORT of a view to the spans of its block list; the next slot is that of the first entry left out (log entry 64). -/
def exportRow (x : Cmd) (c : Coll) (ds : List BlkData) (s : State) : Res State :=
  let parts := cf x 40 1
  let live := c.entries.filter (fun p => p.1 ≥ cf x 32 8 && liveAt c x.horizon p)
  let n := (cf x 24 8 - 64) / streamStride c parts
  let es := live.take n
  let words : List DataWord := .record :: (if bit parts 0 then [.code] else [])
  match es.findSome? (fun p => poisonAt s c (cColl x) p.1 words) with
  | some p => .ok (failPoison x p s) s
  | none =>
    let next := ((live.drop n).head?.map Prod.fst).getD (2 ^ 64 - 1)
    let bs := exportHeader (cColl x) x.horizon parts es.length next c ++ es.flatMap (exportEntry s (cColl x) parts c)
    let sp := listSpan ds 0 bs.length
    andThen (checkSpans (whoOf s x) sp s) (fun _ s => andThen (writeSpans (whoOf s x) sp bs s) (fun _ s => done x.id id s))

/-- EXPORT: the block list is read first. -/
def exportStart (x : Cmd) (_ : Coll) (s : State) : Res State :=
  match viewOf s x, dataSpans x true (cf x 16 8) (cf x 24 8) with
  | some c, some ds => if barred s x then .wait s else exportRow x c ds s
  | _, none => .ok (beginList x (cf x 16 8) (cf x 24 8) s) s
  | none, some _ => .wait s

def execExportCmd (c : Nat) (s : State) : Host.Outcome State Fault Refusal := .next (drainAll (collRow c 0x53 always exportStart s))

end Sys2Proof.Machine
end

