-- ==== Sys2Proof/Machine/Admin.lean ====
section
/-! DEFINITION. Regions and invalidation (R357 to R360, R373 to R376), deferred errors and logs (R115, R435), and the ADMIN
sub-opcodes of Tables 4.5 and 20.6. -/

namespace Sys2Proof.Machine

/-! ## Invalidation (R373) -/

/-- An entry of the cache overlaps a range of pages of a domain. -/
def entryIn (d base len : Nat) (e : CacheEntry) : Bool := e.dom = d && e.va < base + len && base < e.va + e.size

/-- A page of a domain lies in a range. -/
def pageIn (d base len dom va : Nat) : Bool := dom = d && va < base + len && base < va + pageSize

/-- Begin invalidation `n`: entries that overlap are withdrawn and lose their holds, and answers to translation requests and
table reads sent before this point are discarded. The global epoch advances when an entry is withdrawn (R441). -/
def beginInval (n d base len : Nat) (cmd : Option Nat) (s : State) : State :=
  let hit := s.crook.cache.any (fun e => entryIn d base len e && !e.withdrawn)
  let s := crookMod (fun c =>
    { c with cache := c.cache.map (fun e => if entryIn d base len e then { e with withdrawn := true, holds := 0 } else e),
             reqs := c.reqs.map (fun r => if r.kind ≠ 1 && pageIn d base len r.dom r.va then { r with stale := true } else r),
             failed := c.failed.filter (fun f => !pageIn d base len f.1 f.2.1),
             invals := c.invals ++ [{ n := n, dom := d, base := base, len := len, cmd := cmd }], nextInval := max c.nextInval (n + 1) }) s
  let s := { s with cmds := s.cmds.map (fun x =>
    { x with held := x.held.filter (fun p => !pageIn d base len p.1 (p.2 / pageSize * pageSize)) }) }
  if hit then advanceEpoch s else s

/-- XLAT_INVALIDATE: it completes when its drain ends (R375). -/
def xlatInvalidate (x : Cmd) (s : State) : Res State :=
  let d := cf x 32 2
  if d ≠ domOf s x ∧ domOf s x ≠ 0 then failAt x stDomain 32 s
  else if (tget s.domains d).isNone then failAt x stBadField 32 s
  else
    let len := cf x 24 8
    let n := s.crook.nextInval
    .ok (setWork x.id (.wait 2 n)
      (beginInval n d (if len = 0 then 0 else cf x 16 8) (if len = 0 then 2 ^ 48 else len) (some x.id) s)) s

def execXlatInvalidate (c : Nat) (s : State) : Host.Outcome State Fault Refusal := .next (drainAll (freshRow c 0x60 always xlatInvalidate s))

/-! ## Regions -/

def overlaps (base len : Nat) (r : Region) : Bool := r.length ≠ 0 && base < r.base + r.length && r.base < base + len

/-- Regions that REGION_REGISTER commands of the domain have been granted and that their completion will add. -/
def regionsDue (s : State) (x : Cmd) : List Region :=
  (s.cmds.filter (fun y => y.id ≠ x.id && cOp y = 0x61 && y.phase = .finished && succeeded y && domOf s y = domOf s x)).map
    (fun y => { base := cf y 16 8, length := cf y 24 8, read := bit (cf y 32 1) 0, write := bit (cf y 32 1) 1,
                mirror := cf y 33 1 = 1, key := cf y 34 2, tableAddr := cf y 40 8 })

/-- REGION_REGISTER: overlap and max_regions at byte 16, a mode that is not allowed at byte 33 (R357, R365). The region takes
effect at the completion. -/
def regionRegister (x : Cmd) (s : State) : Res State :=
  match tget s.domains (domOf s x) with
  | none => failAt x stBadField 16 s
  | some d =>
    let all := d.regions ++ regionsDue s x
    let boot := if domOf s x = 0 then [bootRegion s] else []
    if (all ++ boot).any (overlaps (cf x 16 8) (cf x 24 8)) ∨ all.length ≥ d.maxRegions then failAt x stBadField 16 s
    else
      let mirror := cf x 33 1 = 1
      if (if mirror then !d.mirrorOk else !d.atsOk || !s.crook.atsEnable) then failAt x stBadField 33 s else done x.id id s

def execRegionRegister (c : Nat) (s : State) : Host.Outcome State Fault Refusal := .next (drainAll (freshRow c 0x61 always regionRegister s))

/-- An enabled ring of the domain lies in a region. -/
def ringIn (s : State) (d : Nat) (g : Region) : Bool :=
  s.rings.any (fun p => p.2.enabled && p.2.domain = d && overlaps p.2.base (ringBytes (.cq p.1) p.2) g)
    || (d = 0 && s.evRings.any (fun p => p.2.enabled && overlaps p.2.base (ringBytes (.ev p.1) p.2) g))

/-- REGION_RELEASE: the region is invalidated and removed, and the command completes when the drain ends (R360). -/
def regionRelease (x : Cmd) (s : State) : Res State :=
  let d := domOf s x
  match (((tget s.domains d).map Domain.regions).getD []).find? (fun g => g.base = cf x 16 8) with
  | none => failAt x stBadField 16 s
  | some g =>
    if ringIn s d g then failAt x stBadField 16 s
    else
      let n := s.crook.nextInval
      let s := beginInval n d g.base g.length (some x.id) s
      .ok (setWork x.id (.wait 2 n) (domMod d (fun k => { k with regions := k.regions.filter (fun r => r.base ≠ g.base) }) s)) s

def execRegionRelease (c : Nat) (s : State) : Host.Outcome State Fault Refusal := .next (drainAll (freshRow c 0x62 always regionRelease s))

/-! ## READ_DEFERRED (R115) -/

/-- A deferred entry (Table 4.12). -/
def deferredBytes (e : Deferred) : List Byte :=
  leBytes 8 e.seq ++ leBytes 6 e.vid ++ leBytes 2 e.coll ++ leBytes 2 e.status ++ leBytes 2 e.queue ++ leBytes 2 e.tag
    ++ leBytes 2 e.dflags.toNat ++ leBytes 8 e.media.toNat

/-- READ_DEFERRED: the oldest entries of the selection that were held when the command started; they leave the store and the
lost count is zeroed. -/
def readDeferred (x : Cmd) (s : State) : Res State :=
  let dn := domOf s x
  match tget s.domains dn with
  | none => failAt x stBadField 28 s
  | some d =>
    let q := cf x 28 2
    let sel := d.deferred.filter (fun e => q = 0xFFFF || e.queue = q)
    let es := (sel.filter (fun e => e.no < x.defBound)).take (cf x 24 4)
    let head := leBytes 4 es.length ++ leBytes 4 (sel.length - es.length) ++ leBytes 8 d.lost ++ leBytes 16 0
    andThen (writeDev (whoOf s x) (cf x 16 8) (head ++ es.flatMap deferredBytes) s) (fun _ s =>
      let left := d.deferred.filter (fun e => e ∉ es)
      andThen (journalCmd x 0x40 0xFFFF (.deferred dn left d.nextDef 0) 64 s) (fun n s =>
        let s := domMod dn (fun k => { k with deferred := left, lost := 0 }) s
        .ok (finishJournaled x.id n false (fun y => { y with result := es.length }) s) s))

def execReadDeferred (c : Nat) (s : State) : Host.Outcome State Fault Refusal := .next (drainAll (freshRow c 0x70 always readDeferred s))

/-! ## READ_LOG (R435) -/

/-- READ_LOG: the records that the domain may see, of the severity asked for, from the first at or above from_seq. -/
def readLog (x : Cmd) (s : State) : Res State :=
  let log := logRead s x
  let sel := logDue x (domOf s x) log
  let n := cf x 24 4
  let head := leBytes 4 (sel.take n).length ++ leBytes 4 0 ++ leBytes 8 (((sel.drop n).head?.map Ev.seq).getD 0)
    ++ leBytes 8 ((log.head?.map Ev.seq).getD 0) ++ leBytes 40 0
  andThen (writeDev (whoOf s x) (cf x 16 8) (head ++ (sel.take n).flatMap (fun e => evBytes e false false)) s) (fun _ s =>
    done x.id (fun y => { y with result := (sel.take n).length }) s)

def execReadLog (c : Nat) (s : State) : Host.Outcome State Fault Refusal := .next (drainAll (freshRow c 0x71 always readLog s))

/-! ## ADMIN: domains -/

/-- An ADMIN sub-opcode. -/
def subIs (n : Nat) (x : Cmd) : Bool := cSub x = n

/-- DOMAIN_CREATE (Tables 4.5 and 14.3); its bucket starts full (log entry 68). -/
def domainCreate (x : Cmd) (s : State) : Res State :=
  let d := cf x 16 2
  if (tget s.domains d).isSome then failAt x stBadField 16 s
  else
    let k : Domain :=
      { domainZero with pasid := cf x 18 4, evRing := cf x 22 1, urgRate := cf x 24 4, urgBurst := cf x 28 2, quota := cf x 30 4,
                        atsOk := bit (cf x 34 2) 0, mirrorOk := bit (cf x 34 2) 1, priOk := bit (cf x 34 2) 2,
                        maxRegions := cf x 36 2, keyMask := BitVec.ofNat 64 (cf x 40 8), tokens := cf x 28 2 }
    andThen (journalCmd x 0x40 0xFFFF (.domain d (some k)) 64 s) (fun n s =>
      .ok (finishJournaled x.id n false id { s with domains := tset s.domains d k }) s)

def execDomainCreate (c : Nat) (s : State) : Host.Outcome State Fault Refusal := .next (drainAll (freshRow c 0x7F (subIs 1) domainCreate s))

/-- The domain has a queue, a completion ring or a collection (R90), or unread deferred entries (R116). -/
def domainInUse (s : State) (d : Nat) (k : Domain) : Bool :=
  s.queues.any (fun q => q.2.domain = d) || s.rings.any (fun r => r.1 ≠ 0 && r.2.domain = d)
    || s.colls.any (fun c => c.2.owner = d) || k.deferred ≠ [] || k.lost ≠ 0

/-- Nothing of a domain stays in Crook: a later domain of its number starts anew (log entry 69). -/
def forgetDomain (d : Nat) (s : State) : State :=
  crookMod (fun c => { c with cache := c.cache.filter (fun e => e.dom ≠ d), failed := c.failed.filter (fun f => f.1 ≠ d),
                              reqs := c.reqs.map (fun r => if r.dom = d then { r with stale := true } else r) }) s

def domainDestroy (x : Cmd) (s : State) : Res State :=
  let d := cf x 16 2
  match tget s.domains d with
  | none => failAt x stBadField 16 s
  | some k =>
    if domainInUse s d k then failAt x stBadField 16 s
    else
      andThen (journalCmd x 0x40 0xFFFF (.domain d none) 64 s) (fun n s =>
        .ok (finishJournaled x.id n false id (forgetDomain d { s with domains := tdel s.domains d })) s)

/-- DOMAIN_DESTROY (R90, R116). -/
def execDomainDestroy (c : Nat) (s : State) : Host.Outcome State Fault Refusal := .next (drainAll (freshRow c 0x7F (subIs 2) domainDestroy s))

/-! ## ADMIN: queues and rings -/

/-- Queue-store slots reserved by queues, of 262,144 (R88), and those that hold a reset report (R472). -/
def slotsReserved (s : State) : Nat := s.queues.foldl (fun a q => a + q.2.depth) 0 + s.reports.length
def storeSlots : Nat := 262144

/-- QUEUE_CREATE (Table 4.5, R87, R88, R97). -/
def queueCreate (x : Cmd) (s : State) : Res State :=
  let q := cf x 16 2
  let d := cf x 18 2
  let ring := cf x 20 2
  match tget s.domains d with
  | none => if (tget s.queues q).isSome then failAt x stBadField 16 s else failAt x stBadField 18 s
  | some k =>
    if (tget s.queues q).isSome then failAt x stBadField 16 s
    else if !(tget s.rings ring).any (fun r => r.domain = d) then failAt x stBadField 20 s
    else if cf x 24 1 = 0 ∧ k.urgRate = 0 then failAt x stBadField 24 s
    else if slotsReserved s + cf x 22 2 > storeSlots then failPlain stStoreFull s
    else
      let n : Queue := { queueZero with domain := d, ring := ring, depth := cf x 22 2, cls := cf x 24 1, fabric := bit (cf x 25 1) 0 }
      done x.id id { s with queues := tset s.queues q n }

def execQueueCreate (c : Nat) (s : State) : Host.Outcome State Fault Refusal := .next (drainAll (freshRow c 0x7F (subIs 3) queueCreate s))

/-- Unstarted commands that `f` picks are completed with ABORTED, oldest first, and their records follow in that order (R90). -/
def abortAll (f : Cmd → Bool) (s : State) : State :=
  (s.cmds.filter (fun y => y.phase = .waiting && y.sub.isNone && f y)).foldl (fun s y =>
    takeTurn y (finish y.id (fun z => { z with status := stAborted, result := 0 }) s)) s

/-- Commands of a queue that have not completed. -/
def queueBusy (s : State) (q : Nat) : Bool := s.cmds.any (fun y => y.queue = q && y.sub.isNone)

/-- QUEUE_DESTROY: commits are refused, unstarted commands aborted; it completes once no command of the queue is left. -/
def queueDestroy (x : Cmd) (s : State) : State :=
  let q := cf x 16 2
  match x.work with
  | .none =>
    if !(tget s.queues q).any (fun r => !r.closing) then settle x.id (failAt x stBadField 16 s)
    else
      let s := abortAll (fun y => y.queue = q) { s with queues := tmod s.queues q (fun r => { r with closing := true }) }
      if queueBusy s q then setWork x.id (.wait 6 q) s else finish x.id id { s with queues := tdel s.queues q }
  | .wait 6 _ => if queueBusy s q then s else finish x.id id { s with queues := tdel s.queues q }
  | _ => s

/-- QUEUE_DESTROY (R90); the row is issued again until the queue has drained. -/
def execQueueDestroy (c : Nat) (s : State) : Host.Outcome State Fault Refusal :=
  .next (drainAll (match running s c 0x7F with
    | some x => if cSub x = 4 then queueDestroy x s else s
    | none => s))

/-- The ring that a CQ_CREATE describes in its bytes 24 to 55 (Table 3.7). -/
def ringCreated (x : Cmd) : Ring := ctxWord1 (BitVec.ofNat 64 (cf x 32 8)) { ringReset with base := cf x 24 8 }

/-- The first field of the context that breaks a rule of Table 3.7; a ring outside every region fails at its base. -/
def badCtx (s : State) (n : Nat) (x : Cmd) : Option Nat :=
  let r := ringCreated x
  let size := decide (7 ≤ r.sizeLog2 ∧ r.sizeLog2 ≤ 16)
  firstBad [ (size && r.base % max 4096 (ringBytes (.cq n) r) ≠ 0, 24), (!size, 32), (cf x 33 1 ≥ 4, 33),
             (cf x 34 2 ≥ 2048, 34), ((tget s.domains r.domain).isNone, 38), resv x 40 55, (!ringInRegion s (.cq n) r, 24) ]

/-- CQ_CREATE: a ring of a free number, enabled when its context says so (R77). -/
def cqCreate (x : Cmd) (s : State) : Res State :=
  let n := cf x 16 2
  if (tget s.rings n).isSome then failAt x stBadField 16 s
  else
    match badCtx s n x with
    | some o => failAt x stBadField o s
    | none =>
      let r := ringCreated x
      done x.id id { s with rings := tset s.rings n (if bit (cf x 33 1) 0 then ringEnable r else r) }

def execCqCreate (c : Nat) (s : State) : Host.Outcome State Fault Refusal := .next (drainAll (freshRow c 0x7F (subIs 5) cqCreate s))

/-- CQ_DESTROY: refused while a queue is bound to the ring. -/
def cqDestroy (x : Cmd) (s : State) : Res State :=
  let n := cf x 16 2
  if (tget s.rings n).isNone || s.queues.any (fun q => q.2.ring = n) then failAt x stBadField 16 s
  else done x.id id { s with rings := tdel s.rings n }

def execCqDestroy (c : Nat) (s : State) : Host.Outcome State Fault Refusal := .next (drainAll (freshRow c 0x7F (subIs 6) cqDestroy s))

/-- CQ_ENABLE: a disabled ring is enabled while its context obeys Table 3.7; a FAULTED one goes on; an enabled one is left. -/
def cqEnable (x : Cmd) (s : State) : Res State :=
  let n := cf x 16 2
  match tget s.rings n with
  | none => failAt x stBadField 16 s
  | some r =>
    if !r.enabled then
      if ctxValid s (.cq n) r true then done x.id id { s with rings := tset s.rings n (ringEnable r) } else failAt x stBadField 16 s
    else done x.id id { s with rings := tset s.rings n { r with faulted := false } }

/-- CQ_ENABLE (R79, R82). -/
def execCqEnable (c : Nat) (s : State) : Host.Outcome State Fault Refusal := .next (drainAll (freshRow c 0x7F (subIs 7) cqEnable s))

/-! ## ADMIN: classes, abort, time and limits -/

/-- CLASS_CONFIG: it holds for commands that start after its completion. -/
def classConfig (x : Cmd) (s : State) : Res State := done x.id id s

def execClassConfig (c : Nat) (s : State) : Host.Outcome State Fault Refusal := .next (drainAll (freshRow c 0x7F (subIs 8) classConfig s))

/-- ABORT: unstarted commands of a queue and tag are completed with ABORTED. -/
def abort (x : Cmd) (s : State) : Res State :=
  let q := cf x 16 2
  if (tget s.queues q).isNone then failAt x stBadField 16 s
  else done x.id id (abortAll (fun y => y.queue = q && cTag y = cf x 18 2) s)

def execAbort (c : Nat) (s : State) : Host.Outcome State Fault Refusal := .next (drainAll (freshRow c 0x7F (subIs 9) abort s))

/-- SET_TIME sets the time of day (R482). -/
def adminSetTime (x : Cmd) (s : State) : Res State := done x.id id { s with tod := some (cf x 16 8, s.now) }

def execAdminSetTime (c : Nat) (s : State) : Host.Outcome State Fault Refusal := .next (drainAll (freshRow c 0x7F (subIs 0x0A) adminSetTime s))

/-- Free walker contexts for searches, and those reserved to Drone, of the cores in service (R146). -/
def contextsFree (s : State) : Nat := ((List.range 128).filter (coreIn s)).foldl (fun a k => a + (480 - coreHeld s k)) 0
def droneContexts (s : State) : Nat := 32 * ((List.range 128).filter (coreIn s)).length

/-- The block of QUERY_LIMITS; free queue-store slots are those that no queue has reserved (log entry 62). -/
def limitsBytes (s : State) (d : Domain) : List Byte :=
  leBytes 4 (storeSlots - slotsReserved s) ++ leBytes 4 (inExec s) ++ leBytes 4 (contextsFree s) ++ leBytes 4 (droneContexts s)
    ++ leBytes 2 s.colls.length ++ leBytes 2 s.progs.length ++ leBytes 2 s.tables.length ++ leBytes 2 0
    ++ leBytes 4 d.deferred.length ++ leBytes 4 d.lost ++ leBytes 32 0

def queryLimits (x : Cmd) (s : State) : Res State :=
  match tget s.domains (cf x 24 2) with
  | none => failAt x stBadField 24 s
  | some d => andThen (writeDev (whoOf s x) (cf x 16 8) (limitsBytes s d) s) (fun _ s => done x.id id s)

def execQueryLimits (c : Nat) (s : State) : Host.Outcome State Fault Refusal := .next (drainAll (freshRow c 0x7F (subIs 0x0B) queryLimits s))

/-! ## ADMIN: keys (R488, R489) -/

/-- KEY_CHANGED for a slot, 0xFF for the fabric key. -/
def raiseKey (slot : Nat) (s : State) : State := raise .sec (mkEv 0x0120 0 .sec 0 0xFFFF 0 slot 0 0) s

/-- The key of a wrapped block, or the field that fails the command: no KEK, another generation, or a failed unwrap, which
the SEC page counts. -/
def unwrapKey (x : Cmd) (s : State) (f : BitVec 256 → State → Res State) : Res State :=
  match s.sec.kek with
  | none => failAt x stBadField 20 s
  | some (gen, kek) =>
    if gen ≠ cf x 20 4 then failAt x stBadField 20 s
    else
      match Config.unwrap kek (slice x.bytes 24 40) with
      | none => failAt x stBadField 24 (bumpSat (reg .sec 0 0x118) 0 16 1 (blkFault (blkPage .sec 0) 0 0 0 s))
      | some k => f k s

def keyLoad (x : Cmd) (s : State) : Res State :=
  let k := cf x 16 1
  if keyLoaded s k then failAt x stBadField 16 s
  else unwrapKey x s (fun key s => done x.id id (raiseKey k { s with sec := { s.sec with keys := tset s.sec.keys k key } }))

/-- KEY_LOAD (R489). -/
def execKeyLoad (c : Nat) (s : State) : Host.Outcome State Fault Refusal := .next (drainAll (freshRow c 0x7F (subIs 0x20) keyLoad s))

/-- KEY_CLEAR: the slot is emptied at the completion. -/
def keyClear (x : Cmd) (s : State) : Res State := done x.id id s

def execKeyClear (c : Nat) (s : State) : Host.Outcome State Fault Refusal := .next (drainAll (freshRow c 0x7F (subIs 0x21) keyClear s))

/-- CST_NET enable. -/
def cstEnabled (s : State) : Bool := (regGet s (reg .cst 12 0x110)).getLsbD 0

/-- FABRIC_KEY: refused, at its sub-opcode (log entry 70), while CST_NET enable is set; otherwise it replaces the key. -/
def fabricKey (x : Cmd) (s : State) : Res State :=
  if cstEnabled s then failAt x stBadField 1 s
  else unwrapKey x s (fun key s => done x.id id (raiseKey 0xFF { s with sec := { s.sec with fabricKey := some key } }))

def execFabricKey (c : Nat) (s : State) : Host.Outcome State Fault Refusal := .next (drainAll (freshRow c 0x7F (subIs 0x22) fabricKey s))

/-! ## ADMIN: accounts and security state -/

/-- An X128 slot of a region with base code `base` read as FP32 (R347). -/
def x128Read (base : Nat) (a : X128) : BitVec 32 :=
  if a.nan || (a.whPos && a.whNeg) then 0x7FC00000
  else if a.whPos then 0x7F800000
  else if a.whNeg then 0xFF800000
  else
    let v := a.value.toInt
    let e : Int := (base : Int) - 127 - 56
    (toFp32Q (v < 0) (dyNum v.natAbs e) (dyDen e)).val

/-- A record of ACCOUNT_READ (R493). -/
def accountBytes (n : Nat) (d : Domain) : List Byte :=
  leBytes 2 n ++ leBytes 6 0 ++ leBytes 8 d.scanned ++ leBytes 8 d.expansions ++ leBytes 8 d.macs
    ++ leBytes 4 (x128Read 0x7F d.energy).toNat ++ leBytes 1 (b2n d.energy.wl) ++ List.replicate 27 0

def accountRead (x : Cmd) (s : State) : Res State :=
  let n := cf x 16 2
  let ds := if n = 0xFFFF then s.domains else s.domains.filter (fun p => p.1 = n)
  if ds = [] then failAt x stBadField 16 s
  else
    andThen (writeDev (whoOf s x) (cf x 24 8) (ds.flatMap (fun p => accountBytes p.1 p.2)) s) (fun _ s =>
      done x.id (fun y => { y with result := ds.length }) s)

/-- ACCOUNT_READ (R493). -/
def execAccountRead (c : Nat) (s : State) : Host.Outcome State Fault Refusal := .next (drainAll (freshRow c 0x7F (subIs 0x23) accountRead s))

/-- The values of measurement block 5 (Table 20.5). -/
def securityValues (s : State) : List Nat :=
  [s.sec.fuse, s.sec.pkgA.svn, s.sec.pkgB.svn, s.sec.mcA.svn, s.sec.mcB.svn, b2n s.sec.fwFallback, b2n s.sec.debug, b2n s.sec.key0Revoked]

def securityState (x : Cmd) (s : State) : Res State :=
  andThen (writeDev (whoOf s x) (cf x 24 8) (leBytes 64 (Config.securityBlock (securityValues s)).toNat) s) (fun _ s => done x.id id s)

/-- SECURITY_STATE (R488, Table 20.6). -/
def execSecurityState (c : Nat) (s : State) : Host.Outcome State Fault Refusal :=
  .next (drainAll (freshRow c 0x7F (subIs 0x24) securityState s))

end Sys2Proof.Machine
end

