-- ==== Sys2Proof/Machine/Crook.lean ====
section
/-! DEFINITION. Crook's rows: answers to translation requests, page requests and table reads (R362 to R364), invalidation and
its drain (R373, R374, R376), and the function's ATS and PRI enables (R363, R365). -/

namespace Sys2Proof.Machine

/-! ## The cache (R361, R366, R378) -/

/-- Drop the last entry that no command holds. -/
def evictOne (es : List CacheEntry) : List CacheEntry :=
  match es.reverse.find? (fun e => e.holds = 0 && !e.withdrawn) with
  | some e => es.erase e
  | none => es

/-- Put an entry at the front; beyond 65,536 entries the least recently used one that is not held goes. -/
def cachePut (e : CacheEntry) (s : State) : State :=
  crookMod (fun c =>
    let es := c.cache.filter (fun x => x.withdrawn || !(x.dom = e.dom ∧ x.va = e.va ∧ x.size = e.size))
    { c with cache := e :: (if es.length ≥ 65536 then evictOne es else es) }) s

/-- A fault that a request ended in, kept until an access reports it. -/
def cacheFail (d page status : Nat) (s : State) : State := crookMod (fun c => { c with failed := c.failed ++ [(d, page, status)] }) s

/-- The outstanding request of a kind for a page, and the state without it. -/
def takeReq (d page kind : Nat) (s : State) : Option (XlatReq × State) :=
  match s.crook.reqs.find? (fun r => r.dom = d ∧ r.va = page ∧ r.kind = kind) with
  | none => none
  | some r => some (r, crookMod (fun c => { c with reqs := c.reqs.erase r }) s)

def pageOf (va : Nat) : Nat := va / pageSize * pageSize

/-- The first address of a command's fields in a page that has a fault, by its direction. -/
def fieldFault (page : Nat) (st : Bool → Option Nat) (x : Cmd) : Option (Nat × Nat) :=
  (cmdAddrs x).findSome? (fun p => if pageOf p.1 = page then (st p.2).map (fun n => (n, p.1)) else none)

/-- Commands whose start waits and that name an address at fault in a page take it as a fault found at their queueing (R141,
R367), unless they belong to `but`: those commands, and the state. -/
def noteFaults (d page : Nat) (st : Bool → Option Nat) (but : List Nat) (s : State) : List Cmd × State :=
  let named := s.cmds.filter (fun x => x.phase = .waiting && x.xfault.isNone && domOf s x = d && (fieldFault page st x).isSome
    && x.id ∉ but)
  let one := fun (s : State) (x : Cmd) =>
    match fieldFault page st x with
    | some (n, va) =>
      let f := crkFault (whoOf s x) va n
      cmdMod x.id (fun y => { y with xfault := some (n, va) })
        (blkFault f.page f.bit f.addr f.info (bumpSat (reg .crk 0 0x138) 0 32 1 s))
    | none => s
  (named, named.foldl one s)

/-- The translation of a page has failed: waiting commands that name it note the fault, and any other access that asked finds
it. The commands of `but` wait on. -/
def xlatFailsBut (but : List Nat) (d page status : Nat) (s : State) : State :=
  let (named, s) := noteFaults d page (fun _ => some status) but s
  if named = [] || s.cmds.any (fun x => x.phase = .executing && domOf s x = d) then cacheFail d page status s else s

def xlatFails (d page status : Nat) (s : State) : State := xlatFailsBut [] d page status s

/-- The host answers page requests of a domain (R362, R363). -/
def priOpen (s : State) (d : Nat) : Bool :=
  s.crook.priEnable && !s.crook.priStopped && ((tget s.domains d).map Domain.priOk).getD false

/-- Waiting unbounded commands that a page request serves: they name the page of a domain with PRI_OK. -/
def pageWaiters (s : State) (d page : Nat) : List Cmd :=
  s.cmds.filter (fun x => priOpen s d && x.phase = .waiting && x.xfault.isNone && domOf s x = d && !boundedCls s x.queue
    && (cmdAddrs x).any (fun p => pageOf p.1 = page))

/-- A page is not present (R362): a page request is made where a waiting command asks for one, and the others take the fault. -/
def notPresent (d page : Nat) (s : State) : State :=
  let xs := pageWaiters s d page
  let s := xlatFailsBut (xs.map Cmd.id) d page 0x03 s
  if xs = [] || requested s d page 1 || !pageRoom s then s
  else askPage d page (xs.any (fun x => (cmdAddrs x).any (fun p => pageOf p.1 = page && p.2))) s

/-- ATS_ERROR: the CRK page's bit 2 and the event, at the address that failed (R362, R364). -/
def atsError (d status : Nat) (addr : Word64) (pcie : Nat) (s : State) : State :=
  let i0 := status + d * 256
  raise .crk (mkEv 0x00E0 2 .crk 0 d addr.toNat i0 pcie 0) (blkFault (blkPage .crk 0) 2 addr (BitVec.ofNat 64 i0) s)

/-- Bounded commands of a domain in execution that read or write a page, as far as their fields and block lists say. -/
def touchesPage (s : State) (d page : Nat) (x : Cmd) : Bool :=
  x.bounded && x.phase = .executing && domOf s x = d
    && ((cmdAddrs x).any (fun p => pageOf p.1 = page)
      || (x.list.any (fun w => w.datas.any (fun b => b.addr < page + pageSize && page < b.addr + b.len))))

/-- The host answered late, or withdrew a page: such commands miss for its cause (R369, Table 17.5). -/
def blameHost (f : Cmd → Bool) (s : State) : State :=
  { s with cmds := s.cmds.map (fun x => if f x then { x with lateXlat := true } else x) }

/-! ## Answers -/

/-- The cache entry that a translation of `size` bytes gives for the page at `page`. -/
def atsEntry (d page size bus : Nat) (r w u : Bool) : CacheEntry :=
  let z := if size ≥ 2 ^ 30 then 2 ^ 30 else pageSize
  let va := page / z * z
  { dom := d, va := va, size := z, bus := bus + (va - page / size * size), read := r, write := w, untranslated := u, ats := true,
    withdrawn := false, holds := 0 }

/-- CRK_ATS_LAT counts an answer that took `ns`. -/
def atsLatency (ns : Nat) (s : State) : State :=
  let o := reg .crk 0 0x120
  let s := if ns > 2000 then bumpSat o 0 32 1 s else s
  if ns > bits (regGet s o).toNat 63 32 then regField o 63 32 (min ns 0xFFFF_FFFF) s else s

/-- ATS_TRANSLATION_COMPLETION (R362): cached, or a fault; one sent before an invalidation of its page is discarded. -/
def atsCompletion (d va : Nat) (a : AtsAnswer) (ns : Nat) (s : State) : State :=
  let page := pageOf va
  match takeReq d page 0 s with
  | none => s
  | some (q, s) =>
    let s := atsLatency ns s
    let s := if ns > 2000 then blameHost (touchesPage s d page) s else s
    if q.stale then s
    else
      match a with
      | .failed pcie => atsError d 0x02 (dvAddr page) pcie (xlatFails d page 0x02 s)
      | .page size bus r w u =>
        if size < pageSize then xlatFails d page 0x04 s
        else if !r && !w then notPresent d page s
        else
          (noteFaults d page (fun wr => if wr && !w then some 0x11 else if !wr && !r then some 0x10 else none) []
            (cachePut (atsEntry d page size bus r w u) s)).2

def execAtsTranslationCompletion (dom va : Nat) (a : AtsAnswer) (ns : Nat) (s : State) : Host.Outcome State Fault Refusal :=
  .next (drainAll (atsCompletion dom va a ns s))

/-- A page request ends in PRI_FAILED. -/
def priFailed (d page : Nat) (s : State) : State :=
  xlatFails d page 0x05 (bumpSat (reg .crk 0 0x130) 32 32 1
    (blkFault (blkPage .crk 0) 3 (dvAddr page) (BitVec.ofNat 64 (0x05 + d * 256 + 0x7FFF * 65536)) s))

/-- The translation of a page is requested again; during an invalidation of the page, only once an access needs it (R376). -/
def requestAgain (d page : Nat) (write : Bool) (s : State) : State :=
  if !s.crook.atsEnable || requested s d page 0 || invalidating s d page
      || (s.crook.reqs.filter (fun q => q.kind = 0)).length ≥ 1024 then s
  else
    emit (.atsRequest d page write) (bumpWrap (reg .crk 0 0x118) 0 32 1
      (crookMod (fun c => { c with reqs := c.reqs ++ [{ dom := d, va := page, write := write, kind := 0, stale := false }] }) s))

/-- PAGE_REQUEST_RESPONSE (R363). -/
def pageResponse (d va : Nat) (a : PriAnswer) (s : State) : State :=
  let page := pageOf va
  match takeReq d page 1 s with
  | none => s
  | some (q, s) =>
    match a with
    | .success => requestAgain d page (((regionOf s d page).map (fun g => g.1.write)).getD q.write) s
    | .invalidRequest => priFailed d page s
    | .responseFailure => priFailed d page (crookMod (fun c => { c with priStopped := true }) s)

def execPageRequestResponse (dom va : Nat) (a : PriAnswer) (s : State) : Host.Outcome State Fault Refusal :=
  .next (pageResponse dom va a s)

/-- PAGE_REQUEST_TIMEOUT (R363): 10 ms without a response. -/
def pageTimeout (d va : Nat) (s : State) : State :=
  match takeReq d (pageOf va) 1 s with
  | none => s
  | some (_, s) => priFailed d (pageOf va) s

def execPageRequestTimeout (dom va : Nat) (s : State) : Host.Outcome State Fault Refusal := .next (pageTimeout dom va s)

/-- An entry of a region table maps its page (R358). -/
def tableValid (e : Word64) : Bool := e.getLsbD 0 && bits e.toNat 20 3 = 0

def tableEntry (d page : Nat) (e : Word64) : CacheEntry :=
  { dom := d, va := page, size := pageSize, bus := e.toNat / pageSize * pageSize, read := e.getLsbD 1, write := e.getLsbD 2,
    untranslated := false, ats := false, withdrawn := false, holds := 0 }

/-- The bus address of the granule that describes a page of a MIRROR region. -/
def granuleOf (g : Region) (page : Nat) : Nat := (g.tableAddr + (page - g.base) / pageSize * 8) / 64 * 64

/-- Cache the entries of a granule whose pages lie in the region and are not being invalidated. -/
def cacheGranule (d : Nat) (g : Region) (first : Nat) (es : List Word64) (s : State) : State :=
  (List.range (min 8 es.length)).foldl (fun s i =>
    let p := g.base + (first + i) * pageSize
    let e := es.getD i 0
    if tableValid e && inRegion g p && !invalidating s d p then cachePut (tableEntry d p e) s else s) s

/-- REGION_TABLE_READ_DONE (R364). -/
def tableReadDone (d va : Nat) (a : TableAnswer) (s : State) : State :=
  let page := pageOf va
  match takeReq d page 2 s, regionOf s d page with
  | some (q, s), some (g, _) =>
    if q.stale then s
    else
      let bus := granuleOf g page
      match a with
      | .poisoned => xlatFails d page (xlatPoison bus) s
      | .refused pcie => atsError d 0x06 (BitVec.ofNat 64 (bus % 2 ^ 62)) pcie (xlatFails d page 0x06 s)
      | .entries es =>
        let i := (page - g.base) / pageSize
        let s := cacheGranule d g (i / 8 * 8) es s
        if tableValid (es.getD (i % 8) 0) then s else xlatFails d page 0x06 s
  | some (_, s), none => s
  | none, _ => s

def execRegionTableReadDone (dom va : Nat) (a : TableAnswer) (s : State) : Host.Outcome State Fault Refusal :=
  .next (drainAll (tableReadDone dom va a s))

/-! ## Invalidation -/

/-- The domains that a host's Invalidate Request names: those with its PASID, D0 without one (R374). A request that names no
domain stands under the model's own number 256 until it is answered. -/
def invalDomains (s : State) (pasid : Option Nat) : List Nat :=
  match pasid with
  | none => [0]
  | some p =>
    let ds := (s.domains.filter (fun d => d.1 ≠ 0 && d.2.pasid = p)).map Prod.fst
    if ds = [] then [256] else ds

/-- ATS_INVALIDATE_REQUEST (R373, R374). -/
def atsInvalidate (pasid : Option Nat) (base len : Nat) (s : State) : State :=
  let n := s.crook.nextInval
  (invalDomains s pasid).foldl (fun s d =>
    beginInval n d base len none (blameHost (fun x => x.bounded && x.phase = .executing
      && x.held.any (fun p => pageIn d base len p.1 (pageOf p.2))) s)) s

def execAtsInvalidateRequest (pasid : Option Nat) (base len : Nat) (s : State) : Host.Outcome State Fault Refusal :=
  .next (atsInvalidate pasid base len s)

/-- A REGION_RELEASE waits for earlier invalidations of its range (R376). -/
def releaseWaits (s : State) (i : Inval) : Bool :=
  (i.cmd.bind (cmdGet s)).any (fun x => cOp x = 0x62)
    && s.crook.invals.any (fun j => j.n < i.n && j.dom = i.dom && j.base < i.base + i.len && i.base < j.base + j.len)

/-- CRK_INVAL counts an invalidation whose drain took `ns`. -/
def invalCount (ns : Nat) (s : State) : State :=
  let o := reg .crk 0 0x128
  let s := bumpWrap o 0 32 1 s
  if ns > bits (regGet s o).toNat 63 32 then regField o 63 32 (min ns 0xFFFF_FFFF) s else s

/-- INVALIDATION_DRAINED (R373): completion is signalled and the withdrawn entries are freed. -/
def invalDrained (n ns : Nat) (s : State) : State :=
  match s.crook.invals.find? (fun i => i.n = n) with
  | none => s
  | some i =>
    if releaseWaits s i then s
    else
      let mine := s.crook.invals.filter (fun j => j.n = n)
      let rest := s.crook.invals.filter (fun j => j.n ≠ n)
      let covers := fun (js : List Inval) (e : CacheEntry) => js.any (fun j => entryIn j.dom j.base j.len e)
      let s := invalCount ns (crookMod (fun c =>
        { c with invals := rest, cache := c.cache.filter (fun e => !(e.withdrawn && covers mine e && !covers rest e)) }) s)
      match i.cmd with
      | none => emit (.invalidateDone n) s
      | some c => if (cmdGet s c).any (fun x => x.work = .wait 2 n) then finish c id s else s

def execInvalidationDrained (n ns : Nat) (s : State) : Host.Outcome State Fault Refusal := .next (invalDrained n ns s)

/-! ## The function's enables -/

/-- The holds of commands on entries that `f` picks are dropped. -/
def dropHolds_ (f : CacheEntry → Bool) (s : State) : State :=
  { s with cmds := s.cmds.map (fun x => { x with held := x.held.filter (fun p => !(cacheFind s p.1 p.2).any f) }) }

/-- ATS_ENABLE_CLEARED (R365): every ATS translation is dropped, and requests on their way are discarded. -/
def atsCleared (s : State) : State :=
  let hit := s.crook.cache.any CacheEntry.ats
  let s := dropHolds_ CacheEntry.ats s
  let s := crookMod (fun c =>
    { c with atsEnable := false, cache := c.cache.filter (fun e => !e.ats),
             reqs := c.reqs.map (fun r => if r.kind = 0 then { r with stale := true } else r) }) s
  if hit then advanceEpoch s else s

def execAtsEnableCleared (s : State) : Host.Outcome State Fault Refusal := .next (atsCleared s)

/-- PRI_ENABLE_SET (R363): page requests may be made again. -/
def execPriEnableSet (s : State) : Host.Outcome State Fault Refusal :=
  .next (crookMod (fun c => { c with priEnable := true, priStopped := false }) s)

end Sys2Proof.Machine
end

