-- ==== Sys2Proof/Machine/Fabric.lean ====
section
/-! DEFINITION. Consort's rows (chapter 15): ports and lanes, connections and their packets, peers, remote commands, events to
peers and mirroring. -/

namespace Sys2Proof.Machine

def cstMod (f : Consort → Consort) (s : State) : State := { s with cst := f s.cst }

/-- Consort is on (CST_NET). -/
def fabricOn (s : State) : Bool := (regGet s (reg .cst 12 0x110)).getLsbD 0

/-! ## Ports and lanes (R379 to R381) -/

/-- Bit n set when local port n is up. -/
def portsMask (s : State) : Nat := (List.range 12).foldl (fun a n => a + b2n ((s.cst.ports[n]?).any Port.up) * 2 ^ n) 0

def portMod (n : Nat) (f : Port → Port) (s : State) : State :=
  cstMod (fun c => { c with ports := (List.range c.ports.length).map (fun i =>
    let p := c.ports.getD i { up := false, present := false, kr8 := false, noSpare := false }
    if i = n then f p else p) }) s

/-- PORT_STATE of a port as it stands. -/
def raisePort (n sev : Nat) (s : State) : State :=
  let p := s.cst.ports.getD n { up := false, present := false, kr8 := false, noSpare := false }
  raise .cst (mkEv 0x00F1 sev .cst n 0xFFFF 0 (n + b2n p.up * 2 ^ 8 + b2n p.noSpare * 2 ^ 9) 0 0) s

/-- A port goes up or down; a change is reported. A port without a connected far end, or with a retired lane and no spare,
stays down. -/
def portState (n : Nat) (up : Bool) (s : State) : State :=
  match s.cst.ports[n]? with
  | none => s
  | some p =>
    let up := up && p.present && !p.noSpare
    if p.up = up then s else raisePort n (if up then 0 else 1) (portMod n (fun q => { q with up := up }) s)

/-- PORT_STATE (R381). -/
def execPortState (port : Nat) (up : Bool) (s : State) : Host.Outcome State Fault Refusal :=
  .next (drainAll (portState port up s))

/-- CABLE_PRESENCE_CHANGE (R454): a cable whose memory answers trains as CR8, any other as KR8; a withdrawal takes the port
down at once. -/
def cableChange (n : Nat) (present memAnswers : Bool) (s : State) : State :=
  if n ≥ 12 then s
  else if present then portMod n (fun p => { p with present := true, kr8 := !memAnswers }) s
  else portMod n (fun p => { p with present := false, kr8 := false }) (portState n false s)

def execCablePresenceChange (port : Nat) (present memAnswers : Bool) (s : State) : Host.Outcome State Fault Refusal :=
  .next (drainAll (cableChange port present memAnswers s))

/-- A lane of a port is retired: a spare takes its place and the port retrains, or the port stays down (R380). -/
def laneRetired (n lane : Nat) (s : State) : State :=
  let l := laneOf n lane
  let left := sparesLeft s 8 l
  let spare := nextSpare s 8 l
  let nominal := l
  let wasUp := (s.cst.ports[n]?).any Port.up
  let info := if left = 0 then n + 2 ^ 9 else nominal + spare * 2 ^ 8
  let s := blkFault (blkPage .cst n) 0 0 (BitVec.ofNat 64 info) s
  if left = 0 then
    let s := blkFault (blkPage .cst n) 1 0 (BitVec.ofNat 64 info) (portMod n (fun p => { p with up := false, noSpare := true }) s)
    raisePort n 3 (retireUnit { kind := 8, logical := l } (physicalOf s 8 l) 7 s)
  else
    let s := retireUnit { kind := 8, logical := l } (physicalOf s 8 l) 7 s
    let s := raise .cst (mkEv 0x00F0 0 .cst n 0xFFFF 0 info (left - 1) 0) s
    if wasUp then portState n false s else s

/-- LANE_SPARED (R380): a lane that passes loopback is not retired. -/
def laneSpared (n lane : Nat) (loopbackFails : Bool) (s : State) : State :=
  if n ≥ 12 ∨ lane ≥ 8 ∨ !loopbackFails then s
  else if unitGone s { kind := 8, logical := laneOf n lane } then s
  else laneRetired n lane s

def execLaneSpared (port lane : Nat) (loopbackFails : Bool) (s : State) : Host.Outcome State Fault Refusal :=
  .next (drainAll (laneSpared port lane loopbackFails s))

/-- ADDRESS_RESOLUTION_REQUEST (R382): a port answers for the base address plus its number. -/
def addressRequest (n hi lo : Nat) (s : State) : State :=
  let base := (regGet s (reg .cst 12 0x100)).toNat * 2 ^ 64 + (regGet s (reg .cst 12 0x108)).toNat
  if fabricOn s && (s.cst.ports[n]?).any Port.up && (base + n) % 2 ^ 128 = hi * 2 ^ 64 + lo then
    emit (.arpAnswer n (BitVec.ofNat 64 hi) (BitVec.ofNat 64 lo) (Config.portMac n)) s
  else s

def execAddressResolutionRequest (port ipHi ipLo : Nat) (s : State) : Host.Outcome State Fault Refusal :=
  .next (addressRequest port ipHi ipLo s)

/-! ## Connections (R385, R386, R388) -/

/-- PEER_STATE of a peer as it stands. -/
def raisePeer (i sev : Nat) (s : State) : State :=
  raise .cst (mkEv 0x00F2 sev .cst 12 0xFFFF 0 (i + (peerOf s i).state * 2 ^ 12) 0 0) s

/-- HELLO or HELLO_ACK to a peer: this side's connection ID, shard ID and ports up. -/
def sendHello (i : Nat) (isAck : Bool) (s : State) : State :=
  if portsMask s = 0 then s else emit (.fabricHello i (peerOf s i).ownConn (shardId s) (portsMask s) isAck) s

/-- The entry takes a connection ID that this side has not used yet. -/
def newConn (i : Nat) (s : State) : State :=
  peerMod i (fun p => { p with ownConn := s.cst.nextConn }) (cstMod (fun c => { c with nextConn := (c.nextConn + 1) % 2 ^ 32 }) s)

/-- Sending rate in Mb/s at the start of a connection: 100 GB/s for each port up at both ends (R387). -/
def rateStart (s : State) (p : Peer) : Rat :=
  ((List.range 12).filter (fun n => bit p.portsUp n && bit (portsMask s) n)).length * 800000

/-- Event records that have not been delivered are discarded and LOST_BEFORE is owed (R399). -/
def dropEvents (p : Peer) : Peer :=
  let keep := fun (m : OutMsg) => m.kind ≠ 6
  { p with events := [], outMsgs := p.outMsgs.filter keep, queued := p.queued.filter keep,
           lostBefore := p.lostBefore || p.events ≠ [] || p.outMsgs.any (fun m => m.kind = 6) || p.queued.any (fun m => m.kind = 6) }

/-- A connection goes down: PEER_STATE, the fan-outs that wait for the peer are refused (R395), its events are discarded. -/
def connDown (i : Nat) (s : State) : State :=
  let s := peerMod i (fun p => dropEvents { p with state := 3 }) s
  fansDown i (raisePeer i 1 (newConn i s))

/-- A connection opens: numbers start again, and messages whose delivery was not acknowledged are sent first (R386). -/
def openFresh (i conn shard ports : Nat) (s : State) : State :=
  let fresh := fun (p : Peer) =>
    let p := { p with state := 2, conn := conn, shardId := shard, portsUp := ports, nextPsn := 0, unacked := [], nextMsg := 1,
                      queued := p.outMsgs.foldr queueMsg [] ++ p.queued, outMsgs := [], recvPsn := 0, recvAhead := [], sinceAck := 0,
                      ceSince := 0, msgs := [], nextRecvMsg := 1, timeoutUs := 20, lastCut := none }
    { p with rate := rateStart s p }
  let s := raisePeer i 0 (peerMod i fresh s)
  let s := flushMsgs i (peerOf s i).queued.length s
  if mirrorOn s && i = mirrorPeer s then shipRest (cstMod (fun c => { c with mirrorPaused := false }) s) else s

/-- HELLO or HELLO_ACK names the peer's connection; a connection already open under that ID stands. -/
def openConn (i conn shard ports : Nat) (s : State) : State :=
  let p := peerOf s i
  if p.state = 2 ∧ p.conn = conn then s
  else openFresh i conn shard ports (if p.state = 2 then connDown i s else s)

/-- A packet from peer `i`: one from an address without an enabled entry is dropped and counted (R384). -/
def fromPeer (i : Nat) (f : Peer → State → State) (s : State) : State :=
  if !fabricOn s then s
  else
    match tget s.cst.peers i with
    | some p => if p.enable then f p s else bumpSat (reg .cst 12 0x158) 0 32 1 s
    | none => bumpSat (reg .cst 12 0x158) 0 32 1 s

/-- HELLO (R385): the connection opens and HELLO_ACK answers. -/
def execHello (peer conn shard portsUp : Nat) (s : State) : Host.Outcome State Fault Refusal :=
  .next (drainAll (fromPeer peer (fun _ s => sendHello peer true (openConn peer conn shard portsUp s)) s))

/-- HELLO_ACK (R385). -/
def execHelloAck (peer conn shard portsUp : Nat) (s : State) : Host.Outcome State Fault Refusal :=
  .next (drainAll (fromPeer peer (fun _ s => openConn peer conn shard portsUp s) s))

/-- CLOSE: the peer ends the connection. -/
def execClose (peer : Nat) (s : State) : Host.Outcome State Fault Refusal :=
  .next (drainAll (fromPeer peer (fun p s => if p.state = 2 then connDown peer s else s) s))

/-- CONNECTION_DOWN (R386): 100 ms without progress of ack_psn while packets wait for acknowledgement. -/
def connectionDown (i : Nat) (s : State) : State :=
  let p := peerOf s i
  if p.state ≠ 2 ∨ p.unacked = [] then s
  else sendHello i false (connDown i (blkFault (blkPage .cst 12) 0 0 (BitVec.ofNat 64 (i + 3 * 2 ^ 12)) s))

def execConnectionDown (peer : Nat) (s : State) : Host.Outcome State Fault Refusal :=
  .next (drainAll (connectionDown peer s))

/-- HELLO_RETRY (R386). -/
def helloRetry (i : Nat) (s : State) : State :=
  let p := peerOf s i
  if fabricOn s && p.enable && (p.state = 1 || p.state = 3) then sendHello i false s else s

def execHelloRetry (peer : Nat) (s : State) : Host.Outcome State Fault Refusal := .next (helloRetry peer s)

/-! ## Packets and acknowledgement (R384 to R387) -/

/-- An ACK of what has been received: the highest number received in order, and the numbers ahead of it. -/
def sendAck (i : Nat) (s : State) : State :=
  let p := peerOf s i
  let bitmap := (List.range 64).foldl (fun a k => if (p.recvPsn + k) % 2 ^ 32 ∈ p.recvAhead then a + 2 ^ k else a) 0
  emit (.fabricAck i ((p.recvPsn + 2 ^ 32 - 1) % 2 ^ 32) (BitVec.ofNat 64 bitmap) p.ceSince)
    (peerMod i (fun p => { p with sinceAck := 0, ceSince := 0 }) s)

/-- ACK_DELAY_TIMER (R386). -/
def ackDelay (i : Nat) (s : State) : State :=
  let p := peerOf s i
  if p.state = 2 ∧ p.sinceAck > 0 then sendAck i s else s

def execAckDelayTimer (peer : Nat) (s : State) : Host.Outcome State Fault Refusal := .next (ackDelay peer s)

/-- The next number expected, once those received ahead join. -/
def advancePsn (ahead : List Nat) : Nat → Nat → Nat
  | 0, n => n
  | fuel + 1, n => if n ∈ ahead then advancePsn ahead fuel ((n + 1) % 2 ^ 32) else n

/-- A part joins its message. -/
def addPart (h : PktHdr) (payload : List Byte) (ms : List Msg) : List Msg :=
  if ms.any (fun m => m.id = h.msgId) then
    ms.map (fun m => if m.id = h.msgId then { m with parts := tset m.parts h.msgOff payload } else m)
  else ms ++ [{ id := h.msgId, len := h.msgLen, parts := [(h.msgOff, payload)] }]

/-- All of a message's bytes have arrived. -/
def msgWhole (m : Msg) : Bool := m.parts.foldl (fun a p => a + p.2.length) 0 ≥ m.len

/-- Deliver whole messages in order of their numbers. -/
def deliver : Nat → Peer → Peer
  | 0, p => p
  | fuel + 1, p =>
    if p.msgs.any (fun m => m.id = p.nextRecvMsg && msgWhole m) then
      deliver fuel { p with msgs := p.msgs.filter (fun m => m.id ≠ p.nextRecvMsg), nextRecvMsg := p.nextRecvMsg + 1 }
    else p

/-- A new packet of the connection: its number is marked received and its payload joins its message, unless the message has
been delivered already. -/
def takePacket (h : PktHdr) (payload : List Byte) (p : Peer) : Peer :=
  let next := if h.psn = p.recvPsn then advancePsn p.recvAhead 4096 ((h.psn + 1) % 2 ^ 32) else p.recvPsn
  let ahead := (if h.psn = p.recvPsn then p.recvAhead else insertNat h.psn p.recvAhead).filter (fun n => (n + 2 ^ 32 - next) % 2 ^ 32 < 4096)
  let p := { p with recvPsn := next, recvAhead := ahead }
  if h.msgId < p.nextRecvMsg then p
  else let p := { p with msgs := addPart h payload p.msgs }; deliver p.msgs.length p

/-- A DATA packet that passed its check: one of another version or connection, or outside the window or the message sizes,
is dropped; one received before counts for acknowledgement alone. -/
def dataFrom (i : Nat) (h : PktHdr) (payload : List Byte) (ce : Bool) (p : Peer) (s : State) : State :=
  let ahead := (h.psn + 2 ^ 32 - p.recvPsn) % 2 ^ 32
  if p.state ≠ 2 ∨ h.ver ≠ 1 ∨ h.ptype ≠ 1 ∨ h.conn ≠ p.ownConn ∨ h.msgLen < 16 ∨ h.msgLen > 1049616
      ∨ (4096 ≤ ahead ∧ ahead < 2 ^ 31) then s
  else
    let seen := ahead ≥ 2 ^ 31 || h.psn ∈ p.recvAhead
    let p := { p with sinceAck := p.sinceAck + 1, ceSince := p.ceSince + b2n ce }
    let p := if seen then p else takePacket { h with psn := h.psn % 2 ^ 32 } payload p
    let s := peerMod i (fun _ => p) s
    if p.sinceAck ≥ 8 then sendAck i s else s

/-- DATA_PACKET (R384 to R386); the port it came by matters nowhere. -/
def dataPacket (i : Nat) (known : Bool) (h : PktHdr) (payload : List Byte) (ce : Bool) (s : State) : State :=
  if !fabricOn s then s
  else if !known || !h.checkOk then bumpSat (reg .cst 12 0x158) 0 32 1 s
  else fromPeer i (dataFrom i h payload ce) s

def execDataPacket (peer : Nat) (known : Bool) (_port : Nat) (hdr : PktHdr) (payload : List Byte) (ce : Bool) (s : State) :
    Host.Outcome State Fault Refusal :=
  .next (dataPacket peer known hdr payload ce s)

/-- A packet number that an ACK acknowledges. -/
def ackHits (ackPsn : Nat) (bitmap : Word64) (psn : Nat) : Bool :=
  let d := (psn + 2 ^ 33 - (ackPsn + 1)) % 2 ^ 32
  d ≥ 2 ^ 31 || (d < 64 && bitmap.getLsbD d)

/-- The sending rate after an ACK of `a` packets of which `c` were marked, at time `now` (R387). -/
def rateCut (a c now : Nat) (p : Peer) : Peer :=
  let soon : Bool := match p.lastCut with
    | some t => now < t + 10000
    | none => false
  if c = 0 ∨ a = 0 ∨ soon = true then p
  else { p with rate := max (p.rate * (1 - (c : Rat) / (2 * a))) 1000, lastCut := some now }

/-- ACK (R386, R387). -/
def ackFrom (i ackPsn : Nat) (bitmap : Word64) (ce : Nat) (p : Peer) (s : State) : State :=
  if p.state ≠ 2 then s
  else
    let hit := ackHits ackPsn bitmap
    let a := (p.unacked.filter hit).length
    let left := p.outMsgs.map (fun m => { m with psns := m.psns.filter (fun n => !hit n) })
    let p := { p with unacked := p.unacked.filter (fun n => !hit n), outMsgs := left.filter (fun m => m.psns ≠ []),
                      timeoutUs := if a = 0 then p.timeoutUs else 20 }
    flushMsgs i p.queued.length (peerMod i (fun _ => rateCut a ce s.now p) s)

def execAck (peer ackPsn : Nat) (bitmap : Word64) (ce : Nat) (s : State) : Host.Outcome State Fault Refusal :=
  .next (fromPeer peer (ackFrom peer ackPsn bitmap ce) s)

/-- RESEND_TIMEOUT (R386, R387): the unacknowledged packets are resent, the timeout doubles and the rate halves. -/
def resendTimeout (i : Nat) (s : State) : State :=
  let p := peerOf s i
  if p.state ≠ 2 ∨ p.unacked = [] then s
  else
    peerMod i (fun p => { p with timeoutUs := min (2 * p.timeoutUs) 1000, rate := p.rate / 2 })
      (p.unacked.foldl (fun s n => emit (.resent i n) s) s)

def execResendTimeout (peer : Nat) (s : State) : Host.Outcome State Fault Refusal := .next (resendTimeout peer s)

/-- RATE_INCREASE (R387). -/
def rateIncrease (i : Nat) (s : State) : State :=
  peerMod i (fun p => if p.state = 2 ∧ p.rate < rateStart s p then { p with rate := min (p.rate + 5000) (rateStart s p) } else p) s

def execRateIncrease (peer : Nat) (s : State) : Host.Outcome State Fault Refusal := .next (rateIncrease peer s)

/-! ## Roles (R388) -/

/-- A message from a connected peer. -/
def msgFrom (i : Nat) (f : Peer → State → State) (s : State) : State :=
  match tget s.cst.peers i with
  | some p => if fabricOn s && p.enable && p.state = 2 then f p s else s
  | none => s

/-- A message for a role not granted: it is counted, and REJECT answers with reason 0x08. -/
def refuseRole (i q : Nat) (s : State) : State :=
  sendMsg i 5 false (BitVec.ofNat 64 (q + 8 * 2 ^ 16)) [] (bumpSat (reg .cst 12 0x158) 32 32 1 s)

/-! ## Remote commands (R397 to R399) -/

/-- The requester may send to the queue: REMOTE is granted, and the queue, where there is one, is a fabric-facing queue of the
entry's domain. -/
def remoteGranted (s : State) (p : Peer) (q : Nat) : Bool :=
  bit p.roles 1 && (match tget s.queues q with
    | none => true
    | some r => r.fabric && r.domain = p.domain)

/-- RCMD (R397): the message's last packet has arrived, and its command is committed or rejected. -/
def remoteCommit (i q : Nat) (cmd data : List Byte) (p : Peer) (s : State) : State :=
  if !remoteGranted s p q then refuseRole i q s
  else
    let area := slice cmd 0 0x78
    let cw := fld cmd 0x78 8
    let reason := commitReason s q area cw
    if reason = 0 then
      acceptCommit q (area ++ leBytes 8 cw) (some i) (data.take (2 ^ 20))
        { s with queues := tmod s.queues q (fun r => { r with peer := i }) }
    else
      let next := ((tget s.queues q).map Queue.nextSeq).getD 0
      sendMsg i 5 false (BitVec.ofNat 64 (q + reason * 2 ^ 16 + next * 2 ^ 24)) [] (rejectCommit q reason (bits cw 15 0) s)

def execRcmd (peer q : Nat) (cmd data : List Byte) (s : State) : Host.Outcome State Fault Refusal :=
  .next (drainAll (msgFrom peer (remoteCommit peer (q % 32768) cmd data) s))

/-- RCPL (R397): the oldest finished command of a fabric-facing queue answers its requester (log entry 73). -/
def sendRcpl (i q : Nat) (s : State) : State :=
  match s.cmds.find? (fun x => x.queue = q && x.sub.isNone && x.phase = .finished && x.remote = some i) with
  | some x => if s.chn.losing then s else postRecord x s
  | none => s

def execRcpl (peer q : Nat) (s : State) : Host.Outcome State Fault Refusal := .next (sendRcpl peer q s)

/-- REJECT from a peer: reason 0x08 fails the fan-outs that wait for it (R391). -/
def execReject (peer _q reason _nextSeq : Nat) (s : State) : Host.Outcome State Fault Refusal :=
  .next (drainAll (msgFrom peer (fun _ s => if reason = 8 then fansRejected peer s else s) s))

/-- EVENT (R399): the oldest event that waits for a connected peer is sent. -/
def sendEvent (i : Nat) (p : Peer) (s : State) : State :=
  match p.events with
  | [] => s
  | ev :: t =>
    sendMsg i 6 false 0 (evBytes ev false p.lostBefore) (peerMod i (fun p => { p with events := t, lostBefore := false }) s)

def execEvent (peer : Nat) (s : State) : Host.Outcome State Fault Refusal := .next (msgFrom peer (sendEvent peer) s)

/-! ## Mirroring at the partner (R400, R401) -/

/-- Records shipped by an owner: of at most four owners. -/
def mirrorHold (i : Nat) (recs : List MirrorRec) (p : Peer) (s : State) : State :=
  if recs = [] ∨ (!mirrors p ∧ (s.cst.peers.filter (fun q => mirrors q.2)).length ≥ 4) then s
  else
    let held := (p.mirror ++ p.mirrorLog ++ p.mirrorWait).map MirrorRec.seq
    mirrorTake i (peerMod i (fun p => { p with mirrorWait := p.mirrorWait ++ recs.filter (fun r => r.seq ∉ held) }) s)

/-- An MFETCH of this module that a message answers. -/
def fetchOf (s : State) (i : Nat) (recs : List MirrorRec) : Option (Nat × Nat × Nat) :=
  s.cst.fetches.find? (fun f => f.1 = i && recs.all (fun r => f.2.1 ≤ r.seq && r.seq ≤ f.2.2))

/-- MREC (R400, R401): the answer to an MFETCH, whose records STRIPE_LOST has taken (log entry 77), or records to hold. -/
def mrecFrom (i : Nat) (recs : List MirrorRec) (p : Peer) (s : State) : State :=
  match fetchOf s i recs with
  | some f => cstMod (fun c => { c with fetches := c.fetches.erase f }) s
  | none => if bit p.roles 3 then mirrorHold i recs p s else refuseRole i 0 s

def execMrec (peer : Nat) (recs : List MirrorRec) (s : State) : Host.Outcome State Fault Refusal :=
  .next (msgFrom peer (mrecFrom peer recs) s)

/-- MFETCH (R401): the records still held in a range, none where it is no longer held. -/
def mfetchFrom (i first last : Nat) (p : Peer) (s : State) : State :=
  if !bit p.roles 3 then refuseRole i 0 s
  else
    let rs := (p.mirrorLog ++ p.mirror).filter (fun r => first ≤ r.seq && r.seq ≤ last)
    sendMsg i 0x10 false (BitVec.ofNat 64 ((rs.head?.map MirrorRec.seq).getD first)) (rs.flatMap MirrorRec.image) s

def execMfetch (peer first last : Nat) (s : State) : Host.Outcome State Fault Refusal :=
  .next (msgFrom peer (mfetchFrom peer first last) s)

/-- A record that an MTRIM lets the partner discard. -/
def trimmed (ckptSeq : Nat) (dead : List (Nat × Nat)) (r : MirrorRec) : Bool :=
  if r.source then dead.any (fun d => d.1 ≤ r.seq && r.seq ≤ d.2) && r.seq ≤ ckptSeq else r.seq ≤ ckptSeq

/-- MTRIM (R400). -/
def mtrimFrom (i ckptSeq : Nat) (dead : List (Nat × Nat)) (p : Peer) (s : State) : State :=
  if !bit p.roles 3 then refuseRole i 0 s
  else
    let keep := fun (r : MirrorRec) => !trimmed ckptSeq dead r
    let s := peerMod i (fun p => { p with mirror := p.mirror.filter keep, mirrorLog := p.mirrorLog.filter keep }) s
    s.cst.peers.foldl (fun s q => mirrorTake q.1 s) s

def execMtrim (peer ckptSeq : Nat) (dead : List (Nat × Nat)) (s : State) : Host.Outcome State Fault Refusal :=
  .next (msgFrom peer (mtrimFrom peer ckptSeq (dead.take 65536)) s)

/-! ## Mirroring at the owner (R309, R400, R401) -/

/-- MACK (R309, R400): records are acknowledged, and shipping goes on. -/
def mackFrom (i seq : Nat) (s : State) : State :=
  if !mirrorOn s || i ≠ mirrorPeer s then s
  else
    let s := cstMod (fun c => { c with mirrorAck := max c.mirrorAck seq, mirrorPaused := false }) s
    let s := bagMod (fun b => { b with recs := b.recs.map (fun r =>
      if r.seq ≤ seq && r.seq ≥ s.cst.mirrorFrom then { r with mirrored := true } else r) }) s
    wakeFlush (shipRest s)

def execMack (peer seq : Nat) (s : State) : Host.Outcome State Fault Refusal :=
  .next (drainAll (msgFrom peer (fun _ s => mackFrom peer seq s) s))

/-- CST_MIRROR timeout_us. -/
def mirrorTimeoutUs (s : State) : Nat := bits (regGet s (reg .cst 12 0x140)).toNat 48 32

/-- Records that have been without acknowledgement for the mirror timeout. -/
def overdue (s : State) : List JRec :=
  s.bag.recs.filter (fun r => r.seq ≥ s.cst.mirrorFrom && !r.mirrored && !r.mirrorLost && s.now ≥ r.at_ + mirrorTimeoutUs s * 1000)

/-- Deferred entries of the entry mutations among lost mirror copies, domain by domain. -/
def deferMirror (rs : List JRec) (s : State) : State :=
  let own := fun (r : JRec) => if (tget s.colls r.coll).isSome then ownerOf s r.coll else r.domain
  let ents := rs.filter (fun r => 1 ≤ r.type && r.type ≤ 4)
  let doms := ents.foldl (fun a r => insertNat (own r) a) []
  doms.foldl (fun s d => deferAll d ((ents.filter (fun r => own r = d)).map (fun r =>
    deferredOf r ((r.entry.map (fun e => e.record.vid)).getD 0xFFFF_FFFF_FFFF) stMirrorLost 4 0)) s) s

/-- MIRROR_TIMEOUT (R309, R401). -/
def mirrorTimeout (s : State) : State :=
  let rs := overdue s
  if !mirrorOn s || rs = [] then s
  else
    let lost := rs.map JRec.seq
    let s := bagMod (fun b => { b with recs := b.recs.map (fun r => if r.seq ∈ lost then { r with mirrorLost := true } else r) }) s
    let s := deferMirror rs (cstMod (fun c => { c with mirrorPaused := true }) s)
    let s := blkFault (blkPage .cst 12) 1 0 (BitVec.ofNat 64 (mirrorPeer s)) s
    wakeFlush (raise .cst (mkEv 0x00F3 1 .cst 12 0xFFFF 0 (mirrorPeer s) s.cst.mirrorAck rs.length) s)

def execMirrorTimeout (s : State) : Host.Outcome State Fault Refusal := .next (drainAll (mirrorTimeout s))

/-! ## Register rows -/

def peerSel (s : State) : Nat := bits (regGet s (reg .cst 12 0x120)).toNat 9 0

/-- Change the selected peer entry, which comes into being when it is first written. -/
def peerPut (i : Nat) (f : Peer → Peer) (s : State) : State :=
  cstMod (fun c => { c with peers := tset c.peers i (f ((tget c.peers i).getD peerZero)) }) s

/-- An enabled entry begins to connect. -/
def peerStart (i : Nat) (s : State) : State := sendHello i false (newConn i (peerMod i (fun p => { p with state := 1 }) s))

/-- A connection is closed from this side: CLOSE, and the entry is left in `state`. -/
def peerStop (i state : Nat) (s : State) : State :=
  let p := peerOf s i
  let clear := fun (p : Peer) => { p with state := state, unacked := [], outMsgs := [], queued := [], events := [], msgs := [], recvAhead := [] }
  if p.state = 2 then fansDown i (raisePeer i 1 (peerMod i clear (emit (.fabricClose i) s))) else peerMod i clear s

/-- A write of CST_PEER_CTL (R388). -/
def peerCtl (v : Word64) (s : State) : State :=
  let i := peerSel s
  let p := peerOf s i
  let en := v.getLsbD 32
  let dom := bits v.toNat 31 24
  let roles := bits v.toNat 19 16
  if p.enable ∧ en then
    if dom = p.domain ∧ roles = p.roles then s else regViolation3 .cst 12 0x138 s
  else
    let s := peerPut i (fun p => { p with domain := dom, roles := roles, enable := en }) s
    if en then (if fabricOn s then peerStart i s else peerMod i (fun p => { p with state := 1 }) s)
    else if p.enable then peerStop i 0 s
    else s

/-- CST_PEER_CTL_WRITE (R388). -/
def execCstPeerCtlWrite (v : Word64) (s : State) : Host.Outcome State Fault Refusal :=
  .next (drainAll (regRow .cst 12 0x138 (peerCtl v) s))

/-- Shipping starts with the next record written; to the partner of before a cold reset it resumes with the next
unacknowledged record (Table 19.2). -/
def mirrorStart (partner : Nat) (s : State) : State :=
  if s.cst.mirrorLast = some partner then
    cstMod (fun c => { c with mirrorSent := max c.mirrorAck (c.mirrorFrom - 1), mirrorPaused := false, mirrorLast := none }) s
  else
    cstMod (fun c => { c with mirrorFrom := s.bag.nextSeq, mirrorSent := s.bag.nextSeq - 1, mirrorAck := 0, mirrorPaused := false,
                              mirrorLast := none }) s

/-- A write of CST_MIRROR (R400, R401): enabling, or another partner, starts shipping. -/
def mirrorWrite (v : Word64) (s : State) : State :=
  let en := v.getLsbD 16
  let partner := bits v.toNat 9 0
  let start := en && (!mirrorOn s || partner ≠ mirrorPeer s)
  let w := setBits (v &&& 0x1_FFFF_0001_03FF) 48 32 (clampNat 100 100000 (bits v.toNat 48 32))
  let s := regSet (reg .cst 12 0x140) w s
  wakeFlush (if start then shipRest (mirrorStart partner s) else s)

/-- CST_MIRROR_WRITE (R400). -/
def execCstMirrorWrite (v : Word64) (s : State) : Host.Outcome State Fault Refusal :=
  .next (drainAll (regRow .cst 12 0x140 (mirrorWrite v) s))

/-- A write of CST_SHARD (R389): a change is a violation while a sub-query runs. -/
def shardWrite (v : Word64) (s : State) : State :=
  let w := v &&& 0x1FFF
  if w ≠ regGet s (reg .cst 12 0x118) && s.cmds.any (fun x => x.sub.isSome) then regViolation3 .cst 12 0x118 s
  else regSet (reg .cst 12 0x118) w s

/-- CST_SHARD_WRITE (R389). -/
def execCstShardWrite (v : Word64) (s : State) : Host.Outcome State Fault Refusal :=
  .next (regRow .cst 12 0x118 (shardWrite v) s)

/-- A write of CST_NET: fields other than enable are writable only while it is 0; turning Consort on starts the enabled peers'
connections, turning it off closes them. -/
def netWrite (v : Word64) (s : State) : State :=
  let o := reg .cst 12 0x110
  let on := fabricOn s
  let en := v.getLsbD 0
  let s := if on then regField o 0 0 (b2n en) s else regSet o (v &&& 0xFFFF_FFFF_FF0F) s
  let peers := (s.cst.peers.filter (fun p => p.2.enable)).map Prod.fst
  if en && !on then peers.foldl (fun s i => peerStart i s) s
  else if on && !en then peers.foldl (fun s i => peerStop i 1 s) s
  else s

end Sys2Proof.Machine
end

