-- ==== Sys2Proof/Machine/Bellows.lean ====
section
/-! DEFINITION. Bellows (chapter 16): rates and rails, the floor, wear, phases, power, temperature, the register writes that
steer them and the user calibration; and the entry to OFF (R446). -/

namespace Sys2Proof.Machine

def blwMod (f : Bellows → Bellows) (s : State) : State := { s with blw := f s.blw }

/-! ## Rate and voltage (R405, R406, R410) -/

/-- Rows of Table 16.2: voltage in steps of 2.5 mV and rate in M events/s. -/
def rateRows : List (Nat × Nat) := [(220, 900), (240, 1100), (260, 1300), (280, 1500), (300, 1633), (320, 1767), (340, 1900)]

/-- The typical rate at 80 °C in M events/s, linear between the rows. -/
def rateBetween : List (Nat × Nat) → Nat → Rat
  | (v, r) :: (w, q) :: t, x =>
    if x ≤ w then (r : Rat) + ((q : Rat) - r) * ((x : Rat) - v) / ((w : Rat) - v) else rateBetween ((w, q) :: t) x
  | [(_, r)], _ => r
  | [], _ => 0

def tableRate (steps : Nat) : Rat := rateBetween rateRows steps

/-- The rate of a monitor at a voltage, its temperature and its factory offset (R406, R407). -/
def monitorRate (steps : Nat) (tenths hundredths : Int) : Rat :=
  tableRate steps * (1 - ((tenths : Rat) / 10 - 80) / 1000) * (1 + (hundredths : Rat) / 10000)

/-- The lowest voltage, up to 0.85 V, at which a monitor reaches a rate in M events/s. -/
def needSteps (rate : Rat) (tenths hundredths : Int) : Nat :=
  (((List.range 121).map (· + 220)).find? (fun v => rate ≤ monitorRate v tenths hundredths)).getD 340

/-- A queue of a bounded class is enabled. -/
def boundedEnabled (s : State) : Bool := s.queues.any (fun p => (s.classes[p.2.cls]?).any Cls.bounded)

/-- Bounded commands in execution, which were admitted. -/
def boundedRunning (s : State) : List Nat := (s.cmds.filter (fun x => x.bounded && x.phase ≠ .waiting)).map Cmd.id

/-- A value and those that earlier commands were admitted against and that must still be kept: the highest. -/
def keptMax (s : State) (now : Nat) (old : List (Nat × List Nat)) : Nat :=
  old.foldl (fun m o => if o.2.any (fun c => (cmdGet s c).isSome) then max m o.1 else m) now

def guardReg (s : State) : Nat := bits (regGet s (reg .blw 0 0x1A0)).toNat 7 0

/-- The floor that regulation holds, in 10 M events/s (R410, R413, R445). -/
def regFloor (s : State) : Nat :=
  if !boundedEnabled s || (s.chn.mode = .hold && boundedRunning s = []) then 100 else keptMax s s.blw.floorReg s.blw.oldFloors

/-- A floor in 10 M events/s with a guard band, as a rate in M events/s. -/
def guarded (floor guard : Nat) : Rat := (floor : Rat) * 10 * (1 + (guard : Rat) / 1000)

/-- Voltage that a rail needs for a floor. -/
def railNeed (s : State) (r floor : Nat) : Nat :=
  let m := s.blw.sense.getD r (800, 0)
  needSteps (guarded floor (keptMax s (guardReg s) s.blw.oldGuards)) m.1 m.2

/-- A rail's user offset in mV (BLW_OFS_RAIL). -/
def railOfs (s : State) (r : Nat) : Int := signed 8 (bits (regGet s (reg .blw 0 0x170)).toNat (8 * r + 7) (8 * r))

/-- The lowest step at which the rate at a temperature is 0.90 G events/s, and the highest at which it is 1.90 G events/s
(R406): a hot rail's lowest voltage is raised and a cool rail's highest lowered. -/
def lowStep (tenths : Int) : Nat := needSteps 900 tenths 0

def highStep (tenths : Int) : Nat := 340 - (((List.range 121).find? (fun d => monitorRate (340 - d) tenths 0 ≤ 1900)).getD 120)

/-- The step above a voltage with its offset, within 0.55 V and 0.85 V (R423) and the range that a rail's temperature leaves
(R406). -/
def railStep (s : State) (r : Nat) (mvTwice : Int) : Nat :=
  let t := (s.blw.sense.getD r (800, 0)).1
  clampNat (lowStep t) (highStep t) (((mvTwice + 4) / 5).toNat)

/-- The voltage Bellows sets on a rail (R410, R415): what the floor needs, or BLW_VTARGET while the cap does not lower it. -/
def railTarget (s : State) (r : Nat) : Nat :=
  let need := railNeed s r (regFloor s)
  let vt := bits (regGet s (reg .blw 0 0x110)).toNat 9 0
  let base : Int := if s.blw.lowering then 5 * need else max (5 * need : Int) (2 * vt)
  railStep s r (base + 2 * railOfs s r)

/-- Move toward a target by at most 5 mV. -/
def railMove (now target : Nat) : Nat := if target ≥ now then min target (now + 2) else max target (now - 2)

/-- MONITOR_SAMPLE (R407, R411): a rail's slowest in-service monitor reports, and the rail moves. -/
def monitorSample (r slowest : Nat) (tenths hundredths : Int) (s : State) : State :=
  if r ≥ 5 ∨ s.chn.stage = 0 then s
  else
    let s := blwMod (fun b => { b with slowest := b.slowest.set r (min slowest 65535), sense := b.sense.set r (tenths, hundredths) }) s
    let v := railMove (s.blw.rails.getD r 0) (railTarget s r)
    blwMod (fun b => { b with rails := b.rails.set r v }) s

def execMonitorSample (rail slowest tempTenths : Nat) (ofsHundredths : Int) (s : State) : Host.Outcome State Fault Refusal :=
  .next (monitorSample rail slowest tempTenths ofsHundredths s)

/-! ## The floor (R411 to R413) -/

/-- FLOOR_WINDOW (R411): counts of the slowest in-service monitor of each rail over 10 µs. A window not held is counted, and
bounded commands in execution met it. -/
def floorWindow (counts : List Nat) (s : State) : State :=
  let need := keptMax s s.blw.floorReg s.blw.oldFloors * 100
  let o := reg .blw 0 0x140
  if (List.range 5).all (fun r => need ≤ counts.getD r 0) then regField o 0 0 1 s
  else
    let s := bumpSat o 1 31 1 (regField o 0 0 0 (regField o 63 32 (s.now / 1000000 % 2 ^ 32) s))
    let s := blwMod (fun b => { b with notHeld := b.notHeld + 1 }) s
    { s with cmds := s.cmds.map (fun x => if x.bounded && x.phase ≠ .waiting then { x with floorMiss := true } else x) }

def execFloorWindow (counts : List Nat) (s : State) : Host.Outcome State Fault Refusal := .next (floorWindow counts s)

/-- FLOOR_LOST (R412). -/
def floorLost (r best : Nat) (s : State) : State :=
  if r ≥ 5 ∨ r ∈ s.blw.floorLost then s
  else
    let s := blwMod (fun b => { b with floorLost := insertNat r b.floorLost, notHeld := if b.floorLost = [] then 0 else b.notHeld }) s
    raise .blw (mkEv 0x0100 2 .blw 0 0xFFFF 0 r best 0) (blkFault (blkPage .blw 0) 0 0 (BitVec.ofNat 64 r) s)

def execFloorLost (rail best : Nat) (s : State) : Host.Outcome State Fault Refusal := .next (drainAll (floorLost rail best s))

/-- FLOOR_RESTORED (R412): the floor has been held for 1 ms. -/
def floorRestored (r : Nat) (s : State) : State :=
  if r ∉ s.blw.floorLost then s
  else raise .blw (mkEv 0x0101 0 .blw 0 0xFFFF 0 r s.blw.notHeld 0) (blwMod (fun b => { b with floorLost := b.floorLost.filter (· ≠ r) }) s)

def execFloorRestored (rail : Nat) (s : State) : Host.Outcome State Fault Refusal := .next (drainAll (floorRestored rail s))

/-! ## Wear and phases (R408, R414) -/

/-- Row of Table 16.3, from 1, of a unit's monitors; 0 for a unit without any. -/
def paceRow (kind : Nat) : Nat := if 1 ≤ kind ∧ kind ≤ 6 then kind else if kind = 9 then 7 else 0

/-- info0 of PACE_WEAR, as BLW_WEAR shows it too. -/
def paceInfo (u : UnitId) : Nat := paceRow u.kind + unitTower u * 2 ^ 8 + mapLogical u % 65536 * 2 ^ 16

/-- A monitor with a slowdown does not reach the floor with its guard band at 0.85 V (R408); its factory offset is not known by
its unit and counts as none (log entry 115). -/
def floorBeyond (s : State) (u : UnitId) (slow : Nat) : Bool :=
  let r := if unitTower u = 0xFF then 4 else unitTower u
  let m := s.blw.sense.getD r (800, 0)
  monitorRate 340 m.1 0 * (1 - (slow : Rat) / 1000) < guarded (regFloor s) (keptMax s (guardReg s) s.blw.oldGuards)

/-- PACE_WEAR (R408): slowdown in 0.1 % over 1 s. At 4 % it is reported; at 7 %, or out of reach of the floor, the unit is
retired too. -/
def paceWear (u : UnitId) (slow : Nat) (s : State) : State :=
  if paceRow u.kind = 0 || !unitKnown u || unitGone s u || u ∈ s.blw.asleep then s
  else
    let others := s.blw.worn.filter (fun p => p.1 ≠ u)
    if slow < 40 then blwMod (fun b => { b with worn := others }) s
    else
      let s := blwMod (fun b => { b with worn := others ++ [(u, slow)] }) s
      let s := raise .blw (mkEv 0x0102 1 .blw 0 0xFFFF 0 (paceInfo u) slow 0) s
      if slow ≥ 70 then retireAny u 1 s else if floorBeyond s u slow then retireAny u 2 s else s

def execPaceWear (u : UnitId) (slowdown : Nat) (s : State) : Host.Outcome State Fault Refusal :=
  .next (drainAll (paceWear u slowdown s))

/-- The logical phase that a physical phase serves. -/
def phaseServes (s : State) (phase : Nat) : Option Nat :=
  (List.range 184).find? (fun l => physicalOf s 7 l = phase && !unitGone s { kind := 7, logical := l })

/-- PHASE_SPARED (R414): a phase in use leaves its limits; a spare takes its place, or HOLD begins. -/
def phaseSpared (phase : Nat) (s : State) : State :=
  match phaseServes s phase with
  | none => s
  | some l =>
    let left := sparesLeft s 7 l
    let spare := if left = 0 then 0xFF else nextSpare s 7 l
    let s := blkFault (blkPage .blw 0) 3 0 (BitVec.ofNat 64 (phase + spare * 2 ^ 8)) s
    let s := retireUnit { kind := 7, logical := l } phase 8 s
    raise .blw (mkEv 0x0105 (if left = 0 then 3 else 0) .blw 0 0xFFFF 0 (phase + spare * 2 ^ 8) (left - 1) 0) s

def execPhaseSpared (phase : Nat) (s : State) : Host.Outcome State Fault Refusal := .next (drainAll (phaseSpared phase s))

/-! ## Power (R415, R417, R456) -/

/-- P_base + P_res in whole W. -/
def reservedW (s : State) : Nat := pBase s + (pRes s).floor.toNat

/-- POWER_CAPPED while work is throttled, at most once per second (R417). -/
def raiseCapped (s : State) : State :=
  let soon : Bool := match s.blw.cappedAt with
    | some t => s.now < t + 1000000000
    | none => false
  if !s.blw.throttle || soon then s
  else raise .blw (mkEv 0x0103 0 .blw 0 0xFFFF 0 (effCap s) (reservedW s) 0) (blwMod (fun b => { b with cappedAt := some s.now }) s)

/-- POWER_SAMPLE (R415, R456): the 100 ms averages of input power and voltage after a sample. Above the cap the rails are
lowered toward the floor's voltage, and once they are there work is throttled; within it the means are taken back (log entry 79). -/
def powerSample (watts mv : Nat) (s : State) : State :=
  let s := regField (reg .blw 0 0x148) 63 48 (min watts 65535) (blwMod (fun b => { b with inputCap := 33 * mv / 1000 }) s)
  let atFloor := (List.range 5).all (fun r => s.blw.rails.getD r 0 ≤ railStep s r (5 * railNeed s r (regFloor s) + 2 * railOfs s r))
  let s := blwMod (fun b =>
    if watts > effCap s then { b with lowering := true, throttle := b.throttle || atFloor }
    else if b.throttle then { b with throttle := false }
    else { b with lowering := false }) s
  raiseCapped s

def execPowerSample (inputW inputMv : Nat) (s : State) : Host.Outcome State Fault Refusal :=
  .next (drainAll (powerSample inputW inputMv s))

/-- POWER_PEAK (R415, R456): above 1,700 W or 40.0 A no new Bore region is issued, until power falls below 1,600 W. -/
def powerPeak (watts milliamps : Nat) (s : State) : State :=
  if watts > 1700 ∨ milliamps > 40000 then blwMod (fun b => { b with borePaused := true }) s
  else if watts < 1600 then blwMod (fun b => { b with borePaused := false }) s
  else s

def execPowerPeak (watts milliamps : Nat) (s : State) : Host.Outcome State Fault Refusal := .next (powerPeak watts milliamps s)

/-! ## OFF and temperature (R418, R446) -/

/-- The module enters OFF: MODE_CHANGED is posted, then the power-loss sequence runs. -/
def goOff (s : State) : State :=
  if s.chn.mode = .off then s else beginLoss (drainAll (setMode .off s))

/-- THERMAL. -/
def raiseThermal (sev no : Nat) (t : Int) (s : State) : State :=
  raise .blw (mkEv 0x0104 sev .blw 0 0xFFFF 0 no (unsigned 64 t) 0) (blkFault (blkPage .blw 0) 2 0 (BitVec.ofNat 64 no) s)

/-- Whole degrees above a limit, of a temperature in 0.1 °C. -/
def degreesOver (limit : Nat) (t : Int) : Nat := ((t - 10 * limit) / 10).toNat

/-- TEMPERATURE_SAMPLE (R418): the hottest die and stack, in 0.1 °C, and how long the die has been at 110 °C or above. The cap
falls by 50 W for each whole degree above a limit, the greater excess counting; THERMAL reports each crossing of a limit. -/
def temperatureSample (die : Nat) (dieT : Int) (stack : Nat) (stackT : Int) (heldUs : Nat) (s : State) : State :=
  let o := reg .blw 0 0x150
  let old := (regGet s o).toNat
  let dieWas := signed 16 (bits old 55 40)
  let stackWas := signed 16 (bits old 23 8)
  let s := regSet o (BitVec.ofNat 64 (die % 9 * 2 ^ 56 + unsigned 16 dieT * 2 ^ 40 + stack % 12 * 2 ^ 24 + unsigned 16 stackT * 2 ^ 8)) s
  let s := blwMod (fun b => { b with thermalCut := 50 * max (degreesOver 100 dieT) (degreesOver 90 stackT) }) s
  let s := if dieT > 1000 ∧ dieWas ≤ 1000 then raiseThermal 1 die dieT s else s
  let s := if stackT > 900 ∧ stackWas ≤ 900 then raiseThermal 1 stack stackT s else s
  if dieT ≥ 1100 ∧ heldUs ≥ 1000 ∧ s.chn.mode ≠ .off then
    goOff (raiseThermal 3 die dieT (blwMod (fun b => { b with tripped := true }) s))
  else s

def execTemperatureSample (die : Nat) (dieT : Int) (stack : Nat) (stackT : Int) (heldUs : Nat) (s : State) :
    Host.Outcome State Fault Refusal :=
  .next (drainAll (temperatureSample die dieT stack stackT heldUs s))

/-- COOLANT_VALVE_UPDATE (R467). -/
def execCoolantValveUpdate (position : Nat) (s : State) : Host.Outcome State Fault Refusal :=
  .next (blwMod (fun b => { b with valve := position }) s)

/-! ## Register writes (R413, R417, R424) -/

/-- Old values that admitted commands still need. -/
def keepOld (s : State) (old : List (Nat × List Nat)) (v : Nat) : List (Nat × List Nat) :=
  (old.filter (fun o => o.2.any (fun c => (cmdGet s c).isSome)))
    ++ (if boundedRunning s = [] then [] else [(v, boundedRunning s)])

/-- The floor becomes `n`; after a lowering, regulation keeps the old one for the bounded commands already admitted. -/
def setFloor (n : Nat) (s : State) : State :=
  let old := if n < s.blw.floorReg then keepOld s s.blw.oldFloors s.blw.floorReg else s.blw.oldFloors
  regField (reg .blw 0 0x100) 7 0 n (blwMod (fun b => { b with floorReg := n, oldFloors := old }) s)

/-- P_base + P_res with each rail at the voltage that a floor needs (R413), in millionths of a W. -/
def floorPower (s : State) (floor : Nat) : Rat :=
  (List.range 5).foldl (fun a r =>
    let need : Rat := railNeed s r floor
    let now : Rat := max 1 (s.blw.rails.getD r 1)
    a + (Config.railPart r : Rat) * ((pBase s : Rat) + pRes s) * (need * need / (now * now))) 0

/-- A write of BLW_FLOOR (R413): a raise beyond what the cap allows is refused. -/
def floorWrite (v : Word64) (s : State) : State :=
  let n := clampNat 100 170 (bits v.toNat 7 0)
  if n > s.blw.floorReg ∧ floorPower s n > (effCap s : Rat) * 1000000 then blkFault (blkPage .blw 0) 1 0 (BitVec.ofNat 64 n) s
  else setFloor n s

def execBlwFloorWrite (v : Word64) (s : State) : Host.Outcome State Fault Refusal := .next (floorWrite v s)

/-- A write of BLW_CAP (R417): a lowering throttles unbounded work at once. -/
def capWrite (v : Word64) (s : State) : State :=
  let n := clampNat 600 1450 (bits v.toNat 10 0)
  let lower := n < capReg s
  blwMod (fun b => { b with throttle := b.throttle || lower }) (regField (reg .blw 0 0x108) 10 0 n s)

def execBlwCapWrite (v : Word64) (s : State) : Host.Outcome State Fault Refusal := .next (capWrite v s)

/-- BLW_VTARGET_WRITE (R410). -/
def execBlwVtargetWrite (v : Word64) (s : State) : Host.Outcome State Fault Refusal :=
  .next (regField (reg .blw 0 0x110) 9 0 (clampNat 550 850 (bits v.toNat 9 0)) s)

/-- The guard band becomes `n`, as the floor does (R424). -/
def setGuard (n : Nat) (s : State) : State :=
  let old := if n < guardReg s then keepOld s s.blw.oldGuards (guardReg s) else s.blw.oldGuards
  regField (reg .blw 0 0x1A0) 7 0 n (blwMod (fun b => { b with oldGuards := old }) s)

/-- BLW_GUARD_WRITE (R424). -/
def execBlwGuardWrite (v : Word64) (s : State) : Host.Outcome State Fault Refusal :=
  .next (setGuard (clampNat 10 50 (bits v.toNat 7 0)) s)

/-! ## User calibration (R422 to R424) -/

/-- The runtime values as a calibration record. -/
def runtimeUCal (s : State) (seq : Nat) : UCal :=
  let sl := (regGet s (reg .blw 0 0x158)).toNat
  { seq := seq, floor := s.blw.floorReg, cap := capReg s, vtarget := bits (regGet s (reg .blw 0 0x110)).toNat 9 0, guard := guardReg s,
    sleepEn := bit sl 0, railOfs := (List.range 5).map (railOfs s), idleUs := bits sl 29 16, minAwake := bits sl 11 8,
    trims := s.blw.run.trims, serdes := s.blw.run.serdes }

/-- A record's values become the runtime values. -/
def applyUCal (u : UCal) (s : State) : State :=
  let s := setGuard u.guard (setFloor u.floor s)
  let s := regField (reg .blw 0 0x110) 9 0 u.vtarget (regField (reg .blw 0 0x108) 10 0 u.cap s)
  let o := reg .blw 0 0x158
  let s := regField o 29 16 u.idleUs (regField o 11 8 u.minAwake (regField o 0 0 (b2n u.sleepEn) s))
  let ofs := (List.range 5).foldl (fun a r => a + unsigned 8 (u.railOfs.getD r 0) * 256 ^ r) 0
  blwMod (fun b => { b with run := { b.run with trims := u.trims, serdes := u.serdes } }) (regSet (reg .blw 0 0x170) (BitVec.ofNat 64 ofs) s)

/-- SAVE: a new record with seq one higher begins to be written; while a save runs it is ignored. -/
def ucalSave (s : State) : State :=
  if s.blw.saving.isSome then s
  else regField (reg .blw 0 0x198) 10 9 0 (blwMod (fun b => { b with saving := some (runtimeUCal s (b.saved.seq + 1)) }) s)

/-- UCAL_SAVE (R424). -/
def execUcalSave (s : State) : Host.Outcome State Fault Refusal := .next (ucalSave s)

/-- UCAL_SAVE_DONE (R424): the record is in the bank that did not hold the current one, or the save has failed. -/
def ucalSaved (ok : Bool) (s : State) : State :=
  match s.blw.saving with
  | none => s
  | some u =>
    let o := reg .blw 0 0x198
    if ok then regField o 9 9 1 (blwMod (fun b => { b with saving := none, saved := u, other := if b.savedValid then some b.saved else none,
                                                             bankB := !b.bankB, savedValid := true }) s)
    else regField o 10 10 1 (blwMod (fun b => { b with saving := none }) s)

def execUcalSaveDone (ok : Bool) (s : State) : Host.Outcome State Fault Refusal := .next (ucalSaved ok s)

/-- FACTORY: every runtime value at its default and every offset zero, unless a save runs. -/
def ucalFactory (s : State) : State := if s.blw.saving.isSome then s else applyUCal ucalDefault s

/-- UCAL_FACTORY (R424). -/
def execUcalFactory (s : State) : Host.Outcome State Fault Refusal := .next (ucalFactory s)

end Sys2Proof.Machine
end

