-- ==== Sys2Proof/Machine/Recover.lean ====
section
/-! DEFINITION. Recovery of the durable state (R324, R325, R329): the choice of a root, the load of its image, the replay of the
log and of the sealed dump, and the root that follows. -/

namespace Sys2Proof.Machine

/-! ## The root (R324) -/

/-- What the root banks hold at a start. -/
inductive RootFound where
  /-- all root blocks erased, as at manufacture and after FORMAT -/
  | erased
  /-- a valid root with its image; true when it is the current one, and true when the other bank is not valid -/
  | root (r : Root) (img : Image) (current other : Bool)
  /-- neither bank is valid -/
  | invalid

/-- The root that a start uses: that of the valid bank with the higher root_seq, when banks A and B may be unreadable. -/
def findRoot (badA badB : Bool) (s : State) : RootFound :=
  let b := s.bag
  if b.rootsErased then .erased
  else
    let bad := fun (bankB : Bool) => if bankB then badB else badA
    let cur := b.rootsValid && !bad b.root.bankB
    match cur, b.oldRoot with
    | true, o => .root b.root b.image true (!(o.any (fun p => !bad p.1.bankB)))
    | false, some (r, img) => if bad r.bankB then .invalid else .root r img false true
    | false, none => .invalid

/-! ## Loading the image -/

/-- Take a slot out of a collection's tables and structures. -/
def clearSlot (slot : Nat) (c : Coll) : Coll :=
  { c with entries := tdel c.entries slot, tombs := tdel c.tombs slot,
           arr := { c.arr with parts := c.arr.parts.map (fun p => (p.1, { p.2 with slots := p.2.slots.filter (· ≠ slot) })),
                               nodes := (tdel c.arr.nodes slot).map (fun p => (p.1, p.2.filter (· ≠ slot))),
                               entrySet := c.arr.entrySet.filter (· ≠ slot), side := c.arr.side.filter (· ≠ slot),
                               tombLog := tdel c.arr.tombLog slot } }

/-- Ages of entries count from the recovery (log entry 84). -/
def imageLoaded (now : Nat) (c : Coll) : Coll := { c with entries := c.entries.map (fun p => (p.1, { p.2 with at_ := now })) }

/-- The image is loaded into the tiers. -/
def loadImage (img : Image) (s : State) : State :=
  { s with colls := img.colls.map (fun p => (p.1, imageLoaded s.now p.2)), domains := img.domains, progs := img.progs, tables := img.tables }

/-- An entry that a lost extent of the image held (Table 12.10): absent, deferred with RECORD, its collection INCOMPLETE. -/
def loseImageEntry (media : Nat) (p : Nat × Nat) (s : State) : State :=
  match (tget s.colls p.1).bind (fun c => tget c.entries p.2) with
  | none => s
  | some e =>
    deferAll (ownerOf s p.1) [{ seq := e.seq, vid := e.record.vid, coll := p.1, status := stMediaLost, queue := e.queue, tag := e.tag,
                                dflags := 2, media := BitVec.ofNat 64 media, no := 0 }]
      (countLost 1 (collMod p.1 (fun c => { clearSlot p.2 c with incomplete := true }) s))

/-- The losses of the image area (Table 12.10). -/
def loadGone (g : Gone) (media : Nat) (s : State) : State :=
  let s := g.entries.foldl (fun s p => loseImageEntry media p s) s
  { s with progs := s.progs.map (fun p => if p.1 ∈ g.progs then (p.1, { p.2 with lost := some media }) else p),
           tables := s.tables.map (fun p => if p.1 ∈ g.tables then (p.1, { p.2 with lost := some media }) else p) }

/-! ## Replay (R325) -/

/-- RECOVERY_GAP. -/
def recoveryGap (h : Nat) (r : JRec) (s : State) : State :=
  raise .bag { mkEv 0x00C7 2 .bag 0 0xFFFF (recMedia r) (h % 4096) r.seq 0 with coll := h } s

def markIncomplete (h : Nat) (s : State) : State :=
  if h = 0xFFFF then { s with colls := s.colls.map (fun p => (p.1, { p.2 with incomplete := true })) }
  else collMod h (fun c => { c with incomplete := true }) s

/-- A record that a command or a mutation wrote, and not Drone's commit or a store's own change. -/
def ofCommand (r : JRec) : Bool := r.queue ≠ 0xFFFF || r.type ≤ 4

/-- A record in a lost stripe (R329, Table 12.10): its mutation is absent, and the collection that it names INCOMPLETE. -/
def loseReplayed (r : JRec) (s : State) : State :=
  let vid := (r.entry.map (fun e => e.record.vid)).getD 0xFFFF_FFFF_FFFF
  if r.headerLost then
    deferAll 0 [{ deferredOf r 0xFFFF_FFFF_FFFF stMediaLost 2 (recMedia r) with coll := 0xFFFF }] (markIncomplete 0xFFFF s)
  else
    let s := countLost (b2n (isSource r)) (if r.coll = 0xFFFF then s else markIncomplete r.coll s)
    let d := if (tget s.colls r.coll).isSome then ownerOf s r.coll else r.domain
    if ofCommand r then deferAll d [deferredOf r vid stMediaLost (2 + b2n (isSource r)) (recMedia r)] s else s

/-- The entry that a replayed record leaves: its own, or for a SET_ATTR the record image beside the old entry's code and
source. -/
def replayedEntry (r : JRec) (e : Entry) (old : Option Entry) : Entry :=
  match r.srcRef, old with
  | true, some o => { o with slot := e.slot, record := e.record, seq := r.seq, queue := r.queue, tag := r.tag, at_ := r.at_ }
  | _, _ => { e with seq := r.seq, at_ := r.at_ }

/-- An INSERT, UPSERT or SET_ATTR takes its recorded slot; a live entry of its ID is tombstoned under the record's number. -/
def replayPut (r : JRec) (slot : Nat) (e : Entry) (c : Coll) : Coll :=
  let live := liveNow c e.record.vid
  if r.srcRef && live.isNone then c
  else
    let d := match live with
      | some (o, _) => setTomb o r.seq c
      | none => c
    appendEntry { replayedEntry r e (live.map Prod.snd) with slot := slot } (if (tget d.entries slot).isSome then clearSlot slot d else d)

/-- A DELETE tombstones the live entry of its ID. -/
def replayDelete (r : JRec) (c : Coll) : Coll :=
  match r.entry.bind (fun e => liveNow c e.record.vid) with
  | some (slot, _) => setTomb slot r.seq c
  | none => c

/-- The slot that a record takes is held by a live entry. -/
def slotHeld (r : JRec) (c : Coll) : Bool :=
  match r.slot with
  | some sl => (tget c.entries sl).isSome && (tget c.tombs sl).isNone
  | none => false

/-- Properties that COLL_CONFIG and CONSOLIDATE op 2 set. -/
def replaySet (k c : Coll) : Coll :=
  { c with placement := k.placement, indexKind := k.indexKind, building := k.building, buildGraph := k.buildGraph,
           entryTbl := k.entryTbl, grants := k.grants, sideHw := k.sideHw, ageMs := k.ageMs, tombPm := k.tombPm }

/-- A collection without an entry-set table gets one. -/
def needTable (t : Nat) (owner : Nat) (s : State) : State :=
  if t = 0xFFFF || (tget s.tables t).isSome then s else { s with tables := tset s.tables t (entryTable owner) }

/-- Run a commit again to its cut. -/
def replayCommit (h op cut : Nat) (key : Option Nat) (move : Option Move) (seq : Nat) (s : State) : State :=
  match (tget s.colls h).bind (arrange s op cut key move) with
  | some a => takeEffect h op cut seq a s
  | none => s

/-- A release frees its commit's slots. -/
def replayRelease (commitSeq : Nat) (c : Coll) : Coll :=
  match c.releases.find? (fun r => r.commitSeq = commitSeq) with
  | some r => freeSlots commitSeq r.slots c
  | none => c

/-- A table as a load or swap left it; a version that took effect as an entry set does so again. -/
def replayTable (h : Nat) (t : Tbl) (s : State) : State :=
  let s := { s with tables := tset s.tables h t }
  match t.pending, t.current with
  | none, some d => { s with colls := s.colls.map (fun p =>
      if p.2.entryTbl = h then (p.1, { p.2 with arr := { p.2.arr with entrySet := entryNodes d } }) else p) }
  | _, _ => s

/-- Apply a record (R325). -/
def replayBody (r : JRec) (s : State) : State :=
  let h := r.coll
  match r.body with
  | .entry =>
    match r.entry, r.slot with
    | some e, some slot => collMod h (replayPut r slot e) s
    | _, _ => s
  | .delete => collMod h (replayDelete r) s
  | .collNew c => needTable c.entryTbl c.owner { s with colls := tset s.colls h c }
  | .collDrop =>
    let t := ((tget s.colls h).map Coll.entryTbl).getD 0xFFFF
    { s with colls := tdel s.colls h, tables := tdel s.tables t }
  | .collSet k => needTable k.entryTbl k.owner (collMod h (replaySet k) s)
  | .reencode v ended =>
    collMod h (fun c => if ended then migrated c else { c with encNext := v, migrating := true, recoded := 0, recodeLost := 0 }) s
  | .commit op cut _ key move => replayCommit h op cut key move r.seq s
  | .release q => collMod h (replayRelease q) s
  | .program v p => { s with progs := match p with
      | some p => tset s.progs v p
      | none => tdel s.progs v }
  | .table t x => match x with
    | some x => replayTable t x s
    | none => { s with tables := tdel s.tables t }
  | .domain d k => match k with
    | some k => if (tget s.domains d).isSome then s else { s with domains := tset s.domains d k }
    | none => { s with domains := tdel s.domains d }
  | .deferred d es next lost => domMod d (fun k => { k with deferred := es, nextDef := next, lost := lost }) s
  | .pad => s

/-- What replay carries: the collections at which it has stopped, and the state. -/
structure Replay where
  stopped : List Nat
  state   : State

/-- One record of the log or the dump, in ascending order. -/
def replayRec (p : Replay) (r : JRec) : Replay :=
  if r.coll ∈ p.stopped then p
  else if r.type = 0x7F then
    (if r.lost then { p with state := recoveryGap r.coll r (markIncomplete r.coll p.state) } else p)
  else if r.lost then { p with state := loseReplayed r p.state }
  else if (tget p.state.colls r.coll).any (slotHeld r) then
    { stopped := r.coll :: p.stopped, state := recoveryGap r.coll r (markIncomplete r.coll p.state) }
  else { p with state := replayBody r p.state }

/-- Whether the image already holds the effect of a record: the collection's mark, or the cut (log entry 53). -/
def inImage (img : Image) (cut : Nat) (r : JRec) : Bool :=
  match tget img.colls r.coll with
  | some c => r.seq ≤ max cut c.journaled
  | none => r.seq ≤ cut

/-- Replay of records above the image. -/
def replayAll (img : Image) (cut : Nat) (rs : List JRec) (s : State) : State :=
  ((rs.filter (fun r => !inImage img cut r)).foldl replayRec { stopped := [], state := s }).state

/-! ## After the replay -/

/-- Live entries whose source no readable record holds: their source is lost, and the loss is reported unless it has been. -/
def lostSources (h : Nat) (s : State) : List Entry :=
  match tget s.colls h with
  | none => []
  | some c => (c.entries.filter (fun p => p.2.src ≠ .lost && (tget c.tombs p.1).isNone
      && (sourceRec s p.2).any (fun q => q.lost && !q.codeOnly))).map Prod.snd

def loseSource (h : Nat) (s : State) (e : Entry) : State :=
  let t := loseSources h [e.slot] s
  let d := ownerOf s h
  let told := (((tget s.domains d).map Domain.deferred).getD []).any (fun x => x.seq = e.seq && x.coll = h && x.dflags.getLsbD 0)
  if told then t
  else deferAll d [{ seq := e.seq, vid := e.record.vid, coll := h, status := stMediaLost, queue := e.queue, tag := e.tag, dflags := 1,
                     media := BitVec.ofNat 64 (sourceMedia s e), no := 0 }] (countLost 1 t)

def sourcesChecked (s : State) : State :=
  s.colls.foldl (fun s p => (lostSources p.1 s).foldl (loseSource p.1) s) s

/-- Drone starts again from the last commit, and everything journaled counts as posted. -/
def settled (s : State) (h : Nat) (c : Coll) : Coll :=
  let m := s.bag.recs.foldl (fun m r => if r.coll = h then max m r.seq else m) c.journaled
  { c with posted := m, journaled := m, run := none, moves := [], patches := [] }

def droneRestarted (s : State) : State := { s with colls := s.colls.map (fun p => (p.1, settled s p.1 p.2)) }

/-- All records of journal SRAM go to programmed stripes, the last one closed with PAD. -/
def drainRecords : Nat → State → State
  | 0, s => s
  | n + 1, s =>
    match undrained s with
    | [] => s
    | r :: t =>
      let rs := match fillStripe stripeBytes (r :: t) with
        | [] => [r]
        | rs => rs
      drainRecords n (countWritten (sumBytes rs) (putStripe (rs.map JRec.seq) s))

def drainJournal (s : State) : State := drainRecords (undrained s).length s

/-- The new root: everything recovered is in its image, and the dump is consumed. -/
def recoveryRoot (s : State) : State :=
  let s := bagMod (fun b => { b with postedSeq := b.nextSeq - 1, ckpt := none, ckptDue := false, dump := none,
                                     root := { b.root with dumpSeq := b.dumpSeq } }) s
  let cut := s.bag.nextSeq - 1
  writeRoot cut (imageAt cut s) s

/-- DUMP_REPLAYED. -/
def dumpReplayed (rs : List JRec) (s : State) : State :=
  let last := rs.foldl (fun m r => max m r.seq) 0
  bagMod (fun b => { b with replayed := true }) (raise .bag (mkEv 0x00C4 0 .bag 0 0xFFFF 0 rs.length last 0) s)

/-- The records that a sealed dump above the root's dump_seq gives. -/
def dumpRecords (r : Root) (s : State) : Option (List JRec) :=
  if s.bag.dumpSeq > r.dumpSeq then s.bag.dump else none

/-- Recovery from a root (R325). Records of the dump that lie in a lost stripe of the dump area are lost records. -/
def recoverFrom (r : Root) (img : Image) (current : Bool) (s : State) : State :=
  let dump := dumpRecords r s
  let inDump := (dump.getD []).map JRec.seq
  let gone := if current then s.bag.gone else { entries := [], progs := [], tables := [], dump := s.bag.gone.dump }
  let rs := (s.bag.recs.filter (fun x => x.stripe.isSome || x.seq ∈ inDump)).map (fun x =>
    { x with at_ := s.now, lost := x.lost || (x.seq ∈ inDump && x.seq ∈ gone.dump) })
  let s := bagMod (fun b => { b with root := r, image := img, oldRoot := none, rootsValid := true, recs := rs }) s
  let s := loadGone gone s.bag.goneMedia (loadImage img s)
  let s := drainJournal (droneRestarted (sourcesChecked (replayAll img r.ckptSeq rs s)))
  let s := recoveryRoot s
  match dump with
  | some ds => dumpReplayed ds s
  | none => bagMod (fun b => { b with replayed := false }) s

/-- Flash with erased root blocks is formatted (Table 19.4): an empty root with D0 only, and a media key when FORMAT has not
generated one. -/
def formatFlash (s : State) : State :=
  let b0 := State.reset.bag
  let fresh := fun (b : Bag) => { b with
    nextSeq := b0.nextSeq, postedSeq := b0.postedSeq, sramHead := 0, closeTo := 0, recs := [], stripes := [], image := imageEmpty,
    root := b0.root, oldRoot := none, ckpt := none, ckptDue := false, dumpSeq := 0, dump := none, deadRanges := [], replayed := false,
    mediaKeyNo := if s.sec.mediaKey then b.mediaKeyNo else b.mediaKeyNo + 1 }
  let s := loadImage imageEmpty (bagMod fresh s)
  writeRoot 0 imageEmpty { s with sec := { s.sec with mediaKey := true }, chn := { s.chn with formatted := true } }

end Sys2Proof.Machine
end

