-- ==== Sys2Proof/Machine/Reset.lean ====
section
/-! DEFINITION. Start and reset (chapter 19): what a reset does to commands (R471, R472), cold start (R474 to R477), warm reset
(R478) and function-level reset, and the pins and power events of chapter 18 that lead to them. -/

namespace Sys2Proof.Machine

def chnMod (f : Chanter → Chanter) (s : State) : State := { s with chn := f s.chn }
def secMod (f : Security → Security) (s : State) : State := { s with sec := f s.sec }
def pinMod (f : Pins → Pins) (s : State) : State := { s with pins := f s.pins }

/-! ## Commands at a reset (R471, R472) -/

/-- A command that a reset abandons. -/
def abandoned (x : Cmd) : Cmd :=
  { x with phase := .finished, work := .none, status := stAbortedReset, result := 0, epoch := 0, jseq := 0, isPartial := false,
           tie := false, arith := false, journaled := false, after := [] }

/-- A batch keeps its leading entries: its true status when all are journaled or one has failed, ABORTED_RESET with PARTIAL
otherwise. -/
def batchSettled (x : Cmd) (m : Mut) : Cmd :=
  let (n, q) := tookEffect m
  let st := match batchFailure m with
    | some st => st
    | none => if m.entries.all (fun e => e.done.isSome) then stOK else stAbortedReset
  if n = 0 then abandoned x
  else { x with phase := .finished, work := .none, status := st, result := n, isPartial := st ≠ stOK, jseq := q, journaled := true, after := [] }

/-- What a reset makes of a command: one that has written its journal record keeps its true status. -/
def resetOutcome (x : Cmd) : Cmd :=
  if x.jseq = 0 || !(mutating x || x.journaled) then abandoned x
  else
    match x.work with
    | .mutate m =>
      if isBatch x then batchSettled x m
      else
        match m.entries.head?.bind MutEntry.done with
        | some (q, st) => { x with phase := .finished, work := .none, status := st, jseq := q, journaled := true, after := [] }
        | none => abandoned x
    | _ => { x with phase := .finished, work := .none, after := [] }

/-- A settled command's effect is whole: its collection's completions count as posted, and what takes effect at its
completion does so. -/
def settleEffect (x : Cmd) (s : State) : State :=
  if x.jseq = 0 then s
  else
    let s := bagMod (fun b => { b with postedSeq := max b.postedSeq x.jseq }) s
    let s := match journalColl x with
      | some h => collMod h (fun c => { c with posted := max c.posted x.jseq }) s
      | none => s
    postEffect x s

/-- Sub-queries that this module runs are answered with ABORTED_RESET (R395). -/
def abortSub (s : State) (x : Cmd) : State :=
  match x.sub with
  | some (peer, request) => sendAnswer peer request x.bounded (answerBytes s (abandoned x)) s
  | none => s

/-- Reports in ascending queue number, and in queue order within a queue. -/
def reportOrder (a b : Nat × Cmd) : Bool := a.2.queue < b.2.queue || (a.2.queue = b.2.queue && a.2.id < b.2.id)

/-- No command is left to run under an earlier version of a table (R237). -/
def earlierFreed (s : State) : State := { s with tables := s.tables.map (fun p => (p.1, { p.2 with earlier := [] })) }

/-- The commands of every queue are settled or abandoned and wait for the reset report; rings of Drone and Bag stay. -/
def settleCmds (s : State) : State :=
  let xs := s.cmds.filter (fun x => x.sub.isNone)
  let outs := xs.map (fun x => (domOf s x, resetOutcome x))
  let s := (s.cmds.filter (fun x => x.sub.isSome)).foldl abortSub s
  let s := outs.foldl (fun s p => settleEffect p.2 s) s
  earlierFreed { s with cmds := [], reports := sortBy reportOrder (s.reports ++ outs), ledgers := s.ledgers.map (fun l => (l.1, 0)),
                        contexts := [], srings := s.srings.filter (fun r => r.cmd.isNone) }

/-- Completion flags of a report. -/
def reportFlags (s : State) (d : Nat) (x : Cmd) : Nat :=
  let wait := (((tget s.domains d).map Domain.deferred).getD []).any (fun e => e.queue = x.queue || (tget s.queues e.queue).isNone)
  b2n wait + b2n x.isPartial * 2 + (if succeeded x then b2n (isLate s x) * 4 + b2n x.tie * 8 + b2n x.arith * 16 else 0)

/-- The record of a report, with the command's own queue and tag. -/
def resetRecord (s : State) (d : Nat) (x : Cmd) (phase : Bool) : List Byte :=
  leBytes 2 (cTag x) ++ leBytes 2 x.status ++ leBytes 2 x.queue ++ leBytes 2 (reportFlags s d x + b2n phase * 2 ^ 15)
    ++ leBytes 4 x.result ++ leBytes 4 (residency s x) ++ leBytes 8 x.epoch ++ leBytes 8 x.jseq

/-- Post the reports of ring 0 in their order, until the ring has no room. -/
def postReports : Nat → State → State
  | 0, s => s
  | n + 1, s =>
    match s.reports.find? (fun p => p.2.remote.isNone) with
    | none => s
    | some p =>
      let r := (tget s.rings 0).getD ringReset
      if !r.enabled || r.faulted || r.zeroing || ringUnread r + 1 ≥ 2 ^ r.sizeLog2 then s
      else
        match writeRecord (.cq 0) r (resetRecord s p.1 p.2) s with
        | .wait s => s
        | .fault st va s => drainAll (ringFault (.cq 0) r st va s)
        | .done s => postReports n { s with reports := s.reports.filter (· ≠ p) }

/-- Commands of fabric-facing queues are reported to their peers. -/
def remoteReport (s : State) (p : Nat × Cmd) : State :=
  match p.2.remote with
  | some i =>
    if (tget s.cst.peers i).any (fun q => q.state = 2) then
      sendMsg i 4 p.2.bounded (BitVec.ofNat 64 p.2.queue) (resetRecord s p.1 p.2 false) { s with reports := s.reports.filter (· ≠ p) }
    else s
  | none => s

/-- RESET_REPORT_POST (R472): ring 0 and the port are enabled. -/
def resetReport (s : State) : State :=
  if s.chn.losing || s.chn.stage ≠ 6 then s
  else
    let s := s.reports.foldl remoteReport s
    if (regGet s (reg .mpc 0 0x010)).getLsbD 0 then postReports s.reports.length s else s

def execResetReportPost (s : State) : Host.Outcome State Fault Refusal := .next (drainAll (resetReport s))

/-! ## State across resets (Table 19.2) -/

/-- Queues, rings and classes are as at READY, translations and holds are lost, and the PCIe function is reset (R376). -/
def portReset (s : State) : State :=
  let s := { s with queues := [(0, queueZero)], rings := [(0, ringReset)], evRings := [], classes := classesReset, lastUrg := 0,
                    windows := [], msixTable := [], msixPending := [] }
  let s := crookMod (fun c => { c with cache := [], reqs := [], failed := [], invals := [], priEnable := false, priStopped := false }) s
  let s := chnMod (fun c => { c with holding := true }) s
  let s := regField (reg .wwy 0 0x130) 41 32 0x384 s
  { s with regs := tdel s.regs (reg .mpc 0 0x010) }

/-- Registers that a warm reset keeps: the settings of the pages of Table 19.2 and the two latches, but no error register. -/
def keptWarm (o : Nat) : Bool :=
  let off := o % 4096
  o = reg .mpc 0 0x2C8 || o = reg .chn 0 0x128 ||
    (off ≠ 0x020 && off ≠ 0x028 && off ≠ 0x030 && off ≠ 0x050 &&
      (match pageBlk (o / 4096) with
        | some (b, _) => b ∈ [Blk.wwy, Blk.sld, Blk.drn, Blk.bag, Blk.ftc, Blk.bkc, Blk.wch, Blk.blw, Blk.cst]
        | none => false))

/-- The repair map is applied to units as manufactured. -/
def mapApplied (s : State) : State :=
  let s := { s with service := [], regs := tdel (tdel s.regs (reg .blw 0 0x160)) (reg .chn 0 0x110) }
  s.chn.map.foldl (fun s e => applyMapEntry e s) s

/-- A domain with its regions lost and its bucket full. -/
def domainFresh (d : Domain) : Domain := { d with regions := [], tokens := d.urgBurst }

def regionsLost (s : State) : State := { s with domains := s.domains.map (fun p => (p.1, domainFresh p.2)) }

/-! ## Firmware (R476, R484, R485) -/

/-- The boot ROM takes a bank as valid. -/
def bankOk (c : Nat) (b : FwBank) : Bool := b.valid && b.svn ≥ c

/-- The bank that runs, true for B: the valid one with the higher release. -/
def pickBank (c : Nat) (a b : FwBank) : Option Bool :=
  match bankOk c a, bankOk c b with
  | true, true => some (b.release > a.release)
  | true, false => some false
  | false, true => some true
  | false, false => none

/-- Firmware is chosen; false when no bank of the package is valid. -/
def chooseFirmware (s : State) : Bool × State :=
  let x := s.sec
  let mc := (pickBank x.fuse x.mcA x.mcB).getD x.mcRunB
  match pickBank x.fuse x.pkgA x.pkgB with
  | none => (false, s)
  | some b =>
    (true, secMod (fun y => { y with pkgRunB := b, mcRunB := mc, staged := [], fwFallback := !bankOk y.fuse (if b then y.pkgA else y.pkgB) }) s)

/-- The rollback counter rises to the lower SVN of the valid banks once READY is reached. -/
def raiseCounter (s : State) : State :=
  let svns := ([s.sec.pkgA, s.sec.pkgB].filter (bankOk s.sec.fuse)).map FwBank.svn
  match svns with
  | [] => s
  | n :: t => secMod (fun y => { y with fuse := max y.fuse (t.foldl min n) }) s

/-! ## Cold start (R474 to R477) -/

/-- A start stops with FAILED. -/
def failStart (code : Nat) (s : State) : State :=
  chnMod (fun c => { c with stage := 7, failCode := code, mode := if c.mode = .off then .full else c.mode }) s

/-- Mirror copies that a partner holds for an owner are kept in its flash. -/
def peersCold (s : State) : Table Peer :=
  (s.cst.peers.filter (fun p => p.2.mirror ≠ [] || p.2.mirrorLog ≠ [])).map (fun p =>
    (p.1, { peerZero with mirrorLog := p.2.mirrorLog ++ p.2.mirror }))

/-- What a cold reset leaves of the state (Table 19.2): what is durable, what hangs on pins, and what the outside holds. -/
def coldState (code : Nat) (s : State) : State :=
  let z := State.reset
  let keep := fun (o : Nat) => o = reg .bag 0 0x148 || o = reg .bag 0 0x150 ||
    (o % 4096 = 0x128 && (match pageBlk (o / 4096) with
      | some (.ftc, _) | some (.bkc, _) => true
      | _ => false))
  { z with
    pending := s.pending, outbox := s.outbox, hostMem := s.hostMem, hostPoison := s.hostPoison, nextCmd := s.nextCmd,
    regs := s.regs.filter (fun p => keep p.1),
    crook := { z.crook with nextInval := s.crook.nextInval, atsEnable := !s.pins.perst },
    colls := s.colls, domains := s.domains, progs := s.progs, tables := (earlierFreed s).tables,
    bag := { s.bag with ckpt := none, ckptDue := false, ckptAt := 0, writeThrough := false },
    cst := { z.cst with ports := s.cst.ports.map (fun p => { p with up := false }), peers := peersCold s, nextConn := s.cst.nextConn,
                        mirrorAck := s.cst.mirrorAck, mirrorFrom := s.cst.mirrorFrom, mirrorSent := s.cst.mirrorSent,
                        mirrorLast := if mirrorOn s then some (mirrorPeer s) else s.cst.mirrorLast },
    blw := { z.blw with sense := s.blw.sense, saved := s.blw.saved, bankB := s.blw.bankB, savedValid := s.blw.savedValid, other := s.blw.other },
    chn := { z.chn with mode := s.chn.mode, prev := s.chn.prev, map := s.chn.map, mapSeq := s.chn.mapSeq, mapBankB := s.chn.mapBankB,
                        mapSaved := s.chn.mapSaved, mapOther := s.chn.mapOther, persistent := s.chn.persistent, lastReset := code,
                        eventSeq := (s.chn.persistent.getLast?.map Ev.seq).getD 0, stage := 1, nextBarrier := s.chn.nextBarrier },
    sec := { s.sec with keys := [], fabricKey := none, kek := none, debug := false, sessions := [], busy := false },
    pins := { s.pins with coldPending := none } }

/-- User calibration at a start (R422): the valid bank with the higher seq, or the defaults. -/
def ucalAtStart (badA badB : Bool) (s : State) : State :=
  let bad := fun (bankB : Bool) => if bankB then badB else badA
  let b := s.blw
  if b.savedValid && !bad b.bankB then applyUCal b.saved s
  else
    match b.other, bad (!b.bankB) with
    | some u, false => applyUCal u (blwMod (fun b => { b with saved := u, bankB := !b.bankB, savedValid := true, other := none }) s)
    | _, _ =>
      let s := applyUCal ucalDefault (blwMod (fun b => { b with savedValid := false }) s)
      raise .blw (mkEv 0x0106 1 .blw 0 0xFFFF 0 3 0 0) (blkFault (blkPage .blw 0) 4 0 (BitVec.ofNat 64 3) s)

/-- The repair map at a start (R440): the valid bank with the higher seq; with neither valid it is rebuilt by self-test. -/
def mapAtStart (badA badB : Bool) (s : State) : State :=
  let bad := fun (bankB : Bool) => if bankB then badB else badA
  let c := s.chn
  let use := fun (r : MapRec) (c : Chanter) =>
    { c with map := r.entries, causes := r.causes, holdKind := r.holdKind, mapSeq := r.seq }
  match c.mapSaved, c.mapOther, bad c.mapBankB, bad (!c.mapBankB) with
  | some r, _, false, _ => chnMod (use r) s
  | _, some r, _, false => chnMod (fun c => { use r c with mapBankB := !c.mapBankB, mapSaved := some r, mapOther := none }) s
  | _, _, _, _ => blkFault (blkPage .chn 0) 1 0 0 (chnMod (fun c => { c with map := [], causes := 0, holdKind := 0, mapPending := true }) s)

/-- The hold-up bank passes both tests of R320. -/
def bankPasses (s : State) : Bool := s.bag.fullMj ≥ 2000 && s.bag.nowMj ≥ 2000

/-- A die's free spare blocks have fallen to 2 % of its blocks (R332). -/
def spareOut (s : State) : Bool :=
  s.bag.pagesFailed.any (fun p => 50 * Config.spareBlocks p.1 p.2 ≤ Config.dieBlocks)

/-- The HOLD causes at a start (R444). -/
def causesAtStart (s : State) : BitVec 5 :=
  let c := if bankPasses s then s.chn.causes &&& 0b11011#5 else s.chn.causes
  let c := if s.bag.redundancyLost then c ||| 0b00010#5 else c
  if spareOut s then c ||| 0b01000#5 else c

/-- The mode that the map and the causes give (R443). -/
def modeAtStart (s : State) : Mode :=
  if s.chn.causes ≠ 0 then .hold
  else if s.chn.map.any (fun e => 1 ≤ e.kind && e.kind ≤ 9 && e.replacement ≠ 0xFFFF) then .spared
  else .full

/-- The causes and the mode at a start; in HOLD with the bank failed the journal is written through. -/
def modeStarts (s : State) : State :=
  let s := bagMod (fun b => { b with bankFailed := b.bankFailed && !bankPasses s }) s
  let s := chnMod (fun c => { c with causes := causesAtStart s }) s
  let s := setMode (modeAtStart s) s
  bagMod (fun b => { b with writeThrough := s.chn.mode = .hold && b.bankFailed }) s

/-- READY: the boot stage, the rollback counter, and Drone's share of every Slide engine (R284). -/
def ready (s : State) : State :=
  setMntRates (bits (regGet s (reg .drn 0 0x100)).toNat 7 0) (raiseCounter (chnMod (fun c => { c with stage := 6, failCode := 0 }) s))

/-- The tower and I/O rails are raised to their voltages. -/
def railsUp (s : State) : State := blwMod (fun b => { b with rails := (List.range 5).map (railTarget s) }) s

/-- Steps 8 to 11 of Table 19.3. -/
def startRecovery (badA badB : Bool) (s : State) : State :=
  match findRoot badA badB s with
  | .invalid => failStart 4 (blkFault bagPage 4 0 0 (secMod (fun x => { x with mediaKey := false }) s))
  | .erased => ready (regionsLost (formatFlash s))
  | .root r img current other =>
    let s := if current && other then s else blkFault bagPage 4 0 0 s
    let s := chnMod (fun c => { c with eventSeq := max c.eventSeq r.eventSeq }) (secMod (fun x => { x with mediaKey := true }) s)
    ready (regionsLost (recoverFrom r img current s))

/-- COLD_START (R474): the sequence of Table 19.3 as one step (log entry 83). -/
def coldStart (f : StartFaults) (s : State) : State :=
  match s.pins.coldPending with
  | none => s
  | some code =>
    if s.chn.stage ≠ 0 || s.chn.losing || !s.pins.switchOn then s
    else
      let (ok, s) := chooseFirmware (coldState code s)
      if !ok then failStart 1 s
      else if f.calibration then failStart 2 s
      else
        let s := mapAtStart f.mapA f.mapB (ucalAtStart f.ucalA f.ucalB s)
        let s := modeStarts (railsUp (mapApplied s))
        let s := f.selfTest.foldl (fun s u => retireAny u 9 s) s
        if f.training then failStart 3 s else startRecovery f.rootA f.rootB s

def execColdStart (f : StartFaults) (s : State) : Host.Outcome State Fault Refusal := .next (drainAll (coldStart f s))

/-! ## Warm reset (R478) -/

/-- Consort after a warm reset: registers and peers are kept, ports retrain and connections reopen. -/
def cstWarm (s : State) : State :=
  let s := cstMod (fun c => { c with ports := c.ports.map (fun p => { p with up := false }), fetches := [], mirrorPaused := false,
                                     mirrorSent := max c.mirrorAck (c.mirrorFrom - 1),
                                     peers := c.peers.map (fun p =>
                                       (p.1, { dropEvents p.2 with unacked := [], msgs := [], recvAhead := [], mirrorWait := [] })) }) s
  ((s.cst.peers.filter (fun p => p.2.enable)).map Prod.fst).foldl (fun s i =>
    if fabricOn s then peerStart i s else peerMod i (fun p => { p with state := 1 }) s) s

/-- What a package reset leaves of the state (Table 19.2). -/
def warmState (code : Nat) (s : State) : State :=
  let z := State.reset
  let s := portReset s
  let s := { s with regs := s.regs.filter (fun p => keptWarm p.1), latches := [], engines := [], srings := [], accs := [], accSet := [],
                    parityCells := [], contexts := [], nextLead := 0 }
  let s := crookMod (fun c => { c with bootLocked := false, atsEnable := !s.pins.perst }) s
  let s := blwMod (fun b => { b with asleep := [] }) s
  let s := chnMod (fun c => { c with epoch := z.chn.epoch, barriers := [], returning := [], coresMoving := [], coreEpoch := [], stale := [], lastReset := code,
                                     formatted := false, warmPending := false, quiesced := false }) s
  mapApplied (regionsLost (secMod (fun x => { x with keys := [], fabricKey := none, busy := false }) s))

/-- Steps 1 to 3 of Table 19.5: commands are settled and the journal is drained. -/
def warmQuiesced (s : State) : State := wakeDrained (drainJournal (settleCmds s))

/-- WARM_RESET (R478): by PERST#, or by the management command that has triggered it. With a valid warm-state record the tiers
are used in place; otherwise they are recovered from flash. -/
def warmReset (recordOk : Bool) (s : State) : State :=
  if s.chn.stage ≠ 6 || s.chn.mode = .off || s.chn.losing then s
  else
    let mgmt := s.chn.warmPending
    let s := if mgmt then s else pinMod (fun p => { p with perst := true }) s
    let (ok, s) := chooseFirmware (cstWarm (warmState (if mgmt then 4 else 3) (warmQuiesced s)))
    if !ok then failStart 1 s
    else
      let s := chnMod (fun c => { c with warmFast := recordOk }) s
      if recordOk then ready (droneRestarted (bagMod (fun b => { b with ckpt := none, ckptDue := b.ckptDue || b.ckpt.isSome }) s))
      else startRecovery false false { s with poison := [] }

def execWarmReset (recordOk : Bool) (s : State) : Host.Outcome State Fault Refusal := .next (drainAll (warmReset recordOk s))

/-! ## Function-level reset -/

/-- FUNCTION_LEVEL_RESET (R469, R471): the port is quiesced, commands are settled and translations dropped; regions, keys,
errors and every other unit stay as they are. -/
def functionReset (s : State) : State :=
  if s.chn.stage ≠ 6 || s.chn.mode = .off || s.chn.losing || s.chn.quiesced then s
  else chnMod (fun c => { c with lastReset := 5 }) (portReset (settleCmds s))

def execFunctionLevelReset (s : State) : Host.Outcome State Fault Refusal := .next (drainAll (functionReset s))

/-! ## PERST# and the link (R65, R469, R475) -/

/-- PERST_BEFORE_READY (R469): only the PCIe controller is reset, and the start continues. -/
def execPerstBeforeReady (s : State) : Host.Outcome State Fault Refusal :=
  .next (if s.chn.stage = 6 then s
    else { crookMod (fun c => { c with atsEnable := false, priEnable := false }) (pinMod (fun p => { p with perst := true }) s) with
           msixTable := [], msixPending := [], regs := tdel s.regs (reg .mpc 0 0x2C0) })

/-- PERST_DEASSERT (R475): the link trains, and configuration requests are answered; the host enables ATS (log entry 72). -/
def execPerstDeassert (s : State) : Host.Outcome State Fault Refusal :=
  .next (crookMod (fun c => { c with atsEnable := true }) (pinMod (fun p => { p with perst := false }) s))

/-- MPC_LINK of a trained link: bounded admission needs x16 at 32 GT/s or more (R64). -/
def linkWord (rate width : Nat) (l0p flit : Bool) : Word64 :=
  BitVec.ofNat 64 (rate % 256 + width % 256 * 2 ^ 8 + b2n flit * 2 ^ 16 + b2n l0p * 2 ^ 17
    + b2n (width % 256 ≥ 16 && rate % 256 ≥ 32) * 2 ^ 18)

/-- LINK_CHANGED (R65): the link has trained at a rate and a width of Table 3.1; it trains at no other. -/
def linkChanged (rate width : Nat) (l0p flit : Bool) (s : State) : State :=
  if !linkSupports rate width then s
  else
  let s := regSet (reg .mpc 0 0x2C0) (linkWord rate width l0p flit) s
  raise .mpc (mkEv 0x0013 (if width % 256 = 16 ∧ rate % 256 = 64 then 0 else 1) .mpc 0 0xFFFF 0 (rate % 256 + width % 256 * 256) 0 0) s

def execLinkChanged (rate width : Nat) (l0p flit : Bool) (s : State) : Host.Outcome State Fault Refusal :=
  .next (drainAll (linkChanged rate width l0p flit s))

/-! ## Uncontained errors (R425) -/

/-- FATAL_ERROR, of a block's type code and number, at the address of the word. -/
def raiseFatal (block number addr : Nat) (s : State) : State :=
  let i0 := block % 65536 + number % 256 * 65536
  raise .chn (mkEv 0x0116 3 .chn 0 0xFFFF addr i0 0 0) (blkFault (blkPage .chn 0) 0 (BitVec.ofNat 64 addr) (BitVec.ofNat 64 i0) s)

/-- FATAL_ERROR: the event is posted, the power-loss sequence runs and the module enters OFF. In a start it is found at stage 3
or later, and the start stops (Table 19.4). -/
def fatalError (block number addr : Nat) (s : State) : State :=
  if s.chn.losing || s.chn.mode = .off && s.pins.coldPending.isNone then s
  else if s.chn.stage = 6 then goOff (raiseFatal block number addr s)
  else
    match s.pins.coldPending with
    | some code => if s.chn.stage = 0 && s.pins.switchOn then failStart 5 (raiseFatal block number addr (coldState code s)) else s
    | none => s

def execFatalError (block number addr : Nat) (s : State) : Host.Outcome State Fault Refusal :=
  .next (drainAll (fatalError block number addr s))

/-! ## Input power (R457 to R459) -/

/-- The input switch opens and the bus falls: power loss while the module runs, and no power otherwise. -/
def switchOpens (s : State) : State :=
  let s := powerLoss (pinMod (fun p => { p with switchOn := false }) s)
  if s.chn.losing then s else chnMod (fun c => { c with stage := 0 }) s

/-- OVERVOLTAGE (R457). -/
def execOvervoltage (s : State) : Host.Outcome State Fault Refusal :=
  .next (switchOpens (pinMod (fun p => { p with inputGood := false }) s))

/-- MATE_BREAK (R458): J4 is removed; with no dump in progress the bank bleeds (R462, log entry 112). -/
def mateBreak (s : State) : State :=
  let s := switchOpens (pinMod (fun p => { p with mate := false }) s)
  if s.chn.losing then s else bleedBank s

def execMateBreak (s : State) : Host.Outcome State Fault Refusal := .next (mateBreak s)

/-- INPUT_SWITCH_CLOSE (R458): the contact has mated and the input is within its limits; an unpowered module is energised. -/
def switchCloses (s : State) : State :=
  let cold := s.chn.stage = 0 && !s.chn.losing && !(s.pins.switchOn && s.chn.sealed) && s.pins.coldPending.isNone
  pinMod (fun p => { p with mate := true, inputGood := true, switchOn := true,
                            coldPending := if cold then some 0 else p.coldPending }) s

def execInputSwitchClose (s : State) : Host.Outcome State Fault Refusal := .next (switchCloses s)

/-- RESTART_AFTER_SEAL (R459): after the seal of a power loss, the input is good and PWRFAIL# deasserted for 100 ms. -/
def restartAfterSeal (s : State) : State :=
  if !s.chn.sealed || s.chn.stage ≠ 0 || s.chn.mode = .off || !s.pins.switchOn then s
  else pinMod (fun p => { p with pwrfail := false, inputGood := true, coldPending := some (p.coldPending.getD 1) }) s

def execRestartAfterSeal (s : State) : Host.Outcome State Fault Refusal := .next (restartAfterSeal s)

/-- MANAGEMENT_CONTROLLER_POWER_UP (R463, R464): the address straps are sampled; endpoint IDs, the event receiver and sessions
that the controller held before are gone (log entry 85). -/
def execManagementControllerPowerUp (straps : Nat) (s : State) : Host.Outcome State Fault Refusal :=
  .next (secMod (fun x => { x with eids := [], eventReceiver := none, sessions := [] }) (pinMod (fun p => { p with straps := straps % 8 }) s))

end Sys2Proof.Machine
end

