-- ==== Sys2Proof/Machine/RegFile.lean ====
section
/-! DEFINITION. Reads and writes of the register file (chapter 21, R66, R67): what each register shows, what a read clears, and
what a write does. A register whose fields live elsewhere in the state is put together when it is read. -/

namespace Sys2Proof.Machine

/-! ## Common header (R496) -/

def errOf (s : State) (p : Nat) : Word64 := regGet s (pageReg p 0x020) &&& ~~~ (regGet s (pageReg p 0x038))

/-- BLK_STAT. -/
def blkStat (s : State) (p : Nat) : Nat :=
  (tget s.service p).getD 0 + b2n (errOf s p ≠ 0) * 2 ^ 8 + b2n (tget s.latches p).isSome * 2 ^ 9

/-- Logical units of a kind that a spare now serves, of those listed. -/
def servedBySpare (s : State) (kind : Nat) (ls : List Nat) : Nat :=
  (ls.filter (fun l => physicalOf s kind l ≠ nominalUnit kind l)).length

/-- Bits set of the 16 at bit `lo`. -/
def ones16 (w : Word64) (lo : Nat) : Nat := ((List.range 16).filter (fun i => w.getLsbD (lo + i))).length

/-- Spares left and in use of a page (Table 21.1; log entry 20 for the spare rows of SRAM macros). -/
def spareCounts (s : State) (b : Blk) (i : Nat) : Nat × Nat :=
  let units := fun (kind n : Nat) =>
    let ls := (List.range n).map (· + n * i)
    (sparesLeft s kind (n * i), servedBySpare s kind ls)
  match b with
  | .wwy | .crk => (blkSpares b i, 0)
  | .chn => units 6 8
  | .blw => units 7 184
  | .bag => (18 - s.bag.spareUsed.length, s.bag.spareUsed.length)
  | .wch => units 3 8
  | .ftc | .bkc => let n := (regGet s (reg b i 0x128)).toNat; (bits n 31 16, bits n 15 0)
  | .kwk => units 4 32
  | .cst => if i = 12 then (0, 0) else units 8 8
  | .sld | .bell | .vlv => units 2 1
  | .bore => let w := regGet s (reg .bore i 0x108); (ones16 w 16, ones16 w 0)
  | _ => (0, 0)

/-- BLK_SPARE. -/
def blkSpare (s : State) (b : Blk) (i : Nat) : Nat :=
  let c := spareCounts s b i
  c.2 + c.1 * 2 ^ 16 + blkSpareKind b i * 2 ^ 32

/-- BLK_EPOCH (R441): the global epoch for a unit in service, and the epoch at which it left otherwise. -/
def blkEpoch (s : State) (p : Nat) : Nat :=
  if (tget s.service p).isNone then s.chn.epoch else (regGet s (pageReg p 0x050)).toNat

/-! ## Block registers -/

/-- A word of a ring context (R501). -/
def ctxWord (r : Ring) (w : Nat) : Nat := if w = 0 then r.base else if w = 1 then ctxRead1 r else 0

/-- Tail and phase of a ring, as MPC_CQ0_STAT and MPC_EVR_STAT show them. -/
def ringStat (r : Ring) : Nat := r.tail % 65536 + b2n r.phase * 2 ^ 16

def mpcLive (s : State) (off : Nat) : Option Nat :=
  let cq := (tget s.rings 0).getD ringReset
  if 0x100 ≤ off ∧ off < 0x120 then some (ctxWord cq ((off - 0x100) / 8))
  else if off = 0x120 then some (ringStat cq + b2n cq.faulted * 2 ^ 17)
  else if 0x140 ≤ off ∧ off < 0x240 then some (ctxWord (evRing s ((off - 0x140) / 0x20)) ((off - 0x140) % 0x20 / 8))
  else if 0x240 ≤ off ∧ off < 0x280 then some ((evRing s ((off - 0x240) / 8)).head % 65536)
  else if 0x280 ≤ off ∧ off < 0x2C0 then
    some (bits (regGet s (reg .mpc 0 off)).toNat 63 32 * 2 ^ 32 + ringStat (evRing s ((off - 0x280) / 8)))
  else none

/-- The ledger that WWY_LEDGER_SEL selects, as its key (R503). -/
def ledgerShown (s : State) : Nat :=
  let n := (regGet s (reg .wwy 0 0x140)).toNat
  bits n 2 0 * 64 + bits n 13 8

def wwyLive (s : State) (off : Nat) : Option Nat :=
  if off = 0x100 then some (inExec s + (storeSlots - s.queues.foldl (fun a q => a + q.2.depth) 0) * 2 ^ 32)
  else if 0x108 ≤ off ∧ off < 0x130 then
    let c := clsData s ((off - 0x108) / 8)
    some (b2n c.bounded + c.weight * 2 ^ 8 + c.deadlineUs * 2 ^ 32)
  else if off = 0x148 then
    let k := ledgerShown s
    let held := (s.cmds.filter (fun x => x.charges.any (fun p => p.1 = k))).length
    some (min ((tget s.ledgers k).getD 0).floor.toNat 0xFFFF_FFFF + held * 2 ^ 32)
  else none

def crkLive (s : State) (off : Nat) : Option Nat :=
  if off = 0x110 then some ((s.crook.cache.filter (fun e => !e.withdrawn)).length + heldEntries s * 2 ^ 32) else none

def resetReportsLeft (s : State) : Nat := s.reports.length

/-- CHN_MODE, as GET_STATE reports it too. -/
def chnModeWord (s : State) : Nat :=
  modeCode s.chn.mode + modeCode s.chn.prev * 4 + s.chn.causes.toNat * 2 ^ 8 + s.chn.holdKind % 256 * 2 ^ 16

/-- CHN_BOOT. Recovery is one step, so that no progress is shown (log entry 83). -/
def chnBootWord (s : State) : Nat :=
  s.chn.stage + s.chn.lastReset * 2 ^ 8 + b2n s.chn.warmFast * 2 ^ 16 + b2n s.chn.formatted * 2 ^ 17
    + b2n s.sec.fwFallback * 2 ^ 18 + b2n s.sec.pkgRunB * 2 ^ 19 + s.chn.failCode % 256 * 2 ^ 32
    + resetReportsLeft s % 2 ^ 20 * 2 ^ 44

def chnLive (s : State) (off : Nat) : Option Nat :=
  match off with
  | 0x100 => some (chnModeWord s)
  | 0x108 => some s.chn.epoch
  | 0x118 => some (s.chn.recent.length + s.chn.persistent.length * 2 ^ 32)
  | 0x130 => some (min s.chn.map.length 0xFF + b2n s.chn.mapBankB * 2 ^ 8 + b2n s.chn.mapPending * 2 ^ 9 + s.chn.mapSeq % 2 ^ 52 * 2 ^ 12)
  | 0x138 => some (chnBootWord s)
  | _ => none

/-- Logical phases of a rail (R414). -/
def railPhases (r : Nat) : List Nat := if r < 4 then (List.range 40).map (· + 40 * r) else (List.range 24).map (· + 160)

/-- Phases of those listed that are in service. -/
def phasesIn (s : State) (ls : List Nat) : Nat := (ls.filter (fun l => !unitGone s { kind := 7, logical := l })).length

/-- BLW_POWER, as GET_STATE reports it too. -/
def blwPowerWord (s : State) : Nat :=
  b2n s.blw.throttle + min (pRes s).floor.toNat 65535 * 2 ^ 16 + min (pBase s) 65535 * 2 ^ 32
    + bits (regGet s (reg .blw 0 0x148)).toNat 63 48 * 2 ^ 48

/-- The worst of the monitors at PACE_WEAR. -/
def worstWear (s : State) : Option (UnitId × Nat) :=
  s.blw.worn.foldl (fun a p => match a with
    | some q => if p.2 > q.2 then some p else some q
    | none => some p) none

/-- The calibrated item that BLW_CAL_SEL selects exists (Table 21.3). -/
def calItem (kind index : Nat) : Bool :=
  match kind with
  | 1 => index / 2 ^ 20 < 9 && index % 2 ^ 20 < Config.monitors (index / 2 ^ 20)
  | 2 => index < 9
  | 3 => index < 200
  | 4 => index < 64 && index % 16 < 12 && index / 16 < 3
  | 5 => index < 10
  | _ => false

/-- A port's tap offset: 0 pre, 1 main, 2 post. -/
def tapOfs (s : State) (port tap : Nat) : Int :=
  let p := s.blw.run.serdes.getD port (0, 0, 0, false)
  if tap = 0 then p.1 else if tap = 1 then p.2.1 else p.2.2.1

def tapOn (s : State) (port : Nat) : Bool := (s.blw.run.serdes.getD port (0, 0, 0, false)).2.2.2

/-- The user's offset on a calibrated item (R421, R423). -/
def calUser (s : State) (kind index : Nat) : Int :=
  match kind with
  | 2 => s.blw.run.trims.getD index 0
  | 4 => if tapOn s (index % 16) then tapOfs s (index % 16) (index / 16) else 0
  | _ => 0

/-- BLW_CAL_FACT and, with `eff`, BLW_CAL_EFF (R505). -/
def calWord (s : State) (eff : Bool) : Nat :=
  let k := calKind s
  let i := calIndex s
  if !calItem k i then 2 ^ 32
  else
    let f := Config.calFactory k i
    let l := Config.calLimits k i
    unsigned 32 (if eff then clampInt l.1 l.2 (f + calUser s k i) else f)

def blwLive (s : State) (off : Nat) : Option Nat :=
  let stored := (regGet s (reg .blw 0 off)).toNat
  match off with
  | 0x108 => some (bits stored 10 0 + effCap s * 2 ^ 32)
  | 0x118 | 0x120 | 0x128 | 0x130 | 0x138 =>
    let r := (off - 0x118) / 8
    some (s.blw.rails.getD r 0 * 5 / 2 + s.blw.slowest.getD r 0 * 2 ^ 16 + phasesIn s (railPhases r) * 2 ^ 40)
  | 0x148 => some (blwPowerWord s)
  | 0x158 =>
    let n := fun (k : Nat) => (s.blw.asleep.filter (fun u => u.kind = k)).length
    some (bits stored 29 0 + n 2 * 2 ^ 32 + n 4 * 2 ^ 40 + bits stored 63 48 * 2 ^ 48)
  | 0x160 => some (sparesLeft s 7 0 + sparesUsed s 7 0 * 2 ^ 8 + phasesIn s (List.range 184) * 2 ^ 16)
  | 0x168 =>
    match worstWear s with
    | some p => some (paceInfo p.1 + p.2 % 65536 * 2 ^ 32 + s.blw.worn.length * 2 ^ 48)
    | none => some 0
  | 0x178 => some (if calKind s = 2 ∧ calIndex s < 9 then unsigned 16 (s.blw.run.trims.getD (calIndex s) 0) else 0)
  | 0x188 => some (calWord s false)
  | 0x190 => some (calWord s true)
  | 0x198 =>
    some (b2n s.blw.saving.isSome * 2 ^ 8 + bits stored 10 9 * 2 ^ 9 + b2n s.blw.bankB * 2 ^ 11
      + (if s.blw.savedValid then s.blw.saved.seq % 2 ^ 48 else 0) * 2 ^ 16)
  | 0x1A8 =>
    let i := calIndex s
    some (if calKind s = 4 ∧ i % 16 < 12 ∧ i / 16 < 3 then unsigned 8 (tapOfs s (i % 16) (i / 16)) + b2n (tapOn s (i % 16)) * 2 ^ 8 else 0)
  | _ => none

def bagChannel (s : State) : Nat := bits (regGet s (reg .bag 0 0x138)).toNat 4 0

/-- Free spare blocks of a channel's dies that have not failed. -/
def channelSpare (s : State) (ch : Nat) : Nat :=
  let failed := (tget s.bag.diesFailed ch).getD []
  ((List.range 17).filter (· ∉ failed)).foldl (fun a d =>
    let k := ch * 32 + d
    a + Config.spareBlocks k ((tget s.bag.pagesFailed k).getD 0)) 0

/-- BAG_CH_STAT of the selected channel. -/
def bagChStat (s : State) : Nat :=
  let ch := bagChannel s
  let failed := ((tget s.bag.diesFailed ch).getD []).foldl (fun a d => a + 2 ^ d) 0
  (tget s.bag.chUncorr ch).getD 0 + b2n (ch ∈ s.bag.spareUsed) * 2 ^ 16 + failed % 2 ^ 17 * 2 ^ 17
    + min (wearPct s ch) 255 * 2 ^ 40 + min (channelSpare s ch) 65535 * 2 ^ 48

/-- Lost members that a rebuild brings back, MiB, a member being 16 KiB. -/
def rebuildMib (s : State) : Nat :=
  ((s.bag.stripes.filter (fun st => !st.lost)).foldl (fun a st => a + st.lostMembers.length) 0 * 16 + 1023) / 1024

def bagLive (s : State) (off : Nat) : Option Nat :=
  match off with
  | 0x100 => let n := (sramUsed s + 1023) / 1024; some (n + n * 2 ^ 32)
  | 0x110 =>
    some (b2n s.bag.bankFailed + b2n (s.bag.nowMj < 2000) * 2 + min s.bag.nowMj 65535 * 2 ^ 16 + min s.bag.fullMj 65535 * 2 ^ 32)
  | 0x118 => some s.bag.root.ckptSeq
  | 0x120 => some s.bag.root.rootSeq
  | 0x128 =>
    some (b2n s.bag.replayed + b2n s.bag.redundancyLost * 2 + b2n s.bag.writeThrough * 4 + b2n s.bag.root.bankB * 8
      + b2n (s.bag.rebuilding ≠ []) * 16)
  | 0x130 =>
    match s.bag.rebuilding with
    | p :: _ => some (p.1 + p.2 * 2 ^ 8 + rebuildMib s * 2 ^ 32)
    | [] => some 0
  | 0x140 => some (bagChStat s)
  | _ => none

/-- Maintenance is due on a collection: a threshold of R286 or R295, or work that waits for Drone. -/
def maintDue (s : State) (c : Coll) : Bool :=
  c.run.isNone && !c.dropping &&
    (placesUsed c ≥ c.sideHw || aged s c || c.moves ≠ [] || c.patches ≠ [] || c.migrating || c.building
      || c.arr.parts.any (fun p =>
          let dead := compactTombs c.posted (some p.1) c
          dead ≠ [] && dead.length * 1000 ≥ c.tombPm * p.2.slots.length))

/-- The oldest operation in progress: its collection and what it does. -/
def oldestRun (s : State) : Option (Nat × DroneRun) :=
  s.colls.foldl (fun a p => match p.2.run, a with
    | some r, some q => if r.since < q.2.since then some (p.1, r) else some q
    | some r, none => some (p.1, r)
    | none, a => a) none

def drnLive (s : State) (off : Nat) : Option Nat :=
  if off = 0x110 then
    let pending := (s.colls.filter (fun p => maintDue s p.2)).length
    let running := (s.colls.filter (fun p => p.2.run.isSome)).length
    let oldest := match oldestRun s with
      | some p => p.1 + opCode p.2.op * 2 ^ 12
      | none => 0
    some (oldest + running * 2 ^ 16 + pending * 2 ^ 32)
  else none

/-- A bank's field of SEC_FW (Table 21.4). -/
def bankField (c : Nat) (b : FwBank) : Nat := b.release % 128 + b.svn % 64 * 2 ^ 7 + b2n (bankOk c b) * 2 ^ 13

def secLive (s : State) (off : Nat) : Option Nat :=
  let x := s.sec
  match off with
  | 0x100 => some (x.keys.foldl (fun a p => a + 2 ^ p.1) 0)
  | 0x108 =>
    some (b2n x.kek.isSome + b2n x.fabricKey.isSome * 4 + b2n x.debug * 8 + b2n x.mediaKey * 16
      + ((x.kek.map Prod.fst).getD 0) * 2 ^ 32)
  | 0x110 =>
    some (bankField x.fuse x.pkgA + bankField x.fuse x.pkgB * 2 ^ 14 + bankField x.fuse x.mcA * 2 ^ 28 + bankField x.fuse x.mcB * 2 ^ 42
      + b2n x.key0Revoked * 2 ^ 57 + x.fuse % 64 * 2 ^ 58)
  | _ => none

/-- SPACE of a stack or channel, from free and total bytes. -/
def spaceWord (free total : Nat) : Nat := (total - free + 2 ^ 20 - 1) / 2 ^ 20 + free / 2 ^ 20 * 2 ^ 32

/-- FTC and BKC pages; a tower's bulk data is spread over its sixteen channels (R338). -/
def tierLive (s : State) (bulk : Bool) (i off : Nat) : Option Nat :=
  if off = 0x100 then
    some (if bulk then spaceWord (towerFree s (i / 16) / 16) (towerSpace / 16) else spaceWord (stackFree s i) stackSpace)
  else if off = 0x108 ∨ off = 0x110 ∨ (off = 0x118 ∧ !bulk) then
    some (Config.traffic (reg (if bulk then .bkc else .ftc) i off) s.now).toNat
  else none

def wchLive (s : State) (i off : Nat) : Option Nat := if off = 0x110 then some (Config.traffic (reg .wch i off) s.now).toNat else none

/-- Contexts free for searches on tower `t`, and those of Drone (R146). -/
def towerCores (s : State) (t : Nat) : List Nat := ((List.range 32).map (· + 32 * t)).filter (coreIn s)

def kwkLive (s : State) (t off : Nat) : Option Nat :=
  if off = 0x108 then
    let ks := towerCores s t
    some (ks.foldl (fun a k => a + (480 - coreHeld s k)) 0 + 32 * ks.length * 2 ^ 16)
  else if off = 0x110 then let n := 65536 - (poolHeld s t + 1023) / 1024; some (n + n * 2 ^ 32)
  else none

/-- Lanes of a port that run on a spare. -/
def lanesSpared (s : State) (n : Nat) : Nat :=
  (List.range 8).foldl (fun a i => a + b2n (physicalOf s 8 (laneOf n i) ≠ laneOf n i) * 2 ^ i) 0

def portLive (s : State) (n off : Nat) : Option Nat :=
  if off = 0x100 then some (b2n ((s.cst.ports[n]?).any Port.up) + lanesSpared s n * 2 ^ 8)
  else if off = 0x118 then some (Config.portMac n).toNat
  else none

/-- CST_PEER_CTL of an entry. -/
def peerCtlWord (s : State) (p : Peer) : Nat :=
  (p.portsUp &&& portsMask s) % 2 ^ 12 + p.state * 2 ^ 12 + p.roles % 16 * 2 ^ 16 + p.domain % 256 * 2 ^ 24 + b2n p.enable * 2 ^ 32

def cstLive (s : State) (off : Nat) : Option Nat :=
  let p := peerOf s (peerSel s)
  match off with
  | 0x128 => some p.addrHi.toNat
  | 0x130 => some p.addrLo.toNat
  | 0x138 => some (peerCtlWord s p)
  | 0x148 => some s.cst.mirrorAck
  | _ => none

def sldLive (s : State) (e off : Nat) : Option Nat :=
  let stored := (regGet s (reg .sld e off)).toNat
  match off with
  | 0x100 =>
    let n := ringsInUse s e
    let cmds := (s.srings.filter (fun r => r.engine = e && r.no ≥ 12)).length
    some (n + (52 - cmds) * 2 ^ 8 + max n (bits stored 23 16) * 2 ^ 16)
  | 0x108 => let n := 8192 - (stagingUsed s e + 1023) / 1024; some (n + n * 2 ^ 32)
  | 0x110 =>
    let n := tagsHeld s e
    some ((4096 - n) + tagsUnbounded s e * 2 ^ 16 + max n (bits stored 47 32) * 2 ^ 32)
  | _ => none

/-- The accumulator that BORE_ACC_SEL selects. -/
def selectedAcc (s : State) (n : Nat) : Acc :=
  (tget s.accs (n * 2 ^ 17 + bits (regGet s (reg .bore n 0x140)).toNat 16 0)).getD accClear

/-- Its 96-bit value; a pinned one shows its sign in bit 95. The lane bit selects the upper of the two 48-bit lanes (R204). -/
def accWord (s : State) (n : Nat) : Nat :=
  let a := selectedAcc s n
  let up := (regGet s (reg .bore n 0x140)).getLsbD 17
  match a.lane with
  | some h => unsigned 48 (if up then h else a.value)
  | none =>
    let v := match a.pinned with
      | some pos => unsigned 96 a.value % 2 ^ 95 + b2n (!pos) * 2 ^ 95
      | none => unsigned 96 a.value
    if up then v / 2 ^ 48 else v

/-- Debug mode runs on a cluster's array (R215). -/
def inDebug (s : State) (n : Nat) : Bool := (regGet s (reg .bore n 0x138)).getLsbD 0

def boreLive (s : State) (n off : Nat) : Option Nat :=
  let a := selectedAcc s n
  if off = 0x148 then some (if inDebug s n then accWord s n % 2 ^ 64 else 0)
  else if off = 0x150 then
    some (if inDebug s n then accWord s n / 2 ^ 64 + a.flags.toNat * 2 ^ 32 + b2n a.pinned.isSome * 2 ^ 39 + b2n a.nan * 2 ^ 40
      + b2n a.poison * 2 ^ 41 else 0)
  else none

def bellLive (s : State) (n off : Nat) : Option Nat :=
  match off with
  | 0x108 => some ((bellOf s n).tiles.length + bits (regGet s (reg .bell n off)).toNat 63 32 * 2 ^ 32)
  | 0x110 => let u := poolUsed s n; some (32768 - (u.2 + 1023) / 1024 + u.1 * 2 ^ 32)
  | _ => none

def vlvLive (s : State) (n off : Nat) : Option Nat :=
  if off = 0x110 then some ((16 - spillsHeld s (n / 8)) + bits (regGet s (reg .vlv n off)).toNat 63 32 * 2 ^ 32) else none

/-- What a register shows when its fields live elsewhere in the state; none for a register that is stored as it reads. -/
def regLive (s : State) (b : Blk) (i off : Nat) : Option Nat :=
  let p := blkPage b i
  match off with
  | 0x018 => some (blkStat s p)
  | 0x040 => some ((regGet s (pageReg p 0x040) ||| BitVec.ofNat 64 (evtAlwaysMask b)).toNat)
  | 0x048 => some (blkSpare s b i)
  | 0x050 => some (blkEpoch s p)
  | _ =>
    match b with
    | .mpc => mpcLive s off | .wwy => wwyLive s off | .crk => crkLive s off | .chn => chnLive s off | .blw => blwLive s off
    | .bag => bagLive s off | .drn => drnLive s off | .sec => secLive s off | .wch => wchLive s i off
    | .ftc => tierLive s false i off | .bkc => tierLive s true i off | .reed => none | .kwk => kwkLive s i off
    | .cst => if i = 12 then cstLive s off else portLive s i off
    | .sld => sldLive s i off | .bore => boreLive s i off | .bell => bellLive s i off | .vlv => vlvLive s i off

/-- The value of the register at `off` of a page; reserved offsets read zero (R495). -/
def regRead (s : State) (b : Blk) (i off : Nat) : Word64 :=
  match regDef b i off with
  | none => 0
  | some d =>
    let v := match regLive s b i off with
      | some n => BitVec.ofNat 64 n
      | none => regGet s (reg b i off)
    -- what a write triggers reads as zero (Table 0.1)
    v &&& ~~~ (BitVec.ofNat 64 d.wo)

/-- A read clears the RC fields of a register (Table 0.1). -/
def regClear (b : Blk) (i off : Nat) (s : State) : State :=
  match regDef b i off with
  | none => s
  | some d =>
    let s := if d.rc = 0 then s else regSet (reg b i off) (regGet s (reg b i off) &&& ~~~ (BitVec.ofNat 64 d.rc)) s
    match b, off with
    | .bag, 0x128 => bagMod (fun g => { g with replayed := false }) s
    | .bag, 0x140 => bagMod (fun g => { g with chUncorr := tdel g.chUncorr (bagChannel s) }) s
    | _, _ => s

/-! ## Accesses to BAR0 (R67, R86, R494, R495) -/

/-- The kind of violation of Table 3.11 that an access of BAR0 is, whatever it does: 0x01 where no open page holds a register
map, 0x02 for a wrong size or alignment; 0 for none. An aligned read of 4 or 8 bytes at a reserved offset is none (R86). -/
def bar0Kind (s : State) (read : Bool) (o n : Nat) : Nat :=
  match pageBlk (o / 4096) with
  | none => 1
  | some (b, i) =>
    let off := o % 4096
    let size := if (regDef b i off).any RegDef.bits32 then 4 else 8
    if !pageOpen s b || off ≥ blkMapEnd b i then 1
    else if read && b = .bore && (off = 0x148 || off = 0x150) && !inDebug s i then 1
    else if read && (regDef b i off).isNone && (n = 4 || n = 8) && off % n = 0 then 0
    else if n ≠ size || off % size ≠ 0 then 2
    else 0

/-- A read of BAR0. -/
def bar0Read (o n : Nat) (s : State) : State :=
  let k := bar0Kind s true o n
  match pageBlk (o / 4096) with
  | none => violation 1 (barAddr 0 o) n true 0 false s
  | some (b, i) =>
    if k ≠ 0 then violation k (barAddr 0 o) n true 0 false s
    else emit (.readData (leBytes n (regRead s b i (o % 4096)).toNat)) (regClear b i (o % 4096) s)

/-! ## Accesses to BAR2 and BAR4 -/

/-- WIN_STAT of queue `q` (Table 3.5). -/
def winStat (s : State) (q : Nat) : Nat :=
  match tget s.queues q with
  | none => 0
  | some r => r.nextSeq % 65536 + (r.depth - slotsUsed s q) % 65536 * 2 ^ 16 + r.lastReason % 256 * 2 ^ 32 + min r.rejects 0xFFFF * 2 ^ 48

/-- One byte of a task window as it reads: WIN_STAT, and zero everywhere else (Table 3.3). -/
def winByte (s : State) (a : Nat) : Byte :=
  let off := a % 256
  if 0x80 ≤ off ∧ off < 0x88 then BitVec.ofNat 8 (winStat s (a / 256) / 256 ^ (off - 0x80)) else 0

/-- A 4-byte word of BAR4: the MSI-X table, whose vectors are masked at reset, and the pending bits (log entry 22). -/
def bar4Word (s : State) (a : Nat) : BitVec 32 :=
  if a < 0x8000 then (tget s.msixTable a).getD (if a % 16 = 12 then 1 else 0)
  else if a < 0x8100 then
    BitVec.ofNat 32 ((List.range 32).foldl (fun n i => n + b2n ((a - 0x8000) * 8 + i ∈ s.msixPending) * 2 ^ i) 0)
  else 0

/-- An access of BAR4 is aligned and of 4 or 8 bytes (R67). -/
def bar4Ok (a n : Nat) : Bool := (n = 4 || n = 8) && a % n = 0

/-- REGISTER_READ. BARs are numbered as R86 numbers them. -/
def registerRead (bar off n : Nat) (s : State) : State :=
  match bar with
  | 0 => bar0Read (off % 2 ^ 26) n s
  | 1 => emit (.readData ((List.range n).map (fun i => winByte s ((off + i) % 2 ^ 23)))) s
  | 2 =>
    let a := off % 2 ^ 16
    if bar4Ok a n then emit (.readData ((List.range (n / 4)).flatMap (fun i => leBytes 4 (bar4Word s (a + 4 * i)).toNat))) s
    else violation 2 (barAddr 2 a) n true 0 false s
  | _ => s

/-- REGISTER_READ (R67, R495). -/
def execRegisterRead (bar off size : Nat) (s : State) : Host.Outcome State Fault Refusal := .next (drainAll (registerRead bar off size s))

/-! ## Register writes -/

/-- A write that sets the bits of a mask and keeps the others. -/
def maskWrite (o mask : Nat) (v : Word64) (s : State) : State :=
  let m := BitVec.ofNat 64 mask
  regSet o ((regGet s o &&& ~~~m) ||| (v &&& m)) s

/-- A write of MPC (R501, R502). -/
def mpcWrite (off : Nat) (v : Word64) (s : State) : State :=
  let e := (off - 0x140) / 0x20
  if off = 0x010 then portEnable v s
  else if off = 0x100 then ctxWriteWord0 (.cq 0) v s
  else if off = 0x108 then ctxWriteWord1 (.cq 0) v s
  else if off = 0x110 ∨ off = 0x118 then ctxWriteReserved (.cq 0) ((off - 0x100) / 8) v s
  else if 0x140 ≤ off ∧ off < 0x240 then
    match (off - 0x140) % 0x20 / 8 with
    | 0 => ctxWriteWord0 (.ev e) v s
    | 1 => ctxWriteWord1 (.ev e) v s
    | k => ctxWriteReserved (.ev e) k v s
  else headWrite (.ev ((off - 0x240) / 8)) (v.toNat % 65536) (barAddr 0 off) 8 s

/-- A field with a range whose other values are taken as the nearer limit. -/
def nearField (v : Word64) (hi lo least most : Nat) : Nat := clampNat least most (bits v.toNat hi lo) * 2 ^ lo

/-- BLW_OFS_RAIL: five signed offsets within −10 and +20 mV (R423). -/
def railOfsWord (v : Word64) : Nat :=
  (List.range 5).foldl (fun a r => a + unsigned 8 (clampInt (-10) 20 (signed 8 (bits v.toNat (8 * r + 7) (8 * r)))) * 256 ^ r) 0

/-- A write of BLW_UCAL_CTL: FACTORY and then SAVE (R424). -/
def ucalCtl (v : Word64) (s : State) : State :=
  let s := if v.getLsbD 1 then ucalFactory s else s
  if v.getLsbD 0 then ucalSave s else s

/-- A write of BLW (R410, R413, R417, R419, R423, R424, R505). -/
def blwWrite (off : Nat) (v : Word64) (s : State) : State :=
  let o := reg .blw 0 off
  match off with
  | 0x100 => floorWrite v s
  | 0x108 => capWrite v s
  | 0x110 => regField o 9 0 (clampNat 550 850 (bits v.toNat 9 0)) s
  | 0x158 =>
    maskWrite o 0x3FFF_0F01 (BitVec.ofNat 64 (bits v.toNat 0 0 + nearField v 11 8 1 8 + nearField v 29 16 50 10000)) s
  | 0x170 => regSet o (BitVec.ofNat 64 (railOfsWord v)) s
  | 0x178 => ofsTrim v s
  | 0x180 => regSet o (v &&& 0xFFFF_FFFF) s
  | 0x198 => ucalCtl v s
  | 0x1A0 => setGuard (clampNat 10 50 (bits v.toNat 7 0)) s
  | _ => ofsTap v s

/-- A write of BAG_DRAIN or BAG_CH_SEL. -/
def bagWrite (off : Nat) (v : Word64) (s : State) : State :=
  if off = 0x108 then regSet (reg .bag 0 off) (BitVec.ofNat 64 (nearField v 15 0 10 3600 + nearField v 31 16 50 10000)) s
  else regSet (reg .bag 0 off) (BitVec.ofNat 64 (if bits v.toNat 4 0 < 18 then bits v.toNat 4 0 else 0)) s

/-- A write of DRN_SHARE, DRN_DEFAULTS or DRN_AUTO (R343). -/
def drnWrite (off : Nat) (v : Word64) (s : State) : State :=
  let o := reg .drn 0 off
  match off with
  | 0x100 => setMntRates (nearField v 7 0 10 50) (regSet o (BitVec.ofNat 64 (nearField v 7 0 10 50)) s)
  | 0x108 => regSet o (BitVec.ofNat 64 (nearField v 15 0 1 60000 + nearField v 31 16 10 500 + nearField v 63 32 4096 15728640)) s
  | _ =>
    let hi := clampNat 2 50 (bits v.toNat 47 40)
    let lo := max 1 (bits v.toNat 39 32)
    let rest := nearField v 15 0 100 60000 + nearField v 63 48 64 65535
    if lo ≥ hi then regViolation3 .drn 0 off (maskWrite o 0xFFFF_0000_0000_FFFF (BitVec.ofNat 64 rest) s)
    else regSet o (BitVec.ofNat 64 (rest + lo * 2 ^ 32 + hi * 2 ^ 40)) s

/-- A write of Consort's transport page (R383, R388, R389, R396, R400): the base address changes only while Consort is off, a
peer's address only while its entry is not enabled. -/
def cstWrite (off : Nat) (v : Word64) (s : State) : State :=
  let o := reg .cst 12 off
  let i := peerSel s
  match off with
  | 0x100 | 0x108 => if fabricOn s then regViolation3 .cst 12 off s else regSet o v s
  | 0x110 => netWrite v s
  | 0x118 => shardWrite v s
  | 0x120 => regSet o (v &&& 0x3FF) s
  | 0x128 => if (peerOf s i).enable then regViolation3 .cst 12 off s else peerPut i (fun p => { p with addrHi := v }) s
  | 0x130 => if (peerOf s i).enable then regViolation3 .cst 12 off s else peerPut i (fun p => { p with addrLo := v }) s
  | 0x138 => peerCtl v s
  | 0x140 => mirrorWrite v s
  | _ =>
    regSet o (BitVec.ofNat 64 (min 4 (bits v.toNat 3 0) + min 4 (bits v.toNat 7 4) * 2 ^ 4 + nearField v 25 16 1 1000)) s

/-- SLD_REG_UNB: a rate of 0 is taken as 1, a bucket below 16 KiB as 16 (R257). -/
def regUnbWord (v : Word64) : Nat := max 1 (bits v.toNat 15 0) + max 16 (bits v.toNat 47 32) * 2 ^ 32

/-- What a write does to the register at `off` of a page: one with fields that a host sets, or that a write clears or triggers. -/
def regWriteAt (b : Blk) (i off : Nat) (d : RegDef) (v : Word64) (s : State) : State :=
  let o := reg b i off
  if off = 0x020 then blkErrClear (blkPage b i) v s
  else if off = 0x040 then regSet o ((v &&& 0xFFFF) ||| BitVec.ofNat 64 (evtAlwaysMask b)) s
  else if off = 0x038 then regSet o v s
  else
    match b with
    | .mpc => mpcWrite off v s
    | .wwy => ledgerSel v s
    | .crk =>
      let g := bootRegion s
      if off = 0x100 then bootWrite off (bits v.toNat 47 21 * 2 ^ 21) g.length s else bootWrite off g.base (bits v.toNat 40 21 * 2 ^ 21) s
    | .blw => blwWrite off v s
    | .bag => bagWrite off v s
    | .drn => drnWrite off v s
    | .ftc | .bkc => regField o 7 0 (clampNat 4 168 (bits v.toNat 7 0)) s
    | .bore => if off = 0x138 then boreDebug i v s else maskWrite o d.rw v s
    | .cst => cstWrite off v s
    | .sld => regSet o (BitVec.ofNat 64 (regUnbWord v)) s
    | _ => maskWrite o d.rw v s

/-- A register's bits that a write reaches: set by the host, cleared by a 1, or a trigger. -/
def writable (d : RegDef) : Bool := d.rw ≠ 0 || d.rwl ≠ 0 || d.w1c ≠ 0 || d.wo ≠ 0

/-- A write of BAR0. One to a register that clears on read is ignored (Table 0.1); one to a register of RO fields, or to a
reserved offset, is a violation of kind 0x03 (R495). -/
def bar0Write (o : Nat) (data : List Byte) (s : State) : State :=
  let n := data.length
  let k := bar0Kind s false o n
  match pageBlk (o / 4096) with
  | none => violation 1 (barAddr 0 o) n false 0 false s
  | some (b, i) =>
    if k ≠ 0 then violation k (barAddr 0 o) n false 0 false s
    else
      match regDef b i (o % 4096) with
      | none => violation 3 (barAddr 0 o) n false 0 false s
      | some d =>
        if writable d then regWriteAt b i (o % 4096) d (BitVec.ofNat 64 (leNat data)) s
        else if d.rc ≠ 0 then s
        else violation 3 (barAddr 0 o) n false 0 false s

/-- A write of BAR4: words of the MSI-X table; the pending bits are read-only (log entry 22). -/
def bar4Write (a : Nat) (data : List Byte) (s : State) : State :=
  if !bar4Ok a data.length then violation 2 (barAddr 2 a) data.length false 0 false s
  else
    (List.range (data.length / 4)).foldl (fun s i =>
      if a + 4 * i < 0x8000 then msixWrite (a + 4 * i) (BitVec.ofNat 32 (fld data (4 * i) 4)) s else s) s

/-- REGISTER_WRITE: of any register, of a task window, or of the MSI-X table. -/
def registerWrite (bar off : Nat) (data : List Byte) (s : State) : State :=
  match bar with
  | 0 => bar0Write (off % 2 ^ 26) data s
  | 1 => windowWrite (data.length / 256 + 2) (off % 2 ^ 23) data s
  | 2 => bar4Write (off % 2 ^ 16) data s
  | _ => s

/-- REGISTER_WRITE (R67, R495). -/
def execRegisterWrite (bar off : Nat) (data : List Byte) (s : State) : Host.Outcome State Fault Refusal :=
  .next (drainAll (registerWrite bar off data s))

end Sys2Proof.Machine
end

