-- ==== Sys2Proof/Machine/Manage.lean ====
section
/-! DEFINITION. The management port (chapter 20): vendor commands (R481), the time of day (R482), firmware (R484, R485), SPDM
sessions (R486), keys (R487, R488), debug (R492), MCTP and PLDM; and what the output pins and sensors show (R465, R483). -/

namespace Sys2Proof.Machine

/-! ## Transports and requests (R479 to R481) -/

/-- Transports of Table 20.1: 0 I3C, 1 SMBus, 2 PCIe vendor-defined messages, 3 Data Object Exchange. Those over PCIe need the
link. -/
def transportUp (s : State) (t : Nat) : Bool := t < 2 || (t < 4 && bits (regGet s (reg .mpc 0 0x2C0)).toNat 15 8 ≠ 0)

/-- Vendor commands, MCTP control and PLDM go over MCTP alone. -/
def mctpUp (s : State) (t : Nat) : Bool := t < 3 && transportUp s t

def codeOK : Nat := 0
def codeState : Nat := 1
def codeSession : Nat := 2
def codeBad : Nat := 3
def codeBusy : Nat := 4

/-- A response: its completion code and body. -/
def answer (t code : Nat) (body : List Byte) (s : State) : State := emit (.mgmt t code body) s

/-- A vendor command that needs a session: BUSY while a reset, OFF or format that an earlier one started is running, then the
session, then the state (Table 20.2; the order of these checks is log entry 87). -/
def vendor (t : Nat) (allowed : State → Bool) (f : State → State) (s : State) : State :=
  if !mctpUp s t then s
  else if s.sec.busy then answer t codeBusy [] s
  else if t ∉ s.sec.sessions then answer t codeSession [] s
  else if !allowed s then answer t codeState [] s
  else answer t codeOK [] (f s)

/-- READY, and neither OFF nor on the way to it. -/
def mgmtReady (s : State) : Bool := s.chn.stage = 6 && s.chn.mode ≠ .off && !s.chn.losing

/-- The package is powered: the input switch is closed, and the supplies are up or a start is due. -/
def powered (s : State) : Bool :=
  s.pins.switchOn && !s.chn.losing && (s.chn.stage ≠ 0 || s.pins.coldPending.isSome || s.chn.mode = .off)

/-- A request that starts a reset, OFF or format runs on after its answer. -/
def setBusy (s : State) : State := secMod (fun x => { x with busy := true }) s

/-- The time of day in seconds; what it shows unset is open (log entry 86). -/
def timeNow (s : State) : Nat :=
  match s.tod with
  | some (t, at_) => t + (s.now - at_) / 1000000000
  | none => Config.unsetTime.toNat

/-- The body of GET_STATE: the values that Table 20.2 lists, eight bytes each in its order (log entry 86). -/
def stateBody (s : State) : List Byte :=
  leBytes 8 (chnModeWord s) ++ leBytes 8 (chnBootWord s) ++ leBytes 8 (blwPowerWord s) ++ leBytes 8 (timeNow s)

/-- GET_STATE (R480, R481): it needs no session and is answered at any time. -/
def execGetState (transport : Nat) (s : State) : Host.Outcome State Fault Refusal :=
  .next (if mctpUp s transport then answer transport codeOK (stateBody s) s else s)

/-- OFF (R446). A module that has not reached READY has no journal to save: it enters OFF at once. -/
def offNow (s : State) : State :=
  if s.chn.mode = .off then s
  else if s.chn.stage = 6 then goOff (setBusy s)
  else pinMod (fun p => { p with coldPending := none }) (setMode .off s)

def execOff (transport : Nat) (s : State) : Host.Outcome State Fault Refusal :=
  .next (drainAll (vendor transport powered offNow s))

/-- COLD_RESET (R469): the power-loss sequence and then a cold start; with nothing left to save, the cold start follows at once. -/
def coldResetNow (s : State) : State :=
  let s := setBusy (pinMod (fun p => { p with coldPending := some 2 }) s)
  if mgmtReady s then beginLoss s else chnMod (fun c => { c with stage := 0 }) s

def execColdReset (transport : Nat) (s : State) : Host.Outcome State Fault Refusal :=
  .next (vendor transport powered coldResetNow s)

/-- WARM_RESET (R469, R478): the port is quiesced, and the warm reset follows. -/
def warmResetNow (s : State) : State := setBusy (chnMod (fun c => { c with quiesced := true, warmPending := true }) s)

def execMgmtWarmReset (transport : Nat) (s : State) : Host.Outcome State Fault Refusal :=
  .next (vendor transport mgmtReady warmResetNow s)

/-- HOLD_SET (R444). -/
def execHoldSet (transport : Nat) (s : State) : Host.Outcome State Fault Refusal :=
  .next (drainAll (vendor transport mgmtReady (enterHold 4 0) s))

/-- HOLD_CLEAR (R444, Table 17.9): with no cause left, HOLD is left at once. -/
def holdCleared (s : State) : State :=
  if !s.chn.causes.getLsbD 4 then s
  else
    let s := chnMod (fun c => { c with causes := c.causes &&& 0b01111#5, mapPending := true }) s
    if s.chn.causes = 0 ∧ s.chn.mode = .hold then setMode (modeAtStart s) s else s

def execHoldClear (transport : Nat) (s : State) : Host.Outcome State Fault Refusal :=
  .next (drainAll (vendor transport mgmtReady holdCleared s))

/-- FORMAT is allowed in FAILED with code 4 and in OFF. -/
def formatAllowed (s : State) : Bool :=
  s.pins.switchOn && !s.chn.losing && ((s.chn.stage = 7 && s.chn.failCode = 4) || s.chn.mode = .off)

/-- FORMAT (R488): a new media key, erased root banks, and a cold start that formats. -/
def formatNow (s : State) : State :=
  let s := bagMod (fun b => { b with mediaKeyNo := b.mediaKeyNo + 1, rootsErased := true, rootsValid := false, oldRoot := none }) s
  let s := setBusy (secMod (fun x => { x with mediaKey := true }) s)
  chnMod (fun c => { c with stage := 0 }) (pinMod (fun p => { p with coldPending := some 2 }) s)

def execFormat (transport : Nat) (s : State) : Host.Outcome State Fault Refusal :=
  .next (vendor transport formatAllowed formatNow s)

/-- SET_TIME of the management port (R482). -/
def execMgmtSetTime (transport seconds : Nat) (s : State) : Host.Outcome State Fault Refusal :=
  .next (vendor transport powered (fun s => { s with tod := some (seconds % 2 ^ 64, s.now) }) s)

/-- KEK_SET (R487): keys already loaded stay. -/
def execKekSet (transport generation : Nat) (key : BitVec 256) (s : State) : Host.Outcome State Fault Refusal :=
  .next (vendor transport powered (secMod (fun x => { x with kek := some (generation % 2 ^ 32, key) })) s)

/-! ## Debug (R492) -/

/-- DEBUG_ENABLED of a token. -/
def debugStart (serial : Nat) (s : State) : State :=
  raise .sec (mkEv 0x0121 1 .sec 0 0xFFFF 0 (serial % 2 ^ 32) 0 0) (secMod (fun x => { x with debug := true }) s)

/-- A token that fails its check is counted. -/
def tokenFails (s : State) : State := bumpSat (reg .sec 0 0x118) 16 16 1 (blkFault (blkPage .sec 0) 1 0 0 s)

/-- DEBUG_ENABLE (R492): a token with a bad signature, serial or nonce answers BAD_REQUEST. -/
def debugEnable (t serial : Nat) (tokenOk : Bool) (s : State) : State :=
  if tokenOk then vendor t mgmtReady (debugStart serial) s
  else if mctpUp s t && !s.sec.busy && decide (t ∈ s.sec.sessions) && mgmtReady s then answer t codeBad [] (tokenFails s)
  else vendor t mgmtReady id s

def execDebugEnable (transport serial : Nat) (tokenOk : Bool) (s : State) : Host.Outcome State Fault Refusal :=
  .next (drainAll (debugEnable transport serial tokenOk s))

/-! ## Firmware (R484, R485) -/

/-- The bank that an update of a component writes, true for B: the one that is not running. -/
def updateBank (s : State) (component : Nat) : Bool := if component = 1 then !s.sec.pkgRunB else !s.sec.mcRunB

/-- The content of a bank changes. -/
def putBank (component : Nat) (bankB : Bool) (k : FwBank) (x : Security) : Security :=
  match component, bankB with
  | 1, false => { x with pkgA := k }
  | 1, true => { x with pkgB := k }
  | _, false => { x with mcA := k }
  | _, true => { x with mcB := k }

def bankOf (component : Nat) (bankB : Bool) (x : Security) : FwBank :=
  match component, bankB with
  | 1, false => x.pkgA
  | 1, true => x.pkgB
  | _, false => x.mcA
  | _, true => x.mcB

/-- FIRMWARE_UPDATE (R484): an image that passes the checks of R485 is in the bank that is not running; another is reported as a
verify failure and leaves both banks as they were. -/
def firmwareUpdate (component svn release : Nat) (signatureOk : Bool) (s : State) : State :=
  if component ≠ 1 ∧ component ≠ 2 then s
  else if signatureOk ∧ s.sec.fuse ≤ svn ∧ svn ≤ 63 then
    emit (.pldmVerify component true)
      (secMod (putBank component (updateBank s component) { valid := true, svn := svn, release := release }) s)
  else
    let s := if powered s then bumpSat (reg .sec 0 0x118) 32 16 1 (blkFault (blkPage .sec 0) 2 0 0 s) else s
    emit (.pldmVerify component false) s

def execFirmwareUpdate (component svn release : Nat) (signatureOk : Bool) (s : State) : Host.Outcome State Fault Refusal :=
  .next (firmwareUpdate component svn release signatureOk s)

/-- ACTIVATE_FIRMWARE (R484): the updated bank is staged for the next cold or warm reset. In standby no event can be raised. -/
def activateFirmware (component : Nat) (s : State) : State :=
  let bankB := updateBank s component
  let k := bankOf component bankB s.sec
  if (component ≠ 1 ∧ component ≠ 2) ∨ k.valid = false then s
  else
    let s := secMod (fun x => { x with staged := insertNat component x.staged }) s
    if powered s then
      raise .sec (mkEv 0x0122 0 .sec 0 0xFFFF 0 (component + b2n bankB * 2 ^ 16 + k.svn % 64 * 2 ^ 24) 0 0) s
    else s

def execActivateFirmware (component : Nat) (s : State) : Host.Outcome State Fault Refusal :=
  .next (drainAll (activateFirmware component s))

/-! ## SPDM (R486) -/

/-- Request codes of SPDM that open and end a session (log entry 14). -/
def spdmKeyExchange : Nat := 0xE4
def spdmEndSession : Nat := 0xEC

/-- SPDM_REQUEST (R486): it is answered, and KEY_EXCHANGE and END_SESSION open and end the transport's session. -/
def spdmRequest (t code : Nat) (data : List Byte) (s : State) : State :=
  if !transportUp s t then s
  else
    let s := emit (.spdm t (Config.spdmAnswer code data)) s
    if code = spdmKeyExchange then secMod (fun x => { x with sessions := insertNat t x.sessions }) s
    else if code = spdmEndSession then secMod (fun x => { x with sessions := x.sessions.filter (· ≠ t) }) s
    else s

def execSpdmRequest (transport code : Nat) (data : List Byte) (s : State) : Host.Outcome State Fault Refusal :=
  .next (spdmRequest transport code data s)

/-- SPDM_SESSION_TIMEOUT (R486): 300 s without traffic. -/
def execSpdmSessionTimeout (transport : Nat) (s : State) : Host.Outcome State Fault Refusal :=
  .next (secMod (fun x => { x with sessions := x.sessions.filter (· ≠ transport) }) s)

/-! ## MCTP and PLDM (R479, R483) -/

/-- MCTP_CONTROL (R479): the bus owner assigns the module's endpoint ID on a transport. -/
def execMctpControl (transport eid : Nat) (s : State) : Host.Outcome State Fault Refusal :=
  .next (if mctpUp s transport then
      emit (.mctp transport (eid % 256)) (secMod (fun x => { x with eids := tset x.eids transport (eid % 256) }) s)
    else s)

/-- PLDM_SET_EVENT_RECEIVER (R483). -/
def execPldmSetEventReceiver (transport eid : Nat) (s : State) : Host.Outcome State Fault Refusal :=
  .next (if mctpUp s transport then
      emit (.pldmReply transport) (secMod (fun x => { x with eventReceiver := some (transport, eid % 256) }) s)
    else s)

/-! ## What the output pins and the sensors show (R465, R477, R483) -/

/-- A blinking or steady lamp. -/
inductive Lamp where
  | dark | steady | oneHz | twoHz
deriving DecidableEq, Repr

/-- FAULT# asserted: HOLD, OFF or a start that has stopped with FAILED. -/
def pinFault (s : State) : Bool := s.chn.mode = .hold || s.chn.mode = .off || s.chn.stage = 7

/-- THERM# asserted: the cap is reduced for temperature, or a thermal trip has happened since cold reset. -/
def pinTherm (s : State) : Bool := s.blw.thermalCut > 0 || s.blw.tripped

/-- LED_ACT. -/
def ledAct (s : State) : Lamp :=
  if s.chn.losing || inExec s > 0 then .steady else if 1 ≤ s.chn.stage ∧ s.chn.stage ≤ 5 then .twoHz else .dark

/-- LED_ATTN: steady in HOLD, 1 Hz in OFF and in FAILED. -/
def ledAttn (s : State) : Lamp :=
  if s.chn.mode = .off || s.chn.stage = 7 then .oneHz else if s.chn.mode = .hold then .steady else .dark

/-- PLDM sensors of Table 20.4 that follow from the state, in the unit of the state: input power in W, hottest die and stack in
0.1 °C, hold-up energy in mJ, wear of the worst channel in per cent, and the mode with 4 for FAILED. -/
def sensor (s : State) (n : Nat) : Option Int :=
  let temp := (regGet s (reg .blw 0 0x150)).toNat
  let on := s.chn.stage ≠ 0
  match n with
  | 2 => if on then some (bits (regGet s (reg .blw 0 0x148)).toNat 63 48 : Nat) else none
  | 3 => if on then some (signed 16 (bits temp 55 40)) else none
  | 4 => if on then some (signed 16 (bits temp 23 8)) else none
  | 7 => if on then some (s.bag.nowMj : Nat) else none
  | 8 => if on then some (((List.range 18).map (wearPct s)).foldl max 0 : Nat) else none
  | 9 => some (if s.chn.stage = 7 then 4 else modeCode s.chn.mode : Nat)
  | _ => none

end Sys2Proof.Machine
end

