-- ==== Sys2Proof/Machine/Dispatch.lean ====
section
/-! DEFINITION. One arm for each command: its meaning. -/

namespace Sys2Proof.Machine

/-- The effect of a command on everything but the queue. -/
def exec (i : Instr) (s : State) : Host.Outcome State Fault Refusal :=
  match i with
  | .commit off data => Sys2Proof.Machine.execCommit off data s
  | .cqHeadWrite q v => Sys2Proof.Machine.execCqHeadWrite q v s
  | .evrHeadWrite e v => Sys2Proof.Machine.execEvrHeadWrite e v s
  | .ringContextWord0Write r v => Sys2Proof.Machine.execRingContextWord0Write r v s
  | .ringContextWord1Write r v => Sys2Proof.Machine.execRingContextWord1Write r v s
  | .ringZeroingDone r => Sys2Proof.Machine.execRingZeroingDone r s
  | .portEnableWrite v => Sys2Proof.Machine.execPortEnableWrite v s
  | .blkErrClear page v => Sys2Proof.Machine.execBlkErrClear page v s
  | .boreDebugWrite cluster v => Sys2Proof.Machine.execBoreDebugWrite cluster v s
  | .crkBootLenWrite v => Sys2Proof.Machine.execCrkBootLenWrite v s
  | .wwyLedgerSelWrite v => Sys2Proof.Machine.execWwyLedgerSelWrite v s
  | .blwCalSelWrite v => Sys2Proof.Machine.execBlwCalSelWrite v s
  | .blwOfsTrimWrite v => Sys2Proof.Machine.execBlwOfsTrimWrite v s
  | .blwOfsTapWrite v => Sys2Proof.Machine.execBlwOfsTapWrite v s
  | .registerWrite bar off data => Sys2Proof.Machine.execRegisterWrite bar off data s
  | .startDecision home => Sys2Proof.Machine.execStartDecision home s
  | .refusalScan => Sys2Proof.Machine.execRefusalScan s
  | .completionPost c => Sys2Proof.Machine.execCompletionPost c s
  | .coalesceTimerExpiry r => Sys2Proof.Machine.execCoalesceTimerExpiry r s
  | .msixUnmask vector => Sys2Proof.Machine.execMsixUnmask vector s
  | .nop c => Sys2Proof.Machine.execNop c s
  | .flush c => Sys2Proof.Machine.execFlush c s
  | .barrier c => Sys2Proof.Machine.execBarrier c s
  | .collCreate c => Sys2Proof.Machine.execCollCreate c s
  | .collDrop c => Sys2Proof.Machine.execCollDrop c s
  | .collQuery c => Sys2Proof.Machine.execCollQuery c s
  | .collConfigPlacement c => Sys2Proof.Machine.execCollConfigPlacement c s
  | .collConfigIndexKind c => Sys2Proof.Machine.execCollConfigIndexKind c s
  | .collConfigGrant c => Sys2Proof.Machine.execCollConfigGrant c s
  | .collConfigRevoke c => Sys2Proof.Machine.execCollConfigRevoke c s
  | .insert c => Sys2Proof.Machine.execInsert c s
  | .insertBatch c => Sys2Proof.Machine.execInsertBatch c s
  | .delete c => Sys2Proof.Machine.execDelete c s
  | .upsert c => Sys2Proof.Machine.execUpsert c s
  | .lookup c => Sys2Proof.Machine.execLookup c s
  | .setAttr c => Sys2Proof.Machine.execSetAttr c s
  | .journalWrite c => Sys2Proof.Machine.execJournalWrite c s
  | .searchFlat c => Sys2Proof.Machine.execSearchFlat c s
  | .searchGraph c => Sys2Proof.Machine.execSearchGraph c s
  | .searchFanout c => Sys2Proof.Machine.execSearchFanout c s
  | .searchBatch c => Sys2Proof.Machine.execSearchBatch c s
  | .rerank c => Sys2Proof.Machine.execRerank c s
  | .encode c => Sys2Proof.Machine.execEncode c s
  | .progLoadLoad c => Sys2Proof.Machine.execProgLoadLoad c s
  | .progLoadRetire c => Sys2Proof.Machine.execProgLoadRetire c s
  | .tableLoad c => Sys2Proof.Machine.execTableLoad c s
  | .tableSwap c => Sys2Proof.Machine.execTableSwap c s
  | .consolidateFold c => Sys2Proof.Machine.execConsolidateFold c s
  | .consolidateCompact c => Sys2Proof.Machine.execConsolidateCompact c s
  | .consolidateSet c => Sys2Proof.Machine.execConsolidateSet c s
  | .consolidateReport c => Sys2Proof.Machine.execConsolidateReport c s
  | .reencode c => Sys2Proof.Machine.execReencode c s
  | .checkpointNow c => Sys2Proof.Machine.execCheckpointNow c s
  | .checkpointSetInterval c => Sys2Proof.Machine.execCheckpointSetInterval c s
  | .exportCmd c => Sys2Proof.Machine.execExportCmd c s
  | .importCmd c => Sys2Proof.Machine.execImportCmd c s
  | .xlatInvalidate c => Sys2Proof.Machine.execXlatInvalidate c s
  | .regionRegister c => Sys2Proof.Machine.execRegionRegister c s
  | .regionRelease c => Sys2Proof.Machine.execRegionRelease c s
  | .readDeferred c => Sys2Proof.Machine.execReadDeferred c s
  | .readLog c => Sys2Proof.Machine.execReadLog c s
  | .domainCreate c => Sys2Proof.Machine.execDomainCreate c s
  | .domainDestroy c => Sys2Proof.Machine.execDomainDestroy c s
  | .queueCreate c => Sys2Proof.Machine.execQueueCreate c s
  | .queueDestroy c => Sys2Proof.Machine.execQueueDestroy c s
  | .cqCreate c => Sys2Proof.Machine.execCqCreate c s
  | .cqDestroy c => Sys2Proof.Machine.execCqDestroy c s
  | .cqEnable c => Sys2Proof.Machine.execCqEnable c s
  | .classConfig c => Sys2Proof.Machine.execClassConfig c s
  | .abort c => Sys2Proof.Machine.execAbort c s
  | .adminSetTime c => Sys2Proof.Machine.execAdminSetTime c s
  | .queryLimits c => Sys2Proof.Machine.execQueryLimits c s
  | .keyLoad c => Sys2Proof.Machine.execKeyLoad c s
  | .keyClear c => Sys2Proof.Machine.execKeyClear c s
  | .fabricKey c => Sys2Proof.Machine.execFabricKey c s
  | .accountRead c => Sys2Proof.Machine.execAccountRead c s
  | .securityState c => Sys2Proof.Machine.execSecurityState c s
  | .slideIssue engine port addr bytes => Sys2Proof.Machine.execSlideIssue engine port addr bytes s
  | .transferLanded engine ring slot bytes poison => Sys2Proof.Machine.execTransferLanded engine ring slot bytes poison s
  | .blockListPieceArrival c => Sys2Proof.Machine.execBlockListPieceArrival c s
  | .streamDeadlock rings => Sys2Proof.Machine.execStreamDeadlock rings s
  | .resourceWaitTimeout c => Sys2Proof.Machine.execResourceWaitTimeout c s
  | .scanBlockScored c block => Sys2Proof.Machine.execScanBlockScored c block s
  | .localListHandover c group reed => Sys2Proof.Machine.execLocalListHandover c group reed s
  | .valveMerge c tower => Sys2Proof.Machine.execValveMerge c tower s
  | .spillReduction c tower => Sys2Proof.Machine.execSpillReduction c tower s
  | .walkRoundCommit c => Sys2Proof.Machine.execWalkRoundCommit c s
  | .deadlineCut c => Sys2Proof.Machine.execDeadlineCut c s
  | .contextMoved fromCore toCore => Sys2Proof.Machine.execContextMoved fromCore toCore s
  | .boreRegionDrained c => Sys2Proof.Machine.execBoreRegionDrained c s
  | .splitCombine c => Sys2Proof.Machine.execSplitCombine c s
  | .accParityError cluster row col => Sys2Proof.Machine.execAccParityError cluster row col s
  | .columnSpared cluster tile col cause => Sys2Proof.Machine.execColumnSpared cluster tile col cause s
  | .barrierAcknowledged b => Sys2Proof.Machine.execBarrierAcknowledged b s
  | .foldStart h => Sys2Proof.Machine.execFoldStart h s
  | .foldAgeExpiry h => Sys2Proof.Machine.execFoldAgeExpiry h s
  | .foldCommit h => Sys2Proof.Machine.execFoldCommit h s
  | .slotRelease h => Sys2Proof.Machine.execSlotRelease h s
  | .patchApply h => Sys2Proof.Machine.execPatchApply h s
  | .compactionTrigger h key => Sys2Proof.Machine.execCompactionTrigger h key s
  | .tombstoneSettlement h => Sys2Proof.Machine.execTombstoneSettlement h s
  | .reencodeStep h => Sys2Proof.Machine.execReencodeStep h s
  | .reencodeDone h => Sys2Proof.Machine.execReencodeDone h s
  | .repartition h => Sys2Proof.Machine.execRepartition h s
  | .indexBuild h => Sys2Proof.Machine.execIndexBuild h s
  | .autoEvaluation => Sys2Proof.Machine.execAutoEvaluation s
  | .dataRepaired h slot w tierAddr media copyOk => Sys2Proof.Machine.execDataRepaired h slot w tierAddr media copyOk s
  | .tablePaused t cluster bankByte => Sys2Proof.Machine.execTablePaused t cluster bankByte s
  | .tableResumed t fromBag unreadable => Sys2Proof.Machine.execTableResumed t fromBag unreadable s
  | .tierUe tier chan addr byScrub c => Sys2Proof.Machine.execTierUe tier chan addr byScrub c s
  | .tierScrub tier chan row corrected pct uncorrectable => Sys2Proof.Machine.execTierScrub tier chan row corrected pct uncorrectable s
  | .rowRepaired tier chan addr => Sys2Proof.Machine.execRowRepaired tier chan addr s
  | .unitSelfTest u pass => Sys2Proof.Machine.execUnitSelfTest u pass s
  | .unitRetired u cause => Sys2Proof.Machine.execUnitRetired u cause s
  | .unitHang u => Sys2Proof.Machine.execUnitHang u s
  | .unitReturn u => Sys2Proof.Machine.execUnitReturn u s
  | .unitSleep u => Sys2Proof.Machine.execUnitSleep u s
  | .unitWake u => Sys2Proof.Machine.execUnitWake u s
  | .monitorSample rail slowest tempTenths ofsHundredths => Sys2Proof.Machine.execMonitorSample rail slowest tempTenths ofsHundredths s
  | .floorWindow counts => Sys2Proof.Machine.execFloorWindow counts s
  | .floorLost rail best => Sys2Proof.Machine.execFloorLost rail best s
  | .floorRestored rail => Sys2Proof.Machine.execFloorRestored rail s
  | .paceWear u slowdown => Sys2Proof.Machine.execPaceWear u slowdown s
  | .phaseSpared phase => Sys2Proof.Machine.execPhaseSpared phase s
  | .powerSample inputW inputMv => Sys2Proof.Machine.execPowerSample inputW inputMv s
  | .powerPeak watts milliamps => Sys2Proof.Machine.execPowerPeak watts milliamps s
  | .temperatureSample die dieT stack stackT heldUs => Sys2Proof.Machine.execTemperatureSample die dieT stack stackT heldUs s
  | .coolantValveUpdate position => Sys2Proof.Machine.execCoolantValveUpdate position s
  | .blwFloorWrite v => Sys2Proof.Machine.execBlwFloorWrite v s
  | .blwCapWrite v => Sys2Proof.Machine.execBlwCapWrite v s
  | .blwVtargetWrite v => Sys2Proof.Machine.execBlwVtargetWrite v s
  | .blwGuardWrite v => Sys2Proof.Machine.execBlwGuardWrite v s
  | .ucalSave => Sys2Proof.Machine.execUcalSave s
  | .ucalSaveDone ok => Sys2Proof.Machine.execUcalSaveDone ok s
  | .ucalFactory => Sys2Proof.Machine.execUcalFactory s
  | .stripeProgrammed => Sys2Proof.Machine.execStripeProgrammed s
  | .drainTimeout => Sys2Proof.Machine.execDrainTimeout s
  | .journalPoison seq headerOk => Sys2Proof.Machine.execJournalPoison seq headerOk s
  | .checkpointTimer => Sys2Proof.Machine.execCheckpointTimer s
  | .checkpointDone => Sys2Proof.Machine.execCheckpointDone s
  | .logCleaning stripe => Sys2Proof.Machine.execLogCleaning stripe s
  | .flashScrub stripe unit refresh unreadable => Sys2Proof.Machine.execFlashScrub stripe unit refresh unreadable s
  | .memberFailed whole channel die media => Sys2Proof.Machine.execMemberFailed whole channel die media s
  | .rebuildDone channel stripes => Sys2Proof.Machine.execRebuildDone channel stripes s
  | .stripeLost stripe member refilled unread gone => Sys2Proof.Machine.execStripeLost stripe member refilled unread gone s
  | .holdupMeasurement fullMj nowMj => Sys2Proof.Machine.execHoldupMeasurement fullMj nowMj s
  | .holdupChargeTimeout => Sys2Proof.Machine.execHoldupChargeTimeout s
  | .holdupThresholdReached nowMj => Sys2Proof.Machine.execHoldupThresholdReached nowMj s
  | .powerLoss => Sys2Proof.Machine.execPowerLoss s
  | .dumpSealed => Sys2Proof.Machine.execDumpSealed s
  | .pwrfailAssert ns => Sys2Proof.Machine.execPwrfailAssert ns s
  | .overvoltage => Sys2Proof.Machine.execOvervoltage s
  | .mateBreak => Sys2Proof.Machine.execMateBreak s
  | .inputSwitchClose => Sys2Proof.Machine.execInputSwitchClose s
  | .coldStart f => Sys2Proof.Machine.execColdStart f s
  | .restartAfterSeal => Sys2Proof.Machine.execRestartAfterSeal s
  | .warmReset recordOk => Sys2Proof.Machine.execWarmReset recordOk s
  | .perstBeforeReady => Sys2Proof.Machine.execPerstBeforeReady s
  | .functionLevelReset => Sys2Proof.Machine.execFunctionLevelReset s
  | .resetReportPost => Sys2Proof.Machine.execResetReportPost s
  | .linkChanged rate width l0p flit => Sys2Proof.Machine.execLinkChanged rate width l0p flit s
  | .fatalError block number addr => Sys2Proof.Machine.execFatalError block number addr s
  | .atsTranslationCompletion dom va a ns => Sys2Proof.Machine.execAtsTranslationCompletion dom va a ns s
  | .pageRequestResponse dom va a => Sys2Proof.Machine.execPageRequestResponse dom va a s
  | .pageRequestTimeout dom va => Sys2Proof.Machine.execPageRequestTimeout dom va s
  | .regionTableReadDone dom va a => Sys2Proof.Machine.execRegionTableReadDone dom va a s
  | .atsInvalidateRequest pasid base len => Sys2Proof.Machine.execAtsInvalidateRequest pasid base len s
  | .invalidationDrained n ns => Sys2Proof.Machine.execInvalidationDrained n ns s
  | .atsEnableCleared => Sys2Proof.Machine.execAtsEnableCleared s
  | .laneSpared port lane loopbackFails => Sys2Proof.Machine.execLaneSpared port lane loopbackFails s
  | .cablePresenceChange port present memAnswers => Sys2Proof.Machine.execCablePresenceChange port present memAnswers s
  | .portState port up => Sys2Proof.Machine.execPortState port up s
  | .hello peer conn shard portsUp => Sys2Proof.Machine.execHello peer conn shard portsUp s
  | .helloAck peer conn shard portsUp => Sys2Proof.Machine.execHelloAck peer conn shard portsUp s
  | .close peer => Sys2Proof.Machine.execClose peer s
  | .ack peer ackPsn bitmap ce => Sys2Proof.Machine.execAck peer ackPsn bitmap ce s
  | .resendTimeout peer => Sys2Proof.Machine.execResendTimeout peer s
  | .connectionDown peer => Sys2Proof.Machine.execConnectionDown peer s
  | .helloRetry peer => Sys2Proof.Machine.execHelloRetry peer s
  | .rateIncrease peer => Sys2Proof.Machine.execRateIncrease peer s
  | .subq peer request subKind coll shardId bnd cut deadlineUs codeBits encVersion encNext params codes rq filter tset => Sys2Proof.Machine.execSubq peer request subKind coll shardId bnd cut deadlineUs codeBits encVersion encNext params codes rq filter tset s
  | .subres peer request rep es => Sys2Proof.Machine.execSubres peer request rep es s
  | .rcmd peer q cmd data => Sys2Proof.Machine.execRcmd peer q cmd data s
  | .rcpl peer q => Sys2Proof.Machine.execRcpl peer q s
  | .reject peer q reason nextSeq => Sys2Proof.Machine.execReject peer q reason nextSeq s
  | .event peer => Sys2Proof.Machine.execEvent peer s
  | .mrec peer recs => Sys2Proof.Machine.execMrec peer recs s
  | .mack peer seq => Sys2Proof.Machine.execMack peer seq s
  | .mfetch peer first last => Sys2Proof.Machine.execMfetch peer first last s
  | .mtrim peer ckptSeq dead => Sys2Proof.Machine.execMtrim peer ckptSeq dead s
  | .mirrorTimeout => Sys2Proof.Machine.execMirrorTimeout s
  | .cstPeerCtlWrite v => Sys2Proof.Machine.execCstPeerCtlWrite v s
  | .cstMirrorWrite v => Sys2Proof.Machine.execCstMirrorWrite v s
  | .cstShardWrite v => Sys2Proof.Machine.execCstShardWrite v s
  | .getState transport => Sys2Proof.Machine.execGetState transport s
  | .off transport => Sys2Proof.Machine.execOff transport s
  | .coldReset transport => Sys2Proof.Machine.execColdReset transport s
  | .mgmtWarmReset transport => Sys2Proof.Machine.execMgmtWarmReset transport s
  | .holdSet transport => Sys2Proof.Machine.execHoldSet transport s
  | .holdClear transport => Sys2Proof.Machine.execHoldClear transport s
  | .format transport => Sys2Proof.Machine.execFormat transport s
  | .mgmtSetTime transport seconds => Sys2Proof.Machine.execMgmtSetTime transport seconds s
  | .kekSet transport generation key => Sys2Proof.Machine.execKekSet transport generation key s
  | .debugEnable transport serial tokenOk => Sys2Proof.Machine.execDebugEnable transport serial tokenOk s
  | .firmwareUpdate component svn release signatureOk => Sys2Proof.Machine.execFirmwareUpdate component svn release signatureOk s
  | .activateFirmware component => Sys2Proof.Machine.execActivateFirmware component s
  | .spdmRequest transport code data => Sys2Proof.Machine.execSpdmRequest transport code data s
  | .spdmSessionTimeout transport => Sys2Proof.Machine.execSpdmSessionTimeout transport s
  | .registerRead bar off size => Sys2Proof.Machine.execRegisterRead bar off size s
  | .urgTokenBucketFill dom => Sys2Proof.Machine.execUrgTokenBucketFill dom s
  | .slideBucketFill engine maintenance ns => Sys2Proof.Machine.execSlideBucketFill engine maintenance ns s
  | .checkpointWaitExpiry c => Sys2Proof.Machine.execCheckpointWaitExpiry c s
  | .nodeReadArrival c node => Sys2Proof.Machine.execNodeReadArrival c node s
  | .perstDeassert => Sys2Proof.Machine.execPerstDeassert s
  | .managementControllerPowerUp straps => Sys2Proof.Machine.execManagementControllerPowerUp straps s
  | .priEnableSet => Sys2Proof.Machine.execPriEnableSet s
  | .mctpControl transport eid => Sys2Proof.Machine.execMctpControl transport eid s
  | .pldmSetEventReceiver transport eid => Sys2Proof.Machine.execPldmSetEventReceiver transport eid s
  | .addressResolutionRequest port ipHi ipLo => Sys2Proof.Machine.execAddressResolutionRequest port ipHi ipLo s
  | .dataPacket peer known port hdr payload ce => Sys2Proof.Machine.execDataPacket peer known port hdr payload ce s
  | .ackDelayTimer peer => Sys2Proof.Machine.execAckDelayTimer peer s
  | .mapSaveDone ok => Sys2Proof.Machine.execMapSaveDone ok s

end Sys2Proof.Machine
end

