-- ==== Sys2Proof/Safety.lean ====
section
/-! DEFINITION. What counts as a safe run, in the terms the statements use: the invariant of the state, and a step that neither
stops nor leaves it. -/

namespace Sys2Proof.Machine

/-- The invariant of the state: host memory and the command areas of the task windows are in their canonical form (addresses
strictly rising, no listed byte zero), and the module has its five classes (URG and A to D), twelve fabric ports (Table 0.2)
and five core rails (R405). -/
structure Inv (s : State) : Prop where
  mem     : memWf s.hostMem = true
  windows : memWf s.windows = true
  classes : s.classes.length = 5
  ports   : s.cst.ports.length = 12
  rails   : s.blw.rails.length = 5

/-- The parts of the state, one for each field. -/
inductive Field where
  | pending | now | tod | outbox | hostMem | hostPoison | regs | latches | service | msixTable | msixPending | windows
  | queues | cmds | nextCmd | reports | rings | evRings | classes | lastUrg | ledgers | domains | crook | colls | progs
  | tables | srings | engines | bag | cst | blw | chn | sec | pins | poison | rowsMarked | rowCorrected | unitCorrected
  | tierLow | parityCells | accs | accSet | bells | contexts | nextLead
deriving DecidableEq, Repr

/-- A part is the same in two states. -/
def Field.same (p : Field) (s t : State) : Prop :=
  match p with
  | .pending => t.pending = s.pending
  | .now => t.now = s.now
  | .tod => t.tod = s.tod
  | .outbox => t.outbox = s.outbox
  | .hostMem => t.hostMem = s.hostMem
  | .hostPoison => t.hostPoison = s.hostPoison
  | .regs => t.regs = s.regs
  | .latches => t.latches = s.latches
  | .service => t.service = s.service
  | .msixTable => t.msixTable = s.msixTable
  | .msixPending => t.msixPending = s.msixPending
  | .windows => t.windows = s.windows
  | .queues => t.queues = s.queues
  | .cmds => t.cmds = s.cmds
  | .nextCmd => t.nextCmd = s.nextCmd
  | .reports => t.reports = s.reports
  | .rings => t.rings = s.rings
  | .evRings => t.evRings = s.evRings
  | .classes => t.classes = s.classes
  | .lastUrg => t.lastUrg = s.lastUrg
  | .ledgers => t.ledgers = s.ledgers
  | .domains => t.domains = s.domains
  | .crook => t.crook = s.crook
  | .colls => t.colls = s.colls
  | .progs => t.progs = s.progs
  | .tables => t.tables = s.tables
  | .srings => t.srings = s.srings
  | .engines => t.engines = s.engines
  | .bag => t.bag = s.bag
  | .cst => t.cst = s.cst
  | .blw => t.blw = s.blw
  | .chn => t.chn = s.chn
  | .sec => t.sec = s.sec
  | .pins => t.pins = s.pins
  | .poison => t.poison = s.poison
  | .rowsMarked => t.rowsMarked = s.rowsMarked
  | .rowCorrected => t.rowCorrected = s.rowCorrected
  | .unitCorrected => t.unitCorrected = s.unitCorrected
  | .tierLow => t.tierLow = s.tierLow
  | .parityCells => t.parityCells = s.parityCells
  | .accs => t.accs = s.accs
  | .accSet => t.accSet = s.accSet
  | .bells => t.bells = s.bells
  | .contexts => t.contexts = s.contexts
  | .nextLead => t.nextLead = s.nextLead

/-- The number of a part, in the order of the fields. -/
def Field.bit : Field → Nat
  | .pending => 0
  | .now => 1
  | .tod => 2
  | .outbox => 3
  | .hostMem => 4
  | .hostPoison => 5
  | .regs => 6
  | .latches => 7
  | .service => 8
  | .msixTable => 9
  | .msixPending => 10
  | .windows => 11
  | .queues => 12
  | .cmds => 13
  | .nextCmd => 14
  | .reports => 15
  | .rings => 16
  | .evRings => 17
  | .classes => 18
  | .lastUrg => 19
  | .ledgers => 20
  | .domains => 21
  | .crook => 22
  | .colls => 23
  | .progs => 24
  | .tables => 25
  | .srings => 26
  | .engines => 27
  | .bag => 28
  | .cst => 29
  | .blw => 30
  | .chn => 31
  | .sec => 32
  | .pins => 33
  | .poison => 34
  | .rowsMarked => 35
  | .rowCorrected => 36
  | .unitCorrected => 37
  | .tierLow => 38
  | .parityCells => 39
  | .accs => 40
  | .accSet => 41
  | .bells => 42
  | .contexts => 43
  | .nextLead => 44

/-- `t` differs from `s` only in the parts listed. -/
def Frame (ps : List Field) (s t : State) : Prop := ∀ p, p ∉ ps → p.same s t

/-- A step from `s` answers a next state that meets the invariant. -/
def StepSafe (s : State) : Prop := ∃ t, step s = .next t ∧ Inv t

/-- A run of `n` steps from `s` answers a next state at every step, and each state met satisfies the invariant. -/
def RunSafe : Nat → State → Prop
  | 0, s => Inv s
  | n + 1, s => Inv s ∧ ∃ t, step s = .next t ∧ RunSafe n t

/-! ## What each command may write -/

/-- Every part of the state. -/
def allFields : List Field :=
  [.pending, .now, .tod, .outbox, .hostMem, .hostPoison, .regs, .latches, .service, .msixTable, .msixPending, .windows,
   .queues, .cmds, .nextCmd, .reports, .rings, .evRings, .classes, .lastUrg, .ledgers, .domains, .crook, .colls, .progs,
   .tables, .srings, .engines, .bag, .cst, .blw, .chn, .sec, .pins, .poison, .rowsMarked, .rowCorrected, .unitCorrected,
   .tierLow, .parityCells, .accs, .accSet, .bells, .contexts, .nextLead]

/-- Parts of the state: what the writing of waiting event records changes. -/
def drainedParts : List Field := [.outbox, .hostMem, .regs, .latches, .msixPending, .evRings, .crook]

/-- Parts of the state: what an event writes: its logs and latches, its ring in host memory and the peers that receive it. -/
def raisedParts : List Field := [.outbox, .hostMem, .regs, .latches, .msixPending, .evRings, .crook, .cst, .chn]

/-- Parts of the state: what a command in execution may write whatever it does: its entry, its translations and units, and the
events they raise. -/
def handledParts : List Field := [.outbox, .hostMem, .regs, .latches, .msixPending, .evRings, .crook, .cmds, .srings, .contexts]

/-- The parts of the state that a command may write; it leaves every other part as it was. -/
def touched : Instr → List Field
  | .commit _ _ => raisedParts ++ [.windows, .queues, .cmds, .nextCmd, .rings]
  | .cqHeadWrite _ _ | .evrHeadWrite _ _ | .ringContextWord0Write _ _ | .ringContextWord1Write _ _ | .ringZeroingDone _ =>
    raisedParts ++ [.rings]
  | .portEnableWrite _ => [.regs, .crook]
  | .blkErrClear _ _ | .boreDebugWrite _ _ | .crkBootLenWrite _ | .wwyLedgerSelWrite _ | .linkChanged _ _ _ _ |
    .cstShardWrite _ | .holdClear _ => raisedParts
  | .blwCalSelWrite _ | .blwVtargetWrite _ => [.regs]
  | .blwOfsTrimWrite _ | .blwOfsTapWrite _ | .floorLost _ _ | .floorRestored _ | .powerSample _ _ |
    .temperatureSample _ _ _ _ _ => raisedParts ++ [.blw]
  | .registerWrite _ _ _ => handledParts ++ raisedParts ++ [.msixTable, .windows, .queues, .nextCmd, .rings, .blw, .bells]
  | .startDecision _ => handledParts ++ [.classes, .lastUrg, .ledgers, .domains, .chn, .bells, .nextLead]
  | .refusalScan | .invalidationDrained _ _ => [.outbox, .regs, .cmds, .crook, .srings, .chn, .bells, .contexts]
  | .completionPost _ | .rcpl _ _ =>
    raisedParts ++ [.cmds, .rings, .classes, .ledgers, .domains, .colls, .tables, .bag, .sec, .poison]
  | .coalesceTimerExpiry _ => [.outbox, .msixPending, .rings, .evRings]
  | .msixUnmask _ => [.outbox, .msixTable, .msixPending]
  | .nop _ | .resourceWaitTimeout _ => [.regs, .latches, .cmds, .srings, .chn, .bells, .contexts]
  | .flush _ => handledParts ++ [.bag, .chn, .bells]
  | .barrier _ => [.cmds, .srings, .chn, .bells, .contexts]
  | .collCreate _ | .collConfigIndexKind _ | .tableSwap _ => handledParts ++ raisedParts ++ [.colls, .tables, .bag, .bells]
  | .collDrop _ | .collConfigPlacement _ | .collConfigGrant _ | .collConfigRevoke _ | .consolidateSet _ | .reencode _ |
    .holdupMeasurement _ _ | .holdupChargeTimeout => handledParts ++ raisedParts ++ [.colls, .bag, .bells]
  | .collQuery _ | .delete _ | .lookup _ | .setAttr _ | .consolidateReport _ | .exportCmd _ | .xlatInvalidate _ |
    .regionRegister _ | .readLog _ | .classConfig _ | .abort _ | .queryLimits _ | .keyClear _ | .accountRead _ |
    .securityState _ | .spillReduction _ _ | .reject _ _ _ _ | .nodeReadArrival _ _ => handledParts ++ [.chn, .bells]
  | .insert _ | .upsert _ | .encode _ | .importCmd _ => handledParts ++ [.ledgers, .progs, .chn, .bells]
  | .insertBatch _ | .searchGraph _ | .deadlineCut _ => handledParts ++ [.ledgers, .progs, .engines, .chn, .bells]
  | .journalWrite _ => handledParts ++ raisedParts ++ [.ledgers, .colls, .bag, .bells]
  | .searchFlat _ | .searchBatch _ => handledParts ++ [.ledgers, .colls, .progs, .engines, .chn, .accs, .accSet, .bells]
  | .searchFanout _ => handledParts ++ raisedParts ++ [.nextCmd, .ledgers, .progs, .engines, .bells]
  | .rerank _ => handledParts ++ [.ledgers, .engines, .chn, .bells]
  | .progLoadLoad _ => handledParts ++ raisedParts ++ [.colls, .progs, .engines, .bag, .bells]
  | .progLoadRetire _ => handledParts ++ raisedParts ++ [.colls, .progs, .bag, .bells]
  | .tableLoad _ => handledParts ++ raisedParts ++ [.colls, .tables, .engines, .bag, .bells]
  | .consolidateFold _ | .foldStart _ => handledParts ++ raisedParts ++ [.colls, .tierLow, .bells]
  | .consolidateCompact _ | .compactionTrigger _ _ => handledParts ++ [.colls, .chn, .bells]
  | .checkpointNow _ => [.cmds, .bag]
  | .checkpointSetInterval _ => [.regs, .cmds, .srings, .chn, .bells, .contexts]
  | .regionRelease _ => handledParts ++ [.domains, .chn, .bells]
  | .readDeferred _ | .domainCreate _ | .domainDestroy _ | .mirrorTimeout =>
    handledParts ++ raisedParts ++ [.domains, .colls, .bag, .bells]
  | .queueCreate _ | .queueDestroy _ => handledParts ++ [.queues, .chn, .bells]
  | .cqCreate _ | .cqDestroy _ | .cqEnable _ => handledParts ++ [.rings, .chn, .bells]
  | .adminSetTime _ => handledParts ++ [.tod, .chn, .bells]
  | .keyLoad _ | .fabricKey _ => handledParts ++ raisedParts ++ [.sec, .bells]
  | .slideIssue _ _ _ _ => [.outbox, .regs, .crook, .srings, .engines]
  | .transferLanded _ _ _ _ _ => [.srings]
  | .blockListPieceArrival _ => handledParts ++ [.engines, .chn, .bells]
  | .streamDeadlock _ | .cablePresenceChange _ _ _ | .portState _ _ | .holdSet _ =>
    handledParts ++ raisedParts ++ [.colls, .bells]
  | .scanBlockScored _ _ => handledParts ++ raisedParts ++ [.ledgers, .domains, .bells]
  | .localListHandover _ _ _ => [.cmds]
  | .valveMerge _ _ => handledParts ++ raisedParts ++ [.ledgers, .engines, .bells]
  | .walkRoundCommit _ => drainedParts ++ [.cmds, .ledgers, .domains, .chn, .contexts]
  | .contextMoved _ _ => raisedParts ++ [.cmds, .contexts]
  | .boreRegionDrained _ =>
    handledParts ++ raisedParts ++ [.nextCmd, .ledgers, .domains, .colls, .bag, .parityCells, .accs, .accSet, .bells]
  | .splitCombine _ => handledParts ++ raisedParts ++ [.nextCmd, .ledgers, .colls, .bag, .parityCells, .accs, .accSet, .bells]
  | .accParityError _ _ _ =>
    handledParts ++ raisedParts ++ [.service, .colls, .blw, .unitCorrected, .parityCells, .accs, .bells]
  | .columnSpared _ _ _ _ | .unitRetired _ _ | .unitHang _ | .paceWear _ _ | .phaseSpared _ | .laneSpared _ _ _ =>
    handledParts ++ raisedParts ++ [.service, .colls, .blw, .accs, .bells]
  | .barrierAcknowledged _ => drainedParts ++ [.cmds, .chn]
  | .foldAgeExpiry _ => raisedParts ++ [.colls, .srings, .tierLow]
  | .foldCommit _ | .tombstoneSettlement _ | .dataRepaired _ _ _ _ _ _ | .journalPoison _ _ | .checkpointWaitExpiry _ =>
    handledParts ++ raisedParts ++ [.domains, .colls, .tables, .bag, .poison, .tierLow, .bells]
  | .slotRelease _ => drainedParts ++ [.colls, .bag, .cst, .poison]
  | .patchApply _ => [.colls]
  | .reencodeStep _ | .repartition _ | .indexBuild _ => drainedParts ++ [.colls, .srings]
  | .reencodeDone _ => raisedParts ++ [.domains, .colls, .bag]
  | .autoEvaluation => raisedParts ++ [.colls, .tierLow]
  | .tablePaused _ _ _ => handledParts ++ raisedParts ++ [.tables, .bells]
  | .tableResumed _ _ _ => raisedParts ++ [.tables]
  | .tierUe _ _ _ _ _ => handledParts ++ raisedParts ++ [.colls, .poison, .rowsMarked, .bells]
  | .tierScrub _ _ _ _ _ _ => handledParts ++ raisedParts ++ [.colls, .rowsMarked, .rowCorrected, .unitCorrected, .bells]
  | .rowRepaired _ _ _ => raisedParts ++ [.rowsMarked, .rowCorrected]
  | .unitSelfTest _ _ => handledParts ++ raisedParts ++ [.service, .colls, .blw, .unitCorrected, .accs, .bells]
  | .unitReturn _ => [.regs, .latches, .service, .srings, .chn, .accs, .bells]
  | .unitSleep _ => [.regs, .service, .srings, .blw, .chn, .accs]
  | .unitWake _ => [.regs, .blw, .chn]
  | .monitorSample _ _ _ _ | .powerPeak _ _ | .coolantValveUpdate _ => [.blw]
  | .floorWindow _ => [.regs, .cmds, .blw]
  | .blwFloorWrite _ => [.regs, .latches, .blw]
  | .blwCapWrite _ | .blwGuardWrite _ | .ucalSave | .ucalSaveDone _ | .ucalFactory => [.regs, .blw]
  | .stripeProgrammed => handledParts ++ raisedParts ++ [.engines, .bag, .bells]
  | .drainTimeout | .checkpointTimer | .holdupThresholdReached _ => [.bag]
  | .checkpointDone | .mack _ _ => handledParts ++ raisedParts ++ [.bag, .bells]
  | .logCleaning _ => raisedParts ++ [.engines, .bag]
  | .flashScrub _ _ _ _ | .memberFailed _ _ _ _ => handledParts ++ raisedParts ++ [.colls, .engines, .bag, .bells]
  | .rebuildDone _ _ => raisedParts ++ [.srings, .bag]
  | .stripeLost _ _ _ _ _ => handledParts ++ raisedParts ++ [.domains, .colls, .engines, .bag, .bells]
  | .powerLoss => [.chn]
  | .dumpSealed => [.bag, .chn, .sec]
  | .pwrfailAssert _ | .overvoltage => [.chn, .pins]
  | .mateBreak => [.bag, .chn, .pins]
  | .inputSwitchClose | .restartAfterSeal => [.pins]
  | .coldStart _ => allFields.filter (fun p => p ∉ [.pending, .hostPoison, .nextCmd])
  | .warmReset _ =>
    allFields.filter (fun p => p ∉ [.pending, .now, .tod, .hostPoison, .nextCmd, .rowsMarked, .rowCorrected,
    .unitCorrected, .tierLow])
  | .perstBeforeReady => [.regs, .msixTable, .msixPending, .crook, .pins]
  | .functionLevelReset =>
    handledParts ++ raisedParts ++ [.msixTable, .windows, .queues, .reports, .rings, .classes, .lastUrg, .ledgers,
    .domains, .colls, .tables, .bag, .sec, .poison]
  | .resetReportPost => raisedParts ++ [.reports, .rings]
  | .fatalError _ _ _ => allFields.filter (fun p => p ∉ [.pending, .hostPoison, .nextCmd, .domains, .colls, .progs])
  | .atsTranslationCompletion _ _ _ _ | .regionTableReadDone _ _ _ => raisedParts ++ [.cmds]
  | .pageRequestResponse _ _ _ => [.outbox, .regs, .latches, .cmds, .crook]
  | .pageRequestTimeout _ _ => [.regs, .latches, .cmds, .crook]
  | .atsInvalidateRequest _ _ _ | .atsEnableCleared => [.cmds, .crook, .chn]
  | .hello _ _ _ _ | .helloAck _ _ _ _ | .close _ | .connectionDown _ | .cstPeerCtlWrite _ | .cstMirrorWrite _ =>
    handledParts ++ raisedParts ++ [.bells]
  | .ack _ _ _ _ | .mrec _ _ | .mfetch _ _ _ | .mtrim _ _ _ | .dataPacket _ _ _ _ _ _ => [.outbox, .regs, .cst]
  | .resendTimeout _ | .event _ | .ackDelayTimer _ => [.outbox, .cst]
  | .helloRetry _ | .getState _ | .addressResolutionRequest _ _ _ => [.outbox]
  | .rateIncrease _ => [.cst]
  | .subq _ _ _ _ _ _ _ _ _ _ _ _ _ _ _ _ => drainedParts ++ [.cmds, .nextCmd, .cst]
  | .subres _ _ _ _ => [.cmds, .ledgers]
  | .rcmd _ _ _ _ => raisedParts ++ [.queues, .cmds, .nextCmd]
  | .off _ => raisedParts ++ [.sec, .pins]
  | .coldReset _ => [.outbox, .chn, .sec, .pins]
  | .mgmtWarmReset _ => [.outbox, .chn, .sec]
  | .format _ => [.outbox, .bag, .chn, .sec, .pins]
  | .mgmtSetTime _ _ => [.tod, .outbox]
  | .kekSet _ _ _ | .spdmRequest _ _ _ | .mctpControl _ _ | .pldmSetEventReceiver _ _ => [.outbox, .sec]
  | .debugEnable _ _ _ | .activateFirmware _ => raisedParts ++ [.sec]
  | .firmwareUpdate _ _ _ _ => [.outbox, .regs, .latches, .sec]
  | .spdmSessionTimeout _ => [.sec]
  | .registerRead _ _ _ => raisedParts ++ [.bag]
  | .urgTokenBucketFill _ => [.domains]
  | .slideBucketFill _ _ _ => [.engines]
  | .perstDeassert => [.crook, .pins]
  | .managementControllerPowerUp _ => [.sec, .pins]
  | .priEnableSet => [.crook]
  | .mapSaveDone _ => [.regs, .latches, .chn]

/-! ## What the statements say of a command -/

/-- Command `x` is in execution under operation `op` and has done nothing yet. -/
def Begun (s : State) (x : Cmd) (op : Nat) : Prop := running s x.id op = some x ∧ x.work = .none

/-- In `t` command `c` has finished with a status and a result, and its completion record is due. -/
def EndsWith (t : State) (c status result : Nat) : Prop :=
  ∃ y, cmdGet t c = some y ∧ y.phase = .finished ∧ y.work = .none ∧ y.status = status ∧ y.result = result

/-- From `s` to `t` the command `c` has written the next journal record: a record of `type` for collection `h` that carries `body`. With
`flash` the completion waits until the record is in a programmed stripe; otherwise the command has finished with `result`. -/
def Journals (s t : State) (c type h : Nat) (body : JBody) (result : Nat) (flash : Bool) : Prop :=
  (∃ r, t.bag.recs = s.bag.recs ++ [r] ∧ r.seq = s.bag.nextSeq ∧ r.type = type ∧ r.coll = h ∧ r.body = body ∧ r.stripe = none)
  ∧ t.bag.nextSeq = s.bag.nextSeq + 1
  ∧ ∃ y, cmdGet t c = some y ∧ y.jseq = s.bag.nextSeq ∧ y.journaled = true ∧ y.result = result
      ∧ if flash then y.work = .wait 3 s.bag.nextSeq ∧ y.phase = .executing else y.work = .none ∧ y.phase = .finished

/-- From `s` to `t` exactly one event has been raised, of that code and severity: it stands last in the recent log with the next sequence
number and the reference time (R434, log entry 23). -/
def Raised (s t : State) (code sev : Nat) : Prop :=
  t.chn.eventSeq = s.chn.eventSeq + 1
  ∧ ∃ ev, t.chn.recent.getLast? = some ev ∧ ev.code = code ∧ ev.sev = sev ∧ ev.seq = s.chn.eventSeq + 1 ∧ ev.time = s.now

/-- From `s` to `t` the translation of a page has failed with a fault status: every waiting command of the domain that names the page
without a fault found before takes it as found at its queueing (R141, R367); where none names it, the next access that asks finds it. -/
def FaultFound (s t : State) (d page st : Nat) : Prop :=
  (∀ x ∈ s.cmds, x.phase = .waiting → x.xfault = none → domOf s x = d → (∃ p ∈ cmdAddrs x, pageOf p.1 = page) →
    ∀ y ∈ t.cmds, y.id = x.id → ∃ va, y.xfault = some (st, va) ∧ pageOf va = page)
  ∧ ((∀ x ∈ s.cmds, x.phase = .waiting → x.xfault = none → domOf s x = d → ¬∃ p ∈ cmdAddrs x, pageOf p.1 = page) →
    t.crook.failed = s.crook.failed ++ [(d, page, st)])

/-- From `s` to `t` an operation of Drone has committed on collection `h` what `r` arranges: a COMMIT record, a barrier, and the new view
epoch with its structures. -/
def Committed (s t : State) (h op cut : Nat) (key : Option Nat) (move : Option Move) (r : Arranged) : Prop :=
  (∃ q, t.bag.recs = s.bag.recs ++ [q] ∧ q.seq = s.bag.nextSeq ∧ q.type = 0x20 ∧ q.coll = h
      ∧ q.body = .commit op cut (r.coll.viewEpoch + 1) key move)
  ∧ t.chn.barriers = s.chn.barriers ++ [{ no := s.chn.nextBarrier, table := false, on := h, began := s.now }]
  ∧ ∃ k, tget t.colls h = some k ∧ k.viewEpoch = r.coll.viewEpoch + 1 ∧ k.lastCut = cut ∧ k.entries = r.coll.entries
      ∧ k.tombs = r.coll.tombs ∧ k.arr = { r.coll.arr with epoch := r.coll.viewEpoch + 1 } ∧ k.run = none

/-- From `s` to `t` an operation of Drone has started on collection `h`: its cut is the last journal number whose completion record has been
written, and no other collection has changed. -/
def Started (s t : State) (h : Nat) (op : DroneOp) (key : Option Nat) (move : Option Move) (by_ : Option Nat) : Prop :=
  ∃ c k, tget s.colls h = some c ∧ tget t.colls h = some k
    ∧ k.run = some { op := op, cut := c.posted, key := key, move := move, by_ := by_, since := s.now }
    ∧ k.entries = c.entries ∧ k.arr = c.arr ∧ k.tombs = c.tombs ∧ (∀ g, g ≠ h → tget t.colls g = tget s.colls g)

/-- A vendor command over transport `tr` passes the checks that come before the state's: the transport carries MCTP, nothing is running that an
earlier one started, and a session is open. -/
def VendorReady (s : State) (tr : Nat) : Prop := mctpUp s tr = true ∧ s.sec.busy = false ∧ tr ∈ s.sec.sessions

/-- A mutation of one entry `e` on collection `k` that is ready for its journal write: earlier mutations of the ID have written theirs. -/
structure MutReady (s : State) (x : Cmd) (k : Coll) (m : Mut) (e : MutEntry) : Prop where
  cmd   : cmdGet s x.id = some x
  phase : x.phase = .executing
  work  : x.work = .mutate m
  one   : m.entries = [e]
  open_ : e.done = none
  good  : e.bad = none
  enc   : m.enc = []
  coll  : tget s.colls (cColl x) = some k
  power : s.chn.losing = false
  turn  : earlierHolds s x e.record.vid = false

/-- From `s` to `t` the mutation `c` has written the next journal record, of a type and a collection, and completes with a status, at
once unless the journal is written through. -/
def Recorded (s t : State) (c type h status : Nat) : Prop :=
  (∃ r, t.bag.recs = s.bag.recs ++ [r] ∧ r.seq = s.bag.nextSeq ∧ r.type = type ∧ r.coll = h)
  ∧ ∃ y, cmdGet t c = some y ∧ y.status = status ∧ y.jseq = s.bag.nextSeq ∧ y.journaled = true
      ∧ (s.bag.writeThrough = false → y.phase = .finished ∧ y.work = .none)

/-- A unit has been retired: the map's new entry names it, its cause and the spare that serves in its place, the map waits to be saved, the
global epoch has advanced, and the unit neither sleeps nor waits for admission. -/
def Retired (s t : State) (u : UnitId) (phys cause : Nat) : Prop :=
  (∃ e, t.chn.map = (s.chn.map ++ [e]).take 1019 ∧ e.kind = u.kind ∧ e.logical = mapLogical u ∧ e.physical = phys ∧ e.cause = cause
    ∧ e.replacement = (if sparesLeft s u.kind (mapLogical u) = 0 then 0xFFFF else nextSpare s u.kind (mapLogical u)))
  ∧ t.chn.mapPending = true ∧ s.chn.epoch < t.chn.epoch ∧ u ∉ t.chn.returning ∧ u ∉ t.blw.asleep

end Sys2Proof.Machine
end

