-- ==== Sys2Proof/Certificates/Slice0/Obligations.lean ====
section
/-! DEFINITION. The statements for the provers. `exec (.row …) s = .next (drainAll w)` says that the row answers a next state: `w` is
what the row leaves, and `drainAll` writes the event records that then wait (its own frame is `EventDrainFrame`). -/

open Sys2Proof Sys2Proof.Machine

/-- A step takes the command at the front of the queue and gives it its effect on the state with the rest of the queue. -/
def Obligations.StepTakesFront : Prop :=
  ∀ (c : Instr) (rest : List Instr) (s : State), step { s with pending := c :: rest } = exec c { s with pending := rest }

/-- The model's choice (log entry 2): with no command waiting the block idles, and a step only advances the reference time by the
model's tick of one nanosecond. -/
def Obligations.StepIdles : Prop :=
  ∀ (s : State), s.pending = [] → step s = .next { s with now := s.now + 1 }

/-- No row of the operation table gives bits, so no word spells a command and placing a word leaves the state as it is. -/
def Obligations.NoWordSpellsACommand : Prop :=
  (∀ (nbits w : Nat), decodeTableWord nbits w = none) ∧ (∀ (s : State) (nbits w : Nat), s.withFetchWord nbits w = s)

/-- What stands at reset as the spec gives it: queue Q0 of class A, depth 64, on ring 0 and domain D0 (R87); the five classes with
URG's deadline of 400 µs and the weights 8, 4, 2 and 1 of A to D (Table 4.5); global epoch 1 (R441); mode FULL; no
collection, no command; and the reset values of the registers of chapter 21 whose fields are stored in them. The
register file stores nothing, so each register reads the reset column of its map. -/
def Obligations.ResetValues : Prop :=
  State.reset.pending = [] ∧ State.reset.cmds = [] ∧ State.reset.colls = [] ∧ State.reset.chn.epoch = 1 ∧ State.reset.chn.mode = .full
  ∧ tget State.reset.queues 0 = some queueZero ∧ queueZero.depth = 64 ∧ queueZero.cls = 1 ∧ queueZero.ring = 0 ∧ queueZero.domain = 0
  ∧ tget State.reset.queues 1 = none
  ∧ State.reset.classes.map (fun c => (c.bounded, c.weight, c.deadlineUs)) = [(true, 0, 400), (false, 8, 0), (false, 4, 0), (false, 2, 0), (false, 1, 0)]
  ∧ (∀ (o : Nat), regGet State.reset o = regReset o)
  ∧ (∀ (b : Blk) (i off : Nat) (d : RegDef), pageBlk (blkPage b i) = some (b, i) → off < 4096 → regDef b i off = some d →
      regGet State.reset (reg b i off) = BitVec.ofNat 64 d.reset)
  ∧ regGet State.reset (reg .blw 0 0x100) = 0x8C ∧ regGet State.reset (reg .blw 0 0x1A0) = 0x14
  ∧ regGet State.reset (reg .blw 0 0x110) = 0x2BC ∧ regGet State.reset (reg .drn 0 0x100) = 0x32
  ∧ regGet State.reset (reg .bag 0 0x108) = 0x01F4003C ∧ regGet State.reset (reg .wwy 0 0x110) = 0x800

/-- The state right after reset meets the invariant. -/
def Obligations.ResetInvariant : Prop := Inv State.reset

/-- Every step keeps the invariant: host memory and the command areas of the task windows stay in their canonical form, and the
module keeps its five classes, its twelve fabric ports and its five core rails. -/
def Obligations.StepKeepsInvariant : Prop :=
  ∀ (s t : State), Inv s → step s = .next t → Inv t

/-- What each command leaves unchanged: a command that answers a next state leaves every part of the state as it was but those
that `touched` lists for it. The register file, each memory, each queue, ring and collection table, the keys, the pins and the
units' records are parts of their own. -/
def Obligations.CommandFrames : Prop :=
  ∀ (i : Instr) (s t : State), exec i s = .next t → Frame (touched i) s t

/-- Writing the waiting event records (R85) changes only the event rings, host memory, pending interrupts and the messages sent,
the translation unit, and the registers and latches that report a ring fault. -/
def Obligations.EventDrainFrame : Prop :=
  ∀ (s : State), Frame drainedParts s (drainAll s)

/-- A ring record is written (R79): at the tail, with PHASE the inverse of the ring's phase; the tail advances and the phase
inverts at the wrap; the record's bytes stand in host memory at the translated address, and every byte outside them is as
before. -/
def Obligations.RecordWritten : Prop :=
  ∀ (i : RingId) (r : Ring) (mk : Bool → List Byte) (s u : State), (∀ e, i = .ev e → e < 8) → memWf s.hostMem = true → writeRecord i r mk s = .done u →
    ∃ (a : Nat) (v : State), translate (ringWho i r) (r.base + recordBytes i * r.tail) true s = (.bus a, v)
      ∧ (let bs := keyed true (ringDom i r) (r.base + recordBytes i * r.tail) (mk (!r.phase)) v
         (∀ k, k < bs.length → memGet u.hostMem (a + k) = bs.getD k 0)
         ∧ (∀ b, b < a ∨ a + bs.length ≤ b → memGet u.hostMem b = memGet s.hostMem b))
      ∧ (∃ r', ringGet u i = some r' ∧ r'.head = r.head ∧ r'.base = r.base
          ∧ (r.tail + 1 = 2 ^ r.sizeLog2 → r'.tail = 0 ∧ r'.phase = !r.phase)
          ∧ (r.tail + 1 ≠ 2 ^ r.sizeLog2 → r'.tail = r.tail + 1 ∧ r'.phase = r.phase))
      ∧ u.queues = s.queues ∧ u.cmds = s.cmds ∧ u.colls = s.colls

/-- The module's write of a buffer in host memory (R367): where the write goes, every page is translated and checked first, and
every byte outside the translated pieces is as before; a write that fails or waits changes no byte. -/
def Obligations.BufferWritten : Prop :=
  (∀ (w : Who) (va : Nat) (bs : List Byte) (s t : State), memWf s.hostMem = true → w.remote = none → writeDev w va bs s = .ok () t →
    ∃ (ps : List (Nat × Nat)) (v : State), xlatRange w true (rangePages va bs.length) va bs.length s = .ok ps v
      ∧ (∀ b, (∀ p ∈ ps, b < p.1 ∨ p.1 + p.2 ≤ b) → memGet t.hostMem b = memGet s.hostMem b)
      ∧ (∀ a n, ps = [(a, n)] → ∀ k, k < n → k < (keyed true w.dom va bs v).length →
          memGet t.hostMem (a + k) = (keyed true w.dom va bs v).getD k 0))
  ∧ (∀ (w : Who) (va st : Nat) (bs : List Byte) (f : Option CmdFault) (s t : State), w.remote = none → writeDev w va bs s = .fail st f t →
      t.hostMem = s.hostMem)
  ∧ (∀ (w : Who) (va : Nat) (bs : List Byte) (s t : State), w.remote = none → writeDev w va bs s = .wait t → t.hostMem = s.hostMem)

/-- Reads of the BARs (R66, R67, R495): a read of an open page at a register's size answers the register, clears the bits that
clear on read and no other register; a read of the task windows answers WIN_STAT and zeros; an aligned read of BAR4 answers its
words; a misplaced read is answered with Unsupported Request. -/
def Obligations.RegisterReads : Prop :=
  (∀ (o n : Nat) (s : State) (b : Blk) (i : Nat), o < 2 ^ 26 → pageBlk (o / 4096) = some (b, i) → bar0Kind s true o n = 0 →
    ∃ w, exec (.registerRead 0 o n) s = .next (drainAll w)
      ∧ w.outbox = s.outbox ++ [.readData (leBytes n (regRead s b i (o % 4096)).toNat)]
      ∧ (∀ d, regDef b i (o % 4096) = some d → regGet w (reg b i (o % 4096)) = regGet s (reg b i (o % 4096)) &&& ~~~ (BitVec.ofNat 64 d.rc))
      ∧ (∀ p, p ≠ reg b i (o % 4096) → regGet w p = regGet s p) ∧ Frame [.outbox, .regs, .bag] s w)
  ∧ (∀ (o n : Nat) (s : State), o + n ≤ 2 ^ 23 →
    ∃ w, exec (.registerRead 1 o n) s = .next (drainAll w)
      ∧ w.outbox = s.outbox ++ [.readData ((List.range n).map (fun k => winByte s (o + k)))] ∧ Frame [.outbox] s w)
  ∧ (∀ (o n : Nat) (s : State), o < 2 ^ 16 → bar4Ok o n = true →
    ∃ w, exec (.registerRead 2 o n) s = .next (drainAll w)
      ∧ w.outbox = s.outbox ++ [.readData ((List.range (n / 4)).flatMap (fun k => leBytes 4 (bar4Word s (o + 4 * k)).toNat))]
      ∧ Frame [.outbox] s w)
  ∧ (∀ (o n : Nat) (s : State), o < 2 ^ 26 → bar0Kind s true o n ≠ 0 →
    ∃ w, exec (.registerRead 0 o n) s = .next (drainAll w) ∧ w.outbox = s.outbox ++ [.readUR] ∧ w.queues = s.queues ∧ w.cmds = s.cmds
      ∧ Raised s w 0x0010 2)

/-- Writes of the BARs (R66, R67, R495, R496, R505): a mask register takes the value; a plain register takes the bits that a host
may set and keeps the others; a register of read-only fields drops the write with a violation, and one that only clears on
read ignores it; a word of the MSI-X table is stored; the offset of a sensor die and of a SerDes tap are taken within their
ranges, at the item that BLW_CAL_SEL selects, and a write that selects no such item is a violation. -/
def Obligations.RegisterWrites : Prop :=
  (∀ (o : Nat) (data : List Byte) (s : State) (b : Blk) (i : Nat) (d : RegDef), o < 2 ^ 26 → pageBlk (o / 4096) = some (b, i) →
      bar0Kind s false o data.length = 0 → o % 4096 = 0x038 → regDef b i (o % 4096) = some d → writable d = true →
    ∃ w, exec (.registerWrite 0 o data) s = .next (drainAll w) ∧ regGet w (reg b i 0x038) = BitVec.ofNat 64 (leNat data)
      ∧ (∀ p, p ≠ reg b i 0x038 → regGet w p = regGet s p) ∧ Frame [.regs] s w)
  ∧ (∀ (o : Nat) (data : List Byte) (s : State) (b : Blk) (i : Nat) (d : RegDef), o < 2 ^ 26 → pageBlk (o / 4096) = some (b, i) →
      bar0Kind s false o data.length = 0 → (o % 4096 ≠ 0x020 ∧ o % 4096 ≠ 0x038 ∧ o % 4096 ≠ 0x040) → regDef b i (o % 4096) = some d → writable d = true →
      b ∈ [.wch, .reed, .kwk, .bell, .vlv, .chn, .sec] ∨ (b = .bore ∧ o % 4096 ≠ 0x138) →
    ∃ w, exec (.registerWrite 0 o data) s = .next (drainAll w)
      ∧ regGet w (reg b i (o % 4096)) = (regGet s (reg b i (o % 4096)) &&& ~~~ (BitVec.ofNat 64 d.rw))
          ||| (BitVec.ofNat 64 (leNat data) &&& BitVec.ofNat 64 d.rw)
      ∧ (∀ p, p ≠ reg b i (o % 4096) → regGet w p = regGet s p) ∧ Frame [.regs] s w)
  ∧ (∀ (o : Nat) (data : List Byte) (s : State) (b : Blk) (i : Nat) (d : RegDef), o < 2 ^ 26 → pageBlk (o / 4096) = some (b, i) →
      bar0Kind s false o data.length = 0 → regDef b i (o % 4096) = some d → writable d = false →
    ∃ w, exec (.registerWrite 0 o data) s = .next (drainAll w) ∧ (d.rc ≠ 0 → w = s) ∧ (d.rc = 0 → Raised s w 0x0010 2))
  ∧ (∀ (o : Nat) (data : List Byte) (s : State), o + 4 ≤ 0x8000 → o % 4 = 0 → data.length = 4 →
    ∃ w, exec (.registerWrite 2 o data) s = .next (drainAll w) ∧ tget w.msixTable o = some (BitVec.ofNat 32 (fld data 0 4))
      ∧ (∀ p, p ≠ o → tget w.msixTable p = tget s.msixTable p) ∧ Frame [.msixTable, .msixPending, .outbox] s w)
  ∧ (∀ (q o : Nat) (data : List Byte) (s : State), q < 32768 → data ≠ [] → o + data.length ≤ 0x78 →
    ∃ w, exec (.registerWrite 1 (q * 256 + o) data) s = .next w ∧ w.windows = memWrite s.windows (q * 256 + o) data
      ∧ Frame (.windows :: drainedParts) s w)
  ∧ (∀ (v : Word64) (s : State), calKind s = 2 → calIndex s < 9 →
    ∃ w, exec (.blwOfsTrimWrite v) s = .next w
      ∧ w.blw.run = { s.blw.run with trims := s.blw.run.trims.set (calIndex s) (clampInt (-20) 20 (signed 16 (bits v.toNat 15 0))) }
      ∧ w.blw.saved = s.blw.saved ∧ Frame [.blw] s w)
  ∧ (∀ (v : Word64) (s : State), calKind s = 4 → calIndex s % 16 < 12 → calIndex s / 16 < 3 →
    ∃ w, exec (.blwOfsTapWrite v) s = .next w
      ∧ (let p := s.blw.run.serdes.getD (calIndex s % 16) (0, 0, 0, false)
         let x := clampInt (-8) 8 (signed 8 (bits v.toNat 7 0))
         let n := if calIndex s / 16 = 0 then (x, p.2.1, p.2.2.1, v.getLsbD 8)
           else if calIndex s / 16 = 1 then (p.1, x, p.2.2.1, v.getLsbD 8) else (p.1, p.2.1, x, v.getLsbD 8)
         w.blw.run = { s.blw.run with serdes := s.blw.run.serdes.set (calIndex s % 16) n })
      ∧ w.blw.saved = s.blw.saved ∧ Frame [.blw] s w)
  ∧ (∀ (v : Word64) (s : State), (calKind s ≠ 2 ∨ ¬ calIndex s < 9) →
    ∃ w, exec (.blwOfsTrimWrite v) s = .next (drainAll w) ∧ w.blw = s.blw ∧ Raised s w 0x0010 2)

/-- Registers written by name (chapter 21). With port enable written as `v`, MPC_BLK_CTL reads bit 0 of `v` and the boot region is
locked once it has been set. -/
def Obligations.PortRegisterWrites : Prop :=
  (∀ (v : Word64) (s : State), ∃ t, exec (.portEnableWrite v) s = .next t
    ∧ regGet t (reg .mpc 0 0x010) = v &&& 1
    ∧ t.crook.bootLocked = (v.getLsbD 0 || s.crook.bootLocked)
    ∧ (∀ o, o ≠ reg .mpc 0 0x010 → regGet t o = regGet s o) ∧ Frame [.regs, .crook] s t)
  ∧ (∀ (page : Nat) (v : Word64) (s : State) (b : Blk) (i : Nat), pageBlk page = some (b, i) → pageOpen s b = true →
    ∃ t, exec (.blkErrClear page v) s = .next t
    ∧ regGet t (pageReg page 0x020) = regGet s (pageReg page 0x020) &&& ~~~v
    ∧ (∀ w, tget s.latches page = some w → w &&& ~~~v = 0 →
        tget t.latches page = none ∧ regGet t (pageReg page 0x028) = 0 ∧ regGet t (pageReg page 0x030) = 0)
    ∧ (∀ w, tget s.latches page = some w → w &&& ~~~v ≠ 0 →
        tget t.latches page = some (w &&& ~~~v) ∧ ∀ o, o ≠ pageReg page 0x020 → regGet t o = regGet s o)
    ∧ (∀ o, o ≠ pageReg page 0x020 → o ≠ pageReg page 0x028 → o ≠ pageReg page 0x030 → regGet t o = regGet s o)
    ∧ Frame [.regs, .latches] s t)
  ∧ (∀ (cluster : Nat) (v : Word64) (s : State), cluster < 32 → pageOpen s .bore = true → s.sec.debug = true →
    ∃ t, exec (.boreDebugWrite cluster v) s = .next t
    ∧ regGet t (reg .bore cluster 0x138) = (if v.getLsbD 0 then 3 else 0)
    ∧ (∀ o, o ≠ reg .bore cluster 0x138 → regGet t o = regGet s o) ∧ Frame [.regs] s t)
  ∧ (∀ (v : Word64) (s : State), pageOpen s .crk = true → s.crook.bootLocked = false →
    bits v.toNat 40 21 * 2 ^ 21 ≤ 2 ^ 40 → (bootRegion s).base + bits v.toNat 40 21 * 2 ^ 21 ≤ 2 ^ 48 →
    (((tget s.domains 0).map Domain.regions).getD []).any (fun r => bits v.toNat 40 21 * 2 ^ 21 ≠ 0
      && (bootRegion s).base < r.base + r.length && r.base < (bootRegion s).base + bits v.toNat 40 21 * 2 ^ 21) = false →
    bootLeaves s (bootRegion s) { bootRegion s with length := bits v.toNat 40 21 * 2 ^ 21 } = false →
    ∃ t, exec (.crkBootLenWrite v) s = .next t
    ∧ regGet t (reg .crk 0 0x108) = BitVec.ofNat 64 (bits v.toNat 40 21 * 2 ^ 21)
    ∧ (∀ o, o ≠ reg .crk 0 0x100 → o ≠ reg .crk 0 0x108 → regGet t o = regGet s o) ∧ Frame [.regs] s t)
  ∧ (∀ (v : Word64) (s : State), pageOpen s .wwy = true → ledgerExists (bits v.toNat 2 0) (bits v.toNat 13 8) = true →
    ∃ t, exec (.wwyLedgerSelWrite v) s = .next t ∧ regGet t (reg .wwy 0 0x140) = v &&& 0x3F07
    ∧ (∀ o, o ≠ reg .wwy 0 0x140 → regGet t o = regGet s o) ∧ Frame [.regs] s t)
  ∧ (∀ (v : Word64) (s : State), ∃ t, exec (.blwCalSelWrite v) s = .next t
    ∧ regGet t (reg .blw 0 0x180) = v &&& 0xFFFF_FFFF
    ∧ (∀ o, o ≠ reg .blw 0 0x180 → regGet t o = regGet s o) ∧ Frame [.regs] s t)

/-- The check value of a command area (R70), and the rejection of a commit that carries another. -/
def Obligations.CommitCheckValue : Prop :=
  (∀ (area : List Byte),
    let w := fun (i : Nat) => BitVec.ofNat 64 (fld area (8 * i) 8)
    let x := w 0 ^^^ w 1 ^^^ w 2 ^^^ w 3 ^^^ w 4 ^^^ w 5 ^^^ w 6 ^^^ w 7 ^^^ w 8 ^^^ w 9 ^^^ w 10 ^^^ w 11 ^^^ w 12 ^^^ w 13 ^^^ w 14
    chkValue area = (x.extractLsb' 0 16 ^^^ x.extractLsb' 16 16 ^^^ x.extractLsb' 32 16 ^^^ x.extractLsb' 48 16).toNat)
  ∧ (∀ (q : Nat) (data : List Byte) (s : State) (qu : Queue), q < 32768 → data.length = 128 → tget s.queues q = some qu →
      memWf s.windows = true → portTakes s = true → qu.closing = false → bits (fld data 120 8) 63 32 = 0 →
      bits (fld data 120 8) 15 0 = qu.nextSeq → bits (fld data 120 8) 31 16 ≠ chkValue (data.take 120) →
    ∃ t, exec (.commit (256 * q) data) s = .next t ∧ t.cmds = s.cmds
      ∧ tget t.queues q = some { qu with rejects := min (qu.rejects + 1) 0xFFFF, lastReason := 0x01 })

/-- next_seq (R71): zero when a queue is made, one more modulo 65,536 at each accepted commit; a commit whose seq differs from it is
rejected with BAD_SEQ and leaves it unchanged. -/
def Obligations.NextSequence : Prop :=
  (∀ (s : State) (x : Cmd) (k : Domain) (r : Ring), Begun s x 0x7F → cSub x = 3 → tget s.domains (cf x 18 2) = some k →
      tget s.queues (cf x 16 2) = none → tget s.rings (cf x 20 2) = some r → r.domain = cf x 18 2 →
      ¬(cf x 24 1 = 0 ∧ k.urgRate = 0) → slotsReserved s + cf x 22 2 ≤ 262144 →
    ∃ w q, exec (.queueCreate x.id) s = .next (drainAll w) ∧ tget w.queues (cf x 16 2) = some q ∧ q.nextSeq = 0)
  ∧ (∀ (q : Nat) (data : List Byte) (s : State) (qu : Queue), q < 32768 → data.length = 128 → tget s.queues q = some qu →
      memWf s.windows = true → commitReason s q (data.take 120) (fld data 120 8) = 0 →
    ∃ t k, exec (.commit (256 * q) data) s = .next t ∧ tget t.queues q = some k ∧ k.nextSeq = (qu.nextSeq + 1) % 65536)
  ∧ (∀ (q : Nat) (data : List Byte) (s : State) (qu : Queue), q < 32768 → data.length = 128 → tget s.queues q = some qu →
      memWf s.windows = true → portTakes s = true → qu.closing = false → bits (fld data 120 8) 63 32 = 0 →
      bits (fld data 120 8) 15 0 ≠ qu.nextSeq →
    ∃ t, exec (.commit (256 * q) data) s = .next t ∧ t.cmds = s.cmds
      ∧ tget t.queues q = some { qu with rejects := min (qu.rejects + 1) 0xFFFF, lastReason := 0x02 })

/-- After every commit, accepted or rejected, the command area of the window reads zero (R72). -/
def Obligations.WindowCleared : Prop :=
  ∀ (q : Nat) (data : List Byte) (s : State), q < 32768 → data.length = 128 → memWf s.windows = true →
    ∃ t, exec (.commit (256 * q) data) s = .next t ∧ (∀ i, i < 120 → memGet t.windows (256 * q + i) = 0)
      ∧ (∀ a, a < 256 * q ∨ 256 * q + 120 ≤ a → memGet t.windows a = memGet s.windows a)

/-- A commit that passes the checks of Table 3.6 (R68, R71, R72, R73): a single 128-byte write of the window of queue `q` whose commit
word carries next_seq and the check value (R70) puts the 128 bytes into a free slot of the queue store, next_seq rises by one modulo
65,536, the commits of the port are counted, and the command area reads zero afterwards. -/
def Obligations.CommitAccepted : Prop :=
  ∀ (q : Nat) (data : List Byte) (s : State) (qu : Queue), q < 32768 → data.length = 128 → tget s.queues q = some qu →
    portTakes s = true → qu.closing = false → memWf s.windows = true → bits (fld data 120 8) 63 32 = 0 →
    bits (fld data 120 8) 15 0 = qu.nextSeq → bits (fld data 120 8) 31 16 = chkValue (data.take 120) → slotsUsed s q < qu.depth →
    ∃ t x, exec (.commit (256 * q) data) s = .next t
      ∧ x ∈ t.cmds ∧ (∀ y ∈ s.cmds, y.id ≠ s.nextCmd → y ∈ t.cmds) ∧ x.id = s.nextCmd ∧ x.queue = q ∧ x.bytes = data ∧ x.phase = .waiting ∧ x.arrival = s.now
      ∧ t.nextCmd = s.nextCmd + 1
      ∧ tget t.queues q = some { qu with nextSeq := (qu.nextSeq + 1) % 65536 }
      ∧ (∀ n, n ≠ q → tget t.queues n = tget s.queues n)
      ∧ (∀ i, i < 120 → memGet t.windows (256 * q + i) = 0)

/-- A commit that fails a check (R71, R73): it takes nothing, next_seq stays, reject_count and last_reason are set, and the command
area is cleared (R72). The first check that fails gives the reason, in the order of Table 3.6. -/
def Obligations.CommitRejected : Prop :=
  ∀ (q : Nat) (data : List Byte) (s : State) (qu : Queue) (n : Nat), q < 32768 → data.length = 128 → tget s.queues q = some qu →
    memWf s.windows = true → commitReason s q (data.take 120) (fld data 120 8) = n → n ≠ 0 →
    ∃ t, exec (.commit (256 * q) data) s = .next t
      ∧ t.cmds = s.cmds ∧ t.nextCmd = s.nextCmd
      ∧ tget t.queues q = some { qu with rejects := min (qu.rejects + 1) 0xFFFF, lastReason := n }
      ∧ (∀ i, i < 120 → memGet t.windows (256 * q + i) = 0)

/-- Heads (R79): a head inside the ring and not past its tail is taken, and records beyond it that have not been signalled are
signalled now (R83); any other write of CQ_HEAD leaves every completion ring as it is. -/
def Obligations.HeadWrites : Prop :=
  (∀ (q : Nat) (v : BitVec 32) (s : State) (qu : Queue) (r : Ring), tget s.queues q = some qu → tget s.rings qu.ring = some r →
    r.enabled = true → headOk r (v.toNat % 65536) = true →
    ∃ t, exec (.cqHeadWrite q v) s = .next t
    ∧ tget t.rings qu.ring = some { r with
        head := v.toNat % 65536,
        since := if r.intEn && min r.since (ringUnread { r with head := v.toNat % 65536 }) > 0 then 0 else r.since }
    ∧ (∀ n, n ≠ qu.ring → tget t.rings n = tget s.rings n)
    ∧ Frame [.rings, .outbox, .msixPending] s t
    ∧ (r.intEn = true → min r.since (ringUnread { r with head := v.toNat % 65536 }) > 0 → vectorMasked s r.vector = false →
        t.outbox = s.outbox ++ [.msix r.vector]))
  ∧ (∀ (e : Nat) (v : Word64) (s : State), e < 8 → (evRing s e).enabled = true → headOk (evRing s e) (v.toNat % 65536) = true →
    ∃ t, exec (.evrHeadWrite e v) s = .next t
    ∧ (evRing t e).head = v.toNat % 65536 ∧ (evRing t e).tail = (evRing s e).tail ∧ (evRing t e).phase = (evRing s e).phase
    ∧ (∀ n, n ≠ e → evRing t n = evRing s n)
    ∧ Frame [.evRings, .outbox, .msixPending] s t)
  ∧ (∀ (q : Nat) (v : BitVec 32) (s : State), (∀ qu r, tget s.queues q = some qu → tget s.rings qu.ring = some r →
      r.enabled = false ∨ headOk r (v.toNat % 65536) = false) →
    ∃ t, exec (.cqHeadWrite q v) s = .next t ∧ t.rings = s.rings ∧ t.queues = s.queues ∧ t.cmds = s.cmds)

/-- Interrupts (R83): at the coalescing time a ring with records not signalled sends its vector, or sets its pending bit where
the vector is masked, and counts afresh; a vector unmasked with its pending bit set sends its message. -/
def Obligations.InterruptRows : Prop :=
  (∀ (i : RingId) (s : State) (r : Ring), ringGet s i = some r → r.intEn = true → r.coalTime ≠ 0 → r.since > 0 →
    ∃ t, exec (.coalesceTimerExpiry i) s = .next t
    ∧ ringGet t i = some { r with since := 0 }
    ∧ (vectorMasked s r.vector = false → t.outbox = s.outbox ++ [.msix r.vector] ∧ t.msixPending = s.msixPending)
    ∧ (vectorMasked s r.vector = true → t.outbox = s.outbox ∧ t.msixPending = insertNat r.vector s.msixPending)
    ∧ Frame [.rings, .evRings, .outbox, .msixPending] s t)
  ∧ (∀ (v : Nat) (s : State), v < 2048 →
    ∃ t, exec (.msixUnmask v) s = .next t
    ∧ vectorMasked t v = false
    ∧ (v ∈ s.msixPending → t.outbox = s.outbox ++ [.msix v] ∧ t.msixPending = s.msixPending.filter (· ≠ v))
    ∧ (v ∉ s.msixPending → t.outbox = s.outbox ∧ t.msixPending = s.msixPending)
    ∧ Frame [.msixTable, .outbox, .msixPending] s t)

/-- Ring contexts in the MPC page (R77, R79, R501): the base of a ring that is not enabled is written; a valid word 1 with ENABLE
set enables it with tail and phase zero and its memory to be zeroed; ENABLE clear disables it; once the slots have been zeroed,
records may be written. -/
def Obligations.RingContextRows : Prop :=
  (∀ (i : RingId) (v : Word64) (s : State) (r : Ring), mpcRing i = true → ringGet s i = some r → r.enabled = false →
    ∃ t, exec (.ringContextWord0Write i v) s = .next t
    ∧ ringGet t i = some { r with base := v.toNat } ∧ Frame [.rings, .evRings] s t)
  ∧ (∀ (i : RingId) (v : Word64) (s : State) (r : Ring), mpcRing i = true → ringGet s i = some r → r.enabled = false →
      bit v.toNat 8 = true → ctxValid s i (ctxWord1 v r) (ctxRes1 v) = true → i ≠ .ev 0 →
    ∃ t, exec (.ringContextWord1Write i v) s = .next t
    ∧ ringGet t i = some (ringEnable (ctxWord1 v r)) ∧ Frame [.rings, .evRings] s t)
  ∧ (∀ (v : Word64) (s : State) (r : Ring), ringGet s (.ev 0) = some r → r.enabled = false →
      bit v.toNat 8 = true → ctxValid s (.ev 0) (ctxWord1 v r) (ctxRes1 v) = true →
    ∃ t, exec (.ringContextWord1Write (.ev 0) v) s = .next t ∧ t.chn.holding = false)
  ∧ (∀ (i : RingId) (v : Word64) (s : State) (r : Ring), mpcRing i = true → ringGet s i = some r → bit v.toNat 8 = false →
    ∃ t x, exec (.ringContextWord1Write i v) s = .next t ∧ ringGet t i = some x ∧ x.enabled = false ∧ x.waiting = []
    ∧ Frame [.rings, .evRings, .regs] s t)
  ∧ (∀ (i : RingId) (s u : State) (r : Ring) (g : Region × Bool) (ps : List (Nat × Nat)), ringGet s i = some r → r.enabled = true →
      r.zeroing = true → r.faulted = false →
      xlatRange (ringWho i r) true (rangePages r.base (ringBytes i r)) r.base (ringBytes i r) s = .ok ps u →
      regionOf u (ringDom i r) r.base = some g → g.1.key = 0xFFFF →
    ∃ w, exec (.ringZeroingDone i) s = .next (drainAll w)
    ∧ ringGet w i = some { r with zeroing := false }
    ∧ (∀ a, memGet w.hostMem a = if ps.any (fun p => p.1 ≤ a && a < p.1 + p.2) then 0 else memGet s.hostMem a))

/-- Windway's rows: a start decision starts the head of the queue it picks when the checks pass and its rings and units are free
(R98, R109); the refusal scan refuses every waiting bounded command whose remaining time is below its fixed floor, with reason 4
(R101); a token falls into a domain's URG bucket, up to its burst (R97). -/
def Obligations.WindwayRows : Prop :=
  (∀ (home q : Nat) (s p u : State) (x : Cmd) (adm : Bool) (cs : List (Nat × Rat)) (w : Rat), s.chn.quiesced = false → s.chn.losing = false →
      homeOk s (home % 32) = true → pickQueue s = some (q, p) → headOf p q = some x → cmdGet p x.id = some x →
      (boundedCls s q = true → staleHome s (home % 32) = false) →
    let x' := { x with home := home % 32, bounded := boundedCls p x.queue, deadlineUs := deadlineOf p x }
    let v := cmdPut x' p
    startChecks v x' (boundedCls p x.queue) = .go → x.xfault = none → adm = (boundedCls p x.queue && !noAdmission x') →
    (adm = true → admission v { planOf v x' with fixed := (planOf v x').fixed + sleepFloor v (home % 32) }
      ((deadlineOf v x' * 1000 : Nat) - ((v.now - x'.arrival : Nat) : Int)) = .inr (cs, w)) → (adm = false → cs = [] ∧ w = 0) →
    resourcesFree v x' = true → reserveAll x.id adm x.id (ringNeeds v x' (home % 32)) v = some u →
    ∃ t y, exec (.startDecision home) s = .next (drainAll t) ∧ cmdGet t x.id = some y ∧ y.phase = .executing ∧ y.home = home % 32
      ∧ y.bounded = adm ∧ y.charges = cs ∧ y.slot = true ∧ y.bytes = x.bytes ∧ y.queue = x.queue
      ∧ (∀ d, d ≠ x.id → (cmdGet t d).map Cmd.phase = (cmdGet p d).map Cmd.phase))
  ∧ (∀ (s : State) (x : Cmd), x ∈ s.cmds → cmdGet s x.id = some x → scanRefuses s x = true →
    ∃ t y, exec .refusalScan s = .next t ∧ cmdGet t x.id = some y ∧ y.phase = .finished ∧ y.status = 0x0206 ∧ y.result = 4)
  ∧ (∀ (d : Nat) (s : State) (x : Domain), tget s.domains d = some x → x.urgRate ≠ 0 →
    ∃ t, exec (.urgTokenBucketFill d) s = .next t
      ∧ tget t.domains d = some { x with tokens := min x.urgBurst (x.tokens + 1) }
      ∧ (∀ e, e ≠ d → tget t.domains e = tget s.domains e) ∧ Frame [.domains] s t)

/-- A completion record is posted (R74, R79, R80): on a ring that is enabled, neither FAULTED nor being zeroed, and not full, the
record of a finished command that is not late is written at the ring's tail, and the command's slot of the queue store is free
again. -/
def Obligations.CompletionPosted : Prop :=
  ∀ (c : Nat) (s u : State) (x : Cmd) (q : Queue) (r : Ring), s.chn.losing = false → cmdGet s c = some x → x.phase = .finished → x.sub = none →
    journalTurn s x = true → tget s.queues x.queue = some q → q.fabric = false → tget s.rings q.ring = some r →
    r.enabled = true → r.faulted = false → r.zeroing = false → (q.ring = 0 → s.reports = []) →
    ringUnread r + 1 < 2 ^ r.sizeLog2 → isLate s x = false → writeRecord (.cq q.ring) r (cplBytes s x) s = .done u →
    ∃ t, exec (.completionPost c) s = .next t
      ∧ t.cmds = s.cmds.filter (fun y => y.id ≠ c) ∧ t.rings = u.rings ∧ slotsUsed t x.queue < slotsUsed s x.queue

/-- NOP, FLUSH, BARRIER, CHECKPOINT and CONSOLIDATE (R106, R107, R297, R310, R326): a FLUSH ends once every covered record is on flash and closes
the stripe it waits for; a BARRIER ends once no earlier command of its scope is left; a CHECKPOINT waits for the next root; a CONSOLIDATE
starts Drone at once when it is free, and ends at once when there is nothing to do. -/
def Obligations.QueueRows : Prop :=
  (∀ (s : State) (x : Cmd), Begun s x 0x01 → ∃ t, exec (.nop x.id) s = .next t ∧ EndsWith t x.id x.status x.result)
  ∧ (∀ (s : State) (x : Cmd), Begun s x 0x02 → mirrorOn s = false →
      (∀ r ∈ s.bag.recs, flushCovers s x r = true → r.stripe.isSome = true ∧ r.lost = false) →
    ∃ t, exec (.flush x.id) s = .next (drainAll t) ∧ EndsWith t x.id x.status x.result ∧ t.bag.recs = s.bag.recs
      ∧ ∀ y, cmdGet t x.id = some y → y.jseq = (s.bag.recs.filter (flushCovers s x)).foldl (fun m r => max m r.seq) 0)
  ∧ (∀ (s : State) (x : Cmd) (r : JRec), Begun s x 0x02 → r ∈ s.bag.recs → flushCovers s x r = true → r.stripe = none →
    ∃ t n, exec (.flush x.id) s = .next (drainAll t) ∧ cmdGet t x.id = some { x with work := .wait 9 n } ∧ r.seq ≤ n ∧ r.seq ≤ t.bag.closeTo)
  ∧ (∀ (s : State) (x : Cmd) (n : Nat), running s x.id 0x02 = some x → x.work = .wait 9 n → mirrorOn s = false →
      (∀ r ∈ covered s x n, r.stripe.isSome = true) → (∃ r ∈ covered s x n, r.lost = true) →
    ∃ t, exec (.flush x.id) s = .next (drainAll t) ∧ EndsWith t x.id 0x0403 0)
  ∧ (∀ (s : State) (x : Cmd), running s x.id 0x03 = some x → barrierWaits s x = false →
    ∃ t, exec (.barrier x.id) s = .next t ∧ EndsWith t x.id x.status x.result)
  ∧ (∀ (s : State) (x : Cmd), running s x.id 0x03 = some x → barrierWaits s x = true →
    ∃ t, exec (.barrier x.id) s = .next t ∧ cmdGet t x.id = some { x with work := .wait 7 (cf x 16 1) })
  ∧ (∀ (s : State) (x : Cmd), Begun s x 0x52 → cf x 16 1 = 0 →
    ∃ t, exec (.checkpointNow x.id) s = .next t ∧ t.bag.ckptDue = true
      ∧ cmdGet t x.id = some { x with work := .checkpoint (s.bag.root.rootSeq + (if s.bag.ckpt.isSome then 2 else 1)) s.now })
  ∧ (∀ (s : State) (x : Cmd), running s x.id 0x52 = some x → cf x 16 1 = 1 →
    ∃ t, exec (.checkpointSetInterval x.id) s = .next t ∧ EndsWith t x.id x.status x.result
      ∧ regGet t (reg .bag 0 0x108) = setBits (regGet s (reg .bag 0 0x108)) 15 0 (cf x 20 2))
  ∧ (∀ (s : State) (x : Cmd) (root since : Nat), running s x.id 0x52 = some x → x.work = .checkpoint root since → s.now ≥ since + 1000000 →
      s.bag.ckptDue = true → s.chn.quiesced = false → bagWorks s = true → s.bag.ckpt = none →
      (∀ p ∈ s.colls, p.2.dropping = true) →
    ∃ t, exec (.checkpointWaitExpiry x.id) s = .next (drainAll t) ∧ t.bag.ckpt = some (s.bag.postedSeq, imageAt s.bag.postedSeq s) ∧ t.bag.ckptDue = false)
  ∧ (∀ (s : State) (x : Cmd) (root since h : Nat) (c : Coll), running s x.id 0x52 = some x → x.work = .checkpoint root since →
      s.now ≥ since + 1000000 → s.bag.ckptDue = true → s.chn.quiesced = false → bagWorks s = true → s.bag.ckpt = none →
      s.colls.find? (fun p => !p.2.dropping) = some (h, c) → c.run = none → journalFits s false 128 = true → tget s.colls h = some c →
    ∃ t img, exec (.checkpointWaitExpiry x.id) s = .next (drainAll t) ∧ t.bag.ckpt = some (s.bag.postedSeq, img) ∧ t.bag.ckptDue = false
      ∧ Committed s t h 7 s.bag.postedSeq none none { coll := settleTo s.bag.postedSeq c })
  ∧ (∀ (s : State) (x : Cmd) (k : Coll), Begun s x 0x50 → cf x 16 1 = 0 → tget s.colls (cColl x) = some k → mayRun s k = true →
      k.building = false → somethingToFold k = true →
    ∃ t c, exec (.consolidateFold x.id) s = .next (drainAll t) ∧ cmdGet t x.id = some { x with work := .wait 4 (cColl x) }
      ∧ tget t.colls (cColl x) = some c ∧ c.run.map (fun r => (r.op, r.cut)) = some (.fold, k.posted) ∧ c.entries = k.entries)
  ∧ (∀ (s : State) (x : Cmd) (k : Coll), Begun s x 0x50 → cf x 16 1 = 0 → tget s.colls (cColl x) = some k → mayRun s k = true →
      k.building = false → somethingToFold k = false → consolidating s (cColl x) 0 = none →
    ∃ t, exec (.consolidateFold x.id) s = .next (drainAll t) ∧ EndsWith t x.id x.status x.result ∧ t.colls = s.colls
      ∧ ∀ y, cmdGet t x.id = some y → y.epoch = k.viewEpoch)
  ∧ (∀ (s : State) (x : Cmd) (k : Coll), Begun s x 0x50 → cf x 16 1 = 1 → tget s.colls (cColl x) = some k → mayRun s k = true →
      k.building = false → compactTombs k.posted none k ≠ [] →
    ∃ t c, exec (.consolidateCompact x.id) s = .next (drainAll t) ∧ cmdGet t x.id = some { x with work := .wait 4 (cColl x) }
      ∧ tget t.colls (cColl x) = some c ∧ c.run.map (fun r => (r.op, r.cut, r.key)) = some (.compaction, k.posted, none) ∧ c.entries = k.entries)
  ∧ (∀ (s : State) (x : Cmd) (k : Coll), Begun s x 0x50 → cf x 16 1 = 1 → tget s.colls (cColl x) = some k → mayRun s k = true →
      k.building = false → compactTombs k.posted none k = [] → consolidating s (cColl x) 1 = none →
    ∃ t, exec (.consolidateCompact x.id) s = .next (drainAll t) ∧ EndsWith t x.id x.status x.result ∧ t.colls = s.colls
      ∧ ∀ y, cmdGet t x.id = some y → y.epoch = k.viewEpoch)

/-- Collections are made, dropped, described and put under re-encoding (R31, R35, R62, R298). -/
def Obligations.CollectionRows : Prop :=
  (∀ (s u v : State) (x : Cmd) (d : List Byte) (h tbl : Nat), Begun s x 0x10 →
      readClean (whoOf s x) (inputPage x) 2 (cf x 16 8) 128 s = .ok d u → badDesc u d = none → foreignDesc u (domOf s x) d = none →
      leastFree (u.colls.map Prod.fst) 4097 0 = h → h < 4096 →
      (if fld d 8 1 = 0 then some 0xFFFF else freeTable u) = some tbl →
      writeDev (whoOf s x) (cf x 16 8) (leBytes 2 h) u = .ok () v → journalFits v (runsBounded v x) 192 = true →
    ∃ w, exec (.collCreate x.id) s = .next (drainAll w)
      ∧ Journals s w x.id 0x10 h (.collNew (collOf u d (domOf s x) tbl)) h s.bag.writeThrough
      ∧ tget w.colls h = some { collOf u d (domOf s x) tbl with journaled := s.bag.nextSeq }
      ∧ (∀ g, g ≠ h → tget w.colls g = tget s.colls g)
      ∧ (tbl ≠ 0xFFFF → tget w.tables tbl = some (entryTable (domOf s x)))
      ∧ w.hostMem = v.hostMem)
  ∧ (∀ (s : State) (x : Cmd) (k : Coll), Begun s x 0x11 → tget s.colls (cColl x) = some k → collInUse s x = false →
      journalFits s (runsBounded s x) 128 = true →
    ∃ w, exec (.collDrop x.id) s = .next (drainAll w)
      ∧ Journals s w x.id 0x10 (cColl x) .collDrop x.result s.bag.writeThrough
      ∧ tget w.colls (cColl x) = some { k with journaled := s.bag.nextSeq, dropping := true, run := none, moves := [] }
      ∧ (∀ g, g ≠ cColl x → tget w.colls g = tget s.colls g))
  ∧ (∀ (s u : State) (x : Cmd) (k : Coll), Begun s x 0x12 → tget s.colls (cColl x) = some k →
      writeDev (whoOf s x) (cf x 16 8) (descBytes s (cColl x) k) s = .ok () u →
    ∃ w, exec (.collQuery x.id) s = .next (drainAll w) ∧ EndsWith w x.id x.status x.result ∧ w.hostMem = u.hostMem
      ∧ w.colls = s.colls)
  ∧ (∀ (s : State) (x : Cmd) (k : Coll), Begun s x 0x51 → tget s.colls (cColl x) = some k → k.migrating = false →
      progSuits s (cf x 16 2) k.codeBits k.srcDim k.srcFormat = true →
      (tget s.progs (cf x 16 2)).any (fun p => p.domain ≠ 0 && p.domain ≠ k.owner) = false → journalFits s (runsBounded s x) 128 = true →
    ∃ w, exec (.reencode x.id) s = .next (drainAll w)
      ∧ Journals s w x.id 0x11 (cColl x) (.reencode (cf x 16 2) false) x.result s.bag.writeThrough
      ∧ tget w.colls (cColl x) = some { k with
          encNext := cf x 16 2, migrating := true, recoded := 0, recodeLost := 0, journaled := s.bag.nextSeq }
      ∧ (∀ g, g ≠ cColl x → tget w.colls g = tget s.colls g))

/-- COLL_CONFIG (Table 4.6, R34, R294, R343): the properties that result are journaled and take effect with the record. -/
def Obligations.CollConfigRows : Prop :=
  (∀ (s : State) (x : Cmd) (k : Coll), Begun s x 0x13 → tget s.colls (cColl x) = some k → cf x 16 1 = 0 →
      ¬(cf x 17 1 = 1 ∧ k.indexKind ≠ 0) → journalFits s (runsBounded s x) 128 = true →
    ∃ w, exec (.collConfigPlacement x.id) s = .next (drainAll w)
      ∧ Journals s w x.id 0x10 (cColl x) (.collSet { k with placement := cf x 17 1 }) x.result s.bag.writeThrough
      ∧ tget w.colls (cColl x) = some { k with placement := cf x 17 1, journaled := s.bag.nextSeq }
      ∧ (∀ g, g ≠ cColl x → tget w.colls g = tget s.colls g))
  ∧ (∀ (s : State) (x : Cmd) (k : Coll) (tbl : Nat), Begun s x 0x13 → tget s.colls (cColl x) = some k → cf x 16 1 = 1 →
      k.indexKind = 0 → k.placement ≠ 1 → k.entries.any (fun p => p.1 ≥ 0xFFFF_FFFF) = false → freeTable s = some tbl →
      journalFits s (runsBounded s x) 128 = true →
    ∃ w, exec (.collConfigIndexKind x.id) s = .next (drainAll w)
      ∧ Journals s w x.id 0x10 (cColl x)
          (.collSet { k with indexKind := 2, building := true, buildGraph := true, entryTbl := tbl }) x.result s.bag.writeThrough
      ∧ tget w.colls (cColl x) = some { k with
          indexKind := 2, building := true, buildGraph := true, entryTbl := tbl, journaled := s.bag.nextSeq }
      ∧ tget w.tables tbl = some (entryTable k.owner))
  ∧ (∀ (s : State) (x : Cmd) (k : Coll), Begun s x 0x13 → tget s.colls (cColl x) = some k → cf x 16 1 = 1 →
      k.indexKind = 1 → (k.partMode = 0 → (tagsOpen { k with building := true, buildGraph := false }).length ≤ 65536) →
      journalFits s (runsBounded s x) 128 = true →
    ∃ w, exec (.collConfigIndexKind x.id) s = .next (drainAll w)
      ∧ tget w.colls (cColl x) = some { k with
          indexKind := 2, building := true, buildGraph := false, journaled := s.bag.nextSeq }
      ∧ w.tables = s.tables)
  ∧ (∀ (s : State) (x : Cmd) (k : Coll), Begun s x 0x13 → tget s.colls (cColl x) = some k → cf x 16 1 = 2 →
      (tget s.domains (cf x 18 2)).isSome = true → journalFits s (runsBounded s x) 128 = true →
    ∃ w k', exec (.collConfigGrant x.id) s = .next (drainAll w)
      ∧ Journals s w x.id 0x10 (cColl x)
          (.collSet (withRights (cf x 18 2) (((tget k.grants (cf x 18 2)).getD 0) ||| (cf x 20 2 % 8)) k)) x.result s.bag.writeThrough
      ∧ tget w.colls (cColl x) = some k'
      ∧ (tget k'.grants (cf x 18 2)).getD 0 = ((tget k.grants (cf x 18 2)).getD 0) ||| (cf x 20 2 % 8)
      ∧ (∀ d, d ≠ cf x 18 2 → tget k'.grants d = tget k.grants d))
  ∧ (∀ (s : State) (x : Cmd) (k : Coll), Begun s x 0x13 → tget s.colls (cColl x) = some k → cf x 16 1 = 3 →
      (tget s.domains (cf x 18 2)).isSome = true → journalFits s (runsBounded s x) 128 = true →
    ∃ w k', exec (.collConfigRevoke x.id) s = .next (drainAll w)
      ∧ Journals s w x.id 0x10 (cColl x)
          (.collSet (withRights (cf x 18 2) (((tget k.grants (cf x 18 2)).getD 0) &&& (7 - cf x 20 2 % 8)) k)) x.result s.bag.writeThrough
      ∧ tget w.colls (cColl x) = some k'
      ∧ (tget k'.grants (cf x 18 2)).getD 0 = ((tget k.grants (cf x 18 2)).getD 0) &&& (7 - cf x 20 2 % 8)
      ∧ (∀ d, d ≠ cf x 18 2 → tget k'.grants d = tget k.grants d))

/-- CONSOLIDATE op 2 sets the thresholds that are not zero (R297), op 3 writes the maintenance report (Table 11.6), EXPORT
writes the live entries of its view to the spans of its block list (R330). -/
def Obligations.MaintenanceCommands : Prop :=
  (∀ (s : State) (x : Cmd) (k : Coll), Begun s x 0x50 → tget s.colls (cColl x) = some k → cf x 16 1 = 2 →
      journalFits s (runsBounded s x) 128 = true →
    ∃ w k', exec (.consolidateSet x.id) s = .next (drainAll w)
      ∧ Journals s w x.id 0x10 (cColl x) (.collSet { k' with journaled := k.journaled }) x.result s.bag.writeThrough
      ∧ tget w.colls (cColl x) = some k'
      ∧ k' = { k with
          sideHw := if cf x 20 4 = 0 then k.sideHw else cf x 20 4, ageMs := if cf x 24 4 = 0 then k.ageMs else cf x 24 4
          tombPm := if cf x 28 2 = 0 then k.tombPm else cf x 28 2, journaled := s.bag.nextSeq })
  ∧ (∀ (s u : State) (x : Cmd) (k : Coll), Begun s x 0x50 → tget s.colls (cColl x) = some k → cf x 16 1 = 3 →
      writeDev (whoOf s x) (cf x 32 8) (reportBytes k) s = .ok () u →
    ∃ w, exec (.consolidateReport x.id) s = .next (drainAll w) ∧ EndsWith w x.id x.status x.result ∧ w.hostMem = u.hostMem
      ∧ w.colls = s.colls)
  ∧ (∀ (s u v : State) (x : Cmd) (k c : Coll) (ds : List BlkData), Begun s x 0x53 → tget s.colls (cColl x) = some k →
      viewOf s x = some c → dataSpans x true (cf x 16 8) (cf x 24 8) = some ds → barred s x = false →
      let parts := cf x 40 1
      let live := c.entries.filter (fun p => p.1 ≥ cf x 32 8 && liveAt c x.horizon p)
      let n := (cf x 24 8 - 64) / streamStride c parts
      let bs := exportHeader (cColl x) x.horizon parts (live.take n).length (((live.drop n).head?.map Prod.fst).getD (2 ^ 64 - 1)) c
        ++ (live.take n).flatMap (exportEntry s (cColl x) parts c)
      (live.take n).findSome? (fun p => poisonAt s c (cColl x) p.1 (.record :: (if bit parts 0 then [.code] else []))) = none →
      checkSpans (whoOf s x) (listSpan ds 0 bs.length) s = .ok () u →
      writeSpans (whoOf u x) (listSpan ds 0 bs.length) bs u = .ok () v →
    ∃ w, exec (.exportCmd x.id) s = .next (drainAll w) ∧ EndsWith w x.id x.status x.result ∧ w.hostMem = v.hostMem
      ∧ w.colls = s.colls)

/-- Translation and log commands: an invalidation withdraws every cached translation of its range at once and its command waits for
the drain (R373, R375); a region is granted (R357), or taken out with its translations (R360); deferred entries are handed over and
leave the store (R115); a log is read (R435). -/
def Obligations.TranslationCommandRows : Prop :=
  (∀ (s : State) (x : Cmd), Begun s x 0x60 → (cf x 32 2 = domOf s x ∨ domOf s x = 0) → (tget s.domains (cf x 32 2)).isSome = true →
    let base := if cf x 24 8 = 0 then 0 else cf x 16 8
    let len := if cf x 24 8 = 0 then 2 ^ 48 else cf x 24 8
    ∃ w y, exec (.xlatInvalidate x.id) s = .next (drainAll w)
      ∧ (∀ e ∈ w.crook.cache, entryIn (cf x 32 2) base len e = true → e.withdrawn = true ∧ e.holds = 0)
      ∧ w.crook.invals = s.crook.invals ++ [{ n := s.crook.nextInval, dom := cf x 32 2, base := base, len := len, cmd := some x.id }]
      ∧ cmdGet w x.id = some y ∧ y.work = .wait 2 s.crook.nextInval ∧ y.phase = .executing
      ∧ w.chn.epoch = s.chn.epoch + (if s.crook.cache.any (fun e => entryIn (cf x 32 2) base len e && !e.withdrawn) then 1 else 0))
  ∧ (∀ (s : State) (x : Cmd) (d : Domain), Begun s x 0x61 → tget s.domains (domOf s x) = some d →
      (d.regions ++ regionsDue s x ++ (if domOf s x = 0 then [bootRegion s] else [])).any (overlaps (cf x 16 8) (cf x 24 8)) = false →
      (d.regions ++ regionsDue s x).length < d.maxRegions → (cf x 33 1 = 1 → d.mirrorOk = true) →
      (cf x 33 1 ≠ 1 → d.atsOk = true ∧ s.crook.atsEnable = true) →
    ∃ w, exec (.regionRegister x.id) s = .next (drainAll w) ∧ EndsWith w x.id x.status x.result ∧ w.domains = s.domains)
  ∧ (∀ (s : State) (x : Cmd) (d : Domain) (g : Region), Begun s x 0x62 → tget s.domains (domOf s x) = some d →
      d.regions.find? (fun r => r.base = cf x 16 8) = some g → ringIn s (domOf s x) g = false →
    ∃ w y k, exec (.regionRelease x.id) s = .next (drainAll w)
      ∧ tget w.domains (domOf s x) = some k ∧ k.regions = d.regions.filter (fun r => r.base ≠ g.base)
      ∧ (∀ e ∈ w.crook.cache, entryIn (domOf s x) g.base g.length e = true → e.withdrawn = true ∧ e.holds = 0)
      ∧ cmdGet w x.id = some y ∧ y.work = .wait 2 s.crook.nextInval ∧ y.phase = .executing)
  ∧ (∀ (s u : State) (x : Cmd) (d : Domain), Begun s x 0x70 → tget s.domains (domOf s x) = some d →
      let sel := d.deferred.filter (fun e => cf x 28 2 = 0xFFFF || e.queue = cf x 28 2)
      let es := (sel.filter (fun e => e.no < x.defBound)).take (cf x 24 4)
      writeDev (whoOf s x) (cf x 16 8) (leBytes 4 es.length ++ leBytes 4 (sel.length - es.length) ++ leBytes 8 d.lost ++ leBytes 16 0
        ++ es.flatMap deferredBytes) s = .ok () u → journalFits u (runsBounded u x) 128 = true →
    ∃ w k, exec (.readDeferred x.id) s = .next (drainAll w)
      ∧ Journals s w x.id 0x40 0xFFFF (.deferred (domOf s x) (d.deferred.filter (fun e => e ∉ es)) d.nextDef 0) es.length s.bag.writeThrough
      ∧ tget w.domains (domOf s x) = some k ∧ k.deferred = d.deferred.filter (fun e => e ∉ es) ∧ k.lost = 0
      ∧ w.hostMem = u.hostMem)
  ∧ (∀ (s u : State) (x : Cmd), Begun s x 0x71 →
      let log := if cf x 37 1 = 0 then s.chn.recent else s.chn.persistent
      let sel := log.filter (fun e => e.seq ≥ cf x 28 8 && e.sev ≥ cf x 36 1 && (domOf s x = 0 || e.dom = domOf s x || e.dom = 0xFFFF))
      writeDev (whoOf s x) (cf x 16 8) (leBytes 4 (sel.take (cf x 24 4)).length ++ leBytes 4 0
        ++ leBytes 8 (((sel.drop (cf x 24 4)).head?.map Ev.seq).getD 0) ++ leBytes 8 ((log.head?.map Ev.seq).getD 0) ++ leBytes 40 0
        ++ (sel.take (cf x 24 4)).flatMap (fun e => evBytes e false false)) s = .ok () u →
    ∃ w, exec (.readLog x.id) s = .next (drainAll w) ∧ EndsWith w x.id x.status (sel.take (cf x 24 4)).length
      ∧ w.hostMem = u.hostMem ∧ w.chn = s.chn)

/-- ADMIN makes and destroys domains, queues and completion rings, and enables rings (Table 4.5, R77, R79, R88, R90, R116, R370). -/
def Obligations.AdminObjectRows : Prop :=
  (∀ (s : State) (x : Cmd), Begun s x 0x7F → cSub x = 1 → tget s.domains (cf x 16 2) = none → journalFits s (runsBounded s x) 128 = true →
    ∃ w k, exec (.domainCreate x.id) s = .next (drainAll w)
      ∧ Journals s w x.id 0x40 0xFFFF (.domain (cf x 16 2) (some k)) x.result s.bag.writeThrough
      ∧ tget w.domains (cf x 16 2) = some k ∧ (∀ n, n ≠ cf x 16 2 → tget w.domains n = tget s.domains n)
      ∧ k.pasid = cf x 18 4 ∧ k.evRing = cf x 22 1 ∧ k.urgRate = cf x 24 4 ∧ k.urgBurst = cf x 28 2 ∧ k.quota = cf x 30 4
      ∧ k.maxRegions = cf x 36 2 ∧ k.keyMask = BitVec.ofNat 64 (cf x 40 8) ∧ k.regions = [] ∧ k.deferred = [])
  ∧ (∀ (s : State) (x : Cmd) (k : Domain), Begun s x 0x7F → cSub x = 2 → tget s.domains (cf x 16 2) = some k →
      domainInUse s (cf x 16 2) k = false → journalFits s (runsBounded s x) 128 = true →
    ∃ w, exec (.domainDestroy x.id) s = .next (drainAll w)
      ∧ Journals s w x.id 0x40 0xFFFF (.domain (cf x 16 2) none) x.result s.bag.writeThrough
      ∧ tget w.domains (cf x 16 2) = none ∧ (∀ n, n ≠ cf x 16 2 → tget w.domains n = tget s.domains n)
      ∧ (∀ e ∈ w.crook.cache, e.dom ≠ cf x 16 2))
  ∧ (∀ (s : State) (x : Cmd) (k : Domain) (r : Ring), Begun s x 0x7F → cSub x = 3 → tget s.domains (cf x 18 2) = some k →
      tget s.queues (cf x 16 2) = none → tget s.rings (cf x 20 2) = some r → r.domain = cf x 18 2 →
      ¬(cf x 24 1 = 0 ∧ k.urgRate = 0) → slotsReserved s + cf x 22 2 ≤ 262144 →
    ∃ w q, exec (.queueCreate x.id) s = .next (drainAll w) ∧ EndsWith w x.id x.status x.result
      ∧ tget w.queues (cf x 16 2) = some q ∧ q.domain = cf x 18 2 ∧ q.ring = cf x 20 2 ∧ q.depth = cf x 22 2 ∧ q.cls = cf x 24 1
      ∧ q.fabric = bit (cf x 25 1) 0 ∧ q.nextSeq = 0 ∧ q.rejects = 0 ∧ q.lastReason = 0
      ∧ (∀ n, n ≠ cf x 16 2 → tget w.queues n = tget s.queues n))
  ∧ (∀ (s : State) (x : Cmd) (q : Queue), Begun s x 0x7F → cSub x = 4 → tget s.queues (cf x 16 2) = some q → q.closing = false →
      queueBusy s (cf x 16 2) = false →
    ∃ w, exec (.queueDestroy x.id) s = .next (drainAll w) ∧ EndsWith w x.id x.status x.result
      ∧ tget w.queues (cf x 16 2) = none ∧ (∀ n, n ≠ cf x 16 2 → tget w.queues n = tget s.queues n))
  ∧ (∀ (s : State) (x : Cmd) (q : Queue), Begun s x 0x7F → cSub x = 4 → tget s.queues (cf x 16 2) = some q → q.closing = false →
      queueBusy s (cf x 16 2) = true → (∀ y ∈ s.cmds, y.id = x.id → y = x) →
    ∃ w y, exec (.queueDestroy x.id) s = .next (drainAll w) ∧ cmdGet w x.id = some y ∧ y.work = .wait 6 (cf x 16 2)
      ∧ tget w.queues (cf x 16 2) = some { q with closing := true })
  ∧ (∀ (s : State) (x : Cmd), Begun s x 0x7F → cSub x = 5 → tget s.rings (cf x 16 2) = none → badCtx s (cf x 16 2) x = none →
    ∃ w r, exec (.cqCreate x.id) s = .next (drainAll w) ∧ EndsWith w x.id x.status x.result
      ∧ tget w.rings (cf x 16 2) = some r ∧ r.base = cf x 24 8 ∧ r.enabled = bit (cf x 33 1) 0 ∧ r.head = 0 ∧ r.tail = 0
      ∧ (∀ n, n ≠ cf x 16 2 → tget w.rings n = tget s.rings n))
  ∧ (∀ (s : State) (x : Cmd), Begun s x 0x7F → cSub x = 6 → (tget s.rings (cf x 16 2)).isSome = true →
      s.queues.any (fun q => q.2.ring = cf x 16 2) = false →
    ∃ w, exec (.cqDestroy x.id) s = .next (drainAll w) ∧ EndsWith w x.id x.status x.result
      ∧ tget w.rings (cf x 16 2) = none ∧ (∀ n, n ≠ cf x 16 2 → tget w.rings n = tget s.rings n))
  ∧ (∀ (s : State) (x : Cmd) (r : Ring), Begun s x 0x7F → cSub x = 7 → tget s.rings (cf x 16 2) = some r →
      (r.enabled = false → ctxValid s (.cq (cf x 16 2)) r true = true) →
    ∃ w, exec (.cqEnable x.id) s = .next (drainAll w) ∧ EndsWith w x.id x.status x.result
      ∧ tget w.rings (cf x 16 2) = some (if r.enabled then { r with faulted := false } else ringEnable r)
      ∧ (∀ n, n ≠ cf x 16 2 → tget w.rings n = tget s.rings n))

/-- ADMIN's other sub-opcodes: classes, ABORT, the time of day, limits, accounts, security state and keys (Tables 4.5 and 20.6,
R112, R482, R488, R489, R493). -/
def Obligations.AdminValueRows : Prop :=
  (∀ (s : State) (x : Cmd), Begun s x 0x7F → cSub x = 8 →
    ∃ w, exec (.classConfig x.id) s = .next (drainAll w) ∧ EndsWith w x.id x.status x.result ∧ w.classes = s.classes)
  ∧ (∀ (s : State) (x : Cmd), Begun s x 0x7F → cSub x = 9 → (tget s.queues (cf x 16 2)).isSome = true →
      (∀ y ∈ s.cmds, y.id = x.id → y = x) →
    ∃ w, exec (.abort x.id) s = .next (drainAll w) ∧ EndsWith w x.id x.status x.result
      ∧ (∀ y ∈ s.cmds, y.phase = .waiting → y.sub = none → y.queue = cf x 16 2 → cTag y = cf x 18 2 → EndsWith w y.id 0x0504 0)
      ∧ (∀ d, d ≠ x.id → (∀ y ∈ s.cmds, y.id = d → ¬(y.phase = .waiting ∧ y.queue = cf x 16 2 ∧ cTag y = cf x 18 2)) →
          cmdGet w d = cmdGet s d))
  ∧ (∀ (s : State) (x : Cmd), Begun s x 0x7F → cSub x = 0x0A →
    ∃ w, exec (.adminSetTime x.id) s = .next (drainAll w) ∧ EndsWith w x.id x.status x.result ∧ w.tod = some (cf x 16 8, s.now))
  ∧ (∀ (s u : State) (x : Cmd) (d : Domain), Begun s x 0x7F → cSub x = 0x0B → tget s.domains (cf x 24 2) = some d →
      writeDev (whoOf s x) (cf x 16 8) (limitsBytes s d) s = .ok () u →
    ∃ w, exec (.queryLimits x.id) s = .next (drainAll w) ∧ EndsWith w x.id x.status x.result ∧ w.hostMem = u.hostMem)
  ∧ (∀ (s : State) (x : Cmd) (gen : Nat) (kek : BitVec 256), Begun s x 0x7F → cSub x = 0x20 → keyLoaded s (cf x 16 1) = false →
      s.sec.kek = some (gen, kek) → gen = cf x 20 4 →
    ∃ w, exec (.keyLoad x.id) s = .next (drainAll w)
      ∧ (∀ key, Config.unwrap kek (slice x.bytes 24 40) = some key → EndsWith w x.id x.status x.result
          ∧ tget w.sec.keys (cf x 16 1) = some key ∧ w.chn.eventSeq = s.chn.eventSeq + 1)
      ∧ (Config.unwrap kek (slice x.bytes 24 40) = none → EndsWith w x.id 0x0102 0 ∧ w.sec = s.sec))
  ∧ (∀ (s : State) (x : Cmd), Begun s x 0x7F → cSub x = 0x21 →
    ∃ w, exec (.keyClear x.id) s = .next (drainAll w) ∧ EndsWith w x.id x.status x.result ∧ w.sec = s.sec)
  ∧ (∀ (s : State) (x : Cmd) (gen : Nat) (kek : BitVec 256), Begun s x 0x7F → cSub x = 0x22 → cstEnabled s = false →
      s.sec.kek = some (gen, kek) → gen = cf x 20 4 →
    ∃ w, exec (.fabricKey x.id) s = .next (drainAll w)
      ∧ (∀ key, Config.unwrap kek (slice x.bytes 24 40) = some key → EndsWith w x.id x.status x.result
          ∧ w.sec.fabricKey = some key ∧ w.chn.eventSeq = s.chn.eventSeq + 1)
      ∧ (Config.unwrap kek (slice x.bytes 24 40) = none → EndsWith w x.id 0x0102 0 ∧ w.sec = s.sec))
  ∧ (∀ (s u : State) (x : Cmd), Begun s x 0x7F → cSub x = 0x23 →
      let ds := if cf x 16 2 = 0xFFFF then s.domains else s.domains.filter (fun p => p.1 = cf x 16 2)
      ds ≠ [] → writeDev (whoOf s x) (cf x 24 8) (ds.flatMap (fun p => accountBytes p.1 p.2)) s = .ok () u →
    ∃ w, exec (.accountRead x.id) s = .next (drainAll w) ∧ EndsWith w x.id x.status ds.length ∧ w.hostMem = u.hostMem)
  ∧ (∀ (s u : State) (x : Cmd), Begun s x 0x7F → cSub x = 0x24 →
      writeDev (whoOf s x) (cf x 24 8) (leBytes 64 (Config.securityBlock (securityValues s)).toNat) s = .ok () u →
    ∃ w, exec (.securityState x.id) s = .next (drainAll w) ∧ EndsWith w x.id x.status x.result ∧ w.hostMem = u.hostMem)

/-- Programs and tables (R233 to R238, R265): a program is loaded under the lowest free version or retired; a table's pending
version is loaded; a swap makes it current and takes a barrier, whose acknowledgement completes the command. -/
def Obligations.ProgramTableRows : Prop :=
  (∀ (s u : State) (x : Cmd) (img : List Byte) (v : Nat), Begun s x 0x41 → cf x 28 1 = 0 → s.progs.length < 256 →
      readBuf x (cf x 16 8) (cf x 24 4) s = .ok img u → cf x 24 4 = 64 + 64 * progSteps img →
      badProg u (domOf u x) img = none → leastFree (u.progs.map Prod.fst ++ retiring u) ((u.progs.map Prod.fst ++ retiring u).length + 1) 0 = v → journalFits u (runsBounded u x) 128 = true →
    ∃ w, exec (.progLoadLoad x.id) s = .next (drainAll w)
      ∧ Journals s w x.id 0x30 0xFFFF (.program v (some { domain := domOf u x, image := img, batch := 0, lost := none })) v true
      ∧ tget w.progs v = some { domain := domOf u x, image := img, batch := 0, lost := none }
      ∧ (∀ n, n ≠ v → tget w.progs n = tget u.progs n))
  ∧ (∀ (s : State) (x : Cmd) (p : Prog), Begun s x 0x41 → cf x 28 1 = 1 → tget s.progs (cf x 30 2) = some p →
      (domOf s x = 0 ∨ p.domain = domOf s x) → s.colls.any (fun k => k.2.encVersion = cf x 30 2 || k.2.encNext = cf x 30 2) = false →
      journalFits s (runsBounded s x) 128 = true →
    ∃ w, exec (.progLoadRetire x.id) s = .next (drainAll w)
      ∧ Journals s w x.id 0x30 0xFFFF (.program (cf x 30 2) none) x.result s.bag.writeThrough
      ∧ tget w.progs (cf x 30 2) = none ∧ (∀ n, n ≠ cf x 30 2 → tget w.progs n = tget s.progs n))
  ∧ (∀ (s u : State) (x : Cmd) (bs : List Byte) (t : Tbl), Begun s x 0x42 → cf x 28 2 ≠ 0xFFFF → tget s.tables (cf x 28 2) = some t →
      t.domain = domOf s x → moduleArea s - (t.pending.map (fun d => d.bytes.length)).getD 0 + cf x 24 4 ≤ 6 * 2 ^ 30 →
      readBuf x (cf x 16 8) (cf x 24 4) s = .ok bs u → crc32c bs = cf x 44 4 →
      journalFits u (runsBounded u x) 128 = true →
    ∃ w d, exec (.tableLoad x.id) s = .next (drainAll w)
      ∧ Journals s w x.id 0x31 0xFFFF (.table (cf x 28 2) (some { t with pending := some d, earlier := [] })) (cf x 28 2) true
      ∧ tget w.tables (cf x 28 2) = some { t with pending := some d } ∧ d.bytes = bs ∧ d.kind = cf x 30 1 ∧ d.fmt = cf x 31 1
      ∧ d.rows = cf x 32 4 ∧ d.cols = cf x 36 4 ∧ d.scale = cf x 40 1 ∧ d.tscale = cf x 41 1
      ∧ (∀ n, n ≠ cf x 28 2 → tget w.tables n = tget u.tables n))
  ∧ (∀ (s : State) (x : Cmd) (t : Tbl) (d : TblData), Begun s x 0x43 → tget s.tables (cf x 16 2) = some t → t.domain = domOf s x →
      t.pending = some d → tableLocked s (cf x 16 2) = false → poolFits s (cf x 16 2) d = true → journalFits s (runsBounded s x) 128 = true →
    ∃ w y, exec (.tableSwap x.id) s = .next (drainAll w)
      ∧ tget w.tables (cf x 16 2) = some (keepVersion (tableUsers s (cf x 16 2)) t (swapped d t)) ∧ (∀ n, n ≠ cf x 16 2 → tget w.tables n = tget s.tables n)
      ∧ cmdGet w x.id = some y ∧ y.work = .wait 1 s.chn.nextBarrier ∧ y.phase = .executing ∧ y.jseq = s.bag.nextSeq
      ∧ y.result = (t.gen + 1) % 2 ^ 32
      ∧ w.chn.barriers = s.chn.barriers ++ [{ no := s.chn.nextBarrier, table := true, on := cf x 16 2, began := s.now }]
      ∧ w.chn.epoch = s.chn.epoch + 1)
  ∧ (∀ (s : State) (b c : Nat) (x : Cmd), s.chn.barriers.any (fun k => k.no = b) = true → cmdGet s c = some x → x.work = .wait 1 b →
      s.bag.writeThrough = false →
    ∃ w, exec (.barrierAcknowledged b) s = .next (drainAll w) ∧ EndsWith w c x.status x.result
      ∧ w.chn.barriers = s.chn.barriers.filter (fun k => k.no ≠ b)
      ∧ (∀ d y, cmdGet s d = some y → y.work ≠ .wait 1 b → cmdGet w d = some y))

/-- ENCODE and Bore's regions (R203, R207, R242): the command reads its sources and runs the steps its outputs need; a region that
has drained brings a MATMUL step to its end, at once or, when the step is split, once its parts have been combined; the outputs are
written at the end. -/
def Obligations.EncodeRows : Prop :=
  (∀ (s u : State) (x : Cmd) (k : Coll) (vs : List EncVec), Begun s x 0x40 → tget s.colls (cColl x) = some k → barred s x = false →
      streamPoison x.id s = none → progLost s (encodeVersion x k) = none →
      readSources x k.srcFormat k.srcDim (cf x 44 4) (cf x 40 4) (cf x 16 8) 0 s = .ok vs u →
    let z := endStage x.id 2 (consumeRings x.id u)
    let es := (encBatches x (encodeVersion x k) (outBufs (imageOf z x (encodeVersion x k)) (cf x 53 1)) vs z).1
    bellMarked es = none → es.all encDone = false →
    ∃ w y, exec (.encode x.id) s = .next (drainAll w) ∧ cmdGet w x.id = some y ∧ y.phase = .executing ∧ y.work = .encode es)
  ∧ (∀ (s u : State) (x : Cmd) (k : Coll) (es : List Enc), running s x.id 0x40 = some x → viewOf s x = some k → x.work = .encode es →
      es.all encDone = true → writeEncoded x ((es.head?.map Enc.img).getD []) 0 (es.flatMap Enc.vecs) s = .ok () u →
    ∃ w, exec (.encode x.id) s = .next (drainAll w) ∧ EndsWith w x.id x.status (cf x 40 4) ∧ w.hostMem = u.hostMem)
  ∧ (∀ (s t : State) (x : Cmd) (es : List Enc) (n : Nat) (e e' : Enc) (i h : Nat) (d : TblData) (rest : List Nat),
      cmdGet s x.id = some x → x.phase = .executing → x.work = .encode es → nextRegion x = some (n, e) → e.steps = i :: rest →
      stepFld e.img i 8 2 = h → tableAt s x.id h = some d → boreHeld s x (encClusters s e) = false → arrayFull s e = false →
      encRegion x (domOf s x) e s = .ok e' t → (es.set n e').all encDone = false →
    ∃ w y v, exec (.boreRegionDrained x.id) s = .next (drainAll w) ∧ cmdGet w x.id = some y ∧ y.phase = .executing
      ∧ y.work = .encode (es.set n e') ∧ v.accs = t.accs ∧ v.accSet = t.accSet
      ∧ w.accs = (noteAccs e.img i (encClusters s e) false (e.vecs.map (fun v => { v with parts := matmulParts e.img i d v })) v).accs)
  ∧ (∀ (s t : State) (x : Cmd) (es : List Enc) (n : Nat) (e e' : Enc), cmdGet s x.id = some x → x.phase = .executing →
      x.work = .encode es → nextEnc encWaitsCombine es = some (n, e) → (encClusters s e).any (debugOn s) = false →
      encCombine x e s = .ok e' t → (es.set n e').all encDone = false →
    ∃ w y v, exec (.splitCombine x.id) s = .next (drainAll w) ∧ cmdGet w x.id = some y ∧ y.phase = .executing
      ∧ y.work = .encode (es.set n e') ∧ v.accs = t.accs ∧ v.accSet = t.accSet
      ∧ w.accs = (noteAccs e.img (e.steps.headD 0) (encClusters s e) true e.vecs v).accs)

/-- Element k of packed bytes (R186): bit k mod 8 of byte k / 8 under BIN1; bits [2(k mod 4) + 1 : 2(k mod 4)] of byte k / 4 under INT2;
bits [3:0] of byte k / 2 under INT4 and FP4 when k is even, bits [7:4] when it is odd. -/
def Obligations.ElementPacking : Prop :=
  ∀ (bs : List Byte) (k : Nat),
    elemCode 0 bs k = b2n ((bs.getD (k / 8) 0).getLsbD (k % 8))
    ∧ elemCode 1 bs k = bits (bs.getD (k / 4) 0).toNat (2 * (k % 4) + 1) (2 * (k % 4))
    ∧ (∀ fmt, fmt = 2 ∨ fmt = 3 →
        (k % 2 = 0 → elemCode fmt bs k = bits (bs.getD (k / 2) 0).toNat 3 0) ∧ (k % 2 = 1 → elemCode fmt bs k = bits (bs.getD (k / 2) 0).toNat 7 4))

/-- For BIN1 vectors of length L the product is L − 2d, d the number of bit positions in which the codes differ, and the HAMMING16 drain
writes d (R191). -/
def Obligations.BinaryProduct : Prop :=
  ∀ (L x y : Nat) (a : Acc),
    let dot := ((List.range L).map (fun k => elemTwice 0 (x / 2 ^ k % 2) * elemTwice 0 (y / 2 ^ k % 2) / 4)).foldl (· + ·) (0 : Int)
    dot = (L : Int) - 2 * hamming L x y ∧ (a.value = dot * 2 ^ 26 → drainHamming L a = hamming L x y)

/-- NaN ranks above every number, +∞ included, in both directions of selection (R59): in a smallest-k selection a NaN entry is
returned only when every numeric one is, and in a largest-k selection a numeric entry is returned only when every NaN one is. -/
def Obligations.NanRanksAboveNumbers : Prop :=
  (∀ (a b : Cand), isNan32 a.score = true → isNan32 b.score = false → a.vid < 2 ^ 48 → b.vid < 2 ^ 48 → a.shard < 2 ^ 12 → b.shard < 2 ^ 12 →
      rankLt 2 b a = true ∧ rankLt 2 a b = false ∧ rankLt 1 a b = true ∧ rankLt 1 b a = false)
  ∧ (∀ (l : List Cand) (k : Nat) (a b : Cand), (∀ c ∈ l, c.vid < 2 ^ 48 ∧ c.shard < 2 ^ 12) → isNan32 a.score = true → isNan32 b.score = false →
      (a ∈ (sortBy (rankLt 2) l).take k → b ∈ l → b ∈ (sortBy (rankLt 2) l).take k)
      ∧ (b ∈ (sortBy (rankLt 1) l).take k → a ∈ l → a ∈ (sortBy (rankLt 1) l).take k))

/-- Entries are ranked by the primary key, then vector_id, then shard ID (R58); +0.0 and −0.0 have one primary key, and so have all
NaNs. -/
def Obligations.RankOrder : Prop :=
  (∀ (key : Nat) (a b : Cand), a.vid < 2 ^ 48 → b.vid < 2 ^ 48 → a.shard < 2 ^ 12 → b.shard < 2 ^ 12 →
      (rankLt key a b = true ↔ primary key a < primary key b ∨ (primary key a = primary key b ∧ (a.vid < b.vid ∨ (a.vid = b.vid ∧ a.shard < b.shard)))))
  ∧ (∀ (key : Nat) (a b : Cand), key = 1 ∨ key = 2 → (isNan32 a.score = true → isNan32 b.score = true → primary key a = primary key b)
      ∧ (a.score = 0x8000_0000 → b.score = 0 → primary key a = primary key b))
  ∧ (∀ (a b : Cand), primary 0 a < primary 0 b ↔ a.dist < b.dist)

/-- Entry mutations begin (R229, R272, R273, R275, R276, R278): the source is read and its encode begun under the versions live at
admission; a DELETE or SET_ATTR has nothing to encode; a batch reads its records and its sources, an IMPORT its stream. -/
def Obligations.MutationRows : Prop :=
  (∀ (s u : State) (x : Cmd) (k : Coll) (ds : List BlkData) (bs : List Byte), Begun s x 0x20 → viewOf s x = some k → barred s x = false →
      streamPoison x.id s = none → dataSpans x (bit (cf x 24 1) 0) (cf x 16 8) (srcLen k) = some ds → readVec x k ds 0 s = .ok bs u →
      progLost u (if k.migrating then k.encNext else k.encVersion) = none →
    ∃ w y m, exec (.insert x.id) s = .next (drainAll w) ∧ cmdGet w x.id = some y ∧ y.phase = .executing ∧ y.work = .mutate m
      ∧ m.entries.map (fun e => (e.record, e.src)) = [(recOf (slice x.bytes 32 32), .held bs)]
      ∧ m.version = (if k.migrating then k.encNext else k.encVersion) ∧ m.encNext = k.migrating)
  ∧ (∀ (s u : State) (x : Cmd) (k : Coll) (ds : List BlkData) (bs : List Byte), Begun s x 0x23 → viewOf s x = some k → barred s x = false →
      streamPoison x.id s = none → dataSpans x (bit (cf x 24 1) 0) (cf x 16 8) (srcLen k) = some ds → readVec x k ds 0 s = .ok bs u →
      progLost u (if k.migrating then k.encNext else k.encVersion) = none →
    ∃ w y m, exec (.upsert x.id) s = .next (drainAll w) ∧ cmdGet w x.id = some y ∧ y.phase = .executing ∧ y.work = .mutate m
      ∧ m.entries.map (fun e => (e.record, e.src)) = [(recOf (slice x.bytes 32 32), .held bs)]
      ∧ m.version = (if k.migrating then k.encNext else k.encVersion) ∧ m.encNext = k.migrating)
  ∧ (∀ (s : State) (x : Cmd) (k : Coll), Begun s x 0x22 → viewOf s x = some k → barred s x = false → streamPoison x.id s = none →
    ∃ w y m, exec (.delete x.id) s = .next (drainAll w) ∧ cmdGet w x.id = some y ∧ y.phase = .executing ∧ y.work = .mutate m
      ∧ m.entries.map (fun e => e.record.vid) = [cf x 32 6] ∧ m.enc = [])
  ∧ (∀ (s : State) (x : Cmd) (k : Coll), Begun s x 0x25 → viewOf s x = some k → barred s x = false → streamPoison x.id s = none →
    ∃ w y m, exec (.setAttr x.id) s = .next (drainAll w) ∧ cmdGet w x.id = some y ∧ y.phase = .executing ∧ y.work = .mutate m
      ∧ m.entries.map MutEntry.record = [recOf (slice x.bytes 32 32)] ∧ m.mask = cf x 16 2 ∧ m.enc = [])
  ∧ (∀ (s t u v : State) (x : Cmd) (k : Coll) (ds : List BlkData) (rs : List Byte) (es : List MutEntry), Begun s x 0x21 →
      viewOf s x = some k → barred s x = false → streamPoison x.id s = none →
      dataSpans x true (cf x 16 8) (cf x 40 4 * srcLen k) = some ds → checkStatus x (cf x 40 4) s = .ok () t →
      readBuf x (cf x 24 8) (32 * cf x 40 4) t = .ok rs u → badRecs rs (cf x 24 8) (cf x 40 4) 0 = none →
      readBatch x k ds ((List.range (cf x 40 4)).map (fun j => (j * srcLen k, mutEntry (recOf (slice rs (32 * j) 32)) .lost))) u = .ok es v →
      progLost v (if k.migrating then k.encNext else k.encVersion) = none →
    ∃ w y m, exec (.insertBatch x.id) s = .next (drainAll w) ∧ cmdGet w x.id = some y ∧ y.phase = .executing ∧ y.work = .mutate m
      ∧ m.entries.map (fun e => (e.record, e.src)) = es.map (fun e => (e.record, e.src)) ∧ m.encNext = k.migrating)
  ∧ (∀ (s t u v : State) (x : Cmd) (k : Coll) (ds : List BlkData) (r : Rd) (es : List (Nat × MutEntry)) (fs : List MutEntry),
      Begun s x 0x54 → viewOf s x = some k → barred s x = false → streamPoison x.id s = none → 64 ≤ cf x 24 8 →
      dataSpans x true (cf x 16 8) (cf x 24 8) = some ds → readSpans (whoOf s x) ds s = .ok r t → r.poison = none →
      badStream k (slice r.bytes 0 64) (cf x 24 8) = none →
      streamEntries x k ds (slice r.bytes 0 64) r.bytes (fld (slice r.bytes 0 64) 8 4) 0 = .inr es →
      checkStatus x es.length t = .ok () u → readBatch x k ds es u = .ok fs v →
      progLost v (if k.migrating then k.encNext else k.encVersion) = none →
    ∃ w y m, exec (.importCmd x.id) s = .next (drainAll w) ∧ cmdGet w x.id = some y ∧ y.phase = .executing ∧ y.work = .mutate m
      ∧ m.entries.map (fun e => (e.record, e.src)) = fs.map (fun e => (e.record, e.src)) ∧ m.encNext = k.migrating)

/-- The journal write of a mutation (R48, R274, R275, R276, R280, R281): its record takes the next number; a new entry takes a free slot
and the next place of the side list; the slot that a deletion, an upsert or a set replaces gets its tombstone. -/
def Obligations.JournalWriteRow : Prop :=
  (∀ (s : State) (x : Cmd) (k : Coll) (m : Mut) (e : MutEntry) (slot : Nat) (old : Entry), MutReady s x k m e → cOp x = 0x22 →
      journalFits s (runsBounded s x) 64 = true → liveNow k e.record.vid = some (slot, old) → placesUsed k < 16777216 →
    ∃ w k', exec (.journalWrite x.id) s = .next (drainAll w) ∧ Recorded s w x.id 0x03 (cColl x) 0
      ∧ tget w.colls (cColl x) = some k' ∧ tget k'.tombs slot = some s.bag.nextSeq ∧ tget k'.arr.tombLog slot = some s.bag.nextSeq
      ∧ k'.entries = k.entries ∧ k'.arr.side = k.arr.side ∧ (∀ n, n ≠ slot → tget k'.tombs n = tget k.tombs n))
  ∧ (∀ (s : State) (x : Cmd) (k : Coll) (m : Mut) (e : MutEntry) (slot : Nat), MutReady s x k m e → cOp x = 0x20 ∨ cOp x = 0x23 →
      e.codeOnly = false → journalFits s (runsBounded s x) (recordSize (srcLen k)) = true →
      (e.record.ts = 0xFFFF_FFFF → (stampNow s k).isSome = true) → (cOp x = 0x20 → liveNow k e.record.vid = none) →
      placesUsed k < 16777216 → needsPartition k e.record.tenant = false → freeSlot k = some slot → sideFits s (cColl x) k = true →
    ∃ w k' new, exec (.journalWrite x.id) s = .next (drainAll w)
      ∧ Recorded s w x.id (if cOp x = 0x23 then 0x02 else 0x01) (cColl x) 0
      ∧ tget w.colls (cColl x) = some k' ∧ tget k'.entries slot = some new
      ∧ new.record = { e.record with ts := if e.record.ts = 0xFFFF_FFFF then (stampNow s k).getD 0 else e.record.ts }
      ∧ new.slot = slot ∧ new.src = e.src ∧ new.code = codeOfEntry s x m k e ∧ new.seq = s.bag.nextSeq ∧ new.encNext = m.encNext
      ∧ k'.arr.side = k.arr.side ++ [slot] ∧ (∀ n, n ≠ slot → tget k'.entries n = tget k.entries n)
      ∧ (∀ o, liveNow k e.record.vid = some o → tget k'.tombs o.1 = some s.bag.nextSeq)
      ∧ (liveNow k e.record.vid = none → k'.tombs = k.tombs))
  ∧ (∀ (s : State) (x : Cmd) (k : Coll) (m : Mut) (e : MutEntry) (slot oldSlot : Nat) (old : Entry), MutReady s x k m e → cOp x = 0x25 →
      journalFits s (runsBounded s x) 64 = true → (e.record.ts = 0xFFFF_FFFF → bit m.mask 7 = true → (stampNow s k).isSome = true) →
      liveNow k e.record.vid = some (oldSlot, old) → placesUsed k < 16777216 →
      needsPartition k (mergeRec m.mask old.record e.record).tenant = false → freeSlot k = some slot → sideFits s (cColl x) k = true →
    ∃ w k' new, exec (.journalWrite x.id) s = .next (drainAll w) ∧ Recorded s w x.id 0x04 (cColl x) 0
      ∧ tget w.colls (cColl x) = some k' ∧ tget k'.entries slot = some new
      ∧ new.record = { mergeRec m.mask old.record e.record with
          ts := if e.record.ts = 0xFFFF_FFFF ∧ bit m.mask 7 = true then (stampNow s k).getD 0 else (mergeRec m.mask old.record e.record).ts }
      ∧ new.code = old.code ∧ new.src = old.src ∧ new.encNext = old.encNext ∧ new.seq = s.bag.nextSeq
      ∧ k'.arr.side = k.arr.side ++ [slot] ∧ tget k'.tombs oldSlot = some s.bag.nextSeq)
  ∧ (∀ (s : State) (x : Cmd) (k : Coll) (m : Mut) (e : MutEntry), MutReady s x k m e → cOp x = 0x22 ∨ cOp x = 0x25 →
      journalFits s (runsBounded s x) 64 = true → (cOp x = 0x25 → e.record.ts = 0xFFFF_FFFF → bit m.mask 7 = true → (stampNow s k).isSome = true) →
      liveNow k e.record.vid = none →
    ∃ w k', exec (.journalWrite x.id) s = .next (drainAll w) ∧ Recorded s w x.id (if cOp x = 0x25 then 0x04 else 0x03) (cColl x) 1
      ∧ tget w.colls (cColl x) = some k' ∧ k' = { k with journaled := s.bag.nextSeq })
  ∧ (∀ (s : State) (x : Cmd) (k : Coll) (m : Mut) (e : MutEntry), MutReady s x k m e → cOp x = 0x20 →
      journalFits s (runsBounded s x) (recordSize (srcLen k)) = true → e.codeOnly = false →
      (e.record.ts = 0xFFFF_FFFF → (stampNow s k).isSome = true) → (liveNow k e.record.vid).isSome = true →
    ∃ w, exec (.journalWrite x.id) s = .next (drainAll w) ∧ EndsWith w x.id 0x0404 0 ∧ w.bag = s.bag ∧ w.colls = s.colls)

/-- LOOKUP (R277): an ID that is not live under the horizon completes with NOT_FOUND; a live one has the parts that were asked for
written to the host. -/
def Obligations.LookupRow : Prop :=
  (∀ (s : State) (x : Cmd) (k : Coll), Begun s x 0x24 → viewOf s x = some k → barred s x = false → liveEntry k x.horizon (cf x 32 6) = none →
    ∃ w, exec (.lookup x.id) s = .next (drainAll w) ∧ EndsWith w x.id 0x0001 x.result ∧ w.hostMem = s.hostMem)
  ∧ (∀ (s t u v : State) (x : Cmd) (k : Coll) (slot : Nat) (e : Entry) (bs : List Byte), Begun s x 0x24 → viewOf s x = some k →
      barred s x = false → liveEntry k x.horizon (cf x 32 6) = some (slot, e) →
      poisonAt s k (cColl x) slot ((if bit (cf x 24 1) 0 then [.record] else []) ++ (if bit (cf x 24 1) 1 then [.code] else [])) = none →
      (((tget s.colls (cColl x)).bind (fun k => tget k.entries slot)).map Entry.src).getD e.src = .held bs →
      (if bit (cf x 24 1) 0 then
        writeDev (whoOf s x) (cf x 16 8) (recBytes e.record (slot ∈ k.arr.side) e.encNext ++ List.replicate 32 0) s else .ok () s) = .ok () t →
      (if bit (cf x 24 1) 1 then writeDev (whoOf s x) (cf x 16 8 + 64) (leBytes (k.codeBits / 8) e.code) t else .ok () t) = .ok () u →
      (if bit (cf x 24 1) 2 then writeDev (whoOf s x) (cf x 16 8 + (64 + (k.codeBits / 8 + 63) / 64 * 64)) bs u else .ok () u) = .ok () v →
    ∃ w, exec (.lookup x.id) s = .next (drainAll w) ∧ EndsWith w x.id x.status x.result ∧ w.hostMem = v.hostMem ∧ w.colls = s.colls)

/-- Searches begin (R44, R127, R129, R134, R154, R158, R243, R390, R391): the inputs are read and checked; a flat search and a batch deal
the blocks of the side list and of the partitions their scope names; a graph search seeds a walk from its entry set and deals the side
list; a RERANK has its live candidates in hand; a fan-out sends one sub-query to each shard. -/
def Obligations.SearchRows : Prop :=
  (∀ (s t u v : State) (x : Cmd) (k : Coll) (sr : Search) (f : Option Filter) (listed : List Nat), Begun s x 0x30 → viewOf s x = some k →
      barred s x = false → streamPoison x.id s = none → probeLost s x k = none → probePaused s x k = false →
      readQueries x k (searchInit x k) s = .ok sr t → bellMarked sr.enc = none →
      readFilter x (cf x 32 8) t = .ok f u → (if cf x 62 1 = 1 then readProbes x u else .ok [] u) = .ok listed v →
    let q := if sr.enc.all encDone then withCodes sr else sr
    ∃ w y sr', exec (.searchFlat x.id) s = .next (drainAll w) ∧ cmdGet w x.id = some y ∧ y.phase = .executing ∧ y.work = .search sr'
      ∧ sr'.filter = f ∧ sr'.queries = q.queries ∧ sr'.enc = q.enc
      ∧ (sr.enc.all encDone = true ∨ cf x 62 1 ≠ 2 → sr'.blocks.map Block.slots = (rawBlocks sr.h sr.coll
          (sr.coll.arr.parts.filterMap (fun p => if p.1 ∈ scanKeys x q listed then some p.2 else none))).map Prod.snd))
  ∧ (∀ (s t u v : State) (x : Cmd) (k : Coll) (sr : Search) (f : Option Filter) (listed : List Nat), Begun s x 0x33 → viewOf s x = some k →
      barred s x = false → streamPoison x.id s = none → probeLost s x k = none → probePaused s x k = false →
      readQueries x k (searchInit x k) s = .ok sr t → bellMarked sr.enc = none →
      readFilter x (cf x 32 8) t = .ok f u → (if cf x 62 1 = 1 then readProbes x u else .ok [] u) = .ok listed v →
    let q := if sr.enc.all encDone then withCodes sr else sr
    ∃ w y sr', exec (.searchBatch x.id) s = .next (drainAll w) ∧ cmdGet w x.id = some y ∧ y.phase = .executing ∧ y.work = .search sr'
      ∧ sr'.filter = f ∧ sr'.queries = q.queries ∧ sr'.enc = q.enc
      ∧ (sr.enc.all encDone = true ∨ cf x 62 1 ≠ 2 → sr'.blocks.map Block.slots = (rawBlocks sr.h sr.coll
          (sr.coll.arr.parts.filterMap (fun p => if p.1 ∈ scanKeys x q listed then some p.2 else none))).map Prod.snd))
  ∧ (∀ (s t u : State) (x : Cmd) (k : Coll) (sr : Search) (f : Option Filter), Begun s x 0x31 → viewOf s x = some k → barred s x = false →
      streamPoison x.id s = none → readQueries x k (searchInit x k) s = .ok sr t → bellMarked sr.enc = none → readFilter x (cf x 32 8) t = .ok f u →
    ∃ w y sr' wk, exec (.searchGraph x.id) s = .next (drainAll w) ∧ cmdGet w x.id = some y ∧ y.phase = .executing
      ∧ y.work = .search sr' ∧ sr'.filter = f ∧ sr'.walk = some wk ∧ wk.beam = [] ∧ wk.visited = [] ∧ wk.rounds = 0 ∧ wk.expansions = 0
      ∧ (∀ n, n ∈ wk.cset ↔ n ∈ k.arr.entrySet ∧ (tget k.arr.nodes n).isSome = true) ∧ wk.waiting = wk.cset ∧ (wk.ended = true ↔ wk.cset = [])
      ∧ wk.beamSize = cf x 56 2 ∧ sr'.blocks.map Block.slots = (rawBlocks sr.h k []).map Prod.snd)
  ∧ (∀ (s t u v : State) (x : Cmd) (k : Coll) (q : Query) (ids terms : List Byte), Begun s x 0x34 → viewOf s x = some k → barred s x = false →
      streamPoison x.id s = none → rerankQueries x k s = .ok q t →
      readBuf x (cf x 32 8) (8 * cf x 52 4) t = .ok ids u → badIds ids (cf x 52 4) = none →
      (if cf x 57 1 = 0 then .ok [] u else readBuf x (cf x 40 8) (4 * cf x 52 4) u) = .ok terms v →
    ∃ w y sr, exec (.rerank x.id) s = .next (drainAll w) ∧ cmdGet w x.id = some y ∧ y.phase = .executing ∧ y.work = .rerank sr
      ∧ sr.k = cf x 48 4 ∧ sr.key = cf x 56 1 ∧ sr.examined = cf x 52 4
      ∧ (∃ l, sr.queries = [{ q with merged := some l }] ∧ sr.passed = l.entries.length ∧ l.tail = 0
          ∧ l.entries.map (fun c => (c.vid, c.slot)) = (List.range (cf x 52 4)).filterMap (fun i =>
              (liveEntry k x.horizon (fld ids (8 * i) 6)).map (fun p => (p.2.record.vid, p.1)))))
  ∧ (∀ (s t u v z : State) (x : Cmd) (k : Coll) (params ls fb : List Byte) (ts : List Nat) (f : Fan), Begun s x 0x32 → viewOf s x = some k →
      barred s x = false → streamPoison x.id s = none → readBuf x (cf x 64 8) 128 s = .ok params t →
      badParams t x k params = none →
      let p := sparams (fanCmd x params)
      let n := cf x 72 2
      ((cf x 40 8 ≠ 0) ↔ (p.rerankN ≠ 0 ∧ p.source = false)) →
      readBuf x (cf x 48 8) (16 * n) t = .ok ls u → badShards u ls n 0 = none → fanFilter x u = .ok (fb, ts) v →
      fanQuery x k p { shards := (List.range n).map (shardOf ls), k := p.k, kSel := kSelOf p.k p.rerankN, rerankN := p.rerankN, key := p.key, h := cColl x, cut := false, enc := [], sent := false, sentAt := 0, subUs := 0, params := params, codes := [], rq := [], filter := fb, tset := ts } v = .ok f z → bellMarked f.enc = none →
      shardsDown z f = false → (x.bounded = true → x.deadlineUs ≠ 0 → 0 < subDeadline z x) →
    ∃ w y f', exec (.searchFanout x.id) s = .next (drainAll w) ∧ cmdGet w x.id = some y ∧ y.work = .fan f' ∧ f'.k = p.k
      ∧ f'.shards.map (fun h => (h.peer, h.coll, h.shardId, h.answered)) = (List.range n).map (fun i => (fld ls (16 * i) 2, fld ls (16 * i + 2) 2, fld ls (16 * i + 4) 2, false))
      ∧ f'.sent = f.enc.all encDone
      ∧ (f'.sent = true → f'.enc = [] ∧ f'.sentAt = s.now ∧ f'.shards.map Shard.request = (List.range n).map (fun i => if i = 0 then s.cst.nextRequest else (s.cst.nextRequest + i) % 65536)))

/-- The scan and the merges of a search (R119, R120, R122, R125, R170 to R172, R175, R251, R252): pieces of a block list arrive; a block is
scored; a Reed hands its list over; tower Valves and the home Valve merge; a spill buffer is reduced; the final lists are written. -/
def Obligations.ScanRows : Prop :=
  (∀ (s u : State) (x : Cmd) (w w' : ListWalk) (r : Rd), cmdGet s x.id = some x → x.phase = .executing → x.list = some w → w.done = false →
      readDev (whoOf s x) w.next (16 * pieceEntries w) s = .ok r u → r.poison = none → listPiece r.bytes (pieceEntries w) 0 w = .inr w' →
    ∃ t, exec (.blockListPieceArrival x.id) s = .next (drainAll t) ∧ cmdGet t x.id = some { x with list := some w' })
  ∧ (∀ (s u : State) (x : Cmd) (v w w' : ListWalk) (r : Rd), cmdGet s x.id = some x → x.phase = .executing → x.list = some v → v.done = true →
      x.list2 = some w → w.done = false →
      readDev (whoOf s x) w.next (16 * pieceEntries w) s = .ok r u → r.poison = none → listPiece r.bytes (pieceEntries w) 0 w = .inr w' →
    ∃ t, exec (.blockListPieceArrival x.id) s = .next (drainAll t) ∧ cmdGet t x.id = some { x with list2 := some w' })
  ∧ (∀ (s u : State) (x : Cmd) (w : ListWalk) (r : Rd) (a : Nat), cmdGet s x.id = some x → x.phase = .executing → x.list = some w →
      w.done = false → readDev (whoOf s x) w.next (16 * pieceEntries w) s = .ok r u → r.poison = none →
      listPiece r.bytes (pieceEntries w) 0 w = .inl a →
    ∃ t, exec (.blockListPieceArrival x.id) s = .next (drainAll t) ∧ EndsWith t x.id 0x0102 0)
  ∧ (∀ (s : State) (x : Cmd) (sr : Search) (n : Nat) (b : Block), cmdGet s x.id = some x → x.phase = .executing → x.work = .search sr →
      sr.blocks[n]? = some b → b.scored = false → sr.enc = [] → spillFull sr b = false → reedTaken s x b = false →
      (blockPoison s sr b.slots).filter (dependsOn sr b.slots) = [] →
    let es := b.slots.filterMap (tget sr.coll.entries)
    ∃ t y sr', exec (.scanBlockScored x.id n) s = .next (drainAll t) ∧ cmdGet t x.id = some y ∧ y.phase = .executing ∧ y.work = .search sr'
      ∧ sr'.blocks = sr.blocks.set n { b with scored := true }
      ∧ sr'.examined = sr.examined + (es.filter (presentAt sr)).length
      ∧ sr'.passed = sr.passed + (es.filter (passesAt sr)).length
      ∧ sr'.queries = sr.queries.map (fun q => (es.filter (passesAt sr)).foldl (fun q e => offerEntry sr (shardId s) b.group b.reed e q) q))
  ∧ (∀ (s : State) (x : Cmd) (sr : Search) (n : Nat) (b : Block), cmdGet s x.id = some x → x.phase = .executing → x.work = .search sr →
      sr.blocks[n]? = some b → b.scored = false → sr.enc = [] → spillFull sr b = false → reedTaken s x b = false →
      (blockPoison s sr b.slots).filter (dependsOn sr b.slots) ≠ [] →
    ∃ t, exec (.scanBlockScored x.id n) s = .next (drainAll t) ∧ EndsWith t x.id 0x0401 0)
  ∧ (∀ (s : State) (x : Cmd) (sr : Search) (g r : Nat), cmdGet s x.id = some x → x.phase = .executing → x.work = .search sr →
      (g, r) ∈ blockReeds sr → reedDone sr g r = true → sr.queries.any (fun q => (tget q.handed (g * 64 + r)).isSome) = false →
    ∃ t sr', exec (.localListHandover x.id g r) s = .next t ∧ cmdGet t x.id = some { x with work := .search sr' }
      ∧ sr'.queries.length = sr.queries.length
      ∧ (∀ (i : Nat) (q q' : Query), sr.queries[i]? = some q → sr'.queries[i]? = some q' →
          tget q'.handed (g * 64 + r) = some ((tget q.reeds (g * 64 + r)).getD listEmpty) ∧ tget q'.reeds (g * 64 + r) = none
          ∧ ∀ m, m ≠ g * 64 + r → tget q'.handed m = tget q.handed m ∧ tget q'.reeds m = tget q.reeds m))
  ∧ (∀ (s : State) (x : Cmd) (sr : Search) (t : Nat), cmdGet s x.id = some x → x.phase = .executing → x.vpoison = none →
      x.work = .search sr → t ∈ blockTowers sr → towerHanded sr t = true →
      sr.queries.any (fun q => (tget q.towers t).isSome) = false →
      sr.queries.any (fun q => (tget q.spills t).any (fun b => b.buf.length > sr.kSel)) = false →
    ∃ w y sr', exec (.valveMerge x.id (some t)) s = .next (drainAll w) ∧ cmdGet w x.id = some y ∧ y.phase = .executing
      ∧ y.work = .search sr' ∧ sr'.queries.length = sr.queries.length
      ∧ (∀ (i : Nat) (q q' : Query), sr.queries[i]? = some q → sr'.queries[i]? = some q' →
          tget q'.towers t = some (if passThrough sr then spillList 0 ((tget q.spills t).getD spillEmpty)
            else (mergeLists 0 sr.kSel ((q.handed.filter (fun p => groupTower (p.1 / 64) = t)).map Prod.snd)).1)))
  ∧ (∀ (s : State) (x : Cmd) (sr : Search) (t : Nat), cmdGet s x.id = some x → x.phase = .executing → x.vpoison = none →
      x.work = .search sr → 0 < sr.kSel → sr.queries.any (fun q => (tget q.spills t).any (fun b => b.buf.length > sr.kSel)) = true →
    ∃ w sr', exec (.spillReduction x.id t) s = .next (drainAll w) ∧ cmdGet w x.id = some { x with work := .search sr' }
      ∧ sr'.queries.length = sr.queries.length
      ∧ (∀ (i : Nat) (q q' : Query), sr.queries[i]? = some q → sr'.queries[i]? = some q' →
          tget q'.spills t = (tget q.spills t).map (spillReduce 0 sr.kSel) ∧ (tget q'.spills t).all (fun b => b.buf.length ≤ sr.kSel) = true))
  ∧ (∀ (s : State) (x : Cmd) (sr : Search), cmdGet s x.id = some x → x.phase = .executing → x.vpoison = none →
      x.work = .search sr → homeReady sr = true → sr.queries.all (fun q => q.merged.isSome) = false → mayFinish sr = false →
    ∃ w sr', exec (.valveMerge x.id none) s = .next (drainAll w) ∧ cmdGet w x.id = some { x with work := .search sr' }
      ∧ sr'.queries = sr.queries.map (fun q => { q with merged := some (mergeLists 0 sr.kSel (homeInputs sr q)).1 }))
  ∧ (∀ (s u : State) (x : Cmd) (sr : Search), cmdGet s x.id = some x → x.phase = .executing → x.vpoison = none → x.sub = none →
      x.work = .search sr → homeReady sr = true → sr.queries.all (fun q => q.merged.isSome) = false →
      (sr.rerankN = 0 ∨ sr.cut = true ∧ sr.begun = false ∧ ∀ q ∈ sr.queries, q.scored = false) →
    let qs := sr.queries.map (fun q => ({ q with
      merged := some (mergeLists 0 sr.kSel (homeInputs sr q)).1
      final := some (mergeLists 0 sr.k [(mergeLists 0 sr.kSel (homeInputs sr q)).1]).1 } : Query))
    writeResults x { sr with queries := qs } (sparams x).result 0 qs (endStage x.id 5 (countMerge (serve s x.home) s)) = .ok () u →
    ∃ w, exec (.valveMerge x.id none) s = .next (drainAll w) ∧ w.hostMem = u.hostMem
      ∧ EndsWith w x.id x.status (if cOp x = 0x33 then qs.length else (qs.map (fun q => (q.final.getD listEmpty).entries.length)).foldl (· + ·) 0))
  ∧ (∀ (s u : State) (x : Cmd) (sr : Search), cmdGet s x.id = some x → x.phase = .executing → x.vpoison = none → x.sub = none →
      x.work = .search sr → sr.queries.all (fun q => q.merged.isSome && q.scored) = true → sr.rerankN ≠ 0 →
    let qs := sr.queries.map (fun q => { q with final := some (mergeLists sr.key sr.k [{ q.merged.getD listEmpty with tail := 0 }]).1 })
    writeResults x { sr with queries := qs } (sparams x).result 0 qs
      (endStage x.id 5 (if sr.queries.all (fun q => q.final.isNone) then countMerge (serve s x.home) s else s)) = .ok () u →
    ∃ w, exec (.valveMerge x.id none) s = .next (drainAll w) ∧ w.hostMem = u.hostMem
      ∧ EndsWith w x.id x.status (if cOp x = 0x33 then qs.length else (qs.map (fun q => (q.final.getD listEmpty).entries.length)).foldl (· + ·) 0))
  ∧ (∀ (s u : State) (x : Cmd) (k : Coll) (f : Fan), cmdGet s x.id = some x → x.phase = .executing → x.vpoison = none →
      x.work = .fan f → viewOf s x = some k → (f.sent = true ∨ f.cut = true) → f.shards.all (fun h => h.answered) = true → firstFailure f = none →
    let m := mergeLists 0 f.kSel (fanLists f)
    let l := if fanScored f then (mergeLists f.key f.k [{ m.1 with tail := 0 }]).1 else (mergeLists 0 f.k [m.1]).1
    andThen (if cf x 56 8 = 0 then .ok () s else writeBuf x (cf x 56 8) (fanReport f) s)
      (fun _ s' => writeBuf x (cf x 24 8) (resultBlock (fanHeader k f m.1) (fanScored f) l) s') = .ok () u →
    ∃ w, exec (.valveMerge x.id none) s = .next (drainAll w) ∧ w.hostMem = u.hostMem ∧ EndsWith w x.id x.status l.entries.length)
  ∧ (∀ (s : State) (x : Cmd) (k : Coll) (f : Fan) (i st : Nat), cmdGet s x.id = some x → x.phase = .executing → x.vpoison = none →
      x.work = .fan f → viewOf s x = some k → (f.sent = true ∨ f.cut = true) → f.shards.all (fun h => h.answered) = true →
      firstFailure f = some (i, st) →
    ∃ w, exec (.valveMerge x.id none) s = .next (drainAll w) ∧ EndsWith w x.id st 0)
  ∧ (∀ (s : State) (x : Cmd) (sr : Search), cmdGet s x.id = some x → x.phase = .executing → x.work = .search sr → sr.enc = [] →
      rerankDue sr = true → boreHeld s x [serve s x.home] = false → codePoison s sr.coll sr.h (rerankReads sr) = none →
    ∃ w y, exec (.boreRegionDrained x.id) s = .next (drainAll w) ∧ cmdGet w x.id = some y ∧ y.phase = .executing
      ∧ y.work = .search { sr with queries := sr.queries.map (scoreQuery sr.coll) })
  ∧ (∀ (s : State) (x : Cmd) (sr : Search), cmdGet s x.id = some x → x.phase = .executing → x.work = .rerank sr → boreHeld s x [serve s x.home] = false →
      codePoison s sr.coll sr.h (rerankReads sr) = none →
    ∃ w y sr', exec (.boreRegionDrained x.id) s = .next (drainAll w) ∧ cmdGet w x.id = some y ∧ y.phase = .executing ∧ y.work = .search sr'
      ∧ sr'.queries.length = sr.queries.length
      ∧ (∀ (i : Nat) (q q' : Query), sr.queries[i]? = some q → sr'.queries[i]? = some q' → q'.scored = true
          ∧ q'.merged = q.merged.map (fun l => { l with entries := l.entries.map (scoreTerm sr.coll q (cf x 57 1)) })))

/-- The beam walk (R146, R150 to R153, R163, R165) and the deadline cut (R111, R139, R160, R395): reads of a round arrive, phase A fixes the
nodes to score, phase B commits them; moved contexts issue the round's reads again; a cut keeps what has been scored. -/
def Obligations.WalkRows : Prop :=
  (∀ (s : State) (x : Cmd) (sr : Search) (w : Walk) (q : Query) (qs : List Query) (n : Nat), cmdGet s x.id = some x → x.phase = .executing →
      x.work = .search sr → sr.walk = some w → sr.queries = q :: qs → w.ended = false → sr.enc = [] → n ∈ w.waiting →
      nodePoisonAt s sr.coll sr.h n (nodeWords w.listed) = none → (w.listed = true ∨ w.waiting.filter (· ≠ n) ≠ []) →
    ∃ t, exec (.nodeReadArrival x.id n) s = .next (drainAll t)
      ∧ cmdGet t x.id = some { x with work := .search { sr with walk := some { w with waiting := w.waiting.filter (· ≠ n) } } })
  ∧ (∀ (s : State) (x : Cmd) (sr : Search) (w : Walk) (q : Query) (qs : List Query) (n : Nat), cmdGet s x.id = some x → x.phase = .executing →
      x.work = .search sr → sr.walk = some w → sr.queries = q :: qs → w.ended = false → sr.enc = [] → n ∈ w.waiting →
      nodePoisonAt s sr.coll sr.h n (nodeWords w.listed) = none → w.listed = false → w.waiting.filter (· ≠ n) = [] →
    ∃ t cs, exec (.nodeReadArrival x.id n) s = .next (drainAll t)
      ∧ cmdGet t x.id = some { x with work := .search { sr with walk := some { w with listed := true, cset := cs, waiting := cs.filter (· ∉ w.headsRead) } } }
      ∧ cs = screen sr q w
      ∧ (∀ m ∈ cs, m ∉ w.visited ∧ (tget sr.coll.arr.nodes m).isSome = true ∧ ∃ f ∈ w.front, m ∈ (tget sr.coll.arr.nodes f).getD []))
  ∧ (∀ (s : State) (x : Cmd) (sr : Search) (w : Walk) (q : Query) (qs : List Query) (n : Nat) (p : Poison × DataWord), cmdGet s x.id = some x →
      x.phase = .executing → x.work = .search sr → sr.walk = some w → sr.queries = q :: qs → w.ended = false → sr.enc = [] → n ∈ w.waiting →
      nodePoisonAt s sr.coll sr.h n (nodeWords w.listed) = some p →
    ∃ t, exec (.nodeReadArrival x.id n) s = .next (drainAll t) ∧ EndsWith t x.id 0x0401 0)
  ∧ (∀ (s : State) (x : Cmd) (sr : Search) (w : Walk) (q : Query) (qs : List Query), cmdGet s x.id = some x → x.phase = .executing →
      x.work = .search sr → sr.walk = some w → sr.queries = q :: qs → w.ended = false → sr.enc = [] → w.listed = true → w.waiting = [] → coreTaken s x = false →
    ∃ t y sr' w', exec (.walkRoundCommit x.id) s = .next (drainAll t) ∧ cmdGet t x.id = some y ∧ y.phase = .executing ∧ y.work = .search sr'
      ∧ sr'.walk = some w' ∧ w'.expansions = w.expansions + w.front.length ∧ w'.rounds = (if w.seeding then w.rounds else w.rounds + 1)
      ∧ (∀ n, n ∈ w'.visited ↔ n ∈ w.visited ∨ n ∈ w.cset) ∧ (w.beam.length ≤ w.beamSize → w'.beam.length ≤ w.beamSize)
      ∧ (∀ b ∈ w'.beam, b.cand.slot ∈ w.front → b.expanded = true)
      ∧ (w'.ended = false → w'.front = nextFront w' ∧ w'.front ≠ [] ∧ w'.waiting = w'.front ∧ w'.listed = false)
      ∧ (w'.ended = true → w'.waiting = [] ∧ (w.maxRounds = 0 → nextFront w' = [])))
  ∧ (∀ (s : State) (x : Cmd) (sr : Search), cmdGet s x.id = some x → x.phase = .executing → isSearch x = true → cCut x = true →
      x.deadlineUs ≠ 0 → x.work = .search sr → sr.cut = false →
      cutDue s x (cutLead s x sr.k sr.kSel sr.rerankN sr.queries.length) = true →
    ∃ t y, exec (.deadlineCut x.id) s = .next (drainAll t) ∧ cmdGet t x.id = some y ∧ y.phase = .executing ∧ y.work = .search (cutSearch sr)
      ∧ (sr.walk.isSome = true → y.charges = [] ∧ ∀ p ∈ t.contexts, p.2 ≠ x.id))
  ∧ (∀ (s : State) (x : Cmd) (f : Fan), cmdGet s x.id = some x → x.phase = .executing → isSearch x = true → cCut x = true →
      x.deadlineUs ≠ 0 → x.work = .fan f → f.cut = false → cutDue s x (cutLead s x f.k f.kSel f.rerankN 1) = true →
    ∃ t, exec (.deadlineCut x.id) s = .next (drainAll t) ∧ cmdGet t x.id = some { x with work := .fan (fanCut f) })
  ∧ (∀ (s : State) (x : Cmd) (k : Coll), cmdGet s x.id = some x → x.phase = .executing → isSearch x = true → cCut x = true →
      x.deadlineUs ≠ 0 → x.work = .none → viewOf s x = some k → cOp x ≠ 0x32 →
      cutDue s x (cutLead s x (sparams x).k (kSelOf (sparams x).k (sparams x).rerankN) (sparams x).rerankN (sparams x).count) = true →
    ∃ t y sr, exec (.deadlineCut x.id) s = .next (drainAll t) ∧ cmdGet t x.id = some y ∧ y.phase = .executing ∧ y.work = .search sr
      ∧ sr.cut = true ∧ sr.blocks = [] ∧ sr.walk = none ∧ sr.examined = 0)
  ∧ (∀ (s t : State) (x : Cmd) (k : Coll) (g : Fan), cmdGet s x.id = some x → x.phase = .executing → isSearch x = true →
      cCut x = true → x.deadlineUs ≠ 0 → x.work = .none → viewOf s x = some k → cOp x = 0x32 → cutDue s x (cutLead s x 0 0 0 1) = true →
      fanInputs x k s = .ok g t →
    ∃ w y, exec (.deadlineCut x.id) s = .next (drainAll w) ∧ cmdGet w x.id = some y ∧ y.phase = .executing ∧ y.work = .fan (fanCut g))
  ∧ (∀ (s : State) (a b : Nat), a < 128 → b < 128 → a ≠ b → a / 32 = b / 32 → coreHeld s a ≠ 0 → coreHeld s b < 480 →
      coreAway s a = true → coreAway s b = false →
    let moved := ((s.contexts.filter (fun p => p.1 = a)).map Prod.snd).take (480 - coreHeld s b)
    ∃ t, exec (.contextMoved a b) s = .next (drainAll t)
      ∧ t.contexts = s.contexts.map (fun p => if p.1 = a ∧ p.2 ∈ moved then (b, p.2) else p)
      ∧ (∀ (c : Nat) (x : Cmd), cmdGet s c = some x → cmdGet t c = some (if x.id ∈ moved then moveCmd a b x else x)))

/-- Drone starts its operations (R285, R286, R294, R295, R299, R302, R342): a fold at side_hw, at age_ms or for a CONSOLIDATE; a compaction
of a partition or for a CONSOLIDATE; a re-encode step, a repartition, a placement move, a build. -/
def Obligations.DroneStarts : Prop :=
  (∀ (s : State) (h : Nat) (c : Coll), tget s.colls h = some c → mayRun s c = true → c.building = false → consolidating s h 0 = none →
      placesUsed c ≥ c.sideHw → somethingToFold c = true →
    ∃ t, exec (.foldStart h) s = .next (drainAll t) ∧ Started s t h .fold none none none)
  ∧ (∀ (s : State) (h : Nat) (c : Coll) (x : Cmd), tget s.colls h = some c → mayRun s c = true → c.building = false →
      consolidating s h 0 = some x → somethingToFold c = true →
    ∃ t, exec (.foldStart h) s = .next (drainAll t) ∧ Started s t h .fold none none (some x.id))
  ∧ (∀ (s : State) (h : Nat) (c : Coll), tget s.colls h = some c → mayRun s c = true → c.building = false → aged s c = true →
      somethingToFold c = true →
    ∃ t, exec (.foldAgeExpiry h) s = .next (drainAll t) ∧ Started s t h .fold none none none)
  ∧ (∀ (s : State) (h key : Nat) (c : Coll), tget s.colls h = some c → mayRun s c = true → c.building = false → consolidating s h 1 = none →
      compactTombs c.posted (some key) c ≠ [] →
      (compactTombs c.posted (some key) c).length * 1000 ≥ c.tombPm * (partSlots c key).length →
    ∃ t, exec (.compactionTrigger h key) s = .next (drainAll t) ∧ Started s t h .compaction (some key) none none)
  ∧ (∀ (s : State) (h key : Nat) (c : Coll) (x : Cmd), tget s.colls h = some c → mayRun s c = true → c.building = false →
      consolidating s h 1 = some x → compactTombs c.posted none c ≠ [] →
    ∃ t, exec (.compactionTrigger h key) s = .next (drainAll t) ∧ Started s t h .compaction none none (some x.id))
  ∧ (∀ (s : State) (h : Nat) (c : Coll), tget s.colls h = some c → mayRun s c = true → c.migrating = true → recodeSlots c.posted c ≠ [] →
    ∃ t, exec (.reencodeStep h) s = .next (drainAll t) ∧ Started s t h .reencodeStep none none none)
  ∧ (∀ (s : State) (h : Nat) (c : Coll), tget s.colls h = some c → mayRun s c = true → c.building = false → hasParts c = true →
      c.partMode = 1 → (currentCentroids s c).2 ≠ c.centroidGen →
    ∃ t, exec (.repartition h) s = .next (drainAll t) ∧ Started s t h .repartition none none none)
  ∧ (∀ (s : State) (h : Nat) (c : Coll) (m : Move) (ms : List Move), tget s.colls h = some c → mayRun s c = true → c.building = false →
      hasParts c = true → (c.partMode = 1 → (currentCentroids s c).2 = c.centroidGen) → c.moves = m :: ms →
      (tget c.arr.parts m.key).any (fun p => p.bulk ≠ m.toBulk) = true →
    ∃ t, exec (.repartition h) s = .next (drainAll t) ∧ Started s t h .repartition none (some m) none
      ∧ (tget t.colls h).map Coll.moves = some ms)
  ∧ (∀ (s : State) (h : Nat) (c : Coll), tget s.colls h = some c → mayRun s c = true → c.building = true →
    ∃ t, exec (.indexBuild h) s = .next (drainAll t) ∧ Started s t h .build none none none)

/-- Drone's commits (R49, R283, R287, R289, R292, R296, R301, R339, R341): an operation commits what it arranges, with its record and its
barrier, or stalls for want of space; a settlement is a commit without a rewrite; a migration ends; slots are released; the patch area is
applied; AUTO evaluation halves the heat and adds the scans. -/
def Obligations.DroneCommits : Prop :=
  (∀ (s : State) (h : Nat) (c : Coll) (o : DroneRun) (r : Arranged), tget s.colls h = some c → c.run = some o → droneWorks s = true →
      journalFits s ((o.by_.bind (cmdGet s)).any Cmd.bounded) 128 = true → (∀ p ∈ s.poison, p.coll ≠ h) →
      arrange s (opCode o.op) o.cut o.key o.move c = some r → patchOverflow c r = false →
    ∃ t, exec (.foldCommit h) s = .next (drainAll t) ∧ Committed s t h (opCode o.op) o.cut o.key o.move r
      ∧ (∀ (n : Nat) (x : Cmd), o.by_ = some n → cmdGet s n = some x → x.id = n →
          cmdGet t n = some { x with epoch := r.coll.viewEpoch + 1, jseq := s.bag.nextSeq, journaled := true, work := .wait 1 s.chn.nextBarrier }))
  ∧ (∀ (s : State) (h : Nat) (c : Coll) (o : DroneRun), tget s.colls h = some c → c.run = some o → droneWorks s = true →
      journalFits s ((o.by_.bind (cmdGet s)).any Cmd.bounded) 128 = true → (∀ p ∈ s.poison, p.coll ≠ h) →
      arrange s (opCode o.op) o.cut o.key o.move c = none →
    ∃ t, exec (.foldCommit h) s = .next (drainAll t) ∧ tget t.colls h = some { c with run := none }
      ∧ (∀ (n : Nat) (x : Cmd), o.by_ = some n → cmdGet s n = some x → EndsWith t n 0x0204 0))
  ∧ (∀ (s : State) (h : Nat) (c : Coll), tget s.colls h = some c → s.chn.stage = 6 → s.chn.quiesced = false → s.chn.losing = false →
      s.chn.mode ≠ .off → c.run = none → c.dropping = false → foldTombs c.posted c ≠ [] → journalFits s false 128 = true →
    ∃ t, exec (.tombstoneSettlement h) s = .next (drainAll t)
      ∧ Committed s t h 7 c.posted none none { coll := { c with arr := { c.arr with tombLog := c.arr.tombLog.filter (fun x => x.2 > c.posted) } } })
  ∧ (∀ (s : State) (h : Nat) (c : Coll), tget s.colls h = some c → mayRun s c = true → c.migrating = true → oldEntries c = [] →
      writesOld s h = false → journalFits s false 128 = true →
    ∃ t k, exec (.reencodeDone h) s = .next (drainAll t) ∧ tget t.colls h = some k ∧ k.encVersion = c.encNext ∧ k.encNext = 0xFFFF
      ∧ k.migrating = false ∧ k.viewEpoch = c.viewEpoch + 1 ∧ (∀ n e, tget k.entries n = some e → e.encNext = false)
      ∧ (∃ q, t.bag.recs = s.bag.recs ++ [q] ∧ q.type = 0x11 ∧ q.coll = h ∧ q.body = .reencode c.encNext true)
      ∧ t.chn.barriers = s.chn.barriers ++ [{ no := s.chn.nextBarrier, table := false, on := h, began := s.now }])
  ∧ (∀ (s : State) (h : Nat) (c : Coll) (r : Release) (rs : List Release), tget s.colls h = some c → c.releases = r :: rs →
      searchedBelow s h r.epoch = false → s.chn.stage = 6 → s.chn.losing = false → journalFits s false 128 = true →
    ∃ t k, exec (.slotRelease h) s = .next (drainAll t) ∧ tget t.colls h = some k
      ∧ (∀ n, tget k.entries n = if n ∈ r.slots then none else tget c.entries n)
      ∧ (∀ n, tget k.tombs n = if n ∈ r.slots then none else tget c.tombs n)
      ∧ (∃ q, t.bag.recs = s.bag.recs ++ [q] ∧ q.type = 0x20 ∧ q.coll = h ∧ q.body = .release r.commitSeq))
  ∧ (∀ (s : State) (h : Nat) (c : Coll), tget s.colls h = some c → searchedBelow s h c.viewEpoch = false →
    ∃ t, exec (.patchApply h) s = .next t ∧ tget t.colls h = some { c with patches := [] } ∧ (∀ g, g ≠ h → tget t.colls g = tget s.colls g))
  ∧ (∀ (s : State), droneWorks s = true →
    ∃ t, exec .autoEvaluation s = .next (drainAll t)
      ∧ (∀ (h n : Nat) (c : Coll) (p : Part), tget s.colls h = some c → c.placement = 2 → tget c.arr.parts n = some p →
          ∃ k, tget t.colls h = some k ∧ tget k.arr.parts n = some { p with heat := p.heat / 2 + p.scans, scans := 0 })
      ∧ (∀ (h : Nat) (c : Coll), tget s.colls h = some c → ∃ k, tget t.colls h = some k ∧ k.entries = c.entries ∧ k.arr.side = c.arr.side))

/-- Slide (R247, R249, R257 to R259, R262, R267, R268, R271): an issue decision picks one ring and charges its class; a transfer lands or a
write is accepted; a bucket gains tokens up to its burst; the watchdog ends the youngest member of a deadlock; a wait of 1 ms ends with
NO_CONTEXT. -/
def Obligations.SlideRows : Prop :=
  (∀ (s : State) (e port addr n b : Nat) (r : SRing), e < 32 → tagsHeld s e < 4096 → r ∈ s.srings.map (ringNow s) →
      canIssue s e port r = true →
      (∀ q ∈ s.srings.map (ringNow s), canIssue s e port q = true → q ≠ r →
        pickBefore (fun z => mntBehind s e port || stepHigh s z) r q = true) →
      b = min (min n (if r.isWrite then ringDue r else min r.toAsk (ringSpace r))) (largest port addr r.isWrite) → b ≠ 0 →
      targetRoom s port r.cls addr b = true →
    ∃ t g, exec (.slideIssue e port addr n) s = .next t
      ∧ t.srings = s.srings.map (fun q => if q.engine = e ∧ q.no = r.no then
          { q with flight := q.flight ++ [(b, addr)], toAsk := if q.isWrite then q.toAsk else q.toAsk - b } else q)
      ∧ tget t.engines e = some g
      ∧ g.unbTokens = (engineOf s e).unbTokens - (if r.cls = 1 ∧ unbFree s e = false then 10 * charge port addr b r.isWrite else 0 : Nat)
      ∧ g.mntTokens = (engineOf s e).mntTokens - (if r.cls = 2 then 10 * charge port addr b r.isWrite else 0 : Nat))
  ∧ (∀ (s : State) (e no slot n : Nat) (poison : Bool), e < 32 →
    ∃ t, exec (.transferLanded e no slot n poison) s = .next t ∧ t.cmds = s.cmds
      ∧ ∀ (i : Nat) (q : SRing), s.srings[i]? = some q → ∃ q', t.srings[i]? = some q'
        ∧ (¬(q.engine = e ∧ q.no = no) → q' = q)
        ∧ (∀ f, q.engine = e → q.no = no → q.flight.find? (fun f => f.1 = n) = some f → q.slots ≠ 0 →
            q'.flight = q.flight.erase f
            ∧ (q.isWrite = true → (tget q.landed 0).getD 0 + n < 2 ^ q.slotLog2 →
                q'.head = q.head ∧ tget q'.landed 0 = some ((tget q.landed 0).getD 0 + n))
            ∧ (q.isWrite = true → 2 ^ q.slotLog2 ≤ (tget q.landed 0).getD 0 + n → (tget q.landed 0).getD 0 + n < 2 * 2 ^ q.slotLog2 →
                0 < ringFilled q → q'.head = (q.head + 1) % (2 * q.slots) ∧ q'.moved = s.now)
            ∧ (q.isWrite = false → poison = true → n ≠ 0 → (tget q.landed (slot % q.slots)).getD 0 < 2 ^ q.slotLog2 →
                ∃ p ∈ q'.poisoned, p.1 = slot % q.slots)))
  ∧ (∀ (s : State) (ps : List (Nat × Nat)) (x : Cmd) (r : SRing), isDeadlock s ps = true → youngest s (ps.filterMap (sringOf s)) = some x →
      (ps.filterMap (sringOf s)).find? (fun r => r.cmd = some x.id) = some r → cmdGet s x.id = some x →
    ∃ t y, exec (.streamDeadlock ps) s = .next (drainAll t) ∧ EndsWith t x.id 0x0503 (leading x)
      ∧ cmdGet t x.id = some y ∧ y.isPartial = decide (leading x ≠ 0) ∧ (∀ q ∈ t.srings, q.cmd ≠ some x.id))
  ∧ (∀ (s : State) (ps : List (Nat × Nat)) (r : SRing) (rs : List SRing), isDeadlock s ps = true →
      youngest s (ps.filterMap (sringOf s)) = none →
      sortBy (fun a b => a.accepted > b.accepted) ((ps.filterMap (sringOf s)).filter (fun r => r.cmd.isNone)) = r :: rs →
    ∃ t, exec (.streamDeadlock ps) s = .next (drainAll t) ∧ t.cmds = s.cmds
      ∧ t.srings = s.srings.filter (fun q => !(q.engine = r.engine ∧ q.no = r.no))
      ∧ t.colls = s.colls.map (fun p => if r.step = some p.1 then (p.1, { p.2 with run := none }) else p))
  ∧ (∀ (s : State) (x : Cmd) (since : Nat), cmdGet s x.id = some x → x.work = .wait 8 since → x.phase = .waiting → x.bounded = false →
      s.now ≥ since + 1000000 →
    ∃ t, exec (.resourceWaitTimeout x.id) s = .next t ∧ EndsWith t x.id 0x0201 0)
  ∧ (∀ (s : State) (e ns : Nat), e < 32 → unbFree s e = false →
    ∃ t g, exec (.slideBucketFill e false ns) s = .next t ∧ tget t.engines e = some g ∧ g.mntTokens = (engineOf s e).mntTokens
      ∧ g.unbAt = s.now
      ∧ g.unbTokens = min ((max 16 (bits (regGet s (reg .sld e 0x118)).toNat 47 32) * 10240 : Nat) : Int)
          ((engineOf s e).unbTokens + (max 1 (bits (regGet s (reg .sld e 0x118)).toNat 15 0) * (s.now - (engineOf s e).unbAt + ns) : Nat)))
  ∧ (∀ (s : State) (e ns : Nat), e < 32 → unbFree s e = true →
    ∃ t g, exec (.slideBucketFill e false ns) s = .next t ∧ tget t.engines e = some g ∧ g.mntTokens = (engineOf s e).mntTokens
      ∧ g.unbTokens = (max 16 (bits (regGet s (reg .sld e 0x118)).toNat 47 32) * 10240 : Nat))
  ∧ (∀ (s : State) (e ns : Nat), e < 32 →
    ∃ t g, exec (.slideBucketFill e true ns) s = .next t ∧ tget t.engines e = some g ∧ g.unbTokens = (engineOf s e).unbTokens
      ∧ g.mntAt = s.now
      ∧ g.mntTokens = min ((max 16 (bits (regGet s (reg .sld e 0x120)).toNat 47 32) * 10240 : Nat) : Int)
          ((engineOf s e).mntTokens + (bits (regGet s (reg .sld e 0x120)).toNat 15 0 * (s.now - (engineOf s e).mntAt + ns) : Nat)))

/-- Errors of the tiers, tables and collection data (R349, R351, R352, R427 to R432): an uncorrectable read poisons its word and marks its
row; a repaired row is no longer marked; a table is paused and resumed; a poisoned word is rebuilt, or what it held is lost. -/
def Obligations.TierRows : Prop :=
  (∀ (s : State) (tier chan addr : Nat) (byScrub : Bool), tier ≤ 2 → chan < tierUnits tier →
    ∃ t, exec (.tierUe tier chan addr byScrub none) s = .next (drainAll t) ∧ (tier = 2 ∨ (tier, chan, Config.rowStart tier addr) ∈ s.rowsMarked → t.cmds = s.cmds)
      ∧ (tier ≤ 1 → (tier, chan, Config.rowStart tier addr) ∈ t.rowsMarked)
      ∧ (∀ p, tier ≤ 1 → collWord s tier chan addr = some p → p ∈ t.poison) ∧ (∀ p ∈ s.poison, p ∈ t.poison))
  ∧ (∀ (s : State) (tier chan addr : Nat) (byScrub : Bool) (x : Cmd) (p : Poison), tier ≤ 1 → chan < tierUnits tier →
      cmdGet s x.id = some x → x.phase = .executing → cOp x = 0x24 ∨ cOp x = 0x53 ∨ cOp x = 0x34 → collWord s tier chan addr = some p →
      (∀ y ∈ s.cmds, y.id = x.id → y = x) → (∀ n, x.work ≠ .wait 4 n) →
    ∃ t, exec (.tierUe tier chan addr byScrub (some x.id)) s = .next (drainAll t) ∧ EndsWith t x.id 0x0401 0)
  ∧ (∀ (s : State) (tier chan row corrected pct : Nat), tier ≤ 1 → chan < tierUnits tier →
    ∃ t, exec (.tierScrub tier chan row corrected pct true) s = .next (drainAll t) ∧ (tier, chan, Config.rowStart tier row) ∈ t.rowsMarked
      ∧ t.poison = s.poison)
  ∧ (∀ (s : State) (tier chan row corrected pct : Nat), tier ≤ 1 → chan < tierUnits tier → 4 ≤ corrected →
    ∃ t, exec (.tierScrub tier chan row corrected pct false) s = .next (drainAll t) ∧ (tier, chan, Config.rowStart tier row) ∈ t.rowsMarked)
  ∧ (∀ (s : State) (tier chan addr : Nat), (tier, chan, addr) ∈ s.rowsMarked → rowsLeft s tier chan ≠ 0 →
    ∃ t, exec (.rowRepaired tier chan addr) s = .next (drainAll t) ∧ t.rowsMarked = s.rowsMarked.filter (· ≠ (tier, chan, addr))
      ∧ t.poison = s.poison ∧ t.colls = s.colls)
  ∧ (∀ (s : State) (h cluster byte : Nat) (b : Tbl), cluster < 32 → tget s.tables h = some b → b.current.isSome = true → b.paused = false →
    ∃ t k, exec (.tablePaused h cluster byte) s = .next (drainAll t) ∧ tget t.tables h = some k ∧ k.paused = true ∧ k.current = b.current
      ∧ (∀ g, g ≠ h → tget t.tables g = tget s.tables g))
  ∧ (∀ (s : State) (h : Nat) (fromBag : Bool) (b : Tbl), tget s.tables h = some b → b.paused = true → b.lost = none →
    ∃ t, exec (.tableResumed h fromBag none) s = .next (drainAll t) ∧ tget t.tables h = some { b with paused := false, failed := 0 }
      ∧ t.chn.epoch = s.chn.epoch + 1)
  ∧ (∀ (s : State) (h a : Nat) (fromBag : Bool) (b : Tbl), tget s.tables h = some b → b.paused = true → b.lost = none →
    ∃ t, exec (.tableResumed h fromBag (some a)) s = .next (drainAll t) ∧ tget t.tables h = some { b with lost := some a })
  ∧ (∀ (s : State) (h slot addr media : Nat) (w : DataWord) (p : Poison) (c : Coll),
      s.poison.find? (fun p => p.coll = h ∧ p.slot = slot ∧ p.word = w ∧ p.addr = addr) = some p → tget s.colls h = some c →
      bagWorks s = true → journalFits s false 4096 = true →
    ∃ t, exec (.dataRepaired h slot w addr media true) s = .next (drainAll t) ∧ t.poison = s.poison.filter (· ≠ p) ∧ t.colls = s.colls)
  ∧ (∀ (s : State) (h slot addr media : Nat) (w : DataWord) (p : Poison) (c : Coll) (e : Entry), (w = .code ∨ w = .record) →
      s.poison.find? (fun p => p.coll = h ∧ p.slot = slot ∧ p.word = w ∧ p.addr = addr) = some p → tget s.colls h = some c →
      bagWorks s = true → journalFits s false 4096 = true → tget c.entries slot = some e → tget c.tombs slot = none →
    ∃ t k q rest, exec (.dataRepaired h slot w addr media false) s = .next (drainAll t) ∧ tget t.colls h = some k ∧ k.incomplete = true
      ∧ tget k.tombs slot = some s.bag.nextSeq ∧ k.entries = c.entries ∧ t.poison = s.poison
      ∧ t.bag.recs = s.bag.recs ++ q :: rest ∧ q.type = 0x03 ∧ q.coll = h ∧ q.seq = s.bag.nextSeq)

/-- Units (R212 to R214, R404, R419, R420, R437, R438, R440, R442): retirement, a column spared, an accumulator's parity error, self-test,
sleep, waking and return, and the save of the map. -/
def Obligations.UnitRows : Prop :=
  (∀ (s : State) (u : UnitId) (cause : Nat), u.kind ≠ 1 → unitKnown u = true → unitGone s u = false →
    ∃ t, exec (.unitRetired u cause) s = .next (drainAll t) ∧ Retired s t u (physicalOf s u.kind u.logical) cause)
  ∧ (∀ (s : State) (u : UnitId), u.kind ≠ 1 → unitKnown u = true → unitGone s u = false →
    ∃ t, exec (.unitHang u) s = .next (drainAll t) ∧ Retired s t u (physicalOf s u.kind u.logical) 3)
  ∧ (∀ (s : State) (cl tile col cause : Nat), cl < 32 → tile < 16 → col ≤ 64 → unitGone s { kind := 2, logical := cl } = false →
      unitGone s { kind := 1, logical := (cl * 16 + tile) * 128 + col } = false → sparesLeft s 1 (cl * 16 + tile) ≠ 0 →
    ∃ t, exec (.columnSpared cl tile col cause) s = .next (drainAll t)
      ∧ Retired s t { kind := 1, logical := (cl * 16 + tile) * 128 + col } col cause)
  ∧ (∀ (s : State) (cl tile col cause : Nat), cl < 32 → tile < 16 → unitGone s { kind := 2, logical := cl } = false →
      sparesLeft s 1 (cl * 16 + tile) = 0 →
    ∃ t, exec (.columnSpared cl tile col cause) s = .next (drainAll t) ∧ Retired s t { kind := 2, logical := cl } (physicalOf s 2 cl) 10)
  ∧ (∀ (s : State) (cl row col : Nat), cl < 32 → row < 256 → col < 256 → cl * 65536 + row * 256 + col ∉ s.parityCells →
      s.unitCorrected = [] →
    ∃ t, exec (.accParityError cl row col) s = .next (drainAll t) ∧ cl * 65536 + row * 256 + col ∈ t.parityCells ∧ t.chn.map = s.chn.map
      ∧ t.cmds = s.cmds)
  ∧ (∀ (s : State) (cl row col : Nat), cl < 32 → row < 256 → col < 256 → cl * 65536 + row * 256 + col ∈ s.parityCells →
    ∃ t, exec (.accParityError cl row col) s = .next (drainAll t) ∧ cl * 65536 + row * 256 + col ∉ t.parityCells)
  ∧ (∀ (s : State) (u : UnitId), u.kind = 2 ∨ u.kind = 3 ∨ u.kind = 4 → unitKnown u = true → unitGone s u = false → u ∉ s.chn.returning →
    ∃ t, exec (.unitSelfTest u true) s = .next (drainAll t) ∧ t.chn.returning = s.chn.returning ++ [u] ∧ u ∉ t.blw.asleep
      ∧ (u.kind = 2 → ∀ p ∈ clusterPages u.logical, tget t.service p = some 2))
  ∧ (∀ (s : State) (u : UnitId), u.kind = 2 ∨ u.kind = 3 ∨ u.kind = 4 → unitKnown u = true → unitGone s u = false → u ∉ s.chn.returning →
    ∃ t, exec (.unitSelfTest u false) s = .next (drainAll t) ∧ Retired s t u (physicalOf s u.kind u.logical) 9)
  ∧ (∀ (s : State) (n : Nat), n < 32 → sleepOn s = true → unitGone s { kind := 2, logical := n } = false →
      { kind := 2, logical := n } ∉ s.blw.asleep → { kind := 2, logical := n } ∉ s.chn.returning → tget s.service (sldPage n) = none →
      clusterIdle s n = true → minAwake s < (awakeClusters s (n / 8)).length → slicesElsewhere s n = true →
    ∃ t, exec (.unitSleep { kind := 2, logical := n }) s = .next t ∧ t.blw.asleep = s.blw.asleep ++ [{ kind := 2, logical := n }]
      ∧ (∀ p ∈ clusterPages n, tget t.service p = some 1) ∧ ∀ p ∈ t.accs, ¬(n * 2 ^ 17 ≤ p.1 ∧ p.1 < n * 2 ^ 17 + 2 ^ 17))
  ∧ (∀ (s : State) (k : Nat), k < 128 → sleepOn s = true → unitGone s { kind := 4, logical := k } = false →
      { kind := 4, logical := k } ∉ s.blw.asleep → { kind := 4, logical := k } ∉ s.chn.returning → coreHeld s k = 0 → coreIn s k = true →
      8 < (awakeCores s (k / 32)).length →
    exec (.unitSleep { kind := 4, logical := k }) s = .next { s with blw := { s.blw with asleep := s.blw.asleep ++ [{ kind := 4, logical := k }] } })
  ∧ (∀ (s : State) (u : UnitId), u ∈ s.blw.asleep →
    ∃ t, exec (.unitWake u) s = .next t ∧ u ∉ t.blw.asleep ∧ t.chn.returning = s.chn.returning ++ [u] ∧ t.service = s.service ∧ t.cmds = s.cmds)
  ∧ (∀ (s : State) (n : Nat), { kind := 2, logical := n } ∈ s.chn.returning →
    ∃ t, exec (.unitReturn { kind := 2, logical := n }) s = .next t ∧ { kind := 2, logical := n } ∉ t.chn.returning
      ∧ (∀ p ∈ clusterPages n, tget t.service p = none) ∧ ∀ p ∈ t.accs, ¬(n * 2 ^ 17 ≤ p.1 ∧ p.1 < n * 2 ^ 17 + 2 ^ 17))
  ∧ (∀ (s : State), s.chn.mapPending = true →
    ∃ t r, exec (.mapSaveDone true) s = .next t ∧ t.chn.mapSaved = some r ∧ r.seq = s.chn.mapSeq + 1 ∧ r.entries = s.chn.map
      ∧ r.causes = s.chn.causes ∧ t.chn.mapSeq = s.chn.mapSeq + 1 ∧ t.chn.mapBankB = !s.chn.mapBankB ∧ t.chn.mapOther = s.chn.mapSaved
      ∧ t.chn.mapPending = false)
  ∧ (∀ (s : State), s.chn.mapPending = true →
    ∃ t, exec (.mapSaveDone false) s = .next t ∧ t.chn = s.chn ∧ (regGet t (pageReg (blkPage .chn 0) 0x020)).getLsbD 1 = true)

/-- Bellows's regulation (R410 to R414, R424): a sample moves a rail by at most 5 mV toward its target; a window shows whether the floor
was held; a floor is lost and restored; wear of 4 % is reported and of 7 % retires the unit; a failing phase is spared; the floor and the
guard band are written. -/
def Obligations.FloorRows : Prop :=
  (∀ (s : State) (r slow temp : Nat) (ofs : Int), r < 5 → s.chn.stage ≠ 0 → r < s.blw.rails.length →
    ∃ u v, u = { s with blw := { s.blw with slowest := s.blw.slowest.set r (min slow 65535), sense := s.blw.sense.set r ((temp : Int), ofs) } }
      ∧ exec (.monitorSample r slow temp ofs) s = .next { u with blw := { u.blw with rails := u.blw.rails.set r v } }
      ∧ v ≤ s.blw.rails.getD r 0 + 2 ∧ s.blw.rails.getD r 0 ≤ v + 2
      ∧ (railTarget u r ≤ s.blw.rails.getD r 0 + 2 → s.blw.rails.getD r 0 ≤ railTarget u r + 2 → v = railTarget u r))
  ∧ (∀ (s : State) (counts : List Nat), (∀ r < 5, keptMax s s.blw.floorReg s.blw.oldFloors * 100 ≤ counts.getD r 0) →
    exec (.floorWindow counts) s = .next (regField (reg .blw 0 0x140) 0 0 1 s))
  ∧ (∀ (s : State) (counts : List Nat) (r : Nat), r < 5 → counts.getD r 0 < keptMax s s.blw.floorReg s.blw.oldFloors * 100 →
    ∃ t, exec (.floorWindow counts) s = .next t ∧ t.blw = { s.blw with notHeld := s.blw.notHeld + 1 }
      ∧ t.cmds = s.cmds.map (fun x => if x.bounded && x.phase ≠ .waiting then { x with floorMiss := true } else x))
  ∧ (∀ (s : State) (r best : Nat), r < 5 → r ∉ s.blw.floorLost →
    ∃ t, exec (.floorLost r best) s = .next (drainAll t) ∧ (∀ q, q ∈ t.blw.floorLost ↔ q = r ∨ q ∈ s.blw.floorLost) ∧ Raised s t 0x0100 2)
  ∧ (∀ (s : State) (r : Nat), r ∈ s.blw.floorLost →
    ∃ t, exec (.floorRestored r) s = .next (drainAll t) ∧ t.blw.floorLost = s.blw.floorLost.filter (· ≠ r) ∧ Raised s t 0x0101 0)
  ∧ (∀ (s : State) (u : UnitId) (slow : Nat), paceRow u.kind ≠ 0 → unitKnown u = true → unitGone s u = false → u ∉ s.blw.asleep →
      40 ≤ slow → slow < 70 →
    ∃ t, exec (.paceWear u slow) s = .next (drainAll t) ∧ t.blw.worn = s.blw.worn.filter (fun p => p.1 ≠ u) ++ [(u, slow)]
      ∧ t.chn.map = s.chn.map ∧ Raised s t 0x0102 1)
  ∧ (∀ (s : State) (u : UnitId) (slow : Nat), paceRow u.kind ≠ 0 → u.kind ≠ 1 → unitKnown u = true → unitGone s u = false →
      u ∉ s.blw.asleep → 70 ≤ slow →
    ∃ t, exec (.paceWear u slow) s = .next (drainAll t) ∧ Retired s t u (physicalOf s u.kind u.logical) 1)
  ∧ (∀ (s : State) (phase l : Nat), phaseServes s phase = some l →
    ∃ t, exec (.phaseSpared phase) s = .next (drainAll t) ∧ Retired s t { kind := 7, logical := l } phase 8)
  ∧ (∀ (s : State) (v : Word64) (n : Nat), n = clampNat 100 170 (bits v.toNat 7 0) →
    ∃ t, exec (.blwFloorWrite v) s = .next t
      ∧ if n ≤ s.blw.floorReg ∨ floorPower s n ≤ (effCap s : Rat) * 1000000 then
          t.blw.floorReg = n
            ∧ t.blw.oldFloors = (if n < s.blw.floorReg then keepOld s s.blw.oldFloors s.blw.floorReg else s.blw.oldFloors)
        else t.blw = s.blw ∧ (regGet t (pageReg (blkPage .blw 0) 0x020)).getLsbD 1 = true)
  ∧ (∀ (s : State) (v : Word64) (n : Nat), n = clampNat 10 50 (bits v.toNat 7 0) →
    ∃ t, exec (.blwGuardWrite v) s = .next t ∧ guardReg t = n
      ∧ t.blw.oldGuards = if n < guardReg s then keepOld s s.blw.oldGuards (guardReg s) else s.blw.oldGuards)

/-- Power, temperature and calibration (R410, R415, R417, R418, R422, R424, R446, R456, R467). -/
def Obligations.PowerRows : Prop :=
  (∀ (s : State) (w mv : Nat), min (capReg s - s.blw.thermalCut) (33 * mv / 1000) < w →
    ∃ t, exec (.powerSample w mv) s = .next (drainAll t) ∧ t.blw.inputCap = 33 * mv / 1000 ∧ t.blw.lowering = true
      ∧ (s.blw.throttle = true → t.blw.throttle = true))
  ∧ (∀ (s : State) (w mv : Nat), w ≤ min (capReg s - s.blw.thermalCut) (33 * mv / 1000) →
    ∃ t, exec (.powerSample w mv) s = .next (drainAll t) ∧ t.blw.inputCap = 33 * mv / 1000 ∧ t.blw.throttle = false
      ∧ (s.blw.throttle = false → t.blw.lowering = false))
  ∧ (∀ (s : State) (w ma : Nat), 1700 < w ∨ 40000 < ma →
    exec (.powerPeak w ma) s = .next { s with blw := { s.blw with borePaused := true } })
  ∧ (∀ (s : State) (w ma : Nat), w < 1600 → ma ≤ 40000 →
    exec (.powerPeak w ma) s = .next { s with blw := { s.blw with borePaused := false } })
  ∧ (∀ (s : State) (die stack us : Nat) (dieT stackT : Int), dieT < 1100 ∨ us < 1000 →
    ∃ t, exec (.temperatureSample die dieT stack stackT us) s = .next (drainAll t) ∧ t.chn.mode = s.chn.mode
      ∧ t.blw = { s.blw with thermalCut := 50 * max ((dieT - 1000) / 10).toNat ((stackT - 900) / 10).toNat })
  ∧ (∀ (s : State) (die stack us : Nat) (dieT stackT : Int), 1100 ≤ dieT → 1000 ≤ us → s.chn.mode ≠ .off →
    ∃ t, exec (.temperatureSample die dieT stack stackT us) s = .next (drainAll t) ∧ t.chn.mode = .off ∧ t.blw.tripped = true
      ∧ t.chn.losing = true)
  ∧ (∀ (s : State) (p : Nat), exec (.coolantValveUpdate p) s = .next { s with blw := { s.blw with valve := p } })
  ∧ (∀ (s : State) (v : Word64) (n : Nat), n = clampNat 600 1450 (bits v.toNat 10 0) →
    ∃ t, exec (.blwCapWrite v) s = .next t ∧ capReg t = n ∧ (n < capReg s → t.blw.throttle = true) ∧ (capReg s ≤ n → t.blw = s.blw))
  ∧ (∀ (s : State) (v : Word64), exec (.blwVtargetWrite v) s =
      .next (regField (reg .blw 0 0x110) 9 0 (clampNat 550 850 (bits v.toNat 9 0)) s))
  ∧ (∀ (s : State), s.blw.saving = none →
    ∃ t u, exec .ucalSave s = .next t ∧ t.blw.saving = some u ∧ u.seq = s.blw.saved.seq + 1 ∧ u.floor = s.blw.floorReg
      ∧ u.cap = capReg s ∧ u.guard = guardReg s ∧ t.blw.saved = s.blw.saved)
  ∧ (∀ (s : State) (u : UCal), s.blw.saving = some u →
    ∃ t, exec (.ucalSaveDone true) s = .next t
      ∧ t.blw = { s.blw with saving := none, saved := u, other := if s.blw.savedValid then some s.blw.saved else none, bankB := !s.blw.bankB, savedValid := true }
      ∧ (regGet t (reg .blw 0 0x198)).getLsbD 9 = true)
  ∧ (∀ (s : State) (u : UCal), s.blw.saving = some u →
    ∃ t, exec (.ucalSaveDone false) s = .next t ∧ t.blw = { s.blw with saving := none } ∧ (regGet t (reg .blw 0 0x198)).getLsbD 10 = true)
  ∧ (∀ (s : State), s.blw.saving = none →
    ∃ t, exec .ucalFactory s = .next t ∧ t.blw.floorReg = 140 ∧ capReg t = 1450 ∧ guardReg t = 20
      ∧ bits (regGet t (reg .blw 0 0x110)).toNat 9 0 = 700 ∧ regGet t (reg .blw 0 0x170) = 0 ∧ t.blw.saved = s.blw.saved)

/-- Stripes, poisoned records, checkpoints and cleaning (R307, R310, R316 to R318, R323, R511). -/
def Obligations.LogRows : Prop :=
  (∀ (s : State) (rs : List JRec), bagWorks s = true → stripeDue s = true → rs = fillStripe (2 ^ 18) (undrained s) →
    ∃ t, exec .stripeProgrammed s = .next (drainAll t) ∧ t.bag.nextStripe = s.bag.nextStripe + 1
      ∧ t.bag.recs = s.bag.recs.map (fun r => if r.seq ∈ rs.map JRec.seq then { r with stripe := some s.bag.nextStripe } else r)
      ∧ t.bag.stripes = s.bag.stripes ++ [{ no := s.bag.nextStripe, seqs := rs.map JRec.seq, lostMembers := [], lost := false }])
  ∧ (∀ (s : State) (x : Cmd) (n : Nat), bagWorks s = true → stripeDue s = true → cmdGet s x.id = some x →
      (∀ y ∈ s.cmds, y.id = x.id → y = x) → x.work = .wait 3 n →
      (∀ r ∈ s.bag.recs, r.seq ≤ n → r.stripe = none → r.seq ∈ (fillStripe (2 ^ 18) (undrained s)).map JRec.seq) →
    ∃ t, exec .stripeProgrammed s = .next (drainAll t) ∧ EndsWith t x.id x.status x.result)
  ∧ (∀ (s : State) (r : JRec) (l : List JRec), undrained s = r :: l → r.at_ + drainUs s * 1000 ≤ s.now →
    exec .drainTimeout s = .next { s with bag := { s.bag with closeTo := max s.bag.closeTo (((r :: l).map JRec.seq).foldl max 0) } })
  ∧ (∀ (s : State) (r : JRec) (l : List JRec), undrained s = r :: l → s.now < r.at_ + drainUs s * 1000 → exec .drainTimeout s = .next s)
  ∧ (∀ (s : State) (r : JRec), bagWorks s = true → s.bag.recs.find? (fun q => q.seq = r.seq) = some r → r.stripe = none →
      r.poisoned = false → r.type = 0x01 ∨ r.type = 0x02 →
    ∃ t q, exec (.journalPoison r.seq true) s = .next (drainAll t) ∧ q ∈ t.bag.recs ∧ q.seq = r.seq ∧ q.type = r.type ∧ q.poisoned = true
      ∧ q.codeOnly = true ∧ q.stripe = none ∧ t.cmds = s.cmds)
  ∧ (∀ (s : State) (r : JRec) (headerOk : Bool), bagWorks s = true → s.bag.recs.find? (fun q => q.seq = r.seq) = some r → r.stripe = none →
      r.poisoned = false → headerOk = false ∨ (r.type ≠ 0x01 ∧ r.type ≠ 0x02) → s.bag.ckpt.isSome = true →
    ∃ t q, exec (.journalPoison r.seq headerOk) s = .next (drainAll t) ∧ q ∈ t.bag.recs ∧ q.seq = r.seq ∧ q.type = 0x7F ∧ q.lost = true
      ∧ q.body = .pad ∧ t.bag.ckptDue = true ∧ t.cmds = s.cmds)
  ∧ (∀ (s : State), s.bag.ckptAt + ckptSecs s * 1000000000 ≤ s.now ∨ 2 ^ 36 < logBeyond s →
    exec .checkpointTimer s = .next { s with bag := { s.bag with ckptDue := true } })
  ∧ (∀ (s : State) (cut : Nat) (img : Image), bagWorks s = true → s.bag.ckpt = some (cut, img) →
    ∃ t, exec .checkpointDone s = .next (drainAll t) ∧ t.bag.ckpt = none ∧ t.bag.image = img ∧ t.bag.ckptAt = s.now
      ∧ t.bag.root = { rootSeq := s.bag.root.rootSeq + 1, ckptSeq := cut, dumpSeq := s.bag.root.dumpSeq, mapSeq := s.chn.mapSeq, eventSeq := s.chn.eventSeq, bankB := !s.bag.root.bankB }
      ∧ t.bag.oldRoot = (if s.bag.rootsValid then some (s.bag.root, s.bag.image) else none) ∧ t.bag.stripes = s.bag.stripes)
  ∧ (∀ (s : State) (n : Nat) (st : Stripe), droneWorks s = true → (countDead s).bag.stripes.find? (fun t => t.no = n) = some st →
      st.lost = false → (∀ r ∈ (countDead s).bag.recs, r.stripe = some n → r.seq ≤ s.bag.root.ckptSeq ∧ (r.dead = true ∨ isSource r = false)) →
    ∃ t, exec (.logCleaning n) s = .next (drainAll t) ∧ t.bag.stripes = s.bag.stripes.filter (fun t => t.no ≠ n)
      ∧ t.bag.recs = (countDead s).bag.recs.filter (fun r => !(r.stripe = some n && r.dead)))
  ∧ (∀ (s : State) (n unit : Nat) (st : Stripe), bagWorks s = true → s.bag.stripes.find? (fun t => t.no = n) = some st → st.lost = false →
      unit < 18 →
    ∃ t, exec (.flashScrub n unit true false) s = .next (drainAll t) ∧ t.bag.nextStripe = s.bag.nextStripe + 1
      ∧ t.bag.stripes = s.bag.stripes.filter (fun t => t.no ≠ n) ++ [{ no := s.bag.nextStripe, seqs := st.seqs, lostMembers := [], lost := false }])

/-- Flash members, lost stripes, the hold-up bank and power loss (R319 to R321, R327, R328, R332, R440, R460). -/
def Obligations.FlashRows : Prop :=
  (∀ (s : State) (ch die media : Nat), ch < 18 → die ≤ 16 →
    ∃ t, exec (.memberFailed 0 ch die media) s = .next (drainAll t)
      ∧ tget t.bag.pagesFailed (ch * 32 + die) = some ((tget s.bag.pagesFailed (ch * 32 + die)).getD 0 + 1)
      ∧ tget t.bag.chUncorr ch = some (min 0xFFFF ((tget s.bag.chUncorr ch).getD 0 + 1)))
  ∧ (∀ (s : State) (ch die media : Nat), ch < 18 → die < 16 → die ∉ (tget s.bag.diesFailed ch).getD [] → ch ∉ s.bag.wholeChannels →
      ch ∉ s.bag.spareUsed →
    ∃ t, exec (.memberFailed 1 ch die media) s = .next (drainAll t) ∧ ch ∈ t.bag.spareUsed
      ∧ t.bag.rebuilding = s.bag.rebuilding ++ [(ch, die)] ∧ t.bag.redundancyLost = s.bag.redundancyLost ∧ Raised s t 0x00C0 1
      ∧ (∀ (i : Nat) (st : Stripe), s.bag.stripes[i]? = some st → ∃ u, t.bag.stripes[i]? = some u ∧ u.no = st.no
          ∧ ∀ m < 18, (m ∈ u.lostMembers ↔ m ∈ st.lostMembers ∨ (memberChannel st.no m = ch ∧ memberDie st.no m = die))))
  ∧ (∀ (s : State) (ch die media : Nat), ch < 18 → die ≤ 16 → die ∉ (tget s.bag.diesFailed ch).getD [] → ch ∉ s.bag.wholeChannels →
      ch ∈ s.bag.spareUsed →
    ∃ t, exec (.memberFailed 1 ch die media) s = .next (drainAll t) ∧ t.bag.redundancyLost = true ∧ t.chn.causes.getLsbD 1 = true)
  ∧ (∀ (s : State) (ch die media : Nat), ch < 18 → die ≤ 16 → ch ∉ s.bag.wholeChannels →
    ∃ t, exec (.memberFailed 2 ch die media) s = .next (drainAll t) ∧ ch ∈ t.bag.wholeChannels ∧ t.bag.redundancyLost = true
      ∧ t.chn.causes.getLsbD 1 = true)
  ∧ (∀ (s : State) (ch die n : Nat), s.bag.rebuilding.find? (fun p => p.1 = ch) = some (ch, die) →
    ∃ t, exec (.rebuildDone ch n) s = .next (drainAll t) ∧ t.bag.rebuilding = s.bag.rebuilding.filter (fun p => p.1 ≠ ch)
      ∧ ∀ st ∈ t.bag.stripes, ∀ m ∈ st.lostMembers, memberChannel st.no m ≠ ch)
  ∧ (∀ (s : State) (n member : Nat) (refilled unread : List Nat) (st : Stripe), s.bag.stripes.find? (fun t => t.no = n) = some st →
      st.lost = false → mirrorOn s = false →
    ∃ t, exec (.stripeLost n member refilled unread { entries := [], progs := [], tables := [], dump := [] }) s = .next (drainAll t)
      ∧ (∀ q ∈ t.bag.stripes, q.no = n → q.lost = true) ∧ (∀ r ∈ t.bag.recs, r.stripe = some n → r.lost = true))
  ∧ (∀ (s : State) (n member : Nat) (refilled unread : List Nat) (g : Gone), s.bag.stripes.find? (fun t => t.no = n) = none →
    ∃ t, exec (.stripeLost n member refilled unread g) s = .next (drainAll t) ∧ t.bag.recs = s.bag.recs ∧ t.bag.gone.entries = s.bag.gone.entries ++ g.entries
      ∧ t.bag.gone.dump = s.bag.gone.dump ++ g.dump ∧ Raised s t 0x00C2 2)
  ∧ (∀ (s : State) (full now_ : Nat), 4000 ≤ full →
    exec (.holdupMeasurement full now_) s = .next (drainAll { s with bag := { s.bag with fullMj := min full 65535, nowMj := min now_ 65535 } }))
  ∧ (∀ (s : State) (full now_ : Nat), 2000 ≤ full → full < 4000 → 4000 ≤ s.bag.fullMj →
    ∃ t, exec (.holdupMeasurement full now_) s = .next (drainAll t) ∧ t.bag = { s.bag with fullMj := full, nowMj := min now_ 65535 }
      ∧ Raised s t 0x00C3 1)
  ∧ (∀ (s : State) (full now_ : Nat), full < 2000 → s.bag.bankFailed = false → s.chn.map.length < 1019 →
    ∃ t, exec (.holdupMeasurement full now_) s = .next (drainAll t) ∧ t.bag.bankFailed = true ∧ t.chn.causes.getLsbD 2 = true
      ∧ (∃ e ∈ t.chn.map, e.kind = 14) ∧ t.bag.writeThrough = decide (t.chn.mode = .hold))
  ∧ (∀ (s : State), s.bag.nowMj < 2000 → s.bag.bankFailed = false →
    ∃ t, exec .holdupChargeTimeout s = .next (drainAll t) ∧ t.bag.bankFailed = true ∧ t.chn.causes.getLsbD 2 = true)
  ∧ (∀ (s : State) (n : Nat), 2000 ≤ n → exec (.holdupThresholdReached n) s = .next { s with bag := { s.bag with nowMj := min n 65535 } })
  ∧ (∀ (s : State), s.chn.stage = 6 → s.chn.losing = false → s.chn.sealed = false →
    exec .powerLoss s = .next { s with chn := { s.chn with losing := true, sealed := false } })
  ∧ (∀ (s : State) (ns : Nat), s.chn.stage = 6 → s.chn.losing = false → s.chn.sealed = false → 1000 ≤ ns →
    exec (.pwrfailAssert ns) s = .next { s with pins := { s.pins with pwrfail := true }, chn := { s.chn with losing := true, sealed := false } })
  ∧ (∀ (s : State) (ns : Nat), ns < 1000 → exec (.pwrfailAssert ns) s = .next { s with pins := { s.pins with pwrfail := true } })
  ∧ (∀ (s : State), s.chn.losing = true →
    ∃ t, exec .dumpSealed s = .next t ∧ t.bag = { s.bag with dump := some (s.bag.recs.filter (fun r => r.stripe.isNone)), dumpSeq := s.bag.dumpSeq + 1 }
      ∧ t.chn.losing = false ∧ t.chn.sealed = true ∧ (¬(s.chn.mode = .off ∧ s.pins.switchOn = true) → t.chn.stage = 0) ∧ t.cmds = s.cmds)

/-- Pins, power and resets (R425, R457 to R459, R463, R469, R471, R472, R474 to R478, R485): what each reset leaves, and what the pins of
chapter 18 start. -/
def Obligations.ResetRows : Prop :=
  (∀ (s : State) (f : StartFaults) (code : Nat), s.pins.coldPending = some code → s.chn.stage = 0 → s.chn.losing = false →
      s.pins.switchOn = true → bankOk s.sec.fuse s.sec.pkgA = true ∨ bankOk s.sec.fuse s.sec.pkgB = true → f.calibration = false →
      f.selfTest = [] → f.training = false → s.bag.rootsErased = true →
    ∃ t, exec (.coldStart f) s = .next (drainAll t) ∧ t.chn.stage = 6 ∧ t.chn.lastReset = code ∧ t.chn.formatted = true ∧ t.cmds = []
      ∧ t.queues = [(0, queueZero)] ∧ t.rings = [(0, ringReset)] ∧ t.colls = [] ∧ t.bag.recs = [] ∧ t.bag.nextSeq = 1
      ∧ t.sec.keys = [] ∧ t.sec.mediaKey = true ∧ t.pins.coldPending = none ∧ t.bag.rootsErased = false)
  ∧ (∀ (s : State) (f : StartFaults) (code : Nat), s.pins.coldPending = some code → s.chn.stage = 0 → s.chn.losing = false →
      s.pins.switchOn = true → bankOk s.sec.fuse s.sec.pkgA = false → bankOk s.sec.fuse s.sec.pkgB = false →
    ∃ t, exec (.coldStart f) s = .next (drainAll t) ∧ t.chn.stage = 7 ∧ t.chn.failCode = 1)
  ∧ (∀ (s : State), s.chn.sealed = true → s.chn.stage = 0 → s.chn.mode ≠ .off → s.pins.switchOn = true →
    exec .restartAfterSeal s = .next { s with pins := { s.pins with pwrfail := false, inputGood := true, coldPending := some (s.pins.coldPending.getD 1) } })
  ∧ (∀ (s : State), s.chn.stage = 6 → s.chn.mode ≠ .off → s.chn.losing = false →
      bankOk s.sec.fuse s.sec.pkgA = true ∨ bankOk s.sec.fuse s.sec.pkgB = true →
    ∃ t, exec (.warmReset true) s = .next (drainAll t) ∧ t.chn.stage = 6 ∧ t.chn.lastReset = (if s.chn.warmPending then 4 else 3) ∧ t.cmds = []
      ∧ t.queues = [(0, queueZero)] ∧ t.rings = [(0, ringReset)] ∧ t.sec.keys = [] ∧ t.chn.warmFast = true ∧ t.chn.holding = true
      ∧ t.crook.cache = [] ∧ (∀ p ∈ t.domains, p.2.regions = []) ∧ t.pins.perst = (s.pins.perst || !s.chn.warmPending))
  ∧ (∀ (s : State), s.chn.stage ≠ 6 →
    ∃ t, exec .perstBeforeReady s = .next t ∧ t.pins.perst = true ∧ t.msixTable = [] ∧ t.crook.atsEnable = false ∧ t.chn = s.chn ∧ t.bag = s.bag)
  ∧ (∀ (s : State), exec .perstDeassert s = .next { s with pins := { s.pins with perst := false }, crook := { s.crook with atsEnable := true } })
  ∧ (∀ (s : State), s.chn.stage = 6 → s.chn.mode ≠ .off → s.chn.losing = false → s.chn.quiesced = false →
    ∃ t, exec .functionLevelReset s = .next (drainAll t) ∧ t.cmds = [] ∧ t.queues = [(0, queueZero)] ∧ t.rings = [(0, ringReset)]
      ∧ t.chn.lastReset = 5 ∧ t.crook.cache = [] ∧ t.chn.holding = true
      ∧ t.reports.length = s.reports.length + (s.cmds.filter (fun x => x.sub.isNone)).length)
  ∧ (∀ (s : State) (p : Nat × Cmd) (r : Ring) (u : State), s.chn.losing = false → s.chn.stage = 6 → s.reports = [p] → p.2.remote = none →
      (regGet s (reg .mpc 0 0x010)).getLsbD 0 = true → tget s.rings 0 = some r → r.enabled = true → r.faulted = false → r.zeroing = false →
      ringUnread r + 1 < 2 ^ r.sizeLog2 → writeRecord (.cq 0) r (resetRecord s p.1 p.2) s = .done u →
    ∃ t, exec .resetReportPost s = .next (drainAll t) ∧ t = { u with reports := u.reports.filter (· ≠ p) })
  ∧ (∀ (s : State) (rate width : Nat) (l0p flit : Bool),
    ∃ ev t, exec (.linkChanged rate width l0p flit) s = .next (drainAll t) ∧ t = raise .mpc ev (regSet (reg .mpc 0 0x2C0) (linkWord rate width l0p flit) s)
      ∧ Raised s t 0x0013 (if width % 256 = 16 ∧ rate % 256 = 64 then 0 else 1))
  ∧ (∀ (s : State) (block number addr : Nat), s.chn.stage = 6 → s.chn.losing = false → s.chn.mode ≠ .off →
    ∃ t, exec (.fatalError block number addr) s = .next (drainAll t) ∧ t.chn.mode = .off ∧ t.chn.losing = true)
  ∧ (∀ (s : State) (block number addr code : Nat), s.chn.stage = 0 → s.chn.losing = false → s.pins.coldPending = some code →
      s.pins.switchOn = true →
    ∃ t, exec (.fatalError block number addr) s = .next (drainAll t) ∧ t.chn.stage = 7 ∧ t.chn.failCode = 5)
  ∧ (∀ (s : State), s.chn.stage = 6 → s.chn.losing = false → s.chn.sealed = false →
    exec .overvoltage s = .next { s with pins := { s.pins with inputGood := false, switchOn := false }, chn := { s.chn with losing := true, sealed := false } }
      ∧ exec .mateBreak s = .next { s with pins := { s.pins with mate := false, switchOn := false }, chn := { s.chn with losing := true, sealed := false } })
  ∧ (∀ (s : State),
    ∃ t, exec .inputSwitchClose s = .next t ∧ t.pins.switchOn = true ∧ t.pins.mate = true ∧ t.pins.inputGood = true
      ∧ (s.chn.stage = 0 → s.chn.losing = false → s.chn.sealed = false → s.pins.coldPending = none → t.pins.coldPending = some 0)
      ∧ (s.chn.stage ≠ 0 → t.pins.coldPending = s.pins.coldPending) ∧ t.chn = s.chn ∧ t.cmds = s.cmds)
  ∧ (∀ (s : State) (straps : Nat), exec (.managementControllerPowerUp straps) s =
      .next { s with pins := { s.pins with straps := straps % 8 }, sec := { s.sec with eids := [], eventReceiver := none, sessions := [] } })

/-- Translation (R358, R361 to R366, R373, R374, R376): what an answer to each kind of request leaves in the cache, how an invalidation
begins and ends, and what the function's enables do. -/
def Obligations.CrookRows : Prop :=
  (∀ (s : State) (d va size bus ns : Nat) (r w u : Bool) (q : XlatReq), 2 ^ 21 ≤ size → r = true ∨ w = true → q.stale = false →
      s.crook.reqs.find? (fun q => q.dom = d ∧ q.va = pageOf va ∧ q.kind = 0) = some q →
    ∃ t e, exec (.atsTranslationCompletion d va (.page size bus r w u) ns) s = .next (drainAll t) ∧ t.crook.cache.head? = some e
      ∧ e.dom = d ∧ e.va ≤ pageOf va ∧ pageOf va < e.va + e.size ∧ (size < 2 ^ 30 → e.va = pageOf va ∧ e.bus = bus + pageOf va % size)
      ∧ e.read = r ∧ e.write = w ∧ e.untranslated = u ∧ e.ats = true ∧ e.holds = 0 ∧ t.crook.reqs = s.crook.reqs.erase q)
  ∧ (∀ (s : State) (d va size bus ns : Nat) (r w u : Bool) (q : XlatReq), size < 2 ^ 21 ∨ (r = false ∧ w = false ∧ priOpen s d = false) →
      q.stale = false → s.crook.reqs.find? (fun q => q.dom = d ∧ q.va = pageOf va ∧ q.kind = 0) = some q →
    ∃ t, exec (.atsTranslationCompletion d va (.page size bus r w u) ns) s = .next (drainAll t) ∧ t.crook.cache = s.crook.cache
      ∧ FaultFound s t d (pageOf va) (if size < 2 ^ 21 then 0x04 else 0x03) ∧ t.crook.reqs = s.crook.reqs.erase q)
  ∧ (∀ (s : State) (d va size bus ns : Nat) (u : Bool) (q : XlatReq), 2 ^ 21 ≤ size → q.stale = false →
      s.crook.reqs.find? (fun q => q.dom = d ∧ q.va = pageOf va ∧ q.kind = 0) = some q → (pageWaiters s d (pageOf va)).length ≠ 0 →
      requested s d (pageOf va) 1 = false → pageRoom s = true →
    ∃ t w, exec (.atsTranslationCompletion d va (.page size bus false false u) ns) s = .next (drainAll t) ∧ t.crook.cache = s.crook.cache
      ∧ t.crook.reqs = s.crook.reqs.erase q ++ [{ dom := d, va := pageOf va, write := w, kind := 1, stale := false }]
      ∧ t.outbox = s.outbox ++ [.pageRequest d (pageOf va) w])
  ∧ (∀ (s : State) (d va pcie ns : Nat) (q : XlatReq), q.stale = false →
      s.crook.reqs.find? (fun q => q.dom = d ∧ q.va = pageOf va ∧ q.kind = 0) = some q →
    ∃ t, exec (.atsTranslationCompletion d va (.failed pcie) ns) s = .next (drainAll t) ∧ t.crook.cache = s.crook.cache
      ∧ FaultFound s t d (pageOf va) 0x02 ∧ Raised s t 0x00E0 2)
  ∧ (∀ (s : State) (d va ns : Nat) (a : AtsAnswer) (q : XlatReq), q.stale = true →
      s.crook.reqs.find? (fun q => q.dom = d ∧ q.va = pageOf va ∧ q.kind = 0) = some q →
    ∃ t, exec (.atsTranslationCompletion d va a ns) s = .next (drainAll t) ∧ t.crook = { s.crook with reqs := s.crook.reqs.erase q })
  ∧ (∀ (s : State) (d va : Nat) (q : XlatReq), s.crook.reqs.find? (fun q => q.dom = d ∧ q.va = pageOf va ∧ q.kind = 1) = some q →
      s.crook.atsEnable = true → requested s d (pageOf va) 0 = false → invalidating s d (pageOf va) = false →
      (s.crook.reqs.filter (fun q => q.kind = 0)).length < 1024 →
    ∃ t w, exec (.pageRequestResponse d va .success) s = .next t
      ∧ t.crook = { s.crook with reqs := s.crook.reqs.erase q ++ [{ dom := d, va := pageOf va, write := w, kind := 0, stale := false }] }
      ∧ t.outbox = s.outbox ++ [.atsRequest d (pageOf va) w])
  ∧ (∀ (s : State) (d va : Nat) (a : PriAnswer) (q : XlatReq), s.crook.reqs.find? (fun q => q.dom = d ∧ q.va = pageOf va ∧ q.kind = 1) = some q →
      a ≠ .success →
    ∃ t, exec (.pageRequestResponse d va a) s = .next t ∧ FaultFound s t d (pageOf va) 0x05
      ∧ t.crook = { s.crook with reqs := s.crook.reqs.erase q, failed := t.crook.failed,
                                 priStopped := (s.crook.priStopped || decide (a = .responseFailure)) })
  ∧ (∀ (s : State) (d va : Nat) (q : XlatReq), s.crook.reqs.find? (fun q => q.dom = d ∧ q.va = pageOf va ∧ q.kind = 1) = some q →
    ∃ t, exec (.pageRequestTimeout d va) s = .next t ∧ FaultFound s t d (pageOf va) 0x05
      ∧ t.crook = { s.crook with reqs := s.crook.reqs.erase q, failed := t.crook.failed })
  ∧ (∀ (s : State) (d va : Nat) (q : XlatReq) (g : Region) (boot : Bool) (es : List Word64) (e : Word64), q.stale = false →
      s.crook.reqs.find? (fun q => q.dom = d ∧ q.va = pageOf va ∧ q.kind = 2) = some q → regionOf s d (pageOf va) = some (g, boot) →
      es[(pageOf va - g.base) / 2 ^ 21 % 8]? = some e → tableValid e = true → g.base % 2 ^ 21 = 0 → inRegion g (pageOf va) = true →
      s.crook.invals = [] → s.crook.cache.length ≤ 65000 →
    ∃ t c, exec (.regionTableReadDone d va (.entries es)) s = .next (drainAll t) ∧ c ∈ t.crook.cache ∧ c.dom = d ∧ c.va = pageOf va
      ∧ c.size = 2 ^ 21 ∧ c.bus = e.toNat / 2 ^ 21 * 2 ^ 21 ∧ c.read = e.getLsbD 1 ∧ c.write = e.getLsbD 2 ∧ t.crook.failed = s.crook.failed)
  ∧ (∀ (s : State) (d va pcie : Nat) (q : XlatReq) (g : Region) (boot : Bool), q.stale = false →
      s.crook.reqs.find? (fun q => q.dom = d ∧ q.va = pageOf va ∧ q.kind = 2) = some q → regionOf s d (pageOf va) = some (g, boot) →
    ∃ t, exec (.regionTableReadDone d va (.refused pcie)) s = .next (drainAll t) ∧ t.crook.cache = s.crook.cache
      ∧ FaultFound s t d (pageOf va) 0x06 ∧ Raised s t 0x00E0 2)
  ∧ (∀ (s : State) (base len : Nat),
    ∃ t, exec (.atsInvalidateRequest none base len) s = .next t
      ∧ t.crook.invals = s.crook.invals ++ [{ n := s.crook.nextInval, dom := 0, base := base, len := len, cmd := none }]
      ∧ ∀ e ∈ t.crook.cache, entryIn 0 base len e = true → e.withdrawn = true ∧ e.holds = 0)
  ∧ (∀ (s : State) (i : Inval) (ns : Nat), s.crook.invals.find? (fun j => j.n = i.n) = some i → i.cmd = none →
    ∃ t, exec (.invalidationDrained i.n ns) s = .next t ∧ t.crook.invals = s.crook.invals.filter (fun j => j.n ≠ i.n)
      ∧ t.outbox = s.outbox ++ [.invalidateDone i.n] ∧ t.cmds = s.cmds)
  ∧ (∀ (s : State) (i : Inval) (x : Cmd) (ns : Nat), s.crook.invals.find? (fun j => j.n = i.n) = some i → i.cmd = some x.id →
      cmdGet s x.id = some x → x.work = .wait 2 i.n → releaseWaits s i = false →
    ∃ t, exec (.invalidationDrained i.n ns) s = .next t ∧ t.crook.invals = s.crook.invals.filter (fun j => j.n ≠ i.n)
      ∧ EndsWith t x.id x.status x.result)
  ∧ (∀ (s : State),
    ∃ t, exec .atsEnableCleared s = .next t ∧ t.crook.atsEnable = false ∧ t.crook.cache = s.crook.cache.filter (fun e => !e.ats)
      ∧ t.chn.epoch = s.chn.epoch + (if s.crook.cache.any (fun e => e.ats) then 1 else 0))
  ∧ (∀ (s : State), exec .priEnableSet s = .next { s with crook := { s.crook with priEnable := true, priStopped := false } })

/-- Ports (R379 to R382, R454): a lane that fails its loopback is retired and a spare takes its place, the port staying down without one; a
cable's presence and the lane training take a port up and down; a port answers for its own address. -/
def Obligations.PortRows : Prop :=
  (∀ (s : State) (n lane : Nat) (p : Port), n < 12 → lane < 8 → s.cst.ports[n]? = some p → unitGone s { kind := 8, logical := laneOf n lane } = false →
      sparesLeft s 8 (laneOf n lane) ≠ 0 →
    ∃ t q, exec (.laneSpared n lane true) s = .next (drainAll t)
      ∧ Retired s t { kind := 8, logical := laneOf n lane } (physicalOf s 8 (laneOf n lane)) 7 ∧ t.cst.ports[n]? = some q ∧ q.up = false
      ∧ q.noSpare = p.noSpare)
  ∧ (∀ (s : State) (n lane : Nat) (p : Port), n < 12 → lane < 8 → s.cst.ports[n]? = some p → unitGone s { kind := 8, logical := laneOf n lane } = false →
      sparesLeft s 8 (laneOf n lane) = 0 →
    ∃ t, exec (.laneSpared n lane true) s = .next (drainAll t)
      ∧ Retired s t { kind := 8, logical := laneOf n lane } (physicalOf s 8 (laneOf n lane)) 7
      ∧ t.cst.ports[n]? = some { p with up := false, noSpare := true })
  ∧ (∀ (s : State) (n lane : Nat), exec (.laneSpared n lane false) s = .next (drainAll s))
  ∧ (∀ (s : State) (n : Nat) (m : Bool) (p : Port), n < 12 → s.cst.ports[n]? = some p →
    ∃ t, exec (.cablePresenceChange n true m) s = .next (drainAll t) ∧ t.cst.ports[n]? = some { p with present := true, kr8 := !m }
      ∧ (∀ k, k ≠ n → t.cst.ports[k]? = s.cst.ports[k]?) ∧ Frame [.cst] s t)
  ∧ (∀ (s : State) (n : Nat) (m : Bool) (p : Port), n < 12 → s.cst.ports[n]? = some p →
    ∃ t, exec (.cablePresenceChange n false m) s = .next (drainAll t)
      ∧ t.cst.ports[n]? = some { p with up := false, present := false, kr8 := false } ∧ (∀ k, k ≠ n → t.cst.ports[k]? = s.cst.ports[k]?)
      ∧ (p.up = true → Raised s t 0x00F1 1))
  ∧ (∀ (s : State) (n : Nat) (up : Bool) (p : Port), n < 12 → s.cst.ports[n]? = some p → p.up = !up → (up = true → p.present = true ∧ p.noSpare = false) →
    ∃ t, exec (.portState n up) s = .next (drainAll t) ∧ t.cst.ports[n]? = some { p with up := up }
      ∧ (∀ k, k ≠ n → t.cst.ports[k]? = s.cst.ports[k]?) ∧ Raised s t 0x00F1 (if up then 0 else 1))
  ∧ (∀ (s : State) (n : Nat) (p : Port), s.cst.ports[n]? = some p → p.up = false → p.present = false ∨ p.noSpare = true →
    exec (.portState n true) s = .next (drainAll s))
  ∧ (∀ (s : State) (n hi lo : Nat) (p : Port), fabricOn s = true → s.cst.ports[n]? = some p → p.up = true →
      ((regGet s (reg .cst 12 0x100)).toNat * 2 ^ 64 + (regGet s (reg .cst 12 0x108)).toNat + n) % 2 ^ 128 = hi * 2 ^ 64 + lo →
    exec (.addressResolutionRequest n hi lo) s
      = .next { s with outbox := s.outbox ++ [.arpAnswer n (BitVec.ofNat 64 hi) (BitVec.ofNat 64 lo) (Config.portMac n)] })

/-- Connections (R384 to R387): a packet of an unknown sender or with a wrong check is dropped and counted; packets in and out of order are
marked received and acknowledged together; acknowledged packets are forgotten; a timeout resends, and halves the rate; marked packets cut the
rate; HELLO opens a connection, CLOSE and a connection without progress end it. -/
def Obligations.ConnectionRows : Prop :=
  (∀ (s : State) (i port : Nat) (known ce : Bool) (h : PktHdr) (d : List Byte), fabricOn s = true → known = false ∨ h.checkOk = false →
    exec (.dataPacket i known port h d ce) s = .next (bumpSat (reg .cst 12 0x158) 0 32 1 s))
  ∧ (∀ (s : State) (i port : Nat) (ce : Bool) (h : PktHdr) (d : List Byte) (p : Peer), fabricOn s = true → h.checkOk = true →
      tget s.cst.peers i = some p → p.enable = true → p.state = 2 → h.ver = 1 → h.ptype = 1 → h.conn = p.ownConn → 16 ≤ h.msgLen →
      h.msgLen ≤ 1049616 → h.psn = p.recvPsn → h.psn < 2 ^ 32 → p.recvPsn ∉ p.recvAhead →
    ∃ t q, exec (.dataPacket i true port h d ce) s = .next t ∧ tget t.cst.peers i = some q
      ∧ q.recvPsn = advancePsn p.recvAhead 4096 ((h.psn + 1) % 2 ^ 32)
      ∧ (h.msgId = p.nextRecvMsg → p.msgs = [] → h.msgLen ≤ d.length → q.nextRecvMsg = p.nextRecvMsg + 1 ∧ q.msgs = [])
      ∧ (p.sinceAck < 7 → q.sinceAck = p.sinceAck + 1 ∧ q.ceSince = p.ceSince + (if ce then 1 else 0) ∧ t.outbox = s.outbox)
      ∧ (7 ≤ p.sinceAck → q.sinceAck = 0 ∧ q.ceSince = 0 ∧ ∃ bm, t.outbox = s.outbox
          ++ [.fabricAck i ((q.recvPsn + 2 ^ 32 - 1) % 2 ^ 32) bm (p.ceSince + (if ce then 1 else 0))])
      ∧ Frame [.cst, .outbox] s t)
  ∧ (∀ (s : State) (i port : Nat) (ce : Bool) (h : PktHdr) (d : List Byte) (p : Peer), fabricOn s = true → h.checkOk = true →
      tget s.cst.peers i = some p → p.enable = true → p.state = 2 → h.ver = 1 → h.ptype = 1 → h.conn = p.ownConn → 16 ≤ h.msgLen →
      h.msgLen ≤ 1049616 → p.recvPsn < h.psn → h.psn < p.recvPsn + 4096 → h.psn < 2 ^ 32 → h.psn ∉ p.recvAhead → p.sinceAck < 7 →
    ∃ t q, exec (.dataPacket i true port h d ce) s = .next t ∧ tget t.cst.peers i = some q ∧ q.recvPsn = p.recvPsn ∧ h.psn ∈ q.recvAhead
      ∧ q.sinceAck = p.sinceAck + 1 ∧ Frame [.cst] s t)
  ∧ (∀ (s : State) (i a ce : Nat) (bm : Word64) (p : Peer), fabricOn s = true → tget s.cst.peers i = some p → p.enable = true → p.state = 2 →
    ∃ t q, exec (.ack i a bm ce) s = .next t ∧ tget t.cst.peers i = some q ∧ q.state = 2
      ∧ (p.queued = [] → q.unacked = p.unacked.filter (fun n => !ackHits a bm n) ∧ t.outbox = s.outbox)
      ∧ (p.unacked.filter (ackHits a bm) ≠ [] → q.timeoutUs = 20)
      ∧ (ce = 0 → q.rate = p.rate)
      ∧ (ce ≠ 0 → p.unacked.filter (ackHits a bm) ≠ [] → p.lastCut = none → q.lastCut = some s.now
          ∧ q.rate = max (p.rate * (1 - (ce : Rat) / (2 * (p.unacked.filter (ackHits a bm)).length))) 1000)
      ∧ Frame [.cst, .outbox] s t)
  ∧ (∀ (s : State) (i : Nat) (p : Peer), tget s.cst.peers i = some p → p.state = 2 → p.unacked ≠ [] →
    ∃ t, exec (.resendTimeout i) s = .next t ∧ t.outbox = s.outbox ++ p.unacked.map (fun n => .resent i n)
      ∧ tget t.cst.peers i = some { p with timeoutUs := min (2 * p.timeoutUs) 1000, rate := p.rate / 2 } ∧ Frame [.cst, .outbox] s t)
  ∧ (∀ (s : State) (i : Nat) (p : Peer), tget s.cst.peers i = some p → p.state = 2 → p.rate < rateStart s p →
    ∃ t, exec (.rateIncrease i) s = .next t ∧ tget t.cst.peers i = some { p with rate := min (p.rate + 5000) (rateStart s p) } ∧ Frame [.cst] s t)
  ∧ (∀ (s : State) (i : Nat) (p : Peer), tget s.cst.peers i = some p → p.state = 2 → p.sinceAck ≠ 0 →
    ∃ t bm, exec (.ackDelayTimer i) s = .next t
      ∧ t.outbox = s.outbox ++ [.fabricAck i ((p.recvPsn + 2 ^ 32 - 1) % 2 ^ 32) bm p.ceSince]
      ∧ (∀ k < 64, bm.getLsbD k = decide ((p.recvPsn + k) % 2 ^ 32 ∈ p.recvAhead))
      ∧ tget t.cst.peers i = some { p with sinceAck := 0, ceSince := 0 } ∧ Frame [.cst, .outbox] s t)
  ∧ (∀ (s : State) (i : Nat) (p : Peer), fabricOn s = true → tget s.cst.peers i = some p → p.enable = true → p.state = 1 ∨ p.state = 3 →
      portsMask s ≠ 0 →
    exec (.helloRetry i) s = .next { s with outbox := s.outbox ++ [.fabricHello i p.ownConn (shardId s) (portsMask s) false] })
  ∧ (∀ (s : State) (i conn shard ports : Nat) (p : Peer), fabricOn s = true → tget s.cst.peers i = some p → p.enable = true →
      ¬(p.state = 2 ∧ p.conn = conn) →
    ∃ t q, exec (.helloAck i conn shard ports) s = .next (drainAll t) ∧ tget t.cst.peers i = some q ∧ q.state = 2 ∧ q.conn = conn
      ∧ q.shardId = shard ∧ q.portsUp = ports ∧ q.recvPsn = 0 ∧ q.timeoutUs = 20
      ∧ q.rate = ((List.range 12).filter (fun n => bit ports n && bit (portsMask s) n)).length * 800000
      ∧ (p.state ≠ 2 → Raised s t 0x00F2 0))
  ∧ (∀ (s : State) (i conn shard ports : Nat) (p : Peer), fabricOn s = true → tget s.cst.peers i = some p → p.enable = true →
      p.state = 2 → p.conn = conn → exec (.helloAck i conn shard ports) s = .next (drainAll s))
  ∧ (∀ (s : State) (i conn shard ports : Nat) (p : Peer), fabricOn s = true → tget s.cst.peers i = some p → p.enable = true → p.state ≠ 2 →
      portsMask s ≠ 0 →
    ∃ t q b, exec (.hello i conn shard ports) s = .next (drainAll t) ∧ tget t.cst.peers i = some q ∧ q.state = 2 ∧ q.conn = conn
      ∧ q.shardId = shard ∧ q.portsUp = ports ∧ t.outbox = b ++ [.fabricHello i p.ownConn (shardId t) (portsMask s) true] ∧ Raised s t 0x00F2 0)
  ∧ (∀ (s : State) (i : Nat) (p : Peer), fabricOn s = true → tget s.cst.peers i = some p → p.enable = true → p.state = 2 →
    ∃ t q, exec (.close i) s = .next (drainAll t) ∧ tget t.cst.peers i = some q ∧ q.state = 3 ∧ q.events = [] ∧ q.ownConn = s.cst.nextConn
      ∧ Raised s t 0x00F2 1)
  ∧ (∀ (s : State) (i : Nat) (p : Peer), tget s.cst.peers i = some p → p.state = 2 → p.unacked ≠ [] → portsMask s ≠ 0 →
    ∃ t q b, exec (.connectionDown i) s = .next (drainAll t) ∧ tget t.cst.peers i = some q ∧ q.state = 3 ∧ q.events = []
      ∧ q.ownConn = s.cst.nextConn ∧ t.outbox = b ++ [.fabricHello i s.cst.nextConn (shardId t) (portsMask s) false] ∧ Raised s t 0x00F2 1)

/-- Messages between modules (R388, R391 to R395, R397 to R399): a sub-query of a granted peer waits as a command of its own, a shard's list
reaches the fan-out that asked, a remote command is committed or rejected, its completion goes back, a refusal fails the fan-out, and an
event is sent. A message for a role not granted is counted and answered with REJECT, reason 0x08. -/
def Obligations.MessageRows : Prop :=
  (∀ (s : State) (peer request kind coll shard deadline bits_ ver next : Nat) (bnd cut : Bool) (params codes rq filter : List Byte) (tset_ : List Nat) (p : Peer),
      peer < 1024 → tget s.cst.peers peer = some p → p.enable = true → p.state = 2 → bit p.roles 0 = true → (∀ y ∈ s.cmds, y.id ≠ s.nextCmd) →
    ∃ t x, exec (.subq peer request kind coll shard bnd cut deadline bits_ ver next params codes rq filter tset_) s = .next (drainAll t)
      ∧ t.cmds = s.cmds ++ [x] ∧ t.nextCmd = s.nextCmd + 1 ∧ x.queue = 32768 + subClass s bnd ∧ x.sub = some (peer, request % 65536)
      ∧ x.arrival = s.now
      ∧ (shardId s = shard % 4096 → ∀ c, tget s.colls (coll % 4096) = some c → c.codeBits = bits_ → c.encVersion = ver → c.encNext = next →
          c.indexKind = 2 → c.building = false → c.partMode = 1 → x.phase = .waiting)
      ∧ (shardId s ≠ shard % 4096 → x.phase = .finished ∧ x.status = 0x0102))
  ∧ (∀ (s : State) (peer request kind coll shard deadline bits_ ver next : Nat) (bnd cut : Bool) (params codes rq filter : List Byte) (tset_ : List Nat) (p : Peer),
      peer < 1024 → tget s.cst.peers peer = some p → p.enable = true → p.state = 2 → bit p.roles 0 = false → p.queued = [] →
      p.unacked.length ≤ 4000 →
    ∃ t, exec (.subq peer request kind coll shard bnd cut deadline bits_ ver next params codes rq filter tset_) s = .next (drainAll t)
      ∧ t.cmds = s.cmds ∧ t.outbox = s.outbox ++ [.fabricMsg peer 5 false (BitVec.ofNat 64 (8 * 2 ^ 16)) []]
      ∧ t.regs = (bumpSat (reg .cst 12 0x158) 32 32 1 s).regs)
  ∧ (∀ (s : State) (peer request : Nat) (rep : ShardReport) (es : List WireEntry) (p : Peer) (x : Cmd) (f : Fan), peer < 1024 →
      tget s.cst.peers peer = some p → p.state = 2 → cmdGet s x.id = some x → x.phase = .executing → x.work = .fan f → f.sent = true →
    ∃ t y, exec (.subres peer request rep es) s = .next t ∧ cmdGet t x.id = some y
      ∧ y.work = .fan { f with shards := f.shards.map (fun h =>
          if h.peer = peer ∧ h.request = request ∧ h.answered = false then { h with report := some rep, entries := es, answered := true } else h) }
      ∧ Frame [.cmds] s t)
  ∧ (∀ (s : State) (peer q : Nat) (cmd data : List Byte) (p : Peer) (qu : Queue), q < 32768 → cmd.length = 128 → fabricOn s = true →
      tget s.cst.peers peer = some p → p.enable = true → p.state = 2 → bit p.roles 1 = true → tget s.queues q = some qu → qu.fabric = true →
      qu.domain = p.domain → commitReason s q (cmd.take 120) (fld cmd 120 8) = 0 →
    ∃ t x, exec (.rcmd peer q cmd data) s = .next (drainAll t) ∧ t.cmds = s.cmds ++ [x] ∧ t.nextCmd = s.nextCmd + 1 ∧ x.id = s.nextCmd
      ∧ x.queue = q ∧ x.bytes = cmd ∧ x.phase = .waiting ∧ x.remote = some peer ∧ x.dataIn = data.take (2 ^ 20)
      ∧ tget t.queues q = some { qu with nextSeq := (qu.nextSeq + 1) % 65536, peer := peer })
  ∧ (∀ (s : State) (peer q n : Nat) (cmd data : List Byte) (p : Peer) (qu : Queue), q < 32768 → cmd.length = 128 → fabricOn s = true →
      tget s.cst.peers peer = some p → p.enable = true → p.state = 2 → bit p.roles 1 = true → tget s.queues q = some qu → qu.fabric = true →
      qu.domain = p.domain → commitReason s q (cmd.take 120) (fld cmd 120 8) = n → n ≠ 0 → p.queued = [] → p.unacked.length ≤ 4000 →
    ∃ t b, exec (.rcmd peer q cmd data) s = .next (drainAll t) ∧ t.cmds = s.cmds
      ∧ tget t.queues q = some { qu with rejects := min (qu.rejects + 1) 0xFFFF, lastReason := n }
      ∧ t.outbox = b ++ [.fabricMsg peer 5 false (BitVec.ofNat 64 (q + n * 2 ^ 16 + qu.nextSeq * 2 ^ 24)) []])
  ∧ (∀ (s : State) (peer q : Nat) (cmd data : List Byte) (p : Peer), q < 32768 → fabricOn s = true →
      tget s.cst.peers peer = some p → p.enable = true → p.state = 2 → bit p.roles 1 = false → p.queued = [] → p.unacked.length ≤ 4000 →
    ∃ t, exec (.rcmd peer q cmd data) s = .next (drainAll t) ∧ t.cmds = s.cmds
      ∧ t.outbox = s.outbox ++ [.fabricMsg peer 5 false (BitVec.ofNat 64 (q + 8 * 2 ^ 16)) []])
  ∧ (∀ (s : State) (peer q : Nat) (x : Cmd) (qu : Queue) (p : Peer), s.chn.losing = false →
      s.cmds.find? (fun x => x.queue = q && x.sub.isNone && x.phase = .finished && x.remote = some peer) = some x → journalTurn s x = true →
      tget s.queues q = some qu → qu.fabric = true → tget s.cst.peers peer = some p → p.state = 2 →
    exec (.rcpl peer q) s = .next (afterRecord x (sendMsg peer 4 x.bounded (BitVec.ofNat 64 q) (cplBytes s x false ++ responseArea x) s))
      ∧ ∀ t, exec (.rcpl peer q) s = .next t → t.cmds = s.cmds.filter (fun y => y.id ≠ x.id))
  ∧ (∀ (s : State) (peer q next : Nat) (x : Cmd) (f : Fan) (p : Peer), fabricOn s = true → tget s.cst.peers peer = some p → p.enable = true →
      p.state = 2 → s.cmds = [x] → x.phase = .executing → x.work = .fan f → f.shards.any (fun h => h.peer = peer ∧ h.answered = false) = true →
    ∃ t, exec (.reject peer q 8 next) s = .next (drainAll t) ∧ EndsWith t x.id 0x0102 0)
  ∧ (∀ (s : State) (peer q reason next : Nat), reason ≠ 8 → exec (.reject peer q reason next) s = .next (drainAll s))
  ∧ (∀ (s : State) (peer : Nat) (p : Peer) (ev : Ev) (rest : List Ev), fabricOn s = true → tget s.cst.peers peer = some p → p.enable = true →
      p.state = 2 → p.events = ev :: rest → p.queued = [] → p.unacked.length ≤ 4000 →
    ∃ t q, exec (.event peer) s = .next t ∧ tget t.cst.peers peer = some q ∧ q.events = rest ∧ q.lostBefore = false
      ∧ t.outbox = s.outbox ++ [.fabricMsg peer 6 false 0 (evBytes ev false p.lostBefore)] ∧ Frame [.cst, .outbox] s t)

/-- Mirroring (R309, R400, R401): a partner holds and discards the records it is sent and answers with those it holds; an owner takes
acknowledgements, and gives up records without one after the timeout. Table 21's registers of Consort that have a row of their own. -/
def Obligations.MirrorRows : Prop :=
  (∀ (s : State) (peer : Nat) (recs : List MirrorRec) (p : Peer), fabricOn s = true → tget s.cst.peers peer = some p → p.enable = true →
      p.state = 2 → bit p.roles 3 = true → recs ≠ [] → mirrors p = true ∨ (s.cst.peers.filter (fun q => mirrors q.2)).length < 4 → fetchOf s peer recs = none →
    ∃ t q, exec (.mrec peer recs) s = .next t ∧ tget t.cst.peers peer = some q ∧ q.mirrorLog = p.mirrorLog
      ∧ (∀ r ∈ recs, r.seq ∈ (q.mirror ++ q.mirrorLog ++ q.mirrorWait).map MirrorRec.seq)
      ∧ (∀ r ∈ p.mirror, r ∈ q.mirror) ∧ Frame [.cst, .outbox] s t)
  ∧ (∀ (s : State) (peer : Nat) (recs : List MirrorRec) (p : Peer) (f : Nat × Nat × Nat), fabricOn s = true → tget s.cst.peers peer = some p →
      p.enable = true → p.state = 2 → fetchOf s peer recs = some f →
    exec (.mrec peer recs) s = .next { s with cst := { s.cst with fetches := s.cst.fetches.erase f } })
  ∧ (∀ (s : State) (peer seq : Nat) (p : Peer), fabricOn s = true → tget s.cst.peers peer = some p → p.enable = true → p.state = 2 →
      mirrorOn s = true → peer = mirrorPeer s →
    ∃ t, exec (.mack peer seq) s = .next (drainAll t) ∧ t.cst.mirrorAck = max s.cst.mirrorAck seq ∧ t.cst.mirrorPaused = false
      ∧ t.bag = { s.bag with recs := s.bag.recs.map (fun r => if r.seq ≤ seq ∧ s.cst.mirrorFrom ≤ r.seq then { r with mirrored := true } else r) })
  ∧ (∀ (s : State) (peer first last : Nat) (p : Peer), fabricOn s = true → tget s.cst.peers peer = some p → p.enable = true → p.state = 2 →
      bit p.roles 3 = true → p.queued = [] → p.unacked = [] →
      (((p.mirrorLog ++ p.mirror).filter (fun r => first ≤ r.seq && r.seq ≤ last)).flatMap MirrorRec.image).length ≤ 2 ^ 20 →
    ∃ t h, exec (.mfetch peer first last) s = .next t ∧ t.outbox = s.outbox ++ [.fabricMsg peer 0x10 false h
        (((p.mirrorLog ++ p.mirror).filter (fun r => first ≤ r.seq && r.seq ≤ last)).flatMap MirrorRec.image)]
      ∧ Frame [.cst, .outbox] s t)
  ∧ (∀ (s : State) (peer ckpt : Nat) (dead : List (Nat × Nat)) (p : Peer), fabricOn s = true → tget s.cst.peers peer = some p →
      p.enable = true → p.state = 2 → bit p.roles 3 = true → dead.length ≤ 65536 →
    ∃ t q, exec (.mtrim peer ckpt dead) s = .next t ∧ tget t.cst.peers peer = some q
      ∧ q.mirrorLog = p.mirrorLog.filter (fun r => !(decide (r.seq ≤ ckpt) && (!r.source || dead.any (fun d => d.1 ≤ r.seq && r.seq ≤ d.2))))
      ∧ (∀ r ∈ p.mirror, (¬(r.seq ≤ ckpt ∧ (r.source = true → dead.any (fun d => d.1 ≤ r.seq && r.seq ≤ d.2) = true))) → r ∈ q.mirror)
      ∧ (∀ r ∈ q.mirror, r ∈ p.mirrorWait ∨ (r ∈ p.mirror ∧ ¬(r.seq ≤ ckpt ∧ (r.source = true → dead.any (fun d => d.1 ≤ r.seq && r.seq ≤ d.2) = true)))))
  ∧ (∀ (s : State), mirrorOn s = true → overdue s ≠ [] →
    ∃ t ev, exec .mirrorTimeout s = .next (drainAll t) ∧ t.cst.mirrorPaused = true
      ∧ (∀ r ∈ s.bag.recs, ∃ r' ∈ t.bag.recs, r'.seq = r.seq ∧ r'.mirrorLost = (r.mirrorLost || decide (r.seq ∈ (overdue s).map JRec.seq)))
      ∧ t.chn.recent.getLast? = some ev ∧ ev.code = 0x00F3 ∧ ev.sev = 1)
  ∧ (∀ (s : State) (v : Word64), pageOpen s .cst = true → (peerOf s (peerSel s)).enable = false → v.getLsbD 32 = true →
    ∃ t q, exec (.cstPeerCtlWrite v) s = .next (drainAll t) ∧ tget t.cst.peers (peerSel s) = some q ∧ q.enable = true
      ∧ q.domain = bits v.toNat 31 24 ∧ q.roles = bits v.toNat 19 16 ∧ q.state = 1 ∧ (fabricOn s = true → q.ownConn = s.cst.nextConn)
      ∧ (fabricOn s = true → portsMask s ≠ 0 → t.outbox = s.outbox ++ [.fabricHello (peerSel s) s.cst.nextConn (shardId s) (portsMask s) false]))
  ∧ (∀ (s : State) (v : Word64) (p : Peer), pageOpen s .cst = true → tget s.cst.peers (peerSel s) = some p → p.enable = true →
      v.getLsbD 32 = false →
    ∃ t q, exec (.cstPeerCtlWrite v) s = .next (drainAll t) ∧ tget t.cst.peers (peerSel s) = some q ∧ q.enable = false ∧ q.state = 0
      ∧ q.unacked = [] ∧ q.queued = [] ∧ (p.state = 2 → Raised s t 0x00F2 1))
  ∧ (∀ (s : State) (v : Word64), pageOpen s .cst = true → (peerOf s (peerSel s)).enable = true → v.getLsbD 32 = true →
      bits v.toNat 31 24 ≠ (peerOf s (peerSel s)).domain ∨ bits v.toNat 19 16 ≠ (peerOf s (peerSel s)).roles →
    ∃ t, exec (.cstPeerCtlWrite v) s = .next (drainAll (drainAll t)) ∧ t.cst.ports = s.cst.ports ∧ Raised s t 0x0010 2)
  ∧ (∀ (s : State) (v : Word64), pageOpen s .cst = true →
    ∃ t, exec (.cstMirrorWrite v) s = .next (drainAll t)
      ∧ (v.getLsbD 16 = true → mirrorOn s = false ∨ bits v.toNat 9 0 ≠ mirrorPeer s → s.cst.mirrorLast ≠ some (bits v.toNat 9 0) →
          t.cst.mirrorFrom = s.bag.nextSeq ∧ t.cst.mirrorAck = 0)
      ∧ (v.getLsbD 16 = false → t.cst = s.cst))
  ∧ (∀ (s : State) (v : Word64), pageOpen s .cst = true → (∀ x ∈ s.cmds, x.sub = none) →
    ∃ t, exec (.cstShardWrite v) s = .next t ∧ regGet t (reg .cst 12 0x118) = v &&& 0x1FFF ∧ Frame [.regs] s t)
  ∧ (∀ (s : State) (v : Word64) (x : Cmd), pageOpen s .cst = true → x ∈ s.cmds → x.sub ≠ none → v &&& 0x1FFF ≠ regGet s (reg .cst 12 0x118) →
    ∃ t, exec (.cstShardWrite v) s = .next (drainAll t) ∧ regGet t (reg .cst 12 0x118) = regGet s (reg .cst 12 0x118) ∧ Raised s t 0x0010 2)

/-- The management port (R444, R446, R469, R480 to R488, R492): every command that is allowed in the state has its effect and answers OK; one
without a session answers SESSION_REQUIRED and one in a state that does not allow it WRONG_STATE, with no effect. -/
def Obligations.ManagementRows : Prop :=
  (∀ (s : State) (tr : Nat), mctpUp s tr = true →
    exec (.getState tr) s = .next { s with outbox := s.outbox ++ [.mgmt tr 0 (stateBody s)] })
  ∧ (∀ (s : State) (tr n : Nat) (k : BitVec 256) (i : Instr), mctpUp s tr = true → s.sec.busy = false → tr ∉ s.sec.sessions →
      i ∈ [.coldReset tr, .mgmtWarmReset tr, .format tr, .mgmtSetTime tr n, .kekSet tr n k] →
    exec i s = .next { s with outbox := s.outbox ++ [.mgmt tr 2 []] })
  ∧ (∀ (s : State) (tr n : Nat) (b : Bool) (i : Instr), mctpUp s tr = true → s.sec.busy = false → tr ∉ s.sec.sessions →
      i ∈ [.off tr, .holdSet tr, .holdClear tr, .debugEnable tr n b] →
    exec i s = .next (drainAll { s with outbox := s.outbox ++ [.mgmt tr 2 []] }))
  ∧ (∀ (s : State) (tr : Nat), VendorReady s tr → mgmtReady s = false → exec (.mgmtWarmReset tr) s = .next { s with outbox := s.outbox ++ [.mgmt tr 1 []] })
  ∧ (∀ (s : State) (tr : Nat), VendorReady s tr → powered s = true → s.chn.stage = 6 → s.chn.mode ≠ .off →
    ∃ t b, exec (.off tr) s = .next (drainAll t) ∧ t.chn.mode = .off ∧ t.chn.losing = true ∧ t.sec = { s.sec with busy := true }
      ∧ t.outbox = b ++ [.mgmt tr 0 []])
  ∧ (∀ (s : State) (tr : Nat), VendorReady s tr → powered s = true → s.chn.stage ≠ 6 → s.chn.mode ≠ .off →
    ∃ t b, exec (.off tr) s = .next (drainAll t) ∧ t.chn.mode = .off ∧ t.pins.coldPending = none ∧ t.outbox = b ++ [.mgmt tr 0 []])
  ∧ (∀ (s : State) (tr : Nat), VendorReady s tr → powered s = true → mgmtReady s = true →
    ∃ t, exec (.coldReset tr) s = .next t ∧ t.outbox = s.outbox ++ [.mgmt tr 0 []] ∧ t.pins = { s.pins with coldPending := some 2 }
      ∧ t.sec = { s.sec with busy := true } ∧ t.chn = { s.chn with losing := true, sealed := false } ∧ Frame [.outbox, .pins, .sec, .chn] s t)
  ∧ (∀ (s : State) (tr : Nat), VendorReady s tr → powered s = true → mgmtReady s = false →
    ∃ t, exec (.coldReset tr) s = .next t ∧ t.outbox = s.outbox ++ [.mgmt tr 0 []] ∧ t.pins = { s.pins with coldPending := some 2 }
      ∧ t.sec = { s.sec with busy := true } ∧ t.chn = { s.chn with stage := 0 } ∧ Frame [.outbox, .pins, .sec, .chn] s t)
  ∧ (∀ (s : State) (tr : Nat), VendorReady s tr → mgmtReady s = true →
    exec (.mgmtWarmReset tr) s = .next { s with outbox := s.outbox ++ [.mgmt tr 0 []], chn := { s.chn with quiesced := true, warmPending := true }, sec := { s.sec with busy := true } })
  ∧ (∀ (s : State) (tr : Nat), VendorReady s tr → mgmtReady s = true →
    ∃ t b, exec (.holdSet tr) s = .next (drainAll t) ∧ t.chn.causes = s.chn.causes ||| 0b10000#5 ∧ t.chn.mapPending = true
      ∧ (s.chn.mode ≠ .off → t.chn.mode = .hold) ∧ t.outbox = b ++ [.mgmt tr 0 []])
  ∧ (∀ (s : State) (tr : Nat), VendorReady s tr → mgmtReady s = true → s.chn.causes.getLsbD 4 = true →
    ∃ t b, exec (.holdClear tr) s = .next (drainAll t) ∧ t.chn.causes = s.chn.causes &&& 0b01111#5 ∧ t.outbox = b ++ [.mgmt tr 0 []]
      ∧ (s.chn.causes = 0b10000#5 → s.chn.mode = .hold → t.chn.mode = .full ∨ t.chn.mode = .spared)
      ∧ (s.chn.causes ≠ 0b10000#5 → t.chn.mode = s.chn.mode))
  ∧ (∀ (s : State) (tr : Nat), VendorReady s tr → formatAllowed s = true →
    ∃ t, exec (.format tr) s = .next t ∧ t.outbox = s.outbox ++ [.mgmt tr 0 []] ∧ t.pins = { s.pins with coldPending := some 2 }
      ∧ t.bag = { s.bag with mediaKeyNo := s.bag.mediaKeyNo + 1, rootsErased := true, rootsValid := false, oldRoot := none }
      ∧ t.sec = { s.sec with mediaKey := true, busy := true } ∧ t.chn = { s.chn with stage := 0 } ∧ Frame [.outbox, .pins, .sec, .chn, .bag] s t)
  ∧ (∀ (s : State) (tr n : Nat), VendorReady s tr → powered s = true → n < 2 ^ 64 →
    exec (.mgmtSetTime tr n) s = .next { s with outbox := s.outbox ++ [.mgmt tr 0 []], tod := some (n, s.now) })
  ∧ (∀ (s : State) (tr n : Nat) (k : BitVec 256), VendorReady s tr → powered s = true → n < 2 ^ 32 →
    exec (.kekSet tr n k) s = .next { s with outbox := s.outbox ++ [.mgmt tr 0 []], sec := { s.sec with kek := some (n, k) } })
  ∧ (∀ (s : State) (tr n : Nat), VendorReady s tr → mgmtReady s = true →
    ∃ t b, exec (.debugEnable tr n true) s = .next (drainAll t) ∧ t.sec = { s.sec with debug := true } ∧ Raised s t 0x0121 1
      ∧ t.outbox = b ++ [.mgmt tr 0 []])
  ∧ (∀ (s : State) (tr n : Nat), VendorReady s tr → mgmtReady s = true →
    ∃ t b, exec (.debugEnable tr n false) s = .next (drainAll t) ∧ t.sec = s.sec ∧ t.outbox = b ++ [.mgmt tr 3 []])
  ∧ (∀ (s : State) (c svn release : Nat), c = 1 ∨ c = 2 → s.sec.fuse ≤ svn → svn ≤ 63 →
    ∃ t, exec (.firmwareUpdate c svn release true) s = .next t ∧ t.outbox = s.outbox ++ [.pldmVerify c true]
      ∧ bankOf c (updateBank s c) t.sec = { valid := true, svn := svn, release := release }
      ∧ bankOf c (!updateBank s c) t.sec = bankOf c (!updateBank s c) s.sec ∧ Frame [.sec, .outbox] s t)
  ∧ (∀ (s : State) (c svn release : Nat) (ok : Bool), c = 1 ∨ c = 2 → ok = false ∨ svn < s.sec.fuse ∨ 63 < svn →
    ∃ t, exec (.firmwareUpdate c svn release ok) s = .next t ∧ t.outbox = s.outbox ++ [.pldmVerify c false] ∧ t.sec = s.sec)
  ∧ (∀ (s : State) (c : Nat), c = 1 ∨ c = 2 → (bankOf c (updateBank s c) s.sec).valid = true →
    ∃ t, exec (.activateFirmware c) s = .next (drainAll t) ∧ (∀ n, n ∈ t.sec.staged ↔ n = c ∨ n ∈ s.sec.staged)
      ∧ (powered s = true → Raised s t 0x0122 0))
  ∧ (∀ (s : State) (tr : Nat) (d : List Byte), transportUp s tr = true →
    ∃ t a, exec (.spdmRequest tr 0xE4 d) s = .next t ∧ t.outbox = s.outbox ++ [.spdm tr a] ∧ (∀ n, n ∈ t.sec.sessions ↔ n = tr ∨ n ∈ s.sec.sessions)
      ∧ Frame [.sec, .outbox] s t)
  ∧ (∀ (s : State) (tr : Nat) (d : List Byte), transportUp s tr = true →
    ∃ t a, exec (.spdmRequest tr 0xEC d) s = .next t ∧ t.outbox = s.outbox ++ [.spdm tr a] ∧ t.sec.sessions = s.sec.sessions.filter (· ≠ tr)
      ∧ Frame [.sec, .outbox] s t)
  ∧ (∀ (s : State) (tr : Nat), exec (.spdmSessionTimeout tr) s = .next { s with sec := { s.sec with sessions := s.sec.sessions.filter (· ≠ tr) } })
  ∧ (∀ (s : State) (tr eid : Nat), mctpUp s tr = true →
    ∃ t, exec (.mctpControl tr eid) s = .next t ∧ tget t.sec.eids tr = some (eid % 256) ∧ t.outbox = s.outbox ++ [.mctp tr (eid % 256)]
      ∧ Frame [.sec, .outbox] s t)
  ∧ (∀ (s : State) (tr eid : Nat), mctpUp s tr = true →
    exec (.pldmSetEventReceiver tr eid) s = .next { s with outbox := s.outbox ++ [.pldmReply tr], sec := { s.sec with eventReceiver := some (tr, eid % 256) } })
end

