-- ==== Sys2Proof/Laws/Pass.lean ====
section
/-! SUPPORT. How a property of states passes through the shapes that meanings are built from: folds, choices, results and their
chaining. The files of Laws/Keeps say that each function of the model keeps the invariant, those of Laws/Frames which parts of the
state it may write. -/

namespace Sys2Proof.Machine

variable {P : State → Prop}

/-- The property of the state that a result leaves. -/
inductive ResInv {α : Type} (P : State → Prop) : Res α → Prop where
  | ok {a : α} {s : State} (h : P s) : ResInv P (.ok a s)
  | fail {n : Nat} {f : Option CmdFault} {s : State} (h : P s) : ResInv P (.fail n f s)
  | wait {s : State} (h : P s) : ResInv P (.wait s)

/-- The property of the state a row answers: it is the result's value when the row goes on. -/
inductive RowInv (P : State → Prop) : Res State → Prop where
  | ok {t s : State} (h : P t) : RowInv P (.ok t s)
  | fail {n : Nat} {f : Option CmdFault} {s : State} (h : P s) : RowInv P (.fail n f s)
  | wait {s : State} (h : P s) : RowInv P (.wait s)

/-- The property of the state that a ring's write leaves. -/
inductive RecInv (P : State → Prop) : RecRes → Prop where
  | done {s : State} (h : P s) : RecInv P (.done s)
  | fault {n v : Nat} {s : State} (h : P s) : RecInv P (.fault n v s)
  | wait {s : State} (h : P s) : RecInv P (.wait s)

/-- The property of a next state. -/
inductive OutInv (P : State → Prop) : Host.Outcome State Fault Refusal → Prop where
  | next {s : State} (h : P s) : OutInv P (.next s)
  | fault {f : Fault} : OutInv P (.fault f)
  | refused {r : Refusal} : OutInv P (.refused r)

/-- The property of a state that may be absent. -/
inductive OptInv (P : State → Prop) : Option State → Prop where
  | some {s : State} (h : P s) : OptInv P (some s)
  | none : OptInv P none

/-- The property of the second of a pair that may be absent. -/
inductive OptPairInv {α : Type} (P : State → Prop) : Option (α × State) → Prop where
  | some {p : α × State} (h : P p.2) : OptPairInv P (some p)
  | none : OptPairInv P none

theorem rowOk_inv {t s : State} (h : P t) : RowInv P (.ok t s) := .ok h
theorem rowFail_inv {n : Nat} {f : Option CmdFault} {s : State} (h : P s) : RowInv P (.fail n f s) := .fail h
theorem rowWait_inv {s : State} (h : P s) : RowInv P (.wait s) := .wait h
theorem row_andThen {α : Type} {r : Res α} {k : α → State → Res State} (hr : ResInv P r) (hk : ∀ a s, P s → RowInv P (k a s)) :
    RowInv P (andThen r k) := by
  cases hr with
  | ok h => exact hk _ _ h
  | fail h => exact .fail h
  | wait h => exact .wait h
theorem row_ok {r : Res State} {t s : State} (h : r = .ok t s) (hr : RowInv P r) : P t := by subst h; cases hr; assumption
theorem row_fail {r : Res State} {n : Nat} {f : Option CmdFault} {s : State} (h : r = .fail n f s) (hr : RowInv P r) : P s := by
  subst h; cases hr; assumption
theorem row_wait {r : Res State} {s : State} (h : r = .wait s) (hr : RowInv P r) : P s := by subst h; cases hr; assumption
theorem inv_ite {c : Prop} [Decidable c] {a b : State} (ha : P a) (hb : P b) : P (if c then a else b) := by
  by_cases h : c <;> simp only [h, if_true, if_false] <;> assumption
theorem res_ite {α : Type} {c : Prop} [Decidable c] {a b : Res α} (ha : ResInv P a) (hb : ResInv P b) : ResInv P (if c then a else b) := by
  by_cases h : c <;> simp only [h, if_true, if_false] <;> assumption
theorem row_ite {c : Prop} [Decidable c] {a b : Res State} (ha : RowInv P a) (hb : RowInv P b) : RowInv P (if c then a else b) := by
  by_cases h : c <;> simp only [h, if_true, if_false] <;> assumption
theorem rec_ite {c : Prop} [Decidable c] {a b : RecRes} (ha : RecInv P a) (hb : RecInv P b) : RecInv P (if c then a else b) := by
  by_cases h : c <;> simp only [h, if_true, if_false] <;> assumption
theorem out_ite {c : Prop} [Decidable c] {a b : Host.Outcome State Fault Refusal} (ha : OutInv P a) (hb : OutInv P b) : OutInv P (if c then a else b) := by
  by_cases h : c <;> simp only [h, if_true, if_false] <;> assumption
theorem opt_ite {c : Prop} [Decidable c] {a b : Option State} (ha : OptInv P a) (hb : OptInv P b) : OptInv P (if c then a else b) := by
  by_cases h : c <;> simp only [h, if_true, if_false] <;> assumption
theorem optp_ite {α : Type} {c : Prop} [Decidable c] {a b : Option (α × State)} (ha : OptPairInv P a) (hb : OptPairInv P b) : OptPairInv P (if c then a else b) := by
  by_cases h : c <;> simp only [h, if_true, if_false] <;> assumption
theorem snd_ite {α : Type} {c : Prop} [Decidable c] {a b : α × State} (ha : P a.2) (hb : P b.2) : P (if c then a else b).2 := by
  by_cases h : c <;> simp only [h, if_true, if_false] <;> assumption
theorem out_next {s : State} (h : P s) : OutInv P (.next s) := .next h
theorem ok_inv {α : Type} {a : α} {s : State} (h : P s) : ResInv P (.ok a s) := .ok h
theorem fail_inv {α : Type} {n : Nat} {f : Option CmdFault} {s : State} (h : P s) : ResInv P (α := α) (.fail n f s) := .fail h
theorem wait_inv {α : Type} {s : State} (h : P s) : ResInv P (α := α) (.wait s) := .wait h
theorem recDone_inv {s : State} (h : P s) : RecInv P (.done s) := .done h
theorem recFault_inv {n v : Nat} {s : State} (h : P s) : RecInv P (.fault n v s) := .fault h
theorem recWait_inv {s : State} (h : P s) : RecInv P (.wait s) := .wait h
theorem optSome_inv {s : State} (h : P s) : OptInv P (some s) := .some h
theorem optNone_inv : OptInv P none := .none
theorem optpSome_inv {α : Type} {p : α × State} (h : P p.2) : OptPairInv P (some p) := .some h
theorem optpNone_inv {α : Type} : OptPairInv P (α := α) none := .none
theorem inv_foldl {β : Type} {f : State → β → State} {l : List β} {s : State} (hf : ∀ s a, P s → P (f s a)) (hs : P s) :
    P (l.foldl f s) := by
  induction l generalizing s with
  | nil => exact hs
  | cons a t ih => exact ih (hf s a hs)
theorem snd_foldl {α β : Type} {f : α × State → β → α × State} {l : List β} {p : α × State}
    (hf : ∀ p a, P p.2 → P (f p a).2) (hp : P p.2) : P (l.foldl f p).2 := by
  induction l generalizing p with
  | nil => exact hp
  | cons a t ih => exact ih (hf p a hp)
theorem res_foldl {α β : Type} {f : Res α → β → Res α} {l : List β} {r : Res α} (hf : ∀ r a, ResInv P r → ResInv P (f r a))
    (hr : ResInv P r) : ResInv P (l.foldl f r) := by
  induction l generalizing r with
  | nil => exact hr
  | cons a t ih => exact ih (hf r a hr)
theorem res_andThen {α β : Type} {r : Res α} {k : α → State → Res β} (hr : ResInv P r) (hk : ∀ a s, P s → ResInv P (k a s)) :
    ResInv P (andThen r k) := by
  cases hr with
  | ok h => exact hk _ _ h
  | fail h => exact .fail h
  | wait h => exact .wait h
theorem res_ok {α : Type} {r : Res α} {a : α} {s : State} (h : r = .ok a s) (hr : ResInv P r) : P s := by subst h; cases hr; assumption
theorem res_fail {α : Type} {r : Res α} {n : Nat} {f : Option CmdFault} {s : State} (h : r = .fail n f s) (hr : ResInv P r) : P s := by
  subst h; cases hr; assumption
theorem res_wait {α : Type} {r : Res α} {s : State} (h : r = .wait s) (hr : ResInv P r) : P s := by subst h; cases hr; assumption
theorem rec_done {r : RecRes} {s : State} (h : r = .done s) (hr : RecInv P r) : P s := by subst h; cases hr; assumption
theorem rec_fault {r : RecRes} {n v : Nat} {s : State} (h : r = .fault n v s) (hr : RecInv P r) : P s := by subst h; cases hr; assumption
theorem rec_wait {r : RecRes} {s : State} (h : r = .wait s) (hr : RecInv P r) : P s := by subst h; cases hr; assumption
theorem inv_snd {α : Type} {p : α × State} {a : α} {s : State} (h : p = (a, s)) (hp : P p.2) : P s := by subst h; exact hp
theorem opt_some {o : Option State} {s : State} (h : o = some s) (ho : OptInv P o) : P s := by subst h; cases ho; assumption
theorem optp_some {α : Type} {o : Option (α × State)} {a : α} {s : State} (h : o = some (a, s)) (ho : OptPairInv P o) : P s := by
  subst h; cases ho; assumption
/-- The property of the state that a step's regions leave. -/
inductive EncInv (P : State → Prop) : EncRes → Prop where
  | ok {e : Enc} {s : State} (h : P s) : EncInv P (.ok e s)
  | paused : EncInv P .paused
  | lost {n : Nat} : EncInv P (.lost n)
  | poisoned {n : Nat} : EncInv P (.poisoned n)
  | full {l : List Nat} : EncInv P (.full l)

theorem enc_ite {c : Prop} [Decidable c] {a b : EncRes} (ha : EncInv P a) (hb : EncInv P b) : EncInv P (if c then a else b) := by
  by_cases h : c <;> simp only [h, if_true, if_false] <;> assumption
theorem enc_ok {r : EncRes} {e : Enc} {s : State} (h : r = .ok e s) (hr : EncInv P r) : P s := by subst h; cases hr; assumption

/-- The property of the state that a journal write leaves. -/
inductive JInv (P : State → Prop) : JWrite → Prop where
  | done {a b : Nat} {s : State} (h : P s) : JInv P (.done a b s)
  | wait : JInv P .wait
  | fail {n : Nat} {f : Option CmdFault} : JInv P (.fail n f)

theorem jw_ite {c : Prop} [Decidable c] {a b : JWrite} (ha : JInv P a) (hb : JInv P b) : JInv P (if c then a else b) := by
  by_cases h : c <;> simp only [h, if_true, if_false] <;> assumption
theorem jWait_inv : JInv P .wait := .wait
theorem jFail_inv {n : Nat} {f : Option CmdFault} : JInv P (.fail n f) := .fail
theorem jDone_inv {a b : Nat} {s : State} (h : P s) : JInv P (.done a b s) := .done h
theorem j_done {r : JWrite} {a b : Nat} {s : State} (h : r = .done a b s) (hr : JInv P r) : P s := by subst h; cases hr; assumption

end Sys2Proof.Machine
end

