-- ==== Sys2Proof/Laws/Frame.lean ====
section
/-! SUPPORT. Which parts of the state a function may write, as a set of bits: the files of Laws/Frames say it of each function. -/

namespace Sys2Proof.Machine

/-- `t` differs from `s₀` only in parts whose bit is set in `κ`. -/
def Keeps (κ : Nat) (s₀ t : State) : Prop := ∀ p : Field, κ.testBit p.bit = false → p.same s₀ t

variable {κ : Nat} {s₀ s : State}

theorem keeps_refl : Keeps κ s₀ s₀ := fun p _ => by cases p <;> rfl

theorem sub_mask {a b c : Nat} (h : a &&& b = a) (hb : b &&& c = b) : a &&& c = a := by
  rw [← h, Nat.and_assoc, hb]

theorem mask_bit {a : Nat} {i : Nat} (h : a &&& κ = a) (ha : a.testBit i = true) : κ.testBit i = true := by
  rw [← h, Nat.testBit_and, Bool.and_eq_true] at ha
  exact ha.2

theorem keeps_of {a : Nat} {t : State} (ha : a &&& κ = a) (hs : Keeps κ s₀ s)
    (ht : ∀ p : Field, a.testBit p.bit = false → p.same s₀ s → p.same s₀ t) : Keeps κ s₀ t := by
  intro p hp
  refine ht p ?_ (hs p hp)
  cases h : a.testBit p.bit with
  | false => rfl
  | true => rw [mask_bit ha h] at hp; cases hp

theorem upd_accs {x0 : Table Acc} (hm : 1099511627776 &&& κ = 1099511627776) (hs : Keeps κ s₀ s) :
    Keeps κ s₀ { s with accs := x0 } :=
  keeps_of hm hs fun p hp h => by cases p <;> first | exact h | cases hp
theorem upd_accs_accSet {x0 : Table Acc} {x1 : Table Nat} (hm : 3298534883328 &&& κ = 3298534883328) (hs : Keeps κ s₀ s) :
    Keeps κ s₀ { s with accs := x0, accSet := x1 } :=
  keeps_of hm hs fun p hp h => by cases p <;> first | exact h | cases hp
theorem upd_bag {x0 : Bag} (hm : 268435456 &&& κ = 268435456) (hs : Keeps κ s₀ s) :
    Keeps κ s₀ { s with bag := x0 } :=
  keeps_of hm hs fun p hp h => by cases p <;> first | exact h | cases hp
theorem upd_bells {x0 : Table BellUnit} (hm : 4398046511104 &&& κ = 4398046511104) (hs : Keeps κ s₀ s) :
    Keeps κ s₀ { s with bells := x0 } :=
  keeps_of hm hs fun p hp h => by cases p <;> first | exact h | cases hp
theorem upd_blw {x0 : Bellows} (hm : 1073741824 &&& κ = 1073741824) (hs : Keeps κ s₀ s) :
    Keeps κ s₀ { s with blw := x0 } :=
  keeps_of hm hs fun p hp h => by cases p <;> first | exact h | cases hp
theorem upd_blw_chn {x0 : Bellows} {x1 : Chanter} (hm : 3221225472 &&& κ = 3221225472) (hs : Keeps κ s₀ s) :
    Keeps κ s₀ { s with blw := x0, chn := x1 } :=
  keeps_of hm hs fun p hp h => by cases p <;> first | exact h | cases hp
theorem upd_blw_chn_unitCorrected {x0 : Bellows} {x1 : Chanter} {x2 : Table (List Nat)} (hm : 140660178944 &&& κ = 140660178944) (hs : Keeps κ s₀ s) :
    Keeps κ s₀ { s with blw := x0, chn := x1, unitCorrected := x2 } :=
  keeps_of hm hs fun p hp h => by cases p <;> first | exact h | cases hp
theorem upd_chn {x0 : Chanter} (hm : 2147483648 &&& κ = 2147483648) (hs : Keeps κ s₀ s) :
    Keeps κ s₀ { s with chn := x0 } :=
  keeps_of hm hs fun p hp h => by cases p <;> first | exact h | cases hp
theorem upd_chn_contexts {x0 : Chanter} {x1 : List (Nat × Nat)} (hm : 8798240505856 &&& κ = 8798240505856) (hs : Keeps κ s₀ s) :
    Keeps κ s₀ { s with chn := x0, contexts := x1 } :=
  keeps_of hm hs fun p hp h => by cases p <;> first | exact h | cases hp
theorem upd_chn_sec {x0 : Chanter} {x1 : Security} (hm : 6442450944 &&& κ = 6442450944) (hs : Keeps κ s₀ s) :
    Keeps κ s₀ { s with chn := x0, sec := x1 } :=
  keeps_of hm hs fun p hp h => by cases p <;> first | exact h | cases hp
theorem upd_classes {x0 : List Cls} (hm : 262144 &&& κ = 262144) (hs : Keeps κ s₀ s) :
    Keeps κ s₀ { s with classes := x0 } :=
  keeps_of hm hs fun p hp h => by cases p <;> first | exact h | cases hp
theorem upd_classes_colls_tables_poison {x0 : List Cls} {x1 : Table Coll} {x2 : Table Tbl} {x3 : List Poison} (hm : 17222074368 &&& κ = 17222074368) (hs : Keeps κ s₀ s) :
    Keeps κ s₀ { s with classes := x0, colls := x1, tables := x2, poison := x3 } :=
  keeps_of hm hs fun p hp h => by cases p <;> first | exact h | cases hp
theorem upd_classes_colls_tables_sec_poison {x0 : List Cls} {x1 : Table Coll} {x2 : Table Tbl} {x3 : Security} {x4 : List Poison} (hm : 21517041664 &&& κ = 21517041664) (hs : Keeps κ s₀ s) :
    Keeps κ s₀ { s with classes := x0, colls := x1, tables := x2, sec := x3, poison := x4 } :=
  keeps_of hm hs fun p hp h => by cases p <;> first | exact h | cases hp
theorem upd_classes_sec {x0 : List Cls} {x1 : Security} (hm : 4295229440 &&& κ = 4295229440) (hs : Keeps κ s₀ s) :
    Keeps κ s₀ { s with classes := x0, sec := x1 } :=
  keeps_of hm hs fun p hp h => by cases p <;> first | exact h | cases hp
theorem upd_cmds {x0 : List Cmd} (hm : 8192 &&& κ = 8192) (hs : Keeps κ s₀ s) :
    Keeps κ s₀ { s with cmds := x0 } :=
  keeps_of hm hs fun p hp h => by cases p <;> first | exact h | cases hp
theorem upd_cmds_bag {x0 : List Cmd} {x1 : Bag} (hm : 268443648 &&& κ = 268443648) (hs : Keeps κ s₀ s) :
    Keeps κ s₀ { s with cmds := x0, bag := x1 } :=
  keeps_of hm hs fun p hp h => by cases p <;> first | exact h | cases hp
theorem upd_cmds_chn {x0 : List Cmd} {x1 : Chanter} (hm : 2147491840 &&& κ = 2147491840) (hs : Keeps κ s₀ s) :
    Keeps κ s₀ { s with cmds := x0, chn := x1 } :=
  keeps_of hm hs fun p hp h => by cases p <;> first | exact h | cases hp
theorem upd_cmds_chn_contexts {x0 : List Cmd} {x1 : Chanter} {x2 : List (Nat × Nat)} (hm : 8798240514048 &&& κ = 8798240514048) (hs : Keeps κ s₀ s) :
    Keeps κ s₀ { s with cmds := x0, chn := x1, contexts := x2 } :=
  keeps_of hm hs fun p hp h => by cases p <;> first | exact h | cases hp
theorem upd_cmds_nextCmd {x0 : List Cmd} {x1 : Nat} (hm : 24576 &&& κ = 24576) (hs : Keeps κ s₀ s) :
    Keeps κ s₀ { s with cmds := x0, nextCmd := x1 } :=
  keeps_of hm hs fun p hp h => by cases p <;> first | exact h | cases hp
theorem upd_cmds_reports_ledgers_srings_contexts {x0 : List Cmd} {x1 : List (Nat × Cmd)} {x2 : Table Rat} {x3 : List SRing} {x4 : List (Nat × Nat)} (hm : 8796161220608 &&& κ = 8796161220608) (hs : Keeps κ s₀ s) :
    Keeps κ s₀ { s with cmds := x0, reports := x1, ledgers := x2, srings := x3, contexts := x4 } :=
  keeps_of hm hs fun p hp h => by cases p <;> first | exact h | cases hp
theorem upd_colls {x0 : Table Coll} (hm : 8388608 &&& κ = 8388608) (hs : Keeps κ s₀ s) :
    Keeps κ s₀ { s with colls := x0 } :=
  keeps_of hm hs fun p hp h => by cases p <;> first | exact h | cases hp
theorem upd_colls_progs {x0 : Table Coll} {x1 : Table Prog} (hm : 25165824 &&& κ = 25165824) (hs : Keeps κ s₀ s) :
    Keeps κ s₀ { s with colls := x0, progs := x1 } :=
  keeps_of hm hs fun p hp h => by cases p <;> first | exact h | cases hp
theorem upd_colls_progs_tables {x0 : Table Coll} {x1 : Table Prog} {x2 : Table Tbl} (hm : 58720256 &&& κ = 58720256) (hs : Keeps κ s₀ s) :
    Keeps κ s₀ { s with colls := x0, progs := x1, tables := x2 } :=
  keeps_of hm hs fun p hp h => by cases p <;> first | exact h | cases hp
theorem upd_colls_srings {x0 : Table Coll} {x1 : List SRing} (hm : 75497472 &&& κ = 75497472) (hs : Keeps κ s₀ s) :
    Keeps κ s₀ { s with colls := x0, srings := x1 } :=
  keeps_of hm hs fun p hp h => by cases p <;> first | exact h | cases hp
theorem upd_colls_tables {x0 : Table Coll} {x1 : Table Tbl} (hm : 41943040 &&& κ = 41943040) (hs : Keeps κ s₀ s) :
    Keeps κ s₀ { s with colls := x0, tables := x1 } :=
  keeps_of hm hs fun p hp h => by cases p <;> first | exact h | cases hp
theorem upd_colls_tables_poison {x0 : Table Coll} {x1 : Table Tbl} {x2 : List Poison} (hm : 17221812224 &&& κ = 17221812224) (hs : Keeps κ s₀ s) :
    Keeps κ s₀ { s with colls := x0, tables := x1, poison := x2 } :=
  keeps_of hm hs fun p hp h => by cases p <;> first | exact h | cases hp
theorem upd_colls_tables_sec_poison {x0 : Table Coll} {x1 : Table Tbl} {x2 : Security} {x3 : List Poison} (hm : 21516779520 &&& κ = 21516779520) (hs : Keeps κ s₀ s) :
    Keeps κ s₀ { s with colls := x0, tables := x1, sec := x2, poison := x3 } :=
  keeps_of hm hs fun p hp h => by cases p <;> first | exact h | cases hp
theorem upd_contexts_nextLead {x0 : List (Nat × Nat)} {x1 : Nat} (hm : 26388279066624 &&& κ = 26388279066624) (hs : Keeps κ s₀ s) :
    Keeps κ s₀ { s with contexts := x0, nextLead := x1 } :=
  keeps_of hm hs fun p hp h => by cases p <;> first | exact h | cases hp
theorem upd_crook {x0 : Crook} (hm : 4194304 &&& κ = 4194304) (hs : Keeps κ s₀ s) :
    Keeps κ s₀ { s with crook := x0 } :=
  keeps_of hm hs fun p hp h => by cases p <;> first | exact h | cases hp
theorem upd_cst {x0 : Consort} (hm : 536870912 &&& κ = 536870912) (hs : Keeps κ s₀ s) :
    Keeps κ s₀ { s with cst := x0 } :=
  keeps_of hm hs fun p hp h => by cases p <;> first | exact h | cases hp
theorem upd_domains {x0 : Table Domain} (hm : 2097152 &&& κ = 2097152) (hs : Keeps κ s₀ s) :
    Keeps κ s₀ { s with domains := x0 } :=
  keeps_of hm hs fun p hp h => by cases p <;> first | exact h | cases hp
theorem upd_domains_colls {x0 : Table Domain} {x1 : Table Coll} (hm : 10485760 &&& κ = 10485760) (hs : Keeps κ s₀ s) :
    Keeps κ s₀ { s with domains := x0, colls := x1 } :=
  keeps_of hm hs fun p hp h => by cases p <;> first | exact h | cases hp
theorem upd_domains_colls_progs_tables {x0 : Table Domain} {x1 : Table Coll} {x2 : Table Prog} {x3 : Table Tbl} (hm : 60817408 &&& κ = 60817408) (hs : Keeps κ s₀ s) :
    Keeps κ s₀ { s with domains := x0, colls := x1, progs := x2, tables := x3 } :=
  keeps_of hm hs fun p hp h => by cases p <;> first | exact h | cases hp
theorem upd_domains_colls_tables {x0 : Table Domain} {x1 : Table Coll} {x2 : Table Tbl} (hm : 44040192 &&& κ = 44040192) (hs : Keeps κ s₀ s) :
    Keeps κ s₀ { s with domains := x0, colls := x1, tables := x2 } :=
  keeps_of hm hs fun p hp h => by cases p <;> first | exact h | cases hp
theorem upd_domains_progs {x0 : Table Domain} {x1 : Table Prog} (hm : 18874368 &&& κ = 18874368) (hs : Keeps κ s₀ s) :
    Keeps κ s₀ { s with domains := x0, progs := x1 } :=
  keeps_of hm hs fun p hp h => by cases p <;> first | exact h | cases hp
theorem upd_domains_tables {x0 : Table Domain} {x1 : Table Tbl} (hm : 35651584 &&& κ = 35651584) (hs : Keeps κ s₀ s) :
    Keeps κ s₀ { s with domains := x0, tables := x1 } :=
  keeps_of hm hs fun p hp h => by cases p <;> first | exact h | cases hp
theorem upd_engines {x0 : Table Engine} (hm : 134217728 &&& κ = 134217728) (hs : Keeps κ s₀ s) :
    Keeps κ s₀ { s with engines := x0 } :=
  keeps_of hm hs fun p hp h => by cases p <;> first | exact h | cases hp
theorem upd_evRings {x0 : Table Ring} (hm : 131072 &&& κ = 131072) (hs : Keeps κ s₀ s) :
    Keeps κ s₀ { s with evRings := x0 } :=
  keeps_of hm hs fun p hp h => by cases p <;> first | exact h | cases hp
theorem upd_hostMem {x0 : List Host.Cell} (hm : 16 &&& κ = 16) (hs : Keeps κ s₀ s) :
    Keeps κ s₀ { s with hostMem := x0 } :=
  keeps_of hm hs fun p hp h => by cases p <;> first | exact h | cases hp
theorem upd_lastUrg {x0 : Nat} (hm : 524288 &&& κ = 524288) (hs : Keeps κ s₀ s) :
    Keeps κ s₀ { s with lastUrg := x0 } :=
  keeps_of hm hs fun p hp h => by cases p <;> first | exact h | cases hp
theorem upd_latches {x0 : Table Word64} (hm : 128 &&& κ = 128) (hs : Keeps κ s₀ s) :
    Keeps κ s₀ { s with latches := x0 } :=
  keeps_of hm hs fun p hp h => by cases p <;> first | exact h | cases hp
theorem upd_ledgers {x0 : Table Rat} (hm : 1048576 &&& κ = 1048576) (hs : Keeps κ s₀ s) :
    Keeps κ s₀ { s with ledgers := x0 } :=
  keeps_of hm hs fun p hp h => by cases p <;> first | exact h | cases hp
theorem upd_msixPending {x0 : List Nat} (hm : 1024 &&& κ = 1024) (hs : Keeps κ s₀ s) :
    Keeps κ s₀ { s with msixPending := x0 } :=
  keeps_of hm hs fun p hp h => by cases p <;> first | exact h | cases hp
theorem upd_msixTable {x0 : Table (BitVec 32)} (hm : 512 &&& κ = 512) (hs : Keeps κ s₀ s) :
    Keeps κ s₀ { s with msixTable := x0 } :=
  keeps_of hm hs fun p hp h => by cases p <;> first | exact h | cases hp
theorem upd_msixTable_msixPending {x0 : Table (BitVec 32)} {x1 : List Nat} (hm : 1536 &&& κ = 1536) (hs : Keeps κ s₀ s) :
    Keeps κ s₀ { s with msixTable := x0, msixPending := x1 } :=
  keeps_of hm hs fun p hp h => by cases p <;> first | exact h | cases hp
theorem upd_msixTable_msixPending_windows_queues_rings_evRings_classes_lastUrg {x0 : Table (BitVec 32)} {x1 : List Nat} {x2 : List Host.Cell} {x3 : Table Queue} {x4 : Table Ring} {x5 : Table Ring} {x6 : List Cls} {x7 : Nat} (hm : 990720 &&& κ = 990720) (hs : Keeps κ s₀ s) :
    Keeps κ s₀ { s with msixTable := x0, msixPending := x1, windows := x2, queues := x3, rings := x4, evRings := x5, classes := x6, lastUrg := x7 } :=
  keeps_of hm hs fun p hp h => by cases p <;> first | exact h | cases hp
theorem upd_now {x0 : Nat} (hm : 2 &&& κ = 2) (hs : Keeps κ s₀ s) :
    Keeps κ s₀ { s with now := x0 } :=
  keeps_of hm hs fun p hp h => by cases p <;> first | exact h | cases hp
theorem upd_outbox {x0 : List Out} (hm : 8 &&& κ = 8) (hs : Keeps κ s₀ s) :
    Keeps κ s₀ { s with outbox := x0 } :=
  keeps_of hm hs fun p hp h => by cases p <;> first | exact h | cases hp
theorem upd_parityCells {x0 : List Nat} (hm : 549755813888 &&& κ = 549755813888) (hs : Keeps κ s₀ s) :
    Keeps κ s₀ { s with parityCells := x0 } :=
  keeps_of hm hs fun p hp h => by cases p <;> first | exact h | cases hp
theorem upd_pins {x0 : Pins} (hm : 8589934592 &&& κ = 8589934592) (hs : Keeps κ s₀ s) :
    Keeps κ s₀ { s with pins := x0 } :=
  keeps_of hm hs fun p hp h => by cases p <;> first | exact h | cases hp
theorem upd_poison {x0 : List Poison} (hm : 17179869184 &&& κ = 17179869184) (hs : Keeps κ s₀ s) :
    Keeps κ s₀ { s with poison := x0 } :=
  keeps_of hm hs fun p hp h => by cases p <;> first | exact h | cases hp
theorem upd_progs {x0 : Table Prog} (hm : 16777216 &&& κ = 16777216) (hs : Keeps κ s₀ s) :
    Keeps κ s₀ { s with progs := x0 } :=
  keeps_of hm hs fun p hp h => by cases p <;> first | exact h | cases hp
theorem upd_progs_tables {x0 : Table Prog} {x1 : Table Tbl} (hm : 50331648 &&& κ = 50331648) (hs : Keeps κ s₀ s) :
    Keeps κ s₀ { s with progs := x0, tables := x1 } :=
  keeps_of hm hs fun p hp h => by cases p <;> first | exact h | cases hp
theorem upd_queues {x0 : Table Queue} (hm : 4096 &&& κ = 4096) (hs : Keeps κ s₀ s) :
    Keeps κ s₀ { s with queues := x0 } :=
  keeps_of hm hs fun p hp h => by cases p <;> first | exact h | cases hp
theorem upd_queues_cmds_nextCmd {x0 : Table Queue} {x1 : List Cmd} {x2 : Nat} (hm : 28672 &&& κ = 28672) (hs : Keeps κ s₀ s) :
    Keeps κ s₀ { s with queues := x0, cmds := x1, nextCmd := x2 } :=
  keeps_of hm hs fun p hp h => by cases p <;> first | exact h | cases hp
theorem upd_queues_nextCmd {x0 : Table Queue} {x1 : Nat} (hm : 20480 &&& κ = 20480) (hs : Keeps κ s₀ s) :
    Keeps κ s₀ { s with queues := x0, nextCmd := x1 } :=
  keeps_of hm hs fun p hp h => by cases p <;> first | exact h | cases hp
theorem upd_regs {x0 : Table Word64} (hm : 64 &&& κ = 64) (hs : Keeps κ s₀ s) :
    Keeps κ s₀ { s with regs := x0 } :=
  keeps_of hm hs fun p hp h => by cases p <;> first | exact h | cases hp
theorem upd_regs_latches_srings_engines_parityCells_accs_accSet_contexts_nextLead {x0 : Table Word64} {x1 : Table Word64} {x2 : List SRing} {x3 : Table Engine} {x4 : List Nat} {x5 : Table Acc} {x6 : Table Nat} {x7 : List (Nat × Nat)} {x8 : Nat} (hm : 30236771090624 &&& κ = 30236771090624) (hs : Keeps κ s₀ s) :
    Keeps κ s₀ { s with regs := x0, latches := x1, srings := x2, engines := x3, parityCells := x4, accs := x5, accSet := x6, contexts := x7, nextLead := x8 } :=
  keeps_of hm hs fun p hp h => by cases p <;> first | exact h | cases hp
theorem upd_regs_msixTable_msixPending {x0 : Table Word64} {x1 : Table (BitVec 32)} {x2 : List Nat} (hm : 1600 &&& κ = 1600) (hs : Keeps κ s₀ s) :
    Keeps κ s₀ { s with regs := x0, msixTable := x1, msixPending := x2 } :=
  keeps_of hm hs fun p hp h => by cases p <;> first | exact h | cases hp
theorem upd_regs_msixTable_msixPending_windows_queues_rings_evRings_classes_lastUrg {x0 : Table Word64} {x1 : Table (BitVec 32)} {x2 : List Nat} {x3 : List Host.Cell} {x4 : Table Queue} {x5 : Table Ring} {x6 : Table Ring} {x7 : List Cls} {x8 : Nat} (hm : 990784 &&& κ = 990784) (hs : Keeps κ s₀ s) :
    Keeps κ s₀ { s with regs := x0, msixTable := x1, msixPending := x2, windows := x3, queues := x4, rings := x5, evRings := x6, classes := x7, lastUrg := x8 } :=
  keeps_of hm hs fun p hp h => by cases p <;> first | exact h | cases hp
theorem upd_regs_service {x0 : Table Word64} {x1 : Table Nat} (hm : 320 &&& κ = 320) (hs : Keeps κ s₀ s) :
    Keeps κ s₀ { s with regs := x0, service := x1 } :=
  keeps_of hm hs fun p hp h => by cases p <;> first | exact h | cases hp
theorem upd_regs_service_chn {x0 : Table Word64} {x1 : Table Nat} {x2 : Chanter} (hm : 2147483968 &&& κ = 2147483968) (hs : Keeps κ s₀ s) :
    Keeps κ s₀ { s with regs := x0, service := x1, chn := x2 } :=
  keeps_of hm hs fun p hp h => by cases p <;> first | exact h | cases hp
theorem upd_reports {x0 : List (Nat × Cmd)} (hm : 32768 &&& κ = 32768) (hs : Keeps κ s₀ s) :
    Keeps κ s₀ { s with reports := x0 } :=
  keeps_of hm hs fun p hp h => by cases p <;> first | exact h | cases hp
theorem upd_rings {x0 : Table Ring} (hm : 65536 &&& κ = 65536) (hs : Keeps κ s₀ s) :
    Keeps κ s₀ { s with rings := x0 } :=
  keeps_of hm hs fun p hp h => by cases p <;> first | exact h | cases hp
theorem upd_rowCorrected {x0 : Table (List Nat)} (hm : 68719476736 &&& κ = 68719476736) (hs : Keeps κ s₀ s) :
    Keeps κ s₀ { s with rowCorrected := x0 } :=
  keeps_of hm hs fun p hp h => by cases p <;> first | exact h | cases hp
theorem upd_rowsMarked {x0 : List (Nat × Nat × Nat)} (hm : 34359738368 &&& κ = 34359738368) (hs : Keeps κ s₀ s) :
    Keeps κ s₀ { s with rowsMarked := x0 } :=
  keeps_of hm hs fun p hp h => by cases p <;> first | exact h | cases hp
theorem upd_rowsMarked_rowCorrected {x0 : List (Nat × Nat × Nat)} {x1 : Table (List Nat)} (hm : 103079215104 &&& κ = 103079215104) (hs : Keeps κ s₀ s) :
    Keeps κ s₀ { s with rowsMarked := x0, rowCorrected := x1 } :=
  keeps_of hm hs fun p hp h => by cases p <;> first | exact h | cases hp
theorem upd_sec {x0 : Security} (hm : 4294967296 &&& κ = 4294967296) (hs : Keeps κ s₀ s) :
    Keeps κ s₀ { s with sec := x0 } :=
  keeps_of hm hs fun p hp h => by cases p <;> first | exact h | cases hp
theorem upd_service {x0 : Table Nat} (hm : 256 &&& κ = 256) (hs : Keeps κ s₀ s) :
    Keeps κ s₀ { s with service := x0 } :=
  keeps_of hm hs fun p hp h => by cases p <;> first | exact h | cases hp
theorem upd_srings {x0 : List SRing} (hm : 67108864 &&& κ = 67108864) (hs : Keeps κ s₀ s) :
    Keeps κ s₀ { s with srings := x0 } :=
  keeps_of hm hs fun p hp h => by cases p <;> first | exact h | cases hp
theorem upd_tables {x0 : Table Tbl} (hm : 33554432 &&& κ = 33554432) (hs : Keeps κ s₀ s) :
    Keeps κ s₀ { s with tables := x0 } :=
  keeps_of hm hs fun p hp h => by cases p <;> first | exact h | cases hp
theorem upd_tierLow {x0 : List Nat} (hm : 274877906944 &&& κ = 274877906944) (hs : Keeps κ s₀ s) :
    Keeps κ s₀ { s with tierLow := x0 } :=
  keeps_of hm hs fun p hp h => by cases p <;> first | exact h | cases hp
theorem upd_tod {x0 : Option (Nat × Nat)} (hm : 4 &&& κ = 4) (hs : Keeps κ s₀ s) :
    Keeps κ s₀ { s with tod := x0 } :=
  keeps_of hm hs fun p hp h => by cases p <;> first | exact h | cases hp
theorem upd_unitCorrected {x0 : Table (List Nat)} (hm : 137438953472 &&& κ = 137438953472) (hs : Keeps κ s₀ s) :
    Keeps κ s₀ { s with unitCorrected := x0 } :=
  keeps_of hm hs fun p hp h => by cases p <;> first | exact h | cases hp
theorem upd_windows {x0 : List Host.Cell} (hm : 2048 &&& κ = 2048) (hs : Keeps κ s₀ s) :
    Keeps κ s₀ { s with windows := x0 } :=
  keeps_of hm hs fun p hp h => by cases p <;> first | exact h | cases hp

end Sys2Proof.Machine
end

