-- ==== Sys2Proof/Laws/FramesOps.lean ====
section
/-! SUPPORT. The parts of the state that the functions of Machine/Ops.lean may write. -/

namespace Sys2Proof.Machine

variable {κ : Nat} {s₀ : State}

theorem regSet_keeps {o : Nat} {v : Word64} {s : State} (hm : 64 &&& κ = 64)  (hs : (Keeps κ s₀) s) : (Keeps κ s₀) (regSet o v s) := by
  unfold regSet
  repeat' first
    | with_reducible assumption
    | with_reducible intro _
    | split
    | (dsimp only)
    | with_reducible refine upd_regs hm ?_

theorem bumpSat_keeps {o : Nat} {lo : Nat} {w : Nat} {n : Nat} {s : State} (hm : 64 &&& κ = 64)  (hs : (Keeps κ s₀) s) : (Keeps κ s₀) (bumpSat o lo w n s) := by
  unfold bumpSat
  repeat' first
    | with_reducible assumption
    | with_reducible intro _
    | with_reducible refine inv_ite ?_ ?_
    | split
    | with_reducible refine regSet_keeps hm ?_

theorem bumpWrap_keeps {o : Nat} {lo : Nat} {w : Nat} {n : Nat} {s : State} (hm : 64 &&& κ = 64)  (hs : (Keeps κ s₀) s) : (Keeps κ s₀) (bumpWrap o lo w n s) := by
  unfold bumpWrap
  repeat' first
    | with_reducible assumption
    | with_reducible intro _
    | split
    | with_reducible refine regSet_keeps hm ?_

theorem regField_keeps {o : Nat} {hi : Nat} {lo : Nat} {v : Nat} {s : State} (hm : 64 &&& κ = 64)  (hs : (Keeps κ s₀) s) : (Keeps κ s₀) (regField o hi lo v s) := by
  unfold regField
  repeat' first
    | with_reducible assumption
    | with_reducible intro _
    | split
    | with_reducible refine regSet_keeps hm ?_

theorem blkFault_keeps {p : Nat} {bitNo : Nat} {addr : Word64} {info : Word64} {s : State} (hm : 192 &&& κ = 192)  (hs : (Keeps κ s₀) s) : (Keeps κ s₀) (blkFault p bitNo addr info s) := by
  have u0 : 128 &&& κ = 128 := sub_mask (by decide) hm
  have u1 : 64 &&& κ = 64 := sub_mask (by decide) hm
  unfold blkFault
  repeat' first
    | with_reducible assumption
    | with_reducible intro _
    | with_reducible refine inv_ite ?_ ?_
    | split
    | with_reducible refine regSet_keeps u1 ?_
    | (dsimp only)
    | with_reducible refine upd_latches u0 ?_

theorem blkErrClear_keeps {p : Nat} {v : Word64} {s : State} (hm : 192 &&& κ = 192)  (hs : (Keeps κ s₀) s) : (Keeps κ s₀) (blkErrClear p v s) := by
  have u0 : 128 &&& κ = 128 := sub_mask (by decide) hm
  have u1 : 64 &&& κ = 64 := sub_mask (by decide) hm
  unfold blkErrClear
  repeat' first
    | with_reducible assumption
    | with_reducible intro _
    | with_reducible refine inv_ite ?_ ?_
    | split
    | with_reducible refine regSet_keeps u1 ?_
    | (dsimp only)
    | with_reducible refine upd_latches u0 ?_

theorem emit_keeps {o : Out} {s : State} (hm : 8 &&& κ = 8)  (hs : (Keeps κ s₀) s) : (Keeps κ s₀) (emit o s) := by
  unfold emit
  repeat' first
    | with_reducible assumption
    | with_reducible intro _
    | split
    | (dsimp only)
    | with_reducible refine upd_outbox hm ?_

theorem sendMsix_keeps {v : Nat} {s : State} (hm : 1032 &&& κ = 1032)  (hs : (Keeps κ s₀) s) : (Keeps κ s₀) (sendMsix v s) := by
  have u0 : 1024 &&& κ = 1024 := sub_mask (by decide) hm
  have u1 : 8 &&& κ = 8 := sub_mask (by decide) hm
  unfold sendMsix
  repeat' first
    | with_reducible assumption
    | with_reducible intro _
    | with_reducible refine inv_ite ?_ ?_
    | split
    | with_reducible refine emit_keeps u1 ?_
    | (dsimp only)
    | with_reducible refine upd_msixPending u0 ?_

theorem sendOut_keeps {peer : Nat} {m : OutMsg} {s : State} (hm : 536870920 &&& κ = 536870920)  (hs : (Keeps κ s₀) s) : (Keeps κ s₀) (sendOut peer m s) := by
  have u0 : 536870912 &&& κ = 536870912 := sub_mask (by decide) hm
  have u1 : 8 &&& κ = 8 := sub_mask (by decide) hm
  unfold sendOut
  repeat' first
    | with_reducible assumption
    | with_reducible intro _
    | split
    | with_reducible refine emit_keeps u1 ?_
    | (dsimp only)
    | with_reducible refine upd_cst u0 ?_

theorem flushMsgs_keeps {peer : Nat} {y0 : Nat} {y1 : State} (hm : 536870920 &&& κ = 536870920)  (hy1 : (Keeps κ s₀) y1) : (Keeps κ s₀) (flushMsgs peer y0 y1) := by
  have u0 : 536870912 &&& κ = 536870912 := sub_mask (by decide) hm
  induction y0 generalizing peer y1 with
  | zero =>
    unfold flushMsgs
    repeat' first
      | with_reducible assumption
  | succ n ih =>
    unfold flushMsgs
    repeat' first
      | with_reducible assumption
      | with_reducible intro _
      | with_reducible refine inv_ite ?_ ?_
      | split
      | with_reducible apply ih
      | with_reducible refine sendOut_keeps hm ?_
      | (dsimp only)
      | with_reducible refine upd_cst u0 ?_

theorem sendMsg_keeps {peer : Nat} {kind : Nat} {bnd : Bool} {hdr : Word64} {body : List Byte} {s : State} (hm : 536870920 &&& κ = 536870920)  (hs : (Keeps κ s₀) s) : (Keeps κ s₀) (sendMsg peer kind bnd hdr body s) := by
  have u0 : 536870912 &&& κ = 536870912 := sub_mask (by decide) hm
  unfold sendMsg
  repeat' first
    | with_reducible assumption
    | with_reducible intro _
    | split
    | with_reducible refine flushMsgs_keeps hm ?_
    | (dsimp only)
    | with_reducible refine upd_cst u0 ?_

theorem setEvRing_keeps {e : Nat} {r : Ring} {s : State} (hm : 131072 &&& κ = 131072)  (hs : (Keeps κ s₀) s) : (Keeps κ s₀) (setEvRing e r s) := by
  unfold setEvRing
  repeat' first
    | with_reducible assumption
    | with_reducible intro _
    | split
    | (dsimp only)
    | with_reducible refine upd_evRings hm ?_

theorem loseEvent_keeps {e : Nat} {s : State} (hm : 131136 &&& κ = 131136)  (hs : (Keeps κ s₀) s) : (Keeps κ s₀) (loseEvent e s) := by
  have u0 : 64 &&& κ = 64 := sub_mask (by decide) hm
  have u1 : 131072 &&& κ = 131072 := sub_mask (by decide) hm
  unfold loseEvent
  repeat' first
    | with_reducible assumption
    | with_reducible intro _
    | split
    | with_reducible refine bumpSat_keeps u0 ?_
    | with_reducible refine setEvRing_keeps u1 ?_

theorem dueEvent_keeps {ev : Ev} {e : Nat} {s : State} (hm : 131136 &&& κ = 131136)  (hs : (Keeps κ s₀) s) : (Keeps κ s₀) (dueEvent ev e s) := by
  have u0 : 131072 &&& κ = 131072 := sub_mask (by decide) hm
  unfold dueEvent
  repeat' first
    | with_reducible assumption
    | with_reducible intro _
    | with_reducible refine inv_ite ?_ ?_
    | split
    | with_reducible refine setEvRing_keeps u0 ?_
    | with_reducible refine loseEvent_keeps hm ?_

theorem evToPeer_keeps {ev : Ev} {peer : Nat} {s : State} (hm : 536870912 &&& κ = 536870912)  (hs : (Keeps κ s₀) s) : (Keeps κ s₀) (evToPeer ev peer s) := by
  unfold evToPeer
  repeat' first
    | with_reducible assumption
    | with_reducible intro _
    | with_reducible refine inv_ite ?_ ?_
    | split
    | (dsimp only)
    | with_reducible refine upd_cst hm ?_

theorem postEvent_keeps {ev : Ev} {s : State} (hm : 537002048 &&& κ = 537002048)  (hs : (Keeps κ s₀) s) : (Keeps κ s₀) (postEvent ev s) := by
  have u0 : 131136 &&& κ = 131136 := sub_mask (by decide) hm
  have u1 : 536870912 &&& κ = 536870912 := sub_mask (by decide) hm
  unfold postEvent
  repeat' first
    | with_reducible assumption
    | with_reducible intro _
    | split
    | with_reducible refine inv_foldl ?_ ?_
    | with_reducible refine dueEvent_keeps u0 ?_
    | with_reducible refine evToPeer_keeps u1 ?_

theorem logEvent_keeps {ev : Ev} {s : State} (hm : 2147483648 &&& κ = 2147483648)  (hs : (Keeps κ s₀) s) : (Keeps κ s₀) (logEvent ev s) := by
  unfold logEvent
  repeat' first
    | with_reducible assumption
    | with_reducible intro _
    | with_reducible refine inv_ite ?_ ?_
    | split
    | (dsimp only)
    | with_reducible refine upd_chn hm ?_

theorem latchEvent_keeps {ev : Ev} {s : State} (hm : 64 &&& κ = 64)  (hs : (Keeps κ s₀) s) : (Keeps κ s₀) (latchEvent ev s) := by
  unfold latchEvent
  repeat' first
    | with_reducible assumption
    | with_reducible intro _
    | with_reducible refine inv_ite ?_ ?_
    | split
    | with_reducible refine regSet_keeps hm ?_

theorem tellPldm_keeps {ev : Ev} {s : State} (hm : 8 &&& κ = 8)  (hs : (Keeps κ s₀) s) : (Keeps κ s₀) (tellPldm ev s) := by
  unfold tellPldm
  repeat' first
    | with_reducible assumption
    | with_reducible intro _
    | with_reducible refine inv_ite ?_ ?_
    | split
    | with_reducible refine emit_keeps hm ?_

theorem raiseAs_keeps {b : Blk} {ev : Ev} {logged : Ev → Ev} {s : State} (hm : 2684485704 &&& κ = 2684485704)  (hs : (Keeps κ s₀) s) : (Keeps κ s₀) (raiseAs b ev logged s) := by
  have u0 : 2147483648 &&& κ = 2147483648 := sub_mask (by decide) hm
  have u1 : 131136 &&& κ = 131136 := sub_mask (by decide) hm
  have u2 : 537002048 &&& κ = 537002048 := sub_mask (by decide) hm
  have u3 : 64 &&& κ = 64 := sub_mask (by decide) hm
  have u4 : 8 &&& κ = 8 := sub_mask (by decide) hm
  unfold raiseAs
  repeat' first
    | with_reducible assumption
    | with_reducible intro _
    | with_reducible refine inv_ite ?_ ?_
    | split
    | with_reducible refine inv_foldl ?_ ?_
    | with_reducible refine loseEvent_keeps u1 ?_
    | with_reducible refine postEvent_keeps u2 ?_
    | with_reducible refine logEvent_keeps u0 ?_
    | with_reducible refine latchEvent_keeps u3 ?_
    | with_reducible refine tellPldm_keeps u4 ?_
    | (dsimp only)
    | with_reducible refine upd_chn u0 ?_

theorem raise_keeps {b : Blk} {ev : Ev} {s : State} (hm : 2684485704 &&& κ = 2684485704)  (hs : (Keeps κ s₀) s) : (Keeps κ s₀) (raise b ev s) := by
  unfold raise
  repeat' first
    | with_reducible assumption
    | with_reducible intro _
    | split
    | with_reducible refine raiseAs_keeps hm ?_

theorem raiseFault_keeps {b : Blk} {page : Nat} {bitNo : Nat} {ev : Ev} {s : State} (hm : 2684485832 &&& κ = 2684485832)  (hs : (Keeps κ s₀) s) : (Keeps κ s₀) (raiseFault b page bitNo ev s) := by
  have u0 : 192 &&& κ = 192 := sub_mask (by decide) hm
  have u1 : 2684485704 &&& κ = 2684485704 := sub_mask (by decide) hm
  unfold raiseFault
  repeat' first
    | with_reducible assumption
    | with_reducible intro _
    | split
    | with_reducible refine blkFault_keeps u0 ?_
    | with_reducible refine raise_keeps u1 ?_

theorem violation_keeps {kind : Nat} {addr : Word64} {size : Nat} {read : Bool} {ring : Nat} {evr : Bool} {s : State} (hm : 2684485832 &&& κ = 2684485832)  (hs : (Keeps κ s₀) s) : (Keeps κ s₀) (violation kind addr size read ring evr s) := by
  have u0 : 192 &&& κ = 192 := sub_mask (by decide) hm
  have u1 : 8 &&& κ = 8 := sub_mask (by decide) hm
  have u2 : 2684485704 &&& κ = 2684485704 := sub_mask (by decide) hm
  unfold violation
  repeat' first
    | with_reducible assumption
    | with_reducible intro _
    | with_reducible refine inv_ite ?_ ?_
    | split
    | with_reducible refine blkFault_keeps u0 ?_
    | with_reducible refine emit_keeps u1 ?_
    | with_reducible refine raise_keeps u2 ?_

theorem advanceEpoch_keeps {s : State} (hm : 2147483648 &&& κ = 2147483648)  (hs : (Keeps κ s₀) s) : (Keeps κ s₀) (advanceEpoch s) := by
  unfold advanceEpoch
  repeat' first
    | with_reducible assumption
    | with_reducible intro _
    | split
    | (dsimp only)
    | with_reducible refine upd_chn hm ?_

theorem setMode_keeps {m : Mode} {s : State} (hm : 2684485704 &&& κ = 2684485704)  (hs : (Keeps κ s₀) s) : (Keeps κ s₀) (setMode m s) := by
  have u0 : 2147483648 &&& κ = 2147483648 := sub_mask (by decide) hm
  unfold setMode
  repeat' first
    | with_reducible assumption
    | with_reducible intro _
    | with_reducible refine inv_ite ?_ ?_
    | split
    | with_reducible refine raise_keeps hm ?_
    | with_reducible refine advanceEpoch_keeps u0 ?_
    | (dsimp only)
    | with_reducible refine upd_chn u0 ?_

theorem cmdMod_keeps {c : Nat} {f : Cmd → Cmd} {s : State} (hm : 8192 &&& κ = 8192)  (hs : (Keeps κ s₀) s) : (Keeps κ s₀) (cmdMod c f s) := by
  unfold cmdMod
  repeat' first
    | with_reducible assumption
    | with_reducible intro _
    | with_reducible refine inv_ite ?_ ?_
    | split
    | (dsimp only)
    | with_reducible refine upd_cmds hm ?_

theorem cmdPut_keeps {x : Cmd} {s : State} (hm : 8192 &&& κ = 8192)  (hs : (Keeps κ s₀) s) : (Keeps κ s₀) (cmdPut x s) := by
  unfold cmdPut
  repeat' first
    | with_reducible assumption
    | with_reducible intro _
    | split
    | with_reducible refine cmdMod_keeps hm ?_

theorem setWork_keeps {c : Nat} {w : Work} {s : State} (hm : 8192 &&& κ = 8192)  (hs : (Keeps κ s₀) s) : (Keeps κ s₀) (setWork c w s) := by
  unfold setWork
  repeat' first
    | with_reducible assumption
    | with_reducible intro _
    | split
    | with_reducible refine cmdMod_keeps hm ?_

theorem noteStage_keeps {c : Nat} {n : Nat} {s : State} (hm : 8192 &&& κ = 8192)  (hs : (Keeps κ s₀) s) : (Keeps κ s₀) (noteStage c n s) := by
  unfold noteStage
  repeat' first
    | with_reducible assumption
    | with_reducible intro _
    | split
    | with_reducible refine cmdMod_keeps hm ?_

theorem setBell_keeps {c : Nat} {b : BellUnit} {s : State} (hm : 4398046511104 &&& κ = 4398046511104)  (hs : (Keeps κ s₀) s) : (Keeps κ s₀) (setBell c b s) := by
  unfold setBell
  repeat' first
    | with_reducible assumption
    | with_reducible intro _
    | split
    | (dsimp only)
    | with_reducible refine upd_bells hm ?_

theorem freeTiles_keeps {x : Nat} {s : State} (hm : 4398046511104 &&& κ = 4398046511104)  (hs : (Keeps κ s₀) s) : (Keeps κ s₀) (freeTiles x s) := by
  unfold freeTiles
  repeat' first
    | with_reducible assumption
    | with_reducible intro _
    | split
    | (dsimp only)
    | with_reducible refine upd_bells hm ?_

theorem clearBell_keeps {c : Nat} {s : State} (hm : 4398046511104 &&& κ = 4398046511104)  (hs : (Keeps κ s₀) s) : (Keeps κ s₀) (clearBell c s) := by
  unfold clearBell
  repeat' first
    | with_reducible assumption
    | with_reducible intro _
    | split
    | (dsimp only)
    | with_reducible refine upd_bells hm ?_

theorem collMod_keeps {h : Nat} {f : Coll → Coll} {s : State} (hm : 8388608 &&& κ = 8388608)  (hs : (Keeps κ s₀) s) : (Keeps κ s₀) (collMod h f s) := by
  unfold collMod
  repeat' first
    | with_reducible assumption
    | with_reducible intro _
    | split
    | (dsimp only)
    | with_reducible refine upd_colls hm ?_

theorem domMod_keeps {d : Nat} {f : Domain → Domain} {s : State} (hm : 2097152 &&& κ = 2097152)  (hs : (Keeps κ s₀) s) : (Keeps κ s₀) (domMod d f s) := by
  unfold domMod
  repeat' first
    | with_reducible assumption
    | with_reducible intro _
    | split
    | (dsimp only)
    | with_reducible refine upd_domains hm ?_

theorem peerMod_keeps {p : Nat} {f : Peer → Peer} {s : State} (hm : 536870912 &&& κ = 536870912)  (hs : (Keeps κ s₀) s) : (Keeps κ s₀) (peerMod p f s) := by
  unfold peerMod
  repeat' first
    | with_reducible assumption
    | with_reducible intro _
    | split
    | (dsimp only)
    | with_reducible refine upd_cst hm ?_

theorem idle_keeps {s : State} (hm : 2 &&& κ = 2)  (hs : (Keeps κ s₀) s) : (Keeps κ s₀) (idle s) := by
  unfold idle
  repeat' first
    | with_reducible assumption
    | with_reducible intro _
    | split
    | (dsimp only)
    | with_reducible refine upd_now hm ?_

end Sys2Proof.Machine
end

