-- ==== Sys2Proof/Laws/FramesXlat.lean ====
section
/-! SUPPORT. The parts of the state that the functions of Machine/Xlat.lean may write. -/

namespace Sys2Proof.Machine

variable {κ : Nat} {s₀ : State}

theorem cacheTouch_keeps {e : CacheEntry} {s : State} (hm : 4194304 &&& κ = 4194304)  (hs : (Keeps κ s₀) s) : (Keeps κ s₀) (cacheTouch e s) := by
  unfold cacheTouch
  repeat' first
    | with_reducible assumption
    | with_reducible intro _
    | split
    | (dsimp only)
    | with_reducible refine upd_crook hm ?_

theorem crookMod_keeps {f : Crook → Crook} {s : State} (hm : 4194304 &&& κ = 4194304)  (hs : (Keeps κ s₀) s) : (Keeps κ s₀) (crookMod f s) := by
  unfold crookMod
  repeat' first
    | with_reducible assumption
    | with_reducible intro _
    | split
    | (dsimp only)
    | with_reducible refine upd_crook hm ?_

theorem askPage_keeps {d : Nat} {page : Nat} {write : Bool} {s : State} (hm : 4194376 &&& κ = 4194376)  (hs : (Keeps κ s₀) s) : (Keeps κ s₀) (askPage d page write s) := by
  have u0 : 64 &&& κ = 64 := sub_mask (by decide) hm
  have u1 : 8 &&& κ = 8 := sub_mask (by decide) hm
  have u2 : 4194304 &&& κ = 4194304 := sub_mask (by decide) hm
  unfold askPage
  repeat' first
    | with_reducible assumption
    | with_reducible intro _
    | split
    | with_reducible refine bumpWrap_keeps u0 ?_
    | with_reducible refine emit_keeps u1 ?_
    | with_reducible refine crookMod_keeps u2 ?_

theorem fill_keeps {w : Who} {r : Region} {boot : Bool} {va : Nat} {write : Bool} {s : State} (hm : 4194376 &&& κ = 4194376)  (hs : (Keeps κ s₀) s) : (Keeps κ s₀) (fill w r boot va write s).2 := by
  have u0 : 64 &&& κ = 64 := sub_mask (by decide) hm
  have u1 : 8 &&& κ = 8 := sub_mask (by decide) hm
  have u2 : 4194304 &&& κ = 4194304 := sub_mask (by decide) hm
  unfold fill
  repeat' first
    | with_reducible assumption
    | with_reducible intro _
    | with_reducible refine snd_ite ?_ ?_
    | with_reducible refine inv_ite ?_ ?_
    | split
    | with_reducible refine bumpWrap_keeps u0 ?_
    | with_reducible refine emit_keeps u1 ?_
    | with_reducible refine crookMod_keeps u2 ?_
    | with_reducible refine askPage_keeps hm ?_
    | (dsimp only)

theorem translate_keeps {w : Who} {va : Nat} {write : Bool} {s : State} (hm : 4194376 &&& κ = 4194376)  (hs : (Keeps κ s₀) s) : (Keeps κ s₀) (translate w va write s).2 := by
  have u0 : 64 &&& κ = 64 := sub_mask (by decide) hm
  have u1 : 4194304 &&& κ = 4194304 := sub_mask (by decide) hm
  unfold translate
  repeat' first
    | with_reducible assumption
    | with_reducible intro _
    | with_reducible refine snd_ite ?_ ?_
    | with_reducible refine inv_ite ?_ ?_
    | split
    | with_reducible refine bumpWrap_keeps u0 ?_
    | with_reducible refine cacheTouch_keeps u1 ?_
    | with_reducible refine fill_keeps hm ?_

theorem xlatRange_keeps {w : Who} {write : Bool} {y0 : Nat} {y1 : Nat} {y2 : Nat} {y3 : State} (hm : 4194376 &&& κ = 4194376)  (hy3 : (Keeps κ s₀) y3) : ResInv (Keeps κ s₀) (xlatRange w write y0 y1 y2 y3) := by
  have u0 : 64 &&& κ = 64 := sub_mask (by decide) hm
  induction y0 generalizing w write y1 y2 y3 with
  | zero =>
    unfold xlatRange
    repeat' first
      | with_reducible assumption
      | with_reducible intro _
      | with_reducible refine res_ite ?_ ?_
      | with_reducible refine inv_ite ?_ ?_
      | with_reducible apply ok_inv
  | succ n ih =>
    unfold xlatRange
    repeat' first
      | with_reducible assumption
      | with_reducible intro _
      | with_reducible refine res_ite ?_ ?_
      | with_reducible refine inv_ite ?_ ?_
      | with_reducible apply ok_inv
      | with_reducible apply fail_inv
      | with_reducible apply wait_inv
      | split
      | with_reducible apply ih
      | with_reducible refine bumpSat_keeps u0 ?_
      | with_reducible refine translate_keeps hm ?_
      | refine inv_snd (by with_reducible assumption) ?_
      | refine res_ok (by with_reducible assumption) ?_
      | refine res_fail (by with_reducible assumption) ?_
      | refine res_wait (by with_reducible assumption) ?_
      | (dsimp only)

theorem readRemote_keeps {c : Nat} {va : Nat} {n : Nat} {s : State} (hm : 0 &&& κ = 0)  (hs : (Keeps κ s₀) s) : ResInv (Keeps κ s₀) (readRemote c va n s) := by
  unfold readRemote
  repeat' first
    | with_reducible assumption
    | with_reducible intro _
    | with_reducible apply ok_inv
    | with_reducible apply fail_inv
    | with_reducible apply wait_inv
    | split
    | (dsimp only)

theorem writeRemote_keeps {c : Nat} {va : Nat} {bs : List Byte} {s : State} (hm : 8192 &&& κ = 8192)  (hs : (Keeps κ s₀) s) : ResInv (Keeps κ s₀) (writeRemote c va bs s) := by
  unfold writeRemote
  repeat' first
    | with_reducible assumption
    | with_reducible intro _
    | with_reducible apply ok_inv
    | with_reducible apply fail_inv
    | with_reducible apply wait_inv
    | split
    | with_reducible refine cmdMod_keeps hm ?_

theorem readDev_keeps {w : Who} {va : Nat} {n : Nat} {s : State} (hm : 4194376 &&& κ = 4194376)  (hs : (Keeps κ s₀) s) : ResInv (Keeps κ s₀) (readDev w va n s) := by
  have u1 : 0 &&& κ = 0 := sub_mask (by decide) hm
  unfold readDev
  repeat' first
    | with_reducible assumption
    | with_reducible intro _
    | with_reducible refine res_ite ?_ ?_
    | with_reducible refine inv_ite ?_ ?_
    | with_reducible apply ok_inv
    | with_reducible apply fail_inv
    | with_reducible apply wait_inv
    | split
    | with_reducible refine res_andThen ?_ ?_
    | with_reducible refine xlatRange_keeps hm ?_
    | with_reducible refine readRemote_keeps u1 ?_

theorem writePieces_keeps {y0 : List (Nat × Nat)} {y1 : List Byte} {y2 : State} (hm : 16 &&& κ = 16)  (hy2 : (Keeps κ s₀) y2) : (Keeps κ s₀) (writePieces y0 y1 y2) := by
  induction y0 generalizing y1 y2 with
  | nil =>
    unfold writePieces
    repeat' first
      | with_reducible assumption
  | cons a t ih =>
    unfold writePieces
    repeat' first
      | with_reducible assumption
      | with_reducible intro _
      | split
      | with_reducible apply ih
      | (dsimp only)
      | with_reducible refine upd_hostMem hm ?_

theorem writeDev_keeps {w : Who} {va : Nat} {bs : List Byte} {s : State} (hm : 4202584 &&& κ = 4202584)  (hs : (Keeps κ s₀) s) : ResInv (Keeps κ s₀) (writeDev w va bs s) := by
  have u0 : 4194376 &&& κ = 4194376 := sub_mask (by decide) hm
  have u1 : 8192 &&& κ = 8192 := sub_mask (by decide) hm
  have u2 : 16 &&& κ = 16 := sub_mask (by decide) hm
  unfold writeDev
  repeat' first
    | with_reducible assumption
    | with_reducible intro _
    | with_reducible refine res_ite ?_ ?_
    | with_reducible refine inv_ite ?_ ?_
    | with_reducible apply ok_inv
    | with_reducible apply fail_inv
    | with_reducible apply wait_inv
    | split
    | with_reducible refine res_andThen ?_ ?_
    | with_reducible refine xlatRange_keeps u0 ?_
    | with_reducible refine writeRemote_keeps u1 ?_
    | with_reducible refine writePieces_keeps u2 ?_

theorem checkWrite_keeps {w : Who} {va : Nat} {n : Nat} {s : State} (hm : 4194376 &&& κ = 4194376)  (hs : (Keeps κ s₀) s) : ResInv (Keeps κ s₀) (checkWrite w va n s) := by
  unfold checkWrite
  repeat' first
    | with_reducible assumption
    | with_reducible intro _
    | with_reducible refine res_ite ?_ ?_
    | with_reducible refine inv_ite ?_ ?_
    | with_reducible apply ok_inv
    | with_reducible apply fail_inv
    | with_reducible apply wait_inv
    | split
    | with_reducible refine res_andThen ?_ ?_
    | with_reducible refine xlatRange_keeps hm ?_

theorem readClean_keeps {w : Who} {p : Nat} {bitNo : Nat} {va : Nat} {n : Nat} {s : State} (hm : 4194376 &&& κ = 4194376)  (hs : (Keeps κ s₀) s) : ResInv (Keeps κ s₀) (readClean w p bitNo va n s) := by
  unfold readClean
  repeat' first
    | with_reducible assumption
    | with_reducible intro _
    | with_reducible apply ok_inv
    | with_reducible apply fail_inv
    | with_reducible apply wait_inv
    | split
    | with_reducible refine res_andThen ?_ ?_
    | with_reducible refine readDev_keeps hm ?_

theorem prefetch_keeps {w : Who} {va : Nat} {write : Bool} {s : State} (hm : 4194376 &&& κ = 4194376)  (hs : (Keeps κ s₀) s) : (Keeps κ s₀) (prefetch w va write s) := by
  have u0 : 64 &&& κ = 64 := sub_mask (by decide) hm
  unfold prefetch
  repeat' first
    | with_reducible assumption
    | with_reducible intro _
    | split
    | with_reducible refine bumpSat_keeps u0 ?_
    | with_reducible refine translate_keeps hm ?_
    | refine inv_snd (by with_reducible assumption) ?_

theorem prefetchRange_keeps {w : Who} {write : Bool} {y0 : Nat} {y1 : Nat} {y2 : Nat} {y3 : State} (hm : 4194376 &&& κ = 4194376)  (hy3 : (Keeps κ s₀) y3) : (Keeps κ s₀) (prefetchRange w write y0 y1 y2 y3) := by
  induction y0 generalizing w write y1 y2 y3 with
  | zero =>
    unfold prefetchRange
    repeat' first
      | with_reducible assumption
  | succ n ih =>
    unfold prefetchRange
    repeat' first
      | with_reducible assumption
      | with_reducible intro _
      | with_reducible refine inv_ite ?_ ?_
      | split
      | with_reducible apply ih
      | with_reducible refine prefetch_keeps hm ?_

end Sys2Proof.Machine
end

