-- ==== Sys2Proof/Laws/FramesRings.lean ====
section
/-! SUPPORT. The parts of the state that the functions of Machine/Rings.lean may write. -/

namespace Sys2Proof.Machine

variable {κ : Nat} {s₀ : State}

theorem ringPut_keeps {i : RingId} {r : Ring} {s : State} (hm : 196608 &&& κ = 196608)  (hs : (Keeps κ s₀) s) : (Keeps κ s₀) (ringPut i r s) := by
  have u0 : 65536 &&& κ = 65536 := sub_mask (by decide) hm
  have u1 : 131072 &&& κ = 131072 := sub_mask (by decide) hm
  unfold ringPut
  repeat' first
    | with_reducible assumption
    | with_reducible intro _
    | split
    | with_reducible refine setEvRing_keeps u1 ?_
    | (dsimp only)
    | with_reducible refine upd_rings u0 ?_

theorem signalRecord_keeps {i : RingId} {s : State} (hm : 197640 &&& κ = 197640)  (hs : (Keeps κ s₀) s) : (Keeps κ s₀) (signalRecord i s) := by
  have u0 : 1032 &&& κ = 1032 := sub_mask (by decide) hm
  have u1 : 196608 &&& κ = 196608 := sub_mask (by decide) hm
  unfold signalRecord
  repeat' first
    | with_reducible assumption
    | with_reducible intro _
    | with_reducible refine inv_ite ?_ ?_
    | split
    | with_reducible refine sendMsix_keeps u0 ?_
    | with_reducible refine ringPut_keeps u1 ?_

theorem signalHead_keeps {i : RingId} {s : State} (hm : 197640 &&& κ = 197640)  (hs : (Keeps κ s₀) s) : (Keeps κ s₀) (signalHead i s) := by
  have u0 : 1032 &&& κ = 1032 := sub_mask (by decide) hm
  have u1 : 196608 &&& κ = 196608 := sub_mask (by decide) hm
  unfold signalHead
  repeat' first
    | with_reducible assumption
    | with_reducible intro _
    | with_reducible refine inv_ite ?_ ?_
    | split
    | with_reducible refine sendMsix_keeps u0 ?_
    | with_reducible refine ringPut_keeps u1 ?_

theorem writeRecord_keeps {i : RingId} {r : Ring} {mk : Bool → List Byte} {s : State} (hm : 4392024 &&& κ = 4392024)  (hs : (Keeps κ s₀) s) : RecInv (Keeps κ s₀) (writeRecord i r mk s) := by
  have u0 : 16 &&& κ = 16 := sub_mask (by decide) hm
  have u1 : 4194376 &&& κ = 4194376 := sub_mask (by decide) hm
  have u2 : 196608 &&& κ = 196608 := sub_mask (by decide) hm
  have u3 : 197640 &&& κ = 197640 := sub_mask (by decide) hm
  unfold writeRecord
  repeat' first
    | with_reducible assumption
    | with_reducible intro _
    | with_reducible refine inv_ite ?_ ?_
    | with_reducible apply recDone_inv
    | with_reducible apply recFault_inv
    | with_reducible apply recWait_inv
    | split
    | with_reducible refine translate_keeps u1 ?_
    | with_reducible refine ringPut_keeps u2 ?_
    | with_reducible refine signalRecord_keeps u3 ?_
    | refine inv_snd (by with_reducible assumption) ?_
    | (dsimp only)
    | with_reducible refine upd_hostMem u0 ?_

theorem ringFault_keeps {i : RingId} {r : Ring} {status : Nat} {va : Nat} {s : State} (hm : 2684551368 &&& κ = 2684551368)  (hs : (Keeps κ s₀) s) : (Keeps κ s₀) (ringFault i r status va s) := by
  have u0 : 192 &&& κ = 192 := sub_mask (by decide) hm
  have u1 : 2684485704 &&& κ = 2684485704 := sub_mask (by decide) hm
  have u2 : 196608 &&& κ = 196608 := sub_mask (by decide) hm
  unfold ringFault
  repeat' first
    | with_reducible assumption
    | with_reducible intro _
    | with_reducible refine inv_ite ?_ ?_
    | split
    | with_reducible refine blkFault_keeps u0 ?_
    | with_reducible refine raise_keeps u1 ?_
    | with_reducible refine ringPut_keeps u2 ?_

theorem drainEvents_keeps {e : Nat} {fuel : Nat} {s : State} (hm : 4326616 &&& κ = 4326616) (hs : Keeps κ s₀ s) :
    Keeps κ s₀ (drainEvents e fuel s) := by
  have hx := @translate_keeps κ s₀
  have hb := @blkFault_keeps κ s₀
  have hl := @loseEvent_keeps κ s₀
  have hq := @sendMsix_keeps κ s₀
  have hv := @setEvRing_keeps κ s₀
  have sig : ∀ s, Keeps κ s₀ s → Keeps κ s₀ (signalRecord (.ev e) s) := by
    intro s hs
    unfold signalRecord
    split
    · exact hs
    · refine inv_ite ?_ ?_
      · exact hq (sub_mask (by decide) hm) (hv (sub_mask (by decide) hm) hs)
      · exact hv (sub_mask (by decide) hm) hs
  have wr : ∀ r mk s, Keeps κ s₀ s → RecInv (Keeps κ s₀) (writeRecord (.ev e) r mk s) := by
    intro r mk s hs
    rw [writeRecord]
    have h := hx (w := ringWho (.ev e) r) (va := r.base + recordBytes (.ev e) * r.tail) (write := true) (sub_mask (by decide) hm) hs
    generalize translate (ringWho (.ev e) r) (r.base + recordBytes (.ev e) * r.tail) true s = p at h
    obtain ⟨x, t⟩ := p
    cases x with
    | fault st => exact .fault h
    | miss => exact .wait h
    | bus a => exact .done (sig _ (hv (sub_mask (by decide) hm) (upd_hostMem (sub_mask (by decide) hm) h)))
  induction fuel generalizing s with
  | zero => exact hs
  | succ n ih =>
    rw [drainEvents]
    dsimp only
    split
    · exact hs
    · refine inv_ite hs ?_
      split
      · rename_i h
        exact rec_wait h (wr _ _ _ hs)
      · rename_i h
        exact ih (hl (sub_mask (by decide) hm) (hv (sub_mask (by decide) hm) (hb (sub_mask (by decide) hm) (rec_fault h (wr _ _ _ hs)))))
      · rename_i h
        exact ih (rec_done h (wr _ _ _ hs))

theorem drainAll_keeps {s : State} (hm : 4326616 &&& κ = 4326616)  (hs : (Keeps κ s₀) s) : (Keeps κ s₀) (drainAll s) := by
  unfold drainAll
  repeat' first
    | with_reducible assumption
    | with_reducible intro _
    | split
    | with_reducible refine inv_foldl ?_ ?_
    | with_reducible refine drainEvents_keeps hm ?_

theorem raiseNow_keeps {b : Blk} {ev : Ev} {s : State} (hm : 2688681176 &&& κ = 2688681176)  (hs : (Keeps κ s₀) s) : (Keeps κ s₀) (raiseNow b ev s) := by
  have u0 : 2684485704 &&& κ = 2684485704 := sub_mask (by decide) hm
  have u1 : 4326616 &&& κ = 4326616 := sub_mask (by decide) hm
  unfold raiseNow
  repeat' first
    | with_reducible assumption
    | with_reducible intro _
    | split
    | with_reducible refine raise_keeps u0 ?_
    | with_reducible refine drainAll_keeps u1 ?_

theorem ctxViolation_keeps {i : RingId} {k : Nat} {s : State} (hm : 2688681176 &&& κ = 2688681176)  (hs : (Keeps κ s₀) s) : (Keeps κ s₀) (ctxViolation i k s) := by
  have u0 : 2684485832 &&& κ = 2684485832 := sub_mask (by decide) hm
  have u1 : 4326616 &&& κ = 4326616 := sub_mask (by decide) hm
  unfold ctxViolation
  repeat' first
    | with_reducible assumption
    | with_reducible intro _
    | split
    | with_reducible refine violation_keeps u0 ?_
    | with_reducible refine drainAll_keeps u1 ?_

theorem releaseHeld_keeps {s : State} (hm : 2684485696 &&& κ = 2684485696)  (hs : (Keeps κ s₀) s) : (Keeps κ s₀) (releaseHeld s) := by
  have u0 : 2147483648 &&& κ = 2147483648 := sub_mask (by decide) hm
  have u1 : 537002048 &&& κ = 537002048 := sub_mask (by decide) hm
  unfold releaseHeld
  repeat' first
    | with_reducible assumption
    | with_reducible intro _
    | with_reducible refine inv_ite ?_ ?_
    | split
    | with_reducible refine inv_foldl ?_ ?_
    | with_reducible refine postEvent_keeps u1 ?_
    | (dsimp only)
    | with_reducible refine upd_chn u0 ?_

theorem ctxWriteWord0_keeps {i : RingId} {v : Word64} {s : State} (hm : 2688746712 &&& κ = 2688746712)  (hs : (Keeps κ s₀) s) : (Keeps κ s₀) (ctxWriteWord0 i v s) := by
  have u0 : 196608 &&& κ = 196608 := sub_mask (by decide) hm
  have u1 : 2688681176 &&& κ = 2688681176 := sub_mask (by decide) hm
  unfold ctxWriteWord0
  repeat' first
    | with_reducible assumption
    | with_reducible intro _
    | with_reducible refine inv_ite ?_ ?_
    | split
    | with_reducible refine ringPut_keeps u0 ?_
    | with_reducible refine ctxViolation_keeps u1 ?_

theorem loseWaiting_keeps {i : RingId} {r : Ring} {s : State} (hm : 131136 &&& κ = 131136)  (hs : (Keeps κ s₀) s) : (Keeps κ s₀) (loseWaiting i r s) := by
  unfold loseWaiting
  repeat' first
    | with_reducible assumption
    | with_reducible intro _
    | split
    | with_reducible refine inv_foldl ?_ ?_
    | with_reducible refine loseEvent_keeps hm ?_

theorem ctxWriteWord1_keeps {i : RingId} {v : Word64} {s : State} (hm : 2688746712 &&& κ = 2688746712)  (hs : (Keeps κ s₀) s) : (Keeps κ s₀) (ctxWriteWord1 i v s) := by
  have u0 : 196608 &&& κ = 196608 := sub_mask (by decide) hm
  have u1 : 4326616 &&& κ = 4326616 := sub_mask (by decide) hm
  have u2 : 2688681176 &&& κ = 2688681176 := sub_mask (by decide) hm
  have u3 : 2684485696 &&& κ = 2684485696 := sub_mask (by decide) hm
  have u4 : 131136 &&& κ = 131136 := sub_mask (by decide) hm
  unfold ctxWriteWord1
  repeat' first
    | with_reducible assumption
    | with_reducible intro _
    | with_reducible refine inv_ite ?_ ?_
    | split
    | with_reducible refine ringPut_keeps u0 ?_
    | with_reducible refine drainAll_keeps u1 ?_
    | with_reducible refine ctxViolation_keeps u2 ?_
    | with_reducible refine releaseHeld_keeps u3 ?_
    | with_reducible refine loseWaiting_keeps u4 ?_

theorem ctxWriteReserved_keeps {i : RingId} {k : Nat} {v : Word64} {s : State} (hm : 2688681176 &&& κ = 2688681176)  (hs : (Keeps κ s₀) s) : (Keeps κ s₀) (ctxWriteReserved i k v s) := by
  unfold ctxWriteReserved
  repeat' first
    | with_reducible assumption
    | with_reducible intro _
    | with_reducible refine inv_ite ?_ ?_
    | split
    | with_reducible refine ctxViolation_keeps hm ?_

theorem zeroPieces_keeps {ps : List (Nat × Nat)} {s : State} (hm : 16 &&& κ = 16)  (hs : (Keeps κ s₀) s) : (Keeps κ s₀) (zeroPieces ps s) := by
  unfold zeroPieces
  repeat' first
    | with_reducible assumption
    | with_reducible intro _
    | split
    | (dsimp only)
    | with_reducible refine upd_hostMem hm ?_

theorem ringZeroed_keeps {i : RingId} {s : State} (hm : 2688746712 &&& κ = 2688746712)  (hs : (Keeps κ s₀) s) : (Keeps κ s₀) (ringZeroed i s) := by
  have u0 : 4194376 &&& κ = 4194376 := sub_mask (by decide) hm
  have u1 : 16 &&& κ = 16 := sub_mask (by decide) hm
  have u2 : 196608 &&& κ = 196608 := sub_mask (by decide) hm
  have u3 : 2684551368 &&& κ = 2684551368 := sub_mask (by decide) hm
  have u4 : 4326616 &&& κ = 4326616 := sub_mask (by decide) hm
  unfold ringZeroed
  repeat' first
    | with_reducible assumption
    | with_reducible intro _
    | with_reducible refine inv_ite ?_ ?_
    | with_reducible apply ok_inv
    | with_reducible apply fail_inv
    | with_reducible apply wait_inv
    | split
    | with_reducible refine xlatRange_keeps u0 ?_
    | with_reducible refine writePieces_keeps u1 ?_
    | with_reducible refine ringPut_keeps u2 ?_
    | with_reducible refine ringFault_keeps u3 ?_
    | with_reducible refine drainAll_keeps u4 ?_
    | with_reducible refine zeroPieces_keeps u1 ?_
    | refine res_ok (by with_reducible assumption) ?_
    | refine res_fail (by with_reducible assumption) ?_
    | refine res_wait (by with_reducible assumption) ?_

theorem headWrite_keeps {i : RingId} {v : Nat} {addr : Word64} {size : Nat} {s : State} (hm : 2688746712 &&& κ = 2688746712)  (hs : (Keeps κ s₀) s) : (Keeps κ s₀) (headWrite i v addr size s) := by
  have u0 : 2684485832 &&& κ = 2684485832 := sub_mask (by decide) hm
  have u1 : 196608 &&& κ = 196608 := sub_mask (by decide) hm
  have u2 : 197640 &&& κ = 197640 := sub_mask (by decide) hm
  have u3 : 4326616 &&& κ = 4326616 := sub_mask (by decide) hm
  unfold headWrite
  repeat' first
    | with_reducible assumption
    | with_reducible intro _
    | with_reducible refine inv_ite ?_ ?_
    | split
    | with_reducible refine violation_keeps u0 ?_
    | with_reducible refine ringPut_keeps u1 ?_
    | with_reducible refine signalHead_keeps u2 ?_
    | with_reducible refine drainAll_keeps u3 ?_

end Sys2Proof.Machine
end

