-- ==== Sys2Proof/Laws/FramesPort.lean ====
section
/-! SUPPORT. The parts of the state that the functions of Machine/Port.lean may write. -/

namespace Sys2Proof.Machine

variable {κ : Nat} {s₀ : State}

theorem regRow_keeps {b : Blk} {i : Nat} {off : Nat} {f : State → State} {s : State} (hm : 2688681176 &&& κ = 2688681176) (hf : ∀ a0, (Keeps κ s₀) a0 → (Keeps κ s₀) (f a0)) (hs : (Keeps κ s₀) s) : (Keeps κ s₀) (regRow b i off f s) := by
  have u0 : 2684485832 &&& κ = 2684485832 := sub_mask (by decide) hm
  have u1 : 4326616 &&& κ = 4326616 := sub_mask (by decide) hm
  unfold regRow
  repeat' first
    | with_reducible assumption
    | with_reducible intro _
    | with_reducible refine inv_ite ?_ ?_
    | split
    | with_reducible refine violation_keeps u0 ?_
    | with_reducible refine drainAll_keeps u1 ?_
    | with_reducible apply hf

theorem regViolation3_keeps {b : Blk} {i : Nat} {off : Nat} {s : State} (hm : 2688681176 &&& κ = 2688681176)  (hs : (Keeps κ s₀) s) : (Keeps κ s₀) (regViolation3 b i off s) := by
  have u0 : 2684485832 &&& κ = 2684485832 := sub_mask (by decide) hm
  have u1 : 4326616 &&& κ = 4326616 := sub_mask (by decide) hm
  unfold regViolation3
  repeat' first
    | with_reducible assumption
    | with_reducible intro _
    | split
    | with_reducible refine violation_keeps u0 ?_
    | with_reducible refine drainAll_keeps u1 ?_

theorem translateAhead_keeps {w : Who} {y0 : List (Nat × Bool)} {y1 : Cmd} {y2 : State} (hm : 4194504 &&& κ = 4194504)  (hy2 : (Keeps κ s₀) y2) : (Keeps κ s₀) (translateAhead w y0 y1 y2).2 := by
  have u0 : 64 &&& κ = 64 := sub_mask (by decide) hm
  have u1 : 192 &&& κ = 192 := sub_mask (by decide) hm
  have u2 : 4194304 &&& κ = 4194304 := sub_mask (by decide) hm
  have u3 : 4194376 &&& κ = 4194376 := sub_mask (by decide) hm
  induction y0 generalizing w y1 y2 with
  | nil =>
    unfold translateAhead
    repeat' first
      | with_reducible assumption
  | cons a t ih =>
    unfold translateAhead
    repeat' first
      | with_reducible assumption
      | with_reducible intro _
      | with_reducible refine snd_ite ?_ ?_
      | with_reducible refine inv_ite ?_ ?_
      | split
      | with_reducible apply ih
      | with_reducible refine bumpSat_keeps u0 ?_
      | with_reducible refine blkFault_keeps u1 ?_
      | with_reducible refine crookMod_keeps u2 ?_
      | with_reducible refine translate_keeps u3 ?_
      | refine inv_snd (by with_reducible assumption) ?_

theorem releaseHolds_keeps {x : Cmd} {s : State} (hm : 4194304 &&& κ = 4194304)  (hs : (Keeps κ s₀) s) : (Keeps κ s₀) (releaseHolds x s) := by
  unfold releaseHolds
  repeat' first
    | with_reducible assumption
    | with_reducible intro _
    | with_reducible refine inv_ite ?_ ?_
    | split
    | with_reducible refine inv_foldl ?_ ?_
    | with_reducible refine snd_foldl ?_ ?_
    | with_reducible refine crookMod_keeps hm ?_

theorem rejectCommit_keeps {q : Nat} {reason : Nat} {seq : Nat} {s : State} (hm : 2684489928 &&& κ = 2684489928)  (hs : (Keeps κ s₀) s) : (Keeps κ s₀) (rejectCommit q reason seq s) := by
  have u0 : 4096 &&& κ = 4096 := sub_mask (by decide) hm
  have u1 : 64 &&& κ = 64 := sub_mask (by decide) hm
  have u2 : 192 &&& κ = 192 := sub_mask (by decide) hm
  have u3 : 2684485704 &&& κ = 2684485704 := sub_mask (by decide) hm
  unfold rejectCommit
  repeat' first
    | with_reducible assumption
    | with_reducible intro _
    | split
    | with_reducible refine bumpSat_keeps u1 ?_
    | with_reducible refine blkFault_keeps u2 ?_
    | with_reducible refine raise_keeps u3 ?_
    | (dsimp only)
    | with_reducible refine upd_queues u0 ?_

theorem acceptCommit_keeps {q : Nat} {bytes : List Byte} {peer : Option Nat} {dataIn : List Byte} {s : State} (hm : 4223176 &&& κ = 4223176)  (hs : (Keeps κ s₀) s) : (Keeps κ s₀) (acceptCommit q bytes peer dataIn s) := by
  have u0 : 8192 &&& κ = 8192 := sub_mask (by decide) hm
  have u1 : 20480 &&& κ = 20480 := sub_mask (by decide) hm
  have u2 : 28672 &&& κ = 28672 := sub_mask (by decide) hm
  have u3 : 64 &&& κ = 64 := sub_mask (by decide) hm
  have u4 : 4194504 &&& κ = 4194504 := sub_mask (by decide) hm
  unfold acceptCommit
  repeat' first
    | with_reducible assumption
    | with_reducible intro _
    | with_reducible refine inv_ite ?_ ?_
    | split
    | with_reducible refine bumpWrap_keeps u3 ?_
    | with_reducible refine cmdPut_keeps u0 ?_
    | with_reducible refine translateAhead_keeps u4 ?_
    | refine inv_snd (by with_reducible assumption) ?_
    | (dsimp only)
    | with_reducible refine upd_cmds u0 ?_
    | with_reducible refine upd_queues_nextCmd u1 ?_

theorem clearWindow_keeps {q : Nat} {s : State} (hm : 2048 &&& κ = 2048)  (hs : (Keeps κ s₀) s) : (Keeps κ s₀) (clearWindow q s) := by
  unfold clearWindow
  repeat' first
    | with_reducible assumption
    | with_reducible intro _
    | split
    | (dsimp only)
    | with_reducible refine upd_windows hm ?_

theorem commitWord_keeps {q : Nat} {whole : Bool} {cw : Nat} {s : State} (hm : 2688710856 &&& κ = 2688710856)  (hs : (Keeps κ s₀) s) : (Keeps κ s₀) (commitWord q whole cw s) := by
  have u0 : 2684489928 &&& κ = 2684489928 := sub_mask (by decide) hm
  have u1 : 4223176 &&& κ = 4223176 := sub_mask (by decide) hm
  have u2 : 2048 &&& κ = 2048 := sub_mask (by decide) hm
  unfold commitWord
  repeat' first
    | with_reducible assumption
    | with_reducible intro _
    | with_reducible refine inv_ite ?_ ?_
    | split
    | with_reducible refine rejectCommit_keeps u0 ?_
    | with_reducible refine acceptCommit_keeps u1 ?_
    | with_reducible refine clearWindow_keeps u2 ?_

theorem cqHead_keeps {q : Nat} {v : Nat} {size : Nat} {s : State} (hm : 2688746712 &&& κ = 2688746712)  (hs : (Keeps κ s₀) s) : (Keeps κ s₀) (cqHead q v size s) := by
  have u0 : 2684485832 &&& κ = 2684485832 := sub_mask (by decide) hm
  have u1 : 4326616 &&& κ = 4326616 := sub_mask (by decide) hm
  unfold cqHead
  repeat' first
    | with_reducible assumption
    | with_reducible intro _
    | split
    | with_reducible refine violation_keeps u0 ?_
    | with_reducible refine drainAll_keeps u1 ?_
    | with_reducible refine headWrite_keeps hm ?_

theorem windowPart_keeps {q : Nat} {o : Nat} {data : List Byte} {s : State} (hm : 2688777432 &&& κ = 2688777432)  (hs : (Keeps κ s₀) s) : (Keeps κ s₀) (windowPart q o data s) := by
  have u0 : 2048 &&& κ = 2048 := sub_mask (by decide) hm
  have u1 : 2684485832 &&& κ = 2684485832 := sub_mask (by decide) hm
  have u2 : 4326616 &&& κ = 4326616 := sub_mask (by decide) hm
  have u3 : 2688710856 &&& κ = 2688710856 := sub_mask (by decide) hm
  have u4 : 2688746712 &&& κ = 2688746712 := sub_mask (by decide) hm
  unfold windowPart
  repeat' first
    | with_reducible assumption
    | with_reducible intro _
    | with_reducible refine inv_ite ?_ ?_
    | split
    | with_reducible refine violation_keeps u1 ?_
    | with_reducible refine drainAll_keeps u2 ?_
    | with_reducible refine commitWord_keeps u3 ?_
    | with_reducible refine cqHead_keeps u4 ?_
    | (dsimp only)
    | with_reducible refine upd_windows u0 ?_

theorem windowWrite_keeps {y0 : Nat} {y1 : Nat} {y2 : List Byte} {y3 : State} (hm : 2688777432 &&& κ = 2688777432)  (hy3 : (Keeps κ s₀) y3) : (Keeps κ s₀) (windowWrite y0 y1 y2 y3) := by
  induction y0 generalizing y1 y2 y3 with
  | zero =>
    unfold windowWrite
    repeat' first
      | with_reducible assumption
  | succ n ih =>
    unfold windowWrite
    repeat' first
      | with_reducible assumption
      | with_reducible intro _
      | with_reducible refine inv_ite ?_ ?_
      | split
      | with_reducible apply ih
      | with_reducible refine windowPart_keeps hm ?_

theorem execCommit_keeps {off : Nat} {data : List Byte} {s : State} (hm : 2688777432 &&& κ = 2688777432)  (hs : (Keeps κ s₀) s) : OutInv (Keeps κ s₀) (execCommit off data s) := by
  unfold execCommit
  repeat' first
    | with_reducible assumption
    | with_reducible intro _
    | with_reducible apply out_next
    | split
    | with_reducible refine windowWrite_keeps hm ?_

theorem execCqHeadWrite_keeps {q : Nat} {v : BitVec 32} {s : State} (hm : 2688746712 &&& κ = 2688746712)  (hs : (Keeps κ s₀) s) : OutInv (Keeps κ s₀) (execCqHeadWrite q v s) := by
  unfold execCqHeadWrite
  repeat' first
    | with_reducible assumption
    | with_reducible intro _
    | with_reducible apply out_next
    | split
    | with_reducible refine cqHead_keeps hm ?_

theorem execEvrHeadWrite_keeps {e : Nat} {v : Word64} {s : State} (hm : 2688746712 &&& κ = 2688746712)  (hs : (Keeps κ s₀) s) : OutInv (Keeps κ s₀) (execEvrHeadWrite e v s) := by
  have u1 : 2688681176 &&& κ = 2688681176 := sub_mask (by decide) hm
  unfold execEvrHeadWrite
  repeat' first
    | with_reducible assumption
    | with_reducible intro _
    | with_reducible apply out_next
    | split
    | with_reducible refine headWrite_keeps hm ?_
    | with_reducible refine regRow_keeps u1 ?_ ?_

theorem execRingContextWord0Write_keeps {r : RingId} {v : Word64} {s : State} (hm : 2688746712 &&& κ = 2688746712)  (hs : (Keeps κ s₀) s) : OutInv (Keeps κ s₀) (execRingContextWord0Write r v s) := by
  unfold execRingContextWord0Write
  repeat' first
    | with_reducible assumption
    | with_reducible intro _
    | with_reducible refine out_ite ?_ ?_
    | with_reducible refine inv_ite ?_ ?_
    | with_reducible apply out_next
    | split
    | with_reducible refine ctxWriteWord0_keeps hm ?_

theorem execRingContextWord1Write_keeps {r : RingId} {v : Word64} {s : State} (hm : 2688746712 &&& κ = 2688746712)  (hs : (Keeps κ s₀) s) : OutInv (Keeps κ s₀) (execRingContextWord1Write r v s) := by
  unfold execRingContextWord1Write
  repeat' first
    | with_reducible assumption
    | with_reducible intro _
    | with_reducible refine out_ite ?_ ?_
    | with_reducible refine inv_ite ?_ ?_
    | with_reducible apply out_next
    | split
    | with_reducible refine ctxWriteWord1_keeps hm ?_

theorem execRingZeroingDone_keeps {r : RingId} {s : State} (hm : 2688746712 &&& κ = 2688746712)  (hs : (Keeps κ s₀) s) : OutInv (Keeps κ s₀) (execRingZeroingDone r s) := by
  unfold execRingZeroingDone
  repeat' first
    | with_reducible assumption
    | with_reducible intro _
    | with_reducible apply out_next
    | split
    | with_reducible refine ringZeroed_keeps hm ?_

theorem portEnable_keeps {v : Word64} {s : State} (hm : 4194368 &&& κ = 4194368)  (hs : (Keeps κ s₀) s) : (Keeps κ s₀) (portEnable v s) := by
  have u0 : 64 &&& κ = 64 := sub_mask (by decide) hm
  have u1 : 4194304 &&& κ = 4194304 := sub_mask (by decide) hm
  unfold portEnable
  repeat' first
    | with_reducible assumption
    | with_reducible intro _
    | with_reducible refine inv_ite ?_ ?_
    | split
    | with_reducible refine regSet_keeps u0 ?_
    | with_reducible refine crookMod_keeps u1 ?_

theorem execPortEnableWrite_keeps {v : Word64} {s : State} (hm : 4194368 &&& κ = 4194368)  (hs : (Keeps κ s₀) s) : OutInv (Keeps κ s₀) (execPortEnableWrite v s) := by
  unfold execPortEnableWrite
  repeat' first
    | with_reducible assumption
    | with_reducible intro _
    | with_reducible apply out_next
    | split
    | with_reducible refine portEnable_keeps hm ?_

theorem execBlkErrClear_keeps {page : Nat} {v : Word64} {s : State} (hm : 2688681176 &&& κ = 2688681176)  (hs : (Keeps κ s₀) s) : OutInv (Keeps κ s₀) (execBlkErrClear page v s) := by
  have u0 : 192 &&& κ = 192 := sub_mask (by decide) hm
  have u1 : 2684485832 &&& κ = 2684485832 := sub_mask (by decide) hm
  have u2 : 4326616 &&& κ = 4326616 := sub_mask (by decide) hm
  unfold execBlkErrClear
  repeat' first
    | with_reducible assumption
    | with_reducible intro _
    | with_reducible refine out_ite ?_ ?_
    | with_reducible refine inv_ite ?_ ?_
    | with_reducible apply out_next
    | split
    | with_reducible refine blkErrClear_keeps u0 ?_
    | with_reducible refine violation_keeps u1 ?_
    | with_reducible refine drainAll_keeps u2 ?_

theorem boreDebug_keeps {cluster : Nat} {v : Word64} {s : State} (hm : 2688681176 &&& κ = 2688681176)  (hs : (Keeps κ s₀) s) : (Keeps κ s₀) (boreDebug cluster v s) := by
  have u0 : 64 &&& κ = 64 := sub_mask (by decide) hm
  unfold boreDebug
  repeat' first
    | with_reducible assumption
    | with_reducible intro _
    | with_reducible refine inv_ite ?_ ?_
    | split
    | with_reducible refine regSet_keeps u0 ?_
    | with_reducible refine regViolation3_keeps hm ?_

theorem execBoreDebugWrite_keeps {cluster : Nat} {v : Word64} {s : State} (hm : 2688681176 &&& κ = 2688681176)  (hs : (Keeps κ s₀) s) : OutInv (Keeps κ s₀) (execBoreDebugWrite cluster v s) := by
  unfold execBoreDebugWrite
  repeat' first
    | with_reducible assumption
    | with_reducible intro _
    | with_reducible apply out_next
    | split
    | with_reducible refine regRow_keeps hm ?_ ?_
    | with_reducible refine boreDebug_keeps hm ?_

theorem bootWrite_keeps {off : Nat} {base : Nat} {len : Nat} {s : State} (hm : 2688681176 &&& κ = 2688681176)  (hs : (Keeps κ s₀) s) : (Keeps κ s₀) (bootWrite off base len s) := by
  have u0 : 64 &&& κ = 64 := sub_mask (by decide) hm
  unfold bootWrite
  repeat' first
    | with_reducible assumption
    | with_reducible intro _
    | with_reducible refine inv_ite ?_ ?_
    | split
    | with_reducible refine regSet_keeps u0 ?_
    | with_reducible refine regViolation3_keeps hm ?_

theorem execCrkBootLenWrite_keeps {v : Word64} {s : State} (hm : 2688681176 &&& κ = 2688681176)  (hs : (Keeps κ s₀) s) : OutInv (Keeps κ s₀) (execCrkBootLenWrite v s) := by
  unfold execCrkBootLenWrite
  repeat' first
    | with_reducible assumption
    | with_reducible intro _
    | with_reducible apply out_next
    | split
    | with_reducible refine regRow_keeps hm ?_ ?_
    | with_reducible refine bootWrite_keeps hm ?_

theorem ledgerSel_keeps {v : Word64} {s : State} (hm : 2688681176 &&& κ = 2688681176)  (hs : (Keeps κ s₀) s) : (Keeps κ s₀) (ledgerSel v s) := by
  have u0 : 64 &&& κ = 64 := sub_mask (by decide) hm
  unfold ledgerSel
  repeat' first
    | with_reducible assumption
    | with_reducible intro _
    | with_reducible refine inv_ite ?_ ?_
    | split
    | with_reducible refine regSet_keeps u0 ?_
    | with_reducible refine regViolation3_keeps hm ?_

theorem execWwyLedgerSelWrite_keeps {v : Word64} {s : State} (hm : 2688681176 &&& κ = 2688681176)  (hs : (Keeps κ s₀) s) : OutInv (Keeps κ s₀) (execWwyLedgerSelWrite v s) := by
  unfold execWwyLedgerSelWrite
  repeat' first
    | with_reducible assumption
    | with_reducible intro _
    | with_reducible apply out_next
    | split
    | with_reducible refine regRow_keeps hm ?_ ?_
    | with_reducible refine ledgerSel_keeps hm ?_

theorem execBlwCalSelWrite_keeps {v : Word64} {s : State} (hm : 64 &&& κ = 64)  (hs : (Keeps κ s₀) s) : OutInv (Keeps κ s₀) (execBlwCalSelWrite v s) := by
  unfold execBlwCalSelWrite
  repeat' first
    | with_reducible assumption
    | with_reducible intro _
    | with_reducible apply out_next
    | split
    | with_reducible refine regSet_keeps hm ?_

theorem ucalRun_keeps {f : UCal → UCal} {s : State} (hm : 1073741824 &&& κ = 1073741824)  (hs : (Keeps κ s₀) s) : (Keeps κ s₀) (ucalRun f s) := by
  unfold ucalRun
  repeat' first
    | with_reducible assumption
    | with_reducible intro _
    | split
    | (dsimp only)
    | with_reducible refine upd_blw hm ?_

theorem ofsTrim_keeps {v : Word64} {s : State} (hm : 3762423000 &&& κ = 3762423000)  (hs : (Keeps κ s₀) s) : (Keeps κ s₀) (ofsTrim v s) := by
  have u0 : 2688681176 &&& κ = 2688681176 := sub_mask (by decide) hm
  have u1 : 1073741824 &&& κ = 1073741824 := sub_mask (by decide) hm
  unfold ofsTrim
  repeat' first
    | with_reducible assumption
    | with_reducible intro _
    | with_reducible refine inv_ite ?_ ?_
    | split
    | with_reducible refine regViolation3_keeps u0 ?_
    | with_reducible refine ucalRun_keeps u1 ?_

theorem execBlwOfsTrimWrite_keeps {v : Word64} {s : State} (hm : 3762423000 &&& κ = 3762423000)  (hs : (Keeps κ s₀) s) : OutInv (Keeps κ s₀) (execBlwOfsTrimWrite v s) := by
  unfold execBlwOfsTrimWrite
  repeat' first
    | with_reducible assumption
    | with_reducible intro _
    | with_reducible apply out_next
    | split
    | with_reducible refine ofsTrim_keeps hm ?_

theorem ofsTap_keeps {v : Word64} {s : State} (hm : 3762423000 &&& κ = 3762423000)  (hs : (Keeps κ s₀) s) : (Keeps κ s₀) (ofsTap v s) := by
  have u0 : 2688681176 &&& κ = 2688681176 := sub_mask (by decide) hm
  have u1 : 1073741824 &&& κ = 1073741824 := sub_mask (by decide) hm
  unfold ofsTap
  repeat' first
    | with_reducible assumption
    | with_reducible intro _
    | with_reducible refine inv_ite ?_ ?_
    | split
    | with_reducible refine regViolation3_keeps u0 ?_
    | with_reducible refine ucalRun_keeps u1 ?_

theorem execBlwOfsTapWrite_keeps {v : Word64} {s : State} (hm : 3762423000 &&& κ = 3762423000)  (hs : (Keeps κ s₀) s) : OutInv (Keeps κ s₀) (execBlwOfsTapWrite v s) := by
  unfold execBlwOfsTapWrite
  repeat' first
    | with_reducible assumption
    | with_reducible intro _
    | with_reducible apply out_next
    | split
    | with_reducible refine ofsTap_keeps hm ?_

theorem coalesceExpiry_keeps {r : RingId} {s : State} (hm : 197640 &&& κ = 197640)  (hs : (Keeps κ s₀) s) : (Keeps κ s₀) (coalesceExpiry r s) := by
  have u0 : 1032 &&& κ = 1032 := sub_mask (by decide) hm
  have u1 : 196608 &&& κ = 196608 := sub_mask (by decide) hm
  unfold coalesceExpiry
  repeat' first
    | with_reducible assumption
    | with_reducible intro _
    | with_reducible refine inv_ite ?_ ?_
    | split
    | with_reducible refine sendMsix_keeps u0 ?_
    | with_reducible refine ringPut_keeps u1 ?_

theorem execCoalesceTimerExpiry_keeps {r : RingId} {s : State} (hm : 197640 &&& κ = 197640)  (hs : (Keeps κ s₀) s) : OutInv (Keeps κ s₀) (execCoalesceTimerExpiry r s) := by
  unfold execCoalesceTimerExpiry
  repeat' first
    | with_reducible assumption
    | with_reducible intro _
    | with_reducible apply out_next
    | split
    | with_reducible refine coalesceExpiry_keeps hm ?_

theorem msixWrite_keeps {off : Nat} {v : BitVec 32} {s : State} (hm : 1544 &&& κ = 1544)  (hs : (Keeps κ s₀) s) : (Keeps κ s₀) (msixWrite off v s) := by
  have u0 : 1024 &&& κ = 1024 := sub_mask (by decide) hm
  have u1 : 512 &&& κ = 512 := sub_mask (by decide) hm
  have u2 : 1536 &&& κ = 1536 := sub_mask (by decide) hm
  have u3 : 8 &&& κ = 8 := sub_mask (by decide) hm
  unfold msixWrite
  repeat' first
    | with_reducible assumption
    | with_reducible intro _
    | with_reducible refine inv_ite ?_ ?_
    | split
    | with_reducible refine emit_keeps u3 ?_
    | (dsimp only)
    | with_reducible refine upd_msixPending u0 ?_
    | with_reducible refine upd_msixTable u1 ?_
    | with_reducible refine upd_msixTable_msixPending u2 ?_

theorem execMsixUnmask_keeps {vector : Nat} {s : State} (hm : 1544 &&& κ = 1544)  (hs : (Keeps κ s₀) s) : OutInv (Keeps κ s₀) (execMsixUnmask vector s) := by
  unfold execMsixUnmask
  repeat' first
    | with_reducible assumption
    | with_reducible intro _
    | with_reducible refine out_ite ?_ ?_
    | with_reducible refine inv_ite ?_ ?_
    | with_reducible apply out_next
    | split
    | with_reducible refine msixWrite_keeps hm ?_

end Sys2Proof.Machine
end

