-- ==== Sys2Proof/Laws/FramesPost.lean ====
section
/-! SUPPORT. The parts of the state that the functions of Machine/Post.lean may write. -/

namespace Sys2Proof.Machine

variable {κ : Nat} {s₀ : State}

theorem raiseHorizons_keeps {s : State} (hm : 8192 &&& κ = 8192)  (hs : (Keeps κ s₀) s) : (Keeps κ s₀) (raiseHorizons s) := by
  unfold raiseHorizons
  repeat' first
    | with_reducible assumption
    | with_reducible intro _
    | with_reducible refine inv_ite ?_ ?_
    | split
    | (dsimp only)
    | with_reducible refine upd_cmds hm ?_

theorem freeContexts_keeps {c : Nat} {s : State} (hm : 8798240505856 &&& κ = 8798240505856)  (hs : (Keeps κ s₀) s) : (Keeps κ s₀) (freeContexts c s) := by
  unfold freeContexts
  repeat' first
    | with_reducible assumption
    | with_reducible intro _
    | split
    | (dsimp only)
    | with_reducible refine upd_chn_contexts hm ?_

theorem freeUnits_keeps {c : Nat} {s : State} (hm : 13196354134016 &&& κ = 13196354134016)  (hs : (Keeps κ s₀) s) : (Keeps κ s₀) (freeUnits c s) := by
  have u0 : 67108864 &&& κ = 67108864 := sub_mask (by decide) hm
  have u1 : 8192 &&& κ = 8192 := sub_mask (by decide) hm
  have u2 : 4398046511104 &&& κ = 4398046511104 := sub_mask (by decide) hm
  have u3 : 8798240505856 &&& κ = 8798240505856 := sub_mask (by decide) hm
  unfold freeUnits
  repeat' first
    | with_reducible assumption
    | with_reducible intro _
    | split
    | with_reducible refine cmdMod_keeps u1 ?_
    | with_reducible refine freeTiles_keeps u2 ?_
    | with_reducible refine freeContexts_keeps u3 ?_
    | (dsimp only)
    | with_reducible refine upd_srings u0 ?_

theorem finish_keeps {c : Nat} {f : Cmd → Cmd} {s : State} (hm : 13196354134016 &&& κ = 13196354134016)  (hs : (Keeps κ s₀) s) : (Keeps κ s₀) (finish c f s) := by
  have u0 : 8192 &&& κ = 8192 := sub_mask (by decide) hm
  unfold finish
  repeat' first
    | with_reducible assumption
    | with_reducible intro _
    | split
    | with_reducible refine cmdMod_keeps u0 ?_
    | with_reducible refine freeUnits_keeps hm ?_

theorem failCmd_keeps {c : Nat} {status : Nat} {f : Option CmdFault} {s : State} (hm : 13196354134208 &&& κ = 13196354134208)  (hs : (Keeps κ s₀) s) : (Keeps κ s₀) (failCmd c status f s) := by
  have u0 : 192 &&& κ = 192 := sub_mask (by decide) hm
  have u1 : 13196354134016 &&& κ = 13196354134016 := sub_mask (by decide) hm
  unfold failCmd
  repeat' first
    | with_reducible assumption
    | with_reducible intro _
    | with_reducible refine inv_ite ?_ ?_
    | split
    | with_reducible refine blkFault_keeps u0 ?_
    | with_reducible refine finish_keeps u1 ?_

theorem failField_keeps {x : Cmd} {status : Nat} {off : Nat} {s : State} (hm : 13196354134208 &&& κ = 13196354134208)  (hs : (Keeps κ s₀) s) : (Keeps κ s₀) (failField x status off s) := by
  unfold failField
  repeat' first
    | with_reducible assumption
    | with_reducible intro _
    | split
    | with_reducible refine failCmd_keeps hm ?_

theorem settle_keeps {c : Nat} {r : Res State} (hm : 13196354134208 &&& κ = 13196354134208) (h : RowInv (Keeps κ s₀) r) : Keeps κ s₀ (settle c r) := by
  cases h with
  | ok h => exact h
  | fail h => exact failCmd_keeps (sub_mask (by decide) hm) h
  | wait h => exact h

theorem done_keeps {c : Nat} {f : Cmd → Cmd} {s : State} (hm : 13196354134016 &&& κ = 13196354134016)  (hs : (Keeps κ s₀) s) : RowInv (Keeps κ s₀) (done c f s) := by
  unfold done
  repeat' first
    | with_reducible assumption
    | with_reducible intro _
    | with_reducible apply rowOk_inv
    | with_reducible apply rowFail_inv
    | with_reducible apply rowWait_inv
    | split
    | with_reducible refine finish_keeps hm ?_

theorem postEffect_keeps {x : Cmd} {s : State} (hm : 24203624520 &&& κ = 24203624520)  (hs : (Keeps κ s₀) s) : (Keeps κ s₀) (postEffect x s) := by
  have u0 : 262144 &&& κ = 262144 := sub_mask (by decide) hm
  have u1 : 17221812224 &&& κ = 17221812224 := sub_mask (by decide) hm
  have u2 : 4294967296 &&& κ = 4294967296 := sub_mask (by decide) hm
  have u3 : 17222074368 &&& κ = 17222074368 := sub_mask (by decide) hm
  have u4 : 21517041664 &&& κ = 21517041664 := sub_mask (by decide) hm
  have u5 : 4295229440 &&& κ = 4295229440 := sub_mask (by decide) hm
  have u6 : 21516779520 &&& κ = 21516779520 := sub_mask (by decide) hm
  have u7 : 64 &&& κ = 64 := sub_mask (by decide) hm
  have u8 : 2684485704 &&& κ = 2684485704 := sub_mask (by decide) hm
  have u9 : 2097152 &&& κ = 2097152 := sub_mask (by decide) hm
  unfold postEffect
  repeat' first
    | with_reducible assumption
    | with_reducible intro _
    | with_reducible refine inv_ite ?_ ?_
    | split
    | with_reducible refine regField_keeps u7 ?_
    | with_reducible refine raise_keeps u8 ?_
    | with_reducible refine domMod_keeps u9 ?_
    | (dsimp only)
    | with_reducible refine upd_classes u0 ?_
    | with_reducible refine upd_colls_tables_poison u1 ?_
    | with_reducible refine upd_sec u2 ?_

theorem takeCharges_keeps {cs : List (Nat × Rat)} {s : State} (hm : 1048576 &&& κ = 1048576)  (hs : (Keeps κ s₀) s) : (Keeps κ s₀) (takeCharges cs s) := by
  unfold takeCharges
  repeat' first
    | with_reducible assumption
    | with_reducible intro _
    | split
    | (dsimp only)
    | with_reducible refine upd_ledgers hm ?_

theorem releaseCharges_keeps {x : Cmd} {s : State} (hm : 1048576 &&& κ = 1048576)  (hs : (Keeps κ s₀) s) : (Keeps κ s₀) (releaseCharges x s) := by
  unfold releaseCharges
  repeat' first
    | with_reducible assumption
    | with_reducible intro _
    | split
    | with_reducible refine takeCharges_keeps hm ?_

theorem workDone_keeps {c : Nat} {f : Nat → Bool} {share : Rat} {s : State} (hm : 1056768 &&& κ = 1056768)  (hs : (Keeps κ s₀) s) : (Keeps κ s₀) (workDone c f share s) := by
  have u0 : 8192 &&& κ = 8192 := sub_mask (by decide) hm
  have u1 : 1048576 &&& κ = 1048576 := sub_mask (by decide) hm
  unfold workDone
  repeat' first
    | with_reducible assumption
    | with_reducible intro _
    | with_reducible refine inv_ite ?_ ?_
    | split
    | with_reducible refine inv_foldl ?_ ?_
    | with_reducible refine snd_foldl ?_ ?_
    | with_reducible refine cmdMod_keeps u0 ?_
    | with_reducible refine takeCharges_keeps u1 ?_

theorem endStage_keeps {c : Nat} {n : Nat} {s : State} (hm : 1056768 &&& κ = 1056768)  (hs : (Keeps κ s₀) s) : (Keeps κ s₀) (endStage c n s) := by
  have u0 : 8192 &&& κ = 8192 := sub_mask (by decide) hm
  unfold endStage
  repeat' first
    | with_reducible assumption
    | with_reducible intro _
    | split
    | with_reducible refine noteStage_keeps u0 ?_
    | with_reducible refine workDone_keeps hm ?_

theorem countMiss_keeps {n : Nat} {s : State} (hm : 64 &&& κ = 64)  (hs : (Keeps κ s₀) s) : (Keeps κ s₀) (countMiss n s) := by
  unfold countMiss
  repeat' first
    | with_reducible assumption
    | with_reducible intro _
    | split
    | with_reducible refine bumpSat_keeps hm ?_

theorem reportMiss_keeps {x : Cmd} {s : State} (hm : 2684485832 &&& κ = 2684485832)  (hs : (Keeps κ s₀) s) : (Keeps κ s₀) (reportMiss x s) := by
  have u0 : 64 &&& κ = 64 := sub_mask (by decide) hm
  have u1 : 192 &&& κ = 192 := sub_mask (by decide) hm
  have u2 : 2684485704 &&& κ = 2684485704 := sub_mask (by decide) hm
  unfold reportMiss
  repeat' first
    | with_reducible assumption
    | with_reducible intro _
    | with_reducible refine inv_ite ?_ ?_
    | split
    | with_reducible refine bumpSat_keeps u0 ?_
    | with_reducible refine blkFault_keeps u1 ?_
    | with_reducible refine raiseAs_keeps u2 ?_
    | with_reducible refine countMiss_keeps u0 ?_

theorem releaseVersions_keeps {c : Nat} {s : State} (hm : 33554432 &&& κ = 33554432)  (hs : (Keeps κ s₀) s) : (Keeps κ s₀) (releaseVersions c s) := by
  unfold releaseVersions
  repeat' first
    | with_reducible assumption
    | with_reducible intro _
    | with_reducible refine inv_ite ?_ ?_
    | split
    | (dsimp only)
    | with_reducible refine upd_tables hm ?_

theorem afterRecord_keeps {x : Cmd} {s : State} (hm : 24477312216 &&& κ = 24477312216)  (hs : (Keeps κ s₀) s) : (Keeps κ s₀) (afterRecord x s) := by
  have u0 : 268435456 &&& κ = 268435456 := sub_mask (by decide) hm
  have u1 : 8192 &&& κ = 8192 := sub_mask (by decide) hm
  have u2 : 268443648 &&& κ = 268443648 := sub_mask (by decide) hm
  have u3 : 2684485704 &&& κ = 2684485704 := sub_mask (by decide) hm
  have u4 : 8388608 &&& κ = 8388608 := sub_mask (by decide) hm
  have u5 : 4326616 &&& κ = 4326616 := sub_mask (by decide) hm
  have u6 : 4194304 &&& κ = 4194304 := sub_mask (by decide) hm
  have u7 : 24203624520 &&& κ = 24203624520 := sub_mask (by decide) hm
  have u8 : 1048576 &&& κ = 1048576 := sub_mask (by decide) hm
  have u9 : 2684485832 &&& κ = 2684485832 := sub_mask (by decide) hm
  have u10 : 33554432 &&& κ = 33554432 := sub_mask (by decide) hm
  unfold afterRecord
  repeat' first
    | with_reducible assumption
    | with_reducible intro _
    | with_reducible refine inv_ite ?_ ?_
    | split
    | with_reducible refine inv_foldl ?_ ?_
    | with_reducible refine raise_keeps u3 ?_
    | with_reducible refine collMod_keeps u4 ?_
    | with_reducible refine drainAll_keeps u5 ?_
    | with_reducible refine releaseHolds_keeps u6 ?_
    | with_reducible refine raiseHorizons_keeps u1 ?_
    | with_reducible refine postEffect_keeps u7 ?_
    | with_reducible refine releaseCharges_keeps u8 ?_
    | with_reducible refine reportMiss_keeps u9 ?_
    | with_reducible refine releaseVersions_keeps u10 ?_
    | (dsimp only)
    | with_reducible refine upd_bag u0 ?_
    | with_reducible refine upd_cmds u1 ?_

theorem markLate_keeps {x : Cmd} {s : State} (hm : 4202584 &&& κ = 4202584)  (hs : (Keeps κ s₀) s) : ResInv (Keeps κ s₀) (markLate x s) := by
  have u0 : 4194376 &&& κ = 4194376 := sub_mask (by decide) hm
  unfold markLate
  repeat' first
    | with_reducible assumption
    | with_reducible intro _
    | with_reducible refine res_ite ?_ ?_
    | with_reducible refine inv_ite ?_ ?_
    | with_reducible apply ok_inv
    | with_reducible apply fail_inv
    | with_reducible apply wait_inv
    | split
    | with_reducible refine inv_foldl ?_ ?_
    | with_reducible refine res_andThen ?_ ?_
    | with_reducible refine res_foldl ?_ ?_
    | with_reducible refine readDev_keeps u0 ?_
    | with_reducible refine writeDev_keeps hm ?_

theorem takeTurn_keeps {x : Cmd} {s : State} (hm : 8192 &&& κ = 8192)  (hs : (Keeps κ s₀) s) : (Keeps κ s₀) (takeTurn x s) := by
  unfold takeTurn
  repeat' first
    | with_reducible assumption
    | with_reducible intro _
    | with_reducible refine inv_ite ?_ ?_
    | split
    | with_reducible refine inv_foldl ?_ ?_
    | with_reducible refine cmdMod_keeps hm ?_

theorem postRecord_keeps {x : Cmd} {s : State} (hm : 24477377752 &&& κ = 24477377752)  (hs : (Keeps κ s₀) s) : (Keeps κ s₀) (postRecord x s) := by
  have u0 : 536870920 &&& κ = 536870920 := sub_mask (by decide) hm
  have u1 : 8192 &&& κ = 8192 := sub_mask (by decide) hm
  have u2 : 4392024 &&& κ = 4392024 := sub_mask (by decide) hm
  have u3 : 2684551368 &&& κ = 2684551368 := sub_mask (by decide) hm
  have u4 : 4326616 &&& κ = 4326616 := sub_mask (by decide) hm
  have u5 : 24477312216 &&& κ = 24477312216 := sub_mask (by decide) hm
  have u6 : 4202584 &&& κ = 4202584 := sub_mask (by decide) hm
  unfold postRecord
  repeat' first
    | with_reducible assumption
    | with_reducible intro _
    | with_reducible refine inv_ite ?_ ?_
    | with_reducible apply ok_inv
    | with_reducible apply fail_inv
    | with_reducible apply wait_inv
    | with_reducible apply recDone_inv
    | with_reducible apply recFault_inv
    | with_reducible apply recWait_inv
    | split
    | with_reducible refine sendMsg_keeps u0 ?_
    | with_reducible refine cmdMod_keeps u1 ?_
    | with_reducible refine writeRecord_keeps u2 ?_
    | with_reducible refine ringFault_keeps u3 ?_
    | with_reducible refine drainAll_keeps u4 ?_
    | with_reducible refine afterRecord_keeps u5 ?_
    | with_reducible refine markLate_keeps u6 ?_
    | with_reducible refine takeTurn_keeps u1 ?_
    | refine res_ok (by with_reducible assumption) ?_
    | refine res_fail (by with_reducible assumption) ?_
    | refine res_wait (by with_reducible assumption) ?_
    | refine rec_done (by with_reducible assumption) ?_
    | refine rec_fault (by with_reducible assumption) ?_
    | refine rec_wait (by with_reducible assumption) ?_
    | (dsimp only)

end Sys2Proof.Machine
end

