-- ==== Sys2Proof/Laws/FramesSlide.lean ====
section
/-! SUPPORT. The parts of the state that the functions of Machine/Slide.lean may write. -/

namespace Sys2Proof.Machine

variable {κ : Nat} {s₀ : State}

theorem setEngine_keeps {e : Nat} {g : Engine} {s : State} (hm : 134217728 &&& κ = 134217728)  (hs : (Keeps κ s₀) s) : (Keeps κ s₀) (setEngine e g s) := by
  unfold setEngine
  repeat' first
    | with_reducible assumption
    | with_reducible intro _
    | split
    | (dsimp only)
    | with_reducible refine upd_engines hm ?_

theorem chargeEngine_keeps {e : Nat} {port : Nat} {cls : Nat} {n : Nat} {ch : Nat} {s : State} (hm : 134217792 &&& κ = 134217792)  (hs : (Keeps κ s₀) s) : (Keeps κ s₀) (chargeEngine e port cls n ch s) := by
  have u0 : 64 &&& κ = 64 := sub_mask (by decide) hm
  have u1 : 134217728 &&& κ = 134217728 := sub_mask (by decide) hm
  unfold chargeEngine
  repeat' first
    | with_reducible assumption
    | with_reducible intro _
    | with_reducible refine inv_ite ?_ ?_
    | split
    | with_reducible refine bumpWrap_keeps u0 ?_
    | with_reducible refine setEngine_keeps u1 ?_

theorem chargeDirect_keeps {x : Cmd} {va : Nat} {n : Nat} {s : State} (hm : 134217792 &&& κ = 134217792)  (hs : (Keeps κ s₀) s) : (Keeps κ s₀) (chargeDirect x va n s) := by
  unfold chargeDirect
  repeat' first
    | with_reducible assumption
    | with_reducible intro _
    | with_reducible refine inv_ite ?_ ?_
    | split
    | with_reducible refine chargeEngine_keeps hm ?_

theorem chargeOut_keeps {x : Cmd} {va : Nat} {n : Nat} {s : State} (hm : 134217792 &&& κ = 134217792)  (hs : (Keeps κ s₀) s) : (Keeps κ s₀) (chargeOut x va n s) := by
  unfold chargeOut
  repeat' first
    | with_reducible assumption
    | with_reducible intro _
    | with_reducible refine inv_ite ?_ ?_
    | split
    | with_reducible refine chargeEngine_keeps hm ?_

theorem readBuf_keeps {x : Cmd} {va : Nat} {n : Nat} {s : State} (hm : 138412104 &&& κ = 138412104)  (hs : (Keeps κ s₀) s) : ResInv (Keeps κ s₀) (readBuf x va n s) := by
  have u0 : 4194376 &&& κ = 4194376 := sub_mask (by decide) hm
  have u1 : 134217792 &&& κ = 134217792 := sub_mask (by decide) hm
  unfold readBuf
  repeat' first
    | with_reducible assumption
    | with_reducible intro _
    | with_reducible apply ok_inv
    | with_reducible apply fail_inv
    | with_reducible apply wait_inv
    | split
    | with_reducible refine res_andThen ?_ ?_
    | with_reducible refine readClean_keeps u0 ?_
    | with_reducible refine chargeDirect_keeps u1 ?_

theorem writeBuf_keeps {x : Cmd} {va : Nat} {bs : List Byte} {s : State} (hm : 138420312 &&& κ = 138420312)  (hs : (Keeps κ s₀) s) : ResInv (Keeps κ s₀) (writeBuf x va bs s) := by
  have u0 : 4202584 &&& κ = 4202584 := sub_mask (by decide) hm
  have u1 : 134217792 &&& κ = 134217792 := sub_mask (by decide) hm
  unfold writeBuf
  repeat' first
    | with_reducible assumption
    | with_reducible intro _
    | with_reducible apply ok_inv
    | with_reducible apply fail_inv
    | with_reducible apply wait_inv
    | split
    | with_reducible refine res_andThen ?_ ?_
    | with_reducible refine writeDev_keeps u0 ?_
    | with_reducible refine chargeOut_keeps u1 ?_

theorem listArrive_keeps {x : Cmd} {w : ListWalk} {s : State} (hm : 13196492546120 &&& κ = 13196492546120)  (hs : (Keeps κ s₀) s) : ResInv (Keeps κ s₀) (listArrive x w s) := by
  have u0 : 4194376 &&& κ = 4194376 := sub_mask (by decide) hm
  have u1 : 134217792 &&& κ = 134217792 := sub_mask (by decide) hm
  unfold listArrive
  repeat' first
    | with_reducible assumption
    | with_reducible intro _
    | with_reducible apply ok_inv
    | with_reducible apply fail_inv
    | with_reducible apply wait_inv
    | split
    | with_reducible refine res_andThen ?_ ?_
    | with_reducible refine readDev_keeps u0 ?_
    | with_reducible refine chargeDirect_keeps u1 ?_

theorem prefetchPiece_keeps {x : Cmd} {write : Bool} {old : ListWalk} {new : ListWalk} {s : State} (hm : 4194376 &&& κ = 4194376)  (hs : (Keeps κ s₀) s) : (Keeps κ s₀) (prefetchPiece x write old new s) := by
  unfold prefetchPiece
  repeat' first
    | with_reducible assumption
    | with_reducible intro _
    | with_reducible refine inv_ite ?_ ?_
    | split
    | with_reducible refine inv_foldl ?_ ?_
    | with_reducible refine prefetchRange_keeps hm ?_

theorem listPieceRow_keeps {c : Nat} {s : State} (hm : 13196492546248 &&& κ = 13196492546248)  (hs : (Keeps κ s₀) s) : (Keeps κ s₀) (listPieceRow c s) := by
  have u0 : 8192 &&& κ = 8192 := sub_mask (by decide) hm
  have u1 : 13196354134208 &&& κ = 13196354134208 := sub_mask (by decide) hm
  have u2 : 13196492546120 &&& κ = 13196492546120 := sub_mask (by decide) hm
  have u3 : 4194376 &&& κ = 4194376 := sub_mask (by decide) hm
  unfold listPieceRow
  repeat' first
    | with_reducible assumption
    | with_reducible intro _
    | with_reducible refine inv_ite ?_ ?_
    | with_reducible refine row_ite ?_ ?_
    | with_reducible refine res_ite ?_ ?_
    | with_reducible apply ok_inv
    | with_reducible apply fail_inv
    | with_reducible apply wait_inv
    | with_reducible apply rowOk_inv
    | with_reducible apply rowFail_inv
    | with_reducible apply rowWait_inv
    | with_reducible refine row_andThen ?_ ?_
    | split
    | with_reducible refine res_andThen ?_ ?_
    | with_reducible refine cmdMod_keeps u0 ?_
    | with_reducible refine settle_keeps u1 ?_
    | with_reducible refine listArrive_keeps u2 ?_
    | with_reducible refine prefetchPiece_keeps u3 ?_

theorem execBlockListPieceArrival_keeps {c : Nat} {s : State} (hm : 13196492678360 &&& κ = 13196492678360)  (hs : (Keeps κ s₀) s) : OutInv (Keeps κ s₀) (execBlockListPieceArrival c s) := by
  have u0 : 4326616 &&& κ = 4326616 := sub_mask (by decide) hm
  have u1 : 13196492546248 &&& κ = 13196492546248 := sub_mask (by decide) hm
  unfold execBlockListPieceArrival
  repeat' first
    | with_reducible assumption
    | with_reducible intro _
    | with_reducible apply out_next
    | split
    | with_reducible refine drainAll_keeps u0 ?_
    | with_reducible refine listPieceRow_keeps u1 ?_

theorem readSpans_keeps {w : Who} {y0 : List BlkData} {y1 : State} (hm : 4194376 &&& κ = 4194376)  (hy1 : (Keeps κ s₀) y1) : ResInv (Keeps κ s₀) (readSpans w y0 y1) := by
  induction y0 generalizing w y1 with
  | nil =>
    unfold readSpans
    repeat' first
      | with_reducible assumption
      | with_reducible intro _
      | with_reducible refine res_ite ?_ ?_
      | with_reducible refine inv_ite ?_ ?_
      | with_reducible apply ok_inv
  | cons a t ih =>
    unfold readSpans
    repeat' first
      | with_reducible assumption
      | with_reducible intro _
      | with_reducible refine res_ite ?_ ?_
      | with_reducible refine inv_ite ?_ ?_
      | with_reducible apply ok_inv
      | with_reducible apply fail_inv
      | with_reducible apply wait_inv
      | split
      | with_reducible refine res_andThen ?_ ?_
      | with_reducible apply ih
      | with_reducible refine readDev_keeps hm ?_

theorem writeSpans_keeps {w : Who} {y0 : List BlkData} {y1 : List Byte} {y2 : State} (hm : 4202584 &&& κ = 4202584)  (hy2 : (Keeps κ s₀) y2) : ResInv (Keeps κ s₀) (writeSpans w y0 y1 y2) := by
  induction y0 generalizing w y1 y2 with
  | nil =>
    unfold writeSpans
    repeat' first
      | with_reducible assumption
      | with_reducible intro _
      | with_reducible refine res_ite ?_ ?_
      | with_reducible refine inv_ite ?_ ?_
      | with_reducible apply ok_inv
  | cons a t ih =>
    unfold writeSpans
    repeat' first
      | with_reducible assumption
      | with_reducible intro _
      | with_reducible refine res_ite ?_ ?_
      | with_reducible refine inv_ite ?_ ?_
      | with_reducible apply ok_inv
      | with_reducible apply fail_inv
      | with_reducible apply wait_inv
      | split
      | with_reducible refine res_andThen ?_ ?_
      | with_reducible apply ih
      | with_reducible refine writeDev_keeps hm ?_

theorem checkSpans_keeps {w : Who} {y0 : List BlkData} {y1 : State} (hm : 4194376 &&& κ = 4194376)  (hy1 : (Keeps κ s₀) y1) : ResInv (Keeps κ s₀) (checkSpans w y0 y1) := by
  induction y0 generalizing w y1 with
  | nil =>
    unfold checkSpans
    repeat' first
      | with_reducible assumption
      | with_reducible intro _
      | with_reducible refine res_ite ?_ ?_
      | with_reducible refine inv_ite ?_ ?_
      | with_reducible apply ok_inv
  | cons a t ih =>
    unfold checkSpans
    repeat' first
      | with_reducible assumption
      | with_reducible intro _
      | with_reducible refine res_ite ?_ ?_
      | with_reducible refine inv_ite ?_ ?_
      | with_reducible apply ok_inv
      | with_reducible apply fail_inv
      | with_reducible apply wait_inv
      | split
      | with_reducible refine res_andThen ?_ ?_
      | with_reducible apply ih
      | with_reducible refine checkWrite_keeps hm ?_

theorem reserveRing_keeps {c : Option Nat} {step : Option Nat} {lo : Nat} {span : Nat} {cls : Nat} {accepted : Nat} {n : RingNeed} {s : State} (hm : 67108864 &&& κ = 67108864)  (hs : (Keeps κ s₀) s) : OptInv (Keeps κ s₀) (reserveRing c step lo span cls accepted n s) := by
  unfold reserveRing
  repeat' first
    | with_reducible assumption
    | with_reducible intro _
    | with_reducible refine opt_ite ?_ ?_
    | with_reducible refine inv_ite ?_ ?_
    | with_reducible apply optSome_inv
    | with_reducible exact optNone_inv
    | split
    | (dsimp only)
    | with_reducible refine upd_srings hm ?_

theorem reserveOne_keeps {c : Nat} {bounded : Bool} {accepted : Nat} {n : RingNeed} {s : State} (hm : 67108864 &&& κ = 67108864)  (hs : (Keeps κ s₀) s) : OptInv (Keeps κ s₀) (reserveOne c bounded accepted n s) := by
  unfold reserveOne
  repeat' first
    | with_reducible assumption
    | with_reducible intro _
    | with_reducible refine opt_ite ?_ ?_
    | with_reducible refine inv_ite ?_ ?_
    | with_reducible apply optSome_inv
    | with_reducible exact optNone_inv
    | split
    | with_reducible refine reserveRing_keeps hm ?_

theorem reserveAll_keeps {c : Nat} {bounded : Bool} {accepted : Nat} {y0 : List RingNeed} {y1 : State} (hm : 67108864 &&& κ = 67108864)  (hy1 : (Keeps κ s₀) y1) : OptInv (Keeps κ s₀) (reserveAll c bounded accepted y0 y1) := by
  induction y0 generalizing c bounded accepted y1 with
  | nil =>
    unfold reserveAll
    repeat' first
      | with_reducible assumption
      | with_reducible intro _
      | with_reducible apply optSome_inv
  | cons a t ih =>
    unfold reserveAll
    repeat' first
      | with_reducible assumption
      | with_reducible intro _
      | with_reducible apply optSome_inv
      | with_reducible exact optNone_inv
      | split
      | with_reducible apply ih
      | with_reducible refine reserveOne_keeps hm ?_
      | refine opt_some (by with_reducible assumption) ?_

theorem droneRing_keeps {h : Nat} {s : State} (hm : 67108864 &&& κ = 67108864)  (hs : (Keeps κ s₀) s) : (Keeps κ s₀) (droneRing h s) := by
  unfold droneRing
  repeat' first
    | with_reducible assumption
    | with_reducible intro _
    | split
    | with_reducible refine reserveRing_keeps hm ?_
    | refine opt_some (by with_reducible assumption) ?_

theorem bagRing_keeps {ch : Nat} {s : State} (hm : 67108864 &&& κ = 67108864)  (hs : (Keeps κ s₀) s) : (Keeps κ s₀) (bagRing ch s) := by
  unfold bagRing
  repeat' first
    | with_reducible assumption
    | with_reducible intro _
    | split
    | with_reducible refine reserveRing_keeps hm ?_
    | refine opt_some (by with_reducible assumption) ?_

theorem freeStep_keeps {h : Nat} {s : State} (hm : 67108864 &&& κ = 67108864)  (hs : (Keeps κ s₀) s) : (Keeps κ s₀) (freeStep h s) := by
  unfold freeStep
  repeat' first
    | with_reducible assumption
    | with_reducible intro _
    | split
    | (dsimp only)
    | with_reducible refine upd_srings hm ?_

theorem endRun_keeps {h : Nat} {s : State} (hm : 75497472 &&& κ = 75497472)  (hs : (Keeps κ s₀) s) : (Keeps κ s₀) (endRun h s) := by
  have u0 : 8388608 &&& κ = 8388608 := sub_mask (by decide) hm
  have u1 : 67108864 &&& κ = 67108864 := sub_mask (by decide) hm
  unfold endRun
  repeat' first
    | with_reducible assumption
    | with_reducible intro _
    | split
    | with_reducible refine collMod_keeps u0 ?_
    | with_reducible refine freeStep_keeps u1 ?_

theorem freeBagRing_keeps {ch : Nat} {s : State} (hm : 67108864 &&& κ = 67108864)  (hs : (Keeps κ s₀) s) : (Keeps κ s₀) (freeBagRing ch s) := by
  unfold freeBagRing
  repeat' first
    | with_reducible assumption
    | with_reducible intro _
    | split
    | (dsimp only)
    | with_reducible refine upd_srings hm ?_

theorem notePeak_keeps {e : Nat} {s : State} (hm : 64 &&& κ = 64)  (hs : (Keeps κ s₀) s) : (Keeps κ s₀) (notePeak e s) := by
  unfold notePeak
  repeat' first
    | with_reducible assumption
    | with_reducible intro _
    | with_reducible refine inv_ite ?_ ?_
    | split
    | with_reducible refine regField_keeps hm ?_

theorem sringMod_keeps {e : Nat} {no : Nat} {f : SRing → SRing} {s : State} (hm : 67108864 &&& κ = 67108864)  (hs : (Keeps κ s₀) s) : (Keeps κ s₀) (sringMod e no f s) := by
  unfold sringMod
  repeat' first
    | with_reducible assumption
    | with_reducible intro _
    | with_reducible refine inv_ite ?_ ?_
    | split
    | (dsimp only)
    | with_reducible refine upd_srings hm ?_

theorem prefetchNext_keeps {s0 : State} {r : SRing} {addr : Nat} {b : Nat} {s : State} (hm : 4194376 &&& κ = 4194376)  (hs0 : (Keeps κ s₀) s0) (hs : (Keeps κ s₀) s) : (Keeps κ s₀) (prefetchNext s0 r addr b s) := by
  unfold prefetchNext
  repeat' first
    | with_reducible assumption
    | with_reducible intro _
    | with_reducible refine inv_ite ?_ ?_
    | split
    | with_reducible refine prefetch_keeps hm ?_
    | (dsimp only)

theorem slideIssue_keeps {e : Nat} {port : Nat} {addr : Nat} {n : Nat} {s : State} (hm : 205520968 &&& κ = 205520968)  (hs : (Keeps κ s₀) s) : (Keeps κ s₀) (slideIssue e port addr n s) := by
  have u0 : 64 &&& κ = 64 := sub_mask (by decide) hm
  have u1 : 134217792 &&& κ = 134217792 := sub_mask (by decide) hm
  have u2 : 67108864 &&& κ = 67108864 := sub_mask (by decide) hm
  have u3 : 4194376 &&& κ = 4194376 := sub_mask (by decide) hm
  unfold slideIssue
  repeat' first
    | with_reducible assumption
    | with_reducible intro _
    | with_reducible refine inv_ite ?_ ?_
    | split
    | with_reducible refine regField_keeps u0 ?_
    | with_reducible refine chargeEngine_keeps u1 ?_
    | with_reducible refine sringMod_keeps u2 ?_
    | with_reducible refine prefetchNext_keeps u3 ?_ ?_
    | (dsimp only)

theorem execSlideIssue_keeps {engine : Nat} {port : Nat} {addr : Nat} {bytes : Nat} {s : State} (hm : 205520968 &&& κ = 205520968)  (hs : (Keeps κ s₀) s) : OutInv (Keeps κ s₀) (execSlideIssue engine port addr bytes s) := by
  unfold execSlideIssue
  repeat' first
    | with_reducible assumption
    | with_reducible intro _
    | with_reducible apply out_next
    | split
    | with_reducible refine slideIssue_keeps hm ?_

theorem transferLanded_keeps {e : Nat} {no : Nat} {slot : Nat} {n : Nat} {poison : Bool} {s : State} (hm : 67108864 &&& κ = 67108864)  (hs : (Keeps κ s₀) s) : (Keeps κ s₀) (transferLanded e no slot n poison s) := by
  unfold transferLanded
  repeat' first
    | with_reducible assumption
    | with_reducible intro _
    | with_reducible refine inv_ite ?_ ?_
    | split
    | with_reducible refine sringMod_keeps hm ?_

theorem execTransferLanded_keeps {engine : Nat} {ring : Nat} {slot : Nat} {bytes : Nat} {poison : Bool} {s : State} (hm : 67108864 &&& κ = 67108864)  (hs : (Keeps κ s₀) s) : OutInv (Keeps κ s₀) (execTransferLanded engine ring slot bytes poison s) := by
  unfold execTransferLanded
  repeat' first
    | with_reducible assumption
    | with_reducible intro _
    | with_reducible apply out_next
    | split
    | with_reducible refine transferLanded_keeps hm ?_

theorem consumeRings_keeps {c : Nat} {s : State} (hm : 67108928 &&& κ = 67108928)  (hs : (Keeps κ s₀) s) : (Keeps κ s₀) (consumeRings c s) := by
  have u0 : 67108864 &&& κ = 67108864 := sub_mask (by decide) hm
  have u1 : 64 &&& κ = 64 := sub_mask (by decide) hm
  unfold consumeRings
  repeat' first
    | with_reducible assumption
    | with_reducible intro _
    | with_reducible refine inv_ite ?_ ?_
    | split
    | with_reducible refine inv_foldl ?_ ?_
    | with_reducible refine bumpSat_keeps u1 ?_
    | (dsimp only)
    | with_reducible refine upd_srings u0 ?_

theorem produce_keeps {c : Nat} {port : Nat} {n : Nat} {s : State} (hm : 67108928 &&& κ = 67108928)  (hs : (Keeps κ s₀) s) : (Keeps κ s₀) (produce c port n s) := by
  have u0 : 67108864 &&& κ = 67108864 := sub_mask (by decide) hm
  have u1 : 64 &&& κ = 64 := sub_mask (by decide) hm
  unfold produce
  repeat' first
    | with_reducible assumption
    | with_reducible intro _
    | with_reducible refine inv_ite ?_ ?_
    | split
    | with_reducible refine inv_foldl ?_ ?_
    | with_reducible refine bumpSat_keeps u1 ?_
    | (dsimp only)
    | with_reducible refine upd_srings u0 ?_

theorem ringsMod_keeps {f : SRing → Bool} {g : SRing → SRing} {s : State} (hm : 67108864 &&& κ = 67108864)  (hs : (Keeps κ s₀) s) : (Keeps κ s₀) (ringsMod f g s) := by
  unfold ringsMod
  repeat' first
    | with_reducible assumption
    | with_reducible intro _
    | with_reducible refine inv_ite ?_ ?_
    | split
    | (dsimp only)
    | with_reducible refine upd_srings hm ?_

theorem freeStage_keeps {c : Nat} {s : State} (hm : 67108864 &&& κ = 67108864)  (hs : (Keeps κ s₀) s) : (Keeps κ s₀) (freeStage c s) := by
  unfold freeStage
  repeat' first
    | with_reducible assumption
    | with_reducible intro _
    | split
    | (dsimp only)
    | with_reducible refine upd_srings hm ?_

theorem slideBucketFill_keeps {e : Nat} {mnt : Bool} {ns : Nat} {s : State} (hm : 134217728 &&& κ = 134217728)  (hs : (Keeps κ s₀) s) : (Keeps κ s₀) (slideBucketFill e mnt ns s) := by
  unfold slideBucketFill
  repeat' first
    | with_reducible assumption
    | with_reducible intro _
    | with_reducible refine inv_ite ?_ ?_
    | split
    | with_reducible refine setEngine_keeps hm ?_

theorem execSlideBucketFill_keeps {engine : Nat} {maintenance : Bool} {ns : Nat} {s : State} (hm : 134217728 &&& κ = 134217728)  (hs : (Keeps κ s₀) s) : OutInv (Keeps κ s₀) (execSlideBucketFill engine maintenance ns s) := by
  unfold execSlideBucketFill
  repeat' first
    | with_reducible assumption
    | with_reducible intro _
    | with_reducible apply out_next
    | split
    | with_reducible refine slideBucketFill_keeps hm ?_

theorem setMntRates_keeps {pm : Nat} {s : State} (hm : 64 &&& κ = 64)  (hs : (Keeps κ s₀) s) : (Keeps κ s₀) (setMntRates pm s) := by
  unfold setMntRates
  repeat' first
    | with_reducible assumption
    | with_reducible intro _
    | split
    | with_reducible refine inv_foldl ?_ ?_
    | with_reducible refine regField_keeps hm ?_

theorem borePoison_keeps {x : Cmd} {cl : Nat} {addr : Word64} {s : State} (hm : 13196354134208 &&& κ = 13196354134208)  (hs : (Keeps κ s₀) s) : (Keeps κ s₀) (borePoison x cl addr s) := by
  have u0 : 8192 &&& κ = 8192 := sub_mask (by decide) hm
  unfold borePoison
  repeat' first
    | with_reducible assumption
    | with_reducible intro _
    | split
    | with_reducible refine cmdMod_keeps u0 ?_
    | with_reducible refine failCmd_keeps hm ?_

theorem bellPoison_keeps {x : Cmd} {addr : Nat} {s : State} (hm : 13196354134208 &&& κ = 13196354134208)  (hs : (Keeps κ s₀) s) : (Keeps κ s₀) (bellPoison x addr s) := by
  have u0 : 8192 &&& κ = 8192 := sub_mask (by decide) hm
  unfold bellPoison
  repeat' first
    | with_reducible assumption
    | with_reducible intro _
    | split
    | with_reducible refine cmdMod_keeps u0 ?_
    | with_reducible refine failCmd_keeps hm ?_

theorem unlessPoison_keeps {x : Cmd} {s : State} {f : State} (hm : 13196354134208 &&& κ = 13196354134208)  (hs : (Keeps κ s₀) s) (hf : (Keeps κ s₀) f) : (Keeps κ s₀) (unlessPoison x s f) := by
  unfold unlessPoison
  repeat' first
    | with_reducible assumption
    | with_reducible intro _
    | split
    | with_reducible refine bellPoison_keeps hm ?_

theorem streamDeadlock_keeps {ps : List (Nat × Nat)} {s : State} (hm : 13196899524808 &&& κ = 13196899524808)  (hs : (Keeps κ s₀) s) : (Keeps κ s₀) (streamDeadlock ps s) := by
  have u0 : 75497472 &&& κ = 75497472 := sub_mask (by decide) hm
  have u1 : 64 &&& κ = 64 := sub_mask (by decide) hm
  have u2 : 192 &&& κ = 192 := sub_mask (by decide) hm
  have u3 : 2684485704 &&& κ = 2684485704 := sub_mask (by decide) hm
  have u4 : 13196354134016 &&& κ = 13196354134016 := sub_mask (by decide) hm
  unfold streamDeadlock
  repeat' first
    | with_reducible assumption
    | with_reducible intro _
    | with_reducible refine inv_ite ?_ ?_
    | split
    | with_reducible refine bumpSat_keeps u1 ?_
    | with_reducible refine blkFault_keeps u2 ?_
    | with_reducible refine raise_keeps u3 ?_
    | with_reducible refine finish_keeps u4 ?_
    | (dsimp only)
    | with_reducible refine upd_colls_srings u0 ?_

theorem execStreamDeadlock_keeps {rings : List (Nat × Nat)} {s : State} (hm : 13196903720152 &&& κ = 13196903720152)  (hs : (Keeps κ s₀) s) : OutInv (Keeps κ s₀) (execStreamDeadlock rings s) := by
  have u0 : 4326616 &&& κ = 4326616 := sub_mask (by decide) hm
  have u1 : 13196899524808 &&& κ = 13196899524808 := sub_mask (by decide) hm
  unfold execStreamDeadlock
  repeat' first
    | with_reducible assumption
    | with_reducible intro _
    | with_reducible apply out_next
    | split
    | with_reducible refine drainAll_keeps u0 ?_
    | with_reducible refine streamDeadlock_keeps u1 ?_

theorem resourceTimeout_keeps {c : Nat} {s : State} (hm : 13196354134208 &&& κ = 13196354134208)  (hs : (Keeps κ s₀) s) : (Keeps κ s₀) (resourceTimeout c s) := by
  have u0 : 64 &&& κ = 64 := sub_mask (by decide) hm
  unfold resourceTimeout
  repeat' first
    | with_reducible assumption
    | with_reducible intro _
    | with_reducible refine inv_ite ?_ ?_
    | split
    | with_reducible refine bumpSat_keeps u0 ?_
    | with_reducible refine failCmd_keeps hm ?_

theorem execResourceWaitTimeout_keeps {c : Nat} {s : State} (hm : 13196354134208 &&& κ = 13196354134208)  (hs : (Keeps κ s₀) s) : OutInv (Keeps κ s₀) (execResourceWaitTimeout c s) := by
  unfold execResourceWaitTimeout
  repeat' first
    | with_reducible assumption
    | with_reducible intro _
    | with_reducible apply out_next
    | split
    | with_reducible refine resourceTimeout_keeps hm ?_

end Sys2Proof.Machine
end

