-- ==== Sys2Proof/Laws/FramesJournal.lean ====
section
/-! SUPPORT. The parts of the state that the functions of Machine/Journal.lean may write. -/

namespace Sys2Proof.Machine

variable {κ : Nat} {s₀ : State}

theorem shipRecord_keeps {r : JRec} {s : State} (hm : 536870920 &&& κ = 536870920)  (hs : (Keeps κ s₀) s) : (Keeps κ s₀) (shipRecord r s) := by
  have u0 : 536870912 &&& κ = 536870912 := sub_mask (by decide) hm
  unfold shipRecord
  repeat' first
    | with_reducible assumption
    | with_reducible intro _
    | with_reducible refine inv_ite ?_ ?_
    | split
    | with_reducible refine sendMsg_keeps hm ?_
    | (dsimp only)
    | with_reducible refine upd_cst u0 ?_

theorem shipRest_keeps {s : State} (hm : 536870920 &&& κ = 536870920)  (hs : (Keeps κ s₀) s) : (Keeps κ s₀) (shipRest s) := by
  unfold shipRest
  repeat' first
    | with_reducible assumption
    | with_reducible intro _
    | split
    | with_reducible refine inv_foldl ?_ ?_
    | with_reducible refine shipRecord_keeps hm ?_

theorem journalPut_keeps {r : JRec} {s : State} (hm : 813694984 &&& κ = 813694984)  (hs : (Keeps κ s₀) s) : (Keeps κ s₀) (journalPut r s).2 := by
  have u0 : 268435456 &&& κ = 268435456 := sub_mask (by decide) hm
  have u1 : 8388608 &&& κ = 8388608 := sub_mask (by decide) hm
  have u2 : 536870920 &&& κ = 536870920 := sub_mask (by decide) hm
  unfold journalPut
  repeat' first
    | with_reducible assumption
    | with_reducible intro _
    | split
    | with_reducible refine collMod_keeps u1 ?_
    | with_reducible refine shipRecord_keeps u2 ?_
    | (dsimp only)
    | with_reducible refine upd_bag u0 ?_

theorem journalOwn_keeps {type : Nat} {coll : Nat} {body : JBody} {bytes : Nat} {dom : Nat} {s : State} (hm : 813694984 &&& κ = 813694984)  (hs : (Keeps κ s₀) s) : (Keeps κ s₀) (journalOwn type coll body bytes dom s).2 := by
  unfold journalOwn
  repeat' first
    | with_reducible assumption
    | with_reducible intro _
    | split
    | with_reducible refine journalPut_keeps hm ?_

theorem journalDeferred_keeps {d : Nat} {s : State} (hm : 813694984 &&& κ = 813694984)  (hs : (Keeps κ s₀) s) : (Keeps κ s₀) (journalDeferred d s) := by
  unfold journalDeferred
  repeat' first
    | with_reducible assumption
    | with_reducible intro _
    | split
    | with_reducible refine journalOwn_keeps hm ?_

theorem deferAll_keeps {d : Nat} {es : List Deferred} {s : State} (hm : 2963406920 &&& κ = 2963406920)  (hs : (Keeps κ s₀) s) : (Keeps κ s₀) (deferAll d es s) := by
  have u0 : 2684485704 &&& κ = 2684485704 := sub_mask (by decide) hm
  have u1 : 2097152 &&& κ = 2097152 := sub_mask (by decide) hm
  have u2 : 813694984 &&& κ = 813694984 := sub_mask (by decide) hm
  unfold deferAll
  repeat' first
    | with_reducible assumption
    | with_reducible intro _
    | split
    | with_reducible refine raise_keeps u0 ?_
    | with_reducible refine domMod_keeps u1 ?_
    | with_reducible refine journalDeferred_keeps u2 ?_

theorem countLost_keeps {n : Nat} {s : State} (hm : 64 &&& κ = 64)  (hs : (Keeps κ s₀) s) : (Keeps κ s₀) (countLost n s) := by
  unfold countLost
  repeat' first
    | with_reducible assumption
    | with_reducible intro _
    | split
    | with_reducible refine bumpSat_keeps hm ?_

theorem closeStripe_keeps {n : Nat} {s : State} (hm : 268435456 &&& κ = 268435456)  (hs : (Keeps κ s₀) s) : (Keeps κ s₀) (closeStripe n s) := by
  unfold closeStripe
  repeat' first
    | with_reducible assumption
    | with_reducible intro _
    | split
    | (dsimp only)
    | with_reducible refine upd_bag hm ?_

theorem finishJournaled_keeps {c : Nat} {n : Nat} {needFlash : Bool} {f : Cmd → Cmd} {s : State} (hm : 13196622569472 &&& κ = 13196622569472)  (hs : (Keeps κ s₀) s) : (Keeps κ s₀) (finishJournaled c n needFlash f s) := by
  have u0 : 8192 &&& κ = 8192 := sub_mask (by decide) hm
  have u1 : 13196354134016 &&& κ = 13196354134016 := sub_mask (by decide) hm
  have u2 : 268435456 &&& κ = 268435456 := sub_mask (by decide) hm
  unfold finishJournaled
  repeat' first
    | with_reducible assumption
    | with_reducible intro _
    | with_reducible refine inv_ite ?_ ?_
    | split
    | with_reducible refine cmdMod_keeps u0 ?_
    | with_reducible refine raiseHorizons_keeps u0 ?_
    | with_reducible refine freeUnits_keeps u1 ?_
    | with_reducible refine finish_keeps u1 ?_
    | with_reducible refine closeStripe_keeps u2 ?_

theorem wakeFlash_keeps {s : State} (hm : 8192 &&& κ = 8192)  (hs : (Keeps κ s₀) s) : (Keeps κ s₀) (wakeFlash s) := by
  unfold wakeFlash
  repeat' first
    | with_reducible assumption
    | with_reducible intro _
    | with_reducible refine inv_ite ?_ ?_
    | split
    | (dsimp only)
    | with_reducible refine upd_cmds hm ?_

theorem journalCmd_keeps {x : Cmd} {type : Nat} {coll : Nat} {body : JBody} {payload : Nat} {s : State} (hm : 813694984 &&& κ = 813694984)  (hs : (Keeps κ s₀) s) : ResInv (Keeps κ s₀) (journalCmd x type coll body payload s) := by
  unfold journalCmd
  repeat' first
    | with_reducible assumption
    | with_reducible intro _
    | with_reducible refine res_ite ?_ ?_
    | with_reducible refine inv_ite ?_ ?_
    | with_reducible apply ok_inv
    | with_reducible apply fail_inv
    | with_reducible apply wait_inv
    | split
    | with_reducible refine journalPut_keeps hm ?_

theorem account_keeps {d : Nat} {scanned : Nat} {expansions : Nat} {macs : Nat} {femto : Nat} {s : State} (hm : 2097152 &&& κ = 2097152)  (hs : (Keeps κ s₀) s) : (Keeps κ s₀) (account d scanned expansions macs femto s) := by
  unfold account
  repeat' first
    | with_reducible assumption
    | with_reducible intro _
    | with_reducible refine inv_ite ?_ ?_
    | split
    | with_reducible refine domMod_keeps hm ?_

end Sys2Proof.Machine
end

