-- ==== Sys2Proof/Laws/FramesBell.lean ====
section
/-! SUPPORT. The parts of the state that the functions of Machine/Bell.lean may write. -/

namespace Sys2Proof.Machine

variable {κ : Nat} {s₀ : State}

theorem noteBell_keeps {c : Nat} {fs : BitVec 7} {n : Nat} {s : State} (hm : 64 &&& κ = 64)  (hs : (Keeps κ s₀) s) : (Keeps κ s₀) (noteBell c fs n s) := by
  unfold noteBell
  repeat' first
    | with_reducible assumption
    | with_reducible intro _
    | split
    | with_reducible refine bumpSat_keeps hm ?_
    | with_reducible refine regField_keeps hm ?_

theorem noteBore_keeps {c : Nat} {fs : BitVec 7} {n : Nat} {s : State} (hm : 64 &&& κ = 64)  (hs : (Keeps κ s₀) s) : (Keeps κ s₀) (noteBore c fs n s) := by
  unfold noteBore
  repeat' first
    | with_reducible assumption
    | with_reducible intro _
    | with_reducible refine inv_ite ?_ ?_
    | split
    | with_reducible refine bumpSat_keeps hm ?_

theorem takeTile_keeps {x : Nat} {c : Nat} {rows : Nat} {status : Word64} {s : State} (hm : 4398046511104 &&& κ = 4398046511104)  (hs : (Keeps κ s₀) s) : (Keeps κ s₀) (takeTile x c rows status s) := by
  unfold takeTile
  repeat' first
    | with_reducible assumption
    | with_reducible intro _
    | split
    | with_reducible refine setBell_keeps hm ?_

theorem countDrainWait_keeps {x : Nat} {cs : List Nat} {s : State} (hm : 4398046511168 &&& κ = 4398046511168)  (hs : (Keeps κ s₀) s) : (Keeps κ s₀) (countDrainWait x cs s) := by
  have u0 : 64 &&& κ = 64 := sub_mask (by decide) hm
  have u1 : 4398046511104 &&& κ = 4398046511104 := sub_mask (by decide) hm
  unfold countDrainWait
  repeat' first
    | with_reducible assumption
    | with_reducible intro _
    | with_reducible refine inv_ite ?_ ?_
    | split
    | with_reducible refine inv_foldl ?_ ?_
    | with_reducible refine bumpSat_keeps u0 ?_
    | with_reducible refine setBell_keeps u1 ?_

theorem loadVregs_keeps {c : Nat} {vs : List EncVec} {s : State} (hm : 4398046511104 &&& κ = 4398046511104)  (hs : (Keeps κ s₀) s) : (Keeps κ s₀) (loadVregs c vs s) := by
  unfold loadVregs
  repeat' first
    | with_reducible assumption
    | with_reducible intro _
    | split
    | with_reducible refine setBell_keeps hm ?_

theorem countRegions_keeps {x : Nat} {img : List Byte} {i : Nat} {cl : List Nat} {vs : List EncVec} {outs : List (List (Flagged Nat))} {s : State} (hm : 4398046511168 &&& κ = 4398046511168)  (hs : (Keeps κ s₀) s) : (Keeps κ s₀) (countRegions x img i cl vs outs s) := by
  have u0 : 64 &&& κ = 64 := sub_mask (by decide) hm
  have u1 : 4398046511104 &&& κ = 4398046511104 := sub_mask (by decide) hm
  unfold countRegions
  repeat' first
    | with_reducible assumption
    | with_reducible intro _
    | split
    | with_reducible refine inv_foldl ?_ ?_
    | with_reducible refine snd_foldl ?_ ?_
    | with_reducible refine bumpWrap_keeps u0 ?_
    | with_reducible refine noteBell_keeps u0 ?_
    | with_reducible refine noteBore_keeps u0 ?_
    | with_reducible refine takeTile_keeps u1 ?_

theorem countBell_keeps {c : Nat} {before : List EncVec} {after : List EncVec} {s : State} (hm : 64 &&& κ = 64)  (hs : (Keeps κ s₀) s) : (Keeps κ s₀) (countBell c before after s) := by
  unfold countBell
  repeat' first
    | with_reducible assumption
    | with_reducible intro _
    | with_reducible refine inv_ite ?_ ?_
    | split
    | with_reducible refine inv_foldl ?_ ?_
    | with_reducible refine noteBell_keeps hm ?_

theorem encDrain_keeps {x : Cmd} {e : Enc} {i : Nat} {vs : List EncVec} {s : State} (hm : 4398046511168 &&& κ = 4398046511168)  (hs : (Keeps κ s₀) s) : EncInv (Keeps κ s₀) (encDrain x e i vs s) := by
  have u0 : 4398046511104 &&& κ = 4398046511104 := sub_mask (by decide) hm
  have u2 : 64 &&& κ = 64 := sub_mask (by decide) hm
  unfold encDrain
  repeat' first
    | with_reducible assumption
    | with_reducible intro _
    | with_reducible exact EncInv.paused
    | with_reducible exact EncInv.lost
    | with_reducible exact EncInv.poisoned
    | with_reducible exact EncInv.full
    | with_reducible apply EncInv.ok
    | split
    | with_reducible refine freeTiles_keeps u0 ?_
    | with_reducible refine loadVregs_keeps u0 ?_
    | with_reducible refine countRegions_keeps hm ?_
    | with_reducible refine countBell_keeps u2 ?_
    | (dsimp only)

theorem encRegion_keeps {x : Cmd} {dom : Nat} {e : Enc} {s : State} (hm : 4398048608320 &&& κ = 4398048608320)  (hs : (Keeps κ s₀) s) : EncInv (Keeps κ s₀) (encRegion x dom e s) := by
  have u0 : 2097152 &&& κ = 2097152 := sub_mask (by decide) hm
  have u1 : 4398046511168 &&& κ = 4398046511168 := sub_mask (by decide) hm
  unfold encRegion
  repeat' first
    | with_reducible assumption
    | with_reducible intro _
    | with_reducible refine enc_ite ?_ ?_
    | with_reducible refine inv_ite ?_ ?_
    | with_reducible exact EncInv.paused
    | with_reducible exact EncInv.lost
    | with_reducible exact EncInv.poisoned
    | with_reducible exact EncInv.full
    | with_reducible apply EncInv.ok
    | split
    | with_reducible refine account_keeps u0 ?_
    | with_reducible refine encDrain_keeps u1 ?_
    | refine enc_ok (by with_reducible assumption) ?_
    | (dsimp only)

theorem encCombine_keeps {x : Cmd} {e : Enc} {s : State} (hm : 4398046511168 &&& κ = 4398046511168)  (hs : (Keeps κ s₀) s) : EncInv (Keeps κ s₀) (encCombine x e s) := by
  unfold encCombine
  repeat' first
    | with_reducible assumption
    | with_reducible intro _
    | with_reducible refine enc_ite ?_ ?_
    | with_reducible refine inv_ite ?_ ?_
    | with_reducible exact EncInv.paused
    | with_reducible exact EncInv.lost
    | with_reducible exact EncInv.poisoned
    | with_reducible exact EncInv.full
    | with_reducible apply EncInv.ok
    | split
    | with_reducible refine encDrain_keeps hm ?_

theorem takeBatch_keeps {version : Nat} {n : Nat} {s : State} (hm : 16777216 &&& κ = 16777216)  (hs : (Keeps κ s₀) s) : (Keeps κ s₀) (takeBatch version n s) := by
  unfold takeBatch
  repeat' first
    | with_reducible assumption
    | with_reducible intro _
    | split
    | (dsimp only)
    | with_reducible refine upd_progs hm ?_

end Sys2Proof.Machine
end

