-- ==== Sys2Proof/Laws/FramesEncode.lean ====
section
/-! SUPPORT. The parts of the state that the functions of Machine/Encode.lean may write. -/

namespace Sys2Proof.Machine

variable {κ : Nat} {s₀ : State}

theorem raiseTable_keeps {b : Blk} {ev : Nat → Ev} {h : Nat} {s : State} (hm : 2684485704 &&& κ = 2684485704)  (hs : (Keeps κ s₀) s) : (Keeps κ s₀) (raiseTable b ev h s) := by
  unfold raiseTable
  repeat' first
    | with_reducible assumption
    | with_reducible intro _
    | split
    | with_reducible refine inv_foldl ?_ ?_
    | with_reducible refine raise_keeps hm ?_

theorem failPlain_keeps {status : Nat} {s : State} (hm : 0 &&& κ = 0)  (hs : (Keeps κ s₀) s) : RowInv (Keeps κ s₀) (failPlain status s) := by
  unfold failPlain
  repeat' first
    | with_reducible assumption
    | with_reducible intro _
    | with_reducible apply rowOk_inv
    | with_reducible apply rowFail_inv

theorem failAt_keeps {x : Cmd} {status : Nat} {off : Nat} {s : State} (hm : 0 &&& κ = 0)  (hs : (Keeps κ s₀) s) : RowInv (Keeps κ s₀) (failAt x status off s) := by
  unfold failAt
  repeat' first
    | with_reducible assumption
    | with_reducible intro _
    | with_reducible apply rowOk_inv
    | with_reducible apply rowFail_inv

theorem progLoad_keeps {x : Cmd} {s : State} (hm : 13197323018312 &&& κ = 13197323018312)  (hs : (Keeps κ s₀) s) : RowInv (Keeps κ s₀) (progLoad x s) := by
  have u0 : 16777216 &&& κ = 16777216 := sub_mask (by decide) hm
  have u1 : 138412104 &&& κ = 138412104 := sub_mask (by decide) hm
  have u2 : 13196622569472 &&& κ = 13196622569472 := sub_mask (by decide) hm
  have u3 : 813694984 &&& κ = 813694984 := sub_mask (by decide) hm
  have u4 : 0 &&& κ = 0 := sub_mask (by decide) hm
  unfold progLoad
  repeat' first
    | with_reducible assumption
    | with_reducible intro _
    | with_reducible refine row_ite ?_ ?_
    | with_reducible refine res_ite ?_ ?_
    | with_reducible refine inv_ite ?_ ?_
    | with_reducible apply ok_inv
    | with_reducible apply fail_inv
    | with_reducible apply wait_inv
    | with_reducible apply rowOk_inv
    | with_reducible apply rowFail_inv
    | with_reducible apply rowWait_inv
    | with_reducible refine row_andThen ?_ ?_
    | split
    | with_reducible refine res_andThen ?_ ?_
    | with_reducible refine readBuf_keeps u1 ?_
    | with_reducible refine finishJournaled_keeps u2 ?_
    | with_reducible refine journalCmd_keeps u3 ?_
    | with_reducible refine failPlain_keeps u4 ?_
    | with_reducible refine failAt_keeps u4 ?_
    | refine res_ok (by with_reducible assumption) ?_
    | refine res_fail (by with_reducible assumption) ?_
    | refine res_wait (by with_reducible assumption) ?_
    | refine row_ok (by with_reducible assumption) ?_
    | refine row_fail (by with_reducible assumption) ?_
    | refine row_wait (by with_reducible assumption) ?_
    | (dsimp only)
    | with_reducible refine upd_progs u0 ?_

theorem execProgLoadLoad_keeps {c : Nat} {s : State} (hm : 13197323150552 &&& κ = 13197323150552)  (hs : (Keeps κ s₀) s) : OutInv (Keeps κ s₀) (execProgLoadLoad c s) := by
  have u0 : 4326616 &&& κ = 4326616 := sub_mask (by decide) hm
  have u1 : 13196354134208 &&& κ = 13196354134208 := sub_mask (by decide) hm
  have u2 : 13197323018312 &&& κ = 13197323018312 := sub_mask (by decide) hm
  unfold execProgLoadLoad
  repeat' first
    | with_reducible assumption
    | with_reducible intro _
    | with_reducible refine out_ite ?_ ?_
    | with_reducible refine inv_ite ?_ ?_
    | with_reducible refine row_ite ?_ ?_
    | with_reducible refine res_ite ?_ ?_
    | with_reducible apply out_next
    | with_reducible apply rowOk_inv
    | with_reducible apply rowFail_inv
    | with_reducible apply rowWait_inv
    | split
    | with_reducible refine drainAll_keeps u0 ?_
    | with_reducible refine settle_keeps u1 ?_
    | with_reducible refine progLoad_keeps u2 ?_

theorem progRetire_keeps {x : Cmd} {s : State} (hm : 13197184606216 &&& κ = 13197184606216)  (hs : (Keeps κ s₀) s) : RowInv (Keeps κ s₀) (progRetire x s) := by
  have u0 : 16777216 &&& κ = 16777216 := sub_mask (by decide) hm
  have u1 : 13196622569472 &&& κ = 13196622569472 := sub_mask (by decide) hm
  have u2 : 813694984 &&& κ = 813694984 := sub_mask (by decide) hm
  have u3 : 0 &&& κ = 0 := sub_mask (by decide) hm
  unfold progRetire
  repeat' first
    | with_reducible assumption
    | with_reducible intro _
    | with_reducible refine row_ite ?_ ?_
    | with_reducible refine res_ite ?_ ?_
    | with_reducible refine inv_ite ?_ ?_
    | with_reducible apply ok_inv
    | with_reducible apply fail_inv
    | with_reducible apply wait_inv
    | with_reducible apply rowOk_inv
    | with_reducible apply rowFail_inv
    | with_reducible apply rowWait_inv
    | with_reducible refine row_andThen ?_ ?_
    | split
    | with_reducible refine res_andThen ?_ ?_
    | with_reducible refine finishJournaled_keeps u1 ?_
    | with_reducible refine journalCmd_keeps u2 ?_
    | with_reducible refine failAt_keeps u3 ?_
    | refine res_ok (by with_reducible assumption) ?_
    | refine res_fail (by with_reducible assumption) ?_
    | refine res_wait (by with_reducible assumption) ?_
    | refine row_ok (by with_reducible assumption) ?_
    | refine row_fail (by with_reducible assumption) ?_
    | refine row_wait (by with_reducible assumption) ?_
    | (dsimp only)
    | with_reducible refine upd_progs u0 ?_

theorem execProgLoadRetire_keeps {c : Nat} {s : State} (hm : 13197188932824 &&& κ = 13197188932824)  (hs : (Keeps κ s₀) s) : OutInv (Keeps κ s₀) (execProgLoadRetire c s) := by
  have u0 : 4326616 &&& κ = 4326616 := sub_mask (by decide) hm
  have u1 : 13196354134208 &&& κ = 13196354134208 := sub_mask (by decide) hm
  have u2 : 13197184606216 &&& κ = 13197184606216 := sub_mask (by decide) hm
  unfold execProgLoadRetire
  repeat' first
    | with_reducible assumption
    | with_reducible intro _
    | with_reducible refine out_ite ?_ ?_
    | with_reducible refine inv_ite ?_ ?_
    | with_reducible refine row_ite ?_ ?_
    | with_reducible refine res_ite ?_ ?_
    | with_reducible apply out_next
    | with_reducible apply rowOk_inv
    | with_reducible apply rowFail_inv
    | with_reducible apply rowWait_inv
    | split
    | with_reducible refine drainAll_keeps u0 ?_
    | with_reducible refine settle_keeps u1 ?_
    | with_reducible refine progRetire_keeps u2 ?_

theorem tableLoad_keeps {x : Cmd} {s : State} (hm : 13197339795528 &&& κ = 13197339795528)  (hs : (Keeps κ s₀) s) : RowInv (Keeps κ s₀) (tableLoad x s) := by
  have u0 : 33554432 &&& κ = 33554432 := sub_mask (by decide) hm
  have u1 : 138412104 &&& κ = 138412104 := sub_mask (by decide) hm
  have u2 : 13196622569472 &&& κ = 13196622569472 := sub_mask (by decide) hm
  have u3 : 813694984 &&& κ = 813694984 := sub_mask (by decide) hm
  have u4 : 0 &&& κ = 0 := sub_mask (by decide) hm
  unfold tableLoad
  repeat' first
    | with_reducible assumption
    | with_reducible intro _
    | with_reducible refine row_ite ?_ ?_
    | with_reducible refine res_ite ?_ ?_
    | with_reducible refine inv_ite ?_ ?_
    | with_reducible apply ok_inv
    | with_reducible apply fail_inv
    | with_reducible apply wait_inv
    | with_reducible apply rowOk_inv
    | with_reducible apply rowFail_inv
    | with_reducible apply rowWait_inv
    | with_reducible refine row_andThen ?_ ?_
    | split
    | with_reducible refine res_andThen ?_ ?_
    | with_reducible refine readBuf_keeps u1 ?_
    | with_reducible refine finishJournaled_keeps u2 ?_
    | with_reducible refine journalCmd_keeps u3 ?_
    | with_reducible refine failPlain_keeps u4 ?_
    | with_reducible refine failAt_keeps u4 ?_
    | refine res_ok (by with_reducible assumption) ?_
    | refine res_fail (by with_reducible assumption) ?_
    | refine res_wait (by with_reducible assumption) ?_
    | refine row_ok (by with_reducible assumption) ?_
    | refine row_fail (by with_reducible assumption) ?_
    | refine row_wait (by with_reducible assumption) ?_
    | (dsimp only)
    | with_reducible refine upd_tables u0 ?_

theorem execTableLoad_keeps {c : Nat} {s : State} (hm : 13197339927768 &&& κ = 13197339927768)  (hs : (Keeps κ s₀) s) : OutInv (Keeps κ s₀) (execTableLoad c s) := by
  have u0 : 4326616 &&& κ = 4326616 := sub_mask (by decide) hm
  have u1 : 13196354134208 &&& κ = 13196354134208 := sub_mask (by decide) hm
  have u2 : 13197339795528 &&& κ = 13197339795528 := sub_mask (by decide) hm
  unfold execTableLoad
  repeat' first
    | with_reducible assumption
    | with_reducible intro _
    | with_reducible refine out_ite ?_ ?_
    | with_reducible refine inv_ite ?_ ?_
    | with_reducible refine row_ite ?_ ?_
    | with_reducible refine res_ite ?_ ?_
    | with_reducible apply out_next
    | with_reducible apply rowOk_inv
    | with_reducible apply rowFail_inv
    | with_reducible apply rowWait_inv
    | split
    | with_reducible refine drainAll_keeps u0 ?_
    | with_reducible refine settle_keeps u1 ?_
    | with_reducible refine tableLoad_keeps u2 ?_

theorem beginBarrier_keeps {table : Bool} {on : Nat} {s : State} (hm : 2147483648 &&& κ = 2147483648)  (hs : (Keeps κ s₀) s) : (Keeps κ s₀) (beginBarrier table on s).2 := by
  unfold beginBarrier
  repeat' first
    | with_reducible assumption
    | with_reducible intro _
    | split
    | (dsimp only)
    | with_reducible refine upd_chn hm ?_

theorem swapTable_keeps {h : Nat} {d : TblData} {s : State} (hm : 41943040 &&& κ = 41943040)  (hs : (Keeps κ s₀) s) : (Keeps κ s₀) (swapTable h d s) := by
  have u0 : 8388608 &&& κ = 8388608 := sub_mask (by decide) hm
  have u1 : 33554432 &&& κ = 33554432 := sub_mask (by decide) hm
  unfold swapTable
  repeat' first
    | with_reducible assumption
    | with_reducible intro _
    | with_reducible refine inv_ite ?_ ?_
    | split
    | (dsimp only)
    | with_reducible refine upd_colls u0 ?_
    | with_reducible refine upd_tables u1 ?_
    | with_reducible refine upd_colls_tables hm ?_

theorem tableSwap_keeps {x : Cmd} {s : State} (hm : 2994872392 &&& κ = 2994872392)  (hs : (Keeps κ s₀) s) : RowInv (Keeps κ s₀) (tableSwap x s) := by
  have u0 : 2147483648 &&& κ = 2147483648 := sub_mask (by decide) hm
  have u1 : 8192 &&& κ = 8192 := sub_mask (by decide) hm
  have u2 : 813694984 &&& κ = 813694984 := sub_mask (by decide) hm
  have u3 : 2684485704 &&& κ = 2684485704 := sub_mask (by decide) hm
  have u4 : 0 &&& κ = 0 := sub_mask (by decide) hm
  have u5 : 41943040 &&& κ = 41943040 := sub_mask (by decide) hm
  unfold tableSwap
  repeat' first
    | with_reducible assumption
    | with_reducible intro _
    | with_reducible refine row_ite ?_ ?_
    | with_reducible refine res_ite ?_ ?_
    | with_reducible refine inv_ite ?_ ?_
    | with_reducible apply ok_inv
    | with_reducible apply fail_inv
    | with_reducible apply wait_inv
    | with_reducible apply rowOk_inv
    | with_reducible apply rowFail_inv
    | with_reducible apply rowWait_inv
    | with_reducible refine row_andThen ?_ ?_
    | split
    | with_reducible refine res_andThen ?_ ?_
    | with_reducible refine advanceEpoch_keeps u0 ?_
    | with_reducible refine cmdMod_keeps u1 ?_
    | with_reducible refine journalCmd_keeps u2 ?_
    | with_reducible refine raiseTable_keeps u3 ?_
    | with_reducible refine failPlain_keeps u4 ?_
    | with_reducible refine failAt_keeps u4 ?_
    | with_reducible refine beginBarrier_keeps u0 ?_
    | with_reducible refine swapTable_keeps u5 ?_
    | refine inv_snd (by with_reducible assumption) ?_
    | refine res_ok (by with_reducible assumption) ?_
    | refine res_fail (by with_reducible assumption) ?_
    | refine res_wait (by with_reducible assumption) ?_
    | refine row_ok (by with_reducible assumption) ?_
    | refine row_fail (by with_reducible assumption) ?_
    | refine row_wait (by with_reducible assumption) ?_
    | (dsimp only)

theorem execTableSwap_keeps {c : Nat} {s : State} (hm : 13197205710040 &&& κ = 13197205710040)  (hs : (Keeps κ s₀) s) : OutInv (Keeps κ s₀) (execTableSwap c s) := by
  have u0 : 4326616 &&& κ = 4326616 := sub_mask (by decide) hm
  have u1 : 13196354134208 &&& κ = 13196354134208 := sub_mask (by decide) hm
  have u2 : 2994872392 &&& κ = 2994872392 := sub_mask (by decide) hm
  unfold execTableSwap
  repeat' first
    | with_reducible assumption
    | with_reducible intro _
    | with_reducible refine out_ite ?_ ?_
    | with_reducible refine inv_ite ?_ ?_
    | with_reducible refine row_ite ?_ ?_
    | with_reducible refine res_ite ?_ ?_
    | with_reducible apply out_next
    | with_reducible apply rowOk_inv
    | with_reducible apply rowFail_inv
    | with_reducible apply rowWait_inv
    | split
    | with_reducible refine drainAll_keeps u0 ?_
    | with_reducible refine settle_keeps u1 ?_
    | with_reducible refine tableSwap_keeps u2 ?_

theorem barrierAcked_keeps {b : Nat} {s : State} (hm : 2147491840 &&& κ = 2147491840)  (hs : (Keeps κ s₀) s) : (Keeps κ s₀) (barrierAcked b s) := by
  have u0 : 2147483648 &&& κ = 2147483648 := sub_mask (by decide) hm
  have u1 : 8192 &&& κ = 8192 := sub_mask (by decide) hm
  unfold barrierAcked
  repeat' first
    | with_reducible assumption
    | with_reducible intro _
    | with_reducible refine inv_ite ?_ ?_
    | split
    | (dsimp only)
    | with_reducible refine upd_chn u0 ?_
    | with_reducible refine upd_cmds u1 ?_
    | with_reducible refine upd_cmds_chn hm ?_

theorem execBarrierAcknowledged_keeps {b : Nat} {s : State} (hm : 2151818456 &&& κ = 2151818456)  (hs : (Keeps κ s₀) s) : OutInv (Keeps κ s₀) (execBarrierAcknowledged b s) := by
  have u0 : 4326616 &&& κ = 4326616 := sub_mask (by decide) hm
  have u1 : 2147491840 &&& κ = 2147491840 := sub_mask (by decide) hm
  unfold execBarrierAcknowledged
  repeat' first
    | with_reducible assumption
    | with_reducible intro _
    | with_reducible apply out_next
    | split
    | with_reducible refine drainAll_keeps u0 ?_
    | with_reducible refine barrierAcked_keeps u1 ?_

theorem readSource_keeps {x : Cmd} {fmt : Nat} {dim : Nat} {va : Nat} {off : Nat} {s : State} (hm : 4194376 &&& κ = 4194376)  (hs : (Keeps κ s₀) s) : ResInv (Keeps κ s₀) (readSource x fmt dim va off s) := by
  unfold readSource
  repeat' first
    | with_reducible assumption
    | with_reducible intro _
    | with_reducible refine res_ite ?_ ?_
    | with_reducible refine inv_ite ?_ ?_
    | with_reducible apply ok_inv
    | with_reducible apply fail_inv
    | with_reducible apply wait_inv
    | split
    | with_reducible refine res_andThen ?_ ?_
    | with_reducible refine readDev_keeps hm ?_

theorem readSources_keeps {x : Cmd} {fmt : Nat} {dim : Nat} {stride : Nat} {y0 : Nat} {y1 : Nat} {y2 : Nat} {y3 : State} (hm : 4194376 &&& κ = 4194376)  (hy3 : (Keeps κ s₀) y3) : ResInv (Keeps κ s₀) (readSources x fmt dim stride y0 y1 y2 y3) := by
  induction y0 generalizing x fmt dim stride y1 y2 y3 with
  | zero =>
    unfold readSources
    repeat' first
      | with_reducible assumption
      | with_reducible intro _
      | with_reducible refine res_ite ?_ ?_
      | with_reducible refine inv_ite ?_ ?_
      | with_reducible apply ok_inv
  | succ n ih =>
    unfold readSources
    repeat' first
      | with_reducible assumption
      | with_reducible intro _
      | with_reducible refine res_ite ?_ ?_
      | with_reducible refine inv_ite ?_ ?_
      | with_reducible apply ok_inv
      | with_reducible apply fail_inv
      | with_reducible apply wait_inv
      | split
      | with_reducible refine res_andThen ?_ ?_
      | with_reducible apply ih
      | with_reducible refine readSource_keeps hm ?_

theorem encBatches_keeps {x : Cmd} {version : Nat} {bufs : List Nat} {vs : List EncVec} {s : State} (hm : 16777280 &&& κ = 16777280)  (hs : (Keeps κ s₀) s) : (Keeps κ s₀) (encBatches x version bufs vs s).2 := by
  have u0 : 64 &&& κ = 64 := sub_mask (by decide) hm
  have u1 : 16777216 &&& κ = 16777216 := sub_mask (by decide) hm
  unfold encBatches
  repeat' first
    | with_reducible assumption
    | with_reducible intro _
    | split
    | with_reducible refine countBell_keeps u0 ?_
    | with_reducible refine takeBatch_keeps u1 ?_

theorem writeEncoded_keeps {x : Cmd} {img : List Byte} {y0 : Nat} {y1 : List EncVec} {y2 : State} (hm : 71311448 &&& κ = 71311448)  (hy2 : (Keeps κ s₀) y2) : ResInv (Keeps κ s₀) (writeEncoded x img y0 y1 y2) := by
  have u0 : 4202584 &&& κ = 4202584 := sub_mask (by decide) hm
  have u1 : 67108928 &&& κ = 67108928 := sub_mask (by decide) hm
  induction y1 generalizing x img y0 y2 with
  | nil =>
    unfold writeEncoded
    repeat' first
      | with_reducible assumption
      | with_reducible intro _
      | with_reducible refine res_ite ?_ ?_
      | with_reducible refine inv_ite ?_ ?_
      | with_reducible apply ok_inv
  | cons a t ih =>
    unfold writeEncoded
    repeat' first
      | with_reducible assumption
      | with_reducible intro _
      | with_reducible refine res_ite ?_ ?_
      | with_reducible refine inv_ite ?_ ?_
      | with_reducible apply ok_inv
      | with_reducible apply fail_inv
      | with_reducible apply wait_inv
      | split
      | with_reducible refine res_andThen ?_ ?_
      | with_reducible apply ih
      | with_reducible refine writeDev_keeps u0 ?_
      | with_reducible refine produce_keeps u1 ?_

theorem encodeEnd_keeps {x : Cmd} {es : List Enc} {s : State} (hm : 13196359376984 &&& κ = 13196359376984)  (hs : (Keeps κ s₀) s) : RowInv (Keeps κ s₀) (encodeEnd x es s) := by
  have u0 : 13196354134016 &&& κ = 13196354134016 := sub_mask (by decide) hm
  have u1 : 1056768 &&& κ = 1056768 := sub_mask (by decide) hm
  have u2 : 71311448 &&& κ = 71311448 := sub_mask (by decide) hm
  unfold encodeEnd
  repeat' first
    | with_reducible assumption
    | with_reducible intro _
    | with_reducible apply ok_inv
    | with_reducible apply fail_inv
    | with_reducible apply wait_inv
    | with_reducible apply rowOk_inv
    | with_reducible apply rowFail_inv
    | with_reducible apply rowWait_inv
    | with_reducible refine row_andThen ?_ ?_
    | split
    | with_reducible refine res_andThen ?_ ?_
    | with_reducible refine done_keeps u0 ?_
    | with_reducible refine endStage_keeps u1 ?_
    | with_reducible refine writeEncoded_keeps u2 ?_

theorem mediaLost_keeps {media : Nat} {s : State} (hm : 0 &&& κ = 0)  (hs : (Keeps κ s₀) s) : RowInv (Keeps κ s₀) (mediaLost media s) := by
  unfold mediaLost
  repeat' first
    | with_reducible assumption
    | with_reducible intro _
    | with_reducible apply rowOk_inv
    | with_reducible apply rowFail_inv

theorem encodeStart_keeps {x : Cmd} {c : Coll} {s : State} (hm : 13196376154328 &&& κ = 13196376154328)  (hs : (Keeps κ s₀) s) : RowInv (Keeps κ s₀) (encodeStart x c s) := by
  have u0 : 8192 &&& κ = 8192 := sub_mask (by decide) hm
  have u1 : 13196354134208 &&& κ = 13196354134208 := sub_mask (by decide) hm
  have u2 : 1056768 &&& κ = 1056768 := sub_mask (by decide) hm
  have u3 : 67108928 &&& κ = 67108928 := sub_mask (by decide) hm
  have u4 : 4194376 &&& κ = 4194376 := sub_mask (by decide) hm
  have u5 : 16777280 &&& κ = 16777280 := sub_mask (by decide) hm
  have u6 : 13196359376984 &&& κ = 13196359376984 := sub_mask (by decide) hm
  have u7 : 0 &&& κ = 0 := sub_mask (by decide) hm
  unfold encodeStart
  repeat' first
    | with_reducible assumption
    | with_reducible intro _
    | with_reducible refine row_ite ?_ ?_
    | with_reducible refine res_ite ?_ ?_
    | with_reducible refine inv_ite ?_ ?_
    | with_reducible apply ok_inv
    | with_reducible apply fail_inv
    | with_reducible apply wait_inv
    | with_reducible apply rowOk_inv
    | with_reducible apply rowFail_inv
    | with_reducible apply rowWait_inv
    | with_reducible refine row_andThen ?_ ?_
    | split
    | with_reducible refine res_andThen ?_ ?_
    | with_reducible refine setWork_keeps u0 ?_
    | with_reducible refine settle_keeps u1 ?_
    | with_reducible refine endStage_keeps u2 ?_
    | with_reducible refine consumeRings_keeps u3 ?_
    | with_reducible refine bellPoison_keeps u1 ?_
    | with_reducible refine readSources_keeps u4 ?_
    | with_reducible refine encBatches_keeps u5 ?_
    | with_reducible refine encodeEnd_keeps u6 ?_
    | with_reducible refine mediaLost_keeps u7 ?_
    | refine inv_snd (by with_reducible assumption) ?_
    | refine res_ok (by with_reducible assumption) ?_
    | refine res_fail (by with_reducible assumption) ?_
    | refine res_wait (by with_reducible assumption) ?_
    | refine row_ok (by with_reducible assumption) ?_
    | refine row_fail (by with_reducible assumption) ?_
    | refine row_wait (by with_reducible assumption) ?_
    | (dsimp only)

theorem execEncode_keeps {c : Nat} {s : State} (hm : 13196376286424 &&& κ = 13196376286424)  (hs : (Keeps κ s₀) s) : OutInv (Keeps κ s₀) (execEncode c s) := by
  have u0 : 4326616 &&& κ = 4326616 := sub_mask (by decide) hm
  have u1 : 13196354134208 &&& κ = 13196354134208 := sub_mask (by decide) hm
  have u2 : 13196359376984 &&& κ = 13196359376984 := sub_mask (by decide) hm
  have u3 : 13196376154328 &&& κ = 13196376154328 := sub_mask (by decide) hm
  unfold execEncode
  repeat' first
    | with_reducible assumption
    | with_reducible intro _
    | with_reducible refine out_ite ?_ ?_
    | with_reducible refine inv_ite ?_ ?_
    | with_reducible refine row_ite ?_ ?_
    | with_reducible refine res_ite ?_ ?_
    | with_reducible apply out_next
    | with_reducible apply rowOk_inv
    | with_reducible apply rowFail_inv
    | with_reducible apply rowWait_inv
    | split
    | with_reducible refine drainAll_keeps u0 ?_
    | with_reducible refine settle_keeps u1 ?_
    | with_reducible refine unlessPoison_keeps u1 ?_ ?_
    | with_reducible refine encodeEnd_keeps u2 ?_
    | with_reducible refine encodeStart_keeps u3 ?_

end Sys2Proof.Machine
end

