-- ==== Sys2Proof/Laws/FramesArrays.lean ====
section
/-! SUPPORT. The parts of the state that the functions of Machine/Arrays.lean may write. -/

namespace Sys2Proof.Machine

variable {κ : Nat} {s₀ : State}

theorem putAccs_keeps {cl : Nat} {k : Nat} {cells : List (Nat × Nat × Acc)} {s : State} (hm : 3298534883328 &&& κ = 3298534883328)  (hs : (Keeps κ s₀) s) : (Keeps κ s₀) (putAccs cl k cells s) := by
  unfold putAccs
  repeat' first
    | with_reducible assumption
    | with_reducible intro _
    | with_reducible refine inv_ite ?_ ?_
    | split
    | with_reducible refine inv_foldl ?_ ?_
    | with_reducible refine snd_foldl ?_ ?_
    | (dsimp only)
    | with_reducible refine upd_accs_accSet hm ?_

theorem noteAccs_keeps {img : List Byte} {i : Nat} {cl : List Nat} {combined : Bool} {vs : List EncVec} {s : State} (hm : 3848290697216 &&& κ = 3848290697216)  (hs : (Keeps κ s₀) s) : (Keeps κ s₀) (noteAccs img i cl combined vs s) := by
  have u0 : 549755813888 &&& κ = 549755813888 := sub_mask (by decide) hm
  have u1 : 3298534883328 &&& κ = 3298534883328 := sub_mask (by decide) hm
  unfold noteAccs
  repeat' first
    | with_reducible assumption
    | with_reducible intro _
    | with_reducible refine inv_ite ?_ ?_
    | split
    | with_reducible refine inv_foldl ?_ ?_
    | with_reducible refine snd_foldl ?_ ?_
    | with_reducible refine putAccs_keeps u1 ?_
    | (dsimp only)
    | with_reducible refine upd_parityCells u0 ?_

theorem countEvents_keeps {img : List Byte} {i : Nat} {cl : List Nat} {vecs : Nat} {s : State} (hm : 64 &&& κ = 64)  (hs : (Keeps κ s₀) s) : (Keeps κ s₀) (countEvents img i cl vecs s) := by
  unfold countEvents
  repeat' first
    | with_reducible assumption
    | with_reducible intro _
    | with_reducible refine inv_ite ?_ ?_
    | split
    | with_reducible refine inv_foldl ?_ ?_
    | with_reducible refine bumpWrap_keeps hm ?_

theorem countProbe_keeps {cl : Nat} {l : Nat} {cents : List Nat} {qs : List Nat} {s : State} (hm : 3298534883392 &&& κ = 3298534883392)  (hs : (Keeps κ s₀) s) : (Keeps κ s₀) (countProbe cl l cents qs s) := by
  have u0 : 64 &&& κ = 64 := sub_mask (by decide) hm
  have u1 : 3298534883328 &&& κ = 3298534883328 := sub_mask (by decide) hm
  unfold countProbe
  repeat' first
    | with_reducible assumption
    | with_reducible intro _
    | split
    | with_reducible refine bumpWrap_keeps u0 ?_
    | with_reducible refine putAccs_keeps u1 ?_

end Sys2Proof.Machine
end

