-- ==== Sys2Proof/Laws/FramesStart.lean ====
section
/-! SUPPORT. The parts of the state that the functions of Machine/Start.lean may write. -/

namespace Sys2Proof.Machine

variable {κ : Nat} {s₀ : State}

theorem setCls_keeps {c : Nat} {f : Cls → Cls} {s : State} (hm : 262144 &&& κ = 262144)  (hs : (Keeps κ s₀) s) : (Keeps κ s₀) (setCls c f s) := by
  unfold setCls
  repeat' first
    | with_reducible assumption
    | with_reducible intro _
    | split
    | (dsimp only)
    | with_reducible refine upd_classes hm ?_

theorem pickQueue_keeps {s : State} (hm : 72089672 &&& κ = 72089672)  (hs : (Keeps κ s₀) s) : OptPairInv (Keeps κ s₀) (pickQueue s) := by
  have u0 : 524288 &&& κ = 524288 := sub_mask (by decide) hm
  have u1 : 262144 &&& κ = 262144 := sub_mask (by decide) hm
  unfold pickQueue
  repeat' first
    | with_reducible assumption
    | with_reducible intro _
    | with_reducible apply optpSome_inv
    | with_reducible exact optpNone_inv
    | split
    | with_reducible refine inv_foldl ?_ ?_
    | with_reducible refine setCls_keeps u1 ?_
    | (dsimp only)
    | with_reducible refine upd_lastUrg u0 ?_

theorem countRefusal_keeps {reason : Nat} {s : State} (hm : 64 &&& κ = 64)  (hs : (Keeps κ s₀) s) : (Keeps κ s₀) (countRefusal reason s) := by
  unfold countRefusal
  repeat' first
    | with_reducible assumption
    | with_reducible intro _
    | split
    | with_reducible refine bumpSat_keeps hm ?_

theorem refuse_keeps {c : Nat} {reason : Nat} {s : State} (hm : 13196354134080 &&& κ = 13196354134080)  (hs : (Keeps κ s₀) s) : (Keeps κ s₀) (refuse c reason s) := by
  have u0 : 13196354134016 &&& κ = 13196354134016 := sub_mask (by decide) hm
  have u1 : 64 &&& κ = 64 := sub_mask (by decide) hm
  unfold refuse
  repeat' first
    | with_reducible assumption
    | with_reducible intro _
    | split
    | with_reducible refine finish_keeps u0 ?_
    | with_reducible refine countRefusal_keeps u1 ?_

theorem chargeLedgers_keeps {cs : List (Nat × Rat)} {s : State} (hm : 1048576 &&& κ = 1048576)  (hs : (Keeps κ s₀) s) : (Keeps κ s₀) (chargeLedgers cs s) := by
  unfold chargeLedgers
  repeat' first
    | with_reducible assumption
    | with_reducible intro _
    | split
    | with_reducible refine inv_foldl ?_ ?_
    | with_reducible refine snd_foldl ?_ ?_
    | (dsimp only)
    | with_reducible refine upd_ledgers hm ?_

theorem begin__keeps {x : Cmd} {home : Nat} {bounded : Bool} {charges : List (Nat × Rat)} {pres : Rat} {planned : Nat} {s : State} (hm : 1056768 &&& κ = 1056768)  (hs : (Keeps κ s₀) s) : (Keeps κ s₀) (begin_ x home bounded charges pres planned s) := by
  have u0 : 8192 &&& κ = 8192 := sub_mask (by decide) hm
  have u1 : 1048576 &&& κ = 1048576 := sub_mask (by decide) hm
  unfold begin_
  repeat' first
    | with_reducible assumption
    | with_reducible intro _
    | with_reducible refine inv_ite ?_ ?_
    | split
    | with_reducible refine cmdMod_keeps u0 ?_
    | with_reducible refine noteStage_keeps u0 ?_
    | with_reducible refine chargeLedgers_keeps u1 ?_

theorem waitResources_keeps {x : Cmd} {home : Nat} {bounded : Bool} {s : State} (hm : 8192 &&& κ = 8192)  (hs : (Keeps κ s₀) s) : (Keeps κ s₀) (waitResources x home bounded s) := by
  unfold waitResources
  repeat' first
    | with_reducible assumption
    | with_reducible intro _
    | split
    | with_reducible refine cmdMod_keeps hm ?_

theorem takeUnits_keeps {x : Cmd} {s : State} (hm : 26388283269192 &&& κ = 26388283269192)  (hs : (Keeps κ s₀) s) : (Keeps κ s₀) (takeUnits x s) := by
  have u0 : 26388279066624 &&& κ = 26388279066624 := sub_mask (by decide) hm
  have u1 : 8192 &&& κ = 8192 := sub_mask (by decide) hm
  unfold takeUnits
  repeat' first
    | with_reducible assumption
    | with_reducible intro _
    | split
    | with_reducible refine cmdMod_keeps u1 ?_
    | (dsimp only)
    | with_reducible refine upd_contexts_nextLead u0 ?_

theorem countSpillWait_keeps {x : Cmd} {s : State} (hm : 4194376 &&& κ = 4194376)  (hs : (Keeps κ s₀) s) : (Keeps κ s₀) (countSpillWait x s) := by
  have u0 : 64 &&& κ = 64 := sub_mask (by decide) hm
  unfold countSpillWait
  repeat' first
    | with_reducible assumption
    | with_reducible intro _
    | with_reducible refine inv_ite ?_ ?_
    | split
    | with_reducible refine inv_foldl ?_ ?_
    | with_reducible refine bumpSat_keeps u0 ?_

theorem startGo_keeps {x : Cmd} {home : Nat} {bounded : Bool} {s : State} (hm : 30788545421512 &&& κ = 30788545421512)  (hs : (Keeps κ s₀) s) : (Keeps κ s₀) (startGo x home bounded s) := by
  have u0 : 64 &&& κ = 64 := sub_mask (by decide) hm
  have u1 : 13196354134208 &&& κ = 13196354134208 := sub_mask (by decide) hm
  have u2 : 67108864 &&& κ = 67108864 := sub_mask (by decide) hm
  have u3 : 13196354134080 &&& κ = 13196354134080 := sub_mask (by decide) hm
  have u4 : 1056768 &&& κ = 1056768 := sub_mask (by decide) hm
  have u5 : 8192 &&& κ = 8192 := sub_mask (by decide) hm
  have u6 : 26388283269192 &&& κ = 26388283269192 := sub_mask (by decide) hm
  have u7 : 4194376 &&& κ = 4194376 := sub_mask (by decide) hm
  unfold startGo
  repeat' first
    | with_reducible assumption
    | with_reducible intro _
    | with_reducible refine inv_ite ?_ ?_
    | split
    | with_reducible refine inv_foldl ?_ ?_
    | with_reducible refine bumpSat_keeps u0 ?_
    | with_reducible refine bumpWrap_keeps u0 ?_
    | with_reducible refine failCmd_keeps u1 ?_
    | with_reducible refine reserveAll_keeps u2 ?_
    | with_reducible refine notePeak_keeps u0 ?_
    | with_reducible refine refuse_keeps u3 ?_
    | with_reducible refine begin__keeps u4 ?_
    | with_reducible refine waitResources_keeps u5 ?_
    | with_reducible refine takeUnits_keeps u6 ?_
    | with_reducible refine countSpillWait_keeps u7 ?_
    | refine opt_some (by with_reducible assumption) ?_
    | (dsimp only)

theorem startCmd_keeps {x : Cmd} {home : Nat} {s : State} (hm : 30788545421512 &&& κ = 30788545421512)  (hs : (Keeps κ s₀) s) : (Keeps κ s₀) (startCmd x home s) := by
  have u0 : 8192 &&& κ = 8192 := sub_mask (by decide) hm
  have u1 : 13196354134016 &&& κ = 13196354134016 := sub_mask (by decide) hm
  have u2 : 13196354134208 &&& κ = 13196354134208 := sub_mask (by decide) hm
  have u3 : 13196354134080 &&& κ = 13196354134080 := sub_mask (by decide) hm
  unfold startCmd
  repeat' first
    | with_reducible assumption
    | with_reducible intro _
    | with_reducible refine inv_ite ?_ ?_
    | split
    | with_reducible refine cmdPut_keeps u0 ?_
    | with_reducible refine finish_keeps u1 ?_
    | with_reducible refine failCmd_keeps u2 ?_
    | with_reducible refine failField_keeps u2 ?_
    | with_reducible refine refuse_keeps u3 ?_
    | with_reducible refine startGo_keeps hm ?_
    | (dsimp only)

theorem startDecision_keeps {home : Nat} {s : State} (hm : 30788548305096 &&& κ = 30788548305096)  (hs : (Keeps κ s₀) s) : (Keeps κ s₀) (startDecision home s) := by
  have u0 : 64 &&& κ = 64 := sub_mask (by decide) hm
  have u1 : 2097152 &&& κ = 2097152 := sub_mask (by decide) hm
  have u2 : 72089672 &&& κ = 72089672 := sub_mask (by decide) hm
  have u3 : 30788545421512 &&& κ = 30788545421512 := sub_mask (by decide) hm
  unfold startDecision
  repeat' first
    | with_reducible assumption
    | with_reducible intro _
    | with_reducible refine inv_ite ?_ ?_
    | split
    | with_reducible refine bumpWrap_keeps u0 ?_
    | with_reducible refine domMod_keeps u1 ?_
    | with_reducible refine pickQueue_keeps u2 ?_
    | with_reducible refine startCmd_keeps u3 ?_
    | refine optp_some (by with_reducible assumption) ?_

theorem execStartDecision_keeps {home : Nat} {s : State} (hm : 30788548437208 &&& κ = 30788548437208)  (hs : (Keeps κ s₀) s) : OutInv (Keeps κ s₀) (execStartDecision home s) := by
  have u0 : 4326616 &&& κ = 4326616 := sub_mask (by decide) hm
  have u1 : 30788548305096 &&& κ = 30788548305096 := sub_mask (by decide) hm
  unfold execStartDecision
  repeat' first
    | with_reducible assumption
    | with_reducible intro _
    | with_reducible apply out_next
    | split
    | with_reducible refine drainAll_keeps u0 ?_
    | with_reducible refine startDecision_keeps u1 ?_

theorem tokenFill_keeps {d : Nat} {s : State} (hm : 2097152 &&& κ = 2097152)  (hs : (Keeps κ s₀) s) : (Keeps κ s₀) (tokenFill d s) := by
  unfold tokenFill
  repeat' first
    | with_reducible assumption
    | with_reducible intro _
    | with_reducible refine inv_ite ?_ ?_
    | split
    | with_reducible refine domMod_keeps hm ?_

theorem execUrgTokenBucketFill_keeps {dom : Nat} {s : State} (hm : 2097152 &&& κ = 2097152)  (hs : (Keeps κ s₀) s) : OutInv (Keeps κ s₀) (execUrgTokenBucketFill dom s) := by
  unfold execUrgTokenBucketFill
  repeat' first
    | with_reducible assumption
    | with_reducible intro _
    | with_reducible apply out_next
    | split
    | with_reducible refine tokenFill_keeps hm ?_

theorem refusalScan_keeps {s : State} (hm : 13196358328392 &&& κ = 13196358328392)  (hs : (Keeps κ s₀) s) : (Keeps κ s₀) (refusalScan s) := by
  have u0 : 13196354134080 &&& κ = 13196354134080 := sub_mask (by decide) hm
  unfold refusalScan
  repeat' first
    | with_reducible assumption
    | with_reducible intro _
    | split
    | with_reducible refine inv_foldl ?_ ?_
    | with_reducible refine refuse_keeps u0 ?_

theorem execRefusalScan_keeps {s : State} (hm : 13196358328392 &&& κ = 13196358328392)  (hs : (Keeps κ s₀) s) : OutInv (Keeps κ s₀) (execRefusalScan s) := by
  unfold execRefusalScan
  repeat' first
    | with_reducible assumption
    | with_reducible intro _
    | with_reducible apply out_next
    | split
    | with_reducible refine refusalScan_keeps hm ?_

end Sys2Proof.Machine
end

