-- ==== Sys2Proof/Laws/FramesMutate.lean ====
section
/-! SUPPORT. The parts of the state that the functions of Machine/Mutate.lean may write. -/

namespace Sys2Proof.Machine

variable {κ : Nat} {s₀ : State}

theorem failPoison_keeps {x : Cmd} {p : Poison} {s : State} (hm : 13196354134208 &&& κ = 13196354134208)  (hs : (Keeps κ s₀) s) : (Keeps κ s₀) (failPoison x p s) := by
  have u0 : 8192 &&& κ = 8192 := sub_mask (by decide) hm
  unfold failPoison
  repeat' first
    | with_reducible assumption
    | with_reducible intro _
    | split
    | with_reducible refine cmdMod_keeps u0 ?_
    | with_reducible refine failCmd_keeps hm ?_

theorem beginList_keeps {x : Cmd} {addr : Nat} {want : Nat} {s : State} (hm : 13196354134016 &&& κ = 13196354134016)  (hs : (Keeps κ s₀) s) : (Keeps κ s₀) (beginList x addr want s) := by
  have u0 : 8192 &&& κ = 8192 := sub_mask (by decide) hm
  unfold beginList
  repeat' first
    | with_reducible assumption
    | with_reducible intro _
    | with_reducible refine inv_ite ?_ ?_
    | split
    | with_reducible refine cmdMod_keeps u0 ?_

theorem readVec_keeps {x : Cmd} {c : Coll} {ds : List BlkData} {off : Nat} {s : State} (hm : 4194376 &&& κ = 4194376)  (hs : (Keeps κ s₀) s) : ResInv (Keeps κ s₀) (readVec x c ds off s) := by
  unfold readVec
  repeat' first
    | with_reducible assumption
    | with_reducible intro _
    | with_reducible apply ok_inv
    | with_reducible apply fail_inv
    | with_reducible apply wait_inv
    | split
    | with_reducible refine res_andThen ?_ ?_
    | with_reducible refine readSpans_keeps hm ?_

theorem readBatch_keeps {x : Cmd} {c : Coll} {ds : List BlkData} {y0 : List (Nat × MutEntry)} {y1 : State} (hm : 4194376 &&& κ = 4194376)  (hy1 : (Keeps κ s₀) y1) : ResInv (Keeps κ s₀) (readBatch x c ds y0 y1) := by
  induction y0 generalizing x c ds y1 with
  | nil =>
    unfold readBatch
    repeat' first
      | with_reducible assumption
      | with_reducible intro _
      | with_reducible refine res_ite ?_ ?_
      | with_reducible refine inv_ite ?_ ?_
      | with_reducible apply ok_inv
  | cons a t ih =>
    unfold readBatch
    repeat' first
      | with_reducible assumption
      | with_reducible intro _
      | with_reducible refine res_ite ?_ ?_
      | with_reducible refine inv_ite ?_ ?_
      | with_reducible apply ok_inv
      | with_reducible apply fail_inv
      | with_reducible apply wait_inv
      | split
      | with_reducible refine res_andThen ?_ ?_
      | with_reducible apply ih
      | with_reducible refine readVec_keeps hm ?_
      | refine res_ok (by with_reducible assumption) ?_
      | refine res_fail (by with_reducible assumption) ?_
      | refine res_wait (by with_reducible assumption) ?_

theorem encodeEnds_keeps {x : Cmd} {m : Mut} {s : State} (hm : 68165632 &&& κ = 68165632)  (hs : (Keeps κ s₀) s) : (Keeps κ s₀) (encodeEnds x m s).2 := by
  have u0 : 8192 &&& κ = 8192 := sub_mask (by decide) hm
  have u1 : 1056768 &&& κ = 1056768 := sub_mask (by decide) hm
  have u2 : 67108864 &&& κ = 67108864 := sub_mask (by decide) hm
  unfold encodeEnds
  repeat' first
    | with_reducible assumption
    | with_reducible intro _
    | with_reducible refine snd_ite ?_ ?_
    | with_reducible refine inv_ite ?_ ?_
    | split
    | with_reducible refine cmdMod_keeps u0 ?_
    | with_reducible refine endStage_keeps u1 ?_
    | with_reducible refine freeStage_keeps u2 ?_

theorem beginEncode_keeps {x : Cmd} {c : Coll} {es : List MutEntry} {s : State} (hm : 84942912 &&& κ = 84942912)  (hs : (Keeps κ s₀) s) : RowInv (Keeps κ s₀) (beginEncode x c es s) := by
  have u0 : 8192 &&& κ = 8192 := sub_mask (by decide) hm
  have u1 : 1056768 &&& κ = 1056768 := sub_mask (by decide) hm
  have u2 : 67108928 &&& κ = 67108928 := sub_mask (by decide) hm
  have u3 : 16777280 &&& κ = 16777280 := sub_mask (by decide) hm
  have u4 : 0 &&& κ = 0 := sub_mask (by decide) hm
  have u5 : 68165632 &&& κ = 68165632 := sub_mask (by decide) hm
  unfold beginEncode
  repeat' first
    | with_reducible assumption
    | with_reducible intro _
    | with_reducible refine row_ite ?_ ?_
    | with_reducible refine res_ite ?_ ?_
    | with_reducible refine inv_ite ?_ ?_
    | with_reducible apply rowOk_inv
    | with_reducible apply rowFail_inv
    | with_reducible apply rowWait_inv
    | split
    | with_reducible refine setWork_keeps u0 ?_
    | with_reducible refine endStage_keeps u1 ?_
    | with_reducible refine consumeRings_keeps u2 ?_
    | with_reducible refine encBatches_keeps u3 ?_
    | with_reducible refine mediaLost_keeps u4 ?_
    | with_reducible refine encodeEnds_keeps u5 ?_
    | refine inv_snd (by with_reducible assumption) ?_
    | refine row_ok (by with_reducible assumption) ?_
    | refine row_fail (by with_reducible assumption) ?_
    | refine row_wait (by with_reducible assumption) ?_
    | (dsimp only)

theorem insertStart_keeps {x : Cmd} {c : Coll} {s : State} (hm : 13196376154184 &&& κ = 13196376154184)  (hs : (Keeps κ s₀) s) : RowInv (Keeps κ s₀) (insertStart x c s) := by
  have u0 : 13196354134016 &&& κ = 13196354134016 := sub_mask (by decide) hm
  have u1 : 4194376 &&& κ = 4194376 := sub_mask (by decide) hm
  have u2 : 84942912 &&& κ = 84942912 := sub_mask (by decide) hm
  unfold insertStart
  repeat' first
    | with_reducible assumption
    | with_reducible intro _
    | with_reducible apply ok_inv
    | with_reducible apply fail_inv
    | with_reducible apply wait_inv
    | with_reducible apply rowOk_inv
    | with_reducible apply rowFail_inv
    | with_reducible apply rowWait_inv
    | with_reducible refine row_andThen ?_ ?_
    | split
    | with_reducible refine res_andThen ?_ ?_
    | with_reducible refine beginList_keeps u0 ?_
    | with_reducible refine readVec_keeps u1 ?_
    | with_reducible refine beginEncode_keeps u2 ?_
    | refine res_ok (by with_reducible assumption) ?_
    | refine res_fail (by with_reducible assumption) ?_
    | refine res_wait (by with_reducible assumption) ?_
    | refine row_ok (by with_reducible assumption) ?_
    | refine row_fail (by with_reducible assumption) ?_
    | refine row_wait (by with_reducible assumption) ?_
    | (dsimp only)

theorem mutRow_keeps {c : Nat} {op : Nat} {f : Cmd → Coll → State → Res State} {s : State} (hm : 13196354134208 &&& κ = 13196354134208) (hf : ∀ a0 a1 a2, (Keeps κ s₀) a2 → RowInv (Keeps κ s₀) (f a0 a1 a2)) (hs : (Keeps κ s₀) s) : (Keeps κ s₀) (mutRow c op f s) := by
  unfold mutRow
  repeat' first
    | with_reducible assumption
    | with_reducible intro _
    | with_reducible refine inv_ite ?_ ?_
    | with_reducible refine row_ite ?_ ?_
    | with_reducible refine res_ite ?_ ?_
    | with_reducible apply rowOk_inv
    | with_reducible apply rowFail_inv
    | with_reducible apply rowWait_inv
    | split
    | with_reducible refine settle_keeps hm ?_
    | with_reducible refine unlessPoison_keeps hm ?_ ?_
    | with_reducible apply hf

theorem execInsert_keeps {c : Nat} {s : State} (hm : 13196376286424 &&& κ = 13196376286424)  (hs : (Keeps κ s₀) s) : OutInv (Keeps κ s₀) (execInsert c s) := by
  have u0 : 4326616 &&& κ = 4326616 := sub_mask (by decide) hm
  have u1 : 13196376154184 &&& κ = 13196376154184 := sub_mask (by decide) hm
  have u2 : 13196354134208 &&& κ = 13196354134208 := sub_mask (by decide) hm
  unfold execInsert
  repeat' first
    | with_reducible assumption
    | with_reducible intro _
    | with_reducible apply out_next
    | with_reducible apply rowOk_inv
    | with_reducible apply rowFail_inv
    | with_reducible apply rowWait_inv
    | split
    | with_reducible refine drainAll_keeps u0 ?_
    | with_reducible refine insertStart_keeps u1 ?_
    | with_reducible refine mutRow_keeps u2 ?_ ?_

theorem execUpsert_keeps {c : Nat} {s : State} (hm : 13196376286424 &&& κ = 13196376286424)  (hs : (Keeps κ s₀) s) : OutInv (Keeps κ s₀) (execUpsert c s) := by
  have u0 : 4326616 &&& κ = 4326616 := sub_mask (by decide) hm
  have u1 : 13196376154184 &&& κ = 13196376154184 := sub_mask (by decide) hm
  have u2 : 13196354134208 &&& κ = 13196354134208 := sub_mask (by decide) hm
  unfold execUpsert
  repeat' first
    | with_reducible assumption
    | with_reducible intro _
    | with_reducible apply out_next
    | with_reducible apply rowOk_inv
    | with_reducible apply rowFail_inv
    | with_reducible apply rowWait_inv
    | split
    | with_reducible refine drainAll_keeps u0 ?_
    | with_reducible refine insertStart_keeps u1 ?_
    | with_reducible refine mutRow_keeps u2 ?_ ?_

theorem deleteStart_keeps {x : Cmd} {u0 : Coll} {s : State} (hm : 13196354134016 &&& κ = 13196354134016)  (hs : (Keeps κ s₀) s) : RowInv (Keeps κ s₀) (deleteStart x u0 s) := by
  have u0 : 8192 &&& κ = 8192 := sub_mask (by decide) hm
  unfold deleteStart
  repeat' first
    | with_reducible assumption
    | with_reducible intro _
    | with_reducible apply rowOk_inv
    | with_reducible apply rowFail_inv
    | with_reducible apply rowWait_inv
    | split
    | with_reducible refine setWork_keeps u0 ?_

theorem execDelete_keeps {c : Nat} {s : State} (hm : 13196358460632 &&& κ = 13196358460632)  (hs : (Keeps κ s₀) s) : OutInv (Keeps κ s₀) (execDelete c s) := by
  have u0 : 4326616 &&& κ = 4326616 := sub_mask (by decide) hm
  have u1 : 13196354134208 &&& κ = 13196354134208 := sub_mask (by decide) hm
  have u2 : 13196354134016 &&& κ = 13196354134016 := sub_mask (by decide) hm
  unfold execDelete
  repeat' first
    | with_reducible assumption
    | with_reducible intro _
    | with_reducible apply out_next
    | with_reducible apply rowOk_inv
    | with_reducible apply rowFail_inv
    | with_reducible apply rowWait_inv
    | split
    | with_reducible refine drainAll_keeps u0 ?_
    | with_reducible refine mutRow_keeps u1 ?_ ?_
    | with_reducible refine deleteStart_keeps u2 ?_

theorem setAttrStart_keeps {x : Cmd} {u0 : Coll} {s : State} (hm : 13196354134016 &&& κ = 13196354134016)  (hs : (Keeps κ s₀) s) : RowInv (Keeps κ s₀) (setAttrStart x u0 s) := by
  have u0 : 8192 &&& κ = 8192 := sub_mask (by decide) hm
  unfold setAttrStart
  repeat' first
    | with_reducible assumption
    | with_reducible intro _
    | with_reducible apply rowOk_inv
    | with_reducible apply rowFail_inv
    | with_reducible apply rowWait_inv
    | split
    | with_reducible refine setWork_keeps u0 ?_

theorem execSetAttr_keeps {c : Nat} {s : State} (hm : 13196358460632 &&& κ = 13196358460632)  (hs : (Keeps κ s₀) s) : OutInv (Keeps κ s₀) (execSetAttr c s) := by
  have u0 : 4326616 &&& κ = 4326616 := sub_mask (by decide) hm
  have u1 : 13196354134208 &&& κ = 13196354134208 := sub_mask (by decide) hm
  have u2 : 13196354134016 &&& κ = 13196354134016 := sub_mask (by decide) hm
  unfold execSetAttr
  repeat' first
    | with_reducible assumption
    | with_reducible intro _
    | with_reducible apply out_next
    | with_reducible apply rowOk_inv
    | with_reducible apply rowFail_inv
    | with_reducible apply rowWait_inv
    | split
    | with_reducible refine drainAll_keeps u0 ?_
    | with_reducible refine mutRow_keeps u1 ?_ ?_
    | with_reducible refine setAttrStart_keeps u2 ?_

theorem checkStatus_keeps {x : Cmd} {count : Nat} {s : State} (hm : 4194376 &&& κ = 4194376)  (hs : (Keeps κ s₀) s) : ResInv (Keeps κ s₀) (checkStatus x count s) := by
  unfold checkStatus
  repeat' first
    | with_reducible assumption
    | with_reducible intro _
    | with_reducible refine res_ite ?_ ?_
    | with_reducible refine inv_ite ?_ ?_
    | with_reducible apply ok_inv
    | with_reducible apply fail_inv
    | with_reducible apply wait_inv
    | split
    | with_reducible refine checkWrite_keeps hm ?_

theorem batchStart_keeps {x : Cmd} {c : Coll} {s : State} (hm : 13196510371912 &&& κ = 13196510371912)  (hs : (Keeps κ s₀) s) : RowInv (Keeps κ s₀) (batchStart x c s) := by
  have u0 : 138412104 &&& κ = 138412104 := sub_mask (by decide) hm
  have u1 : 13196354134016 &&& κ = 13196354134016 := sub_mask (by decide) hm
  have u2 : 4194376 &&& κ = 4194376 := sub_mask (by decide) hm
  have u3 : 84942912 &&& κ = 84942912 := sub_mask (by decide) hm
  unfold batchStart
  repeat' first
    | with_reducible assumption
    | with_reducible intro _
    | with_reducible apply ok_inv
    | with_reducible apply fail_inv
    | with_reducible apply wait_inv
    | with_reducible apply rowOk_inv
    | with_reducible apply rowFail_inv
    | with_reducible apply rowWait_inv
    | with_reducible refine row_andThen ?_ ?_
    | split
    | with_reducible refine res_andThen ?_ ?_
    | with_reducible refine readBuf_keeps u0 ?_
    | with_reducible refine beginList_keeps u1 ?_
    | with_reducible refine readBatch_keeps u2 ?_
    | with_reducible refine beginEncode_keeps u3 ?_
    | with_reducible refine checkStatus_keeps u2 ?_
    | refine res_ok (by with_reducible assumption) ?_
    | refine res_fail (by with_reducible assumption) ?_
    | refine res_wait (by with_reducible assumption) ?_
    | refine row_ok (by with_reducible assumption) ?_
    | refine row_fail (by with_reducible assumption) ?_
    | refine row_wait (by with_reducible assumption) ?_
    | (dsimp only)

theorem execInsertBatch_keeps {c : Nat} {s : State} (hm : 13196510504152 &&& κ = 13196510504152)  (hs : (Keeps κ s₀) s) : OutInv (Keeps κ s₀) (execInsertBatch c s) := by
  have u0 : 4326616 &&& κ = 4326616 := sub_mask (by decide) hm
  have u1 : 13196354134208 &&& κ = 13196354134208 := sub_mask (by decide) hm
  have u2 : 13196510371912 &&& κ = 13196510371912 := sub_mask (by decide) hm
  unfold execInsertBatch
  repeat' first
    | with_reducible assumption
    | with_reducible intro _
    | with_reducible apply out_next
    | with_reducible apply rowOk_inv
    | with_reducible apply rowFail_inv
    | with_reducible apply rowWait_inv
    | split
    | with_reducible refine drainAll_keeps u0 ?_
    | with_reducible refine mutRow_keeps u1 ?_ ?_
    | with_reducible refine batchStart_keeps u2 ?_

theorem importStart_keeps {x : Cmd} {c : Coll} {s : State} (hm : 13196376154184 &&& κ = 13196376154184)  (hs : (Keeps κ s₀) s) : RowInv (Keeps κ s₀) (importStart x c s) := by
  have u0 : 4194376 &&& κ = 4194376 := sub_mask (by decide) hm
  have u1 : 0 &&& κ = 0 := sub_mask (by decide) hm
  have u2 : 13196354134016 &&& κ = 13196354134016 := sub_mask (by decide) hm
  have u3 : 84942912 &&& κ = 84942912 := sub_mask (by decide) hm
  unfold importStart
  repeat' first
    | with_reducible assumption
    | with_reducible intro _
    | with_reducible refine row_ite ?_ ?_
    | with_reducible refine res_ite ?_ ?_
    | with_reducible refine inv_ite ?_ ?_
    | with_reducible apply ok_inv
    | with_reducible apply fail_inv
    | with_reducible apply wait_inv
    | with_reducible apply rowOk_inv
    | with_reducible apply rowFail_inv
    | with_reducible apply rowWait_inv
    | with_reducible refine row_andThen ?_ ?_
    | split
    | with_reducible refine res_andThen ?_ ?_
    | with_reducible refine readSpans_keeps u0 ?_
    | with_reducible refine failAt_keeps u1 ?_
    | with_reducible refine beginList_keeps u2 ?_
    | with_reducible refine readBatch_keeps u0 ?_
    | with_reducible refine beginEncode_keeps u3 ?_
    | with_reducible refine checkStatus_keeps u0 ?_
    | refine res_ok (by with_reducible assumption) ?_
    | refine res_fail (by with_reducible assumption) ?_
    | refine res_wait (by with_reducible assumption) ?_
    | refine row_ok (by with_reducible assumption) ?_
    | refine row_fail (by with_reducible assumption) ?_
    | refine row_wait (by with_reducible assumption) ?_
    | (dsimp only)

theorem execImportCmd_keeps {c : Nat} {s : State} (hm : 13196376286424 &&& κ = 13196376286424)  (hs : (Keeps κ s₀) s) : OutInv (Keeps κ s₀) (execImportCmd c s) := by
  have u0 : 4326616 &&& κ = 4326616 := sub_mask (by decide) hm
  have u1 : 13196354134208 &&& κ = 13196354134208 := sub_mask (by decide) hm
  have u2 : 13196376154184 &&& κ = 13196376154184 := sub_mask (by decide) hm
  unfold execImportCmd
  repeat' first
    | with_reducible assumption
    | with_reducible intro _
    | with_reducible apply out_next
    | with_reducible apply rowOk_inv
    | with_reducible apply rowFail_inv
    | with_reducible apply rowWait_inv
    | split
    | with_reducible refine drainAll_keeps u0 ?_
    | with_reducible refine mutRow_keeps u1 ?_ ?_
    | with_reducible refine importStart_keeps u2 ?_

theorem sideHighCheck_keeps {h : Nat} {s : State} (hm : 2692874312 &&& κ = 2692874312)  (hs : (Keeps κ s₀) s) : (Keeps κ s₀) (sideHighCheck h s) := by
  have u0 : 2684485704 &&& κ = 2684485704 := sub_mask (by decide) hm
  have u1 : 8388608 &&& κ = 8388608 := sub_mask (by decide) hm
  unfold sideHighCheck
  repeat' first
    | with_reducible assumption
    | with_reducible intro _
    | with_reducible refine inv_ite ?_ ?_
    | split
    | with_reducible refine raise_keeps u0 ?_
    | with_reducible refine collMod_keeps u1 ?_

theorem journalEntry_keeps {x : Cmd} {m : Mut} {e : MutEntry} {c : Coll} {s : State} (hm : 2961309768 &&& κ = 2961309768)  (hs : (Keeps κ s₀) s) : JInv (Keeps κ s₀) (journalEntry x m e c s) := by
  have u0 : 8388608 &&& κ = 8388608 := sub_mask (by decide) hm
  have u1 : 813694984 &&& κ = 813694984 := sub_mask (by decide) hm
  have u2 : 2692874312 &&& κ = 2692874312 := sub_mask (by decide) hm
  unfold journalEntry
  repeat' first
    | with_reducible assumption
    | with_reducible intro _
    | with_reducible refine jw_ite ?_ ?_
    | with_reducible refine inv_ite ?_ ?_
    | with_reducible exact jWait_inv
    | with_reducible exact jFail_inv
    | with_reducible apply jDone_inv
    | split
    | with_reducible refine collMod_keeps u0 ?_
    | with_reducible refine journalPut_keeps u1 ?_
    | with_reducible refine sideHighCheck_keeps u2 ?_

theorem batchEnd_keeps {x : Cmd} {m : Mut} {s : State} (hm : 13196626763992 &&& κ = 13196626763992)  (hs : (Keeps κ s₀) s) : RowInv (Keeps κ s₀) (batchEnd x m s) := by
  have u0 : 8192 &&& κ = 8192 := sub_mask (by decide) hm
  have u1 : 4202584 &&& κ = 4202584 := sub_mask (by decide) hm
  have u2 : 13196354134208 &&& κ = 13196354134208 := sub_mask (by decide) hm
  have u3 : 13196622569472 &&& κ = 13196622569472 := sub_mask (by decide) hm
  unfold batchEnd
  repeat' first
    | with_reducible assumption
    | with_reducible intro _
    | with_reducible refine res_ite ?_ ?_
    | with_reducible refine inv_ite ?_ ?_
    | with_reducible apply ok_inv
    | with_reducible apply fail_inv
    | with_reducible apply wait_inv
    | with_reducible apply rowOk_inv
    | with_reducible apply rowFail_inv
    | with_reducible apply rowWait_inv
    | with_reducible refine row_andThen ?_ ?_
    | split
    | with_reducible refine res_andThen ?_ ?_
    | with_reducible refine cmdMod_keeps u0 ?_
    | with_reducible refine writeDev_keeps u1 ?_
    | with_reducible refine failCmd_keeps u2 ?_
    | with_reducible refine finishJournaled_keeps u3 ?_

theorem batchRow_keeps {x : Cmd} {m : Mut} {s : State} (hm : 13196626763992 &&& κ = 13196626763992)  (hs : (Keeps κ s₀) s) : (Keeps κ s₀) (batchRow x m s) := by
  have u0 : 8192 &&& κ = 8192 := sub_mask (by decide) hm
  have u1 : 13196354134208 &&& κ = 13196354134208 := sub_mask (by decide) hm
  unfold batchRow
  repeat' first
    | with_reducible assumption
    | with_reducible intro _
    | with_reducible apply rowOk_inv
    | with_reducible apply rowFail_inv
    | with_reducible apply rowWait_inv
    | split
    | with_reducible refine cmdMod_keeps u0 ?_
    | with_reducible refine failCmd_keeps u1 ?_
    | with_reducible refine batchEnd_keeps hm ?_
    | refine row_ok (by with_reducible assumption) ?_
    | refine row_fail (by with_reducible assumption) ?_
    | refine row_wait (by with_reducible assumption) ?_

theorem mutEnd_keeps {x : Cmd} {m : Mut} {s : State} (hm : 13196626763992 &&& κ = 13196626763992)  (hs : (Keeps κ s₀) s) : (Keeps κ s₀) (mutEnd x m s) := by
  have u0 : 13196622569472 &&& κ = 13196622569472 := sub_mask (by decide) hm
  unfold mutEnd
  repeat' first
    | with_reducible assumption
    | with_reducible intro _
    | with_reducible refine inv_ite ?_ ?_
    | split
    | with_reducible refine finishJournaled_keeps u0 ?_
    | with_reducible refine batchRow_keeps hm ?_

theorem mutGoOn_keeps {x : Cmd} {m : Mut} {s : State} (hm : 13196626763992 &&& κ = 13196626763992)  (hs : (Keeps κ s₀) s) : (Keeps κ s₀) (mutGoOn x m s) := by
  have u0 : 8192 &&& κ = 8192 := sub_mask (by decide) hm
  unfold mutGoOn
  repeat' first
    | with_reducible assumption
    | with_reducible intro _
    | with_reducible refine inv_ite ?_ ?_
    | split
    | with_reducible refine setWork_keeps u0 ?_
    | with_reducible refine mutEnd_keeps hm ?_

theorem journalRest_keeps {x : Cmd} {y0 : Nat} {y1 : Mut} {y2 : State} (hm : 13197167960136 &&& κ = 13197167960136)  (hy2 : (Keeps κ s₀) y2) : (Keeps κ s₀) (journalRest x y0 y1 y2).2 := by
  have u0 : 8192 &&& κ = 8192 := sub_mask (by decide) hm
  have u1 : 13196354134016 &&& κ = 13196354134016 := sub_mask (by decide) hm
  have u2 : 2961309768 &&& κ = 2961309768 := sub_mask (by decide) hm
  induction y0 generalizing x y1 y2 with
  | zero =>
    unfold journalRest
    repeat' first
      | with_reducible assumption
  | succ n ih =>
    unfold journalRest
    repeat' first
      | with_reducible assumption
      | with_reducible intro _
      | with_reducible apply rowOk_inv
      | with_reducible apply rowFail_inv
      | with_reducible apply rowWait_inv
      | split
      | with_reducible apply ih
      | with_reducible refine cmdMod_keeps u0 ?_
      | with_reducible refine done_keeps u1 ?_
      | with_reducible refine journalEntry_keeps u2 ?_
      | refine inv_snd (by with_reducible assumption) ?_
      | refine row_ok (by with_reducible assumption) ?_
      | refine row_fail (by with_reducible assumption) ?_
      | refine row_wait (by with_reducible assumption) ?_
      | refine j_done (by with_reducible assumption) ?_

theorem journalBatch_keeps {x : Cmd} {m : Mut} {c : Coll} {s : State} (hm : 13197173203160 &&& κ = 13197173203160)  (hs : (Keeps κ s₀) s) : (Keeps κ s₀) (journalBatch x m c s) := by
  have u0 : 8192 &&& κ = 8192 := sub_mask (by decide) hm
  have u1 : 1056768 &&& κ = 1056768 := sub_mask (by decide) hm
  have u2 : 13196626763992 &&& κ = 13196626763992 := sub_mask (by decide) hm
  have u3 : 13197167960136 &&& κ = 13197167960136 := sub_mask (by decide) hm
  unfold journalBatch
  repeat' first
    | with_reducible assumption
    | with_reducible intro _
    | with_reducible refine inv_ite ?_ ?_
    | split
    | with_reducible refine setWork_keeps u0 ?_
    | with_reducible refine raiseHorizons_keeps u0 ?_
    | with_reducible refine workDone_keeps u1 ?_
    | with_reducible refine mutGoOn_keeps u2 ?_
    | with_reducible refine journalRest_keeps u3 ?_
    | refine inv_snd (by with_reducible assumption) ?_

theorem journalWrite_keeps {c : Nat} {s : State} (hm : 13197173203160 &&& κ = 13197173203160)  (hs : (Keeps κ s₀) s) : (Keeps κ s₀) (journalWrite c s) := by
  have u0 : 8192 &&& κ = 8192 := sub_mask (by decide) hm
  have u1 : 13196354134208 &&& κ = 13196354134208 := sub_mask (by decide) hm
  have u2 : 13196354134016 &&& κ = 13196354134016 := sub_mask (by decide) hm
  have u3 : 1056768 &&& κ = 1056768 := sub_mask (by decide) hm
  have u4 : 2961309768 &&& κ = 2961309768 := sub_mask (by decide) hm
  have u5 : 13196626763992 &&& κ = 13196626763992 := sub_mask (by decide) hm
  unfold journalWrite
  repeat' first
    | with_reducible assumption
    | with_reducible intro _
    | with_reducible refine inv_ite ?_ ?_
    | with_reducible apply rowOk_inv
    | with_reducible apply rowFail_inv
    | with_reducible apply rowWait_inv
    | split
    | with_reducible refine cmdMod_keeps u0 ?_
    | with_reducible refine setWork_keeps u0 ?_
    | with_reducible refine raiseHorizons_keeps u0 ?_
    | with_reducible refine failCmd_keeps u1 ?_
    | with_reducible refine done_keeps u2 ?_
    | with_reducible refine endStage_keeps u3 ?_
    | with_reducible refine journalEntry_keeps u4 ?_
    | with_reducible refine mutGoOn_keeps u5 ?_
    | with_reducible refine journalBatch_keeps hm ?_
    | refine row_ok (by with_reducible assumption) ?_
    | refine row_fail (by with_reducible assumption) ?_
    | refine row_wait (by with_reducible assumption) ?_
    | refine j_done (by with_reducible assumption) ?_

theorem execJournalWrite_keeps {c : Nat} {s : State} (hm : 13197173204184 &&& κ = 13197173204184)  (hs : (Keeps κ s₀) s) : OutInv (Keeps κ s₀) (execJournalWrite c s) := by
  have u0 : 4326616 &&& κ = 4326616 := sub_mask (by decide) hm
  have u1 : 13197173203160 &&& κ = 13197173203160 := sub_mask (by decide) hm
  unfold execJournalWrite
  repeat' first
    | with_reducible assumption
    | with_reducible intro _
    | with_reducible apply out_next
    | split
    | with_reducible refine drainAll_keeps u0 ?_
    | with_reducible refine journalWrite_keeps u1 ?_

theorem lookupRow_keeps {x : Cmd} {c : Coll} {s : State} (hm : 13196358328536 &&& κ = 13196358328536)  (hs : (Keeps κ s₀) s) : RowInv (Keeps κ s₀) (lookupRow x c s) := by
  have u0 : 4202584 &&& κ = 4202584 := sub_mask (by decide) hm
  have u1 : 13196354134016 &&& κ = 13196354134016 := sub_mask (by decide) hm
  have u2 : 0 &&& κ = 0 := sub_mask (by decide) hm
  have u3 : 13196354134208 &&& κ = 13196354134208 := sub_mask (by decide) hm
  unfold lookupRow
  repeat' first
    | with_reducible assumption
    | with_reducible intro _
    | with_reducible refine row_ite ?_ ?_
    | with_reducible refine res_ite ?_ ?_
    | with_reducible refine inv_ite ?_ ?_
    | with_reducible apply ok_inv
    | with_reducible apply fail_inv
    | with_reducible apply wait_inv
    | with_reducible apply rowOk_inv
    | with_reducible apply rowFail_inv
    | with_reducible apply rowWait_inv
    | with_reducible refine row_andThen ?_ ?_
    | split
    | with_reducible refine res_andThen ?_ ?_
    | with_reducible refine writeDev_keeps u0 ?_
    | with_reducible refine done_keeps u1 ?_
    | with_reducible refine mediaLost_keeps u2 ?_
    | with_reducible refine failPoison_keeps u3 ?_
    | refine res_ok (by with_reducible assumption) ?_
    | refine res_fail (by with_reducible assumption) ?_
    | refine res_wait (by with_reducible assumption) ?_
    | refine row_ok (by with_reducible assumption) ?_
    | refine row_fail (by with_reducible assumption) ?_
    | refine row_wait (by with_reducible assumption) ?_
    | (dsimp only)

theorem execLookup_keeps {c : Nat} {s : State} (hm : 13196358460632 &&& κ = 13196358460632)  (hs : (Keeps κ s₀) s) : OutInv (Keeps κ s₀) (execLookup c s) := by
  have u0 : 4326616 &&& κ = 4326616 := sub_mask (by decide) hm
  have u1 : 13196354134208 &&& κ = 13196354134208 := sub_mask (by decide) hm
  have u2 : 13196358328536 &&& κ = 13196358328536 := sub_mask (by decide) hm
  unfold execLookup
  repeat' first
    | with_reducible assumption
    | with_reducible intro _
    | with_reducible refine out_ite ?_ ?_
    | with_reducible refine inv_ite ?_ ?_
    | with_reducible refine row_ite ?_ ?_
    | with_reducible refine res_ite ?_ ?_
    | with_reducible apply out_next
    | with_reducible apply rowOk_inv
    | with_reducible apply rowFail_inv
    | with_reducible apply rowWait_inv
    | split
    | with_reducible refine drainAll_keeps u0 ?_
    | with_reducible refine settle_keeps u1 ?_
    | with_reducible refine lookupRow_keeps u2 ?_

end Sys2Proof.Machine
end

