-- ==== Sys2Proof/Laws/FramesSelect.lean ====
section
/-! SUPPORT. The parts of the state that the functions of Machine/Select.lean may write. -/

namespace Sys2Proof.Machine

variable {κ : Nat} {s₀ : State}

theorem countMerge_keeps {cl : Nat} {s : State} (hm : 64 &&& κ = 64)  (hs : (Keeps κ s₀) s) : (Keeps κ s₀) (countMerge cl s) := by
  unfold countMerge
  repeat' first
    | with_reducible assumption
    | with_reducible intro _
    | split
    | with_reducible refine bumpWrap_keeps hm ?_

theorem dupKeys_keeps {x : Cmd} {cl : Nat} {ds : List Cand} {s : State} (hm : 2684485832 &&& κ = 2684485832)  (hs : (Keeps κ s₀) s) : (Keeps κ s₀) (dupKeys x cl ds s) := by
  have u0 : 64 &&& κ = 64 := sub_mask (by decide) hm
  have u1 : 192 &&& κ = 192 := sub_mask (by decide) hm
  have u2 : 2684485704 &&& κ = 2684485704 := sub_mask (by decide) hm
  unfold dupKeys
  repeat' first
    | with_reducible assumption
    | with_reducible intro _
    | split
    | with_reducible refine inv_foldl ?_ ?_
    | with_reducible refine bumpSat_keeps u0 ?_
    | with_reducible refine blkFault_keeps u1 ?_
    | with_reducible refine raise_keeps u2 ?_

theorem valvePoison_keeps {x : Cmd} {cl : Nat} {addr : Nat} {spill : Bool} {s : State} (hm : 13196354134208 &&& κ = 13196354134208)  (hs : (Keeps κ s₀) s) : (Keeps κ s₀) (valvePoison x cl addr spill s) := by
  have u0 : 8192 &&& κ = 8192 := sub_mask (by decide) hm
  unfold valvePoison
  repeat' first
    | with_reducible assumption
    | with_reducible intro _
    | split
    | with_reducible refine cmdMod_keeps u0 ?_
    | with_reducible refine failCmd_keeps hm ?_

end Sys2Proof.Machine
end

