-- ==== Sys2Proof/Laws/FramesSearch.lean ====
section
/-! SUPPORT. The parts of the state that the functions of Machine/Search.lean may write. -/

namespace Sys2Proof.Machine

variable {κ : Nat} {s₀ : State}

theorem readInput_keeps {x : Cmd} {va : Nat} {sub : Nat} {n : Nat} {s : State} (hm : 138412104 &&& κ = 138412104)  (hs : (Keeps κ s₀) s) : ResInv (Keeps κ s₀) (readInput x va sub n s) := by
  unfold readInput
  repeat' first
    | with_reducible assumption
    | with_reducible intro _
    | with_reducible refine res_ite ?_ ?_
    | with_reducible refine inv_ite ?_ ?_
    | with_reducible apply ok_inv
    | with_reducible apply fail_inv
    | with_reducible apply wait_inv
    | split
    | with_reducible refine readBuf_keeps hm ?_

theorem inputBad_keeps {α : Type} {x : Cmd} {va : Nat} {s : State} (hm : 0 &&& κ = 0)  (hs : (Keeps κ s₀) s) : ResInv (Keeps κ s₀) (inputBad (α := α) x va s) := by
  unfold inputBad
  repeat' first
    | with_reducible assumption
    | with_reducible intro _
    | with_reducible apply ok_inv
    | with_reducible apply fail_inv

theorem readFilter_keeps {x : Cmd} {va : Nat} {s : State} (hm : 138412104 &&& κ = 138412104)  (hs : (Keeps κ s₀) s) : ResInv (Keeps κ s₀) (readFilter x va s) := by
  have u1 : 0 &&& κ = 0 := sub_mask (by decide) hm
  unfold readFilter
  repeat' first
    | with_reducible assumption
    | with_reducible intro _
    | with_reducible refine res_ite ?_ ?_
    | with_reducible refine inv_ite ?_ ?_
    | with_reducible apply ok_inv
    | with_reducible apply fail_inv
    | with_reducible apply wait_inv
    | split
    | with_reducible refine res_andThen ?_ ?_
    | with_reducible refine readInput_keeps hm ?_
    | with_reducible refine inputBad_keeps u1 ?_
    | refine res_ok (by with_reducible assumption) ?_
    | refine res_fail (by with_reducible assumption) ?_
    | refine res_wait (by with_reducible assumption) ?_
    | (dsimp only)

theorem readCodes_keeps {x : Cmd} {p : SParams} {c : Coll} {j : Nat} {s : State} (hm : 138412104 &&& κ = 138412104)  (hs : (Keeps κ s₀) s) : ResInv (Keeps κ s₀) (readCodes x p c j s) := by
  unfold readCodes
  repeat' first
    | with_reducible assumption
    | with_reducible intro _
    | with_reducible refine res_ite ?_ ?_
    | with_reducible refine inv_ite ?_ ?_
    | with_reducible apply ok_inv
    | with_reducible apply fail_inv
    | with_reducible apply wait_inv
    | split
    | with_reducible refine res_andThen ?_ ?_
    | with_reducible refine readInput_keeps hm ?_

theorem readBlock_keeps {x : Cmd} {c : Coll} {va : Nat} {sub : Nat} {s : State} (hm : 138412104 &&& κ = 138412104)  (hs : (Keeps κ s₀) s) : ResInv (Keeps κ s₀) (readBlock x c va sub s) := by
  have u1 : 0 &&& κ = 0 := sub_mask (by decide) hm
  unfold readBlock
  repeat' first
    | with_reducible assumption
    | with_reducible intro _
    | with_reducible apply ok_inv
    | with_reducible apply fail_inv
    | with_reducible apply wait_inv
    | split
    | with_reducible refine res_andThen ?_ ?_
    | with_reducible refine readInput_keeps hm ?_
    | with_reducible refine inputBad_keeps u1 ?_

theorem readRq_keeps {x : Cmd} {p : SParams} {c : Coll} {j : Nat} {q : Query} {s : State} (hm : 138412104 &&& κ = 138412104)  (hs : (Keeps κ s₀) s) : ResInv (Keeps κ s₀) (readRq x p c j q s) := by
  unfold readRq
  repeat' first
    | with_reducible assumption
    | with_reducible intro _
    | with_reducible refine res_ite ?_ ?_
    | with_reducible refine inv_ite ?_ ?_
    | with_reducible apply ok_inv
    | with_reducible apply fail_inv
    | with_reducible apply wait_inv
    | split
    | with_reducible refine res_andThen ?_ ?_
    | with_reducible refine readBlock_keeps hm ?_

theorem readEach_keeps {α : Type} {f : Nat → State → Res α} {y0 : Nat} {y1 : Nat} {y2 : State} (hm : 0 &&& κ = 0) (hf : ∀ a0 a1, (Keeps κ s₀) a1 → ResInv (Keeps κ s₀) (f a0 a1)) (hy2 : (Keeps κ s₀) y2) : ResInv (Keeps κ s₀) (readEach (α := α) f y0 y1 y2) := by
  induction y0 generalizing f y1 y2 with
  | zero =>
    unfold readEach
    repeat' first
      | with_reducible assumption
      | with_reducible intro _
      | with_reducible apply ok_inv
  | succ n ih =>
    unfold readEach
    repeat' first
      | with_reducible assumption
      | with_reducible intro _
      | with_reducible apply ok_inv
      | with_reducible apply fail_inv
      | with_reducible apply wait_inv
      | split
      | with_reducible refine res_andThen ?_ ?_
      | with_reducible apply ih
      | with_reducible apply hf

theorem countScans_keeps {h : Nat} {keys : List Nat} {s : State} (hm : 8388608 &&& κ = 8388608)  (hs : (Keeps κ s₀) s) : (Keeps κ s₀) (countScans h keys s) := by
  unfold countScans
  repeat' first
    | with_reducible assumption
    | with_reducible intro _
    | with_reducible refine inv_ite ?_ ?_
    | split
    | with_reducible refine collMod_keeps hm ?_

theorem reportPoison_keeps {x : Cmd} {g : Nat} {failed : Bool} {p : Poison} {s : State} (hm : 2684494024 &&& κ = 2684494024)  (hs : (Keeps κ s₀) s) : (Keeps κ s₀) (reportPoison x g failed p s) := by
  have u0 : 64 &&& κ = 64 := sub_mask (by decide) hm
  have u1 : 192 &&& κ = 192 := sub_mask (by decide) hm
  have u2 : 2684485704 &&& κ = 2684485704 := sub_mask (by decide) hm
  have u3 : 8192 &&& κ = 8192 := sub_mask (by decide) hm
  unfold reportPoison
  repeat' first
    | with_reducible assumption
    | with_reducible intro _
    | with_reducible refine inv_ite ?_ ?_
    | split
    | with_reducible refine bumpSat_keeps u0 ?_
    | with_reducible refine blkFault_keeps u1 ?_
    | with_reducible refine raise_keeps u2 ?_
    | with_reducible refine cmdMod_keeps u3 ?_

theorem blockDone_keeps {x : Cmd} {sr : Search} {g : Nat} {s : State} (hm : 1056768 &&& κ = 1056768)  (hs : (Keeps κ s₀) s) : (Keeps κ s₀) (blockDone x sr g s) := by
  unfold blockDone
  repeat' first
    | with_reducible assumption
    | with_reducible intro _
    | with_reducible refine inv_ite ?_ ?_
    | split
    | with_reducible refine workDone_keeps hm ?_
    | with_reducible refine endStage_keeps hm ?_

theorem scanBlock_keeps {c : Nat} {n : Nat} {s : State} (hm : 13196894281928 &&& κ = 13196894281928)  (hs : (Keeps κ s₀) s) : (Keeps κ s₀) (scanBlock c n s) := by
  have u0 : 64 &&& κ = 64 := sub_mask (by decide) hm
  have u1 : 8192 &&& κ = 8192 := sub_mask (by decide) hm
  have u2 : 13196354134208 &&& κ = 13196354134208 := sub_mask (by decide) hm
  have u3 : 2097152 &&& κ = 2097152 := sub_mask (by decide) hm
  have u4 : 2684494024 &&& κ = 2684494024 := sub_mask (by decide) hm
  have u5 : 1056768 &&& κ = 1056768 := sub_mask (by decide) hm
  unfold scanBlock
  repeat' first
    | with_reducible assumption
    | with_reducible intro _
    | with_reducible refine inv_ite ?_ ?_
    | split
    | with_reducible refine inv_foldl ?_ ?_
    | with_reducible refine bumpWrap_keeps u0 ?_
    | with_reducible refine setWork_keeps u1 ?_
    | with_reducible refine failCmd_keeps u2 ?_
    | with_reducible refine account_keeps u3 ?_
    | with_reducible refine reportPoison_keeps u4 ?_
    | with_reducible refine blockDone_keeps u5 ?_
    | (dsimp only)

theorem execScanBlockScored_keeps {c : Nat} {block : Nat} {s : State} (hm : 13196898477272 &&& κ = 13196898477272)  (hs : (Keeps κ s₀) s) : OutInv (Keeps κ s₀) (execScanBlockScored c block s) := by
  have u0 : 4326616 &&& κ = 4326616 := sub_mask (by decide) hm
  have u1 : 13196894281928 &&& κ = 13196894281928 := sub_mask (by decide) hm
  unfold execScanBlockScored
  repeat' first
    | with_reducible assumption
    | with_reducible intro _
    | with_reducible apply out_next
    | split
    | with_reducible refine drainAll_keeps u0 ?_
    | with_reducible refine scanBlock_keeps u1 ?_

theorem handOver_keeps {c : Nat} {g : Nat} {r : Nat} {s : State} (hm : 8192 &&& κ = 8192)  (hs : (Keeps κ s₀) s) : (Keeps κ s₀) (handOver c g r s) := by
  unfold handOver
  repeat' first
    | with_reducible assumption
    | with_reducible intro _
    | with_reducible refine inv_ite ?_ ?_
    | split
    | with_reducible refine setWork_keeps hm ?_

theorem execLocalListHandover_keeps {c : Nat} {group : Nat} {reed : Nat} {s : State} (hm : 8192 &&& κ = 8192)  (hs : (Keeps κ s₀) s) : OutInv (Keeps κ s₀) (execLocalListHandover c group reed s) := by
  unfold execLocalListHandover
  repeat' first
    | with_reducible assumption
    | with_reducible intro _
    | with_reducible apply out_next
    | split
    | with_reducible refine handOver_keeps hm ?_

theorem reduceSpills_keeps {c : Nat} {t : Nat} {s : State} (hm : 8256 &&& κ = 8256)  (hs : (Keeps κ s₀) s) : (Keeps κ s₀) (reduceSpills c t s) := by
  have u0 : 64 &&& κ = 64 := sub_mask (by decide) hm
  have u1 : 8192 &&& κ = 8192 := sub_mask (by decide) hm
  unfold reduceSpills
  repeat' first
    | with_reducible assumption
    | with_reducible intro _
    | with_reducible refine inv_ite ?_ ?_
    | split
    | with_reducible refine bumpWrap_keeps u0 ?_
    | with_reducible refine setWork_keeps u1 ?_

theorem writeResults_keeps {x : Cmd} {sr : Search} {addr : Nat} {y0 : Nat} {y1 : List Query} {y2 : State} (hm : 138420312 &&& κ = 138420312)  (hy2 : (Keeps κ s₀) y2) : ResInv (Keeps κ s₀) (writeResults x sr addr y0 y1 y2) := by
  induction y1 generalizing x sr addr y0 y2 with
  | nil =>
    unfold writeResults
    repeat' first
      | with_reducible assumption
      | with_reducible intro _
      | with_reducible apply ok_inv
  | cons a t ih =>
    unfold writeResults
    repeat' first
      | with_reducible assumption
      | with_reducible intro _
      | with_reducible apply ok_inv
      | with_reducible apply fail_inv
      | with_reducible apply wait_inv
      | split
      | with_reducible refine res_andThen ?_ ?_
      | with_reducible apply ih
      | with_reducible refine writeBuf_keeps hm ?_

theorem endSearch_keeps {x : Cmd} {sr : Search} {s : State} (hm : 13196493594712 &&& κ = 13196493594712)  (hs : (Keeps κ s₀) s) : RowInv (Keeps κ s₀) (endSearch x sr s) := by
  have u0 : 13196354134016 &&& κ = 13196354134016 := sub_mask (by decide) hm
  have u1 : 1056768 &&& κ = 1056768 := sub_mask (by decide) hm
  have u2 : 138420312 &&& κ = 138420312 := sub_mask (by decide) hm
  unfold endSearch
  repeat' first
    | with_reducible assumption
    | with_reducible intro _
    | with_reducible refine row_ite ?_ ?_
    | with_reducible refine res_ite ?_ ?_
    | with_reducible refine inv_ite ?_ ?_
    | with_reducible apply ok_inv
    | with_reducible apply fail_inv
    | with_reducible apply wait_inv
    | with_reducible apply rowOk_inv
    | with_reducible apply rowFail_inv
    | with_reducible apply rowWait_inv
    | with_reducible refine row_andThen ?_ ?_
    | split
    | with_reducible refine inv_foldl ?_ ?_
    | with_reducible refine res_andThen ?_ ?_
    | with_reducible refine res_foldl ?_ ?_
    | with_reducible refine done_keeps u0 ?_
    | with_reducible refine endStage_keeps u1 ?_
    | with_reducible refine writeResults_keeps u2 ?_
    | refine res_ok (by with_reducible assumption) ?_
    | refine res_fail (by with_reducible assumption) ?_
    | refine res_wait (by with_reducible assumption) ?_
    | refine row_ok (by with_reducible assumption) ?_
    | refine row_fail (by with_reducible assumption) ?_
    | refine row_wait (by with_reducible assumption) ?_
    | (dsimp only)

theorem towerMerge_keeps {x : Cmd} {sr : Search} {t : Nat} {s : State} (hm : 8256 &&& κ = 8256)  (hs : (Keeps κ s₀) s) : (Keeps κ s₀) (towerMerge x sr t s) := by
  have u0 : 8192 &&& κ = 8192 := sub_mask (by decide) hm
  have u1 : 64 &&& κ = 64 := sub_mask (by decide) hm
  unfold towerMerge
  repeat' first
    | with_reducible assumption
    | with_reducible intro _
    | with_reducible refine inv_ite ?_ ?_
    | split
    | with_reducible refine cmdMod_keeps u0 ?_
    | with_reducible refine setWork_keeps u0 ?_
    | with_reducible refine countMerge_keeps u1 ?_

theorem finishSearch_keeps {x : Cmd} {sr : Search} {s : State} (hm : 13196493594840 &&& κ = 13196493594840)  (hs : (Keeps κ s₀) s) : (Keeps κ s₀) (finishSearch x sr s) := by
  have u0 : 8192 &&& κ = 8192 := sub_mask (by decide) hm
  have u1 : 13196354134208 &&& κ = 13196354134208 := sub_mask (by decide) hm
  have u2 : 1056768 &&& κ = 1056768 := sub_mask (by decide) hm
  have u3 : 13196493594712 &&& κ = 13196493594712 := sub_mask (by decide) hm
  unfold finishSearch
  repeat' first
    | with_reducible assumption
    | with_reducible intro _
    | with_reducible apply rowOk_inv
    | with_reducible apply rowFail_inv
    | with_reducible apply rowWait_inv
    | split
    | with_reducible refine setWork_keeps u0 ?_
    | with_reducible refine failCmd_keeps u1 ?_
    | with_reducible refine endStage_keeps u2 ?_
    | with_reducible refine endSearch_keeps u3 ?_
    | refine row_ok (by with_reducible assumption) ?_
    | refine row_fail (by with_reducible assumption) ?_
    | refine row_wait (by with_reducible assumption) ?_
    | (dsimp only)

theorem homeMerge_keeps {x : Cmd} {sr : Search} {s : State} (hm : 13196493594840 &&& κ = 13196493594840)  (hs : (Keeps κ s₀) s) : (Keeps κ s₀) (homeMerge x sr s) := by
  have u0 : 8192 &&& κ = 8192 := sub_mask (by decide) hm
  have u1 : 64 &&& κ = 64 := sub_mask (by decide) hm
  unfold homeMerge
  repeat' first
    | with_reducible assumption
    | with_reducible intro _
    | with_reducible refine inv_ite ?_ ?_
    | split
    | with_reducible refine setWork_keeps u0 ?_
    | with_reducible refine countMerge_keeps u1 ?_
    | with_reducible refine finishSearch_keeps hm ?_

theorem countScored_keeps {cl : Nat} {n : Nat} {fs : BitVec 7} {s : State} (hm : 64 &&& κ = 64)  (hs : (Keeps κ s₀) s) : (Keeps κ s₀) (countScored cl n fs s) := by
  unfold countScored
  repeat' first
    | with_reducible assumption
    | with_reducible intro _
    | with_reducible refine inv_ite ?_ ?_
    | split
    | with_reducible refine bumpSat_keeps hm ?_
    | with_reducible refine bumpWrap_keeps hm ?_

theorem rerankPoison_keeps {x : Cmd} {cl : Nat} {p : Poison} {s : State} (hm : 13196354134208 &&& κ = 13196354134208)  (hs : (Keeps κ s₀) s) : (Keeps κ s₀) (rerankPoison x cl p s) := by
  have u0 : 192 &&& κ = 192 := sub_mask (by decide) hm
  have u1 : 8192 &&& κ = 8192 := sub_mask (by decide) hm
  unfold rerankPoison
  repeat' first
    | with_reducible assumption
    | with_reducible intro _
    | split
    | with_reducible refine blkFault_keeps u0 ?_
    | with_reducible refine cmdMod_keeps u1 ?_
    | with_reducible refine failPoison_keeps hm ?_

theorem rerankRegion_keeps {x : Cmd} {sr : Search} {s : State} (hm : 13196357279936 &&& κ = 13196357279936)  (hs : (Keeps κ s₀) s) : (Keeps κ s₀) (rerankRegion x sr s) := by
  have u0 : 8192 &&& κ = 8192 := sub_mask (by decide) hm
  have u1 : 1056768 &&& κ = 1056768 := sub_mask (by decide) hm
  have u2 : 2097152 &&& κ = 2097152 := sub_mask (by decide) hm
  have u3 : 64 &&& κ = 64 := sub_mask (by decide) hm
  have u4 : 13196354134208 &&& κ = 13196354134208 := sub_mask (by decide) hm
  unfold rerankRegion
  repeat' first
    | with_reducible assumption
    | with_reducible intro _
    | split
    | with_reducible refine inv_foldl ?_ ?_
    | with_reducible refine setWork_keeps u0 ?_
    | with_reducible refine workDone_keeps u1 ?_
    | with_reducible refine account_keeps u2 ?_
    | with_reducible refine countScored_keeps u3 ?_
    | with_reducible refine rerankPoison_keeps u4 ?_

theorem startEncodes_keeps {x : Cmd} {c : Coll} {vs : List EncVec} {rerank : Bool} {s : State} (hm : 16777280 &&& κ = 16777280)
    (hs : Keeps κ s₀ s) : Keeps κ s₀ (startEncodes x c vs rerank s).2 := by
  have hc := @countBell_keeps κ s₀
  have ht := @takeBatch_keeps κ s₀
  unfold startEncodes
  dsimp only
  refine snd_ite ?_ ?_
  · exact ht (sub_mask (by decide) hm) (hc (sub_mask (by decide) hm) hs)
  · exact ht (sub_mask (by decide) hm) (hc (sub_mask (by decide) hm) (ht (sub_mask (by decide) hm) (hc (sub_mask (by decide) hm) hs)))

theorem readQueries_keeps {x : Cmd} {c : Coll} {sr : Search} {s : State} (hm : 155189320 &&& κ = 155189320)  (hs : (Keeps κ s₀) s) : ResInv (Keeps κ s₀) (readQueries x c sr s) := by
  have u0 : 4194376 &&& κ = 4194376 := sub_mask (by decide) hm
  have u1 : 138412104 &&& κ = 138412104 := sub_mask (by decide) hm
  have u2 : 0 &&& κ = 0 := sub_mask (by decide) hm
  have u3 : 16777280 &&& κ = 16777280 := sub_mask (by decide) hm
  unfold readQueries
  repeat' first
    | with_reducible assumption
    | with_reducible intro _
    | with_reducible refine res_ite ?_ ?_
    | with_reducible refine inv_ite ?_ ?_
    | with_reducible apply ok_inv
    | with_reducible apply fail_inv
    | with_reducible apply wait_inv
    | split
    | with_reducible refine res_andThen ?_ ?_
    | with_reducible refine readSource_keeps u0 ?_
    | with_reducible refine readCodes_keeps u1 ?_
    | with_reducible refine readRq_keeps u1 ?_
    | with_reducible refine readEach_keeps u2 ?_ ?_
    | with_reducible refine startEncodes_keeps u3 ?_

theorem searchRow_keeps {c : Nat} {op : Nat} {f : Cmd → Coll → State → Res State} {s : State} (hm : 13196354134208 &&& κ = 13196354134208) (hf : ∀ a0 a1 a2, (Keeps κ s₀) a2 → RowInv (Keeps κ s₀) (f a0 a1 a2)) (hs : (Keeps κ s₀) s) : (Keeps κ s₀) (searchRow c op f s) := by
  unfold searchRow
  repeat' first
    | with_reducible assumption
    | with_reducible intro _
    | with_reducible refine inv_ite ?_ ?_
    | with_reducible refine row_ite ?_ ?_
    | with_reducible refine res_ite ?_ ?_
    | with_reducible apply rowOk_inv
    | with_reducible apply rowFail_inv
    | with_reducible apply rowWait_inv
    | split
    | with_reducible refine settle_keeps hm ?_
    | with_reducible refine unlessPoison_keeps hm ?_ ?_
    | with_reducible apply hf

end Sys2Proof.Machine
end

