-- ==== Sys2Proof/Laws/FramesFlat.lean ====
section
/-! SUPPORT. The parts of the state that the functions of Machine/Flat.lean may write. -/

namespace Sys2Proof.Machine

variable {κ : Nat} {s₀ : State}

theorem readProbes_keeps {x : Cmd} {s : State} (hm : 138412104 &&& κ = 138412104)  (hs : (Keeps κ s₀) s) : ResInv (Keeps κ s₀) (readProbes x s) := by
  have u1 : 0 &&& κ = 0 := sub_mask (by decide) hm
  unfold readProbes
  repeat' first
    | with_reducible assumption
    | with_reducible intro _
    | with_reducible apply ok_inv
    | with_reducible apply fail_inv
    | with_reducible apply wait_inv
    | split
    | with_reducible refine res_andThen ?_ ?_
    | with_reducible refine readBuf_keeps hm ?_
    | with_reducible refine inputBad_keeps u1 ?_
    | refine res_ok (by with_reducible assumption) ?_
    | refine res_fail (by with_reducible assumption) ?_
    | refine res_wait (by with_reducible assumption) ?_
    | (dsimp only)

theorem noteProbe_keeps {x : Cmd} {sr : Search} {s : State} (hm : 3298534883392 &&& κ = 3298534883392)  (hs : (Keeps κ s₀) s) : (Keeps κ s₀) (noteProbe x sr s) := by
  unfold noteProbe
  repeat' first
    | with_reducible assumption
    | with_reducible intro _
    | with_reducible refine inv_ite ?_ ?_
    | split
    | with_reducible refine countProbe_keeps hm ?_

theorem planBlocks_keeps {x : Cmd} {sr : Search} {listed : List Nat} {s : State} (hm : 3298543280192 &&& κ = 3298543280192)  (hs : (Keeps κ s₀) s) : (Keeps κ s₀) (planBlocks x sr listed s) := by
  have u0 : 8192 &&& κ = 8192 := sub_mask (by decide) hm
  have u1 : 8388608 &&& κ = 8388608 := sub_mask (by decide) hm
  have u2 : 3298534883392 &&& κ = 3298534883392 := sub_mask (by decide) hm
  unfold planBlocks
  repeat' first
    | with_reducible assumption
    | with_reducible intro _
    | split
    | with_reducible refine setWork_keeps u0 ?_
    | with_reducible refine countScans_keeps u1 ?_
    | with_reducible refine noteProbe_keeps u2 ?_

theorem flatStart_keeps {x : Cmd} {c : Coll} {s : State} (hm : 16495053643976 &&& κ = 16495053643976)  (hs : (Keeps κ s₀) s) : RowInv (Keeps κ s₀) (flatStart x c s) := by
  have u0 : 8192 &&& κ = 8192 := sub_mask (by decide) hm
  have u1 : 1056768 &&& κ = 1056768 := sub_mask (by decide) hm
  have u2 : 67108928 &&& κ = 67108928 := sub_mask (by decide) hm
  have u3 : 13196354134208 &&& κ = 13196354134208 := sub_mask (by decide) hm
  have u4 : 0 &&& κ = 0 := sub_mask (by decide) hm
  have u5 : 138412104 &&& κ = 138412104 := sub_mask (by decide) hm
  have u6 : 155189320 &&& κ = 155189320 := sub_mask (by decide) hm
  have u7 : 3298543280192 &&& κ = 3298543280192 := sub_mask (by decide) hm
  unfold flatStart
  repeat' first
    | with_reducible assumption
    | with_reducible intro _
    | with_reducible refine row_ite ?_ ?_
    | with_reducible refine res_ite ?_ ?_
    | with_reducible refine inv_ite ?_ ?_
    | with_reducible apply ok_inv
    | with_reducible apply fail_inv
    | with_reducible apply wait_inv
    | with_reducible apply rowOk_inv
    | with_reducible apply rowFail_inv
    | with_reducible apply rowWait_inv
    | with_reducible refine row_andThen ?_ ?_
    | split
    | with_reducible refine res_andThen ?_ ?_
    | with_reducible refine cmdMod_keeps u0 ?_
    | with_reducible refine setWork_keeps u0 ?_
    | with_reducible refine endStage_keeps u1 ?_
    | with_reducible refine consumeRings_keeps u2 ?_
    | with_reducible refine bellPoison_keeps u3 ?_
    | with_reducible refine mediaLost_keeps u4 ?_
    | with_reducible refine readFilter_keeps u5 ?_
    | with_reducible refine readQueries_keeps u6 ?_
    | with_reducible refine readProbes_keeps u5 ?_
    | with_reducible refine planBlocks_keeps u7 ?_

theorem execSearchFlat_keeps {c : Nat} {s : State} (hm : 16495053776088 &&& κ = 16495053776088)  (hs : (Keeps κ s₀) s) : OutInv (Keeps κ s₀) (execSearchFlat c s) := by
  have u0 : 4326616 &&& κ = 4326616 := sub_mask (by decide) hm
  have u1 : 13196354134208 &&& κ = 13196354134208 := sub_mask (by decide) hm
  have u2 : 16495053643976 &&& κ = 16495053643976 := sub_mask (by decide) hm
  unfold execSearchFlat
  repeat' first
    | with_reducible assumption
    | with_reducible intro _
    | with_reducible apply out_next
    | with_reducible apply rowOk_inv
    | with_reducible apply rowFail_inv
    | with_reducible apply rowWait_inv
    | split
    | with_reducible refine drainAll_keeps u0 ?_
    | with_reducible refine searchRow_keeps u1 ?_ ?_
    | with_reducible refine flatStart_keeps u2 ?_

theorem batchSearchStart_keeps {x : Cmd} {c : Coll} {s : State} (hm : 16495053643976 &&& κ = 16495053643976)  (hs : (Keeps κ s₀) s) : RowInv (Keeps κ s₀) (batchSearchStart x c s) := by
  unfold batchSearchStart
  repeat' first
    | with_reducible assumption
    | with_reducible intro _
    | with_reducible apply rowOk_inv
    | with_reducible apply rowFail_inv
    | with_reducible apply rowWait_inv
    | split
    | with_reducible refine flatStart_keeps hm ?_

theorem execSearchBatch_keeps {c : Nat} {s : State} (hm : 16495053776088 &&& κ = 16495053776088)  (hs : (Keeps κ s₀) s) : OutInv (Keeps κ s₀) (execSearchBatch c s) := by
  have u0 : 4326616 &&& κ = 4326616 := sub_mask (by decide) hm
  have u1 : 13196354134208 &&& κ = 13196354134208 := sub_mask (by decide) hm
  have u2 : 16495053643976 &&& κ = 16495053643976 := sub_mask (by decide) hm
  unfold execSearchBatch
  repeat' first
    | with_reducible assumption
    | with_reducible intro _
    | with_reducible apply out_next
    | with_reducible apply rowOk_inv
    | with_reducible apply rowFail_inv
    | with_reducible apply rowWait_inv
    | split
    | with_reducible refine drainAll_keeps u0 ?_
    | with_reducible refine searchRow_keeps u1 ?_ ?_
    | with_reducible refine batchSearchStart_keeps u2 ?_

theorem codesReady_keeps {x : Cmd} {sr : Search} {s : State} (hm : 3298611437632 &&& κ = 3298611437632)  (hs : (Keeps κ s₀) s) : (Keeps κ s₀) (codesReady x sr s) := by
  have u0 : 8192 &&& κ = 8192 := sub_mask (by decide) hm
  have u1 : 1056768 &&& κ = 1056768 := sub_mask (by decide) hm
  have u2 : 67108864 &&& κ = 67108864 := sub_mask (by decide) hm
  have u3 : 3298543280192 &&& κ = 3298543280192 := sub_mask (by decide) hm
  unfold codesReady
  repeat' first
    | with_reducible assumption
    | with_reducible intro _
    | with_reducible refine inv_ite ?_ ?_
    | split
    | with_reducible refine setWork_keeps u0 ?_
    | with_reducible refine endStage_keeps u1 ?_
    | with_reducible refine freeStage_keeps u2 ?_
    | with_reducible refine planBlocks_keeps u3 ?_

end Sys2Proof.Machine
end

