-- ==== Sys2Proof/Laws/FramesGraph.lean ====
section
/-! SUPPORT. The parts of the state that the functions of Machine/Graph.lean may write. -/

namespace Sys2Proof.Machine

variable {κ : Nat} {s₀ : State}

theorem endWalk_keeps {c : Nat} {s : State} (hm : 8798241562624 &&& κ = 8798241562624)  (hs : (Keeps κ s₀) s) : (Keeps κ s₀) (endWalk c s) := by
  have u0 : 8192 &&& κ = 8192 := sub_mask (by decide) hm
  have u1 : 8798240505856 &&& κ = 8798240505856 := sub_mask (by decide) hm
  have u2 : 1048576 &&& κ = 1048576 := sub_mask (by decide) hm
  unfold endWalk
  repeat' first
    | with_reducible assumption
    | with_reducible intro _
    | split
    | with_reducible refine cmdMod_keeps u0 ?_
    | with_reducible refine freeContexts_keeps u1 ?_
    | with_reducible refine releaseCharges_keeps u2 ?_

theorem graphStart_keeps {x : Cmd} {c : Coll} {s : State} (hm : 13196510372040 &&& κ = 13196510372040)  (hs : (Keeps κ s₀) s) : RowInv (Keeps κ s₀) (graphStart x c s) := by
  have u0 : 8192 &&& κ = 8192 := sub_mask (by decide) hm
  have u1 : 1056768 &&& κ = 1056768 := sub_mask (by decide) hm
  have u2 : 67108928 &&& κ = 67108928 := sub_mask (by decide) hm
  have u3 : 13196354134208 &&& κ = 13196354134208 := sub_mask (by decide) hm
  have u4 : 138412104 &&& κ = 138412104 := sub_mask (by decide) hm
  have u5 : 155189320 &&& κ = 155189320 := sub_mask (by decide) hm
  have u6 : 8798241562624 &&& κ = 8798241562624 := sub_mask (by decide) hm
  unfold graphStart
  repeat' first
    | with_reducible assumption
    | with_reducible intro _
    | with_reducible refine res_ite ?_ ?_
    | with_reducible refine inv_ite ?_ ?_
    | with_reducible apply ok_inv
    | with_reducible apply fail_inv
    | with_reducible apply wait_inv
    | with_reducible apply rowOk_inv
    | with_reducible apply rowFail_inv
    | with_reducible apply rowWait_inv
    | with_reducible refine row_andThen ?_ ?_
    | split
    | with_reducible refine res_andThen ?_ ?_
    | with_reducible refine setWork_keeps u0 ?_
    | with_reducible refine endStage_keeps u1 ?_
    | with_reducible refine consumeRings_keeps u2 ?_
    | with_reducible refine bellPoison_keeps u3 ?_
    | with_reducible refine readFilter_keeps u4 ?_
    | with_reducible refine readQueries_keeps u5 ?_
    | with_reducible refine endWalk_keeps u6 ?_

theorem execSearchGraph_keeps {c : Nat} {s : State} (hm : 13196510504152 &&& κ = 13196510504152)  (hs : (Keeps κ s₀) s) : OutInv (Keeps κ s₀) (execSearchGraph c s) := by
  have u0 : 4326616 &&& κ = 4326616 := sub_mask (by decide) hm
  have u1 : 13196354134208 &&& κ = 13196354134208 := sub_mask (by decide) hm
  have u2 : 13196510372040 &&& κ = 13196510372040 := sub_mask (by decide) hm
  unfold execSearchGraph
  repeat' first
    | with_reducible assumption
    | with_reducible intro _
    | with_reducible apply out_next
    | with_reducible apply rowOk_inv
    | with_reducible apply rowFail_inv
    | with_reducible apply rowWait_inv
    | split
    | with_reducible refine drainAll_keeps u0 ?_
    | with_reducible refine searchRow_keeps u1 ?_ ?_
    | with_reducible refine graphStart_keeps u2 ?_

theorem nodePoison_keeps {x : Cmd} {tower : Nat} {n : Nat} {p : Poison} {w : DataWord} {s : State} (hm : 13196354134208 &&& κ = 13196354134208)  (hs : (Keeps κ s₀) s) : (Keeps κ s₀) (nodePoison x tower n p w s) := by
  have u0 : 64 &&& κ = 64 := sub_mask (by decide) hm
  have u1 : 8192 &&& κ = 8192 := sub_mask (by decide) hm
  unfold nodePoison
  repeat' first
    | with_reducible assumption
    | with_reducible intro _
    | split
    | with_reducible refine bumpSat_keeps u0 ?_
    | with_reducible refine cmdMod_keeps u1 ?_
    | with_reducible refine failCmd_keeps hm ?_

theorem nodeArrives_keeps {c : Nat} {n : Nat} {s : State} (hm : 13196354134208 &&& κ = 13196354134208)  (hs : (Keeps κ s₀) s) : (Keeps κ s₀) (nodeArrives c n s) := by
  have u0 : 8192 &&& κ = 8192 := sub_mask (by decide) hm
  unfold nodeArrives
  repeat' first
    | with_reducible assumption
    | with_reducible intro _
    | with_reducible refine inv_ite ?_ ?_
    | split
    | with_reducible refine setWork_keeps u0 ?_
    | with_reducible refine nodePoison_keeps hm ?_

theorem execNodeReadArrival_keeps {c : Nat} {node : Nat} {s : State} (hm : 13196358460632 &&& κ = 13196358460632)  (hs : (Keeps κ s₀) s) : OutInv (Keeps κ s₀) (execNodeReadArrival c node s) := by
  have u0 : 4326616 &&& κ = 4326616 := sub_mask (by decide) hm
  have u1 : 13196354134208 &&& κ = 13196354134208 := sub_mask (by decide) hm
  unfold execNodeReadArrival
  repeat' first
    | with_reducible assumption
    | with_reducible intro _
    | with_reducible apply out_next
    | split
    | with_reducible refine drainAll_keeps u0 ?_
    | with_reducible refine nodeArrives_keeps u1 ?_

theorem walkCommit_keeps {c : Nat} {s : State} (hm : 8798243659840 &&& κ = 8798243659840)  (hs : (Keeps κ s₀) s) : (Keeps κ s₀) (walkCommit c s) := by
  have u0 : 64 &&& κ = 64 := sub_mask (by decide) hm
  have u1 : 8192 &&& κ = 8192 := sub_mask (by decide) hm
  have u2 : 1056768 &&& κ = 1056768 := sub_mask (by decide) hm
  have u3 : 2097152 &&& κ = 2097152 := sub_mask (by decide) hm
  have u4 : 8798241562624 &&& κ = 8798241562624 := sub_mask (by decide) hm
  unfold walkCommit
  repeat' first
    | with_reducible assumption
    | with_reducible intro _
    | with_reducible refine inv_ite ?_ ?_
    | split
    | with_reducible refine bumpWrap_keeps u0 ?_
    | with_reducible refine setWork_keeps u1 ?_
    | with_reducible refine workDone_keeps u2 ?_
    | with_reducible refine account_keeps u3 ?_
    | with_reducible refine endWalk_keeps u4 ?_

theorem execWalkRoundCommit_keeps {c : Nat} {s : State} (hm : 8798247986392 &&& κ = 8798247986392)  (hs : (Keeps κ s₀) s) : OutInv (Keeps κ s₀) (execWalkRoundCommit c s) := by
  have u0 : 4326616 &&& κ = 4326616 := sub_mask (by decide) hm
  have u1 : 8798243659840 &&& κ = 8798243659840 := sub_mask (by decide) hm
  unfold execWalkRoundCommit
  repeat' first
    | with_reducible assumption
    | with_reducible intro _
    | with_reducible apply out_next
    | split
    | with_reducible refine drainAll_keeps u0 ?_
    | with_reducible refine walkCommit_keeps u1 ?_

theorem contextMoved_keeps {a : Nat} {b : Nat} {s : State} (hm : 8798777516104 &&& κ = 8798777516104)  (hs : (Keeps κ s₀) s) : (Keeps κ s₀) (contextMoved a b s) := by
  have u0 : 8798240514048 &&& κ = 8798240514048 := sub_mask (by decide) hm
  have u1 : 64 &&& κ = 64 := sub_mask (by decide) hm
  have u2 : 2684485704 &&& κ = 2684485704 := sub_mask (by decide) hm
  unfold contextMoved
  repeat' first
    | with_reducible assumption
    | with_reducible intro _
    | with_reducible refine inv_ite ?_ ?_
    | split
    | with_reducible refine bumpSat_keeps u1 ?_
    | with_reducible refine raise_keeps u2 ?_
    | (dsimp only)
    | with_reducible refine upd_cmds_chn_contexts u0 ?_

theorem execContextMoved_keeps {fromCore : Nat} {toCore : Nat} {s : State} (hm : 8798781711576 &&& κ = 8798781711576)  (hs : (Keeps κ s₀) s) : OutInv (Keeps κ s₀) (execContextMoved fromCore toCore s) := by
  have u0 : 4326616 &&& κ = 4326616 := sub_mask (by decide) hm
  have u1 : 8798777516104 &&& κ = 8798777516104 := sub_mask (by decide) hm
  unfold execContextMoved
  repeat' first
    | with_reducible assumption
    | with_reducible intro _
    | with_reducible apply out_next
    | split
    | with_reducible refine drainAll_keeps u0 ?_
    | with_reducible refine contextMoved_keeps u1 ?_

end Sys2Proof.Machine
end

