-- ==== Sys2Proof/Laws/FramesFanout.lean ====
section
/-! SUPPORT. The parts of the state that the functions of Machine/Fanout.lean may write. -/

namespace Sys2Proof.Machine

variable {κ : Nat} {s₀ : State}

theorem subArrive_keeps {q : SubQ} {s : State} (hm : 24576 &&& κ = 24576)  (hs : (Keeps κ s₀) s) : (Keeps κ s₀) (subArrive q s) := by
  have u1 : 8192 &&& κ = 8192 := sub_mask (by decide) hm
  unfold subArrive
  repeat' first
    | with_reducible assumption
    | with_reducible intro _
    | with_reducible refine inv_ite ?_ ?_
    | split
    | with_reducible refine cmdMod_keeps u1 ?_
    | (dsimp only)
    | with_reducible refine upd_cmds_nextCmd hm ?_

theorem sendSubs_keeps {x : Cmd} {c : Coll} {f : Fan} {deadline : Nat} {y0 : List Shard} {y1 : State} (hm : 536895496 &&& κ = 536895496)  (hy1 : (Keeps κ s₀) y1) : (Keeps κ s₀) (sendSubs x c f deadline y0 y1).2 := by
  have u0 : 536870912 &&& κ = 536870912 := sub_mask (by decide) hm
  have u1 : 536870920 &&& κ = 536870920 := sub_mask (by decide) hm
  have u2 : 24576 &&& κ = 24576 := sub_mask (by decide) hm
  induction y0 generalizing x c f deadline y1 with
  | nil =>
    unfold sendSubs
    repeat' first
      | with_reducible assumption
  | cons a t ih =>
    unfold sendSubs
    repeat' first
      | with_reducible assumption
      | with_reducible intro _
      | with_reducible refine snd_ite ?_ ?_
      | with_reducible refine inv_ite ?_ ?_
      | split
      | with_reducible apply ih
      | with_reducible refine sendMsg_keeps u1 ?_
      | with_reducible refine subArrive_keeps u2 ?_
      | refine inv_snd (by with_reducible assumption) ?_
      | (dsimp only)
      | with_reducible refine upd_cst u0 ?_

theorem fanSend_keeps {x : Cmd} {c : Coll} {f : Fan} {s : State} (hm : 13196891021384 &&& κ = 13196891021384)  (hs : (Keeps κ s₀) s) : (Keeps κ s₀) (fanSend x c f s) := by
  have u0 : 8192 &&& κ = 8192 := sub_mask (by decide) hm
  have u1 : 13196354134080 &&& κ = 13196354134080 := sub_mask (by decide) hm
  have u2 : 536895496 &&& κ = 536895496 := sub_mask (by decide) hm
  unfold fanSend
  repeat' first
    | with_reducible assumption
    | with_reducible intro _
    | with_reducible refine inv_ite ?_ ?_
    | split
    | with_reducible refine setWork_keeps u0 ?_
    | with_reducible refine refuse_keeps u1 ?_
    | with_reducible refine sendSubs_keeps u2 ?_

theorem fanRq_keeps {x : Cmd} {c : Coll} {s : State} (hm : 138412104 &&& κ = 138412104)  (hs : (Keeps κ s₀) s) : ResInv (Keeps κ s₀) (fanRq x c s) := by
  have u1 : 0 &&& κ = 0 := sub_mask (by decide) hm
  unfold fanRq
  repeat' first
    | with_reducible assumption
    | with_reducible intro _
    | with_reducible refine res_ite ?_ ?_
    | with_reducible refine inv_ite ?_ ?_
    | with_reducible apply ok_inv
    | with_reducible apply fail_inv
    | with_reducible apply wait_inv
    | split
    | with_reducible refine res_andThen ?_ ?_
    | with_reducible refine readBuf_keeps hm ?_
    | with_reducible refine inputBad_keeps u1 ?_

theorem fanQuery_keeps {x : Cmd} {c : Coll} {p : SParams} {f : Fan} {s : State} (hm : 155189320 &&& κ = 155189320)  (hs : (Keeps κ s₀) s) : ResInv (Keeps κ s₀) (fanQuery x c p f s) := by
  have u0 : 138412104 &&& κ = 138412104 := sub_mask (by decide) hm
  have u1 : 4194376 &&& κ = 4194376 := sub_mask (by decide) hm
  have u2 : 16777280 &&& κ = 16777280 := sub_mask (by decide) hm
  unfold fanQuery
  repeat' first
    | with_reducible assumption
    | with_reducible intro _
    | with_reducible refine res_ite ?_ ?_
    | with_reducible refine inv_ite ?_ ?_
    | with_reducible apply ok_inv
    | with_reducible apply fail_inv
    | with_reducible apply wait_inv
    | split
    | with_reducible refine res_andThen ?_ ?_
    | with_reducible refine readBuf_keeps u0 ?_
    | with_reducible refine readSource_keeps u1 ?_
    | with_reducible refine startEncodes_keeps u2 ?_
    | with_reducible refine fanRq_keeps u0 ?_

theorem fanFilter_keeps {x : Cmd} {s : State} (hm : 138412104 &&& κ = 138412104)  (hs : (Keeps κ s₀) s) : ResInv (Keeps κ s₀) (fanFilter x s) := by
  unfold fanFilter
  repeat' first
    | with_reducible assumption
    | with_reducible intro _
    | with_reducible refine res_ite ?_ ?_
    | with_reducible refine inv_ite ?_ ?_
    | with_reducible apply ok_inv
    | with_reducible apply fail_inv
    | with_reducible apply wait_inv
    | split
    | with_reducible refine res_andThen ?_ ?_
    | with_reducible refine readBuf_keeps hm ?_
    | with_reducible refine readFilter_keeps hm ?_

theorem fanInputs_keeps {x : Cmd} {c : Coll} {s : State} (hm : 155189320 &&& κ = 155189320)  (hs : (Keeps κ s₀) s) : ResInv (Keeps κ s₀) (fanInputs x c s) := by
  have u0 : 138412104 &&& κ = 138412104 := sub_mask (by decide) hm
  have u1 : 0 &&& κ = 0 := sub_mask (by decide) hm
  unfold fanInputs
  repeat' first
    | with_reducible assumption
    | with_reducible intro _
    | with_reducible refine res_ite ?_ ?_
    | with_reducible refine inv_ite ?_ ?_
    | with_reducible apply ok_inv
    | with_reducible apply fail_inv
    | with_reducible apply wait_inv
    | split
    | with_reducible refine res_andThen ?_ ?_
    | with_reducible refine readBuf_keeps u0 ?_
    | with_reducible refine inputBad_keeps u1 ?_
    | with_reducible refine fanQuery_keeps hm ?_
    | with_reducible refine fanFilter_keeps u0 ?_

theorem fanReady_keeps {x : Cmd} {c : Coll} {f : Fan} {s : State} (hm : 13196892069960 &&& κ = 13196892069960)  (hs : (Keeps κ s₀) s) : (Keeps κ s₀) (fanReady x c f s) := by
  have u0 : 1056768 &&& κ = 1056768 := sub_mask (by decide) hm
  have u1 : 67108864 &&& κ = 67108864 := sub_mask (by decide) hm
  have u2 : 13196891021384 &&& κ = 13196891021384 := sub_mask (by decide) hm
  unfold fanReady
  repeat' first
    | with_reducible assumption
    | with_reducible intro _
    | split
    | with_reducible refine endStage_keeps u0 ?_
    | with_reducible refine freeStage_keeps u1 ?_
    | with_reducible refine fanSend_keeps u2 ?_

theorem fanStart_keeps {x : Cmd} {c : Coll} {s : State} (hm : 13197047259336 &&& κ = 13197047259336)  (hs : (Keeps κ s₀) s) : RowInv (Keeps κ s₀) (fanStart x c s) := by
  have u0 : 8192 &&& κ = 8192 := sub_mask (by decide) hm
  have u1 : 1056768 &&& κ = 1056768 := sub_mask (by decide) hm
  have u2 : 67108928 &&& κ = 67108928 := sub_mask (by decide) hm
  have u3 : 13196354134208 &&& κ = 13196354134208 := sub_mask (by decide) hm
  have u4 : 155189320 &&& κ = 155189320 := sub_mask (by decide) hm
  have u5 : 13196892069960 &&& κ = 13196892069960 := sub_mask (by decide) hm
  unfold fanStart
  repeat' first
    | with_reducible assumption
    | with_reducible intro _
    | with_reducible refine res_ite ?_ ?_
    | with_reducible refine inv_ite ?_ ?_
    | with_reducible apply ok_inv
    | with_reducible apply fail_inv
    | with_reducible apply wait_inv
    | with_reducible apply rowOk_inv
    | with_reducible apply rowFail_inv
    | with_reducible apply rowWait_inv
    | with_reducible refine row_andThen ?_ ?_
    | split
    | with_reducible refine res_andThen ?_ ?_
    | with_reducible refine setWork_keeps u0 ?_
    | with_reducible refine endStage_keeps u1 ?_
    | with_reducible refine consumeRings_keeps u2 ?_
    | with_reducible refine bellPoison_keeps u3 ?_
    | with_reducible refine fanInputs_keeps u4 ?_
    | with_reducible refine fanReady_keeps u5 ?_

theorem execSearchFanout_keeps {c : Nat} {s : State} (hm : 13197047391448 &&& κ = 13197047391448)  (hs : (Keeps κ s₀) s) : OutInv (Keeps κ s₀) (execSearchFanout c s) := by
  have u0 : 4326616 &&& κ = 4326616 := sub_mask (by decide) hm
  have u1 : 13196354134208 &&& κ = 13196354134208 := sub_mask (by decide) hm
  have u2 : 13197047259336 &&& κ = 13197047259336 := sub_mask (by decide) hm
  unfold execSearchFanout
  repeat' first
    | with_reducible assumption
    | with_reducible intro _
    | with_reducible apply out_next
    | with_reducible apply rowOk_inv
    | with_reducible apply rowFail_inv
    | with_reducible apply rowWait_inv
    | split
    | with_reducible refine drainAll_keeps u0 ?_
    | with_reducible refine searchRow_keeps u1 ?_ ?_
    | with_reducible refine fanStart_keeps u2 ?_

theorem subqRow_keeps {q : SubQ} {s : State} (hm : 536895560 &&& κ = 536895560)  (hs : (Keeps κ s₀) s) : (Keeps κ s₀) (subqRow q s) := by
  have u0 : 64 &&& κ = 64 := sub_mask (by decide) hm
  have u1 : 536870920 &&& κ = 536870920 := sub_mask (by decide) hm
  have u2 : 24576 &&& κ = 24576 := sub_mask (by decide) hm
  unfold subqRow
  repeat' first
    | with_reducible assumption
    | with_reducible intro _
    | with_reducible refine inv_ite ?_ ?_
    | split
    | with_reducible refine bumpSat_keeps u0 ?_
    | with_reducible refine sendMsg_keeps u1 ?_
    | with_reducible refine subArrive_keeps u2 ?_

theorem execSubq_keeps {peer : Nat} {request : Nat} {subKind : Nat} {coll : Nat} {shardId : Nat} {bnd : Bool} {cut : Bool} {deadlineUs : Nat} {codeBits : Nat} {encVersion : Nat} {encNext : Nat} {params : List Byte} {codes : List Byte} {rq : List Byte} {filter : List Byte} {tset : List Nat} {s : State} (hm : 541222104 &&& κ = 541222104)  (hs : (Keeps κ s₀) s) : OutInv (Keeps κ s₀) (execSubq peer request subKind coll shardId bnd cut deadlineUs codeBits encVersion encNext params codes rq filter tset s) := by
  have u0 : 4326616 &&& κ = 4326616 := sub_mask (by decide) hm
  have u1 : 536895560 &&& κ = 536895560 := sub_mask (by decide) hm
  unfold execSubq
  repeat' first
    | with_reducible assumption
    | with_reducible intro _
    | with_reducible apply out_next
    | split
    | with_reducible refine drainAll_keeps u0 ?_
    | with_reducible refine subqRow_keeps u1 ?_

theorem shardAnswer_keeps {peer : Nat} {request : Nat} {rep : ShardReport} {es : List WireEntry} {s : State} (hm : 1056768 &&& κ = 1056768)  (hs : (Keeps κ s₀) s) : (Keeps κ s₀) (shardAnswer peer request rep es s) := by
  have u0 : 8192 &&& κ = 8192 := sub_mask (by decide) hm
  unfold shardAnswer
  repeat' first
    | with_reducible assumption
    | with_reducible intro _
    | with_reducible refine inv_ite ?_ ?_
    | split
    | with_reducible refine inv_foldl ?_ ?_
    | with_reducible refine cmdMod_keeps u0 ?_
    | with_reducible refine workDone_keeps hm ?_

theorem execSubres_keeps {peer : Nat} {request : Nat} {rep : ShardReport} {es : List WireEntry} {s : State} (hm : 1056768 &&& κ = 1056768)  (hs : (Keeps κ s₀) s) : OutInv (Keeps κ s₀) (execSubres peer request rep es s) := by
  unfold execSubres
  repeat' first
    | with_reducible assumption
    | with_reducible intro _
    | with_reducible refine out_ite ?_ ?_
    | with_reducible refine inv_ite ?_ ?_
    | with_reducible apply out_next
    | split
    | with_reducible refine shardAnswer_keeps hm ?_

theorem fanMerge_keeps {x : Cmd} {c : Coll} {f : Fan} {s : State} (hm : 13197030596824 &&& κ = 13197030596824)  (hs : (Keeps κ s₀) s) : (Keeps κ s₀) (fanMerge x c f s) := by
  have u0 : 13196354134016 &&& κ = 13196354134016 := sub_mask (by decide) hm
  have u1 : 13196354134208 &&& κ = 13196354134208 := sub_mask (by decide) hm
  have u2 : 1056768 &&& κ = 1056768 := sub_mask (by decide) hm
  have u3 : 138420312 &&& κ = 138420312 := sub_mask (by decide) hm
  have u4 : 64 &&& κ = 64 := sub_mask (by decide) hm
  have u5 : 2684485832 &&& κ = 2684485832 := sub_mask (by decide) hm
  unfold fanMerge
  repeat' first
    | with_reducible assumption
    | with_reducible intro _
    | with_reducible refine inv_ite ?_ ?_
    | with_reducible apply ok_inv
    | with_reducible apply fail_inv
    | with_reducible apply wait_inv
    | split
    | with_reducible refine res_andThen ?_ ?_
    | with_reducible refine finish_keeps u0 ?_
    | with_reducible refine failCmd_keeps u1 ?_
    | with_reducible refine endStage_keeps u2 ?_
    | with_reducible refine writeBuf_keeps u3 ?_
    | with_reducible refine countMerge_keeps u4 ?_
    | with_reducible refine dupKeys_keeps u5 ?_
    | refine res_ok (by with_reducible assumption) ?_
    | refine res_fail (by with_reducible assumption) ?_
    | refine res_wait (by with_reducible assumption) ?_
    | (dsimp only)

theorem fansDown_keeps {peer : Nat} {s : State} (hm : 13196354134080 &&& κ = 13196354134080)  (hs : (Keeps κ s₀) s) : (Keeps κ s₀) (fansDown peer s) := by
  unfold fansDown
  repeat' first
    | with_reducible assumption
    | with_reducible intro _
    | split
    | with_reducible refine inv_foldl ?_ ?_
    | with_reducible refine refuse_keeps hm ?_

theorem fansRejected_keeps {peer : Nat} {s : State} (hm : 13196354134208 &&& κ = 13196354134208)  (hs : (Keeps κ s₀) s) : (Keeps κ s₀) (fansRejected peer s) := by
  unfold fansRejected
  repeat' first
    | with_reducible assumption
    | with_reducible intro _
    | split
    | with_reducible refine inv_foldl ?_ ?_
    | with_reducible refine failCmd_keeps hm ?_

end Sys2Proof.Machine
end

