-- ==== Sys2Proof/Laws/FramesBore.lean ====
section
/-! SUPPORT. The parts of the state that the functions of Machine/Bore.lean may write. -/

namespace Sys2Proof.Machine

variable {κ : Nat} {s₀ : State}

theorem putEncs_keeps {x : Cmd} {es : List Enc} {s : State} (hm : 16495707971800 &&& κ = 16495707971800)  (hs : (Keeps κ s₀) s) : (Keeps κ s₀) (putEncs x es s) := by
  have u0 : 8192 &&& κ = 8192 := sub_mask (by decide) hm
  have u1 : 13196354134208 &&& κ = 13196354134208 := sub_mask (by decide) hm
  have u2 : 1056768 &&& κ = 1056768 := sub_mask (by decide) hm
  have u3 : 67108864 &&& κ = 67108864 := sub_mask (by decide) hm
  have u4 : 13196359376984 &&& κ = 13196359376984 := sub_mask (by decide) hm
  have u5 : 68165632 &&& κ = 68165632 := sub_mask (by decide) hm
  have u6 : 13196626763992 &&& κ = 13196626763992 := sub_mask (by decide) hm
  have u7 : 3298611437632 &&& κ = 3298611437632 := sub_mask (by decide) hm
  have u8 : 13196892069960 &&& κ = 13196892069960 := sub_mask (by decide) hm
  unfold putEncs
  repeat' first
    | with_reducible assumption
    | with_reducible intro _
    | with_reducible refine inv_ite ?_ ?_
    | with_reducible refine row_ite ?_ ?_
    | with_reducible refine res_ite ?_ ?_
    | with_reducible apply rowOk_inv
    | with_reducible apply rowFail_inv
    | with_reducible apply rowWait_inv
    | split
    | with_reducible refine setWork_keeps u0 ?_
    | with_reducible refine settle_keeps u1 ?_
    | with_reducible refine endStage_keeps u2 ?_
    | with_reducible refine freeStage_keeps u3 ?_
    | with_reducible refine encodeEnd_keeps u4 ?_
    | with_reducible refine encodeEnds_keeps u5 ?_
    | with_reducible refine mutGoOn_keeps u6 ?_
    | with_reducible refine codesReady_keeps u7 ?_
    | with_reducible refine fanReady_keeps u8 ?_
    | refine inv_snd (by with_reducible assumption) ?_
    | refine row_ok (by with_reducible assumption) ?_
    | refine row_fail (by with_reducible assumption) ?_
    | refine row_wait (by with_reducible assumption) ?_
    | (dsimp only)

theorem takeRes_keeps {x : Cmd} {k : Nat} {e : Enc} {r : EncRes} {note : State → State} {s : State} (hm : 16495707971800 &&& κ = 16495707971800) (hr : EncInv (Keeps κ s₀) r) (hnote : ∀ a0, (Keeps κ s₀) a0 → (Keeps κ s₀) (note a0)) (hs : (Keeps κ s₀) s) : (Keeps κ s₀) (takeRes x k e r note s) := by
  have u0 : 8192 &&& κ = 8192 := sub_mask (by decide) hm
  have u1 : 13196354134208 &&& κ = 13196354134208 := sub_mask (by decide) hm
  have u2 : 1056768 &&& κ = 1056768 := sub_mask (by decide) hm
  have u3 : 4398046511168 &&& κ = 4398046511168 := sub_mask (by decide) hm
  have u4 : 0 &&& κ = 0 := sub_mask (by decide) hm
  unfold takeRes
  repeat' first
    | with_reducible assumption
    | with_reducible intro _
    | with_reducible refine inv_ite ?_ ?_
    | with_reducible refine row_ite ?_ ?_
    | with_reducible refine res_ite ?_ ?_
    | with_reducible apply ok_inv
    | with_reducible apply fail_inv
    | with_reducible apply wait_inv
    | with_reducible apply rowOk_inv
    | with_reducible apply rowFail_inv
    | with_reducible apply rowWait_inv
    | split
    | with_reducible refine cmdMod_keeps u0 ?_
    | with_reducible refine settle_keeps u1 ?_
    | with_reducible refine workDone_keeps u2 ?_
    | with_reducible refine borePoison_keeps u1 ?_
    | with_reducible refine countDrainWait_keeps u3 ?_
    | with_reducible refine mediaLost_keeps u4 ?_
    | with_reducible refine putEncs_keeps hm ?_
    | with_reducible apply hr
    | with_reducible apply hnote
    | (cases hr; assumption)

theorem encStep_keeps {x : Cmd} {s : State} (hm : 17045465882840 &&& κ = 17045465882840)  (hs : (Keeps κ s₀) s) : (Keeps κ s₀) (encStep x s) := by
  have u0 : 4398048608320 &&& κ = 4398048608320 := sub_mask (by decide) hm
  have u1 : 3848290697216 &&& κ = 3848290697216 := sub_mask (by decide) hm
  have u2 : 64 &&& κ = 64 := sub_mask (by decide) hm
  have u3 : 16495707971800 &&& κ = 16495707971800 := sub_mask (by decide) hm
  unfold encStep
  repeat' first
    | with_reducible assumption
    | with_reducible intro _
    | with_reducible refine inv_ite ?_ ?_
    | split
    | with_reducible refine encRegion_keeps u0 ?_
    | with_reducible refine noteAccs_keeps u1 ?_
    | with_reducible refine countEvents_keeps u2 ?_
    | with_reducible refine takeRes_keeps u3 ?_ ?_ ?_

theorem splitCombine_keeps {c : Nat} {s : State} (hm : 17045463785688 &&& κ = 17045463785688)  (hs : (Keeps κ s₀) s) : (Keeps κ s₀) (splitCombine c s) := by
  have u0 : 4398046511168 &&& κ = 4398046511168 := sub_mask (by decide) hm
  have u1 : 3848290697216 &&& κ = 3848290697216 := sub_mask (by decide) hm
  have u2 : 16495707971800 &&& κ = 16495707971800 := sub_mask (by decide) hm
  unfold splitCombine
  repeat' first
    | with_reducible assumption
    | with_reducible intro _
    | with_reducible refine inv_ite ?_ ?_
    | split
    | with_reducible refine encCombine_keeps u0 ?_
    | with_reducible refine noteAccs_keeps u1 ?_
    | with_reducible refine takeRes_keeps u2 ?_ ?_ ?_

theorem execSplitCombine_keeps {c : Nat} {s : State} (hm : 17045463917784 &&& κ = 17045463917784)  (hs : (Keeps κ s₀) s) : OutInv (Keeps κ s₀) (execSplitCombine c s) := by
  have u0 : 4326616 &&& κ = 4326616 := sub_mask (by decide) hm
  have u1 : 17045463785688 &&& κ = 17045463785688 := sub_mask (by decide) hm
  unfold execSplitCombine
  repeat' first
    | with_reducible assumption
    | with_reducible intro _
    | with_reducible apply out_next
    | split
    | with_reducible refine drainAll_keeps u0 ?_
    | with_reducible refine splitCombine_keeps u1 ?_

theorem rerankQueries_keeps {x : Cmd} {c : Coll} {s : State} (hm : 138412104 &&& κ = 138412104)  (hs : (Keeps κ s₀) s) : ResInv (Keeps κ s₀) (rerankQueries x c s) := by
  unfold rerankQueries
  repeat' first
    | with_reducible assumption
    | with_reducible intro _
    | with_reducible refine res_ite ?_ ?_
    | with_reducible refine inv_ite ?_ ?_
    | with_reducible apply ok_inv
    | with_reducible apply fail_inv
    | with_reducible apply wait_inv
    | split
    | with_reducible refine res_andThen ?_ ?_
    | with_reducible refine readBlock_keeps hm ?_

theorem rerankStart_keeps {x : Cmd} {c : Coll} {s : State} (hm : 206577736 &&& κ = 206577736)  (hs : (Keeps κ s₀) s) : RowInv (Keeps κ s₀) (rerankStart x c s) := by
  have u0 : 8192 &&& κ = 8192 := sub_mask (by decide) hm
  have u1 : 1056768 &&& κ = 1056768 := sub_mask (by decide) hm
  have u2 : 138412104 &&& κ = 138412104 := sub_mask (by decide) hm
  have u3 : 67108928 &&& κ = 67108928 := sub_mask (by decide) hm
  have u4 : 0 &&& κ = 0 := sub_mask (by decide) hm
  unfold rerankStart
  repeat' first
    | with_reducible assumption
    | with_reducible intro _
    | with_reducible refine res_ite ?_ ?_
    | with_reducible refine inv_ite ?_ ?_
    | with_reducible apply ok_inv
    | with_reducible apply fail_inv
    | with_reducible apply wait_inv
    | with_reducible apply rowOk_inv
    | with_reducible apply rowFail_inv
    | with_reducible apply rowWait_inv
    | with_reducible refine row_andThen ?_ ?_
    | split
    | with_reducible refine res_andThen ?_ ?_
    | with_reducible refine setWork_keeps u0 ?_
    | with_reducible refine endStage_keeps u1 ?_
    | with_reducible refine readBuf_keeps u2 ?_
    | with_reducible refine consumeRings_keeps u3 ?_
    | with_reducible refine inputBad_keeps u4 ?_
    | with_reducible refine rerankQueries_keeps u2 ?_
    | (unfold inputBad)

theorem execRerank_keeps {c : Nat} {s : State} (hm : 13196493726936 &&& κ = 13196493726936)  (hs : (Keeps κ s₀) s) : OutInv (Keeps κ s₀) (execRerank c s) := by
  have u0 : 4326616 &&& κ = 4326616 := sub_mask (by decide) hm
  have u1 : 13196354134208 &&& κ = 13196354134208 := sub_mask (by decide) hm
  have u2 : 206577736 &&& κ = 206577736 := sub_mask (by decide) hm
  unfold execRerank
  repeat' first
    | with_reducible assumption
    | with_reducible intro _
    | with_reducible apply out_next
    | with_reducible apply rowOk_inv
    | with_reducible apply rowFail_inv
    | with_reducible apply rowWait_inv
    | split
    | with_reducible refine drainAll_keeps u0 ?_
    | with_reducible refine searchRow_keeps u1 ?_ ?_
    | with_reducible refine rerankStart_keeps u2 ?_

theorem rerankScored_keeps {x : Cmd} {sr : Search} {s : State} (hm : 13196357279936 &&& κ = 13196357279936)  (hs : (Keeps κ s₀) s) : (Keeps κ s₀) (rerankScored x sr s) := by
  have u0 : 8192 &&& κ = 8192 := sub_mask (by decide) hm
  have u1 : 1056768 &&& κ = 1056768 := sub_mask (by decide) hm
  have u2 : 2097152 &&& κ = 2097152 := sub_mask (by decide) hm
  have u3 : 64 &&& κ = 64 := sub_mask (by decide) hm
  have u4 : 13196354134208 &&& κ = 13196354134208 := sub_mask (by decide) hm
  unfold rerankScored
  repeat' first
    | with_reducible assumption
    | with_reducible intro _
    | split
    | with_reducible refine inv_foldl ?_ ?_
    | with_reducible refine setWork_keeps u0 ?_
    | with_reducible refine workDone_keeps u1 ?_
    | with_reducible refine account_keeps u2 ?_
    | with_reducible refine countScored_keeps u3 ?_
    | with_reducible refine rerankPoison_keeps u4 ?_

theorem regionDrained_keeps {c : Nat} {s : State} (hm : 17045465882840 &&& κ = 17045465882840)  (hs : (Keeps κ s₀) s) : (Keeps κ s₀) (regionDrained c s) := by
  have u0 : 13196357279936 &&& κ = 13196357279936 := sub_mask (by decide) hm
  unfold regionDrained
  repeat' first
    | with_reducible assumption
    | with_reducible intro _
    | with_reducible refine inv_ite ?_ ?_
    | split
    | with_reducible refine rerankRegion_keeps u0 ?_
    | with_reducible refine encStep_keeps hm ?_
    | with_reducible refine rerankScored_keeps u0 ?_

theorem execBoreRegionDrained_keeps {c : Nat} {s : State} (hm : 17045466014936 &&& κ = 17045466014936)  (hs : (Keeps κ s₀) s) : OutInv (Keeps κ s₀) (execBoreRegionDrained c s) := by
  have u0 : 4326616 &&& κ = 4326616 := sub_mask (by decide) hm
  have u1 : 17045465882840 &&& κ = 17045465882840 := sub_mask (by decide) hm
  unfold execBoreRegionDrained
  repeat' first
    | with_reducible assumption
    | with_reducible intro _
    | with_reducible apply out_next
    | split
    | with_reducible refine drainAll_keeps u0 ?_
    | with_reducible refine regionDrained_keeps u1 ?_

theorem valveMerge_keeps {c : Nat} {tower : Option Nat} {s : State} (hm : 13197030596824 &&& κ = 13197030596824)  (hs : (Keeps κ s₀) s) : (Keeps κ s₀) (valveMerge c tower s) := by
  have u0 : 13196354134208 &&& κ = 13196354134208 := sub_mask (by decide) hm
  have u1 : 8256 &&& κ = 8256 := sub_mask (by decide) hm
  have u2 : 13196493594840 &&& κ = 13196493594840 := sub_mask (by decide) hm
  unfold valveMerge
  repeat' first
    | with_reducible assumption
    | with_reducible intro _
    | with_reducible refine inv_ite ?_ ?_
    | split
    | with_reducible refine valvePoison_keeps u0 ?_
    | with_reducible refine towerMerge_keeps u1 ?_
    | with_reducible refine homeMerge_keeps u2 ?_
    | with_reducible refine fanMerge_keeps hm ?_

theorem execValveMerge_keeps {c : Nat} {tower : Option Nat} {s : State} (hm : 13197030597848 &&& κ = 13197030597848)  (hs : (Keeps κ s₀) s) : OutInv (Keeps κ s₀) (execValveMerge c tower s) := by
  have u0 : 4326616 &&& κ = 4326616 := sub_mask (by decide) hm
  have u1 : 13197030596824 &&& κ = 13197030596824 := sub_mask (by decide) hm
  unfold execValveMerge
  repeat' first
    | with_reducible assumption
    | with_reducible intro _
    | with_reducible apply out_next
    | split
    | with_reducible refine drainAll_keeps u0 ?_
    | with_reducible refine valveMerge_keeps u1 ?_

theorem spillRow_keeps {c : Nat} {tower : Nat} {s : State} (hm : 13196354134208 &&& κ = 13196354134208)  (hs : (Keeps κ s₀) s) : (Keeps κ s₀) (spillRow c tower s) := by
  have u1 : 8256 &&& κ = 8256 := sub_mask (by decide) hm
  unfold spillRow
  repeat' first
    | with_reducible assumption
    | with_reducible intro _
    | split
    | with_reducible refine valvePoison_keeps hm ?_
    | with_reducible refine reduceSpills_keeps u1 ?_

theorem execSpillReduction_keeps {c : Nat} {tower : Nat} {s : State} (hm : 13196358460632 &&& κ = 13196358460632)  (hs : (Keeps κ s₀) s) : OutInv (Keeps κ s₀) (execSpillReduction c tower s) := by
  have u0 : 4326616 &&& κ = 4326616 := sub_mask (by decide) hm
  have u1 : 13196354134208 &&& κ = 13196354134208 := sub_mask (by decide) hm
  unfold execSpillReduction
  repeat' first
    | with_reducible assumption
    | with_reducible intro _
    | with_reducible apply out_next
    | split
    | with_reducible refine drainAll_keeps u0 ?_
    | with_reducible refine spillRow_keeps u1 ?_

theorem cutUnread_keeps {x : Cmd} {k : Coll} {s : State} (hm : 13196510372040 &&& κ = 13196510372040)  (hs : (Keeps κ s₀) s) : (Keeps κ s₀) (cutUnread x k s) := by
  have u0 : 8192 &&& κ = 8192 := sub_mask (by decide) hm
  have u1 : 13196354134208 &&& κ = 13196354134208 := sub_mask (by decide) hm
  have u2 : 8798241562624 &&& κ = 8798241562624 := sub_mask (by decide) hm
  have u3 : 155189320 &&& κ = 155189320 := sub_mask (by decide) hm
  unfold cutUnread
  repeat' first
    | with_reducible assumption
    | with_reducible intro _
    | with_reducible refine inv_ite ?_ ?_
    | with_reducible refine row_ite ?_ ?_
    | with_reducible refine res_ite ?_ ?_
    | with_reducible apply ok_inv
    | with_reducible apply fail_inv
    | with_reducible apply wait_inv
    | with_reducible apply rowOk_inv
    | with_reducible apply rowFail_inv
    | with_reducible apply rowWait_inv
    | with_reducible refine row_andThen ?_ ?_
    | split
    | with_reducible refine res_andThen ?_ ?_
    | with_reducible refine setWork_keeps u0 ?_
    | with_reducible refine settle_keeps u1 ?_
    | with_reducible refine endWalk_keeps u2 ?_
    | with_reducible refine fanInputs_keeps u3 ?_

theorem deadlineCut_keeps {c : Nat} {s : State} (hm : 13196510372040 &&& κ = 13196510372040)  (hs : (Keeps κ s₀) s) : (Keeps κ s₀) (deadlineCut c s) := by
  have u0 : 8192 &&& κ = 8192 := sub_mask (by decide) hm
  have u1 : 8798241562624 &&& κ = 8798241562624 := sub_mask (by decide) hm
  unfold deadlineCut
  repeat' first
    | with_reducible assumption
    | with_reducible intro _
    | with_reducible refine inv_ite ?_ ?_
    | split
    | with_reducible refine setWork_keeps u0 ?_
    | with_reducible refine endWalk_keeps u1 ?_
    | with_reducible refine cutUnread_keeps hm ?_

theorem execDeadlineCut_keeps {c : Nat} {s : State} (hm : 13196510504152 &&& κ = 13196510504152)  (hs : (Keeps κ s₀) s) : OutInv (Keeps κ s₀) (execDeadlineCut c s) := by
  have u0 : 4326616 &&& κ = 4326616 := sub_mask (by decide) hm
  have u1 : 13196510372040 &&& κ = 13196510372040 := sub_mask (by decide) hm
  unfold execDeadlineCut
  repeat' first
    | with_reducible assumption
    | with_reducible intro _
    | with_reducible apply out_next
    | split
    | with_reducible refine drainAll_keeps u0 ?_
    | with_reducible refine deadlineCut_keeps u1 ?_

end Sys2Proof.Machine
end

