-- ==== Sys2Proof/Laws/FramesAnswer.lean ====
section
/-! SUPPORT. The parts of the state that the functions of Machine/Answer.lean may write. -/

namespace Sys2Proof.Machine

variable {κ : Nat} {s₀ : State}

theorem sendAnswer_keeps {peer : Nat} {request : Nat} {bnd : Bool} {body : List Byte} {s : State} (hm : 537927688 &&& κ = 537927688)  (hs : (Keeps κ s₀) s) : (Keeps κ s₀) (sendAnswer peer request bnd body s) := by
  have u0 : 536870920 &&& κ = 536870920 := sub_mask (by decide) hm
  have u1 : 1056768 &&& κ = 1056768 := sub_mask (by decide) hm
  unfold sendAnswer
  repeat' first
    | with_reducible assumption
    | with_reducible intro _
    | with_reducible refine inv_ite ?_ ?_
    | split
    | with_reducible refine sendMsg_keeps u0 ?_
    | with_reducible refine shardAnswer_keeps u1 ?_

theorem postAnswer_keeps {x : Cmd} {peer : Nat} {request : Nat} {s : State} (hm : 2723291208 &&& κ = 2723291208)  (hs : (Keeps κ s₀) s) : (Keeps κ s₀) (postAnswer x peer request s) := by
  have u0 : 8192 &&& κ = 8192 := sub_mask (by decide) hm
  have u1 : 2684485704 &&& κ = 2684485704 := sub_mask (by decide) hm
  have u2 : 4194304 &&& κ = 4194304 := sub_mask (by decide) hm
  have u3 : 1048576 &&& κ = 1048576 := sub_mask (by decide) hm
  have u4 : 33554432 &&& κ = 33554432 := sub_mask (by decide) hm
  have u5 : 537927688 &&& κ = 537927688 := sub_mask (by decide) hm
  unfold postAnswer
  repeat' first
    | with_reducible assumption
    | with_reducible intro _
    | with_reducible refine inv_ite ?_ ?_
    | split
    | with_reducible refine inv_foldl ?_ ?_
    | with_reducible refine raise_keeps u1 ?_
    | with_reducible refine releaseHolds_keeps u2 ?_
    | with_reducible refine releaseCharges_keeps u3 ?_
    | with_reducible refine releaseVersions_keeps u4 ?_
    | with_reducible refine sendAnswer_keeps u5 ?_
    | (dsimp only)
    | with_reducible refine upd_cmds u0 ?_

theorem completionPost_keeps {c : Nat} {s : State} (hm : 24477377752 &&& κ = 24477377752)  (hs : (Keeps κ s₀) s) : (Keeps κ s₀) (completionPost c s) := by
  have u0 : 4326616 &&& κ = 4326616 := sub_mask (by decide) hm
  have u2 : 2723291208 &&& κ = 2723291208 := sub_mask (by decide) hm
  unfold completionPost
  repeat' first
    | with_reducible assumption
    | with_reducible intro _
    | with_reducible refine inv_ite ?_ ?_
    | split
    | with_reducible refine drainAll_keeps u0 ?_
    | with_reducible refine postRecord_keeps hm ?_
    | with_reducible refine postAnswer_keeps u2 ?_

theorem execCompletionPost_keeps {c : Nat} {s : State} (hm : 24477377752 &&& κ = 24477377752)  (hs : (Keeps κ s₀) s) : OutInv (Keeps κ s₀) (execCompletionPost c s) := by
  unfold execCompletionPost
  repeat' first
    | with_reducible assumption
    | with_reducible intro _
    | with_reducible apply out_next
    | split
    | with_reducible refine completionPost_keeps hm ?_

end Sys2Proof.Machine
end

