-- ==== Sys2Proof/Laws/FramesUnits.lean ====
section
/-! SUPPORT. The parts of the state that the functions of Machine/Units.lean may write. -/

namespace Sys2Proof.Machine

variable {κ : Nat} {s₀ : State}

theorem stopDrone_keeps {s : State} (hm : 2759983176 &&& κ = 2759983176)  (hs : (Keeps κ s₀) s) : (Keeps κ s₀) (stopDrone s) := by
  have u0 : 2684485704 &&& κ = 2684485704 := sub_mask (by decide) hm
  have u1 : 75497472 &&& κ = 75497472 := sub_mask (by decide) hm
  unfold stopDrone
  repeat' first
    | with_reducible assumption
    | with_reducible intro _
    | split
    | with_reducible refine inv_foldl ?_ ?_
    | with_reducible refine snd_foldl ?_ ?_
    | with_reducible refine raise_keeps u0 ?_
    | with_reducible refine endRun_keeps u1 ?_

theorem enterHold_keeps {cause : Nat} {kind : Nat} {s : State} (hm : 13196899524808 &&& κ = 13196899524808)  (hs : (Keeps κ s₀) s) : (Keeps κ s₀) (enterHold cause kind s) := by
  have u0 : 2147483648 &&& κ = 2147483648 := sub_mask (by decide) hm
  have u1 : 2684485704 &&& κ = 2684485704 := sub_mask (by decide) hm
  have u2 : 13196354134208 &&& κ = 13196354134208 := sub_mask (by decide) hm
  have u3 : 2759983176 &&& κ = 2759983176 := sub_mask (by decide) hm
  unfold enterHold
  repeat' first
    | with_reducible assumption
    | with_reducible intro _
    | with_reducible refine inv_ite ?_ ?_
    | split
    | with_reducible refine inv_foldl ?_ ?_
    | with_reducible refine setMode_keeps u1 ?_
    | with_reducible refine failCmd_keeps u2 ?_
    | with_reducible refine stopDrone_keeps u3 ?_
    | (dsimp only)
    | with_reducible refine upd_chn u0 ?_

theorem clusterOut_keeps {n : Nat} {code : Nat} {s : State} (hm : 320 &&& κ = 320)  (hs : (Keeps κ s₀) s) : (Keeps κ s₀) (clusterOut n code s) := by
  have u0 : 256 &&& κ = 256 := sub_mask (by decide) hm
  have u1 : 64 &&& κ = 64 := sub_mask (by decide) hm
  unfold clusterOut
  repeat' first
    | with_reducible assumption
    | with_reducible intro _
    | split
    | with_reducible refine inv_foldl ?_ ?_
    | with_reducible refine regSet_keeps u1 ?_
    | (dsimp only)
    | with_reducible refine upd_service u0 ?_

theorem applyMapEntry_keeps {e : MapEntry} {s : State} (hm : 320 &&& κ = 320) (hs : Keeps κ s₀ s) : Keeps κ s₀ (applyMapEntry e s) := by
  have hr : 64 &&& κ = 64 := sub_mask (by decide) hm
  have hc := @clusterOut_keeps κ s₀
  unfold applyMapEntry
  extract_lets spare l o t o2 t2 k o3 o4
  split
  all_goals repeat' first
    | with_reducible assumption
    | with_reducible refine inv_ite ?_ ?_
    | with_reducible refine regField_keeps hr ?_
    | with_reducible refine hc (sub_mask (by decide) hm) ?_
    | with_reducible refine upd_regs hr ?_

theorem streamAgain_keeps {on : List Nat} {s : State} (hm : 67108864 &&& κ = 67108864)  (hs : (Keeps κ s₀) s) : (Keeps κ s₀) (streamAgain on s) := by
  unfold streamAgain
  repeat' first
    | with_reducible assumption
    | with_reducible intro _
    | split
    | with_reducible refine ringsMod_keeps hm ?_

theorem recompute_keeps {cl : Nat} {s : State} (hm : 1099578736704 &&& κ = 1099578736704)  (hs : (Keeps κ s₀) s) : (Keeps κ s₀) (recompute cl s) := by
  have u0 : 1099511627776 &&& κ = 1099511627776 := sub_mask (by decide) hm
  have u1 : 64 &&& κ = 64 := sub_mask (by decide) hm
  have u2 : 67108864 &&& κ = 67108864 := sub_mask (by decide) hm
  unfold recompute
  repeat' first
    | with_reducible assumption
    | with_reducible intro _
    | split
    | with_reducible refine bumpWrap_keeps u1 ?_
    | with_reducible refine streamAgain_keeps u2 ?_
    | (dsimp only)
    | with_reducible refine upd_accs u0 ?_

theorem moveBlocks_keeps {g : Nat} {r : Nat} {s : State} (hm : 8192 &&& κ = 8192)  (hs : (Keeps κ s₀) s) : (Keeps κ s₀) (moveBlocks g r s) := by
  unfold moveBlocks
  repeat' first
    | with_reducible assumption
    | with_reducible intro _
    | split
    | (dsimp only)
    | with_reducible refine upd_cmds hm ?_

theorem moveWork_keeps {u : UnitId} {info : Nat} {s : State} (hm : 1101726228672 &&& κ = 1101726228672)  (hs : (Keeps κ s₀) s) : (Keeps κ s₀) (moveWork u info s) := by
  have u0 : 2147483648 &&& κ = 2147483648 := sub_mask (by decide) hm
  have u1 : 192 &&& κ = 192 := sub_mask (by decide) hm
  have u2 : 67108864 &&& κ = 67108864 := sub_mask (by decide) hm
  have u3 : 1099578736704 &&& κ = 1099578736704 := sub_mask (by decide) hm
  have u4 : 8192 &&& κ = 8192 := sub_mask (by decide) hm
  unfold moveWork
  repeat' first
    | with_reducible assumption
    | with_reducible intro _
    | with_reducible refine inv_ite ?_ ?_
    | split
    | with_reducible refine blkFault_keeps u1 ?_
    | with_reducible refine ringsMod_keeps u2 ?_
    | with_reducible refine recompute_keeps u3 ?_
    | with_reducible refine moveBlocks_keeps u4 ?_
    | (dsimp only)
    | with_reducible refine upd_chn u0 ?_

theorem noSpare_keeps {u : UnitId} {s : State} (hm : 13196899524808 &&& κ = 13196899524808)  (hs : (Keeps κ s₀) s) : (Keeps κ s₀) (noSpare u s) := by
  unfold noSpare
  repeat' first
    | with_reducible assumption
    | with_reducible intro _
    | with_reducible refine inv_ite ?_ ?_
    | split
    | with_reducible refine enterHold_keeps hm ?_

theorem retireUnit_keeps {u : UnitId} {phys : Nat} {cause : Nat} {s : State} (hm : 14297484894664 &&& κ = 14297484894664)  (hs : (Keeps κ s₀) s) : (Keeps κ s₀) (retireUnit u phys cause s) := by
  have u0 : 3221225472 &&& κ = 3221225472 := sub_mask (by decide) hm
  have u1 : 2684485704 &&& κ = 2684485704 := sub_mask (by decide) hm
  have u2 : 2147483648 &&& κ = 2147483648 := sub_mask (by decide) hm
  have u3 : 320 &&& κ = 320 := sub_mask (by decide) hm
  have u4 : 1101726228672 &&& κ = 1101726228672 := sub_mask (by decide) hm
  have u5 : 13196899524808 &&& κ = 13196899524808 := sub_mask (by decide) hm
  unfold retireUnit
  repeat' first
    | with_reducible assumption
    | with_reducible intro _
    | with_reducible refine inv_ite ?_ ?_
    | split
    | with_reducible refine raise_keeps u1 ?_
    | with_reducible refine advanceEpoch_keeps u2 ?_
    | with_reducible refine setMode_keeps u1 ?_
    | with_reducible refine applyMapEntry_keeps u3 ?_
    | with_reducible refine moveWork_keeps u4 ?_
    | with_reducible refine noSpare_keeps u5 ?_
    | (dsimp only)
    | with_reducible refine upd_blw_chn u0 ?_

theorem retireColumn_keeps {cl : Nat} {tile : Nat} {col : Nat} {cause : Nat} {s : State} (hm : 14297484894664 &&& κ = 14297484894664)  (hs : (Keeps κ s₀) s) : (Keeps κ s₀) (retireColumn cl tile col cause s) := by
  have u0 : 2684485704 &&& κ = 2684485704 := sub_mask (by decide) hm
  have u1 : 1099578736704 &&& κ = 1099578736704 := sub_mask (by decide) hm
  unfold retireColumn
  repeat' first
    | with_reducible assumption
    | with_reducible intro _
    | with_reducible refine inv_ite ?_ ?_
    | split
    | with_reducible refine raise_keeps u0 ?_
    | with_reducible refine recompute_keeps u1 ?_
    | with_reducible refine retireUnit_keeps hm ?_

theorem retireMacro_keeps {n : Nat} {s : State} (hm : 13196899524808 &&& κ = 13196899524808)  (hs : (Keeps κ s₀) s) : (Keeps κ s₀) (retireMacro n s) := by
  unfold retireMacro
  repeat' first
    | with_reducible assumption
    | with_reducible intro _
    | with_reducible refine inv_ite ?_ ?_
    | split
    | with_reducible refine enterHold_keeps hm ?_

theorem retireAny_keeps {u : UnitId} {cause : Nat} {s : State} (hm : 14297484894664 &&& κ = 14297484894664)  (hs : (Keeps κ s₀) s) : (Keeps κ s₀) (retireAny u cause s) := by
  have u1 : 13196899524808 &&& κ = 13196899524808 := sub_mask (by decide) hm
  unfold retireAny
  repeat' first
    | with_reducible assumption
    | with_reducible intro _
    | with_reducible refine inv_ite ?_ ?_
    | split
    | with_reducible refine retireUnit_keeps hm ?_
    | with_reducible refine retireColumn_keeps hm ?_
    | with_reducible refine retireMacro_keeps u1 ?_

theorem execUnitRetired_keeps {u : UnitId} {cause : Nat} {s : State} (hm : 14297489090008 &&& κ = 14297489090008)  (hs : (Keeps κ s₀) s) : OutInv (Keeps κ s₀) (execUnitRetired u cause s) := by
  have u0 : 4326616 &&& κ = 4326616 := sub_mask (by decide) hm
  have u1 : 14297484894664 &&& κ = 14297484894664 := sub_mask (by decide) hm
  unfold execUnitRetired
  repeat' first
    | with_reducible assumption
    | with_reducible intro _
    | with_reducible apply out_next
    | split
    | with_reducible refine drainAll_keeps u0 ?_
    | with_reducible refine retireAny_keeps u1 ?_

theorem execColumnSpared_keeps {cluster : Nat} {tile : Nat} {col : Nat} {cause : Nat} {s : State} (hm : 14297489090008 &&& κ = 14297489090008)  (hs : (Keeps κ s₀) s) : OutInv (Keeps κ s₀) (execColumnSpared cluster tile col cause s) := by
  have u0 : 4326616 &&& κ = 4326616 := sub_mask (by decide) hm
  have u1 : 14297484894664 &&& κ = 14297484894664 := sub_mask (by decide) hm
  unfold execColumnSpared
  repeat' first
    | with_reducible assumption
    | with_reducible intro _
    | with_reducible apply out_next
    | split
    | with_reducible refine drainAll_keeps u0 ?_
    | with_reducible refine retireColumn_keeps u1 ?_

theorem unitHang_keeps {u : UnitId} {s : State} (hm : 14297484894664 &&& κ = 14297484894664)  (hs : (Keeps κ s₀) s) : (Keeps κ s₀) (unitHang u s) := by
  have u0 : 2684485704 &&& κ = 2684485704 := sub_mask (by decide) hm
  unfold unitHang
  repeat' first
    | with_reducible assumption
    | with_reducible intro _
    | with_reducible refine inv_ite ?_ ?_
    | split
    | with_reducible refine raise_keeps u0 ?_
    | with_reducible refine retireAny_keeps hm ?_

theorem execUnitHang_keeps {u : UnitId} {s : State} (hm : 14297489090008 &&& κ = 14297489090008)  (hs : (Keeps κ s₀) s) : OutInv (Keeps κ s₀) (execUnitHang u s) := by
  have u0 : 4326616 &&& κ = 4326616 := sub_mask (by decide) hm
  have u1 : 14297484894664 &&& κ = 14297484894664 := sub_mask (by decide) hm
  unfold execUnitHang
  repeat' first
    | with_reducible assumption
    | with_reducible intro _
    | with_reducible apply out_next
    | split
    | with_reducible refine drainAll_keeps u0 ?_
    | with_reducible refine unitHang_keeps u1 ?_

theorem noteCorrected_keeps {key : Nat} {s : State} (hm : 137438953472 &&& κ = 137438953472)  (hs : (Keeps κ s₀) s) : (Keeps κ s₀) (noteCorrected key s).2 := by
  unfold noteCorrected
  repeat' first
    | with_reducible assumption
    | with_reducible intro _
    | split
    | (dsimp only)
    | with_reducible refine upd_unitCorrected hm ?_

theorem accParity_keeps {cl : Nat} {row : Nat} {col : Nat} {s : State} (hm : 14984679662024 &&& κ = 14984679662024)  (hs : (Keeps κ s₀) s) : (Keeps κ s₀) (accParity cl row col s) := by
  have u0 : 549755813888 &&& κ = 549755813888 := sub_mask (by decide) hm
  have u1 : 64 &&& κ = 64 := sub_mask (by decide) hm
  have u2 : 192 &&& κ = 192 := sub_mask (by decide) hm
  have u3 : 67108864 &&& κ = 67108864 := sub_mask (by decide) hm
  have u4 : 14297484894664 &&& κ = 14297484894664 := sub_mask (by decide) hm
  have u5 : 137438953472 &&& κ = 137438953472 := sub_mask (by decide) hm
  unfold accParity
  repeat' first
    | with_reducible assumption
    | with_reducible intro _
    | with_reducible refine inv_ite ?_ ?_
    | split
    | with_reducible refine bumpSat_keeps u1 ?_
    | with_reducible refine bumpWrap_keeps u1 ?_
    | with_reducible refine blkFault_keeps u2 ?_
    | with_reducible refine streamAgain_keeps u3 ?_
    | with_reducible refine retireColumn_keeps u4 ?_
    | with_reducible refine noteCorrected_keeps u5 ?_
    | refine inv_snd (by with_reducible assumption) ?_
    | (dsimp only)
    | with_reducible refine upd_parityCells u0 ?_

theorem execAccParityError_keeps {cluster : Nat} {row : Nat} {col : Nat} {s : State} (hm : 14984683857368 &&& κ = 14984683857368)  (hs : (Keeps κ s₀) s) : OutInv (Keeps κ s₀) (execAccParityError cluster row col s) := by
  have u0 : 4326616 &&& κ = 4326616 := sub_mask (by decide) hm
  have u1 : 14984679662024 &&& κ = 14984679662024 := sub_mask (by decide) hm
  unfold execAccParityError
  repeat' first
    | with_reducible assumption
    | with_reducible intro _
    | with_reducible apply out_next
    | split
    | with_reducible refine drainAll_keeps u0 ?_
    | with_reducible refine accParity_keeps u1 ?_

theorem coreLeaves_keeps {k : Nat} {s : State} (hm : 2147483648 &&& κ = 2147483648)  (hs : (Keeps κ s₀) s) : (Keeps κ s₀) (coreLeaves k s) := by
  unfold coreLeaves
  repeat' first
    | with_reducible assumption
    | with_reducible intro _
    | split
    | (dsimp only)
    | with_reducible refine upd_chn hm ?_

theorem coreReturns_keeps {k : Nat} {s : State} (hm : 2147483840 &&& κ = 2147483840)  (hs : (Keeps κ s₀) s) : (Keeps κ s₀) (coreReturns k s) := by
  have u0 : 2147483648 &&& κ = 2147483648 := sub_mask (by decide) hm
  have u1 : 192 &&& κ = 192 := sub_mask (by decide) hm
  unfold coreReturns
  repeat' first
    | with_reducible assumption
    | with_reducible intro _
    | with_reducible refine inv_ite ?_ ?_
    | split
    | with_reducible refine blkFault_keeps u1 ?_
    | (dsimp only)
    | with_reducible refine upd_chn u0 ?_

theorem unitSleep_keeps {u : UnitId} {s : State} (hm : 1102799962432 &&& κ = 1102799962432)  (hs : (Keeps κ s₀) s) : (Keeps κ s₀) (unitSleep u s) := by
  have u0 : 1073741824 &&& κ = 1073741824 := sub_mask (by decide) hm
  have u1 : 320 &&& κ = 320 := sub_mask (by decide) hm
  have u2 : 1099578736704 &&& κ = 1099578736704 := sub_mask (by decide) hm
  have u3 : 2147483648 &&& κ = 2147483648 := sub_mask (by decide) hm
  unfold unitSleep
  repeat' first
    | with_reducible assumption
    | with_reducible intro _
    | with_reducible refine inv_ite ?_ ?_
    | split
    | with_reducible refine clusterOut_keeps u1 ?_
    | with_reducible refine recompute_keeps u2 ?_
    | with_reducible refine coreLeaves_keeps u3 ?_
    | (dsimp only)
    | with_reducible refine upd_blw u0 ?_

theorem execUnitSleep_keeps {u : UnitId} {s : State} (hm : 1102799962432 &&& κ = 1102799962432)  (hs : (Keeps κ s₀) s) : OutInv (Keeps κ s₀) (execUnitSleep u s) := by
  unfold execUnitSleep
  repeat' first
    | with_reducible assumption
    | with_reducible intro _
    | with_reducible apply out_next
    | split
    | with_reducible refine unitSleep_keeps hm ?_

theorem unitWake_keeps {u : UnitId} {s : State} (hm : 3221225536 &&& κ = 3221225536)  (hs : (Keeps κ s₀) s) : (Keeps κ s₀) (unitWake u s) := by
  have u0 : 3221225472 &&& κ = 3221225472 := sub_mask (by decide) hm
  have u1 : 64 &&& κ = 64 := sub_mask (by decide) hm
  unfold unitWake
  repeat' first
    | with_reducible assumption
    | with_reducible intro _
    | with_reducible refine inv_ite ?_ ?_
    | split
    | with_reducible refine bumpSat_keeps u1 ?_
    | (dsimp only)
    | with_reducible refine upd_blw_chn u0 ?_

theorem execUnitWake_keeps {u : UnitId} {s : State} (hm : 3221225536 &&& κ = 3221225536)  (hs : (Keeps κ s₀) s) : OutInv (Keeps κ s₀) (execUnitWake u s) := by
  unfold execUnitWake
  repeat' first
    | with_reducible assumption
    | with_reducible intro _
    | with_reducible apply out_next
    | split
    | with_reducible refine unitWake_keeps hm ?_

theorem unitReturn_keeps {u : UnitId} {s : State} (hm : 5499772731840 &&& κ = 5499772731840)  (hs : (Keeps κ s₀) s) : (Keeps κ s₀) (unitReturn u s) := by
  have u0 : 2147483648 &&& κ = 2147483648 := sub_mask (by decide) hm
  have u1 : 320 &&& κ = 320 := sub_mask (by decide) hm
  have u2 : 2147483968 &&& κ = 2147483968 := sub_mask (by decide) hm
  have u3 : 4398046511104 &&& κ = 4398046511104 := sub_mask (by decide) hm
  have u4 : 1099578736704 &&& κ = 1099578736704 := sub_mask (by decide) hm
  have u5 : 2147483840 &&& κ = 2147483840 := sub_mask (by decide) hm
  unfold unitReturn
  repeat' first
    | with_reducible assumption
    | with_reducible intro _
    | with_reducible refine inv_ite ?_ ?_
    | split
    | with_reducible refine inv_foldl ?_ ?_
    | with_reducible refine clearBell_keeps u3 ?_
    | with_reducible refine recompute_keeps u4 ?_
    | with_reducible refine coreReturns_keeps u5 ?_
    | (dsimp only)
    | with_reducible refine upd_chn u0 ?_
    | with_reducible refine upd_regs_service u1 ?_

theorem execUnitReturn_keeps {u : UnitId} {s : State} (hm : 5499772731840 &&& κ = 5499772731840)  (hs : (Keeps κ s₀) s) : OutInv (Keeps κ s₀) (execUnitReturn u s) := by
  unfold execUnitReturn
  repeat' first
    | with_reducible assumption
    | with_reducible intro _
    | with_reducible apply out_next
    | split
    | with_reducible refine unitReturn_keeps hm ?_

theorem unitSelfTest_keeps {u : UnitId} {pass : Bool} {s : State} (hm : 14434923848136 &&& κ = 14434923848136)  (hs : (Keeps κ s₀) s) : (Keeps κ s₀) (unitSelfTest u pass s) := by
  have u0 : 3221225472 &&& κ = 3221225472 := sub_mask (by decide) hm
  have u1 : 137438953472 &&& κ = 137438953472 := sub_mask (by decide) hm
  have u2 : 140660178944 &&& κ = 140660178944 := sub_mask (by decide) hm
  have u3 : 67108864 &&& κ = 67108864 := sub_mask (by decide) hm
  have u4 : 320 &&& κ = 320 := sub_mask (by decide) hm
  have u5 : 1099578736704 &&& κ = 1099578736704 := sub_mask (by decide) hm
  have u6 : 14297484894664 &&& κ = 14297484894664 := sub_mask (by decide) hm
  have u7 : 2147483648 &&& κ = 2147483648 := sub_mask (by decide) hm
  unfold unitSelfTest
  repeat' first
    | with_reducible assumption
    | with_reducible intro _
    | with_reducible refine inv_ite ?_ ?_
    | split
    | with_reducible refine ringsMod_keeps u3 ?_
    | with_reducible refine clusterOut_keeps u4 ?_
    | with_reducible refine recompute_keeps u5 ?_
    | with_reducible refine retireAny_keeps u6 ?_
    | with_reducible refine coreLeaves_keeps u7 ?_
    | (dsimp only)
    | with_reducible refine upd_blw_chn u0 ?_
    | with_reducible refine upd_unitCorrected u1 ?_
    | with_reducible refine upd_blw_chn_unitCorrected u2 ?_

theorem execUnitSelfTest_keeps {u : UnitId} {pass : Bool} {s : State} (hm : 14434928043480 &&& κ = 14434928043480)  (hs : (Keeps κ s₀) s) : OutInv (Keeps κ s₀) (execUnitSelfTest u pass s) := by
  have u0 : 4326616 &&& κ = 4326616 := sub_mask (by decide) hm
  have u1 : 14434923848136 &&& κ = 14434923848136 := sub_mask (by decide) hm
  unfold execUnitSelfTest
  repeat' first
    | with_reducible assumption
    | with_reducible intro _
    | with_reducible apply out_next
    | split
    | with_reducible refine drainAll_keeps u0 ?_
    | with_reducible refine unitSelfTest_keeps u1 ?_

theorem mapSaved_keeps {ok : Bool} {s : State} (hm : 2147483840 &&& κ = 2147483840)  (hs : (Keeps κ s₀) s) : (Keeps κ s₀) (mapSaved ok s) := by
  have u0 : 2147483648 &&& κ = 2147483648 := sub_mask (by decide) hm
  have u1 : 192 &&& κ = 192 := sub_mask (by decide) hm
  unfold mapSaved
  repeat' first
    | with_reducible assumption
    | with_reducible intro _
    | with_reducible refine inv_ite ?_ ?_
    | split
    | with_reducible refine blkFault_keeps u1 ?_
    | (dsimp only)
    | with_reducible refine upd_chn u0 ?_

theorem execMapSaveDone_keeps {ok : Bool} {s : State} (hm : 2147483840 &&& κ = 2147483840)  (hs : (Keeps κ s₀) s) : OutInv (Keeps κ s₀) (execMapSaveDone ok s) := by
  unfold execMapSaveDone
  repeat' first
    | with_reducible assumption
    | with_reducible intro _
    | with_reducible apply out_next
    | split
    | with_reducible refine mapSaved_keeps hm ?_

end Sys2Proof.Machine
end

