-- ==== Sys2Proof/Laws/FramesDrone.lean ====
section
/-! SUPPORT. The parts of the state that the functions of Machine/Drone.lean may write. -/

namespace Sys2Proof.Machine

variable {κ : Nat} {s₀ : State}

theorem loseEntry_keeps {h : Nat} {slot : Nat} {media : Nat} {s : State} (hm : 2963406920 &&& κ = 2963406920)  (hs : (Keeps κ s₀) s) : (Keeps κ s₀) (loseEntry h slot media s) := by
  have u0 : 8388608 &&& κ = 8388608 := sub_mask (by decide) hm
  have u1 : 813694984 &&& κ = 813694984 := sub_mask (by decide) hm
  have u3 : 64 &&& κ = 64 := sub_mask (by decide) hm
  unfold loseEntry
  repeat' first
    | with_reducible assumption
    | with_reducible intro _
    | split
    | with_reducible refine collMod_keeps u0 ?_
    | with_reducible refine journalPut_keeps u1 ?_
    | with_reducible refine deferAll_keeps hm ?_
    | with_reducible refine countLost_keeps u3 ?_

theorem repairFound_keeps {p : Poison} {s : State} (hm : 20143276232 &&& κ = 20143276232)  (hs : (Keeps κ s₀) s) : (Keeps κ s₀) (repairFound p s) := by
  have u0 : 17179869184 &&& κ = 17179869184 := sub_mask (by decide) hm
  have u1 : 192 &&& κ = 192 := sub_mask (by decide) hm
  have u2 : 2963406920 &&& κ = 2963406920 := sub_mask (by decide) hm
  unfold repairFound
  repeat' first
    | with_reducible assumption
    | with_reducible intro _
    | with_reducible refine inv_ite ?_ ?_
    | split
    | with_reducible refine blkFault_keeps u1 ?_
    | with_reducible refine loseEntry_keeps u2 ?_
    | (dsimp only)
    | with_reducible refine upd_poison u0 ?_

theorem repairAll_keeps {h : Nat} {op : Nat} {cut : Nat} {key : Option Nat} {move : Option Move} {s : State} (hm : 20143276232 &&& κ = 20143276232)  (hs : (Keeps κ s₀) s) : (Keeps κ s₀) (repairAll h op cut key move s) := by
  unfold repairAll
  repeat' first
    | with_reducible assumption
    | with_reducible intro _
    | split
    | with_reducible refine inv_foldl ?_ ?_
    | with_reducible refine repairFound_keeps hm ?_

theorem raiseDrone_keeps {code : Nat} {sev : Nat} {h : Nat} {i0 : Nat} {i1 : Nat} {i2 : Nat} {s : State} (hm : 2684485704 &&& κ = 2684485704)  (hs : (Keeps κ s₀) s) : (Keeps κ s₀) (raiseDrone code sev h i0 i1 i2 s) := by
  unfold raiseDrone
  repeat' first
    | with_reducible assumption
    | with_reducible intro _
    | split
    | with_reducible refine raise_keeps hm ?_

theorem maintStalled_keeps {h : Nat} {reason : Nat} {s : State} (hm : 2684485832 &&& κ = 2684485832)  (hs : (Keeps κ s₀) s) : (Keeps κ s₀) (maintStalled h reason s) := by
  have u0 : 64 &&& κ = 64 := sub_mask (by decide) hm
  have u1 : 192 &&& κ = 192 := sub_mask (by decide) hm
  have u2 : 2684485704 &&& κ = 2684485704 := sub_mask (by decide) hm
  unfold maintStalled
  repeat' first
    | with_reducible assumption
    | with_reducible intro _
    | with_reducible refine inv_ite ?_ ?_
    | split
    | with_reducible refine bumpSat_keeps u0 ?_
    | with_reducible refine blkFault_keeps u1 ?_
    | with_reducible refine raiseDrone_keeps u2 ?_

theorem raiseTierLow_keeps {bulk : Bool} {coll : Nat} {s : State} (hm : 2684485704 &&& κ = 2684485704)  (hs : (Keeps κ s₀) s) : (Keeps κ s₀) (raiseTierLow bulk coll s) := by
  unfold raiseTierLow
  repeat' first
    | with_reducible assumption
    | with_reducible intro _
    | with_reducible refine inv_ite ?_ ?_
    | split
    | with_reducible refine raise_keeps hm ?_

theorem tierLowCheck_keeps {s : State} (hm : 277562392648 &&& κ = 277562392648)  (hs : (Keeps κ s₀) s) : (Keeps κ s₀) (tierLowCheck s) := by
  have u0 : 274877906944 &&& κ = 274877906944 := sub_mask (by decide) hm
  have u1 : 2684485704 &&& κ = 2684485704 := sub_mask (by decide) hm
  unfold tierLowCheck
  repeat' first
    | with_reducible assumption
    | with_reducible intro _
    | with_reducible refine inv_ite ?_ ?_
    | split
    | with_reducible refine inv_foldl ?_ ?_
    | with_reducible refine raiseTierLow_keeps u1 ?_
    | (dsimp only)
    | with_reducible refine upd_tierLow u0 ?_

theorem beginCheckpoint_keeps {cut : Nat} {s : State} (hm : 268435456 &&& κ = 268435456)  (hs : (Keeps κ s₀) s) : (Keeps κ s₀) (beginCheckpoint cut s) := by
  unfold beginCheckpoint
  repeat' first
    | with_reducible assumption
    | with_reducible intro _
    | with_reducible refine inv_ite ?_ ?_
    | split
    | (dsimp only)
    | with_reducible refine upd_bag hm ?_

theorem syncEntrySet_keeps {h : Nat} {s : State} (hm : 33554432 &&& κ = 33554432)  (hs : (Keeps κ s₀) s) : (Keeps κ s₀) (syncEntrySet h s) := by
  unfold syncEntrySet
  repeat' first
    | with_reducible assumption
    | with_reducible intro _
    | split
    | (dsimp only)
    | with_reducible refine upd_tables hm ?_

theorem takeEffect_keeps {h : Nat} {op : Nat} {cut : Nat} {seq : Nat} {r : Arranged} {s : State} (hm : 109051904 &&& κ = 109051904)  (hs : (Keeps κ s₀) s) : (Keeps κ s₀) (takeEffect h op cut seq r s) := by
  have u0 : 8388608 &&& κ = 8388608 := sub_mask (by decide) hm
  have u1 : 67108864 &&& κ = 67108864 := sub_mask (by decide) hm
  have u2 : 33554432 &&& κ = 33554432 := sub_mask (by decide) hm
  unfold takeEffect
  repeat' first
    | with_reducible assumption
    | with_reducible intro _
    | with_reducible refine inv_ite ?_ ?_
    | split
    | with_reducible refine inv_foldl ?_ ?_
    | with_reducible refine collMod_keeps u0 ?_
    | with_reducible refine freeStep_keeps u1 ?_
    | with_reducible refine syncEntrySet_keeps u2 ?_

theorem stallOp_keeps {h : Nat} {move : Option Move} {by_ : Option Nat} {s : State} (hm : 13196899524808 &&& κ = 13196899524808)  (hs : (Keeps κ s₀) s) : (Keeps κ s₀) (stallOp h move by_ s) := by
  have u0 : 13196354134208 &&& κ = 13196354134208 := sub_mask (by decide) hm
  have u1 : 75497472 &&& κ = 75497472 := sub_mask (by decide) hm
  have u2 : 2684485832 &&& κ = 2684485832 := sub_mask (by decide) hm
  have u3 : 2684485704 &&& κ = 2684485704 := sub_mask (by decide) hm
  unfold stallOp
  repeat' first
    | with_reducible assumption
    | with_reducible intro _
    | with_reducible refine inv_ite ?_ ?_
    | split
    | with_reducible refine failCmd_keeps u0 ?_
    | with_reducible refine endRun_keeps u1 ?_
    | with_reducible refine maintStalled_keeps u2 ?_
    | with_reducible refine raiseTierLow_keeps u3 ?_

theorem commitOp_keeps {h : Nat} {op : Nat} {cut : Nat} {key : Option Nat} {move : Option Move} {by_ : Option Cmd} {r : Arranged} {s : State} (hm : 277939888200 &&& κ = 277939888200)  (hs : (Keeps κ s₀) s) : (Keeps κ s₀) (commitOp h op cut key move by_ r s) := by
  have u0 : 64 &&& κ = 64 := sub_mask (by decide) hm
  have u1 : 8192 &&& κ = 8192 := sub_mask (by decide) hm
  have u2 : 813694984 &&& κ = 813694984 := sub_mask (by decide) hm
  have u3 : 2147483648 &&& κ = 2147483648 := sub_mask (by decide) hm
  have u4 : 2684485704 &&& κ = 2684485704 := sub_mask (by decide) hm
  have u5 : 277562392648 &&& κ = 277562392648 := sub_mask (by decide) hm
  have u6 : 268435456 &&& κ = 268435456 := sub_mask (by decide) hm
  have u7 : 109051904 &&& κ = 109051904 := sub_mask (by decide) hm
  unfold commitOp
  repeat' first
    | with_reducible assumption
    | with_reducible intro _
    | with_reducible refine inv_ite ?_ ?_
    | split
    | with_reducible refine bumpSat_keeps u0 ?_
    | with_reducible refine bumpWrap_keeps u0 ?_
    | with_reducible refine cmdMod_keeps u1 ?_
    | with_reducible refine journalPut_keeps u2 ?_
    | with_reducible refine beginBarrier_keeps u3 ?_
    | with_reducible refine raiseDrone_keeps u4 ?_
    | with_reducible refine tierLowCheck_keeps u5 ?_
    | with_reducible refine beginCheckpoint_keeps u6 ?_
    | with_reducible refine takeEffect_keeps u7 ?_

theorem runOp_keeps {h : Nat} {op : Nat} {cut : Nat} {key : Option Nat} {move : Option Move} {by_ : Option Nat} {s : State} (hm : 13489261387976 &&& κ = 13489261387976)  (hs : (Keeps κ s₀) s) : (Keeps κ s₀) (runOp h op cut key move by_ s) := by
  have u0 : 20143276232 &&& κ = 20143276232 := sub_mask (by decide) hm
  have u1 : 13196899524808 &&& κ = 13196899524808 := sub_mask (by decide) hm
  have u2 : 277939888200 &&& κ = 277939888200 := sub_mask (by decide) hm
  unfold runOp
  repeat' first
    | with_reducible assumption
    | with_reducible intro _
    | with_reducible refine inv_ite ?_ ?_
    | split
    | with_reducible refine repairAll_keeps u0 ?_
    | with_reducible refine stallOp_keeps u1 ?_
    | with_reducible refine commitOp_keeps u2 ?_
    | (dsimp only)

theorem foldCommit_keeps {h : Nat} {s : State} (hm : 13489261387976 &&& κ = 13489261387976)  (hs : (Keeps κ s₀) s) : (Keeps κ s₀) (foldCommit h s) := by
  unfold foldCommit
  repeat' first
    | with_reducible assumption
    | with_reducible intro _
    | with_reducible refine inv_ite ?_ ?_
    | split
    | with_reducible refine runOp_keeps hm ?_

theorem execFoldCommit_keeps {h : Nat} {s : State} (hm : 13489265583320 &&& κ = 13489265583320)  (hs : (Keeps κ s₀) s) : OutInv (Keeps κ s₀) (execFoldCommit h s) := by
  have u0 : 4326616 &&& κ = 4326616 := sub_mask (by decide) hm
  have u1 : 13489261387976 &&& κ = 13489261387976 := sub_mask (by decide) hm
  unfold execFoldCommit
  repeat' first
    | with_reducible assumption
    | with_reducible intro _
    | with_reducible apply out_next
    | split
    | with_reducible refine drainAll_keeps u0 ?_
    | with_reducible refine foldCommit_keeps u1 ?_

theorem startRun_keeps {h : Nat} {op : DroneOp} {key : Option Nat} {move : Option Move} {by_ : Option Nat} {s : State} (hm : 75497472 &&& κ = 75497472)  (hs : (Keeps κ s₀) s) : (Keeps κ s₀) (startRun h op key move by_ s) := by
  have u0 : 8388608 &&& κ = 8388608 := sub_mask (by decide) hm
  have u1 : 67108864 &&& κ = 67108864 := sub_mask (by decide) hm
  unfold startRun
  repeat' first
    | with_reducible assumption
    | with_reducible intro _
    | split
    | with_reducible refine collMod_keeps u0 ?_
    | with_reducible refine droneRing_keeps u1 ?_

theorem nothingToDo_keeps {x : Cmd} {c : Coll} {s : State} (hm : 13196354134016 &&& κ = 13196354134016)  (hs : (Keeps κ s₀) s) : (Keeps κ s₀) (nothingToDo x c s) := by
  unfold nothingToDo
  repeat' first
    | with_reducible assumption
    | with_reducible intro _
    | split
    | with_reducible refine finish_keeps hm ?_

theorem startFold_keeps {h : Nat} {c : Coll} {s : State} (hm : 277637890120 &&& κ = 277637890120)  (hs : (Keeps κ s₀) s) : (Keeps κ s₀) (startFold h c s) := by
  have u0 : 8388608 &&& κ = 8388608 := sub_mask (by decide) hm
  have u1 : 277562392648 &&& κ = 277562392648 := sub_mask (by decide) hm
  have u2 : 75497472 &&& κ = 75497472 := sub_mask (by decide) hm
  unfold startFold
  repeat' first
    | with_reducible assumption
    | with_reducible intro _
    | with_reducible refine inv_ite ?_ ?_
    | split
    | with_reducible refine collMod_keeps u0 ?_
    | with_reducible refine tierLowCheck_keeps u1 ?_
    | with_reducible refine startRun_keeps u2 ?_

theorem foldStart_keeps {h : Nat} {s : State} (hm : 13471777431624 &&& κ = 13471777431624)  (hs : (Keeps κ s₀) s) : (Keeps κ s₀) (foldStart h s) := by
  have u0 : 75497472 &&& κ = 75497472 := sub_mask (by decide) hm
  have u1 : 13196354134016 &&& κ = 13196354134016 := sub_mask (by decide) hm
  have u2 : 277637890120 &&& κ = 277637890120 := sub_mask (by decide) hm
  unfold foldStart
  repeat' first
    | with_reducible assumption
    | with_reducible intro _
    | with_reducible refine inv_ite ?_ ?_
    | split
    | with_reducible refine startRun_keeps u0 ?_
    | with_reducible refine nothingToDo_keeps u1 ?_
    | with_reducible refine startFold_keeps u2 ?_

theorem execFoldStart_keeps {h : Nat} {s : State} (hm : 13471781627096 &&& κ = 13471781627096)  (hs : (Keeps κ s₀) s) : OutInv (Keeps κ s₀) (execFoldStart h s) := by
  have u0 : 4326616 &&& κ = 4326616 := sub_mask (by decide) hm
  have u1 : 13471777431624 &&& κ = 13471777431624 := sub_mask (by decide) hm
  unfold execFoldStart
  repeat' first
    | with_reducible assumption
    | with_reducible intro _
    | with_reducible apply out_next
    | split
    | with_reducible refine drainAll_keeps u0 ?_
    | with_reducible refine foldStart_keeps u1 ?_

theorem foldAge_keeps {h : Nat} {s : State} (hm : 277637890120 &&& κ = 277637890120)  (hs : (Keeps κ s₀) s) : (Keeps κ s₀) (foldAge h s) := by
  unfold foldAge
  repeat' first
    | with_reducible assumption
    | with_reducible intro _
    | with_reducible refine inv_ite ?_ ?_
    | split
    | with_reducible refine startFold_keeps hm ?_

theorem execFoldAgeExpiry_keeps {h : Nat} {s : State} (hm : 277642085592 &&& κ = 277642085592)  (hs : (Keeps κ s₀) s) : OutInv (Keeps κ s₀) (execFoldAgeExpiry h s) := by
  have u0 : 4326616 &&& κ = 4326616 := sub_mask (by decide) hm
  have u1 : 277637890120 &&& κ = 277637890120 := sub_mask (by decide) hm
  unfold execFoldAgeExpiry
  repeat' first
    | with_reducible assumption
    | with_reducible intro _
    | with_reducible apply out_next
    | split
    | with_reducible refine drainAll_keeps u0 ?_
    | with_reducible refine foldAge_keeps u1 ?_

theorem compactionTrigger_keeps {h : Nat} {key : Nat} {s : State} (hm : 13196362522624 &&& κ = 13196362522624)  (hs : (Keeps κ s₀) s) : (Keeps κ s₀) (compactionTrigger h key s) := by
  have u0 : 75497472 &&& κ = 75497472 := sub_mask (by decide) hm
  have u1 : 13196354134016 &&& κ = 13196354134016 := sub_mask (by decide) hm
  unfold compactionTrigger
  repeat' first
    | with_reducible assumption
    | with_reducible intro _
    | with_reducible refine inv_ite ?_ ?_
    | split
    | with_reducible refine startRun_keeps u0 ?_
    | with_reducible refine nothingToDo_keeps u1 ?_

theorem execCompactionTrigger_keeps {h : Nat} {key : Nat} {s : State} (hm : 13196366849240 &&& κ = 13196366849240)  (hs : (Keeps κ s₀) s) : OutInv (Keeps κ s₀) (execCompactionTrigger h key s) := by
  have u0 : 4326616 &&& κ = 4326616 := sub_mask (by decide) hm
  have u1 : 13196362522624 &&& κ = 13196362522624 := sub_mask (by decide) hm
  unfold execCompactionTrigger
  repeat' first
    | with_reducible assumption
    | with_reducible intro _
    | with_reducible apply out_next
    | split
    | with_reducible refine drainAll_keeps u0 ?_
    | with_reducible refine compactionTrigger_keeps u1 ?_

theorem settlement_keeps {h : Nat} {s : State} (hm : 13489261387976 &&& κ = 13489261387976)  (hs : (Keeps κ s₀) s) : (Keeps κ s₀) (settlement h s) := by
  unfold settlement
  repeat' first
    | with_reducible assumption
    | with_reducible intro _
    | with_reducible refine inv_ite ?_ ?_
    | split
    | with_reducible refine runOp_keeps hm ?_

theorem execTombstoneSettlement_keeps {h : Nat} {s : State} (hm : 13489265583320 &&& κ = 13489265583320)  (hs : (Keeps κ s₀) s) : OutInv (Keeps κ s₀) (execTombstoneSettlement h s) := by
  have u0 : 4326616 &&& κ = 4326616 := sub_mask (by decide) hm
  have u1 : 13489261387976 &&& κ = 13489261387976 := sub_mask (by decide) hm
  unfold execTombstoneSettlement
  repeat' first
    | with_reducible assumption
    | with_reducible intro _
    | with_reducible apply out_next
    | split
    | with_reducible refine drainAll_keeps u0 ?_
    | with_reducible refine settlement_keeps u1 ?_

theorem reencodeStep_keeps {h : Nat} {s : State} (hm : 75497472 &&& κ = 75497472)  (hs : (Keeps κ s₀) s) : (Keeps κ s₀) (reencodeStep h s) := by
  unfold reencodeStep
  repeat' first
    | with_reducible assumption
    | with_reducible intro _
    | with_reducible refine inv_ite ?_ ?_
    | split
    | with_reducible refine startRun_keeps hm ?_

theorem execReencodeStep_keeps {h : Nat} {s : State} (hm : 79824088 &&& κ = 79824088)  (hs : (Keeps κ s₀) s) : OutInv (Keeps κ s₀) (execReencodeStep h s) := by
  have u0 : 4326616 &&& κ = 4326616 := sub_mask (by decide) hm
  have u1 : 75497472 &&& κ = 75497472 := sub_mask (by decide) hm
  unfold execReencodeStep
  repeat' first
    | with_reducible assumption
    | with_reducible intro _
    | with_reducible apply out_next
    | split
    | with_reducible refine drainAll_keeps u0 ?_
    | with_reducible refine reencodeStep_keeps u1 ?_

theorem repartition_keeps {h : Nat} {s : State} (hm : 75497472 &&& κ = 75497472)  (hs : (Keeps κ s₀) s) : (Keeps κ s₀) (repartition h s) := by
  have u0 : 8388608 &&& κ = 8388608 := sub_mask (by decide) hm
  unfold repartition
  repeat' first
    | with_reducible assumption
    | with_reducible intro _
    | with_reducible refine inv_ite ?_ ?_
    | split
    | with_reducible refine collMod_keeps u0 ?_
    | with_reducible refine startRun_keeps hm ?_

theorem execRepartition_keeps {h : Nat} {s : State} (hm : 79824088 &&& κ = 79824088)  (hs : (Keeps κ s₀) s) : OutInv (Keeps κ s₀) (execRepartition h s) := by
  have u0 : 4326616 &&& κ = 4326616 := sub_mask (by decide) hm
  have u1 : 75497472 &&& κ = 75497472 := sub_mask (by decide) hm
  unfold execRepartition
  repeat' first
    | with_reducible assumption
    | with_reducible intro _
    | with_reducible apply out_next
    | split
    | with_reducible refine drainAll_keeps u0 ?_
    | with_reducible refine repartition_keeps u1 ?_

theorem indexBuild_keeps {h : Nat} {s : State} (hm : 75497472 &&& κ = 75497472)  (hs : (Keeps κ s₀) s) : (Keeps κ s₀) (indexBuild h s) := by
  unfold indexBuild
  repeat' first
    | with_reducible assumption
    | with_reducible intro _
    | with_reducible refine inv_ite ?_ ?_
    | split
    | with_reducible refine startRun_keeps hm ?_

theorem execIndexBuild_keeps {h : Nat} {s : State} (hm : 79824088 &&& κ = 79824088)  (hs : (Keeps κ s₀) s) : OutInv (Keeps κ s₀) (execIndexBuild h s) := by
  have u0 : 4326616 &&& κ = 4326616 := sub_mask (by decide) hm
  have u1 : 75497472 &&& κ = 75497472 := sub_mask (by decide) hm
  unfold execIndexBuild
  repeat' first
    | with_reducible assumption
    | with_reducible intro _
    | with_reducible apply out_next
    | split
    | with_reducible refine drainAll_keeps u0 ?_
    | with_reducible refine indexBuild_keeps u1 ?_

theorem reencodeDone_keeps {h : Nat} {s : State} (hm : 2963406920 &&& κ = 2963406920)  (hs : (Keeps κ s₀) s) : (Keeps κ s₀) (reencodeDone h s) := by
  have u0 : 64 &&& κ = 64 := sub_mask (by decide) hm
  have u1 : 8388608 &&& κ = 8388608 := sub_mask (by decide) hm
  have u2 : 813694984 &&& κ = 813694984 := sub_mask (by decide) hm
  have u3 : 2147483648 &&& κ = 2147483648 := sub_mask (by decide) hm
  have u5 : 2684485704 &&& κ = 2684485704 := sub_mask (by decide) hm
  unfold reencodeDone
  repeat' first
    | with_reducible assumption
    | with_reducible intro _
    | with_reducible refine inv_ite ?_ ?_
    | split
    | with_reducible refine inv_foldl ?_ ?_
    | with_reducible refine bumpSat_keeps u0 ?_
    | with_reducible refine collMod_keeps u1 ?_
    | with_reducible refine journalOwn_keeps u2 ?_
    | with_reducible refine beginBarrier_keeps u3 ?_
    | with_reducible refine loseEntry_keeps hm ?_
    | with_reducible refine raiseDrone_keeps u5 ?_

theorem execReencodeDone_keeps {h : Nat} {s : State} (hm : 2967602392 &&& κ = 2967602392)  (hs : (Keeps κ s₀) s) : OutInv (Keeps κ s₀) (execReencodeDone h s) := by
  have u0 : 4326616 &&& κ = 4326616 := sub_mask (by decide) hm
  have u1 : 2963406920 &&& κ = 2963406920 := sub_mask (by decide) hm
  unfold execReencodeDone
  repeat' first
    | with_reducible assumption
    | with_reducible intro _
    | with_reducible apply out_next
    | split
    | with_reducible refine drainAll_keeps u0 ?_
    | with_reducible refine reencodeDone_keeps u1 ?_

theorem slotRelease_keeps {h : Nat} {s : State} (hm : 17993564168 &&& κ = 17993564168)  (hs : (Keeps κ s₀) s) : (Keeps κ s₀) (slotRelease h s) := by
  have u0 : 17179869184 &&& κ = 17179869184 := sub_mask (by decide) hm
  have u1 : 8388608 &&& κ = 8388608 := sub_mask (by decide) hm
  have u2 : 813694984 &&& κ = 813694984 := sub_mask (by decide) hm
  unfold slotRelease
  repeat' first
    | with_reducible assumption
    | with_reducible intro _
    | with_reducible refine inv_ite ?_ ?_
    | split
    | with_reducible refine collMod_keeps u1 ?_
    | with_reducible refine journalOwn_keeps u2 ?_
    | refine inv_snd (by with_reducible assumption) ?_
    | (dsimp only)
    | with_reducible refine upd_poison u0 ?_

theorem execSlotRelease_keeps {h : Nat} {s : State} (hm : 17997890776 &&& κ = 17997890776)  (hs : (Keeps κ s₀) s) : OutInv (Keeps κ s₀) (execSlotRelease h s) := by
  have u0 : 4326616 &&& κ = 4326616 := sub_mask (by decide) hm
  have u1 : 17993564168 &&& κ = 17993564168 := sub_mask (by decide) hm
  unfold execSlotRelease
  repeat' first
    | with_reducible assumption
    | with_reducible intro _
    | with_reducible apply out_next
    | split
    | with_reducible refine drainAll_keeps u0 ?_
    | with_reducible refine slotRelease_keeps u1 ?_

theorem patchApply_keeps {h : Nat} {s : State} (hm : 8388608 &&& κ = 8388608)  (hs : (Keeps κ s₀) s) : (Keeps κ s₀) (patchApply h s) := by
  unfold patchApply
  repeat' first
    | with_reducible assumption
    | with_reducible intro _
    | with_reducible refine inv_ite ?_ ?_
    | split
    | with_reducible refine collMod_keeps hm ?_

theorem execPatchApply_keeps {h : Nat} {s : State} (hm : 8388608 &&& κ = 8388608)  (hs : (Keeps κ s₀) s) : OutInv (Keeps κ s₀) (execPatchApply h s) := by
  unfold execPatchApply
  repeat' first
    | with_reducible assumption
    | with_reducible intro _
    | with_reducible apply out_next
    | split
    | with_reducible refine patchApply_keeps hm ?_

theorem autoEvaluation_keeps {s : State} (hm : 277570781256 &&& κ = 277570781256)  (hs : (Keeps κ s₀) s) : (Keeps κ s₀) (autoEvaluation s) := by
  have u0 : 8388608 &&& κ = 8388608 := sub_mask (by decide) hm
  have u1 : 277562392648 &&& κ = 277562392648 := sub_mask (by decide) hm
  unfold autoEvaluation
  repeat' first
    | with_reducible assumption
    | with_reducible intro _
    | with_reducible refine inv_ite ?_ ?_
    | split
    | with_reducible refine tierLowCheck_keeps u1 ?_
    | (dsimp only)
    | with_reducible refine upd_colls u0 ?_

theorem execAutoEvaluation_keeps {s : State} (hm : 277574976728 &&& κ = 277574976728)  (hs : (Keeps κ s₀) s) : OutInv (Keeps κ s₀) (execAutoEvaluation s) := by
  have u0 : 4326616 &&& κ = 4326616 := sub_mask (by decide) hm
  have u1 : 277570781256 &&& κ = 277570781256 := sub_mask (by decide) hm
  unfold execAutoEvaluation
  repeat' first
    | with_reducible assumption
    | with_reducible intro _
    | with_reducible apply out_next
    | split
    | with_reducible refine drainAll_keeps u0 ?_
    | with_reducible refine autoEvaluation_keeps u1 ?_

end Sys2Proof.Machine
end

