-- ==== Sys2Proof/Laws/FramesBag.lean ====
section
/-! SUPPORT. The parts of the state that the functions of Machine/Bag.lean may write. -/

namespace Sys2Proof.Machine

variable {κ : Nat} {s₀ : State}

theorem bagMod_keeps {f : Bag → Bag} {s : State} (hm : 268435456 &&& κ = 268435456)  (hs : (Keeps κ s₀) s) : (Keeps κ s₀) (bagMod f s) := by
  unfold bagMod
  repeat' first
    | with_reducible assumption
    | with_reducible intro _
    | split
    | (dsimp only)
    | with_reducible refine upd_bag hm ?_

theorem raiseWear_keeps {ch : Nat} {pct : Nat} {s : State} (hm : 2684485832 &&& κ = 2684485832)  (hs : (Keeps κ s₀) s) : (Keeps κ s₀) (raiseWear ch pct s) := by
  unfold raiseWear
  repeat' first
    | with_reducible assumption
    | with_reducible intro _
    | split
    | with_reducible refine raiseFault_keeps hm ?_

theorem countWritten_keeps {n : Nat} {s : State} (hm : 2684485832 &&& κ = 2684485832)  (hs : (Keeps κ s₀) s) : (Keeps κ s₀) (countWritten n s) := by
  have u0 : 64 &&& κ = 64 := sub_mask (by decide) hm
  unfold countWritten
  repeat' first
    | with_reducible assumption
    | with_reducible intro _
    | with_reducible refine inv_ite ?_ ?_
    | split
    | with_reducible refine inv_foldl ?_ ?_
    | with_reducible refine bumpWrap_keeps u0 ?_
    | with_reducible refine raiseWear_keeps hm ?_

theorem chargeUnits_keeps {stripe : Nat} {n : Nat} {s : State} (hm : 134217728 &&& κ = 134217728)  (hs : (Keeps κ s₀) s) : (Keeps κ s₀) (chargeUnits stripe n s) := by
  unfold chargeUnits
  repeat' first
    | with_reducible assumption
    | with_reducible intro _
    | split
    | with_reducible refine inv_foldl ?_ ?_
    | with_reducible refine setEngine_keeps hm ?_

theorem putStripe_keeps {seqs : List Nat} {s : State} (hm : 402653184 &&& κ = 402653184)  (hs : (Keeps κ s₀) s) : (Keeps κ s₀) (putStripe seqs s) := by
  have u0 : 268435456 &&& κ = 268435456 := sub_mask (by decide) hm
  have u1 : 134217728 &&& κ = 134217728 := sub_mask (by decide) hm
  unfold putStripe
  repeat' first
    | with_reducible assumption
    | with_reducible intro _
    | with_reducible refine inv_ite ?_ ?_
    | split
    | with_reducible refine bagMod_keeps u0 ?_
    | with_reducible refine chargeUnits_keeps u1 ?_

theorem flushGoOn_keeps {x : Cmd} {n : Nat} {s : State} (hm : 13196354134208 &&& κ = 13196354134208)  (hs : (Keeps κ s₀) s) : (Keeps κ s₀) (flushGoOn x n s) := by
  have u0 : 8192 &&& κ = 8192 := sub_mask (by decide) hm
  have u1 : 13196354134016 &&& κ = 13196354134016 := sub_mask (by decide) hm
  unfold flushGoOn
  repeat' first
    | with_reducible assumption
    | with_reducible intro _
    | with_reducible refine inv_ite ?_ ?_
    | split
    | with_reducible refine cmdMod_keeps u0 ?_
    | with_reducible refine setWork_keeps u0 ?_
    | with_reducible refine finish_keeps u1 ?_
    | with_reducible refine failCmd_keeps hm ?_

theorem wakeFlush_keeps {s : State} (hm : 13196354134208 &&& κ = 13196354134208)  (hs : (Keeps κ s₀) s) : (Keeps κ s₀) (wakeFlush s) := by
  unfold wakeFlush
  repeat' first
    | with_reducible assumption
    | with_reducible intro _
    | split
    | with_reducible refine inv_foldl ?_ ?_
    | with_reducible refine flushGoOn_keeps hm ?_

theorem flush_keeps {c : Nat} {s : State} (hm : 13196622569664 &&& κ = 13196622569664)  (hs : (Keeps κ s₀) s) : (Keeps κ s₀) (flush c s) := by
  have u0 : 268435456 &&& κ = 268435456 := sub_mask (by decide) hm
  have u1 : 13196354134208 &&& κ = 13196354134208 := sub_mask (by decide) hm
  unfold flush
  repeat' first
    | with_reducible assumption
    | with_reducible intro _
    | split
    | with_reducible refine inv_foldl ?_ ?_
    | with_reducible refine closeStripe_keeps u0 ?_
    | with_reducible refine flushGoOn_keeps u1 ?_

theorem execFlush_keeps {c : Nat} {s : State} (hm : 13196626896088 &&& κ = 13196626896088)  (hs : (Keeps κ s₀) s) : OutInv (Keeps κ s₀) (execFlush c s) := by
  have u0 : 4326616 &&& κ = 4326616 := sub_mask (by decide) hm
  have u1 : 13196622569664 &&& κ = 13196622569664 := sub_mask (by decide) hm
  unfold execFlush
  repeat' first
    | with_reducible assumption
    | with_reducible intro _
    | with_reducible apply out_next
    | split
    | with_reducible refine drainAll_keeps u0 ?_
    | with_reducible refine flush_keeps u1 ?_

theorem barrier_keeps {c : Nat} {s : State} (hm : 13196354134016 &&& κ = 13196354134016)  (hs : (Keeps κ s₀) s) : (Keeps κ s₀) (barrier c s) := by
  have u0 : 8192 &&& κ = 8192 := sub_mask (by decide) hm
  unfold barrier
  repeat' first
    | with_reducible assumption
    | with_reducible intro _
    | with_reducible refine inv_ite ?_ ?_
    | split
    | with_reducible refine setWork_keeps u0 ?_
    | with_reducible refine finish_keeps hm ?_

theorem execBarrier_keeps {c : Nat} {s : State} (hm : 13196354134016 &&& κ = 13196354134016)  (hs : (Keeps κ s₀) s) : OutInv (Keeps κ s₀) (execBarrier c s) := by
  unfold execBarrier
  repeat' first
    | with_reducible assumption
    | with_reducible intro _
    | with_reducible apply out_next
    | split
    | with_reducible refine barrier_keeps hm ?_

theorem wakeDrained_keeps {s : State} (hm : 13196354134208 &&& κ = 13196354134208)  (hs : (Keeps κ s₀) s) : (Keeps κ s₀) (wakeDrained s) := by
  have u0 : 8192 &&& κ = 8192 := sub_mask (by decide) hm
  unfold wakeDrained
  repeat' first
    | with_reducible assumption
    | with_reducible intro _
    | split
    | with_reducible refine wakeFlash_keeps u0 ?_
    | with_reducible refine wakeFlush_keeps hm ?_

theorem mirrorTake_keeps {i : Nat} {s : State} (hm : 536870920 &&& κ = 536870920)  (hs : (Keeps κ s₀) s) : (Keeps κ s₀) (mirrorTake i s) := by
  have u1 : 536870912 &&& κ = 536870912 := sub_mask (by decide) hm
  unfold mirrorTake
  repeat' first
    | with_reducible assumption
    | with_reducible intro _
    | split
    | with_reducible refine sendMsg_keeps hm ?_
    | with_reducible refine peerMod_keeps u1 ?_
    | (dsimp only)

theorem mirrorDrain_keeps {s : State} (hm : 536870920 &&& κ = 536870920)  (hs : (Keeps κ s₀) s) : (Keeps κ s₀) (mirrorDrain s) := by
  have u0 : 536870912 &&& κ = 536870912 := sub_mask (by decide) hm
  unfold mirrorDrain
  repeat' first
    | with_reducible assumption
    | with_reducible intro _
    | split
    | with_reducible refine inv_foldl ?_ ?_
    | with_reducible refine snd_foldl ?_ ?_
    | with_reducible refine peerMod_keeps u0 ?_
    | with_reducible refine mirrorTake_keeps hm ?_

theorem stripeProgrammed_keeps {s : State} (hm : 13197293789384 &&& κ = 13197293789384)  (hs : (Keeps κ s₀) s) : (Keeps κ s₀) (stripeProgrammed s) := by
  have u0 : 2684485832 &&& κ = 2684485832 := sub_mask (by decide) hm
  have u1 : 402653184 &&& κ = 402653184 := sub_mask (by decide) hm
  have u2 : 13196354134208 &&& κ = 13196354134208 := sub_mask (by decide) hm
  have u3 : 536870920 &&& κ = 536870920 := sub_mask (by decide) hm
  unfold stripeProgrammed
  repeat' first
    | with_reducible assumption
    | with_reducible intro _
    | with_reducible refine inv_ite ?_ ?_
    | split
    | with_reducible refine countWritten_keeps u0 ?_
    | with_reducible refine putStripe_keeps u1 ?_
    | with_reducible refine wakeDrained_keeps u2 ?_
    | with_reducible refine mirrorDrain_keeps u3 ?_

theorem execStripeProgrammed_keeps {s : State} (hm : 13197297984728 &&& κ = 13197297984728)  (hs : (Keeps κ s₀) s) : OutInv (Keeps κ s₀) (execStripeProgrammed s) := by
  have u0 : 4326616 &&& κ = 4326616 := sub_mask (by decide) hm
  have u1 : 13197293789384 &&& κ = 13197293789384 := sub_mask (by decide) hm
  unfold execStripeProgrammed
  repeat' first
    | with_reducible assumption
    | with_reducible intro _
    | with_reducible apply out_next
    | split
    | with_reducible refine drainAll_keeps u0 ?_
    | with_reducible refine stripeProgrammed_keeps u1 ?_

theorem drainTimeout_keeps {s : State} (hm : 268435456 &&& κ = 268435456)  (hs : (Keeps κ s₀) s) : (Keeps κ s₀) (drainTimeout s) := by
  unfold drainTimeout
  repeat' first
    | with_reducible assumption
    | with_reducible intro _
    | with_reducible refine inv_ite ?_ ?_
    | split
    | with_reducible refine inv_foldl ?_ ?_
    | with_reducible refine closeStripe_keeps hm ?_

theorem execDrainTimeout_keeps {s : State} (hm : 268435456 &&& κ = 268435456)  (hs : (Keeps κ s₀) s) : OutInv (Keeps κ s₀) (execDrainTimeout s) := by
  unfold execDrainTimeout
  repeat' first
    | with_reducible assumption
    | with_reducible intro _
    | with_reducible apply out_next
    | split
    | with_reducible refine drainTimeout_keeps hm ?_

theorem takeCheckpoint_keeps {s : State} (hm : 13489261387976 &&& κ = 13489261387976)  (hs : (Keeps κ s₀) s) : (Keeps κ s₀) (takeCheckpoint s) := by
  have u0 : 268435456 &&& κ = 268435456 := sub_mask (by decide) hm
  unfold takeCheckpoint
  repeat' first
    | with_reducible assumption
    | with_reducible intro _
    | with_reducible refine inv_ite ?_ ?_
    | split
    | with_reducible refine beginCheckpoint_keeps u0 ?_
    | with_reducible refine runOp_keeps hm ?_

theorem checkpointNow_keeps {c : Nat} {s : State} (hm : 268443648 &&& κ = 268443648)  (hs : (Keeps κ s₀) s) : (Keeps κ s₀) (checkpointNow c s) := by
  have u0 : 8192 &&& κ = 8192 := sub_mask (by decide) hm
  have u1 : 268435456 &&& κ = 268435456 := sub_mask (by decide) hm
  unfold checkpointNow
  repeat' first
    | with_reducible assumption
    | with_reducible intro _
    | with_reducible refine inv_ite ?_ ?_
    | split
    | with_reducible refine setWork_keeps u0 ?_
    | with_reducible refine bagMod_keeps u1 ?_

theorem execCheckpointNow_keeps {c : Nat} {s : State} (hm : 268443648 &&& κ = 268443648)  (hs : (Keeps κ s₀) s) : OutInv (Keeps κ s₀) (execCheckpointNow c s) := by
  unfold execCheckpointNow
  repeat' first
    | with_reducible assumption
    | with_reducible intro _
    | with_reducible apply out_next
    | split
    | with_reducible refine checkpointNow_keeps hm ?_

theorem checkpointSet_keeps {c : Nat} {s : State} (hm : 13196354134080 &&& κ = 13196354134080)  (hs : (Keeps κ s₀) s) : (Keeps κ s₀) (checkpointSet c s) := by
  have u0 : 64 &&& κ = 64 := sub_mask (by decide) hm
  have u1 : 13196354134016 &&& κ = 13196354134016 := sub_mask (by decide) hm
  unfold checkpointSet
  repeat' first
    | with_reducible assumption
    | with_reducible intro _
    | with_reducible refine inv_ite ?_ ?_
    | split
    | with_reducible refine regField_keeps u0 ?_
    | with_reducible refine finish_keeps u1 ?_

theorem execCheckpointSetInterval_keeps {c : Nat} {s : State} (hm : 13196354134080 &&& κ = 13196354134080)  (hs : (Keeps κ s₀) s) : OutInv (Keeps κ s₀) (execCheckpointSetInterval c s) := by
  unfold execCheckpointSetInterval
  repeat' first
    | with_reducible assumption
    | with_reducible intro _
    | with_reducible apply out_next
    | split
    | with_reducible refine checkpointSet_keeps hm ?_

theorem checkpointWait_keeps {c : Nat} {s : State} (hm : 13489261387976 &&& κ = 13489261387976)  (hs : (Keeps κ s₀) s) : (Keeps κ s₀) (checkpointWait c s) := by
  unfold checkpointWait
  repeat' first
    | with_reducible assumption
    | with_reducible intro _
    | with_reducible refine inv_ite ?_ ?_
    | split
    | with_reducible refine takeCheckpoint_keeps hm ?_

theorem execCheckpointWaitExpiry_keeps {c : Nat} {s : State} (hm : 13489265583320 &&& κ = 13489265583320)  (hs : (Keeps κ s₀) s) : OutInv (Keeps κ s₀) (execCheckpointWaitExpiry c s) := by
  have u0 : 4326616 &&& κ = 4326616 := sub_mask (by decide) hm
  have u1 : 13489261387976 &&& κ = 13489261387976 := sub_mask (by decide) hm
  unfold execCheckpointWaitExpiry
  repeat' first
    | with_reducible assumption
    | with_reducible intro _
    | with_reducible apply out_next
    | split
    | with_reducible refine drainAll_keeps u0 ?_
    | with_reducible refine checkpointWait_keeps u1 ?_

theorem checkpointTimer_keeps {s : State} (hm : 268435456 &&& κ = 268435456)  (hs : (Keeps κ s₀) s) : (Keeps κ s₀) (checkpointTimer s) := by
  unfold checkpointTimer
  repeat' first
    | with_reducible assumption
    | with_reducible intro _
    | with_reducible refine inv_ite ?_ ?_
    | split
    | with_reducible refine bagMod_keeps hm ?_

theorem execCheckpointTimer_keeps {s : State} (hm : 268435456 &&& κ = 268435456)  (hs : (Keeps κ s₀) s) : OutInv (Keeps κ s₀) (execCheckpointTimer s) := by
  unfold execCheckpointTimer
  repeat' first
    | with_reducible assumption
    | with_reducible intro _
    | with_reducible apply out_next
    | split
    | with_reducible refine checkpointTimer_keeps hm ?_

theorem countDead_keeps {s : State} (hm : 268435456 &&& κ = 268435456)  (hs : (Keeps κ s₀) s) : (Keeps κ s₀) (countDead s) := by
  unfold countDead
  repeat' first
    | with_reducible assumption
    | with_reducible intro _
    | with_reducible refine inv_ite ?_ ?_
    | split
    | with_reducible refine bagMod_keeps hm ?_

theorem sendTrim_keeps {s : State} (hm : 805306376 &&& κ = 805306376)  (hs : (Keeps κ s₀) s) : (Keeps κ s₀) (sendTrim s) := by
  have u0 : 536870920 &&& κ = 536870920 := sub_mask (by decide) hm
  have u1 : 268435456 &&& κ = 268435456 := sub_mask (by decide) hm
  unfold sendTrim
  repeat' first
    | with_reducible assumption
    | with_reducible intro _
    | with_reducible refine inv_ite ?_ ?_
    | split
    | with_reducible refine sendMsg_keeps u0 ?_
    | with_reducible refine bagMod_keeps u1 ?_

theorem writeRoot_keeps {cut : Nat} {img : Image} {s : State} (hm : 268435456 &&& κ = 268435456)  (hs : (Keeps κ s₀) s) : (Keeps κ s₀) (writeRoot cut img s) := by
  unfold writeRoot
  repeat' first
    | with_reducible assumption
    | with_reducible intro _
    | with_reducible refine inv_ite ?_ ?_
    | split
    | with_reducible refine bagMod_keeps hm ?_

theorem wakeCheckpoints_keeps {s : State} (hm : 13196354134016 &&& κ = 13196354134016)  (hs : (Keeps κ s₀) s) : (Keeps κ s₀) (wakeCheckpoints s) := by
  unfold wakeCheckpoints
  repeat' first
    | with_reducible assumption
    | with_reducible intro _
    | with_reducible refine inv_ite ?_ ?_
    | split
    | with_reducible refine inv_foldl ?_ ?_
    | with_reducible refine finish_keeps hm ?_

theorem checkpointDone_keeps {s : State} (hm : 13197159571656 &&& κ = 13197159571656)  (hs : (Keeps κ s₀) s) : (Keeps κ s₀) (checkpointDone s) := by
  have u0 : 2684485704 &&& κ = 2684485704 := sub_mask (by decide) hm
  have u1 : 268435456 &&& κ = 268435456 := sub_mask (by decide) hm
  have u2 : 2684485832 &&& κ = 2684485832 := sub_mask (by decide) hm
  have u3 : 805306376 &&& κ = 805306376 := sub_mask (by decide) hm
  have u4 : 13196354134016 &&& κ = 13196354134016 := sub_mask (by decide) hm
  unfold checkpointDone
  repeat' first
    | with_reducible assumption
    | with_reducible intro _
    | with_reducible refine inv_ite ?_ ?_
    | split
    | with_reducible refine raise_keeps u0 ?_
    | with_reducible refine bagMod_keeps u1 ?_
    | with_reducible refine countWritten_keeps u2 ?_
    | with_reducible refine countDead_keeps u1 ?_
    | with_reducible refine sendTrim_keeps u3 ?_
    | with_reducible refine writeRoot_keeps u1 ?_
    | with_reducible refine wakeCheckpoints_keeps u4 ?_

theorem execCheckpointDone_keeps {s : State} (hm : 13197163767000 &&& κ = 13197163767000)  (hs : (Keeps κ s₀) s) : OutInv (Keeps κ s₀) (execCheckpointDone s) := by
  have u0 : 4326616 &&& κ = 4326616 := sub_mask (by decide) hm
  have u1 : 13197159571656 &&& κ = 13197159571656 := sub_mask (by decide) hm
  unfold execCheckpointDone
  repeat' first
    | with_reducible assumption
    | with_reducible intro _
    | with_reducible apply out_next
    | split
    | with_reducible refine drainAll_keeps u0 ?_
    | with_reducible refine checkpointDone_keeps u1 ?_

theorem loseSources_keeps {h : Nat} {slots : List Nat} {s : State} (hm : 8388608 &&& κ = 8388608)  (hs : (Keeps κ s₀) s) : (Keeps κ s₀) (loseSources h slots s) := by
  unfold loseSources
  repeat' first
    | with_reducible assumption
    | with_reducible intro _
    | with_reducible refine inv_ite ?_ ?_
    | split
    | with_reducible refine collMod_keeps hm ?_

theorem recMod_keeps {seq : Nat} {f : JRec → JRec} {s : State} (hm : 268435456 &&& κ = 268435456)  (hs : (Keeps κ s₀) s) : (Keeps κ s₀) (recMod seq f s) := by
  unfold recMod
  repeat' first
    | with_reducible assumption
    | with_reducible intro _
    | with_reducible refine inv_ite ?_ ?_
    | split
    | with_reducible refine bagMod_keeps hm ?_

theorem poisonSource_keeps {r : JRec} {s : State} (hm : 2963406920 &&& κ = 2963406920)  (hs : (Keeps κ s₀) s) : (Keeps κ s₀) (poisonSource r s) := by
  have u1 : 64 &&& κ = 64 := sub_mask (by decide) hm
  have u2 : 8388608 &&& κ = 8388608 := sub_mask (by decide) hm
  have u3 : 268435456 &&& κ = 268435456 := sub_mask (by decide) hm
  unfold poisonSource
  repeat' first
    | with_reducible assumption
    | with_reducible intro _
    | split
    | with_reducible refine deferAll_keeps hm ?_
    | with_reducible refine countLost_keeps u1 ?_
    | with_reducible refine loseSources_keeps u2 ?_
    | with_reducible refine recMod_keeps u3 ?_

theorem poisonRecord_keeps {r : JRec} {headerOk : Bool} {s : State} (hm : 13489261387976 &&& κ = 13489261387976)  (hs : (Keeps κ s₀) s) : (Keeps κ s₀) (poisonRecord r headerOk s) := by
  have u0 : 2963406920 &&& κ = 2963406920 := sub_mask (by decide) hm
  have u1 : 64 &&& κ = 64 := sub_mask (by decide) hm
  have u2 : 268435456 &&& κ = 268435456 := sub_mask (by decide) hm
  have u4 : 8388608 &&& κ = 8388608 := sub_mask (by decide) hm
  unfold poisonRecord
  repeat' first
    | with_reducible assumption
    | with_reducible intro _
    | with_reducible refine inv_ite ?_ ?_
    | split
    | with_reducible refine deferAll_keeps u0 ?_
    | with_reducible refine countLost_keeps u1 ?_
    | with_reducible refine bagMod_keeps u2 ?_
    | with_reducible refine takeCheckpoint_keeps hm ?_
    | with_reducible refine loseSources_keeps u4 ?_
    | with_reducible refine recMod_keeps u2 ?_

theorem journalPoison_keeps {seq : Nat} {headerOk : Bool} {s : State} (hm : 13489261387976 &&& κ = 13489261387976)  (hs : (Keeps κ s₀) s) : (Keeps κ s₀) (journalPoison seq headerOk s) := by
  have u0 : 192 &&& κ = 192 := sub_mask (by decide) hm
  have u1 : 2963406920 &&& κ = 2963406920 := sub_mask (by decide) hm
  unfold journalPoison
  repeat' first
    | with_reducible assumption
    | with_reducible intro _
    | with_reducible refine inv_ite ?_ ?_
    | split
    | with_reducible refine blkFault_keeps u0 ?_
    | with_reducible refine poisonSource_keeps u1 ?_
    | with_reducible refine poisonRecord_keeps hm ?_

theorem execJournalPoison_keeps {seq : Nat} {headerOk : Bool} {s : State} (hm : 13489265583320 &&& κ = 13489265583320)  (hs : (Keeps κ s₀) s) : OutInv (Keeps κ s₀) (execJournalPoison seq headerOk s) := by
  have u0 : 4326616 &&& κ = 4326616 := sub_mask (by decide) hm
  have u1 : 13489261387976 &&& κ = 13489261387976 := sub_mask (by decide) hm
  unfold execJournalPoison
  repeat' first
    | with_reducible assumption
    | with_reducible intro _
    | with_reducible apply out_next
    | split
    | with_reducible refine drainAll_keeps u0 ?_
    | with_reducible refine journalPoison_keeps u1 ?_

theorem logCleaning_keeps {n : Nat} {s : State} (hm : 3087139016 &&& κ = 3087139016)  (hs : (Keeps κ s₀) s) : (Keeps κ s₀) (logCleaning n s) := by
  have u0 : 268435456 &&& κ = 268435456 := sub_mask (by decide) hm
  have u1 : 2684485832 &&& κ = 2684485832 := sub_mask (by decide) hm
  have u2 : 402653184 &&& κ = 402653184 := sub_mask (by decide) hm
  unfold logCleaning
  repeat' first
    | with_reducible assumption
    | with_reducible intro _
    | with_reducible refine inv_ite ?_ ?_
    | split
    | with_reducible refine bagMod_keeps u0 ?_
    | with_reducible refine countWritten_keeps u1 ?_
    | with_reducible refine putStripe_keeps u2 ?_
    | with_reducible refine countDead_keeps u0 ?_
    | (dsimp only)

theorem execLogCleaning_keeps {stripe : Nat} {s : State} (hm : 3091334360 &&& κ = 3091334360)  (hs : (Keeps κ s₀) s) : OutInv (Keeps κ s₀) (execLogCleaning stripe s) := by
  have u0 : 4326616 &&& κ = 4326616 := sub_mask (by decide) hm
  have u1 : 3087139016 &&& κ = 3087139016 := sub_mask (by decide) hm
  unfold execLogCleaning
  repeat' first
    | with_reducible assumption
    | with_reducible intro _
    | with_reducible apply out_next
    | split
    | with_reducible refine drainAll_keeps u0 ?_
    | with_reducible refine logCleaning_keeps u1 ?_

theorem rewriteStripe_keeps {n : Nat} {s : State} (hm : 3087139016 &&& κ = 3087139016)  (hs : (Keeps κ s₀) s) : (Keeps κ s₀) (rewriteStripe n s) := by
  have u0 : 268435456 &&& κ = 268435456 := sub_mask (by decide) hm
  have u1 : 2684485832 &&& κ = 2684485832 := sub_mask (by decide) hm
  have u2 : 402653184 &&& κ = 402653184 := sub_mask (by decide) hm
  unfold rewriteStripe
  repeat' first
    | with_reducible assumption
    | with_reducible intro _
    | with_reducible refine inv_ite ?_ ?_
    | split
    | with_reducible refine bagMod_keeps u0 ?_
    | with_reducible refine countWritten_keeps u1 ?_
    | with_reducible refine putStripe_keeps u2 ?_

theorem spareCheck_keeps {ch : Nat} {die : Nat} {s : State} (hm : 13196899524808 &&& κ = 13196899524808)  (hs : (Keeps κ s₀) s) : (Keeps κ s₀) (spareCheck ch die s) := by
  unfold spareCheck
  repeat' first
    | with_reducible assumption
    | with_reducible intro _
    | with_reducible refine inv_ite ?_ ?_
    | split
    | with_reducible refine enterHold_keeps hm ?_

theorem pageFailed_keeps {ch : Nat} {die : Nat} {s : State} (hm : 13197167960264 &&& κ = 13197167960264)  (hs : (Keeps κ s₀) s) : (Keeps κ s₀) (pageFailed ch die s) := by
  have u0 : 268435456 &&& κ = 268435456 := sub_mask (by decide) hm
  have u1 : 13196899524808 &&& κ = 13196899524808 := sub_mask (by decide) hm
  unfold pageFailed
  repeat' first
    | with_reducible assumption
    | with_reducible intro _
    | split
    | with_reducible refine bagMod_keeps u0 ?_
    | with_reducible refine spareCheck_keeps u1 ?_

theorem loseMembers_keeps {ch : Nat} {die : Nat} {whole : Bool} {s : State} (hm : 268435456 &&& κ = 268435456)  (hs : (Keeps κ s₀) s) : (Keeps κ s₀) (loseMembers ch die whole s) := by
  unfold loseMembers
  repeat' first
    | with_reducible assumption
    | with_reducible intro _
    | split
    | with_reducible refine bagMod_keeps hm ?_

theorem raiseMember_keeps {ch : Nat} {die : Nat} {spare : Bool} {hold : Bool} {media : Nat} {s : State} (hm : 2684485832 &&& κ = 2684485832)  (hs : (Keeps κ s₀) s) : (Keeps κ s₀) (raiseMember ch die spare hold media s) := by
  unfold raiseMember
  repeat' first
    | with_reducible assumption
    | with_reducible intro _
    | split
    | with_reducible refine raiseFault_keeps hm ?_

theorem redundancyGone_keeps {ch : Nat} {die : Nat} {media : Nat} {s : State} (hm : 13197167960264 &&& κ = 13197167960264)  (hs : (Keeps κ s₀) s) : (Keeps κ s₀) (redundancyGone ch die media s) := by
  have u0 : 13196899524808 &&& κ = 13196899524808 := sub_mask (by decide) hm
  have u1 : 268435456 &&& κ = 268435456 := sub_mask (by decide) hm
  have u2 : 2684485832 &&& κ = 2684485832 := sub_mask (by decide) hm
  unfold redundancyGone
  repeat' first
    | with_reducible assumption
    | with_reducible intro _
    | split
    | with_reducible refine enterHold_keeps u0 ?_
    | with_reducible refine bagMod_keeps u1 ?_
    | with_reducible refine raiseMember_keeps u2 ?_

theorem dieFailed_keeps {ch : Nat} {die : Nat} {media : Nat} {s : State} (hm : 13197167960264 &&& κ = 13197167960264)  (hs : (Keeps κ s₀) s) : (Keeps κ s₀) (dieFailed ch die media s) := by
  have u0 : 67108864 &&& κ = 67108864 := sub_mask (by decide) hm
  have u1 : 268435456 &&& κ = 268435456 := sub_mask (by decide) hm
  have u2 : 2684485832 &&& κ = 2684485832 := sub_mask (by decide) hm
  unfold dieFailed
  repeat' first
    | with_reducible assumption
    | with_reducible intro _
    | with_reducible refine inv_ite ?_ ?_
    | split
    | with_reducible refine bagRing_keeps u0 ?_
    | with_reducible refine bagMod_keeps u1 ?_
    | with_reducible refine loseMembers_keeps u1 ?_
    | with_reducible refine raiseMember_keeps u2 ?_
    | with_reducible refine redundancyGone_keeps hm ?_

theorem memberFailed_keeps {whole : Nat} {ch : Nat} {die : Nat} {media : Nat} {s : State} (hm : 13197302177992 &&& κ = 13197302177992)  (hs : (Keeps κ s₀) s) : (Keeps κ s₀) (memberFailed whole ch die media s) := by
  have u0 : 268435456 &&& κ = 268435456 := sub_mask (by decide) hm
  have u1 : 3087139016 &&& κ = 3087139016 := sub_mask (by decide) hm
  have u2 : 13197167960264 &&& κ = 13197167960264 := sub_mask (by decide) hm
  unfold memberFailed
  repeat' first
    | with_reducible assumption
    | with_reducible intro _
    | with_reducible refine inv_ite ?_ ?_
    | split
    | with_reducible refine bagMod_keeps u0 ?_
    | with_reducible refine rewriteStripe_keeps u1 ?_
    | with_reducible refine pageFailed_keeps u2 ?_
    | with_reducible refine loseMembers_keeps u0 ?_
    | with_reducible refine redundancyGone_keeps u2 ?_
    | with_reducible refine dieFailed_keeps u2 ?_
    | (dsimp only)

theorem execMemberFailed_keeps {whole : Nat} {channel : Nat} {die : Nat} {media : Nat} {s : State} (hm : 13197306373336 &&& κ = 13197306373336)  (hs : (Keeps κ s₀) s) : OutInv (Keeps κ s₀) (execMemberFailed whole channel die media s) := by
  have u0 : 4326616 &&& κ = 4326616 := sub_mask (by decide) hm
  have u1 : 13197302177992 &&& κ = 13197302177992 := sub_mask (by decide) hm
  unfold execMemberFailed
  repeat' first
    | with_reducible assumption
    | with_reducible intro _
    | with_reducible apply out_next
    | split
    | with_reducible refine drainAll_keeps u0 ?_
    | with_reducible refine memberFailed_keeps u1 ?_

theorem rebuildDone_keeps {ch : Nat} {stripes : Nat} {s : State} (hm : 3020030152 &&& κ = 3020030152)  (hs : (Keeps κ s₀) s) : (Keeps κ s₀) (rebuildDone ch stripes s) := by
  have u0 : 2684485704 &&& κ = 2684485704 := sub_mask (by decide) hm
  have u1 : 67108864 &&& κ = 67108864 := sub_mask (by decide) hm
  have u2 : 268435456 &&& κ = 268435456 := sub_mask (by decide) hm
  have u3 : 2684485832 &&& κ = 2684485832 := sub_mask (by decide) hm
  unfold rebuildDone
  repeat' first
    | with_reducible assumption
    | with_reducible intro _
    | split
    | with_reducible refine raise_keeps u0 ?_
    | with_reducible refine freeBagRing_keeps u1 ?_
    | with_reducible refine bagMod_keeps u2 ?_
    | with_reducible refine countWritten_keeps u3 ?_

theorem execRebuildDone_keeps {channel : Nat} {stripes : Nat} {s : State} (hm : 3024225496 &&& κ = 3024225496)  (hs : (Keeps κ s₀) s) : OutInv (Keeps κ s₀) (execRebuildDone channel stripes s) := by
  have u0 : 4326616 &&& κ = 4326616 := sub_mask (by decide) hm
  have u1 : 3020030152 &&& κ = 3020030152 := sub_mask (by decide) hm
  unfold execRebuildDone
  repeat' first
    | with_reducible assumption
    | with_reducible intro _
    | with_reducible apply out_next
    | split
    | with_reducible refine drainAll_keeps u0 ?_
    | with_reducible refine rebuildDone_keeps u1 ?_

theorem flashScrub_keeps {n : Nat} {unit : Nat} {refresh : Bool} {unreadable : Bool} {s : State} (hm : 13197302177992 &&& κ = 13197302177992)  (hs : (Keeps κ s₀) s) : (Keeps κ s₀) (flashScrub n unit refresh unreadable s) := by
  have u0 : 3087139016 &&& κ = 3087139016 := sub_mask (by decide) hm
  have u1 : 13197167960264 &&& κ = 13197167960264 := sub_mask (by decide) hm
  unfold flashScrub
  repeat' first
    | with_reducible assumption
    | with_reducible intro _
    | with_reducible refine inv_ite ?_ ?_
    | split
    | with_reducible refine rewriteStripe_keeps u0 ?_
    | with_reducible refine pageFailed_keeps u1 ?_

theorem execFlashScrub_keeps {stripe : Nat} {unit : Nat} {refresh : Bool} {unreadable : Bool} {s : State} (hm : 13197306373336 &&& κ = 13197306373336)  (hs : (Keeps κ s₀) s) : OutInv (Keeps κ s₀) (execFlashScrub stripe unit refresh unreadable s) := by
  have u0 : 4326616 &&& κ = 4326616 := sub_mask (by decide) hm
  have u1 : 13197302177992 &&& κ = 13197302177992 := sub_mask (by decide) hm
  unfold execFlashScrub
  repeat' first
    | with_reducible assumption
    | with_reducible intro _
    | with_reducible apply out_next
    | split
    | with_reducible refine drainAll_keeps u0 ?_
    | with_reducible refine flashScrub_keeps u1 ?_

theorem loseRecord_keeps {media : Nat} {r : JRec} {s : State} (hm : 2963406920 &&& κ = 2963406920)  (hs : (Keeps κ s₀) s) : (Keeps κ s₀) (loseRecord media r s).2 := by
  have u1 : 8388608 &&& κ = 8388608 := sub_mask (by decide) hm
  have u2 : 268435456 &&& κ = 268435456 := sub_mask (by decide) hm
  unfold loseRecord
  repeat' first
    | with_reducible assumption
    | with_reducible intro _
    | with_reducible refine snd_ite ?_ ?_
    | with_reducible refine inv_ite ?_ ?_
    | split
    | with_reducible refine deferAll_keeps hm ?_
    | with_reducible refine loseSources_keeps u1 ?_
    | with_reducible refine recMod_keeps u2 ?_

theorem fetchRecords_keeps {rs : List JRec} {s : State} (hm : 536870920 &&& κ = 536870920)  (hs : (Keeps κ s₀) s) : (Keeps κ s₀) (fetchRecords rs s) := by
  have u0 : 536870912 &&& κ = 536870912 := sub_mask (by decide) hm
  unfold fetchRecords
  repeat' first
    | with_reducible assumption
    | with_reducible intro _
    | with_reducible refine inv_ite ?_ ?_
    | split
    | with_reducible refine sendMsg_keeps hm ?_
    | (dsimp only)
    | with_reducible refine upd_cst u0 ?_

theorem raiseStripe_keeps {n : Nat} {media : Nat} {entries : Nat} {refilled : Nat} {s : State} (hm : 2684485832 &&& κ = 2684485832)  (hs : (Keeps κ s₀) s) : (Keeps κ s₀) (raiseStripe n media entries refilled s) := by
  have u0 : 64 &&& κ = 64 := sub_mask (by decide) hm
  unfold raiseStripe
  repeat' first
    | with_reducible assumption
    | with_reducible intro _
    | split
    | with_reducible refine bumpSat_keeps u0 ?_
    | with_reducible refine raiseFault_keeps hm ?_
    | with_reducible refine countLost_keeps u0 ?_

theorem logStripeLost_keeps {st : Stripe} {media : Nat} {refilled : List Nat} {unread : List Nat} {s : State} (hm : 13197304275144 &&& κ = 13197304275144)  (hs : (Keeps κ s₀) s) : (Keeps κ s₀) (logStripeLost st media refilled unread s) := by
  have u0 : 268435456 &&& κ = 268435456 := sub_mask (by decide) hm
  have u1 : 402653184 &&& κ = 402653184 := sub_mask (by decide) hm
  have u2 : 13196354134208 &&& κ = 13196354134208 := sub_mask (by decide) hm
  have u3 : 2963406920 &&& κ = 2963406920 := sub_mask (by decide) hm
  have u4 : 536870920 &&& κ = 536870920 := sub_mask (by decide) hm
  have u5 : 2684485832 &&& κ = 2684485832 := sub_mask (by decide) hm
  unfold logStripeLost
  repeat' first
    | with_reducible assumption
    | with_reducible intro _
    | with_reducible refine inv_ite ?_ ?_
    | split
    | with_reducible refine inv_foldl ?_ ?_
    | with_reducible refine snd_foldl ?_ ?_
    | with_reducible refine bagMod_keeps u0 ?_
    | with_reducible refine putStripe_keeps u1 ?_
    | with_reducible refine wakeFlush_keeps u2 ?_
    | with_reducible refine recMod_keeps u0 ?_
    | with_reducible refine loseRecord_keeps u3 ?_
    | with_reducible refine fetchRecords_keeps u4 ?_
    | with_reducible refine raiseStripe_keeps u5 ?_
    | refine inv_snd (by with_reducible assumption) ?_

theorem areaStripeLost_keeps {n : Nat} {media : Nat} {g : Gone} {s : State} (hm : 2952921288 &&& κ = 2952921288)  (hs : (Keeps κ s₀) s) : (Keeps κ s₀) (areaStripeLost n media g s) := by
  have u0 : 268435456 &&& κ = 268435456 := sub_mask (by decide) hm
  have u1 : 2684485832 &&& κ = 2684485832 := sub_mask (by decide) hm
  unfold areaStripeLost
  repeat' first
    | with_reducible assumption
    | with_reducible intro _
    | split
    | with_reducible refine bagMod_keeps u0 ?_
    | with_reducible refine raiseStripe_keeps u1 ?_

theorem stripeLost_keeps {n : Nat} {member : Nat} {refilled : List Nat} {unread : List Nat} {g : Gone} {s : State} (hm : 13197304275144 &&& κ = 13197304275144)  (hs : (Keeps κ s₀) s) : (Keeps κ s₀) (stripeLost n member refilled unread g s) := by
  have u1 : 2952921288 &&& κ = 2952921288 := sub_mask (by decide) hm
  unfold stripeLost
  repeat' first
    | with_reducible assumption
    | with_reducible intro _
    | with_reducible refine inv_ite ?_ ?_
    | split
    | with_reducible refine logStripeLost_keeps hm ?_
    | with_reducible refine areaStripeLost_keeps u1 ?_

theorem execStripeLost_keeps {stripe : Nat} {member : Nat} {refilled : List Nat} {unread : List Nat} {gone : Gone} {s : State} (hm : 13197308470488 &&& κ = 13197308470488)  (hs : (Keeps κ s₀) s) : OutInv (Keeps κ s₀) (execStripeLost stripe member refilled unread gone s) := by
  have u0 : 4326616 &&& κ = 4326616 := sub_mask (by decide) hm
  have u1 : 13197304275144 &&& κ = 13197304275144 := sub_mask (by decide) hm
  unfold execStripeLost
  repeat' first
    | with_reducible assumption
    | with_reducible intro _
    | with_reducible apply out_next
    | split
    | with_reducible refine drainAll_keeps u0 ?_
    | with_reducible refine stripeLost_keeps u1 ?_

theorem raiseHoldup_keeps {sev : Nat} {full : Nat} {s : State} (hm : 2684485832 &&& κ = 2684485832)  (hs : (Keeps κ s₀) s) : (Keeps κ s₀) (raiseHoldup sev full s) := by
  unfold raiseHoldup
  repeat' first
    | with_reducible assumption
    | with_reducible intro _
    | split
    | with_reducible refine raiseFault_keeps hm ?_

theorem bankFails_keeps {s : State} (hm : 13197167960264 &&& κ = 13197167960264)  (hs : (Keeps κ s₀) s) : (Keeps κ s₀) (bankFails s) := by
  have u0 : 2147483648 &&& κ = 2147483648 := sub_mask (by decide) hm
  have u1 : 13196899524808 &&& κ = 13196899524808 := sub_mask (by decide) hm
  have u2 : 268435456 &&& κ = 268435456 := sub_mask (by decide) hm
  have u3 : 2684485832 &&& κ = 2684485832 := sub_mask (by decide) hm
  unfold bankFails
  repeat' first
    | with_reducible assumption
    | with_reducible intro _
    | with_reducible refine inv_ite ?_ ?_
    | split
    | with_reducible refine enterHold_keeps u1 ?_
    | with_reducible refine bagMod_keeps u2 ?_
    | with_reducible refine raiseHoldup_keeps u3 ?_
    | (dsimp only)
    | with_reducible refine upd_chn u0 ?_

theorem holdupMeasurement_keeps {full : Nat} {now_ : Nat} {s : State} (hm : 13197167960264 &&& κ = 13197167960264)  (hs : (Keeps κ s₀) s) : (Keeps κ s₀) (holdupMeasurement full now_ s) := by
  have u0 : 268435456 &&& κ = 268435456 := sub_mask (by decide) hm
  have u1 : 2684485832 &&& κ = 2684485832 := sub_mask (by decide) hm
  unfold holdupMeasurement
  repeat' first
    | with_reducible assumption
    | with_reducible intro _
    | with_reducible refine inv_ite ?_ ?_
    | split
    | with_reducible refine bagMod_keeps u0 ?_
    | with_reducible refine raiseHoldup_keeps u1 ?_
    | with_reducible refine bankFails_keeps hm ?_

theorem execHoldupMeasurement_keeps {fullMj : Nat} {nowMj : Nat} {s : State} (hm : 13197172155608 &&& κ = 13197172155608)  (hs : (Keeps κ s₀) s) : OutInv (Keeps κ s₀) (execHoldupMeasurement fullMj nowMj s) := by
  have u0 : 4326616 &&& κ = 4326616 := sub_mask (by decide) hm
  have u1 : 13197167960264 &&& κ = 13197167960264 := sub_mask (by decide) hm
  unfold execHoldupMeasurement
  repeat' first
    | with_reducible assumption
    | with_reducible intro _
    | with_reducible apply out_next
    | split
    | with_reducible refine drainAll_keeps u0 ?_
    | with_reducible refine holdupMeasurement_keeps u1 ?_

theorem execHoldupChargeTimeout_keeps {s : State} (hm : 13197172155608 &&& κ = 13197172155608)  (hs : (Keeps κ s₀) s) : OutInv (Keeps κ s₀) (execHoldupChargeTimeout s) := by
  have u0 : 4326616 &&& κ = 4326616 := sub_mask (by decide) hm
  have u1 : 13197167960264 &&& κ = 13197167960264 := sub_mask (by decide) hm
  unfold execHoldupChargeTimeout
  repeat' first
    | with_reducible assumption
    | with_reducible intro _
    | with_reducible refine out_ite ?_ ?_
    | with_reducible refine inv_ite ?_ ?_
    | with_reducible apply out_next
    | split
    | with_reducible refine drainAll_keeps u0 ?_
    | with_reducible refine bankFails_keeps u1 ?_

theorem execHoldupThresholdReached_keeps {nowMj : Nat} {s : State} (hm : 268435456 &&& κ = 268435456)  (hs : (Keeps κ s₀) s) : OutInv (Keeps κ s₀) (execHoldupThresholdReached nowMj s) := by
  unfold execHoldupThresholdReached
  repeat' first
    | with_reducible assumption
    | with_reducible intro _
    | with_reducible refine out_ite ?_ ?_
    | with_reducible refine inv_ite ?_ ?_
    | with_reducible apply out_next
    | split
    | with_reducible refine bagMod_keeps hm ?_

theorem beginLoss_keeps {s : State} (hm : 2147483648 &&& κ = 2147483648)  (hs : (Keeps κ s₀) s) : (Keeps κ s₀) (beginLoss s) := by
  unfold beginLoss
  repeat' first
    | with_reducible assumption
    | with_reducible intro _
    | split
    | (dsimp only)
    | with_reducible refine upd_chn hm ?_

theorem powerLoss_keeps {s : State} (hm : 2147483648 &&& κ = 2147483648)  (hs : (Keeps κ s₀) s) : (Keeps κ s₀) (powerLoss s) := by
  unfold powerLoss
  repeat' first
    | with_reducible assumption
    | with_reducible intro _
    | with_reducible refine inv_ite ?_ ?_
    | split
    | with_reducible refine beginLoss_keeps hm ?_
    | (dsimp only)
    | with_reducible refine upd_chn hm ?_

theorem execPowerLoss_keeps {s : State} (hm : 2147483648 &&& κ = 2147483648)  (hs : (Keeps κ s₀) s) : OutInv (Keeps κ s₀) (execPowerLoss s) := by
  unfold execPowerLoss
  repeat' first
    | with_reducible assumption
    | with_reducible intro _
    | with_reducible apply out_next
    | split
    | with_reducible refine powerLoss_keeps hm ?_

theorem bleedBank_keeps {s : State} (hm : 268435456 &&& κ = 268435456)  (hs : (Keeps κ s₀) s) : (Keeps κ s₀) (bleedBank s) := by
  unfold bleedBank
  repeat' first
    | with_reducible assumption
    | with_reducible intro _
    | split
    | with_reducible refine bagMod_keeps hm ?_

theorem dumpSealed_keeps {s : State} (hm : 6710886400 &&& κ = 6710886400)  (hs : (Keeps κ s₀) s) : (Keeps κ s₀) (dumpSealed s) := by
  have u0 : 6442450944 &&& κ = 6442450944 := sub_mask (by decide) hm
  have u1 : 268435456 &&& κ = 268435456 := sub_mask (by decide) hm
  unfold dumpSealed
  repeat' first
    | with_reducible assumption
    | with_reducible intro _
    | with_reducible refine inv_ite ?_ ?_
    | split
    | with_reducible refine bagMod_keeps u1 ?_
    | with_reducible refine bleedBank_keeps u1 ?_
    | (dsimp only)
    | with_reducible refine upd_chn_sec u0 ?_

theorem execDumpSealed_keeps {s : State} (hm : 6710886400 &&& κ = 6710886400)  (hs : (Keeps κ s₀) s) : OutInv (Keeps κ s₀) (execDumpSealed s) := by
  unfold execDumpSealed
  repeat' first
    | with_reducible assumption
    | with_reducible intro _
    | with_reducible apply out_next
    | split
    | with_reducible refine dumpSealed_keeps hm ?_

theorem pwrfailAssert_keeps {ns : Nat} {s : State} (hm : 10737418240 &&& κ = 10737418240)  (hs : (Keeps κ s₀) s) : (Keeps κ s₀) (pwrfailAssert ns s) := by
  have u0 : 8589934592 &&& κ = 8589934592 := sub_mask (by decide) hm
  have u1 : 2147483648 &&& κ = 2147483648 := sub_mask (by decide) hm
  unfold pwrfailAssert
  repeat' first
    | with_reducible assumption
    | with_reducible intro _
    | with_reducible refine inv_ite ?_ ?_
    | split
    | with_reducible refine powerLoss_keeps u1 ?_
    | (dsimp only)
    | with_reducible refine upd_pins u0 ?_

theorem execPwrfailAssert_keeps {ns : Nat} {s : State} (hm : 10737418240 &&& κ = 10737418240)  (hs : (Keeps κ s₀) s) : OutInv (Keeps κ s₀) (execPwrfailAssert ns s) := by
  unfold execPwrfailAssert
  repeat' first
    | with_reducible assumption
    | with_reducible intro _
    | with_reducible apply out_next
    | split
    | with_reducible refine pwrfailAssert_keeps hm ?_

end Sys2Proof.Machine
end

