-- ==== Sys2Proof/Laws/FramesTier.lean ====
section
/-! SUPPORT. The parts of the state that the functions of Machine/Tier.lean may write. -/

namespace Sys2Proof.Machine

variable {κ : Nat} {s₀ : State}

theorem failTable_keeps {t : Nat} {cluster : Nat} {addr : Nat} {x : Cmd} {s : State} (hm : 13196354134208 &&& κ = 13196354134208)  (hs : (Keeps κ s₀) s) : (Keeps κ s₀) (failTable t cluster addr x s) := by
  have u0 : 8192 &&& κ = 8192 := sub_mask (by decide) hm
  unfold failTable
  repeat' first
    | with_reducible assumption
    | with_reducible intro _
    | with_reducible refine inv_ite ?_ ?_
    | split
    | with_reducible refine cmdMod_keeps u0 ?_
    | with_reducible refine failCmd_keeps hm ?_

theorem tablePaused_keeps {t : Nat} {cluster : Nat} {byte : Nat} {s : State} (hm : 13196924690632 &&& κ = 13196924690632)  (hs : (Keeps κ s₀) s) : (Keeps κ s₀) (tablePaused t cluster byte s) := by
  have u0 : 33554432 &&& κ = 33554432 := sub_mask (by decide) hm
  have u1 : 192 &&& κ = 192 := sub_mask (by decide) hm
  have u2 : 2684485704 &&& κ = 2684485704 := sub_mask (by decide) hm
  have u3 : 13196354134208 &&& κ = 13196354134208 := sub_mask (by decide) hm
  unfold tablePaused
  repeat' first
    | with_reducible assumption
    | with_reducible intro _
    | with_reducible refine inv_ite ?_ ?_
    | split
    | with_reducible refine inv_foldl ?_ ?_
    | with_reducible refine blkFault_keeps u1 ?_
    | with_reducible refine raiseTable_keeps u2 ?_
    | with_reducible refine failTable_keeps u3 ?_
    | (dsimp only)
    | with_reducible refine upd_tables u0 ?_

theorem execTablePaused_keeps {t : Nat} {cluster : Nat} {bankByte : Nat} {s : State} (hm : 13196928885976 &&& κ = 13196928885976)  (hs : (Keeps κ s₀) s) : OutInv (Keeps κ s₀) (execTablePaused t cluster bankByte s) := by
  have u0 : 4326616 &&& κ = 4326616 := sub_mask (by decide) hm
  have u1 : 13196924690632 &&& κ = 13196924690632 := sub_mask (by decide) hm
  unfold execTablePaused
  repeat' first
    | with_reducible assumption
    | with_reducible intro _
    | with_reducible apply out_next
    | split
    | with_reducible refine drainAll_keeps u0 ?_
    | with_reducible refine tablePaused_keeps u1 ?_

theorem tableResumed_keeps {t : Nat} {fromBag : Bool} {unreadable : Option Nat} {s : State} (hm : 2718040136 &&& κ = 2718040136)  (hs : (Keeps κ s₀) s) : (Keeps κ s₀) (tableResumed t fromBag unreadable s) := by
  have u0 : 33554432 &&& κ = 33554432 := sub_mask (by decide) hm
  have u1 : 2147483648 &&& κ = 2147483648 := sub_mask (by decide) hm
  have u2 : 2684485704 &&& κ = 2684485704 := sub_mask (by decide) hm
  unfold tableResumed
  repeat' first
    | with_reducible assumption
    | with_reducible intro _
    | with_reducible refine inv_ite ?_ ?_
    | split
    | with_reducible refine advanceEpoch_keeps u1 ?_
    | with_reducible refine raiseTable_keeps u2 ?_
    | (dsimp only)
    | with_reducible refine upd_tables u0 ?_

theorem execTableResumed_keeps {t : Nat} {fromBag : Bool} {unreadable : Option Nat} {s : State} (hm : 2722235608 &&& κ = 2722235608)  (hs : (Keeps κ s₀) s) : OutInv (Keeps κ s₀) (execTableResumed t fromBag unreadable s) := by
  have u0 : 4326616 &&& κ = 4326616 := sub_mask (by decide) hm
  have u1 : 2718040136 &&& κ = 2718040136 := sub_mask (by decide) hm
  unfold execTableResumed
  repeat' first
    | with_reducible assumption
    | with_reducible intro _
    | with_reducible apply out_next
    | split
    | with_reducible refine drainAll_keeps u0 ?_
    | with_reducible refine tableResumed_keeps u1 ?_

theorem markRow_keeps {tier : Nat} {chan : Nat} {addr : Nat} {s : State} (hm : 13231259263176 &&& κ = 13231259263176)  (hs : (Keeps κ s₀) s) : (Keeps κ s₀) (markRow tier chan addr s) := by
  have u0 : 34359738368 &&& κ = 34359738368 := sub_mask (by decide) hm
  have u1 : 192 &&& κ = 192 := sub_mask (by decide) hm
  have u2 : 13196899524808 &&& κ = 13196899524808 := sub_mask (by decide) hm
  unfold markRow
  repeat' first
    | with_reducible assumption
    | with_reducible intro _
    | with_reducible refine inv_ite ?_ ?_
    | split
    | with_reducible refine blkFault_keeps u1 ?_
    | with_reducible refine enterHold_keeps u2 ?_
    | (dsimp only)
    | with_reducible refine upd_rowsMarked u0 ?_

theorem chestPoison_keeps {x : Cmd} {tower : Nat} {addr : Nat} {s : State} (hm : 13196354134208 &&& κ = 13196354134208)  (hs : (Keeps κ s₀) s) : (Keeps κ s₀) (chestPoison x tower addr s) := by
  have u0 : 8192 &&& κ = 8192 := sub_mask (by decide) hm
  unfold chestPoison
  repeat' first
    | with_reducible assumption
    | with_reducible intro _
    | with_reducible refine inv_ite ?_ ?_
    | split
    | with_reducible refine cmdMod_keeps u0 ?_
    | with_reducible refine bellPoison_keeps hm ?_

theorem readerFails_keeps {x : Cmd} {tier : Nat} {chan : Nat} {addr : Nat} {p : Option Poison} {s : State} (hm : 13196354134208 &&& κ = 13196354134208)  (hs : (Keeps κ s₀) s) : (Keeps κ s₀) (readerFails x tier chan addr p s) := by
  unfold readerFails
  repeat' first
    | with_reducible assumption
    | with_reducible intro _
    | with_reducible refine inv_ite ?_ ?_
    | split
    | with_reducible refine failPoison_keeps hm ?_
    | with_reducible refine rerankPoison_keeps hm ?_
    | with_reducible refine chestPoison_keeps hm ?_

theorem tierUe_keeps {tier : Nat} {chan : Nat} {addr : Nat} {byScrub : Bool} {c : Option Nat} {s : State} (hm : 13248439132360 &&& κ = 13248439132360)  (hs : (Keeps κ s₀) s) : (Keeps κ s₀) (tierUe tier chan addr byScrub c s) := by
  have u0 : 17179869184 &&& κ = 17179869184 := sub_mask (by decide) hm
  have u1 : 64 &&& κ = 64 := sub_mask (by decide) hm
  have u2 : 192 &&& κ = 192 := sub_mask (by decide) hm
  have u3 : 2684485704 &&& κ = 2684485704 := sub_mask (by decide) hm
  have u4 : 13231259263176 &&& κ = 13231259263176 := sub_mask (by decide) hm
  have u5 : 13196354134208 &&& κ = 13196354134208 := sub_mask (by decide) hm
  unfold tierUe
  repeat' first
    | with_reducible assumption
    | with_reducible intro _
    | with_reducible refine inv_ite ?_ ?_
    | split
    | with_reducible refine bumpSat_keeps u1 ?_
    | with_reducible refine blkFault_keeps u2 ?_
    | with_reducible refine raise_keeps u3 ?_
    | with_reducible refine markRow_keeps u4 ?_
    | with_reducible refine readerFails_keeps u5 ?_
    | (dsimp only)
    | with_reducible refine upd_poison u0 ?_

theorem execTierUe_keeps {tier : Nat} {chan : Nat} {addr : Nat} {byScrub : Bool} {c : Option Nat} {s : State} (hm : 13248443327704 &&& κ = 13248443327704)  (hs : (Keeps κ s₀) s) : OutInv (Keeps κ s₀) (execTierUe tier chan addr byScrub c s) := by
  have u0 : 4326616 &&& κ = 4326616 := sub_mask (by decide) hm
  have u1 : 13248439132360 &&& κ = 13248439132360 := sub_mask (by decide) hm
  unfold execTierUe
  repeat' first
    | with_reducible assumption
    | with_reducible intro _
    | with_reducible apply out_next
    | split
    | with_reducible refine drainAll_keeps u0 ?_
    | with_reducible refine tierUe_keeps u1 ?_

theorem noteRow_keeps {tier : Nat} {chan : Nat} {addr : Nat} {n : Nat} {s : State} (hm : 13299978739912 &&& κ = 13299978739912)  (hs : (Keeps κ s₀) s) : (Keeps κ s₀) (noteRow tier chan addr n s) := by
  have u0 : 68719476736 &&& κ = 68719476736 := sub_mask (by decide) hm
  have u1 : 13231259263176 &&& κ = 13231259263176 := sub_mask (by decide) hm
  unfold noteRow
  repeat' first
    | with_reducible assumption
    | with_reducible intro _
    | with_reducible refine inv_ite ?_ ?_
    | split
    | with_reducible refine markRow_keeps u1 ?_
    | (dsimp only)
    | with_reducible refine upd_rowCorrected u0 ?_

theorem tierScrub_keeps {tier : Nat} {chan : Nat} {row : Nat} {corrected : Nat} {pct : Nat} {uncorrectable : Bool} {s : State} (hm : 13437417693384 &&& κ = 13437417693384)  (hs : (Keeps κ s₀) s) : (Keeps κ s₀) (tierScrub tier chan row corrected pct uncorrectable s) := by
  have u0 : 64 &&& κ = 64 := sub_mask (by decide) hm
  have u1 : 137438953472 &&& κ = 137438953472 := sub_mask (by decide) hm
  have u2 : 13231259263176 &&& κ = 13231259263176 := sub_mask (by decide) hm
  have u3 : 13299978739912 &&& κ = 13299978739912 := sub_mask (by decide) hm
  unfold tierScrub
  repeat' first
    | with_reducible assumption
    | with_reducible intro _
    | with_reducible refine inv_ite ?_ ?_
    | split
    | with_reducible refine inv_foldl ?_ ?_
    | with_reducible refine snd_foldl ?_ ?_
    | with_reducible refine bumpSat_keeps u0 ?_
    | with_reducible refine regField_keeps u0 ?_
    | with_reducible refine noteCorrected_keeps u1 ?_
    | with_reducible refine markRow_keeps u2 ?_
    | with_reducible refine noteRow_keeps u3 ?_

theorem execTierScrub_keeps {tier : Nat} {chan : Nat} {row : Nat} {corrected : Nat} {pct : Nat} {uncorrectable : Bool} {s : State} (hm : 13437421888728 &&& κ = 13437421888728)  (hs : (Keeps κ s₀) s) : OutInv (Keeps κ s₀) (execTierScrub tier chan row corrected pct uncorrectable s) := by
  have u0 : 4326616 &&& κ = 4326616 := sub_mask (by decide) hm
  have u1 : 13437417693384 &&& κ = 13437417693384 := sub_mask (by decide) hm
  unfold execTierScrub
  repeat' first
    | with_reducible assumption
    | with_reducible intro _
    | with_reducible apply out_next
    | split
    | with_reducible refine drainAll_keeps u0 ?_
    | with_reducible refine tierScrub_keeps u1 ?_

theorem rowRepaired_keeps {tier : Nat} {chan : Nat} {addr : Nat} {s : State} (hm : 105763700808 &&& κ = 105763700808)  (hs : (Keeps κ s₀) s) : (Keeps κ s₀) (rowRepaired tier chan addr s) := by
  have u0 : 103079215104 &&& κ = 103079215104 := sub_mask (by decide) hm
  have u1 : 64 &&& κ = 64 := sub_mask (by decide) hm
  have u2 : 2684485704 &&& κ = 2684485704 := sub_mask (by decide) hm
  unfold rowRepaired
  repeat' first
    | with_reducible assumption
    | with_reducible intro _
    | with_reducible refine inv_ite ?_ ?_
    | split
    | with_reducible refine bumpSat_keeps u1 ?_
    | with_reducible refine regField_keeps u1 ?_
    | with_reducible refine raise_keeps u2 ?_
    | (dsimp only)
    | with_reducible refine upd_rowsMarked_rowCorrected u0 ?_

theorem execRowRepaired_keeps {tier : Nat} {chan : Nat} {addr : Nat} {s : State} (hm : 105767896280 &&& κ = 105767896280)  (hs : (Keeps κ s₀) s) : OutInv (Keeps κ s₀) (execRowRepaired tier chan addr s) := by
  have u0 : 4326616 &&& κ = 4326616 := sub_mask (by decide) hm
  have u1 : 105763700808 &&& κ = 105763700808 := sub_mask (by decide) hm
  unfold execRowRepaired
  repeat' first
    | with_reducible assumption
    | with_reducible intro _
    | with_reducible apply out_next
    | split
    | with_reducible refine drainAll_keeps u0 ?_
    | with_reducible refine rowRepaired_keeps u1 ?_

theorem loseTombs_keeps {h : Nat} {slot : Nat} {s : State} (hm : 8388608 &&& κ = 8388608)  (hs : (Keeps κ s₀) s) : (Keeps κ s₀) (loseTombs h slot s) := by
  unfold loseTombs
  repeat' first
    | with_reducible assumption
    | with_reducible intro _
    | split
    | with_reducible refine inv_foldl ?_ ?_
    | with_reducible refine collMod_keeps hm ?_

theorem loseWord_keeps {p : Poison} {media : Nat} {c : Coll} {s : State} (hm : 2963406920 &&& κ = 2963406920)  (hs : (Keeps κ s₀) s) : (Keeps κ s₀) (loseWord p media c s) := by
  have u1 : 8388608 &&& κ = 8388608 := sub_mask (by decide) hm
  unfold loseWord
  repeat' first
    | with_reducible assumption
    | with_reducible intro _
    | split
    | with_reducible refine inv_foldl ?_ ?_
    | with_reducible refine loseEntry_keeps hm ?_
    | with_reducible refine loseTombs_keeps u1 ?_

theorem raiseRepaired_keeps {p : Poison} {lost : Bool} {s : State} (hm : 2684485704 &&& κ = 2684485704)  (hs : (Keeps κ s₀) s) : (Keeps κ s₀) (raiseRepaired p lost s) := by
  unfold raiseRepaired
  repeat' first
    | with_reducible assumption
    | with_reducible intro _
    | with_reducible refine inv_ite ?_ ?_
    | split
    | with_reducible refine raise_keeps hm ?_

theorem clearPoison_keeps {p : Poison} {s : State} (hm : 17179869184 &&& κ = 17179869184)  (hs : (Keeps κ s₀) s) : (Keeps κ s₀) (clearPoison p s) := by
  unfold clearPoison
  repeat' first
    | with_reducible assumption
    | with_reducible intro _
    | split
    | (dsimp only)
    | with_reducible refine upd_poison hm ?_

theorem relinkNode_keeps {p : Poison} {s : State} (hm : 13489261387976 &&& κ = 13489261387976)  (hs : (Keeps κ s₀) s) : (Keeps κ s₀) (relinkNode p s) := by
  have u1 : 2684485704 &&& κ = 2684485704 := sub_mask (by decide) hm
  have u2 : 17179869184 &&& κ = 17179869184 := sub_mask (by decide) hm
  unfold relinkNode
  repeat' first
    | with_reducible assumption
    | with_reducible intro _
    | with_reducible refine inv_ite ?_ ?_
    | split
    | with_reducible refine runOp_keeps hm ?_
    | with_reducible refine raiseRepaired_keeps u1 ?_
    | with_reducible refine clearPoison_keeps u2 ?_

theorem dataRepaired_keeps {h : Nat} {slot : Nat} {w : DataWord} {addr : Nat} {media : Nat} {copyOk : Bool} {s : State} (hm : 13489261387976 &&& κ = 13489261387976)  (hs : (Keeps κ s₀) s) : (Keeps κ s₀) (dataRepaired h slot w addr media copyOk s) := by
  have u0 : 2963406920 &&& κ = 2963406920 := sub_mask (by decide) hm
  have u1 : 2684485704 &&& κ = 2684485704 := sub_mask (by decide) hm
  have u2 : 17179869184 &&& κ = 17179869184 := sub_mask (by decide) hm
  unfold dataRepaired
  repeat' first
    | with_reducible assumption
    | with_reducible intro _
    | with_reducible refine inv_ite ?_ ?_
    | split
    | with_reducible refine loseWord_keeps u0 ?_
    | with_reducible refine raiseRepaired_keeps u1 ?_
    | with_reducible refine clearPoison_keeps u2 ?_
    | with_reducible refine relinkNode_keeps hm ?_

theorem execDataRepaired_keeps {h : Nat} {slot : Nat} {w : DataWord} {tierAddr : Nat} {media : Nat} {copyOk : Bool} {s : State} (hm : 13489265583320 &&& κ = 13489265583320)  (hs : (Keeps κ s₀) s) : OutInv (Keeps κ s₀) (execDataRepaired h slot w tierAddr media copyOk s) := by
  have u0 : 4326616 &&& κ = 4326616 := sub_mask (by decide) hm
  have u1 : 13489261387976 &&& κ = 13489261387976 := sub_mask (by decide) hm
  unfold execDataRepaired
  repeat' first
    | with_reducible assumption
    | with_reducible intro _
    | with_reducible apply out_next
    | split
    | with_reducible refine drainAll_keeps u0 ?_
    | with_reducible refine dataRepaired_keeps u1 ?_

end Sys2Proof.Machine
end

