-- ==== Sys2Proof/Laws/FramesColls.lean ====
section
/-! SUPPORT. The parts of the state that the functions of Machine/Colls.lean may write. -/

namespace Sys2Proof.Machine

variable {κ : Nat} {s₀ : State}

theorem freshRow_keeps {c : Nat} {op : Nat} {ok : Cmd → Bool} {f : Cmd → State → Res State} {s : State} (hm : 13196354134208 &&& κ = 13196354134208) (hf : ∀ a0 a1, (Keeps κ s₀) a1 → RowInv (Keeps κ s₀) (f a0 a1)) (hs : (Keeps κ s₀) s) : (Keeps κ s₀) (freshRow c op ok f s) := by
  unfold freshRow
  repeat' first
    | with_reducible assumption
    | with_reducible intro _
    | with_reducible refine inv_ite ?_ ?_
    | with_reducible refine row_ite ?_ ?_
    | with_reducible refine res_ite ?_ ?_
    | with_reducible apply rowOk_inv
    | with_reducible apply rowFail_inv
    | with_reducible apply rowWait_inv
    | split
    | with_reducible refine settle_keeps hm ?_
    | with_reducible apply hf

theorem collRow_keeps {c : Nat} {op : Nat} {ok : Cmd → Bool} {f : Cmd → Coll → State → Res State} {s : State} (hm : 13196354134208 &&& κ = 13196354134208) (hf : ∀ a0 a1 a2, (Keeps κ s₀) a2 → RowInv (Keeps κ s₀) (f a0 a1 a2)) (hs : (Keeps κ s₀) s) : (Keeps κ s₀) (collRow c op ok f s) := by
  unfold collRow
  repeat' first
    | with_reducible assumption
    | with_reducible intro _
    | with_reducible apply rowOk_inv
    | with_reducible apply rowFail_inv
    | with_reducible apply rowWait_inv
    | split
    | with_reducible refine freshRow_keeps hm ?_ ?_
    | with_reducible apply hf

theorem execNop_keeps {c : Nat} {s : State} (hm : 13196354134208 &&& κ = 13196354134208)  (hs : (Keeps κ s₀) s) : OutInv (Keeps κ s₀) (execNop c s) := by
  have u0 : 13196354134016 &&& κ = 13196354134016 := sub_mask (by decide) hm
  unfold execNop
  repeat' first
    | with_reducible assumption
    | with_reducible intro _
    | with_reducible apply out_next
    | with_reducible apply rowOk_inv
    | with_reducible apply rowFail_inv
    | with_reducible apply rowWait_inv
    | split
    | with_reducible refine done_keeps u0 ?_
    | with_reducible refine freshRow_keeps hm ?_ ?_

theorem collCreate_keeps {x : Cmd} {s : State} (hm : 13197205577816 &&& κ = 13197205577816)  (hs : (Keeps κ s₀) s) : RowInv (Keeps κ s₀) (collCreate x s) := by
  have u0 : 8388608 &&& κ = 8388608 := sub_mask (by decide) hm
  have u1 : 33554432 &&& κ = 33554432 := sub_mask (by decide) hm
  have u2 : 41943040 &&& κ = 41943040 := sub_mask (by decide) hm
  have u3 : 4202584 &&& κ = 4202584 := sub_mask (by decide) hm
  have u4 : 4194376 &&& κ = 4194376 := sub_mask (by decide) hm
  have u5 : 13196622569472 &&& κ = 13196622569472 := sub_mask (by decide) hm
  have u6 : 813694984 &&& κ = 813694984 := sub_mask (by decide) hm
  have u7 : 0 &&& κ = 0 := sub_mask (by decide) hm
  unfold collCreate
  repeat' first
    | with_reducible assumption
    | with_reducible intro _
    | with_reducible refine row_ite ?_ ?_
    | with_reducible refine res_ite ?_ ?_
    | with_reducible refine inv_ite ?_ ?_
    | with_reducible apply ok_inv
    | with_reducible apply fail_inv
    | with_reducible apply wait_inv
    | with_reducible apply rowOk_inv
    | with_reducible apply rowFail_inv
    | with_reducible apply rowWait_inv
    | with_reducible refine row_andThen ?_ ?_
    | split
    | with_reducible refine res_andThen ?_ ?_
    | with_reducible refine writeDev_keeps u3 ?_
    | with_reducible refine readClean_keeps u4 ?_
    | with_reducible refine finishJournaled_keeps u5 ?_
    | with_reducible refine journalCmd_keeps u6 ?_
    | with_reducible refine failPlain_keeps u7 ?_
    | refine res_ok (by with_reducible assumption) ?_
    | refine res_fail (by with_reducible assumption) ?_
    | refine res_wait (by with_reducible assumption) ?_
    | refine row_ok (by with_reducible assumption) ?_
    | refine row_fail (by with_reducible assumption) ?_
    | refine row_wait (by with_reducible assumption) ?_
    | (dsimp only)
    | with_reducible refine upd_colls u0 ?_
    | with_reducible refine upd_tables u1 ?_
    | with_reducible refine upd_colls_tables u2 ?_

theorem execCollCreate_keeps {c : Nat} {s : State} (hm : 13197205710040 &&& κ = 13197205710040)  (hs : (Keeps κ s₀) s) : OutInv (Keeps κ s₀) (execCollCreate c s) := by
  have u0 : 4326616 &&& κ = 4326616 := sub_mask (by decide) hm
  have u1 : 13196354134208 &&& κ = 13196354134208 := sub_mask (by decide) hm
  have u2 : 13197205577816 &&& κ = 13197205577816 := sub_mask (by decide) hm
  unfold execCollCreate
  repeat' first
    | with_reducible assumption
    | with_reducible intro _
    | with_reducible apply out_next
    | with_reducible apply rowOk_inv
    | with_reducible apply rowFail_inv
    | with_reducible apply rowWait_inv
    | split
    | with_reducible refine drainAll_keeps u0 ?_
    | with_reducible refine freshRow_keeps u1 ?_ ?_
    | with_reducible refine collCreate_keeps u2 ?_

theorem collDrop_keeps {x : Cmd} {u0 : Coll} {s : State} (hm : 13197167829000 &&& κ = 13197167829000)  (hs : (Keeps κ s₀) s) : RowInv (Keeps κ s₀) (collDrop x u0 s) := by
  have u0 : 8388608 &&& κ = 8388608 := sub_mask (by decide) hm
  have u1 : 67108864 &&& κ = 67108864 := sub_mask (by decide) hm
  have u2 : 13196622569472 &&& κ = 13196622569472 := sub_mask (by decide) hm
  have u3 : 813694984 &&& κ = 813694984 := sub_mask (by decide) hm
  have u4 : 0 &&& κ = 0 := sub_mask (by decide) hm
  unfold collDrop
  repeat' first
    | with_reducible assumption
    | with_reducible intro _
    | with_reducible refine row_ite ?_ ?_
    | with_reducible refine res_ite ?_ ?_
    | with_reducible refine inv_ite ?_ ?_
    | with_reducible apply ok_inv
    | with_reducible apply fail_inv
    | with_reducible apply wait_inv
    | with_reducible apply rowOk_inv
    | with_reducible apply rowFail_inv
    | with_reducible apply rowWait_inv
    | with_reducible refine row_andThen ?_ ?_
    | split
    | with_reducible refine res_andThen ?_ ?_
    | with_reducible refine collMod_keeps u0 ?_
    | with_reducible refine freeStep_keeps u1 ?_
    | with_reducible refine finishJournaled_keeps u2 ?_
    | with_reducible refine journalCmd_keeps u3 ?_
    | with_reducible refine failAt_keeps u4 ?_

theorem execCollDrop_keeps {c : Nat} {s : State} (hm : 13197172155608 &&& κ = 13197172155608)  (hs : (Keeps κ s₀) s) : OutInv (Keeps κ s₀) (execCollDrop c s) := by
  have u0 : 4326616 &&& κ = 4326616 := sub_mask (by decide) hm
  have u1 : 13196354134208 &&& κ = 13196354134208 := sub_mask (by decide) hm
  have u2 : 13197167829000 &&& κ = 13197167829000 := sub_mask (by decide) hm
  unfold execCollDrop
  repeat' first
    | with_reducible assumption
    | with_reducible intro _
    | with_reducible apply out_next
    | with_reducible apply rowOk_inv
    | with_reducible apply rowFail_inv
    | with_reducible apply rowWait_inv
    | split
    | with_reducible refine drainAll_keeps u0 ?_
    | with_reducible refine collRow_keeps u1 ?_ ?_
    | with_reducible refine collDrop_keeps u2 ?_

theorem collQuery_keeps {x : Cmd} {k : Coll} {s : State} (hm : 13196358328408 &&& κ = 13196358328408)  (hs : (Keeps κ s₀) s) : RowInv (Keeps κ s₀) (collQuery x k s) := by
  have u0 : 4202584 &&& κ = 4202584 := sub_mask (by decide) hm
  have u1 : 13196354134016 &&& κ = 13196354134016 := sub_mask (by decide) hm
  unfold collQuery
  repeat' first
    | with_reducible assumption
    | with_reducible intro _
    | with_reducible apply ok_inv
    | with_reducible apply fail_inv
    | with_reducible apply wait_inv
    | with_reducible apply rowOk_inv
    | with_reducible apply rowFail_inv
    | with_reducible apply rowWait_inv
    | with_reducible refine row_andThen ?_ ?_
    | split
    | with_reducible refine res_andThen ?_ ?_
    | with_reducible refine writeDev_keeps u0 ?_
    | with_reducible refine done_keeps u1 ?_

theorem execCollQuery_keeps {c : Nat} {s : State} (hm : 13196358460632 &&& κ = 13196358460632)  (hs : (Keeps κ s₀) s) : OutInv (Keeps κ s₀) (execCollQuery c s) := by
  have u0 : 4326616 &&& κ = 4326616 := sub_mask (by decide) hm
  have u1 : 13196354134208 &&& κ = 13196354134208 := sub_mask (by decide) hm
  have u2 : 13196358328408 &&& κ = 13196358328408 := sub_mask (by decide) hm
  unfold execCollQuery
  repeat' first
    | with_reducible assumption
    | with_reducible intro _
    | with_reducible apply out_next
    | with_reducible apply rowOk_inv
    | with_reducible apply rowFail_inv
    | with_reducible apply rowWait_inv
    | split
    | with_reducible refine drainAll_keeps u0 ?_
    | with_reducible refine collRow_keeps u1 ?_ ?_
    | with_reducible refine collQuery_keeps u2 ?_

theorem configure_keeps {x : Cmd} {k : Coll} {s : State} (hm : 13197167829000 &&& κ = 13197167829000)  (hs : (Keeps κ s₀) s) : RowInv (Keeps κ s₀) (configure x k s) := by
  have u0 : 8388608 &&& κ = 8388608 := sub_mask (by decide) hm
  have u1 : 13196622569472 &&& κ = 13196622569472 := sub_mask (by decide) hm
  have u2 : 813694984 &&& κ = 813694984 := sub_mask (by decide) hm
  unfold configure
  repeat' first
    | with_reducible assumption
    | with_reducible intro _
    | with_reducible apply ok_inv
    | with_reducible apply fail_inv
    | with_reducible apply wait_inv
    | with_reducible apply rowOk_inv
    | with_reducible apply rowFail_inv
    | with_reducible apply rowWait_inv
    | with_reducible refine row_andThen ?_ ?_
    | split
    | with_reducible refine res_andThen ?_ ?_
    | with_reducible refine collMod_keeps u0 ?_
    | with_reducible refine finishJournaled_keeps u1 ?_
    | with_reducible refine journalCmd_keeps u2 ?_

theorem configPlacement_keeps {x : Cmd} {k : Coll} {s : State} (hm : 13197167829000 &&& κ = 13197167829000)  (hs : (Keeps κ s₀) s) : RowInv (Keeps κ s₀) (configPlacement x k s) := by
  have u0 : 0 &&& κ = 0 := sub_mask (by decide) hm
  unfold configPlacement
  repeat' first
    | with_reducible assumption
    | with_reducible intro _
    | with_reducible refine row_ite ?_ ?_
    | with_reducible refine res_ite ?_ ?_
    | with_reducible refine inv_ite ?_ ?_
    | with_reducible apply rowOk_inv
    | with_reducible apply rowFail_inv
    | with_reducible apply rowWait_inv
    | split
    | with_reducible refine failAt_keeps u0 ?_
    | with_reducible refine configure_keeps hm ?_

theorem execCollConfigPlacement_keeps {c : Nat} {s : State} (hm : 13197172155608 &&& κ = 13197172155608)  (hs : (Keeps κ s₀) s) : OutInv (Keeps κ s₀) (execCollConfigPlacement c s) := by
  have u0 : 4326616 &&& κ = 4326616 := sub_mask (by decide) hm
  have u1 : 13196354134208 &&& κ = 13196354134208 := sub_mask (by decide) hm
  have u2 : 13197167829000 &&& κ = 13197167829000 := sub_mask (by decide) hm
  unfold execCollConfigPlacement
  repeat' first
    | with_reducible assumption
    | with_reducible intro _
    | with_reducible apply out_next
    | with_reducible apply rowOk_inv
    | with_reducible apply rowFail_inv
    | with_reducible apply rowWait_inv
    | split
    | with_reducible refine drainAll_keeps u0 ?_
    | with_reducible refine collRow_keeps u1 ?_ ?_
    | with_reducible refine configPlacement_keeps u2 ?_

theorem configKind_keeps {x : Cmd} {k : Coll} {s : State} (hm : 13197201383432 &&& κ = 13197201383432) (hs : Keeps κ s₀ s) :
    RowInv (Keeps κ s₀) (configKind x k s) := by
  have ht : 33554432 &&& κ = 33554432 := sub_mask (by decide) hm
  unfold configKind
  refine row_ite (failAt_keeps (sub_mask (by decide) hm) hs) (row_ite (failPlain_keeps (sub_mask (by decide) hm) hs)
    (row_ite (failPlain_keeps (sub_mask (by decide) hm) hs) ?_))
  split
  · exact failPlain_keeps (sub_mask (by decide) hm) hs
  · have h := configure_keeps (x := x) (k := { k with indexKind := 2, building := true, buildGraph := k.indexKind = 0, entryTbl := ‹Nat› })
      (sub_mask (by decide) hm) hs
    dsimp only
    revert h
    generalize configure x _ s = r
    intro h
    cases h with
    | ok h => exact .ok (inv_ite (upd_tables ht h) h)
    | fail h => exact .fail h
    | wait h => exact .wait h

theorem execCollConfigIndexKind_keeps {c : Nat} {s : State} (hm : 13197205710040 &&& κ = 13197205710040)  (hs : (Keeps κ s₀) s) : OutInv (Keeps κ s₀) (execCollConfigIndexKind c s) := by
  have u0 : 4326616 &&& κ = 4326616 := sub_mask (by decide) hm
  have u1 : 13196354134208 &&& κ = 13196354134208 := sub_mask (by decide) hm
  have u2 : 13197201383432 &&& κ = 13197201383432 := sub_mask (by decide) hm
  unfold execCollConfigIndexKind
  repeat' first
    | with_reducible assumption
    | with_reducible intro _
    | with_reducible apply out_next
    | with_reducible apply rowOk_inv
    | with_reducible apply rowFail_inv
    | with_reducible apply rowWait_inv
    | split
    | with_reducible refine drainAll_keeps u0 ?_
    | with_reducible refine collRow_keeps u1 ?_ ?_
    | with_reducible refine configKind_keeps u2 ?_

theorem configRights_keeps {x : Cmd} {f : Nat → Nat → Nat} {k : Coll} {s : State} (hm : 13197167829000 &&& κ = 13197167829000)  (hs : (Keeps κ s₀) s) : RowInv (Keeps κ s₀) (configRights x f k s) := by
  have u0 : 0 &&& κ = 0 := sub_mask (by decide) hm
  unfold configRights
  repeat' first
    | with_reducible assumption
    | with_reducible intro _
    | with_reducible refine row_ite ?_ ?_
    | with_reducible refine res_ite ?_ ?_
    | with_reducible refine inv_ite ?_ ?_
    | with_reducible apply rowOk_inv
    | with_reducible apply rowFail_inv
    | with_reducible apply rowWait_inv
    | split
    | with_reducible refine failAt_keeps u0 ?_
    | with_reducible refine configure_keeps hm ?_

theorem execCollConfigGrant_keeps {c : Nat} {s : State} (hm : 13197172155608 &&& κ = 13197172155608)  (hs : (Keeps κ s₀) s) : OutInv (Keeps κ s₀) (execCollConfigGrant c s) := by
  have u0 : 4326616 &&& κ = 4326616 := sub_mask (by decide) hm
  have u1 : 13196354134208 &&& κ = 13196354134208 := sub_mask (by decide) hm
  have u2 : 13197167829000 &&& κ = 13197167829000 := sub_mask (by decide) hm
  unfold execCollConfigGrant
  repeat' first
    | with_reducible assumption
    | with_reducible intro _
    | with_reducible apply out_next
    | with_reducible apply rowOk_inv
    | with_reducible apply rowFail_inv
    | with_reducible apply rowWait_inv
    | split
    | with_reducible refine drainAll_keeps u0 ?_
    | with_reducible refine collRow_keeps u1 ?_ ?_
    | with_reducible refine configRights_keeps u2 ?_

theorem execCollConfigRevoke_keeps {c : Nat} {s : State} (hm : 13197172155608 &&& κ = 13197172155608)  (hs : (Keeps κ s₀) s) : OutInv (Keeps κ s₀) (execCollConfigRevoke c s) := by
  have u0 : 4326616 &&& κ = 4326616 := sub_mask (by decide) hm
  have u1 : 13196354134208 &&& κ = 13196354134208 := sub_mask (by decide) hm
  have u2 : 13197167829000 &&& κ = 13197167829000 := sub_mask (by decide) hm
  unfold execCollConfigRevoke
  repeat' first
    | with_reducible assumption
    | with_reducible intro _
    | with_reducible apply out_next
    | with_reducible apply rowOk_inv
    | with_reducible apply rowFail_inv
    | with_reducible apply rowWait_inv
    | split
    | with_reducible refine drainAll_keeps u0 ?_
    | with_reducible refine collRow_keeps u1 ?_ ?_
    | with_reducible refine configRights_keeps u2 ?_

theorem consolidateFold_keeps {x : Cmd} {u0 : Coll} {s : State} (hm : 13471777431624 &&& κ = 13471777431624)  (hs : (Keeps κ s₀) s) : RowInv (Keeps κ s₀) (consolidateFold x u0 s) := by
  have u0 : 8192 &&& κ = 8192 := sub_mask (by decide) hm
  unfold consolidateFold
  repeat' first
    | with_reducible assumption
    | with_reducible intro _
    | with_reducible apply rowOk_inv
    | with_reducible apply rowFail_inv
    | with_reducible apply rowWait_inv
    | split
    | with_reducible refine setWork_keeps u0 ?_
    | with_reducible refine foldStart_keeps hm ?_

theorem execConsolidateFold_keeps {c : Nat} {s : State} (hm : 13471781627096 &&& κ = 13471781627096)  (hs : (Keeps κ s₀) s) : OutInv (Keeps κ s₀) (execConsolidateFold c s) := by
  have u0 : 4326616 &&& κ = 4326616 := sub_mask (by decide) hm
  have u1 : 13196354134208 &&& κ = 13196354134208 := sub_mask (by decide) hm
  have u2 : 13471777431624 &&& κ = 13471777431624 := sub_mask (by decide) hm
  unfold execConsolidateFold
  repeat' first
    | with_reducible assumption
    | with_reducible intro _
    | with_reducible apply out_next
    | with_reducible apply rowOk_inv
    | with_reducible apply rowFail_inv
    | with_reducible apply rowWait_inv
    | split
    | with_reducible refine drainAll_keeps u0 ?_
    | with_reducible refine collRow_keeps u1 ?_ ?_
    | with_reducible refine consolidateFold_keeps u2 ?_

theorem consolidateCompact_keeps {x : Cmd} {u0 : Coll} {s : State} (hm : 13196362522624 &&& κ = 13196362522624)  (hs : (Keeps κ s₀) s) : RowInv (Keeps κ s₀) (consolidateCompact x u0 s) := by
  have u0 : 8192 &&& κ = 8192 := sub_mask (by decide) hm
  unfold consolidateCompact
  repeat' first
    | with_reducible assumption
    | with_reducible intro _
    | with_reducible apply rowOk_inv
    | with_reducible apply rowFail_inv
    | with_reducible apply rowWait_inv
    | split
    | with_reducible refine setWork_keeps u0 ?_
    | with_reducible refine compactionTrigger_keeps hm ?_

theorem execConsolidateCompact_keeps {c : Nat} {s : State} (hm : 13196366849240 &&& κ = 13196366849240)  (hs : (Keeps κ s₀) s) : OutInv (Keeps κ s₀) (execConsolidateCompact c s) := by
  have u0 : 4326616 &&& κ = 4326616 := sub_mask (by decide) hm
  have u1 : 13196354134208 &&& κ = 13196354134208 := sub_mask (by decide) hm
  have u2 : 13196362522624 &&& κ = 13196362522624 := sub_mask (by decide) hm
  unfold execConsolidateCompact
  repeat' first
    | with_reducible assumption
    | with_reducible intro _
    | with_reducible apply out_next
    | with_reducible apply rowOk_inv
    | with_reducible apply rowFail_inv
    | with_reducible apply rowWait_inv
    | split
    | with_reducible refine drainAll_keeps u0 ?_
    | with_reducible refine collRow_keeps u1 ?_ ?_
    | with_reducible refine consolidateCompact_keeps u2 ?_

theorem consolidateSet_keeps {x : Cmd} {k : Coll} {s : State} (hm : 13197167829000 &&& κ = 13197167829000)  (hs : (Keeps κ s₀) s) : RowInv (Keeps κ s₀) (consolidateSet x k s) := by
  unfold consolidateSet
  repeat' first
    | with_reducible assumption
    | with_reducible intro _
    | with_reducible refine row_ite ?_ ?_
    | with_reducible refine res_ite ?_ ?_
    | with_reducible refine inv_ite ?_ ?_
    | with_reducible apply rowOk_inv
    | with_reducible apply rowFail_inv
    | with_reducible apply rowWait_inv
    | split
    | with_reducible refine configure_keeps hm ?_

theorem execConsolidateSet_keeps {c : Nat} {s : State} (hm : 13197172155608 &&& κ = 13197172155608)  (hs : (Keeps κ s₀) s) : OutInv (Keeps κ s₀) (execConsolidateSet c s) := by
  have u0 : 4326616 &&& κ = 4326616 := sub_mask (by decide) hm
  have u1 : 13196354134208 &&& κ = 13196354134208 := sub_mask (by decide) hm
  have u2 : 13197167829000 &&& κ = 13197167829000 := sub_mask (by decide) hm
  unfold execConsolidateSet
  repeat' first
    | with_reducible assumption
    | with_reducible intro _
    | with_reducible apply out_next
    | with_reducible apply rowOk_inv
    | with_reducible apply rowFail_inv
    | with_reducible apply rowWait_inv
    | split
    | with_reducible refine drainAll_keeps u0 ?_
    | with_reducible refine collRow_keeps u1 ?_ ?_
    | with_reducible refine consolidateSet_keeps u2 ?_

theorem consolidateReport_keeps {x : Cmd} {k : Coll} {s : State} (hm : 13196358328408 &&& κ = 13196358328408)  (hs : (Keeps κ s₀) s) : RowInv (Keeps κ s₀) (consolidateReport x k s) := by
  have u0 : 4202584 &&& κ = 4202584 := sub_mask (by decide) hm
  have u1 : 13196354134016 &&& κ = 13196354134016 := sub_mask (by decide) hm
  unfold consolidateReport
  repeat' first
    | with_reducible assumption
    | with_reducible intro _
    | with_reducible apply ok_inv
    | with_reducible apply fail_inv
    | with_reducible apply wait_inv
    | with_reducible apply rowOk_inv
    | with_reducible apply rowFail_inv
    | with_reducible apply rowWait_inv
    | with_reducible refine row_andThen ?_ ?_
    | split
    | with_reducible refine res_andThen ?_ ?_
    | with_reducible refine writeDev_keeps u0 ?_
    | with_reducible refine done_keeps u1 ?_

theorem execConsolidateReport_keeps {c : Nat} {s : State} (hm : 13196358460632 &&& κ = 13196358460632)  (hs : (Keeps κ s₀) s) : OutInv (Keeps κ s₀) (execConsolidateReport c s) := by
  have u0 : 4326616 &&& κ = 4326616 := sub_mask (by decide) hm
  have u1 : 13196354134208 &&& κ = 13196354134208 := sub_mask (by decide) hm
  have u2 : 13196358328408 &&& κ = 13196358328408 := sub_mask (by decide) hm
  unfold execConsolidateReport
  repeat' first
    | with_reducible assumption
    | with_reducible intro _
    | with_reducible apply out_next
    | with_reducible apply rowOk_inv
    | with_reducible apply rowFail_inv
    | with_reducible apply rowWait_inv
    | split
    | with_reducible refine drainAll_keeps u0 ?_
    | with_reducible refine collRow_keeps u1 ?_ ?_
    | with_reducible refine consolidateReport_keeps u2 ?_

theorem reencode_keeps {x : Cmd} {k : Coll} {s : State} (hm : 13197167829000 &&& κ = 13197167829000)  (hs : (Keeps κ s₀) s) : RowInv (Keeps κ s₀) (reencode x k s) := by
  have u0 : 8388608 &&& κ = 8388608 := sub_mask (by decide) hm
  have u1 : 13196622569472 &&& κ = 13196622569472 := sub_mask (by decide) hm
  have u2 : 813694984 &&& κ = 813694984 := sub_mask (by decide) hm
  have u3 : 0 &&& κ = 0 := sub_mask (by decide) hm
  unfold reencode
  repeat' first
    | with_reducible assumption
    | with_reducible intro _
    | with_reducible refine row_ite ?_ ?_
    | with_reducible refine res_ite ?_ ?_
    | with_reducible refine inv_ite ?_ ?_
    | with_reducible apply ok_inv
    | with_reducible apply fail_inv
    | with_reducible apply wait_inv
    | with_reducible apply rowOk_inv
    | with_reducible apply rowFail_inv
    | with_reducible apply rowWait_inv
    | with_reducible refine row_andThen ?_ ?_
    | split
    | with_reducible refine res_andThen ?_ ?_
    | with_reducible refine collMod_keeps u0 ?_
    | with_reducible refine finishJournaled_keeps u1 ?_
    | with_reducible refine journalCmd_keeps u2 ?_
    | with_reducible refine failAt_keeps u3 ?_

theorem execReencode_keeps {c : Nat} {s : State} (hm : 13197172155608 &&& κ = 13197172155608)  (hs : (Keeps κ s₀) s) : OutInv (Keeps κ s₀) (execReencode c s) := by
  have u0 : 4326616 &&& κ = 4326616 := sub_mask (by decide) hm
  have u1 : 13196354134208 &&& κ = 13196354134208 := sub_mask (by decide) hm
  have u2 : 13197167829000 &&& κ = 13197167829000 := sub_mask (by decide) hm
  unfold execReencode
  repeat' first
    | with_reducible assumption
    | with_reducible intro _
    | with_reducible apply out_next
    | with_reducible apply rowOk_inv
    | with_reducible apply rowFail_inv
    | with_reducible apply rowWait_inv
    | split
    | with_reducible refine drainAll_keeps u0 ?_
    | with_reducible refine collRow_keeps u1 ?_ ?_
    | with_reducible refine reencode_keeps u2 ?_

theorem exportRow_keeps {x : Cmd} {c : Coll} {ds : List BlkData} {s : State} (hm : 13196358328536 &&& κ = 13196358328536)  (hs : (Keeps κ s₀) s) : RowInv (Keeps κ s₀) (exportRow x c ds s) := by
  have u0 : 13196354134016 &&& κ = 13196354134016 := sub_mask (by decide) hm
  have u1 : 4202584 &&& κ = 4202584 := sub_mask (by decide) hm
  have u2 : 4194376 &&& κ = 4194376 := sub_mask (by decide) hm
  have u3 : 13196354134208 &&& κ = 13196354134208 := sub_mask (by decide) hm
  unfold exportRow
  repeat' first
    | with_reducible assumption
    | with_reducible intro _
    | with_reducible refine row_ite ?_ ?_
    | with_reducible refine res_ite ?_ ?_
    | with_reducible refine inv_ite ?_ ?_
    | with_reducible apply ok_inv
    | with_reducible apply fail_inv
    | with_reducible apply wait_inv
    | with_reducible apply rowOk_inv
    | with_reducible apply rowFail_inv
    | with_reducible apply rowWait_inv
    | with_reducible refine row_andThen ?_ ?_
    | split
    | with_reducible refine res_andThen ?_ ?_
    | with_reducible refine done_keeps u0 ?_
    | with_reducible refine writeSpans_keeps u1 ?_
    | with_reducible refine checkSpans_keeps u2 ?_
    | with_reducible refine failPoison_keeps u3 ?_
    | refine res_ok (by with_reducible assumption) ?_
    | refine res_fail (by with_reducible assumption) ?_
    | refine res_wait (by with_reducible assumption) ?_
    | refine row_ok (by with_reducible assumption) ?_
    | refine row_fail (by with_reducible assumption) ?_
    | refine row_wait (by with_reducible assumption) ?_
    | (dsimp only)

theorem exportStart_keeps {x : Cmd} {u0 : Coll} {s : State} (hm : 13196358328536 &&& κ = 13196358328536)  (hs : (Keeps κ s₀) s) : RowInv (Keeps κ s₀) (exportStart x u0 s) := by
  have u0 : 13196354134016 &&& κ = 13196354134016 := sub_mask (by decide) hm
  unfold exportStart
  repeat' first
    | with_reducible assumption
    | with_reducible intro _
    | with_reducible refine row_ite ?_ ?_
    | with_reducible refine res_ite ?_ ?_
    | with_reducible refine inv_ite ?_ ?_
    | with_reducible apply rowOk_inv
    | with_reducible apply rowFail_inv
    | with_reducible apply rowWait_inv
    | split
    | with_reducible refine beginList_keeps u0 ?_
    | with_reducible refine exportRow_keeps hm ?_

theorem execExportCmd_keeps {c : Nat} {s : State} (hm : 13196358460632 &&& κ = 13196358460632)  (hs : (Keeps κ s₀) s) : OutInv (Keeps κ s₀) (execExportCmd c s) := by
  have u0 : 4326616 &&& κ = 4326616 := sub_mask (by decide) hm
  have u1 : 13196354134208 &&& κ = 13196354134208 := sub_mask (by decide) hm
  have u2 : 13196358328536 &&& κ = 13196358328536 := sub_mask (by decide) hm
  unfold execExportCmd
  repeat' first
    | with_reducible assumption
    | with_reducible intro _
    | with_reducible apply out_next
    | with_reducible apply rowOk_inv
    | with_reducible apply rowFail_inv
    | with_reducible apply rowWait_inv
    | split
    | with_reducible refine drainAll_keeps u0 ?_
    | with_reducible refine collRow_keeps u1 ?_ ?_
    | with_reducible refine exportStart_keeps u2 ?_

end Sys2Proof.Machine
end

