-- ==== Sys2Proof/Laws/FramesAdmin.lean ====
section
/-! SUPPORT. The parts of the state that the functions of Machine/Admin.lean may write. -/

namespace Sys2Proof.Machine

variable {κ : Nat} {s₀ : State}

theorem beginInval_keeps {n : Nat} {d : Nat} {base : Nat} {len : Nat} {cmd : Option Nat} {s : State} (hm : 2151686144 &&& κ = 2151686144)  (hs : (Keeps κ s₀) s) : (Keeps κ s₀) (beginInval n d base len cmd s) := by
  have u0 : 8192 &&& κ = 8192 := sub_mask (by decide) hm
  have u1 : 2147483648 &&& κ = 2147483648 := sub_mask (by decide) hm
  have u2 : 4194304 &&& κ = 4194304 := sub_mask (by decide) hm
  unfold beginInval
  repeat' first
    | with_reducible assumption
    | with_reducible intro _
    | with_reducible refine inv_ite ?_ ?_
    | split
    | with_reducible refine advanceEpoch_keeps u1 ?_
    | with_reducible refine crookMod_keeps u2 ?_
    | (dsimp only)
    | with_reducible refine upd_cmds u0 ?_

theorem xlatInvalidate_keeps {x : Cmd} {s : State} (hm : 2151686144 &&& κ = 2151686144)  (hs : (Keeps κ s₀) s) : RowInv (Keeps κ s₀) (xlatInvalidate x s) := by
  have u0 : 8192 &&& κ = 8192 := sub_mask (by decide) hm
  have u1 : 0 &&& κ = 0 := sub_mask (by decide) hm
  unfold xlatInvalidate
  repeat' first
    | with_reducible assumption
    | with_reducible intro _
    | with_reducible refine row_ite ?_ ?_
    | with_reducible refine res_ite ?_ ?_
    | with_reducible refine inv_ite ?_ ?_
    | with_reducible apply rowOk_inv
    | with_reducible apply rowFail_inv
    | with_reducible apply rowWait_inv
    | split
    | with_reducible refine setWork_keeps u0 ?_
    | with_reducible refine failAt_keeps u1 ?_
    | with_reducible refine beginInval_keeps hm ?_

theorem execXlatInvalidate_keeps {c : Nat} {s : State} (hm : 13196358460632 &&& κ = 13196358460632)  (hs : (Keeps κ s₀) s) : OutInv (Keeps κ s₀) (execXlatInvalidate c s) := by
  have u0 : 4326616 &&& κ = 4326616 := sub_mask (by decide) hm
  have u1 : 13196354134208 &&& κ = 13196354134208 := sub_mask (by decide) hm
  have u2 : 2151686144 &&& κ = 2151686144 := sub_mask (by decide) hm
  unfold execXlatInvalidate
  repeat' first
    | with_reducible assumption
    | with_reducible intro _
    | with_reducible apply out_next
    | with_reducible apply rowOk_inv
    | with_reducible apply rowFail_inv
    | with_reducible apply rowWait_inv
    | split
    | with_reducible refine drainAll_keeps u0 ?_
    | with_reducible refine freshRow_keeps u1 ?_ ?_
    | with_reducible refine xlatInvalidate_keeps u2 ?_

theorem regionRegister_keeps {x : Cmd} {s : State} (hm : 13196354134016 &&& κ = 13196354134016)  (hs : (Keeps κ s₀) s) : RowInv (Keeps κ s₀) (regionRegister x s) := by
  have u1 : 0 &&& κ = 0 := sub_mask (by decide) hm
  unfold regionRegister
  repeat' first
    | with_reducible assumption
    | with_reducible intro _
    | with_reducible refine row_ite ?_ ?_
    | with_reducible refine res_ite ?_ ?_
    | with_reducible refine inv_ite ?_ ?_
    | with_reducible apply rowOk_inv
    | with_reducible apply rowFail_inv
    | with_reducible apply rowWait_inv
    | split
    | with_reducible refine done_keeps hm ?_
    | with_reducible refine failAt_keeps u1 ?_

theorem execRegionRegister_keeps {c : Nat} {s : State} (hm : 13196358460632 &&& κ = 13196358460632)  (hs : (Keeps κ s₀) s) : OutInv (Keeps κ s₀) (execRegionRegister c s) := by
  have u0 : 4326616 &&& κ = 4326616 := sub_mask (by decide) hm
  have u1 : 13196354134208 &&& κ = 13196354134208 := sub_mask (by decide) hm
  have u2 : 13196354134016 &&& κ = 13196354134016 := sub_mask (by decide) hm
  unfold execRegionRegister
  repeat' first
    | with_reducible assumption
    | with_reducible intro _
    | with_reducible apply out_next
    | with_reducible apply rowOk_inv
    | with_reducible apply rowFail_inv
    | with_reducible apply rowWait_inv
    | split
    | with_reducible refine drainAll_keeps u0 ?_
    | with_reducible refine freshRow_keeps u1 ?_ ?_
    | with_reducible refine regionRegister_keeps u2 ?_

theorem regionRelease_keeps {x : Cmd} {s : State} (hm : 2153783296 &&& κ = 2153783296)  (hs : (Keeps κ s₀) s) : RowInv (Keeps κ s₀) (regionRelease x s) := by
  have u0 : 8192 &&& κ = 8192 := sub_mask (by decide) hm
  have u1 : 2097152 &&& κ = 2097152 := sub_mask (by decide) hm
  have u2 : 0 &&& κ = 0 := sub_mask (by decide) hm
  have u3 : 2151686144 &&& κ = 2151686144 := sub_mask (by decide) hm
  unfold regionRelease
  repeat' first
    | with_reducible assumption
    | with_reducible intro _
    | with_reducible refine row_ite ?_ ?_
    | with_reducible refine res_ite ?_ ?_
    | with_reducible refine inv_ite ?_ ?_
    | with_reducible apply rowOk_inv
    | with_reducible apply rowFail_inv
    | with_reducible apply rowWait_inv
    | split
    | with_reducible refine setWork_keeps u0 ?_
    | with_reducible refine domMod_keeps u1 ?_
    | with_reducible refine failAt_keeps u2 ?_
    | with_reducible refine beginInval_keeps u3 ?_
    | refine row_ok (by with_reducible assumption) ?_
    | refine row_fail (by with_reducible assumption) ?_
    | refine row_wait (by with_reducible assumption) ?_
    | (dsimp only)

theorem execRegionRelease_keeps {c : Nat} {s : State} (hm : 13196360557784 &&& κ = 13196360557784)  (hs : (Keeps κ s₀) s) : OutInv (Keeps κ s₀) (execRegionRelease c s) := by
  have u0 : 4326616 &&& κ = 4326616 := sub_mask (by decide) hm
  have u1 : 13196354134208 &&& κ = 13196354134208 := sub_mask (by decide) hm
  have u2 : 2153783296 &&& κ = 2153783296 := sub_mask (by decide) hm
  unfold execRegionRelease
  repeat' first
    | with_reducible assumption
    | with_reducible intro _
    | with_reducible apply out_next
    | with_reducible apply rowOk_inv
    | with_reducible apply rowFail_inv
    | with_reducible apply rowWait_inv
    | split
    | with_reducible refine drainAll_keeps u0 ?_
    | with_reducible refine freshRow_keeps u1 ?_ ?_
    | with_reducible refine regionRelease_keeps u2 ?_

theorem readDeferred_keeps {x : Cmd} {s : State} (hm : 13197174120536 &&& κ = 13197174120536)  (hs : (Keeps κ s₀) s) : RowInv (Keeps κ s₀) (readDeferred x s) := by
  have u0 : 2097152 &&& κ = 2097152 := sub_mask (by decide) hm
  have u1 : 4202584 &&& κ = 4202584 := sub_mask (by decide) hm
  have u2 : 13196622569472 &&& κ = 13196622569472 := sub_mask (by decide) hm
  have u3 : 813694984 &&& κ = 813694984 := sub_mask (by decide) hm
  have u4 : 0 &&& κ = 0 := sub_mask (by decide) hm
  unfold readDeferred
  repeat' first
    | with_reducible assumption
    | with_reducible intro _
    | with_reducible apply ok_inv
    | with_reducible apply fail_inv
    | with_reducible apply wait_inv
    | with_reducible apply rowOk_inv
    | with_reducible apply rowFail_inv
    | with_reducible apply rowWait_inv
    | with_reducible refine row_andThen ?_ ?_
    | split
    | with_reducible refine res_andThen ?_ ?_
    | with_reducible refine domMod_keeps u0 ?_
    | with_reducible refine writeDev_keeps u1 ?_
    | with_reducible refine finishJournaled_keeps u2 ?_
    | with_reducible refine journalCmd_keeps u3 ?_
    | with_reducible refine failAt_keeps u4 ?_
    | refine res_ok (by with_reducible assumption) ?_
    | refine res_fail (by with_reducible assumption) ?_
    | refine res_wait (by with_reducible assumption) ?_
    | refine row_ok (by with_reducible assumption) ?_
    | refine row_fail (by with_reducible assumption) ?_
    | refine row_wait (by with_reducible assumption) ?_
    | (dsimp only)

theorem execReadDeferred_keeps {c : Nat} {s : State} (hm : 13197174252760 &&& κ = 13197174252760)  (hs : (Keeps κ s₀) s) : OutInv (Keeps κ s₀) (execReadDeferred c s) := by
  have u0 : 4326616 &&& κ = 4326616 := sub_mask (by decide) hm
  have u1 : 13196354134208 &&& κ = 13196354134208 := sub_mask (by decide) hm
  have u2 : 13197174120536 &&& κ = 13197174120536 := sub_mask (by decide) hm
  unfold execReadDeferred
  repeat' first
    | with_reducible assumption
    | with_reducible intro _
    | with_reducible apply out_next
    | with_reducible apply rowOk_inv
    | with_reducible apply rowFail_inv
    | with_reducible apply rowWait_inv
    | split
    | with_reducible refine drainAll_keeps u0 ?_
    | with_reducible refine freshRow_keeps u1 ?_ ?_
    | with_reducible refine readDeferred_keeps u2 ?_

theorem readLog_keeps {x : Cmd} {s : State} (hm : 13196358328408 &&& κ = 13196358328408)  (hs : (Keeps κ s₀) s) : RowInv (Keeps κ s₀) (readLog x s) := by
  have u0 : 4202584 &&& κ = 4202584 := sub_mask (by decide) hm
  have u1 : 13196354134016 &&& κ = 13196354134016 := sub_mask (by decide) hm
  unfold readLog
  repeat' first
    | with_reducible assumption
    | with_reducible intro _
    | with_reducible apply ok_inv
    | with_reducible apply fail_inv
    | with_reducible apply wait_inv
    | with_reducible apply rowOk_inv
    | with_reducible apply rowFail_inv
    | with_reducible apply rowWait_inv
    | with_reducible refine row_andThen ?_ ?_
    | split
    | with_reducible refine res_andThen ?_ ?_
    | with_reducible refine writeDev_keeps u0 ?_
    | with_reducible refine done_keeps u1 ?_

theorem execReadLog_keeps {c : Nat} {s : State} (hm : 13196358460632 &&& κ = 13196358460632)  (hs : (Keeps κ s₀) s) : OutInv (Keeps κ s₀) (execReadLog c s) := by
  have u0 : 4326616 &&& κ = 4326616 := sub_mask (by decide) hm
  have u1 : 13196354134208 &&& κ = 13196354134208 := sub_mask (by decide) hm
  have u2 : 13196358328408 &&& κ = 13196358328408 := sub_mask (by decide) hm
  unfold execReadLog
  repeat' first
    | with_reducible assumption
    | with_reducible intro _
    | with_reducible apply out_next
    | with_reducible apply rowOk_inv
    | with_reducible apply rowFail_inv
    | with_reducible apply rowWait_inv
    | split
    | with_reducible refine drainAll_keeps u0 ?_
    | with_reducible refine freshRow_keeps u1 ?_ ?_
    | with_reducible refine readLog_keeps u2 ?_

theorem domainCreate_keeps {x : Cmd} {s : State} (hm : 13197169926152 &&& κ = 13197169926152)  (hs : (Keeps κ s₀) s) : RowInv (Keeps κ s₀) (domainCreate x s) := by
  have u0 : 2097152 &&& κ = 2097152 := sub_mask (by decide) hm
  have u1 : 13196622569472 &&& κ = 13196622569472 := sub_mask (by decide) hm
  have u2 : 813694984 &&& κ = 813694984 := sub_mask (by decide) hm
  have u3 : 0 &&& κ = 0 := sub_mask (by decide) hm
  unfold domainCreate
  repeat' first
    | with_reducible assumption
    | with_reducible intro _
    | with_reducible refine row_ite ?_ ?_
    | with_reducible refine res_ite ?_ ?_
    | with_reducible refine inv_ite ?_ ?_
    | with_reducible apply ok_inv
    | with_reducible apply fail_inv
    | with_reducible apply wait_inv
    | with_reducible apply rowOk_inv
    | with_reducible apply rowFail_inv
    | with_reducible apply rowWait_inv
    | with_reducible refine row_andThen ?_ ?_
    | split
    | with_reducible refine res_andThen ?_ ?_
    | with_reducible refine finishJournaled_keeps u1 ?_
    | with_reducible refine journalCmd_keeps u2 ?_
    | with_reducible refine failAt_keeps u3 ?_
    | refine res_ok (by with_reducible assumption) ?_
    | refine res_fail (by with_reducible assumption) ?_
    | refine res_wait (by with_reducible assumption) ?_
    | refine row_ok (by with_reducible assumption) ?_
    | refine row_fail (by with_reducible assumption) ?_
    | refine row_wait (by with_reducible assumption) ?_
    | (dsimp only)
    | with_reducible refine upd_domains u0 ?_

theorem execDomainCreate_keeps {c : Nat} {s : State} (hm : 13197174252760 &&& κ = 13197174252760)  (hs : (Keeps κ s₀) s) : OutInv (Keeps κ s₀) (execDomainCreate c s) := by
  have u0 : 4326616 &&& κ = 4326616 := sub_mask (by decide) hm
  have u1 : 13196354134208 &&& κ = 13196354134208 := sub_mask (by decide) hm
  have u2 : 13197169926152 &&& κ = 13197169926152 := sub_mask (by decide) hm
  unfold execDomainCreate
  repeat' first
    | with_reducible assumption
    | with_reducible intro _
    | with_reducible apply out_next
    | with_reducible apply rowOk_inv
    | with_reducible apply rowFail_inv
    | with_reducible apply rowWait_inv
    | split
    | with_reducible refine drainAll_keeps u0 ?_
    | with_reducible refine freshRow_keeps u1 ?_ ?_
    | with_reducible refine domainCreate_keeps u2 ?_

theorem forgetDomain_keeps {d : Nat} {s : State} (hm : 4194304 &&& κ = 4194304)  (hs : (Keeps κ s₀) s) : (Keeps κ s₀) (forgetDomain d s) := by
  unfold forgetDomain
  repeat' first
    | with_reducible assumption
    | with_reducible intro _
    | with_reducible refine inv_ite ?_ ?_
    | split
    | with_reducible refine crookMod_keeps hm ?_

theorem domainDestroy_keeps {x : Cmd} {s : State} (hm : 13197174120456 &&& κ = 13197174120456)  (hs : (Keeps κ s₀) s) : RowInv (Keeps κ s₀) (domainDestroy x s) := by
  have u0 : 2097152 &&& κ = 2097152 := sub_mask (by decide) hm
  have u1 : 13196622569472 &&& κ = 13196622569472 := sub_mask (by decide) hm
  have u2 : 813694984 &&& κ = 813694984 := sub_mask (by decide) hm
  have u3 : 0 &&& κ = 0 := sub_mask (by decide) hm
  have u4 : 4194304 &&& κ = 4194304 := sub_mask (by decide) hm
  unfold domainDestroy
  repeat' first
    | with_reducible assumption
    | with_reducible intro _
    | with_reducible refine row_ite ?_ ?_
    | with_reducible refine res_ite ?_ ?_
    | with_reducible refine inv_ite ?_ ?_
    | with_reducible apply ok_inv
    | with_reducible apply fail_inv
    | with_reducible apply wait_inv
    | with_reducible apply rowOk_inv
    | with_reducible apply rowFail_inv
    | with_reducible apply rowWait_inv
    | with_reducible refine row_andThen ?_ ?_
    | split
    | with_reducible refine res_andThen ?_ ?_
    | with_reducible refine finishJournaled_keeps u1 ?_
    | with_reducible refine journalCmd_keeps u2 ?_
    | with_reducible refine failAt_keeps u3 ?_
    | with_reducible refine forgetDomain_keeps u4 ?_
    | refine res_ok (by with_reducible assumption) ?_
    | refine res_fail (by with_reducible assumption) ?_
    | refine res_wait (by with_reducible assumption) ?_
    | refine row_ok (by with_reducible assumption) ?_
    | refine row_fail (by with_reducible assumption) ?_
    | refine row_wait (by with_reducible assumption) ?_
    | (dsimp only)
    | with_reducible refine upd_domains u0 ?_

theorem execDomainDestroy_keeps {c : Nat} {s : State} (hm : 13197174252760 &&& κ = 13197174252760)  (hs : (Keeps κ s₀) s) : OutInv (Keeps κ s₀) (execDomainDestroy c s) := by
  have u0 : 4326616 &&& κ = 4326616 := sub_mask (by decide) hm
  have u1 : 13196354134208 &&& κ = 13196354134208 := sub_mask (by decide) hm
  have u2 : 13197174120456 &&& κ = 13197174120456 := sub_mask (by decide) hm
  unfold execDomainDestroy
  repeat' first
    | with_reducible assumption
    | with_reducible intro _
    | with_reducible apply out_next
    | with_reducible apply rowOk_inv
    | with_reducible apply rowFail_inv
    | with_reducible apply rowWait_inv
    | split
    | with_reducible refine drainAll_keeps u0 ?_
    | with_reducible refine freshRow_keeps u1 ?_ ?_
    | with_reducible refine domainDestroy_keeps u2 ?_

theorem queueCreate_keeps {x : Cmd} {s : State} (hm : 13196354138112 &&& κ = 13196354138112)  (hs : (Keeps κ s₀) s) : RowInv (Keeps κ s₀) (queueCreate x s) := by
  have u0 : 4096 &&& κ = 4096 := sub_mask (by decide) hm
  have u1 : 13196354134016 &&& κ = 13196354134016 := sub_mask (by decide) hm
  have u2 : 0 &&& κ = 0 := sub_mask (by decide) hm
  unfold queueCreate
  repeat' first
    | with_reducible assumption
    | with_reducible intro _
    | with_reducible refine row_ite ?_ ?_
    | with_reducible refine res_ite ?_ ?_
    | with_reducible refine inv_ite ?_ ?_
    | with_reducible apply rowOk_inv
    | with_reducible apply rowFail_inv
    | with_reducible apply rowWait_inv
    | split
    | with_reducible refine done_keeps u1 ?_
    | with_reducible refine failPlain_keeps u2 ?_
    | with_reducible refine failAt_keeps u2 ?_
    | refine row_ok (by with_reducible assumption) ?_
    | refine row_fail (by with_reducible assumption) ?_
    | refine row_wait (by with_reducible assumption) ?_
    | (dsimp only)
    | with_reducible refine upd_queues u0 ?_

theorem execQueueCreate_keeps {c : Nat} {s : State} (hm : 13196358464728 &&& κ = 13196358464728)  (hs : (Keeps κ s₀) s) : OutInv (Keeps κ s₀) (execQueueCreate c s) := by
  have u0 : 4326616 &&& κ = 4326616 := sub_mask (by decide) hm
  have u1 : 13196354134208 &&& κ = 13196354134208 := sub_mask (by decide) hm
  have u2 : 13196354138112 &&& κ = 13196354138112 := sub_mask (by decide) hm
  unfold execQueueCreate
  repeat' first
    | with_reducible assumption
    | with_reducible intro _
    | with_reducible apply out_next
    | with_reducible apply rowOk_inv
    | with_reducible apply rowFail_inv
    | with_reducible apply rowWait_inv
    | split
    | with_reducible refine drainAll_keeps u0 ?_
    | with_reducible refine freshRow_keeps u1 ?_ ?_
    | with_reducible refine queueCreate_keeps u2 ?_

theorem abortAll_keeps {f : Cmd → Bool} {s : State} (hm : 13196354134016 &&& κ = 13196354134016)  (hs : (Keeps κ s₀) s) : (Keeps κ s₀) (abortAll f s) := by
  have u1 : 8192 &&& κ = 8192 := sub_mask (by decide) hm
  unfold abortAll
  repeat' first
    | with_reducible assumption
    | with_reducible intro _
    | split
    | with_reducible refine inv_foldl ?_ ?_
    | with_reducible refine finish_keeps hm ?_
    | with_reducible refine takeTurn_keeps u1 ?_

theorem queueDestroy_keeps {x : Cmd} {s : State} (hm : 13196354138304 &&& κ = 13196354138304)  (hs : (Keeps κ s₀) s) : (Keeps κ s₀) (queueDestroy x s) := by
  have u0 : 4096 &&& κ = 4096 := sub_mask (by decide) hm
  have u1 : 8192 &&& κ = 8192 := sub_mask (by decide) hm
  have u2 : 13196354134016 &&& κ = 13196354134016 := sub_mask (by decide) hm
  have u3 : 13196354134208 &&& κ = 13196354134208 := sub_mask (by decide) hm
  have u4 : 0 &&& κ = 0 := sub_mask (by decide) hm
  unfold queueDestroy
  repeat' first
    | with_reducible assumption
    | with_reducible intro _
    | with_reducible refine inv_ite ?_ ?_
    | with_reducible refine row_ite ?_ ?_
    | with_reducible refine res_ite ?_ ?_
    | with_reducible apply rowOk_inv
    | with_reducible apply rowFail_inv
    | with_reducible apply rowWait_inv
    | split
    | with_reducible refine setWork_keeps u1 ?_
    | with_reducible refine finish_keeps u2 ?_
    | with_reducible refine settle_keeps u3 ?_
    | with_reducible refine failAt_keeps u4 ?_
    | with_reducible refine abortAll_keeps u2 ?_
    | refine row_ok (by with_reducible assumption) ?_
    | refine row_fail (by with_reducible assumption) ?_
    | refine row_wait (by with_reducible assumption) ?_
    | (dsimp only)
    | with_reducible refine upd_queues u0 ?_

theorem execQueueDestroy_keeps {c : Nat} {s : State} (hm : 13196358464728 &&& κ = 13196358464728)  (hs : (Keeps κ s₀) s) : OutInv (Keeps κ s₀) (execQueueDestroy c s) := by
  have u0 : 4326616 &&& κ = 4326616 := sub_mask (by decide) hm
  have u1 : 13196354138304 &&& κ = 13196354138304 := sub_mask (by decide) hm
  unfold execQueueDestroy
  repeat' first
    | with_reducible assumption
    | with_reducible intro _
    | with_reducible refine out_ite ?_ ?_
    | with_reducible refine inv_ite ?_ ?_
    | with_reducible apply out_next
    | split
    | with_reducible refine drainAll_keeps u0 ?_
    | with_reducible refine queueDestroy_keeps u1 ?_

theorem cqCreate_keeps {x : Cmd} {s : State} (hm : 13196354199552 &&& κ = 13196354199552)  (hs : (Keeps κ s₀) s) : RowInv (Keeps κ s₀) (cqCreate x s) := by
  have u0 : 65536 &&& κ = 65536 := sub_mask (by decide) hm
  have u1 : 13196354134016 &&& κ = 13196354134016 := sub_mask (by decide) hm
  have u2 : 0 &&& κ = 0 := sub_mask (by decide) hm
  unfold cqCreate
  repeat' first
    | with_reducible assumption
    | with_reducible intro _
    | with_reducible refine row_ite ?_ ?_
    | with_reducible refine res_ite ?_ ?_
    | with_reducible refine inv_ite ?_ ?_
    | with_reducible apply rowOk_inv
    | with_reducible apply rowFail_inv
    | with_reducible apply rowWait_inv
    | split
    | with_reducible refine done_keeps u1 ?_
    | with_reducible refine failAt_keeps u2 ?_
    | refine row_ok (by with_reducible assumption) ?_
    | refine row_fail (by with_reducible assumption) ?_
    | refine row_wait (by with_reducible assumption) ?_
    | (dsimp only)
    | with_reducible refine upd_rings u0 ?_

theorem execCqCreate_keeps {c : Nat} {s : State} (hm : 13196358526168 &&& κ = 13196358526168)  (hs : (Keeps κ s₀) s) : OutInv (Keeps κ s₀) (execCqCreate c s) := by
  have u0 : 4326616 &&& κ = 4326616 := sub_mask (by decide) hm
  have u1 : 13196354134208 &&& κ = 13196354134208 := sub_mask (by decide) hm
  have u2 : 13196354199552 &&& κ = 13196354199552 := sub_mask (by decide) hm
  unfold execCqCreate
  repeat' first
    | with_reducible assumption
    | with_reducible intro _
    | with_reducible apply out_next
    | with_reducible apply rowOk_inv
    | with_reducible apply rowFail_inv
    | with_reducible apply rowWait_inv
    | split
    | with_reducible refine drainAll_keeps u0 ?_
    | with_reducible refine freshRow_keeps u1 ?_ ?_
    | with_reducible refine cqCreate_keeps u2 ?_

theorem cqDestroy_keeps {x : Cmd} {s : State} (hm : 13196354199552 &&& κ = 13196354199552)  (hs : (Keeps κ s₀) s) : RowInv (Keeps κ s₀) (cqDestroy x s) := by
  have u0 : 65536 &&& κ = 65536 := sub_mask (by decide) hm
  have u1 : 13196354134016 &&& κ = 13196354134016 := sub_mask (by decide) hm
  have u2 : 0 &&& κ = 0 := sub_mask (by decide) hm
  unfold cqDestroy
  repeat' first
    | with_reducible assumption
    | with_reducible intro _
    | with_reducible refine row_ite ?_ ?_
    | with_reducible refine res_ite ?_ ?_
    | with_reducible refine inv_ite ?_ ?_
    | with_reducible apply rowOk_inv
    | with_reducible apply rowFail_inv
    | with_reducible apply rowWait_inv
    | split
    | with_reducible refine done_keeps u1 ?_
    | with_reducible refine failAt_keeps u2 ?_
    | refine row_ok (by with_reducible assumption) ?_
    | refine row_fail (by with_reducible assumption) ?_
    | refine row_wait (by with_reducible assumption) ?_
    | (dsimp only)
    | with_reducible refine upd_rings u0 ?_

theorem execCqDestroy_keeps {c : Nat} {s : State} (hm : 13196358526168 &&& κ = 13196358526168)  (hs : (Keeps κ s₀) s) : OutInv (Keeps κ s₀) (execCqDestroy c s) := by
  have u0 : 4326616 &&& κ = 4326616 := sub_mask (by decide) hm
  have u1 : 13196354134208 &&& κ = 13196354134208 := sub_mask (by decide) hm
  have u2 : 13196354199552 &&& κ = 13196354199552 := sub_mask (by decide) hm
  unfold execCqDestroy
  repeat' first
    | with_reducible assumption
    | with_reducible intro _
    | with_reducible apply out_next
    | with_reducible apply rowOk_inv
    | with_reducible apply rowFail_inv
    | with_reducible apply rowWait_inv
    | split
    | with_reducible refine drainAll_keeps u0 ?_
    | with_reducible refine freshRow_keeps u1 ?_ ?_
    | with_reducible refine cqDestroy_keeps u2 ?_

theorem cqEnable_keeps {x : Cmd} {s : State} (hm : 13196354199552 &&& κ = 13196354199552)  (hs : (Keeps κ s₀) s) : RowInv (Keeps κ s₀) (cqEnable x s) := by
  have u0 : 65536 &&& κ = 65536 := sub_mask (by decide) hm
  have u1 : 13196354134016 &&& κ = 13196354134016 := sub_mask (by decide) hm
  have u2 : 0 &&& κ = 0 := sub_mask (by decide) hm
  unfold cqEnable
  repeat' first
    | with_reducible assumption
    | with_reducible intro _
    | with_reducible refine row_ite ?_ ?_
    | with_reducible refine res_ite ?_ ?_
    | with_reducible refine inv_ite ?_ ?_
    | with_reducible apply rowOk_inv
    | with_reducible apply rowFail_inv
    | with_reducible apply rowWait_inv
    | split
    | with_reducible refine done_keeps u1 ?_
    | with_reducible refine failAt_keeps u2 ?_
    | refine row_ok (by with_reducible assumption) ?_
    | refine row_fail (by with_reducible assumption) ?_
    | refine row_wait (by with_reducible assumption) ?_
    | (dsimp only)
    | with_reducible refine upd_rings u0 ?_

theorem execCqEnable_keeps {c : Nat} {s : State} (hm : 13196358526168 &&& κ = 13196358526168)  (hs : (Keeps κ s₀) s) : OutInv (Keeps κ s₀) (execCqEnable c s) := by
  have u0 : 4326616 &&& κ = 4326616 := sub_mask (by decide) hm
  have u1 : 13196354134208 &&& κ = 13196354134208 := sub_mask (by decide) hm
  have u2 : 13196354199552 &&& κ = 13196354199552 := sub_mask (by decide) hm
  unfold execCqEnable
  repeat' first
    | with_reducible assumption
    | with_reducible intro _
    | with_reducible apply out_next
    | with_reducible apply rowOk_inv
    | with_reducible apply rowFail_inv
    | with_reducible apply rowWait_inv
    | split
    | with_reducible refine drainAll_keeps u0 ?_
    | with_reducible refine freshRow_keeps u1 ?_ ?_
    | with_reducible refine cqEnable_keeps u2 ?_

theorem classConfig_keeps {x : Cmd} {s : State} (hm : 13196354134016 &&& κ = 13196354134016)  (hs : (Keeps κ s₀) s) : RowInv (Keeps κ s₀) (classConfig x s) := by
  unfold classConfig
  repeat' first
    | with_reducible assumption
    | with_reducible intro _
    | with_reducible apply rowOk_inv
    | with_reducible apply rowFail_inv
    | with_reducible apply rowWait_inv
    | split
    | with_reducible refine done_keeps hm ?_

theorem execClassConfig_keeps {c : Nat} {s : State} (hm : 13196358460632 &&& κ = 13196358460632)  (hs : (Keeps κ s₀) s) : OutInv (Keeps κ s₀) (execClassConfig c s) := by
  have u0 : 4326616 &&& κ = 4326616 := sub_mask (by decide) hm
  have u1 : 13196354134208 &&& κ = 13196354134208 := sub_mask (by decide) hm
  have u2 : 13196354134016 &&& κ = 13196354134016 := sub_mask (by decide) hm
  unfold execClassConfig
  repeat' first
    | with_reducible assumption
    | with_reducible intro _
    | with_reducible apply out_next
    | with_reducible apply rowOk_inv
    | with_reducible apply rowFail_inv
    | with_reducible apply rowWait_inv
    | split
    | with_reducible refine drainAll_keeps u0 ?_
    | with_reducible refine freshRow_keeps u1 ?_ ?_
    | with_reducible refine classConfig_keeps u2 ?_

theorem abort_keeps {x : Cmd} {s : State} (hm : 13196354134016 &&& κ = 13196354134016)  (hs : (Keeps κ s₀) s) : RowInv (Keeps κ s₀) (abort x s) := by
  have u1 : 0 &&& κ = 0 := sub_mask (by decide) hm
  unfold abort
  repeat' first
    | with_reducible assumption
    | with_reducible intro _
    | with_reducible refine row_ite ?_ ?_
    | with_reducible refine res_ite ?_ ?_
    | with_reducible refine inv_ite ?_ ?_
    | with_reducible apply rowOk_inv
    | with_reducible apply rowFail_inv
    | with_reducible apply rowWait_inv
    | split
    | with_reducible refine done_keeps hm ?_
    | with_reducible refine failAt_keeps u1 ?_
    | with_reducible refine abortAll_keeps hm ?_

theorem execAbort_keeps {c : Nat} {s : State} (hm : 13196358460632 &&& κ = 13196358460632)  (hs : (Keeps κ s₀) s) : OutInv (Keeps κ s₀) (execAbort c s) := by
  have u0 : 4326616 &&& κ = 4326616 := sub_mask (by decide) hm
  have u1 : 13196354134208 &&& κ = 13196354134208 := sub_mask (by decide) hm
  have u2 : 13196354134016 &&& κ = 13196354134016 := sub_mask (by decide) hm
  unfold execAbort
  repeat' first
    | with_reducible assumption
    | with_reducible intro _
    | with_reducible apply out_next
    | with_reducible apply rowOk_inv
    | with_reducible apply rowFail_inv
    | with_reducible apply rowWait_inv
    | split
    | with_reducible refine drainAll_keeps u0 ?_
    | with_reducible refine freshRow_keeps u1 ?_ ?_
    | with_reducible refine abort_keeps u2 ?_

theorem adminSetTime_keeps {x : Cmd} {s : State} (hm : 13196354134020 &&& κ = 13196354134020)  (hs : (Keeps κ s₀) s) : RowInv (Keeps κ s₀) (adminSetTime x s) := by
  have u0 : 4 &&& κ = 4 := sub_mask (by decide) hm
  have u1 : 13196354134016 &&& κ = 13196354134016 := sub_mask (by decide) hm
  unfold adminSetTime
  repeat' first
    | with_reducible assumption
    | with_reducible intro _
    | with_reducible apply rowOk_inv
    | with_reducible apply rowFail_inv
    | with_reducible apply rowWait_inv
    | split
    | with_reducible refine done_keeps u1 ?_
    | refine row_ok (by with_reducible assumption) ?_
    | refine row_fail (by with_reducible assumption) ?_
    | refine row_wait (by with_reducible assumption) ?_
    | (dsimp only)
    | with_reducible refine upd_tod u0 ?_

theorem execAdminSetTime_keeps {c : Nat} {s : State} (hm : 13196358460636 &&& κ = 13196358460636)  (hs : (Keeps κ s₀) s) : OutInv (Keeps κ s₀) (execAdminSetTime c s) := by
  have u0 : 4326616 &&& κ = 4326616 := sub_mask (by decide) hm
  have u1 : 13196354134208 &&& κ = 13196354134208 := sub_mask (by decide) hm
  have u2 : 13196354134020 &&& κ = 13196354134020 := sub_mask (by decide) hm
  unfold execAdminSetTime
  repeat' first
    | with_reducible assumption
    | with_reducible intro _
    | with_reducible apply out_next
    | with_reducible apply rowOk_inv
    | with_reducible apply rowFail_inv
    | with_reducible apply rowWait_inv
    | split
    | with_reducible refine drainAll_keeps u0 ?_
    | with_reducible refine freshRow_keeps u1 ?_ ?_
    | with_reducible refine adminSetTime_keeps u2 ?_

theorem queryLimits_keeps {x : Cmd} {s : State} (hm : 13196358328408 &&& κ = 13196358328408)  (hs : (Keeps κ s₀) s) : RowInv (Keeps κ s₀) (queryLimits x s) := by
  have u0 : 4202584 &&& κ = 4202584 := sub_mask (by decide) hm
  have u1 : 13196354134016 &&& κ = 13196354134016 := sub_mask (by decide) hm
  have u2 : 0 &&& κ = 0 := sub_mask (by decide) hm
  unfold queryLimits
  repeat' first
    | with_reducible assumption
    | with_reducible intro _
    | with_reducible apply ok_inv
    | with_reducible apply fail_inv
    | with_reducible apply wait_inv
    | with_reducible apply rowOk_inv
    | with_reducible apply rowFail_inv
    | with_reducible apply rowWait_inv
    | with_reducible refine row_andThen ?_ ?_
    | split
    | with_reducible refine res_andThen ?_ ?_
    | with_reducible refine writeDev_keeps u0 ?_
    | with_reducible refine done_keeps u1 ?_
    | with_reducible refine failAt_keeps u2 ?_

theorem execQueryLimits_keeps {c : Nat} {s : State} (hm : 13196358460632 &&& κ = 13196358460632)  (hs : (Keeps κ s₀) s) : OutInv (Keeps κ s₀) (execQueryLimits c s) := by
  have u0 : 4326616 &&& κ = 4326616 := sub_mask (by decide) hm
  have u1 : 13196354134208 &&& κ = 13196354134208 := sub_mask (by decide) hm
  have u2 : 13196358328408 &&& κ = 13196358328408 := sub_mask (by decide) hm
  unfold execQueryLimits
  repeat' first
    | with_reducible assumption
    | with_reducible intro _
    | with_reducible apply out_next
    | with_reducible apply rowOk_inv
    | with_reducible apply rowFail_inv
    | with_reducible apply rowWait_inv
    | split
    | with_reducible refine drainAll_keeps u0 ?_
    | with_reducible refine freshRow_keeps u1 ?_ ?_
    | with_reducible refine queryLimits_keeps u2 ?_

theorem raiseKey_keeps {slot : Nat} {s : State} (hm : 2684485704 &&& κ = 2684485704)  (hs : (Keeps κ s₀) s) : (Keeps κ s₀) (raiseKey slot s) := by
  unfold raiseKey
  repeat' first
    | with_reducible assumption
    | with_reducible intro _
    | split
    | with_reducible refine raise_keeps hm ?_

theorem unwrapKey_keeps {x : Cmd} {s : State} {f : BitVec 256 → State → Res State} (hm : 192 &&& κ = 192) (hf : ∀ a0 a1, (Keeps κ s₀) a1 → RowInv (Keeps κ s₀) (f a0 a1)) (hs : (Keeps κ s₀) s) : RowInv (Keeps κ s₀) (unwrapKey x s f) := by
  have u0 : 64 &&& κ = 64 := sub_mask (by decide) hm
  have u2 : 0 &&& κ = 0 := sub_mask (by decide) hm
  unfold unwrapKey
  repeat' first
    | with_reducible assumption
    | with_reducible intro _
    | with_reducible refine row_ite ?_ ?_
    | with_reducible refine res_ite ?_ ?_
    | with_reducible refine inv_ite ?_ ?_
    | with_reducible apply rowOk_inv
    | with_reducible apply rowFail_inv
    | with_reducible apply rowWait_inv
    | split
    | with_reducible refine bumpSat_keeps u0 ?_
    | with_reducible refine blkFault_keeps hm ?_
    | with_reducible refine failAt_keeps u2 ?_
    | with_reducible apply hf

theorem keyLoad_keeps {x : Cmd} {s : State} (hm : 13201186103496 &&& κ = 13201186103496)  (hs : (Keeps κ s₀) s) : RowInv (Keeps κ s₀) (keyLoad x s) := by
  have u0 : 4294967296 &&& κ = 4294967296 := sub_mask (by decide) hm
  have u1 : 13196354134016 &&& κ = 13196354134016 := sub_mask (by decide) hm
  have u2 : 0 &&& κ = 0 := sub_mask (by decide) hm
  have u3 : 2684485704 &&& κ = 2684485704 := sub_mask (by decide) hm
  have u4 : 192 &&& κ = 192 := sub_mask (by decide) hm
  unfold keyLoad
  repeat' first
    | with_reducible assumption
    | with_reducible intro _
    | with_reducible refine row_ite ?_ ?_
    | with_reducible refine res_ite ?_ ?_
    | with_reducible refine inv_ite ?_ ?_
    | with_reducible apply rowOk_inv
    | with_reducible apply rowFail_inv
    | with_reducible apply rowWait_inv
    | split
    | with_reducible refine done_keeps u1 ?_
    | with_reducible refine failAt_keeps u2 ?_
    | with_reducible refine raiseKey_keeps u3 ?_
    | with_reducible refine unwrapKey_keeps u4 ?_ ?_
    | refine row_ok (by with_reducible assumption) ?_
    | refine row_fail (by with_reducible assumption) ?_
    | refine row_wait (by with_reducible assumption) ?_
    | (dsimp only)
    | with_reducible refine upd_sec u0 ?_

theorem execKeyLoad_keeps {c : Nat} {s : State} (hm : 13201190298840 &&& κ = 13201190298840)  (hs : (Keeps κ s₀) s) : OutInv (Keeps κ s₀) (execKeyLoad c s) := by
  have u0 : 4326616 &&& κ = 4326616 := sub_mask (by decide) hm
  have u1 : 13196354134208 &&& κ = 13196354134208 := sub_mask (by decide) hm
  have u2 : 13201186103496 &&& κ = 13201186103496 := sub_mask (by decide) hm
  unfold execKeyLoad
  repeat' first
    | with_reducible assumption
    | with_reducible intro _
    | with_reducible apply out_next
    | with_reducible apply rowOk_inv
    | with_reducible apply rowFail_inv
    | with_reducible apply rowWait_inv
    | split
    | with_reducible refine drainAll_keeps u0 ?_
    | with_reducible refine freshRow_keeps u1 ?_ ?_
    | with_reducible refine keyLoad_keeps u2 ?_

theorem keyClear_keeps {x : Cmd} {s : State} (hm : 13196354134016 &&& κ = 13196354134016)  (hs : (Keeps κ s₀) s) : RowInv (Keeps κ s₀) (keyClear x s) := by
  unfold keyClear
  repeat' first
    | with_reducible assumption
    | with_reducible intro _
    | with_reducible apply rowOk_inv
    | with_reducible apply rowFail_inv
    | with_reducible apply rowWait_inv
    | split
    | with_reducible refine done_keeps hm ?_

theorem execKeyClear_keeps {c : Nat} {s : State} (hm : 13196358460632 &&& κ = 13196358460632)  (hs : (Keeps κ s₀) s) : OutInv (Keeps κ s₀) (execKeyClear c s) := by
  have u0 : 4326616 &&& κ = 4326616 := sub_mask (by decide) hm
  have u1 : 13196354134208 &&& κ = 13196354134208 := sub_mask (by decide) hm
  have u2 : 13196354134016 &&& κ = 13196354134016 := sub_mask (by decide) hm
  unfold execKeyClear
  repeat' first
    | with_reducible assumption
    | with_reducible intro _
    | with_reducible apply out_next
    | with_reducible apply rowOk_inv
    | with_reducible apply rowFail_inv
    | with_reducible apply rowWait_inv
    | split
    | with_reducible refine drainAll_keeps u0 ?_
    | with_reducible refine freshRow_keeps u1 ?_ ?_
    | with_reducible refine keyClear_keeps u2 ?_

theorem fabricKey_keeps {x : Cmd} {s : State} (hm : 13201186103496 &&& κ = 13201186103496)  (hs : (Keeps κ s₀) s) : RowInv (Keeps κ s₀) (fabricKey x s) := by
  have u0 : 4294967296 &&& κ = 4294967296 := sub_mask (by decide) hm
  have u1 : 13196354134016 &&& κ = 13196354134016 := sub_mask (by decide) hm
  have u2 : 0 &&& κ = 0 := sub_mask (by decide) hm
  have u3 : 2684485704 &&& κ = 2684485704 := sub_mask (by decide) hm
  have u4 : 192 &&& κ = 192 := sub_mask (by decide) hm
  unfold fabricKey
  repeat' first
    | with_reducible assumption
    | with_reducible intro _
    | with_reducible refine row_ite ?_ ?_
    | with_reducible refine res_ite ?_ ?_
    | with_reducible refine inv_ite ?_ ?_
    | with_reducible apply rowOk_inv
    | with_reducible apply rowFail_inv
    | with_reducible apply rowWait_inv
    | split
    | with_reducible refine done_keeps u1 ?_
    | with_reducible refine failAt_keeps u2 ?_
    | with_reducible refine raiseKey_keeps u3 ?_
    | with_reducible refine unwrapKey_keeps u4 ?_ ?_
    | refine row_ok (by with_reducible assumption) ?_
    | refine row_fail (by with_reducible assumption) ?_
    | refine row_wait (by with_reducible assumption) ?_
    | (dsimp only)
    | with_reducible refine upd_sec u0 ?_

theorem execFabricKey_keeps {c : Nat} {s : State} (hm : 13201190298840 &&& κ = 13201190298840)  (hs : (Keeps κ s₀) s) : OutInv (Keeps κ s₀) (execFabricKey c s) := by
  have u0 : 4326616 &&& κ = 4326616 := sub_mask (by decide) hm
  have u1 : 13196354134208 &&& κ = 13196354134208 := sub_mask (by decide) hm
  have u2 : 13201186103496 &&& κ = 13201186103496 := sub_mask (by decide) hm
  unfold execFabricKey
  repeat' first
    | with_reducible assumption
    | with_reducible intro _
    | with_reducible apply out_next
    | with_reducible apply rowOk_inv
    | with_reducible apply rowFail_inv
    | with_reducible apply rowWait_inv
    | split
    | with_reducible refine drainAll_keeps u0 ?_
    | with_reducible refine freshRow_keeps u1 ?_ ?_
    | with_reducible refine fabricKey_keeps u2 ?_

theorem accountRead_keeps {x : Cmd} {s : State} (hm : 13196358328408 &&& κ = 13196358328408)  (hs : (Keeps κ s₀) s) : RowInv (Keeps κ s₀) (accountRead x s) := by
  have u0 : 4202584 &&& κ = 4202584 := sub_mask (by decide) hm
  have u1 : 13196354134016 &&& κ = 13196354134016 := sub_mask (by decide) hm
  have u2 : 0 &&& κ = 0 := sub_mask (by decide) hm
  unfold accountRead
  repeat' first
    | with_reducible assumption
    | with_reducible intro _
    | with_reducible refine row_ite ?_ ?_
    | with_reducible refine res_ite ?_ ?_
    | with_reducible refine inv_ite ?_ ?_
    | with_reducible apply ok_inv
    | with_reducible apply fail_inv
    | with_reducible apply wait_inv
    | with_reducible apply rowOk_inv
    | with_reducible apply rowFail_inv
    | with_reducible apply rowWait_inv
    | with_reducible refine row_andThen ?_ ?_
    | split
    | with_reducible refine res_andThen ?_ ?_
    | with_reducible refine writeDev_keeps u0 ?_
    | with_reducible refine done_keeps u1 ?_
    | with_reducible refine failAt_keeps u2 ?_

theorem execAccountRead_keeps {c : Nat} {s : State} (hm : 13196358460632 &&& κ = 13196358460632)  (hs : (Keeps κ s₀) s) : OutInv (Keeps κ s₀) (execAccountRead c s) := by
  have u0 : 4326616 &&& κ = 4326616 := sub_mask (by decide) hm
  have u1 : 13196354134208 &&& κ = 13196354134208 := sub_mask (by decide) hm
  have u2 : 13196358328408 &&& κ = 13196358328408 := sub_mask (by decide) hm
  unfold execAccountRead
  repeat' first
    | with_reducible assumption
    | with_reducible intro _
    | with_reducible apply out_next
    | with_reducible apply rowOk_inv
    | with_reducible apply rowFail_inv
    | with_reducible apply rowWait_inv
    | split
    | with_reducible refine drainAll_keeps u0 ?_
    | with_reducible refine freshRow_keeps u1 ?_ ?_
    | with_reducible refine accountRead_keeps u2 ?_

theorem securityState_keeps {x : Cmd} {s : State} (hm : 13196358328408 &&& κ = 13196358328408)  (hs : (Keeps κ s₀) s) : RowInv (Keeps κ s₀) (securityState x s) := by
  have u0 : 4202584 &&& κ = 4202584 := sub_mask (by decide) hm
  have u1 : 13196354134016 &&& κ = 13196354134016 := sub_mask (by decide) hm
  unfold securityState
  repeat' first
    | with_reducible assumption
    | with_reducible intro _
    | with_reducible apply ok_inv
    | with_reducible apply fail_inv
    | with_reducible apply wait_inv
    | with_reducible apply rowOk_inv
    | with_reducible apply rowFail_inv
    | with_reducible apply rowWait_inv
    | with_reducible refine row_andThen ?_ ?_
    | split
    | with_reducible refine res_andThen ?_ ?_
    | with_reducible refine writeDev_keeps u0 ?_
    | with_reducible refine done_keeps u1 ?_

theorem execSecurityState_keeps {c : Nat} {s : State} (hm : 13196358460632 &&& κ = 13196358460632)  (hs : (Keeps κ s₀) s) : OutInv (Keeps κ s₀) (execSecurityState c s) := by
  have u0 : 4326616 &&& κ = 4326616 := sub_mask (by decide) hm
  have u1 : 13196354134208 &&& κ = 13196354134208 := sub_mask (by decide) hm
  have u2 : 13196358328408 &&& κ = 13196358328408 := sub_mask (by decide) hm
  unfold execSecurityState
  repeat' first
    | with_reducible assumption
    | with_reducible intro _
    | with_reducible apply out_next
    | with_reducible apply rowOk_inv
    | with_reducible apply rowFail_inv
    | with_reducible apply rowWait_inv
    | split
    | with_reducible refine drainAll_keeps u0 ?_
    | with_reducible refine freshRow_keeps u1 ?_ ?_
    | with_reducible refine securityState_keeps u2 ?_

end Sys2Proof.Machine
end

