-- ==== Sys2Proof/Laws/FramesCrook.lean ====
section
/-! SUPPORT. The parts of the state that the functions of Machine/Crook.lean may write. -/

namespace Sys2Proof.Machine

variable {κ : Nat} {s₀ : State}

theorem cachePut_keeps {e : CacheEntry} {s : State} (hm : 4194304 &&& κ = 4194304)  (hs : (Keeps κ s₀) s) : (Keeps κ s₀) (cachePut e s) := by
  unfold cachePut
  repeat' first
    | with_reducible assumption
    | with_reducible intro _
    | with_reducible refine inv_ite ?_ ?_
    | split
    | with_reducible refine crookMod_keeps hm ?_

theorem cacheFail_keeps {d : Nat} {page : Nat} {status : Nat} {s : State} (hm : 4194304 &&& κ = 4194304)  (hs : (Keeps κ s₀) s) : (Keeps κ s₀) (cacheFail d page status s) := by
  unfold cacheFail
  repeat' first
    | with_reducible assumption
    | with_reducible intro _
    | split
    | with_reducible refine crookMod_keeps hm ?_

theorem takeReq_keeps {d : Nat} {page : Nat} {kind : Nat} {s : State} (hm : 4194304 &&& κ = 4194304)  (hs : (Keeps κ s₀) s) : OptPairInv (Keeps κ s₀) (takeReq d page kind s) := by
  unfold takeReq
  repeat' first
    | with_reducible assumption
    | with_reducible intro _
    | with_reducible apply optpSome_inv
    | with_reducible exact optpNone_inv
    | split
    | with_reducible refine crookMod_keeps hm ?_

theorem noteFaults_keeps {d : Nat} {page : Nat} {st : Bool → Option Nat} {but : List Nat} {s : State} (hm : 8384 &&& κ = 8384)  (hs : (Keeps κ s₀) s) : (Keeps κ s₀) (noteFaults d page st but s).2 := by
  have u0 : 64 &&& κ = 64 := sub_mask (by decide) hm
  have u1 : 192 &&& κ = 192 := sub_mask (by decide) hm
  have u2 : 8192 &&& κ = 8192 := sub_mask (by decide) hm
  unfold noteFaults
  repeat' first
    | with_reducible assumption
    | with_reducible intro _
    | split
    | with_reducible refine inv_foldl ?_ ?_
    | with_reducible refine bumpSat_keeps u0 ?_
    | with_reducible refine blkFault_keeps u1 ?_
    | with_reducible refine cmdMod_keeps u2 ?_

theorem xlatFailsBut_keeps {but : List Nat} {d : Nat} {page : Nat} {status : Nat} {s : State} (hm : 4202688 &&& κ = 4202688)  (hs : (Keeps κ s₀) s) : (Keeps κ s₀) (xlatFailsBut but d page status s) := by
  have u0 : 4194304 &&& κ = 4194304 := sub_mask (by decide) hm
  have u1 : 8384 &&& κ = 8384 := sub_mask (by decide) hm
  unfold xlatFailsBut
  repeat' first
    | with_reducible assumption
    | with_reducible intro _
    | with_reducible refine inv_ite ?_ ?_
    | split
    | with_reducible refine cacheFail_keeps u0 ?_
    | with_reducible refine noteFaults_keeps u1 ?_

theorem xlatFails_keeps {d : Nat} {page : Nat} {status : Nat} {s : State} (hm : 4202688 &&& κ = 4202688)  (hs : (Keeps κ s₀) s) : (Keeps κ s₀) (xlatFails d page status s) := by
  unfold xlatFails
  repeat' first
    | with_reducible assumption
    | with_reducible intro _
    | split
    | with_reducible refine xlatFailsBut_keeps hm ?_

theorem notPresent_keeps {d : Nat} {page : Nat} {s : State} (hm : 4202696 &&& κ = 4202696)  (hs : (Keeps κ s₀) s) : (Keeps κ s₀) (notPresent d page s) := by
  have u0 : 4194376 &&& κ = 4194376 := sub_mask (by decide) hm
  have u1 : 4202688 &&& κ = 4202688 := sub_mask (by decide) hm
  unfold notPresent
  repeat' first
    | with_reducible assumption
    | with_reducible intro _
    | with_reducible refine inv_ite ?_ ?_
    | split
    | with_reducible refine askPage_keeps u0 ?_
    | with_reducible refine xlatFailsBut_keeps u1 ?_

theorem atsError_keeps {d : Nat} {status : Nat} {addr : Word64} {pcie : Nat} {s : State} (hm : 2684485832 &&& κ = 2684485832)  (hs : (Keeps κ s₀) s) : (Keeps κ s₀) (atsError d status addr pcie s) := by
  have u0 : 192 &&& κ = 192 := sub_mask (by decide) hm
  have u1 : 2684485704 &&& κ = 2684485704 := sub_mask (by decide) hm
  unfold atsError
  repeat' first
    | with_reducible assumption
    | with_reducible intro _
    | split
    | with_reducible refine blkFault_keeps u0 ?_
    | with_reducible refine raise_keeps u1 ?_

theorem blameHost_keeps {f : Cmd → Bool} {s : State} (hm : 8192 &&& κ = 8192)  (hs : (Keeps κ s₀) s) : (Keeps κ s₀) (blameHost f s) := by
  unfold blameHost
  repeat' first
    | with_reducible assumption
    | with_reducible intro _
    | with_reducible refine inv_ite ?_ ?_
    | split
    | (dsimp only)
    | with_reducible refine upd_cmds hm ?_

theorem atsLatency_keeps {ns : Nat} {s : State} (hm : 64 &&& κ = 64)  (hs : (Keeps κ s₀) s) : (Keeps κ s₀) (atsLatency ns s) := by
  unfold atsLatency
  repeat' first
    | with_reducible assumption
    | with_reducible intro _
    | with_reducible refine inv_ite ?_ ?_
    | split
    | with_reducible refine bumpSat_keeps hm ?_
    | with_reducible refine regField_keeps hm ?_

theorem atsCompletion_keeps {d : Nat} {va : Nat} {a : AtsAnswer} {ns : Nat} {s : State} (hm : 2688688328 &&& κ = 2688688328)  (hs : (Keeps κ s₀) s) : (Keeps κ s₀) (atsCompletion d va a ns s) := by
  have u0 : 4194304 &&& κ = 4194304 := sub_mask (by decide) hm
  have u1 : 8384 &&& κ = 8384 := sub_mask (by decide) hm
  have u2 : 4202688 &&& κ = 4202688 := sub_mask (by decide) hm
  have u3 : 4202696 &&& κ = 4202696 := sub_mask (by decide) hm
  have u4 : 2684485832 &&& κ = 2684485832 := sub_mask (by decide) hm
  have u5 : 8192 &&& κ = 8192 := sub_mask (by decide) hm
  have u6 : 64 &&& κ = 64 := sub_mask (by decide) hm
  unfold atsCompletion
  repeat' first
    | with_reducible assumption
    | with_reducible intro _
    | with_reducible refine inv_ite ?_ ?_
    | split
    | with_reducible refine cachePut_keeps u0 ?_
    | with_reducible refine takeReq_keeps u0 ?_
    | with_reducible refine noteFaults_keeps u1 ?_
    | with_reducible refine xlatFails_keeps u2 ?_
    | with_reducible refine notPresent_keeps u3 ?_
    | with_reducible refine atsError_keeps u4 ?_
    | with_reducible refine blameHost_keeps u5 ?_
    | with_reducible refine atsLatency_keeps u6 ?_
    | refine inv_snd (by with_reducible assumption) ?_
    | refine optp_some (by with_reducible assumption) ?_
    | (dsimp only)

theorem execAtsTranslationCompletion_keeps {dom : Nat} {va : Nat} {a : AtsAnswer} {ns : Nat} {s : State} (hm : 2688689368 &&& κ = 2688689368)  (hs : (Keeps κ s₀) s) : OutInv (Keeps κ s₀) (execAtsTranslationCompletion dom va a ns s) := by
  have u0 : 4326616 &&& κ = 4326616 := sub_mask (by decide) hm
  have u1 : 2688688328 &&& κ = 2688688328 := sub_mask (by decide) hm
  unfold execAtsTranslationCompletion
  repeat' first
    | with_reducible assumption
    | with_reducible intro _
    | with_reducible apply out_next
    | split
    | with_reducible refine drainAll_keeps u0 ?_
    | with_reducible refine atsCompletion_keeps u1 ?_

theorem priFailed_keeps {d : Nat} {page : Nat} {s : State} (hm : 4202688 &&& κ = 4202688)  (hs : (Keeps κ s₀) s) : (Keeps κ s₀) (priFailed d page s) := by
  have u0 : 64 &&& κ = 64 := sub_mask (by decide) hm
  have u1 : 192 &&& κ = 192 := sub_mask (by decide) hm
  unfold priFailed
  repeat' first
    | with_reducible assumption
    | with_reducible intro _
    | split
    | with_reducible refine bumpSat_keeps u0 ?_
    | with_reducible refine blkFault_keeps u1 ?_
    | with_reducible refine xlatFails_keeps hm ?_

theorem requestAgain_keeps {d : Nat} {page : Nat} {write : Bool} {s : State} (hm : 4194376 &&& κ = 4194376)  (hs : (Keeps κ s₀) s) : (Keeps κ s₀) (requestAgain d page write s) := by
  have u0 : 64 &&& κ = 64 := sub_mask (by decide) hm
  have u1 : 8 &&& κ = 8 := sub_mask (by decide) hm
  have u2 : 4194304 &&& κ = 4194304 := sub_mask (by decide) hm
  unfold requestAgain
  repeat' first
    | with_reducible assumption
    | with_reducible intro _
    | with_reducible refine inv_ite ?_ ?_
    | split
    | with_reducible refine bumpWrap_keeps u0 ?_
    | with_reducible refine emit_keeps u1 ?_
    | with_reducible refine crookMod_keeps u2 ?_

theorem pageResponse_keeps {d : Nat} {va : Nat} {a : PriAnswer} {s : State} (hm : 4202696 &&& κ = 4202696)  (hs : (Keeps κ s₀) s) : (Keeps κ s₀) (pageResponse d va a s) := by
  have u0 : 4194304 &&& κ = 4194304 := sub_mask (by decide) hm
  have u1 : 4202688 &&& κ = 4202688 := sub_mask (by decide) hm
  have u2 : 4194376 &&& κ = 4194376 := sub_mask (by decide) hm
  unfold pageResponse
  repeat' first
    | with_reducible assumption
    | with_reducible intro _
    | split
    | with_reducible refine crookMod_keeps u0 ?_
    | with_reducible refine takeReq_keeps u0 ?_
    | with_reducible refine priFailed_keeps u1 ?_
    | with_reducible refine requestAgain_keeps u2 ?_
    | refine optp_some (by with_reducible assumption) ?_
    | (dsimp only)

theorem execPageRequestResponse_keeps {dom : Nat} {va : Nat} {a : PriAnswer} {s : State} (hm : 4202696 &&& κ = 4202696)  (hs : (Keeps κ s₀) s) : OutInv (Keeps κ s₀) (execPageRequestResponse dom va a s) := by
  unfold execPageRequestResponse
  repeat' first
    | with_reducible assumption
    | with_reducible intro _
    | with_reducible apply out_next
    | split
    | with_reducible refine pageResponse_keeps hm ?_

theorem pageTimeout_keeps {d : Nat} {va : Nat} {s : State} (hm : 4202688 &&& κ = 4202688)  (hs : (Keeps κ s₀) s) : (Keeps κ s₀) (pageTimeout d va s) := by
  have u0 : 4194304 &&& κ = 4194304 := sub_mask (by decide) hm
  unfold pageTimeout
  repeat' first
    | with_reducible assumption
    | with_reducible intro _
    | split
    | with_reducible refine takeReq_keeps u0 ?_
    | with_reducible refine priFailed_keeps hm ?_
    | refine optp_some (by with_reducible assumption) ?_

theorem execPageRequestTimeout_keeps {dom : Nat} {va : Nat} {s : State} (hm : 4202688 &&& κ = 4202688)  (hs : (Keeps κ s₀) s) : OutInv (Keeps κ s₀) (execPageRequestTimeout dom va s) := by
  unfold execPageRequestTimeout
  repeat' first
    | with_reducible assumption
    | with_reducible intro _
    | with_reducible apply out_next
    | split
    | with_reducible refine pageTimeout_keeps hm ?_

theorem cacheGranule_keeps {d : Nat} {g : Region} {first : Nat} {es : List Word64} {s : State} (hm : 4194304 &&& κ = 4194304)  (hs : (Keeps κ s₀) s) : (Keeps κ s₀) (cacheGranule d g first es s) := by
  unfold cacheGranule
  repeat' first
    | with_reducible assumption
    | with_reducible intro _
    | with_reducible refine inv_ite ?_ ?_
    | split
    | with_reducible refine inv_foldl ?_ ?_
    | with_reducible refine cachePut_keeps hm ?_

theorem tableReadDone_keeps {d : Nat} {va : Nat} {a : TableAnswer} {s : State} (hm : 2688688328 &&& κ = 2688688328)  (hs : (Keeps κ s₀) s) : (Keeps κ s₀) (tableReadDone d va a s) := by
  have u0 : 4194304 &&& κ = 4194304 := sub_mask (by decide) hm
  have u1 : 4202688 &&& κ = 4202688 := sub_mask (by decide) hm
  have u2 : 2684485832 &&& κ = 2684485832 := sub_mask (by decide) hm
  unfold tableReadDone
  repeat' first
    | with_reducible assumption
    | with_reducible intro _
    | with_reducible refine inv_ite ?_ ?_
    | split
    | with_reducible refine takeReq_keeps u0 ?_
    | with_reducible refine xlatFails_keeps u1 ?_
    | with_reducible refine atsError_keeps u2 ?_
    | with_reducible refine cacheGranule_keeps u0 ?_
    | refine optp_some (by with_reducible assumption) ?_
    | (dsimp only)

theorem execRegionTableReadDone_keeps {dom : Nat} {va : Nat} {a : TableAnswer} {s : State} (hm : 2688689368 &&& κ = 2688689368)  (hs : (Keeps κ s₀) s) : OutInv (Keeps κ s₀) (execRegionTableReadDone dom va a s) := by
  have u0 : 4326616 &&& κ = 4326616 := sub_mask (by decide) hm
  have u1 : 2688688328 &&& κ = 2688688328 := sub_mask (by decide) hm
  unfold execRegionTableReadDone
  repeat' first
    | with_reducible assumption
    | with_reducible intro _
    | with_reducible apply out_next
    | split
    | with_reducible refine drainAll_keeps u0 ?_
    | with_reducible refine tableReadDone_keeps u1 ?_

theorem atsInvalidate_keeps {pasid : Option Nat} {base : Nat} {len : Nat} {s : State} (hm : 2151686144 &&& κ = 2151686144)  (hs : (Keeps κ s₀) s) : (Keeps κ s₀) (atsInvalidate pasid base len s) := by
  have u1 : 8192 &&& κ = 8192 := sub_mask (by decide) hm
  unfold atsInvalidate
  repeat' first
    | with_reducible assumption
    | with_reducible intro _
    | split
    | with_reducible refine inv_foldl ?_ ?_
    | with_reducible refine snd_foldl ?_ ?_
    | with_reducible refine beginInval_keeps hm ?_
    | with_reducible refine blameHost_keeps u1 ?_

theorem execAtsInvalidateRequest_keeps {pasid : Option Nat} {base : Nat} {len : Nat} {s : State} (hm : 2151686144 &&& κ = 2151686144)  (hs : (Keeps κ s₀) s) : OutInv (Keeps κ s₀) (execAtsInvalidateRequest pasid base len s) := by
  unfold execAtsInvalidateRequest
  repeat' first
    | with_reducible assumption
    | with_reducible intro _
    | with_reducible apply out_next
    | split
    | with_reducible refine atsInvalidate_keeps hm ?_

theorem invalCount_keeps {ns : Nat} {s : State} (hm : 64 &&& κ = 64)  (hs : (Keeps κ s₀) s) : (Keeps κ s₀) (invalCount ns s) := by
  unfold invalCount
  repeat' first
    | with_reducible assumption
    | with_reducible intro _
    | with_reducible refine inv_ite ?_ ?_
    | split
    | with_reducible refine bumpWrap_keeps hm ?_
    | with_reducible refine regField_keeps hm ?_

theorem invalDrained_keeps {n : Nat} {ns : Nat} {s : State} (hm : 13196358328392 &&& κ = 13196358328392)  (hs : (Keeps κ s₀) s) : (Keeps κ s₀) (invalDrained n ns s) := by
  have u0 : 8 &&& κ = 8 := sub_mask (by decide) hm
  have u1 : 4194304 &&& κ = 4194304 := sub_mask (by decide) hm
  have u2 : 13196354134016 &&& κ = 13196354134016 := sub_mask (by decide) hm
  have u3 : 64 &&& κ = 64 := sub_mask (by decide) hm
  unfold invalDrained
  repeat' first
    | with_reducible assumption
    | with_reducible intro _
    | with_reducible refine inv_ite ?_ ?_
    | split
    | with_reducible refine emit_keeps u0 ?_
    | with_reducible refine crookMod_keeps u1 ?_
    | with_reducible refine finish_keeps u2 ?_
    | with_reducible refine invalCount_keeps u3 ?_

theorem execInvalidationDrained_keeps {n : Nat} {ns : Nat} {s : State} (hm : 13196358328392 &&& κ = 13196358328392)  (hs : (Keeps κ s₀) s) : OutInv (Keeps κ s₀) (execInvalidationDrained n ns s) := by
  unfold execInvalidationDrained
  repeat' first
    | with_reducible assumption
    | with_reducible intro _
    | with_reducible apply out_next
    | split
    | with_reducible refine invalDrained_keeps hm ?_

theorem dropHolds__keeps {f : CacheEntry → Bool} {s : State} (hm : 8192 &&& κ = 8192)  (hs : (Keeps κ s₀) s) : (Keeps κ s₀) (dropHolds_ f s) := by
  unfold dropHolds_
  repeat' first
    | with_reducible assumption
    | with_reducible intro _
    | split
    | (dsimp only)
    | with_reducible refine upd_cmds hm ?_

theorem atsCleared_keeps {s : State} (hm : 2151686144 &&& κ = 2151686144)  (hs : (Keeps κ s₀) s) : (Keeps κ s₀) (atsCleared s) := by
  have u0 : 2147483648 &&& κ = 2147483648 := sub_mask (by decide) hm
  have u1 : 4194304 &&& κ = 4194304 := sub_mask (by decide) hm
  have u2 : 8192 &&& κ = 8192 := sub_mask (by decide) hm
  unfold atsCleared
  repeat' first
    | with_reducible assumption
    | with_reducible intro _
    | with_reducible refine inv_ite ?_ ?_
    | split
    | with_reducible refine advanceEpoch_keeps u0 ?_
    | with_reducible refine crookMod_keeps u1 ?_
    | with_reducible refine dropHolds__keeps u2 ?_

theorem execAtsEnableCleared_keeps {s : State} (hm : 2151686144 &&& κ = 2151686144)  (hs : (Keeps κ s₀) s) : OutInv (Keeps κ s₀) (execAtsEnableCleared s) := by
  unfold execAtsEnableCleared
  repeat' first
    | with_reducible assumption
    | with_reducible intro _
    | with_reducible apply out_next
    | split
    | with_reducible refine atsCleared_keeps hm ?_

theorem execPriEnableSet_keeps {s : State} (hm : 4194304 &&& κ = 4194304)  (hs : (Keeps κ s₀) s) : OutInv (Keeps κ s₀) (execPriEnableSet s) := by
  unfold execPriEnableSet
  repeat' first
    | with_reducible assumption
    | with_reducible intro _
    | with_reducible apply out_next
    | split
    | with_reducible refine crookMod_keeps hm ?_

end Sys2Proof.Machine
end

