-- ==== Sys2Proof/Laws/FramesFabric.lean ====
section
/-! SUPPORT. The parts of the state that the functions of Machine/Fabric.lean may write. -/

namespace Sys2Proof.Machine

variable {κ : Nat} {s₀ : State}

theorem cstMod_keeps {f : Consort → Consort} {s : State} (hm : 536870912 &&& κ = 536870912)  (hs : (Keeps κ s₀) s) : (Keeps κ s₀) (cstMod f s) := by
  unfold cstMod
  repeat' first
    | with_reducible assumption
    | with_reducible intro _
    | split
    | (dsimp only)
    | with_reducible refine upd_cst hm ?_

theorem portMod_keeps {n : Nat} {f : Port → Port} {s : State} (hm : 13196899524808 &&& κ = 13196899524808)  (hs : (Keeps κ s₀) s) : (Keeps κ s₀) (portMod n f s) := by
  have u1 : 536870912 &&& κ = 536870912 := sub_mask (by decide) hm
  unfold portMod
  repeat' first
    | with_reducible assumption
    | with_reducible intro _
    | with_reducible refine inv_ite ?_ ?_
    | split
    | with_reducible refine noSpare_keeps hm ?_
    | with_reducible refine cstMod_keeps u1 ?_

theorem raisePort_keeps {n : Nat} {sev : Nat} {s : State} (hm : 13196899524808 &&& κ = 13196899524808)  (hs : (Keeps κ s₀) s) : (Keeps κ s₀) (raisePort n sev s) := by
  have u0 : 2684485704 &&& κ = 2684485704 := sub_mask (by decide) hm
  unfold raisePort
  repeat' first
    | with_reducible assumption
    | with_reducible intro _
    | split
    | with_reducible refine raise_keeps u0 ?_

theorem portState_keeps {n : Nat} {up : Bool} {s : State} (hm : 13196899524808 &&& κ = 13196899524808)  (hs : (Keeps κ s₀) s) : (Keeps κ s₀) (portState n up s) := by
  unfold portState
  repeat' first
    | with_reducible assumption
    | with_reducible intro _
    | with_reducible refine inv_ite ?_ ?_
    | split
    | with_reducible refine portMod_keeps hm ?_
    | with_reducible refine raisePort_keeps hm ?_

theorem execPortState_keeps {port : Nat} {up : Bool} {s : State} (hm : 13196903720152 &&& κ = 13196903720152)  (hs : (Keeps κ s₀) s) : OutInv (Keeps κ s₀) (execPortState port up s) := by
  have u0 : 4326616 &&& κ = 4326616 := sub_mask (by decide) hm
  have u1 : 13196899524808 &&& κ = 13196899524808 := sub_mask (by decide) hm
  unfold execPortState
  repeat' first
    | with_reducible assumption
    | with_reducible intro _
    | with_reducible apply out_next
    | split
    | with_reducible refine drainAll_keeps u0 ?_
    | with_reducible refine portState_keeps u1 ?_

theorem cableChange_keeps {n : Nat} {present : Bool} {memAnswers : Bool} {s : State} (hm : 13196899524808 &&& κ = 13196899524808)  (hs : (Keeps κ s₀) s) : (Keeps κ s₀) (cableChange n present memAnswers s) := by
  unfold cableChange
  repeat' first
    | with_reducible assumption
    | with_reducible intro _
    | with_reducible refine inv_ite ?_ ?_
    | split
    | with_reducible refine portMod_keeps hm ?_
    | with_reducible refine portState_keeps hm ?_

theorem execCablePresenceChange_keeps {port : Nat} {present : Bool} {memAnswers : Bool} {s : State} (hm : 13196903720152 &&& κ = 13196903720152)  (hs : (Keeps κ s₀) s) : OutInv (Keeps κ s₀) (execCablePresenceChange port present memAnswers s) := by
  have u0 : 4326616 &&& κ = 4326616 := sub_mask (by decide) hm
  have u1 : 13196899524808 &&& κ = 13196899524808 := sub_mask (by decide) hm
  unfold execCablePresenceChange
  repeat' first
    | with_reducible assumption
    | with_reducible intro _
    | with_reducible apply out_next
    | split
    | with_reducible refine drainAll_keeps u0 ?_
    | with_reducible refine cableChange_keeps u1 ?_

theorem laneRetired_keeps {n : Nat} {lane : Nat} {s : State} (hm : 14297484894664 &&& κ = 14297484894664)  (hs : (Keeps κ s₀) s) : (Keeps κ s₀) (laneRetired n lane s) := by
  have u0 : 192 &&& κ = 192 := sub_mask (by decide) hm
  have u1 : 2684485704 &&& κ = 2684485704 := sub_mask (by decide) hm
  have u2 : 13196899524808 &&& κ = 13196899524808 := sub_mask (by decide) hm
  unfold laneRetired
  repeat' first
    | with_reducible assumption
    | with_reducible intro _
    | with_reducible refine inv_ite ?_ ?_
    | split
    | with_reducible refine blkFault_keeps u0 ?_
    | with_reducible refine raise_keeps u1 ?_
    | with_reducible refine noSpare_keeps u2 ?_
    | with_reducible refine retireUnit_keeps hm ?_
    | with_reducible refine portMod_keeps u2 ?_
    | with_reducible refine raisePort_keeps u2 ?_
    | with_reducible refine portState_keeps u2 ?_

theorem laneSpared_keeps {n : Nat} {lane : Nat} {loopbackFails : Bool} {s : State} (hm : 14297484894664 &&& κ = 14297484894664)  (hs : (Keeps κ s₀) s) : (Keeps κ s₀) (laneSpared n lane loopbackFails s) := by
  unfold laneSpared
  repeat' first
    | with_reducible assumption
    | with_reducible intro _
    | with_reducible refine inv_ite ?_ ?_
    | split
    | with_reducible refine laneRetired_keeps hm ?_

theorem execLaneSpared_keeps {port : Nat} {lane : Nat} {loopbackFails : Bool} {s : State} (hm : 14297489090008 &&& κ = 14297489090008)  (hs : (Keeps κ s₀) s) : OutInv (Keeps κ s₀) (execLaneSpared port lane loopbackFails s) := by
  have u0 : 4326616 &&& κ = 4326616 := sub_mask (by decide) hm
  have u1 : 14297484894664 &&& κ = 14297484894664 := sub_mask (by decide) hm
  unfold execLaneSpared
  repeat' first
    | with_reducible assumption
    | with_reducible intro _
    | with_reducible apply out_next
    | split
    | with_reducible refine drainAll_keeps u0 ?_
    | with_reducible refine laneSpared_keeps u1 ?_

theorem addressRequest_keeps {n : Nat} {hi : Nat} {lo : Nat} {s : State} (hm : 8 &&& κ = 8)  (hs : (Keeps κ s₀) s) : (Keeps κ s₀) (addressRequest n hi lo s) := by
  unfold addressRequest
  repeat' first
    | with_reducible assumption
    | with_reducible intro _
    | with_reducible refine inv_ite ?_ ?_
    | split
    | with_reducible refine emit_keeps hm ?_

theorem execAddressResolutionRequest_keeps {port : Nat} {ipHi : Nat} {ipLo : Nat} {s : State} (hm : 8 &&& κ = 8)  (hs : (Keeps κ s₀) s) : OutInv (Keeps κ s₀) (execAddressResolutionRequest port ipHi ipLo s) := by
  unfold execAddressResolutionRequest
  repeat' first
    | with_reducible assumption
    | with_reducible intro _
    | with_reducible apply out_next
    | split
    | with_reducible refine addressRequest_keeps hm ?_

theorem raisePeer_keeps {i : Nat} {sev : Nat} {s : State} (hm : 2684485704 &&& κ = 2684485704)  (hs : (Keeps κ s₀) s) : (Keeps κ s₀) (raisePeer i sev s) := by
  unfold raisePeer
  repeat' first
    | with_reducible assumption
    | with_reducible intro _
    | split
    | with_reducible refine raise_keeps hm ?_

theorem sendHello_keeps {i : Nat} {isAck : Bool} {s : State} (hm : 8 &&& κ = 8)  (hs : (Keeps κ s₀) s) : (Keeps κ s₀) (sendHello i isAck s) := by
  unfold sendHello
  repeat' first
    | with_reducible assumption
    | with_reducible intro _
    | with_reducible refine inv_ite ?_ ?_
    | split
    | with_reducible refine emit_keeps hm ?_

theorem newConn_keeps {i : Nat} {s : State} (hm : 536870912 &&& κ = 536870912)  (hs : (Keeps κ s₀) s) : (Keeps κ s₀) (newConn i s) := by
  unfold newConn
  repeat' first
    | with_reducible assumption
    | with_reducible intro _
    | split
    | with_reducible refine peerMod_keeps hm ?_
    | with_reducible refine cstMod_keeps hm ?_

theorem connDown_keeps {i : Nat} {s : State} (hm : 13196891136072 &&& κ = 13196891136072)  (hs : (Keeps κ s₀) s) : (Keeps κ s₀) (connDown i s) := by
  have u0 : 536870912 &&& κ = 536870912 := sub_mask (by decide) hm
  have u1 : 13196354134080 &&& κ = 13196354134080 := sub_mask (by decide) hm
  have u2 : 2684485704 &&& κ = 2684485704 := sub_mask (by decide) hm
  unfold connDown
  repeat' first
    | with_reducible assumption
    | with_reducible intro _
    | split
    | with_reducible refine peerMod_keeps u0 ?_
    | with_reducible refine fansDown_keeps u1 ?_
    | with_reducible refine raisePeer_keeps u2 ?_
    | with_reducible refine newConn_keeps u0 ?_

theorem openFresh_keeps {i : Nat} {conn : Nat} {shard : Nat} {ports : Nat} {s : State} (hm : 2684485704 &&& κ = 2684485704)  (hs : (Keeps κ s₀) s) : (Keeps κ s₀) (openFresh i conn shard ports s) := by
  have u0 : 536870920 &&& κ = 536870920 := sub_mask (by decide) hm
  have u1 : 536870912 &&& κ = 536870912 := sub_mask (by decide) hm
  unfold openFresh
  repeat' first
    | with_reducible assumption
    | with_reducible intro _
    | with_reducible refine inv_ite ?_ ?_
    | split
    | with_reducible refine flushMsgs_keeps u0 ?_
    | with_reducible refine peerMod_keeps u1 ?_
    | with_reducible refine shipRest_keeps u0 ?_
    | with_reducible refine cstMod_keeps u1 ?_
    | with_reducible refine raisePeer_keeps hm ?_

theorem openConn_keeps {i : Nat} {conn : Nat} {shard : Nat} {ports : Nat} {s : State} (hm : 13196891136072 &&& κ = 13196891136072)  (hs : (Keeps κ s₀) s) : (Keeps κ s₀) (openConn i conn shard ports s) := by
  have u1 : 2684485704 &&& κ = 2684485704 := sub_mask (by decide) hm
  unfold openConn
  repeat' first
    | with_reducible assumption
    | with_reducible intro _
    | with_reducible refine inv_ite ?_ ?_
    | split
    | with_reducible refine connDown_keeps hm ?_
    | with_reducible refine openFresh_keeps u1 ?_

theorem fromPeer_keeps {i : Nat} {f : Peer → State → State} {s : State} (hm : 64 &&& κ = 64) (hf : ∀ a0 a1, (Keeps κ s₀) a1 → (Keeps κ s₀) (f a0 a1)) (hs : (Keeps κ s₀) s) : (Keeps κ s₀) (fromPeer i f s) := by
  unfold fromPeer
  repeat' first
    | with_reducible assumption
    | with_reducible intro _
    | with_reducible refine inv_ite ?_ ?_
    | split
    | with_reducible refine bumpSat_keeps hm ?_
    | with_reducible apply hf

theorem execHello_keeps {peer : Nat} {conn : Nat} {shard : Nat} {portsUp : Nat} {s : State} (hm : 13196895331544 &&& κ = 13196895331544)  (hs : (Keeps κ s₀) s) : OutInv (Keeps κ s₀) (execHello peer conn shard portsUp s) := by
  have u0 : 4326616 &&& κ = 4326616 := sub_mask (by decide) hm
  have u1 : 8 &&& κ = 8 := sub_mask (by decide) hm
  have u2 : 13196891136072 &&& κ = 13196891136072 := sub_mask (by decide) hm
  have u3 : 64 &&& κ = 64 := sub_mask (by decide) hm
  unfold execHello
  repeat' first
    | with_reducible assumption
    | with_reducible intro _
    | with_reducible apply out_next
    | split
    | with_reducible refine drainAll_keeps u0 ?_
    | with_reducible refine sendHello_keeps u1 ?_
    | with_reducible refine openConn_keeps u2 ?_
    | with_reducible refine fromPeer_keeps u3 ?_ ?_

theorem execHelloAck_keeps {peer : Nat} {conn : Nat} {shard : Nat} {portsUp : Nat} {s : State} (hm : 13196895331544 &&& κ = 13196895331544)  (hs : (Keeps κ s₀) s) : OutInv (Keeps κ s₀) (execHelloAck peer conn shard portsUp s) := by
  have u0 : 4326616 &&& κ = 4326616 := sub_mask (by decide) hm
  have u1 : 13196891136072 &&& κ = 13196891136072 := sub_mask (by decide) hm
  have u2 : 64 &&& κ = 64 := sub_mask (by decide) hm
  unfold execHelloAck
  repeat' first
    | with_reducible assumption
    | with_reducible intro _
    | with_reducible apply out_next
    | split
    | with_reducible refine drainAll_keeps u0 ?_
    | with_reducible refine openConn_keeps u1 ?_
    | with_reducible refine fromPeer_keeps u2 ?_ ?_

theorem execClose_keeps {peer : Nat} {s : State} (hm : 13196895331544 &&& κ = 13196895331544)  (hs : (Keeps κ s₀) s) : OutInv (Keeps κ s₀) (execClose peer s) := by
  have u0 : 4326616 &&& κ = 4326616 := sub_mask (by decide) hm
  have u1 : 13196891136072 &&& κ = 13196891136072 := sub_mask (by decide) hm
  have u2 : 64 &&& κ = 64 := sub_mask (by decide) hm
  unfold execClose
  repeat' first
    | with_reducible assumption
    | with_reducible intro _
    | with_reducible refine out_ite ?_ ?_
    | with_reducible refine inv_ite ?_ ?_
    | with_reducible apply out_next
    | split
    | with_reducible refine drainAll_keeps u0 ?_
    | with_reducible refine connDown_keeps u1 ?_
    | with_reducible refine fromPeer_keeps u2 ?_ ?_

theorem connectionDown_keeps {i : Nat} {s : State} (hm : 13196891136200 &&& κ = 13196891136200)  (hs : (Keeps κ s₀) s) : (Keeps κ s₀) (connectionDown i s) := by
  have u0 : 192 &&& κ = 192 := sub_mask (by decide) hm
  have u1 : 8 &&& κ = 8 := sub_mask (by decide) hm
  have u2 : 13196891136072 &&& κ = 13196891136072 := sub_mask (by decide) hm
  unfold connectionDown
  repeat' first
    | with_reducible assumption
    | with_reducible intro _
    | with_reducible refine inv_ite ?_ ?_
    | split
    | with_reducible refine blkFault_keeps u0 ?_
    | with_reducible refine sendHello_keeps u1 ?_
    | with_reducible refine connDown_keeps u2 ?_

theorem execConnectionDown_keeps {peer : Nat} {s : State} (hm : 13196895331544 &&& κ = 13196895331544)  (hs : (Keeps κ s₀) s) : OutInv (Keeps κ s₀) (execConnectionDown peer s) := by
  have u0 : 4326616 &&& κ = 4326616 := sub_mask (by decide) hm
  have u1 : 13196891136200 &&& κ = 13196891136200 := sub_mask (by decide) hm
  unfold execConnectionDown
  repeat' first
    | with_reducible assumption
    | with_reducible intro _
    | with_reducible apply out_next
    | split
    | with_reducible refine drainAll_keeps u0 ?_
    | with_reducible refine connectionDown_keeps u1 ?_

theorem helloRetry_keeps {i : Nat} {s : State} (hm : 8 &&& κ = 8)  (hs : (Keeps κ s₀) s) : (Keeps κ s₀) (helloRetry i s) := by
  unfold helloRetry
  repeat' first
    | with_reducible assumption
    | with_reducible intro _
    | with_reducible refine inv_ite ?_ ?_
    | split
    | with_reducible refine sendHello_keeps hm ?_

theorem execHelloRetry_keeps {peer : Nat} {s : State} (hm : 8 &&& κ = 8)  (hs : (Keeps κ s₀) s) : OutInv (Keeps κ s₀) (execHelloRetry peer s) := by
  unfold execHelloRetry
  repeat' first
    | with_reducible assumption
    | with_reducible intro _
    | with_reducible apply out_next
    | split
    | with_reducible refine helloRetry_keeps hm ?_

theorem sendAck_keeps {i : Nat} {s : State} (hm : 536870920 &&& κ = 536870920)  (hs : (Keeps κ s₀) s) : (Keeps κ s₀) (sendAck i s) := by
  have u0 : 8 &&& κ = 8 := sub_mask (by decide) hm
  have u1 : 536870912 &&& κ = 536870912 := sub_mask (by decide) hm
  unfold sendAck
  repeat' first
    | with_reducible assumption
    | with_reducible intro _
    | with_reducible refine inv_ite ?_ ?_
    | split
    | with_reducible refine inv_foldl ?_ ?_
    | with_reducible refine emit_keeps u0 ?_
    | with_reducible refine peerMod_keeps u1 ?_

theorem ackDelay_keeps {i : Nat} {s : State} (hm : 536870920 &&& κ = 536870920)  (hs : (Keeps κ s₀) s) : (Keeps κ s₀) (ackDelay i s) := by
  unfold ackDelay
  repeat' first
    | with_reducible assumption
    | with_reducible intro _
    | with_reducible refine inv_ite ?_ ?_
    | split
    | with_reducible refine sendAck_keeps hm ?_

theorem execAckDelayTimer_keeps {peer : Nat} {s : State} (hm : 536870920 &&& κ = 536870920)  (hs : (Keeps κ s₀) s) : OutInv (Keeps κ s₀) (execAckDelayTimer peer s) := by
  unfold execAckDelayTimer
  repeat' first
    | with_reducible assumption
    | with_reducible intro _
    | with_reducible apply out_next
    | split
    | with_reducible refine ackDelay_keeps hm ?_

theorem dataFrom_keeps {i : Nat} {h : PktHdr} {payload : List Byte} {ce : Bool} {p : Peer} {s : State} (hm : 536870920 &&& κ = 536870920)  (hs : (Keeps κ s₀) s) : (Keeps κ s₀) (dataFrom i h payload ce p s) := by
  have u0 : 536870912 &&& κ = 536870912 := sub_mask (by decide) hm
  unfold dataFrom
  repeat' first
    | with_reducible assumption
    | with_reducible intro _
    | with_reducible refine inv_ite ?_ ?_
    | split
    | with_reducible refine peerMod_keeps u0 ?_
    | with_reducible refine sendAck_keeps hm ?_

theorem dataPacket_keeps {i : Nat} {known : Bool} {h : PktHdr} {payload : List Byte} {ce : Bool} {s : State} (hm : 536870984 &&& κ = 536870984)  (hs : (Keeps κ s₀) s) : (Keeps κ s₀) (dataPacket i known h payload ce s) := by
  have u0 : 64 &&& κ = 64 := sub_mask (by decide) hm
  have u1 : 536870920 &&& κ = 536870920 := sub_mask (by decide) hm
  unfold dataPacket
  repeat' first
    | with_reducible assumption
    | with_reducible intro _
    | with_reducible refine inv_ite ?_ ?_
    | split
    | with_reducible refine bumpSat_keeps u0 ?_
    | with_reducible refine fromPeer_keeps u0 ?_ ?_
    | with_reducible refine dataFrom_keeps u1 ?_

theorem execDataPacket_keeps {peer : Nat} {known : Bool} {_port : Nat} {hdr : PktHdr} {payload : List Byte} {ce : Bool} {s : State} (hm : 536870984 &&& κ = 536870984)  (hs : (Keeps κ s₀) s) : OutInv (Keeps κ s₀) (execDataPacket peer known _port hdr payload ce s) := by
  unfold execDataPacket
  repeat' first
    | with_reducible assumption
    | with_reducible intro _
    | with_reducible apply out_next
    | split
    | with_reducible refine dataPacket_keeps hm ?_

theorem ackFrom_keeps {i : Nat} {ackPsn : Nat} {bitmap : Word64} {ce : Nat} {p : Peer} {s : State} (hm : 536870920 &&& κ = 536870920)  (hs : (Keeps κ s₀) s) : (Keeps κ s₀) (ackFrom i ackPsn bitmap ce p s) := by
  have u1 : 536870912 &&& κ = 536870912 := sub_mask (by decide) hm
  unfold ackFrom
  repeat' first
    | with_reducible assumption
    | with_reducible intro _
    | with_reducible refine inv_ite ?_ ?_
    | split
    | with_reducible refine flushMsgs_keeps hm ?_
    | with_reducible refine peerMod_keeps u1 ?_

theorem execAck_keeps {peer : Nat} {ackPsn : Nat} {bitmap : Word64} {ce : Nat} {s : State} (hm : 536870984 &&& κ = 536870984)  (hs : (Keeps κ s₀) s) : OutInv (Keeps κ s₀) (execAck peer ackPsn bitmap ce s) := by
  have u0 : 64 &&& κ = 64 := sub_mask (by decide) hm
  have u1 : 536870920 &&& κ = 536870920 := sub_mask (by decide) hm
  unfold execAck
  repeat' first
    | with_reducible assumption
    | with_reducible intro _
    | with_reducible apply out_next
    | split
    | with_reducible refine fromPeer_keeps u0 ?_ ?_
    | with_reducible refine ackFrom_keeps u1 ?_

theorem resendTimeout_keeps {i : Nat} {s : State} (hm : 536870920 &&& κ = 536870920)  (hs : (Keeps κ s₀) s) : (Keeps κ s₀) (resendTimeout i s) := by
  have u0 : 8 &&& κ = 8 := sub_mask (by decide) hm
  have u1 : 536870912 &&& κ = 536870912 := sub_mask (by decide) hm
  unfold resendTimeout
  repeat' first
    | with_reducible assumption
    | with_reducible intro _
    | with_reducible refine inv_ite ?_ ?_
    | split
    | with_reducible refine inv_foldl ?_ ?_
    | with_reducible refine emit_keeps u0 ?_
    | with_reducible refine peerMod_keeps u1 ?_

theorem execResendTimeout_keeps {peer : Nat} {s : State} (hm : 536870920 &&& κ = 536870920)  (hs : (Keeps κ s₀) s) : OutInv (Keeps κ s₀) (execResendTimeout peer s) := by
  unfold execResendTimeout
  repeat' first
    | with_reducible assumption
    | with_reducible intro _
    | with_reducible apply out_next
    | split
    | with_reducible refine resendTimeout_keeps hm ?_

theorem rateIncrease_keeps {i : Nat} {s : State} (hm : 536870912 &&& κ = 536870912)  (hs : (Keeps κ s₀) s) : (Keeps κ s₀) (rateIncrease i s) := by
  unfold rateIncrease
  repeat' first
    | with_reducible assumption
    | with_reducible intro _
    | with_reducible refine inv_ite ?_ ?_
    | split
    | with_reducible refine peerMod_keeps hm ?_

theorem execRateIncrease_keeps {peer : Nat} {s : State} (hm : 536870912 &&& κ = 536870912)  (hs : (Keeps κ s₀) s) : OutInv (Keeps κ s₀) (execRateIncrease peer s) := by
  unfold execRateIncrease
  repeat' first
    | with_reducible assumption
    | with_reducible intro _
    | with_reducible apply out_next
    | split
    | with_reducible refine rateIncrease_keeps hm ?_

theorem msgFrom_keeps {i : Nat} {f : Peer → State → State} {s : State} (hm : 0 &&& κ = 0) (hf : ∀ a0 a1, (Keeps κ s₀) a1 → (Keeps κ s₀) (f a0 a1)) (hs : (Keeps κ s₀) s) : (Keeps κ s₀) (msgFrom i f s) := by
  unfold msgFrom
  repeat' first
    | with_reducible assumption
    | with_reducible intro _
    | with_reducible refine inv_ite ?_ ?_
    | split
    | with_reducible apply hf

theorem refuseRole_keeps {i : Nat} {q : Nat} {s : State} (hm : 536870984 &&& κ = 536870984)  (hs : (Keeps κ s₀) s) : (Keeps κ s₀) (refuseRole i q s) := by
  have u0 : 64 &&& κ = 64 := sub_mask (by decide) hm
  have u1 : 536870920 &&& κ = 536870920 := sub_mask (by decide) hm
  unfold refuseRole
  repeat' first
    | with_reducible assumption
    | with_reducible intro _
    | split
    | with_reducible refine bumpSat_keeps u0 ?_
    | with_reducible refine sendMsg_keeps u1 ?_

theorem remoteCommit_keeps {i : Nat} {q : Nat} {cmd : List Byte} {data : List Byte} {p : Peer} {s : State} (hm : 2688708808 &&& κ = 2688708808)  (hs : (Keeps κ s₀) s) : (Keeps κ s₀) (remoteCommit i q cmd data p s) := by
  have u0 : 4096 &&& κ = 4096 := sub_mask (by decide) hm
  have u1 : 536870920 &&& κ = 536870920 := sub_mask (by decide) hm
  have u2 : 2684489928 &&& κ = 2684489928 := sub_mask (by decide) hm
  have u3 : 4223176 &&& κ = 4223176 := sub_mask (by decide) hm
  have u4 : 536870984 &&& κ = 536870984 := sub_mask (by decide) hm
  unfold remoteCommit
  repeat' first
    | with_reducible assumption
    | with_reducible intro _
    | with_reducible refine inv_ite ?_ ?_
    | split
    | with_reducible refine sendMsg_keeps u1 ?_
    | with_reducible refine rejectCommit_keeps u2 ?_
    | with_reducible refine acceptCommit_keeps u3 ?_
    | with_reducible refine refuseRole_keeps u4 ?_
    | (dsimp only)
    | with_reducible refine upd_queues u0 ?_

theorem execRcmd_keeps {peer : Nat} {q : Nat} {cmd : List Byte} {data : List Byte} {s : State} (hm : 2688709848 &&& κ = 2688709848)  (hs : (Keeps κ s₀) s) : OutInv (Keeps κ s₀) (execRcmd peer q cmd data s) := by
  have u0 : 4326616 &&& κ = 4326616 := sub_mask (by decide) hm
  have u1 : 0 &&& κ = 0 := sub_mask (by decide) hm
  have u2 : 2688708808 &&& κ = 2688708808 := sub_mask (by decide) hm
  unfold execRcmd
  repeat' first
    | with_reducible assumption
    | with_reducible intro _
    | with_reducible apply out_next
    | split
    | with_reducible refine drainAll_keeps u0 ?_
    | with_reducible refine msgFrom_keeps u1 ?_ ?_
    | with_reducible refine remoteCommit_keeps u2 ?_

theorem sendRcpl_keeps {i : Nat} {q : Nat} {s : State} (hm : 24477377752 &&& κ = 24477377752)  (hs : (Keeps κ s₀) s) : (Keeps κ s₀) (sendRcpl i q s) := by
  unfold sendRcpl
  repeat' first
    | with_reducible assumption
    | with_reducible intro _
    | with_reducible refine inv_ite ?_ ?_
    | split
    | with_reducible refine postRecord_keeps hm ?_

theorem execRcpl_keeps {peer : Nat} {q : Nat} {s : State} (hm : 24477377752 &&& κ = 24477377752)  (hs : (Keeps κ s₀) s) : OutInv (Keeps κ s₀) (execRcpl peer q s) := by
  unfold execRcpl
  repeat' first
    | with_reducible assumption
    | with_reducible intro _
    | with_reducible apply out_next
    | split
    | with_reducible refine sendRcpl_keeps hm ?_

theorem execReject_keeps {peer : Nat} {_q : Nat} {reason : Nat} {_nextSeq : Nat} {s : State} (hm : 13196358460632 &&& κ = 13196358460632)  (hs : (Keeps κ s₀) s) : OutInv (Keeps κ s₀) (execReject peer _q reason _nextSeq s) := by
  have u0 : 4326616 &&& κ = 4326616 := sub_mask (by decide) hm
  have u1 : 13196354134208 &&& κ = 13196354134208 := sub_mask (by decide) hm
  have u2 : 0 &&& κ = 0 := sub_mask (by decide) hm
  unfold execReject
  repeat' first
    | with_reducible assumption
    | with_reducible intro _
    | with_reducible refine out_ite ?_ ?_
    | with_reducible refine inv_ite ?_ ?_
    | with_reducible apply out_next
    | split
    | with_reducible refine drainAll_keeps u0 ?_
    | with_reducible refine fansRejected_keeps u1 ?_
    | with_reducible refine msgFrom_keeps u2 ?_ ?_

theorem sendEvent_keeps {i : Nat} {p : Peer} {s : State} (hm : 536870920 &&& κ = 536870920)  (hs : (Keeps κ s₀) s) : (Keeps κ s₀) (sendEvent i p s) := by
  have u1 : 536870912 &&& κ = 536870912 := sub_mask (by decide) hm
  unfold sendEvent
  repeat' first
    | with_reducible assumption
    | with_reducible intro _
    | split
    | with_reducible refine sendMsg_keeps hm ?_
    | with_reducible refine peerMod_keeps u1 ?_

theorem execEvent_keeps {peer : Nat} {s : State} (hm : 536870920 &&& κ = 536870920)  (hs : (Keeps κ s₀) s) : OutInv (Keeps κ s₀) (execEvent peer s) := by
  have u0 : 0 &&& κ = 0 := sub_mask (by decide) hm
  unfold execEvent
  repeat' first
    | with_reducible assumption
    | with_reducible intro _
    | with_reducible apply out_next
    | split
    | with_reducible refine msgFrom_keeps u0 ?_ ?_
    | with_reducible refine sendEvent_keeps hm ?_

theorem mirrorHold_keeps {i : Nat} {recs : List MirrorRec} {p : Peer} {s : State} (hm : 536870920 &&& κ = 536870920)  (hs : (Keeps κ s₀) s) : (Keeps κ s₀) (mirrorHold i recs p s) := by
  have u0 : 536870912 &&& κ = 536870912 := sub_mask (by decide) hm
  unfold mirrorHold
  repeat' first
    | with_reducible assumption
    | with_reducible intro _
    | with_reducible refine inv_ite ?_ ?_
    | split
    | with_reducible refine peerMod_keeps u0 ?_
    | with_reducible refine mirrorTake_keeps hm ?_

theorem mrecFrom_keeps {i : Nat} {recs : List MirrorRec} {p : Peer} {s : State} (hm : 536870984 &&& κ = 536870984)  (hs : (Keeps κ s₀) s) : (Keeps κ s₀) (mrecFrom i recs p s) := by
  have u0 : 536870912 &&& κ = 536870912 := sub_mask (by decide) hm
  have u2 : 536870920 &&& κ = 536870920 := sub_mask (by decide) hm
  unfold mrecFrom
  repeat' first
    | with_reducible assumption
    | with_reducible intro _
    | with_reducible refine inv_ite ?_ ?_
    | split
    | with_reducible refine cstMod_keeps u0 ?_
    | with_reducible refine refuseRole_keeps hm ?_
    | with_reducible refine mirrorHold_keeps u2 ?_

theorem execMrec_keeps {peer : Nat} {recs : List MirrorRec} {s : State} (hm : 536870984 &&& κ = 536870984)  (hs : (Keeps κ s₀) s) : OutInv (Keeps κ s₀) (execMrec peer recs s) := by
  have u0 : 0 &&& κ = 0 := sub_mask (by decide) hm
  unfold execMrec
  repeat' first
    | with_reducible assumption
    | with_reducible intro _
    | with_reducible apply out_next
    | split
    | with_reducible refine msgFrom_keeps u0 ?_ ?_
    | with_reducible refine mrecFrom_keeps hm ?_

theorem mfetchFrom_keeps {i : Nat} {first : Nat} {last : Nat} {p : Peer} {s : State} (hm : 536870984 &&& κ = 536870984)  (hs : (Keeps κ s₀) s) : (Keeps κ s₀) (mfetchFrom i first last p s) := by
  have u0 : 536870920 &&& κ = 536870920 := sub_mask (by decide) hm
  unfold mfetchFrom
  repeat' first
    | with_reducible assumption
    | with_reducible intro _
    | with_reducible refine inv_ite ?_ ?_
    | split
    | with_reducible refine sendMsg_keeps u0 ?_
    | with_reducible refine refuseRole_keeps hm ?_

theorem execMfetch_keeps {peer : Nat} {first : Nat} {last : Nat} {s : State} (hm : 536870984 &&& κ = 536870984)  (hs : (Keeps κ s₀) s) : OutInv (Keeps κ s₀) (execMfetch peer first last s) := by
  have u0 : 0 &&& κ = 0 := sub_mask (by decide) hm
  unfold execMfetch
  repeat' first
    | with_reducible assumption
    | with_reducible intro _
    | with_reducible apply out_next
    | split
    | with_reducible refine msgFrom_keeps u0 ?_ ?_
    | with_reducible refine mfetchFrom_keeps hm ?_

theorem mtrimFrom_keeps {i : Nat} {ckptSeq : Nat} {dead : List (Nat × Nat)} {p : Peer} {s : State} (hm : 536870984 &&& κ = 536870984)  (hs : (Keeps κ s₀) s) : (Keeps κ s₀) (mtrimFrom i ckptSeq dead p s) := by
  have u0 : 536870912 &&& κ = 536870912 := sub_mask (by decide) hm
  have u1 : 536870920 &&& κ = 536870920 := sub_mask (by decide) hm
  unfold mtrimFrom
  repeat' first
    | with_reducible assumption
    | with_reducible intro _
    | with_reducible refine inv_ite ?_ ?_
    | split
    | with_reducible refine inv_foldl ?_ ?_
    | with_reducible refine peerMod_keeps u0 ?_
    | with_reducible refine mirrorTake_keeps u1 ?_
    | with_reducible refine refuseRole_keeps hm ?_

theorem execMtrim_keeps {peer : Nat} {ckptSeq : Nat} {dead : List (Nat × Nat)} {s : State} (hm : 536870984 &&& κ = 536870984)  (hs : (Keeps κ s₀) s) : OutInv (Keeps κ s₀) (execMtrim peer ckptSeq dead s) := by
  have u0 : 0 &&& κ = 0 := sub_mask (by decide) hm
  unfold execMtrim
  repeat' first
    | with_reducible assumption
    | with_reducible intro _
    | with_reducible apply out_next
    | split
    | with_reducible refine msgFrom_keeps u0 ?_ ?_
    | with_reducible refine mtrimFrom_keeps hm ?_

theorem mackFrom_keeps {i : Nat} {seq : Nat} {s : State} (hm : 13197159440584 &&& κ = 13197159440584)  (hs : (Keeps κ s₀) s) : (Keeps κ s₀) (mackFrom i seq s) := by
  have u0 : 536870920 &&& κ = 536870920 := sub_mask (by decide) hm
  have u1 : 268435456 &&& κ = 268435456 := sub_mask (by decide) hm
  have u2 : 13196354134208 &&& κ = 13196354134208 := sub_mask (by decide) hm
  have u3 : 536870912 &&& κ = 536870912 := sub_mask (by decide) hm
  unfold mackFrom
  repeat' first
    | with_reducible assumption
    | with_reducible intro _
    | with_reducible refine inv_ite ?_ ?_
    | split
    | with_reducible refine shipRest_keeps u0 ?_
    | with_reducible refine bagMod_keeps u1 ?_
    | with_reducible refine wakeFlush_keeps u2 ?_
    | with_reducible refine cstMod_keeps u3 ?_

theorem execMack_keeps {peer : Nat} {seq : Nat} {s : State} (hm : 13197163767000 &&& κ = 13197163767000)  (hs : (Keeps κ s₀) s) : OutInv (Keeps κ s₀) (execMack peer seq s) := by
  have u0 : 4326616 &&& κ = 4326616 := sub_mask (by decide) hm
  have u1 : 0 &&& κ = 0 := sub_mask (by decide) hm
  have u2 : 13197159440584 &&& κ = 13197159440584 := sub_mask (by decide) hm
  unfold execMack
  repeat' first
    | with_reducible assumption
    | with_reducible intro _
    | with_reducible apply out_next
    | split
    | with_reducible refine drainAll_keeps u0 ?_
    | with_reducible refine msgFrom_keeps u1 ?_ ?_
    | with_reducible refine mackFrom_keeps u2 ?_

theorem deferMirror_keeps {rs : List JRec} {s : State} (hm : 2963406920 &&& κ = 2963406920)  (hs : (Keeps κ s₀) s) : (Keeps κ s₀) (deferMirror rs s) := by
  unfold deferMirror
  repeat' first
    | with_reducible assumption
    | with_reducible intro _
    | with_reducible refine inv_ite ?_ ?_
    | split
    | with_reducible refine inv_foldl ?_ ?_
    | with_reducible refine deferAll_keeps hm ?_

theorem mirrorTimeout_keeps {s : State} (hm : 13197170057416 &&& κ = 13197170057416)  (hs : (Keeps κ s₀) s) : (Keeps κ s₀) (mirrorTimeout s) := by
  have u0 : 192 &&& κ = 192 := sub_mask (by decide) hm
  have u1 : 2684485704 &&& κ = 2684485704 := sub_mask (by decide) hm
  have u2 : 268435456 &&& κ = 268435456 := sub_mask (by decide) hm
  have u3 : 13196354134208 &&& κ = 13196354134208 := sub_mask (by decide) hm
  have u4 : 536870912 &&& κ = 536870912 := sub_mask (by decide) hm
  have u5 : 2963406920 &&& κ = 2963406920 := sub_mask (by decide) hm
  unfold mirrorTimeout
  repeat' first
    | with_reducible assumption
    | with_reducible intro _
    | with_reducible refine inv_ite ?_ ?_
    | split
    | with_reducible refine blkFault_keeps u0 ?_
    | with_reducible refine raise_keeps u1 ?_
    | with_reducible refine bagMod_keeps u2 ?_
    | with_reducible refine wakeFlush_keeps u3 ?_
    | with_reducible refine cstMod_keeps u4 ?_
    | with_reducible refine deferMirror_keeps u5 ?_

theorem execMirrorTimeout_keeps {s : State} (hm : 13197174252760 &&& κ = 13197174252760)  (hs : (Keeps κ s₀) s) : OutInv (Keeps κ s₀) (execMirrorTimeout s) := by
  have u0 : 4326616 &&& κ = 4326616 := sub_mask (by decide) hm
  have u1 : 13197170057416 &&& κ = 13197170057416 := sub_mask (by decide) hm
  unfold execMirrorTimeout
  repeat' first
    | with_reducible assumption
    | with_reducible intro _
    | with_reducible apply out_next
    | split
    | with_reducible refine drainAll_keeps u0 ?_
    | with_reducible refine mirrorTimeout_keeps u1 ?_

theorem peerPut_keeps {i : Nat} {f : Peer → Peer} {s : State} (hm : 536870912 &&& κ = 536870912)  (hs : (Keeps κ s₀) s) : (Keeps κ s₀) (peerPut i f s) := by
  unfold peerPut
  repeat' first
    | with_reducible assumption
    | with_reducible intro _
    | split
    | with_reducible refine cstMod_keeps hm ?_

theorem peerStart_keeps {i : Nat} {s : State} (hm : 536870920 &&& κ = 536870920)  (hs : (Keeps κ s₀) s) : (Keeps κ s₀) (peerStart i s) := by
  have u0 : 536870912 &&& κ = 536870912 := sub_mask (by decide) hm
  have u1 : 8 &&& κ = 8 := sub_mask (by decide) hm
  unfold peerStart
  repeat' first
    | with_reducible assumption
    | with_reducible intro _
    | split
    | with_reducible refine peerMod_keeps u0 ?_
    | with_reducible refine sendHello_keeps u1 ?_
    | with_reducible refine newConn_keeps u0 ?_

theorem peerStop_keeps {i : Nat} {state : Nat} {s : State} (hm : 13196891136072 &&& κ = 13196891136072)  (hs : (Keeps κ s₀) s) : (Keeps κ s₀) (peerStop i state s) := by
  have u0 : 8 &&& κ = 8 := sub_mask (by decide) hm
  have u1 : 536870912 &&& κ = 536870912 := sub_mask (by decide) hm
  have u2 : 13196354134080 &&& κ = 13196354134080 := sub_mask (by decide) hm
  have u3 : 2684485704 &&& κ = 2684485704 := sub_mask (by decide) hm
  unfold peerStop
  repeat' first
    | with_reducible assumption
    | with_reducible intro _
    | with_reducible refine inv_ite ?_ ?_
    | split
    | with_reducible refine emit_keeps u0 ?_
    | with_reducible refine peerMod_keeps u1 ?_
    | with_reducible refine fansDown_keeps u2 ?_
    | with_reducible refine raisePeer_keeps u3 ?_

theorem peerCtl_keeps {v : Word64} {s : State} (hm : 13196895331544 &&& κ = 13196895331544)  (hs : (Keeps κ s₀) s) : (Keeps κ s₀) (peerCtl v s) := by
  have u0 : 536870912 &&& κ = 536870912 := sub_mask (by decide) hm
  have u1 : 2688681176 &&& κ = 2688681176 := sub_mask (by decide) hm
  have u2 : 536870920 &&& κ = 536870920 := sub_mask (by decide) hm
  have u3 : 13196891136072 &&& κ = 13196891136072 := sub_mask (by decide) hm
  unfold peerCtl
  repeat' first
    | with_reducible assumption
    | with_reducible intro _
    | with_reducible refine inv_ite ?_ ?_
    | split
    | with_reducible refine peerMod_keeps u0 ?_
    | with_reducible refine regViolation3_keeps u1 ?_
    | with_reducible refine peerPut_keeps u0 ?_
    | with_reducible refine peerStart_keeps u2 ?_
    | with_reducible refine peerStop_keeps u3 ?_

theorem execCstPeerCtlWrite_keeps {v : Word64} {s : State} (hm : 13196895331544 &&& κ = 13196895331544)  (hs : (Keeps κ s₀) s) : OutInv (Keeps κ s₀) (execCstPeerCtlWrite v s) := by
  have u0 : 4326616 &&& κ = 4326616 := sub_mask (by decide) hm
  have u1 : 2688681176 &&& κ = 2688681176 := sub_mask (by decide) hm
  unfold execCstPeerCtlWrite
  repeat' first
    | with_reducible assumption
    | with_reducible intro _
    | with_reducible apply out_next
    | split
    | with_reducible refine drainAll_keeps u0 ?_
    | with_reducible refine regRow_keeps u1 ?_ ?_
    | with_reducible refine peerCtl_keeps hm ?_

theorem mirrorStart_keeps {partner : Nat} {s : State} (hm : 536870912 &&& κ = 536870912)  (hs : (Keeps κ s₀) s) : (Keeps κ s₀) (mirrorStart partner s) := by
  unfold mirrorStart
  repeat' first
    | with_reducible assumption
    | with_reducible intro _
    | with_reducible refine inv_ite ?_ ?_
    | split
    | with_reducible refine cstMod_keeps hm ?_

theorem mirrorWrite_keeps {v : Word64} {s : State} (hm : 13196891005128 &&& κ = 13196891005128)  (hs : (Keeps κ s₀) s) : (Keeps κ s₀) (mirrorWrite v s) := by
  have u0 : 64 &&& κ = 64 := sub_mask (by decide) hm
  have u1 : 536870920 &&& κ = 536870920 := sub_mask (by decide) hm
  have u2 : 13196354134208 &&& κ = 13196354134208 := sub_mask (by decide) hm
  have u3 : 536870912 &&& κ = 536870912 := sub_mask (by decide) hm
  unfold mirrorWrite
  repeat' first
    | with_reducible assumption
    | with_reducible intro _
    | with_reducible refine inv_ite ?_ ?_
    | split
    | with_reducible refine regSet_keeps u0 ?_
    | with_reducible refine shipRest_keeps u1 ?_
    | with_reducible refine wakeFlush_keeps u2 ?_
    | with_reducible refine mirrorStart_keeps u3 ?_

theorem execCstMirrorWrite_keeps {v : Word64} {s : State} (hm : 13196895331544 &&& κ = 13196895331544)  (hs : (Keeps κ s₀) s) : OutInv (Keeps κ s₀) (execCstMirrorWrite v s) := by
  have u0 : 4326616 &&& κ = 4326616 := sub_mask (by decide) hm
  have u1 : 2688681176 &&& κ = 2688681176 := sub_mask (by decide) hm
  have u2 : 13196891005128 &&& κ = 13196891005128 := sub_mask (by decide) hm
  unfold execCstMirrorWrite
  repeat' first
    | with_reducible assumption
    | with_reducible intro _
    | with_reducible apply out_next
    | split
    | with_reducible refine drainAll_keeps u0 ?_
    | with_reducible refine regRow_keeps u1 ?_ ?_
    | with_reducible refine mirrorWrite_keeps u2 ?_

theorem shardWrite_keeps {v : Word64} {s : State} (hm : 2688681176 &&& κ = 2688681176)  (hs : (Keeps κ s₀) s) : (Keeps κ s₀) (shardWrite v s) := by
  have u0 : 64 &&& κ = 64 := sub_mask (by decide) hm
  unfold shardWrite
  repeat' first
    | with_reducible assumption
    | with_reducible intro _
    | with_reducible refine inv_ite ?_ ?_
    | split
    | with_reducible refine regSet_keeps u0 ?_
    | with_reducible refine regViolation3_keeps hm ?_

theorem execCstShardWrite_keeps {v : Word64} {s : State} (hm : 2688681176 &&& κ = 2688681176)  (hs : (Keeps κ s₀) s) : OutInv (Keeps κ s₀) (execCstShardWrite v s) := by
  unfold execCstShardWrite
  repeat' first
    | with_reducible assumption
    | with_reducible intro _
    | with_reducible apply out_next
    | split
    | with_reducible refine regRow_keeps hm ?_ ?_
    | with_reducible refine shardWrite_keeps hm ?_

theorem netWrite_keeps {v : Word64} {s : State} (hm : 13196891136072 &&& κ = 13196891136072)  (hs : (Keeps κ s₀) s) : (Keeps κ s₀) (netWrite v s) := by
  have u0 : 64 &&& κ = 64 := sub_mask (by decide) hm
  have u1 : 536870920 &&& κ = 536870920 := sub_mask (by decide) hm
  unfold netWrite
  repeat' first
    | with_reducible assumption
    | with_reducible intro _
    | with_reducible refine inv_ite ?_ ?_
    | split
    | with_reducible refine inv_foldl ?_ ?_
    | with_reducible refine snd_foldl ?_ ?_
    | with_reducible refine regSet_keeps u0 ?_
    | with_reducible refine regField_keeps u0 ?_
    | with_reducible refine peerStart_keeps u1 ?_
    | with_reducible refine peerStop_keeps hm ?_

end Sys2Proof.Machine
end

