-- ==== Sys2Proof/Laws/FramesBellows.lean ====
section
/-! SUPPORT. The parts of the state that the functions of Machine/Bellows.lean may write. -/

namespace Sys2Proof.Machine

variable {κ : Nat} {s₀ : State}

theorem blwMod_keeps {f : Bellows → Bellows} {s : State} (hm : 1073741824 &&& κ = 1073741824)  (hs : (Keeps κ s₀) s) : (Keeps κ s₀) (blwMod f s) := by
  unfold blwMod
  repeat' first
    | with_reducible assumption
    | with_reducible intro _
    | split
    | (dsimp only)
    | with_reducible refine upd_blw hm ?_

theorem monitorSample_keeps {r : Nat} {slowest : Nat} {tenths : Int} {hundredths : Int} {s : State} (hm : 1073741824 &&& κ = 1073741824)  (hs : (Keeps κ s₀) s) : (Keeps κ s₀) (monitorSample r slowest tenths hundredths s) := by
  unfold monitorSample
  repeat' first
    | with_reducible assumption
    | with_reducible intro _
    | with_reducible refine inv_ite ?_ ?_
    | split
    | with_reducible refine blwMod_keeps hm ?_

theorem execMonitorSample_keeps {rail : Nat} {slowest : Nat} {tempTenths : Nat} {ofsHundredths : Int} {s : State} (hm : 1073741824 &&& κ = 1073741824)  (hs : (Keeps κ s₀) s) : OutInv (Keeps κ s₀) (execMonitorSample rail slowest tempTenths ofsHundredths s) := by
  unfold execMonitorSample
  repeat' first
    | with_reducible assumption
    | with_reducible intro _
    | with_reducible apply out_next
    | split
    | with_reducible refine monitorSample_keeps hm ?_

theorem floorWindow_keeps {counts : List Nat} {s : State} (hm : 1073750080 &&& κ = 1073750080)  (hs : (Keeps κ s₀) s) : (Keeps κ s₀) (floorWindow counts s) := by
  have u0 : 8192 &&& κ = 8192 := sub_mask (by decide) hm
  have u1 : 64 &&& κ = 64 := sub_mask (by decide) hm
  have u2 : 1073741824 &&& κ = 1073741824 := sub_mask (by decide) hm
  unfold floorWindow
  repeat' first
    | with_reducible assumption
    | with_reducible intro _
    | with_reducible refine inv_ite ?_ ?_
    | split
    | with_reducible refine bumpSat_keeps u1 ?_
    | with_reducible refine regField_keeps u1 ?_
    | with_reducible refine blwMod_keeps u2 ?_
    | (dsimp only)
    | with_reducible refine upd_cmds u0 ?_

theorem execFloorWindow_keeps {counts : List Nat} {s : State} (hm : 1073750080 &&& κ = 1073750080)  (hs : (Keeps κ s₀) s) : OutInv (Keeps κ s₀) (execFloorWindow counts s) := by
  unfold execFloorWindow
  repeat' first
    | with_reducible assumption
    | with_reducible intro _
    | with_reducible apply out_next
    | split
    | with_reducible refine floorWindow_keeps hm ?_

theorem floorLost_keeps {r : Nat} {best : Nat} {s : State} (hm : 3758227656 &&& κ = 3758227656)  (hs : (Keeps κ s₀) s) : (Keeps κ s₀) (floorLost r best s) := by
  have u0 : 192 &&& κ = 192 := sub_mask (by decide) hm
  have u1 : 2684485704 &&& κ = 2684485704 := sub_mask (by decide) hm
  have u2 : 1073741824 &&& κ = 1073741824 := sub_mask (by decide) hm
  unfold floorLost
  repeat' first
    | with_reducible assumption
    | with_reducible intro _
    | with_reducible refine inv_ite ?_ ?_
    | split
    | with_reducible refine blkFault_keeps u0 ?_
    | with_reducible refine raise_keeps u1 ?_
    | with_reducible refine blwMod_keeps u2 ?_

theorem execFloorLost_keeps {rail : Nat} {best : Nat} {s : State} (hm : 3762423000 &&& κ = 3762423000)  (hs : (Keeps κ s₀) s) : OutInv (Keeps κ s₀) (execFloorLost rail best s) := by
  have u0 : 4326616 &&& κ = 4326616 := sub_mask (by decide) hm
  have u1 : 3758227656 &&& κ = 3758227656 := sub_mask (by decide) hm
  unfold execFloorLost
  repeat' first
    | with_reducible assumption
    | with_reducible intro _
    | with_reducible apply out_next
    | split
    | with_reducible refine drainAll_keeps u0 ?_
    | with_reducible refine floorLost_keeps u1 ?_

theorem floorRestored_keeps {r : Nat} {s : State} (hm : 3758227656 &&& κ = 3758227656)  (hs : (Keeps κ s₀) s) : (Keeps κ s₀) (floorRestored r s) := by
  have u0 : 2684485704 &&& κ = 2684485704 := sub_mask (by decide) hm
  have u1 : 1073741824 &&& κ = 1073741824 := sub_mask (by decide) hm
  unfold floorRestored
  repeat' first
    | with_reducible assumption
    | with_reducible intro _
    | with_reducible refine inv_ite ?_ ?_
    | split
    | with_reducible refine raise_keeps u0 ?_
    | with_reducible refine blwMod_keeps u1 ?_

theorem execFloorRestored_keeps {rail : Nat} {s : State} (hm : 3762423000 &&& κ = 3762423000)  (hs : (Keeps κ s₀) s) : OutInv (Keeps κ s₀) (execFloorRestored rail s) := by
  have u0 : 4326616 &&& κ = 4326616 := sub_mask (by decide) hm
  have u1 : 3758227656 &&& κ = 3758227656 := sub_mask (by decide) hm
  unfold execFloorRestored
  repeat' first
    | with_reducible assumption
    | with_reducible intro _
    | with_reducible apply out_next
    | split
    | with_reducible refine drainAll_keeps u0 ?_
    | with_reducible refine floorRestored_keeps u1 ?_

theorem paceWear_keeps {u : UnitId} {slow : Nat} {s : State} (hm : 14297484894664 &&& κ = 14297484894664)  (hs : (Keeps κ s₀) s) : (Keeps κ s₀) (paceWear u slow s) := by
  have u0 : 2684485704 &&& κ = 2684485704 := sub_mask (by decide) hm
  have u2 : 1073741824 &&& κ = 1073741824 := sub_mask (by decide) hm
  unfold paceWear
  repeat' first
    | with_reducible assumption
    | with_reducible intro _
    | with_reducible refine inv_ite ?_ ?_
    | split
    | with_reducible refine raise_keeps u0 ?_
    | with_reducible refine retireAny_keeps hm ?_
    | with_reducible refine blwMod_keeps u2 ?_

theorem execPaceWear_keeps {u : UnitId} {slowdown : Nat} {s : State} (hm : 14297489090008 &&& κ = 14297489090008)  (hs : (Keeps κ s₀) s) : OutInv (Keeps κ s₀) (execPaceWear u slowdown s) := by
  have u0 : 4326616 &&& κ = 4326616 := sub_mask (by decide) hm
  have u1 : 14297484894664 &&& κ = 14297484894664 := sub_mask (by decide) hm
  unfold execPaceWear
  repeat' first
    | with_reducible assumption
    | with_reducible intro _
    | with_reducible apply out_next
    | split
    | with_reducible refine drainAll_keeps u0 ?_
    | with_reducible refine paceWear_keeps u1 ?_

theorem phaseSpared_keeps {phase : Nat} {s : State} (hm : 14297484894664 &&& κ = 14297484894664)  (hs : (Keeps κ s₀) s) : (Keeps κ s₀) (phaseSpared phase s) := by
  have u0 : 192 &&& κ = 192 := sub_mask (by decide) hm
  have u1 : 2684485704 &&& κ = 2684485704 := sub_mask (by decide) hm
  unfold phaseSpared
  repeat' first
    | with_reducible assumption
    | with_reducible intro _
    | with_reducible refine inv_ite ?_ ?_
    | split
    | with_reducible refine blkFault_keeps u0 ?_
    | with_reducible refine raise_keeps u1 ?_
    | with_reducible refine retireUnit_keeps hm ?_

theorem execPhaseSpared_keeps {phase : Nat} {s : State} (hm : 14297489090008 &&& κ = 14297489090008)  (hs : (Keeps κ s₀) s) : OutInv (Keeps κ s₀) (execPhaseSpared phase s) := by
  have u0 : 4326616 &&& κ = 4326616 := sub_mask (by decide) hm
  have u1 : 14297484894664 &&& κ = 14297484894664 := sub_mask (by decide) hm
  unfold execPhaseSpared
  repeat' first
    | with_reducible assumption
    | with_reducible intro _
    | with_reducible apply out_next
    | split
    | with_reducible refine drainAll_keeps u0 ?_
    | with_reducible refine phaseSpared_keeps u1 ?_

theorem raiseCapped_keeps {s : State} (hm : 3758227528 &&& κ = 3758227528)  (hs : (Keeps κ s₀) s) : (Keeps κ s₀) (raiseCapped s) := by
  have u0 : 2684485704 &&& κ = 2684485704 := sub_mask (by decide) hm
  have u1 : 1073741824 &&& κ = 1073741824 := sub_mask (by decide) hm
  unfold raiseCapped
  repeat' first
    | with_reducible assumption
    | with_reducible intro _
    | with_reducible refine inv_ite ?_ ?_
    | split
    | with_reducible refine raise_keeps u0 ?_
    | with_reducible refine blwMod_keeps u1 ?_

theorem powerSample_keeps {watts : Nat} {mv : Nat} {s : State} (hm : 3758227528 &&& κ = 3758227528)  (hs : (Keeps κ s₀) s) : (Keeps κ s₀) (powerSample watts mv s) := by
  have u0 : 64 &&& κ = 64 := sub_mask (by decide) hm
  have u1 : 1073741824 &&& κ = 1073741824 := sub_mask (by decide) hm
  unfold powerSample
  repeat' first
    | with_reducible assumption
    | with_reducible intro _
    | with_reducible refine inv_ite ?_ ?_
    | split
    | with_reducible refine regField_keeps u0 ?_
    | with_reducible refine blwMod_keeps u1 ?_
    | with_reducible refine raiseCapped_keeps hm ?_

theorem execPowerSample_keeps {inputW : Nat} {inputMv : Nat} {s : State} (hm : 3762423000 &&& κ = 3762423000)  (hs : (Keeps κ s₀) s) : OutInv (Keeps κ s₀) (execPowerSample inputW inputMv s) := by
  have u0 : 4326616 &&& κ = 4326616 := sub_mask (by decide) hm
  have u1 : 3758227528 &&& κ = 3758227528 := sub_mask (by decide) hm
  unfold execPowerSample
  repeat' first
    | with_reducible assumption
    | with_reducible intro _
    | with_reducible apply out_next
    | split
    | with_reducible refine drainAll_keeps u0 ?_
    | with_reducible refine powerSample_keeps u1 ?_

theorem powerPeak_keeps {watts : Nat} {milliamps : Nat} {s : State} (hm : 1073741824 &&& κ = 1073741824)  (hs : (Keeps κ s₀) s) : (Keeps κ s₀) (powerPeak watts milliamps s) := by
  unfold powerPeak
  repeat' first
    | with_reducible assumption
    | with_reducible intro _
    | with_reducible refine inv_ite ?_ ?_
    | split
    | with_reducible refine blwMod_keeps hm ?_

theorem execPowerPeak_keeps {watts : Nat} {milliamps : Nat} {s : State} (hm : 1073741824 &&& κ = 1073741824)  (hs : (Keeps κ s₀) s) : OutInv (Keeps κ s₀) (execPowerPeak watts milliamps s) := by
  unfold execPowerPeak
  repeat' first
    | with_reducible assumption
    | with_reducible intro _
    | with_reducible apply out_next
    | split
    | with_reducible refine powerPeak_keeps hm ?_

theorem goOff_keeps {s : State} (hm : 2688681176 &&& κ = 2688681176)  (hs : (Keeps κ s₀) s) : (Keeps κ s₀) (goOff s) := by
  have u0 : 2684485704 &&& κ = 2684485704 := sub_mask (by decide) hm
  have u1 : 4326616 &&& κ = 4326616 := sub_mask (by decide) hm
  have u2 : 2147483648 &&& κ = 2147483648 := sub_mask (by decide) hm
  unfold goOff
  repeat' first
    | with_reducible assumption
    | with_reducible intro _
    | with_reducible refine inv_ite ?_ ?_
    | split
    | with_reducible refine setMode_keeps u0 ?_
    | with_reducible refine drainAll_keeps u1 ?_
    | with_reducible refine beginLoss_keeps u2 ?_

theorem raiseThermal_keeps {sev : Nat} {no : Nat} {t : Int} {s : State} (hm : 2684485832 &&& κ = 2684485832)  (hs : (Keeps κ s₀) s) : (Keeps κ s₀) (raiseThermal sev no t s) := by
  have u0 : 192 &&& κ = 192 := sub_mask (by decide) hm
  have u1 : 2684485704 &&& κ = 2684485704 := sub_mask (by decide) hm
  unfold raiseThermal
  repeat' first
    | with_reducible assumption
    | with_reducible intro _
    | split
    | with_reducible refine blkFault_keeps u0 ?_
    | with_reducible refine raise_keeps u1 ?_

theorem temperatureSample_keeps {die : Nat} {dieT : Int} {stack : Nat} {stackT : Int} {heldUs : Nat} {s : State} (hm : 3762423000 &&& κ = 3762423000)  (hs : (Keeps κ s₀) s) : (Keeps κ s₀) (temperatureSample die dieT stack stackT heldUs s) := by
  have u0 : 64 &&& κ = 64 := sub_mask (by decide) hm
  have u1 : 1073741824 &&& κ = 1073741824 := sub_mask (by decide) hm
  have u2 : 2688681176 &&& κ = 2688681176 := sub_mask (by decide) hm
  have u3 : 2684485832 &&& κ = 2684485832 := sub_mask (by decide) hm
  unfold temperatureSample
  repeat' first
    | with_reducible assumption
    | with_reducible intro _
    | with_reducible refine inv_ite ?_ ?_
    | split
    | with_reducible refine regSet_keeps u0 ?_
    | with_reducible refine blwMod_keeps u1 ?_
    | with_reducible refine goOff_keeps u2 ?_
    | with_reducible refine raiseThermal_keeps u3 ?_

theorem execTemperatureSample_keeps {die : Nat} {dieT : Int} {stack : Nat} {stackT : Int} {heldUs : Nat} {s : State} (hm : 3762423000 &&& κ = 3762423000)  (hs : (Keeps κ s₀) s) : OutInv (Keeps κ s₀) (execTemperatureSample die dieT stack stackT heldUs s) := by
  have u0 : 4326616 &&& κ = 4326616 := sub_mask (by decide) hm
  unfold execTemperatureSample
  repeat' first
    | with_reducible assumption
    | with_reducible intro _
    | with_reducible apply out_next
    | split
    | with_reducible refine drainAll_keeps u0 ?_
    | with_reducible refine temperatureSample_keeps hm ?_

theorem execCoolantValveUpdate_keeps {position : Nat} {s : State} (hm : 1073741824 &&& κ = 1073741824)  (hs : (Keeps κ s₀) s) : OutInv (Keeps κ s₀) (execCoolantValveUpdate position s) := by
  unfold execCoolantValveUpdate
  repeat' first
    | with_reducible assumption
    | with_reducible intro _
    | with_reducible apply out_next
    | split
    | with_reducible refine blwMod_keeps hm ?_

theorem setFloor_keeps {n : Nat} {s : State} (hm : 1073741888 &&& κ = 1073741888)  (hs : (Keeps κ s₀) s) : (Keeps κ s₀) (setFloor n s) := by
  have u0 : 64 &&& κ = 64 := sub_mask (by decide) hm
  have u1 : 1073741824 &&& κ = 1073741824 := sub_mask (by decide) hm
  unfold setFloor
  repeat' first
    | with_reducible assumption
    | with_reducible intro _
    | with_reducible refine inv_ite ?_ ?_
    | split
    | with_reducible refine regField_keeps u0 ?_
    | with_reducible refine blwMod_keeps u1 ?_

theorem floorWrite_keeps {v : Word64} {s : State} (hm : 1073742016 &&& κ = 1073742016)  (hs : (Keeps κ s₀) s) : (Keeps κ s₀) (floorWrite v s) := by
  have u0 : 192 &&& κ = 192 := sub_mask (by decide) hm
  have u1 : 1073741888 &&& κ = 1073741888 := sub_mask (by decide) hm
  unfold floorWrite
  repeat' first
    | with_reducible assumption
    | with_reducible intro _
    | with_reducible refine inv_ite ?_ ?_
    | split
    | with_reducible refine blkFault_keeps u0 ?_
    | with_reducible refine setFloor_keeps u1 ?_

theorem execBlwFloorWrite_keeps {v : Word64} {s : State} (hm : 1073742016 &&& κ = 1073742016)  (hs : (Keeps κ s₀) s) : OutInv (Keeps κ s₀) (execBlwFloorWrite v s) := by
  unfold execBlwFloorWrite
  repeat' first
    | with_reducible assumption
    | with_reducible intro _
    | with_reducible apply out_next
    | split
    | with_reducible refine floorWrite_keeps hm ?_

theorem capWrite_keeps {v : Word64} {s : State} (hm : 1073741888 &&& κ = 1073741888)  (hs : (Keeps κ s₀) s) : (Keeps κ s₀) (capWrite v s) := by
  have u0 : 64 &&& κ = 64 := sub_mask (by decide) hm
  have u1 : 1073741824 &&& κ = 1073741824 := sub_mask (by decide) hm
  unfold capWrite
  repeat' first
    | with_reducible assumption
    | with_reducible intro _
    | split
    | with_reducible refine regField_keeps u0 ?_
    | with_reducible refine blwMod_keeps u1 ?_

theorem execBlwCapWrite_keeps {v : Word64} {s : State} (hm : 1073741888 &&& κ = 1073741888)  (hs : (Keeps κ s₀) s) : OutInv (Keeps κ s₀) (execBlwCapWrite v s) := by
  unfold execBlwCapWrite
  repeat' first
    | with_reducible assumption
    | with_reducible intro _
    | with_reducible apply out_next
    | split
    | with_reducible refine capWrite_keeps hm ?_

theorem execBlwVtargetWrite_keeps {v : Word64} {s : State} (hm : 64 &&& κ = 64)  (hs : (Keeps κ s₀) s) : OutInv (Keeps κ s₀) (execBlwVtargetWrite v s) := by
  unfold execBlwVtargetWrite
  repeat' first
    | with_reducible assumption
    | with_reducible intro _
    | with_reducible apply out_next
    | split
    | with_reducible refine regField_keeps hm ?_

theorem setGuard_keeps {n : Nat} {s : State} (hm : 1073741888 &&& κ = 1073741888)  (hs : (Keeps κ s₀) s) : (Keeps κ s₀) (setGuard n s) := by
  have u0 : 64 &&& κ = 64 := sub_mask (by decide) hm
  have u1 : 1073741824 &&& κ = 1073741824 := sub_mask (by decide) hm
  unfold setGuard
  repeat' first
    | with_reducible assumption
    | with_reducible intro _
    | with_reducible refine inv_ite ?_ ?_
    | split
    | with_reducible refine regField_keeps u0 ?_
    | with_reducible refine blwMod_keeps u1 ?_

theorem execBlwGuardWrite_keeps {v : Word64} {s : State} (hm : 1073741888 &&& κ = 1073741888)  (hs : (Keeps κ s₀) s) : OutInv (Keeps κ s₀) (execBlwGuardWrite v s) := by
  unfold execBlwGuardWrite
  repeat' first
    | with_reducible assumption
    | with_reducible intro _
    | with_reducible apply out_next
    | split
    | with_reducible refine setGuard_keeps hm ?_

theorem applyUCal_keeps {u : UCal} {s : State} (hm : 1073741888 &&& κ = 1073741888)  (hs : (Keeps κ s₀) s) : (Keeps κ s₀) (applyUCal u s) := by
  have u0 : 64 &&& κ = 64 := sub_mask (by decide) hm
  have u1 : 1073741824 &&& κ = 1073741824 := sub_mask (by decide) hm
  unfold applyUCal
  repeat' first
    | with_reducible assumption
    | with_reducible intro _
    | split
    | with_reducible refine inv_foldl ?_ ?_
    | with_reducible refine regSet_keeps u0 ?_
    | with_reducible refine regField_keeps u0 ?_
    | with_reducible refine blwMod_keeps u1 ?_
    | with_reducible refine setFloor_keeps hm ?_
    | with_reducible refine setGuard_keeps hm ?_

theorem ucalSave_keeps {s : State} (hm : 1073741888 &&& κ = 1073741888)  (hs : (Keeps κ s₀) s) : (Keeps κ s₀) (ucalSave s) := by
  have u0 : 64 &&& κ = 64 := sub_mask (by decide) hm
  have u1 : 1073741824 &&& κ = 1073741824 := sub_mask (by decide) hm
  unfold ucalSave
  repeat' first
    | with_reducible assumption
    | with_reducible intro _
    | with_reducible refine inv_ite ?_ ?_
    | split
    | with_reducible refine regField_keeps u0 ?_
    | with_reducible refine blwMod_keeps u1 ?_

theorem execUcalSave_keeps {s : State} (hm : 1073741888 &&& κ = 1073741888)  (hs : (Keeps κ s₀) s) : OutInv (Keeps κ s₀) (execUcalSave s) := by
  unfold execUcalSave
  repeat' first
    | with_reducible assumption
    | with_reducible intro _
    | with_reducible apply out_next
    | split
    | with_reducible refine ucalSave_keeps hm ?_

theorem ucalSaved_keeps {ok : Bool} {s : State} (hm : 1073741888 &&& κ = 1073741888)  (hs : (Keeps κ s₀) s) : (Keeps κ s₀) (ucalSaved ok s) := by
  have u0 : 64 &&& κ = 64 := sub_mask (by decide) hm
  have u1 : 1073741824 &&& κ = 1073741824 := sub_mask (by decide) hm
  unfold ucalSaved
  repeat' first
    | with_reducible assumption
    | with_reducible intro _
    | with_reducible refine inv_ite ?_ ?_
    | split
    | with_reducible refine regField_keeps u0 ?_
    | with_reducible refine blwMod_keeps u1 ?_

theorem execUcalSaveDone_keeps {ok : Bool} {s : State} (hm : 1073741888 &&& κ = 1073741888)  (hs : (Keeps κ s₀) s) : OutInv (Keeps κ s₀) (execUcalSaveDone ok s) := by
  unfold execUcalSaveDone
  repeat' first
    | with_reducible assumption
    | with_reducible intro _
    | with_reducible apply out_next
    | split
    | with_reducible refine ucalSaved_keeps hm ?_

theorem ucalFactory_keeps {s : State} (hm : 1073741888 &&& κ = 1073741888)  (hs : (Keeps κ s₀) s) : (Keeps κ s₀) (ucalFactory s) := by
  unfold ucalFactory
  repeat' first
    | with_reducible assumption
    | with_reducible intro _
    | with_reducible refine inv_ite ?_ ?_
    | split
    | with_reducible refine applyUCal_keeps hm ?_

theorem execUcalFactory_keeps {s : State} (hm : 1073741888 &&& κ = 1073741888)  (hs : (Keeps κ s₀) s) : OutInv (Keeps κ s₀) (execUcalFactory s) := by
  unfold execUcalFactory
  repeat' first
    | with_reducible assumption
    | with_reducible intro _
    | with_reducible apply out_next
    | split
    | with_reducible refine ucalFactory_keeps hm ?_

end Sys2Proof.Machine
end

