-- ==== Sys2Proof/Laws/FramesRecover.lean ====
section
/-! SUPPORT. The parts of the state that the functions of Machine/Recover.lean may write. -/

namespace Sys2Proof.Machine

variable {κ : Nat} {s₀ : State}

theorem loadImage_keeps {img : Image} {s : State} (hm : 60817408 &&& κ = 60817408)  (hs : (Keeps κ s₀) s) : (Keeps κ s₀) (loadImage img s) := by
  unfold loadImage
  repeat' first
    | with_reducible assumption
    | with_reducible intro _
    | split
    | (dsimp only)
    | with_reducible refine upd_domains_colls_progs_tables hm ?_

theorem loseImageEntry_keeps {media : Nat} {p : Nat × Nat} {s : State} (hm : 2963406920 &&& κ = 2963406920)  (hs : (Keeps κ s₀) s) : (Keeps κ s₀) (loseImageEntry media p s) := by
  have u0 : 8388608 &&& κ = 8388608 := sub_mask (by decide) hm
  have u2 : 64 &&& κ = 64 := sub_mask (by decide) hm
  unfold loseImageEntry
  repeat' first
    | with_reducible assumption
    | with_reducible intro _
    | split
    | with_reducible refine collMod_keeps u0 ?_
    | with_reducible refine deferAll_keeps hm ?_
    | with_reducible refine countLost_keeps u2 ?_

theorem loadGone_keeps {g : Gone} {media : Nat} {s : State} (hm : 3013738568 &&& κ = 3013738568)  (hs : (Keeps κ s₀) s) : (Keeps κ s₀) (loadGone g media s) := by
  have u0 : 50331648 &&& κ = 50331648 := sub_mask (by decide) hm
  have u1 : 2963406920 &&& κ = 2963406920 := sub_mask (by decide) hm
  unfold loadGone
  repeat' first
    | with_reducible assumption
    | with_reducible intro _
    | with_reducible refine inv_ite ?_ ?_
    | split
    | with_reducible refine inv_foldl ?_ ?_
    | with_reducible refine snd_foldl ?_ ?_
    | with_reducible refine loseImageEntry_keeps u1 ?_
    | (dsimp only)
    | with_reducible refine upd_progs_tables u0 ?_

theorem recoveryGap_keeps {h : Nat} {r : JRec} {s : State} (hm : 2684485704 &&& κ = 2684485704)  (hs : (Keeps κ s₀) s) : (Keeps κ s₀) (recoveryGap h r s) := by
  unfold recoveryGap
  repeat' first
    | with_reducible assumption
    | with_reducible intro _
    | split
    | with_reducible refine raise_keeps hm ?_

theorem markIncomplete_keeps {h : Nat} {s : State} (hm : 8388608 &&& κ = 8388608)  (hs : (Keeps κ s₀) s) : (Keeps κ s₀) (markIncomplete h s) := by
  unfold markIncomplete
  repeat' first
    | with_reducible assumption
    | with_reducible intro _
    | with_reducible refine inv_ite ?_ ?_
    | split
    | with_reducible refine collMod_keeps hm ?_
    | (dsimp only)
    | with_reducible refine upd_colls hm ?_

theorem loseReplayed_keeps {r : JRec} {s : State} (hm : 2963406920 &&& κ = 2963406920)  (hs : (Keeps κ s₀) s) : (Keeps κ s₀) (loseReplayed r s) := by
  have u1 : 64 &&& κ = 64 := sub_mask (by decide) hm
  have u2 : 8388608 &&& κ = 8388608 := sub_mask (by decide) hm
  unfold loseReplayed
  repeat' first
    | with_reducible assumption
    | with_reducible intro _
    | with_reducible refine inv_ite ?_ ?_
    | split
    | with_reducible refine deferAll_keeps hm ?_
    | with_reducible refine countLost_keeps u1 ?_
    | with_reducible refine markIncomplete_keeps u2 ?_

theorem needTable_keeps {t : Nat} {owner : Nat} {s : State} (hm : 33554432 &&& κ = 33554432)  (hs : (Keeps κ s₀) s) : (Keeps κ s₀) (needTable t owner s) := by
  unfold needTable
  repeat' first
    | with_reducible assumption
    | with_reducible intro _
    | with_reducible refine inv_ite ?_ ?_
    | split
    | (dsimp only)
    | with_reducible refine upd_tables hm ?_

theorem replayCommit_keeps {h : Nat} {op : Nat} {cut : Nat} {key : Option Nat} {move : Option Move} {seq : Nat} {s : State} (hm : 109051904 &&& κ = 109051904)  (hs : (Keeps κ s₀) s) : (Keeps κ s₀) (replayCommit h op cut key move seq s) := by
  unfold replayCommit
  repeat' first
    | with_reducible assumption
    | with_reducible intro _
    | split
    | with_reducible refine takeEffect_keeps hm ?_

theorem replayTable_keeps {h : Nat} {t : Tbl} {s : State} (hm : 41943040 &&& κ = 41943040)  (hs : (Keeps κ s₀) s) : (Keeps κ s₀) (replayTable h t s) := by
  have u0 : 8388608 &&& κ = 8388608 := sub_mask (by decide) hm
  have u1 : 33554432 &&& κ = 33554432 := sub_mask (by decide) hm
  unfold replayTable
  repeat' first
    | with_reducible assumption
    | with_reducible intro _
    | with_reducible refine inv_ite ?_ ?_
    | split
    | (dsimp only)
    | with_reducible refine upd_colls u0 ?_
    | with_reducible refine upd_tables u1 ?_
    | with_reducible refine upd_colls_tables hm ?_

theorem replayBody_keeps {r : JRec} {s : State} (hm : 127926272 &&& κ = 127926272)  (hs : (Keeps κ s₀) s) : (Keeps κ s₀) (replayBody r s) := by
  have u0 : 8388608 &&& κ = 8388608 := sub_mask (by decide) hm
  have u1 : 41943040 &&& κ = 41943040 := sub_mask (by decide) hm
  have u2 : 2097152 &&& κ = 2097152 := sub_mask (by decide) hm
  have u3 : 16777216 &&& κ = 16777216 := sub_mask (by decide) hm
  have u4 : 33554432 &&& κ = 33554432 := sub_mask (by decide) hm
  have u5 : 25165824 &&& κ = 25165824 := sub_mask (by decide) hm
  have u6 : 58720256 &&& κ = 58720256 := sub_mask (by decide) hm
  have u7 : 10485760 &&& κ = 10485760 := sub_mask (by decide) hm
  have u8 : 60817408 &&& κ = 60817408 := sub_mask (by decide) hm
  have u9 : 44040192 &&& κ = 44040192 := sub_mask (by decide) hm
  have u10 : 18874368 &&& κ = 18874368 := sub_mask (by decide) hm
  have u11 : 35651584 &&& κ = 35651584 := sub_mask (by decide) hm
  have u12 : 50331648 &&& κ = 50331648 := sub_mask (by decide) hm
  have u13 : 109051904 &&& κ = 109051904 := sub_mask (by decide) hm
  unfold replayBody
  repeat' first
    | with_reducible assumption
    | with_reducible intro _
    | with_reducible refine inv_ite ?_ ?_
    | split
    | with_reducible refine collMod_keeps u0 ?_
    | with_reducible refine domMod_keeps u2 ?_
    | with_reducible refine needTable_keeps u4 ?_
    | with_reducible refine replayCommit_keeps u13 ?_
    | with_reducible refine replayTable_keeps u1 ?_
    | (dsimp only)
    | with_reducible refine upd_colls u0 ?_
    | with_reducible refine upd_colls_tables u1 ?_
    | with_reducible refine upd_domains u2 ?_
    | with_reducible refine upd_progs u3 ?_

theorem replayAll_keeps {img : Image} {cut : Nat} {rs : List JRec} {s : State} (hm : 3080847432 &&& κ = 3080847432) (hs : Keeps κ s₀ s) :
    Keeps κ s₀ (replayAll img cut rs s) := by
  have step : ∀ (p : Replay) (r : JRec), Keeps κ s₀ p.state → Keeps κ s₀ (replayRec p r).state := by
    intro p r h
    unfold replayRec
    by_cases h1 : r.coll ∈ p.stopped
    · simp only [h1, if_true]; exact h
    by_cases h2 : r.type = 0x7F
    · simp only [h1, h2, if_true, if_false]
      cases r.lost
      · exact h
      · exact recoveryGap_keeps (sub_mask (by decide) hm) (markIncomplete_keeps (sub_mask (by decide) hm) h)
    by_cases h3 : r.lost = true
    · simp only [h1, h2, h3, if_true, if_false]; exact loseReplayed_keeps (sub_mask (by decide) hm) h
    by_cases h4 : (tget p.state.colls r.coll).any (slotHeld r) = true
    · simp only [h1, h2, h3, h4, if_true, if_false]
      exact recoveryGap_keeps (sub_mask (by decide) hm) (markIncomplete_keeps (sub_mask (by decide) hm) h)
    · simp only [h1, h2, h3, h4, if_false]; exact replayBody_keeps (sub_mask (by decide) hm) h
  have all : ∀ (l : List JRec) (p : Replay), Keeps κ s₀ p.state → Keeps κ s₀ (l.foldl replayRec p).state := by
    intro l
    induction l with
    | nil => exact fun p h => h
    | cons r t ih => exact fun p h => ih _ (step p r h)
  exact all _ _ hs

theorem loseSource_keeps {h : Nat} {s : State} {e : Entry} (hm : 2963406920 &&& κ = 2963406920)  (hs : (Keeps κ s₀) s) : (Keeps κ s₀) (loseSource h s e) := by
  have u1 : 64 &&& κ = 64 := sub_mask (by decide) hm
  have u2 : 8388608 &&& κ = 8388608 := sub_mask (by decide) hm
  unfold loseSource
  repeat' first
    | with_reducible assumption
    | with_reducible intro _
    | with_reducible refine inv_ite ?_ ?_
    | split
    | with_reducible refine deferAll_keeps hm ?_
    | with_reducible refine countLost_keeps u1 ?_
    | with_reducible refine loseSources_keeps u2 ?_

theorem sourcesChecked_keeps {s : State} (hm : 2963406920 &&& κ = 2963406920)  (hs : (Keeps κ s₀) s) : (Keeps κ s₀) (sourcesChecked s) := by
  unfold sourcesChecked
  repeat' first
    | with_reducible assumption
    | with_reducible intro _
    | split
    | with_reducible refine inv_foldl ?_ ?_
    | with_reducible refine loseSource_keeps hm ?_

theorem droneRestarted_keeps {s : State} (hm : 8388608 &&& κ = 8388608)  (hs : (Keeps κ s₀) s) : (Keeps κ s₀) (droneRestarted s) := by
  unfold droneRestarted
  repeat' first
    | with_reducible assumption
    | with_reducible intro _
    | split
    | (dsimp only)
    | with_reducible refine upd_colls hm ?_

theorem drainRecords_keeps {y0 : Nat} {y1 : State} (hm : 3087139016 &&& κ = 3087139016)  (hy1 : (Keeps κ s₀) y1) : (Keeps κ s₀) (drainRecords y0 y1) := by
  have u0 : 2684485832 &&& κ = 2684485832 := sub_mask (by decide) hm
  have u1 : 402653184 &&& κ = 402653184 := sub_mask (by decide) hm
  induction y0 generalizing y1 with
  | zero =>
    unfold drainRecords
    repeat' first
      | with_reducible assumption
  | succ n ih =>
    unfold drainRecords
    repeat' first
      | with_reducible assumption
      | with_reducible intro _
      | split
      | with_reducible apply ih
      | with_reducible refine countWritten_keeps u0 ?_
      | with_reducible refine putStripe_keeps u1 ?_

theorem drainJournal_keeps {s : State} (hm : 3087139016 &&& κ = 3087139016)  (hs : (Keeps κ s₀) s) : (Keeps κ s₀) (drainJournal s) := by
  unfold drainJournal
  repeat' first
    | with_reducible assumption
    | with_reducible intro _
    | split
    | with_reducible refine drainRecords_keeps hm ?_

theorem recoveryRoot_keeps {s : State} (hm : 268435456 &&& κ = 268435456)  (hs : (Keeps κ s₀) s) : (Keeps κ s₀) (recoveryRoot s) := by
  unfold recoveryRoot
  repeat' first
    | with_reducible assumption
    | with_reducible intro _
    | split
    | with_reducible refine bagMod_keeps hm ?_
    | with_reducible refine writeRoot_keeps hm ?_

theorem dumpReplayed_keeps {rs : List JRec} {s : State} (hm : 2952921160 &&& κ = 2952921160)  (hs : (Keeps κ s₀) s) : (Keeps κ s₀) (dumpReplayed rs s) := by
  have u0 : 2684485704 &&& κ = 2684485704 := sub_mask (by decide) hm
  have u1 : 268435456 &&& κ = 268435456 := sub_mask (by decide) hm
  unfold dumpReplayed
  repeat' first
    | with_reducible assumption
    | with_reducible intro _
    | split
    | with_reducible refine inv_foldl ?_ ?_
    | with_reducible refine raise_keeps u0 ?_
    | with_reducible refine bagMod_keeps u1 ?_

theorem recoverFrom_keeps {r : Root} {img : Image} {current : Bool} {s : State} (hm : 3215065288 &&& κ = 3215065288)  (hs : (Keeps κ s₀) s) : (Keeps κ s₀) (recoverFrom r img current s) := by
  have u0 : 268435456 &&& κ = 268435456 := sub_mask (by decide) hm
  have u1 : 60817408 &&& κ = 60817408 := sub_mask (by decide) hm
  have u2 : 3013738568 &&& κ = 3013738568 := sub_mask (by decide) hm
  have u3 : 3080847432 &&& κ = 3080847432 := sub_mask (by decide) hm
  have u4 : 2963406920 &&& κ = 2963406920 := sub_mask (by decide) hm
  have u5 : 8388608 &&& κ = 8388608 := sub_mask (by decide) hm
  have u6 : 3087139016 &&& κ = 3087139016 := sub_mask (by decide) hm
  have u7 : 2952921160 &&& κ = 2952921160 := sub_mask (by decide) hm
  unfold recoverFrom
  repeat' first
    | with_reducible assumption
    | with_reducible intro _
    | with_reducible refine inv_ite ?_ ?_
    | split
    | with_reducible refine bagMod_keeps u0 ?_
    | with_reducible refine loadImage_keeps u1 ?_
    | with_reducible refine loadGone_keeps u2 ?_
    | with_reducible refine replayAll_keeps u3 ?_
    | with_reducible refine sourcesChecked_keeps u4 ?_
    | with_reducible refine droneRestarted_keeps u5 ?_
    | with_reducible refine drainJournal_keeps u6 ?_
    | with_reducible refine recoveryRoot_keeps u0 ?_
    | with_reducible refine dumpReplayed_keeps u7 ?_
    | (dsimp only)

theorem formatFlash_keeps {s : State} (hm : 6771703808 &&& κ = 6771703808)  (hs : (Keeps κ s₀) s) : (Keeps κ s₀) (formatFlash s) := by
  have u0 : 6442450944 &&& κ = 6442450944 := sub_mask (by decide) hm
  have u1 : 268435456 &&& κ = 268435456 := sub_mask (by decide) hm
  have u2 : 60817408 &&& κ = 60817408 := sub_mask (by decide) hm
  unfold formatFlash
  repeat' first
    | with_reducible assumption
    | with_reducible intro _
    | with_reducible refine inv_ite ?_ ?_
    | split
    | with_reducible refine bagMod_keeps u1 ?_
    | with_reducible refine writeRoot_keeps u1 ?_
    | with_reducible refine loadImage_keeps u2 ?_
    | (dsimp only)
    | with_reducible refine upd_chn_sec u0 ?_

end Sys2Proof.Machine
end

