-- ==== Sys2Proof/Laws/FramesReset.lean ====
section
/-! SUPPORT. The parts of the state that the functions of Machine/Reset.lean may write. -/

namespace Sys2Proof.Machine

variable {κ : Nat} {s₀ : State}

theorem chnMod_keeps {f : Chanter → Chanter} {s : State} (hm : 2147483648 &&& κ = 2147483648)  (hs : (Keeps κ s₀) s) : (Keeps κ s₀) (chnMod f s) := by
  unfold chnMod
  repeat' first
    | with_reducible assumption
    | with_reducible intro _
    | split
    | (dsimp only)
    | with_reducible refine upd_chn hm ?_

theorem secMod_keeps {f : Security → Security} {s : State} (hm : 4294967296 &&& κ = 4294967296)  (hs : (Keeps κ s₀) s) : (Keeps κ s₀) (secMod f s) := by
  unfold secMod
  repeat' first
    | with_reducible assumption
    | with_reducible intro _
    | split
    | (dsimp only)
    | with_reducible refine upd_sec hm ?_

theorem pinMod_keeps {f : Pins → Pins} {s : State} (hm : 8589934592 &&& κ = 8589934592)  (hs : (Keeps κ s₀) s) : (Keeps κ s₀) (pinMod f s) := by
  unfold pinMod
  repeat' first
    | with_reducible assumption
    | with_reducible intro _
    | split
    | (dsimp only)
    | with_reducible refine upd_pins hm ?_

theorem settleEffect_keeps {x : Cmd} {s : State} (hm : 24472059976 &&& κ = 24472059976)  (hs : (Keeps κ s₀) s) : (Keeps κ s₀) (settleEffect x s) := by
  have u0 : 8388608 &&& κ = 8388608 := sub_mask (by decide) hm
  have u1 : 24203624520 &&& κ = 24203624520 := sub_mask (by decide) hm
  have u2 : 268435456 &&& κ = 268435456 := sub_mask (by decide) hm
  unfold settleEffect
  repeat' first
    | with_reducible assumption
    | with_reducible intro _
    | with_reducible refine inv_ite ?_ ?_
    | split
    | with_reducible refine collMod_keeps u0 ?_
    | with_reducible refine postEffect_keeps u1 ?_
    | with_reducible refine bagMod_keeps u2 ?_

theorem abortSub_keeps {s : State} {x : Cmd} (hm : 537927688 &&& κ = 537927688)  (hs : (Keeps κ s₀) s) : (Keeps κ s₀) (abortSub s x) := by
  unfold abortSub
  repeat' first
    | with_reducible assumption
    | with_reducible intro _
    | split
    | with_reducible refine sendAnswer_keeps hm ?_

theorem earlierFreed_keeps {s : State} (hm : 33554432 &&& κ = 33554432)  (hs : (Keeps κ s₀) s) : (Keeps κ s₀) (earlierFreed s) := by
  unfold earlierFreed
  repeat' first
    | with_reducible assumption
    | with_reducible intro _
    | split
    | (dsimp only)
    | with_reducible refine upd_tables hm ?_

theorem settleCmds_keeps {s : State} (hm : 8820633280584 &&& κ = 8820633280584)  (hs : (Keeps κ s₀) s) : (Keeps κ s₀) (settleCmds s) := by
  have u0 : 8796161220608 &&& κ = 8796161220608 := sub_mask (by decide) hm
  have u1 : 24472059976 &&& κ = 24472059976 := sub_mask (by decide) hm
  have u2 : 537927688 &&& κ = 537927688 := sub_mask (by decide) hm
  have u3 : 33554432 &&& κ = 33554432 := sub_mask (by decide) hm
  unfold settleCmds
  repeat' first
    | with_reducible assumption
    | with_reducible intro _
    | split
    | with_reducible refine inv_foldl ?_ ?_
    | with_reducible refine snd_foldl ?_ ?_
    | with_reducible refine settleEffect_keeps u1 ?_
    | with_reducible refine abortSub_keeps u2 ?_
    | with_reducible refine earlierFreed_keeps u3 ?_
    | (dsimp only)
    | with_reducible refine upd_cmds_reports_ledgers_srings_contexts u0 ?_

theorem postReports_keeps {y0 : Nat} {y1 : State} (hm : 2688779480 &&& κ = 2688779480)  (hy1 : (Keeps κ s₀) y1) : (Keeps κ s₀) (postReports y0 y1) := by
  have u0 : 32768 &&& κ = 32768 := sub_mask (by decide) hm
  have u1 : 4392024 &&& κ = 4392024 := sub_mask (by decide) hm
  have u2 : 2684551368 &&& κ = 2684551368 := sub_mask (by decide) hm
  have u3 : 4326616 &&& κ = 4326616 := sub_mask (by decide) hm
  induction y0 generalizing y1 with
  | zero =>
    unfold postReports
    repeat' first
      | with_reducible assumption
  | succ n ih =>
    unfold postReports
    repeat' first
      | with_reducible assumption
      | with_reducible intro _
      | with_reducible refine inv_ite ?_ ?_
      | with_reducible apply recDone_inv
      | with_reducible apply recFault_inv
      | with_reducible apply recWait_inv
      | split
      | with_reducible apply ih
      | with_reducible refine writeRecord_keeps u1 ?_
      | with_reducible refine ringFault_keeps u2 ?_
      | with_reducible refine drainAll_keeps u3 ?_
      | refine rec_done (by with_reducible assumption) ?_
      | refine rec_fault (by with_reducible assumption) ?_
      | refine rec_wait (by with_reducible assumption) ?_
      | (dsimp only)
      | with_reducible refine upd_reports u0 ?_

theorem remoteReport_keeps {s : State} {p : Nat × Cmd} (hm : 536903688 &&& κ = 536903688)  (hs : (Keeps κ s₀) s) : (Keeps κ s₀) (remoteReport s p) := by
  have u0 : 32768 &&& κ = 32768 := sub_mask (by decide) hm
  have u1 : 536870920 &&& κ = 536870920 := sub_mask (by decide) hm
  unfold remoteReport
  repeat' first
    | with_reducible assumption
    | with_reducible intro _
    | with_reducible refine inv_ite ?_ ?_
    | split
    | with_reducible refine sendMsg_keeps u1 ?_
    | (dsimp only)
    | with_reducible refine upd_reports u0 ?_

theorem resetReport_keeps {s : State} (hm : 2688779480 &&& κ = 2688779480)  (hs : (Keeps κ s₀) s) : (Keeps κ s₀) (resetReport s) := by
  have u1 : 536903688 &&& κ = 536903688 := sub_mask (by decide) hm
  unfold resetReport
  repeat' first
    | with_reducible assumption
    | with_reducible intro _
    | with_reducible refine inv_ite ?_ ?_
    | split
    | with_reducible refine inv_foldl ?_ ?_
    | with_reducible refine postReports_keeps hm ?_
    | with_reducible refine remoteReport_keeps u1 ?_

theorem execResetReportPost_keeps {s : State} (hm : 2688779480 &&& κ = 2688779480)  (hs : (Keeps κ s₀) s) : OutInv (Keeps κ s₀) (execResetReportPost s) := by
  have u0 : 4326616 &&& κ = 4326616 := sub_mask (by decide) hm
  unfold execResetReportPost
  repeat' first
    | with_reducible assumption
    | with_reducible intro _
    | with_reducible apply out_next
    | split
    | with_reducible refine drainAll_keeps u0 ?_
    | with_reducible refine resetReport_keeps hm ?_

theorem portReset_keeps {s : State} (hm : 2152668736 &&& κ = 2152668736)  (hs : (Keeps κ s₀) s) : (Keeps κ s₀) (portReset s) := by
  have u0 : 990720 &&& κ = 990720 := sub_mask (by decide) hm
  have u1 : 64 &&& κ = 64 := sub_mask (by decide) hm
  have u2 : 990784 &&& κ = 990784 := sub_mask (by decide) hm
  have u3 : 4194304 &&& κ = 4194304 := sub_mask (by decide) hm
  have u4 : 2147483648 &&& κ = 2147483648 := sub_mask (by decide) hm
  unfold portReset
  repeat' first
    | with_reducible assumption
    | with_reducible intro _
    | split
    | with_reducible refine regField_keeps u1 ?_
    | with_reducible refine crookMod_keeps u3 ?_
    | with_reducible refine chnMod_keeps u4 ?_
    | (dsimp only)
    | with_reducible refine upd_msixTable_msixPending_windows_queues_rings_evRings_classes_lastUrg u0 ?_
    | with_reducible refine upd_regs u1 ?_

theorem mapApplied_keeps {s : State} (hm : 320 &&& κ = 320)  (hs : (Keeps κ s₀) s) : (Keeps κ s₀) (mapApplied s) := by
  unfold mapApplied
  repeat' first
    | with_reducible assumption
    | with_reducible intro _
    | split
    | with_reducible refine inv_foldl ?_ ?_
    | with_reducible refine applyMapEntry_keeps hm ?_
    | (dsimp only)
    | with_reducible refine upd_regs_service hm ?_

theorem regionsLost_keeps {s : State} (hm : 2097152 &&& κ = 2097152)  (hs : (Keeps κ s₀) s) : (Keeps κ s₀) (regionsLost s) := by
  unfold regionsLost
  repeat' first
    | with_reducible assumption
    | with_reducible intro _
    | split
    | (dsimp only)
    | with_reducible refine upd_domains hm ?_

theorem chooseFirmware_keeps {s : State} (hm : 4294967296 &&& κ = 4294967296)  (hs : (Keeps κ s₀) s) : (Keeps κ s₀) (chooseFirmware s).2 := by
  unfold chooseFirmware
  repeat' first
    | with_reducible assumption
    | with_reducible intro _
    | with_reducible refine snd_ite ?_ ?_
    | with_reducible refine inv_ite ?_ ?_
    | split
    | with_reducible refine secMod_keeps hm ?_
    | (dsimp only)

theorem raiseCounter_keeps {s : State} (hm : 4294967296 &&& κ = 4294967296)  (hs : (Keeps κ s₀) s) : (Keeps κ s₀) (raiseCounter s) := by
  unfold raiseCounter
  repeat' first
    | with_reducible assumption
    | with_reducible intro _
    | split
    | with_reducible refine inv_foldl ?_ ?_
    | with_reducible refine secMod_keeps hm ?_
    | (dsimp only)

theorem failStart_keeps {code : Nat} {s : State} (hm : 2147483648 &&& κ = 2147483648)  (hs : (Keeps κ s₀) s) : (Keeps κ s₀) (failStart code s) := by
  unfold failStart
  repeat' first
    | with_reducible assumption
    | with_reducible intro _
    | with_reducible refine inv_ite ?_ ?_
    | split
    | with_reducible refine chnMod_keeps hm ?_

theorem coldState_keeps {code : Nat} {s : State} (hm : 35184344809414 &&& κ = 35184344809414) (hs : Keeps κ s₀ s) : Keeps κ s₀ (coldState code s) :=
  keeps_of hm hs fun p hp h => by cases p <;> first | exact h | cases hp

theorem ucalAtStart_keeps {badA : Bool} {badB : Bool} {s : State} (hm : 3758227656 &&& κ = 3758227656)  (hs : (Keeps κ s₀) s) : (Keeps κ s₀) (ucalAtStart badA badB s) := by
  have u0 : 192 &&& κ = 192 := sub_mask (by decide) hm
  have u1 : 2684485704 &&& κ = 2684485704 := sub_mask (by decide) hm
  have u2 : 1073741824 &&& κ = 1073741824 := sub_mask (by decide) hm
  have u3 : 1073741888 &&& κ = 1073741888 := sub_mask (by decide) hm
  unfold ucalAtStart
  repeat' first
    | with_reducible assumption
    | with_reducible intro _
    | with_reducible refine inv_ite ?_ ?_
    | split
    | with_reducible refine blkFault_keeps u0 ?_
    | with_reducible refine raise_keeps u1 ?_
    | with_reducible refine blwMod_keeps u2 ?_
    | with_reducible refine applyUCal_keeps u3 ?_

theorem mapAtStart_keeps {badA : Bool} {badB : Bool} {s : State} (hm : 2147483840 &&& κ = 2147483840)  (hs : (Keeps κ s₀) s) : (Keeps κ s₀) (mapAtStart badA badB s) := by
  have u0 : 192 &&& κ = 192 := sub_mask (by decide) hm
  have u2 : 2147483648 &&& κ = 2147483648 := sub_mask (by decide) hm
  unfold mapAtStart
  repeat' first
    | with_reducible assumption
    | with_reducible intro _
    | with_reducible refine inv_ite ?_ ?_
    | split
    | with_reducible refine blkFault_keeps u0 ?_
    | with_reducible refine mapSaved_keeps hm ?_
    | with_reducible refine chnMod_keeps u2 ?_
    | (dsimp only)

theorem modeStarts_keeps {s : State} (hm : 2952921160 &&& κ = 2952921160)  (hs : (Keeps κ s₀) s) : (Keeps κ s₀) (modeStarts s) := by
  have u0 : 2684485704 &&& κ = 2684485704 := sub_mask (by decide) hm
  have u1 : 268435456 &&& κ = 268435456 := sub_mask (by decide) hm
  have u2 : 2147483648 &&& κ = 2147483648 := sub_mask (by decide) hm
  unfold modeStarts
  repeat' first
    | with_reducible assumption
    | with_reducible intro _
    | split
    | with_reducible refine setMode_keeps u0 ?_
    | with_reducible refine bagMod_keeps u1 ?_
    | with_reducible refine chnMod_keeps u2 ?_

theorem ready_keeps {s : State} (hm : 6442451008 &&& κ = 6442451008)  (hs : (Keeps κ s₀) s) : (Keeps κ s₀) (ready s) := by
  have u0 : 64 &&& κ = 64 := sub_mask (by decide) hm
  have u1 : 2147483648 &&& κ = 2147483648 := sub_mask (by decide) hm
  have u2 : 4294967296 &&& κ = 4294967296 := sub_mask (by decide) hm
  unfold ready
  repeat' first
    | with_reducible assumption
    | with_reducible intro _
    | split
    | with_reducible refine setMntRates_keeps u0 ?_
    | with_reducible refine chnMod_keeps u1 ?_
    | with_reducible refine raiseCounter_keeps u2 ?_

theorem railsUp_keeps {s : State} (hm : 1073741824 &&& κ = 1073741824)  (hs : (Keeps κ s₀) s) : (Keeps κ s₀) (railsUp s) := by
  unfold railsUp
  repeat' first
    | with_reducible assumption
    | with_reducible intro _
    | split
    | with_reducible refine blwMod_keeps hm ?_

theorem startRecovery_keeps {badA : Bool} {badB : Bool} {s : State} (hm : 7510032584 &&& κ = 7510032584)  (hs : (Keeps κ s₀) s) : (Keeps κ s₀) (startRecovery badA badB s) := by
  have u0 : 192 &&& κ = 192 := sub_mask (by decide) hm
  have u1 : 3215065288 &&& κ = 3215065288 := sub_mask (by decide) hm
  have u2 : 6771703808 &&& κ = 6771703808 := sub_mask (by decide) hm
  have u3 : 2147483648 &&& κ = 2147483648 := sub_mask (by decide) hm
  have u4 : 4294967296 &&& κ = 4294967296 := sub_mask (by decide) hm
  have u5 : 2097152 &&& κ = 2097152 := sub_mask (by decide) hm
  have u6 : 6442451008 &&& κ = 6442451008 := sub_mask (by decide) hm
  unfold startRecovery
  repeat' first
    | with_reducible assumption
    | with_reducible intro _
    | with_reducible refine inv_ite ?_ ?_
    | split
    | with_reducible refine blkFault_keeps u0 ?_
    | with_reducible refine recoverFrom_keeps u1 ?_
    | with_reducible refine formatFlash_keeps u2 ?_
    | with_reducible refine chnMod_keeps u3 ?_
    | with_reducible refine secMod_keeps u4 ?_
    | with_reducible refine regionsLost_keeps u5 ?_
    | with_reducible refine failStart_keeps u3 ?_
    | with_reducible refine ready_keeps u6 ?_

theorem coldStart_keeps {f : StartFaults} {s : State} (hm : 35184372072398 &&& κ = 35184372072398)  (hs : (Keeps κ s₀) s) : (Keeps κ s₀) (coldStart f s) := by
  have u0 : 14297484894664 &&& κ = 14297484894664 := sub_mask (by decide) hm
  have u1 : 320 &&& κ = 320 := sub_mask (by decide) hm
  have u2 : 4294967296 &&& κ = 4294967296 := sub_mask (by decide) hm
  have u3 : 2147483648 &&& κ = 2147483648 := sub_mask (by decide) hm
  have u4 : 35184344809414 &&& κ = 35184344809414 := sub_mask (by decide) hm
  have u5 : 3758227656 &&& κ = 3758227656 := sub_mask (by decide) hm
  have u6 : 2147483840 &&& κ = 2147483840 := sub_mask (by decide) hm
  have u7 : 2952921160 &&& κ = 2952921160 := sub_mask (by decide) hm
  have u8 : 1073741824 &&& κ = 1073741824 := sub_mask (by decide) hm
  have u9 : 7510032584 &&& κ = 7510032584 := sub_mask (by decide) hm
  unfold coldStart
  repeat' first
    | with_reducible assumption
    | with_reducible intro _
    | with_reducible refine inv_ite ?_ ?_
    | split
    | with_reducible refine inv_foldl ?_ ?_
    | with_reducible refine retireAny_keeps u0 ?_
    | with_reducible refine mapApplied_keeps u1 ?_
    | with_reducible refine chooseFirmware_keeps u2 ?_
    | with_reducible refine failStart_keeps u3 ?_
    | with_reducible refine coldState_keeps u4 ?_
    | with_reducible refine ucalAtStart_keeps u5 ?_
    | with_reducible refine mapAtStart_keeps u6 ?_
    | with_reducible refine modeStarts_keeps u7 ?_
    | with_reducible refine railsUp_keeps u8 ?_
    | with_reducible refine startRecovery_keeps u9 ?_

theorem execColdStart_keeps {f : StartFaults} {s : State} (hm : 35184372072414 &&& κ = 35184372072414)  (hs : (Keeps κ s₀) s) : OutInv (Keeps κ s₀) (execColdStart f s) := by
  have u0 : 4326616 &&& κ = 4326616 := sub_mask (by decide) hm
  have u1 : 35184372072398 &&& κ = 35184372072398 := sub_mask (by decide) hm
  unfold execColdStart
  repeat' first
    | with_reducible assumption
    | with_reducible intro _
    | with_reducible apply out_next
    | split
    | with_reducible refine drainAll_keeps u0 ?_
    | with_reducible refine coldStart_keeps u1 ?_

theorem cstWarm_keeps {s : State} (hm : 536870920 &&& κ = 536870920)  (hs : (Keeps κ s₀) s) : (Keeps κ s₀) (cstWarm s) := by
  have u0 : 536870912 &&& κ = 536870912 := sub_mask (by decide) hm
  unfold cstWarm
  repeat' first
    | with_reducible assumption
    | with_reducible intro _
    | with_reducible refine inv_ite ?_ ?_
    | split
    | with_reducible refine inv_foldl ?_ ?_
    | with_reducible refine snd_foldl ?_ ?_
    | with_reducible refine peerMod_keeps u0 ?_
    | with_reducible refine cstMod_keeps u0 ?_
    | with_reducible refine peerStart_keeps hm ?_

theorem warmState_keeps {code : Nat} {s : State} (hm : 34642877956040 &&& κ = 34642877956040)  (hs : (Keeps κ s₀) s) : (Keeps κ s₀) (warmState code s) := by
  have u0 : 30236771090624 &&& κ = 30236771090624 := sub_mask (by decide) hm
  have u1 : 4194304 &&& κ = 4194304 := sub_mask (by decide) hm
  have u2 : 13201186103496 &&& κ = 13201186103496 := sub_mask (by decide) hm
  have u3 : 1073741824 &&& κ = 1073741824 := sub_mask (by decide) hm
  have u4 : 2147483648 &&& κ = 2147483648 := sub_mask (by decide) hm
  have u5 : 4294967296 &&& κ = 4294967296 := sub_mask (by decide) hm
  have u6 : 2152668736 &&& κ = 2152668736 := sub_mask (by decide) hm
  have u7 : 320 &&& κ = 320 := sub_mask (by decide) hm
  have u8 : 2097152 &&& κ = 2097152 := sub_mask (by decide) hm
  unfold warmState
  repeat' first
    | with_reducible assumption
    | with_reducible intro _
    | with_reducible apply rowOk_inv
    | with_reducible apply rowFail_inv
    | with_reducible apply rowWait_inv
    | split
    | with_reducible refine crookMod_keeps u1 ?_
    | with_reducible refine fabricKey_keeps u2 ?_
    | with_reducible refine blwMod_keeps u3 ?_
    | with_reducible refine chnMod_keeps u4 ?_
    | with_reducible refine secMod_keeps u5 ?_
    | with_reducible refine portReset_keeps u6 ?_
    | with_reducible refine mapApplied_keeps u7 ?_
    | with_reducible refine regionsLost_keeps u8 ?_
    | refine row_ok (by with_reducible assumption) ?_
    | refine row_fail (by with_reducible assumption) ?_
    | refine row_wait (by with_reducible assumption) ?_
    | (dsimp only)
    | with_reducible refine upd_regs_latches_srings_engines_parityCells_accs_accSet_contexts_nextLead u0 ?_

theorem warmQuiesced_keeps {s : State} (hm : 13218814009544 &&& κ = 13218814009544)  (hs : (Keeps κ s₀) s) : (Keeps κ s₀) (warmQuiesced s) := by
  have u0 : 13196354134208 &&& κ = 13196354134208 := sub_mask (by decide) hm
  have u1 : 3087139016 &&& κ = 3087139016 := sub_mask (by decide) hm
  have u2 : 8820633280584 &&& κ = 8820633280584 := sub_mask (by decide) hm
  unfold warmQuiesced
  repeat' first
    | with_reducible assumption
    | with_reducible intro _
    | split
    | with_reducible refine wakeDrained_keeps u0 ?_
    | with_reducible refine drainJournal_keeps u1 ?_
    | with_reducible refine settleCmds_keeps u2 ?_

theorem warmReset_keeps {recordOk : Bool} {s : State} (hm : 34668975996872 &&& κ = 34668975996872)  (hs : (Keeps κ s₀) s) : (Keeps κ s₀) (warmReset recordOk s) := by
  have u0 : 17179869184 &&& κ = 17179869184 := sub_mask (by decide) hm
  have u1 : 268435456 &&& κ = 268435456 := sub_mask (by decide) hm
  have u2 : 8388608 &&& κ = 8388608 := sub_mask (by decide) hm
  have u3 : 2147483648 &&& κ = 2147483648 := sub_mask (by decide) hm
  have u4 : 8589934592 &&& κ = 8589934592 := sub_mask (by decide) hm
  have u5 : 4294967296 &&& κ = 4294967296 := sub_mask (by decide) hm
  have u6 : 6442451008 &&& κ = 6442451008 := sub_mask (by decide) hm
  have u7 : 7510032584 &&& κ = 7510032584 := sub_mask (by decide) hm
  have u8 : 536870920 &&& κ = 536870920 := sub_mask (by decide) hm
  have u9 : 34642877956040 &&& κ = 34642877956040 := sub_mask (by decide) hm
  have u10 : 13218814009544 &&& κ = 13218814009544 := sub_mask (by decide) hm
  unfold warmReset
  repeat' first
    | with_reducible assumption
    | with_reducible intro _
    | with_reducible refine inv_ite ?_ ?_
    | split
    | with_reducible refine bagMod_keeps u1 ?_
    | with_reducible refine droneRestarted_keeps u2 ?_
    | with_reducible refine chnMod_keeps u3 ?_
    | with_reducible refine pinMod_keeps u4 ?_
    | with_reducible refine chooseFirmware_keeps u5 ?_
    | with_reducible refine failStart_keeps u3 ?_
    | with_reducible refine ready_keeps u6 ?_
    | with_reducible refine startRecovery_keeps u7 ?_
    | with_reducible refine cstWarm_keeps u8 ?_
    | with_reducible refine warmState_keeps u9 ?_
    | with_reducible refine warmQuiesced_keeps u10 ?_
    | refine inv_snd (by with_reducible assumption) ?_
    | (dsimp only)
    | with_reducible refine upd_poison u0 ?_

theorem execWarmReset_keeps {recordOk : Bool} {s : State} (hm : 34668975996888 &&& κ = 34668975996888)  (hs : (Keeps κ s₀) s) : OutInv (Keeps κ s₀) (execWarmReset recordOk s) := by
  have u0 : 4326616 &&& κ = 4326616 := sub_mask (by decide) hm
  have u1 : 34668975996872 &&& κ = 34668975996872 := sub_mask (by decide) hm
  unfold execWarmReset
  repeat' first
    | with_reducible assumption
    | with_reducible intro _
    | with_reducible apply out_next
    | split
    | with_reducible refine drainAll_keeps u0 ?_
    | with_reducible refine warmReset_keeps u1 ?_

theorem functionReset_keeps {s : State} (hm : 8820638072392 &&& κ = 8820638072392)  (hs : (Keeps κ s₀) s) : (Keeps κ s₀) (functionReset s) := by
  have u0 : 2147483648 &&& κ = 2147483648 := sub_mask (by decide) hm
  have u1 : 8820633280584 &&& κ = 8820633280584 := sub_mask (by decide) hm
  have u2 : 2152668736 &&& κ = 2152668736 := sub_mask (by decide) hm
  unfold functionReset
  repeat' first
    | with_reducible assumption
    | with_reducible intro _
    | with_reducible refine inv_ite ?_ ?_
    | split
    | with_reducible refine chnMod_keeps u0 ?_
    | with_reducible refine settleCmds_keeps u1 ?_
    | with_reducible refine portReset_keeps u2 ?_

theorem execFunctionLevelReset_keeps {s : State} (hm : 8820638072536 &&& κ = 8820638072536)  (hs : (Keeps κ s₀) s) : OutInv (Keeps κ s₀) (execFunctionLevelReset s) := by
  have u0 : 4326616 &&& κ = 4326616 := sub_mask (by decide) hm
  have u1 : 8820638072392 &&& κ = 8820638072392 := sub_mask (by decide) hm
  unfold execFunctionLevelReset
  repeat' first
    | with_reducible assumption
    | with_reducible intro _
    | with_reducible apply out_next
    | split
    | with_reducible refine drainAll_keeps u0 ?_
    | with_reducible refine functionReset_keeps u1 ?_

theorem execPerstBeforeReady_keeps {s : State} (hm : 8594130496 &&& κ = 8594130496)  (hs : (Keeps κ s₀) s) : OutInv (Keeps κ s₀) (execPerstBeforeReady s) := by
  have u0 : 1600 &&& κ = 1600 := sub_mask (by decide) hm
  have u1 : 4194304 &&& κ = 4194304 := sub_mask (by decide) hm
  have u2 : 8589934592 &&& κ = 8589934592 := sub_mask (by decide) hm
  unfold execPerstBeforeReady
  repeat' first
    | with_reducible assumption
    | with_reducible intro _
    | with_reducible refine out_ite ?_ ?_
    | with_reducible refine inv_ite ?_ ?_
    | with_reducible apply out_next
    | split
    | with_reducible refine crookMod_keeps u1 ?_
    | with_reducible refine pinMod_keeps u2 ?_
    | (dsimp only)
    | with_reducible refine upd_regs_msixTable_msixPending u0 ?_

theorem execPerstDeassert_keeps {s : State} (hm : 8594128896 &&& κ = 8594128896)  (hs : (Keeps κ s₀) s) : OutInv (Keeps κ s₀) (execPerstDeassert s) := by
  have u0 : 4194304 &&& κ = 4194304 := sub_mask (by decide) hm
  have u1 : 8589934592 &&& κ = 8589934592 := sub_mask (by decide) hm
  unfold execPerstDeassert
  repeat' first
    | with_reducible assumption
    | with_reducible intro _
    | with_reducible apply out_next
    | split
    | with_reducible refine crookMod_keeps u0 ?_
    | with_reducible refine pinMod_keeps u1 ?_

theorem linkChanged_keeps {rate : Nat} {width : Nat} {l0p : Bool} {flit : Bool} {s : State} (hm : 2684485704 &&& κ = 2684485704)  (hs : (Keeps κ s₀) s) : (Keeps κ s₀) (linkChanged rate width l0p flit s) := by
  have u0 : 64 &&& κ = 64 := sub_mask (by decide) hm
  unfold linkChanged
  repeat' first
    | with_reducible assumption
    | with_reducible intro _
    | with_reducible refine inv_ite ?_ ?_
    | split
    | with_reducible refine regSet_keeps u0 ?_
    | with_reducible refine raise_keeps hm ?_

theorem execLinkChanged_keeps {rate : Nat} {width : Nat} {l0p : Bool} {flit : Bool} {s : State} (hm : 2688681176 &&& κ = 2688681176)  (hs : (Keeps κ s₀) s) : OutInv (Keeps κ s₀) (execLinkChanged rate width l0p flit s) := by
  have u0 : 4326616 &&& κ = 4326616 := sub_mask (by decide) hm
  have u1 : 2684485704 &&& κ = 2684485704 := sub_mask (by decide) hm
  unfold execLinkChanged
  repeat' first
    | with_reducible assumption
    | with_reducible intro _
    | with_reducible apply out_next
    | split
    | with_reducible refine drainAll_keeps u0 ?_
    | with_reducible refine linkChanged_keeps u1 ?_

theorem raiseFatal_keeps {block : Nat} {number : Nat} {addr : Nat} {s : State} (hm : 2684485832 &&& κ = 2684485832)  (hs : (Keeps κ s₀) s) : (Keeps κ s₀) (raiseFatal block number addr s) := by
  have u0 : 192 &&& κ = 192 := sub_mask (by decide) hm
  have u1 : 2684485704 &&& κ = 2684485704 := sub_mask (by decide) hm
  unfold raiseFatal
  repeat' first
    | with_reducible assumption
    | with_reducible intro _
    | split
    | with_reducible refine blkFault_keeps u0 ?_
    | with_reducible refine raise_keeps u1 ?_

theorem fatalError_keeps {block : Nat} {number : Nat} {addr : Nat} {s : State} (hm : 35184344809438 &&& κ = 35184344809438)  (hs : (Keeps κ s₀) s) : (Keeps κ s₀) (fatalError block number addr s) := by
  have u0 : 2688681176 &&& κ = 2688681176 := sub_mask (by decide) hm
  have u1 : 2147483648 &&& κ = 2147483648 := sub_mask (by decide) hm
  have u2 : 35184344809414 &&& κ = 35184344809414 := sub_mask (by decide) hm
  have u3 : 2684485832 &&& κ = 2684485832 := sub_mask (by decide) hm
  unfold fatalError
  repeat' first
    | with_reducible assumption
    | with_reducible intro _
    | with_reducible refine inv_ite ?_ ?_
    | split
    | with_reducible refine goOff_keeps u0 ?_
    | with_reducible refine failStart_keeps u1 ?_
    | with_reducible refine coldState_keeps u2 ?_
    | with_reducible refine raiseFatal_keeps u3 ?_

theorem execFatalError_keeps {block : Nat} {number : Nat} {addr : Nat} {s : State} (hm : 35184344809438 &&& κ = 35184344809438)  (hs : (Keeps κ s₀) s) : OutInv (Keeps κ s₀) (execFatalError block number addr s) := by
  have u0 : 4326616 &&& κ = 4326616 := sub_mask (by decide) hm
  unfold execFatalError
  repeat' first
    | with_reducible assumption
    | with_reducible intro _
    | with_reducible apply out_next
    | split
    | with_reducible refine drainAll_keeps u0 ?_
    | with_reducible refine fatalError_keeps hm ?_

theorem switchOpens_keeps {s : State} (hm : 10737418240 &&& κ = 10737418240)  (hs : (Keeps κ s₀) s) : (Keeps κ s₀) (switchOpens s) := by
  have u0 : 2147483648 &&& κ = 2147483648 := sub_mask (by decide) hm
  have u1 : 8589934592 &&& κ = 8589934592 := sub_mask (by decide) hm
  unfold switchOpens
  repeat' first
    | with_reducible assumption
    | with_reducible intro _
    | with_reducible refine inv_ite ?_ ?_
    | split
    | with_reducible refine powerLoss_keeps u0 ?_
    | with_reducible refine chnMod_keeps u0 ?_
    | with_reducible refine pinMod_keeps u1 ?_

theorem execOvervoltage_keeps {s : State} (hm : 10737418240 &&& κ = 10737418240)  (hs : (Keeps κ s₀) s) : OutInv (Keeps κ s₀) (execOvervoltage s) := by
  have u0 : 8589934592 &&& κ = 8589934592 := sub_mask (by decide) hm
  unfold execOvervoltage
  repeat' first
    | with_reducible assumption
    | with_reducible intro _
    | with_reducible apply out_next
    | split
    | with_reducible refine pinMod_keeps u0 ?_
    | with_reducible refine switchOpens_keeps hm ?_

theorem mateBreak_keeps {s : State} (hm : 11005853696 &&& κ = 11005853696)  (hs : (Keeps κ s₀) s) : (Keeps κ s₀) (mateBreak s) := by
  have u0 : 268435456 &&& κ = 268435456 := sub_mask (by decide) hm
  have u1 : 8589934592 &&& κ = 8589934592 := sub_mask (by decide) hm
  have u2 : 10737418240 &&& κ = 10737418240 := sub_mask (by decide) hm
  unfold mateBreak
  repeat' first
    | with_reducible assumption
    | with_reducible intro _
    | with_reducible refine inv_ite ?_ ?_
    | split
    | with_reducible refine bleedBank_keeps u0 ?_
    | with_reducible refine pinMod_keeps u1 ?_
    | with_reducible refine switchOpens_keeps u2 ?_

theorem execMateBreak_keeps {s : State} (hm : 11005853696 &&& κ = 11005853696)  (hs : (Keeps κ s₀) s) : OutInv (Keeps κ s₀) (execMateBreak s) := by
  unfold execMateBreak
  repeat' first
    | with_reducible assumption
    | with_reducible intro _
    | with_reducible apply out_next
    | split
    | with_reducible refine mateBreak_keeps hm ?_

theorem switchCloses_keeps {s : State} (hm : 8589934592 &&& κ = 8589934592)  (hs : (Keeps κ s₀) s) : (Keeps κ s₀) (switchCloses s) := by
  unfold switchCloses
  repeat' first
    | with_reducible assumption
    | with_reducible intro _
    | with_reducible refine inv_ite ?_ ?_
    | split
    | with_reducible refine pinMod_keeps hm ?_

theorem execInputSwitchClose_keeps {s : State} (hm : 8589934592 &&& κ = 8589934592)  (hs : (Keeps κ s₀) s) : OutInv (Keeps κ s₀) (execInputSwitchClose s) := by
  unfold execInputSwitchClose
  repeat' first
    | with_reducible assumption
    | with_reducible intro _
    | with_reducible apply out_next
    | split
    | with_reducible refine switchCloses_keeps hm ?_

theorem restartAfterSeal_keeps {s : State} (hm : 8589934592 &&& κ = 8589934592)  (hs : (Keeps κ s₀) s) : (Keeps κ s₀) (restartAfterSeal s) := by
  unfold restartAfterSeal
  repeat' first
    | with_reducible assumption
    | with_reducible intro _
    | with_reducible refine inv_ite ?_ ?_
    | split
    | with_reducible refine pinMod_keeps hm ?_

theorem execRestartAfterSeal_keeps {s : State} (hm : 8589934592 &&& κ = 8589934592)  (hs : (Keeps κ s₀) s) : OutInv (Keeps κ s₀) (execRestartAfterSeal s) := by
  unfold execRestartAfterSeal
  repeat' first
    | with_reducible assumption
    | with_reducible intro _
    | with_reducible apply out_next
    | split
    | with_reducible refine restartAfterSeal_keeps hm ?_

theorem execManagementControllerPowerUp_keeps {straps : Nat} {s : State} (hm : 12884901888 &&& κ = 12884901888)  (hs : (Keeps κ s₀) s) : OutInv (Keeps κ s₀) (execManagementControllerPowerUp straps s) := by
  have u0 : 4294967296 &&& κ = 4294967296 := sub_mask (by decide) hm
  have u1 : 8589934592 &&& κ = 8589934592 := sub_mask (by decide) hm
  unfold execManagementControllerPowerUp
  repeat' first
    | with_reducible assumption
    | with_reducible intro _
    | with_reducible apply out_next
    | split
    | with_reducible refine secMod_keeps u0 ?_
    | with_reducible refine pinMod_keeps u1 ?_

end Sys2Proof.Machine
end

