-- ==== Sys2Proof/Laws/FramesRegFile.lean ====
section
/-! SUPPORT. The parts of the state that the functions of Machine/RegFile.lean may write. -/

namespace Sys2Proof.Machine

variable {κ : Nat} {s₀ : State}

theorem regClear_keeps {b : Blk} {i : Nat} {off : Nat} {s : State} (hm : 268435520 &&& κ = 268435520)  (hs : (Keeps κ s₀) s) : (Keeps κ s₀) (regClear b i off s) := by
  have u0 : 64 &&& κ = 64 := sub_mask (by decide) hm
  have u1 : 268435456 &&& κ = 268435456 := sub_mask (by decide) hm
  unfold regClear
  repeat' first
    | with_reducible assumption
    | with_reducible intro _
    | with_reducible refine inv_ite ?_ ?_
    | split
    | with_reducible refine regSet_keeps u0 ?_
    | with_reducible refine bagMod_keeps u1 ?_

theorem bar0Read_keeps {o : Nat} {n : Nat} {s : State} (hm : 2952921288 &&& κ = 2952921288)  (hs : (Keeps κ s₀) s) : (Keeps κ s₀) (bar0Read o n s) := by
  have u0 : 8 &&& κ = 8 := sub_mask (by decide) hm
  have u1 : 2684485832 &&& κ = 2684485832 := sub_mask (by decide) hm
  have u2 : 268435520 &&& κ = 268435520 := sub_mask (by decide) hm
  unfold bar0Read
  repeat' first
    | with_reducible assumption
    | with_reducible intro _
    | with_reducible refine inv_ite ?_ ?_
    | split
    | with_reducible refine emit_keeps u0 ?_
    | with_reducible refine violation_keeps u1 ?_
    | with_reducible refine regClear_keeps u2 ?_

theorem registerRead_keeps {bar : Nat} {off : Nat} {n : Nat} {s : State} (hm : 2952921288 &&& κ = 2952921288)  (hs : (Keeps κ s₀) s) : (Keeps κ s₀) (registerRead bar off n s) := by
  have u0 : 8 &&& κ = 8 := sub_mask (by decide) hm
  have u1 : 2684485832 &&& κ = 2684485832 := sub_mask (by decide) hm
  unfold registerRead
  repeat' first
    | with_reducible assumption
    | with_reducible intro _
    | with_reducible refine inv_ite ?_ ?_
    | split
    | with_reducible refine emit_keeps u0 ?_
    | with_reducible refine violation_keeps u1 ?_
    | with_reducible refine bar0Read_keeps hm ?_

theorem execRegisterRead_keeps {bar : Nat} {off : Nat} {size : Nat} {s : State} (hm : 2957116632 &&& κ = 2957116632)  (hs : (Keeps κ s₀) s) : OutInv (Keeps κ s₀) (execRegisterRead bar off size s) := by
  have u0 : 4326616 &&& κ = 4326616 := sub_mask (by decide) hm
  have u1 : 2952921288 &&& κ = 2952921288 := sub_mask (by decide) hm
  unfold execRegisterRead
  repeat' first
    | with_reducible assumption
    | with_reducible intro _
    | with_reducible apply out_next
    | split
    | with_reducible refine drainAll_keeps u0 ?_
    | with_reducible refine registerRead_keeps u1 ?_

theorem maskWrite_keeps {o : Nat} {mask : Nat} {v : Word64} {s : State} (hm : 64 &&& κ = 64)  (hs : (Keeps κ s₀) s) : (Keeps κ s₀) (maskWrite o mask v s) := by
  unfold maskWrite
  repeat' first
    | with_reducible assumption
    | with_reducible intro _
    | split
    | with_reducible refine regSet_keeps hm ?_

theorem mpcWrite_keeps {off : Nat} {v : Word64} {s : State} (hm : 2688746712 &&& κ = 2688746712)  (hs : (Keeps κ s₀) s) : (Keeps κ s₀) (mpcWrite off v s) := by
  have u1 : 2688681176 &&& κ = 2688681176 := sub_mask (by decide) hm
  have u2 : 4194368 &&& κ = 4194368 := sub_mask (by decide) hm
  unfold mpcWrite
  repeat' first
    | with_reducible assumption
    | with_reducible intro _
    | with_reducible refine inv_ite ?_ ?_
    | split
    | with_reducible refine ctxWriteWord0_keeps hm ?_
    | with_reducible refine ctxWriteWord1_keeps hm ?_
    | with_reducible refine ctxWriteReserved_keeps u1 ?_
    | with_reducible refine headWrite_keeps hm ?_
    | with_reducible refine portEnable_keeps u2 ?_

theorem ucalCtl_keeps {v : Word64} {s : State} (hm : 1073741888 &&& κ = 1073741888)  (hs : (Keeps κ s₀) s) : (Keeps κ s₀) (ucalCtl v s) := by
  unfold ucalCtl
  repeat' first
    | with_reducible assumption
    | with_reducible intro _
    | with_reducible refine inv_ite ?_ ?_
    | split
    | with_reducible refine ucalSave_keeps hm ?_
    | with_reducible refine ucalFactory_keeps hm ?_

theorem blwWrite_keeps {off : Nat} {v : Word64} {s : State} (hm : 3762423000 &&& κ = 3762423000)  (hs : (Keeps κ s₀) s) : (Keeps κ s₀) (blwWrite off v s) := by
  have u0 : 64 &&& κ = 64 := sub_mask (by decide) hm
  have u2 : 1073742016 &&& κ = 1073742016 := sub_mask (by decide) hm
  have u3 : 1073741888 &&& κ = 1073741888 := sub_mask (by decide) hm
  unfold blwWrite
  repeat' first
    | with_reducible assumption
    | with_reducible intro _
    | split
    | with_reducible refine regSet_keeps u0 ?_
    | with_reducible refine regField_keeps u0 ?_
    | with_reducible refine ofsTrim_keeps hm ?_
    | with_reducible refine ofsTap_keeps hm ?_
    | with_reducible refine floorWrite_keeps u2 ?_
    | with_reducible refine capWrite_keeps u3 ?_
    | with_reducible refine setGuard_keeps u3 ?_
    | with_reducible refine maskWrite_keeps u0 ?_
    | with_reducible refine ucalCtl_keeps u3 ?_

theorem bagWrite_keeps {off : Nat} {v : Word64} {s : State} (hm : 64 &&& κ = 64)  (hs : (Keeps κ s₀) s) : (Keeps κ s₀) (bagWrite off v s) := by
  unfold bagWrite
  repeat' first
    | with_reducible assumption
    | with_reducible intro _
    | with_reducible refine inv_ite ?_ ?_
    | split
    | with_reducible refine regSet_keeps hm ?_

theorem drnWrite_keeps {off : Nat} {v : Word64} {s : State} (hm : 2688681176 &&& κ = 2688681176)  (hs : (Keeps κ s₀) s) : (Keeps κ s₀) (drnWrite off v s) := by
  have u0 : 64 &&& κ = 64 := sub_mask (by decide) hm
  unfold drnWrite
  repeat' first
    | with_reducible assumption
    | with_reducible intro _
    | with_reducible refine inv_ite ?_ ?_
    | split
    | with_reducible refine regSet_keeps u0 ?_
    | with_reducible refine regViolation3_keeps hm ?_
    | with_reducible refine setMntRates_keeps u0 ?_
    | with_reducible refine maskWrite_keeps u0 ?_

theorem cstWrite_keeps {off : Nat} {v : Word64} {s : State} (hm : 13196895331544 &&& κ = 13196895331544)  (hs : (Keeps κ s₀) s) : (Keeps κ s₀) (cstWrite off v s) := by
  have u0 : 64 &&& κ = 64 := sub_mask (by decide) hm
  have u1 : 2688681176 &&& κ = 2688681176 := sub_mask (by decide) hm
  have u2 : 536870912 &&& κ = 536870912 := sub_mask (by decide) hm
  have u4 : 13196891005128 &&& κ = 13196891005128 := sub_mask (by decide) hm
  have u5 : 13196891136072 &&& κ = 13196891136072 := sub_mask (by decide) hm
  unfold cstWrite
  repeat' first
    | with_reducible assumption
    | with_reducible intro _
    | with_reducible refine inv_ite ?_ ?_
    | split
    | with_reducible refine regSet_keeps u0 ?_
    | with_reducible refine regViolation3_keeps u1 ?_
    | with_reducible refine peerPut_keeps u2 ?_
    | with_reducible refine peerCtl_keeps hm ?_
    | with_reducible refine mirrorWrite_keeps u4 ?_
    | with_reducible refine shardWrite_keeps u1 ?_
    | with_reducible refine netWrite_keeps u5 ?_

theorem regWriteAt_keeps {b : Blk} {i : Nat} {off : Nat} {d : RegDef} {v : Word64} {s : State} (hm : 13197969138904 &&& κ = 13197969138904)  (hs : (Keeps κ s₀) s) : (Keeps κ s₀) (regWriteAt b i off d v s) := by
  have u0 : 64 &&& κ = 64 := sub_mask (by decide) hm
  have u1 : 192 &&& κ = 192 := sub_mask (by decide) hm
  have u2 : 2688681176 &&& κ = 2688681176 := sub_mask (by decide) hm
  have u3 : 2688746712 &&& κ = 2688746712 := sub_mask (by decide) hm
  have u4 : 3762423000 &&& κ = 3762423000 := sub_mask (by decide) hm
  have u5 : 13196895331544 &&& κ = 13196895331544 := sub_mask (by decide) hm
  unfold regWriteAt
  repeat' first
    | with_reducible assumption
    | with_reducible intro _
    | with_reducible refine inv_ite ?_ ?_
    | split
    | with_reducible refine regSet_keeps u0 ?_
    | with_reducible refine regField_keeps u0 ?_
    | with_reducible refine blkErrClear_keeps u1 ?_
    | with_reducible refine boreDebug_keeps u2 ?_
    | with_reducible refine bootWrite_keeps u2 ?_
    | with_reducible refine ledgerSel_keeps u2 ?_
    | with_reducible refine maskWrite_keeps u0 ?_
    | with_reducible refine mpcWrite_keeps u3 ?_
    | with_reducible refine blwWrite_keeps u4 ?_
    | with_reducible refine bagWrite_keeps u0 ?_
    | with_reducible refine drnWrite_keeps u2 ?_
    | with_reducible refine cstWrite_keeps u5 ?_

theorem bar0Write_keeps {o : Nat} {data : List Byte} {s : State} (hm : 13197969138904 &&& κ = 13197969138904)  (hs : (Keeps κ s₀) s) : (Keeps κ s₀) (bar0Write o data s) := by
  have u0 : 2684485832 &&& κ = 2684485832 := sub_mask (by decide) hm
  unfold bar0Write
  repeat' first
    | with_reducible assumption
    | with_reducible intro _
    | with_reducible refine inv_ite ?_ ?_
    | split
    | with_reducible refine violation_keeps u0 ?_
    | with_reducible refine regWriteAt_keeps hm ?_

theorem bar4Write_keeps {a : Nat} {data : List Byte} {s : State} (hm : 2684487368 &&& κ = 2684487368)  (hs : (Keeps κ s₀) s) : (Keeps κ s₀) (bar4Write a data s) := by
  have u0 : 2684485832 &&& κ = 2684485832 := sub_mask (by decide) hm
  have u1 : 1544 &&& κ = 1544 := sub_mask (by decide) hm
  unfold bar4Write
  repeat' first
    | with_reducible assumption
    | with_reducible intro _
    | with_reducible refine inv_ite ?_ ?_
    | split
    | with_reducible refine inv_foldl ?_ ?_
    | with_reducible refine violation_keeps u0 ?_
    | with_reducible refine msixWrite_keeps u1 ?_

theorem registerWrite_keeps {bar : Nat} {off : Nat} {data : List Byte} {s : State} (hm : 13197969161944 &&& κ = 13197969161944)  (hs : (Keeps κ s₀) s) : (Keeps κ s₀) (registerWrite bar off data s) := by
  have u0 : 2688777432 &&& κ = 2688777432 := sub_mask (by decide) hm
  have u1 : 13197969138904 &&& κ = 13197969138904 := sub_mask (by decide) hm
  have u2 : 2684487368 &&& κ = 2684487368 := sub_mask (by decide) hm
  unfold registerWrite
  repeat' first
    | with_reducible assumption
    | with_reducible intro _
    | split
    | with_reducible refine windowWrite_keeps u0 ?_
    | with_reducible refine bar0Write_keeps u1 ?_
    | with_reducible refine bar4Write_keeps u2 ?_

theorem execRegisterWrite_keeps {bar : Nat} {off : Nat} {data : List Byte} {s : State} (hm : 13197969161944 &&& κ = 13197969161944)  (hs : (Keeps κ s₀) s) : OutInv (Keeps κ s₀) (execRegisterWrite bar off data s) := by
  have u0 : 4326616 &&& κ = 4326616 := sub_mask (by decide) hm
  unfold execRegisterWrite
  repeat' first
    | with_reducible assumption
    | with_reducible intro _
    | with_reducible apply out_next
    | split
    | with_reducible refine drainAll_keeps u0 ?_
    | with_reducible refine registerWrite_keeps hm ?_

end Sys2Proof.Machine
end

