-- ==== Sys2Proof/Laws/FramesManage.lean ====
section
/-! SUPPORT. The parts of the state that the functions of Machine/Manage.lean may write. -/

namespace Sys2Proof.Machine

variable {κ : Nat} {s₀ : State}

theorem answer_keeps {t : Nat} {code : Nat} {body : List Byte} {s : State} (hm : 8 &&& κ = 8)  (hs : (Keeps κ s₀) s) : (Keeps κ s₀) (answer t code body s) := by
  unfold answer
  repeat' first
    | with_reducible assumption
    | with_reducible intro _
    | split
    | with_reducible refine emit_keeps hm ?_

theorem vendor_keeps {t : Nat} {allowed : State → Bool} {f : State → State} {s : State} (hm : 8 &&& κ = 8) (hf : ∀ a0, (Keeps κ s₀) a0 → (Keeps κ s₀) (f a0)) (hs : (Keeps κ s₀) s) : (Keeps κ s₀) (vendor t allowed f s) := by
  unfold vendor
  repeat' first
    | with_reducible assumption
    | with_reducible intro _
    | with_reducible refine inv_ite ?_ ?_
    | split
    | with_reducible refine answer_keeps hm ?_
    | with_reducible apply hf

theorem setBusy_keeps {s : State} (hm : 4294967296 &&& κ = 4294967296)  (hs : (Keeps κ s₀) s) : (Keeps κ s₀) (setBusy s) := by
  unfold setBusy
  repeat' first
    | with_reducible assumption
    | with_reducible intro _
    | split
    | with_reducible refine secMod_keeps hm ?_

theorem execGetState_keeps {transport : Nat} {s : State} (hm : 8 &&& κ = 8)  (hs : (Keeps κ s₀) s) : OutInv (Keeps κ s₀) (execGetState transport s) := by
  unfold execGetState
  repeat' first
    | with_reducible assumption
    | with_reducible intro _
    | with_reducible refine out_ite ?_ ?_
    | with_reducible refine inv_ite ?_ ?_
    | with_reducible apply out_next
    | split
    | with_reducible refine answer_keeps hm ?_

theorem offNow_keeps {s : State} (hm : 15573583064 &&& κ = 15573583064)  (hs : (Keeps κ s₀) s) : (Keeps κ s₀) (offNow s) := by
  have u0 : 2684485704 &&& κ = 2684485704 := sub_mask (by decide) hm
  have u1 : 2688681176 &&& κ = 2688681176 := sub_mask (by decide) hm
  have u2 : 8589934592 &&& κ = 8589934592 := sub_mask (by decide) hm
  have u3 : 4294967296 &&& κ = 4294967296 := sub_mask (by decide) hm
  unfold offNow
  repeat' first
    | with_reducible assumption
    | with_reducible intro _
    | with_reducible refine inv_ite ?_ ?_
    | split
    | with_reducible refine setMode_keeps u0 ?_
    | with_reducible refine goOff_keeps u1 ?_
    | with_reducible refine pinMod_keeps u2 ?_
    | with_reducible refine setBusy_keeps u3 ?_

theorem execOff_keeps {transport : Nat} {s : State} (hm : 15573583064 &&& κ = 15573583064)  (hs : (Keeps κ s₀) s) : OutInv (Keeps κ s₀) (execOff transport s) := by
  have u0 : 4326616 &&& κ = 4326616 := sub_mask (by decide) hm
  have u1 : 8 &&& κ = 8 := sub_mask (by decide) hm
  unfold execOff
  repeat' first
    | with_reducible assumption
    | with_reducible intro _
    | with_reducible apply out_next
    | split
    | with_reducible refine drainAll_keeps u0 ?_
    | with_reducible refine vendor_keeps u1 ?_ ?_
    | with_reducible refine offNow_keeps hm ?_

theorem coldResetNow_keeps {s : State} (hm : 15032385536 &&& κ = 15032385536)  (hs : (Keeps κ s₀) s) : (Keeps κ s₀) (coldResetNow s) := by
  have u0 : 2147483648 &&& κ = 2147483648 := sub_mask (by decide) hm
  have u1 : 8589934592 &&& κ = 8589934592 := sub_mask (by decide) hm
  have u2 : 4294967296 &&& κ = 4294967296 := sub_mask (by decide) hm
  unfold coldResetNow
  repeat' first
    | with_reducible assumption
    | with_reducible intro _
    | with_reducible refine inv_ite ?_ ?_
    | split
    | with_reducible refine beginLoss_keeps u0 ?_
    | with_reducible refine chnMod_keeps u0 ?_
    | with_reducible refine pinMod_keeps u1 ?_
    | with_reducible refine setBusy_keeps u2 ?_

theorem execColdReset_keeps {transport : Nat} {s : State} (hm : 15032385544 &&& κ = 15032385544)  (hs : (Keeps κ s₀) s) : OutInv (Keeps κ s₀) (execColdReset transport s) := by
  have u0 : 8 &&& κ = 8 := sub_mask (by decide) hm
  have u1 : 15032385536 &&& κ = 15032385536 := sub_mask (by decide) hm
  unfold execColdReset
  repeat' first
    | with_reducible assumption
    | with_reducible intro _
    | with_reducible apply out_next
    | split
    | with_reducible refine vendor_keeps u0 ?_ ?_
    | with_reducible refine coldResetNow_keeps u1 ?_

theorem warmResetNow_keeps {s : State} (hm : 6442450944 &&& κ = 6442450944)  (hs : (Keeps κ s₀) s) : (Keeps κ s₀) (warmResetNow s) := by
  have u0 : 2147483648 &&& κ = 2147483648 := sub_mask (by decide) hm
  have u1 : 4294967296 &&& κ = 4294967296 := sub_mask (by decide) hm
  unfold warmResetNow
  repeat' first
    | with_reducible assumption
    | with_reducible intro _
    | split
    | with_reducible refine chnMod_keeps u0 ?_
    | with_reducible refine setBusy_keeps u1 ?_

theorem execMgmtWarmReset_keeps {transport : Nat} {s : State} (hm : 6442450952 &&& κ = 6442450952)  (hs : (Keeps κ s₀) s) : OutInv (Keeps κ s₀) (execMgmtWarmReset transport s) := by
  have u0 : 8 &&& κ = 8 := sub_mask (by decide) hm
  have u1 : 6442450944 &&& κ = 6442450944 := sub_mask (by decide) hm
  unfold execMgmtWarmReset
  repeat' first
    | with_reducible assumption
    | with_reducible intro _
    | with_reducible apply out_next
    | split
    | with_reducible refine vendor_keeps u0 ?_ ?_
    | with_reducible refine warmResetNow_keeps u1 ?_

theorem execHoldSet_keeps {transport : Nat} {s : State} (hm : 13196903720152 &&& κ = 13196903720152)  (hs : (Keeps κ s₀) s) : OutInv (Keeps κ s₀) (execHoldSet transport s) := by
  have u0 : 4326616 &&& κ = 4326616 := sub_mask (by decide) hm
  have u1 : 13196899524808 &&& κ = 13196899524808 := sub_mask (by decide) hm
  have u2 : 8 &&& κ = 8 := sub_mask (by decide) hm
  unfold execHoldSet
  repeat' first
    | with_reducible assumption
    | with_reducible intro _
    | with_reducible apply out_next
    | split
    | with_reducible refine drainAll_keeps u0 ?_
    | with_reducible refine enterHold_keeps u1 ?_
    | with_reducible refine vendor_keeps u2 ?_ ?_

theorem holdCleared_keeps {s : State} (hm : 2684485704 &&& κ = 2684485704)  (hs : (Keeps κ s₀) s) : (Keeps κ s₀) (holdCleared s) := by
  have u1 : 2147483648 &&& κ = 2147483648 := sub_mask (by decide) hm
  unfold holdCleared
  repeat' first
    | with_reducible assumption
    | with_reducible intro _
    | with_reducible refine inv_ite ?_ ?_
    | split
    | with_reducible refine setMode_keeps hm ?_
    | with_reducible refine chnMod_keeps u1 ?_

theorem execHoldClear_keeps {transport : Nat} {s : State} (hm : 2688681176 &&& κ = 2688681176)  (hs : (Keeps κ s₀) s) : OutInv (Keeps κ s₀) (execHoldClear transport s) := by
  have u0 : 4326616 &&& κ = 4326616 := sub_mask (by decide) hm
  have u1 : 8 &&& κ = 8 := sub_mask (by decide) hm
  have u2 : 2684485704 &&& κ = 2684485704 := sub_mask (by decide) hm
  unfold execHoldClear
  repeat' first
    | with_reducible assumption
    | with_reducible intro _
    | with_reducible apply out_next
    | split
    | with_reducible refine drainAll_keeps u0 ?_
    | with_reducible refine vendor_keeps u1 ?_ ?_
    | with_reducible refine holdCleared_keeps u2 ?_

theorem formatNow_keeps {s : State} (hm : 15300820992 &&& κ = 15300820992)  (hs : (Keeps κ s₀) s) : (Keeps κ s₀) (formatNow s) := by
  have u0 : 268435456 &&& κ = 268435456 := sub_mask (by decide) hm
  have u1 : 2147483648 &&& κ = 2147483648 := sub_mask (by decide) hm
  have u2 : 4294967296 &&& κ = 4294967296 := sub_mask (by decide) hm
  have u3 : 8589934592 &&& κ = 8589934592 := sub_mask (by decide) hm
  unfold formatNow
  repeat' first
    | with_reducible assumption
    | with_reducible intro _
    | split
    | with_reducible refine bagMod_keeps u0 ?_
    | with_reducible refine chnMod_keeps u1 ?_
    | with_reducible refine secMod_keeps u2 ?_
    | with_reducible refine pinMod_keeps u3 ?_
    | with_reducible refine setBusy_keeps u2 ?_

theorem execFormat_keeps {transport : Nat} {s : State} (hm : 15300821000 &&& κ = 15300821000)  (hs : (Keeps κ s₀) s) : OutInv (Keeps κ s₀) (execFormat transport s) := by
  have u0 : 8 &&& κ = 8 := sub_mask (by decide) hm
  have u1 : 15300820992 &&& κ = 15300820992 := sub_mask (by decide) hm
  unfold execFormat
  repeat' first
    | with_reducible assumption
    | with_reducible intro _
    | with_reducible apply out_next
    | split
    | with_reducible refine vendor_keeps u0 ?_ ?_
    | with_reducible refine formatNow_keeps u1 ?_

theorem execMgmtSetTime_keeps {transport : Nat} {seconds : Nat} {s : State} (hm : 12 &&& κ = 12)  (hs : (Keeps κ s₀) s) : OutInv (Keeps κ s₀) (execMgmtSetTime transport seconds s) := by
  have u0 : 4 &&& κ = 4 := sub_mask (by decide) hm
  have u1 : 8 &&& κ = 8 := sub_mask (by decide) hm
  unfold execMgmtSetTime
  repeat' first
    | with_reducible assumption
    | with_reducible intro _
    | with_reducible apply out_next
    | split
    | with_reducible refine vendor_keeps u1 ?_ ?_
    | (dsimp only)
    | with_reducible refine upd_tod u0 ?_

theorem execKekSet_keeps {transport : Nat} {generation : Nat} {key : BitVec 256} {s : State} (hm : 4294967304 &&& κ = 4294967304)  (hs : (Keeps κ s₀) s) : OutInv (Keeps κ s₀) (execKekSet transport generation key s) := by
  have u0 : 4294967296 &&& κ = 4294967296 := sub_mask (by decide) hm
  have u1 : 8 &&& κ = 8 := sub_mask (by decide) hm
  unfold execKekSet
  repeat' first
    | with_reducible assumption
    | with_reducible intro _
    | with_reducible apply out_next
    | split
    | with_reducible refine secMod_keeps u0 ?_
    | with_reducible refine vendor_keeps u1 ?_ ?_

theorem debugStart_keeps {serial : Nat} {s : State} (hm : 6979453000 &&& κ = 6979453000)  (hs : (Keeps κ s₀) s) : (Keeps κ s₀) (debugStart serial s) := by
  have u0 : 2684485704 &&& κ = 2684485704 := sub_mask (by decide) hm
  have u1 : 4294967296 &&& κ = 4294967296 := sub_mask (by decide) hm
  unfold debugStart
  repeat' first
    | with_reducible assumption
    | with_reducible intro _
    | split
    | with_reducible refine raise_keeps u0 ?_
    | with_reducible refine secMod_keeps u1 ?_

theorem tokenFails_keeps {s : State} (hm : 192 &&& κ = 192)  (hs : (Keeps κ s₀) s) : (Keeps κ s₀) (tokenFails s) := by
  have u0 : 64 &&& κ = 64 := sub_mask (by decide) hm
  unfold tokenFails
  repeat' first
    | with_reducible assumption
    | with_reducible intro _
    | split
    | with_reducible refine bumpSat_keeps u0 ?_
    | with_reducible refine blkFault_keeps hm ?_

theorem debugEnable_keeps {t : Nat} {serial : Nat} {tokenOk : Bool} {s : State} (hm : 6979453128 &&& κ = 6979453128)  (hs : (Keeps κ s₀) s) : (Keeps κ s₀) (debugEnable t serial tokenOk s) := by
  have u0 : 8 &&& κ = 8 := sub_mask (by decide) hm
  have u1 : 6979453000 &&& κ = 6979453000 := sub_mask (by decide) hm
  have u2 : 192 &&& κ = 192 := sub_mask (by decide) hm
  unfold debugEnable
  repeat' first
    | with_reducible assumption
    | with_reducible intro _
    | with_reducible refine inv_ite ?_ ?_
    | split
    | with_reducible refine answer_keeps u0 ?_
    | with_reducible refine vendor_keeps u0 ?_ ?_
    | with_reducible refine debugStart_keeps u1 ?_
    | with_reducible refine tokenFails_keeps u2 ?_
    | (simp only [id])

theorem execDebugEnable_keeps {transport : Nat} {serial : Nat} {tokenOk : Bool} {s : State} (hm : 6983648472 &&& κ = 6983648472)  (hs : (Keeps κ s₀) s) : OutInv (Keeps κ s₀) (execDebugEnable transport serial tokenOk s) := by
  have u0 : 4326616 &&& κ = 4326616 := sub_mask (by decide) hm
  have u1 : 6979453128 &&& κ = 6979453128 := sub_mask (by decide) hm
  unfold execDebugEnable
  repeat' first
    | with_reducible assumption
    | with_reducible intro _
    | with_reducible apply out_next
    | split
    | with_reducible refine drainAll_keeps u0 ?_
    | with_reducible refine debugEnable_keeps u1 ?_

theorem firmwareUpdate_keeps {component : Nat} {svn : Nat} {release : Nat} {signatureOk : Bool} {s : State} (hm : 4294967496 &&& κ = 4294967496)  (hs : (Keeps κ s₀) s) : (Keeps κ s₀) (firmwareUpdate component svn release signatureOk s) := by
  have u0 : 64 &&& κ = 64 := sub_mask (by decide) hm
  have u1 : 192 &&& κ = 192 := sub_mask (by decide) hm
  have u2 : 8 &&& κ = 8 := sub_mask (by decide) hm
  have u3 : 4294967296 &&& κ = 4294967296 := sub_mask (by decide) hm
  unfold firmwareUpdate
  repeat' first
    | with_reducible assumption
    | with_reducible intro _
    | with_reducible refine inv_ite ?_ ?_
    | split
    | with_reducible refine bumpSat_keeps u0 ?_
    | with_reducible refine blkFault_keeps u1 ?_
    | with_reducible refine emit_keeps u2 ?_
    | with_reducible refine secMod_keeps u3 ?_

theorem execFirmwareUpdate_keeps {component : Nat} {svn : Nat} {release : Nat} {signatureOk : Bool} {s : State} (hm : 4294967496 &&& κ = 4294967496)  (hs : (Keeps κ s₀) s) : OutInv (Keeps κ s₀) (execFirmwareUpdate component svn release signatureOk s) := by
  unfold execFirmwareUpdate
  repeat' first
    | with_reducible assumption
    | with_reducible intro _
    | with_reducible apply out_next
    | split
    | with_reducible refine firmwareUpdate_keeps hm ?_

theorem activateFirmware_keeps {component : Nat} {s : State} (hm : 6979453000 &&& κ = 6979453000)  (hs : (Keeps κ s₀) s) : (Keeps κ s₀) (activateFirmware component s) := by
  have u0 : 2684485704 &&& κ = 2684485704 := sub_mask (by decide) hm
  have u1 : 4294967296 &&& κ = 4294967296 := sub_mask (by decide) hm
  unfold activateFirmware
  repeat' first
    | with_reducible assumption
    | with_reducible intro _
    | with_reducible refine inv_ite ?_ ?_
    | split
    | with_reducible refine raise_keeps u0 ?_
    | with_reducible refine secMod_keeps u1 ?_

theorem execActivateFirmware_keeps {component : Nat} {s : State} (hm : 6983648472 &&& κ = 6983648472)  (hs : (Keeps κ s₀) s) : OutInv (Keeps κ s₀) (execActivateFirmware component s) := by
  have u0 : 4326616 &&& κ = 4326616 := sub_mask (by decide) hm
  have u1 : 6979453000 &&& κ = 6979453000 := sub_mask (by decide) hm
  unfold execActivateFirmware
  repeat' first
    | with_reducible assumption
    | with_reducible intro _
    | with_reducible apply out_next
    | split
    | with_reducible refine drainAll_keeps u0 ?_
    | with_reducible refine activateFirmware_keeps u1 ?_

theorem spdmRequest_keeps {t : Nat} {code : Nat} {data : List Byte} {s : State} (hm : 4294967304 &&& κ = 4294967304)  (hs : (Keeps κ s₀) s) : (Keeps κ s₀) (spdmRequest t code data s) := by
  have u0 : 8 &&& κ = 8 := sub_mask (by decide) hm
  have u1 : 4294967296 &&& κ = 4294967296 := sub_mask (by decide) hm
  unfold spdmRequest
  repeat' first
    | with_reducible assumption
    | with_reducible intro _
    | with_reducible refine inv_ite ?_ ?_
    | split
    | with_reducible refine emit_keeps u0 ?_
    | with_reducible refine secMod_keeps u1 ?_

theorem execSpdmRequest_keeps {transport : Nat} {code : Nat} {data : List Byte} {s : State} (hm : 4294967304 &&& κ = 4294967304)  (hs : (Keeps κ s₀) s) : OutInv (Keeps κ s₀) (execSpdmRequest transport code data s) := by
  unfold execSpdmRequest
  repeat' first
    | with_reducible assumption
    | with_reducible intro _
    | with_reducible apply out_next
    | split
    | with_reducible refine spdmRequest_keeps hm ?_

theorem execSpdmSessionTimeout_keeps {transport : Nat} {s : State} (hm : 4294967296 &&& κ = 4294967296)  (hs : (Keeps κ s₀) s) : OutInv (Keeps κ s₀) (execSpdmSessionTimeout transport s) := by
  unfold execSpdmSessionTimeout
  repeat' first
    | with_reducible assumption
    | with_reducible intro _
    | with_reducible apply out_next
    | split
    | with_reducible refine secMod_keeps hm ?_

theorem execMctpControl_keeps {transport : Nat} {eid : Nat} {s : State} (hm : 4294967304 &&& κ = 4294967304)  (hs : (Keeps κ s₀) s) : OutInv (Keeps κ s₀) (execMctpControl transport eid s) := by
  have u0 : 8 &&& κ = 8 := sub_mask (by decide) hm
  have u1 : 4294967296 &&& κ = 4294967296 := sub_mask (by decide) hm
  unfold execMctpControl
  repeat' first
    | with_reducible assumption
    | with_reducible intro _
    | with_reducible refine out_ite ?_ ?_
    | with_reducible refine inv_ite ?_ ?_
    | with_reducible apply out_next
    | split
    | with_reducible refine emit_keeps u0 ?_
    | with_reducible refine secMod_keeps u1 ?_

theorem execPldmSetEventReceiver_keeps {transport : Nat} {eid : Nat} {s : State} (hm : 4294967304 &&& κ = 4294967304)  (hs : (Keeps κ s₀) s) : OutInv (Keeps κ s₀) (execPldmSetEventReceiver transport eid s) := by
  have u0 : 8 &&& κ = 8 := sub_mask (by decide) hm
  have u1 : 4294967296 &&& κ = 4294967296 := sub_mask (by decide) hm
  unfold execPldmSetEventReceiver
  repeat' first
    | with_reducible assumption
    | with_reducible intro _
    | with_reducible refine out_ite ?_ ?_
    | with_reducible refine inv_ite ?_ ?_
    | with_reducible apply out_next
    | split
    | with_reducible refine emit_keeps u0 ?_
    | with_reducible refine secMod_keeps u1 ?_

end Sys2Proof.Machine
end

