-- ==== Sys2Proof/Laws/Memory.lean ====
section
/-! SUPPORT. Laws of host memory: every operation keeps the canonical form, a byte reads back as it was written, and a write
leaves every other byte alone. -/

namespace Sys2Proof.Machine

/-- Every listed address is above `a`, or the list is empty. -/
def above (a : Nat) : List Host.Cell → Prop
  | [] => True
  | c :: _ => a < c.1
theorem memWf_cons {c : Host.Cell} {t : List Host.Cell} : memWf (c :: t) = true ↔ c.2 ≠ 0 ∧ above c.1 t ∧ memWf t = true := by
  cases t with
  | nil => simp [memWf, above]
  | cons d t => simp [memWf, above, and_assoc]
theorem memSet_above {m : List Host.Cell} {a k : Nat} {b : Byte} (hk : k < a) (h : above k m) (hw : memWf m = true) :
    above k (memSet m a b) := by
  cases m with
  | nil => unfold memSet; split <;> simp [above, hk]
  | cons c t =>
    unfold memSet
    rw [memWf_cons] at hw
    split
    · split <;> simp_all [above]
    · split
      · split
        · cases t with
          | nil => trivial
          | cons d t => have := hw.2.1; simp only [above] at *; omega
        · simp [above, hk]
      · exact h
theorem memSet_wf {m : List Host.Cell} {a : Nat} {b : Byte} (h : memWf m = true) : memWf (memSet m a b) = true := by
  induction m with
  | nil => unfold memSet; split <;> simp_all [memWf]
  | cons c t ih =>
    have hc := memWf_cons.mp h
    unfold memSet
    split
    · split
      · exact h
      · exact memWf_cons.mpr ⟨by simpa, by simpa [above], h⟩
    · split
      · split
        · exact hc.2.2
        · rename_i _ ha _
          exact memWf_cons.mpr ⟨by simpa, by rw [ha]; exact hc.2.1, hc.2.2⟩
      · exact memWf_cons.mpr ⟨hc.1, memSet_above (by omega) hc.2.1 hc.2.2, ih hc.2.2⟩
theorem memWrite_wf {m : List Host.Cell} {a : Nat} {bs : List Byte} (h : memWf m = true) : memWf (memWrite m a bs) = true := by
  induction bs generalizing m a with
  | nil => exact h
  | cons b t ih => exact ih (memSet_wf h)
theorem above_filter {m : List Host.Cell} {p : Host.Cell → Bool} {k : Nat} (h : above k m) (hw : memWf m = true) :
    above k (m.filter p) := by
  induction m with
  | nil => trivial
  | cons c t ih =>
    have hc := memWf_cons.mp hw
    rw [List.filter_cons]
    split
    · exact h
    · apply ih _ hc.2.2
      cases t with
      | nil => trivial
      | cons d t => have := hc.2.1; simp only [above] at *; omega
theorem memFilter_wf {m : List Host.Cell} {p : Host.Cell → Bool} (h : memWf m = true) : memWf (m.filter p) = true := by
  induction m with
  | nil => rfl
  | cons c t ih =>
    have hc := memWf_cons.mp h
    rw [List.filter_cons]
    split
    · exact memWf_cons.mpr ⟨hc.1, above_filter hc.2.1 hc.2.2, ih hc.2.2⟩
    · exact ih hc.2.2

/-! ## Read after write -/

theorem memGet_above {m : List Host.Cell} {a : Nat} (h : above a m) (hw : memWf m = true) : memGet m a = 0 := by
  induction m with
  | nil => rfl
  | cons c t ih =>
    have hc := memWf_cons.mp hw
    have h1 : a < c.1 := h
    rw [memGet, if_neg (by omega)]
    apply ih _ hc.2.2
    cases t with
    | nil => trivial
    | cons d t => have := hc.2.1; simp only [above] at *; omega

/-- A byte reads back as it was written. -/
theorem memGet_memSet_same {m : List Host.Cell} {a : Nat} {b : Byte} (h : memWf m = true) : memGet (memSet m a b) a = b := by
  induction m with
  | nil => unfold memSet; split <;> simp_all [memGet]
  | cons c t ih =>
    have hc := memWf_cons.mp h
    unfold memSet
    split
    · rename_i hlt
      split
      · rename_i hb; rw [hb]; exact memGet_above (m := c :: t) hlt h
      · simp [memGet]
    · split
      · rename_i ha
        split
        · rename_i hb; rw [hb, ha]; exact memGet_above hc.2.1 hc.2.2
        · simp [memGet]
      · rename_i h1 h2
        rw [memGet, if_neg (fun e => h2 e.symm)]
        exact ih hc.2.2

/-- A write leaves every other byte as it was. -/
theorem memGet_memSet_other {m : List Host.Cell} {a k : Nat} {b : Byte} (hk : k ≠ a) : memGet (memSet m a b) k = memGet m k := by
  induction m with
  | nil => unfold memSet; split <;> simp [memGet, Ne.symm hk]
  | cons c t ih =>
    unfold memSet
    split
    · split
      · rfl
      · rw [memGet, if_neg (fun e => hk e.symm)]
    · split
      · rename_i ha
        split
        · rw [memGet, if_neg (fun e => hk (by omega))]
        · rw [memGet, memGet, if_neg (fun e => hk e.symm), if_neg (fun e => hk (by omega))]
      · rw [memGet, memGet]; split
        · rfl
        · exact ih

/-- A write of bytes leaves every byte outside them as it was. -/
theorem memGet_memWrite_other {m : List Host.Cell} {a k : Nat} {bs : List Byte} (hk : k < a ∨ a + bs.length ≤ k) :
    memGet (memWrite m a bs) k = memGet m k := by
  induction bs generalizing m a with
  | nil => rfl
  | cons b t ih =>
    have hl : (b :: t).length = t.length + 1 := rfl
    rw [memWrite, ih (by omega), memGet_memSet_other (by omega)]

/-- The bytes written read back. -/
theorem memGet_memWrite_same {m : List Host.Cell} {a i : Nat} {bs : List Byte} (h : memWf m = true) (hi : i < bs.length) :
    memGet (memWrite m a bs) (a + i) = bs[i] := by
  induction bs generalizing m a i with
  | nil => simp at hi
  | cons b t ih =>
    rw [memWrite]
    cases i with
    | zero => rw [memGet_memWrite_other (by omega)]; exact memGet_memSet_same h
    | succ j =>
      have := ih (m := memSet m a b) (a := a + 1) (i := j) (memSet_wf h) (by simpa using hi)
      rw [show a + (j + 1) = a + 1 + j by omega, this]; rfl

end Sys2Proof.Machine
end

