-- ==== Sys2Proof/Laws/Invariant.lean ====
section
/-! SUPPORT. How the invariant passes through updates of the state. -/

namespace Sys2Proof.Machine

/-- A state that agrees on the five fields keeps the invariant. -/
theorem inv_congr {s t : State} (h : Inv s) (h1 : t.hostMem = s.hostMem) (h2 : t.windows = s.windows) (h3 : t.classes = s.classes)
    (h4 : t.cst.ports = s.cst.ports) (h5 : t.blw.rails = s.blw.rails) : Inv t :=
  ⟨h1 ▸ h.mem, h2 ▸ h.windows, h3 ▸ h.classes, h4 ▸ h.ports, h5 ▸ h.rails⟩

/-- A record whose memories and classes are those of `s`, with its ports and rails. -/
theorem inv_mk {s : State} {pending : List Instr} {now : Nat} {tod : Option (Nat × Nat)} {outbox : List Out} {hostPoison : List
    (Nat × Nat)} {regs : Table Word64} {latches : Table Word64} {service : Table Nat} {msixTable : Table (BitVec 32)} {msixPending
    : List Nat} {queues : Table Queue} {cmds : List Cmd} {nextCmd : Nat} {reports : List (Nat × Cmd)} {rings : Table Ring}
    {evRings : Table Ring} {lastUrg : Nat} {ledgers : Table Rat} {domains : Table Domain} {crook : Crook} {colls : Table Coll}
    {progs : Table Prog} {tables : Table Tbl} {srings : List SRing} {engines : Table Engine} {bag : Bag} {cst : Consort} {blw :
    Bellows} {chn : Chanter} {sec : Security} {pins : Pins} {poison : List Poison} {rowsMarked : List (Nat × Nat × Nat)}
    {rowCorrected : Table (List Nat)} {unitCorrected : Table (List Nat)} {tierLow : List Nat} {parityCells : List Nat} {accs :
    Table Acc} {accSet : Table Nat} {bells : Table BellUnit} {contexts : List (Nat × Nat)} {nextLead : Nat} (h : Inv s) (hp : cst.ports = s.cst.ports)
    (hr : blw.rails = s.blw.rails) :
    Inv ⟨pending, now, tod, outbox, s.hostMem, hostPoison, regs, latches, service, msixTable, msixPending, s.windows, queues,
      cmds, nextCmd, reports, rings, evRings, s.classes, lastUrg, ledgers, domains, crook, colls, progs, tables, srings, engines,
      bag, cst, blw, chn, sec, pins, poison, rowsMarked, rowCorrected, unitCorrected, tierLow, parityCells, accs, accSet,
      bells, contexts, nextLead⟩ :=
  ⟨h.mem, h.windows, h.classes, hp ▸ h.ports, hr ▸ h.rails⟩

/-- A state whose host memory is `m`, where `m` is canonical. -/
theorem inv_mem {s : State} {m : List Host.Cell} (h : Inv s) (hm : memWf m = true) : Inv { s with hostMem := m } :=
  ⟨hm, h.windows, h.classes, h.ports, h.rails⟩

/-- A state whose task windows are `m`, where `m` is canonical. -/
theorem inv_win {s : State} {m : List Host.Cell} (h : Inv s) (hm : memWf m = true) : Inv { s with windows := m } :=
  ⟨h.mem, hm, h.classes, h.ports, h.rails⟩

/-- A state whose classes are `m`, five of them. -/
theorem inv_cls {s : State} {m : List Cls} (h : Inv s) (hm : m.length = 5) : Inv { s with classes := m } :=
  ⟨h.mem, h.windows, hm, h.ports, h.rails⟩

theorem len_refl {l : List Port} : l.length = l.length := rfl

theorem len_refl' {l : List Nat} : l.length = l.length := rfl

end Sys2Proof.Machine
end

