-- ==== Sys2Proof/Laws/KeepsOps.lean ====
section
/-! SUPPORT. The functions of Machine/Ops.lean keep the invariant. -/

namespace Sys2Proof.Machine

theorem regSet_inv {o : Nat} {v : Word64} {s : State}  (hs : Inv s) : Inv (regSet o v s) := by
  unfold regSet
  repeat' first
    | with_reducible assumption
    | with_reducible exact trivial
    | with_reducible intro _
    | split
    | (dsimp only)
    | (fail_if_no_progress (with_reducible refine inv_mk ?_ rfl rfl))

theorem bumpSat_inv {o : Nat} {lo : Nat} {w : Nat} {n : Nat} {s : State}  (hs : Inv s) : Inv (bumpSat o lo w n s) := by
  unfold bumpSat
  repeat' first
    | with_reducible assumption
    | with_reducible exact trivial
    | with_reducible intro _
    | with_reducible refine inv_ite ?_ ?_
    | split
    | with_reducible apply regSet_inv

theorem bumpWrap_inv {o : Nat} {lo : Nat} {w : Nat} {n : Nat} {s : State}  (hs : Inv s) : Inv (bumpWrap o lo w n s) := by
  unfold bumpWrap
  repeat' first
    | with_reducible assumption
    | with_reducible exact trivial
    | with_reducible intro _
    | split
    | with_reducible apply regSet_inv

theorem regField_inv {o : Nat} {hi : Nat} {lo : Nat} {v : Nat} {s : State}  (hs : Inv s) : Inv (regField o hi lo v s) := by
  unfold regField
  repeat' first
    | with_reducible assumption
    | with_reducible exact trivial
    | with_reducible intro _
    | split
    | with_reducible apply regSet_inv

theorem blkFault_inv {p : Nat} {bitNo : Nat} {addr : Word64} {info : Word64} {s : State}  (hs : Inv s) : Inv (blkFault p bitNo addr info s) := by
  unfold blkFault
  repeat' first
    | with_reducible assumption
    | with_reducible exact trivial
    | with_reducible intro _
    | with_reducible refine inv_ite ?_ ?_
    | split
    | with_reducible apply regSet_inv
    | (dsimp only)
    | (fail_if_no_progress (with_reducible refine inv_mk ?_ rfl rfl))

theorem blkErrClear_inv {p : Nat} {v : Word64} {s : State}  (hs : Inv s) : Inv (blkErrClear p v s) := by
  unfold blkErrClear
  repeat' first
    | with_reducible assumption
    | with_reducible exact trivial
    | with_reducible intro _
    | with_reducible refine inv_ite ?_ ?_
    | split
    | with_reducible apply regSet_inv
    | (dsimp only)
    | (fail_if_no_progress (with_reducible refine inv_mk ?_ rfl rfl))

theorem emit_inv {o : Out} {s : State}  (hs : Inv s) : Inv (emit o s) := by
  unfold emit
  repeat' first
    | with_reducible assumption
    | with_reducible exact trivial
    | with_reducible intro _
    | split
    | (dsimp only)
    | (fail_if_no_progress (with_reducible refine inv_mk ?_ rfl rfl))

theorem sendMsix_inv {v : Nat} {s : State}  (hs : Inv s) : Inv (sendMsix v s) := by
  unfold sendMsix
  repeat' first
    | with_reducible assumption
    | with_reducible exact trivial
    | with_reducible intro _
    | with_reducible refine inv_ite ?_ ?_
    | split
    | with_reducible apply emit_inv
    | (dsimp only)
    | (fail_if_no_progress (with_reducible refine inv_mk ?_ rfl rfl))

theorem sendOut_inv {peer : Nat} {m : OutMsg} {s : State}  (hs : Inv s) : Inv (sendOut peer m s) := by
  unfold sendOut
  repeat' first
    | with_reducible assumption
    | with_reducible exact trivial
    | with_reducible intro _
    | split
    | with_reducible apply emit_inv
    | (dsimp only)
    | (fail_if_no_progress (with_reducible refine inv_mk ?_ rfl rfl))

theorem flushMsgs_inv {peer : Nat} {y0 : Nat} {y1 : State}  (hy1 : Inv y1) : Inv (flushMsgs peer y0 y1) := by
  induction y0 generalizing peer y1 with
  | zero =>
    unfold flushMsgs
    repeat' first
      | with_reducible assumption
  | succ n ih =>
    unfold flushMsgs
    repeat' first
      | with_reducible assumption
      | with_reducible exact trivial
      | with_reducible intro _
      | with_reducible refine inv_ite ?_ ?_
      | split
      | with_reducible apply ih
      | with_reducible apply sendOut_inv
      | (dsimp only)
      | (fail_if_no_progress (with_reducible refine inv_mk ?_ rfl rfl))

theorem sendMsg_inv {peer : Nat} {kind : Nat} {bnd : Bool} {hdr : Word64} {body : List Byte} {s : State}  (hs : Inv s) : Inv (sendMsg peer kind bnd hdr body s) := by
  unfold sendMsg
  repeat' first
    | with_reducible assumption
    | with_reducible exact trivial
    | with_reducible intro _
    | split
    | with_reducible apply flushMsgs_inv
    | (dsimp only)
    | (fail_if_no_progress (with_reducible refine inv_mk ?_ rfl rfl))

theorem setEvRing_inv {e : Nat} {r : Ring} {s : State}  (hs : Inv s) : Inv (setEvRing e r s) := by
  unfold setEvRing
  repeat' first
    | with_reducible assumption
    | with_reducible exact trivial
    | with_reducible intro _
    | split
    | (dsimp only)
    | (fail_if_no_progress (with_reducible refine inv_mk ?_ rfl rfl))

theorem loseEvent_inv {e : Nat} {s : State}  (hs : Inv s) : Inv (loseEvent e s) := by
  unfold loseEvent
  repeat' first
    | with_reducible assumption
    | with_reducible exact trivial
    | with_reducible intro _
    | split
    | with_reducible apply bumpSat_inv
    | with_reducible apply setEvRing_inv

theorem dueEvent_inv {ev : Ev} {e : Nat} {s : State}  (hs : Inv s) : Inv (dueEvent ev e s) := by
  unfold dueEvent
  repeat' first
    | with_reducible assumption
    | with_reducible exact trivial
    | with_reducible intro _
    | with_reducible refine inv_ite ?_ ?_
    | split
    | with_reducible apply setEvRing_inv
    | with_reducible apply loseEvent_inv

theorem evToPeer_inv {ev : Ev} {peer : Nat} {s : State}  (hs : Inv s) : Inv (evToPeer ev peer s) := by
  unfold evToPeer
  repeat' first
    | with_reducible assumption
    | with_reducible exact trivial
    | with_reducible intro _
    | with_reducible refine inv_ite ?_ ?_
    | split
    | (dsimp only)
    | (fail_if_no_progress (with_reducible refine inv_mk ?_ rfl rfl))

theorem postEvent_inv {ev : Ev} {s : State}  (hs : Inv s) : Inv (postEvent ev s) := by
  unfold postEvent
  repeat' first
    | with_reducible assumption
    | with_reducible exact trivial
    | with_reducible intro _
    | split
    | with_reducible refine inv_foldl ?_ ?_
    | with_reducible apply dueEvent_inv
    | with_reducible apply evToPeer_inv

theorem logEvent_inv {ev : Ev} {s : State}  (hs : Inv s) : Inv (logEvent ev s) := by
  unfold logEvent
  repeat' first
    | with_reducible assumption
    | with_reducible exact trivial
    | with_reducible intro _
    | with_reducible refine inv_ite ?_ ?_
    | split
    | (dsimp only)
    | (fail_if_no_progress (with_reducible refine inv_mk ?_ rfl rfl))

theorem latchEvent_inv {ev : Ev} {s : State}  (hs : Inv s) : Inv (latchEvent ev s) := by
  unfold latchEvent
  repeat' first
    | with_reducible assumption
    | with_reducible exact trivial
    | with_reducible intro _
    | with_reducible refine inv_ite ?_ ?_
    | split
    | with_reducible apply regSet_inv

theorem tellPldm_inv {ev : Ev} {s : State}  (hs : Inv s) : Inv (tellPldm ev s) := by
  unfold tellPldm
  repeat' first
    | with_reducible assumption
    | with_reducible exact trivial
    | with_reducible intro _
    | with_reducible refine inv_ite ?_ ?_
    | split
    | with_reducible apply emit_inv

theorem raiseAs_inv {b : Blk} {ev : Ev} {logged : Ev → Ev} {s : State}  (hs : Inv s) : Inv (raiseAs b ev logged s) := by
  unfold raiseAs
  repeat' first
    | with_reducible assumption
    | with_reducible exact trivial
    | with_reducible intro _
    | with_reducible refine inv_ite ?_ ?_
    | split
    | with_reducible refine inv_foldl ?_ ?_
    | with_reducible apply loseEvent_inv
    | with_reducible apply postEvent_inv
    | with_reducible apply logEvent_inv
    | with_reducible apply latchEvent_inv
    | with_reducible apply tellPldm_inv
    | (dsimp only)
    | (fail_if_no_progress (with_reducible refine inv_mk ?_ rfl rfl))

theorem raise_inv {b : Blk} {ev : Ev} {s : State}  (hs : Inv s) : Inv (raise b ev s) := by
  unfold raise
  repeat' first
    | with_reducible assumption
    | with_reducible exact trivial
    | with_reducible intro _
    | split
    | with_reducible apply raiseAs_inv

theorem raiseFault_inv {b : Blk} {page : Nat} {bitNo : Nat} {ev : Ev} {s : State}  (hs : Inv s) : Inv (raiseFault b page bitNo ev s) := by
  unfold raiseFault
  repeat' first
    | with_reducible assumption
    | with_reducible exact trivial
    | with_reducible intro _
    | split
    | with_reducible apply blkFault_inv
    | with_reducible apply raise_inv

theorem violation_inv {kind : Nat} {addr : Word64} {size : Nat} {read : Bool} {ring : Nat} {evr : Bool} {s : State}  (hs : Inv s) : Inv (violation kind addr size read ring evr s) := by
  unfold violation
  repeat' first
    | with_reducible assumption
    | with_reducible exact trivial
    | with_reducible intro _
    | with_reducible refine inv_ite ?_ ?_
    | split
    | with_reducible apply blkFault_inv
    | with_reducible apply emit_inv
    | with_reducible apply raise_inv

theorem advanceEpoch_inv {s : State}  (hs : Inv s) : Inv (advanceEpoch s) := by
  unfold advanceEpoch
  repeat' first
    | with_reducible assumption
    | with_reducible exact trivial
    | with_reducible intro _
    | split
    | (dsimp only)
    | (fail_if_no_progress (with_reducible refine inv_mk ?_ rfl rfl))

theorem setMode_inv {m : Mode} {s : State}  (hs : Inv s) : Inv (setMode m s) := by
  unfold setMode
  repeat' first
    | with_reducible assumption
    | with_reducible exact trivial
    | with_reducible intro _
    | with_reducible refine inv_ite ?_ ?_
    | split
    | with_reducible apply raise_inv
    | with_reducible apply advanceEpoch_inv
    | (dsimp only)
    | (fail_if_no_progress (with_reducible refine inv_mk ?_ rfl rfl))

theorem cmdMod_inv {c : Nat} {f : Cmd → Cmd} {s : State}  (hs : Inv s) : Inv (cmdMod c f s) := by
  unfold cmdMod
  repeat' first
    | with_reducible assumption
    | with_reducible exact trivial
    | with_reducible intro _
    | with_reducible refine inv_ite ?_ ?_
    | split
    | (dsimp only)
    | (fail_if_no_progress (with_reducible refine inv_mk ?_ rfl rfl))

theorem cmdPut_inv {x : Cmd} {s : State}  (hs : Inv s) : Inv (cmdPut x s) := by
  unfold cmdPut
  repeat' first
    | with_reducible assumption
    | with_reducible exact trivial
    | with_reducible intro _
    | split
    | with_reducible apply cmdMod_inv

theorem setWork_inv {c : Nat} {w : Work} {s : State}  (hs : Inv s) : Inv (setWork c w s) := by
  unfold setWork
  repeat' first
    | with_reducible assumption
    | with_reducible exact trivial
    | with_reducible intro _
    | split
    | with_reducible apply cmdMod_inv

theorem noteStage_inv {c : Nat} {n : Nat} {s : State}  (hs : Inv s) : Inv (noteStage c n s) := by
  unfold noteStage
  repeat' first
    | with_reducible assumption
    | with_reducible exact trivial
    | with_reducible intro _
    | split
    | with_reducible apply cmdMod_inv

theorem setBell_inv {c : Nat} {b : BellUnit} {s : State}  (hs : Inv s) : Inv (setBell c b s) := by
  unfold setBell
  repeat' first
    | with_reducible assumption
    | with_reducible exact trivial
    | with_reducible intro _
    | split
    | (dsimp only)
    | (fail_if_no_progress (with_reducible refine inv_mk ?_ rfl rfl))

theorem freeTiles_inv {x : Nat} {s : State}  (hs : Inv s) : Inv (freeTiles x s) := by
  unfold freeTiles
  repeat' first
    | with_reducible assumption
    | with_reducible exact trivial
    | with_reducible intro _
    | split
    | (dsimp only)
    | (fail_if_no_progress (with_reducible refine inv_mk ?_ rfl rfl))

theorem clearBell_inv {c : Nat} {s : State}  (hs : Inv s) : Inv (clearBell c s) := by
  unfold clearBell
  repeat' first
    | with_reducible assumption
    | with_reducible exact trivial
    | with_reducible intro _
    | split
    | (dsimp only)
    | (fail_if_no_progress (with_reducible refine inv_mk ?_ rfl rfl))

theorem collMod_inv {h : Nat} {f : Coll → Coll} {s : State}  (hs : Inv s) : Inv (collMod h f s) := by
  unfold collMod
  repeat' first
    | with_reducible assumption
    | with_reducible exact trivial
    | with_reducible intro _
    | split
    | (dsimp only)
    | (fail_if_no_progress (with_reducible refine inv_mk ?_ rfl rfl))

theorem domMod_inv {d : Nat} {f : Domain → Domain} {s : State}  (hs : Inv s) : Inv (domMod d f s) := by
  unfold domMod
  repeat' first
    | with_reducible assumption
    | with_reducible exact trivial
    | with_reducible intro _
    | split
    | (dsimp only)
    | (fail_if_no_progress (with_reducible refine inv_mk ?_ rfl rfl))

theorem peerMod_inv {p : Nat} {f : Peer → Peer} {s : State}  (hs : Inv s) : Inv (peerMod p f s) := by
  unfold peerMod
  repeat' first
    | with_reducible assumption
    | with_reducible exact trivial
    | with_reducible intro _
    | split
    | (dsimp only)
    | (fail_if_no_progress (with_reducible refine inv_mk ?_ rfl rfl))

theorem idle_inv {s : State}  (hs : Inv s) : Inv (idle s) := by
  unfold idle
  repeat' first
    | with_reducible assumption
    | with_reducible exact trivial
    | with_reducible intro _
    | split
    | (dsimp only)
    | (fail_if_no_progress (with_reducible refine inv_mk ?_ rfl rfl))

end Sys2Proof.Machine
end

