-- ==== Sys2Proof/Laws/KeepsXlat.lean ====
section
/-! SUPPORT. The functions of Machine/Xlat.lean keep the invariant. -/

namespace Sys2Proof.Machine

theorem cacheTouch_inv {e : CacheEntry} {s : State}  (hs : Inv s) : Inv (cacheTouch e s) := by
  unfold cacheTouch
  repeat' first
    | with_reducible assumption
    | with_reducible exact trivial
    | with_reducible intro _
    | split
    | (dsimp only)
    | (fail_if_no_progress (with_reducible refine inv_mk ?_ rfl rfl))

theorem crookMod_inv {f : Crook → Crook} {s : State}  (hs : Inv s) : Inv (crookMod f s) := by
  unfold crookMod
  repeat' first
    | with_reducible assumption
    | with_reducible exact trivial
    | with_reducible intro _
    | split
    | (dsimp only)
    | (fail_if_no_progress (with_reducible refine inv_mk ?_ rfl rfl))

theorem askPage_inv {d : Nat} {page : Nat} {write : Bool} {s : State}  (hs : Inv s) : Inv (askPage d page write s) := by
  unfold askPage
  repeat' first
    | with_reducible assumption
    | with_reducible exact trivial
    | with_reducible intro _
    | split
    | with_reducible apply bumpWrap_inv
    | with_reducible apply emit_inv
    | with_reducible apply crookMod_inv

theorem fill_inv {w : Who} {r : Region} {boot : Bool} {va : Nat} {write : Bool} {s : State}  (hs : Inv s) : Inv (fill w r boot va write s).2 := by
  unfold fill
  repeat' first
    | with_reducible assumption
    | with_reducible exact trivial
    | with_reducible intro _
    | with_reducible refine snd_ite ?_ ?_
    | with_reducible refine inv_ite ?_ ?_
    | split
    | with_reducible apply bumpWrap_inv
    | with_reducible apply emit_inv
    | with_reducible apply crookMod_inv
    | with_reducible apply askPage_inv
    | (dsimp only)

theorem translate_inv {w : Who} {va : Nat} {write : Bool} {s : State}  (hs : Inv s) : Inv (translate w va write s).2 := by
  unfold translate
  repeat' first
    | with_reducible assumption
    | with_reducible exact trivial
    | with_reducible intro _
    | with_reducible refine snd_ite ?_ ?_
    | with_reducible refine inv_ite ?_ ?_
    | split
    | with_reducible apply bumpWrap_inv
    | with_reducible apply cacheTouch_inv
    | with_reducible apply fill_inv

theorem xlatRange_inv {w : Who} {write : Bool} {y0 : Nat} {y1 : Nat} {y2 : Nat} {y3 : State}  (hy3 : Inv y3) :
    ResInv Inv (xlatRange w write y0 y1 y2 y3) := by
  induction y0 generalizing y1 y2 y3 with
  | zero => exact .ok hy3
  | succ k ih =>
    rw [xlatRange]
    split
    · exact .ok hy3
    · dsimp only
      have ht := translate_inv (w := w) (va := y1) (write := write) hy3
      split
      · rename_i st s h
        rw [h] at ht
        exact .fail (bumpSat_inv ht)
      · rename_i h; rw [h] at ht; exact .wait ht
      · rename_i a s h
        rw [h] at ht
        have hr := ih (y1 := y1 + min y2 (pageSize - y1 % pageSize)) (y2 := y2 - min y2 (pageSize - y1 % pageSize)) ht
        generalize xlatRange w write k (y1 + min y2 (pageSize - y1 % pageSize)) (y2 - min y2 (pageSize - y1 % pageSize)) s = r at hr
        cases hr
        · exact .ok ‹_›
        · exact .fail ‹_›
        · exact .wait ‹_›

theorem readRemote_inv {c : Nat} {va : Nat} {n : Nat} {s : State}  (hs : Inv s) : ResInv Inv (readRemote c va n s) := by
  unfold readRemote
  repeat' first
    | with_reducible assumption
    | with_reducible exact trivial
    | with_reducible intro _
    | with_reducible apply ok_inv
    | with_reducible apply fail_inv
    | with_reducible apply wait_inv
    | split
    | (dsimp only)

theorem writeRemote_inv {c : Nat} {va : Nat} {bs : List Byte} {s : State}  (hs : Inv s) : ResInv Inv (writeRemote c va bs s) := by
  rw [writeRemote]
  generalize remoteOff va bs.length (2 ^ 20) = o
  cases o
  · exact .fail hs
  · exact .ok (cmdMod_inv hs)

theorem readDev_inv {w : Who} {va : Nat} {n : Nat} {s : State}  (hs : Inv s) : ResInv Inv (readDev w va n s) := by
  unfold readDev
  repeat' first
    | with_reducible assumption
    | with_reducible exact trivial
    | with_reducible intro _
    | with_reducible refine res_ite ?_ ?_
    | with_reducible refine inv_ite ?_ ?_
    | with_reducible apply ok_inv
    | with_reducible apply fail_inv
    | with_reducible apply wait_inv
    | split
    | with_reducible refine res_andThen ?_ ?_
    | with_reducible apply xlatRange_inv
    | with_reducible apply readRemote_inv

theorem writePieces_inv {ps : List (Nat × Nat)} {bs : List Byte} {s : State} (hs : Inv s) : Inv (writePieces ps bs s) := by
  induction ps generalizing bs s with
  | nil => exact hs
  | cons p t ih => exact ih ⟨memWrite_wf hs.mem, hs.windows, hs.classes, hs.ports, hs.rails⟩

theorem writeDev_inv {w : Who} {va : Nat} {bs : List Byte} {s : State}  (hs : Inv s) : ResInv Inv (writeDev w va bs s) := by
  rw [writeDev]
  split
  · exact writeRemote_inv hs
  · split
    · exact .fail hs
    · exact res_andThen (xlatRange_inv hs) (fun ps s h => .ok <| writePieces_inv h)

theorem checkWrite_inv {w : Who} {va : Nat} {n : Nat} {s : State}  (hs : Inv s) : ResInv Inv (checkWrite w va n s) := by
  unfold checkWrite
  repeat' first
    | with_reducible assumption
    | with_reducible exact trivial
    | with_reducible intro _
    | with_reducible refine res_ite ?_ ?_
    | with_reducible refine inv_ite ?_ ?_
    | with_reducible apply ok_inv
    | with_reducible apply fail_inv
    | with_reducible apply wait_inv
    | split
    | with_reducible refine res_andThen ?_ ?_
    | with_reducible apply xlatRange_inv

theorem readClean_inv {w : Who} {p : Nat} {bitNo : Nat} {va : Nat} {n : Nat} {s : State}  (hs : Inv s) : ResInv Inv (readClean w p bitNo va n s) := by
  unfold readClean
  repeat' first
    | with_reducible assumption
    | with_reducible exact trivial
    | with_reducible intro _
    | with_reducible apply ok_inv
    | with_reducible apply fail_inv
    | with_reducible apply wait_inv
    | split
    | with_reducible refine res_andThen ?_ ?_
    | with_reducible apply readDev_inv

theorem prefetch_inv {w : Who} {va : Nat} {write : Bool} {s : State}  (hs : Inv s) : Inv (prefetch w va write s) := by
  unfold prefetch
  repeat' first
    | with_reducible assumption
    | with_reducible exact trivial
    | with_reducible intro _
    | split
    | with_reducible apply bumpSat_inv
    | with_reducible apply translate_inv
    | refine inv_snd (by with_reducible assumption) ?_

theorem prefetchRange_inv {w : Who} {write : Bool} {y0 : Nat} {y1 : Nat} {y2 : Nat} {y3 : State}  (hy3 : Inv y3) : Inv (prefetchRange w write y0 y1 y2 y3) := by
  induction y0 generalizing w write y1 y2 y3 with
  | zero =>
    unfold prefetchRange
    repeat' first
      | with_reducible assumption
  | succ n ih =>
    unfold prefetchRange
    repeat' first
      | with_reducible assumption
      | with_reducible exact trivial
      | with_reducible intro _
      | with_reducible refine inv_ite ?_ ?_
      | split
      | with_reducible apply ih
      | with_reducible apply prefetch_inv

end Sys2Proof.Machine
end

