-- ==== Sys2Proof/Laws/KeepsRings.lean ====
section
/-! SUPPORT. The functions of Machine/Rings.lean keep the invariant. -/

namespace Sys2Proof.Machine

theorem ringPut_inv {i : RingId} {r : Ring} {s : State}  (hs : Inv s) : Inv (ringPut i r s) := by
  unfold ringPut
  repeat' first
    | with_reducible assumption
    | with_reducible exact trivial
    | with_reducible intro _
    | split
    | with_reducible apply setEvRing_inv
    | (dsimp only)
    | (fail_if_no_progress (with_reducible refine inv_mk ?_ rfl rfl))

theorem signalRecord_inv {i : RingId} {s : State}  (hs : Inv s) : Inv (signalRecord i s) := by
  unfold signalRecord
  repeat' first
    | with_reducible assumption
    | with_reducible exact trivial
    | with_reducible intro _
    | with_reducible refine inv_ite ?_ ?_
    | split
    | with_reducible apply sendMsix_inv
    | with_reducible apply ringPut_inv

theorem signalHead_inv {i : RingId} {s : State}  (hs : Inv s) : Inv (signalHead i s) := by
  unfold signalHead
  repeat' first
    | with_reducible assumption
    | with_reducible exact trivial
    | with_reducible intro _
    | with_reducible refine inv_ite ?_ ?_
    | split
    | with_reducible apply sendMsix_inv
    | with_reducible apply ringPut_inv

theorem writeRecord_inv {i : RingId} {r : Ring} {mk : Bool → List Byte} {s : State} (hs : Inv s) : RecInv Inv (writeRecord i r mk s) := by
  rw [writeRecord]
  have h := translate_inv (w := ringWho i r) (va := r.base + recordBytes i * r.tail) (write := true) hs
  generalize translate (ringWho i r) (r.base + recordBytes i * r.tail) true s = p at h
  obtain ⟨x, t⟩ := p
  cases x with
  | fault st => exact .fault h
  | miss => exact .wait h
  | bus a => exact .done <| signalRecord_inv (ringPut_inv (inv_mem h (memWrite_wf h.mem)))

theorem ringFault_inv {i : RingId} {r : Ring} {status : Nat} {va : Nat} {s : State}  (hs : Inv s) : Inv (ringFault i r status va s) := by
  unfold ringFault
  repeat' first
    | with_reducible assumption
    | with_reducible exact trivial
    | with_reducible intro _
    | with_reducible refine inv_ite ?_ ?_
    | split
    | with_reducible apply blkFault_inv
    | with_reducible apply raise_inv
    | with_reducible apply ringPut_inv

theorem drainEvents_inv {e fuel : Nat} {s : State} (hs : Inv s) : Inv (drainEvents e fuel s) := by
  induction fuel generalizing s with
  | zero => exact hs
  | succ n ih =>
    rw [drainEvents]
    dsimp only
    split
    · exact hs
    · split
      · exact hs
      · split
        · rename_i h
          exact rec_wait h (writeRecord_inv hs)
        · rename_i h
          exact ih (loseEvent_inv (setEvRing_inv (ringFault_inv (rec_fault h (writeRecord_inv hs)))))
        · rename_i h
          exact ih (rec_done h (writeRecord_inv hs))

theorem drainAll_inv {s : State}  (hs : Inv s) : Inv (drainAll s) := by
  unfold drainAll
  repeat' first
    | with_reducible assumption
    | with_reducible exact trivial
    | with_reducible intro _
    | split
    | with_reducible refine inv_foldl ?_ ?_
    | with_reducible apply drainEvents_inv

theorem raiseNow_inv {b : Blk} {ev : Ev} {s : State}  (hs : Inv s) : Inv (raiseNow b ev s) := by
  unfold raiseNow
  repeat' first
    | with_reducible assumption
    | with_reducible exact trivial
    | with_reducible intro _
    | split
    | with_reducible apply raise_inv
    | with_reducible apply drainAll_inv

theorem ctxViolation_inv {i : RingId} {k : Nat} {s : State}  (hs : Inv s) : Inv (ctxViolation i k s) := by
  unfold ctxViolation
  repeat' first
    | with_reducible assumption
    | with_reducible exact trivial
    | with_reducible intro _
    | split
    | with_reducible apply violation_inv
    | with_reducible apply drainAll_inv

theorem releaseHeld_inv {s : State}  (hs : Inv s) : Inv (releaseHeld s) := by
  unfold releaseHeld
  repeat' first
    | with_reducible assumption
    | with_reducible exact trivial
    | with_reducible intro _
    | with_reducible refine inv_ite ?_ ?_
    | split
    | with_reducible refine inv_foldl ?_ ?_
    | with_reducible apply postEvent_inv
    | (dsimp only)
    | (fail_if_no_progress (with_reducible refine inv_mk ?_ rfl rfl))

theorem ctxWriteWord0_inv {i : RingId} {v : Word64} {s : State}  (hs : Inv s) : Inv (ctxWriteWord0 i v s) := by
  unfold ctxWriteWord0
  repeat' first
    | with_reducible assumption
    | with_reducible exact trivial
    | with_reducible intro _
    | with_reducible refine inv_ite ?_ ?_
    | split
    | with_reducible apply ringPut_inv
    | with_reducible apply ctxViolation_inv

theorem loseWaiting_inv {i : RingId} {r : Ring} {s : State}  (hs : Inv s) : Inv (loseWaiting i r s) := by
  unfold loseWaiting
  repeat' first
    | with_reducible assumption
    | with_reducible exact trivial
    | with_reducible intro _
    | split
    | with_reducible refine inv_foldl ?_ ?_
    | with_reducible apply loseEvent_inv

theorem ctxWriteWord1_inv {i : RingId} {v : Word64} {s : State}  (hs : Inv s) : Inv (ctxWriteWord1 i v s) := by
  unfold ctxWriteWord1
  repeat' first
    | with_reducible assumption
    | with_reducible exact trivial
    | with_reducible intro _
    | with_reducible refine inv_ite ?_ ?_
    | split
    | with_reducible apply ringPut_inv
    | with_reducible apply drainAll_inv
    | with_reducible apply ctxViolation_inv
    | with_reducible apply releaseHeld_inv
    | with_reducible apply loseWaiting_inv

theorem ctxWriteReserved_inv {i : RingId} {k : Nat} {v : Word64} {s : State}  (hs : Inv s) : Inv (ctxWriteReserved i k v s) := by
  unfold ctxWriteReserved
  repeat' first
    | with_reducible assumption
    | with_reducible exact trivial
    | with_reducible intro _
    | with_reducible refine inv_ite ?_ ?_
    | split
    | with_reducible apply ctxViolation_inv

theorem zeroPieces_inv {ps : List (Nat × Nat)} {s : State} (hs : Inv s) : Inv (zeroPieces ps s) :=
  inv_mem hs (memFilter_wf hs.mem)

theorem ringZeroed_inv {i : RingId} {s : State}  (hs : Inv s) : Inv (ringZeroed i s) := by
  unfold ringZeroed
  repeat' first
    | with_reducible assumption
    | with_reducible exact trivial
    | with_reducible intro _
    | with_reducible refine inv_ite ?_ ?_
    | with_reducible apply ok_inv
    | with_reducible apply fail_inv
    | with_reducible apply wait_inv
    | split
    | with_reducible apply xlatRange_inv
    | with_reducible apply writePieces_inv
    | with_reducible apply ringPut_inv
    | with_reducible apply ringFault_inv
    | with_reducible apply drainAll_inv
    | with_reducible apply zeroPieces_inv
    | refine res_ok (by with_reducible assumption) ?_
    | refine res_fail (by with_reducible assumption) ?_
    | refine res_wait (by with_reducible assumption) ?_

theorem headWrite_inv {i : RingId} {v : Nat} {addr : Word64} {size : Nat} {s : State}  (hs : Inv s) : Inv (headWrite i v addr size s) := by
  unfold headWrite
  repeat' first
    | with_reducible assumption
    | with_reducible exact trivial
    | with_reducible intro _
    | with_reducible refine inv_ite ?_ ?_
    | split
    | with_reducible apply violation_inv
    | with_reducible apply ringPut_inv
    | with_reducible apply signalHead_inv
    | with_reducible apply drainAll_inv

end Sys2Proof.Machine
end

