-- ==== Sys2Proof/Laws/KeepsPort.lean ====
section
/-! SUPPORT. The functions of Machine/Port.lean keep the invariant. -/

namespace Sys2Proof.Machine

theorem regRow_inv {b : Blk} {i : Nat} {off : Nat} {f : State → State} {s : State} (hf : ∀ a0, Inv a0 → Inv (f a0)) (hs : Inv s) : Inv (regRow b i off f s) := by
  unfold regRow
  repeat' first
    | with_reducible assumption
    | with_reducible exact trivial
    | with_reducible intro _
    | with_reducible refine inv_ite ?_ ?_
    | split
    | with_reducible apply violation_inv
    | with_reducible apply drainAll_inv
    | with_reducible apply hf

theorem regViolation3_inv {b : Blk} {i : Nat} {off : Nat} {s : State}  (hs : Inv s) : Inv (regViolation3 b i off s) := by
  unfold regViolation3
  repeat' first
    | with_reducible assumption
    | with_reducible exact trivial
    | with_reducible intro _
    | split
    | with_reducible apply violation_inv
    | with_reducible apply drainAll_inv

theorem translateAhead_inv {w : Who} {y0 : List (Nat × Bool)} {y1 : Cmd} {y2 : State}  (hy2 : Inv y2) : Inv (translateAhead w y0 y1 y2).2 := by
  induction y0 generalizing w y1 y2 with
  | nil =>
    unfold translateAhead
    repeat' first
      | with_reducible assumption
  | cons a t ih =>
    unfold translateAhead
    repeat' first
      | with_reducible assumption
      | with_reducible exact trivial
      | with_reducible intro _
      | with_reducible refine snd_ite ?_ ?_
      | with_reducible refine inv_ite ?_ ?_
      | split
      | with_reducible apply ih
      | with_reducible apply bumpSat_inv
      | with_reducible apply blkFault_inv
      | with_reducible apply crookMod_inv
      | with_reducible apply translate_inv
      | refine inv_snd (by with_reducible assumption) ?_

theorem releaseHolds_inv {x : Cmd} {s : State}  (hs : Inv s) : Inv (releaseHolds x s) := by
  unfold releaseHolds
  repeat' first
    | with_reducible assumption
    | with_reducible exact trivial
    | with_reducible intro _
    | with_reducible refine inv_ite ?_ ?_
    | split
    | with_reducible refine inv_foldl ?_ ?_
    | with_reducible refine snd_foldl ?_ ?_
    | with_reducible apply crookMod_inv

theorem rejectCommit_inv {q : Nat} {reason : Nat} {seq : Nat} {s : State}  (hs : Inv s) : Inv (rejectCommit q reason seq s) := by
  unfold rejectCommit
  repeat' first
    | with_reducible assumption
    | with_reducible exact trivial
    | with_reducible intro _
    | split
    | with_reducible apply bumpSat_inv
    | with_reducible apply blkFault_inv
    | with_reducible apply raise_inv
    | (dsimp only)
    | (fail_if_no_progress (with_reducible refine inv_mk ?_ rfl rfl))

theorem acceptCommit_inv {q : Nat} {bytes : List Byte} {peer : Option Nat} {dataIn : List Byte} {s : State}  (hs : Inv s) : Inv (acceptCommit q bytes peer dataIn s) := by
  unfold acceptCommit
  repeat' first
    | with_reducible assumption
    | with_reducible exact trivial
    | with_reducible intro _
    | with_reducible refine inv_ite ?_ ?_
    | split
    | with_reducible apply bumpWrap_inv
    | with_reducible apply cmdPut_inv
    | with_reducible apply translateAhead_inv
    | refine inv_snd (by with_reducible assumption) ?_
    | (dsimp only)
    | (fail_if_no_progress (with_reducible refine inv_mk ?_ rfl rfl))

theorem clearWindow_inv {q : Nat} {s : State}  (hs : Inv s) : Inv (clearWindow q s) := by
  unfold clearWindow
  repeat' first
    | with_reducible assumption
    | with_reducible exact trivial
    | with_reducible intro _
    | split
    | exact inv_win hs (memFilter_wf hs.windows)

theorem commitWord_inv {q : Nat} {whole : Bool} {cw : Nat} {s : State}  (hs : Inv s) : Inv (commitWord q whole cw s) := by
  unfold commitWord
  repeat' first
    | with_reducible assumption
    | with_reducible exact trivial
    | with_reducible intro _
    | with_reducible refine inv_ite ?_ ?_
    | split
    | with_reducible apply rejectCommit_inv
    | with_reducible apply acceptCommit_inv
    | with_reducible apply clearWindow_inv

theorem cqHead_inv {q : Nat} {v : Nat} {size : Nat} {s : State}  (hs : Inv s) : Inv (cqHead q v size s) := by
  unfold cqHead
  repeat' first
    | with_reducible assumption
    | with_reducible exact trivial
    | with_reducible intro _
    | split
    | with_reducible apply violation_inv
    | with_reducible apply drainAll_inv
    | with_reducible apply headWrite_inv

theorem windowPart_inv {q o : Nat} {data : List Byte} {s : State} (hs : Inv s) : Inv (windowPart q o data s) := by
  unfold windowPart
  extract_lets e area s1 s2 s3 s4 s5
  have h1 : Inv s1 := by
    dsimp only [s1]
    split
    · exact inv_win hs (memWrite_wf hs.windows)
    · exact hs
  have h2 : Inv s2 := by
    dsimp only [s2]
    split
    · exact commitWord_inv h1
    · exact h1
  have h3 : Inv s3 := by
    dsimp only [s3]
    split
    · exact violation_inv h2
    · exact h2
  have h4 : Inv s4 := by
    dsimp only [s4]
    split
    · exact cqHead_inv h3
    · exact h3
  have h5 : Inv s5 := by
    dsimp only [s5]
    split
    · exact violation_inv h4
    · exact h4
  exact drainAll_inv h5

theorem windowWrite_inv {y0 : Nat} {y1 : Nat} {y2 : List Byte} {y3 : State}  (hy3 : Inv y3) : Inv (windowWrite y0 y1 y2 y3) := by
  induction y0 generalizing y1 y2 y3 with
  | zero =>
    unfold windowWrite
    repeat' first
      | with_reducible assumption
  | succ n ih =>
    unfold windowWrite
    repeat' first
      | with_reducible assumption
      | with_reducible exact trivial
      | with_reducible intro _
      | with_reducible refine inv_ite ?_ ?_
      | split
      | with_reducible apply ih
      | with_reducible apply windowPart_inv

theorem execCommit_inv {off : Nat} {data : List Byte} {s : State}  (hs : Inv s) : OutInv Inv (execCommit off data s) := by
  unfold execCommit
  repeat' first
    | with_reducible assumption
    | with_reducible exact trivial
    | with_reducible intro _
    | with_reducible apply out_next
    | split
    | with_reducible apply windowWrite_inv

theorem execCqHeadWrite_inv {q : Nat} {v : BitVec 32} {s : State}  (hs : Inv s) : OutInv Inv (execCqHeadWrite q v s) := by
  unfold execCqHeadWrite
  repeat' first
    | with_reducible assumption
    | with_reducible exact trivial
    | with_reducible intro _
    | with_reducible apply out_next
    | split
    | with_reducible apply cqHead_inv

theorem execEvrHeadWrite_inv {e : Nat} {v : Word64} {s : State}  (hs : Inv s) : OutInv Inv (execEvrHeadWrite e v s) := by
  unfold execEvrHeadWrite
  repeat' first
    | with_reducible assumption
    | with_reducible exact trivial
    | with_reducible intro _
    | with_reducible apply out_next
    | split
    | with_reducible apply headWrite_inv
    | with_reducible apply regRow_inv

theorem execRingContextWord0Write_inv {r : RingId} {v : Word64} {s : State}  (hs : Inv s) : OutInv Inv (execRingContextWord0Write r v s) := by
  unfold execRingContextWord0Write
  repeat' first
    | with_reducible assumption
    | with_reducible exact trivial
    | with_reducible intro _
    | with_reducible refine out_ite ?_ ?_
    | with_reducible refine inv_ite ?_ ?_
    | with_reducible apply out_next
    | split
    | with_reducible apply ctxWriteWord0_inv

theorem execRingContextWord1Write_inv {r : RingId} {v : Word64} {s : State}  (hs : Inv s) : OutInv Inv (execRingContextWord1Write r v s) := by
  unfold execRingContextWord1Write
  repeat' first
    | with_reducible assumption
    | with_reducible exact trivial
    | with_reducible intro _
    | with_reducible refine out_ite ?_ ?_
    | with_reducible refine inv_ite ?_ ?_
    | with_reducible apply out_next
    | split
    | with_reducible apply ctxWriteWord1_inv

theorem execRingZeroingDone_inv {r : RingId} {s : State}  (hs : Inv s) : OutInv Inv (execRingZeroingDone r s) := by
  unfold execRingZeroingDone
  repeat' first
    | with_reducible assumption
    | with_reducible exact trivial
    | with_reducible intro _
    | with_reducible apply out_next
    | split
    | with_reducible apply ringZeroed_inv

theorem portEnable_inv {v : Word64} {s : State}  (hs : Inv s) : Inv (portEnable v s) := by
  unfold portEnable
  repeat' first
    | with_reducible assumption
    | with_reducible exact trivial
    | with_reducible intro _
    | with_reducible refine inv_ite ?_ ?_
    | split
    | with_reducible apply regSet_inv
    | with_reducible apply crookMod_inv

theorem execPortEnableWrite_inv {v : Word64} {s : State}  (hs : Inv s) : OutInv Inv (execPortEnableWrite v s) := by
  unfold execPortEnableWrite
  repeat' first
    | with_reducible assumption
    | with_reducible exact trivial
    | with_reducible intro _
    | with_reducible apply out_next
    | split
    | with_reducible apply portEnable_inv

theorem execBlkErrClear_inv {page : Nat} {v : Word64} {s : State}  (hs : Inv s) : OutInv Inv (execBlkErrClear page v s) := by
  unfold execBlkErrClear
  repeat' first
    | with_reducible assumption
    | with_reducible exact trivial
    | with_reducible intro _
    | with_reducible refine out_ite ?_ ?_
    | with_reducible refine inv_ite ?_ ?_
    | with_reducible apply out_next
    | split
    | with_reducible apply blkErrClear_inv
    | with_reducible apply violation_inv
    | with_reducible apply drainAll_inv

theorem boreDebug_inv {cluster : Nat} {v : Word64} {s : State}  (hs : Inv s) : Inv (boreDebug cluster v s) := by
  unfold boreDebug
  repeat' first
    | with_reducible assumption
    | with_reducible exact trivial
    | with_reducible intro _
    | with_reducible refine inv_ite ?_ ?_
    | split
    | with_reducible apply regSet_inv
    | with_reducible apply regViolation3_inv

theorem execBoreDebugWrite_inv {cluster : Nat} {v : Word64} {s : State}  (hs : Inv s) : OutInv Inv (execBoreDebugWrite cluster v s) := by
  unfold execBoreDebugWrite
  repeat' first
    | with_reducible assumption
    | with_reducible exact trivial
    | with_reducible intro _
    | with_reducible apply out_next
    | split
    | with_reducible apply regRow_inv
    | with_reducible apply boreDebug_inv

theorem bootWrite_inv {off : Nat} {base : Nat} {len : Nat} {s : State}  (hs : Inv s) : Inv (bootWrite off base len s) := by
  unfold bootWrite
  repeat' first
    | with_reducible assumption
    | with_reducible exact trivial
    | with_reducible intro _
    | with_reducible refine inv_ite ?_ ?_
    | split
    | with_reducible apply regSet_inv
    | with_reducible apply regViolation3_inv

theorem execCrkBootLenWrite_inv {v : Word64} {s : State}  (hs : Inv s) : OutInv Inv (execCrkBootLenWrite v s) := by
  unfold execCrkBootLenWrite
  repeat' first
    | with_reducible assumption
    | with_reducible exact trivial
    | with_reducible intro _
    | with_reducible apply out_next
    | split
    | with_reducible apply regRow_inv
    | with_reducible apply bootWrite_inv

theorem ledgerSel_inv {v : Word64} {s : State}  (hs : Inv s) : Inv (ledgerSel v s) := by
  unfold ledgerSel
  repeat' first
    | with_reducible assumption
    | with_reducible exact trivial
    | with_reducible intro _
    | with_reducible refine inv_ite ?_ ?_
    | split
    | with_reducible apply regSet_inv
    | with_reducible apply regViolation3_inv

theorem execWwyLedgerSelWrite_inv {v : Word64} {s : State}  (hs : Inv s) : OutInv Inv (execWwyLedgerSelWrite v s) := by
  unfold execWwyLedgerSelWrite
  repeat' first
    | with_reducible assumption
    | with_reducible exact trivial
    | with_reducible intro _
    | with_reducible apply out_next
    | split
    | with_reducible apply regRow_inv
    | with_reducible apply ledgerSel_inv

theorem execBlwCalSelWrite_inv {v : Word64} {s : State}  (hs : Inv s) : OutInv Inv (execBlwCalSelWrite v s) := by
  unfold execBlwCalSelWrite
  repeat' first
    | with_reducible assumption
    | with_reducible exact trivial
    | with_reducible intro _
    | with_reducible apply out_next
    | split
    | with_reducible apply regSet_inv

theorem ucalRun_inv {f : UCal → UCal} {s : State}  (hs : Inv s) : Inv (ucalRun f s) := by
  unfold ucalRun
  repeat' first
    | with_reducible assumption
    | with_reducible exact trivial
    | with_reducible intro _
    | split
    | (dsimp only)
    | (fail_if_no_progress (with_reducible refine inv_mk ?_ rfl rfl))

theorem ofsTrim_inv {v : Word64} {s : State}  (hs : Inv s) : Inv (ofsTrim v s) := by
  unfold ofsTrim
  repeat' first
    | with_reducible assumption
    | with_reducible exact trivial
    | with_reducible intro _
    | with_reducible refine inv_ite ?_ ?_
    | split
    | with_reducible apply regViolation3_inv
    | with_reducible apply ucalRun_inv

theorem execBlwOfsTrimWrite_inv {v : Word64} {s : State}  (hs : Inv s) : OutInv Inv (execBlwOfsTrimWrite v s) := by
  unfold execBlwOfsTrimWrite
  repeat' first
    | with_reducible assumption
    | with_reducible exact trivial
    | with_reducible intro _
    | with_reducible apply out_next
    | split
    | with_reducible apply ofsTrim_inv

theorem ofsTap_inv {v : Word64} {s : State}  (hs : Inv s) : Inv (ofsTap v s) := by
  unfold ofsTap
  repeat' first
    | with_reducible assumption
    | with_reducible exact trivial
    | with_reducible intro _
    | with_reducible refine inv_ite ?_ ?_
    | split
    | with_reducible apply regViolation3_inv
    | with_reducible apply ucalRun_inv

theorem execBlwOfsTapWrite_inv {v : Word64} {s : State}  (hs : Inv s) : OutInv Inv (execBlwOfsTapWrite v s) := by
  unfold execBlwOfsTapWrite
  repeat' first
    | with_reducible assumption
    | with_reducible exact trivial
    | with_reducible intro _
    | with_reducible apply out_next
    | split
    | with_reducible apply ofsTap_inv

theorem coalesceExpiry_inv {r : RingId} {s : State}  (hs : Inv s) : Inv (coalesceExpiry r s) := by
  unfold coalesceExpiry
  repeat' first
    | with_reducible assumption
    | with_reducible exact trivial
    | with_reducible intro _
    | with_reducible refine inv_ite ?_ ?_
    | split
    | with_reducible apply sendMsix_inv
    | with_reducible apply ringPut_inv

theorem execCoalesceTimerExpiry_inv {r : RingId} {s : State}  (hs : Inv s) : OutInv Inv (execCoalesceTimerExpiry r s) := by
  unfold execCoalesceTimerExpiry
  repeat' first
    | with_reducible assumption
    | with_reducible exact trivial
    | with_reducible intro _
    | with_reducible apply out_next
    | split
    | with_reducible apply coalesceExpiry_inv

theorem msixWrite_inv {off : Nat} {v : BitVec 32} {s : State}  (hs : Inv s) : Inv (msixWrite off v s) := by
  unfold msixWrite
  repeat' first
    | with_reducible assumption
    | with_reducible exact trivial
    | with_reducible intro _
    | with_reducible refine inv_ite ?_ ?_
    | split
    | with_reducible apply emit_inv
    | (dsimp only)
    | (fail_if_no_progress (with_reducible refine inv_mk ?_ rfl rfl))

theorem execMsixUnmask_inv {vector : Nat} {s : State}  (hs : Inv s) : OutInv Inv (execMsixUnmask vector s) := by
  unfold execMsixUnmask
  repeat' first
    | with_reducible assumption
    | with_reducible exact trivial
    | with_reducible intro _
    | with_reducible refine out_ite ?_ ?_
    | with_reducible refine inv_ite ?_ ?_
    | with_reducible apply out_next
    | split
    | with_reducible apply msixWrite_inv

end Sys2Proof.Machine
end

