-- ==== Sys2Proof/Laws/KeepsPost.lean ====
section
/-! SUPPORT. The functions of Machine/Post.lean keep the invariant. -/

namespace Sys2Proof.Machine

theorem raiseHorizons_inv {s : State}  (hs : Inv s) : Inv (raiseHorizons s) := by
  unfold raiseHorizons
  repeat' first
    | with_reducible assumption
    | with_reducible exact trivial
    | with_reducible intro _
    | with_reducible refine inv_ite ?_ ?_
    | split
    | (dsimp only)
    | (fail_if_no_progress (with_reducible refine inv_mk ?_ rfl rfl))

theorem freeContexts_inv {c : Nat} {s : State}  (hs : Inv s) : Inv (freeContexts c s) := by
  unfold freeContexts
  repeat' first
    | with_reducible assumption
    | with_reducible exact trivial
    | with_reducible intro _
    | split
    | (dsimp only)
    | (fail_if_no_progress (with_reducible refine inv_mk ?_ rfl rfl))

theorem freeUnits_inv {c : Nat} {s : State}  (hs : Inv s) : Inv (freeUnits c s) := by
  unfold freeUnits
  repeat' first
    | with_reducible assumption
    | with_reducible exact trivial
    | with_reducible intro _
    | split
    | with_reducible apply cmdMod_inv
    | with_reducible apply freeTiles_inv
    | with_reducible apply freeContexts_inv
    | (dsimp only)
    | (fail_if_no_progress (with_reducible refine inv_mk ?_ rfl rfl))

theorem finish_inv {c : Nat} {f : Cmd → Cmd} {s : State}  (hs : Inv s) : Inv (finish c f s) := by
  unfold finish
  repeat' first
    | with_reducible assumption
    | with_reducible exact trivial
    | with_reducible intro _
    | split
    | with_reducible apply cmdMod_inv
    | with_reducible apply freeUnits_inv

theorem failCmd_inv {c : Nat} {status : Nat} {f : Option CmdFault} {s : State}  (hs : Inv s) : Inv (failCmd c status f s) := by
  unfold failCmd
  repeat' first
    | with_reducible assumption
    | with_reducible exact trivial
    | with_reducible intro _
    | with_reducible refine inv_ite ?_ ?_
    | split
    | with_reducible apply blkFault_inv
    | with_reducible apply finish_inv

theorem failField_inv {x : Cmd} {status : Nat} {off : Nat} {s : State}  (hs : Inv s) : Inv (failField x status off s) := by
  unfold failField
  repeat' first
    | with_reducible assumption
    | with_reducible exact trivial
    | with_reducible intro _
    | split
    | with_reducible apply failCmd_inv

theorem settle_inv {c : Nat} {r : Res State} (h : RowInv Inv r) : Inv (settle c r) := by
  cases h with
  | ok h => exact h
  | fail h => exact failCmd_inv h
  | wait h => exact h

theorem done_inv {c : Nat} {f : Cmd → Cmd} {s : State}  (hs : Inv s) : RowInv Inv (done c f s) := by
  unfold done
  repeat' first
    | with_reducible assumption
    | with_reducible exact trivial
    | with_reducible intro _
    | with_reducible apply rowOk_inv
    | with_reducible apply rowFail_inv
    | with_reducible apply rowWait_inv
    | split
    | with_reducible apply finish_inv

theorem postEffect_inv {x : Cmd} {s : State}  (hs : Inv s) : Inv (postEffect x s) := by
  unfold postEffect
  repeat' first
    | with_reducible assumption
    | with_reducible exact trivial
    | with_reducible intro _
    | with_reducible refine inv_ite ?_ ?_
    | split
    | exact inv_cls hs (List.length_set.trans hs.classes)
    | with_reducible apply regField_inv
    | with_reducible apply raise_inv
    | with_reducible apply domMod_inv
    | (dsimp only)
    | (fail_if_no_progress (with_reducible refine inv_mk ?_ rfl rfl))

theorem takeCharges_inv {cs : List (Nat × Rat)} {s : State}  (hs : Inv s) : Inv (takeCharges cs s) := by
  unfold takeCharges
  repeat' first
    | with_reducible assumption
    | with_reducible exact trivial
    | with_reducible intro _
    | split
    | (dsimp only)
    | (fail_if_no_progress (with_reducible refine inv_mk ?_ rfl rfl))

theorem releaseCharges_inv {x : Cmd} {s : State}  (hs : Inv s) : Inv (releaseCharges x s) := by
  unfold releaseCharges
  repeat' first
    | with_reducible assumption
    | with_reducible exact trivial
    | with_reducible intro _
    | split
    | with_reducible apply takeCharges_inv

theorem workDone_inv {c : Nat} {f : Nat → Bool} {share : Rat} {s : State}  (hs : Inv s) : Inv (workDone c f share s) := by
  unfold workDone
  repeat' first
    | with_reducible assumption
    | with_reducible exact trivial
    | with_reducible intro _
    | with_reducible refine inv_ite ?_ ?_
    | split
    | with_reducible refine inv_foldl ?_ ?_
    | with_reducible refine snd_foldl ?_ ?_
    | with_reducible apply cmdMod_inv
    | with_reducible apply takeCharges_inv

theorem endStage_inv {c : Nat} {n : Nat} {s : State}  (hs : Inv s) : Inv (endStage c n s) := by
  unfold endStage
  repeat' first
    | with_reducible assumption
    | with_reducible exact trivial
    | with_reducible intro _
    | split
    | with_reducible apply noteStage_inv
    | with_reducible apply workDone_inv

theorem countMiss_inv {n : Nat} {s : State}  (hs : Inv s) : Inv (countMiss n s) := by
  unfold countMiss
  repeat' first
    | with_reducible assumption
    | with_reducible exact trivial
    | with_reducible intro _
    | split
    | with_reducible apply bumpSat_inv

theorem reportMiss_inv {x : Cmd} {s : State}  (hs : Inv s) : Inv (reportMiss x s) := by
  unfold reportMiss
  repeat' first
    | with_reducible assumption
    | with_reducible exact trivial
    | with_reducible intro _
    | with_reducible refine inv_ite ?_ ?_
    | split
    | with_reducible apply bumpSat_inv
    | with_reducible apply blkFault_inv
    | with_reducible apply raiseAs_inv
    | with_reducible apply countMiss_inv

theorem releaseVersions_inv {c : Nat} {s : State}  (hs : Inv s) : Inv (releaseVersions c s) := by
  unfold releaseVersions
  repeat' first
    | with_reducible assumption
    | with_reducible exact trivial
    | with_reducible intro _
    | with_reducible refine inv_ite ?_ ?_
    | split
    | (dsimp only)
    | (fail_if_no_progress (with_reducible refine inv_mk ?_ rfl rfl))

theorem afterRecord_inv {x : Cmd} {s : State}  (hs : Inv s) : Inv (afterRecord x s) := by
  unfold afterRecord
  repeat' first
    | with_reducible assumption
    | with_reducible exact trivial
    | with_reducible intro _
    | with_reducible refine inv_ite ?_ ?_
    | split
    | with_reducible refine inv_foldl ?_ ?_
    | with_reducible apply raise_inv
    | with_reducible apply collMod_inv
    | with_reducible apply drainAll_inv
    | with_reducible apply releaseHolds_inv
    | with_reducible apply raiseHorizons_inv
    | with_reducible apply postEffect_inv
    | with_reducible apply releaseCharges_inv
    | with_reducible apply reportMiss_inv
    | with_reducible apply releaseVersions_inv
    | (dsimp only)
    | (fail_if_no_progress (with_reducible refine inv_mk ?_ rfl rfl))

theorem markLate_inv {x : Cmd} {s : State}  (hs : Inv s) : ResInv Inv (markLate x s) := by
  unfold markLate
  repeat' first
    | with_reducible assumption
    | with_reducible exact trivial
    | with_reducible intro _
    | with_reducible refine res_ite ?_ ?_
    | with_reducible refine inv_ite ?_ ?_
    | with_reducible apply ok_inv
    | with_reducible apply fail_inv
    | with_reducible apply wait_inv
    | split
    | with_reducible refine inv_foldl ?_ ?_
    | with_reducible refine res_andThen ?_ ?_
    | with_reducible refine res_foldl ?_ ?_
    | with_reducible apply readDev_inv
    | with_reducible apply writeDev_inv

theorem takeTurn_inv {x : Cmd} {s : State}  (hs : Inv s) : Inv (takeTurn x s) := by
  unfold takeTurn
  repeat' first
    | with_reducible assumption
    | with_reducible exact trivial
    | with_reducible intro _
    | with_reducible refine inv_ite ?_ ?_
    | split
    | with_reducible refine inv_foldl ?_ ?_
    | with_reducible apply cmdMod_inv

theorem postRecord_inv {x : Cmd} {s : State}  (hs : Inv s) : Inv (postRecord x s) := by
  unfold postRecord
  repeat' first
    | with_reducible assumption
    | with_reducible exact trivial
    | with_reducible intro _
    | with_reducible refine inv_ite ?_ ?_
    | with_reducible apply ok_inv
    | with_reducible apply fail_inv
    | with_reducible apply wait_inv
    | with_reducible apply recDone_inv
    | with_reducible apply recFault_inv
    | with_reducible apply recWait_inv
    | split
    | with_reducible apply sendMsg_inv
    | with_reducible apply cmdMod_inv
    | with_reducible apply writeRecord_inv
    | with_reducible apply ringFault_inv
    | with_reducible apply drainAll_inv
    | with_reducible apply afterRecord_inv
    | with_reducible apply markLate_inv
    | with_reducible apply takeTurn_inv
    | refine res_ok (by with_reducible assumption) ?_
    | refine res_fail (by with_reducible assumption) ?_
    | refine res_wait (by with_reducible assumption) ?_
    | refine rec_done (by with_reducible assumption) ?_
    | refine rec_fault (by with_reducible assumption) ?_
    | refine rec_wait (by with_reducible assumption) ?_
    | (dsimp only)

end Sys2Proof.Machine
end

