-- ==== Sys2Proof/Laws/KeepsSlide.lean ====
section
/-! SUPPORT. The functions of Machine/Slide.lean keep the invariant. -/

namespace Sys2Proof.Machine

theorem setEngine_inv {e : Nat} {g : Engine} {s : State}  (hs : Inv s) : Inv (setEngine e g s) := by
  unfold setEngine
  repeat' first
    | with_reducible assumption
    | with_reducible exact trivial
    | with_reducible intro _
    | split
    | (dsimp only)
    | (fail_if_no_progress (with_reducible refine inv_mk ?_ rfl rfl))

theorem chargeEngine_inv {e : Nat} {port : Nat} {cls : Nat} {n : Nat} {ch : Nat} {s : State}  (hs : Inv s) : Inv (chargeEngine e port cls n ch s) := by
  unfold chargeEngine
  repeat' first
    | with_reducible assumption
    | with_reducible exact trivial
    | with_reducible intro _
    | with_reducible refine inv_ite ?_ ?_
    | split
    | with_reducible apply bumpWrap_inv
    | with_reducible apply setEngine_inv

theorem chargeDirect_inv {x : Cmd} {va : Nat} {n : Nat} {s : State}  (hs : Inv s) : Inv (chargeDirect x va n s) := by
  unfold chargeDirect
  repeat' first
    | with_reducible assumption
    | with_reducible exact trivial
    | with_reducible intro _
    | with_reducible refine inv_ite ?_ ?_
    | split
    | with_reducible apply chargeEngine_inv

theorem chargeOut_inv {x : Cmd} {va : Nat} {n : Nat} {s : State}  (hs : Inv s) : Inv (chargeOut x va n s) := by
  unfold chargeOut
  repeat' first
    | with_reducible assumption
    | with_reducible exact trivial
    | with_reducible intro _
    | with_reducible refine inv_ite ?_ ?_
    | split
    | with_reducible apply chargeEngine_inv

theorem readBuf_inv {x : Cmd} {va : Nat} {n : Nat} {s : State}  (hs : Inv s) : ResInv Inv (readBuf x va n s) := by
  unfold readBuf
  repeat' first
    | with_reducible assumption
    | with_reducible exact trivial
    | with_reducible intro _
    | with_reducible apply ok_inv
    | with_reducible apply fail_inv
    | with_reducible apply wait_inv
    | split
    | with_reducible refine res_andThen ?_ ?_
    | with_reducible apply readClean_inv
    | with_reducible apply chargeDirect_inv

theorem writeBuf_inv {x : Cmd} {va : Nat} {bs : List Byte} {s : State}  (hs : Inv s) : ResInv Inv (writeBuf x va bs s) := by
  unfold writeBuf
  repeat' first
    | with_reducible assumption
    | with_reducible exact trivial
    | with_reducible intro _
    | with_reducible apply ok_inv
    | with_reducible apply fail_inv
    | with_reducible apply wait_inv
    | split
    | with_reducible refine res_andThen ?_ ?_
    | with_reducible apply writeDev_inv
    | with_reducible apply chargeOut_inv

theorem listArrive_inv {x : Cmd} {w : ListWalk} {s : State}  (hs : Inv s) : ResInv Inv (listArrive x w s) := by
  unfold listArrive
  repeat' first
    | with_reducible assumption
    | with_reducible exact trivial
    | with_reducible intro _
    | with_reducible apply ok_inv
    | with_reducible apply fail_inv
    | with_reducible apply wait_inv
    | split
    | with_reducible refine res_andThen ?_ ?_
    | with_reducible apply readDev_inv
    | with_reducible apply chargeDirect_inv

theorem prefetchPiece_inv {x : Cmd} {write : Bool} {old : ListWalk} {new : ListWalk} {s : State}  (hs : Inv s) : Inv (prefetchPiece x write old new s) := by
  unfold prefetchPiece
  repeat' first
    | with_reducible assumption
    | with_reducible exact trivial
    | with_reducible intro _
    | with_reducible refine inv_ite ?_ ?_
    | split
    | with_reducible refine inv_foldl ?_ ?_
    | with_reducible apply prefetchRange_inv

theorem listPieceRow_inv {c : Nat} {s : State}  (hs : Inv s) : Inv (listPieceRow c s) := by
  unfold listPieceRow
  repeat' first
    | with_reducible assumption
    | with_reducible exact trivial
    | with_reducible intro _
    | with_reducible refine inv_ite ?_ ?_
    | with_reducible refine row_ite ?_ ?_
    | with_reducible refine res_ite ?_ ?_
    | with_reducible apply ok_inv
    | with_reducible apply fail_inv
    | with_reducible apply wait_inv
    | with_reducible apply rowOk_inv
    | with_reducible apply rowFail_inv
    | with_reducible apply rowWait_inv
    | with_reducible refine row_andThen ?_ ?_
    | split
    | with_reducible refine res_andThen ?_ ?_
    | with_reducible apply cmdMod_inv
    | with_reducible apply settle_inv
    | with_reducible apply listArrive_inv
    | with_reducible apply prefetchPiece_inv

theorem execBlockListPieceArrival_inv {c : Nat} {s : State}  (hs : Inv s) : OutInv Inv (execBlockListPieceArrival c s) := by
  unfold execBlockListPieceArrival
  repeat' first
    | with_reducible assumption
    | with_reducible exact trivial
    | with_reducible intro _
    | with_reducible apply out_next
    | split
    | with_reducible apply drainAll_inv
    | with_reducible apply listPieceRow_inv

theorem readSpans_inv {w : Who} {y0 : List BlkData} {y1 : State}  (hy1 : Inv y1) : ResInv Inv (readSpans w y0 y1) := by
  induction y0 generalizing w y1 with
  | nil =>
    unfold readSpans
    repeat' first
      | with_reducible assumption
      | with_reducible exact trivial
      | with_reducible intro _
      | with_reducible refine res_ite ?_ ?_
      | with_reducible refine inv_ite ?_ ?_
      | with_reducible apply ok_inv
  | cons a t ih =>
    unfold readSpans
    repeat' first
      | with_reducible assumption
      | with_reducible exact trivial
      | with_reducible intro _
      | with_reducible refine res_ite ?_ ?_
      | with_reducible refine inv_ite ?_ ?_
      | with_reducible apply ok_inv
      | with_reducible apply fail_inv
      | with_reducible apply wait_inv
      | split
      | with_reducible refine res_andThen ?_ ?_
      | with_reducible apply ih
      | with_reducible apply readDev_inv

theorem writeSpans_inv {w : Who} {y0 : List BlkData} {y1 : List Byte} {y2 : State}  (hy2 : Inv y2) : ResInv Inv (writeSpans w y0 y1 y2) := by
  induction y0 generalizing w y1 y2 with
  | nil =>
    unfold writeSpans
    repeat' first
      | with_reducible assumption
      | with_reducible exact trivial
      | with_reducible intro _
      | with_reducible refine res_ite ?_ ?_
      | with_reducible refine inv_ite ?_ ?_
      | with_reducible apply ok_inv
  | cons a t ih =>
    unfold writeSpans
    repeat' first
      | with_reducible assumption
      | with_reducible exact trivial
      | with_reducible intro _
      | with_reducible refine res_ite ?_ ?_
      | with_reducible refine inv_ite ?_ ?_
      | with_reducible apply ok_inv
      | with_reducible apply fail_inv
      | with_reducible apply wait_inv
      | split
      | with_reducible refine res_andThen ?_ ?_
      | with_reducible apply ih
      | with_reducible apply writeDev_inv

theorem checkSpans_inv {w : Who} {y0 : List BlkData} {y1 : State}  (hy1 : Inv y1) : ResInv Inv (checkSpans w y0 y1) := by
  induction y0 generalizing w y1 with
  | nil =>
    unfold checkSpans
    repeat' first
      | with_reducible assumption
      | with_reducible exact trivial
      | with_reducible intro _
      | with_reducible refine res_ite ?_ ?_
      | with_reducible refine inv_ite ?_ ?_
      | with_reducible apply ok_inv
  | cons a t ih =>
    unfold checkSpans
    repeat' first
      | with_reducible assumption
      | with_reducible exact trivial
      | with_reducible intro _
      | with_reducible refine res_ite ?_ ?_
      | with_reducible refine inv_ite ?_ ?_
      | with_reducible apply ok_inv
      | with_reducible apply fail_inv
      | with_reducible apply wait_inv
      | split
      | with_reducible refine res_andThen ?_ ?_
      | with_reducible apply ih
      | with_reducible apply checkWrite_inv

theorem reserveRing_inv {c : Option Nat} {step : Option Nat} {lo : Nat} {span : Nat} {cls : Nat} {accepted : Nat} {n : RingNeed} {s : State}  (hs : Inv s) : OptInv Inv (reserveRing c step lo span cls accepted n s) := by
  unfold reserveRing
  repeat' first
    | with_reducible assumption
    | with_reducible exact trivial
    | with_reducible intro _
    | with_reducible refine opt_ite ?_ ?_
    | with_reducible refine inv_ite ?_ ?_
    | with_reducible apply optSome_inv
    | with_reducible exact optNone_inv
    | split
    | (dsimp only)
    | (fail_if_no_progress (with_reducible refine inv_mk ?_ rfl rfl))

theorem reserveOne_inv {c : Nat} {bounded : Bool} {accepted : Nat} {n : RingNeed} {s : State}  (hs : Inv s) : OptInv Inv (reserveOne c bounded accepted n s) := by
  unfold reserveOne
  repeat' first
    | with_reducible assumption
    | with_reducible exact trivial
    | with_reducible intro _
    | with_reducible refine opt_ite ?_ ?_
    | with_reducible refine inv_ite ?_ ?_
    | with_reducible apply optSome_inv
    | with_reducible exact optNone_inv
    | split
    | with_reducible apply reserveRing_inv

theorem reserveAll_inv {c : Nat} {bounded : Bool} {accepted : Nat} {y0 : List RingNeed} {y1 : State}  (hy1 : Inv y1) : OptInv Inv (reserveAll c bounded accepted y0 y1) := by
  induction y0 generalizing c bounded accepted y1 with
  | nil =>
    unfold reserveAll
    repeat' first
      | with_reducible assumption
      | with_reducible exact trivial
      | with_reducible intro _
      | with_reducible apply optSome_inv
  | cons a t ih =>
    unfold reserveAll
    repeat' first
      | with_reducible assumption
      | with_reducible exact trivial
      | with_reducible intro _
      | with_reducible apply optSome_inv
      | with_reducible exact optNone_inv
      | split
      | with_reducible apply ih
      | with_reducible apply reserveOne_inv
      | refine opt_some (by with_reducible assumption) ?_

theorem droneRing_inv {h : Nat} {s : State}  (hs : Inv s) : Inv (droneRing h s) := by
  unfold droneRing
  repeat' first
    | with_reducible assumption
    | with_reducible exact trivial
    | with_reducible intro _
    | split
    | with_reducible apply reserveRing_inv
    | refine opt_some (by with_reducible assumption) ?_

theorem bagRing_inv {ch : Nat} {s : State}  (hs : Inv s) : Inv (bagRing ch s) := by
  unfold bagRing
  repeat' first
    | with_reducible assumption
    | with_reducible exact trivial
    | with_reducible intro _
    | split
    | with_reducible apply reserveRing_inv
    | refine opt_some (by with_reducible assumption) ?_

theorem freeStep_inv {h : Nat} {s : State}  (hs : Inv s) : Inv (freeStep h s) := by
  unfold freeStep
  repeat' first
    | with_reducible assumption
    | with_reducible exact trivial
    | with_reducible intro _
    | split
    | (dsimp only)
    | (fail_if_no_progress (with_reducible refine inv_mk ?_ rfl rfl))

theorem endRun_inv {h : Nat} {s : State}  (hs : Inv s) : Inv (endRun h s) := by
  unfold endRun
  repeat' first
    | with_reducible assumption
    | with_reducible exact trivial
    | with_reducible intro _
    | split
    | with_reducible apply collMod_inv
    | with_reducible apply freeStep_inv

theorem freeBagRing_inv {ch : Nat} {s : State}  (hs : Inv s) : Inv (freeBagRing ch s) := by
  unfold freeBagRing
  repeat' first
    | with_reducible assumption
    | with_reducible exact trivial
    | with_reducible intro _
    | split
    | (dsimp only)
    | (fail_if_no_progress (with_reducible refine inv_mk ?_ rfl rfl))

theorem notePeak_inv {e : Nat} {s : State}  (hs : Inv s) : Inv (notePeak e s) := by
  unfold notePeak
  repeat' first
    | with_reducible assumption
    | with_reducible exact trivial
    | with_reducible intro _
    | with_reducible refine inv_ite ?_ ?_
    | split
    | with_reducible apply regField_inv

theorem sringMod_inv {e : Nat} {no : Nat} {f : SRing → SRing} {s : State}  (hs : Inv s) : Inv (sringMod e no f s) := by
  unfold sringMod
  repeat' first
    | with_reducible assumption
    | with_reducible exact trivial
    | with_reducible intro _
    | with_reducible refine inv_ite ?_ ?_
    | split
    | (dsimp only)
    | (fail_if_no_progress (with_reducible refine inv_mk ?_ rfl rfl))

theorem prefetchNext_inv {s0 : State} {r : SRing} {addr : Nat} {b : Nat} {s : State}  (hs0 : Inv s0) (hs : Inv s) : Inv (prefetchNext s0 r addr b s) := by
  unfold prefetchNext
  repeat' first
    | with_reducible assumption
    | with_reducible exact trivial
    | with_reducible intro _
    | with_reducible refine inv_ite ?_ ?_
    | split
    | with_reducible apply prefetch_inv
    | (dsimp only)

theorem slideIssue_inv {e : Nat} {port : Nat} {addr : Nat} {n : Nat} {s : State}  (hs : Inv s) : Inv (slideIssue e port addr n s) := by
  unfold slideIssue
  repeat' first
    | with_reducible assumption
    | with_reducible exact trivial
    | with_reducible intro _
    | with_reducible refine inv_ite ?_ ?_
    | split
    | with_reducible apply regField_inv
    | with_reducible apply chargeEngine_inv
    | with_reducible apply sringMod_inv
    | with_reducible apply prefetchNext_inv
    | (dsimp only)

theorem execSlideIssue_inv {engine : Nat} {port : Nat} {addr : Nat} {bytes : Nat} {s : State}  (hs : Inv s) : OutInv Inv (execSlideIssue engine port addr bytes s) := by
  unfold execSlideIssue
  repeat' first
    | with_reducible assumption
    | with_reducible exact trivial
    | with_reducible intro _
    | with_reducible apply out_next
    | split
    | with_reducible apply slideIssue_inv

theorem transferLanded_inv {e : Nat} {no : Nat} {slot : Nat} {n : Nat} {poison : Bool} {s : State}  (hs : Inv s) : Inv (transferLanded e no slot n poison s) := by
  unfold transferLanded
  repeat' first
    | with_reducible assumption
    | with_reducible exact trivial
    | with_reducible intro _
    | with_reducible refine inv_ite ?_ ?_
    | split
    | with_reducible apply sringMod_inv

theorem execTransferLanded_inv {engine : Nat} {ring : Nat} {slot : Nat} {bytes : Nat} {poison : Bool} {s : State}  (hs : Inv s) : OutInv Inv (execTransferLanded engine ring slot bytes poison s) := by
  unfold execTransferLanded
  repeat' first
    | with_reducible assumption
    | with_reducible exact trivial
    | with_reducible intro _
    | with_reducible apply out_next
    | split
    | with_reducible apply transferLanded_inv

theorem consumeRings_inv {c : Nat} {s : State}  (hs : Inv s) : Inv (consumeRings c s) := by
  unfold consumeRings
  repeat' first
    | with_reducible assumption
    | with_reducible exact trivial
    | with_reducible intro _
    | with_reducible refine inv_ite ?_ ?_
    | split
    | with_reducible refine inv_foldl ?_ ?_
    | with_reducible apply bumpSat_inv
    | (dsimp only)
    | (fail_if_no_progress (with_reducible refine inv_mk ?_ rfl rfl))

theorem produce_inv {c : Nat} {port : Nat} {n : Nat} {s : State}  (hs : Inv s) : Inv (produce c port n s) := by
  unfold produce
  repeat' first
    | with_reducible assumption
    | with_reducible exact trivial
    | with_reducible intro _
    | with_reducible refine inv_ite ?_ ?_
    | split
    | with_reducible refine inv_foldl ?_ ?_
    | with_reducible apply bumpSat_inv
    | (dsimp only)
    | (fail_if_no_progress (with_reducible refine inv_mk ?_ rfl rfl))

theorem ringsMod_inv {f : SRing → Bool} {g : SRing → SRing} {s : State}  (hs : Inv s) : Inv (ringsMod f g s) := by
  unfold ringsMod
  repeat' first
    | with_reducible assumption
    | with_reducible exact trivial
    | with_reducible intro _
    | with_reducible refine inv_ite ?_ ?_
    | split
    | (dsimp only)
    | (fail_if_no_progress (with_reducible refine inv_mk ?_ rfl rfl))

theorem freeStage_inv {c : Nat} {s : State}  (hs : Inv s) : Inv (freeStage c s) := by
  unfold freeStage
  repeat' first
    | with_reducible assumption
    | with_reducible exact trivial
    | with_reducible intro _
    | split
    | (dsimp only)
    | (fail_if_no_progress (with_reducible refine inv_mk ?_ rfl rfl))

theorem slideBucketFill_inv {e : Nat} {mnt : Bool} {ns : Nat} {s : State}  (hs : Inv s) : Inv (slideBucketFill e mnt ns s) := by
  unfold slideBucketFill
  repeat' first
    | with_reducible assumption
    | with_reducible exact trivial
    | with_reducible intro _
    | with_reducible refine inv_ite ?_ ?_
    | split
    | with_reducible apply setEngine_inv

theorem execSlideBucketFill_inv {engine : Nat} {maintenance : Bool} {ns : Nat} {s : State}  (hs : Inv s) : OutInv Inv (execSlideBucketFill engine maintenance ns s) := by
  unfold execSlideBucketFill
  repeat' first
    | with_reducible assumption
    | with_reducible exact trivial
    | with_reducible intro _
    | with_reducible apply out_next
    | split
    | with_reducible apply slideBucketFill_inv

theorem setMntRates_inv {pm : Nat} {s : State}  (hs : Inv s) : Inv (setMntRates pm s) := by
  unfold setMntRates
  repeat' first
    | with_reducible assumption
    | with_reducible exact trivial
    | with_reducible intro _
    | split
    | with_reducible refine inv_foldl ?_ ?_
    | with_reducible apply regField_inv

theorem borePoison_inv {x : Cmd} {cl : Nat} {addr : Word64} {s : State}  (hs : Inv s) : Inv (borePoison x cl addr s) := by
  unfold borePoison
  repeat' first
    | with_reducible assumption
    | with_reducible exact trivial
    | with_reducible intro _
    | split
    | with_reducible apply cmdMod_inv
    | with_reducible apply failCmd_inv

theorem bellPoison_inv {x : Cmd} {addr : Nat} {s : State}  (hs : Inv s) : Inv (bellPoison x addr s) := by
  unfold bellPoison
  repeat' first
    | with_reducible assumption
    | with_reducible exact trivial
    | with_reducible intro _
    | split
    | with_reducible apply cmdMod_inv
    | with_reducible apply failCmd_inv

theorem unlessPoison_inv {x : Cmd} {s : State} {f : State}  (hs : Inv s) (hf : Inv f) : Inv (unlessPoison x s f) := by
  unfold unlessPoison
  repeat' first
    | with_reducible assumption
    | with_reducible exact trivial
    | with_reducible intro _
    | split
    | with_reducible apply bellPoison_inv

theorem streamDeadlock_inv {ps : List (Nat × Nat)} {s : State}  (hs : Inv s) : Inv (streamDeadlock ps s) := by
  unfold streamDeadlock
  repeat' first
    | with_reducible assumption
    | with_reducible exact trivial
    | with_reducible intro _
    | with_reducible refine inv_ite ?_ ?_
    | split
    | with_reducible apply bumpSat_inv
    | with_reducible apply blkFault_inv
    | with_reducible apply raise_inv
    | with_reducible apply finish_inv
    | (dsimp only)
    | (fail_if_no_progress (with_reducible refine inv_mk ?_ rfl rfl))

theorem execStreamDeadlock_inv {rings : List (Nat × Nat)} {s : State}  (hs : Inv s) : OutInv Inv (execStreamDeadlock rings s) := by
  unfold execStreamDeadlock
  repeat' first
    | with_reducible assumption
    | with_reducible exact trivial
    | with_reducible intro _
    | with_reducible apply out_next
    | split
    | with_reducible apply drainAll_inv
    | with_reducible apply streamDeadlock_inv

theorem resourceTimeout_inv {c : Nat} {s : State}  (hs : Inv s) : Inv (resourceTimeout c s) := by
  unfold resourceTimeout
  repeat' first
    | with_reducible assumption
    | with_reducible exact trivial
    | with_reducible intro _
    | with_reducible refine inv_ite ?_ ?_
    | split
    | with_reducible apply bumpSat_inv
    | with_reducible apply failCmd_inv

theorem execResourceWaitTimeout_inv {c : Nat} {s : State}  (hs : Inv s) : OutInv Inv (execResourceWaitTimeout c s) := by
  unfold execResourceWaitTimeout
  repeat' first
    | with_reducible assumption
    | with_reducible exact trivial
    | with_reducible intro _
    | with_reducible apply out_next
    | split
    | with_reducible apply resourceTimeout_inv

end Sys2Proof.Machine
end

