-- ==== Sys2Proof/Laws/KeepsJournal.lean ====
section
/-! SUPPORT. The functions of Machine/Journal.lean keep the invariant. -/

namespace Sys2Proof.Machine

theorem shipRecord_inv {r : JRec} {s : State}  (hs : Inv s) : Inv (shipRecord r s) := by
  unfold shipRecord
  repeat' first
    | with_reducible assumption
    | with_reducible exact trivial
    | with_reducible intro _
    | with_reducible refine inv_ite ?_ ?_
    | split
    | with_reducible apply sendMsg_inv
    | (dsimp only)
    | (fail_if_no_progress (with_reducible refine inv_mk ?_ rfl rfl))

theorem shipRest_inv {s : State}  (hs : Inv s) : Inv (shipRest s) := by
  unfold shipRest
  repeat' first
    | with_reducible assumption
    | with_reducible exact trivial
    | with_reducible intro _
    | split
    | with_reducible refine inv_foldl ?_ ?_
    | with_reducible apply shipRecord_inv

theorem journalPut_inv {r : JRec} {s : State}  (hs : Inv s) : Inv (journalPut r s).2 := by
  unfold journalPut
  repeat' first
    | with_reducible assumption
    | with_reducible exact trivial
    | with_reducible intro _
    | split
    | with_reducible apply collMod_inv
    | with_reducible apply shipRecord_inv
    | (dsimp only)
    | (fail_if_no_progress (with_reducible refine inv_mk ?_ rfl rfl))

theorem journalOwn_inv {type : Nat} {coll : Nat} {body : JBody} {bytes : Nat} {dom : Nat} {s : State}  (hs : Inv s) : Inv (journalOwn type coll body bytes dom s).2 := by
  unfold journalOwn
  repeat' first
    | with_reducible assumption
    | with_reducible exact trivial
    | with_reducible intro _
    | split
    | with_reducible apply journalPut_inv

theorem journalDeferred_inv {d : Nat} {s : State}  (hs : Inv s) : Inv (journalDeferred d s) := by
  unfold journalDeferred
  repeat' first
    | with_reducible assumption
    | with_reducible exact trivial
    | with_reducible intro _
    | split
    | with_reducible apply journalOwn_inv

theorem deferAll_inv {d : Nat} {es : List Deferred} {s : State}  (hs : Inv s) : Inv (deferAll d es s) := by
  unfold deferAll
  repeat' first
    | with_reducible assumption
    | with_reducible exact trivial
    | with_reducible intro _
    | split
    | with_reducible apply raise_inv
    | with_reducible apply domMod_inv
    | with_reducible apply journalDeferred_inv

theorem countLost_inv {n : Nat} {s : State}  (hs : Inv s) : Inv (countLost n s) := by
  unfold countLost
  repeat' first
    | with_reducible assumption
    | with_reducible exact trivial
    | with_reducible intro _
    | split
    | with_reducible apply bumpSat_inv

theorem closeStripe_inv {n : Nat} {s : State}  (hs : Inv s) : Inv (closeStripe n s) := by
  unfold closeStripe
  repeat' first
    | with_reducible assumption
    | with_reducible exact trivial
    | with_reducible intro _
    | split
    | (dsimp only)
    | (fail_if_no_progress (with_reducible refine inv_mk ?_ rfl rfl))

theorem finishJournaled_inv {c : Nat} {n : Nat} {needFlash : Bool} {f : Cmd → Cmd} {s : State}  (hs : Inv s) : Inv (finishJournaled c n needFlash f s) := by
  unfold finishJournaled
  repeat' first
    | with_reducible assumption
    | with_reducible exact trivial
    | with_reducible intro _
    | with_reducible refine inv_ite ?_ ?_
    | split
    | with_reducible apply cmdMod_inv
    | with_reducible apply raiseHorizons_inv
    | with_reducible apply freeUnits_inv
    | with_reducible apply finish_inv
    | with_reducible apply closeStripe_inv

theorem wakeFlash_inv {s : State}  (hs : Inv s) : Inv (wakeFlash s) := by
  unfold wakeFlash
  repeat' first
    | with_reducible assumption
    | with_reducible exact trivial
    | with_reducible intro _
    | with_reducible refine inv_ite ?_ ?_
    | split
    | (dsimp only)
    | (fail_if_no_progress (with_reducible refine inv_mk ?_ rfl rfl))

theorem journalCmd_inv {x : Cmd} {type : Nat} {coll : Nat} {body : JBody} {payload : Nat} {s : State}  (hs : Inv s) : ResInv Inv (journalCmd x type coll body payload s) := by
  unfold journalCmd
  repeat' first
    | with_reducible assumption
    | with_reducible exact trivial
    | with_reducible intro _
    | with_reducible refine res_ite ?_ ?_
    | with_reducible refine inv_ite ?_ ?_
    | with_reducible apply ok_inv
    | with_reducible apply fail_inv
    | with_reducible apply wait_inv
    | split
    | with_reducible apply journalPut_inv

theorem account_inv {d : Nat} {scanned : Nat} {expansions : Nat} {macs : Nat} {femto : Nat} {s : State}  (hs : Inv s) : Inv (account d scanned expansions macs femto s) := by
  unfold account
  repeat' first
    | with_reducible assumption
    | with_reducible exact trivial
    | with_reducible intro _
    | with_reducible refine inv_ite ?_ ?_
    | split
    | with_reducible apply domMod_inv

end Sys2Proof.Machine
end

