-- ==== Sys2Proof/Laws/KeepsBell.lean ====
section
/-! SUPPORT. The functions of Machine/Bell.lean keep the invariant. -/

namespace Sys2Proof.Machine

theorem noteBell_inv {c : Nat} {fs : BitVec 7} {n : Nat} {s : State}  (hs : Inv s) : Inv (noteBell c fs n s) := by
  unfold noteBell
  repeat' first
    | with_reducible assumption
    | with_reducible exact trivial
    | with_reducible intro _
    | split
    | with_reducible apply bumpSat_inv
    | with_reducible apply regField_inv

theorem noteBore_inv {c : Nat} {fs : BitVec 7} {n : Nat} {s : State}  (hs : Inv s) : Inv (noteBore c fs n s) := by
  unfold noteBore
  repeat' first
    | with_reducible assumption
    | with_reducible exact trivial
    | with_reducible intro _
    | with_reducible refine inv_ite ?_ ?_
    | split
    | with_reducible apply bumpSat_inv

theorem takeTile_inv {x : Nat} {c : Nat} {rows : Nat} {status : Word64} {s : State}  (hs : Inv s) : Inv (takeTile x c rows status s) := by
  unfold takeTile
  repeat' first
    | with_reducible assumption
    | with_reducible exact trivial
    | with_reducible intro _
    | split
    | with_reducible apply setBell_inv

theorem countDrainWait_inv {x : Nat} {cs : List Nat} {s : State}  (hs : Inv s) : Inv (countDrainWait x cs s) := by
  unfold countDrainWait
  repeat' first
    | with_reducible assumption
    | with_reducible exact trivial
    | with_reducible intro _
    | with_reducible refine inv_ite ?_ ?_
    | split
    | with_reducible refine inv_foldl ?_ ?_
    | with_reducible apply bumpSat_inv
    | with_reducible apply setBell_inv

theorem loadVregs_inv {c : Nat} {vs : List EncVec} {s : State}  (hs : Inv s) : Inv (loadVregs c vs s) := by
  unfold loadVregs
  repeat' first
    | with_reducible assumption
    | with_reducible exact trivial
    | with_reducible intro _
    | split
    | with_reducible apply setBell_inv

theorem countRegions_inv {x : Nat} {img : List Byte} {i : Nat} {cl : List Nat} {vs : List EncVec} {outs : List (List (Flagged Nat))} {s : State}  (hs : Inv s) : Inv (countRegions x img i cl vs outs s) := by
  unfold countRegions
  repeat' first
    | with_reducible assumption
    | with_reducible exact trivial
    | with_reducible intro _
    | split
    | with_reducible refine inv_foldl ?_ ?_
    | with_reducible refine snd_foldl ?_ ?_
    | with_reducible apply bumpWrap_inv
    | with_reducible apply noteBell_inv
    | with_reducible apply noteBore_inv
    | with_reducible apply takeTile_inv

theorem countBell_inv {c : Nat} {before : List EncVec} {after : List EncVec} {s : State}  (hs : Inv s) : Inv (countBell c before after s) := by
  unfold countBell
  repeat' first
    | with_reducible assumption
    | with_reducible exact trivial
    | with_reducible intro _
    | with_reducible refine inv_ite ?_ ?_
    | split
    | with_reducible refine inv_foldl ?_ ?_
    | with_reducible apply noteBell_inv

theorem encDrain_inv {x : Cmd} {e : Enc} {i : Nat} {vs : List EncVec} {s : State}  (hs : Inv s) : EncInv Inv (encDrain x e i vs s) := by
  unfold encDrain
  repeat' first
    | with_reducible assumption
    | with_reducible exact trivial
    | with_reducible intro _
    | with_reducible exact EncInv.paused
    | with_reducible exact EncInv.lost
    | with_reducible exact EncInv.poisoned
    | with_reducible exact EncInv.full
    | with_reducible apply EncInv.ok
    | split
    | with_reducible apply freeTiles_inv
    | with_reducible apply loadVregs_inv
    | with_reducible apply countRegions_inv
    | with_reducible apply countBell_inv
    | (dsimp only)

theorem encRegion_inv {x : Cmd} {dom : Nat} {e : Enc} {s : State}  (hs : Inv s) : EncInv Inv (encRegion x dom e s) := by
  unfold encRegion
  repeat' first
    | with_reducible assumption
    | with_reducible exact trivial
    | with_reducible intro _
    | with_reducible refine enc_ite ?_ ?_
    | with_reducible refine inv_ite ?_ ?_
    | with_reducible exact EncInv.paused
    | with_reducible exact EncInv.lost
    | with_reducible exact EncInv.poisoned
    | with_reducible exact EncInv.full
    | with_reducible apply EncInv.ok
    | split
    | with_reducible apply account_inv
    | with_reducible apply encDrain_inv
    | refine enc_ok (by with_reducible assumption) ?_
    | (dsimp only)

theorem encCombine_inv {x : Cmd} {e : Enc} {s : State}  (hs : Inv s) : EncInv Inv (encCombine x e s) := by
  unfold encCombine
  repeat' first
    | with_reducible assumption
    | with_reducible exact trivial
    | with_reducible intro _
    | with_reducible refine enc_ite ?_ ?_
    | with_reducible refine inv_ite ?_ ?_
    | with_reducible exact EncInv.paused
    | with_reducible exact EncInv.lost
    | with_reducible exact EncInv.poisoned
    | with_reducible exact EncInv.full
    | with_reducible apply EncInv.ok
    | split
    | with_reducible apply encDrain_inv

theorem takeBatch_inv {version : Nat} {n : Nat} {s : State}  (hs : Inv s) : Inv (takeBatch version n s) := by
  unfold takeBatch
  repeat' first
    | with_reducible assumption
    | with_reducible exact trivial
    | with_reducible intro _
    | split
    | (dsimp only)
    | (fail_if_no_progress (with_reducible refine inv_mk ?_ rfl rfl))

end Sys2Proof.Machine
end

