-- ==== Sys2Proof/Laws/KeepsEncode.lean ====
section
/-! SUPPORT. The functions of Machine/Encode.lean keep the invariant. -/

namespace Sys2Proof.Machine

theorem raiseTable_inv {b : Blk} {ev : Nat → Ev} {h : Nat} {s : State}  (hs : Inv s) : Inv (raiseTable b ev h s) := by
  unfold raiseTable
  repeat' first
    | with_reducible assumption
    | with_reducible exact trivial
    | with_reducible intro _
    | split
    | with_reducible refine inv_foldl ?_ ?_
    | with_reducible apply raise_inv

theorem failPlain_inv {status : Nat} {s : State}  (hs : Inv s) : RowInv Inv (failPlain status s) := by
  unfold failPlain
  repeat' first
    | with_reducible assumption
    | with_reducible exact trivial
    | with_reducible intro _
    | with_reducible apply rowOk_inv
    | with_reducible apply rowFail_inv

theorem failAt_inv {x : Cmd} {status : Nat} {off : Nat} {s : State}  (hs : Inv s) : RowInv Inv (failAt x status off s) := by
  unfold failAt
  repeat' first
    | with_reducible assumption
    | with_reducible exact trivial
    | with_reducible intro _
    | with_reducible apply rowOk_inv
    | with_reducible apply rowFail_inv

theorem progLoad_inv {x : Cmd} {s : State}  (hs : Inv s) : RowInv Inv (progLoad x s) := by
  unfold progLoad
  repeat' first
    | with_reducible assumption
    | with_reducible exact trivial
    | with_reducible intro _
    | with_reducible refine row_ite ?_ ?_
    | with_reducible refine res_ite ?_ ?_
    | with_reducible refine inv_ite ?_ ?_
    | with_reducible apply ok_inv
    | with_reducible apply fail_inv
    | with_reducible apply wait_inv
    | with_reducible apply rowOk_inv
    | with_reducible apply rowFail_inv
    | with_reducible apply rowWait_inv
    | with_reducible refine row_andThen ?_ ?_
    | split
    | with_reducible refine res_andThen ?_ ?_
    | with_reducible apply readBuf_inv
    | with_reducible apply finishJournaled_inv
    | with_reducible apply journalCmd_inv
    | with_reducible apply failPlain_inv
    | with_reducible apply failAt_inv
    | refine res_ok (by with_reducible assumption) ?_
    | refine res_fail (by with_reducible assumption) ?_
    | refine res_wait (by with_reducible assumption) ?_
    | refine row_ok (by with_reducible assumption) ?_
    | refine row_fail (by with_reducible assumption) ?_
    | refine row_wait (by with_reducible assumption) ?_
    | (dsimp only)
    | (fail_if_no_progress (with_reducible refine inv_mk ?_ rfl rfl))

theorem execProgLoadLoad_inv {c : Nat} {s : State}  (hs : Inv s) : OutInv Inv (execProgLoadLoad c s) := by
  unfold execProgLoadLoad
  repeat' first
    | with_reducible assumption
    | with_reducible exact trivial
    | with_reducible intro _
    | with_reducible refine out_ite ?_ ?_
    | with_reducible refine inv_ite ?_ ?_
    | with_reducible refine row_ite ?_ ?_
    | with_reducible refine res_ite ?_ ?_
    | with_reducible apply out_next
    | with_reducible apply rowOk_inv
    | with_reducible apply rowFail_inv
    | with_reducible apply rowWait_inv
    | split
    | with_reducible apply drainAll_inv
    | with_reducible apply settle_inv
    | with_reducible apply progLoad_inv

theorem progRetire_inv {x : Cmd} {s : State}  (hs : Inv s) : RowInv Inv (progRetire x s) := by
  unfold progRetire
  repeat' first
    | with_reducible assumption
    | with_reducible exact trivial
    | with_reducible intro _
    | with_reducible refine row_ite ?_ ?_
    | with_reducible refine res_ite ?_ ?_
    | with_reducible refine inv_ite ?_ ?_
    | with_reducible apply ok_inv
    | with_reducible apply fail_inv
    | with_reducible apply wait_inv
    | with_reducible apply rowOk_inv
    | with_reducible apply rowFail_inv
    | with_reducible apply rowWait_inv
    | with_reducible refine row_andThen ?_ ?_
    | split
    | with_reducible refine res_andThen ?_ ?_
    | with_reducible apply finishJournaled_inv
    | with_reducible apply journalCmd_inv
    | with_reducible apply failAt_inv
    | refine res_ok (by with_reducible assumption) ?_
    | refine res_fail (by with_reducible assumption) ?_
    | refine res_wait (by with_reducible assumption) ?_
    | refine row_ok (by with_reducible assumption) ?_
    | refine row_fail (by with_reducible assumption) ?_
    | refine row_wait (by with_reducible assumption) ?_
    | (dsimp only)
    | (fail_if_no_progress (with_reducible refine inv_mk ?_ rfl rfl))

theorem execProgLoadRetire_inv {c : Nat} {s : State}  (hs : Inv s) : OutInv Inv (execProgLoadRetire c s) := by
  unfold execProgLoadRetire
  repeat' first
    | with_reducible assumption
    | with_reducible exact trivial
    | with_reducible intro _
    | with_reducible refine out_ite ?_ ?_
    | with_reducible refine inv_ite ?_ ?_
    | with_reducible refine row_ite ?_ ?_
    | with_reducible refine res_ite ?_ ?_
    | with_reducible apply out_next
    | with_reducible apply rowOk_inv
    | with_reducible apply rowFail_inv
    | with_reducible apply rowWait_inv
    | split
    | with_reducible apply drainAll_inv
    | with_reducible apply settle_inv
    | with_reducible apply progRetire_inv

theorem tableLoad_inv {x : Cmd} {s : State}  (hs : Inv s) : RowInv Inv (tableLoad x s) := by
  unfold tableLoad
  repeat' first
    | with_reducible assumption
    | with_reducible exact trivial
    | with_reducible intro _
    | with_reducible refine row_ite ?_ ?_
    | with_reducible refine res_ite ?_ ?_
    | with_reducible refine inv_ite ?_ ?_
    | with_reducible apply ok_inv
    | with_reducible apply fail_inv
    | with_reducible apply wait_inv
    | with_reducible apply rowOk_inv
    | with_reducible apply rowFail_inv
    | with_reducible apply rowWait_inv
    | with_reducible refine row_andThen ?_ ?_
    | split
    | with_reducible refine res_andThen ?_ ?_
    | with_reducible apply readBuf_inv
    | with_reducible apply finishJournaled_inv
    | with_reducible apply journalCmd_inv
    | with_reducible apply failPlain_inv
    | with_reducible apply failAt_inv
    | refine res_ok (by with_reducible assumption) ?_
    | refine res_fail (by with_reducible assumption) ?_
    | refine res_wait (by with_reducible assumption) ?_
    | refine row_ok (by with_reducible assumption) ?_
    | refine row_fail (by with_reducible assumption) ?_
    | refine row_wait (by with_reducible assumption) ?_
    | (dsimp only)
    | (fail_if_no_progress (with_reducible refine inv_mk ?_ rfl rfl))

theorem execTableLoad_inv {c : Nat} {s : State}  (hs : Inv s) : OutInv Inv (execTableLoad c s) := by
  unfold execTableLoad
  repeat' first
    | with_reducible assumption
    | with_reducible exact trivial
    | with_reducible intro _
    | with_reducible refine out_ite ?_ ?_
    | with_reducible refine inv_ite ?_ ?_
    | with_reducible refine row_ite ?_ ?_
    | with_reducible refine res_ite ?_ ?_
    | with_reducible apply out_next
    | with_reducible apply rowOk_inv
    | with_reducible apply rowFail_inv
    | with_reducible apply rowWait_inv
    | split
    | with_reducible apply drainAll_inv
    | with_reducible apply settle_inv
    | with_reducible apply tableLoad_inv

theorem beginBarrier_inv {table : Bool} {on : Nat} {s : State}  (hs : Inv s) : Inv (beginBarrier table on s).2 := by
  unfold beginBarrier
  repeat' first
    | with_reducible assumption
    | with_reducible exact trivial
    | with_reducible intro _
    | split
    | (dsimp only)
    | (fail_if_no_progress (with_reducible refine inv_mk ?_ rfl rfl))

theorem swapTable_inv {h : Nat} {d : TblData} {s : State}  (hs : Inv s) : Inv (swapTable h d s) := by
  unfold swapTable
  repeat' first
    | with_reducible assumption
    | with_reducible exact trivial
    | with_reducible intro _
    | with_reducible refine inv_ite ?_ ?_
    | split
    | (dsimp only)
    | (fail_if_no_progress (with_reducible refine inv_mk ?_ rfl rfl))

theorem tableSwap_inv {x : Cmd} {s : State}  (hs : Inv s) : RowInv Inv (tableSwap x s) := by
  unfold tableSwap
  repeat' first
    | with_reducible assumption
    | with_reducible exact trivial
    | with_reducible intro _
    | with_reducible refine row_ite ?_ ?_
    | with_reducible refine res_ite ?_ ?_
    | with_reducible refine inv_ite ?_ ?_
    | with_reducible apply ok_inv
    | with_reducible apply fail_inv
    | with_reducible apply wait_inv
    | with_reducible apply rowOk_inv
    | with_reducible apply rowFail_inv
    | with_reducible apply rowWait_inv
    | with_reducible refine row_andThen ?_ ?_
    | split
    | with_reducible refine res_andThen ?_ ?_
    | with_reducible apply advanceEpoch_inv
    | with_reducible apply cmdMod_inv
    | with_reducible apply journalCmd_inv
    | with_reducible apply raiseTable_inv
    | with_reducible apply failPlain_inv
    | with_reducible apply failAt_inv
    | with_reducible apply beginBarrier_inv
    | with_reducible apply swapTable_inv
    | refine inv_snd (by with_reducible assumption) ?_
    | refine res_ok (by with_reducible assumption) ?_
    | refine res_fail (by with_reducible assumption) ?_
    | refine res_wait (by with_reducible assumption) ?_
    | refine row_ok (by with_reducible assumption) ?_
    | refine row_fail (by with_reducible assumption) ?_
    | refine row_wait (by with_reducible assumption) ?_
    | (dsimp only)

theorem execTableSwap_inv {c : Nat} {s : State}  (hs : Inv s) : OutInv Inv (execTableSwap c s) := by
  unfold execTableSwap
  repeat' first
    | with_reducible assumption
    | with_reducible exact trivial
    | with_reducible intro _
    | with_reducible refine out_ite ?_ ?_
    | with_reducible refine inv_ite ?_ ?_
    | with_reducible refine row_ite ?_ ?_
    | with_reducible refine res_ite ?_ ?_
    | with_reducible apply out_next
    | with_reducible apply rowOk_inv
    | with_reducible apply rowFail_inv
    | with_reducible apply rowWait_inv
    | split
    | with_reducible apply drainAll_inv
    | with_reducible apply settle_inv
    | with_reducible apply tableSwap_inv

theorem barrierAcked_inv {b : Nat} {s : State}  (hs : Inv s) : Inv (barrierAcked b s) := by
  unfold barrierAcked
  repeat' first
    | with_reducible assumption
    | with_reducible exact trivial
    | with_reducible intro _
    | with_reducible refine inv_ite ?_ ?_
    | split
    | (dsimp only)
    | (fail_if_no_progress (with_reducible refine inv_mk ?_ rfl rfl))

theorem execBarrierAcknowledged_inv {b : Nat} {s : State}  (hs : Inv s) : OutInv Inv (execBarrierAcknowledged b s) := by
  unfold execBarrierAcknowledged
  repeat' first
    | with_reducible assumption
    | with_reducible exact trivial
    | with_reducible intro _
    | with_reducible apply out_next
    | split
    | with_reducible apply drainAll_inv
    | with_reducible apply barrierAcked_inv

theorem readSource_inv {x : Cmd} {fmt : Nat} {dim : Nat} {va : Nat} {off : Nat} {s : State}  (hs : Inv s) : ResInv Inv (readSource x fmt dim va off s) := by
  unfold readSource
  repeat' first
    | with_reducible assumption
    | with_reducible exact trivial
    | with_reducible intro _
    | with_reducible refine res_ite ?_ ?_
    | with_reducible refine inv_ite ?_ ?_
    | with_reducible apply ok_inv
    | with_reducible apply fail_inv
    | with_reducible apply wait_inv
    | split
    | with_reducible refine res_andThen ?_ ?_
    | with_reducible apply readDev_inv

theorem readSources_inv {x : Cmd} {fmt : Nat} {dim : Nat} {stride : Nat} {y0 : Nat} {y1 : Nat} {y2 : Nat} {y3 : State}  (hy3 : Inv y3) : ResInv Inv (readSources x fmt dim stride y0 y1 y2 y3) := by
  induction y0 generalizing x fmt dim stride y1 y2 y3 with
  | zero =>
    unfold readSources
    repeat' first
      | with_reducible assumption
      | with_reducible exact trivial
      | with_reducible intro _
      | with_reducible refine res_ite ?_ ?_
      | with_reducible refine inv_ite ?_ ?_
      | with_reducible apply ok_inv
  | succ n ih =>
    unfold readSources
    repeat' first
      | with_reducible assumption
      | with_reducible exact trivial
      | with_reducible intro _
      | with_reducible refine res_ite ?_ ?_
      | with_reducible refine inv_ite ?_ ?_
      | with_reducible apply ok_inv
      | with_reducible apply fail_inv
      | with_reducible apply wait_inv
      | split
      | with_reducible refine res_andThen ?_ ?_
      | with_reducible apply ih
      | with_reducible apply readSource_inv

theorem encBatches_inv {x : Cmd} {version : Nat} {bufs : List Nat} {vs : List EncVec} {s : State}  (hs : Inv s) : Inv (encBatches x version bufs vs s).2 := by
  unfold encBatches
  repeat' first
    | with_reducible assumption
    | with_reducible exact trivial
    | with_reducible intro _
    | split
    | with_reducible apply countBell_inv
    | with_reducible apply takeBatch_inv

theorem writeEncoded_inv {x : Cmd} {img : List Byte} {y0 : Nat} {y1 : List EncVec} {y2 : State}  (hy2 : Inv y2) : ResInv Inv (writeEncoded x img y0 y1 y2) := by
  induction y1 generalizing x img y0 y2 with
  | nil =>
    unfold writeEncoded
    repeat' first
      | with_reducible assumption
      | with_reducible exact trivial
      | with_reducible intro _
      | with_reducible refine res_ite ?_ ?_
      | with_reducible refine inv_ite ?_ ?_
      | with_reducible apply ok_inv
  | cons a t ih =>
    unfold writeEncoded
    repeat' first
      | with_reducible assumption
      | with_reducible exact trivial
      | with_reducible intro _
      | with_reducible refine res_ite ?_ ?_
      | with_reducible refine inv_ite ?_ ?_
      | with_reducible apply ok_inv
      | with_reducible apply fail_inv
      | with_reducible apply wait_inv
      | split
      | with_reducible refine res_andThen ?_ ?_
      | with_reducible apply ih
      | with_reducible apply writeDev_inv
      | with_reducible apply produce_inv

theorem encodeEnd_inv {x : Cmd} {es : List Enc} {s : State}  (hs : Inv s) : RowInv Inv (encodeEnd x es s) := by
  unfold encodeEnd
  repeat' first
    | with_reducible assumption
    | with_reducible exact trivial
    | with_reducible intro _
    | with_reducible apply ok_inv
    | with_reducible apply fail_inv
    | with_reducible apply wait_inv
    | with_reducible apply rowOk_inv
    | with_reducible apply rowFail_inv
    | with_reducible apply rowWait_inv
    | with_reducible refine row_andThen ?_ ?_
    | split
    | with_reducible refine res_andThen ?_ ?_
    | with_reducible apply done_inv
    | with_reducible apply endStage_inv
    | with_reducible apply writeEncoded_inv

theorem mediaLost_inv {media : Nat} {s : State}  (hs : Inv s) : RowInv Inv (mediaLost media s) := by
  unfold mediaLost
  repeat' first
    | with_reducible assumption
    | with_reducible exact trivial
    | with_reducible intro _
    | with_reducible apply rowOk_inv
    | with_reducible apply rowFail_inv

theorem encodeStart_inv {x : Cmd} {c : Coll} {s : State}  (hs : Inv s) : RowInv Inv (encodeStart x c s) := by
  unfold encodeStart
  repeat' first
    | with_reducible assumption
    | with_reducible exact trivial
    | with_reducible intro _
    | with_reducible refine row_ite ?_ ?_
    | with_reducible refine res_ite ?_ ?_
    | with_reducible refine inv_ite ?_ ?_
    | with_reducible apply ok_inv
    | with_reducible apply fail_inv
    | with_reducible apply wait_inv
    | with_reducible apply rowOk_inv
    | with_reducible apply rowFail_inv
    | with_reducible apply rowWait_inv
    | with_reducible refine row_andThen ?_ ?_
    | split
    | with_reducible refine res_andThen ?_ ?_
    | with_reducible apply setWork_inv
    | with_reducible apply settle_inv
    | with_reducible apply endStage_inv
    | with_reducible apply consumeRings_inv
    | with_reducible apply bellPoison_inv
    | with_reducible apply readSources_inv
    | with_reducible apply encBatches_inv
    | with_reducible apply encodeEnd_inv
    | with_reducible apply mediaLost_inv
    | refine inv_snd (by with_reducible assumption) ?_
    | refine res_ok (by with_reducible assumption) ?_
    | refine res_fail (by with_reducible assumption) ?_
    | refine res_wait (by with_reducible assumption) ?_
    | refine row_ok (by with_reducible assumption) ?_
    | refine row_fail (by with_reducible assumption) ?_
    | refine row_wait (by with_reducible assumption) ?_
    | (dsimp only)

theorem execEncode_inv {c : Nat} {s : State}  (hs : Inv s) : OutInv Inv (execEncode c s) := by
  unfold execEncode
  repeat' first
    | with_reducible assumption
    | with_reducible exact trivial
    | with_reducible intro _
    | with_reducible refine out_ite ?_ ?_
    | with_reducible refine inv_ite ?_ ?_
    | with_reducible refine row_ite ?_ ?_
    | with_reducible refine res_ite ?_ ?_
    | with_reducible apply out_next
    | with_reducible apply rowOk_inv
    | with_reducible apply rowFail_inv
    | with_reducible apply rowWait_inv
    | split
    | with_reducible apply drainAll_inv
    | with_reducible apply settle_inv
    | with_reducible apply unlessPoison_inv
    | with_reducible apply encodeEnd_inv
    | with_reducible apply encodeStart_inv

end Sys2Proof.Machine
end

