-- ==== Sys2Proof/Laws/KeepsArrays.lean ====
section
/-! SUPPORT. The functions of Machine/Arrays.lean keep the invariant. -/

namespace Sys2Proof.Machine

theorem putAccs_inv {cl : Nat} {k : Nat} {cells : List (Nat × Nat × Acc)} {s : State}  (hs : Inv s) : Inv (putAccs cl k cells s) := by
  unfold putAccs
  repeat' first
    | with_reducible assumption
    | with_reducible exact trivial
    | with_reducible intro _
    | with_reducible refine inv_ite ?_ ?_
    | split
    | with_reducible refine inv_foldl ?_ ?_
    | with_reducible refine snd_foldl ?_ ?_
    | (dsimp only)
    | (fail_if_no_progress (with_reducible refine inv_mk ?_ rfl rfl))

theorem noteAccs_inv {img : List Byte} {i : Nat} {cl : List Nat} {combined : Bool} {vs : List EncVec} {s : State}  (hs : Inv s) : Inv (noteAccs img i cl combined vs s) := by
  unfold noteAccs
  repeat' first
    | with_reducible assumption
    | with_reducible exact trivial
    | with_reducible intro _
    | with_reducible refine inv_ite ?_ ?_
    | split
    | with_reducible refine inv_foldl ?_ ?_
    | with_reducible refine snd_foldl ?_ ?_
    | with_reducible apply putAccs_inv
    | (dsimp only)
    | (fail_if_no_progress (with_reducible refine inv_mk ?_ rfl rfl))

theorem countEvents_inv {img : List Byte} {i : Nat} {cl : List Nat} {vecs : Nat} {s : State}  (hs : Inv s) : Inv (countEvents img i cl vecs s) := by
  unfold countEvents
  repeat' first
    | with_reducible assumption
    | with_reducible exact trivial
    | with_reducible intro _
    | with_reducible refine inv_ite ?_ ?_
    | split
    | with_reducible refine inv_foldl ?_ ?_
    | with_reducible apply bumpWrap_inv

theorem countProbe_inv {cl : Nat} {l : Nat} {cents : List Nat} {qs : List Nat} {s : State}  (hs : Inv s) : Inv (countProbe cl l cents qs s) := by
  unfold countProbe
  repeat' first
    | with_reducible assumption
    | with_reducible exact trivial
    | with_reducible intro _
    | split
    | with_reducible apply bumpWrap_inv
    | with_reducible apply putAccs_inv

end Sys2Proof.Machine
end

