-- ==== Sys2Proof/Laws/KeepsStart.lean ====
section
/-! SUPPORT. The functions of Machine/Start.lean keep the invariant. -/

namespace Sys2Proof.Machine

theorem setCls_inv {c : Nat} {f : Cls → Cls} {s : State}  (hs : Inv s) : Inv (setCls c f s) := by
  unfold setCls
  repeat' first
    | with_reducible assumption
    | with_reducible exact trivial
    | with_reducible intro _
    | split
    | exact inv_cls hs (List.length_set.trans hs.classes)

theorem pickQueue_inv {s : State}  (hs : Inv s) : OptPairInv Inv (pickQueue s) := by
  unfold pickQueue
  repeat' first
    | with_reducible assumption
    | with_reducible exact trivial
    | with_reducible intro _
    | with_reducible apply optpSome_inv
    | with_reducible exact optpNone_inv
    | split
    | with_reducible refine inv_foldl ?_ ?_
    | with_reducible apply setCls_inv
    | (dsimp only)
    | (fail_if_no_progress (with_reducible refine inv_mk ?_ rfl rfl))

theorem countRefusal_inv {reason : Nat} {s : State}  (hs : Inv s) : Inv (countRefusal reason s) := by
  unfold countRefusal
  repeat' first
    | with_reducible assumption
    | with_reducible exact trivial
    | with_reducible intro _
    | split
    | with_reducible apply bumpSat_inv

theorem refuse_inv {c : Nat} {reason : Nat} {s : State}  (hs : Inv s) : Inv (refuse c reason s) := by
  unfold refuse
  repeat' first
    | with_reducible assumption
    | with_reducible exact trivial
    | with_reducible intro _
    | split
    | with_reducible apply finish_inv
    | with_reducible apply countRefusal_inv

theorem chargeLedgers_inv {cs : List (Nat × Rat)} {s : State}  (hs : Inv s) : Inv (chargeLedgers cs s) := by
  unfold chargeLedgers
  repeat' first
    | with_reducible assumption
    | with_reducible exact trivial
    | with_reducible intro _
    | split
    | with_reducible refine inv_foldl ?_ ?_
    | with_reducible refine snd_foldl ?_ ?_
    | (dsimp only)
    | (fail_if_no_progress (with_reducible refine inv_mk ?_ rfl rfl))

theorem begin__inv {x : Cmd} {home : Nat} {bounded : Bool} {charges : List (Nat × Rat)} {pres : Rat} {planned : Nat} {s : State}  (hs : Inv s) : Inv (begin_ x home bounded charges pres planned s) := by
  unfold begin_
  repeat' first
    | with_reducible assumption
    | with_reducible exact trivial
    | with_reducible intro _
    | with_reducible refine inv_ite ?_ ?_
    | split
    | with_reducible apply cmdMod_inv
    | with_reducible apply noteStage_inv
    | with_reducible apply chargeLedgers_inv

theorem waitResources_inv {x : Cmd} {home : Nat} {bounded : Bool} {s : State}  (hs : Inv s) : Inv (waitResources x home bounded s) := by
  unfold waitResources
  repeat' first
    | with_reducible assumption
    | with_reducible exact trivial
    | with_reducible intro _
    | split
    | with_reducible apply cmdMod_inv

theorem takeUnits_inv {x : Cmd} {s : State}  (hs : Inv s) : Inv (takeUnits x s) := by
  unfold takeUnits
  repeat' first
    | with_reducible assumption
    | with_reducible exact trivial
    | with_reducible intro _
    | split
    | with_reducible apply cmdMod_inv
    | (dsimp only)
    | (fail_if_no_progress (with_reducible refine inv_mk ?_ rfl rfl))

theorem countSpillWait_inv {x : Cmd} {s : State}  (hs : Inv s) : Inv (countSpillWait x s) := by
  unfold countSpillWait
  repeat' first
    | with_reducible assumption
    | with_reducible exact trivial
    | with_reducible intro _
    | with_reducible refine inv_ite ?_ ?_
    | split
    | with_reducible refine inv_foldl ?_ ?_
    | with_reducible apply bumpSat_inv

theorem startGo_inv {x : Cmd} {home : Nat} {bounded : Bool} {s : State}  (hs : Inv s) : Inv (startGo x home bounded s) := by
  unfold startGo
  repeat' first
    | with_reducible assumption
    | with_reducible exact trivial
    | with_reducible intro _
    | with_reducible refine inv_ite ?_ ?_
    | split
    | with_reducible refine inv_foldl ?_ ?_
    | with_reducible apply bumpSat_inv
    | with_reducible apply bumpWrap_inv
    | with_reducible apply failCmd_inv
    | with_reducible apply reserveAll_inv
    | with_reducible apply notePeak_inv
    | with_reducible apply refuse_inv
    | with_reducible apply begin__inv
    | with_reducible apply waitResources_inv
    | with_reducible apply takeUnits_inv
    | with_reducible apply countSpillWait_inv
    | refine opt_some (by with_reducible assumption) ?_
    | (dsimp only)

theorem startCmd_inv {x : Cmd} {home : Nat} {s : State}  (hs : Inv s) : Inv (startCmd x home s) := by
  unfold startCmd
  repeat' first
    | with_reducible assumption
    | with_reducible exact trivial
    | with_reducible intro _
    | with_reducible refine inv_ite ?_ ?_
    | split
    | with_reducible apply cmdPut_inv
    | with_reducible apply finish_inv
    | with_reducible apply failCmd_inv
    | with_reducible apply failField_inv
    | with_reducible apply refuse_inv
    | with_reducible apply startGo_inv
    | (dsimp only)

theorem startDecision_inv {home : Nat} {s : State}  (hs : Inv s) : Inv (startDecision home s) := by
  unfold startDecision
  repeat' first
    | with_reducible assumption
    | with_reducible exact trivial
    | with_reducible intro _
    | with_reducible refine inv_ite ?_ ?_
    | split
    | with_reducible apply bumpWrap_inv
    | with_reducible apply domMod_inv
    | with_reducible apply pickQueue_inv
    | with_reducible apply startCmd_inv
    | refine optp_some (by with_reducible assumption) ?_

theorem execStartDecision_inv {home : Nat} {s : State}  (hs : Inv s) : OutInv Inv (execStartDecision home s) := by
  unfold execStartDecision
  repeat' first
    | with_reducible assumption
    | with_reducible exact trivial
    | with_reducible intro _
    | with_reducible apply out_next
    | split
    | with_reducible apply drainAll_inv
    | with_reducible apply startDecision_inv

theorem tokenFill_inv {d : Nat} {s : State}  (hs : Inv s) : Inv (tokenFill d s) := by
  unfold tokenFill
  repeat' first
    | with_reducible assumption
    | with_reducible exact trivial
    | with_reducible intro _
    | with_reducible refine inv_ite ?_ ?_
    | split
    | with_reducible apply domMod_inv

theorem execUrgTokenBucketFill_inv {dom : Nat} {s : State}  (hs : Inv s) : OutInv Inv (execUrgTokenBucketFill dom s) := by
  unfold execUrgTokenBucketFill
  repeat' first
    | with_reducible assumption
    | with_reducible exact trivial
    | with_reducible intro _
    | with_reducible apply out_next
    | split
    | with_reducible apply tokenFill_inv

theorem refusalScan_inv {s : State}  (hs : Inv s) : Inv (refusalScan s) := by
  unfold refusalScan
  repeat' first
    | with_reducible assumption
    | with_reducible exact trivial
    | with_reducible intro _
    | split
    | with_reducible refine inv_foldl ?_ ?_
    | with_reducible apply refuse_inv

theorem execRefusalScan_inv {s : State}  (hs : Inv s) : OutInv Inv (execRefusalScan s) := by
  unfold execRefusalScan
  repeat' first
    | with_reducible assumption
    | with_reducible exact trivial
    | with_reducible intro _
    | with_reducible apply out_next
    | split
    | with_reducible apply refusalScan_inv

end Sys2Proof.Machine
end

