-- ==== Sys2Proof/Laws/KeepsMutate.lean ====
section
/-! SUPPORT. The functions of Machine/Mutate.lean keep the invariant. -/

namespace Sys2Proof.Machine

theorem failPoison_inv {x : Cmd} {p : Poison} {s : State}  (hs : Inv s) : Inv (failPoison x p s) := by
  unfold failPoison
  repeat' first
    | with_reducible assumption
    | with_reducible exact trivial
    | with_reducible intro _
    | split
    | with_reducible apply cmdMod_inv
    | with_reducible apply failCmd_inv

theorem beginList_inv {x : Cmd} {addr : Nat} {want : Nat} {s : State}  (hs : Inv s) : Inv (beginList x addr want s) := by
  unfold beginList
  repeat' first
    | with_reducible assumption
    | with_reducible exact trivial
    | with_reducible intro _
    | with_reducible refine inv_ite ?_ ?_
    | split
    | with_reducible apply cmdMod_inv

theorem readVec_inv {x : Cmd} {c : Coll} {ds : List BlkData} {off : Nat} {s : State}  (hs : Inv s) : ResInv Inv (readVec x c ds off s) := by
  unfold readVec
  repeat' first
    | with_reducible assumption
    | with_reducible exact trivial
    | with_reducible intro _
    | with_reducible apply ok_inv
    | with_reducible apply fail_inv
    | with_reducible apply wait_inv
    | split
    | with_reducible refine res_andThen ?_ ?_
    | with_reducible apply readSpans_inv

theorem readBatch_inv {x : Cmd} {c : Coll} {ds : List BlkData} {y0 : List (Nat × MutEntry)} {y1 : State}  (hy1 : Inv y1) : ResInv Inv (readBatch x c ds y0 y1) := by
  induction y0 generalizing x c ds y1 with
  | nil =>
    unfold readBatch
    repeat' first
      | with_reducible assumption
      | with_reducible exact trivial
      | with_reducible intro _
      | with_reducible refine res_ite ?_ ?_
      | with_reducible refine inv_ite ?_ ?_
      | with_reducible apply ok_inv
  | cons a t ih =>
    unfold readBatch
    repeat' first
      | with_reducible assumption
      | with_reducible exact trivial
      | with_reducible intro _
      | with_reducible refine res_ite ?_ ?_
      | with_reducible refine inv_ite ?_ ?_
      | with_reducible apply ok_inv
      | with_reducible apply fail_inv
      | with_reducible apply wait_inv
      | split
      | with_reducible refine res_andThen ?_ ?_
      | with_reducible apply ih
      | with_reducible apply readVec_inv
      | refine res_ok (by with_reducible assumption) ?_
      | refine res_fail (by with_reducible assumption) ?_
      | refine res_wait (by with_reducible assumption) ?_

theorem encodeEnds_inv {x : Cmd} {m : Mut} {s : State}  (hs : Inv s) : Inv (encodeEnds x m s).2 := by
  unfold encodeEnds
  repeat' first
    | with_reducible assumption
    | with_reducible exact trivial
    | with_reducible intro _
    | with_reducible refine snd_ite ?_ ?_
    | with_reducible refine inv_ite ?_ ?_
    | split
    | with_reducible apply cmdMod_inv
    | with_reducible apply endStage_inv
    | with_reducible apply freeStage_inv

theorem beginEncode_inv {x : Cmd} {c : Coll} {es : List MutEntry} {s : State}  (hs : Inv s) : RowInv Inv (beginEncode x c es s) := by
  unfold beginEncode
  repeat' first
    | with_reducible assumption
    | with_reducible exact trivial
    | with_reducible intro _
    | with_reducible refine row_ite ?_ ?_
    | with_reducible refine res_ite ?_ ?_
    | with_reducible refine inv_ite ?_ ?_
    | with_reducible apply rowOk_inv
    | with_reducible apply rowFail_inv
    | with_reducible apply rowWait_inv
    | split
    | with_reducible apply setWork_inv
    | with_reducible apply endStage_inv
    | with_reducible apply consumeRings_inv
    | with_reducible apply encBatches_inv
    | with_reducible apply mediaLost_inv
    | with_reducible apply encodeEnds_inv
    | refine inv_snd (by with_reducible assumption) ?_
    | refine row_ok (by with_reducible assumption) ?_
    | refine row_fail (by with_reducible assumption) ?_
    | refine row_wait (by with_reducible assumption) ?_
    | (dsimp only)

theorem insertStart_inv {x : Cmd} {c : Coll} {s : State}  (hs : Inv s) : RowInv Inv (insertStart x c s) := by
  unfold insertStart
  repeat' first
    | with_reducible assumption
    | with_reducible exact trivial
    | with_reducible intro _
    | with_reducible apply ok_inv
    | with_reducible apply fail_inv
    | with_reducible apply wait_inv
    | with_reducible apply rowOk_inv
    | with_reducible apply rowFail_inv
    | with_reducible apply rowWait_inv
    | with_reducible refine row_andThen ?_ ?_
    | split
    | with_reducible refine res_andThen ?_ ?_
    | with_reducible apply beginList_inv
    | with_reducible apply readVec_inv
    | with_reducible apply beginEncode_inv
    | refine res_ok (by with_reducible assumption) ?_
    | refine res_fail (by with_reducible assumption) ?_
    | refine res_wait (by with_reducible assumption) ?_
    | refine row_ok (by with_reducible assumption) ?_
    | refine row_fail (by with_reducible assumption) ?_
    | refine row_wait (by with_reducible assumption) ?_
    | (dsimp only)

theorem mutRow_inv {c : Nat} {op : Nat} {f : Cmd → Coll → State → Res State} {s : State} (hf : ∀ a0 a1 a2, Inv a2 → RowInv Inv (f a0 a1 a2)) (hs : Inv s) : Inv (mutRow c op f s) := by
  unfold mutRow
  repeat' first
    | with_reducible assumption
    | with_reducible exact trivial
    | with_reducible intro _
    | with_reducible refine inv_ite ?_ ?_
    | with_reducible refine row_ite ?_ ?_
    | with_reducible refine res_ite ?_ ?_
    | with_reducible apply rowOk_inv
    | with_reducible apply rowFail_inv
    | with_reducible apply rowWait_inv
    | split
    | with_reducible apply settle_inv
    | with_reducible apply unlessPoison_inv
    | with_reducible apply hf

theorem execInsert_inv {c : Nat} {s : State}  (hs : Inv s) : OutInv Inv (execInsert c s) := by
  unfold execInsert
  repeat' first
    | with_reducible assumption
    | with_reducible exact trivial
    | with_reducible intro _
    | with_reducible apply out_next
    | with_reducible apply rowOk_inv
    | with_reducible apply rowFail_inv
    | with_reducible apply rowWait_inv
    | split
    | with_reducible apply drainAll_inv
    | with_reducible apply insertStart_inv
    | with_reducible apply mutRow_inv

theorem execUpsert_inv {c : Nat} {s : State}  (hs : Inv s) : OutInv Inv (execUpsert c s) := by
  unfold execUpsert
  repeat' first
    | with_reducible assumption
    | with_reducible exact trivial
    | with_reducible intro _
    | with_reducible apply out_next
    | with_reducible apply rowOk_inv
    | with_reducible apply rowFail_inv
    | with_reducible apply rowWait_inv
    | split
    | with_reducible apply drainAll_inv
    | with_reducible apply insertStart_inv
    | with_reducible apply mutRow_inv

theorem deleteStart_inv {x : Cmd} {u0 : Coll} {s : State}  (hs : Inv s) : RowInv Inv (deleteStart x u0 s) := by
  unfold deleteStart
  repeat' first
    | with_reducible assumption
    | with_reducible exact trivial
    | with_reducible intro _
    | with_reducible apply rowOk_inv
    | with_reducible apply rowFail_inv
    | with_reducible apply rowWait_inv
    | split
    | with_reducible apply setWork_inv

theorem execDelete_inv {c : Nat} {s : State}  (hs : Inv s) : OutInv Inv (execDelete c s) := by
  unfold execDelete
  repeat' first
    | with_reducible assumption
    | with_reducible exact trivial
    | with_reducible intro _
    | with_reducible apply out_next
    | with_reducible apply rowOk_inv
    | with_reducible apply rowFail_inv
    | with_reducible apply rowWait_inv
    | split
    | with_reducible apply drainAll_inv
    | with_reducible apply mutRow_inv
    | with_reducible apply deleteStart_inv

theorem setAttrStart_inv {x : Cmd} {u0 : Coll} {s : State}  (hs : Inv s) : RowInv Inv (setAttrStart x u0 s) := by
  unfold setAttrStart
  repeat' first
    | with_reducible assumption
    | with_reducible exact trivial
    | with_reducible intro _
    | with_reducible apply rowOk_inv
    | with_reducible apply rowFail_inv
    | with_reducible apply rowWait_inv
    | split
    | with_reducible apply setWork_inv

theorem execSetAttr_inv {c : Nat} {s : State}  (hs : Inv s) : OutInv Inv (execSetAttr c s) := by
  unfold execSetAttr
  repeat' first
    | with_reducible assumption
    | with_reducible exact trivial
    | with_reducible intro _
    | with_reducible apply out_next
    | with_reducible apply rowOk_inv
    | with_reducible apply rowFail_inv
    | with_reducible apply rowWait_inv
    | split
    | with_reducible apply drainAll_inv
    | with_reducible apply mutRow_inv
    | with_reducible apply setAttrStart_inv

theorem checkStatus_inv {x : Cmd} {count : Nat} {s : State}  (hs : Inv s) : ResInv Inv (checkStatus x count s) := by
  unfold checkStatus
  repeat' first
    | with_reducible assumption
    | with_reducible exact trivial
    | with_reducible intro _
    | with_reducible refine res_ite ?_ ?_
    | with_reducible refine inv_ite ?_ ?_
    | with_reducible apply ok_inv
    | with_reducible apply fail_inv
    | with_reducible apply wait_inv
    | split
    | with_reducible apply checkWrite_inv

theorem batchStart_inv {x : Cmd} {c : Coll} {s : State}  (hs : Inv s) : RowInv Inv (batchStart x c s) := by
  unfold batchStart
  repeat' first
    | with_reducible assumption
    | with_reducible exact trivial
    | with_reducible intro _
    | with_reducible apply ok_inv
    | with_reducible apply fail_inv
    | with_reducible apply wait_inv
    | with_reducible apply rowOk_inv
    | with_reducible apply rowFail_inv
    | with_reducible apply rowWait_inv
    | with_reducible refine row_andThen ?_ ?_
    | split
    | with_reducible refine res_andThen ?_ ?_
    | with_reducible apply readBuf_inv
    | with_reducible apply beginList_inv
    | with_reducible apply readBatch_inv
    | with_reducible apply beginEncode_inv
    | with_reducible apply checkStatus_inv
    | refine res_ok (by with_reducible assumption) ?_
    | refine res_fail (by with_reducible assumption) ?_
    | refine res_wait (by with_reducible assumption) ?_
    | refine row_ok (by with_reducible assumption) ?_
    | refine row_fail (by with_reducible assumption) ?_
    | refine row_wait (by with_reducible assumption) ?_
    | (dsimp only)

theorem execInsertBatch_inv {c : Nat} {s : State}  (hs : Inv s) : OutInv Inv (execInsertBatch c s) := by
  unfold execInsertBatch
  repeat' first
    | with_reducible assumption
    | with_reducible exact trivial
    | with_reducible intro _
    | with_reducible apply out_next
    | with_reducible apply rowOk_inv
    | with_reducible apply rowFail_inv
    | with_reducible apply rowWait_inv
    | split
    | with_reducible apply drainAll_inv
    | with_reducible apply mutRow_inv
    | with_reducible apply batchStart_inv

theorem importStart_inv {x : Cmd} {c : Coll} {s : State}  (hs : Inv s) : RowInv Inv (importStart x c s) := by
  unfold importStart
  repeat' first
    | with_reducible assumption
    | with_reducible exact trivial
    | with_reducible intro _
    | with_reducible refine row_ite ?_ ?_
    | with_reducible refine res_ite ?_ ?_
    | with_reducible refine inv_ite ?_ ?_
    | with_reducible apply ok_inv
    | with_reducible apply fail_inv
    | with_reducible apply wait_inv
    | with_reducible apply rowOk_inv
    | with_reducible apply rowFail_inv
    | with_reducible apply rowWait_inv
    | with_reducible refine row_andThen ?_ ?_
    | split
    | with_reducible refine res_andThen ?_ ?_
    | with_reducible apply readSpans_inv
    | with_reducible apply failAt_inv
    | with_reducible apply beginList_inv
    | with_reducible apply readBatch_inv
    | with_reducible apply beginEncode_inv
    | with_reducible apply checkStatus_inv
    | refine res_ok (by with_reducible assumption) ?_
    | refine res_fail (by with_reducible assumption) ?_
    | refine res_wait (by with_reducible assumption) ?_
    | refine row_ok (by with_reducible assumption) ?_
    | refine row_fail (by with_reducible assumption) ?_
    | refine row_wait (by with_reducible assumption) ?_
    | (dsimp only)

theorem execImportCmd_inv {c : Nat} {s : State}  (hs : Inv s) : OutInv Inv (execImportCmd c s) := by
  unfold execImportCmd
  repeat' first
    | with_reducible assumption
    | with_reducible exact trivial
    | with_reducible intro _
    | with_reducible apply out_next
    | with_reducible apply rowOk_inv
    | with_reducible apply rowFail_inv
    | with_reducible apply rowWait_inv
    | split
    | with_reducible apply drainAll_inv
    | with_reducible apply mutRow_inv
    | with_reducible apply importStart_inv

theorem sideHighCheck_inv {h : Nat} {s : State}  (hs : Inv s) : Inv (sideHighCheck h s) := by
  unfold sideHighCheck
  repeat' first
    | with_reducible assumption
    | with_reducible exact trivial
    | with_reducible intro _
    | with_reducible refine inv_ite ?_ ?_
    | split
    | with_reducible apply raise_inv
    | with_reducible apply collMod_inv

theorem journalEntry_inv {x : Cmd} {m : Mut} {e : MutEntry} {c : Coll} {s : State}  (hs : Inv s) : JInv Inv (journalEntry x m e c s) := by
  unfold journalEntry
  repeat' first
    | with_reducible assumption
    | with_reducible exact trivial
    | with_reducible intro _
    | with_reducible refine jw_ite ?_ ?_
    | with_reducible refine inv_ite ?_ ?_
    | with_reducible exact jWait_inv
    | with_reducible exact jFail_inv
    | with_reducible apply jDone_inv
    | split
    | with_reducible apply collMod_inv
    | with_reducible apply journalPut_inv
    | with_reducible apply sideHighCheck_inv

theorem batchEnd_inv {x : Cmd} {m : Mut} {s : State}  (hs : Inv s) : RowInv Inv (batchEnd x m s) := by
  unfold batchEnd
  repeat' first
    | with_reducible assumption
    | with_reducible exact trivial
    | with_reducible intro _
    | with_reducible refine res_ite ?_ ?_
    | with_reducible refine inv_ite ?_ ?_
    | with_reducible apply ok_inv
    | with_reducible apply fail_inv
    | with_reducible apply wait_inv
    | with_reducible apply rowOk_inv
    | with_reducible apply rowFail_inv
    | with_reducible apply rowWait_inv
    | with_reducible refine row_andThen ?_ ?_
    | split
    | with_reducible refine res_andThen ?_ ?_
    | with_reducible apply cmdMod_inv
    | with_reducible apply writeDev_inv
    | with_reducible apply failCmd_inv
    | with_reducible apply finishJournaled_inv

theorem batchRow_inv {x : Cmd} {m : Mut} {s : State}  (hs : Inv s) : Inv (batchRow x m s) := by
  unfold batchRow
  repeat' first
    | with_reducible assumption
    | with_reducible exact trivial
    | with_reducible intro _
    | with_reducible apply rowOk_inv
    | with_reducible apply rowFail_inv
    | with_reducible apply rowWait_inv
    | split
    | with_reducible apply cmdMod_inv
    | with_reducible apply failCmd_inv
    | with_reducible apply batchEnd_inv
    | refine row_ok (by with_reducible assumption) ?_
    | refine row_fail (by with_reducible assumption) ?_
    | refine row_wait (by with_reducible assumption) ?_

theorem mutEnd_inv {x : Cmd} {m : Mut} {s : State}  (hs : Inv s) : Inv (mutEnd x m s) := by
  unfold mutEnd
  repeat' first
    | with_reducible assumption
    | with_reducible exact trivial
    | with_reducible intro _
    | with_reducible refine inv_ite ?_ ?_
    | split
    | with_reducible apply finishJournaled_inv
    | with_reducible apply batchRow_inv

theorem mutGoOn_inv {x : Cmd} {m : Mut} {s : State}  (hs : Inv s) : Inv (mutGoOn x m s) := by
  unfold mutGoOn
  repeat' first
    | with_reducible assumption
    | with_reducible exact trivial
    | with_reducible intro _
    | with_reducible refine inv_ite ?_ ?_
    | split
    | with_reducible apply setWork_inv
    | with_reducible apply mutEnd_inv

theorem journalRest_inv {x : Cmd} {y0 : Nat} {y1 : Mut} {y2 : State}  (hy2 : Inv y2) : Inv (journalRest x y0 y1 y2).2 := by
  induction y0 generalizing x y1 y2 with
  | zero =>
    unfold journalRest
    repeat' first
      | with_reducible assumption
  | succ n ih =>
    unfold journalRest
    repeat' first
      | with_reducible assumption
      | with_reducible exact trivial
      | with_reducible intro _
      | with_reducible apply rowOk_inv
      | with_reducible apply rowFail_inv
      | with_reducible apply rowWait_inv
      | split
      | with_reducible apply ih
      | with_reducible apply cmdMod_inv
      | with_reducible apply done_inv
      | with_reducible apply journalEntry_inv
      | refine inv_snd (by with_reducible assumption) ?_
      | refine row_ok (by with_reducible assumption) ?_
      | refine row_fail (by with_reducible assumption) ?_
      | refine row_wait (by with_reducible assumption) ?_
      | refine j_done (by with_reducible assumption) ?_

theorem journalBatch_inv {x : Cmd} {m : Mut} {c : Coll} {s : State}  (hs : Inv s) : Inv (journalBatch x m c s) := by
  unfold journalBatch
  repeat' first
    | with_reducible assumption
    | with_reducible exact trivial
    | with_reducible intro _
    | with_reducible refine inv_ite ?_ ?_
    | split
    | with_reducible apply setWork_inv
    | with_reducible apply raiseHorizons_inv
    | with_reducible apply workDone_inv
    | with_reducible apply mutGoOn_inv
    | with_reducible apply journalRest_inv
    | refine inv_snd (by with_reducible assumption) ?_

theorem journalWrite_inv {c : Nat} {s : State}  (hs : Inv s) : Inv (journalWrite c s) := by
  unfold journalWrite
  repeat' first
    | with_reducible assumption
    | with_reducible exact trivial
    | with_reducible intro _
    | with_reducible refine inv_ite ?_ ?_
    | with_reducible apply rowOk_inv
    | with_reducible apply rowFail_inv
    | with_reducible apply rowWait_inv
    | split
    | with_reducible apply cmdMod_inv
    | with_reducible apply setWork_inv
    | with_reducible apply raiseHorizons_inv
    | with_reducible apply failCmd_inv
    | with_reducible apply done_inv
    | with_reducible apply endStage_inv
    | with_reducible apply journalEntry_inv
    | with_reducible apply mutGoOn_inv
    | with_reducible apply journalBatch_inv
    | refine row_ok (by with_reducible assumption) ?_
    | refine row_fail (by with_reducible assumption) ?_
    | refine row_wait (by with_reducible assumption) ?_
    | refine j_done (by with_reducible assumption) ?_

theorem execJournalWrite_inv {c : Nat} {s : State}  (hs : Inv s) : OutInv Inv (execJournalWrite c s) := by
  unfold execJournalWrite
  repeat' first
    | with_reducible assumption
    | with_reducible exact trivial
    | with_reducible intro _
    | with_reducible apply out_next
    | split
    | with_reducible apply drainAll_inv
    | with_reducible apply journalWrite_inv

theorem lookupRow_inv {x : Cmd} {c : Coll} {s : State}  (hs : Inv s) : RowInv Inv (lookupRow x c s) := by
  unfold lookupRow
  repeat' first
    | with_reducible assumption
    | with_reducible exact trivial
    | with_reducible intro _
    | with_reducible refine row_ite ?_ ?_
    | with_reducible refine res_ite ?_ ?_
    | with_reducible refine inv_ite ?_ ?_
    | with_reducible apply ok_inv
    | with_reducible apply fail_inv
    | with_reducible apply wait_inv
    | with_reducible apply rowOk_inv
    | with_reducible apply rowFail_inv
    | with_reducible apply rowWait_inv
    | with_reducible refine row_andThen ?_ ?_
    | split
    | with_reducible refine res_andThen ?_ ?_
    | with_reducible apply writeDev_inv
    | with_reducible apply done_inv
    | with_reducible apply mediaLost_inv
    | with_reducible apply failPoison_inv
    | refine res_ok (by with_reducible assumption) ?_
    | refine res_fail (by with_reducible assumption) ?_
    | refine res_wait (by with_reducible assumption) ?_
    | refine row_ok (by with_reducible assumption) ?_
    | refine row_fail (by with_reducible assumption) ?_
    | refine row_wait (by with_reducible assumption) ?_
    | (dsimp only)

theorem execLookup_inv {c : Nat} {s : State}  (hs : Inv s) : OutInv Inv (execLookup c s) := by
  unfold execLookup
  repeat' first
    | with_reducible assumption
    | with_reducible exact trivial
    | with_reducible intro _
    | with_reducible refine out_ite ?_ ?_
    | with_reducible refine inv_ite ?_ ?_
    | with_reducible refine row_ite ?_ ?_
    | with_reducible refine res_ite ?_ ?_
    | with_reducible apply out_next
    | with_reducible apply rowOk_inv
    | with_reducible apply rowFail_inv
    | with_reducible apply rowWait_inv
    | split
    | with_reducible apply drainAll_inv
    | with_reducible apply settle_inv
    | with_reducible apply lookupRow_inv

end Sys2Proof.Machine
end

