-- ==== Sys2Proof/Laws/KeepsSelect.lean ====
section
/-! SUPPORT. The functions of Machine/Select.lean keep the invariant. -/

namespace Sys2Proof.Machine

theorem countMerge_inv {cl : Nat} {s : State}  (hs : Inv s) : Inv (countMerge cl s) := by
  unfold countMerge
  repeat' first
    | with_reducible assumption
    | with_reducible exact trivial
    | with_reducible intro _
    | split
    | with_reducible apply bumpWrap_inv

theorem dupKeys_inv {x : Cmd} {cl : Nat} {ds : List Cand} {s : State}  (hs : Inv s) : Inv (dupKeys x cl ds s) := by
  unfold dupKeys
  repeat' first
    | with_reducible assumption
    | with_reducible exact trivial
    | with_reducible intro _
    | split
    | with_reducible refine inv_foldl ?_ ?_
    | with_reducible apply bumpSat_inv
    | with_reducible apply blkFault_inv
    | with_reducible apply raise_inv

theorem valvePoison_inv {x : Cmd} {cl : Nat} {addr : Nat} {spill : Bool} {s : State}  (hs : Inv s) : Inv (valvePoison x cl addr spill s) := by
  unfold valvePoison
  repeat' first
    | with_reducible assumption
    | with_reducible exact trivial
    | with_reducible intro _
    | split
    | with_reducible apply cmdMod_inv
    | with_reducible apply failCmd_inv

end Sys2Proof.Machine
end

