-- ==== Sys2Proof/Laws/KeepsSearch.lean ====
section
/-! SUPPORT. The functions of Machine/Search.lean keep the invariant. -/

namespace Sys2Proof.Machine

theorem readInput_inv {x : Cmd} {va : Nat} {sub : Nat} {n : Nat} {s : State}  (hs : Inv s) : ResInv Inv (readInput x va sub n s) := by
  unfold readInput
  repeat' first
    | with_reducible assumption
    | with_reducible exact trivial
    | with_reducible intro _
    | with_reducible refine res_ite ?_ ?_
    | with_reducible refine inv_ite ?_ ?_
    | with_reducible apply ok_inv
    | with_reducible apply fail_inv
    | with_reducible apply wait_inv
    | split
    | with_reducible apply readBuf_inv

theorem inputBad_inv {α : Type} {x : Cmd} {va : Nat} {s : State}  (hs : Inv s) : ResInv Inv (inputBad (α := α) x va s) := by
  unfold inputBad
  repeat' first
    | with_reducible assumption
    | with_reducible exact trivial
    | with_reducible intro _
    | with_reducible apply ok_inv
    | with_reducible apply fail_inv

theorem readFilter_inv {x : Cmd} {va : Nat} {s : State}  (hs : Inv s) : ResInv Inv (readFilter x va s) := by
  unfold readFilter
  repeat' first
    | with_reducible assumption
    | with_reducible exact trivial
    | with_reducible intro _
    | with_reducible refine res_ite ?_ ?_
    | with_reducible refine inv_ite ?_ ?_
    | with_reducible apply ok_inv
    | with_reducible apply fail_inv
    | with_reducible apply wait_inv
    | split
    | with_reducible refine res_andThen ?_ ?_
    | with_reducible apply readInput_inv
    | with_reducible apply inputBad_inv
    | refine res_ok (by with_reducible assumption) ?_
    | refine res_fail (by with_reducible assumption) ?_
    | refine res_wait (by with_reducible assumption) ?_
    | (dsimp only)

theorem readCodes_inv {x : Cmd} {p : SParams} {c : Coll} {j : Nat} {s : State}  (hs : Inv s) : ResInv Inv (readCodes x p c j s) := by
  unfold readCodes
  repeat' first
    | with_reducible assumption
    | with_reducible exact trivial
    | with_reducible intro _
    | with_reducible refine res_ite ?_ ?_
    | with_reducible refine inv_ite ?_ ?_
    | with_reducible apply ok_inv
    | with_reducible apply fail_inv
    | with_reducible apply wait_inv
    | split
    | with_reducible refine res_andThen ?_ ?_
    | with_reducible apply readInput_inv

theorem readBlock_inv {x : Cmd} {c : Coll} {va : Nat} {sub : Nat} {s : State}  (hs : Inv s) : ResInv Inv (readBlock x c va sub s) := by
  unfold readBlock
  repeat' first
    | with_reducible assumption
    | with_reducible exact trivial
    | with_reducible intro _
    | with_reducible apply ok_inv
    | with_reducible apply fail_inv
    | with_reducible apply wait_inv
    | split
    | with_reducible refine res_andThen ?_ ?_
    | with_reducible apply readInput_inv
    | with_reducible apply inputBad_inv

theorem readRq_inv {x : Cmd} {p : SParams} {c : Coll} {j : Nat} {q : Query} {s : State}  (hs : Inv s) : ResInv Inv (readRq x p c j q s) := by
  unfold readRq
  repeat' first
    | with_reducible assumption
    | with_reducible exact trivial
    | with_reducible intro _
    | with_reducible refine res_ite ?_ ?_
    | with_reducible refine inv_ite ?_ ?_
    | with_reducible apply ok_inv
    | with_reducible apply fail_inv
    | with_reducible apply wait_inv
    | split
    | with_reducible refine res_andThen ?_ ?_
    | with_reducible apply readBlock_inv

theorem readEach_inv {α : Type} {f : Nat → State → Res α} {y0 : Nat} {y1 : Nat} {y2 : State} (hf : ∀ a0 a1, Inv a1 → ResInv Inv (f a0 a1)) (hy2 : Inv y2) : ResInv Inv (readEach (α := α) f y0 y1 y2) := by
  induction y0 generalizing f y1 y2 with
  | zero =>
    unfold readEach
    repeat' first
      | with_reducible assumption
      | with_reducible exact trivial
      | with_reducible intro _
      | with_reducible apply ok_inv
  | succ n ih =>
    unfold readEach
    repeat' first
      | with_reducible assumption
      | with_reducible exact trivial
      | with_reducible intro _
      | with_reducible apply ok_inv
      | with_reducible apply fail_inv
      | with_reducible apply wait_inv
      | split
      | with_reducible refine res_andThen ?_ ?_
      | with_reducible apply ih
      | with_reducible apply hf

theorem countScans_inv {h : Nat} {keys : List Nat} {s : State}  (hs : Inv s) : Inv (countScans h keys s) := by
  unfold countScans
  repeat' first
    | with_reducible assumption
    | with_reducible exact trivial
    | with_reducible intro _
    | with_reducible refine inv_ite ?_ ?_
    | split
    | with_reducible apply collMod_inv

theorem reportPoison_inv {x : Cmd} {g : Nat} {failed : Bool} {p : Poison} {s : State}  (hs : Inv s) : Inv (reportPoison x g failed p s) := by
  unfold reportPoison
  repeat' first
    | with_reducible assumption
    | with_reducible exact trivial
    | with_reducible intro _
    | with_reducible refine inv_ite ?_ ?_
    | split
    | with_reducible apply bumpSat_inv
    | with_reducible apply blkFault_inv
    | with_reducible apply raise_inv
    | with_reducible apply cmdMod_inv

theorem blockDone_inv {x : Cmd} {sr : Search} {g : Nat} {s : State}  (hs : Inv s) : Inv (blockDone x sr g s) := by
  unfold blockDone
  repeat' first
    | with_reducible assumption
    | with_reducible exact trivial
    | with_reducible intro _
    | with_reducible refine inv_ite ?_ ?_
    | split
    | with_reducible apply workDone_inv
    | with_reducible apply endStage_inv

theorem scanBlock_inv {c : Nat} {n : Nat} {s : State}  (hs : Inv s) : Inv (scanBlock c n s) := by
  unfold scanBlock
  repeat' first
    | with_reducible assumption
    | with_reducible exact trivial
    | with_reducible intro _
    | with_reducible refine inv_ite ?_ ?_
    | split
    | with_reducible refine inv_foldl ?_ ?_
    | with_reducible apply bumpWrap_inv
    | with_reducible apply setWork_inv
    | with_reducible apply failCmd_inv
    | with_reducible apply account_inv
    | with_reducible apply reportPoison_inv
    | with_reducible apply blockDone_inv
    | (dsimp only)

theorem execScanBlockScored_inv {c : Nat} {block : Nat} {s : State}  (hs : Inv s) : OutInv Inv (execScanBlockScored c block s) := by
  unfold execScanBlockScored
  repeat' first
    | with_reducible assumption
    | with_reducible exact trivial
    | with_reducible intro _
    | with_reducible apply out_next
    | split
    | with_reducible apply drainAll_inv
    | with_reducible apply scanBlock_inv

theorem handOver_inv {c : Nat} {g : Nat} {r : Nat} {s : State}  (hs : Inv s) : Inv (handOver c g r s) := by
  unfold handOver
  repeat' first
    | with_reducible assumption
    | with_reducible exact trivial
    | with_reducible intro _
    | with_reducible refine inv_ite ?_ ?_
    | split
    | with_reducible apply setWork_inv

theorem execLocalListHandover_inv {c : Nat} {group : Nat} {reed : Nat} {s : State}  (hs : Inv s) : OutInv Inv (execLocalListHandover c group reed s) := by
  unfold execLocalListHandover
  repeat' first
    | with_reducible assumption
    | with_reducible exact trivial
    | with_reducible intro _
    | with_reducible apply out_next
    | split
    | with_reducible apply handOver_inv

theorem reduceSpills_inv {c : Nat} {t : Nat} {s : State}  (hs : Inv s) : Inv (reduceSpills c t s) := by
  unfold reduceSpills
  repeat' first
    | with_reducible assumption
    | with_reducible exact trivial
    | with_reducible intro _
    | with_reducible refine inv_ite ?_ ?_
    | split
    | with_reducible apply bumpWrap_inv
    | with_reducible apply setWork_inv

theorem writeResults_inv {x : Cmd} {sr : Search} {addr : Nat} {y0 : Nat} {y1 : List Query} {y2 : State}  (hy2 : Inv y2) : ResInv Inv (writeResults x sr addr y0 y1 y2) := by
  induction y1 generalizing x sr addr y0 y2 with
  | nil =>
    unfold writeResults
    repeat' first
      | with_reducible assumption
      | with_reducible exact trivial
      | with_reducible intro _
      | with_reducible apply ok_inv
  | cons a t ih =>
    unfold writeResults
    repeat' first
      | with_reducible assumption
      | with_reducible exact trivial
      | with_reducible intro _
      | with_reducible apply ok_inv
      | with_reducible apply fail_inv
      | with_reducible apply wait_inv
      | split
      | with_reducible refine res_andThen ?_ ?_
      | with_reducible apply ih
      | with_reducible apply writeBuf_inv

theorem endSearch_inv {x : Cmd} {sr : Search} {s : State}  (hs : Inv s) : RowInv Inv (endSearch x sr s) := by
  unfold endSearch
  repeat' first
    | with_reducible assumption
    | with_reducible exact trivial
    | with_reducible intro _
    | with_reducible refine row_ite ?_ ?_
    | with_reducible refine res_ite ?_ ?_
    | with_reducible refine inv_ite ?_ ?_
    | with_reducible apply ok_inv
    | with_reducible apply fail_inv
    | with_reducible apply wait_inv
    | with_reducible apply rowOk_inv
    | with_reducible apply rowFail_inv
    | with_reducible apply rowWait_inv
    | with_reducible refine row_andThen ?_ ?_
    | split
    | with_reducible refine inv_foldl ?_ ?_
    | with_reducible refine res_andThen ?_ ?_
    | with_reducible refine res_foldl ?_ ?_
    | with_reducible apply done_inv
    | with_reducible apply endStage_inv
    | with_reducible apply writeResults_inv
    | refine res_ok (by with_reducible assumption) ?_
    | refine res_fail (by with_reducible assumption) ?_
    | refine res_wait (by with_reducible assumption) ?_
    | refine row_ok (by with_reducible assumption) ?_
    | refine row_fail (by with_reducible assumption) ?_
    | refine row_wait (by with_reducible assumption) ?_
    | (dsimp only)

theorem towerMerge_inv {x : Cmd} {sr : Search} {t : Nat} {s : State}  (hs : Inv s) : Inv (towerMerge x sr t s) := by
  unfold towerMerge
  repeat' first
    | with_reducible assumption
    | with_reducible exact trivial
    | with_reducible intro _
    | with_reducible refine inv_ite ?_ ?_
    | split
    | with_reducible apply cmdMod_inv
    | with_reducible apply setWork_inv
    | with_reducible apply countMerge_inv

theorem finishSearch_inv {x : Cmd} {sr : Search} {s : State}  (hs : Inv s) : Inv (finishSearch x sr s) := by
  unfold finishSearch
  repeat' first
    | with_reducible assumption
    | with_reducible exact trivial
    | with_reducible intro _
    | with_reducible apply rowOk_inv
    | with_reducible apply rowFail_inv
    | with_reducible apply rowWait_inv
    | split
    | with_reducible apply setWork_inv
    | with_reducible apply failCmd_inv
    | with_reducible apply endStage_inv
    | with_reducible apply endSearch_inv
    | refine row_ok (by with_reducible assumption) ?_
    | refine row_fail (by with_reducible assumption) ?_
    | refine row_wait (by with_reducible assumption) ?_
    | (dsimp only)

theorem homeMerge_inv {x : Cmd} {sr : Search} {s : State}  (hs : Inv s) : Inv (homeMerge x sr s) := by
  unfold homeMerge
  repeat' first
    | with_reducible assumption
    | with_reducible exact trivial
    | with_reducible intro _
    | with_reducible refine inv_ite ?_ ?_
    | split
    | with_reducible apply setWork_inv
    | with_reducible apply countMerge_inv
    | with_reducible apply finishSearch_inv

theorem countScored_inv {cl : Nat} {n : Nat} {fs : BitVec 7} {s : State}  (hs : Inv s) : Inv (countScored cl n fs s) := by
  unfold countScored
  repeat' first
    | with_reducible assumption
    | with_reducible exact trivial
    | with_reducible intro _
    | with_reducible refine inv_ite ?_ ?_
    | split
    | with_reducible apply bumpSat_inv
    | with_reducible apply bumpWrap_inv

theorem rerankPoison_inv {x : Cmd} {cl : Nat} {p : Poison} {s : State}  (hs : Inv s) : Inv (rerankPoison x cl p s) := by
  unfold rerankPoison
  repeat' first
    | with_reducible assumption
    | with_reducible exact trivial
    | with_reducible intro _
    | split
    | with_reducible apply blkFault_inv
    | with_reducible apply cmdMod_inv
    | with_reducible apply failPoison_inv

theorem rerankRegion_inv {x : Cmd} {sr : Search} {s : State}  (hs : Inv s) : Inv (rerankRegion x sr s) := by
  unfold rerankRegion
  repeat' first
    | with_reducible assumption
    | with_reducible exact trivial
    | with_reducible intro _
    | split
    | with_reducible refine inv_foldl ?_ ?_
    | with_reducible apply setWork_inv
    | with_reducible apply workDone_inv
    | with_reducible apply account_inv
    | with_reducible apply countScored_inv
    | with_reducible apply rerankPoison_inv

theorem startEncodes_inv {x : Cmd} {c : Coll} {vs : List EncVec} {rerank : Bool} {s : State} (hs : Inv s) :
    Inv (startEncodes x c vs rerank s).2 := by
  unfold startEncodes
  dsimp only
  refine snd_ite ?_ ?_
  · exact takeBatch_inv (countBell_inv hs)
  · exact takeBatch_inv (countBell_inv (takeBatch_inv (countBell_inv hs)))

theorem readQueries_inv {x : Cmd} {c : Coll} {sr : Search} {s : State}  (hs : Inv s) : ResInv Inv (readQueries x c sr s) := by
  unfold readQueries
  repeat' first
    | with_reducible assumption
    | with_reducible exact trivial
    | with_reducible intro _
    | with_reducible refine res_ite ?_ ?_
    | with_reducible refine inv_ite ?_ ?_
    | with_reducible apply ok_inv
    | with_reducible apply fail_inv
    | with_reducible apply wait_inv
    | split
    | with_reducible refine res_andThen ?_ ?_
    | with_reducible apply readSource_inv
    | with_reducible apply readCodes_inv
    | with_reducible apply readRq_inv
    | with_reducible apply readEach_inv
    | with_reducible apply startEncodes_inv

theorem searchRow_inv {c : Nat} {op : Nat} {f : Cmd → Coll → State → Res State} {s : State} (hf : ∀ a0 a1 a2, Inv a2 → RowInv Inv (f a0 a1 a2)) (hs : Inv s) : Inv (searchRow c op f s) := by
  unfold searchRow
  repeat' first
    | with_reducible assumption
    | with_reducible exact trivial
    | with_reducible intro _
    | with_reducible refine inv_ite ?_ ?_
    | with_reducible refine row_ite ?_ ?_
    | with_reducible refine res_ite ?_ ?_
    | with_reducible apply rowOk_inv
    | with_reducible apply rowFail_inv
    | with_reducible apply rowWait_inv
    | split
    | with_reducible apply settle_inv
    | with_reducible apply unlessPoison_inv
    | with_reducible apply hf

end Sys2Proof.Machine
end

