-- ==== Sys2Proof/Laws/KeepsFlat.lean ====
section
/-! SUPPORT. The functions of Machine/Flat.lean keep the invariant. -/

namespace Sys2Proof.Machine

theorem readProbes_inv {x : Cmd} {s : State}  (hs : Inv s) : ResInv Inv (readProbes x s) := by
  unfold readProbes
  repeat' first
    | with_reducible assumption
    | with_reducible exact trivial
    | with_reducible intro _
    | with_reducible apply ok_inv
    | with_reducible apply fail_inv
    | with_reducible apply wait_inv
    | split
    | with_reducible refine res_andThen ?_ ?_
    | with_reducible apply readBuf_inv
    | with_reducible apply inputBad_inv
    | refine res_ok (by with_reducible assumption) ?_
    | refine res_fail (by with_reducible assumption) ?_
    | refine res_wait (by with_reducible assumption) ?_
    | (dsimp only)

theorem noteProbe_inv {x : Cmd} {sr : Search} {s : State}  (hs : Inv s) : Inv (noteProbe x sr s) := by
  unfold noteProbe
  repeat' first
    | with_reducible assumption
    | with_reducible exact trivial
    | with_reducible intro _
    | with_reducible refine inv_ite ?_ ?_
    | split
    | with_reducible apply countProbe_inv

theorem planBlocks_inv {x : Cmd} {sr : Search} {listed : List Nat} {s : State}  (hs : Inv s) : Inv (planBlocks x sr listed s) := by
  unfold planBlocks
  repeat' first
    | with_reducible assumption
    | with_reducible exact trivial
    | with_reducible intro _
    | split
    | with_reducible apply setWork_inv
    | with_reducible apply countScans_inv
    | with_reducible apply noteProbe_inv

theorem flatStart_inv {x : Cmd} {c : Coll} {s : State}  (hs : Inv s) : RowInv Inv (flatStart x c s) := by
  unfold flatStart
  repeat' first
    | with_reducible assumption
    | with_reducible exact trivial
    | with_reducible intro _
    | with_reducible refine row_ite ?_ ?_
    | with_reducible refine res_ite ?_ ?_
    | with_reducible refine inv_ite ?_ ?_
    | with_reducible apply ok_inv
    | with_reducible apply fail_inv
    | with_reducible apply wait_inv
    | with_reducible apply rowOk_inv
    | with_reducible apply rowFail_inv
    | with_reducible apply rowWait_inv
    | with_reducible refine row_andThen ?_ ?_
    | split
    | with_reducible refine res_andThen ?_ ?_
    | with_reducible apply cmdMod_inv
    | with_reducible apply setWork_inv
    | with_reducible apply endStage_inv
    | with_reducible apply consumeRings_inv
    | with_reducible apply bellPoison_inv
    | with_reducible apply mediaLost_inv
    | with_reducible apply readFilter_inv
    | with_reducible apply readQueries_inv
    | with_reducible apply readProbes_inv
    | with_reducible apply planBlocks_inv

theorem execSearchFlat_inv {c : Nat} {s : State}  (hs : Inv s) : OutInv Inv (execSearchFlat c s) := by
  unfold execSearchFlat
  repeat' first
    | with_reducible assumption
    | with_reducible exact trivial
    | with_reducible intro _
    | with_reducible apply out_next
    | with_reducible apply rowOk_inv
    | with_reducible apply rowFail_inv
    | with_reducible apply rowWait_inv
    | split
    | with_reducible apply drainAll_inv
    | with_reducible apply searchRow_inv
    | with_reducible apply flatStart_inv

theorem batchSearchStart_inv {x : Cmd} {c : Coll} {s : State}  (hs : Inv s) : RowInv Inv (batchSearchStart x c s) := by
  unfold batchSearchStart
  repeat' first
    | with_reducible assumption
    | with_reducible exact trivial
    | with_reducible intro _
    | with_reducible apply rowOk_inv
    | with_reducible apply rowFail_inv
    | with_reducible apply rowWait_inv
    | split
    | with_reducible apply flatStart_inv

theorem execSearchBatch_inv {c : Nat} {s : State}  (hs : Inv s) : OutInv Inv (execSearchBatch c s) := by
  unfold execSearchBatch
  repeat' first
    | with_reducible assumption
    | with_reducible exact trivial
    | with_reducible intro _
    | with_reducible apply out_next
    | with_reducible apply rowOk_inv
    | with_reducible apply rowFail_inv
    | with_reducible apply rowWait_inv
    | split
    | with_reducible apply drainAll_inv
    | with_reducible apply searchRow_inv
    | with_reducible apply batchSearchStart_inv

theorem codesReady_inv {x : Cmd} {sr : Search} {s : State}  (hs : Inv s) : Inv (codesReady x sr s) := by
  unfold codesReady
  repeat' first
    | with_reducible assumption
    | with_reducible exact trivial
    | with_reducible intro _
    | with_reducible refine inv_ite ?_ ?_
    | split
    | with_reducible apply setWork_inv
    | with_reducible apply endStage_inv
    | with_reducible apply freeStage_inv
    | with_reducible apply planBlocks_inv

end Sys2Proof.Machine
end

