-- ==== Sys2Proof/Laws/KeepsGraph.lean ====
section
/-! SUPPORT. The functions of Machine/Graph.lean keep the invariant. -/

namespace Sys2Proof.Machine

theorem endWalk_inv {c : Nat} {s : State}  (hs : Inv s) : Inv (endWalk c s) := by
  unfold endWalk
  repeat' first
    | with_reducible assumption
    | with_reducible exact trivial
    | with_reducible intro _
    | split
    | with_reducible apply cmdMod_inv
    | with_reducible apply freeContexts_inv
    | with_reducible apply releaseCharges_inv

theorem graphStart_inv {x : Cmd} {c : Coll} {s : State}  (hs : Inv s) : RowInv Inv (graphStart x c s) := by
  unfold graphStart
  repeat' first
    | with_reducible assumption
    | with_reducible exact trivial
    | with_reducible intro _
    | with_reducible refine res_ite ?_ ?_
    | with_reducible refine inv_ite ?_ ?_
    | with_reducible apply ok_inv
    | with_reducible apply fail_inv
    | with_reducible apply wait_inv
    | with_reducible apply rowOk_inv
    | with_reducible apply rowFail_inv
    | with_reducible apply rowWait_inv
    | with_reducible refine row_andThen ?_ ?_
    | split
    | with_reducible refine res_andThen ?_ ?_
    | with_reducible apply setWork_inv
    | with_reducible apply endStage_inv
    | with_reducible apply consumeRings_inv
    | with_reducible apply bellPoison_inv
    | with_reducible apply readFilter_inv
    | with_reducible apply readQueries_inv
    | with_reducible apply endWalk_inv

theorem execSearchGraph_inv {c : Nat} {s : State}  (hs : Inv s) : OutInv Inv (execSearchGraph c s) := by
  unfold execSearchGraph
  repeat' first
    | with_reducible assumption
    | with_reducible exact trivial
    | with_reducible intro _
    | with_reducible apply out_next
    | with_reducible apply rowOk_inv
    | with_reducible apply rowFail_inv
    | with_reducible apply rowWait_inv
    | split
    | with_reducible apply drainAll_inv
    | with_reducible apply searchRow_inv
    | with_reducible apply graphStart_inv

theorem nodePoison_inv {x : Cmd} {tower : Nat} {n : Nat} {p : Poison} {w : DataWord} {s : State}  (hs : Inv s) : Inv (nodePoison x tower n p w s) := by
  unfold nodePoison
  repeat' first
    | with_reducible assumption
    | with_reducible exact trivial
    | with_reducible intro _
    | split
    | with_reducible apply bumpSat_inv
    | with_reducible apply cmdMod_inv
    | with_reducible apply failCmd_inv

theorem nodeArrives_inv {c : Nat} {n : Nat} {s : State}  (hs : Inv s) : Inv (nodeArrives c n s) := by
  unfold nodeArrives
  repeat' first
    | with_reducible assumption
    | with_reducible exact trivial
    | with_reducible intro _
    | with_reducible refine inv_ite ?_ ?_
    | split
    | with_reducible apply setWork_inv
    | with_reducible apply nodePoison_inv

theorem execNodeReadArrival_inv {c : Nat} {node : Nat} {s : State}  (hs : Inv s) : OutInv Inv (execNodeReadArrival c node s) := by
  unfold execNodeReadArrival
  repeat' first
    | with_reducible assumption
    | with_reducible exact trivial
    | with_reducible intro _
    | with_reducible apply out_next
    | split
    | with_reducible apply drainAll_inv
    | with_reducible apply nodeArrives_inv

theorem walkCommit_inv {c : Nat} {s : State}  (hs : Inv s) : Inv (walkCommit c s) := by
  unfold walkCommit
  repeat' first
    | with_reducible assumption
    | with_reducible exact trivial
    | with_reducible intro _
    | with_reducible refine inv_ite ?_ ?_
    | split
    | with_reducible apply bumpWrap_inv
    | with_reducible apply setWork_inv
    | with_reducible apply workDone_inv
    | with_reducible apply account_inv
    | with_reducible apply endWalk_inv

theorem execWalkRoundCommit_inv {c : Nat} {s : State}  (hs : Inv s) : OutInv Inv (execWalkRoundCommit c s) := by
  unfold execWalkRoundCommit
  repeat' first
    | with_reducible assumption
    | with_reducible exact trivial
    | with_reducible intro _
    | with_reducible apply out_next
    | split
    | with_reducible apply drainAll_inv
    | with_reducible apply walkCommit_inv

theorem contextMoved_inv {a : Nat} {b : Nat} {s : State}  (hs : Inv s) : Inv (contextMoved a b s) := by
  unfold contextMoved
  repeat' first
    | with_reducible assumption
    | with_reducible exact trivial
    | with_reducible intro _
    | with_reducible refine inv_ite ?_ ?_
    | split
    | with_reducible apply bumpSat_inv
    | with_reducible apply raise_inv
    | (dsimp only)
    | (fail_if_no_progress (with_reducible refine inv_mk ?_ rfl rfl))

theorem execContextMoved_inv {fromCore : Nat} {toCore : Nat} {s : State}  (hs : Inv s) : OutInv Inv (execContextMoved fromCore toCore s) := by
  unfold execContextMoved
  repeat' first
    | with_reducible assumption
    | with_reducible exact trivial
    | with_reducible intro _
    | with_reducible apply out_next
    | split
    | with_reducible apply drainAll_inv
    | with_reducible apply contextMoved_inv

end Sys2Proof.Machine
end

