-- ==== Sys2Proof/Laws/KeepsFanout.lean ====
section
/-! SUPPORT. The functions of Machine/Fanout.lean keep the invariant. -/

namespace Sys2Proof.Machine

theorem subArrive_inv {q : SubQ} {s : State}  (hs : Inv s) : Inv (subArrive q s) := by
  unfold subArrive
  repeat' first
    | with_reducible assumption
    | with_reducible exact trivial
    | with_reducible intro _
    | with_reducible refine inv_ite ?_ ?_
    | split
    | with_reducible apply cmdMod_inv
    | (dsimp only)
    | (fail_if_no_progress (with_reducible refine inv_mk ?_ rfl rfl))

theorem sendSubs_inv {x : Cmd} {c : Coll} {f : Fan} {deadline : Nat} {y0 : List Shard} {y1 : State}  (hy1 : Inv y1) : Inv (sendSubs x c f deadline y0 y1).2 := by
  induction y0 generalizing x c f deadline y1 with
  | nil =>
    unfold sendSubs
    repeat' first
      | with_reducible assumption
  | cons a t ih =>
    unfold sendSubs
    repeat' first
      | with_reducible assumption
      | with_reducible exact trivial
      | with_reducible intro _
      | with_reducible refine snd_ite ?_ ?_
      | with_reducible refine inv_ite ?_ ?_
      | split
      | with_reducible apply ih
      | with_reducible apply sendMsg_inv
      | with_reducible apply subArrive_inv
      | refine inv_snd (by with_reducible assumption) ?_
      | (dsimp only)
      | (fail_if_no_progress (with_reducible refine inv_mk ?_ rfl rfl))

theorem fanSend_inv {x : Cmd} {c : Coll} {f : Fan} {s : State}  (hs : Inv s) : Inv (fanSend x c f s) := by
  unfold fanSend
  repeat' first
    | with_reducible assumption
    | with_reducible exact trivial
    | with_reducible intro _
    | with_reducible refine inv_ite ?_ ?_
    | split
    | with_reducible apply setWork_inv
    | with_reducible apply refuse_inv
    | with_reducible apply sendSubs_inv

theorem fanRq_inv {x : Cmd} {c : Coll} {s : State}  (hs : Inv s) : ResInv Inv (fanRq x c s) := by
  unfold fanRq
  repeat' first
    | with_reducible assumption
    | with_reducible exact trivial
    | with_reducible intro _
    | with_reducible refine res_ite ?_ ?_
    | with_reducible refine inv_ite ?_ ?_
    | with_reducible apply ok_inv
    | with_reducible apply fail_inv
    | with_reducible apply wait_inv
    | split
    | with_reducible refine res_andThen ?_ ?_
    | with_reducible apply readBuf_inv
    | with_reducible apply inputBad_inv

theorem fanQuery_inv {x : Cmd} {c : Coll} {p : SParams} {f : Fan} {s : State}  (hs : Inv s) : ResInv Inv (fanQuery x c p f s) := by
  unfold fanQuery
  repeat' first
    | with_reducible assumption
    | with_reducible exact trivial
    | with_reducible intro _
    | with_reducible refine res_ite ?_ ?_
    | with_reducible refine inv_ite ?_ ?_
    | with_reducible apply ok_inv
    | with_reducible apply fail_inv
    | with_reducible apply wait_inv
    | split
    | with_reducible refine res_andThen ?_ ?_
    | with_reducible apply readBuf_inv
    | with_reducible apply readSource_inv
    | with_reducible apply startEncodes_inv
    | with_reducible apply fanRq_inv

theorem fanFilter_inv {x : Cmd} {s : State}  (hs : Inv s) : ResInv Inv (fanFilter x s) := by
  unfold fanFilter
  repeat' first
    | with_reducible assumption
    | with_reducible exact trivial
    | with_reducible intro _
    | with_reducible refine res_ite ?_ ?_
    | with_reducible refine inv_ite ?_ ?_
    | with_reducible apply ok_inv
    | with_reducible apply fail_inv
    | with_reducible apply wait_inv
    | split
    | with_reducible refine res_andThen ?_ ?_
    | with_reducible apply readBuf_inv
    | with_reducible apply readFilter_inv

theorem fanInputs_inv {x : Cmd} {c : Coll} {s : State}  (hs : Inv s) : ResInv Inv (fanInputs x c s) := by
  unfold fanInputs
  repeat' first
    | with_reducible assumption
    | with_reducible exact trivial
    | with_reducible intro _
    | with_reducible refine res_ite ?_ ?_
    | with_reducible refine inv_ite ?_ ?_
    | with_reducible apply ok_inv
    | with_reducible apply fail_inv
    | with_reducible apply wait_inv
    | split
    | with_reducible refine res_andThen ?_ ?_
    | with_reducible apply readBuf_inv
    | with_reducible apply inputBad_inv
    | with_reducible apply fanQuery_inv
    | with_reducible apply fanFilter_inv

theorem fanReady_inv {x : Cmd} {c : Coll} {f : Fan} {s : State}  (hs : Inv s) : Inv (fanReady x c f s) := by
  unfold fanReady
  repeat' first
    | with_reducible assumption
    | with_reducible exact trivial
    | with_reducible intro _
    | split
    | with_reducible apply endStage_inv
    | with_reducible apply freeStage_inv
    | with_reducible apply fanSend_inv

theorem fanStart_inv {x : Cmd} {c : Coll} {s : State}  (hs : Inv s) : RowInv Inv (fanStart x c s) := by
  unfold fanStart
  repeat' first
    | with_reducible assumption
    | with_reducible exact trivial
    | with_reducible intro _
    | with_reducible refine res_ite ?_ ?_
    | with_reducible refine inv_ite ?_ ?_
    | with_reducible apply ok_inv
    | with_reducible apply fail_inv
    | with_reducible apply wait_inv
    | with_reducible apply rowOk_inv
    | with_reducible apply rowFail_inv
    | with_reducible apply rowWait_inv
    | with_reducible refine row_andThen ?_ ?_
    | split
    | with_reducible refine res_andThen ?_ ?_
    | (unfold inputBad)
    | with_reducible apply setWork_inv
    | with_reducible apply endStage_inv
    | with_reducible apply consumeRings_inv
    | with_reducible apply bellPoison_inv
    | with_reducible apply fanInputs_inv
    | with_reducible apply fanReady_inv

theorem execSearchFanout_inv {c : Nat} {s : State}  (hs : Inv s) : OutInv Inv (execSearchFanout c s) := by
  unfold execSearchFanout
  repeat' first
    | with_reducible assumption
    | with_reducible exact trivial
    | with_reducible intro _
    | with_reducible apply out_next
    | with_reducible apply rowOk_inv
    | with_reducible apply rowFail_inv
    | with_reducible apply rowWait_inv
    | split
    | with_reducible apply drainAll_inv
    | with_reducible apply searchRow_inv
    | with_reducible apply fanStart_inv

theorem subqRow_inv {q : SubQ} {s : State}  (hs : Inv s) : Inv (subqRow q s) := by
  unfold subqRow
  repeat' first
    | with_reducible assumption
    | with_reducible exact trivial
    | with_reducible intro _
    | with_reducible refine inv_ite ?_ ?_
    | split
    | with_reducible apply bumpSat_inv
    | with_reducible apply sendMsg_inv
    | with_reducible apply subArrive_inv

theorem execSubq_inv {peer : Nat} {request : Nat} {subKind : Nat} {coll : Nat} {shardId : Nat} {bnd : Bool} {cut : Bool} {deadlineUs : Nat} {codeBits : Nat} {encVersion : Nat} {encNext : Nat} {params : List Byte} {codes : List Byte} {rq : List Byte} {filter : List Byte} {tset : List Nat} {s : State}  (hs : Inv s) : OutInv Inv (execSubq peer request subKind coll shardId bnd cut deadlineUs codeBits encVersion encNext params codes rq filter tset s) := by
  unfold execSubq
  repeat' first
    | with_reducible assumption
    | with_reducible exact trivial
    | with_reducible intro _
    | with_reducible apply out_next
    | split
    | with_reducible apply drainAll_inv
    | with_reducible apply subqRow_inv

theorem shardAnswer_inv {peer : Nat} {request : Nat} {rep : ShardReport} {es : List WireEntry} {s : State}  (hs : Inv s) : Inv (shardAnswer peer request rep es s) := by
  unfold shardAnswer
  repeat' first
    | with_reducible assumption
    | with_reducible exact trivial
    | with_reducible intro _
    | with_reducible refine inv_ite ?_ ?_
    | split
    | with_reducible refine inv_foldl ?_ ?_
    | with_reducible apply cmdMod_inv
    | with_reducible apply workDone_inv

theorem execSubres_inv {peer : Nat} {request : Nat} {rep : ShardReport} {es : List WireEntry} {s : State}  (hs : Inv s) : OutInv Inv (execSubres peer request rep es s) := by
  unfold execSubres
  repeat' first
    | with_reducible assumption
    | with_reducible exact trivial
    | with_reducible intro _
    | with_reducible refine out_ite ?_ ?_
    | with_reducible refine inv_ite ?_ ?_
    | with_reducible apply out_next
    | split
    | with_reducible apply shardAnswer_inv

theorem fanMerge_inv {x : Cmd} {c : Coll} {f : Fan} {s : State}  (hs : Inv s) : Inv (fanMerge x c f s) := by
  unfold fanMerge
  repeat' first
    | with_reducible assumption
    | with_reducible exact trivial
    | with_reducible intro _
    | with_reducible refine inv_ite ?_ ?_
    | with_reducible apply ok_inv
    | with_reducible apply fail_inv
    | with_reducible apply wait_inv
    | split
    | with_reducible refine res_andThen ?_ ?_
    | with_reducible apply finish_inv
    | with_reducible apply failCmd_inv
    | with_reducible apply endStage_inv
    | with_reducible apply writeBuf_inv
    | with_reducible apply countMerge_inv
    | with_reducible apply dupKeys_inv
    | refine res_ok (by with_reducible assumption) ?_
    | refine res_fail (by with_reducible assumption) ?_
    | refine res_wait (by with_reducible assumption) ?_
    | (dsimp only)

theorem fansDown_inv {peer : Nat} {s : State}  (hs : Inv s) : Inv (fansDown peer s) := by
  unfold fansDown
  repeat' first
    | with_reducible assumption
    | with_reducible exact trivial
    | with_reducible intro _
    | split
    | with_reducible refine inv_foldl ?_ ?_
    | with_reducible apply refuse_inv

theorem fansRejected_inv {peer : Nat} {s : State}  (hs : Inv s) : Inv (fansRejected peer s) := by
  unfold fansRejected
  repeat' first
    | with_reducible assumption
    | with_reducible exact trivial
    | with_reducible intro _
    | split
    | with_reducible refine inv_foldl ?_ ?_
    | with_reducible apply failCmd_inv

end Sys2Proof.Machine
end

