-- ==== Sys2Proof/Laws/KeepsBore.lean ====
section
/-! SUPPORT. The functions of Machine/Bore.lean keep the invariant. -/

namespace Sys2Proof.Machine

theorem putEncs_inv {x : Cmd} {es : List Enc} {s : State}  (hs : Inv s) : Inv (putEncs x es s) := by
  unfold putEncs
  repeat' first
    | with_reducible assumption
    | with_reducible exact trivial
    | with_reducible intro _
    | with_reducible refine inv_ite ?_ ?_
    | with_reducible refine row_ite ?_ ?_
    | with_reducible refine res_ite ?_ ?_
    | with_reducible apply rowOk_inv
    | with_reducible apply rowFail_inv
    | with_reducible apply rowWait_inv
    | split
    | with_reducible apply setWork_inv
    | with_reducible apply settle_inv
    | with_reducible apply endStage_inv
    | with_reducible apply freeStage_inv
    | with_reducible apply encodeEnd_inv
    | with_reducible apply encodeEnds_inv
    | with_reducible apply mutGoOn_inv
    | with_reducible apply codesReady_inv
    | with_reducible apply fanReady_inv
    | refine inv_snd (by with_reducible assumption) ?_
    | refine row_ok (by with_reducible assumption) ?_
    | refine row_fail (by with_reducible assumption) ?_
    | refine row_wait (by with_reducible assumption) ?_
    | (dsimp only)

theorem takeRes_inv {x : Cmd} {k : Nat} {e : Enc} {r : EncRes} {note : State → State} {s : State} (hr : EncInv Inv r) (hnote : ∀ a0, Inv a0 → Inv (note a0)) (hs : Inv s) : Inv (takeRes x k e r note s) := by
  unfold takeRes
  repeat' first
    | with_reducible assumption
    | with_reducible exact trivial
    | with_reducible intro _
    | with_reducible refine inv_ite ?_ ?_
    | with_reducible refine row_ite ?_ ?_
    | with_reducible refine res_ite ?_ ?_
    | with_reducible apply ok_inv
    | with_reducible apply fail_inv
    | with_reducible apply wait_inv
    | with_reducible apply rowOk_inv
    | with_reducible apply rowFail_inv
    | with_reducible apply rowWait_inv
    | split
    | (cases hr; assumption)
    | with_reducible apply cmdMod_inv
    | with_reducible apply settle_inv
    | with_reducible apply workDone_inv
    | with_reducible apply borePoison_inv
    | with_reducible apply countDrainWait_inv
    | with_reducible apply mediaLost_inv
    | with_reducible apply putEncs_inv
    | with_reducible apply hr
    | with_reducible apply hnote

theorem encStep_inv {x : Cmd} {s : State}  (hs : Inv s) : Inv (encStep x s) := by
  unfold encStep
  repeat' first
    | with_reducible assumption
    | with_reducible exact trivial
    | with_reducible intro _
    | with_reducible refine inv_ite ?_ ?_
    | split
    | with_reducible apply encRegion_inv
    | with_reducible apply noteAccs_inv
    | with_reducible apply countEvents_inv
    | with_reducible apply takeRes_inv

theorem splitCombine_inv {c : Nat} {s : State}  (hs : Inv s) : Inv (splitCombine c s) := by
  unfold splitCombine
  repeat' first
    | with_reducible assumption
    | with_reducible exact trivial
    | with_reducible intro _
    | with_reducible refine inv_ite ?_ ?_
    | split
    | with_reducible apply encCombine_inv
    | with_reducible apply noteAccs_inv
    | with_reducible apply takeRes_inv

theorem execSplitCombine_inv {c : Nat} {s : State}  (hs : Inv s) : OutInv Inv (execSplitCombine c s) := by
  unfold execSplitCombine
  repeat' first
    | with_reducible assumption
    | with_reducible exact trivial
    | with_reducible intro _
    | with_reducible apply out_next
    | split
    | with_reducible apply drainAll_inv
    | with_reducible apply splitCombine_inv

theorem rerankQueries_inv {x : Cmd} {c : Coll} {s : State}  (hs : Inv s) : ResInv Inv (rerankQueries x c s) := by
  unfold rerankQueries
  repeat' first
    | with_reducible assumption
    | with_reducible exact trivial
    | with_reducible intro _
    | with_reducible refine res_ite ?_ ?_
    | with_reducible refine inv_ite ?_ ?_
    | with_reducible apply ok_inv
    | with_reducible apply fail_inv
    | with_reducible apply wait_inv
    | split
    | with_reducible refine res_andThen ?_ ?_
    | with_reducible apply readBlock_inv

theorem rerankStart_inv {x : Cmd} {c : Coll} {s : State}  (hs : Inv s) : RowInv Inv (rerankStart x c s) := by
  unfold rerankStart
  repeat' first
    | with_reducible assumption
    | with_reducible exact trivial
    | with_reducible intro _
    | with_reducible refine res_ite ?_ ?_
    | with_reducible refine inv_ite ?_ ?_
    | with_reducible apply ok_inv
    | with_reducible apply fail_inv
    | with_reducible apply wait_inv
    | with_reducible apply rowOk_inv
    | with_reducible apply rowFail_inv
    | with_reducible apply rowWait_inv
    | with_reducible refine row_andThen ?_ ?_
    | split
    | with_reducible refine res_andThen ?_ ?_
    | (unfold inputBad)
    | with_reducible apply setWork_inv
    | with_reducible apply endStage_inv
    | with_reducible apply readBuf_inv
    | with_reducible apply consumeRings_inv
    | with_reducible apply inputBad_inv
    | with_reducible apply rerankQueries_inv

theorem execRerank_inv {c : Nat} {s : State}  (hs : Inv s) : OutInv Inv (execRerank c s) := by
  unfold execRerank
  repeat' first
    | with_reducible assumption
    | with_reducible exact trivial
    | with_reducible intro _
    | with_reducible apply out_next
    | with_reducible apply rowOk_inv
    | with_reducible apply rowFail_inv
    | with_reducible apply rowWait_inv
    | split
    | with_reducible apply drainAll_inv
    | with_reducible apply searchRow_inv
    | with_reducible apply rerankStart_inv

theorem rerankScored_inv {x : Cmd} {sr : Search} {s : State}  (hs : Inv s) : Inv (rerankScored x sr s) := by
  unfold rerankScored
  repeat' first
    | with_reducible assumption
    | with_reducible exact trivial
    | with_reducible intro _
    | split
    | with_reducible refine inv_foldl ?_ ?_
    | with_reducible apply setWork_inv
    | with_reducible apply workDone_inv
    | with_reducible apply account_inv
    | with_reducible apply countScored_inv
    | with_reducible apply rerankPoison_inv

theorem regionDrained_inv {c : Nat} {s : State}  (hs : Inv s) : Inv (regionDrained c s) := by
  unfold regionDrained
  repeat' first
    | with_reducible assumption
    | with_reducible exact trivial
    | with_reducible intro _
    | with_reducible refine inv_ite ?_ ?_
    | split
    | with_reducible apply rerankRegion_inv
    | with_reducible apply encStep_inv
    | with_reducible apply rerankScored_inv

theorem execBoreRegionDrained_inv {c : Nat} {s : State}  (hs : Inv s) : OutInv Inv (execBoreRegionDrained c s) := by
  unfold execBoreRegionDrained
  repeat' first
    | with_reducible assumption
    | with_reducible exact trivial
    | with_reducible intro _
    | with_reducible apply out_next
    | split
    | with_reducible apply drainAll_inv
    | with_reducible apply regionDrained_inv

theorem valveMerge_inv {c : Nat} {tower : Option Nat} {s : State}  (hs : Inv s) : Inv (valveMerge c tower s) := by
  unfold valveMerge
  repeat' first
    | with_reducible assumption
    | with_reducible exact trivial
    | with_reducible intro _
    | with_reducible refine inv_ite ?_ ?_
    | split
    | with_reducible apply valvePoison_inv
    | with_reducible apply towerMerge_inv
    | with_reducible apply homeMerge_inv
    | with_reducible apply fanMerge_inv

theorem execValveMerge_inv {c : Nat} {tower : Option Nat} {s : State}  (hs : Inv s) : OutInv Inv (execValveMerge c tower s) := by
  unfold execValveMerge
  repeat' first
    | with_reducible assumption
    | with_reducible exact trivial
    | with_reducible intro _
    | with_reducible apply out_next
    | split
    | with_reducible apply drainAll_inv
    | with_reducible apply valveMerge_inv

theorem spillRow_inv {c : Nat} {tower : Nat} {s : State}  (hs : Inv s) : Inv (spillRow c tower s) := by
  unfold spillRow
  repeat' first
    | with_reducible assumption
    | with_reducible exact trivial
    | with_reducible intro _
    | split
    | with_reducible apply valvePoison_inv
    | with_reducible apply reduceSpills_inv

theorem execSpillReduction_inv {c : Nat} {tower : Nat} {s : State}  (hs : Inv s) : OutInv Inv (execSpillReduction c tower s) := by
  unfold execSpillReduction
  repeat' first
    | with_reducible assumption
    | with_reducible exact trivial
    | with_reducible intro _
    | with_reducible apply out_next
    | split
    | with_reducible apply drainAll_inv
    | with_reducible apply spillRow_inv

theorem cutUnread_inv {x : Cmd} {k : Coll} {s : State}  (hs : Inv s) : Inv (cutUnread x k s) := by
  unfold cutUnread
  repeat' first
    | with_reducible assumption
    | with_reducible exact trivial
    | with_reducible intro _
    | with_reducible refine inv_ite ?_ ?_
    | with_reducible refine row_ite ?_ ?_
    | with_reducible refine res_ite ?_ ?_
    | with_reducible apply ok_inv
    | with_reducible apply fail_inv
    | with_reducible apply wait_inv
    | with_reducible apply rowOk_inv
    | with_reducible apply rowFail_inv
    | with_reducible apply rowWait_inv
    | with_reducible refine row_andThen ?_ ?_
    | split
    | with_reducible refine res_andThen ?_ ?_
    | with_reducible apply setWork_inv
    | with_reducible apply settle_inv
    | with_reducible apply endWalk_inv
    | with_reducible apply fanInputs_inv

theorem deadlineCut_inv {c : Nat} {s : State}  (hs : Inv s) : Inv (deadlineCut c s) := by
  unfold deadlineCut
  repeat' first
    | with_reducible assumption
    | with_reducible exact trivial
    | with_reducible intro _
    | with_reducible refine inv_ite ?_ ?_
    | split
    | with_reducible apply setWork_inv
    | with_reducible apply endWalk_inv
    | with_reducible apply cutUnread_inv

theorem execDeadlineCut_inv {c : Nat} {s : State}  (hs : Inv s) : OutInv Inv (execDeadlineCut c s) := by
  unfold execDeadlineCut
  repeat' first
    | with_reducible assumption
    | with_reducible exact trivial
    | with_reducible intro _
    | with_reducible apply out_next
    | split
    | with_reducible apply drainAll_inv
    | with_reducible apply deadlineCut_inv

end Sys2Proof.Machine
end

