-- ==== Sys2Proof/Laws/KeepsAnswer.lean ====
section
/-! SUPPORT. The functions of Machine/Answer.lean keep the invariant. -/

namespace Sys2Proof.Machine

theorem sendAnswer_inv {peer : Nat} {request : Nat} {bnd : Bool} {body : List Byte} {s : State}  (hs : Inv s) : Inv (sendAnswer peer request bnd body s) := by
  unfold sendAnswer
  repeat' first
    | with_reducible assumption
    | with_reducible exact trivial
    | with_reducible intro _
    | with_reducible refine inv_ite ?_ ?_
    | split
    | with_reducible apply sendMsg_inv
    | with_reducible apply shardAnswer_inv

theorem postAnswer_inv {x : Cmd} {peer : Nat} {request : Nat} {s : State}  (hs : Inv s) : Inv (postAnswer x peer request s) := by
  unfold postAnswer
  repeat' first
    | with_reducible assumption
    | with_reducible exact trivial
    | with_reducible intro _
    | with_reducible refine inv_ite ?_ ?_
    | split
    | with_reducible refine inv_foldl ?_ ?_
    | with_reducible apply raise_inv
    | with_reducible apply releaseHolds_inv
    | with_reducible apply releaseCharges_inv
    | with_reducible apply releaseVersions_inv
    | with_reducible apply sendAnswer_inv
    | (dsimp only)
    | (fail_if_no_progress (with_reducible refine inv_mk ?_ rfl rfl))

theorem completionPost_inv {c : Nat} {s : State}  (hs : Inv s) : Inv (completionPost c s) := by
  unfold completionPost
  repeat' first
    | with_reducible assumption
    | with_reducible exact trivial
    | with_reducible intro _
    | with_reducible refine inv_ite ?_ ?_
    | split
    | with_reducible apply drainAll_inv
    | with_reducible apply postRecord_inv
    | with_reducible apply postAnswer_inv

theorem execCompletionPost_inv {c : Nat} {s : State}  (hs : Inv s) : OutInv Inv (execCompletionPost c s) := by
  unfold execCompletionPost
  repeat' first
    | with_reducible assumption
    | with_reducible exact trivial
    | with_reducible intro _
    | with_reducible apply out_next
    | split
    | with_reducible apply completionPost_inv

end Sys2Proof.Machine
end

