-- ==== Sys2Proof/Laws/KeepsUnits.lean ====
section
/-! SUPPORT. The functions of Machine/Units.lean keep the invariant. -/

namespace Sys2Proof.Machine

theorem stopDrone_inv {s : State}  (hs : Inv s) : Inv (stopDrone s) := by
  unfold stopDrone
  repeat' first
    | with_reducible assumption
    | with_reducible exact trivial
    | with_reducible intro _
    | split
    | with_reducible refine inv_foldl ?_ ?_
    | with_reducible refine snd_foldl ?_ ?_
    | with_reducible apply raise_inv
    | with_reducible apply endRun_inv

theorem enterHold_inv {cause : Nat} {kind : Nat} {s : State}  (hs : Inv s) : Inv (enterHold cause kind s) := by
  unfold enterHold
  repeat' first
    | with_reducible assumption
    | with_reducible exact trivial
    | with_reducible intro _
    | with_reducible refine inv_ite ?_ ?_
    | split
    | with_reducible refine inv_foldl ?_ ?_
    | with_reducible apply setMode_inv
    | with_reducible apply failCmd_inv
    | with_reducible apply stopDrone_inv
    | (dsimp only)
    | (fail_if_no_progress (with_reducible refine inv_mk ?_ rfl rfl))

theorem clusterOut_inv {n : Nat} {code : Nat} {s : State}  (hs : Inv s) : Inv (clusterOut n code s) := by
  unfold clusterOut
  repeat' first
    | with_reducible assumption
    | with_reducible exact trivial
    | with_reducible intro _
    | split
    | with_reducible refine inv_foldl ?_ ?_
    | with_reducible apply regSet_inv
    | (dsimp only)
    | (fail_if_no_progress (with_reducible refine inv_mk ?_ rfl rfl))

theorem applyMapEntry_inv {e : MapEntry} {s : State}  (hs : Inv s) : Inv (applyMapEntry e s) := by
  unfold applyMapEntry
  extract_lets spare l o t o2 t2 k o3 o4
  split
  all_goals repeat' first
    | with_reducible assumption
    | with_reducible refine inv_ite ?_ ?_
    | with_reducible apply regField_inv
    | with_reducible apply clusterOut_inv
    | with_reducible refine inv_mk ?_ rfl rfl

theorem streamAgain_inv {on : List Nat} {s : State}  (hs : Inv s) : Inv (streamAgain on s) := by
  unfold streamAgain
  repeat' first
    | with_reducible assumption
    | with_reducible exact trivial
    | with_reducible intro _
    | split
    | with_reducible apply ringsMod_inv

theorem recompute_inv {cl : Nat} {s : State}  (hs : Inv s) : Inv (recompute cl s) := by
  unfold recompute
  repeat' first
    | with_reducible assumption
    | with_reducible exact trivial
    | with_reducible intro _
    | split
    | with_reducible apply bumpWrap_inv
    | with_reducible apply streamAgain_inv
    | (dsimp only)
    | (fail_if_no_progress (with_reducible refine inv_mk ?_ rfl rfl))

theorem moveBlocks_inv {g : Nat} {r : Nat} {s : State}  (hs : Inv s) : Inv (moveBlocks g r s) := by
  unfold moveBlocks
  repeat' first
    | with_reducible assumption
    | with_reducible exact trivial
    | with_reducible intro _
    | split
    | (dsimp only)
    | (fail_if_no_progress (with_reducible refine inv_mk ?_ rfl rfl))

theorem moveWork_inv {u : UnitId} {info : Nat} {s : State}  (hs : Inv s) : Inv (moveWork u info s) := by
  unfold moveWork
  repeat' first
    | with_reducible assumption
    | with_reducible exact trivial
    | with_reducible intro _
    | with_reducible refine inv_ite ?_ ?_
    | split
    | with_reducible apply blkFault_inv
    | with_reducible apply ringsMod_inv
    | with_reducible apply recompute_inv
    | with_reducible apply moveBlocks_inv
    | (dsimp only)
    | (fail_if_no_progress (with_reducible refine inv_mk ?_ rfl rfl))

theorem noSpare_inv {u : UnitId} {s : State}  (hs : Inv s) : Inv (noSpare u s) := by
  unfold noSpare
  repeat' first
    | with_reducible assumption
    | with_reducible exact trivial
    | with_reducible intro _
    | with_reducible refine inv_ite ?_ ?_
    | split
    | with_reducible apply enterHold_inv

theorem retireUnit_inv {u : UnitId} {phys : Nat} {cause : Nat} {s : State}  (hs : Inv s) : Inv (retireUnit u phys cause s) := by
  unfold retireUnit
  repeat' first
    | with_reducible assumption
    | with_reducible exact trivial
    | with_reducible intro _
    | with_reducible refine inv_ite ?_ ?_
    | split
    | with_reducible apply raise_inv
    | with_reducible apply advanceEpoch_inv
    | with_reducible apply setMode_inv
    | with_reducible apply applyMapEntry_inv
    | with_reducible apply moveWork_inv
    | with_reducible apply noSpare_inv
    | (dsimp only)
    | (fail_if_no_progress (with_reducible refine inv_mk ?_ rfl rfl))

theorem retireColumn_inv {cl : Nat} {tile : Nat} {col : Nat} {cause : Nat} {s : State}  (hs : Inv s) : Inv (retireColumn cl tile col cause s) := by
  unfold retireColumn
  repeat' first
    | with_reducible assumption
    | with_reducible exact trivial
    | with_reducible intro _
    | with_reducible refine inv_ite ?_ ?_
    | split
    | with_reducible apply raise_inv
    | with_reducible apply recompute_inv
    | with_reducible apply retireUnit_inv

theorem retireMacro_inv {n : Nat} {s : State}  (hs : Inv s) : Inv (retireMacro n s) := by
  unfold retireMacro
  repeat' first
    | with_reducible assumption
    | with_reducible exact trivial
    | with_reducible intro _
    | with_reducible refine inv_ite ?_ ?_
    | split
    | with_reducible apply enterHold_inv

theorem retireAny_inv {u : UnitId} {cause : Nat} {s : State}  (hs : Inv s) : Inv (retireAny u cause s) := by
  unfold retireAny
  repeat' first
    | with_reducible assumption
    | with_reducible exact trivial
    | with_reducible intro _
    | with_reducible refine inv_ite ?_ ?_
    | split
    | with_reducible apply retireUnit_inv
    | with_reducible apply retireColumn_inv
    | with_reducible apply retireMacro_inv

theorem execUnitRetired_inv {u : UnitId} {cause : Nat} {s : State}  (hs : Inv s) : OutInv Inv (execUnitRetired u cause s) := by
  unfold execUnitRetired
  repeat' first
    | with_reducible assumption
    | with_reducible exact trivial
    | with_reducible intro _
    | with_reducible apply out_next
    | split
    | with_reducible apply drainAll_inv
    | with_reducible apply retireAny_inv

theorem execColumnSpared_inv {cluster : Nat} {tile : Nat} {col : Nat} {cause : Nat} {s : State}  (hs : Inv s) : OutInv Inv (execColumnSpared cluster tile col cause s) := by
  unfold execColumnSpared
  repeat' first
    | with_reducible assumption
    | with_reducible exact trivial
    | with_reducible intro _
    | with_reducible apply out_next
    | split
    | with_reducible apply drainAll_inv
    | with_reducible apply retireColumn_inv

theorem unitHang_inv {u : UnitId} {s : State}  (hs : Inv s) : Inv (unitHang u s) := by
  unfold unitHang
  repeat' first
    | with_reducible assumption
    | with_reducible exact trivial
    | with_reducible intro _
    | with_reducible refine inv_ite ?_ ?_
    | split
    | with_reducible apply raise_inv
    | with_reducible apply retireAny_inv

theorem execUnitHang_inv {u : UnitId} {s : State}  (hs : Inv s) : OutInv Inv (execUnitHang u s) := by
  unfold execUnitHang
  repeat' first
    | with_reducible assumption
    | with_reducible exact trivial
    | with_reducible intro _
    | with_reducible apply out_next
    | split
    | with_reducible apply drainAll_inv
    | with_reducible apply unitHang_inv

theorem noteCorrected_inv {key : Nat} {s : State}  (hs : Inv s) : Inv (noteCorrected key s).2 := by
  unfold noteCorrected
  repeat' first
    | with_reducible assumption
    | with_reducible exact trivial
    | with_reducible intro _
    | split
    | (dsimp only)
    | (fail_if_no_progress (with_reducible refine inv_mk ?_ rfl rfl))

theorem accParity_inv {cl : Nat} {row : Nat} {col : Nat} {s : State}  (hs : Inv s) : Inv (accParity cl row col s) := by
  unfold accParity
  repeat' first
    | with_reducible assumption
    | with_reducible exact trivial
    | with_reducible intro _
    | with_reducible refine inv_ite ?_ ?_
    | split
    | with_reducible apply bumpSat_inv
    | with_reducible apply bumpWrap_inv
    | with_reducible apply blkFault_inv
    | with_reducible apply streamAgain_inv
    | with_reducible apply retireColumn_inv
    | with_reducible apply noteCorrected_inv
    | refine inv_snd (by with_reducible assumption) ?_
    | (dsimp only)
    | (fail_if_no_progress (with_reducible refine inv_mk ?_ rfl rfl))

theorem execAccParityError_inv {cluster : Nat} {row : Nat} {col : Nat} {s : State}  (hs : Inv s) : OutInv Inv (execAccParityError cluster row col s) := by
  unfold execAccParityError
  repeat' first
    | with_reducible assumption
    | with_reducible exact trivial
    | with_reducible intro _
    | with_reducible apply out_next
    | split
    | with_reducible apply drainAll_inv
    | with_reducible apply accParity_inv

theorem coreLeaves_inv {k : Nat} {s : State}  (hs : Inv s) : Inv (coreLeaves k s) := by
  unfold coreLeaves
  repeat' first
    | with_reducible assumption
    | with_reducible exact trivial
    | with_reducible intro _
    | split
    | (dsimp only)
    | (fail_if_no_progress (with_reducible refine inv_mk ?_ rfl rfl))

theorem coreReturns_inv {k : Nat} {s : State}  (hs : Inv s) : Inv (coreReturns k s) := by
  unfold coreReturns
  repeat' first
    | with_reducible assumption
    | with_reducible exact trivial
    | with_reducible intro _
    | with_reducible refine inv_ite ?_ ?_
    | split
    | with_reducible apply blkFault_inv
    | (dsimp only)
    | (fail_if_no_progress (with_reducible refine inv_mk ?_ rfl rfl))

theorem unitSleep_inv {u : UnitId} {s : State}  (hs : Inv s) : Inv (unitSleep u s) := by
  unfold unitSleep
  repeat' first
    | with_reducible assumption
    | with_reducible exact trivial
    | with_reducible intro _
    | with_reducible refine inv_ite ?_ ?_
    | split
    | with_reducible apply clusterOut_inv
    | with_reducible apply recompute_inv
    | with_reducible apply coreLeaves_inv
    | (dsimp only)
    | (fail_if_no_progress (with_reducible refine inv_mk ?_ rfl rfl))

theorem execUnitSleep_inv {u : UnitId} {s : State}  (hs : Inv s) : OutInv Inv (execUnitSleep u s) := by
  unfold execUnitSleep
  repeat' first
    | with_reducible assumption
    | with_reducible exact trivial
    | with_reducible intro _
    | with_reducible apply out_next
    | split
    | with_reducible apply unitSleep_inv

theorem unitWake_inv {u : UnitId} {s : State}  (hs : Inv s) : Inv (unitWake u s) := by
  unfold unitWake
  repeat' first
    | with_reducible assumption
    | with_reducible exact trivial
    | with_reducible intro _
    | with_reducible refine inv_ite ?_ ?_
    | split
    | with_reducible apply bumpSat_inv
    | (dsimp only)
    | (fail_if_no_progress (with_reducible refine inv_mk ?_ rfl rfl))

theorem execUnitWake_inv {u : UnitId} {s : State}  (hs : Inv s) : OutInv Inv (execUnitWake u s) := by
  unfold execUnitWake
  repeat' first
    | with_reducible assumption
    | with_reducible exact trivial
    | with_reducible intro _
    | with_reducible apply out_next
    | split
    | with_reducible apply unitWake_inv

theorem unitReturn_inv {u : UnitId} {s : State}  (hs : Inv s) : Inv (unitReturn u s) := by
  unfold unitReturn
  repeat' first
    | with_reducible assumption
    | with_reducible exact trivial
    | with_reducible intro _
    | with_reducible refine inv_ite ?_ ?_
    | split
    | with_reducible refine inv_foldl ?_ ?_
    | with_reducible apply clearBell_inv
    | with_reducible apply recompute_inv
    | with_reducible apply coreReturns_inv
    | (dsimp only)
    | (fail_if_no_progress (with_reducible refine inv_mk ?_ rfl rfl))

theorem execUnitReturn_inv {u : UnitId} {s : State}  (hs : Inv s) : OutInv Inv (execUnitReturn u s) := by
  unfold execUnitReturn
  repeat' first
    | with_reducible assumption
    | with_reducible exact trivial
    | with_reducible intro _
    | with_reducible apply out_next
    | split
    | with_reducible apply unitReturn_inv

theorem unitSelfTest_inv {u : UnitId} {pass : Bool} {s : State}  (hs : Inv s) : Inv (unitSelfTest u pass s) := by
  unfold unitSelfTest
  repeat' first
    | with_reducible assumption
    | with_reducible exact trivial
    | with_reducible intro _
    | with_reducible refine inv_ite ?_ ?_
    | split
    | with_reducible apply ringsMod_inv
    | with_reducible apply clusterOut_inv
    | with_reducible apply recompute_inv
    | with_reducible apply retireAny_inv
    | with_reducible apply coreLeaves_inv
    | (dsimp only)
    | (fail_if_no_progress (with_reducible refine inv_mk ?_ rfl rfl))

theorem execUnitSelfTest_inv {u : UnitId} {pass : Bool} {s : State}  (hs : Inv s) : OutInv Inv (execUnitSelfTest u pass s) := by
  unfold execUnitSelfTest
  repeat' first
    | with_reducible assumption
    | with_reducible exact trivial
    | with_reducible intro _
    | with_reducible apply out_next
    | split
    | with_reducible apply drainAll_inv
    | with_reducible apply unitSelfTest_inv

theorem mapSaved_inv {ok : Bool} {s : State}  (hs : Inv s) : Inv (mapSaved ok s) := by
  unfold mapSaved
  repeat' first
    | with_reducible assumption
    | with_reducible exact trivial
    | with_reducible intro _
    | with_reducible refine inv_ite ?_ ?_
    | split
    | with_reducible apply blkFault_inv
    | (dsimp only)
    | (fail_if_no_progress (with_reducible refine inv_mk ?_ rfl rfl))

theorem execMapSaveDone_inv {ok : Bool} {s : State}  (hs : Inv s) : OutInv Inv (execMapSaveDone ok s) := by
  unfold execMapSaveDone
  repeat' first
    | with_reducible assumption
    | with_reducible exact trivial
    | with_reducible intro _
    | with_reducible apply out_next
    | split
    | with_reducible apply mapSaved_inv

end Sys2Proof.Machine
end

