-- ==== Sys2Proof/Laws/KeepsDrone.lean ====
section
/-! SUPPORT. The functions of Machine/Drone.lean keep the invariant. -/

namespace Sys2Proof.Machine

theorem loseEntry_inv {h : Nat} {slot : Nat} {media : Nat} {s : State}  (hs : Inv s) : Inv (loseEntry h slot media s) := by
  unfold loseEntry
  repeat' first
    | with_reducible assumption
    | with_reducible exact trivial
    | with_reducible intro _
    | split
    | with_reducible apply collMod_inv
    | with_reducible apply journalPut_inv
    | with_reducible apply deferAll_inv
    | with_reducible apply countLost_inv

theorem repairFound_inv {p : Poison} {s : State}  (hs : Inv s) : Inv (repairFound p s) := by
  unfold repairFound
  repeat' first
    | with_reducible assumption
    | with_reducible exact trivial
    | with_reducible intro _
    | with_reducible refine inv_ite ?_ ?_
    | split
    | with_reducible apply blkFault_inv
    | with_reducible apply loseEntry_inv
    | (dsimp only)
    | (fail_if_no_progress (with_reducible refine inv_mk ?_ rfl rfl))

theorem repairAll_inv {h : Nat} {op : Nat} {cut : Nat} {key : Option Nat} {move : Option Move} {s : State}  (hs : Inv s) : Inv (repairAll h op cut key move s) := by
  unfold repairAll
  repeat' first
    | with_reducible assumption
    | with_reducible exact trivial
    | with_reducible intro _
    | split
    | with_reducible refine inv_foldl ?_ ?_
    | with_reducible apply repairFound_inv

theorem raiseDrone_inv {code : Nat} {sev : Nat} {h : Nat} {i0 : Nat} {i1 : Nat} {i2 : Nat} {s : State}  (hs : Inv s) : Inv (raiseDrone code sev h i0 i1 i2 s) := by
  unfold raiseDrone
  repeat' first
    | with_reducible assumption
    | with_reducible exact trivial
    | with_reducible intro _
    | split
    | with_reducible apply raise_inv

theorem maintStalled_inv {h : Nat} {reason : Nat} {s : State}  (hs : Inv s) : Inv (maintStalled h reason s) := by
  unfold maintStalled
  repeat' first
    | with_reducible assumption
    | with_reducible exact trivial
    | with_reducible intro _
    | with_reducible refine inv_ite ?_ ?_
    | split
    | with_reducible apply bumpSat_inv
    | with_reducible apply blkFault_inv
    | with_reducible apply raiseDrone_inv

theorem raiseTierLow_inv {bulk : Bool} {coll : Nat} {s : State}  (hs : Inv s) : Inv (raiseTierLow bulk coll s) := by
  unfold raiseTierLow
  repeat' first
    | with_reducible assumption
    | with_reducible exact trivial
    | with_reducible intro _
    | with_reducible refine inv_ite ?_ ?_
    | split
    | with_reducible apply raise_inv

theorem tierLowCheck_inv {s : State}  (hs : Inv s) : Inv (tierLowCheck s) := by
  unfold tierLowCheck
  repeat' first
    | with_reducible assumption
    | with_reducible exact trivial
    | with_reducible intro _
    | with_reducible refine inv_ite ?_ ?_
    | split
    | with_reducible refine inv_foldl ?_ ?_
    | with_reducible apply raiseTierLow_inv
    | (dsimp only)
    | (fail_if_no_progress (with_reducible refine inv_mk ?_ rfl rfl))

theorem beginCheckpoint_inv {cut : Nat} {s : State}  (hs : Inv s) : Inv (beginCheckpoint cut s) := by
  unfold beginCheckpoint
  repeat' first
    | with_reducible assumption
    | with_reducible exact trivial
    | with_reducible intro _
    | with_reducible refine inv_ite ?_ ?_
    | split
    | (dsimp only)
    | (fail_if_no_progress (with_reducible refine inv_mk ?_ rfl rfl))

theorem syncEntrySet_inv {h : Nat} {s : State}  (hs : Inv s) : Inv (syncEntrySet h s) := by
  unfold syncEntrySet
  repeat' first
    | with_reducible assumption
    | with_reducible exact trivial
    | with_reducible intro _
    | split
    | (dsimp only)
    | (fail_if_no_progress (with_reducible refine inv_mk ?_ rfl rfl))

theorem takeEffect_inv {h : Nat} {op : Nat} {cut : Nat} {seq : Nat} {r : Arranged} {s : State}  (hs : Inv s) : Inv (takeEffect h op cut seq r s) := by
  unfold takeEffect
  repeat' first
    | with_reducible assumption
    | with_reducible exact trivial
    | with_reducible intro _
    | with_reducible refine inv_ite ?_ ?_
    | split
    | with_reducible refine inv_foldl ?_ ?_
    | with_reducible apply collMod_inv
    | with_reducible apply freeStep_inv
    | with_reducible apply syncEntrySet_inv

theorem stallOp_inv {h : Nat} {move : Option Move} {by_ : Option Nat} {s : State}  (hs : Inv s) : Inv (stallOp h move by_ s) := by
  unfold stallOp
  repeat' first
    | with_reducible assumption
    | with_reducible exact trivial
    | with_reducible intro _
    | with_reducible refine inv_ite ?_ ?_
    | split
    | with_reducible apply failCmd_inv
    | with_reducible apply endRun_inv
    | with_reducible apply maintStalled_inv
    | with_reducible apply raiseTierLow_inv

theorem commitOp_inv {h : Nat} {op : Nat} {cut : Nat} {key : Option Nat} {move : Option Move} {by_ : Option Cmd} {r : Arranged} {s : State}  (hs : Inv s) : Inv (commitOp h op cut key move by_ r s) := by
  unfold commitOp
  repeat' first
    | with_reducible assumption
    | with_reducible exact trivial
    | with_reducible intro _
    | with_reducible refine inv_ite ?_ ?_
    | split
    | with_reducible apply bumpSat_inv
    | with_reducible apply bumpWrap_inv
    | with_reducible apply cmdMod_inv
    | with_reducible apply journalPut_inv
    | with_reducible apply beginBarrier_inv
    | with_reducible apply raiseDrone_inv
    | with_reducible apply tierLowCheck_inv
    | with_reducible apply beginCheckpoint_inv
    | with_reducible apply takeEffect_inv

theorem runOp_inv {h : Nat} {op : Nat} {cut : Nat} {key : Option Nat} {move : Option Move} {by_ : Option Nat} {s : State}  (hs : Inv s) : Inv (runOp h op cut key move by_ s) := by
  unfold runOp
  repeat' first
    | with_reducible assumption
    | with_reducible exact trivial
    | with_reducible intro _
    | with_reducible refine inv_ite ?_ ?_
    | split
    | with_reducible apply repairAll_inv
    | with_reducible apply stallOp_inv
    | with_reducible apply commitOp_inv
    | (dsimp only)

theorem foldCommit_inv {h : Nat} {s : State}  (hs : Inv s) : Inv (foldCommit h s) := by
  unfold foldCommit
  repeat' first
    | with_reducible assumption
    | with_reducible exact trivial
    | with_reducible intro _
    | with_reducible refine inv_ite ?_ ?_
    | split
    | with_reducible apply runOp_inv

theorem execFoldCommit_inv {h : Nat} {s : State}  (hs : Inv s) : OutInv Inv (execFoldCommit h s) := by
  unfold execFoldCommit
  repeat' first
    | with_reducible assumption
    | with_reducible exact trivial
    | with_reducible intro _
    | with_reducible apply out_next
    | split
    | with_reducible apply drainAll_inv
    | with_reducible apply foldCommit_inv

theorem startRun_inv {h : Nat} {op : DroneOp} {key : Option Nat} {move : Option Move} {by_ : Option Nat} {s : State}  (hs : Inv s) : Inv (startRun h op key move by_ s) := by
  unfold startRun
  repeat' first
    | with_reducible assumption
    | with_reducible exact trivial
    | with_reducible intro _
    | split
    | with_reducible apply collMod_inv
    | with_reducible apply droneRing_inv

theorem nothingToDo_inv {x : Cmd} {c : Coll} {s : State}  (hs : Inv s) : Inv (nothingToDo x c s) := by
  unfold nothingToDo
  repeat' first
    | with_reducible assumption
    | with_reducible exact trivial
    | with_reducible intro _
    | split
    | with_reducible apply finish_inv

theorem startFold_inv {h : Nat} {c : Coll} {s : State}  (hs : Inv s) : Inv (startFold h c s) := by
  unfold startFold
  repeat' first
    | with_reducible assumption
    | with_reducible exact trivial
    | with_reducible intro _
    | with_reducible refine inv_ite ?_ ?_
    | split
    | with_reducible apply collMod_inv
    | with_reducible apply tierLowCheck_inv
    | with_reducible apply startRun_inv

theorem foldStart_inv {h : Nat} {s : State}  (hs : Inv s) : Inv (foldStart h s) := by
  unfold foldStart
  repeat' first
    | with_reducible assumption
    | with_reducible exact trivial
    | with_reducible intro _
    | with_reducible refine inv_ite ?_ ?_
    | split
    | with_reducible apply startRun_inv
    | with_reducible apply nothingToDo_inv
    | with_reducible apply startFold_inv

theorem execFoldStart_inv {h : Nat} {s : State}  (hs : Inv s) : OutInv Inv (execFoldStart h s) := by
  unfold execFoldStart
  repeat' first
    | with_reducible assumption
    | with_reducible exact trivial
    | with_reducible intro _
    | with_reducible apply out_next
    | split
    | with_reducible apply drainAll_inv
    | with_reducible apply foldStart_inv

theorem foldAge_inv {h : Nat} {s : State}  (hs : Inv s) : Inv (foldAge h s) := by
  unfold foldAge
  repeat' first
    | with_reducible assumption
    | with_reducible exact trivial
    | with_reducible intro _
    | with_reducible refine inv_ite ?_ ?_
    | split
    | with_reducible apply startFold_inv

theorem execFoldAgeExpiry_inv {h : Nat} {s : State}  (hs : Inv s) : OutInv Inv (execFoldAgeExpiry h s) := by
  unfold execFoldAgeExpiry
  repeat' first
    | with_reducible assumption
    | with_reducible exact trivial
    | with_reducible intro _
    | with_reducible apply out_next
    | split
    | with_reducible apply drainAll_inv
    | with_reducible apply foldAge_inv

theorem compactionTrigger_inv {h : Nat} {key : Nat} {s : State}  (hs : Inv s) : Inv (compactionTrigger h key s) := by
  unfold compactionTrigger
  repeat' first
    | with_reducible assumption
    | with_reducible exact trivial
    | with_reducible intro _
    | with_reducible refine inv_ite ?_ ?_
    | split
    | with_reducible apply startRun_inv
    | with_reducible apply nothingToDo_inv

theorem execCompactionTrigger_inv {h : Nat} {key : Nat} {s : State}  (hs : Inv s) : OutInv Inv (execCompactionTrigger h key s) := by
  unfold execCompactionTrigger
  repeat' first
    | with_reducible assumption
    | with_reducible exact trivial
    | with_reducible intro _
    | with_reducible apply out_next
    | split
    | with_reducible apply drainAll_inv
    | with_reducible apply compactionTrigger_inv

theorem settlement_inv {h : Nat} {s : State}  (hs : Inv s) : Inv (settlement h s) := by
  unfold settlement
  repeat' first
    | with_reducible assumption
    | with_reducible exact trivial
    | with_reducible intro _
    | with_reducible refine inv_ite ?_ ?_
    | split
    | with_reducible apply runOp_inv

theorem execTombstoneSettlement_inv {h : Nat} {s : State}  (hs : Inv s) : OutInv Inv (execTombstoneSettlement h s) := by
  unfold execTombstoneSettlement
  repeat' first
    | with_reducible assumption
    | with_reducible exact trivial
    | with_reducible intro _
    | with_reducible apply out_next
    | split
    | with_reducible apply drainAll_inv
    | with_reducible apply settlement_inv

theorem reencodeStep_inv {h : Nat} {s : State}  (hs : Inv s) : Inv (reencodeStep h s) := by
  unfold reencodeStep
  repeat' first
    | with_reducible assumption
    | with_reducible exact trivial
    | with_reducible intro _
    | with_reducible refine inv_ite ?_ ?_
    | split
    | with_reducible apply startRun_inv

theorem execReencodeStep_inv {h : Nat} {s : State}  (hs : Inv s) : OutInv Inv (execReencodeStep h s) := by
  unfold execReencodeStep
  repeat' first
    | with_reducible assumption
    | with_reducible exact trivial
    | with_reducible intro _
    | with_reducible apply out_next
    | split
    | with_reducible apply drainAll_inv
    | with_reducible apply reencodeStep_inv

theorem repartition_inv {h : Nat} {s : State}  (hs : Inv s) : Inv (repartition h s) := by
  unfold repartition
  repeat' first
    | with_reducible assumption
    | with_reducible exact trivial
    | with_reducible intro _
    | with_reducible refine inv_ite ?_ ?_
    | split
    | with_reducible apply collMod_inv
    | with_reducible apply startRun_inv

theorem execRepartition_inv {h : Nat} {s : State}  (hs : Inv s) : OutInv Inv (execRepartition h s) := by
  unfold execRepartition
  repeat' first
    | with_reducible assumption
    | with_reducible exact trivial
    | with_reducible intro _
    | with_reducible apply out_next
    | split
    | with_reducible apply drainAll_inv
    | with_reducible apply repartition_inv

theorem indexBuild_inv {h : Nat} {s : State}  (hs : Inv s) : Inv (indexBuild h s) := by
  unfold indexBuild
  repeat' first
    | with_reducible assumption
    | with_reducible exact trivial
    | with_reducible intro _
    | with_reducible refine inv_ite ?_ ?_
    | split
    | with_reducible apply startRun_inv

theorem execIndexBuild_inv {h : Nat} {s : State}  (hs : Inv s) : OutInv Inv (execIndexBuild h s) := by
  unfold execIndexBuild
  repeat' first
    | with_reducible assumption
    | with_reducible exact trivial
    | with_reducible intro _
    | with_reducible apply out_next
    | split
    | with_reducible apply drainAll_inv
    | with_reducible apply indexBuild_inv

theorem reencodeDone_inv {h : Nat} {s : State}  (hs : Inv s) : Inv (reencodeDone h s) := by
  unfold reencodeDone
  repeat' first
    | with_reducible assumption
    | with_reducible exact trivial
    | with_reducible intro _
    | with_reducible refine inv_ite ?_ ?_
    | split
    | with_reducible refine inv_foldl ?_ ?_
    | with_reducible apply bumpSat_inv
    | with_reducible apply collMod_inv
    | with_reducible apply journalOwn_inv
    | with_reducible apply beginBarrier_inv
    | with_reducible apply loseEntry_inv
    | with_reducible apply raiseDrone_inv

theorem execReencodeDone_inv {h : Nat} {s : State}  (hs : Inv s) : OutInv Inv (execReencodeDone h s) := by
  unfold execReencodeDone
  repeat' first
    | with_reducible assumption
    | with_reducible exact trivial
    | with_reducible intro _
    | with_reducible apply out_next
    | split
    | with_reducible apply drainAll_inv
    | with_reducible apply reencodeDone_inv

theorem slotRelease_inv {h : Nat} {s : State}  (hs : Inv s) : Inv (slotRelease h s) := by
  unfold slotRelease
  repeat' first
    | with_reducible assumption
    | with_reducible exact trivial
    | with_reducible intro _
    | with_reducible refine inv_ite ?_ ?_
    | split
    | with_reducible apply collMod_inv
    | with_reducible apply journalOwn_inv
    | refine inv_snd (by with_reducible assumption) ?_
    | (dsimp only)
    | (fail_if_no_progress (with_reducible refine inv_mk ?_ rfl rfl))

theorem execSlotRelease_inv {h : Nat} {s : State}  (hs : Inv s) : OutInv Inv (execSlotRelease h s) := by
  unfold execSlotRelease
  repeat' first
    | with_reducible assumption
    | with_reducible exact trivial
    | with_reducible intro _
    | with_reducible apply out_next
    | split
    | with_reducible apply drainAll_inv
    | with_reducible apply slotRelease_inv

theorem patchApply_inv {h : Nat} {s : State}  (hs : Inv s) : Inv (patchApply h s) := by
  unfold patchApply
  repeat' first
    | with_reducible assumption
    | with_reducible exact trivial
    | with_reducible intro _
    | with_reducible refine inv_ite ?_ ?_
    | split
    | with_reducible apply collMod_inv

theorem execPatchApply_inv {h : Nat} {s : State}  (hs : Inv s) : OutInv Inv (execPatchApply h s) := by
  unfold execPatchApply
  repeat' first
    | with_reducible assumption
    | with_reducible exact trivial
    | with_reducible intro _
    | with_reducible apply out_next
    | split
    | with_reducible apply patchApply_inv

theorem autoEvaluation_inv {s : State}  (hs : Inv s) : Inv (autoEvaluation s) := by
  unfold autoEvaluation
  repeat' first
    | with_reducible assumption
    | with_reducible exact trivial
    | with_reducible intro _
    | with_reducible refine inv_ite ?_ ?_
    | split
    | with_reducible apply tierLowCheck_inv
    | (dsimp only)
    | (fail_if_no_progress (with_reducible refine inv_mk ?_ rfl rfl))

theorem execAutoEvaluation_inv {s : State}  (hs : Inv s) : OutInv Inv (execAutoEvaluation s) := by
  unfold execAutoEvaluation
  repeat' first
    | with_reducible assumption
    | with_reducible exact trivial
    | with_reducible intro _
    | with_reducible apply out_next
    | split
    | with_reducible apply drainAll_inv
    | with_reducible apply autoEvaluation_inv

end Sys2Proof.Machine
end

