-- ==== Sys2Proof/Laws/KeepsBag.lean ====
section
/-! SUPPORT. The functions of Machine/Bag.lean keep the invariant. -/

namespace Sys2Proof.Machine

theorem bagMod_inv {f : Bag → Bag} {s : State}  (hs : Inv s) : Inv (bagMod f s) := by
  unfold bagMod
  repeat' first
    | with_reducible assumption
    | with_reducible exact trivial
    | with_reducible intro _
    | split
    | (dsimp only)
    | (fail_if_no_progress (with_reducible refine inv_mk ?_ rfl rfl))

theorem raiseWear_inv {ch : Nat} {pct : Nat} {s : State}  (hs : Inv s) : Inv (raiseWear ch pct s) := by
  unfold raiseWear
  repeat' first
    | with_reducible assumption
    | with_reducible exact trivial
    | with_reducible intro _
    | split
    | with_reducible apply raiseFault_inv

theorem countWritten_inv {n : Nat} {s : State}  (hs : Inv s) : Inv (countWritten n s) := by
  unfold countWritten
  repeat' first
    | with_reducible assumption
    | with_reducible exact trivial
    | with_reducible intro _
    | with_reducible refine inv_ite ?_ ?_
    | split
    | with_reducible refine inv_foldl ?_ ?_
    | with_reducible apply bumpWrap_inv
    | with_reducible apply raiseWear_inv

theorem chargeUnits_inv {stripe : Nat} {n : Nat} {s : State}  (hs : Inv s) : Inv (chargeUnits stripe n s) := by
  unfold chargeUnits
  repeat' first
    | with_reducible assumption
    | with_reducible exact trivial
    | with_reducible intro _
    | split
    | with_reducible refine inv_foldl ?_ ?_
    | with_reducible apply setEngine_inv

theorem putStripe_inv {seqs : List Nat} {s : State}  (hs : Inv s) : Inv (putStripe seqs s) := by
  unfold putStripe
  repeat' first
    | with_reducible assumption
    | with_reducible exact trivial
    | with_reducible intro _
    | with_reducible refine inv_ite ?_ ?_
    | split
    | with_reducible apply bagMod_inv
    | with_reducible apply chargeUnits_inv

theorem flushGoOn_inv {x : Cmd} {n : Nat} {s : State}  (hs : Inv s) : Inv (flushGoOn x n s) := by
  unfold flushGoOn
  repeat' first
    | with_reducible assumption
    | with_reducible exact trivial
    | with_reducible intro _
    | with_reducible refine inv_ite ?_ ?_
    | split
    | with_reducible apply cmdMod_inv
    | with_reducible apply setWork_inv
    | with_reducible apply finish_inv
    | with_reducible apply failCmd_inv

theorem wakeFlush_inv {s : State}  (hs : Inv s) : Inv (wakeFlush s) := by
  unfold wakeFlush
  repeat' first
    | with_reducible assumption
    | with_reducible exact trivial
    | with_reducible intro _
    | split
    | with_reducible refine inv_foldl ?_ ?_
    | with_reducible apply flushGoOn_inv

theorem flush_inv {c : Nat} {s : State}  (hs : Inv s) : Inv (flush c s) := by
  unfold flush
  repeat' first
    | with_reducible assumption
    | with_reducible exact trivial
    | with_reducible intro _
    | split
    | with_reducible refine inv_foldl ?_ ?_
    | with_reducible apply closeStripe_inv
    | with_reducible apply flushGoOn_inv

theorem execFlush_inv {c : Nat} {s : State}  (hs : Inv s) : OutInv Inv (execFlush c s) := by
  unfold execFlush
  repeat' first
    | with_reducible assumption
    | with_reducible exact trivial
    | with_reducible intro _
    | with_reducible apply out_next
    | split
    | with_reducible apply drainAll_inv
    | with_reducible apply flush_inv

theorem barrier_inv {c : Nat} {s : State}  (hs : Inv s) : Inv (barrier c s) := by
  unfold barrier
  repeat' first
    | with_reducible assumption
    | with_reducible exact trivial
    | with_reducible intro _
    | with_reducible refine inv_ite ?_ ?_
    | split
    | with_reducible apply setWork_inv
    | with_reducible apply finish_inv

theorem execBarrier_inv {c : Nat} {s : State}  (hs : Inv s) : OutInv Inv (execBarrier c s) := by
  unfold execBarrier
  repeat' first
    | with_reducible assumption
    | with_reducible exact trivial
    | with_reducible intro _
    | with_reducible apply out_next
    | split
    | with_reducible apply barrier_inv

theorem wakeDrained_inv {s : State}  (hs : Inv s) : Inv (wakeDrained s) := by
  unfold wakeDrained
  repeat' first
    | with_reducible assumption
    | with_reducible exact trivial
    | with_reducible intro _
    | split
    | with_reducible apply wakeFlash_inv
    | with_reducible apply wakeFlush_inv

theorem mirrorTake_inv {i : Nat} {s : State}  (hs : Inv s) : Inv (mirrorTake i s) := by
  unfold mirrorTake
  repeat' first
    | with_reducible assumption
    | with_reducible exact trivial
    | with_reducible intro _
    | split
    | with_reducible apply sendMsg_inv
    | with_reducible apply peerMod_inv
    | (dsimp only)

theorem mirrorDrain_inv {s : State}  (hs : Inv s) : Inv (mirrorDrain s) := by
  unfold mirrorDrain
  repeat' first
    | with_reducible assumption
    | with_reducible exact trivial
    | with_reducible intro _
    | split
    | with_reducible refine inv_foldl ?_ ?_
    | with_reducible refine snd_foldl ?_ ?_
    | with_reducible apply peerMod_inv
    | with_reducible apply mirrorTake_inv

theorem stripeProgrammed_inv {s : State}  (hs : Inv s) : Inv (stripeProgrammed s) := by
  unfold stripeProgrammed
  repeat' first
    | with_reducible assumption
    | with_reducible exact trivial
    | with_reducible intro _
    | with_reducible refine inv_ite ?_ ?_
    | split
    | with_reducible apply countWritten_inv
    | with_reducible apply putStripe_inv
    | with_reducible apply wakeDrained_inv
    | with_reducible apply mirrorDrain_inv

theorem execStripeProgrammed_inv {s : State}  (hs : Inv s) : OutInv Inv (execStripeProgrammed s) := by
  unfold execStripeProgrammed
  repeat' first
    | with_reducible assumption
    | with_reducible exact trivial
    | with_reducible intro _
    | with_reducible apply out_next
    | split
    | with_reducible apply drainAll_inv
    | with_reducible apply stripeProgrammed_inv

theorem drainTimeout_inv {s : State}  (hs : Inv s) : Inv (drainTimeout s) := by
  unfold drainTimeout
  repeat' first
    | with_reducible assumption
    | with_reducible exact trivial
    | with_reducible intro _
    | with_reducible refine inv_ite ?_ ?_
    | split
    | with_reducible refine inv_foldl ?_ ?_
    | with_reducible apply closeStripe_inv

theorem execDrainTimeout_inv {s : State}  (hs : Inv s) : OutInv Inv (execDrainTimeout s) := by
  unfold execDrainTimeout
  repeat' first
    | with_reducible assumption
    | with_reducible exact trivial
    | with_reducible intro _
    | with_reducible apply out_next
    | split
    | with_reducible apply drainTimeout_inv

theorem takeCheckpoint_inv {s : State}  (hs : Inv s) : Inv (takeCheckpoint s) := by
  unfold takeCheckpoint
  repeat' first
    | with_reducible assumption
    | with_reducible exact trivial
    | with_reducible intro _
    | with_reducible refine inv_ite ?_ ?_
    | split
    | with_reducible apply beginCheckpoint_inv
    | with_reducible apply runOp_inv

theorem checkpointNow_inv {c : Nat} {s : State}  (hs : Inv s) : Inv (checkpointNow c s) := by
  unfold checkpointNow
  repeat' first
    | with_reducible assumption
    | with_reducible exact trivial
    | with_reducible intro _
    | with_reducible refine inv_ite ?_ ?_
    | split
    | with_reducible apply setWork_inv
    | with_reducible apply bagMod_inv

theorem execCheckpointNow_inv {c : Nat} {s : State}  (hs : Inv s) : OutInv Inv (execCheckpointNow c s) := by
  unfold execCheckpointNow
  repeat' first
    | with_reducible assumption
    | with_reducible exact trivial
    | with_reducible intro _
    | with_reducible apply out_next
    | split
    | with_reducible apply checkpointNow_inv

theorem checkpointSet_inv {c : Nat} {s : State}  (hs : Inv s) : Inv (checkpointSet c s) := by
  unfold checkpointSet
  repeat' first
    | with_reducible assumption
    | with_reducible exact trivial
    | with_reducible intro _
    | with_reducible refine inv_ite ?_ ?_
    | split
    | with_reducible apply regField_inv
    | with_reducible apply finish_inv

theorem execCheckpointSetInterval_inv {c : Nat} {s : State}  (hs : Inv s) : OutInv Inv (execCheckpointSetInterval c s) := by
  unfold execCheckpointSetInterval
  repeat' first
    | with_reducible assumption
    | with_reducible exact trivial
    | with_reducible intro _
    | with_reducible apply out_next
    | split
    | with_reducible apply checkpointSet_inv

theorem checkpointWait_inv {c : Nat} {s : State}  (hs : Inv s) : Inv (checkpointWait c s) := by
  unfold checkpointWait
  repeat' first
    | with_reducible assumption
    | with_reducible exact trivial
    | with_reducible intro _
    | with_reducible refine inv_ite ?_ ?_
    | split
    | with_reducible apply takeCheckpoint_inv

theorem execCheckpointWaitExpiry_inv {c : Nat} {s : State}  (hs : Inv s) : OutInv Inv (execCheckpointWaitExpiry c s) := by
  unfold execCheckpointWaitExpiry
  repeat' first
    | with_reducible assumption
    | with_reducible exact trivial
    | with_reducible intro _
    | with_reducible apply out_next
    | split
    | with_reducible apply drainAll_inv
    | with_reducible apply checkpointWait_inv

theorem checkpointTimer_inv {s : State}  (hs : Inv s) : Inv (checkpointTimer s) := by
  unfold checkpointTimer
  repeat' first
    | with_reducible assumption
    | with_reducible exact trivial
    | with_reducible intro _
    | with_reducible refine inv_ite ?_ ?_
    | split
    | with_reducible apply bagMod_inv

theorem execCheckpointTimer_inv {s : State}  (hs : Inv s) : OutInv Inv (execCheckpointTimer s) := by
  unfold execCheckpointTimer
  repeat' first
    | with_reducible assumption
    | with_reducible exact trivial
    | with_reducible intro _
    | with_reducible apply out_next
    | split
    | with_reducible apply checkpointTimer_inv

theorem countDead_inv {s : State}  (hs : Inv s) : Inv (countDead s) := by
  unfold countDead
  repeat' first
    | with_reducible assumption
    | with_reducible exact trivial
    | with_reducible intro _
    | with_reducible refine inv_ite ?_ ?_
    | split
    | with_reducible apply bagMod_inv

theorem sendTrim_inv {s : State}  (hs : Inv s) : Inv (sendTrim s) := by
  unfold sendTrim
  repeat' first
    | with_reducible assumption
    | with_reducible exact trivial
    | with_reducible intro _
    | with_reducible refine inv_ite ?_ ?_
    | split
    | with_reducible apply sendMsg_inv
    | with_reducible apply bagMod_inv

theorem writeRoot_inv {cut : Nat} {img : Image} {s : State}  (hs : Inv s) : Inv (writeRoot cut img s) := by
  unfold writeRoot
  repeat' first
    | with_reducible assumption
    | with_reducible exact trivial
    | with_reducible intro _
    | with_reducible refine inv_ite ?_ ?_
    | split
    | with_reducible apply bagMod_inv

theorem wakeCheckpoints_inv {s : State}  (hs : Inv s) : Inv (wakeCheckpoints s) := by
  unfold wakeCheckpoints
  repeat' first
    | with_reducible assumption
    | with_reducible exact trivial
    | with_reducible intro _
    | with_reducible refine inv_ite ?_ ?_
    | split
    | with_reducible refine inv_foldl ?_ ?_
    | with_reducible apply finish_inv

theorem checkpointDone_inv {s : State}  (hs : Inv s) : Inv (checkpointDone s) := by
  unfold checkpointDone
  repeat' first
    | with_reducible assumption
    | with_reducible exact trivial
    | with_reducible intro _
    | with_reducible refine inv_ite ?_ ?_
    | split
    | with_reducible apply raise_inv
    | with_reducible apply bagMod_inv
    | with_reducible apply countWritten_inv
    | with_reducible apply countDead_inv
    | with_reducible apply sendTrim_inv
    | with_reducible apply writeRoot_inv
    | with_reducible apply wakeCheckpoints_inv

theorem execCheckpointDone_inv {s : State}  (hs : Inv s) : OutInv Inv (execCheckpointDone s) := by
  unfold execCheckpointDone
  repeat' first
    | with_reducible assumption
    | with_reducible exact trivial
    | with_reducible intro _
    | with_reducible apply out_next
    | split
    | with_reducible apply drainAll_inv
    | with_reducible apply checkpointDone_inv

theorem loseSources_inv {h : Nat} {slots : List Nat} {s : State}  (hs : Inv s) : Inv (loseSources h slots s) := by
  unfold loseSources
  repeat' first
    | with_reducible assumption
    | with_reducible exact trivial
    | with_reducible intro _
    | with_reducible refine inv_ite ?_ ?_
    | split
    | with_reducible apply collMod_inv

theorem recMod_inv {seq : Nat} {f : JRec → JRec} {s : State}  (hs : Inv s) : Inv (recMod seq f s) := by
  unfold recMod
  repeat' first
    | with_reducible assumption
    | with_reducible exact trivial
    | with_reducible intro _
    | with_reducible refine inv_ite ?_ ?_
    | split
    | with_reducible apply bagMod_inv

theorem poisonSource_inv {r : JRec} {s : State}  (hs : Inv s) : Inv (poisonSource r s) := by
  unfold poisonSource
  repeat' first
    | with_reducible assumption
    | with_reducible exact trivial
    | with_reducible intro _
    | split
    | with_reducible apply deferAll_inv
    | with_reducible apply countLost_inv
    | with_reducible apply loseSources_inv
    | with_reducible apply recMod_inv

theorem poisonRecord_inv {r : JRec} {headerOk : Bool} {s : State}  (hs : Inv s) : Inv (poisonRecord r headerOk s) := by
  unfold poisonRecord
  repeat' first
    | with_reducible assumption
    | with_reducible exact trivial
    | with_reducible intro _
    | with_reducible refine inv_ite ?_ ?_
    | split
    | with_reducible apply deferAll_inv
    | with_reducible apply countLost_inv
    | with_reducible apply bagMod_inv
    | with_reducible apply takeCheckpoint_inv
    | with_reducible apply loseSources_inv
    | with_reducible apply recMod_inv

theorem journalPoison_inv {seq : Nat} {headerOk : Bool} {s : State}  (hs : Inv s) : Inv (journalPoison seq headerOk s) := by
  unfold journalPoison
  repeat' first
    | with_reducible assumption
    | with_reducible exact trivial
    | with_reducible intro _
    | with_reducible refine inv_ite ?_ ?_
    | split
    | with_reducible apply blkFault_inv
    | with_reducible apply poisonSource_inv
    | with_reducible apply poisonRecord_inv

theorem execJournalPoison_inv {seq : Nat} {headerOk : Bool} {s : State}  (hs : Inv s) : OutInv Inv (execJournalPoison seq headerOk s) := by
  unfold execJournalPoison
  repeat' first
    | with_reducible assumption
    | with_reducible exact trivial
    | with_reducible intro _
    | with_reducible apply out_next
    | split
    | with_reducible apply drainAll_inv
    | with_reducible apply journalPoison_inv

theorem logCleaning_inv {n : Nat} {s : State}  (hs : Inv s) : Inv (logCleaning n s) := by
  unfold logCleaning
  repeat' first
    | with_reducible assumption
    | with_reducible exact trivial
    | with_reducible intro _
    | with_reducible refine inv_ite ?_ ?_
    | split
    | with_reducible apply bagMod_inv
    | with_reducible apply countWritten_inv
    | with_reducible apply putStripe_inv
    | with_reducible apply countDead_inv
    | (dsimp only)

theorem execLogCleaning_inv {stripe : Nat} {s : State}  (hs : Inv s) : OutInv Inv (execLogCleaning stripe s) := by
  unfold execLogCleaning
  repeat' first
    | with_reducible assumption
    | with_reducible exact trivial
    | with_reducible intro _
    | with_reducible apply out_next
    | split
    | with_reducible apply drainAll_inv
    | with_reducible apply logCleaning_inv

theorem rewriteStripe_inv {n : Nat} {s : State}  (hs : Inv s) : Inv (rewriteStripe n s) := by
  unfold rewriteStripe
  repeat' first
    | with_reducible assumption
    | with_reducible exact trivial
    | with_reducible intro _
    | with_reducible refine inv_ite ?_ ?_
    | split
    | with_reducible apply bagMod_inv
    | with_reducible apply countWritten_inv
    | with_reducible apply putStripe_inv

theorem spareCheck_inv {ch : Nat} {die : Nat} {s : State}  (hs : Inv s) : Inv (spareCheck ch die s) := by
  unfold spareCheck
  repeat' first
    | with_reducible assumption
    | with_reducible exact trivial
    | with_reducible intro _
    | with_reducible refine inv_ite ?_ ?_
    | split
    | with_reducible apply enterHold_inv

theorem pageFailed_inv {ch : Nat} {die : Nat} {s : State}  (hs : Inv s) : Inv (pageFailed ch die s) := by
  unfold pageFailed
  repeat' first
    | with_reducible assumption
    | with_reducible exact trivial
    | with_reducible intro _
    | split
    | with_reducible apply bagMod_inv
    | with_reducible apply spareCheck_inv

theorem loseMembers_inv {ch : Nat} {die : Nat} {whole : Bool} {s : State}  (hs : Inv s) : Inv (loseMembers ch die whole s) := by
  unfold loseMembers
  repeat' first
    | with_reducible assumption
    | with_reducible exact trivial
    | with_reducible intro _
    | split
    | with_reducible apply bagMod_inv

theorem raiseMember_inv {ch : Nat} {die : Nat} {spare : Bool} {hold : Bool} {media : Nat} {s : State}  (hs : Inv s) : Inv (raiseMember ch die spare hold media s) := by
  unfold raiseMember
  repeat' first
    | with_reducible assumption
    | with_reducible exact trivial
    | with_reducible intro _
    | split
    | with_reducible apply raiseFault_inv

theorem redundancyGone_inv {ch : Nat} {die : Nat} {media : Nat} {s : State}  (hs : Inv s) : Inv (redundancyGone ch die media s) := by
  unfold redundancyGone
  repeat' first
    | with_reducible assumption
    | with_reducible exact trivial
    | with_reducible intro _
    | split
    | with_reducible apply enterHold_inv
    | with_reducible apply bagMod_inv
    | with_reducible apply raiseMember_inv

theorem dieFailed_inv {ch : Nat} {die : Nat} {media : Nat} {s : State}  (hs : Inv s) : Inv (dieFailed ch die media s) := by
  unfold dieFailed
  repeat' first
    | with_reducible assumption
    | with_reducible exact trivial
    | with_reducible intro _
    | with_reducible refine inv_ite ?_ ?_
    | split
    | with_reducible apply bagRing_inv
    | with_reducible apply bagMod_inv
    | with_reducible apply loseMembers_inv
    | with_reducible apply raiseMember_inv
    | with_reducible apply redundancyGone_inv

theorem memberFailed_inv {whole : Nat} {ch : Nat} {die : Nat} {media : Nat} {s : State}  (hs : Inv s) : Inv (memberFailed whole ch die media s) := by
  unfold memberFailed
  repeat' first
    | with_reducible assumption
    | with_reducible exact trivial
    | with_reducible intro _
    | with_reducible refine inv_ite ?_ ?_
    | split
    | with_reducible apply bagMod_inv
    | with_reducible apply rewriteStripe_inv
    | with_reducible apply pageFailed_inv
    | with_reducible apply loseMembers_inv
    | with_reducible apply redundancyGone_inv
    | with_reducible apply dieFailed_inv
    | (dsimp only)

theorem execMemberFailed_inv {whole : Nat} {channel : Nat} {die : Nat} {media : Nat} {s : State}  (hs : Inv s) : OutInv Inv (execMemberFailed whole channel die media s) := by
  unfold execMemberFailed
  repeat' first
    | with_reducible assumption
    | with_reducible exact trivial
    | with_reducible intro _
    | with_reducible apply out_next
    | split
    | with_reducible apply drainAll_inv
    | with_reducible apply memberFailed_inv

theorem rebuildDone_inv {ch : Nat} {stripes : Nat} {s : State}  (hs : Inv s) : Inv (rebuildDone ch stripes s) := by
  unfold rebuildDone
  repeat' first
    | with_reducible assumption
    | with_reducible exact trivial
    | with_reducible intro _
    | split
    | with_reducible apply raise_inv
    | with_reducible apply freeBagRing_inv
    | with_reducible apply bagMod_inv
    | with_reducible apply countWritten_inv

theorem execRebuildDone_inv {channel : Nat} {stripes : Nat} {s : State}  (hs : Inv s) : OutInv Inv (execRebuildDone channel stripes s) := by
  unfold execRebuildDone
  repeat' first
    | with_reducible assumption
    | with_reducible exact trivial
    | with_reducible intro _
    | with_reducible apply out_next
    | split
    | with_reducible apply drainAll_inv
    | with_reducible apply rebuildDone_inv

theorem flashScrub_inv {n : Nat} {unit : Nat} {refresh : Bool} {unreadable : Bool} {s : State}  (hs : Inv s) : Inv (flashScrub n unit refresh unreadable s) := by
  unfold flashScrub
  repeat' first
    | with_reducible assumption
    | with_reducible exact trivial
    | with_reducible intro _
    | with_reducible refine inv_ite ?_ ?_
    | split
    | with_reducible apply rewriteStripe_inv
    | with_reducible apply pageFailed_inv

theorem execFlashScrub_inv {stripe : Nat} {unit : Nat} {refresh : Bool} {unreadable : Bool} {s : State}  (hs : Inv s) : OutInv Inv (execFlashScrub stripe unit refresh unreadable s) := by
  unfold execFlashScrub
  repeat' first
    | with_reducible assumption
    | with_reducible exact trivial
    | with_reducible intro _
    | with_reducible apply out_next
    | split
    | with_reducible apply drainAll_inv
    | with_reducible apply flashScrub_inv

theorem loseRecord_inv {media : Nat} {r : JRec} {s : State}  (hs : Inv s) : Inv (loseRecord media r s).2 := by
  unfold loseRecord
  repeat' first
    | with_reducible assumption
    | with_reducible exact trivial
    | with_reducible intro _
    | with_reducible refine snd_ite ?_ ?_
    | with_reducible refine inv_ite ?_ ?_
    | split
    | with_reducible apply deferAll_inv
    | with_reducible apply loseSources_inv
    | with_reducible apply recMod_inv

theorem fetchRecords_inv {rs : List JRec} {s : State}  (hs : Inv s) : Inv (fetchRecords rs s) := by
  unfold fetchRecords
  repeat' first
    | with_reducible assumption
    | with_reducible exact trivial
    | with_reducible intro _
    | with_reducible refine inv_ite ?_ ?_
    | split
    | with_reducible apply sendMsg_inv
    | (dsimp only)
    | (fail_if_no_progress (with_reducible refine inv_mk ?_ rfl rfl))

theorem raiseStripe_inv {n : Nat} {media : Nat} {entries : Nat} {refilled : Nat} {s : State}  (hs : Inv s) : Inv (raiseStripe n media entries refilled s) := by
  unfold raiseStripe
  repeat' first
    | with_reducible assumption
    | with_reducible exact trivial
    | with_reducible intro _
    | split
    | with_reducible apply bumpSat_inv
    | with_reducible apply raiseFault_inv
    | with_reducible apply countLost_inv

theorem logStripeLost_inv {st : Stripe} {media : Nat} {refilled : List Nat} {unread : List Nat} {s : State}  (hs : Inv s) : Inv (logStripeLost st media refilled unread s) := by
  unfold logStripeLost
  repeat' first
    | with_reducible assumption
    | with_reducible exact trivial
    | with_reducible intro _
    | with_reducible refine inv_ite ?_ ?_
    | split
    | with_reducible refine inv_foldl ?_ ?_
    | with_reducible refine snd_foldl ?_ ?_
    | with_reducible apply bagMod_inv
    | with_reducible apply putStripe_inv
    | with_reducible apply wakeFlush_inv
    | with_reducible apply recMod_inv
    | with_reducible apply loseRecord_inv
    | with_reducible apply fetchRecords_inv
    | with_reducible apply raiseStripe_inv
    | refine inv_snd (by with_reducible assumption) ?_

theorem areaStripeLost_inv {n : Nat} {media : Nat} {g : Gone} {s : State}  (hs : Inv s) : Inv (areaStripeLost n media g s) := by
  unfold areaStripeLost
  repeat' first
    | with_reducible assumption
    | with_reducible exact trivial
    | with_reducible intro _
    | split
    | with_reducible apply bagMod_inv
    | with_reducible apply raiseStripe_inv

theorem stripeLost_inv {n : Nat} {member : Nat} {refilled : List Nat} {unread : List Nat} {g : Gone} {s : State}  (hs : Inv s) : Inv (stripeLost n member refilled unread g s) := by
  unfold stripeLost
  repeat' first
    | with_reducible assumption
    | with_reducible exact trivial
    | with_reducible intro _
    | with_reducible refine inv_ite ?_ ?_
    | split
    | with_reducible apply logStripeLost_inv
    | with_reducible apply areaStripeLost_inv

theorem execStripeLost_inv {stripe : Nat} {member : Nat} {refilled : List Nat} {unread : List Nat} {gone : Gone} {s : State}  (hs : Inv s) : OutInv Inv (execStripeLost stripe member refilled unread gone s) := by
  unfold execStripeLost
  repeat' first
    | with_reducible assumption
    | with_reducible exact trivial
    | with_reducible intro _
    | with_reducible apply out_next
    | split
    | with_reducible apply drainAll_inv
    | with_reducible apply stripeLost_inv

theorem raiseHoldup_inv {sev : Nat} {full : Nat} {s : State}  (hs : Inv s) : Inv (raiseHoldup sev full s) := by
  unfold raiseHoldup
  repeat' first
    | with_reducible assumption
    | with_reducible exact trivial
    | with_reducible intro _
    | split
    | with_reducible apply raiseFault_inv

theorem bankFails_inv {s : State}  (hs : Inv s) : Inv (bankFails s) := by
  unfold bankFails
  repeat' first
    | with_reducible assumption
    | with_reducible exact trivial
    | with_reducible intro _
    | with_reducible refine inv_ite ?_ ?_
    | split
    | with_reducible apply enterHold_inv
    | with_reducible apply bagMod_inv
    | with_reducible apply raiseHoldup_inv
    | (dsimp only)
    | (fail_if_no_progress (with_reducible refine inv_mk ?_ rfl rfl))

theorem holdupMeasurement_inv {full : Nat} {now_ : Nat} {s : State}  (hs : Inv s) : Inv (holdupMeasurement full now_ s) := by
  unfold holdupMeasurement
  repeat' first
    | with_reducible assumption
    | with_reducible exact trivial
    | with_reducible intro _
    | with_reducible refine inv_ite ?_ ?_
    | split
    | with_reducible apply bagMod_inv
    | with_reducible apply raiseHoldup_inv
    | with_reducible apply bankFails_inv

theorem execHoldupMeasurement_inv {fullMj : Nat} {nowMj : Nat} {s : State}  (hs : Inv s) : OutInv Inv (execHoldupMeasurement fullMj nowMj s) := by
  unfold execHoldupMeasurement
  repeat' first
    | with_reducible assumption
    | with_reducible exact trivial
    | with_reducible intro _
    | with_reducible apply out_next
    | split
    | with_reducible apply drainAll_inv
    | with_reducible apply holdupMeasurement_inv

theorem execHoldupChargeTimeout_inv {s : State}  (hs : Inv s) : OutInv Inv (execHoldupChargeTimeout s) := by
  unfold execHoldupChargeTimeout
  repeat' first
    | with_reducible assumption
    | with_reducible exact trivial
    | with_reducible intro _
    | with_reducible refine out_ite ?_ ?_
    | with_reducible refine inv_ite ?_ ?_
    | with_reducible apply out_next
    | split
    | with_reducible apply drainAll_inv
    | with_reducible apply bankFails_inv

theorem execHoldupThresholdReached_inv {nowMj : Nat} {s : State}  (hs : Inv s) : OutInv Inv (execHoldupThresholdReached nowMj s) := by
  unfold execHoldupThresholdReached
  repeat' first
    | with_reducible assumption
    | with_reducible exact trivial
    | with_reducible intro _
    | with_reducible refine out_ite ?_ ?_
    | with_reducible refine inv_ite ?_ ?_
    | with_reducible apply out_next
    | split
    | with_reducible apply bagMod_inv

theorem beginLoss_inv {s : State}  (hs : Inv s) : Inv (beginLoss s) := by
  unfold beginLoss
  repeat' first
    | with_reducible assumption
    | with_reducible exact trivial
    | with_reducible intro _
    | split
    | (dsimp only)
    | (fail_if_no_progress (with_reducible refine inv_mk ?_ rfl rfl))

theorem powerLoss_inv {s : State}  (hs : Inv s) : Inv (powerLoss s) := by
  unfold powerLoss
  repeat' first
    | with_reducible assumption
    | with_reducible exact trivial
    | with_reducible intro _
    | with_reducible refine inv_ite ?_ ?_
    | split
    | with_reducible apply beginLoss_inv
    | (dsimp only)
    | (fail_if_no_progress (with_reducible refine inv_mk ?_ rfl rfl))

theorem execPowerLoss_inv {s : State}  (hs : Inv s) : OutInv Inv (execPowerLoss s) := by
  unfold execPowerLoss
  repeat' first
    | with_reducible assumption
    | with_reducible exact trivial
    | with_reducible intro _
    | with_reducible apply out_next
    | split
    | with_reducible apply powerLoss_inv

theorem bleedBank_inv {s : State}  (hs : Inv s) : Inv (bleedBank s) := by
  unfold bleedBank
  repeat' first
    | with_reducible assumption
    | with_reducible exact trivial
    | with_reducible intro _
    | split
    | with_reducible apply bagMod_inv

theorem dumpSealed_inv {s : State}  (hs : Inv s) : Inv (dumpSealed s) := by
  unfold dumpSealed
  repeat' first
    | with_reducible assumption
    | with_reducible exact trivial
    | with_reducible intro _
    | with_reducible refine inv_ite ?_ ?_
    | split
    | with_reducible apply bagMod_inv
    | with_reducible apply bleedBank_inv
    | (dsimp only)
    | (fail_if_no_progress (with_reducible refine inv_mk ?_ rfl rfl))

theorem execDumpSealed_inv {s : State}  (hs : Inv s) : OutInv Inv (execDumpSealed s) := by
  unfold execDumpSealed
  repeat' first
    | with_reducible assumption
    | with_reducible exact trivial
    | with_reducible intro _
    | with_reducible apply out_next
    | split
    | with_reducible apply dumpSealed_inv

theorem pwrfailAssert_inv {ns : Nat} {s : State}  (hs : Inv s) : Inv (pwrfailAssert ns s) := by
  unfold pwrfailAssert
  repeat' first
    | with_reducible assumption
    | with_reducible exact trivial
    | with_reducible intro _
    | with_reducible refine inv_ite ?_ ?_
    | split
    | with_reducible apply powerLoss_inv
    | (dsimp only)
    | (fail_if_no_progress (with_reducible refine inv_mk ?_ rfl rfl))

theorem execPwrfailAssert_inv {ns : Nat} {s : State}  (hs : Inv s) : OutInv Inv (execPwrfailAssert ns s) := by
  unfold execPwrfailAssert
  repeat' first
    | with_reducible assumption
    | with_reducible exact trivial
    | with_reducible intro _
    | with_reducible apply out_next
    | split
    | with_reducible apply pwrfailAssert_inv

end Sys2Proof.Machine
end

