-- ==== Sys2Proof/Laws/KeepsTier.lean ====
section
/-! SUPPORT. The functions of Machine/Tier.lean keep the invariant. -/

namespace Sys2Proof.Machine

theorem failTable_inv {t : Nat} {cluster : Nat} {addr : Nat} {x : Cmd} {s : State}  (hs : Inv s) : Inv (failTable t cluster addr x s) := by
  unfold failTable
  repeat' first
    | with_reducible assumption
    | with_reducible exact trivial
    | with_reducible intro _
    | with_reducible refine inv_ite ?_ ?_
    | split
    | with_reducible apply cmdMod_inv
    | with_reducible apply failCmd_inv

theorem tablePaused_inv {t : Nat} {cluster : Nat} {byte : Nat} {s : State}  (hs : Inv s) : Inv (tablePaused t cluster byte s) := by
  unfold tablePaused
  repeat' first
    | with_reducible assumption
    | with_reducible exact trivial
    | with_reducible intro _
    | with_reducible refine inv_ite ?_ ?_
    | split
    | with_reducible refine inv_foldl ?_ ?_
    | with_reducible apply blkFault_inv
    | with_reducible apply raiseTable_inv
    | with_reducible apply failTable_inv
    | (dsimp only)
    | (fail_if_no_progress (with_reducible refine inv_mk ?_ rfl rfl))

theorem execTablePaused_inv {t : Nat} {cluster : Nat} {bankByte : Nat} {s : State}  (hs : Inv s) : OutInv Inv (execTablePaused t cluster bankByte s) := by
  unfold execTablePaused
  repeat' first
    | with_reducible assumption
    | with_reducible exact trivial
    | with_reducible intro _
    | with_reducible apply out_next
    | split
    | with_reducible apply drainAll_inv
    | with_reducible apply tablePaused_inv

theorem tableResumed_inv {t : Nat} {fromBag : Bool} {unreadable : Option Nat} {s : State}  (hs : Inv s) : Inv (tableResumed t fromBag unreadable s) := by
  unfold tableResumed
  repeat' first
    | with_reducible assumption
    | with_reducible exact trivial
    | with_reducible intro _
    | with_reducible refine inv_ite ?_ ?_
    | split
    | with_reducible apply advanceEpoch_inv
    | with_reducible apply raiseTable_inv
    | (dsimp only)
    | (fail_if_no_progress (with_reducible refine inv_mk ?_ rfl rfl))

theorem execTableResumed_inv {t : Nat} {fromBag : Bool} {unreadable : Option Nat} {s : State}  (hs : Inv s) : OutInv Inv (execTableResumed t fromBag unreadable s) := by
  unfold execTableResumed
  repeat' first
    | with_reducible assumption
    | with_reducible exact trivial
    | with_reducible intro _
    | with_reducible apply out_next
    | split
    | with_reducible apply drainAll_inv
    | with_reducible apply tableResumed_inv

theorem markRow_inv {tier : Nat} {chan : Nat} {addr : Nat} {s : State}  (hs : Inv s) : Inv (markRow tier chan addr s) := by
  unfold markRow
  repeat' first
    | with_reducible assumption
    | with_reducible exact trivial
    | with_reducible intro _
    | with_reducible refine inv_ite ?_ ?_
    | split
    | with_reducible apply blkFault_inv
    | with_reducible apply enterHold_inv
    | (dsimp only)
    | (fail_if_no_progress (with_reducible refine inv_mk ?_ rfl rfl))

theorem chestPoison_inv {x : Cmd} {tower : Nat} {addr : Nat} {s : State}  (hs : Inv s) : Inv (chestPoison x tower addr s) := by
  unfold chestPoison
  repeat' first
    | with_reducible assumption
    | with_reducible exact trivial
    | with_reducible intro _
    | with_reducible refine inv_ite ?_ ?_
    | split
    | with_reducible apply cmdMod_inv
    | with_reducible apply bellPoison_inv

theorem readerFails_inv {x : Cmd} {tier : Nat} {chan : Nat} {addr : Nat} {p : Option Poison} {s : State}  (hs : Inv s) : Inv (readerFails x tier chan addr p s) := by
  unfold readerFails
  repeat' first
    | with_reducible assumption
    | with_reducible exact trivial
    | with_reducible intro _
    | with_reducible refine inv_ite ?_ ?_
    | split
    | with_reducible apply failPoison_inv
    | with_reducible apply rerankPoison_inv
    | with_reducible apply chestPoison_inv

theorem tierUe_inv {tier : Nat} {chan : Nat} {addr : Nat} {byScrub : Bool} {c : Option Nat} {s : State}  (hs : Inv s) : Inv (tierUe tier chan addr byScrub c s) := by
  unfold tierUe
  repeat' first
    | with_reducible assumption
    | with_reducible exact trivial
    | with_reducible intro _
    | with_reducible refine inv_ite ?_ ?_
    | split
    | with_reducible apply bumpSat_inv
    | with_reducible apply blkFault_inv
    | with_reducible apply raise_inv
    | with_reducible apply markRow_inv
    | with_reducible apply readerFails_inv
    | (dsimp only)
    | (fail_if_no_progress (with_reducible refine inv_mk ?_ rfl rfl))

theorem execTierUe_inv {tier : Nat} {chan : Nat} {addr : Nat} {byScrub : Bool} {c : Option Nat} {s : State}  (hs : Inv s) : OutInv Inv (execTierUe tier chan addr byScrub c s) := by
  unfold execTierUe
  repeat' first
    | with_reducible assumption
    | with_reducible exact trivial
    | with_reducible intro _
    | with_reducible apply out_next
    | split
    | with_reducible apply drainAll_inv
    | with_reducible apply tierUe_inv

theorem noteRow_inv {tier : Nat} {chan : Nat} {addr : Nat} {n : Nat} {s : State}  (hs : Inv s) : Inv (noteRow tier chan addr n s) := by
  unfold noteRow
  repeat' first
    | with_reducible assumption
    | with_reducible exact trivial
    | with_reducible intro _
    | with_reducible refine inv_ite ?_ ?_
    | split
    | with_reducible apply markRow_inv
    | (dsimp only)
    | (fail_if_no_progress (with_reducible refine inv_mk ?_ rfl rfl))

theorem tierScrub_inv {tier : Nat} {chan : Nat} {row : Nat} {corrected : Nat} {pct : Nat} {uncorrectable : Bool} {s : State}  (hs : Inv s) : Inv (tierScrub tier chan row corrected pct uncorrectable s) := by
  unfold tierScrub
  repeat' first
    | with_reducible assumption
    | with_reducible exact trivial
    | with_reducible intro _
    | with_reducible refine inv_ite ?_ ?_
    | split
    | with_reducible refine inv_foldl ?_ ?_
    | with_reducible refine snd_foldl ?_ ?_
    | with_reducible apply bumpSat_inv
    | with_reducible apply regField_inv
    | with_reducible apply noteCorrected_inv
    | with_reducible apply markRow_inv
    | with_reducible apply noteRow_inv

theorem execTierScrub_inv {tier : Nat} {chan : Nat} {row : Nat} {corrected : Nat} {pct : Nat} {uncorrectable : Bool} {s : State}  (hs : Inv s) : OutInv Inv (execTierScrub tier chan row corrected pct uncorrectable s) := by
  unfold execTierScrub
  repeat' first
    | with_reducible assumption
    | with_reducible exact trivial
    | with_reducible intro _
    | with_reducible apply out_next
    | split
    | with_reducible apply drainAll_inv
    | with_reducible apply tierScrub_inv

theorem rowRepaired_inv {tier : Nat} {chan : Nat} {addr : Nat} {s : State}  (hs : Inv s) : Inv (rowRepaired tier chan addr s) := by
  unfold rowRepaired
  repeat' first
    | with_reducible assumption
    | with_reducible exact trivial
    | with_reducible intro _
    | with_reducible refine inv_ite ?_ ?_
    | split
    | with_reducible apply bumpSat_inv
    | with_reducible apply regField_inv
    | with_reducible apply raise_inv
    | (dsimp only)
    | (fail_if_no_progress (with_reducible refine inv_mk ?_ rfl rfl))

theorem execRowRepaired_inv {tier : Nat} {chan : Nat} {addr : Nat} {s : State}  (hs : Inv s) : OutInv Inv (execRowRepaired tier chan addr s) := by
  unfold execRowRepaired
  repeat' first
    | with_reducible assumption
    | with_reducible exact trivial
    | with_reducible intro _
    | with_reducible apply out_next
    | split
    | with_reducible apply drainAll_inv
    | with_reducible apply rowRepaired_inv

theorem loseTombs_inv {h : Nat} {slot : Nat} {s : State}  (hs : Inv s) : Inv (loseTombs h slot s) := by
  unfold loseTombs
  repeat' first
    | with_reducible assumption
    | with_reducible exact trivial
    | with_reducible intro _
    | split
    | with_reducible refine inv_foldl ?_ ?_
    | with_reducible apply collMod_inv

theorem loseWord_inv {p : Poison} {media : Nat} {c : Coll} {s : State}  (hs : Inv s) : Inv (loseWord p media c s) := by
  unfold loseWord
  repeat' first
    | with_reducible assumption
    | with_reducible exact trivial
    | with_reducible intro _
    | split
    | with_reducible refine inv_foldl ?_ ?_
    | with_reducible apply loseEntry_inv
    | with_reducible apply loseTombs_inv

theorem raiseRepaired_inv {p : Poison} {lost : Bool} {s : State}  (hs : Inv s) : Inv (raiseRepaired p lost s) := by
  unfold raiseRepaired
  repeat' first
    | with_reducible assumption
    | with_reducible exact trivial
    | with_reducible intro _
    | with_reducible refine inv_ite ?_ ?_
    | split
    | with_reducible apply raise_inv

theorem clearPoison_inv {p : Poison} {s : State}  (hs : Inv s) : Inv (clearPoison p s) := by
  unfold clearPoison
  repeat' first
    | with_reducible assumption
    | with_reducible exact trivial
    | with_reducible intro _
    | split
    | (dsimp only)
    | (fail_if_no_progress (with_reducible refine inv_mk ?_ rfl rfl))

theorem relinkNode_inv {p : Poison} {s : State}  (hs : Inv s) : Inv (relinkNode p s) := by
  unfold relinkNode
  repeat' first
    | with_reducible assumption
    | with_reducible exact trivial
    | with_reducible intro _
    | with_reducible refine inv_ite ?_ ?_
    | split
    | with_reducible apply runOp_inv
    | with_reducible apply raiseRepaired_inv
    | with_reducible apply clearPoison_inv

theorem dataRepaired_inv {h : Nat} {slot : Nat} {w : DataWord} {addr : Nat} {media : Nat} {copyOk : Bool} {s : State}  (hs : Inv s) : Inv (dataRepaired h slot w addr media copyOk s) := by
  unfold dataRepaired
  repeat' first
    | with_reducible assumption
    | with_reducible exact trivial
    | with_reducible intro _
    | with_reducible refine inv_ite ?_ ?_
    | split
    | with_reducible apply loseWord_inv
    | with_reducible apply raiseRepaired_inv
    | with_reducible apply clearPoison_inv
    | with_reducible apply relinkNode_inv

theorem execDataRepaired_inv {h : Nat} {slot : Nat} {w : DataWord} {tierAddr : Nat} {media : Nat} {copyOk : Bool} {s : State}  (hs : Inv s) : OutInv Inv (execDataRepaired h slot w tierAddr media copyOk s) := by
  unfold execDataRepaired
  repeat' first
    | with_reducible assumption
    | with_reducible exact trivial
    | with_reducible intro _
    | with_reducible apply out_next
    | split
    | with_reducible apply drainAll_inv
    | with_reducible apply dataRepaired_inv

end Sys2Proof.Machine
end

