-- ==== Sys2Proof/Laws/KeepsColls.lean ====
section
/-! SUPPORT. The functions of Machine/Colls.lean keep the invariant. -/

namespace Sys2Proof.Machine

theorem freshRow_inv {c : Nat} {op : Nat} {ok : Cmd → Bool} {f : Cmd → State → Res State} {s : State} (hf : ∀ a0 a1, Inv a1 → RowInv Inv (f a0 a1)) (hs : Inv s) : Inv (freshRow c op ok f s) := by
  unfold freshRow
  repeat' first
    | with_reducible assumption
    | with_reducible exact trivial
    | with_reducible intro _
    | with_reducible refine inv_ite ?_ ?_
    | with_reducible refine row_ite ?_ ?_
    | with_reducible refine res_ite ?_ ?_
    | with_reducible apply rowOk_inv
    | with_reducible apply rowFail_inv
    | with_reducible apply rowWait_inv
    | split
    | with_reducible apply settle_inv
    | with_reducible apply hf

theorem collRow_inv {c : Nat} {op : Nat} {ok : Cmd → Bool} {f : Cmd → Coll → State → Res State} {s : State} (hf : ∀ a0 a1 a2, Inv a2 → RowInv Inv (f a0 a1 a2)) (hs : Inv s) : Inv (collRow c op ok f s) := by
  unfold collRow
  repeat' first
    | with_reducible assumption
    | with_reducible exact trivial
    | with_reducible intro _
    | with_reducible apply rowOk_inv
    | with_reducible apply rowFail_inv
    | with_reducible apply rowWait_inv
    | split
    | with_reducible apply freshRow_inv
    | with_reducible apply hf

theorem execNop_inv {c : Nat} {s : State}  (hs : Inv s) : OutInv Inv (execNop c s) := by
  unfold execNop
  repeat' first
    | with_reducible assumption
    | with_reducible exact trivial
    | with_reducible intro _
    | with_reducible apply out_next
    | with_reducible apply rowOk_inv
    | with_reducible apply rowFail_inv
    | with_reducible apply rowWait_inv
    | split
    | with_reducible apply done_inv
    | with_reducible apply freshRow_inv

theorem collCreate_inv {x : Cmd} {s : State}  (hs : Inv s) : RowInv Inv (collCreate x s) := by
  unfold collCreate
  repeat' first
    | with_reducible assumption
    | with_reducible exact trivial
    | with_reducible intro _
    | with_reducible refine row_ite ?_ ?_
    | with_reducible refine res_ite ?_ ?_
    | with_reducible refine inv_ite ?_ ?_
    | with_reducible apply ok_inv
    | with_reducible apply fail_inv
    | with_reducible apply wait_inv
    | with_reducible apply rowOk_inv
    | with_reducible apply rowFail_inv
    | with_reducible apply rowWait_inv
    | with_reducible refine row_andThen ?_ ?_
    | split
    | with_reducible refine res_andThen ?_ ?_
    | with_reducible apply writeDev_inv
    | with_reducible apply readClean_inv
    | with_reducible apply finishJournaled_inv
    | with_reducible apply journalCmd_inv
    | with_reducible apply failPlain_inv
    | refine res_ok (by with_reducible assumption) ?_
    | refine res_fail (by with_reducible assumption) ?_
    | refine res_wait (by with_reducible assumption) ?_
    | refine row_ok (by with_reducible assumption) ?_
    | refine row_fail (by with_reducible assumption) ?_
    | refine row_wait (by with_reducible assumption) ?_
    | (dsimp only)
    | (fail_if_no_progress (with_reducible refine inv_mk ?_ rfl rfl))

theorem execCollCreate_inv {c : Nat} {s : State}  (hs : Inv s) : OutInv Inv (execCollCreate c s) := by
  unfold execCollCreate
  repeat' first
    | with_reducible assumption
    | with_reducible exact trivial
    | with_reducible intro _
    | with_reducible apply out_next
    | with_reducible apply rowOk_inv
    | with_reducible apply rowFail_inv
    | with_reducible apply rowWait_inv
    | split
    | with_reducible apply drainAll_inv
    | with_reducible apply freshRow_inv
    | with_reducible apply collCreate_inv

theorem collDrop_inv {x : Cmd} {u0 : Coll} {s : State}  (hs : Inv s) : RowInv Inv (collDrop x u0 s) := by
  unfold collDrop
  repeat' first
    | with_reducible assumption
    | with_reducible exact trivial
    | with_reducible intro _
    | with_reducible refine row_ite ?_ ?_
    | with_reducible refine res_ite ?_ ?_
    | with_reducible refine inv_ite ?_ ?_
    | with_reducible apply ok_inv
    | with_reducible apply fail_inv
    | with_reducible apply wait_inv
    | with_reducible apply rowOk_inv
    | with_reducible apply rowFail_inv
    | with_reducible apply rowWait_inv
    | with_reducible refine row_andThen ?_ ?_
    | split
    | with_reducible refine res_andThen ?_ ?_
    | with_reducible apply collMod_inv
    | with_reducible apply freeStep_inv
    | with_reducible apply finishJournaled_inv
    | with_reducible apply journalCmd_inv
    | with_reducible apply failAt_inv

theorem execCollDrop_inv {c : Nat} {s : State}  (hs : Inv s) : OutInv Inv (execCollDrop c s) := by
  unfold execCollDrop
  repeat' first
    | with_reducible assumption
    | with_reducible exact trivial
    | with_reducible intro _
    | with_reducible apply out_next
    | with_reducible apply rowOk_inv
    | with_reducible apply rowFail_inv
    | with_reducible apply rowWait_inv
    | split
    | with_reducible apply drainAll_inv
    | with_reducible apply collRow_inv
    | with_reducible apply collDrop_inv

theorem collQuery_inv {x : Cmd} {k : Coll} {s : State}  (hs : Inv s) : RowInv Inv (collQuery x k s) := by
  unfold collQuery
  repeat' first
    | with_reducible assumption
    | with_reducible exact trivial
    | with_reducible intro _
    | with_reducible apply ok_inv
    | with_reducible apply fail_inv
    | with_reducible apply wait_inv
    | with_reducible apply rowOk_inv
    | with_reducible apply rowFail_inv
    | with_reducible apply rowWait_inv
    | with_reducible refine row_andThen ?_ ?_
    | split
    | with_reducible refine res_andThen ?_ ?_
    | with_reducible apply writeDev_inv
    | with_reducible apply done_inv

theorem execCollQuery_inv {c : Nat} {s : State}  (hs : Inv s) : OutInv Inv (execCollQuery c s) := by
  unfold execCollQuery
  repeat' first
    | with_reducible assumption
    | with_reducible exact trivial
    | with_reducible intro _
    | with_reducible apply out_next
    | with_reducible apply rowOk_inv
    | with_reducible apply rowFail_inv
    | with_reducible apply rowWait_inv
    | split
    | with_reducible apply drainAll_inv
    | with_reducible apply collRow_inv
    | with_reducible apply collQuery_inv

theorem configure_inv {x : Cmd} {k : Coll} {s : State}  (hs : Inv s) : RowInv Inv (configure x k s) := by
  unfold configure
  repeat' first
    | with_reducible assumption
    | with_reducible exact trivial
    | with_reducible intro _
    | with_reducible apply ok_inv
    | with_reducible apply fail_inv
    | with_reducible apply wait_inv
    | with_reducible apply rowOk_inv
    | with_reducible apply rowFail_inv
    | with_reducible apply rowWait_inv
    | with_reducible refine row_andThen ?_ ?_
    | split
    | with_reducible refine res_andThen ?_ ?_
    | with_reducible apply collMod_inv
    | with_reducible apply finishJournaled_inv
    | with_reducible apply journalCmd_inv

theorem configPlacement_inv {x : Cmd} {k : Coll} {s : State}  (hs : Inv s) : RowInv Inv (configPlacement x k s) := by
  unfold configPlacement
  repeat' first
    | with_reducible assumption
    | with_reducible exact trivial
    | with_reducible intro _
    | with_reducible refine row_ite ?_ ?_
    | with_reducible refine res_ite ?_ ?_
    | with_reducible refine inv_ite ?_ ?_
    | with_reducible apply rowOk_inv
    | with_reducible apply rowFail_inv
    | with_reducible apply rowWait_inv
    | split
    | with_reducible apply failAt_inv
    | with_reducible apply configure_inv

theorem execCollConfigPlacement_inv {c : Nat} {s : State}  (hs : Inv s) : OutInv Inv (execCollConfigPlacement c s) := by
  unfold execCollConfigPlacement
  repeat' first
    | with_reducible assumption
    | with_reducible exact trivial
    | with_reducible intro _
    | with_reducible apply out_next
    | with_reducible apply rowOk_inv
    | with_reducible apply rowFail_inv
    | with_reducible apply rowWait_inv
    | split
    | with_reducible apply drainAll_inv
    | with_reducible apply collRow_inv
    | with_reducible apply configPlacement_inv

theorem configKind_inv {x : Cmd} {k : Coll} {s : State} (hs : Inv s) : RowInv Inv (configKind x k s) := by
  unfold configKind
  refine row_ite (failAt_inv hs) (row_ite (failPlain_inv hs) (row_ite (failPlain_inv hs) ?_))
  split
  · exact failPlain_inv hs
  · have h := configure_inv (x := x) (k := { k with indexKind := 2, building := true, buildGraph := k.indexKind = 0, entryTbl := ‹Nat› }) hs
    dsimp only
    revert h
    generalize configure x _ s = r
    intro h
    cases h with
    | ok h => exact .ok (inv_ite (inv_congr h rfl rfl rfl rfl rfl) h)
    | fail h => exact .fail h
    | wait h => exact .wait h

theorem execCollConfigIndexKind_inv {c : Nat} {s : State}  (hs : Inv s) : OutInv Inv (execCollConfigIndexKind c s) := by
  unfold execCollConfigIndexKind
  repeat' first
    | with_reducible assumption
    | with_reducible exact trivial
    | with_reducible intro _
    | with_reducible apply out_next
    | with_reducible apply rowOk_inv
    | with_reducible apply rowFail_inv
    | with_reducible apply rowWait_inv
    | split
    | with_reducible apply drainAll_inv
    | with_reducible apply collRow_inv
    | with_reducible apply configKind_inv

theorem configRights_inv {x : Cmd} {f : Nat → Nat → Nat} {k : Coll} {s : State}  (hs : Inv s) : RowInv Inv (configRights x f k s) := by
  unfold configRights
  repeat' first
    | with_reducible assumption
    | with_reducible exact trivial
    | with_reducible intro _
    | with_reducible refine row_ite ?_ ?_
    | with_reducible refine res_ite ?_ ?_
    | with_reducible refine inv_ite ?_ ?_
    | with_reducible apply rowOk_inv
    | with_reducible apply rowFail_inv
    | with_reducible apply rowWait_inv
    | split
    | with_reducible apply failAt_inv
    | with_reducible apply configure_inv

theorem execCollConfigGrant_inv {c : Nat} {s : State}  (hs : Inv s) : OutInv Inv (execCollConfigGrant c s) := by
  unfold execCollConfigGrant
  repeat' first
    | with_reducible assumption
    | with_reducible exact trivial
    | with_reducible intro _
    | with_reducible apply out_next
    | with_reducible apply rowOk_inv
    | with_reducible apply rowFail_inv
    | with_reducible apply rowWait_inv
    | split
    | with_reducible apply drainAll_inv
    | with_reducible apply collRow_inv
    | with_reducible apply configRights_inv

theorem execCollConfigRevoke_inv {c : Nat} {s : State}  (hs : Inv s) : OutInv Inv (execCollConfigRevoke c s) := by
  unfold execCollConfigRevoke
  repeat' first
    | with_reducible assumption
    | with_reducible exact trivial
    | with_reducible intro _
    | with_reducible apply out_next
    | with_reducible apply rowOk_inv
    | with_reducible apply rowFail_inv
    | with_reducible apply rowWait_inv
    | split
    | with_reducible apply drainAll_inv
    | with_reducible apply collRow_inv
    | with_reducible apply configRights_inv

theorem consolidateFold_inv {x : Cmd} {u0 : Coll} {s : State}  (hs : Inv s) : RowInv Inv (consolidateFold x u0 s) := by
  unfold consolidateFold
  repeat' first
    | with_reducible assumption
    | with_reducible exact trivial
    | with_reducible intro _
    | with_reducible apply rowOk_inv
    | with_reducible apply rowFail_inv
    | with_reducible apply rowWait_inv
    | split
    | with_reducible apply setWork_inv
    | with_reducible apply foldStart_inv

theorem execConsolidateFold_inv {c : Nat} {s : State}  (hs : Inv s) : OutInv Inv (execConsolidateFold c s) := by
  unfold execConsolidateFold
  repeat' first
    | with_reducible assumption
    | with_reducible exact trivial
    | with_reducible intro _
    | with_reducible apply out_next
    | with_reducible apply rowOk_inv
    | with_reducible apply rowFail_inv
    | with_reducible apply rowWait_inv
    | split
    | with_reducible apply drainAll_inv
    | with_reducible apply collRow_inv
    | with_reducible apply consolidateFold_inv

theorem consolidateCompact_inv {x : Cmd} {u0 : Coll} {s : State}  (hs : Inv s) : RowInv Inv (consolidateCompact x u0 s) := by
  unfold consolidateCompact
  repeat' first
    | with_reducible assumption
    | with_reducible exact trivial
    | with_reducible intro _
    | with_reducible apply rowOk_inv
    | with_reducible apply rowFail_inv
    | with_reducible apply rowWait_inv
    | split
    | with_reducible apply setWork_inv
    | with_reducible apply compactionTrigger_inv

theorem execConsolidateCompact_inv {c : Nat} {s : State}  (hs : Inv s) : OutInv Inv (execConsolidateCompact c s) := by
  unfold execConsolidateCompact
  repeat' first
    | with_reducible assumption
    | with_reducible exact trivial
    | with_reducible intro _
    | with_reducible apply out_next
    | with_reducible apply rowOk_inv
    | with_reducible apply rowFail_inv
    | with_reducible apply rowWait_inv
    | split
    | with_reducible apply drainAll_inv
    | with_reducible apply collRow_inv
    | with_reducible apply consolidateCompact_inv

theorem consolidateSet_inv {x : Cmd} {k : Coll} {s : State}  (hs : Inv s) : RowInv Inv (consolidateSet x k s) := by
  unfold consolidateSet
  repeat' first
    | with_reducible assumption
    | with_reducible exact trivial
    | with_reducible intro _
    | with_reducible refine row_ite ?_ ?_
    | with_reducible refine res_ite ?_ ?_
    | with_reducible refine inv_ite ?_ ?_
    | with_reducible apply rowOk_inv
    | with_reducible apply rowFail_inv
    | with_reducible apply rowWait_inv
    | split
    | with_reducible apply configure_inv

theorem execConsolidateSet_inv {c : Nat} {s : State}  (hs : Inv s) : OutInv Inv (execConsolidateSet c s) := by
  unfold execConsolidateSet
  repeat' first
    | with_reducible assumption
    | with_reducible exact trivial
    | with_reducible intro _
    | with_reducible apply out_next
    | with_reducible apply rowOk_inv
    | with_reducible apply rowFail_inv
    | with_reducible apply rowWait_inv
    | split
    | with_reducible apply drainAll_inv
    | with_reducible apply collRow_inv
    | with_reducible apply consolidateSet_inv

theorem consolidateReport_inv {x : Cmd} {k : Coll} {s : State}  (hs : Inv s) : RowInv Inv (consolidateReport x k s) := by
  unfold consolidateReport
  repeat' first
    | with_reducible assumption
    | with_reducible exact trivial
    | with_reducible intro _
    | with_reducible apply ok_inv
    | with_reducible apply fail_inv
    | with_reducible apply wait_inv
    | with_reducible apply rowOk_inv
    | with_reducible apply rowFail_inv
    | with_reducible apply rowWait_inv
    | with_reducible refine row_andThen ?_ ?_
    | split
    | with_reducible refine res_andThen ?_ ?_
    | with_reducible apply writeDev_inv
    | with_reducible apply done_inv

theorem execConsolidateReport_inv {c : Nat} {s : State}  (hs : Inv s) : OutInv Inv (execConsolidateReport c s) := by
  unfold execConsolidateReport
  repeat' first
    | with_reducible assumption
    | with_reducible exact trivial
    | with_reducible intro _
    | with_reducible apply out_next
    | with_reducible apply rowOk_inv
    | with_reducible apply rowFail_inv
    | with_reducible apply rowWait_inv
    | split
    | with_reducible apply drainAll_inv
    | with_reducible apply collRow_inv
    | with_reducible apply consolidateReport_inv

theorem reencode_inv {x : Cmd} {k : Coll} {s : State}  (hs : Inv s) : RowInv Inv (reencode x k s) := by
  unfold reencode
  repeat' first
    | with_reducible assumption
    | with_reducible exact trivial
    | with_reducible intro _
    | with_reducible refine row_ite ?_ ?_
    | with_reducible refine res_ite ?_ ?_
    | with_reducible refine inv_ite ?_ ?_
    | with_reducible apply ok_inv
    | with_reducible apply fail_inv
    | with_reducible apply wait_inv
    | with_reducible apply rowOk_inv
    | with_reducible apply rowFail_inv
    | with_reducible apply rowWait_inv
    | with_reducible refine row_andThen ?_ ?_
    | split
    | with_reducible refine res_andThen ?_ ?_
    | with_reducible apply collMod_inv
    | with_reducible apply finishJournaled_inv
    | with_reducible apply journalCmd_inv
    | with_reducible apply failAt_inv

theorem execReencode_inv {c : Nat} {s : State}  (hs : Inv s) : OutInv Inv (execReencode c s) := by
  unfold execReencode
  repeat' first
    | with_reducible assumption
    | with_reducible exact trivial
    | with_reducible intro _
    | with_reducible apply out_next
    | with_reducible apply rowOk_inv
    | with_reducible apply rowFail_inv
    | with_reducible apply rowWait_inv
    | split
    | with_reducible apply drainAll_inv
    | with_reducible apply collRow_inv
    | with_reducible apply reencode_inv

theorem exportRow_inv {x : Cmd} {c : Coll} {ds : List BlkData} {s : State}  (hs : Inv s) : RowInv Inv (exportRow x c ds s) := by
  unfold exportRow
  repeat' first
    | with_reducible assumption
    | with_reducible exact trivial
    | with_reducible intro _
    | with_reducible refine row_ite ?_ ?_
    | with_reducible refine res_ite ?_ ?_
    | with_reducible refine inv_ite ?_ ?_
    | with_reducible apply ok_inv
    | with_reducible apply fail_inv
    | with_reducible apply wait_inv
    | with_reducible apply rowOk_inv
    | with_reducible apply rowFail_inv
    | with_reducible apply rowWait_inv
    | with_reducible refine row_andThen ?_ ?_
    | split
    | with_reducible refine res_andThen ?_ ?_
    | with_reducible apply done_inv
    | with_reducible apply writeSpans_inv
    | with_reducible apply checkSpans_inv
    | with_reducible apply failPoison_inv
    | refine res_ok (by with_reducible assumption) ?_
    | refine res_fail (by with_reducible assumption) ?_
    | refine res_wait (by with_reducible assumption) ?_
    | refine row_ok (by with_reducible assumption) ?_
    | refine row_fail (by with_reducible assumption) ?_
    | refine row_wait (by with_reducible assumption) ?_
    | (dsimp only)

theorem exportStart_inv {x : Cmd} {u0 : Coll} {s : State}  (hs : Inv s) : RowInv Inv (exportStart x u0 s) := by
  unfold exportStart
  repeat' first
    | with_reducible assumption
    | with_reducible exact trivial
    | with_reducible intro _
    | with_reducible refine row_ite ?_ ?_
    | with_reducible refine res_ite ?_ ?_
    | with_reducible refine inv_ite ?_ ?_
    | with_reducible apply rowOk_inv
    | with_reducible apply rowFail_inv
    | with_reducible apply rowWait_inv
    | split
    | with_reducible apply beginList_inv
    | with_reducible apply exportRow_inv

theorem execExportCmd_inv {c : Nat} {s : State}  (hs : Inv s) : OutInv Inv (execExportCmd c s) := by
  unfold execExportCmd
  repeat' first
    | with_reducible assumption
    | with_reducible exact trivial
    | with_reducible intro _
    | with_reducible apply out_next
    | with_reducible apply rowOk_inv
    | with_reducible apply rowFail_inv
    | with_reducible apply rowWait_inv
    | split
    | with_reducible apply drainAll_inv
    | with_reducible apply collRow_inv
    | with_reducible apply exportStart_inv

end Sys2Proof.Machine
end

