-- ==== Sys2Proof/Laws/KeepsAdmin.lean ====
section
/-! SUPPORT. The functions of Machine/Admin.lean keep the invariant. -/

namespace Sys2Proof.Machine

theorem beginInval_inv {n : Nat} {d : Nat} {base : Nat} {len : Nat} {cmd : Option Nat} {s : State}  (hs : Inv s) : Inv (beginInval n d base len cmd s) := by
  unfold beginInval
  repeat' first
    | with_reducible assumption
    | with_reducible exact trivial
    | with_reducible intro _
    | with_reducible refine inv_ite ?_ ?_
    | split
    | with_reducible apply advanceEpoch_inv
    | with_reducible apply crookMod_inv
    | (dsimp only)
    | (fail_if_no_progress (with_reducible refine inv_mk ?_ rfl rfl))

theorem xlatInvalidate_inv {x : Cmd} {s : State}  (hs : Inv s) : RowInv Inv (xlatInvalidate x s) := by
  unfold xlatInvalidate
  repeat' first
    | with_reducible assumption
    | with_reducible exact trivial
    | with_reducible intro _
    | with_reducible refine row_ite ?_ ?_
    | with_reducible refine res_ite ?_ ?_
    | with_reducible refine inv_ite ?_ ?_
    | with_reducible apply rowOk_inv
    | with_reducible apply rowFail_inv
    | with_reducible apply rowWait_inv
    | split
    | with_reducible apply setWork_inv
    | with_reducible apply failAt_inv
    | with_reducible apply beginInval_inv

theorem execXlatInvalidate_inv {c : Nat} {s : State}  (hs : Inv s) : OutInv Inv (execXlatInvalidate c s) := by
  unfold execXlatInvalidate
  repeat' first
    | with_reducible assumption
    | with_reducible exact trivial
    | with_reducible intro _
    | with_reducible apply out_next
    | with_reducible apply rowOk_inv
    | with_reducible apply rowFail_inv
    | with_reducible apply rowWait_inv
    | split
    | with_reducible apply drainAll_inv
    | with_reducible apply freshRow_inv
    | with_reducible apply xlatInvalidate_inv

theorem regionRegister_inv {x : Cmd} {s : State}  (hs : Inv s) : RowInv Inv (regionRegister x s) := by
  unfold regionRegister
  repeat' first
    | with_reducible assumption
    | with_reducible exact trivial
    | with_reducible intro _
    | with_reducible refine row_ite ?_ ?_
    | with_reducible refine res_ite ?_ ?_
    | with_reducible refine inv_ite ?_ ?_
    | with_reducible apply rowOk_inv
    | with_reducible apply rowFail_inv
    | with_reducible apply rowWait_inv
    | split
    | with_reducible apply done_inv
    | with_reducible apply failAt_inv

theorem execRegionRegister_inv {c : Nat} {s : State}  (hs : Inv s) : OutInv Inv (execRegionRegister c s) := by
  unfold execRegionRegister
  repeat' first
    | with_reducible assumption
    | with_reducible exact trivial
    | with_reducible intro _
    | with_reducible apply out_next
    | with_reducible apply rowOk_inv
    | with_reducible apply rowFail_inv
    | with_reducible apply rowWait_inv
    | split
    | with_reducible apply drainAll_inv
    | with_reducible apply freshRow_inv
    | with_reducible apply regionRegister_inv

theorem regionRelease_inv {x : Cmd} {s : State}  (hs : Inv s) : RowInv Inv (regionRelease x s) := by
  unfold regionRelease
  repeat' first
    | with_reducible assumption
    | with_reducible exact trivial
    | with_reducible intro _
    | with_reducible refine row_ite ?_ ?_
    | with_reducible refine res_ite ?_ ?_
    | with_reducible refine inv_ite ?_ ?_
    | with_reducible apply rowOk_inv
    | with_reducible apply rowFail_inv
    | with_reducible apply rowWait_inv
    | split
    | with_reducible apply setWork_inv
    | with_reducible apply domMod_inv
    | with_reducible apply failAt_inv
    | with_reducible apply beginInval_inv
    | refine row_ok (by with_reducible assumption) ?_
    | refine row_fail (by with_reducible assumption) ?_
    | refine row_wait (by with_reducible assumption) ?_
    | (dsimp only)

theorem execRegionRelease_inv {c : Nat} {s : State}  (hs : Inv s) : OutInv Inv (execRegionRelease c s) := by
  unfold execRegionRelease
  repeat' first
    | with_reducible assumption
    | with_reducible exact trivial
    | with_reducible intro _
    | with_reducible apply out_next
    | with_reducible apply rowOk_inv
    | with_reducible apply rowFail_inv
    | with_reducible apply rowWait_inv
    | split
    | with_reducible apply drainAll_inv
    | with_reducible apply freshRow_inv
    | with_reducible apply regionRelease_inv

theorem readDeferred_inv {x : Cmd} {s : State}  (hs : Inv s) : RowInv Inv (readDeferred x s) := by
  unfold readDeferred
  repeat' first
    | with_reducible assumption
    | with_reducible exact trivial
    | with_reducible intro _
    | with_reducible apply ok_inv
    | with_reducible apply fail_inv
    | with_reducible apply wait_inv
    | with_reducible apply rowOk_inv
    | with_reducible apply rowFail_inv
    | with_reducible apply rowWait_inv
    | with_reducible refine row_andThen ?_ ?_
    | split
    | with_reducible refine res_andThen ?_ ?_
    | with_reducible apply domMod_inv
    | with_reducible apply writeDev_inv
    | with_reducible apply finishJournaled_inv
    | with_reducible apply journalCmd_inv
    | with_reducible apply failAt_inv
    | refine res_ok (by with_reducible assumption) ?_
    | refine res_fail (by with_reducible assumption) ?_
    | refine res_wait (by with_reducible assumption) ?_
    | refine row_ok (by with_reducible assumption) ?_
    | refine row_fail (by with_reducible assumption) ?_
    | refine row_wait (by with_reducible assumption) ?_
    | (dsimp only)

theorem execReadDeferred_inv {c : Nat} {s : State}  (hs : Inv s) : OutInv Inv (execReadDeferred c s) := by
  unfold execReadDeferred
  repeat' first
    | with_reducible assumption
    | with_reducible exact trivial
    | with_reducible intro _
    | with_reducible apply out_next
    | with_reducible apply rowOk_inv
    | with_reducible apply rowFail_inv
    | with_reducible apply rowWait_inv
    | split
    | with_reducible apply drainAll_inv
    | with_reducible apply freshRow_inv
    | with_reducible apply readDeferred_inv

theorem readLog_inv {x : Cmd} {s : State}  (hs : Inv s) : RowInv Inv (readLog x s) := by
  unfold readLog
  repeat' first
    | with_reducible assumption
    | with_reducible exact trivial
    | with_reducible intro _
    | with_reducible apply ok_inv
    | with_reducible apply fail_inv
    | with_reducible apply wait_inv
    | with_reducible apply rowOk_inv
    | with_reducible apply rowFail_inv
    | with_reducible apply rowWait_inv
    | with_reducible refine row_andThen ?_ ?_
    | split
    | with_reducible refine res_andThen ?_ ?_
    | with_reducible apply writeDev_inv
    | with_reducible apply done_inv

theorem execReadLog_inv {c : Nat} {s : State}  (hs : Inv s) : OutInv Inv (execReadLog c s) := by
  unfold execReadLog
  repeat' first
    | with_reducible assumption
    | with_reducible exact trivial
    | with_reducible intro _
    | with_reducible apply out_next
    | with_reducible apply rowOk_inv
    | with_reducible apply rowFail_inv
    | with_reducible apply rowWait_inv
    | split
    | with_reducible apply drainAll_inv
    | with_reducible apply freshRow_inv
    | with_reducible apply readLog_inv

theorem domainCreate_inv {x : Cmd} {s : State}  (hs : Inv s) : RowInv Inv (domainCreate x s) := by
  unfold domainCreate
  repeat' first
    | with_reducible assumption
    | with_reducible exact trivial
    | with_reducible intro _
    | with_reducible refine row_ite ?_ ?_
    | with_reducible refine res_ite ?_ ?_
    | with_reducible refine inv_ite ?_ ?_
    | with_reducible apply ok_inv
    | with_reducible apply fail_inv
    | with_reducible apply wait_inv
    | with_reducible apply rowOk_inv
    | with_reducible apply rowFail_inv
    | with_reducible apply rowWait_inv
    | with_reducible refine row_andThen ?_ ?_
    | split
    | with_reducible refine res_andThen ?_ ?_
    | with_reducible apply finishJournaled_inv
    | with_reducible apply journalCmd_inv
    | with_reducible apply failAt_inv
    | refine res_ok (by with_reducible assumption) ?_
    | refine res_fail (by with_reducible assumption) ?_
    | refine res_wait (by with_reducible assumption) ?_
    | refine row_ok (by with_reducible assumption) ?_
    | refine row_fail (by with_reducible assumption) ?_
    | refine row_wait (by with_reducible assumption) ?_
    | (dsimp only)
    | (fail_if_no_progress (with_reducible refine inv_mk ?_ rfl rfl))

theorem execDomainCreate_inv {c : Nat} {s : State}  (hs : Inv s) : OutInv Inv (execDomainCreate c s) := by
  unfold execDomainCreate
  repeat' first
    | with_reducible assumption
    | with_reducible exact trivial
    | with_reducible intro _
    | with_reducible apply out_next
    | with_reducible apply rowOk_inv
    | with_reducible apply rowFail_inv
    | with_reducible apply rowWait_inv
    | split
    | with_reducible apply drainAll_inv
    | with_reducible apply freshRow_inv
    | with_reducible apply domainCreate_inv

theorem forgetDomain_inv {d : Nat} {s : State}  (hs : Inv s) : Inv (forgetDomain d s) := by
  unfold forgetDomain
  repeat' first
    | with_reducible assumption
    | with_reducible exact trivial
    | with_reducible intro _
    | with_reducible refine inv_ite ?_ ?_
    | split
    | with_reducible apply crookMod_inv

theorem domainDestroy_inv {x : Cmd} {s : State}  (hs : Inv s) : RowInv Inv (domainDestroy x s) := by
  unfold domainDestroy
  repeat' first
    | with_reducible assumption
    | with_reducible exact trivial
    | with_reducible intro _
    | with_reducible refine row_ite ?_ ?_
    | with_reducible refine res_ite ?_ ?_
    | with_reducible refine inv_ite ?_ ?_
    | with_reducible apply ok_inv
    | with_reducible apply fail_inv
    | with_reducible apply wait_inv
    | with_reducible apply rowOk_inv
    | with_reducible apply rowFail_inv
    | with_reducible apply rowWait_inv
    | with_reducible refine row_andThen ?_ ?_
    | split
    | with_reducible refine res_andThen ?_ ?_
    | with_reducible apply finishJournaled_inv
    | with_reducible apply journalCmd_inv
    | with_reducible apply failAt_inv
    | with_reducible apply forgetDomain_inv
    | refine res_ok (by with_reducible assumption) ?_
    | refine res_fail (by with_reducible assumption) ?_
    | refine res_wait (by with_reducible assumption) ?_
    | refine row_ok (by with_reducible assumption) ?_
    | refine row_fail (by with_reducible assumption) ?_
    | refine row_wait (by with_reducible assumption) ?_
    | (dsimp only)
    | (fail_if_no_progress (with_reducible refine inv_mk ?_ rfl rfl))

theorem execDomainDestroy_inv {c : Nat} {s : State}  (hs : Inv s) : OutInv Inv (execDomainDestroy c s) := by
  unfold execDomainDestroy
  repeat' first
    | with_reducible assumption
    | with_reducible exact trivial
    | with_reducible intro _
    | with_reducible apply out_next
    | with_reducible apply rowOk_inv
    | with_reducible apply rowFail_inv
    | with_reducible apply rowWait_inv
    | split
    | with_reducible apply drainAll_inv
    | with_reducible apply freshRow_inv
    | with_reducible apply domainDestroy_inv

theorem queueCreate_inv {x : Cmd} {s : State}  (hs : Inv s) : RowInv Inv (queueCreate x s) := by
  unfold queueCreate
  repeat' first
    | with_reducible assumption
    | with_reducible exact trivial
    | with_reducible intro _
    | with_reducible refine row_ite ?_ ?_
    | with_reducible refine res_ite ?_ ?_
    | with_reducible refine inv_ite ?_ ?_
    | with_reducible apply rowOk_inv
    | with_reducible apply rowFail_inv
    | with_reducible apply rowWait_inv
    | split
    | with_reducible apply done_inv
    | with_reducible apply failPlain_inv
    | with_reducible apply failAt_inv
    | refine row_ok (by with_reducible assumption) ?_
    | refine row_fail (by with_reducible assumption) ?_
    | refine row_wait (by with_reducible assumption) ?_
    | (dsimp only)
    | (fail_if_no_progress (with_reducible refine inv_mk ?_ rfl rfl))

theorem execQueueCreate_inv {c : Nat} {s : State}  (hs : Inv s) : OutInv Inv (execQueueCreate c s) := by
  unfold execQueueCreate
  repeat' first
    | with_reducible assumption
    | with_reducible exact trivial
    | with_reducible intro _
    | with_reducible apply out_next
    | with_reducible apply rowOk_inv
    | with_reducible apply rowFail_inv
    | with_reducible apply rowWait_inv
    | split
    | with_reducible apply drainAll_inv
    | with_reducible apply freshRow_inv
    | with_reducible apply queueCreate_inv

theorem abortAll_inv {f : Cmd → Bool} {s : State}  (hs : Inv s) : Inv (abortAll f s) := by
  unfold abortAll
  repeat' first
    | with_reducible assumption
    | with_reducible exact trivial
    | with_reducible intro _
    | split
    | with_reducible refine inv_foldl ?_ ?_
    | with_reducible apply finish_inv
    | with_reducible apply takeTurn_inv

theorem queueDestroy_inv {x : Cmd} {s : State}  (hs : Inv s) : Inv (queueDestroy x s) := by
  unfold queueDestroy
  repeat' first
    | with_reducible assumption
    | with_reducible exact trivial
    | with_reducible intro _
    | with_reducible refine inv_ite ?_ ?_
    | with_reducible refine row_ite ?_ ?_
    | with_reducible refine res_ite ?_ ?_
    | with_reducible apply rowOk_inv
    | with_reducible apply rowFail_inv
    | with_reducible apply rowWait_inv
    | split
    | with_reducible apply setWork_inv
    | with_reducible apply finish_inv
    | with_reducible apply settle_inv
    | with_reducible apply failAt_inv
    | with_reducible apply abortAll_inv
    | refine row_ok (by with_reducible assumption) ?_
    | refine row_fail (by with_reducible assumption) ?_
    | refine row_wait (by with_reducible assumption) ?_
    | (dsimp only)
    | (fail_if_no_progress (with_reducible refine inv_mk ?_ rfl rfl))

theorem execQueueDestroy_inv {c : Nat} {s : State}  (hs : Inv s) : OutInv Inv (execQueueDestroy c s) := by
  unfold execQueueDestroy
  repeat' first
    | with_reducible assumption
    | with_reducible exact trivial
    | with_reducible intro _
    | with_reducible refine out_ite ?_ ?_
    | with_reducible refine inv_ite ?_ ?_
    | with_reducible apply out_next
    | split
    | with_reducible apply drainAll_inv
    | with_reducible apply queueDestroy_inv

theorem cqCreate_inv {x : Cmd} {s : State}  (hs : Inv s) : RowInv Inv (cqCreate x s) := by
  unfold cqCreate
  repeat' first
    | with_reducible assumption
    | with_reducible exact trivial
    | with_reducible intro _
    | with_reducible refine row_ite ?_ ?_
    | with_reducible refine res_ite ?_ ?_
    | with_reducible refine inv_ite ?_ ?_
    | with_reducible apply rowOk_inv
    | with_reducible apply rowFail_inv
    | with_reducible apply rowWait_inv
    | split
    | with_reducible apply done_inv
    | with_reducible apply failAt_inv
    | refine row_ok (by with_reducible assumption) ?_
    | refine row_fail (by with_reducible assumption) ?_
    | refine row_wait (by with_reducible assumption) ?_
    | (dsimp only)
    | (fail_if_no_progress (with_reducible refine inv_mk ?_ rfl rfl))

theorem execCqCreate_inv {c : Nat} {s : State}  (hs : Inv s) : OutInv Inv (execCqCreate c s) := by
  unfold execCqCreate
  repeat' first
    | with_reducible assumption
    | with_reducible exact trivial
    | with_reducible intro _
    | with_reducible apply out_next
    | with_reducible apply rowOk_inv
    | with_reducible apply rowFail_inv
    | with_reducible apply rowWait_inv
    | split
    | with_reducible apply drainAll_inv
    | with_reducible apply freshRow_inv
    | with_reducible apply cqCreate_inv

theorem cqDestroy_inv {x : Cmd} {s : State}  (hs : Inv s) : RowInv Inv (cqDestroy x s) := by
  unfold cqDestroy
  repeat' first
    | with_reducible assumption
    | with_reducible exact trivial
    | with_reducible intro _
    | with_reducible refine row_ite ?_ ?_
    | with_reducible refine res_ite ?_ ?_
    | with_reducible refine inv_ite ?_ ?_
    | with_reducible apply rowOk_inv
    | with_reducible apply rowFail_inv
    | with_reducible apply rowWait_inv
    | split
    | with_reducible apply done_inv
    | with_reducible apply failAt_inv
    | refine row_ok (by with_reducible assumption) ?_
    | refine row_fail (by with_reducible assumption) ?_
    | refine row_wait (by with_reducible assumption) ?_
    | (dsimp only)
    | (fail_if_no_progress (with_reducible refine inv_mk ?_ rfl rfl))

theorem execCqDestroy_inv {c : Nat} {s : State}  (hs : Inv s) : OutInv Inv (execCqDestroy c s) := by
  unfold execCqDestroy
  repeat' first
    | with_reducible assumption
    | with_reducible exact trivial
    | with_reducible intro _
    | with_reducible apply out_next
    | with_reducible apply rowOk_inv
    | with_reducible apply rowFail_inv
    | with_reducible apply rowWait_inv
    | split
    | with_reducible apply drainAll_inv
    | with_reducible apply freshRow_inv
    | with_reducible apply cqDestroy_inv

theorem cqEnable_inv {x : Cmd} {s : State}  (hs : Inv s) : RowInv Inv (cqEnable x s) := by
  unfold cqEnable
  repeat' first
    | with_reducible assumption
    | with_reducible exact trivial
    | with_reducible intro _
    | with_reducible refine row_ite ?_ ?_
    | with_reducible refine res_ite ?_ ?_
    | with_reducible refine inv_ite ?_ ?_
    | with_reducible apply rowOk_inv
    | with_reducible apply rowFail_inv
    | with_reducible apply rowWait_inv
    | split
    | with_reducible apply done_inv
    | with_reducible apply failAt_inv
    | refine row_ok (by with_reducible assumption) ?_
    | refine row_fail (by with_reducible assumption) ?_
    | refine row_wait (by with_reducible assumption) ?_
    | (dsimp only)
    | (fail_if_no_progress (with_reducible refine inv_mk ?_ rfl rfl))

theorem execCqEnable_inv {c : Nat} {s : State}  (hs : Inv s) : OutInv Inv (execCqEnable c s) := by
  unfold execCqEnable
  repeat' first
    | with_reducible assumption
    | with_reducible exact trivial
    | with_reducible intro _
    | with_reducible apply out_next
    | with_reducible apply rowOk_inv
    | with_reducible apply rowFail_inv
    | with_reducible apply rowWait_inv
    | split
    | with_reducible apply drainAll_inv
    | with_reducible apply freshRow_inv
    | with_reducible apply cqEnable_inv

theorem classConfig_inv {x : Cmd} {s : State}  (hs : Inv s) : RowInv Inv (classConfig x s) := by
  unfold classConfig
  repeat' first
    | with_reducible assumption
    | with_reducible exact trivial
    | with_reducible intro _
    | with_reducible apply rowOk_inv
    | with_reducible apply rowFail_inv
    | with_reducible apply rowWait_inv
    | split
    | with_reducible apply done_inv

theorem execClassConfig_inv {c : Nat} {s : State}  (hs : Inv s) : OutInv Inv (execClassConfig c s) := by
  unfold execClassConfig
  repeat' first
    | with_reducible assumption
    | with_reducible exact trivial
    | with_reducible intro _
    | with_reducible apply out_next
    | with_reducible apply rowOk_inv
    | with_reducible apply rowFail_inv
    | with_reducible apply rowWait_inv
    | split
    | with_reducible apply drainAll_inv
    | with_reducible apply freshRow_inv
    | with_reducible apply classConfig_inv

theorem abort_inv {x : Cmd} {s : State}  (hs : Inv s) : RowInv Inv (abort x s) := by
  unfold abort
  repeat' first
    | with_reducible assumption
    | with_reducible exact trivial
    | with_reducible intro _
    | with_reducible refine row_ite ?_ ?_
    | with_reducible refine res_ite ?_ ?_
    | with_reducible refine inv_ite ?_ ?_
    | with_reducible apply rowOk_inv
    | with_reducible apply rowFail_inv
    | with_reducible apply rowWait_inv
    | split
    | with_reducible apply done_inv
    | with_reducible apply failAt_inv
    | with_reducible apply abortAll_inv

theorem execAbort_inv {c : Nat} {s : State}  (hs : Inv s) : OutInv Inv (execAbort c s) := by
  unfold execAbort
  repeat' first
    | with_reducible assumption
    | with_reducible exact trivial
    | with_reducible intro _
    | with_reducible apply out_next
    | with_reducible apply rowOk_inv
    | with_reducible apply rowFail_inv
    | with_reducible apply rowWait_inv
    | split
    | with_reducible apply drainAll_inv
    | with_reducible apply freshRow_inv
    | with_reducible apply abort_inv

theorem adminSetTime_inv {x : Cmd} {s : State}  (hs : Inv s) : RowInv Inv (adminSetTime x s) := by
  unfold adminSetTime
  repeat' first
    | with_reducible assumption
    | with_reducible exact trivial
    | with_reducible intro _
    | with_reducible apply rowOk_inv
    | with_reducible apply rowFail_inv
    | with_reducible apply rowWait_inv
    | split
    | with_reducible apply done_inv
    | refine row_ok (by with_reducible assumption) ?_
    | refine row_fail (by with_reducible assumption) ?_
    | refine row_wait (by with_reducible assumption) ?_
    | (dsimp only)
    | (fail_if_no_progress (with_reducible refine inv_mk ?_ rfl rfl))

theorem execAdminSetTime_inv {c : Nat} {s : State}  (hs : Inv s) : OutInv Inv (execAdminSetTime c s) := by
  unfold execAdminSetTime
  repeat' first
    | with_reducible assumption
    | with_reducible exact trivial
    | with_reducible intro _
    | with_reducible apply out_next
    | with_reducible apply rowOk_inv
    | with_reducible apply rowFail_inv
    | with_reducible apply rowWait_inv
    | split
    | with_reducible apply drainAll_inv
    | with_reducible apply freshRow_inv
    | with_reducible apply adminSetTime_inv

theorem queryLimits_inv {x : Cmd} {s : State}  (hs : Inv s) : RowInv Inv (queryLimits x s) := by
  unfold queryLimits
  repeat' first
    | with_reducible assumption
    | with_reducible exact trivial
    | with_reducible intro _
    | with_reducible apply ok_inv
    | with_reducible apply fail_inv
    | with_reducible apply wait_inv
    | with_reducible apply rowOk_inv
    | with_reducible apply rowFail_inv
    | with_reducible apply rowWait_inv
    | with_reducible refine row_andThen ?_ ?_
    | split
    | with_reducible refine res_andThen ?_ ?_
    | with_reducible apply writeDev_inv
    | with_reducible apply done_inv
    | with_reducible apply failAt_inv

theorem execQueryLimits_inv {c : Nat} {s : State}  (hs : Inv s) : OutInv Inv (execQueryLimits c s) := by
  unfold execQueryLimits
  repeat' first
    | with_reducible assumption
    | with_reducible exact trivial
    | with_reducible intro _
    | with_reducible apply out_next
    | with_reducible apply rowOk_inv
    | with_reducible apply rowFail_inv
    | with_reducible apply rowWait_inv
    | split
    | with_reducible apply drainAll_inv
    | with_reducible apply freshRow_inv
    | with_reducible apply queryLimits_inv

theorem raiseKey_inv {slot : Nat} {s : State}  (hs : Inv s) : Inv (raiseKey slot s) := by
  unfold raiseKey
  repeat' first
    | with_reducible assumption
    | with_reducible exact trivial
    | with_reducible intro _
    | split
    | with_reducible apply raise_inv

theorem unwrapKey_inv {x : Cmd} {s : State} {f : BitVec 256 → State → Res State} (hf : ∀ a0 a1, Inv a1 → RowInv Inv (f a0 a1)) (hs : Inv s) : RowInv Inv (unwrapKey x s f) := by
  unfold unwrapKey
  repeat' first
    | with_reducible assumption
    | with_reducible exact trivial
    | with_reducible intro _
    | with_reducible refine row_ite ?_ ?_
    | with_reducible refine res_ite ?_ ?_
    | with_reducible refine inv_ite ?_ ?_
    | with_reducible apply rowOk_inv
    | with_reducible apply rowFail_inv
    | with_reducible apply rowWait_inv
    | split
    | with_reducible apply bumpSat_inv
    | with_reducible apply blkFault_inv
    | with_reducible apply failAt_inv
    | with_reducible apply hf

theorem keyLoad_inv {x : Cmd} {s : State}  (hs : Inv s) : RowInv Inv (keyLoad x s) := by
  unfold keyLoad
  repeat' first
    | with_reducible assumption
    | with_reducible exact trivial
    | with_reducible intro _
    | with_reducible refine row_ite ?_ ?_
    | with_reducible refine res_ite ?_ ?_
    | with_reducible refine inv_ite ?_ ?_
    | with_reducible apply rowOk_inv
    | with_reducible apply rowFail_inv
    | with_reducible apply rowWait_inv
    | split
    | with_reducible apply done_inv
    | with_reducible apply failAt_inv
    | with_reducible apply raiseKey_inv
    | with_reducible apply unwrapKey_inv
    | refine row_ok (by with_reducible assumption) ?_
    | refine row_fail (by with_reducible assumption) ?_
    | refine row_wait (by with_reducible assumption) ?_
    | (dsimp only)
    | (fail_if_no_progress (with_reducible refine inv_mk ?_ rfl rfl))

theorem execKeyLoad_inv {c : Nat} {s : State}  (hs : Inv s) : OutInv Inv (execKeyLoad c s) := by
  unfold execKeyLoad
  repeat' first
    | with_reducible assumption
    | with_reducible exact trivial
    | with_reducible intro _
    | with_reducible apply out_next
    | with_reducible apply rowOk_inv
    | with_reducible apply rowFail_inv
    | with_reducible apply rowWait_inv
    | split
    | with_reducible apply drainAll_inv
    | with_reducible apply freshRow_inv
    | with_reducible apply keyLoad_inv

theorem keyClear_inv {x : Cmd} {s : State}  (hs : Inv s) : RowInv Inv (keyClear x s) := by
  unfold keyClear
  repeat' first
    | with_reducible assumption
    | with_reducible exact trivial
    | with_reducible intro _
    | with_reducible apply rowOk_inv
    | with_reducible apply rowFail_inv
    | with_reducible apply rowWait_inv
    | split
    | with_reducible apply done_inv

theorem execKeyClear_inv {c : Nat} {s : State}  (hs : Inv s) : OutInv Inv (execKeyClear c s) := by
  unfold execKeyClear
  repeat' first
    | with_reducible assumption
    | with_reducible exact trivial
    | with_reducible intro _
    | with_reducible apply out_next
    | with_reducible apply rowOk_inv
    | with_reducible apply rowFail_inv
    | with_reducible apply rowWait_inv
    | split
    | with_reducible apply drainAll_inv
    | with_reducible apply freshRow_inv
    | with_reducible apply keyClear_inv

theorem fabricKey_inv {x : Cmd} {s : State}  (hs : Inv s) : RowInv Inv (fabricKey x s) := by
  unfold fabricKey
  repeat' first
    | with_reducible assumption
    | with_reducible exact trivial
    | with_reducible intro _
    | with_reducible refine row_ite ?_ ?_
    | with_reducible refine res_ite ?_ ?_
    | with_reducible refine inv_ite ?_ ?_
    | with_reducible apply rowOk_inv
    | with_reducible apply rowFail_inv
    | with_reducible apply rowWait_inv
    | split
    | with_reducible apply done_inv
    | with_reducible apply failAt_inv
    | with_reducible apply raiseKey_inv
    | with_reducible apply unwrapKey_inv
    | refine row_ok (by with_reducible assumption) ?_
    | refine row_fail (by with_reducible assumption) ?_
    | refine row_wait (by with_reducible assumption) ?_
    | (dsimp only)
    | (fail_if_no_progress (with_reducible refine inv_mk ?_ rfl rfl))

theorem execFabricKey_inv {c : Nat} {s : State}  (hs : Inv s) : OutInv Inv (execFabricKey c s) := by
  unfold execFabricKey
  repeat' first
    | with_reducible assumption
    | with_reducible exact trivial
    | with_reducible intro _
    | with_reducible apply out_next
    | with_reducible apply rowOk_inv
    | with_reducible apply rowFail_inv
    | with_reducible apply rowWait_inv
    | split
    | with_reducible apply drainAll_inv
    | with_reducible apply freshRow_inv
    | with_reducible apply fabricKey_inv

theorem accountRead_inv {x : Cmd} {s : State}  (hs : Inv s) : RowInv Inv (accountRead x s) := by
  unfold accountRead
  repeat' first
    | with_reducible assumption
    | with_reducible exact trivial
    | with_reducible intro _
    | with_reducible refine row_ite ?_ ?_
    | with_reducible refine res_ite ?_ ?_
    | with_reducible refine inv_ite ?_ ?_
    | with_reducible apply ok_inv
    | with_reducible apply fail_inv
    | with_reducible apply wait_inv
    | with_reducible apply rowOk_inv
    | with_reducible apply rowFail_inv
    | with_reducible apply rowWait_inv
    | with_reducible refine row_andThen ?_ ?_
    | split
    | with_reducible refine res_andThen ?_ ?_
    | with_reducible apply writeDev_inv
    | with_reducible apply done_inv
    | with_reducible apply failAt_inv

theorem execAccountRead_inv {c : Nat} {s : State}  (hs : Inv s) : OutInv Inv (execAccountRead c s) := by
  unfold execAccountRead
  repeat' first
    | with_reducible assumption
    | with_reducible exact trivial
    | with_reducible intro _
    | with_reducible apply out_next
    | with_reducible apply rowOk_inv
    | with_reducible apply rowFail_inv
    | with_reducible apply rowWait_inv
    | split
    | with_reducible apply drainAll_inv
    | with_reducible apply freshRow_inv
    | with_reducible apply accountRead_inv

theorem securityState_inv {x : Cmd} {s : State}  (hs : Inv s) : RowInv Inv (securityState x s) := by
  unfold securityState
  repeat' first
    | with_reducible assumption
    | with_reducible exact trivial
    | with_reducible intro _
    | with_reducible apply ok_inv
    | with_reducible apply fail_inv
    | with_reducible apply wait_inv
    | with_reducible apply rowOk_inv
    | with_reducible apply rowFail_inv
    | with_reducible apply rowWait_inv
    | with_reducible refine row_andThen ?_ ?_
    | split
    | with_reducible refine res_andThen ?_ ?_
    | with_reducible apply writeDev_inv
    | with_reducible apply done_inv

theorem execSecurityState_inv {c : Nat} {s : State}  (hs : Inv s) : OutInv Inv (execSecurityState c s) := by
  unfold execSecurityState
  repeat' first
    | with_reducible assumption
    | with_reducible exact trivial
    | with_reducible intro _
    | with_reducible apply out_next
    | with_reducible apply rowOk_inv
    | with_reducible apply rowFail_inv
    | with_reducible apply rowWait_inv
    | split
    | with_reducible apply drainAll_inv
    | with_reducible apply freshRow_inv
    | with_reducible apply securityState_inv

end Sys2Proof.Machine
end

