-- ==== Sys2Proof/Laws/KeepsCrook.lean ====
section
/-! SUPPORT. The functions of Machine/Crook.lean keep the invariant. -/

namespace Sys2Proof.Machine

theorem cachePut_inv {e : CacheEntry} {s : State}  (hs : Inv s) : Inv (cachePut e s) := by
  unfold cachePut
  repeat' first
    | with_reducible assumption
    | with_reducible exact trivial
    | with_reducible intro _
    | with_reducible refine inv_ite ?_ ?_
    | split
    | with_reducible apply crookMod_inv

theorem cacheFail_inv {d : Nat} {page : Nat} {status : Nat} {s : State}  (hs : Inv s) : Inv (cacheFail d page status s) := by
  unfold cacheFail
  repeat' first
    | with_reducible assumption
    | with_reducible exact trivial
    | with_reducible intro _
    | split
    | with_reducible apply crookMod_inv

theorem takeReq_inv {d : Nat} {page : Nat} {kind : Nat} {s : State}  (hs : Inv s) : OptPairInv Inv (takeReq d page kind s) := by
  unfold takeReq
  repeat' first
    | with_reducible assumption
    | with_reducible exact trivial
    | with_reducible intro _
    | with_reducible apply optpSome_inv
    | with_reducible exact optpNone_inv
    | split
    | with_reducible apply crookMod_inv

theorem noteFaults_inv {d : Nat} {page : Nat} {st : Bool → Option Nat} {but : List Nat} {s : State}  (hs : Inv s) : Inv (noteFaults d page st but s).2 := by
  unfold noteFaults
  repeat' first
    | with_reducible assumption
    | with_reducible exact trivial
    | with_reducible intro _
    | split
    | with_reducible refine inv_foldl ?_ ?_
    | with_reducible apply bumpSat_inv
    | with_reducible apply blkFault_inv
    | with_reducible apply cmdMod_inv

theorem xlatFailsBut_inv {but : List Nat} {d : Nat} {page : Nat} {status : Nat} {s : State}  (hs : Inv s) : Inv (xlatFailsBut but d page status s) := by
  unfold xlatFailsBut
  repeat' first
    | with_reducible assumption
    | with_reducible exact trivial
    | with_reducible intro _
    | with_reducible refine inv_ite ?_ ?_
    | split
    | with_reducible apply cacheFail_inv
    | with_reducible apply noteFaults_inv

theorem xlatFails_inv {d : Nat} {page : Nat} {status : Nat} {s : State}  (hs : Inv s) : Inv (xlatFails d page status s) := by
  unfold xlatFails
  repeat' first
    | with_reducible assumption
    | with_reducible exact trivial
    | with_reducible intro _
    | split
    | with_reducible apply xlatFailsBut_inv

theorem notPresent_inv {d : Nat} {page : Nat} {s : State}  (hs : Inv s) : Inv (notPresent d page s) := by
  unfold notPresent
  repeat' first
    | with_reducible assumption
    | with_reducible exact trivial
    | with_reducible intro _
    | with_reducible refine inv_ite ?_ ?_
    | split
    | with_reducible apply askPage_inv
    | with_reducible apply xlatFailsBut_inv

theorem atsError_inv {d : Nat} {status : Nat} {addr : Word64} {pcie : Nat} {s : State}  (hs : Inv s) : Inv (atsError d status addr pcie s) := by
  unfold atsError
  repeat' first
    | with_reducible assumption
    | with_reducible exact trivial
    | with_reducible intro _
    | split
    | with_reducible apply blkFault_inv
    | with_reducible apply raise_inv

theorem blameHost_inv {f : Cmd → Bool} {s : State}  (hs : Inv s) : Inv (blameHost f s) := by
  unfold blameHost
  repeat' first
    | with_reducible assumption
    | with_reducible exact trivial
    | with_reducible intro _
    | with_reducible refine inv_ite ?_ ?_
    | split
    | (dsimp only)
    | (fail_if_no_progress (with_reducible refine inv_mk ?_ rfl rfl))

theorem atsLatency_inv {ns : Nat} {s : State}  (hs : Inv s) : Inv (atsLatency ns s) := by
  unfold atsLatency
  repeat' first
    | with_reducible assumption
    | with_reducible exact trivial
    | with_reducible intro _
    | with_reducible refine inv_ite ?_ ?_
    | split
    | with_reducible apply bumpSat_inv
    | with_reducible apply regField_inv

theorem atsCompletion_inv {d : Nat} {va : Nat} {a : AtsAnswer} {ns : Nat} {s : State}  (hs : Inv s) : Inv (atsCompletion d va a ns s) := by
  unfold atsCompletion
  repeat' first
    | with_reducible assumption
    | with_reducible exact trivial
    | with_reducible intro _
    | with_reducible refine inv_ite ?_ ?_
    | split
    | with_reducible apply cachePut_inv
    | with_reducible apply takeReq_inv
    | with_reducible apply noteFaults_inv
    | with_reducible apply xlatFails_inv
    | with_reducible apply notPresent_inv
    | with_reducible apply atsError_inv
    | with_reducible apply blameHost_inv
    | with_reducible apply atsLatency_inv
    | refine inv_snd (by with_reducible assumption) ?_
    | refine optp_some (by with_reducible assumption) ?_
    | (dsimp only)

theorem execAtsTranslationCompletion_inv {dom : Nat} {va : Nat} {a : AtsAnswer} {ns : Nat} {s : State}  (hs : Inv s) : OutInv Inv (execAtsTranslationCompletion dom va a ns s) := by
  unfold execAtsTranslationCompletion
  repeat' first
    | with_reducible assumption
    | with_reducible exact trivial
    | with_reducible intro _
    | with_reducible apply out_next
    | split
    | with_reducible apply drainAll_inv
    | with_reducible apply atsCompletion_inv

theorem priFailed_inv {d : Nat} {page : Nat} {s : State}  (hs : Inv s) : Inv (priFailed d page s) := by
  unfold priFailed
  repeat' first
    | with_reducible assumption
    | with_reducible exact trivial
    | with_reducible intro _
    | split
    | with_reducible apply bumpSat_inv
    | with_reducible apply blkFault_inv
    | with_reducible apply xlatFails_inv

theorem requestAgain_inv {d : Nat} {page : Nat} {write : Bool} {s : State}  (hs : Inv s) : Inv (requestAgain d page write s) := by
  unfold requestAgain
  repeat' first
    | with_reducible assumption
    | with_reducible exact trivial
    | with_reducible intro _
    | with_reducible refine inv_ite ?_ ?_
    | split
    | with_reducible apply bumpWrap_inv
    | with_reducible apply emit_inv
    | with_reducible apply crookMod_inv

theorem pageResponse_inv {d : Nat} {va : Nat} {a : PriAnswer} {s : State}  (hs : Inv s) : Inv (pageResponse d va a s) := by
  unfold pageResponse
  repeat' first
    | with_reducible assumption
    | with_reducible exact trivial
    | with_reducible intro _
    | split
    | with_reducible apply crookMod_inv
    | with_reducible apply takeReq_inv
    | with_reducible apply priFailed_inv
    | with_reducible apply requestAgain_inv
    | refine optp_some (by with_reducible assumption) ?_
    | (dsimp only)

theorem execPageRequestResponse_inv {dom : Nat} {va : Nat} {a : PriAnswer} {s : State}  (hs : Inv s) : OutInv Inv (execPageRequestResponse dom va a s) := by
  unfold execPageRequestResponse
  repeat' first
    | with_reducible assumption
    | with_reducible exact trivial
    | with_reducible intro _
    | with_reducible apply out_next
    | split
    | with_reducible apply pageResponse_inv

theorem pageTimeout_inv {d : Nat} {va : Nat} {s : State}  (hs : Inv s) : Inv (pageTimeout d va s) := by
  unfold pageTimeout
  repeat' first
    | with_reducible assumption
    | with_reducible exact trivial
    | with_reducible intro _
    | split
    | with_reducible apply takeReq_inv
    | with_reducible apply priFailed_inv
    | refine optp_some (by with_reducible assumption) ?_

theorem execPageRequestTimeout_inv {dom : Nat} {va : Nat} {s : State}  (hs : Inv s) : OutInv Inv (execPageRequestTimeout dom va s) := by
  unfold execPageRequestTimeout
  repeat' first
    | with_reducible assumption
    | with_reducible exact trivial
    | with_reducible intro _
    | with_reducible apply out_next
    | split
    | with_reducible apply pageTimeout_inv

theorem cacheGranule_inv {d : Nat} {g : Region} {first : Nat} {es : List Word64} {s : State}  (hs : Inv s) : Inv (cacheGranule d g first es s) := by
  unfold cacheGranule
  repeat' first
    | with_reducible assumption
    | with_reducible exact trivial
    | with_reducible intro _
    | with_reducible refine inv_ite ?_ ?_
    | split
    | with_reducible refine inv_foldl ?_ ?_
    | with_reducible apply cachePut_inv

theorem tableReadDone_inv {d : Nat} {va : Nat} {a : TableAnswer} {s : State}  (hs : Inv s) : Inv (tableReadDone d va a s) := by
  unfold tableReadDone
  repeat' first
    | with_reducible assumption
    | with_reducible exact trivial
    | with_reducible intro _
    | with_reducible refine inv_ite ?_ ?_
    | split
    | with_reducible apply takeReq_inv
    | with_reducible apply xlatFails_inv
    | with_reducible apply atsError_inv
    | with_reducible apply cacheGranule_inv
    | refine optp_some (by with_reducible assumption) ?_
    | (dsimp only)

theorem execRegionTableReadDone_inv {dom : Nat} {va : Nat} {a : TableAnswer} {s : State}  (hs : Inv s) : OutInv Inv (execRegionTableReadDone dom va a s) := by
  unfold execRegionTableReadDone
  repeat' first
    | with_reducible assumption
    | with_reducible exact trivial
    | with_reducible intro _
    | with_reducible apply out_next
    | split
    | with_reducible apply drainAll_inv
    | with_reducible apply tableReadDone_inv

theorem atsInvalidate_inv {pasid : Option Nat} {base : Nat} {len : Nat} {s : State}  (hs : Inv s) : Inv (atsInvalidate pasid base len s) := by
  unfold atsInvalidate
  repeat' first
    | with_reducible assumption
    | with_reducible exact trivial
    | with_reducible intro _
    | split
    | with_reducible refine inv_foldl ?_ ?_
    | with_reducible refine snd_foldl ?_ ?_
    | with_reducible apply beginInval_inv
    | with_reducible apply blameHost_inv

theorem execAtsInvalidateRequest_inv {pasid : Option Nat} {base : Nat} {len : Nat} {s : State}  (hs : Inv s) : OutInv Inv (execAtsInvalidateRequest pasid base len s) := by
  unfold execAtsInvalidateRequest
  repeat' first
    | with_reducible assumption
    | with_reducible exact trivial
    | with_reducible intro _
    | with_reducible apply out_next
    | split
    | with_reducible apply atsInvalidate_inv

theorem invalCount_inv {ns : Nat} {s : State}  (hs : Inv s) : Inv (invalCount ns s) := by
  unfold invalCount
  repeat' first
    | with_reducible assumption
    | with_reducible exact trivial
    | with_reducible intro _
    | with_reducible refine inv_ite ?_ ?_
    | split
    | with_reducible apply bumpWrap_inv
    | with_reducible apply regField_inv

theorem invalDrained_inv {n : Nat} {ns : Nat} {s : State}  (hs : Inv s) : Inv (invalDrained n ns s) := by
  unfold invalDrained
  repeat' first
    | with_reducible assumption
    | with_reducible exact trivial
    | with_reducible intro _
    | with_reducible refine inv_ite ?_ ?_
    | split
    | with_reducible apply emit_inv
    | with_reducible apply crookMod_inv
    | with_reducible apply finish_inv
    | with_reducible apply invalCount_inv

theorem execInvalidationDrained_inv {n : Nat} {ns : Nat} {s : State}  (hs : Inv s) : OutInv Inv (execInvalidationDrained n ns s) := by
  unfold execInvalidationDrained
  repeat' first
    | with_reducible assumption
    | with_reducible exact trivial
    | with_reducible intro _
    | with_reducible apply out_next
    | split
    | with_reducible apply invalDrained_inv

theorem dropHolds__inv {f : CacheEntry → Bool} {s : State}  (hs : Inv s) : Inv (dropHolds_ f s) := by
  unfold dropHolds_
  repeat' first
    | with_reducible assumption
    | with_reducible exact trivial
    | with_reducible intro _
    | split
    | (dsimp only)
    | (fail_if_no_progress (with_reducible refine inv_mk ?_ rfl rfl))

theorem atsCleared_inv {s : State}  (hs : Inv s) : Inv (atsCleared s) := by
  unfold atsCleared
  repeat' first
    | with_reducible assumption
    | with_reducible exact trivial
    | with_reducible intro _
    | with_reducible refine inv_ite ?_ ?_
    | split
    | with_reducible apply advanceEpoch_inv
    | with_reducible apply crookMod_inv
    | with_reducible apply dropHolds__inv

theorem execAtsEnableCleared_inv {s : State}  (hs : Inv s) : OutInv Inv (execAtsEnableCleared s) := by
  unfold execAtsEnableCleared
  repeat' first
    | with_reducible assumption
    | with_reducible exact trivial
    | with_reducible intro _
    | with_reducible apply out_next
    | split
    | with_reducible apply atsCleared_inv

theorem execPriEnableSet_inv {s : State}  (hs : Inv s) : OutInv Inv (execPriEnableSet s) := by
  unfold execPriEnableSet
  repeat' first
    | with_reducible assumption
    | with_reducible exact trivial
    | with_reducible intro _
    | with_reducible apply out_next
    | split
    | with_reducible apply crookMod_inv

end Sys2Proof.Machine
end

