-- ==== Sys2Proof/Laws/KeepsFabric.lean ====
section
/-! SUPPORT. The functions of Machine/Fabric.lean keep the invariant. -/

namespace Sys2Proof.Machine

theorem cstMod_inv {f : Consort → Consort} {s : State} (hs : Inv s) (hf : (f s.cst).ports.length = s.cst.ports.length) :
    Inv (cstMod f s) :=
  ⟨hs.mem, hs.windows, hs.classes, hf.trans hs.ports, hs.rails⟩

theorem portMod_inv {n : Nat} {f : Port → Port} {s : State}  (hs : Inv s) : Inv (portMod n f s) := by
  unfold portMod
  repeat' first
    | with_reducible assumption
    | with_reducible exact trivial
    | with_reducible intro _
    | with_reducible refine inv_ite ?_ ?_
    | split
    | with_reducible apply noSpare_inv
    | with_reducible apply cstMod_inv
    | with_reducible exact len_refl
    | with_reducible exact len_refl'
    | (simp only [List.length_map, List.length_range, List.length_set])

theorem raisePort_inv {n : Nat} {sev : Nat} {s : State}  (hs : Inv s) : Inv (raisePort n sev s) := by
  unfold raisePort
  repeat' first
    | with_reducible assumption
    | with_reducible exact trivial
    | with_reducible intro _
    | split
    | with_reducible apply raise_inv

theorem portState_inv {n : Nat} {up : Bool} {s : State}  (hs : Inv s) : Inv (portState n up s) := by
  unfold portState
  repeat' first
    | with_reducible assumption
    | with_reducible exact trivial
    | with_reducible intro _
    | with_reducible refine inv_ite ?_ ?_
    | split
    | with_reducible apply portMod_inv
    | with_reducible apply raisePort_inv

theorem execPortState_inv {port : Nat} {up : Bool} {s : State}  (hs : Inv s) : OutInv Inv (execPortState port up s) := by
  unfold execPortState
  repeat' first
    | with_reducible assumption
    | with_reducible exact trivial
    | with_reducible intro _
    | with_reducible apply out_next
    | split
    | with_reducible apply drainAll_inv
    | with_reducible apply portState_inv

theorem cableChange_inv {n : Nat} {present : Bool} {memAnswers : Bool} {s : State}  (hs : Inv s) : Inv (cableChange n present memAnswers s) := by
  unfold cableChange
  repeat' first
    | with_reducible assumption
    | with_reducible exact trivial
    | with_reducible intro _
    | with_reducible refine inv_ite ?_ ?_
    | split
    | with_reducible apply portMod_inv
    | with_reducible apply portState_inv

theorem execCablePresenceChange_inv {port : Nat} {present : Bool} {memAnswers : Bool} {s : State}  (hs : Inv s) : OutInv Inv (execCablePresenceChange port present memAnswers s) := by
  unfold execCablePresenceChange
  repeat' first
    | with_reducible assumption
    | with_reducible exact trivial
    | with_reducible intro _
    | with_reducible apply out_next
    | split
    | with_reducible apply drainAll_inv
    | with_reducible apply cableChange_inv

theorem laneRetired_inv {n : Nat} {lane : Nat} {s : State}  (hs : Inv s) : Inv (laneRetired n lane s) := by
  unfold laneRetired
  repeat' first
    | with_reducible assumption
    | with_reducible exact trivial
    | with_reducible intro _
    | with_reducible refine inv_ite ?_ ?_
    | split
    | with_reducible apply blkFault_inv
    | with_reducible apply raise_inv
    | with_reducible apply noSpare_inv
    | with_reducible apply retireUnit_inv
    | with_reducible apply portMod_inv
    | with_reducible apply raisePort_inv
    | with_reducible apply portState_inv

theorem laneSpared_inv {n : Nat} {lane : Nat} {loopbackFails : Bool} {s : State}  (hs : Inv s) : Inv (laneSpared n lane loopbackFails s) := by
  unfold laneSpared
  repeat' first
    | with_reducible assumption
    | with_reducible exact trivial
    | with_reducible intro _
    | with_reducible refine inv_ite ?_ ?_
    | split
    | with_reducible apply laneRetired_inv

theorem execLaneSpared_inv {port : Nat} {lane : Nat} {loopbackFails : Bool} {s : State}  (hs : Inv s) : OutInv Inv (execLaneSpared port lane loopbackFails s) := by
  unfold execLaneSpared
  repeat' first
    | with_reducible assumption
    | with_reducible exact trivial
    | with_reducible intro _
    | with_reducible apply out_next
    | split
    | with_reducible apply drainAll_inv
    | with_reducible apply laneSpared_inv

theorem addressRequest_inv {n : Nat} {hi : Nat} {lo : Nat} {s : State}  (hs : Inv s) : Inv (addressRequest n hi lo s) := by
  unfold addressRequest
  repeat' first
    | with_reducible assumption
    | with_reducible exact trivial
    | with_reducible intro _
    | with_reducible refine inv_ite ?_ ?_
    | split
    | with_reducible apply emit_inv

theorem execAddressResolutionRequest_inv {port : Nat} {ipHi : Nat} {ipLo : Nat} {s : State}  (hs : Inv s) : OutInv Inv (execAddressResolutionRequest port ipHi ipLo s) := by
  unfold execAddressResolutionRequest
  repeat' first
    | with_reducible assumption
    | with_reducible exact trivial
    | with_reducible intro _
    | with_reducible apply out_next
    | split
    | with_reducible apply addressRequest_inv

theorem raisePeer_inv {i : Nat} {sev : Nat} {s : State}  (hs : Inv s) : Inv (raisePeer i sev s) := by
  unfold raisePeer
  repeat' first
    | with_reducible assumption
    | with_reducible exact trivial
    | with_reducible intro _
    | split
    | with_reducible apply raise_inv

theorem sendHello_inv {i : Nat} {isAck : Bool} {s : State}  (hs : Inv s) : Inv (sendHello i isAck s) := by
  unfold sendHello
  repeat' first
    | with_reducible assumption
    | with_reducible exact trivial
    | with_reducible intro _
    | with_reducible refine inv_ite ?_ ?_
    | split
    | with_reducible apply emit_inv

theorem newConn_inv {i : Nat} {s : State}  (hs : Inv s) : Inv (newConn i s) := by
  unfold newConn
  repeat' first
    | with_reducible assumption
    | with_reducible exact trivial
    | with_reducible intro _
    | split
    | with_reducible apply peerMod_inv
    | with_reducible apply cstMod_inv
    | with_reducible exact len_refl

theorem connDown_inv {i : Nat} {s : State}  (hs : Inv s) : Inv (connDown i s) := by
  unfold connDown
  repeat' first
    | with_reducible assumption
    | with_reducible exact trivial
    | with_reducible intro _
    | split
    | with_reducible apply peerMod_inv
    | with_reducible apply fansDown_inv
    | with_reducible apply raisePeer_inv
    | with_reducible apply newConn_inv

theorem openFresh_inv {i : Nat} {conn : Nat} {shard : Nat} {ports : Nat} {s : State}  (hs : Inv s) : Inv (openFresh i conn shard ports s) := by
  unfold openFresh
  repeat' first
    | with_reducible assumption
    | with_reducible exact trivial
    | with_reducible intro _
    | with_reducible refine inv_ite ?_ ?_
    | split
    | with_reducible apply flushMsgs_inv
    | with_reducible apply peerMod_inv
    | with_reducible apply shipRest_inv
    | with_reducible apply cstMod_inv
    | with_reducible apply raisePeer_inv
    | with_reducible exact len_refl

theorem openConn_inv {i : Nat} {conn : Nat} {shard : Nat} {ports : Nat} {s : State}  (hs : Inv s) : Inv (openConn i conn shard ports s) := by
  unfold openConn
  repeat' first
    | with_reducible assumption
    | with_reducible exact trivial
    | with_reducible intro _
    | with_reducible refine inv_ite ?_ ?_
    | split
    | with_reducible apply connDown_inv
    | with_reducible apply openFresh_inv

theorem fromPeer_inv {i : Nat} {f : Peer → State → State} {s : State} (hf : ∀ a0 a1, Inv a1 → Inv (f a0 a1)) (hs : Inv s) : Inv (fromPeer i f s) := by
  unfold fromPeer
  repeat' first
    | with_reducible assumption
    | with_reducible exact trivial
    | with_reducible intro _
    | with_reducible refine inv_ite ?_ ?_
    | split
    | with_reducible apply bumpSat_inv
    | with_reducible apply hf

theorem execHello_inv {peer : Nat} {conn : Nat} {shard : Nat} {portsUp : Nat} {s : State}  (hs : Inv s) : OutInv Inv (execHello peer conn shard portsUp s) := by
  unfold execHello
  repeat' first
    | with_reducible assumption
    | with_reducible exact trivial
    | with_reducible intro _
    | with_reducible apply out_next
    | split
    | with_reducible apply drainAll_inv
    | with_reducible apply sendHello_inv
    | with_reducible apply openConn_inv
    | with_reducible apply fromPeer_inv

theorem execHelloAck_inv {peer : Nat} {conn : Nat} {shard : Nat} {portsUp : Nat} {s : State}  (hs : Inv s) : OutInv Inv (execHelloAck peer conn shard portsUp s) := by
  unfold execHelloAck
  repeat' first
    | with_reducible assumption
    | with_reducible exact trivial
    | with_reducible intro _
    | with_reducible apply out_next
    | split
    | with_reducible apply drainAll_inv
    | with_reducible apply openConn_inv
    | with_reducible apply fromPeer_inv

theorem execClose_inv {peer : Nat} {s : State}  (hs : Inv s) : OutInv Inv (execClose peer s) := by
  unfold execClose
  repeat' first
    | with_reducible assumption
    | with_reducible exact trivial
    | with_reducible intro _
    | with_reducible refine out_ite ?_ ?_
    | with_reducible refine inv_ite ?_ ?_
    | with_reducible apply out_next
    | split
    | with_reducible apply drainAll_inv
    | with_reducible apply connDown_inv
    | with_reducible apply fromPeer_inv

theorem connectionDown_inv {i : Nat} {s : State}  (hs : Inv s) : Inv (connectionDown i s) := by
  unfold connectionDown
  repeat' first
    | with_reducible assumption
    | with_reducible exact trivial
    | with_reducible intro _
    | with_reducible refine inv_ite ?_ ?_
    | split
    | with_reducible apply blkFault_inv
    | with_reducible apply sendHello_inv
    | with_reducible apply connDown_inv

theorem execConnectionDown_inv {peer : Nat} {s : State}  (hs : Inv s) : OutInv Inv (execConnectionDown peer s) := by
  unfold execConnectionDown
  repeat' first
    | with_reducible assumption
    | with_reducible exact trivial
    | with_reducible intro _
    | with_reducible apply out_next
    | split
    | with_reducible apply drainAll_inv
    | with_reducible apply connectionDown_inv

theorem helloRetry_inv {i : Nat} {s : State}  (hs : Inv s) : Inv (helloRetry i s) := by
  unfold helloRetry
  repeat' first
    | with_reducible assumption
    | with_reducible exact trivial
    | with_reducible intro _
    | with_reducible refine inv_ite ?_ ?_
    | split
    | with_reducible apply sendHello_inv

theorem execHelloRetry_inv {peer : Nat} {s : State}  (hs : Inv s) : OutInv Inv (execHelloRetry peer s) := by
  unfold execHelloRetry
  repeat' first
    | with_reducible assumption
    | with_reducible exact trivial
    | with_reducible intro _
    | with_reducible apply out_next
    | split
    | with_reducible apply helloRetry_inv

theorem sendAck_inv {i : Nat} {s : State}  (hs : Inv s) : Inv (sendAck i s) := by
  unfold sendAck
  repeat' first
    | with_reducible assumption
    | with_reducible exact trivial
    | with_reducible intro _
    | with_reducible refine inv_ite ?_ ?_
    | split
    | with_reducible refine inv_foldl ?_ ?_
    | with_reducible apply emit_inv
    | with_reducible apply peerMod_inv

theorem ackDelay_inv {i : Nat} {s : State}  (hs : Inv s) : Inv (ackDelay i s) := by
  unfold ackDelay
  repeat' first
    | with_reducible assumption
    | with_reducible exact trivial
    | with_reducible intro _
    | with_reducible refine inv_ite ?_ ?_
    | split
    | with_reducible apply sendAck_inv

theorem execAckDelayTimer_inv {peer : Nat} {s : State}  (hs : Inv s) : OutInv Inv (execAckDelayTimer peer s) := by
  unfold execAckDelayTimer
  repeat' first
    | with_reducible assumption
    | with_reducible exact trivial
    | with_reducible intro _
    | with_reducible apply out_next
    | split
    | with_reducible apply ackDelay_inv

theorem dataFrom_inv {i : Nat} {h : PktHdr} {payload : List Byte} {ce : Bool} {p : Peer} {s : State}  (hs : Inv s) : Inv (dataFrom i h payload ce p s) := by
  unfold dataFrom
  repeat' first
    | with_reducible assumption
    | with_reducible exact trivial
    | with_reducible intro _
    | with_reducible refine inv_ite ?_ ?_
    | split
    | with_reducible apply peerMod_inv
    | with_reducible apply sendAck_inv

theorem dataPacket_inv {i : Nat} {known : Bool} {h : PktHdr} {payload : List Byte} {ce : Bool} {s : State}  (hs : Inv s) : Inv (dataPacket i known h payload ce s) := by
  unfold dataPacket
  repeat' first
    | with_reducible assumption
    | with_reducible exact trivial
    | with_reducible intro _
    | with_reducible refine inv_ite ?_ ?_
    | split
    | with_reducible apply bumpSat_inv
    | with_reducible apply fromPeer_inv
    | with_reducible apply dataFrom_inv

theorem execDataPacket_inv {peer : Nat} {known : Bool} {_port : Nat} {hdr : PktHdr} {payload : List Byte} {ce : Bool} {s : State}  (hs : Inv s) : OutInv Inv (execDataPacket peer known _port hdr payload ce s) := by
  unfold execDataPacket
  repeat' first
    | with_reducible assumption
    | with_reducible exact trivial
    | with_reducible intro _
    | with_reducible apply out_next
    | split
    | with_reducible apply dataPacket_inv

theorem ackFrom_inv {i : Nat} {ackPsn : Nat} {bitmap : Word64} {ce : Nat} {p : Peer} {s : State}  (hs : Inv s) : Inv (ackFrom i ackPsn bitmap ce p s) := by
  unfold ackFrom
  repeat' first
    | with_reducible assumption
    | with_reducible exact trivial
    | with_reducible intro _
    | with_reducible refine inv_ite ?_ ?_
    | split
    | with_reducible apply flushMsgs_inv
    | with_reducible apply peerMod_inv

theorem execAck_inv {peer : Nat} {ackPsn : Nat} {bitmap : Word64} {ce : Nat} {s : State}  (hs : Inv s) : OutInv Inv (execAck peer ackPsn bitmap ce s) := by
  unfold execAck
  repeat' first
    | with_reducible assumption
    | with_reducible exact trivial
    | with_reducible intro _
    | with_reducible apply out_next
    | split
    | with_reducible apply fromPeer_inv
    | with_reducible apply ackFrom_inv

theorem resendTimeout_inv {i : Nat} {s : State}  (hs : Inv s) : Inv (resendTimeout i s) := by
  unfold resendTimeout
  repeat' first
    | with_reducible assumption
    | with_reducible exact trivial
    | with_reducible intro _
    | with_reducible refine inv_ite ?_ ?_
    | split
    | with_reducible refine inv_foldl ?_ ?_
    | with_reducible apply emit_inv
    | with_reducible apply peerMod_inv

theorem execResendTimeout_inv {peer : Nat} {s : State}  (hs : Inv s) : OutInv Inv (execResendTimeout peer s) := by
  unfold execResendTimeout
  repeat' first
    | with_reducible assumption
    | with_reducible exact trivial
    | with_reducible intro _
    | with_reducible apply out_next
    | split
    | with_reducible apply resendTimeout_inv

theorem rateIncrease_inv {i : Nat} {s : State}  (hs : Inv s) : Inv (rateIncrease i s) := by
  unfold rateIncrease
  repeat' first
    | with_reducible assumption
    | with_reducible exact trivial
    | with_reducible intro _
    | with_reducible refine inv_ite ?_ ?_
    | split
    | with_reducible apply peerMod_inv

theorem execRateIncrease_inv {peer : Nat} {s : State}  (hs : Inv s) : OutInv Inv (execRateIncrease peer s) := by
  unfold execRateIncrease
  repeat' first
    | with_reducible assumption
    | with_reducible exact trivial
    | with_reducible intro _
    | with_reducible apply out_next
    | split
    | with_reducible apply rateIncrease_inv

theorem msgFrom_inv {i : Nat} {f : Peer → State → State} {s : State} (hf : ∀ a0 a1, Inv a1 → Inv (f a0 a1)) (hs : Inv s) : Inv (msgFrom i f s) := by
  unfold msgFrom
  repeat' first
    | with_reducible assumption
    | with_reducible exact trivial
    | with_reducible intro _
    | with_reducible refine inv_ite ?_ ?_
    | split
    | with_reducible apply hf

theorem refuseRole_inv {i : Nat} {q : Nat} {s : State}  (hs : Inv s) : Inv (refuseRole i q s) := by
  unfold refuseRole
  repeat' first
    | with_reducible assumption
    | with_reducible exact trivial
    | with_reducible intro _
    | split
    | with_reducible apply bumpSat_inv
    | with_reducible apply sendMsg_inv

theorem remoteCommit_inv {i : Nat} {q : Nat} {cmd : List Byte} {data : List Byte} {p : Peer} {s : State}  (hs : Inv s) : Inv (remoteCommit i q cmd data p s) := by
  unfold remoteCommit
  repeat' first
    | with_reducible assumption
    | with_reducible exact trivial
    | with_reducible intro _
    | with_reducible refine inv_ite ?_ ?_
    | split
    | with_reducible apply sendMsg_inv
    | with_reducible apply rejectCommit_inv
    | with_reducible apply acceptCommit_inv
    | with_reducible apply refuseRole_inv
    | (dsimp only)
    | (fail_if_no_progress (with_reducible refine inv_mk ?_ rfl rfl))

theorem execRcmd_inv {peer : Nat} {q : Nat} {cmd : List Byte} {data : List Byte} {s : State}  (hs : Inv s) : OutInv Inv (execRcmd peer q cmd data s) := by
  unfold execRcmd
  repeat' first
    | with_reducible assumption
    | with_reducible exact trivial
    | with_reducible intro _
    | with_reducible apply out_next
    | split
    | with_reducible apply drainAll_inv
    | with_reducible apply msgFrom_inv
    | with_reducible apply remoteCommit_inv

theorem sendRcpl_inv {i : Nat} {q : Nat} {s : State}  (hs : Inv s) : Inv (sendRcpl i q s) := by
  unfold sendRcpl
  repeat' first
    | with_reducible assumption
    | with_reducible exact trivial
    | with_reducible intro _
    | with_reducible refine inv_ite ?_ ?_
    | split
    | with_reducible apply postRecord_inv

theorem execRcpl_inv {peer : Nat} {q : Nat} {s : State}  (hs : Inv s) : OutInv Inv (execRcpl peer q s) := by
  unfold execRcpl
  repeat' first
    | with_reducible assumption
    | with_reducible exact trivial
    | with_reducible intro _
    | with_reducible apply out_next
    | split
    | with_reducible apply sendRcpl_inv

theorem execReject_inv {peer : Nat} {_q : Nat} {reason : Nat} {_nextSeq : Nat} {s : State}  (hs : Inv s) : OutInv Inv (execReject peer _q reason _nextSeq s) := by
  unfold execReject
  repeat' first
    | with_reducible assumption
    | with_reducible exact trivial
    | with_reducible intro _
    | with_reducible refine out_ite ?_ ?_
    | with_reducible refine inv_ite ?_ ?_
    | with_reducible apply out_next
    | split
    | with_reducible apply drainAll_inv
    | with_reducible apply fansRejected_inv
    | with_reducible apply msgFrom_inv

theorem sendEvent_inv {i : Nat} {p : Peer} {s : State}  (hs : Inv s) : Inv (sendEvent i p s) := by
  unfold sendEvent
  repeat' first
    | with_reducible assumption
    | with_reducible exact trivial
    | with_reducible intro _
    | split
    | with_reducible apply sendMsg_inv
    | with_reducible apply peerMod_inv

theorem execEvent_inv {peer : Nat} {s : State}  (hs : Inv s) : OutInv Inv (execEvent peer s) := by
  unfold execEvent
  repeat' first
    | with_reducible assumption
    | with_reducible exact trivial
    | with_reducible intro _
    | with_reducible apply out_next
    | split
    | with_reducible apply msgFrom_inv
    | with_reducible apply sendEvent_inv

theorem mirrorHold_inv {i : Nat} {recs : List MirrorRec} {p : Peer} {s : State}  (hs : Inv s) : Inv (mirrorHold i recs p s) := by
  unfold mirrorHold
  repeat' first
    | with_reducible assumption
    | with_reducible exact trivial
    | with_reducible intro _
    | with_reducible refine inv_ite ?_ ?_
    | split
    | with_reducible apply peerMod_inv
    | with_reducible apply mirrorTake_inv

theorem mrecFrom_inv {i : Nat} {recs : List MirrorRec} {p : Peer} {s : State}  (hs : Inv s) : Inv (mrecFrom i recs p s) := by
  unfold mrecFrom
  repeat' first
    | with_reducible assumption
    | with_reducible exact trivial
    | with_reducible intro _
    | with_reducible refine inv_ite ?_ ?_
    | split
    | with_reducible apply cstMod_inv
    | with_reducible apply refuseRole_inv
    | with_reducible apply mirrorHold_inv
    | with_reducible exact len_refl

theorem execMrec_inv {peer : Nat} {recs : List MirrorRec} {s : State}  (hs : Inv s) : OutInv Inv (execMrec peer recs s) := by
  unfold execMrec
  repeat' first
    | with_reducible assumption
    | with_reducible exact trivial
    | with_reducible intro _
    | with_reducible apply out_next
    | split
    | with_reducible apply msgFrom_inv
    | with_reducible apply mrecFrom_inv

theorem mfetchFrom_inv {i : Nat} {first : Nat} {last : Nat} {p : Peer} {s : State}  (hs : Inv s) : Inv (mfetchFrom i first last p s) := by
  unfold mfetchFrom
  repeat' first
    | with_reducible assumption
    | with_reducible exact trivial
    | with_reducible intro _
    | with_reducible refine inv_ite ?_ ?_
    | split
    | with_reducible apply sendMsg_inv
    | with_reducible apply refuseRole_inv

theorem execMfetch_inv {peer : Nat} {first : Nat} {last : Nat} {s : State}  (hs : Inv s) : OutInv Inv (execMfetch peer first last s) := by
  unfold execMfetch
  repeat' first
    | with_reducible assumption
    | with_reducible exact trivial
    | with_reducible intro _
    | with_reducible apply out_next
    | split
    | with_reducible apply msgFrom_inv
    | with_reducible apply mfetchFrom_inv

theorem mtrimFrom_inv {i : Nat} {ckptSeq : Nat} {dead : List (Nat × Nat)} {p : Peer} {s : State}  (hs : Inv s) : Inv (mtrimFrom i ckptSeq dead p s) := by
  unfold mtrimFrom
  repeat' first
    | with_reducible assumption
    | with_reducible exact trivial
    | with_reducible intro _
    | with_reducible refine inv_ite ?_ ?_
    | split
    | with_reducible refine inv_foldl ?_ ?_
    | with_reducible apply peerMod_inv
    | with_reducible apply mirrorTake_inv
    | with_reducible apply refuseRole_inv

theorem execMtrim_inv {peer : Nat} {ckptSeq : Nat} {dead : List (Nat × Nat)} {s : State}  (hs : Inv s) : OutInv Inv (execMtrim peer ckptSeq dead s) := by
  unfold execMtrim
  repeat' first
    | with_reducible assumption
    | with_reducible exact trivial
    | with_reducible intro _
    | with_reducible apply out_next
    | split
    | with_reducible apply msgFrom_inv
    | with_reducible apply mtrimFrom_inv

theorem mackFrom_inv {i : Nat} {seq : Nat} {s : State}  (hs : Inv s) : Inv (mackFrom i seq s) := by
  unfold mackFrom
  repeat' first
    | with_reducible assumption
    | with_reducible exact trivial
    | with_reducible intro _
    | with_reducible refine inv_ite ?_ ?_
    | split
    | with_reducible apply shipRest_inv
    | with_reducible apply bagMod_inv
    | with_reducible apply wakeFlush_inv
    | with_reducible apply cstMod_inv
    | with_reducible exact len_refl

theorem execMack_inv {peer : Nat} {seq : Nat} {s : State}  (hs : Inv s) : OutInv Inv (execMack peer seq s) := by
  unfold execMack
  repeat' first
    | with_reducible assumption
    | with_reducible exact trivial
    | with_reducible intro _
    | with_reducible apply out_next
    | split
    | with_reducible apply drainAll_inv
    | with_reducible apply msgFrom_inv
    | with_reducible apply mackFrom_inv

theorem deferMirror_inv {rs : List JRec} {s : State}  (hs : Inv s) : Inv (deferMirror rs s) := by
  unfold deferMirror
  repeat' first
    | with_reducible assumption
    | with_reducible exact trivial
    | with_reducible intro _
    | with_reducible refine inv_ite ?_ ?_
    | split
    | with_reducible refine inv_foldl ?_ ?_
    | with_reducible apply deferAll_inv

theorem mirrorTimeout_inv {s : State}  (hs : Inv s) : Inv (mirrorTimeout s) := by
  unfold mirrorTimeout
  repeat' first
    | with_reducible assumption
    | with_reducible exact trivial
    | with_reducible intro _
    | with_reducible refine inv_ite ?_ ?_
    | split
    | with_reducible apply blkFault_inv
    | with_reducible apply raise_inv
    | with_reducible apply bagMod_inv
    | with_reducible apply wakeFlush_inv
    | with_reducible apply cstMod_inv
    | with_reducible apply deferMirror_inv
    | with_reducible exact len_refl

theorem execMirrorTimeout_inv {s : State}  (hs : Inv s) : OutInv Inv (execMirrorTimeout s) := by
  unfold execMirrorTimeout
  repeat' first
    | with_reducible assumption
    | with_reducible exact trivial
    | with_reducible intro _
    | with_reducible apply out_next
    | split
    | with_reducible apply drainAll_inv
    | with_reducible apply mirrorTimeout_inv

theorem peerPut_inv {i : Nat} {f : Peer → Peer} {s : State}  (hs : Inv s) : Inv (peerPut i f s) := by
  unfold peerPut
  repeat' first
    | with_reducible assumption
    | with_reducible exact trivial
    | with_reducible intro _
    | split
    | with_reducible apply cstMod_inv
    | with_reducible exact len_refl

theorem peerStart_inv {i : Nat} {s : State}  (hs : Inv s) : Inv (peerStart i s) := by
  unfold peerStart
  repeat' first
    | with_reducible assumption
    | with_reducible exact trivial
    | with_reducible intro _
    | split
    | with_reducible apply peerMod_inv
    | with_reducible apply sendHello_inv
    | with_reducible apply newConn_inv

theorem peerStop_inv {i : Nat} {state : Nat} {s : State}  (hs : Inv s) : Inv (peerStop i state s) := by
  unfold peerStop
  repeat' first
    | with_reducible assumption
    | with_reducible exact trivial
    | with_reducible intro _
    | with_reducible refine inv_ite ?_ ?_
    | split
    | with_reducible apply emit_inv
    | with_reducible apply peerMod_inv
    | with_reducible apply fansDown_inv
    | with_reducible apply raisePeer_inv

theorem peerCtl_inv {v : Word64} {s : State}  (hs : Inv s) : Inv (peerCtl v s) := by
  unfold peerCtl
  repeat' first
    | with_reducible assumption
    | with_reducible exact trivial
    | with_reducible intro _
    | with_reducible refine inv_ite ?_ ?_
    | split
    | with_reducible apply peerMod_inv
    | with_reducible apply regViolation3_inv
    | with_reducible apply peerPut_inv
    | with_reducible apply peerStart_inv
    | with_reducible apply peerStop_inv

theorem execCstPeerCtlWrite_inv {v : Word64} {s : State}  (hs : Inv s) : OutInv Inv (execCstPeerCtlWrite v s) := by
  unfold execCstPeerCtlWrite
  repeat' first
    | with_reducible assumption
    | with_reducible exact trivial
    | with_reducible intro _
    | with_reducible apply out_next
    | split
    | with_reducible apply drainAll_inv
    | with_reducible apply regRow_inv
    | with_reducible apply peerCtl_inv

theorem mirrorStart_inv {partner : Nat} {s : State}  (hs : Inv s) : Inv (mirrorStart partner s) := by
  unfold mirrorStart
  repeat' first
    | with_reducible assumption
    | with_reducible exact trivial
    | with_reducible intro _
    | with_reducible refine inv_ite ?_ ?_
    | split
    | with_reducible apply cstMod_inv
    | with_reducible exact len_refl

theorem mirrorWrite_inv {v : Word64} {s : State}  (hs : Inv s) : Inv (mirrorWrite v s) := by
  unfold mirrorWrite
  repeat' first
    | with_reducible assumption
    | with_reducible exact trivial
    | with_reducible intro _
    | with_reducible refine inv_ite ?_ ?_
    | split
    | with_reducible apply regSet_inv
    | with_reducible apply shipRest_inv
    | with_reducible apply wakeFlush_inv
    | with_reducible apply mirrorStart_inv

theorem execCstMirrorWrite_inv {v : Word64} {s : State}  (hs : Inv s) : OutInv Inv (execCstMirrorWrite v s) := by
  unfold execCstMirrorWrite
  repeat' first
    | with_reducible assumption
    | with_reducible exact trivial
    | with_reducible intro _
    | with_reducible apply out_next
    | split
    | with_reducible apply drainAll_inv
    | with_reducible apply regRow_inv
    | with_reducible apply mirrorWrite_inv

theorem shardWrite_inv {v : Word64} {s : State}  (hs : Inv s) : Inv (shardWrite v s) := by
  unfold shardWrite
  repeat' first
    | with_reducible assumption
    | with_reducible exact trivial
    | with_reducible intro _
    | with_reducible refine inv_ite ?_ ?_
    | split
    | with_reducible apply regSet_inv
    | with_reducible apply regViolation3_inv

theorem execCstShardWrite_inv {v : Word64} {s : State}  (hs : Inv s) : OutInv Inv (execCstShardWrite v s) := by
  unfold execCstShardWrite
  repeat' first
    | with_reducible assumption
    | with_reducible exact trivial
    | with_reducible intro _
    | with_reducible apply out_next
    | split
    | with_reducible apply regRow_inv
    | with_reducible apply shardWrite_inv

theorem netWrite_inv {v : Word64} {s : State}  (hs : Inv s) : Inv (netWrite v s) := by
  unfold netWrite
  repeat' first
    | with_reducible assumption
    | with_reducible exact trivial
    | with_reducible intro _
    | with_reducible refine inv_ite ?_ ?_
    | split
    | with_reducible refine inv_foldl ?_ ?_
    | with_reducible refine snd_foldl ?_ ?_
    | with_reducible apply regSet_inv
    | with_reducible apply regField_inv
    | with_reducible apply peerStart_inv
    | with_reducible apply peerStop_inv

end Sys2Proof.Machine
end

