-- ==== Sys2Proof/Laws/KeepsBellows.lean ====
section
/-! SUPPORT. The functions of Machine/Bellows.lean keep the invariant. -/

namespace Sys2Proof.Machine

theorem blwMod_inv {f : Bellows → Bellows} {s : State} (hs : Inv s) (hf : (f s.blw).rails.length = s.blw.rails.length) :
    Inv (blwMod f s) :=
  ⟨hs.mem, hs.windows, hs.classes, hs.ports, hf.trans hs.rails⟩

theorem monitorSample_inv {r : Nat} {slowest : Nat} {tenths : Int} {hundredths : Int} {s : State}  (hs : Inv s) : Inv (monitorSample r slowest tenths hundredths s) := by
  unfold monitorSample
  repeat' first
    | with_reducible assumption
    | with_reducible exact trivial
    | with_reducible intro _
    | with_reducible refine inv_ite ?_ ?_
    | split
    | with_reducible apply blwMod_inv
    | with_reducible exact len_refl
    | with_reducible exact len_refl'
    | (simp only [List.length_map, List.length_range, List.length_set])

theorem execMonitorSample_inv {rail : Nat} {slowest : Nat} {tempTenths : Nat} {ofsHundredths : Int} {s : State}  (hs : Inv s) : OutInv Inv (execMonitorSample rail slowest tempTenths ofsHundredths s) := by
  unfold execMonitorSample
  repeat' first
    | with_reducible assumption
    | with_reducible exact trivial
    | with_reducible intro _
    | with_reducible apply out_next
    | split
    | with_reducible apply monitorSample_inv

theorem floorWindow_inv {counts : List Nat} {s : State}  (hs : Inv s) : Inv (floorWindow counts s) := by
  unfold floorWindow
  repeat' first
    | with_reducible assumption
    | with_reducible exact trivial
    | with_reducible intro _
    | with_reducible refine inv_ite ?_ ?_
    | split
    | with_reducible apply bumpSat_inv
    | with_reducible apply regField_inv
    | with_reducible apply blwMod_inv
    | with_reducible exact len_refl
    | with_reducible exact len_refl'
    | (simp only [List.length_map, List.length_range, List.length_set])
    | (dsimp only)
    | (fail_if_no_progress (with_reducible refine inv_mk ?_ rfl rfl))

theorem execFloorWindow_inv {counts : List Nat} {s : State}  (hs : Inv s) : OutInv Inv (execFloorWindow counts s) := by
  unfold execFloorWindow
  repeat' first
    | with_reducible assumption
    | with_reducible exact trivial
    | with_reducible intro _
    | with_reducible apply out_next
    | split
    | with_reducible apply floorWindow_inv

theorem floorLost_inv {r : Nat} {best : Nat} {s : State}  (hs : Inv s) : Inv (floorLost r best s) := by
  unfold floorLost
  repeat' first
    | with_reducible assumption
    | with_reducible exact trivial
    | with_reducible intro _
    | with_reducible refine inv_ite ?_ ?_
    | split
    | with_reducible apply blkFault_inv
    | with_reducible apply raise_inv
    | with_reducible apply blwMod_inv
    | with_reducible exact len_refl
    | with_reducible exact len_refl'

theorem execFloorLost_inv {rail : Nat} {best : Nat} {s : State}  (hs : Inv s) : OutInv Inv (execFloorLost rail best s) := by
  unfold execFloorLost
  repeat' first
    | with_reducible assumption
    | with_reducible exact trivial
    | with_reducible intro _
    | with_reducible apply out_next
    | split
    | with_reducible apply drainAll_inv
    | with_reducible apply floorLost_inv

theorem floorRestored_inv {r : Nat} {s : State}  (hs : Inv s) : Inv (floorRestored r s) := by
  unfold floorRestored
  repeat' first
    | with_reducible assumption
    | with_reducible exact trivial
    | with_reducible intro _
    | with_reducible refine inv_ite ?_ ?_
    | split
    | with_reducible apply raise_inv
    | with_reducible apply blwMod_inv
    | with_reducible apply floorLost_inv
    | with_reducible exact len_refl
    | with_reducible exact len_refl'

theorem execFloorRestored_inv {rail : Nat} {s : State}  (hs : Inv s) : OutInv Inv (execFloorRestored rail s) := by
  unfold execFloorRestored
  repeat' first
    | with_reducible assumption
    | with_reducible exact trivial
    | with_reducible intro _
    | with_reducible apply out_next
    | split
    | with_reducible apply drainAll_inv
    | with_reducible apply floorRestored_inv

theorem paceWear_inv {u : UnitId} {slow : Nat} {s : State}  (hs : Inv s) : Inv (paceWear u slow s) := by
  unfold paceWear
  repeat' first
    | with_reducible assumption
    | with_reducible exact trivial
    | with_reducible intro _
    | with_reducible refine inv_ite ?_ ?_
    | split
    | with_reducible apply raise_inv
    | with_reducible apply retireAny_inv
    | with_reducible apply blwMod_inv
    | with_reducible exact len_refl
    | with_reducible exact len_refl'

theorem execPaceWear_inv {u : UnitId} {slowdown : Nat} {s : State}  (hs : Inv s) : OutInv Inv (execPaceWear u slowdown s) := by
  unfold execPaceWear
  repeat' first
    | with_reducible assumption
    | with_reducible exact trivial
    | with_reducible intro _
    | with_reducible apply out_next
    | split
    | with_reducible apply drainAll_inv
    | with_reducible apply paceWear_inv

theorem phaseSpared_inv {phase : Nat} {s : State}  (hs : Inv s) : Inv (phaseSpared phase s) := by
  unfold phaseSpared
  repeat' first
    | with_reducible assumption
    | with_reducible exact trivial
    | with_reducible intro _
    | with_reducible refine inv_ite ?_ ?_
    | split
    | with_reducible apply blkFault_inv
    | with_reducible apply raise_inv
    | with_reducible apply retireUnit_inv

theorem execPhaseSpared_inv {phase : Nat} {s : State}  (hs : Inv s) : OutInv Inv (execPhaseSpared phase s) := by
  unfold execPhaseSpared
  repeat' first
    | with_reducible assumption
    | with_reducible exact trivial
    | with_reducible intro _
    | with_reducible apply out_next
    | split
    | with_reducible apply drainAll_inv
    | with_reducible apply phaseSpared_inv

theorem raiseCapped_inv {s : State}  (hs : Inv s) : Inv (raiseCapped s) := by
  unfold raiseCapped
  repeat' first
    | with_reducible assumption
    | with_reducible exact trivial
    | with_reducible intro _
    | with_reducible refine inv_ite ?_ ?_
    | split
    | with_reducible apply raise_inv
    | with_reducible apply blwMod_inv
    | with_reducible exact len_refl
    | with_reducible exact len_refl'

theorem powerSample_inv {watts : Nat} {mv : Nat} {s : State}  (hs : Inv s) : Inv (powerSample watts mv s) := by
  unfold powerSample
  repeat' first
    | with_reducible assumption
    | with_reducible exact trivial
    | with_reducible intro _
    | with_reducible refine inv_ite ?_ ?_
    | split
    | with_reducible apply regField_inv
    | with_reducible apply blwMod_inv
    | with_reducible apply raiseCapped_inv
    | with_reducible exact len_refl
    | with_reducible exact len_refl'

theorem execPowerSample_inv {inputW : Nat} {inputMv : Nat} {s : State}  (hs : Inv s) : OutInv Inv (execPowerSample inputW inputMv s) := by
  unfold execPowerSample
  repeat' first
    | with_reducible assumption
    | with_reducible exact trivial
    | with_reducible intro _
    | with_reducible apply out_next
    | split
    | with_reducible apply drainAll_inv
    | with_reducible apply powerSample_inv

theorem powerPeak_inv {watts : Nat} {milliamps : Nat} {s : State}  (hs : Inv s) : Inv (powerPeak watts milliamps s) := by
  unfold powerPeak
  repeat' first
    | with_reducible assumption
    | with_reducible exact trivial
    | with_reducible intro _
    | with_reducible refine inv_ite ?_ ?_
    | split
    | with_reducible apply blwMod_inv
    | with_reducible exact len_refl
    | with_reducible exact len_refl'

theorem execPowerPeak_inv {watts : Nat} {milliamps : Nat} {s : State}  (hs : Inv s) : OutInv Inv (execPowerPeak watts milliamps s) := by
  unfold execPowerPeak
  repeat' first
    | with_reducible assumption
    | with_reducible exact trivial
    | with_reducible intro _
    | with_reducible apply out_next
    | split
    | with_reducible apply powerPeak_inv

theorem goOff_inv {s : State}  (hs : Inv s) : Inv (goOff s) := by
  unfold goOff
  repeat' first
    | with_reducible assumption
    | with_reducible exact trivial
    | with_reducible intro _
    | with_reducible refine inv_ite ?_ ?_
    | split
    | with_reducible apply setMode_inv
    | with_reducible apply drainAll_inv
    | with_reducible apply beginLoss_inv

theorem raiseThermal_inv {sev : Nat} {no : Nat} {t : Int} {s : State}  (hs : Inv s) : Inv (raiseThermal sev no t s) := by
  unfold raiseThermal
  repeat' first
    | with_reducible assumption
    | with_reducible exact trivial
    | with_reducible intro _
    | split
    | with_reducible apply blkFault_inv
    | with_reducible apply raise_inv

theorem temperatureSample_inv {die : Nat} {dieT : Int} {stack : Nat} {stackT : Int} {heldUs : Nat} {s : State}  (hs : Inv s) : Inv (temperatureSample die dieT stack stackT heldUs s) := by
  unfold temperatureSample
  repeat' first
    | with_reducible assumption
    | with_reducible exact trivial
    | with_reducible intro _
    | with_reducible refine inv_ite ?_ ?_
    | split
    | with_reducible apply regSet_inv
    | with_reducible apply blwMod_inv
    | with_reducible apply goOff_inv
    | with_reducible apply raiseThermal_inv
    | with_reducible exact len_refl
    | with_reducible exact len_refl'

theorem execTemperatureSample_inv {die : Nat} {dieT : Int} {stack : Nat} {stackT : Int} {heldUs : Nat} {s : State}  (hs : Inv s) : OutInv Inv (execTemperatureSample die dieT stack stackT heldUs s) := by
  unfold execTemperatureSample
  repeat' first
    | with_reducible assumption
    | with_reducible exact trivial
    | with_reducible intro _
    | with_reducible apply out_next
    | split
    | with_reducible apply drainAll_inv
    | with_reducible apply temperatureSample_inv

theorem execCoolantValveUpdate_inv {position : Nat} {s : State}  (hs : Inv s) : OutInv Inv (execCoolantValveUpdate position s) := by
  unfold execCoolantValveUpdate
  repeat' first
    | with_reducible assumption
    | with_reducible exact trivial
    | with_reducible intro _
    | with_reducible apply out_next
    | split
    | with_reducible apply blwMod_inv
    | with_reducible exact len_refl
    | with_reducible exact len_refl'

theorem setFloor_inv {n : Nat} {s : State}  (hs : Inv s) : Inv (setFloor n s) := by
  unfold setFloor
  repeat' first
    | with_reducible assumption
    | with_reducible exact trivial
    | with_reducible intro _
    | with_reducible refine inv_ite ?_ ?_
    | split
    | with_reducible apply regField_inv
    | with_reducible apply blwMod_inv
    | with_reducible exact len_refl
    | with_reducible exact len_refl'

theorem floorWrite_inv {v : Word64} {s : State}  (hs : Inv s) : Inv (floorWrite v s) := by
  unfold floorWrite
  repeat' first
    | with_reducible assumption
    | with_reducible exact trivial
    | with_reducible intro _
    | with_reducible refine inv_ite ?_ ?_
    | split
    | with_reducible apply blkFault_inv
    | with_reducible apply setFloor_inv

theorem execBlwFloorWrite_inv {v : Word64} {s : State}  (hs : Inv s) : OutInv Inv (execBlwFloorWrite v s) := by
  unfold execBlwFloorWrite
  repeat' first
    | with_reducible assumption
    | with_reducible exact trivial
    | with_reducible intro _
    | with_reducible apply out_next
    | split
    | with_reducible apply floorWrite_inv

theorem capWrite_inv {v : Word64} {s : State}  (hs : Inv s) : Inv (capWrite v s) := by
  unfold capWrite
  repeat' first
    | with_reducible assumption
    | with_reducible exact trivial
    | with_reducible intro _
    | split
    | with_reducible apply regField_inv
    | with_reducible apply blwMod_inv
    | with_reducible exact len_refl
    | with_reducible exact len_refl'

theorem execBlwCapWrite_inv {v : Word64} {s : State}  (hs : Inv s) : OutInv Inv (execBlwCapWrite v s) := by
  unfold execBlwCapWrite
  repeat' first
    | with_reducible assumption
    | with_reducible exact trivial
    | with_reducible intro _
    | with_reducible apply out_next
    | split
    | with_reducible apply capWrite_inv

theorem execBlwVtargetWrite_inv {v : Word64} {s : State}  (hs : Inv s) : OutInv Inv (execBlwVtargetWrite v s) := by
  unfold execBlwVtargetWrite
  repeat' first
    | with_reducible assumption
    | with_reducible exact trivial
    | with_reducible intro _
    | with_reducible apply out_next
    | split
    | with_reducible apply regField_inv

theorem setGuard_inv {n : Nat} {s : State}  (hs : Inv s) : Inv (setGuard n s) := by
  unfold setGuard
  repeat' first
    | with_reducible assumption
    | with_reducible exact trivial
    | with_reducible intro _
    | with_reducible refine inv_ite ?_ ?_
    | split
    | with_reducible apply regField_inv
    | with_reducible apply blwMod_inv
    | with_reducible exact len_refl
    | with_reducible exact len_refl'

theorem execBlwGuardWrite_inv {v : Word64} {s : State}  (hs : Inv s) : OutInv Inv (execBlwGuardWrite v s) := by
  unfold execBlwGuardWrite
  repeat' first
    | with_reducible assumption
    | with_reducible exact trivial
    | with_reducible intro _
    | with_reducible apply out_next
    | split
    | with_reducible apply setGuard_inv

theorem applyUCal_inv {u : UCal} {s : State}  (hs : Inv s) : Inv (applyUCal u s) := by
  unfold applyUCal
  repeat' first
    | with_reducible assumption
    | with_reducible exact trivial
    | with_reducible intro _
    | split
    | with_reducible refine inv_foldl ?_ ?_
    | with_reducible apply regSet_inv
    | with_reducible apply regField_inv
    | with_reducible apply blwMod_inv
    | with_reducible apply setFloor_inv
    | with_reducible apply setGuard_inv
    | with_reducible exact len_refl
    | with_reducible exact len_refl'

theorem ucalSave_inv {s : State}  (hs : Inv s) : Inv (ucalSave s) := by
  unfold ucalSave
  repeat' first
    | with_reducible assumption
    | with_reducible exact trivial
    | with_reducible intro _
    | with_reducible refine inv_ite ?_ ?_
    | split
    | with_reducible apply regField_inv
    | with_reducible apply blwMod_inv
    | with_reducible exact len_refl
    | with_reducible exact len_refl'

theorem execUcalSave_inv {s : State}  (hs : Inv s) : OutInv Inv (execUcalSave s) := by
  unfold execUcalSave
  repeat' first
    | with_reducible assumption
    | with_reducible exact trivial
    | with_reducible intro _
    | with_reducible apply out_next
    | split
    | with_reducible apply ucalSave_inv

theorem ucalSaved_inv {ok : Bool} {s : State}  (hs : Inv s) : Inv (ucalSaved ok s) := by
  unfold ucalSaved
  repeat' first
    | with_reducible assumption
    | with_reducible exact trivial
    | with_reducible intro _
    | with_reducible refine inv_ite ?_ ?_
    | split
    | with_reducible apply regField_inv
    | with_reducible apply blwMod_inv
    | with_reducible exact len_refl
    | with_reducible exact len_refl'

theorem execUcalSaveDone_inv {ok : Bool} {s : State}  (hs : Inv s) : OutInv Inv (execUcalSaveDone ok s) := by
  unfold execUcalSaveDone
  repeat' first
    | with_reducible assumption
    | with_reducible exact trivial
    | with_reducible intro _
    | with_reducible apply out_next
    | split
    | with_reducible apply ucalSaved_inv

theorem ucalFactory_inv {s : State}  (hs : Inv s) : Inv (ucalFactory s) := by
  unfold ucalFactory
  repeat' first
    | with_reducible assumption
    | with_reducible exact trivial
    | with_reducible intro _
    | with_reducible refine inv_ite ?_ ?_
    | split
    | with_reducible apply applyUCal_inv

theorem execUcalFactory_inv {s : State}  (hs : Inv s) : OutInv Inv (execUcalFactory s) := by
  unfold execUcalFactory
  repeat' first
    | with_reducible assumption
    | with_reducible exact trivial
    | with_reducible intro _
    | with_reducible apply out_next
    | split
    | with_reducible apply ucalFactory_inv

end Sys2Proof.Machine
end

