-- ==== Sys2Proof/Laws/KeepsRecover.lean ====
section
/-! SUPPORT. The functions of Machine/Recover.lean keep the invariant. -/

namespace Sys2Proof.Machine

theorem loadImage_inv {img : Image} {s : State}  (hs : Inv s) : Inv (loadImage img s) := by
  unfold loadImage
  repeat' first
    | with_reducible assumption
    | with_reducible exact trivial
    | with_reducible intro _
    | split
    | (dsimp only)
    | (fail_if_no_progress (with_reducible refine inv_mk ?_ rfl rfl))

theorem loseImageEntry_inv {media : Nat} {p : Nat × Nat} {s : State}  (hs : Inv s) : Inv (loseImageEntry media p s) := by
  unfold loseImageEntry
  repeat' first
    | with_reducible assumption
    | with_reducible exact trivial
    | with_reducible intro _
    | split
    | with_reducible apply collMod_inv
    | with_reducible apply deferAll_inv
    | with_reducible apply countLost_inv

theorem loadGone_inv {g : Gone} {media : Nat} {s : State}  (hs : Inv s) : Inv (loadGone g media s) := by
  unfold loadGone
  repeat' first
    | with_reducible assumption
    | with_reducible exact trivial
    | with_reducible intro _
    | with_reducible refine inv_ite ?_ ?_
    | split
    | with_reducible refine inv_foldl ?_ ?_
    | with_reducible refine snd_foldl ?_ ?_
    | with_reducible apply loseImageEntry_inv
    | (dsimp only)
    | (fail_if_no_progress (with_reducible refine inv_mk ?_ rfl rfl))

theorem recoveryGap_inv {h : Nat} {r : JRec} {s : State}  (hs : Inv s) : Inv (recoveryGap h r s) := by
  unfold recoveryGap
  repeat' first
    | with_reducible assumption
    | with_reducible exact trivial
    | with_reducible intro _
    | split
    | with_reducible apply raise_inv

theorem markIncomplete_inv {h : Nat} {s : State}  (hs : Inv s) : Inv (markIncomplete h s) := by
  unfold markIncomplete
  repeat' first
    | with_reducible assumption
    | with_reducible exact trivial
    | with_reducible intro _
    | with_reducible refine inv_ite ?_ ?_
    | split
    | with_reducible apply collMod_inv
    | (dsimp only)
    | (fail_if_no_progress (with_reducible refine inv_mk ?_ rfl rfl))

theorem loseReplayed_inv {r : JRec} {s : State}  (hs : Inv s) : Inv (loseReplayed r s) := by
  unfold loseReplayed
  repeat' first
    | with_reducible assumption
    | with_reducible exact trivial
    | with_reducible intro _
    | with_reducible refine inv_ite ?_ ?_
    | split
    | with_reducible apply deferAll_inv
    | with_reducible apply countLost_inv
    | with_reducible apply markIncomplete_inv

theorem needTable_inv {t : Nat} {owner : Nat} {s : State}  (hs : Inv s) : Inv (needTable t owner s) := by
  unfold needTable
  repeat' first
    | with_reducible assumption
    | with_reducible exact trivial
    | with_reducible intro _
    | with_reducible refine inv_ite ?_ ?_
    | split
    | (dsimp only)
    | (fail_if_no_progress (with_reducible refine inv_mk ?_ rfl rfl))

theorem replayCommit_inv {h : Nat} {op : Nat} {cut : Nat} {key : Option Nat} {move : Option Move} {seq : Nat} {s : State}  (hs : Inv s) : Inv (replayCommit h op cut key move seq s) := by
  unfold replayCommit
  repeat' first
    | with_reducible assumption
    | with_reducible exact trivial
    | with_reducible intro _
    | split
    | with_reducible apply takeEffect_inv

theorem replayTable_inv {h : Nat} {t : Tbl} {s : State}  (hs : Inv s) : Inv (replayTable h t s) := by
  unfold replayTable
  repeat' first
    | with_reducible assumption
    | with_reducible exact trivial
    | with_reducible intro _
    | with_reducible refine inv_ite ?_ ?_
    | split
    | (dsimp only)
    | (fail_if_no_progress (with_reducible refine inv_mk ?_ rfl rfl))

theorem replayBody_inv {r : JRec} {s : State}  (hs : Inv s) : Inv (replayBody r s) := by
  unfold replayBody
  repeat' first
    | with_reducible assumption
    | with_reducible exact trivial
    | with_reducible intro _
    | with_reducible refine inv_ite ?_ ?_
    | split
    | with_reducible apply collMod_inv
    | with_reducible apply domMod_inv
    | with_reducible apply needTable_inv
    | with_reducible apply replayCommit_inv
    | with_reducible apply replayTable_inv
    | (dsimp only)
    | (fail_if_no_progress (with_reducible refine inv_mk ?_ rfl rfl))

theorem replayAll_inv {img : Image} {cut : Nat} {rs : List JRec} {s : State} (hs : Inv s) : Inv (replayAll img cut rs s) := by
  have step : ∀ (p : Replay) (r : JRec), Inv p.state → Inv (replayRec p r).state := by
    intro p r h
    unfold replayRec
    by_cases h1 : r.coll ∈ p.stopped
    · simp only [h1, if_true]; exact h
    by_cases h2 : r.type = 0x7F
    · simp only [h1, h2, if_true, if_false]
      cases r.lost
      · exact h
      · exact recoveryGap_inv (markIncomplete_inv h)
    by_cases h3 : r.lost = true
    · simp only [h1, h2, h3, if_true, if_false]; exact loseReplayed_inv h
    by_cases h4 : (tget p.state.colls r.coll).any (slotHeld r) = true
    · simp only [h1, h2, h3, h4, if_true, if_false]; exact recoveryGap_inv (markIncomplete_inv h)
    · simp only [h1, h2, h3, h4, if_false]; exact replayBody_inv h
  have all : ∀ (l : List JRec) (p : Replay), Inv p.state → Inv (l.foldl replayRec p).state := by
    intro l
    induction l with
    | nil => exact fun p h => h
    | cons r t ih => exact fun p h => ih _ (step p r h)
  exact all _ _ hs

theorem loseSource_inv {h : Nat} {s : State} {e : Entry}  (hs : Inv s) : Inv (loseSource h s e) := by
  unfold loseSource
  repeat' first
    | with_reducible assumption
    | with_reducible exact trivial
    | with_reducible intro _
    | with_reducible refine inv_ite ?_ ?_
    | split
    | with_reducible apply deferAll_inv
    | with_reducible apply countLost_inv
    | with_reducible apply loseSources_inv

theorem sourcesChecked_inv {s : State}  (hs : Inv s) : Inv (sourcesChecked s) := by
  unfold sourcesChecked
  repeat' first
    | with_reducible assumption
    | with_reducible exact trivial
    | with_reducible intro _
    | split
    | with_reducible refine inv_foldl ?_ ?_
    | with_reducible apply loseSource_inv

theorem droneRestarted_inv {s : State}  (hs : Inv s) : Inv (droneRestarted s) := by
  unfold droneRestarted
  repeat' first
    | with_reducible assumption
    | with_reducible exact trivial
    | with_reducible intro _
    | split
    | (dsimp only)
    | (fail_if_no_progress (with_reducible refine inv_mk ?_ rfl rfl))

theorem drainRecords_inv {y0 : Nat} {y1 : State}  (hy1 : Inv y1) : Inv (drainRecords y0 y1) := by
  induction y0 generalizing y1 with
  | zero =>
    unfold drainRecords
    repeat' first
      | with_reducible assumption
  | succ n ih =>
    unfold drainRecords
    repeat' first
      | with_reducible assumption
      | with_reducible exact trivial
      | with_reducible intro _
      | split
      | with_reducible apply ih
      | with_reducible apply countWritten_inv
      | with_reducible apply putStripe_inv

theorem drainJournal_inv {s : State}  (hs : Inv s) : Inv (drainJournal s) := by
  unfold drainJournal
  repeat' first
    | with_reducible assumption
    | with_reducible exact trivial
    | with_reducible intro _
    | split
    | with_reducible apply drainRecords_inv

theorem recoveryRoot_inv {s : State}  (hs : Inv s) : Inv (recoveryRoot s) := by
  unfold recoveryRoot
  repeat' first
    | with_reducible assumption
    | with_reducible exact trivial
    | with_reducible intro _
    | split
    | with_reducible apply bagMod_inv
    | with_reducible apply writeRoot_inv

theorem dumpReplayed_inv {rs : List JRec} {s : State}  (hs : Inv s) : Inv (dumpReplayed rs s) := by
  unfold dumpReplayed
  repeat' first
    | with_reducible assumption
    | with_reducible exact trivial
    | with_reducible intro _
    | split
    | with_reducible refine inv_foldl ?_ ?_
    | with_reducible apply raise_inv
    | with_reducible apply bagMod_inv

theorem recoverFrom_inv {r : Root} {img : Image} {current : Bool} {s : State}  (hs : Inv s) : Inv (recoverFrom r img current s) := by
  unfold recoverFrom
  repeat' first
    | with_reducible assumption
    | with_reducible exact trivial
    | with_reducible intro _
    | with_reducible refine inv_ite ?_ ?_
    | split
    | with_reducible apply bagMod_inv
    | with_reducible apply loadImage_inv
    | with_reducible apply loadGone_inv
    | with_reducible apply replayAll_inv
    | with_reducible apply sourcesChecked_inv
    | with_reducible apply droneRestarted_inv
    | with_reducible apply drainJournal_inv
    | with_reducible apply recoveryRoot_inv
    | with_reducible apply dumpReplayed_inv
    | (dsimp only)

theorem formatFlash_inv {s : State}  (hs : Inv s) : Inv (formatFlash s) := by
  unfold formatFlash
  repeat' first
    | with_reducible assumption
    | with_reducible exact trivial
    | with_reducible intro _
    | with_reducible refine inv_ite ?_ ?_
    | split
    | with_reducible apply bagMod_inv
    | with_reducible apply writeRoot_inv
    | with_reducible apply loadImage_inv
    | (dsimp only)
    | (fail_if_no_progress (with_reducible refine inv_mk ?_ rfl rfl))

end Sys2Proof.Machine
end

