-- ==== Sys2Proof/Laws/KeepsReset.lean ====
section
/-! SUPPORT. The functions of Machine/Reset.lean keep the invariant. -/

namespace Sys2Proof.Machine

theorem chnMod_inv {f : Chanter → Chanter} {s : State}  (hs : Inv s) : Inv (chnMod f s) := by
  unfold chnMod
  repeat' first
    | with_reducible assumption
    | with_reducible exact trivial
    | with_reducible intro _
    | split
    | (dsimp only)
    | (fail_if_no_progress (with_reducible refine inv_mk ?_ rfl rfl))

theorem secMod_inv {f : Security → Security} {s : State}  (hs : Inv s) : Inv (secMod f s) := by
  unfold secMod
  repeat' first
    | with_reducible assumption
    | with_reducible exact trivial
    | with_reducible intro _
    | split
    | (dsimp only)
    | (fail_if_no_progress (with_reducible refine inv_mk ?_ rfl rfl))

theorem pinMod_inv {f : Pins → Pins} {s : State}  (hs : Inv s) : Inv (pinMod f s) := by
  unfold pinMod
  repeat' first
    | with_reducible assumption
    | with_reducible exact trivial
    | with_reducible intro _
    | split
    | (dsimp only)
    | (fail_if_no_progress (with_reducible refine inv_mk ?_ rfl rfl))

theorem settleEffect_inv {x : Cmd} {s : State}  (hs : Inv s) : Inv (settleEffect x s) := by
  unfold settleEffect
  repeat' first
    | with_reducible assumption
    | with_reducible exact trivial
    | with_reducible intro _
    | with_reducible refine inv_ite ?_ ?_
    | split
    | with_reducible apply collMod_inv
    | with_reducible apply postEffect_inv
    | with_reducible apply bagMod_inv

theorem abortSub_inv {s : State} {x : Cmd}  (hs : Inv s) : Inv (abortSub s x) := by
  unfold abortSub
  repeat' first
    | with_reducible assumption
    | with_reducible exact trivial
    | with_reducible intro _
    | split
    | with_reducible apply sendAnswer_inv

theorem earlierFreed_inv {s : State}  (hs : Inv s) : Inv (earlierFreed s) := by
  unfold earlierFreed
  repeat' first
    | with_reducible assumption
    | with_reducible exact trivial
    | with_reducible intro _
    | split
    | (dsimp only)
    | (fail_if_no_progress (with_reducible refine inv_mk ?_ rfl rfl))

theorem settleCmds_inv {s : State}  (hs : Inv s) : Inv (settleCmds s) := by
  unfold settleCmds
  repeat' first
    | with_reducible assumption
    | with_reducible exact trivial
    | with_reducible intro _
    | split
    | with_reducible refine inv_foldl ?_ ?_
    | with_reducible refine snd_foldl ?_ ?_
    | with_reducible apply settleEffect_inv
    | with_reducible apply abortSub_inv
    | with_reducible apply earlierFreed_inv
    | (dsimp only)
    | (fail_if_no_progress (with_reducible refine inv_mk ?_ rfl rfl))

theorem postReports_inv {y0 : Nat} {y1 : State}  (hy1 : Inv y1) : Inv (postReports y0 y1) := by
  induction y0 generalizing y1 with
  | zero =>
    unfold postReports
    repeat' first
      | with_reducible assumption
  | succ n ih =>
    unfold postReports
    repeat' first
      | with_reducible assumption
      | with_reducible exact trivial
      | with_reducible intro _
      | with_reducible refine inv_ite ?_ ?_
      | with_reducible apply recDone_inv
      | with_reducible apply recFault_inv
      | with_reducible apply recWait_inv
      | split
      | with_reducible apply ih
      | with_reducible apply writeRecord_inv
      | with_reducible apply ringFault_inv
      | with_reducible apply drainAll_inv
      | refine rec_done (by with_reducible assumption) ?_
      | refine rec_fault (by with_reducible assumption) ?_
      | refine rec_wait (by with_reducible assumption) ?_
      | (dsimp only)
      | (fail_if_no_progress (with_reducible refine inv_mk ?_ rfl rfl))

theorem remoteReport_inv {s : State} {p : Nat × Cmd}  (hs : Inv s) : Inv (remoteReport s p) := by
  unfold remoteReport
  repeat' first
    | with_reducible assumption
    | with_reducible exact trivial
    | with_reducible intro _
    | with_reducible refine inv_ite ?_ ?_
    | split
    | with_reducible apply sendMsg_inv
    | (dsimp only)
    | (fail_if_no_progress (with_reducible refine inv_mk ?_ rfl rfl))

theorem resetReport_inv {s : State}  (hs : Inv s) : Inv (resetReport s) := by
  unfold resetReport
  repeat' first
    | with_reducible assumption
    | with_reducible exact trivial
    | with_reducible intro _
    | with_reducible refine inv_ite ?_ ?_
    | split
    | with_reducible refine inv_foldl ?_ ?_
    | with_reducible apply postReports_inv
    | with_reducible apply remoteReport_inv

theorem execResetReportPost_inv {s : State}  (hs : Inv s) : OutInv Inv (execResetReportPost s) := by
  unfold execResetReportPost
  repeat' first
    | with_reducible assumption
    | with_reducible exact trivial
    | with_reducible intro _
    | with_reducible apply out_next
    | split
    | with_reducible apply drainAll_inv
    | with_reducible apply resetReport_inv

theorem portReset_inv {s : State} (hs : Inv s) : Inv (portReset s) := by
  unfold portReset
  extract_lets s1 s2 s3 s4
  have h1 : Inv s1 := ⟨hs.mem, rfl, rfl, hs.ports, hs.rails⟩
  have h4 : Inv s4 := regField_inv (chnMod_inv (crookMod_inv h1))
  exact inv_congr h4 rfl rfl rfl rfl rfl

theorem mapApplied_inv {s : State}  (hs : Inv s) : Inv (mapApplied s) := by
  unfold mapApplied
  repeat' first
    | with_reducible assumption
    | with_reducible exact trivial
    | with_reducible intro _
    | split
    | with_reducible refine inv_foldl ?_ ?_
    | with_reducible apply applyMapEntry_inv
    | (dsimp only)
    | (fail_if_no_progress (with_reducible refine inv_mk ?_ rfl rfl))

theorem regionsLost_inv {s : State}  (hs : Inv s) : Inv (regionsLost s) := by
  unfold regionsLost
  repeat' first
    | with_reducible assumption
    | with_reducible exact trivial
    | with_reducible intro _
    | split
    | (dsimp only)
    | (fail_if_no_progress (with_reducible refine inv_mk ?_ rfl rfl))

theorem chooseFirmware_inv {s : State}  (hs : Inv s) : Inv (chooseFirmware s).2 := by
  unfold chooseFirmware
  repeat' first
    | with_reducible assumption
    | with_reducible exact trivial
    | with_reducible intro _
    | with_reducible refine snd_ite ?_ ?_
    | with_reducible refine inv_ite ?_ ?_
    | split
    | with_reducible apply secMod_inv
    | (dsimp only)

theorem raiseCounter_inv {s : State}  (hs : Inv s) : Inv (raiseCounter s) := by
  unfold raiseCounter
  repeat' first
    | with_reducible assumption
    | with_reducible exact trivial
    | with_reducible intro _
    | split
    | with_reducible refine inv_foldl ?_ ?_
    | with_reducible apply secMod_inv
    | (dsimp only)

theorem failStart_inv {code : Nat} {s : State}  (hs : Inv s) : Inv (failStart code s) := by
  unfold failStart
  repeat' first
    | with_reducible assumption
    | with_reducible exact trivial
    | with_reducible intro _
    | with_reducible refine inv_ite ?_ ?_
    | split
    | with_reducible apply chnMod_inv

theorem coldState_inv {code : Nat} {s : State} (hs : Inv s) : Inv (coldState code s) :=
  ⟨hs.mem, rfl, rfl, (List.length_map ..).trans hs.ports, rfl⟩

theorem ucalAtStart_inv {badA : Bool} {badB : Bool} {s : State}  (hs : Inv s) : Inv (ucalAtStart badA badB s) := by
  unfold ucalAtStart
  repeat' first
    | with_reducible assumption
    | with_reducible exact trivial
    | with_reducible intro _
    | with_reducible refine inv_ite ?_ ?_
    | split
    | with_reducible apply blkFault_inv
    | with_reducible apply raise_inv
    | with_reducible apply blwMod_inv
    | with_reducible apply applyUCal_inv
    | with_reducible exact len_refl
    | with_reducible exact len_refl'

theorem mapAtStart_inv {badA : Bool} {badB : Bool} {s : State}  (hs : Inv s) : Inv (mapAtStart badA badB s) := by
  unfold mapAtStart
  repeat' first
    | with_reducible assumption
    | with_reducible exact trivial
    | with_reducible intro _
    | with_reducible refine inv_ite ?_ ?_
    | split
    | with_reducible apply blkFault_inv
    | with_reducible apply mapSaved_inv
    | with_reducible apply chnMod_inv
    | (dsimp only)

theorem modeStarts_inv {s : State}  (hs : Inv s) : Inv (modeStarts s) := by
  unfold modeStarts
  repeat' first
    | with_reducible assumption
    | with_reducible exact trivial
    | with_reducible intro _
    | split
    | with_reducible apply setMode_inv
    | with_reducible apply bagMod_inv
    | with_reducible apply chnMod_inv

theorem ready_inv {s : State}  (hs : Inv s) : Inv (ready s) := by
  unfold ready
  repeat' first
    | with_reducible assumption
    | with_reducible exact trivial
    | with_reducible intro _
    | split
    | with_reducible apply setMntRates_inv
    | with_reducible apply chnMod_inv
    | with_reducible apply raiseCounter_inv

theorem railsUp_inv {s : State}  (hs : Inv s) : Inv (railsUp s) := by
  unfold railsUp
  repeat' first
    | with_reducible assumption
    | with_reducible exact trivial
    | with_reducible intro _
    | split
    | exact hs.rails.symm
    | with_reducible apply blwMod_inv

theorem startRecovery_inv {badA : Bool} {badB : Bool} {s : State}  (hs : Inv s) : Inv (startRecovery badA badB s) := by
  unfold startRecovery
  repeat' first
    | with_reducible assumption
    | with_reducible exact trivial
    | with_reducible intro _
    | with_reducible refine inv_ite ?_ ?_
    | split
    | with_reducible apply blkFault_inv
    | with_reducible apply recoverFrom_inv
    | with_reducible apply formatFlash_inv
    | with_reducible apply chnMod_inv
    | with_reducible apply secMod_inv
    | with_reducible apply regionsLost_inv
    | with_reducible apply failStart_inv
    | with_reducible apply ready_inv

theorem coldStart_inv {f : StartFaults} {s : State}  (hs : Inv s) : Inv (coldStart f s) := by
  unfold coldStart
  repeat' first
    | with_reducible assumption
    | with_reducible exact trivial
    | with_reducible intro _
    | with_reducible refine inv_ite ?_ ?_
    | split
    | with_reducible refine inv_foldl ?_ ?_
    | with_reducible apply retireAny_inv
    | with_reducible apply mapApplied_inv
    | with_reducible apply chooseFirmware_inv
    | with_reducible apply failStart_inv
    | with_reducible apply coldState_inv
    | with_reducible apply ucalAtStart_inv
    | with_reducible apply mapAtStart_inv
    | with_reducible apply modeStarts_inv
    | with_reducible apply railsUp_inv
    | with_reducible apply startRecovery_inv

theorem execColdStart_inv {f : StartFaults} {s : State}  (hs : Inv s) : OutInv Inv (execColdStart f s) := by
  unfold execColdStart
  repeat' first
    | with_reducible assumption
    | with_reducible exact trivial
    | with_reducible intro _
    | with_reducible apply out_next
    | split
    | with_reducible apply drainAll_inv
    | with_reducible apply coldStart_inv

theorem cstWarm_inv {s : State}  (hs : Inv s) : Inv (cstWarm s) := by
  unfold cstWarm
  repeat' first
    | with_reducible assumption
    | with_reducible exact trivial
    | with_reducible intro _
    | with_reducible refine inv_ite ?_ ?_
    | split
    | with_reducible refine inv_foldl ?_ ?_
    | with_reducible refine snd_foldl ?_ ?_
    | with_reducible apply peerMod_inv
    | with_reducible apply cstMod_inv
    | with_reducible apply peerStart_inv
    | with_reducible exact len_refl
    | with_reducible exact len_refl'
    | (simp only [List.length_map, List.length_range, List.length_set])

theorem warmState_inv {code : Nat} {s : State}  (hs : Inv s) : Inv (warmState code s) := by
  unfold warmState
  repeat' first
    | with_reducible assumption
    | with_reducible exact trivial
    | with_reducible intro _
    | with_reducible apply rowOk_inv
    | with_reducible apply rowFail_inv
    | with_reducible apply rowWait_inv
    | split
    | with_reducible apply crookMod_inv
    | with_reducible apply fabricKey_inv
    | with_reducible apply blwMod_inv
    | with_reducible apply chnMod_inv
    | with_reducible apply secMod_inv
    | with_reducible apply portReset_inv
    | with_reducible apply mapApplied_inv
    | with_reducible apply regionsLost_inv
    | refine row_ok (by with_reducible assumption) ?_
    | refine row_fail (by with_reducible assumption) ?_
    | refine row_wait (by with_reducible assumption) ?_
    | with_reducible exact len_refl
    | with_reducible exact len_refl'
    | (simp only [List.length_map, List.length_range, List.length_set])
    | (dsimp only)
    | (fail_if_no_progress (with_reducible refine inv_mk ?_ rfl rfl))

theorem warmQuiesced_inv {s : State}  (hs : Inv s) : Inv (warmQuiesced s) := by
  unfold warmQuiesced
  repeat' first
    | with_reducible assumption
    | with_reducible exact trivial
    | with_reducible intro _
    | split
    | with_reducible apply wakeDrained_inv
    | with_reducible apply drainJournal_inv
    | with_reducible apply settleCmds_inv

theorem warmReset_inv {recordOk : Bool} {s : State}  (hs : Inv s) : Inv (warmReset recordOk s) := by
  unfold warmReset
  repeat' first
    | with_reducible assumption
    | with_reducible exact trivial
    | with_reducible intro _
    | with_reducible refine inv_ite ?_ ?_
    | split
    | with_reducible apply bagMod_inv
    | with_reducible apply droneRestarted_inv
    | with_reducible apply chnMod_inv
    | with_reducible apply pinMod_inv
    | with_reducible apply chooseFirmware_inv
    | with_reducible apply failStart_inv
    | with_reducible apply ready_inv
    | with_reducible apply startRecovery_inv
    | with_reducible apply cstWarm_inv
    | with_reducible apply warmState_inv
    | with_reducible apply warmQuiesced_inv
    | refine inv_snd (by with_reducible assumption) ?_
    | (dsimp only)
    | (fail_if_no_progress (with_reducible refine inv_mk ?_ rfl rfl))

theorem execWarmReset_inv {recordOk : Bool} {s : State}  (hs : Inv s) : OutInv Inv (execWarmReset recordOk s) := by
  unfold execWarmReset
  repeat' first
    | with_reducible assumption
    | with_reducible exact trivial
    | with_reducible intro _
    | with_reducible apply out_next
    | split
    | with_reducible apply drainAll_inv
    | with_reducible apply warmReset_inv

theorem functionReset_inv {s : State}  (hs : Inv s) : Inv (functionReset s) := by
  unfold functionReset
  repeat' first
    | with_reducible assumption
    | with_reducible exact trivial
    | with_reducible intro _
    | with_reducible refine inv_ite ?_ ?_
    | split
    | with_reducible apply chnMod_inv
    | with_reducible apply settleCmds_inv
    | with_reducible apply portReset_inv

theorem execFunctionLevelReset_inv {s : State}  (hs : Inv s) : OutInv Inv (execFunctionLevelReset s) := by
  unfold execFunctionLevelReset
  repeat' first
    | with_reducible assumption
    | with_reducible exact trivial
    | with_reducible intro _
    | with_reducible apply out_next
    | split
    | with_reducible apply drainAll_inv
    | with_reducible apply functionReset_inv

theorem execPerstBeforeReady_inv {s : State}  (hs : Inv s) : OutInv Inv (execPerstBeforeReady s) := by
  unfold execPerstBeforeReady
  repeat' first
    | with_reducible assumption
    | with_reducible exact trivial
    | with_reducible intro _
    | with_reducible refine out_ite ?_ ?_
    | with_reducible refine inv_ite ?_ ?_
    | with_reducible apply out_next
    | split
    | with_reducible apply crookMod_inv
    | with_reducible apply pinMod_inv
    | (dsimp only)
    | (fail_if_no_progress (with_reducible refine inv_mk ?_ rfl rfl))

theorem execPerstDeassert_inv {s : State}  (hs : Inv s) : OutInv Inv (execPerstDeassert s) := by
  unfold execPerstDeassert
  repeat' first
    | with_reducible assumption
    | with_reducible exact trivial
    | with_reducible intro _
    | with_reducible apply out_next
    | split
    | with_reducible apply crookMod_inv
    | with_reducible apply pinMod_inv

theorem linkChanged_inv {rate : Nat} {width : Nat} {l0p : Bool} {flit : Bool} {s : State}  (hs : Inv s) : Inv (linkChanged rate width l0p flit s) := by
  unfold linkChanged
  repeat' first
    | with_reducible assumption
    | with_reducible exact trivial
    | with_reducible intro _
    | with_reducible refine inv_ite ?_ ?_
    | split
    | with_reducible apply regSet_inv
    | with_reducible apply raise_inv

theorem execLinkChanged_inv {rate : Nat} {width : Nat} {l0p : Bool} {flit : Bool} {s : State}  (hs : Inv s) : OutInv Inv (execLinkChanged rate width l0p flit s) := by
  unfold execLinkChanged
  repeat' first
    | with_reducible assumption
    | with_reducible exact trivial
    | with_reducible intro _
    | with_reducible apply out_next
    | split
    | with_reducible apply drainAll_inv
    | with_reducible apply linkChanged_inv

theorem raiseFatal_inv {block : Nat} {number : Nat} {addr : Nat} {s : State}  (hs : Inv s) : Inv (raiseFatal block number addr s) := by
  unfold raiseFatal
  repeat' first
    | with_reducible assumption
    | with_reducible exact trivial
    | with_reducible intro _
    | split
    | with_reducible apply blkFault_inv
    | with_reducible apply raise_inv

theorem fatalError_inv {block : Nat} {number : Nat} {addr : Nat} {s : State}  (hs : Inv s) : Inv (fatalError block number addr s) := by
  unfold fatalError
  repeat' first
    | with_reducible assumption
    | with_reducible exact trivial
    | with_reducible intro _
    | with_reducible refine inv_ite ?_ ?_
    | split
    | with_reducible apply goOff_inv
    | with_reducible apply failStart_inv
    | with_reducible apply coldState_inv
    | with_reducible apply raiseFatal_inv

theorem execFatalError_inv {block : Nat} {number : Nat} {addr : Nat} {s : State}  (hs : Inv s) : OutInv Inv (execFatalError block number addr s) := by
  unfold execFatalError
  repeat' first
    | with_reducible assumption
    | with_reducible exact trivial
    | with_reducible intro _
    | with_reducible apply out_next
    | split
    | with_reducible apply drainAll_inv
    | with_reducible apply fatalError_inv

theorem switchOpens_inv {s : State}  (hs : Inv s) : Inv (switchOpens s) := by
  unfold switchOpens
  repeat' first
    | with_reducible assumption
    | with_reducible exact trivial
    | with_reducible intro _
    | with_reducible refine inv_ite ?_ ?_
    | split
    | with_reducible apply powerLoss_inv
    | with_reducible apply chnMod_inv
    | with_reducible apply pinMod_inv

theorem execOvervoltage_inv {s : State}  (hs : Inv s) : OutInv Inv (execOvervoltage s) := by
  unfold execOvervoltage
  repeat' first
    | with_reducible assumption
    | with_reducible exact trivial
    | with_reducible intro _
    | with_reducible apply out_next
    | split
    | with_reducible apply pinMod_inv
    | with_reducible apply switchOpens_inv

theorem mateBreak_inv {s : State}  (hs : Inv s) : Inv (mateBreak s) := by
  unfold mateBreak
  repeat' first
    | with_reducible assumption
    | with_reducible exact trivial
    | with_reducible intro _
    | with_reducible refine inv_ite ?_ ?_
    | split
    | with_reducible apply bleedBank_inv
    | with_reducible apply pinMod_inv
    | with_reducible apply switchOpens_inv

theorem execMateBreak_inv {s : State}  (hs : Inv s) : OutInv Inv (execMateBreak s) := by
  unfold execMateBreak
  repeat' first
    | with_reducible assumption
    | with_reducible exact trivial
    | with_reducible intro _
    | with_reducible apply out_next
    | split
    | with_reducible apply mateBreak_inv

theorem switchCloses_inv {s : State}  (hs : Inv s) : Inv (switchCloses s) := by
  unfold switchCloses
  repeat' first
    | with_reducible assumption
    | with_reducible exact trivial
    | with_reducible intro _
    | with_reducible refine inv_ite ?_ ?_
    | split
    | with_reducible apply pinMod_inv

theorem execInputSwitchClose_inv {s : State}  (hs : Inv s) : OutInv Inv (execInputSwitchClose s) := by
  unfold execInputSwitchClose
  repeat' first
    | with_reducible assumption
    | with_reducible exact trivial
    | with_reducible intro _
    | with_reducible apply out_next
    | split
    | with_reducible apply switchCloses_inv

theorem restartAfterSeal_inv {s : State}  (hs : Inv s) : Inv (restartAfterSeal s) := by
  unfold restartAfterSeal
  repeat' first
    | with_reducible assumption
    | with_reducible exact trivial
    | with_reducible intro _
    | with_reducible refine inv_ite ?_ ?_
    | split
    | with_reducible apply pinMod_inv

theorem execRestartAfterSeal_inv {s : State}  (hs : Inv s) : OutInv Inv (execRestartAfterSeal s) := by
  unfold execRestartAfterSeal
  repeat' first
    | with_reducible assumption
    | with_reducible exact trivial
    | with_reducible intro _
    | with_reducible apply out_next
    | split
    | with_reducible apply restartAfterSeal_inv

theorem execManagementControllerPowerUp_inv {straps : Nat} {s : State}  (hs : Inv s) : OutInv Inv (execManagementControllerPowerUp straps s) := by
  unfold execManagementControllerPowerUp
  repeat' first
    | with_reducible assumption
    | with_reducible exact trivial
    | with_reducible intro _
    | with_reducible apply out_next
    | split
    | with_reducible apply secMod_inv
    | with_reducible apply pinMod_inv

end Sys2Proof.Machine
end

