-- ==== Sys2Proof/Laws/KeepsRegFile.lean ====
section
/-! SUPPORT. The functions of Machine/RegFile.lean keep the invariant. -/

namespace Sys2Proof.Machine

theorem regClear_inv {b : Blk} {i : Nat} {off : Nat} {s : State}  (hs : Inv s) : Inv (regClear b i off s) := by
  unfold regClear
  repeat' first
    | with_reducible assumption
    | with_reducible exact trivial
    | with_reducible intro _
    | with_reducible refine inv_ite ?_ ?_
    | split
    | with_reducible apply regSet_inv
    | with_reducible apply bagMod_inv

theorem bar0Read_inv {o : Nat} {n : Nat} {s : State}  (hs : Inv s) : Inv (bar0Read o n s) := by
  unfold bar0Read
  repeat' first
    | with_reducible assumption
    | with_reducible exact trivial
    | with_reducible intro _
    | with_reducible refine inv_ite ?_ ?_
    | split
    | with_reducible apply emit_inv
    | with_reducible apply violation_inv
    | with_reducible apply regClear_inv

theorem registerRead_inv {bar : Nat} {off : Nat} {n : Nat} {s : State}  (hs : Inv s) : Inv (registerRead bar off n s) := by
  unfold registerRead
  repeat' first
    | with_reducible assumption
    | with_reducible exact trivial
    | with_reducible intro _
    | with_reducible refine inv_ite ?_ ?_
    | split
    | with_reducible apply emit_inv
    | with_reducible apply violation_inv
    | with_reducible apply bar0Read_inv

theorem execRegisterRead_inv {bar : Nat} {off : Nat} {size : Nat} {s : State}  (hs : Inv s) : OutInv Inv (execRegisterRead bar off size s) := by
  unfold execRegisterRead
  repeat' first
    | with_reducible assumption
    | with_reducible exact trivial
    | with_reducible intro _
    | with_reducible apply out_next
    | split
    | with_reducible apply drainAll_inv
    | with_reducible apply registerRead_inv

theorem maskWrite_inv {o : Nat} {mask : Nat} {v : Word64} {s : State}  (hs : Inv s) : Inv (maskWrite o mask v s) := by
  unfold maskWrite
  repeat' first
    | with_reducible assumption
    | with_reducible exact trivial
    | with_reducible intro _
    | split
    | with_reducible apply regSet_inv

theorem mpcWrite_inv {off : Nat} {v : Word64} {s : State}  (hs : Inv s) : Inv (mpcWrite off v s) := by
  unfold mpcWrite
  repeat' first
    | with_reducible assumption
    | with_reducible exact trivial
    | with_reducible intro _
    | with_reducible refine inv_ite ?_ ?_
    | split
    | with_reducible apply ctxWriteWord0_inv
    | with_reducible apply ctxWriteWord1_inv
    | with_reducible apply ctxWriteReserved_inv
    | with_reducible apply headWrite_inv
    | with_reducible apply portEnable_inv

theorem ucalCtl_inv {v : Word64} {s : State}  (hs : Inv s) : Inv (ucalCtl v s) := by
  unfold ucalCtl
  repeat' first
    | with_reducible assumption
    | with_reducible exact trivial
    | with_reducible intro _
    | with_reducible refine inv_ite ?_ ?_
    | split
    | with_reducible apply ucalSave_inv
    | with_reducible apply ucalFactory_inv

theorem blwWrite_inv {off : Nat} {v : Word64} {s : State}  (hs : Inv s) : Inv (blwWrite off v s) := by
  unfold blwWrite
  repeat' first
    | with_reducible assumption
    | with_reducible exact trivial
    | with_reducible intro _
    | split
    | with_reducible apply regSet_inv
    | with_reducible apply regField_inv
    | with_reducible apply ofsTrim_inv
    | with_reducible apply ofsTap_inv
    | with_reducible apply floorWrite_inv
    | with_reducible apply capWrite_inv
    | with_reducible apply setGuard_inv
    | with_reducible apply maskWrite_inv
    | with_reducible apply ucalCtl_inv

theorem bagWrite_inv {off : Nat} {v : Word64} {s : State}  (hs : Inv s) : Inv (bagWrite off v s) := by
  unfold bagWrite
  repeat' first
    | with_reducible assumption
    | with_reducible exact trivial
    | with_reducible intro _
    | with_reducible refine inv_ite ?_ ?_
    | split
    | with_reducible apply regSet_inv

theorem drnWrite_inv {off : Nat} {v : Word64} {s : State}  (hs : Inv s) : Inv (drnWrite off v s) := by
  unfold drnWrite
  repeat' first
    | with_reducible assumption
    | with_reducible exact trivial
    | with_reducible intro _
    | with_reducible refine inv_ite ?_ ?_
    | split
    | with_reducible apply regSet_inv
    | with_reducible apply regViolation3_inv
    | with_reducible apply setMntRates_inv
    | with_reducible apply maskWrite_inv

theorem cstWrite_inv {off : Nat} {v : Word64} {s : State}  (hs : Inv s) : Inv (cstWrite off v s) := by
  unfold cstWrite
  repeat' first
    | with_reducible assumption
    | with_reducible exact trivial
    | with_reducible intro _
    | with_reducible refine inv_ite ?_ ?_
    | split
    | with_reducible apply regSet_inv
    | with_reducible apply regViolation3_inv
    | with_reducible apply peerPut_inv
    | with_reducible apply peerCtl_inv
    | with_reducible apply mirrorWrite_inv
    | with_reducible apply shardWrite_inv
    | with_reducible apply netWrite_inv

theorem regWriteAt_inv {b : Blk} {i : Nat} {off : Nat} {d : RegDef} {v : Word64} {s : State}  (hs : Inv s) : Inv (regWriteAt b i off d v s) := by
  unfold regWriteAt
  repeat' first
    | with_reducible assumption
    | with_reducible exact trivial
    | with_reducible intro _
    | with_reducible refine inv_ite ?_ ?_
    | split
    | with_reducible apply regSet_inv
    | with_reducible apply regField_inv
    | with_reducible apply blkErrClear_inv
    | with_reducible apply boreDebug_inv
    | with_reducible apply bootWrite_inv
    | with_reducible apply ledgerSel_inv
    | with_reducible apply maskWrite_inv
    | with_reducible apply mpcWrite_inv
    | with_reducible apply blwWrite_inv
    | with_reducible apply bagWrite_inv
    | with_reducible apply drnWrite_inv
    | with_reducible apply cstWrite_inv

theorem bar0Write_inv {o : Nat} {data : List Byte} {s : State}  (hs : Inv s) : Inv (bar0Write o data s) := by
  unfold bar0Write
  repeat' first
    | with_reducible assumption
    | with_reducible exact trivial
    | with_reducible intro _
    | with_reducible refine inv_ite ?_ ?_
    | split
    | with_reducible apply violation_inv
    | with_reducible apply regWriteAt_inv

theorem bar4Write_inv {a : Nat} {data : List Byte} {s : State}  (hs : Inv s) : Inv (bar4Write a data s) := by
  unfold bar4Write
  repeat' first
    | with_reducible assumption
    | with_reducible exact trivial
    | with_reducible intro _
    | with_reducible refine inv_ite ?_ ?_
    | split
    | with_reducible refine inv_foldl ?_ ?_
    | with_reducible apply violation_inv
    | with_reducible apply msixWrite_inv

theorem registerWrite_inv {bar : Nat} {off : Nat} {data : List Byte} {s : State}  (hs : Inv s) : Inv (registerWrite bar off data s) := by
  unfold registerWrite
  repeat' first
    | with_reducible assumption
    | with_reducible exact trivial
    | with_reducible intro _
    | split
    | with_reducible apply windowWrite_inv
    | with_reducible apply bar0Write_inv
    | with_reducible apply bar4Write_inv

theorem execRegisterWrite_inv {bar : Nat} {off : Nat} {data : List Byte} {s : State}  (hs : Inv s) : OutInv Inv (execRegisterWrite bar off data s) := by
  unfold execRegisterWrite
  repeat' first
    | with_reducible assumption
    | with_reducible exact trivial
    | with_reducible intro _
    | with_reducible apply out_next
    | split
    | with_reducible apply drainAll_inv
    | with_reducible apply registerWrite_inv

end Sys2Proof.Machine
end

