-- ==== Sys2Proof/Laws/KeepsManage.lean ====
section
/-! SUPPORT. The functions of Machine/Manage.lean keep the invariant. -/

namespace Sys2Proof.Machine

theorem answer_inv {t : Nat} {code : Nat} {body : List Byte} {s : State}  (hs : Inv s) : Inv (answer t code body s) := by
  unfold answer
  repeat' first
    | with_reducible assumption
    | with_reducible exact trivial
    | with_reducible intro _
    | split
    | with_reducible apply emit_inv

theorem vendor_inv {t : Nat} {allowed : State → Bool} {f : State → State} {s : State} (hf : ∀ a0, Inv a0 → Inv (f a0)) (hs : Inv s) : Inv (vendor t allowed f s) := by
  unfold vendor
  repeat' first
    | with_reducible assumption
    | with_reducible exact trivial
    | with_reducible intro _
    | with_reducible refine inv_ite ?_ ?_
    | split
    | with_reducible apply answer_inv
    | with_reducible apply hf

theorem setBusy_inv {s : State}  (hs : Inv s) : Inv (setBusy s) := by
  unfold setBusy
  repeat' first
    | with_reducible assumption
    | with_reducible exact trivial
    | with_reducible intro _
    | split
    | with_reducible apply secMod_inv

theorem execGetState_inv {transport : Nat} {s : State}  (hs : Inv s) : OutInv Inv (execGetState transport s) := by
  unfold execGetState
  repeat' first
    | with_reducible assumption
    | with_reducible exact trivial
    | with_reducible intro _
    | with_reducible refine out_ite ?_ ?_
    | with_reducible refine inv_ite ?_ ?_
    | with_reducible apply out_next
    | split
    | with_reducible apply answer_inv

theorem offNow_inv {s : State}  (hs : Inv s) : Inv (offNow s) := by
  unfold offNow
  repeat' first
    | with_reducible assumption
    | with_reducible exact trivial
    | with_reducible intro _
    | with_reducible refine inv_ite ?_ ?_
    | split
    | with_reducible apply setMode_inv
    | with_reducible apply goOff_inv
    | with_reducible apply pinMod_inv
    | with_reducible apply setBusy_inv

theorem execOff_inv {transport : Nat} {s : State}  (hs : Inv s) : OutInv Inv (execOff transport s) := by
  unfold execOff
  repeat' first
    | with_reducible assumption
    | with_reducible exact trivial
    | with_reducible intro _
    | with_reducible apply out_next
    | split
    | with_reducible apply drainAll_inv
    | with_reducible apply vendor_inv
    | with_reducible apply offNow_inv

theorem coldResetNow_inv {s : State}  (hs : Inv s) : Inv (coldResetNow s) := by
  unfold coldResetNow
  repeat' first
    | with_reducible assumption
    | with_reducible exact trivial
    | with_reducible intro _
    | with_reducible refine inv_ite ?_ ?_
    | split
    | with_reducible apply beginLoss_inv
    | with_reducible apply chnMod_inv
    | with_reducible apply pinMod_inv
    | with_reducible apply setBusy_inv

theorem execColdReset_inv {transport : Nat} {s : State}  (hs : Inv s) : OutInv Inv (execColdReset transport s) := by
  unfold execColdReset
  repeat' first
    | with_reducible assumption
    | with_reducible exact trivial
    | with_reducible intro _
    | with_reducible apply out_next
    | split
    | with_reducible apply vendor_inv
    | with_reducible apply coldResetNow_inv

theorem warmResetNow_inv {s : State}  (hs : Inv s) : Inv (warmResetNow s) := by
  unfold warmResetNow
  repeat' first
    | with_reducible assumption
    | with_reducible exact trivial
    | with_reducible intro _
    | split
    | with_reducible apply chnMod_inv
    | with_reducible apply setBusy_inv

theorem execMgmtWarmReset_inv {transport : Nat} {s : State}  (hs : Inv s) : OutInv Inv (execMgmtWarmReset transport s) := by
  unfold execMgmtWarmReset
  repeat' first
    | with_reducible assumption
    | with_reducible exact trivial
    | with_reducible intro _
    | with_reducible apply out_next
    | split
    | with_reducible apply vendor_inv
    | with_reducible apply warmResetNow_inv

theorem execHoldSet_inv {transport : Nat} {s : State}  (hs : Inv s) : OutInv Inv (execHoldSet transport s) := by
  unfold execHoldSet
  repeat' first
    | with_reducible assumption
    | with_reducible exact trivial
    | with_reducible intro _
    | with_reducible apply out_next
    | split
    | with_reducible apply drainAll_inv
    | with_reducible apply enterHold_inv
    | with_reducible apply vendor_inv

theorem holdCleared_inv {s : State}  (hs : Inv s) : Inv (holdCleared s) := by
  unfold holdCleared
  repeat' first
    | with_reducible assumption
    | with_reducible exact trivial
    | with_reducible intro _
    | with_reducible refine inv_ite ?_ ?_
    | split
    | with_reducible apply setMode_inv
    | with_reducible apply chnMod_inv

theorem execHoldClear_inv {transport : Nat} {s : State}  (hs : Inv s) : OutInv Inv (execHoldClear transport s) := by
  unfold execHoldClear
  repeat' first
    | with_reducible assumption
    | with_reducible exact trivial
    | with_reducible intro _
    | with_reducible apply out_next
    | split
    | with_reducible apply drainAll_inv
    | with_reducible apply vendor_inv
    | with_reducible apply holdCleared_inv

theorem formatNow_inv {s : State}  (hs : Inv s) : Inv (formatNow s) := by
  unfold formatNow
  repeat' first
    | with_reducible assumption
    | with_reducible exact trivial
    | with_reducible intro _
    | split
    | with_reducible apply bagMod_inv
    | with_reducible apply chnMod_inv
    | with_reducible apply secMod_inv
    | with_reducible apply pinMod_inv
    | with_reducible apply setBusy_inv

theorem execFormat_inv {transport : Nat} {s : State}  (hs : Inv s) : OutInv Inv (execFormat transport s) := by
  unfold execFormat
  repeat' first
    | with_reducible assumption
    | with_reducible exact trivial
    | with_reducible intro _
    | with_reducible apply out_next
    | split
    | with_reducible apply vendor_inv
    | with_reducible apply formatNow_inv

theorem execMgmtSetTime_inv {transport : Nat} {seconds : Nat} {s : State}  (hs : Inv s) : OutInv Inv (execMgmtSetTime transport seconds s) := by
  unfold execMgmtSetTime
  repeat' first
    | with_reducible assumption
    | with_reducible exact trivial
    | with_reducible intro _
    | with_reducible apply out_next
    | split
    | with_reducible apply vendor_inv
    | (dsimp only)
    | (fail_if_no_progress (with_reducible refine inv_mk ?_ rfl rfl))

theorem execKekSet_inv {transport : Nat} {generation : Nat} {key : BitVec 256} {s : State}  (hs : Inv s) : OutInv Inv (execKekSet transport generation key s) := by
  unfold execKekSet
  repeat' first
    | with_reducible assumption
    | with_reducible exact trivial
    | with_reducible intro _
    | with_reducible apply out_next
    | split
    | with_reducible apply secMod_inv
    | with_reducible apply vendor_inv

theorem debugStart_inv {serial : Nat} {s : State}  (hs : Inv s) : Inv (debugStart serial s) := by
  unfold debugStart
  repeat' first
    | with_reducible assumption
    | with_reducible exact trivial
    | with_reducible intro _
    | split
    | with_reducible apply raise_inv
    | with_reducible apply secMod_inv

theorem tokenFails_inv {s : State}  (hs : Inv s) : Inv (tokenFails s) := by
  unfold tokenFails
  repeat' first
    | with_reducible assumption
    | with_reducible exact trivial
    | with_reducible intro _
    | split
    | with_reducible apply bumpSat_inv
    | with_reducible apply blkFault_inv

theorem debugEnable_inv {t : Nat} {serial : Nat} {tokenOk : Bool} {s : State}  (hs : Inv s) : Inv (debugEnable t serial tokenOk s) := by
  unfold debugEnable
  repeat' first
    | with_reducible assumption
    | with_reducible exact trivial
    | with_reducible intro _
    | with_reducible refine inv_ite ?_ ?_
    | split
    | (simp only [id])
    | with_reducible apply answer_inv
    | with_reducible apply vendor_inv
    | with_reducible apply debugStart_inv
    | with_reducible apply tokenFails_inv

theorem execDebugEnable_inv {transport : Nat} {serial : Nat} {tokenOk : Bool} {s : State}  (hs : Inv s) : OutInv Inv (execDebugEnable transport serial tokenOk s) := by
  unfold execDebugEnable
  repeat' first
    | with_reducible assumption
    | with_reducible exact trivial
    | with_reducible intro _
    | with_reducible apply out_next
    | split
    | with_reducible apply drainAll_inv
    | with_reducible apply debugEnable_inv

theorem firmwareUpdate_inv {component : Nat} {svn : Nat} {release : Nat} {signatureOk : Bool} {s : State}  (hs : Inv s) : Inv (firmwareUpdate component svn release signatureOk s) := by
  unfold firmwareUpdate
  repeat' first
    | with_reducible assumption
    | with_reducible exact trivial
    | with_reducible intro _
    | with_reducible refine inv_ite ?_ ?_
    | split
    | with_reducible apply bumpSat_inv
    | with_reducible apply blkFault_inv
    | with_reducible apply emit_inv
    | with_reducible apply secMod_inv

theorem execFirmwareUpdate_inv {component : Nat} {svn : Nat} {release : Nat} {signatureOk : Bool} {s : State}  (hs : Inv s) : OutInv Inv (execFirmwareUpdate component svn release signatureOk s) := by
  unfold execFirmwareUpdate
  repeat' first
    | with_reducible assumption
    | with_reducible exact trivial
    | with_reducible intro _
    | with_reducible apply out_next
    | split
    | with_reducible apply firmwareUpdate_inv

theorem activateFirmware_inv {component : Nat} {s : State}  (hs : Inv s) : Inv (activateFirmware component s) := by
  unfold activateFirmware
  repeat' first
    | with_reducible assumption
    | with_reducible exact trivial
    | with_reducible intro _
    | with_reducible refine inv_ite ?_ ?_
    | split
    | with_reducible apply raise_inv
    | with_reducible apply secMod_inv

theorem execActivateFirmware_inv {component : Nat} {s : State}  (hs : Inv s) : OutInv Inv (execActivateFirmware component s) := by
  unfold execActivateFirmware
  repeat' first
    | with_reducible assumption
    | with_reducible exact trivial
    | with_reducible intro _
    | with_reducible apply out_next
    | split
    | with_reducible apply drainAll_inv
    | with_reducible apply activateFirmware_inv

theorem spdmRequest_inv {t : Nat} {code : Nat} {data : List Byte} {s : State}  (hs : Inv s) : Inv (spdmRequest t code data s) := by
  unfold spdmRequest
  repeat' first
    | with_reducible assumption
    | with_reducible exact trivial
    | with_reducible intro _
    | with_reducible refine inv_ite ?_ ?_
    | split
    | with_reducible apply emit_inv
    | with_reducible apply secMod_inv

theorem execSpdmRequest_inv {transport : Nat} {code : Nat} {data : List Byte} {s : State}  (hs : Inv s) : OutInv Inv (execSpdmRequest transport code data s) := by
  unfold execSpdmRequest
  repeat' first
    | with_reducible assumption
    | with_reducible exact trivial
    | with_reducible intro _
    | with_reducible apply out_next
    | split
    | with_reducible apply spdmRequest_inv

theorem execSpdmSessionTimeout_inv {transport : Nat} {s : State}  (hs : Inv s) : OutInv Inv (execSpdmSessionTimeout transport s) := by
  unfold execSpdmSessionTimeout
  repeat' first
    | with_reducible assumption
    | with_reducible exact trivial
    | with_reducible intro _
    | with_reducible apply out_next
    | split
    | with_reducible apply secMod_inv

theorem execMctpControl_inv {transport : Nat} {eid : Nat} {s : State}  (hs : Inv s) : OutInv Inv (execMctpControl transport eid s) := by
  unfold execMctpControl
  repeat' first
    | with_reducible assumption
    | with_reducible exact trivial
    | with_reducible intro _
    | with_reducible refine out_ite ?_ ?_
    | with_reducible refine inv_ite ?_ ?_
    | with_reducible apply out_next
    | split
    | with_reducible apply emit_inv
    | with_reducible apply secMod_inv

theorem execPldmSetEventReceiver_inv {transport : Nat} {eid : Nat} {s : State}  (hs : Inv s) : OutInv Inv (execPldmSetEventReceiver transport eid s) := by
  unfold execPldmSetEventReceiver
  repeat' first
    | with_reducible assumption
    | with_reducible exact trivial
    | with_reducible intro _
    | with_reducible refine out_ite ?_ ?_
    | with_reducible refine inv_ite ?_ ?_
    | with_reducible apply out_next
    | split
    | with_reducible apply emit_inv
    | with_reducible apply secMod_inv

end Sys2Proof.Machine
end

