-- ==== Sys2Proof/Laws/State.lean ====
section
/-! SUPPORT. What each update of the state leaves and what it writes, true by definition. -/

namespace Sys2Proof.Machine

@[simp] theorem regSet_regs {o : Nat} {v : Word64} {s : State} :
    (regSet o v s).regs = tset s.regs o v := rfl
@[simp] theorem regSet_others {o : Nat} {v : Word64} {s : State} :
    (regSet o v s).pending = s.pending ∧ (regSet o v s).now = s.now ∧ (regSet o v s).tod = s.tod ∧ (regSet o v s).outbox =
    s.outbox ∧ (regSet o v s).hostMem = s.hostMem ∧ (regSet o v s).hostPoison = s.hostPoison ∧ (regSet o v s).latches =
    s.latches ∧ (regSet o v s).service = s.service ∧ (regSet o v s).msixTable = s.msixTable ∧ (regSet o v s).msixPending =
    s.msixPending ∧ (regSet o v s).windows = s.windows ∧ (regSet o v s).queues = s.queues ∧ (regSet o v s).cmds = s.cmds ∧
    (regSet o v s).nextCmd = s.nextCmd ∧ (regSet o v s).reports = s.reports ∧ (regSet o v s).rings = s.rings ∧ (regSet o v
    s).evRings = s.evRings ∧ (regSet o v s).classes = s.classes ∧ (regSet o v s).lastUrg = s.lastUrg ∧ (regSet o v s).ledgers
    = s.ledgers ∧ (regSet o v s).domains = s.domains ∧ (regSet o v s).crook = s.crook ∧ (regSet o v s).colls = s.colls ∧
    (regSet o v s).progs = s.progs ∧ (regSet o v s).tables = s.tables ∧ (regSet o v s).srings = s.srings ∧ (regSet o v
    s).engines = s.engines ∧ (regSet o v s).bag = s.bag ∧ (regSet o v s).cst = s.cst ∧ (regSet o v s).blw = s.blw ∧ (regSet o
    v s).chn = s.chn ∧ (regSet o v s).sec = s.sec ∧ (regSet o v s).pins = s.pins ∧ (regSet o v s).poison = s.poison ∧ (regSet
    o v s).rowsMarked = s.rowsMarked ∧ (regSet o v s).rowCorrected = s.rowCorrected ∧ (regSet o v s).unitCorrected =
    s.unitCorrected ∧ (regSet o v s).tierLow = s.tierLow ∧ (regSet o v s).parityCells = s.parityCells ∧ (regSet o v s).accs =
    s.accs ∧ (regSet o v s).accSet = s.accSet ∧ (regSet o v s).bells = s.bells ∧ (regSet o v s).contexts = s.contexts ∧
    (regSet o v s).nextLead = s.nextLead := by
  unfold regSet
  repeat' constructor

@[simp] theorem emit_outbox {o : Out} {s : State} :
    (emit o s).outbox = s.outbox ++ [o] := rfl
@[simp] theorem emit_others {o : Out} {s : State} :
    (emit o s).pending = s.pending ∧ (emit o s).now = s.now ∧ (emit o s).tod = s.tod ∧ (emit o s).hostMem = s.hostMem ∧ (emit
    o s).hostPoison = s.hostPoison ∧ (emit o s).regs = s.regs ∧ (emit o s).latches = s.latches ∧ (emit o s).service =
    s.service ∧ (emit o s).msixTable = s.msixTable ∧ (emit o s).msixPending = s.msixPending ∧ (emit o s).windows = s.windows
    ∧ (emit o s).queues = s.queues ∧ (emit o s).cmds = s.cmds ∧ (emit o s).nextCmd = s.nextCmd ∧ (emit o s).reports =
    s.reports ∧ (emit o s).rings = s.rings ∧ (emit o s).evRings = s.evRings ∧ (emit o s).classes = s.classes ∧ (emit o
    s).lastUrg = s.lastUrg ∧ (emit o s).ledgers = s.ledgers ∧ (emit o s).domains = s.domains ∧ (emit o s).crook = s.crook ∧
    (emit o s).colls = s.colls ∧ (emit o s).progs = s.progs ∧ (emit o s).tables = s.tables ∧ (emit o s).srings = s.srings ∧
    (emit o s).engines = s.engines ∧ (emit o s).bag = s.bag ∧ (emit o s).cst = s.cst ∧ (emit o s).blw = s.blw ∧ (emit o
    s).chn = s.chn ∧ (emit o s).sec = s.sec ∧ (emit o s).pins = s.pins ∧ (emit o s).poison = s.poison ∧ (emit o s).rowsMarked
    = s.rowsMarked ∧ (emit o s).rowCorrected = s.rowCorrected ∧ (emit o s).unitCorrected = s.unitCorrected ∧ (emit o
    s).tierLow = s.tierLow ∧ (emit o s).parityCells = s.parityCells ∧ (emit o s).accs = s.accs ∧ (emit o s).accSet = s.accSet
    ∧ (emit o s).bells = s.bells ∧ (emit o s).contexts = s.contexts ∧ (emit o s).nextLead = s.nextLead := by
  unfold emit
  repeat' constructor

@[simp] theorem setEvRing_evRings {e : Nat} {r : Ring} {s : State} :
    (setEvRing e r s).evRings = tset s.evRings e r := rfl
@[simp] theorem setEvRing_others {e : Nat} {r : Ring} {s : State} :
    (setEvRing e r s).pending = s.pending ∧ (setEvRing e r s).now = s.now ∧ (setEvRing e r s).tod = s.tod ∧ (setEvRing e r
    s).outbox = s.outbox ∧ (setEvRing e r s).hostMem = s.hostMem ∧ (setEvRing e r s).hostPoison = s.hostPoison ∧ (setEvRing e
    r s).regs = s.regs ∧ (setEvRing e r s).latches = s.latches ∧ (setEvRing e r s).service = s.service ∧ (setEvRing e r
    s).msixTable = s.msixTable ∧ (setEvRing e r s).msixPending = s.msixPending ∧ (setEvRing e r s).windows = s.windows ∧
    (setEvRing e r s).queues = s.queues ∧ (setEvRing e r s).cmds = s.cmds ∧ (setEvRing e r s).nextCmd = s.nextCmd ∧
    (setEvRing e r s).reports = s.reports ∧ (setEvRing e r s).rings = s.rings ∧ (setEvRing e r s).classes = s.classes ∧
    (setEvRing e r s).lastUrg = s.lastUrg ∧ (setEvRing e r s).ledgers = s.ledgers ∧ (setEvRing e r s).domains = s.domains ∧
    (setEvRing e r s).crook = s.crook ∧ (setEvRing e r s).colls = s.colls ∧ (setEvRing e r s).progs = s.progs ∧ (setEvRing e
    r s).tables = s.tables ∧ (setEvRing e r s).srings = s.srings ∧ (setEvRing e r s).engines = s.engines ∧ (setEvRing e r
    s).bag = s.bag ∧ (setEvRing e r s).cst = s.cst ∧ (setEvRing e r s).blw = s.blw ∧ (setEvRing e r s).chn = s.chn ∧
    (setEvRing e r s).sec = s.sec ∧ (setEvRing e r s).pins = s.pins ∧ (setEvRing e r s).poison = s.poison ∧ (setEvRing e r
    s).rowsMarked = s.rowsMarked ∧ (setEvRing e r s).rowCorrected = s.rowCorrected ∧ (setEvRing e r s).unitCorrected =
    s.unitCorrected ∧ (setEvRing e r s).tierLow = s.tierLow ∧ (setEvRing e r s).parityCells = s.parityCells ∧ (setEvRing e r
    s).accs = s.accs ∧ (setEvRing e r s).accSet = s.accSet ∧ (setEvRing e r s).bells = s.bells ∧ (setEvRing e r s).contexts =
    s.contexts ∧ (setEvRing e r s).nextLead = s.nextLead := by
  unfold setEvRing
  repeat' constructor

@[simp] theorem logEvent_chn {ev : Ev} {s : State} :
    (logEvent ev s).chn = { s.chn with
      recent := keepLast 65536 (s.chn.recent ++ [ev]),
      persistent := if persists ev then keepLast 262144 (s.chn.persistent ++ [ev]) else s.chn.persistent } := rfl
@[simp] theorem logEvent_others {ev : Ev} {s : State} :
    (logEvent ev s).pending = s.pending ∧ (logEvent ev s).now = s.now ∧ (logEvent ev s).tod = s.tod ∧ (logEvent ev s).outbox
    = s.outbox ∧ (logEvent ev s).hostMem = s.hostMem ∧ (logEvent ev s).hostPoison = s.hostPoison ∧ (logEvent ev s).regs =
    s.regs ∧ (logEvent ev s).latches = s.latches ∧ (logEvent ev s).service = s.service ∧ (logEvent ev s).msixTable =
    s.msixTable ∧ (logEvent ev s).msixPending = s.msixPending ∧ (logEvent ev s).windows = s.windows ∧ (logEvent ev s).queues
    = s.queues ∧ (logEvent ev s).cmds = s.cmds ∧ (logEvent ev s).nextCmd = s.nextCmd ∧ (logEvent ev s).reports = s.reports ∧
    (logEvent ev s).rings = s.rings ∧ (logEvent ev s).evRings = s.evRings ∧ (logEvent ev s).classes = s.classes ∧ (logEvent
    ev s).lastUrg = s.lastUrg ∧ (logEvent ev s).ledgers = s.ledgers ∧ (logEvent ev s).domains = s.domains ∧ (logEvent ev
    s).crook = s.crook ∧ (logEvent ev s).colls = s.colls ∧ (logEvent ev s).progs = s.progs ∧ (logEvent ev s).tables =
    s.tables ∧ (logEvent ev s).srings = s.srings ∧ (logEvent ev s).engines = s.engines ∧ (logEvent ev s).bag = s.bag ∧
    (logEvent ev s).cst = s.cst ∧ (logEvent ev s).blw = s.blw ∧ (logEvent ev s).sec = s.sec ∧ (logEvent ev s).pins = s.pins ∧
    (logEvent ev s).poison = s.poison ∧ (logEvent ev s).rowsMarked = s.rowsMarked ∧ (logEvent ev s).rowCorrected =
    s.rowCorrected ∧ (logEvent ev s).unitCorrected = s.unitCorrected ∧ (logEvent ev s).tierLow = s.tierLow ∧ (logEvent ev
    s).parityCells = s.parityCells ∧ (logEvent ev s).accs = s.accs ∧ (logEvent ev s).accSet = s.accSet ∧ (logEvent ev
    s).bells = s.bells ∧ (logEvent ev s).contexts = s.contexts ∧ (logEvent ev s).nextLead = s.nextLead := by
  unfold logEvent
  repeat' constructor

@[simp] theorem advanceEpoch_chn {s : State} :
    (advanceEpoch s).chn = { s.chn with epoch := s.chn.epoch + 1 } := rfl
@[simp] theorem advanceEpoch_others {s : State} :
    (advanceEpoch s).pending = s.pending ∧ (advanceEpoch s).now = s.now ∧ (advanceEpoch s).tod = s.tod ∧ (advanceEpoch
    s).outbox = s.outbox ∧ (advanceEpoch s).hostMem = s.hostMem ∧ (advanceEpoch s).hostPoison = s.hostPoison ∧ (advanceEpoch
    s).regs = s.regs ∧ (advanceEpoch s).latches = s.latches ∧ (advanceEpoch s).service = s.service ∧ (advanceEpoch
    s).msixTable = s.msixTable ∧ (advanceEpoch s).msixPending = s.msixPending ∧ (advanceEpoch s).windows = s.windows ∧
    (advanceEpoch s).queues = s.queues ∧ (advanceEpoch s).cmds = s.cmds ∧ (advanceEpoch s).nextCmd = s.nextCmd ∧
    (advanceEpoch s).reports = s.reports ∧ (advanceEpoch s).rings = s.rings ∧ (advanceEpoch s).evRings = s.evRings ∧
    (advanceEpoch s).classes = s.classes ∧ (advanceEpoch s).lastUrg = s.lastUrg ∧ (advanceEpoch s).ledgers = s.ledgers ∧
    (advanceEpoch s).domains = s.domains ∧ (advanceEpoch s).crook = s.crook ∧ (advanceEpoch s).colls = s.colls ∧
    (advanceEpoch s).progs = s.progs ∧ (advanceEpoch s).tables = s.tables ∧ (advanceEpoch s).srings = s.srings ∧
    (advanceEpoch s).engines = s.engines ∧ (advanceEpoch s).bag = s.bag ∧ (advanceEpoch s).cst = s.cst ∧ (advanceEpoch s).blw
    = s.blw ∧ (advanceEpoch s).sec = s.sec ∧ (advanceEpoch s).pins = s.pins ∧ (advanceEpoch s).poison = s.poison ∧
    (advanceEpoch s).rowsMarked = s.rowsMarked ∧ (advanceEpoch s).rowCorrected = s.rowCorrected ∧ (advanceEpoch
    s).unitCorrected = s.unitCorrected ∧ (advanceEpoch s).tierLow = s.tierLow ∧ (advanceEpoch s).parityCells = s.parityCells
    ∧ (advanceEpoch s).accs = s.accs ∧ (advanceEpoch s).accSet = s.accSet ∧ (advanceEpoch s).bells = s.bells ∧ (advanceEpoch
    s).contexts = s.contexts ∧ (advanceEpoch s).nextLead = s.nextLead := by
  unfold advanceEpoch
  repeat' constructor

@[simp] theorem cmdMod_cmds {c : Nat} {f : Cmd → Cmd} {s : State} :
    (cmdMod c f s).cmds = s.cmds.map (fun x => if x.id = c then f x else x) := rfl
@[simp] theorem cmdMod_others {c : Nat} {f : Cmd → Cmd} {s : State} :
    (cmdMod c f s).pending = s.pending ∧ (cmdMod c f s).now = s.now ∧ (cmdMod c f s).tod = s.tod ∧ (cmdMod c f s).outbox =
    s.outbox ∧ (cmdMod c f s).hostMem = s.hostMem ∧ (cmdMod c f s).hostPoison = s.hostPoison ∧ (cmdMod c f s).regs = s.regs ∧
    (cmdMod c f s).latches = s.latches ∧ (cmdMod c f s).service = s.service ∧ (cmdMod c f s).msixTable = s.msixTable ∧
    (cmdMod c f s).msixPending = s.msixPending ∧ (cmdMod c f s).windows = s.windows ∧ (cmdMod c f s).queues = s.queues ∧
    (cmdMod c f s).nextCmd = s.nextCmd ∧ (cmdMod c f s).reports = s.reports ∧ (cmdMod c f s).rings = s.rings ∧ (cmdMod c f
    s).evRings = s.evRings ∧ (cmdMod c f s).classes = s.classes ∧ (cmdMod c f s).lastUrg = s.lastUrg ∧ (cmdMod c f s).ledgers
    = s.ledgers ∧ (cmdMod c f s).domains = s.domains ∧ (cmdMod c f s).crook = s.crook ∧ (cmdMod c f s).colls = s.colls ∧
    (cmdMod c f s).progs = s.progs ∧ (cmdMod c f s).tables = s.tables ∧ (cmdMod c f s).srings = s.srings ∧ (cmdMod c f
    s).engines = s.engines ∧ (cmdMod c f s).bag = s.bag ∧ (cmdMod c f s).cst = s.cst ∧ (cmdMod c f s).blw = s.blw ∧ (cmdMod c
    f s).chn = s.chn ∧ (cmdMod c f s).sec = s.sec ∧ (cmdMod c f s).pins = s.pins ∧ (cmdMod c f s).poison = s.poison ∧ (cmdMod
    c f s).rowsMarked = s.rowsMarked ∧ (cmdMod c f s).rowCorrected = s.rowCorrected ∧ (cmdMod c f s).unitCorrected =
    s.unitCorrected ∧ (cmdMod c f s).tierLow = s.tierLow ∧ (cmdMod c f s).parityCells = s.parityCells ∧ (cmdMod c f s).accs =
    s.accs ∧ (cmdMod c f s).accSet = s.accSet ∧ (cmdMod c f s).bells = s.bells ∧ (cmdMod c f s).contexts = s.contexts ∧
    (cmdMod c f s).nextLead = s.nextLead := by
  unfold cmdMod
  repeat' constructor

@[simp] theorem setBell_bells {c : Nat} {b : BellUnit} {s : State} :
    (setBell c b s).bells = tset s.bells c b := rfl
@[simp] theorem setBell_others {c : Nat} {b : BellUnit} {s : State} :
    (setBell c b s).pending = s.pending ∧ (setBell c b s).now = s.now ∧ (setBell c b s).tod = s.tod ∧ (setBell c b s).outbox
    = s.outbox ∧ (setBell c b s).hostMem = s.hostMem ∧ (setBell c b s).hostPoison = s.hostPoison ∧ (setBell c b s).regs =
    s.regs ∧ (setBell c b s).latches = s.latches ∧ (setBell c b s).service = s.service ∧ (setBell c b s).msixTable =
    s.msixTable ∧ (setBell c b s).msixPending = s.msixPending ∧ (setBell c b s).windows = s.windows ∧ (setBell c b s).queues
    = s.queues ∧ (setBell c b s).cmds = s.cmds ∧ (setBell c b s).nextCmd = s.nextCmd ∧ (setBell c b s).reports = s.reports ∧
    (setBell c b s).rings = s.rings ∧ (setBell c b s).evRings = s.evRings ∧ (setBell c b s).classes = s.classes ∧ (setBell c
    b s).lastUrg = s.lastUrg ∧ (setBell c b s).ledgers = s.ledgers ∧ (setBell c b s).domains = s.domains ∧ (setBell c b
    s).crook = s.crook ∧ (setBell c b s).colls = s.colls ∧ (setBell c b s).progs = s.progs ∧ (setBell c b s).tables =
    s.tables ∧ (setBell c b s).srings = s.srings ∧ (setBell c b s).engines = s.engines ∧ (setBell c b s).bag = s.bag ∧
    (setBell c b s).cst = s.cst ∧ (setBell c b s).blw = s.blw ∧ (setBell c b s).chn = s.chn ∧ (setBell c b s).sec = s.sec ∧
    (setBell c b s).pins = s.pins ∧ (setBell c b s).poison = s.poison ∧ (setBell c b s).rowsMarked = s.rowsMarked ∧ (setBell
    c b s).rowCorrected = s.rowCorrected ∧ (setBell c b s).unitCorrected = s.unitCorrected ∧ (setBell c b s).tierLow =
    s.tierLow ∧ (setBell c b s).parityCells = s.parityCells ∧ (setBell c b s).accs = s.accs ∧ (setBell c b s).accSet =
    s.accSet ∧ (setBell c b s).contexts = s.contexts ∧ (setBell c b s).nextLead = s.nextLead := by
  unfold setBell
  repeat' constructor

@[simp] theorem collMod_colls {h : Nat} {f : Coll → Coll} {s : State} :
    (collMod h f s).colls = tmod s.colls h f := rfl
@[simp] theorem collMod_others {h : Nat} {f : Coll → Coll} {s : State} :
    (collMod h f s).pending = s.pending ∧ (collMod h f s).now = s.now ∧ (collMod h f s).tod = s.tod ∧ (collMod h f s).outbox
    = s.outbox ∧ (collMod h f s).hostMem = s.hostMem ∧ (collMod h f s).hostPoison = s.hostPoison ∧ (collMod h f s).regs =
    s.regs ∧ (collMod h f s).latches = s.latches ∧ (collMod h f s).service = s.service ∧ (collMod h f s).msixTable =
    s.msixTable ∧ (collMod h f s).msixPending = s.msixPending ∧ (collMod h f s).windows = s.windows ∧ (collMod h f s).queues
    = s.queues ∧ (collMod h f s).cmds = s.cmds ∧ (collMod h f s).nextCmd = s.nextCmd ∧ (collMod h f s).reports = s.reports ∧
    (collMod h f s).rings = s.rings ∧ (collMod h f s).evRings = s.evRings ∧ (collMod h f s).classes = s.classes ∧ (collMod h
    f s).lastUrg = s.lastUrg ∧ (collMod h f s).ledgers = s.ledgers ∧ (collMod h f s).domains = s.domains ∧ (collMod h f
    s).crook = s.crook ∧ (collMod h f s).progs = s.progs ∧ (collMod h f s).tables = s.tables ∧ (collMod h f s).srings =
    s.srings ∧ (collMod h f s).engines = s.engines ∧ (collMod h f s).bag = s.bag ∧ (collMod h f s).cst = s.cst ∧ (collMod h f
    s).blw = s.blw ∧ (collMod h f s).chn = s.chn ∧ (collMod h f s).sec = s.sec ∧ (collMod h f s).pins = s.pins ∧ (collMod h f
    s).poison = s.poison ∧ (collMod h f s).rowsMarked = s.rowsMarked ∧ (collMod h f s).rowCorrected = s.rowCorrected ∧
    (collMod h f s).unitCorrected = s.unitCorrected ∧ (collMod h f s).tierLow = s.tierLow ∧ (collMod h f s).parityCells =
    s.parityCells ∧ (collMod h f s).accs = s.accs ∧ (collMod h f s).accSet = s.accSet ∧ (collMod h f s).bells = s.bells ∧
    (collMod h f s).contexts = s.contexts ∧ (collMod h f s).nextLead = s.nextLead := by
  unfold collMod
  repeat' constructor

@[simp] theorem domMod_domains {d : Nat} {f : Domain → Domain} {s : State} :
    (domMod d f s).domains = tmod s.domains d f := rfl
@[simp] theorem domMod_others {d : Nat} {f : Domain → Domain} {s : State} :
    (domMod d f s).pending = s.pending ∧ (domMod d f s).now = s.now ∧ (domMod d f s).tod = s.tod ∧ (domMod d f s).outbox =
    s.outbox ∧ (domMod d f s).hostMem = s.hostMem ∧ (domMod d f s).hostPoison = s.hostPoison ∧ (domMod d f s).regs = s.regs ∧
    (domMod d f s).latches = s.latches ∧ (domMod d f s).service = s.service ∧ (domMod d f s).msixTable = s.msixTable ∧
    (domMod d f s).msixPending = s.msixPending ∧ (domMod d f s).windows = s.windows ∧ (domMod d f s).queues = s.queues ∧
    (domMod d f s).cmds = s.cmds ∧ (domMod d f s).nextCmd = s.nextCmd ∧ (domMod d f s).reports = s.reports ∧ (domMod d f
    s).rings = s.rings ∧ (domMod d f s).evRings = s.evRings ∧ (domMod d f s).classes = s.classes ∧ (domMod d f s).lastUrg =
    s.lastUrg ∧ (domMod d f s).ledgers = s.ledgers ∧ (domMod d f s).crook = s.crook ∧ (domMod d f s).colls = s.colls ∧
    (domMod d f s).progs = s.progs ∧ (domMod d f s).tables = s.tables ∧ (domMod d f s).srings = s.srings ∧ (domMod d f
    s).engines = s.engines ∧ (domMod d f s).bag = s.bag ∧ (domMod d f s).cst = s.cst ∧ (domMod d f s).blw = s.blw ∧ (domMod d
    f s).chn = s.chn ∧ (domMod d f s).sec = s.sec ∧ (domMod d f s).pins = s.pins ∧ (domMod d f s).poison = s.poison ∧ (domMod
    d f s).rowsMarked = s.rowsMarked ∧ (domMod d f s).rowCorrected = s.rowCorrected ∧ (domMod d f s).unitCorrected =
    s.unitCorrected ∧ (domMod d f s).tierLow = s.tierLow ∧ (domMod d f s).parityCells = s.parityCells ∧ (domMod d f s).accs =
    s.accs ∧ (domMod d f s).accSet = s.accSet ∧ (domMod d f s).bells = s.bells ∧ (domMod d f s).contexts = s.contexts ∧
    (domMod d f s).nextLead = s.nextLead := by
  unfold domMod
  repeat' constructor

@[simp] theorem peerMod_cst {p : Nat} {f : Peer → Peer} {s : State} :
    (peerMod p f s).cst = { s.cst with peers := tmod s.cst.peers p f } := rfl
@[simp] theorem peerMod_others {p : Nat} {f : Peer → Peer} {s : State} :
    (peerMod p f s).pending = s.pending ∧ (peerMod p f s).now = s.now ∧ (peerMod p f s).tod = s.tod ∧ (peerMod p f s).outbox
    = s.outbox ∧ (peerMod p f s).hostMem = s.hostMem ∧ (peerMod p f s).hostPoison = s.hostPoison ∧ (peerMod p f s).regs =
    s.regs ∧ (peerMod p f s).latches = s.latches ∧ (peerMod p f s).service = s.service ∧ (peerMod p f s).msixTable =
    s.msixTable ∧ (peerMod p f s).msixPending = s.msixPending ∧ (peerMod p f s).windows = s.windows ∧ (peerMod p f s).queues
    = s.queues ∧ (peerMod p f s).cmds = s.cmds ∧ (peerMod p f s).nextCmd = s.nextCmd ∧ (peerMod p f s).reports = s.reports ∧
    (peerMod p f s).rings = s.rings ∧ (peerMod p f s).evRings = s.evRings ∧ (peerMod p f s).classes = s.classes ∧ (peerMod p
    f s).lastUrg = s.lastUrg ∧ (peerMod p f s).ledgers = s.ledgers ∧ (peerMod p f s).domains = s.domains ∧ (peerMod p f
    s).crook = s.crook ∧ (peerMod p f s).colls = s.colls ∧ (peerMod p f s).progs = s.progs ∧ (peerMod p f s).tables =
    s.tables ∧ (peerMod p f s).srings = s.srings ∧ (peerMod p f s).engines = s.engines ∧ (peerMod p f s).bag = s.bag ∧
    (peerMod p f s).blw = s.blw ∧ (peerMod p f s).chn = s.chn ∧ (peerMod p f s).sec = s.sec ∧ (peerMod p f s).pins = s.pins ∧
    (peerMod p f s).poison = s.poison ∧ (peerMod p f s).rowsMarked = s.rowsMarked ∧ (peerMod p f s).rowCorrected =
    s.rowCorrected ∧ (peerMod p f s).unitCorrected = s.unitCorrected ∧ (peerMod p f s).tierLow = s.tierLow ∧ (peerMod p f
    s).parityCells = s.parityCells ∧ (peerMod p f s).accs = s.accs ∧ (peerMod p f s).accSet = s.accSet ∧ (peerMod p f
    s).bells = s.bells ∧ (peerMod p f s).contexts = s.contexts ∧ (peerMod p f s).nextLead = s.nextLead := by
  unfold peerMod
  repeat' constructor

@[simp] theorem idle_now {s : State} :
    (idle s).now = s.now + 1 := rfl
@[simp] theorem idle_others {s : State} :
    (idle s).pending = s.pending ∧ (idle s).tod = s.tod ∧ (idle s).outbox = s.outbox ∧ (idle s).hostMem = s.hostMem ∧ (idle
    s).hostPoison = s.hostPoison ∧ (idle s).regs = s.regs ∧ (idle s).latches = s.latches ∧ (idle s).service = s.service ∧
    (idle s).msixTable = s.msixTable ∧ (idle s).msixPending = s.msixPending ∧ (idle s).windows = s.windows ∧ (idle s).queues
    = s.queues ∧ (idle s).cmds = s.cmds ∧ (idle s).nextCmd = s.nextCmd ∧ (idle s).reports = s.reports ∧ (idle s).rings =
    s.rings ∧ (idle s).evRings = s.evRings ∧ (idle s).classes = s.classes ∧ (idle s).lastUrg = s.lastUrg ∧ (idle s).ledgers =
    s.ledgers ∧ (idle s).domains = s.domains ∧ (idle s).crook = s.crook ∧ (idle s).colls = s.colls ∧ (idle s).progs = s.progs
    ∧ (idle s).tables = s.tables ∧ (idle s).srings = s.srings ∧ (idle s).engines = s.engines ∧ (idle s).bag = s.bag ∧ (idle
    s).cst = s.cst ∧ (idle s).blw = s.blw ∧ (idle s).chn = s.chn ∧ (idle s).sec = s.sec ∧ (idle s).pins = s.pins ∧ (idle
    s).poison = s.poison ∧ (idle s).rowsMarked = s.rowsMarked ∧ (idle s).rowCorrected = s.rowCorrected ∧ (idle
    s).unitCorrected = s.unitCorrected ∧ (idle s).tierLow = s.tierLow ∧ (idle s).parityCells = s.parityCells ∧ (idle s).accs
    = s.accs ∧ (idle s).accSet = s.accSet ∧ (idle s).bells = s.bells ∧ (idle s).contexts = s.contexts ∧ (idle s).nextLead =
    s.nextLead := by
  unfold idle
  repeat' constructor

@[simp] theorem cacheTouch_crook {e : CacheEntry} {s : State} :
    (cacheTouch e s).crook = { s.crook with cache := e :: s.crook.cache.filter (fun x => !(x.dom = e.dom ∧ x.va = e.va ∧ x.size = e.size)) } := rfl
@[simp] theorem cacheTouch_others {e : CacheEntry} {s : State} :
    (cacheTouch e s).pending = s.pending ∧ (cacheTouch e s).now = s.now ∧ (cacheTouch e s).tod = s.tod ∧ (cacheTouch e
    s).outbox = s.outbox ∧ (cacheTouch e s).hostMem = s.hostMem ∧ (cacheTouch e s).hostPoison = s.hostPoison ∧ (cacheTouch e
    s).regs = s.regs ∧ (cacheTouch e s).latches = s.latches ∧ (cacheTouch e s).service = s.service ∧ (cacheTouch e
    s).msixTable = s.msixTable ∧ (cacheTouch e s).msixPending = s.msixPending ∧ (cacheTouch e s).windows = s.windows ∧
    (cacheTouch e s).queues = s.queues ∧ (cacheTouch e s).cmds = s.cmds ∧ (cacheTouch e s).nextCmd = s.nextCmd ∧ (cacheTouch
    e s).reports = s.reports ∧ (cacheTouch e s).rings = s.rings ∧ (cacheTouch e s).evRings = s.evRings ∧ (cacheTouch e
    s).classes = s.classes ∧ (cacheTouch e s).lastUrg = s.lastUrg ∧ (cacheTouch e s).ledgers = s.ledgers ∧ (cacheTouch e
    s).domains = s.domains ∧ (cacheTouch e s).colls = s.colls ∧ (cacheTouch e s).progs = s.progs ∧ (cacheTouch e s).tables =
    s.tables ∧ (cacheTouch e s).srings = s.srings ∧ (cacheTouch e s).engines = s.engines ∧ (cacheTouch e s).bag = s.bag ∧
    (cacheTouch e s).cst = s.cst ∧ (cacheTouch e s).blw = s.blw ∧ (cacheTouch e s).chn = s.chn ∧ (cacheTouch e s).sec = s.sec
    ∧ (cacheTouch e s).pins = s.pins ∧ (cacheTouch e s).poison = s.poison ∧ (cacheTouch e s).rowsMarked = s.rowsMarked ∧
    (cacheTouch e s).rowCorrected = s.rowCorrected ∧ (cacheTouch e s).unitCorrected = s.unitCorrected ∧ (cacheTouch e
    s).tierLow = s.tierLow ∧ (cacheTouch e s).parityCells = s.parityCells ∧ (cacheTouch e s).accs = s.accs ∧ (cacheTouch e
    s).accSet = s.accSet ∧ (cacheTouch e s).bells = s.bells ∧ (cacheTouch e s).contexts = s.contexts ∧ (cacheTouch e
    s).nextLead = s.nextLead := by
  unfold cacheTouch
  repeat' constructor

@[simp] theorem crookMod_crook {f : Crook → Crook} {s : State} :
    (crookMod f s).crook = f s.crook := rfl
@[simp] theorem crookMod_others {f : Crook → Crook} {s : State} :
    (crookMod f s).pending = s.pending ∧ (crookMod f s).now = s.now ∧ (crookMod f s).tod = s.tod ∧ (crookMod f s).outbox =
    s.outbox ∧ (crookMod f s).hostMem = s.hostMem ∧ (crookMod f s).hostPoison = s.hostPoison ∧ (crookMod f s).regs = s.regs ∧
    (crookMod f s).latches = s.latches ∧ (crookMod f s).service = s.service ∧ (crookMod f s).msixTable = s.msixTable ∧
    (crookMod f s).msixPending = s.msixPending ∧ (crookMod f s).windows = s.windows ∧ (crookMod f s).queues = s.queues ∧
    (crookMod f s).cmds = s.cmds ∧ (crookMod f s).nextCmd = s.nextCmd ∧ (crookMod f s).reports = s.reports ∧ (crookMod f
    s).rings = s.rings ∧ (crookMod f s).evRings = s.evRings ∧ (crookMod f s).classes = s.classes ∧ (crookMod f s).lastUrg =
    s.lastUrg ∧ (crookMod f s).ledgers = s.ledgers ∧ (crookMod f s).domains = s.domains ∧ (crookMod f s).colls = s.colls ∧
    (crookMod f s).progs = s.progs ∧ (crookMod f s).tables = s.tables ∧ (crookMod f s).srings = s.srings ∧ (crookMod f
    s).engines = s.engines ∧ (crookMod f s).bag = s.bag ∧ (crookMod f s).cst = s.cst ∧ (crookMod f s).blw = s.blw ∧ (crookMod
    f s).chn = s.chn ∧ (crookMod f s).sec = s.sec ∧ (crookMod f s).pins = s.pins ∧ (crookMod f s).poison = s.poison ∧
    (crookMod f s).rowsMarked = s.rowsMarked ∧ (crookMod f s).rowCorrected = s.rowCorrected ∧ (crookMod f s).unitCorrected =
    s.unitCorrected ∧ (crookMod f s).tierLow = s.tierLow ∧ (crookMod f s).parityCells = s.parityCells ∧ (crookMod f s).accs =
    s.accs ∧ (crookMod f s).accSet = s.accSet ∧ (crookMod f s).bells = s.bells ∧ (crookMod f s).contexts = s.contexts ∧
    (crookMod f s).nextLead = s.nextLead := by
  unfold crookMod
  repeat' constructor

@[simp] theorem zeroPieces_hostMem {ps : List (Nat × Nat)} {s : State} :
    (zeroPieces ps s).hostMem = s.hostMem.filter (fun c => !ps.any (fun p => p.1 ≤ c.1 && c.1 < p.1 + p.2)) := rfl
@[simp] theorem zeroPieces_others {ps : List (Nat × Nat)} {s : State} :
    (zeroPieces ps s).pending = s.pending ∧ (zeroPieces ps s).now = s.now ∧ (zeroPieces ps s).tod = s.tod ∧ (zeroPieces ps
    s).outbox = s.outbox ∧ (zeroPieces ps s).hostPoison = s.hostPoison ∧ (zeroPieces ps s).regs = s.regs ∧ (zeroPieces ps
    s).latches = s.latches ∧ (zeroPieces ps s).service = s.service ∧ (zeroPieces ps s).msixTable = s.msixTable ∧ (zeroPieces
    ps s).msixPending = s.msixPending ∧ (zeroPieces ps s).windows = s.windows ∧ (zeroPieces ps s).queues = s.queues ∧
    (zeroPieces ps s).cmds = s.cmds ∧ (zeroPieces ps s).nextCmd = s.nextCmd ∧ (zeroPieces ps s).reports = s.reports ∧
    (zeroPieces ps s).rings = s.rings ∧ (zeroPieces ps s).evRings = s.evRings ∧ (zeroPieces ps s).classes = s.classes ∧
    (zeroPieces ps s).lastUrg = s.lastUrg ∧ (zeroPieces ps s).ledgers = s.ledgers ∧ (zeroPieces ps s).domains = s.domains ∧
    (zeroPieces ps s).crook = s.crook ∧ (zeroPieces ps s).colls = s.colls ∧ (zeroPieces ps s).progs = s.progs ∧ (zeroPieces
    ps s).tables = s.tables ∧ (zeroPieces ps s).srings = s.srings ∧ (zeroPieces ps s).engines = s.engines ∧ (zeroPieces ps
    s).bag = s.bag ∧ (zeroPieces ps s).cst = s.cst ∧ (zeroPieces ps s).blw = s.blw ∧ (zeroPieces ps s).chn = s.chn ∧
    (zeroPieces ps s).sec = s.sec ∧ (zeroPieces ps s).pins = s.pins ∧ (zeroPieces ps s).poison = s.poison ∧ (zeroPieces ps
    s).rowsMarked = s.rowsMarked ∧ (zeroPieces ps s).rowCorrected = s.rowCorrected ∧ (zeroPieces ps s).unitCorrected =
    s.unitCorrected ∧ (zeroPieces ps s).tierLow = s.tierLow ∧ (zeroPieces ps s).parityCells = s.parityCells ∧ (zeroPieces ps
    s).accs = s.accs ∧ (zeroPieces ps s).accSet = s.accSet ∧ (zeroPieces ps s).bells = s.bells ∧ (zeroPieces ps s).contexts =
    s.contexts ∧ (zeroPieces ps s).nextLead = s.nextLead := by
  unfold zeroPieces
  repeat' constructor

@[simp] theorem clearWindow_windows {q : Nat} {s : State} :
    (clearWindow q s).windows = s.windows.filter (fun c => !(q * 256 ≤ c.1 && c.1 < q * 256 + 0x78)) := rfl
@[simp] theorem clearWindow_others {q : Nat} {s : State} :
    (clearWindow q s).pending = s.pending ∧ (clearWindow q s).now = s.now ∧ (clearWindow q s).tod = s.tod ∧ (clearWindow q
    s).outbox = s.outbox ∧ (clearWindow q s).hostMem = s.hostMem ∧ (clearWindow q s).hostPoison = s.hostPoison ∧ (clearWindow
    q s).regs = s.regs ∧ (clearWindow q s).latches = s.latches ∧ (clearWindow q s).service = s.service ∧ (clearWindow q
    s).msixTable = s.msixTable ∧ (clearWindow q s).msixPending = s.msixPending ∧ (clearWindow q s).queues = s.queues ∧
    (clearWindow q s).cmds = s.cmds ∧ (clearWindow q s).nextCmd = s.nextCmd ∧ (clearWindow q s).reports = s.reports ∧
    (clearWindow q s).rings = s.rings ∧ (clearWindow q s).evRings = s.evRings ∧ (clearWindow q s).classes = s.classes ∧
    (clearWindow q s).lastUrg = s.lastUrg ∧ (clearWindow q s).ledgers = s.ledgers ∧ (clearWindow q s).domains = s.domains ∧
    (clearWindow q s).crook = s.crook ∧ (clearWindow q s).colls = s.colls ∧ (clearWindow q s).progs = s.progs ∧ (clearWindow
    q s).tables = s.tables ∧ (clearWindow q s).srings = s.srings ∧ (clearWindow q s).engines = s.engines ∧ (clearWindow q
    s).bag = s.bag ∧ (clearWindow q s).cst = s.cst ∧ (clearWindow q s).blw = s.blw ∧ (clearWindow q s).chn = s.chn ∧
    (clearWindow q s).sec = s.sec ∧ (clearWindow q s).pins = s.pins ∧ (clearWindow q s).poison = s.poison ∧ (clearWindow q
    s).rowsMarked = s.rowsMarked ∧ (clearWindow q s).rowCorrected = s.rowCorrected ∧ (clearWindow q s).unitCorrected =
    s.unitCorrected ∧ (clearWindow q s).tierLow = s.tierLow ∧ (clearWindow q s).parityCells = s.parityCells ∧ (clearWindow q
    s).accs = s.accs ∧ (clearWindow q s).accSet = s.accSet ∧ (clearWindow q s).bells = s.bells ∧ (clearWindow q s).contexts =
    s.contexts ∧ (clearWindow q s).nextLead = s.nextLead := by
  unfold clearWindow
  repeat' constructor

@[simp] theorem ucalRun_blw {f : UCal → UCal} {s : State} :
    (ucalRun f s).blw = { s.blw with run := f s.blw.run } := rfl
@[simp] theorem ucalRun_others {f : UCal → UCal} {s : State} :
    (ucalRun f s).pending = s.pending ∧ (ucalRun f s).now = s.now ∧ (ucalRun f s).tod = s.tod ∧ (ucalRun f s).outbox =
    s.outbox ∧ (ucalRun f s).hostMem = s.hostMem ∧ (ucalRun f s).hostPoison = s.hostPoison ∧ (ucalRun f s).regs = s.regs ∧
    (ucalRun f s).latches = s.latches ∧ (ucalRun f s).service = s.service ∧ (ucalRun f s).msixTable = s.msixTable ∧ (ucalRun
    f s).msixPending = s.msixPending ∧ (ucalRun f s).windows = s.windows ∧ (ucalRun f s).queues = s.queues ∧ (ucalRun f
    s).cmds = s.cmds ∧ (ucalRun f s).nextCmd = s.nextCmd ∧ (ucalRun f s).reports = s.reports ∧ (ucalRun f s).rings = s.rings
    ∧ (ucalRun f s).evRings = s.evRings ∧ (ucalRun f s).classes = s.classes ∧ (ucalRun f s).lastUrg = s.lastUrg ∧ (ucalRun f
    s).ledgers = s.ledgers ∧ (ucalRun f s).domains = s.domains ∧ (ucalRun f s).crook = s.crook ∧ (ucalRun f s).colls =
    s.colls ∧ (ucalRun f s).progs = s.progs ∧ (ucalRun f s).tables = s.tables ∧ (ucalRun f s).srings = s.srings ∧ (ucalRun f
    s).engines = s.engines ∧ (ucalRun f s).bag = s.bag ∧ (ucalRun f s).cst = s.cst ∧ (ucalRun f s).chn = s.chn ∧ (ucalRun f
    s).sec = s.sec ∧ (ucalRun f s).pins = s.pins ∧ (ucalRun f s).poison = s.poison ∧ (ucalRun f s).rowsMarked = s.rowsMarked
    ∧ (ucalRun f s).rowCorrected = s.rowCorrected ∧ (ucalRun f s).unitCorrected = s.unitCorrected ∧ (ucalRun f s).tierLow =
    s.tierLow ∧ (ucalRun f s).parityCells = s.parityCells ∧ (ucalRun f s).accs = s.accs ∧ (ucalRun f s).accSet = s.accSet ∧
    (ucalRun f s).bells = s.bells ∧ (ucalRun f s).contexts = s.contexts ∧ (ucalRun f s).nextLead = s.nextLead := by
  unfold ucalRun
  repeat' constructor

@[simp] theorem raiseHorizons_cmds {s : State} :
    (raiseHorizons s).cmds = s.cmds.map (fun x =>
      if x.phase = .waiting ∧ x.raiseHz ∧ takesView x ∧ !orderedHolds s x then
        { x with raiseHz := false, horizon := max x.horizon (((tget s.colls (cColl x)).map Coll.journaled).getD 0) }
      else x) := rfl
@[simp] theorem raiseHorizons_others {s : State} :
    (raiseHorizons s).pending = s.pending ∧ (raiseHorizons s).now = s.now ∧ (raiseHorizons s).tod = s.tod ∧ (raiseHorizons
    s).outbox = s.outbox ∧ (raiseHorizons s).hostMem = s.hostMem ∧ (raiseHorizons s).hostPoison = s.hostPoison ∧
    (raiseHorizons s).regs = s.regs ∧ (raiseHorizons s).latches = s.latches ∧ (raiseHorizons s).service = s.service ∧
    (raiseHorizons s).msixTable = s.msixTable ∧ (raiseHorizons s).msixPending = s.msixPending ∧ (raiseHorizons s).windows =
    s.windows ∧ (raiseHorizons s).queues = s.queues ∧ (raiseHorizons s).nextCmd = s.nextCmd ∧ (raiseHorizons s).reports =
    s.reports ∧ (raiseHorizons s).rings = s.rings ∧ (raiseHorizons s).evRings = s.evRings ∧ (raiseHorizons s).classes =
    s.classes ∧ (raiseHorizons s).lastUrg = s.lastUrg ∧ (raiseHorizons s).ledgers = s.ledgers ∧ (raiseHorizons s).domains =
    s.domains ∧ (raiseHorizons s).crook = s.crook ∧ (raiseHorizons s).colls = s.colls ∧ (raiseHorizons s).progs = s.progs ∧
    (raiseHorizons s).tables = s.tables ∧ (raiseHorizons s).srings = s.srings ∧ (raiseHorizons s).engines = s.engines ∧
    (raiseHorizons s).bag = s.bag ∧ (raiseHorizons s).cst = s.cst ∧ (raiseHorizons s).blw = s.blw ∧ (raiseHorizons s).chn =
    s.chn ∧ (raiseHorizons s).sec = s.sec ∧ (raiseHorizons s).pins = s.pins ∧ (raiseHorizons s).poison = s.poison ∧
    (raiseHorizons s).rowsMarked = s.rowsMarked ∧ (raiseHorizons s).rowCorrected = s.rowCorrected ∧ (raiseHorizons
    s).unitCorrected = s.unitCorrected ∧ (raiseHorizons s).tierLow = s.tierLow ∧ (raiseHorizons s).parityCells =
    s.parityCells ∧ (raiseHorizons s).accs = s.accs ∧ (raiseHorizons s).accSet = s.accSet ∧ (raiseHorizons s).bells = s.bells
    ∧ (raiseHorizons s).contexts = s.contexts ∧ (raiseHorizons s).nextLead = s.nextLead := by
  unfold raiseHorizons
  repeat' constructor

@[simp] theorem takeCharges_ledgers {cs : List (Nat × Rat)} {s : State} :
    (takeCharges cs s).ledgers = s.ledgers.map (fun l => (l.1, l.2 - chargeOn cs l.1)) := rfl
@[simp] theorem takeCharges_others {cs : List (Nat × Rat)} {s : State} :
    (takeCharges cs s).pending = s.pending ∧ (takeCharges cs s).now = s.now ∧ (takeCharges cs s).tod = s.tod ∧ (takeCharges
    cs s).outbox = s.outbox ∧ (takeCharges cs s).hostMem = s.hostMem ∧ (takeCharges cs s).hostPoison = s.hostPoison ∧
    (takeCharges cs s).regs = s.regs ∧ (takeCharges cs s).latches = s.latches ∧ (takeCharges cs s).service = s.service ∧
    (takeCharges cs s).msixTable = s.msixTable ∧ (takeCharges cs s).msixPending = s.msixPending ∧ (takeCharges cs s).windows
    = s.windows ∧ (takeCharges cs s).queues = s.queues ∧ (takeCharges cs s).cmds = s.cmds ∧ (takeCharges cs s).nextCmd =
    s.nextCmd ∧ (takeCharges cs s).reports = s.reports ∧ (takeCharges cs s).rings = s.rings ∧ (takeCharges cs s).evRings =
    s.evRings ∧ (takeCharges cs s).classes = s.classes ∧ (takeCharges cs s).lastUrg = s.lastUrg ∧ (takeCharges cs s).domains
    = s.domains ∧ (takeCharges cs s).crook = s.crook ∧ (takeCharges cs s).colls = s.colls ∧ (takeCharges cs s).progs =
    s.progs ∧ (takeCharges cs s).tables = s.tables ∧ (takeCharges cs s).srings = s.srings ∧ (takeCharges cs s).engines =
    s.engines ∧ (takeCharges cs s).bag = s.bag ∧ (takeCharges cs s).cst = s.cst ∧ (takeCharges cs s).blw = s.blw ∧
    (takeCharges cs s).chn = s.chn ∧ (takeCharges cs s).sec = s.sec ∧ (takeCharges cs s).pins = s.pins ∧ (takeCharges cs
    s).poison = s.poison ∧ (takeCharges cs s).rowsMarked = s.rowsMarked ∧ (takeCharges cs s).rowCorrected = s.rowCorrected ∧
    (takeCharges cs s).unitCorrected = s.unitCorrected ∧ (takeCharges cs s).tierLow = s.tierLow ∧ (takeCharges cs
    s).parityCells = s.parityCells ∧ (takeCharges cs s).accs = s.accs ∧ (takeCharges cs s).accSet = s.accSet ∧ (takeCharges
    cs s).bells = s.bells ∧ (takeCharges cs s).contexts = s.contexts ∧ (takeCharges cs s).nextLead = s.nextLead := by
  unfold takeCharges
  repeat' constructor

@[simp] theorem setEngine_engines {e : Nat} {g : Engine} {s : State} :
    (setEngine e g s).engines = tset s.engines e g := rfl
@[simp] theorem setEngine_others {e : Nat} {g : Engine} {s : State} :
    (setEngine e g s).pending = s.pending ∧ (setEngine e g s).now = s.now ∧ (setEngine e g s).tod = s.tod ∧ (setEngine e g
    s).outbox = s.outbox ∧ (setEngine e g s).hostMem = s.hostMem ∧ (setEngine e g s).hostPoison = s.hostPoison ∧ (setEngine e
    g s).regs = s.regs ∧ (setEngine e g s).latches = s.latches ∧ (setEngine e g s).service = s.service ∧ (setEngine e g
    s).msixTable = s.msixTable ∧ (setEngine e g s).msixPending = s.msixPending ∧ (setEngine e g s).windows = s.windows ∧
    (setEngine e g s).queues = s.queues ∧ (setEngine e g s).cmds = s.cmds ∧ (setEngine e g s).nextCmd = s.nextCmd ∧
    (setEngine e g s).reports = s.reports ∧ (setEngine e g s).rings = s.rings ∧ (setEngine e g s).evRings = s.evRings ∧
    (setEngine e g s).classes = s.classes ∧ (setEngine e g s).lastUrg = s.lastUrg ∧ (setEngine e g s).ledgers = s.ledgers ∧
    (setEngine e g s).domains = s.domains ∧ (setEngine e g s).crook = s.crook ∧ (setEngine e g s).colls = s.colls ∧
    (setEngine e g s).progs = s.progs ∧ (setEngine e g s).tables = s.tables ∧ (setEngine e g s).srings = s.srings ∧
    (setEngine e g s).bag = s.bag ∧ (setEngine e g s).cst = s.cst ∧ (setEngine e g s).blw = s.blw ∧ (setEngine e g s).chn =
    s.chn ∧ (setEngine e g s).sec = s.sec ∧ (setEngine e g s).pins = s.pins ∧ (setEngine e g s).poison = s.poison ∧
    (setEngine e g s).rowsMarked = s.rowsMarked ∧ (setEngine e g s).rowCorrected = s.rowCorrected ∧ (setEngine e g
    s).unitCorrected = s.unitCorrected ∧ (setEngine e g s).tierLow = s.tierLow ∧ (setEngine e g s).parityCells =
    s.parityCells ∧ (setEngine e g s).accs = s.accs ∧ (setEngine e g s).accSet = s.accSet ∧ (setEngine e g s).bells = s.bells
    ∧ (setEngine e g s).contexts = s.contexts ∧ (setEngine e g s).nextLead = s.nextLead := by
  unfold setEngine
  repeat' constructor

@[simp] theorem freeStep_srings {h : Nat} {s : State} :
    (freeStep h s).srings = s.srings.filter (fun r => r.step ≠ some h) := rfl
@[simp] theorem freeStep_others {h : Nat} {s : State} :
    (freeStep h s).pending = s.pending ∧ (freeStep h s).now = s.now ∧ (freeStep h s).tod = s.tod ∧ (freeStep h s).outbox =
    s.outbox ∧ (freeStep h s).hostMem = s.hostMem ∧ (freeStep h s).hostPoison = s.hostPoison ∧ (freeStep h s).regs = s.regs ∧
    (freeStep h s).latches = s.latches ∧ (freeStep h s).service = s.service ∧ (freeStep h s).msixTable = s.msixTable ∧
    (freeStep h s).msixPending = s.msixPending ∧ (freeStep h s).windows = s.windows ∧ (freeStep h s).queues = s.queues ∧
    (freeStep h s).cmds = s.cmds ∧ (freeStep h s).nextCmd = s.nextCmd ∧ (freeStep h s).reports = s.reports ∧ (freeStep h
    s).rings = s.rings ∧ (freeStep h s).evRings = s.evRings ∧ (freeStep h s).classes = s.classes ∧ (freeStep h s).lastUrg =
    s.lastUrg ∧ (freeStep h s).ledgers = s.ledgers ∧ (freeStep h s).domains = s.domains ∧ (freeStep h s).crook = s.crook ∧
    (freeStep h s).colls = s.colls ∧ (freeStep h s).progs = s.progs ∧ (freeStep h s).tables = s.tables ∧ (freeStep h
    s).engines = s.engines ∧ (freeStep h s).bag = s.bag ∧ (freeStep h s).cst = s.cst ∧ (freeStep h s).blw = s.blw ∧ (freeStep
    h s).chn = s.chn ∧ (freeStep h s).sec = s.sec ∧ (freeStep h s).pins = s.pins ∧ (freeStep h s).poison = s.poison ∧
    (freeStep h s).rowsMarked = s.rowsMarked ∧ (freeStep h s).rowCorrected = s.rowCorrected ∧ (freeStep h s).unitCorrected =
    s.unitCorrected ∧ (freeStep h s).tierLow = s.tierLow ∧ (freeStep h s).parityCells = s.parityCells ∧ (freeStep h s).accs =
    s.accs ∧ (freeStep h s).accSet = s.accSet ∧ (freeStep h s).bells = s.bells ∧ (freeStep h s).contexts = s.contexts ∧
    (freeStep h s).nextLead = s.nextLead := by
  unfold freeStep
  repeat' constructor

@[simp] theorem freeBagRing_srings {ch : Nat} {s : State} :
    (freeBagRing ch s).srings = s.srings.filter (fun r => !(r.engine = stepEngine ch && r.cmd.isNone && r.step.isNone)) := rfl
@[simp] theorem freeBagRing_others {ch : Nat} {s : State} :
    (freeBagRing ch s).pending = s.pending ∧ (freeBagRing ch s).now = s.now ∧ (freeBagRing ch s).tod = s.tod ∧ (freeBagRing
    ch s).outbox = s.outbox ∧ (freeBagRing ch s).hostMem = s.hostMem ∧ (freeBagRing ch s).hostPoison = s.hostPoison ∧
    (freeBagRing ch s).regs = s.regs ∧ (freeBagRing ch s).latches = s.latches ∧ (freeBagRing ch s).service = s.service ∧
    (freeBagRing ch s).msixTable = s.msixTable ∧ (freeBagRing ch s).msixPending = s.msixPending ∧ (freeBagRing ch s).windows
    = s.windows ∧ (freeBagRing ch s).queues = s.queues ∧ (freeBagRing ch s).cmds = s.cmds ∧ (freeBagRing ch s).nextCmd =
    s.nextCmd ∧ (freeBagRing ch s).reports = s.reports ∧ (freeBagRing ch s).rings = s.rings ∧ (freeBagRing ch s).evRings =
    s.evRings ∧ (freeBagRing ch s).classes = s.classes ∧ (freeBagRing ch s).lastUrg = s.lastUrg ∧ (freeBagRing ch s).ledgers
    = s.ledgers ∧ (freeBagRing ch s).domains = s.domains ∧ (freeBagRing ch s).crook = s.crook ∧ (freeBagRing ch s).colls =
    s.colls ∧ (freeBagRing ch s).progs = s.progs ∧ (freeBagRing ch s).tables = s.tables ∧ (freeBagRing ch s).engines =
    s.engines ∧ (freeBagRing ch s).bag = s.bag ∧ (freeBagRing ch s).cst = s.cst ∧ (freeBagRing ch s).blw = s.blw ∧
    (freeBagRing ch s).chn = s.chn ∧ (freeBagRing ch s).sec = s.sec ∧ (freeBagRing ch s).pins = s.pins ∧ (freeBagRing ch
    s).poison = s.poison ∧ (freeBagRing ch s).rowsMarked = s.rowsMarked ∧ (freeBagRing ch s).rowCorrected = s.rowCorrected ∧
    (freeBagRing ch s).unitCorrected = s.unitCorrected ∧ (freeBagRing ch s).tierLow = s.tierLow ∧ (freeBagRing ch
    s).parityCells = s.parityCells ∧ (freeBagRing ch s).accs = s.accs ∧ (freeBagRing ch s).accSet = s.accSet ∧ (freeBagRing
    ch s).bells = s.bells ∧ (freeBagRing ch s).contexts = s.contexts ∧ (freeBagRing ch s).nextLead = s.nextLead := by
  unfold freeBagRing
  repeat' constructor

@[simp] theorem sringMod_srings {e no : Nat} {f : SRing → SRing} {s : State} :
    (sringMod e no f s).srings = s.srings.map (fun r => if r.engine = e ∧ r.no = no then f r else r) := rfl
@[simp] theorem sringMod_others {e no : Nat} {f : SRing → SRing} {s : State} :
    (sringMod e no f s).pending = s.pending ∧ (sringMod e no f s).now = s.now ∧ (sringMod e no f s).tod = s.tod ∧ (sringMod e
    no f s).outbox = s.outbox ∧ (sringMod e no f s).hostMem = s.hostMem ∧ (sringMod e no f s).hostPoison = s.hostPoison ∧
    (sringMod e no f s).regs = s.regs ∧ (sringMod e no f s).latches = s.latches ∧ (sringMod e no f s).service = s.service ∧
    (sringMod e no f s).msixTable = s.msixTable ∧ (sringMod e no f s).msixPending = s.msixPending ∧ (sringMod e no f
    s).windows = s.windows ∧ (sringMod e no f s).queues = s.queues ∧ (sringMod e no f s).cmds = s.cmds ∧ (sringMod e no f
    s).nextCmd = s.nextCmd ∧ (sringMod e no f s).reports = s.reports ∧ (sringMod e no f s).rings = s.rings ∧ (sringMod e no f
    s).evRings = s.evRings ∧ (sringMod e no f s).classes = s.classes ∧ (sringMod e no f s).lastUrg = s.lastUrg ∧ (sringMod e
    no f s).ledgers = s.ledgers ∧ (sringMod e no f s).domains = s.domains ∧ (sringMod e no f s).crook = s.crook ∧ (sringMod e
    no f s).colls = s.colls ∧ (sringMod e no f s).progs = s.progs ∧ (sringMod e no f s).tables = s.tables ∧ (sringMod e no f
    s).engines = s.engines ∧ (sringMod e no f s).bag = s.bag ∧ (sringMod e no f s).cst = s.cst ∧ (sringMod e no f s).blw =
    s.blw ∧ (sringMod e no f s).chn = s.chn ∧ (sringMod e no f s).sec = s.sec ∧ (sringMod e no f s).pins = s.pins ∧ (sringMod
    e no f s).poison = s.poison ∧ (sringMod e no f s).rowsMarked = s.rowsMarked ∧ (sringMod e no f s).rowCorrected =
    s.rowCorrected ∧ (sringMod e no f s).unitCorrected = s.unitCorrected ∧ (sringMod e no f s).tierLow = s.tierLow ∧
    (sringMod e no f s).parityCells = s.parityCells ∧ (sringMod e no f s).accs = s.accs ∧ (sringMod e no f s).accSet =
    s.accSet ∧ (sringMod e no f s).bells = s.bells ∧ (sringMod e no f s).contexts = s.contexts ∧ (sringMod e no f s).nextLead
    = s.nextLead := by
  unfold sringMod
  repeat' constructor

@[simp] theorem ringsMod_srings {f : SRing → Bool} {g : SRing → SRing} {s : State} :
    (ringsMod f g s).srings = s.srings.map (fun r => if f r then g r else r) := rfl
@[simp] theorem ringsMod_others {f : SRing → Bool} {g : SRing → SRing} {s : State} :
    (ringsMod f g s).pending = s.pending ∧ (ringsMod f g s).now = s.now ∧ (ringsMod f g s).tod = s.tod ∧ (ringsMod f g
    s).outbox = s.outbox ∧ (ringsMod f g s).hostMem = s.hostMem ∧ (ringsMod f g s).hostPoison = s.hostPoison ∧ (ringsMod f g
    s).regs = s.regs ∧ (ringsMod f g s).latches = s.latches ∧ (ringsMod f g s).service = s.service ∧ (ringsMod f g
    s).msixTable = s.msixTable ∧ (ringsMod f g s).msixPending = s.msixPending ∧ (ringsMod f g s).windows = s.windows ∧
    (ringsMod f g s).queues = s.queues ∧ (ringsMod f g s).cmds = s.cmds ∧ (ringsMod f g s).nextCmd = s.nextCmd ∧ (ringsMod f
    g s).reports = s.reports ∧ (ringsMod f g s).rings = s.rings ∧ (ringsMod f g s).evRings = s.evRings ∧ (ringsMod f g
    s).classes = s.classes ∧ (ringsMod f g s).lastUrg = s.lastUrg ∧ (ringsMod f g s).ledgers = s.ledgers ∧ (ringsMod f g
    s).domains = s.domains ∧ (ringsMod f g s).crook = s.crook ∧ (ringsMod f g s).colls = s.colls ∧ (ringsMod f g s).progs =
    s.progs ∧ (ringsMod f g s).tables = s.tables ∧ (ringsMod f g s).engines = s.engines ∧ (ringsMod f g s).bag = s.bag ∧
    (ringsMod f g s).cst = s.cst ∧ (ringsMod f g s).blw = s.blw ∧ (ringsMod f g s).chn = s.chn ∧ (ringsMod f g s).sec = s.sec
    ∧ (ringsMod f g s).pins = s.pins ∧ (ringsMod f g s).poison = s.poison ∧ (ringsMod f g s).rowsMarked = s.rowsMarked ∧
    (ringsMod f g s).rowCorrected = s.rowCorrected ∧ (ringsMod f g s).unitCorrected = s.unitCorrected ∧ (ringsMod f g
    s).tierLow = s.tierLow ∧ (ringsMod f g s).parityCells = s.parityCells ∧ (ringsMod f g s).accs = s.accs ∧ (ringsMod f g
    s).accSet = s.accSet ∧ (ringsMod f g s).bells = s.bells ∧ (ringsMod f g s).contexts = s.contexts ∧ (ringsMod f g
    s).nextLead = s.nextLead := by
  unfold ringsMod
  repeat' constructor

@[simp] theorem freeStage_srings {c : Nat} {s : State} :
    (freeStage c s).srings = s.srings.filter (fun r => !(r.cmd = some c && (r.port = portChest || (!r.isWrite && r.port = portHost)))) := rfl
@[simp] theorem freeStage_others {c : Nat} {s : State} :
    (freeStage c s).pending = s.pending ∧ (freeStage c s).now = s.now ∧ (freeStage c s).tod = s.tod ∧ (freeStage c s).outbox
    = s.outbox ∧ (freeStage c s).hostMem = s.hostMem ∧ (freeStage c s).hostPoison = s.hostPoison ∧ (freeStage c s).regs =
    s.regs ∧ (freeStage c s).latches = s.latches ∧ (freeStage c s).service = s.service ∧ (freeStage c s).msixTable =
    s.msixTable ∧ (freeStage c s).msixPending = s.msixPending ∧ (freeStage c s).windows = s.windows ∧ (freeStage c s).queues
    = s.queues ∧ (freeStage c s).cmds = s.cmds ∧ (freeStage c s).nextCmd = s.nextCmd ∧ (freeStage c s).reports = s.reports ∧
    (freeStage c s).rings = s.rings ∧ (freeStage c s).evRings = s.evRings ∧ (freeStage c s).classes = s.classes ∧ (freeStage
    c s).lastUrg = s.lastUrg ∧ (freeStage c s).ledgers = s.ledgers ∧ (freeStage c s).domains = s.domains ∧ (freeStage c
    s).crook = s.crook ∧ (freeStage c s).colls = s.colls ∧ (freeStage c s).progs = s.progs ∧ (freeStage c s).tables =
    s.tables ∧ (freeStage c s).engines = s.engines ∧ (freeStage c s).bag = s.bag ∧ (freeStage c s).cst = s.cst ∧ (freeStage c
    s).blw = s.blw ∧ (freeStage c s).chn = s.chn ∧ (freeStage c s).sec = s.sec ∧ (freeStage c s).pins = s.pins ∧ (freeStage c
    s).poison = s.poison ∧ (freeStage c s).rowsMarked = s.rowsMarked ∧ (freeStage c s).rowCorrected = s.rowCorrected ∧
    (freeStage c s).unitCorrected = s.unitCorrected ∧ (freeStage c s).tierLow = s.tierLow ∧ (freeStage c s).parityCells =
    s.parityCells ∧ (freeStage c s).accs = s.accs ∧ (freeStage c s).accSet = s.accSet ∧ (freeStage c s).bells = s.bells ∧
    (freeStage c s).contexts = s.contexts ∧ (freeStage c s).nextLead = s.nextLead := by
  unfold freeStage
  repeat' constructor

@[simp] theorem closeStripe_bag {n : Nat} {s : State} :
    (closeStripe n s).bag = { s.bag with closeTo := max s.bag.closeTo n } := rfl
@[simp] theorem closeStripe_others {n : Nat} {s : State} :
    (closeStripe n s).pending = s.pending ∧ (closeStripe n s).now = s.now ∧ (closeStripe n s).tod = s.tod ∧ (closeStripe n
    s).outbox = s.outbox ∧ (closeStripe n s).hostMem = s.hostMem ∧ (closeStripe n s).hostPoison = s.hostPoison ∧ (closeStripe
    n s).regs = s.regs ∧ (closeStripe n s).latches = s.latches ∧ (closeStripe n s).service = s.service ∧ (closeStripe n
    s).msixTable = s.msixTable ∧ (closeStripe n s).msixPending = s.msixPending ∧ (closeStripe n s).windows = s.windows ∧
    (closeStripe n s).queues = s.queues ∧ (closeStripe n s).cmds = s.cmds ∧ (closeStripe n s).nextCmd = s.nextCmd ∧
    (closeStripe n s).reports = s.reports ∧ (closeStripe n s).rings = s.rings ∧ (closeStripe n s).evRings = s.evRings ∧
    (closeStripe n s).classes = s.classes ∧ (closeStripe n s).lastUrg = s.lastUrg ∧ (closeStripe n s).ledgers = s.ledgers ∧
    (closeStripe n s).domains = s.domains ∧ (closeStripe n s).crook = s.crook ∧ (closeStripe n s).colls = s.colls ∧
    (closeStripe n s).progs = s.progs ∧ (closeStripe n s).tables = s.tables ∧ (closeStripe n s).srings = s.srings ∧
    (closeStripe n s).engines = s.engines ∧ (closeStripe n s).cst = s.cst ∧ (closeStripe n s).blw = s.blw ∧ (closeStripe n
    s).chn = s.chn ∧ (closeStripe n s).sec = s.sec ∧ (closeStripe n s).pins = s.pins ∧ (closeStripe n s).poison = s.poison ∧
    (closeStripe n s).rowsMarked = s.rowsMarked ∧ (closeStripe n s).rowCorrected = s.rowCorrected ∧ (closeStripe n
    s).unitCorrected = s.unitCorrected ∧ (closeStripe n s).tierLow = s.tierLow ∧ (closeStripe n s).parityCells =
    s.parityCells ∧ (closeStripe n s).accs = s.accs ∧ (closeStripe n s).accSet = s.accSet ∧ (closeStripe n s).bells = s.bells
    ∧ (closeStripe n s).contexts = s.contexts ∧ (closeStripe n s).nextLead = s.nextLead := by
  unfold closeStripe
  repeat' constructor

@[simp] theorem wakeFlash_cmds {s : State} :
    (wakeFlash s).cmds = s.cmds.map (fun x =>
      match x.work with
      | .wait 3 n => if onFlash s n then { x with phase := .finished, work := .none } else x
      | _ => x) := rfl
@[simp] theorem wakeFlash_others {s : State} :
    (wakeFlash s).pending = s.pending ∧ (wakeFlash s).now = s.now ∧ (wakeFlash s).tod = s.tod ∧ (wakeFlash s).outbox =
    s.outbox ∧ (wakeFlash s).hostMem = s.hostMem ∧ (wakeFlash s).hostPoison = s.hostPoison ∧ (wakeFlash s).regs = s.regs ∧
    (wakeFlash s).latches = s.latches ∧ (wakeFlash s).service = s.service ∧ (wakeFlash s).msixTable = s.msixTable ∧
    (wakeFlash s).msixPending = s.msixPending ∧ (wakeFlash s).windows = s.windows ∧ (wakeFlash s).queues = s.queues ∧
    (wakeFlash s).nextCmd = s.nextCmd ∧ (wakeFlash s).reports = s.reports ∧ (wakeFlash s).rings = s.rings ∧ (wakeFlash
    s).evRings = s.evRings ∧ (wakeFlash s).classes = s.classes ∧ (wakeFlash s).lastUrg = s.lastUrg ∧ (wakeFlash s).ledgers =
    s.ledgers ∧ (wakeFlash s).domains = s.domains ∧ (wakeFlash s).crook = s.crook ∧ (wakeFlash s).colls = s.colls ∧
    (wakeFlash s).progs = s.progs ∧ (wakeFlash s).tables = s.tables ∧ (wakeFlash s).srings = s.srings ∧ (wakeFlash s).engines
    = s.engines ∧ (wakeFlash s).bag = s.bag ∧ (wakeFlash s).cst = s.cst ∧ (wakeFlash s).blw = s.blw ∧ (wakeFlash s).chn =
    s.chn ∧ (wakeFlash s).sec = s.sec ∧ (wakeFlash s).pins = s.pins ∧ (wakeFlash s).poison = s.poison ∧ (wakeFlash
    s).rowsMarked = s.rowsMarked ∧ (wakeFlash s).rowCorrected = s.rowCorrected ∧ (wakeFlash s).unitCorrected =
    s.unitCorrected ∧ (wakeFlash s).tierLow = s.tierLow ∧ (wakeFlash s).parityCells = s.parityCells ∧ (wakeFlash s).accs =
    s.accs ∧ (wakeFlash s).accSet = s.accSet ∧ (wakeFlash s).bells = s.bells ∧ (wakeFlash s).contexts = s.contexts ∧
    (wakeFlash s).nextLead = s.nextLead := by
  unfold wakeFlash
  repeat' constructor

@[simp] theorem takeBatch_progs {version n : Nat} {s : State} :
    (takeBatch version n s).progs = tmod s.progs version (fun p => { p with batch := p.batch + (n + 255) / 256 }) := rfl
@[simp] theorem takeBatch_others {version n : Nat} {s : State} :
    (takeBatch version n s).pending = s.pending ∧ (takeBatch version n s).now = s.now ∧ (takeBatch version n s).tod = s.tod ∧
    (takeBatch version n s).outbox = s.outbox ∧ (takeBatch version n s).hostMem = s.hostMem ∧ (takeBatch version n
    s).hostPoison = s.hostPoison ∧ (takeBatch version n s).regs = s.regs ∧ (takeBatch version n s).latches = s.latches ∧
    (takeBatch version n s).service = s.service ∧ (takeBatch version n s).msixTable = s.msixTable ∧ (takeBatch version n
    s).msixPending = s.msixPending ∧ (takeBatch version n s).windows = s.windows ∧ (takeBatch version n s).queues = s.queues
    ∧ (takeBatch version n s).cmds = s.cmds ∧ (takeBatch version n s).nextCmd = s.nextCmd ∧ (takeBatch version n s).reports =
    s.reports ∧ (takeBatch version n s).rings = s.rings ∧ (takeBatch version n s).evRings = s.evRings ∧ (takeBatch version n
    s).classes = s.classes ∧ (takeBatch version n s).lastUrg = s.lastUrg ∧ (takeBatch version n s).ledgers = s.ledgers ∧
    (takeBatch version n s).domains = s.domains ∧ (takeBatch version n s).crook = s.crook ∧ (takeBatch version n s).colls =
    s.colls ∧ (takeBatch version n s).tables = s.tables ∧ (takeBatch version n s).srings = s.srings ∧ (takeBatch version n
    s).engines = s.engines ∧ (takeBatch version n s).bag = s.bag ∧ (takeBatch version n s).cst = s.cst ∧ (takeBatch version n
    s).blw = s.blw ∧ (takeBatch version n s).chn = s.chn ∧ (takeBatch version n s).sec = s.sec ∧ (takeBatch version n s).pins
    = s.pins ∧ (takeBatch version n s).poison = s.poison ∧ (takeBatch version n s).rowsMarked = s.rowsMarked ∧ (takeBatch
    version n s).rowCorrected = s.rowCorrected ∧ (takeBatch version n s).unitCorrected = s.unitCorrected ∧ (takeBatch version
    n s).tierLow = s.tierLow ∧ (takeBatch version n s).parityCells = s.parityCells ∧ (takeBatch version n s).accs = s.accs ∧
    (takeBatch version n s).accSet = s.accSet ∧ (takeBatch version n s).bells = s.bells ∧ (takeBatch version n s).contexts =
    s.contexts ∧ (takeBatch version n s).nextLead = s.nextLead := by
  unfold takeBatch
  repeat' constructor

@[simp] theorem setCls_classes {c : Nat} {f : Cls → Cls} {s : State} :
    (setCls c f s).classes = s.classes.set c (f (clsData s c)) := rfl
@[simp] theorem setCls_others {c : Nat} {f : Cls → Cls} {s : State} :
    (setCls c f s).pending = s.pending ∧ (setCls c f s).now = s.now ∧ (setCls c f s).tod = s.tod ∧ (setCls c f s).outbox =
    s.outbox ∧ (setCls c f s).hostMem = s.hostMem ∧ (setCls c f s).hostPoison = s.hostPoison ∧ (setCls c f s).regs = s.regs ∧
    (setCls c f s).latches = s.latches ∧ (setCls c f s).service = s.service ∧ (setCls c f s).msixTable = s.msixTable ∧
    (setCls c f s).msixPending = s.msixPending ∧ (setCls c f s).windows = s.windows ∧ (setCls c f s).queues = s.queues ∧
    (setCls c f s).cmds = s.cmds ∧ (setCls c f s).nextCmd = s.nextCmd ∧ (setCls c f s).reports = s.reports ∧ (setCls c f
    s).rings = s.rings ∧ (setCls c f s).evRings = s.evRings ∧ (setCls c f s).lastUrg = s.lastUrg ∧ (setCls c f s).ledgers =
    s.ledgers ∧ (setCls c f s).domains = s.domains ∧ (setCls c f s).crook = s.crook ∧ (setCls c f s).colls = s.colls ∧
    (setCls c f s).progs = s.progs ∧ (setCls c f s).tables = s.tables ∧ (setCls c f s).srings = s.srings ∧ (setCls c f
    s).engines = s.engines ∧ (setCls c f s).bag = s.bag ∧ (setCls c f s).cst = s.cst ∧ (setCls c f s).blw = s.blw ∧ (setCls c
    f s).chn = s.chn ∧ (setCls c f s).sec = s.sec ∧ (setCls c f s).pins = s.pins ∧ (setCls c f s).poison = s.poison ∧ (setCls
    c f s).rowsMarked = s.rowsMarked ∧ (setCls c f s).rowCorrected = s.rowCorrected ∧ (setCls c f s).unitCorrected =
    s.unitCorrected ∧ (setCls c f s).tierLow = s.tierLow ∧ (setCls c f s).parityCells = s.parityCells ∧ (setCls c f s).accs =
    s.accs ∧ (setCls c f s).accSet = s.accSet ∧ (setCls c f s).bells = s.bells ∧ (setCls c f s).contexts = s.contexts ∧
    (setCls c f s).nextLead = s.nextLead := by
  unfold setCls
  repeat' constructor

@[simp] theorem chargeLedgers_ledgers {cs : List (Nat × Rat)} {s : State} :
    (chargeLedgers cs s).ledgers = cs.foldl (fun t c => tset t c.1 ((tget t c.1).getD 0 + c.2)) s.ledgers := rfl
@[simp] theorem chargeLedgers_others {cs : List (Nat × Rat)} {s : State} :
    (chargeLedgers cs s).pending = s.pending ∧ (chargeLedgers cs s).now = s.now ∧ (chargeLedgers cs s).tod = s.tod ∧
    (chargeLedgers cs s).outbox = s.outbox ∧ (chargeLedgers cs s).hostMem = s.hostMem ∧ (chargeLedgers cs s).hostPoison =
    s.hostPoison ∧ (chargeLedgers cs s).regs = s.regs ∧ (chargeLedgers cs s).latches = s.latches ∧ (chargeLedgers cs
    s).service = s.service ∧ (chargeLedgers cs s).msixTable = s.msixTable ∧ (chargeLedgers cs s).msixPending = s.msixPending
    ∧ (chargeLedgers cs s).windows = s.windows ∧ (chargeLedgers cs s).queues = s.queues ∧ (chargeLedgers cs s).cmds = s.cmds
    ∧ (chargeLedgers cs s).nextCmd = s.nextCmd ∧ (chargeLedgers cs s).reports = s.reports ∧ (chargeLedgers cs s).rings =
    s.rings ∧ (chargeLedgers cs s).evRings = s.evRings ∧ (chargeLedgers cs s).classes = s.classes ∧ (chargeLedgers cs
    s).lastUrg = s.lastUrg ∧ (chargeLedgers cs s).domains = s.domains ∧ (chargeLedgers cs s).crook = s.crook ∧ (chargeLedgers
    cs s).colls = s.colls ∧ (chargeLedgers cs s).progs = s.progs ∧ (chargeLedgers cs s).tables = s.tables ∧ (chargeLedgers cs
    s).srings = s.srings ∧ (chargeLedgers cs s).engines = s.engines ∧ (chargeLedgers cs s).bag = s.bag ∧ (chargeLedgers cs
    s).cst = s.cst ∧ (chargeLedgers cs s).blw = s.blw ∧ (chargeLedgers cs s).chn = s.chn ∧ (chargeLedgers cs s).sec = s.sec ∧
    (chargeLedgers cs s).pins = s.pins ∧ (chargeLedgers cs s).poison = s.poison ∧ (chargeLedgers cs s).rowsMarked =
    s.rowsMarked ∧ (chargeLedgers cs s).rowCorrected = s.rowCorrected ∧ (chargeLedgers cs s).unitCorrected = s.unitCorrected
    ∧ (chargeLedgers cs s).tierLow = s.tierLow ∧ (chargeLedgers cs s).parityCells = s.parityCells ∧ (chargeLedgers cs s).accs
    = s.accs ∧ (chargeLedgers cs s).accSet = s.accSet ∧ (chargeLedgers cs s).bells = s.bells ∧ (chargeLedgers cs s).contexts
    = s.contexts ∧ (chargeLedgers cs s).nextLead = s.nextLead := by
  unfold chargeLedgers
  repeat' constructor

@[simp] theorem coreLeaves_chn {k : Nat} {s : State} :
    (coreLeaves k s).chn = { s.chn with coreEpoch := tset s.chn.coreEpoch k s.chn.epoch } := rfl
@[simp] theorem coreLeaves_others {k : Nat} {s : State} :
    (coreLeaves k s).pending = s.pending ∧ (coreLeaves k s).now = s.now ∧ (coreLeaves k s).tod = s.tod ∧ (coreLeaves k
    s).outbox = s.outbox ∧ (coreLeaves k s).hostMem = s.hostMem ∧ (coreLeaves k s).hostPoison = s.hostPoison ∧ (coreLeaves k
    s).regs = s.regs ∧ (coreLeaves k s).latches = s.latches ∧ (coreLeaves k s).service = s.service ∧ (coreLeaves k
    s).msixTable = s.msixTable ∧ (coreLeaves k s).msixPending = s.msixPending ∧ (coreLeaves k s).windows = s.windows ∧
    (coreLeaves k s).queues = s.queues ∧ (coreLeaves k s).cmds = s.cmds ∧ (coreLeaves k s).nextCmd = s.nextCmd ∧ (coreLeaves
    k s).reports = s.reports ∧ (coreLeaves k s).rings = s.rings ∧ (coreLeaves k s).evRings = s.evRings ∧ (coreLeaves k
    s).classes = s.classes ∧ (coreLeaves k s).lastUrg = s.lastUrg ∧ (coreLeaves k s).ledgers = s.ledgers ∧ (coreLeaves k
    s).domains = s.domains ∧ (coreLeaves k s).crook = s.crook ∧ (coreLeaves k s).colls = s.colls ∧ (coreLeaves k s).progs =
    s.progs ∧ (coreLeaves k s).tables = s.tables ∧ (coreLeaves k s).srings = s.srings ∧ (coreLeaves k s).engines = s.engines
    ∧ (coreLeaves k s).bag = s.bag ∧ (coreLeaves k s).cst = s.cst ∧ (coreLeaves k s).blw = s.blw ∧ (coreLeaves k s).sec =
    s.sec ∧ (coreLeaves k s).pins = s.pins ∧ (coreLeaves k s).poison = s.poison ∧ (coreLeaves k s).rowsMarked = s.rowsMarked
    ∧ (coreLeaves k s).rowCorrected = s.rowCorrected ∧ (coreLeaves k s).unitCorrected = s.unitCorrected ∧ (coreLeaves k
    s).tierLow = s.tierLow ∧ (coreLeaves k s).parityCells = s.parityCells ∧ (coreLeaves k s).accs = s.accs ∧ (coreLeaves k
    s).accSet = s.accSet ∧ (coreLeaves k s).bells = s.bells ∧ (coreLeaves k s).contexts = s.contexts ∧ (coreLeaves k
    s).nextLead = s.nextLead := by
  unfold coreLeaves
  repeat' constructor

@[simp] theorem bagMod_bag {f : Bag → Bag} {s : State} :
    (bagMod f s).bag = f s.bag := rfl
@[simp] theorem bagMod_others {f : Bag → Bag} {s : State} :
    (bagMod f s).pending = s.pending ∧ (bagMod f s).now = s.now ∧ (bagMod f s).tod = s.tod ∧ (bagMod f s).outbox = s.outbox ∧
    (bagMod f s).hostMem = s.hostMem ∧ (bagMod f s).hostPoison = s.hostPoison ∧ (bagMod f s).regs = s.regs ∧ (bagMod f
    s).latches = s.latches ∧ (bagMod f s).service = s.service ∧ (bagMod f s).msixTable = s.msixTable ∧ (bagMod f
    s).msixPending = s.msixPending ∧ (bagMod f s).windows = s.windows ∧ (bagMod f s).queues = s.queues ∧ (bagMod f s).cmds =
    s.cmds ∧ (bagMod f s).nextCmd = s.nextCmd ∧ (bagMod f s).reports = s.reports ∧ (bagMod f s).rings = s.rings ∧ (bagMod f
    s).evRings = s.evRings ∧ (bagMod f s).classes = s.classes ∧ (bagMod f s).lastUrg = s.lastUrg ∧ (bagMod f s).ledgers =
    s.ledgers ∧ (bagMod f s).domains = s.domains ∧ (bagMod f s).crook = s.crook ∧ (bagMod f s).colls = s.colls ∧ (bagMod f
    s).progs = s.progs ∧ (bagMod f s).tables = s.tables ∧ (bagMod f s).srings = s.srings ∧ (bagMod f s).engines = s.engines ∧
    (bagMod f s).cst = s.cst ∧ (bagMod f s).blw = s.blw ∧ (bagMod f s).chn = s.chn ∧ (bagMod f s).sec = s.sec ∧ (bagMod f
    s).pins = s.pins ∧ (bagMod f s).poison = s.poison ∧ (bagMod f s).rowsMarked = s.rowsMarked ∧ (bagMod f s).rowCorrected =
    s.rowCorrected ∧ (bagMod f s).unitCorrected = s.unitCorrected ∧ (bagMod f s).tierLow = s.tierLow ∧ (bagMod f
    s).parityCells = s.parityCells ∧ (bagMod f s).accs = s.accs ∧ (bagMod f s).accSet = s.accSet ∧ (bagMod f s).bells =
    s.bells ∧ (bagMod f s).contexts = s.contexts ∧ (bagMod f s).nextLead = s.nextLead := by
  unfold bagMod
  repeat' constructor

@[simp] theorem beginLoss_chn {s : State} :
    (beginLoss s).chn = { s.chn with losing := true, sealed := false } := rfl
@[simp] theorem beginLoss_others {s : State} :
    (beginLoss s).pending = s.pending ∧ (beginLoss s).now = s.now ∧ (beginLoss s).tod = s.tod ∧ (beginLoss s).outbox =
    s.outbox ∧ (beginLoss s).hostMem = s.hostMem ∧ (beginLoss s).hostPoison = s.hostPoison ∧ (beginLoss s).regs = s.regs ∧
    (beginLoss s).latches = s.latches ∧ (beginLoss s).service = s.service ∧ (beginLoss s).msixTable = s.msixTable ∧
    (beginLoss s).msixPending = s.msixPending ∧ (beginLoss s).windows = s.windows ∧ (beginLoss s).queues = s.queues ∧
    (beginLoss s).cmds = s.cmds ∧ (beginLoss s).nextCmd = s.nextCmd ∧ (beginLoss s).reports = s.reports ∧ (beginLoss s).rings
    = s.rings ∧ (beginLoss s).evRings = s.evRings ∧ (beginLoss s).classes = s.classes ∧ (beginLoss s).lastUrg = s.lastUrg ∧
    (beginLoss s).ledgers = s.ledgers ∧ (beginLoss s).domains = s.domains ∧ (beginLoss s).crook = s.crook ∧ (beginLoss
    s).colls = s.colls ∧ (beginLoss s).progs = s.progs ∧ (beginLoss s).tables = s.tables ∧ (beginLoss s).srings = s.srings ∧
    (beginLoss s).engines = s.engines ∧ (beginLoss s).bag = s.bag ∧ (beginLoss s).cst = s.cst ∧ (beginLoss s).blw = s.blw ∧
    (beginLoss s).sec = s.sec ∧ (beginLoss s).pins = s.pins ∧ (beginLoss s).poison = s.poison ∧ (beginLoss s).rowsMarked =
    s.rowsMarked ∧ (beginLoss s).rowCorrected = s.rowCorrected ∧ (beginLoss s).unitCorrected = s.unitCorrected ∧ (beginLoss
    s).tierLow = s.tierLow ∧ (beginLoss s).parityCells = s.parityCells ∧ (beginLoss s).accs = s.accs ∧ (beginLoss s).accSet =
    s.accSet ∧ (beginLoss s).bells = s.bells ∧ (beginLoss s).contexts = s.contexts ∧ (beginLoss s).nextLead = s.nextLead := by
  unfold beginLoss
  repeat' constructor

@[simp] theorem clearPoison_poison {p : Poison} {s : State} :
    (clearPoison p s).poison = s.poison.filter (· ≠ p) := rfl
@[simp] theorem clearPoison_others {p : Poison} {s : State} :
    (clearPoison p s).pending = s.pending ∧ (clearPoison p s).now = s.now ∧ (clearPoison p s).tod = s.tod ∧ (clearPoison p
    s).outbox = s.outbox ∧ (clearPoison p s).hostMem = s.hostMem ∧ (clearPoison p s).hostPoison = s.hostPoison ∧ (clearPoison
    p s).regs = s.regs ∧ (clearPoison p s).latches = s.latches ∧ (clearPoison p s).service = s.service ∧ (clearPoison p
    s).msixTable = s.msixTable ∧ (clearPoison p s).msixPending = s.msixPending ∧ (clearPoison p s).windows = s.windows ∧
    (clearPoison p s).queues = s.queues ∧ (clearPoison p s).cmds = s.cmds ∧ (clearPoison p s).nextCmd = s.nextCmd ∧
    (clearPoison p s).reports = s.reports ∧ (clearPoison p s).rings = s.rings ∧ (clearPoison p s).evRings = s.evRings ∧
    (clearPoison p s).classes = s.classes ∧ (clearPoison p s).lastUrg = s.lastUrg ∧ (clearPoison p s).ledgers = s.ledgers ∧
    (clearPoison p s).domains = s.domains ∧ (clearPoison p s).crook = s.crook ∧ (clearPoison p s).colls = s.colls ∧
    (clearPoison p s).progs = s.progs ∧ (clearPoison p s).tables = s.tables ∧ (clearPoison p s).srings = s.srings ∧
    (clearPoison p s).engines = s.engines ∧ (clearPoison p s).bag = s.bag ∧ (clearPoison p s).cst = s.cst ∧ (clearPoison p
    s).blw = s.blw ∧ (clearPoison p s).chn = s.chn ∧ (clearPoison p s).sec = s.sec ∧ (clearPoison p s).pins = s.pins ∧
    (clearPoison p s).rowsMarked = s.rowsMarked ∧ (clearPoison p s).rowCorrected = s.rowCorrected ∧ (clearPoison p
    s).unitCorrected = s.unitCorrected ∧ (clearPoison p s).tierLow = s.tierLow ∧ (clearPoison p s).parityCells =
    s.parityCells ∧ (clearPoison p s).accs = s.accs ∧ (clearPoison p s).accSet = s.accSet ∧ (clearPoison p s).bells = s.bells
    ∧ (clearPoison p s).contexts = s.contexts ∧ (clearPoison p s).nextLead = s.nextLead := by
  unfold clearPoison
  repeat' constructor

@[simp] theorem blameHost_cmds {f : Cmd → Bool} {s : State} :
    (blameHost f s).cmds = s.cmds.map (fun x => if f x then { x with lateXlat := true } else x) := rfl
@[simp] theorem blameHost_others {f : Cmd → Bool} {s : State} :
    (blameHost f s).pending = s.pending ∧ (blameHost f s).now = s.now ∧ (blameHost f s).tod = s.tod ∧ (blameHost f s).outbox
    = s.outbox ∧ (blameHost f s).hostMem = s.hostMem ∧ (blameHost f s).hostPoison = s.hostPoison ∧ (blameHost f s).regs =
    s.regs ∧ (blameHost f s).latches = s.latches ∧ (blameHost f s).service = s.service ∧ (blameHost f s).msixTable =
    s.msixTable ∧ (blameHost f s).msixPending = s.msixPending ∧ (blameHost f s).windows = s.windows ∧ (blameHost f s).queues
    = s.queues ∧ (blameHost f s).nextCmd = s.nextCmd ∧ (blameHost f s).reports = s.reports ∧ (blameHost f s).rings = s.rings
    ∧ (blameHost f s).evRings = s.evRings ∧ (blameHost f s).classes = s.classes ∧ (blameHost f s).lastUrg = s.lastUrg ∧
    (blameHost f s).ledgers = s.ledgers ∧ (blameHost f s).domains = s.domains ∧ (blameHost f s).crook = s.crook ∧ (blameHost
    f s).colls = s.colls ∧ (blameHost f s).progs = s.progs ∧ (blameHost f s).tables = s.tables ∧ (blameHost f s).srings =
    s.srings ∧ (blameHost f s).engines = s.engines ∧ (blameHost f s).bag = s.bag ∧ (blameHost f s).cst = s.cst ∧ (blameHost f
    s).blw = s.blw ∧ (blameHost f s).chn = s.chn ∧ (blameHost f s).sec = s.sec ∧ (blameHost f s).pins = s.pins ∧ (blameHost f
    s).poison = s.poison ∧ (blameHost f s).rowsMarked = s.rowsMarked ∧ (blameHost f s).rowCorrected = s.rowCorrected ∧
    (blameHost f s).unitCorrected = s.unitCorrected ∧ (blameHost f s).tierLow = s.tierLow ∧ (blameHost f s).parityCells =
    s.parityCells ∧ (blameHost f s).accs = s.accs ∧ (blameHost f s).accSet = s.accSet ∧ (blameHost f s).bells = s.bells ∧
    (blameHost f s).contexts = s.contexts ∧ (blameHost f s).nextLead = s.nextLead := by
  unfold blameHost
  repeat' constructor

@[simp] theorem dropHolds_cmds {f : CacheEntry → Bool} {s : State} :
    (dropHolds_ f s).cmds = s.cmds.map (fun x => { x with held := x.held.filter (fun p => !(cacheFind s p.1 p.2).any f) }) := rfl
@[simp] theorem dropHolds_others {f : CacheEntry → Bool} {s : State} :
    (dropHolds_ f s).pending = s.pending ∧ (dropHolds_ f s).now = s.now ∧ (dropHolds_ f s).tod = s.tod ∧ (dropHolds_ f
    s).outbox = s.outbox ∧ (dropHolds_ f s).hostMem = s.hostMem ∧ (dropHolds_ f s).hostPoison = s.hostPoison ∧ (dropHolds_ f
    s).regs = s.regs ∧ (dropHolds_ f s).latches = s.latches ∧ (dropHolds_ f s).service = s.service ∧ (dropHolds_ f
    s).msixTable = s.msixTable ∧ (dropHolds_ f s).msixPending = s.msixPending ∧ (dropHolds_ f s).windows = s.windows ∧
    (dropHolds_ f s).queues = s.queues ∧ (dropHolds_ f s).nextCmd = s.nextCmd ∧ (dropHolds_ f s).reports = s.reports ∧
    (dropHolds_ f s).rings = s.rings ∧ (dropHolds_ f s).evRings = s.evRings ∧ (dropHolds_ f s).classes = s.classes ∧
    (dropHolds_ f s).lastUrg = s.lastUrg ∧ (dropHolds_ f s).ledgers = s.ledgers ∧ (dropHolds_ f s).domains = s.domains ∧
    (dropHolds_ f s).crook = s.crook ∧ (dropHolds_ f s).colls = s.colls ∧ (dropHolds_ f s).progs = s.progs ∧ (dropHolds_ f
    s).tables = s.tables ∧ (dropHolds_ f s).srings = s.srings ∧ (dropHolds_ f s).engines = s.engines ∧ (dropHolds_ f s).bag =
    s.bag ∧ (dropHolds_ f s).cst = s.cst ∧ (dropHolds_ f s).blw = s.blw ∧ (dropHolds_ f s).chn = s.chn ∧ (dropHolds_ f s).sec
    = s.sec ∧ (dropHolds_ f s).pins = s.pins ∧ (dropHolds_ f s).poison = s.poison ∧ (dropHolds_ f s).rowsMarked =
    s.rowsMarked ∧ (dropHolds_ f s).rowCorrected = s.rowCorrected ∧ (dropHolds_ f s).unitCorrected = s.unitCorrected ∧
    (dropHolds_ f s).tierLow = s.tierLow ∧ (dropHolds_ f s).parityCells = s.parityCells ∧ (dropHolds_ f s).accs = s.accs ∧
    (dropHolds_ f s).accSet = s.accSet ∧ (dropHolds_ f s).bells = s.bells ∧ (dropHolds_ f s).contexts = s.contexts ∧
    (dropHolds_ f s).nextLead = s.nextLead := by
  unfold dropHolds_
  repeat' constructor

@[simp] theorem cstMod_cst {f : Consort → Consort} {s : State} :
    (cstMod f s).cst = f s.cst := rfl
@[simp] theorem cstMod_others {f : Consort → Consort} {s : State} :
    (cstMod f s).pending = s.pending ∧ (cstMod f s).now = s.now ∧ (cstMod f s).tod = s.tod ∧ (cstMod f s).outbox = s.outbox ∧
    (cstMod f s).hostMem = s.hostMem ∧ (cstMod f s).hostPoison = s.hostPoison ∧ (cstMod f s).regs = s.regs ∧ (cstMod f
    s).latches = s.latches ∧ (cstMod f s).service = s.service ∧ (cstMod f s).msixTable = s.msixTable ∧ (cstMod f
    s).msixPending = s.msixPending ∧ (cstMod f s).windows = s.windows ∧ (cstMod f s).queues = s.queues ∧ (cstMod f s).cmds =
    s.cmds ∧ (cstMod f s).nextCmd = s.nextCmd ∧ (cstMod f s).reports = s.reports ∧ (cstMod f s).rings = s.rings ∧ (cstMod f
    s).evRings = s.evRings ∧ (cstMod f s).classes = s.classes ∧ (cstMod f s).lastUrg = s.lastUrg ∧ (cstMod f s).ledgers =
    s.ledgers ∧ (cstMod f s).domains = s.domains ∧ (cstMod f s).crook = s.crook ∧ (cstMod f s).colls = s.colls ∧ (cstMod f
    s).progs = s.progs ∧ (cstMod f s).tables = s.tables ∧ (cstMod f s).srings = s.srings ∧ (cstMod f s).engines = s.engines ∧
    (cstMod f s).bag = s.bag ∧ (cstMod f s).blw = s.blw ∧ (cstMod f s).chn = s.chn ∧ (cstMod f s).sec = s.sec ∧ (cstMod f
    s).pins = s.pins ∧ (cstMod f s).poison = s.poison ∧ (cstMod f s).rowsMarked = s.rowsMarked ∧ (cstMod f s).rowCorrected =
    s.rowCorrected ∧ (cstMod f s).unitCorrected = s.unitCorrected ∧ (cstMod f s).tierLow = s.tierLow ∧ (cstMod f
    s).parityCells = s.parityCells ∧ (cstMod f s).accs = s.accs ∧ (cstMod f s).accSet = s.accSet ∧ (cstMod f s).bells =
    s.bells ∧ (cstMod f s).contexts = s.contexts ∧ (cstMod f s).nextLead = s.nextLead := by
  unfold cstMod
  repeat' constructor

@[simp] theorem blwMod_blw {f : Bellows → Bellows} {s : State} :
    (blwMod f s).blw = f s.blw := rfl
@[simp] theorem blwMod_others {f : Bellows → Bellows} {s : State} :
    (blwMod f s).pending = s.pending ∧ (blwMod f s).now = s.now ∧ (blwMod f s).tod = s.tod ∧ (blwMod f s).outbox = s.outbox ∧
    (blwMod f s).hostMem = s.hostMem ∧ (blwMod f s).hostPoison = s.hostPoison ∧ (blwMod f s).regs = s.regs ∧ (blwMod f
    s).latches = s.latches ∧ (blwMod f s).service = s.service ∧ (blwMod f s).msixTable = s.msixTable ∧ (blwMod f
    s).msixPending = s.msixPending ∧ (blwMod f s).windows = s.windows ∧ (blwMod f s).queues = s.queues ∧ (blwMod f s).cmds =
    s.cmds ∧ (blwMod f s).nextCmd = s.nextCmd ∧ (blwMod f s).reports = s.reports ∧ (blwMod f s).rings = s.rings ∧ (blwMod f
    s).evRings = s.evRings ∧ (blwMod f s).classes = s.classes ∧ (blwMod f s).lastUrg = s.lastUrg ∧ (blwMod f s).ledgers =
    s.ledgers ∧ (blwMod f s).domains = s.domains ∧ (blwMod f s).crook = s.crook ∧ (blwMod f s).colls = s.colls ∧ (blwMod f
    s).progs = s.progs ∧ (blwMod f s).tables = s.tables ∧ (blwMod f s).srings = s.srings ∧ (blwMod f s).engines = s.engines ∧
    (blwMod f s).bag = s.bag ∧ (blwMod f s).cst = s.cst ∧ (blwMod f s).chn = s.chn ∧ (blwMod f s).sec = s.sec ∧ (blwMod f
    s).pins = s.pins ∧ (blwMod f s).poison = s.poison ∧ (blwMod f s).rowsMarked = s.rowsMarked ∧ (blwMod f s).rowCorrected =
    s.rowCorrected ∧ (blwMod f s).unitCorrected = s.unitCorrected ∧ (blwMod f s).tierLow = s.tierLow ∧ (blwMod f
    s).parityCells = s.parityCells ∧ (blwMod f s).accs = s.accs ∧ (blwMod f s).accSet = s.accSet ∧ (blwMod f s).bells =
    s.bells ∧ (blwMod f s).contexts = s.contexts ∧ (blwMod f s).nextLead = s.nextLead := by
  unfold blwMod
  repeat' constructor

@[simp] theorem loadImage_others {img : Image} {s : State} :
    (loadImage img s).pending = s.pending ∧ (loadImage img s).now = s.now ∧ (loadImage img s).tod = s.tod ∧ (loadImage img
    s).outbox = s.outbox ∧ (loadImage img s).hostMem = s.hostMem ∧ (loadImage img s).hostPoison = s.hostPoison ∧ (loadImage
    img s).regs = s.regs ∧ (loadImage img s).latches = s.latches ∧ (loadImage img s).service = s.service ∧ (loadImage img
    s).msixTable = s.msixTable ∧ (loadImage img s).msixPending = s.msixPending ∧ (loadImage img s).windows = s.windows ∧
    (loadImage img s).queues = s.queues ∧ (loadImage img s).cmds = s.cmds ∧ (loadImage img s).nextCmd = s.nextCmd ∧
    (loadImage img s).reports = s.reports ∧ (loadImage img s).rings = s.rings ∧ (loadImage img s).evRings = s.evRings ∧
    (loadImage img s).classes = s.classes ∧ (loadImage img s).lastUrg = s.lastUrg ∧ (loadImage img s).ledgers = s.ledgers ∧
    (loadImage img s).crook = s.crook ∧ (loadImage img s).srings = s.srings ∧ (loadImage img s).engines = s.engines ∧
    (loadImage img s).bag = s.bag ∧ (loadImage img s).cst = s.cst ∧ (loadImage img s).blw = s.blw ∧ (loadImage img s).chn =
    s.chn ∧ (loadImage img s).sec = s.sec ∧ (loadImage img s).pins = s.pins ∧ (loadImage img s).poison = s.poison ∧
    (loadImage img s).rowsMarked = s.rowsMarked ∧ (loadImage img s).rowCorrected = s.rowCorrected ∧ (loadImage img
    s).unitCorrected = s.unitCorrected ∧ (loadImage img s).tierLow = s.tierLow ∧ (loadImage img s).parityCells =
    s.parityCells ∧ (loadImage img s).accs = s.accs ∧ (loadImage img s).accSet = s.accSet ∧ (loadImage img s).bells = s.bells
    ∧ (loadImage img s).contexts = s.contexts ∧ (loadImage img s).nextLead = s.nextLead := by
  unfold loadImage
  repeat' constructor

@[simp] theorem droneRestarted_colls {s : State} :
    (droneRestarted s).colls = s.colls.map (fun p => (p.1, settled s p.1 p.2)) := rfl
@[simp] theorem droneRestarted_others {s : State} :
    (droneRestarted s).pending = s.pending ∧ (droneRestarted s).now = s.now ∧ (droneRestarted s).tod = s.tod ∧
    (droneRestarted s).outbox = s.outbox ∧ (droneRestarted s).hostMem = s.hostMem ∧ (droneRestarted s).hostPoison =
    s.hostPoison ∧ (droneRestarted s).regs = s.regs ∧ (droneRestarted s).latches = s.latches ∧ (droneRestarted s).service =
    s.service ∧ (droneRestarted s).msixTable = s.msixTable ∧ (droneRestarted s).msixPending = s.msixPending ∧ (droneRestarted
    s).windows = s.windows ∧ (droneRestarted s).queues = s.queues ∧ (droneRestarted s).cmds = s.cmds ∧ (droneRestarted
    s).nextCmd = s.nextCmd ∧ (droneRestarted s).reports = s.reports ∧ (droneRestarted s).rings = s.rings ∧ (droneRestarted
    s).evRings = s.evRings ∧ (droneRestarted s).classes = s.classes ∧ (droneRestarted s).lastUrg = s.lastUrg ∧
    (droneRestarted s).ledgers = s.ledgers ∧ (droneRestarted s).domains = s.domains ∧ (droneRestarted s).crook = s.crook ∧
    (droneRestarted s).progs = s.progs ∧ (droneRestarted s).tables = s.tables ∧ (droneRestarted s).srings = s.srings ∧
    (droneRestarted s).engines = s.engines ∧ (droneRestarted s).bag = s.bag ∧ (droneRestarted s).cst = s.cst ∧
    (droneRestarted s).blw = s.blw ∧ (droneRestarted s).chn = s.chn ∧ (droneRestarted s).sec = s.sec ∧ (droneRestarted
    s).pins = s.pins ∧ (droneRestarted s).poison = s.poison ∧ (droneRestarted s).rowsMarked = s.rowsMarked ∧ (droneRestarted
    s).rowCorrected = s.rowCorrected ∧ (droneRestarted s).unitCorrected = s.unitCorrected ∧ (droneRestarted s).tierLow =
    s.tierLow ∧ (droneRestarted s).parityCells = s.parityCells ∧ (droneRestarted s).accs = s.accs ∧ (droneRestarted s).accSet
    = s.accSet ∧ (droneRestarted s).bells = s.bells ∧ (droneRestarted s).contexts = s.contexts ∧ (droneRestarted s).nextLead
    = s.nextLead := by
  unfold droneRestarted
  repeat' constructor

@[simp] theorem chnMod_chn {f : Chanter → Chanter} {s : State} :
    (chnMod f s).chn = f s.chn := rfl
@[simp] theorem chnMod_others {f : Chanter → Chanter} {s : State} :
    (chnMod f s).pending = s.pending ∧ (chnMod f s).now = s.now ∧ (chnMod f s).tod = s.tod ∧ (chnMod f s).outbox = s.outbox ∧
    (chnMod f s).hostMem = s.hostMem ∧ (chnMod f s).hostPoison = s.hostPoison ∧ (chnMod f s).regs = s.regs ∧ (chnMod f
    s).latches = s.latches ∧ (chnMod f s).service = s.service ∧ (chnMod f s).msixTable = s.msixTable ∧ (chnMod f
    s).msixPending = s.msixPending ∧ (chnMod f s).windows = s.windows ∧ (chnMod f s).queues = s.queues ∧ (chnMod f s).cmds =
    s.cmds ∧ (chnMod f s).nextCmd = s.nextCmd ∧ (chnMod f s).reports = s.reports ∧ (chnMod f s).rings = s.rings ∧ (chnMod f
    s).evRings = s.evRings ∧ (chnMod f s).classes = s.classes ∧ (chnMod f s).lastUrg = s.lastUrg ∧ (chnMod f s).ledgers =
    s.ledgers ∧ (chnMod f s).domains = s.domains ∧ (chnMod f s).crook = s.crook ∧ (chnMod f s).colls = s.colls ∧ (chnMod f
    s).progs = s.progs ∧ (chnMod f s).tables = s.tables ∧ (chnMod f s).srings = s.srings ∧ (chnMod f s).engines = s.engines ∧
    (chnMod f s).bag = s.bag ∧ (chnMod f s).cst = s.cst ∧ (chnMod f s).blw = s.blw ∧ (chnMod f s).sec = s.sec ∧ (chnMod f
    s).pins = s.pins ∧ (chnMod f s).poison = s.poison ∧ (chnMod f s).rowsMarked = s.rowsMarked ∧ (chnMod f s).rowCorrected =
    s.rowCorrected ∧ (chnMod f s).unitCorrected = s.unitCorrected ∧ (chnMod f s).tierLow = s.tierLow ∧ (chnMod f
    s).parityCells = s.parityCells ∧ (chnMod f s).accs = s.accs ∧ (chnMod f s).accSet = s.accSet ∧ (chnMod f s).bells =
    s.bells ∧ (chnMod f s).contexts = s.contexts ∧ (chnMod f s).nextLead = s.nextLead := by
  unfold chnMod
  repeat' constructor

@[simp] theorem secMod_sec {f : Security → Security} {s : State} :
    (secMod f s).sec = f s.sec := rfl
@[simp] theorem secMod_others {f : Security → Security} {s : State} :
    (secMod f s).pending = s.pending ∧ (secMod f s).now = s.now ∧ (secMod f s).tod = s.tod ∧ (secMod f s).outbox = s.outbox ∧
    (secMod f s).hostMem = s.hostMem ∧ (secMod f s).hostPoison = s.hostPoison ∧ (secMod f s).regs = s.regs ∧ (secMod f
    s).latches = s.latches ∧ (secMod f s).service = s.service ∧ (secMod f s).msixTable = s.msixTable ∧ (secMod f
    s).msixPending = s.msixPending ∧ (secMod f s).windows = s.windows ∧ (secMod f s).queues = s.queues ∧ (secMod f s).cmds =
    s.cmds ∧ (secMod f s).nextCmd = s.nextCmd ∧ (secMod f s).reports = s.reports ∧ (secMod f s).rings = s.rings ∧ (secMod f
    s).evRings = s.evRings ∧ (secMod f s).classes = s.classes ∧ (secMod f s).lastUrg = s.lastUrg ∧ (secMod f s).ledgers =
    s.ledgers ∧ (secMod f s).domains = s.domains ∧ (secMod f s).crook = s.crook ∧ (secMod f s).colls = s.colls ∧ (secMod f
    s).progs = s.progs ∧ (secMod f s).tables = s.tables ∧ (secMod f s).srings = s.srings ∧ (secMod f s).engines = s.engines ∧
    (secMod f s).bag = s.bag ∧ (secMod f s).cst = s.cst ∧ (secMod f s).blw = s.blw ∧ (secMod f s).chn = s.chn ∧ (secMod f
    s).pins = s.pins ∧ (secMod f s).poison = s.poison ∧ (secMod f s).rowsMarked = s.rowsMarked ∧ (secMod f s).rowCorrected =
    s.rowCorrected ∧ (secMod f s).unitCorrected = s.unitCorrected ∧ (secMod f s).tierLow = s.tierLow ∧ (secMod f
    s).parityCells = s.parityCells ∧ (secMod f s).accs = s.accs ∧ (secMod f s).accSet = s.accSet ∧ (secMod f s).bells =
    s.bells ∧ (secMod f s).contexts = s.contexts ∧ (secMod f s).nextLead = s.nextLead := by
  unfold secMod
  repeat' constructor

@[simp] theorem pinMod_pins {f : Pins → Pins} {s : State} :
    (pinMod f s).pins = f s.pins := rfl
@[simp] theorem pinMod_others {f : Pins → Pins} {s : State} :
    (pinMod f s).pending = s.pending ∧ (pinMod f s).now = s.now ∧ (pinMod f s).tod = s.tod ∧ (pinMod f s).outbox = s.outbox ∧
    (pinMod f s).hostMem = s.hostMem ∧ (pinMod f s).hostPoison = s.hostPoison ∧ (pinMod f s).regs = s.regs ∧ (pinMod f
    s).latches = s.latches ∧ (pinMod f s).service = s.service ∧ (pinMod f s).msixTable = s.msixTable ∧ (pinMod f
    s).msixPending = s.msixPending ∧ (pinMod f s).windows = s.windows ∧ (pinMod f s).queues = s.queues ∧ (pinMod f s).cmds =
    s.cmds ∧ (pinMod f s).nextCmd = s.nextCmd ∧ (pinMod f s).reports = s.reports ∧ (pinMod f s).rings = s.rings ∧ (pinMod f
    s).evRings = s.evRings ∧ (pinMod f s).classes = s.classes ∧ (pinMod f s).lastUrg = s.lastUrg ∧ (pinMod f s).ledgers =
    s.ledgers ∧ (pinMod f s).domains = s.domains ∧ (pinMod f s).crook = s.crook ∧ (pinMod f s).colls = s.colls ∧ (pinMod f
    s).progs = s.progs ∧ (pinMod f s).tables = s.tables ∧ (pinMod f s).srings = s.srings ∧ (pinMod f s).engines = s.engines ∧
    (pinMod f s).bag = s.bag ∧ (pinMod f s).cst = s.cst ∧ (pinMod f s).blw = s.blw ∧ (pinMod f s).chn = s.chn ∧ (pinMod f
    s).sec = s.sec ∧ (pinMod f s).poison = s.poison ∧ (pinMod f s).rowsMarked = s.rowsMarked ∧ (pinMod f s).rowCorrected =
    s.rowCorrected ∧ (pinMod f s).unitCorrected = s.unitCorrected ∧ (pinMod f s).tierLow = s.tierLow ∧ (pinMod f
    s).parityCells = s.parityCells ∧ (pinMod f s).accs = s.accs ∧ (pinMod f s).accSet = s.accSet ∧ (pinMod f s).bells =
    s.bells ∧ (pinMod f s).contexts = s.contexts ∧ (pinMod f s).nextLead = s.nextLead := by
  unfold pinMod
  repeat' constructor

@[simp] theorem earlierFreed_tables {s : State} :
    (earlierFreed s).tables = s.tables.map (fun p => (p.1, { p.2 with earlier := [] })) := rfl
@[simp] theorem earlierFreed_others {s : State} :
    (earlierFreed s).pending = s.pending ∧ (earlierFreed s).now = s.now ∧ (earlierFreed s).tod = s.tod ∧ (earlierFreed
    s).outbox = s.outbox ∧ (earlierFreed s).hostMem = s.hostMem ∧ (earlierFreed s).hostPoison = s.hostPoison ∧ (earlierFreed
    s).regs = s.regs ∧ (earlierFreed s).latches = s.latches ∧ (earlierFreed s).service = s.service ∧ (earlierFreed
    s).msixTable = s.msixTable ∧ (earlierFreed s).msixPending = s.msixPending ∧ (earlierFreed s).windows = s.windows ∧
    (earlierFreed s).queues = s.queues ∧ (earlierFreed s).cmds = s.cmds ∧ (earlierFreed s).nextCmd = s.nextCmd ∧
    (earlierFreed s).reports = s.reports ∧ (earlierFreed s).rings = s.rings ∧ (earlierFreed s).evRings = s.evRings ∧
    (earlierFreed s).classes = s.classes ∧ (earlierFreed s).lastUrg = s.lastUrg ∧ (earlierFreed s).ledgers = s.ledgers ∧
    (earlierFreed s).domains = s.domains ∧ (earlierFreed s).crook = s.crook ∧ (earlierFreed s).colls = s.colls ∧
    (earlierFreed s).progs = s.progs ∧ (earlierFreed s).srings = s.srings ∧ (earlierFreed s).engines = s.engines ∧
    (earlierFreed s).bag = s.bag ∧ (earlierFreed s).cst = s.cst ∧ (earlierFreed s).blw = s.blw ∧ (earlierFreed s).chn = s.chn
    ∧ (earlierFreed s).sec = s.sec ∧ (earlierFreed s).pins = s.pins ∧ (earlierFreed s).poison = s.poison ∧ (earlierFreed
    s).rowsMarked = s.rowsMarked ∧ (earlierFreed s).rowCorrected = s.rowCorrected ∧ (earlierFreed s).unitCorrected =
    s.unitCorrected ∧ (earlierFreed s).tierLow = s.tierLow ∧ (earlierFreed s).parityCells = s.parityCells ∧ (earlierFreed
    s).accs = s.accs ∧ (earlierFreed s).accSet = s.accSet ∧ (earlierFreed s).bells = s.bells ∧ (earlierFreed s).contexts =
    s.contexts ∧ (earlierFreed s).nextLead = s.nextLead := by
  unfold earlierFreed
  repeat' constructor

@[simp] theorem regionsLost_domains {s : State} :
    (regionsLost s).domains = s.domains.map (fun p => (p.1, domainFresh p.2)) := rfl
@[simp] theorem regionsLost_others {s : State} :
    (regionsLost s).pending = s.pending ∧ (regionsLost s).now = s.now ∧ (regionsLost s).tod = s.tod ∧ (regionsLost s).outbox
    = s.outbox ∧ (regionsLost s).hostMem = s.hostMem ∧ (regionsLost s).hostPoison = s.hostPoison ∧ (regionsLost s).regs =
    s.regs ∧ (regionsLost s).latches = s.latches ∧ (regionsLost s).service = s.service ∧ (regionsLost s).msixTable =
    s.msixTable ∧ (regionsLost s).msixPending = s.msixPending ∧ (regionsLost s).windows = s.windows ∧ (regionsLost s).queues
    = s.queues ∧ (regionsLost s).cmds = s.cmds ∧ (regionsLost s).nextCmd = s.nextCmd ∧ (regionsLost s).reports = s.reports ∧
    (regionsLost s).rings = s.rings ∧ (regionsLost s).evRings = s.evRings ∧ (regionsLost s).classes = s.classes ∧
    (regionsLost s).lastUrg = s.lastUrg ∧ (regionsLost s).ledgers = s.ledgers ∧ (regionsLost s).crook = s.crook ∧
    (regionsLost s).colls = s.colls ∧ (regionsLost s).progs = s.progs ∧ (regionsLost s).tables = s.tables ∧ (regionsLost
    s).srings = s.srings ∧ (regionsLost s).engines = s.engines ∧ (regionsLost s).bag = s.bag ∧ (regionsLost s).cst = s.cst ∧
    (regionsLost s).blw = s.blw ∧ (regionsLost s).chn = s.chn ∧ (regionsLost s).sec = s.sec ∧ (regionsLost s).pins = s.pins ∧
    (regionsLost s).poison = s.poison ∧ (regionsLost s).rowsMarked = s.rowsMarked ∧ (regionsLost s).rowCorrected =
    s.rowCorrected ∧ (regionsLost s).unitCorrected = s.unitCorrected ∧ (regionsLost s).tierLow = s.tierLow ∧ (regionsLost
    s).parityCells = s.parityCells ∧ (regionsLost s).accs = s.accs ∧ (regionsLost s).accSet = s.accSet ∧ (regionsLost
    s).bells = s.bells ∧ (regionsLost s).contexts = s.contexts ∧ (regionsLost s).nextLead = s.nextLead := by
  unfold regionsLost
  repeat' constructor

end Sys2Proof.Machine
end

