-- ==== Sys2Proof/Laws/Tables.lean ====
section
/-! SUPPORT. What reading gives after a change: tables by number, the register file, and the commands of the queue store. -/

namespace Sys2Proof.Machine

section
variable {α : Type}

@[simp] theorem tget_nil {n : Nat} : tget ([] : Table α) n = none := rfl
@[simp] theorem tget_cons {k n : Nat} {a : α} {t : Table α} : tget ((k, a) :: t) n = if k = n then some a else tget t n := rfl

@[simp] theorem tget_tset_same {t : Table α} {n : Nat} {a : α} : tget (tset t n a) n = some a := by
  induction t with
  | nil => simp [tset]
  | cons p t ih =>
    obtain ⟨k, b⟩ := p
    rw [tset]
    split
    · simp
    · split
      · simp
      · rw [tget_cons, if_neg (by omega), ih]

theorem tget_tset_other {t : Table α} {n m : Nat} {a : α} (h : m ≠ n) : tget (tset t n a) m = tget t m := by
  induction t with
  | nil => simp [tset, Ne.symm h]
  | cons p t ih =>
    obtain ⟨k, b⟩ := p
    rw [tset]
    split
    · rw [tget_cons, if_neg (Ne.symm h)]
    · split
      · rename_i h2; subst h2; rw [tget_cons, tget_cons, if_neg (Ne.symm h), if_neg (Ne.symm h)]
      · rw [tget_cons, tget_cons, ih]

theorem tget_tset {t : Table α} {n m : Nat} {a : α} : tget (tset t n a) m = if m = n then some a else tget t m := by
  by_cases h : m = n
  · subst h; simp
  · simp [h, tget_tset_other h]

theorem tget_tmod {t : Table α} {n m : Nat} {f : α → α} :
    tget (tmod t n f) m = if m = n then (tget t m).map f else tget t m := by
  induction t with
  | nil => simp [tmod]
  | cons p t ih =>
    obtain ⟨k, b⟩ := p
    have e : tmod ((k, b) :: t) n f = (if k = n then (k, f b) else (k, b)) :: tmod t n f := rfl
    rw [e]
    by_cases hk : k = n
    · rw [if_pos hk, tget_cons, tget_cons, ih]
      by_cases hm : k = m
      · subst hm; simp [hk]
      · rw [if_neg hm, if_neg hm]
    · rw [if_neg hk, tget_cons, tget_cons, ih]
      by_cases hm : k = m
      · subst hm; simp [hk]
      · rw [if_neg hm, if_neg hm]

theorem tget_tdel {t : Table α} {n m : Nat} : tget (tdel t n) m = if m = n then none else tget t m := by
  induction t with
  | nil => simp [tdel]
  | cons p t ih =>
    obtain ⟨k, b⟩ := p
    have e : tdel ((k, b) :: t) n = if k ≠ n then (k, b) :: tdel t n else tdel t n := by
      unfold tdel; rw [List.filter_cons]; simp
    rw [e]
    by_cases hk : k = n
    · rw [if_neg (by simp [hk]), ih, tget_cons]
      by_cases hm : m = n
      · simp [hm]
      · rw [if_neg hm, if_neg hm, if_neg (by omega)]
    · rw [if_pos hk, tget_cons, tget_cons, ih]
      by_cases hm : k = m
      · subst hm; simp [hk]
      · rw [if_neg hm, if_neg hm]

end

@[simp] theorem regGet_regSet_same {o : Nat} {v : Word64} {s : State} : regGet (regSet o v s) o = v := by
  simp [regGet, regSet]

theorem regGet_regSet {o o' : Nat} {v : Word64} {s : State} : regGet (regSet o v s) o' = if o' = o then v else regGet s o' := by
  by_cases h : o' = o
  · subst h; simp
  · simp [regGet, regSet, h, tget_tset_other h]

/-- The number of a command never changes. -/
theorem cmdGet_cmdMod {c d : Nat} {f : Cmd → Cmd} {s : State} (hf : ∀ x, (f x).id = x.id) :
    cmdGet (cmdMod c f s) d = if d = c then (cmdGet s d).map f else cmdGet s d := by
  unfold cmdGet cmdMod
  dsimp only
  induction s.cmds with
  | nil => simp
  | cons x t ih =>
    rw [List.map_cons, List.find?_cons, List.find?_cons]
    by_cases hx : x.id = c
    · rw [if_pos hx]
      by_cases hd : x.id = d
      · have : d = c := by omega
        simp [hf, hd, this]
      · simp [hf, hd, ih]
    · rw [if_neg hx]
      by_cases hd : x.id = d
      · have : d ≠ c := by omega
        simp [hd, this]
      · simp [hd, ih]

theorem cmdGet_id {s : State} {c : Nat} {x : Cmd} (h : cmdGet s c = some x) : x.id = c := by
  have := List.find?_some h
  simpa using this

end Sys2Proof.Machine
end

