-- ==== Sys2Proof/WellFormed.lean ====
section
/-! DEFINITION. Which commands the block's interfaces can carry: the ranges of numbers, lengths and codes that the spec gives each
row's operands. A meaning takes any operand; a command outside these ranges is one that no link, pin or unit can send. -/

namespace Sys2Proof

/-- A ring's number (R77, R84). -/
def RingId.wf : RingId → Bool
  | .cq n => n < 4096
  | .ev e => e < 8

/-- Kinds of Table 17.6 and 17.7, and the numbers of their units. -/
def UnitId.wf (u : UnitId) : Bool :=
  match u.kind with
  | 1 => u.logical < 32 * 16 * 128 && u.logical % 128 < 65
  | 2 => u.logical < 32
  | 3 => u.logical < 32
  | 4 => u.logical < 128
  | 5 => u.logical / 32 < 16 && (u.logical / 32 < 12 || u.logical % 32 < 16)
  | 6 => u.logical < 8
  | 7 => u.logical < 184
  | 8 => u.logical < 96
  | 9 => u.logical % 64 < 62
  | 10 => u.logical < 3
  | _ => false

/-- A page size that ATS can give: a power of two from 4 KiB (R361, R362). -/
def AtsAnswer.wf : AtsAnswer → Bool
  | .page size bus _ _ _ => size ≠ 0 && size % 4096 = 0 && (List.range 52).any (fun k => size = 2 ^ (12 + k)) && bus % size = 0
  | .failed _ => true

/-- A region-table granule holds eight entries (R358). -/
def TableAnswer.wf : TableAnswer → Bool
  | .entries es => es.length = 8
  | _ => true

/-- Fields of a packet header (Table 15.1). -/
def PktHdr.wf (h : PktHdr) : Bool :=
  h.ver < 256 && h.ptype < 256 && h.conn < 2 ^ 32 && h.psn < 2 ^ 32 && h.ackPsn < 2 ^ 32 && h.msgId < 2 ^ 32 && h.msgOff < 2 ^ 32
    && h.msgLen < 2 ^ 32

/-- A sensor's temperature in 0.1 °C fits its signed 16-bit field (BLW_TEMP). -/
def tempWf (t : Int) : Bool := -32768 ≤ t && t ≤ 32767

/-- A peer-table index (R388). -/
def peerWf (i : Nat) : Bool := i < 1024

/-- A host access lies in its BAR (R66, R86 numbering: 0 BAR0, 1 BAR2, 2 BAR4) and carries 1 to 4,096 bytes. -/
def accessWf (bar off n : Nat) : Bool :=
  1 ≤ n && n ≤ 4096 && (match bar with
    | 0 => off + n ≤ 2 ^ 26
    | 1 => off + n ≤ 2 ^ 23
    | 2 => off + n ≤ 2 ^ 16
    | _ => false)

/-- The operands of a command are within the spec's ranges. -/
def Instr.wf : Instr → Bool
  | .commit o data => accessWf 1 o data.length
  | .cqHeadWrite q _ => q < 32768
  | .evrHeadWrite e _ => e < 8
  | .ringContextWord0Write r _ | .ringContextWord1Write r _ =>
    match r with
    | .cq n => n = 0
    | .ev e => e < 8
  | .ringZeroingDone r | .coalesceTimerExpiry r => r.wf
  | .blkErrClear page _ => page < 16384
  | .boreDebugWrite cluster _ => cluster < 32
  | .registerWrite bar o data => accessWf bar o data.length
  | .registerRead bar o size => accessWf bar o size
  | .startDecision home => home < 32
  | .msixUnmask v => v < 2048
  | .slideIssue engine port _ bytes => engine < 32 && port < 79 && 1 ≤ bytes && bytes ≤ 16384
  | .transferLanded engine ring slot _ _ => engine < 32 && ring < 64 && slot < 16
  | .streamDeadlock rings => rings ≠ [] && rings.all (fun r => r.1 < 32 && r.2 < 64)
  | .localListHandover _ group reed => group < 16 && reed < 32
  | .valveMerge _ tower => tower.all (· < 4)
  | .spillReduction _ tower => tower < 4
  | .contextMoved a b => a < 128 && b < 128
  | .accParityError cluster row col => cluster < 32 && row < 256 && col < 256
  | .columnSpared cluster tile col cause => cluster < 32 && tile < 16 && col < 64 && 1 ≤ cause && cause ≤ 9
  | .foldStart h | .foldAgeExpiry h | .foldCommit h | .slotRelease h | .patchApply h | .compactionTrigger h _
  | .tombstoneSettlement h | .reencodeStep h | .reencodeDone h | .repartition h | .indexBuild h => h < 4096
  | .dataRepaired h slot _ _ _ _ => h < 4096 && slot < 2 ^ 32
  | .tablePaused t cluster bankByte => t < 4096 && cluster < 32 && bankByte < 2 ^ 32
  | .tableResumed t _ _ => t < 4096
  | .tierUe tier chan _ _ _ => (tier = 0 && chan < 12) || (tier = 1 && chan < 64) || (tier = 2 && chan < 4)
  | .tierScrub tier chan _ _ pct _ => ((tier = 0 && chan < 12) || (tier = 1 && chan < 64)) && pct ≤ 100
  | .rowRepaired tier chan _ => (tier = 0 && chan < 12) || (tier = 1 && chan < 64)
  | .unitSelfTest u _ | .unitHang u | .unitReturn u | .unitSleep u | .unitWake u => u.wf
  | .unitRetired u cause => u.wf && 1 ≤ cause && cause ≤ 9
  | .monitorSample rail slowest _ _ => rail < 5 && slowest < 65536
  | .floorWindow counts => counts.length = 5
  | .floorLost rail _ | .floorRestored rail => rail < 5
  | .paceWear u _ => u.wf
  | .phaseSpared phase => phase < 200
  | .temperatureSample die dieT stack stackT _ => die < 9 && tempWf dieT && stack < 12 && tempWf stackT
  | .memberFailed whole channel die _ => whole < 3 && channel < 18 && die < 17
  | .rebuildDone channel _ => channel < 18
  | .stripeLost _ member _ _ _ => member < 18
  | .coldStart f => f.selfTest.all UnitId.wf
  | .linkChanged rate width _ _ => Machine.linkSupports rate width
  | .fatalError block number _ => block < 65536 && number < 256
  | .atsTranslationCompletion dom va a _ => dom < 256 && va < 2 ^ 64 && a.wf
  | .pageRequestResponse dom va _ | .pageRequestTimeout dom va => dom < 256 && va < 2 ^ 64
  | .regionTableReadDone dom va a => dom < 256 && va < 2 ^ 64 && a.wf
  | .atsInvalidateRequest pasid base _ => pasid.all (· < 2 ^ 20) && base < 2 ^ 64
  | .laneSpared port lane _ => port < 12 && lane < 8
  | .cablePresenceChange port _ _ | .portState port _ => port < 12
  | .hello peer conn shard portsUp | .helloAck peer conn shard portsUp => peerWf peer && conn < 2 ^ 32 && shard < 4096 && portsUp < 4096
  | .close peer | .resendTimeout peer | .connectionDown peer | .helloRetry peer | .rateIncrease peer | .event peer
  | .ackDelayTimer peer => peerWf peer
  | .ack peer ackPsn _ _ => peerWf peer && ackPsn < 2 ^ 32
  | .subq peer request subKind coll shardId _ _ deadlineUs codeBits encVersion encNext params codes rq filter tset =>
    peerWf peer && request < 2 ^ 32 && subKind < 256 && coll < 4096 && shardId < 4096 && deadlineUs < 2 ^ 32 && codeBits < 65536
      && encVersion < 65536 && encNext < 65536 && params.length + codes.length + rq.length + filter.length + 2 * tset.length < 2 ^ 32
  | .subres peer request _ _ => peerWf peer && request < 2 ^ 32
  | .rcmd peer q cmd _ => peerWf peer && q < 32768 && cmd.length = 128
  | .rcpl peer q => peerWf peer && q < 32768
  | .reject peer q reason nextSeq => peerWf peer && q < 65536 && reason < 65536 && nextSeq < 65536
  | .mrec peer recs => peerWf peer && recs ≠ []
  | .mack peer seq => peerWf peer && seq < 2 ^ 64
  | .mfetch peer first last => peerWf peer && first ≤ last
  | .mtrim peer _ dead => peerWf peer && dead.all (fun r => r.1 ≤ r.2)
  | .getState t | .off t | .coldReset t | .mgmtWarmReset t | .holdSet t | .holdClear t | .format t => t < 3
  | .mgmtSetTime t seconds => t < 3 && seconds < 2 ^ 64
  | .kekSet t generation _ => t < 3 && generation < 2 ^ 32
  | .debugEnable t serial _ => t < 3 && serial < 2 ^ 32
  | .firmwareUpdate component svn _ _ => 1 ≤ component && component ≤ 2 && svn < 64
  | .activateFirmware component => 1 ≤ component && component ≤ 2
  | .spdmRequest t code _ => t < 4 && code < 256
  | .spdmSessionTimeout t => t < 4
  | .urgTokenBucketFill dom => dom < 256
  | .slideBucketFill engine _ _ => engine < 32
  | .managementControllerPowerUp straps => straps < 8
  | .mctpControl t eid | .pldmSetEventReceiver t eid => t < 3 && eid < 256
  | .addressResolutionRequest port ipHi ipLo => port < 12 && ipHi < 2 ^ 64 && ipLo < 2 ^ 64
  | .dataPacket peer _ port hdr payload _ => peerWf peer && port < 12 && hdr.wf && payload.length ≤ 4096
  | .portEnableWrite _ | .crkBootLenWrite _ | .wwyLedgerSelWrite _ | .blwCalSelWrite _ | .blwOfsTrimWrite _ | .blwOfsTapWrite _
  | .blwFloorWrite _ | .blwCapWrite _ | .blwVtargetWrite _ | .blwGuardWrite _ | .cstPeerCtlWrite _ | .cstMirrorWrite _
  | .cstShardWrite _ => true
  | .refusalScan | .completionPost _ | .nop _ | .flush _ | .barrier _ | .collCreate _ | .collDrop _ | .collQuery _
  | .collConfigPlacement _ | .collConfigIndexKind _ | .collConfigGrant _ | .collConfigRevoke _ | .insert _ | .insertBatch _
  | .delete _ | .upsert _ | .lookup _ | .setAttr _ | .journalWrite _ | .searchFlat _ | .searchGraph _ | .searchFanout _
  | .searchBatch _ | .rerank _ | .encode _ | .progLoadLoad _ | .progLoadRetire _ | .tableLoad _ | .tableSwap _
  | .consolidateFold _ | .consolidateCompact _ | .consolidateSet _ | .consolidateReport _ | .reencode _ | .checkpointNow _
  | .checkpointSetInterval _ | .exportCmd _ | .importCmd _ | .xlatInvalidate _ | .regionRegister _ | .regionRelease _
  | .readDeferred _ | .readLog _ | .domainCreate _ | .domainDestroy _ | .queueCreate _ | .queueDestroy _ | .cqCreate _
  | .cqDestroy _ | .cqEnable _ | .classConfig _ | .abort _ | .adminSetTime _ | .queryLimits _ | .keyLoad _ | .keyClear _
  | .fabricKey _ | .accountRead _ | .securityState _ => true
  | .blockListPieceArrival _ | .resourceWaitTimeout _ | .scanBlockScored _ _ | .walkRoundCommit _ | .deadlineCut _
  | .boreRegionDrained _ | .splitCombine _ | .barrierAcknowledged _ | .autoEvaluation | .checkpointWaitExpiry _
  | .nodeReadArrival _ _ => true
  | .powerSample _ _ | .powerPeak _ _ | .coolantValveUpdate _ | .ucalSave | .ucalSaveDone _ | .ucalFactory | .stripeProgrammed
  | .drainTimeout | .journalPoison _ _ | .checkpointTimer | .checkpointDone | .logCleaning _ | .flashScrub _ _ _ _
  | .holdupMeasurement _ _ | .holdupChargeTimeout | .holdupThresholdReached _ | .powerLoss | .dumpSealed | .pwrfailAssert _
  | .overvoltage | .mateBreak | .inputSwitchClose | .restartAfterSeal | .warmReset _ | .perstBeforeReady | .functionLevelReset
  | .resetReportPost | .invalidationDrained _ _ | .atsEnableCleared | .mirrorTimeout | .perstDeassert | .priEnableSet
  | .mapSaveDone _ => true

end Sys2Proof
end

