-- ==== Sys2Proof/Tests/Slice0.lean ====
section
/-! SUPPORT. Tests of the model, each about one function or one step on a small state, and for every statement of Obligations.lean
that has hypotheses a state and operands that meet those of each of its clauses together (witness_<statement>_<clause>). Expected
values come from the spec's rules, tables and worked examples. -/

open Sys2Proof Sys2Proof.Machine
open Sys2Proof.Machine (Ring)

namespace Sys2Proof.Tests

set_option Elab.async false
set_option linter.all false


/-! ## States and commands for the witnesses -/

/-- The answer is a result. -/
def isOk {α : Type} : Res α → Bool
  | .ok _ _ => true
  | _ => false

def resState {α : Type} : Res α → State
  | .ok _ s => s
  | .fail _ _ s => s
  | .wait s => s

def resVal {α : Type} : (r : Res α) → isOk r = true → α
  | .ok a _, _ => a
  | .fail _ _ _, h => nomatch h
  | .wait _, h => nomatch h

theorem res_ok {α : Type} {r : Res α} (h : isOk r = true) : r = .ok (resVal r h) (resState r) := by
  cases r with
  | ok a s => rfl
  | fail a b s => cases h
  | wait s => cases h

/-- The fields of a command or a descriptor: offset and value, all else zero. -/
def packed (n : Nat) (fs : List (Nat × Nat)) : List Byte := leBytes n (fs.foldl (fun a p => a + p.2 * 2 ^ (8 * p.1)) 0)

/-- The module ready, its port enabled, and the boot region of D0 over the first GiB, translated to itself. -/
def ready : State :=
  { State.reset with
    chn := { State.reset.chn with stage := 6 }
    regs := [(reg .mpc 0 0x010, 1), (reg .crk 0 0x108, 2 ^ 30)] }

/-- A command of queue 0 in execution. -/
def mk (op : Nat) (fs : List (Nat × Nat)) : Cmd := { newCmd 1 0 (packed 128 ((0, op) :: fs)) 0 0 with phase := .executing }

/-- `ready` with commands in the queue store. -/
def busy (xs : List Cmd) : State := { ready with cmds := xs }

theorem begun {s : State} {x : Cmd} {op : Nat} (h : running s x.id op = some x ∧ x.work = .none) : Begun s x op := h

theorem res_unit {r : Res Unit} (h : isOk r = true) : r = .ok () (resState r) := by
  cases r with
  | ok a s => rfl
  | fail a b s => cases h
  | wait s => cases h

theorem res_wait {α : Type} {r : Res α} (h : (match r with | .wait _ => true | _ => false) = true) : r = .wait (resState r) := by
  cases r <;> first | rfl | cases h

def failStatus {α : Type} : Res α → Nat
  | .fail n _ _ => n
  | _ => 0

def failFault {α : Type} : Res α → Option CmdFault
  | .fail _ f _ => f
  | _ => none

theorem res_fail {α : Type} {r : Res α} (h : (match r with | .fail _ _ _ => true | _ => false) = true) :
    r = .fail (failStatus r) (failFault r) (resState r) := by
  cases r <;> first | rfl | cases h

def recState : RecRes → State
  | .done s => s
  | .fault _ _ s => s
  | .wait s => s

theorem done_ok {r : RecRes} (h : (match r with | .done _ => true | _ => false) = true) : r = .done (recState r) := by
  cases r <;> first | rfl | cases h


/-- A collection without entries: 64-bit codes, vectors of one element of format 4, no index. -/
def coll0 : Coll :=
  { codeBits := 64, srcDim := 1, srcFormat := 4, placement := 0, indexKind := 0, partMode := 0, degree := 32, encVersion := 0,
    encNext := 0xFFFF, epochBase := 0, centroid := 0, entryTbl := 0xFFFF, centroidGen := 0, centroids := [], owner := 0,
    incomplete := false, migrating := false, building := false, buildGraph := false, viewEpoch := 1, lastCut := 0, sideHw := 65536,
    ageMs := 1000, tombPm := 100, grants := [], entries := [], tombs := [],
    arr := { epoch := 1, parts := [], nodes := [], entrySet := [], side := [], tombLog := [] },
    releases := [], run := none, moves := [], patches := [], posted := 0, journaled := 0, recoded := 0, recodeLost := 0,
    sideHigh := false, dropping := false }

/-- `busy` with collection 0 and program 0. -/
def withColl (k : Coll) (xs : List Cmd) : State :=
  { busy xs with
    colls := [(0, k)]
    progs := [(0, { domain := 0, image := packed 128 [(0, 1), (2, 1), (4, 4), (6, 64)], batch := 0, lost := none })] }

def dom1 : Domain := { domainZero with pasid := 1 }
def ring1 : Ring := { ringReset with sizeLog2 := 7, base := 4096 }

theorem witness_TranslationCommandRows_1 :
    ∃ (s : State) (x : Cmd), Begun s x 0x60 ∧ ((cf x 32 2 = domOf s x ∨ domOf s x = 0)) ∧ (tget s.domains (cf x 32 2)).isSome = true :=
  ⟨(busy [(mk 96 [(24, 4096)])]), (mk 96 [(24, 4096)]), begun (by decide +kernel), by decide +kernel, by decide +kernel⟩

theorem witness_TranslationCommandRows_2 :
    ∃ (s : State) (x : Cmd) (d : Domain), Begun s x 0x61 ∧ tget s.domains (domOf s x) = some d
      ∧ (d.regions ++ regionsDue s x ++ (if domOf s x = 0 then [bootRegion s] else [])).any (overlaps (cf x 16 8) (cf x 24 8)) = false
      ∧ (d.regions ++ regionsDue s x).length < d.maxRegions ∧ ((cf x 33 1 = 1 → d.mirrorOk = true))
      ∧ ((cf x 33 1 ≠ 1 → d.atsOk = true ∧ s.crook.atsEnable = true)) :=
  ⟨(busy [(mk 97 [(16, 1073741824), (24, 4096), (32, 3), (33, 1)])]), (mk 97 [(16, 1073741824), (24, 4096), (32, 3), (33, 1)]), domainZero,
   begun (by decide +kernel), by decide +kernel, by decide +kernel, (by decide +kernel), by decide +kernel, by decide +kernel⟩

theorem witness_TranslationCommandRows_3 :
    ∃ (s : State) (x : Cmd) (d : Domain) (g : Region), Begun s x 0x62 ∧ tget s.domains (domOf s x) = some d
      ∧ d.regions.find? (fun r => r.base = cf x 16 8) = some g ∧ ringIn s (domOf s x) g = false :=
  ⟨
   { busy [(mk 98 [(16, 2147483648)])] with domains := [(0, { domainZero with regions := [{ base := 2 ^ 31, length := 4096, read := true, write := true, mirror := true, key := 0xFFFF, tableAddr := 0 }] })] },
   (mk 98 [(16, 2147483648)]),
   { domainZero with regions := [{ base := 2 ^ 31, length := 4096, read := true, write := true, mirror := true, key := 0xFFFF, tableAddr := 0 }] },
   { base := 2 ^ 31, length := 4096, read := true, write := true, mirror := true, key := 0xFFFF, tableAddr := 0 },
   begun (by decide +kernel), by decide +kernel, by decide +kernel, (by decide +kernel)⟩

theorem witness_TranslationCommandRows_4 :
    ∃ (s u : State) (x : Cmd) (d : Domain), Begun s x 0x70 ∧ tget s.domains (domOf s x) = some d
      ∧ (let sel := d.deferred.filter (fun e => cf x 28 2 = 0xFFFF || e.queue = cf x 28 2); (let es := (sel.filter (fun e => e.no < x.defBound)).take (cf x 24 4); writeDev (whoOf s x) (cf x 16 8) (leBytes 4 es.length ++ leBytes 4 (sel.length - es.length) ++ leBytes 8 d.lost ++ leBytes 16 0 ++ es.flatMap deferredBytes) s = .ok () u ∧ journalFits u (runsBounded u x) 128 = true)) :=
  ⟨(busy [(mk 112 [(24, 1), (28, 65535)])]), _, (mk 112 [(24, 1), (28, 65535)]), domainZero, begun (by decide +kernel), by decide +kernel,
   res_unit (by decide +kernel), (by decide +kernel)⟩

theorem witness_TranslationCommandRows_5 :
    ∃ (s u : State) (x : Cmd), Begun s x 0x71
      ∧ (let log := if cf x 37 1 = 0 then s.chn.recent else s.chn.persistent; (let sel := log.filter (fun e => e.seq ≥ cf x 28 8 && e.sev ≥ cf x 36 1 && (domOf s x = 0 || e.dom = domOf s x || e.dom = 0xFFFF)); writeDev (whoOf s x) (cf x 16 8) (leBytes 4 (sel.take (cf x 24 4)).length ++ leBytes 4 0 ++ leBytes 8 (((sel.drop (cf x 24 4)).head?.map Ev.seq).getD 0) ++ leBytes 8 ((log.head?.map Ev.seq).getD 0) ++ leBytes 40 0 ++ (sel.take (cf x 24 4)).flatMap (fun e => evBytes e false false)) s = .ok () u)) :=
  ⟨(busy [(mk 113 [(24, 1)])]), _, (mk 113 [(24, 1)]), begun (by decide +kernel), res_unit (by decide +kernel)⟩

theorem witness_AdminObjectRows_1 :
    ∃ (s : State) (x : Cmd), Begun s x 0x7F ∧ cSub x = 1 ∧ tget s.domains (cf x 16 2) = none ∧ journalFits s (runsBounded s x) 128 = true :=
  ⟨(busy [(mk 127 [(1, 1), (16, 1)])]), (mk 127 [(1, 1), (16, 1)]), begun (by decide +kernel), by decide +kernel, by decide +kernel,
   (by decide +kernel)⟩

theorem witness_AdminObjectRows_2 :
    ∃ (s : State) (x : Cmd) (k : Domain), Begun s x 0x7F ∧ cSub x = 2 ∧ tget s.domains (cf x 16 2) = some k
      ∧ domainInUse s (cf x 16 2) k = false ∧ journalFits s (runsBounded s x) 128 = true :=
  ⟨{ busy [(mk 127 [(1, 2), (16, 1)])] with domains := [(0, domainZero), (1, dom1)] }, (mk 127 [(1, 2), (16, 1)]), dom1,
   begun (by decide +kernel), by decide +kernel, by decide +kernel, (by decide +kernel), by decide +kernel⟩

theorem witness_AdminObjectRows_3 :
    ∃ (s : State) (x : Cmd) (k : Domain) (r : Ring), Begun s x 0x7F ∧ cSub x = 3 ∧ tget s.domains (cf x 18 2) = some k
      ∧ tget s.queues (cf x 16 2) = none ∧ tget s.rings (cf x 20 2) = some r ∧ r.domain = cf x 18 2 ∧ (¬(cf x 24 1 = 0 ∧ k.urgRate = 0))
      ∧ slotsReserved s + cf x 22 2 ≤ 262144 :=
  ⟨(busy [(mk 127 [(1, 3), (16, 1), (22, 64), (24, 1)])]), (mk 127 [(1, 3), (16, 1), (22, 64), (24, 1)]), domainZero, ringReset,
   begun (by decide +kernel), by decide +kernel, by decide +kernel, (by decide +kernel), by decide +kernel, by decide +kernel,
   by decide +kernel, (by decide +kernel)⟩

theorem witness_AdminObjectRows_4 :
    ∃ (s : State) (x : Cmd) (q : Queue), Begun s x 0x7F ∧ cSub x = 4 ∧ tget s.queues (cf x 16 2) = some q ∧ q.closing = false
      ∧ queueBusy s (cf x 16 2) = false :=
  ⟨{ busy [(mk 127 [(1, 4), (16, 5)])] with queues := [(0, queueZero), (5, queueZero)] }, (mk 127 [(1, 4), (16, 5)]), queueZero,
   begun (by decide +kernel), by decide +kernel, by decide +kernel, (by decide +kernel), by decide +kernel⟩

theorem witness_AdminObjectRows_5 :
    ∃ (s : State) (x : Cmd) (q : Queue), Begun s x 0x7F ∧ cSub x = 4 ∧ tget s.queues (cf x 16 2) = some q ∧ q.closing = false
      ∧ queueBusy s (cf x 16 2) = true ∧ ((∀ y ∈ s.cmds, y.id = x.id → y = x)) :=
  ⟨(busy [(mk 127 [(1, 4), (16, 0)])]), (mk 127 [(1, 4), (16, 0)]), queueZero, begun (by decide +kernel), by decide +kernel,
   by decide +kernel, (by decide +kernel), by decide +kernel, by decide +kernel⟩

theorem witness_AdminObjectRows_6 :
    ∃ (s : State) (x : Cmd), Begun s x 0x7F ∧ cSub x = 5 ∧ tget s.rings (cf x 16 2) = none ∧ badCtx s (cf x 16 2) x = none :=
  ⟨(busy [(mk 127 [(1, 5), (16, 1), (24, 4096), (32, 7)])]), (mk 127 [(1, 5), (16, 1), (24, 4096), (32, 7)]), begun (by decide +kernel),
   by decide +kernel, by decide +kernel, (by decide +kernel)⟩

theorem witness_AdminObjectRows_7 :
    ∃ (s : State) (x : Cmd), Begun s x 0x7F ∧ cSub x = 6 ∧ (tget s.rings (cf x 16 2)).isSome = true
      ∧ s.queues.any (fun q => q.2.ring = cf x 16 2) = false :=
  ⟨{ busy [(mk 127 [(1, 6), (16, 1)])] with rings := [(0, ringReset), (1, ring1)] }, (mk 127 [(1, 6), (16, 1)]), begun (by decide +kernel),
   by decide +kernel, by decide +kernel, (by decide +kernel)⟩

theorem witness_AdminObjectRows_8 :
    ∃ (s : State) (x : Cmd) (r : Ring), Begun s x 0x7F ∧ cSub x = 7 ∧ tget s.rings (cf x 16 2) = some r
      ∧ ((r.enabled = false → ctxValid s (.cq (cf x 16 2)) r true = true)) :=
  ⟨{ busy [(mk 127 [(1, 7), (16, 1)])] with rings := [(0, ringReset), (1, ring1)] }, (mk 127 [(1, 7), (16, 1)]), ring1,
   begun (by decide +kernel), by decide +kernel, by decide +kernel, (by decide +kernel)⟩

theorem witness_AdminValueRows_1 :
    ∃ (s : State) (x : Cmd), Begun s x 0x7F ∧ cSub x = 8 :=
  ⟨(busy [(mk 127 [(1, 8)])]), (mk 127 [(1, 8)]), begun (by decide +kernel), by decide +kernel⟩

theorem witness_AdminValueRows_2 :
    ∃ (s : State) (x : Cmd), Begun s x 0x7F ∧ cSub x = 9 ∧ (tget s.queues (cf x 16 2)).isSome = true ∧ ((∀ y ∈ s.cmds, y.id = x.id → y = x)) :=
  ⟨(busy [(mk 127 [(1, 9)])]), (mk 127 [(1, 9)]), begun (by decide +kernel), by decide +kernel, by decide +kernel, (by decide +kernel)⟩

theorem witness_AdminValueRows_3 :
    ∃ (s : State) (x : Cmd), Begun s x 0x7F ∧ cSub x = 0x0A :=
  ⟨(busy [(mk 127 [(1, 10)])]), (mk 127 [(1, 10)]), begun (by decide +kernel), by decide +kernel⟩

theorem witness_AdminValueRows_4 :
    ∃ (s u : State) (x : Cmd) (d : Domain), Begun s x 0x7F ∧ cSub x = 0x0B ∧ tget s.domains (cf x 24 2) = some d
      ∧ writeDev (whoOf s x) (cf x 16 8) (limitsBytes s d) s = .ok () u :=
  ⟨(busy [(mk 127 [(1, 11)])]), _, (mk 127 [(1, 11)]), domainZero, begun (by decide +kernel), by decide +kernel, by decide +kernel,
   res_unit (by decide +kernel)⟩

theorem witness_AdminValueRows_5 :
    ∃ (s : State) (x : Cmd) (gen : Nat) (kek : BitVec 256), Begun s x 0x7F ∧ cSub x = 0x20 ∧ keyLoaded s (cf x 16 1) = false
      ∧ s.sec.kek = some (gen, kek) ∧ gen = cf x 20 4 :=
  ⟨{ busy [(mk 127 [(1, 32), (16, 1)])] with sec := { State.reset.sec with kek := some (0, 5) } }, (mk 127 [(1, 32), (16, 1)]), 0, 5,
   begun (by decide +kernel), by decide +kernel, by decide +kernel, (by decide +kernel), by decide +kernel⟩

theorem witness_AdminValueRows_6 :
    ∃ (s : State) (x : Cmd), Begun s x 0x7F ∧ cSub x = 0x21 :=
  ⟨(busy [(mk 127 [(1, 33)])]), (mk 127 [(1, 33)]), begun (by decide +kernel), by decide +kernel⟩

theorem witness_AdminValueRows_7 :
    ∃ (s : State) (x : Cmd) (gen : Nat) (kek : BitVec 256), Begun s x 0x7F ∧ cSub x = 0x22 ∧ cstEnabled s = false
      ∧ s.sec.kek = some (gen, kek) ∧ gen = cf x 20 4 :=
  ⟨{ busy [(mk 127 [(1, 34)])] with sec := { State.reset.sec with kek := some (0, 5) } }, (mk 127 [(1, 34)]), 0, 5,
   begun (by decide +kernel), by decide +kernel, by decide +kernel, (by decide +kernel), by decide +kernel⟩

theorem witness_AdminValueRows_8 :
    ∃ (s u : State) (x : Cmd), Begun s x 0x7F ∧ cSub x = 0x23
      ∧ (let ds := if cf x 16 2 = 0xFFFF then s.domains else s.domains.filter (fun p => p.1 = cf x 16 2); ds ≠ [] ∧ writeDev (whoOf s x) (cf x 24 8) (ds.flatMap (fun p => accountBytes p.1 p.2)) s = .ok () u) :=
  ⟨(busy [(mk 127 [(1, 35)])]), _, (mk 127 [(1, 35)]), begun (by decide +kernel), by decide +kernel, by decide +kernel,
   res_unit (by decide +kernel)⟩

theorem witness_AdminValueRows_9 :
    ∃ (s u : State) (x : Cmd), Begun s x 0x7F ∧ cSub x = 0x24
      ∧ writeDev (whoOf s x) (cf x 24 8) (leBytes 64 (Config.securityBlock (securityValues s)).toNat) s = .ok () u :=
  ⟨(busy [(mk 127 [(1, 36)])]), _, (mk 127 [(1, 36)]), begun (by decide +kernel), by decide +kernel, res_unit (by decide +kernel)⟩

theorem witness_FloorRows_1 :
    ∃ (s : State) (r slow temp : Nat) (ofs : Int), r < 5 ∧ s.chn.stage ≠ 0 ∧ r < s.blw.rails.length :=
  ⟨ready, 4, 3000, 800, 0, by decide +kernel, by decide +kernel, by decide +kernel⟩

theorem witness_FloorRows_2 :
    ∃ (s : State) (counts : List Nat), ((∀ r < 5, keptMax s s.blw.floorReg s.blw.oldFloors * 100 ≤ counts.getD r 0)) :=
  ⟨ready, [14000, 14000, 14000, 14000, 14000], by decide +kernel⟩

theorem witness_FloorRows_3 :
    ∃ (s : State) (counts : List Nat) (r : Nat), r < 5 ∧ counts.getD r 0 < keptMax s s.blw.floorReg s.blw.oldFloors * 100 :=
  ⟨ready, [14000, 14000, 14000, 14000, 13999], 4, by decide +kernel, by decide +kernel⟩

theorem witness_FloorRows_4 :
    ∃ (s : State) (r best : Nat), r < 5 ∧ r ∉ s.blw.floorLost :=
  ⟨ready, 4, 0, by decide +kernel, by decide +kernel⟩

theorem witness_FloorRows_5 :
    ∃ (s : State) (r : Nat), r ∈ s.blw.floorLost :=
  ⟨{ ready with blw := { ready.blw with floorLost := [4] } }, 4, by decide +kernel⟩

theorem witness_FloorRows_6 :
    ∃ (s : State) (u : UnitId) (slow : Nat), paceRow u.kind ≠ 0 ∧ unitKnown u = true ∧ unitGone s u = false ∧ u ∉ s.blw.asleep ∧ 40 ≤ slow
      ∧ slow < 70 :=
  ⟨ready, { kind := 2, logical := 31 }, 69, by decide +kernel, by decide +kernel, by decide +kernel, (by decide +kernel), by decide +kernel,
   by decide +kernel⟩

theorem witness_FloorRows_7 :
    ∃ (s : State) (u : UnitId) (slow : Nat), paceRow u.kind ≠ 0 ∧ u.kind ≠ 1 ∧ unitKnown u = true ∧ unitGone s u = false ∧ u ∉ s.blw.asleep
      ∧ 70 ≤ slow :=
  ⟨ready, { kind := 2, logical := 31 }, 70, by decide +kernel, by decide +kernel, by decide +kernel, (by decide +kernel), by decide +kernel,
   by decide +kernel⟩

theorem witness_FloorRows_8 :
    ∃ (s : State) (phase l : Nat), phaseServes s phase = some l :=
  ⟨ready, 0, 0, by decide +kernel⟩

theorem witness_FloorRows_9 :
    ∃ (s : State) (v : Word64) (n : Nat), n = clampNat 100 170 (bits v.toNat 7 0) :=
  ⟨ready, 170, 170, by decide +kernel⟩

theorem witness_FloorRows_10 :
    ∃ (s : State) (v : Word64) (n : Nat), n = clampNat 10 50 (bits v.toNat 7 0) :=
  ⟨ready, 60, 50, by decide +kernel⟩

theorem witness_CollectionRows_1 :
    ∃ (s u v : State) (x : Cmd) (d : List Byte) (h tbl : Nat), Begun s x 0x10
      ∧ readClean (whoOf s x) (inputPage x) 2 (cf x 16 8) 128 s = .ok d u ∧ badDesc u d = none ∧ foreignDesc u (domOf s x) d = none
      ∧ leastFree (u.colls.map Prod.fst) 4097 0 = h ∧ h < 4096 ∧ (if fld d 8 1 = 0 then some 0xFFFF else freeTable u) = some tbl
      ∧ writeDev (whoOf s x) (cf x 16 8) (leBytes 2 h) u = .ok () v ∧ journalFits v (runsBounded v x) 192 = true :=
  ⟨{ withColl coll0 [(mk 16 [])] with hostMem := memWrite [] 0 (packed 128 [(2, 64), (4, 1), (6, 4)]) }, _, _, (mk 16 []), _, 1, 0xFFFF,
   begun (by decide +kernel), res_ok (by decide +kernel), by decide +kernel, (by decide +kernel), by decide +kernel, by decide +kernel,
   by decide +kernel, res_unit (by decide +kernel), by decide +kernel⟩

theorem witness_CollectionRows_2 :
    ∃ (s : State) (x : Cmd) (k : Coll), Begun s x 0x11 ∧ tget s.colls (cColl x) = some k ∧ collInUse s x = false
      ∧ journalFits s (runsBounded s x) 128 = true :=
  ⟨(withColl coll0 [(mk 17 [])]), (mk 17 []), coll0, begun (by decide +kernel), by decide +kernel, by decide +kernel, (by decide +kernel)⟩

theorem witness_CollectionRows_3 :
    ∃ (s u : State) (x : Cmd) (k : Coll), Begun s x 0x12 ∧ tget s.colls (cColl x) = some k
      ∧ writeDev (whoOf s x) (cf x 16 8) (descBytes s (cColl x) k) s = .ok () u :=
  ⟨(withColl coll0 [(mk 18 [])]), _, (mk 18 []), coll0, begun (by decide +kernel), by decide +kernel, res_unit (by decide +kernel)⟩

theorem witness_CollectionRows_4 :
    ∃ (s : State) (x : Cmd) (k : Coll), Begun s x 0x51 ∧ tget s.colls (cColl x) = some k ∧ k.migrating = false
      ∧ progSuits s (cf x 16 2) k.codeBits k.srcDim k.srcFormat = true
      ∧ (tget s.progs (cf x 16 2)).any (fun p => p.domain ≠ 0 && p.domain ≠ k.owner) = false ∧ journalFits s (runsBounded s x) 128 = true :=
  ⟨(withColl coll0 [(mk 81 [])]), (mk 81 []), coll0, begun (by decide +kernel), by decide +kernel, by decide +kernel, (by decide +kernel),
   by decide +kernel, by decide +kernel⟩

theorem witness_CollConfigRows_1 :
    ∃ (s : State) (x : Cmd) (k : Coll), Begun s x 0x13 ∧ tget s.colls (cColl x) = some k ∧ cf x 16 1 = 0
      ∧ (¬(cf x 17 1 = 1 ∧ k.indexKind ≠ 0)) ∧ journalFits s (runsBounded s x) 128 = true :=
  ⟨(withColl coll0 [(mk 19 [(16, 0)])]), (mk 19 [(16, 0)]), coll0, begun (by decide +kernel), by decide +kernel, by decide +kernel,
   (by decide +kernel), by decide +kernel⟩

theorem witness_CollConfigRows_2 :
    ∃ (s : State) (x : Cmd) (k : Coll) (tbl : Nat), Begun s x 0x13 ∧ tget s.colls (cColl x) = some k ∧ cf x 16 1 = 1 ∧ k.indexKind = 0
      ∧ k.placement ≠ 1 ∧ k.entries.any (fun p => p.1 ≥ 0xFFFF_FFFF) = false ∧ freeTable s = some tbl
      ∧ journalFits s (runsBounded s x) 128 = true :=
  ⟨(withColl coll0 [(mk 19 [(16, 1)])]), (mk 19 [(16, 1)]), coll0, 0, begun (by decide +kernel), by decide +kernel, by decide +kernel,
   (by decide +kernel), by decide +kernel, by decide +kernel, by decide +kernel, (by decide +kernel)⟩

theorem witness_CollConfigRows_3 :
    ∃ (s : State) (x : Cmd) (k : Coll), Begun s x 0x13 ∧ tget s.colls (cColl x) = some k ∧ cf x 16 1 = 1 ∧ k.indexKind = 1
      ∧ ((k.partMode = 0 → (tagsOpen { k with building := true, buildGraph := false }).length ≤ 65536))
      ∧ journalFits s (runsBounded s x) 128 = true :=
  ⟨(withColl { coll0 with indexKind := 1 } [(mk 19 [(16, 1)])]), (mk 19 [(16, 1)]), { coll0 with indexKind := 1 },
   begun (by decide +kernel), by decide +kernel, by decide +kernel, (by decide +kernel), by decide +kernel, by decide +kernel⟩

theorem witness_CollConfigRows_4 :
    ∃ (s : State) (x : Cmd) (k : Coll), Begun s x 0x13 ∧ tget s.colls (cColl x) = some k ∧ cf x 16 1 = 2
      ∧ (tget s.domains (cf x 18 2)).isSome = true ∧ journalFits s (runsBounded s x) 128 = true :=
  ⟨(withColl coll0 [(mk 19 [(16, 2)])]), (mk 19 [(16, 2)]), coll0, begun (by decide +kernel), by decide +kernel, by decide +kernel,
   (by decide +kernel), by decide +kernel⟩

theorem witness_CollConfigRows_5 :
    ∃ (s : State) (x : Cmd) (k : Coll), Begun s x 0x13 ∧ tget s.colls (cColl x) = some k ∧ cf x 16 1 = 3
      ∧ (tget s.domains (cf x 18 2)).isSome = true ∧ journalFits s (runsBounded s x) 128 = true :=
  ⟨(withColl coll0 [(mk 19 [(16, 3)])]), (mk 19 [(16, 3)]), coll0, begun (by decide +kernel), by decide +kernel, by decide +kernel,
   (by decide +kernel), by decide +kernel⟩

theorem witness_MaintenanceCommands_1 :
    ∃ (s : State) (x : Cmd) (k : Coll), Begun s x 0x50 ∧ tget s.colls (cColl x) = some k ∧ cf x 16 1 = 2
      ∧ journalFits s (runsBounded s x) 128 = true :=
  ⟨(withColl coll0 [(mk 80 [(16, 2)])]), (mk 80 [(16, 2)]), coll0, begun (by decide +kernel), by decide +kernel, by decide +kernel,
   (by decide +kernel)⟩

theorem witness_MaintenanceCommands_2 :
    ∃ (s u : State) (x : Cmd) (k : Coll), Begun s x 0x50 ∧ tget s.colls (cColl x) = some k ∧ cf x 16 1 = 3
      ∧ writeDev (whoOf s x) (cf x 32 8) (reportBytes k) s = .ok () u :=
  ⟨(withColl coll0 [(mk 80 [(16, 3)])]), _, (mk 80 [(16, 3)]), coll0, begun (by decide +kernel), by decide +kernel, by decide +kernel,
   res_unit (by decide +kernel)⟩


/-- Entry of ID `vid` in slot `slot`, written by the journal record of that number. -/
def entry0 (slot vid seq : Nat) : Entry :=
  { slot := slot, record := { vid := vid, tenant := 0, flags := 0, a0 := 0, a1 := 0, a2 := 0, a3 := 0, labels := 0, ts := 0 },
    code := 0, encNext := false, version := 0, src := .held [0], seq := seq, queue := 0, tag := 0, at_ := 0 }

/-- `coll0` with one entry in its side list. -/
def coll1 : Coll :=
  { coll0 with entries := [(0, entry0 0 7 1)], arr := { coll0.arr with side := [0] }, posted := 1, journaled := 1 }

/-- `coll0` with one deleted entry in a partition. -/
def coll2 : Coll :=
  { coll0 with
    entries := [(0, entry0 0 7 1)], tombs := [(0, 2)], posted := 2, journaled := 2
    arr := { coll0.arr with parts := [(5, { slots := [0], bulk := false, place := 0, scans := 0, heat := 0 })], tombLog := [(0, 2)] } }

/-- A request for the translation of page 2^21 of D0. -/
def req (kind : Nat) (stale : Bool) : XlatReq := { dom := 0, va := 2 ^ 21, write := true, kind := kind, stale := stale }

def withReq (q : XlatReq) : State := { ready with crook := { ready.crook with reqs := [q], atsEnable := true } }

/-- A waiting SEARCH_FLAT of queue 1, which is unbounded, names the page; D0 answers page requests. -/
def waitsPage : State :=
  { withReq (req 0 false) with
    crook := { (withReq (req 0 false)).crook with priEnable := true }
    domains := [(0, { domainZero with priOk := true })]
    cmds := [{ newCmd 1 0 (packed 128 [(0, 0x30), (16, 2 ^ 21)]) 0 0 with phase := .waiting }] }

def mirror0 : Region := { base := 0, length := 2 ^ 30, read := true, write := true, mirror := true, key := 0xFFFF, tableAddr := 2 ^ 40 }

def withMirror : State :=
  { ready with crook := { ready.crook with reqs := [req 2 false] }, domains := [(0, { domainZero with regions := [mirror0] })] }

/-- `coll1` with a fold in progress. -/
def folding : Coll := { coll1 with run := some { op := .fold, cut := 1, key := none, move := none, by_ := none, since := 0 } }

/-- A program of two MATMUL steps on table 0. -/
def prog2 : Prog := { domain := 0, image := packed 192 [(0, 2), (2, 1), (4, 4), (6, 64), (8, 1), (64, 2), (66, 1), (128, 2), (130, 2)], batch := 0, lost := none }

def tbl0 : Tbl :=
  { domain := 0, gen := 0, paused := false, failed := 0, cluster := 0, lost := none, pending := none, earlier := []
    current := some { kind := 0, fmt := 0, rows := 1, cols := 1, scale := 0, tscale := 0, bytes := packed 64 [] } }

/-- `busy` with collection 0, program `prog2` and table 0. -/
def encoding (xs : List Cmd) : State := { busy xs with colls := [(0, coll0)], progs := [(0, prog2)], tables := [(0, tbl0)] }

def vec0 (parts : List (List Acc)) : EncVec := { bufs := [], flags := 0, flagged := 0, firstPart := 0xFF, parts := parts, poison := none }

def encEnc : EncRes → Enc
  | .ok e _ => e
  | _ => { version := 0, img := [], batch := 0, tower := 0, steps := [], vecs := [] }
def encState : EncRes → State
  | .ok _ s => s
  | _ => State.reset
def encOk : EncRes → Bool
  | .ok _ _ => true
  | _ => false
theorem enc_ok {r : EncRes} (h : encOk r = true) : r = .ok (encEnc r) (encState r) := by cases r <;> first | rfl | cases h
def enc0 (steps : List Nat) (vs : List EncVec) : Enc :=
  { version := 0, img := prog2.image, batch := 0, tower := 0, steps := steps, vecs := vs }

theorem witness_MaintenanceCommands_3 :
    ∃ (s u v : State) (x : Cmd) (k c : Coll) (ds : List BlkData), Begun s x 0x53 ∧ tget s.colls (cColl x) = some k ∧ viewOf s x = some c
      ∧ dataSpans x true (cf x 16 8) (cf x 24 8) = some ds ∧ barred s x = false
      ∧ (let parts := cf x 40 1; (let live := c.entries.filter (fun p => p.1 ≥ cf x 32 8 && liveAt c x.horizon p); (let n := (cf x 24 8 - 64) / streamStride c parts; (let bs := exportHeader (cColl x) x.horizon parts (live.take n).length (((live.drop n).head?.map Prod.fst).getD (2 ^ 64 - 1)) c ++ (live.take n).flatMap (exportEntry s (cColl x) parts c); (live.take n).findSome? (fun p => poisonAt s c (cColl x) p.1 (.record :: (if bit parts 0 then [.code] else []))) = none ∧ checkSpans (whoOf s x) (listSpan ds 0 bs.length) s = .ok () u ∧ writeSpans (whoOf u x) (listSpan ds 0 bs.length) bs u = .ok () v)))) :=
  ⟨
   (withColl coll0 [{ mk 0x53 [(24, 128)] with list := some { next := 0, left := none, datas := [{ addr := 0, len := 128, zero := false }], links := 0, total := 128, want := 128, done := true } }]),
   _, _,
   { mk 0x53 [(24, 128)] with list := some { next := 0, left := none, datas := [{ addr := 0, len := 128, zero := false }], links := 0, total := 128, want := 128, done := true } },
   coll0, coll0, [{ addr := 0, len := 128, zero := false }], begun (by decide +kernel), by decide +kernel, by decide +kernel,
   (by decide +kernel), by decide +kernel, by decide +kernel, res_unit (by decide +kernel), res_unit (by decide +kernel)⟩

theorem witness_CrookRows_1 :
    ∃ (s : State) (d va size bus ns : Nat) (r w u : Bool) (q : XlatReq), 2 ^ 21 ≤ size ∧ (r = true ∨ w = true) ∧ q.stale = false
      ∧ (s.crook.reqs.find? (fun q => q.dom = d ∧ q.va = pageOf va ∧ q.kind = 0) = some q) :=
  ⟨(withReq (req 0 false)), 0, 2 ^ 22 - 1, 2 ^ 21, 0, 0, true, false, true, req 0 false, by decide +kernel, by decide +kernel,
   by decide +kernel, (by decide +kernel)⟩

theorem witness_CrookRows_2 :
    ∃ (s : State) (d va size bus ns : Nat) (r w u : Bool) (q : XlatReq), (size < 2 ^ 21 ∨ (r = false ∧ w = false ∧ priOpen s d = false))
      ∧ q.stale = false ∧ (s.crook.reqs.find? (fun q => q.dom = d ∧ q.va = pageOf va ∧ q.kind = 0) = some q) :=
  ⟨(withReq (req 0 false)), 0, 2 ^ 22 - 1, 2 ^ 21 - 1, 0, 0, true, false, true, req 0 false, by decide +kernel, by decide +kernel,
   by decide +kernel⟩

theorem witness_CrookRows_3 :
    ∃ (s : State) (d va size bus ns : Nat) (u : Bool) (q : XlatReq), 2 ^ 21 ≤ size ∧ q.stale = false
      ∧ (s.crook.reqs.find? (fun q => q.dom = d ∧ q.va = pageOf va ∧ q.kind = 0) = some q) ∧ (pageWaiters s d (pageOf va)).length ≠ 0
      ∧ requested s d (pageOf va) 1 = false ∧ pageRoom s = true :=
  ⟨waitsPage, 0, 2 ^ 21, 2 ^ 21, 0, 0, false, req 0 false, by decide +kernel, by decide +kernel, by decide +kernel, (by decide +kernel),
   by decide +kernel, by decide +kernel⟩

theorem witness_CrookRows_4 :
    ∃ (s : State) (d va pcie ns : Nat) (q : XlatReq), q.stale = false
      ∧ (s.crook.reqs.find? (fun q => q.dom = d ∧ q.va = pageOf va ∧ q.kind = 0) = some q) :=
  ⟨(withReq (req 0 false)), 0, 2 ^ 21, 0, 0, req 0 false, by decide +kernel, by decide +kernel⟩

theorem witness_CrookRows_5 :
    ∃ (s : State) (d va ns : Nat) (a : AtsAnswer) (q : XlatReq), q.stale = true
      ∧ (s.crook.reqs.find? (fun q => q.dom = d ∧ q.va = pageOf va ∧ q.kind = 0) = some q) :=
  ⟨(withReq (req 0 true)), 0, 2 ^ 21, 0, .failed 4, req 0 true, by decide +kernel, by decide +kernel⟩

theorem witness_CrookRows_6 :
    ∃ (s : State) (d va : Nat) (q : XlatReq), (s.crook.reqs.find? (fun q => q.dom = d ∧ q.va = pageOf va ∧ q.kind = 1) = some q)
      ∧ s.crook.atsEnable = true ∧ requested s d (pageOf va) 0 = false ∧ invalidating s d (pageOf va) = false
      ∧ (s.crook.reqs.filter (fun q => q.kind = 0)).length < 1024 :=
  ⟨(withReq (req 1 false)), 0, 2 ^ 21, req 1 false, by decide +kernel, by decide +kernel, by decide +kernel, (by decide +kernel),
   by decide +kernel⟩

theorem witness_CrookRows_7 :
    ∃ (s : State) (d va : Nat) (a : PriAnswer) (q : XlatReq),
      (s.crook.reqs.find? (fun q => q.dom = d ∧ q.va = pageOf va ∧ q.kind = 1) = some q) ∧ a ≠ .success :=
  ⟨(withReq (req 1 false)), 0, 2 ^ 21, .invalidRequest, req 1 false, by decide +kernel, nofun⟩

theorem witness_CrookRows_8 :
    ∃ (s : State) (d va : Nat) (q : XlatReq), (s.crook.reqs.find? (fun q => q.dom = d ∧ q.va = pageOf va ∧ q.kind = 1) = some q) :=
  ⟨(withReq (req 1 false)), 0, 2 ^ 21, req 1 false, by decide +kernel⟩

theorem witness_CrookRows_9 :
    ∃ (s : State) (d va : Nat) (q : XlatReq) (g : Region) (boot : Bool) (es : List Word64) (e : Word64), q.stale = false
      ∧ (s.crook.reqs.find? (fun q => q.dom = d ∧ q.va = pageOf va ∧ q.kind = 2) = some q) ∧ regionOf s d (pageOf va) = some (g, boot)
      ∧ es[(pageOf va - g.base) / 2 ^ 21 % 8]? = some e ∧ tableValid e = true ∧ g.base % 2 ^ 21 = 0 ∧ inRegion g (pageOf va) = true
      ∧ s.crook.invals = [] ∧ s.crook.cache.length ≤ 65000 :=
  ⟨withMirror, 0, 2 ^ 21, req 2 false, mirror0, false, [0, 7], 7, by decide +kernel, by decide +kernel, by decide +kernel,
   (by decide +kernel), by decide +kernel, by decide +kernel, by decide +kernel, (by decide +kernel), by decide +kernel⟩

theorem witness_CrookRows_10 :
    ∃ (s : State) (d va pcie : Nat) (q : XlatReq) (g : Region) (boot : Bool), q.stale = false
      ∧ (s.crook.reqs.find? (fun q => q.dom = d ∧ q.va = pageOf va ∧ q.kind = 2) = some q) ∧ regionOf s d (pageOf va) = some (g, boot) :=
  ⟨withMirror, 0, 2 ^ 22 - 1, 0, req 2 false, mirror0, false, by decide +kernel, by decide +kernel, by decide +kernel⟩

theorem witness_CrookRows_12 :
    ∃ (s : State) (i : Inval) (ns : Nat), s.crook.invals.find? (fun j => j.n = i.n) = some i ∧ i.cmd = none :=
  ⟨{ ready with crook := { ready.crook with invals := [{ n := 3, dom := 0, base := 0, len := 4096, cmd := none }] } },
   { n := 3, dom := 0, base := 0, len := 4096, cmd := none }, 0, by decide +kernel, by decide +kernel⟩

theorem witness_CrookRows_13 :
    ∃ (s : State) (i : Inval) (x : Cmd) (ns : Nat), s.crook.invals.find? (fun j => j.n = i.n) = some i ∧ i.cmd = some x.id
      ∧ cmdGet s x.id = some x ∧ x.work = .wait 2 i.n ∧ releaseWaits s i = false :=
  ⟨
   { busy [{ mk 0x60 [] with work := .wait 2 3 }] with crook := { ready.crook with invals := [{ n := 3, dom := 0, base := 0, len := 4096, cmd := some 1 }] } },
   { n := 3, dom := 0, base := 0, len := 4096, cmd := some 1 }, { mk 0x60 [] with work := .wait 2 3 }, 0, by decide +kernel,
   by decide +kernel, by decide +kernel, (by decide +kernel), by decide +kernel⟩

theorem witness_DroneStarts_1 :
    ∃ (s : State) (h : Nat) (c : Coll), tget s.colls h = some c ∧ mayRun s c = true ∧ c.building = false ∧ consolidating s h 0 = none
      ∧ placesUsed c ≥ c.sideHw ∧ somethingToFold c = true :=
  ⟨(withColl ({ coll1 with sideHw := 1 }) []), 0, { coll1 with sideHw := 1 }, by decide +kernel, by decide +kernel, by decide +kernel,
   (by decide +kernel), by decide +kernel, by decide +kernel⟩

theorem witness_DroneStarts_2 :
    ∃ (s : State) (h : Nat) (c : Coll) (x : Cmd), tget s.colls h = some c ∧ mayRun s c = true ∧ c.building = false
      ∧ consolidating s h 0 = some x ∧ somethingToFold c = true :=
  ⟨(withColl (coll1) [{ mk 0x50 [] with work := .wait 4 0 }]), 0, coll1, { mk 0x50 [] with work := .wait 4 0 }, by decide +kernel,
   by decide +kernel, by decide +kernel, (by decide +kernel), by decide +kernel⟩

theorem witness_DroneStarts_3 :
    ∃ (s : State) (h : Nat) (c : Coll), tget s.colls h = some c ∧ mayRun s c = true ∧ c.building = false ∧ aged s c = true
      ∧ somethingToFold c = true :=
  ⟨{ withColl coll1 [] with now := 1000000001 }, 0, coll1, by decide +kernel, by decide +kernel, by decide +kernel, (by decide +kernel),
   by decide +kernel⟩

theorem witness_DroneStarts_4 :
    ∃ (s : State) (h key : Nat) (c : Coll), tget s.colls h = some c ∧ mayRun s c = true ∧ c.building = false ∧ consolidating s h 1 = none
      ∧ compactTombs c.posted (some key) c ≠ [] ∧ (compactTombs c.posted (some key) c).length * 1000 ≥ c.tombPm * (partSlots c key).length :=
  ⟨(withColl (coll2) []), 0, 5, coll2, by decide +kernel, by decide +kernel, by decide +kernel, (by decide +kernel), by decide +kernel,
   by decide +kernel⟩

theorem witness_DroneStarts_5 :
    ∃ (s : State) (h key : Nat) (c : Coll) (x : Cmd), tget s.colls h = some c ∧ mayRun s c = true ∧ c.building = false
      ∧ consolidating s h 1 = some x ∧ compactTombs c.posted none c ≠ [] :=
  ⟨(withColl (coll2) [{ mk 0x50 [(16, 1)] with work := .wait 4 0 }]), 0, 5, coll2, { mk 0x50 [(16, 1)] with work := .wait 4 0 },
   by decide +kernel, by decide +kernel, by decide +kernel, (by decide +kernel), by decide +kernel⟩

theorem witness_DroneStarts_6 :
    ∃ (s : State) (h : Nat) (c : Coll), tget s.colls h = some c ∧ mayRun s c = true ∧ c.migrating = true ∧ recodeSlots c.posted c ≠ [] :=
  ⟨(withColl ({ coll1 with migrating := true, encNext := 1 }) []), 0, { coll1 with migrating := true, encNext := 1 }, by decide +kernel,
   by decide +kernel, by decide +kernel, (by decide +kernel)⟩

theorem witness_DroneStarts_7 :
    ∃ (s : State) (h : Nat) (c : Coll), tget s.colls h = some c ∧ mayRun s c = true ∧ c.building = false ∧ hasParts c = true
      ∧ c.partMode = 1 ∧ (currentCentroids s c).2 ≠ c.centroidGen :=
  ⟨(withColl ({ coll1 with partMode := 1, centroid := 9, centroidGen := 1 }) []), 0,
   { coll1 with partMode := 1, centroid := 9, centroidGen := 1 }, by decide +kernel, by decide +kernel, by decide +kernel,
   (by decide +kernel), by decide +kernel, by decide +kernel⟩

theorem witness_DroneStarts_8 :
    ∃ (s : State) (h : Nat) (c : Coll) (m : Move) (ms : List Move), tget s.colls h = some c ∧ mayRun s c = true ∧ c.building = false
      ∧ hasParts c = true ∧ ((c.partMode = 1 → (currentCentroids s c).2 = c.centroidGen)) ∧ c.moves = m :: ms
      ∧ (tget c.arr.parts m.key).any (fun p => p.bulk ≠ m.toBulk) = true :=
  ⟨(withColl ({ coll2 with moves := [{ key := 5, toBulk := true }] }) []), 0, { coll2 with moves := [{ key := 5, toBulk := true }] },
   { key := 5, toBulk := true }, [], by decide +kernel, by decide +kernel, by decide +kernel, (by decide +kernel), by decide +kernel,
   by decide +kernel, by decide +kernel⟩

theorem witness_DroneStarts_9 :
    ∃ (s : State) (h : Nat) (c : Coll), tget s.colls h = some c ∧ mayRun s c = true ∧ c.building = true :=
  ⟨(withColl ({ coll1 with building := true }) []), 0, { coll1 with building := true }, by decide +kernel, by decide +kernel,
   by decide +kernel⟩

theorem witness_DroneCommits_1 :
    ∃ (s : State) (h : Nat) (c : Coll) (o : DroneRun) (r : Arranged), tget s.colls h = some c ∧ c.run = some o ∧ droneWorks s = true
      ∧ journalFits s ((o.by_.bind (cmdGet s)).any Cmd.bounded) 128 = true ∧ ((∀ p ∈ s.poison, p.coll ≠ h))
      ∧ arrange s (opCode o.op) o.cut o.key o.move c = some r ∧ patchOverflow c r = false :=
  ⟨(withColl (folding) []), 0, folding, { op := .fold, cut := 1, key := none, move := none, by_ := none, since := 0 },
   (arrange (withColl (folding) []) 1 1 none none folding).get (by decide +kernel), by decide +kernel, by decide +kernel, by decide +kernel,
   (by decide +kernel), by decide +kernel, (Option.some_get _).symm, by decide +kernel⟩

theorem witness_DroneCommits_2 :
    ∃ (s : State) (h : Nat) (c : Coll) (o : DroneRun), tget s.colls h = some c ∧ c.run = some o ∧ droneWorks s = true
      ∧ journalFits s ((o.by_.bind (cmdGet s)).any Cmd.bounded) 128 = true ∧ ((∀ p ∈ s.poison, p.coll ≠ h))
      ∧ arrange s (opCode o.op) o.cut o.key o.move c = none :=
  ⟨
   (withColl ({ coll1 with placement := 1, run := some { op := .fold, cut := 1, key := none, move := none, by_ := none, since := 0 }, codeBits := 2 ^ 60 }) []),
   0,
   { coll1 with placement := 1, run := some { op := .fold, cut := 1, key := none, move := none, by_ := none, since := 0 }, codeBits := 2 ^ 60 },
   { op := .fold, cut := 1, key := none, move := none, by_ := none, since := 0 }, by decide +kernel, by decide +kernel, by decide +kernel,
   (by decide +kernel), by decide +kernel, by decide +kernel⟩

theorem witness_DroneCommits_3 :
    ∃ (s : State) (h : Nat) (c : Coll), tget s.colls h = some c ∧ s.chn.stage = 6 ∧ s.chn.quiesced = false ∧ s.chn.losing = false
      ∧ s.chn.mode ≠ .off ∧ c.run = none ∧ c.dropping = false ∧ foldTombs c.posted c ≠ [] ∧ journalFits s false 128 = true :=
  ⟨(withColl (coll2) []), 0, coll2, by decide +kernel, by decide +kernel, by decide +kernel, (by decide +kernel), by decide +kernel,
   by decide +kernel, by decide +kernel, (by decide +kernel), by decide +kernel⟩

theorem witness_DroneCommits_4 :
    ∃ (s : State) (h : Nat) (c : Coll), tget s.colls h = some c ∧ mayRun s c = true ∧ c.migrating = true ∧ oldEntries c = []
      ∧ writesOld s h = false ∧ journalFits s false 128 = true :=
  ⟨(withColl ({ coll0 with migrating := true, encNext := 1 }) []), 0, { coll0 with migrating := true, encNext := 1 }, by decide +kernel,
   by decide +kernel, by decide +kernel, (by decide +kernel), by decide +kernel, by decide +kernel⟩

theorem witness_DroneCommits_5 :
    ∃ (s : State) (h : Nat) (c : Coll) (r : Release) (rs : List Release), tget s.colls h = some c ∧ c.releases = r :: rs
      ∧ searchedBelow s h r.epoch = false ∧ s.chn.stage = 6 ∧ s.chn.losing = false ∧ journalFits s false 128 = true :=
  ⟨(withColl ({ coll1 with releases := [{ commitSeq := 2, epoch := 2, slots := [0] }] }) []), 0,
   { coll1 with releases := [{ commitSeq := 2, epoch := 2, slots := [0] }] }, { commitSeq := 2, epoch := 2, slots := [0] }, [],
   by decide +kernel, by decide +kernel, by decide +kernel, (by decide +kernel), by decide +kernel, by decide +kernel⟩

theorem witness_DroneCommits_6 :
    ∃ (s : State) (h : Nat) (c : Coll), tget s.colls h = some c ∧ searchedBelow s h c.viewEpoch = false :=
  ⟨(withColl (coll1) []), 0, coll1, by decide +kernel, by decide +kernel⟩

theorem witness_DroneCommits_7 :
    ∃ (s : State), droneWorks s = true :=
  ⟨ready, by decide +kernel⟩

theorem witness_ProgramTableRows_1 :
    ∃ (s u : State) (x : Cmd) (img : List Byte) (v : Nat), Begun s x 0x41 ∧ cf x 28 1 = 0 ∧ s.progs.length < 256
      ∧ readBuf x (cf x 16 8) (cf x 24 4) s = .ok img u ∧ cf x 24 4 = 64 + 64 * progSteps img ∧ badProg u (domOf u x) img = none
      ∧ leastFree (u.progs.map Prod.fst ++ retiring u) ((u.progs.map Prod.fst ++ retiring u).length + 1) 0 = v
      ∧ journalFits u (runsBounded u x) 128 = true :=
  ⟨
   { busy [(mk 65 [(24, 128)])] with hostMem := memWrite [] 0 (packed 128 [(0, 1), (2, 64), (4, 4), (6, 64), (8, 1), (64, 1), (66, 1), (72, 0xFFFF)]) },
   _, (mk 65 [(24, 128)]), _, 0, begun (by decide +kernel), by decide +kernel, by decide +kernel, res_ok (by decide +kernel),
   by decide +kernel, by decide +kernel, by decide +kernel, (by decide +kernel)⟩

theorem witness_ProgramTableRows_2 :
    ∃ (s : State) (x : Cmd) (p : Prog), Begun s x 0x41 ∧ cf x 28 1 = 1 ∧ tget s.progs (cf x 30 2) = some p
      ∧ ((domOf s x = 0 ∨ p.domain = domOf s x)) ∧ s.colls.any (fun k => k.2.encVersion = cf x 30 2 || k.2.encNext = cf x 30 2) = false
      ∧ journalFits s (runsBounded s x) 128 = true :=
  ⟨{ busy [(mk 65 [(28, 1), (30, 3)])] with progs := [(3, prog2)] }, (mk 65 [(28, 1), (30, 3)]), prog2, begun (by decide +kernel),
   by decide +kernel, by decide +kernel, (by decide +kernel), by decide +kernel, by decide +kernel⟩

theorem witness_ProgramTableRows_3 :
    ∃ (s u : State) (x : Cmd) (bs : List Byte) (t : Tbl), Begun s x 0x42 ∧ cf x 28 2 ≠ 0xFFFF ∧ tget s.tables (cf x 28 2) = some t
      ∧ t.domain = domOf s x ∧ moduleArea s - (t.pending.map (fun d => d.bytes.length)).getD 0 + cf x 24 4 ≤ 6 * 2 ^ 30
      ∧ readBuf x (cf x 16 8) (cf x 24 4) s = .ok bs u ∧ crc32c bs = cf x 44 4 ∧ journalFits u (runsBounded u x) 128 = true :=
  ⟨{ busy [(mk 66 [(24, 64), (28, 0), (44, 63499111)])] with tables := [(0, tbl0)] }, _, (mk 66 [(24, 64), (28, 0), (44, 63499111)]), _,
   tbl0, begun (by decide +kernel), by decide +kernel, by decide +kernel, (by decide +kernel), by decide +kernel,
   res_ok (by decide +kernel), by decide +kernel, (by decide +kernel)⟩

theorem witness_ProgramTableRows_4 :
    ∃ (s : State) (x : Cmd) (t : Tbl) (d : TblData), Begun s x 0x43 ∧ tget s.tables (cf x 16 2) = some t ∧ t.domain = domOf s x
      ∧ t.pending = some d ∧ tableLocked s (cf x 16 2) = false ∧ poolFits s (cf x 16 2) d = true
      ∧ journalFits s (runsBounded s x) 128 = true :=
  ⟨
   { busy [(mk 67 [])] with tables := [(0, { tbl0 with pending := some { kind := 0, fmt := 0, rows := 1, cols := 1, scale := 0, tscale := 0, bytes := packed 64 [] } })] },
   (mk 67 []), { tbl0 with pending := some { kind := 0, fmt := 0, rows := 1, cols := 1, scale := 0, tscale := 0, bytes := packed 64 [] } },
   { kind := 0, fmt := 0, rows := 1, cols := 1, scale := 0, tscale := 0, bytes := packed 64 [] }, begun (by decide +kernel),
   by decide +kernel, by decide +kernel, (by decide +kernel), by decide +kernel, by decide +kernel, by decide +kernel⟩

theorem witness_ProgramTableRows_5 :
    ∃ (s : State) (b c : Nat) (x : Cmd), s.chn.barriers.any (fun k => k.no = b) = true ∧ cmdGet s c = some x ∧ x.work = .wait 1 b
      ∧ s.bag.writeThrough = false :=
  ⟨
   { busy [{ mk 0x43 [] with work := .wait 1 4 }] with chn := { ready.chn with barriers := [{ no := 4, table := true, on := 0, began := 0 }] } },
   4, 1, { mk 0x43 [] with work := .wait 1 4 }, by decide +kernel, by decide +kernel, by decide +kernel, (by decide +kernel)⟩

theorem witness_EncodeRows_1 :
    ∃ (s u : State) (x : Cmd) (k : Coll) (vs : List EncVec), Begun s x 0x40 ∧ tget s.colls (cColl x) = some k ∧ barred s x = false
      ∧ streamPoison x.id s = none ∧ progLost s (encodeVersion x k) = none
      ∧ readSources x k.srcFormat k.srcDim (cf x 44 4) (cf x 40 4) (cf x 16 8) 0 s = .ok vs u
      ∧ (let z := endStage x.id 2 (consumeRings x.id u); (let es := (encBatches x (encodeVersion x k) (outBufs (imageOf z x (encodeVersion x k)) (cf x 53 1)) vs z).1; bellMarked es = none ∧ es.all encDone = false)) :=
  ⟨(encoding [(mk 64 [(40, 1), (53, 1)])]), _, (mk 64 [(40, 1), (53, 1)]), coll0, _, begun (by decide +kernel), by decide +kernel,
   by decide +kernel, (by decide +kernel), by decide +kernel, res_ok (by decide +kernel), by decide +kernel, (by decide +kernel)⟩

theorem witness_EncodeRows_2 :
    ∃ (s u : State) (x : Cmd) (k : Coll) (es : List Enc), running s x.id 0x40 = some x ∧ viewOf s x = some k ∧ x.work = .encode es
      ∧ es.all encDone = true ∧ writeEncoded x ((es.head?.map Enc.img).getD []) 0 (es.flatMap Enc.vecs) s = .ok () u :=
  ⟨(encoding [{ mk 0x40 [(53, 1)] with work := .encode [enc0 [] [vec0 []]] }]), _,
   { mk 0x40 [(53, 1)] with work := .encode [enc0 [] [vec0 []]] }, coll0, [enc0 [] [vec0 []]], by decide +kernel, by decide +kernel,
   by decide +kernel, (by decide +kernel), res_unit (by decide +kernel)⟩

theorem witness_EncodeRows_3 :
    ∃ (s t : State) (x : Cmd) (es : List Enc) (n : Nat) (e e' : Enc) (i h : Nat) (d : TblData) (rest : List Nat), cmdGet s x.id = some x
      ∧ x.phase = .executing ∧ x.work = .encode es ∧ nextRegion x = some (n, e) ∧ e.steps = i :: rest ∧ stepFld e.img i 8 2 = h
      ∧ tableAt s x.id h = some d ∧ boreHeld s x (encClusters s e) = false ∧ arrayFull s e = false ∧ encRegion x (domOf s x) e s = .ok e' t
      ∧ (es.set n e').all encDone = false :=
  ⟨(encoding [{ mk 0x40 [] with work := .encode [enc0 [0, 1] []] }]), _, { mk 0x40 [] with work := .encode [enc0 [0, 1] []] },
   [enc0 [0, 1] []], 0, enc0 [0, 1] [], _, 0, 0,
   { kind := 0, fmt := 0, rows := 1, cols := 1, scale := 0, tscale := 0, bytes := packed 64 [] }, [1], by decide +kernel, by decide +kernel,
   by decide +kernel, (by decide +kernel), by decide +kernel, by decide +kernel, by decide +kernel, (by decide +kernel), by decide +kernel,
   enc_ok (by decide +kernel), by decide +kernel⟩

theorem witness_EncodeRows_4 :
    ∃ (s t : State) (x : Cmd) (es : List Enc) (n : Nat) (e e' : Enc), cmdGet s x.id = some x ∧ x.phase = .executing ∧ x.work = .encode es
      ∧ nextEnc encWaitsCombine es = some (n, e) ∧ (encClusters s e).any (debugOn s) = false ∧ encCombine x e s = .ok e' t
      ∧ (es.set n e').all encDone = false :=
  ⟨
   (encoding [{ mk 0x40 [] with work := .encode [enc0 [0, 1] [vec0 [[{ value := 1, flags := 0, pinned := none, nan := false, poison := false, lane := none }]]]] }]),
   _,
   { mk 0x40 [] with work := .encode [enc0 [0, 1] [vec0 [[{ value := 1, flags := 0, pinned := none, nan := false, poison := false, lane := none }]]]] },
   [enc0 [0, 1] [vec0 [[{ value := 1, flags := 0, pinned := none, nan := false, poison := false, lane := none }]]]], 0,
   enc0 [0, 1] [vec0 [[{ value := 1, flags := 0, pinned := none, nan := false, poison := false, lane := none }]]], _, by decide +kernel,
   by decide +kernel, by decide +kernel, (by decide +kernel), by decide +kernel, enc_ok (by decide +kernel), by decide +kernel⟩


def peer0 : Peer := { peerZero with enable := true, state := 2, roles := 0xF, ownConn := 5, conn := 9, portsUp := 1 }

/-- The fabric enabled, port 0 up, and peer 1023 connected. -/
def linked (p : Peer) (xs : List Cmd) : State :=
  { busy xs with
    regs := (busy xs).regs ++ [(reg .cst 12 0x110, 1)]
    cst := { ready.cst with
      peers := [(1023, p)]
      ports := { up := true, present := true, kr8 := false, noSpare := false } :: ready.cst.ports.drop 1 } }

/-- A packet for peer 1023's connection. -/
def pkt (psn : Nat) : PktHdr :=
  { ver := 1, ptype := 1, pflags := 0, conn := 5, psn := psn, ackPsn := 0, msgId := 0, msgOff := 0, msgLen := 16, checkOk := true }

/-- Journal records: the delete of an entry of collection 0, and a source. -/
def rec0 : JRec := { jrecNew 0x03 0 .delete 64 0 0 0 with seq := 1 }
def rec1 : JRec := { jrecNew 0x01 0 .entry 128 0 0 0 with seq := 1 }

def bagOf (b : Bag) (xs : List Cmd) : State := { busy xs with bag := b }

/-- A completion ring at page 1, enabled. -/
def ringOn : Ring := { ringReset with base := 4096, sizeLog2 := 7, enabled := true }

theorem witness_CommitAccepted_1 :
    ∃ (q : Nat) (data : List Byte) (s : State) (qu : Queue), q < 32768 ∧ data.length = 128 ∧ tget s.queues q = some qu ∧ portTakes s = true
      ∧ qu.closing = false ∧ memWf s.windows = true ∧ bits (fld data 120 8) 63 32 = 0 ∧ bits (fld data 120 8) 15 0 = qu.nextSeq
      ∧ bits (fld data 120 8) 31 16 = chkValue (data.take 120) ∧ slotsUsed s q < qu.depth :=
  ⟨0, packed 128 [(0, 1), (122, 1)], ready, queueZero, by decide +kernel, by decide +kernel, by decide +kernel, (by decide +kernel),
   by decide +kernel, by decide +kernel, by decide +kernel, (by decide +kernel), by decide +kernel, by decide +kernel⟩

theorem witness_CommitRejected_1 :
    ∃ (q : Nat) (data : List Byte) (s : State) (qu : Queue) (n : Nat), q < 32768 ∧ data.length = 128 ∧ tget s.queues q = some qu
      ∧ memWf s.windows = true ∧ commitReason s q (data.take 120) (fld data 120 8) = n ∧ n ≠ 0 :=
  ⟨32767, packed 128 [(0, 1)], { ready with queues := [(32767, queueZero)] }, queueZero, 1, by decide +kernel, by decide +kernel,
   by decide +kernel, (by decide +kernel), by decide +kernel, by decide +kernel⟩

theorem witness_CommitCheckValue_2 :
    ∃ (q : Nat) (data : List Byte) (s : State) (qu : Queue), q < 32768 ∧ data.length = 128 ∧ tget s.queues q = some qu
      ∧ memWf s.windows = true ∧ portTakes s = true ∧ qu.closing = false ∧ bits (fld data 120 8) 63 32 = 0
      ∧ bits (fld data 120 8) 15 0 = qu.nextSeq ∧ bits (fld data 120 8) 31 16 ≠ chkValue (data.take 120) :=
  ⟨32767, packed 128 [(0, 1)], { ready with queues := [(32767, queueZero)] }, queueZero, by decide +kernel, by decide +kernel,
   by decide +kernel, (by decide +kernel), by decide +kernel, by decide +kernel, by decide +kernel, (by decide +kernel), by decide +kernel⟩

theorem witness_NextSequence_1 :
    ∃ (s : State) (x : Cmd) (k : Domain) (r : Ring), Begun s x 0x7F ∧ cSub x = 3 ∧ tget s.domains (cf x 18 2) = some k
      ∧ tget s.queues (cf x 16 2) = none ∧ tget s.rings (cf x 20 2) = some r ∧ r.domain = cf x 18 2 ∧ (¬(cf x 24 1 = 0 ∧ k.urgRate = 0))
      ∧ slotsReserved s + cf x 22 2 ≤ 262144 :=
  ⟨(busy [(mk 127 [(1, 3), (16, 1), (22, 64), (24, 1)])]), (mk 127 [(1, 3), (16, 1), (22, 64), (24, 1)]), domainZero, ringReset,
   begun (by decide +kernel), by decide +kernel, by decide +kernel, (by decide +kernel), by decide +kernel, by decide +kernel,
   by decide +kernel, (by decide +kernel)⟩

theorem witness_NextSequence_2 :
    ∃ (q : Nat) (data : List Byte) (s : State) (qu : Queue), q < 32768 ∧ data.length = 128 ∧ tget s.queues q = some qu
      ∧ memWf s.windows = true ∧ commitReason s q (data.take 120) (fld data 120 8) = 0 :=
  ⟨0, packed 128 [(0, 1), (122, 1)], ready, queueZero, by decide +kernel, by decide +kernel, by decide +kernel, (by decide +kernel),
   by decide +kernel⟩

theorem witness_NextSequence_3 :
    ∃ (q : Nat) (data : List Byte) (s : State) (qu : Queue), q < 32768 ∧ data.length = 128 ∧ tget s.queues q = some qu
      ∧ memWf s.windows = true ∧ portTakes s = true ∧ qu.closing = false ∧ bits (fld data 120 8) 63 32 = 0
      ∧ bits (fld data 120 8) 15 0 ≠ qu.nextSeq :=
  ⟨0, packed 128 [(120, 1)], ready, queueZero, by decide +kernel, by decide +kernel, by decide +kernel, (by decide +kernel),
   by decide +kernel, by decide +kernel, by decide +kernel, (by decide +kernel)⟩

theorem witness_WindowCleared_1 :
    ∃ (q : Nat) (data : List Byte) (s : State), q < 32768 ∧ data.length = 128 ∧ memWf s.windows = true :=
  ⟨32767, packed 128 [(0, 1)], ready, by decide +kernel, by decide +kernel, by decide +kernel⟩

theorem witness_ConnectionRows_1 :
    ∃ (s : State) (i port : Nat) (known ce : Bool) (h : PktHdr) (d : List Byte), fabricOn s = true ∧ (known = false ∨ h.checkOk = false) :=
  ⟨(linked (peer0) []), 1023, 0, true, false, { pkt 0 with checkOk := false }, [], by decide +kernel, by decide +kernel⟩

theorem witness_ConnectionRows_2 :
    ∃ (s : State) (i port : Nat) (ce : Bool) (h : PktHdr) (d : List Byte) (p : Peer), fabricOn s = true ∧ h.checkOk = true
      ∧ tget s.cst.peers i = some p ∧ p.enable = true ∧ p.state = 2 ∧ h.ver = 1 ∧ h.ptype = 1 ∧ h.conn = p.ownConn ∧ 16 ≤ h.msgLen
      ∧ h.msgLen ≤ 1049616 ∧ h.psn = p.recvPsn ∧ h.psn < 2 ^ 32 ∧ p.recvPsn ∉ p.recvAhead :=
  ⟨(linked (peer0) []), 1023, 0, false, pkt 0, [], peer0, by decide +kernel, by decide +kernel, by decide +kernel, (by decide +kernel),
   by decide +kernel, by decide +kernel, by decide +kernel, (by decide +kernel), by decide +kernel, by decide +kernel, by decide +kernel,
   (by decide +kernel), by decide +kernel⟩

theorem witness_ConnectionRows_3 :
    ∃ (s : State) (i port : Nat) (ce : Bool) (h : PktHdr) (d : List Byte) (p : Peer), fabricOn s = true ∧ h.checkOk = true
      ∧ tget s.cst.peers i = some p ∧ p.enable = true ∧ p.state = 2 ∧ h.ver = 1 ∧ h.ptype = 1 ∧ h.conn = p.ownConn ∧ 16 ≤ h.msgLen
      ∧ h.msgLen ≤ 1049616 ∧ p.recvPsn < h.psn ∧ h.psn < p.recvPsn + 4096 ∧ h.psn < 2 ^ 32 ∧ h.psn ∉ p.recvAhead ∧ p.sinceAck < 7 :=
  ⟨(linked (peer0) []), 1023, 0, false, pkt 4095, [], peer0, by decide +kernel, by decide +kernel, by decide +kernel, (by decide +kernel),
   by decide +kernel, by decide +kernel, by decide +kernel, (by decide +kernel), by decide +kernel, by decide +kernel, by decide +kernel,
   (by decide +kernel), by decide +kernel, by decide +kernel, by decide +kernel⟩

theorem witness_ConnectionRows_4 :
    ∃ (s : State) (i a ce : Nat) (bm : Word64) (p : Peer), fabricOn s = true ∧ tget s.cst.peers i = some p ∧ p.enable = true ∧ p.state = 2 :=
  ⟨(linked (peer0) []), 1023, 0, 0, 0, peer0, by decide +kernel, by decide +kernel, by decide +kernel, (by decide +kernel)⟩

theorem witness_ConnectionRows_5 :
    ∃ (s : State) (i : Nat) (p : Peer), tget s.cst.peers i = some p ∧ p.state = 2 ∧ p.unacked ≠ [] :=
  ⟨(linked ({ peer0 with unacked := [7] }) []), 1023, { peer0 with unacked := [7] }, by decide +kernel, by decide +kernel, by decide +kernel⟩

theorem witness_ConnectionRows_6 :
    ∃ (s : State) (i : Nat) (p : Peer), tget s.cst.peers i = some p ∧ p.state = 2 ∧ p.rate < rateStart s p :=
  ⟨(linked (peer0) []), 1023, peer0, by decide +kernel, by decide +kernel, by decide +kernel⟩

theorem witness_ConnectionRows_7 :
    ∃ (s : State) (i : Nat) (p : Peer), tget s.cst.peers i = some p ∧ p.state = 2 ∧ p.sinceAck ≠ 0 :=
  ⟨(linked ({ peer0 with sinceAck := 1 }) []), 1023, { peer0 with sinceAck := 1 }, by decide +kernel, by decide +kernel, by decide +kernel⟩

theorem witness_ConnectionRows_8 :
    ∃ (s : State) (i : Nat) (p : Peer), fabricOn s = true ∧ tget s.cst.peers i = some p ∧ p.enable = true ∧ (p.state = 1 ∨ p.state = 3)
      ∧ portsMask s ≠ 0 :=
  ⟨(linked ({ peer0 with state := 3 }) []), 1023, { peer0 with state := 3 }, by decide +kernel, by decide +kernel, by decide +kernel,
   (by decide +kernel), by decide +kernel⟩

theorem witness_ConnectionRows_9 :
    ∃ (s : State) (i conn shard ports : Nat) (p : Peer), fabricOn s = true ∧ tget s.cst.peers i = some p ∧ p.enable = true
      ∧ (¬(p.state = 2 ∧ p.conn = conn)) :=
  ⟨(linked (peer0) []), 1023, 8, 0, 1, peer0, by decide +kernel, by decide +kernel, by decide +kernel, (by decide +kernel)⟩

theorem witness_ConnectionRows_10 :
    ∃ (s : State) (i conn shard ports : Nat) (p : Peer), fabricOn s = true ∧ tget s.cst.peers i = some p ∧ p.enable = true ∧ p.state = 2
      ∧ p.conn = conn :=
  ⟨(linked (peer0) []), 1023, 9, 0, 1, peer0, by decide +kernel, by decide +kernel, by decide +kernel, (by decide +kernel),
   by decide +kernel⟩

theorem witness_ConnectionRows_11 :
    ∃ (s : State) (i conn shard ports : Nat) (p : Peer), fabricOn s = true ∧ tget s.cst.peers i = some p ∧ p.enable = true ∧ p.state ≠ 2
      ∧ portsMask s ≠ 0 :=
  ⟨(linked ({ peer0 with state := 3 }) []), 1023, 9, 0, 1, { peer0 with state := 3 }, by decide +kernel, by decide +kernel,
   by decide +kernel, (by decide +kernel), by decide +kernel⟩

theorem witness_ConnectionRows_12 :
    ∃ (s : State) (i : Nat) (p : Peer), fabricOn s = true ∧ tget s.cst.peers i = some p ∧ p.enable = true ∧ p.state = 2 :=
  ⟨(linked (peer0) []), 1023, peer0, by decide +kernel, by decide +kernel, by decide +kernel, (by decide +kernel)⟩

theorem witness_ConnectionRows_13 :
    ∃ (s : State) (i : Nat) (p : Peer), tget s.cst.peers i = some p ∧ p.state = 2 ∧ p.unacked ≠ [] ∧ portsMask s ≠ 0 :=
  ⟨(linked ({ peer0 with unacked := [7] }) []), 1023, { peer0 with unacked := [7] }, by decide +kernel, by decide +kernel,
   by decide +kernel, (by decide +kernel)⟩

theorem witness_FlashRows_1 :
    ∃ (s : State) (ch die media : Nat), ch < 18 ∧ die ≤ 16 :=
  ⟨ready, 17, 16, 0, by decide +kernel, by decide +kernel⟩

theorem witness_FlashRows_2 :
    ∃ (s : State) (ch die media : Nat), ch < 18 ∧ die < 16 ∧ die ∉ (tget s.bag.diesFailed ch).getD [] ∧ ch ∉ s.bag.wholeChannels
      ∧ ch ∉ s.bag.spareUsed :=
  ⟨ready, 17, 15, 0, by decide +kernel, by decide +kernel, by decide +kernel, (by decide +kernel), by decide +kernel⟩

theorem witness_FlashRows_3 :
    ∃ (s : State) (ch die media : Nat), ch < 18 ∧ die ≤ 16 ∧ die ∉ (tget s.bag.diesFailed ch).getD [] ∧ ch ∉ s.bag.wholeChannels
      ∧ ch ∈ s.bag.spareUsed :=
  ⟨{ ready with bag := { ready.bag with spareUsed := [17] } }, 17, 16, 0, by decide +kernel, by decide +kernel, by decide +kernel,
   (by decide +kernel), by decide +kernel⟩

theorem witness_FlashRows_4 :
    ∃ (s : State) (ch die media : Nat), ch < 18 ∧ die ≤ 16 ∧ ch ∉ s.bag.wholeChannels :=
  ⟨ready, 17, 16, 0, by decide +kernel, by decide +kernel, by decide +kernel⟩

theorem witness_FlashRows_5 :
    ∃ (s : State) (ch die n : Nat), s.bag.rebuilding.find? (fun p => p.1 = ch) = some (ch, die) :=
  ⟨{ ready with bag := { ready.bag with rebuilding := [(17, 15)] } }, 17, 15, 0, by decide +kernel⟩

theorem witness_FlashRows_6 :
    ∃ (s : State) (n member : Nat) (refilled unread : List Nat) (st : Stripe), s.bag.stripes.find? (fun t => t.no = n) = some st
      ∧ st.lost = false ∧ mirrorOn s = false :=
  ⟨{ ready with bag := { ready.bag with stripes := [{ no := 4, seqs := [], lostMembers := [], lost := false }] } }, 4, 17, [], [],
   { no := 4, seqs := [], lostMembers := [], lost := false }, by decide +kernel, by decide +kernel, by decide +kernel⟩

theorem witness_FlashRows_7 :
    ∃ (s : State) (n member : Nat) (refilled unread : List Nat) (g : Gone), s.bag.stripes.find? (fun t => t.no = n) = none :=
  ⟨ready, 4, 17, [], [], { entries := [], progs := [], tables := [], dump := [] }, by decide +kernel⟩

theorem witness_FlashRows_8 :
    ∃ (s : State) (full now_ : Nat), 4000 ≤ full :=
  ⟨ready, 4000, 0, by decide +kernel⟩

theorem witness_FlashRows_9 :
    ∃ (s : State) (full now_ : Nat), 2000 ≤ full ∧ full < 4000 ∧ 4000 ≤ s.bag.fullMj :=
  ⟨ready, 3999, 0, by decide +kernel, by decide +kernel, by decide +kernel⟩

theorem witness_FlashRows_10 :
    ∃ (s : State) (full now_ : Nat), full < 2000 ∧ s.bag.bankFailed = false ∧ s.chn.map.length < 1019 :=
  ⟨ready, 1999, 0, by decide +kernel, by decide +kernel, by decide +kernel⟩

theorem witness_FlashRows_11 :
    ∃ (s : State), s.bag.nowMj < 2000 ∧ s.bag.bankFailed = false :=
  ⟨{ ready with bag := { ready.bag with nowMj := 1999 } }, by decide +kernel, by decide +kernel⟩

theorem witness_FlashRows_12 :
    ∃ (s : State) (n : Nat), 2000 ≤ n :=
  ⟨ready, 2000, by decide +kernel⟩

theorem witness_FlashRows_13 :
    ∃ (s : State), s.chn.stage = 6 ∧ s.chn.losing = false ∧ s.chn.sealed = false :=
  ⟨ready, by decide +kernel, by decide +kernel, by decide +kernel⟩

theorem witness_FlashRows_14 :
    ∃ (s : State) (ns : Nat), s.chn.stage = 6 ∧ s.chn.losing = false ∧ s.chn.sealed = false ∧ 1000 ≤ ns :=
  ⟨ready, 1000, by decide +kernel, by decide +kernel, by decide +kernel, (by decide +kernel)⟩

theorem witness_FlashRows_15 :
    ∃ (s : State) (ns : Nat), ns < 1000 :=
  ⟨ready, 999, by decide +kernel⟩

theorem witness_FlashRows_16 :
    ∃ (s : State), s.chn.losing = true :=
  ⟨{ ready with chn := { ready.chn with losing := true } }, by decide +kernel⟩

theorem witness_StepIdles_1 :
    ∃ (s : State), s.pending = [] :=
  ⟨ready, by decide +kernel⟩

theorem witness_StepKeepsInvariant_1 :
    ∃ (s t : State), Inv s ∧ step s = .next t :=
  ⟨State.reset, _, ⟨rfl, rfl, rfl, rfl, rfl⟩, rfl⟩

theorem witness_CommandFrames_1 :
    ∃ (i : Instr) (s t : State), exec i s = .next t :=
  ⟨.priEnableSet, ready, _, rfl⟩

theorem witness_RecordWritten_1 :
    ∃ (i : RingId) (r : Ring) (mk : Bool → List Byte) (s u : State), ((∀ e, i = .ev e → e < 8)) ∧ memWf s.hostMem = true
      ∧ writeRecord i r mk s = .done u :=
  ⟨.cq 0, ringOn, fun _ => packed 32 [(0, 1)], ready, _, nofun, by decide +kernel, done_ok (by decide +kernel)⟩

theorem witness_BufferWritten_1 :
    ∃ (w : Who) (va : Nat) (bs : List Byte) (s t : State), memWf s.hostMem = true ∧ w.remote = none ∧ writeDev w va bs s = .ok () t :=
  ⟨{ dom := 0, queue := 0, tag := 0, pri := false }, 4095, [1, 2], ready, _, by decide +kernel, by decide +kernel,
   res_unit (by decide +kernel)⟩

theorem witness_BufferWritten_2 :
    ∃ (w : Who) (va st : Nat) (bs : List Byte) (f : Option CmdFault) (s t : State), w.remote = none ∧ writeDev w va bs s = .fail st f t :=
  ⟨{ dom := 1, queue := 0, tag := 0, pri := false }, 0, _, [1], _, ready, _, by decide +kernel, res_fail (by decide +kernel)⟩

theorem witness_BufferWritten_3 :
    ∃ (w : Who) (va : Nat) (bs : List Byte) (s t : State), w.remote = none ∧ writeDev w va bs s = .wait t :=
  ⟨{ dom := 0, queue := 0, tag := 0, pri := false }, 0, [1], { ready with crook := { ready.crook with atsEnable := true } }, _,
   by decide +kernel, res_wait (by decide +kernel)⟩

theorem witness_RegisterReads_1 :
    ∃ (o n : Nat) (s : State) (b : Blk) (i : Nat), o < 2 ^ 26 ∧ pageBlk (o / 4096) = some (b, i) ∧ bar0Kind s true o n = 0 :=
  ⟨0x3008, 8, ready, .chn, 0, by decide +kernel, by decide +kernel, by decide +kernel⟩

theorem witness_RegisterReads_2 :
    ∃ (o n : Nat) (s : State), o + n ≤ 2 ^ 23 :=
  ⟨2 ^ 23 - 8, 8, ready, by decide +kernel⟩

theorem witness_RegisterReads_3 :
    ∃ (o n : Nat) (s : State), o < 2 ^ 16 ∧ bar4Ok o n = true :=
  ⟨2 ^ 16 - 4, 4, ready, by decide +kernel, by decide +kernel⟩

theorem witness_RegisterReads_4 :
    ∃ (o n : Nat) (s : State), o < 2 ^ 26 ∧ bar0Kind s true o n ≠ 0 :=
  ⟨2 ^ 26 - 1, 1, ready, by decide +kernel, by decide +kernel⟩

theorem witness_RegisterWrites_1 :
    ∃ (o : Nat) (data : List Byte) (s : State) (b : Blk) (i : Nat) (d : RegDef), o < 2 ^ 26 ∧ pageBlk (o / 4096) = some (b, i)
      ∧ bar0Kind s false o data.length = 0 ∧ o % 4096 = 0x038 ∧ regDef b i (o % 4096) = some d ∧ writable d = true :=
  ⟨0x3038, packed 8 [], ready, .chn, 0, (regDef .chn 0 0x038).get (by decide +kernel), by decide +kernel, by decide +kernel,
   by decide +kernel, (by decide +kernel), (Option.some_get _).symm, by decide +kernel⟩

theorem witness_RegisterWrites_2 :
    ∃ (o : Nat) (data : List Byte) (s : State) (b : Blk) (i : Nat) (d : RegDef), o < 2 ^ 26 ∧ pageBlk (o / 4096) = some (b, i)
      ∧ bar0Kind s false o data.length = 0 ∧ ((o % 4096 ≠ 0x020 ∧ o % 4096 ≠ 0x038 ∧ o % 4096 ≠ 0x040)) ∧ regDef b i (o % 4096) = some d
      ∧ writable d = true ∧ (b ∈ [.wch, .reed, .kwk, .bell, .vlv, .chn, .sec] ∨ (b = .bore ∧ o % 4096 ≠ 0x138)) :=
  ⟨blkPage .bore 31 * 4096 + 0x140, packed 8 [], ready, .bore, 31, (regDef .bore 31 0x140).get (by decide +kernel), by decide +kernel,
   by decide +kernel, by decide +kernel, (by decide +kernel), (Option.some_get _).symm, by decide +kernel, by decide +kernel⟩

theorem witness_RegisterWrites_3 :
    ∃ (o : Nat) (data : List Byte) (s : State) (b : Blk) (i : Nat) (d : RegDef), o < 2 ^ 26 ∧ pageBlk (o / 4096) = some (b, i)
      ∧ bar0Kind s false o data.length = 0 ∧ regDef b i (o % 4096) = some d ∧ writable d = false :=
  ⟨0x3008, packed 8 [], ready, .chn, 0, (regDef .chn 0 0x008).get (by decide +kernel), by decide +kernel, by decide +kernel,
   by decide +kernel, (Option.some_get _).symm, by decide +kernel⟩

theorem witness_RegisterWrites_4 :
    ∃ (o : Nat) (data : List Byte) (s : State), o + 4 ≤ 0x8000 ∧ o % 4 = 0 ∧ data.length = 4 :=
  ⟨0x7FFC, packed 4 [(0, 1)], ready, by decide +kernel, by decide +kernel, by decide +kernel⟩

theorem witness_RegisterWrites_5 :
    ∃ (q o : Nat) (data : List Byte) (s : State), q < 32768 ∧ data ≠ [] ∧ o + data.length ≤ 0x78 :=
  ⟨32767, 0x77, [1], ready, by decide +kernel, by decide +kernel, by decide +kernel⟩

theorem witness_RegisterWrites_6 :
    ∃ (v : Word64) (s : State), calKind s = 2 ∧ calIndex s < 9 :=
  ⟨0, { ready with regs := ready.regs ++ [(reg .blw 0 0x180, 2 * 2 ^ 24 + 8)] }, by decide +kernel, by decide +kernel⟩

theorem witness_RegisterWrites_7 :
    ∃ (v : Word64) (s : State), calKind s = 4 ∧ calIndex s % 16 < 12 ∧ calIndex s / 16 < 3 :=
  ⟨0, { ready with regs := ready.regs ++ [(reg .blw 0 0x180, 4 * 2 ^ 24 + 16 * 2 + 11)] }, by decide +kernel, by decide +kernel,
   by decide +kernel⟩

theorem witness_RegisterWrites_8 :
    ∃ (v : Word64) (s : State), ((calKind s ≠ 2 ∨ ¬ calIndex s < 9)) :=
  ⟨0, { ready with regs := ready.regs ++ [(reg .blw 0 0x180, 2 * 2 ^ 24 + 9)] }, by decide +kernel⟩

theorem witness_HeadWrites_1 :
    ∃ (q : Nat) (v : BitVec 32) (s : State) (qu : Queue) (r : Ring), tget s.queues q = some qu ∧ tget s.rings qu.ring = some r
      ∧ r.enabled = true ∧ headOk r (v.toNat % 65536) = true :=
  ⟨0, 0, { ready with rings := [(0, ringOn)] }, queueZero, ringOn, by decide +kernel, by decide +kernel, by decide +kernel,
   (by decide +kernel)⟩

theorem witness_HeadWrites_2 :
    ∃ (e : Nat) (v : Word64) (s : State), e < 8 ∧ (evRing s e).enabled = true ∧ headOk (evRing s e) (v.toNat % 65536) = true :=
  ⟨7, 0, { ready with evRings := [(7, ringOn)] }, by decide +kernel, by decide +kernel, by decide +kernel⟩

theorem witness_HeadWrites_3 :
    ∃ (q : Nat) (v : BitVec 32) (s : State),
      ((∀ qu r, tget s.queues q = some qu → tget s.rings qu.ring = some r → r.enabled = false ∨ headOk r (v.toNat % 65536) = false)) :=
  ⟨0, 1, { ready with rings := [(0, ringOn)] },
   fun qu r h1 h2 => by
    have : qu = queueZero := by simpa [ready, State.reset, tget] using h1.symm
    subst this
    have : r = ringOn := by simpa [queueZero, tget] using h2.symm
    subst this
    exact Or.inr (by decide +kernel)⟩

theorem witness_InterruptRows_1 :
    ∃ (i : RingId) (s : State) (r : Ring), ringGet s i = some r ∧ r.intEn = true ∧ r.coalTime ≠ 0 ∧ r.since > 0 :=
  ⟨.cq 0, { ready with rings := [(0, { ringOn with intEn := true, coalTime := 1, since := 1 })] },
   { ringOn with intEn := true, coalTime := 1, since := 1 }, by decide +kernel, by decide +kernel, by decide +kernel, (by decide +kernel)⟩

theorem witness_InterruptRows_2 :
    ∃ (v : Nat) (s : State), v < 2048 :=
  ⟨2047, ready, by decide +kernel⟩

theorem witness_RingContextRows_1 :
    ∃ (i : RingId) (v : Word64) (s : State) (r : Ring), mpcRing i = true ∧ ringGet s i = some r ∧ r.enabled = false :=
  ⟨.ev 7, 0, { ready with evRings := [(7, ringReset)] }, ringReset, by decide +kernel, by decide +kernel, by decide +kernel⟩

theorem witness_RingContextRows_2 :
    ∃ (i : RingId) (v : Word64) (s : State) (r : Ring), mpcRing i = true ∧ ringGet s i = some r ∧ r.enabled = false ∧ bit v.toNat 8 = true
      ∧ ctxValid s i (ctxWord1 v r) (ctxRes1 v) = true ∧ i ≠ .ev 0 :=
  ⟨.cq 0, 0x107, { ready with rings := [(0, { ringReset with base := 4096 })] }, { ringReset with base := 4096 }, by decide +kernel,
   by decide +kernel, by decide +kernel, (by decide +kernel), by decide +kernel, by decide +kernel⟩

theorem witness_RingContextRows_3 :
    ∃ (v : Word64) (s : State) (r : Ring), ringGet s (.ev 0) = some r ∧ r.enabled = false ∧ bit v.toNat 8 = true
      ∧ ctxValid s (.ev 0) (ctxWord1 v r) (ctxRes1 v) = true :=
  ⟨0x106, { ready with evRings := [(0, { ringReset with base := 4096 })] }, { ringReset with base := 4096 }, by decide +kernel,
   by decide +kernel, by decide +kernel, (by decide +kernel)⟩

theorem witness_RingContextRows_4 :
    ∃ (i : RingId) (v : Word64) (s : State) (r : Ring), mpcRing i = true ∧ ringGet s i = some r ∧ bit v.toNat 8 = false :=
  ⟨.cq 0, 0, ready, ringReset, by decide +kernel, by decide +kernel, by decide +kernel⟩

theorem witness_RingContextRows_5 :
    ∃ (i : RingId) (s u : State) (r : Ring) (g : Region × Bool) (ps : List (Nat × Nat)), ringGet s i = some r ∧ r.enabled = true
      ∧ r.zeroing = true ∧ r.faulted = false
      ∧ xlatRange (ringWho i r) true (rangePages r.base (ringBytes i r)) r.base (ringBytes i r) s = .ok ps u
      ∧ regionOf u (ringDom i r) r.base = some g ∧ g.1.key = 0xFFFF :=
  ⟨.cq 0, { ready with rings := [(0, { ringOn with zeroing := true })] }, _, { ringOn with zeroing := true }, (bootRegion ready, true), _,
   by decide +kernel, by decide +kernel, by decide +kernel, (by decide +kernel), res_ok (by decide +kernel), by decide +kernel,
   by decide +kernel⟩

theorem witness_PortRows_1 :
    ∃ (s : State) (n lane : Nat) (p : Port), n < 12 ∧ lane < 8 ∧ s.cst.ports[n]? = some p
      ∧ unitGone s { kind := 8, logical := laneOf n lane } = false ∧ sparesLeft s 8 (laneOf n lane) ≠ 0 :=
  ⟨ready, 11, 7, { up := false, present := false, kr8 := false, noSpare := false }, by decide +kernel, by decide +kernel, by decide +kernel,
   (by decide +kernel), by decide +kernel⟩

theorem witness_PortRows_4 :
    ∃ (s : State) (n : Nat) (m : Bool) (p : Port), n < 12 ∧ s.cst.ports[n]? = some p :=
  ⟨ready, 11, true, { up := false, present := false, kr8 := false, noSpare := false }, by decide +kernel, by decide +kernel⟩

theorem witness_PortRows_5 :
    ∃ (s : State) (n : Nat) (m : Bool) (p : Port), n < 12 ∧ s.cst.ports[n]? = some p :=
  ⟨ready, 11, true, { up := false, present := false, kr8 := false, noSpare := false }, by decide +kernel, by decide +kernel⟩

theorem witness_PortRows_6 :
    ∃ (s : State) (n : Nat) (up : Bool) (p : Port), n < 12 ∧ s.cst.ports[n]? = some p ∧ p.up = !up
      ∧ ((up = true → p.present = true ∧ p.noSpare = false)) :=
  ⟨(linked (peer0) []), 0, false, { up := true, present := true, kr8 := false, noSpare := false }, by decide +kernel, by decide +kernel,
   by decide +kernel, (by decide +kernel)⟩

theorem witness_PortRows_7 :
    ∃ (s : State) (n : Nat) (p : Port), s.cst.ports[n]? = some p ∧ p.up = false ∧ (p.present = false ∨ p.noSpare = true) :=
  ⟨ready, 11, { up := false, present := false, kr8 := false, noSpare := false }, by decide +kernel, by decide +kernel, by decide +kernel⟩

theorem witness_PortRows_8 :
    ∃ (s : State) (n hi lo : Nat) (p : Port), fabricOn s = true ∧ s.cst.ports[n]? = some p ∧ p.up = true
      ∧ ((regGet s (reg .cst 12 0x100)).toNat * 2 ^ 64 + (regGet s (reg .cst 12 0x108)).toNat + n) % 2 ^ 128 = hi * 2 ^ 64 + lo :=
  ⟨(linked (peer0) []), 0, 0, 0, { up := true, present := true, kr8 := false, noSpare := false }, by decide +kernel, by decide +kernel,
   by decide +kernel, (by decide +kernel)⟩


def ment (vid : Nat) : MutEntry :=
  { record := (entry0 0 vid 1).record, code := none, src := .held [0], codeOnly := false, bad := none, done := none }
def mut0 (vid : Nat) : Mut := { entries := [ment vid], mask := 0, version := 0, encNext := false, enc := [], order := [0], read := true }

/-- A mutation of ID `vid` ready for its journal write. -/
def mutating (op vid : Nat) : Cmd := { mk op [(32, vid)] with work := .mutate (mut0 vid) }

/-- A list walk that has brought one data entry of `n` bytes at address 0. -/
def walked (n : Nat) : ListWalk :=
  { next := 0, left := none, datas := [{ addr := 0, len := n, zero := false }], links := 0, total := n, want := n, done := true }

/-- `ready` with a transport's session open. -/
def managed : State := { ready with sec := { ready.sec with sessions := [0, 1] } }

theorem witness_LogRows_1 :
    ∃ (s : State) (rs : List JRec), bagWorks s = true ∧ stripeDue s = true ∧ rs = fillStripe (2 ^ 18) (undrained s) :=
  ⟨(bagOf { ready.bag with recs := [rec0], closeTo := 1 } []), [rec0], by decide +kernel, by decide +kernel, by decide +kernel⟩

theorem witness_LogRows_2 :
    ∃ (s : State) (x : Cmd) (n : Nat), bagWorks s = true ∧ stripeDue s = true ∧ cmdGet s x.id = some x
      ∧ ((∀ y ∈ s.cmds, y.id = x.id → y = x)) ∧ x.work = .wait 3 n
      ∧ ((∀ r ∈ s.bag.recs, r.seq ≤ n → r.stripe = none → r.seq ∈ (fillStripe (2 ^ 18) (undrained s)).map JRec.seq)) :=
  ⟨(bagOf { ready.bag with recs := [rec0], closeTo := 1 } [{ mk 0x50 [] with work := .wait 3 1 }]), { mk 0x50 [] with work := .wait 3 1 },
   1, by decide +kernel, by decide +kernel, by decide +kernel, (by decide +kernel), by decide +kernel, by decide +kernel⟩

theorem witness_LogRows_3 :
    ∃ (s : State) (r : JRec) (l : List JRec), undrained s = r :: l ∧ r.at_ + drainUs s * 1000 ≤ s.now :=
  ⟨{ bagOf { ready.bag with recs := [rec0] } [] with now := 500000 }, rec0, [], by decide +kernel, by decide +kernel⟩

theorem witness_LogRows_4 :
    ∃ (s : State) (r : JRec) (l : List JRec), undrained s = r :: l ∧ s.now < r.at_ + drainUs s * 1000 :=
  ⟨{ bagOf { ready.bag with recs := [rec0] } [] with now := 499999 }, rec0, [], by decide +kernel, by decide +kernel⟩

theorem witness_LogRows_5 :
    ∃ (s : State) (r : JRec), bagWorks s = true ∧ s.bag.recs.find? (fun q => q.seq = r.seq) = some r ∧ r.stripe = none ∧ r.poisoned = false
      ∧ (r.type = 0x01 ∨ r.type = 0x02) :=
  ⟨(bagOf { ready.bag with recs := [rec1] } []), rec1, by decide +kernel, by decide +kernel, by decide +kernel, (by decide +kernel),
   by decide +kernel⟩

theorem witness_LogRows_6 :
    ∃ (s : State) (r : JRec) (headerOk : Bool), bagWorks s = true ∧ s.bag.recs.find? (fun q => q.seq = r.seq) = some r ∧ r.stripe = none
      ∧ r.poisoned = false ∧ (headerOk = false ∨ (r.type ≠ 0x01 ∧ r.type ≠ 0x02)) ∧ s.bag.ckpt.isSome = true :=
  ⟨(bagOf { ready.bag with recs := [rec0], ckpt := some (0, imageEmpty) } []), rec0, true, by decide +kernel, by decide +kernel,
   by decide +kernel, (by decide +kernel), by decide +kernel, by decide +kernel⟩

theorem witness_LogRows_7 :
    ∃ (s : State), (s.bag.ckptAt + ckptSecs s * 1000000000 ≤ s.now ∨ 2 ^ 36 < logBeyond s) :=
  ⟨{ ready with now := 60000000000 }, by decide +kernel⟩

theorem witness_LogRows_8 :
    ∃ (s : State) (cut : Nat) (img : Image), bagWorks s = true ∧ s.bag.ckpt = some (cut, img) :=
  ⟨(bagOf { ready.bag with ckpt := some (0, imageEmpty) } []), 0, imageEmpty, by decide +kernel, by decide +kernel⟩

theorem witness_LogRows_9 :
    ∃ (s : State) (n : Nat) (st : Stripe), droneWorks s = true ∧ (countDead s).bag.stripes.find? (fun t => t.no = n) = some st
      ∧ st.lost = false
      ∧ ((∀ r ∈ (countDead s).bag.recs, r.stripe = some n → r.seq ≤ s.bag.root.ckptSeq ∧ (r.dead = true ∨ isSource r = false))) :=
  ⟨(bagOf { ready.bag with stripes := [{ no := 4, seqs := [], lostMembers := [], lost := false }] } []), 4,
   { no := 4, seqs := [], lostMembers := [], lost := false }, by decide +kernel, by decide +kernel, by decide +kernel, (by decide +kernel)⟩

theorem witness_LogRows_10 :
    ∃ (s : State) (n unit : Nat) (st : Stripe), bagWorks s = true ∧ s.bag.stripes.find? (fun t => t.no = n) = some st ∧ st.lost = false
      ∧ unit < 18 :=
  ⟨(bagOf { ready.bag with stripes := [{ no := 4, seqs := [], lostMembers := [], lost := false }] } []), 4, 17,
   { no := 4, seqs := [], lostMembers := [], lost := false }, by decide +kernel, by decide +kernel, by decide +kernel, (by decide +kernel)⟩

theorem witness_ManagementRows_1 :
    ∃ (s : State) (tr : Nat), mctpUp s tr = true :=
  ⟨ready, 1, by decide +kernel⟩

theorem witness_ManagementRows_2 :
    ∃ (s : State) (tr n : Nat) (k : BitVec 256) (i : Instr), mctpUp s tr = true ∧ s.sec.busy = false ∧ tr ∉ s.sec.sessions
      ∧ i ∈ [.coldReset tr, .mgmtWarmReset tr, .format tr, .mgmtSetTime tr n, .kekSet tr n k] :=
  ⟨ready, 1, 0, 0, .coldReset 1, by decide +kernel, by decide +kernel, by decide +kernel, (by decide +kernel)⟩

theorem witness_ManagementRows_3 :
    ∃ (s : State) (tr n : Nat) (b : Bool) (i : Instr), mctpUp s tr = true ∧ s.sec.busy = false ∧ tr ∉ s.sec.sessions
      ∧ i ∈ [.off tr, .holdSet tr, .holdClear tr, .debugEnable tr n b] :=
  ⟨ready, 1, 0, false, .off 1, by decide +kernel, by decide +kernel, by decide +kernel, (by decide +kernel)⟩

theorem witness_ManagementRows_4 :
    ∃ (s : State) (tr : Nat), VendorReady s tr ∧ mgmtReady s = false :=
  ⟨{ managed with chn := { managed.chn with stage := 3 } }, 1, ⟨by decide +kernel, by decide +kernel, by decide +kernel⟩, by decide +kernel⟩

theorem witness_ManagementRows_5 :
    ∃ (s : State) (tr : Nat), VendorReady s tr ∧ powered s = true ∧ s.chn.stage = 6 ∧ s.chn.mode ≠ .off :=
  ⟨managed, 1, ⟨by decide +kernel, by decide +kernel, by decide +kernel⟩, by decide +kernel, by decide +kernel, (by decide +kernel)⟩

theorem witness_ManagementRows_6 :
    ∃ (s : State) (tr : Nat), VendorReady s tr ∧ powered s = true ∧ s.chn.stage ≠ 6 ∧ s.chn.mode ≠ .off :=
  ⟨{ managed with chn := { managed.chn with stage := 3 } }, 1, ⟨by decide +kernel, by decide +kernel, by decide +kernel⟩, by decide +kernel,
   by decide +kernel, (by decide +kernel)⟩

theorem witness_ManagementRows_7 :
    ∃ (s : State) (tr : Nat), VendorReady s tr ∧ powered s = true ∧ mgmtReady s = true :=
  ⟨managed, 1, ⟨by decide +kernel, by decide +kernel, by decide +kernel⟩, by decide +kernel, by decide +kernel⟩

theorem witness_ManagementRows_8 :
    ∃ (s : State) (tr : Nat), VendorReady s tr ∧ powered s = true ∧ mgmtReady s = false :=
  ⟨{ managed with chn := { managed.chn with stage := 3 } }, 1, ⟨by decide +kernel, by decide +kernel, by decide +kernel⟩, by decide +kernel,
   by decide +kernel⟩

theorem witness_ManagementRows_9 :
    ∃ (s : State) (tr : Nat), VendorReady s tr ∧ mgmtReady s = true :=
  ⟨managed, 1, ⟨by decide +kernel, by decide +kernel, by decide +kernel⟩, by decide +kernel⟩

theorem witness_ManagementRows_10 :
    ∃ (s : State) (tr : Nat), VendorReady s tr ∧ mgmtReady s = true :=
  ⟨managed, 1, ⟨by decide +kernel, by decide +kernel, by decide +kernel⟩, by decide +kernel⟩

theorem witness_ManagementRows_11 :
    ∃ (s : State) (tr : Nat), VendorReady s tr ∧ mgmtReady s = true ∧ s.chn.causes.getLsbD 4 = true :=
  ⟨{ managed with chn := { managed.chn with causes := 16 } }, 1, ⟨by decide +kernel, by decide +kernel, by decide +kernel⟩,
   by decide +kernel, by decide +kernel⟩

theorem witness_ManagementRows_12 :
    ∃ (s : State) (tr : Nat), VendorReady s tr ∧ formatAllowed s = true :=
  ⟨{ managed with chn := { managed.chn with mode := .off } }, 1, ⟨by decide +kernel, by decide +kernel, by decide +kernel⟩,
   by decide +kernel⟩

theorem witness_ManagementRows_13 :
    ∃ (s : State) (tr n : Nat), VendorReady s tr ∧ powered s = true ∧ n < 2 ^ 64 :=
  ⟨managed, 1, 2 ^ 64 - 1, ⟨by decide +kernel, by decide +kernel, by decide +kernel⟩, by decide +kernel, by decide +kernel⟩

theorem witness_ManagementRows_14 :
    ∃ (s : State) (tr n : Nat) (k : BitVec 256), VendorReady s tr ∧ powered s = true ∧ n < 2 ^ 32 :=
  ⟨managed, 1, 2 ^ 32 - 1, 0, ⟨by decide +kernel, by decide +kernel, by decide +kernel⟩, by decide +kernel, by decide +kernel⟩

theorem witness_ManagementRows_15 :
    ∃ (s : State) (tr n : Nat), VendorReady s tr ∧ mgmtReady s = true :=
  ⟨managed, 1, 0, ⟨by decide +kernel, by decide +kernel, by decide +kernel⟩, by decide +kernel⟩

theorem witness_ManagementRows_16 :
    ∃ (s : State) (tr n : Nat), VendorReady s tr ∧ mgmtReady s = true :=
  ⟨managed, 1, 0, ⟨by decide +kernel, by decide +kernel, by decide +kernel⟩, by decide +kernel⟩

theorem witness_ManagementRows_17 :
    ∃ (s : State) (c svn release : Nat), (c = 1 ∨ c = 2) ∧ s.sec.fuse ≤ svn ∧ svn ≤ 63 :=
  ⟨ready, 2, 63, 0, by decide +kernel, by decide +kernel, by decide +kernel⟩

theorem witness_ManagementRows_18 :
    ∃ (s : State) (c svn release : Nat) (ok : Bool), (c = 1 ∨ c = 2) ∧ (ok = false ∨ svn < s.sec.fuse ∨ 63 < svn) :=
  ⟨ready, 1, 64, 0, true, by decide +kernel, by decide +kernel⟩

theorem witness_ManagementRows_19 :
    ∃ (s : State) (c : Nat), (c = 1 ∨ c = 2) ∧ (bankOf c (updateBank s c) s.sec).valid = true :=
  ⟨ready, 2, by decide +kernel, by decide +kernel⟩

theorem witness_ManagementRows_20 :
    ∃ (s : State) (tr : Nat) (d : List Byte), transportUp s tr = true :=
  ⟨ready, 1, [], by decide +kernel⟩

theorem witness_ManagementRows_21 :
    ∃ (s : State) (tr : Nat) (d : List Byte), transportUp s tr = true :=
  ⟨ready, 1, [], by decide +kernel⟩

theorem witness_ManagementRows_23 :
    ∃ (s : State) (tr eid : Nat), mctpUp s tr = true :=
  ⟨ready, 1, 8, by decide +kernel⟩

theorem witness_ManagementRows_24 :
    ∃ (s : State) (tr eid : Nat), mctpUp s tr = true :=
  ⟨ready, 1, 8, by decide +kernel⟩

theorem witness_MirrorRows_1 :
    ∃ (s : State) (peer : Nat) (recs : List MirrorRec) (p : Peer), fabricOn s = true ∧ tget s.cst.peers peer = some p ∧ p.enable = true
      ∧ p.state = 2 ∧ bit p.roles 3 = true ∧ recs ≠ [] ∧ (mirrors p = true ∨ (s.cst.peers.filter (fun q => mirrors q.2)).length < 4)
      ∧ fetchOf s peer recs = none :=
  ⟨(linked (peer0) []), 1023, [{ seq := 3, source := true, image := [1] }], peer0, by decide +kernel, by decide +kernel, by decide +kernel,
   (by decide +kernel), by decide +kernel, by decide +kernel, by decide +kernel, (by decide +kernel)⟩

theorem witness_MirrorRows_2 :
    ∃ (s : State) (peer : Nat) (recs : List MirrorRec) (p : Peer) (f : Nat × Nat × Nat), fabricOn s = true ∧ tget s.cst.peers peer = some p
      ∧ p.enable = true ∧ p.state = 2 ∧ fetchOf s peer recs = some f :=
  ⟨{ linked (peer0) [] with cst := { (linked (peer0) []).cst with fetches := [(1023, 3, 3)] } }, 1023,
   [{ seq := 3, source := true, image := [1] }], peer0, (1023, 3, 3), by decide +kernel, by decide +kernel, by decide +kernel,
   (by decide +kernel), by decide +kernel⟩

theorem witness_MirrorRows_3 :
    ∃ (s : State) (peer seq : Nat) (p : Peer), fabricOn s = true ∧ tget s.cst.peers peer = some p ∧ p.enable = true ∧ p.state = 2
      ∧ mirrorOn s = true ∧ peer = mirrorPeer s :=
  ⟨{ linked (peer0) [] with regs := (linked (peer0) []).regs ++ [(reg .cst 12 0x140, 0x103FF)] }, 1023, 3, peer0, by decide +kernel,
   by decide +kernel, by decide +kernel, (by decide +kernel), by decide +kernel, by decide +kernel⟩

theorem witness_MirrorRows_4 :
    ∃ (s : State) (peer first last : Nat) (p : Peer), fabricOn s = true ∧ tget s.cst.peers peer = some p ∧ p.enable = true ∧ p.state = 2
      ∧ bit p.roles 3 = true ∧ p.queued = [] ∧ p.unacked = []
      ∧ (((p.mirrorLog ++ p.mirror).filter (fun r => first ≤ r.seq && r.seq ≤ last)).flatMap MirrorRec.image).length ≤ 2 ^ 20 :=
  ⟨(linked (peer0) []), 1023, 1, 3, peer0, by decide +kernel, by decide +kernel, by decide +kernel, (by decide +kernel), by decide +kernel,
   by decide +kernel, by decide +kernel, (by decide +kernel)⟩

theorem witness_MirrorRows_5 :
    ∃ (s : State) (peer ckpt : Nat) (dead : List (Nat × Nat)) (p : Peer), fabricOn s = true ∧ tget s.cst.peers peer = some p
      ∧ p.enable = true ∧ p.state = 2 ∧ bit p.roles 3 = true ∧ dead.length ≤ 65536 :=
  ⟨(linked (peer0) []), 1023, 0, [], peer0, by decide +kernel, by decide +kernel, by decide +kernel, (by decide +kernel), by decide +kernel,
   by decide +kernel⟩

theorem witness_MirrorRows_6 :
    ∃ (s : State), mirrorOn s = true ∧ overdue s ≠ [] :=
  ⟨{ ready with regs := ready.regs ++ [(reg .cst 12 0x140, 0x10000)], bag := { ready.bag with recs := [rec0] }, now := 10 ^ 9 },
   by decide +kernel, by decide +kernel⟩

theorem witness_MirrorRows_7 :
    ∃ (s : State) (v : Word64), pageOpen s .cst = true ∧ (peerOf s (peerSel s)).enable = false ∧ v.getLsbD 32 = true :=
  ⟨ready, 0x1_0000_0000, by decide +kernel, by decide +kernel, by decide +kernel⟩

theorem witness_MirrorRows_8 :
    ∃ (s : State) (v : Word64) (p : Peer), pageOpen s .cst = true ∧ tget s.cst.peers (peerSel s) = some p ∧ p.enable = true
      ∧ v.getLsbD 32 = false :=
  ⟨{ linked (peer0) [] with regs := (linked (peer0) []).regs ++ [(reg .cst 12 0x120, 0x3FF)] }, 0, peer0, by decide +kernel,
   by decide +kernel, by decide +kernel, (by decide +kernel)⟩

theorem witness_MirrorRows_9 :
    ∃ (s : State) (v : Word64), pageOpen s .cst = true ∧ (peerOf s (peerSel s)).enable = true ∧ v.getLsbD 32 = true
      ∧ (bits v.toNat 31 24 ≠ (peerOf s (peerSel s)).domain ∨ bits v.toNat 19 16 ≠ (peerOf s (peerSel s)).roles) :=
  ⟨{ linked (peer0) [] with regs := (linked (peer0) []).regs ++ [(reg .cst 12 0x120, 0x3FF)] }, 0x1_0100_0000, by decide +kernel,
   by decide +kernel, by decide +kernel, (by decide +kernel)⟩

theorem witness_MirrorRows_10 :
    ∃ (s : State) (v : Word64), pageOpen s .cst = true :=
  ⟨ready, 0, by decide +kernel⟩

theorem witness_MirrorRows_11 :
    ∃ (s : State) (v : Word64), pageOpen s .cst = true ∧ ((∀ x ∈ s.cmds, x.sub = none)) :=
  ⟨ready, 0, by decide +kernel, by decide +kernel⟩

theorem witness_MirrorRows_12 :
    ∃ (s : State) (v : Word64) (x : Cmd), pageOpen s .cst = true ∧ x ∈ s.cmds ∧ x.sub ≠ none ∧ v &&& 0x1FFF ≠ regGet s (reg .cst 12 0x118) :=
  ⟨(busy [{ mk 0x30 [] with sub := some (3, 1) }]), 1, { mk 0x30 [] with sub := some (3, 1) }, by decide +kernel, by decide +kernel,
   by decide +kernel, (by decide +kernel)⟩

theorem witness_MessageRows_1 :
    ∃ (s : State) (peer request kind coll shard deadline bits_ ver next : Nat) (bnd cut : Bool) (params codes rq filter : List Byte) (tset_ : List Nat) (p : Peer),
      peer < 1024 ∧ tget s.cst.peers peer = some p ∧ p.enable = true ∧ p.state = 2 ∧ bit p.roles 0 = true
      ∧ ((∀ y ∈ s.cmds, y.id ≠ s.nextCmd)) :=
  ⟨(linked (peer0) []), 1023, 1, 1, 0, 2, 0, 0, 0, 0, false, false, [], [], [], [], [], peer0, by decide +kernel, by decide +kernel,
   by decide +kernel, (by decide +kernel), by decide +kernel, by decide +kernel⟩

theorem witness_MessageRows_2 :
    ∃ (s : State) (peer request kind coll shard deadline bits_ ver next : Nat) (bnd cut : Bool) (params codes rq filter : List Byte) (tset_ : List Nat) (p : Peer),
      peer < 1024 ∧ tget s.cst.peers peer = some p ∧ p.enable = true ∧ p.state = 2 ∧ bit p.roles 0 = false ∧ p.queued = []
      ∧ p.unacked.length ≤ 4000 :=
  ⟨(linked ({ peer0 with roles := 0xE }) []), 1023, 1, 1, 0, 2, 0, 0, 0, 0, false, false, [], [], [], [], [], { peer0 with roles := 0xE },
   by decide +kernel, by decide +kernel, by decide +kernel, (by decide +kernel), by decide +kernel, by decide +kernel, by decide +kernel⟩

theorem witness_MessageRows_3 :
    ∃ (s : State) (peer request : Nat) (rep : ShardReport) (es : List WireEntry) (p : Peer) (x : Cmd) (f : Fan), peer < 1024
      ∧ tget s.cst.peers peer = some p ∧ p.state = 2 ∧ cmdGet s x.id = some x ∧ x.phase = .executing ∧ x.work = .fan f ∧ f.sent = true :=
  ⟨
   (linked (peer0) [{ mk 0x32 [] with work := .fan { shards := [], k := 1, kSel := 1, rerankN := 0, key := 0, h := 0, cut := false, enc := [], sent := true, sentAt := 0, subUs := 0, params := [], codes := [], rq := [], filter := [], tset := [] } }]),
   1023, 1,
   { viewEpoch := 1, horizon := 0, status := 0, shardId := 2, returned := 0, hflags := 0, tail := 0, stamp := 0, examined := 0, passed := 0 },
   [], peer0,
   { mk 0x32 [] with work := .fan { shards := [], k := 1, kSel := 1, rerankN := 0, key := 0, h := 0, cut := false, enc := [], sent := true, sentAt := 0, subUs := 0, params := [], codes := [], rq := [], filter := [], tset := [] } },
   { shards := [], k := 1, kSel := 1, rerankN := 0, key := 0, h := 0, cut := false, enc := [], sent := true, sentAt := 0, subUs := 0, params := [], codes := [], rq := [], filter := [], tset := [] },
   by decide +kernel, by decide +kernel, by decide +kernel, (by decide +kernel), by decide +kernel, by decide +kernel, by decide +kernel⟩

theorem witness_MessageRows_4 :
    ∃ (s : State) (peer q : Nat) (cmd data : List Byte) (p : Peer) (qu : Queue), q < 32768 ∧ cmd.length = 128 ∧ fabricOn s = true
      ∧ tget s.cst.peers peer = some p ∧ p.enable = true ∧ p.state = 2 ∧ bit p.roles 1 = true ∧ tget s.queues q = some qu ∧ qu.fabric = true
      ∧ qu.domain = p.domain ∧ commitReason s q (cmd.take 120) (fld cmd 120 8) = 0 :=
  ⟨{ linked (peer0) [] with queues := [(32767, { queueZero with fabric := true })] }, 1023, 32767, packed 128 [(0, 1), (122, 1)], [], peer0,
   { queueZero with fabric := true }, by decide +kernel, by decide +kernel, by decide +kernel, (by decide +kernel), by decide +kernel,
   by decide +kernel, by decide +kernel, (by decide +kernel), by decide +kernel, by decide +kernel, by decide +kernel⟩

theorem witness_MessageRows_5 :
    ∃ (s : State) (peer q n : Nat) (cmd data : List Byte) (p : Peer) (qu : Queue), q < 32768 ∧ cmd.length = 128 ∧ fabricOn s = true
      ∧ tget s.cst.peers peer = some p ∧ p.enable = true ∧ p.state = 2 ∧ bit p.roles 1 = true ∧ tget s.queues q = some qu ∧ qu.fabric = true
      ∧ qu.domain = p.domain ∧ commitReason s q (cmd.take 120) (fld cmd 120 8) = n ∧ n ≠ 0 ∧ p.queued = [] ∧ p.unacked.length ≤ 4000 :=
  ⟨{ linked (peer0) [] with queues := [(32767, { queueZero with fabric := true })] }, 1023, 32767, 1, packed 128 [(0, 1)], [], peer0,
   { queueZero with fabric := true }, by decide +kernel, by decide +kernel, by decide +kernel, (by decide +kernel), by decide +kernel,
   by decide +kernel, by decide +kernel, (by decide +kernel), by decide +kernel, by decide +kernel, by decide +kernel, (by decide +kernel),
   by decide +kernel, by decide +kernel⟩

theorem witness_MessageRows_6 :
    ∃ (s : State) (peer q : Nat) (cmd data : List Byte) (p : Peer), q < 32768 ∧ fabricOn s = true ∧ tget s.cst.peers peer = some p
      ∧ p.enable = true ∧ p.state = 2 ∧ bit p.roles 1 = false ∧ p.queued = [] ∧ p.unacked.length ≤ 4000 :=
  ⟨(linked ({ peer0 with roles := 0xD }) []), 1023, 32767, packed 128 [(0, 1), (122, 1)], [], { peer0 with roles := 0xD },
   by decide +kernel, by decide +kernel, by decide +kernel, (by decide +kernel), by decide +kernel, by decide +kernel, by decide +kernel,
   (by decide +kernel)⟩

theorem witness_MessageRows_7 :
    ∃ (s : State) (peer q : Nat) (x : Cmd) (qu : Queue) (p : Peer), s.chn.losing = false
      ∧ s.cmds.find? (fun x => x.queue = q && x.sub.isNone && x.phase = .finished && x.remote = some peer) = some x ∧ journalTurn s x = true
      ∧ tget s.queues q = some qu ∧ qu.fabric = true ∧ tget s.cst.peers peer = some p ∧ p.state = 2 :=
  ⟨
   { linked (peer0) [{ mk 0x01 [] with queue := 5, phase := .finished, remote := some 1023 }] with queues := [(5, { queueZero with fabric := true })] },
   1023, 5, { mk 0x01 [] with queue := 5, phase := .finished, remote := some 1023 }, { queueZero with fabric := true }, peer0,
   by decide +kernel, by decide +kernel, by decide +kernel, (by decide +kernel), by decide +kernel, by decide +kernel, by decide +kernel⟩

theorem witness_MessageRows_8 :
    ∃ (s : State) (peer q next : Nat) (x : Cmd) (f : Fan) (p : Peer), fabricOn s = true ∧ tget s.cst.peers peer = some p ∧ p.enable = true
      ∧ p.state = 2 ∧ s.cmds = [x] ∧ x.phase = .executing ∧ x.work = .fan f
      ∧ (f.shards.any (fun h => h.peer = peer ∧ h.answered = false) = true) :=
  ⟨
   (linked (peer0) [{ mk 0x32 [] with work := .fan { shards := [{ peer := 1023, coll := 0, shardId := 2, request := 1, report := none, entries := [], answered := false }], k := 1, kSel := 1, rerankN := 0, key := 0, h := 0, cut := false, enc := [], sent := true, sentAt := 0, subUs := 0, params := [], codes := [], rq := [], filter := [], tset := [] } }]),
   1023, 0, 0,
   { mk 0x32 [] with work := .fan { shards := [{ peer := 1023, coll := 0, shardId := 2, request := 1, report := none, entries := [], answered := false }], k := 1, kSel := 1, rerankN := 0, key := 0, h := 0, cut := false, enc := [], sent := true, sentAt := 0, subUs := 0, params := [], codes := [], rq := [], filter := [], tset := [] } },
   { shards := [{ peer := 1023, coll := 0, shardId := 2, request := 1, report := none, entries := [], answered := false }], k := 1, kSel := 1, rerankN := 0, key := 0, h := 0, cut := false, enc := [], sent := true, sentAt := 0, subUs := 0, params := [], codes := [], rq := [], filter := [], tset := [] },
   peer0, by decide +kernel, by decide +kernel, by decide +kernel, (by decide +kernel), by decide +kernel, by decide +kernel,
   by decide +kernel, (by decide +kernel)⟩

theorem witness_MessageRows_9 :
    ∃ (s : State) (peer q reason next : Nat), reason ≠ 8 :=
  ⟨ready, 0, 0, 9, 0, by decide +kernel⟩

theorem witness_MessageRows_10 :
    ∃ (s : State) (peer : Nat) (p : Peer) (ev : Ev) (rest : List Ev), fabricOn s = true ∧ tget s.cst.peers peer = some p ∧ p.enable = true
      ∧ p.state = 2 ∧ p.events = ev :: rest ∧ p.queued = [] ∧ p.unacked.length ≤ 4000 :=
  ⟨(linked ({ peer0 with events := [mkEv 0x0010 2 .mpc 0 0 0 0 0 0] }) []), 1023, { peer0 with events := [mkEv 0x0010 2 .mpc 0 0 0 0 0 0] },
   mkEv 0x0010 2 .mpc 0 0 0 0 0 0, [], by decide +kernel, by decide +kernel, by decide +kernel, (by decide +kernel), by decide +kernel,
   by decide +kernel, by decide +kernel⟩

theorem witness_MutationRows_1 :
    ∃ (s u : State) (x : Cmd) (k : Coll) (ds : List BlkData) (bs : List Byte), Begun s x 0x20 ∧ viewOf s x = some k ∧ barred s x = false
      ∧ streamPoison x.id s = none ∧ dataSpans x (bit (cf x 24 1) 0) (cf x 16 8) (srcLen k) = some ds ∧ readVec x k ds 0 s = .ok bs u
      ∧ progLost u (if k.migrating then k.encNext else k.encVersion) = none :=
  ⟨(withColl (coll0) [(mk 32 [(32, 7)])]), _, (mk 32 [(32, 7)]), coll0, [{ addr := 0, len := 1, zero := false }], _,
   begun (by decide +kernel), by decide +kernel, by decide +kernel, (by decide +kernel), by decide +kernel, res_ok (by decide +kernel),
   by decide +kernel⟩

theorem witness_MutationRows_2 :
    ∃ (s u : State) (x : Cmd) (k : Coll) (ds : List BlkData) (bs : List Byte), Begun s x 0x23 ∧ viewOf s x = some k ∧ barred s x = false
      ∧ streamPoison x.id s = none ∧ dataSpans x (bit (cf x 24 1) 0) (cf x 16 8) (srcLen k) = some ds ∧ readVec x k ds 0 s = .ok bs u
      ∧ progLost u (if k.migrating then k.encNext else k.encVersion) = none :=
  ⟨(withColl (coll0) [(mk 35 [(32, 7)])]), _, (mk 35 [(32, 7)]), coll0, [{ addr := 0, len := 1, zero := false }], _,
   begun (by decide +kernel), by decide +kernel, by decide +kernel, (by decide +kernel), by decide +kernel, res_ok (by decide +kernel),
   by decide +kernel⟩

theorem witness_MutationRows_3 :
    ∃ (s : State) (x : Cmd) (k : Coll), Begun s x 0x22 ∧ viewOf s x = some k ∧ barred s x = false ∧ streamPoison x.id s = none :=
  ⟨(withColl (coll0) [(mk 34 [(32, 7)])]), (mk 34 [(32, 7)]), coll0, begun (by decide +kernel), by decide +kernel, by decide +kernel,
   (by decide +kernel)⟩

theorem witness_MutationRows_4 :
    ∃ (s : State) (x : Cmd) (k : Coll), Begun s x 0x25 ∧ viewOf s x = some k ∧ barred s x = false ∧ streamPoison x.id s = none :=
  ⟨(withColl (coll0) [(mk 37 [(32, 7)])]), (mk 37 [(32, 7)]), coll0, begun (by decide +kernel), by decide +kernel, by decide +kernel,
   (by decide +kernel)⟩

theorem witness_MutationRows_5 :
    ∃ (s t u v : State) (x : Cmd) (k : Coll) (ds : List BlkData) (rs : List Byte) (es : List MutEntry), Begun s x 0x21 ∧ viewOf s x = some k
      ∧ barred s x = false ∧ streamPoison x.id s = none ∧ dataSpans x true (cf x 16 8) (cf x 40 4 * srcLen k) = some ds
      ∧ checkStatus x (cf x 40 4) s = .ok () t ∧ readBuf x (cf x 24 8) (32 * cf x 40 4) t = .ok rs u
      ∧ badRecs rs (cf x 24 8) (cf x 40 4) 0 = none
      ∧ readBatch x k ds ((List.range (cf x 40 4)).map (fun j => (j * srcLen k, mutEntry (recOf (slice rs (32 * j) 32)) .lost))) u = .ok es v
      ∧ progLost v (if k.migrating then k.encNext else k.encVersion) = none :=
  ⟨(withColl (coll0) [{ mk 0x21 [(40, 1)] with list := some (walked 1) }]), _, _, _, { mk 0x21 [(40, 1)] with list := some (walked 1) },
   coll0, [{ addr := 0, len := 1, zero := false }], _, _, begun (by decide +kernel), by decide +kernel, by decide +kernel,
   (by decide +kernel), by decide +kernel, res_unit (by decide +kernel), res_ok (by decide +kernel), (by decide +kernel),
   res_ok (by decide +kernel), by decide +kernel⟩

theorem witness_MutationRows_6 :
    ∃ (s t u v : State) (x : Cmd) (k : Coll) (ds : List BlkData) (r : Rd) (es : List (Nat × MutEntry)) (fs : List MutEntry), Begun s x 0x54
      ∧ viewOf s x = some k ∧ barred s x = false ∧ streamPoison x.id s = none ∧ 64 ≤ cf x 24 8
      ∧ dataSpans x true (cf x 16 8) (cf x 24 8) = some ds ∧ readSpans (whoOf s x) ds s = .ok r t ∧ r.poison = none
      ∧ badStream k (slice r.bytes 0 64) (cf x 24 8) = none
      ∧ streamEntries x k ds (slice r.bytes 0 64) r.bytes (fld (slice r.bytes 0 64) 8 4) 0 = .inr es ∧ checkStatus x es.length t = .ok () u
      ∧ readBatch x k ds es u = .ok fs v ∧ progLost v (if k.migrating then k.encNext else k.encVersion) = none :=
  ⟨
   { withColl (coll0) [{ mk 0x54 [(24, 192)] with list := some (walked 192) }] with hostMem := memWrite [] 0 (packed 64 [(0, 1), (2, 64), (4, 1), (6, 4), (7, 2), (8, 1), (12, 128)]) },
   _, _, _, { mk 0x54 [(24, 192)] with list := some (walked 192) }, coll0, [{ addr := 0, len := 192, zero := false }], _, _, _,
   begun (by decide +kernel), by decide +kernel, by decide +kernel, (by decide +kernel), by decide +kernel, by decide +kernel,
   res_ok (by decide +kernel), (by decide +kernel), by decide +kernel, (Sum.inr_getRight _ (by decide +kernel)).symm,
   res_unit (by decide +kernel), res_ok (by decide +kernel), by decide +kernel⟩

theorem witness_JournalWriteRow_1 :
    ∃ (s : State) (x : Cmd) (k : Coll) (m : Mut) (e : MutEntry) (slot : Nat) (old : Entry), MutReady s x k m e ∧ cOp x = 0x22
      ∧ journalFits s (runsBounded s x) 64 = true ∧ liveNow k e.record.vid = some (slot, old) ∧ placesUsed k < 16777216 :=
  ⟨(withColl (coll1) [(mutating 34 7)]), (mutating 34 7), coll1, mut0 7, ment 7, 0, entry0 0 7 1,
   ⟨by decide +kernel, by decide +kernel, by decide +kernel, (by decide +kernel), by decide +kernel, by decide +kernel, by decide +kernel, (by decide +kernel), by decide +kernel, by decide +kernel⟩,
   by decide +kernel, by decide +kernel, (by decide +kernel), by decide +kernel⟩

theorem witness_JournalWriteRow_2 :
    ∃ (s : State) (x : Cmd) (k : Coll) (m : Mut) (e : MutEntry) (slot : Nat), MutReady s x k m e ∧ (cOp x = 0x20 ∨ cOp x = 0x23)
      ∧ e.codeOnly = false ∧ journalFits s (runsBounded s x) (recordSize (srcLen k)) = true
      ∧ ((e.record.ts = 0xFFFF_FFFF → (stampNow s k).isSome = true)) ∧ ((cOp x = 0x20 → liveNow k e.record.vid = none))
      ∧ placesUsed k < 16777216 ∧ needsPartition k e.record.tenant = false ∧ freeSlot k = some slot ∧ sideFits s (cColl x) k = true :=
  ⟨(withColl (coll1) [(mutating 32 8)]), (mutating 32 8), coll1, mut0 8, ment 8, 1,
   ⟨by decide +kernel, by decide +kernel, by decide +kernel, (by decide +kernel), by decide +kernel, by decide +kernel, by decide +kernel, (by decide +kernel), by decide +kernel, by decide +kernel⟩,
   by decide +kernel, by decide +kernel, (by decide +kernel), by decide +kernel, by decide +kernel, by decide +kernel, (by decide +kernel),
   by decide +kernel, by decide +kernel⟩

theorem witness_JournalWriteRow_3 :
    ∃ (s : State) (x : Cmd) (k : Coll) (m : Mut) (e : MutEntry) (slot oldSlot : Nat) (old : Entry), MutReady s x k m e ∧ cOp x = 0x25
      ∧ journalFits s (runsBounded s x) 64 = true ∧ ((e.record.ts = 0xFFFF_FFFF → bit m.mask 7 = true → (stampNow s k).isSome = true))
      ∧ liveNow k e.record.vid = some (oldSlot, old) ∧ placesUsed k < 16777216
      ∧ needsPartition k (mergeRec m.mask old.record e.record).tenant = false ∧ freeSlot k = some slot ∧ sideFits s (cColl x) k = true :=
  ⟨(withColl (coll1) [(mutating 37 7)]), (mutating 37 7), coll1, mut0 7, ment 7, 1, 0, entry0 0 7 1,
   ⟨by decide +kernel, by decide +kernel, by decide +kernel, (by decide +kernel), by decide +kernel, by decide +kernel, by decide +kernel, (by decide +kernel), by decide +kernel, by decide +kernel⟩,
   by decide +kernel, by decide +kernel, (by decide +kernel), by decide +kernel, by decide +kernel, by decide +kernel, (by decide +kernel),
   by decide +kernel⟩

theorem witness_JournalWriteRow_4 :
    ∃ (s : State) (x : Cmd) (k : Coll) (m : Mut) (e : MutEntry), MutReady s x k m e ∧ (cOp x = 0x22 ∨ cOp x = 0x25)
      ∧ journalFits s (runsBounded s x) 64 = true
      ∧ ((cOp x = 0x25 → e.record.ts = 0xFFFF_FFFF → bit m.mask 7 = true → (stampNow s k).isSome = true)) ∧ liveNow k e.record.vid = none :=
  ⟨(withColl (coll1) [(mutating 34 8)]), (mutating 34 8), coll1, mut0 8, ment 8,
   ⟨by decide +kernel, by decide +kernel, by decide +kernel, (by decide +kernel), by decide +kernel, by decide +kernel, by decide +kernel, (by decide +kernel), by decide +kernel, by decide +kernel⟩,
   by decide +kernel, by decide +kernel, (by decide +kernel), by decide +kernel⟩

theorem witness_JournalWriteRow_5 :
    ∃ (s : State) (x : Cmd) (k : Coll) (m : Mut) (e : MutEntry), MutReady s x k m e ∧ cOp x = 0x20
      ∧ journalFits s (runsBounded s x) (recordSize (srcLen k)) = true ∧ e.codeOnly = false
      ∧ ((e.record.ts = 0xFFFF_FFFF → (stampNow s k).isSome = true)) ∧ (liveNow k e.record.vid).isSome = true :=
  ⟨(withColl (coll1) [(mutating 32 7)]), (mutating 32 7), coll1, mut0 7, ment 7,
   ⟨by decide +kernel, by decide +kernel, by decide +kernel, (by decide +kernel), by decide +kernel, by decide +kernel, by decide +kernel, (by decide +kernel), by decide +kernel, by decide +kernel⟩,
   by decide +kernel, by decide +kernel, (by decide +kernel), by decide +kernel, by decide +kernel⟩

theorem witness_LookupRow_1 :
    ∃ (s : State) (x : Cmd) (k : Coll), Begun s x 0x24 ∧ viewOf s x = some k ∧ barred s x = false ∧ liveEntry k x.horizon (cf x 32 6) = none :=
  ⟨(withColl (coll0) [(mk 36 [(32, 7)])]), (mk 36 [(32, 7)]), coll0, begun (by decide +kernel), by decide +kernel, by decide +kernel,
   (by decide +kernel)⟩

theorem witness_LookupRow_2 :
    ∃ (s t u v : State) (x : Cmd) (k : Coll) (slot : Nat) (e : Entry) (bs : List Byte), Begun s x 0x24 ∧ viewOf s x = some k
      ∧ barred s x = false ∧ liveEntry k x.horizon (cf x 32 6) = some (slot, e)
      ∧ poisonAt s k (cColl x) slot ((if bit (cf x 24 1) 0 then [.record] else []) ++ (if bit (cf x 24 1) 1 then [.code] else [])) = none
      ∧ (((tget s.colls (cColl x)).bind (fun k => tget k.entries slot)).map Entry.src).getD e.src = .held bs
      ∧ (if bit (cf x 24 1) 0 then writeDev (whoOf s x) (cf x 16 8) (recBytes e.record (slot ∈ k.arr.side) e.encNext ++ List.replicate 32 0) s else .ok () s) = .ok () t
      ∧ (if bit (cf x 24 1) 1 then writeDev (whoOf s x) (cf x 16 8 + 64) (leBytes (k.codeBits / 8) e.code) t else .ok () t) = .ok () u
      ∧ (if bit (cf x 24 1) 2 then writeDev (whoOf s x) (cf x 16 8 + (64 + (k.codeBits / 8 + 63) / 64 * 64)) bs u else .ok () u) = .ok () v :=
  ⟨(withColl (coll1) [{ mk 0x24 [(24, 7), (32, 7)] with horizon := 1 }]), _, _, _, { mk 0x24 [(24, 7), (32, 7)] with horizon := 1 }, coll1,
   0, entry0 0 7 1, [0], begun (by decide +kernel), by decide +kernel, by decide +kernel, (by decide +kernel), by decide +kernel,
   by decide +kernel, res_unit (by decide +kernel), res_unit (by decide +kernel), res_unit (by decide +kernel)⟩

theorem witness_PortRegisterWrites_2 :
    ∃ (page : Nat) (v : Word64) (s : State) (b : Blk) (i : Nat), pageBlk page = some (b, i) ∧ pageOpen s b = true :=
  ⟨0, 0, ready, .mpc, 0, by decide +kernel, by decide +kernel⟩

theorem witness_PortRegisterWrites_3 :
    ∃ (cluster : Nat) (v : Word64) (s : State), cluster < 32 ∧ pageOpen s .bore = true ∧ s.sec.debug = true :=
  ⟨31, 1, { ready with sec := { ready.sec with debug := true } }, by decide +kernel, by decide +kernel, by decide +kernel⟩

theorem witness_PortRegisterWrites_4 :
    ∃ (v : Word64) (s : State), pageOpen s .crk = true ∧ s.crook.bootLocked = false ∧ bits v.toNat 40 21 * 2 ^ 21 ≤ 2 ^ 40
      ∧ (bootRegion s).base + bits v.toNat 40 21 * 2 ^ 21 ≤ 2 ^ 48
      ∧ (((tget s.domains 0).map Domain.regions).getD []).any (fun r => bits v.toNat 40 21 * 2 ^ 21 ≠ 0 && (bootRegion s).base < r.base + r.length && r.base < (bootRegion s).base + bits v.toNat 40 21 * 2 ^ 21) = false
      ∧ bootLeaves s (bootRegion s) { bootRegion s with length := bits v.toNat 40 21 * 2 ^ 21 } = false :=
  ⟨2 ^ 30, ready, by decide +kernel, by decide +kernel, by decide +kernel, (by decide +kernel), by decide +kernel, by decide +kernel⟩

theorem witness_PortRegisterWrites_5 :
    ∃ (v : Word64) (s : State), pageOpen s .wwy = true ∧ ledgerExists (bits v.toNat 2 0) (bits v.toNat 13 8) = true :=
  ⟨63 * 256 + 1, ready, by decide +kernel, by decide +kernel⟩

theorem witness_PowerRows_1 :
    ∃ (s : State) (w mv : Nat), min (capReg s - s.blw.thermalCut) (33 * mv / 1000) < w :=
  ⟨ready, 1451, 50000, by decide +kernel⟩

theorem witness_PowerRows_2 :
    ∃ (s : State) (w mv : Nat), w ≤ min (capReg s - s.blw.thermalCut) (33 * mv / 1000) :=
  ⟨ready, 1450, 50000, by decide +kernel⟩

theorem witness_PowerRows_3 :
    ∃ (s : State) (w ma : Nat), (1700 < w ∨ 40000 < ma) :=
  ⟨ready, 1701, 0, by decide +kernel⟩

theorem witness_PowerRows_4 :
    ∃ (s : State) (w ma : Nat), w < 1600 ∧ ma ≤ 40000 :=
  ⟨ready, 1599, 40000, by decide +kernel, by decide +kernel⟩

theorem witness_PowerRows_5 :
    ∃ (s : State) (die stack us : Nat) (dieT stackT : Int), (dieT < 1100 ∨ us < 1000) :=
  ⟨ready, 0, 0, 999, 2000, 0, by decide +kernel⟩

theorem witness_PowerRows_6 :
    ∃ (s : State) (die stack us : Nat) (dieT stackT : Int), 1100 ≤ dieT ∧ 1000 ≤ us ∧ s.chn.mode ≠ .off :=
  ⟨ready, 0, 0, 1000, 1100, 0, by decide +kernel, by decide +kernel, by decide +kernel⟩

theorem witness_PowerRows_8 :
    ∃ (s : State) (v : Word64) (n : Nat), n = clampNat 600 1450 (bits v.toNat 10 0) :=
  ⟨ready, 2000, 1450, by decide +kernel⟩

theorem witness_PowerRows_10 :
    ∃ (s : State), s.blw.saving = none :=
  ⟨ready, by decide +kernel⟩

theorem witness_PowerRows_11 :
    ∃ (s : State) (u : UCal), s.blw.saving = some u :=
  ⟨{ ready with blw := { ready.blw with saving := some ucalDefault } }, ucalDefault, by decide +kernel⟩

theorem witness_PowerRows_12 :
    ∃ (s : State) (u : UCal), s.blw.saving = some u :=
  ⟨{ ready with blw := { ready.blw with saving := some ucalDefault } }, ucalDefault, by decide +kernel⟩

theorem witness_PowerRows_13 :
    ∃ (s : State), s.blw.saving = none :=
  ⟨ready, by decide +kernel⟩


/-- A search of collection 0 by `x` with one query, before anything has been scored. -/
def srch (x : Cmd) (c : Coll) : Search := { searchInit x c with queries := [queryEmpty], k := 1, kSel := 1 }
def blk0 : Block := { group := 15, reed := 0, slots := [0], scored := false }
def walk0 : Walk :=
  { beam := [], cand := listEmpty, visited := [], rounds := 0, expansions := 0, front := [], waiting := [9, 12], listed := true,
    cset := [], headsRead := [], seeding := true, ended := false, contexts := [], lead := 0, beamSize := 1, width := 1, maxExp := 1, maxRounds := 1,
    slack := 0, strict := false }
def cmd0 (op : Nat) : Cmd := mk op [(16, 4096), (24, 8192), (48, 1), (56, 1), (72, 1)]
def searching (x : Cmd) (sr : Search) : Cmd := { x with work := .search sr }
def cand0 (vid : Nat) (score : BitVec 32) : Cand :=
  { vid := vid, dist := 0, slot := 0, side := false, encNext := false, shard := 0, score := score, arith := 0 }
def fan0 : Fan :=
  { shards := [], k := 1, kSel := 1, rerankN := 0, key := 0, h := 0, cut := false, enc := [], sent := true, sentAt := 0, subUs := 0,
    params := [], codes := [], rq := [], filter := [], tset := [] }
def sring0 (no : Nat) : SRing :=
  { engine := 31, no := no, cls := 1, port := 1, cmd := none, step := none, slots := 4, slotLog2 := 12, head := 0, tail := 0, passed := 0,
    landed := [], flight := [], toAsk := 4096, isWrite := false, rate := 1, poisoned := [], accepted := 0, moved := 0 }
/-- A ring that reads Bag pages. -/
def bagRing0 (no : Nat) : SRing := { sring0 no with port := portBag }
/-- Drone re-encodes collections 0 and 1. -/
def recoding : Coll :=
  { coll0 with run := some { op := .reencodeStep, cut := 0, key := none, move := none, by_ := none, since := 0 } }

theorem witness_QueueRows_1 :
    ∃ (s : State) (x : Cmd), Begun s x 0x01 :=
  ⟨(busy [(mk 1 [])]), (mk 1 []), begun (by decide +kernel)⟩

theorem witness_QueueRows_2 :
    ∃ (s : State) (x : Cmd), Begun s x 0x02 ∧ mirrorOn s = false
      ∧ ((∀ r ∈ s.bag.recs, flushCovers s x r = true → r.stripe.isSome = true ∧ r.lost = false)) :=
  ⟨(busy [(mk 2 [])]), (mk 2 []), begun (by decide +kernel), by decide +kernel, by decide +kernel⟩

theorem witness_QueueRows_3 :
    ∃ (s : State) (x : Cmd) (r : JRec), Begun s x 0x02 ∧ r ∈ s.bag.recs ∧ flushCovers s x r = true ∧ r.stripe = none :=
  ⟨(bagOf { ready.bag with recs := [rec1] } [(mk 2 [])]), (mk 2 []), rec1, begun (by decide +kernel), by decide +kernel, by decide +kernel,
   (by decide +kernel)⟩

theorem witness_QueueRows_4 :
    ∃ (s : State) (x : Cmd) (n : Nat), running s x.id 0x02 = some x ∧ x.work = .wait 9 n ∧ mirrorOn s = false
      ∧ ((∀ r ∈ covered s x n, r.stripe.isSome = true)) ∧ ((∃ r ∈ covered s x n, r.lost = true)) :=
  ⟨(bagOf { ready.bag with recs := [{ rec1 with stripe := some 4, lost := true }] } [{ mk 0x02 [] with work := .wait 9 1 }]),
   { mk 0x02 [] with work := .wait 9 1 }, 1, by decide +kernel, by decide +kernel, by decide +kernel, (by decide +kernel), by decide +kernel⟩

theorem witness_QueueRows_5 :
    ∃ (s : State) (x : Cmd), running s x.id 0x03 = some x ∧ barrierWaits s x = false :=
  ⟨(busy [(mk 3 [])]), (mk 3 []), by decide +kernel, by decide +kernel⟩

theorem witness_QueueRows_6 :
    ∃ (s : State) (x : Cmd), running s x.id 0x03 = some x ∧ barrierWaits s x = true :=
  ⟨(busy [{ mk 0x01 [] with id := 0 }, (mk 3 [])]), (mk 3 []), by decide +kernel, by decide +kernel⟩

theorem witness_QueueRows_7 :
    ∃ (s : State) (x : Cmd), Begun s x 0x52 ∧ cf x 16 1 = 0 :=
  ⟨(busy [(mk 82 [])]), (mk 82 []), begun (by decide +kernel), by decide +kernel⟩

theorem witness_QueueRows_8 :
    ∃ (s : State) (x : Cmd), running s x.id 0x52 = some x ∧ cf x 16 1 = 1 :=
  ⟨(busy [(mk 82 [(16, 1)])]), (mk 82 [(16, 1)]), by decide +kernel, by decide +kernel⟩

theorem witness_QueueRows_9 :
    ∃ (s : State) (x : Cmd) (root since : Nat), running s x.id 0x52 = some x ∧ x.work = .checkpoint root since ∧ s.now ≥ since + 1000000
      ∧ s.bag.ckptDue = true ∧ s.chn.quiesced = false ∧ bagWorks s = true ∧ s.bag.ckpt = none ∧ ((∀ p ∈ s.colls, p.2.dropping = true)) :=
  ⟨{ bagOf { ready.bag with ckptDue := true } [{ mk 0x52 [(16, 1)] with work := .checkpoint 1 0 }] with now := 1000000 },
   { mk 0x52 [(16, 1)] with work := .checkpoint 1 0 }, 1, 0, by decide +kernel, by decide +kernel, by decide +kernel, (by decide +kernel),
   by decide +kernel, by decide +kernel, by decide +kernel, (by decide +kernel)⟩

theorem witness_QueueRows_10 :
    ∃ (s : State) (x : Cmd) (root since h : Nat) (c : Coll), running s x.id 0x52 = some x ∧ x.work = .checkpoint root since
      ∧ s.now ≥ since + 1000000 ∧ s.bag.ckptDue = true ∧ s.chn.quiesced = false ∧ bagWorks s = true ∧ s.bag.ckpt = none
      ∧ s.colls.find? (fun p => !p.2.dropping) = some (h, c) ∧ c.run = none ∧ journalFits s false 128 = true ∧ tget s.colls h = some c :=
  ⟨
   { withColl (coll0) [{ mk 0x52 [(16, 1)] with work := .checkpoint 1 0 }] with now := 1000000, bag := { ready.bag with ckptDue := true } },
   { mk 0x52 [(16, 1)] with work := .checkpoint 1 0 }, 1, 0, 0, coll0, by decide +kernel, by decide +kernel, by decide +kernel,
   (by decide +kernel), by decide +kernel, by decide +kernel, by decide +kernel, (by decide +kernel), by decide +kernel, by decide +kernel,
   by decide +kernel⟩

theorem witness_QueueRows_11 :
    ∃ (s : State) (x : Cmd) (k : Coll), Begun s x 0x50 ∧ cf x 16 1 = 0 ∧ tget s.colls (cColl x) = some k ∧ mayRun s k = true
      ∧ k.building = false ∧ somethingToFold k = true :=
  ⟨(withColl (coll1) [(mk 80 [])]), (mk 80 []), coll1, begun (by decide +kernel), by decide +kernel, by decide +kernel, (by decide +kernel),
   by decide +kernel, by decide +kernel⟩

theorem witness_QueueRows_12 :
    ∃ (s : State) (x : Cmd) (k : Coll), Begun s x 0x50 ∧ cf x 16 1 = 0 ∧ tget s.colls (cColl x) = some k ∧ mayRun s k = true
      ∧ k.building = false ∧ somethingToFold k = false ∧ consolidating s (cColl x) 0 = none :=
  ⟨(withColl (coll0) [(mk 80 [])]), (mk 80 []), coll0, begun (by decide +kernel), by decide +kernel, by decide +kernel, (by decide +kernel),
   by decide +kernel, by decide +kernel, by decide +kernel⟩

theorem witness_QueueRows_13 :
    ∃ (s : State) (x : Cmd) (k : Coll), Begun s x 0x50 ∧ cf x 16 1 = 1 ∧ tget s.colls (cColl x) = some k ∧ mayRun s k = true
      ∧ k.building = false ∧ compactTombs k.posted none k ≠ [] :=
  ⟨(withColl (coll2) [(mk 80 [(16, 1)])]), (mk 80 [(16, 1)]), coll2, begun (by decide +kernel), by decide +kernel, by decide +kernel,
   (by decide +kernel), by decide +kernel, by decide +kernel⟩

theorem witness_QueueRows_14 :
    ∃ (s : State) (x : Cmd) (k : Coll), Begun s x 0x50 ∧ cf x 16 1 = 1 ∧ tget s.colls (cColl x) = some k ∧ mayRun s k = true
      ∧ k.building = false ∧ compactTombs k.posted none k = [] ∧ consolidating s (cColl x) 1 = none :=
  ⟨(withColl (coll0) [(mk 80 [(16, 1)])]), (mk 80 [(16, 1)]), coll0, begun (by decide +kernel), by decide +kernel, by decide +kernel,
   (by decide +kernel), by decide +kernel, by decide +kernel, by decide +kernel⟩

theorem witness_ResetRows_1 :
    ∃ (s : State) (f : StartFaults) (code : Nat), s.pins.coldPending = some code ∧ s.chn.stage = 0 ∧ s.chn.losing = false
      ∧ s.pins.switchOn = true ∧ (bankOk s.sec.fuse s.sec.pkgA = true ∨ bankOk s.sec.fuse s.sec.pkgB = true) ∧ f.calibration = false
      ∧ f.selfTest = [] ∧ f.training = false ∧ s.bag.rootsErased = true :=
  ⟨State.reset,
   { calibration := false, training := false, ucalA := false, ucalB := false, mapA := false, mapB := false, rootA := false, rootB := false, selfTest := [] },
   0, by decide +kernel, by decide +kernel, by decide +kernel, (by decide +kernel), by decide +kernel, by decide +kernel, by decide +kernel,
   (by decide +kernel), by decide +kernel⟩

theorem witness_ResetRows_2 :
    ∃ (s : State) (f : StartFaults) (code : Nat), s.pins.coldPending = some code ∧ s.chn.stage = 0 ∧ s.chn.losing = false
      ∧ s.pins.switchOn = true ∧ bankOk s.sec.fuse s.sec.pkgA = false ∧ bankOk s.sec.fuse s.sec.pkgB = false :=
  ⟨
   { State.reset with sec := { State.reset.sec with pkgA := { bankReset with valid := false }, pkgB := { bankReset with valid := false } } },
   { calibration := false, training := false, ucalA := false, ucalB := false, mapA := false, mapB := false, rootA := false, rootB := false, selfTest := [] },
   0, by decide +kernel, by decide +kernel, by decide +kernel, (by decide +kernel), by decide +kernel, by decide +kernel⟩

theorem witness_ResetRows_3 :
    ∃ (s : State), s.chn.sealed = true ∧ s.chn.stage = 0 ∧ s.chn.mode ≠ .off ∧ s.pins.switchOn = true :=
  ⟨{ State.reset with chn := { State.reset.chn with sealed := true } }, by decide +kernel, by decide +kernel, by decide +kernel,
   (by decide +kernel)⟩

theorem witness_ResetRows_4 :
    ∃ (s : State), s.chn.stage = 6 ∧ s.chn.mode ≠ .off ∧ s.chn.losing = false
      ∧ (bankOk s.sec.fuse s.sec.pkgA = true ∨ bankOk s.sec.fuse s.sec.pkgB = true) :=
  ⟨ready, by decide +kernel, by decide +kernel, by decide +kernel, (by decide +kernel)⟩

theorem witness_ResetRows_5 :
    ∃ (s : State), s.chn.stage ≠ 6 :=
  ⟨State.reset, by decide +kernel⟩

theorem witness_ResetRows_7 :
    ∃ (s : State), s.chn.stage = 6 ∧ s.chn.mode ≠ .off ∧ s.chn.losing = false ∧ s.chn.quiesced = false :=
  ⟨ready, by decide +kernel, by decide +kernel, by decide +kernel, (by decide +kernel)⟩

theorem witness_ResetRows_8 :
    ∃ (s : State) (p : Nat × Cmd) (r : Ring) (u : State), s.chn.losing = false ∧ s.chn.stage = 6 ∧ s.reports = [p] ∧ p.2.remote = none
      ∧ (regGet s (reg .mpc 0 0x010)).getLsbD 0 = true ∧ tget s.rings 0 = some r ∧ r.enabled = true ∧ r.faulted = false ∧ r.zeroing = false
      ∧ ringUnread r + 1 < 2 ^ r.sizeLog2 ∧ writeRecord (.cq 0) r (resetRecord s p.1 p.2) s = .done u :=
  ⟨{ ready with reports := [(0, { mk 0x20 [] with phase := .finished })], rings := [(0, ringOn)] },
   (0, { mk 0x20 [] with phase := .finished }), ringOn, _, by decide +kernel, by decide +kernel, by decide +kernel, (by decide +kernel),
   by decide +kernel, by decide +kernel, by decide +kernel, (by decide +kernel), by decide +kernel, by decide +kernel,
   done_ok (by decide +kernel)⟩

theorem witness_ResetRows_10 :
    ∃ (s : State) (block number addr : Nat), s.chn.stage = 6 ∧ s.chn.losing = false ∧ s.chn.mode ≠ .off :=
  ⟨ready, 0, 0, 0, by decide +kernel, by decide +kernel, by decide +kernel⟩

theorem witness_ResetRows_11 :
    ∃ (s : State) (block number addr code : Nat), s.chn.stage = 0 ∧ s.chn.losing = false ∧ s.pins.coldPending = some code
      ∧ s.pins.switchOn = true :=
  ⟨State.reset, 0, 0, 0, 0, by decide +kernel, by decide +kernel, by decide +kernel, (by decide +kernel)⟩

theorem witness_ResetRows_12 :
    ∃ (s : State), s.chn.stage = 6 ∧ s.chn.losing = false ∧ s.chn.sealed = false :=
  ⟨ready, by decide +kernel, by decide +kernel, by decide +kernel⟩

theorem witness_ScanRows_1 :
    ∃ (s u : State) (x : Cmd) (w w' : ListWalk) (r : Rd), cmdGet s x.id = some x ∧ x.phase = .executing ∧ x.list = some w ∧ w.done = false
      ∧ readDev (whoOf s x) w.next (16 * pieceEntries w) s = .ok r u ∧ r.poison = none ∧ listPiece r.bytes (pieceEntries w) 0 w = .inr w' :=
  ⟨
   { busy [{ mk 0x21 [] with list := some { next := 0, left := none, datas := [], links := 0, total := 0, want := 4096, done := false } }] with hostMem := memWrite [] 0 (packed 16 [(0, 8192), (6, 4096), (9, 1)]) },
   _, { mk 0x21 [] with list := some { next := 0, left := none, datas := [], links := 0, total := 0, want := 4096, done := false } },
   { next := 0, left := none, datas := [], links := 0, total := 0, want := 4096, done := false }, _, _, by decide +kernel,
   by decide +kernel, by decide +kernel, (by decide +kernel), res_ok (by decide +kernel), by decide +kernel,
   (Sum.inr_getRight _ (by decide +kernel)).symm⟩

theorem witness_ScanRows_2 :
    ∃ (s u : State) (x : Cmd) (v w w' : ListWalk) (r : Rd), cmdGet s x.id = some x ∧ x.phase = .executing ∧ x.list = some v ∧ v.done = true
      ∧ x.list2 = some w ∧ w.done = false ∧ readDev (whoOf s x) w.next (16 * pieceEntries w) s = .ok r u ∧ r.poison = none
      ∧ listPiece r.bytes (pieceEntries w) 0 w = .inr w' :=
  ⟨
   { busy [{ mk 0x21 [] with list := some (walked 1), list2 := some { next := 0, left := none, datas := [], links := 0, total := 0, want := 4096, done := false } }] with hostMem := memWrite [] 0 (packed 16 [(0, 8192), (6, 4096), (9, 1)]) },
   _,
   { mk 0x21 [] with list := some (walked 1), list2 := some { next := 0, left := none, datas := [], links := 0, total := 0, want := 4096, done := false } },
   walked 1, { next := 0, left := none, datas := [], links := 0, total := 0, want := 4096, done := false }, _, _, by decide +kernel,
   by decide +kernel, by decide +kernel, (by decide +kernel), by decide +kernel, by decide +kernel, res_ok (by decide +kernel),
   (by decide +kernel), (Sum.inr_getRight _ (by decide +kernel)).symm⟩

theorem witness_ScanRows_3 :
    ∃ (s u : State) (x : Cmd) (w : ListWalk) (r : Rd) (a : Nat), cmdGet s x.id = some x ∧ x.phase = .executing ∧ x.list = some w
      ∧ w.done = false ∧ readDev (whoOf s x) w.next (16 * pieceEntries w) s = .ok r u ∧ r.poison = none
      ∧ listPiece r.bytes (pieceEntries w) 0 w = .inl a :=
  ⟨(busy [{ mk 0x21 [] with list := some { next := 0, left := none, datas := [], links := 0, total := 0, want := 4096, done := false } }]),
   _, { mk 0x21 [] with list := some { next := 0, left := none, datas := [], links := 0, total := 0, want := 4096, done := false } },
   { next := 0, left := none, datas := [], links := 0, total := 0, want := 4096, done := false }, _, _, by decide +kernel,
   by decide +kernel, by decide +kernel, (by decide +kernel), res_ok (by decide +kernel), by decide +kernel,
   (Sum.inl_getLeft _ (by decide +kernel)).symm⟩

theorem witness_ScanRows_4 :
    ∃ (s : State) (x : Cmd) (sr : Search) (n : Nat) (b : Block), cmdGet s x.id = some x ∧ x.phase = .executing ∧ x.work = .search sr
      ∧ sr.blocks[n]? = some b ∧ b.scored = false ∧ sr.enc = [] ∧ spillFull sr b = false ∧ reedTaken s x b = false
      ∧ (blockPoison s sr b.slots).filter (dependsOn sr b.slots) = [] :=
  ⟨(busy [searching (cmd0 48) ({ srch (cmd0 0x30) coll1 with blocks := [blk0] })]),
   searching (cmd0 48) ({ srch (cmd0 0x30) coll1 with blocks := [blk0] }), { srch (cmd0 0x30) coll1 with blocks := [blk0] }, 0, blk0,
   by decide +kernel, by decide +kernel, by decide +kernel, (by decide +kernel), by decide +kernel, by decide +kernel, by decide +kernel,
   (by decide +kernel), by decide +kernel⟩

theorem witness_ScanRows_5 :
    ∃ (s : State) (x : Cmd) (sr : Search) (n : Nat) (b : Block), cmdGet s x.id = some x ∧ x.phase = .executing ∧ x.work = .search sr
      ∧ sr.blocks[n]? = some b ∧ b.scored = false ∧ sr.enc = [] ∧ spillFull sr b = false ∧ reedTaken s x b = false
      ∧ (blockPoison s sr b.slots).filter (dependsOn sr b.slots) ≠ [] :=
  ⟨
   { busy [searching (cmd0 48) ({ srch (cmd0 0x30) coll1 with blocks := [blk0], horizon := 1 })] with poison := [{ coll := 0, slot := 0, word := .record, node := false, bulk := true, chan := 0, addr := 0 }] },
   searching (cmd0 48) ({ srch (cmd0 0x30) coll1 with blocks := [blk0], horizon := 1 }),
   { srch (cmd0 0x30) coll1 with blocks := [blk0], horizon := 1 }, 0, blk0, by decide +kernel, by decide +kernel, by decide +kernel,
   (by decide +kernel), by decide +kernel, by decide +kernel, by decide +kernel, (by decide +kernel), by decide +kernel⟩

theorem witness_ScanRows_6 :
    ∃ (s : State) (x : Cmd) (sr : Search) (g r : Nat), cmdGet s x.id = some x ∧ x.phase = .executing ∧ x.work = .search sr
      ∧ (g, r) ∈ blockReeds sr ∧ reedDone sr g r = true ∧ sr.queries.any (fun q => (tget q.handed (g * 64 + r)).isSome) = false :=
  ⟨(busy [searching (cmd0 48) ({ srch (cmd0 0x30) coll1 with blocks := [{ blk0 with scored := true }] })]),
   searching (cmd0 48) ({ srch (cmd0 0x30) coll1 with blocks := [{ blk0 with scored := true }] }),
   { srch (cmd0 0x30) coll1 with blocks := [{ blk0 with scored := true }] }, 15, 0, by decide +kernel, by decide +kernel, by decide +kernel,
   (by decide +kernel), by decide +kernel, by decide +kernel⟩

theorem witness_ScanRows_7 :
    ∃ (s : State) (x : Cmd) (sr : Search) (t : Nat), cmdGet s x.id = some x ∧ x.phase = .executing ∧ x.vpoison = none ∧ x.work = .search sr
      ∧ t ∈ blockTowers sr ∧ towerHanded sr t = true ∧ sr.queries.any (fun q => (tget q.towers t).isSome) = false
      ∧ sr.queries.any (fun q => (tget q.spills t).any (fun b => b.buf.length > sr.kSel)) = false :=
  ⟨
   (busy [searching (cmd0 48) ({ srch (cmd0 0x30) coll1 with blocks := [{ blk0 with scored := true }], queries := [{ queryEmpty with handed := [(15 * 64, listEmpty)] }] })]),
   searching (cmd0 48) ({ srch (cmd0 0x30) coll1 with blocks := [{ blk0 with scored := true }], queries := [{ queryEmpty with handed := [(15 * 64, listEmpty)] }] }),
   { srch (cmd0 0x30) coll1 with blocks := [{ blk0 with scored := true }], queries := [{ queryEmpty with handed := [(15 * 64, listEmpty)] }] },
   groupTower 15, by decide +kernel, by decide +kernel, by decide +kernel, (by decide +kernel), by decide +kernel, by decide +kernel,
   by decide +kernel, (by decide +kernel)⟩

theorem witness_ScanRows_8 :
    ∃ (s : State) (x : Cmd) (sr : Search) (t : Nat), cmdGet s x.id = some x ∧ x.phase = .executing ∧ x.vpoison = none ∧ x.work = .search sr
      ∧ 0 < sr.kSel ∧ sr.queries.any (fun q => (tget q.spills t).any (fun b => b.buf.length > sr.kSel)) = true :=
  ⟨
   (busy [searching (cmd0 48) ({ srch (cmd0 0x30) coll1 with blocks := [blk0], queries := [{ queryEmpty with spills := [(3, { buf := [cand0 1 0, cand0 2 0], boundary := none, tail := 0, stamp := 0 })] }] })]),
   searching (cmd0 48) ({ srch (cmd0 0x30) coll1 with blocks := [blk0], queries := [{ queryEmpty with spills := [(3, { buf := [cand0 1 0, cand0 2 0], boundary := none, tail := 0, stamp := 0 })] }] }),
   { srch (cmd0 0x30) coll1 with blocks := [blk0], queries := [{ queryEmpty with spills := [(3, { buf := [cand0 1 0, cand0 2 0], boundary := none, tail := 0, stamp := 0 })] }] },
   3, by decide +kernel, by decide +kernel, by decide +kernel, (by decide +kernel), by decide +kernel, by decide +kernel⟩

theorem witness_ScanRows_9 :
    ∃ (s : State) (x : Cmd) (sr : Search), cmdGet s x.id = some x ∧ x.phase = .executing ∧ x.vpoison = none ∧ x.work = .search sr
      ∧ homeReady sr = true ∧ sr.queries.all (fun q => q.merged.isSome) = false ∧ mayFinish sr = false :=
  ⟨(busy [searching (cmd0 48) ({ srch (cmd0 0x30) coll1 with rerankN := 1 })]),
   searching (cmd0 48) ({ srch (cmd0 0x30) coll1 with rerankN := 1 }), { srch (cmd0 0x30) coll1 with rerankN := 1 }, by decide +kernel,
   by decide +kernel, by decide +kernel, (by decide +kernel), by decide +kernel, by decide +kernel, by decide +kernel⟩

theorem witness_ScanRows_10 :
    ∃ (s u : State) (x : Cmd) (sr : Search), cmdGet s x.id = some x ∧ x.phase = .executing ∧ x.vpoison = none ∧ x.sub = none
      ∧ x.work = .search sr ∧ homeReady sr = true ∧ sr.queries.all (fun q => q.merged.isSome) = false
      ∧ ((sr.rerankN = 0 ∨ sr.cut = true ∧ sr.begun = false ∧ ∀ q ∈ sr.queries, q.scored = false))
      ∧ (let qs := sr.queries.map (fun q => ({ q with merged := some (mergeLists 0 sr.kSel (homeInputs sr q)).1, final := some (mergeLists 0 sr.k [(mergeLists 0 sr.kSel (homeInputs sr q)).1]).1 } : Query)); writeResults x { sr with queries := qs } (sparams x).result 0 qs (endStage x.id 5 (countMerge (serve s x.home) s)) = .ok () u) :=
  ⟨(busy [searching (cmd0 48) (srch (cmd0 0x30) coll1)]), _, searching (cmd0 48) (srch (cmd0 0x30) coll1), srch (cmd0 0x30) coll1,
   by decide +kernel, by decide +kernel, by decide +kernel, (by decide +kernel), by decide +kernel, by decide +kernel, by decide +kernel,
   (by decide +kernel), res_unit (by decide +kernel)⟩

theorem witness_ScanRows_11 :
    ∃ (s u : State) (x : Cmd) (sr : Search), cmdGet s x.id = some x ∧ x.phase = .executing ∧ x.vpoison = none ∧ x.sub = none
      ∧ x.work = .search sr ∧ sr.queries.all (fun q => q.merged.isSome && q.scored) = true ∧ sr.rerankN ≠ 0
      ∧ (let qs := sr.queries.map (fun q => { q with final := some (mergeLists sr.key sr.k [{ q.merged.getD listEmpty with tail := 0 }]).1 }); writeResults x { sr with queries := qs } (sparams x).result 0 qs (endStage x.id 5 (if sr.queries.all (fun q => q.final.isNone) then countMerge (serve s x.home) s else s)) = .ok () u) :=
  ⟨
   (busy [searching (cmd0 48) ({ srch (cmd0 0x30) coll1 with rerankN := 1, queries := [{ queryEmpty with merged := some listEmpty, scored := true }] })]),
   _,
   searching (cmd0 48) ({ srch (cmd0 0x30) coll1 with rerankN := 1, queries := [{ queryEmpty with merged := some listEmpty, scored := true }] }),
   { srch (cmd0 0x30) coll1 with rerankN := 1, queries := [{ queryEmpty with merged := some listEmpty, scored := true }] },
   by decide +kernel, by decide +kernel, by decide +kernel, (by decide +kernel), by decide +kernel, by decide +kernel, by decide +kernel,
   res_unit (by decide +kernel)⟩

theorem witness_ScanRows_12 :
    ∃ (s u : State) (x : Cmd) (k : Coll) (f : Fan), cmdGet s x.id = some x ∧ x.phase = .executing ∧ x.vpoison = none ∧ x.work = .fan f
      ∧ viewOf s x = some k ∧ ((f.sent = true ∨ f.cut = true)) ∧ f.shards.all (fun h => h.answered) = true ∧ firstFailure f = none
      ∧ (let m := mergeLists 0 f.kSel (fanLists f); (let l := if fanScored f then (mergeLists f.key f.k [{ m.1 with tail := 0 }]).1 else (mergeLists 0 f.k [m.1]).1; andThen (if cf x 56 8 = 0 then .ok () s else writeBuf x (cf x 56 8) (fanReport f) s) (fun _ s' => writeBuf x (cf x 24 8) (resultBlock (fanHeader k f m.1) (fanScored f) l) s') = .ok () u)) :=
  ⟨(withColl (coll0) [{ cmd0 0x32 with work := .fan fan0 }]), _, { cmd0 0x32 with work := .fan fan0 }, coll0, fan0, by decide +kernel,
   by decide +kernel, by decide +kernel, (by decide +kernel), by decide +kernel, by decide +kernel, by decide +kernel, (by decide +kernel),
   res_unit (by decide +kernel)⟩

theorem witness_ScanRows_13 :
    ∃ (s : State) (x : Cmd) (k : Coll) (f : Fan) (i st : Nat), cmdGet s x.id = some x ∧ x.phase = .executing ∧ x.vpoison = none
      ∧ x.work = .fan f ∧ viewOf s x = some k ∧ ((f.sent = true ∨ f.cut = true)) ∧ f.shards.all (fun h => h.answered) = true
      ∧ firstFailure f = some (i, st) :=
  ⟨
   (withColl (coll0) [{ cmd0 0x32 with work := .fan ({ fan0 with shards := [{ peer := 1023, coll := 0, shardId := 2, request := 1, answered := true, entries := [], report := some { viewEpoch := 1, horizon := 0, status := 0x403, shardId := 2, returned := 0, hflags := 0, tail := 0, stamp := 0, examined := 0, passed := 0 } }] }) }]),
   { cmd0 0x32 with work := .fan ({ fan0 with shards := [{ peer := 1023, coll := 0, shardId := 2, request := 1, answered := true, entries := [], report := some { viewEpoch := 1, horizon := 0, status := 0x403, shardId := 2, returned := 0, hflags := 0, tail := 0, stamp := 0, examined := 0, passed := 0 } }] }) },
   coll0,
   { fan0 with shards := [{ peer := 1023, coll := 0, shardId := 2, request := 1, answered := true, entries := [], report := some { viewEpoch := 1, horizon := 0, status := 0x403, shardId := 2, returned := 0, hflags := 0, tail := 0, stamp := 0, examined := 0, passed := 0 } }] },
   0, 0x403, by decide +kernel, by decide +kernel, by decide +kernel, (by decide +kernel), by decide +kernel, by decide +kernel,
   by decide +kernel, (by decide +kernel)⟩

theorem witness_ScanRows_14 :
    ∃ (s : State) (x : Cmd) (sr : Search), cmdGet s x.id = some x ∧ x.phase = .executing ∧ x.work = .search sr ∧ sr.enc = []
      ∧ rerankDue sr = true ∧ boreHeld s x [serve s x.home] = false ∧ codePoison s sr.coll sr.h (rerankReads sr) = none :=
  ⟨(busy [searching (cmd0 48) ({ srch (cmd0 0x30) coll1 with rerankN := 1, queries := [{ queryEmpty with merged := some listEmpty }] })]),
   searching (cmd0 48) ({ srch (cmd0 0x30) coll1 with rerankN := 1, queries := [{ queryEmpty with merged := some listEmpty }] }),
   { srch (cmd0 0x30) coll1 with rerankN := 1, queries := [{ queryEmpty with merged := some listEmpty }] }, by decide +kernel,
   by decide +kernel, by decide +kernel, (by decide +kernel), by decide +kernel, by decide +kernel, by decide +kernel⟩

theorem witness_ScanRows_15 :
    ∃ (s : State) (x : Cmd) (sr : Search), cmdGet s x.id = some x ∧ x.phase = .executing ∧ x.work = .rerank sr
      ∧ boreHeld s x [serve s x.home] = false ∧ codePoison s sr.coll sr.h (rerankReads sr) = none :=
  ⟨(busy [{ cmd0 0x34 with work := .rerank (srch (cmd0 0x34) coll1) }]), { cmd0 0x34 with work := .rerank (srch (cmd0 0x34) coll1) },
   srch (cmd0 0x34) coll1, by decide +kernel, by decide +kernel, by decide +kernel, (by decide +kernel), by decide +kernel⟩

theorem witness_SlideRows_1 :
    ∃ (s : State) (e port addr n b : Nat) (r : SRing), e < 32 ∧ tagsHeld s e < 4096 ∧ r ∈ s.srings.map (ringNow s)
      ∧ canIssue s e port r = true
      ∧ ((∀ q ∈ s.srings.map (ringNow s), canIssue s e port q = true → q ≠ r → pickBefore (fun z => mntBehind s e port || stepHigh s z) r q = true))
      ∧ b = min (min n (if r.isWrite then ringDue r else min r.toAsk (ringSpace r))) (largest port addr r.isWrite) ∧ b ≠ 0
      ∧ targetRoom s port r.cls addr b = true :=
  ⟨{ ready with srings := [sring0 0], engines := [(31, { unbTokens := 1, mntTokens := 0, unbAt := 0, mntAt := 0, charges := [] })] }, 31, 1,
   0, 4096, 2048, sring0 0, by decide +kernel, by decide +kernel, by decide +kernel, (by decide +kernel), by decide +kernel,
   by decide +kernel, by decide +kernel, (by decide +kernel)⟩

theorem witness_SlideRows_2 :
    ∃ (s : State) (e no slot n : Nat) (poison : Bool), e < 32 :=
  ⟨ready, 31, 0, 0, 0, false, by decide +kernel⟩

theorem witness_SlideRows_3 :
    ∃ (s : State) (ps : List (Nat × Nat)) (x : Cmd) (r : SRing), isDeadlock s ps = true ∧ youngest s (ps.filterMap (sringOf s)) = some x
      ∧ (ps.filterMap (sringOf s)).find? (fun r => r.cmd = some x.id) = some r ∧ cmdGet s x.id = some x :=
  ⟨
   { busy [(mk 83 []), { mk 0x53 [] with id := 2 }] with srings := [{ bagRing0 0 with cmd := some 1 }, { bagRing0 1 with cmd := some 2 }], now := 50000 },
   [(31, 0), (31, 1)], { mk 0x53 [] with id := 2 }, { bagRing0 1 with cmd := some 2 }, by decide +kernel, by decide +kernel,
   by decide +kernel, (by decide +kernel)⟩

theorem witness_SlideRows_4 :
    ∃ (s : State) (ps : List (Nat × Nat)) (r : SRing) (rs : List SRing), isDeadlock s ps = true
      ∧ youngest s (ps.filterMap (sringOf s)) = none
      ∧ sortBy (fun a b => a.accepted > b.accepted) ((ps.filterMap (sringOf s)).filter (fun r => r.cmd.isNone)) = r :: rs :=
  ⟨
   { ready with srings := [{ bagRing0 0 with step := some 0 }, { bagRing0 1 with step := some 1, accepted := 1 }], colls := [(0, recoding), (1, recoding)], now := 50000 },
   [(31, 0), (31, 1)], { bagRing0 1 with step := some 1, accepted := 1 }, [{ bagRing0 0 with step := some 0 }], by decide +kernel,
   by decide +kernel, by decide +kernel⟩

theorem witness_SlideRows_5 :
    ∃ (s : State) (x : Cmd) (since : Nat), cmdGet s x.id = some x ∧ x.work = .wait 8 since ∧ x.phase = .waiting ∧ x.bounded = false
      ∧ s.now ≥ since + 1000000 :=
  ⟨{ busy [{ mk 0x20 [] with phase := .waiting, work := .wait 8 0 }] with now := 1000000 },
   { mk 0x20 [] with phase := .waiting, work := .wait 8 0 }, 0, by decide +kernel, by decide +kernel, by decide +kernel,
   (by decide +kernel), by decide +kernel⟩

theorem witness_SlideRows_6 :
    ∃ (s : State) (e ns : Nat), e < 32 ∧ unbFree s e = false :=
  ⟨{ ready with regs := ready.regs ++ [(reg .sld 31 0x118, 0xFFFE)] }, 31, 0, by decide +kernel, by decide +kernel⟩

theorem witness_SlideRows_7 :
    ∃ (s : State) (e ns : Nat), e < 32 ∧ unbFree s e = true :=
  ⟨ready, 31, 0, by decide +kernel, by decide +kernel⟩

theorem witness_SlideRows_8 :
    ∃ (s : State) (e ns : Nat), e < 32 :=
  ⟨ready, 31, 0, by decide +kernel⟩

theorem witness_SearchRows_1 :
    ∃ (s t u v : State) (x : Cmd) (k : Coll) (sr : Search) (f : Option Filter) (listed : List Nat), Begun s x 0x30 ∧ viewOf s x = some k
      ∧ barred s x = false ∧ streamPoison x.id s = none ∧ probeLost s x k = none ∧ probePaused s x k = false
      ∧ readQueries x k (searchInit x k) s = .ok sr t ∧ bellMarked sr.enc = none ∧ readFilter x (cf x 32 8) t = .ok f u
      ∧ (if cf x 62 1 = 1 then readProbes x u else .ok [] u) = .ok listed v :=
  ⟨(withColl (coll1) [cmd0 0x30]), _, _, _, cmd0 0x30, coll1, _, _, _, begun (by decide +kernel), by decide +kernel, by decide +kernel,
   (by decide +kernel), by decide +kernel, by decide +kernel, res_ok (by decide +kernel), (by decide +kernel), res_ok (by decide +kernel),
   res_ok (by decide +kernel)⟩

theorem witness_SearchRows_2 :
    ∃ (s t u v : State) (x : Cmd) (k : Coll) (sr : Search) (f : Option Filter) (listed : List Nat), Begun s x 0x33 ∧ viewOf s x = some k
      ∧ barred s x = false ∧ streamPoison x.id s = none ∧ probeLost s x k = none ∧ probePaused s x k = false
      ∧ readQueries x k (searchInit x k) s = .ok sr t ∧ bellMarked sr.enc = none ∧ readFilter x (cf x 32 8) t = .ok f u
      ∧ (if cf x 62 1 = 1 then readProbes x u else .ok [] u) = .ok listed v :=
  ⟨(withColl (coll1) [cmd0 0x33]), _, _, _, cmd0 0x33, coll1, _, _, _, begun (by decide +kernel), by decide +kernel, by decide +kernel,
   (by decide +kernel), by decide +kernel, by decide +kernel, res_ok (by decide +kernel), (by decide +kernel), res_ok (by decide +kernel),
   res_ok (by decide +kernel)⟩

theorem witness_SearchRows_3 :
    ∃ (s t u : State) (x : Cmd) (k : Coll) (sr : Search) (f : Option Filter), Begun s x 0x31 ∧ viewOf s x = some k ∧ barred s x = false
      ∧ streamPoison x.id s = none ∧ readQueries x k (searchInit x k) s = .ok sr t ∧ bellMarked sr.enc = none
      ∧ readFilter x (cf x 32 8) t = .ok f u :=
  ⟨(withColl (coll1) [cmd0 0x31]), _, _, cmd0 0x31, coll1, _, _, begun (by decide +kernel), by decide +kernel, by decide +kernel,
   (by decide +kernel), res_ok (by decide +kernel), by decide +kernel, res_ok (by decide +kernel)⟩

theorem witness_SearchRows_4 :
    ∃ (s t u v : State) (x : Cmd) (k : Coll) (q : Query) (ids terms : List Byte), Begun s x 0x34 ∧ viewOf s x = some k ∧ barred s x = false
      ∧ streamPoison x.id s = none ∧ rerankQueries x k s = .ok q t ∧ readBuf x (cf x 32 8) (8 * cf x 52 4) t = .ok ids u
      ∧ badIds ids (cf x 52 4) = none ∧ (if cf x 57 1 = 0 then .ok [] u else readBuf x (cf x 40 8) (4 * cf x 52 4) u) = .ok terms v :=
  ⟨{ withColl (coll1) [(mk 52 [(32, 65536), (52, 2)])] with hostMem := memWrite [] 65536 (packed 16 [(0, 1), (8, 2)]) }, _, _, _,
   (mk 52 [(32, 65536), (52, 2)]), coll1, _, _, _, begun (by decide +kernel), by decide +kernel, by decide +kernel, (by decide +kernel),
   res_ok (by decide +kernel), res_ok (by decide +kernel), by decide +kernel, res_ok (by decide +kernel)⟩

theorem witness_SearchRows_5 :
    ∃ (s t u v z : State) (x : Cmd) (k : Coll) (params ls fb : List Byte) (ts : List Nat) (f : Fan), Begun s x 0x32 ∧ viewOf s x = some k
      ∧ barred s x = false ∧ streamPoison x.id s = none ∧ readBuf x (cf x 64 8) 128 s = .ok params t ∧ badParams t x k params = none
      ∧ (let p := sparams (fanCmd x params); (let n := cf x 72 2; (((cf x 40 8 ≠ 0) ↔ (p.rerankN ≠ 0 ∧ p.source = false))) ∧ readBuf x (cf x 48 8) (16 * n) t = .ok ls u ∧ badShards u ls n 0 = none ∧ fanFilter x u = .ok (fb, ts) v ∧ fanQuery x k p { shards := (List.range n).map (shardOf ls), k := p.k, kSel := kSelOf p.k p.rerankN, rerankN := p.rerankN, key := p.key, h := cColl x, cut := false, enc := [], sent := false, sentAt := 0, subUs := 0, params := params, codes := [], rq := [], filter := fb, tset := ts } v = .ok f z ∧ bellMarked f.enc = none ∧ shardsDown z f = false ∧ ((x.bounded = true → x.deadlineUs ≠ 0 → 0 < subDeadline z x)))) :=
  ⟨
   { withColl (coll0) [(mk 50 [(16, 4096), (24, 8192), (48, 16384), (64, 32768), (72, 1)])] with hostMem := memWrite (memWrite [] 16384 (packed 16 [(0, 0xFFFF)])) 32768 (packed 128 [(8, 1)]) },
   _, _, _, _, (mk 50 [(16, 4096), (24, 8192), (48, 16384), (64, 32768), (72, 1)]), coll0, _, _, _, _, _, begun (by decide +kernel),
   by decide +kernel, by decide +kernel, (by decide +kernel), res_ok (by decide +kernel), by decide +kernel, by decide +kernel,
   res_ok (by decide +kernel), by decide +kernel, res_ok (by decide +kernel), res_ok (by decide +kernel), (by decide +kernel),
   by decide +kernel, by decide +kernel⟩

theorem witness_NanRanksAboveNumbers_1 :
    ∃ (a b : Cand), isNan32 a.score = true ∧ isNan32 b.score = false ∧ a.vid < 2 ^ 48 ∧ b.vid < 2 ^ 48 ∧ a.shard < 2 ^ 12 ∧ b.shard < 2 ^ 12 :=
  ⟨cand0 (2 ^ 48 - 1) 0x7FC00000, cand0 0 0x7F800000, by decide +kernel, by decide +kernel, by decide +kernel, (by decide +kernel),
   by decide +kernel, by decide +kernel⟩

theorem witness_NanRanksAboveNumbers_2 :
    ∃ (l : List Cand) (k : Nat) (a b : Cand), ((∀ c ∈ l, c.vid < 2 ^ 48 ∧ c.shard < 2 ^ 12)) ∧ isNan32 a.score = true
      ∧ isNan32 b.score = false :=
  ⟨[cand0 1 0x7FC00000, cand0 2 0], 1, cand0 1 0x7FC00000, cand0 2 0, by decide +kernel, by decide +kernel, by decide +kernel⟩

theorem witness_RankOrder_1 :
    ∃ (key : Nat) (a b : Cand), a.vid < 2 ^ 48 ∧ b.vid < 2 ^ 48 ∧ a.shard < 2 ^ 12 ∧ b.shard < 2 ^ 12 :=
  ⟨2, cand0 (2 ^ 48 - 1) 0x7FC00000, cand0 0 0x7F800000, by decide +kernel, by decide +kernel, by decide +kernel, (by decide +kernel)⟩

theorem witness_RankOrder_2 :
    ∃ (key : Nat) (a b : Cand), (key = 1 ∨ key = 2) :=
  ⟨2, cand0 (2 ^ 48 - 1) 0x7FC00000, cand0 0 0x7F800000, by decide +kernel⟩


def unit (k n : Nat) : UnitId := { kind := k, logical := n }

/-- The unit of Tier's witness: the model places the words of collections by a free function, so the collection is put where it points. -/
def placedWord : Poison :=
  { coll := (Config.wordAt 1 63 0).1, slot := (Config.wordAt 1 63 0).2.1, word := wordOf (Config.wordAt 1 63 0).2.2, node := false, bulk := true, chan := 63,
    addr := 0 }
def placedState (xs : List Cmd) : State :=
  { busy xs with colls := [((Config.wordAt 1 63 0).1, { coll0 with entries := [((Config.wordAt 1 63 0).2.1, entry0 0 7 1)] })] }
def poison0 (w : DataWord) : Poison := { coll := 0, slot := 0, word := w, node := false, bulk := false, chan := 0, addr := 64 }

theorem witness_TierRows_1 :
    ∃ (s : State) (tier chan addr : Nat) (byScrub : Bool), tier ≤ 2 ∧ chan < tierUnits tier :=
  ⟨ready, 2, 3, 0, true, by decide +kernel, by decide +kernel⟩

theorem witness_TierRows_2 :
    ∃ (s : State) (tier chan addr : Nat) (byScrub : Bool) (x : Cmd) (p : Poison), tier ≤ 1 ∧ chan < tierUnits tier ∧ cmdGet s x.id = some x
      ∧ x.phase = .executing ∧ (cOp x = 0x24 ∨ cOp x = 0x53 ∨ cOp x = 0x34) ∧ collWord s tier chan addr = some p
      ∧ ((∀ y ∈ s.cmds, y.id = x.id → y = x)) ∧ ((∀ n, x.work ≠ .wait 4 n)) :=
  ⟨placedState [(mk 36 [])], 1, 63, 0, false, (mk 36 []), placedWord, by decide +kernel, by decide +kernel, by decide +kernel,
   (by decide +kernel), by decide +kernel, by simp [collWord, placedState, placedWord, tget], by decide +kernel, by intro n; exact nofun⟩

theorem witness_TierRows_3 :
    ∃ (s : State) (tier chan row corrected pct : Nat), tier ≤ 1 ∧ chan < tierUnits tier :=
  ⟨ready, 1, 63, 0, 3, 0, by decide +kernel, by decide +kernel⟩

theorem witness_TierRows_4 :
    ∃ (s : State) (tier chan row corrected pct : Nat), tier ≤ 1 ∧ chan < tierUnits tier ∧ 4 ≤ corrected :=
  ⟨ready, 1, 63, 0, 4, 0, by decide +kernel, by decide +kernel, by decide +kernel⟩

theorem witness_TierRows_5 :
    ∃ (s : State) (tier chan addr : Nat), (tier, chan, addr) ∈ s.rowsMarked ∧ rowsLeft s tier chan ≠ 0 :=
  ⟨{ ready with rowsMarked := [(1, 63, 0)] }, 1, 63, 0, by decide +kernel, by decide +kernel⟩

theorem witness_TierRows_6 :
    ∃ (s : State) (h cluster byte : Nat) (b : Tbl), cluster < 32 ∧ tget s.tables h = some b ∧ b.current.isSome = true ∧ b.paused = false :=
  ⟨(encoding []), 0, 31, 0, tbl0, by decide +kernel, by decide +kernel, by decide +kernel, (by decide +kernel)⟩

theorem witness_TierRows_7 :
    ∃ (s : State) (h : Nat) (fromBag : Bool) (b : Tbl), tget s.tables h = some b ∧ b.paused = true ∧ b.lost = none :=
  ⟨{ ready with tables := [(0, { tbl0 with paused := true })] }, 0, true, { tbl0 with paused := true }, by decide +kernel,
   by decide +kernel, by decide +kernel⟩

theorem witness_TierRows_8 :
    ∃ (s : State) (h a : Nat) (fromBag : Bool) (b : Tbl), tget s.tables h = some b ∧ b.paused = true ∧ b.lost = none :=
  ⟨{ ready with tables := [(0, { tbl0 with paused := true })] }, 0, 0, true, { tbl0 with paused := true }, by decide +kernel,
   by decide +kernel, by decide +kernel⟩

theorem witness_TierRows_9 :
    ∃ (s : State) (h slot addr media : Nat) (w : DataWord) (p : Poison) (c : Coll),
      (s.poison.find? (fun p => p.coll = h ∧ p.slot = slot ∧ p.word = w ∧ p.addr = addr) = some p) ∧ tget s.colls h = some c
      ∧ bagWorks s = true ∧ journalFits s false 4096 = true :=
  ⟨{ withColl (coll1) [] with poison := [poison0 .links] }, 0, 0, 64, 0, .links, poison0 .links, coll1, by decide +kernel,
   by decide +kernel, by decide +kernel, (by decide +kernel)⟩

theorem witness_TierRows_10 :
    ∃ (s : State) (h slot addr media : Nat) (w : DataWord) (p : Poison) (c : Coll) (e : Entry), ((w = .code ∨ w = .record))
      ∧ (s.poison.find? (fun p => p.coll = h ∧ p.slot = slot ∧ p.word = w ∧ p.addr = addr) = some p) ∧ tget s.colls h = some c
      ∧ bagWorks s = true ∧ journalFits s false 4096 = true ∧ tget c.entries slot = some e ∧ tget c.tombs slot = none :=
  ⟨{ withColl (coll1) [] with poison := [poison0 .code] }, 0, 0, 64, 0, .code, poison0 .code, coll1, entry0 0 7 1, by decide +kernel,
   by decide +kernel, by decide +kernel, (by decide +kernel), by decide +kernel, by decide +kernel, by decide +kernel⟩

theorem witness_UnitRows_1 :
    ∃ (s : State) (u : UnitId) (cause : Nat), u.kind ≠ 1 ∧ unitKnown u = true ∧ unitGone s u = false :=
  ⟨ready, unit 2 31, 0, by decide +kernel, by decide +kernel, by decide +kernel⟩

theorem witness_UnitRows_2 :
    ∃ (s : State) (u : UnitId), u.kind ≠ 1 ∧ unitKnown u = true ∧ unitGone s u = false :=
  ⟨ready, unit 2 31, by decide +kernel, by decide +kernel, by decide +kernel⟩

theorem witness_UnitRows_3 :
    ∃ (s : State) (cl tile col cause : Nat), cl < 32 ∧ tile < 16 ∧ col ≤ 64 ∧ unitGone s { kind := 2, logical := cl } = false
      ∧ unitGone s { kind := 1, logical := (cl * 16 + tile) * 128 + col } = false ∧ sparesLeft s 1 (cl * 16 + tile) ≠ 0 :=
  ⟨ready, 31, 15, 64, 0, by decide +kernel, by decide +kernel, by decide +kernel, (by decide +kernel), by decide +kernel, by decide +kernel⟩

theorem witness_UnitRows_4 :
    ∃ (s : State) (cl tile col cause : Nat), cl < 32 ∧ tile < 16 ∧ unitGone s { kind := 2, logical := cl } = false
      ∧ sparesLeft s 1 (cl * 16 + tile) = 0 :=
  ⟨
   { ready with chn := { ready.chn with map := [{ kind := 1, cause := 0, tower := 0, physical := 0, replacement := 64, logical := 31 * 16 + 15, timeS := 0 }] } },
   31, 15, 64, 0, by decide +kernel, by decide +kernel, by decide +kernel, (by decide +kernel)⟩

theorem witness_UnitRows_5 :
    ∃ (s : State) (cl row col : Nat), cl < 32 ∧ row < 256 ∧ col < 256 ∧ cl * 65536 + row * 256 + col ∉ s.parityCells ∧ s.unitCorrected = [] :=
  ⟨ready, 31, 255, 255, by decide +kernel, by decide +kernel, by decide +kernel, (by decide +kernel), by decide +kernel⟩

theorem witness_UnitRows_6 :
    ∃ (s : State) (cl row col : Nat), cl < 32 ∧ row < 256 ∧ col < 256 ∧ cl * 65536 + row * 256 + col ∈ s.parityCells :=
  ⟨{ ready with parityCells := [32 * 65536 - 1] }, 31, 255, 255, by decide +kernel, by decide +kernel, by decide +kernel,
   (by decide +kernel)⟩

theorem witness_UnitRows_7 :
    ∃ (s : State) (u : UnitId), (u.kind = 2 ∨ u.kind = 3 ∨ u.kind = 4) ∧ unitKnown u = true ∧ unitGone s u = false ∧ u ∉ s.chn.returning :=
  ⟨ready, unit 4 127, by decide +kernel, by decide +kernel, by decide +kernel, (by decide +kernel)⟩

theorem witness_UnitRows_8 :
    ∃ (s : State) (u : UnitId), (u.kind = 2 ∨ u.kind = 3 ∨ u.kind = 4) ∧ unitKnown u = true ∧ unitGone s u = false ∧ u ∉ s.chn.returning :=
  ⟨ready, unit 4 127, by decide +kernel, by decide +kernel, by decide +kernel, (by decide +kernel)⟩

theorem witness_UnitRows_9 :
    ∃ (s : State) (n : Nat), n < 32 ∧ sleepOn s = true ∧ unitGone s { kind := 2, logical := n } = false
      ∧ { kind := 2, logical := n } ∉ s.blw.asleep ∧ { kind := 2, logical := n } ∉ s.chn.returning ∧ tget s.service (sldPage n) = none
      ∧ clusterIdle s n = true ∧ minAwake s < (awakeClusters s (n / 8)).length ∧ slicesElsewhere s n = true :=
  ⟨ready, 31, by decide +kernel, by decide +kernel, by decide +kernel, (by decide +kernel), by decide +kernel, by decide +kernel,
   by decide +kernel, (by decide +kernel), by decide +kernel⟩

theorem witness_UnitRows_10 :
    ∃ (s : State) (k : Nat), k < 128 ∧ sleepOn s = true ∧ unitGone s { kind := 4, logical := k } = false
      ∧ { kind := 4, logical := k } ∉ s.blw.asleep ∧ { kind := 4, logical := k } ∉ s.chn.returning ∧ coreHeld s k = 0 ∧ coreIn s k = true
      ∧ 8 < (awakeCores s (k / 32)).length :=
  ⟨ready, 127, by decide +kernel, by decide +kernel, by decide +kernel, (by decide +kernel), by decide +kernel, by decide +kernel,
   by decide +kernel, (by decide +kernel)⟩

theorem witness_UnitRows_11 :
    ∃ (s : State) (u : UnitId), u ∈ s.blw.asleep :=
  ⟨{ ready with blw := { ready.blw with asleep := [unit 2 31] } }, unit 2 31, by decide +kernel⟩

theorem witness_UnitRows_12 :
    ∃ (s : State) (n : Nat), { kind := 2, logical := n } ∈ s.chn.returning :=
  ⟨{ ready with chn := { ready.chn with returning := [unit 2 31] } }, 31, by decide +kernel⟩

theorem witness_UnitRows_13 :
    ∃ (s : State), s.chn.mapPending = true :=
  ⟨{ ready with chn := { ready.chn with mapPending := true } }, by decide +kernel⟩

theorem witness_UnitRows_14 :
    ∃ (s : State), s.chn.mapPending = true :=
  ⟨{ ready with chn := { ready.chn with mapPending := true } }, by decide +kernel⟩

theorem witness_WalkRows_1 :
    ∃ (s : State) (x : Cmd) (sr : Search) (w : Walk) (q : Query) (qs : List Query) (n : Nat), cmdGet s x.id = some x ∧ x.phase = .executing
      ∧ x.work = .search sr ∧ sr.walk = some w ∧ sr.queries = q :: qs ∧ w.ended = false ∧ sr.enc = [] ∧ n ∈ w.waiting
      ∧ nodePoisonAt s sr.coll sr.h n (nodeWords w.listed) = none ∧ ((w.listed = true ∨ w.waiting.filter (· ≠ n) ≠ [])) :=
  ⟨(busy [searching (cmd0 49) ({ srch (cmd0 0x31) coll1 with walk := some walk0 })]),
   searching (cmd0 49) ({ srch (cmd0 0x31) coll1 with walk := some walk0 }), { srch (cmd0 0x31) coll1 with walk := some walk0 }, walk0,
   queryEmpty, [], 9, by decide +kernel, by decide +kernel, by decide +kernel, (by decide +kernel), by decide +kernel, by decide +kernel,
   by decide +kernel, (by decide +kernel), by decide +kernel, by decide +kernel⟩

theorem witness_WalkRows_2 :
    ∃ (s : State) (x : Cmd) (sr : Search) (w : Walk) (q : Query) (qs : List Query) (n : Nat), cmdGet s x.id = some x ∧ x.phase = .executing
      ∧ x.work = .search sr ∧ sr.walk = some w ∧ sr.queries = q :: qs ∧ w.ended = false ∧ sr.enc = [] ∧ n ∈ w.waiting
      ∧ nodePoisonAt s sr.coll sr.h n (nodeWords w.listed) = none ∧ w.listed = false ∧ w.waiting.filter (· ≠ n) = [] :=
  ⟨(busy [searching (cmd0 49) ({ srch (cmd0 0x31) coll1 with walk := some ({ walk0 with listed := false, waiting := [9] }) })]),
   searching (cmd0 49) ({ srch (cmd0 0x31) coll1 with walk := some ({ walk0 with listed := false, waiting := [9] }) }),
   { srch (cmd0 0x31) coll1 with walk := some ({ walk0 with listed := false, waiting := [9] }) },
   ({ walk0 with listed := false, waiting := [9] }), queryEmpty, [], 9, by decide +kernel, by decide +kernel, by decide +kernel,
   (by decide +kernel), by decide +kernel, by decide +kernel, by decide +kernel, (by decide +kernel), by decide +kernel, by decide +kernel,
   by decide +kernel⟩

theorem witness_WalkRows_3 :
    ∃ (s : State) (x : Cmd) (sr : Search) (w : Walk) (q : Query) (qs : List Query) (n : Nat) (p : Poison × DataWord), cmdGet s x.id = some x
      ∧ x.phase = .executing ∧ x.work = .search sr ∧ sr.walk = some w ∧ sr.queries = q :: qs ∧ w.ended = false ∧ sr.enc = [] ∧ n ∈ w.waiting
      ∧ nodePoisonAt s sr.coll sr.h n (nodeWords w.listed) = some p :=
  ⟨
   { busy [searching (cmd0 49) ({ srch (cmd0 0x31) coll1 with walk := some walk0 })] with poison := [{ coll := 0, slot := 9, word := .tomb, node := false, bulk := false, chan := 0, addr := 0 }] },
   searching (cmd0 49) ({ srch (cmd0 0x31) coll1 with walk := some walk0 }), { srch (cmd0 0x31) coll1 with walk := some walk0 }, walk0,
   queryEmpty, [], 9, ({ coll := 0, slot := 9, word := .tomb, node := false, bulk := false, chan := 0, addr := 0 }, .tomb),
   by decide +kernel, by decide +kernel, by decide +kernel, (by decide +kernel), by decide +kernel, by decide +kernel, by decide +kernel,
   (by decide +kernel), by decide +kernel⟩

theorem witness_WalkRows_4 :
    ∃ (s : State) (x : Cmd) (sr : Search) (w : Walk) (q : Query) (qs : List Query), cmdGet s x.id = some x ∧ x.phase = .executing
      ∧ x.work = .search sr ∧ sr.walk = some w ∧ sr.queries = q :: qs ∧ w.ended = false ∧ sr.enc = [] ∧ w.listed = true ∧ w.waiting = []
      ∧ coreTaken s x = false :=
  ⟨(busy [searching (cmd0 49) ({ srch (cmd0 0x31) coll1 with walk := some ({ walk0 with waiting := [] }) })]),
   searching (cmd0 49) ({ srch (cmd0 0x31) coll1 with walk := some ({ walk0 with waiting := [] }) }),
   { srch (cmd0 0x31) coll1 with walk := some ({ walk0 with waiting := [] }) }, ({ walk0 with waiting := [] }), queryEmpty, [],
   by decide +kernel, by decide +kernel, by decide +kernel, (by decide +kernel), by decide +kernel, by decide +kernel, by decide +kernel,
   (by decide +kernel), by decide +kernel, by decide +kernel⟩

theorem witness_WalkRows_5 :
    ∃ (s : State) (x : Cmd) (sr : Search), cmdGet s x.id = some x ∧ x.phase = .executing ∧ isSearch x = true ∧ cCut x = true
      ∧ x.deadlineUs ≠ 0 ∧ x.work = .search sr ∧ sr.cut = false ∧ cutDue s x (cutLead s x sr.k sr.kSel sr.rerankN sr.queries.length) = true :=
  ⟨
   { busy [{ mk 0x30 [(4, 2), (8, 1000), (56, 1)] with deadlineUs := 1000, work := .search (srch (cmd0 0x30) coll1) }] with now := 1000000 },
   { mk 0x30 [(4, 2), (8, 1000), (56, 1)] with deadlineUs := 1000, work := .search (srch (cmd0 0x30) coll1) }, srch (cmd0 0x30) coll1,
   by decide +kernel, by decide +kernel, by decide +kernel, (by decide +kernel), by decide +kernel, by decide +kernel, by decide +kernel,
   (by decide +kernel)⟩

theorem witness_WalkRows_6 :
    ∃ (s : State) (x : Cmd) (f : Fan), cmdGet s x.id = some x ∧ x.phase = .executing ∧ isSearch x = true ∧ cCut x = true ∧ x.deadlineUs ≠ 0
      ∧ x.work = .fan f ∧ f.cut = false ∧ cutDue s x (cutLead s x f.k f.kSel f.rerankN 1) = true :=
  ⟨{ busy [{ mk 0x32 [(4, 2), (8, 1000)] with deadlineUs := 1000, work := .fan fan0 }] with now := 1000000 },
   { mk 0x32 [(4, 2), (8, 1000)] with deadlineUs := 1000, work := .fan fan0 }, fan0, by decide +kernel, by decide +kernel,
   by decide +kernel, (by decide +kernel), by decide +kernel, by decide +kernel, by decide +kernel, (by decide +kernel)⟩

theorem witness_WalkRows_7 :
    ∃ (s : State) (x : Cmd) (k : Coll), cmdGet s x.id = some x ∧ x.phase = .executing ∧ isSearch x = true ∧ cCut x = true ∧ x.deadlineUs ≠ 0
      ∧ x.work = .none ∧ viewOf s x = some k ∧ cOp x ≠ 0x32
      ∧ cutDue s x (cutLead s x (sparams x).k (kSelOf (sparams x).k (sparams x).rerankN) (sparams x).rerankN (sparams x).count) = true :=
  ⟨{ withColl (coll1) [{ mk 0x30 [(4, 2), (8, 1000), (56, 1)] with deadlineUs := 1000 }] with now := 1000000 },
   { mk 0x30 [(4, 2), (8, 1000), (56, 1)] with deadlineUs := 1000 }, coll1, by decide +kernel, by decide +kernel, by decide +kernel,
   (by decide +kernel), by decide +kernel, by decide +kernel, by decide +kernel, (by decide +kernel), by decide +kernel⟩

theorem witness_WalkRows_8 :
    ∃ (s t : State) (x : Cmd) (k : Coll) (g : Fan), cmdGet s x.id = some x ∧ x.phase = .executing ∧ isSearch x = true ∧ cCut x = true
      ∧ x.deadlineUs ≠ 0 ∧ x.work = .none ∧ viewOf s x = some k ∧ cOp x = 0x32 ∧ cutDue s x (cutLead s x 0 0 0 1) = true
      ∧ fanInputs x k s = .ok g t :=
  ⟨
   { withColl (coll0) [{ mk 0x32 [(4, 2), (8, 1000), (16, 4096), (24, 8192), (48, 16384), (64, 32768), (72, 1)] with deadlineUs := 1000 }] with hostMem := memWrite (memWrite [] 16384 (packed 16 [(0, 0xFFFF)])) 32768 (packed 128 [(8, 1)]), now := 1000000 },
   _, { mk 0x32 [(4, 2), (8, 1000), (16, 4096), (24, 8192), (48, 16384), (64, 32768), (72, 1)] with deadlineUs := 1000 }, coll0, _,
   by decide +kernel, by decide +kernel, by decide +kernel, (by decide +kernel), by decide +kernel, by decide +kernel, by decide +kernel,
   (by decide +kernel), by decide +kernel, res_ok (by decide +kernel)⟩

theorem witness_WalkRows_9 :
    ∃ (s : State) (a b : Nat), a < 128 ∧ b < 128 ∧ a ≠ b ∧ a / 32 = b / 32 ∧ coreHeld s a ≠ 0 ∧ coreHeld s b < 480 ∧ coreAway s a = true
      ∧ coreAway s b = false :=
  ⟨{ ready with contexts := (List.range 8).map (fun n => (96, n)), blw := { ready.blw with asleep := [unit 4 96] } }, 96, 127,
   by decide +kernel, by decide +kernel, by decide +kernel, (by decide +kernel), by decide +kernel, by decide +kernel, by decide +kernel,
   (by decide +kernel)⟩

theorem witness_WindwayRows_1 :
    ∃ (home q : Nat) (s p u : State) (x : Cmd) (adm : Bool) (cs : List (Nat × Rat)) (w : Rat), s.chn.quiesced = false ∧ s.chn.losing = false
      ∧ homeOk s (home % 32) = true ∧ pickQueue s = some (q, p) ∧ headOf p q = some x ∧ cmdGet p x.id = some x
      ∧ ((boundedCls s q = true → staleHome s (home % 32) = false))
      ∧ (let x' := { x with home := home % 32, bounded := boundedCls p x.queue, deadlineUs := deadlineOf p x }; (let v := cmdPut x' p; startChecks v x' (boundedCls p x.queue) = .go ∧ x.xfault = none ∧ adm = (boundedCls p x.queue && !noAdmission x') ∧ ((adm = true → admission v { planOf v x' with fixed := (planOf v x').fixed + sleepFloor v (home % 32) } ((deadlineOf v x' * 1000 : Nat) - ((v.now - x'.arrival : Nat) : Int)) = .inr (cs, w))) ∧ ((adm = false → cs = [] ∧ w = 0)) ∧ resourcesFree v x' = true ∧ reserveAll x.id adm x.id (ringNeeds v x' (home % 32)) v = some u)) :=
  ⟨31, 0, (busy [newCmd 1 0 (packed 128 [(0, 1)]) 0 0]),
   (pickQueue (busy [newCmd 1 0 (packed 128 [(0, 1)]) 0 0])).get (by decide +kernel) |>.2, _, newCmd 1 0 (packed 128 [(0, 1)]) 0 0, false,
   [], 0, by decide +kernel, by decide +kernel, by decide +kernel, (by decide +kernel), by decide +kernel, by decide +kernel,
   by decide +kernel, (by decide +kernel), by decide +kernel, by decide +kernel, nofun, (by decide +kernel), by decide +kernel,
   (Option.some_get (by decide +kernel)).symm⟩

theorem witness_WindwayRows_2 :
    ∃ (s : State) (x : Cmd), x ∈ s.cmds ∧ cmdGet s x.id = some x ∧ scanRefuses s x = true :=
  ⟨
   { withColl (coll1) [newCmd 1 0 (packed 128 [(0, 0x24), (8, 1), (24, 1), (32, 7)]) 0 0] with queues := [(0, { queueZero with cls := 0 })], now := 2000 },
   newCmd 1 0 (packed 128 [(0, 0x24), (8, 1), (24, 1), (32, 7)]) 0 0, by decide +kernel, by decide +kernel, by decide +kernel⟩

theorem witness_WindwayRows_3 :
    ∃ (d : Nat) (s : State) (x : Domain), tget s.domains d = some x ∧ x.urgRate ≠ 0 :=
  ⟨0, ready, domainZero, by decide +kernel, by decide +kernel⟩

theorem witness_CompletionPosted_1 :
    ∃ (c : Nat) (s u : State) (x : Cmd) (q : Queue) (r : Ring), s.chn.losing = false ∧ cmdGet s c = some x ∧ x.phase = .finished
      ∧ x.sub = none ∧ journalTurn s x = true ∧ tget s.queues x.queue = some q ∧ q.fabric = false ∧ tget s.rings q.ring = some r
      ∧ r.enabled = true ∧ r.faulted = false ∧ r.zeroing = false ∧ ((q.ring = 0 → s.reports = [])) ∧ ringUnread r + 1 < 2 ^ r.sizeLog2
      ∧ isLate s x = false ∧ writeRecord (.cq q.ring) r (cplBytes s x) s = .done u :=
  ⟨1, { busy [{ mk 0x01 [] with phase := .finished }] with rings := [(0, ringOn)] }, _, { mk 0x01 [] with phase := .finished }, queueZero,
   ringOn, by decide +kernel, by decide +kernel, by decide +kernel, (by decide +kernel), by decide +kernel, by decide +kernel,
   by decide +kernel, (by decide +kernel), by decide +kernel, by decide +kernel, by decide +kernel, (by decide +kernel), by decide +kernel,
   by decide +kernel, done_ok (by decide +kernel)⟩

theorem witness_PortRows_2 :
    ∃ (s : State) (n lane : Nat) (p : Port), n < 12 ∧ lane < 8 ∧ s.cst.ports[n]? = some p
      ∧ unitGone s { kind := 8, logical := laneOf n lane } = false ∧ sparesLeft s 8 (laneOf n lane) = 0 :=
  ⟨
   { ready with chn := { ready.chn with map := (List.range 4).map (fun n => { kind := 8, cause := 0, tower := 0, physical := 0, replacement := n, logical := 95, timeS := 0 }) } },
   11, 7, { up := false, present := false, kr8 := false, noSpare := false }, by decide +kernel, by decide +kernel, by decide +kernel,
   (by decide +kernel), by decide +kernel⟩

/-! ## Well-formedness: for each check of `Instr.wf` a term it refuses, and terms at the ends of the ranges that it takes -/

theorem test_wf_host_port :
    ([.commit (2 ^ 23) [0], .commit 0 [], .cqHeadWrite 32768 0, .evrHeadWrite 8 0, .ringContextWord0Write (.cq 1) 0,
      .ringContextWord1Write (.ev 8) 0, .ringZeroingDone (.cq 4096), .coalesceTimerExpiry (.ev 8), .blkErrClear 16384 0,
      .boreDebugWrite 32 0, .registerWrite 3 0 [0], .registerWrite 0 (2 ^ 26) [0], .registerRead 2 (2 ^ 16 - 3) 4, .registerRead 0 0 4097,
      .startDecision 32, .msixUnmask 2048] : List Instr).all (fun i => !i.wf) = true := by decide

theorem test_wf_host_port_takes :
    ([.commit (2 ^ 23 - 1) [0], .cqHeadWrite 32767 0, .evrHeadWrite 7 0, .ringContextWord0Write (.cq 0) 0, .ringContextWord1Write (.ev 7) 0,
      .ringZeroingDone (.cq 4095), .blkErrClear 16383 0, .boreDebugWrite 31 0, .registerRead 2 (2 ^ 16 - 4) 4, .registerRead 0 0 4096,
      .startDecision 31, .msixUnmask 2047] : List Instr).all Instr.wf = true := by decide

theorem test_wf_engines :
    ([.slideIssue 32 0 0 1, .slideIssue 0 79 0 1, .slideIssue 0 0 0 0, .slideIssue 0 0 0 16385, .transferLanded 0 64 0 0 false,
      .transferLanded 0 0 16 0 false, .streamDeadlock [], .streamDeadlock [(0, 64)], .localListHandover 0 16 0, .localListHandover 0 0 32,
      .valveMerge 0 (some 4), .spillReduction 0 4, .contextMoved 128 0, .contextMoved 0 128, .accParityError 32 0 0, .accParityError 0 256 0,
      .accParityError 0 0 256, .columnSpared 0 16 0 1, .columnSpared 0 0 64 1, .columnSpared 0 0 0 0, .columnSpared 0 0 0 10,
      .slideBucketFill 32 false 0] : List Instr).all (fun i => !i.wf) = true := by decide

theorem test_wf_collections :
    ([.foldStart 4096, .foldAgeExpiry 4096, .foldCommit 4096, .slotRelease 4096, .patchApply 4096, .compactionTrigger 4096 0,
      .tombstoneSettlement 4096, .reencodeStep 4096, .reencodeDone 4096, .repartition 4096, .indexBuild 4096,
      .dataRepaired 4096 0 .code 0 0 true, .dataRepaired 0 (2 ^ 32) .code 0 0 true, .tablePaused 4096 0 0, .tablePaused 0 32 0,
      .tableResumed 4096 true none, .tierUe 0 12 0 true none, .tierUe 1 64 0 true none, .tierUe 2 4 0 true none, .tierUe 3 0 0 true none,
      .tierScrub 2 0 0 0 0 false, .tierScrub 0 0 0 0 101 false, .rowRepaired 2 0 0, .rowRepaired 1 64 0] : List Instr).all (fun i => !i.wf)
      = true := by decide

theorem test_wf_units :
    ([{ kind := 0, logical := 0 }, { kind := 1, logical := 65536 }, { kind := 1, logical := 65 }, { kind := 2, logical := 32 },
      { kind := 3, logical := 32 }, { kind := 4, logical := 128 }, { kind := 5, logical := 400 }, { kind := 6, logical := 8 },
      { kind := 7, logical := 184 }, { kind := 8, logical := 96 }, { kind := 9, logical := 62 }, { kind := 10, logical := 3 },
      { kind := 11, logical := 0 }] : List UnitId).all (fun u => !(Instr.unitHang u).wf) = true := by decide

theorem test_wf_units_takes :
    ([{ kind := 1, logical := 65472 }, { kind := 2, logical := 31 }, { kind := 3, logical := 31 }, { kind := 4, logical := 127 },
      { kind := 5, logical := 399 - 16 }, { kind := 6, logical := 7 }, { kind := 7, logical := 183 }, { kind := 8, logical := 95 },
      { kind := 9, logical := 61 }, { kind := 10, logical := 2 }] : List UnitId).all UnitId.wf = true := by decide

theorem test_wf_bellows :
    ([.unitRetired { kind := 2, logical := 0 } 0, .unitRetired { kind := 2, logical := 0 } 10, .unitSelfTest { kind := 0, logical := 0 } true,
      .unitReturn { kind := 0, logical := 0 }, .unitSleep { kind := 0, logical := 0 }, .unitWake { kind := 0, logical := 0 },
      .paceWear { kind := 0, logical := 0 } 0, .monitorSample 5 0 0 0, .monitorSample 0 65536 0 0, .floorWindow [], .floorLost 5 0,
      .floorRestored 5, .phaseSpared 200, .temperatureSample 9 0 0 0 0, .temperatureSample 0 32768 0 0 0, .temperatureSample 0 0 12 0 0,
      .temperatureSample 0 0 0 (-32769) 0] : List Instr).all (fun i => !i.wf) = true := by decide

theorem test_wf_bag_and_start :
    ([.memberFailed 3 0 0 0, .memberFailed 0 18 0 0, .memberFailed 0 0 17 0, .rebuildDone 18 0,
      .stripeLost 0 18 [] [] { entries := [], progs := [], tables := [], dump := [] },
      .coldStart { calibration := false, training := false, ucalA := false, ucalB := false, mapA := false, mapB := false, rootA := false,
                   rootB := false, selfTest := [{ kind := 0, logical := 0 }] },
      .linkChanged 256 16 false false, .linkChanged 0 17 false false, .fatalError 65536 0 0, .fatalError 0 256 0] : List Instr).all
      (fun i => !i.wf) = true := by decide

theorem test_wf_translation :
    ([.atsTranslationCompletion 256 0 (.failed 0) 0, .atsTranslationCompletion 0 (2 ^ 64) (.failed 0) 0,
      .atsTranslationCompletion 0 0 (.page 0 0 true true false) 0, .atsTranslationCompletion 0 0 (.page 4097 0 true true false) 0,
      .atsTranslationCompletion 0 0 (.page 12288 0 true true false) 0, .atsTranslationCompletion 0 0 (.page 8192 4096 true true false) 0,
      .pageRequestResponse 256 0 .success, .pageRequestTimeout 256 0, .regionTableReadDone 256 0 (.entries [0, 0, 0, 0, 0, 0, 0, 0]),
      .regionTableReadDone 0 0 (.entries []), .atsInvalidateRequest (some (2 ^ 20)) 0 0, .atsInvalidateRequest none (2 ^ 64) 0,
      .urgTokenBucketFill 256] : List Instr).all (fun i => !i.wf) = true := by decide

theorem test_wf_translation_takes :
    ([.atsTranslationCompletion 255 0 (.page 4096 4096 true true false) 0, .atsTranslationCompletion 0 0 (.page (2 ^ 21) (2 ^ 21) true true false) 0,
      .atsInvalidateRequest (some (2 ^ 20 - 1)) 0 0, .regionTableReadDone 0 0 (.entries [0, 0, 0, 0, 0, 0, 0, 0])] : List Instr).all Instr.wf
      = true := by decide

theorem test_wf_fabric :
    ([.laneSpared 12 0 false, .laneSpared 0 8 false, .cablePresenceChange 12 true true, .portState 12 true, .hello 1024 0 0 0,
      .hello 0 (2 ^ 32) 0 0, .helloAck 0 0 4096 0, .helloAck 0 0 0 4096, .close 1024, .resendTimeout 1024, .connectionDown 1024,
      .helloRetry 1024, .rateIncrease 1024, .event 1024, .ackDelayTimer 1024, .ack 1024 0 0 0, .ack 0 (2 ^ 32) 0 0,
      .subq 0 0 256 0 0 false false 0 0 0 0 [] [] [] [] [], .subq 0 0 0 4096 0 false false 0 0 0 0 [] [] [] [] [],
      .rcmd 0 32768 (List.replicate 128 0) [], .rcmd 0 0 [] [], .rcpl 1024 0, .rcpl 0 32768, .reject 0 65536 0 0, .reject 0 0 65536 0,
      .reject 0 0 0 65536, .mrec 0 [], .mack 0 (2 ^ 64), .mfetch 0 2 1, .mtrim 0 0 [(2, 1)], .addressResolutionRequest 12 0 0,
      .dataPacket 0 true 12 (pkt 0) [] false, .dataPacket 0 true 0 (pkt (2 ^ 32)) [] false] : List Instr).all (fun i => !i.wf) = true := by decide

theorem test_wf_management :
    ([.getState 3, .off 3, .coldReset 3, .mgmtWarmReset 3, .holdSet 3, .holdClear 3, .format 3, .mgmtSetTime 3 0, .mgmtSetTime 0 (2 ^ 64),
      .kekSet 3 0 0, .kekSet 0 (2 ^ 32) 0, .debugEnable 0 (2 ^ 32) true, .firmwareUpdate 0 0 0 true, .firmwareUpdate 1 64 0 true,
      .activateFirmware 3, .spdmRequest 4 0 [], .spdmRequest 0 256 [], .spdmSessionTimeout 4, .managementControllerPowerUp 8,
      .mctpControl 3 0, .pldmSetEventReceiver 0 256] : List Instr).all (fun i => !i.wf) = true := by decide

/-! ## The spec's worked examples -/

/-- Submitting on queue 37: w0 and w1 give the check value 0x0046. -/
theorem test_check_value : chkValue (packed 120 [(0, 0x70001), (8, 0x40)]) = 0x0046 := by decide +kernel

/-- Queue 37 of the same example, next_seq 5. -/
def queue37 : State :=
  { ready with
    queues := [(37, { queueZero with nextSeq := 5 })]
    windows := memWrite [] 0x2500 (packed 16 [(0, 0x70001), (8, 0x40)]) }

def after (i : Instr) (s : State) : State := match exec i s with | .next t => t | _ => s

/-- The commit word 05 00 46 00 00 00 00 00 is taken: next_seq becomes 6. -/
theorem test_commit_taken :
    (tget (after (.commit 0x2578 (packed 8 [(0, 0x0046_0005)])) queue37).queues 37).map (fun q => (q.nextSeq, q.rejects)) = some (6, 0) := by
  decide +kernel

/-- With seq 6 the commit is rejected: last_reason 0x02, next_seq 5, reject_count up by one. -/
theorem test_commit_bad_seq :
    (tget (after (.commit 0x2578 (packed 8 [(0, 0x0046_0006)])) queue37).queues 37).map (fun q => (q.nextSeq, q.rejects, q.lastReason))
      = some (5, 1, 2) := by decide +kernel

/-- COMMIT_REJECTED of that commit: addr 0x4000_0000_0000_2578, info0 0x0006_0005_0002. -/
theorem test_commit_rejected_event :
    (after (.commit 0x2578 (packed 8 [(0, 0x0046_0006)])) queue37).chn.recent.map (fun e => (e.code, e.addr, e.i0))
      = [(0x0011, 0x4000_0000_0000_2578#64, 0x0006_0005_0002#64)] := by decide +kernel

/-- The completion record's first sixteen bytes: 07 00 00 00 25 00 00 80 00 00 00 00, then the residency. -/
theorem test_completion_bytes :
    (cplBytes ready { newCmd 1 37 (packed 128 [(0, 0x70001), (8, 0x40)]) 0 0 with phase := .finished } true).take 12
      = [0x07, 0, 0, 0, 0x25, 0, 0, 0x80, 0, 0, 0, 0] := by decide +kernel

/-- The filter of §2's example on records of Table 2.11: tenant, labels, attr[2] and time. -/
def filter211 : Filter :=
  { ctl := 0x0235, tset := [], attrSel := 2, tenant := 0xA17, anyMask := 6, allMask := 0, noneMask := 0x8000_0000_0000_0000,
    terms := [(100, 499)], timeLo := 0, timeHi := 172799 }
def rec211 (tenant : Nat) (labels : Word64) (a2 ts : Nat) : Rec :=
  { vid := 1, tenant := tenant, flags := 0, a0 := 0, a1 := 0, a2 := a2, a3 := 0, labels := labels, ts := ts }

theorem test_filter_passes :
    [rec211 0xA17 2 120 86400, rec211 0xA17 4 499 90000, rec211 0xA17 6 100 100000, rec211 0xA17 4 250 150000, rec211 0xA17 2 499 160000].all
      (filterPass filter211) = true := by decide
theorem test_filter_rejects :
    [rec211 0xB02 2 150 7200, rec211 0xA17 0x8000_0000_0000_0002 300 10000, rec211 0xA17 4 500 12000].any (filterPass filter211) = false := by
  decide

def near (vid dist : Nat) : Cand := { cand0 vid 0 with dist := dist }
def listOf (key cap : Nat) (cs : List Cand) : CList := cs.foldl (offer key cap) listEmpty
def shown (l : CList) : List Nat × Nat := (l.entries.map Cand.vid, l.tail)

/-- The five passing entries of Table 2.11 with k = 3: 0x1C5, 0xA2, 0xB1, and one tied beyond. -/
theorem test_ranked_211 :
    shown (listOf 0 3 [near 0x1C5 141, near 0xA2 150, near 0x3F0 150, near 0xB1 150, near 0x77 162]) = ([0x1C5, 0xA2, 0xB1], 1) := by decide

def listA : CList := listOf 0 4 [near 0x20 30, near 0x15 35, near 0x41 35, near 0x52 35, near 0x60 35, near 0x11 40]
def listB : CList := listOf 0 4 [near 0x09 37, near 0x08 31, near 0x70 37, near 0x30 35, near 0x33 36]
def listC : CList := listOf 0 4 [near 5 35, near 2 35]
def listD : CList := listOf 0 4 [near 0x3D 35, near 0x44 29, near 0x3A 35, near 0x3B 35, near 0x3C 35]

/-- Table 7.5. -/
theorem test_local_lists :
    [listA, listB, listC, listD].map shown
      = [([0x20, 0x15, 0x41, 0x52], 1), ([0x08, 0x30, 0x33, 0x09], 1), ([2, 5], 0), ([0x44, 0x3A, 0x3B, 0x3C], 1)] := by decide

/-- Tower T1 merges A, B and C to a tail of 5; the home cluster merges the towers to a tail of 10. -/
theorem test_merge_tower : shown (mergeLists 0 4 [listA, listB, listC]).1 = ([0x20, 0x08, 2, 5], 5) := by decide
theorem test_merge_home :
    shown (mergeLists 0 4 [(mergeLists 0 4 [listA, listB, listC]).1, listD]).1 = ([0x44, 0x20, 0x08, 2], 10) := by decide +kernel

/-- The rank key of 0x02 at distance 35. -/
theorem test_rank_key : rankKey 0 (near 2 35) = 0x0000_0023_0000_0000_0002_0000 := by decide

/-- Table 7.3. -/
theorem test_primary_smallest :
    [0xFF800000, 0xBF800000, 0x80000000, 0, 0x40F00000, 0x7F800000, 0x7FC00001].map (fun b => primary 2 (cand0 1 (BitVec.ofNat 32 b)))
      = [0x007FFFFF, 0x407FFFFF, 0x80000000, 0x80000000, 0xC0F00000, 0xFF800000, 0xFFFFFFFF] := by decide
theorem test_primary_largest :
    [0xFF800000, 0xBF800000, 0x80000000, 0, 0x40F00000, 0x7F800000, 0x7FC00001].map (fun b => primary 1 (cand0 1 (BitVec.ofNat 32 b)))
      = [0xFF800000, 0xBF800000, 0x7FFFFFFF, 0x7FFFFFFF, 0x3F0FFFFF, 0x007FFFFF, 0] := by decide

/-- Scores of Table 5.2: 48.0 and 40.0. -/
def elems52 : List Nat := List.replicate 32 2 ++ List.replicate 32 15
theorem test_rerank_a : (rerankScore 64 0x7E elems52 0xFFFF_FFFF_0000_0000).val = 0x42400000#32 := by decide +kernel
theorem test_rerank_b : (rerankScore 64 0x7E elems52 0xFFFF_FFFF_0000_000F).val = 0x42200000#32 := by decide +kernel
/-- Entry A of that example's result block. -/
theorem test_entry_bytes :
    entryResult true { cand0 0x1000 0x42400000 with dist := 0 } = [0, 0x10, 0, 0, 0, 0, 0, 0, 0, 0, 0x40, 0x42, 0, 0, 5, 0] := by decide

/-- The graph of Table 6.2: node n has ID 0x100 + n, but N8 has 0x10A; its code has d ones. -/
def node62 (n vid d : Nat) : Nat × Entry := (n, { entry0 n vid 1 with code := 2 ^ d - 1 })
def coll62 : Coll :=
  { coll0 with
    indexKind := 1
    entries := [node62 0 0x100 20, node62 1 0x101 14, node62 2 0x102 12, node62 3 0x103 25, node62 4 0x104 9, node62 5 0x105 6,
                node62 6 0x106 16, node62 7 0x107 6, node62 8 0x10A 6, node62 9 0x109 23]
    arr := { coll0.arr with
      nodes := [(0, [1, 2, 3]), (1, [0, 4, 5, 9]), (2, [0, 5, 6]), (3, [0, 6]), (4, [1, 7]), (5, [1, 2, 7]), (6, [2, 3]), (7, [4, 5, 8]),
                (8, [7]), (9, [1])] } }
def walk62 : Walk :=
  { walk0 with waiting := [], listed := true, cset := [0], beamSize := 3, width := 2, maxExp := 60, maxRounds := 0 }
def end62 : Search × Walk :=
  walkOut queryEmpty 12 ({ srch (mk 0x31 []) coll62 with horizon := 1, k := 2, kSel := 2, maxDist := 64 }, walk62)

/-- Table 6.3 and what follows it: the beam and the list after the walk, its seven expansions, and nine entries examined. -/
theorem test_walk_beam : end62.2.beam.map (fun b => b.cand.slot) = [5, 7, 8] := by decide +kernel
theorem test_walk_list : shown end62.2.cand = ([0x105, 0x107], 1) := by decide +kernel
theorem test_walk_counts : (end62.2.expansions, end62.1.examined, end62.1.passed) = (7, 9, 9) := by decide +kernel

/-- Table 8.11's element: twice each element's value, by blocks. -/
def row811 (sa : Nat) : List OpBlock := [{ code := 0x7F, elems := [3, -1] }, { code := sa, elems := [12] }]
def col811 : List OpBlock := [{ code := 0x81, elems := [6, 1] }, { code := 0x7F, elems := [8] }]
/-- It drains as 0x4188_0018 whole or in two parts, without a flag. -/
theorem test_drain_811 : let r := drainFp32 0x80 (accPart 0x80 accClear (row811 0x6C) col811)
    r.val = 0x41880018#32 ∧ r.flags = 0 := by decide +kernel
theorem test_split_811 :
    let r := drainFp32 0x80 (accCombineAll (accParts 0x80 2 (row811 0x6C) col811))
    r.val = 0x41880018#32 ∧ r.flags = 0 := by decide +kernel
/-- With A's block 1 at 2^−31 it is flushed: 17.0, WL, and the first part that raised it is part 1 of the split. -/
theorem test_flushed_811 : let r := drainFp32 0x80 (accPart 0x80 accClear (row811 0x60) col811)
    r.val = 0x41880000#32 ∧ r.flags = fWL := by decide +kernel
theorem test_first_part_811 : firstPartOf (accParts 0x80 2 (row811 0x60) col811) = 1 := by decide +kernel

/-- Block 0 of the W-E1 source: scale code 0x7C; 0.8125 gives code 0x6, inexact; −0.30078125 gives code 0xE. -/
theorem test_quant_scale : scaleCode 2 [flOfBf16 0x3F50, flOfBf16 0xBE9A] = 0x7C := by decide +kernel
theorem test_quant_codes :
    (quantElem 2 0x7C (flOfBf16 0x3F50)).val = 6 ∧ (quantElem 2 0x7C (flOfBf16 0x3F50)).flags = fIX
      ∧ (quantElem 2 0x7C (flOfBf16 0xBE9A)).val = 0xE := by decide +kernel
/-- Signs − + + − − + + + of step 3's first outputs give the code byte 0x19. -/
theorem test_quant_signs :
    packElems 0 ((quantise 0 0 ([0xBF80, 0x3F80, 0x3F80, 0xBF80, 0xBF80, 0x3F80, 0x3F80, 0x3F80].map flOfBf16)).codes) = [0x19] := by
  decide +kernel

/-- Table 10.5, entry 1; Table 10.6, transfers T3 and T7. -/
theorem test_list_entry :
    (let e := blkEntry [0x20, 0, 0x40, 0x08, 0x10, 0x7F, 0, 0x40, 0, 0, 0, 0, 0, 0, 0, 0] 0
     (e.addr, e.len, e.last, e.resOk)) = (0x7F1008400020, 16384, false, true) := by decide
theorem test_charges :
    [charge portHost 0x7F1008400020 4064 false, charge portHost 0x7F1008404000 32 false, charge portHost 0x7F1010000000 4096 false]
      = [4096, 256, 4096] := by decide

/-- The region-table entry 0x0000_0038_A5E0_0007, and the address read through the translation of its page. -/
theorem test_table_entry : tableValid 0x38A5E00007 = true ∧ (tableEntry 7 0x7F1000400000 0x38A5E00007).bus = 0x38A5E00000 := by decide
theorem test_translated :
    entryBus ready (tableEntry 7 0x7F1000400000 0x38A5E00007) 0x7F1000412340 = 0x38A5E12340 := by decide +kernel

/-- Tower T2 at 95 °C, factory offset −1.5 %, the default floor and guard band: 0.6950 V, 278 steps of 2.5 mV. -/
theorem test_floor_voltage : needSteps (guarded 140 20) 950 (-150) = 278 := by decide +kernel

/-- The supply falls to 43.0 V: the effective cap becomes 1,419 W. -/
theorem test_brown_out : effCap (after (.powerSample 0 43000) ready) = 1419 := by decide +kernel

/-- BLK_ID of the BORE page of cluster 19. -/
theorem test_blk_id : regReset (4096 * 0x133) = 0x0113_000D := by decide

/-! ## Reset and one step -/

/-- Q0 as READY leaves it, and the queue's order. -/
theorem test_reset_queue : tget State.reset.queues 0 = some queueZero := by decide
theorem test_front_first : (match step { State.reset with pending := [.priEnableSet, .ucalFactory] } with
    | .next t => t.pending
    | _ => []) = [.ucalFactory] := by decide
/-- The table gives no row a word of its own. -/
theorem test_no_words : decodeTableWord 8 1 = none := by decide

/-! ## Adders and stripes -/

/-- ADD.I64: −1 + 1 wraps to 0 in the first slot, and the second is kept (Table 13.3). -/
theorem test_add_i64 : addGranule .addI64 (List.replicate 8 0xFF ++ leBytes 8 5 ++ List.replicate 48 0) (leBytes 8 1 ++ List.replicate 56 0)
    = List.replicate 8 0 ++ leBytes 8 5 ++ List.replicate 48 0 := by decide +kernel
/-- 1.5 added to an empty slot of a region of base 2 reads back as 1.5 (R346, R347). -/
theorem test_x128 : x128Read 0x80 (x128Add 0x80 (x128Of 0) (flOf32 0x3FC00000#32)) = 0x3FC00000#32 := by decide +kernel
/-- A poisoned granule of addends leaves poison (R348). -/
theorem test_adder_poison : addersRun (some (List.replicate 64 0)) [(.addF32, none), (.addI64, some (List.replicate 64 0))] = none := by
  decide +kernel
/-- Units 0x01 and 0x80: P is 0x81, Q is 1 + 2·0x80 = 0x1C (R312). -/
theorem test_parity : parityP [[0x01], [0x80]] 0 = 0x81 ∧ parityQ [[0x01], [0x80]] 0 = 0x1C := by decide +kernel


end Sys2Proof.Tests
end

/-! SUPPORT. Sorted lists and Valve's rank keys (R58, R59, R166, R167). -/
namespace Sys2Proof.Machine

/-! ## Sorting by a number -/

section
variable {α : Type} {lt : α → α → Bool} {f : α → Nat}

@[simp] theorem mem_insertBy {x y : α} {l : List α} : y ∈ insertBy lt x l ↔ y = x ∨ y ∈ l := by
  induction l with
  | nil => simp [insertBy]
  | cons z t ih =>
    rw [insertBy]
    split
    · simp
    · simp only [List.mem_cons, ih]
      tauto

theorem pairwise_insertBy (hlt : ∀ a b, lt a b = decide (f a < f b)) {x : α} {l : List α}
    (hl : l.Pairwise (fun a b => f a ≤ f b)) : (insertBy lt x l).Pairwise (fun a b => f a ≤ f b) := by
  induction l with
  | nil => simp [insertBy]
  | cons z t ih =>
    obtain ⟨hz, ht⟩ := List.pairwise_cons.1 hl
    rw [insertBy, hlt]
    by_cases hx : f x < f z
    · rw [if_pos (by simpa using hx)]
      refine List.pairwise_cons.2 ⟨fun y hy => ?_, hl⟩
      obtain rfl | hy := List.mem_cons.1 hy
      · omega
      · have := hz y hy
        omega
    · rw [if_neg (by simpa using hx)]
      refine List.pairwise_cons.2 ⟨fun y hy => ?_, ih ht⟩
      obtain rfl | hy := mem_insertBy.1 hy
      · omega
      · exact hz y hy

@[simp] theorem mem_sortBy {y : α} {l : List α} : y ∈ sortBy lt l ↔ y ∈ l := by
  suffices h : ∀ acc : List α, y ∈ l.foldl (fun acc x => insertBy lt x acc) acc ↔ y ∈ l ∨ y ∈ acc by
    simpa [sortBy] using h []
  induction l with
  | nil => simp
  | cons x t ih =>
    intro acc
    rw [List.foldl_cons, ih, mem_insertBy, List.mem_cons]
    tauto

theorem pairwise_sortBy (hlt : ∀ a b, lt a b = decide (f a < f b)) (l : List α) :
    (sortBy lt l).Pairwise (fun a b => f a ≤ f b) := by
  suffices h : ∀ acc : List α, acc.Pairwise (fun a b => f a ≤ f b) →
      (l.foldl (fun acc x => insertBy lt x acc) acc).Pairwise (fun a b => f a ≤ f b) from h [] .nil
  induction l with
  | nil => exact fun acc h => h
  | cons x t ih => exact fun acc h => ih _ (pairwise_insertBy hlt h)

/-- The first `k` of a list sorted by `f` that hold `a` hold every element below it. -/
theorem mem_take_sortBy_of_lt (hlt : ∀ a b, lt a b = decide (f a < f b)) {l : List α} {k : Nat} {a b : α}
    (ha : a ∈ (sortBy lt l).take k) (hb : b ∈ l) (hba : f b < f a) : b ∈ (sortBy lt l).take k := by
  have hs := pairwise_sortBy hlt l
  have hb' : b ∈ sortBy lt l := mem_sortBy.2 hb
  rw [← List.take_append_drop k (sortBy lt l)] at hs hb'
  obtain hb' | hb' := List.mem_append.1 hb'
  · exact hb'
  · have := (List.pairwise_append.1 hs).2.2 a ha b hb'
    omega

end

/-! ## Rank keys -/

/-- Only a NaN has the largest value of ord(x). -/
theorem isNan32_of_ord32_eq {b : BitVec 32} (h : ord32 b = 2 ^ 32 - 1) : isNan32 b = true := by
  by_cases hz : b = 0x8000_0000#32
  · subst hz; exact absurd h (by decide)
  · have hd : ord32 b = if b.getLsbD 31 then (~~~b).toNat else (b ^^^ 0x8000_0000#32).toNat := by simp [ord32, hz]
    rw [hd] at h
    split at h
    · next hmsb =>
      have hb : ~~~b = 0xFFFF_FFFF#32 := BitVec.eq_of_toNat_eq h
      have : b = 0 := by rw [← BitVec.not_not (b := b), hb]; rfl
      subst this; exact absurd hmsb (by decide)
    · have hb : b ^^^ 0x8000_0000#32 = 0xFFFF_FFFF#32 := BitVec.eq_of_toNat_eq h
      have : b = 0x7FFF_FFFF#32 := by
        rw [← BitVec.xor_zero (x := b), ← BitVec.xor_self (x := 0x8000_0000#32), ← BitVec.xor_assoc, hb]; rfl
      subst this; decide

theorem ord32_lt {b : BitVec 32} (h : isNan32 b = false) : ord32 b < 2 ^ 32 - 1 := by
  have hle : ord32 b < 2 ^ 32 := by
    unfold ord32
    dsimp only
    split <;> split <;> exact BitVec.isLt _
  have hne : ord32 b ≠ 2 ^ 32 - 1 := fun e => by rw [isNan32_of_ord32_eq e] at h; cases h
  omega

theorem primary_largest_nan {c : Cand} (h : isNan32 c.score = true) : primary 1 c = 0 := by simp [primary, h]
theorem primary_largest_number {c : Cand} (h : isNan32 c.score = false) : primary 1 c = 2 ^ 32 - 1 - ord32 c.score := by
  simp [primary, h]
theorem primary_smallest_nan {c : Cand} (h : isNan32 c.score = true) : primary 2 c = 2 ^ 32 - 1 := by simp [primary, h]
theorem primary_smallest_number {c : Cand} (h : isNan32 c.score = false) : primary 2 c = ord32 c.score := by simp [primary, h]

theorem rankLt_eq (key : Nat) (a b : Cand) : rankLt key a b = decide (rankKey key a < rankKey key b) := rfl

/-- The three keys of R58 in order: the vector_id has 48 bits and the shard ID 12, so that neither reaches the key above it. -/
theorem rankKey_lt_iff {key : Nat} {a b : Cand} (hva : a.vid < 2 ^ 48) (hvb : b.vid < 2 ^ 48) (hsa : a.shard < 2 ^ 12)
    (hsb : b.shard < 2 ^ 12) : rankKey key a < rankKey key b ↔ primary key a < primary key b ∨
      (primary key a = primary key b ∧ (a.vid < b.vid ∨ (a.vid = b.vid ∧ a.shard < b.shard))) := by
  unfold rankKey
  generalize primary key a = p
  generalize primary key b = q
  omega

theorem rankKey_lt_of_primary_lt {key : Nat} {a b : Cand} (hva : a.vid < 2 ^ 48) (hsa : a.shard < 2 ^ 12)
    (h : primary key a < primary key b) : rankKey key a < rankKey key b := by
  unfold rankKey
  omega

/-- In a smallest-k selection every number comes before every NaN. -/
theorem rankKey_smallest_number_lt_nan {a b : Cand} (ha : isNan32 a.score = true) (hb : isNan32 b.score = false)
    (hv : b.vid < 2 ^ 48) (hs : b.shard < 2 ^ 12) : rankKey 2 b < rankKey 2 a := by
  refine rankKey_lt_of_primary_lt hv hs ?_
  rw [primary_smallest_nan ha, primary_smallest_number hb]
  exact ord32_lt hb

/-- In a largest-k selection every NaN comes before every number. -/
theorem rankKey_largest_nan_lt_number {a b : Cand} (ha : isNan32 a.score = true) (hb : isNan32 b.score = false)
    (hv : a.vid < 2 ^ 48) (hs : a.shard < 2 ^ 12) : rankKey 1 a < rankKey 1 b := by
  refine rankKey_lt_of_primary_lt hv hs ?_
  rw [primary_largest_nan ha, primary_largest_number hb]
  have := ord32_lt hb
  omega

theorem primary_eq_of_nan {key : Nat} {a b : Cand} (hk : key = 1 ∨ key = 2) (ha : isNan32 a.score = true)
    (hb : isNan32 b.score = true) : primary key a = primary key b := by
  obtain rfl | rfl := hk
  · rw [primary_largest_nan ha, primary_largest_nan hb]
  · rw [primary_smallest_nan ha, primary_smallest_nan hb]

theorem primary_eq_of_zeros {key : Nat} {a b : Cand} (hk : key = 1 ∨ key = 2) (ha : a.score = 0x8000_0000)
    (hb : b.score = 0) : primary key a = primary key b := by
  have hord : ord32 a.score = ord32 b.score := by rw [ha, hb]; decide
  have hna : isNan32 a.score = false := by rw [ha]; decide
  have hnb : isNan32 b.score = false := by rw [hb]; decide
  obtain rfl | rfl := hk
  · rw [primary_largest_number hna, primary_largest_number hnb, hord]
  · rw [primary_smallest_number hna, primary_smallest_number hnb, hord]

/-- Settles O35: the two orders of a NaN and a number, and what a sorted list's first `k` then hold. -/
theorem nanRanksAboveNumbers : Obligations.NanRanksAboveNumbers := by
  unfold Obligations.NanRanksAboveNumbers
  refine ⟨fun a b ha hb hva hvb hsa hsb => ?_, fun l k a b hl ha hb => ⟨fun hk hm => ?_, fun hk hm => ?_⟩⟩
  · have h2 := rankKey_smallest_number_lt_nan ha hb hvb hsb
    have h1 := rankKey_largest_nan_lt_number ha hb hva hsa
    simp only [rankLt_eq, decide_eq_true_eq, decide_eq_false_iff_not]
    omega
  · obtain ⟨hv, hs⟩ := hl b hm
    exact mem_take_sortBy_of_lt (rankLt_eq 2) hk hm (rankKey_smallest_number_lt_nan ha hb hv hs)
  · obtain ⟨hv, hs⟩ := hl a hm
    exact mem_take_sortBy_of_lt (rankLt_eq 1) hk hm (rankKey_largest_nan_lt_number ha hb hv hs)

/-- Settles O36. -/
theorem rankOrder : Obligations.RankOrder := by
  unfold Obligations.RankOrder
  refine ⟨fun key a b hva hvb hsa hsb => ?_, fun key a b hk => ⟨primary_eq_of_nan hk, primary_eq_of_zeros hk⟩, fun a b => Iff.rfl⟩
  rw [rankLt_eq, decide_eq_true_eq]
  exact rankKey_lt_iff hva hvb hsa hsb

end Sys2Proof.Machine

/-! SUPPORT. Commands in the queue store and journal records: what the operations that rows share leave of them. -/
namespace Sys2Proof.Machine

/-! ## The command of a row -/

theorem running_eq_some {s : State} {c op : Nat} {x : Cmd} (h : running s c op = some x) :
    cmdGet s c = some x ∧ x.phase = .executing ∧ cOp x = op := by
  unfold running at h
  split at h
  · next y hy =>
    split at h
    · next hc => cases h; exact ⟨hy, hc⟩
    · cases h
  · cases h

theorem Begun.cmd {s : State} {x : Cmd} {op : Nat} (h : Begun s x op) : cmdGet s x.id = some x := (running_eq_some h.1).1
theorem Begun.executing {s : State} {x : Cmd} {op : Nat} (h : Begun s x op) : x.phase = .executing := (running_eq_some h.1).2.1

theorem freshRow_of_begun {s : State} {x : Cmd} {op : Nat} {ok : Cmd → Bool} {f : Cmd → State → Res State}
    (h : Begun s x op) (hok : ok x = true) : freshRow x.id op ok f s = settle x.id (f x s) := by
  obtain ⟨hr, hw⟩ := h
  simp [freshRow, hr, hw, hok]

theorem collRow_of_begun {s : State} {x : Cmd} {op : Nat} {ok : Cmd → Bool} {f : Cmd → Coll → State → Res State} {k : Coll}
    (h : Begun s x op) (hok : ok x = true) (hk : tget s.colls (cColl x) = some k) :
    collRow x.id op ok f s = settle x.id (f x k s) := by
  rw [collRow, freshRow_of_begun h hok]
  simp only [hk]

theorem settle_ok {c : Nat} {t s : State} : settle c (.ok t s) = t := by rw [settle]
theorem andThen_ok {α β : Type} {a : α} {s : State} {f : α → State → Res β} : andThen (.ok a s) f = f a s := by rw [andThen]

/-! ## What becomes of a command -/

theorem cmdGet_congr {s t : State} {c : Nat} (h : t.cmds = s.cmds) : cmdGet t c = cmdGet s c := by simp [cmdGet, h]

theorem cmdGet_cmdMod_self {s : State} {c : Nat} {x : Cmd} {f : Cmd → Cmd} (hf : ∀ y, (f y).id = y.id) (h : cmdGet s c = some x) :
    cmdGet (cmdMod c f s) c = some (f x) := by
  rw [cmdGet_cmdMod hf, if_pos rfl, h, Option.map_some]

theorem cmdGet_setWork {s : State} {c : Nat} {x : Cmd} {w : Work} (h : cmdGet s c = some x) :
    cmdGet (setWork c w s) c = some { x with work := w } :=
  cmdGet_cmdMod_self (f := fun y => { y with work := w }) (fun _ => rfl) h

theorem cmdGet_freeUnits {s : State} {c : Nat} {x : Cmd} (h : cmdGet s c = some x) :
    cmdGet (freeUnits c s) c = some { x with pool := 0, spill := [] } := by
  have h' : cmdGet (freeContexts c s) c = some x := h
  exact cmdGet_cmdMod_self (f := fun y => { y with pool := 0, spill := [] }) (fun _ => rfl) h'

theorem cmdGet_finish {s : State} {c : Nat} {x : Cmd} {f : Cmd → Cmd} (hf : ∀ y, (f y).id = y.id) (h : cmdGet s c = some x) :
    cmdGet (finish c f s) c = some { f { x with pool := 0, spill := [] } with phase := .finished, work := .none } :=
  cmdGet_cmdMod_self (f := fun y => { f y with phase := .finished, work := .none }) hf (cmdGet_freeUnits h)

/-- A command that does not wait keeps its horizon. -/
theorem cmdGet_raiseHorizons {s : State} {c : Nat} {x : Cmd} (h : cmdGet s c = some x) (hx : x.phase ≠ .waiting) :
    cmdGet (raiseHorizons s) c = some x := by
  unfold cmdGet at h ⊢
  rw [raiseHorizons_cmds]
  generalize s.cmds = l at h
  induction l with
  | nil => cases h
  | cons y t ih =>
    rw [List.map_cons, List.find?_cons]
    rw [List.find?_cons] at h
    by_cases hy : y.id = c
    · obtain rfl : y = x := by simpa [hy] using h
      simp [hy, hx]
    · rw [decide_eq_false hy] at h
      rw [decide_eq_false (by split <;> exact hy)]
      exact ih h

theorem andThen_eq_ok {α β : Type} {r : Res α} {f : α → State → Res β} {b : β} {u : State} (h : andThen r f = .ok b u) :
    ∃ a s, r = .ok a s ∧ f a s = .ok b u := by
  cases r with
  | ok a s => exact ⟨a, s, rfl, h⟩
  | fail n g s => cases h
  | wait s => cases h

/-- The write of a buffer adds to the response of a remote command and leaves the rest of it. -/
theorem cmdGet_writeDev {w : Who} {va c : Nat} {bs : List Byte} {s u : State} {x : Cmd} (h : writeDev w va bs s = .ok () u)
    (hc : cmdGet s c = some x) : ∃ d, cmdGet u c = some { x with dataOut := d } := by
  unfold writeDev at h
  split at h
  · next d _ =>
    unfold writeRemote at h
    split at h
    · next o _ =>
      obtain ⟨-, rfl⟩ := Res.ok.inj h
      rw [cmdGet_cmdMod (by intro y; rfl), hc]
      by_cases hd : c = d
      · exact ⟨_, if_pos hd⟩
      · exact ⟨x.dataOut, if_neg hd⟩
    · cases h
  · split at h
    · cases h
    · obtain ⟨ps, v, hv, hw⟩ := andThen_eq_ok h
      obtain ⟨-, rfl⟩ := Res.ok.inj hw
      have hk := writePieces_keeps (y0 := ps) (y1 := keyed true w.dom va bs v) (κ := 4194392) rfl
        (res_ok hv (xlatRange_keeps rfl (keeps_refl (s₀ := s))))
      exact ⟨x.dataOut, (cmdGet_congr (hk .cmds rfl)).trans hc⟩

/-! ## Journal records -/

section
variable {s u : State} {r : JRec}

theorem journalPut_fst : (journalPut r s).1 = s.bag.nextSeq := rfl

/-- What `journalPut` leaves before the record is shipped to the mirror. -/
theorem journalPut_keeps_written : Keeps 536870920
    (collMod r.coll (fun c => { c with journaled := s.bag.nextSeq })
      { s with bag := { s.bag with
          nextSeq := s.bag.nextSeq + 1, sramHead := (s.bag.sramHead + r.bytes) % 2 ^ 26
          recs := s.bag.recs ++ [{ r with seq := s.bag.nextSeq, at_ := s.now, off := s.bag.sramHead }] } })
    (journalPut r s).2 := shipRecord_keeps rfl keeps_refl

theorem journalPut_bag : (journalPut r s).2.bag = { s.bag with
    nextSeq := s.bag.nextSeq + 1, sramHead := (s.bag.sramHead + r.bytes) % 2 ^ 26
    recs := s.bag.recs ++ [{ r with seq := s.bag.nextSeq, at_ := s.now, off := s.bag.sramHead }] } :=
  journalPut_keeps_written .bag rfl

theorem journalPut_colls :
    (journalPut r s).2.colls = tmod s.colls r.coll (fun c => { c with journaled := s.bag.nextSeq }) :=
  journalPut_keeps_written .colls rfl

theorem journalPut_cmds : (journalPut r s).2.cmds = s.cmds := journalPut_keeps_written .cmds rfl

theorem journalCmd_of_fits {x : Cmd} {type h payload : Nat} {body : JBody}
    (hf : journalFits s (runsBounded s x) (recordSize payload) = true) :
    journalCmd x type h body payload s = .ok s.bag.nextSeq
      (journalPut (jrecNew type h body (recordSize payload) (domOf s x) x.queue (cTag x)) s).2 := by
  rw [journalCmd, if_pos hf]
  rfl

theorem onFlash_eq_false {n : Nat} (hr : r ∈ s.bag.recs) (hn : r.seq ≤ n) (hs : r.stripe = none) : onFlash s n = false := by
  refine List.all_eq_false.2 ⟨r, hr, ?_⟩
  simp [hs, hn]

/-- A record that has just been written is not on flash. -/
theorem onFlash_journalPut (hb : u.bag = (journalPut r s).2.bag) (hs : r.stripe = none) : onFlash u s.bag.nextSeq = false := by
  refine onFlash_eq_false (r := { r with seq := s.bag.nextSeq, at_ := s.now, off := s.bag.sramHead }) ?_ le_rfl hs
  simp [hb, journalPut_bag]

end

/-! ## The end of a journaled command -/

section
variable {s : State} {c n : Nat} {x : Cmd} {f : Cmd → Cmd}

/-- Only the number up to which stripes are closed changes in Bag. -/
theorem finishJournaled_bag {needFlash : Bool} :
    (finishJournaled c n needFlash f s).bag.recs = s.bag.recs ∧ (finishJournaled c n needFlash f s).bag.nextSeq = s.bag.nextSeq
      ∧ (finishJournaled c n needFlash f s).bag.writeThrough = s.bag.writeThrough := by
  unfold finishJournaled
  split <;> exact ⟨rfl, rfl, rfl⟩

/-- Written through, the command waits until the stripe of its record is programmed; otherwise it has finished (R307, R320). -/
theorem cmdGet_finishJournaled (hid : ∀ y, (f y).id = y.id) (hph : ∀ y, (f y).phase = y.phase) (h : cmdGet s c = some x)
    (hx : x.phase = .executing) (hn : onFlash s n = false) :
    ∃ y, cmdGet (finishJournaled c n false f s) c = some y ∧ y.jseq = n ∧ y.journaled = true
      ∧ y.result = (f { x with pool := 0, spill := [] }).result ∧ y.status = (f { x with pool := 0, spill := [] }).status
      ∧ if s.bag.writeThrough then y.work = .wait 3 n ∧ y.phase = .executing else y.work = .none ∧ y.phase = .finished := by
  cases hw : s.bag.writeThrough with
  | true =>
    have hu : cmdGet (closeStripe n (freeUnits c s)) c = some { x with pool := 0, spill := [] } := cmdGet_freeUnits h
    have hm := cmdGet_cmdMod_self (f := fun y => { f y with jseq := n, journaled := true, work := .wait 3 n }) hid hu
    rw [finishJournaled, if_pos (by simp [hn, hw])]
    exact ⟨_, cmdGet_raiseHorizons hm (by simp [hph, hx]), rfl, rfl, rfl, rfl, by simp [hph, hx]⟩
  | false =>
    rw [finishJournaled, if_neg (by simp [hw])]
    exact ⟨_, cmdGet_raiseHorizons (cmdGet_finish (f := fun y => { f y with jseq := n, journaled := true }) hid h) (by simp),
      rfl, rfl, rfl, rfl, by simp⟩

end

/-- The record of a command has been written in `s`, and its command ends in a state that holds the same journal. -/
theorem journals_finishJournaled {s u : State} {c : Nat} {x : Cmd} {r : JRec} {f : Cmd → Cmd} (hid : ∀ y, (f y).id = y.id)
    (hph : ∀ y, (f y).phase = y.phase) (hc : cmdGet u c = some x) (hx : x.phase = .executing)
    (hb : u.bag = (journalPut r s).2.bag) (hs : r.stripe = none) :
    Journals s (finishJournaled c s.bag.nextSeq false f u) c r.type r.coll r.body (f { x with pool := 0, spill := [] }).result
      s.bag.writeThrough := by
  obtain ⟨hrecs, hnext, -⟩ := finishJournaled_bag (s := u) (c := c) (n := s.bag.nextSeq) (f := f) (needFlash := false)
  have hput : u.bag.recs = s.bag.recs ++ [{ r with seq := s.bag.nextSeq, at_ := s.now, off := s.bag.sramHead }]
      ∧ u.bag.nextSeq = s.bag.nextSeq + 1 ∧ u.bag.writeThrough = s.bag.writeThrough := by rw [hb, journalPut_bag]; exact ⟨rfl, rfl, rfl⟩
  obtain ⟨hr, hq, hwt⟩ := hput
  refine ⟨⟨_, hrecs.trans hr, rfl, rfl, rfl, rfl, hs⟩, hnext.trans hq, ?_⟩
  obtain ⟨y, hy, hseq, hjour, hres, -, hend⟩ := cmdGet_finishJournaled hid hph hc hx (onFlash_journalPut hb hs)
  exact ⟨y, hy, hseq, hjour, hres, by rwa [hwt] at hend⟩

/-- The same of a mutation, which ends with a status. -/
theorem recorded_finishJournaled {s u : State} {c : Nat} {x : Cmd} {r : JRec} {f : Cmd → Cmd} (hid : ∀ y, (f y).id = y.id)
    (hph : ∀ y, (f y).phase = y.phase) (hc : cmdGet u c = some x) (hx : x.phase = .executing)
    (hb : u.bag = (journalPut r s).2.bag) (hs : r.stripe = none) :
    Recorded s (raiseHorizons (finishJournaled c s.bag.nextSeq false f u)) c r.type r.coll
      (f { x with pool := 0, spill := [] }).status := by
  obtain ⟨⟨q, hq, hseq, htype, hcoll, -⟩, -⟩ := journals_finishJournaled hid hph hc hx hb hs
  obtain ⟨y, hy, hjseq, hjour, -, hst, hend⟩ := cmdGet_finishJournaled hid hph hc hx (onFlash_journalPut hb hs)
  have hwt : u.bag.writeThrough = s.bag.writeThrough := by rw [hb, journalPut_bag]
  rw [hwt] at hend
  have hwait : y.phase ≠ .waiting := by
    split at hend
    · rw [hend.2]; decide
    · rw [hend.2]; decide
  refine ⟨⟨q, hq, hseq, htype, hcoll⟩, y, cmdGet_raiseHorizons hy hwait, hst, hjseq, hjour, fun hw => ?_⟩
  rw [hw] at hend
  exact ⟨hend.2, hend.1⟩

end Sys2Proof.Machine

/-! SUPPORT. Commands of collections: COLL_CONFIG (Table 4.6). -/
namespace Sys2Proof.Machine

/-! ## Collections -/

theorem finishJournaled_colls {s : State} {c n : Nat} {needFlash : Bool} {f : Cmd → Cmd} :
    (finishJournaled c n needFlash f s).colls = s.colls :=
  finishJournaled_keeps (κ := 13196622569472) rfl (keeps_refl (s₀ := s)) .colls rfl

theorem finishJournaled_tables {s : State} {c n : Nat} {needFlash : Bool} {f : Cmd → Cmd} :
    (finishJournaled c n needFlash f s).tables = s.tables :=
  finishJournaled_keeps (κ := 13196622569472) rfl (keeps_refl (s₀ := s)) .tables rfl

theorem finishJournaled_hostMem {s : State} {c n : Nat} {needFlash : Bool} {f : Cmd → Cmd} :
    (finishJournaled c n needFlash f s).hostMem = s.hostMem :=
  finishJournaled_keeps (κ := 13196622569472) rfl (keeps_refl (s₀ := s)) .hostMem rfl

/-- A command changes its collection by `g` under the record `r` that it has written in `s`, and ends. -/
theorem collection_changed {s u : State} {x : Cmd} {k : Coll} {r : JRec} {g : Coll → Coll} (hc : cmdGet s x.id = some x)
    (hx : x.phase = .executing) (hk : tget s.colls (cColl x) = some k) (hr : r.coll = cColl x) (hs : r.stripe = none)
    (hcmds : u.cmds = s.cmds) (hbag : u.bag = (journalPut r s).2.bag)
    (hcolls : u.colls = tmod (journalPut r s).2.colls (cColl x) g) :
    Journals s (finishJournaled x.id s.bag.nextSeq false id u) x.id r.type (cColl x) r.body x.result s.bag.writeThrough
      ∧ tget (finishJournaled x.id s.bag.nextSeq false id u).colls (cColl x) = some (g { k with journaled := s.bag.nextSeq })
      ∧ ∀ h, h ≠ cColl x → tget (finishJournaled x.id s.bag.nextSeq false id u).colls h = tget s.colls h := by
  have hj := journals_finishJournaled (f := id) (fun _ => rfl) (fun _ => rfl) ((cmdGet_congr hcmds).trans hc) hx hbag hs
  rw [hr] at hj
  refine ⟨hj, ?_, fun h hh => ?_⟩
  · rw [finishJournaled_colls, hcolls, journalPut_colls, hr, tget_tmod, tget_tmod, if_pos rfl, if_pos rfl, hk]
    rfl
  · rw [finishJournaled_colls, hcolls, journalPut_colls, hr, tget_tmod, tget_tmod, if_neg hh, if_neg hh]

/-! ## COLL_CONFIG -/

/-- The properties that COLL_CONFIG leaves are journaled and take effect with the record. -/
theorem configure_ok {s : State} {x : Cmd} {k k' : Coll} (hc : cmdGet s x.id = some x) (hx : x.phase = .executing)
    (hk : tget s.colls (cColl x) = some k) (hf : journalFits s (runsBounded s x) 128 = true) :
    ∃ w v, configure x k' s = .ok w v
      ∧ Journals s w x.id 0x10 (cColl x) (.collSet k') x.result s.bag.writeThrough
      ∧ tget w.colls (cColl x) = some { k' with journaled := s.bag.nextSeq }
      ∧ (∀ h, h ≠ cColl x → tget w.colls h = tget s.colls h) ∧ w.tables = s.tables := by
  let r := jrecNew 0x10 (cColl x) (.collSet k') 128 (domOf s x) x.queue (cTag x)
  obtain ⟨hj, hn, ho⟩ := collection_changed (r := r) (g := fun now => { k' with journaled := now.journaled })
    (u := collMod (cColl x) (fun now => { k' with journaled := now.journaled }) (journalPut r s).2)
    hc hx hk rfl rfl journalPut_cmds rfl rfl
  refine ⟨_, (journalPut r s).2, ?_, hj, hn, ho, finishJournaled_tables.trans (journalPut_keeps_written (r := r) .tables rfl)⟩
  rw [configure, journalCmd_of_fits hf]
  rfl

theorem tget_withRights_same {d r : Nat} {k : Coll} : (tget (withRights d r k).grants d).getD 0 = r := by
  by_cases hr : r = 0
  · simp [withRights, hr, tget_tdel]
  · simp [withRights, hr]

theorem tget_withRights_other {d e r : Nat} {k : Coll} (h : e ≠ d) : tget (withRights d r k).grants e = tget k.grants e := by
  by_cases hr : r = 0
  · simp [withRights, hr, tget_tdel, h]
  · simp [withRights, hr, tget_tset_other h]

/-- Ops 2 and 3 leave the rights that `f` makes of the domain's own and of those that the command names. -/
theorem configRights_ok {s : State} {x : Cmd} {k : Coll} {f : Nat → Nat → Nat} (hc : cmdGet s x.id = some x)
    (hx : x.phase = .executing) (hk : tget s.colls (cColl x) = some k) (hd : (tget s.domains (cf x 18 2)).isSome = true)
    (hf : journalFits s (runsBounded s x) 128 = true) :
    ∃ w v k', configRights x f k s = .ok w v
      ∧ Journals s w x.id 0x10 (cColl x) (.collSet (withRights (cf x 18 2) (f ((tget k.grants (cf x 18 2)).getD 0) (cf x 20 2 % 8)) k))
          x.result s.bag.writeThrough
      ∧ tget w.colls (cColl x) = some k'
      ∧ (tget k'.grants (cf x 18 2)).getD 0 = f ((tget k.grants (cf x 18 2)).getD 0) (cf x 20 2 % 8)
      ∧ ∀ d, d ≠ cf x 18 2 → tget k'.grants d = tget k.grants d := by
  obtain ⟨w, v, hw, hj, hn, -⟩ := configure_ok (k' := withRights (cf x 18 2) (f ((tget k.grants (cf x 18 2)).getD 0) (cf x 20 2 % 8)) k)
    hc hx hk hf
  refine ⟨w, v, _, ?_, hj, hn, tget_withRights_same, fun d => tget_withRights_other⟩
  rw [configRights, if_neg (by simpa [← Option.isSome_iff_ne_none] using hd), hw]

theorem opIs_of_cf {n : Nat} {x : Cmd} (h : cf x 16 1 = n) : opIs n x = true := decide_eq_true h

/-- Settles O26: each op is `configure` with the properties that it leaves. -/
theorem collConfigRows : Obligations.CollConfigRows := by
  unfold Obligations.CollConfigRows
  refine ⟨fun s x k hb hk hop hv hf => ?_, fun s x k tbl hb hk hop hkind hpl hslots htbl hf => ?_,
    fun s x k hb hk hop hkind hparts hf => ?_, fun s x k hb hk hop hd hf => ?_, fun s x k hb hk hop hd hf => ?_⟩
  · obtain ⟨w, v, hw, hj, hn, ho, -⟩ := configure_ok (k' := { k with placement := cf x 17 1 }) hb.cmd hb.executing hk hf
    have hrow : exec (.collConfigPlacement x.id) s = .next (drainAll (collRow x.id 0x13 (opIs 0) configPlacement s)) := rfl
    refine ⟨w, ?_, hj, hn, ho⟩
    rw [hrow, collRow_of_begun hb (opIs_of_cf hop) hk, configPlacement, if_neg hv, hw, settle_ok]
  · obtain ⟨w, v, hw, hj, hn, -, htabs⟩ := configure_ok
      (k' := { k with indexKind := 2, building := true, buildGraph := true, entryTbl := tbl }) hb.cmd hb.executing hk hf
    have hrow : exec (.collConfigIndexKind x.id) s = .next (drainAll (collRow x.id 0x13 (opIs 1) configKind s)) := rfl
    refine ⟨{ w with tables := tset w.tables tbl (entryTable k.owner) }, ?_, hj, hn, tget_tset_same⟩
    rw [hrow, collRow_of_begun hb (opIs_of_cf hop) hk, configKind, if_neg (by simp [hkind, hpl]), if_neg (by simp [hslots]),
      if_neg (by simp [hkind])]
    simp [hkind, htbl, hw, andThen_ok, settle_ok]
  · obtain ⟨w, v, hw, hj, hn, -, htabs⟩ := configure_ok
      (k' := { k with indexKind := 2, building := true, buildGraph := false }) hb.cmd hb.executing hk hf
    have hrow : exec (.collConfigIndexKind x.id) s = .next (drainAll (collRow x.id 0x13 (opIs 1) configKind s)) := rfl
    refine ⟨w, ?_, hn, htabs⟩
    rw [hrow, collRow_of_begun hb (opIs_of_cf hop) hk, configKind, if_neg (by simp [hkind]), if_neg (by simp [hkind]),
      if_neg (fun h => absurd (hparts h.2.1) (by omega))]
    simp [hkind, hw, andThen_ok, settle_ok]
  · obtain ⟨w, v, k', hw, hrest⟩ := configRights_ok (f := fun now r => now ||| r) hb.cmd hb.executing hk hd hf
    have hrow : exec (.collConfigGrant x.id) s
        = .next (drainAll (collRow x.id 0x13 (opIs 2) (fun x => configRights x (fun now r => now ||| r)) s)) := rfl
    exact ⟨w, k', by rw [hrow, collRow_of_begun hb (opIs_of_cf hop) hk, hw, settle_ok], hrest⟩
  · obtain ⟨w, v, k', hw, hrest⟩ := configRights_ok (f := fun now r => now &&& (7 - r)) hb.cmd hb.executing hk hd hf
    have hrow : exec (.collConfigRevoke x.id) s
        = .next (drainAll (collRow x.id 0x13 (opIs 3) (fun x => configRights x (fun now r => now &&& (7 - r))) s)) := rfl
    exact ⟨w, k', by rw [hrow, collRow_of_begun hb (opIs_of_cf hop) hk, hw, settle_ok], hrest⟩

end Sys2Proof.Machine

/-! SUPPORT. Commands of collections: COLL_CREATE, COLL_DROP, COLL_QUERY and REENCODE (R31, R35, R62, R298). -/
namespace Sys2Proof.Machine

/-! ## COLL_CREATE, COLL_DROP, COLL_QUERY and REENCODE -/

theorem finish_hostMem {s : State} {c : Nat} {f : Cmd → Cmd} : (finish c f s).hostMem = s.hostMem :=
  finish_keeps (κ := 13196354134016) rfl (keeps_refl (s₀ := s)) .hostMem rfl

theorem finish_colls {s : State} {c : Nat} {f : Cmd → Cmd} : (finish c f s).colls = s.colls :=
  finish_keeps (κ := 13196354134016) rfl (keeps_refl (s₀ := s)) .colls rfl

theorem writeDev_ok_keeps {w : Who} {va : Nat} {bs : List Byte} {s u : State} (h : writeDev w va bs s = .ok () u) :
    Keeps 4202584 s u := res_ok h (writeDev_keeps rfl keeps_refl)

theorem readClean_ok_keeps {w : Who} {p b va n : Nat} {d : List Byte} {s u : State} (h : readClean w p b va n s = .ok d u) :
    Keeps 4194376 s u := res_ok h (readClean_keeps rfl keeps_refl)

/-- The record of a command counts from the journal alone. -/
theorem Journals.of_bag_eq {s v t : State} {c type h result : Nat} {body : JBody} {flash : Bool}
    (hj : Journals v t c type h body result flash) (hb : v.bag = s.bag) : Journals s t c type h body result flash := by
  unfold Journals at hj ⊢
  rwa [hb] at hj

/-- COLL_CREATE once its descriptor has been read and its handle written: the record, the collection and its entry set. -/
def createAt (x : Cmd) (k : Coll) (h tbl dom : Nat) (v : State) : State :=
  let t := (journalPut (jrecNew 0x10 h (.collNew k) 192 (domOf v x) x.queue (cTag x)) v).2
  let t := { t with colls := tset t.colls h { k with journaled := v.bag.nextSeq } }
  finishJournaled x.id v.bag.nextSeq false (fun y => { y with result := h })
    (if tbl = 0xFFFF then t else { t with tables := tset t.tables tbl (entryTable dom) })

theorem collCreate_ok {s u v : State} {x : Cmd} {d : List Byte} {h tbl : Nat}
    (hd : readClean (whoOf s x) (inputPage x) 2 (cf x 16 8) 128 s = .ok d u) (hbad : badDesc u d = none)
    (hfor : foreignDesc u (domOf s x) d = none) (hfree : leastFree (u.colls.map Prod.fst) 4097 0 = h) (hlim : h < 4096)
    (htbl : (if fld d 8 1 = 0 then some 0xFFFF else freeTable u) = some tbl)
    (hw : writeDev (whoOf s x) (cf x 16 8) (leBytes 2 h) u = .ok () v) (hf : journalFits v (runsBounded v x) 192 = true) :
    settle x.id (collCreate x s) = createAt x (collOf u d (domOf s x) tbl) h tbl (domOf s x) v := by
  have hfor' : foreignDesc u (whoOf s x).dom d = none := hfor
  have hlim' : ¬ h ≥ 4096 := Nat.not_le.2 hlim
  simp only [collCreate, hd, andThen_ok, hbad, hfor', hfree, if_neg hlim', htbl, hw, journalCmd_of_fits (payload := 128) hf]
  rfl

section
variable {x y : Cmd} {k : Coll} {h tbl dom : Nat} {v : State}

theorem createAt_journals (hc : cmdGet v x.id = some y) (hy : y.phase = .executing) :
    Journals v (createAt x k h tbl dom v) x.id 0x10 h (.collNew k) h v.bag.writeThrough := by
  unfold createAt
  split
  · exact journals_finishJournaled (r := jrecNew 0x10 h (.collNew k) 192 (domOf v x) x.queue (cTag x))
      (fun _ => rfl) (fun _ => rfl) ((cmdGet_congr journalPut_cmds).trans hc) hy rfl rfl
  · exact journals_finishJournaled (r := jrecNew 0x10 h (.collNew k) 192 (domOf v x) x.queue (cTag x))
      (fun _ => rfl) (fun _ => rfl) ((cmdGet_congr journalPut_cmds).trans hc) hy rfl rfl

theorem createAt_colls : (createAt x k h tbl dom v).colls
    = tset (tmod v.colls h (fun c => { c with journaled := v.bag.nextSeq })) h { k with journaled := v.bag.nextSeq } := by
  rw [createAt, finishJournaled_colls]
  split <;> simp only [journalPut_colls] <;> rfl

theorem createAt_tables (ht : tbl ≠ 0xFFFF) : tget (createAt x k h tbl dom v).tables tbl = some (entryTable dom) := by
  rw [createAt, finishJournaled_tables, if_neg ht, tget_tset_same]

theorem createAt_hostMem : (createAt x k h tbl dom v).hostMem = v.hostMem := by
  rw [createAt, finishJournaled_hostMem]
  split <;> exact journalPut_keeps_written .hostMem rfl

end

/-- Settles O25: each row writes its record, or the block of COLL_QUERY, and changes its own collection alone. -/
theorem collectionRows : Obligations.CollectionRows := by
  unfold Obligations.CollectionRows
  refine ⟨fun s u v x d h tbl hb hd hbad hfor hfree hlim htbl hw hf => ?_, fun s x k hb hk huse hf => ?_,
    fun s u x k hb hk hw => ?_, fun s x k hb hk hmig hsuit hdom hf => ?_⟩
  · have hsu := readClean_ok_keeps hd
    have huv := writeDev_ok_keeps hw
    have hbag : v.bag = s.bag := (huv .bag rfl).trans (hsu .bag rfl)
    have hcolls : v.colls = s.colls := (huv .colls rfl).trans (hsu .colls rfl)
    obtain ⟨out, hc⟩ := cmdGet_writeDev hw ((cmdGet_congr (hsu .cmds rfl)).trans hb.cmd)
    have hrow : exec (.collCreate x.id) s = .next (drainAll (freshRow x.id 0x10 always collCreate s)) := rfl
    refine ⟨createAt x (collOf u d (domOf s x) tbl) h tbl (domOf s x) v, ?_, ?_, ?_, fun g hg => ?_, createAt_tables, createAt_hostMem⟩
    · rw [hrow, freshRow_of_begun hb rfl, collCreate_ok hd hbad hfor hfree hlim htbl hw hf]
    · rw [← hbag]
      exact (createAt_journals hc hb.executing).of_bag_eq hbag
    · rw [createAt_colls, tget_tset_same, hbag]
    · rw [createAt_colls, tget_tset_other hg, tget_tmod, if_neg hg, hcolls]
  · let r := jrecNew 0x10 (cColl x) .collDrop 128 (domOf s x) x.queue (cTag x)
    have hch := collection_changed (r := r) (g := fun k => { k with dropping := true, run := none, moves := [] })
      (u := freeStep (cColl x) (collMod (cColl x) (fun k => { k with dropping := true, run := none, moves := [] }) (journalPut r s).2))
      hb.cmd hb.executing hk rfl rfl journalPut_cmds rfl rfl
    have hrow : exec (.collDrop x.id) s = .next (drainAll (collRow x.id 0x11 always collDrop s)) := rfl
    refine ⟨_, ?_, hch⟩
    rw [hrow, collRow_of_begun hb rfl hk, collDrop, if_neg (by simp [huse]), journalCmd_of_fits hf]
    rfl
  · have hrow : exec (.collQuery x.id) s = .next (drainAll (collRow x.id 0x12 always collQuery s)) := rfl
    obtain ⟨out, hc⟩ := cmdGet_writeDev hw hb.cmd
    refine ⟨finish x.id id u, ?_, ⟨_, cmdGet_finish (f := id) (fun _ => rfl) hc, rfl, rfl, rfl, rfl⟩, finish_hostMem,
      finish_colls.trans (writeDev_ok_keeps hw .colls rfl)⟩
    rw [hrow, collRow_of_begun hb rfl hk, collQuery, hw, andThen_ok]
    rfl
  · let r := jrecNew 0x11 (cColl x) (.reencode (cf x 16 2) false) 128 (domOf s x) x.queue (cTag x)
    have hch := collection_changed (r := r)
      (g := fun k => { k with encNext := cf x 16 2, migrating := true, recoded := 0, recodeLost := 0 })
      (u := collMod (cColl x) (fun k => { k with encNext := cf x 16 2, migrating := true, recoded := 0, recodeLost := 0 }) (journalPut r s).2)
      hb.cmd hb.executing hk rfl rfl journalPut_cmds rfl rfl
    have hrow : exec (.reencode x.id) s = .next (drainAll (collRow x.id 0x51 always reencode s)) := rfl
    refine ⟨_, ?_, hch⟩
    rw [hrow, collRow_of_begun hb rfl hk, reencode, if_neg (by simp [hmig, hsuit]), if_neg (ne_true_of_eq_false hdom), journalCmd_of_fits hf]
    rfl

end Sys2Proof.Machine

/-! SUPPORT. Drone's commits: the patch area is not applied beside another operation of the collection (R285, R292). -/
namespace Sys2Proof.Machine

/-- Drone runs one operation on a collection at a time (R285). -/
theorem mayRun_of_run {s : State} {c : Coll} {o : DroneRun} (h : c.run = some o) : mayRun s c = false := by
  simp [mayRun, h]

/-- The patch area waits while another operation is in progress on its collection (R285, R292). -/
theorem patchApply_of_run {s : State} {h : Nat} {c : Coll} {o : DroneRun} (hc : tget s.colls h = some c) (hr : c.run = some o) :
    patchApply h s = s := by
  rw [patchApply, hc]
  simp [mayRun_of_run hr]

/-- A collection with a patch that waits and a fold in progress. -/
def foldingColl : Coll :=
  { collOf State.reset [] 0 0xFFFF with
    patches := [0], run := some { op := .fold, cut := 0, key := none, move := none, by_ := none, since := 0 } }

/-- The module at READY with that collection and no command. -/
def foldingState : State :=
  { State.reset with chn := { State.reset.chn with stage := 6 }, colls := [(0, foldingColl)] }

/-- Refutes O44: its sixth clause has PATCH_APPLY empty the patch area of every collection that no search reads below its view epoch,
but the area is applied only where Drone may run on the collection, and here a fold is in progress on it. -/
theorem not_droneCommits : ¬ Obligations.DroneCommits := by
  unfold Obligations.DroneCommits
  rintro ⟨-, -, -, -, -, hpatch, -⟩
  have hc : tget foldingState.colls 0 = some foldingColl := rfl
  have hrow : exec (.patchApply 0) foldingState = .next foldingState := by
    have he : exec (.patchApply 0) foldingState = .next (patchApply 0 foldingState) := rfl
    rw [he, patchApply_of_run hc rfl]
  obtain ⟨t, ht, hcoll, -⟩ := hpatch foldingState 0 foldingColl hc rfl
  obtain rfl : foldingState = t := Host.Outcome.next.inj (hrow.symm.trans ht)
  have hp : foldingColl.patches = [] := congrArg Coll.patches (Option.some.inj (hc.symm.trans hcoll))
  exact absurd hp (List.cons_ne_nil _ _)

end Sys2Proof.Machine

/-! SUPPORT. The journal write of a mutation of one entry (R274 to R276, R280, R281). -/
namespace Sys2Proof.Machine

/-! ## Stages and failures of a command -/

theorem cmdGet_takeCharges {s : State} {c : Nat} {cs : List (Nat × Rat)} : cmdGet (takeCharges cs s) c = cmdGet s c := cmdGet_congr rfl

theorem cmdGet_workDone {s : State} {c : Nat} {x : Cmd} {f : Nat → Bool} {share : Rat} (h : cmdGet s c = some x) :
    ∃ cs p, cmdGet (workDone c f share s) c = some { x with charges := cs, pres := p } := by
  rw [workDone, h]
  dsimp only
  split
  · exact ⟨x.charges, x.pres, h⟩
  · exact ⟨_, _, (cmdGet_cmdMod (by intro y; rfl)).trans (by rw [if_pos rfl, cmdGet_takeCharges, h]; rfl)⟩

/-- A stage that ends leaves the rest of its command. -/
theorem cmdGet_endStage {s : State} {c n : Nat} {x : Cmd} (h : cmdGet s c = some x) :
    ∃ es cs p, cmdGet (endStage c n s) c = some { x with ends := es, charges := cs, pres := p } := by
  have hn : cmdGet (noteStage c n s) c = some { x with ends := tset x.ends n s.now } :=
    cmdGet_cmdMod_self (f := fun y => { y with ends := tset y.ends n s.now }) (fun _ => rfl) h
  obtain ⟨cs, p, hw⟩ := cmdGet_workDone hn (f := fun k => keyRes k ∈ ((cmdGet s c).map (fun x => stageRes x n)).getD []) (share := 1)
  exact ⟨_, cs, p, hw⟩

/-- A failure that no block reports. -/
theorem failCmd_plain {s : State} {c status : Nat} {x : Cmd} (h : cmdGet s c = some x) : failCmd c status none s
    = finish c (fun y => { y with status := status, result := 0, epoch := 0, fault := none, after := y.after ++ [], dataOut := [] }) s := by
  rw [failCmd, h]

theorem endsWith_failCmd_plain {s : State} {c status : Nat} {x : Cmd} (h : cmdGet s c = some x) :
    EndsWith (failCmd c status none s) c status 0 := by
  rw [failCmd_plain h]
  exact ⟨_, cmdGet_finish (f := fun y => { y with
    status := status, result := 0, epoch := 0, fault := none, after := y.after ++ [], dataOut := [] }) (fun _ => rfl) h, rfl, rfl, rfl, rfl⟩

/-! ## A mutation of one entry -/

theorem nextEntry_of_open {m : Mut} {e : MutEntry} (h : m.entries = [e]) (he : e.done = none) : nextEntry m = some (0, e) := by
  simp [nextEntry, batchFailure, h, he]

theorem nextEntry_of_done {m : Mut} {e : MutEntry} {d : Nat × Nat} (h : m.entries = [e]) (he : e.done = some d) :
    nextEntry m = none := by
  simp [nextEntry, h, he]

theorem isBatch_of_cOp {x : Cmd} (h : cOp x = 0x20 ∨ cOp x = 0x22 ∨ cOp x = 0x23 ∨ cOp x = 0x25) : isBatch x = false := by
  obtain h | h | h | h := h <;> simp [isBatch, h]

/-- Once its entry has been journaled the mutation completes with the status of that write. -/
theorem journalWrite_of_done {s t : State} {x : Cmd} {k : Coll} {m : Mut} {e : MutEntry} {q st : Nat} (hm : MutReady s x k m e)
    (hb : isBatch x = false) (hj : journalEntry x m e k s = .done q st t) :
    ∃ d, journalWrite x.id s = raiseHorizons (finishJournaled x.id q false (fun y => { y with status := st })
      (setWork x.id d (endStage x.id 6 (cmdMod x.id (fun y => { y with jseq := q }) t)))) := by
  obtain ⟨hcmd, hphase, hwork, hone, hopen, -, henc, hcoll, hpower, hturn⟩ := hm
  let m' : Mut := { m with entries := [{ e with done := some (q, st) }] }
  have hm' : { m with entries := m.entries.modify 0 (fun e => { e with done := some (q, st) }) } = m' := by
    simp [m', hone]
  have hnone : nextEntry m' = none := nextEntry_of_done (e := { e with done := some (q, st) }) rfl rfl
  have hb' : isBatch { x with jseq := q } = false := hb
  have hgo : ∀ y u, y.id = x.id → isBatch y = false →
      mutGoOn y m' u = finishJournaled x.id q false (fun y => { y with status := st }) u := by
    intro y u hid hy
    rw [mutGoOn, if_pos (by rw [hnone]; simp [m', henc]), mutEnd, if_neg (by simp [hy]), hid]
    rfl
  refine ⟨.mutate m', ?_⟩
  simp only [journalWrite, hcmd, hphase, hwork, hcoll, hpower, hb, nextEntry_of_open hone hopen, hturn, hj, hm',
    Bool.false_eq_true, if_false]
  exact congrArg raiseHorizons (hgo _ _ rfl hb)

theorem raiseHorizons_colls {s : State} : (raiseHorizons s).colls = s.colls := rfl

/-- The record `r` of a mutation has been written in `s`: the mutation ends with the collections that its effect has left. -/
theorem recorded_journalWrite {s t : State} {x : Cmd} {k : Coll} {m : Mut} {e : MutEntry} {st : Nat} {r : JRec}
    (hm : MutReady s x k m e) (hb : isBatch x = false) (hj : journalEntry x m e k s = .done s.bag.nextSeq st t)
    (hcmds : t.cmds = s.cmds) (hbag : t.bag = (journalPut r s).2.bag) (hr : r.stripe = none) :
    Recorded s (journalWrite x.id s) x.id r.type r.coll st ∧ (journalWrite x.id s).colls = t.colls := by
  obtain ⟨d, hw⟩ := journalWrite_of_done hm hb hj
  have hq : cmdGet (cmdMod x.id (fun y => { y with jseq := s.bag.nextSeq }) t) x.id = some { x with jseq := s.bag.nextSeq } :=
    cmdGet_cmdMod_self (f := fun y => { y with jseq := s.bag.nextSeq }) (fun _ => rfl) ((cmdGet_congr hcmds).trans hm.cmd)
  obtain ⟨es, cs, p, hend⟩ := cmdGet_endStage (n := 6) hq
  have hset := cmdGet_setWork (w := d) hend
  have hstage := endStage_keeps (c := x.id) (n := 6) (κ := 1056768) rfl
    (keeps_refl (s₀ := cmdMod x.id (fun y => { y with jseq := s.bag.nextSeq }) t))
  generalize hu : setWork x.id d (endStage x.id 6 (cmdMod x.id (fun y => { y with jseq := s.bag.nextSeq }) t)) = u at hw hset
  have hubag : u.bag = (journalPut r s).2.bag := by rw [← hu, ← hbag]; exact hstage .bag rfl
  have hucolls : u.colls = t.colls := by rw [← hu]; exact hstage .colls rfl
  rw [hw]
  exact ⟨recorded_finishJournaled (f := fun y => { y with status := st }) (fun _ => rfl) (fun _ => rfl) hset hm.phase hubag hr,
    raiseHorizons_colls.trans (finishJournaled_colls.trans hucolls)⟩

end Sys2Proof.Machine

/-! SUPPORT. The journal write of a mutation: its entry's record and effect (R274, R276, R280, R281). -/
namespace Sys2Proof.Machine

/-! ## The effect on the collection -/

/-- SIDE_LIST_HIGH leaves its mark in the collection and no other trace there (R286). -/
theorem tget_sideHighCheck {s : State} {h : Nat} {c : Coll} (hc : tget s.colls h = some c) :
    ∃ b, tget (sideHighCheck h s).colls h = some { c with sideHigh := b } := by
  rw [sideHighCheck, hc]
  dsimp only
  split
  · refine ⟨true, ?_⟩
    rw [raise_keeps (κ := 2684485704) rfl (keeps_refl (s₀ := collMod h (fun c => { c with sideHigh := true }) s)) .colls rfl,
      collMod, tget_tmod, if_pos rfl, hc]
    rfl
  · exact ⟨c.sideHigh, hc⟩

theorem sideHighCheck_keeps_rest {s : State} {h : Nat} : Keeps 2692874312 s (sideHighCheck h s) := sideHighCheck_keeps rfl keeps_refl

/-- A mutation that has written the record `r` and changed its collection by `g` completes, with the collection as `g` left it. -/
theorem effect_journalWrite {s : State} {x : Cmd} {k : Coll} {m : Mut} {e : MutEntry} {st : Nat} {r : JRec} {g : Coll → Coll}
    (hm : MutReady s x k m e) (hb : isBatch x = false) (hr : r.stripe = none) (hcoll : r.coll = cColl x)
    (hj : journalEntry x m e k s
      = .done s.bag.nextSeq st (sideHighCheck (cColl x) (collMod (cColl x) g (journalPut r s).2))) :
    ∃ b, Recorded s (journalWrite x.id s) x.id r.type (cColl x) st
      ∧ tget (journalWrite x.id s).colls (cColl x) = some { g { k with journaled := s.bag.nextSeq } with sideHigh := b } := by
  have hk := sideHighCheck_keeps_rest (s := collMod (cColl x) g (journalPut r s).2) (h := cColl x)
  obtain ⟨hrec, hcolls⟩ := recorded_journalWrite hm hb hj ((hk .cmds rfl).trans journalPut_cmds) (hk .bag rfl) hr
  have hput : tget (collMod (cColl x) g (journalPut r s).2).colls (cColl x) = some (g { k with journaled := s.bag.nextSeq }) := by
    rw [collMod, journalPut_colls, hcoll, tget_tmod, tget_tmod, if_pos rfl, if_pos rfl, hm.coll]
    rfl
  obtain ⟨b, hside⟩ := tget_sideHighCheck hput
  exact ⟨b, hcoll ▸ hrec, hcolls ▸ hside⟩

/-! ## The journal write of one entry, outcome by outcome -/

section
variable {s : State} {x : Cmd} {k : Coll} {m : Mut} {e : MutEntry} {slot oldSlot : Nat} {old : Entry}

theorem recordSize_payloadOf_bare (hop : cOp x = 0x22 ∨ cOp x = 0x25) : recordSize (payloadOf x k e) = 64 := by
  rw [payloadOf, if_pos hop, recordSize]

theorem payloadOf_source (hop : cOp x = 0x20 ∨ cOp x = 0x23) (hcode : e.codeOnly = false) : payloadOf x k e = srcLen k := by
  rw [payloadOf, if_neg (by omega), hcode, if_neg Bool.false_ne_true]

/-- A deletion or a set of an ID that is not live still writes its record (R276). -/
theorem journalEntry_absent (hop : cOp x = 0x22 ∨ cOp x = 0x25) (hbad : e.bad = none)
    (hf : journalFits s (runsBounded s x) 64 = true)
    (hts : cOp x = 0x25 → e.record.ts = 0xFFFF_FFFF → bit m.mask 7 = true → (stampNow s k).isSome = true)
    (hl : liveNow k e.record.vid = none) :
    journalEntry x m e k s = .done s.bag.nextSeq 1 (journalPut (mutRec x s (if cOp x = 0x25 then 0x04 else 0x03)
      (if cOp x = 0x25 then .entry else .delete) 64) s).2 := by
  have hp := recordSize_payloadOf_bare (k := k) (e := e) hop
  obtain hop | hop := hop
  · simp [journalEntry, hbad, hp, hf, hop, hl, journalPut_fst, stNotFound]
  · have hst : ¬ (e.record.ts = 0xFFFF_FFFF ∧ bit m.mask 7 = true ∧ stampNow s k = none) :=
      fun ⟨h, h7, hn⟩ => absurd (hts hop h h7) (by simp [hn])
    simp [journalEntry, hbad, hp, hf, hop, hl, journalPut_fst, stNotFound, hst, and_assoc]

/-- A deletion sets the tombstone of the live slot (R48, R276). -/
theorem journalEntry_delete (hop : cOp x = 0x22) (hbad : e.bad = none) (hf : journalFits s (runsBounded s x) 64 = true)
    (hl : liveNow k e.record.vid = some (slot, old)) (hp : placesUsed k < 16777216) :
    ∃ r, r.type = 0x03 ∧ r.coll = cColl x ∧ r.stripe = none ∧ journalEntry x m e k s = .done s.bag.nextSeq 0
      (sideHighCheck (cColl x) (collMod (cColl x) (setTomb slot s.bag.nextSeq) (journalPut r s).2)) := by
  refine ⟨{ mutRec x s 0x03 .delete 64 with oldSlot := some slot, entry := some old }, rfl, rfl, rfl, ?_⟩
  have hsz := recordSize_payloadOf_bare (k := k) (e := e) (.inl hop)
  simp [journalEntry, hbad, hsz, hf, hop, hl, Nat.not_le.2 hp, journalPut_fst, stOK]

/-- An insertion of a live ID fails before its record (R276). -/
theorem journalEntry_exists (hop : cOp x = 0x20) (hbad : e.bad = none) (hcode : e.codeOnly = false)
    (hf : journalFits s (runsBounded s x) (recordSize (srcLen k)) = true)
    (hts : e.record.ts = 0xFFFF_FFFF → (stampNow s k).isSome = true) (hl : (liveNow k e.record.vid).isSome = true) :
    journalEntry x m e k s = .fail 0x0404 none := by
  have hp := payloadOf_source (k := k) (e := e) (.inl hop) hcode
  have hst : ¬ (e.record.ts = 0xFFFF_FFFF ∧ stampNow s k = none) := fun ⟨h, hn⟩ => absurd (hts h) (by simp [hn])
  simp [journalEntry, hbad, hp, hf, hop, hl, stIdExists, hst]

end

/-- The effect of an insertion, an upsert or a set: the entry in its slot, the tombstone on the slot it replaces. -/
def placeEntry (new : Entry) (live : Option (Nat × Entry)) (seq : Nat) (c : Coll) : Coll :=
  match live with
  | some (old, _) => setTomb old seq (appendEntry new c)
  | none => appendEntry new c

/-- The mutation asks for the present time in the entry's record (R41). -/
def asksStamp (x : Cmd) (m : Mut) (e : MutEntry) : Bool :=
  e.record.ts = 0xFFFF_FFFF && (cOp x ≠ 0x25 || bit m.mask 7)

/-- The record that an insertion, an upsert or a set leaves, before its timestamp (R42, R276). -/
def baseRec (x : Cmd) (m : Mut) (e : MutEntry) (live : Option (Nat × Entry)) : Rec :=
  match live with
  | some (_, old) => if cOp x = 0x25 then mergeRec m.mask old.record e.record else e.record
  | none => e.record

theorem stampRec {a : Bool} {r : Rec} {n : Nat} :
    (if a = true then { r with ts := n } else r) = { r with ts := if a = true then n else r.ts } := by cases a <;> rfl

/-- The record that an insertion, an upsert or a set leaves. -/
def newRecord (s : State) (x : Cmd) (k : Coll) (m : Mut) (e : MutEntry) : Rec :=
  { baseRec x m e (liveNow k e.record.vid) with
    ts := if asksStamp x m e then (stampNow s k).getD 0 else (baseRec x m e (liveNow k e.record.vid)).ts }

/-- The entry that it writes: a set keeps the code and the source of the entry it replaces. -/
def newEntry (s : State) (x : Cmd) (k : Coll) (m : Mut) (e : MutEntry) (slot : Nat) : Entry :=
  let put : Entry :=
    { slot := slot, record := newRecord s x k m e, code := codeOfEntry s x m k e, encNext := m.encNext && !e.codeOnly
      version := if e.codeOnly then k.encVersion else m.version, src := e.src, seq := s.bag.nextSeq, queue := x.queue, tag := cTag x
      at_ := s.now }
  match liveNow k e.record.vid with
  | some (_, old) =>
    if cOp x = 0x25 then { put with code := old.code, encNext := old.encNext, version := old.version, src := old.src } else put
  | none => put

/-- The journal record of an insertion, an upsert or a set. -/
def newRec (s : State) (x : Cmd) (k : Coll) (m : Mut) (e : MutEntry) (slot : Nat) : JRec :=
  let new := newEntry s x k m e slot
  { mutRec x s (if cOp x = 0x25 then 0x04 else if cOp x = 0x23 then 0x02 else 0x01) .entry (recordSize (payloadOf x k e)) with
    encNext := new.encNext, srcRef := decide (cOp x = 0x25), codeOnly := e.codeOnly, slot := some slot
    oldSlot := (liveNow k e.record.vid).map Prod.fst, version := new.version, entry := some new }

section
variable {s : State} {x : Cmd} {k : Coll} {m : Mut} {e : MutEntry} {slot oldSlot : Nat} {old : Entry}

/-- An insertion of a new ID, an upsert or a set of a live ID writes its entry once the checks of R274 have passed. -/
theorem journalEntry_entry (hop : cOp x = 0x20 ∧ liveNow k e.record.vid = none ∨ cOp x = 0x23
      ∨ cOp x = 0x25 ∧ (liveNow k e.record.vid).isSome = true) (hbad : e.bad = none)
    (hf : journalFits s (runsBounded s x) (recordSize (payloadOf x k e)) = true)
    (hts : asksStamp x m e = true → (stampNow s k).isSome = true) (hp : placesUsed k < 16777216)
    (hpart : needsPartition k (baseRec x m e (liveNow k e.record.vid)).tenant = false) (hslot : freeSlot k = some slot)
    (hside : sideFits s (cColl x) k = true) :
    journalEntry x m e k s = .done s.bag.nextSeq 0 (sideHighCheck (cColl x) (collMod (cColl x)
      (placeEntry (newEntry s x k m e slot) (liveNow k e.record.vid) s.bag.nextSeq) (journalPut (newRec s x k m e slot) s).2)) := by
  have hne : cOp x ≠ 0x22 := by omega
  have hstamp : (asksStamp x m e && (stampNow s k).isNone) = false := by
    cases hst : stampNow s k <;> simp_all
  have hasks : (decide (e.record.ts = 0xFFFF_FFFF) && decide (cOp x ≠ 0x22) && (!decide (cOp x = 0x25) || bit m.mask 7))
      = asksStamp x m e := by simp [asksStamp, hne]
  unfold journalEntry
  simp only [hasks, hstamp, hbad, hf, Nat.not_le.2 hp, hslot, hside, Option.isSome_none, Bool.not_true, Bool.false_eq_true, if_false]
  cases hlive : liveNow k e.record.vid with
  | none =>
    have hput : cOp x = 0x20 ∨ cOp x = 0x23 := by simpa [hlive] using hop
    have hpart : needsPartition k e.record.tenant = false := by simpa [baseRec, hlive] using hpart
    obtain hop | hop := hput <;>
      simp [hop, hlive, hpart, stampRec, newEntry, newRec, newRecord, baseRec, journalPut_fst, stOK] <;> rfl
  | some o =>
    have hput : cOp x = 0x23 ∨ cOp x = 0x25 := by simpa [hlive] using hop
    have hpart : needsPartition k (if cOp x = 0x25 then mergeRec m.mask o.2.record e.record else e.record).tenant = false := by
      simpa [baseRec, hlive] using hpart
    obtain hop | hop := hput <;> simp [hop] at hpart <;>
      simp [hop, hlive, hpart, stampRec, newEntry, newRec, newRecord, baseRec, journalPut_fst, stOK] <;> rfl

theorem baseRec_of_put {live : Option (Nat × Entry)} (hop : cOp x ≠ 0x25) : baseRec x m e live = e.record := by
  cases live <;> simp [baseRec, hop]

theorem baseRec_of_set (hop : cOp x = 0x25) : baseRec x m e (some (oldSlot, old)) = mergeRec m.mask old.record e.record := by
  simp [baseRec, hop]

theorem newEntry_slot_seq_record : (newEntry s x k m e slot).slot = slot ∧ (newEntry s x k m e slot).seq = s.bag.nextSeq
    ∧ (newEntry s x k m e slot).record = newRecord s x k m e := by
  unfold newEntry
  dsimp only
  split
  · split <;> exact ⟨rfl, rfl, rfl⟩
  · exact ⟨rfl, rfl, rfl⟩

theorem newEntry_of_put (hop : cOp x ≠ 0x25) (hcode : e.codeOnly = false) : (newEntry s x k m e slot).src = e.src
    ∧ (newEntry s x k m e slot).code = codeOfEntry s x m k e ∧ (newEntry s x k m e slot).encNext = m.encNext := by
  cases hl : liveNow k e.record.vid <;> simp [newEntry, hl, hop, hcode]

/-- A set keeps the code and the source of its entry (R276). -/
theorem newEntry_of_set (hop : cOp x = 0x25) (hl : liveNow k e.record.vid = some (oldSlot, old)) :
    (newEntry s x k m e slot).code = old.code ∧ (newEntry s x k m e slot).src = old.src
      ∧ (newEntry s x k m e slot).encNext = old.encNext := by
  simp [newEntry, hl, hop]

end

section
variable {c : Coll} {new : Entry} {live : Option (Nat × Entry)} {q : Nat}

theorem placeEntry_entries : (placeEntry new live q c).entries = tset c.entries new.slot new := by
  cases live <;> rfl

theorem placeEntry_entry {slot : Nat} (h : new.slot = slot) : tget (placeEntry new live q c).entries slot = some new := by
  rw [placeEntry_entries, h, tget_tset_same]

theorem placeEntry_entry_other {slot n : Nat} (h : new.slot = slot) (hn : n ≠ slot) :
    tget (placeEntry new live q c).entries n = tget c.entries n := by
  rw [placeEntry_entries, h, tget_tset_other hn]

theorem placeEntry_side {slot : Nat} (h : new.slot = slot) : (placeEntry new live q c).arr.side = c.arr.side ++ [slot] := by
  subst h
  cases live <;> rfl

theorem placeEntry_tombs_of_live {o : Nat × Entry} (h : live = some o) : tget (placeEntry new live q c).tombs o.1 = some q := by
  subst h
  exact tget_tset_same

theorem placeEntry_tombs_of_none (h : live = none) : (placeEntry new live q c).tombs = c.tombs := by
  subst h
  rfl

end

/-- An entry that fails the checks of R274 fails its mutation. -/
theorem journalWrite_of_fail {s : State} {x : Cmd} {k : Coll} {m : Mut} {e : MutEntry} {st : Nat} {f : Option CmdFault}
    (hm : MutReady s x k m e) (hb : isBatch x = false) (hj : journalEntry x m e k s = .fail st f) :
    journalWrite x.id s = failCmd x.id st f s := by
  obtain ⟨hcmd, hphase, hwork, hone, hopen, -, -, hcoll, hpower, hturn⟩ := hm
  simp [journalWrite, hcmd, hphase, hwork, hcoll, hpower, hb, nextEntry_of_open hone hopen, hturn, hj]

theorem exec_journalWrite {s : State} {c : Nat} : exec (.journalWrite c) s = .next (drainAll (journalWrite c s)) := rfl

/-- Settles O38: an outcome of the entry's journal write for each clause, and the completion that follows it. -/
theorem journalWriteRow : Obligations.JournalWriteRow := by
  unfold Obligations.JournalWriteRow
  refine ⟨fun s x k m e slot old hm hop hf hl hp => ?_,
    fun s x k m e slot hm hop hcode hf hts hl hp hpart hslot hside => ?_,
    fun s x k m e slot oldSlot old hm hop hf hts hl hp hpart hslot hside => ?_,
    fun s x k m e hm hop hf hts hl => ?_, fun s x k m e hm hop hf hcode hts hl => ?_⟩
  · obtain ⟨r, htype, hcoll, hr, hj⟩ := journalEntry_delete (m := m) hop hm.good hf hl hp
    obtain ⟨b, hrec, hk⟩ := effect_journalWrite hm (isBatch_of_cOp (by simp [hop])) hr hcoll hj
    exact ⟨_, _, exec_journalWrite, htype ▸ hrec, hk, tget_tset_same, tget_tset_same, rfl, rfl, fun n hn => tget_tset_other hn⟩
  · have hset : cOp x ≠ 0x25 := by omega
    have hasks : asksStamp x m e = decide (e.record.ts = 0xFFFF_FFFF) := by simp [asksStamp, hset]
    have hj := journalEntry_entry (k := k) (m := m) (e := e) (by rcases hop with h | h <;> simp_all) hm.good
      (payloadOf_source hop hcode ▸ hf) (fun h => hts (by simpa [hasks] using h)) hp (by rwa [baseRec_of_put hset]) hslot hside
    obtain ⟨b, hrec, hk⟩ := effect_journalWrite hm (isBatch_of_cOp (by omega)) rfl rfl hj
    obtain ⟨hs, hq, hr⟩ := newEntry_slot_seq_record (s := s) (x := x) (k := k) (m := m) (e := e) (slot := slot)
    obtain ⟨hsrc, hc, henc⟩ := newEntry_of_put (s := s) (k := k) (m := m) (slot := slot) hset hcode
    have htype : (newRec s x k m e slot).type = if cOp x = 0x23 then 0x02 else 0x01 := if_neg hset
    refine ⟨_, _, newEntry s x k m e slot, exec_journalWrite, htype ▸ hrec, hk, placeEntry_entry hs, ?_, hs, hsrc, hc, hq, henc,
      placeEntry_side hs, fun n hn => placeEntry_entry_other hs hn, fun o ho => placeEntry_tombs_of_live ho,
      fun ho => placeEntry_tombs_of_none ho⟩
    rw [hr, newRecord, baseRec_of_put hset, hasks]
    simp
  · have hasks : asksStamp x m e = (decide (e.record.ts = 0xFFFF_FFFF) && bit m.mask 7) := by simp [asksStamp, hop]
    have hj := journalEntry_entry (k := k) (m := m) (e := e) (.inr (.inr ⟨hop, by simp [hl]⟩)) hm.good
      (recordSize_payloadOf_bare (k := k) (e := e) (.inr hop) ▸ hf) (fun h => by simp [hasks] at h; exact hts h.1 h.2) hp
      (by rwa [hl, baseRec_of_set hop]) hslot hside
    obtain ⟨b, hrec, hk⟩ := effect_journalWrite hm (isBatch_of_cOp (by omega)) rfl rfl hj
    obtain ⟨hs, hq, hr⟩ := newEntry_slot_seq_record (s := s) (x := x) (k := k) (m := m) (e := e) (slot := slot)
    obtain ⟨hc, hsrc, henc⟩ := newEntry_of_set (s := s) (m := m) (slot := slot) hop hl
    have htype : (newRec s x k m e slot).type = 0x04 := if_pos hop
    refine ⟨_, _, newEntry s x k m e slot, exec_journalWrite, htype ▸ hrec, hk, placeEntry_entry hs, ?_, hc, hsrc, henc, hq,
      placeEntry_side hs, placeEntry_tombs_of_live hl⟩
    rw [hr, newRecord, hl, baseRec_of_set hop, hasks]
    simp
  · have hj := journalEntry_absent hop hm.good hf hts hl
    obtain ⟨hrec, hcolls⟩ := recorded_journalWrite hm (isBatch_of_cOp (by omega)) hj journalPut_cmds rfl rfl
    refine ⟨_, _, exec_journalWrite, hrec, ?_, rfl⟩
    rw [hcolls, journalPut_colls, tget_tmod]
    exact (if_pos rfl).trans (by rw [hm.coll]; rfl)
  · have hw := journalWrite_of_fail hm (isBatch_of_cOp (.inl hop)) (journalEntry_exists hop hm.good hcode hf hts hl)
    have hk := failCmd_keeps (c := x.id) (status := 0x404) (f := none) (κ := 13196354134208) rfl (keeps_refl (s₀ := s))
    refine ⟨_, exec_journalWrite, ?_, ?_, ?_⟩
    · rw [hw]
      exact endsWith_failCmd_plain hm.cmd
    · rw [hw]
      exact hk .bag rfl
    · rw [hw]
      exact hk .colls rfl

end Sys2Proof.Machine

/-! SUPPORT. Searches: what their starts leave (R127, R129, R134, R154, R158). -/
namespace Sys2Proof.Machine

/-! ## The row of a search -/

theorem searchRow_of_begun {s : State} {x : Cmd} {op : Nat} {f : Cmd → Coll → State → Res State} {k : Coll} (h : Begun s x op)
    (hk : viewOf s x = some k) (hb : barred s x = false) (hp : streamPoison x.id s = none) :
    searchRow x.id op f s = settle x.id (f x k s) := by
  obtain ⟨hr, hw⟩ := h
  simp [searchRow, hr, hw, hk, hb, unlessPoison, hp]

/-- The inputs of a search have been read: its streams' slots are taken, and its first stage ends. -/
theorem cmdGet_inputsRead {s : State} {x : Cmd} (h : cmdGet s x.id = some x) :
    ∃ es cs p, cmdGet (endStage x.id 2 (consumeRings x.id s)) x.id = some { x with ends := es, charges := cs, pres := p } :=
  cmdGet_endStage ((cmdGet_congr (consumeRings_keeps (κ := 67108928) rfl (keeps_refl (s₀ := s)) .cmds rfl)).trans h)

/-! ## Blocks -/

theorem dealBlocks_slots {s : State} {bs : List (Nat × List Nat)} : (dealBlocks s bs).map Block.slots = bs.map Prod.snd := by
  unfold dealBlocks
  refine (List.foldl_hom (fun acc : List Block × Table Nat => acc.1.map Block.slots) (g₂ := fun a b => a ++ [b.2]) ?_).symm.trans ?_
  · intro acc b
    simp
  · simp [← List.flatMap_def, ← List.map_eq_flatMap]

theorem cmdGet_planBlocks {s : State} {x y : Cmd} {sr : Search} {listed : List Nat} (h : cmdGet s x.id = some y) :
    cmdGet (planBlocks x sr listed s) x.id = some { y with work := .search (withBlocks s sr (scanKeys x sr listed)) } := by
  refine cmdGet_setWork ((cmdGet_congr ?_).trans h)
  exact (countScans_keeps (κ := 8388608) rfl keeps_refl .cmds rfl).trans
    (noteProbe_keeps (κ := 3298534883392) rfl (keeps_refl (s₀ := s)) .cmds rfl)

/-! ## SEARCH_FLAT and SEARCH_BATCH -/

/-- A flat search or a batch whose inputs have been read: it scans at once unless its probe waits for its code. -/
theorem flatStart_begins {s t u v : State} {x : Cmd} {k : Coll} {sr : Search} {f : Option Filter} {listed : List Nat}
    (hc : cmdGet s x.id = some x) (hlost : probeLost s x k = none) (hpause : probePaused s x k = false)
    (hq : readQueries x k (searchInit x k) s = .ok sr t) (hbell : bellMarked sr.enc = none)
    (hf : readFilter x (cf x 32 8) t = .ok f u) (hl : (if cf x 62 1 = 1 then readProbes x u else .ok [] u) = .ok listed v) :
    let q := if sr.enc.all encDone then withCodes sr else sr
    ∃ w y sr' z, flatStart x k s = .ok w z ∧ cmdGet w x.id = some y ∧ y.phase = x.phase ∧ y.work = .search sr'
      ∧ sr'.filter = f ∧ sr'.queries = q.queries ∧ sr'.enc = q.enc
      ∧ (sr.enc.all encDone = true ∨ cf x 62 1 ≠ 2 → sr'.blocks.map Block.slots = (rawBlocks sr.h sr.coll
          (sr.coll.arr.parts.filterMap (fun p => if p.1 ∈ scanKeys x q listed then some p.2 else none))).map Prod.snd) := by
  have hst := res_ok hq (readQueries_keeps (κ := 155189320) rfl keeps_refl)
  have htu := res_ok hf (readFilter_keeps (κ := 155189320) rfl hst)
  have huv : Keeps 155189320 s v := by
    split at hl
    · exact res_ok hl (readProbes_keeps rfl htu)
    · obtain ⟨-, rfl⟩ := Res.ok.inj hl
      exact htu
  obtain ⟨es, cs, p, hin⟩ := cmdGet_inputsRead ((cmdGet_congr (huv .cmds rfl)).trans hc)
  have hbell' : (bellMarked sr.enc).isSome = false := by rw [hbell]; rfl
  unfold flatStart
  simp only [hlost, hpause, hq, hf, hl, andThen_ok, hbell', Bool.false_eq_true, if_false]
  cases henc : sr.enc.all encDone with
  | true =>
    refine ⟨_, _, _, _, rfl, cmdGet_planBlocks hin, rfl, rfl, rfl, rfl, rfl, fun _ => dealBlocks_slots⟩
  | false =>
    by_cases hnear : cf x 62 1 = 2
    · rw [if_neg Bool.false_ne_true, if_pos hnear]
      exact ⟨_, _, _, _, rfl, cmdGet_setWork hin, rfl, rfl, rfl, rfl, rfl, fun h => absurd hnear (by simpa using h)⟩
    · rw [if_neg Bool.false_ne_true, if_neg hnear]
      exact ⟨_, _, _, _, rfl, cmdGet_planBlocks hin, rfl, rfl, rfl, rfl, rfl, fun _ => dealBlocks_slots⟩

/-! ## SEARCH_GRAPH -/

theorem mem_insertNat {a x : Nat} {l : List Nat} : a ∈ insertNat x l ↔ a = x ∨ a ∈ l := by
  induction l with
  | nil => simp [insertNat]
  | cons y t ih =>
    rw [insertNat]
    split
    · simp
    · split
      · next hxy => simp [hxy]
      · simp only [List.mem_cons, ih]
        tauto

theorem mem_foldl_insertNat {a : Nat} {l acc : List Nat} : a ∈ l.foldl (fun s n => insertNat n s) acc ↔ a ∈ l ∨ a ∈ acc := by
  induction l generalizing acc with
  | nil => simp
  | cons y t ih =>
    simp only [List.foldl_cons, ih, mem_insertNat, List.mem_cons]
    tauto

/-- The walk is seeded from the nodes of the entry set that the graph holds (R154, R156). -/
theorem mem_walkInit_cset {s : State} {x : Cmd} {c : Coll} {n : Nat} :
    n ∈ (walkInit s x c).cset ↔ n ∈ c.arr.entrySet ∧ (tget c.arr.nodes n).isSome = true := by
  refine mem_foldl_insertNat.trans ?_
  simp

/-- The end of a walk leaves its command's work. -/
theorem cmdGet_endWalk {s : State} {c : Nat} {x : Cmd} (h : cmdGet s c = some x) :
    cmdGet (endWalk c s) c = some { x with pool := 0, charges := [] } := by
  have hr : cmdGet (releaseCharges x (freeContexts c s)) c = some x := cmdGet_takeCharges.trans h
  rw [endWalk, h]
  exact cmdGet_cmdMod_self (f := fun y => { y with pool := 0, charges := [] }) (fun _ => rfl) hr

/-- A graph search as its start leaves it: with its codes when they are known. -/
def readySearch (sr : Search) (f : Option Filter) (u : State) (x : Cmd) (k : Coll) : Search :=
  let sr := { sr with filter := f, walk := some (walkInit u x k), blocks := dealBlocks u (rawBlocks sr.h k []) }
  if sr.enc.all encDone then withCodes sr else sr

theorem readySearch_parts {sr : Search} {f : Option Filter} {u : State} {x : Cmd} {k : Coll} :
    (readySearch sr f u x k).filter = f ∧ (readySearch sr f u x k).walk = some (walkInit u x k)
      ∧ (readySearch sr f u x k).blocks = dealBlocks u (rawBlocks sr.h k []) := by
  unfold readySearch
  dsimp only
  split <;> exact ⟨rfl, rfl, rfl⟩

/-- A graph search whose inputs have been read: its walk is seeded and the side list is dealt; a walk without seeds ends at once. -/
theorem graphStart_begins {s t u : State} {x : Cmd} {k : Coll} {sr : Search} {f : Option Filter} (hc : cmdGet s x.id = some x)
    (hq : readQueries x k (searchInit x k) s = .ok sr t) (hbell : bellMarked sr.enc = none)
    (hf : readFilter x (cf x 32 8) t = .ok f u) :
    ∃ w y sr' z, graphStart x k s = .ok w z ∧ cmdGet w x.id = some y ∧ y.phase = x.phase ∧ y.work = .search sr'
      ∧ sr'.filter = f ∧ sr'.walk = some (walkInit u x k) ∧ sr'.blocks = dealBlocks u (rawBlocks sr.h k []) := by
  have hst := res_ok hq (readQueries_keeps (κ := 155189320) rfl keeps_refl)
  have htu := res_ok hf (readFilter_keeps (κ := 155189320) rfl hst)
  obtain ⟨es, cs, p, hin⟩ := cmdGet_inputsRead ((cmdGet_congr (htu .cmds rfl)).trans hc)
  have hbell' : (bellMarked sr.enc).isSome = false := by rw [hbell]; rfl
  unfold graphStart
  simp only [hq, hf, andThen_ok, hbell', Bool.false_eq_true, if_false]
  split
  · have hw := cmdGet_endWalk (cmdGet_setWork (w := .search (readySearch sr f u x k)) hin)
    exact ⟨_, _, readySearch sr f u x k, _, rfl, hw, rfl, rfl, readySearch_parts⟩
  · exact ⟨_, _, readySearch sr f u x k, _, rfl, cmdGet_setWork hin, rfl, rfl, readySearch_parts⟩

/-! ## RERANK -/

/-- A RERANK whose inputs have been read has its live candidates in hand, each with its term (R243). -/
theorem rerankStart_begins {s t u v : State} {x : Cmd} {k : Coll} {q : Query} {ids terms : List Byte} (hc : cmdGet s x.id = some x)
    (hq : rerankQueries x k s = .ok q t) (hids : readBuf x (cf x 32 8) (8 * cf x 52 4) t = .ok ids u)
    (hbad : badIds ids (cf x 52 4) = none)
    (hterms : (if cf x 57 1 = 0 then .ok [] u else readBuf x (cf x 40 8) (4 * cf x 52 4) u) = .ok terms v) :
    ∃ w y sr z, rerankStart x k s = .ok w z ∧ cmdGet w x.id = some y ∧ y.phase = x.phase ∧ y.work = .rerank sr
      ∧ sr.k = cf x 48 4 ∧ sr.key = cf x 56 1 ∧ sr.examined = cf x 52 4
      ∧ sr.queries = [{ q with merged := some { entries := rerankCands v x k q ids terms (cf x 52 4), tail := 0, stamp := 0 } }]
      ∧ sr.passed = (rerankCands v x k q ids terms (cf x 52 4)).length := by
  have hst := res_ok hq (rerankQueries_keeps (κ := 138412104) rfl keeps_refl)
  have htu := res_ok hids (readBuf_keeps (κ := 138412104) rfl hst)
  have huv : Keeps 138412104 s v := by
    split at hterms
    · obtain ⟨-, rfl⟩ := Res.ok.inj hterms
      exact htu
    · exact res_ok hterms (readBuf_keeps rfl htu)
  obtain ⟨es, cs, p, hin⟩ := cmdGet_inputsRead ((cmdGet_congr (huv .cmds rfl)).trans hc)
  unfold rerankStart
  simp only [hq, hids, hbad, hterms, andThen_ok]
  exact ⟨_, _, _, _, rfl, cmdGet_setWork hin, rfl, rfl, rfl, rfl, rfl, rfl, rfl⟩

/-- The candidates of a RERANK are the live entries among its identifiers. -/
theorem rerankCands_ids {s : State} {x : Cmd} {k : Coll} {q : Query} {ids terms : List Byte} {n : Nat} :
    (rerankCands s x k q ids terms n).map (fun c => (c.vid, c.slot)) = (List.range n).filterMap (fun i =>
      (liveEntry k x.horizon (fld ids (8 * i) 6)).map (fun p => (p.2.record.vid, p.1))) := by
  rw [rerankCands, List.map_filterMap]
  congr 1
  funext i
  rw [Option.map_map]
  rfl

end Sys2Proof.Machine

/-! SUPPORT. Fan-outs: their inputs, and the sub-queries they send (R390, R391). -/
namespace Sys2Proof.Machine

/-! ## Registers and ring slots -/

theorem reg_sld_ne_cst {e : Nat} : reg .sld e 0x138 ≠ reg .cst 12 0x150 := by
  unfold reg pageReg
  omega

/-- The ring slots that a command takes are counted in no register of the fabric. -/
theorem regGet_consumeRings_fanout {c : Nat} {s : State} :
    regGet (consumeRings c s) (reg .cst 12 0x150) = regGet s (reg .cst 12 0x150) := by
  have hfold : ∀ (rs : List SRing) (t : State),
      regGet (rs.foldl (fun s r => bumpSat (reg .sld r.engine 0x138) 32 32 1 s) t) (reg .cst 12 0x150) = regGet t (reg .cst 12 0x150) := by
    intro rs
    induction rs with
    | nil => exact fun t => rfl
    | cons r rs ih => exact fun t => (ih _).trans (regGet_regSet.trans (if_neg reg_sld_ne_cst.symm))
  exact hfold _ s

/-- What the time left for a sub-query rests on. -/
theorem subDeadline_congr {s t : State} {x : Cmd} (hnow : t.now = s.now)
    (hreg : regGet t (reg .cst 12 0x150) = regGet s (reg .cst 12 0x150)) : subDeadline t x = subDeadline s x := by
  rw [subDeadline, subDeadline, rttBudget, rttBudget, hnow, hreg]

theorem shardsDown_congr {s t : State} {f g : Fan} (hcst : t.cst = s.cst) (hf : g.shards = f.shards) : shardsDown t g = shardsDown s f := by
  rw [shardsDown, shardsDown, hcst, hf]

/-! ## Sub-queries -/

theorem nextRequest_sendOut {peer : Nat} {m : OutMsg} {s : State} : (sendOut peer m s).cst.nextRequest = s.cst.nextRequest := by
  rw [sendOut]
  split <;> rfl

theorem nextRequest_flushMsgs {peer n : Nat} {s : State} : (flushMsgs peer n s).cst.nextRequest = s.cst.nextRequest := by
  induction n generalizing s with
  | zero => rfl
  | succ n ih =>
    rw [flushMsgs]
    split
    · rfl
    · split
      · rfl
      · split
        · rfl
        · rw [ih, nextRequest_sendOut]

theorem nextRequest_sendMsg {peer kind : Nat} {bnd : Bool} {hdr : Word64} {body : List Byte} {s : State} :
    (sendMsg peer kind bnd hdr body s).cst.nextRequest = s.cst.nextRequest := by
  rw [sendMsg]
  split
  · rfl
  · exact nextRequest_flushMsgs

theorem subArrive_cst {q : SubQ} {s : State} : (subArrive q s).cst = s.cst := subArrive_keeps (κ := 24576) rfl (keeps_refl (s₀ := s)) .cst rfl

/-- A command that stands in the queue store stays there when a sub-query arrives. -/
theorem cmdGet_subArrive {q : SubQ} {s : State} {c : Nat} {x : Cmd} (h : cmdGet s c = some x) :
    ∃ y, cmdGet (subArrive q s) c = some y := by
  have hadd : ∀ z : Cmd, cmdGet { s with nextCmd := s.nextCmd + 1, cmds := s.cmds ++ [z] } c = some x := by
    intro z
    have hf : s.cmds.find? (fun x => decide (x.id = c)) = some x := h
    simp [cmdGet, List.find?_append, hf]
  rw [subArrive]
  dsimp only
  split
  · exact ⟨x, hadd _⟩
  · rw [cmdGet_cmdMod (by intro y; rfl), hadd]
    exact ⟨_, apply_ite some _ _ _ |>.symm⟩

section
variable {x : Cmd} {c : Coll} {f : Fan} {d : Nat}

/-- One sub-query on its way: to this module itself, or to a peer. -/
theorem sendSubs_cons {h : Shard} {hs : List Shard} {s : State} :
    ∃ t, sendSubs x c f d (h :: hs) s = ({ h with request := s.cst.nextRequest } :: (sendSubs x c f d hs t).1, (sendSubs x c f d hs t).2)
      ∧ t.cst.nextRequest = (s.cst.nextRequest + 1) % 65536 ∧ ∀ n y, cmdGet s n = some y → ∃ z, cmdGet t n = some z := by
  by_cases hp : h.peer = 0xFFFF
  · rw [sendSubs, if_pos hp]
    exact ⟨_, rfl, by rw [subArrive_cst], fun n y hy => cmdGet_subArrive hy⟩
  · rw [sendSubs, if_neg hp]
    refine ⟨_, rfl, nextRequest_sendMsg, fun n y hy => ⟨y, (cmdGet_congr ?_).trans hy⟩⟩
    exact sendMsg_keeps (κ := 536870920) rfl keeps_refl .cmds rfl

/-- The requests of the shards take consecutive numbers (R391). -/
theorem sendSubs_requests {hs : List Shard} {s : State} : (sendSubs x c f d hs s).1.map Shard.request
    = (List.range hs.length).map (fun i => if i = 0 then s.cst.nextRequest else (s.cst.nextRequest + i) % 65536) := by
  induction hs generalizing s with
  | nil => rfl
  | cons h hs ih =>
    obtain ⟨t, ht, hn, -⟩ := sendSubs_cons (x := x) (c := c) (f := f) (d := d) (h := h) (hs := hs) (s := s)
    rw [ht, List.map_cons, ih, hn, List.length_cons, List.range_succ_eq_map, List.map_cons, List.map_map]
    refine congrArg₂ _ rfl (List.map_congr_left fun i _ => ?_)
    simp only [Function.comp, if_neg (Nat.succ_ne_zero i)]
    split <;> omega

/-- Besides its request number a shard stays as it was. -/
theorem sendSubs_shards {α : Type} {g : Shard → α} (hg : ∀ h r, g { h with request := r } = g h) {hs : List Shard} {s : State} :
    (sendSubs x c f d hs s).1.map g = hs.map g := by
  induction hs generalizing s with
  | nil => rfl
  | cons h hs ih =>
    obtain ⟨t, ht, -, -⟩ := sendSubs_cons (x := x) (c := c) (f := f) (d := d) (h := h) (hs := hs) (s := s)
    rw [ht, List.map_cons, List.map_cons, ih, hg]

theorem cmdGet_sendSubs {hs : List Shard} {s : State} {n : Nat} {y : Cmd} (hc : cmdGet s n = some y) :
    ∃ z, cmdGet (sendSubs x c f d hs s).2 n = some z := by
  induction hs generalizing s y with
  | nil => exact ⟨y, hc⟩
  | cons h hs ih =>
    obtain ⟨t, ht, -, hk⟩ := sendSubs_cons (x := x) (c := c) (f := f) (d := d) (h := h) (hs := hs) (s := s)
    obtain ⟨z, hz⟩ := hk n y hc
    rw [ht]
    exact ih hz

end

/-! ## SEARCH_FANOUT -/

/-- A fan-out whose query has not been read yet. -/
def fanInit (x : Cmd) (params ls fb : List Byte) (ts : List Nat) : Fan :=
  let p := sparams (fanCmd x params)
  { shards := (List.range (cf x 72 2)).map (shardOf ls), k := p.k, kSel := kSelOf p.k p.rerankN, rerankN := p.rerankN, key := p.key
    h := cColl x, cut := false, enc := [], sent := false, sentAt := 0, subUs := 0, params := params, codes := [], rq := [], filter := fb
    tset := ts }

/-- The deadline that a fan-out's sub-queries carry, in µs; 0 for none (R396). -/
def subTime (s : State) (x : Cmd) : Nat := if x.deadlineUs = 0 then 0 else max 1 (subDeadline s x).toNat

/-- A fan-out whose shards are up and whose deadline leaves time sends its sub-queries. -/
theorem fanSend_sends {s : State} {x y : Cmd} {c : Coll} {f : Fan} (hc : cmdGet s x.id = some y) (hup : shardsDown s f = false)
    (htime : x.bounded = true → x.deadlineUs ≠ 0 → 0 < subDeadline s x) :
    ∃ (z : Cmd) (d : Nat), cmdGet (fanSend x c f s) x.id = some { z with
      work := .fan { f with shards := (sendSubs x c f d f.shards s).1, sent := true, sentAt := s.now, subUs := d, enc := [] } } := by
  have hlate : ¬ (x.deadlineUs ≠ 0 ∧ subDeadline s x ≤ 0 ∧ x.bounded = true) := fun ⟨hd, hs, hb⟩ => absurd (htime hb hd) (by omega)
  obtain ⟨z, hz⟩ := cmdGet_sendSubs (x := x) (c := c) (f := f) (d := subTime s x) (hs := f.shards) hc
  have hnow : (sendSubs x c f (subTime s x) f.shards s).2.now = s.now :=
    sendSubs_keeps (κ := 536895496) rfl (keeps_refl (s₀ := s)) .now rfl
  refine ⟨z, subTime s x, ?_⟩
  rw [fanSend, if_neg (by simp [hup]), if_neg hlate, ← hnow]
  exact cmdGet_setWork hz

theorem fanInputs_ok {s t u v z : State} {x : Cmd} {k : Coll} {params ls fb : List Byte} {ts : List Nat} {f : Fan}
    (hpar : readBuf x (cf x 64 8) 128 s = .ok params t) (hbad : badParams t x k params = none)
    (hneed : (cf x 40 8 ≠ 0) ↔ ((sparams (fanCmd x params)).rerankN ≠ 0 ∧ (sparams (fanCmd x params)).source = false))
    (hls : readBuf x (cf x 48 8) (16 * cf x 72 2) t = .ok ls u) (hsh : badShards u ls (cf x 72 2) 0 = none)
    (hfil : fanFilter x u = .ok (fb, ts) v)
    (hq : fanQuery x k (sparams (fanCmd x params)) (fanInit x params ls fb ts) v = .ok f z) : fanInputs x k s = .ok f z := by
  unfold fanInputs
  simp only [hpar, hbad, hls, hsh, hfil, andThen_ok]
  rw [if_neg (by simp [hneed])]
  exact hq

/-- The query of a fan-out leaves its shards and its parameters. -/
theorem fanQuery_ok {s z : State} {x : Cmd} {c : Coll} {p : SParams} {g f : Fan} (h : fanQuery x c p g s = .ok f z) :
    f.shards = g.shards ∧ f.k = g.k ∧ f.sent = g.sent := by
  unfold fanQuery at h
  split at h
  · split at h
    · cases h
    · cases h
    · obtain ⟨v, t, -, h⟩ := andThen_eq_ok h
      obtain ⟨rfl, -⟩ := Res.ok.inj h
      exact ⟨rfl, rfl, rfl⟩
  · obtain ⟨bs, t, -, h⟩ := andThen_eq_ok h
    obtain ⟨rq, t', -, h⟩ := andThen_eq_ok h
    obtain ⟨rfl, -⟩ := Res.ok.inj h
    exact ⟨rfl, rfl, rfl⟩

theorem fanCodes_parts {c : Coll} {f : Fan} : (fanCodes c f).shards = f.shards ∧ (fanCodes c f).k = f.k := by
  unfold fanCodes
  split <;> exact ⟨rfl, rfl⟩

/-- The state in which a fan-out sends: its inputs are read, its codes are known, and its encode's rings are free (R261). -/
def codesKnown (c : Nat) (s : State) : State := freeStage c (endStage c 3 (endStage c 2 (consumeRings c s)))

theorem codesKnown_keeps {c : Nat} {s : State} : Keeps 68165696 s (codesKnown c s) :=
  freeStage_keeps rfl (endStage_keeps rfl (endStage_keeps rfl (consumeRings_keeps rfl keeps_refl)))

theorem regGet_codesKnown_fanout {c : Nat} {s : State} :
    regGet (codesKnown c s) (reg .cst 12 0x150) = regGet s (reg .cst 12 0x150) := by
  have hregs : (codesKnown c s).regs = (consumeRings c s).regs := freeStage_keeps (κ := 68165632) rfl
    (endStage_keeps rfl (endStage_keeps rfl (keeps_refl (s₀ := consumeRings c s)))) .regs rfl
  rw [← regGet_consumeRings_fanout (c := c) (s := s), regGet, regGet, hregs]

theorem cmdGet_codesKnown {c : Nat} {s : State} {y : Cmd} (h : cmdGet (endStage c 2 (consumeRings c s)) c = some y) :
    ∃ z, cmdGet (codesKnown c s) c = some z := by
  obtain ⟨es, cs, p, hz⟩ := cmdGet_endStage (n := 3) h
  exact ⟨_, hz⟩

/-- A fan-out whose inputs have been read waits for its encode, or sends a sub-query to each shard. -/
theorem fanStart_begins {s z : State} {x : Cmd} {k : Coll} {f : Fan} (hc : cmdGet s x.id = some x) (hin : fanInputs x k s = .ok f z)
    (hbell : bellMarked f.enc = none) (hup : shardsDown z f = false)
    (htime : x.bounded = true → x.deadlineUs ≠ 0 → 0 < subDeadline z x) :
    ∃ w y f' v, fanStart x k s = .ok w v ∧ cmdGet w x.id = some y ∧ y.work = .fan f' ∧ f'.k = f.k
      ∧ if f.enc.all encDone then f'.sent = true ∧ f'.enc = [] ∧ f'.sentAt = s.now
          ∧ ∃ g d u, f'.shards = (sendSubs x k g d f.shards u).1 ∧ u.cst.nextRequest = s.cst.nextRequest
        else f' = f := by
  have hsz := res_ok hin (fanInputs_keeps (κ := 155189320) rfl keeps_refl)
  obtain ⟨es, cs, p, hread⟩ := cmdGet_inputsRead ((cmdGet_congr (hsz .cmds rfl)).trans hc)
  unfold fanStart
  simp only [hin, andThen_ok, hbell]
  cases henc : f.enc.all encDone with
  | false => exact ⟨_, _, f, _, rfl, cmdGet_setWork hread, rfl, rfl, by simp⟩
  | true =>
    obtain ⟨hshards, hk⟩ := fanCodes_parts (c := k) (f := f)
    have hzu := codesKnown_keeps (c := x.id) (s := z)
    have hcst : (codesKnown x.id z).cst = s.cst := (hzu .cst rfl).trans (hsz .cst rfl)
    obtain ⟨u, hu⟩ := cmdGet_codesKnown hread
    obtain ⟨y, d, hsend⟩ := fanSend_sends (x := x) (c := k) (f := fanCodes k f) hu ((shardsDown_congr (hzu .cst rfl) hshards).trans hup)
      (fun hb hd => by rw [subDeadline_congr (hzu .now rfl) regGet_codesKnown_fanout]; exact htime hb hd)
    refine ⟨_, _, _, _, rfl, hsend, rfl, hk, ?_⟩
    rw [if_pos rfl, hshards]
    exact ⟨rfl, rfl, (hzu .now rfl).trans (hsz .now rfl), _, _, codesKnown x.id z, rfl, by rw [hcst]⟩

end Sys2Proof.Machine

/-! SUPPORT. The rows that begin searches (R44, R127, R134, R158, R243, R390). -/
namespace Sys2Proof.Machine

/-- Settles O40: each row settles the start of its search, of which the lemmas above say what it leaves. -/
theorem searchRows : Obligations.SearchRows := by
  unfold Obligations.SearchRows
  refine ⟨fun s t u v x k sr f listed hb hk hbar hp hlost hpause hq hbell hf hl => ?_,
    fun s t u v x k sr f listed hb hk hbar hp hlost hpause hq hbell hf hl => ?_,
    fun s t u x k sr f hb hk hbar hp hq hbell hf => ?_, fun s t u v x k q ids terms hb hk hbar hp hq hids hbad hterms => ?_,
    fun s t u v z x k params ls fb ts f hb hk hbar hp hpar hbad hneed hls hsh hfil hq hbell hup htime => ?_⟩
  · have hrow : exec (.searchFlat x.id) s = .next (drainAll (searchRow x.id 0x30 flatStart s)) := rfl
    obtain ⟨w, y, sr', z, hw, hy, hph, hrest⟩ := flatStart_begins hb.cmd hlost hpause hq hbell hf hl
    refine ⟨w, y, sr', ?_, hy, hph.trans hb.executing, hrest⟩
    rw [hrow, searchRow_of_begun hb hk hbar hp, hw, settle_ok]
  · have hrow : exec (.searchBatch x.id) s = .next (drainAll (searchRow x.id 0x33 flatStart s)) := rfl
    obtain ⟨w, y, sr', z, hw, hy, hph, hrest⟩ := flatStart_begins hb.cmd hlost hpause hq hbell hf hl
    refine ⟨w, y, sr', ?_, hy, hph.trans hb.executing, hrest⟩
    rw [hrow, searchRow_of_begun hb hk hbar hp, hw, settle_ok]
  · have hrow : exec (.searchGraph x.id) s = .next (drainAll (searchRow x.id 0x31 graphStart s)) := rfl
    obtain ⟨w, y, sr', z, hw, hy, hph, hwork, hfil, hwalk, hblk⟩ := graphStart_begins hb.cmd hq hbell hf
    refine ⟨w, y, sr', walkInit u x k, ?_, hy, hph.trans hb.executing, hwork, hfil, hwalk, rfl, rfl, rfl, rfl,
      fun n => mem_walkInit_cset, rfl, decide_eq_true_iff, rfl, hblk ▸ dealBlocks_slots⟩
    rw [hrow, searchRow_of_begun hb hk hbar hp, hw, settle_ok]
  · have hrow : exec (.rerank x.id) s = .next (drainAll (searchRow x.id 0x34 rerankStart s)) := rfl
    obtain ⟨w, y, sr, z, hw, hy, hph, hwork, hkk, hkey, hex, hqs, hpass⟩ := rerankStart_begins hb.cmd hq hids hbad hterms
    refine ⟨w, y, sr, ?_, hy, hph.trans hb.executing, hwork, hkk, hkey, hex, _, hqs, hpass, rfl, rerankCands_ids⟩
    rw [hrow, searchRow_of_begun hb hk hbar hp, hw, settle_ok]
  · have hrow : exec (.searchFanout x.id) s = .next (drainAll (searchRow x.id 0x32 fanStart s)) := rfl
    have hin := fanInputs_ok hpar hbad hneed hls hsh hfil hq
    obtain ⟨hshards, hkk, hsent⟩ := fanQuery_ok hq
    obtain ⟨w, y, f', v', hw, hy, hwork, hfk, hend⟩ := fanStart_begins hb.cmd hin hbell hup htime
    have hlist : f.shards = (List.range (cf x 72 2)).map (shardOf ls) := hshards
    have hnext : exec (.searchFanout x.id) s = .next (drainAll w) := by
      rw [hrow, searchRow_of_begun hb hk hbar hp, hw, settle_ok]
    refine ⟨w, y, f', hnext, hy, hwork, hfk.trans hkk, ?_⟩
    cases henc : f.enc.all encDone with
    | false =>
      obtain rfl : f' = f := by simpa [henc] using hend
      refine ⟨?_, hsent, fun h => ?_⟩
      · rw [hlist, List.map_map]
        rfl
      · rw [hsent] at h
        cases h
    | true =>
      obtain ⟨hs, he, hat, g, d, t', hsub, hreq⟩ := (if_pos henc).mp hend
      refine ⟨?_, hs, fun _ => ⟨he, hat, ?_⟩⟩
      · rw [hsub, sendSubs_shards (g := fun h => (h.peer, h.coll, h.shardId, h.answered)) (fun _ _ => rfl), hlist, List.map_map]
        rfl
      · rw [hsub, sendSubs_requests, hreq, hlist, List.length_map, List.length_range]

end Sys2Proof.Machine

/-! SUPPORT. Frames as masks, and ring records (R79, R82, R83, R85). -/
namespace Sys2Proof.Machine

/-! ## Frames -/

theorem allFields_getElem_bit (p : Field) : allFields[p.bit]? = some p := by cases p <;> rfl

theorem fieldBit_injective : Function.Injective Field.bit := fun p q h =>
  Option.some.inj <| by rw [← allFields_getElem_bit p, ← allFields_getElem_bit q, h]

/-- The set of bits of a list of parts. -/
def maskOf (ps : List Field) : Nat := ps.foldr (fun p m => 2 ^ p.bit ||| m) 0

theorem testBit_maskOf {ps : List Field} {p : Field} : (maskOf ps).testBit p.bit = decide (p ∈ ps) := by
  induction ps with
  | nil => simp [maskOf]
  | cons q ps ih =>
    have hcons : maskOf (q :: ps) = 2 ^ q.bit ||| maskOf ps := rfl
    rw [hcons, Nat.testBit_or, ih, Nat.testBit_two_pow]
    simp [fieldBit_injective.eq_iff, eq_comm]

theorem frame_of_keeps {ps : List Field} {s t : State} (h : Keeps (maskOf ps) s t) : Frame ps s t :=
  fun p hp => h p (by simpa [testBit_maskOf] using hp)

/-- Settles O8: what the rows that drain may write is what the statement lists. -/
theorem eventDrainFrame : Obligations.EventDrainFrame := by
  unfold Obligations.EventDrainFrame
  exact fun s => frame_of_keeps (drainAll_keeps (by decide) keeps_refl)

/-! ## Rings -/

theorem ringGet_congr {i : RingId} {s t : State} (hr : t.rings = s.rings) (he : t.evRings = s.evRings) : ringGet t i = ringGet s i := by
  cases i with
  | cq n => rw [ringGet, ringGet, hr]
  | ev e => rw [ringGet, ringGet, evRing, evRing, he]

/-- There are eight event rings. -/
theorem lt_of_ringGet {i : RingId} {s : State} {r : Ring} (h : ringGet s i = some r) : ∀ e, i = .ev e → e < 8 := by
  rintro e rfl
  by_contra he
  rw [ringGet, if_neg he] at h
  cases h

theorem ringGet_ringPut_same {i : RingId} {r : Ring} {s : State} (hi : ∀ e, i = .ev e → e < 8) :
    ringGet (ringPut i r s) i = some r := by
  cases i with
  | cq n => exact tget_tset_same
  | ev e => rw [ringGet, if_pos (hi e rfl), ringPut, evRing, setEvRing_evRings, tget_tset_same, Option.getD_some]

theorem ringGet_sendMsix {i : RingId} {v : Nat} {s : State} : ringGet (sendMsix v s) i = ringGet s i :=
  ringGet_congr (sendMsix_keeps (κ := 1032) rfl (keeps_refl (s₀ := s)) .rings rfl)
    (sendMsix_keeps (κ := 1032) rfl (keeps_refl (s₀ := s)) .evRings rfl)

/-- Signalling counts the record, and counts afresh once the message goes out (R83). -/
theorem ringGet_signalRecord {i : RingId} {r : Ring} {s : State} (h : ringGet s i = some r) :
    ∃ n, ringGet (signalRecord i s) i = some { r with since := n } := by
  rw [signalRecord, h]
  dsimp only
  split
  · exact ⟨0, ringGet_sendMsix.trans (ringGet_ringPut_same (lt_of_ringGet h))⟩
  · exact ⟨_, ringGet_ringPut_same (lt_of_ringGet h)⟩

/-- A ring after a record: the tail advances, and the phase inverts where it wraps (R79). -/
def ringAdvance (r : Ring) : Ring :=
  { r with
    tail := if r.tail + 1 = 2 ^ r.sizeLog2 then 0 else r.tail + 1
    phase := if r.tail + 1 = 2 ^ r.sizeLog2 then !r.phase else r.phase }

theorem writeRecord_done {i : RingId} {r : Ring} {mk : Bool → List Byte} {s u : State} (h : writeRecord i r mk s = .done u) :
    ∃ a v, translate (ringWho i r) (r.base + recordBytes i * r.tail) true s = (.bus a, v)
      ∧ u = signalRecord i (ringPut i (ringAdvance r) { v with
          hostMem := memWrite v.hostMem a (keyed true (ringDom i r) (r.base + recordBytes i * r.tail) (mk (!r.phase)) v) }) := by
  rw [writeRecord] at h
  dsimp only at h
  split at h
  · cases h
  · cases h
  · next a v hv => exact ⟨a, v, hv, (RecRes.done.inj h).symm⟩

theorem translate_bus_keeps {w : Who} {va a : Nat} {write : Bool} {s v : State} (h : translate w va write s = (.bus a, v)) :
    Keeps 4194376 s v := inv_snd h (translate_keeps rfl keeps_refl)

/-- Settles O9: the translation leaves host memory and the queue store, and signalling leaves the record's ring but for its count. -/
theorem recordWritten : Obligations.RecordWritten := by
  unfold Obligations.RecordWritten
  intro i r mk s u hi hmem h
  obtain ⟨a, v, hv, rfl⟩ := writeRecord_done h
  have hsv := translate_bus_keeps hv
  have hsu := rec_done h (writeRecord_keeps (κ := 4392024) rfl keeps_refl)
  refine ⟨a, v, hv, ?_, ?_, hsu .queues rfl, hsu .cmds rfl, hsu .colls rfl⟩
  · intro bs
    have hbytes : ∀ t : State, (signalRecord i (ringPut i (ringAdvance r) t)).hostMem = t.hostMem := fun t =>
      signalRecord_keeps (κ := 197640) rfl (ringPut_keeps rfl (keeps_refl (s₀ := t))) .hostMem rfl
    have hvm : v.hostMem = s.hostMem := hsv .hostMem rfl
    rw [hbytes]
    refine ⟨fun k hk => ?_, fun b hb => ?_⟩
    · rw [memGet_memWrite_same (by rw [hvm]; exact hmem) hk, List.getD_eq_getElem _ _ hk]
    · rw [memGet_memWrite_other hb, hvm]
  · obtain ⟨n, hn⟩ := ringGet_signalRecord (ringGet_ringPut_same (r := ringAdvance r) (s := { v with
      hostMem := memWrite v.hostMem a (keyed true (ringDom i r) (r.base + recordBytes i * r.tail) (mk (!r.phase)) v) }) hi)
    exact ⟨_, hn, rfl, rfl, fun hw => ⟨if_pos hw, if_pos hw⟩, fun hw => ⟨if_neg hw, if_neg hw⟩⟩

end Sys2Proof.Machine

/-! SUPPORT. Raised events, and accesses to the BARs (R66, R67, R86, R434, R495, R505). -/
namespace Sys2Proof.Machine

/-! ## Events -/

theorem getLast?_keepLast {α : Type} {n : Nat} {xs : List α} {a : α} (hn : 0 < n) : (keepLast n (xs ++ [a])).getLast? = some a := by
  rw [keepLast, List.getLast?_drop, if_neg (by simp; omega), List.getLast?_concat]

/-- An event that has been raised takes the next sequence number and the reference time. -/
def stamped (ev : Ev) (s : State) : Ev := { ev with seq := s.chn.eventSeq + 1, time := s.now }

/-- The state in which an event has been numbered, logged and latched, before it goes to its rings and peers. -/
def noted (ev : Ev) (s : State) : State :=
  tellPldm (stamped ev s) (latchEvent (stamped ev s) (logEvent (stamped ev s)
    { s with chn := { s.chn with eventSeq := s.chn.eventSeq + 1 } }))

/-- An event goes to its rings and peers, or is held until event ring 0 is enabled; neither touches the logs. -/
theorem raise_after_noted {b : Blk} {ev : Ev} {s : State} : Keeps 2684485696 (noted ev s) (raise b ev s)
    ∧ (raise b ev s).chn.recent = (noted ev s).chn.recent ∧ (raise b ev s).chn.eventSeq = (noted ev s).chn.eventSeq := by
  have hr : raise b ev s = if !evEnabled b ev.unit ev.code (noted ev s) then noted ev s
      else if (noted ev s).chn.holding then
        if (noted ev s).chn.heldEvents.length < 65536 then
          { noted ev s with chn := { (noted ev s).chn with heldEvents := (noted ev s).chn.heldEvents ++ [stamped ev s] } }
        else (evRingsFor (stamped ev s) (noted ev s)).foldl (fun s e => loseEvent e s) (noted ev s)
      else postEvent (stamped ev s) (noted ev s) := rfl
  rw [hr]
  generalize noted ev s = t
  split
  · exact ⟨keeps_refl, rfl, rfl⟩
  · split
    · split
      · exact ⟨upd_chn rfl keeps_refl, rfl, rfl⟩
      · have hf : Keeps 131136 t ((evRingsFor (stamped ev s) t).foldl (fun s e => loseEvent e s) t) :=
          inv_foldl (fun _ _ => loseEvent_keeps rfl) keeps_refl
        have hc := hf .chn rfl
        exact ⟨inv_foldl (fun _ _ => loseEvent_keeps rfl) keeps_refl, congrArg Chanter.recent hc, congrArg Chanter.eventSeq hc⟩
    · have hc := postEvent_keeps (κ := 537002048) (ev := stamped ev s) rfl (keeps_refl (s₀ := t)) .chn rfl
      exact ⟨postEvent_keeps rfl keeps_refl, congrArg Chanter.recent hc, congrArg Chanter.eventSeq hc⟩

theorem noted_chn {ev : Ev} {s : State} : (noted ev s).chn.eventSeq = s.chn.eventSeq + 1
    ∧ (noted ev s).chn.recent = keepLast 65536 (s.chn.recent ++ [stamped ev s]) := by
  have hc := tellPldm_keeps (κ := 72) (ev := stamped ev s) rfl (latchEvent_keeps (ev := stamped ev s) rfl (keeps_refl
    (s₀ := logEvent (stamped ev s) { s with chn := { s.chn with eventSeq := s.chn.eventSeq + 1 } }))) .chn rfl
  rw [noted, hc, logEvent_chn]
  exact ⟨rfl, by dsimp only⟩

theorem raised_raise {b : Blk} {ev : Ev} {s : State} : Raised s (raise b ev s) ev.code ev.sev := by
  obtain ⟨-, hrecent, hseq⟩ := raise_after_noted (b := b) (ev := ev) (s := s)
  obtain ⟨hseq', hrecent'⟩ := noted_chn (ev := ev) (s := s)
  refine ⟨hseq.trans hseq', stamped ev s, ?_, rfl, rfl, rfl, rfl⟩
  rw [hrecent, hrecent', getLast?_keepLast (by decide)]

/-- Only MODE_CHANGED and THERMAL are also told to the PLDM receiver (R483). -/
theorem raise_outbox {b : Blk} {ev : Ev} {s : State} (hm : ev.code ≠ 0x0110) (ht : ev.code ≠ 0x0104) :
    (raise b ev s).outbox = s.outbox := by
  refine ((raise_after_noted (b := b) (ev := ev) (s := s)).1 .outbox rfl).trans ?_
  have htell : ∀ t, tellPldm (stamped ev s) t = t := fun t => by
    rw [tellPldm]
    split
    · exact if_neg (by rintro (h | h) <;> contradiction)
    · rfl
  rw [noted, htell]
  exact latchEvent_keeps (κ := 64) rfl (keeps_refl (s₀ := logEvent (stamped ev s) _)) .outbox rfl

theorem Raised.of_eq {s v t : State} {code sev : Nat} (h : Raised v t code sev) (hc : v.chn = s.chn) (hn : v.now = s.now) :
    Raised s t code sev := by
  unfold Raised at h ⊢
  rwa [hc, hn] at h

/-! ## Violations -/

section
variable {kind size ring : Nat} {addr : Word64} {read evr : Bool} {s : State}

/-- What a violation leaves before its event is raised: the latch, and the answer or message of its kind. -/
def violated (kind : Nat) (addr : Word64) (size : Nat) (read : Bool) (ring : Nat) (evr : Bool) (s : State) : State :=
  let s := blkFault 0 (kind - 1) addr (violInfo kind size read 0 ring evr) s
  if read then emit .readUR s else if kind = 1 ∨ kind = 2 ∨ kind = 4 then emit .aerUR s else s

theorem violation_eq : violation kind addr size read ring evr s
    = raise .mpc (mkEv 0x0010 2 .mpc 0 0xFFFF addr.toNat (kind + size % 256 * 256 + b2n read * 65536) 0 0)
      (violated kind addr size read ring evr s) := rfl

theorem violated_keeps : Keeps 200 s (violated kind addr size read ring evr s) := by
  have h : Keeps 200 s (blkFault 0 (kind - 1) addr (violInfo kind size read 0 ring evr) s) := blkFault_keeps rfl keeps_refl
  exact inv_ite (emit_keeps rfl h) (inv_ite (emit_keeps rfl h) h)

/-- Each violation raises MMIO_VIOLATION (R86). -/
theorem raised_violation : Raised s (violation kind addr size read ring evr s) 0x0010 2 :=
  raised_raise.of_eq (violated_keeps .chn rfl) (violated_keeps .now rfl)

/-- A read that is a violation is answered with Unsupported Request (R86). -/
theorem violation_read_outbox : (violation kind addr size true ring evr s).outbox = s.outbox ++ [.readUR] := by
  rw [violation_eq, raise_outbox (show (0x0010 : Nat) ≠ 0x0110 by decide) (show (0x0010 : Nat) ≠ 0x0104 by decide), violated]
  exact congrArg (· ++ [Out.readUR]) (blkFault_keeps (κ := 192) rfl (keeps_refl (s₀ := s)) .outbox rfl)

theorem violation_keeps_self : Keeps 2684485832 s (violation kind addr size read ring evr s) := violation_keeps rfl keeps_refl

end

/-! ## Reads -/

theorem bar0Read_open {o n : Nat} {s : State} {b : Blk} {i : Nat} (hp : pageBlk (o / 4096) = some (b, i))
    (hk : bar0Kind s true o n = 0) :
    bar0Read o n s = emit (.readData (leBytes n (regRead s b i (o % 4096)).toNat)) (regClear b i (o % 4096) s) := by
  simp [bar0Read, hp, hk]

theorem bar0Read_misplaced {o n : Nat} {s : State} (hk : bar0Kind s true o n ≠ 0) :
    ∃ k, bar0Read o n s = violation k (barAddr 0 o) n true 0 false s := by
  rw [bar0Read]
  split
  · exact ⟨1, rfl⟩
  · exact ⟨_, if_pos hk⟩

theorem regClear_none {b : Blk} {i off : Nat} {s : State} (hd : regDef b i off = none) : regClear b i off s = s := by
  simp [regClear, hd]

/-- A read clears the fields of its register that clear on read, and no other register (Table 0.1). -/
theorem regGet_regClear {b : Blk} {i off p : Nat} {d : RegDef} {s : State} (hd : regDef b i off = some d) :
    regGet (regClear b i off s) p
      = if p = reg b i off then regGet s (reg b i off) &&& ~~~ (BitVec.ofNat 64 d.rc) else regGet s p := by
  have hregs : (regClear b i off s).regs
      = (if d.rc = 0 then s else regSet (reg b i off) (regGet s (reg b i off) &&& ~~~ (BitVec.ofNat 64 d.rc)) s).regs := by
    simp only [regClear, hd]
    split <;> rfl
  have hget : regGet (regClear b i off s) p
      = regGet (if d.rc = 0 then s else regSet (reg b i off) (regGet s (reg b i off) &&& ~~~ (BitVec.ofNat 64 d.rc)) s) p := by
    rw [regGet, regGet, hregs]
  rw [hget]
  split
  · next hrc =>
    split
    · next hp => rw [hp, hrc, show ~~~(BitVec.ofNat 64 0) = BitVec.allOnes 64 by decide, BitVec.and_allOnes]
    · rfl
  · exact regGet_regSet

/-- Settles O11: each clause is the answer of one BAR, and a misplaced read is a violation. -/
theorem registerReads : Obligations.RegisterReads := by
  unfold Obligations.RegisterReads
  refine ⟨fun o n s b i ho hp hk => ?_, fun o n s ho => ?_, fun o n s ho hok => ?_, fun o n s ho hk => ?_⟩
  · have hrow : exec (.registerRead 0 o n) s = .next (drainAll (bar0Read (o % 2 ^ 26) n s)) := rfl
    rw [Nat.mod_eq_of_lt ho, bar0Read_open hp hk] at hrow
    have hframe : Frame [.outbox, .regs, .bag] s
        (emit (.readData (leBytes n (regRead s b i (o % 4096)).toNat)) (regClear b i (o % 4096) s)) :=
      frame_of_keeps (emit_keeps (by decide) (regClear_keeps (by decide) keeps_refl))
    have hout : (regClear b i (o % 4096) s).outbox = s.outbox := regClear_keeps (κ := 268435520) rfl (keeps_refl (s₀ := s)) .outbox rfl
    refine ⟨_, hrow, congrArg (· ++ [_]) hout, fun d hd => ?_, fun p hne => ?_, hframe⟩
    · exact (regGet_regClear hd).trans (if_pos rfl)
    · cases hd : regDef b i (o % 4096) with
      | none => rw [regClear_none hd]; rfl
      | some d => exact (regGet_regClear hd).trans (if_neg hne)
  · have hwin : (List.range n).map (fun i => winByte s ((o + i) % 2 ^ 23)) = (List.range n).map (fun k => winByte s (o + k)) :=
      List.map_congr_left fun k hk => by rw [Nat.mod_eq_of_lt (by have := List.mem_range.1 hk; omega)]
    have hrow : exec (.registerRead 1 o n) s
        = .next (drainAll (emit (.readData ((List.range n).map (fun i => winByte s ((o + i) % 2 ^ 23)))) s)) := rfl
    rw [hwin] at hrow
    exact ⟨_, hrow, rfl, frame_of_keeps (emit_keeps (by decide) keeps_refl)⟩
  · have hrow : exec (.registerRead 2 o n) s = .next (drainAll (registerRead 2 o n s)) := rfl
    rw [registerRead, Nat.mod_eq_of_lt ho, if_pos hok] at hrow
    exact ⟨_, hrow, rfl, frame_of_keeps (emit_keeps (by decide) keeps_refl)⟩
  · have hrow : exec (.registerRead 0 o n) s = .next (drainAll (bar0Read (o % 2 ^ 26) n s)) := rfl
    obtain ⟨k, hv⟩ := bar0Read_misplaced hk
    rw [Nat.mod_eq_of_lt ho, hv] at hrow
    exact ⟨_, hrow, violation_read_outbox, violation_keeps_self .queues rfl, violation_keeps_self .cmds rfl, raised_violation⟩

/-! ## Writes -/

theorem bar0Write_open {o : Nat} {data : List Byte} {s : State} {b : Blk} {i : Nat} {d : RegDef} (hp : pageBlk (o / 4096) = some (b, i))
    (hk : bar0Kind s false o data.length = 0) (hd : regDef b i (o % 4096) = some d) :
    bar0Write o data s = if writable d then regWriteAt b i (o % 4096) d (BitVec.ofNat 64 (leNat data)) s
      else if d.rc ≠ 0 then s else violation 3 (barAddr 0 o) data.length false 0 false s := by
  simp [bar0Write, hp, hk, hd]

/-- A register takes its value, and every other register and part stays. -/
theorem regSet_written {o : Nat} {v : Word64} {s : State} : regGet (regSet o v s) o = v
    ∧ (∀ p, p ≠ o → regGet (regSet o v s) p = regGet s p) ∧ Frame [.regs] s (regSet o v s) :=
  ⟨regGet_regSet_same, fun _ hne => regGet_regSet.trans (if_neg hne), frame_of_keeps (regSet_keeps (by decide) keeps_refl)⟩

theorem regWriteAt_mask {b : Blk} {i off : Nat} {d : RegDef} {v : Word64} {s : State} (h : off = 0x038) :
    regWriteAt b i off d v s = regSet (reg b i 0x038) v s := by
  subst h
  rfl

/-- The pages whose registers take a write without a rule of their own. -/
theorem regWriteAt_plain {b : Blk} {i off : Nat} {d : RegDef} {v : Word64} {s : State}
    (hoff : off ≠ 0x020 ∧ off ≠ 0x038 ∧ off ≠ 0x040)
    (hb : b ∈ [.wch, .reed, .kwk, .bell, .vlv, .chn, .sec] ∨ (b = .bore ∧ off ≠ 0x138)) :
    regWriteAt b i off d v s = maskWrite (reg b i off) d.rw v s := by
  obtain ⟨h20, h38, h40⟩ := hoff
  unfold regWriteAt
  dsimp only
  rw [if_neg h20, if_neg h40, if_neg h38]
  obtain hb | ⟨rfl, hdebug⟩ := hb
  · simp only [List.mem_cons, List.not_mem_nil, or_false] at hb
    obtain rfl | rfl | rfl | rfl | rfl | rfl | rfl := hb <;> rfl
  · exact if_neg hdebug

theorem bar4Write_word {a : Nat} {data : List Byte} {s : State} (ha : a + 4 ≤ 0x8000) (hal : a % 4 = 0) (hlen : data.length = 4) :
    bar4Write a data s = msixWrite a (BitVec.ofNat 32 (fld data 0 4)) s := by
  rw [bar4Write, if_neg (by simp [bar4Ok, hlen, hal]), hlen]
  have hin : a < 0x8000 := by omega
  exact if_pos hin

theorem msixWrite_table {off : Nat} {v : BitVec 32} {s : State} : (msixWrite off v s).msixTable = tset s.msixTable off v := by
  rw [msixWrite]
  dsimp only
  split <;> rfl

theorem msixWrite_frame {off : Nat} {v : BitVec 32} {s : State} : Frame [.msixTable, .msixPending, .outbox] s (msixWrite off v s) :=
  frame_of_keeps (msixWrite_keeps (by decide) keeps_refl)

/-- A write that ends inside the command area of its window is stored there (R68). -/
theorem windowPart_area {q o : Nat} {data : List Byte} {s : State} (hne : data ≠ []) (hlen : o + data.length ≤ 0x78) :
    windowPart q o data s = drainAll { s with windows := memWrite s.windows (q * 256 + o) data } := by
  have hpos := List.length_pos_iff.2 hne
  have harea : o < 0x78 := by omega
  have hcommit : ¬(o < 0x80 ∧ o + data.length > 0x78) := by omega
  have hstat : ¬(o < 0x88 ∧ o + data.length > 0x80) := by omega
  have hhead : ¬(o ≤ 0x88 ∧ o + data.length ≥ 0x8C) := by omega
  have hrest : ¬ o + data.length > 0x8C := by omega
  simp only [windowPart, if_pos harea, if_neg hcommit, if_neg hstat, if_neg hhead, if_neg hrest,
    List.take_of_length_le (Nat.le_sub_of_add_le' hlen)]

/-- A write of one window is applied by its bytes from the offset in the window. -/
theorem windowWrite_one {fuel q o : Nat} {data : List Byte} {s : State} (hne : data ≠ []) (hlen : o + data.length ≤ 256) :
    windowWrite (fuel + 2) (q * 256 + o) data s = windowPart q o data s := by
  have hpos := List.length_pos_iff.2 hne
  have hd : (q * 256 + o) / 256 = q := by omega
  have hm : (q * 256 + o) % 256 = o := by omega
  rw [windowWrite, if_neg (by simpa using hne)]
  dsimp only
  rw [hd, hm, Nat.min_eq_left (by omega), List.drop_length, List.take_length]
  rfl

theorem ofsTrim_selected {v : Word64} {s : State} (hk : calKind s = 2) (hi : calIndex s < 9) : ofsTrim v s
    = ucalRun (fun u => { u with trims := u.trims.set (calIndex s) (clampInt (-20) 20 (signed 16 (bits v.toNat 15 0))) }) s :=
  if_pos ⟨hk, hi⟩

/-- A tap of a port takes its offset and the port its enable; the other taps stay. -/
theorem tap_replaced {α β : Type} {t : Nat} {x a b c : α} {e : β} (ht : t < 3) :
    (if t = 0 then x else a, if t = 1 then x else b, if t = 2 then x else c, e)
      = if t = 0 then (x, b, c, e) else if t = 1 then (a, x, c, e) else (a, b, x, e) := by
  interval_cases t <;> rfl

theorem ucalRun_frame {f : UCal → UCal} {s : State} : Frame [.blw] s (ucalRun f s) :=
  frame_of_keeps (ucalRun_keeps (by decide) keeps_refl)

/-- Settles O12: each clause is the branch of the BAR that it names, as one update of the state or as a violation. -/
theorem registerWrites : Obligations.RegisterWrites := by
  unfold Obligations.RegisterWrites
  refine ⟨fun o data s b i d ho hp hk hoff hd hw => ?_, fun o data s b i d ho hp hk hoff hd hw hb => ?_,
    fun o data s b i d ho hp hk hd hw => ?_, fun o data s ho hal hlen => ?_, fun q o data s hq hne hlen => ?_,
    fun v s hk hi => ?_, fun v s hk hport htap => ?_, fun v s hsel => ?_⟩
  · have hrow : exec (.registerWrite 0 o data) s = .next (drainAll (bar0Write (o % 2 ^ 26) data s)) := rfl
    rw [Nat.mod_eq_of_lt ho, bar0Write_open hp hk hd, if_pos hw, regWriteAt_mask hoff] at hrow
    exact ⟨_, hrow, regSet_written⟩
  · have hrow : exec (.registerWrite 0 o data) s = .next (drainAll (bar0Write (o % 2 ^ 26) data s)) := rfl
    rw [Nat.mod_eq_of_lt ho, bar0Write_open hp hk hd, if_pos hw, regWriteAt_plain hoff hb] at hrow
    exact ⟨_, hrow, regSet_written⟩
  · have hrow : exec (.registerWrite 0 o data) s = .next (drainAll (bar0Write (o % 2 ^ 26) data s)) := rfl
    rw [Nat.mod_eq_of_lt ho, bar0Write_open hp hk hd, if_neg (ne_true_of_eq_false hw)] at hrow
    refine ⟨_, hrow, fun hrc => if_pos hrc, fun hrc => ?_⟩
    rw [if_neg (not_not.2 hrc)]
    exact raised_violation
  · have hrow : exec (.registerWrite 2 o data) s = .next (drainAll (bar4Write (o % 2 ^ 16) data s)) := rfl
    rw [Nat.mod_eq_of_lt (by omega), bar4Write_word ho hal hlen] at hrow
    refine ⟨_, hrow, ?_, fun p hne => ?_, msixWrite_frame⟩
    · rw [msixWrite_table, tget_tset_same]
    · rw [msixWrite_table, tget_tset_other hne]
  · have hrow : exec (.registerWrite 1 (q * 256 + o) data) s
        = .next (drainAll (windowWrite (data.length / 256 + 2) ((q * 256 + o) % 2 ^ 23) data s)) := rfl
    rw [Nat.mod_eq_of_lt (by omega), windowWrite_one hne (by omega), windowPart_area hne hlen] at hrow
    have hdrain : Keeps 4326616 { s with windows := memWrite s.windows (q * 256 + o) data }
        (drainAll (drainAll { s with windows := memWrite s.windows (q * 256 + o) data })) :=
      drainAll_keeps rfl (drainAll_keeps rfl keeps_refl)
    exact ⟨_, hrow, hdrain .windows rfl,
      frame_of_keeps (drainAll_keeps (by decide) (drainAll_keeps (by decide) (upd_windows (by decide) keeps_refl)))⟩
  · have hrow : exec (.blwOfsTrimWrite v) s = .next (ofsTrim v s) := rfl
    rw [ofsTrim_selected hk hi] at hrow
    exact ⟨_, hrow, rfl, rfl, ucalRun_frame⟩
  · have hrow : exec (.blwOfsTapWrite v) s = .next (ofsTap v s) := rfl
    rw [ofsTap, if_pos ⟨hk, hport, htap⟩] at hrow
    refine ⟨_, hrow, ?_, rfl, ucalRun_frame⟩
    intro p x n
    exact congrArg (fun p => { s.blw.run with serdes := s.blw.run.serdes.set (calIndex s % 16) p }) (tap_replaced htap)
  · have hrow : exec (.blwOfsTrimWrite v) s = .next (ofsTrim v s) := rfl
    have hno : ¬(calKind s = 2 ∧ calIndex s < 9) := fun h => hsel.elim (· h.1) (· h.2)
    rw [ofsTrim, if_neg hno] at hrow
    exact ⟨_, hrow, violation_keeps_self .blw rfl, raised_violation⟩

end Sys2Proof.Machine

/-! SUPPORT. Heads, interrupts and contexts of rings (R77, R79, R83, R85, R501). -/
namespace Sys2Proof.Machine

/-! ## One ring and the others -/

/-- What the tables of rings list for a ring. -/
def ringSlot (s : State) : RingId → Option Ring
  | .cq n => tget s.rings n
  | .ev e => tget s.evRings e

theorem ringSlot_ringPut_other {i j : RingId} {r : Ring} {s : State} (h : j ≠ i) : ringSlot (ringPut i r s) j = ringSlot s j := by
  cases i with
  | cq n =>
    cases j with
    | cq m => exact tget_tset_other (fun he => h (congrArg RingId.cq he))
    | ev e => rfl
  | ev e =>
    cases j with
    | cq m => rfl
    | ev f => exact tget_tset_other (fun he => h (congrArg RingId.ev he))

section
variable {i : RingId} {r : Ring} {s : State} {v : Nat}

theorem ringPut_keeps_self : Keeps 196608 s (ringPut i r s) := ringPut_keeps rfl keeps_refl

/-! ## Interrupts (R83) -/

theorem vectorMasked_congr {t : State} (h : t.msixTable = s.msixTable) : vectorMasked t v = vectorMasked s v := by
  rw [vectorMasked, vectorMasked, h]

theorem vectorMasked_ringPut : vectorMasked (ringPut i r s) v = vectorMasked s v := vectorMasked_congr (ringPut_keeps_self .msixTable rfl)

theorem sendMsix_unmasked (h : vectorMasked s v = false) : sendMsix v s = emit (.msix v) s := by simp [sendMsix, h]
theorem sendMsix_masked (h : vectorMasked s v = true) : sendMsix v s = { s with msixPending := insertNat v s.msixPending } := by
  simp [sendMsix, h]

/-- Records that the host has not returned and no message has announced. -/
def unsignalled (r : Ring) : Bool := r.intEn && min r.since (ringUnread r) > 0

theorem signalHead_of_get (h : ringGet s i = some r) :
    signalHead i s = if unsignalled r then sendMsix r.vector (ringPut i { r with since := 0 } s) else s := by
  rw [signalHead, h]
  rfl

theorem ringGet_signalHead (h : ringGet s i = some r) :
    ringGet (signalHead i s) i = some { r with since := if unsignalled r then 0 else r.since } := by
  rw [signalHead_of_get h]
  split
  · exact ringGet_sendMsix.trans (ringGet_ringPut_same (lt_of_ringGet h))
  · exact h

theorem ringSlot_sendMsix {j : RingId} : ringSlot (sendMsix v s) j = ringSlot s j := by
  have hk := sendMsix_keeps (κ := 1032) (v := v) rfl (keeps_refl (s₀ := s))
  cases j with
  | cq n => rw [ringSlot, ringSlot, hk .rings rfl]
  | ev e => rw [ringSlot, ringSlot, hk .evRings rfl]

theorem ringSlot_signalHead_other {j : RingId} (h : ringGet s i = some r) (hj : j ≠ i) :
    ringSlot (signalHead i s) j = ringSlot s j := by
  rw [signalHead_of_get h]
  split
  · exact ringSlot_sendMsix.trans (ringSlot_ringPut_other hj)
  · rfl

theorem signalHead_outbox (h : ringGet s i = some r) (hu : unsignalled r = true) (hv : vectorMasked s r.vector = false) :
    (signalHead i s).outbox = s.outbox ++ [.msix r.vector] := by
  rw [signalHead_of_get h, if_pos hu, sendMsix_unmasked (vectorMasked_ringPut.trans hv), emit_outbox, ringPut_keeps_self .outbox rfl]

/-! ## Heads (R79) -/

variable {addr : Word64} {size : Nat}

/-- A head inside the ring and not past its tail is taken. -/
theorem headWrite_taken (h : ringGet s i = some r) (he : r.enabled = true) (hok : headOk r v = true) :
    headWrite i v addr size s = signalHead i (ringPut i { r with head := v } s) := by
  simp [headWrite, h, he, hok]

/-- Any other head is a violation. -/
theorem headWrite_dropped (h : ∀ r, ringGet s i = some r → r.enabled = false ∨ headOk r v = false) :
    headWrite i v addr size s = drainAll (violation 5 addr size false (ringNo i) (ringIsEv i) s) := by
  rw [headWrite]
  split
  · rfl
  · next r hr => exact if_pos (by obtain he | hv := h r hr <;> simp [*])

theorem ringGet_headWrite (h : ringGet s i = some r) (he : r.enabled = true) (hok : headOk r v = true) :
    ringGet (headWrite i v addr size s) i = some { r with
      head := v, since := if unsignalled { r with head := v } then 0 else r.since } := by
  rw [headWrite_taken h he hok]
  exact ringGet_signalHead (ringGet_ringPut_same (lt_of_ringGet h))

theorem ringSlot_headWrite_other {j : RingId} (h : ringGet s i = some r) (he : r.enabled = true) (hok : headOk r v = true)
    (hj : j ≠ i) : ringSlot (headWrite i v addr size s) j = ringSlot s j := by
  rw [headWrite_taken h he hok, ringSlot_signalHead_other (ringGet_ringPut_same (lt_of_ringGet h)) hj, ringSlot_ringPut_other hj]

/-- The part of the state that holds a ring. -/
def ringField : RingId → Field
  | .cq _ => .rings
  | .ev _ => .evRings

theorem headWrite_taken_frame (h : ringGet s i = some r) (he : r.enabled = true) (hok : headOk r v = true) :
    Frame [ringField i, .outbox, .msixPending] s (headWrite i v addr size s) := by
  have hput : ∀ {x : Ring} {t : State}, Keeps (maskOf [ringField i, .outbox, .msixPending]) s t →
      Keeps (maskOf [ringField i, .outbox, .msixPending]) s (ringPut i x t) := fun ht => by
    cases i with
    | cq n => exact upd_rings (by decide : 65536 &&& maskOf [.rings, .outbox, .msixPending] = 65536) ht
    | ev e => exact setEvRing_keeps (by decide : 131072 &&& maskOf [.evRings, .outbox, .msixPending] = 131072) ht
  have hmsix : 1032 &&& maskOf [ringField i, .outbox, .msixPending] = 1032 := by
    cases i with
    | cq n => exact (by decide : 1032 &&& maskOf [.rings, .outbox, .msixPending] = 1032)
    | ev e => exact (by decide : 1032 &&& maskOf [.evRings, .outbox, .msixPending] = 1032)
  refine frame_of_keeps ?_
  rw [headWrite_taken h he hok, signalHead_of_get (ringGet_ringPut_same (lt_of_ringGet h))]
  exact inv_ite (sendMsix_keeps hmsix (hput (hput keeps_refl))) (hput keeps_refl)

theorem headWrite_taken_outbox (h : ringGet s i = some r) (he : r.enabled = true) (hok : headOk r v = true)
    (hu : unsignalled { r with head := v } = true) (hv : vectorMasked s r.vector = false) :
    (headWrite i v addr size s).outbox = s.outbox ++ [.msix r.vector] := by
  rw [headWrite_taken h he hok, signalHead_outbox (ringGet_ringPut_same (lt_of_ringGet h)) hu (vectorMasked_ringPut.trans hv),
    ringPut_keeps_self .outbox rfl]

theorem drain_violation_keeps {kind : Nat} {ring : Nat} {read evr : Bool} :
    Keeps 2688681176 s (drainAll (violation kind addr size read ring evr s)) := drainAll_keeps rfl (violation_keeps rfl keeps_refl)

/-- A write of CQ_HEAD that is not taken leaves every completion ring, queue and command. -/
theorem cqHead_dropped {q : Nat} (h : ∀ qu r, tget s.queues q = some qu → tget s.rings qu.ring = some r →
    r.enabled = false ∨ headOk r (v % 65536) = false) : Keeps 2688681176 s (cqHead q v size s) := by
  rw [cqHead]
  split
  · exact drain_violation_keeps
  · next qu hq =>
    rw [headWrite_dropped (i := .cq qu.ring) (fun r hr => h qu r hq hr)]
    exact drain_violation_keeps

end

/-- Settles O19: a head that is taken moves its own ring and signals what lies beyond it; any other is a violation. -/
theorem headWrites : Obligations.HeadWrites := by
  unfold Obligations.HeadWrites
  refine ⟨fun q v s qu r hq hr he hok => ?_, fun e v s he8 he hok => ?_, fun q v s h => ?_⟩
  · have hrow : exec (.cqHeadWrite q v) s = .next (cqHead q v.toNat 4 s) := rfl
    have hg : ringGet s (.cq qu.ring) = some r := hr
    rw [cqHead, hq] at hrow
    exact ⟨_, hrow, ringGet_headWrite hg he hok, fun n hn => ringSlot_headWrite_other (j := .cq n) hg he hok (by simpa using hn),
      headWrite_taken_frame hg he hok, fun hint hmin hv =>
        headWrite_taken_outbox hg he hok (by simpa [unsignalled, hint] using hmin) hv⟩
  · have hrow : exec (.evrHeadWrite e v) s
        = .next (regRow .mpc 0 (0x240 + 8 * (e % 8))
            (headWrite (.ev (e % 8)) (v.toNat % 65536) (barAddr 0 (0x240 + 8 * (e % 8))) 8) s) := rfl
    have hg : ringGet s (.ev e) = some (evRing s e) := if_pos he8
    have hopen : pageOpen s .mpc = true := by simp [pageOpen]
    rw [Nat.mod_eq_of_lt he8, regRow, if_pos hopen] at hrow
    have hgot := ringGet_headWrite (addr := barAddr 0 (0x240 + 8 * e)) (size := 8) hg he hok
    rw [ringGet, if_pos he8] at hgot
    refine ⟨_, hrow, ?_, ?_, ?_, fun n hn => ?_, headWrite_taken_frame hg he hok⟩
    · rw [Option.some.inj hgot]
    · rw [Option.some.inj hgot]
    · rw [Option.some.inj hgot]
    · exact congrArg (Option.getD · ringReset) (ringSlot_headWrite_other (j := .ev n) hg he hok (by simpa using hn))
  · have hrow : exec (.cqHeadWrite q v) s = .next (cqHead q v.toNat 4 s) := rfl
    have hk := cqHead_dropped (size := 4) h
    exact ⟨_, hrow, hk .rings rfl, hk .queues rfl, hk .cmds rfl⟩

/-! ## Coalescing and unmasking (R83) -/

theorem msixWrite_unmask {v : Nat} {s : State} : msixWrite (16 * v + 12) 0 s
    = if v ∈ s.msixPending then
        emit (.msix v) { s with msixTable := tset s.msixTable (16 * v + 12) 0, msixPending := s.msixPending.filter (· ≠ v) }
      else { s with msixTable := tset s.msixTable (16 * v + 12) 0 } := by
  have hmod : (16 * v + 12) % 16 = 12 := by omega
  have hdiv : (16 * v + 12) / 16 = v := by omega
  simp [msixWrite, hmod, hdiv]

/-- Settles O20: both rows end in `sendMsix` or in the message that a pending bit has waited for. -/
theorem interruptRows : Obligations.InterruptRows := by
  unfold Obligations.InterruptRows
  refine ⟨fun i s r hr hint htime hsince => ?_, fun v s hv => ?_⟩
  · have hrow : exec (.coalesceTimerExpiry i) s = .next (coalesceExpiry i s) := rfl
    have hsend : coalesceExpiry i s = sendMsix r.vector (ringPut i { r with since := 0 } s) := by
      simp [coalesceExpiry, hr, hint, htime, hsince]
    rw [hsend] at hrow
    have hput : Keeps 196608 s (ringPut i { r with since := 0 } s) := ringPut_keeps_self
    refine ⟨_, hrow, ringGet_sendMsix.trans (ringGet_ringPut_same (lt_of_ringGet hr)), fun hm => ?_, fun hm => ?_,
      frame_of_keeps (sendMsix_keeps (by decide) (ringPut_keeps (by decide) keeps_refl))⟩
    · rw [sendMsix_unmasked (vectorMasked_ringPut.trans hm)]
      exact ⟨congrArg (· ++ [Out.msix r.vector]) (hput .outbox rfl), hput .msixPending rfl⟩
    · rw [sendMsix_masked (vectorMasked_ringPut.trans hm)]
      exact ⟨hput .outbox rfl, congrArg (insertNat r.vector) (hput .msixPending rfl)⟩
  · have hrow : exec (.msixUnmask v) s = .next (if v < 2048 then msixWrite (16 * v + 12) 0 s else s) := rfl
    rw [if_pos hv] at hrow
    refine ⟨_, hrow, ?_, fun hin => ?_, fun hout => ?_, frame_of_keeps (msixWrite_keeps (by decide) keeps_refl)⟩
    · rw [vectorMasked, msixWrite_table, tget_tset_same]
      rfl
    · rw [msixWrite_unmask, if_pos hin]
      exact ⟨rfl, rfl⟩
    · rw [msixWrite_unmask, if_neg hout]
      exact ⟨rfl, rfl⟩

/-! ## Contexts in the MPC page (R77, R501) -/

/-- An event that is lost leaves its ring but for the mark on its next record (R85). -/
theorem evRing_loseEvent {e : Nat} {s : State} : evRing (loseEvent e s) e = { evRing s e with lostDebt := true } := by
  rw [loseEvent, evRing, setEvRing_evRings, tget_tset_same, Option.getD_some]

theorem evRing_loseEvents {α : Type} {e : Nat} {l : List α} {s : State} :
    ∃ b, evRing (l.foldl (fun s _ => loseEvent e s) s) e = { evRing s e with lostDebt := b } := by
  induction l generalizing s with
  | nil => exact ⟨(evRing s e).lostDebt, rfl⟩
  | cons a l ih =>
    obtain ⟨b, hb⟩ := ih (s := loseEvent e s)
    exact ⟨b, by rw [List.foldl_cons, hb, evRing_loseEvent]⟩

theorem ringGet_loseWaiting {i : RingId} {r x : Ring} {s : State} (h : ringGet s i = some x) :
    ∃ b, ringGet (loseWaiting i r s) i = some { x with lostDebt := b } := by
  cases i with
  | cq n => exact ⟨x.lostDebt, h⟩
  | ev e =>
    have he := lt_of_ringGet h e rfl
    rw [ringGet, if_pos he] at h
    obtain ⟨b, hb⟩ := evRing_loseEvents (e := e) (l := r.waiting) (s := s)
    refine ⟨b, ?_⟩
    rw [ringGet, if_pos he, loseWaiting, hb, Option.some.inj h]

/-- Once event ring 0 is enabled no event is held back (R85). -/
theorem releaseHeld_holding {s : State} : (releaseHeld s).chn.holding = false := by
  rw [releaseHeld]
  split
  · have hk : Keeps 537002048 { s with chn := { s.chn with holding := false, heldEvents := [] } }
        (s.chn.heldEvents.foldl (fun s ev => postEvent ev s) { s with chn := { s.chn with holding := false, heldEvents := [] } }) :=
      inv_foldl (fun _ _ => postEvent_keeps rfl) keeps_refl
    exact congrArg Chanter.holding (hk .chn rfl)
  · next h => exact eq_false_of_ne_true h

/-- A valid word 1 with ENABLE set enables a ring that is not. -/
theorem ctxWriteWord1_enables {i : RingId} {v : Word64} {s : State} {r : Ring} (hr : ringGet s i = some r) (he : r.enabled = false)
    (hv : bit v.toNat 8 = true) (hok : ctxValid s i (ctxWord1 v r) (ctxRes1 v) = true) :
    ctxWriteWord1 i v s = if i = .ev 0 then drainAll (releaseHeld (ringPut i (ringEnable (ctxWord1 v r)) s))
      else ringPut i (ringEnable (ctxWord1 v r)) s := by
  simp [ctxWriteWord1, hr, he, hv, hok]

/-- Removing the cells of some addresses makes them read zero and leaves the others. -/
theorem memGet_filter {m : List Host.Cell} {p : Nat → Bool} {a : Nat} :
    memGet (m.filter (fun c => !p c.1)) a = if p a then 0 else memGet m a := by
  induction m with
  | nil => simp [memGet]
  | cons c m ih =>
    rw [List.filter_cons]
    by_cases hc : c.1 = a
    · subst hc
      cases hp : p c.1 <;> simp [memGet, hp, ih]
    · cases hp : p c.1 <;> simp [memGet, hc, ih]

/-- The zeroing of an enabled ring in a region without a key ends (R79). -/
theorem ringZeroed_ok {i : RingId} {s u : State} {r : Ring} {g : Region × Bool} {ps : List (Nat × Nat)} (hr : ringGet s i = some r)
    (he : r.enabled = true) (hz : r.zeroing = true) (hf : r.faulted = false)
    (hx : xlatRange (ringWho i r) true (rangePages r.base (ringBytes i r)) r.base (ringBytes i r) s = .ok ps u)
    (hg : regionOf u (ringDom i r) r.base = some g) (hk : g.1.key = 0xFFFF) :
    ringZeroed i s = drainAll (ringPut i { r with zeroing := false } (zeroPieces ps u)) := by
  simp [ringZeroed, hr, he, hz, hf, hx, hg, hk]

/-- Settles O21: each clause puts its ring back changed; disabling also loses the events that waited, and the end of zeroing clears the
slots. -/
theorem ringContextRows : Obligations.RingContextRows := by
  unfold Obligations.RingContextRows
  refine ⟨fun i v s r hm hr he => ?_, fun i v s r hm hr he hv hok hne => ?_, fun v s r hr he hv hok => ?_,
    fun i v s r hm hr hv => ?_, fun i s u r g ps hr he hz hf hx hg hk => ?_⟩
  · have hrow : exec (.ringContextWord0Write i v) s = .next (if mpcRing i then ctxWriteWord0 i v s else s) := rfl
    rw [if_pos hm, ctxWriteWord0, hr] at hrow
    exact ⟨_, hrow, by simp [he, ringGet_ringPut_same (lt_of_ringGet hr)], by
      simp only [he, Bool.false_eq_true, if_false]
      exact frame_of_keeps (ringPut_keeps (by decide) keeps_refl)⟩
  · have hrow : exec (.ringContextWord1Write i v) s = .next (if mpcRing i then ctxWriteWord1 i v s else s) := rfl
    rw [if_pos hm, ctxWriteWord1_enables hr he hv hok, if_neg hne] at hrow
    exact ⟨_, hrow, ringGet_ringPut_same (lt_of_ringGet hr), frame_of_keeps (ringPut_keeps (by decide) keeps_refl)⟩
  · have hrow : exec (.ringContextWord1Write (.ev 0) v) s = .next (if mpcRing (.ev 0) then ctxWriteWord1 (.ev 0) v s else s) := rfl
    rw [if_pos (show mpcRing (.ev 0) = true from rfl), ctxWriteWord1_enables hr he hv hok, if_pos rfl] at hrow
    refine ⟨_, hrow, ?_⟩
    rw [drainAll_keeps (κ := 4326616) rfl keeps_refl .chn rfl]
    exact releaseHeld_holding
  · have hrow : exec (.ringContextWord1Write i v) s = .next (if mpcRing i then ctxWriteWord1 i v s else s) := rfl
    rw [if_pos hm, ctxWriteWord1, hr] at hrow
    simp only [hv, Bool.false_eq_true, if_false] at hrow
    obtain ⟨b, hb⟩ := ringGet_loseWaiting (r := r) (ringGet_ringPut_same (s := s)
      (r := { ctxWord1 v r with enabled := false, faulted := false, zeroing := false, waiting := [] }) (lt_of_ringGet hr))
    exact ⟨_, _, hrow, hb, rfl, rfl, frame_of_keeps (loseWaiting_keeps (by decide) (ringPut_keeps (by decide) keeps_refl))⟩
  · have hrow : exec (.ringZeroingDone i) s = .next (ringZeroed i s) := rfl
    rw [ringZeroed_ok hr he hz hf hx hg hk] at hrow
    have hmem : u.hostMem = s.hostMem := res_ok hx (xlatRange_keeps (κ := 4194376) rfl keeps_refl) .hostMem rfl
    refine ⟨_, hrow, ringGet_ringPut_same (lt_of_ringGet hr), fun a => ?_⟩
    rw [ringPut_keeps_self .hostMem rfl, ← hmem]
    exact memGet_filter (p := fun a => ps.any (fun p => p.1 ≤ a && a < p.1 + p.2))

end Sys2Proof.Machine

/-! SUPPORT. ADMIN commands that make and destroy domains, queues and completion rings (Table 4.5, R77, R79, R88, R90, R116, R370). -/
namespace Sys2Proof.Machine

theorem subIs_of_cSub {n : Nat} {x : Cmd} (h : cSub x = n) : subIs n x = true := decide_eq_true h

theorem endsWith_finish {s : State} {c : Nat} {x : Cmd} (h : cmdGet s c = some x) : EndsWith (finish c id s) c x.status x.result :=
  ⟨_, cmdGet_finish (f := id) (fun _ => rfl) h, rfl, rfl, rfl, rfl⟩

theorem finish_keeps_self {s : State} {c : Nat} {f : Cmd → Cmd} : Keeps 13196354134016 s (finish c f s) := finish_keeps rfl keeps_refl

theorem finish_queues {s : State} {c : Nat} {f : Cmd → Cmd} : (finish c f s).queues = s.queues := finish_keeps_self .queues rfl
theorem finish_rings {s : State} {c : Nat} {f : Cmd → Cmd} : (finish c f s).rings = s.rings := finish_keeps_self .rings rfl
theorem settle_done {s : State} {c : Nat} {f : Cmd → Cmd} : settle c (done c f s) = finish c f s := rfl

/-! ## Domains -/

section
variable {s : State} {x : Cmd} {k : Option Domain} {t : Table Domain}

/-- The record of a change to a domain. -/
def domainRec (s : State) (x : Cmd) (d : Nat) (k : Option Domain) : JRec :=
  jrecNew 0x40 0xFFFF (.domain d k) 128 (domOf s x) x.queue (cTag x)

/-- The state once that record is written and the table of domains changed. -/
def domainsPut (s : State) (x : Cmd) (d : Nat) (k : Option Domain) (t : Table Domain) : State :=
  { (journalPut (domainRec s x d k) s).2 with domains := t }

theorem journals_domainsPut {d : Nat} {u : State} (hc : cmdGet s x.id = some x) (hx : x.phase = .executing)
    (hcmds : u.cmds = s.cmds) (hbag : u.bag = (domainsPut s x d k t).bag) :
    Journals s (finishJournaled x.id s.bag.nextSeq false id u) x.id 0x40 0xFFFF (.domain d k) x.result s.bag.writeThrough :=
  journals_finishJournaled (r := domainRec s x d k) (f := id) (fun _ => rfl) (fun _ => rfl) ((cmdGet_congr hcmds).trans hc) hx hbag rfl

theorem finishJournaled_domains {c n : Nat} {needFlash : Bool} {f : Cmd → Cmd} :
    (finishJournaled c n needFlash f s).domains = s.domains :=
  finishJournaled_keeps (κ := 13196622569472) rfl (keeps_refl (s₀ := s)) .domains rfl

theorem finishJournaled_crook {c n : Nat} {needFlash : Bool} {f : Cmd → Cmd} : (finishJournaled c n needFlash f s).crook = s.crook :=
  finishJournaled_keeps (κ := 13196622569472) rfl (keeps_refl (s₀ := s)) .crook rfl

theorem domainsPut_cmds {d : Nat} : (domainsPut s x d k t).cmds = s.cmds := journalPut_cmds

/-- The domain that DOMAIN_CREATE describes (Tables 4.5 and 14.3). -/
def domainOf (x : Cmd) : Domain :=
  { domainZero with
    pasid := cf x 18 4, evRing := cf x 22 1, urgRate := cf x 24 4, urgBurst := cf x 28 2, quota := cf x 30 4
    atsOk := bit (cf x 34 2) 0, mirrorOk := bit (cf x 34 2) 1, priOk := bit (cf x 34 2) 2
    maxRegions := cf x 36 2, keyMask := BitVec.ofNat 64 (cf x 40 8), tokens := cf x 28 2 }

theorem domainCreate_ok (hfree : tget s.domains (cf x 16 2) = none) (hf : journalFits s (runsBounded s x) 128 = true) :
    settle x.id (domainCreate x s) = finishJournaled x.id s.bag.nextSeq false id
      (domainsPut s x (cf x 16 2) (some (domainOf x)) (tset s.domains (cf x 16 2) (domainOf x))) := by
  have hdom : (journalPut (domainRec s x (cf x 16 2) (some (domainOf x))) s).2.domains = s.domains := journalPut_keeps_written .domains rfl
  rw [domainsPut, ← hdom, domainCreate, if_neg (by simp [hfree])]
  dsimp only
  rw [journalCmd_of_fits (payload := 64) hf]
  rfl

theorem domainDestroy_ok {d : Domain} (hd : tget s.domains (cf x 16 2) = some d) (huse : domainInUse s (cf x 16 2) d = false)
    (hf : journalFits s (runsBounded s x) 128 = true) :
    settle x.id (domainDestroy x s) = finishJournaled x.id s.bag.nextSeq false id (forgetDomain (cf x 16 2)
      (domainsPut s x (cf x 16 2) none (tdel s.domains (cf x 16 2)))) := by
  have hdom : (journalPut (domainRec s x (cf x 16 2) none) s).2.domains = s.domains := journalPut_keeps_written .domains rfl
  rw [domainsPut, ← hdom, domainDestroy, hd]
  dsimp only
  rw [if_neg (by simp [huse]), journalCmd_of_fits (payload := 64) hf]
  rfl

/-- Crook keeps no entry of a domain that is forgotten (log entry 69). -/
theorem forgetDomain_cache {d : Nat} : ∀ e ∈ (forgetDomain d s).crook.cache, e.dom ≠ d := fun e he => by
  have he' : e ∈ s.crook.cache.filter (fun e => e.dom ≠ d) := he
  simpa using (List.mem_filter.1 he').2

end

/-! ## Queues -/

/-- The queue that QUEUE_CREATE describes (Table 4.5). -/
def queueOf (x : Cmd) : Queue :=
  { queueZero with
    domain := cf x 18 2, ring := cf x 20 2, depth := cf x 22 2, cls := cf x 24 1, fabric := bit (cf x 25 1) 0 }

theorem queueCreate_ok {s : State} {x : Cmd} {k : Domain} {r : Ring} (hb : Begun s x 0x7F) (hsub : cSub x = 3)
    (hk : tget s.domains (cf x 18 2) = some k) (hfree : tget s.queues (cf x 16 2) = none) (hr : tget s.rings (cf x 20 2) = some r)
    (hdom : r.domain = cf x 18 2) (hurg : ¬(cf x 24 1 = 0 ∧ k.urgRate = 0)) (hroom : slotsReserved s + cf x 22 2 ≤ 262144) :
    exec (.queueCreate x.id) s
      = .next (drainAll (finish x.id id { s with queues := tset s.queues (cf x 16 2) (queueOf x) })) := by
  have hrow : exec (.queueCreate x.id) s = .next (drainAll (freshRow x.id 0x7F (subIs 3) queueCreate s)) := rfl
  have hfits : ¬ slotsReserved s + cf x 22 2 > storeSlots := Nat.not_lt.2 hroom
  rw [hrow, freshRow_of_begun hb (subIs_of_cSub hsub), queueCreate]
  simp only [hk, hfree, hr, Option.isSome_none, Option.any_some, hdom, decide_true, Bool.not_true, Bool.false_eq_true, if_false,
    if_neg hurg, if_neg hfits]
  rfl

/-- The numbers, queues and sub-queries of the commands in the queue store, which nothing but arrival and completion changes. -/
def places (s : State) : List (Nat × Nat × Bool) := s.cmds.map (fun y => (y.id, y.queue, y.sub.isNone))

section
variable {s t : State} {c q : Nat} {f : Cmd → Cmd}

theorem places_cmdMod (hf : ∀ y, (f y).id = y.id ∧ (f y).queue = y.queue ∧ (f y).sub = y.sub) : places (cmdMod c f s) = places s := by
  rw [places, cmdMod_cmds, List.map_map]
  refine List.map_congr_left fun y _ => ?_
  obtain ⟨hid, hq, hs⟩ := hf y
  by_cases hy : y.id = c
  · simp [hy, hid, hq, hs]
  · simp [hy]

theorem places_finish (hf : ∀ y, (f y).id = y.id ∧ (f y).queue = y.queue ∧ (f y).sub = y.sub) : places (finish c f s) = places s := by
  have hfree : places (freeUnits c s) = places s :=
    places_cmdMod (f := fun x => { x with pool := 0, spill := [] }) (s := freeContexts c s) (fun _ => ⟨rfl, rfl, rfl⟩)
  exact (places_cmdMod (f := fun x => { f x with phase := .finished, work := .none }) hf).trans hfree

theorem places_takeTurn {x : Cmd} : places (takeTurn x s) = places s := by
  rw [takeTurn]
  split
  · rfl
  · exact places_cmdMod fun _ => ⟨rfl, rfl, rfl⟩

/-- Aborted commands stay in their queues until their records are posted. -/
theorem places_abortAll {p : Cmd → Bool} : places (abortAll p s) = places s :=
  inv_foldl (P := fun t => places t = places s)
    (fun _ _ ht => places_takeTurn.trans ((places_finish (f := fun z => { z with status := stAborted, result := 0 })
      fun _ => ⟨rfl, rfl, rfl⟩).trans ht)) rfl

theorem queueBusy_of_places (h : places t = places s) : queueBusy t q = queueBusy s q := by
  have hany : ∀ u, queueBusy u q = (places u).any (fun p => p.2.1 = q && p.2.2) := fun u => by
    rw [places, List.any_map]
    rfl
  rw [hany, hany, h]

theorem cmdGet_of_places {x : Cmd} (h : places t = places s) (hx : cmdGet s c = some x) : ∃ y, cmdGet t c = some y := by
  have hsome : ∀ u, (cmdGet u c).isSome = (places u).any (fun p => p.1 = c) := fun u => by
    rw [cmdGet, List.isSome_find?, places, List.any_map]
    rfl
  exact Option.isSome_iff_exists.1 (by rw [hsome, h, ← hsome, hx, Option.isSome_some])

/-- Where no command of the queue is left, nothing is aborted. -/
theorem abortAll_of_idle (h : queueBusy s q = false) : abortAll (fun y => y.queue = q) s = s := by
  have hnone : s.cmds.filter (fun y => y.phase = .waiting && y.sub.isNone && decide (y.queue = q)) = [] := by
    refine List.filter_eq_nil_iff.2 fun y hy => ?_
    have := List.any_eq_false.1 h y hy
    simp only [Bool.and_eq_true] at this ⊢
    tauto
  rw [abortAll, hnone]
  rfl

end

/-- The state in which QUEUE_DESTROY has closed its queue and aborted what waited in it (R90). -/
def queueClosed (q : Nat) (s : State) : State :=
  abortAll (fun y => y.queue = q) { s with queues := tmod s.queues q (fun r => { r with closing := true }) }

theorem places_queueClosed {q : Nat} {s : State} : places (queueClosed q s) = places s := places_abortAll

theorem queueClosed_queues {q : Nat} {s : State} : (queueClosed q s).queues = tmod s.queues q (fun r => { r with closing := true }) :=
  abortAll_keeps (κ := 13196354134016) rfl (keeps_refl
    (s₀ := { s with queues := tmod s.queues q (fun r => { r with closing := true }) })) .queues rfl

theorem queueDestroy_ok {s : State} {x : Cmd} {q : Queue} (hb : Begun s x 0x7F) (hsub : cSub x = 4)
    (hq : tget s.queues (cf x 16 2) = some q) (hopen : q.closing = false) :
    exec (.queueDestroy x.id) s = .next (drainAll (
      if queueBusy s (cf x 16 2) then setWork x.id (.wait 6 (cf x 16 2)) (queueClosed (cf x 16 2) s)
      else finish x.id id { queueClosed (cf x 16 2) s with queues := tdel (queueClosed (cf x 16 2) s).queues (cf x 16 2) })) := by
  obtain ⟨hrun, hwork⟩ := hb
  have hrow : exec (.queueDestroy x.id) s = .next (drainAll (match running s x.id 0x7F with
    | some x => if cSub x = 4 then queueDestroy x s else s
    | none => s)) := rfl
  have hbusy : queueBusy (queueClosed (cf x 16 2) s) (cf x 16 2) = queueBusy s (cf x 16 2) := queueBusy_of_places places_queueClosed
  rw [hrow, hrun]
  simp only [hsub, if_true, queueDestroy, hwork, hq, Option.any_some, hopen, Bool.not_false, Bool.not_true, Bool.false_eq_true, if_false]
  rw [← hbusy]
  rfl

/-! ## Completion rings -/

/-- The ring that CQ_CREATE makes: enabled when its context says so (R77). -/
def ringMade (x : Cmd) : Ring := if bit (cf x 33 1) 0 then ringEnable (ringCreated x) else ringCreated x

theorem ringMade_fields {x : Cmd} : (ringMade x).base = cf x 24 8 ∧ (ringMade x).enabled = bit (cf x 33 1) 0 ∧ (ringMade x).head = 0
    ∧ (ringMade x).tail = 0 := by
  rw [ringMade]
  split
  · next h => exact ⟨rfl, h.symm, rfl, rfl⟩
  · next h => exact ⟨rfl, (eq_false_of_ne_true h).symm, rfl, rfl⟩

section
variable {s : State} {x : Cmd}

theorem cqCreate_ok (hfree : tget s.rings (cf x 16 2) = none) (hctx : badCtx s (cf x 16 2) x = none) :
    settle x.id (cqCreate x s) = finish x.id id { s with rings := tset s.rings (cf x 16 2) (ringMade x) } := by
  rw [cqCreate, if_neg (by simp [hfree])]
  simp only [hctx]
  exact settle_done

theorem cqDestroy_ok (hring : (tget s.rings (cf x 16 2)).isSome = true) (hbound : s.queues.any (fun q => q.2.ring = cf x 16 2) = false) :
    settle x.id (cqDestroy x s) = finish x.id id { s with rings := tdel s.rings (cf x 16 2) } := by
  rw [cqDestroy, if_neg (by simp [← Option.isSome_iff_ne_none, hring, hbound]), settle_done]

theorem cqEnable_ok {r : Ring} (hr : tget s.rings (cf x 16 2) = some r)
    (hok : r.enabled = false → ctxValid s (.cq (cf x 16 2)) r true = true) :
    settle x.id (cqEnable x s) = finish x.id id { s with
      rings := tset s.rings (cf x 16 2) (if r.enabled then { r with faulted := false } else ringEnable r) } := by
  rw [cqEnable, hr]
  cases he : r.enabled with
  | true => simp [he, settle_done]
  | false => simp [he, hok he, settle_done]

end

/-- Settles O29: each row is its record or its end after one change of a table; QUEUE_DESTROY waits while a command of its queue is left. -/
theorem adminObjectRows : Obligations.AdminObjectRows := by
  unfold Obligations.AdminObjectRows
  refine ⟨fun s x hb hsub hfree hf => ?_, fun s x k hb hsub hk huse hf => ?_, fun s x k r hb hsub hk hfree hr hdom hurg hroom => ?_,
    fun s x q hb hsub hq hopen hbusy => ?_, fun s x q hb hsub hq hopen hbusy hone => ?_, fun s x hb hsub hfree hctx => ?_,
    fun s x hb hsub hring hbound => ?_, fun s x r hb hsub hr hok => ?_⟩
  · have hrow : exec (.domainCreate x.id) s = .next (drainAll (freshRow x.id 0x7F (subIs 1) domainCreate s)) := rfl
    rw [freshRow_of_begun hb (subIs_of_cSub hsub), domainCreate_ok hfree hf] at hrow
    refine ⟨_, domainOf x, hrow, journals_domainsPut hb.cmd hb.executing domainsPut_cmds rfl, ?_, fun n hn => ?_,
      rfl, rfl, rfl, rfl, rfl, rfl, rfl, rfl, rfl⟩
    · rw [finishJournaled_domains, domainsPut, tget_tset_same]
    · rw [finishJournaled_domains, domainsPut, tget_tset_other hn]
  · have hrow : exec (.domainDestroy x.id) s = .next (drainAll (freshRow x.id 0x7F (subIs 2) domainDestroy s)) := rfl
    rw [freshRow_of_begun hb (subIs_of_cSub hsub), domainDestroy_ok hk huse hf] at hrow
    have hdoms : (forgetDomain (cf x 16 2) (domainsPut s x (cf x 16 2) none (tdel s.domains (cf x 16 2)))).domains
        = tdel s.domains (cf x 16 2) := rfl
    refine ⟨_, hrow, journals_domainsPut (k := none) (t := tdel s.domains (cf x 16 2)) hb.cmd hb.executing
      (domainsPut_cmds (k := none) (t := tdel s.domains (cf x 16 2)) (d := cf x 16 2)) rfl, ?_, fun n hn => ?_, ?_⟩
    · rw [finishJournaled_domains, hdoms, tget_tdel, if_pos rfl]
    · rw [finishJournaled_domains, hdoms, tget_tdel, if_neg hn]
    · rw [finishJournaled_crook]
      exact forgetDomain_cache
  · refine ⟨_, queueOf x, queueCreate_ok hb hsub hk hfree hr hdom hurg hroom, endsWith_finish hb.cmd, ?_,
      rfl, rfl, rfl, rfl, rfl, rfl, rfl, rfl, fun n hn => ?_⟩
    · rw [finish_queues, tget_tset_same]
    · rw [finish_queues, tget_tset_other hn]
  · have hrow := queueDestroy_ok hb hsub hq hopen
    have hidle : queueClosed (cf x 16 2) s = { s with queues := tmod s.queues (cf x 16 2) (fun r => { r with closing := true }) } :=
      abortAll_of_idle hbusy
    rw [if_neg (ne_true_of_eq_false hbusy), hidle] at hrow
    refine ⟨_, hrow, endsWith_finish hb.cmd, ?_, fun n hn => ?_⟩
    · rw [finish_queues, tget_tdel, if_pos rfl]
    · rw [finish_queues, tget_tdel, if_neg hn, tget_tmod, if_neg hn]
  · have hrow := queueDestroy_ok hb hsub hq hopen
    rw [if_pos hbusy] at hrow
    obtain ⟨y, hy⟩ := cmdGet_of_places (places_queueClosed (q := cf x 16 2)) hb.cmd
    refine ⟨_, _, hrow, cmdGet_setWork hy, rfl, ?_⟩
    have hqs : (setWork x.id (.wait 6 (cf x 16 2)) (queueClosed (cf x 16 2) s)).queues = (queueClosed (cf x 16 2) s).queues := rfl
    rw [hqs, queueClosed_queues, tget_tmod, if_pos rfl, hq]
    rfl
  · have hrow : exec (.cqCreate x.id) s = .next (drainAll (freshRow x.id 0x7F (subIs 5) cqCreate s)) := rfl
    rw [freshRow_of_begun hb (subIs_of_cSub hsub), cqCreate_ok hfree hctx] at hrow
    obtain ⟨hbase, hen, hhead, htail⟩ := ringMade_fields (x := x)
    refine ⟨_, ringMade x, hrow, endsWith_finish hb.cmd, ?_, hbase, hen, hhead, htail, fun n hn => ?_⟩
    · rw [finish_rings, tget_tset_same]
    · rw [finish_rings, tget_tset_other hn]
  · have hrow : exec (.cqDestroy x.id) s = .next (drainAll (freshRow x.id 0x7F (subIs 6) cqDestroy s)) := rfl
    rw [freshRow_of_begun hb (subIs_of_cSub hsub), cqDestroy_ok hring hbound] at hrow
    refine ⟨_, hrow, endsWith_finish hb.cmd, ?_, fun n hn => ?_⟩
    · rw [finish_rings, tget_tdel, if_pos rfl]
    · rw [finish_rings, tget_tdel, if_neg hn]
  · have hrow : exec (.cqEnable x.id) s = .next (drainAll (freshRow x.id 0x7F (subIs 7) cqEnable s)) := rfl
    rw [freshRow_of_begun hb (subIs_of_cSub hsub), cqEnable_ok hr hok] at hrow
    refine ⟨_, hrow, endsWith_finish hb.cmd, ?_, fun n hn => ?_⟩
    · rw [finish_rings, tget_tset_same]
    · rw [finish_rings, tget_tset_other hn]

end Sys2Proof.Machine

/-! SUPPORT. Commits (R68, R70 to R73, Table 3.6). -/
namespace Sys2Proof.Machine

/-! ## Bytes -/

theorem leBytes_leNat {bs : List Byte} : leBytes bs.length (leNat bs) = bs := by
  induction bs with
  | nil => rfl
  | cons b t ih =>
    have hlow : BitVec.ofNat 8 (b.toNat + 256 * leNat t) = b := BitVec.eq_of_toNat_eq (by simp; omega)
    have hhigh : (b.toNat + 256 * leNat t) / 256 = leNat t := by have := b.isLt; omega
    rw [List.length_cons, leNat, leBytes, hlow, hhigh, ih]

theorem slice_end {bs : List Byte} {off n : Nat} (h : bs.length = off + n) : slice bs off n = bs.drop off := by
  refine List.ext_getElem (by simp [slice, h]) fun i hi _ => ?_
  have hlt : off + i < bs.length := by
    have : i < n := by simpa [slice] using hi
    omega
  simp [slice, List.getElem?_eq_getElem hlt]

/-- The fields of a structure's last bytes are those bytes. -/
theorem leBytes_fld_end {bs : List Byte} {off n : Nat} (h : bs.length = off + n) : leBytes n (fld bs off n) = bs.drop off := by
  have hlen : (bs.drop off).length = n := by simp [h]
  rw [fld, slice_end h]
  calc leBytes n (leNat (bs.drop off)) = leBytes (bs.drop off).length (leNat (bs.drop off)) := by rw [hlen]
    _ = bs.drop off := leBytes_leNat

theorem memRead_memWrite {m : List Host.Cell} {a n : Nat} {bs : List Byte} (hm : memWf m = true) (hn : bs.length = n) :
    memRead (memWrite m a bs) a n = bs := by
  subst hn
  exact List.ext_getElem (by simp [memRead]) fun i _ hi => by simp [memRead, memGet_memWrite_same hm hi]

/-! ## The check value (R70) -/

/-- The XOR of the four 16-bit pieces of a word. -/
theorem fold16 {x : BitVec 64} : (((x ^^^ (x >>> 16)) ^^^ (x >>> 32)) ^^^ (x >>> 48)).toNat % 2 ^ 16
    = (x.extractLsb' 0 16 ^^^ x.extractLsb' 16 16 ^^^ x.extractLsb' 32 16 ^^^ x.extractLsb' 48 16).toNat := by
  have hlow : ∀ y : BitVec 64, y.toNat % 2 ^ 16 = (y.extractLsb' 0 16).toNat := fun y => by simp
  rw [hlow]
  congr 1
  ext i hi
  simp [BitVec.getElem_extractLsb']

/-! ## Checks (Table 3.6) -/

section
variable {s : State} {q : Nat} {qu : Queue} {area : List Byte} {cw : Nat}

theorem commitReason_badSeq (hp : portTakes s = true) (hq : tget s.queues q = some qu) (ho : qu.closing = false)
    (hz : bits cw 63 32 = 0) (hs : bits cw 15 0 ≠ qu.nextSeq) : commitReason s q area cw = 0x02 := by
  simp [commitReason, hp, hq, ho, hz, hs]

theorem commitReason_badCheck (hp : portTakes s = true) (hq : tget s.queues q = some qu) (ho : qu.closing = false)
    (hz : bits cw 63 32 = 0) (hs : bits cw 15 0 = qu.nextSeq) (hc : bits cw 31 16 ≠ chkValue area) :
    commitReason s q area cw = 0x01 := by
  simp [commitReason, hp, hq, ho, hz, hs, hc]

theorem commitReason_none (hp : portTakes s = true) (hq : tget s.queues q = some qu) (ho : qu.closing = false)
    (hz : bits cw 63 32 = 0) (hs : bits cw 15 0 = qu.nextSeq) (hc : bits cw 31 16 = chkValue area) (hd : slotsUsed s q < qu.depth) :
    commitReason s q area cw = 0 := by
  simp [commitReason, hp, hq, ho, hz, hs, hc, hd]

end

/-! ## The write of a whole window -/

section
variable {s : State} {q : Nat} {qu : Queue} {data : List Byte}

/-- The state once the command area of a commit's write is stored in its window. -/
def areaStored (q : Nat) (data : List Byte) (s : State) : State := { s with windows := memWrite s.windows (q * 256) (data.take 0x78) }

theorem exec_commit (hq : q < 32768) (hlen : data.length = 128) : exec (.commit (256 * q) data) s
    = .next (drainAll (commitWord q true (fld data 0x78 8) (areaStored q data s))) := by
  have hrow : exec (.commit (256 * q) data) s = .next (windowWrite (data.length / 256 + 2) (256 * q % 2 ^ 23) data s) := rfl
  have hne : data ≠ [] := fun h => by simp [h] at hlen
  have hpart : windowPart q 0 data s = drainAll (commitWord q true (fld data 0x78 8) (areaStored q data s)) := by
    simp [windowPart, hlen, areaStored]
  rw [hrow, Nat.mod_eq_of_lt (by omega), show 256 * q = q * 256 + 0 by omega, windowWrite_one hne (by omega), hpart]

/-- The area that the commit reads back is the one it wrote, and no check reads the windows. -/
theorem commitWord_area (hlen : data.length = 128) (hwf : memWf s.windows = true) {cw : Nat} :
    commitWord q true cw (areaStored q data s) = clearWindow q (
      if commitReason s q (data.take 0x78) cw = 0 then acceptCommit q (data.take 0x78 ++ leBytes 8 cw) none [] (areaStored q data s)
      else rejectCommit q (commitReason s q (data.take 0x78) cw) (bits cw 15 0) (areaStored q data s)) := by
  have harea : windowArea (areaStored q data s) q = data.take 0x78 := memRead_memWrite hwf (by simp [hlen])
  rw [commitWord, harea]
  rfl

/-! ## Rejection (R73) -/

theorem rejectCommit_queues {reason seq : Nat} {t : State} : (rejectCommit q reason seq t).queues
    = tmod t.queues q (fun r => { r with rejects := min (r.rejects + 1) 0xFFFF, lastReason := reason }) :=
  raise_keeps (κ := 2684485832) rfl (blkFault_keeps rfl (bumpSat_keeps rfl (keeps_refl (s₀ := { t with
    queues := tmod t.queues q (fun r => { r with rejects := min (r.rejects + 1) 0xFFFF, lastReason := reason }) })))) .queues rfl

/-- A commit that fails a check takes no slot, and the queue keeps its next_seq. -/
theorem exec_commit_rejected {n : Nat} (hq : q < 32768) (hlen : data.length = 128) (hqu : tget s.queues q = some qu)
    (hwf : memWf s.windows = true) (hr : commitReason s q (data.take 120) (fld data 120 8) = n) (hn : n ≠ 0) :
    ∃ t, exec (.commit (256 * q) data) s = .next t ∧ t.cmds = s.cmds
      ∧ tget t.queues q = some { qu with rejects := min (qu.rejects + 1) 0xFFFF, lastReason := n } := by
  have hrow := exec_commit (s := s) hq hlen
  rw [commitWord_area hlen hwf, hr, if_neg hn] at hrow
  have hend : Keeps 4328664 (rejectCommit q n (bits (fld data 0x78 8) 15 0) (areaStored q data s))
      (drainAll (clearWindow q (rejectCommit q n (bits (fld data 0x78 8) 15 0) (areaStored q data s)))) :=
    drainAll_keeps rfl (clearWindow_keeps rfl keeps_refl)
  refine ⟨_, hrow, ?_, ?_⟩
  · exact (hend .cmds rfl).trans (rejectCommit_keeps (κ := 2684489928) rfl (keeps_refl (s₀ := areaStored q data s)) .cmds rfl)
  · have hqs : (areaStored q data s).queues = s.queues := rfl
    rw [hend .queues rfl, rejectCommit_queues, tget_tmod, if_pos rfl, hqs, hqu]
    rfl

/-! ## Acceptance (R71, R73) -/

/-- Translating ahead records the entries held and a fault found, and leaves the rest of the command (R367). -/
theorem translateAhead_fst {w : Who} {l : List (Nat × Bool)} {x : Cmd} {t : State} :
    ∃ h f, (translateAhead w l x t).1 = { x with held := h, xfault := f } := by
  induction l generalizing x t with
  | nil => exact ⟨x.held, x.xfault, rfl⟩
  | cons p l ih =>
    obtain ⟨va, wr⟩ := p
    rw [translateAhead]
    split
    · split
      · split
        · exact ih (x := { x with held := _ })
        · exact ih
      · exact ih
    · exact ih
    · exact ih (x := { x with xfault := _ })

/-- The command as it stands in the queue store after its acceptance. -/
structure Arrived (s t : State) (q : Nat) (bytes : List Byte) (x : Cmd) : Prop where
  mem     : x ∈ t.cmds
  others  : ∀ y ∈ s.cmds, y.id ≠ s.nextCmd → y ∈ t.cmds
  id      : x.id = s.nextCmd
  queue   : x.queue = q
  bytes   : x.bytes = bytes
  phase   : x.phase = .waiting
  arrival : x.arrival = s.now

theorem Arrived.of_cmds {t u : State} {x : Cmd} {bytes : List Byte} (h : Arrived s t q bytes x) (hu : u.cmds = t.cmds) :
    Arrived s u q bytes x := by
  obtain ⟨hmem, hothers, hid, hqueue, hbytes, hphase, harr⟩ := h
  exact ⟨by rw [hu]; exact hmem, by rw [hu]; exact hothers, hid, hqueue, hbytes, hphase, harr⟩

theorem Arrived.of_areaStored {t : State} {x : Cmd} {bytes : List Byte} (h : Arrived (areaStored q data s) t q bytes x) :
    Arrived s t q bytes x := by
  obtain ⟨hmem, hothers, hid, hqueue, hbytes, hphase, harr⟩ := h
  exact ⟨hmem, hothers, hid, hqueue, hbytes, hphase, harr⟩

/-- A command that has been put into the queue store with the next number stands there after its translation ahead. -/
theorem arrived_cmdPut {t u : State} {x y : Cmd} {bytes : List Byte} {h : List (Nat × Nat)} {f : Option (Nat × Nat)}
    (hx : Arrived s t q bytes x) (hy : y = { x with held := h, xfault := f }) (hu : u.cmds = t.cmds) :
    Arrived s (cmdPut y u) q bytes y := by
  obtain ⟨hmem, hothers, hid, hqueue, hbytes, hphase, harr⟩ := hx
  have hyid : y.id = x.id := by rw [hy]
  have hcmds : (cmdPut y u).cmds = t.cmds.map (fun z => if z.id = y.id then y else z) := by rw [cmdPut, cmdMod_cmds, hu]
  refine ⟨?_, fun z hz hne => ?_, hyid.trans hid, ?_, ?_, ?_, ?_⟩
  · rw [hcmds]
    exact List.mem_map.2 ⟨x, hmem, if_pos hyid.symm⟩
  · rw [hcmds]
    exact List.mem_map.2 ⟨z, hothers z hz hne, if_neg (by rw [hyid, hid]; exact hne)⟩
  all_goals rw [hy]; assumption

theorem acceptCommit_ok {bytes dataIn : List Byte} {peer : Option Nat} {s : State} :
    (∃ x, Arrived s (acceptCommit q bytes peer dataIn s) q bytes x)
      ∧ (acceptCommit q bytes peer dataIn s).nextCmd = s.nextCmd + 1
      ∧ (acceptCommit q bytes peer dataIn s).queues = tmod s.queues q (fun r => { r with nextSeq := (r.nextSeq + 1) % 65536 }) := by
  have hput : ∃ x t, acceptCommit q bytes peer dataIn s = (if (whoOf t x).remote.isSome then t
        else cmdPut (translateAhead (whoOf t x) (cmdAddrs x ++ ringPage t q) x t).1
          (translateAhead (whoOf t x) (cmdAddrs x ++ ringPage t q) x t).2)
      ∧ Arrived s t q bytes x ∧ t.nextCmd = s.nextCmd + 1
      ∧ t.queues = tmod s.queues q (fun r => { r with nextSeq := (r.nextSeq + 1) % 65536 }) :=
    ⟨_, _, rfl, ⟨List.mem_append_right _ (List.mem_singleton.2 rfl), fun _ hy _ => List.mem_append_left _ hy, rfl, rfl, rfl, rfl, rfl⟩,
      rfl, rfl⟩
  obtain ⟨x, t, he, hx, hnext, hqueues⟩ := hput
  rw [he]
  split
  · exact ⟨⟨x, hx⟩, hnext, hqueues⟩
  · obtain ⟨h, f, hfst⟩ := translateAhead_fst (w := whoOf t x) (l := cmdAddrs x ++ ringPage t q) (x := x) (t := t)
    have hk := translateAhead_keeps (κ := 4194504) (w := whoOf t x) (y0 := cmdAddrs x ++ ringPage t q) (y1 := x) rfl
      (keeps_refl (s₀ := t))
    generalize translateAhead (whoOf t x) (cmdAddrs x ++ ringPage t q) x t = p at hfst hk
    exact ⟨⟨_, arrived_cmdPut hx hfst (hk .cmds rfl)⟩, (hk .nextCmd rfl).trans hnext, (hk .queues rfl).trans hqueues⟩

theorem acceptCommit_windows {bytes dataIn : List Byte} {peer : Option Nat} {s : State} :
    (acceptCommit q bytes peer dataIn s).windows = s.windows :=
  acceptCommit_keeps (κ := 4223176) rfl (keeps_refl (s₀ := s)) .windows rfl

/-- A commit that passes the checks puts its 128 bytes into the queue store. -/
theorem exec_commit_accepted (hq : q < 32768) (hlen : data.length = 128) (hwf : memWf s.windows = true)
    (hr : commitReason s q (data.take 120) (fld data 120 8) = 0) :
    ∃ t x, exec (.commit (256 * q) data) s = .next t ∧ Arrived s t q data x ∧ t.nextCmd = s.nextCmd + 1
      ∧ t.queues = tmod s.queues q (fun r => { r with nextSeq := (r.nextSeq + 1) % 65536 }) := by
  have hrow := exec_commit (s := s) hq hlen
  rw [commitWord_area hlen hwf, hr, if_pos rfl, leBytes_fld_end (off := 0x78) (n := 8) hlen, List.take_append_drop] at hrow
  obtain ⟨⟨x, hx⟩, hnext, hqueues⟩ :=
    acceptCommit_ok (q := q) (bytes := data) (peer := none) (dataIn := []) (s := areaStored q data s)
  generalize acceptCommit q data none [] (areaStored q data s) = u at hrow hx hnext hqueues
  have hend : Keeps 4328664 u (drainAll (clearWindow q u)) := drainAll_keeps rfl (clearWindow_keeps rfl keeps_refl)
  exact ⟨_, x, hrow, hx.of_areaStored.of_cmds (hend .cmds rfl), (hend .nextCmd rfl).trans hnext, (hend .queues rfl).trans hqueues⟩

/-! ## The command area afterwards (R72) -/

theorem memGet_clearWindow {a : Nat} {t : State} :
    memGet (clearWindow q t).windows a = if q * 256 ≤ a && a < q * 256 + 0x78 then 0 else memGet t.windows a :=
  memGet_filter (p := fun a => q * 256 ≤ a && a < q * 256 + 0x78)

theorem commitWord_windows {whole : Bool} {cw a : Nat} {t : State} :
    memGet (commitWord q whole cw t).windows a = if q * 256 ≤ a && a < q * 256 + 0x78 then 0 else memGet t.windows a := by
  rw [commitWord, memGet_clearWindow]
  split
  · rfl
  · exact congrArg (memGet · a) (inv_ite (P := fun u => u.windows = t.windows) acceptCommit_windows
      (rejectCommit_keeps (κ := 2684489928) rfl (keeps_refl (s₀ := t)) .windows rfl))

/-- After a commit the command area reads zero, and the rest of the windows as before. -/
theorem exec_commit_windows (hq : q < 32768) (hlen : data.length = 128) {t : State} (h : exec (.commit (256 * q) data) s = .next t) :
    (∀ i, i < 120 → memGet t.windows (256 * q + i) = 0)
      ∧ (∀ a, a < 256 * q ∨ 256 * q + 120 ≤ a → memGet t.windows a = memGet s.windows a) := by
  obtain rfl := Host.Outcome.next.inj ((exec_commit hq hlen).symm.trans h)
  have hget : ∀ a, memGet (drainAll (commitWord q true (fld data 0x78 8) (areaStored q data s))).windows a
      = if q * 256 ≤ a && a < q * 256 + 0x78 then 0 else memGet (areaStored q data s).windows a := fun a => by
    rw [drainAll_keeps (κ := 4326616) rfl keeps_refl .windows rfl, commitWord_windows]
  refine ⟨fun i hi => ?_, fun a ha => ?_⟩
  · rw [hget, if_pos (by simp; omega)]
  · rw [hget, if_neg (by simp; omega)]
    exact memGet_memWrite_other (by simp [hlen]; omega)

end

/-! ## The statements -/

/-- Settles O14: the fold over the fifteen words starts from zero, and the check comes after that of next_seq. -/
theorem commitCheckValue : Obligations.CommitCheckValue := by
  unfold Obligations.CommitCheckValue
  refine ⟨fun area => ?_, fun q data s qu hq hlen hqu hwf hp ho hz hs hc => ?_⟩
  · intro w x
    have hx : (List.range 15).foldl (fun (a : Word64) i => a ^^^ BitVec.ofNat 64 (fld area (8 * i) 8)) 0 = x :=
      congrArg (fun y => y ^^^ w 1 ^^^ w 2 ^^^ w 3 ^^^ w 4 ^^^ w 5 ^^^ w 6 ^^^ w 7 ^^^ w 8 ^^^ w 9 ^^^ w 10 ^^^ w 11
          ^^^ w 12 ^^^ w 13 ^^^ w 14) (BitVec.zero_xor (x := w 0))
    rw [chkValue, hx]
    exact fold16
  · exact exec_commit_rejected hq hlen hqu hwf (commitReason_badCheck hp hqu ho hz hs hc) (by decide)

/-- Settles O15: QUEUE_CREATE starts from the queue of R87, an accepted commit raises next_seq, and a rejected one leaves it. -/
theorem nextSequence : Obligations.NextSequence := by
  unfold Obligations.NextSequence
  refine ⟨fun s x k r hb hsub hk hfree hr hdom hurg hroom => ?_, fun q data s qu hq hlen hqu hwf hok => ?_,
    fun q data s qu hq hlen hqu hwf hp ho hz hs => ?_⟩
  · exact ⟨_, queueOf x, queueCreate_ok hb hsub hk hfree hr hdom hurg hroom, by rw [finish_queues, tget_tset_same], rfl⟩
  · obtain ⟨t, x, ht, -, -, hqs⟩ := exec_commit_accepted hq hlen hwf hok
    exact ⟨t, _, ht, by rw [hqs, tget_tmod, if_pos rfl, hqu, Option.map_some], rfl⟩
  · exact exec_commit_rejected hq hlen hqu hwf (commitReason_badSeq hp hqu ho hz hs) (by decide)

/-- Settles O16: accepting and rejecting leave the windows, and the area is cleared after either. -/
theorem windowCleared : Obligations.WindowCleared := by
  unfold Obligations.WindowCleared
  intro q data s hq hlen _
  exact ⟨_, exec_commit hq hlen, exec_commit_windows hq hlen (exec_commit hq hlen)⟩

/-- Settles O17: no check of Table 3.6 fails, so the command is accepted. -/
theorem commitAccepted : Obligations.CommitAccepted := by
  unfold Obligations.CommitAccepted
  intro q data s qu hq hlen hqu hp ho hwf hz hs hc hd
  obtain ⟨t, x, ht, hx, hnext, hqs⟩ := exec_commit_accepted hq hlen hwf (commitReason_none hp hqu ho hz hs hc hd)
  obtain ⟨hzero, -⟩ := exec_commit_windows hq hlen ht
  refine ⟨t, x, ht, hx.mem, hx.others, hx.id, hx.queue, hx.bytes, hx.phase, hx.arrival, hnext, ?_, fun n hn => ?_, hzero⟩
  · rw [hqs, tget_tmod, if_pos rfl, hqu, Option.map_some]
  · rw [hqs, tget_tmod, if_neg hn]

end Sys2Proof.Machine

/-! SUPPORT. The parts of the state that each command may write, for all commands at once. -/
namespace Sys2Proof.Machine

theorem out_eq_next {P : State → Prop} {o : Host.Outcome State Fault Refusal} {t : State} (h : o = .next t) (ho : OutInv P o) : P t := by
  subst h; cases ho; assumption

/-- Each command's own lemma bounds what it may write, and the parts that `touched` lists for it cover that. -/
theorem exec_keeps_touched {i : Instr} {s : State} : OutInv (Keeps (maskOf (touched i)) s) (exec i s) := by
  cases i <;> dsimp only [touched]
  case commit => exact execCommit_keeps (by decide) keeps_refl
  case cqHeadWrite => exact execCqHeadWrite_keeps (by decide) keeps_refl
  case evrHeadWrite => exact execEvrHeadWrite_keeps (by decide) keeps_refl
  case ringContextWord0Write => exact execRingContextWord0Write_keeps (by decide) keeps_refl
  case ringContextWord1Write => exact execRingContextWord1Write_keeps (by decide) keeps_refl
  case ringZeroingDone => exact execRingZeroingDone_keeps (by decide) keeps_refl
  case portEnableWrite => exact execPortEnableWrite_keeps (by decide) keeps_refl
  case blkErrClear => exact execBlkErrClear_keeps (by decide) keeps_refl
  case boreDebugWrite => exact execBoreDebugWrite_keeps (by decide) keeps_refl
  case crkBootLenWrite => exact execCrkBootLenWrite_keeps (by decide) keeps_refl
  case wwyLedgerSelWrite => exact execWwyLedgerSelWrite_keeps (by decide) keeps_refl
  case blwCalSelWrite => exact execBlwCalSelWrite_keeps (by decide) keeps_refl
  case blwOfsTrimWrite => exact execBlwOfsTrimWrite_keeps (by decide) keeps_refl
  case blwOfsTapWrite => exact execBlwOfsTapWrite_keeps (by decide) keeps_refl
  case registerWrite => exact execRegisterWrite_keeps (by decide) keeps_refl
  case startDecision => exact execStartDecision_keeps (by decide) keeps_refl
  case refusalScan => exact execRefusalScan_keeps (by decide) keeps_refl
  case completionPost => exact execCompletionPost_keeps (by decide) keeps_refl
  case coalesceTimerExpiry => exact execCoalesceTimerExpiry_keeps (by decide) keeps_refl
  case msixUnmask => exact execMsixUnmask_keeps (by decide) keeps_refl
  case nop => exact execNop_keeps (by decide) keeps_refl
  case flush => exact execFlush_keeps (by decide) keeps_refl
  case barrier => exact execBarrier_keeps (by decide) keeps_refl
  case collCreate => exact execCollCreate_keeps (by decide) keeps_refl
  case collDrop => exact execCollDrop_keeps (by decide) keeps_refl
  case collQuery => exact execCollQuery_keeps (by decide) keeps_refl
  case collConfigPlacement => exact execCollConfigPlacement_keeps (by decide) keeps_refl
  case collConfigIndexKind => exact execCollConfigIndexKind_keeps (by decide) keeps_refl
  case collConfigGrant => exact execCollConfigGrant_keeps (by decide) keeps_refl
  case collConfigRevoke => exact execCollConfigRevoke_keeps (by decide) keeps_refl
  case insert => exact execInsert_keeps (by decide) keeps_refl
  case insertBatch => exact execInsertBatch_keeps (by decide) keeps_refl
  case delete => exact execDelete_keeps (by decide) keeps_refl
  case upsert => exact execUpsert_keeps (by decide) keeps_refl
  case lookup => exact execLookup_keeps (by decide) keeps_refl
  case setAttr => exact execSetAttr_keeps (by decide) keeps_refl
  case journalWrite => exact execJournalWrite_keeps (by decide) keeps_refl
  case searchFlat => exact execSearchFlat_keeps (by decide) keeps_refl
  case searchGraph => exact execSearchGraph_keeps (by decide) keeps_refl
  case searchFanout => exact execSearchFanout_keeps (by decide) keeps_refl
  case searchBatch => exact execSearchBatch_keeps (by decide) keeps_refl
  case rerank => exact execRerank_keeps (by decide) keeps_refl
  case encode => exact execEncode_keeps (by decide) keeps_refl
  case progLoadLoad => exact execProgLoadLoad_keeps (by decide) keeps_refl
  case progLoadRetire => exact execProgLoadRetire_keeps (by decide) keeps_refl
  case tableLoad => exact execTableLoad_keeps (by decide) keeps_refl
  case tableSwap => exact execTableSwap_keeps (by decide) keeps_refl
  case consolidateFold => exact execConsolidateFold_keeps (by decide) keeps_refl
  case consolidateCompact => exact execConsolidateCompact_keeps (by decide) keeps_refl
  case consolidateSet => exact execConsolidateSet_keeps (by decide) keeps_refl
  case consolidateReport => exact execConsolidateReport_keeps (by decide) keeps_refl
  case reencode => exact execReencode_keeps (by decide) keeps_refl
  case checkpointNow => exact execCheckpointNow_keeps (by decide) keeps_refl
  case checkpointSetInterval => exact execCheckpointSetInterval_keeps (by decide) keeps_refl
  case exportCmd => exact execExportCmd_keeps (by decide) keeps_refl
  case importCmd => exact execImportCmd_keeps (by decide) keeps_refl
  case xlatInvalidate => exact execXlatInvalidate_keeps (by decide) keeps_refl
  case regionRegister => exact execRegionRegister_keeps (by decide) keeps_refl
  case regionRelease => exact execRegionRelease_keeps (by decide) keeps_refl
  case readDeferred => exact execReadDeferred_keeps (by decide) keeps_refl
  case readLog => exact execReadLog_keeps (by decide) keeps_refl
  case domainCreate => exact execDomainCreate_keeps (by decide) keeps_refl
  case domainDestroy => exact execDomainDestroy_keeps (by decide) keeps_refl
  case queueCreate => exact execQueueCreate_keeps (by decide) keeps_refl
  case queueDestroy => exact execQueueDestroy_keeps (by decide) keeps_refl
  case cqCreate => exact execCqCreate_keeps (by decide) keeps_refl
  case cqDestroy => exact execCqDestroy_keeps (by decide) keeps_refl
  case cqEnable => exact execCqEnable_keeps (by decide) keeps_refl
  case classConfig => exact execClassConfig_keeps (by decide) keeps_refl
  case abort => exact execAbort_keeps (by decide) keeps_refl
  case adminSetTime => exact execAdminSetTime_keeps (by decide) keeps_refl
  case queryLimits => exact execQueryLimits_keeps (by decide) keeps_refl
  case keyLoad => exact execKeyLoad_keeps (by decide) keeps_refl
  case keyClear => exact execKeyClear_keeps (by decide) keeps_refl
  case fabricKey => exact execFabricKey_keeps (by decide) keeps_refl
  case accountRead => exact execAccountRead_keeps (by decide) keeps_refl
  case securityState => exact execSecurityState_keeps (by decide) keeps_refl
  case slideIssue => exact execSlideIssue_keeps (by decide) keeps_refl
  case transferLanded => exact execTransferLanded_keeps (by decide) keeps_refl
  case blockListPieceArrival => exact execBlockListPieceArrival_keeps (by decide) keeps_refl
  case streamDeadlock => exact execStreamDeadlock_keeps (by decide) keeps_refl
  case resourceWaitTimeout => exact execResourceWaitTimeout_keeps (by decide) keeps_refl
  case scanBlockScored => exact execScanBlockScored_keeps (by decide) keeps_refl
  case localListHandover => exact execLocalListHandover_keeps (by decide) keeps_refl
  case valveMerge => exact execValveMerge_keeps (by decide) keeps_refl
  case spillReduction => exact execSpillReduction_keeps (by decide) keeps_refl
  case walkRoundCommit => exact execWalkRoundCommit_keeps (by decide) keeps_refl
  case deadlineCut => exact execDeadlineCut_keeps (by decide) keeps_refl
  case contextMoved => exact execContextMoved_keeps (by decide) keeps_refl
  case boreRegionDrained => exact execBoreRegionDrained_keeps (by decide) keeps_refl
  case splitCombine => exact execSplitCombine_keeps (by decide) keeps_refl
  case accParityError => exact execAccParityError_keeps (by decide) keeps_refl
  case columnSpared => exact execColumnSpared_keeps (by decide) keeps_refl
  case barrierAcknowledged => exact execBarrierAcknowledged_keeps (by decide) keeps_refl
  case foldStart => exact execFoldStart_keeps (by decide) keeps_refl
  case foldAgeExpiry => exact execFoldAgeExpiry_keeps (by decide) keeps_refl
  case foldCommit => exact execFoldCommit_keeps (by decide) keeps_refl
  case slotRelease => exact execSlotRelease_keeps (by decide) keeps_refl
  case patchApply => exact execPatchApply_keeps (by decide) keeps_refl
  case compactionTrigger => exact execCompactionTrigger_keeps (by decide) keeps_refl
  case tombstoneSettlement => exact execTombstoneSettlement_keeps (by decide) keeps_refl
  case reencodeStep => exact execReencodeStep_keeps (by decide) keeps_refl
  case reencodeDone => exact execReencodeDone_keeps (by decide) keeps_refl
  case repartition => exact execRepartition_keeps (by decide) keeps_refl
  case indexBuild => exact execIndexBuild_keeps (by decide) keeps_refl
  case autoEvaluation => exact execAutoEvaluation_keeps (by decide) keeps_refl
  case dataRepaired => exact execDataRepaired_keeps (by decide) keeps_refl
  case tablePaused => exact execTablePaused_keeps (by decide) keeps_refl
  case tableResumed => exact execTableResumed_keeps (by decide) keeps_refl
  case tierUe => exact execTierUe_keeps (by decide) keeps_refl
  case tierScrub => exact execTierScrub_keeps (by decide) keeps_refl
  case rowRepaired => exact execRowRepaired_keeps (by decide) keeps_refl
  case unitSelfTest => exact execUnitSelfTest_keeps (by decide) keeps_refl
  case unitRetired => exact execUnitRetired_keeps (by decide) keeps_refl
  case unitHang => exact execUnitHang_keeps (by decide) keeps_refl
  case unitReturn => exact execUnitReturn_keeps (by decide) keeps_refl
  case unitSleep => exact execUnitSleep_keeps (by decide) keeps_refl
  case unitWake => exact execUnitWake_keeps (by decide) keeps_refl
  case monitorSample => exact execMonitorSample_keeps (by decide) keeps_refl
  case floorWindow => exact execFloorWindow_keeps (by decide) keeps_refl
  case floorLost => exact execFloorLost_keeps (by decide) keeps_refl
  case floorRestored => exact execFloorRestored_keeps (by decide) keeps_refl
  case paceWear => exact execPaceWear_keeps (by decide) keeps_refl
  case phaseSpared => exact execPhaseSpared_keeps (by decide) keeps_refl
  case powerSample => exact execPowerSample_keeps (by decide) keeps_refl
  case powerPeak => exact execPowerPeak_keeps (by decide) keeps_refl
  case temperatureSample => exact execTemperatureSample_keeps (by decide) keeps_refl
  case coolantValveUpdate => exact execCoolantValveUpdate_keeps (by decide) keeps_refl
  case blwFloorWrite => exact execBlwFloorWrite_keeps (by decide) keeps_refl
  case blwCapWrite => exact execBlwCapWrite_keeps (by decide) keeps_refl
  case blwVtargetWrite => exact execBlwVtargetWrite_keeps (by decide) keeps_refl
  case blwGuardWrite => exact execBlwGuardWrite_keeps (by decide) keeps_refl
  case ucalSave => exact execUcalSave_keeps (by decide) keeps_refl
  case ucalSaveDone => exact execUcalSaveDone_keeps (by decide) keeps_refl
  case ucalFactory => exact execUcalFactory_keeps (by decide) keeps_refl
  case stripeProgrammed => exact execStripeProgrammed_keeps (by decide) keeps_refl
  case drainTimeout => exact execDrainTimeout_keeps (by decide) keeps_refl
  case journalPoison => exact execJournalPoison_keeps (by decide) keeps_refl
  case checkpointTimer => exact execCheckpointTimer_keeps (by decide) keeps_refl
  case checkpointDone => exact execCheckpointDone_keeps (by decide) keeps_refl
  case logCleaning => exact execLogCleaning_keeps (by decide) keeps_refl
  case flashScrub => exact execFlashScrub_keeps (by decide) keeps_refl
  case memberFailed => exact execMemberFailed_keeps (by decide) keeps_refl
  case rebuildDone => exact execRebuildDone_keeps (by decide) keeps_refl
  case stripeLost => exact execStripeLost_keeps (by decide) keeps_refl
  case holdupMeasurement => exact execHoldupMeasurement_keeps (by decide) keeps_refl
  case holdupChargeTimeout => exact execHoldupChargeTimeout_keeps (by decide) keeps_refl
  case holdupThresholdReached => exact execHoldupThresholdReached_keeps (by decide) keeps_refl
  case powerLoss => exact execPowerLoss_keeps (by decide) keeps_refl
  case dumpSealed => exact execDumpSealed_keeps (by decide) keeps_refl
  case pwrfailAssert => exact execPwrfailAssert_keeps (by decide) keeps_refl
  case overvoltage => exact execOvervoltage_keeps (by decide) keeps_refl
  case mateBreak => exact execMateBreak_keeps (by decide) keeps_refl
  case inputSwitchClose => exact execInputSwitchClose_keeps (by decide) keeps_refl
  case coldStart => exact execColdStart_keeps (by decide) keeps_refl
  case restartAfterSeal => exact execRestartAfterSeal_keeps (by decide) keeps_refl
  case warmReset => exact execWarmReset_keeps (by decide) keeps_refl
  case perstBeforeReady => exact execPerstBeforeReady_keeps (by decide) keeps_refl
  case functionLevelReset => exact execFunctionLevelReset_keeps (by decide) keeps_refl
  case resetReportPost => exact execResetReportPost_keeps (by decide) keeps_refl
  case linkChanged => exact execLinkChanged_keeps (by decide) keeps_refl
  case fatalError => exact execFatalError_keeps (by decide) keeps_refl
  case atsTranslationCompletion => exact execAtsTranslationCompletion_keeps (by decide) keeps_refl
  case pageRequestResponse => exact execPageRequestResponse_keeps (by decide) keeps_refl
  case pageRequestTimeout => exact execPageRequestTimeout_keeps (by decide) keeps_refl
  case regionTableReadDone => exact execRegionTableReadDone_keeps (by decide) keeps_refl
  case atsInvalidateRequest => exact execAtsInvalidateRequest_keeps (by decide) keeps_refl
  case invalidationDrained => exact execInvalidationDrained_keeps (by decide) keeps_refl
  case atsEnableCleared => exact execAtsEnableCleared_keeps (by decide) keeps_refl
  case laneSpared => exact execLaneSpared_keeps (by decide) keeps_refl
  case cablePresenceChange => exact execCablePresenceChange_keeps (by decide) keeps_refl
  case portState => exact execPortState_keeps (by decide) keeps_refl
  case hello => exact execHello_keeps (by decide) keeps_refl
  case helloAck => exact execHelloAck_keeps (by decide) keeps_refl
  case close => exact execClose_keeps (by decide) keeps_refl
  case ack => exact execAck_keeps (by decide) keeps_refl
  case resendTimeout => exact execResendTimeout_keeps (by decide) keeps_refl
  case connectionDown => exact execConnectionDown_keeps (by decide) keeps_refl
  case helloRetry => exact execHelloRetry_keeps (by decide) keeps_refl
  case rateIncrease => exact execRateIncrease_keeps (by decide) keeps_refl
  case subq => exact execSubq_keeps (by decide) keeps_refl
  case subres => exact execSubres_keeps (by decide) keeps_refl
  case rcmd => exact execRcmd_keeps (by decide) keeps_refl
  case rcpl => exact execRcpl_keeps (by decide) keeps_refl
  case reject _ q _ n => exact execReject_keeps (_q := q) (_nextSeq := n) (by decide) keeps_refl
  case event => exact execEvent_keeps (by decide) keeps_refl
  case mrec => exact execMrec_keeps (by decide) keeps_refl
  case mack => exact execMack_keeps (by decide) keeps_refl
  case mfetch => exact execMfetch_keeps (by decide) keeps_refl
  case mtrim => exact execMtrim_keeps (by decide) keeps_refl
  case mirrorTimeout => exact execMirrorTimeout_keeps (by decide) keeps_refl
  case cstPeerCtlWrite => exact execCstPeerCtlWrite_keeps (by decide) keeps_refl
  case cstMirrorWrite => exact execCstMirrorWrite_keeps (by decide) keeps_refl
  case cstShardWrite => exact execCstShardWrite_keeps (by decide) keeps_refl
  case getState => exact execGetState_keeps (by decide) keeps_refl
  case off => exact execOff_keeps (by decide) keeps_refl
  case coldReset => exact execColdReset_keeps (by decide) keeps_refl
  case mgmtWarmReset => exact execMgmtWarmReset_keeps (by decide) keeps_refl
  case holdSet => exact execHoldSet_keeps (by decide) keeps_refl
  case holdClear => exact execHoldClear_keeps (by decide) keeps_refl
  case format => exact execFormat_keeps (by decide) keeps_refl
  case mgmtSetTime => exact execMgmtSetTime_keeps (by decide) keeps_refl
  case kekSet => exact execKekSet_keeps (by decide) keeps_refl
  case debugEnable => exact execDebugEnable_keeps (by decide) keeps_refl
  case firmwareUpdate => exact execFirmwareUpdate_keeps (by decide) keeps_refl
  case activateFirmware => exact execActivateFirmware_keeps (by decide) keeps_refl
  case spdmRequest => exact execSpdmRequest_keeps (by decide) keeps_refl
  case spdmSessionTimeout => exact execSpdmSessionTimeout_keeps (by decide) keeps_refl
  case registerRead => exact execRegisterRead_keeps (by decide) keeps_refl
  case urgTokenBucketFill => exact execUrgTokenBucketFill_keeps (by decide) keeps_refl
  case slideBucketFill => exact execSlideBucketFill_keeps (by decide) keeps_refl
  case checkpointWaitExpiry => exact execCheckpointWaitExpiry_keeps (by decide) keeps_refl
  case nodeReadArrival => exact execNodeReadArrival_keeps (by decide) keeps_refl
  case perstDeassert => exact execPerstDeassert_keeps (by decide) keeps_refl
  case managementControllerPowerUp => exact execManagementControllerPowerUp_keeps (by decide) keeps_refl
  case priEnableSet => exact execPriEnableSet_keeps (by decide) keeps_refl
  case mctpControl => exact execMctpControl_keeps (by decide) keeps_refl
  case pldmSetEventReceiver => exact execPldmSetEventReceiver_keeps (by decide) keeps_refl
  case addressResolutionRequest => exact execAddressResolutionRequest_keeps (by decide) keeps_refl
  case dataPacket _ _ port _ _ _ => exact execDataPacket_keeps (_port := port) (by decide) keeps_refl
  case ackDelayTimer => exact execAckDelayTimer_keeps (by decide) keeps_refl
  case mapSaveDone => exact execMapSaveDone_keeps (by decide) keeps_refl
/-- Settles O7: a command leaves the parts whose bit is not in the mask of what it touches. -/
theorem commandFrames : Obligations.CommandFrames := by
  unfold Obligations.CommandFrames
  exact fun i s t h => frame_of_keeps (out_eq_next h exec_keeps_touched)

end Sys2Proof.Machine

/-! SUPPORT. The register file at reset (R494, R496), and the values that stand there. -/
namespace Sys2Proof.Machine

/-- A BAR0 offset gives back the page and the offset in it that it is made of. -/
theorem regAt_reg {b : Blk} {i off : Nat} (hp : pageBlk (blkPage b i) = some (b, i)) (ho : off < 4096) :
    regAt (reg b i off) = (regDef b i off).map (fun r => (b, i, r)) := by
  have hpage : reg b i off / 4096 = blkPage b i := by unfold reg pageReg; omega
  have hoff : reg b i off % 4096 = off := by unfold reg pageReg; omega
  rw [regAt, hpage, hoff, hp]

theorem regReset_reg {b : Blk} {i off : Nat} {d : RegDef} (hp : pageBlk (blkPage b i) = some (b, i)) (ho : off < 4096)
    (hd : regDef b i off = some d) : regReset (reg b i off) = BitVec.ofNat 64 d.reset := by
  rw [regReset, regAt_reg hp ho, hd]
  rfl

/-- The register file stores nothing at reset. -/
theorem regGet_reset {o : Nat} : regGet State.reset o = regReset o := rfl

/-- Settles O4: the state at reset is given field by field, and a register reads the reset column of its page's map. -/
theorem resetValues : Obligations.ResetValues := by
  unfold Obligations.ResetValues
  have hmap : ∀ (b : Blk) (i off : Nat) (d : RegDef), pageBlk (blkPage b i) = some (b, i) → off < 4096 → regDef b i off = some d →
      regGet State.reset (reg b i off) = BitVec.ofNat 64 d.reset := fun b i off d hp ho hd => regGet_reset.trans (regReset_reg hp ho hd)
  refine ⟨rfl, rfl, rfl, rfl, rfl, rfl, rfl, rfl, rfl, rfl, rfl, rfl, fun o => regGet_reset, hmap, ?_, ?_, ?_, ?_, ?_, ?_⟩
  · exact hmap .blw 0 0x100 { off := 0x100, reset := 0x8C, rw := 0xFF } rfl (by decide) rfl
  · exact hmap .blw 0 0x1A0 { off := 0x1A0, reset := 0x14, rw := 0xFF } rfl (by decide) rfl
  · exact hmap .blw 0 0x110 { off := 0x110, reset := 0x2BC, rw := 0x3FF } rfl (by decide) rfl
  · exact hmap .drn 0 0x100 { off := 0x100, reset := 0x32, rw := 0xFF } rfl (by decide) rfl
  · exact hmap .bag 0 0x108 { off := 0x108, reset := 0x01F4_003C, rw := 0xFFFF_FFFF } rfl (by decide) rfl
  · exact hmap .wwy 0 0x110 { off := 0x110, reset := 0x800 } rfl (by decide) rfl

end Sys2Proof.Machine

/-! SUPPORT. ADMIN's commands on settings, accounts and keys, and ABORT (Tables 4.5 and 20.6, R112, R482, R488, R489, R493). -/
namespace Sys2Proof.Machine

/-! ## Ends -/

section
variable {s u : State} {c d : Nat} {x : Cmd} {f : Cmd → Cmd}

theorem cmdGet_finish_other (hf : ∀ y, (f y).id = y.id) (h : d ≠ c) : cmdGet (finish c f s) d = cmdGet s d := by
  have hfree : cmdGet (freeUnits c s) d = cmdGet s d :=
    (cmdGet_cmdMod (f := fun y => { y with pool := 0, spill := [] }) (fun _ => rfl)).trans (if_neg h)
  exact ((cmdGet_cmdMod (f := fun y => { f y with phase := .finished, work := .none }) hf).trans (if_neg h)).trans hfree

theorem finish_eventSeq : (finish c f s).chn.eventSeq = s.chn.eventSeq := rfl

/-- A command that fails ends with its status and no result, whatever its fault. -/
theorem endsWith_failCmd {status : Nat} {g : Option CmdFault} (h : cmdGet s c = some x) : EndsWith (failCmd c status g s) c status 0 := by
  have hlatch : ∀ v : State, v.cmds = s.cmds → ∀ a : List Ev,
      EndsWith (finish c (fun y => { y with
        status := status, result := 0, epoch := 0, fault := g, after := y.after ++ a, dataOut := [] }) v) c status 0 := fun v hv a =>
    ⟨_, cmdGet_finish (f := fun y => { y with
      status := status, result := 0, epoch := 0, fault := g, after := y.after ++ a, dataOut := [] }) (fun _ => rfl)
      ((cmdGet_congr hv).trans h), rfl, rfl, rfl, rfl⟩
  rw [failCmd, h]
  cases g with
  | none => exact hlatch s rfl []
  | some g => exact hlatch _ (blkFault_keeps (κ := 192) rfl (keeps_refl (s₀ := s)) .cmds rfl) _

/-- A row that writes one block to the host and ends: the command's status stands, and its result is what `f` gives. -/
theorem endsWith_written {w : Who} {va result : Nat} {bs : List Byte} (hw : writeDev w va bs s = .ok () u) (hc : cmdGet s c = some x)
    (hid : ∀ y, (f y).id = y.id) (hst : ∀ y, (f y).status = y.status)
    (hres : ∀ d, (f { x with dataOut := d, pool := 0, spill := [] }).result = result) :
    EndsWith (finish c f u) c x.status result := by
  obtain ⟨d, hd⟩ := cmdGet_writeDev hw hc
  exact ⟨_, cmdGet_finish hid hd, rfl, rfl, hst _, hres d⟩

end

/-! ## ABORT (R112) -/

/-- One command completed with ABORTED, whose record follows in its turn. -/
def abortOne (s : State) (y : Cmd) : State := takeTurn y (finish y.id (fun z => { z with status := stAborted, result := 0 }) s)

section
variable {s : State} {c d : Nat} {x y z : Cmd} {p : Cmd → Bool}

theorem abortAll_eq : abortAll p s = (s.cmds.filter (fun y => y.phase = .waiting && y.sub.isNone && p y)).foldl abortOne s := rfl

theorem mem_aborted : y ∈ s.cmds.filter (fun y => y.phase = .waiting && y.sub.isNone && p y)
    ↔ y ∈ s.cmds ∧ y.phase = .waiting ∧ y.sub = none ∧ p y = true := by
  simp [List.mem_filter, and_assoc]

theorem cmdGet_takeTurn_other (h : d ≠ y.id) : cmdGet (takeTurn y s) d = cmdGet s d := by
  rw [takeTurn]
  split
  · rfl
  · exact (cmdGet_cmdMod (by intro z; rfl)).trans (if_neg h)

/-- A place in posting order is all that a turn gives. -/
theorem cmdGet_takeTurn_self (h : cmdGet s y.id = some z) : ∃ n, cmdGet (takeTurn y s) y.id = some { z with turn := n } := by
  rw [takeTurn]
  split
  · exact ⟨z.turn, h⟩
  · exact ⟨_, cmdGet_cmdMod_self (by intro z; rfl) h⟩

theorem cmdGet_abortOne_other (h : d ≠ y.id) : cmdGet (abortOne s y) d = cmdGet s d :=
  (cmdGet_takeTurn_other h).trans (cmdGet_finish_other (by intro z; rfl) h)

theorem endsWith_abortOne (h : cmdGet s y.id = some z) : EndsWith (abortOne s y) y.id stAborted 0 := by
  obtain ⟨n, hn⟩ := cmdGet_takeTurn_self (y := y)
    (cmdGet_finish (f := fun z => { z with status := stAborted, result := 0 }) (by intro z; rfl) h)
  exact ⟨_, hn, rfl, rfl, rfl, rfl⟩

/-- A command that has been aborted stays so while others are. -/
theorem EndsWith.abortOne (h : EndsWith s c stAborted 0) : EndsWith (abortOne s y) c stAborted 0 := by
  obtain ⟨z, hz, hend⟩ := h
  by_cases hc : c = y.id
  · subst hc
    exact endsWith_abortOne hz
  · exact ⟨z, (cmdGet_abortOne_other hc).trans hz, hend⟩

/-- Every command of a list is aborted, by its own step or by that of another of its number. -/
theorem endsWith_foldl_abortOne {l : List Cmd} (hl : ∀ y ∈ l, ∃ z, cmdGet s y.id = some z) :
    ∀ y ∈ l, EndsWith (l.foldl abortOne s) y.id stAborted 0 := by
  induction l generalizing s with
  | nil => exact fun _ hy => absurd hy List.not_mem_nil
  | cons a t ih =>
    have hplaces : places (abortOne s a) = places s :=
      places_takeTurn.trans (places_finish (f := fun z => { z with status := stAborted, result := 0 }) fun _ => ⟨rfl, rfl, rfl⟩)
    intro y hy
    rcases List.mem_cons.1 hy with rfl | hy
    · obtain ⟨z, hz⟩ := hl y List.mem_cons_self
      rw [List.foldl_cons]
      exact inv_foldl (P := fun t => EndsWith t y.id stAborted 0) (fun _ _ ht => ht.abortOne) (endsWith_abortOne hz)
    · refine ih (fun b hb => ?_) y hy
      obtain ⟨z, hz⟩ := hl b (List.mem_cons_of_mem _ hb)
      exact cmdGet_of_places hplaces hz

theorem endsWith_abortAll (hy : y ∈ s.cmds) (hw : y.phase = .waiting) (hs : y.sub = none) (hp : p y = true) :
    EndsWith (abortAll p s) y.id stAborted 0 := by
  rw [abortAll_eq]
  refine endsWith_foldl_abortOne (fun b hb => ?_) y (mem_aborted.2 ⟨hy, hw, hs, hp⟩)
  exact Option.isSome_iff_exists.1 (List.find?_isSome.2 ⟨b, (mem_aborted.1 hb).1, by simp⟩)

/-- A command that none of the aborted ones shares its number with is left as it was. -/
theorem cmdGet_abortAll_other (h : ∀ y ∈ s.cmds, y.id = d → ¬(y.phase = .waiting ∧ p y = true)) :
    cmdGet (abortAll p s) d = cmdGet s d := by
  rw [abortAll_eq]
  refine List.foldlRecOn (motive := fun t => cmdGet t d = cmdGet s d) _ _ rfl fun t ht y hy => ?_
  obtain ⟨hmem, hw, -, hp⟩ := mem_aborted.1 hy
  exact (cmdGet_abortOne_other fun hd => h y hmem hd.symm ⟨hw, hp⟩).trans ht

end

/-! ## Keys (R488, R489) -/

section
variable {s : State} {x : Cmd} {f : BitVec 256 → State → Res State} {gen slot : Nat} {kek key : BitVec 256}

/-- Where SEC notes that a wrapped key has failed its integrity check. -/
def unwrapFailed (s : State) : State := bumpSat (reg .sec 0 0x118) 0 16 1 (blkFault (blkPage .sec 0) 0 0 0 s)

theorem unwrapFailed_keeps : Keeps 192 s (unwrapFailed s) := bumpSat_keeps rfl (blkFault_keeps rfl keeps_refl)

theorem unwrapKey_some (hk : s.sec.kek = some (gen, kek)) (hg : gen = cf x 20 4)
    (hu : Config.unwrap kek (slice x.bytes 24 40) = some key) : unwrapKey x s f = f key s := by
  simp only [unwrapKey, hk, hu, ne_eq, hg, not_true_eq_false, if_false]

theorem unwrapKey_none (hk : s.sec.kek = some (gen, kek)) (hg : gen = cf x 20 4)
    (hu : Config.unwrap kek (slice x.bytes 24 40) = none) : unwrapKey x s f = failAt x stBadField 24 (unwrapFailed s) := by
  simp only [unwrapKey, hk, hu, ne_eq, hg, not_true_eq_false, if_false]
  rfl

/-- A key that is not taken fails its command and leaves what SEC holds. -/
theorem keyRefused (hc : cmdGet s x.id = some x) :
    EndsWith (settle x.id (failAt x stBadField 24 (unwrapFailed s))) x.id 0x0102 0
      ∧ (settle x.id (failAt x stBadField 24 (unwrapFailed s))).sec = s.sec :=
  ⟨endsWith_failCmd ((cmdGet_congr (unwrapFailed_keeps .cmds rfl)).trans hc),
    (failCmd_keeps (κ := 13196354134208) rfl (keeps_refl (s₀ := unwrapFailed s)) .sec rfl).trans (unwrapFailed_keeps .sec rfl)⟩

theorem raiseKey_keeps_self : Keeps 2684485704 s (raiseKey slot s) := raise_keeps rfl keeps_refl

theorem raiseKey_eventSeq : (raiseKey slot s).chn.eventSeq = s.chn.eventSeq + 1 := by
  rw [raiseKey]
  exact raised_raise.1

/-- A key that is taken is told by one event and ends its command. -/
theorem keyTaken {v : Security} (hc : cmdGet s x.id = some x) :
    EndsWith (finish x.id id (raiseKey slot { s with sec := v })) x.id x.status x.result
      ∧ (finish x.id id (raiseKey slot { s with sec := v })).sec = v
      ∧ (finish x.id id (raiseKey slot { s with sec := v })).chn.eventSeq = s.chn.eventSeq + 1 :=
  ⟨endsWith_finish ((cmdGet_congr (raiseKey_keeps_self .cmds rfl)).trans hc),
    (finish_keeps_self .sec rfl).trans (raiseKey_keeps_self .sec rfl), finish_eventSeq.trans raiseKey_eventSeq⟩

end

/-- Settles O30: each row ends its command after its one effect; ABORT finishes every waiting command of the queue and tag, and no other
command, and a wrapped key is taken or fails the command by what unwrapping gives. -/
theorem adminValueRows : Obligations.AdminValueRows := by
  unfold Obligations.AdminValueRows
  refine ⟨fun s x hb hsub => ?_, fun s x hb hsub hq hone => ?_, fun s x hb hsub => ?_, fun s u x d hb hsub hd hw => ?_,
    fun s x gen kek hb hsub hload hk hg => ?_, fun s x hb hsub => ?_, fun s x gen kek hb hsub hcst hk hg => ?_,
    fun s u x hb hsub => ?_, fun s u x hb hsub hw => ?_⟩
  · have hrow : exec (.classConfig x.id) s = .next (drainAll (freshRow x.id 0x7F (subIs 8) classConfig s)) := rfl
    rw [freshRow_of_begun hb (subIs_of_cSub hsub), classConfig, settle_done] at hrow
    exact ⟨_, hrow, endsWith_finish hb.cmd, finish_keeps_self .classes rfl⟩
  · have hrow : exec (.abort x.id) s = .next (drainAll (freshRow x.id 0x7F (subIs 9) abort s)) := rfl
    rw [freshRow_of_begun hb (subIs_of_cSub hsub), abort, if_neg (by simpa [← Option.isSome_iff_ne_none] using hq), settle_done] at hrow
    have hself : ∀ y ∈ s.cmds, y.id = x.id → y.phase ≠ .waiting := fun y hy hid hw => by
      rw [hone y hy hid, hb.executing] at hw
      cases hw
    refine ⟨_, hrow, endsWith_finish ?_, fun y hy hw hs hyq htag => ?_, fun d hd hno => ?_⟩
    · exact (cmdGet_abortAll_other fun y hy hid h => hself y hy hid h.1).trans hb.cmd
    · obtain ⟨z, hz, hend⟩ := endsWith_abortAll (p := fun y => y.queue = cf x 16 2 && cTag y = cf x 18 2) hy hw hs (by simp [hyq, htag])
      exact ⟨z, (cmdGet_finish_other (fun _ => rfl) fun hid => hself y hy hid hw).trans hz, hend⟩
    · exact (cmdGet_finish_other (fun _ => rfl) hd).trans
        (cmdGet_abortAll_other fun y hy hid h => hno y hy hid (by simpa using h))
  · have hrow : exec (.adminSetTime x.id) s = .next (drainAll (freshRow x.id 0x7F (subIs 0x0A) adminSetTime s)) := rfl
    rw [freshRow_of_begun hb (subIs_of_cSub hsub), adminSetTime, settle_done] at hrow
    exact ⟨_, hrow, endsWith_finish hb.cmd, finish_keeps_self .tod rfl⟩
  · have hrow : exec (.queryLimits x.id) s = .next (drainAll (freshRow x.id 0x7F (subIs 0x0B) queryLimits s)) := rfl
    rw [freshRow_of_begun hb (subIs_of_cSub hsub), queryLimits, hd] at hrow
    dsimp only at hrow
    rw [hw, andThen_ok, settle_done] at hrow
    exact ⟨_, hrow, endsWith_written hw hb.cmd (fun _ => rfl) (fun _ => rfl) fun _ => rfl, finish_hostMem⟩
  · have hrow : exec (.keyLoad x.id) s = .next (drainAll (freshRow x.id 0x7F (subIs 0x20) keyLoad s)) := rfl
    rw [freshRow_of_begun hb (subIs_of_cSub hsub), keyLoad, if_neg (ne_true_of_eq_false hload)] at hrow
    refine ⟨_, hrow, fun key hu => ?_, fun hu => ?_⟩
    · obtain ⟨hend, hsec, hseq⟩ := keyTaken (slot := cf x 16 1) (v := { s.sec with keys := tset s.sec.keys (cf x 16 1) key }) hb.cmd
      rw [unwrapKey_some hk hg hu, settle_done]
      exact ⟨hend, by rw [hsec, tget_tset_same], hseq⟩
    · rw [unwrapKey_none hk hg hu]
      exact keyRefused hb.cmd
  · have hrow : exec (.keyClear x.id) s = .next (drainAll (freshRow x.id 0x7F (subIs 0x21) keyClear s)) := rfl
    rw [freshRow_of_begun hb (subIs_of_cSub hsub), keyClear, settle_done] at hrow
    exact ⟨_, hrow, endsWith_finish hb.cmd, finish_keeps_self .sec rfl⟩
  · have hrow : exec (.fabricKey x.id) s = .next (drainAll (freshRow x.id 0x7F (subIs 0x22) fabricKey s)) := rfl
    rw [freshRow_of_begun hb (subIs_of_cSub hsub), fabricKey, if_neg (ne_true_of_eq_false hcst)] at hrow
    refine ⟨_, hrow, fun key hu => ?_, fun hu => ?_⟩
    · obtain ⟨hend, hsec, hseq⟩ := keyTaken (slot := 0xFF) (v := { s.sec with fabricKey := some key }) hb.cmd
      rw [unwrapKey_some hk hg hu, settle_done]
      exact ⟨hend, by rw [hsec], hseq⟩
    · rw [unwrapKey_none hk hg hu]
      exact keyRefused hb.cmd
  · intro ds hds hw
    have hrow : exec (.accountRead x.id) s = .next (drainAll (freshRow x.id 0x7F (subIs 0x23) accountRead s)) := rfl
    rw [freshRow_of_begun hb (subIs_of_cSub hsub), accountRead] at hrow
    rw [if_neg hds, hw, andThen_ok, settle_done] at hrow
    exact ⟨_, hrow, endsWith_written hw hb.cmd (fun _ => rfl) (fun _ => rfl) fun _ => rfl, finish_hostMem⟩
  · have hrow : exec (.securityState x.id) s = .next (drainAll (freshRow x.id 0x7F (subIs 0x24) securityState s)) := rfl
    rw [freshRow_of_begun hb (subIs_of_cSub hsub), securityState, hw, andThen_ok, settle_done] at hrow
    exact ⟨_, hrow, endsWith_written hw hb.cmd (fun _ => rfl) (fun _ => rfl) fun _ => rfl, finish_hostMem⟩

end Sys2Proof.Machine

/-! SUPPORT. The state behind a row that drains, and a start decision under a barrier (R98, R100, R265). -/
namespace Sys2Proof.Machine

theorem drainAll_cmds {s : State} : (drainAll s).cmds = s.cmds := eventDrainFrame s .cmds (by decide)

/-- The commands that a row leaves are those of the state before its events are written. -/
theorem cmds_of_drained {i : Instr} {s t u : State} (ht : exec i s = .next (drainAll t)) (hu : exec i s = .next (drainAll u)) :
    u.cmds = t.cmds := by
  have h : drainAll t = drainAll u := Host.Outcome.next.inj (ht.symm.trans hu)
  rw [← drainAll_cmds (s := u), ← h, drainAll_cmds]

/-- URG comes before the classes with credits (R98). -/
theorem pickQueue_of_urg {s : State} {q : Nat} (h : nextAfter s.lastUrg (eligible s 0) = some q) :
    pickQueue s = some (q, { s with lastUrg := q }) := by
  rw [pickQueue, h]

/-- The checks of R100 that a command passes, one by one. -/
theorem admission_of_checks {s : State} {p : Plan} {rem : Int} (hlink : linkFull s = true) (hslack : 0 < (rem : Rat) - p.fixed)
    (hledgers : (loadCosts s p.load).any
      (fun c => (tget s.ledgers c.1).getD 0 + c.2 > (boundedShare s : Rat) / 1000 * ((rem : Rat) - p.fixed)) = false)
    (hfloor : s.blw.floorLost = [])
    (hpower : (pBase s : Rat) + pRes s + wattsOf s (loadFj p.load) ((rem : Rat) - p.fixed) ≤ effCap s) :
    admission s p rem = .inr (loadCosts s p.load, wattsOf s (loadFj p.load) ((rem : Rat) - p.fixed)) := by
  rw [admission, if_neg (by simp [hlink])]
  dsimp only
  rw [if_neg (not_le.2 hslack), if_neg (ne_true_of_eq_false hledgers), if_neg (by simpa [hfloor] using hpower)]

/-- A DELETE in collection 0 that waits, with 4 µs from its commit. -/
def boundedDelete : Cmd := newCmd 1 0 (leBytes 128 (0x22 + 4 * 2 ^ 64 + 7 * 2 ^ 256)) 0 0

/-- A command in execution whose part of P_res makes up for P_base, a free value. -/
def reservedNop : Cmd := { newCmd 2 0 (leBytes 128 0x01) 0 0 with phase := .executing, pres := -(pBase State.reset : Rat) }

/-- The module at READY with its link up, an URG queue, and a barrier that has just begun on collection 0. -/
def barrierState : State :=
  { State.reset with
    chn := { State.reset.chn with stage := 6, barriers := [{ no := 0, table := false, on := 0, began := 0 }] }
    regs := [(reg .mpc 0 0x2C0, 2 ^ 18)]
    queues := [(0, { queueZero with cls := 0 })]
    colls := [(0, collOf State.reset (leBytes 128 (64 * 2 ^ 16 + 2 ^ 32 + 4 * 2 ^ 48)) 0 0xFFFF)]
    bag := { State.reset.bag with nowMj := 8100 }
    cmds := [boundedDelete, reservedNop] }

/-- The state once queue 0 has been picked. -/
def pickedState : State := { barrierState with lastUrg := 0 }

/-- The DELETE as its start takes it. -/
def startingDelete : Cmd :=
  { boundedDelete with
    home := 0, bounded := boundedCls pickedState boundedDelete.queue, deadlineUs := deadlineOf pickedState boundedDelete }

/-- The state that holds it so. -/
def startingState : State := cmdPut startingDelete pickedState

/-- The plan of the DELETE as the statement takes it, without the time that the barrier still takes. -/
def deletePlan : Plan :=
  { planOf startingState startingDelete with fixed := (planOf startingState startingDelete).fixed + sleepFloor startingState 0 }

/-- What is left of its deadline. -/
def deleteRem : Int := (deadlineOf startingState startingDelete * 1000 : Nat) - ((startingState.now - startingDelete.arrival : Nat) : Int)

theorem delete_power : (pBase startingState : Rat) + pRes startingState
    + wattsOf startingState (loadFj deletePlan.load) ((deleteRem : Rat) - deletePlan.fixed) ≤ effCap startingState := by
  have hres : pRes startingState = 0 + 0 + -(pBase startingState : Rat) := rfl
  have hwatts : wattsOf startingState (loadFj deletePlan.load) ((deleteRem : Rat) - deletePlan.fixed) = 0 := by decide +kernel
  rw [hres, hwatts]
  simp

/-- Without the barrier the DELETE would be admitted. -/
theorem delete_admission : admission startingState deletePlan deleteRem
    = .inr (loadCosts startingState deletePlan.load,
        wattsOf startingState (loadFj deletePlan.load) ((deleteRem : Rat) - deletePlan.fixed)) :=
  admission_of_checks (by decide) (by decide +kernel) (by decide +kernel) rfl delete_power

/-- With the 1.5 µs of the barrier its fixed floor is beyond its deadline, and it is refused (R101, R265). -/
theorem startDecision_refuses : (cmdGet (startDecision 0 barrierState) 1).map Cmd.phase = some .finished := by decide +kernel

/-- Refutes O22: its first clause admits a command on its plan's floor and the wake of its home cluster alone, but the fixed floor also
holds the time that barriers on its collection still take (R265). -/
theorem not_windwayRows : ¬ Obligations.WindwayRows := by
  unfold Obligations.WindwayRows
  rintro ⟨hstart, -⟩
  obtain ⟨t, y, ht, hy, hphase, -⟩ := hstart 0 0 barrierState pickedState startingState boundedDelete true _ _ rfl rfl
    (by decide) (pickQueue_of_urg (by decide)) rfl rfl (fun _ => by decide) (by decide) rfl (by decide) (fun _ => delete_admission)
    nofun (by decide) rfl
  have hrow : exec (.startDecision 0) barrierState = .next (drainAll (startDecision 0 barrierState)) := rfl
  have hfin := startDecision_refuses
  rw [← cmdGet_congr (cmds_of_drained hrow ht), show cmdGet t 1 = some y from hy] at hfin
  exact absurd (hphase.symm.trans (Option.some.inj hfin)) (by decide)

end Sys2Proof.Machine

/-! SUPPORT. FLUSH covers the records that were written before its start (R107). -/
namespace Sys2Proof.Machine

/-- A record of collection 0 on flash, with number 1. -/
def flashedRec : JRec := { jrecNew 0x01 0 .entry 64 0 0 0 with seq := 1, stripe := some 0 }

/-- A FLUSH of collection 0 that has started before any record was written. -/
def earlyFlush : Cmd := { newCmd 1 0 (leBytes 128 0x02) 0 0 with phase := .executing, defBound := 1 }

/-- The FLUSH goes on after another command has written the record and its stripe has been programmed. -/
def flushState : State :=
  { State.reset with cmds := [earlyFlush], bag := { State.reset.bag with recs := [flashedRec], nextSeq := 2 } }

theorem earlyFlush_begun : Begun flushState earlyFlush 0x02 := ⟨by decide, by decide⟩

theorem flushState_jseq : (cmdGet (flush 1 flushState) 1).map Cmd.jseq = some 0 := by decide

/-- Refutes O24: its second clause has a FLUSH answer with the highest number among all records of its scope, but a FLUSH covers only
those numbered below its bound, which were written before its start (R107). -/
theorem not_queueRows : ¬ Obligations.QueueRows := by
  unfold Obligations.QueueRows
  rintro ⟨-, hflush, -⟩
  obtain ⟨t, ht, ⟨y, hy, -⟩, -, hjseq⟩ := hflush flushState earlyFlush earlyFlush_begun (by decide) (by decide)
  have hrow : exec (.flush 1) flushState = .next (drainAll (flush 1 flushState)) := rfl
  have h0 := flushState_jseq
  rw [← cmdGet_congr (cmds_of_drained hrow ht), show cmdGet t 1 = some y from hy] at h0
  have h1 : y.jseq = 1 := hjseq y hy
  exact absurd (h1.symm.trans (Option.some.inj h0)) (by decide)

end Sys2Proof.Machine

/-! SUPPORT. A READ_LOG ends like every command: cores that hold no context any more have finished moving theirs (R163). -/
namespace Sys2Proof.Machine

theorem drainAll_chn {s : State} : (drainAll s).chn = s.chn := eventDrainFrame s .chn (by decide)

/-- The state of a result of success. -/
def Res.okState? {α : Type} : Res α → Option State
  | .ok _ s => some s
  | _ => none

theorem Res.eq_ok_of_isSome {r : Res Unit} (h : r.okState?.isSome = true) : r = .ok () (r.okState?.get h) := by
  cases r with
  | ok a u => rfl
  | fail n f s => cases h
  | wait s => cases h

/-- A READ_LOG that asks for no record, in execution. -/
def emptyReadLog : Cmd := { newCmd 1 0 (leBytes 128 0x71) 0 0 with phase := .executing }

/-- The module at READY with the boot region over the first GiB and a core that is listed as moving its contexts, as a function-level
reset leaves it when it abandons the search that held them. -/
def movingState : State :=
  { State.reset with
    chn := { State.reset.chn with stage := 6, coresMoving := [0] }
    regs := [(reg .mpc 0 0x010, 1), (reg .crk 0 0x108, 2 ^ 30)]
    cmds := [emptyReadLog] }

theorem emptyReadLog_begun : Begun movingState emptyReadLog 0x71 := ⟨by decide, by decide⟩

theorem readLog_coresMoving : (freshRow 1 0x71 always readLog movingState).chn.coresMoving = [] := by decide

/-- Refutes O28: its last clause has READ_LOG leave all that Chanter holds, but a command that ends takes the cores that have no context
left off the list of those that move theirs (R163). -/
theorem not_translationCommandRows : ¬ Obligations.TranslationCommandRows := by
  unfold Obligations.TranslationCommandRows
  rintro ⟨-, -, -, -, hlog⟩
  obtain ⟨w, hw, -, -, hchn⟩ := hlog movingState _ emptyReadLog emptyReadLog_begun (Res.eq_ok_of_isSome (by decide))
  have hrow : exec (.readLog 1) movingState = .next (drainAll (freshRow 1 0x71 always readLog movingState)) := rfl
  have hsame : (drainAll (freshRow 1 0x71 always readLog movingState)).chn = (drainAll w).chn :=
    congrArg State.chn (Host.Outcome.next.inj (hrow.symm.trans hw))
  rw [drainAll_chn, drainAll_chn, hchn] at hsame
  have hmoving : ([] : List Nat) = [0] := readLog_coresMoving.symm.trans (congrArg Chanter.coresMoving hsame)
  exact List.cons_ne_nil _ _ hmoving.symm

end Sys2Proof.Machine

/-! SUPPORT. What the rows of a search leave of its command: pieces of block lists, writes of results and failures. -/
namespace Sys2Proof.Machine

/-! ## Block lists (R251, R252) -/

section
variable {s u : State} {x : Cmd} {w w' : ListWalk} {r : Rd}

/-- A piece that has been read without poison is charged, and the walk goes on over its entries. -/
theorem listArrive_of_walked (hr : readDev (whoOf s x) w.next (16 * pieceEntries w) s = .ok r u) (hp : r.poison = none)
    (hl : listPiece r.bytes (pieceEntries w) 0 w = .inr w') :
    listArrive x w s = .ok w' (chargeDirect x w.next (16 * pieceEntries w) u) := by
  rw [listArrive, hr, andThen_ok]
  simp only [hp, hl]

/-- An offending entry fails it at its address. -/
theorem listArrive_of_bad {a : Nat} (hr : readDev (whoOf s x) w.next (16 * pieceEntries w) s = .ok r u) (hp : r.poison = none)
    (hl : listPiece r.bytes (pieceEntries w) 0 w = .inl a) :
    listArrive x w s = .fail stBadField (some (devFault (sldPage x.home) 0 a 0)) (chargeDirect x w.next (16 * pieceEntries w) u) := by
  rw [listArrive, hr, andThen_ok]
  simp only [hp, hl]

/-- The read of a piece leaves the queue store. -/
theorem cmds_pieceRead {va n : Nat} (hr : readDev (whoOf s x) w.next (16 * pieceEntries w) s = .ok r u) :
    (chargeDirect x va n u).cmds = s.cmds :=
  chargeDirect_keeps (κ := 138412104) rfl (res_ok hr (readDev_keeps rfl (keeps_refl (s₀ := s)))) .cmds rfl

/-- A piece arrives and `put` takes the walk after it into the command; translation ahead leaves the queue store. -/
theorem cmdGet_pieceArrived {put : ListWalk → Cmd → Cmd} {write : Bool} (hid : ∀ n y, (put n y).id = y.id)
    (hc : cmdGet s x.id = some x) (hr : readDev (whoOf s x) w.next (16 * pieceEntries w) s = .ok r u) (hp : r.poison = none)
    (hl : listPiece r.bytes (pieceEntries w) 0 w = .inr w') :
    cmdGet (settle x.id (andThen (listArrive x w s) (fun n t => .ok (prefetchPiece x write w n (cmdMod x.id (put n) t)) t))) x.id
      = some (put w' x) := by
  rw [listArrive_of_walked hr hp hl]
  refine (cmdGet_congr (prefetchPiece_keeps (κ := 4194376) rfl keeps_refl .cmds rfl)).trans ?_
  exact cmdGet_cmdMod_self (hid w') ((cmdGet_congr (cmds_pieceRead hr)).trans hc)

/-- A piece with an offending entry fails its command. -/
theorem endsWith_pieceBad {f : ListWalk → State → Res State} {a : Nat} (hc : cmdGet s x.id = some x)
    (hr : readDev (whoOf s x) w.next (16 * pieceEntries w) s = .ok r u) (hp : r.poison = none)
    (hl : listPiece r.bytes (pieceEntries w) 0 w = .inl a) :
    EndsWith (settle x.id (andThen (listArrive x w s) f)) x.id stBadField 0 := by
  rw [listArrive_of_bad hr hp hl]
  exact endsWith_failCmd ((cmdGet_congr (cmds_pieceRead hr)).trans hc)

end

/-! ## Results (R56, R112) -/

theorem cmdGet_writeBuf {s u : State} {x y : Cmd} {va c : Nat} {bs : List Byte} (h : writeBuf x va bs s = .ok () u)
    (hc : cmdGet s c = some y) : ∃ d, cmdGet u c = some { y with dataOut := d } := by
  obtain ⟨_, t, hw, hu⟩ := andThen_eq_ok h
  obtain ⟨-, rfl⟩ := Res.ok.inj hu
  obtain ⟨d, hd⟩ := cmdGet_writeDev hw hc
  exact ⟨d, (cmdGet_congr (chargeOut_keeps (κ := 134217792) rfl (keeps_refl (s₀ := t)) .cmds rfl)).trans hd⟩

theorem cmdGet_writeResults {x : Cmd} {sr : Search} {addr c j : Nat} {qs : List Query} {s u : State} {y : Cmd}
    (h : writeResults x sr addr j qs s = .ok () u) (hc : cmdGet s c = some y) : ∃ d, cmdGet u c = some { y with dataOut := d } := by
  induction qs generalizing j s y with
  | nil =>
    obtain ⟨-, rfl⟩ := Res.ok.inj h
    exact ⟨y.dataOut, hc⟩
  | cons q qs ih =>
    obtain ⟨_, t, hw, ht⟩ := andThen_eq_ok h
    obtain ⟨d, hd⟩ := cmdGet_writeBuf hw hc
    obtain ⟨d', hd'⟩ := ih ht hd
    exact ⟨d', hd'⟩

theorem endStage_hostMem {s : State} {c n : Nat} : (endStage c n s).hostMem = s.hostMem :=
  endStage_keeps (κ := 1056768) rfl (keeps_refl (s₀ := s)) .hostMem rfl

theorem cmdGet_countMerge {s : State} {cl c : Nat} : cmdGet (countMerge cl s) c = cmdGet s c :=
  cmdGet_congr (countMerge_keeps (κ := 64) rfl (keeps_refl (s₀ := s)) .cmds rfl)

/-- A command that ends after a last stage keeps its status unless `f` sets it, and its result is what `f` gives. -/
theorem endsWith_lastStage {s : State} {c n status result : Nat} {y : Cmd} {f : Cmd → Cmd} (hc : cmdGet s c = some y)
    (hs : y.status = status) (hid : ∀ z, (f z).id = z.id) (hst : ∀ z, (f z).status = z.status) (hres : ∀ z, (f z).result = result) :
    EndsWith (finish c f (endStage c n s)) c status result := by
  obtain ⟨es, cs, p, he⟩ := cmdGet_endStage (n := n) hc
  exact ⟨_, cmdGet_finish hid he, rfl, rfl, (hst _).trans hs, hres _⟩

end Sys2Proof.Machine

/-! SUPPORT. The scan of a block, the hand-over of a Reed's list and the reduction of a spill buffer (R119, R120, R122, R125, R175). -/
namespace Sys2Proof.Machine

/-! ## Lengths of sorted lists -/

theorem length_insertBy {α : Type} {lt : α → α → Bool} {a : α} {l : List α} : (insertBy lt a l).length = l.length + 1 := by
  induction l with
  | nil => rfl
  | cons b l ih =>
    rw [insertBy]
    split
    · rfl
    · rw [List.length_cons, ih, List.length_cons]

theorem length_sortBy {α : Type} {lt : α → α → Bool} {l : List α} : (sortBy lt l).length = l.length := by
  suffices h : ∀ acc : List α, (l.foldl (fun acc a => insertBy lt a acc) acc).length = l.length + acc.length from h []
  induction l with
  | nil => simp
  | cons a l ih =>
    intro acc
    rw [List.foldl_cons, ih, length_insertBy, List.length_cons]
    omega

/-! ## Scores (R120, R123) -/

/-- A search after the entries `es` have been scored: those that are `present` are counted, and those that pass are offered to every
query. -/
def scoreWith (present passes : Entry → Bool) (offer : Entry → Query → Query) (es : List Entry) (sr : Search) : Search :=
  { sr with
    examined := sr.examined + (es.filter present).length
    passed := sr.passed + (es.filter passes).length
    seenCur := sr.seenCur || es.any (fun e => present e && !e.encNext)
    seenNext := sr.seenNext || es.any (fun e => present e && e.encNext)
    queries := sr.queries.map (fun q => (es.filter passes).foldl (fun q e => offer e q) q) }

section
variable {present passes : Entry → Bool} {offer : Entry → Query → Query} {sr : Search}

theorem scoreWith_nil : scoreWith present passes offer [] sr = sr := by
  simp [scoreWith]

theorem scoreWith_append {es fs : List Entry} :
    scoreWith present passes offer fs (scoreWith present passes offer es sr) = scoreWith present passes offer (es ++ fs) sr := by
  simp [scoreWith, Nat.add_assoc, Bool.or_assoc]

end

section
variable {shard g r : Nat} {sr : Search}

/-- A slot without an entry leaves the search; another scores its entry. -/
theorem scoreSlot_eq {slot : Nat} : scoreSlot shard g r sr slot
    = scoreWith (presentAt sr) (passesAt sr) (offerEntry sr shard g r) (tget sr.coll.entries slot).toList sr := by
  rw [scoreSlot]
  cases tget sr.coll.entries slot with
  | none => exact scoreWith_nil.symm
  | some e =>
    cases hp : presentAt sr e with
    | false =>
      have hq : passesAt sr e = false := by simp [passesAt, hp]
      simp [scoreWith, hp, hq]
    | true =>
      simp only [hp, Bool.not_true, Bool.false_eq_true, if_false]
      change (if !passesAt sr e then
          { sr with examined := sr.examined + 1, seenCur := sr.seenCur || !e.encNext, seenNext := sr.seenNext || e.encNext }
        else
          { sr with examined := sr.examined + 1, seenCur := sr.seenCur || !e.encNext, seenNext := sr.seenNext || e.encNext
                    passed := sr.passed + 1, queries := sr.queries.map (offerEntry sr shard g r e) }) = _
      cases hq : passesAt sr e <;> simp [scoreWith, hp, hq]

/-- A block scores the entries of its slots in turn. -/
theorem foldl_scoreSlot {slots : List Nat} : slots.foldl (scoreSlot shard g r) sr
    = scoreWith (presentAt sr) (passesAt sr) (offerEntry sr shard g r) (slots.filterMap (tget sr.coll.entries)) sr := by
  induction slots generalizing sr with
  | nil => exact scoreWith_nil.symm
  | cons n slots ih =>
    have hsplit : (n :: slots).filterMap (tget sr.coll.entries)
        = (tget sr.coll.entries n).toList ++ slots.filterMap (tget sr.coll.entries) := by
      cases h : tget sr.coll.entries n <;> simp [h]
    rw [List.foldl_cons, scoreSlot_eq, ih, hsplit, ← scoreWith_append]
    rfl

end

/-! ## Poisoned words (R122) -/

section
variable {s : State} {x y : Cmd} {sr : Search} {b : Block} {n g : Nat}

/-- The report of a poisoned word adds at most an event to those that follow its command's record. -/
theorem cmdGet_reportPoison {failed : Bool} {p : Poison} (h : cmdGet s x.id = some y) :
    ∃ a, cmdGet (reportPoison x g failed p s) x.id = some { y with after := a } := by
  unfold reportPoison
  cases failed with
  | true =>
    refine ⟨_, cmdGet_cmdMod_self (fun _ => rfl) ((cmdGet_congr ?_).trans h)⟩
    exact blkFault_keeps (κ := 192) rfl (bumpSat_keeps rfl (bumpSat_keeps rfl (keeps_refl (s₀ := s)))) .cmds rfl
  | false =>
    refine ⟨y.after, (cmdGet_congr ?_).trans h⟩
    exact raise_keeps (κ := 2684485832) rfl (blkFault_keeps rfl (bumpSat_keeps rfl (keeps_refl (s₀ := s)))) .cmds rfl

theorem cmdGet_foldl_reportPoison {failed : Poison → Bool} {ps : List Poison} (h : cmdGet s x.id = some y) :
    ∃ a, cmdGet (ps.foldl (fun s p => reportPoison x g (failed p) p s) s) x.id = some { y with after := a } := by
  induction ps generalizing s y with
  | nil => exact ⟨y.after, h⟩
  | cons p ps ih =>
    obtain ⟨a, ha⟩ := cmdGet_reportPoison h
    obtain ⟨a', ha'⟩ := ih ha
    exact ⟨a', ha'⟩

/-! ## The scan of a block (R119, R120) -/

/-- A search whose block `n`, `b`, has been scored in `s`. -/
def blockScored (s : State) (sr : Search) (n : Nat) (b : Block) : Search :=
  b.slots.foldl (scoreSlot (shardId s) b.group b.reed) { sr with blocks := sr.blocks.set n { b with scored := true } }

/-- The bytes and entries of a block have been counted. -/
def blockCounted (x : Cmd) (sr : Search) (b : Block) (seen : Nat) (s : State) : State :=
  let bytes := blockBytes sr.coll b.slots
  let t := bumpWrap (reg .reed b.group 0x110) 0 64 seen (bumpWrap (reg .reed b.group 0x108) 0 64 bytes s)
  account (domOf t x) bytes 0 0 (blockFj (b.group ≥ 12) bytes b.slots.length sr.queries.length sr.coll.codeBits) t

/-- A block has been read: it is counted, and its poisoned words are reported. -/
def blockRead (s : State) (x : Cmd) (sr : Search) (n : Nat) (b : Block) : State :=
  (blockPoison s sr b.slots).foldl (fun t p => reportPoison x b.group (dependsOn sr b.slots p) p t)
    (blockCounted x sr b ((blockScored s sr n b).examined - sr.examined) s)

theorem cmdGet_blockRead (hc : cmdGet s x.id = some x) : ∃ a, cmdGet (blockRead s x sr n b) x.id = some { x with after := a } := by
  refine cmdGet_foldl_reportPoison ((cmdGet_congr ?_).trans hc)
  exact account_keeps (κ := 2097216) rfl (bumpWrap_keeps rfl (bumpWrap_keeps rfl (keeps_refl (s₀ := s)))) .cmds rfl

/-- The end of a block leaves its command but for its charges and the ends of its stages. -/
theorem cmdGet_blockDone (hc : cmdGet s x.id = some y) :
    ∃ z, cmdGet (blockDone x sr g s) x.id = some z ∧ z.phase = y.phase ∧ z.work = y.work := by
  unfold blockDone
  split
  · exact ⟨y, hc, rfl, rfl⟩
  · obtain ⟨cs, p, hw⟩ := cmdGet_workDone hc (f := groupKey g)
      (share := 1 / max 1 ((sr.blocks.filter (fun b => b.group = g && !b.scored)).length : Nat))
    dsimp only
    split
    · obtain ⟨es, cs', p', he⟩ := cmdGet_endStage (n := 4) hw
      exact ⟨_, he, rfl, rfl⟩
    · exact ⟨_, hw, rfl, rfl⟩

/-- Block `n` of the search, `b`, may be scored. -/
structure ScanDue (s : State) (x : Cmd) (sr : Search) (n : Nat) (b : Block) : Prop where
  cmd      : cmdGet s x.id = some x
  phase    : x.phase = .executing
  work     : x.work = .search sr
  block    : sr.blocks[n]? = some b
  unscored : b.scored = false
  encoded  : sr.enc = []
  room     : spillFull sr b = false
  turn     : reedTaken s x b = false

/-- The latch of a Reed's group for a poisoned word. -/
def reedFault (g : Nat) (p : Poison) : CmdFault :=
  { page := blkPage .reed g, bit := (reedBit p.word).getD 0, addr := BitVec.ofNat 64 (p.addr % 2 ^ 38)
    info := BitVec.ofNat 64 (poisonInfo p) }

theorem scanBlock_of_clean (h : ScanDue s x sr n b) (hclean : (blockPoison s sr b.slots).filter (dependsOn sr b.slots) = []) :
    scanBlock x.id n s = blockDone x sr b.group (setWork x.id (.search (blockScored s sr n b)) (blockRead s x sr n b)) := by
  unfold scanBlock
  simp only [h.cmd, h.phase, h.work, h.block]
  rw [if_neg (by simp [h.unscored, h.encoded, h.room, h.turn]), hclean]
  rfl

theorem scanBlock_of_poisoned {p : Poison} {ps : List Poison} (h : ScanDue s x sr n b)
    (hbad : (blockPoison s sr b.slots).filter (dependsOn sr b.slots) = p :: ps) :
    scanBlock x.id n s = failCmd x.id stPoisoned (some (reedFault b.group p)) (blockRead s x sr n b) := by
  unfold scanBlock
  simp only [h.cmd, h.phase, h.work, h.block]
  rw [if_neg (by simp [h.unscored, h.encoded, h.room, h.turn]), hbad]
  rfl

/-- A block without a poisoned word that the search depends on is scored. -/
theorem scanBlock_scores (h : ScanDue s x sr n b) (hclean : (blockPoison s sr b.slots).filter (dependsOn sr b.slots) = []) :
    ∃ y, cmdGet (scanBlock x.id n s) x.id = some y ∧ y.phase = .executing ∧ y.work = .search (blockScored s sr n b) := by
  rw [scanBlock_of_clean h hclean]
  obtain ⟨a, ha⟩ := cmdGet_blockRead (sr := sr) (n := n) (b := b) h.cmd
  obtain ⟨z, hz, hph, hwork⟩ := cmdGet_blockDone (sr := sr) (g := b.group) (cmdGet_setWork ha)
  exact ⟨z, hz, hph.trans h.phase, hwork⟩

/-- A poisoned word that the search depends on fails it. -/
theorem endsWith_scanBlock_poisoned (h : ScanDue s x sr n b)
    (hbad : (blockPoison s sr b.slots).filter (dependsOn sr b.slots) ≠ []) : EndsWith (scanBlock x.id n s) x.id stPoisoned 0 := by
  obtain ⟨p, ps, hps⟩ := List.exists_cons_of_ne_nil hbad
  rw [scanBlock_of_poisoned h hps]
  obtain ⟨a, ha⟩ := cmdGet_blockRead (sr := sr) (n := n) (b := b) h.cmd
  exact endsWith_failCmd ha

end

/-! ## The hand-over of a list (R125) -/

/-- The list of Reed number `n` stands with its tower's Valve. -/
def listHanded (n : Nat) (q : Query) : Query :=
  { q with handed := tset q.handed n ((tget q.reeds n).getD listEmpty), reeds := tdel q.reeds n }

section
variable {s : State} {x : Cmd} {sr : Search} {g r t : Nat}

theorem handOver_of_done (hc : cmdGet s x.id = some x) (hx : x.phase = .executing) (hw : x.work = .search sr)
    (hin : (g, r) ∈ blockReeds sr) (hdone : reedDone sr g r = true)
    (hnew : sr.queries.any (fun q => (tget q.handed (g * 64 + r)).isSome) = false) :
    handOver x.id g r s = setWork x.id (.search { sr with queries := sr.queries.map (listHanded (g * 64 + r)) }) s := by
  unfold handOver
  simp only [hc, hx, hw]
  rw [if_neg (by simp [hin, hdone, hnew])]
  rfl

/-! ## Reductions (R174, R175) -/

/-- A reduced buffer holds at most the candidates that are selected. -/
theorem length_spillReduce {key cap : Nat} {b : Spill} (hcap : 0 < cap) : (spillReduce key cap b).buf.length ≤ cap := by
  unfold spillReduce
  dsimp only
  split
  · next hfew => rwa [length_sortBy] at hfew
  · next hmany =>
    split
    · next hnone =>
      have htake := congrArg List.length (List.getLast?_eq_none_iff.1 hnone)
      rw [List.length_take, List.length_nil] at htake
      omega
    · exact List.length_take_le cap _

/-- The buffers of tower `t` are reduced. -/
def spillsReduced (kSel t : Nat) (q : Query) : Query := { q with spills := tmod q.spills t (spillReduce 0 kSel) }

/-- A reduction of a tower that has a buffer with more candidates than are selected. -/
theorem reduceSpills_of_wide (hc : cmdGet s x.id = some x) (hx : x.phase = .executing) (hw : x.work = .search sr)
    (hwide : sr.queries.any (fun q => (tget q.spills t).any (fun b => b.buf.length > sr.kSel)) = true) :
    ∃ u, u.cmds = s.cmds
      ∧ reduceSpills x.id t s = setWork x.id (.search { sr with queries := sr.queries.map (spillsReduced sr.kSel t) }) u := by
  have hsome : (sr.queries.filter (fun q => (tget q.spills t).any (fun b => b.buf.length > sr.kSel))).length ≠ 0 := by
    obtain ⟨q, hq, hq'⟩ := List.any_eq_true.1 hwide
    exact (List.length_pos_of_mem (List.mem_filter.2 ⟨hq, hq'⟩)).ne'
  unfold reduceSpills
  simp only [hc, hx, hw]
  rw [if_neg hsome]
  exact ⟨_, bumpWrap_keeps (κ := 64) rfl (bumpWrap_keeps rfl (keeps_refl (s₀ := s))) .cmds rfl, rfl⟩

/-- A reduction that meets no poisoned word. -/
theorem spillRow_of_clean (hc : cmdGet s x.id = some x) (hv : x.vpoison = none) : spillRow x.id t s = reduceSpills x.id t s := by
  unfold spillRow
  simp only [hc, hv]

end

end Sys2Proof.Machine

/-! SUPPORT. The merges of a search and of a fan-out, and the scores of a rerank (R125, R131, R170, R172, R243, R393). -/
namespace Sys2Proof.Machine

/-! ## The merge of a tower (R125) -/

/-- What tower `t` makes of the lists that its Reeds have handed over, or of its spill buffer. -/
def towerListOf (sr : Search) (t : Nat) (q : Query) : CList :=
  if passThrough sr then spillList 0 ((tget q.spills t).getD spillEmpty)
  else (mergeLists 0 sr.kSel ((q.handed.filter (fun p => groupTower (p.1 / 64) = t)).map Prod.snd)).1

/-- The tower's list takes the place of its buffer. -/
def towerMerged (sr : Search) (t : Nat) (q : Query) : Query :=
  { q with towers := tset q.towers t (towerListOf sr t q), spills := tdel q.spills t }

section
variable {s u : State} {x : Cmd} {sr : Search} {t : Nat}

theorem valveMerge_tower (hc : cmdGet s x.id = some x) (hx : x.phase = .executing) (hv : x.vpoison = none)
    (hw : x.work = .search sr) : valveMerge x.id (some t) s = towerMerge x sr t s := by
  unfold valveMerge
  simp only [hc, hx, hv, hw]
  rfl

theorem cmdGet_towerMerge (hc : cmdGet s x.id = some x) (ht : t ∈ blockTowers sr) (hall : towerHanded sr t = true)
    (hnew : sr.queries.any (fun q => (tget q.towers t).isSome) = false)
    (hnarrow : sr.queries.any (fun q => (tget q.spills t).any (fun b => b.buf.length > sr.kSel)) = false) :
    cmdGet (towerMerge x sr t s) x.id = some { x with
      spill := x.spill.filter (· ≠ t), work := .search { sr with queries := sr.queries.map (towerMerged sr t) } } := by
  unfold towerMerge
  rw [if_neg (by simp only [ht, hall, hnew, hnarrow]; decide)]
  have hspill : cmdGet (cmdMod x.id (fun y => { y with spill := y.spill.filter (· ≠ t) }) s) x.id
      = some { x with spill := x.spill.filter (· ≠ t) } :=
    cmdGet_cmdMod_self (f := fun y => { y with spill := y.spill.filter (· ≠ t) }) (fun _ => rfl) hc
  exact cmdGet_setWork (cmdGet_countMerge.trans hspill)

/-! ## The end of a search (R56, R172) -/

/-- Results that a search returns in its completion record: the queries of a batch, the entries of a search of one query. -/
def resultCount (x : Cmd) (qs : List Query) : Nat :=
  if cOp x = 0x33 then qs.length else (qs.map (fun q => (q.final.getD listEmpty).entries.length)).foldl (· + ·) 0

theorem finalOf_of_scored {q : Query} (hsub : x.sub = none) (hn : sr.rerankN ≠ 0) (hs : q.scored = true) :
    finalOf x sr q = (mergeLists sr.key sr.k [{ q.merged.getD listEmpty with tail := 0 }]).1 := by
  simp [finalOf, hsub, hn, hs]

theorem finalOf_of_unscored {q : Query} (hsub : x.sub = none) (h : sr.rerankN = 0 ∨ q.scored = false) :
    finalOf x sr q = (mergeLists 0 sr.k [q.merged.getD listEmpty]).1 := by
  obtain h | h := h <;> simp [finalOf, hsub, h]

/-- A search whose result can be written has it in host memory and ends. -/
theorem finishSearch_ends {qs : List Query} (hc : cmdGet s x.id = some x) (hsub : x.sub = none)
    (hqs : sr.queries.map (fun q => { q with final := some (finalOf x sr q) }) = qs)
    (hw : writeResults x { sr with queries := qs } (sparams x).result 0 qs (endStage x.id 5 s) = .ok () u) :
    (finishSearch x sr s).hostMem = u.hostMem ∧ EndsWith (finishSearch x sr s) x.id x.status (resultCount x qs) := by
  subst hqs
  obtain ⟨es, cs, p, he⟩ := cmdGet_endStage (n := 5) hc
  obtain ⟨d, hd⟩ := cmdGet_writeResults hw he
  unfold finishSearch endSearch
  simp only [hsub, hw, andThen_ok, done]
  refine ⟨finish_hostMem.trans endStage_hostMem, ?_⟩
  refine endsWith_lastStage hd rfl (fun _ => rfl) (fun _ => rfl) (fun _ => ?_)
  simp only [resultCount, List.map_map, List.length_map]
  rfl

/-! ## The merge of the home cluster (R170, R172) -/

theorem valveMerge_home (hc : cmdGet s x.id = some x) (hx : x.phase = .executing) (hv : x.vpoison = none)
    (hw : x.work = .search sr) : valveMerge x.id none s = homeMerge x sr s := by
  unfold valveMerge
  simp only [hc, hx, hv, hw]
  rfl

/-- The lists of the home cluster's inputs are merged. -/
def homeMerged (sr : Search) (q : Query) : Query := { q with merged := some (mergeLists 0 sr.kSel (homeInputs sr q)).1 }

/-- A merge of inputs that are all present, after which a rerank is due. -/
theorem homeMerge_of_rerank (hr : homeReady sr = true) (hnew : sr.queries.all (fun q => q.merged.isSome) = false)
    (hm : mayFinish sr = false) : homeMerge x sr s
      = setWork x.id (.search { sr with queries := sr.queries.map (homeMerged sr) }) (countMerge (serve s x.home) s) := by
  have hm' : mayFinish { sr with queries := sr.queries.map (homeMerged sr) } = false := by
    simpa [mayFinish, homeMerged, List.all_map, Function.comp_def] using hm
  unfold homeMerge
  rw [if_neg (by simp [hnew]), if_neg (by simp [hr])]
  exact if_neg (ne_of_eq_of_ne hm' Bool.false_ne_true)

/-- A merge of inputs that are all present, which no rerank follows. -/
theorem homeMerge_of_last (hr : homeReady sr = true) (hnew : sr.queries.all (fun q => q.merged.isSome) = false)
    (hm : sr.rerankN = 0 ∨ sr.cut = true ∧ sr.begun = false) : homeMerge x sr s
      = finishSearch x { sr with queries := sr.queries.map (homeMerged sr) } (countMerge (serve s x.home) s) := by
  have hm' : mayFinish { sr with queries := sr.queries.map (homeMerged sr) } = true := by
    obtain h | ⟨hcut, hbegun⟩ := hm
    · simp [mayFinish, h]
    · simp [mayFinish, hcut, hbegun]
  unfold homeMerge
  rw [if_neg (by simp [hnew]), if_neg (by simp [hr])]
  exact if_pos hm'

/-- The merge after a rerank: the final lists are selected by score. -/
theorem homeMerge_of_scored (hall : sr.queries.all (fun q => q.merged.isSome && q.scored) = true) (hn : sr.rerankN ≠ 0) :
    homeMerge x sr s
      = finishSearch x sr (if sr.queries.all (fun q => q.final.isNone) then countMerge (serve s x.home) s else s) := by
  have hmerged : sr.queries.all (fun q => q.merged.isSome) = true := by
    rw [List.all_eq_true] at hall ⊢
    exact fun q hq => (Bool.and_eq_true_iff.1 (hall q hq)).1
  have hscored : sr.queries.all Query.scored = true := by
    rw [List.all_eq_true] at hall ⊢
    exact fun q hq => (Bool.and_eq_true_iff.1 (hall q hq)).2
  have hrer : reranked sr = true := by simp [reranked, hn, hscored]
  unfold homeMerge
  rw [if_pos hmerged, if_pos (by simp [mayFinish, hscored]), hrer, Bool.true_and]

/-- The merged list and, selected by distance from it, the final list of a query. -/
def homeFinal (sr : Search) (q : Query) : Query :=
  { homeMerged sr q with final := some (mergeLists 0 sr.k [(mergeLists 0 sr.kSel (homeInputs sr q)).1]).1 }

/-- A search without a rerank, or cut before one has begun, ends with its home merge. -/
theorem homeMerge_ends (hc : cmdGet s x.id = some x) (hsub : x.sub = none) (hr : homeReady sr = true)
    (hnew : sr.queries.all (fun q => q.merged.isSome) = false)
    (hm : sr.rerankN = 0 ∨ sr.cut = true ∧ sr.begun = false ∧ ∀ q ∈ sr.queries, q.scored = false)
    (hw : writeResults x { sr with queries := sr.queries.map (homeFinal sr) } (sparams x).result 0 (sr.queries.map (homeFinal sr))
      (endStage x.id 5 (countMerge (serve s x.home) s)) = .ok () u) :
    (homeMerge x sr s).hostMem = u.hostMem
      ∧ EndsWith (homeMerge x sr s) x.id x.status (resultCount x (sr.queries.map (homeFinal sr))) := by
  rw [homeMerge_of_last hr hnew (hm.imp_right fun h => ⟨h.1, h.2.1⟩)]
  refine finishSearch_ends (cmdGet_countMerge.trans hc) hsub ?_ hw
  rw [List.map_map]
  refine List.map_congr_left fun q hq => ?_
  have hfinal := finalOf_of_unscored (x := x) (sr := { sr with queries := sr.queries.map (homeMerged sr) }) (q := homeMerged sr q) hsub
    (hm.imp_right fun h => h.2.2 q hq)
  rw [Function.comp_apply, hfinal]
  rfl

/-- The final list of a query that has been scored. -/
def scoredFinal (sr : Search) (q : Query) : Query :=
  { q with final := some (mergeLists sr.key sr.k [{ q.merged.getD listEmpty with tail := 0 }]).1 }

/-- A search whose queries have been scored ends. -/
theorem homeMerge_scored_ends (hc : cmdGet s x.id = some x) (hsub : x.sub = none)
    (hall : sr.queries.all (fun q => q.merged.isSome && q.scored) = true) (hn : sr.rerankN ≠ 0)
    (hw : writeResults x { sr with queries := sr.queries.map (scoredFinal sr) } (sparams x).result 0
      (sr.queries.map (scoredFinal sr)) (endStage x.id 5
        (if sr.queries.all (fun q => q.final.isNone) then countMerge (serve s x.home) s else s)) = .ok () u) :
    (homeMerge x sr s).hostMem = u.hostMem
      ∧ EndsWith (homeMerge x sr s) x.id x.status (resultCount x (sr.queries.map (scoredFinal sr))) := by
  rw [homeMerge_of_scored hall hn]
  refine finishSearch_ends ?_ hsub (List.map_congr_left fun q hq => ?_) hw
  · split
    · exact cmdGet_countMerge.trans hc
    · exact hc
  · rw [finalOf_of_scored hsub hn (Bool.and_eq_true_iff.1 (List.all_eq_true.1 hall q hq)).2]
    rfl

end

/-! ## The merge of a coordinator (R393 to R395) -/

section
variable {s u : State} {x : Cmd} {k : Coll} {f : Fan}

theorem valveMerge_fan (hc : cmdGet s x.id = some x) (hx : x.phase = .executing) (hv : x.vpoison = none) (hw : x.work = .fan f)
    (hk : viewOf s x = some k) : valveMerge x.id none s = fanMerge x k f s := by
  unfold valveMerge
  simp only [hc, hx, hv, hw, hk]
  rfl

/-- The final list of a fan-out: by score when every shard has scored, by distance otherwise. -/
def fanFinal (f : Fan) : CList :=
  let m := mergeLists 0 f.kSel (fanLists f)
  if fanScored f then (mergeLists f.key f.k [{ m.1 with tail := 0 }]).1 else (mergeLists 0 f.k [m.1]).1

/-- What the coordinator writes: the report that was asked for, then the result block. -/
def fanWritten (x : Cmd) (k : Coll) (f : Fan) (s : State) : Res Unit :=
  andThen (if cf x 56 8 = 0 then .ok () s else writeBuf x (cf x 56 8) (fanReport f) s) (fun _ t =>
    writeBuf x (cf x 24 8) (resultBlock (fanHeader k f (mergeLists 0 f.kSel (fanLists f)).1) (fanScored f) (fanFinal f)) t)

theorem cmdGet_fanWritten (hw : fanWritten x k f s = .ok () u) (hc : cmdGet s x.id = some x) :
    ∃ d, cmdGet u x.id = some { x with dataOut := d } := by
  obtain ⟨_, t, hrep, hres⟩ := andThen_eq_ok hw
  have ht : ∃ d, cmdGet t x.id = some { x with dataOut := d } := by
    split at hrep
    · obtain ⟨-, rfl⟩ := Res.ok.inj hrep
      exact ⟨x.dataOut, hc⟩
    · exact cmdGet_writeBuf hrep hc
  obtain ⟨d, hd⟩ := ht
  obtain ⟨d', hd'⟩ := cmdGet_writeBuf hres hd
  exact ⟨d', hd'⟩

/-- The merge has been counted, and each entry dropped under R168 reported. -/
def fanNoted (x : Cmd) (f : Fan) (s : State) : State :=
  dupKeys x (serve s x.home) (mergeLists 0 f.kSel (fanLists f)).2 (countMerge (serve s x.home) (endStage x.id 5 s))

theorem fanNoted_hostMem : (fanNoted x f s).hostMem = s.hostMem :=
  (dupKeys_keeps (κ := 2684485832) rfl (countMerge_keeps rfl (keeps_refl (s₀ := endStage x.id 5 s))) .hostMem rfl).trans endStage_hostMem

theorem cmdGet_fanNoted {y : Cmd} (h : cmdGet s x.id = some y) :
    ∃ es cs p, cmdGet (fanNoted x f s) x.id = some { y with ends := es, charges := cs, pres := p } := by
  obtain ⟨es, cs, p, he⟩ := cmdGet_endStage (n := 5) h
  refine ⟨es, cs, p, (cmdGet_congr ?_).trans he⟩
  exact dupKeys_keeps (κ := 2684485832) rfl (countMerge_keeps rfl (keeps_refl (s₀ := endStage x.id 5 s))) .cmds rfl

/-- A fan-out that has sent, or has been cut, merges once every shard has answered. -/
theorem fanMerge_guards (hsent : f.sent = true ∨ f.cut = true) (hans : f.shards.all (fun h => h.answered) = true) :
    (!f.sent && !f.cut) = false ∧ f.shards.any (fun h => !h.answered) = false := by
  refine ⟨?_, by simpa using hans⟩
  obtain h | h := hsent <;> simp [h]

theorem fanMerge_of_success (hsent : f.sent = true ∨ f.cut = true) (hans : f.shards.all (fun h => h.answered) = true)
    (hok : firstFailure f = none) (hw : fanWritten x k f s = .ok () u) :
    fanMerge x k f s = finish x.id (fun y => { y with
      result := (fanFinal f).entries.length, isPartial := fanPartial f, tie := tiedBeyond f.k (fanFinal f) ≠ 0
      arith := (fanHeader k f (mergeLists 0 f.kSel (fanLists f)).1).arith ≠ 0 }) (endStage x.id 7 (fanNoted x f u)) := by
  obtain ⟨hopen, hwait⟩ := fanMerge_guards hsent hans
  unfold fanMerge
  rw [hopen, hwait, hok]
  unfold fanWritten fanFinal at hw
  unfold fanNoted fanFinal
  generalize mergeLists 0 f.kSel (fanLists f) = m at hw ⊢
  obtain ⟨merged, dropped⟩ := m
  dsimp only at hw ⊢
  simp only [hw]
  rfl

/-- The merged list stands in host memory and the fan-out ends. -/
theorem fanMerge_ends (hc : cmdGet s x.id = some x) (hsent : f.sent = true ∨ f.cut = true)
    (hans : f.shards.all (fun h => h.answered) = true) (hok : firstFailure f = none) (hw : fanWritten x k f s = .ok () u) :
    (fanMerge x k f s).hostMem = u.hostMem ∧ EndsWith (fanMerge x k f s) x.id x.status (fanFinal f).entries.length := by
  rw [fanMerge_of_success hsent hans hok hw]
  obtain ⟨d, hd⟩ := cmdGet_fanWritten hw hc
  obtain ⟨es, cs, p, hn⟩ := cmdGet_fanNoted (f := f) hd
  exact ⟨finish_hostMem.trans (endStage_hostMem.trans fanNoted_hostMem),
    endsWith_lastStage hn rfl (fun _ => rfl) (fun _ => rfl) (fun _ => rfl)⟩

/-- The first failure in list order fails the fan-out. -/
theorem endsWith_fanMerge_failed {i st : Nat} (hc : cmdGet s x.id = some x) (hsent : f.sent = true ∨ f.cut = true)
    (hans : f.shards.all (fun h => h.answered) = true) (hbad : firstFailure f = some (i, st)) :
    EndsWith (fanMerge x k f s) x.id st 0 := by
  obtain ⟨hopen, hwait⟩ := fanMerge_guards hsent hans
  unfold fanMerge
  rw [hopen, hwait, hbad]
  exact endsWith_failCmd hc

end

/-! ## Reranks (R131, R133, R243) -/

section
variable {s : State} {x : Cmd} {sr : Search}

/-- The candidates of a RERANK's query with their scores and terms. -/
def termsScored (x : Cmd) (sr : Search) (q : Query) : Query :=
  match q.merged with
  | none => { q with scored := true }
  | some l =>
    let es := l.entries.map (scoreTerm sr.coll q (cf x 57 1))
    { q with merged := some { l with entries := es }, scored := true, arith := (es.map Cand.arith).foldl (· ||| ·) 0 }

theorem termsScored_merged {q : Query} : (termsScored x sr q).scored = true ∧ (termsScored x sr q).merged
    = q.merged.map (fun l => { l with entries := l.entries.map (scoreTerm sr.coll q (cf x 57 1)) }) := by
  unfold termsScored
  cases q.merged <;> exact ⟨rfl, rfl⟩

/-- A drained region leaves its command with the search that it has scored. -/
theorem cmdGet_drained {w : Work} {d scanned macs femto cl n : Nat} {fs : BitVec 7} {f : Nat → Bool} (hc : cmdGet s x.id = some x)
    (hx : x.phase = .executing) : ∃ y, cmdGet (setWork x.id w (workDone x.id f 1
      (account d scanned 0 macs femto (countScored cl n fs s)))) x.id = some y ∧ y.phase = .executing ∧ y.work = w := by
  have hcount : cmdGet (account d scanned 0 macs femto (countScored cl n fs s)) x.id = some x := (cmdGet_congr
    (account_keeps (κ := 2097216) rfl (countScored_keeps rfl (keeps_refl (s₀ := s))) .cmds rfl)).trans hc
  obtain ⟨cs, p, hw⟩ := cmdGet_workDone hcount (f := f) (share := 1)
  exact ⟨_, cmdGet_setWork hw, hx, rfl⟩

/-- The survivors of a search are scored. -/
theorem regionDrained_search (hc : cmdGet s x.id = some x) (hx : x.phase = .executing) (hw : x.work = .search sr) (henc : sr.enc = [])
    (hdue : rerankDue sr = true) (hheld : boreHeld s x [serve s x.home] = false)
    (hclean : codePoison s sr.coll sr.h (rerankReads sr) = none) :
    ∃ y, cmdGet (regionDrained x.id s) x.id = some y ∧ y.phase = .executing
      ∧ y.work = .search { sr with queries := sr.queries.map (scoreQuery sr.coll) } := by
  have hrow : regionDrained x.id s = rerankRegion x sr s := by
    unfold regionDrained
    simp only [hc, hw]
    rw [if_neg (by simp [hx]), if_neg (by simp [henc]), if_pos (by simp [hdue, hheld])]
  rw [hrow]
  unfold rerankRegion
  simp only [hclean]
  exact cmdGet_drained hc hx

/-- The candidates of a RERANK are scored. -/
theorem regionDrained_rerank (hc : cmdGet s x.id = some x) (hx : x.phase = .executing) (hw : x.work = .rerank sr)
    (hheld : boreHeld s x [serve s x.home] = false) (hclean : codePoison s sr.coll sr.h (rerankReads sr) = none) :
    ∃ y, cmdGet (regionDrained x.id s) x.id = some y ∧ y.phase = .executing
      ∧ y.work = .search { sr with queries := sr.queries.map (termsScored x sr) } := by
  have hrow : regionDrained x.id s = rerankScored x sr s := by
    unfold regionDrained
    simp only [hc, hw]
    rw [if_neg (by simp [hx]), if_neg (by simp [hheld])]
  rw [hrow]
  unfold rerankScored
  simp only [hclean]
  exact cmdGet_drained hc hx

end

end Sys2Proof.Machine

/-! SUPPORT. The rows of the scan and of the merges of a search. -/
namespace Sys2Proof.Machine

/-- What stands at a place of a mapped list. -/
theorem eq_of_getElem?_map {α β : Type} {f : α → β} {l : List α} {i : Nat} {a : α} {b : β} (ha : l[i]? = some a)
    (hb : (l.map f)[i]? = some b) : b = f a := by
  rw [List.getElem?_map, ha] at hb
  exact (Option.some.inj hb).symm

section
variable {s : State} {x : Cmd} {w : ListWalk}

/-- While the first list of a command is not wholly read, its next piece is the one that arrives. -/
theorem listPieceRow_first (hc : cmdGet s x.id = some x) (hx : x.phase = .executing) (hl : x.list = some w) (hd : w.done = false) :
    listPieceRow x.id s = settle x.id (andThen (listArrive x w s) (fun n t =>
      .ok (prefetchPiece x (listWritten x) w n (cmdMod x.id (fun y => { y with list := some n }) t)) t)) := by
  unfold listPieceRow
  simp only [hc, hl]
  rw [if_neg (by simp [hx]), if_pos (by simp [hd])]

/-- After it the pieces of the second list arrive. -/
theorem listPieceRow_second {v : ListWalk} (hc : cmdGet s x.id = some x) (hx : x.phase = .executing) (hl : x.list = some v)
    (hv : v.done = true) (hl2 : x.list2 = some w) (hd : w.done = false) :
    listPieceRow x.id s = settle x.id (andThen (listArrive x w s) (fun n t =>
      .ok (prefetchPiece x true w n (cmdMod x.id (fun y => { y with list2 := some n }) t)) t)) := by
  unfold listPieceRow
  simp only [hc, hl, hl2]
  rw [if_neg (by simp [hx]), if_neg (by simp [hv]), if_neg (by simp [hd])]

end

/-- Settles O41: each row is the work of its unit, of which the lemmas above say what it leaves. -/
theorem scanRows : Obligations.ScanRows := by
  unfold Obligations.ScanRows
  refine ⟨fun s u x w w' r hc hx hl hd hr hp hn => ?_, fun s u x v w w' r hc hx hl hv hl2 hd hr hp hn => ?_,
    fun s u x w r a hc hx hl hd hr hp hn => ?_, fun s x sr n b hc hx hw hb hs henc hfull hturn hclean => ?_,
    fun s x sr n b hc hx hw hb hs henc hfull hturn hbad => ?_, fun s x sr g r hc hx hw hin hdone hnew => ?_,
    fun s x sr t hc hx hv hw ht hall hnew hnarrow => ?_, fun s x sr t hc hx hv hw hcap hwide => ?_,
    fun s x sr hc hx hv hw hr hnew hm => ?_, fun s u x sr hc hx hv hsub hw hr hnew hm => ?_,
    fun s u x sr hc hx hv hsub hw hall hn => ?_, fun s u x k f hc hx hv hw hk hsent hans hok => ?_,
    fun s x k f i st hc hx hv hw hk hsent hans hbad => ?_, fun s x sr hc hx hw henc hdue hheld hclean => ?_,
    fun s x sr hc hx hw hheld hclean => ?_⟩
  · refine ⟨listPieceRow x.id s, rfl, ?_⟩
    rw [listPieceRow_first hc hx hl hd]
    exact cmdGet_pieceArrived (put := fun n y => { y with list := some n }) (fun _ _ => rfl) hc hr hp hn
  · refine ⟨listPieceRow x.id s, rfl, ?_⟩
    rw [listPieceRow_second hc hx hl hv hl2 hd]
    exact cmdGet_pieceArrived (put := fun n y => { y with list2 := some n }) (fun _ _ => rfl) hc hr hp hn
  · refine ⟨listPieceRow x.id s, rfl, ?_⟩
    rw [listPieceRow_first hc hx hl hd]
    exact endsWith_pieceBad hc hr hp hn
  · obtain ⟨y, hy, hph, hwork⟩ := scanBlock_scores ⟨hc, hx, hw, hb, hs, henc, hfull, hturn⟩ hclean
    refine ⟨scanBlock x.id n s, y, blockScored s sr n b, rfl, hy, hph, hwork, ?_⟩
    rw [blockScored, foldl_scoreSlot]
    exact ⟨rfl, rfl, rfl, rfl⟩
  · exact ⟨scanBlock x.id n s, rfl, endsWith_scanBlock_poisoned ⟨hc, hx, hw, hb, hs, henc, hfull, hturn⟩ hbad⟩
  · refine ⟨handOver x.id g r s, { sr with queries := sr.queries.map (listHanded (g * 64 + r)) }, rfl, ?_, List.length_map _,
      fun i q q' hq hq' => ?_⟩
    · rw [handOver_of_done hc hx hw hin hdone hnew]
      exact cmdGet_setWork hc
    · obtain rfl := eq_of_getElem?_map hq hq'
      exact ⟨tget_tset_same, tget_tdel.trans (if_pos rfl), fun m hm => ⟨tget_tset_other hm, tget_tdel.trans (if_neg hm)⟩⟩
  · have hy := cmdGet_towerMerge hc ht hall hnew hnarrow
    rw [← valveMerge_tower hc hx hv hw] at hy
    refine ⟨valveMerge x.id (some t) s, _, _, rfl, hy, hx, rfl, List.length_map _, fun i q q' hq hq' => ?_⟩
    obtain rfl := eq_of_getElem?_map hq hq'
    exact tget_tset_same
  · obtain ⟨u, hu, hrow⟩ := reduceSpills_of_wide hc hx hw hwide
    refine ⟨spillRow x.id t s, { sr with queries := sr.queries.map (spillsReduced sr.kSel t) }, rfl, ?_, List.length_map _,
      fun i q q' hq hq' => ?_⟩
    · rw [spillRow_of_clean hc hv, hrow]
      exact cmdGet_setWork ((cmdGet_congr hu).trans hc)
    · obtain rfl := eq_of_getElem?_map hq hq'
      have ht : tget (spillsReduced sr.kSel t q).spills t = (tget q.spills t).map (spillReduce 0 sr.kSel) := tget_tmod.trans (if_pos rfl)
      refine ⟨ht, ?_⟩
      rw [ht]
      cases tget q.spills t with
      | none => rfl
      | some b => exact decide_eq_true (length_spillReduce hcap)
  · refine ⟨valveMerge x.id none s, { sr with queries := sr.queries.map (homeMerged sr) }, rfl, ?_, rfl⟩
    rw [valveMerge_home hc hx hv hw, homeMerge_of_rerank hr hnew hm]
    exact cmdGet_setWork (cmdGet_countMerge.trans hc)
  · intro qs hwr
    refine ⟨valveMerge x.id none s, rfl, ?_⟩
    rw [valveMerge_home hc hx hv hw]
    exact homeMerge_ends hc hsub hr hnew hm hwr
  · intro qs hwr
    refine ⟨valveMerge x.id none s, rfl, ?_⟩
    rw [valveMerge_home hc hx hv hw]
    exact homeMerge_scored_ends hc hsub hall hn hwr
  · intro m l hwr
    refine ⟨valveMerge x.id none s, rfl, ?_⟩
    rw [valveMerge_fan hc hx hv hw hk]
    exact fanMerge_ends hc hsent hans hok hwr
  · refine ⟨valveMerge x.id none s, rfl, ?_⟩
    rw [valveMerge_fan hc hx hv hw hk]
    exact endsWith_fanMerge_failed hc hsent hans hbad
  · obtain ⟨y, hy⟩ := regionDrained_search hc hx hw henc hdue hheld hclean
    exact ⟨regionDrained x.id s, y, rfl, hy⟩
  · obtain ⟨y, hy, hph, hwork⟩ := regionDrained_rerank hc hx hw hheld hclean
    refine ⟨regionDrained x.id s, y, _, rfl, hy, hph, hwork, List.length_map _, fun i q q' hq hq' => ?_⟩
    obtain rfl := eq_of_getElem?_map hq hq'
    exact termsScored_merged

end Sys2Proof.Machine

/-! SUPPORT. Rounds of the beam walk: what their commits and their reads make of the walk (R146, R150 to R153). -/
namespace Sys2Proof.Machine

/-! ## The commit of a round (R150, R157) -/

section
variable {shard : Nat} {q : Query} {sr : Search} {w : Walk}

theorem length_beamInsert_le {size : Nat} {b : Beam} {bs : List Beam} : (beamInsert size b bs).length ≤ size := List.length_take_le _ _

/-- The commit of a node marks it as visited, and writes the beam and the candidates at most; the beam keeps within its size. -/
theorem commitNode_walk {p : Search × Walk} {n : Nat} : ∃ bs cl, (commitNode shard q p n).2
      = { p.2 with visited := insertNat n p.2.visited, beam := bs, cand := cl }
    ∧ (p.2.beam.length ≤ p.2.beamSize → bs.length ≤ p.2.beamSize) := by
  obtain ⟨sr, w⟩ := p
  unfold commitNode
  dsimp only
  split
  · exact ⟨w.beam, w.cand, rfl, id⟩
  · split <;> dsimp only <;> split
    · exact ⟨_, _, rfl, fun _ => length_beamInsert_le⟩
    · exact ⟨w.beam, _, rfl, id⟩
    · exact ⟨_, w.cand, rfl, fun _ => length_beamInsert_le⟩
    · exact ⟨w.beam, w.cand, rfl, id⟩

theorem foldl_commitNode_walk {l : List Nat} {p : Search × Walk} : ∃ vs bs cl, (l.foldl (commitNode shard q) p).2
      = { p.2 with visited := vs, beam := bs, cand := cl }
    ∧ (∀ n, n ∈ vs ↔ n ∈ p.2.visited ∨ n ∈ l)
    ∧ (p.2.beam.length ≤ p.2.beamSize → bs.length ≤ p.2.beamSize) := by
  induction l generalizing p with
  | nil => exact ⟨p.2.visited, p.2.beam, p.2.cand, rfl, by simp, id⟩
  | cons m l ih =>
    obtain ⟨bs, cl, hnode, hlen⟩ := commitNode_walk (shard := shard) (q := q) (p := p) (n := m)
    obtain ⟨vs', bs', cl', hfold, hvis, hlen'⟩ := ih (p := commitNode shard q p m)
    rw [hnode] at hfold hvis hlen'
    refine ⟨vs', bs', cl', hfold, fun n => ?_, fun h => hlen' (hlen h)⟩
    rw [hvis, mem_insertNat, List.mem_cons]
    tauto

/-- A round's commit has visited the round's set and expanded its frontier, and counts both; then the next round begins. -/
theorem commitRound_walk : ∃ vs bs cl, (commitRound shard sr q w).2
      = nextRound { w with visited := vs, beam := bs, cand := cl, expansions := w.expansions + w.front.length, seeding := false,
                           rounds := if w.seeding then w.rounds else w.rounds + 1 }
    ∧ (∀ n, n ∈ vs ↔ n ∈ w.visited ∨ n ∈ w.cset)
    ∧ (w.beam.length ≤ w.beamSize → bs.length ≤ w.beamSize)
    ∧ (∀ b ∈ bs, b.cand.slot ∈ w.front → b.expanded = true) := by
  obtain ⟨vs, bs, cl, hfold, hvis, hlen⟩ := foldl_commitNode_walk (shard := shard) (q := q)
    (l := sortBy (fun (a b : Nat) => a < b) w.cset) (p := (sr, w))
  refine ⟨vs, bs.map (fun b => if b.cand.slot ∈ w.front then { b with expanded := true } else b), cl, ?_, fun n => ?_,
    fun h => (List.length_map _).trans_le (hlen h), fun b hb hf => ?_⟩
  · unfold commitRound
    generalize (sortBy (fun (a b : Nat) => a < b) w.cset).foldl (commitNode shard q) (sr, w) = r at hfold
    obtain ⟨sr', w'⟩ := r
    obtain rfl : w' = { w with visited := vs, beam := bs, cand := cl } := hfold
    rfl
  · rw [hvis, mem_sortBy]
  · obtain ⟨b', -, rfl⟩ := List.mem_map.1 hb
    split at hf
    · next h => rw [if_pos h]
    · next h => exact absurd hf h

end

/-! ## The next round (R153) -/

section
variable {w : Walk}

/-- The start of a round leaves what has been committed. -/
theorem nextRound_committed : (nextRound w).visited = w.visited ∧ (nextRound w).beam = w.beam
    ∧ (nextRound w).expansions = w.expansions ∧ (nextRound w).rounds = w.rounds := by
  unfold nextRound
  dsimp only
  split <;> exact ⟨rfl, rfl, rfl, rfl⟩

theorem nextFront_nextRound : nextFront (nextRound w) = nextFront w := by
  unfold nextRound
  dsimp only
  split <;> rfl

/-- A walk goes on with the frontier that its beam gives, whose neighbour lists are then read. -/
theorem nextRound_goes_on (h : (nextRound w).ended = false) : (nextRound w).front = nextFront w ∧ nextFront w ≠ []
    ∧ (nextRound w).waiting = nextFront w ∧ (nextRound w).listed = false := by
  unfold nextRound at h ⊢
  dsimp only at h ⊢
  split at h
  · cases h
  · next hgo =>
    rw [if_neg hgo]
    exact ⟨rfl, fun hf => hgo (by rw [hf]; rfl), rfl, rfl⟩

/-- A walk that ends waits for nothing; without a limit on its rounds it ends because its frontier is empty. -/
theorem nextRound_ends (hw : w.ended = false) (h : (nextRound w).ended = true) :
    (nextRound w).waiting = [] ∧ (w.maxRounds = 0 → nextFront w = []) := by
  unfold nextRound at h ⊢
  dsimp only at h ⊢
  split at h
  · next hend =>
    rw [if_pos hend]
    exact ⟨rfl, fun hmax => by simpa [hmax] using hend⟩
  · exact absurd (hw.symm.trans h) Bool.false_ne_true

end

/-! ## The screen of a round (R151, R152) -/

/-- The screen takes nodes of the graph that neighbour the frontier and have not been visited. -/
theorem mem_screen {sr : Search} {q : Query} {w : Walk} {m : Nat} (h : m ∈ screen sr q w) :
    m ∉ w.visited ∧ (tget sr.coll.arr.nodes m).isSome = true ∧ ∃ f ∈ w.front, m ∈ (tget sr.coll.arr.nodes f).getD [] := by
  obtain ⟨hnbr, hpass⟩ := List.mem_filter.1 h
  simp only [Bool.and_eq_true, decide_eq_true_eq] at hpass
  obtain ⟨⟨⟨-, hnew⟩, hnode⟩, -⟩ := hpass
  obtain hf | hf := mem_foldl_insertNat.1 hnbr
  · exact ⟨hnew, hnode, List.mem_flatMap.1 hf⟩
  · cases hf

/-! ## The rows of a round -/

/-- A search whose codes are known walks the graph. -/
structure Walking (s : State) (x : Cmd) (sr : Search) (w : Walk) (q : Query) : Prop where
  cmd : cmdGet s x.id = some x
  executing : x.phase = .executing
  work : x.work = .search sr
  walk : sr.walk = some w
  query : ∃ qs, sr.queries = q :: qs
  going : w.ended = false
  coded : sr.enc = []

section
variable {s : State} {x : Cmd} {sr : Search} {w : Walk} {q : Query} {n : Nat}

/-- A node has been read; when the last list of the frontier is there, the round's set is fixed and its heads are read. -/
def nodeRead (sr : Search) (q : Query) (n : Nat) (w : Walk) : Walk :=
  let w := { w with waiting := w.waiting.filter (· ≠ n) }
  if w.waiting = [] && !w.listed then
    let cs := screen sr q w
    { w with listed := true, cset := cs, waiting := cs.filter (· ∉ w.headsRead) }
  else w

theorem nodeRead_of_more (h : w.listed = true ∨ w.waiting.filter (· ≠ n) ≠ []) :
    nodeRead sr q n w = { w with waiting := w.waiting.filter (· ≠ n) } := by
  unfold nodeRead
  refine if_neg fun hlast => ?_
  obtain ⟨hempty, hopen⟩ : w.waiting.filter (· ≠ n) = [] ∧ w.listed = false := by simpa using hlast
  obtain hl | hm := h
  · exact Bool.false_ne_true (hopen.symm.trans hl)
  · exact hm hempty

theorem nodeRead_of_last (hl : w.listed = false) (hm : w.waiting.filter (· ≠ n) = []) :
    nodeRead sr q n w
      = { w with listed := true, cset := screen sr q w, waiting := (screen sr q w).filter (· ∉ w.headsRead) } := by
  unfold nodeRead
  rw [hm, hl]
  rfl

/-- A read of the round in progress returns clean. -/
theorem nodeArrives_of_clean (h : Walking s x sr w q) (hn : n ∈ w.waiting)
    (hp : nodePoisonAt s sr.coll sr.h n (nodeWords w.listed) = none) :
    nodeArrives x.id n s = setWork x.id (.search { sr with walk := some (nodeRead sr q n w) }) s := by
  obtain ⟨hc, hx, hw, hwalk, ⟨qs, hq⟩, hgoing, henc⟩ := h
  unfold nodeArrives
  simp only [hc, hx, hw, hwalk, hq, hp]
  rw [if_neg (by simp [hgoing, henc, hn])]
  rfl

/-- A poisoned word fails the search. -/
theorem endsWith_nodePoison {tower : Nat} {p : Poison} {d : DataWord} (hc : cmdGet s x.id = some x) :
    EndsWith (nodePoison x tower n p d s) x.id stPoisoned 0 := by
  have hcount := bumpSat_keeps (κ := 64) (o := reg .kwk tower 0x128) (lo := 0) (w := 32) (n := 1) rfl
    (bumpSat_keeps (o := reg .kwk tower 0x128) (lo := 32) (w := 32) (n := 1) rfl (keeps_refl (s₀ := s)))
  obtain ⟨y, hy, hend⟩ := endsWith_failCmd (status := stPoisoned) ((cmdGet_congr (hcount .cmds rfl)).trans hc)
  exact ⟨_, cmdGet_cmdMod_self (fun _ => rfl) hy, hend⟩

theorem endsWith_nodeArrives_poisoned {p : Poison × DataWord} (h : Walking s x sr w q) (hn : n ∈ w.waiting)
    (hp : nodePoisonAt s sr.coll sr.h n (nodeWords w.listed) = some p) : EndsWith (nodeArrives x.id n s) x.id stPoisoned 0 := by
  obtain ⟨hc, hx, hw, hwalk, ⟨qs, hq⟩, hgoing, henc⟩ := h
  unfold nodeArrives
  simp only [hc, hx, hw, hwalk, hq, hp]
  rw [if_neg (by simp [hgoing, henc, hn])]
  exact endsWith_nodePoison hc

/-- A round whose reads have all returned is committed. -/
theorem cmdGet_walkCommit (h : Walking s x sr w q) (hl : w.listed = true) (hwait : w.waiting = []) (hcore : coreTaken s x = false) :
    ∃ y sr', cmdGet (walkCommit x.id s) x.id = some y ∧ y.phase = .executing ∧ y.work = .search sr'
      ∧ sr'.walk = some (commitRound (shardId s) sr q w).2 := by
  obtain ⟨hc, hx, hw, hwalk, ⟨qs, hq⟩, hgoing, henc⟩ := h
  have hready : roundReady sr w = true := by simp [roundReady, hgoing, henc, hl, hwait]
  unfold walkCommit
  simp only [hc, hx, hw, hwalk, hq]
  rw [if_neg (by simp [hready, hcore])]
  generalize commitRound (shardId s) sr q w = r
  obtain ⟨sr', w'⟩ := r
  dsimp only
  obtain ⟨cs, p, hdone⟩ := cmdGet_workDone (f := fun k => keyRes k = 0 || keyRes k = 2)
    (share := (w.front.length : Rat) / max 1 (w.maxExp - w.expansions))
    ((cmdGet_congr (account_keeps (κ := 2097216) rfl (bumpWrap_keeps rfl (keeps_refl (s₀ := s))) .cmds rfl)).trans hc)
  have hset := cmdGet_setWork (w := .search { sr' with walk := some w' }) hdone
  split
  · exact ⟨_, _, cmdGet_endWalk hset, hx, rfl, rfl⟩
  · exact ⟨_, _, hset, hx, rfl, rfl⟩

end

end Sys2Proof.Machine

/-! SUPPORT. The deadline cut (R111, R139, R160, R395) and moved contexts (R163). -/
namespace Sys2Proof.Machine

/-! ## The end of a walk (R161) -/

/-- A walk that ends holds no context. -/
theorem ne_of_mem_endWalk_contexts {s : State} {c : Nat} {x : Cmd} (hc : cmdGet s c = some x) {p : Nat × Nat}
    (hp : p ∈ (endWalk c s).contexts) : p.2 ≠ c := by
  rw [endWalk, hc] at hp
  exact of_decide_eq_true (List.mem_filter.1 hp).2

/-! ## Cuts -/

/-- A search with a deadline that asks to be cut. -/
structure Cuttable (s : State) (x : Cmd) : Prop where
  cmd : cmdGet s x.id = some x
  executing : x.phase = .executing
  search : isSearch x = true
  asks : cCut x = true
  deadline : x.deadlineUs ≠ 0

section
variable {s : State} {x : Cmd}

/-- A search is cut with what it has scored; a walk ends. -/
theorem deadlineCut_search {sr : Search} (h : Cuttable s x) (hw : x.work = .search sr) (hnew : sr.cut = false)
    (hdue : cutDue s x (cutLead s x sr.k sr.kSel sr.rerankN sr.queries.length) = true) :
    deadlineCut x.id s = if sr.walk.isSome then endWalk x.id (setWork x.id (.search (cutSearch sr)) s)
      else setWork x.id (.search (cutSearch sr)) s := by
  obtain ⟨hc, hx, hs, ha, hd⟩ := h
  unfold deadlineCut
  simp only [hc, hw]
  rw [if_neg (by simp [hx, hs, ha, hd]), if_neg (by simp [hnew, hdue])]

/-- A fan-out is cut with the shards that have answered. -/
theorem deadlineCut_fan {f : Fan} (h : Cuttable s x) (hw : x.work = .fan f) (hnew : f.cut = false)
    (hdue : cutDue s x (cutLead s x f.k f.kSel f.rerankN 1) = true) :
    deadlineCut x.id s = setWork x.id (.fan (fanCut f)) s := by
  obtain ⟨hc, hx, hs, ha, hd⟩ := h
  unfold deadlineCut
  simp only [hc, hw]
  rw [if_neg (by simp [hx, hs, ha, hd]), if_neg (by simp [hnew, hdue])]

theorem deadlineCut_unread {k : Coll} (h : Cuttable s x) (hw : x.work = .none) (hk : viewOf s x = some k) :
    deadlineCut x.id s = cutUnread x k s := by
  obtain ⟨hc, hx, hs, ha, hd⟩ := h
  unfold deadlineCut
  simp only [hc, hw, hk]
  rw [if_neg (by simp [hx, hs, ha, hd])]

theorem cmdGet_deadlineCut_search {sr : Search} (h : Cuttable s x) (hw : x.work = .search sr) (hnew : sr.cut = false)
    (hdue : cutDue s x (cutLead s x sr.k sr.kSel sr.rerankN sr.queries.length) = true) :
    ∃ y, cmdGet (deadlineCut x.id s) x.id = some y ∧ y.phase = .executing ∧ y.work = .search (cutSearch sr)
      ∧ (sr.walk.isSome = true → y.charges = [] ∧ ∀ p ∈ (deadlineCut x.id s).contexts, p.2 ≠ x.id) := by
  have hset := cmdGet_setWork (w := .search (cutSearch sr)) h.cmd
  rw [deadlineCut_search h hw hnew hdue]
  cases hwalk : sr.walk.isSome with
  | true => exact ⟨_, cmdGet_endWalk hset, h.executing, rfl, fun _ => ⟨rfl, fun _ hp => ne_of_mem_endWalk_contexts hset hp⟩⟩
  | false => exact ⟨_, hset, h.executing, rfl, nofun⟩

/-- A search that has read nothing is cut with nothing scored. -/
theorem cmdGet_cutUnread_search {k : Coll} (hc : cmdGet s x.id = some x) (hop : cOp x ≠ 0x32)
    (hdue : cutDue s x (cutLead s x (sparams x).k (kSelOf (sparams x).k (sparams x).rerankN) (sparams x).rerankN (sparams x).count) = true) :
    ∃ y, cmdGet (cutUnread x k s) x.id = some y ∧ y.phase = x.phase ∧ y.work = .search { searchInit x k with cut := true } := by
  have hset := cmdGet_setWork (w := .search { searchInit x k with cut := true }) hc
  unfold cutUnread
  rw [if_neg hop, if_neg (by simp [hdue])]
  dsimp only
  split
  · exact ⟨_, cmdGet_endWalk hset, rfl, rfl⟩
  · exact ⟨_, hset, rfl, rfl⟩

/-- A fan-out that has sent nothing is cut once its inputs have been read. -/
theorem cmdGet_cutUnread_fan {t : State} {k : Coll} {g : Fan} (hc : cmdGet s x.id = some x) (hop : cOp x = 0x32)
    (hdue : cutDue s x (cutLead s x 0 0 0 1) = true) (hin : fanInputs x k s = .ok g t) :
    cmdGet (cutUnread x k s) x.id = some { x with work := .fan (fanCut g) } := by
  have hread := res_ok hin (fanInputs_keeps (κ := 155189320) rfl (keeps_refl (s₀ := s)))
  unfold cutUnread
  rw [if_pos hop, if_pos hdue, hin, andThen_ok, settle_ok]
  exact cmdGet_setWork ((cmdGet_congr (hread .cmds rfl)).trans hc)

end

/-! ## Moved contexts (R163) -/

theorem moveCmd_id {a b : Nat} {x : Cmd} : (moveCmd a b x).id = x.id := by
  unfold moveCmd
  split
  · split <;> rfl
  · rfl

/-- A change that leaves the numbers of commands is found at each command. -/
theorem find?_map_of_id {f : Cmd → Cmd} {l : List Cmd} {c : Nat} (hf : ∀ y, (f y).id = y.id) :
    (l.map f).find? (fun y => y.id = c) = (l.find? (fun y => y.id = c)).map f := by
  rw [List.find?_map]
  congr 2
  funext y
  rw [Function.comp_apply, hf]

/-- The contexts of core `a` that core `b` has room for (R146). -/
def movedFrom (s : State) (a b : Nat) : List Nat := ((s.contexts.filter (fun p => p.1 = a)).map Prod.snd).take (480 - coreHeld s b)

theorem movedFrom_ne_nil {s : State} {a b : Nat} (ha : coreHeld s a ≠ 0) (hb : coreHeld s b < 480) : movedFrom s a b ≠ [] := by
  refine List.ne_nil_of_length_pos ?_
  have hlen : (movedFrom s a b).length = min (480 - coreHeld s b) (coreHeld s a) := by
    rw [movedFrom, List.length_take, List.length_map]
    rfl
  omega

/-- What a move leaves of the contexts and of the commands that hold them. -/
theorem contextMoved_moves {s : State} {a b : Nat} (ha : a < 128) (hb : b < 128) (hab : a ≠ b) (htower : a / 32 = b / 32)
    (hheld : coreHeld s a ≠ 0) (hroom : coreHeld s b < 480) (haway : coreAway s a = true) (hin : coreAway s b = false) :
    (contextMoved a b s).contexts = s.contexts.map (fun p => if p.1 = a ∧ p.2 ∈ movedFrom s a b then (b, p.2) else p)
      ∧ (contextMoved a b s).cmds = s.cmds.map (fun x => if x.id ∈ movedFrom s a b then moveCmd a b x else x) := by
  have hmoved : ((s.contexts.filter (fun p => p.1 = a)).map Prod.snd).take (480 - coreHeld s b) = movedFrom s a b := rfl
  have hne := movedFrom_ne_nil hheld hroom
  unfold contextMoved
  simp only [Nat.mod_eq_of_lt ha, Nat.mod_eq_of_lt hb, hmoved]
  rw [if_neg (by simp [hne, hab, htower, haway, hin])]
  refine ⟨(raise_keeps (κ := 2684485704) rfl (bumpSat_keeps rfl keeps_refl) .contexts rfl).trans ?_,
    raise_keeps (κ := 2684485704) rfl (bumpSat_keeps rfl keeps_refl) .cmds rfl⟩
  simp only [Bool.and_eq_true, decide_eq_true_eq]

end Sys2Proof.Machine

/-! SUPPORT. The rows of the beam walk and of the deadline cut. -/
namespace Sys2Proof.Machine

/-- Settles O42: a round is committed node by node and opens the next one, a cut keeps the search but for what it has not scored, and a
move leaves the numbers of the commands. -/
theorem walkRows : Obligations.WalkRows := by
  unfold Obligations.WalkRows
  refine ⟨fun s x sr w q qs n hc hx hw hwalk hq hgo henc hn hp hmore => ?_,
    fun s x sr w q qs n hc hx hw hwalk hq hgo henc hn hp hl hlast => ?_,
    fun s x sr w q qs n p hc hx hw hwalk hq hgo henc hn hp => ?_,
    fun s x sr w q qs hc hx hw hwalk hq hgo henc hl hwait hcore => ?_,
    fun s x sr hc hx hs ha hd hw hnew hdue => ?_, fun s x f hc hx hs ha hd hw hnew hdue => ?_,
    fun s x k hc hx hs ha hd hw hk hop hdue => ?_, fun s t x k g hc hx hs ha hd hw hk hop hdue hin => ?_,
    fun s a b ha hb hab htower hheld hroom haway hin => ?_⟩
  · refine ⟨nodeArrives x.id n s, rfl, ?_⟩
    rw [nodeArrives_of_clean ⟨hc, hx, hw, hwalk, ⟨qs, hq⟩, hgo, henc⟩ hn hp, nodeRead_of_more hmore]
    exact cmdGet_setWork hc
  · refine ⟨nodeArrives x.id n s, screen sr q w, rfl, ?_, rfl, fun m => mem_screen⟩
    rw [nodeArrives_of_clean ⟨hc, hx, hw, hwalk, ⟨qs, hq⟩, hgo, henc⟩ hn hp, nodeRead_of_last hl hlast]
    exact cmdGet_setWork hc
  · exact ⟨nodeArrives x.id n s, rfl, endsWith_nodeArrives_poisoned ⟨hc, hx, hw, hwalk, ⟨qs, hq⟩, hgo, henc⟩ hn hp⟩
  · obtain ⟨y, sr', hy, hph, hwork, hwalk'⟩ := cmdGet_walkCommit ⟨hc, hx, hw, hwalk, ⟨qs, hq⟩, hgo, henc⟩ hl hwait hcore
    obtain ⟨vs, bs, cl, hround, hvis, hlen, hexp⟩ := commitRound_walk (shard := shardId s) (sr := sr) (q := q) (w := w)
    rw [hround] at hwalk'
    refine ⟨walkCommit x.id s, y, sr', _, rfl, hy, hph, hwork, hwalk', ?_⟩
    obtain ⟨hv, hb, he, hr⟩ := nextRound_committed (w := { w with
      visited := vs, beam := bs, cand := cl, expansions := w.expansions + w.front.length, seeding := false
      rounds := if w.seeding then w.rounds else w.rounds + 1 })
    rw [hv, hb, he, hr, nextFront_nextRound]
    refine ⟨rfl, rfl, hvis, hlen, hexp, fun h => ?_, nextRound_ends hgo⟩
    obtain ⟨hfront, hne, hreads, hlisted⟩ := nextRound_goes_on h
    exact ⟨hfront, hfront.symm ▸ hne, hreads.trans hfront.symm, hlisted⟩
  · obtain ⟨y, hy⟩ := cmdGet_deadlineCut_search ⟨hc, hx, hs, ha, hd⟩ hw hnew hdue
    exact ⟨deadlineCut x.id s, y, rfl, hy⟩
  · refine ⟨deadlineCut x.id s, rfl, ?_⟩
    rw [deadlineCut_fan ⟨hc, hx, hs, ha, hd⟩ hw hnew hdue]
    exact cmdGet_setWork hc
  · obtain ⟨y, hy, hph, hwork⟩ := cmdGet_cutUnread_search (k := k) hc hop hdue
    rw [← deadlineCut_unread ⟨hc, hx, hs, ha, hd⟩ hw hk] at hy
    exact ⟨deadlineCut x.id s, y, _, rfl, hy, hph.trans hx, hwork, rfl, rfl, rfl, rfl⟩
  · have hy := cmdGet_cutUnread_fan hc hop hdue hin
    rw [← deadlineCut_unread ⟨hc, hx, hs, ha, hd⟩ hw hk] at hy
    exact ⟨deadlineCut x.id s, _, rfl, hy, hx, rfl⟩
  · obtain ⟨hctx, hcmds⟩ := contextMoved_moves ha hb hab htower hheld hroom haway hin
    refine ⟨contextMoved a b s, rfl, hctx, fun c x hx => ?_⟩
    rw [cmdGet, hcmds, find?_map_of_id fun y => by split <;> simp only [moveCmd_id]]
    exact congrArg (Option.map _) hx

end Sys2Proof.Machine

/-! SUPPORT. Element codes in packed bytes, and the binary product (R186, R191). -/
namespace Sys2Proof.Machine

/-! ## Elements in packed bytes (R186) -/

theorem b2n_getLsbD {w : Nat} {b : BitVec w} {i : Nat} : b2n (b.getLsbD i) = b.toNat / 2 ^ i % 2 := by
  rw [b2n, BitVec.getLsbD, Nat.testBit_eq_decide_div_mod_eq]
  rcases Nat.mod_two_eq_zero_or_one (b.toNat / 2 ^ i) with h | h <;> simp [h]

section
variable {bs : List Byte} {k : Nat}

theorem elemCode_bin1 : elemCode 0 bs k = b2n ((bs.getD (k / 8) 0).getLsbD (k % 8)) := by
  rw [b2n_getLsbD, elemCode, fmtBits, Nat.mul_one, Nat.pow_one]

theorem elemCode_int2 : elemCode 1 bs k = bits (bs.getD (k / 4) 0).toNat (2 * (k % 4) + 1) (2 * (k % 4)) := by
  have hbyte : k * 2 / 8 = k / 4 := by omega
  have hbit : k * 2 % 8 = 2 * (k % 4) := by omega
  have hwidth : 2 * (k % 4) + 1 - 2 * (k % 4) + 1 = 2 := by omega
  rw [elemCode, fmtBits, bits, hbyte, hbit, hwidth]

/-- INT4 and FP4 are the formats of four bits. -/
theorem fmtBits_eq_four {fmt : Nat} (h : fmt = 2 ∨ fmt = 3) : fmtBits fmt = 4 := by
  rcases h with rfl | rfl <;> rfl

theorem elemCode_four_bits {fmt : Nat} (h : fmtBits fmt = 4) :
    elemCode fmt bs k = (bs.getD (k / 2) 0).toNat / 2 ^ (4 * (k % 2)) % 2 ^ 4 := by
  have hbyte : k * 4 / 8 = k / 2 := by omega
  have hbit : k * 4 % 8 = 4 * (k % 2) := by omega
  rw [elemCode, h, hbyte, hbit]

end

/-- Settles O33: an element's bits lie in one byte, at the place that the width of its format gives. -/
theorem elementPacking : Obligations.ElementPacking := by
  unfold Obligations.ElementPacking
  refine fun bs k => ⟨elemCode_bin1, elemCode_int2, fun fmt hfmt => ?_⟩
  have hcode := elemCode_four_bits (bs := bs) (k := k) (fmtBits_eq_four hfmt)
  exact ⟨fun heven => by rw [hcode, heven, bits], fun hodd => by rw [hcode, hodd, bits]⟩

/-! ## The binary product (R191) -/

/-- The product of two vectors of signs, element by element. -/
def signProduct (l x y : Nat) : Int :=
  ((List.range l).map (fun k => elemTwice 0 (x / 2 ^ k % 2) * elemTwice 0 (y / 2 ^ k % 2) / 4)).sum

/-- Two signs multiply to 1 where their codes agree and to −1 where they differ. -/
theorem elemTwice_mul {a b : Nat} : elemTwice 0 (a % 2) * elemTwice 0 (b % 2) / 4 = 1 - 2 * ((a ^^^ b) % 2 : Nat) := by
  rw [Nat.xor_mod_two_eq, Nat.add_mod]
  rcases Nat.mod_two_eq_zero_or_one a with ha | ha <;> rcases Nat.mod_two_eq_zero_or_one b with hb | hb <;>
    rw [ha, hb] <;> decide

/-- The distance is that of the lowest bits and that of the rest. -/
theorem hamming_succ {l x y : Nat} : hamming (l + 1) x y = (x ^^^ y) % 2 + hamming l (x / 2) (y / 2) := by
  rw [hamming, popcount, hamming]
  exact congrArg (fun n => (x ^^^ y) % 2 + popcount l n) Nat.xor_div_two

theorem signProduct_succ {l x y : Nat} :
    signProduct (l + 1) x y = elemTwice 0 (x % 2) * elemTwice 0 (y % 2) / 4 + signProduct l (x / 2) (y / 2) := by
  simp [signProduct, List.range_succ_eq_map, Function.comp_def, Nat.pow_succ', Nat.div_div_eq_div_mul]

theorem signProduct_eq {l x y : Nat} : signProduct l x y = (l : Int) - 2 * hamming l x y := by
  induction l generalizing x y with
  | zero => rfl
  | succ l ih =>
    rw [signProduct_succ, ih, elemTwice_mul, hamming_succ]
    push_cast
    ring

/-- The drain takes the product back out of units of 2^−26 and halves what it lacks of the length. -/
theorem drainHamming_eq {l d : Nat} {a : Acc} (h : a.value = ((l : Int) - 2 * d) * 2 ^ 26) : drainHamming l a = d := by
  rw [drainHamming, h, Int.mul_ediv_cancel _ (by decide)]
  omega

/-- Settles O34: bit by bit, the product loses 2 for each position in which the codes differ. -/
theorem binaryProduct : Obligations.BinaryProduct := by
  unfold Obligations.BinaryProduct
  intro l x y a
  rw [← List.sum_eq_foldl]
  have hdot := signProduct_eq (l := l) (x := x) (y := y)
  exact ⟨hdot, fun ha => drainHamming_eq (ha.trans (congrArg (· * 2 ^ 26) hdot))⟩

end Sys2Proof.Machine

/-! SUPPORT. An ENCODE runs under the collection as it stood at its admission (R21, R242). -/
namespace Sys2Proof.Machine

/-- Every batch of an ENCODE runs under the version that its collection names. -/
theorem version_of_mem_encBatches {x : Cmd} {v : Nat} {bufs : List Nat} {vs : List EncVec} {s : State} {e : Enc}
    (h : e ∈ (encBatches x v bufs vs s).1) : e.version = v := by
  obtain ⟨k, -, rfl⟩ := List.mem_map.1 h
  rfl

/-- An ENCODE reads its sources and starts its encodes as the collection that it views has them. -/
theorem encode_of_begun {s : State} {x : Cmd} {k : Coll} (h : Begun s x 0x40) (hk : viewOf s x = some k)
    (hb : barred s x = false) :
    exec (.encode x.id) s = .next (drainAll (unlessPoison x s (settle x.id (encodeStart x k s)))) := by
  have hrow : exec (.encode x.id) s = execEncode x.id s := rfl
  rw [hrow, execEncode, h.1]
  simp [h.2, hk, hb]

/-- The value and the state of a result of success. -/
def Res.ok? {α : Type} : Res α → Option (α × State)
  | .ok a s => some (a, s)
  | _ => none

theorem Res.eq_ok_get {α : Type} {r : Res α} (h : r.ok?.isSome = true) : r = .ok (r.ok?.get h).1 (r.ok?.get h).2 := by
  cases r with
  | ok a u => rfl
  | fail n f s => cases h
  | wait s => cases h

/-- A program of a QUANT to BIN1 and a MATMUL of its codes, whose signs are the code, for sources of one INT8 element. -/
def signProgram : Prog :=
  let head := leBytes 64 (2 + 2 ^ 16 + 4 * 2 ^ 32 + 64 * 2 ^ 48 + 2 * 2 ^ 64)
  let quant := leBytes 64 (1 + 2 ^ 16 + 0xFFFF * 2 ^ 64)
  let matmul := leBytes 32 (2 + 2 ^ 8 + 2 * 2 ^ 16 + 64 * 2 ^ 32 + 64 * 2 ^ 192) ++ leBytes 32 (2 + 4 * 2 ^ 8 + 0xFFFF_FFFF * 2 ^ 16)
  { domain := 0, image := head ++ quant ++ matmul, batch := 0, lost := none }

/-- A collection of 64-bit codes whose vectors are encoded under version 0. -/
def admittedColl : Coll := collOf State.reset (leBytes 128 (64 * 2 ^ 16 + 2 ^ 32 + 4 * 2 ^ 48)) 0 0xFFFF

/-- The same collection once a migration has made version 1 its own. -/
def migratedColl : Coll := { admittedColl with encVersion := 1 }

/-- An ENCODE of one source vector to a code, admitted before the migration. -/
def admittedEncode : Cmd :=
  { newCmd 1 0 (leBytes 40 0x40 ++ leBytes 88 (1 + 2 ^ 104)) 0 0 with
    phase := .executing, view := some admittedColl, images := [(0, signProgram.image)] }

/-- The module at READY with the boot region over the first GiB, both program versions and the migrated collection. -/
def migratedState : State :=
  { State.reset with
    chn := { State.reset.chn with stage := 6 }
    regs := [(reg .mpc 0 0x010, 1), (reg .crk 0 0x108, 2 ^ 30)]
    progs := [(0, signProgram), (1, signProgram)]
    colls := [(0, migratedColl)]
    cmds := [admittedEncode] }

theorem admittedEncode_begun : Begun migratedState admittedEncode 0x40 := ⟨by decide +kernel, rfl⟩

/-- Its sources, read as the collection now has them. -/
def migratedSources : Res (List EncVec) :=
  readSources admittedEncode migratedColl.srcFormat migratedColl.srcDim (cf admittedEncode 44 4) (cf admittedEncode 40 4)
    (cf admittedEncode 16 8) 0 migratedState

theorem migratedSources_ok : migratedSources.ok?.isSome = true := by decide +kernel

/-- The vectors of those sources. -/
def migratedVecs : List EncVec := (migratedSources.ok?.get migratedSources_ok).1

/-- The state behind their read. -/
def readState : State := (migratedSources.ok?.get migratedSources_ok).2

/-- The batches of those vectors under version 1. -/
def migratedEncs : List Enc :=
  (encBatches admittedEncode 1 (outBufs (imageOf (endStage 1 2 (consumeRings 1 readState)) admittedEncode 1) (cf admittedEncode 53 1))
    migratedVecs (endStage 1 2 (consumeRings 1 readState))).1

theorem migratedEncs_unmarked : bellMarked migratedEncs = none := by decide +kernel
theorem migratedEncs_open : migratedEncs.all encDone = false := by decide +kernel
theorem migratedColl_version : encodeVersion admittedEncode migratedColl = 1 := by decide +kernel

/-- The state once the ENCODE has started. -/
def encodingState : State :=
  unlessPoison admittedEncode migratedState (settle admittedEncode.id (encodeStart admittedEncode admittedColl migratedState))

/-- It encodes under version 0. -/
theorem encodingState_versions : (cmdGet encodingState 1).map (fun y => (encsOf y).map Enc.version) = some [0] := by decide +kernel

/-- Refutes O32: its first clause has an ENCODE run under the version that its collection names now, but the command holds the collection
as it stood at its admission and runs under that (R21), and here a migration has ended since. -/
theorem not_encodeRows : ¬ Obligations.EncodeRows := by
  unfold Obligations.EncodeRows
  rintro ⟨hstart, -⟩
  have hnow := hstart migratedState readState admittedEncode migratedColl migratedVecs admittedEncode_begun rfl rfl rfl
  rw [migratedColl_version] at hnow
  have hnow := hnow rfl (Res.eq_ok_get migratedSources_ok) migratedEncs_unmarked migratedEncs_open
  obtain ⟨w, y, hw, hy, -, hwork⟩ := hnow
  have hrow := encode_of_begun (k := admittedColl) admittedEncode_begun rfl rfl
  have hver := encodingState_versions
  rw [encodingState, ← cmdGet_congr (cmds_of_drained hrow hw), show cmdGet w 1 = some y from hy] at hver
  have hmap : (encsOf y).map Enc.version = [0] := Option.some.inj hver
  obtain ⟨e, he, hzero⟩ := List.mem_map.1 (hmap ▸ List.mem_cons_self : 0 ∈ (encsOf y).map Enc.version)
  rw [encsOf, hwork] at he
  have hone : e.version = 1 := version_of_mem_encBatches he
  omega

end Sys2Proof.Machine

/-! SUPPORT. A walker core that goes to sleep keeps the epoch it has (R419, R441). -/
namespace Sys2Proof.Machine

/-- A walker core in service that Bellows may put to sleep: it is known, awake and without contexts, and eight others of its tower stay
awake (R419). -/
structure CoreMaySleep (s : State) (k : Nat) : Prop where
  known  : k < 128
  on     : sleepOn s = true
  stays  : unitGone s { kind := 4, logical := k } = false
  awake  : { kind := 4, logical := k } ∉ s.blw.asleep
  served : { kind := 4, logical := k } ∉ s.chn.returning
  idle   : coreHeld s k = 0
  inUse  : coreIn s k = true
  others : 8 < (awakeCores s (k / 32)).length

/-- It is listed as asleep and keeps the epoch of the moment at which it leaves service. -/
theorem CoreMaySleep.unitSleep_eq {s : State} {k : Nat} (h : CoreMaySleep s k) :
    unitSleep { kind := 4, logical := k } s
      = coreLeaves k { s with blw := { s.blw with asleep := s.blw.asleep ++ [{ kind := 4, logical := k }] } } := by
  rw [unitSleep, if_neg (by simp [h.on, h.stays, h.awake, h.served])]
  exact if_neg (by simp [h.known, h.idle, h.inUse, h.others])

/-- The module at READY, with every walker core in service and sleep enabled. -/
def readyState : State := { State.reset with chn := { State.reset.chn with stage := 6 } }

theorem coreMaySleep_readyState : CoreMaySleep readyState 0 :=
  ⟨by decide, by decide +kernel, rfl, List.not_mem_nil, List.not_mem_nil, rfl, by decide +kernel, by decide +kernel⟩

/-- Refutes O47: its tenth clause has the sleep of a walker core change the list of sleeping units alone, but a core that leaves service
also keeps the global epoch of that moment, by which its return is judged (R441, R442). -/
theorem not_unitRows : ¬ Obligations.UnitRows := by
  unfold Obligations.UnitRows
  rintro ⟨-, -, -, -, -, -, -, -, -, hcore, -⟩
  have h := coreMaySleep_readyState
  have hsleep := hcore readyState 0 h.known h.on h.stays h.awake h.served h.idle h.inUse h.others
  have hrow : exec (.unitSleep { kind := 4, logical := 0 }) readyState
      = .next (unitSleep { kind := 4, logical := 0 } readyState) := rfl
  rw [hrow, h.unitSleep_eq] at hsleep
  have hepoch : tset readyState.chn.coreEpoch 0 readyState.chn.epoch = readyState.chn.coreEpoch :=
    congrArg (fun t => t.chn.coreEpoch) (Host.Outcome.next.inj hsleep)
  exact absurd hepoch (List.cons_ne_nil _ _)

end Sys2Proof.Machine

/-! SUPPORT. Programs and tables: their records, and the barrier of a swap (R233 to R238, R265). -/
namespace Sys2Proof.Machine

/-! ## Records that must be on flash (R307) -/

/-- A command whose record must be on flash waits for its stripe, whether or not the journal is written through. -/
theorem journals_finishJournaled_flash {s u : State} {c : Nat} {x : Cmd} {r : JRec} {f : Cmd → Cmd} (hid : ∀ y, (f y).id = y.id)
    (hph : ∀ y, (f y).phase = y.phase) (hc : cmdGet u c = some x) (hx : x.phase = .executing)
    (hb : u.bag = (journalPut r s).2.bag) (hs : r.stripe = none) :
    Journals s (finishJournaled c s.bag.nextSeq true f u) c r.type r.coll r.body (f { x with pool := 0, spill := [] }).result true := by
  have hput : u.bag.recs = s.bag.recs ++ [{ r with seq := s.bag.nextSeq, at_ := s.now, off := s.bag.sramHead }]
      ∧ u.bag.nextSeq = s.bag.nextSeq + 1 := by rw [hb, journalPut_bag]; exact ⟨rfl, rfl⟩
  obtain ⟨hrecs, hnext, -⟩ := finishJournaled_bag (s := u) (c := c) (n := s.bag.nextSeq) (f := f) (needFlash := true)
  have hfree : cmdGet (closeStripe s.bag.nextSeq (freeUnits c u)) c = some { x with pool := 0, spill := [] } := cmdGet_freeUnits hc
  have hwait := cmdGet_cmdMod_self (f := fun y => { f y with jseq := s.bag.nextSeq, journaled := true, work := .wait 3 s.bag.nextSeq })
    hid hfree
  refine ⟨⟨_, hrecs.trans hput.1, rfl, rfl, rfl, rfl, hs⟩, hnext.trans hput.2, ?_⟩
  rw [finishJournaled, if_pos (by simp [onFlash_journalPut hb hs])]
  exact ⟨_, cmdGet_raiseHorizons hwait (by simp [hph, hx]), rfl, rfl, rfl, by simp [hph, hx]⟩

theorem finishJournaled_progs {s : State} {c n : Nat} {needFlash : Bool} {f : Cmd → Cmd} :
    (finishJournaled c n needFlash f s).progs = s.progs :=
  finishJournaled_keeps (κ := 13196622569472) rfl (keeps_refl (s₀ := s)) .progs rfl

/-- The record that a command on programs or tables writes: one of no collection. -/
def storeRec (x : Cmd) (type : Nat) (body : JBody) (s : State) : JRec := jrecNew type 0xFFFF body 128 (domOf s x) x.queue (cTag x)

section
variable {s u : State} {x : Cmd}

theorem readBuf_ok_keeps {va n : Nat} {bs : List Byte} (h : readBuf x va n s = .ok bs u) : Keeps 138412104 s u :=
  res_ok h (readBuf_keeps rfl keeps_refl)

theorem journalCmd_store {type : Nat} {body : JBody} (hf : journalFits s (runsBounded s x) 128 = true) :
    journalCmd x type 0xFFFF body 64 s = .ok s.bag.nextSeq (journalPut (storeRec x type body s) s).2 :=
  journalCmd_of_fits (payload := 64) hf

/-! ## PROG_LOAD (R233, R234) -/

def loadedProg (u : State) (x : Cmd) (img : List Byte) : Prog := { domain := domOf u x, image := img, batch := 0, lost := none }

/-- The program `p` has been stored as version `v`, or retired, under its record. -/
def progStored (u : State) (x : Cmd) (v : Nat) (p : Option Prog) (progs : Table Prog) : State :=
  { (journalPut (storeRec x 0x30 (.program v p) u) u).2 with progs := progs }

theorem progLoad_ok {img : List Byte} {v : Nat} (hlim : s.progs.length < 256) (hread : readBuf x (cf x 16 8) (cf x 24 4) s = .ok img u)
    (hsize : cf x 24 4 = 64 + 64 * progSteps img) (hbad : badProg u (domOf u x) img = none)
    (hv : leastFree (u.progs.map Prod.fst ++ retiring u) ((u.progs.map Prod.fst ++ retiring u).length + 1) 0 = v)
    (hf : journalFits u (runsBounded u x) 128 = true) :
    settle x.id (progLoad x s) = finishJournaled x.id u.bag.nextSeq true (fun y => { y with result := v })
      (progStored u x v (some (loadedProg u x img)) (tset u.progs v (loadedProg u x img))) := by
  have hprogs : ∀ b, (journalPut (storeRec x 0x30 b u) u).2.progs = u.progs := fun b => journalPut_keeps_written .progs rfl
  simp only [progLoad, if_neg (Nat.not_le.2 hlim), hread, andThen_ok, ← hsize, ne_eq, not_true_eq_false, if_false, hbad, hv,
    journalCmd_store hf, settle_ok, hprogs]
  rfl

theorem progRetire_ok {p : Prog} (hp : tget s.progs (cf x 30 2) = some p) (hdom : domOf s x = 0 ∨ p.domain = domOf s x)
    (hfree : s.colls.any (fun k => k.2.encVersion = cf x 30 2 || k.2.encNext = cf x 30 2) = false)
    (hf : journalFits s (runsBounded s x) 128 = true) :
    settle x.id (progRetire x s) = finishJournaled x.id s.bag.nextSeq false id
      (progStored s x (cf x 30 2) none (tdel s.progs (cf x 30 2))) := by
  have hprogs : ∀ b, (journalPut (storeRec x 0x30 b s) s).2.progs = s.progs := fun b => journalPut_keeps_written .progs rfl
  have hdom' : ¬ (domOf s x ≠ 0 ∧ p.domain ≠ domOf s x) := fun h => hdom.elim h.1 h.2
  simp only [progRetire, hp, if_neg hdom', hfree, Bool.false_eq_true, if_false, journalCmd_store hf, andThen_ok, settle_ok, hprogs]
  rfl

/-! ## TABLE_LOAD (R236, R238) -/

/-- The pending version that TABLE_LOAD makes of the bytes it has read. -/
def loadedData (x : Cmd) (bs : List Byte) : TblData :=
  { kind := cf x 30 1, fmt := cf x 31 1, rows := cf x 32 4, cols := cf x 36 4, scale := cf x 40 1, tscale := cf x 41 1, bytes := bs }

/-- The table `t` has been given a pending version under its record. -/
def tableStored (u : State) (x : Cmd) (t : Tbl) : State :=
  { (journalPut (storeRec x 0x31 (.table (cf x 28 2) (some { t with earlier := [] })) u) u).2 with tables := tset u.tables (cf x 28 2) t }

theorem tableLoad_ok {bs : List Byte} {t : Tbl} (hh : cf x 28 2 ≠ 0xFFFF) (ht : tget s.tables (cf x 28 2) = some t)
    (hdom : t.domain = domOf s x)
    (harea : moduleArea s - (t.pending.map (fun d => d.bytes.length)).getD 0 + cf x 24 4 ≤ 6 * 2 ^ 30)
    (hread : readBuf x (cf x 16 8) (cf x 24 4) s = .ok bs u) (hcrc : crc32c bs = cf x 44 4)
    (hf : journalFits u (runsBounded u x) 128 = true) :
    settle x.id (tableLoad x s) = finishJournaled x.id u.bag.nextSeq true (fun y => { y with result := cf x 28 2 })
      (tableStored u x { t with pending := some (loadedData x bs) }) := by
  have htables : ∀ b, (journalPut (storeRec x 0x31 b u) u).2.tables = u.tables := fun b => journalPut_keeps_written .tables rfl
  have harea' : ¬ moduleArea s - (t.pending.map (fun d => d.bytes.length)).getD 0 + cf x 24 4 > 6 * 2 ^ 30 := Nat.not_lt.2 harea
  simp only [tableLoad, ht, hh, hdom, hread, hcrc, harea', andThen_ok, journalCmd_store hf, settle_ok, htables, ne_eq, not_true_eq_false,
    Option.isNone_some, Option.any_some, Option.bind_some, decide_false, Bool.false_eq_true, false_and, and_false, if_false,
    Option.getD_some]
  rfl

end

/-! ## TABLE_SWAP (R237, R265) -/

/-- Of what Chanter holds, the way that an event takes changes the events held until ring 0 is enabled alone. -/
theorem raise_chn {b : Blk} {ev : Ev} {s : State} : ∃ held, (raise b ev s).chn = { (noted ev s).chn with heldEvents := held } := by
  have hr : raise b ev s = if !evEnabled b ev.unit ev.code (noted ev s) then noted ev s
      else if (noted ev s).chn.holding then
        if (noted ev s).chn.heldEvents.length < 65536 then
          { noted ev s with chn := { (noted ev s).chn with heldEvents := (noted ev s).chn.heldEvents ++ [stamped ev s] } }
        else (evRingsFor (stamped ev s) (noted ev s)).foldl (fun s e => loseEvent e s) (noted ev s)
      else postEvent (stamped ev s) (noted ev s) := rfl
  rw [hr]
  split
  · exact ⟨_, rfl⟩
  · split
    · split
      · exact ⟨_, rfl⟩
      · exact ⟨(noted ev s).chn.heldEvents,
          inv_foldl (P := Keeps 131136 (noted ev s)) (fun _ _ => loseEvent_keeps rfl) keeps_refl .chn rfl⟩
    · exact ⟨(noted ev s).chn.heldEvents, postEvent_keeps (κ := 537002048) rfl (keeps_refl (s₀ := noted ev s)) .chn rfl⟩

theorem noted_barriers_epoch {ev : Ev} {s : State} :
    (noted ev s).chn.barriers = s.chn.barriers ∧ (noted ev s).chn.epoch = s.chn.epoch := by
  have hc := tellPldm_keeps (κ := 72) (ev := stamped ev s) rfl (latchEvent_keeps (ev := stamped ev s) rfl (keeps_refl
    (s₀ := logEvent (stamped ev s) { s with chn := { s.chn with eventSeq := s.chn.eventSeq + 1 } }))) .chn rfl
  rw [noted, hc, logEvent_chn]
  exact ⟨rfl, rfl⟩

theorem raise_barriers_epoch {b : Blk} {ev : Ev} {s : State} :
    (raise b ev s).chn.barriers = s.chn.barriers ∧ (raise b ev s).chn.epoch = s.chn.epoch := by
  obtain ⟨held, h⟩ := raise_chn (b := b) (ev := ev) (s := s)
  rw [h]
  exact noted_barriers_epoch

theorem raiseTable_barriers_epoch {b : Blk} {ev : Nat → Ev} {h : Nat} {s : State} :
    (raiseTable b ev h s).chn.barriers = s.chn.barriers ∧ (raiseTable b ev h s).chn.epoch = s.chn.epoch := by
  refine inv_foldl (P := fun t => t.chn.barriers = s.chn.barriers ∧ t.chn.epoch = s.chn.epoch) (fun t d ht => ?_) ⟨rfl, rfl⟩
  exact ⟨raise_barriers_epoch.1.trans ht.1, raise_barriers_epoch.2.trans ht.2⟩

theorem keepVersion_gen {users : List Nat} {old new : Tbl} : (keepVersion users old new).gen = new.gen := by
  unfold keepVersion
  split <;> rfl

/-- Which commands run under a table does not depend on the last record of any collection. -/
theorem tableUsers_of_journaled {s t : State} {h n q : Nat} (hc : t.cmds = s.cmds) (hp : t.progs = s.progs)
    (hk : t.colls = tmod s.colls n (fun c => { c with journaled := q })) : tableUsers t h = tableUsers s h := by
  have huse : ∀ c, collUses t h c = collUses s h c := fun c => by rw [collUses, progImage, progImage, hp]; rfl
  have hany : ∀ m, (tget t.colls m).any (collUses t h) = (tget s.colls m).any (collUses s h) := fun m => by
    rw [hk, tget_tmod, funext huse]
    split
    · cases tget s.colls m <;> rfl
    · rfl
  rw [tableUsers, tableUsers, hc, funext huse]
  simp only [← hany, funext huse]

section
variable {s : State} {x : Cmd} {t : Tbl} {d : TblData}

/-- The record of a swap has been written and its barrier begun. -/
def swapBegun (s : State) (x : Cmd) (t : Tbl) (d : TblData) : State :=
  (beginBarrier true (cf x 16 2)
    (journalPut (storeRec x 0x31 (.table (cf x 16 2) (some { swapped d t with earlier := [] })) s) s).2).2

/-- The pending version has become current, and the domains that use the table have been told. -/
def swapTold (s : State) (x : Cmd) (t : Tbl) (d : TblData) : State :=
  raiseTable .bell (fun dom => mkEv 0x0090 0 .bell x.home dom 0 (cf x 16 2) ((t.gen + 1) % 2 ^ 32) 0) (cf x 16 2)
    (advanceEpoch (swapTable (cf x 16 2) d (swapBegun s x t d)))

theorem swapBegun_keeps : Keeps 2961178632 s (swapBegun s x t d) := upd_chn rfl (journalPut_keeps rfl keeps_refl)

theorem swapBegun_barriers : (swapBegun s x t d).chn.barriers
      = s.chn.barriers ++ [{ no := s.chn.nextBarrier, table := true, on := cf x 16 2, began := s.now }]
    ∧ (swapBegun s x t d).chn.epoch = s.chn.epoch := by
  have hput : Keeps 813694984 s
      (journalPut (storeRec x 0x31 (.table (cf x 16 2) (some { swapped d t with earlier := [] })) s) s).2 := journalPut_keeps rfl keeps_refl
  rw [← (hput .chn rfl : _ = s.chn), ← (hput .now rfl : _ = s.now)]
  exact ⟨rfl, rfl⟩

theorem tget_swapTable {h n : Nat} : tget (swapTable h d s).tables n
    = if n = h then (tget s.tables n).map (fun t => keepVersion (tableUsers s h) t (swapped d t)) else tget s.tables n := by
  have htables : (swapTable h d s).tables = tmod s.tables h (fun t => keepVersion (tableUsers s h) t (swapped d t)) := rfl
  rw [htables, tget_tmod]

/-- The version that a swap makes current is the one that was pending, with the next generation; other tables stay. -/
theorem swapTable_begun (ht : tget s.tables (cf x 16 2) = some t) :
    tget (swapTable (cf x 16 2) d (swapBegun s x t d)).tables (cf x 16 2)
        = some (keepVersion (tableUsers s (cf x 16 2)) t (swapped d t))
      ∧ ∀ n, n ≠ cf x 16 2 → tget (swapTable (cf x 16 2) d (swapBegun s x t d)).tables n = tget s.tables n := by
  have htables : (swapBegun s x t d).tables = s.tables := swapBegun_keeps .tables rfl
  have husers : tableUsers (swapBegun s x t d) (cf x 16 2) = tableUsers s (cf x 16 2) :=
    tableUsers_of_journaled (swapBegun_keeps .cmds rfl) (swapBegun_keeps .progs rfl) journalPut_colls
  refine ⟨?_, fun n hn => ?_⟩
  · rw [tget_swapTable, if_pos rfl, husers, htables, ht]
    rfl
  · rw [tget_swapTable, if_neg hn, htables]

theorem swapTold_keeps : Keeps 2684485704 (advanceEpoch (swapTable (cf x 16 2) d (swapBegun s x t d))) (swapTold s x t d) :=
  raiseTable_keeps rfl keeps_refl

theorem swapTold_tables : (swapTold s x t d).tables = (swapTable (cf x 16 2) d (swapBegun s x t d)).tables := swapTold_keeps .tables rfl

theorem swapTold_chn : (swapTold s x t d).chn.barriers
      = s.chn.barriers ++ [{ no := s.chn.nextBarrier, table := true, on := cf x 16 2, began := s.now }]
    ∧ (swapTold s x t d).chn.epoch = s.chn.epoch + 1 := by
  obtain ⟨hbarriers, hepoch⟩ := swapBegun_barriers (s := s) (x := x) (t := t) (d := d)
  exact ⟨raiseTable_barriers_epoch.1.trans hbarriers, raiseTable_barriers_epoch.2.trans (congrArg (· + 1) hepoch)⟩

theorem swapTold_cmds : (swapTold s x t d).cmds = s.cmds :=
  Eq.trans (b := (swapBegun s x t d).cmds) (swapTold_keeps .cmds rfl) (swapBegun_keeps .cmds rfl)

/-- The command of a swap waits for its barrier. -/
def swapWaits (s : State) (t : Tbl) (y : Cmd) : Cmd :=
  { y with result := (t.gen + 1) % 2 ^ 32, jseq := s.bag.nextSeq, journaled := true, work := .wait 1 s.chn.nextBarrier }

theorem tableSwap_ok (ht : tget s.tables (cf x 16 2) = some t) (hdom : t.domain = domOf s x) (hd : t.pending = some d)
    (hlock : tableLocked s (cf x 16 2) = false) (hpool : poolFits s (cf x 16 2) d = true)
    (hf : journalFits s (runsBounded s x) 128 = true) :
    settle x.id (tableSwap x s) = cmdMod x.id (swapWaits s t) (swapTold s x t d) := by
  have hgen : ((tget (advanceEpoch (swapTable (cf x 16 2) d (swapBegun s x t d))).tables (cf x 16 2)).map Tbl.gen).getD 0
      = (t.gen + 1) % 2 ^ 32 := by
    have hswap : tget (advanceEpoch (swapTable (cf x 16 2) d (swapBegun s x t d))).tables (cf x 16 2) = _ := (swapTable_begun ht).1
    rw [hswap]
    exact keepVersion_gen
  have hno : (journalPut (storeRec x 0x31 (.table (cf x 16 2) (some { swapped d t with earlier := [] })) s) s).2.chn.nextBarrier
      = s.chn.nextBarrier := congrArg Chanter.nextBarrier (journalPut_keeps_written .chn rfl)
  simp only [tableSwap, ht, hdom, hd, hlock, hpool, journalCmd_store hf, andThen_ok, settle_ok, ne_eq, not_true_eq_false, Bool.not_true,
    Bool.false_eq_true, if_false]
  unfold swapWaits swapTold
  rw [← hgen, ← hno]
  rfl

end

end Sys2Proof.Machine

/-! SUPPORT. The rows of programs and tables (R233 to R238, R265). -/
namespace Sys2Proof.Machine

section
variable {s : State} {x : Cmd}

theorem progLoadLoad_of_begun (h : Begun s x 0x41) (hop : cf x 28 1 = 0) :
    exec (.progLoadLoad x.id) s = .next (drainAll (settle x.id (progLoad x s))) := by
  have hrow : exec (.progLoadLoad x.id) s = execProgLoadLoad x.id s := rfl
  rw [hrow, execProgLoadLoad, h.1]
  simp [h.2, hop]

theorem progLoadRetire_of_begun (h : Begun s x 0x41) (hop : cf x 28 1 = 1) :
    exec (.progLoadRetire x.id) s = .next (drainAll (settle x.id (progRetire x s))) := by
  have hrow : exec (.progLoadRetire x.id) s = execProgLoadRetire x.id s := rfl
  rw [hrow, execProgLoadRetire, h.1]
  simp [h.2, hop]

theorem tableLoad_of_begun (h : Begun s x 0x42) : exec (.tableLoad x.id) s = .next (drainAll (settle x.id (tableLoad x s))) := by
  have hrow : exec (.tableLoad x.id) s = execTableLoad x.id s := rfl
  rw [hrow, execTableLoad, h.1]
  simp [h.2]

theorem tableSwap_of_begun (h : Begun s x 0x43) : exec (.tableSwap x.id) s = .next (drainAll (settle x.id (tableSwap x s))) := by
  have hrow : exec (.tableSwap x.id) s = execTableSwap x.id s := rfl
  rw [hrow, execTableSwap, h.1]
  simp [h.2]

end

/-! ## BARRIER_ACKNOWLEDGED (R265) -/

section
variable {s : State} {b c : Nat} {x : Cmd}

/-- What the acknowledgement of barrier `b` makes of a command. -/
def acked (s : State) (b : Nat) (x : Cmd) : Cmd :=
  if x.work = .wait 1 b then
    (if s.bag.writeThrough && x.journaled && !onFlash s x.jseq then { x with work := .wait 3 x.jseq }
     else { x with phase := .finished, work := .none })
  else x

theorem acked_id : (acked s b x).id = x.id := by
  unfold acked
  split
  · split <;> rfl
  · rfl

theorem barrierAcked_eq (h : s.chn.barriers.any (fun k => k.no = b) = true) : barrierAcked b s =
    { s with chn := { s.chn with barriers := s.chn.barriers.filter (fun k => k.no ≠ b) }, cmds := s.cmds.map (acked s b) } := by
  rw [barrierAcked, if_pos h]
  rfl

theorem cmdGet_barrierAcked (h : s.chn.barriers.any (fun k => k.no = b) = true) (hc : cmdGet s c = some x) :
    cmdGet (barrierAcked b s) c = some (acked s b x) := by
  rw [barrierAcked_eq h, cmdGet, find?_map_of_id fun _ => acked_id]
  exact congrArg (Option.map (acked s b)) hc

theorem acked_of_waiting (hw : x.work = .wait 1 b) (hwt : s.bag.writeThrough = false) :
    acked s b x = { x with phase := .finished, work := .none } := by
  simp [acked, hw, hwt]

end

/-- Settles O31: each command on programs or tables is its record after one change of its table; a swap also begins its barrier, whose
acknowledgement finishes the commands that wait for it. -/
theorem programTableRows : Obligations.ProgramTableRows := by
  unfold Obligations.ProgramTableRows
  refine ⟨fun s u x img v hb hop hlim hread hsize hbad hv hf => ?_, fun s x p hb hop hp hdom hfree hf => ?_,
    fun s u x bs t hb hh ht hdom harea hread hcrc hf => ?_, fun s x t d hb ht hdom hd hlock hpool hf => ?_,
    fun s b c x hb hc hw hwt => ?_⟩
  · have hsu := readBuf_ok_keeps hread
    have hc : cmdGet (progStored u x v (some (loadedProg u x img)) (tset u.progs v (loadedProg u x img))) x.id = some x :=
      (cmdGet_congr (journalPut_cmds.trans (hsu .cmds rfl))).trans hb.cmd
    have hj := journals_finishJournaled_flash (f := fun y => { y with result := v })
      (r := storeRec x 0x30 (.program v (some (loadedProg u x img))) u) (fun _ => rfl) (fun _ => rfl) hc hb.executing rfl rfl
    refine ⟨_, ?_, hj.of_bag_eq (hsu .bag rfl), ?_, fun n hn => ?_⟩
    · rw [progLoadLoad_of_begun hb hop, progLoad_ok hlim hread hsize hbad hv hf]
    · rw [finishJournaled_progs]
      exact tget_tset_same
    · rw [finishJournaled_progs]
      exact tget_tset_other hn
  · have hc : cmdGet (progStored s x (cf x 30 2) none (tdel s.progs (cf x 30 2))) x.id = some x :=
      (cmdGet_congr journalPut_cmds).trans hb.cmd
    have hj := journals_finishJournaled (f := id) (r := storeRec x 0x30 (.program (cf x 30 2) none) s)
      (fun _ => rfl) (fun _ => rfl) hc hb.executing rfl rfl
    refine ⟨_, ?_, hj, ?_, fun n hn => ?_⟩
    · rw [progLoadRetire_of_begun hb hop, progRetire_ok hp hdom hfree hf]
    · rw [finishJournaled_progs]
      exact tget_tdel.trans (if_pos rfl)
    · rw [finishJournaled_progs]
      exact tget_tdel.trans (if_neg hn)
  · have hsu := readBuf_ok_keeps hread
    have hc : cmdGet (tableStored u x { t with pending := some (loadedData x bs) }) x.id = some x :=
      (cmdGet_congr (journalPut_cmds.trans (hsu .cmds rfl))).trans hb.cmd
    have hj := journals_finishJournaled_flash (f := fun y => { y with result := cf x 28 2 })
      (r := storeRec x 0x31 (.table (cf x 28 2) (some { t with pending := some (loadedData x bs), earlier := [] })) u)
      (fun _ => rfl) (fun _ => rfl) hc hb.executing rfl rfl
    refine ⟨_, loadedData x bs, ?_, hj.of_bag_eq (hsu .bag rfl), ?_, rfl, rfl, rfl, rfl, rfl, rfl, rfl, fun n hn => ?_⟩
    · rw [tableLoad_of_begun hb, tableLoad_ok hh ht hdom harea hread hcrc hf]
    · rw [finishJournaled_tables]
      exact tget_tset_same
    · rw [finishJournaled_tables]
      exact tget_tset_other hn
  · obtain ⟨hnew, hothers⟩ := swapTable_begun (x := x) (d := d) ht
    obtain ⟨hbarriers, hepoch⟩ := swapTold_chn (s := s) (x := x) (t := t) (d := d)
    rw [← swapTold_tables] at hnew hothers
    have hc : cmdGet (cmdMod x.id (swapWaits s t) (swapTold s x t d)) x.id = some (swapWaits s t x) :=
      cmdGet_cmdMod_self (fun _ => rfl) ((cmdGet_congr swapTold_cmds).trans hb.cmd)
    refine ⟨cmdMod x.id (swapWaits s t) (swapTold s x t d), _, ?_, hnew, hothers, hc, rfl, hb.executing, rfl, rfl, hbarriers, hepoch⟩
    rw [tableSwap_of_begun hb, tableSwap_ok ht hdom hd hlock hpool hf]
  · have hrow : exec (.barrierAcknowledged b) s = .next (drainAll (barrierAcked b s)) := rfl
    refine ⟨_, hrow, ⟨_, (cmdGet_barrierAcked hb hc).trans (congrArg some (acked_of_waiting hw hwt)), rfl, rfl, rfl, rfl⟩, ?_,
      fun d y hy hother => ?_⟩
    · rw [barrierAcked_eq hb]
    · rw [cmdGet_barrierAcked hb hy, acked, if_neg hother]

end Sys2Proof.Machine

/-! SUPPORT. The start of a mutation and of its encode (R229, R272, R273, R278). -/
namespace Sys2Proof.Machine

/-! ## Entries and their codes -/

theorem map_modify_of_comp {α β : Type} {g : α → β} {f : α → α} (h : ∀ a, g (f a) = g a) {l : List α} {i : Nat} :
    (l.modify i f).map g = l.map g := by
  induction l generalizing i with
  | nil => simp
  | cons a t ih =>
    cases i with
    | zero => simp [h]
    | succ i => simp [ih]

/-- Codes go to their entries and leave what the command gave of them. -/
theorem mutEncoded_parts {m : Mut} : (mutEncoded m).entries.map (fun e => (e.record, e.src)) = m.entries.map (fun e => (e.record, e.src))
    ∧ (mutEncoded m).version = m.version ∧ (mutEncoded m).encNext = m.encNext := by
  refine ⟨?_, rfl, rfl⟩
  refine List.foldlRecOn (motive := fun es : List MutEntry => es.map (fun e => (e.record, e.src)) = m.entries.map _) _ _ rfl
    fun es hes k _ => ?_
  split
  · next v _ _ => exact (map_modify_of_comp (f := fun y : MutEntry => { y with code := some v }) fun _ => rfl).trans hes
  · exact hes

section
variable {s : State} {x y : Cmd} {k : Coll}

/-! ## The encode -/

/-- The end of an encode notes its flags with the command, which goes on. -/
theorem cmdGet_encodeEnds {m : Mut} (h : cmdGet s x.id = some y) :
    ∃ z, cmdGet (encodeEnds x m s).2 x.id = some z ∧ z.phase = y.phase := by
  have hflags : ∃ z, cmdGet (if mutArith m then cmdMod x.id (fun y => { y with arith := true }) s else s) x.id = some z
      ∧ z.phase = y.phase := by
    split
    · exact ⟨_, cmdGet_cmdMod_self (f := fun y => { y with arith := true }) (fun _ => rfl) h, rfl⟩
    · exact ⟨y, h, rfl⟩
  obtain ⟨z, hz, hphase⟩ := hflags
  obtain ⟨es, cs, p, hend⟩ := cmdGet_endStage (n := 3) hz
  exact ⟨_, hend, hphase⟩

/-- What a mutation that has been read is to do: its entries, under the version live at its admission. -/
structure Encodes (k : Coll) (es : List MutEntry) (m : Mut) : Prop where
  entries : m.entries.map (fun e => (e.record, e.src)) = es.map (fun e => (e.record, e.src))
  version : m.version = if k.migrating then k.encNext else k.encVersion
  encNext : m.encNext = k.migrating

theorem Encodes.mutEncoded {es : List MutEntry} {m : Mut} (h : Encodes k es m) : Encodes k es (mutEncoded m) :=
  ⟨mutEncoded_parts.1.trans h.entries, h.version, h.encNext⟩

/-- In `w` the command `x` has become a mutation of these entries. -/
def BeginsMutation (x : Cmd) (k : Coll) (es : List MutEntry) (w : State) : Prop :=
  ∃ y m, cmdGet w x.id = some y ∧ y.phase = x.phase ∧ y.work = .mutate m ∧ Encodes k es m

/-- An encode without a MATMUL step has ended as it begins. -/
def encodeDue (x : Cmd) (m : Mut) (s : State) : Mut × State := if m.enc.all encDone then encodeEnds x m s else (m, s)

theorem encodeDue_parts {es : List MutEntry} {m : Mut} (hc : cmdGet s x.id = some y) (hm : Encodes k es m) :
    ∃ z, cmdGet (encodeDue x m s).2 x.id = some z ∧ z.phase = y.phase ∧ Encodes k es (encodeDue x m s).1 := by
  unfold encodeDue
  split
  · obtain ⟨z, hz, hphase⟩ := cmdGet_encodeEnds hc
    exact ⟨z, hz, hphase, hm.mutEncoded⟩
  · exact ⟨y, hc, rfl, hm⟩

/-- A mutation of collection `k` as its encode begins, with its batches and the entries that they encode. -/
def mutBegun (x : Cmd) (k : Coll) (es : List MutEntry) (enc : List Enc) (ord : List Nat) : Mut :=
  { entries := es, mask := cf x 16 2, version := if k.migrating then k.encNext else k.encVersion, encNext := k.migrating, enc := enc,
    order := ord, read := true }

theorem beginEncode_ok {es : List MutEntry} (hl : progLost s (if k.migrating then k.encNext else k.encVersion) = none) :
    ∃ enc ord t, t.cmds = (endStage x.id 2 (consumeRings x.id s)).cmds ∧ settle x.id (beginEncode x k es s)
      = setWork x.id (.mutate (encodeDue x (mutBegun x k es enc ord) t).1) (encodeDue x (mutBegun x k es enc ord) t).2 := by
  rw [beginEncode]
  simp only [hl, settle_ok]
  exact ⟨_, _, _, encBatches_keeps (κ := 16777280) rfl keeps_refl .cmds rfl, rfl⟩

/-- A mutation whose entries have been read begins their encode (R232, R273). -/
theorem beginEncode_begins {es : List MutEntry} (hc : cmdGet s x.id = some x)
    (hl : progLost s (if k.migrating then k.encNext else k.encVersion) = none) :
    BeginsMutation x k es (settle x.id (beginEncode x k es s)) := by
  obtain ⟨ends, cs, p, hin⟩ := cmdGet_inputsRead hc
  obtain ⟨enc, ord, t, hcmds, ht⟩ := beginEncode_ok (x := x) (es := es) hl
  obtain ⟨z, hz, hphase, hm⟩ := encodeDue_parts (m := mutBegun x k es enc ord) ((cmdGet_congr hcmds).trans hin) ⟨rfl, rfl, rfl⟩
  rw [ht]
  exact ⟨_, _, cmdGet_setWork hz, hphase, rfl, hm⟩

/-! ## The start of each mutation -/

theorem mutRow_of_begun {op : Nat} {f : Cmd → Coll → State → Res State} (h : Begun s x op)
    (hk : viewOf s x = some k) (hb : barred s x = false) (hp : streamPoison x.id s = none) :
    mutRow x.id op f s = settle x.id (f x k s) := by
  obtain ⟨hr, hw⟩ := h
  simp [mutRow, hr, hw, hk, hb, unlessPoison, hp]

/-- A mutation that encodes nothing has its one entry at once (R275, R276). -/
theorem cmdGet_plainMut {r : Rec} (hc : cmdGet s x.id = some x) :
    cmdGet (setWork x.id (.mutate (plainMut x r)) s) x.id = some { x with work := .mutate (plainMut x r) } := cmdGet_setWork hc

theorem insertStart_begins {u : State} {ds : List BlkData} {bs : List Byte} (hc : cmdGet s x.id = some x)
    (hds : dataSpans x (bit (cf x 24 1) 0) (cf x 16 8) (srcLen k) = some ds) (hread : readVec x k ds 0 s = .ok bs u)
    (hl : progLost u (if k.migrating then k.encNext else k.encVersion) = none) :
    BeginsMutation x k [mutEntry (recOf (slice x.bytes 32 32)) (.held bs)] (settle x.id (insertStart x k s)) := by
  have hsu : Keeps 4194376 s u := res_ok hread (readVec_keeps rfl keeps_refl)
  simp only [insertStart, hds, hread, andThen_ok]
  exact beginEncode_begins ((cmdGet_congr (hsu .cmds rfl)).trans hc) hl

theorem batchStart_begins {t u v : State} {ds : List BlkData} {rs : List Byte} {es : List MutEntry} (hc : cmdGet s x.id = some x)
    (hds : dataSpans x true (cf x 16 8) (cf x 40 4 * srcLen k) = some ds) (hst : checkStatus x (cf x 40 4) s = .ok () t)
    (hread : readBuf x (cf x 24 8) (32 * cf x 40 4) t = .ok rs u) (hbad : badRecs rs (cf x 24 8) (cf x 40 4) 0 = none)
    (hes : readBatch x k ds ((List.range (cf x 40 4)).map (fun j => (j * srcLen k, mutEntry (recOf (slice rs (32 * j) 32)) .lost))) u
      = .ok es v)
    (hl : progLost v (if k.migrating then k.encNext else k.encVersion) = none) :
    BeginsMutation x k es (settle x.id (batchStart x k s)) := by
  have hsv : Keeps 138412104 s v := res_ok hes (readBatch_keeps rfl (res_ok hread (readBuf_keeps rfl
    (res_ok hst (checkStatus_keeps rfl keeps_refl)))))
  simp only [batchStart, hds, hst, hread, hbad, hes, andThen_ok]
  exact beginEncode_begins ((cmdGet_congr (hsv .cmds rfl)).trans hc) hl

theorem importStart_begins {t u v : State} {ds : List BlkData} {r : Rd} {es : List (Nat × MutEntry)} {fs : List MutEntry}
    (hc : cmdGet s x.id = some x) (hlen : 64 ≤ cf x 24 8) (hds : dataSpans x true (cf x 16 8) (cf x 24 8) = some ds)
    (hread : readSpans (whoOf s x) ds s = .ok r t) (hpoison : r.poison = none)
    (hhead : badStream k (slice r.bytes 0 64) (cf x 24 8) = none)
    (hes : streamEntries x k ds (slice r.bytes 0 64) r.bytes (fld (slice r.bytes 0 64) 8 4) 0 = .inr es)
    (hst : checkStatus x es.length t = .ok () u) (hfs : readBatch x k ds es u = .ok fs v)
    (hl : progLost v (if k.migrating then k.encNext else k.encVersion) = none) :
    BeginsMutation x k fs (settle x.id (importStart x k s)) := by
  have hsv : Keeps 4194376 s v := res_ok hfs (readBatch_keeps rfl (res_ok hst (checkStatus_keeps rfl
    (res_ok hread (readSpans_keeps rfl keeps_refl)))))
  simp only [importStart, if_neg (Nat.not_lt.2 hlen), hds, hread, hpoison, hhead, hes, hst, hfs, andThen_ok]
  exact beginEncode_begins ((cmdGet_congr (hsv .cmds rfl)).trans hc) hl

end

/-- Settles O37: each row is the start of its mutation, which begins the encode of the entries it has read, if it has any to encode. -/
theorem mutationRows : Obligations.MutationRows := by
  unfold Obligations.MutationRows
  refine ⟨fun s u x k ds bs hb hk hbar hp hds hread hl => ?_, fun s u x k ds bs hb hk hbar hp hds hread hl => ?_,
    fun s x k hb hk hbar hp => ?_, fun s x k hb hk hbar hp => ?_,
    fun s t u v x k ds rs es hb hk hbar hp hds hst hread hbad hes hl => ?_,
    fun s t u v x k ds r es fs hb hk hbar hp hlen hds hread hpoison hhead hes hst hfs hl => ?_⟩
  · obtain ⟨y, m, hy, hphase, hwork, hm⟩ := insertStart_begins hb.cmd hds hread hl
    have hrow : exec (.insert x.id) s = .next (drainAll (mutRow x.id 0x20 insertStart s)) := rfl
    rw [mutRow_of_begun hb hk hbar hp] at hrow
    exact ⟨_, y, m, hrow, hy, hphase.trans hb.executing, hwork, hm.entries, hm.version, hm.encNext⟩
  · obtain ⟨y, m, hy, hphase, hwork, hm⟩ := insertStart_begins hb.cmd hds hread hl
    have hrow : exec (.upsert x.id) s = .next (drainAll (mutRow x.id 0x23 insertStart s)) := rfl
    rw [mutRow_of_begun hb hk hbar hp] at hrow
    exact ⟨_, y, m, hrow, hy, hphase.trans hb.executing, hwork, hm.entries, hm.version, hm.encNext⟩
  · have hrow : exec (.delete x.id) s = .next (drainAll (mutRow x.id 0x22 deleteStart s)) := rfl
    rw [mutRow_of_begun hb hk hbar hp] at hrow
    exact ⟨_, _, _, hrow, cmdGet_plainMut hb.cmd, hb.executing, rfl, rfl, rfl⟩
  · have hrow : exec (.setAttr x.id) s = .next (drainAll (mutRow x.id 0x25 setAttrStart s)) := rfl
    rw [mutRow_of_begun hb hk hbar hp] at hrow
    exact ⟨_, _, _, hrow, cmdGet_plainMut (r := recOf (slice x.bytes 32 32)) hb.cmd, hb.executing, rfl, rfl, rfl, rfl⟩
  · obtain ⟨y, m, hy, hphase, hwork, hm⟩ := batchStart_begins hb.cmd hds hst hread hbad hes hl
    have hrow : exec (.insertBatch x.id) s = .next (drainAll (mutRow x.id 0x21 batchStart s)) := rfl
    rw [mutRow_of_begun hb hk hbar hp] at hrow
    exact ⟨_, y, m, hrow, hy, hphase.trans hb.executing, hwork, hm.entries, hm.encNext⟩
  · obtain ⟨y, m, hy, hphase, hwork, hm⟩ := importStart_begins hb.cmd hlen hds hread hpoison hhead hes hst hfs hl
    have hrow : exec (.importCmd x.id) s = .next (drainAll (mutRow x.id 0x54 importStart s)) := rfl
    rw [mutRow_of_begun hb hk hbar hp] at hrow
    exact ⟨_, y, m, hrow, hy, hphase.trans hb.executing, hwork, hm.entries, hm.encNext⟩

end Sys2Proof.Machine

/-! SUPPORT. Slide's choice of a ring, the moves of a ring, its buckets and the stream watchdog (R247, R257 to R259, R262, R266 to R268, R271). -/
namespace Sys2Proof.Machine

/-! ## The choice of a ring (R258, R259) -/

section
variable {α : Type} {lt : α → α → Bool} {a x : α} {l : List α}

/-- An element that goes before every other stays first when an element is put in. -/
theorem head?_insertBy_of_first (hl : ∀ b ∈ x :: l, b ≠ a → lt a b = true ∧ lt b a = false) (hh : a ∈ l → l.head? = some a)
    (ha : a ∈ insertBy lt x l) : (insertBy lt x l).head? = some a := by
  cases l with
  | nil => simpa [insertBy, eq_comm] using ha
  | cons y t =>
    rw [insertBy] at ha ⊢
    by_cases hxa : x = a
    · subst hxa
      by_cases hya : y = x
      · split <;> simp [hya]
      · rw [if_pos (hl y (by simp) hya).1, List.head?_cons]
    · have hay : y = a := by
        have : a ∈ x :: y :: t := by
          split at ha
          · exact ha
          · simpa [or_left_comm] using ha
        simpa using hh (List.mem_of_ne_of_mem (Ne.symm hxa) this)
      subst hay
      simp [(hl x (by simp) hxa).2]

/-- The element that goes before every other stands first when the list is sorted. -/
theorem head?_sortBy_of_first (ha : a ∈ l) (hl : ∀ b ∈ l, b ≠ a → lt a b = true ∧ lt b a = false) : (sortBy lt l).head? = some a := by
  have h : (∀ b ∈ sortBy lt l, b ∈ l) ∧ (a ∈ sortBy lt l → (sortBy lt l).head? = some a) := by
    refine List.foldlRecOn (motive := fun acc : List α => (∀ b ∈ acc, b ∈ l) ∧ (a ∈ acc → acc.head? = some a)) l _ (by simp) ?_
    intro acc ⟨hsub, hh⟩ x hx
    have hin : ∀ b ∈ x :: acc, b ∈ l := by simpa [hx] using hsub
    exact ⟨fun b hb => hin b (by simpa using hb), head?_insertBy_of_first (fun b hb => hl b (hin b hb)) hh⟩
  exact h.2 (mem_sortBy.2 ha)

end

section
variable {s : State} {e port addr n b : Nat} {r : SRing}

/-- No two rings are each picked before the other: the four keys are compared in turn. -/
theorem pickBefore_asymm {ahead : SRing → Bool} {a b : SRing} (h : pickBefore ahead a b = true) : pickBefore ahead b a = false := by
  simp only [pickBefore, Bool.or_eq_true, Bool.and_eq_true, decide_eq_true_eq, Bool.or_eq_false_iff, Bool.and_eq_false_imp,
    decide_eq_false_iff_not] at h ⊢
  omega

/-- A class of UNB under a rate, or MNT, pays ten tokens a byte; the other bucket stays. -/
theorem chargeEngine_tokens {cls ch : Nat} : ∃ g, tget (chargeEngine e port cls n ch s).engines e = some g
    ∧ g.unbTokens = (engineOf s e).unbTokens - (if cls = 1 ∧ unbFree s e = false then 10 * ch else 0 : Nat)
    ∧ g.mntTokens = (engineOf s e).mntTokens - (if cls = 2 then 10 * ch else 0 : Nat) := by
  refine ⟨_, tget_tset_same, ?_, ?_⟩
  · by_cases h : cls = 1 ∧ unbFree s e = false
    · simp [h]
    · simp only [if_neg h, Nat.cast_zero, sub_zero]
      exact if_neg (by simpa using h)
  · by_cases h : cls = 2 <;> simp [h]

/-- The state once ring `r` has issued a transfer of `b` bytes at `addr` and its engine has charged it. -/
def ringIssued (e port addr b : Nat) (r : SRing) (s : State) : State :=
  chargeEngine e port r.cls b (charge port addr b r.isWrite)
    (sringMod e r.no (fun q => { q with flight := q.flight ++ [(b, addr)], toAsk := if q.isWrite then q.toAsk else q.toAsk - b }) s)

theorem ringIssued_srings : (ringIssued e port addr b r s).srings = s.srings.map (fun q => if q.engine = e ∧ q.no = r.no then
    { q with flight := q.flight ++ [(b, addr)], toAsk := if q.isWrite then q.toAsk else q.toAsk - b } else q) := rfl

/-- A translation ahead touches Crook, its counters and the bus alone, whatever state its command is read from. -/
theorem prefetchNext_leaves {t u : State} (hs : Keeps 4194376 t u) : Keeps 4194376 t (prefetchNext s r addr b u) := by
  have hp : ∀ w va, Keeps 4194376 t (prefetch w va r.isWrite u) := fun _ _ => prefetch_keeps rfl hs
  unfold prefetchNext
  extract_lets mid
  generalize (r.port = portHost && addr < mid && mid ≤ addr + b && (if r.isWrite then true else r.toAsk > b)) = ahead
  split
  · exact hp _ _
  · exact hs

/-- The ring that is picked before every other candidate issues; beyond that only the count of tags and a translation ahead are noted. -/
theorem slideIssue_picked (he : e < 32) (htags : tagsHeld s e < 4096) (hr : r ∈ s.srings.map (ringNow s)) (hcan : canIssue s e port r = true)
    (hfirst : ∀ q ∈ s.srings.map (ringNow s), canIssue s e port q = true → q ≠ r →
      pickBefore (fun z => mntBehind s e port || stepHigh s z) r q = true)
    (hb : b = min (min n (if r.isWrite then ringDue r else min r.toAsk (ringSpace r))) (largest port addr r.isWrite)) (hb0 : b ≠ 0)
    (hroom : targetRoom s port r.cls addr b = true) :
    Keeps 4194376 (ringIssued e port addr b r s) (slideIssue e port addr n s) := by
  have hhead : (sortBy (pickBefore (fun z => mntBehind s e port || stepHigh s z))
      ((s.srings.map (ringNow s)).filter (canIssue s e port))).head? = some r := by
    refine head?_sortBy_of_first (List.mem_filter.2 ⟨hr, hcan⟩) fun q hq hne => ?_
    obtain ⟨hq, hqcan⟩ := List.mem_filter.1 hq
    exact ⟨hfirst q hq hqcan hne, pickBefore_asymm (hfirst q hq hqcan hne)⟩
  obtain ⟨rest, hsort⟩ := List.head?_eq_some_iff.1 hhead
  have hgo : (b = 0 || !targetRoom s port r.cls addr b) = false := by simp [hb0, hroom]
  simp only [slideIssue, Nat.mod_eq_of_lt he, if_neg (Nat.not_le.2 htags), hsort, ← hb, hgo, Bool.false_eq_true, if_false]
  refine prefetchNext_leaves (hs := ?_)
  split
  · exact regField_keeps rfl keeps_refl
  · exact keeps_refl

end

/-! ## The moves of a ring (R247, R271) -/

section
variable {s : State} {e no slot n k now : Nat} {poison : Bool} {q r : SRing} {f : Nat × Nat}

theorem advanceTail_leaves : (advanceTail k r).flight = r.flight ∧ (advanceTail k r).poisoned = r.poisoned := by
  induction k generalizing r with
  | zero => exact ⟨rfl, rfl⟩
  | succ k ih =>
    rw [advanceTail]
    split
    · exact ih
    · exact ⟨rfl, rfl⟩

theorem emptySlots_flight : (emptySlots now k r).flight = r.flight := by
  induction k generalizing r with
  | zero => rfl
  | succ k ih =>
    rw [emptySlots]
    split
    · exact ih
    · rfl

/-- The slot at head is not empty while the target has not accepted all of it. -/
theorem emptySlots_of_lt (h : (tget r.landed 0).getD 0 < 2 ^ r.slotLog2) : emptySlots now k r = r := by
  cases k with
  | zero => rfl
  | succ k => rw [emptySlots, if_neg fun hz => Nat.not_le.2 h hz.1]

/-- A slot accepted in full, and less than a second one, moves head by one. -/
theorem emptySlots_of_full (hk : k ≠ 0) (hz : 2 ^ r.slotLog2 ≤ (tget r.landed 0).getD 0)
    (hlt : (tget r.landed 0).getD 0 < 2 * 2 ^ r.slotLog2) (hf : 0 < ringFilled r) :
    emptySlots now k r = { r with
      head := (r.head + 1) % (2 * r.slots), passed := r.passed + 1,
      landed := tset r.landed 0 ((tget r.landed 0).getD 0 - 2 ^ r.slotLog2), moved := now } := by
  obtain ⟨k, rfl⟩ := Nat.exists_eq_succ_of_ne_zero hk
  rw [emptySlots, if_pos ⟨hz, hf⟩, emptySlots_of_lt]
  simp only [tget_tset_same, Option.getD_some]
  omega

theorem landIn_flight : (landIn k n poison r).flight = r.flight := by
  simp only [landIn]
  split <;> split <;> rfl

theorem mem_marked {ps : List (Nat × Nat)} {p m : Nat × Nat} {c : Bool} (hp : p ∈ ps) : p ∈ (if c then ps ++ [m] else ps) := by
  split
  · exact List.mem_append_left _ hp
  · exact hp

/-- A slot is marked once. -/
theorem exists_mem_marked {ps : List (Nat × Nat)} {o : Nat} :
    ∃ p ∈ (if true && ps.all (fun p => p.1 ≠ k) then ps ++ [(k, o)] else ps), p.1 = k := by
  by_cases h : ps.all (fun p => p.1 ≠ k) = true
  · exact ⟨(k, o), by rw [if_pos (by exact h)]; simp, rfl⟩
  · rw [if_neg (by simpa using h)]
    simpa using h

/-- What lands past the end of a slot leaves the marks of the slot in place. -/
theorem mem_landIn_poisoned (hn : n ≠ 0) (hroom : (tget r.landed k).getD 0 < 2 ^ r.slotLog2) :
    ∃ p ∈ (landIn k n true r).poisoned, p.1 = k := by
  have hhere : min n (2 ^ r.slotLog2 - (tget r.landed k).getD 0) ≠ 0 := by omega
  obtain ⟨p, hp, hpk⟩ := exists_mem_marked (k := k) (ps := r.poisoned) (o := slotOffset r k)
  refine ⟨p, ?_, hpk⟩
  simp only [landIn, if_neg hhere]
  split
  · exact hp
  · exact mem_marked hp

/-- A write ring once the target has accepted a transfer of `n` bytes. -/
def writeAccepted (now n : Nat) (f : Nat × Nat) (r : SRing) : SRing :=
  emptySlots now r.slots { r with flight := r.flight.erase f, landed := tset r.landed 0 ((tget r.landed 0).getD 0 + n) }

/-- A read ring once the `n` bytes of a transfer have landed from a slot on. -/
def readLanded (now slot n : Nat) (poison : Bool) (f : Nat × Nat) (r : SRing) : SRing :=
  let q := advanceTail r.slots (landIn (slot % r.slots) n poison { r with flight := r.flight.erase f })
  { q with moved := if q.tail = r.tail then r.moved else now }

/-- A transfer that lands moves the ring that holds it. -/
theorem transferLanded_ring {i : Nat} (he : e < 32) (hq : s.srings[i]? = some q) :
    ∃ q', (transferLanded e no slot n poison s).srings[i]? = some q'
    ∧ (¬(q.engine = e ∧ q.no = no) → q' = q)
    ∧ ∀ f, q.engine = e → q.no = no → q.flight.find? (fun f => f.1 = n) = some f → q.slots ≠ 0 →
        q' = if q.isWrite then writeAccepted s.now n f q else readLanded s.now slot n poison f q := by
  rw [transferLanded, Nat.mod_eq_of_lt he, sringMod_srings, List.getElem?_map, hq, Option.map_some]
  refine ⟨_, rfl, fun hne => if_neg hne, fun f heng hno hf hslots => ?_⟩
  rw [if_pos ⟨heng, hno⟩, hf]
  obtain ⟨k, hk⟩ := Nat.exists_eq_succ_of_ne_zero hslots
  simp only [hk]
  simp [writeAccepted, readLanded, hk]

theorem writeAccepted_flight : (writeAccepted now n f r).flight = r.flight.erase f := emptySlots_flight

theorem readLanded_flight : (readLanded now slot n poison f r).flight = r.flight.erase f :=
  advanceTail_leaves.1.trans landIn_flight

theorem writeAccepted_of_lt (h : (tget r.landed 0).getD 0 + n < 2 ^ r.slotLog2) : (writeAccepted now n f r).head = r.head
    ∧ tget (writeAccepted now n f r).landed 0 = some ((tget r.landed 0).getD 0 + n) := by
  rw [writeAccepted, emptySlots_of_lt (by simpa using h)]
  exact ⟨rfl, tget_tset_same⟩

theorem writeAccepted_of_full (hslots : r.slots ≠ 0) (hz : 2 ^ r.slotLog2 ≤ (tget r.landed 0).getD 0 + n)
    (hlt : (tget r.landed 0).getD 0 + n < 2 * 2 ^ r.slotLog2) (hf : 0 < ringFilled r) :
    (writeAccepted now n f r).head = (r.head + 1) % (2 * r.slots) ∧ (writeAccepted now n f r).moved = now := by
  rw [writeAccepted, emptySlots_of_full hslots (by simpa using hz) (by simpa using hlt) (by exact hf)]
  exact ⟨rfl, rfl⟩

theorem mem_readLanded_poisoned (hn : n ≠ 0) (hroom : (tget r.landed (slot % r.slots)).getD 0 < 2 ^ r.slotLog2) :
    ∃ p ∈ (readLanded now slot n true f r).poisoned, p.1 = slot % r.slots := by
  rw [readLanded, advanceTail_leaves.2]
  exact mem_landIn_poisoned hn hroom

end

/-! ## The stream watchdog (R267, R268) -/

section
variable {s : State} {ps : List (Nat × Nat)} {x : Cmd} {r : SRing}

theorem finish_srings {c : Nat} {f : Cmd → Cmd} : (finish c f s).srings = s.srings.filter (fun r => r.cmd ≠ some c) := rfl

/-- How the watchdog ends the command it chooses, with `evs` after its record. -/
def deadlocked (x : Cmd) (evs : List Ev) (y : Cmd) : Cmd :=
  { y with status := stDeadlock, isPartial := leading x ≠ 0, result := leading x, after := y.after ++ evs }

/-- The youngest member command of a deadlock fails once its page has counted and latched the fault. -/
theorem streamDeadlock_command (hd : isDeadlock s ps = true) (hy : youngest s (ps.filterMap (sringOf s)) = some x)
    (hr : (ps.filterMap (sringOf s)).find? (fun r => r.cmd = some x.id) = some r) :
    ∃ u evs, Keeps 192 s u ∧ streamDeadlock ps s = finish x.id (deadlocked x evs) u := by
  simp only [streamDeadlock, hd, Bool.not_true, Bool.false_eq_true, if_false, hy, hr]
  exact ⟨_, _, blkFault_keeps rfl (bumpSat_keeps rfl keeps_refl), rfl⟩

/-- Drone's operation whose stream is `r` is abandoned, and the ring is free. -/
def stepAbandoned (r : SRing) (s : State) : State :=
  { s with
    srings := s.srings.filter (fun q => !(q.engine = r.engine ∧ q.no = r.no))
    colls := s.colls.map (fun p => if r.step = some p.1 then (p.1, { p.2 with run := none }) else p) }

/-- With no command to choose, the step of the youngest stream is abandoned, and the event is raised at once. -/
theorem streamDeadlock_step {rs : List SRing} (hd : isDeadlock s ps = true) (hy : youngest s (ps.filterMap (sringOf s)) = none)
    (hr : sortBy (fun a b => a.accepted > b.accepted) ((ps.filterMap (sringOf s)).filter (fun r => r.cmd.isNone)) = r :: rs) :
    ∃ u ev, Keeps 192 s u ∧ streamDeadlock ps s = raise .sld ev (stepAbandoned r u) := by
  simp only [streamDeadlock, hd, Bool.not_true, Bool.false_eq_true, if_false, hy, hr]
  exact ⟨_, _, blkFault_keeps rfl (bumpSat_keeps rfl keeps_refl), rfl⟩

theorem raise_keeps_self {b : Blk} {ev : Ev} : Keeps 2684485704 s (raise b ev s) := raise_keeps rfl keeps_refl

end

/-! ## Waits for resources (R262) -/

section
variable {s : State} {x : Cmd}

theorem resourceTimeout_ends {since : Nat} (hc : cmdGet s x.id = some x) (hw : x.work = .wait 8 since) (hph : x.phase = .waiting)
    (hb : x.bounded = false) (hlate : s.now ≥ since + 1000000) : EndsWith (resourceTimeout x.id s) x.id stNoContext 0 := by
  have hlate' : x.phase = .waiting ∧ (!x.bounded) = true ∧ s.now ≥ since + 1000000 := ⟨hph, by simp [hb], hlate⟩
  simp only [resourceTimeout, hc, hw, if_pos hlate']
  refine endsWith_failCmd (x := x) ?_
  split <;> exact hc

end

/-! ## Buckets (R257) -/

section
variable {s : State} {e ns : Nat}

/-- A fill of the UNB bucket; a rate without limit fills it whole (log entry 158). -/
theorem slideBucketFill_unb (he : e < 32) : ∃ g, tget (slideBucketFill e false ns s).engines e = some g
    ∧ g.mntTokens = (engineOf s e).mntTokens ∧ g.unbAt = s.now
    ∧ g.unbTokens = if unbFree s e then ((max 16 (bits (regGet s (reg .sld e 0x118)).toNat 47 32) * 10240 : Nat) : Int)
        else bucketGain (max 1 (bits (regGet s (reg .sld e 0x118)).toNat 15 0)) (s.now - (engineOf s e).unbAt + ns)
          (max 16 (bits (regGet s (reg .sld e 0x118)).toNat 47 32) * 10240 : Nat) (engineOf s e).unbTokens := by
  rw [slideBucketFill, Nat.mod_eq_of_lt he]
  exact ⟨_, tget_tset_same, rfl, rfl, rfl⟩

/-- A fill of the MNT bucket, at the rate that Drone set (log entry 158). -/
theorem slideBucketFill_mnt (he : e < 32) : ∃ g, tget (slideBucketFill e true ns s).engines e = some g
    ∧ g.unbTokens = (engineOf s e).unbTokens ∧ g.mntAt = s.now
    ∧ g.mntTokens = bucketGain (bits (regGet s (reg .sld e 0x120)).toNat 15 0) (s.now - (engineOf s e).mntAt + ns)
        (max 16 (bits (regGet s (reg .sld e 0x120)).toNat 47 32) * 10240 : Nat) (engineOf s e).mntTokens := by
  rw [slideBucketFill, Nat.mod_eq_of_lt he]
  exact ⟨_, tget_tset_same, rfl, rfl, rfl⟩

end

/-- Settles O45: an issue is the picked ring's, a landing moves its ring, the watchdog ends one member, and a fill is the gain of its
bucket. -/
theorem slideRows : Obligations.SlideRows := by
  unfold Obligations.SlideRows
  refine ⟨fun s e port addr n b r he htags hr hcan hfirst hb hb0 hroom => ?_, fun s e no slot n poison he => ?_,
    fun s ps x r hd hy hr hc => ?_, fun s ps r rs hd hy hr => ?_, fun s x since hc hw hph hb hlate => ?_,
    fun s e ns he hfree => ?_, fun s e ns he hfree => ?_, fun s e ns he => ?_⟩
  · have hk := slideIssue_picked he htags hr hcan hfirst hb hb0 hroom
    obtain ⟨g, hg, hunb, hmnt⟩ := chargeEngine_tokens (s := sringMod e r.no _ s) (e := e) (port := port) (n := b) (cls := r.cls)
      (ch := charge port addr b r.isWrite)
    exact ⟨_, g, rfl, (hk .srings rfl).trans ringIssued_srings, (congrArg (tget · e) (hk .engines rfl)).trans hg, hunb, hmnt⟩
  · refine ⟨_, rfl, rfl, fun i q hq => ?_⟩
    obtain ⟨q', hq', hother, hmoved⟩ := transferLanded_ring (no := no) (slot := slot) (n := n) (poison := poison) he hq
    refine ⟨q', hq', hother, fun f heng hno hf hslots => ?_⟩
    have hmove := hmoved f heng hno hf hslots
    cases hw : q.isWrite with
    | false =>
      rw [hw, if_neg Bool.false_ne_true] at hmove
      subst hmove
      refine ⟨readLanded_flight, nofun, nofun, ?_⟩
      rintro - rfl hn hroom
      exact mem_readLanded_poisoned hn hroom
    | true =>
      rw [hw, if_pos rfl] at hmove
      subst hmove
      exact ⟨writeAccepted_flight, fun _ h => writeAccepted_of_lt h,
        fun _ hz hlt hfull => writeAccepted_of_full hslots hz hlt hfull, nofun⟩
  · obtain ⟨u, evs, hu, ht⟩ := streamDeadlock_command hd hy hr
    have hend := cmdGet_finish (f := deadlocked x evs) (fun _ => rfl) ((cmdGet_congr (hu .cmds rfl)).trans hc)
    have hrow : exec (.streamDeadlock ps) s = .next (drainAll (streamDeadlock ps s)) := rfl
    rw [ht] at hrow
    refine ⟨_, _, hrow, ⟨_, hend, rfl, rfl, rfl, rfl⟩, hend, rfl, fun q hq => ?_⟩
    rw [finish_srings, List.mem_filter] at hq
    simpa using hq.2
  · obtain ⟨u, ev, hu, ht⟩ := streamDeadlock_step hd hy hr
    have hrow : exec (.streamDeadlock ps) s = .next (drainAll (streamDeadlock ps s)) := rfl
    rw [ht] at hrow
    refine ⟨_, hrow, (raise_keeps_self .cmds rfl).trans (hu .cmds rfl), (raise_keeps_self .srings rfl).trans ?_,
      (raise_keeps_self .colls rfl).trans ?_⟩
    · exact congrArg (List.filter _) (hu .srings rfl)
    · exact congrArg (List.map _) (hu .colls rfl)
  · exact ⟨_, rfl, resourceTimeout_ends hc hw hph hb hlate⟩
  · obtain ⟨g, hg, hmnt, hat, hunb⟩ := slideBucketFill_unb (s := s) (ns := ns) he
    exact ⟨_, g, rfl, hg, hmnt, hat, by rw [hunb, hfree]; rfl⟩
  · obtain ⟨g, hg, hmnt, -, hunb⟩ := slideBucketFill_unb (s := s) (ns := ns) he
    exact ⟨_, g, rfl, hg, hmnt, by rw [hunb, if_pos hfree]⟩
  · obtain ⟨g, hg, hunb, hat, hmnt⟩ := slideBucketFill_mnt (s := s) (ns := ns) he
    exact ⟨_, g, rfl, hg, hunb, hat, hmnt⟩

end Sys2Proof.Machine

/-! SUPPORT. Rows that write blocks to the host and end: the thresholds and the report of CONSOLIDATE, EXPORT and LOOKUP (R277, R297, R330). -/
namespace Sys2Proof.Machine

/-! ## Writes of host buffers -/

section
variable {s t u : State} {c : Nat} {x : Cmd} {w : Who}

/-- From `s` to `u` host buffers have been written: the collections stand, and of each command all but the response that it collects. -/
def BuffersWritten (s u : State) : Prop :=
  u.colls = s.colls ∧ ∀ c x, cmdGet s c = some x → ∃ d, cmdGet u c = some { x with dataOut := d }

theorem BuffersWritten.refl : BuffersWritten s s := ⟨rfl, fun _ x h => ⟨x.dataOut, h⟩⟩

theorem BuffersWritten.trans (hst : BuffersWritten s t) (htu : BuffersWritten t u) : BuffersWritten s u := by
  obtain ⟨hcolls, hcmds⟩ := hst
  obtain ⟨hcolls', hcmds'⟩ := htu
  refine ⟨hcolls'.trans hcolls, fun c x h => ?_⟩
  obtain ⟨_, hd⟩ := hcmds c x h
  obtain ⟨d, hd'⟩ := hcmds' c _ hd
  exact ⟨d, hd'⟩

theorem buffersWritten_writeDev {va : Nat} {bs : List Byte} (h : writeDev w va bs s = .ok () u) : BuffersWritten s u :=
  ⟨writeDev_ok_keeps h .colls rfl, fun _ _ hc => cmdGet_writeDev h hc⟩

/-- A part that is written when its bit asks for it. -/
theorem buffersWritten_writeIf {p : Bool} {va : Nat} {bs : List Byte}
    (h : (if p then writeDev w va bs s else .ok () s) = .ok () u) : BuffersWritten s u := by
  cases p with
  | true => exact buffersWritten_writeDev h
  | false =>
    obtain ⟨-, rfl⟩ := Res.ok.inj h
    exact .refl

theorem buffersWritten_checkSpans {ds : List BlkData} (h : checkSpans w ds s = .ok () u) : BuffersWritten s u := by
  have hk : Keeps 4194376 s u := res_ok h (checkSpans_keeps rfl keeps_refl)
  exact ⟨hk .colls rfl, fun _ x hc => ⟨x.dataOut, (cmdGet_congr (hk .cmds rfl)).trans hc⟩⟩

theorem buffersWritten_writeSpans {ds : List BlkData} {bs : List Byte} (h : writeSpans w ds bs s = .ok () u) :
    BuffersWritten s u := by
  induction ds generalizing bs s with
  | nil =>
    obtain ⟨-, rfl⟩ := Res.ok.inj h
    exact .refl
  | cons d ds ih =>
    rw [writeSpans] at h
    split at h
    · exact ih h
    · obtain ⟨_, t, hw, ht⟩ := andThen_eq_ok h
      exact (buffersWritten_writeDev hw).trans (ih ht)

/-- A command that ends once its buffers have been written keeps its status and its result. -/
theorem BuffersWritten.endsWith (hw : BuffersWritten s u) (hc : cmdGet s c = some x) :
    EndsWith (finish c id u) c x.status x.result := by
  obtain ⟨d, hd⟩ := hw.2 c x hc
  exact endsWith_finish (x := { x with dataOut := d }) hd

theorem BuffersWritten.colls {f : Cmd → Cmd} (hw : BuffersWritten s u) : (finish c f u).colls = s.colls :=
  finish_colls.trans hw.1

end

/-! ## CONSOLIDATE (R297) -/

section
variable {s u : State} {x : Cmd} {k : Coll}

theorem exec_consolidateSet (hb : Begun s x 0x50) (hk : tget s.colls (cColl x) = some k) (hop : cf x 16 1 = 2) :
    exec (.consolidateSet x.id) s = .next (drainAll (settle x.id (consolidateSet x k s))) :=
  congrArg (fun t => Host.Outcome.next (drainAll t)) (collRow_of_begun (f := consolidateSet) hb (opIs_of_cf hop) hk)

theorem exec_consolidateReport (hb : Begun s x 0x50) (hk : tget s.colls (cColl x) = some k) (hop : cf x 16 1 = 3) :
    exec (.consolidateReport x.id) s = .next (drainAll (settle x.id (consolidateReport x k s))) :=
  congrArg (fun t => Host.Outcome.next (drainAll t)) (collRow_of_begun (f := consolidateReport) hb (opIs_of_cf hop) hk)

theorem consolidateReport_written (hw : writeDev (whoOf s x) (cf x 32 8) (reportBytes k) s = .ok () u) :
    consolidateReport x k s = done x.id id u := by
  rw [consolidateReport, hw, andThen_ok]

/-! ## EXPORT (R330) -/

theorem exec_exportCmd (hb : Begun s x 0x53) (hk : tget s.colls (cColl x) = some k) :
    exec (.exportCmd x.id) s = .next (drainAll (settle x.id (exportStart x k s))) :=
  congrArg (fun t => Host.Outcome.next (drainAll t)) (collRow_of_begun (ok := always) (f := exportStart) hb rfl hk)

/-- The row goes on to its stream once the block list has been read and no barrier holds it back. -/
theorem exportStart_ready {c : Coll} {ds : List BlkData} (hv : viewOf s x = some c)
    (hds : dataSpans x true (cf x 16 8) (cf x 24 8) = some ds) (hbar : barred s x = false) :
    exportStart x k s = exportRow x c ds s := by
  simp only [exportStart, hv, hds, hbar, Bool.false_eq_true, if_false]

end

/-- Settles O27: op 2 configures the collection with the thresholds it picks; the report, or the stream with its next slot (log entry 64),
is written to the host and the command ends. -/
theorem maintenanceCommands : Obligations.MaintenanceCommands := by
  unfold Obligations.MaintenanceCommands
  refine ⟨fun s x k hb hk hop hf => ?_, fun s u x k hb hk hop hw => ?_,
    fun s u v x k c ds hb hk hv hds hbar => ?_⟩
  · obtain ⟨w, v, hw, hj, hn, -⟩ := configure_ok (k' := { k with
      sideHw := if cf x 20 4 = 0 then k.sideHw else cf x 20 4, ageMs := if cf x 24 4 = 0 then k.ageMs else cf x 24 4
      tombPm := if cf x 28 2 = 0 then k.tombPm else cf x 28 2 }) hb.cmd hb.executing hk hf
    refine ⟨w, _, ?_, hj, hn, rfl⟩
    rw [exec_consolidateSet hb hk hop, consolidateSet, hw, settle_ok]
  · have hwr := buffersWritten_writeDev hw
    refine ⟨finish x.id id u, ?_, hwr.endsWith hb.cmd, finish_hostMem, hwr.colls⟩
    rw [exec_consolidateReport hb hk hop, consolidateReport_written hw, settle_done]
  · dsimp only
    intro hclean hcheck hwrite
    have hwr := (buffersWritten_checkSpans hcheck).trans (buffersWritten_writeSpans hwrite)
    have hstream : exportRow x c ds s = done x.id id v := by
      simp only [exportRow, hclean, hcheck, hwrite, andThen_ok]
    refine ⟨finish x.id id v, ?_, hwr.endsWith hb.cmd, finish_hostMem, hwr.colls⟩
    rw [exec_exportCmd hb hk, exportStart_ready hv hds hbar, hstream, settle_done]

/-! ## LOOKUP (R277) -/

section
variable {s t u v : State} {x : Cmd} {k : Coll}

theorem exec_lookup (hb : Begun s x 0x24) (hv : viewOf s x = some k) (hbar : barred s x = false) :
    exec (.lookup x.id) s = .next (drainAll (settle x.id (lookupRow x k s))) := by
  have hrow : exec (.lookup x.id) s = execLookup x.id s := rfl
  simp only [hrow, execLookup, hb.1, hv, hbar, Bool.false_eq_true, if_false]

theorem lookupRow_notFound (hl : liveEntry k x.horizon (cf x 32 6) = none) :
    lookupRow x k s = done x.id (fun y => { y with status := stNotFound }) s := by
  simp only [lookupRow, hl]

/-- A live entry without poison whose source stands: the parts that were asked for are written, and the command ends. -/
theorem lookupRow_found {slot : Nat} {e : Entry} {bs : List Byte} (hl : liveEntry k x.horizon (cf x 32 6) = some (slot, e))
    (hp : poisonAt s k (cColl x) slot
      ((if bit (cf x 24 1) 0 then [.record] else []) ++ (if bit (cf x 24 1) 1 then [.code] else [])) = none)
    (hsrc : (((tget s.colls (cColl x)).bind (fun k => tget k.entries slot)).map Entry.src).getD e.src = .held bs)
    (hrec : (if bit (cf x 24 1) 0 then
      writeDev (whoOf s x) (cf x 16 8) (recBytes e.record (slot ∈ k.arr.side) e.encNext ++ List.replicate 32 0) s
      else .ok () s) = .ok () t)
    (hcode : (if bit (cf x 24 1) 1 then writeDev (whoOf s x) (cf x 16 8 + 64) (leBytes (k.codeBits / 8) e.code) t
      else .ok () t) = .ok () u)
    (hsource : (if bit (cf x 24 1) 2 then writeDev (whoOf s x) (cf x 16 8 + (64 + (k.codeBits / 8 + 63) / 64 * 64)) bs u
      else .ok () u) = .ok () v) :
    lookupRow x k s = done x.id id v := by
  simp only [lookupRow, hl, hp, hsrc]
  cases hbit : bit (cf x 24 1) 2 with
  | true =>
    rw [hbit, if_pos rfl] at hsource
    simp only [hrec, andThen_ok, hcode, hsource]
  | false =>
    rw [hbit, if_neg Bool.false_ne_true] at hsource
    simp only [hrec, andThen_ok, hcode, hsource]

end

/-- Settles O39: NOT_FOUND writes nothing, and a live entry's parts are written in turn before the command ends. -/
theorem lookupRow_holds : Obligations.LookupRow := by
  unfold Obligations.LookupRow
  refine ⟨fun s x k hb hv hbar hl => ?_,
    fun s t u v x k slot e bs hb hv hbar hl hp hsrc hrec hcode hsource => ?_⟩
  · refine ⟨finish x.id (fun y => { y with status := stNotFound }) s, ?_, ?_, finish_hostMem⟩
    · rw [exec_lookup hb hv hbar, lookupRow_notFound hl, settle_done]
    · exact ⟨_, cmdGet_finish (f := fun y => { y with status := stNotFound }) (fun _ => rfl) hb.cmd, rfl, rfl, rfl, rfl⟩
  · have hwr := ((buffersWritten_writeIf hrec).trans (buffersWritten_writeIf hcode)).trans (buffersWritten_writeIf hsource)
    refine ⟨finish x.id id v, ?_, hwr.endsWith hb.cmd, finish_hostMem, hwr.colls⟩
    rw [exec_lookup hb hv hbar, lookupRow_found hl hp hsrc hrec hcode hsource, settle_done]

end Sys2Proof.Machine

/-! SUPPORT. Drone starts its operations (R285, R286, R294, R295, R299, R302, R342). -/
namespace Sys2Proof.Machine

/-! ## The start of an operation (R285) -/

section
variable {s u : State} {h : Nat} {c : Coll} {op : DroneOp} {key by_ : Option Nat} {move : Option Move}

/-- The ring that carries the streams of the operation is all that changes besides the collection. -/
theorem startRun_colls : (startRun h op key move by_ s).colls = tmod s.colls h (fun c => { c with
    run := some { op := op, cut := c.posted, key := key, move := move, by_ := by_, since := s.now } }) :=
  droneRing_keeps (κ := 67108864) rfl keeps_refl .colls rfl

/-- An operation starts in a state that has at most changed the moves that wait on its collection. -/
theorem startRun_starts {ms : List Move} (hc : tget s.colls h = some c) (hu : tget u.colls h = some { c with moves := ms })
    (hother : ∀ g, g ≠ h → tget u.colls g = tget s.colls g) (hnow : u.now = s.now) :
    Started s (startRun h op key move by_ u) h op key move by_
      ∧ (tget (startRun h op key move by_ u).colls h).map Coll.moves = some ms := by
  have hstart : tget (startRun h op key move by_ u).colls h = some { c with
      moves := ms, run := some { op := op, cut := c.posted, key := key, move := move, by_ := by_, since := s.now } } := by
    rw [startRun_colls, tget_tmod, if_pos rfl, hu, Option.map_some, hnow]
  refine ⟨⟨c, _, hc, hstart, rfl, rfl, rfl, rfl, fun g hg => ?_⟩, by rw [hstart, Option.map_some]⟩
  rw [startRun_colls, tget_tmod, if_neg hg, hother g hg]

theorem started_startRun (hc : tget s.colls h = some c) : Started s (startRun h op key move by_ s) h op key move by_ :=
  (startRun_starts (ms := c.moves) hc hc (fun _ _ => rfl) rfl).1

theorem tget_collMod_moves {ms : List Move} (hc : tget s.colls h = some c) :
    tget (collMod h (fun c => { c with moves := ms }) s).colls h = some { c with moves := ms } := by
  rw [collMod_colls, tget_tmod, if_pos rfl, hc, Option.map_some]

theorem tget_collMod_other {f : Coll → Coll} {g : Nat} (hg : g ≠ h) : tget (collMod h f s).colls g = tget s.colls g := by
  rw [collMod_colls, tget_tmod, if_neg hg]

/-- A fold that its thresholds ask for starts, and the moves that wait are dropped (R342). -/
theorem started_startFold (hc : tget s.colls h = some c) (hfold : somethingToFold c = true) :
    Started s (startFold h c s) h .fold none none none := by
  have hk : Keeps 277562392648 (collMod h (fun c => { c with moves := [] }) s)
      (tierLowCheck (collMod h (fun c => { c with moves := [] }) s)) := tierLowCheck_keeps rfl keeps_refl
  rw [startFold, if_pos hfold]
  exact (startRun_starts (ms := []) hc ((congrArg (tget · h) (hk .colls rfl)).trans (tget_collMod_moves hc))
    (fun g hg => (congrArg (tget · g) (hk .colls rfl)).trans (tget_collMod_other hg)) (hk .now rfl)).1

end

/-! ## What each row starts -/

section
variable {s : State} {h key : Nat} {c : Coll} {x : Cmd}

section
variable (hc : tget s.colls h = some c) (hrun : mayRun s c = true) (hb : c.building = false)
include hc hrun hb

theorem foldStart_threshold (hx : consolidating s h 0 = none) (hside : placesUsed c ≥ c.sideHw) :
    foldStart h s = startFold h c s := by
  simp [foldStart, hc, hrun, hb, hx, hside]

theorem foldStart_consolidate (hx : consolidating s h 0 = some x) (hfold : somethingToFold c = true) :
    foldStart h s = startRun h .fold none none (some x.id) s := by
  simp [foldStart, hc, hrun, hb, hx, hfold]

theorem foldAge_aged (hage : aged s c = true) : foldAge h s = startFold h c s := by
  simp [foldAge, hc, hrun, hb, hage]

theorem compactionTrigger_partition (hx : consolidating s h 1 = none) (hdead : compactTombs c.posted (some key) c ≠ [])
    (hshare : (compactTombs c.posted (some key) c).length * 1000 ≥ c.tombPm * (partSlots c key).length) :
    compactionTrigger h key s = startRun h .compaction (some key) none none s := by
  simp [compactionTrigger, hc, hrun, hb, hx, hdead, hshare]

theorem compactionTrigger_consolidate (hx : consolidating s h 1 = some x) (hdead : compactTombs c.posted none c ≠ []) :
    compactionTrigger h key s = startRun h .compaction none none (some x.id) s := by
  simp [compactionTrigger, hc, hrun, hb, hx, hdead]

theorem repartition_newCentroids (hparts : hasParts c = true) (hmode : c.partMode = 1)
    (hgen : (currentCentroids s c).2 ≠ c.centroidGen) : repartition h s = startRun h .repartition none none none s := by
  simp [repartition, hc, hrun, hb, hparts, hmode, hgen]

/-- The move that waits longest leaves the list and starts, when its partition is not already where it asks. -/
theorem repartition_move {m : Move} {ms : List Move} (hparts : hasParts c = true)
    (hgen : c.partMode = 1 → (currentCentroids s c).2 = c.centroidGen) (hm : c.moves = m :: ms)
    (hplace : (tget c.arr.parts m.key).any (fun p => p.bulk ≠ m.toBulk) = true) :
    repartition h s = startRun h .repartition none (some m) none (collMod h (fun c => { c with moves := ms }) s) := by
  have hsame : ¬((decide (c.partMode = 1) && decide ((currentCentroids s c).2 ≠ c.centroidGen)) = true) := by
    simpa using hgen
  simp only [repartition, hc, hrun, hb, hparts, hsame, hm, hplace, Bool.not_true, Bool.or_self, Bool.false_eq_true, if_true, if_false]

end

theorem reencodeStep_migrating (hc : tget s.colls h = some c) (hrun : mayRun s c = true) (hmig : c.migrating = true)
    (hslots : recodeSlots c.posted c ≠ []) : reencodeStep h s = startRun h .reencodeStep none none none s := by
  simp [reencodeStep, hc, hrun, hmig, hslots]

theorem indexBuild_building (hc : tget s.colls h = some c) (hrun : mayRun s c = true) (hb : c.building = true) :
    indexBuild h s = startRun h .build none none none s := by
  simp [indexBuild, hc, hrun, hb]

end

/-- Settles O43: each row starts its operation, and what a start leaves is said once (`startRun_starts`). -/
theorem droneStarts : Obligations.DroneStarts := by
  unfold Obligations.DroneStarts
  refine ⟨fun s h c hc hrun hb hx hside hfold => ?_, fun s h c x hc hrun hb hx hfold => ?_, fun s h c hc hrun hb hage hfold => ?_,
    fun s h key c hc hrun hb hx hdead hshare => ?_, fun s h key c x hc hrun hb hx hdead => ?_,
    fun s h c hc hrun hmig hslots => ?_, fun s h c hc hrun hb hparts hmode hgen => ?_,
    fun s h c m ms hc hrun hb hparts hgen hm hplace => ?_, fun s h c hc hrun hb => ?_⟩
  · refine ⟨foldStart h s, rfl, ?_⟩
    rw [foldStart_threshold hc hrun hb hx hside]
    exact started_startFold hc hfold
  · refine ⟨foldStart h s, rfl, ?_⟩
    rw [foldStart_consolidate hc hrun hb hx hfold]
    exact started_startRun hc
  · refine ⟨foldAge h s, rfl, ?_⟩
    rw [foldAge_aged hc hrun hb hage]
    exact started_startFold hc hfold
  · refine ⟨compactionTrigger h key s, rfl, ?_⟩
    rw [compactionTrigger_partition hc hrun hb hx hdead hshare]
    exact started_startRun hc
  · refine ⟨compactionTrigger h key s, rfl, ?_⟩
    rw [compactionTrigger_consolidate hc hrun hb hx hdead]
    exact started_startRun hc
  · refine ⟨reencodeStep h s, rfl, ?_⟩
    rw [reencodeStep_migrating hc hrun hmig hslots]
    exact started_startRun hc
  · refine ⟨repartition h s, rfl, ?_⟩
    rw [repartition_newCentroids hc hrun hb hparts hmode hgen]
    exact started_startRun hc
  · refine ⟨repartition h s, rfl, ?_⟩
    rw [repartition_move hc hrun hb hparts hgen hm hplace]
    exact startRun_starts hc (tget_collMod_moves hc) (fun _ => tget_collMod_other) rfl
  · refine ⟨indexBuild h s, rfl, ?_⟩
    rw [indexBuild_building hc hrun hb]
    exact started_startRun hc

end Sys2Proof.Machine

/-! SUPPORT. What the rows of Bag share: the records that the journal takes, the commands that wait for flash, and programmed stripes
(R107, R114, R307, R310, R316). -/
namespace Sys2Proof.Machine

/-! ## The journal grows -/

/-- In `t` Bag is as `b` but for records that the journal has taken behind those it held. -/
def JournalGrown (b : Bag) (t : State) : Prop :=
  ∃ l n h, t.bag = { b with recs := b.recs ++ l, nextSeq := n, sramHead := h }

section
variable {b : Bag} {s : State}

theorem journalGrown_refl : JournalGrown s.bag s := ⟨[], s.bag.nextSeq, s.bag.sramHead, by rw [List.append_nil]⟩

theorem JournalGrown.of_eq {t : State} (h : JournalGrown b s) (ht : t.bag = s.bag) : JournalGrown b t := by
  unfold JournalGrown at h ⊢
  rwa [ht]

theorem JournalGrown.mem {r : JRec} (h : JournalGrown b s) (hr : r ∈ b.recs) : r ∈ s.bag.recs := by
  obtain ⟨l, n, hd, hb⟩ := h
  rw [hb]
  exact List.mem_append_left l hr

theorem JournalGrown.ckpt (h : JournalGrown b s) : s.bag.ckpt = b.ckpt := by
  obtain ⟨l, n, hd, hb⟩ := h
  rw [hb]

theorem JournalGrown.after_raise {k : Blk} {ev : Ev} (h : JournalGrown b s) : JournalGrown b (raise k ev s) :=
  h.of_eq (raise_keeps_self .bag rfl)

theorem JournalGrown.after_journalPut {r : JRec} (h : JournalGrown b s) : JournalGrown b (journalPut r s).2 := by
  obtain ⟨l, n, hd, hb⟩ := h
  unfold JournalGrown
  rw [journalPut_bag, hb]
  exact ⟨l ++ [_], _, _, by rw [List.append_assoc]⟩

theorem JournalGrown.after_journalDeferred {d : Nat} (h : JournalGrown b s) : JournalGrown b (journalDeferred d s) := by
  rw [journalDeferred]
  split
  · exact h.after_journalPut
  · exact h

/-- The deferred entries of a loss are recorded in the journal (R114). -/
theorem JournalGrown.after_deferAll {d : Nat} {es : List Deferred} (h : JournalGrown b s) : JournalGrown b (deferAll d es s) := by
  unfold deferAll
  split
  · refine JournalGrown.after_raise (JournalGrown.after_journalDeferred ?_)
    exact h.of_eq rfl
  · exact h

end

/-! ## Commands that wait for flash -/

section
variable {s : State} {c n : Nat} {x y : Cmd}

theorem cmdGet_map {f : Cmd → Cmd} (hf : ∀ y, (f y).id = y.id) : cmdGet { s with cmds := s.cmds.map f } c = (cmdGet s c).map f := by
  have hp : (fun y : Cmd => decide (y.id = c)) ∘ f = fun y => decide (y.id = c) := funext fun y => by simp [hf]
  exact (List.find?_map ..).trans (by rw [hp]; rfl)

/-- What becomes of a command once the stripes up to its record are programmed. -/
def flashed (s : State) (x : Cmd) : Cmd :=
  match x.work with
  | .wait 3 n => if onFlash s n then { x with phase := .finished, work := .none } else x
  | _ => x

theorem flashed_id : (flashed s x).id = x.id := by
  unfold flashed
  split
  · split <;> rfl
  · rfl

theorem flashed_of_onFlash (hw : x.work = .wait 3 n) (hn : onFlash s n = true) :
    flashed s x = { x with phase := .finished, work := .none } := by
  simp only [flashed, hw, hn, if_true]

theorem wakeFlash_eq : wakeFlash s = { s with cmds := s.cmds.map (flashed s) } := rfl

theorem cmdGet_failCmd_other {d status : Nat} {g : Option CmdFault} (h : d ≠ c) : cmdGet (failCmd c status g s) d = cmdGet s d := by
  rw [failCmd]
  split
  · rfl
  · dsimp only
    rw [cmdGet_finish_other (by intro z; rfl) h]
    cases g with
    | none => rfl
    | some g => exact cmdGet_congr (blkFault_keeps (κ := 192) rfl keeps_refl .cmds rfl)

/-- A FLUSH that goes on waits for flash and for the partner, fails for what is lost, or ends (R107). -/
theorem flushGoOn_cases {x : Cmd} : flushGoOn x n s = setWork x.id (.wait 9 n) s
    ∨ (∃ status g, flushGoOn x n s = failCmd x.id status g (cmdMod x.id (fun y => { y with jseq := n }) s))
    ∨ flushGoOn x n s = finish x.id id (cmdMod x.id (fun y => { y with jseq := n }) s) := by
  unfold flushGoOn
  dsimp only
  generalize (if mirrorOn s then ((covered s x n).filter (fun r => r.seq ≥ s.cst.mirrorFrom)).getLast? else none) = shipped
  split
  · exact .inl rfl
  · split
    · exact .inr (.inl ⟨_, _, rfl⟩)
    · split
      · exact .inr (.inl ⟨_, _, rfl⟩)
      · exact .inr (.inr rfl)

theorem cmdGet_flushGoOn_other {d : Nat} (h : d ≠ y.id) : cmdGet (flushGoOn y n s) d = cmdGet s d := by
  have hmod : ∀ {f : Cmd → Cmd}, (∀ z, (f z).id = z.id) → cmdGet (cmdMod y.id f s) d = cmdGet s d :=
    fun hf => (cmdGet_cmdMod hf).trans (if_neg h)
  obtain hrow | ⟨status, g, hrow⟩ | hrow := flushGoOn_cases (x := y) (n := n) (s := s)
  · rw [hrow]
    exact hmod (by intro z; rfl)
  · rw [hrow, cmdGet_failCmd_other h]
    exact hmod (by intro z; rfl)
  · rw [hrow, cmdGet_finish_other (f := id) (fun _ => rfl) h]
    exact hmod (by intro z; rfl)

/-- A command of which no entry of the queue store is a FLUSH stays as it is when the FLUSHes go on. -/
theorem cmdGet_wakeFlush (hx : ∀ y ∈ s.cmds, ∀ n, y.work = .wait 9 n → c ≠ y.id) : cmdGet (wakeFlush s) c = cmdGet s c := by
  unfold wakeFlush
  refine List.foldlRecOn (motive := fun t => cmdGet t c = cmdGet s c) s.cmds _ rfl fun t ht y hy => ?_
  split
  · next n hw => exact (cmdGet_flushGoOn_other (hx y hy n hw)).trans ht
  · exact ht

theorem wakeFlush_keeps_self : Keeps 13196354134208 s (wakeFlush s) := wakeFlush_keeps rfl keeps_refl

theorem wakeFlush_bag : (wakeFlush s).bag = s.bag := wakeFlush_keeps_self .bag rfl

theorem wakeDrained_bag : (wakeDrained s).bag = s.bag := wakeFlush_bag

/-- A command whose record stands on flash ends with the status and result it has (R307). -/
theorem endsWith_wakeDrained (hx : cmdGet s x.id = some x) (hone : ∀ y ∈ s.cmds, y.id = x.id → y = x) (hw : x.work = .wait 3 n)
    (hn : onFlash s n = true) : EndsWith (wakeDrained s) x.id x.status x.result := by
  have hflash : flashed s x = { x with phase := .finished, work := .none } := flashed_of_onFlash hw hn
  have hget : cmdGet (wakeFlash s) x.id = some { x with phase := .finished, work := .none } := by
    rw [wakeFlash_eq, cmdGet_map fun _ => flashed_id, hx, Option.map_some, hflash]
  have hflush : cmdGet (wakeDrained s) x.id = cmdGet (wakeFlash s) x.id := by
    refine cmdGet_wakeFlush fun y hy m hm hid => ?_
    obtain ⟨z, hz, rfl⟩ := List.mem_map.1 (wakeFlash_eq ▸ hy)
    obtain rfl : z = x := hone z hz (flashed_id.symm.trans hid.symm)
    rw [hflash] at hm
    cases hm
  exact ⟨_, hflush.trans hget, rfl, rfl, rfl, rfl⟩

end

/-! ## Stripes (R316) -/

section
variable {s : State} {seqs : List Nat} {n : Nat}

/-- Bag once a stripe with the records of numbers `seqs` has been programmed. -/
def withStripe (seqs : List Nat) (b : Bag) : Bag :=
  { b with
    nextStripe := b.nextStripe + 1
    stripes := b.stripes ++ [{ no := b.nextStripe, seqs := seqs, lostMembers := [], lost := false }]
    recs := b.recs.map (fun r => if r.seq ∈ seqs then { r with stripe := some b.nextStripe } else r) }

theorem putStripe_bag : (putStripe seqs s).bag = withStripe seqs s.bag :=
  chargeUnits_keeps (κ := 134217728) rfl keeps_refl .bag rfl

theorem countWritten_keeps_self : Keeps 2684485832 s (countWritten n s) := countWritten_keeps rfl keeps_refl

/-- The state once the records of a stripe are programmed and the bytes counted, before any command goes on. -/
def programmed (seqs : List Nat) (bytes : Nat) (s : State) : State := countWritten bytes (putStripe seqs s)

theorem programmed_bag : (programmed seqs n s).bag = withStripe seqs s.bag := (countWritten_keeps_self .bag rfl).trans putStripe_bag

theorem programmed_cmds : (programmed seqs n s).cmds = s.cmds :=
  (countWritten_keeps_self .cmds rfl).trans (putStripe_keeps (κ := 402653184) rfl keeps_refl .cmds rfl)

/-- The numbers of the records that the next stripe takes. -/
def nextSeqs (s : State) : List Nat := (fillStripe stripeBytes (undrained s)).map JRec.seq

theorem stripeProgrammed_due (hw : bagWorks s = true) (hd : stripeDue s = true) :
    stripeProgrammed s = wakeDrained (programmed (nextSeqs s) (sumBytes (fillStripe stripeBytes (undrained s))) s) := by
  simp only [stripeProgrammed, hw, hd, Bool.not_true, Bool.false_eq_true, if_false, programmed, nextSeqs]

/-- The records up to `m` are on flash once the stripe has taken those of them that were not. -/
theorem onFlash_programmed {m : Nat} (h : ∀ r ∈ s.bag.recs, r.seq ≤ m → r.stripe = none → r.seq ∈ seqs) :
    onFlash (programmed seqs n s) m = true := by
  refine List.all_eq_true.2 fun q hq => ?_
  rw [programmed_bag] at hq
  obtain ⟨r, hr, rfl⟩ := List.mem_map.1 hq
  by_cases hin : r.seq ∈ seqs
  · simp [hin]
  · by_cases hm : r.seq ≤ m
    · have hs : r.stripe.isSome := Option.isSome_iff_ne_none.2 fun hnone => hin (h r hr hm hnone)
      simp [hin, hs]
    · simp [hin, Nat.lt_of_not_le hm]

theorem rewriteStripe_kept {st : Stripe} (hst : s.bag.stripes.find? (fun t => t.no = n) = some st) (hl : st.lost = false) :
    rewriteStripe n s
      = programmed st.seqs stripeBytes (bagMod (fun b => { b with stripes := b.stripes.filter (fun t => t.no ≠ n) }) s) := by
  simp only [rewriteStripe, hst, hl, Bool.false_eq_true, if_false, programmed]

theorem flashScrub_refresh {unit : Nat} {st : Stripe} (hw : bagWorks s = true)
    (hst : s.bag.stripes.find? (fun t => t.no = n) = some st) (hl : st.lost = false) (hu : unit < 18) :
    flashScrub n unit true false s = rewriteStripe n s := by
  have hany : s.bag.stripes.any (fun t => t.no = n && !t.lost) = true := by
    refine List.any_eq_true.2 ⟨st, List.mem_of_find?_eq_some hst, ?_⟩
    have hno : st.no = n := by simpa using List.find?_some hst
    simp [hno, hl]
  have hunit : ¬18 ≤ unit := by omega
  simp [flashScrub, hw, hany, hunit]

end

end Sys2Proof.Machine

/-! SUPPORT. Poisoned records, checkpoints, log cleaning, and the rows of Bag's log (R317, R323, R511). -/
namespace Sys2Proof.Machine

/-! ## Poisoned records (R511) -/

section
variable {s : State} {r : JRec} {headerOk : Bool}

/-- The row once the BAG page has latched the record's place in journal SRAM. -/
theorem journalPoison_found (hw : bagWorks s = true) (hr : s.bag.recs.find? (fun q => q.seq = r.seq) = some r)
    (hs : r.stripe = none) (hp : r.poisoned = false) :
    ∃ u, Keeps 192 s u
      ∧ journalPoison r.seq headerOk s = if isSource r && headerOk then poisonSource r u else poisonRecord r headerOk u := by
  refine ⟨blkFault bagPage 0 (BitVec.ofNat 64 (mediaSram r.off)) 0 s, blkFault_keeps rfl keeps_refl, ?_⟩
  simp only [journalPoison, hr, hs, hp, hw, Option.isSome_none, Bool.not_true, Bool.or_self, Bool.false_eq_true, if_false]

theorem recMod_mem {f : JRec → JRec} (hr : r ∈ s.bag.recs) : f r ∈ (recMod r.seq f s).bag.recs :=
  List.mem_map.2 ⟨r, hr, if_pos rfl⟩

theorem deferAll_cmds {d : Nat} {es : List Deferred} : (deferAll d es s).cmds = s.cmds :=
  deferAll_keeps (κ := 2963406920) rfl keeps_refl .cmds rfl

/-- A source whose payload is lost stays in the journal with its code alone. -/
theorem poisonSource_record (hr : r ∈ s.bag.recs) : ∃ q ∈ (poisonSource r s).bag.recs, q.seq = r.seq ∧ q.type = r.type
    ∧ q.poisoned = true ∧ q.codeOnly = true ∧ q.stripe = r.stripe :=
  ⟨_, journalGrown_refl.after_deferAll.mem (recMod_mem (s := countLost _ (loseSources r.coll _ s)) hr), rfl, rfl, rfl, rfl, rfl⟩

theorem poisonSource_cmds : (poisonSource r s).cmds = s.cmds := deferAll_cmds

/-- While a checkpoint is being written, one that falls due waits. -/
theorem takeCheckpoint_running (h : s.bag.ckpt.isSome = true) :
    takeCheckpoint (bagMod (fun b => { b with ckptDue := true }) s) = bagMod (fun b => { b with ckptDue := true }) s := if_pos h

/-- The LOST PAD that drains in place of a record; `coll` is its collection where the header can be read. -/
def lostPad (coll : Nat) (q : JRec) : JRec :=
  { q with
    type := 0x7F, lost := true, poisoned := true, coll := coll, slot := none, oldSlot := none, entry := none, body := .pad, bytes := 64 }

/-- Any other record becomes a LOST PAD, its loss is deferred, and a checkpoint falls due. -/
theorem poisonRecord_eq : ∃ u coll d es, Keeps 8388672 s u ∧ poisonRecord r headerOk s
    = takeCheckpoint (bagMod (fun b => { b with ckptDue := true }) (deferAll d es (recMod r.seq (lostPad coll) u))) :=
  ⟨_, _, _, _, countLost_keeps rfl (loseSources_keeps rfl keeps_refl), rfl⟩

/-- While a checkpoint is being written, nothing more follows. -/
theorem poisonRecord_record (hr : r ∈ s.bag.recs) (hck : s.bag.ckpt.isSome = true) :
    (poisonRecord r headerOk s).bag.ckptDue = true ∧ (poisonRecord r headerOk s).cmds = s.cmds
      ∧ ∃ q ∈ (poisonRecord r headerOk s).bag.recs, q.seq = r.seq ∧ q.type = 0x7F ∧ q.lost = true ∧ q.body = .pad := by
  obtain ⟨u, coll, d, es, hk, hrow⟩ := poisonRecord_eq (r := r) (headerOk := headerOk) (s := s)
  have hbag : u.bag = s.bag := hk .bag rfl
  have hgrown := (journalGrown_refl (s := recMod r.seq (lostPad coll) u)).after_deferAll (d := d) (es := es)
  have hrun : (deferAll d es (recMod r.seq (lostPad coll) u)).bag.ckpt.isSome = true := by
    have hsame : u.bag.ckpt = s.bag.ckpt := congrArg Bag.ckpt hbag
    rwa [hgrown.ckpt.trans hsame]
  rw [hrow, takeCheckpoint_running hrun]
  exact ⟨rfl, deferAll_cmds.trans (hk .cmds rfl), lostPad coll r, hgrown.mem (recMod_mem (hbag ▸ hr)), rfl, rfl, rfl, rfl⟩

end

/-! ## Checkpoints (R323) -/

section
variable {s : State} {cut : Nat} {img : Image}

/-- Bag once the root of a checkpoint has been written. -/
def rooted (cut : Nat) (img : Image) (s : State) : Bag :=
  { s.bag with
    root := nextRoot s cut, image := img, oldRoot := if s.bag.rootsValid then some (s.bag.root, s.bag.image) else none
    rootsErased := false, rootsValid := true, ckpt := none, ckptAt := s.now
    gone := { entries := [], progs := [], tables := [], dump := [] } }

theorem sendTrim_bag : ∃ d, (sendTrim s).bag = { s.bag with deadRanges := d } := by
  rw [sendTrim]
  split
  · exact ⟨_, sendMsg_keeps (κ := 536870920) rfl keeps_refl .bag rfl⟩
  · exact ⟨_, rfl⟩

theorem wakeCheckpoints_bag : (wakeCheckpoints s).bag = s.bag := wakeCheckpoints_keeps (κ := 13196354134016) rfl keeps_refl .bag rfl

/-- Beside the new root, a checkpoint that has been written counts the dead sources and tells the partner of them. -/
theorem checkpointDone_bag (hw : bagWorks s = true) (hc : s.bag.ckpt = some (cut, img)) :
    ∃ rs d, (checkpointDone s).bag = { rooted cut img s with recs := rs, deadRanges := d } := by
  simp only [checkpointDone, hc, hw, Bool.not_true, Bool.false_eq_true, if_false]
  rw [wakeCheckpoints_bag]
  obtain ⟨d, hd⟩ := sendTrim_bag (s := countDead _)
  rw [hd]
  have hbag : ∀ {ev : Ev} {n : Nat} {u : State}, (raise .bag ev (countWritten n u)).bag = u.bag :=
    (raise_keeps_self .bag rfl).trans (countWritten_keeps_self .bag rfl)
  unfold countDead
  rw [bagMod_bag, hbag]
  exact ⟨_, d, rfl⟩

end

/-! ## Log cleaning (R317) -/

section
variable {s : State} {n : Nat} {st : Stripe}

/-- A stripe that holds no live source is freed without a copy. -/
theorem logCleaning_dead (hw : droneWorks s = true) (hst : (countDead s).bag.stripes.find? (fun t => t.no = n) = some st)
    (hl : st.lost = false)
    (hdead : ∀ r ∈ (countDead s).bag.recs, r.stripe = some n → r.seq ≤ s.bag.root.ckptSeq ∧ (r.dead = true ∨ isSource r = false)) :
    logCleaning n s = bagMod (fun b => { b with
      stripes := b.stripes.filter (fun t => t.no ≠ n), recs := b.recs.filter (fun r => !(r.stripe = some n && r.dead)) })
      (countDead s) := by
  have hmem : ∀ r ∈ (countDead s).bag.recs.filter (fun r => r.stripe = some n),
      r.seq ≤ s.bag.root.ckptSeq ∧ (r.dead = true ∨ isSource r = false) := fun r hr => by
    obtain ⟨hin, hstripe⟩ := List.mem_filter.1 hr
    exact hdead r hin (by simpa using hstripe)
  have hlive : ((countDead s).bag.recs.filter (fun r => r.stripe = some n)).filter (fun r => isSource r && !r.dead && !r.lost) = [] :=
    List.filter_eq_nil_iff.2 fun r hr => by obtain h | h := (hmem r hr).2 <;> simp [h]
  have hcut : ((countDead s).bag.recs.filter (fun r => r.stripe = some n)).any (fun r => r.seq > (countDead s).bag.root.ckptSeq) = false :=
    List.any_eq_false.2 fun r hr => by
      have hle : r.seq ≤ (countDead s).bag.root.ckptSeq := (hmem r hr).1
      simpa using hle
  have hworks : droneWorks (countDead s) = true := hw
  have hnone : ¬4 * sumBytes [] > sumBytes ((countDead s).bag.recs.filter (fun r => r.stripe = some n)) := by simp [sumBytes]
  simp only [logCleaning, hst]
  rw [hlive, hcut, hl, hworks, decide_eq_false hnone]
  rfl

end

/-- Settles O50: stripes and rewritten stripes are `programmed`, a poisoned record stays in a journal that only grows, and a stripe whose
sources are all dead is freed without a copy. -/
theorem logRows : Obligations.LogRows := by
  unfold Obligations.LogRows
  refine ⟨fun s rs hw hd hrs => ?_, fun s x n hw hd hx hone hwork hin => ?_, fun s r l hu hat => ?_, fun s r l hu hat => ?_,
    fun s r hw hr hs hp htype => ?_, fun s r headerOk hw hr hs hp hother hck => ?_, fun s hdue => ?_, fun s cut img hw hc => ?_,
    fun s n st hw hst hl hdead => ?_, fun s n unit st hw hst hl hu => ?_⟩
  · subst hrs
    refine ⟨stripeProgrammed s, rfl, ?_⟩
    rw [stripeProgrammed_due hw hd, wakeDrained_bag, programmed_bag]
    exact ⟨rfl, rfl, rfl⟩
  · refine ⟨stripeProgrammed s, rfl, ?_⟩
    rw [stripeProgrammed_due hw hd]
    exact endsWith_wakeDrained ((cmdGet_congr programmed_cmds).trans hx) (by rwa [programmed_cmds]) hwork (onFlash_programmed hin)
  · have hrow : exec .drainTimeout s = .next (drainTimeout s) := rfl
    rw [hrow, drainTimeout, hu]
    exact congrArg _ (if_pos hat)
  · have hrow : exec .drainTimeout s = .next (drainTimeout s) := rfl
    rw [hrow, drainTimeout, hu]
    exact congrArg _ (if_neg (by omega))
  · obtain ⟨u, hk, hrow⟩ := journalPoison_found (headerOk := true) hw hr hs hp
    have hsource : isSource r = true := by simpa [isSource] using htype
    rw [hsource, Bool.and_self, if_pos rfl] at hrow
    have hmem : r ∈ u.bag.recs := by
      rw [hk .bag rfl]
      exact List.mem_of_find?_eq_some hr
    obtain ⟨q, hq, hseq, htype', hpois, hcode, hstripe⟩ := poisonSource_record hmem
    refine ⟨journalPoison r.seq true s, q, rfl, ?_⟩
    rw [hrow]
    exact ⟨hq, hseq, htype', hpois, hcode, hstripe.trans hs, poisonSource_cmds.trans (hk .cmds rfl)⟩
  · obtain ⟨u, hk, hrow⟩ := journalPoison_found (headerOk := headerOk) hw hr hs hp
    have hnot : (isSource r && headerOk) = false := by
      obtain h | ⟨h1, h2⟩ := hother
      · simp [h]
      · simp [isSource, h1, h2]
    rw [hnot, if_neg Bool.false_ne_true] at hrow
    have hbag : u.bag = s.bag := hk .bag rfl
    obtain ⟨hdue, hcmds, q, hq, hseq, htype, hlost, hbody⟩ := poisonRecord_record (r := r) (headerOk := headerOk) (s := u)
      (by rw [hbag]; exact List.mem_of_find?_eq_some hr) (by rw [hbag]; exact hck)
    refine ⟨journalPoison r.seq headerOk s, q, rfl, ?_⟩
    rw [hrow]
    exact ⟨hq, hseq, htype, hlost, hbody, hdue, hcmds.trans (hk .cmds rfl)⟩
  · have hrow : exec .checkpointTimer s = .next (checkpointTimer s) := rfl
    rw [hrow, checkpointTimer, if_pos (by simpa using hdue)]
    rfl
  · obtain ⟨rs, d, hbag⟩ := checkpointDone_bag hw hc
    refine ⟨checkpointDone s, rfl, ?_⟩
    rw [hbag]
    exact ⟨rfl, rfl, rfl, rfl, rfl, rfl⟩
  · refine ⟨logCleaning n s, rfl, ?_⟩
    rw [logCleaning_dead hw hst hl hdead]
    exact ⟨rfl, rfl⟩
  · refine ⟨flashScrub n unit true false s, rfl, ?_⟩
    rw [flashScrub_refresh hw hst hl hu, rewriteStripe_kept hst hl, programmed_bag]
    exact ⟨rfl, rfl⟩

end Sys2Proof.Machine

/-! SUPPORT. What raised events and messages leave of Consort, of the logs and of the registers (R385, R386, R399, R434). -/
namespace Sys2Proof.Machine

/-! ## Raised events -/

/-- What holds of a state in which an event has been noted and is kept by each way that the event can take holds once it is raised. -/
theorem raise_induction {P : State → Prop} {b : Blk} {ev : Ev} {s : State} (hnoted : P (noted ev s))
    (hheld : ∀ t l, P t → P { t with chn := { t.chn with heldEvents := l } })
    (hlose : ∀ t, ∀ e ∈ evRingsFor (stamped ev s) (noted ev s), P t → P (loseEvent e t))
    (hdue : ∀ t, ∀ e ∈ evRingsFor (stamped ev s) (noted ev s), P t → P (dueEvent (stamped ev s) e t))
    (hpeer : ∀ t i, P t → P (evToPeer (stamped ev s) i t)) : P (raise b ev s) := by
  have hr : raise b ev s = if !evEnabled b ev.unit ev.code (noted ev s) then noted ev s
      else if (noted ev s).chn.holding then
        if (noted ev s).chn.heldEvents.length < 65536 then
          { noted ev s with chn := { (noted ev s).chn with heldEvents := (noted ev s).chn.heldEvents ++ [stamped ev s] } }
        else (evRingsFor (stamped ev s) (noted ev s)).foldl (fun s e => loseEvent e s) (noted ev s)
      else postEvent (stamped ev s) (noted ev s) := rfl
  rw [hr]
  refine inv_ite hnoted (inv_ite (inv_ite (hheld _ _ hnoted) ?_) ?_)
  · exact List.foldlRecOn (motive := P) _ _ hnoted fun t ht e he => hlose t e he ht
  · exact inv_foldl hpeer (List.foldlRecOn (motive := P) _ _ hnoted fun t ht e he => hdue t e he ht)

/-- What an event that falls due for a peer makes of its entry (R399). -/
def given (ev : Ev) (p : Peer) : Peer :=
  if p.state = 3 then { p with lostBefore := true } else if p.state = 0 then p else { p with events := p.events ++ [ev] }

theorem evToPeer_cst {ev : Ev} {i : Nat} {s : State} :
    (evToPeer ev i s).cst = { s.cst with peers := tmod s.cst.peers i (given ev) } := rfl

theorem noted_keeps {ev : Ev} {s : State} : Keeps 2147483720 s (noted ev s) :=
  tellPldm_keeps rfl (latchEvent_keeps rfl (logEvent_keeps rfl (upd_chn rfl keeps_refl)))

/-- Of Consort an event changes the entries of the peers that it is sent to, and nothing else. -/
theorem raise_cst {P : Consort → Prop} {b : Blk} {ev : Ev} {s : State} (h : P s.cst)
    (hP : ∀ c i, P c → P { c with peers := tmod c.peers i (given (stamped ev s)) }) : P (raise b ev s).cst := by
  refine raise_induction (P := fun t => P t.cst) ?_ (fun _ _ ht => ht) (fun t e _ ht => ?_) (fun t e _ ht => ?_) (fun t i ht => ?_)
  · rwa [noted_keeps .cst rfl]
  · rwa [loseEvent_keeps (κ := 131136) rfl (keeps_refl (s₀ := t)) .cst rfl]
  · rwa [dueEvent_keeps (κ := 131136) rfl (keeps_refl (s₀ := t)) .cst rfl]
  · rw [evToPeer_cst]
    exact hP _ i ht

theorem raise_ports {b : Blk} {ev : Ev} {s : State} : (raise b ev s).cst.ports = s.cst.ports :=
  raise_cst (P := fun c => c.ports = s.cst.ports) rfl fun _ _ h => h

/-! ## The logs -/

/-- From `s` to `t` no event has been raised: the recent log and the last sequence number are the same (R434). -/
def LogsKept (s t : State) : Prop := t.chn.recent = s.chn.recent ∧ t.chn.eventSeq = s.chn.eventSeq

theorem LogsKept.trans {s u t : State} (h : LogsKept s u) (h' : LogsKept u t) : LogsKept s t := ⟨h'.1.trans h.1, h'.2.trans h.2⟩

theorem Raised.of_logsKept {s v t : State} {code sev : Nat} (h : Raised s v code sev) (hl : LogsKept v t) : Raised s t code sev := by
  obtain ⟨hrecent, hseq⟩ := hl
  unfold Raised at h ⊢
  rwa [hrecent, hseq]

section
variable {s : State} {c : Nat}

theorem logsKept_of_chn {t : State} (h : t.chn = s.chn) : LogsKept s t := ⟨congrArg _ h, congrArg _ h⟩

theorem logsKept_finish {f : Cmd → Cmd} : LogsKept s (finish c f s) := ⟨rfl, rfl⟩

theorem logsKept_failCmd {status : Nat} {g : Option CmdFault} : LogsKept s (failCmd c status g s) := by
  rw [failCmd]
  split
  · exact ⟨rfl, rfl⟩
  · refine LogsKept.trans ?_ logsKept_finish
    cases g with
    | none => exact ⟨rfl, rfl⟩
    | some g => exact logsKept_of_chn (blkFault_keeps (κ := 192) rfl keeps_refl .chn rfl)

theorem logsKept_flushGoOn {x : Cmd} {n : Nat} : LogsKept s (flushGoOn x n s) := by
  obtain hrow | ⟨status, g, hrow⟩ | hrow := flushGoOn_cases (x := x) (n := n) (s := s)
  · rw [hrow]
    exact ⟨rfl, rfl⟩
  · rw [hrow]
    refine LogsKept.trans ?_ logsKept_failCmd
    exact ⟨rfl, rfl⟩
  · rw [hrow]
    exact ⟨rfl, rfl⟩

/-- A FLUSH that goes on raises no event. -/
theorem logsKept_wakeFlush : LogsKept s (wakeFlush s) := by
  unfold wakeFlush
  refine inv_foldl (P := LogsKept s) (fun t x ht => ?_) ⟨rfl, rfl⟩
  split
  · exact ht.trans logsKept_flushGoOn
  · exact ht

/-- A fan-out that is refused raises no event. -/
theorem logsKept_fansDown {i : Nat} : LogsKept s (fansDown i s) := by
  unfold fansDown
  refine inv_foldl (P := LogsKept s) (fun t x ht => ?_) ⟨rfl, rfl⟩
  refine ht.trans (LogsKept.trans ?_ logsKept_finish)
  exact logsKept_of_chn (countRefusal_keeps (κ := 64) rfl keeps_refl .chn rfl)

end

/-! ## Registers of other pages -/

section
variable {s : State} {o : Nat}

theorem regGet_congr {t : State} (h : t.regs = s.regs) : regGet t o = regGet s o := by rw [regGet, regGet, h]

theorem regGet_blkFault {p n : Nat} {addr info : Word64} (h1 : o ≠ pageReg p 0x020) (h2 : o ≠ pageReg p 0x028)
    (h3 : o ≠ pageReg p 0x030) : regGet (blkFault p n addr info s) o = regGet s o := by
  have herr : ∀ v, regGet (regSet (pageReg p 0x020) v s) o = regGet s o := fun v => regGet_regSet.trans (if_neg h1)
  unfold blkFault
  dsimp only
  generalize regGet s (pageReg p 0x020) ||| BitVec.ofNat 64 (2 ^ n) = err
  split
  · exact herr err
  · refine Eq.trans (regGet_congr
      (s := regSet (pageReg p 0x030) info (regSet (pageReg p 0x028) addr (regSet (pageReg p 0x020) err s))) ?_) ?_
    · dsimp only
    · rw [regGet_regSet, if_neg h3, regGet_regSet, if_neg h2, herr]

theorem regGet_loseEvent {e : Nat} (h : o ≠ reg .mpc 0 (0x280 + 8 * e)) : regGet (loseEvent e s) o = regGet s o :=
  regGet_regSet.trans (if_neg h)

theorem regGet_dueEvent {ev : Ev} {e : Nat} (h : o ≠ reg .mpc 0 (0x280 + 8 * e)) : regGet (dueEvent ev e s) o = regGet s o := by
  rw [dueEvent]
  split
  · exact regGet_loseEvent h
  · rfl

theorem regGet_noted {ev : Ev} (h1 : o ≠ reg .mpc 0 0x2C8) (h2 : o ≠ reg .chn 0 0x128) : regGet (noted ev s) o = regGet s o := by
  have hset : ∀ {p v t}, o ≠ p → regGet (regSet p v t) o = regGet t o := fun h => regGet_regSet.trans (if_neg h)
  have hlatch : ∀ t : State, regGet (latchEvent (stamped ev s) t) o = regGet t o := fun t => by
    rw [latchEvent]
    split
    · rw [hset h2]
      split
      · exact hset h1
      · rfl
    · split
      · exact hset h1
      · rfl
  exact (regGet_congr (tellPldm_keeps (κ := 8) rfl keeps_refl .regs rfl)).trans (hlatch _)

theorem lt_of_mem_evRingsFor {ev : Ev} {e : Nat} (hd : ev.dom = 0xFFFF) (he : e ∈ evRingsFor ev s) : e < 8 := by
  rw [evRingsFor, if_neg (by simp [hd])] at he
  split at he
  · obtain rfl := List.mem_singleton.1 he
    decide
  · obtain rfl | he := List.mem_cons.1 he
    · decide
    · exact List.mem_range.1 (List.mem_filter.1 he).1

/-- An event of the whole module writes to the MPC page and to CHN's latch alone. -/
theorem regGet_raise {b : Blk} {ev : Ev} (hd : ev.dom = 0xFFFF) (h1 : ∀ off, off < 4096 → o ≠ reg .mpc 0 off)
    (h2 : o ≠ reg .chn 0 0x128) : regGet (raise b ev s) o = regGet s o := by
  refine raise_induction (P := fun t => regGet t o = regGet s o) (regGet_noted (h1 _ (by decide)) h2) (fun _ _ ht => ht)
    (fun t e he ht => (regGet_loseEvent (h1 _ ?_)).trans ht) (fun t e he ht => (regGet_dueEvent (h1 _ ?_)).trans ht) (fun _ _ ht => ht)
  · have := lt_of_mem_evRingsFor (ev := stamped ev s) hd he
    omega
  · have := lt_of_mem_evRingsFor (ev := stamped ev s) hd he
    omega

/-- A violation writes to the MPC page and to CHN's latch alone (R86). -/
theorem regGet_violation {kind size ring : Nat} {addr : Word64} {read evr : Bool} (h1 : ∀ off, off < 4096 → o ≠ reg .mpc 0 off)
    (h2 : o ≠ reg .chn 0 0x128) : regGet (violation kind addr size read ring evr s) o = regGet s o := by
  rw [violation_eq]
  refine (regGet_raise rfl h1 h2).trans ?_
  have hb : regGet (blkFault 0 (kind - 1) addr (violInfo kind size read 0 ring evr) s) o = regGet s o :=
    regGet_blkFault (h1 _ (by decide)) (h1 _ (by decide)) (h1 _ (by decide))
  exact inv_ite (P := fun t => regGet t o = regGet s o) hb (inv_ite (P := fun t => regGet t o = regGet s o) hb hb)

end

/-! ## Messages to peers (R386) -/

/-- Where shipping to the partner stands: the first record it is to have, the last it has acknowledged, and whether shipping rests. -/
def shipState (c : Consort) : Nat × Nat × Bool := (c.mirrorFrom, c.mirrorAck, c.mirrorPaused)

/-- What the entry of a peer holds for it as an owner: records in journal SRAM, in the mirror log, and without room yet (R400). -/
def heldFor (i : Nat) (c : Consort) : Option (List MirrorRec × List MirrorRec × List MirrorRec) :=
  (tget c.peers i).map (fun p => (p.mirror, p.mirrorLog, p.mirrorWait))

section
variable {s : State} {i j peer : Nat}

theorem heldFor_tset {c : Consort} {p q : Peer} (hp : tget c.peers peer = some p)
    (hq : (q.mirror, q.mirrorLog, q.mirrorWait) = (p.mirror, p.mirrorLog, p.mirrorWait)) :
    heldFor i { c with peers := tset c.peers peer q } = heldFor i c := by
  rw [heldFor, heldFor, tget_tset]
  split
  · next h => rw [h, hp, Option.map_some, Option.map_some, hq]
  · rfl

/-- What sending leaves of Consort: any part that no message to a peer touches. -/
theorem sendMsg_cst {α : Type} {g : Consort → α} {kind : Nat} {bnd : Bool} {hdr : Word64} {body : List Byte}
    (hg : ∀ c p q, tget c.peers peer = some p → (q.mirror, q.mirrorLog, q.mirrorWait) = (p.mirror, p.mirrorLog, p.mirrorWait) →
      g { c with peers := tset c.peers peer q } = g c) : g (sendMsg peer kind bnd hdr body s).cst = g s.cst := by
  have hout : ∀ (m : OutMsg) (t : State), g (sendOut peer m t).cst = g t.cst := fun m t => by
    rw [sendOut]
    split
    · rfl
    · next p hp => exact hg _ p _ hp rfl
  have hflush : ∀ (n : Nat) (t : State), g (flushMsgs peer n t).cst = g t.cst := fun n => by
    induction n with
    | zero => exact fun _ => rfl
    | succ n ih =>
      intro t
      rw [flushMsgs]
      split
      · rfl
      · next p hp =>
        split
        · rfl
        · split
          · rfl
          · exact (ih _).trans ((hout _ _).trans (hg _ p _ hp rfl))
  rw [sendMsg]
  split
  · rfl
  · next p hp => exact (hflush _ _).trans (hg _ p _ hp rfl)

theorem shipState_sendMsg {kind : Nat} {bnd : Bool} {hdr : Word64} {body : List Byte} :
    shipState (sendMsg peer kind bnd hdr body s).cst = shipState s.cst := sendMsg_cst fun _ _ _ _ _ => rfl

theorem heldFor_sendMsg {kind : Nat} {bnd : Bool} {hdr : Word64} {body : List Byte} :
    heldFor i (sendMsg peer kind bnd hdr body s).cst = heldFor i s.cst := sendMsg_cst fun _ _ _ hp hq => heldFor_tset hp hq

theorem shipState_shipRecord {r : JRec} : shipState (shipRecord r s).cst = shipState s.cst := by
  rw [shipRecord]
  split
  · exact shipState_sendMsg
  · rfl

theorem shipState_shipRest : shipState (shipRest s).cst = shipState s.cst :=
  inv_foldl (P := fun t => shipState t.cst = shipState s.cst) (fun _ _ ht => shipState_shipRecord.trans ht) rfl

theorem shipState_raise {b : Blk} {ev : Ev} : shipState (raise b ev s).cst = shipState s.cst :=
  raise_cst (P := fun c => shipState c = shipState s.cst) rfl fun _ _ h => h

theorem shipState_deferAll {d : Nat} {es : List Deferred} : shipState (deferAll d es s).cst = shipState s.cst := by
  have hjournal : ∀ t : State, shipState (journalDeferred d t).cst = shipState t.cst := fun t => by
    rw [journalDeferred]
    split
    · exact shipState_shipRecord
    · rfl
  unfold deferAll
  split
  · exact shipState_raise.trans (hjournal _)
  · rfl

theorem packetBytes_ge : 1024 ≤ packetBytes s := by
  rw [packetBytes]
  split <;> decide

theorem packets_le {n : Nat} (h : n ≤ 2 ^ 20) : (n + 15 + packetBytes s) / packetBytes s ≤ 4096 := by
  have hge := packetBytes_ge (s := s)
  refine Nat.le_of_lt_succ ((Nat.div_lt_iff_lt_mul (by omega)).2 ?_)
  omega

theorem sendOut_outbox {m : OutMsg} {p : Peer} (hp : tget s.cst.peers peer = some p) :
    (sendOut peer m s).outbox = s.outbox ++ [.fabricMsg peer m.kind m.bnd m.hdr m.body] := by
  rw [sendOut, hp]
  rfl

/-- The one message that waits goes out when its packets have room. -/
theorem flushMsgs_outbox {m : OutMsg} {p : Peer} (hp : tget s.cst.peers peer = some p) (hq : p.queued = [m]) (hu : p.unacked = [])
    (hs : p.state = 2) (hlen : m.body.length ≤ 2 ^ 20) :
    (flushMsgs peer 1 s).outbox = s.outbox ++ [.fabricMsg peer m.kind m.bnd m.hdr m.body] := by
  have hroom : ¬(p.state ≠ 2 ∨ p.unacked.length + (m.body.length + 15 + packetBytes s) / packetBytes s > 4096) := by
    simp [hs, hu, packets_le hlen]
  rw [flushMsgs, hp]
  dsimp only
  rw [hq]
  dsimp only
  rw [if_neg hroom]
  exact sendOut_outbox tget_tset_same

/-- With no other message waiting and room for its packets, a message goes out at once. -/
theorem sendMsg_outbox {kind : Nat} {bnd : Bool} {hdr : Word64} {body : List Byte} {p : Peer} (hp : tget s.cst.peers peer = some p)
    (hq : p.queued = []) (hu : p.unacked = []) (hs : p.state = 2) (hlen : body.length ≤ 2 ^ 20) :
    (sendMsg peer kind bnd hdr body s).outbox = s.outbox ++ [.fabricMsg peer kind bnd hdr body] := by
  rw [sendMsg, hp]
  dsimp only
  rw [hq]
  exact flushMsgs_outbox (m := { id := 0, kind := kind, bnd := bnd, hdr := hdr, body := body, psns := [] }) tget_tset_same rfl hu hs hlen

end

/-! ## Peer entries -/

section
variable {s : State} {i : Nat} {f : Peer → Peer}

theorem tget_peerMod : tget (peerMod i f s).cst.peers i = (tget s.cst.peers i).map f := tget_tmod.trans (if_pos rfl)

theorem tget_peerPut : tget (peerPut i f s).cst.peers i = some (f (peerOf s i)) := tget_tset_same

theorem peerOf_of_tget {p : Peer} (h : tget s.cst.peers i = some p) : peerOf s i = p := by rw [peerOf, h, Option.getD_some]

theorem portsMask_congr {t : State} (h : t.cst.ports = s.cst.ports) : portsMask t = portsMask s := by rw [portsMask, portsMask, h]

theorem msgFrom_connected {g : Peer → State → State} {p : Peer} (hf : fabricOn s = true) (hp : tget s.cst.peers i = some p)
    (he : p.enable = true) (hs : p.state = 2) : msgFrom i g s = g p s := by simp [msgFrom, hp, hf, he, hs]

end

end Sys2Proof.Machine

/-! SUPPORT. Mirroring at the partner and at the owner, and Consort's registers (R309, R388, R389, R400, R401). -/
namespace Sys2Proof.Machine

/-! ## The partner (R400) -/

section
variable {s : State} {i j : Nat}

theorem fitting_append {room : Nat} {l : List MirrorRec} : (fitting room l).1 ++ (fitting room l).2 = l := by
  induction l generalizing room with
  | nil => rfl
  | cons r t ih =>
    rw [fitting]
    split
    · exact congrArg (r :: ·) ih
    · rfl

theorem heldFor_peerMod {f : Peer → Peer} : heldFor i (peerMod j f s).cst
    = if i = j then (tget s.cst.peers i).map (fun p => ((f p).mirror, (f p).mirrorLog, (f p).mirrorWait)) else heldFor i s.cst := by
  rw [heldFor, peerMod_cst]
  dsimp only
  rw [tget_tmod]
  split
  · rw [Option.map_map]
    rfl
  · rfl

/-- Records that wait for room move into journal SRAM in their order, and nothing else moves (R400). -/
def MovedIn (m l w : List MirrorRec) (i : Nat) (t : State) : Prop :=
  ∃ a b, w = a ++ b ∧ heldFor i t.cst = some (m ++ a, l, b)

theorem movedIn_refl {m l w : List MirrorRec} (h : heldFor i s.cst = some (m, l, w)) : MovedIn m l w i s :=
  ⟨[], w, rfl, by rw [List.append_nil]; exact h⟩

theorem MovedIn.take {m l w : List MirrorRec} (h : MovedIn m l w i s) : MovedIn m l w i (mirrorTake j s) := by
  rw [mirrorTake]
  dsimp only
  split
  · exact h
  · obtain ⟨a, b, rfl, hh⟩ := h
    unfold MovedIn
    rw [heldFor_sendMsg, heldFor_peerMod]
    split
    · next hij =>
      subst hij
      obtain ⟨p, hp, hparts⟩ := Option.map_eq_some_iff.1 hh
      obtain ⟨hm, hl, hw⟩ : p.mirror = m ++ a ∧ p.mirrorLog = l ∧ p.mirrorWait = b := by simpa using hparts
      rw [peerOf_of_tget hp, hp, hw]
      generalize 2 ^ 24 - mirrorUsed s = room
      exact ⟨a ++ (fitting room b).1, (fitting room b).2, by rw [List.append_assoc, fitting_append], by simp [hm, hl]⟩
    · exact ⟨a, b, rfl, hh⟩

theorem MovedIn.peer {m l w : List MirrorRec} (h : MovedIn m l w i s) :
    ∃ a b q, w = a ++ b ∧ tget s.cst.peers i = some q ∧ q.mirror = m ++ a ∧ q.mirrorLog = l ∧ q.mirrorWait = b := by
  obtain ⟨a, b, hw, hh⟩ := h
  obtain ⟨q, hq, hparts⟩ := Option.map_eq_some_iff.1 hh
  obtain ⟨hm, hl, hb⟩ : q.mirror = m ++ a ∧ q.mirrorLog = l ∧ q.mirrorWait = b := by simpa using hparts
  exact ⟨a, b, q, hw, hq, hm, hl, hb⟩

/-- No record is lost on the way. -/
theorem mem_moved {m l w a b : List MirrorRec} {x : MirrorRec} (hw : w = a ++ b) (hx : x ∈ m ++ l ++ w) : x ∈ m ++ a ++ l ++ b := by
  subst hw
  simp only [List.mem_append] at hx ⊢
  tauto

variable {p : Peer}

/-- The records of an owner that are not held yet join those that wait, and move on as far as they fit. -/
theorem mirrorHold_movedIn {recs : List MirrorRec} (hp : tget s.cst.peers i = some p) (hne : recs ≠ [])
    (hroom : mirrors p = true ∨ (s.cst.peers.filter (fun q => mirrors q.2)).length < 4) :
    MovedIn p.mirror p.mirrorLog
      (p.mirrorWait ++ recs.filter (fun r => r.seq ∉ (p.mirror ++ p.mirrorLog ++ p.mirrorWait).map MirrorRec.seq)) i
      (mirrorHold i recs p s) := by
  have hok : ¬(recs = [] ∨ ((!mirrors p) = true ∧ (s.cst.peers.filter (fun q => mirrors q.2)).length ≥ 4)) := by
    rintro (h | ⟨h, hlen⟩)
    · exact hne h
    · obtain hm | hm := hroom
      · simp [hm] at h
      · omega
  rw [mirrorHold, if_neg hok]
  refine (movedIn_refl ?_).take
  rw [heldFor_peerMod, if_pos rfl, hp]
  rfl

/-- The partner then holds every record it was sent, and drops none (R400). -/
theorem mirrorHold_leaves {recs : List MirrorRec} (hp : tget s.cst.peers i = some p) (hne : recs ≠ [])
    (hroom : mirrors p = true ∨ (s.cst.peers.filter (fun q => mirrors q.2)).length < 4) :
    ∃ q, tget (mirrorHold i recs p s).cst.peers i = some q ∧ q.mirrorLog = p.mirrorLog
      ∧ (∀ r ∈ recs, r.seq ∈ (q.mirror ++ q.mirrorLog ++ q.mirrorWait).map MirrorRec.seq) ∧ ∀ r ∈ p.mirror, r ∈ q.mirror := by
  obtain ⟨a, b, q, hw, hq, hm, hl, hb⟩ := (mirrorHold_movedIn hp hne hroom).peer
  refine ⟨q, hq, hl, fun r hrec => ?_, fun r hr => hm ▸ List.mem_append_left a hr⟩
  rw [hm, hl, hb]
  by_cases hheld : r.seq ∈ (p.mirror ++ p.mirrorLog ++ p.mirrorWait).map MirrorRec.seq
  · obtain ⟨x, hx, hseq⟩ := List.mem_map.1 hheld
    refine List.mem_map.2 ⟨x, mem_moved hw ?_, hseq⟩
    rw [← List.append_assoc]
    exact List.mem_append_left _ hx
  · refine List.mem_map.2 ⟨r, mem_moved hw (List.mem_append_right _ (List.mem_append_right _ ?_)), rfl⟩
    exact List.mem_filter.2 ⟨hrec, decide_eq_true hheld⟩

theorem trimmed_eq {ckpt : Nat} {dead : List (Nat × Nat)} {r : MirrorRec} : trimmed ckpt dead r
    = (decide (r.seq ≤ ckpt) && (!r.source || dead.any (fun d => d.1 ≤ r.seq && r.seq ≤ d.2))) := by
  rw [trimmed]
  cases r.source with
  | false => simp
  | true => simp [Bool.and_comm]

theorem trimmed_iff {ckpt : Nat} {dead : List (Nat × Nat)} {r : MirrorRec} : trimmed ckpt dead r = true
    ↔ r.seq ≤ ckpt ∧ (r.source = true → dead.any (fun d => d.1 ≤ r.seq && r.seq ≤ d.2) = true) := by
  rw [trimmed_eq]
  cases r.source with
  | false => simp
  | true => simp

/-- The records that an MTRIM names go, and those that wait take their room. -/
theorem mtrimFrom_movedIn {ckpt : Nat} {dead : List (Nat × Nat)} (hp : tget s.cst.peers i = some p) (hr : bit p.roles 3 = true) :
    MovedIn (p.mirror.filter (fun r => !trimmed ckpt dead r)) (p.mirrorLog.filter (fun r => !trimmed ckpt dead r)) p.mirrorWait i
      (mtrimFrom i ckpt dead p s) := by
  rw [mtrimFrom, if_neg (by simp [hr])]
  refine inv_foldl (fun t q ht => ht.take) (movedIn_refl ?_)
  rw [heldFor_peerMod, if_pos rfl, hp]
  rfl

/-- Of the records that the partner held, those that an MTRIM names are gone, and no others (R400). -/
theorem mtrimFrom_leaves {ckpt : Nat} {dead : List (Nat × Nat)} (hp : tget s.cst.peers i = some p) (hr : bit p.roles 3 = true) :
    ∃ q, tget (mtrimFrom i ckpt dead p s).cst.peers i = some q ∧ q.mirrorLog = p.mirrorLog.filter (fun r => !trimmed ckpt dead r)
      ∧ (∀ r ∈ p.mirror, ¬trimmed ckpt dead r = true → r ∈ q.mirror)
      ∧ ∀ r ∈ q.mirror, r ∈ p.mirrorWait ∨ (r ∈ p.mirror ∧ ¬trimmed ckpt dead r = true) := by
  obtain ⟨a, b, q, hw, hq, hm, hl, -⟩ := (mtrimFrom_movedIn (ckpt := ckpt) (dead := dead) hp hr).peer
  refine ⟨q, hq, hl, fun r hin hkeep => ?_, fun r hin => ?_⟩
  · rw [hm]
    exact List.mem_append_left a (List.mem_filter.2 ⟨hin, by simpa using hkeep⟩)
  · obtain hin | hin := List.mem_append.1 (hm ▸ hin)
    · obtain ⟨hin, hkeep⟩ := List.mem_filter.1 hin
      exact .inr ⟨hin, by simpa using hkeep⟩
    · exact .inl (hw ▸ List.mem_append_left b hin)

theorem mirrorHold_frame {recs : List MirrorRec} : Frame [.cst, .outbox] s (mirrorHold i recs p s) :=
  frame_of_keeps (mirrorHold_keeps (by decide) keeps_refl)

end

/-! ## The owner (R309, R401) -/

section
variable {s : State}

/-- The owner's state with the records up to `seq` acknowledged, before shipping goes on. -/
def acknowledged (seq : Nat) (s : State) : State :=
  bagMod (fun b => { b with
    recs := b.recs.map (fun r => if r.seq ≤ seq && r.seq ≥ s.cst.mirrorFrom then { r with mirrored := true } else r) })
    (cstMod (fun c => { c with mirrorAck := max c.mirrorAck seq, mirrorPaused := false }) s)

theorem mackFrom_partner {seq : Nat} (hon : mirrorOn s = true) :
    mackFrom (mirrorPeer s) seq s = wakeFlush (shipRest (acknowledged seq s)) := if_neg (by simp [hon])

/-- Shipping and the FLUSHes that wait leave what an acknowledgement has set. -/
theorem shipped_leaves : (wakeFlush (shipRest s)).bag = s.bag ∧ shipState (wakeFlush (shipRest s)).cst = shipState s.cst := by
  rw [wakeFlush_bag, wakeFlush_keeps_self .cst rfl]
  exact ⟨shipRest_keeps (κ := 536870920) rfl keeps_refl .bag rfl, shipState_shipRest⟩

theorem shipState_inj {c d : Consort} (h : shipState c = shipState d) :
    c.mirrorFrom = d.mirrorFrom ∧ c.mirrorAck = d.mirrorAck ∧ c.mirrorPaused = d.mirrorPaused := by simpa [shipState] using h

theorem JournalGrown.after_deferMirror {b : Bag} {rs : List JRec} (h : JournalGrown b s) : JournalGrown b (deferMirror rs s) :=
  inv_foldl (fun _ _ ht => ht.after_deferAll) h

theorem shipState_deferMirror {rs : List JRec} : shipState (deferMirror rs s).cst = shipState s.cst :=
  inv_foldl (P := fun t => shipState t.cst = shipState s.cst) (fun _ _ ht => shipState_deferAll.trans ht) rfl

/-- The owner's state with the overdue records given up and shipping at rest, before the losses are reported. -/
def givenUp (s : State) : State :=
  cstMod (fun c => { c with mirrorPaused := true })
    (bagMod (fun b => { b with
      recs := b.recs.map (fun r => if r.seq ∈ (overdue s).map JRec.seq then { r with mirrorLost := true } else r) }) s)

theorem givenUp_record {r : JRec} (hr : r ∈ s.bag.recs) : ∃ q ∈ (givenUp s).bag.recs, q.seq = r.seq
    ∧ q.mirrorLost = (r.mirrorLost || decide (r.seq ∈ (overdue s).map JRec.seq)) := by
  refine ⟨_, List.mem_map.2 ⟨r, hr, rfl⟩, ?_⟩
  by_cases h : r.seq ∈ (overdue s).map JRec.seq
  · rw [if_pos h, decide_eq_true h, Bool.or_true]
    exact ⟨rfl, rfl⟩
  · rw [if_neg h, decide_eq_false h, Bool.or_false]
    exact ⟨rfl, rfl⟩

/-- The losses are deferred and latched, one event follows, and the FLUSHes that wait go on. -/
theorem mirrorTimeout_overdue (hon : mirrorOn s = true) (hne : overdue s ≠ []) : ∃ u ev,
    Keeps 192 (deferMirror (overdue s) (givenUp s)) u ∧ mirrorTimeout s = wakeFlush (raise .cst ev u)
      ∧ ev.code = 0x00F3 ∧ ev.sev = 1 := by
  refine ⟨blkFault (blkPage .cst 12) 1 0 (BitVec.ofNat 64 (mirrorPeer (deferMirror (overdue s) (givenUp s))))
    (deferMirror (overdue s) (givenUp s)), _, blkFault_keeps rfl keeps_refl, if_neg (by simp [hon, hne]), rfl, rfl⟩

/-- After a timeout shipping rests, the marks of the records that are given up stand, and the last event is the one it raised. -/
theorem mirrorTimeout_leaves (hon : mirrorOn s = true) (hne : overdue s ≠ []) : (mirrorTimeout s).cst.mirrorPaused = true
    ∧ JournalGrown (givenUp s).bag (mirrorTimeout s)
    ∧ ∃ ev, (mirrorTimeout s).chn.recent.getLast? = some ev ∧ ev.code = 0x00F3 ∧ ev.sev = 1 := by
  obtain ⟨u, ev, hk, hrow, hcode, hsev⟩ := mirrorTimeout_overdue hon hne
  obtain ⟨-, hlast, hev, hc, hs, -⟩ := raised_raise (b := .cst) (ev := ev) (s := u)
  have hcst : shipState (raise .cst ev u).cst = shipState (givenUp s).cst :=
    shipState_raise.trans ((congrArg shipState (hk .cst rfl)).trans shipState_deferMirror)
  have hgrown : JournalGrown (givenUp s).bag u := (journalGrown_refl.after_deferMirror).of_eq (hk .bag rfl)
  rw [hrow, wakeFlush_keeps_self .cst rfl]
  refine ⟨(shipState_inj hcst).2.2, hgrown.after_raise.of_eq wakeFlush_bag, hlast, ?_, hc.trans hcode, hs.trans hsev⟩
  rw [logsKept_wakeFlush.1]
  exact hev

end

/-! ## Consort's registers (R388, R389) -/

section
variable {s : State} {v : Word64} {p : Peer}

theorem regRow_open {b : Blk} {i off : Nat} {f : State → State} (h : pageOpen s b = true) : regRow b i off f s = f s := if_pos h

/-- The entry that a write of CST_PEER_CTL makes of an entry. -/
def peerWritten (v : Word64) (p : Peer) : Peer :=
  { p with domain := bits v.toNat 31 24, roles := bits v.toNat 19 16, enable := v.getLsbD 32 }

theorem peerCtl_enable (hen : (peerOf s (peerSel s)).enable = false) (hv : v.getLsbD 32 = true) :
    peerCtl v s = if fabricOn s then peerStart (peerSel s) (peerPut (peerSel s) (peerWritten v) s)
      else peerMod (peerSel s) (fun p => { p with state := 1 }) (peerPut (peerSel s) (peerWritten v) s) := by
  rw [peerCtl, if_neg (by simp [hen]), if_pos hv]
  rfl

theorem peerCtl_disable (hp : tget s.cst.peers (peerSel s) = some p) (hen : p.enable = true) (hv : v.getLsbD 32 = false) :
    peerCtl v s = peerStop (peerSel s) 0 (peerPut (peerSel s) (peerWritten v) s) := by
  have hv' := ne_true_of_eq_false hv
  rw [peerCtl, peerOf_of_tget hp, if_neg fun h => hv' h.2, if_neg hv', if_pos hen]
  rfl

/-- An enabled entry takes no other domain and no other roles (R388). -/
theorem peerCtl_changed (hen : (peerOf s (peerSel s)).enable = true) (hv : v.getLsbD 32 = true)
    (hne : bits v.toNat 31 24 ≠ (peerOf s (peerSel s)).domain ∨ bits v.toNat 19 16 ≠ (peerOf s (peerSel s)).roles) :
    peerCtl v s = regViolation3 .cst 12 0x138 s := by
  rw [peerCtl, if_pos ⟨hen, hv⟩, if_neg fun h => hne.elim (· h.1) (· h.2)]

/-- A connection that starts takes the next connection ID, and HELLO carries it where a port is up (R385). -/
theorem peerStart_leaves {i : Nat} (hp : tget s.cst.peers i = some p) :
    tget (peerStart i s).cst.peers i = some { p with state := 1, ownConn := s.cst.nextConn }
      ∧ (portsMask s ≠ 0 → (peerStart i s).outbox = s.outbox ++ [.fabricHello i s.cst.nextConn (shardId s) (portsMask s) false]) := by
  have hq : tget (newConn i (peerMod i (fun p => { p with state := 1 }) s)).cst.peers i
      = some { p with state := 1, ownConn := s.cst.nextConn } := by
    rw [newConn, tget_peerMod, cstMod_cst]
    dsimp only
    rw [tget_peerMod, hp]
    rfl
  refine ⟨?_, fun hports => ?_⟩
  · rw [peerStart, sendHello_keeps (κ := 8) rfl keeps_refl .cst rfl]
    exact hq
  · have hmask : portsMask (newConn i (peerMod i (fun p => { p with state := 1 }) s)) = portsMask s := portsMask_congr rfl
    rw [peerStart, sendHello, hmask, if_neg hports, peerOf_of_tget hq]
    rfl

/-- A peer entry that is disabled, with nothing on its way. -/
def Stopped (i : Nat) (c : Consort) : Prop :=
  ∃ q, tget c.peers i = some q ∧ q.enable = false ∧ q.state = 0 ∧ q.unacked = [] ∧ q.queued = []

/-- An event gives a disabled peer nothing (R399). -/
theorem Stopped.raise {i : Nat} {b : Blk} {ev : Ev} (h : Stopped i s.cst) : Stopped i (raise b ev s).cst := by
  refine raise_cst h fun c j hc => ?_
  obtain ⟨q, hq, hen, hstate, hun, hqu⟩ := hc
  have hgiven : given (stamped ev s) q = q := by simp [given, hstate]
  refine ⟨q, ?_, hen, hstate, hun, hqu⟩
  dsimp only
  rw [tget_tmod, hq]
  split
  · rw [Option.map_some, hgiven]
  · rfl

/-- What a closed connection leaves of its entry. -/
def entryCleared (p : Peer) : Peer :=
  { p with state := 0, unacked := [], outMsgs := [], queued := [], events := [], msgs := [], recvAhead := [] }

theorem peerStop_zero {i : Nat} : peerStop i 0 s
    = if (peerOf s i).state = 2 then fansDown i (raisePeer i 1 (peerMod i entryCleared (emit (.fabricClose i) s)))
      else peerMod i entryCleared s := rfl

theorem stopped_entryCleared {i : Nat} {t : State} (hp : tget s.cst.peers i = some p) (hen : p.enable = false) (ht : t.cst = s.cst) :
    Stopped i (peerMod i entryCleared t).cst := by
  refine ⟨entryCleared p, ?_, hen, rfl, rfl, rfl⟩
  rw [tget_peerMod, ht, hp, Option.map_some]

theorem raised_raisePeer {i sev : Nat} : Raised s (raisePeer i sev s) 0x00F2 sev := raised_raise (b := .cst)

/-- A connection that was up is closed with one event (R388). -/
theorem peerStop_leaves {i : Nat} (hp : tget s.cst.peers i = some p) (hen : p.enable = false) :
    Stopped i (peerStop i 0 s).cst ∧ (p.state = 2 → Raised s (peerStop i 0 s) 0x00F2 1) := by
  rw [peerStop_zero, peerOf_of_tget hp]
  split
  · refine ⟨?_, fun _ => ?_⟩
    · rw [fansDown_keeps (κ := 13196354134080) rfl keeps_refl .cst rfl]
      exact Stopped.raise (stopped_entryCleared hp hen rfl)
    · have hraised : Raised s (raisePeer i 1 (peerMod i entryCleared (emit (.fabricClose i) s))) 0x00F2 1 :=
        Raised.of_eq raised_raisePeer rfl rfl
      exact hraised.of_logsKept logsKept_fansDown
  · next hs => exact ⟨stopped_entryCleared hp hen rfl, fun h => absurd h hs⟩

/-- A write of CST_MIRROR that does not enable shipping leaves Consort as it is. -/
theorem mirrorWrite_cst (hv : v.getLsbD 16 = false) : (mirrorWrite v s).cst = s.cst := by
  simp only [mirrorWrite, hv, Bool.false_and, Bool.false_eq_true, if_false]
  exact wakeFlush_keeps_self .cst rfl

theorem mirrorStart_fresh {partner : Nat} (h : s.cst.mirrorLast ≠ some partner) :
    (mirrorStart partner s).cst.mirrorFrom = s.bag.nextSeq ∧ (mirrorStart partner s).cst.mirrorAck = 0 := by
  rw [mirrorStart, if_neg h]
  exact ⟨rfl, rfl⟩

/-- Shipping to a new partner begins with the next record (R400). -/
theorem mirrorWrite_starts (hv : v.getLsbD 16 = true) (hnew : mirrorOn s = false ∨ bits v.toNat 9 0 ≠ mirrorPeer s)
    (hlast : s.cst.mirrorLast ≠ some (bits v.toNat 9 0)) :
    (mirrorWrite v s).cst.mirrorFrom = s.bag.nextSeq ∧ (mirrorWrite v s).cst.mirrorAck = 0 := by
  have hstart : (v.getLsbD 16 && (!mirrorOn s || decide (bits v.toNat 9 0 ≠ mirrorPeer s))) = true := by
    obtain h | h := hnew
    · simp [hv, h]
    · simp [hv, h]
  simp only [mirrorWrite, hstart, if_true]
  obtain ⟨hfrom, hack, -⟩ := shipState_inj (shipped_leaves (s := mirrorStart (bits v.toNat 9 0) (regSet (reg .cst 12 0x140) _ s))).2
  rw [hfrom, hack]
  exact mirrorStart_fresh (s := regSet (reg .cst 12 0x140) _ s) hlast

theorem shard_ne_mpc {off : Nat} (h : off < 4096) : reg .cst 12 0x118 ≠ reg .mpc 0 off := by
  simp only [reg, pageReg, blkPage, blkPage0]
  omega

end

/-- Settles O57: the partner's records move in only one direction, an owner's marks outlast the reports that follow them, and each write of
a register is one change of its entry or a violation. -/
theorem mirrorRows : Obligations.MirrorRows := by
  unfold Obligations.MirrorRows
  refine ⟨fun s peer recs p hf hp hen hs hr hne hroom hfetch => ?_, fun s peer recs p f hf hp hen hs hfetch => ?_,
    fun s peer seq p hf hp hen hs hon hpeer => ?_, fun s peer first last p hf hp hen hs hr hq hu hlen => ?_,
    fun s peer ckpt dead p hf hp hen hs hr hdead => ?_, fun s hon hne => ?_, fun s v hpage hen hv => ?_,
    fun s v p hpage hp hen hv => ?_, fun s v hpage hen hv hne => ?_, fun s v hpage => ?_, fun s v hpage hsub => ?_,
    fun s v x hpage hx hsub hne => ?_⟩
  · have hrow : exec (.mrec peer recs) s = .next (msgFrom peer (mrecFrom peer recs) s) := rfl
    rw [msgFrom_connected hf hp hen hs, mrecFrom, hfetch] at hrow
    dsimp only at hrow
    rw [if_pos hr] at hrow
    obtain ⟨q, hq, hlog, hheld, hmirror⟩ := mirrorHold_leaves hp hne hroom
    exact ⟨_, q, hrow, hq, hlog, hheld, hmirror, mirrorHold_frame⟩
  · have hrow : exec (.mrec peer recs) s = .next (msgFrom peer (mrecFrom peer recs) s) := rfl
    rw [hrow, msgFrom_connected hf hp hen hs, mrecFrom, hfetch]
    rfl
  · subst hpeer
    have hrow : exec (.mack (mirrorPeer s) seq) s
        = .next (drainAll (msgFrom (mirrorPeer s) (fun _ s => mackFrom (mirrorPeer s) seq s) s)) := rfl
    rw [msgFrom_connected hf hp hen hs, mackFrom_partner hon] at hrow
    obtain ⟨hbag, hship⟩ := shipped_leaves (s := acknowledged seq s)
    obtain ⟨-, hack, hpaused⟩ := shipState_inj hship
    refine ⟨_, hrow, hack, hpaused, hbag.trans ?_⟩
    simp [acknowledged]
  · have hrow : exec (.mfetch peer first last) s = .next (msgFrom peer (mfetchFrom peer first last) s) := rfl
    rw [msgFrom_connected hf hp hen hs, mfetchFrom, if_neg (by simp [hr])] at hrow
    exact ⟨_, _, hrow, sendMsg_outbox hp hq hu hs hlen, frame_of_keeps (sendMsg_keeps (by decide) keeps_refl)⟩
  · have hrow : exec (.mtrim peer ckpt dead) s = .next (msgFrom peer (mtrimFrom peer ckpt (dead.take 65536)) s) := rfl
    rw [msgFrom_connected hf hp hen hs, List.take_of_length_le hdead] at hrow
    obtain ⟨q, hq, hlog, hkept, hfrom⟩ := mtrimFrom_leaves (ckpt := ckpt) (dead := dead) hp hr
    refine ⟨_, q, hrow, hq, ?_, fun r hr hn => hkept r hr fun h => hn (trimmed_iff.1 h), fun r hr => ?_⟩
    · simp only [hlog, trimmed_eq]
    · exact (hfrom r hr).imp_right fun h => ⟨h.1, fun ht => h.2 (trimmed_iff.2 ht)⟩
  · obtain ⟨hpaused, hgrown, ev, hlast, hcode, hsev⟩ := mirrorTimeout_leaves hon hne
    refine ⟨mirrorTimeout s, ev, rfl, hpaused, fun r hr => ?_, hlast, hcode, hsev⟩
    obtain ⟨r', hr', hseq, hlost⟩ := givenUp_record hr
    exact ⟨r', hgrown.mem hr', hseq, hlost⟩
  · have hrow : exec (.cstPeerCtlWrite v) s = .next (drainAll (regRow .cst 12 0x138 (peerCtl v) s)) := rfl
    rw [regRow_open hpage, peerCtl_enable hen hv] at hrow
    have hput : tget (peerPut (peerSel s) (peerWritten v) s).cst.peers (peerSel s) = some (peerWritten v (peerOf s (peerSel s))) :=
      tget_peerPut
    by_cases hon : fabricOn s = true
    · rw [if_pos hon] at hrow
      obtain ⟨hq, hhello⟩ := peerStart_leaves hput
      exact ⟨_, _, hrow, hq, hv, rfl, rfl, rfl, fun _ => rfl, fun _ hports => hhello hports⟩
    · rw [if_neg hon] at hrow
      refine ⟨_, { peerWritten v (peerOf s (peerSel s)) with state := 1 }, hrow, ?_, hv, rfl, rfl, rfl, fun h => absurd h hon,
        fun h => absurd h hon⟩
      rw [tget_peerMod, hput]
      rfl
  · have hrow : exec (.cstPeerCtlWrite v) s = .next (drainAll (regRow .cst 12 0x138 (peerCtl v) s)) := rfl
    rw [regRow_open hpage, peerCtl_disable hp hen hv] at hrow
    have hput : tget (peerPut (peerSel s) (peerWritten v) s).cst.peers (peerSel s) = some (peerWritten v p) :=
      peerOf_of_tget hp ▸ tget_peerPut
    obtain ⟨⟨q, hq, hqen, hqstate, hqun, hqqu⟩, hraised⟩ := peerStop_leaves hput hv
    exact ⟨_, q, hrow, hq, hqen, hqstate, hqun, hqqu, fun h => (hraised h).of_eq rfl rfl⟩
  · have hrow : exec (.cstPeerCtlWrite v) s = .next (drainAll (regRow .cst 12 0x138 (peerCtl v) s)) := rfl
    rw [regRow_open hpage, peerCtl_changed hen hv hne, regViolation3] at hrow
    exact ⟨_, hrow, raise_ports.trans (congrArg Consort.ports (violated_keeps .cst rfl)), raised_violation⟩
  · have hrow : exec (.cstMirrorWrite v) s = .next (drainAll (regRow .cst 12 0x140 (mirrorWrite v) s)) := rfl
    rw [regRow_open hpage] at hrow
    exact ⟨_, hrow, mirrorWrite_starts, mirrorWrite_cst⟩
  · have hrow : exec (.cstShardWrite v) s = .next (regRow .cst 12 0x118 (shardWrite v) s) := rfl
    have hnone : s.cmds.any (fun x => x.sub.isSome) = false := List.any_eq_false.2 fun x hx => by simp [hsub x hx]
    rw [regRow_open hpage, shardWrite, hnone, Bool.and_false, if_neg Bool.false_ne_true] at hrow
    exact ⟨_, hrow, regGet_regSet_same, frame_of_keeps (regSet_keeps (by decide) keeps_refl)⟩
  · have hrow : exec (.cstShardWrite v) s = .next (regRow .cst 12 0x118 (shardWrite v) s) := rfl
    have hsome : s.cmds.any (fun x => x.sub.isSome) = true :=
      List.any_eq_true.2 ⟨x, hx, Option.isSome_iff_ne_none.2 hsub⟩
    rw [regRow_open hpage, shardWrite, hsome, Bool.and_true] at hrow
    rw [if_pos (decide_eq_true hne), regViolation3] at hrow
    exact ⟨_, hrow, regGet_violation (fun _ => shard_ne_mpc) (by decide), raised_violation⟩

end Sys2Proof.Machine

/-! SUPPORT. The repair of collection data waits while the hold-up bank is below its threshold (R30, R319, R427). -/
namespace Sys2Proof.Machine

theorem drainAll_bag {s : State} : (drainAll s).bag = s.bag := eventDrainFrame s .bag (by decide)

/-- Below the bank's threshold the module's own records wait, unless the journal is written through to flash (R30). -/
theorem ownFits_of_low {s : State} {n : Nat} (hlow : s.bag.nowMj < 2000) (hsram : s.bag.writeThrough = false) :
    ownFits s n = false := by
  simp [ownFits, journalOpen, hsram, Nat.not_le.2 hlow]

/-- A poisoned word is not repaired while Drone may write no record. -/
theorem dataRepaired_of_not_ownFits {s : State} {h slot addr media : Nat} {w : DataWord} {copyOk : Bool}
    (hfits : ownFits s 4096 = false) : dataRepaired h slot w addr media copyOk s = s := by
  unfold dataRepaired
  split
  · rw [if_pos (by simp [hfits])]
  · rfl

/-- An entry that has no source to encode again: its code cannot be rebuilt (Table 17.2). -/
def sourcelessEntry : Entry :=
  { slot := 0, record := { vid := 7, tenant := 0, flags := 0, a0 := 0, a1 := 0, a2 := 0, a3 := 0, labels := 0, ts := 0 }
    code := 0, encNext := false, version := 0, src := .lost, seq := 1, queue := 0, tag := 0, at_ := 0 }

/-- A collection that holds this entry alone, in its side list. -/
def sourcelessColl : Coll :=
  let c := collOf State.reset [] 0 0xFFFF
  { c with entries := [(0, sourcelessEntry)], arr := { c.arr with side := [0] }, posted := 1, journaled := 1 }

/-- The word of its code. -/
def poisonedCode : Poison := { coll := 0, slot := 0, word := .code, node := false, bulk := false, chan := 0, addr := 64 }

/-- The module at READY with that word poisoned, while the hold-up bank recharges: it holds 1,999 mJ of the 2,000 that it needs. -/
def rechargingState : State :=
  { readyState with
    bag := { readyState.bag with nextSeq := 2, nowMj := 1999 }
    colls := [(0, sourcelessColl)]
    poison := [poisonedCode] }

/-- Refutes O46: its last clause has the module lose an entry under a DELETE record of its own wherever Bag works and the record has
space, but no record is written while the hold-up bank is below its threshold (R30, R319), and the repair waits. -/
theorem not_tierRows : ¬ Obligations.TierRows := by
  unfold Obligations.TierRows
  rintro ⟨-, -, -, -, -, -, -, -, -, hlost⟩
  obtain ⟨t, k, q, rest, ht, -, -, -, -, -, hrecs, -⟩ := hlost rechargingState 0 0 64 0 .code poisonedCode sourcelessColl sourcelessEntry
    (.inl rfl) rfl rfl (by decide) (by decide) rfl rfl
  have hrow : exec (.dataRepaired 0 0 .code 64 0 false) rechargingState
      = .next (drainAll (dataRepaired 0 0 .code 64 0 false rechargingState)) := rfl
  rw [dataRepaired_of_not_ownFits (ownFits_of_low (by decide) rfl)] at hrow
  have hdrained : drainAll rechargingState = drainAll t := Host.Outcome.next.inj (hrow.symm.trans ht)
  have hbag : rechargingState.bag = t.bag := by rw [← drainAll_bag, hdrained, drainAll_bag]
  have hnone : rechargingState.bag.recs = rechargingState.bag.recs ++ q :: rest := (congrArg Bag.recs hbag).trans hrecs
  exact List.cons_ne_nil _ _ (List.self_eq_append_right.1 hnone)

end Sys2Proof.Machine

/-! SUPPORT. The step: the command at the front of the queue, and the invariant it keeps (R72, R98, R405). -/
namespace Sys2Proof.Machine

/-- Each command keeps the invariant, by its own lemma of Laws/Keeps. -/
theorem exec_inv {i : Instr} {s : State} (hs : Inv s) : OutInv Inv (exec i s) := by
  cases i
  case commit => exact execCommit_inv hs
  case cqHeadWrite => exact execCqHeadWrite_inv hs
  case evrHeadWrite => exact execEvrHeadWrite_inv hs
  case ringContextWord0Write => exact execRingContextWord0Write_inv hs
  case ringContextWord1Write => exact execRingContextWord1Write_inv hs
  case ringZeroingDone => exact execRingZeroingDone_inv hs
  case portEnableWrite => exact execPortEnableWrite_inv hs
  case blkErrClear => exact execBlkErrClear_inv hs
  case boreDebugWrite => exact execBoreDebugWrite_inv hs
  case crkBootLenWrite => exact execCrkBootLenWrite_inv hs
  case wwyLedgerSelWrite => exact execWwyLedgerSelWrite_inv hs
  case blwCalSelWrite => exact execBlwCalSelWrite_inv hs
  case blwOfsTrimWrite => exact execBlwOfsTrimWrite_inv hs
  case blwOfsTapWrite => exact execBlwOfsTapWrite_inv hs
  case registerWrite => exact execRegisterWrite_inv hs
  case startDecision => exact execStartDecision_inv hs
  case refusalScan => exact execRefusalScan_inv hs
  case completionPost => exact execCompletionPost_inv hs
  case coalesceTimerExpiry => exact execCoalesceTimerExpiry_inv hs
  case msixUnmask => exact execMsixUnmask_inv hs
  case nop => exact execNop_inv hs
  case flush => exact execFlush_inv hs
  case barrier => exact execBarrier_inv hs
  case collCreate => exact execCollCreate_inv hs
  case collDrop => exact execCollDrop_inv hs
  case collQuery => exact execCollQuery_inv hs
  case collConfigPlacement => exact execCollConfigPlacement_inv hs
  case collConfigIndexKind => exact execCollConfigIndexKind_inv hs
  case collConfigGrant => exact execCollConfigGrant_inv hs
  case collConfigRevoke => exact execCollConfigRevoke_inv hs
  case insert => exact execInsert_inv hs
  case insertBatch => exact execInsertBatch_inv hs
  case delete => exact execDelete_inv hs
  case upsert => exact execUpsert_inv hs
  case lookup => exact execLookup_inv hs
  case setAttr => exact execSetAttr_inv hs
  case journalWrite => exact execJournalWrite_inv hs
  case searchFlat => exact execSearchFlat_inv hs
  case searchGraph => exact execSearchGraph_inv hs
  case searchFanout => exact execSearchFanout_inv hs
  case searchBatch => exact execSearchBatch_inv hs
  case rerank => exact execRerank_inv hs
  case encode => exact execEncode_inv hs
  case progLoadLoad => exact execProgLoadLoad_inv hs
  case progLoadRetire => exact execProgLoadRetire_inv hs
  case tableLoad => exact execTableLoad_inv hs
  case tableSwap => exact execTableSwap_inv hs
  case consolidateFold => exact execConsolidateFold_inv hs
  case consolidateCompact => exact execConsolidateCompact_inv hs
  case consolidateSet => exact execConsolidateSet_inv hs
  case consolidateReport => exact execConsolidateReport_inv hs
  case reencode => exact execReencode_inv hs
  case checkpointNow => exact execCheckpointNow_inv hs
  case checkpointSetInterval => exact execCheckpointSetInterval_inv hs
  case exportCmd => exact execExportCmd_inv hs
  case importCmd => exact execImportCmd_inv hs
  case xlatInvalidate => exact execXlatInvalidate_inv hs
  case regionRegister => exact execRegionRegister_inv hs
  case regionRelease => exact execRegionRelease_inv hs
  case readDeferred => exact execReadDeferred_inv hs
  case readLog => exact execReadLog_inv hs
  case domainCreate => exact execDomainCreate_inv hs
  case domainDestroy => exact execDomainDestroy_inv hs
  case queueCreate => exact execQueueCreate_inv hs
  case queueDestroy => exact execQueueDestroy_inv hs
  case cqCreate => exact execCqCreate_inv hs
  case cqDestroy => exact execCqDestroy_inv hs
  case cqEnable => exact execCqEnable_inv hs
  case classConfig => exact execClassConfig_inv hs
  case abort => exact execAbort_inv hs
  case adminSetTime => exact execAdminSetTime_inv hs
  case queryLimits => exact execQueryLimits_inv hs
  case keyLoad => exact execKeyLoad_inv hs
  case keyClear => exact execKeyClear_inv hs
  case fabricKey => exact execFabricKey_inv hs
  case accountRead => exact execAccountRead_inv hs
  case securityState => exact execSecurityState_inv hs
  case slideIssue => exact execSlideIssue_inv hs
  case transferLanded => exact execTransferLanded_inv hs
  case blockListPieceArrival => exact execBlockListPieceArrival_inv hs
  case streamDeadlock => exact execStreamDeadlock_inv hs
  case resourceWaitTimeout => exact execResourceWaitTimeout_inv hs
  case scanBlockScored => exact execScanBlockScored_inv hs
  case localListHandover => exact execLocalListHandover_inv hs
  case valveMerge => exact execValveMerge_inv hs
  case spillReduction => exact execSpillReduction_inv hs
  case walkRoundCommit => exact execWalkRoundCommit_inv hs
  case deadlineCut => exact execDeadlineCut_inv hs
  case contextMoved => exact execContextMoved_inv hs
  case boreRegionDrained => exact execBoreRegionDrained_inv hs
  case splitCombine => exact execSplitCombine_inv hs
  case accParityError => exact execAccParityError_inv hs
  case columnSpared => exact execColumnSpared_inv hs
  case barrierAcknowledged => exact execBarrierAcknowledged_inv hs
  case foldStart => exact execFoldStart_inv hs
  case foldAgeExpiry => exact execFoldAgeExpiry_inv hs
  case foldCommit => exact execFoldCommit_inv hs
  case slotRelease => exact execSlotRelease_inv hs
  case patchApply => exact execPatchApply_inv hs
  case compactionTrigger => exact execCompactionTrigger_inv hs
  case tombstoneSettlement => exact execTombstoneSettlement_inv hs
  case reencodeStep => exact execReencodeStep_inv hs
  case reencodeDone => exact execReencodeDone_inv hs
  case repartition => exact execRepartition_inv hs
  case indexBuild => exact execIndexBuild_inv hs
  case autoEvaluation => exact execAutoEvaluation_inv hs
  case dataRepaired => exact execDataRepaired_inv hs
  case tablePaused => exact execTablePaused_inv hs
  case tableResumed => exact execTableResumed_inv hs
  case tierUe => exact execTierUe_inv hs
  case tierScrub => exact execTierScrub_inv hs
  case rowRepaired => exact execRowRepaired_inv hs
  case unitSelfTest => exact execUnitSelfTest_inv hs
  case unitRetired => exact execUnitRetired_inv hs
  case unitHang => exact execUnitHang_inv hs
  case unitReturn => exact execUnitReturn_inv hs
  case unitSleep => exact execUnitSleep_inv hs
  case unitWake => exact execUnitWake_inv hs
  case monitorSample => exact execMonitorSample_inv hs
  case floorWindow => exact execFloorWindow_inv hs
  case floorLost => exact execFloorLost_inv hs
  case floorRestored => exact execFloorRestored_inv hs
  case paceWear => exact execPaceWear_inv hs
  case phaseSpared => exact execPhaseSpared_inv hs
  case powerSample => exact execPowerSample_inv hs
  case powerPeak => exact execPowerPeak_inv hs
  case temperatureSample => exact execTemperatureSample_inv hs
  case coolantValveUpdate => exact execCoolantValveUpdate_inv hs
  case blwFloorWrite => exact execBlwFloorWrite_inv hs
  case blwCapWrite => exact execBlwCapWrite_inv hs
  case blwVtargetWrite => exact execBlwVtargetWrite_inv hs
  case blwGuardWrite => exact execBlwGuardWrite_inv hs
  case ucalSave => exact execUcalSave_inv hs
  case ucalSaveDone => exact execUcalSaveDone_inv hs
  case ucalFactory => exact execUcalFactory_inv hs
  case stripeProgrammed => exact execStripeProgrammed_inv hs
  case drainTimeout => exact execDrainTimeout_inv hs
  case journalPoison => exact execJournalPoison_inv hs
  case checkpointTimer => exact execCheckpointTimer_inv hs
  case checkpointDone => exact execCheckpointDone_inv hs
  case logCleaning => exact execLogCleaning_inv hs
  case flashScrub => exact execFlashScrub_inv hs
  case memberFailed => exact execMemberFailed_inv hs
  case rebuildDone => exact execRebuildDone_inv hs
  case stripeLost => exact execStripeLost_inv hs
  case holdupMeasurement => exact execHoldupMeasurement_inv hs
  case holdupChargeTimeout => exact execHoldupChargeTimeout_inv hs
  case holdupThresholdReached => exact execHoldupThresholdReached_inv hs
  case powerLoss => exact execPowerLoss_inv hs
  case dumpSealed => exact execDumpSealed_inv hs
  case pwrfailAssert => exact execPwrfailAssert_inv hs
  case overvoltage => exact execOvervoltage_inv hs
  case mateBreak => exact execMateBreak_inv hs
  case inputSwitchClose => exact execInputSwitchClose_inv hs
  case coldStart => exact execColdStart_inv hs
  case restartAfterSeal => exact execRestartAfterSeal_inv hs
  case warmReset => exact execWarmReset_inv hs
  case perstBeforeReady => exact execPerstBeforeReady_inv hs
  case functionLevelReset => exact execFunctionLevelReset_inv hs
  case resetReportPost => exact execResetReportPost_inv hs
  case linkChanged => exact execLinkChanged_inv hs
  case fatalError => exact execFatalError_inv hs
  case atsTranslationCompletion => exact execAtsTranslationCompletion_inv hs
  case pageRequestResponse => exact execPageRequestResponse_inv hs
  case pageRequestTimeout => exact execPageRequestTimeout_inv hs
  case regionTableReadDone => exact execRegionTableReadDone_inv hs
  case atsInvalidateRequest => exact execAtsInvalidateRequest_inv hs
  case invalidationDrained => exact execInvalidationDrained_inv hs
  case atsEnableCleared => exact execAtsEnableCleared_inv hs
  case laneSpared => exact execLaneSpared_inv hs
  case cablePresenceChange => exact execCablePresenceChange_inv hs
  case portState => exact execPortState_inv hs
  case hello => exact execHello_inv hs
  case helloAck => exact execHelloAck_inv hs
  case close => exact execClose_inv hs
  case ack => exact execAck_inv hs
  case resendTimeout => exact execResendTimeout_inv hs
  case connectionDown => exact execConnectionDown_inv hs
  case helloRetry => exact execHelloRetry_inv hs
  case rateIncrease => exact execRateIncrease_inv hs
  case subq => exact execSubq_inv hs
  case subres => exact execSubres_inv hs
  case rcmd => exact execRcmd_inv hs
  case rcpl => exact execRcpl_inv hs
  case reject _ q _ n => exact execReject_inv (_q := q) (_nextSeq := n) hs
  case event => exact execEvent_inv hs
  case mrec => exact execMrec_inv hs
  case mack => exact execMack_inv hs
  case mfetch => exact execMfetch_inv hs
  case mtrim => exact execMtrim_inv hs
  case mirrorTimeout => exact execMirrorTimeout_inv hs
  case cstPeerCtlWrite => exact execCstPeerCtlWrite_inv hs
  case cstMirrorWrite => exact execCstMirrorWrite_inv hs
  case cstShardWrite => exact execCstShardWrite_inv hs
  case getState => exact execGetState_inv hs
  case off => exact execOff_inv hs
  case coldReset => exact execColdReset_inv hs
  case mgmtWarmReset => exact execMgmtWarmReset_inv hs
  case holdSet => exact execHoldSet_inv hs
  case holdClear => exact execHoldClear_inv hs
  case format => exact execFormat_inv hs
  case mgmtSetTime => exact execMgmtSetTime_inv hs
  case kekSet => exact execKekSet_inv hs
  case debugEnable => exact execDebugEnable_inv hs
  case firmwareUpdate => exact execFirmwareUpdate_inv hs
  case activateFirmware => exact execActivateFirmware_inv hs
  case spdmRequest => exact execSpdmRequest_inv hs
  case spdmSessionTimeout => exact execSpdmSessionTimeout_inv hs
  case registerRead => exact execRegisterRead_inv hs
  case urgTokenBucketFill => exact execUrgTokenBucketFill_inv hs
  case slideBucketFill => exact execSlideBucketFill_inv hs
  case checkpointWaitExpiry => exact execCheckpointWaitExpiry_inv hs
  case nodeReadArrival => exact execNodeReadArrival_inv hs
  case perstDeassert => exact execPerstDeassert_inv hs
  case managementControllerPowerUp => exact execManagementControllerPowerUp_inv hs
  case priEnableSet => exact execPriEnableSet_inv hs
  case mctpControl => exact execMctpControl_inv hs
  case pldmSetEventReceiver => exact execPldmSetEventReceiver_inv hs
  case addressResolutionRequest => exact execAddressResolutionRequest_inv hs
  case dataPacket _ _ port _ _ _ => exact execDataPacket_inv (_port := port) hs
  case ackDelayTimer => exact execAckDelayTimer_inv hs
  case mapSaveDone => exact execMapSaveDone_inv hs

/-- The command is taken from the queue before it runs, and the invariant does not speak of the queue. -/
theorem step_inv {s : State} (hs : Inv s) : OutInv Inv (step s) := by
  unfold step
  split
  · exact .next (inv_congr hs rfl rfl rfl rfl rfl)
  · exact exec_inv (inv_congr hs rfl rfl rfl rfl rfl)

/-- Settles O6. -/
theorem stepKeepsInvariant : Obligations.StepKeepsInvariant := by
  unfold Obligations.StepKeepsInvariant
  exact fun s t hs h => out_eq_next h (step_inv hs)

/-- Settles O1. -/
theorem stepTakesFront : Obligations.StepTakesFront := by
  unfold Obligations.StepTakesFront
  exact fun _ _ _ => rfl

/-- Settles O2. -/
theorem stepIdles : Obligations.StepIdles := by
  unfold Obligations.StepIdles
  intro s hnone
  unfold step
  split
  · rfl
  · next hsome => cases hnone.symm.trans hsome

/-- Settles O3. -/
theorem noWordSpellsACommand : Obligations.NoWordSpellsACommand := by
  unfold Obligations.NoWordSpellsACommand
  exact ⟨fun _ _ => rfl, fun _ _ _ => rfl⟩

/-- Settles O5. -/
theorem resetInvariant : Obligations.ResetInvariant := by
  unfold Obligations.ResetInvariant
  exact ⟨rfl, rfl, rfl, rfl, rfl⟩

end Sys2Proof.Machine

/-! SUPPORT. The module's writes of host buffers, byte by byte (R367). -/
namespace Sys2Proof.Machine

section
variable {w : Who} {va : Nat} {bs : List Byte} {s t : State}

/-- The write of pieces changes no byte outside them. -/
theorem memGet_writePieces_other {ps : List (Nat × Nat)} {b : Nat} (hb : ∀ p ∈ ps, b < p.1 ∨ p.1 + p.2 ≤ b) :
    memGet (writePieces ps bs s).hostMem b = memGet s.hostMem b := by
  induction ps generalizing bs s with
  | nil => rfl
  | cons p ps ih =>
    obtain ⟨a, n⟩ := p
    have ha : b < a ∨ a + n ≤ b := hb (a, n) (.head _)
    have hlen : (bs.take n).length ≤ n := List.length_take_le n bs
    rw [writePieces, ih (fun p hp => hb p (.tail _ hp)), memGet_memWrite_other (by omega)]

/-- The bytes of a piece written alone stand in it. -/
theorem memGet_writePieces_single {a n k : Nat} (hmem : memWf s.hostMem = true) (hk : k < n) (hlen : k < bs.length) :
    memGet (writePieces [(a, n)] bs s).hostMem (a + k) = bs.getD k 0 := by
  have htake : k < (bs.take n).length := by rw [List.length_take]; omega
  calc memGet (writePieces [(a, n)] bs s).hostMem (a + k)
      = memGet (memWrite s.hostMem a (bs.take n)) (a + k) := rfl
    _ = (bs.take n)[k] := memGet_memWrite_same hmem htake
    _ = bs.getD k 0 := by rw [List.getElem_take, List.getD_eq_getElem _ _ hlen]

/-- A write that goes through translates its whole range, then writes the pieces. -/
theorem writeDev_ok (hw : w.remote = none) (h : writeDev w va bs s = .ok () t) :
    ∃ ps v, xlatRange w true (rangePages va bs.length) va bs.length s = .ok ps v
      ∧ t = writePieces ps (keyed true w.dom va bs v) v := by
  simp only [writeDev, hw] at h
  split at h
  · cases h
  · obtain ⟨ps, v, hx, hv⟩ := andThen_eq_ok h
    exact ⟨ps, v, hx, (Res.ok.inj hv).2.symm⟩

/-- Translating a range writes no host memory, whatever it ends in. -/
theorem xlatRange_hostMem {write : Bool} {fuel n : Nat} :
    ResInv (fun v => v.hostMem = s.hostMem) (xlatRange w write fuel va n s) := by
  have hk : ResInv (Keeps 4194376 s) (xlatRange w write fuel va n s) := xlatRange_keeps rfl keeps_refl
  generalize xlatRange w write fuel va n s = r at hk
  cases hk with
  | ok h => exact .ok (h .hostMem rfl)
  | fail h => exact .fail (h .hostMem rfl)
  | wait h => exact .wait (h .hostMem rfl)

/-- A write that does not go through writes no host memory. -/
theorem writeDev_unfinished (hw : w.remote = none) :
    (∃ u, writeDev w va bs s = .ok () u) ∨ ResInv (fun v => v.hostMem = s.hostMem) (writeDev w va bs s) := by
  simp only [writeDev, hw]
  split
  · exact .inr (.fail rfl)
  · cases hx : xlatRange w true (rangePages va bs.length) va bs.length s with
    | ok ps v => exact .inl ⟨_, rfl⟩
    | fail n f v => exact .inr (.fail (res_fail hx xlatRange_hostMem))
    | wait v => exact .inr (.wait (res_wait hx xlatRange_hostMem))

end

/-- Settles O10: pieces are written one after the other, and only once the whole range has been translated. -/
theorem bufferWritten : Obligations.BufferWritten := by
  unfold Obligations.BufferWritten
  refine ⟨fun w va bs s t hmem hw h => ?_, fun w va st bs f s t hw h => ?_, fun w va bs s t hw h => ?_⟩
  · obtain ⟨ps, v, hx, rfl⟩ := writeDev_ok hw h
    have hv : v.hostMem = s.hostMem := res_ok hx xlatRange_hostMem
    refine ⟨ps, v, hx, fun b hb => ?_, fun a n hps k hk hlen => ?_⟩
    · rw [memGet_writePieces_other hb, hv]
    · rw [hps, memGet_writePieces_single (by rw [hv]; exact hmem) hk hlen]
  · obtain ⟨u, hu⟩ | hu := writeDev_unfinished (va := va) (bs := bs) (s := s) hw
    · cases hu.symm.trans h
    · exact res_fail h hu
  · obtain ⟨u, hu⟩ | hu := writeDev_unfinished (va := va) (bs := bs) (s := s) hw
    · cases hu.symm.trans h
    · exact res_wait h hu

end Sys2Proof.Machine

/-! SUPPORT. Fields of registers, and what raised events and drained records leave of Chanter and of the other parts. -/
namespace Sys2Proof.Machine

/-! ## Bits of a register -/

section
variable {s : State} {v w : Word64} {hi lo n i : Nat}

theorem testBit_bits : (bits n hi lo).testBit i = (decide (i < hi - lo + 1) && n.testBit (lo + i)) := by
  rw [bits, Nat.testBit_mod_two_pow, Nat.testBit_div_two_pow, Nat.add_comm lo i]

/-- Replacing the bits [hi:lo] of a word replaces those and no other. -/
theorem getLsbD_setBits (hhi : hi < 64) (hlo : lo ≤ hi) :
    (setBits w hi lo n).getLsbD i = if lo ≤ i ∧ i ≤ hi then n.testBit (i - lo) else w.getLsbD i := by
  have hmask : ∀ j, (BitVec.ofNat 64 ((2 ^ (hi - lo + 1) - 1) * 2 ^ lo)).getLsbD j
      = (decide (lo ≤ j) && decide (j ≤ hi)) := fun j => by
    rw [BitVec.getLsbD_ofNat, Nat.testBit_mul_two_pow, Nat.testBit_two_pow_sub_one]
    by_cases h1 : lo ≤ j
    · by_cases h2 : j ≤ hi
      · simp [h1, h2, show j < 64 by omega, show j - lo < hi - lo + 1 by omega]
      · simp [h1, h2, show ¬ j - lo < hi - lo + 1 by omega]
    · simp [h1]
  unfold setBits
  dsimp only
  rw [BitVec.getLsbD_or, BitVec.getLsbD_and, BitVec.getLsbD_and, BitVec.getLsbD_not, hmask, BitVec.getLsbD_ofNat,
    Nat.testBit_mul_two_pow]
  by_cases h : lo ≤ i ∧ i ≤ hi
  · obtain ⟨h1, h2⟩ := h
    simp [h1, h2, show i < 64 by omega]
  · rw [if_neg h]
    have hout : (decide (lo ≤ i) && decide (i ≤ hi)) = false := by simpa [Bool.and_eq_true] using h
    rw [hout]
    by_cases hi64 : i < 64
    · simp [hi64]
    · simp [hi64, BitVec.getLsbD_of_ge w i (by omega)]

theorem bits_setBits_same (hhi : hi < 64) (hlo : lo ≤ hi) (hn : n < 2 ^ (hi - lo + 1)) : bits (setBits w hi lo n).toNat hi lo = n := by
  refine Nat.eq_of_testBit_eq fun i => ?_
  rw [testBit_bits, BitVec.testBit_toNat, getLsbD_setBits hhi hlo]
  by_cases h : i < hi - lo + 1
  · rw [if_pos (by omega), Nat.add_sub_cancel_left, decide_eq_true h, Bool.true_and]
  · rw [decide_eq_false h, Bool.false_and,
      Nat.testBit_lt_two_pow (lt_of_lt_of_le hn (Nat.pow_le_pow_right (by decide) (by omega)))]

theorem regGet_regSet_other {o o' : Nat} (h : o' ≠ o) : regGet (regSet o v s) o' = regGet s o' := regGet_regSet.trans (if_neg h)

theorem regGet_regField_other {o o' : Nat} (h : o' ≠ o) : regGet (regField o hi lo n s) o' = regGet s o' := regGet_regSet_other h

/-- A field reads what was put in it. -/
theorem bits_regField_same {o : Nat} (hhi : hi < 64) (hlo : lo ≤ hi) (hn : n < 2 ^ (hi - lo + 1)) :
    bits (regGet (regField o hi lo n s) o).toNat hi lo = n := by
  rw [regField, regGet_regSet_same, bits_setBits_same hhi hlo hn]

theorem getLsbD_regField_same {o : Nat} (hhi : hi < 64) (hlo : lo ≤ hi) :
    (regGet (regField o hi lo n s) o).getLsbD i
      = if lo ≤ i ∧ i ≤ hi then n.testBit (i - lo) else (regGet s o).getLsbD i := by
  rw [regField, regGet_regSet_same, getLsbD_setBits hhi hlo]

theorem pageReg_ne {p off off' : Nat} (h : off ≠ off') : pageReg p off ≠ pageReg p off' := fun he => h (Nat.add_left_cancel he)

theorem regGet_regSet_page {p off off' : Nat} (h : off' ≠ off) :
    regGet (regSet (pageReg p off) v s) (pageReg p off') = regGet s (pageReg p off') := regGet_regSet_other (pageReg_ne h)

theorem regSet_frame {o : Nat} : Frame [.regs] s (regSet o v s) := frame_of_keeps (regSet_keeps (by decide) keeps_refl)

end

/-! ## Chanter -/

section
variable {s : State} {b : Blk} {ev : Ev}

/-- Of what Chanter holds, an event changes the logs, their count and the events held until ring 0 is enabled (R85, R434). -/
theorem raise_chn_logs : ∃ seq rec per held, (raise b ev s).chn
    = { s.chn with eventSeq := seq, recent := rec, persistent := per, heldEvents := held } := by
  obtain ⟨held, h⟩ := raise_chn (b := b) (ev := ev) (s := s)
  have hc := tellPldm_keeps (κ := 72) (ev := stamped ev s) rfl (latchEvent_keeps (ev := stamped ev s) rfl (keeps_refl
    (s₀ := logEvent (stamped ev s) { s with chn := { s.chn with eventSeq := s.chn.eventSeq + 1 } }))) .chn rfl
  rw [h, noted, hc, logEvent_chn]
  exact ⟨_, _, _, held, rfl⟩

theorem raise_mode : (raise b ev s).chn.mode = s.chn.mode := by
  obtain ⟨_, _, _, _, h⟩ := raise_chn_logs (b := b) (ev := ev) (s := s)
  rw [h]

end

end Sys2Proof.Machine

/-! SUPPORT. Registers that are written by name (R215, R359, R433, R502 to R505). -/
namespace Sys2Proof.Machine

section
variable {s : State} {v : Word64}

/-! ## MPC_BLK_CTL (R359, R502) -/

theorem portEnable_crook : (portEnable v s).crook.bootLocked = (v.getLsbD 0 || s.crook.bootLocked) := by
  rw [portEnable]
  split
  · next h => rw [h]; rfl
  · next h => rw [Bool.eq_false_of_not_eq_true h]; rfl

theorem portEnable_regs : (portEnable v s).regs = (regSet (reg .mpc 0 0x010) (v &&& 1) s).regs := by
  rw [portEnable]
  split <;> rfl

/-! ## BLK_ERR (R433) -/

variable {p : Nat}

/-- BLK_ERR with the bits that are written with 1 cleared. -/
def errAcked (p : Nat) (v : Word64) (s : State) : State := regSet (pageReg p 0x020) (regGet s (pageReg p 0x020) &&& ~~~v) s

/-- The registers once the latch is armed again: the address and the detail of a fault read zero. -/
def errArmed (p : Nat) (v : Word64) (s : State) : State := regSet (pageReg p 0x030) 0 (regSet (pageReg p 0x028) 0 (errAcked p v s))

/-- A latch is armed again once every bit that it holds has been written with 1; until then it waits for the bits that are left. -/
theorem blkErrClear_cases :
    tget s.latches p = none ∧ blkErrClear p v s = errAcked p v s
    ∨ ∃ w, tget s.latches p = some w ∧
      (w &&& ~~~v = 0 ∧ blkErrClear p v s = { errArmed p v s with latches := tdel s.latches p }
        ∨ w &&& ~~~v ≠ 0 ∧ blkErrClear p v s = { errAcked p v s with latches := tset s.latches p (w &&& ~~~v) }) := by
  have hl : ∀ {o x}, (regSet o x s).latches = s.latches := rfl
  unfold blkErrClear
  simp only [hl]
  cases hw : tget s.latches p with
  | none => exact .inl ⟨rfl, rfl⟩
  | some w =>
    refine .inr ⟨w, rfl, ?_⟩
    by_cases h0 : w &&& ~~~v = 0
    · exact .inl ⟨h0, if_pos h0⟩
    · exact .inr ⟨h0, if_neg h0⟩

theorem blkErrClear_regs : (blkErrClear p v s).regs = (errAcked p v s).regs ∨ (blkErrClear p v s).regs = (errArmed p v s).regs := by
  obtain ⟨-, h⟩ | ⟨w, -, ⟨-, h⟩ | ⟨-, h⟩⟩ := blkErrClear_cases (p := p) (v := v) (s := s) <;> rw [h]
  · exact .inl rfl
  · exact .inr rfl
  · exact .inl rfl

theorem regGet_errAcked : regGet (errAcked p v s) (pageReg p 0x020) = regGet s (pageReg p 0x020) &&& ~~~v := by
  rw [errAcked, regGet_regSet_same]

theorem regGet_errAcked_other {o : Nat} (h : o ≠ pageReg p 0x020) : regGet (errAcked p v s) o = regGet s o := by
  rw [errAcked, regGet_regSet_other h]

/-- BLK_ERR loses the bits that are written with 1, whatever becomes of the latch. -/
theorem regGet_blkErrClear : regGet (blkErrClear p v s) (pageReg p 0x020) = regGet s (pageReg p 0x020) &&& ~~~v := by
  obtain h | h := blkErrClear_regs (p := p) (v := v) (s := s) <;> rw [regGet_congr h]
  · exact regGet_errAcked
  · rw [errArmed, regGet_regSet_page (by decide), regGet_regSet_page (by decide), regGet_errAcked]

theorem regGet_blkErrClear_other {o : Nat} (h1 : o ≠ pageReg p 0x020) (h2 : o ≠ pageReg p 0x028) (h3 : o ≠ pageReg p 0x030) :
    regGet (blkErrClear p v s) o = regGet s o := by
  obtain h | h := blkErrClear_regs (p := p) (v := v) (s := s) <;> rw [regGet_congr h]
  · exact regGet_errAcked_other h1
  · rw [errArmed, regGet_regSet_other h3, regGet_regSet_other h2, regGet_errAcked_other h1]

theorem blkErrClear_armed {w : Word64} (h : tget s.latches p = some w) (hw : w &&& ~~~v = 0) :
    tget (blkErrClear p v s).latches p = none ∧ regGet (blkErrClear p v s) (pageReg p 0x028) = 0
      ∧ regGet (blkErrClear p v s) (pageReg p 0x030) = 0 := by
  obtain ⟨hn, -⟩ | ⟨w', hw', ⟨-, h'⟩ | ⟨hne, -⟩⟩ := blkErrClear_cases (p := p) (v := v) (s := s)
  · cases hn.symm.trans h
  · have hregs : (blkErrClear p v s).regs = (errArmed p v s).regs := by rw [h']
    refine ⟨by rw [h', tget_tdel, if_pos rfl], ?_, ?_⟩ <;> rw [regGet_congr hregs, errArmed]
    · rw [regGet_regSet_page (by decide), regGet_regSet_same]
    · rw [regGet_regSet_same]
  · exact absurd (Option.some.inj (h.symm.trans hw') ▸ hw) hne

theorem blkErrClear_waits {w : Word64} (h : tget s.latches p = some w) (hw : w &&& ~~~v ≠ 0) :
    tget (blkErrClear p v s).latches p = some (w &&& ~~~v)
      ∧ ∀ o, o ≠ pageReg p 0x020 → regGet (blkErrClear p v s) o = regGet s o := by
  obtain ⟨hn, -⟩ | ⟨w', hw', ⟨heq, -⟩ | ⟨-, h'⟩⟩ := blkErrClear_cases (p := p) (v := v) (s := s)
  · cases hn.symm.trans h
  · exact absurd heq (Option.some.inj (h.symm.trans hw') ▸ hw)
  · have hregs : (blkErrClear p v s).regs = (errAcked p v s).regs := by rw [h']
    refine ⟨?_, fun o ho => (regGet_congr hregs).trans (regGet_errAcked_other ho)⟩
    rw [h', Option.some.inj (h.symm.trans hw')]
    exact tget_tset_same

/-! ## CRK_BOOT_LEN (R504) -/

/-- A write of the boot region that is within the limits, overlaps no region and leaves every ring inside sets both registers. -/
theorem bootWrite_allowed {off base len : Nat} (hlock : s.crook.bootLocked = false) (hlen : len ≤ 2 ^ 40) (hend : base + len ≤ 2 ^ 48)
    (hfree : (((tget s.domains 0).map Domain.regions).getD []).any
      (fun r => len ≠ 0 && base < r.base + r.length && r.base < base + len) = false)
    (hrings : bootLeaves s (bootRegion s) { bootRegion s with base := base, length := len } = false) :
    bootWrite off base len s = regSet (reg .crk 0 0x108) (BitVec.ofNat 64 len) (regSet (reg .crk 0 0x100) (BitVec.ofNat 64 base) s) := by
  have hok : ¬(len > 2 ^ 40 ∨ base + len > 2 ^ 48 ∨ (((tget s.domains 0).map Domain.regions).getD []).any
      (fun r => len ≠ 0 && base < r.base + r.length && r.base < base + len) = true
      ∨ bootLeaves s (bootRegion s) { bootRegion s with base := base, length := len } = true) := by
    rw [hfree, hrings]
    rintro (h | h | h | h)
    · omega
    · omega
    · cases h
    · cases h
  exact (if_neg (by rw [hlock]; exact Bool.false_ne_true)).trans (if_neg hok)

end

/-- Settles O13: each row writes its own registers, and an open page lets it do so. -/
theorem portRegisterWrites : Obligations.PortRegisterWrites := by
  unfold Obligations.PortRegisterWrites
  refine ⟨fun v s => ?_, fun page v s b i hpage hopen => ?_, fun cluster v s hcluster hopen hdebug => ?_,
    fun v s hopen hlock hlen hend hfree hrings => ?_, fun v s hopen hledger => ?_, fun v s => ?_⟩
  · refine ⟨portEnable v s, rfl, (regGet_congr portEnable_regs).trans regGet_regSet_same, portEnable_crook,
      fun o ho => (regGet_congr portEnable_regs).trans (regGet_regSet_other ho), ?_⟩
    exact frame_of_keeps (portEnable_keeps (by decide) keeps_refl)
  · have hrow : exec (.blkErrClear page v) s = .next (blkErrClear page v s) := by
      rw [exec, execBlkErrClear, hpage]
      exact congrArg _ (if_pos hopen)
    exact ⟨_, hrow, regGet_blkErrClear, fun w => blkErrClear_armed, fun w => blkErrClear_waits,
      fun o => regGet_blkErrClear_other, frame_of_keeps (blkErrClear_keeps (by decide) keeps_refl)⟩
  · have hrow : exec (.boreDebugWrite cluster v) s = .next (regRow .bore (cluster % 32) 0x138 (boreDebug (cluster % 32) v) s) := rfl
    rw [regRow_open hopen, boreDebug, if_pos hdebug, Nat.mod_eq_of_lt hcluster] at hrow
    refine ⟨_, hrow, ?_, fun o ho => regGet_regSet_other ho, regSet_frame⟩
    rw [regGet_regSet_same]
    cases v.getLsbD 0 <;> rfl
  · have hrow : exec (.crkBootLenWrite v) s = .next (regRow .crk 0 0x108
        (fun s => bootWrite 0x108 (bootRegion s).base (bits v.toNat 40 21 * 2 ^ 21) s) s) := rfl
    rw [regRow_open hopen, bootWrite_allowed hlock hlen hend hfree hrings] at hrow
    refine ⟨_, hrow, regGet_regSet_same, fun o h1 h2 => (regGet_regSet_other h2).trans (regGet_regSet_other h1), ?_⟩
    exact frame_of_keeps (regSet_keeps (by decide) (regSet_keeps (by decide) keeps_refl))
  · have hrow : exec (.wwyLedgerSelWrite v) s = .next (regRow .wwy 0 0x140 (ledgerSel v) s) := rfl
    rw [regRow_open hopen, ledgerSel, if_pos hledger] at hrow
    exact ⟨_, hrow, regGet_regSet_same, fun o ho => regGet_regSet_other ho, regSet_frame⟩
  · exact ⟨_, rfl, regGet_regSet_same, fun o ho => regGet_regSet_other ho, regSet_frame⟩

end Sys2Proof.Machine

/-! SUPPORT. Power, temperature and the user calibration (R415, R417, R418, R422 to R424, R446, R456). -/
namespace Sys2Proof.Machine

section
variable {s : State}

theorem blw_ne {a b : Nat} (h : a ≠ b) : reg .blw 0 a ≠ reg .blw 0 b := pageReg_ne h

/-! ## Power (R415, R456) -/

/-- The state once a power sample has been entered in the registers. -/
def powerEntered (w mv : Nat) (s : State) : State :=
  regField (reg .blw 0 0x148) 63 48 (min w 65535) (blwMod (fun b => { b with inputCap := 33 * mv / 1000 }) s)

/-- The rails stand at the voltages that the floor needs. -/
def railsLow (s : State) : Bool :=
  (List.range 5).all (fun r => s.blw.rails.getD r 0 ≤ railStep s r (5 * railNeed s r (regFloor s) + 2 * railOfs s r))

theorem powerSample_eq {w mv : Nat} : powerSample w mv s = raiseCapped (blwMod (fun b =>
    if w > effCap (powerEntered w mv s) then { b with lowering := true, throttle := b.throttle || railsLow (powerEntered w mv s) }
    else if b.throttle then { b with throttle := false } else { b with lowering := false }) (powerEntered w mv s)) := rfl

theorem effCap_powerEntered {w mv : Nat} :
    effCap (powerEntered w mv s) = min (capReg s - s.blw.thermalCut) (33 * mv / 1000) := by
  have hcap : capReg (powerEntered w mv s) = capReg s := by
    rw [capReg, powerEntered, regGet_regField_other (blw_ne (by decide))]
    rfl
  rw [effCap, hcap]
  rfl

/-- POWER_CAPPED writes down when it was raised, and nothing else of Bellows. -/
theorem raiseCapped_blw : ∃ at_, (raiseCapped s).blw = { s.blw with cappedAt := at_ } := by
  unfold raiseCapped
  exact inv_ite (P := fun t => ∃ at_, t.blw = { s.blw with cappedAt := at_ }) ⟨s.blw.cappedAt, rfl⟩
    ⟨some s.now, raise_keeps_self .blw rfl⟩

theorem powerSample_over {w mv : Nat} (h : min (capReg s - s.blw.thermalCut) (33 * mv / 1000) < w) :
    ∃ at_, (powerSample w mv s).blw = { s.blw with
      inputCap := 33 * mv / 1000
      lowering := true
      throttle := s.blw.throttle || railsLow (powerEntered w mv s)
      cappedAt := at_ } := by
  rw [← effCap_powerEntered (w := w)] at h
  rw [powerSample_eq]
  obtain ⟨at_, hat⟩ := raiseCapped_blw (s := blwMod (fun b =>
    if w > effCap (powerEntered w mv s) then { b with lowering := true, throttle := b.throttle || railsLow (powerEntered w mv s) }
    else if b.throttle then { b with throttle := false } else { b with lowering := false }) (powerEntered w mv s))
  refine ⟨at_, hat.trans ?_⟩
  rw [blwMod]
  dsimp only
  rw [if_pos h]
  rfl

theorem powerSample_within {w mv : Nat} (h : w ≤ min (capReg s - s.blw.thermalCut) (33 * mv / 1000)) :
    ∃ at_, (powerSample w mv s).blw = { s.blw with
      inputCap := 33 * mv / 1000
      lowering := s.blw.throttle && s.blw.lowering
      throttle := false
      cappedAt := at_ } := by
  rw [← effCap_powerEntered (w := w)] at h
  rw [powerSample_eq]
  obtain ⟨at_, hat⟩ := raiseCapped_blw (s := blwMod (fun b =>
    if w > effCap (powerEntered w mv s) then { b with lowering := true, throttle := b.throttle || railsLow (powerEntered w mv s) }
    else if b.throttle then { b with throttle := false } else { b with lowering := false }) (powerEntered w mv s))
  refine ⟨at_, hat.trans ?_⟩
  have hblw : (powerEntered w mv s).blw = { s.blw with inputCap := 33 * mv / 1000 } := rfl
  rw [blwMod]
  dsimp only
  rw [if_neg (Nat.not_lt.2 h), hblw]
  cases s.blw.throttle <;> rfl

theorem powerPeak_eq {w ma : Nat} : exec (.powerPeak w ma) s = .next (if 1700 < w ∨ 40000 < ma then blwMod (fun b => { b with borePaused := true }) s
    else if w < 1600 then blwMod (fun b => { b with borePaused := false }) s else s) := rfl

/-! ## Temperature (R418, R446) -/

/-- The state once a temperature sample has been entered, and what is cut from the cap for it. -/
def heatEntered (die : Nat) (dieT : Int) (stack : Nat) (stackT : Int) (s : State) : State :=
  blwMod (fun b => { b with thermalCut := 50 * max (degreesOver 100 dieT) (degreesOver 90 stackT) })
    (regSet (reg .blw 0 0x150)
      (BitVec.ofNat 64 (die % 9 * 2 ^ 56 + unsigned 16 dieT * 2 ^ 40 + stack % 12 * 2 ^ 24 + unsigned 16 stackT * 2 ^ 8)) s)

/-- The temperatures of the die and of the stack before the sample. -/
def dieBefore (s : State) : Int := signed 16 (bits (regGet s (reg .blw 0 0x150)).toNat 55 40)
def stackBefore (s : State) : Int := signed 16 (bits (regGet s (reg .blw 0 0x150)).toNat 23 8)

/-- The state once each crossing of a limit has been reported. -/
def heatReported (die : Nat) (dieT : Int) (stack : Nat) (stackT : Int) (s : State) : State :=
  let u := heatEntered die dieT stack stackT s
  let u := if dieT > 1000 ∧ dieBefore s ≤ 1000 then raiseThermal 1 die dieT u else u
  if stackT > 900 ∧ stackBefore s ≤ 900 then raiseThermal 1 stack stackT u else u

theorem temperatureSample_eq {die stack us : Nat} {dieT stackT : Int} : temperatureSample die dieT stack stackT us s
    = if dieT ≥ 1100 ∧ us ≥ 1000 ∧ (heatReported die dieT stack stackT s).chn.mode ≠ .off
      then goOff (raiseThermal 3 die dieT (blwMod (fun b => { b with tripped := true }) (heatReported die dieT stack stackT s)))
      else heatReported die dieT stack stackT s := rfl

/-- THERMAL leaves the mode and Bellows as they are. -/
theorem raiseThermal_mode_blw {sev no : Nat} {x : Int} :
    (raiseThermal sev no x s).chn.mode = s.chn.mode ∧ (raiseThermal sev no x s).blw = s.blw := by
  have hb : Keeps 192 s (blkFault (blkPage .blw 0) 2 0 (BitVec.ofNat 64 no) s) := blkFault_keeps rfl keeps_refl
  exact ⟨raise_mode.trans (congrArg Chanter.mode (hb .chn rfl)), (raise_keeps_self .blw rfl).trans (hb .blw rfl)⟩

theorem heatReported_mode_blw {die stack : Nat} {dieT stackT : Int} :
    (heatReported die dieT stack stackT s).chn.mode = s.chn.mode
      ∧ (heatReported die dieT stack stackT s).blw = (heatEntered die dieT stack stackT s).blw := by
  have hrep : ∀ {c : Prop} [Decidable c] {sev no : Nat} {x : Int} {t : State},
      (if c then raiseThermal sev no x t else t).chn.mode = t.chn.mode ∧ (if c then raiseThermal sev no x t else t).blw = t.blw := by
    intro c _ sev no x t
    split
    · exact raiseThermal_mode_blw
    · exact ⟨rfl, rfl⟩
  unfold heatReported
  dsimp only
  exact ⟨hrep.1.trans hrep.1, hrep.2.trans hrep.2⟩

/-- A change of mode takes effect and leaves Bellows. -/
theorem setMode_mode {m : Mode} : (setMode m s).chn.mode = m := by
  unfold setMode
  split
  · next h => exact h
  · dsimp only
    rw [raise_mode]
    rfl

theorem goOff_of_on (h : s.chn.mode ≠ .off) :
    (goOff s).chn.mode = .off ∧ (goOff s).chn.losing = true ∧ (goOff s).blw = s.blw := by
  have hoff : goOff s = beginLoss (drainAll (setMode .off s)) := if_neg h
  have hblw : (drainAll (setMode .off s)).blw = s.blw :=
    (eventDrainFrame _ .blw (by decide)).trans (setMode_keeps (κ := 2684485704) rfl keeps_refl .blw rfl)
  have hlose : ∀ t, (beginLoss t).chn.mode = t.chn.mode ∧ (beginLoss t).chn.losing = true ∧ (beginLoss t).blw = t.blw :=
    fun _ => ⟨rfl, rfl, rfl⟩
  obtain ⟨hmode, hlosing, hsame⟩ := hlose (drainAll (setMode .off s))
  rw [hoff, hmode, drainAll_chn, setMode_mode, hsame, hblw]
  exact ⟨rfl, hlosing, rfl⟩

/-! ## Registers (R417, R424) -/

theorem capWrite_eq {v : Word64} : capWrite v s = blwMod (fun b =>
    { b with throttle := b.throttle || decide (clampNat 600 1450 (bits v.toNat 10 0) < capReg s) })
    (regField (reg .blw 0 0x108) 10 0 (clampNat 600 1450 (bits v.toNat 10 0)) s) := rfl

theorem clampNat_le {lo hi n : Nat} (h : lo ≤ hi) : clampNat lo hi n ≤ hi := by
  unfold clampNat
  split
  · exact h
  · split <;> omega

theorem capReg_blwMod {f : Bellows → Bellows} : capReg (blwMod f s) = capReg s := rfl

theorem capReg_capWrite {v : Word64} : capReg (capWrite v s) = clampNat 600 1450 (bits v.toNat 10 0) := by
  rw [capWrite_eq, capReg_blwMod, capReg,
    bits_regField_same (by decide) (by decide) (lt_of_le_of_lt (clampNat_le (by decide)) (by decide))]

/-! ## The user calibration (R422 to R424) -/

/-- The rails' user offsets as BLW_OFS_RAIL holds them. -/
def railWord (u : UCal) : Word64 :=
  BitVec.ofNat 64 ((List.range 5).foldl (fun a r => a + unsigned 8 (u.railOfs.getD r 0) * 256 ^ r) 0)

theorem regGet_blwMod {f : Bellows → Bellows} {o : Nat} : regGet (blwMod f s) o = regGet s o := rfl

theorem regGet_applyUCal {u : UCal} {o : Nat} : regGet (applyUCal u s) o
    = regGet (regSet (reg .blw 0 0x170) (railWord u) (regField (reg .blw 0 0x158) 29 16 u.idleUs
      (regField (reg .blw 0 0x158) 11 8 u.minAwake (regField (reg .blw 0 0x158) 0 0 (b2n u.sleepEn)
        (regField (reg .blw 0 0x110) 9 0 u.vtarget (regField (reg .blw 0 0x108) 10 0 u.cap (setGuard u.guard (setFloor u.floor s)))))))) o := by
  rw [applyUCal]
  dsimp only
  exact regGet_blwMod

/-- Of the registers that a calibration sets, sleep and the rails' offsets come last. -/
theorem regGet_applyUCal_other {u : UCal} {o : Nat} (h1 : o ≠ reg .blw 0 0x170) (h2 : o ≠ reg .blw 0 0x158) :
    regGet (applyUCal u s) o = regGet (regField (reg .blw 0 0x110) 9 0 u.vtarget (regField (reg .blw 0 0x108) 10 0 u.cap
      (setGuard u.guard (setFloor u.floor s)))) o := by
  rw [regGet_applyUCal, regGet_regSet_other h1, regGet_regField_other h2, regGet_regField_other h2, regGet_regField_other h2]

theorem applyUCal_values {u : UCal} (hcap : u.cap < 2 ^ 11) (hguard : u.guard < 2 ^ 8) (hv : u.vtarget < 2 ^ 10) :
    (applyUCal u s).blw.floorReg = u.floor ∧ capReg (applyUCal u s) = u.cap ∧ guardReg (applyUCal u s) = u.guard
      ∧ bits (regGet (applyUCal u s) (reg .blw 0 0x110)).toNat 9 0 = u.vtarget
      ∧ regGet (applyUCal u s) (reg .blw 0 0x170) = railWord u ∧ (applyUCal u s).blw.saved = s.blw.saved := by
  refine ⟨rfl, ?_, ?_, ?_, ?_, rfl⟩
  · rw [capReg, regGet_applyUCal_other (blw_ne (by decide)) (blw_ne (by decide)), regGet_regField_other (blw_ne (by decide)),
      bits_regField_same (by decide) (by decide) hcap]
  · rw [guardReg, regGet_applyUCal_other (blw_ne (by decide)) (blw_ne (by decide)), regGet_regField_other (blw_ne (by decide)),
      regGet_regField_other (blw_ne (by decide)), setGuard, bits_regField_same (by decide) (by decide) hguard]
  · rw [regGet_applyUCal_other (blw_ne (by decide)) (blw_ne (by decide)), bits_regField_same (by decide) (by decide) hv]
  · rw [regGet_applyUCal, regGet_regSet_same]

end

/-- Settles O49: each row is one change of Bellows and of its registers, and events leave both. -/
theorem powerRows : Obligations.PowerRows := by
  unfold Obligations.PowerRows
  refine ⟨fun s w mv h => ?_, fun s w mv h => ?_, fun s w ma h => ?_, fun s w ma hw hma => ?_,
    fun s die stack us dieT stackT h => ?_, fun s die stack us dieT stackT hT hus hon => ?_, fun s p => rfl,
    fun s v n hn => ?_, fun s v => rfl, fun s h => ?_, fun s u h => ?_, fun s u h => ?_, fun s h => ?_⟩
  · obtain ⟨at_, hblw⟩ := powerSample_over h
    refine ⟨powerSample w mv s, rfl, ?_, ?_, fun ht => ?_⟩ <;> rw [hblw]
    dsimp only
    rw [ht, Bool.true_or]
  · obtain ⟨at_, hblw⟩ := powerSample_within h
    refine ⟨powerSample w mv s, rfl, ?_, ?_, fun ht => ?_⟩ <;> rw [hblw]
    dsimp only
    rw [ht, Bool.false_and]
  · rw [powerPeak_eq, if_pos h]
    rfl
  · rw [powerPeak_eq, if_neg (by omega), if_pos hw]
    rfl
  · obtain ⟨hmode, hblw⟩ := heatReported_mode_blw (s := s) (die := die) (stack := stack) (dieT := dieT) (stackT := stackT)
    have heq : temperatureSample die dieT stack stackT us s = heatReported die dieT stack stackT s :=
      temperatureSample_eq.trans (if_neg (by omega))
    exact ⟨_, congrArg (fun t => Host.Outcome.next (drainAll t)) heq, hmode, hblw⟩
  · obtain ⟨hmode, -⟩ := heatReported_mode_blw (s := s) (die := die) (stack := stack) (dieT := dieT) (stackT := stackT)
    have heq := (temperatureSample_eq (s := s) (die := die) (stack := stack)).trans (if_pos ⟨hT, hus, by rw [hmode]; exact hon⟩)
    obtain ⟨hm, hb⟩ := raiseThermal_mode_blw (s := blwMod (fun b => { b with tripped := true }) (heatReported die dieT stack stackT s))
      (sev := 3) (no := die) (x := dieT)
    obtain ⟨hoff, hlose, hblw⟩ := goOff_of_on (hm.trans hmode ▸ hon)
    refine ⟨_, congrArg (fun t => Host.Outcome.next (drainAll t)) heq, hoff, ?_, hlose⟩
    rw [hblw, hb]
    rfl
  · subst hn
    refine ⟨capWrite v s, rfl, capReg_capWrite, fun h => ?_, fun h => ?_⟩ <;> rw [capWrite_eq]
    · exact (congrArg (s.blw.throttle || ·) (decide_eq_true h)).trans (Bool.or_true _)
    · have hsame : (s.blw.throttle || decide (clampNat 600 1450 (bits v.toNat 10 0) < capReg s)) = s.blw.throttle := by
        rw [decide_eq_false (Nat.not_lt.2 h), Bool.or_false]
      exact congrArg (fun b => { s.blw with throttle := b }) hsame
  · have hrow : exec .ucalSave s = .next (ucalSave s) := rfl
    rw [ucalSave, h, if_neg (by simp)] at hrow
    exact ⟨_, _, hrow, rfl, rfl, rfl, rfl, rfl, rfl⟩
  · have hrow : exec (.ucalSaveDone true) s = .next (ucalSaved true s) := rfl
    simp only [ucalSaved, h, if_true] at hrow
    refine ⟨_, hrow, rfl, ?_⟩
    rw [getLsbD_regField_same (by decide) (by decide)]
    rfl
  · have hrow : exec (.ucalSaveDone false) s = .next (ucalSaved false s) := rfl
    simp only [ucalSaved, h, Bool.false_eq_true, if_false] at hrow
    refine ⟨_, hrow, rfl, ?_⟩
    rw [getLsbD_regField_same (by decide) (by decide)]
    rfl
  · have hrow : exec .ucalFactory s = .next (ucalFactory s) := rfl
    rw [ucalFactory, h, if_neg (by simp)] at hrow
    exact ⟨_, hrow, applyUCal_values (u := ucalDefault) (by decide) (by decide) (by decide)⟩

end Sys2Proof.Machine

/-! SUPPORT. Ports and lanes: what a retired lane leaves, and how ports go up and down (R379 to R382, R437, R454). -/
namespace Sys2Proof.Machine

/-! ## What later work leaves of a retirement -/

/-- From `s` to `t` the repair map, the units that wait for admission or sleep, and the ports are the same; the epoch does not fall, and
a save of the map that waits still waits. -/
structure UnitsKept (s t : State) : Prop where
  map       : t.chn.map = s.chn.map
  pending   : s.chn.mapPending = true → t.chn.mapPending = true
  epoch     : s.chn.epoch ≤ t.chn.epoch
  returning : t.chn.returning = s.chn.returning
  asleep    : t.blw.asleep = s.blw.asleep
  ports     : t.cst.ports = s.cst.ports

section
variable {s t : State}

theorem UnitsKept.refl : UnitsKept s s := ⟨rfl, id, le_refl _, rfl, rfl, rfl⟩

theorem UnitsKept.trans {u : State} (h : UnitsKept s t) (h' : UnitsKept t u) : UnitsKept s u :=
  ⟨h'.map.trans h.map, h'.pending ∘ h.pending, h.epoch.trans h'.epoch, h'.returning.trans h.returning, h'.asleep.trans h.asleep,
    h'.ports.trans h.ports⟩

theorem unitsKept_of_same (hchn : t.chn = s.chn) (hblw : t.blw = s.blw) (hcst : t.cst = s.cst) : UnitsKept s t := by
  refine ⟨?_, ?_, ?_, ?_, ?_, ?_⟩ <;> simp [hchn, hblw, hcst]

theorem unitsKept_raise {b : Blk} {ev : Ev} : UnitsKept s (raise b ev s) := by
  obtain ⟨_, _, _, _, h⟩ := raise_chn_logs (b := b) (ev := ev) (s := s)
  refine ⟨?_, ?_, ?_, ?_, congrArg Bellows.asleep (raise_keeps_self .blw rfl), raise_ports⟩ <;> simp [h]

theorem unitsKept_blkFault {p n : Nat} {addr info : Word64} : UnitsKept s (blkFault p n addr info s) := by
  have h : Keeps 192 s (blkFault p n addr info s) := blkFault_keeps rfl keeps_refl
  exact unitsKept_of_same (h .chn rfl) (h .blw rfl) (h .cst rfl)

theorem unitsKept_setMode {m : Mode} : UnitsKept s (setMode m s) := by
  unfold setMode
  split
  · exact .refl
  · exact UnitsKept.trans (t := advanceEpoch { s with chn := { s.chn with prev := s.chn.mode, mode := m } })
      ⟨rfl, id, Nat.le_succ _, rfl, rfl, rfl⟩ unitsKept_raise

theorem unitsKept_finish {c : Nat} {f : Cmd → Cmd} : UnitsKept s (finish c f s) := ⟨rfl, id, le_refl _, rfl, rfl, rfl⟩

theorem unitsKept_failCmd {c status : Nat} {f : Option CmdFault} : UnitsKept s (failCmd c status f s) := by
  rw [failCmd]
  split
  · exact .refl
  · refine UnitsKept.trans ?_ unitsKept_finish
    cases f with
    | none => exact .refl
    | some g => exact unitsKept_blkFault

theorem unitsKept_stopDrone : UnitsKept s (stopDrone s) := by
  unfold stopDrone
  refine inv_foldl (P := UnitsKept s) (fun t p ht => ht.trans (UnitsKept.trans ?_ unitsKept_raise)) .refl
  have h : Keeps 75497472 t (endRun p.1 t) := endRun_keeps rfl keeps_refl
  exact unitsKept_of_same (h .chn rfl) (h .blw rfl) (h .cst rfl)

/-- The state with a HOLD cause set, before the module enters HOLD for it. -/
def holdCaused (cause kind : Nat) (s : State) : State :=
  { s with chn := { s.chn with
    causes := s.chn.causes ||| BitVec.ofNat 5 (2 ^ cause)
    holdKind := if cause = 0 ∧ !s.chn.causes.getLsbD 0 then kind else s.chn.holdKind
    mapPending := true } }

theorem enterHold_eq {cause kind : Nat} : enterHold cause kind s
    = (let u := stopDrone (setMode .hold (holdCaused cause kind s))
      if s.chn.mode = .full ∨ s.chn.mode = .spared then (u.cmds.filter holdStops).foldl (fun s x => failCmd x.id stHold none s) u
      else holdCaused cause kind s) := rfl

/-- The entry to HOLD retires nothing, and leaves the ports (R444). -/
theorem unitsKept_enterHold {cause kind : Nat} : UnitsKept s (enterHold cause kind s) := by
  refine UnitsKept.trans (t := holdCaused cause kind s) ⟨rfl, fun _ => rfl, le_refl _, rfl, rfl, rfl⟩ ?_
  rw [enterHold_eq]
  dsimp only
  split
  · exact inv_foldl (P := UnitsKept _) (fun t x ht => ht.trans unitsKept_failCmd) (unitsKept_setMode.trans unitsKept_stopDrone)
  · exact .refl

/-! ## Retired lanes (R380, R437) -/

variable {u : UnitId} {phys cause : Nat}

theorem Retired.of_unitsKept {v : State} (h : Retired s t u phys cause) (hk : UnitsKept t v) : Retired s v u phys cause := by
  obtain ⟨⟨e, hmap, he⟩, hpending, hepoch, hret, hasleep⟩ := h
  exact ⟨⟨e, hk.map.trans hmap, he⟩, hk.pending hpending, hepoch.trans_le hk.epoch, hk.returning ▸ hret, hk.asleep ▸ hasleep⟩

/-- Which spares are left and which serve is read off the repair map. -/
theorem spares_of_chn {s' : State} (h : s'.chn = s.chn) : (∀ k l, sparesLeft s' k l = sparesLeft s k l)
    ∧ (∀ k l, nextSpare s' k l = nextSpare s k l) ∧ (∀ k l, physicalOf s' k l = physicalOf s k l) ∧ ∀ u, unitGone s' u = unitGone s u := by
  have hused : ∀ k l, sparesUsed s' k l = sparesUsed s k l := fun k l => by
    rw [sparesUsed, sparesUsed, columnEntries, columnEntries, h]
  refine ⟨fun k l => ?_, fun k l => ?_, fun k l => ?_, fun u => ?_⟩
  · rw [sparesLeft, sparesLeft, hused]
  · simp only [nextSpare, hused]
  · rw [physicalOf, physicalOf, h]
  · rw [unitGone, unitGone, h]

theorem Retired.of_chn {s' : State} (h : Retired s' t u phys cause) (hc : s'.chn = s.chn) : Retired s t u phys cause := by
  obtain ⟨hleft, hnext, -, -⟩ := spares_of_chn hc
  unfold Retired at h ⊢
  rwa [hleft, hnext, hc] at h

/-- The entry of the repair map that a retirement makes. -/
def retiredEntry (u : UnitId) (phys cause : Nat) (s : State) : MapEntry :=
  { kind := u.kind, cause := cause, tower := unitTower u, physical := phys
    replacement := if sparesLeft s u.kind (mapLogical u) = 0 then 0xFFFF else nextSpare s u.kind (mapLogical u)
    logical := mapLogical u, timeS := s.now / 1000000000 }

/-- The state in which the map has the entry, before the registers show it. -/
def entered (u : UnitId) (phys cause : Nat) (s : State) : State :=
  { s with
    chn := { s.chn with
      map := (s.chn.map ++ [retiredEntry u phys cause s]).take 1019, mapPending := true
      returning := s.chn.returning.filter (· ≠ u) }
    blw := { s.blw with asleep := s.blw.asleep.filter (· ≠ u), worn := s.blw.worn.filter (fun p => p.1 ≠ u) } }

/-- A unit that is known and in service is entered in the map; then its spare takes over, or HOLD begins. -/
theorem retireUnit_serving (hknown : unitKnown u = true) (hserves : unitGone s u = false) : ∃ ev, retireUnit u phys cause s
    = (let v := raise .chn ev (advanceEpoch (moveWork u (unitInfo u phys cause)
        (applyMapEntry (retiredEntry u phys cause s) (entered u phys cause s))))
      if sparesLeft s u.kind (mapLogical u) = 0 then noSpare u v else if v.chn.mode = .full then setMode .spared v else v) :=
  ⟨_, if_neg (by simp [hknown, hserves])⟩

theorem retired_advanceEpoch_entered {v : State} (hv : UnitsKept (entered u phys cause s) v) :
    Retired s (advanceEpoch v) u phys cause :=
  ⟨⟨_, hv.map, rfl, rfl, rfl, rfl, rfl⟩, hv.pending rfl, Nat.lt_succ_of_le hv.epoch,
    by rw [show (advanceEpoch v).chn.returning = _ from hv.returning]; simp [entered],
    by rw [show (advanceEpoch v).blw.asleep = _ from hv.asleep]; simp [entered]⟩

/-- A lane of a port leaves service. -/
theorem retireUnit_lane {l : Nat} (hl : l < 96) (hserves : unitGone s { kind := 8, logical := l } = false) :
    Retired s (retireUnit { kind := 8, logical := l } phys cause s) { kind := 8, logical := l } phys cause
      ∧ (retireUnit { kind := 8, logical := l } phys cause s).cst.ports = s.cst.ports := by
  obtain ⟨ev, hrow⟩ := retireUnit_serving (phys := phys) (cause := cause) (u := { kind := 8, logical := l })
    (decide_eq_true hl) hserves
  have hshown : UnitsKept (entered { kind := 8, logical := l } phys cause s) (moveWork { kind := 8, logical := l }
      (unitInfo { kind := 8, logical := l } phys cause) (applyMapEntry (retiredEntry { kind := 8, logical := l } phys cause s)
        (entered { kind := 8, logical := l } phys cause s))) := by
    have h := applyMapEntry_keeps (κ := 320) (e := retiredEntry { kind := 8, logical := l } phys cause s) rfl
      (keeps_refl (s₀ := entered { kind := 8, logical := l } phys cause s))
    exact unitsKept_of_same (h .chn rfl) (h .blw rfl) (h .cst rfl)
  have hraised := unitsKept_raise (b := .chn) (ev := ev) (s := advanceEpoch (moveWork { kind := 8, logical := l }
      (unitInfo { kind := 8, logical := l } phys cause) (applyMapEntry (retiredEntry { kind := 8, logical := l } phys cause s)
        (entered { kind := 8, logical := l } phys cause s))))
  have hret := (retired_advanceEpoch_entered hshown).of_unitsKept hraised
  have hports := hraised.ports.trans hshown.ports
  rw [hrow]
  dsimp only
  generalize raise .chn ev _ = v at hret hports
  have hnext : ∀ {w : State}, UnitsKept v w → Retired s w { kind := 8, logical := l } phys cause ∧ w.cst.ports = s.cst.ports :=
    fun h => ⟨hret.of_unitsKept h, h.ports.trans hports⟩
  split
  · exact hnext unitsKept_enterHold
  · split
    · exact hnext unitsKept_setMode
    · exact hnext .refl

/-! ## Ports (R379, R381) -/

variable {n k : Nat} {p : Port}

theorem getElem?_portMod {f : Port → Port} :
    (portMod n f s).cst.ports[k]? = if k = n then (s.cst.ports[k]?).map f else s.cst.ports[k]? := by
  have hports : (portMod n f s).cst.ports = (List.range s.cst.ports.length).map (fun i =>
      let p := s.cst.ports.getD i { up := false, present := false, kr8 := false, noSpare := false }
      if i = n then f p else p) := rfl
  rw [hports, List.getElem?_map]
  by_cases hk : k < s.cst.ports.length
  · rw [List.getElem?_range hk, List.getElem?_eq_getElem hk, Option.map_some, List.getD_eq_getElem _ _ hk]
    split <;> rfl
  · rw [List.getElem?_eq_none (by simpa using hk), List.getElem?_eq_none (by simpa using hk)]
    split <;> rfl

theorem portMod_frame {f : Port → Port} : Frame [.cst] s (portMod n f s) := frame_of_keeps (upd_cst (by decide) keeps_refl)

theorem getElem?_portMod_same {f : Port → Port} (hp : s.cst.ports[n]? = some p) : (portMod n f s).cst.ports[n]? = some (f p) := by
  rw [getElem?_portMod, if_pos rfl, hp, Option.map_some]

theorem getElem?_portMod_other {f : Port → Port} (h : k ≠ n) : (portMod n f s).cst.ports[k]? = s.cst.ports[k]? := by
  rw [getElem?_portMod, if_neg h]

theorem raisePort_ports {sev : Nat} : (raisePort n sev s).cst.ports = s.cst.ports := raise_ports

theorem raised_raisePort {sev : Nat} : Raised s (raisePort n sev s) 0x00F1 sev := raised_raise (b := .cst)

/-- A port that changes reports it. -/
theorem portState_change {up : Bool} (hp : s.cst.ports[n]? = some p) (hchange : p.up ≠ (up && p.present && !p.noSpare)) :
    portState n up s = raisePort n (if up && p.present && !p.noSpare then 0 else 1)
      (portMod n (fun q => { q with up := up && p.present && !p.noSpare }) s) := by
  simp only [portState, hp]
  rw [if_neg hchange]

theorem portState_same {up : Bool} (hp : s.cst.ports[n]? = some p) (hsame : p.up = (up && p.present && !p.noSpare)) :
    portState n up s = s := by
  simp only [portState, hp]
  rw [if_pos hsame]

/-- A port that changes stands as it is told, the others as they were, and PORT_STATE tells which way. -/
theorem portState_leaves {up v : Bool} (hp : s.cst.ports[n]? = some p) (hv : (up && p.present && !p.noSpare) = v) (hchange : p.up ≠ v) :
    (portState n up s).cst.ports[n]? = some { p with up := v }
      ∧ (∀ k, k ≠ n → (portState n up s).cst.ports[k]? = s.cst.ports[k]?)
      ∧ Raised s (portState n up s) 0x00F1 (if v then 0 else 1) := by
  subst hv
  rw [portState_change hp hchange, raisePort_ports]
  exact ⟨getElem?_portMod_same hp, fun k => getElem?_portMod_other, raised_raisePort.of_eq rfl rfl⟩

/-- A port that is told to go down is down, and the others are as they were. -/
theorem portState_down (hp : s.cst.ports[n]? = some p) : (portState n false s).cst.ports[n]? = some { p with up := false }
    ∧ (∀ k, k ≠ n → (portState n false s).cst.ports[k]? = s.cst.ports[k]?)
    ∧ (p.up = true → Raised s (portState n false s) 0x00F1 1) := by
  by_cases hup : p.up = false
  · rw [portState_same (up := false) hp hup]
    refine ⟨?_, fun _ _ => rfl, fun h => ?_⟩
    · rw [hp, ← hup]
    · cases hup.symm.trans h
  · obtain ⟨hport, hothers, hraised⟩ := portState_leaves (up := false) hp rfl hup
    exact ⟨hport, hothers, fun _ => hraised⟩

/-- A port that goes down leaves the retirement of its lane as it is. -/
theorem Retired.after_portDown (hret : Retired t s u phys cause) (hp : s.cst.ports[n]? = some p) :
    Retired t (portState n false s) u phys cause := by
  by_cases hup : p.up = false
  · rwa [portState_same (up := false) hp hup]
  · rw [portState_change (up := false) hp hup]
    exact Retired.of_unitsKept (t := portMod n _ s) hret unitsKept_raise

/-! ## Lanes (R380) -/

variable {lane : Nat}

theorem laneOf_lt (hn : n < 12) (hl : lane < 8) : laneOf n lane < 96 := by
  unfold laneOf
  omega

theorem laneSpared_fails (hn : n < 12) (hl : lane < 8) (hserves : unitGone s { kind := 8, logical := laneOf n lane } = false) :
    laneSpared n lane true s = laneRetired n lane s := by
  rw [laneSpared, if_neg (by simp [hn, hl]), if_neg (ne_true_of_eq_false hserves)]

/-- The state once a lane's fault has been latched. -/
def laneFaulted (n lane : Nat) (s : State) : State :=
  blkFault (blkPage .cst n) 0 0 (BitVec.ofNat 64 (if sparesLeft s 8 (laneOf n lane) = 0 then n + 2 ^ 9
    else laneOf n lane + nextSpare s 8 (laneOf n lane) * 2 ^ 8)) s

theorem laneFaulted_keeps : Keeps 192 s (laneFaulted n lane s) := blkFault_keeps rfl keeps_refl

/-- With a spare left the lane is retired and reported, and a port that was up goes down to train again. -/
theorem laneRetired_spare (h : sparesLeft s 8 (laneOf n lane) ≠ 0) : ∃ ev, laneRetired n lane s
    = (let v := raise .cst ev (retireUnit { kind := 8, logical := laneOf n lane } (physicalOf (laneFaulted n lane s) 8 (laneOf n lane)) 7
        (laneFaulted n lane s))
      if (s.cst.ports[n]?).any Port.up then portState n false v else v) := by
  exact ⟨_, if_neg h⟩

/-- With none left the port goes down for good, the lane is retired and the port's state is reported. -/
theorem laneRetired_last (h : sparesLeft s 8 (laneOf n lane) = 0) : ∃ info, laneRetired n lane s
    = (let v := blkFault (blkPage .cst n) 1 0 info (portMod n (fun p => { p with up := false, noSpare := true }) (laneFaulted n lane s))
      raisePort n 3 (retireUnit { kind := 8, logical := laneOf n lane } (physicalOf v 8 (laneOf n lane)) 7 v)) := by
  exact ⟨_, if_pos h⟩

theorem laneRetired_spare_leaves (hn : n < 12) (hl : lane < 8) (hp : s.cst.ports[n]? = some p)
    (hserves : unitGone s { kind := 8, logical := laneOf n lane } = false) (h : sparesLeft s 8 (laneOf n lane) ≠ 0) :
    Retired s (laneRetired n lane s) { kind := 8, logical := laneOf n lane } (physicalOf s 8 (laneOf n lane)) 7
      ∧ (laneRetired n lane s).cst.ports[n]? = some { p with up := false } := by
  have hchn : (laneFaulted n lane s).chn = s.chn := laneFaulted_keeps .chn rfl
  obtain ⟨-, -, hphys, hgone⟩ := spares_of_chn hchn
  obtain ⟨ev, hrow⟩ := laneRetired_spare h
  rw [hphys] at hrow
  obtain ⟨hret, hports⟩ := retireUnit_lane (s := laneFaulted n lane s) (phys := physicalOf s 8 (laneOf n lane)) (cause := 7)
    (laneOf_lt hn hl) ((hgone _).trans hserves)
  have hraised := unitsKept_raise (b := .cst) (ev := ev) (s := retireUnit { kind := 8, logical := laneOf n lane }
    (physicalOf s 8 (laneOf n lane)) 7 (laneFaulted n lane s))
  have hret' := (hret.of_chn hchn).of_unitsKept hraised
  have hport : (raise .cst ev (retireUnit { kind := 8, logical := laneOf n lane } (physicalOf s 8 (laneOf n lane)) 7
      (laneFaulted n lane s))).cst.ports[n]? = some p := by
    rw [hraised.ports, hports, laneFaulted_keeps .cst rfl, hp]
  rw [hrow]
  dsimp only
  rw [hp, Option.any_some]
  split
  · exact ⟨hret'.after_portDown hport, (portState_down hport).1⟩
  · next hup =>
    refine ⟨hret', hport.trans ?_⟩
    rw [← Bool.eq_false_of_not_eq_true hup]

theorem laneRetired_last_leaves (hn : n < 12) (hl : lane < 8) (hp : s.cst.ports[n]? = some p)
    (hserves : unitGone s { kind := 8, logical := laneOf n lane } = false) (h : sparesLeft s 8 (laneOf n lane) = 0) :
    Retired s (laneRetired n lane s) { kind := 8, logical := laneOf n lane } (physicalOf s 8 (laneOf n lane)) 7
      ∧ (laneRetired n lane s).cst.ports[n]? = some { p with up := false, noSpare := true } := by
  obtain ⟨info, hrow⟩ := laneRetired_last h
  have hkeeps : Keeps 192 (portMod n (fun p => { p with up := false, noSpare := true }) (laneFaulted n lane s))
    (blkFault (blkPage .cst n) 1 0 info (portMod n (fun p => { p with up := false, noSpare := true }) (laneFaulted n lane s))) :=
    blkFault_keeps rfl keeps_refl
  rw [hrow]
  dsimp only
  generalize blkFault (blkPage .cst n) 1 0 info _ = v at hkeeps
  have hchn : v.chn = s.chn := (hkeeps .chn rfl).trans (laneFaulted_keeps .chn rfl)
  obtain ⟨-, -, hphys, hgone⟩ := spares_of_chn hchn
  obtain ⟨hret, hports⟩ := retireUnit_lane (s := v) (phys := physicalOf s 8 (laneOf n lane)) (cause := 7)
    (laneOf_lt hn hl) ((hgone _).trans hserves)
  rw [hphys]
  refine ⟨(hret.of_chn hchn).of_unitsKept unitsKept_raise, ?_⟩
  rw [raisePort_ports, hports, hkeeps .cst rfl]
  exact getElem?_portMod_same ((congrArg (fun c => c.ports[n]?) (laneFaulted_keeps .cst rfl)).trans hp)

end

/-- Settles O54: a lane that fails is retired as any unit is, and a port changes only as its cable, its lanes and its training allow. -/
theorem portRows : Obligations.PortRows := by
  unfold Obligations.PortRows
  refine ⟨fun s n lane p hn hl hp hserves hspare => ?_, fun s n lane p hn hl hp hserves hlast => ?_, fun s n lane => ?_,
    fun s n m p hn hp => ?_, fun s n m p hn hp => ?_, fun s n up p hn hp hchange hallow => ?_, fun s n p hp hdown hstuck => ?_,
    fun s n hi lo p hon hp hup haddr => ?_⟩
  · have hrow : exec (.laneSpared n lane true) s = .next (drainAll (laneSpared n lane true s)) := rfl
    rw [laneSpared_fails hn hl hserves] at hrow
    obtain ⟨hret, hport⟩ := laneRetired_spare_leaves hn hl hp hserves hspare
    exact ⟨_, _, hrow, hret, hport, rfl, rfl⟩
  · have hrow : exec (.laneSpared n lane true) s = .next (drainAll (laneSpared n lane true s)) := rfl
    rw [laneSpared_fails hn hl hserves] at hrow
    exact ⟨_, hrow, laneRetired_last_leaves hn hl hp hserves hlast⟩
  · have hpass : laneSpared n lane false s = s := if_pos (by simp)
    exact congrArg (fun t => Host.Outcome.next (drainAll t)) hpass
  · have hrow : exec (.cablePresenceChange n true m) s = .next (drainAll (cableChange n true m s)) := rfl
    rw [cableChange, if_neg (by omega), if_pos rfl] at hrow
    exact ⟨_, hrow, getElem?_portMod_same hp, fun k => getElem?_portMod_other, portMod_frame⟩
  · have hrow : exec (.cablePresenceChange n false m) s = .next (drainAll (cableChange n false m s)) := rfl
    rw [cableChange, if_neg (by omega), if_neg Bool.false_ne_true] at hrow
    obtain ⟨hport, hothers, hraised⟩ := portState_down hp
    exact ⟨_, hrow, getElem?_portMod_same hport, fun k hk => (getElem?_portMod_other hk).trans (hothers k hk), hraised⟩
  · have hv : (up && p.present && !p.noSpare) = up := by
      cases up with
      | false => rfl
      | true => obtain ⟨h1, h2⟩ := hallow rfl; rw [h1, h2]; rfl
    exact ⟨portState n up s, rfl, portState_leaves hp hv (by rw [hchange]; cases up <;> decide)⟩
  · have hstays : portState n true s = s := by
      refine portState_same hp ?_
      rw [hdown]
      obtain h | h := hstuck <;> rw [h]
      · rfl
      · cases p.present <;> rfl
    exact congrArg (fun t => Host.Outcome.next (drainAll t)) hstays
  · have hrow : exec (.addressResolutionRequest n hi lo) s = .next (addressRequest n hi lo s) := rfl
    rw [hrow, addressRequest, hon, hp, Option.any_some, hup, Bool.true_and, Bool.true_and, if_pos (decide_eq_true haddr)]
    rfl

end Sys2Proof.Machine

/-! SUPPORT. Connections between modules: packets, acknowledgements, and how a connection opens and ends (R384 to R387, R399). -/
namespace Sys2Proof.Machine

/-! ## What sending and events leave of a peer's entry -/

/-- The parts of an entry that neither a message to the peer nor an event changes. -/
def linkOf (p : Peer) : Nat × Nat × Nat × Nat × Nat × Nat × Nat × Rat × Option Nat :=
  (p.state, p.conn, p.ownConn, p.shardId, p.portsUp, p.recvPsn, p.timeoutUs, p.rate, p.lastCut)

/-- The ports, and these parts of the entry of peer `i`. -/
def linkAt (i : Nat) (c : Consort) := (c.ports, (tget c.peers i).map linkOf)

section
variable {s : State} {i j : Nat} {p q : Peer}

theorem linkAt_tset {c : Consort} (hp : tget c.peers j = some p) (hq : linkOf q = linkOf p) :
    linkAt i { c with peers := tset c.peers j q } = linkAt i c := by
  rw [linkAt, linkAt, tget_tset]
  split
  · next h => rw [h, hp, Option.map_some, Option.map_some, hq]
  · rfl

theorem linkAt_sendOut {m : OutMsg} : linkAt i (sendOut j m s).cst = linkAt i s.cst := by
  rw [sendOut]
  split
  · rfl
  · next p hp => exact linkAt_tset hp rfl

theorem linkAt_flushMsgs {n : Nat} : linkAt i (flushMsgs j n s).cst = linkAt i s.cst := by
  induction n generalizing s with
  | zero => rfl
  | succ n ih =>
    rw [flushMsgs]
    split
    · rfl
    · next p hp =>
      split
      · rfl
      · split
        · rfl
        · exact ih.trans (linkAt_sendOut.trans (linkAt_tset hp rfl))

theorem linkAt_sendMsg {kind : Nat} {bnd : Bool} {hdr : Word64} {body : List Byte} :
    linkAt i (sendMsg j kind bnd hdr body s).cst = linkAt i s.cst := by
  rw [sendMsg]
  split
  · rfl
  · next p hp => exact linkAt_flushMsgs.trans (linkAt_tset hp rfl)

theorem linkAt_shipRest : linkAt i (shipRest s).cst = linkAt i s.cst := by
  refine inv_foldl (P := fun t => linkAt i t.cst = linkAt i s.cst) (fun t r ht => ?_) rfl
  unfold shipRecord
  split
  · exact linkAt_sendMsg.trans ht
  · exact ht

theorem linkOf_given {ev : Ev} : linkOf (given ev p) = linkOf p := by
  unfold given
  split
  · rfl
  · split <;> rfl

theorem linkAt_raise {b : Blk} {ev : Ev} : linkAt i (raise b ev s).cst = linkAt i s.cst := by
  refine raise_cst (P := fun c => linkAt i c = linkAt i s.cst) rfl fun c j hc => Eq.trans ?_ hc
  rw [linkAt, linkAt, tget_tmod]
  split
  · cases tget c.peers i with
    | none => rfl
    | some p => rw [Option.map_some, Option.map_some, Option.map_some, linkOf_given]
  · rfl

/-- What the entry of a peer says of its connection, in a state that messages and events alone have changed since. -/
theorem tget_of_linkAt {t : State} (h : linkAt i t.cst = linkAt i s.cst) (hp : tget s.cst.peers i = some p) :
    ∃ q, tget t.cst.peers i = some q ∧ linkOf q = linkOf p := by
  have hlink := congrArg Prod.snd h
  simp only [linkAt, hp, Option.map_some] at hlink
  exact Option.map_eq_some_iff.1 hlink

theorem portsMask_of_linkAt {t : State} (h : linkAt i t.cst = linkAt i s.cst) : portsMask t = portsMask s :=
  portsMask_congr (congrArg Prod.fst h)

theorem linkOf_inj (h : linkOf q = linkOf p) : q.state = p.state ∧ q.conn = p.conn ∧ q.ownConn = p.ownConn ∧ q.shardId = p.shardId
    ∧ q.portsUp = p.portsUp ∧ q.recvPsn = p.recvPsn ∧ q.timeoutUs = p.timeoutUs ∧ q.rate = p.rate ∧ q.lastCut = p.lastCut := by
  simpa [linkOf] using h

/-! ## Packets from a peer (R384) -/

theorem fromPeer_enabled {f : Peer → State → State} (hon : fabricOn s = true) (hp : tget s.cst.peers i = some p)
    (hen : p.enable = true) : fromPeer i f s = f p s := by simp [fromPeer, hon, hp, hen]

theorem dataPacket_checked {h : PktHdr} {d : List Byte} {ce : Bool} (hon : fabricOn s = true) (hok : h.checkOk = true)
    (hp : tget s.cst.peers i = some p) (hen : p.enable = true) : dataPacket i true h d ce s = dataFrom i h d ce p s := by
  rw [dataPacket, if_neg (by simp [hon]), if_neg (by simp [hok]), fromPeer_enabled hon hp hen]

/-- Delivering messages changes nothing but the messages. -/
theorem deliver_eq {n : Nat} : ∃ ms m, deliver n p = { p with msgs := ms, nextRecvMsg := m } := by
  induction n generalizing p with
  | zero => exact ⟨p.msgs, p.nextRecvMsg, rfl⟩
  | succ n ih =>
    rw [deliver]
    split
    · obtain ⟨ms, m, h⟩ := ih (p := { p with msgs := p.msgs.filter (fun m => m.id ≠ p.nextRecvMsg), nextRecvMsg := p.nextRecvMsg + 1 })
      exact ⟨ms, m, h⟩
    · exact ⟨p.msgs, p.nextRecvMsg, rfl⟩

/-- The entry once a new packet's number is marked received. -/
def psnTaken (h : PktHdr) (p : Peer) : Peer :=
  let next := if h.psn = p.recvPsn then advancePsn p.recvAhead 4096 ((h.psn + 1) % 2 ^ 32) else p.recvPsn
  { p with
    recvPsn := next
    recvAhead := (if h.psn = p.recvPsn then p.recvAhead else insertNat h.psn p.recvAhead).filter
      (fun n => (n + 2 ^ 32 - next) % 2 ^ 32 < 4096) }

theorem takePacket_eq {h : PktHdr} {d : List Byte} : ∃ ms m, takePacket h d p = { psnTaken h p with msgs := ms, nextRecvMsg := m } := by
  have ht : takePacket h d p = if h.msgId < p.nextRecvMsg then psnTaken h p
      else deliver (addPart h d p.msgs).length { psnTaken h p with msgs := addPart h d p.msgs } := rfl
  rw [ht]
  split
  · exact ⟨p.msgs, p.nextRecvMsg, rfl⟩
  · exact deliver_eq

/-- A packet that carries the whole of the next message delivers it. -/
theorem takePacket_whole {h : PktHdr} {d : List Byte} (hid : h.msgId = p.nextRecvMsg) (hms : p.msgs = []) (hlen : h.msgLen ≤ d.length) :
    (takePacket h d p).nextRecvMsg = p.nextRecvMsg + 1 ∧ (takePacket h d p).msgs = [] := by
  have ht : takePacket h d p = if h.msgId < p.nextRecvMsg then psnTaken h p
      else deliver (addPart h d p.msgs).length { psnTaken h p with msgs := addPart h d p.msgs } := rfl
  have hpart : addPart h d p.msgs = [{ id := h.msgId, len := h.msgLen, parts := [(h.msgOff, d)] }] := by rw [hms]; rfl
  have hnext : (psnTaken h p).nextRecvMsg = p.nextRecvMsg := rfl
  have hwhole : ([{ id := h.msgId, len := h.msgLen, parts := [(h.msgOff, d)] }] : List Msg).any
      (fun m => m.id = (psnTaken h p).nextRecvMsg && msgWhole m) = true := by simp [hnext, hid, msgWhole, hlen]
  rw [ht, if_neg (by omega), hpart]
  dsimp only [List.length_cons, List.length_nil]
  rw [deliver, if_pos hwhole, deliver]
  simp [hnext, hid]

/-- A number ahead of the next one waits among those received ahead. -/
theorem psnTaken_ahead {h : PktHdr} (hlo : p.recvPsn < h.psn) (hhi : h.psn < p.recvPsn + 4096) :
    (psnTaken h p).recvPsn = p.recvPsn ∧ h.psn ∈ (psnTaken h p).recvAhead := by
  have hne : h.psn ≠ p.recvPsn := by omega
  simp only [psnTaken, if_neg hne]
  exact ⟨trivial, List.mem_filter.2 ⟨mem_insertNat.2 (.inl rfl), decide_eq_true (by omega)⟩⟩

/-- The entry once a packet has been counted for acknowledgement and, being new, taken. -/
def packetTaken (h : PktHdr) (d : List Byte) (ce : Bool) (p : Peer) : Peer :=
  takePacket { h with psn := h.psn % 2 ^ 32 } d { p with sinceAck := p.sinceAck + 1, ceSince := p.ceSince + b2n ce }

theorem packetTaken_eq {h : PktHdr} {d : List Byte} {ce : Bool} (h32 : h.psn < 2 ^ 32) : ∃ ms m, packetTaken h d ce p
    = { psnTaken h p with sinceAck := p.sinceAck + 1, ceSince := p.ceSince + b2n ce, msgs := ms, nextRecvMsg := m } := by
  obtain ⟨ms, m, ht⟩ := takePacket_eq (h := { h with psn := h.psn % 2 ^ 32 }) (d := d)
    (p := { p with sinceAck := p.sinceAck + 1, ceSince := p.ceSince + b2n ce })
  have hh : { h with psn := h.psn % 2 ^ 32 } = h := by rw [Nat.mod_eq_of_lt h32]
  rw [packetTaken, ht, hh]
  exact ⟨ms, m, rfl⟩

/-- A packet of the connection within the window and not received before is taken; the eighth since the last ACK is acknowledged. -/
theorem dataFrom_new {h : PktHdr} {d : List Byte} {ce : Bool} (hs : p.state = 2) (hver : h.ver = 1) (htype : h.ptype = 1)
    (hconn : h.conn = p.ownConn) (hmin : 16 ≤ h.msgLen) (hmax : h.msgLen ≤ 1049616)
    (hwin : (h.psn + 2 ^ 32 - p.recvPsn) % 2 ^ 32 < 4096) (hnew : h.psn ∉ p.recvAhead) (h32 : h.psn < 2 ^ 32) :
    dataFrom i h d ce p s = (let t := peerMod i (fun _ => packetTaken h d ce p) s
      if 7 ≤ p.sinceAck then sendAck i t else t) := by
  have hok : ¬(p.state ≠ 2 ∨ h.ver ≠ 1 ∨ h.ptype ≠ 1 ∨ h.conn ≠ p.ownConn ∨ h.msgLen < 16 ∨ h.msgLen > 1049616
      ∨ (4096 ≤ (h.psn + 2 ^ 32 - p.recvPsn) % 2 ^ 32 ∧ (h.psn + 2 ^ 32 - p.recvPsn) % 2 ^ 32 < 2 ^ 31)) := by omega
  have hunseen : ¬(decide ((h.psn + 2 ^ 32 - p.recvPsn) % 2 ^ 32 ≥ 2 ^ 31) || decide (h.psn ∈ p.recvAhead)) = true := by
    rw [decide_eq_false hnew, Bool.or_false, decide_eq_true_eq]
    omega
  obtain ⟨ms, m, hq⟩ := packetTaken_eq (p := p) (d := d) (ce := ce) h32
  have hsince : (packetTaken h d ce p).sinceAck ≥ 8 ↔ 7 ≤ p.sinceAck := by rw [hq]; exact Nat.succ_le_succ_iff
  have hrow : dataFrom i h d ce p s = (let t := peerMod i (fun _ => packetTaken h d ce p) s
      if (packetTaken h d ce p).sinceAck ≥ 8 then sendAck i t else t) := by
    rw [dataFrom]
    dsimp only
    rw [if_neg hok, if_neg hunseen]
    rfl
  rw [hrow]
  exact if_congr hsince rfl rfl

theorem tget_peerMod_const (hp : tget s.cst.peers i = some p) : tget (peerMod i (fun _ => q) s).cst.peers i = some q := by
  rw [tget_peerMod, hp, Option.map_some]

/-! ## Acknowledgements (R386, R387) -/

/-- The numbers received ahead of the next one, as an ACK carries them. -/
def aheadBits (p : Peer) : Nat :=
  (List.range 64).foldl (fun a k => if (p.recvPsn + k) % 2 ^ 32 ∈ p.recvAhead then a + 2 ^ k else a) 0

theorem sendAck_eq (hp : tget s.cst.peers i = some p) : sendAck i s
    = emit (.fabricAck i ((p.recvPsn + 2 ^ 32 - 1) % 2 ^ 32) (BitVec.ofNat 64 (aheadBits p)) p.ceSince)
      (peerMod i (fun p => { p with sinceAck := 0, ceSince := 0 }) s) := by
  rw [sendAck, peerOf_of_tget hp]
  rfl

/-- A sum of powers of two that are each taken or left holds the bits of those taken. -/
theorem testBit_foldl_bits {c : Nat → Prop} [DecidablePred c] (n : Nat) :
    (List.range n).foldl (fun a k => if c k then a + 2 ^ k else a) 0 < 2 ^ n
      ∧ ∀ k, ((List.range n).foldl (fun a k => if c k then a + 2 ^ k else a) 0).testBit k = (decide (k < n) && decide (c k)) := by
  induction n with
  | zero => exact ⟨Nat.zero_lt_one, fun k => by simp⟩
  | succ n ih =>
    obtain ⟨hlt, hbits⟩ := ih
    rw [List.range_succ, List.foldl_append, List.foldl_cons, List.foldl_nil]
    generalize (List.range n).foldl (fun a k => if c k then a + 2 ^ k else a) 0 = a at hlt hbits
    have hpow : 2 ^ (n + 1) = 2 ^ n + 2 ^ n := by rw [Nat.pow_succ]; omega
    by_cases hn : c n
    · rw [if_pos hn]
      refine ⟨by omega, fun k => ?_⟩
      rw [Nat.add_comm]
      obtain hk | hk | hk := Nat.lt_trichotomy k n
      · rw [Nat.testBit_two_pow_add_gt hk, hbits, decide_eq_true hk, decide_eq_true (Nat.lt_succ_of_lt hk)]
      · rw [hk, Nat.testBit_two_pow_add_eq, Nat.testBit_lt_two_pow hlt, decide_eq_true hn, decide_eq_true (Nat.lt_succ_self n)]
        rfl
      · rw [decide_eq_false (by omega), Bool.false_and]
        exact Nat.testBit_lt_two_pow (lt_of_lt_of_le (by omega) (Nat.pow_le_pow_right (by decide) hk))
    · rw [if_neg hn]
      refine ⟨by omega, fun k => ?_⟩
      rw [hbits]
      obtain hk | hk | hk := Nat.lt_trichotomy k n
      · rw [decide_eq_true hk, decide_eq_true (Nat.lt_succ_of_lt hk)]
      · rw [hk, decide_eq_false hn, Bool.and_false, Bool.and_false]
      · rw [decide_eq_false (Nat.lt_asymm hk), decide_eq_false (show ¬k < n + 1 by omega), Bool.false_and]

theorem getLsbD_aheadBits {k : Nat} (hk : k < 64) :
    (BitVec.ofNat 64 (aheadBits p)).getLsbD k = decide ((p.recvPsn + k) % 2 ^ 32 ∈ p.recvAhead) := by
  rw [BitVec.getLsbD_ofNat, decide_eq_true hk, Bool.true_and, aheadBits,
    (testBit_foldl_bits (c := fun k => (p.recvPsn + k) % 2 ^ 32 ∈ p.recvAhead) 64).2, decide_eq_true hk, Bool.true_and]

/-- The entry after an ACK, before the rate is cut and waiting messages go out. -/
def ackTaken (a : Nat) (bm : Word64) (p : Peer) : Peer :=
  { p with
    unacked := p.unacked.filter (fun n => !ackHits a bm n)
    outMsgs := (p.outMsgs.map (fun m => { m with psns := m.psns.filter (fun n => !ackHits a bm n) })).filter (fun m => m.psns ≠ [])
    timeoutUs := if (p.unacked.filter (ackHits a bm)).length = 0 then p.timeoutUs else 20 }

theorem ackFrom_eq {a ce : Nat} {bm : Word64} (hs : p.state = 2) : ackFrom i a bm ce p s = flushMsgs i p.queued.length
    (peerMod i (fun _ => rateCut (p.unacked.filter (ackHits a bm)).length ce s.now (ackTaken a bm p)) s) := by
  rw [ackFrom, if_neg (by simp [hs])]
  rfl

/-- The cut of the rate changes the rate and its time alone. -/
theorem rateCut_eq {a c now : Nat} : ∃ r l, rateCut a c now p = { p with rate := r, lastCut := l } := by
  unfold rateCut
  dsimp only
  split <;> split
  · exact ⟨p.rate, p.lastCut, rfl⟩
  · exact ⟨_, _, rfl⟩
  · exact ⟨p.rate, p.lastCut, rfl⟩
  · exact ⟨_, _, rfl⟩

theorem rateCut_unmarked {a now : Nat} : rateCut a 0 now p = p := by simp [rateCut]

theorem rateCut_first {a c now : Nat} (hc : c ≠ 0) (ha : a ≠ 0) (hlast : p.lastCut = none) :
    rateCut a c now p = { p with rate := max (p.rate * (1 - (c : Rat) / (2 * a))) 1000, lastCut := some now } := by
  simp [rateCut, hc, ha, hlast]

theorem foldl_resent {l : List Nat} : l.foldl (fun s n => emit (.resent i n) s) s
    = { s with outbox := s.outbox ++ l.map (fun n => .resent i n) } := by
  induction l generalizing s with
  | nil => rw [List.foldl_nil, List.map_nil, List.append_nil]
  | cons n l ih => rw [List.foldl_cons, ih, emit_outbox, List.append_assoc]; rfl

/-! ## Connections that open (R385, R386) -/

/-- The entry as a connection opens. -/
def freshEntry (s : State) (conn shard ports : Nat) (p : Peer) : Peer :=
  let p := { p with
    state := 2, conn := conn, shardId := shard, portsUp := ports, nextPsn := 0, unacked := [], nextMsg := 1
    queued := p.outMsgs.foldr queueMsg [] ++ p.queued, outMsgs := [], recvPsn := 0, recvAhead := [], sinceAck := 0
    ceSince := 0, msgs := [], nextRecvMsg := 1, timeoutUs := 20, lastCut := none }
  { p with rate := rateStart s p }

/-- The entry is renewed, PEER_STATE is raised and messages go out, with mirror records behind them. -/
theorem openFresh_cases {conn shard ports : Nat} :
    let u := raisePeer i 0 (peerMod i (freshEntry s conn shard ports) s)
    let v := flushMsgs i (peerOf u i).queued.length u
    openFresh i conn shard ports s = v ∨ openFresh i conn shard ports s = shipRest (cstMod (fun c => { c with mirrorPaused := false }) v) := by
  intro u v
  have hrow : openFresh i conn shard ports s = if (mirrorOn v && decide (i = mirrorPeer v)) = true
      then shipRest (cstMod (fun c => { c with mirrorPaused := false }) v) else v := rfl
  rw [hrow]
  split
  · exact .inr rfl
  · exact .inl rfl

/-- Mirror records that go out raise no event and leave the connection. -/
theorem shipRest_unpaused : LogsKept s (shipRest (cstMod (fun c => { c with mirrorPaused := false }) s))
    ∧ linkAt i (shipRest (cstMod (fun c => { c with mirrorPaused := false }) s)).cst = linkAt i s.cst :=
  ⟨logsKept_of_chn (shipRest_keeps (κ := 536870920) rfl (cstMod_keeps rfl keeps_refl) .chn rfl), linkAt_shipRest⟩

/-- Behind the renewal of the entry, messages and PEER_STATE alone follow. -/
theorem openFresh_leaves {conn shard ports : Nat} :
    linkAt i (openFresh i conn shard ports s).cst = linkAt i (peerMod i (freshEntry s conn shard ports) s).cst
      ∧ Raised s (openFresh i conn shard ports s) 0x00F2 0 := by
  have hraised : Raised s (raisePeer i 0 (peerMod i (freshEntry s conn shard ports) s)) 0x00F2 0 := raised_raisePeer.of_eq rfl rfl
  have hflush : ∀ n, LogsKept (raisePeer i 0 (peerMod i (freshEntry s conn shard ports) s))
      (flushMsgs i n (raisePeer i 0 (peerMod i (freshEntry s conn shard ports) s))) := fun n =>
    logsKept_of_chn (flushMsgs_keeps (κ := 536870920) rfl keeps_refl .chn rfl)
  have hlink : linkAt i (raisePeer i 0 (peerMod i (freshEntry s conn shard ports) s)).cst
      = linkAt i (peerMod i (freshEntry s conn shard ports) s).cst := linkAt_raise
  obtain h | h := openFresh_cases (s := s) (i := i) (conn := conn) (shard := shard) (ports := ports) <;> rw [h]
  · exact ⟨linkAt_flushMsgs.trans hlink, hraised.of_logsKept (hflush _)⟩
  · exact ⟨shipRest_unpaused.2.trans (linkAt_flushMsgs.trans hlink), (hraised.of_logsKept (hflush _)).of_logsKept (shipRest_unpaused (i := i)).1⟩

/-- A connection that opens is up under the peer's numbers, with rates and numbers at their start. -/
theorem openFresh_entry {conn shard ports : Nat} (hp : tget s.cst.peers i = some p) :
    ∃ q, tget (openFresh i conn shard ports s).cst.peers i = some q ∧ linkOf q = linkOf (freshEntry s conn shard ports p) := by
  refine tget_of_linkAt openFresh_leaves.1 ?_
  rw [tget_peerMod, hp, Option.map_some]

theorem portsMask_openFresh {conn shard ports : Nat} : portsMask (openFresh i conn shard ports s) = portsMask s :=
  portsMask_of_linkAt (s := peerMod i (freshEntry s conn shard ports) s) openFresh_leaves.1

theorem openConn_down {conn shard ports : Nat} (hp : tget s.cst.peers i = some p) (hs : p.state ≠ 2) :
    openConn i conn shard ports s = openFresh i conn shard ports s := by
  simp only [openConn, peerOf_of_tget hp, hs, false_and, if_false]

theorem openConn_other {conn shard ports : Nat} (hp : tget s.cst.peers i = some p) (hs : p.state = 2) (hne : p.conn ≠ conn) :
    openConn i conn shard ports s = openFresh i conn shard ports (connDown i s) := by
  simp only [openConn, peerOf_of_tget hp, hs, hne, and_false, if_false, if_true]

theorem openConn_same {conn shard ports : Nat} (hp : tget s.cst.peers i = some p) (h : p.state = 2 ∧ p.conn = conn) :
    openConn i conn shard ports s = s := by
  rw [openConn, peerOf_of_tget hp]
  exact if_pos h

theorem sendHello_eq {ack : Bool} (hp : tget s.cst.peers i = some p) (hports : portsMask s ≠ 0) :
    sendHello i ack s = emit (.fabricHello i p.ownConn (shardId s) (portsMask s) ack) s := by
  rw [sendHello, if_neg hports, peerOf_of_tget hp]

/-! ## Connections that end (R386, R399) -/

/-- A peer entry that is down, with no event to deliver and the connection ID that comes next. -/
def Down (i own : Nat) (c : Consort) : Prop :=
  ∃ q, tget c.peers i = some q ∧ q.state = 3 ∧ q.events = [] ∧ q.ownConn = own

/-- An event is lost for a peer that is down (R399). -/
theorem Down.raise {own : Nat} {b : Blk} {ev : Ev} (h : Down i own s.cst) : Down i own (raise b ev s).cst := by
  refine raise_cst h fun c j hc => ?_
  obtain ⟨q, hq, hstate, hev, hown⟩ := hc
  unfold Down
  dsimp only
  rw [tget_tmod, hq]
  split
  · refine ⟨given (stamped ev s) q, Option.map_some .., ?_⟩
    rw [given, if_pos hstate]
    exact ⟨hstate, hev, hown⟩
  · exact ⟨q, rfl, hstate, hev, hown⟩

theorem down_newConn (hp : tget s.cst.peers i = some p) :
    Down i s.cst.nextConn (newConn i (peerMod i (fun p => dropEvents { p with state := 3 }) s)).cst := by
  refine ⟨{ dropEvents { p with state := 3 } with ownConn := s.cst.nextConn }, ?_, rfl, rfl, rfl⟩
  rw [newConn, tget_peerMod, cstMod_cst]
  dsimp only
  rw [tget_peerMod, hp]
  rfl

/-- A connection that goes down is reported once, its events are discarded, and it takes a new connection ID. -/
theorem connDown_leaves (hp : tget s.cst.peers i = some p) : Down i s.cst.nextConn (connDown i s).cst
    ∧ (connDown i s).cst.ports = s.cst.ports ∧ Raised s (connDown i s) 0x00F2 1 := by
  have hfans : Keeps 13196354134080 (raisePeer i 1 (newConn i (peerMod i (fun p => dropEvents { p with state := 3 }) s)))
      (connDown i s) := fansDown_keeps rfl keeps_refl
  have hraised : Raised s (raisePeer i 1 (newConn i (peerMod i (fun p => dropEvents { p with state := 3 }) s))) 0x00F2 1 :=
    raised_raisePeer.of_eq rfl rfl
  rw [hfans .cst rfl]
  exact ⟨(down_newConn hp).raise, raise_ports, hraised.of_logsKept logsKept_fansDown⟩

theorem connectionDown_eq (hp : tget s.cst.peers i = some p) (hs : p.state = 2) (hun : p.unacked ≠ []) : connectionDown i s
    = sendHello i false (connDown i (blkFault (blkPage .cst 12) 0 0 (BitVec.ofNat 64 (i + 3 * 2 ^ 12)) s)) := by
  rw [connectionDown, peerOf_of_tget hp]
  exact if_neg (by simp [hs, hun])

end

end Sys2Proof.Machine

/-! SUPPORT. The rows of connections (R384 to R387). -/
namespace Sys2Proof.Machine

section
variable {s : State} {i : Nat} {p : Peer}

theorem packetTaken_frame {q : Peer} : Frame [.cst] s (peerMod i (fun _ => q) s) := frame_of_keeps (upd_cst (by decide) keeps_refl)

/-- A DATA packet that comes in order (R385). -/
theorem dataFrom_inOrder {h : PktHdr} {d : List Byte} {ce : Bool} (hp : tget s.cst.peers i = some p) (hs : p.state = 2)
    (hver : h.ver = 1) (htype : h.ptype = 1) (hconn : h.conn = p.ownConn) (hmin : 16 ≤ h.msgLen) (hmax : h.msgLen ≤ 1049616)
    (hpsn : h.psn = p.recvPsn) (h32 : h.psn < 2 ^ 32) (hnew : p.recvPsn ∉ p.recvAhead) :
    ∃ t q, dataFrom i h d ce p s = t ∧ tget t.cst.peers i = some q
      ∧ q.recvPsn = advancePsn p.recvAhead 4096 ((h.psn + 1) % 2 ^ 32)
      ∧ q.nextRecvMsg = (packetTaken h d ce p).nextRecvMsg ∧ q.msgs = (packetTaken h d ce p).msgs
      ∧ (p.sinceAck < 7 → q.sinceAck = p.sinceAck + 1 ∧ q.ceSince = p.ceSince + (if ce then 1 else 0) ∧ t.outbox = s.outbox)
      ∧ (7 ≤ p.sinceAck → q.sinceAck = 0 ∧ q.ceSince = 0 ∧ ∃ bm, t.outbox = s.outbox
          ++ [.fabricAck i ((q.recvPsn + 2 ^ 32 - 1) % 2 ^ 32) bm (p.ceSince + (if ce then 1 else 0))])
      ∧ Frame [.cst, .outbox] s t := by
  obtain ⟨ms, m, hq⟩ := packetTaken_eq (p := p) (d := d) (ce := ce) h32
  have hrecv : (psnTaken h p).recvPsn = advancePsn p.recvAhead 4096 ((h.psn + 1) % 2 ^ 32) := if_pos hpsn
  rw [dataFrom_new hs hver htype hconn hmin hmax (by omega) (hpsn ▸ hnew) h32]
  dsimp only
  have htaken := tget_peerMod_const (q := packetTaken h d ce p) hp
  by_cases hack : 7 ≤ p.sinceAck
  · rw [if_pos hack, sendAck_eq htaken]
    refine ⟨_, { packetTaken h d ce p with sinceAck := 0, ceSince := 0 }, rfl, ?_, ?_, rfl, rfl, fun h => absurd hack (by omega),
      fun _ => ⟨rfl, rfl, BitVec.ofNat 64 (aheadBits (packetTaken h d ce p)), ?_⟩,
      frame_of_keeps (emit_keeps (by decide) (upd_cst (by decide) (upd_cst (by decide) keeps_refl)))⟩
    · exact tget_peerMod.trans (by rw [htaken, Option.map_some])
    · rw [hq]
      exact hrecv
    · rw [emit_outbox, hq]
      rfl
  · rw [if_neg hack]
    refine ⟨_, packetTaken h d ce p, rfl, htaken, ?_, rfl, rfl, fun _ => ⟨?_, ?_, rfl⟩, fun h => absurd h hack,
      frame_of_keeps (upd_cst (by decide) keeps_refl)⟩
    · rw [hq]
      exact hrecv
    · rw [hq]
    · rw [hq]
      rfl

/-- An ACK leaves the connection up, cuts the rate where packets were marked, and lets waiting messages go. -/
theorem ackFrom_leaves {a ce : Nat} {bm : Word64} (hp : tget s.cst.peers i = some p) (hs : p.state = 2) :
    ∃ q, tget (ackFrom i a bm ce p s).cst.peers i = some q
      ∧ linkOf q = linkOf (rateCut (p.unacked.filter (ackHits a bm)).length ce s.now (ackTaken a bm p)) := by
  rw [ackFrom_eq hs]
  exact tget_of_linkAt linkAt_flushMsgs (tget_peerMod_const hp)

theorem ackFrom_empty {a ce : Nat} {bm : Word64} (hs : p.state = 2) (hq : p.queued = []) : ackFrom i a bm ce p s
    = peerMod i (fun _ => rateCut (p.unacked.filter (ackHits a bm)).length ce s.now (ackTaken a bm p)) s := by
  rw [ackFrom_eq hs, hq]
  rfl

theorem ackTaken_timeout {a : Nat} {bm : Word64} (h : p.unacked.filter (ackHits a bm) ≠ []) : (ackTaken a bm p).timeoutUs = 20 :=
  if_neg (by simpa using h)

end

/-- Settles O55: each row is one change of the peer's entry; what is sent after it, and the events raised, leave the connection itself. -/
theorem connectionRows : Obligations.ConnectionRows := by
  unfold Obligations.ConnectionRows
  refine ⟨fun s i port known ce h d hon hbad => ?_,
    fun s i port ce h d p hon hok hp hen hs hver htype hconn hmin hmax hpsn h32 hnew => ?_,
    fun s i port ce h d p hon hok hp hen hs hver htype hconn hmin hmax hlo hhi h32 hnew hsince => ?_,
    fun s i a ce bm p hon hp hen hs => ?_, fun s i p hp hs hun => ?_, fun s i p hp hs hrate => ?_, fun s i p hp hs hsince => ?_,
    fun s i p hon hp hen hs hports => ?_, fun s i conn shard ports p hon hp hen hne => ?_,
    fun s i conn shard ports p hon hp hen hs hc => ?_, fun s i conn shard ports p hon hp hen hs hports => ?_,
    fun s i p hon hp hen hs => ?_, fun s i p hp hs hun hports => ?_⟩
  · have hrow : exec (.dataPacket i known port h d ce) s = .next (dataPacket i known h d ce s) := rfl
    rw [hrow, dataPacket, if_neg (by simp [hon]), if_pos (by obtain h' | h' := hbad <;> simp [h'])]
  · have hrow : exec (.dataPacket i true port h d ce) s = .next (dataPacket i true h d ce s) := rfl
    rw [dataPacket_checked hon hok hp hen] at hrow
    obtain ⟨t, q, ht, hq, hrecv, hnext, hmsgs, hfew, hmany, hframe⟩ :=
      dataFrom_inOrder (d := d) (ce := ce) hp hs hver htype hconn hmin hmax hpsn h32 hnew
    refine ⟨t, q, by rw [hrow, ht], hq, hrecv, fun hid hms hlen => ?_, hfew, hmany, hframe⟩
    rw [hnext, hmsgs]
    exact takePacket_whole (p := { p with sinceAck := p.sinceAck + 1, ceSince := p.ceSince + b2n ce }) hid hms hlen
  · have hrow : exec (.dataPacket i true port h d ce) s = .next (dataPacket i true h d ce s) := rfl
    rw [dataPacket_checked hon hok hp hen, dataFrom_new hs hver htype hconn hmin hmax (by omega) hnew h32] at hrow
    dsimp only at hrow
    rw [if_neg (by omega)] at hrow
    obtain ⟨ms, m, hq⟩ := packetTaken_eq (p := p) (d := d) (ce := ce) h32
    obtain ⟨hrecv, hahead⟩ := psnTaken_ahead hlo hhi
    refine ⟨_, packetTaken h d ce p, hrow, tget_peerMod_const hp, ?_, ?_, ?_, packetTaken_frame⟩ <;> rw [hq]
    · exact hrecv
    · exact hahead
  · have hrow : exec (.ack i a bm ce) s = .next (fromPeer i (ackFrom i a bm ce) s) := rfl
    rw [fromPeer_enabled hon hp hen] at hrow
    obtain ⟨q, hq, hlink⟩ := ackFrom_leaves (a := a) (ce := ce) (bm := bm) hp hs
    obtain ⟨r, l, hcut⟩ := rateCut_eq (a := (p.unacked.filter (ackHits a bm)).length) (c := ce) (now := s.now) (p := ackTaken a bm p)
    obtain ⟨hstate, -, -, -, -, -, htimeout, hrate, hlast⟩ := linkOf_inj hlink
    refine ⟨_, q, hrow, hq, ?_, fun hqueued => ?_, fun hhit => ?_, fun hce => ?_, fun hce hhit hnone => ?_,
      frame_of_keeps (ackFrom_keeps (by decide) keeps_refl)⟩
    · rw [hstate, hcut]
      exact hs
    · have hrow' := ackFrom_empty (s := s) (i := i) (a := a) (ce := ce) (bm := bm) hs hqueued
      rw [hrow', tget_peerMod_const hp, hcut] at hq
      rw [hrow', ← Option.some.inj hq]
      exact ⟨rfl, rfl⟩
    · rw [htimeout, hcut]
      exact ackTaken_timeout hhit
    · rw [hrate, hce, rateCut_unmarked]
      rfl
    · have hne : (p.unacked.filter (ackHits a bm)).length ≠ 0 := fun h => hhit (List.length_eq_zero_iff.1 h)
      rw [hrate, hlast, rateCut_first (p := ackTaken a bm p) hce hne hnone]
      exact ⟨rfl, rfl⟩
  · have hrow : exec (.resendTimeout i) s = .next (resendTimeout i s) := rfl
    rw [resendTimeout, peerOf_of_tget hp, if_neg (by simp [hs, hun]), foldl_resent] at hrow
    refine ⟨_, hrow, rfl, ?_, frame_of_keeps (upd_cst (by decide) (upd_outbox (by decide) keeps_refl))⟩
    rw [tget_peerMod, hp, Option.map_some]
  · have hrow : exec (.rateIncrease i) s = .next (rateIncrease i s) := rfl
    refine ⟨_, hrow, ?_, frame_of_keeps (rateIncrease_keeps (by decide) keeps_refl)⟩
    rw [rateIncrease, tget_peerMod, hp, Option.map_some, if_pos ⟨hs, hrate⟩]
  · have hrow : exec (.ackDelayTimer i) s = .next (ackDelay i s) := rfl
    rw [ackDelay, peerOf_of_tget hp, if_pos ⟨hs, Nat.pos_of_ne_zero hsince⟩, sendAck_eq hp] at hrow
    refine ⟨_, _, hrow, rfl, fun k hk => getLsbD_aheadBits hk, ?_, frame_of_keeps (emit_keeps (by decide) (upd_cst (by decide) keeps_refl))⟩
    exact tget_peerMod.trans (by rw [hp, Option.map_some])
  · have hrow : exec (.helloRetry i) s = .next (helloRetry i s) := rfl
    rw [hrow, helloRetry, peerOf_of_tget hp, if_pos (by obtain h | h := hs <;> simp [hon, hen, h]), sendHello_eq hp hports]
    rfl
  · have hrow : exec (.helloAck i conn shard ports) s
        = .next (drainAll (fromPeer i (fun _ s => openConn i conn shard ports s) s)) := rfl
    rw [fromPeer_enabled hon hp hen] at hrow
    by_cases hs : p.state = 2
    · rw [openConn_other hp hs fun hc => hne ⟨hs, hc⟩] at hrow
      obtain ⟨⟨r, hr, -, -, -⟩, hports, -⟩ := connDown_leaves hp
      obtain ⟨q, hq, hlink⟩ := openFresh_entry (conn := conn) (shard := shard) (ports := ports) hr
      obtain ⟨hstate, hconn, -, hshard, hup, hrecv, htimeout, hrate, -⟩ := linkOf_inj hlink
      refine ⟨_, q, hrow, hq, hstate, hconn, hshard, hup, hrecv, htimeout, hrate.trans ?_, fun h => absurd hs h⟩
      rw [← portsMask_congr hports]
      rfl
    · rw [openConn_down hp hs] at hrow
      obtain ⟨q, hq, hlink⟩ := openFresh_entry (conn := conn) (shard := shard) (ports := ports) hp
      obtain ⟨hstate, hconn, -, hshard, hup, hrecv, htimeout, hrate, -⟩ := linkOf_inj hlink
      exact ⟨_, q, hrow, hq, hstate, hconn, hshard, hup, hrecv, htimeout, hrate, fun _ => openFresh_leaves.2⟩
  · have hrow : exec (.helloAck i conn shard ports) s
        = .next (drainAll (fromPeer i (fun _ s => openConn i conn shard ports s) s)) := rfl
    rw [hrow, fromPeer_enabled hon hp hen, openConn_same hp ⟨hs, hc⟩]
  · have hrow : exec (.hello i conn shard ports) s
        = .next (drainAll (fromPeer i (fun _ s => sendHello i true (openConn i conn shard ports s)) s)) := rfl
    obtain ⟨q, hq, hlink⟩ := openFresh_entry (conn := conn) (shard := shard) (ports := ports) hp
    obtain ⟨hstate, hconn, hown, hshard, hup, -, -, -, -⟩ := linkOf_inj hlink
    rw [fromPeer_enabled hon hp hen, openConn_down hp hs, sendHello_eq hq (by rw [portsMask_openFresh]; exact hports),
      portsMask_openFresh, hown] at hrow
    exact ⟨_, q, (openFresh i conn shard ports s).outbox, hrow, hq, hstate, hconn, hshard, hup, rfl,
      openFresh_leaves.2.of_logsKept ⟨rfl, rfl⟩⟩
  · have hrow : exec (.close i) s
        = .next (drainAll (fromPeer i (fun p s => if p.state = 2 then connDown i s else s) s)) := rfl
    rw [fromPeer_enabled hon hp hen, if_pos hs] at hrow
    obtain ⟨⟨q, hq, hstate, hev, hown⟩, -, hraised⟩ := connDown_leaves hp
    exact ⟨_, q, hrow, hq, hstate, hev, hown, hraised⟩
  · have hrow : exec (.connectionDown i) s = .next (drainAll (connectionDown i s)) := rfl
    have hfault : Keeps 192 s (blkFault (blkPage .cst 12) 0 0 (BitVec.ofNat 64 (i + 3 * 2 ^ 12)) s) := blkFault_keeps rfl keeps_refl
    rw [connectionDown_eq hp hs hun] at hrow
    generalize blkFault (blkPage .cst 12) 0 0 (BitVec.ofNat 64 (i + 3 * 2 ^ 12)) s = u at hrow hfault
    have hcst : u.cst = s.cst := hfault .cst rfl
    obtain ⟨⟨q, hq, hstate, hev, hown⟩, hp', hraised⟩ := connDown_leaves (s := u) (i := i) (p := p) (by rw [hcst]; exact hp)
    have hmask : portsMask (connDown i u) = portsMask s := portsMask_congr (hp'.trans (congrArg Consort.ports hcst))
    rw [sendHello_eq hq (by rw [hmask]; exact hports), hmask, hown, hcst] at hrow
    exact ⟨_, q, (connDown i u).outbox, hrow, hq, hstate, hev, by rw [hown, hcst], rfl,
      (hraised.of_eq (hfault .chn rfl) (hfault .now rfl)).of_logsKept ⟨rfl, rfl⟩⟩

end Sys2Proof.Machine

/-! SUPPORT. Translation: requests taken back, faults noted at the commands that wait, and what an answer leaves (R361 to R366,
R373 to R376). -/
namespace Sys2Proof.Machine

/-! ## Requests -/

section
variable {s u : State} {q : XlatReq} {d page kind : Nat}

/-- The state without an outstanding request. -/
def reqTaken (q : XlatReq) (s : State) : State := crookMod (fun c => { c with reqs := c.reqs.erase q }) s

theorem takeReq_some (h : s.crook.reqs.find? (fun q => q.dom = d ∧ q.va = page ∧ q.kind = kind) = some q) :
    takeReq d page kind s = some (q, reqTaken q s) := by
  unfold takeReq
  rw [h]
  rfl

/-- Taking a request back leaves none outstanding that was not. -/
theorem requested_erase (hu : u.crook.reqs = s.crook.reqs.erase q) (h : requested s d page kind = false) :
    requested u d page kind = false := by
  rw [requested, List.any_eq_false] at h ⊢
  exact fun r hr => h r (List.mem_of_mem_erase (hu ▸ hr))

theorem length_filter_erase_le {p : XlatReq → Bool} (hu : u.crook.reqs = s.crook.reqs.erase q) :
    (u.crook.reqs.filter p).length ≤ (s.crook.reqs.filter p).length :=
  hu ▸ (List.erase_sublist.filter p).length_le

theorem pageRoom_erase (hu : u.crook.reqs = s.crook.reqs.erase q) (h : pageRoom s = true) : pageRoom u = true :=
  decide_eq_true (lt_of_le_of_lt (length_filter_erase_le hu) (of_decide_eq_true h))

end

/-! ## Pages -/

theorem pageOf_dvd (va : Nat) : pageSize ∣ pageOf va := Nat.dvd_mul_left ..

theorem pageOf_pageOf (va : Nat) : pageOf (pageOf va) = pageOf va :=
  congrArg (· * pageSize) (Nat.mul_div_cancel _ (by decide))

/-! ## Faults noted at the commands that wait (R141, R367) -/

section
variable {s u t v : State} {d page n : Nat} {st : Bool → Option Nat} {but : List Nat} {x y z : Cmd} {c : Nat}

/-- One command takes the fault that a page has for it: the step of `noteFaults`. -/
def noteOne (page : Nat) (st : Bool → Option Nat) (s : State) (x : Cmd) : State :=
  match fieldFault page st x with
  | some (n, va) =>
    let f := crkFault (whoOf s x) va n
    cmdMod x.id (fun y => { y with xfault := some (n, va) })
      (blkFault f.page f.bit f.addr f.info (bumpSat (reg .crk 0 0x138) 0 32 1 s))
  | none => s

/-- The commands that take the fault of a page. -/
def faulted (d page : Nat) (st : Bool → Option Nat) (but : List Nat) (s : State) : List Cmd :=
  s.cmds.filter (fun x => x.phase = .waiting && x.xfault.isNone && domOf s x = d && (fieldFault page st x).isSome && x.id ∉ but)

theorem noteFaults_eq : noteFaults d page st but s = (faulted d page st but s, (faulted d page st but s).foldl (noteOne page st) s) := rfl

/-- Every command of number `c` has found a fault that the page has for a command. -/
def HasFault (page : Nat) (st : Bool → Option Nat) (c : Nat) (s : State) : Prop :=
  ∀ y ∈ s.cmds, y.id = c → ∃ z f, fieldFault page st z = some f ∧ y.xfault = some f

theorem noteOne_cmds {f : Nat × Nat} (h : fieldFault page st x = some f) :
    (noteOne page st s x).cmds = s.cmds.map (fun y => if y.id = x.id then { y with xfault := some f } else y) := by
  obtain ⟨n, va⟩ := f
  have hk : ∀ p b a i, (blkFault p b a i (bumpSat (reg .crk 0 0x138) 0 32 1 s)).cmds = s.cmds := fun p b a i =>
    blkFault_keeps (κ := 192) rfl (bumpSat_keeps (κ := 192) rfl keeps_refl) .cmds rfl
  unfold noteOne
  rw [h]
  dsimp only
  rw [cmdMod_cmds, hk]

/-- The command that takes a fault has it, and one that had found one still has one. -/
theorem hasFault_noteOne (hx : (fieldFault page st x).isSome) (hc : c = x.id ∨ HasFault page st c s) :
    HasFault page st c (noteOne page st s x) := by
  obtain ⟨f, hf⟩ := Option.isSome_iff_exists.mp hx
  intro y hy hid
  rw [noteOne_cmds hf, List.mem_map] at hy
  obtain ⟨y', hy', rfl⟩ := hy
  by_cases h : y'.id = x.id
  · rw [if_pos h]
    exact ⟨x, f, hf, rfl⟩
  · rw [if_neg h] at hid ⊢
    rcases hc with hc | hc
    · exact absurd (hid.trans hc) h
    · exact hc y' hy' hid

theorem hasFault_foldl {xs : List Cmd} (hxs : ∀ x ∈ xs, (fieldFault page st x).isSome)
    (hc : c ∈ xs.map Cmd.id ∨ HasFault page st c s) : HasFault page st c (xs.foldl (noteOne page st) s) := by
  induction xs generalizing s with
  | nil => exact hc.resolve_left (by simp)
  | cons x xs ih =>
    obtain ⟨hx, hxs'⟩ := List.forall_mem_cons.mp hxs
    refine ih hxs' ?_
    rw [List.map_cons, List.mem_cons, or_assoc] at hc
    rcases hc with h | h | h
    · exact .inr (hasFault_noteOne hx (.inl h))
    · exact .inl h
    · exact .inr (hasFault_noteOne hx (.inr h))

/-- Every command that takes a page's fault has found it. -/
theorem hasFault_noteFaults (hx : x ∈ faulted d page st but s) : HasFault page st x.id (noteFaults d page st but s).2 := by
  rw [noteFaults_eq]
  refine hasFault_foldl (fun y hy => ?_) (.inl (List.mem_map_of_mem hx))
  have hy' := (List.mem_filter.mp hy).2
  rw [Bool.and_eq_true, Bool.and_eq_true] at hy'
  exact hy'.1.2

theorem noteFaults_keeps_self : Keeps 8384 s (noteFaults d page st but s).2 := noteFaults_keeps rfl keeps_refl

/-- A page that has one fault for reads and writes has it for the commands that name the page. -/
theorem fieldFault_isSome : (fieldFault page (fun _ => some n) x).isSome ↔ ∃ p ∈ cmdAddrs x, pageOf p.1 = page := by
  unfold fieldFault
  rw [List.findSome?_isSome_iff]
  refine exists_congr fun p => and_congr_right fun _ => ?_
  split <;> simp [*]

theorem fieldFault_status {f : Nat × Nat} (h : fieldFault page (fun _ => some n) x = some f) : f.1 = n ∧ pageOf f.2 = page := by
  obtain ⟨p, -, hp⟩ := List.exists_of_findSome?_eq_some h
  split at hp
  case isTrue hpage =>
    obtain rfl := Option.some.inj hp
    exact ⟨rfl, hpage⟩
  case isFalse => cases hp

/-! ## A translation that has failed -/

/-- Between two states the commands that wait, the domains they run under and the faults kept are the same. -/
structure WaitersKept (s u : State) : Prop where
  cmds : ∀ x, x.phase = .waiting → (x ∈ u.cmds ↔ x ∈ s.cmds)
  dom : ∀ x, domOf u x = domOf s x
  failed : u.crook.failed = s.crook.failed

theorem domOf_congr (hc : u.cst = s.cst) (hq : u.queues = s.queues) : domOf u x = domOf s x := by
  unfold domOf whoOf
  rw [hc, hq]

theorem waitersKept_of (hcmds : u.cmds = s.cmds) (hc : u.cst = s.cst) (hq : u.queues = s.queues)
    (hf : u.crook.failed = s.crook.failed) : WaitersKept s u :=
  ⟨fun _ _ => by rw [hcmds], fun _ => domOf_congr hc hq, hf⟩

theorem WaitersKept.trans (h : WaitersKept s u) (h' : WaitersKept u v) : WaitersKept s v :=
  ⟨fun x hx => (h'.cmds x hx).trans (h.cmds x hx), fun x => (h'.dom x).trans (h.dom x), h'.failed.trans h.failed⟩

theorem mem_faulted_status : x ∈ faulted d page (fun _ => some n) [] s
    ↔ x ∈ s.cmds ∧ x.phase = .waiting ∧ x.xfault = none ∧ domOf s x = d ∧ ∃ p ∈ cmdAddrs x, pageOf p.1 = page := by
  unfold faulted
  rw [List.mem_filter, ← fieldFault_isSome (n := n)]
  simp [and_assoc]

/-- Of Crook's part a failed translation changes only the faults kept. -/
theorem xlatFailsBut_crook : ∃ fs, (xlatFailsBut but d page n s).crook = { s.crook with failed := fs } := by
  have hk : (noteFaults d page (fun _ => some n) but s).2.crook = s.crook := noteFaults_keeps_self .crook rfl
  unfold xlatFailsBut
  dsimp only
  split
  · exact ⟨_, by rw [cacheFail, crookMod_crook, hk]⟩
  · exact ⟨s.crook.failed, hk⟩

theorem xlatFails_crook : (xlatFails d page n s).crook = { s.crook with failed := (xlatFails d page n s).crook.failed } := by
  obtain ⟨fs, h⟩ := xlatFailsBut_crook (but := []) (d := d) (page := page) (n := n) (s := s)
  rw [xlatFails, h]

theorem xlatFails_cmds : (xlatFails d page n s).cmds = (noteFaults d page (fun _ => some n) [] s).2.cmds := by
  unfold xlatFails xlatFailsBut
  dsimp only
  split <;> rfl

theorem xlatFails_failed (h : faulted d page (fun _ => some n) [] s = []) :
    (xlatFails d page n s).crook.failed = s.crook.failed ++ [(d, page, n)] := by
  have hk : (noteFaults d page (fun _ => some n) [] s).2.crook = s.crook := noteFaults_keeps_self .crook rfl
  have hn : (noteFaults d page (fun _ => some n) [] s).1 = [] := h
  unfold xlatFails xlatFailsBut
  dsimp only
  rw [hn, decide_eq_true rfl, Bool.true_or, if_pos rfl, cacheFail, crookMod_crook, hk]

/-- A translation that fails once the waiting commands are as they were leaves its fault found. -/
theorem faultFound_xlatFails (h : WaitersKept s u) (hcmds : t.cmds = (xlatFails d page n u).cmds)
    (hcrook : t.crook = (xlatFails d page n u).crook) : FaultFound s t d page n := by
  refine ⟨fun x hx hw hnone hd hp y hy hid => ?_, fun hnobody => ?_⟩
  · have hmem : x ∈ faulted d page (fun _ => some n) [] u :=
      mem_faulted_status.mpr ⟨(h.cmds x hw).mpr hx, hw, hnone, (h.dom x).trans hd, hp⟩
    obtain ⟨z, f, hz, hf⟩ := hasFault_noteFaults hmem y (by rwa [← xlatFails_cmds, ← hcmds]) hid
    obtain ⟨rfl, hpage⟩ := fieldFault_status hz
    exact ⟨f.2, hf, hpage⟩
  · have hnil : faulted d page (fun _ => some n) [] u = [] := List.eq_nil_iff_forall_not_mem.mpr fun x hx => by
      obtain ⟨hx, hw, hnone, hd, hp⟩ := mem_faulted_status.mp hx
      exact hnobody x ((h.cmds x hw).mp hx) hw hnone ((h.dom x).symm.trans hd) hp
    rw [hcrook, xlatFails_failed hnil, h.failed]

/-! ## Reporting a failed answer -/

theorem atsError_cmds {status pcie : Nat} {addr : Word64} : (atsError d status addr pcie s).cmds = s.cmds :=
  atsError_keeps (κ := 2684485832) rfl keeps_refl .cmds rfl

theorem atsError_crook {status pcie : Nat} {addr : Word64} : (atsError d status addr pcie s).crook = s.crook :=
  atsError_keeps (κ := 2684485832) rfl keeps_refl .crook rfl

theorem raised_atsError {status pcie : Nat} {addr : Word64} (hc : u.chn = s.chn) (hn : u.now = s.now) :
    Raised s (atsError d status addr pcie u) 0x00E0 2 := by
  unfold atsError
  have hk : ∀ p b a i, Keeps 192 u (blkFault p b a i u) := fun _ _ _ _ => blkFault_keeps rfl keeps_refl
  exact raised_raise.of_eq ((hk _ _ _ _ .chn rfl).trans hc) ((hk _ _ _ _ .now rfl).trans hn)

end

/-! ## An answer arrives (R362) -/

section
variable {s u : State} {q : XlatReq} {d va page ns n : Nat} {a : AtsAnswer}

/-- The state when an answer has arrived: its request is taken back, its time is counted, and a late one is the host's fault. -/
def arrived (d page ns : Nat) (q : XlatReq) (s : State) : State :=
  let s := atsLatency ns (reqTaken q s)
  if ns > 2000 then blameHost (touchesPage s d page) s else s

theorem arrived_keeps : Keeps 4202560 s (arrived d page ns q s) := by
  have h : Keeps 4202560 s (atsLatency ns (reqTaken q s)) := atsLatency_keeps rfl (crookMod_keeps rfl keeps_refl)
  unfold arrived
  dsimp only
  split
  · exact blameHost_keeps rfl h
  · exact h

theorem arrived_crook : (arrived d page ns q s).crook = { s.crook with reqs := s.crook.reqs.erase q } := by
  have h : (atsLatency ns (reqTaken q s)).crook = (reqTaken q s).crook := atsLatency_keeps (κ := 64) rfl keeps_refl .crook rfl
  unfold arrived
  dsimp only
  split
  · exact h
  · exact h

/-- Blaming the host for commands in execution leaves those that wait. -/
theorem mem_blameHost {x : Cmd} {f : Cmd → Bool} (hf : ∀ y, f y = true → y.phase ≠ .waiting) (hx : x.phase = .waiting) :
    x ∈ (blameHost f s).cmds ↔ x ∈ s.cmds := by
  have hfx : f x = false := Bool.eq_false_iff.mpr fun h => hf x h hx
  refine List.mem_map.trans ⟨fun ⟨y, hy, he⟩ => ?_, fun h => ⟨x, h, by rw [hfx]; rfl⟩⟩
  cases hfy : f y with
  | false =>
    rw [hfy, if_neg Bool.false_ne_true] at he
    exact he ▸ hy
  | true =>
    rw [hfy, if_pos rfl] at he
    exact absurd ((congrArg Cmd.phase he).trans hx) (hf y hfy)

theorem not_waiting_of_touchesPage {x : Cmd} (h : touchesPage s d page x = true) : x.phase ≠ .waiting := by
  intro hw
  simp [touchesPage, hw] at h

theorem waitersKept_arrived : WaitersKept s (arrived d page ns q s) where
  cmds x hx := by
    have h : (atsLatency ns (reqTaken q s)).cmds = s.cmds :=
      atsLatency_keeps (κ := 4194368) rfl (crookMod_keeps rfl keeps_refl) .cmds rfl
    unfold arrived
    dsimp only
    split
    · rw [mem_blameHost (fun _ => not_waiting_of_touchesPage) hx, h]
    · rw [h]
  dom x := domOf_congr (arrived_keeps .cst rfl) (arrived_keeps .queues rfl)
  failed := by rw [arrived_crook]

theorem atsCompletion_eq (h : s.crook.reqs.find? (fun q => q.dom = d ∧ q.va = pageOf va ∧ q.kind = 0) = some q) :
    atsCompletion d va a ns s = if q.stale then arrived d (pageOf va) ns q s
      else match a with
        | .failed pcie => atsError d 0x02 (dvAddr (pageOf va)) pcie (xlatFails d (pageOf va) 0x02 (arrived d (pageOf va) ns q s))
        | .page size bus r w u =>
          if size < pageSize then xlatFails d (pageOf va) 0x04 (arrived d (pageOf va) ns q s)
          else if !r && !w then notPresent d (pageOf va) (arrived d (pageOf va) ns q s)
          else (noteFaults d (pageOf va) (fun wr => if wr && !w then some 0x11 else if !wr && !r then some 0x10 else none) []
            (cachePut (atsEntry d (pageOf va) size bus r w u) (arrived d (pageOf va) ns q s))).2 := by
  unfold atsCompletion
  dsimp only
  rw [takeReq_some h]
  cases a <;> rfl

theorem priOpen_arrived : priOpen (arrived d page ns q s) n = priOpen s n := by
  unfold priOpen
  rw [arrived_crook, arrived_keeps .domains rfl]

theorem mem_pageWaiters_arrived {x : Cmd} :
    x ∈ pageWaiters (arrived d page ns q s) n va ↔ x ∈ pageWaiters s n va := by
  have hb : boundedCls (arrived d page ns q s) x.queue = boundedCls s x.queue := by
    unfold boundedCls clsData clsOf
    rw [arrived_keeps .classes rfl, arrived_keeps .queues rfl]
  unfold pageWaiters
  rw [List.mem_filter, List.mem_filter, hb, priOpen_arrived, waitersKept_arrived.dom]
  constructor
  · rintro ⟨hm, hp⟩
    have hw : x.phase = .waiting := by simp only [Bool.and_eq_true, decide_eq_true_eq] at hp; tauto
    exact ⟨(waitersKept_arrived.cmds x hw).mp hm, hp⟩
  · rintro ⟨hm, hp⟩
    have hw : x.phase = .waiting := by simp only [Bool.and_eq_true, decide_eq_true_eq] at hp; tauto
    exact ⟨(waitersKept_arrived.cmds x hw).mpr hm, hp⟩

theorem pageWaiters_arrived_nil : pageWaiters (arrived d page ns q s) n va = [] ↔ pageWaiters s n va = [] := by
  simp only [List.eq_nil_iff_forall_not_mem, mem_pageWaiters_arrived]

theorem pageWaiters_of_closed (h : priOpen s d = false) : pageWaiters s d page = [] := by
  simp [pageWaiters, h]

/-- Where no command waits for a page request, a page that is not present is a fault. -/
theorem notPresent_of_nobody (h : pageWaiters s d page = []) : notPresent d page s = xlatFails d page 0x03 s := by
  unfold notPresent
  dsimp only
  rw [h]
  rfl

theorem notPresent_of_waiters (h : pageWaiters s d page ≠ []) (hr : requested s d page 1 = false) (hroom : pageRoom s = true) :
    ∃ w, notPresent d page s = askPage d page w (xlatFailsBut ((pageWaiters s d page).map Cmd.id) d page 0x03 s) := by
  obtain ⟨fs, hc⟩ := xlatFailsBut_crook (but := (pageWaiters s d page).map Cmd.id) (d := d) (page := page) (n := 0x03) (s := s)
  have hr' : requested (xlatFailsBut ((pageWaiters s d page).map Cmd.id) d page 0x03 s) d page 1 = false := by
    rw [← hr]; unfold requested; rw [hc]
  have hroom' : pageRoom (xlatFailsBut ((pageWaiters s d page).map Cmd.id) d page 0x03 s) = true := by
    rw [← hroom]; unfold pageRoom; rw [hc]
  unfold notPresent
  dsimp only
  rw [if_neg (by simp [h, hr', hroom'])]
  exact ⟨_, rfl⟩

theorem askPage_crook {w : Bool} : (askPage d page w s).crook
    = { s.crook with reqs := s.crook.reqs ++ [{ dom := d, va := page, write := w, kind := 1, stale := false }] } := rfl

theorem askPage_outbox {w : Bool} : (askPage d page w s).outbox = s.outbox ++ [.pageRequest d page w] := rfl

theorem cachePut_head {e : CacheEntry} : (cachePut e s).crook.cache.head? = some e := rfl

/-- The entry that an answer gives covers the page; below 1 GiB it is the page, at its place in the answer's range. -/
theorem atsEntry_covers {size bus : Nat} {r w u : Bool} :
    (atsEntry d (pageOf va) size bus r w u).va ≤ pageOf va
    ∧ pageOf va < (atsEntry d (pageOf va) size bus r w u).va + (atsEntry d (pageOf va) size bus r w u).size
    ∧ (size < 2 ^ 30 → (atsEntry d (pageOf va) size bus r w u).va = pageOf va
      ∧ (atsEntry d (pageOf va) size bus r w u).bus = bus + pageOf va % size) := by
  have hcover : ∀ z, 0 < z → pageOf va / z * z ≤ pageOf va ∧ pageOf va < pageOf va / z * z + z := fun z hz =>
    ⟨Nat.div_mul_le_self _ _, Nat.lt_div_mul_add hz⟩
  unfold atsEntry
  dsimp only
  split
  case isTrue hbig => exact ⟨(hcover _ (by decide)).1, (hcover _ (by decide)).2, fun h => absurd h (by omega)⟩
  case isFalse hsmall =>
    have hva : pageOf va / pageSize * pageSize = pageOf va := pageOf_pageOf va
    refine ⟨(hcover _ (by decide)).1, (hcover _ (by decide)).2, fun _ => ⟨hva, ?_⟩⟩
    rw [hva, Nat.mod_eq_sub_div_mul]

end

end Sys2Proof.Machine

/-! SUPPORT and the statement of translation: answers to page requests and table reads, invalidation, and Crook's rows (R358, R361 to
R366, R373, R374, R376). -/
namespace Sys2Proof.Machine

/-! ## Page requests (R363) -/

section
variable {s u : State} {q : XlatReq} {d va page : Nat} {w : Bool} {a : PriAnswer}

theorem requestAgain_open (ha : s.crook.atsEnable = true) (hr : requested s d page 0 = false) (hi : invalidating s d page = false)
    (hroom : (s.crook.reqs.filter (fun q => q.kind = 0)).length < 1024) :
    (requestAgain d page w s).crook
        = { s.crook with reqs := s.crook.reqs ++ [{ dom := d, va := page, write := w, kind := 0, stale := false }] }
      ∧ (requestAgain d page w s).outbox = s.outbox ++ [.atsRequest d page w] := by
  unfold requestAgain
  rw [ha, hr, hi, decide_eq_false (Nat.not_le.mpr hroom)]
  exact ⟨rfl, rfl⟩

/-- What a page request that has failed reports before its page is marked. -/
def priNoted (d page : Nat) (s : State) : State :=
  bumpSat (reg .crk 0 0x130) 32 32 1
    (blkFault (blkPage .crk 0) 3 (dvAddr page) (BitVec.ofNat 64 (0x05 + d * 256 + 0x7FFF * 65536)) s)

theorem priFailed_eq : priFailed d page s = xlatFails d page 0x05 (priNoted d page s) := rfl

theorem priNoted_keeps : Keeps 192 s (priNoted d page s) := bumpSat_keeps rfl (blkFault_keeps rfl keeps_refl)

theorem waitersKept_priNoted : WaitersKept s (priNoted d page s) :=
  waitersKept_of (priNoted_keeps .cmds rfl) (priNoted_keeps .cst rfl) (priNoted_keeps .queues rfl)
    (congrArg Crook.failed (priNoted_keeps .crook rfl))

/-- A page request that fails leaves its fault found, and of Crook's part nothing else. -/
theorem priFailed_leaves (h : WaitersKept s u) : FaultFound s (priFailed d page u) d page 0x05
    ∧ (priFailed d page u).crook = { u.crook with failed := (priFailed d page u).crook.failed } := by
  have hc : (priNoted d page u).crook = u.crook := priNoted_keeps .crook rfl
  rw [priFailed_eq]
  refine ⟨faultFound_xlatFails (h.trans waitersKept_priNoted) rfl rfl, ?_⟩
  rw [xlatFails_crook, hc]

/-- A request's answer of failure closes the page request interface (R363). -/
def priStop (b : Bool) (s : State) : State := crookMod (fun c => { c with priStopped := c.priStopped || b }) s

theorem pageResponse_failure (h : s.crook.reqs.find? (fun q => q.dom = d ∧ q.va = pageOf va ∧ q.kind = 1) = some q) (ha : a ≠ .success) :
    pageResponse d va a s = priFailed d (pageOf va) (priStop (decide (a = .responseFailure)) (reqTaken q s)) := by
  unfold pageResponse priStop
  dsimp only
  rw [takeReq_some h]
  cases a with
  | success => exact absurd rfl ha
  | invalidRequest => simp [reqTaken, crookMod]
  | responseFailure => simp [reqTaken, crookMod]

theorem pageResponse_success (h : s.crook.reqs.find? (fun q => q.dom = d ∧ q.va = pageOf va ∧ q.kind = 1) = some q) :
    ∃ w, pageResponse d va .success s = requestAgain d (pageOf va) w (reqTaken q s) := by
  unfold pageResponse
  dsimp only
  rw [takeReq_some h]
  exact ⟨_, rfl⟩

theorem pageTimeout_eq (h : s.crook.reqs.find? (fun q => q.dom = d ∧ q.va = pageOf va ∧ q.kind = 1) = some q) :
    pageTimeout d va s = priFailed d (pageOf va) (reqTaken q s) := by
  unfold pageTimeout
  rw [takeReq_some h]

theorem waitersKept_reqTaken : WaitersKept s (reqTaken q s) := waitersKept_of rfl rfl rfl rfl

end

/-! ## The granule of a region table (R358, R364) -/

section
variable {s : State} {q : XlatReq} {d va page first i m : Nat} {g : Region} {boot : Bool} {es : List Word64} {c e : CacheEntry}

/-- A new entry takes the place of one of its address, and keeps every other while the cache has room. -/
theorem mem_cachePut (hroom : s.crook.cache.length < 65536) (hc : c ∈ s.crook.cache) (hne : c.va ≠ e.va) :
    c ∈ (cachePut e s).crook.cache := by
  have hlen : ∀ p : CacheEntry → Bool, (s.crook.cache.filter p).length < 65536 := fun p =>
    lt_of_le_of_lt (List.length_filter_le _ _) hroom
  unfold cachePut
  rw [crookMod_crook]
  dsimp only
  rw [if_neg (Nat.not_le.mpr (hlen _))]
  exact .tail _ (List.mem_filter.mpr ⟨hc, by simp [hne]⟩)

theorem length_cachePut_le (hroom : s.crook.cache.length < 65536) :
    (cachePut e s).crook.cache.length ≤ s.crook.cache.length + 1 := by
  have hlen : ∀ p : CacheEntry → Bool, (s.crook.cache.filter p).length ≤ s.crook.cache.length := fun p => List.length_filter_le _ _
  unfold cachePut
  rw [crookMod_crook]
  dsimp only
  rw [if_neg (Nat.not_le.mpr (lt_of_le_of_lt (hlen _) hroom)), List.length_cons]
  exact Nat.succ_le_succ (hlen _)

theorem cachePut_rest : (cachePut e s).crook = { s.crook with cache := (cachePut e s).crook.cache } := rfl

/-- The page that entry `i` of a granule maps. -/
def granulePage (g : Region) (first i : Nat) : Nat := g.base + (first + i) * pageSize

/-- One entry of a granule: the step of `cacheGranule`. -/
def granuleStep (d : Nat) (g : Region) (first : Nat) (es : List Word64) (s : State) (i : Nat) : State :=
  if tableValid (es.getD i 0) && inRegion g (granulePage g first i) && !invalidating s d (granulePage g first i) then
    cachePut (tableEntry d (granulePage g first i) (es.getD i 0)) s
  else s

theorem cacheGranule_eq : cacheGranule d g first es s = (List.range (min 8 es.length)).foldl (granuleStep d g first es) s := rfl

/-- The first `m` entries add at most `m` to the cache, and change nothing else of Crook's part. -/
theorem granule_grows (hm : s.crook.cache.length + m ≤ 65536) :
    ((List.range m).foldl (granuleStep d g first es) s).crook.cache.length ≤ s.crook.cache.length + m
    ∧ ((List.range m).foldl (granuleStep d g first es) s).crook
        = { s.crook with cache := ((List.range m).foldl (granuleStep d g first es) s).crook.cache } := by
  induction m with
  | zero => exact ⟨le_rfl, rfl⟩
  | succ m ih =>
    obtain ⟨hlen, hrest⟩ := ih (by omega)
    rw [List.range_succ, List.foldl_append, List.foldl_cons, List.foldl_nil]
    generalize (List.range m).foldl (granuleStep d g first es) s = t at hlen hrest
    unfold granuleStep
    split
    · refine ⟨(length_cachePut_le (by omega)).trans (by omega), ?_⟩
      rw [cachePut_rest, hrest]
    · exact ⟨by omega, hrest⟩

theorem granulePage_ne {j : Nat} (h : i ≠ j) : granulePage g first i ≠ granulePage g first j := fun he =>
  h (Nat.add_left_cancel (Nat.eq_of_mul_eq_mul_right (by decide : 0 < pageSize) (Nat.add_left_cancel he)))

/-- A valid entry of a page in the region is cached, and stays while the rest of its granule is. -/
theorem mem_granule (hm : s.crook.cache.length + m ≤ 65536) (hi : i < m) (hv : tableValid (es.getD i 0) = true)
    (hg : inRegion g (granulePage g first i) = true) (hinv : s.crook.invals = []) :
    tableEntry d (granulePage g first i) (es.getD i 0) ∈ ((List.range m).foldl (granuleStep d g first es) s).crook.cache := by
  induction m with
  | zero => exact absurd hi (Nat.not_lt_zero i)
  | succ m ih =>
    obtain ⟨hlen, hrest⟩ := granule_grows (d := d) (g := g) (first := first) (es := es) (m := m) (s := s) (by omega)
    have ih' := ih (by omega)
    rw [List.range_succ, List.foldl_append, List.foldl_cons, List.foldl_nil]
    generalize (List.range m).foldl (granuleStep d g first es) s = t at hlen hrest ih'
    have hfree : ∀ p, invalidating t d p = false := fun p => by
      unfold invalidating
      rw [hrest, hinv]
      rfl
    rcases Nat.lt_succ_iff_lt_or_eq.mp hi with hlt | rfl
    · unfold granuleStep
      split
      · exact mem_cachePut (by omega) (ih' hlt) (granulePage_ne (Nat.ne_of_lt hlt))
      · exact ih' hlt
    · unfold granuleStep
      rw [hv, hg, hfree]
      exact .head _

/-- The page is entry `i % 8` of its granule. -/
theorem granulePage_page (hbase : g.base % 2 ^ 21 = 0) (hin : inRegion g (pageOf va) = true) :
    granulePage g ((pageOf va - g.base) / pageSize / 8 * 8) ((pageOf va - g.base) / pageSize % 8) = pageOf va := by
  have hle : g.base ≤ pageOf va := by
    rw [inRegion, Bool.and_eq_true, decide_eq_true_eq, decide_eq_true_eq] at hin
    exact hin.1
  have hdvd : pageSize ∣ pageOf va - g.base := Nat.dvd_sub (pageOf_dvd va) (Nat.dvd_of_mod_eq_zero hbase)
  rw [granulePage, Nat.div_add_mod', Nat.div_mul_cancel hdvd, Nat.add_sub_cancel' hle]

theorem tableReadDone_entries (h : s.crook.reqs.find? (fun q => q.dom = d ∧ q.va = pageOf va ∧ q.kind = 2) = some q)
    (hg : regionOf s d (pageOf va) = some (g, boot)) (hq : q.stale = false)
    (hv : tableValid (es.getD ((pageOf va - g.base) / pageSize % 8) 0) = true) :
    tableReadDone d va (.entries es) s = cacheGranule d g ((pageOf va - g.base) / pageSize / 8 * 8) es (reqTaken q s) := by
  simp only [tableReadDone, takeReq_some h, hg, hq, hv, if_true, Bool.false_eq_true, if_false]

theorem tableReadDone_refused {pcie : Nat} (h : s.crook.reqs.find? (fun q => q.dom = d ∧ q.va = pageOf va ∧ q.kind = 2) = some q)
    (hg : regionOf s d (pageOf va) = some (g, boot)) (hq : q.stale = false) :
    tableReadDone d va (.refused pcie) s = atsError d 0x06 (BitVec.ofNat 64 (granuleOf g (pageOf va) % 2 ^ 62)) pcie
      (xlatFails d (pageOf va) 0x06 (reqTaken q s)) := by
  simp only [tableReadDone, takeReq_some h, hg, hq, Bool.false_eq_true, if_false]

end

/-! ## Invalidation (R373, R374, R376) -/

section
variable {s : State} {n d base len ns : Nat} {cmd : Option Nat} {i : Inval} {x : Cmd}

/-- What the beginning of an invalidation makes of Crook's part. -/
def invalBegun (n d base len : Nat) (cmd : Option Nat) (c : Crook) : Crook :=
  { c with
    cache := c.cache.map (fun e => if entryIn d base len e then { e with withdrawn := true, holds := 0 } else e)
    reqs := c.reqs.map (fun r => if r.kind ≠ 1 && pageIn d base len r.dom r.va then { r with stale := true } else r)
    failed := c.failed.filter (fun f => !pageIn d base len f.1 f.2.1)
    invals := c.invals ++ [{ n := n, dom := d, base := base, len := len, cmd := cmd }]
    nextInval := max c.nextInval (n + 1) }

theorem beginInval_crook : (beginInval n d base len cmd s).crook = invalBegun n d base len cmd s.crook := by
  unfold beginInval
  dsimp only
  split <;> rfl

theorem invalBegun_withdraws {c : Crook} : ∀ e ∈ (invalBegun n d base len cmd c).cache, entryIn d base len e = true →
    e.withdrawn = true ∧ e.holds = 0 := by
  intro e he hin
  obtain ⟨e', -, rfl⟩ := List.mem_map.mp he
  by_cases h : entryIn d base len e' = true
  · rw [if_pos h]
    exact ⟨rfl, rfl⟩
  · rw [if_neg h] at hin
    exact absurd hin h

/-- A request of the host without a PASID is for domain 0, under the next number. -/
theorem atsInvalidate_none : ∃ f, atsInvalidate none base len s = beginInval s.crook.nextInval 0 base len none (blameHost f s) := ⟨_, rfl⟩

/-- The state when an invalidation has drained: its entries are freed and it is counted. -/
def drained (n ns : Nat) (s : State) : State :=
  invalCount ns (crookMod (fun c =>
    { c with
      invals := s.crook.invals.filter (fun j => j.n ≠ n)
      cache := c.cache.filter (fun e => !(e.withdrawn && (s.crook.invals.filter (fun j => j.n = n)).any (fun j => entryIn j.dom j.base j.len e)
        && !(s.crook.invals.filter (fun j => j.n ≠ n)).any (fun j => entryIn j.dom j.base j.len e))) }) s)

theorem invalDrained_eq (h : s.crook.invals.find? (fun j => j.n = n) = some i) (hw : releaseWaits s i = false) :
    invalDrained n ns s = match i.cmd with
      | none => emit (.invalidateDone n) (drained n ns s)
      | some c => if (cmdGet (drained n ns s) c).any (fun x => x.work = .wait 2 n) then finish c id (drained n ns s) else drained n ns s := by
  unfold invalDrained
  rw [h]
  dsimp only
  rw [hw, if_neg Bool.false_ne_true]
  cases i.cmd <;> rfl

theorem drained_keeps : Keeps 4194368 s (drained n ns s) := invalCount_keeps rfl (crookMod_keeps rfl keeps_refl)

theorem drained_invals : (drained n ns s).crook.invals = s.crook.invals.filter (fun j => j.n ≠ n) := by
  unfold drained
  rw [(invalCount_keeps (κ := 64) rfl keeps_refl) .crook rfl]
  rfl

end

/-! ## The enables (R363, R365) -/

theorem atsCleared_leaves {s : State} : (atsCleared s).crook.atsEnable = false
    ∧ (atsCleared s).crook.cache = s.crook.cache.filter (fun e => !e.ats)
    ∧ (atsCleared s).chn.epoch = s.chn.epoch + (if s.crook.cache.any (fun e => e.ats) then 1 else 0) := by
  unfold atsCleared
  dsimp only
  cases s.crook.cache.any CacheEntry.ats <;> exact ⟨rfl, rfl, rfl⟩

/-! ## The statement -/

section
variable {s : State} {q : XlatReq} {d va ns : Nat}

/-- A translation that grants an access is cached in front. -/
theorem atsCompletion_granted {size bus : Nat} {r w u : Bool} (hsize : 2 ^ 21 ≤ size) (hrw : r = true ∨ w = true) (hq : q.stale = false)
    (hf : s.crook.reqs.find? (fun q => q.dom = d ∧ q.va = pageOf va ∧ q.kind = 0) = some q) :
    (atsCompletion d va (.page size bus r w u) ns s).crook
      = (cachePut (atsEntry d (pageOf va) size bus r w u) (arrived d (pageOf va) ns q s)).crook := by
  have hgrant : ¬((!r && !w) = true) := by rcases hrw with h | h <;> simp [h]
  rw [atsCompletion_eq hf, hq, if_neg Bool.false_ne_true]
  dsimp only
  rw [if_neg (show ¬ size < pageSize from Nat.not_lt.mpr hsize), if_neg hgrant]
  exact noteFaults_keeps_self .crook rfl

/-- A failed translation leaves the cache, its fault found and its request taken back. -/
theorem xlatFails_arrived {n : Nat} : (xlatFails d (pageOf va) n (arrived d (pageOf va) ns q s)).crook.cache = s.crook.cache
    ∧ FaultFound s (xlatFails d (pageOf va) n (arrived d (pageOf va) ns q s)) d (pageOf va) n
    ∧ (xlatFails d (pageOf va) n (arrived d (pageOf va) ns q s)).crook.reqs = s.crook.reqs.erase q := by
  refine ⟨?_, faultFound_xlatFails waitersKept_arrived rfl rfl, ?_⟩ <;> rw [xlatFails_crook, arrived_crook]

theorem atsCompletion_refused {size bus : Nat} {r w u : Bool} (hno : size < 2 ^ 21 ∨ (r = false ∧ w = false ∧ priOpen s d = false))
    (hq : q.stale = false) (hf : s.crook.reqs.find? (fun q => q.dom = d ∧ q.va = pageOf va ∧ q.kind = 0) = some q) :
    atsCompletion d va (.page size bus r w u) ns s
      = xlatFails d (pageOf va) (if size < 2 ^ 21 then 0x04 else 0x03) (arrived d (pageOf va) ns q s) := by
  rw [atsCompletion_eq hf, hq, if_neg Bool.false_ne_true]
  dsimp only
  by_cases hsize : size < pageSize
  · rw [if_pos hsize, if_pos (show size < 2 ^ 21 from hsize)]
  · rw [if_neg hsize, if_neg (show ¬ size < 2 ^ 21 from hsize)]
    obtain ⟨rfl, rfl, hpri⟩ := hno.resolve_left hsize
    exact notPresent_of_nobody (pageWaiters_of_closed (priOpen_arrived.trans hpri))

theorem atsCompletion_asks {size bus : Nat} {u : Bool} (hsize : 2 ^ 21 ≤ size) (hq : q.stale = false)
    (hf : s.crook.reqs.find? (fun q => q.dom = d ∧ q.va = pageOf va ∧ q.kind = 0) = some q)
    (hwait : (pageWaiters s d (pageOf va)).length ≠ 0) (hreq : requested s d (pageOf va) 1 = false) (hroom : pageRoom s = true) :
    ∃ w, (atsCompletion d va (.page size bus false false u) ns s).crook.cache = s.crook.cache
      ∧ (atsCompletion d va (.page size bus false false u) ns s).crook.reqs
        = s.crook.reqs.erase q ++ [{ dom := d, va := pageOf va, write := w, kind := 1, stale := false }]
      ∧ (atsCompletion d va (.page size bus false false u) ns s).outbox = s.outbox ++ [.pageRequest d (pageOf va) w] := by
  have hreqs : (arrived d (pageOf va) ns q s).crook.reqs = s.crook.reqs.erase q := by rw [arrived_crook]
  have hne : pageWaiters (arrived d (pageOf va) ns q s) d (pageOf va) ≠ [] := fun h =>
    hwait (List.length_eq_zero_iff.mpr (pageWaiters_arrived_nil.mp h))
  obtain ⟨w, hask⟩ := notPresent_of_waiters hne (requested_erase hreqs hreq) (pageRoom_erase hreqs hroom)
  have heq : atsCompletion d va (.page size bus false false u) ns s = notPresent d (pageOf va) (arrived d (pageOf va) ns q s) := by
    rw [atsCompletion_eq hf, hq, if_neg Bool.false_ne_true]
    dsimp only
    rw [if_neg (show ¬ size < pageSize from Nat.not_lt.mpr hsize)]
    rfl
  rw [heq, hask, askPage_crook, askPage_outbox]
  generalize (pageWaiters (arrived d (pageOf va) ns q s) d (pageOf va)).map Cmd.id = but
  obtain ⟨fs, hc⟩ := xlatFailsBut_crook (but := but) (d := d) (page := pageOf va) (n := 0x03) (s := arrived d (pageOf va) ns q s)
  have hout : (xlatFailsBut but d (pageOf va) 0x03 (arrived d (pageOf va) ns q s)).outbox = s.outbox :=
    (xlatFailsBut_keeps (κ := 4202688) rfl keeps_refl .outbox rfl).trans (arrived_keeps .outbox rfl)
  rw [hc, hout, arrived_crook]
  exact ⟨w, rfl, rfl, rfl⟩

theorem pageResponse_again (hf : s.crook.reqs.find? (fun q => q.dom = d ∧ q.va = pageOf va ∧ q.kind = 1) = some q)
    (hon : s.crook.atsEnable = true) (hreq : requested s d (pageOf va) 0 = false) (hinv : invalidating s d (pageOf va) = false)
    (hroom : (s.crook.reqs.filter (fun q => q.kind = 0)).length < 1024) :
    ∃ w, (pageResponse d va .success s).crook
        = { s.crook with reqs := s.crook.reqs.erase q ++ [{ dom := d, va := pageOf va, write := w, kind := 0, stale := false }] }
      ∧ (pageResponse d va .success s).outbox = s.outbox ++ [.atsRequest d (pageOf va) w] := by
  obtain ⟨w, h⟩ := pageResponse_success hf
  have hreqs : (reqTaken q s).crook.reqs = s.crook.reqs.erase q := rfl
  obtain ⟨hc, ho⟩ := requestAgain_open (s := reqTaken q s) (d := d) (page := pageOf va) (w := w) hon (requested_erase hreqs hreq) hinv
    (lt_of_le_of_lt (length_filter_erase_le hreqs) hroom)
  rw [h]
  exact ⟨w, hc, ho⟩

theorem tableReadDone_caches {g : Region} {boot : Bool} {es : List Word64} {e : Word64} (hq : q.stale = false)
    (hf : s.crook.reqs.find? (fun q => q.dom = d ∧ q.va = pageOf va ∧ q.kind = 2) = some q)
    (hg : regionOf s d (pageOf va) = some (g, boot)) (he : es[(pageOf va - g.base) / 2 ^ 21 % 8]? = some e)
    (hv : tableValid e = true) (hbase : g.base % 2 ^ 21 = 0) (hin : inRegion g (pageOf va) = true) (hinv : s.crook.invals = [])
    (hroom : s.crook.cache.length ≤ 65000) :
    tableEntry d (pageOf va) e ∈ (tableReadDone d va (.entries es) s).crook.cache
      ∧ (tableReadDone d va (.entries es) s).crook.failed = s.crook.failed := by
  obtain ⟨hlt, -⟩ := List.getElem?_eq_some_iff.mp he
  have hget : es.getD ((pageOf va - g.base) / pageSize % 8) 0 = e := List.getD_eq_getElem?_getD.trans (by
    rw [show es[(pageOf va - g.base) / pageSize % 8]? = some e from he]; rfl)
  have hidx : (pageOf va - g.base) / pageSize % 8 < min 8 es.length := lt_min (Nat.mod_lt _ (by decide)) hlt
  have hlen : (reqTaken q s).crook.cache.length + min 8 es.length ≤ 65536 := by
    have h : (reqTaken q s).crook.cache.length ≤ 65000 := hroom
    omega
  have hpage := granulePage_page hbase hin
  have hmem := mem_granule (d := d) (g := g) (first := (pageOf va - g.base) / pageSize / 8 * 8) hlen hidx (hget.symm ▸ hv)
    (hpage.symm ▸ hin) hinv
  obtain ⟨-, hrest⟩ := granule_grows (d := d) (g := g) (first := (pageOf va - g.base) / pageSize / 8 * 8) (es := es) hlen
  rw [tableReadDone_entries hf hg hq (by rw [hget, hv]), cacheGranule_eq]
  rw [hget, hpage] at hmem
  exact ⟨hmem, by rw [hrest]; rfl⟩

/-- A fault that is also reported to the host by an event (R362, R364). -/
theorem atsError_reports {u : State} {n pcie : Nat} {addr : Word64} (h : WaitersKept s u) (hcache : u.crook.cache = s.crook.cache)
    (hchn : u.chn = s.chn) (hnow : u.now = s.now) :
    (atsError d n addr pcie (xlatFails d (pageOf va) n u)).crook.cache = s.crook.cache
      ∧ FaultFound s (atsError d n addr pcie (xlatFails d (pageOf va) n u)) d (pageOf va) n
      ∧ Raised s (atsError d n addr pcie (xlatFails d (pageOf va) n u)) 0x00E0 2 := by
  have hk : Keeps 4202688 u (xlatFails d (pageOf va) n u) := xlatFails_keeps rfl keeps_refl
  refine ⟨?_, faultFound_xlatFails h atsError_cmds atsError_crook, raised_atsError ((hk .chn rfl).trans hchn) ((hk .now rfl).trans hnow)⟩
  rw [atsError_crook, xlatFails_crook]
  exact hcache

theorem invalDrained_host {i : Inval} (h : s.crook.invals.find? (fun j => j.n = i.n) = some i) (hc : i.cmd = none) :
    (invalDrained i.n ns s).crook.invals = s.crook.invals.filter (fun j => j.n ≠ i.n)
      ∧ (invalDrained i.n ns s).outbox = s.outbox ++ [.invalidateDone i.n] ∧ (invalDrained i.n ns s).cmds = s.cmds := by
  have hw : releaseWaits s i = false := by rw [releaseWaits, hc]; rfl
  rw [invalDrained_eq h hw, hc]
  exact ⟨drained_invals, congrArg (· ++ _) (drained_keeps .outbox rfl), drained_keeps .cmds rfl⟩

theorem invalDrained_cmd {i : Inval} {x : Cmd} (h : s.crook.invals.find? (fun j => j.n = i.n) = some i) (hc : i.cmd = some x.id)
    (hx : cmdGet s x.id = some x) (hwork : x.work = .wait 2 i.n) (hw : releaseWaits s i = false) :
    (invalDrained i.n ns s).crook.invals = s.crook.invals.filter (fun j => j.n ≠ i.n)
      ∧ EndsWith (invalDrained i.n ns s) x.id x.status x.result := by
  have hx' : cmdGet (drained i.n ns s) x.id = some x := (cmdGet_congr (drained_keeps .cmds rfl)).trans hx
  rw [invalDrained_eq h hw, hc]
  dsimp only
  rw [hx', Option.any_some, decide_eq_true hwork, if_pos rfl]
  exact ⟨(congrArg Crook.invals (finish_keeps_self .crook rfl)).trans drained_invals, endsWith_finish hx'⟩

end

/-- Settles O53: each answer's row through the state in which the answer has arrived, each invalidation's through Crook's part. -/
theorem crookRows : Obligations.CrookRows := by
  unfold Obligations.CrookRows
  refine ⟨fun s d va size bus ns r w u q hsize hrw hq hf => ?_, fun s d va size bus ns r w u q hno hq hf => ?_,
    fun s d va size bus ns u q hsize hq hf hwait hreq hroom => ?_, fun s d va pcie ns q hq hf => ?_, fun s d va ns a q hq hf => ?_,
    fun s d va q hf hon hreq hinv hroom => ?_, fun s d va a q hf ha => ?_, fun s d va q hf => ?_,
    fun s d va q g boot es e hq hf hg he hv hbase hin hinv hroom => ?_, fun s d va pcie q g boot hq hf hg => ?_, fun s base len => ?_,
    fun s i ns h hc => ?_, fun s i x ns h hc hx hwork hw => ?_, fun s => ?_, fun s => rfl⟩
  · obtain ⟨hle, hlt, hsmall⟩ := atsEntry_covers (d := d) (va := va) (size := size) (bus := bus) (r := r) (w := w) (u := u)
    refine ⟨_, atsEntry d (pageOf va) size bus r w u, rfl, ?_, rfl, hle, hlt, hsmall, rfl, rfl, rfl, rfl, rfl, ?_⟩ <;>
      rw [atsCompletion_granted hsize hrw hq hf]
    · exact cachePut_head
    · rw [cachePut_rest, arrived_crook]
  · refine ⟨_, rfl, ?_⟩
    rw [atsCompletion_refused hno hq hf]
    exact xlatFails_arrived
  · obtain ⟨w, hcache, hreqs, hout⟩ := atsCompletion_asks (bus := bus) (u := u) (ns := ns) hsize hq hf hwait hreq hroom
    exact ⟨_, w, rfl, hcache, hreqs, hout⟩
  · refine ⟨_, rfl, ?_⟩
    rw [atsCompletion_eq hf, hq, if_neg Bool.false_ne_true]
    exact atsError_reports waitersKept_arrived (by rw [arrived_crook]) (arrived_keeps .chn rfl) (arrived_keeps .now rfl)
  · refine ⟨_, rfl, ?_⟩
    rw [atsCompletion_eq hf, hq, if_pos rfl, arrived_crook]
  · obtain ⟨w, hc, ho⟩ := pageResponse_again hf hon hreq hinv hroom
    exact ⟨_, w, rfl, hc, ho⟩
  · refine ⟨_, rfl, ?_⟩
    rw [pageResponse_failure hf ha]
    exact priFailed_leaves ((waitersKept_reqTaken (q := q)).trans (waitersKept_of rfl rfl rfl rfl))
  · refine ⟨_, rfl, ?_⟩
    rw [pageTimeout_eq hf]
    exact priFailed_leaves waitersKept_reqTaken
  · obtain ⟨hmem, hfailed⟩ := tableReadDone_caches hq hf hg he hv hbase hin hinv hroom
    exact ⟨_, _, rfl, hmem, rfl, rfl, rfl, rfl, rfl, rfl, hfailed⟩
  · refine ⟨_, rfl, ?_⟩
    rw [tableReadDone_refused hf hg hq]
    exact atsError_reports waitersKept_reqTaken rfl rfl rfl
  · obtain ⟨f, h⟩ := atsInvalidate_none (base := base) (len := len) (s := s)
    refine ⟨_, rfl, ?_⟩
    rw [h, beginInval_crook]
    exact ⟨rfl, invalBegun_withdraws⟩
  · exact ⟨_, rfl, invalDrained_host h hc⟩
  · exact ⟨_, rfl, invalDrained_cmd h hc hx hwork hw⟩
  · exact ⟨_, rfl, atsCleared_leaves⟩

end Sys2Proof.Machine

/-! SUPPORT. A shard's answer takes the fan-out's fabric work off the ledgers (R100, R393). -/
namespace Sys2Proof.Machine

/-- A fan-out that has sent its one sub-query, to peer 0. -/
def sentFan : Fan :=
  { shards := [{ peer := 0, coll := 0, shardId := 0, request := 0, report := none, entries := [], answered := false }]
    k := 1, kSel := 1, rerankN := 0, key := 0, h := 0, cut := false, enc := [], sent := true, sentAt := 0, subUs := 0, params := []
    codes := [], rq := [], filter := [], tset := [] }

/-- Its SEARCH_FANOUT in execution, charged for its fabric work (key 448: resource 7). -/
def fanningCmd : Cmd := { newCmd 1 0 (leBytes 128 0x32) 0 0 with phase := .executing, charges := [(448, 1)], work := .fan sentFan }

/-- The module with that command and its charge on the ledger, and a connected peer 0. -/
def fanningState : State :=
  { State.reset with
    cmds := [fanningCmd]
    ledgers := [(448, 1)]
    cst := { State.reset.cst with peers := [(0, { peerZero with enable := true, state := 2 })] } }

/-- The peer's answer: nothing found. -/
def emptyReport : ShardReport :=
  { viewEpoch := 0, horizon := 0, status := 0, shardId := 0, returned := 0, hflags := 0, tail := 0, stamp := 0, examined := 0, passed := 0 }

/-- With the answer the fan-out's fabric work is done, and its charge is off the ledger (R100). -/
theorem shardAnswer_uncharges : (shardAnswer 0 0 emptyReport [] fanningState).ledgers = [(448, 0)] := by decide +kernel

/-- Refutes O56: its third clause has a shard's answer change nothing but the commands, but the answer also takes the fan-out's share of
fabric work off the ledgers (R100). -/
theorem not_messageRows : ¬ Obligations.MessageRows := by
  unfold Obligations.MessageRows
  rintro ⟨-, -, hsubres, -⟩
  obtain ⟨t, y, ht, -, -, hframe⟩ := hsubres fanningState 0 0 emptyReport [] _ fanningCmd sentFan (by decide) rfl rfl rfl rfl rfl rfl
  have hrow : exec (.subres 0 0 emptyReport []) fanningState = .next (shardAnswer 0 0 emptyReport [] fanningState) := rfl
  obtain rfl : shardAnswer 0 0 emptyReport [] fanningState = t := Host.Outcome.next.inj (hrow.symm.trans ht)
  have hkept : (shardAnswer 0 0 emptyReport [] fanningState).ledgers = [(448, 1)] := hframe .ledgers (by decide)
  exact absurd (shardAnswer_uncharges.symm.trans hkept) (by decide)

end Sys2Proof.Machine

/-! SUPPORT and the statement of the management port: answers of vendor commands, HOLD and OFF by request, firmware banks and sessions
(R444, R446, R469, R480 to R488, R492). -/
namespace Sys2Proof.Machine

/-! ## Vendor commands (R481) -/

section
variable {s : State} {tr : Nat} {allowed : State → Bool} {f : State → State}

theorem vendor_unopened (hup : mctpUp s tr = true) (hbusy : s.sec.busy = false) (hses : tr ∉ s.sec.sessions) :
    vendor tr allowed f s = answer tr codeSession [] s := by simp [vendor, hup, hbusy, hses]

theorem vendor_disallowed (h : VendorReady s tr) (ha : allowed s = false) : vendor tr allowed f s = answer tr codeState [] s := by
  obtain ⟨hup, hbusy, hses⟩ := h
  simp [vendor, hup, hbusy, hses, ha]

theorem vendor_allowed (h : VendorReady s tr) (ha : allowed s = true) : vendor tr allowed f s = answer tr codeOK [] (f s) := by
  obtain ⟨hup, hbusy, hses⟩ := h
  simp [vendor, hup, hbusy, hses, ha]

/-- A token that fails its check changes no answer of one without a session. -/
theorem debugEnable_unopened {n : Nat} {b : Bool} (hup : mctpUp s tr = true) (hbusy : s.sec.busy = false) (hses : tr ∉ s.sec.sessions) :
    debugEnable tr n b s = answer tr codeSession [] s := by
  cases b with
  | true => exact vendor_unopened hup hbusy hses
  | false =>
    rw [debugEnable, if_neg Bool.false_ne_true, if_neg (by simp [hses])]
    exact vendor_unopened hup hbusy hses

theorem debugEnable_refused {n : Nat} (h : VendorReady s tr) (hr : mgmtReady s = true) :
    debugEnable tr n false s = answer tr codeBad [] (tokenFails s) := by
  obtain ⟨hup, hbusy, hses⟩ := h
  rw [debugEnable, if_neg Bool.false_ne_true, if_pos (by simp [hup, hbusy, hses, hr])]

end

/-! ## HOLD and OFF (R444, R446) -/

/-- From `s` to `t` the mode, the causes of HOLD and a pending save of the map are the same. -/
structure HoldKept (s t : State) : Prop where
  mode : t.chn.mode = s.chn.mode
  causes : t.chn.causes = s.chn.causes
  pending : t.chn.mapPending = s.chn.mapPending

section
variable {s t u : State} {cause kind : Nat}

theorem HoldKept.refl : HoldKept s s := ⟨rfl, rfl, rfl⟩

theorem HoldKept.trans (h : HoldKept s t) (h' : HoldKept t u) : HoldKept s u :=
  ⟨h'.mode.trans h.mode, h'.causes.trans h.causes, h'.pending.trans h.pending⟩

theorem holdKept_of_chn (h : t.chn = s.chn) : HoldKept s t := by
  refine ⟨?_, ?_, ?_⟩ <;> rw [h]

theorem holdKept_raise {b : Blk} {ev : Ev} : HoldKept s (raise b ev s) := by
  obtain ⟨_, _, _, _, h⟩ := raise_chn_logs (b := b) (ev := ev) (s := s)
  refine ⟨?_, ?_, ?_⟩ <;> rw [h]

theorem holdKept_finish {c : Nat} {f : Cmd → Cmd} : HoldKept s (finish c f s) := ⟨rfl, rfl, rfl⟩

theorem holdKept_failCmd {c status : Nat} {f : Option CmdFault} : HoldKept s (failCmd c status f s) := by
  rw [failCmd]
  split
  · exact .refl
  · refine HoldKept.trans ?_ holdKept_finish
    cases f with
    | none => exact .refl
    | some g => exact holdKept_of_chn (blkFault_keeps (κ := 192) rfl keeps_refl .chn rfl)

theorem holdKept_stopDrone : HoldKept s (stopDrone s) := by
  unfold stopDrone
  refine inv_foldl (P := HoldKept s) (fun t p ht => ht.trans (HoldKept.trans (holdKept_of_chn ?_) holdKept_raise)) .refl
  exact endRun_keeps (κ := 75497472) rfl keeps_refl .chn rfl

/-- Changing the mode leaves the causes. -/
theorem setMode_causes {m : Mode} : (setMode m s).chn.causes = s.chn.causes ∧ (setMode m s).chn.mapPending = s.chn.mapPending := by
  unfold setMode
  split
  · exact ⟨rfl, rfl⟩
  · exact ⟨holdKept_raise.causes, holdKept_raise.pending⟩

/-- A cause of HOLD is set and is to be saved; a module in a mode of service enters HOLD. -/
theorem enterHold_leaves : (enterHold cause kind s).chn.causes = s.chn.causes ||| BitVec.ofNat 5 (2 ^ cause)
    ∧ (enterHold cause kind s).chn.mapPending = true ∧ (s.chn.mode ≠ .off → (enterHold cause kind s).chn.mode = .hold) := by
  rw [enterHold_eq]
  dsimp only
  split
  · have hkept := inv_foldl (P := HoldKept (setMode .hold (holdCaused cause kind s)))
      (f := fun s x => failCmd x.id stHold none s) (l := (stopDrone (setMode .hold (holdCaused cause kind s))).cmds.filter holdStops)
      (fun t x ht => ht.trans holdKept_failCmd) holdKept_stopDrone
    obtain ⟨hcauses, hpending⟩ := setMode_causes (m := .hold) (s := holdCaused cause kind s)
    exact ⟨hkept.causes.trans hcauses, hkept.pending.trans hpending, fun _ => hkept.mode.trans setMode_mode⟩
  · next hmode =>
    refine ⟨rfl, rfl, fun hon => ?_⟩
    have hhold : s.chn.mode = .hold := by
      cases h : s.chn.mode with
      | full => exact absurd (.inl h) hmode
      | spared => exact absurd (.inr h) hmode
      | hold => rfl
      | off => exact absurd h hon
    exact hhold

/-- The state with the management port's cause of HOLD cleared. -/
def causeCleared (s : State) : State := chnMod (fun c => { c with causes := c.causes &&& 0b01111#5, mapPending := true }) s

theorem holdCleared_eq (h : s.chn.causes.getLsbD 4 = true) : holdCleared s
    = if (causeCleared s).chn.causes = 0 ∧ (causeCleared s).chn.mode = .hold then setMode (modeAtStart (causeCleared s)) (causeCleared s)
      else causeCleared s := by
  rw [holdCleared, h]
  rfl

/-- The cause of the management port is the last bit of five. -/
theorem causes_cleared_zero {b : BitVec 5} (h : b.getLsbD 4 = true) : b &&& 0b01111#5 = 0 ↔ b = 0b10000#5 := by
  revert b
  decide

theorem modeAtStart_free (h : s.chn.causes = 0) : modeAtStart s = .full ∨ modeAtStart s = .spared := by
  rw [modeAtStart, if_neg (not_not.mpr h)]
  split
  · exact .inr rfl
  · exact .inl rfl

theorem holdCleared_leaves (h : s.chn.causes.getLsbD 4 = true) : (holdCleared s).chn.causes = s.chn.causes &&& 0b01111#5
    ∧ (s.chn.causes = 0b10000#5 → s.chn.mode = .hold → (holdCleared s).chn.mode = .full ∨ (holdCleared s).chn.mode = .spared)
    ∧ (s.chn.causes ≠ 0b10000#5 → (holdCleared s).chn.mode = s.chn.mode) := by
  have hcauses : (causeCleared s).chn.causes = s.chn.causes &&& 0b01111#5 := rfl
  have hmode : (causeCleared s).chn.mode = s.chn.mode := rfl
  rw [holdCleared_eq h]
  split
  · next hlast =>
    refine ⟨setMode_causes.1, fun _ _ => ?_, fun hne => absurd ((causes_cleared_zero h).mp hlast.1) hne⟩
    rw [setMode_mode]
    exact modeAtStart_free hlast.1
  · next hmore => exact ⟨hcauses, fun hc hm => absurd ⟨hcauses.trans ((causes_cleared_zero h).mpr hc), hm⟩ hmore, fun _ => hmode⟩

theorem goOff_sec (hon : s.chn.mode ≠ .off) : (goOff s).sec = s.sec := by
  have hoff : goOff s = beginLoss (drainAll (setMode .off s)) := if_neg hon
  have hlose : ∀ t, (beginLoss t).sec = t.sec := fun _ => rfl
  rw [hoff, hlose]
  exact (eventDrainFrame _ .sec (by decide)).trans (setMode_keeps (κ := 2684485704) rfl keeps_refl .sec rfl)

/-- A module at READY goes OFF by way of its power-loss sequence. -/
theorem offNow_ready (hs : s.chn.stage = 6) (hon : s.chn.mode ≠ .off) : (offNow s).chn.mode = .off ∧ (offNow s).chn.losing = true
    ∧ (offNow s).sec = { s.sec with busy := true } := by
  have hrow : offNow s = goOff (setBusy s) := by rw [offNow, if_neg hon, if_pos hs]
  have hon' : (setBusy s).chn.mode ≠ .off := hon
  obtain ⟨hmode, hlosing, -⟩ := goOff_of_on hon'
  rw [hrow]
  exact ⟨hmode, hlosing, goOff_sec hon'⟩

/-- One that has not reached READY is OFF at once, and no start is due. -/
theorem offNow_starting (hs : s.chn.stage ≠ 6) (hon : s.chn.mode ≠ .off) : (offNow s).chn.mode = .off
    ∧ (offNow s).pins.coldPending = none := by
  have hrow : offNow s = pinMod (fun p => { p with coldPending := none }) (setMode .off s) := by rw [offNow, if_neg hon, if_neg hs]
  rw [hrow]
  exact ⟨setMode_mode, rfl⟩

end

/-! ## Debug and firmware (R484, R485, R492) -/

section
variable {s : State} {c svn release n : Nat} {ok : Bool}

theorem debugStart_leaves : (debugStart n s).sec = { s.sec with debug := true } ∧ Raised s (debugStart n s) 0x0121 1 :=
  ⟨raise_keeps_self .sec rfl, raised_raise.of_eq rfl rfl⟩

theorem tokenFails_sec : (tokenFails s).sec = s.sec := bumpSat_keeps (κ := 192) rfl (blkFault_keeps rfl keeps_refl) .sec rfl

theorem bankOf_putBank {b : Bool} {k : FwBank} {x : Security} (hc : c = 1 ∨ c = 2) :
    bankOf c b (putBank c b k x) = k ∧ bankOf c (!b) (putBank c b k x) = bankOf c (!b) x := by
  rcases hc with rfl | rfl
  · cases b <;> exact ⟨rfl, rfl⟩
  · cases b <;> exact ⟨rfl, rfl⟩

theorem firmwareUpdate_good (hc : c = 1 ∨ c = 2) (hlo : s.sec.fuse ≤ svn) (hhi : svn ≤ 63) : firmwareUpdate c svn release true s
    = emit (.pldmVerify c true) (secMod (putBank c (updateBank s c) { valid := true, svn := svn, release := release }) s) := by
  rw [firmwareUpdate, if_neg (by omega), if_pos ⟨rfl, hlo, hhi⟩]

/-- An image that fails a check is counted, in a package with power, and reported. -/
theorem firmwareUpdate_bad (hc : c = 1 ∨ c = 2) (hbad : ok = false ∨ svn < s.sec.fuse ∨ 63 < svn) :
    ∃ u, firmwareUpdate c svn release ok s = emit (.pldmVerify c false) u ∧ Keeps 192 s u := by
  have hnot : ¬(ok = true ∧ s.sec.fuse ≤ svn ∧ svn ≤ 63) := by
    rintro ⟨rfl, hlo, hhi⟩
    exact absurd hbad (by simp; omega)
  rw [firmwareUpdate, if_neg (by omega), if_neg hnot]
  dsimp only
  split
  · exact ⟨_, rfl, bumpSat_keeps rfl (blkFault_keeps rfl keeps_refl)⟩
  · exact ⟨_, rfl, keeps_refl⟩

/-- A component with a valid updated bank is staged. -/
def stagedWith (c : Nat) (s : State) : State := secMod (fun x => { x with staged := insertNat c x.staged }) s

theorem activateFirmware_eq (hc : c = 1 ∨ c = 2) (hv : (bankOf c (updateBank s c) s.sec).valid = true) :
    ∃ info, activateFirmware c s = if powered s then raise .sec (mkEv 0x0122 0 .sec 0 0xFFFF 0 info 0 0) (stagedWith c s) else stagedWith c s := by
  have hok : ¬((c ≠ 1 ∧ c ≠ 2) ∨ (bankOf c (updateBank s c) s.sec).valid = false) := by
    rw [hv]
    rintro (⟨h1, h2⟩ | h)
    · exact hc.elim h1 h2
    · cases h
  unfold activateFirmware
  dsimp only
  rw [if_neg hok]
  exact ⟨_, rfl⟩

theorem activateFirmware_leaves (hc : c = 1 ∨ c = 2) (hv : (bankOf c (updateBank s c) s.sec).valid = true) :
    (∀ n, n ∈ (activateFirmware c s).sec.staged ↔ n = c ∨ n ∈ s.sec.staged)
      ∧ (powered s = true → Raised s (activateFirmware c s) 0x0122 0) := by
  obtain ⟨info, h⟩ := activateFirmware_eq hc hv
  have hstaged : (stagedWith c s).sec.staged = insertNat c s.sec.staged := rfl
  rw [h]
  split
  · rw [show (raise .sec _ (stagedWith c s)).sec = (stagedWith c s).sec from raise_keeps_self .sec rfl, hstaged]
    exact ⟨fun n => mem_insertNat, fun _ => raised_raise.of_eq rfl rfl⟩
  · next hp =>
    rw [hstaged]
    exact ⟨fun n => mem_insertNat, fun h => absurd h hp⟩

end

/-! ## Sessions (R486) -/

section
variable {s : State} {tr : Nat} {d : List Byte}

theorem spdmRequest_opens (h : transportUp s tr = true) : ∃ a, spdmRequest tr 0xE4 d s
    = secMod (fun x => { x with sessions := insertNat tr x.sessions }) (emit (.spdm tr a) s) := by
  rw [spdmRequest, h]
  exact ⟨_, rfl⟩

theorem spdmRequest_closes (h : transportUp s tr = true) : ∃ a, spdmRequest tr 0xEC d s
    = secMod (fun x => { x with sessions := x.sessions.filter (· ≠ tr) }) (emit (.spdm tr a) s) := by
  rw [spdmRequest, h]
  exact ⟨_, rfl⟩

theorem secMod_emit_frame {o : Out} {f : Security → Security} : Frame [.sec, .outbox] s (secMod f (emit o s)) :=
  frame_of_keeps (upd_sec (by decide) (emit_keeps (by decide) keeps_refl))

theorem emit_secMod_frame {o : Out} {f : Security → Security} : Frame [.sec, .outbox] s (emit o (secMod f s)) :=
  frame_of_keeps (emit_keeps (by decide) (upd_sec (by decide) keeps_refl))

end

/-! ## Resets and FORMAT by request (R469, R488) -/

section
variable {s : State} {tr : Nat}

theorem coldResetNow_ready (h : mgmtReady s = true) :
    coldResetNow s = beginLoss (setBusy (pinMod (fun p => { p with coldPending := some 2 }) s)) := if_pos h

theorem coldResetNow_unready (h : mgmtReady s = false) :
    coldResetNow s = chnMod (fun c => { c with stage := 0 }) (setBusy (pinMod (fun p => { p with coldPending := some 2 }) s)) :=
  if_neg (ne_true_of_eq_false h)

theorem answer_coldReset_frame : Frame [.outbox, .pins, .sec, .chn] s (answer tr codeOK [] (coldResetNow s)) :=
  frame_of_keeps (emit_keeps (by decide) (coldResetNow_keeps (by decide) keeps_refl))

theorem formatNow_leaves : (formatNow s).outbox = s.outbox ∧ (formatNow s).pins = { s.pins with coldPending := some 2 }
    ∧ (formatNow s).bag = { s.bag with mediaKeyNo := s.bag.mediaKeyNo + 1, rootsErased := true, rootsValid := false, oldRoot := none }
    ∧ (formatNow s).sec = { s.sec with mediaKey := true, busy := true } ∧ (formatNow s).chn = { s.chn with stage := 0 } := by
  unfold formatNow
  dsimp only [setBusy, bagMod, secMod, chnMod, pinMod]
  exact ⟨rfl, rfl, rfl, rfl, rfl⟩

theorem answer_format_frame : Frame [.outbox, .pins, .sec, .chn, .bag] s (answer tr codeOK [] (formatNow s)) :=
  frame_of_keeps (emit_keeps (by decide) (formatNow_keeps (by decide) keeps_refl))

end

/-- Settles O58: each vendor command's row is its answer behind its effect, and what an effect raises leaves the rest. -/
theorem managementRows : Obligations.ManagementRows := by
  unfold Obligations.ManagementRows
  refine ⟨fun s tr hup => ?_, fun s tr n k i hup hbusy hses hi => ?_, fun s tr n b i hup hbusy hses hi => ?_, fun s tr h hr => ?_,
    fun s tr h hp hs hon => ?_, fun s tr h hp hs hon => ?_, fun s tr h hp hr => ?_, fun s tr h hp hr => ?_, fun s tr h hr => ?_,
    fun s tr h hr => ?_, fun s tr h hr hc => ?_, fun s tr h ha => ?_, fun s tr n h hp hn => ?_, fun s tr n k h hp hn => ?_,
    fun s tr n h hr => ?_, fun s tr n h hr => ?_, fun s c svn release hc hlo hhi => ?_, fun s c svn release ok hc hbad => ?_,
    fun s c hc hv => ?_, fun s tr d hup => ?_, fun s tr d hup => ?_, fun s tr => rfl, fun s tr eid hup => ?_, fun s tr eid hup => ?_⟩
  · exact congrArg Host.Outcome.next (if_pos hup)
  · have hno : ∀ {allowed f}, (.next (vendor tr allowed f s) : Host.Outcome State Fault Refusal)
        = .next { s with outbox := s.outbox ++ [.mgmt tr 2 []] } := congrArg _ (vendor_unopened hup hbusy hses)
    simp only [List.mem_cons, List.not_mem_nil, or_false] at hi
    rcases hi with rfl | rfl | rfl | rfl | rfl <;> exact hno
  · have hno : ∀ {allowed f}, (.next (drainAll (vendor tr allowed f s)) : Host.Outcome State Fault Refusal)
        = .next (drainAll { s with outbox := s.outbox ++ [.mgmt tr 2 []] }) :=
      congrArg (fun t => Host.Outcome.next (drainAll t)) (vendor_unopened hup hbusy hses)
    simp only [List.mem_cons, List.not_mem_nil, or_false] at hi
    rcases hi with rfl | rfl | rfl | rfl
    · exact hno
    · exact hno
    · exact hno
    · exact congrArg (fun t => Host.Outcome.next (drainAll t)) (debugEnable_unopened hup hbusy hses)
  · exact congrArg Host.Outcome.next (vendor_disallowed h hr)
  · obtain ⟨hmode, hlosing, hsec⟩ := offNow_ready hs hon
    exact ⟨_, _, congrArg (fun t => Host.Outcome.next (drainAll t)) (vendor_allowed h hp), hmode, hlosing, hsec, rfl⟩
  · obtain ⟨hmode, hcold⟩ := offNow_starting hs hon
    exact ⟨_, _, congrArg (fun t => Host.Outcome.next (drainAll t)) (vendor_allowed h hp), hmode, hcold, rfl⟩
  · refine ⟨_, congrArg Host.Outcome.next (vendor_allowed h hp), ?_, ?_, ?_, ?_, answer_coldReset_frame⟩ <;>
      rw [coldResetNow_ready hr] <;> rfl
  · refine ⟨_, congrArg Host.Outcome.next (vendor_allowed h hp), ?_, ?_, ?_, ?_, answer_coldReset_frame⟩ <;>
      rw [coldResetNow_unready hr] <;> rfl
  · exact congrArg Host.Outcome.next (vendor_allowed h hr)
  · obtain ⟨hcauses, hpending, hmode⟩ := enterHold_leaves (cause := 4) (kind := 0) (s := s)
    exact ⟨_, _, congrArg (fun t => Host.Outcome.next (drainAll t)) (vendor_allowed h hr), hcauses, hpending, hmode, rfl⟩
  · obtain ⟨hcauses, hlast, hmore⟩ := holdCleared_leaves hc
    exact ⟨_, _, congrArg (fun t => Host.Outcome.next (drainAll t)) (vendor_allowed h hr), hcauses, rfl, hlast, hmore⟩
  · obtain ⟨hout, hpins, hbag, hsec, hchn⟩ := formatNow_leaves (s := s)
    exact ⟨_, congrArg Host.Outcome.next (vendor_allowed h ha), congrArg (· ++ _) hout, hpins, hbag, hsec, hchn, answer_format_frame⟩
  · refine (congrArg Host.Outcome.next (vendor_allowed h hp)).trans ?_
    rw [Nat.mod_eq_of_lt hn]
    rfl
  · refine (congrArg Host.Outcome.next (vendor_allowed h hp)).trans ?_
    rw [Nat.mod_eq_of_lt hn]
    rfl
  · obtain ⟨hsec, hraised⟩ := debugStart_leaves (n := n) (s := s)
    exact ⟨_, _, congrArg (fun t => Host.Outcome.next (drainAll t)) (vendor_allowed h hr), hsec, hraised.of_logsKept ⟨rfl, rfl⟩, rfl⟩
  · exact ⟨_, _, congrArg (fun t => Host.Outcome.next (drainAll t)) (debugEnable_refused h hr), tokenFails_sec, rfl⟩
  · obtain ⟨hnew, hold⟩ := bankOf_putBank (b := updateBank s c) (k := { valid := true, svn := svn, release := release }) (x := s.sec) hc
    exact ⟨_, congrArg Host.Outcome.next (firmwareUpdate_good hc hlo hhi), rfl, hnew, hold, emit_secMod_frame⟩
  · obtain ⟨u, hrow, hu⟩ := firmwareUpdate_bad (release := release) hc hbad
    exact ⟨_, congrArg Host.Outcome.next hrow, congrArg (· ++ _) (hu .outbox rfl), hu .sec rfl⟩
  · exact ⟨_, rfl, activateFirmware_leaves hc hv⟩
  · obtain ⟨a, hrow⟩ := spdmRequest_opens (d := d) hup
    exact ⟨_, a, congrArg Host.Outcome.next hrow, rfl, fun n => mem_insertNat, secMod_emit_frame⟩
  · obtain ⟨a, hrow⟩ := spdmRequest_closes (d := d) hup
    exact ⟨_, a, congrArg Host.Outcome.next hrow, rfl, rfl, secMod_emit_frame⟩
  · exact ⟨_, congrArg Host.Outcome.next (if_pos hup), tget_tset_same, rfl, emit_secMod_frame⟩
  · exact congrArg Host.Outcome.next (if_pos hup)

end Sys2Proof.Machine

/-! SUPPORT. A link trains at the rates and widths of Table 3.1 alone (R65). -/
namespace Sys2Proof.Machine

/-- A report of any other rate or width changes nothing. -/
theorem linkChanged_of_unsupported {s : State} {rate width : Nat} {l0p flit : Bool} (h : linkSupports rate width = false) :
    linkChanged rate width l0p flit s = s := by
  rw [linkChanged, h]
  rfl

/-- Refutes O52: its ninth clause has every report of the link put its word in MPC_LINK and raise an event, but at a rate and a width that
Table 3.1 does not list, such as a width of no lanes, the link does not train and nothing changes (R65). -/
theorem not_resetRows : ¬ Obligations.ResetRows := by
  unfold Obligations.ResetRows
  rintro ⟨-, -, -, -, -, -, -, -, hlink, -⟩
  obtain ⟨-, t, ht, -, hseq, -⟩ := hlink State.reset 64 0 false false
  have hrow : exec (.linkChanged 64 0 false false) State.reset = .next (drainAll (linkChanged 64 0 false false State.reset)) := rfl
  rw [linkChanged_of_unsupported (by decide)] at hrow
  have hchn : (drainAll State.reset).chn = (drainAll t).chn := congrArg State.chn (Host.Outcome.next.inj (hrow.symm.trans ht))
  rw [eventDrainFrame State.reset .chn (by decide), eventDrainFrame t .chn (by decide)] at hchn
  rw [← hchn] at hseq
  exact absurd hseq (Nat.ne_of_lt (Nat.lt_succ_self _))

end Sys2Proof.Machine
